-- ==== Sys2Proof/Word.lean ====
section
/-!
DEFINITION. The word types of the model.
-/

namespace Sys2Proof

/-- A byte of a frame, an entry or a memory. -/
abbrev Byte := BitVec 8

/-- A 64-bit register, cell or memory word. -/
abbrev Word := BitVec 64

end Sys2Proof
end

