-- ==== Sys2Proof/Machine/Regs.lean ====
section
/-!
DEFINITION. The register map of the device: every register of the spec's register tables (R17, R31, R44, R79, R106,
R140, R181, R184, R211, R213, R215, R249, R272, R294, R320, R351, R373, R404, R441, R456, R474, R501, R503, R505, R530),
its place in the Management Function's BAR0 (R14, R15), its reset value, and its fields with their access codes (R4) and
Apply classes (R7). Names are the manual's; an instance suffix (n, m, p, ...) of the manual is an index here.
-/

namespace Sys2Proof.Machine

/-- Every register of the spec's register tables, once per kind; `STU_SPAN_LOGIC` and `QE_Q_LOGIC` hold the part of
`STU_SPAN_STATUS` and `QE_Q_STATUS` that belongs to the command logic and not to the selected object (R534). -/
inductive Reg where
  | TOP_ID | TOP_GRADE | TOP_STRAP | TOP_CLK_STATUS | TOP_UPTIME | TOP_SCRATCH | RLC_STATUS | RLC_CE_CNT
  | RLC_UE_CNT | RLC_UE_ADDR | RLC_ACCESS_CNT | RLC_EVT | RLC_EVT_EN | RLC_MSIX_VEC | CFG_CMD | CFG_STATUS
  | CFG_STAGE_ADDR | CFG_STAGE_LEN | CFG_DRAIN_LIMIT | CFG_MIN_SVN | CFG_ACTIVE_VER | CFG_PREV_VER | CFG_STAGED_VER | CFG_LAST_SWAP
  | CFG_HOLD_PEAK | CFG_REBUILT | CFG_HOST_PENDING | CFG_SWAP_CNT | CFG_MSIX_VEC | VS_ADDR | VS_DATA_LO | VS_DATA_HI
  | HEP_BIFUR | HEP_MGMT_LINK | HEP_LINK_STATE | HEP_LINK_EVT | HEP_LINK_EVT_EN | HEP_MSIX_VEC | HEP_CPL_TO_CNT | HEP_LATE_CPL
  | HEP_TO_CAPTURE | HEP_POISON_CNT | HEP_DROP_CNT | HEP_MGMT_PATH | HEP_TDISP_LOCKED | HEP_TDISP_EVT | HEP_LINK_INFO | HEP_LINK_TAGS
  | HEP_LINK_CPL_TO | HEP_LINK_SPAN_MAP | STU_SPAN_SEL | STU_SPAN_CMD | STU_SPAN_STATUS | STU_CTX_XLATE | STU_LOG_CTL | STU_LOG_BASE_A
  | STU_LOG_BASE_B | STU_XFER_ADDR | STU_WIN_SEL | STU_WIN_BASE | STU_WIN_TARGET | STU_WIN_CTL | STU_WIN_COMMIT | STU_WIN_STATUS
  | STU_INV_ADDR | STU_INV_CMD | STU_INV_STATUS | STU_RCV_CMD | STU_RCV_ARG0 | STU_RCV_ARG1 | STU_RCV_STATUS | STU_FAULT_CAPTURE
  | STU_FAULT_CNT | STU_WIN_MISS | STU_EVT | STU_EVT_EN | STU_MSIX_VEC | STU_DRAINED_MAP | STU_LATE_MAP | STU_QREQ_MAP
  | QE_Q_SEL | QE_Q_CMD | QE_Q_STATUS | QE_CTX_RING | QE_CTX_CFG | QE_CTX_MOD | QE_CTX_EVT | QE_CTX_IDX
  | QE_CTX_CNT | QE_ERR_CNT | QE_ERR_CAPTURE | QE_RX_DROP_CNT | QE_EVT | QE_EVT_EN | QE_MSIX_VEC | QE_CACHE_USE
  | MBX_SEL | MBX_TO | MBX_FROM | MBX_STATUS | MBX_ROUTE | MBX_EVT | MBX_EVT_EN | MBX_MSIX_VEC
  | MBX_FULL_MAP | MAC_DIST_HASH_CFG | MAC_DIST_PIER_MAP | MAC_DIST_SVC | MAC_DIST_DEF_CNT | PRS_GRAPH_INFO | PRS_LIMITS | PRS_CNT
  | PRS_FRAG_CNT | PRS_EGR_FAIL_CNT | PRS_ERR_CAPTURE | PRS_STORE_ERR | CLS_SP_RATE | CLS_SP_BURST | CLS_SP_TOKENS | CLS_SP_TARGET
  | CLS_SP_ADMIT_CNT | CLS_POLICE_CNT | CLS_RULE_SEL | CLS_RULE_CMD | CLS_RULE_STATUS | CLS_RULE_ACT | CLS_ERR_CAPTURE | CLS_STORE_ERR
  | CLS_MISROUTE_CNT | CLS_RULE_KEY | CLS_RULE_MASK | CLS_SP_DROP | CLS_SET | TBL_INFO | TBL_CMDQ_BASE | TBL_CMDQ_CTL
  | TBL_CMDQ_DB | TBL_CMDQ_STATUS | TBL_EVQ_BASE | TBL_EVQ_CTL | TBL_EVQ_CI | TBL_EVQ_STATUS | TBL_LEARN_CFG | TBL_LEARN_CNT
  | TBL_LEARN_DROP | TBL_FC_CMD | TBL_FC_STATUS | TBL_FC_CNT | TBL_MISS_STATUS | TBL_ACT_CNT | TBL_ERR_CNT | TBL_POISON_CNT
  | TBL_ERR_CAPTURE | TBL_EVT | TBL_EVT_EN | TBL_MSIX_VEC | TBL_SCHEMA | TBL_SWEEP | BPM_INFO | BPM_REGION
  | BPM_POOL_SEL | BPM_POOL_RANGE | BPM_POOL_ACCTS | BPM_POOL_WM | BPM_POOL_STATUS | BPM_POOL_CNT | BPM_ACCT_SEL | BPM_ACCT_LIMIT
  | BPM_ACCT_USE | BPM_ACCT_DROP | BPM_BUF_CMD | BPM_BUF_ARG | BPM_BUF_STATUS | BPM_BUF_REC | BPM_SWEEP_ADDR | BPM_SWEEP_MAX
  | BPM_SWEEP_STATUS | BPM_ERR_CNT | BPM_ERR_CAPTURE | BPM_STORE_ERR | BPM_EVT | BPM_EVT_EN | BPM_MSIX_VEC | TMS_INFO
  | TMS_TICK | TMS_NODE_SEL | TMS_NODE_TREE | TMS_NODE_QUANTUM | TMS_NODE_CIR | TMS_NODE_PIR | TMS_NODE_CBS | TMS_NODE_PBS
  | TMS_NODE_OVERHEAD | TMS_NODE_TOKENS | TMS_NODE_STATE | TMS_Q_LIMIT | TMS_Q_DEPTH | TMS_Q_DROP | TMS_POL_SEL | TMS_POL_CIR
  | TMS_POL_PIR | TMS_POL_CBS | TMS_POL_PBS | TMS_POL_CTL | TMS_POL_TOKENS | TMS_POL_CNT | TMS_STORE_ERR | TMS_ERR_CAPTURE
  | MAC_CTL | MAC_STATUS | MAC_ADDR | MAC_FC_CTL | MAC_FC_STATUS | MAC_PCP_MAP | MAC_TAG_CTL | MAC_SECY_CTL
  | MAC_STAT_SNAP | MAC_EVT | MAC_EVT_EN | MAC_MSIX_VEC | MAC_STORE_ERR | MAC_CBS | MAC_CBS_CREDIT | MAC_STAT
  | MAC_PORT_CFG | MAC_PORT_CMD | MAC_PORT_STATUS | MAC_FC_WM | MAC_WAKE_CTL | MAC_WAKE_ADDR | MAC_WAKE_STATUS | MAC_WAKE_PAT
  | MAC_WAKE_MASK | MAC_DIST_DROP | TIM_CTL | TIM_SERVO | TIM_NOW | TIM_NOW_FRAC | TIM_INCR | TIM_ADJ_ARG
  | TIM_SLEW_TICKS | TIM_ADJ_CMD | TIM_ADJ_STATUS | TIM_ADJ_DROP | TIM_SERVO_UPD | TIM_STATE | TIM_BOUND | TIM_ASYM
  | TIM_HOLD_CFG | TIM_LIMITS | TIM_LEAP | TIM_LEAP_TIME | TIM_TP_CTL | TIM_PTM_CTL | TIM_LAUNCH_CTL | TIM_LAUNCH_CNT
  | TIM_PPS_OUT | TIM_REF10M_CAP | TIM_REF10M_STATUS | TIM_GNSS_CTL | TIM_GNSS_RX | TIM_GNSS_TX | TIM_GNSS_STATUS | TIM_GNSS_LINE_TS
  | TIM_EVT | TIM_EVT_EN | TIM_MSIX_VEC | TIM_ERR_CNT | TIM_TP_ADDR | TIM_PTM_STATUS | TIM_CAP_CTL | TIM_CAP_HI
  | TIM_CAP_LO | TIM_CAP_STATUS | TIM_TOUT_CTL | TIM_TOUT_START | TIM_TOUT_PERIOD | TIM_TOUT_WIDTH | TIM_SYNCE | TIM_ONESTEP
  | TIM_CAL_RX | TIM_CAL_TX | CIP_SA_SEL | CIP_SA_CMD | CIP_SA_STATUS | CIP_SA_CFG | CIP_SA_SPI | CIP_SA_PN
  | CIP_SA_SOFT | CIP_SA_CNTIDX | CIP_SA_STATE | CIP_SA_NEXT | CIP_SA_ERRCNT | CIP_SA_KEY | CIP_SA_SALT_0 | CIP_SA_SALT_1
  | CIP_RXSC_SEL | CIP_RXSC_SCI | CIP_RXSC_SA | CIP_RXSC_CTL | CIP_MSEC_TX | CIP_RAW_WIN | CIP_DROP_CNT | CIP_FORMAT_CNT
  | CIP_DUP_CNT | CIP_STORE_ERR | CIP_ERR_CAPTURE | CIP_EVT | CIP_EVT_EN | CIP_MSIX_VEC | CIP_SOFT_MAP | CIP_EXH_MAP
  | TRS_INFO | TRS_CYCLE | TRS_CMD | TRS_STATUS | TRS_THR_SEL | TRS_THR_STATE | TRS_THR_PC | TRS_THR_FAULT
  | TRS_FAULT_MAP | TRS_SUP_CAUSE | TRS_EQ_STATUS | TRS_ISSUE_CNT | TRS_BUBBLE_CNT | TRS_THR_CNT | TRS_EVT | TRS_EVT_EN
  | TRS_MSIX_VEC | TRS_STORE_ERR | TRS_ERR_CAPTURE | TRS_RAIL | SPM_INFO | SPM_BAY_SEL | SPM_BAY_OWNER | SPM_BAY_PWR
  | SPM_BAY_STATUS | SPM_MGMT_ADDR | SPM_MGMT_DATA | SPM_ERR_CNT | SPM_ERR_CAPTURE | SPM_STORE_ERR | SPM_EVT | SPM_EVT_EN
  | SPM_MSIX_VEC | SPM_CONF_CNT | DMA_INFO | DMA_CH_SEL | DMA_CH_CFG | DMA_CH_RING | DMA_CH_CTL | DMA_CH_DB
  | DMA_CH_STATUS | DMA_CH_CNT | DMA_ERR_CNT | DMA_ERR_CAPTURE | DMA_EVT | DMA_EVT_EN | DMA_MSIX_VEC | FCU_SAFE_CMD
  | FCU_SAFE_STATUS | FCU_PIN | FCU_EVT | FCU_EVT_EN | FCU_MSIX_VEC | FCU_CAP | FCU_DETAIL | FCU_TIME
  | FCU_CNT | SEC_LC | SEC_UID | SEC_UID_HI | SEC_CMD | SEC_STATUS | SEC_ARG_SEL | SEC_ARG
  | SEC_BOOT_STATUS | SEC_SVN | SEC_KEYS | SEC_EVT | SEC_EVT_EN | SEC_MSIX_VEC | PWR_CMD | PWR_STATUS
  | PWR_DOMAINS | PWR_WAKE_CNT | PWR_STANDBY_WAKE | PWR_EVT | PWR_EVT_EN | PWR_MSIX_VEC | DBG_CMD | DBG_STATUS
  | DBG_TOKEN_DATA | DBG_TOKEN_PTR | DBG_NONCE | DBG_THR_SEL | DBG_THR_CMD | DBG_THR_STATUS | DBG_REG_SEL | DBG_REG_DATA
  | DBG_SPM_ADDR | DBG_SPM_DATA | DBG_REMAIN | PWR_TJ_CFG | PWR_TJ_STATUS | PWR_TJ_PEAK | PWR_TJ_EQ | PWR_SUPPLY_STATUS
  | PWR_AGE_CFG | PWR_BOARD | PWR_TJ | PWR_SUPPLY | PWR_AGE
  | STU_SPAN_LOGIC | QE_Q_LOGIC
  deriving DecidableEq, Repr

/-- The boundaries at which a written Epoch value takes effect, as the fields' Apply cells name them (R7). -/
inductive Boundary where
  | stageHost | commitRollback | logEnOrSwap | transfer | winCommit | entryFetched | fetch | portPacket
  | pierPacket | sweepPass | poolCharge | acctCharge | sweepBuffers | drrAddition | tick | portPick
  | macRxOrChecked | portRestart | controlEvent | controlSent | macRx | macTx | macFrame | macSelect
  | timeTick | slew | pageUpdate | ptmDialog | fifoHead | ppsPulse | toutCtl | synceEdge
  | laneFrame | install | installOrSoft | protectFrame | keyLoad | handoverEnd | bayPwrEnd | burstSelect
  | faultPulse | logEn | cmdqEn | evqEn | dmaEn | slowRefill
  deriving DecidableEq, Repr

/-- Access codes of R4 (RWS and RWL have no field in the register tables). -/
inductive Access where | rw | ro | w1c | w1s | wo | rc
  deriving DecidableEq, Repr

/-- Apply classes of R7; `fixed` is the dash of a read-only field. -/
inductive Apply where | immediate | epoch (b : Boundary) | quiesced | image | fixed
  deriving DecidableEq, Repr

/-- A field: its register, lowest bit and width. -/
structure Fld where
  reg : Reg
  lo : Nat
  width : Nat
  deriving DecidableEq, Repr

/-- One row of a field table. -/
structure FieldRow where
  lo : Nat
  width : Nat
  access : Access
  apply : Apply
  deriving DecidableEq, Repr

/-- Where a register lies: the BAR0 offset of its first instance and, outermost first, the count and stride of each index. -/
structure RegLoc where
  reg : Reg
  base : Nat
  dims : List (Nat × Nat)
  deriving DecidableEq, Repr

namespace F

def TOP_ID_PART : Fld := ⟨.TOP_ID, 0, 16⟩
def TOP_ID_STEPPING : Fld := ⟨.TOP_ID, 16, 8⟩
def TOP_GRADE_GRADE : Fld := ⟨.TOP_GRADE, 0, 1⟩
def TOP_STRAP_MGMT_HOST : Fld := ⟨.TOP_STRAP, 0, 3⟩
def TOP_STRAP_BOOT_SEL : Fld := ⟨.TOP_STRAP, 4, 2⟩
def TOP_CLK_STATUS_PLL_LOCK : Fld := ⟨.TOP_CLK_STATUS, 0, 1⟩
def TOP_CLK_STATUS_REF_LOSS : Fld := ⟨.TOP_CLK_STATUS, 1, 1⟩
def TOP_CLK_STATUS_ETH_REF_LOSS : Fld := ⟨.TOP_CLK_STATUS, 2, 1⟩
def RLC_STATUS_READY : Fld := ⟨.RLC_STATUS, 0, 1⟩
def RLC_CE_CNT_COUNT : Fld := ⟨.RLC_CE_CNT, 0, 32⟩
def RLC_UE_CNT_COUNT : Fld := ⟨.RLC_UE_CNT, 0, 32⟩
def RLC_UE_ADDR_LINE : Fld := ⟨.RLC_UE_ADDR, 0, 37⟩
def RLC_UE_ADDR_VALID : Fld := ⟨.RLC_UE_ADDR, 63, 1⟩
def RLC_ACCESS_CNT_COUNT : Fld := ⟨.RLC_ACCESS_CNT, 0, 64⟩
def RLC_EVT_UE : Fld := ⟨.RLC_EVT, 0, 8⟩
def RLC_EVT_EN_EN : Fld := ⟨.RLC_EVT_EN, 0, 8⟩
def RLC_MSIX_VEC_VEC : Fld := ⟨.RLC_MSIX_VEC, 0, 11⟩
def CFG_CMD_OP : Fld := ⟨.CFG_CMD, 0, 4⟩
def CFG_CMD_FLASH_INDEX : Fld := ⟨.CFG_CMD, 4, 2⟩
def CFG_CMD_SEQ : Fld := ⟨.CFG_CMD, 16, 16⟩
def CFG_STATUS_STATE : Fld := ⟨.CFG_STATUS, 0, 3⟩
def CFG_STATUS_HOLD_ACTIVE : Fld := ⟨.CFG_STATUS, 3, 1⟩
def CFG_STATUS_LAST_RESULT : Fld := ⟨.CFG_STATUS, 8, 8⟩
def CFG_STATUS_LAST_SEQ : Fld := ⟨.CFG_STATUS, 16, 16⟩
def CFG_STAGE_ADDR_ADDR : Fld := ⟨.CFG_STAGE_ADDR, 12, 52⟩
def CFG_STAGE_LEN_LEN : Fld := ⟨.CFG_STAGE_LEN, 0, 26⟩
def CFG_DRAIN_LIMIT_LIMIT_US : Fld := ⟨.CFG_DRAIN_LIMIT, 0, 7⟩
def CFG_MIN_SVN_MIN_SVN : Fld := ⟨.CFG_MIN_SVN, 0, 16⟩
def CFG_ACTIVE_VER_IMAGE_VERSION : Fld := ⟨.CFG_ACTIVE_VER, 0, 32⟩
def CFG_PREV_VER_IMAGE_VERSION : Fld := ⟨.CFG_PREV_VER, 0, 32⟩
def CFG_STAGED_VER_IMAGE_VERSION : Fld := ⟨.CFG_STAGED_VER, 0, 32⟩
def CFG_ACTIVE_VER_SVN : Fld := ⟨.CFG_ACTIVE_VER, 32, 16⟩
def CFG_PREV_VER_SVN : Fld := ⟨.CFG_PREV_VER, 32, 16⟩
def CFG_STAGED_VER_SVN : Fld := ⟨.CFG_STAGED_VER, 32, 16⟩
def CFG_ACTIVE_VER_VALID : Fld := ⟨.CFG_ACTIVE_VER, 63, 1⟩
def CFG_PREV_VER_VALID : Fld := ⟨.CFG_PREV_VER, 63, 1⟩
def CFG_STAGED_VER_VALID : Fld := ⟨.CFG_STAGED_VER, 63, 1⟩
def CFG_LAST_SWAP_DRAIN_CYC : Fld := ⟨.CFG_LAST_SWAP, 0, 32⟩
def CFG_LAST_SWAP_SWAP_CYC : Fld := ⟨.CFG_LAST_SWAP, 32, 32⟩
def CFG_HOLD_PEAK_PEAK_KIB : Fld := ⟨.CFG_HOLD_PEAK, 0, 32⟩
def CFG_REBUILT_PIER_PIPE : Fld := ⟨.CFG_REBUILT, 0, 4⟩
def CFG_REBUILT_PIER_TBL : Fld := ⟨.CFG_REBUILT, 4, 4⟩
def CFG_REBUILT_PIER_TMS : Fld := ⟨.CFG_REBUILT, 8, 4⟩
def CFG_REBUILT_TRUSS : Fld := ⟨.CFG_REBUILT, 12, 12⟩
def CFG_REBUILT_BPM : Fld := ⟨.CFG_REBUILT, 24, 1⟩
def CFG_REBUILT_ROUTES : Fld := ⟨.CFG_REBUILT, 25, 1⟩
def CFG_REBUILT_COUNTERS : Fld := ⟨.CFG_REBUILT, 26, 1⟩
def CFG_HOST_PENDING_HOST : Fld := ⟨.CFG_HOST_PENDING, 0, 8⟩
def CFG_MSIX_VEC_VEC : Fld := ⟨.CFG_MSIX_VEC, 0, 11⟩
def HEP_BIFUR_CTL0_MODE : Fld := ⟨.HEP_BIFUR, 0, 2⟩
def HEP_BIFUR_CTL1_MODE : Fld := ⟨.HEP_BIFUR, 2, 2⟩
def HEP_MGMT_LINK_LINK : Fld := ⟨.HEP_MGMT_LINK, 0, 3⟩
def HEP_LINK_STATE_STATE (i : Nat) : Fld := ⟨.HEP_LINK_STATE, 0 + 4 * i, 4⟩
def HEP_LINK_EVT_PERST_ASSERT : Fld := ⟨.HEP_LINK_EVT, 0, 8⟩
def HEP_LINK_EVT_HOT_RESET : Fld := ⟨.HEP_LINK_EVT, 8, 8⟩
def HEP_LINK_EVT_LINK_LOST : Fld := ⟨.HEP_LINK_EVT, 16, 8⟩
def HEP_LINK_EVT_LINK_UP : Fld := ⟨.HEP_LINK_EVT, 24, 8⟩
def HEP_LINK_EVT_EN_EN : Fld := ⟨.HEP_LINK_EVT_EN, 0, 32⟩
def HEP_MSIX_VEC_VEC : Fld := ⟨.HEP_MSIX_VEC, 0, 11⟩
def HEP_CPL_TO_CNT_COUNT : Fld := ⟨.HEP_CPL_TO_CNT, 0, 32⟩
def HEP_LATE_CPL_COUNT : Fld := ⟨.HEP_LATE_CPL, 0, 32⟩
def HEP_TO_CAPTURE_REQ_ID : Fld := ⟨.HEP_TO_CAPTURE, 0, 16⟩
def HEP_TO_CAPTURE_TAG : Fld := ⟨.HEP_TO_CAPTURE, 16, 14⟩
def HEP_TO_CAPTURE_LINK : Fld := ⟨.HEP_TO_CAPTURE, 32, 3⟩
def HEP_TO_CAPTURE_VALID : Fld := ⟨.HEP_TO_CAPTURE, 40, 1⟩
def HEP_POISON_CNT_IN : Fld := ⟨.HEP_POISON_CNT, 0, 32⟩
def HEP_POISON_CNT_OUT : Fld := ⟨.HEP_POISON_CNT, 32, 32⟩
def HEP_DROP_CNT_COUNT : Fld := ⟨.HEP_DROP_CNT, 0, 32⟩
def HEP_MGMT_PATH_MF_WRITES : Fld := ⟨.HEP_MGMT_PATH, 0, 32⟩
def HEP_MGMT_PATH_MCTP_WRITES : Fld := ⟨.HEP_MGMT_PATH, 32, 32⟩
def HEP_TDISP_LOCKED_COUNT : Fld := ⟨.HEP_TDISP_LOCKED, 0, 9⟩
def HEP_TDISP_EVT_WRITE_DROPPED : Fld := ⟨.HEP_TDISP_EVT, 0, 1⟩
def HEP_TDISP_EVT_TDI_ERROR : Fld := ⟨.HEP_TDISP_EVT, 1, 1⟩
def HEP_TDISP_EVT_LAST_SPAN : Fld := ⟨.HEP_TDISP_EVT, 16, 12⟩
def HEP_LINK_INFO_SPEED : Fld := ⟨.HEP_LINK_INFO, 0, 4⟩
def HEP_LINK_INFO_WIDTH : Fld := ⟨.HEP_LINK_INFO, 4, 5⟩
def HEP_LINK_INFO_FLIT : Fld := ⟨.HEP_LINK_INFO, 9, 1⟩
def HEP_LINK_TAGS_OUTSTANDING : Fld := ⟨.HEP_LINK_TAGS, 0, 15⟩
def HEP_LINK_TAGS_QUARANTINED : Fld := ⟨.HEP_LINK_TAGS, 16, 15⟩
def HEP_LINK_CPL_TO_TIMEOUT_US : Fld := ⟨.HEP_LINK_CPL_TO, 0, 26⟩
def HEP_LINK_SPAN_MAP_BASE : Fld := ⟨.HEP_LINK_SPAN_MAP, 0, 12⟩
def HEP_LINK_SPAN_MAP_COUNT : Fld := ⟨.HEP_LINK_SPAN_MAP, 16, 13⟩
def STU_SPAN_SEL_SPAN : Fld := ⟨.STU_SPAN_SEL, 0, 12⟩
def STU_SPAN_CMD_OP : Fld := ⟨.STU_SPAN_CMD, 0, 4⟩
def STU_SPAN_CMD_SEQ : Fld := ⟨.STU_SPAN_CMD, 16, 16⟩
def STU_SPAN_STATUS_STATE : Fld := ⟨.STU_SPAN_STATUS, 0, 3⟩
def STU_SPAN_STATUS_DRAINED : Fld := ⟨.STU_SPAN_STATUS, 3, 1⟩
def STU_SPAN_STATUS_RESET_REQUIRED : Fld := ⟨.STU_SPAN_STATUS, 4, 1⟩
def STU_SPAN_STATUS_PENDING : Fld := ⟨.STU_SPAN_STATUS, 5, 1⟩
def STU_SPAN_STATUS_TDI_LOCKED : Fld := ⟨.STU_SPAN_STATUS, 6, 1⟩
def STU_SPAN_STATUS_CMD_BUSY : Fld := ⟨.STU_SPAN_STATUS, 7, 1⟩
def STU_SPAN_STATUS_LAST_RESULT : Fld := ⟨.STU_SPAN_LOGIC, 8, 8⟩
def STU_SPAN_STATUS_LAST_SEQ : Fld := ⟨.STU_SPAN_LOGIC, 16, 16⟩
def STU_SPAN_STATUS_INFLIGHT : Fld := ⟨.STU_SPAN_STATUS, 32, 16⟩
def STU_SPAN_STATUS_QUEUES : Fld := ⟨.STU_SPAN_STATUS, 48, 9⟩
def STU_CTX_XLATE_MODE : Fld := ⟨.STU_CTX_XLATE, 0, 2⟩
def STU_CTX_XLATE_LEVELS : Fld := ⟨.STU_CTX_XLATE, 2, 1⟩
def STU_CTX_XLATE_ROOT : Fld := ⟨.STU_CTX_XLATE, 12, 52⟩
def STU_LOG_CTL_EN : Fld := ⟨.STU_LOG_CTL, 0, 1⟩
def STU_LOG_CTL_CUR : Fld := ⟨.STU_LOG_CTL, 1, 1⟩
def STU_LOG_CTL_OVER : Fld := ⟨.STU_LOG_CTL, 2, 1⟩
def STU_LOG_CTL_LOST : Fld := ⟨.STU_LOG_CTL, 3, 1⟩
def STU_LOG_CTL_LIMIT_PAGES : Fld := ⟨.STU_LOG_CTL, 8, 37⟩
def STU_LOG_BASE_A_BASE : Fld := ⟨.STU_LOG_BASE_A, 12, 52⟩
def STU_LOG_BASE_B_BASE : Fld := ⟨.STU_LOG_BASE_B, 12, 52⟩
def STU_XFER_ADDR_ADDR : Fld := ⟨.STU_XFER_ADDR, 12, 52⟩
def STU_WIN_SEL_WIN : Fld := ⟨.STU_WIN_SEL, 0, 3⟩
def STU_WIN_BASE_OFFSET : Fld := ⟨.STU_WIN_BASE, 12, 24⟩
def STU_WIN_TARGET_ADDR : Fld := ⟨.STU_WIN_TARGET, 12, 25⟩
def STU_WIN_TARGET_PIER : Fld := ⟨.STU_WIN_TARGET, 40, 2⟩
def STU_WIN_TARGET_KIND : Fld := ⟨.STU_WIN_TARGET, 63, 1⟩
def STU_WIN_CTL_EN : Fld := ⟨.STU_WIN_CTL, 0, 1⟩
def STU_WIN_CTL_RD : Fld := ⟨.STU_WIN_CTL, 1, 1⟩
def STU_WIN_CTL_WR : Fld := ⟨.STU_WIN_CTL, 2, 1⟩
def STU_WIN_CTL_PAGES : Fld := ⟨.STU_WIN_CTL, 16, 25⟩
def STU_WIN_COMMIT_GO : Fld := ⟨.STU_WIN_COMMIT, 0, 1⟩
def STU_WIN_STATUS_BUSY : Fld := ⟨.STU_WIN_STATUS, 0, 1⟩
def STU_WIN_STATUS_SHADOW_DIRTY : Fld := ⟨.STU_WIN_STATUS, 1, 1⟩
def STU_WIN_STATUS_RESULT : Fld := ⟨.STU_WIN_STATUS, 8, 8⟩
def STU_WIN_STATUS_COMMIT_CNT : Fld := ⟨.STU_WIN_STATUS, 32, 32⟩
def STU_INV_ADDR_ADDR : Fld := ⟨.STU_INV_ADDR, 12, 52⟩
def STU_INV_CMD_SPAN : Fld := ⟨.STU_INV_CMD, 0, 12⟩
def STU_INV_CMD_SCOPE : Fld := ⟨.STU_INV_CMD, 12, 2⟩
def STU_INV_CMD_SEQ : Fld := ⟨.STU_INV_CMD, 16, 16⟩
def STU_INV_STATUS_BUSY : Fld := ⟨.STU_INV_STATUS, 0, 1⟩
def STU_INV_STATUS_LAST_SEQ : Fld := ⟨.STU_INV_STATUS, 16, 16⟩
def STU_RCV_CMD_OP : Fld := ⟨.STU_RCV_CMD, 0, 4⟩
def STU_RCV_CMD_SEQ : Fld := ⟨.STU_RCV_CMD, 16, 16⟩
def STU_RCV_ARG0_OBJECT : Fld := ⟨.STU_RCV_ARG0, 0, 64⟩
def STU_RCV_ARG1_OWNER : Fld := ⟨.STU_RCV_ARG1, 0, 16⟩
def STU_RCV_ARG1_NEW_OWNER : Fld := ⟨.STU_RCV_ARG1, 16, 16⟩
def STU_RCV_STATUS_BUSY : Fld := ⟨.STU_RCV_STATUS, 0, 1⟩
def STU_RCV_STATUS_RESULT : Fld := ⟨.STU_RCV_STATUS, 8, 8⟩
def STU_RCV_STATUS_LAST_SEQ : Fld := ⟨.STU_RCV_STATUS, 16, 16⟩
def STU_RCV_STATUS_COUNT : Fld := ⟨.STU_RCV_STATUS, 32, 26⟩
def STU_FAULT_CAPTURE_SPAN : Fld := ⟨.STU_FAULT_CAPTURE, 0, 12⟩
def STU_FAULT_CAPTURE_KIND : Fld := ⟨.STU_FAULT_CAPTURE, 12, 2⟩
def STU_FAULT_CAPTURE_WRITE : Fld := ⟨.STU_FAULT_CAPTURE, 14, 1⟩
def STU_FAULT_CAPTURE_VALID : Fld := ⟨.STU_FAULT_CAPTURE, 15, 1⟩
def STU_FAULT_CAPTURE_PAGE : Fld := ⟨.STU_FAULT_CAPTURE, 16, 36⟩
def STU_FAULT_CNT_XLATE : Fld := ⟨.STU_FAULT_CNT, 0, 32⟩
def STU_FAULT_CNT_QUIESCED : Fld := ⟨.STU_FAULT_CNT, 32, 32⟩
def STU_WIN_MISS_COUNT : Fld := ⟨.STU_WIN_MISS, 0, 32⟩
def STU_EVT_DRAINED : Fld := ⟨.STU_EVT, 0, 1⟩
def STU_EVT_QUIESCE_LATE : Fld := ⟨.STU_EVT, 1, 1⟩
def STU_EVT_XLATE_FAULT : Fld := ⟨.STU_EVT, 2, 1⟩
def STU_EVT_LOG_OVER : Fld := ⟨.STU_EVT, 3, 1⟩
def STU_EVT_CMD_DONE : Fld := ⟨.STU_EVT, 4, 1⟩
def STU_EVT_QUIESCE_REQ : Fld := ⟨.STU_EVT, 5, 1⟩
def STU_EVT_EN_EN : Fld := ⟨.STU_EVT_EN, 0, 6⟩
def STU_MSIX_VEC_VEC : Fld := ⟨.STU_MSIX_VEC, 0, 11⟩
def QE_Q_SEL_QUEUE : Fld := ⟨.QE_Q_SEL, 0, 16⟩
def QE_Q_CMD_OP : Fld := ⟨.QE_Q_CMD, 0, 4⟩
def QE_Q_CMD_SEQ : Fld := ⟨.QE_Q_CMD, 16, 16⟩
def QE_Q_STATUS_STATE : Fld := ⟨.QE_Q_STATUS, 0, 2⟩
def QE_Q_STATUS_PENDING : Fld := ⟨.QE_Q_STATUS, 2, 1⟩
def QE_Q_STATUS_BUSY : Fld := ⟨.QE_Q_LOGIC, 3, 1⟩
def QE_Q_STATUS_LAST_RESULT : Fld := ⟨.QE_Q_LOGIC, 8, 8⟩
def QE_Q_STATUS_LAST_SEQ : Fld := ⟨.QE_Q_LOGIC, 16, 16⟩
def QE_Q_STATUS_SPAN : Fld := ⟨.QE_Q_STATUS, 32, 12⟩
def QE_Q_STATUS_INDEX : Fld := ⟨.QE_Q_STATUS, 44, 8⟩
def QE_Q_STATUS_KIND : Fld := ⟨.QE_Q_STATUS, 52, 4⟩
def QE_Q_STATUS_BIND : Fld := ⟨.QE_Q_STATUS, 56, 4⟩
def QE_CTX_RING_LOG2_SIZE : Fld := ⟨.QE_CTX_RING, 0, 4⟩
def QE_CTX_RING_BASE : Fld := ⟨.QE_CTX_RING, 8, 56⟩
def QE_CTX_CFG_EQ : Fld := ⟨.QE_CTX_CFG, 0, 8⟩
def QE_CTX_CFG_RO_HINT : Fld := ⟨.QE_CTX_CFG, 8, 1⟩
def QE_CTX_CFG_PREFETCH : Fld := ⟨.QE_CTX_CFG, 16, 9⟩
def QE_CTX_MOD_INTERVAL_US : Fld := ⟨.QE_CTX_MOD, 0, 10⟩
def QE_CTX_MOD_COUNT : Fld := ⟨.QE_CTX_MOD, 16, 8⟩
def QE_CTX_EVT_VEC : Fld := ⟨.QE_CTX_EVT, 0, 6⟩
def QE_CTX_IDX_PI : Fld := ⟨.QE_CTX_IDX, 0, 16⟩
def QE_CTX_IDX_CI : Fld := ⟨.QE_CTX_IDX, 16, 16⟩
def QE_CTX_IDX_DI : Fld := ⟨.QE_CTX_IDX, 32, 16⟩
def QE_CTX_CNT_DROPS_OR_OVF : Fld := ⟨.QE_CTX_CNT, 0, 32⟩
def QE_CTX_CNT_MALFORMED : Fld := ⟨.QE_CTX_CNT, 32, 32⟩
def QE_ERR_CNT_MALFORMED : Fld := ⟨.QE_ERR_CNT, 0, 32⟩
def QE_ERR_CNT_Q_ERRORS : Fld := ⟨.QE_ERR_CNT, 32, 32⟩
def QE_ERR_CAPTURE_QUEUE : Fld := ⟨.QE_ERR_CAPTURE, 0, 16⟩
def QE_ERR_CAPTURE_CELL : Fld := ⟨.QE_ERR_CAPTURE, 16, 16⟩
def QE_ERR_CAPTURE_STATUS : Fld := ⟨.QE_ERR_CAPTURE, 32, 8⟩
def QE_ERR_CAPTURE_VALID : Fld := ⟨.QE_ERR_CAPTURE, 40, 1⟩
def QE_RX_DROP_CNT_COUNT : Fld := ⟨.QE_RX_DROP_CNT, 0, 32⟩
def QE_EVT_Q_ERROR : Fld := ⟨.QE_EVT, 0, 1⟩
def QE_EVT_CMD_DONE : Fld := ⟨.QE_EVT, 1, 1⟩
def QE_EVT_EN_EN : Fld := ⟨.QE_EVT_EN, 0, 2⟩
def QE_MSIX_VEC_VEC : Fld := ⟨.QE_MSIX_VEC, 0, 11⟩
def QE_CACHE_USE_CELLS : Fld := ⟨.QE_CACHE_USE, 0, 17⟩
def MBX_SEL_CHANNEL : Fld := ⟨.MBX_SEL, 0, 13⟩
def MBX_TO_WORD : Fld := ⟨.MBX_TO, 0, 64⟩
def MBX_FROM_WORD : Fld := ⟨.MBX_FROM, 0, 64⟩
def MBX_STATUS_OUT_FULL : Fld := ⟨.MBX_STATUS, 0, 1⟩
def MBX_STATUS_IN_FULL : Fld := ⟨.MBX_STATUS, 1, 1⟩
def MBX_STATUS_TO_DROPPED : Fld := ⟨.MBX_STATUS, 2, 1⟩
def MBX_ROUTE_ENDPOINT : Fld := ⟨.MBX_ROUTE, 0, 1⟩
def MBX_ROUTE_TRUSS : Fld := ⟨.MBX_ROUTE, 1, 4⟩
def MBX_EVT_ARRIVED : Fld := ⟨.MBX_EVT, 0, 1⟩
def MBX_EVT_EN_EN : Fld := ⟨.MBX_EVT_EN, 0, 1⟩
def MBX_MSIX_VEC_VEC : Fld := ⟨.MBX_MSIX_VEC, 0, 11⟩
def MAC_DIST_HASH_CFG_SEED : Fld := ⟨.MAC_DIST_HASH_CFG, 0, 32⟩
def MAC_DIST_HASH_CFG_LEVEL : Fld := ⟨.MAC_DIST_HASH_CFG, 32, 2⟩
def MAC_DIST_HASH_CFG_F_ADDR : Fld := ⟨.MAC_DIST_HASH_CFG, 36, 1⟩
def MAC_DIST_HASH_CFG_F_PORTS : Fld := ⟨.MAC_DIST_HASH_CFG, 37, 1⟩
def MAC_DIST_HASH_CFG_F_PROTO : Fld := ⟨.MAC_DIST_HASH_CFG, 38, 1⟩
def MAC_DIST_HASH_CFG_F_TKEY : Fld := ⟨.MAC_DIST_HASH_CFG, 39, 1⟩
def MAC_DIST_PIER_MAP_PIER (i : Nat) : Fld := ⟨.MAC_DIST_PIER_MAP, 0 + 2 * i, 2⟩
def MAC_DIST_SVC_MODE : Fld := ⟨.MAC_DIST_SVC, 0, 2⟩
def MAC_DIST_SVC_EFFECTIVE : Fld := ⟨.MAC_DIST_SVC, 4, 3⟩
def MAC_DIST_SVC_DEF_ACTION : Fld := ⟨.MAC_DIST_SVC, 8, 1⟩
def MAC_DIST_SVC_DEF_QUEUE : Fld := ⟨.MAC_DIST_SVC, 16, 16⟩
def MAC_DIST_DEF_CNT_DROPPED : Fld := ⟨.MAC_DIST_DEF_CNT, 0, 32⟩
def MAC_DIST_DEF_CNT_QUEUED : Fld := ⟨.MAC_DIST_DEF_CNT, 32, 32⟩
def PRS_GRAPH_INFO_ING_NODES : Fld := ⟨.PRS_GRAPH_INFO, 0, 9⟩
def PRS_GRAPH_INFO_EGR_NODES : Fld := ⟨.PRS_GRAPH_INFO, 16, 9⟩
def PRS_LIMITS_HEADERS : Fld := ⟨.PRS_LIMITS, 0, 5⟩
def PRS_LIMITS_BYTES : Fld := ⟨.PRS_LIMITS, 8, 10⟩
def PRS_LIMITS_LEVELS : Fld := ⟨.PRS_LIMITS, 24, 2⟩
def PRS_CNT_DEPTH : Fld := ⟨.PRS_CNT, 0, 32⟩
def PRS_CNT_LEN : Fld := ⟨.PRS_CNT, 32, 32⟩
def PRS_FRAG_CNT_COUNT : Fld := ⟨.PRS_FRAG_CNT, 0, 32⟩
def PRS_EGR_FAIL_CNT_COUNT : Fld := ⟨.PRS_EGR_FAIL_CNT, 0, 32⟩
def PRS_ERR_CAPTURE_CAUSE : Fld := ⟨.PRS_ERR_CAPTURE, 0, 3⟩
def PRS_ERR_CAPTURE_EGRESS : Fld := ⟨.PRS_ERR_CAPTURE, 3, 1⟩
def PRS_ERR_CAPTURE_MAC : Fld := ⟨.PRS_ERR_CAPTURE, 4, 4⟩
def PRS_ERR_CAPTURE_NODE : Fld := ⟨.PRS_ERR_CAPTURE, 8, 8⟩
def PRS_ERR_CAPTURE_OFFSET : Fld := ⟨.PRS_ERR_CAPTURE, 16, 10⟩
def PRS_ERR_CAPTURE_LEVEL : Fld := ⟨.PRS_ERR_CAPTURE, 26, 2⟩
def PRS_ERR_CAPTURE_HEADERS : Fld := ⟨.PRS_ERR_CAPTURE, 28, 5⟩
def PRS_ERR_CAPTURE_QUEUE : Fld := ⟨.PRS_ERR_CAPTURE, 33, 16⟩
def PRS_ERR_CAPTURE_VALID : Fld := ⟨.PRS_ERR_CAPTURE, 63, 1⟩
def PRS_STORE_ERR_CE : Fld := ⟨.PRS_STORE_ERR, 0, 32⟩
def PRS_STORE_ERR_UE : Fld := ⟨.PRS_STORE_ERR, 32, 32⟩
def CLS_SP_RATE_RATE : Fld := ⟨.CLS_SP_RATE, 0, 16⟩
def CLS_SP_BURST_BURST : Fld := ⟨.CLS_SP_BURST, 0, 16⟩
def CLS_SP_TOKENS_TOKENS : Fld := ⟨.CLS_SP_TOKENS, 0, 24⟩
def CLS_SP_TARGET_MASK (i : Nat) : Fld := ⟨.CLS_SP_TARGET, 0 + 3 * i, 3⟩
def CLS_SP_ADMIT_CNT_COUNT : Fld := ⟨.CLS_SP_ADMIT_CNT, 0, 64⟩
def CLS_POLICE_CNT_YELLOW : Fld := ⟨.CLS_POLICE_CNT, 0, 32⟩
def CLS_POLICE_CNT_RED_DROPS : Fld := ⟨.CLS_POLICE_CNT, 32, 32⟩
def CLS_RULE_SEL_RULE : Fld := ⟨.CLS_RULE_SEL, 0, 16⟩
def CLS_RULE_CMD_OP : Fld := ⟨.CLS_RULE_CMD, 0, 2⟩
def CLS_RULE_CMD_SEQ : Fld := ⟨.CLS_RULE_CMD, 16, 16⟩
def CLS_RULE_STATUS_BUSY : Fld := ⟨.CLS_RULE_STATUS, 0, 1⟩
def CLS_RULE_STATUS_LAST_RESULT : Fld := ⟨.CLS_RULE_STATUS, 8, 8⟩
def CLS_RULE_STATUS_LAST_SEQ : Fld := ⟨.CLS_RULE_STATUS, 16, 16⟩
def CLS_RULE_STATUS_FAULTED : Fld := ⟨.CLS_RULE_STATUS, 32, 1⟩
def CLS_RULE_ACT_ACTION_ID : Fld := ⟨.CLS_RULE_ACT, 0, 16⟩
def CLS_RULE_ACT_DATA : Fld := ⟨.CLS_RULE_ACT, 16, 32⟩
def CLS_RULE_ACT_VALID : Fld := ⟨.CLS_RULE_ACT, 63, 1⟩
def CLS_ERR_CAPTURE_RULE : Fld := ⟨.CLS_ERR_CAPTURE, 0, 16⟩
def CLS_ERR_CAPTURE_VALID : Fld := ⟨.CLS_ERR_CAPTURE, 31, 1⟩
def CLS_STORE_ERR_CE : Fld := ⟨.CLS_STORE_ERR, 0, 32⟩
def CLS_STORE_ERR_UE : Fld := ⟨.CLS_STORE_ERR, 32, 32⟩
def CLS_MISROUTE_CNT_COUNT : Fld := ⟨.CLS_MISROUTE_CNT, 0, 32⟩
def CLS_SP_DROP_COUNT : Fld := ⟨.CLS_SP_DROP, 0, 32⟩
def CLS_SET_BASE : Fld := ⟨.CLS_SET, 0, 16⟩
def CLS_SET_COUNT : Fld := ⟨.CLS_SET, 16, 17⟩
def TBL_INFO_TABLES : Fld := ⟨.TBL_INFO, 0, 4⟩
def TBL_INFO_RLD_TABLES : Fld := ⟨.TBL_INFO, 4, 1⟩
def TBL_CMDQ_BASE_BASE : Fld := ⟨.TBL_CMDQ_BASE, 8, 56⟩
def TBL_CMDQ_CTL_LOG2_SIZE : Fld := ⟨.TBL_CMDQ_CTL, 0, 4⟩
def TBL_CMDQ_CTL_EN : Fld := ⟨.TBL_CMDQ_CTL, 8, 1⟩
def TBL_CMDQ_DB_ANY : Fld := ⟨.TBL_CMDQ_DB, 0, 32⟩
def TBL_CMDQ_STATUS_HEAD : Fld := ⟨.TBL_CMDQ_STATUS, 0, 16⟩
def TBL_CMDQ_STATUS_BUSY : Fld := ⟨.TBL_CMDQ_STATUS, 16, 1⟩
def TBL_CMDQ_STATUS_STOPPED : Fld := ⟨.TBL_CMDQ_STATUS, 17, 1⟩
def TBL_CMDQ_STATUS_DONE_CNT : Fld := ⟨.TBL_CMDQ_STATUS, 32, 32⟩
def TBL_EVQ_BASE_BASE : Fld := ⟨.TBL_EVQ_BASE, 8, 56⟩
def TBL_EVQ_CTL_LOG2_SIZE : Fld := ⟨.TBL_EVQ_CTL, 0, 4⟩
def TBL_EVQ_CTL_EN : Fld := ⟨.TBL_EVQ_CTL, 8, 1⟩
def TBL_EVQ_CTL_ARM : Fld := ⟨.TBL_EVQ_CTL, 9, 1⟩
def TBL_EVQ_CTL_VEC : Fld := ⟨.TBL_EVQ_CTL, 16, 11⟩
def TBL_EVQ_CI_CI : Fld := ⟨.TBL_EVQ_CI, 0, 16⟩
def TBL_EVQ_STATUS_PI : Fld := ⟨.TBL_EVQ_STATUS, 0, 16⟩
def TBL_EVQ_STATUS_OVF_PENDING : Fld := ⟨.TBL_EVQ_STATUS, 16, 1⟩
def TBL_EVQ_STATUS_ARMED : Fld := ⟨.TBL_EVQ_STATUS, 17, 1⟩
def TBL_EVQ_STATUS_OVF_CNT : Fld := ⟨.TBL_EVQ_STATUS, 32, 32⟩
def TBL_LEARN_CFG_EN : Fld := ⟨.TBL_LEARN_CFG, 0, 1⟩
def TBL_LEARN_CFG_RATE : Fld := ⟨.TBL_LEARN_CFG, 16, 16⟩
def TBL_LEARN_CFG_BURST : Fld := ⟨.TBL_LEARN_CFG, 32, 16⟩
def TBL_LEARN_CNT_LEARNED : Fld := ⟨.TBL_LEARN_CNT, 0, 32⟩
def TBL_LEARN_CNT_MOVED : Fld := ⟨.TBL_LEARN_CNT, 32, 32⟩
def TBL_LEARN_DROP_RATE : Fld := ⟨.TBL_LEARN_DROP, 0, 32⟩
def TBL_LEARN_DROP_FULL : Fld := ⟨.TBL_LEARN_DROP, 32, 32⟩
def TBL_FC_CMD_OP : Fld := ⟨.TBL_FC_CMD, 0, 2⟩
def TBL_FC_CMD_SEQ : Fld := ⟨.TBL_FC_CMD, 16, 16⟩
def TBL_FC_STATUS_BUSY : Fld := ⟨.TBL_FC_STATUS, 0, 1⟩
def TBL_FC_STATUS_LAST_SEQ : Fld := ⟨.TBL_FC_STATUS, 16, 16⟩
def TBL_FC_STATUS_LINES : Fld := ⟨.TBL_FC_STATUS, 32, 17⟩
def TBL_FC_CNT_HITS : Fld := ⟨.TBL_FC_CNT, 0, 32⟩
def TBL_FC_CNT_MISSES : Fld := ⟨.TBL_FC_CNT, 32, 32⟩
def TBL_MISS_STATUS_STALL_CYC : Fld := ⟨.TBL_MISS_STATUS, 0, 32⟩
def TBL_MISS_STATUS_PEAK : Fld := ⟨.TBL_MISS_STATUS, 32, 10⟩
def TBL_ACT_CNT_ENCAP_LEN : Fld := ⟨.TBL_ACT_CNT, 0, 32⟩
def TBL_ACT_CNT_DECAP_SKIP : Fld := ⟨.TBL_ACT_CNT, 32, 32⟩
def TBL_ERR_CNT_STORE_CE : Fld := ⟨.TBL_ERR_CNT, 0, 32⟩
def TBL_ERR_CNT_STORE_UE : Fld := ⟨.TBL_ERR_CNT, 32, 32⟩
def TBL_POISON_CNT_COUNT : Fld := ⟨.TBL_POISON_CNT, 0, 32⟩
def TBL_ERR_CAPTURE_TABLE : Fld := ⟨.TBL_ERR_CAPTURE, 0, 4⟩
def TBL_ERR_CAPTURE_CAUSE : Fld := ⟨.TBL_ERR_CAPTURE, 4, 3⟩
def TBL_ERR_CAPTURE_VALID : Fld := ⟨.TBL_ERR_CAPTURE, 7, 1⟩
def TBL_ERR_CAPTURE_INDEX : Fld := ⟨.TBL_ERR_CAPTURE, 32, 32⟩
def TBL_EVT_CMD_DONE : Fld := ⟨.TBL_EVT, 0, 1⟩
def TBL_EVT_CMDQ_STOPPED : Fld := ⟨.TBL_EVT, 1, 1⟩
def TBL_EVT_EN_EN : Fld := ⟨.TBL_EVT_EN, 0, 2⟩
def TBL_MSIX_VEC_VEC : Fld := ⟨.TBL_MSIX_VEC, 0, 11⟩
def TBL_SCHEMA_KIND : Fld := ⟨.TBL_SCHEMA, 0, 4⟩
def TBL_SCHEMA_LOG2_SIZE : Fld := ⟨.TBL_SCHEMA, 8, 5⟩
def TBL_SCHEMA_SCHEMA_ID : Fld := ⟨.TBL_SCHEMA, 32, 32⟩
def TBL_SWEEP_PERIOD_MS : Fld := ⟨.TBL_SWEEP, 0, 16⟩
def BPM_INFO_POOLS : Fld := ⟨.BPM_INFO, 0, 9⟩
def BPM_INFO_ACCOUNTS : Fld := ⟨.BPM_INFO, 16, 14⟩
def BPM_INFO_BUFFERS : Fld := ⟨.BPM_INFO, 32, 27⟩
def BPM_REGION_BUF_BASE : Fld := ⟨.BPM_REGION, 0, 13⟩
def BPM_REGION_REC_BASE : Fld := ⟨.BPM_REGION, 16, 13⟩
def BPM_REGION_REC_SIZE : Fld := ⟨.BPM_REGION, 32, 13⟩
def BPM_POOL_SEL_POOL : Fld := ⟨.BPM_POOL_SEL, 0, 8⟩
def BPM_POOL_RANGE_BASE : Fld := ⟨.BPM_POOL_RANGE, 0, 26⟩
def BPM_POOL_RANGE_COUNT : Fld := ⟨.BPM_POOL_RANGE, 32, 27⟩
def BPM_POOL_ACCTS_ACCT_BASE : Fld := ⟨.BPM_POOL_ACCTS, 0, 13⟩
def BPM_POOL_ACCTS_ACCT_COUNT : Fld := ⟨.BPM_POOL_ACCTS, 16, 14⟩
def BPM_POOL_WM_XOFF : Fld := ⟨.BPM_POOL_WM, 0, 27⟩
def BPM_POOL_WM_XON : Fld := ⟨.BPM_POOL_WM, 32, 27⟩
def BPM_POOL_STATUS_FREE : Fld := ⟨.BPM_POOL_STATUS, 0, 27⟩
def BPM_POOL_STATUS_XOFF : Fld := ⟨.BPM_POOL_STATUS, 31, 1⟩
def BPM_POOL_STATUS_SHARED_FREE : Fld := ⟨.BPM_POOL_STATUS, 32, 27⟩
def BPM_POOL_CNT_WAITS : Fld := ⟨.BPM_POOL_CNT, 0, 32⟩
def BPM_POOL_CNT_XOFF_ENTRIES : Fld := ⟨.BPM_POOL_CNT, 32, 32⟩
def BPM_ACCT_SEL_ACCOUNT : Fld := ⟨.BPM_ACCT_SEL, 0, 13⟩
def BPM_ACCT_LIMIT_MIN : Fld := ⟨.BPM_ACCT_LIMIT, 0, 27⟩
def BPM_ACCT_LIMIT_MAX : Fld := ⟨.BPM_ACCT_LIMIT, 32, 27⟩
def BPM_ACCT_USE_USE : Fld := ⟨.BPM_ACCT_USE, 0, 27⟩
def BPM_ACCT_USE_PEAK : Fld := ⟨.BPM_ACCT_USE, 32, 27⟩
def BPM_ACCT_DROP_COUNT : Fld := ⟨.BPM_ACCT_DROP, 0, 32⟩
def BPM_BUF_CMD_OP : Fld := ⟨.BPM_BUF_CMD, 0, 4⟩
def BPM_BUF_CMD_SEQ : Fld := ⟨.BPM_BUF_CMD, 16, 16⟩
def BPM_BUF_ARG_INDEX : Fld := ⟨.BPM_BUF_ARG, 0, 26⟩
def BPM_BUF_ARG_NEW_OWNER : Fld := ⟨.BPM_BUF_ARG, 32, 16⟩
def BPM_BUF_STATUS_BUSY : Fld := ⟨.BPM_BUF_STATUS, 0, 1⟩
def BPM_BUF_STATUS_RESULT : Fld := ⟨.BPM_BUF_STATUS, 8, 8⟩
def BPM_BUF_STATUS_LAST_SEQ : Fld := ⟨.BPM_BUF_STATUS, 16, 16⟩
def BPM_BUF_REC_RECORD : Fld := ⟨.BPM_BUF_REC, 0, 64⟩
def BPM_SWEEP_ADDR_ADDR : Fld := ⟨.BPM_SWEEP_ADDR, 12, 52⟩
def BPM_SWEEP_MAX_ENTRIES : Fld := ⟨.BPM_SWEEP_MAX, 0, 26⟩
def BPM_SWEEP_STATUS_LEFT : Fld := ⟨.BPM_SWEEP_STATUS, 0, 27⟩
def BPM_SWEEP_STATUS_OVER : Fld := ⟨.BPM_SWEEP_STATUS, 31, 1⟩
def BPM_SWEEP_STATUS_LISTED : Fld := ⟨.BPM_SWEEP_STATUS, 32, 27⟩
def BPM_ERR_CNT_REFUSED : Fld := ⟨.BPM_ERR_CNT, 0, 32⟩
def BPM_ERR_CNT_BAD : Fld := ⟨.BPM_ERR_CNT, 32, 32⟩
def BPM_ERR_CAPTURE_INDEX : Fld := ⟨.BPM_ERR_CAPTURE, 0, 26⟩
def BPM_ERR_CAPTURE_CAUSE : Fld := ⟨.BPM_ERR_CAPTURE, 26, 4⟩
def BPM_ERR_CAPTURE_VALID : Fld := ⟨.BPM_ERR_CAPTURE, 31, 1⟩
def BPM_ERR_CAPTURE_REQUESTER : Fld := ⟨.BPM_ERR_CAPTURE, 32, 16⟩
def BPM_ERR_CAPTURE_NAMED : Fld := ⟨.BPM_ERR_CAPTURE, 48, 16⟩
def BPM_STORE_ERR_CE : Fld := ⟨.BPM_STORE_ERR, 0, 32⟩
def BPM_STORE_ERR_UE : Fld := ⟨.BPM_STORE_ERR, 32, 32⟩
def BPM_EVT_XOFF : Fld := ⟨.BPM_EVT, 0, 1⟩
def BPM_EVT_CMD_DONE : Fld := ⟨.BPM_EVT, 1, 1⟩
def BPM_EVT_EN_EN : Fld := ⟨.BPM_EVT_EN, 0, 2⟩
def BPM_MSIX_VEC_VEC : Fld := ⟨.BPM_MSIX_VEC, 0, 11⟩
def TMS_INFO_GROUPS : Fld := ⟨.TMS_INFO, 0, 9⟩
def TMS_INFO_SPANS : Fld := ⟨.TMS_INFO, 12, 13⟩
def TMS_INFO_QUEUES : Fld := ⟨.TMS_INFO, 32, 15⟩
def TMS_TICK_COUNT : Fld := ⟨.TMS_TICK, 0, 32⟩
def TMS_NODE_SEL_LEVEL : Fld := ⟨.TMS_NODE_SEL, 0, 2⟩
def TMS_NODE_SEL_INDEX : Fld := ⟨.TMS_NODE_SEL, 16, 14⟩
def TMS_NODE_TREE_PARENT : Fld := ⟨.TMS_NODE_TREE, 0, 12⟩
def TMS_NODE_TREE_DEST_KIND : Fld := ⟨.TMS_NODE_TREE, 12, 2⟩
def TMS_NODE_TREE_TC : Fld := ⟨.TMS_NODE_TREE, 16, 3⟩
def TMS_NODE_TREE_TRUSS : Fld := ⟨.TMS_NODE_TREE, 20, 2⟩
def TMS_NODE_TREE_USED : Fld := ⟨.TMS_NODE_TREE, 31, 1⟩
def TMS_NODE_QUANTUM_QUANTUM : Fld := ⟨.TMS_NODE_QUANTUM, 0, 21⟩
def TMS_NODE_CIR_RATE : Fld := ⟨.TMS_NODE_CIR, 0, 26⟩
def TMS_NODE_PIR_RATE : Fld := ⟨.TMS_NODE_PIR, 0, 26⟩
def TMS_NODE_CBS_SIZE : Fld := ⟨.TMS_NODE_CBS, 0, 24⟩
def TMS_NODE_PBS_SIZE : Fld := ⟨.TMS_NODE_PBS, 0, 24⟩
def TMS_NODE_OVERHEAD_BYTES : Fld := ⟨.TMS_NODE_OVERHEAD, 0, 6⟩
def TMS_NODE_TOKENS_CTOK : Fld := ⟨.TMS_NODE_TOKENS, 0, 32⟩
def TMS_NODE_TOKENS_PTOK : Fld := ⟨.TMS_NODE_TOKENS, 32, 32⟩
def TMS_NODE_STATE_STATE : Fld := ⟨.TMS_NODE_STATE, 0, 3⟩
def TMS_NODE_STATE_DEFICIT : Fld := ⟨.TMS_NODE_STATE, 8, 21⟩
def TMS_Q_LIMIT_GREEN_KIB : Fld := ⟨.TMS_Q_LIMIT, 0, 16⟩
def TMS_Q_LIMIT_YELLOW_KIB : Fld := ⟨.TMS_Q_LIMIT, 16, 16⟩
def TMS_Q_DEPTH_BYTES : Fld := ⟨.TMS_Q_DEPTH, 0, 32⟩
def TMS_Q_DEPTH_FRAMES : Fld := ⟨.TMS_Q_DEPTH, 32, 32⟩
def TMS_Q_DROP_LIMIT : Fld := ⟨.TMS_Q_DROP, 0, 32⟩
def TMS_Q_DROP_YELLOW : Fld := ⟨.TMS_Q_DROP, 32, 32⟩
def TMS_POL_SEL_SPAN : Fld := ⟨.TMS_POL_SEL, 0, 12⟩
def TMS_POL_CIR_RATE : Fld := ⟨.TMS_POL_CIR, 0, 26⟩
def TMS_POL_PIR_RATE : Fld := ⟨.TMS_POL_PIR, 0, 26⟩
def TMS_POL_CBS_SIZE : Fld := ⟨.TMS_POL_CBS, 0, 24⟩
def TMS_POL_PBS_SIZE : Fld := ⟨.TMS_POL_PBS, 0, 24⟩
def TMS_POL_CTL_EN : Fld := ⟨.TMS_POL_CTL, 0, 1⟩
def TMS_POL_CTL_COLOR_AWARE : Fld := ⟨.TMS_POL_CTL, 1, 1⟩
def TMS_POL_TOKENS_TC : Fld := ⟨.TMS_POL_TOKENS, 0, 24⟩
def TMS_POL_TOKENS_TP : Fld := ⟨.TMS_POL_TOKENS, 32, 24⟩
def TMS_POL_CNT_YELLOW : Fld := ⟨.TMS_POL_CNT, 0, 32⟩
def TMS_POL_CNT_RED : Fld := ⟨.TMS_POL_CNT, 32, 32⟩
def TMS_STORE_ERR_CE : Fld := ⟨.TMS_STORE_ERR, 0, 32⟩
def TMS_STORE_ERR_UE : Fld := ⟨.TMS_STORE_ERR, 32, 32⟩
def TMS_ERR_CAPTURE_LEVEL : Fld := ⟨.TMS_ERR_CAPTURE, 0, 2⟩
def TMS_ERR_CAPTURE_INDEX : Fld := ⟨.TMS_ERR_CAPTURE, 2, 14⟩
def TMS_ERR_CAPTURE_KIND : Fld := ⟨.TMS_ERR_CAPTURE, 16, 2⟩
def TMS_ERR_CAPTURE_VALID : Fld := ⟨.TMS_ERR_CAPTURE, 31, 1⟩
def MAC_CTL_EN : Fld := ⟨.MAC_CTL, 0, 1⟩
def MAC_CTL_MAX_FRAME : Fld := ⟨.MAC_CTL, 16, 15⟩
def MAC_CTL_PMD_TYPE : Fld := ⟨.MAC_CTL, 32, 2⟩
def MAC_STATUS_STATE : Fld := ⟨.MAC_STATUS, 0, 3⟩
def MAC_STATUS_LANES : Fld := ⟨.MAC_STATUS, 4, 4⟩
def MAC_ADDR_ADDR : Fld := ⟨.MAC_ADDR, 0, 48⟩
def MAC_FC_CTL_MODE : Fld := ⟨.MAC_FC_CTL, 0, 2⟩
def MAC_FC_CTL_PFC_EN : Fld := ⟨.MAC_FC_CTL, 8, 8⟩
def MAC_FC_CTL_PAUSE_TIME : Fld := ⟨.MAC_FC_CTL, 16, 16⟩
def MAC_FC_CTL_REFRESH : Fld := ⟨.MAC_FC_CTL, 32, 16⟩
def MAC_FC_STATUS_XOFF_SENT : Fld := ⟨.MAC_FC_STATUS, 0, 8⟩
def MAC_FC_STATUS_RX_PAUSED : Fld := ⟨.MAC_FC_STATUS, 8, 8⟩
def MAC_PCP_MAP_RX_TC (i : Nat) : Fld := ⟨.MAC_PCP_MAP, 0 + 3 * i, 3⟩
def MAC_PCP_MAP_DEFAULT_TC : Fld := ⟨.MAC_PCP_MAP, 24, 3⟩
def MAC_PCP_MAP_TX_PCP (i : Nat) : Fld := ⟨.MAC_PCP_MAP, 32 + 3 * i, 3⟩
def MAC_TAG_CTL_INSERT : Fld := ⟨.MAC_TAG_CTL, 0, 2⟩
def MAC_TAG_CTL_STRIP : Fld := ⟨.MAC_TAG_CTL, 2, 2⟩
def MAC_TAG_CTL_C_VID : Fld := ⟨.MAC_TAG_CTL, 16, 12⟩
def MAC_TAG_CTL_S_VID : Fld := ⟨.MAC_TAG_CTL, 32, 12⟩
def MAC_SECY_CTL_EN : Fld := ⟨.MAC_SECY_CTL, 0, 1⟩
def MAC_SECY_CTL_VALIDATE : Fld := ⟨.MAC_SECY_CTL, 1, 2⟩
def MAC_SECY_CTL_REPLAY_PROTECT : Fld := ⟨.MAC_SECY_CTL, 3, 1⟩
def MAC_SECY_CTL_TX_PROTECT : Fld := ⟨.MAC_SECY_CTL, 4, 1⟩
def MAC_SECY_CTL_INCLUDE_SCI : Fld := ⟨.MAC_SECY_CTL, 5, 1⟩
def MAC_SECY_CTL_REPLAY_WINDOW : Fld := ⟨.MAC_SECY_CTL, 32, 32⟩
def MAC_STAT_SNAP_GO : Fld := ⟨.MAC_STAT_SNAP, 0, 1⟩
def MAC_EVT_LINK_UP : Fld := ⟨.MAC_EVT, 0, 1⟩
def MAC_EVT_LINK_DOWN : Fld := ⟨.MAC_EVT, 1, 1⟩
def MAC_EVT_RF : Fld := ⟨.MAC_EVT, 2, 1⟩
def MAC_EVT_RESTART : Fld := ⟨.MAC_EVT, 3, 1⟩
def MAC_EVT_STORE_UE : Fld := ⟨.MAC_EVT, 4, 1⟩
def MAC_EVT_EN_EN : Fld := ⟨.MAC_EVT_EN, 0, 5⟩
def MAC_MSIX_VEC_VEC : Fld := ⟨.MAC_MSIX_VEC, 0, 11⟩
def MAC_STORE_ERR_CE : Fld := ⟨.MAC_STORE_ERR, 0, 32⟩
def MAC_STORE_ERR_UE : Fld := ⟨.MAC_STORE_ERR, 32, 32⟩
def MAC_CBS_EN : Fld := ⟨.MAC_CBS, 0, 1⟩
def MAC_CBS_IDLE_SLOPE : Fld := ⟨.MAC_CBS, 8, 24⟩
def MAC_CBS_HI_CREDIT : Fld := ⟨.MAC_CBS, 32, 32⟩
def MAC_CBS_CREDIT_CREDIT : Fld := ⟨.MAC_CBS_CREDIT, 0, 32⟩
def MAC_STAT_COUNT : Fld := ⟨.MAC_STAT, 0, 64⟩
def MAC_PORT_CFG_BREAKOUT : Fld := ⟨.MAC_PORT_CFG, 0, 2⟩
def MAC_PORT_CMD_OP : Fld := ⟨.MAC_PORT_CMD, 0, 2⟩
def MAC_PORT_CMD_SEQ : Fld := ⟨.MAC_PORT_CMD, 16, 16⟩
def MAC_PORT_STATUS_BUSY : Fld := ⟨.MAC_PORT_STATUS, 0, 1⟩
def MAC_PORT_STATUS_LAST_RESULT : Fld := ⟨.MAC_PORT_STATUS, 8, 8⟩
def MAC_PORT_STATUS_LAST_SEQ : Fld := ⟨.MAC_PORT_STATUS, 16, 16⟩
def MAC_FC_WM_HIGH_KIB : Fld := ⟨.MAC_FC_WM, 0, 10⟩
def MAC_FC_WM_LOW_KIB : Fld := ⟨.MAC_FC_WM, 32, 10⟩
def MAC_WAKE_CTL_MAGIC_EN : Fld := ⟨.MAC_WAKE_CTL, 0, 1⟩
def MAC_WAKE_CTL_PAT_EN : Fld := ⟨.MAC_WAKE_CTL, 8, 8⟩
def MAC_WAKE_CTL_LINK_EN : Fld := ⟨.MAC_WAKE_CTL, 16, 1⟩
def MAC_WAKE_ADDR_ADDR : Fld := ⟨.MAC_WAKE_ADDR, 0, 48⟩
def MAC_WAKE_STATUS_MAGIC : Fld := ⟨.MAC_WAKE_STATUS, 0, 1⟩
def MAC_WAKE_STATUS_PAT : Fld := ⟨.MAC_WAKE_STATUS, 8, 8⟩
def MAC_WAKE_STATUS_LINK : Fld := ⟨.MAC_WAKE_STATUS, 16, 1⟩
def MAC_WAKE_PAT_BYTES : Fld := ⟨.MAC_WAKE_PAT, 0, 64⟩
def MAC_WAKE_MASK_MASK : Fld := ⟨.MAC_WAKE_MASK, 0, 64⟩
def MAC_DIST_DROP_COUNT : Fld := ⟨.MAC_DIST_DROP, 0, 32⟩
def TIM_CTL_ADJ_OWNER : Fld := ⟨.TIM_CTL, 0, 1⟩
def TIM_SERVO_THREAD : Fld := ⟨.TIM_SERVO, 0, 10⟩
def TIM_SERVO_VALID : Fld := ⟨.TIM_SERVO, 15, 1⟩
def TIM_NOW_WIDE : Fld := ⟨.TIM_NOW, 0, 64⟩
def TIM_NOW_FRAC_FRAC : Fld := ⟨.TIM_NOW_FRAC, 0, 16⟩
def TIM_INCR_INCR : Fld := ⟨.TIM_INCR, 0, 40⟩
def TIM_ADJ_ARG_ARG : Fld := ⟨.TIM_ADJ_ARG, 0, 64⟩
def TIM_SLEW_TICKS_TICKS : Fld := ⟨.TIM_SLEW_TICKS, 0, 32⟩
def TIM_ADJ_CMD_OP : Fld := ⟨.TIM_ADJ_CMD, 0, 4⟩
def TIM_ADJ_CMD_SEQ : Fld := ⟨.TIM_ADJ_CMD, 16, 16⟩
def TIM_ADJ_STATUS_LAST_SEQ : Fld := ⟨.TIM_ADJ_STATUS, 16, 16⟩
def TIM_ADJ_STATUS_SLEW_LEFT : Fld := ⟨.TIM_ADJ_STATUS, 32, 32⟩
def TIM_ADJ_DROP_MF : Fld := ⟨.TIM_ADJ_DROP, 0, 32⟩
def TIM_ADJ_DROP_SERVO : Fld := ⟨.TIM_ADJ_DROP, 32, 32⟩
def TIM_SERVO_UPD_OFFSET_PS : Fld := ⟨.TIM_SERVO_UPD, 0, 32⟩
def TIM_SERVO_UPD_STATE_REQ : Fld := ⟨.TIM_SERVO_UPD, 32, 2⟩
def TIM_STATE_STATE : Fld := ⟨.TIM_STATE, 0, 2⟩
def TIM_STATE_HOLD_MS : Fld := ⟨.TIM_STATE, 32, 32⟩
def TIM_BOUND_BOUND_DEV_PS : Fld := ⟨.TIM_BOUND, 0, 32⟩
def TIM_BOUND_HOLD_PS : Fld := ⟨.TIM_BOUND, 32, 32⟩
def TIM_ASYM_PS : Fld := ⟨.TIM_ASYM, 0, 32⟩
def TIM_HOLD_CFG_RATE : Fld := ⟨.TIM_HOLD_CFG, 0, 32⟩
def TIM_HOLD_CFG_AGING : Fld := ⟨.TIM_HOLD_CFG, 32, 32⟩
def TIM_LIMITS_WATCHDOG_MS : Fld := ⟨.TIM_LIMITS, 0, 16⟩
def TIM_LIMITS_BOUND_LIMIT_NS : Fld := ⟨.TIM_LIMITS, 32, 16⟩
def TIM_LEAP_UTC_OFFSET : Fld := ⟨.TIM_LEAP, 0, 16⟩
def TIM_LEAP_LEAP : Fld := ⟨.TIM_LEAP, 16, 2⟩
def TIM_LEAP_UTC_VALID : Fld := ⟨.TIM_LEAP, 18, 1⟩
def TIM_LEAP_TIME_SEC : Fld := ⟨.TIM_LEAP_TIME, 0, 48⟩
def TIM_TP_CTL_INTERVAL_US : Fld := ⟨.TIM_TP_CTL, 0, 17⟩
def TIM_TP_CTL_EN : Fld := ⟨.TIM_TP_CTL, 24, 8⟩
def TIM_PTM_CTL_INTERVAL_MS : Fld := ⟨.TIM_PTM_CTL, 0, 10⟩
def TIM_LAUNCH_CTL_MODE : Fld := ⟨.TIM_LAUNCH_CTL, 0, 1⟩
def TIM_LAUNCH_CTL_LATE_NS : Fld := ⟨.TIM_LAUNCH_CTL, 8, 24⟩
def TIM_LAUNCH_CTL_HORIZON_MS : Fld := ⟨.TIM_LAUNCH_CTL, 32, 16⟩
def TIM_LAUNCH_CNT_LATE : Fld := ⟨.TIM_LAUNCH_CNT, 0, 32⟩
def TIM_LAUNCH_CNT_CLAMPED : Fld := ⟨.TIM_LAUNCH_CNT, 32, 32⟩
def TIM_PPS_OUT_EN : Fld := ⟨.TIM_PPS_OUT, 0, 1⟩
def TIM_PPS_OUT_SQUELCH : Fld := ⟨.TIM_PPS_OUT, 1, 1⟩
def TIM_PPS_OUT_WIDTH_US : Fld := ⟨.TIM_PPS_OUT, 4, 28⟩
def TIM_PPS_OUT_OFFSET_NS : Fld := ⟨.TIM_PPS_OUT, 32, 32⟩
def TIM_REF10M_CAP_WIDE : Fld := ⟨.TIM_REF10M_CAP, 0, 64⟩
def TIM_REF10M_STATUS_MARKS : Fld := ⟨.TIM_REF10M_STATUS, 0, 32⟩
def TIM_REF10M_STATUS_LOSS : Fld := ⟨.TIM_REF10M_STATUS, 32, 1⟩
def TIM_REF10M_STATUS_PRESENT : Fld := ⟨.TIM_REF10M_STATUS, 33, 1⟩
def TIM_GNSS_CTL_EN : Fld := ⟨.TIM_GNSS_CTL, 0, 1⟩
def TIM_GNSS_CTL_BAUD : Fld := ⟨.TIM_GNSS_CTL, 4, 20⟩
def TIM_GNSS_RX_BYTE : Fld := ⟨.TIM_GNSS_RX, 0, 8⟩
def TIM_GNSS_RX_VALID : Fld := ⟨.TIM_GNSS_RX, 8, 1⟩
def TIM_GNSS_RX_LINE_START : Fld := ⟨.TIM_GNSS_RX, 9, 1⟩
def TIM_GNSS_TX_BYTE : Fld := ⟨.TIM_GNSS_TX, 0, 8⟩
def TIM_GNSS_STATUS_RX_LEVEL : Fld := ⟨.TIM_GNSS_STATUS, 0, 12⟩
def TIM_GNSS_STATUS_TX_LEVEL : Fld := ⟨.TIM_GNSS_STATUS, 16, 9⟩
def TIM_GNSS_STATUS_RX_OVERRUN : Fld := ⟨.TIM_GNSS_STATUS, 28, 1⟩
def TIM_GNSS_STATUS_FRAMING : Fld := ⟨.TIM_GNSS_STATUS, 29, 1⟩
def TIM_GNSS_STATUS_TX_OVERRUN : Fld := ⟨.TIM_GNSS_STATUS, 30, 1⟩
def TIM_GNSS_LINE_TS_WIDE : Fld := ⟨.TIM_GNSS_LINE_TS, 0, 64⟩
def TIM_EVT_STATE_CHG : Fld := ⟨.TIM_EVT, 0, 1⟩
def TIM_EVT_WATCHDOG : Fld := ⟨.TIM_EVT, 1, 1⟩
def TIM_EVT_BOUND_LIMIT : Fld := ⟨.TIM_EVT, 2, 1⟩
def TIM_EVT_CAP : Fld := ⟨.TIM_EVT, 3, 1⟩
def TIM_EVT_REF10M_LOSS : Fld := ⟨.TIM_EVT, 4, 1⟩
def TIM_EVT_GNSS_LINE : Fld := ⟨.TIM_EVT, 5, 1⟩
def TIM_EVT_PTM_FAIL : Fld := ⟨.TIM_EVT, 6, 1⟩
def TIM_EVT_LEAP_DONE : Fld := ⟨.TIM_EVT, 7, 1⟩
def TIM_EVT_COUNTER_FAULT : Fld := ⟨.TIM_EVT, 8, 1⟩
def TIM_EVT_EN_EN : Fld := ⟨.TIM_EVT_EN, 0, 9⟩
def TIM_MSIX_VEC_VEC : Fld := ⟨.TIM_MSIX_VEC, 0, 11⟩
def TIM_ERR_CNT_COMPARE : Fld := ⟨.TIM_ERR_CNT, 0, 32⟩
def TIM_TP_ADDR_ADDR : Fld := ⟨.TIM_TP_ADDR, 7, 57⟩
def TIM_PTM_STATUS_VALID : Fld := ⟨.TIM_PTM_STATUS, 0, 1⟩
def TIM_PTM_STATUS_FAIL_CNT : Fld := ⟨.TIM_PTM_STATUS, 8, 24⟩
def TIM_PTM_STATUS_UNC_PS : Fld := ⟨.TIM_PTM_STATUS, 32, 32⟩
def TIM_CAP_CTL_EN : Fld := ⟨.TIM_CAP_CTL, 0, 1⟩
def TIM_CAP_CTL_EDGE : Fld := ⟨.TIM_CAP_CTL, 1, 2⟩
def TIM_CAP_CTL_DELAY : Fld := ⟨.TIM_CAP_CTL, 16, 32⟩
def TIM_CAP_HI_SEC : Fld := ⟨.TIM_CAP_HI, 0, 48⟩
def TIM_CAP_HI_EDGE : Fld := ⟨.TIM_CAP_HI, 48, 1⟩
def TIM_CAP_HI_VALID : Fld := ⟨.TIM_CAP_HI, 63, 1⟩
def TIM_CAP_LO_FRAC : Fld := ⟨.TIM_CAP_LO, 0, 16⟩
def TIM_CAP_LO_NS : Fld := ⟨.TIM_CAP_LO, 16, 32⟩
def TIM_CAP_STATUS_LEVEL : Fld := ⟨.TIM_CAP_STATUS, 0, 5⟩
def TIM_CAP_STATUS_OVF : Fld := ⟨.TIM_CAP_STATUS, 32, 32⟩
def TIM_TOUT_CTL_MODE : Fld := ⟨.TIM_TOUT_CTL, 0, 2⟩
def TIM_TOUT_CTL_LEVEL : Fld := ⟨.TIM_TOUT_CTL, 2, 1⟩
def TIM_TOUT_CTL_SQUELCH : Fld := ⟨.TIM_TOUT_CTL, 3, 1⟩
def TIM_TOUT_START_WIDE : Fld := ⟨.TIM_TOUT_START, 0, 64⟩
def TIM_TOUT_PERIOD_PERIOD : Fld := ⟨.TIM_TOUT_PERIOD, 0, 48⟩
def TIM_TOUT_WIDTH_WIDTH : Fld := ⟨.TIM_TOUT_WIDTH, 0, 48⟩
def TIM_SYNCE_SRC_MAC : Fld := ⟨.TIM_SYNCE, 0, 4⟩
def TIM_SYNCE_DIV : Fld := ⟨.TIM_SYNCE, 4, 2⟩
def TIM_SYNCE_EN : Fld := ⟨.TIM_SYNCE, 8, 1⟩
def TIM_SYNCE_SQUELCHED : Fld := ⟨.TIM_SYNCE, 9, 1⟩
def TIM_ONESTEP_EN : Fld := ⟨.TIM_ONESTEP, 0, 1⟩
def TIM_ONESTEP_SYNC : Fld := ⟨.TIM_ONESTEP, 1, 1⟩
def TIM_ONESTEP_PDELAY_RESP : Fld := ⟨.TIM_ONESTEP, 2, 1⟩
def TIM_CAL_RX_DELAY : Fld := ⟨.TIM_CAL_RX, 0, 32⟩
def TIM_CAL_TX_DELAY : Fld := ⟨.TIM_CAL_TX, 0, 32⟩
def CIP_SA_SEL_SA : Fld := ⟨.CIP_SA_SEL, 0, 16⟩
def CIP_SA_CMD_OP : Fld := ⟨.CIP_SA_CMD, 0, 4⟩
def CIP_SA_CMD_SEQ : Fld := ⟨.CIP_SA_CMD, 16, 16⟩
def CIP_SA_STATUS_BUSY : Fld := ⟨.CIP_SA_STATUS, 0, 1⟩
def CIP_SA_STATUS_LAST_RESULT : Fld := ⟨.CIP_SA_STATUS, 8, 8⟩
def CIP_SA_STATUS_LAST_SEQ : Fld := ⟨.CIP_SA_STATUS, 16, 16⟩
def CIP_SA_CFG_KIND : Fld := ⟨.CIP_SA_CFG, 0, 2⟩
def CIP_SA_CFG_DIR : Fld := ⟨.CIP_SA_CFG, 2, 1⟩
def CIP_SA_CFG_ESN : Fld := ⟨.CIP_SA_CFG, 3, 1⟩
def CIP_SA_CFG_KEY256 : Fld := ⟨.CIP_SA_CFG, 4, 1⟩
def CIP_SA_CFG_REPLAY : Fld := ⟨.CIP_SA_CFG, 5, 1⟩
def CIP_SA_CFG_FAIL_PASS : Fld := ⟨.CIP_SA_CFG, 6, 1⟩
def CIP_SA_CFG_WINDOW : Fld := ⟨.CIP_SA_CFG, 16, 9⟩
def CIP_SA_CFG_TRUSS_MASK : Fld := ⟨.CIP_SA_CFG, 32, 12⟩
def CIP_SA_SPI_SPI : Fld := ⟨.CIP_SA_SPI, 0, 32⟩
def CIP_SA_PN_PN : Fld := ⟨.CIP_SA_PN, 0, 64⟩
def CIP_SA_SOFT_SOFT_PN : Fld := ⟨.CIP_SA_SOFT, 0, 64⟩
def CIP_SA_CNTIDX_COUNTER : Fld := ⟨.CIP_SA_CNTIDX, 0, 24⟩
def CIP_SA_STATE_STATE : Fld := ⟨.CIP_SA_STATE, 0, 2⟩
def CIP_SA_STATE_SOFT : Fld := ⟨.CIP_SA_STATE, 2, 1⟩
def CIP_SA_STATE_FW_INSTALLED : Fld := ⟨.CIP_SA_STATE, 3, 1⟩
def CIP_SA_NEXT_PN : Fld := ⟨.CIP_SA_NEXT, 0, 64⟩
def CIP_SA_ERRCNT_AUTH : Fld := ⟨.CIP_SA_ERRCNT, 0, 32⟩
def CIP_SA_ERRCNT_REPLAY : Fld := ⟨.CIP_SA_ERRCNT, 32, 32⟩
def CIP_SA_KEY_KEY : Fld := ⟨.CIP_SA_KEY, 0, 64⟩
def CIP_SA_SALT_0_SALT : Fld := ⟨.CIP_SA_SALT_0, 0, 32⟩
def CIP_SA_SALT_1_SALT : Fld := ⟨.CIP_SA_SALT_1, 0, 64⟩
def CIP_RXSC_SEL_MAC : Fld := ⟨.CIP_RXSC_SEL, 0, 4⟩
def CIP_RXSC_SEL_SC : Fld := ⟨.CIP_RXSC_SEL, 8, 5⟩
def CIP_RXSC_SCI_SCI : Fld := ⟨.CIP_RXSC_SCI, 0, 64⟩
def CIP_RXSC_SA_SA (i : Nat) : Fld := ⟨.CIP_RXSC_SA, 0 + 16 * i, 16⟩
def CIP_RXSC_CTL_AN_VALID : Fld := ⟨.CIP_RXSC_CTL, 0, 4⟩
def CIP_RXSC_CTL_EN : Fld := ⟨.CIP_RXSC_CTL, 4, 1⟩
def CIP_MSEC_TX_AN : Fld := ⟨.CIP_MSEC_TX, 0, 2⟩
def CIP_MSEC_TX_SA : Fld := ⟨.CIP_MSEC_TX, 16, 16⟩
def CIP_RAW_WIN_BASE : Fld := ⟨.CIP_RAW_WIN, 0, 16⟩
def CIP_RAW_WIN_COUNT : Fld := ⟨.CIP_RAW_WIN, 16, 17⟩
def CIP_DROP_CNT_NO_SA : Fld := ⟨.CIP_DROP_CNT, 0, 32⟩
def CIP_DROP_CNT_LENGTH : Fld := ⟨.CIP_DROP_CNT, 32, 32⟩
def CIP_FORMAT_CNT_COUNT : Fld := ⟨.CIP_FORMAT_CNT, 0, 32⟩
def CIP_DUP_CNT_MISMATCH : Fld := ⟨.CIP_DUP_CNT, 0, 32⟩
def CIP_STORE_ERR_CE : Fld := ⟨.CIP_STORE_ERR, 0, 32⟩
def CIP_STORE_ERR_UE : Fld := ⟨.CIP_STORE_ERR, 32, 32⟩
def CIP_ERR_CAPTURE_SA : Fld := ⟨.CIP_ERR_CAPTURE, 0, 16⟩
def CIP_ERR_CAPTURE_UNIT : Fld := ⟨.CIP_ERR_CAPTURE, 16, 4⟩
def CIP_ERR_CAPTURE_CAUSE : Fld := ⟨.CIP_ERR_CAPTURE, 20, 4⟩
def CIP_ERR_CAPTURE_VALID : Fld := ⟨.CIP_ERR_CAPTURE, 31, 1⟩
def CIP_EVT_SOFT : Fld := ⟨.CIP_EVT, 0, 1⟩
def CIP_EVT_EXHAUSTED : Fld := ⟨.CIP_EVT, 1, 1⟩
def CIP_EVT_FAULT : Fld := ⟨.CIP_EVT, 2, 1⟩
def CIP_EVT_CMD_DONE : Fld := ⟨.CIP_EVT, 3, 1⟩
def CIP_EVT_EN_EN : Fld := ⟨.CIP_EVT_EN, 0, 4⟩
def CIP_MSIX_VEC_VEC : Fld := ⟨.CIP_MSIX_VEC, 0, 11⟩
def TRS_INFO_FIRMWARE : Fld := ⟨.TRS_INFO, 0, 1⟩
def TRS_INFO_SERVO_LOCAL : Fld := ⟨.TRS_INFO, 8, 6⟩
def TRS_INFO_SERVO_HERE : Fld := ⟨.TRS_INFO, 14, 1⟩
def TRS_INFO_ENTRY : Fld := ⟨.TRS_INFO, 32, 32⟩
def TRS_CYCLE_CYCLE : Fld := ⟨.TRS_CYCLE, 0, 64⟩
def TRS_CMD_OP : Fld := ⟨.TRS_CMD, 0, 4⟩
def TRS_CMD_THREAD : Fld := ⟨.TRS_CMD, 8, 6⟩
def TRS_CMD_SEQ : Fld := ⟨.TRS_CMD, 16, 16⟩
def TRS_STATUS_BUSY : Fld := ⟨.TRS_STATUS, 0, 1⟩
def TRS_STATUS_LAST_RESULT : Fld := ⟨.TRS_STATUS, 8, 8⟩
def TRS_STATUS_LAST_SEQ : Fld := ⟨.TRS_STATUS, 16, 16⟩
def TRS_STATUS_LIVE : Fld := ⟨.TRS_STATUS, 32, 7⟩
def TRS_STATUS_WAITING : Fld := ⟨.TRS_STATUS, 40, 7⟩
def TRS_STATUS_FREE : Fld := ⟨.TRS_STATUS, 48, 7⟩
def TRS_STATUS_STALLED : Fld := ⟨.TRS_STATUS, 56, 1⟩
def TRS_THR_SEL_THREAD : Fld := ⟨.TRS_THR_SEL, 0, 6⟩
def TRS_THR_STATE_STATE : Fld := ⟨.TRS_THR_STATE, 0, 3⟩
def TRS_THR_STATE_IMPLICIT : Fld := ⟨.TRS_THR_STATE, 3, 1⟩
def TRS_THR_STATE_OUTSTANDING : Fld := ⟨.TRS_THR_STATE, 4, 4⟩
def TRS_THR_STATE_DETACHED : Fld := ⟨.TRS_THR_STATE, 8, 1⟩
def TRS_THR_STATE_RAIL_HOLD : Fld := ⟨.TRS_THR_STATE, 9, 1⟩
def TRS_THR_STATE_PARENT : Fld := ⟨.TRS_THR_STATE, 10, 6⟩
def TRS_THR_STATE_WAIT_MASK : Fld := ⟨.TRS_THR_STATE, 16, 11⟩
def TRS_THR_STATE_PENDING : Fld := ⟨.TRS_THR_STATE, 32, 11⟩
def TRS_THR_PC_PC : Fld := ⟨.TRS_THR_PC, 0, 32⟩
def TRS_THR_FAULT_CODE : Fld := ⟨.TRS_THR_FAULT, 0, 8⟩
def TRS_THR_FAULT_VALID : Fld := ⟨.TRS_THR_FAULT, 8, 1⟩
def TRS_THR_FAULT_PC : Fld := ⟨.TRS_THR_FAULT, 32, 32⟩
def TRS_FAULT_MAP_MAP : Fld := ⟨.TRS_FAULT_MAP, 0, 64⟩
def TRS_SUP_CAUSE_THREAD_FAULT : Fld := ⟨.TRS_SUP_CAUSE, 0, 1⟩
def TRS_SUP_CAUSE_STALL : Fld := ⟨.TRS_SUP_CAUSE, 1, 1⟩
def TRS_EQ_STATUS_PACKETS : Fld := ⟨.TRS_EQ_STATUS, 0, 10⟩
def TRS_EQ_STATUS_ENTRIES : Fld := ⟨.TRS_EQ_STATUS, 16, 10⟩
def TRS_EQ_STATUS_WOKEN : Fld := ⟨.TRS_EQ_STATUS, 32, 7⟩
def TRS_ISSUE_CNT_COUNT : Fld := ⟨.TRS_ISSUE_CNT, 0, 64⟩
def TRS_BUBBLE_CNT_COUNT : Fld := ⟨.TRS_BUBBLE_CNT, 0, 64⟩
def TRS_THR_CNT_FORKS : Fld := ⟨.TRS_THR_CNT, 0, 32⟩
def TRS_THR_CNT_FORK_NONE : Fld := ⟨.TRS_THR_CNT, 32, 16⟩
def TRS_THR_CNT_FAULTS : Fld := ⟨.TRS_THR_CNT, 48, 16⟩
def TRS_EVT_STALL : Fld := ⟨.TRS_EVT, 0, 1⟩
def TRS_EVT_SUP_FAULT : Fld := ⟨.TRS_EVT, 1, 1⟩
def TRS_EVT_THREAD_FAULT : Fld := ⟨.TRS_EVT, 2, 1⟩
def TRS_EVT_CMD_DONE : Fld := ⟨.TRS_EVT, 3, 1⟩
def TRS_EVT_EN_EN : Fld := ⟨.TRS_EVT_EN, 0, 4⟩
def TRS_MSIX_VEC_VEC : Fld := ⟨.TRS_MSIX_VEC, 0, 11⟩
def TRS_STORE_ERR_CE : Fld := ⟨.TRS_STORE_ERR, 0, 32⟩
def TRS_STORE_ERR_UE : Fld := ⟨.TRS_STORE_ERR, 32, 32⟩
def TRS_ERR_CAPTURE_THREAD : Fld := ⟨.TRS_ERR_CAPTURE, 0, 6⟩
def TRS_ERR_CAPTURE_KIND : Fld := ⟨.TRS_ERR_CAPTURE, 6, 2⟩
def TRS_ERR_CAPTURE_VALID : Fld := ⟨.TRS_ERR_CAPTURE, 15, 1⟩
def TRS_RAIL_COUNT : Fld := ⟨.TRS_RAIL, 0, 5⟩
def TRS_RAIL_HELD : Fld := ⟨.TRS_RAIL, 5, 1⟩
def TRS_RAIL_READER : Fld := ⟨.TRS_RAIL, 6, 1⟩
def TRS_RAIL_OWNER : Fld := ⟨.TRS_RAIL, 16, 16⟩
def TRS_RAIL_WAITERS : Fld := ⟨.TRS_RAIL, 32, 8⟩
def SPM_INFO_BANKS_PER_BAY : Fld := ⟨.SPM_INFO, 0, 8⟩
def SPM_INFO_BAYS : Fld := ⟨.SPM_INFO, 8, 8⟩
def SPM_INFO_BANK_KIB : Fld := ⟨.SPM_INFO, 16, 16⟩
def SPM_BAY_SEL_BAY : Fld := ⟨.SPM_BAY_SEL, 0, 3⟩
def SPM_BAY_OWNER_OWNER : Fld := ⟨.SPM_BAY_OWNER, 0, 16⟩
def SPM_BAY_OWNER_EXPECT : Fld := ⟨.SPM_BAY_OWNER, 16, 16⟩
def SPM_BAY_OWNER_SEQ : Fld := ⟨.SPM_BAY_OWNER, 32, 16⟩
def SPM_BAY_PWR_MODE : Fld := ⟨.SPM_BAY_PWR, 0, 2⟩
def SPM_BAY_PWR_SEQ : Fld := ⟨.SPM_BAY_PWR, 16, 16⟩
def SPM_BAY_STATUS_STATE : Fld := ⟨.SPM_BAY_STATUS, 0, 1⟩
def SPM_BAY_STATUS_PWR : Fld := ⟨.SPM_BAY_STATUS, 1, 2⟩
def SPM_BAY_STATUS_TRANSIT : Fld := ⟨.SPM_BAY_STATUS, 3, 1⟩
def SPM_BAY_STATUS_LAST_RESULT : Fld := ⟨.SPM_BAY_STATUS, 8, 8⟩
def SPM_BAY_STATUS_LAST_SEQ : Fld := ⟨.SPM_BAY_STATUS, 16, 16⟩
def SPM_MGMT_ADDR_WORD : Fld := ⟨.SPM_MGMT_ADDR, 3, 21⟩
def SPM_MGMT_DATA_DATA : Fld := ⟨.SPM_MGMT_DATA, 0, 64⟩
def SPM_ERR_CNT_NON_OWNER : Fld := ⟨.SPM_ERR_CNT, 0, 32⟩
def SPM_ERR_CAPTURE_OFFSET : Fld := ⟨.SPM_ERR_CAPTURE, 0, 24⟩
def SPM_ERR_CAPTURE_MASTER : Fld := ⟨.SPM_ERR_CAPTURE, 24, 3⟩
def SPM_ERR_CAPTURE_CAUSE : Fld := ⟨.SPM_ERR_CAPTURE, 27, 3⟩
def SPM_ERR_CAPTURE_WRITE : Fld := ⟨.SPM_ERR_CAPTURE, 30, 1⟩
def SPM_ERR_CAPTURE_VALID : Fld := ⟨.SPM_ERR_CAPTURE, 31, 1⟩
def SPM_ERR_CAPTURE_ACTOR : Fld := ⟨.SPM_ERR_CAPTURE, 32, 16⟩
def SPM_ERR_CAPTURE_RECORDED : Fld := ⟨.SPM_ERR_CAPTURE, 48, 16⟩
def SPM_STORE_ERR_CE : Fld := ⟨.SPM_STORE_ERR, 0, 32⟩
def SPM_STORE_ERR_UE : Fld := ⟨.SPM_STORE_ERR, 32, 32⟩
def SPM_EVT_NON_OWNER : Fld := ⟨.SPM_EVT, 0, 1⟩
def SPM_EVT_CMD_DONE : Fld := ⟨.SPM_EVT, 1, 1⟩
def SPM_EVT_STORE_UE : Fld := ⟨.SPM_EVT, 2, 1⟩
def SPM_EVT_EN_EN : Fld := ⟨.SPM_EVT_EN, 0, 3⟩
def SPM_MSIX_VEC_VEC : Fld := ⟨.SPM_MSIX_VEC, 0, 11⟩
def SPM_CONF_CNT_COUNT : Fld := ⟨.SPM_CONF_CNT, 0, 64⟩
def DMA_INFO_CHANNELS : Fld := ⟨.DMA_INFO, 0, 7⟩
def DMA_CH_SEL_CHANNEL : Fld := ⟨.DMA_CH_SEL, 0, 6⟩
def DMA_CH_CFG_BIND_TRUSS : Fld := ⟨.DMA_CH_CFG, 0, 1⟩
def DMA_CH_CFG_TRUSS : Fld := ⟨.DMA_CH_CFG, 4, 2⟩
def DMA_CH_CFG_PRIO : Fld := ⟨.DMA_CH_CFG, 8, 3⟩
def DMA_CH_RING_LOG2_SIZE : Fld := ⟨.DMA_CH_RING, 0, 4⟩
def DMA_CH_RING_BASE : Fld := ⟨.DMA_CH_RING, 8, 56⟩
def DMA_CH_CTL_EN : Fld := ⟨.DMA_CH_CTL, 0, 1⟩
def DMA_CH_DB_ANY : Fld := ⟨.DMA_CH_DB, 0, 32⟩
def DMA_CH_STATUS_STATE : Fld := ⟨.DMA_CH_STATUS, 0, 2⟩
def DMA_CH_STATUS_BARRIER_WAIT : Fld := ⟨.DMA_CH_STATUS, 2, 1⟩
def DMA_CH_STATUS_ALLOC_WAIT : Fld := ⟨.DMA_CH_STATUS, 3, 1⟩
def DMA_CH_STATUS_OUTSTANDING : Fld := ⟨.DMA_CH_STATUS, 4, 6⟩
def DMA_CH_STATUS_HEAD : Fld := ⟨.DMA_CH_STATUS, 16, 16⟩
def DMA_CH_STATUS_TAIL : Fld := ⟨.DMA_CH_STATUS, 32, 16⟩
def DMA_CH_CNT_RELEASED : Fld := ⟨.DMA_CH_CNT, 0, 32⟩
def DMA_CH_CNT_FAILED : Fld := ⟨.DMA_CH_CNT, 32, 32⟩
def DMA_ERR_CNT_COUNT : Fld := ⟨.DMA_ERR_CNT, 0, 32⟩
def DMA_ERR_CAPTURE_CHANNEL : Fld := ⟨.DMA_ERR_CAPTURE, 0, 6⟩
def DMA_ERR_CAPTURE_STATUS : Fld := ⟨.DMA_ERR_CAPTURE, 8, 8⟩
def DMA_ERR_CAPTURE_INDEX : Fld := ⟨.DMA_ERR_CAPTURE, 16, 16⟩
def DMA_ERR_CAPTURE_VALID : Fld := ⟨.DMA_ERR_CAPTURE, 63, 1⟩
def DMA_EVT_CH_STOPPED : Fld := ⟨.DMA_EVT, 0, 1⟩
def DMA_EVT_DONE : Fld := ⟨.DMA_EVT, 1, 1⟩
def DMA_EVT_EN_EN : Fld := ⟨.DMA_EVT_EN, 0, 2⟩
def DMA_MSIX_VEC_VEC : Fld := ⟨.DMA_MSIX_VEC, 0, 11⟩
def FCU_SAFE_CMD_OP : Fld := ⟨.FCU_SAFE_CMD, 0, 2⟩
def FCU_SAFE_CMD_SEQ : Fld := ⟨.FCU_SAFE_CMD, 16, 16⟩
def FCU_SAFE_STATUS_STATE : Fld := ⟨.FCU_SAFE_STATUS, 0, 2⟩
def FCU_SAFE_STATUS_CAUSE : Fld := ⟨.FCU_SAFE_STATUS, 2, 2⟩
def FCU_SAFE_STATUS_SELF_FAULT : Fld := ⟨.FCU_SAFE_STATUS, 4, 1⟩
def FCU_SAFE_STATUS_LAST_RESULT : Fld := ⟨.FCU_SAFE_STATUS, 8, 8⟩
def FCU_SAFE_STATUS_LAST_SEQ : Fld := ⟨.FCU_SAFE_STATUS, 16, 16⟩
def FCU_SAFE_STATUS_SELF_REG : Fld := ⟨.FCU_SAFE_STATUS, 32, 16⟩
def FCU_PIN_HOLD : Fld := ⟨.FCU_PIN, 0, 1⟩
def FCU_PIN_LEVEL : Fld := ⟨.FCU_PIN, 1, 1⟩
def FCU_PIN_PULSE : Fld := ⟨.FCU_PIN, 2, 1⟩
def FCU_PIN_PULSE_US : Fld := ⟨.FCU_PIN, 4, 12⟩
def FCU_EVT_CE_NEW : Fld := ⟨.FCU_EVT, 0, 1⟩
def FCU_EVT_UCC_NEW : Fld := ⟨.FCU_EVT, 1, 1⟩
def FCU_EVT_FAT_NEW : Fld := ⟨.FCU_EVT, 2, 1⟩
def FCU_EVT_SAFE_DONE : Fld := ⟨.FCU_EVT, 3, 1⟩
def FCU_EVT_EN_EN : Fld := ⟨.FCU_EVT_EN, 0, 4⟩
def FCU_MSIX_VEC_VEC : Fld := ⟨.FCU_MSIX_VEC, 0, 11⟩
def FCU_CAP_SOURCE : Fld := ⟨.FCU_CAP, 0, 8⟩
def FCU_CAP_CODE : Fld := ⟨.FCU_CAP, 8, 8⟩
def FCU_CAP_OVF : Fld := ⟨.FCU_CAP, 62, 1⟩
def FCU_CAP_VALID : Fld := ⟨.FCU_CAP, 63, 1⟩
def FCU_DETAIL_DETAIL : Fld := ⟨.FCU_DETAIL, 0, 64⟩
def FCU_TIME_WIDE : Fld := ⟨.FCU_TIME, 0, 64⟩
def FCU_CNT_COUNT : Fld := ⟨.FCU_CNT, 0, 32⟩
def SEC_LC_STATE : Fld := ⟨.SEC_LC, 0, 2⟩
def SEC_UID_UID : Fld := ⟨.SEC_UID, 0, 64⟩
def SEC_UID_HI_UID : Fld := ⟨.SEC_UID_HI, 0, 64⟩
def SEC_CMD_OP : Fld := ⟨.SEC_CMD, 0, 4⟩
def SEC_CMD_SEQ : Fld := ⟨.SEC_CMD, 16, 16⟩
def SEC_STATUS_BUSY : Fld := ⟨.SEC_STATUS, 0, 1⟩
def SEC_STATUS_LAST_RESULT : Fld := ⟨.SEC_STATUS, 8, 8⟩
def SEC_STATUS_LAST_SEQ : Fld := ⟨.SEC_STATUS, 16, 16⟩
def SEC_ARG_SEL_VALUE : Fld := ⟨.SEC_ARG_SEL, 0, 24⟩
def SEC_ARG_HASH : Fld := ⟨.SEC_ARG, 0, 64⟩
def SEC_BOOT_STATUS_TH_COPY : Fld := ⟨.SEC_BOOT_STATUS, 0, 1⟩
def SEC_BOOT_STATUS_IMAGE_OK : Fld := ⟨.SEC_BOOT_STATUS, 1, 1⟩
def SEC_BOOT_STATUS_IMAGE_INDEX : Fld := ⟨.SEC_BOOT_STATUS, 2, 2⟩
def SEC_BOOT_STATUS_FUSE_REPAIRED : Fld := ⟨.SEC_BOOT_STATUS, 4, 1⟩
def SEC_BOOT_STATUS_WOKE : Fld := ⟨.SEC_BOOT_STATUS, 5, 1⟩
def SEC_BOOT_STATUS_TH_SVN : Fld := ⟨.SEC_BOOT_STATUS, 16, 16⟩
def SEC_SVN_TH_MIN_SVN : Fld := ⟨.SEC_SVN, 0, 16⟩
def SEC_SVN_SVN_WORDS_LEFT : Fld := ⟨.SEC_SVN, 16, 7⟩
def SEC_SVN_TH_WORDS_LEFT : Fld := ⟨.SEC_SVN, 32, 6⟩
def SEC_KEYS_PRESENT : Fld := ⟨.SEC_KEYS, 0, 32⟩
def SEC_KEYS_REVOKED : Fld := ⟨.SEC_KEYS, 32, 32⟩
def SEC_EVT_CMD_DONE : Fld := ⟨.SEC_EVT, 0, 1⟩
def SEC_EVT_NO_IMAGE : Fld := ⟨.SEC_EVT, 1, 1⟩
def SEC_EVT_EN_EN : Fld := ⟨.SEC_EVT_EN, 0, 2⟩
def SEC_MSIX_VEC_VEC : Fld := ⟨.SEC_MSIX_VEC, 0, 11⟩
def PWR_CMD_OP : Fld := ⟨.PWR_CMD, 0, 2⟩
def PWR_CMD_DOMAIN : Fld := ⟨.PWR_CMD, 8, 8⟩
def PWR_CMD_SEQ : Fld := ⟨.PWR_CMD, 16, 16⟩
def PWR_STATUS_STATE : Fld := ⟨.PWR_STATUS, 0, 2⟩
def PWR_STATUS_BUSY : Fld := ⟨.PWR_STATUS, 2, 1⟩
def PWR_STATUS_LAST_RESULT : Fld := ⟨.PWR_STATUS, 8, 8⟩
def PWR_STATUS_LAST_SEQ : Fld := ⟨.PWR_STATUS, 16, 16⟩
def PWR_DOMAINS_PIER (i : Nat) : Fld := ⟨.PWR_DOMAINS, 0 + 2 * i, 2⟩
def PWR_DOMAINS_TRUSS (i : Nat) : Fld := ⟨.PWR_DOMAINS, 8 + 2 * i, 2⟩
def PWR_WAKE_CNT_COUNT : Fld := ⟨.PWR_WAKE_CNT, 0, 32⟩
def PWR_STANDBY_WAKE_CAUSE : Fld := ⟨.PWR_STANDBY_WAKE, 0, 2⟩
def PWR_STANDBY_WAKE_DURATION_S : Fld := ⟨.PWR_STANDBY_WAKE, 32, 32⟩
def PWR_EVT_CMD_DONE : Fld := ⟨.PWR_EVT, 0, 1⟩
def PWR_EVT_GATE_REFUSED : Fld := ⟨.PWR_EVT, 1, 1⟩
def PWR_EVT_WOKEN : Fld := ⟨.PWR_EVT, 2, 1⟩
def PWR_EVT_EN_EN : Fld := ⟨.PWR_EVT_EN, 0, 3⟩
def PWR_MSIX_VEC_VEC : Fld := ⟨.PWR_MSIX_VEC, 0, 11⟩
def DBG_CMD_OP : Fld := ⟨.DBG_CMD, 0, 2⟩
def DBG_CMD_LEVEL : Fld := ⟨.DBG_CMD, 4, 2⟩
def DBG_CMD_SEQ : Fld := ⟨.DBG_CMD, 16, 16⟩
def DBG_STATUS_LEVEL : Fld := ⟨.DBG_STATUS, 0, 2⟩
def DBG_STATUS_GATED : Fld := ⟨.DBG_STATUS, 2, 1⟩
def DBG_STATUS_RAIL_HELD : Fld := ⟨.DBG_STATUS, 3, 1⟩
def DBG_STATUS_DENIED : Fld := ⟨.DBG_STATUS, 4, 1⟩
def DBG_STATUS_EVER_OPENED : Fld := ⟨.DBG_STATUS, 5, 1⟩
def DBG_STATUS_LAST_RESULT : Fld := ⟨.DBG_STATUS, 8, 8⟩
def DBG_STATUS_LAST_SEQ : Fld := ⟨.DBG_STATUS, 16, 16⟩
def DBG_STATUS_SPAN : Fld := ⟨.DBG_STATUS, 32, 12⟩
def DBG_STATUS_REJECT_CAUSE : Fld := ⟨.DBG_STATUS, 44, 4⟩
def DBG_STATUS_TRUSS_MASK : Fld := ⟨.DBG_STATUS, 48, 12⟩
def DBG_TOKEN_DATA_WORD : Fld := ⟨.DBG_TOKEN_DATA, 0, 64⟩
def DBG_TOKEN_PTR_INDEX : Fld := ⟨.DBG_TOKEN_PTR, 0, 10⟩
def DBG_NONCE_NONCE : Fld := ⟨.DBG_NONCE, 0, 64⟩
def DBG_THR_SEL_THREAD : Fld := ⟨.DBG_THR_SEL, 0, 10⟩
def DBG_THR_CMD_OP : Fld := ⟨.DBG_THR_CMD, 0, 3⟩
def DBG_THR_CMD_SEQ : Fld := ⟨.DBG_THR_CMD, 16, 16⟩
def DBG_THR_STATUS_STATE : Fld := ⟨.DBG_THR_STATUS, 0, 3⟩
def DBG_THR_STATUS_PRIOR : Fld := ⟨.DBG_THR_STATUS, 3, 3⟩
def DBG_THR_STATUS_LAST_RESULT : Fld := ⟨.DBG_THR_STATUS, 8, 8⟩
def DBG_THR_STATUS_LAST_SEQ : Fld := ⟨.DBG_THR_STATUS, 16, 16⟩
def DBG_THR_STATUS_PC : Fld := ⟨.DBG_THR_STATUS, 32, 32⟩
def DBG_REG_SEL_REG : Fld := ⟨.DBG_REG_SEL, 0, 6⟩
def DBG_REG_DATA_DATA : Fld := ⟨.DBG_REG_DATA, 0, 64⟩
def DBG_SPM_ADDR_WORD : Fld := ⟨.DBG_SPM_ADDR, 3, 21⟩
def DBG_SPM_ADDR_PIER : Fld := ⟨.DBG_SPM_ADDR, 24, 2⟩
def DBG_SPM_DATA_DATA : Fld := ⟨.DBG_SPM_DATA, 0, 64⟩
def DBG_REMAIN_SECONDS : Fld := ⟨.DBG_REMAIN, 0, 17⟩
def PWR_TJ_CFG_LIMIT : Fld := ⟨.PWR_TJ_CFG, 0, 12⟩
def PWR_TJ_CFG_CRIT : Fld := ⟨.PWR_TJ_CFG, 16, 12⟩
def PWR_TJ_CFG_HYST : Fld := ⟨.PWR_TJ_CFG, 32, 4⟩
def PWR_TJ_STATUS_HOT : Fld := ⟨.PWR_TJ_STATUS, 0, 12⟩
def PWR_TJ_STATUS_HOT_SENSOR : Fld := ⟨.PWR_TJ_STATUS, 16, 5⟩
def PWR_TJ_STATUS_OVER_LIMIT : Fld := ⟨.PWR_TJ_STATUS, 24, 1⟩
def PWR_TJ_STATUS_THERM : Fld := ⟨.PWR_TJ_STATUS, 25, 1⟩
def PWR_TJ_PEAK_PEAK : Fld := ⟨.PWR_TJ_PEAK, 0, 12⟩
def PWR_TJ_PEAK_SENSOR : Fld := ⟨.PWR_TJ_PEAK, 16, 5⟩
def PWR_TJ_EQ_TEQ : Fld := ⟨.PWR_TJ_EQ, 0, 12⟩
def PWR_TJ_EQ_SECONDS : Fld := ⟨.PWR_TJ_EQ, 32, 32⟩
def PWR_SUPPLY_STATUS_OUT : Fld := ⟨.PWR_SUPPLY_STATUS, 0, 8⟩
def PWR_SUPPLY_STATUS_SEEN : Fld := ⟨.PWR_SUPPLY_STATUS, 8, 8⟩
def PWR_AGE_CFG_WARN : Fld := ⟨.PWR_AGE_CFG, 0, 8⟩
def PWR_BOARD_BOARD_OK : Fld := ⟨.PWR_BOARD, 0, 1⟩
def PWR_BOARD_KEYREC_OK : Fld := ⟨.PWR_BOARD, 1, 1⟩
def PWR_BOARD_FLASH_DEVS : Fld := ⟨.PWR_BOARD, 8, 3⟩
def PWR_TJ_TJ : Fld := ⟨.PWR_TJ, 0, 12⟩
def PWR_TJ_VALID : Fld := ⟨.PWR_TJ, 15, 1⟩
def PWR_SUPPLY_MV : Fld := ⟨.PWR_SUPPLY, 0, 16⟩
def PWR_SUPPLY_MIN_MV : Fld := ⟨.PWR_SUPPLY, 16, 16⟩
def PWR_SUPPLY_MAX_MV : Fld := ⟨.PWR_SUPPLY, 32, 16⟩
def PWR_AGE_CONSUMED : Fld := ⟨.PWR_AGE, 0, 8⟩
def PWR_AGE_VALID : Fld := ⟨.PWR_AGE, 8, 1⟩
def PWR_AGE_MEASURED_S : Fld := ⟨.PWR_AGE, 32, 32⟩
def TOP_UPTIME_COUNT : Fld := ⟨.TOP_UPTIME, 0, 64⟩
def CFG_SWAP_CNT_COUNT : Fld := ⟨.CFG_SWAP_CNT, 0, 32⟩
def TOP_SCRATCH_VALUE : Fld := ⟨.TOP_SCRATCH, 0, 32⟩
def STU_DRAINED_MAP_MAP : Fld := ⟨.STU_DRAINED_MAP, 0, 64⟩
def STU_LATE_MAP_MAP : Fld := ⟨.STU_LATE_MAP, 0, 64⟩
def STU_QREQ_MAP_MAP : Fld := ⟨.STU_QREQ_MAP, 0, 64⟩
def CIP_SOFT_MAP_MAP : Fld := ⟨.CIP_SOFT_MAP, 0, 64⟩
def CIP_EXH_MAP_MAP : Fld := ⟨.CIP_EXH_MAP, 0, 64⟩
def MBX_FULL_MAP_MAP : Fld := ⟨.MBX_FULL_MAP, 0, 64⟩
def CLS_RULE_KEY_BITS : Fld := ⟨.CLS_RULE_KEY, 0, 64⟩
def CLS_RULE_MASK_BITS : Fld := ⟨.CLS_RULE_MASK, 0, 64⟩
def VS_ADDR_OFFSET : Fld := ⟨.VS_ADDR, 3, 25⟩
def VS_DATA_LO_DATA : Fld := ⟨.VS_DATA_LO, 0, 32⟩
def VS_DATA_HI_DATA : Fld := ⟨.VS_DATA_HI, 0, 32⟩

end F

/-- The field table of each register. -/
def Reg.fields : Reg → List FieldRow
  | .TOP_ID => [⟨0, 16, .ro, .fixed⟩, ⟨16, 8, .ro, .fixed⟩]
  | .TOP_GRADE => [⟨0, 1, .ro, .fixed⟩]
  | .TOP_STRAP => [⟨0, 3, .ro, .fixed⟩, ⟨4, 2, .ro, .fixed⟩]
  | .TOP_CLK_STATUS => [⟨0, 1, .ro, .fixed⟩, ⟨1, 1, .w1c, .immediate⟩, ⟨2, 1, .w1c, .immediate⟩]
  | .TOP_UPTIME => [⟨0, 64, .ro, .fixed⟩]
  | .TOP_SCRATCH => [⟨0, 32, .rw, .immediate⟩]
  | .RLC_STATUS => [⟨0, 1, .ro, .fixed⟩]
  | .RLC_CE_CNT => [⟨0, 32, .rc, .fixed⟩]
  | .RLC_UE_CNT => [⟨0, 32, .rc, .fixed⟩]
  | .RLC_UE_ADDR => [⟨0, 37, .ro, .fixed⟩, ⟨63, 1, .w1c, .immediate⟩]
  | .RLC_ACCESS_CNT => [⟨0, 64, .rc, .fixed⟩]
  | .RLC_EVT => [⟨0, 8, .w1c, .immediate⟩]
  | .RLC_EVT_EN => [⟨0, 8, .rw, .immediate⟩]
  | .RLC_MSIX_VEC => [⟨0, 11, .rw, .immediate⟩]
  | .CFG_CMD => [⟨0, 4, .wo, .immediate⟩, ⟨4, 2, .wo, .immediate⟩, ⟨16, 16, .wo, .immediate⟩]
  | .CFG_STATUS => [⟨0, 3, .ro, .fixed⟩, ⟨3, 1, .ro, .fixed⟩, ⟨8, 8, .ro, .fixed⟩, ⟨16, 16, .ro, .fixed⟩]
  | .CFG_STAGE_ADDR => [⟨12, 52, .rw, (.epoch .stageHost)⟩]
  | .CFG_STAGE_LEN => [⟨0, 26, .rw, (.epoch .stageHost)⟩]
  | .CFG_DRAIN_LIMIT => [⟨0, 7, .rw, (.epoch .commitRollback)⟩]
  | .CFG_MIN_SVN => [⟨0, 16, .ro, .fixed⟩]
  | .CFG_ACTIVE_VER => [⟨0, 32, .ro, .fixed⟩, ⟨32, 16, .ro, .fixed⟩, ⟨63, 1, .ro, .fixed⟩]
  | .CFG_PREV_VER => [⟨0, 32, .ro, .fixed⟩, ⟨32, 16, .ro, .fixed⟩, ⟨63, 1, .ro, .fixed⟩]
  | .CFG_STAGED_VER => [⟨0, 32, .ro, .fixed⟩, ⟨32, 16, .ro, .fixed⟩, ⟨63, 1, .ro, .fixed⟩]
  | .CFG_LAST_SWAP => [⟨0, 32, .ro, .fixed⟩, ⟨32, 32, .ro, .fixed⟩]
  | .CFG_HOLD_PEAK => [⟨0, 32, .rc, .fixed⟩]
  | .CFG_REBUILT => [⟨0, 4, .ro, .fixed⟩, ⟨4, 4, .ro, .fixed⟩, ⟨8, 4, .ro, .fixed⟩, ⟨12, 12, .ro, .fixed⟩, ⟨24, 1, .ro, .fixed⟩, ⟨25, 1, .ro, .fixed⟩, ⟨26, 1, .ro, .fixed⟩]
  | .CFG_HOST_PENDING => [⟨0, 8, .ro, .fixed⟩]
  | .CFG_SWAP_CNT => [⟨0, 32, .ro, .fixed⟩]
  | .CFG_MSIX_VEC => [⟨0, 11, .rw, .immediate⟩]
  | .VS_ADDR => [⟨3, 25, .rw, .immediate⟩]
  | .VS_DATA_LO => [⟨0, 32, .rw, .immediate⟩]
  | .VS_DATA_HI => [⟨0, 32, .rw, .immediate⟩]
  | .HEP_BIFUR => [⟨0, 2, .ro, .fixed⟩, ⟨2, 2, .ro, .fixed⟩]
  | .HEP_MGMT_LINK => [⟨0, 3, .ro, .fixed⟩]
  | .HEP_LINK_STATE => [⟨0, 4, .ro, .fixed⟩, ⟨4, 4, .ro, .fixed⟩, ⟨8, 4, .ro, .fixed⟩, ⟨12, 4, .ro, .fixed⟩, ⟨16, 4, .ro, .fixed⟩, ⟨20, 4, .ro, .fixed⟩, ⟨24, 4, .ro, .fixed⟩, ⟨28, 4, .ro, .fixed⟩]
  | .HEP_LINK_EVT => [⟨0, 8, .w1c, .immediate⟩, ⟨8, 8, .w1c, .immediate⟩, ⟨16, 8, .w1c, .immediate⟩, ⟨24, 8, .w1c, .immediate⟩]
  | .HEP_LINK_EVT_EN => [⟨0, 32, .rw, .immediate⟩]
  | .HEP_MSIX_VEC => [⟨0, 11, .rw, .immediate⟩]
  | .HEP_CPL_TO_CNT => [⟨0, 32, .rc, .fixed⟩]
  | .HEP_LATE_CPL => [⟨0, 32, .rc, .fixed⟩]
  | .HEP_TO_CAPTURE => [⟨0, 16, .ro, .fixed⟩, ⟨16, 14, .ro, .fixed⟩, ⟨32, 3, .ro, .fixed⟩, ⟨40, 1, .w1c, .immediate⟩]
  | .HEP_POISON_CNT => [⟨0, 32, .rc, .fixed⟩, ⟨32, 32, .rc, .fixed⟩]
  | .HEP_DROP_CNT => [⟨0, 32, .rc, .fixed⟩]
  | .HEP_MGMT_PATH => [⟨0, 32, .rc, .fixed⟩, ⟨32, 32, .rc, .fixed⟩]
  | .HEP_TDISP_LOCKED => [⟨0, 9, .ro, .fixed⟩]
  | .HEP_TDISP_EVT => [⟨0, 1, .w1c, .immediate⟩, ⟨1, 1, .w1c, .immediate⟩, ⟨16, 12, .ro, .fixed⟩]
  | .HEP_LINK_INFO => [⟨0, 4, .ro, .fixed⟩, ⟨4, 5, .ro, .fixed⟩, ⟨9, 1, .ro, .fixed⟩]
  | .HEP_LINK_TAGS => [⟨0, 15, .ro, .fixed⟩, ⟨16, 15, .ro, .fixed⟩]
  | .HEP_LINK_CPL_TO => [⟨0, 26, .ro, .fixed⟩]
  | .HEP_LINK_SPAN_MAP => [⟨0, 12, .ro, .image⟩, ⟨16, 13, .ro, .image⟩]
  | .STU_SPAN_SEL => [⟨0, 12, .rw, .immediate⟩]
  | .STU_SPAN_CMD => [⟨0, 4, .wo, .immediate⟩, ⟨16, 16, .wo, .immediate⟩]
  | .STU_SPAN_STATUS => [⟨0, 3, .ro, .fixed⟩, ⟨3, 1, .ro, .fixed⟩, ⟨4, 1, .ro, .fixed⟩, ⟨5, 1, .ro, .fixed⟩, ⟨6, 1, .ro, .fixed⟩, ⟨7, 1, .ro, .fixed⟩, ⟨8, 8, .ro, .fixed⟩, ⟨16, 16, .ro, .fixed⟩, ⟨32, 16, .ro, .fixed⟩, ⟨48, 9, .ro, .image⟩]
  | .STU_CTX_XLATE => [⟨0, 2, .rw, .quiesced⟩, ⟨2, 1, .rw, .quiesced⟩, ⟨12, 52, .rw, .quiesced⟩]
  | .STU_LOG_CTL => [⟨0, 1, .rw, .immediate⟩, ⟨1, 1, .ro, .fixed⟩, ⟨2, 1, .w1c, .immediate⟩, ⟨3, 1, .w1c, .immediate⟩, ⟨8, 37, .rw, (.epoch .logEn)⟩]
  | .STU_LOG_BASE_A => [⟨12, 52, .rw, (.epoch .logEnOrSwap)⟩]
  | .STU_LOG_BASE_B => [⟨12, 52, .rw, (.epoch .logEnOrSwap)⟩]
  | .STU_XFER_ADDR => [⟨12, 52, .rw, (.epoch .transfer)⟩]
  | .STU_WIN_SEL => [⟨0, 3, .rw, .immediate⟩]
  | .STU_WIN_BASE => [⟨12, 24, .rw, (.epoch .winCommit)⟩]
  | .STU_WIN_TARGET => [⟨12, 25, .rw, (.epoch .winCommit)⟩, ⟨40, 2, .rw, (.epoch .winCommit)⟩, ⟨63, 1, .rw, (.epoch .winCommit)⟩]
  | .STU_WIN_CTL => [⟨0, 1, .rw, (.epoch .winCommit)⟩, ⟨1, 1, .rw, (.epoch .winCommit)⟩, ⟨2, 1, .rw, (.epoch .winCommit)⟩, ⟨16, 25, .rw, (.epoch .winCommit)⟩]
  | .STU_WIN_COMMIT => [⟨0, 1, .wo, .immediate⟩]
  | .STU_WIN_STATUS => [⟨0, 1, .ro, .fixed⟩, ⟨1, 1, .ro, .fixed⟩, ⟨8, 8, .ro, .fixed⟩, ⟨32, 32, .ro, .fixed⟩]
  | .STU_INV_ADDR => [⟨12, 52, .rw, .immediate⟩]
  | .STU_INV_CMD => [⟨0, 12, .wo, .immediate⟩, ⟨12, 2, .wo, .immediate⟩, ⟨16, 16, .wo, .immediate⟩]
  | .STU_INV_STATUS => [⟨0, 1, .ro, .fixed⟩, ⟨16, 16, .ro, .fixed⟩]
  | .STU_RCV_CMD => [⟨0, 4, .wo, .immediate⟩, ⟨16, 16, .wo, .immediate⟩]
  | .STU_RCV_ARG0 => [⟨0, 64, .rw, .immediate⟩]
  | .STU_RCV_ARG1 => [⟨0, 16, .rw, .immediate⟩, ⟨16, 16, .rw, .immediate⟩]
  | .STU_RCV_STATUS => [⟨0, 1, .ro, .fixed⟩, ⟨8, 8, .ro, .fixed⟩, ⟨16, 16, .ro, .fixed⟩, ⟨32, 26, .ro, .fixed⟩]
  | .STU_FAULT_CAPTURE => [⟨0, 12, .ro, .fixed⟩, ⟨12, 2, .ro, .fixed⟩, ⟨14, 1, .ro, .fixed⟩, ⟨15, 1, .w1c, .immediate⟩, ⟨16, 36, .ro, .fixed⟩]
  | .STU_FAULT_CNT => [⟨0, 32, .rc, .fixed⟩, ⟨32, 32, .rc, .fixed⟩]
  | .STU_WIN_MISS => [⟨0, 32, .rc, .fixed⟩]
  | .STU_EVT => [⟨0, 1, .w1c, .immediate⟩, ⟨1, 1, .w1c, .immediate⟩, ⟨2, 1, .w1c, .immediate⟩, ⟨3, 1, .w1c, .immediate⟩, ⟨4, 1, .w1c, .immediate⟩, ⟨5, 1, .w1c, .immediate⟩]
  | .STU_EVT_EN => [⟨0, 6, .rw, .immediate⟩]
  | .STU_MSIX_VEC => [⟨0, 11, .rw, .immediate⟩]
  | .STU_DRAINED_MAP => [⟨0, 64, .w1c, .immediate⟩]
  | .STU_LATE_MAP => [⟨0, 64, .w1c, .immediate⟩]
  | .STU_QREQ_MAP => [⟨0, 64, .w1c, .immediate⟩]
  | .QE_Q_SEL => [⟨0, 16, .rw, .immediate⟩]
  | .QE_Q_CMD => [⟨0, 4, .wo, .immediate⟩, ⟨16, 16, .wo, .immediate⟩]
  | .QE_Q_STATUS => [⟨0, 2, .ro, .fixed⟩, ⟨2, 1, .ro, .fixed⟩, ⟨3, 1, .ro, .fixed⟩, ⟨8, 8, .ro, .fixed⟩, ⟨16, 16, .ro, .fixed⟩, ⟨32, 12, .ro, .image⟩, ⟨44, 8, .ro, .image⟩, ⟨52, 4, .ro, .image⟩, ⟨56, 4, .ro, .image⟩]
  | .QE_CTX_RING => [⟨0, 4, .rw, .quiesced⟩, ⟨8, 56, .rw, .quiesced⟩]
  | .QE_CTX_CFG => [⟨0, 8, .rw, .quiesced⟩, ⟨8, 1, .rw, (.epoch .entryFetched)⟩, ⟨16, 9, .rw, (.epoch .fetch)⟩]
  | .QE_CTX_MOD => [⟨0, 10, .rw, .immediate⟩, ⟨16, 8, .rw, .immediate⟩]
  | .QE_CTX_EVT => [⟨0, 6, .rw, .immediate⟩]
  | .QE_CTX_IDX => [⟨0, 16, .ro, .fixed⟩, ⟨16, 16, .ro, .fixed⟩, ⟨32, 16, .ro, .fixed⟩]
  | .QE_CTX_CNT => [⟨0, 32, .ro, .fixed⟩, ⟨32, 32, .ro, .fixed⟩]
  | .QE_ERR_CNT => [⟨0, 32, .rc, .fixed⟩, ⟨32, 32, .rc, .fixed⟩]
  | .QE_ERR_CAPTURE => [⟨0, 16, .ro, .fixed⟩, ⟨16, 16, .ro, .fixed⟩, ⟨32, 8, .ro, .fixed⟩, ⟨40, 1, .w1c, .immediate⟩]
  | .QE_RX_DROP_CNT => [⟨0, 32, .rc, .fixed⟩]
  | .QE_EVT => [⟨0, 1, .w1c, .immediate⟩, ⟨1, 1, .w1c, .immediate⟩]
  | .QE_EVT_EN => [⟨0, 2, .rw, .immediate⟩]
  | .QE_MSIX_VEC => [⟨0, 11, .rw, .immediate⟩]
  | .QE_CACHE_USE => [⟨0, 17, .ro, .fixed⟩]
  | .MBX_SEL => [⟨0, 13, .rw, .immediate⟩]
  | .MBX_TO => [⟨0, 64, .wo, .immediate⟩]
  | .MBX_FROM => [⟨0, 64, .rc, .fixed⟩]
  | .MBX_STATUS => [⟨0, 1, .ro, .fixed⟩, ⟨1, 1, .ro, .fixed⟩, ⟨2, 1, .w1c, .immediate⟩]
  | .MBX_ROUTE => [⟨0, 1, .rw, .quiesced⟩, ⟨1, 4, .rw, .quiesced⟩]
  | .MBX_EVT => [⟨0, 1, .w1c, .immediate⟩]
  | .MBX_EVT_EN => [⟨0, 1, .rw, .immediate⟩]
  | .MBX_MSIX_VEC => [⟨0, 11, .rw, .immediate⟩]
  | .MBX_FULL_MAP => [⟨0, 64, .ro, .fixed⟩]
  | .MAC_DIST_HASH_CFG => [⟨0, 32, .ro, .image⟩, ⟨32, 2, .ro, .image⟩, ⟨36, 1, .ro, .image⟩, ⟨37, 1, .ro, .image⟩, ⟨38, 1, .ro, .image⟩, ⟨39, 1, .ro, .image⟩]
  | .MAC_DIST_PIER_MAP => [⟨0, 2, .ro, .image⟩, ⟨2, 2, .ro, .image⟩, ⟨4, 2, .ro, .image⟩, ⟨6, 2, .ro, .image⟩, ⟨8, 2, .ro, .image⟩, ⟨10, 2, .ro, .image⟩, ⟨12, 2, .ro, .image⟩, ⟨14, 2, .ro, .image⟩, ⟨16, 2, .ro, .image⟩, ⟨18, 2, .ro, .image⟩, ⟨20, 2, .ro, .image⟩, ⟨22, 2, .ro, .image⟩, ⟨24, 2, .ro, .image⟩, ⟨26, 2, .ro, .image⟩, ⟨28, 2, .ro, .image⟩, ⟨30, 2, .ro, .image⟩, ⟨32, 2, .ro, .image⟩, ⟨34, 2, .ro, .image⟩, ⟨36, 2, .ro, .image⟩, ⟨38, 2, .ro, .image⟩, ⟨40, 2, .ro, .image⟩, ⟨42, 2, .ro, .image⟩, ⟨44, 2, .ro, .image⟩, ⟨46, 2, .ro, .image⟩, ⟨48, 2, .ro, .image⟩, ⟨50, 2, .ro, .image⟩, ⟨52, 2, .ro, .image⟩, ⟨54, 2, .ro, .image⟩, ⟨56, 2, .ro, .image⟩, ⟨58, 2, .ro, .image⟩, ⟨60, 2, .ro, .image⟩, ⟨62, 2, .ro, .image⟩]
  | .MAC_DIST_SVC => [⟨0, 2, .rw, (.epoch .portPacket)⟩, ⟨4, 3, .ro, .fixed⟩, ⟨8, 1, .rw, (.epoch .portPacket)⟩, ⟨16, 16, .rw, (.epoch .portPacket)⟩]
  | .MAC_DIST_DEF_CNT => [⟨0, 32, .rc, .fixed⟩, ⟨32, 32, .rc, .fixed⟩]
  | .PRS_GRAPH_INFO => [⟨0, 9, .ro, .image⟩, ⟨16, 9, .ro, .image⟩]
  | .PRS_LIMITS => [⟨0, 5, .ro, .fixed⟩, ⟨8, 10, .ro, .fixed⟩, ⟨24, 2, .ro, .fixed⟩]
  | .PRS_CNT => [⟨0, 32, .rc, .fixed⟩, ⟨32, 32, .rc, .fixed⟩]
  | .PRS_FRAG_CNT => [⟨0, 32, .rc, .fixed⟩]
  | .PRS_EGR_FAIL_CNT => [⟨0, 32, .rc, .fixed⟩]
  | .PRS_ERR_CAPTURE => [⟨0, 3, .ro, .fixed⟩, ⟨3, 1, .ro, .fixed⟩, ⟨4, 4, .ro, .fixed⟩, ⟨8, 8, .ro, .fixed⟩, ⟨16, 10, .ro, .fixed⟩, ⟨26, 2, .ro, .fixed⟩, ⟨28, 5, .ro, .fixed⟩, ⟨33, 16, .ro, .fixed⟩, ⟨63, 1, .w1c, .immediate⟩]
  | .PRS_STORE_ERR => [⟨0, 32, .rc, .fixed⟩, ⟨32, 32, .rc, .fixed⟩]
  | .CLS_SP_RATE => [⟨0, 16, .rw, (.epoch .slowRefill)⟩]
  | .CLS_SP_BURST => [⟨0, 16, .rw, .immediate⟩]
  | .CLS_SP_TOKENS => [⟨0, 24, .ro, .fixed⟩]
  | .CLS_SP_TARGET => [⟨0, 3, .rw, (.epoch .pierPacket)⟩, ⟨3, 3, .rw, (.epoch .pierPacket)⟩, ⟨6, 3, .rw, (.epoch .pierPacket)⟩, ⟨9, 3, .rw, (.epoch .pierPacket)⟩, ⟨12, 3, .rw, (.epoch .pierPacket)⟩]
  | .CLS_SP_ADMIT_CNT => [⟨0, 64, .rc, .fixed⟩]
  | .CLS_POLICE_CNT => [⟨0, 32, .rc, .fixed⟩, ⟨32, 32, .rc, .fixed⟩]
  | .CLS_RULE_SEL => [⟨0, 16, .rw, .immediate⟩]
  | .CLS_RULE_CMD => [⟨0, 2, .wo, .immediate⟩, ⟨16, 16, .wo, .immediate⟩]
  | .CLS_RULE_STATUS => [⟨0, 1, .ro, .fixed⟩, ⟨8, 8, .ro, .fixed⟩, ⟨16, 16, .ro, .fixed⟩, ⟨32, 1, .ro, .fixed⟩]
  | .CLS_RULE_ACT => [⟨0, 16, .rw, .immediate⟩, ⟨16, 32, .rw, .immediate⟩, ⟨63, 1, .rw, .immediate⟩]
  | .CLS_ERR_CAPTURE => [⟨0, 16, .ro, .fixed⟩, ⟨31, 1, .w1c, .immediate⟩]
  | .CLS_STORE_ERR => [⟨0, 32, .rc, .fixed⟩, ⟨32, 32, .rc, .fixed⟩]
  | .CLS_MISROUTE_CNT => [⟨0, 32, .rc, .fixed⟩]
  | .CLS_RULE_KEY => [⟨0, 64, .rw, .immediate⟩]
  | .CLS_RULE_MASK => [⟨0, 64, .rw, .immediate⟩]
  | .CLS_SP_DROP => [⟨0, 32, .rc, .fixed⟩]
  | .CLS_SET => [⟨0, 16, .ro, .image⟩, ⟨16, 17, .ro, .image⟩]
  | .TBL_INFO => [⟨0, 4, .ro, .image⟩, ⟨4, 1, .ro, .image⟩]
  | .TBL_CMDQ_BASE => [⟨8, 56, .rw, (.epoch .cmdqEn)⟩]
  | .TBL_CMDQ_CTL => [⟨0, 4, .rw, (.epoch .cmdqEn)⟩, ⟨8, 1, .rw, .immediate⟩]
  | .TBL_CMDQ_DB => [⟨0, 32, .wo, .immediate⟩]
  | .TBL_CMDQ_STATUS => [⟨0, 16, .ro, .fixed⟩, ⟨16, 1, .ro, .fixed⟩, ⟨17, 1, .ro, .fixed⟩, ⟨32, 32, .ro, .fixed⟩]
  | .TBL_EVQ_BASE => [⟨8, 56, .rw, (.epoch .evqEn)⟩]
  | .TBL_EVQ_CTL => [⟨0, 4, .rw, (.epoch .evqEn)⟩, ⟨8, 1, .rw, .immediate⟩, ⟨9, 1, .w1s, .immediate⟩, ⟨16, 11, .rw, .immediate⟩]
  | .TBL_EVQ_CI => [⟨0, 16, .rw, .immediate⟩]
  | .TBL_EVQ_STATUS => [⟨0, 16, .ro, .fixed⟩, ⟨16, 1, .ro, .fixed⟩, ⟨17, 1, .ro, .fixed⟩, ⟨32, 32, .ro, .fixed⟩]
  | .TBL_LEARN_CFG => [⟨0, 1, .rw, .immediate⟩, ⟨16, 16, .rw, (.epoch .slowRefill)⟩, ⟨32, 16, .rw, .immediate⟩]
  | .TBL_LEARN_CNT => [⟨0, 32, .rc, .fixed⟩, ⟨32, 32, .rc, .fixed⟩]
  | .TBL_LEARN_DROP => [⟨0, 32, .rc, .fixed⟩, ⟨32, 32, .rc, .fixed⟩]
  | .TBL_FC_CMD => [⟨0, 2, .wo, .immediate⟩, ⟨16, 16, .wo, .immediate⟩]
  | .TBL_FC_STATUS => [⟨0, 1, .ro, .fixed⟩, ⟨16, 16, .ro, .fixed⟩, ⟨32, 17, .ro, .fixed⟩]
  | .TBL_FC_CNT => [⟨0, 32, .rc, .fixed⟩, ⟨32, 32, .rc, .fixed⟩]
  | .TBL_MISS_STATUS => [⟨0, 32, .rc, .fixed⟩, ⟨32, 10, .rc, .fixed⟩]
  | .TBL_ACT_CNT => [⟨0, 32, .rc, .fixed⟩, ⟨32, 32, .rc, .fixed⟩]
  | .TBL_ERR_CNT => [⟨0, 32, .rc, .fixed⟩, ⟨32, 32, .rc, .fixed⟩]
  | .TBL_POISON_CNT => [⟨0, 32, .rc, .fixed⟩]
  | .TBL_ERR_CAPTURE => [⟨0, 4, .ro, .fixed⟩, ⟨4, 3, .ro, .fixed⟩, ⟨7, 1, .w1c, .immediate⟩, ⟨32, 32, .ro, .fixed⟩]
  | .TBL_EVT => [⟨0, 1, .w1c, .immediate⟩, ⟨1, 1, .w1c, .immediate⟩]
  | .TBL_EVT_EN => [⟨0, 2, .rw, .immediate⟩]
  | .TBL_MSIX_VEC => [⟨0, 11, .rw, .immediate⟩]
  | .TBL_SCHEMA => [⟨0, 4, .ro, .image⟩, ⟨8, 5, .ro, .image⟩, ⟨32, 32, .ro, .image⟩]
  | .TBL_SWEEP => [⟨0, 16, .rw, (.epoch .sweepPass)⟩]
  | .BPM_INFO => [⟨0, 9, .ro, .image⟩, ⟨16, 14, .ro, .image⟩, ⟨32, 27, .ro, .image⟩]
  | .BPM_REGION => [⟨0, 13, .ro, .image⟩, ⟨16, 13, .ro, .image⟩, ⟨32, 13, .ro, .image⟩]
  | .BPM_POOL_SEL => [⟨0, 8, .rw, .immediate⟩]
  | .BPM_POOL_RANGE => [⟨0, 26, .ro, .image⟩, ⟨32, 27, .ro, .image⟩]
  | .BPM_POOL_ACCTS => [⟨0, 13, .ro, .image⟩, ⟨16, 14, .ro, .image⟩]
  | .BPM_POOL_WM => [⟨0, 27, .rw, (.epoch .poolCharge)⟩, ⟨32, 27, .rw, (.epoch .poolCharge)⟩]
  | .BPM_POOL_STATUS => [⟨0, 27, .ro, .fixed⟩, ⟨31, 1, .ro, .fixed⟩, ⟨32, 27, .ro, .fixed⟩]
  | .BPM_POOL_CNT => [⟨0, 32, .rc, .fixed⟩, ⟨32, 32, .rc, .fixed⟩]
  | .BPM_ACCT_SEL => [⟨0, 13, .rw, .immediate⟩]
  | .BPM_ACCT_LIMIT => [⟨0, 27, .rw, (.epoch .acctCharge)⟩, ⟨32, 27, .rw, (.epoch .acctCharge)⟩]
  | .BPM_ACCT_USE => [⟨0, 27, .ro, .fixed⟩, ⟨32, 27, .rc, .fixed⟩]
  | .BPM_ACCT_DROP => [⟨0, 32, .rc, .fixed⟩]
  | .BPM_BUF_CMD => [⟨0, 4, .wo, .immediate⟩, ⟨16, 16, .wo, .immediate⟩]
  | .BPM_BUF_ARG => [⟨0, 26, .rw, .immediate⟩, ⟨32, 16, .rw, .immediate⟩]
  | .BPM_BUF_STATUS => [⟨0, 1, .ro, .fixed⟩, ⟨8, 8, .ro, .fixed⟩, ⟨16, 16, .ro, .fixed⟩]
  | .BPM_BUF_REC => [⟨0, 64, .ro, .fixed⟩]
  | .BPM_SWEEP_ADDR => [⟨12, 52, .rw, (.epoch .sweepBuffers)⟩]
  | .BPM_SWEEP_MAX => [⟨0, 26, .rw, (.epoch .sweepBuffers)⟩]
  | .BPM_SWEEP_STATUS => [⟨0, 27, .ro, .fixed⟩, ⟨31, 1, .ro, .fixed⟩, ⟨32, 27, .ro, .fixed⟩]
  | .BPM_ERR_CNT => [⟨0, 32, .rc, .fixed⟩, ⟨32, 32, .rc, .fixed⟩]
  | .BPM_ERR_CAPTURE => [⟨0, 26, .ro, .fixed⟩, ⟨26, 4, .ro, .fixed⟩, ⟨31, 1, .w1c, .immediate⟩, ⟨32, 16, .ro, .fixed⟩, ⟨48, 16, .ro, .fixed⟩]
  | .BPM_STORE_ERR => [⟨0, 32, .rc, .fixed⟩, ⟨32, 32, .rc, .fixed⟩]
  | .BPM_EVT => [⟨0, 1, .w1c, .immediate⟩, ⟨1, 1, .w1c, .immediate⟩]
  | .BPM_EVT_EN => [⟨0, 2, .rw, .immediate⟩]
  | .BPM_MSIX_VEC => [⟨0, 11, .rw, .immediate⟩]
  | .TMS_INFO => [⟨0, 9, .ro, .image⟩, ⟨12, 13, .ro, .image⟩, ⟨32, 15, .ro, .image⟩]
  | .TMS_TICK => [⟨0, 32, .ro, .fixed⟩]
  | .TMS_NODE_SEL => [⟨0, 2, .rw, .immediate⟩, ⟨16, 14, .rw, .immediate⟩]
  | .TMS_NODE_TREE => [⟨0, 12, .ro, .image⟩, ⟨12, 2, .ro, .image⟩, ⟨16, 3, .ro, .image⟩, ⟨20, 2, .ro, .image⟩, ⟨31, 1, .ro, .image⟩]
  | .TMS_NODE_QUANTUM => [⟨0, 21, .rw, (.epoch .drrAddition)⟩]
  | .TMS_NODE_CIR => [⟨0, 26, .rw, (.epoch .tick)⟩]
  | .TMS_NODE_PIR => [⟨0, 26, .rw, (.epoch .tick)⟩]
  | .TMS_NODE_CBS => [⟨0, 24, .rw, .immediate⟩]
  | .TMS_NODE_PBS => [⟨0, 24, .rw, .immediate⟩]
  | .TMS_NODE_OVERHEAD => [⟨0, 6, .rw, (.epoch .portPick)⟩]
  | .TMS_NODE_TOKENS => [⟨0, 32, .ro, .fixed⟩, ⟨32, 32, .ro, .fixed⟩]
  | .TMS_NODE_STATE => [⟨0, 3, .ro, .fixed⟩, ⟨8, 21, .ro, .fixed⟩]
  | .TMS_Q_LIMIT => [⟨0, 16, .rw, .immediate⟩, ⟨16, 16, .rw, .immediate⟩]
  | .TMS_Q_DEPTH => [⟨0, 32, .ro, .fixed⟩, ⟨32, 32, .ro, .fixed⟩]
  | .TMS_Q_DROP => [⟨0, 32, .rc, .fixed⟩, ⟨32, 32, .rc, .fixed⟩]
  | .TMS_POL_SEL => [⟨0, 12, .rw, .immediate⟩]
  | .TMS_POL_CIR => [⟨0, 26, .rw, (.epoch .tick)⟩]
  | .TMS_POL_PIR => [⟨0, 26, .rw, (.epoch .tick)⟩]
  | .TMS_POL_CBS => [⟨0, 24, .rw, .immediate⟩]
  | .TMS_POL_PBS => [⟨0, 24, .rw, .immediate⟩]
  | .TMS_POL_CTL => [⟨0, 1, .rw, .immediate⟩, ⟨1, 1, .rw, .immediate⟩]
  | .TMS_POL_TOKENS => [⟨0, 24, .ro, .fixed⟩, ⟨32, 24, .ro, .fixed⟩]
  | .TMS_POL_CNT => [⟨0, 32, .rc, .fixed⟩, ⟨32, 32, .rc, .fixed⟩]
  | .TMS_STORE_ERR => [⟨0, 32, .rc, .fixed⟩, ⟨32, 32, .rc, .fixed⟩]
  | .TMS_ERR_CAPTURE => [⟨0, 2, .ro, .fixed⟩, ⟨2, 14, .ro, .fixed⟩, ⟨16, 2, .ro, .fixed⟩, ⟨31, 1, .w1c, .immediate⟩]
  | .MAC_CTL => [⟨0, 1, .rw, .immediate⟩, ⟨16, 15, .rw, (.epoch .macRxOrChecked)⟩, ⟨32, 2, .rw, (.epoch .portRestart)⟩]
  | .MAC_STATUS => [⟨0, 3, .ro, .fixed⟩, ⟨4, 4, .ro, .fixed⟩]
  | .MAC_ADDR => [⟨0, 48, .rw, .immediate⟩]
  | .MAC_FC_CTL => [⟨0, 2, .rw, (.epoch .controlEvent)⟩, ⟨8, 8, .rw, (.epoch .controlEvent)⟩, ⟨16, 16, .rw, (.epoch .controlSent)⟩, ⟨32, 16, .rw, (.epoch .controlSent)⟩]
  | .MAC_FC_STATUS => [⟨0, 8, .ro, .fixed⟩, ⟨8, 8, .ro, .fixed⟩]
  | .MAC_PCP_MAP => [⟨0, 3, .rw, (.epoch .macRx)⟩, ⟨3, 3, .rw, (.epoch .macRx)⟩, ⟨6, 3, .rw, (.epoch .macRx)⟩, ⟨9, 3, .rw, (.epoch .macRx)⟩, ⟨12, 3, .rw, (.epoch .macRx)⟩, ⟨15, 3, .rw, (.epoch .macRx)⟩, ⟨18, 3, .rw, (.epoch .macRx)⟩, ⟨21, 3, .rw, (.epoch .macRx)⟩, ⟨24, 3, .rw, (.epoch .macRx)⟩, ⟨32, 3, .rw, (.epoch .macTx)⟩, ⟨35, 3, .rw, (.epoch .macTx)⟩, ⟨38, 3, .rw, (.epoch .macTx)⟩, ⟨41, 3, .rw, (.epoch .macTx)⟩, ⟨44, 3, .rw, (.epoch .macTx)⟩, ⟨47, 3, .rw, (.epoch .macTx)⟩, ⟨50, 3, .rw, (.epoch .macTx)⟩, ⟨53, 3, .rw, (.epoch .macTx)⟩]
  | .MAC_TAG_CTL => [⟨0, 2, .rw, (.epoch .macTx)⟩, ⟨2, 2, .rw, (.epoch .macRx)⟩, ⟨16, 12, .rw, (.epoch .macFrame)⟩, ⟨32, 12, .rw, (.epoch .macFrame)⟩]
  | .MAC_SECY_CTL => [⟨0, 1, .rw, (.epoch .macFrame)⟩, ⟨1, 2, .rw, (.epoch .macRx)⟩, ⟨3, 1, .rw, (.epoch .macRx)⟩, ⟨4, 1, .rw, (.epoch .macTx)⟩, ⟨5, 1, .rw, (.epoch .macTx)⟩, ⟨32, 32, .rw, (.epoch .macRx)⟩]
  | .MAC_STAT_SNAP => [⟨0, 1, .wo, .immediate⟩]
  | .MAC_EVT => [⟨0, 1, .w1c, .immediate⟩, ⟨1, 1, .w1c, .immediate⟩, ⟨2, 1, .w1c, .immediate⟩, ⟨3, 1, .w1c, .immediate⟩, ⟨4, 1, .w1c, .immediate⟩]
  | .MAC_EVT_EN => [⟨0, 5, .rw, .immediate⟩]
  | .MAC_MSIX_VEC => [⟨0, 11, .rw, .immediate⟩]
  | .MAC_STORE_ERR => [⟨0, 32, .rc, .fixed⟩, ⟨32, 32, .rc, .fixed⟩]
  | .MAC_CBS => [⟨0, 1, .rw, (.epoch .macSelect)⟩, ⟨8, 24, .rw, (.epoch .macSelect)⟩, ⟨32, 32, .rw, .immediate⟩]
  | .MAC_CBS_CREDIT => [⟨0, 32, .ro, .fixed⟩]
  | .MAC_STAT => [⟨0, 64, .ro, .fixed⟩]
  | .MAC_PORT_CFG => [⟨0, 2, .rw, (.epoch .portRestart)⟩]
  | .MAC_PORT_CMD => [⟨0, 2, .wo, .immediate⟩, ⟨16, 16, .wo, .immediate⟩]
  | .MAC_PORT_STATUS => [⟨0, 1, .ro, .fixed⟩, ⟨8, 8, .ro, .fixed⟩, ⟨16, 16, .ro, .fixed⟩]
  | .MAC_FC_WM => [⟨0, 10, .rw, .immediate⟩, ⟨32, 10, .rw, .immediate⟩]
  | .MAC_WAKE_CTL => [⟨0, 1, .rw, .immediate⟩, ⟨8, 8, .rw, .immediate⟩, ⟨16, 1, .rw, .immediate⟩]
  | .MAC_WAKE_ADDR => [⟨0, 48, .rw, .immediate⟩]
  | .MAC_WAKE_STATUS => [⟨0, 1, .w1c, .immediate⟩, ⟨8, 8, .w1c, .immediate⟩, ⟨16, 1, .w1c, .immediate⟩]
  | .MAC_WAKE_PAT => [⟨0, 64, .rw, .immediate⟩]
  | .MAC_WAKE_MASK => [⟨0, 64, .rw, .immediate⟩]
  | .MAC_DIST_DROP => [⟨0, 32, .rc, .fixed⟩]
  | .TIM_CTL => [⟨0, 1, .rw, .immediate⟩]
  | .TIM_SERVO => [⟨0, 10, .ro, .image⟩, ⟨15, 1, .ro, .image⟩]
  | .TIM_NOW => [⟨0, 64, .ro, .fixed⟩]
  | .TIM_NOW_FRAC => [⟨0, 16, .ro, .fixed⟩]
  | .TIM_INCR => [⟨0, 40, .rw, (.epoch .timeTick)⟩]
  | .TIM_ADJ_ARG => [⟨0, 64, .rw, .immediate⟩]
  | .TIM_SLEW_TICKS => [⟨0, 32, .rw, (.epoch .slew)⟩]
  | .TIM_ADJ_CMD => [⟨0, 4, .wo, .immediate⟩, ⟨16, 16, .wo, .immediate⟩]
  | .TIM_ADJ_STATUS => [⟨16, 16, .ro, .fixed⟩, ⟨32, 32, .ro, .fixed⟩]
  | .TIM_ADJ_DROP => [⟨0, 32, .rc, .fixed⟩, ⟨32, 32, .rc, .fixed⟩]
  | .TIM_SERVO_UPD => [⟨0, 32, .wo, .immediate⟩, ⟨32, 2, .wo, .immediate⟩]
  | .TIM_STATE => [⟨0, 2, .ro, .fixed⟩, ⟨32, 32, .ro, .fixed⟩]
  | .TIM_BOUND => [⟨0, 32, .ro, .fixed⟩, ⟨32, 32, .ro, .fixed⟩]
  | .TIM_ASYM => [⟨0, 32, .rw, .immediate⟩]
  | .TIM_HOLD_CFG => [⟨0, 32, .rw, .immediate⟩, ⟨32, 32, .rw, .immediate⟩]
  | .TIM_LIMITS => [⟨0, 16, .rw, .immediate⟩, ⟨32, 16, .rw, .immediate⟩]
  | .TIM_LEAP => [⟨0, 16, .rw, .immediate⟩, ⟨16, 2, .rw, .immediate⟩, ⟨18, 1, .rw, .immediate⟩]
  | .TIM_LEAP_TIME => [⟨0, 48, .rw, .immediate⟩]
  | .TIM_TP_CTL => [⟨0, 17, .rw, (.epoch .pageUpdate)⟩, ⟨24, 8, .rw, .immediate⟩]
  | .TIM_PTM_CTL => [⟨0, 10, .rw, (.epoch .ptmDialog)⟩]
  | .TIM_LAUNCH_CTL => [⟨0, 1, .rw, (.epoch .fifoHead)⟩, ⟨8, 24, .rw, (.epoch .fifoHead)⟩, ⟨32, 16, .rw, (.epoch .fifoHead)⟩]
  | .TIM_LAUNCH_CNT => [⟨0, 32, .rc, .fixed⟩, ⟨32, 32, .rc, .fixed⟩]
  | .TIM_PPS_OUT => [⟨0, 1, .rw, .immediate⟩, ⟨1, 1, .rw, .immediate⟩, ⟨4, 28, .rw, (.epoch .ppsPulse)⟩, ⟨32, 32, .rw, (.epoch .ppsPulse)⟩]
  | .TIM_REF10M_CAP => [⟨0, 64, .ro, .fixed⟩]
  | .TIM_REF10M_STATUS => [⟨0, 32, .ro, .fixed⟩, ⟨32, 1, .w1c, .immediate⟩, ⟨33, 1, .ro, .fixed⟩]
  | .TIM_GNSS_CTL => [⟨0, 1, .rw, .immediate⟩, ⟨4, 20, .rw, .immediate⟩]
  | .TIM_GNSS_RX => [⟨0, 8, .rc, .fixed⟩, ⟨8, 1, .rc, .fixed⟩, ⟨9, 1, .rc, .fixed⟩]
  | .TIM_GNSS_TX => [⟨0, 8, .wo, .immediate⟩]
  | .TIM_GNSS_STATUS => [⟨0, 12, .ro, .fixed⟩, ⟨16, 9, .ro, .fixed⟩, ⟨28, 1, .w1c, .immediate⟩, ⟨29, 1, .w1c, .immediate⟩, ⟨30, 1, .w1c, .immediate⟩]
  | .TIM_GNSS_LINE_TS => [⟨0, 64, .ro, .fixed⟩]
  | .TIM_EVT => [⟨0, 1, .w1c, .immediate⟩, ⟨1, 1, .w1c, .immediate⟩, ⟨2, 1, .w1c, .immediate⟩, ⟨3, 1, .w1c, .immediate⟩, ⟨4, 1, .w1c, .immediate⟩, ⟨5, 1, .w1c, .immediate⟩, ⟨6, 1, .w1c, .immediate⟩, ⟨7, 1, .w1c, .immediate⟩, ⟨8, 1, .w1c, .immediate⟩]
  | .TIM_EVT_EN => [⟨0, 9, .rw, .immediate⟩]
  | .TIM_MSIX_VEC => [⟨0, 11, .rw, .immediate⟩]
  | .TIM_ERR_CNT => [⟨0, 32, .rc, .fixed⟩]
  | .TIM_TP_ADDR => [⟨7, 57, .rw, (.epoch .pageUpdate)⟩]
  | .TIM_PTM_STATUS => [⟨0, 1, .ro, .fixed⟩, ⟨8, 24, .ro, .fixed⟩, ⟨32, 32, .ro, .fixed⟩]
  | .TIM_CAP_CTL => [⟨0, 1, .rw, .immediate⟩, ⟨1, 2, .rw, .immediate⟩, ⟨16, 32, .rw, .immediate⟩]
  | .TIM_CAP_HI => [⟨0, 48, .rc, .fixed⟩, ⟨48, 1, .rc, .fixed⟩, ⟨63, 1, .rc, .fixed⟩]
  | .TIM_CAP_LO => [⟨0, 16, .ro, .fixed⟩, ⟨16, 32, .ro, .fixed⟩]
  | .TIM_CAP_STATUS => [⟨0, 5, .ro, .fixed⟩, ⟨32, 32, .rc, .fixed⟩]
  | .TIM_TOUT_CTL => [⟨0, 2, .rw, .immediate⟩, ⟨2, 1, .rw, .immediate⟩, ⟨3, 1, .rw, .immediate⟩]
  | .TIM_TOUT_START => [⟨0, 64, .rw, (.epoch .toutCtl)⟩]
  | .TIM_TOUT_PERIOD => [⟨0, 48, .rw, (.epoch .toutCtl)⟩]
  | .TIM_TOUT_WIDTH => [⟨0, 48, .rw, (.epoch .toutCtl)⟩]
  | .TIM_SYNCE => [⟨0, 4, .rw, (.epoch .synceEdge)⟩, ⟨4, 2, .rw, (.epoch .synceEdge)⟩, ⟨8, 1, .rw, (.epoch .synceEdge)⟩, ⟨9, 1, .ro, .fixed⟩]
  | .TIM_ONESTEP => [⟨0, 1, .rw, (.epoch .macTx)⟩, ⟨1, 1, .rw, (.epoch .macTx)⟩, ⟨2, 1, .rw, (.epoch .macTx)⟩]
  | .TIM_CAL_RX => [⟨0, 32, .rw, (.epoch .laneFrame)⟩]
  | .TIM_CAL_TX => [⟨0, 32, .rw, (.epoch .laneFrame)⟩]
  | .CIP_SA_SEL => [⟨0, 16, .rw, .immediate⟩]
  | .CIP_SA_CMD => [⟨0, 4, .wo, .immediate⟩, ⟨16, 16, .wo, .immediate⟩]
  | .CIP_SA_STATUS => [⟨0, 1, .ro, .fixed⟩, ⟨8, 8, .ro, .fixed⟩, ⟨16, 16, .ro, .fixed⟩]
  | .CIP_SA_CFG => [⟨0, 2, .rw, (.epoch .install)⟩, ⟨2, 1, .rw, (.epoch .install)⟩, ⟨3, 1, .rw, (.epoch .install)⟩, ⟨4, 1, .rw, (.epoch .install)⟩, ⟨5, 1, .rw, (.epoch .install)⟩, ⟨6, 1, .rw, (.epoch .install)⟩, ⟨16, 9, .rw, (.epoch .install)⟩, ⟨32, 12, .rw, (.epoch .install)⟩]
  | .CIP_SA_SPI => [⟨0, 32, .rw, (.epoch .install)⟩]
  | .CIP_SA_PN => [⟨0, 64, .rw, (.epoch .install)⟩]
  | .CIP_SA_SOFT => [⟨0, 64, .rw, (.epoch .installOrSoft)⟩]
  | .CIP_SA_CNTIDX => [⟨0, 24, .rw, (.epoch .install)⟩]
  | .CIP_SA_STATE => [⟨0, 2, .ro, .fixed⟩, ⟨2, 1, .ro, .fixed⟩, ⟨3, 1, .ro, .fixed⟩]
  | .CIP_SA_NEXT => [⟨0, 64, .ro, .fixed⟩]
  | .CIP_SA_ERRCNT => [⟨0, 32, .ro, .fixed⟩, ⟨32, 32, .ro, .fixed⟩]
  | .CIP_SA_KEY => [⟨0, 64, .wo, (.epoch .install)⟩]
  | .CIP_SA_SALT_0 => [⟨0, 32, .wo, (.epoch .install)⟩]
  | .CIP_SA_SALT_1 => [⟨0, 64, .wo, (.epoch .install)⟩]
  | .CIP_RXSC_SEL => [⟨0, 4, .rw, .immediate⟩, ⟨8, 5, .rw, .immediate⟩]
  | .CIP_RXSC_SCI => [⟨0, 64, .rw, .immediate⟩]
  | .CIP_RXSC_SA => [⟨0, 16, .rw, .immediate⟩, ⟨16, 16, .rw, .immediate⟩, ⟨32, 16, .rw, .immediate⟩, ⟨48, 16, .rw, .immediate⟩]
  | .CIP_RXSC_CTL => [⟨0, 4, .rw, .immediate⟩, ⟨4, 1, .rw, .immediate⟩]
  | .CIP_MSEC_TX => [⟨0, 2, .rw, (.epoch .protectFrame)⟩, ⟨16, 16, .rw, (.epoch .protectFrame)⟩]
  | .CIP_RAW_WIN => [⟨0, 16, .rw, (.epoch .keyLoad)⟩, ⟨16, 17, .rw, (.epoch .keyLoad)⟩]
  | .CIP_DROP_CNT => [⟨0, 32, .rc, .fixed⟩, ⟨32, 32, .rc, .fixed⟩]
  | .CIP_FORMAT_CNT => [⟨0, 32, .rc, .fixed⟩]
  | .CIP_DUP_CNT => [⟨0, 32, .rc, .fixed⟩]
  | .CIP_STORE_ERR => [⟨0, 32, .rc, .fixed⟩, ⟨32, 32, .rc, .fixed⟩]
  | .CIP_ERR_CAPTURE => [⟨0, 16, .ro, .fixed⟩, ⟨16, 4, .ro, .fixed⟩, ⟨20, 4, .ro, .fixed⟩, ⟨31, 1, .w1c, .immediate⟩]
  | .CIP_EVT => [⟨0, 1, .w1c, .immediate⟩, ⟨1, 1, .w1c, .immediate⟩, ⟨2, 1, .w1c, .immediate⟩, ⟨3, 1, .w1c, .immediate⟩]
  | .CIP_EVT_EN => [⟨0, 4, .rw, .immediate⟩]
  | .CIP_MSIX_VEC => [⟨0, 11, .rw, .immediate⟩]
  | .CIP_SOFT_MAP => [⟨0, 64, .w1c, .immediate⟩]
  | .CIP_EXH_MAP => [⟨0, 64, .w1c, .immediate⟩]
  | .TRS_INFO => [⟨0, 1, .ro, .image⟩, ⟨8, 6, .ro, .image⟩, ⟨14, 1, .ro, .image⟩, ⟨32, 32, .ro, .image⟩]
  | .TRS_CYCLE => [⟨0, 64, .ro, .fixed⟩]
  | .TRS_CMD => [⟨0, 4, .wo, .immediate⟩, ⟨8, 6, .wo, .immediate⟩, ⟨16, 16, .wo, .immediate⟩]
  | .TRS_STATUS => [⟨0, 1, .ro, .fixed⟩, ⟨8, 8, .ro, .fixed⟩, ⟨16, 16, .ro, .fixed⟩, ⟨32, 7, .ro, .fixed⟩, ⟨40, 7, .ro, .fixed⟩, ⟨48, 7, .ro, .fixed⟩, ⟨56, 1, .ro, .fixed⟩]
  | .TRS_THR_SEL => [⟨0, 6, .rw, .immediate⟩]
  | .TRS_THR_STATE => [⟨0, 3, .ro, .fixed⟩, ⟨3, 1, .ro, .fixed⟩, ⟨4, 4, .ro, .fixed⟩, ⟨8, 1, .ro, .fixed⟩, ⟨9, 1, .ro, .fixed⟩, ⟨10, 6, .ro, .fixed⟩, ⟨16, 11, .ro, .fixed⟩, ⟨32, 11, .ro, .fixed⟩]
  | .TRS_THR_PC => [⟨0, 32, .ro, .fixed⟩]
  | .TRS_THR_FAULT => [⟨0, 8, .ro, .fixed⟩, ⟨8, 1, .ro, .fixed⟩, ⟨32, 32, .ro, .fixed⟩]
  | .TRS_FAULT_MAP => [⟨0, 64, .ro, .fixed⟩]
  | .TRS_SUP_CAUSE => [⟨0, 1, .w1c, .immediate⟩, ⟨1, 1, .w1c, .immediate⟩]
  | .TRS_EQ_STATUS => [⟨0, 10, .ro, .fixed⟩, ⟨16, 10, .ro, .fixed⟩, ⟨32, 7, .ro, .fixed⟩]
  | .TRS_ISSUE_CNT => [⟨0, 64, .rc, .fixed⟩]
  | .TRS_BUBBLE_CNT => [⟨0, 64, .rc, .fixed⟩]
  | .TRS_THR_CNT => [⟨0, 32, .rc, .fixed⟩, ⟨32, 16, .rc, .fixed⟩, ⟨48, 16, .rc, .fixed⟩]
  | .TRS_EVT => [⟨0, 1, .w1c, .immediate⟩, ⟨1, 1, .w1c, .immediate⟩, ⟨2, 1, .w1c, .immediate⟩, ⟨3, 1, .w1c, .immediate⟩]
  | .TRS_EVT_EN => [⟨0, 4, .rw, .immediate⟩]
  | .TRS_MSIX_VEC => [⟨0, 11, .rw, .immediate⟩]
  | .TRS_STORE_ERR => [⟨0, 32, .rc, .fixed⟩, ⟨32, 32, .rc, .fixed⟩]
  | .TRS_ERR_CAPTURE => [⟨0, 6, .ro, .fixed⟩, ⟨6, 2, .ro, .fixed⟩, ⟨15, 1, .w1c, .immediate⟩]
  | .TRS_RAIL => [⟨0, 5, .ro, .fixed⟩, ⟨5, 1, .ro, .fixed⟩, ⟨6, 1, .ro, .image⟩, ⟨16, 16, .ro, .fixed⟩, ⟨32, 8, .ro, .fixed⟩]
  | .SPM_INFO => [⟨0, 8, .ro, .fixed⟩, ⟨8, 8, .ro, .fixed⟩, ⟨16, 16, .ro, .fixed⟩]
  | .SPM_BAY_SEL => [⟨0, 3, .rw, .immediate⟩]
  | .SPM_BAY_OWNER => [⟨0, 16, .rw, (.epoch .handoverEnd)⟩, ⟨16, 16, .wo, .immediate⟩, ⟨32, 16, .wo, .immediate⟩]
  | .SPM_BAY_PWR => [⟨0, 2, .rw, (.epoch .bayPwrEnd)⟩, ⟨16, 16, .wo, .immediate⟩]
  | .SPM_BAY_STATUS => [⟨0, 1, .ro, .fixed⟩, ⟨1, 2, .ro, .fixed⟩, ⟨3, 1, .ro, .fixed⟩, ⟨8, 8, .ro, .fixed⟩, ⟨16, 16, .ro, .fixed⟩]
  | .SPM_MGMT_ADDR => [⟨3, 21, .rw, .immediate⟩]
  | .SPM_MGMT_DATA => [⟨0, 64, .rw, .immediate⟩]
  | .SPM_ERR_CNT => [⟨0, 32, .rc, .fixed⟩]
  | .SPM_ERR_CAPTURE => [⟨0, 24, .ro, .fixed⟩, ⟨24, 3, .ro, .fixed⟩, ⟨27, 3, .ro, .fixed⟩, ⟨30, 1, .ro, .fixed⟩, ⟨31, 1, .w1c, .immediate⟩, ⟨32, 16, .ro, .fixed⟩, ⟨48, 16, .ro, .fixed⟩]
  | .SPM_STORE_ERR => [⟨0, 32, .rc, .fixed⟩, ⟨32, 32, .rc, .fixed⟩]
  | .SPM_EVT => [⟨0, 1, .w1c, .immediate⟩, ⟨1, 1, .w1c, .immediate⟩, ⟨2, 1, .w1c, .immediate⟩]
  | .SPM_EVT_EN => [⟨0, 3, .rw, .immediate⟩]
  | .SPM_MSIX_VEC => [⟨0, 11, .rw, .immediate⟩]
  | .SPM_CONF_CNT => [⟨0, 64, .rc, .fixed⟩]
  | .DMA_INFO => [⟨0, 7, .ro, .fixed⟩]
  | .DMA_CH_SEL => [⟨0, 6, .rw, .immediate⟩]
  | .DMA_CH_CFG => [⟨0, 1, .rw, (.epoch .dmaEn)⟩, ⟨4, 2, .rw, (.epoch .dmaEn)⟩, ⟨8, 3, .rw, (.epoch .burstSelect)⟩]
  | .DMA_CH_RING => [⟨0, 4, .rw, (.epoch .dmaEn)⟩, ⟨8, 56, .rw, (.epoch .dmaEn)⟩]
  | .DMA_CH_CTL => [⟨0, 1, .rw, .immediate⟩]
  | .DMA_CH_DB => [⟨0, 32, .wo, .immediate⟩]
  | .DMA_CH_STATUS => [⟨0, 2, .ro, .fixed⟩, ⟨2, 1, .ro, .fixed⟩, ⟨3, 1, .ro, .fixed⟩, ⟨4, 6, .ro, .fixed⟩, ⟨16, 16, .ro, .fixed⟩, ⟨32, 16, .ro, .fixed⟩]
  | .DMA_CH_CNT => [⟨0, 32, .rc, .fixed⟩, ⟨32, 32, .rc, .fixed⟩]
  | .DMA_ERR_CNT => [⟨0, 32, .rc, .fixed⟩]
  | .DMA_ERR_CAPTURE => [⟨0, 6, .ro, .fixed⟩, ⟨8, 8, .ro, .fixed⟩, ⟨16, 16, .ro, .fixed⟩, ⟨63, 1, .w1c, .immediate⟩]
  | .DMA_EVT => [⟨0, 1, .w1c, .immediate⟩, ⟨1, 1, .w1c, .immediate⟩]
  | .DMA_EVT_EN => [⟨0, 2, .rw, .immediate⟩]
  | .DMA_MSIX_VEC => [⟨0, 11, .rw, .immediate⟩]
  | .FCU_SAFE_CMD => [⟨0, 2, .wo, .immediate⟩, ⟨16, 16, .wo, .immediate⟩]
  | .FCU_SAFE_STATUS => [⟨0, 2, .ro, .fixed⟩, ⟨2, 2, .ro, .fixed⟩, ⟨4, 1, .ro, .fixed⟩, ⟨8, 8, .ro, .fixed⟩, ⟨16, 16, .ro, .fixed⟩, ⟨32, 16, .ro, .fixed⟩]
  | .FCU_PIN => [⟨0, 1, .rw, .immediate⟩, ⟨1, 1, .ro, .fixed⟩, ⟨2, 1, .ro, .fixed⟩, ⟨4, 12, .rw, (.epoch .faultPulse)⟩]
  | .FCU_EVT => [⟨0, 1, .w1c, .immediate⟩, ⟨1, 1, .w1c, .immediate⟩, ⟨2, 1, .w1c, .immediate⟩, ⟨3, 1, .w1c, .immediate⟩]
  | .FCU_EVT_EN => [⟨0, 4, .rw, .immediate⟩]
  | .FCU_MSIX_VEC => [⟨0, 11, .rw, .immediate⟩]
  | .FCU_CAP => [⟨0, 8, .ro, .fixed⟩, ⟨8, 8, .ro, .fixed⟩, ⟨62, 1, .w1c, .immediate⟩, ⟨63, 1, .w1c, .immediate⟩]
  | .FCU_DETAIL => [⟨0, 64, .ro, .fixed⟩]
  | .FCU_TIME => [⟨0, 64, .ro, .fixed⟩]
  | .FCU_CNT => [⟨0, 32, .rc, .fixed⟩]
  | .SEC_LC => [⟨0, 2, .ro, .fixed⟩]
  | .SEC_UID => [⟨0, 64, .ro, .fixed⟩]
  | .SEC_UID_HI => [⟨0, 64, .ro, .fixed⟩]
  | .SEC_CMD => [⟨0, 4, .wo, .immediate⟩, ⟨16, 16, .wo, .immediate⟩]
  | .SEC_STATUS => [⟨0, 1, .ro, .fixed⟩, ⟨8, 8, .ro, .fixed⟩, ⟨16, 16, .ro, .fixed⟩]
  | .SEC_ARG_SEL => [⟨0, 24, .rw, .immediate⟩]
  | .SEC_ARG => [⟨0, 64, .wo, .immediate⟩]
  | .SEC_BOOT_STATUS => [⟨0, 1, .ro, .fixed⟩, ⟨1, 1, .ro, .fixed⟩, ⟨2, 2, .ro, .fixed⟩, ⟨4, 1, .ro, .fixed⟩, ⟨5, 1, .ro, .fixed⟩, ⟨16, 16, .ro, .fixed⟩]
  | .SEC_SVN => [⟨0, 16, .ro, .fixed⟩, ⟨16, 7, .ro, .fixed⟩, ⟨32, 6, .ro, .fixed⟩]
  | .SEC_KEYS => [⟨0, 32, .ro, .fixed⟩, ⟨32, 32, .ro, .fixed⟩]
  | .SEC_EVT => [⟨0, 1, .w1c, .immediate⟩, ⟨1, 1, .w1c, .immediate⟩]
  | .SEC_EVT_EN => [⟨0, 2, .rw, .immediate⟩]
  | .SEC_MSIX_VEC => [⟨0, 11, .rw, .immediate⟩]
  | .PWR_CMD => [⟨0, 2, .wo, .immediate⟩, ⟨8, 8, .wo, .immediate⟩, ⟨16, 16, .wo, .immediate⟩]
  | .PWR_STATUS => [⟨0, 2, .ro, .fixed⟩, ⟨2, 1, .ro, .fixed⟩, ⟨8, 8, .ro, .fixed⟩, ⟨16, 16, .ro, .fixed⟩]
  | .PWR_DOMAINS => [⟨0, 2, .ro, .fixed⟩, ⟨2, 2, .ro, .fixed⟩, ⟨4, 2, .ro, .fixed⟩, ⟨6, 2, .ro, .fixed⟩, ⟨8, 2, .ro, .fixed⟩, ⟨10, 2, .ro, .fixed⟩, ⟨12, 2, .ro, .fixed⟩, ⟨14, 2, .ro, .fixed⟩, ⟨16, 2, .ro, .fixed⟩, ⟨18, 2, .ro, .fixed⟩, ⟨20, 2, .ro, .fixed⟩, ⟨22, 2, .ro, .fixed⟩, ⟨24, 2, .ro, .fixed⟩, ⟨26, 2, .ro, .fixed⟩, ⟨28, 2, .ro, .fixed⟩, ⟨30, 2, .ro, .fixed⟩]
  | .PWR_WAKE_CNT => [⟨0, 32, .rc, .fixed⟩]
  | .PWR_STANDBY_WAKE => [⟨0, 2, .ro, .fixed⟩, ⟨32, 32, .ro, .fixed⟩]
  | .PWR_EVT => [⟨0, 1, .w1c, .immediate⟩, ⟨1, 1, .w1c, .immediate⟩, ⟨2, 1, .w1c, .immediate⟩]
  | .PWR_EVT_EN => [⟨0, 3, .rw, .immediate⟩]
  | .PWR_MSIX_VEC => [⟨0, 11, .rw, .immediate⟩]
  | .DBG_CMD => [⟨0, 2, .wo, .immediate⟩, ⟨4, 2, .wo, .immediate⟩, ⟨16, 16, .wo, .immediate⟩]
  | .DBG_STATUS => [⟨0, 2, .ro, .fixed⟩, ⟨2, 1, .w1c, .immediate⟩, ⟨3, 1, .ro, .fixed⟩, ⟨4, 1, .w1c, .immediate⟩, ⟨5, 1, .ro, .fixed⟩, ⟨8, 8, .ro, .fixed⟩, ⟨16, 16, .ro, .fixed⟩, ⟨32, 12, .ro, .fixed⟩, ⟨44, 4, .ro, .fixed⟩, ⟨48, 12, .ro, .fixed⟩]
  | .DBG_TOKEN_DATA => [⟨0, 64, .wo, .immediate⟩]
  | .DBG_TOKEN_PTR => [⟨0, 10, .rw, .immediate⟩]
  | .DBG_NONCE => [⟨0, 64, .ro, .fixed⟩]
  | .DBG_THR_SEL => [⟨0, 10, .rw, .immediate⟩]
  | .DBG_THR_CMD => [⟨0, 3, .wo, .immediate⟩, ⟨16, 16, .wo, .immediate⟩]
  | .DBG_THR_STATUS => [⟨0, 3, .ro, .fixed⟩, ⟨3, 3, .ro, .fixed⟩, ⟨8, 8, .ro, .fixed⟩, ⟨16, 16, .ro, .fixed⟩, ⟨32, 32, .ro, .fixed⟩]
  | .DBG_REG_SEL => [⟨0, 6, .rw, .immediate⟩]
  | .DBG_REG_DATA => [⟨0, 64, .rw, .immediate⟩]
  | .DBG_SPM_ADDR => [⟨3, 21, .rw, .immediate⟩, ⟨24, 2, .rw, .immediate⟩]
  | .DBG_SPM_DATA => [⟨0, 64, .ro, .fixed⟩]
  | .DBG_REMAIN => [⟨0, 17, .ro, .fixed⟩]
  | .PWR_TJ_CFG => [⟨0, 12, .rw, .immediate⟩, ⟨16, 12, .rw, .immediate⟩, ⟨32, 4, .rw, .immediate⟩]
  | .PWR_TJ_STATUS => [⟨0, 12, .ro, .fixed⟩, ⟨16, 5, .ro, .fixed⟩, ⟨24, 1, .ro, .fixed⟩, ⟨25, 1, .ro, .fixed⟩]
  | .PWR_TJ_PEAK => [⟨0, 12, .rc, .fixed⟩, ⟨16, 5, .rc, .fixed⟩]
  | .PWR_TJ_EQ => [⟨0, 12, .ro, .fixed⟩, ⟨32, 32, .ro, .fixed⟩]
  | .PWR_SUPPLY_STATUS => [⟨0, 8, .ro, .fixed⟩, ⟨8, 8, .w1c, .immediate⟩]
  | .PWR_AGE_CFG => [⟨0, 8, .rw, .immediate⟩]
  | .PWR_BOARD => [⟨0, 1, .ro, .fixed⟩, ⟨1, 1, .ro, .fixed⟩, ⟨8, 3, .ro, .fixed⟩]
  | .PWR_TJ => [⟨0, 12, .ro, .fixed⟩, ⟨15, 1, .ro, .fixed⟩]
  | .PWR_SUPPLY => [⟨0, 16, .ro, .fixed⟩, ⟨16, 16, .ro, .fixed⟩, ⟨32, 16, .ro, .fixed⟩]
  | .PWR_AGE => [⟨0, 8, .ro, .fixed⟩, ⟨8, 1, .ro, .fixed⟩, ⟨32, 32, .ro, .fixed⟩]
  | .STU_SPAN_LOGIC => []
  | .QE_Q_LOGIC => []

/-- The value a register holds at reset, as its tables give it; where the tables say image, the
default of R535; 0 where they say fuse, pins, board record or boot, which the events that supply them write (log entry 6). -/
def Reg.resetNat : Reg → Nat
  | .TOP_ID => 0x9640
  | .CFG_DRAIN_LIMIT => 0x14
  | .HEP_LINK_CPL_TO => 0xC350
  | .QE_CTX_RING => 0x4
  | .QE_CTX_CFG => 0x400000
  | .MAC_DIST_HASH_CFG => 0xF000000000
  | .MAC_DIST_PIER_MAP => 0xE4E4E4E4E4E4E4E4
  | .MAC_DIST_SVC => 0x11
  | .PRS_LIMITS => 0x3020010
  | .CLS_SP_RATE => 0x500
  | .CLS_SP_BURST => 0x400
  | .CLS_SP_TOKENS => 0x40000
  | .CLS_SP_TARGET => 0x7FFF
  | .TBL_CMDQ_CTL => 0x4
  | .TBL_EVQ_CTL => 0x4
  | .TBL_LEARN_CFG => 0x40005000001
  | .TMS_NODE_QUANTUM => 0x2400
  | .TMS_NODE_PIR => 0x30D4000
  | .TMS_NODE_CBS => 0x10000
  | .TMS_NODE_PBS => 0x10000
  | .TMS_Q_LIMIT => 0x4000400
  | .TMS_POL_CIR => 0x30D4000
  | .TMS_POL_PIR => 0x30D4000
  | .TMS_POL_CBS => 0x10000
  | .TMS_POL_PBS => 0x10000
  | .MAC_CTL => 0x5F20001
  | .MAC_FC_CTL => 0x8000FFFF0000
  | .MAC_PCP_MAP => 0xFAC68800FAC688
  | .MAC_SECY_CTL => 0x24
  | .MAC_FC_WM => 0x60000000A0
  | .TIM_INCR => 0x140000000
  | .TIM_SLEW_TICKS => 0x1
  | .TIM_BOUND => 0xFFFFFFFF
  | .TIM_LIMITS => 0x3E8000003E8
  | .TIM_TP_CTL => 0x3E8
  | .TIM_PTM_CTL => 0xA
  | .TIM_LAUNCH_CTL => 0x3E800006400
  | .TIM_PPS_OUT => 0x186A00
  | .TIM_GNSS_CTL => 0x1C2000
  | .TIM_CAP_CTL => 0x2
  | .TIM_SYNCE => 0x200
  | .CIP_SA_PN => 0x1
  | .TRS_STATUS => 0x40000000000000
  | .SPM_INFO => 0x400808
  | .SPM_BAY_OWNER => 0x6000
  | .DMA_INFO => 0x40
  | .DMA_CH_RING => 0x4
  | .FCU_PIN => 0x22
  | .PWR_TJ_CFG => 0x5037002F8
  | .PWR_AGE_CFG => 0xA0
  | .SEC_SVN => 0x2000400000
  | _ => 0

def regMap0 : List RegLoc := [
  ⟨.TOP_ID, 0x0, []⟩,
  ⟨.TOP_GRADE, 0x8, []⟩,
  ⟨.TOP_STRAP, 0x10, []⟩,
  ⟨.TOP_CLK_STATUS, 0x18, []⟩,
  ⟨.TOP_UPTIME, 0x20, []⟩,
  ⟨.TOP_SCRATCH, 0x28, []⟩,
  ⟨.RLC_STATUS, 0xE00000, [(8, 0x100)]⟩,
  ⟨.RLC_CE_CNT, 0xE00008, [(8, 0x100)]⟩,
  ⟨.RLC_UE_CNT, 0xE00010, [(8, 0x100)]⟩,
  ⟨.RLC_UE_ADDR, 0xE00018, [(8, 0x100)]⟩,
  ⟨.RLC_ACCESS_CNT, 0xE00020, [(8, 0x100)]⟩,
  ⟨.RLC_EVT, 0xE00800, []⟩,
  ⟨.RLC_EVT_EN, 0xE00808, []⟩,
  ⟨.RLC_MSIX_VEC, 0xE00810, []⟩,
  ⟨.CFG_CMD, 0x100000, []⟩,
  ⟨.CFG_STATUS, 0x100008, []⟩,
  ⟨.CFG_STAGE_ADDR, 0x100010, []⟩,
  ⟨.CFG_STAGE_LEN, 0x100018, []⟩,
  ⟨.CFG_DRAIN_LIMIT, 0x100020, []⟩,
  ⟨.CFG_MIN_SVN, 0x100028, []⟩,
  ⟨.CFG_ACTIVE_VER, 0x100030, []⟩,
  ⟨.CFG_PREV_VER, 0x100038, []⟩,
  ⟨.CFG_STAGED_VER, 0x100040, []⟩,
  ⟨.CFG_LAST_SWAP, 0x100048, []⟩]

def regMap1 : List RegLoc := [
  ⟨.CFG_HOLD_PEAK, 0x100050, []⟩,
  ⟨.CFG_REBUILT, 0x100058, []⟩,
  ⟨.CFG_HOST_PENDING, 0x100060, []⟩,
  ⟨.CFG_SWAP_CNT, 0x100068, []⟩,
  ⟨.CFG_MSIX_VEC, 0x100070, []⟩,
  ⟨.HEP_BIFUR, 0x400000, []⟩,
  ⟨.HEP_MGMT_LINK, 0x400008, []⟩,
  ⟨.HEP_LINK_STATE, 0x400010, []⟩,
  ⟨.HEP_LINK_EVT, 0x400018, []⟩,
  ⟨.HEP_LINK_EVT_EN, 0x400020, []⟩,
  ⟨.HEP_MSIX_VEC, 0x400028, []⟩,
  ⟨.HEP_CPL_TO_CNT, 0x400030, []⟩,
  ⟨.HEP_LATE_CPL, 0x400038, []⟩,
  ⟨.HEP_TO_CAPTURE, 0x400040, []⟩,
  ⟨.HEP_POISON_CNT, 0x400048, []⟩,
  ⟨.HEP_DROP_CNT, 0x400050, []⟩,
  ⟨.HEP_MGMT_PATH, 0x400058, []⟩,
  ⟨.HEP_TDISP_LOCKED, 0x400060, []⟩,
  ⟨.HEP_TDISP_EVT, 0x400068, []⟩,
  ⟨.HEP_LINK_INFO, 0x400100, [(8, 0x20)]⟩,
  ⟨.HEP_LINK_TAGS, 0x400108, [(8, 0x20)]⟩]

def regMap2 : List RegLoc := [
  ⟨.HEP_LINK_CPL_TO, 0x400110, [(8, 0x20)]⟩,
  ⟨.HEP_LINK_SPAN_MAP, 0x400118, [(8, 0x20)]⟩,
  ⟨.STU_SPAN_SEL, 0x500000, []⟩,
  ⟨.STU_SPAN_CMD, 0x500008, []⟩,
  ⟨.STU_SPAN_STATUS, 0x500010, []⟩,
  ⟨.STU_CTX_XLATE, 0x500018, []⟩,
  ⟨.STU_LOG_CTL, 0x500020, []⟩,
  ⟨.STU_LOG_BASE_A, 0x500028, []⟩,
  ⟨.STU_LOG_BASE_B, 0x500030, []⟩,
  ⟨.STU_XFER_ADDR, 0x500038, []⟩,
  ⟨.STU_WIN_SEL, 0x500040, []⟩,
  ⟨.STU_WIN_BASE, 0x500048, []⟩,
  ⟨.STU_WIN_TARGET, 0x500050, []⟩,
  ⟨.STU_WIN_CTL, 0x500058, []⟩,
  ⟨.STU_WIN_COMMIT, 0x500060, []⟩,
  ⟨.STU_WIN_STATUS, 0x500068, []⟩,
  ⟨.STU_INV_ADDR, 0x500070, []⟩,
  ⟨.STU_INV_CMD, 0x500078, []⟩,
  ⟨.STU_INV_STATUS, 0x500080, []⟩,
  ⟨.STU_RCV_CMD, 0x500088, []⟩,
  ⟨.STU_RCV_ARG0, 0x500090, []⟩,
  ⟨.STU_RCV_ARG1, 0x500098, []⟩,
  ⟨.STU_RCV_STATUS, 0x5000A0, []⟩,
  ⟨.STU_FAULT_CAPTURE, 0x5000A8, []⟩]

def regMap3 : List RegLoc := [
  ⟨.STU_FAULT_CNT, 0x5000B0, []⟩,
  ⟨.STU_WIN_MISS, 0x5000B8, []⟩,
  ⟨.STU_EVT, 0x5000C0, []⟩,
  ⟨.STU_EVT_EN, 0x5000C8, []⟩,
  ⟨.STU_MSIX_VEC, 0x5000D0, []⟩,
  ⟨.STU_DRAINED_MAP, 0x501000, [(64, 0x8)]⟩,
  ⟨.STU_LATE_MAP, 0x501200, [(64, 0x8)]⟩,
  ⟨.STU_QREQ_MAP, 0x501400, [(64, 0x8)]⟩,
  ⟨.QE_Q_SEL, 0x600000, []⟩,
  ⟨.QE_Q_CMD, 0x600008, []⟩,
  ⟨.QE_Q_STATUS, 0x600010, []⟩,
  ⟨.QE_CTX_RING, 0x600018, []⟩,
  ⟨.QE_CTX_CFG, 0x600020, []⟩,
  ⟨.QE_CTX_MOD, 0x600028, []⟩,
  ⟨.QE_CTX_EVT, 0x600030, []⟩,
  ⟨.QE_CTX_IDX, 0x600038, []⟩,
  ⟨.QE_CTX_CNT, 0x600040, []⟩,
  ⟨.QE_ERR_CNT, 0x600048, []⟩,
  ⟨.QE_ERR_CAPTURE, 0x600050, []⟩,
  ⟨.QE_RX_DROP_CNT, 0x600058, []⟩,
  ⟨.QE_EVT, 0x600060, []⟩,
  ⟨.QE_EVT_EN, 0x600068, []⟩,
  ⟨.QE_MSIX_VEC, 0x600070, []⟩,
  ⟨.QE_CACHE_USE, 0x600078, []⟩]

def regMap4 : List RegLoc := [
  ⟨.MBX_SEL, 0x700000, []⟩,
  ⟨.MBX_TO, 0x700008, []⟩,
  ⟨.MBX_FROM, 0x700010, []⟩,
  ⟨.MBX_STATUS, 0x700018, []⟩,
  ⟨.MBX_ROUTE, 0x700020, []⟩,
  ⟨.MBX_EVT, 0x700028, []⟩,
  ⟨.MBX_EVT_EN, 0x700030, []⟩,
  ⟨.MBX_MSIX_VEC, 0x700038, []⟩,
  ⟨.MBX_FULL_MAP, 0x701000, [(65, 0x8)]⟩,
  ⟨.MAC_DIST_HASH_CFG, 0xA80000, []⟩,
  ⟨.MAC_DIST_PIER_MAP, 0xA80008, [(2, 0x8)]⟩,
  ⟨.MAC_DIST_SVC, 0xA80020, [(2, 0x10)]⟩,
  ⟨.MAC_DIST_DEF_CNT, 0xA80028, [(2, 0x10)]⟩,
  ⟨.PRS_GRAPH_INFO, 0x1000000, [(4, 0x1000000)]⟩,
  ⟨.PRS_LIMITS, 0x1000008, [(4, 0x1000000)]⟩,
  ⟨.PRS_CNT, 0x1000010, [(4, 0x1000000)]⟩,
  ⟨.PRS_FRAG_CNT, 0x1000018, [(4, 0x1000000)]⟩,
  ⟨.PRS_EGR_FAIL_CNT, 0x1000020, [(4, 0x1000000)]⟩,
  ⟨.PRS_ERR_CAPTURE, 0x1000028, [(4, 0x1000000)]⟩,
  ⟨.PRS_STORE_ERR, 0x1000030, [(4, 0x1000000)]⟩,
  ⟨.CLS_SP_RATE, 0x1100000, [(4, 0x1000000)]⟩,
  ⟨.CLS_SP_BURST, 0x1100008, [(4, 0x1000000)]⟩,
  ⟨.CLS_SP_TOKENS, 0x1100010, [(4, 0x1000000)]⟩,
  ⟨.CLS_SP_TARGET, 0x1100018, [(4, 0x1000000)]⟩]

def regMap5 : List RegLoc := [
  ⟨.CLS_SP_ADMIT_CNT, 0x1100020, [(4, 0x1000000)]⟩,
  ⟨.CLS_POLICE_CNT, 0x1100028, [(4, 0x1000000)]⟩,
  ⟨.CLS_RULE_SEL, 0x1100030, [(4, 0x1000000)]⟩,
  ⟨.CLS_RULE_CMD, 0x1100038, [(4, 0x1000000)]⟩,
  ⟨.CLS_RULE_STATUS, 0x1100040, [(4, 0x1000000)]⟩,
  ⟨.CLS_RULE_ACT, 0x1100048, [(4, 0x1000000)]⟩,
  ⟨.CLS_ERR_CAPTURE, 0x1100050, [(4, 0x1000000)]⟩,
  ⟨.CLS_STORE_ERR, 0x1100058, [(4, 0x1000000)]⟩,
  ⟨.CLS_MISROUTE_CNT, 0x1100060, [(4, 0x1000000)]⟩,
  ⟨.CLS_RULE_KEY, 0x1100080, [(4, 0x1000000), (5, 0x8)]⟩,
  ⟨.CLS_RULE_MASK, 0x11000C0, [(4, 0x1000000), (5, 0x8)]⟩,
  ⟨.CLS_SP_DROP, 0x1100100, [(4, 0x1000000), (5, 0x8)]⟩,
  ⟨.CLS_SET, 0x1100140, [(4, 0x1000000), (8, 0x8)]⟩,
  ⟨.TBL_INFO, 0x1200000, [(4, 0x1000000)]⟩,
  ⟨.TBL_CMDQ_BASE, 0x1200008, [(4, 0x1000000)]⟩,
  ⟨.TBL_CMDQ_CTL, 0x1200010, [(4, 0x1000000)]⟩,
  ⟨.TBL_CMDQ_DB, 0x1200018, [(4, 0x1000000)]⟩,
  ⟨.TBL_CMDQ_STATUS, 0x1200020, [(4, 0x1000000)]⟩,
  ⟨.TBL_EVQ_BASE, 0x1200028, [(4, 0x1000000)]⟩,
  ⟨.TBL_EVQ_CTL, 0x1200030, [(4, 0x1000000)]⟩,
  ⟨.TBL_EVQ_CI, 0x1200038, [(4, 0x1000000)]⟩,
  ⟨.TBL_EVQ_STATUS, 0x1200040, [(4, 0x1000000)]⟩,
  ⟨.TBL_LEARN_CFG, 0x1200048, [(4, 0x1000000)]⟩,
  ⟨.TBL_LEARN_CNT, 0x1200050, [(4, 0x1000000)]⟩]

def regMap6 : List RegLoc := [
  ⟨.TBL_LEARN_DROP, 0x1200058, [(4, 0x1000000)]⟩,
  ⟨.TBL_FC_CMD, 0x1200060, [(4, 0x1000000)]⟩,
  ⟨.TBL_FC_STATUS, 0x1200068, [(4, 0x1000000)]⟩,
  ⟨.TBL_FC_CNT, 0x1200070, [(4, 0x1000000)]⟩,
  ⟨.TBL_MISS_STATUS, 0x1200078, [(4, 0x1000000)]⟩,
  ⟨.TBL_ACT_CNT, 0x1200080, [(4, 0x1000000)]⟩,
  ⟨.TBL_ERR_CNT, 0x1200088, [(4, 0x1000000)]⟩,
  ⟨.TBL_POISON_CNT, 0x1200090, [(4, 0x1000000)]⟩,
  ⟨.TBL_ERR_CAPTURE, 0x1200098, [(4, 0x1000000)]⟩,
  ⟨.TBL_EVT, 0x12000A0, [(4, 0x1000000)]⟩,
  ⟨.TBL_EVT_EN, 0x12000A8, [(4, 0x1000000)]⟩,
  ⟨.TBL_MSIX_VEC, 0x12000B0, [(4, 0x1000000)]⟩,
  ⟨.TBL_SCHEMA, 0x1200100, [(4, 0x1000000), (15, 0x10)]⟩,
  ⟨.TBL_SWEEP, 0x1200108, [(4, 0x1000000), (15, 0x10)]⟩,
  ⟨.BPM_INFO, 0x800000, []⟩,
  ⟨.BPM_REGION, 0x800008, []⟩,
  ⟨.BPM_POOL_SEL, 0x800010, []⟩,
  ⟨.BPM_POOL_RANGE, 0x800018, []⟩,
  ⟨.BPM_POOL_ACCTS, 0x800020, []⟩,
  ⟨.BPM_POOL_WM, 0x800028, []⟩,
  ⟨.BPM_POOL_STATUS, 0x800030, []⟩,
  ⟨.BPM_POOL_CNT, 0x800038, []⟩,
  ⟨.BPM_ACCT_SEL, 0x800040, []⟩,
  ⟨.BPM_ACCT_LIMIT, 0x800048, []⟩]

def regMap7 : List RegLoc := [
  ⟨.BPM_ACCT_USE, 0x800050, []⟩,
  ⟨.BPM_ACCT_DROP, 0x800058, []⟩,
  ⟨.BPM_BUF_CMD, 0x800060, []⟩,
  ⟨.BPM_BUF_ARG, 0x800068, []⟩,
  ⟨.BPM_BUF_STATUS, 0x800070, []⟩,
  ⟨.BPM_BUF_REC, 0x800078, []⟩,
  ⟨.BPM_SWEEP_ADDR, 0x800080, []⟩,
  ⟨.BPM_SWEEP_MAX, 0x800088, []⟩,
  ⟨.BPM_SWEEP_STATUS, 0x800090, []⟩,
  ⟨.BPM_ERR_CNT, 0x800098, []⟩,
  ⟨.BPM_ERR_CAPTURE, 0x8000A0, []⟩,
  ⟨.BPM_STORE_ERR, 0x8000A8, []⟩,
  ⟨.BPM_EVT, 0x8000B0, []⟩,
  ⟨.BPM_EVT_EN, 0x8000B8, []⟩,
  ⟨.BPM_MSIX_VEC, 0x8000C0, []⟩,
  ⟨.TMS_INFO, 0x1300000, [(4, 0x1000000)]⟩,
  ⟨.TMS_TICK, 0x1300008, [(4, 0x1000000)]⟩,
  ⟨.TMS_NODE_SEL, 0x1300010, [(4, 0x1000000)]⟩,
  ⟨.TMS_NODE_TREE, 0x1300018, [(4, 0x1000000)]⟩,
  ⟨.TMS_NODE_QUANTUM, 0x1300020, [(4, 0x1000000)]⟩,
  ⟨.TMS_NODE_CIR, 0x1300028, [(4, 0x1000000)]⟩,
  ⟨.TMS_NODE_PIR, 0x1300030, [(4, 0x1000000)]⟩,
  ⟨.TMS_NODE_CBS, 0x1300038, [(4, 0x1000000)]⟩,
  ⟨.TMS_NODE_PBS, 0x1300040, [(4, 0x1000000)]⟩]

def regMap8 : List RegLoc := [
  ⟨.TMS_NODE_OVERHEAD, 0x1300048, [(4, 0x1000000)]⟩,
  ⟨.TMS_NODE_TOKENS, 0x1300050, [(4, 0x1000000)]⟩,
  ⟨.TMS_NODE_STATE, 0x1300058, [(4, 0x1000000)]⟩,
  ⟨.TMS_Q_LIMIT, 0x1300060, [(4, 0x1000000)]⟩,
  ⟨.TMS_Q_DEPTH, 0x1300068, [(4, 0x1000000)]⟩,
  ⟨.TMS_Q_DROP, 0x1300070, [(4, 0x1000000)]⟩,
  ⟨.TMS_POL_SEL, 0x1300078, [(4, 0x1000000)]⟩,
  ⟨.TMS_POL_CIR, 0x1300080, [(4, 0x1000000)]⟩,
  ⟨.TMS_POL_PIR, 0x1300088, [(4, 0x1000000)]⟩,
  ⟨.TMS_POL_CBS, 0x1300090, [(4, 0x1000000)]⟩,
  ⟨.TMS_POL_PBS, 0x1300098, [(4, 0x1000000)]⟩,
  ⟨.TMS_POL_CTL, 0x13000A0, [(4, 0x1000000)]⟩,
  ⟨.TMS_POL_TOKENS, 0x13000A8, [(4, 0x1000000)]⟩,
  ⟨.TMS_POL_CNT, 0x13000B0, [(4, 0x1000000)]⟩,
  ⟨.TMS_STORE_ERR, 0x13000B8, [(4, 0x1000000)]⟩,
  ⟨.TMS_ERR_CAPTURE, 0x13000C0, [(4, 0x1000000)]⟩,
  ⟨.MAC_CTL, 0xA00000, [(16, 0x1000)]⟩,
  ⟨.MAC_STATUS, 0xA00008, [(16, 0x1000)]⟩,
  ⟨.MAC_ADDR, 0xA00010, [(16, 0x1000)]⟩,
  ⟨.MAC_FC_CTL, 0xA00018, [(16, 0x1000)]⟩,
  ⟨.MAC_FC_STATUS, 0xA00020, [(16, 0x1000)]⟩,
  ⟨.MAC_PCP_MAP, 0xA00028, [(16, 0x1000)]⟩,
  ⟨.MAC_TAG_CTL, 0xA00030, [(16, 0x1000)]⟩,
  ⟨.MAC_SECY_CTL, 0xA00038, [(16, 0x1000)]⟩]

def regMap9 : List RegLoc := [
  ⟨.MAC_STAT_SNAP, 0xA00040, [(16, 0x1000)]⟩,
  ⟨.MAC_EVT, 0xA00048, [(16, 0x1000)]⟩,
  ⟨.MAC_EVT_EN, 0xA00050, [(16, 0x1000)]⟩,
  ⟨.MAC_MSIX_VEC, 0xA00058, [(16, 0x1000)]⟩,
  ⟨.MAC_STORE_ERR, 0xA00060, [(16, 0x1000)]⟩,
  ⟨.MAC_CBS, 0xA00100, [(16, 0x1000), (8, 0x8)]⟩,
  ⟨.MAC_CBS_CREDIT, 0xA00140, [(16, 0x1000), (8, 0x8)]⟩,
  ⟨.MAC_STAT, 0xA00200, [(16, 0x1000), (20, 0x8)]⟩,
  ⟨.MAC_PORT_CFG, 0xA10000, [(2, 0x1000)]⟩,
  ⟨.MAC_PORT_CMD, 0xA10008, [(2, 0x1000)]⟩,
  ⟨.MAC_PORT_STATUS, 0xA10010, [(2, 0x1000)]⟩,
  ⟨.MAC_FC_WM, 0xA10100, [(2, 0x1000), (8, 0x8)]⟩,
  ⟨.MAC_WAKE_CTL, 0xA20000, []⟩,
  ⟨.MAC_WAKE_ADDR, 0xA20008, []⟩,
  ⟨.MAC_WAKE_STATUS, 0xA20010, []⟩,
  ⟨.MAC_WAKE_PAT, 0xA20100, [(8, 0x80), (16, 0x8)]⟩,
  ⟨.MAC_WAKE_MASK, 0xA20600, [(8, 0x10), (2, 0x8)]⟩,
  ⟨.MAC_DIST_DROP, 0xA80040, [(2, 0x20), (4, 0x8)]⟩,
  ⟨.TIM_CTL, 0x300000, []⟩,
  ⟨.TIM_SERVO, 0x300008, []⟩,
  ⟨.TIM_NOW, 0x300010, []⟩,
  ⟨.TIM_NOW_FRAC, 0x300018, []⟩,
  ⟨.TIM_INCR, 0x300020, []⟩,
  ⟨.TIM_ADJ_ARG, 0x300028, []⟩]

def regMap10 : List RegLoc := [
  ⟨.TIM_SLEW_TICKS, 0x300030, []⟩,
  ⟨.TIM_ADJ_CMD, 0x300038, []⟩,
  ⟨.TIM_ADJ_STATUS, 0x300040, []⟩,
  ⟨.TIM_ADJ_DROP, 0x300048, []⟩,
  ⟨.TIM_SERVO_UPD, 0x300050, []⟩,
  ⟨.TIM_STATE, 0x300058, []⟩,
  ⟨.TIM_BOUND, 0x300060, []⟩,
  ⟨.TIM_ASYM, 0x300068, []⟩,
  ⟨.TIM_HOLD_CFG, 0x300070, []⟩,
  ⟨.TIM_LIMITS, 0x300078, []⟩,
  ⟨.TIM_LEAP, 0x300080, []⟩,
  ⟨.TIM_LEAP_TIME, 0x300088, []⟩,
  ⟨.TIM_TP_CTL, 0x300090, []⟩,
  ⟨.TIM_PTM_CTL, 0x300098, []⟩,
  ⟨.TIM_LAUNCH_CTL, 0x3000A0, []⟩,
  ⟨.TIM_LAUNCH_CNT, 0x3000A8, []⟩,
  ⟨.TIM_PPS_OUT, 0x3000B0, []⟩,
  ⟨.TIM_REF10M_CAP, 0x3000B8, []⟩,
  ⟨.TIM_REF10M_STATUS, 0x3000C0, []⟩,
  ⟨.TIM_GNSS_CTL, 0x3000C8, []⟩,
  ⟨.TIM_GNSS_RX, 0x3000D0, []⟩,
  ⟨.TIM_GNSS_TX, 0x3000D8, []⟩,
  ⟨.TIM_GNSS_STATUS, 0x3000E0, []⟩,
  ⟨.TIM_GNSS_LINE_TS, 0x3000E8, []⟩]

def regMap11 : List RegLoc := [
  ⟨.TIM_EVT, 0x3000F0, []⟩,
  ⟨.TIM_EVT_EN, 0x3000F8, []⟩,
  ⟨.TIM_MSIX_VEC, 0x300100, []⟩,
  ⟨.TIM_ERR_CNT, 0x300108, []⟩,
  ⟨.TIM_TP_ADDR, 0x300200, [(8, 0x10)]⟩,
  ⟨.TIM_PTM_STATUS, 0x300208, [(8, 0x10)]⟩,
  ⟨.TIM_CAP_CTL, 0x300400, [(5, 0x20)]⟩,
  ⟨.TIM_CAP_HI, 0x300408, [(5, 0x20)]⟩,
  ⟨.TIM_CAP_LO, 0x300410, [(5, 0x20)]⟩,
  ⟨.TIM_CAP_STATUS, 0x300418, [(5, 0x20)]⟩,
  ⟨.TIM_TOUT_CTL, 0x300500, [(4, 0x20)]⟩,
  ⟨.TIM_TOUT_START, 0x300508, [(4, 0x20)]⟩,
  ⟨.TIM_TOUT_PERIOD, 0x300510, [(4, 0x20)]⟩,
  ⟨.TIM_TOUT_WIDTH, 0x300518, [(4, 0x20)]⟩,
  ⟨.TIM_SYNCE, 0x300600, [(2, 0x8)]⟩,
  ⟨.TIM_ONESTEP, 0x300700, [(16, 0x8)]⟩,
  ⟨.TIM_CAL_RX, 0x300800, [(2, 0x80), (8, 0x10)]⟩,
  ⟨.TIM_CAL_TX, 0x300808, [(2, 0x80), (8, 0x10)]⟩,
  ⟨.CIP_SA_SEL, 0x900000, []⟩,
  ⟨.CIP_SA_CMD, 0x900008, []⟩,
  ⟨.CIP_SA_STATUS, 0x900010, []⟩,
  ⟨.CIP_SA_CFG, 0x900018, []⟩,
  ⟨.CIP_SA_SPI, 0x900020, []⟩,
  ⟨.CIP_SA_PN, 0x900028, []⟩]

def regMap12 : List RegLoc := [
  ⟨.CIP_SA_SOFT, 0x900030, []⟩,
  ⟨.CIP_SA_CNTIDX, 0x900038, []⟩,
  ⟨.CIP_SA_STATE, 0x900040, []⟩,
  ⟨.CIP_SA_NEXT, 0x900048, []⟩,
  ⟨.CIP_SA_ERRCNT, 0x900050, []⟩,
  ⟨.CIP_SA_KEY, 0x900080, [(4, 0x8)]⟩,
  ⟨.CIP_SA_SALT_0, 0x9000A0, []⟩,
  ⟨.CIP_SA_SALT_1, 0x9000A8, []⟩,
  ⟨.CIP_RXSC_SEL, 0x900100, []⟩,
  ⟨.CIP_RXSC_SCI, 0x900108, []⟩,
  ⟨.CIP_RXSC_SA, 0x900110, []⟩,
  ⟨.CIP_RXSC_CTL, 0x900118, []⟩,
  ⟨.CIP_MSEC_TX, 0x900200, [(16, 0x8)]⟩,
  ⟨.CIP_RAW_WIN, 0x900300, [(12, 0x8)]⟩,
  ⟨.CIP_DROP_CNT, 0x900400, []⟩,
  ⟨.CIP_FORMAT_CNT, 0x900408, []⟩,
  ⟨.CIP_DUP_CNT, 0x900410, []⟩,
  ⟨.CIP_STORE_ERR, 0x900418, []⟩,
  ⟨.CIP_ERR_CAPTURE, 0x900420, []⟩,
  ⟨.CIP_EVT, 0x900428, []⟩,
  ⟨.CIP_EVT_EN, 0x900430, []⟩,
  ⟨.CIP_MSIX_VEC, 0x900438, []⟩,
  ⟨.CIP_SOFT_MAP, 0x901000, [(1024, 0x8)]⟩,
  ⟨.CIP_EXH_MAP, 0x903000, [(1024, 0x8)]⟩]

def regMap13 : List RegLoc := [
  ⟨.TRS_INFO, 0x1800000, [(4, 0x1000000), (3, 0x100000)]⟩,
  ⟨.TRS_CYCLE, 0x1800008, [(4, 0x1000000), (3, 0x100000)]⟩,
  ⟨.TRS_CMD, 0x1800010, [(4, 0x1000000), (3, 0x100000)]⟩,
  ⟨.TRS_STATUS, 0x1800018, [(4, 0x1000000), (3, 0x100000)]⟩,
  ⟨.TRS_THR_SEL, 0x1800020, [(4, 0x1000000), (3, 0x100000)]⟩,
  ⟨.TRS_THR_STATE, 0x1800028, [(4, 0x1000000), (3, 0x100000)]⟩,
  ⟨.TRS_THR_PC, 0x1800030, [(4, 0x1000000), (3, 0x100000)]⟩,
  ⟨.TRS_THR_FAULT, 0x1800038, [(4, 0x1000000), (3, 0x100000)]⟩,
  ⟨.TRS_FAULT_MAP, 0x1800040, [(4, 0x1000000), (3, 0x100000)]⟩,
  ⟨.TRS_SUP_CAUSE, 0x1800048, [(4, 0x1000000), (3, 0x100000)]⟩,
  ⟨.TRS_EQ_STATUS, 0x1800050, [(4, 0x1000000), (3, 0x100000)]⟩,
  ⟨.TRS_ISSUE_CNT, 0x1800058, [(4, 0x1000000), (3, 0x100000)]⟩,
  ⟨.TRS_BUBBLE_CNT, 0x1800060, [(4, 0x1000000), (3, 0x100000)]⟩,
  ⟨.TRS_THR_CNT, 0x1800068, [(4, 0x1000000), (3, 0x100000)]⟩,
  ⟨.TRS_EVT, 0x1800070, [(4, 0x1000000), (3, 0x100000)]⟩,
  ⟨.TRS_EVT_EN, 0x1800078, [(4, 0x1000000), (3, 0x100000)]⟩,
  ⟨.TRS_MSIX_VEC, 0x1800080, [(4, 0x1000000), (3, 0x100000)]⟩,
  ⟨.TRS_STORE_ERR, 0x1800088, [(4, 0x1000000), (3, 0x100000)]⟩,
  ⟨.TRS_ERR_CAPTURE, 0x1800090, [(4, 0x1000000), (3, 0x100000)]⟩,
  ⟨.TRS_RAIL, 0x1801000, [(4, 0x1000000), (3, 0x100000), (256, 0x8)]⟩,
  ⟨.SPM_INFO, 0x1500000, [(4, 0x1000000)]⟩,
  ⟨.SPM_BAY_SEL, 0x1500008, [(4, 0x1000000)]⟩,
  ⟨.SPM_BAY_OWNER, 0x1500010, [(4, 0x1000000)]⟩,
  ⟨.SPM_BAY_PWR, 0x1500018, [(4, 0x1000000)]⟩]

def regMap14 : List RegLoc := [
  ⟨.SPM_BAY_STATUS, 0x1500020, [(4, 0x1000000)]⟩,
  ⟨.SPM_MGMT_ADDR, 0x1500028, [(4, 0x1000000)]⟩,
  ⟨.SPM_MGMT_DATA, 0x1500030, [(4, 0x1000000)]⟩,
  ⟨.SPM_ERR_CNT, 0x1500038, [(4, 0x1000000)]⟩,
  ⟨.SPM_ERR_CAPTURE, 0x1500040, [(4, 0x1000000)]⟩,
  ⟨.SPM_STORE_ERR, 0x1500048, [(4, 0x1000000)]⟩,
  ⟨.SPM_EVT, 0x1500050, [(4, 0x1000000)]⟩,
  ⟨.SPM_EVT_EN, 0x1500058, [(4, 0x1000000)]⟩,
  ⟨.SPM_MSIX_VEC, 0x1500060, [(4, 0x1000000)]⟩,
  ⟨.SPM_CONF_CNT, 0x1500100, [(4, 0x1000000), (7, 0x8)]⟩,
  ⟨.DMA_INFO, 0x1400000, [(4, 0x1000000)]⟩,
  ⟨.DMA_CH_SEL, 0x1400008, [(4, 0x1000000)]⟩,
  ⟨.DMA_CH_CFG, 0x1400010, [(4, 0x1000000)]⟩,
  ⟨.DMA_CH_RING, 0x1400018, [(4, 0x1000000)]⟩,
  ⟨.DMA_CH_CTL, 0x1400020, [(4, 0x1000000)]⟩,
  ⟨.DMA_CH_DB, 0x1400028, [(4, 0x1000000)]⟩,
  ⟨.DMA_CH_STATUS, 0x1400030, [(4, 0x1000000)]⟩,
  ⟨.DMA_CH_CNT, 0x1400038, [(4, 0x1000000)]⟩,
  ⟨.DMA_ERR_CNT, 0x1400040, [(4, 0x1000000)]⟩,
  ⟨.DMA_ERR_CAPTURE, 0x1400048, [(4, 0x1000000)]⟩,
  ⟨.DMA_EVT, 0x1400050, [(4, 0x1000000)]⟩,
  ⟨.DMA_EVT_EN, 0x1400058, [(4, 0x1000000)]⟩,
  ⟨.DMA_MSIX_VEC, 0x1400060, [(4, 0x1000000)]⟩,
  ⟨.FCU_SAFE_CMD, 0x200000, []⟩]

def regMap15 : List RegLoc := [
  ⟨.FCU_SAFE_STATUS, 0x200008, []⟩,
  ⟨.FCU_PIN, 0x200010, []⟩,
  ⟨.FCU_EVT, 0x200018, []⟩,
  ⟨.FCU_EVT_EN, 0x200020, []⟩,
  ⟨.FCU_MSIX_VEC, 0x200028, []⟩,
  ⟨.FCU_CAP, 0x200100, [(3, 0x20)]⟩,
  ⟨.FCU_DETAIL, 0x200108, [(3, 0x20)]⟩,
  ⟨.FCU_TIME, 0x200110, [(3, 0x20)]⟩,
  ⟨.FCU_CNT, 0x200118, [(3, 0x20)]⟩,
  ⟨.SEC_LC, 0xC00000, []⟩,
  ⟨.SEC_UID, 0xC00008, []⟩,
  ⟨.SEC_UID_HI, 0xC00010, []⟩,
  ⟨.SEC_CMD, 0xC00018, []⟩,
  ⟨.SEC_STATUS, 0xC00020, []⟩,
  ⟨.SEC_ARG_SEL, 0xC00028, []⟩,
  ⟨.SEC_ARG, 0xC00030, [(6, 0x8)]⟩,
  ⟨.SEC_BOOT_STATUS, 0xC00060, []⟩,
  ⟨.SEC_SVN, 0xC00068, []⟩,
  ⟨.SEC_KEYS, 0xC00070, []⟩,
  ⟨.SEC_EVT, 0xC00078, []⟩,
  ⟨.SEC_EVT_EN, 0xC00080, []⟩,
  ⟨.SEC_MSIX_VEC, 0xC00088, []⟩,
  ⟨.PWR_CMD, 0xB00000, []⟩,
  ⟨.PWR_STATUS, 0xB00008, []⟩]

def regMap16 : List RegLoc := [
  ⟨.PWR_DOMAINS, 0xB00010, []⟩,
  ⟨.PWR_WAKE_CNT, 0xB00018, []⟩,
  ⟨.PWR_STANDBY_WAKE, 0xB00020, []⟩,
  ⟨.PWR_EVT, 0xB00028, []⟩,
  ⟨.PWR_EVT_EN, 0xB00030, []⟩,
  ⟨.PWR_MSIX_VEC, 0xB00038, []⟩,
  ⟨.DBG_CMD, 0xD00000, []⟩,
  ⟨.DBG_STATUS, 0xD00008, []⟩,
  ⟨.DBG_TOKEN_DATA, 0xD00010, []⟩,
  ⟨.DBG_TOKEN_PTR, 0xD00018, []⟩,
  ⟨.DBG_NONCE, 0xD00020, [(4, 0x8)]⟩,
  ⟨.DBG_THR_SEL, 0xD00040, []⟩,
  ⟨.DBG_THR_CMD, 0xD00048, []⟩,
  ⟨.DBG_THR_STATUS, 0xD00050, []⟩,
  ⟨.DBG_REG_SEL, 0xD00058, []⟩,
  ⟨.DBG_REG_DATA, 0xD00060, []⟩,
  ⟨.DBG_SPM_ADDR, 0xD00068, []⟩,
  ⟨.DBG_SPM_DATA, 0xD00070, []⟩,
  ⟨.DBG_REMAIN, 0xD00078, []⟩,
  ⟨.PWR_TJ_CFG, 0xB00100, []⟩,
  ⟨.PWR_TJ_STATUS, 0xB00108, []⟩,
  ⟨.PWR_TJ_PEAK, 0xB00110, []⟩,
  ⟨.PWR_TJ_EQ, 0xB00118, []⟩,
  ⟨.PWR_SUPPLY_STATUS, 0xB00120, []⟩]

def regMap17 : List RegLoc := [
  ⟨.PWR_AGE_CFG, 0xB00128, []⟩,
  ⟨.PWR_BOARD, 0xB00130, []⟩,
  ⟨.PWR_TJ, 0xB00200, [(28, 0x8)]⟩,
  ⟨.PWR_SUPPLY, 0xB00300, [(8, 0x8)]⟩,
  ⟨.PWR_AGE, 0xB00400, [(22, 0x8)]⟩]

/-- Every register of BAR0 and its place (R14, R15). -/
def regMap : List RegLoc := regMap0 ++ regMap1 ++ regMap2 ++ regMap3 ++ regMap4 ++ regMap5 ++ regMap6 ++ regMap7 ++ regMap8 ++ regMap9 ++ regMap10 ++ regMap11 ++ regMap12 ++ regMap13 ++ regMap14 ++ regMap15 ++ regMap16 ++ regMap17

end Sys2Proof.Machine
end

