-- ==== Sys2Proof/Types.lean ====
section
/-!
DEFINITION. The operand types of the commands, and the data they carry: object numbers (R2, R13), PCIe functions (R70),
frames, entries and image contents. Plain data, each with decidable equality.
-/

namespace Sys2Proof

/-! ### Object numbers (R2, R13) -/

/-- Pier 0–3. -/
abbrev Pier := Fin 4
/-- Device-wide Truss 0–11 (R13). -/
abbrev Truss := Fin 12
/-- Device-wide thread 0–767 (R13). -/
abbrev ThreadId := Fin 768
/-- Host link 0–7 (R67). -/
abbrev Link := Fin 8
/-- Span 0–4095. -/
abbrev SpanId := Fin 4096
/-- Device-wide queue 0–65,535 (R145). -/
abbrev QueueId := Fin 65536
/-- MAC 0–15. -/
abbrev MacId := Fin 16
/-- Ethernet port 0–1. -/
abbrev Port := Fin 2
/-- The sequence number a command register carries (R534). -/
abbrev Seq := BitVec 16

/-- A PCIe function of R70: the PF of a link, the Management Function, or VF n of a link. -/
inductive Fn where
  | pf (h : Link)
  | mf
  | vf (h : Link) (n : SpanId)
  deriving DecidableEq, Repr

/-- A mailbox channel's owner (R176): a Span or a host. -/
inductive MbxEnd where
  | span (s : SpanId)
  | host (h : Link)
  deriving DecidableEq, Repr

/-- An access to the MBX_OUT or MBX_IN register of a page (R177): whose page, and whether it is the register's whole 8 bytes. -/
structure MbxAccess where
  page : MbxEnd
  eight : Bool := true
  deriving DecidableEq, Repr

/-- A read of a Time Page in a BAR (R348): the offset, and whether it is of 4 bytes; otherwise it is of 8. -/
structure TpAccess where
  off : BitVec 16
  four : Bool := false
  deriving DecidableEq, Repr

/-- A capture input's edge (R339): the input, and the edge's place in its tick, in units of 62.5 ps. -/
structure CapEdge where
  input : Fin 5
  place : Fin 20 := 0
  deriving DecidableEq, Repr

/-- The paths on which register writes reach the device (R3, HEP_MGMT_PATH). -/
inductive MgmtPath where | mf | mctp
  deriving DecidableEq, Repr

/-- What a register write addresses: a BAR0 offset of the Management Function, a register of a mailbox page in 8 bytes or fewer (R177), the
MSI-X table of a function (R73: vector, then 0 address, 1 data, 2 vector control), or the register window's own
registers (R79: 0 VS_ADDR, 1 VS_DATA_LO). -/
inductive RegTarget where
  | bar0 (path : MgmtPath) (offset : BitVec 28)
  | mbxPage (e : MbxEnd) (offset : BitVec 8) (eight : Bool)
  | msixTable (fn : Fn) (vec : Fin 2048) (word : Fin 3)
  | vsWindow (word : Fin 2)
  | mctpRead (offset : BitVec 28)
  deriving DecidableEq, Repr

/-- The outcome of an ECC check (R30 and the other blocks' stores). -/
inductive Ecc where | ok | corrected | uncorrected
  deriving DecidableEq, Repr

/-- What a MAC transmits (R300, R302); `acquire` is training patterns, then Remote Fault ordered sets. -/
inductive MacLine where | nothing | electricalIdle | acquire | framesAndIdle | idle | localFault
  deriving DecidableEq, Repr

/-- What a read of a table entry meets (R251, R252): a poisoned RLD line, or an error of an on-die store. -/
inductive TblRead where | ok | poisoned | corrected | uncorrected
  deriving DecidableEq, Repr

/-- A command of a Pier's table engine, and what its read of the entry meets. -/
structure PierRead where
  pier : Pier
  read : TblRead := .ok
  deriving DecidableEq, Repr

/-- A frame as a MAC receives it: destination address through FCS; the lane, counted from the MAC's lowest, that carries the octet
after the SFD (R329); and where in the present tick its first bit comes, in steps of 62.5 ps (R330). -/
structure WireFrame where
  bytes : List Byte
  lane : Fin 8 := 0
  sub : Fin 20 := 0
  deriving DecidableEq, Repr

/-! ### Faults (R459–R461) -/

/-- The three fault classes. -/
inductive FaultClass where | ce | ucc | fat
  deriving DecidableEq, Repr

/-- A fault event: source number, code and detail (R459). -/
structure FaultEv where
  source : BitVec 8
  code : BitVec 8
  detail : Word
  deriving DecidableEq, Repr

/-! ### Engine instructions (R408, R411) -/

/-- A general register g0–g31. -/
abbrev RegNo := BitVec 5

/-- The slot in which an instruction issues: its thread; the ECC outcomes of the registers it reads, of its word in the
instruction store and of the scratchpad word it touches, or for TAKE of the engine-queue place it reads (R406, R425, R443); and the
bits of the fields it does not use, in their
places in the word (R412). -/
structure Slot where
  thr : ThreadId
  regs : Ecc := .ok
  store : Ecc := .ok
  word : Ecc := .ok
  unused : BitVec 26 := 0
  deriving DecidableEq, Repr

/-- An ECC error in a TMS state store (R296): node state (0), a queue's frame list (1) or policer state (2), and its place. -/
structure TmsErr where
  kind : Fin 3
  level : Fin 4
  index : Fin 16384
  uncorrected : Bool
  deriving DecidableEq, Repr

/-! ### Host requests -/

/-- How a host request, or a transfer that needs several, ended: the STATUS causes of R163 that arise on the way. -/
inductive HostResult where
  | ok | translation | hostTimeout | poisoned | spanQuiesced
  deriving DecidableEq, Repr

/-- What a table walk or an ATS translation request brought back (R126, R96): the page-table entries read, top level first; an
ATS answer (page, 2 MiB, read, write); a read that timed out; or poisoned data. -/
inductive WalkResult where
  | entries (es : List Word)
  | ats (target : BitVec 52) (big read write : Bool)
  | timeout
  | poisoned
  deriving DecidableEq, Repr

/-- What a PTM dialog brings (R344): the PTM Master Time, t4 − t1 and t3 − t2 in ps, and the root's Effective Granularity in ns. -/
structure PtmRes where
  host : Word
  t41 : BitVec 32
  t32 : BitVec 32
  gran : Byte
  deriving DecidableEq, Repr

/-- A TLP to a Span's BAR2 (R130, R432). -/
inductive Bar2Tlp where
  | read (len : Fin 4097)
  | write (data : List Byte) (poisoned : Bool)
  | atomic
  deriving DecidableEq, Repr

/-- Configuration registers of a function that a configuration request can read or write (R73, R76, R77, R89, R93, R97, R100): also
the BARs, and the VF BARs of a PF; the first word of the capability at an offset; the address ranges of a selective IDE stream. -/
inductive CfgReg where
  | bar (i : Fin 6) | vfBar (i : Fin 6) | capPtr | interrupt | capHeader (off : BitVec 12) | pcieCap | devCap | devCap2 | aerUncorMask | aerUncorSev
  | msixTable | msixPba | ptmCap | atsCap | aerCorMask | ideCap | ideRange (i : Fin 4) (k : Fin 8) (word : Fin 3)
  | ids | classRev | subsystem | serial (hi : Bool) | vsHeader | totalVfs | vfOffset | command | pmcsr | devCtl | devCtl2 | msixCtl | aerUncor | aerCor | numVfs | sriovCtl | ptmCtl | atsCtl
  | vsAddr | vsDataLo | vsDataHi | doeResponse
  deriving DecidableEq, Repr

/-- A configuration request: a read, or a write of a value. -/
inductive CfgOp where
  | read (r : CfgReg)
  | write (r : CfgReg) (v : BitVec 32)
  deriving DecidableEq, Repr

/-- The requests an SPDM responder takes (R98), with the IDE_KM and TDISP messages that have an effect of their own. -/
inductive SpdmReq where
  | getVersion | getCapabilities | negotiateAlgorithms | getDigests | getCertificate | challenge | getMeasurements
  | keyExchange | finish (session : Fin 4) | heartbeat | keyUpdate | endSession (session : Fin 4)
  | tdispStart (span : SpanId) | tdispGetState (span : SpanId) | vendorOther | unsupported (code : Byte)
  deriving DecidableEq, Repr

/-- A DOE data object: the SPDM request in it and its length in bytes (R98). -/
structure DoeObj where
  req : SpdmReq
  len : Nat := 64
  deriving DecidableEq, Repr

/-- What an IDE KM KEY_PROG programs: the stream of the link, 0 the link stream, and its key (R100). -/
structure IdeProg where
  stream : Fin 5
  key : BitVec 256 := 0
  deriving DecidableEq, Repr

/-- A DOE mailbox: of a link's PF, or of the MF (R98). -/
inductive DoeMbx where | pf (h : Link) | mf
  deriving DecidableEq, Repr

/-- The instructions of the JTAG TAP (R486, R489, R510): a scan names a power domain, 0xFF for CORE, 0xFE for
AON, 0x20 + 8 × Pier + Bay for a Bay, else as PWR_CMD does; the register instruction an
offset of the DBG block, and what it writes. -/
inductive JtagIr where
  | idcode | bypass | scan (domain : Byte) | bus
  | register (off : BitVec 20) (write : Option Word)
  deriving DecidableEq, Repr

/-! ### Straps, board record, key record (R515, R522, R523) -/

/-- The strap pins. -/
structure Straps where
  mgmtHost : BitVec 3
  bootSel : BitVec 2
  deriving DecidableEq, Repr

/-- The board record of R522. -/
structure BoardRec where
  ctl0Mode : BitVec 2 := 0
  ctl1Mode : BitVec 2 := 0
  sris : BitVec 8 := 0xFF
  ssvid : BitVec 16 := 0x1F7E
  ssid : BitVec 16 := 0
  breakout0 : BitVec 2 := 0
  breakout1 : BitVec 2 := 0
  pmdType : BitVec 32 := 0
  rxInvert : BitVec 16 := 0
  txInvert : BitVec 16 := 0
  deriving DecidableEq, Repr

/-! ### Span context blobs (R136–R139, R180) -/

/-- A queue context as a blob carries it (R180). -/
structure QCtx where
  kind : BitVec 4 := 0
  state : BitVec 2 := 0
  eq : BitVec 8 := 0
  log2 : BitVec 4 := 4
  roHint : Bool := false
  prefetch : BitVec 9 := 64
  bind : BitVec 4 := 0
  base : Word := 0
  pi : BitVec 16 := 0
  ci : BitVec 16 := 0
  di : BitVec 16 := 0
  modInterval : BitVec 10 := 0
  modCount : BitVec 8 := 0
  vec : BitVec 6 := 0
  armed : Bool := false
  ovfPending : Bool := false
  count : BitVec 32 := 0
  completions : Word := 0
  bytes : Word := 0
  malformed : BitVec 32 := 0
  deriving DecidableEq, Repr

/-- A Span context blob (R139) without its CRC, which is that of its bytes. -/
structure Blob where
  magic : BitVec 32
  version : BitVec 16
  queues : Nat
  srcSpan : BitVec 16
  len : Nat
  exportTime : Word
  mode : BitVec 3
  windows : List (Word × Word × Word)
  inWord : Word
  outWord : Word
  inFull : Bool
  outFull : Bool
  msix : List (Word × BitVec 32 × Bool)
  pba : Word
  contexts : List QCtx
  deriving DecidableEq, Repr

/-- How a long-running Span command's work ended (R536): done, or, of an IMPORT, with the bytes that its reads brought. -/
inductive TransferEnd where
  | done
  | blob (bytes : List Byte)
  deriving DecidableEq, Repr

end Sys2Proof
end

