-- ==== Sys2Proof/Image.lean ====
section
/-!
DEFINITION. Aqgon images (chapter 02) as structured data: the header and section table of R38 and R39, and the content of each section
of R40. The byte encoding of a section's content is Oturvi's and the spec does not give it (log entry 40); these records hold
what the rules say a section says.
-/

namespace Sys2Proof

/-! ### Parser graphs (R192–R197) -/

/-- A header field: byte offset in the header, first bit counted from the most significant bit of that byte, width. -/
structure HdrField where
  off : Nat
  bit : Nat := 0
  width : Nat
  deriving DecidableEq, Repr

/-- A header length computed from a field: value × scale + addend, with a minimum. -/
structure LenRule where
  field : HdrField
  scale : Nat
  addend : Nat
  least : Nat
  deriving DecidableEq, Repr

/-- A declared-length field: the end it declares is the header's start + value + addend. -/
structure DeclLen where
  field : HdrField
  addend : Nat
  deriving DecidableEq, Repr

/-- How a node detects a fragment: IPv4 MF and fragment offset, or an IPv6 Fragment header (R197). -/
inductive FragRule where | none | v4 | v6
  deriving DecidableEq, Repr

/-- A parse node. `copies` lists the fields it extracts, each with its first byte in the header vector. -/
structure ParseNode where
  fixed : Nat
  len : Option LenRule := none
  copies : List (HdrField × Nat) := []
  check : Option DeclLen := none
  tunnel : Bool := false
  frag : FragRule := .none
  sel : Option HdrField := none
  next : List (Nat × Nat) := []
  dflt : Option Nat := none
  deriving DecidableEq, Repr

/-! ### Stage programs (R198–R201) -/

/-- Operands: a constant, big-endian header-vector bytes, bits of the result's action data, what the result carries beside
it, and what travels with the frame. -/
inductive Arg where
  | const (v : Nat)
  | hvec (off len : Nat)
  | data (lo width : Nat)
  | counter | encap | orient
  | ingressMac | tc | flowMark | vlan
  deriving DecidableEq, Repr

/-- The primitives of R199. -/
inductive Prim where
  | deliver (span base group : Arg)
  | forward (mac queue : Arg)
  | toEngine
  | drop (named : Arg)
  | police (span pre : Arg) (yellowDrop redDrop : Bool)
  | count (pair : Arg)
  | decap (level : Nat)
  | encap (template : Arg)
  | decrypt (sa : Arg)
  | encrypt (sa : Arg)
  | setField (off len : Nat) (v : Arg)
  | setMark (v : Arg)
  deriving DecidableEq, Repr

/-- The one lookup of a stage (R198, R201, R224–R226, R242). -/
inductive Lookup where
  | flow (table : Nat)
  | l2 (table : Nat) (mac fid : Arg) (learn : Option Arg)
  | lpm (table : Nat) (vrf addr : Arg) (v6 : Bool)
  | ternary (set : Fin 8) (key : List (Nat × Nat))
  deriving DecidableEq, Repr

/-- A stage: its lookup, the primitives applied after it whatever it found, those of each ACTION_ID, and those of a miss. -/
structure Stage where
  lookup : Option Lookup := none
  base : List Prim := []
  hit : List (Nat × List Prim) := []
  miss : List Prim := []
  deriving DecidableEq, Repr

/-- A pipeline's program: at most 12 stages; delivery groups and the WIRE queue of each MAC, which L2 entries name (R222);
and whether egress inserts checksums (R156). -/
structure Program where
  stages : List Stage := []
  groups : List (Nat × Nat × Nat) := []
  wires : List (Nat × Nat) := []
  csum : Bool := false
  deriving DecidableEq, Repr

/-! ### Tables -/

/-- A TABLE_SCHEMA section (R40, R219, R224): kind, size, layout identity, RLD region (first unit and units of 16 MiB), hash seeds, and
its key and action layout, as bytes (log entry 40). -/
structure TblSchema where
  kind : Nat
  log2 : Nat
  schemaId : BitVec 32 := 0
  region : Nat × Nat := (0, 0)
  seed1 : BitVec 32 := 0
  seed2 : BitVec 32 := 0
  layout : List Byte := []
  deriving DecidableEq, Repr

/-- A FLOW entry (R221) but for its lock, which the lock store holds. -/
structure FlowEnt where
  key : List Byte := []
  valid : Bool := false
  hit : Bool := false
  aged : Bool := false
  static : Bool := false
  learned : Bool := false
  spill : Nat := 0
  actionId : BitVec 16 := 0
  counter : Nat := 0
  encap : Nat := 0
  data : Word := 0
  deriving DecidableEq, Repr

/-- An L2 entry (R222) but for its lock. -/
structure L2Ent where
  mac : BitVec 48 := 0
  fid : BitVec 16 := 0
  valid : Bool := false
  hit : Bool := false
  aged : Bool := false
  static : Bool := false
  learned : Bool := false
  destKind : Nat := 0
  dest : BitVec 16 := 0
  encap : Nat := 0
  spill : Nat := 0
  deriving DecidableEq, Repr

/-- A route (R238). -/
structure Route where
  pfx : BitVec 128
  len : Nat
  v6 : Bool
  vrf : BitVec 16
  data : Word
  actionId : BitVec 16
  deriving DecidableEq, Repr

/-- An ENCAP template (R232). -/
structure EncapT where
  type : Nat := 0
  l3 : Nat := 0
  l4 : Nat := 0
  ipv6 : Bool := false
  udpCsum : Bool := false
  header : List Byte := []
  deriving DecidableEq, Repr

/-- An initial entry of TABLE_INIT: FLOW, L2 and ENCAP by index, routes. -/
inductive InitEnt where
  | flow (i : Nat) (e : FlowEnt)
  | l2 (i : Nat) (e : L2Ent)
  | route (r : Route)
  | encap (i : Nat) (t : EncapT)
  deriving DecidableEq, Repr

/-- A ternary rule (R201, R216). -/
structure Rule where
  key : BitVec 320 := 0
  mask : BitVec 320 := 0
  action : BitVec 16 := 0
  data : BitVec 32 := 0
  valid : Bool := false
  deriving DecidableEq, Repr

/-! ### Scheduling (R276–R278) -/

/-- A node of a Pier's tree: level, index, parent, DEST_KIND, TC and TRUSS of a queue, and the settings the section names. -/
structure TreeNode where
  level : Fin 4
  index : Nat
  parent : Nat := 0
  kind : Nat := 0
  tc : Nat := 0
  truss : Nat := 0
  quantum : Option Nat := none
  cir : Option Nat := none
  pir : Option Nat := none
  cbs : Option Nat := none
  pbs : Option Nat := none
  overhead : Option Nat := none
  green : Option Nat := none
  yellow : Option Nat := none
  deriving DecidableEq, Repr

/-- A policer's settings that SCHED_TREE names. -/
structure PolImg where
  span : Nat
  en : Bool := false
  aware : Bool := false
  cir : Option Nat := none
  pir : Option Nat := none
  cbs : Option Nat := none
  pbs : Option Nat := none
  deriving DecidableEq, Repr

/-- What an image gives one Pier. `txMap` and `rxMap` list ranges of device-wide work queues (first, count) with their TMS
queue (R278); `slow` the slow-path ENGINE queue of each Truss; `pools` the pools named for its pipelines (R258); `accts` the
account of received frames of each class (R263); `rails` the Truss that reads each Rail (R394); `init` the TABLE_INIT sections, each
with its table; `tuple` the hash tuple of PARSER_GRAPH, as bytes (R40, log entry 40). -/
structure PierImg where
  ingress : List ParseNode := []
  egress : List ParseNode := []
  prog : Program := {}
  eprog : Program := {}
  tables : List TblSchema := []
  init : List (Nat × List InitEnt) := []
  tuple : List Byte := []
  sets : List (Nat × Nat) := []
  rules : List (Nat × Rule) := []
  nodes : List TreeNode := []
  policers : List PolImg := []
  txMap : List (Nat × Nat × Nat) := []
  rxMap : List (Nat × Nat × Nat) := []
  slow : List (Option Nat) := []
  rails : List (Fin 256 × Fin 3) := []
  pools : List Nat := []
  accts : List (Option Nat) := []
  deriving DecidableEq, Repr

/-! ### Device-scope sections -/

/-- A work queue of a Span (R144, R145): kind and the Pier or Truss that serves it. -/
structure QueueImg where
  kind : Nat
  bind : Nat := 0
  deriving DecidableEq, Repr

/-- A Span of HOST_SPANS: its queues, the device-wide number of the first, and its TDISP flag. -/
structure SpanImg where
  queues : List QueueImg := []
  first : Nat := 0
  tdisp : Bool := false
  deriving DecidableEq, Repr

/-- A link of HOST_SPANS: BASE, Span count, BAR0 size (64 KiB, R73) and BAR2 size. -/
structure HostImg where
  base : Nat := 0
  count : Nat := 0
  bar0 : Nat := 0x10000
  bar2 : Nat := 0
  deriving DecidableEq, Repr

/-- RLD_PARTITION in units of 16 MiB (first unit, units): regions of queue contexts, counters, engine firmware and data; in the
latter the record area and the hold area; the tables' regions stand in their schemas. -/
structure Partition where
  qctx : Nat × Nat := (0, 0)
  counters : Nat × Nat := (0, 0)
  engine : Nat × Nat := (0, 0)
  recs : Nat × Nat := (0, 0)
  hold : Nat × Nat := (0, 0)
  deriving DecidableEq, Repr

/-- A pool of BUFFER_POOLS. -/
structure PoolImg where
  base : Nat
  count : Nat
  acctBase : Nat
  acctCount : Nat
  xoff : Option Nat := none
  xon : Option Nat := none
  limits : List (Nat × Nat × Nat) := []
  deriving DecidableEq, Repr

/-- ENGINE_FIRMWARE of a Truss: code words, entry point, initial data in the engine region (byte offset and bytes). -/
structure FwImg where
  code : List (BitVec 32) := []
  entry : BitVec 32 := 0
  data : List (Nat × List Byte) := []
  deriving DecidableEq, Repr

/-- An initial register value of PARAMETERS: field, instance, value, and the scope of its section (R40): a Pier, or the device. -/
structure Param where
  fld : Machine.Fld
  idx : Nat
  val : Nat
  scope : Option (Fin 4) := none
  deriving DecidableEq, Repr

/-- The 512-byte header of an image (R38); `flags` the half-word of VENDOR_DEBUG and RLD_TABLES, `restZero` whether bytes 0x038 to
0x1FF are 0. -/
structure ImgHdr where
  magic : BitVec 32 := 0
  hdrVersion : BitVec 16 := 0
  hdrSize : BitVec 16 := 0
  part : BitVec 16 := 0
  steppings : BitVec 16 := 0
  version : BitVec 32 := 0
  svn : BitVec 16 := 0
  flags : BitVec 16 := 0
  sectionCount : BitVec 16 := 0
  res16 : BitVec 16 := 0
  totalLen : BitVec 32 := 0
  tableOff : BitVec 32 := 0
  buildId : Word := 0
  signedLen : BitVec 32 := 0
  keyMldsa : BitVec 32 := 0
  keyEcdsa : BitVec 32 := 0
  res34 : BitVec 32 := 0
  restZero : Bool := true
  deriving DecidableEq, Repr

/-- An entry of the section table (R39); `flags` the byte of REQUIRED, `restZero` whether its last 12 bytes are 0. -/
structure SecEnt where
  type : BitVec 16 := 0
  scope : Byte := 0
  flags : Byte := 0
  offset : BitVec 32 := 0
  length : BitVec 32 := 0
  schemaId : BitVec 32 := 0
  crc : BitVec 32 := 0
  restZero : Bool := true
  deriving DecidableEq, Repr

/-- An image: its header and section table, the SHA-384 of its signed bytes (R484), and what its sections say; `routes` gives each
traffic class its dimension order (R26, R40), true for Y then X. -/
structure Image where
  hdr : ImgHdr := {}
  secs : List SecEnt := []
  digest : BitVec 384 := 0
  hosts : List HostImg := []
  spans : List SpanImg := []
  part : Partition := {}
  piers : List PierImg := []
  pools : List PoolImg := []
  classPool : List (Option Nat) := []
  routes : List Bool := []
  fw : List FwImg := []
  params : List Param := []
  servo : Option ThreadId := none
  deriving DecidableEq, Repr

/-- An image as it is read: its bytes, and what its sections say, in an encoding that the spec does not give (log entry 40). -/
structure ImgFile where
  bytes : List Byte := []
  content : Image := {}
  deriving DecidableEq, Repr

/-- What has happened to the fuse array by a boot (R477, R478): the factory test wrote bits of a word, or copy B (`true`) or copy A of a
word reads another value than was written. -/
inductive FuseEv where
  | factory (w v : BitVec 16)
  | decay (copyB : Bool) (w v : BitVec 16)
  deriving DecidableEq, Repr

/-- What a boot finds (R477, R478, R482, R518, R520–R523): fuses that changed, the flash devices that answer, the bytes of copies A and B
of the Tollhouse firmware and of the key record, and the board record. -/
structure BootFind where
  fuses : List FuseEv := []
  devs : Fin 5 := 4
  thA : List Byte := []
  thB : List Byte := []
  keyRec : List Byte := []
  board : Option BoardRec := none
  deriving DecidableEq, Repr

/-- What PLL_LOCK brings: the ticks to the next AON_CLK edge (R21), and what the boot finds. -/
structure LockFind where
  phase : Fin 32
  boot : BootFind := {}
  deriving DecidableEq, Repr

/-- What a read of an image brings (R50): the image, or a read error. -/
inductive ImgRead where
  | image (f : ImgFile)
  | error
  deriving DecidableEq, Repr

end Sys2Proof
end

