-- ==== Sys2Proof/Machine/Map.lean ====
section
/-!
DEFINITION. Sparse maps: the form in which every large array of the machine (register instances, memories, tables,
contexts) is held. A map is a list of (key, value) pairs in ONE canonical form: keys strictly rising, and no entry equal
to what an unlisted key reads as. Also the bit-field helpers over words.
-/

namespace Sys2Proof.Machine

/-- A sparse array with natural-number keys. -/
abbrev SMap (V : Type) := List (Nat × V)

namespace SMap

variable {V : Type}

/-- The entry listed for a key, if one is. -/
def find? : SMap V → Nat → Option V
  | [], _ => none
  | (a, v) :: m, k => if k = a then some v else find? m k

/-- What a key reads as: its entry, or the value `d` of unlisted keys. -/
def get (d : V) (m : SMap V) (k : Nat) : V := (find? m k).getD d

/-- Lists `v` under `k`, at its place in rising order. -/
def insert : SMap V → Nat → V → SMap V
  | [], k, v => [(k, v)]
  | (a, w) :: m, k, v => if k < a then (k, v) :: (a, w) :: m else if k = a then (k, v) :: m else (a, w) :: insert m k v

/-- Unlists `k`. -/
def erase : SMap V → Nat → SMap V
  | [], _ => []
  | (a, w) :: m, k => if k = a then erase m k else (a, w) :: erase m k

/-- Writes `v` at `k`; the value an unlisted key reads as removes the entry. -/
def put [DecidableEq V] (d : V) (m : SMap V) (k : Nat) (v : V) : SMap V :=
  if v = d then erase m k else insert m k v

/-- Keys strictly rise. -/
def rising : SMap V → Bool
  | [] => true
  | [_] => true
  | (a, _) :: (b, w) :: m => decide (a < b) && rising ((b, w) :: m)

/-- The canonical form: keys rise and no entry equals what an unlisted key reads as (`d`, which may depend on the key). -/
def wf [DecidableEq V] (d : Nat → V) (m : SMap V) : Bool := rising m && m.all fun e => decide (e.2 ≠ d e.1)

/-- Keeps the entries whose key satisfies `p`; the others read as unlisted. -/
def keep (p : Nat → Bool) (m : SMap V) : SMap V := m.filter fun e => p e.1

end SMap

/-- Puts an element at its place in a sorted list, before its equals. -/
def insertBy {A : Type} (le : A → A → Bool) (x : A) : List A → List A
  | [] => [x]
  | y :: l => if le x y then x :: y :: l else y :: insertBy le x l

/-- A list sorted by `le`, equals in their old order. -/
def sortBy {A : Type} (le : A → A → Bool) (l : List A) : List A := l.foldr (insertBy le) []

/-- Bits `[lo + n - 1 : lo]` of a word, as a number. -/
def getBits (w : Word) (lo n : Nat) : Nat := (w >>> lo).toNat % 2 ^ n

/-- A word of ones in bits `[lo + n - 1 : lo]`. -/
def fieldMask (lo n : Nat) : Word := (BitVec.ofNat 64 (2 ^ n - 1)) <<< lo

/-- Replaces bits `[lo + n - 1 : lo]` of a word by the low `n` bits of `v`. -/
def setBits (w : Word) (lo n v : Nat) : Word :=
  (w &&& ~~~ fieldMask lo n) ||| ((BitVec.ofNat 64 (v % 2 ^ n)) <<< lo)

/-- Bit `i` of a word. -/
def bitOf (w : Word) (i : Nat) : Bool := w.getLsbD i

/-- Takes from `new` the bits of `mask` and from `old` the others. -/
def merge (mask old new : Word) : Word := (old &&& ~~~ mask) ||| (new &&& mask)

/-- A Bool as a one-bit number. -/
def b2n (b : Bool) : Nat := if b then 1 else 0

/-- The low `n` bits of a number read as two's complement. -/
def signed (n v : Nat) : Int := if v % 2 ^ n < 2 ^ (n - 1) then (v % 2 ^ n : Nat) else (v % 2 ^ n : Nat) - (2 ^ n : Nat)

/-- An integer in `n`-bit two's complement. -/
def unsigned (n : Nat) (v : Int) : Nat := (v % ((2 ^ n : Nat) : Int)).toNat

/-- `v` forced into `lo .. hi` (R6). -/
def clampN (lo hi v : Nat) : Nat := if v < lo then lo else if hi < v then hi else v

/-- A counter of `bits` bits that saturates. -/
def satAdd (bits v k : Nat) : Nat := if 2 ^ bits - 1 < v + k then 2 ^ bits - 1 else v + k

/-- A list with position `i` replaced. -/
def setAt {α : Type} : List α → Nat → α → List α
  | [], _, _ => []
  | _ :: t, 0, x => x :: t
  | h :: t, i + 1, x => h :: setAt t i x

/-- The bytes of a number, least significant first. -/
def toBytesLE : Nat → Nat → List Byte
  | 0, _ => []
  | k + 1, v => BitVec.ofNat 8 v :: toBytesLE k (v / 256)

/-- The number little-endian bytes spell. -/
def fromBytesLE : List Byte → Nat
  | [] => 0
  | b :: t => b.toNat + 256 * fromBytesLE t

/-- The number big-endian bytes spell. -/
def fromBytesBE (bs : List Byte) : Nat := bs.foldl (fun a b => a * 256 + b.toNat) 0

/-- One bit, and one byte, of a reflected CRC32C (Castagnoli) register. -/
def crcBit (c : BitVec 32) : BitVec 32 := if c.getLsbD 0 then (c >>> 1) ^^^ 0x82F63B78 else c >>> 1

def crcByte (c : BitVec 32) (b : Byte) : BitVec 32 := (List.range 8).foldl (fun a _ => crcBit a) (c ^^^ b.setWidth 32)

/-- CRC32C with an initial value and final XOR 0xFFFF_FFFF. -/
def crc32c (init : BitVec 32) (bs : List Byte) : BitVec 32 := bs.foldl crcByte init ^^^ 0xFFFFFFFF

/-- The little-endian number at bytes `off` to `off + n - 1`; bytes past the end read 0. -/
def leAt (bs : List Byte) (off n : Nat) : Nat := fromBytesLE ((bs.drop off).take n)

/-- The big-endian number at bytes `off` to `off + n - 1`; bytes past the end read 0. -/
def beAt (bs : List Byte) (off n : Nat) : Nat := (List.range n).foldl (fun a i => a * 256 + (bs.getD (off + i) 0).toNat) 0

/-- The bytes of a number, most significant first. -/
def toBytesBE (k v : Nat) : List Byte := (toBytesLE k v).reverse

/-- A list with `new` in the place of as many elements from `off` on. -/
def overlay {α : Type} (l : List α) (off : Nat) (new : List α) : List α :=
  l.take off ++ new.take (l.length - off) ++ l.drop (off + new.length)

end Sys2Proof.Machine
end

