-- ==== Sys2Proof/Machine/Blocks.lean ====
section
/-!
DEFINITION. The plain-data records of the device's objects: PCIe functions, tags, Spans, queues, mailboxes, threads,
Rails and so on. A register's stored word lives in the register file (Regs.lean); what a record holds here the manual
names as state of an object, and the read-only registers that report it are computed from it.
-/

namespace Sys2Proof.Machine

/-! ### Host endpoint (chapter 03) -/

/-- Configuration state of a PCIe function (R69, R73, R76–R78, R88, R89, R93, R540); the defaults are the values after its reset. `errEn`
is Device Control's reporting enables: correctable, non-fatal, fatal, unsupported request; `bars` the BARs' address words, those of the
VF BARs from 8 on. -/
structure FnCfg where
  bme : Bool := false
  mse : Bool := false
  d3hot : Bool := false
  msixEnable : Bool := false
  msixMask : Bool := false
  relaxed : Bool := true
  mps : BitVec 3 := 0
  mrrs : BitVec 3 := 2
  timeout : BitVec 4 := 0
  aerUncor : BitVec 32 := 0
  aerCor : BitVec 32 := 0
  aerMask : BitVec 32 := 0
  aerSev : BitVec 32 := 0x10040000
  aerCorMask : BitVec 32 := 0
  errEn : BitVec 4 := 0
  bars : SMap (BitVec 32) := []
  bus : BitVec 8 := 0
  numVfs : Nat := 0
  vfEnable : Bool := false
  ptmEnable : Bool := false
  atsEnable : Bool := false
  deriving DecidableEq, Repr

/-- One MSI-X vector: table entry and PBA bit (R77). -/
structure Msix where
  addr : Word := 0
  data : BitVec 32 := 0
  masked : Bool := true
  pending : Bool := false
  deriving DecidableEq, Repr

/-- What a host request serves, so that its end finds the work that depended on it (R83, R90, R115): also the reads of a table walk
(R126), of an image (R50), of a Span command's transfer (R136, R137), and of a line of a dirty bitmap (R133). -/
inductive Dep where
  | fetch (q : Nat)
  | data (q : Nat) (cell : BitVec 16) (part : Nat)
  | dma (p ch burst : Nat)
  | dmaRing (p ch gen : Nat)
  | dmaBarrier (p ch : Nat)
  | tblRing (p : Nat)
  | tblBuf (p : Nat)
  | walk
  | stage
  | blob
  | log (span addr : Nat)
  | other
  deriving DecidableEq, Repr

/-- One piece of a request: an input address and, for a read, a length or, for a write, the bytes. -/
structure Part where
  addr : Nat
  len : Nat
  data : List Byte := []
  poisoned : Bool := false
  deriving DecidableEq, Repr

/-- How far a table walk is (R126): the tag of its read, or none while it waits for one; whether it asks by ATS; the level it
reads, 0 the last; the table's address; and the access that the levels above give. -/
structure WalkAt where
  tag : Option Nat := none
  ats : Bool := false
  level : Nat := 0
  table : Nat := 0
  read : Bool := true
  write : Bool := true
  deriving DecidableEq, Repr

/-- A device request whose pieces go out in order (R127): for a Span or, with none, untranslated for the Management
Function; `part` numbers the next piece, `relaxed` is its Relaxed Ordering attribute (R95), `walk` the walk it waits for. -/
structure Job where
  fn : Fn
  span : Option Nat
  dep : Dep
  write : Bool
  poisoned : Bool := false
  relaxed : Bool := false
  part : Nat := 0
  parts : List Part
  walk : WalkAt := {}
  deriving DecidableEq, Repr

/-- An outstanding non-posted host request; `big` when a 2 MiB translation gave its address (R96, R128), and the bytes that its
completions brought so far, with a poison mark (R92, R94). -/
structure HostReq where
  fn : Fn
  span : Option Nat
  dep : Dep
  part : Nat := 0
  page : Nat := 0
  addr : Nat := 0
  len : Nat := 0
  big : Bool := false
  recv : List Byte := []
  bad : Bool := false
  deriving DecidableEq, Repr

/-- A tag of a link (R69, R90). -/
inductive Tag where
  | free
  | outstanding (r : HostReq)
  | quarantined
  deriving DecidableEq, Repr

/-- Per-link state beside HEP_LINK_STATE: PHY calibrated and configuration requests served (R86), and the PERST pin. -/
structure LinkSt where
  calibrated : Bool := false
  perst : Bool := true
  cfgReady : Bool := false
  deriving DecidableEq, Repr

/-- An IDE stream (R100, R101). -/
inductive IdeStream where | none | secure | insecure
  deriving DecidableEq, Repr

/-- The algorithms of R98. -/
inductive SpdmAlg where | ecdsaP384 | sha384 | secp384r1 | aes256Gcm
  deriving DecidableEq, Repr

/-- A certificate of slot 0's chain (R484). -/
inductive SpdmCert where | vendorRoot | vendorIntermediate | deviceId | alias_
  deriving DecidableEq, Repr

/-- What a measurement block of R484 holds: SHA-384 digests and raw values. -/
inductive SpdmMeas where
  | digest (d : BitVec 384)
  | raw (v : Nat)
  deriving DecidableEq, Repr

/-- What an SPDM response says, as R98 and R484 give it; signatures are free values. -/
structure SpdmBody where
  version : Option Byte := none
  algs : List SpdmAlg := []
  certs : List SpdmCert := []
  blocks : List (Nat × List SpdmMeas) := []
  signature : Option Word := none
  deriving DecidableEq, Repr

/-- An SPDM ERROR response: Unspecified (R483), or one whose code the spec does not give. -/
inductive SpdmError where | unspecified | unstated
  deriving DecidableEq, Repr

/-- An SPDM response held in a DOE mailbox: the request it answers, whether it is an ERROR response, and what it says. -/
structure DoeResp where
  req : SpdmReq
  error : Option SpdmError := none
  session : Nat := 0
  body : SpdmBody := {}
  deriving DecidableEq, Repr

/-- A DOE mailbox (R98, R99): of its secured sessions, those that FINISH has completed. -/
structure Doe where
  waiting : List SpdmReq := []
  response : Option DoeResp := none
  sessions : BitVec 4 := 0
  finished : BitVec 4 := 0
  deriving DecidableEq, Repr

/-- Host-facing structure of a link: first Span, TotalVFs, VF BAR2 size and the Spans flagged TDISP-capable (R61, R72, R74,
R102). -/
structure HostFace where
  base : Nat := 0
  count : Nat := 0
  bar2 : Nat := 0
  tdisp : List Nat := []
  deriving DecidableEq, Repr

/-! ### Spans (chapter 04) -/

/-- Span states (R108). -/
inductive SpanState where | disabled | enabled | quiescing | quiesced | removed
  deriving DecidableEq, Repr

/-- TDISP interface states (R102–R104). -/
inductive Tdi where | unlocked | locked | run | error
  deriving DecidableEq, Repr

/-- A Span's state (R108–R118). `byReset` says a reset of R81 put it into Quiescing (R118); `queues`, `firstQueue` and
`tdispCapable` come from the image. -/
structure Span where
  state : SpanState := .disabled
  drained : Bool := false
  resetRequired : Bool := false
  byReset : Bool := false
  lateDone : Bool := false
  tdi : Tdi := .unlocked
  queues : Nat := 0
  firstQueue : Nat := 0
  tdispCapable : Bool := false
  stream : Nat := 0
  deriving DecidableEq, Repr

/-- A cached leaf translation (R128): input page (4 KiB units), whether it maps 2 MiB, and the access it gives; `fail` is not 0 while
the requests that waited for a walk of the page end with that code. -/
structure Xlate where
  span : Nat
  page : Nat
  big : Bool
  read : Bool
  write : Bool
  target : Nat
  fail : Nat := 0
  deriving DecidableEq, Repr

/-- A 64-byte line of a dirty bitmap that the STU reads and rewrites (R133): its Span, whether it is of bitmap B, its address, and the
bits gathered for it. -/
structure LogLine where
  span : Nat
  mapB : Bool
  addr : Nat
  bits : List Nat
  deriving DecidableEq, Repr

/-- An accepted translation-cache invalidation (R128). -/
structure Inval where
  span : Nat
  scope : BitVec 2
  page : Nat
  seq : Seq
  waitOn : List Nat
  deriving DecidableEq, Repr

/-- The long-running Span commands (R536). -/
inductive SpanOp where | reset | remove | init | exportBlob | importBlob | logSwap
  deriving DecidableEq, Repr

/-- A Span command that is running; `flushed` once LOG_SWAP has sent its flushing read, `bad` once a transfer failed (R134, R142). -/
structure SpanCmd where
  op : SpanOp
  span : Nat
  seq : Seq
  flushed : Bool := false
  bad : Bool := false
  deriving DecidableEq, Repr

/-! ### Queues (chapter 05) -/

/-- Queue states (R166). -/
inductive QState where | disabled | active | error
  deriving DecidableEq, Repr

/-- A 16-byte ring cell. -/
abbrev Cell16 := BitVec 128

/-- A fetched entry: the index of its first cell, and its cells. -/
structure Entry where
  cell : BitVec 16
  cells : List Cell16
  deriving DecidableEq, Repr

/-- What a completion reports (R159). -/
structure Cpl where
  bytes : Nat := 0
  info : BitVec 32 := 0
  time : Word := 0
  hash : BitVec 32 := 0
  mark : BitVec 32 := 0
  deriving DecidableEq, Repr

/-- A begun entry (R164): the data requests it still waits for, the bytes they brought by part number, the status causes
gathered (R539), the chain that holds its frame, the STATUS firmware gives it (R418), and its result once it is ready to be
completed; `bad` when some of its data came poisoned (R94). -/
structure Begun where
  entry : Entry
  parts : Nat := 0
  data : List (Nat × List Byte) := []
  causes : List Nat := []
  handed : Bool := false
  head : Option Nat := none
  given : Option Nat := none
  result : Option Cpl := none
  written : Bool := false
  bad : Bool := false
  deriving DecidableEq, Repr

/-- An event that waits to be written to an event ring (R168): its TYPE, the originating queue, and its STATUS. -/
structure EvItem where
  type : Nat
  queue : Nat
  status : Nat
  deriving DecidableEq, Repr

/-- A work queue's context beside its QE_CTX_ registers (R147, R166, R168–R171, R180). `used` says that the image gives the
queue to a Span; `drops` is NOENTRY_DROPS or OVF_CNT; `badSince` is the newest status other than OK since the last event; `charge` is a
granted buffer charge of the first cached entry (R164). -/
structure Queue where
  used : Bool := false
  span : Nat := 0
  index : Nat := 0
  kind : Nat := 0
  bind : Nat := 0
  state : QState := .disabled
  pi : BitVec 16 := 0
  ci : BitVec 16 := 0
  di : BitVec 16 := 0
  fetching : Nat := 0
  cached : List Entry := []
  begun : List Begun := []
  charge : Option Nat := none
  disabling : Option Seq := none
  armed : Bool := false
  ovfPending : Bool := false
  ovfSince : Nat := 0
  evWait : List EvItem := []
  pend : BitVec 256 := 0
  drops : Nat := 0
  completions : Word := 0
  bytes : Word := 0
  malformed : Nat := 0
  modRunning : Bool := false
  gathered : Nat := 0
  sinceEvent : Nat := 0
  badSince : Nat := 0
  deriving DecidableEq, Repr

/-- A mailbox channel (R176, R177). -/
structure Mbx where
  inWord : Word := 0
  inFull : Bool := false
  outWord : Word := 0
  outFull : Bool := false
  overrun : Bool := false
  irqEn : Bool := false
  vec : BitVec 6 := 0
  deriving DecidableEq, Repr

/-! ### Frames inside the device -/

/-- A frame and what travels with it: bytes without FCS, receive MAC and time, hash and parse results, marks, where it came
from (a TX queue and the entry's first cell), where it goes, and the buffer chain that holds it; `fcs` the received FCS, `tuple` the distributor's tuple with `srcHi` when the
frame's source is its HI endpoint, `verified` after the SecY, `tmsq` the WIRE queue, `placed` the first cell of the RECV entry it is being written to. -/
structure Pkt where
  bytes : List Byte := []
  mac : Nat := 0
  time : Word := 0
  frac : BitVec 16 := 0
  trunc : Bool := false
  decrypted : Bool := false
  authFail : Bool := false
  poisoned : Bool := false
  hash : BitVec 32 := 0
  mark : BitVec 32 := 0
  vlan : Option (BitVec 16) := none
  l3ok : Bool := false
  l4ok : Bool := false
  tc : Nat := 0
  colour : Nat := 0
  span : Option Nat := none
  entry : Option (Nat × BitVec 16) := none
  txq : Option Nat := none
  rxq : Option Nat := none
  launch : Option Word := none
  flowMark : BitVec 32 := 0
  csum : Bool := false
  head : Option Nat := none
  cause : Nat := 7
  parse : Word := 0
  hvec : List Byte := []
  reinject : Option (BitVec 16 × Word) := none
  fcs : List Byte := []
  tuple : List Byte := []
  srcHi : Bool := false
  verified : Bool := false
  tmsq : Option Nat := none
  saFrame : Option (BitVec 16) := none
  placed : Option (BitVec 16) := none
  deriving DecidableEq, Repr

/-- Frame length with its FCS; a truncated frame carries none (R304). -/
def Pkt.len (f : Pkt) : Nat := f.bytes.length + (if f.trunc then 0 else 4)

/-! ### Trusses and threads (chapters 13 and 14) -/

/-- An engine-queue item (R387): a packet, or a work-queue entry with its queue, Span and placing time. -/
inductive EqItem where
  | packet (p : Pkt)
  | entry (q : QueueId) (e : Entry) (span : Nat) (time : Word)
  deriving DecidableEq, Repr

/-- An ENGINE entry a Truss holds (R420): the thread that took it, its queue and first cell. -/
structure HeldEntry where
  truss : Nat
  thread : Nat
  queue : QueueId
  cell : BitVec 16
  deriving DecidableEq, Repr

/-- Thread states (R382). -/
inductive ThrState where | free | running | waiting | done | faulted | halted
  deriving DecidableEq, Repr

/-- The exceptions of R425. -/
inductive Exc where
  | illegal | pcRange | align | spmRange | bay | rldRange | win | poison | join | rail | priv | notBound | arg | cipher
  | regErr | brk
  deriving DecidableEq, Repr

/-- An operation of the returning class (R380): what it will do when it returns, and the register it will write. -/
inductive RetOp where
  | load (addr : Nat) (size : Nat) (signExt : Bool) (rd : RegNo)
  | store (addr : Nat) (size : Nat) (value : Word)
  | atomic (fn : Fin 3) (addr : Nat) (operand compare : Word) (rd : RegNo)
  | aes (sa : BitVec 16) (decrypt : Bool) (hi lo : Word) (rd : RegNo)
  | tbl (desc : Word) (buf : Nat) (rd : RegNo)
  | buf (fn : Fin 4) (head : Nat) (newOwner : BitVec 16) (rd : RegNo)
  | keyld (install : Bool) (sa : BitVec 16) (k256 : Bool) (key : List Byte) (rd : RegNo)
  | dma (ch : Fin 64) (desc : BitVec 256) (rd : RegNo)
  deriving DecidableEq, Repr

/-- An outstanding operation with the address of its instruction; `live` until its thread leaves for the pool (R402). -/
structure OutOp where
  op : RetOp
  pc : BitVec 32
  live : Bool := true
  deriving DecidableEq, Repr

/-- An implicit wait (R383). -/
inductive Implicit where
  | alloc (len : Nat) (acct : Nat) (owner : BitVec 16) (rd : RegNo)
  | rail (n : Nat)
  deriving DecidableEq, Repr

/-- What the packet window says of its item (R417). -/
structure ThrWin where
  item : Word := 0
  ref : Word := 0
  time : Word := 0
  parse : Word := 0
  mark : Word := 0
  injectData : Word := 0
  mbxWord : Word := 0
  deriving DecidableEq, Repr

/-- A hardware thread (R382, R383, R389–R391, R395, R408, R409, R417). -/
structure Thread where
  state : ThrState := .free
  prior : ThrState := .free
  regs : SMap Word := []
  pc : BitVec 32 := 0
  parent : Nat := 0
  detached : Bool := false
  joinable : Bool := false
  exitVal : Word := 0
  joining : Option (Nat × RegNo) := none
  waitMask : BitVec 11 := 0
  waitRd : RegNo := 0
  implicit : Option Implicit := none
  pend : BitVec 11 := 0
  claims : BitVec 11 := 0
  cmp : Word := 0
  armed : Bool := false
  ops : List OutOp := []
  rail : Option Nat := none
  partMsg : List Word := []
  tfrac : BitVec 16 := 0
  faultCode : BitVec 8 := 0
  faultPc : BitVec 32 := 0
  win : ThrWin := {}
  head : SMap Byte := []
  railMsg : List Word := []
  hvec : SMap Byte := []
  aborting : Bool := false
  dropping : Bool := false
  deriving DecidableEq, Repr

/-- A Rail (R394, R395): committed messages oldest first, holder, waiting writers in order, and the reading Truss. -/
structure Rail where
  msgs : List (List Word) := []
  owner : Option Nat := none
  waiters : List Nat := []
  reader : Option Nat := none
  deriving DecidableEq, Repr

/-! ### Buffers, Bays and DMA channels (chapters 08 and 15) -/

/-- A buffer record (R256); a free buffer's is the default, with NEXT its own index (R544). -/
structure BufRec where
  owner : BitVec 16 := 0
  refs : Nat := 0
  member : Bool := false
  account : Nat := 0
  next : Option Nat := none
  poisoned : Bool := false
  deriving DecidableEq, Repr

/-- Who waits for a buffer charge (R260); a pipeline with where the head came from: a port, or 16 + a TX queue. -/
inductive Waiter where
  | pipe (p src : Nat)
  | qe (q : Nat)
  | dma (p ch : Nat)
  | thread (n : Nat)
  deriving DecidableEq, Repr

/-- A grant on its way to a thread (R546): the chain's head; late once the ALLOC that asked for it has ended. -/
structure Grant where
  thread : Nat
  head : Nat
  late : Bool := false
  deriving DecidableEq, Repr

/-- A waiting buffer charge (R261, R264–R266). -/
structure BufWait where
  who : Waiter
  pool : Nat
  acct : Nat
  n : Nat
  owner : BitVec 16
  deriving DecidableEq, Repr

/-- A Bay (R434–R438): owner, the handover in progress (new owner, and the SEQ it ends with; `rcv` if RECLAIM_BAY asked),
power mode and the transition in progress. -/
structure Bay where
  owner : BitVec 16 := 0x6000
  handover : Option (BitVec 16 × Seq × Bool) := none
  pwr : Nat := 0
  transit : Option (Nat × Seq) := none
  deriving DecidableEq, Repr

/-- The descriptor a DMA channel runs (R446–R454): its 256 bits, ring index, bytes issued, the bursts outstanding (the byte at which
each began, and the requests and writes of it that have not ended), status, the chain ALLOC gave, whether it was checked or waits for
buffers, and the zero-length reads that its BARRIER still waits for, none before they are sent. -/
structure DmaRun where
  desc : BitVec 256
  index : Nat
  checked : Bool := false
  issued : Nat := 0
  bursts : List (Nat × Nat) := []
  status : Nat := 0
  head : Option Nat := none
  allocWait : Bool := false
  barrier : Option Nat := none
  deriving DecidableEq, Repr

/-- Bursts outstanding (R450, R457). -/
def DmaRun.outstanding (r : DmaRun) : Nat := r.bursts.length

/-- `k` requests or writes of the burst that began at byte `b` have ended; the burst has once all have. -/
def DmaRun.ended (r : DmaRun) (b k : Nat) : DmaRun :=
  { r with bursts := (r.bursts.map fun x => if x.1 = b then (b, x.2 - k) else x).filter fun x => x.2 != 0 }

/-- A DMA channel (R445): 0 DISABLED, 1 ACTIVE, 2 STOPPED; whether the ring is examined, a fetch of it is out, a doorbell came since
that fetch left, and how often the channel was started; and on each link written since the last BARRIER, what wrote and where (R452). -/
structure DmaCh where
  state : Nat := 0
  head : BitVec 16 := 0
  tail : BitVec 16 := 0
  run : Option DmaRun := none
  stopping : Bool := false
  examining : Bool := false
  fetchOut : Bool := false
  again : Bool := false
  gen : Nat := 0
  wrote : List (Fn × Option Nat × Nat) := []
  deriving DecidableEq, Repr

/-- An access of the Pipeline of a Pier to its scratchpad (R434): the Pier offset, what it writes, what the read's ECC check finds, and
the counter a stage-program DROP of its frame would name (R435). How a stage makes one the spec does not say (log 117). -/
structure PipeAccess where
  off : BitVec 24
  write : Option Word := none
  ecc : Ecc := .ok
  ctr : Nat := 0
  deriving DecidableEq, Repr

/-- A shared-port access that waits for the end of a Bay's handover (R437): the burst of a channel that reads there, the bytes of one that
writes there with their poison, a Span window's TLP, the management path's access, or the Pipeline's. -/
inductive SpmWait where
  | move (p ch burst n : Nat) (e : Ecc)
  | put (p ch burst off : Nat) (bs : List Byte) (bad : List Bool)
  | window (span : SpanId) (off : BitVec 36) (tlp : Bar2Tlp) (e : Ecc)
  | mgmtRead (p : Pier) (e : Ecc)
  | mgmtWrite (p : Pier) (w : Word)
  | pipe (p : Nat) (a : PipeAccess)
  deriving DecidableEq, Repr

/-! ### Time, power and monitors -/

/-- A capture of the time unit (R339): Wide time and FRAC of an edge, and its direction. -/
structure Capture where
  wide : Word
  frac : BitVec 16
  rising : Bool := true
  deriving DecidableEq, Repr

/-- A received GNSS byte (R341); the first byte of a line carries the line's time. -/
structure GnssByte where
  byte : Byte
  line : Option Word := none
  deriving DecidableEq, Repr

/-- What the device as a whole does (R511, R517, R482, R498, R499); `bootFailed` is R482 step 3, `scanned` the device after
a scan that destroyed state (R489). -/
inductive DevState where
  | off | inReset | locking | booting | bootFailed | running | standby | scanned
  deriving DecidableEq, Repr

/-- The levels of output pins that no other state shows, at reset as R509 has them: QSPI_RESET_N, QSPI_CS_N, whether the other QSPI pins
are driven, GNSS_TXD, and whether JTAG_TDO is driven. -/
structure Pins where
  qspiResetN : Bool := false
  qspiCsN : Bool := true
  qspiDriven : Bool := false
  gnssTxd : Bool := true
  tdoDriven : Bool := false
  deriving DecidableEq, Repr

/-- A rail monitor (R513): an excursion runs, good samples in a row, and a sample was taken since PORST_N release. -/
structure RailMon where
  seen : Bool := false
  excursion : Bool := false
  good : Nat := 0
  deriving DecidableEq, Repr

/-! ### Security and debug (chapter 17) -/

/-- A SEC command whose fuse write runs (R480): its OP, argument and SEQ, and the words it writes, which copy A holds already. -/
structure SecRun where
  op : Nat
  arg : Nat
  seq : Seq
  words : List (Nat × BitVec 16) := []
  deriving DecidableEq, Repr

/-- The fuse array's copies A and B (R477); the digest of the Tollhouse firmware that runs (R484); the DICE identity of this boot: whether
there is one, the DeviceID public key, CDI and the Alias private key (R483); the SEC command that runs, the nonce (R490) and the token
buffer (R491) with the words written. -/
structure Sec where
  fuseA : SMap (BitVec 16) := []
  fuseB : SMap (BitVec 16) := []
  thDigest : BitVec 384 := 0
  dice : Bool := false
  deviceId : BitVec 768 := 0
  cdi : BitVec 384 := 0
  alias_ : BitVec 384 := 0
  running : Option SecRun := none
  nonceLive : Bool := false
  token : SMap Word := []
  tokenSeen : SMap Bool := []
  deriving DecidableEq, Repr

/-! ### The register file's shadow and what leaves the device -/

/-- A written value that has not taken effect yet (R7, R8): the bits written and their values. -/
structure Pend where
  mask : Word := 0
  val : Word := 0
  deriving DecidableEq, Repr

/-- An access that waits on the register ring (R62, R128, R496): a write of BAR0, a read, or the register window's read, at an offset;
`e` is the ECC outcome of a scratchpad word that a read touches. -/
inductive RingOp where
  | write (off : Nat) (val : Word)
  | read (off : Nat) (e : Ecc)
  | vsRead (off : Nat) (e : Ecc)
  deriving DecidableEq, Repr

/-- Answer of a configuration request (R540, R86). -/
inductive CfgStatus where | success | unsupported | retry
  deriving DecidableEq, Repr

/-- Answers to TDISP requests (R102, R104). -/
inductive TdispAnswer where
  | ok | unsupportedRequest | invalidDeviceConfiguration | invalidInterfaceState | unspecified
  deriving DecidableEq, Repr

/-- What leaves the device, or is answered to whoever asked. The list of these in `State` is the model's own record. -/
inductive Out where
  | msix (fn : Fn) (vec : Nat)
  | readData (d : Word)
  | cfgDone (st : CfgStatus) (d : BitVec 32)
  | unsupported (fn : Fn)
  | errMsg (fn : Fn) (kind : Fin 3)
  | memData (fn : Fn) (data : List Byte) (poisoned : Bool)
  | hostRead (fn : Fn) (addr len : Nat) (relaxed : Bool)
  | hostWrite (fn : Fn) (addr : Nat) (data : List Byte) (poisoned relaxed : Bool)
  | atsRequest (fn : Fn) (addr : Nat)
  | atsDone (span : Nat)
  | spdm (mbx : DoeMbx) (r : DoeResp)
  | tdisp (span : Nat) (answer : TdispAnswer)
  | frame (mac : MacId) (bytes : List Byte)
  | pldm (busy : Bool)
  | jtag (bits : List Bool)
  | uart (b : Byte)
  | mctpNotReady
  deriving DecidableEq, Repr

end Sys2Proof.Machine
end

