-- ==== Sys2Proof/Machine/Paths.lean ====
section
/-!
DEFINITION. Plain-data records of the data path (chapters 06, 07, 09, 10, 12), the time unit (chapter 11) and the image slots
(chapter 02).
-/

namespace Sys2Proof.Machine

/-! ### Parsing and tables -/

/-- The partial or whole parse of a packet (R194–R197): cause (0 none, 1 DEPTH, 2 LEN), failing node, offset, level, headers
completed, FRAG, the header vector, where each extracted field came from (first bit in the frame, width, place in the vector),
and the first header of each level reached. -/
structure Parse where
  cause : Nat := 0
  node : Nat := 0
  offset : Nat := 0
  level : Nat := 0
  headers : Nat := 0
  frag : Bool := false
  hvec : SMap Byte := []
  copied : List (Nat × Nat × Nat) := []
  levels : List Nat := [0]
  deriving DecidableEq, Repr

/-- The result of a lookup that hit: action and data, and the entry's counter, template and orientation (R221, R225); an L2
entry's destination (R222). -/
structure Found where
  action : Nat := 0
  data : Word := 0
  counter : Nat := 0
  encap : Nat := 0
  orient : Bool := false
  dest : Option (Nat × BitVec 16) := none
  deriving DecidableEq, Repr

/-- A flow-cache line (R227): HASH and key; the FLOW slot it came from; each stage's FLOW, L2_RLD or LPM result; each table's
generation; HIT. -/
structure FcLine where
  hash : BitVec 32
  key : List Byte
  slot : Option (Nat × Nat) := none
  results : List (Nat × Option Found) := []
  gens : List (Nat × Nat) := []
  hit : Bool := false
  deriving DecidableEq, Repr

/-- A head parked in the miss buffer (R229): the frame; whether it waits behind an equal one; the FLOW read issued at once; and
whether an invalidation has covered its fill. -/
structure Parked where
  pkt : Pkt
  follow : Bool := false
  flow : Option (Nat × Nat × FlowEnt) := none
  stale : Bool := false
  deriving DecidableEq, Repr

/-- What ECC checks find on a pass: in the graph store, in a rule (its index), in the flow-cache line, in an L2_DIE entry and
in an ENCAP template (table and index) (R217, R251); the stages whose own read of an RLD table was poisoned; and the access its
stages make to the scratchpad (R434). -/
structure PassEcc where
  graph : Ecc := .ok
  rule : Option (BitVec 16 × Ecc) := none
  line : Ecc := .ok
  l2 : Option (Fin 15 × Nat × Ecc) := none
  encap : Option (Fin 15 × Nat × Ecc) := none
  bad : List (Fin 12) := []
  spm : Option PipeAccess := none
  deriving DecidableEq, Repr

/-- The table engine's work on its command ring (R239): examining; a read is out; the descriptor at HEAD, the parts of its buffer
that are in, its buffer, and whether the buffer's read failed; the host address of the descriptor; whether the doorbell was written
during the read or the command; and whether the ring was enabled anew during it. -/
structure TblRun where
  examining : Bool := false
  waiting : Bool := false
  desc : Option (BitVec 256) := none
  got : List (Nat × List Byte) := []
  buf : Option (List Byte) := none
  failed : Bool := false
  addr : Nat := 0
  rung : Bool := false
  old : Bool := false
  deriving DecidableEq, Repr

/-- A table event that waits to be written (R247): TYPE, table, index, time and entry bytes. -/
structure TEv where
  type : Nat
  table : Nat
  index : Nat
  time : Word
  entry : List Byte
  deriving DecidableEq, Repr

/-! ### Scheduling -/

/-- A node's buckets in units of 1/256 byte, and its deficit (R284, R287). -/
structure TmsNode where
  ctok : Int := 0
  ptok : Int := 0
  deficit : Nat := 0
  deriving DecidableEq, Repr

/-- A policer's tokens in units of 1/256 byte (R292). -/
structure Pol where
  tc : Nat := 0
  tp : Nat := 0
  deriving DecidableEq, Repr

/-! ### Ethernet -/

/-- A MAC's state beside its registers (R289–R315): priorities paused by PFC, the link paused by PAUSE, the Pier its round robin
serves and the deficits, the (Pier, class) heads whose launch time has come, the classes' credits in units of 1/25,600 byte, the
ENG_CLK cycle up to which they are computed, and the frame being sent then: its class, the cycles it still takes and the bytes, in the
same units, that it still draws from its class's credit. -/
structure MacSt where
  paused : BitVec 8 := 0
  pauseAll : Bool := false
  ptr : Nat := 0
  deficit : List Nat := [0, 0, 0, 0]
  launchOk : List (Nat × Nat) := []
  credit : List Int := [0, 0, 0, 0, 0, 0, 0, 0]
  since : Nat := 0
  send : Option (Nat × Nat × Nat) := none
  deriving DecidableEq, Repr

/-! ### Cipher -/

/-- A security association (R357–R359). -/
structure Sa where
  state : Nat := 0
  kind : Nat := 0
  tx : Bool := false
  esn : Bool := false
  k256 : Bool := false
  replay : Bool := false
  failPass : Bool := false
  window : Nat := 0
  trussMask : BitVec 12 := 0
  spi : BitVec 32 := 0
  pn : Nat := 0
  soft : Nat := 0
  softHit : Bool := false
  cntidx : Nat := 0
  fw : Bool := false
  key : BitVec 256 := 0
  salt : BitVec 96 := 0
  seen : BitVec 256 := 0
  authErr : Nat := 0
  replayErr : Nat := 0
  deriving DecidableEq, Repr

/-- What the two datapaths and the stores of a cipher unit find (R368, R371, R375). -/
inductive CipFault where | none | mismatch | keyStore | stateCopies | corrected
  deriving DecidableEq, Repr

/-- What a frame meets as a MAC starts it: its cipher unit's finding, and the lane, counted from the MAC's lowest, that carries the octet
after the SFD (R329). -/
structure TxFound where
  cip : CipFault := .none
  lane : Fin 8 := 0
  deriving DecidableEq, Repr

/-! ### Time unit -/

/-- An adjustment that waits for its tick (R327): TIM_ADJ_CMD with its argument, or a write of TIM_INCR. -/
inductive Adj where
  | step (arg : BitVec 64) (seq : Seq)
  | set (arg : BitVec 64) (seq : Seq)
  | slew (arg : BitVec 64) (ticks : Nat) (seq : Seq)
  | slewAbort (seq : Seq)
  | incr
  deriving DecidableEq, Repr

/-- PTM of a link beside TIM_PTM_STATUS (R344): a dialog runs; the latest pair, the last 8 pairs, the rate, and the failures in a
row. -/
structure Ptm where
  dialog : Bool := false
  dev : Word := 0
  host : Word := 0
  pairs : List (Word × Word) := []
  rate : BitVec 32 := 0
  fails : Nat := 0
  deriving DecidableEq, Repr

/-- A pulse output (R342): high; its one PULSE is over; the scheduled instant of its latest rise in counter units; and the counter value
of its latest edge, in steps of 62.5 ps. -/
structure OutPin where
  high : Bool := false
  done : Bool := false
  rose : Int := 0
  edge : BitVec 96 := 0
  deriving DecidableEq, Repr

/-- The time unit beside its registers: adjustments with the ticks left to their own; the counter before the latest tick; the
running slew; SERVO, HOLD_START and GROWTH (R335); PTM, SEQ and page content by link; the time, in steps of 62.5 ps plus one,
of each channel's last capture; a line starts with the next GNSS byte; what TP_NOW latched by link (bits [63:32] and FRAC); the
outputs; and Wide time at the entry into Standby with the AON_CLK cycles counted since (R349). -/
structure Tim where
  adj : List (Nat × Adj) := []
  prev : BitVec 96 := 0
  slewLeft : Int := 0
  slewTicks : Nat := 0
  servoPs : Nat := 0
  holdStart : Word := 0
  growth : Nat := 0
  ptm : SMap Ptm := []
  seqs : SMap (BitVec 32) := []
  pages : SMap (List Byte) := []
  lastEdge : SMap Nat := []
  lineStart : Bool := false
  tpLatch : SMap (BitVec 48) := []
  pps : OutPin := {}
  touts : SMap OutPin := []
  atStandby : Word := 0
  aonCount : Nat := 0
  deriving DecidableEq, Repr

/-! ### Image slots -/

/-- The three slots and the structure that a swap loads (R42, R43); what is being staged, whether a
read of it failed (R58), and whether a reload faulted (R59). -/
structure Slots where
  active : Option Image := none
  previous : Option Image := none
  staged : Option Image := none
  incoming : Option Image := none
  rollback : Bool := false
  reload : Bool := false
  reading : Option (Bool × Nat × Nat) := none
  bad : Bool := false
  dead : Bool := false
  deriving DecidableEq, Repr

end Sys2Proof.Machine
end

