-- ==== Sys2Proof/Syntax.lean ====
section
/-!
DEFINITION. The commands of the block: one constructor for each row of the opcode table with the operands of the row: engine
instructions first, rows without operands last (compiled Lean builds no object of a constructor after the 245th).
An event in the device is a command as much as a register access is: its operands say what the outside brings, an ECC outcome, or
which object the event belongs to.
-/

namespace Sys2Proof

/-- The commands. -/
inductive Instr where
  /-- ADD (R413). -/
  | add (x : Slot) (rd rs rt : RegNo)
  /-- SUB (R413). -/
  | sub (x : Slot) (rd rs rt : RegNo)
  /-- AND (R413). -/
  | and_ (x : Slot) (rd rs rt : RegNo)
  /-- OR (R413). -/
  | or_ (x : Slot) (rd rs rt : RegNo)
  /-- XOR (R413). -/
  | xor (x : Slot) (rd rs rt : RegNo)
  /-- SLL (R413). -/
  | sll (x : Slot) (rd rs rt : RegNo)
  /-- SRL (R413). -/
  | srl (x : Slot) (rd rs rt : RegNo)
  /-- SRA (R413). -/
  | sra (x : Slot) (rd rs rt : RegNo)
  /-- MUL (R413). -/
  | mul (x : Slot) (rd rs rt : RegNo)
  /-- MULHU (R413). -/
  | mulhu (x : Slot) (rd rs rt : RegNo)
  /-- SLT (R413). -/
  | slt (x : Slot) (rd rs rt : RegNo)
  /-- SLTU (R413). -/
  | sltu (x : Slot) (rd rs rt : RegNo)
  /-- MIN (R413). -/
  | min (x : Slot) (rd rs rt : RegNo)
  /-- MAX (R413). -/
  | max (x : Slot) (rd rs rt : RegNo)
  /-- POPC (R413). -/
  | popc (x : Slot) (rd rs : RegNo)
  /-- CLZ (R413). -/
  | clz (x : Slot) (rd rs : RegNo)
  /-- CTZ (R413). -/
  | ctz (x : Slot) (rd rs : RegNo)
  /-- BSWAP (R413). -/
  | bswap (x : Slot) (rd rs : RegNo)
  /-- ADDI (R414). -/
  | addi (x : Slot) (rd rs : RegNo) (imm : BitVec 16)
  /-- ANDI (R414). -/
  | andi (x : Slot) (rd rs : RegNo) (imm : BitVec 16)
  /-- ORI (R414). -/
  | ori (x : Slot) (rd rs : RegNo) (imm : BitVec 16)
  /-- XORI (R414). -/
  | xori (x : Slot) (rd rs : RegNo) (imm : BitVec 16)
  /-- SLTI (R414). -/
  | slti (x : Slot) (rd rs : RegNo) (imm : BitVec 16)
  /-- LIH (R414). -/
  | lih (x : Slot) (rd : RegNo) (k : BitVec 2) (imm : BitVec 16)
  /-- SHI_SLL (R414). -/
  | shiSll (x : Slot) (rd rs : RegNo) (c : BitVec 6)
  /-- SHI_SRL (R414). -/
  | shiSrl (x : Slot) (rd rs : RegNo) (c : BitVec 6)
  /-- SHI_SRA (R414). -/
  | shiSra (x : Slot) (rd rs : RegNo) (c : BitVec 6)
  /-- SHI_ROTATE (R414). -/
  | shiRotate (x : Slot) (rd rs : RegNo) (c : BitVec 6)
  /-- LDS (R415). -/
  | lds (x : Slot) (rd rb : RegNo) (sx : Bool) (sz : BitVec 2) (off : BitVec 13)
  /-- STS (R415). -/
  | sts (x : Slot) (rd rb : RegNo) (sx : Bool) (sz : BitVec 2) (off : BitVec 13)
  /-- LDW (R417). -/
  | ldw (x : Slot) (rd rb : RegNo) (sx : Bool) (sz : BitVec 2) (off : BitVec 13)
  /-- STW (R417). -/
  | stw (x : Slot) (rd rb : RegNo) (sx : Bool) (sz : BitVec 2) (off : BitVec 13)
  /-- LDR (R416). -/
  | ldr (x : Slot) (rd rb : RegNo) (sx : Bool) (sz : BitVec 2) (off : BitVec 13)
  /-- STR (R416). -/
  | str (x : Slot) (rd rb : RegNo) (sx : Bool) (sz : BitVec 2) (off : BitVec 13)
  /-- ATS_ADD (R432). -/
  | atsAdd (x : Slot) (rd rs rt : RegNo)
  /-- ATS_SWAP (R432). -/
  | atsSwap (x : Slot) (rd rs rt : RegNo)
  /-- ATS_CAS (R432). -/
  | atsCas (x : Slot) (rd rs rt : RegNo)
  /-- ATR_ADD (R414). -/
  | atrAdd (x : Slot) (rd rs rt : RegNo)
  /-- ATR_SWAP (R414). -/
  | atrSwap (x : Slot) (rd rs rt : RegNo)
  /-- ATR_CAS (R414). -/
  | atrCas (x : Slot) (rd rs rt : RegNo)
  /-- BEQ (R414). -/
  | beq (x : Slot) (rs rt : RegNo) (off : BitVec 16)
  /-- BNE (R414). -/
  | bne (x : Slot) (rs rt : RegNo) (off : BitVec 16)
  /-- BLT (R414). -/
  | blt (x : Slot) (rs rt : RegNo) (off : BitVec 16)
  /-- BGE (R414). -/
  | bge (x : Slot) (rs rt : RegNo) (off : BitVec 16)
  /-- BLTU (R414). -/
  | bltu (x : Slot) (rs rt : RegNo) (off : BitVec 16)
  /-- BGEU (R414). -/
  | bgeu (x : Slot) (rs rt : RegNo) (off : BitVec 16)
  /-- JAL (R414). -/
  | jal (x : Slot) (off : BitVec 26)
  /-- JALR (R414). -/
  | jalr (x : Slot) (rd rs : RegNo) (imm : BitVec 16)
  /-- FENCE (R414). -/
  | fence (x : Slot)
  /-- MFS (R409). -/
  | mfs (x : Slot) (rd : RegNo) (k : Byte)
  /-- FORK (R384). -/
  | fork (x : Slot) (rd rs : RegNo) (imm : BitVec 16)
  /-- FORKD (R384). -/
  | forkd (x : Slot) (rd rs : RegNo) (imm : BitVec 16)
  /-- JOIN (R385). -/
  | join (x : Slot) (rd rs : RegNo)
  /-- END (R383). -/
  | endThread (x : Slot) (rs : RegNo)
  /-- SIGNAL (R414). -/
  | signal (x : Slot) (rs : RegNo)
  /-- WAIT (R390). -/
  | wait (x : Slot) (rd : RegNo) (mask : BitVec 11)
  /-- TMR_ABS (R391). -/
  | tmrAbs (x : Slot) (rs : RegNo)
  /-- TMR_REL (R391). -/
  | tmrRel (x : Slot) (rs : RegNo)
  /-- THRCTL_FREE (R414). -/
  | thrctlFree (x : Slot) (rd rs : RegNo)
  /-- THRCTL_RESTART (R414). -/
  | thrctlRestart (x : Slot) (rd rs rt : RegNo)
  /-- TAKE (R420). -/
  | take (x : Slot) (rd : RegNo)
  /-- RSV (R395). -/
  | rsv (x : Slot) (rs : RegNo)
  /-- PUT (R395). -/
  | put (x : Slot) (rs : RegNo)
  /-- RSEND (R395). -/
  | rsend (x : Slot)
  /-- RRD (R395). -/
  | rrd (x : Slot) (rd rs : RegNo)
  /-- MBXR (R414). -/
  | mbxr (x : Slot) (rd : RegNo)
  /-- MBXW (R414). -/
  | mbxw (x : Slot) (rd rs rt : RegNo)
  /-- DMA (R449). -/
  | dma (x : Slot) (rd rs rt : RegNo)
  /-- TBL (R419). -/
  | tbl (x : Slot) (rd rs rt : RegNo)
  /-- CPL (R418). -/
  | cpl (x : Slot) (rs rt : RegNo)
  /-- XMIT_TXQ (R421). -/
  | xmitTxq (x : Slot) (rd rs rt : RegNo)
  /-- XMIT_RXQ (R421). -/
  | xmitRxq (x : Slot) (rd rs rt : RegNo)
  /-- XMIT_WIRE (R421). -/
  | xmitWire (x : Slot) (rd rs rt : RegNo)
  /-- XMIT_PIPE (R421). -/
  | xmitPipe (x : Slot) (rd rs rt : RegNo)
  /-- ALLOC (R265). -/
  | alloc (x : Slot) (rd rs rt : RegNo)
  /-- BUF_FREE (R420). -/
  | bufFree (x : Slot) (rd rs : RegNo)
  /-- BUF_DROP (R420). -/
  | bufDrop (x : Slot) (rd rs : RegNo)
  /-- BUF_GIVE (R420). -/
  | bufGive (x : Slot) (rd rs rt : RegNo)
  /-- BUF_SHARE (R420). -/
  | bufShare (x : Slot) (rd rs : RegNo)
  /-- AES_ENC (R369). -/
  | aesEnc (x : Slot) (rd rs rt : RegNo)
  /-- AES_DEC (R369). -/
  | aesDec (x : Slot) (rd rs rt : RegNo)
  /-- KEYLD_INSTALL (R422). -/
  | keyldInstall (x : Slot) (rd rs rt : RegNo)
  /-- KEYLD_DELETE (R422). -/
  | keyldDelete (x : Slot) (rd rs rt : RegNo)
  /-- CRC (R414). -/
  | crc (x : Slot) (rd rs rt : RegNo) (fn : BitVec 2)
  /-- TIME (R423). -/
  | time (x : Slot) (rd : RegNo)
  /-- RREG (R424). -/
  | rreg (x : Slot) (rd rs : RegNo)
  /-- WREG (R424). -/
  | wreg (x : Slot) (rs rt : RegNo)
  /-- BRK (R414). -/
  | brk (x : Slot)
  /-- REGISTER_WRITE (R7). -/
  | registerWrite (t : RegTarget) (w : Word)
  /-- MSIX_UNMASK (R77). -/
  | msixUnmask (f : Fn) (v : Fin 2048)
  /-- RLD_ACCESS (R30). -/
  | rldAccess (line : BitVec 31) (ecc : Ecc)
  /-- STAGE_FLASH (R50). -/
  | stageFlash (index : Fin 4) (q : Seq)
  /-- STAGE_HOST (R50). -/
  | stageHost (q : Seq)
  /-- STAGING_COMPLETE (R49). -/
  | stagingComplete (r : ImgRead)
  /-- COMMIT (R53). -/
  | commit (q : Seq)
  /-- ROLLBACK (R64). -/
  | rollback (q : Seq)
  /-- DISCARD (R49). -/
  | discard (q : Seq)
  /-- SWAP_COMPLETE (R56). -/
  | swapComplete (drain swap : BitVec 32)
  /-- PERST_ASSERT (R85). -/
  | perstAssert (h : Link)
  /-- PERST_RELEASE (R85). -/
  | perstRelease (h : Link)
  /-- PHY_CALIBRATED (R86). -/
  | phyCalibrated (h : Link)
  /-- LINK_UP (R85). -/
  | linkUp (h : Link) (speed : Fin 8) (width : Fin 17) (flit : Bool)
  /-- CONFIG_READY (R86). -/
  | configReady (h : Link)
  /-- HOT_RESET (R85). -/
  | hotReset (h : Link)
  /-- LINK_LOST (R85). -/
  | linkLost (h : Link)
  /-- PF_FLR (R81). -/
  | pfFlr (h : Link)
  /-- VF_FLR (R87). -/
  | vfFlr (h : Link) (n : SpanId)
  /-- VF_ENABLE_CLEAR (R81). -/
  | vfEnableClear (h : Link)
  /-- CONFIG_REQUEST (R540). -/
  | configRequest (h : Link) (bus : Byte) (k : Fin 8192) (op : CfgOp)
  /-- COMPLETION_RECEIVED (R91). -/
  | completionReceived (h : Link) (t : Fin 16384) (poisoned : Bool) (data : List Byte)
  /-- CPL_TIMEOUT (R90). -/
  | cplTimeout (h : Link) (t : Fin 16384)
  /-- TAG_QUARANTINE_EXPIRE (R90). -/
  | tagQuarantineExpire (h : Link) (t : Fin 16384)
  /-- MALFORMED_TLP (R93). -/
  | malformedTlp (f : Fn)
  /-- IDE_FAIL (R101). -/
  | ideFail (h : Link) (i : Fin 5)
  /-- VS_DATA_LO_READ (R79). -/
  | vsDataLoRead (e : Ecc)
  /-- VS_DATA_HI_WRITE (R79). -/
  | vsDataHiWrite (v : BitVec 32)
  /-- ATS_INVALIDATION (R96). -/
  | atsInvalidation (n : SpanId) (scope : BitVec 2) (page : BitVec 52)
  /-- DOE_REQUEST (R98). -/
  | doeRequest (m : DoeMbx) (r : DoeObj)
  /-- DOE_ABORT (R99). -/
  | doeAbort (m : DoeMbx)
  /-- IDE_KM_KEY_PROG (R100). -/
  | ideKmKeyProg (h : Link) (k : IdeProg)
  /-- LOCK_INTERFACE_REQUEST (R102). -/
  | lockInterfaceRequest (n : SpanId)
  /-- STOP_INTERFACE_REQUEST (R104). -/
  | stopInterfaceRequest (n : SpanId)
  /-- SPAN_ENABLE (R109). -/
  | spanEnable (q : Seq)
  /-- SPAN_QUIESCE (R109). -/
  | spanQuiesce (q : Seq)
  /-- SPAN_COMPLETE (R109). -/
  | spanComplete (q : Seq)
  /-- SPAN_RESET (R112). -/
  | spanReset (q : Seq)
  /-- SPAN_REMOVE (R109). -/
  | spanRemove (q : Seq)
  /-- SPAN_INIT (R109). -/
  | spanInit (q : Seq)
  /-- SPAN_EXPORT (R136). -/
  | spanExport (q : Seq)
  /-- SPAN_IMPORT (R137). -/
  | spanImport (q : Seq)
  /-- LOG_SWAP (R134). -/
  | logSwap (q : Seq)
  /-- SPAN_CMD_DONE (R536). -/
  | spanCmdDone (r : TransferEnd)
  /-- QUIESCE_LATE (R118). -/
  | quiesceLate (n : SpanId)
  /-- BREAK_LOCK (R123). -/
  | breakLock (q : Seq)
  /-- RELEASE_RAIL (R123). -/
  | releaseRail (q : Seq)
  /-- RECLAIM_BAY (R123). -/
  | reclaimBay (q : Seq)
  /-- SWEEP_BUFFERS (R270). -/
  | sweepBuffers (q : Seq)
  /-- TRANSFER_OWNER (R123). -/
  | transferOwner (q : Seq)
  /-- STU_INV_CMD (R128). -/
  | stuInvCmd (n : SpanId) (scope : BitVec 2) (q : Seq)
  /-- WALK_COMPLETE (R127). -/
  | walkComplete (n : SpanId) (r : WalkResult)
  /-- BAR2_TLP (R130). -/
  | bar2Tlp (n : SpanId) (off : BitVec 36) (tlp : Bar2Tlp) (e : Ecc)
  /-- DB_PI_WRITE (R149). -/
  | dbPiWrite (n : SpanId) (i : Byte) (v : BitVec 32)
  /-- DB_CI_WRITE (R170). -/
  | dbCiWrite (n : SpanId) (i : Byte) (c : BitVec 16)
  /-- EVENT_ARM (R170). -/
  | eventArm (n : SpanId) (i : Byte) (c : BitVec 16)
  /-- DB_INVAL (R165). -/
  | dbInval (n : SpanId) (i : Byte)
  /-- DB_PEND_CLEAR (R172). -/
  | dbPendClear (n : SpanId) (i : Byte) (k : Fin 4) (mask : Word)
  /-- ENTRY_FETCH_ISSUE (R150). -/
  | entryFetchIssue (q : QueueId) (n : Fin 257)
  /-- ENTRY_FETCH_RETURN (R162). -/
  | entryFetchReturn (q : QueueId) (cells : List (BitVec 128)) (poisoned : Bool)
  /-- ENTRY_BEGIN (R164). -/
  | entryBegin (q : QueueId) (acct : Option (Fin 8192))
  /-- ENTRY_COMPLETE (R159). -/
  | entryComplete (q : QueueId)
  /-- MOD_INTERVAL_EXPIRE (R169). -/
  | modIntervalExpire (q : QueueId)
  /-- QUEUE_ENABLE (R167). -/
  | queueEnable (q : Seq)
  /-- QUEUE_DISABLE (R167). -/
  | queueDisable (q : Seq)
  /-- QUEUE_RESTART (R167). -/
  | queueRestart (q : Seq)
  /-- QUEUE_ZERO (R167). -/
  | queueZero (q : Seq)
  /-- RX_FRAME_DELIVER (R538). -/
  | rxFrameDeliver (p : Pier) (k : Fin 256)
  /-- MBX_OUT_WRITE (R177). -/
  | mbxOutWrite (e : MbxAccess) (w : Word)
  /-- MBX_IN_READ (R177). -/
  | mbxInRead (e : MbxAccess)
  /-- MBX_TO_WRITE (R185). -/
  | mbxToWrite (w : Word)
  /-- FRAME_RECEIVED (R304). -/
  | frameReceived (m : MacId) (f : WireFrame) (cor unc : Byte)
  /-- MACSEC_RX_VERIFY (R366). -/
  | macsecRxVerify (p : Pier) (port : Port) (c : Machine.CipFault)
  /-- INGRESS_HEAD_ACCEPT (R198). -/
  | ingressHeadAccept (p : Pier) (port : Port) (e : Machine.PassEcc)
  /-- MISS_RESULTS_RETURN (R229). -/
  | missResultsReturn (p : Pier) (k : Fin 512) (bad : List (Fin 12)) (e : Machine.PassEcc)
  /-- DECRYPT_RETURN (R363). -/
  | decryptReturn (p : Pier) (c : Machine.CipFault)
  /-- EGRESS_PASS (R210). -/
  | egressPass (p : Pier) (q : Option QueueId) (e : Machine.PassEcc) (c : Machine.CipFault)
  /-- RULE_WRITE (R202). -/
  | ruleWrite (p : Pier) (q : Seq)
  /-- RULE_READ (R202). -/
  | ruleRead (p : Pier) (q : Seq)
  /-- RULE_INVALIDATE (R216). -/
  | ruleInvalidate (p : Pier) (q : Seq)
  /-- TBL_CMDQ_DB (R239). -/
  | tblCmdqDb (p : Pier)
  /-- TBL_READ (R237). -/
  | tblRead (p : Pier) (r : TblRead)
  /-- TBL_WRITE (R237). -/
  | tblWrite (p : Pier)
  /-- TBL_INSERT (R239). -/
  | tblInsert (p : PierRead)
  /-- TBL_DELETE (R237). -/
  | tblDelete (p : PierRead)
  /-- TBL_LOOKUP (R237). -/
  | tblLookup (p : Pier) (r : TblRead)
  /-- TBL_LOCK (R235). -/
  | tblLock (p : PierRead)
  /-- TBL_UNLOCK (R235). -/
  | tblUnlock (p : PierRead)
  /-- ROUTE_ADD (R238). -/
  | routeAdd (p : Pier)
  /-- ROUTE_DEL (R226). -/
  | routeDel (p : Pier)
  /-- CMDQ_ENABLE (R250). -/
  | cmdqEnable (p : Pier)
  /-- EVQ_ARM (R248). -/
  | evqArm (p : Pier)
  /-- TBL_EVQ_CI_WRITE (R247). -/
  | tblEvqCiWrite (p : Pier) (c : BitVec 16)
  /-- INV_ALL (R228). -/
  | invAll (p : Pier) (q : Seq)
  /-- SWEEP_VISIT (R244). -/
  | sweepVisit (p : PierRead) (t : Fin 15) (i : BitVec 32)
  /-- BUFFER_WAIT_GRANT (R260). -/
  | bufferWaitGrant (pool : Fin 256)
  /-- CACHE_REFILL (R258). -/
  | cacheRefill (pier : Pier) (pool : Fin 256) (ecc : Ecc)
  /-- READ_REC (R268). -/
  | readRec (q : Seq)
  /-- BPM_FREE (R268). -/
  | bpmFree (q : Seq)
  /-- BPM_DROP (R268). -/
  | bpmDrop (q : Seq)
  /-- BPM_GIVE (R268). -/
  | bpmGive (q : Seq)
  /-- TMS_DECISION (R286). -/
  | tmsDecision (p : Pier) (e : Option TmsErr)
  /-- MAC_ENABLE (R301). -/
  | macEnable (m : MacId)
  /-- MAC_DISABLE (R301). -/
  | macDisable (m : MacId)
  /-- MAC_LINK_UP (R301). -/
  | macLinkUp (m : MacId)
  /-- LINK_DOWN (R301). -/
  | linkDown (m : MacId)
  /-- REMOTE_FAULT (R301). -/
  | remoteFault (m : MacId)
  /-- REMOTE_FAULT_CLEAR (R301). -/
  | remoteFaultClear (m : MacId)
  /-- PORT_RESTART (R303). -/
  | portRestart (p : Port) (q : Seq)
  /-- MAC_TX_START (R309). -/
  | macTxStart (m : MacId) (c : Machine.TxFound) (e : Ecc)
  /-- PAUSE_TIMER_EXPIRE (R315). -/
  | pauseTimerExpire (m : MacId) (which : Option (Fin 8))
  /-- XOFF_REFRESH (R314). -/
  | xoffRefresh (m : MacId)
  /-- MAC_STAT_SNAP (R321). -/
  | macStatSnap (m : MacId)
  /-- STANDBY_FRAME_RX (R319). -/
  | standbyFrameRx (wire : List Byte)
  /-- STEP (R326). -/
  | stepTime (servo : Bool) (q : Seq)
  /-- SET (R326). -/
  | setTime (servo : Bool) (q : Seq)
  /-- SLEW (R326). -/
  | slew (servo : Bool) (q : Seq)
  /-- SLEW_ABORT (R326). -/
  | slewAbort (servo : Bool) (q : Seq)
  /-- TIM_SERVO_UPD (R547). -/
  | timServoUpd (servo : Bool) (offset : BitVec 32) (req : BitVec 2)
  /-- TP_NOW_READ (R348). -/
  | tpNowRead (f : Fn) (a : TpAccess)
  /-- CAPTURE_EDGE (R339). -/
  | captureEdge (n : CapEdge) (rising : Bool)
  /-- CAP_POP (R339). -/
  | capPop (n : Fin 5)
  /-- GNSS_LINE (R341). -/
  | gnssLine (b : Byte) (stop : Bool)
  /-- GNSS_TX_WRITE (R341). -/
  | gnssTxWrite (b : Byte)
  /-- PPS_OUT_EDGE (R342). -/
  | ppsOutEdge (rise : Bool)
  /-- TOUT_EDGE (R342). -/
  | toutEdge (k : Fin 4) (rise : Bool)
  /-- TOUT_CTL_WRITE (R342). -/
  | toutCtlWrite (k : Fin 4) (v : BitVec 4)
  /-- LAUNCH_ELIGIBLE (R337). -/
  | launchEligible (m : MacId) (p : Pier) (c : Fin 8)
  /-- PTM_DIALOG (R344). -/
  | ptmDialog (h : Link)
  /-- PTM_DIALOG_DONE (R344). -/
  | ptmDialogDone (h : Link) (r : Option PtmRes)
  /-- TIME_PAGE_UPDATE (R346). -/
  | timePageUpdate (h : Link)
  /-- SA_INSTALL (R360). -/
  | saInstall (q : Seq)
  /-- SA_DELETE (R360). -/
  | saDelete (q : Seq)
  /-- SA_READ (R360). -/
  | saRead (q : Seq)
  /-- SET_SOFT (R360). -/
  | setSoft (q : Seq)
  /-- ZEROIZE_ALL (R360). -/
  | zeroizeAll (q : Seq)
  /-- AES_RESULT (R369). -/
  | aesResult (n : ThreadId) (k : Fin 64) (c : Machine.CipFault)
  /-- THREAD_WAKE (R390). -/
  | threadWake (n : ThreadId)
  /-- TIMER (R389). -/
  | timer (n : ThreadId)
  /-- ALLOC_GRANT (R546). -/
  | allocGrant (n : ThreadId)
  /-- RAIL_GRANT (R395). -/
  | railGrant (p : Pier) (k : Byte)
  /-- RLD_LOAD_RETURN (R379). -/
  | rldLoadReturn (n : ThreadId) (k : Fin 64) (e : Ecc)
  /-- TBL_RESULT_RETURN (R419). -/
  | tblResultReturn (n : ThreadId) (k : Fin 64) (r : TblRead)
  /-- BUF_RESULT_RETURN (R420). -/
  | bufResultReturn (n : ThreadId) (k : Fin 64)
  /-- KEYLD_RESULT (R422). -/
  | keyldResult (n : ThreadId) (k : Fin 64)
  /-- DMA_PLACE_RESULT (R449). -/
  | dmaPlaceResult (n : ThreadId) (k : Fin 64)
  /-- TRUSS_STALL (R400). -/
  | trussStall (t : Truss)
  /-- ABORT_THREAD (R402). -/
  | abortThread (t : Truss) (l : Fin 64) (q : Seq)
  /-- ABORT_THREAD_DONE (R402). -/
  | abortThreadDone (t : Truss)
  /-- RESTART_TRUSS (R401). -/
  | restartTruss (t : Truss) (q : Seq)
  /-- BAY_HANDOVER (R436). -/
  | bayHandover (p : Pier) (new expect : BitVec 16) (q : Seq)
  /-- HANDOVER_DONE (R437). -/
  | handoverDone (p : Pier) (b : Fin 8)
  /-- BAY_PWR_REQUEST (R438). -/
  | bayPwrRequest (p : Pier) (mode : BitVec 2) (q : Seq)
  /-- BAY_PWR_DONE (R438). -/
  | bayPwrDone (p : Pier) (b : Fin 8)
  /-- SPM_MGMT_READ (R439). -/
  | spmMgmtRead (p : Pier) (e : Ecc)
  /-- SPM_MGMT_WRITE (R439). -/
  | spmMgmtWrite (p : Pier) (w : Word)
  /-- DMA_CH_ENABLE (R445). -/
  | dmaChEnable (p : Pier)
  /-- DMA_CH_DISABLE (R445). -/
  | dmaChDisable (p : Pier)
  /-- DMA_CH_DB (R449). -/
  | dmaChDb (p : Pier)
  /-- DMA_BURST_ISSUE (R450). -/
  | dmaBurstIssue (p : Pier) (e : Ecc)
  /-- DMA_DESC_RELEASE (R452). -/
  | dmaDescRelease (p : Pier) (ch : Fin 64)
  /-- FAULT_EVENT (R462). -/
  | faultEvent (es : List FaultEv)
  /-- ENTER (R468). -/
  | enter (q : Seq)
  /-- LEAVE (R471). -/
  | leave (q : Seq)
  /-- SCRUB (R472). -/
  | scrub (q : Seq) (bad : Option (BitVec 16))
  /-- SELF (R472). -/
  | selfFault (r : BitVec 16)
  /-- PROVISION (R480). -/
  | provision (q : Seq)
  /-- FUSE_KEY (R480). -/
  | fuseKey (q : Seq)
  /-- REVOKE_KEY (R480). -/
  | revokeKey (q : Seq)
  /-- DEPLOY (R480). -/
  | deploy (q : Seq)
  /-- RAISE_SVN (R480). -/
  | raiseSvn (q : Seq)
  /-- RAISE_TH_SVN (R480). -/
  | raiseThSvn (q : Seq)
  /-- TO_ANALYSIS (R481). -/
  | toAnalysis (q : Seq)
  /-- SEC_CMD_DONE (R480). -/
  | secCmdDone (bad : Option (BitVec 16))
  /-- BOOT_IMAGE_ACTIVE (R482). -/
  | bootImageActive (x : List (Fin 4 × ImgFile))
  /-- DBG_TOKEN_WRITE (R491). -/
  | dbgTokenWrite (w : Word)
  /-- OPEN (R492). -/
  | openSession (level : BitVec 2) (q : Seq)
  /-- CLOSE (R486). -/
  | closeSession (q : Seq)
  /-- HALT (R487). -/
  | halt (q : Seq)
  /-- RESUME_THREAD (R487). -/
  | resumeThread (q : Seq)
  /-- STEP_THREAD (R487). -/
  | stepThread (q : Seq) (regs store word : Ecc)
  /-- ABORT (R487). -/
  | abort (q : Seq)
  /-- DBG_REG_WRITE (R506). -/
  | dbgRegWrite (w : Word)
  /-- DBG_SPM_READ (R488). -/
  | dbgSpmRead (e : Ecc)
  /-- JTAG_SCAN (R489). -/
  | jtagScan (ir : JtagIr) (tdi : List Bool)
  /-- GATE (R495). -/
  | gate (domain : Byte) (q : Seq)
  /-- UNGATE (R494). -/
  | ungate (domain : Byte) (q : Seq)
  /-- GATING_DONE (R494). -/
  | gatingDone (domain : Byte)
  /-- DOMAIN_WAKE (R496). -/
  | domainWake (domain : Byte)
  /-- POWERUP_DONE (R497). -/
  | powerupDone (domain : Byte)
  /-- STANDBY (R498). -/
  | standby (q : Seq)
  /-- STANDBY_WAKE (R499). -/
  | standbyWake (mctp : Bool) (n : BitVec 64)
  /-- PLDM_UPDATE (R524). -/
  | pldmUpdate (component : Fin 7) (begin_ : Bool)
  /-- PORST_N_RELEASE (R517). -/
  | porstNRelease (straps : Straps)
  /-- PLL_LOCK (R517). -/
  | pllLock (late : Bool) (b : LockFind)
  /-- SUPPLY_SAMPLE (R513). -/
  | supplySample (mv : List (BitVec 16))
  /-- TEMP_SAMPLE (R525). -/
  | tempSample (ts : List (BitVec 12))
  /-- AGING_MEASURE (R529). -/
  | agingMeasure (n : Fin 22) (v : Byte)
  /-- STANDBY_LINK_CHANGE (R319). -/
  | standbyLinkChange (up : Bool)
  /-- LINK_RECOVERY (R85). -/
  | linkRecovery (h : Link) (err : Option (Fin 16))
  /-- SYNCE_CLK_FALLING_EDGE (R343). -/
  | synceClkFallingEdge (j : Fin 2)
  /-- RESTART_TRUSS_DONE (R402). -/
  | restartTrussDone (t : Truss)
  /-- REFCLK_LOSS (R22). -/
  | refclkLoss
  /-- REFCLK_RETURN (R22). -/
  | refclkReturn
  /-- ETH_REFCLK_LOSS (R23). -/
  | ethRefclkLoss
  /-- ETH_REFCLK_RETURN (R23). -/
  | ethRefclkReturn
  /-- REFILL_TICK (R287). -/
  | refillTick
  /-- CHECK_COMPLETE (R53). -/
  | checkComplete
  /-- DRAIN_COMPLETE (R55). -/
  | drainComplete
  /-- DRAIN_TIMEOUT (R49). -/
  | drainTimeout
  /-- SWAP_FAULT (R59): low bits of the TYPE of the section that failed (R461). -/
  | swapFault (section_ : BitVec 4)
  /-- MF_FLR (R81). -/
  | mfFlr
  /-- SWEEP_BUFFERS_DONE (R270). -/
  | sweepBuffersDone
  /-- WIN_COMMIT (R132). -/
  | winCommit
  /-- INVALIDATION_DONE (R128). -/
  | invalidationDone
  /-- MBX_FROM_READ (R185). -/
  | mbxFromRead
  /-- WATCHDOG (R334). -/
  | watchdog
  /-- LEAP_DONE (R336). -/
  | leapDone
  /-- COUNTER_FAULT (R353). -/
  | counterFault
  /-- TIM_NOW_READ (R351). -/
  | timNowRead
  /-- REF10M_MARK (R340). -/
  | ref10mMark
  /-- REF10M_LOSS (R340). -/
  | ref10mLoss
  /-- GNSS_RX_READ (R352). -/
  | gnssRxRead
  /-- FAULT_PULSE_END (R465). -/
  | faultPulseEnd
  /-- DBG_NONCE_READ (R490). -/
  | dbgNonceRead
  /-- NONCE_EXPIRE (R490). -/
  | nonceExpire
  /-- SESSION_EXPIRE (R486). -/
  | sessionExpire
  /-- DBG_REG_READ (R506). -/
  | dbgRegRead
  /-- PORST_N_ASSERT (R519). -/
  | porstNAssert
  /-- TJ_EQ_UPDATE (R528). -/
  | tjEqUpdate
  /-- TIME_CLK_TICK (R327). -/
  | timeClkTick
  /-- REF10M_RETURN (R340). -/
  | ref10mReturn
  /-- GNSS_TX_BYTE_SENT (R341). -/
  | gnssTxByteSent
  /-- SUPPLY_REMOVED (R511). -/
  | supplyRemoved
  deriving DecidableEq, Repr

end Sys2Proof
end

