-- ==== Sys2Proof/Decode.lean ====
section
/-!
DEFINITION. Decoding. No row of the opcode table gives a command bits, so no word spells one (log entry 2). What the device itself
decodes is the engine instruction of chapter 14: its 32-bit word (R411) to the command of its row, and back.
-/

namespace Sys2Proof

/-- The command that a word spells by the table's bits: none, for every row gives none. -/
def decodeTableWord (_nbits _w : Nat) : Option Instr := none

/-! ### Engine instructions (R411–R414) -/

/-- Formats R and I; formats B and M lie in the places of I. -/
def fmtR (op : BitVec 6) (rd rs rt : RegNo) (fn : BitVec 11) : BitVec 32 := op ++ rd ++ rs ++ rt ++ fn
def fmtI (op : BitVec 6) (rd rs : RegNo) (imm : BitVec 16) : BitVec 32 := op ++ rd ++ rs ++ imm

/-- The instruction in a word: its operands, and in its slot the bits of the fields it does not use. `sel` picks the row where one
word has several by what a register holds: XMIT by rt[1:0], AES by rt[16], KEYLD by rs[17:16]. None for an OP or FN that is not
assigned (R412, R413). -/
def decodeEng (x : Slot) (sel : BitVec 2) (w : BitVec 32) : Option Instr :=
  let rd : RegNo := w.extractLsb' 21 5
  let rs : RegNo := w.extractLsb' 16 5
  let rt : RegNo := w.extractLsb' 11 5
  let fn : BitVec 11 := w.extractLsb' 0 11
  let imm : BitVec 16 := w.extractLsb' 0 16
  let sx : Bool := w.getLsbD 15
  let sz : BitVec 2 := w.extractLsb' 13 2
  let off : BitVec 13 := w.extractLsb' 0 13
  let y (uses : BitVec 26) : Slot := { x with unused := w.setWidth 26 &&& ~~~uses }
  match (w.extractLsb' 26 6).toNat with
  | 0x0 => match fn.toNat with
    | 0 => some (.add (y 0x3ffffff) rd rs rt)
    | 1 => some (.sub (y 0x3ffffff) rd rs rt)
    | 2 => some (.and_ (y 0x3ffffff) rd rs rt)
    | 3 => some (.or_ (y 0x3ffffff) rd rs rt)
    | 4 => some (.xor (y 0x3ffffff) rd rs rt)
    | 5 => some (.sll (y 0x3ffffff) rd rs rt)
    | 6 => some (.srl (y 0x3ffffff) rd rs rt)
    | 7 => some (.sra (y 0x3ffffff) rd rs rt)
    | 8 => some (.mul (y 0x3ffffff) rd rs rt)
    | 9 => some (.mulhu (y 0x3ffffff) rd rs rt)
    | 10 => some (.slt (y 0x3ffffff) rd rs rt)
    | 11 => some (.sltu (y 0x3ffffff) rd rs rt)
    | 12 => some (.min (y 0x3ffffff) rd rs rt)
    | 13 => some (.max (y 0x3ffffff) rd rs rt)
    | 14 => some (.popc (y 0x3ff07ff) rd rs)
    | 15 => some (.clz (y 0x3ff07ff) rd rs)
    | 16 => some (.ctz (y 0x3ff07ff) rd rs)
    | 17 => some (.bswap (y 0x3ff07ff) rd rs)
    | _ => none
  | 0x1 => some (.addi (y 0x3ffffff) rd rs imm)
  | 0x2 => some (.andi (y 0x3ffffff) rd rs imm)
  | 0x3 => some (.ori (y 0x3ffffff) rd rs imm)
  | 0x4 => some (.xori (y 0x3ffffff) rd rs imm)
  | 0x5 => some (.slti (y 0x3ffffff) rd rs imm)
  | 0x6 => some (.lih (y 0x3e3ffff) rd (w.extractLsb' 16 2) imm)
  | 0x7 => match (w.extractLsb' 6 2).toNat with
    | 0 => some (.shiSll (y 0x3ff00ff) rd rs (w.extractLsb' 0 6))
    | 1 => some (.shiSrl (y 0x3ff00ff) rd rs (w.extractLsb' 0 6))
    | 2 => some (.shiSra (y 0x3ff00ff) rd rs (w.extractLsb' 0 6))
    | _ => some (.shiRotate (y 0x3ff00ff) rd rs (w.extractLsb' 0 6))
  | 0x8 => some (.lds (y 0x3ffffff) rd rs sx sz off)
  | 0x9 => some (.sts (y 0x3ffffff) rd rs sx sz off)
  | 0xa => some (.ldw (y 0x3ffffff) rd rs sx sz off)
  | 0xb => some (.stw (y 0x3ffffff) rd rs sx sz off)
  | 0xc => some (.ldr (y 0x3ffffff) rd rs sx sz off)
  | 0xd => some (.str (y 0x3ffffff) rd rs sx sz off)
  | 0xe => match fn.toNat with
    | 0 => some (.atsAdd (y 0x3ffffff) rd rs rt)
    | 1 => some (.atsSwap (y 0x3ffffff) rd rs rt)
    | 2 => some (.atsCas (y 0x3ffffff) rd rs rt)
    | _ => none
  | 0xf => match fn.toNat with
    | 0 => some (.atrAdd (y 0x3ffffff) rd rs rt)
    | 1 => some (.atrSwap (y 0x3ffffff) rd rs rt)
    | 2 => some (.atrCas (y 0x3ffffff) rd rs rt)
    | _ => none
  | 0x10 => some (.beq (y 0x3ffffff) rd rs imm)
  | 0x11 => some (.bne (y 0x3ffffff) rd rs imm)
  | 0x12 => some (.blt (y 0x3ffffff) rd rs imm)
  | 0x13 => some (.bge (y 0x3ffffff) rd rs imm)
  | 0x14 => some (.bltu (y 0x3ffffff) rd rs imm)
  | 0x15 => some (.bgeu (y 0x3ffffff) rd rs imm)
  | 0x16 => some (.jal (y 0x3ffffff) (w.extractLsb' 0 26))
  | 0x17 => some (.jalr (y 0x3ffffff) rd rs imm)
  | 0x18 => some (.fence (y 0x0))
  | 0x19 => some (.mfs (y 0x3e000ff) rd (w.extractLsb' 0 8))
  | 0x20 => some (.fork (y 0x3ffffff) rd rs imm)
  | 0x21 => some (.forkd (y 0x3ffffff) rd rs imm)
  | 0x22 => some (.join (y 0x3ff0000) rd rs)
  | 0x23 => some (.endThread (y 0x1f0000) rs)
  | 0x24 => some (.signal (y 0x1f0000) rs)
  | 0x25 => some (.wait (y 0x3e007ff) rd fn)
  | 0x26 => match fn.toNat with
    | 0 => some (.tmrAbs (y 0x1f07ff) rs)
    | 1 => some (.tmrRel (y 0x1f07ff) rs)
    | _ => none
  | 0x27 => match fn.toNat with
    | 0 => some (.thrctlFree (y 0x3ff07ff) rd rs)
    | 1 => some (.thrctlRestart (y 0x3ffffff) rd rs rt)
    | _ => none
  | 0x28 => some (.take (y 0x3e00000) rd)
  | 0x29 => some (.rsv (y 0x1f0000) rs)
  | 0x2a => some (.put (y 0x1f0000) rs)
  | 0x2b => some (.rsend (y 0x0))
  | 0x2c => some (.rrd (y 0x3ff0000) rd rs)
  | 0x2d => some (.mbxr (y 0x3e00000) rd)
  | 0x2e => some (.mbxw (y 0x3fff800) rd rs rt)
  | 0x30 => some (.dma (y 0x3fff800) rd rs rt)
  | 0x31 => some (.tbl (y 0x3fff800) rd rs rt)
  | 0x32 => some (.cpl (y 0x1ff800) rs rt)
  | 0x33 => match sel.toNat with
    | 0 => some (.xmitTxq (y 0x3fff800) rd rs rt)
    | 1 => some (.xmitRxq (y 0x3fff800) rd rs rt)
    | 2 => some (.xmitWire (y 0x3fff800) rd rs rt)
    | _ => some (.xmitPipe (y 0x3fff800) rd rs rt)
  | 0x34 => some (.alloc (y 0x3fff800) rd rs rt)
  | 0x35 => match fn.toNat with
    | 2 => some (.bufFree (y 0x3ff07ff) rd rs)
    | 3 => some (.bufDrop (y 0x3ff07ff) rd rs)
    | 4 => some (.bufGive (y 0x3ffffff) rd rs rt)
    | 5 => some (.bufShare (y 0x3ff07ff) rd rs)
    | _ => none
  | 0x36 => if sel.getLsbD 0 then some (.aesDec (y 0x3fff800) rd rs rt) else some (.aesEnc (y 0x3fff800) rd rs rt)
  | 0x37 => if sel = 2 then some (.keyldDelete (y 0x3fff800) rd rs rt) else some (.keyldInstall (y 0x3fff800) rd rs rt)
  | 0x38 => if fn.toNat < 4 then some (.crc (y 0x3ffffff) rd rs rt (fn.setWidth 2)) else none
  | 0x39 => some (.time (y 0x3e00000) rd)
  | 0x3a => some (.rreg (y 0x3ff0000) rd rs)
  | 0x3b => some (.wreg (y 0x1ff800) rs rt)
  | 0x3c => some (.brk (y 0x0))
  | _ => none

/-- The slot of an engine instruction, the bits of its word that it uses, its `sel`, and its word without unused bits; none for a
command that is no engine instruction. -/
structure EngWord where
  slot : Slot
  uses : BitVec 26
  sel : BitVec 2
  word : BitVec 32
  deriving DecidableEq, Repr

/-- The word of an engine instruction (R411, R413, R414). -/
def encodeEng : Instr → Option EngWord
  | .add x rd rs rt => some ⟨x, 0x3ffffff, 0, fmtR 0x0 rd rs rt 0⟩
  | .sub x rd rs rt => some ⟨x, 0x3ffffff, 0, fmtR 0x0 rd rs rt 1⟩
  | .and_ x rd rs rt => some ⟨x, 0x3ffffff, 0, fmtR 0x0 rd rs rt 2⟩
  | .or_ x rd rs rt => some ⟨x, 0x3ffffff, 0, fmtR 0x0 rd rs rt 3⟩
  | .xor x rd rs rt => some ⟨x, 0x3ffffff, 0, fmtR 0x0 rd rs rt 4⟩
  | .sll x rd rs rt => some ⟨x, 0x3ffffff, 0, fmtR 0x0 rd rs rt 5⟩
  | .srl x rd rs rt => some ⟨x, 0x3ffffff, 0, fmtR 0x0 rd rs rt 6⟩
  | .sra x rd rs rt => some ⟨x, 0x3ffffff, 0, fmtR 0x0 rd rs rt 7⟩
  | .mul x rd rs rt => some ⟨x, 0x3ffffff, 0, fmtR 0x0 rd rs rt 8⟩
  | .mulhu x rd rs rt => some ⟨x, 0x3ffffff, 0, fmtR 0x0 rd rs rt 9⟩
  | .slt x rd rs rt => some ⟨x, 0x3ffffff, 0, fmtR 0x0 rd rs rt 10⟩
  | .sltu x rd rs rt => some ⟨x, 0x3ffffff, 0, fmtR 0x0 rd rs rt 11⟩
  | .min x rd rs rt => some ⟨x, 0x3ffffff, 0, fmtR 0x0 rd rs rt 12⟩
  | .max x rd rs rt => some ⟨x, 0x3ffffff, 0, fmtR 0x0 rd rs rt 13⟩
  | .popc x rd rs => some ⟨x, 0x3ff07ff, 0, fmtR 0x0 rd rs 0 14⟩
  | .clz x rd rs => some ⟨x, 0x3ff07ff, 0, fmtR 0x0 rd rs 0 15⟩
  | .ctz x rd rs => some ⟨x, 0x3ff07ff, 0, fmtR 0x0 rd rs 0 16⟩
  | .bswap x rd rs => some ⟨x, 0x3ff07ff, 0, fmtR 0x0 rd rs 0 17⟩
  | .addi x rd rs imm => some ⟨x, 0x3ffffff, 0, fmtI 0x1 rd rs imm⟩
  | .andi x rd rs imm => some ⟨x, 0x3ffffff, 0, fmtI 0x2 rd rs imm⟩
  | .ori x rd rs imm => some ⟨x, 0x3ffffff, 0, fmtI 0x3 rd rs imm⟩
  | .xori x rd rs imm => some ⟨x, 0x3ffffff, 0, fmtI 0x4 rd rs imm⟩
  | .slti x rd rs imm => some ⟨x, 0x3ffffff, 0, fmtI 0x5 rd rs imm⟩
  | .lih x rd k imm => some ⟨x, 0x3e3ffff, 0, fmtI 0x6 rd (k.setWidth 5) imm⟩
  | .shiSll x rd rs c => some ⟨x, 0x3ff00ff, 0, fmtI 0x7 rd rs ((0 : BitVec 8) ++ (0 : BitVec 2) ++ c)⟩
  | .shiSrl x rd rs c => some ⟨x, 0x3ff00ff, 0, fmtI 0x7 rd rs ((0 : BitVec 8) ++ (1 : BitVec 2) ++ c)⟩
  | .shiSra x rd rs c => some ⟨x, 0x3ff00ff, 0, fmtI 0x7 rd rs ((0 : BitVec 8) ++ (2 : BitVec 2) ++ c)⟩
  | .shiRotate x rd rs c => some ⟨x, 0x3ff00ff, 0, fmtI 0x7 rd rs ((0 : BitVec 8) ++ (3 : BitVec 2) ++ c)⟩
  | .lds x rd rb sx sz off => some ⟨x, 0x3ffffff, 0, fmtI 0x8 rd rb (BitVec.ofBool sx ++ sz ++ off)⟩
  | .sts x rd rb sx sz off => some ⟨x, 0x3ffffff, 0, fmtI 0x9 rd rb (BitVec.ofBool sx ++ sz ++ off)⟩
  | .ldw x rd rb sx sz off => some ⟨x, 0x3ffffff, 0, fmtI 0xa rd rb (BitVec.ofBool sx ++ sz ++ off)⟩
  | .stw x rd rb sx sz off => some ⟨x, 0x3ffffff, 0, fmtI 0xb rd rb (BitVec.ofBool sx ++ sz ++ off)⟩
  | .ldr x rd rb sx sz off => some ⟨x, 0x3ffffff, 0, fmtI 0xc rd rb (BitVec.ofBool sx ++ sz ++ off)⟩
  | .str x rd rb sx sz off => some ⟨x, 0x3ffffff, 0, fmtI 0xd rd rb (BitVec.ofBool sx ++ sz ++ off)⟩
  | .atsAdd x rd rs rt => some ⟨x, 0x3ffffff, 0, fmtR 0xe rd rs rt 0⟩
  | .atsSwap x rd rs rt => some ⟨x, 0x3ffffff, 0, fmtR 0xe rd rs rt 1⟩
  | .atsCas x rd rs rt => some ⟨x, 0x3ffffff, 0, fmtR 0xe rd rs rt 2⟩
  | .atrAdd x rd rs rt => some ⟨x, 0x3ffffff, 0, fmtR 0xf rd rs rt 0⟩
  | .atrSwap x rd rs rt => some ⟨x, 0x3ffffff, 0, fmtR 0xf rd rs rt 1⟩
  | .atrCas x rd rs rt => some ⟨x, 0x3ffffff, 0, fmtR 0xf rd rs rt 2⟩
  | .beq x rs rt off => some ⟨x, 0x3ffffff, 0, fmtI 0x10 rs rt off⟩
  | .bne x rs rt off => some ⟨x, 0x3ffffff, 0, fmtI 0x11 rs rt off⟩
  | .blt x rs rt off => some ⟨x, 0x3ffffff, 0, fmtI 0x12 rs rt off⟩
  | .bge x rs rt off => some ⟨x, 0x3ffffff, 0, fmtI 0x13 rs rt off⟩
  | .bltu x rs rt off => some ⟨x, 0x3ffffff, 0, fmtI 0x14 rs rt off⟩
  | .bgeu x rs rt off => some ⟨x, 0x3ffffff, 0, fmtI 0x15 rs rt off⟩
  | .jal x off => some ⟨x, 0x3ffffff, 0, (0x16 : BitVec 6) ++ off⟩
  | .jalr x rd rs imm => some ⟨x, 0x3ffffff, 0, fmtI 0x17 rd rs imm⟩
  | .fence x => some ⟨x, 0x0, 0, fmtR 0x18 0 0 0 0⟩
  | .mfs x rd k => some ⟨x, 0x3e000ff, 0, fmtI 0x19 rd 0 (k.setWidth 16)⟩
  | .fork x rd rs imm => some ⟨x, 0x3ffffff, 0, fmtI 0x20 rd rs imm⟩
  | .forkd x rd rs imm => some ⟨x, 0x3ffffff, 0, fmtI 0x21 rd rs imm⟩
  | .join x rd rs => some ⟨x, 0x3ff0000, 0, fmtR 0x22 rd rs 0 0⟩
  | .endThread x rs => some ⟨x, 0x1f0000, 0, fmtR 0x23 0 rs 0 0⟩
  | .signal x rs => some ⟨x, 0x1f0000, 0, fmtR 0x24 0 rs 0 0⟩
  | .wait x rd mask => some ⟨x, 0x3e007ff, 0, fmtR 0x25 rd 0 0 mask⟩
  | .tmrAbs x rs => some ⟨x, 0x1f07ff, 0, fmtR 0x26 0 rs 0 0⟩
  | .tmrRel x rs => some ⟨x, 0x1f07ff, 0, fmtR 0x26 0 rs 0 1⟩
  | .thrctlFree x rd rs => some ⟨x, 0x3ff07ff, 0, fmtR 0x27 rd rs 0 0⟩
  | .thrctlRestart x rd rs rt => some ⟨x, 0x3ffffff, 0, fmtR 0x27 rd rs rt 1⟩
  | .take x rd => some ⟨x, 0x3e00000, 0, fmtR 0x28 rd 0 0 0⟩
  | .rsv x rs => some ⟨x, 0x1f0000, 0, fmtR 0x29 0 rs 0 0⟩
  | .put x rs => some ⟨x, 0x1f0000, 0, fmtR 0x2a 0 rs 0 0⟩
  | .rsend x => some ⟨x, 0x0, 0, fmtR 0x2b 0 0 0 0⟩
  | .rrd x rd rs => some ⟨x, 0x3ff0000, 0, fmtR 0x2c rd rs 0 0⟩
  | .mbxr x rd => some ⟨x, 0x3e00000, 0, fmtR 0x2d rd 0 0 0⟩
  | .mbxw x rd rs rt => some ⟨x, 0x3fff800, 0, fmtR 0x2e rd rs rt 0⟩
  | .dma x rd rs rt => some ⟨x, 0x3fff800, 0, fmtR 0x30 rd rs rt 0⟩
  | .tbl x rd rs rt => some ⟨x, 0x3fff800, 0, fmtR 0x31 rd rs rt 0⟩
  | .cpl x rs rt => some ⟨x, 0x1ff800, 0, fmtR 0x32 0 rs rt 0⟩
  | .xmitTxq x rd rs rt => some ⟨x, 0x3fff800, 0, fmtR 0x33 rd rs rt 0⟩
  | .xmitRxq x rd rs rt => some ⟨x, 0x3fff800, 1, fmtR 0x33 rd rs rt 0⟩
  | .xmitWire x rd rs rt => some ⟨x, 0x3fff800, 2, fmtR 0x33 rd rs rt 0⟩
  | .xmitPipe x rd rs rt => some ⟨x, 0x3fff800, 3, fmtR 0x33 rd rs rt 0⟩
  | .alloc x rd rs rt => some ⟨x, 0x3fff800, 0, fmtR 0x34 rd rs rt 0⟩
  | .bufFree x rd rs => some ⟨x, 0x3ff07ff, 0, fmtR 0x35 rd rs 0 2⟩
  | .bufDrop x rd rs => some ⟨x, 0x3ff07ff, 0, fmtR 0x35 rd rs 0 3⟩
  | .bufGive x rd rs rt => some ⟨x, 0x3ffffff, 0, fmtR 0x35 rd rs rt 4⟩
  | .bufShare x rd rs => some ⟨x, 0x3ff07ff, 0, fmtR 0x35 rd rs 0 5⟩
  | .aesEnc x rd rs rt => some ⟨x, 0x3fff800, 0, fmtR 0x36 rd rs rt 0⟩
  | .aesDec x rd rs rt => some ⟨x, 0x3fff800, 1, fmtR 0x36 rd rs rt 0⟩
  | .keyldInstall x rd rs rt => some ⟨x, 0x3fff800, 1, fmtR 0x37 rd rs rt 0⟩
  | .keyldDelete x rd rs rt => some ⟨x, 0x3fff800, 2, fmtR 0x37 rd rs rt 0⟩
  | .crc x rd rs rt fn => some ⟨x, 0x3ffffff, 0, fmtR 0x38 rd rs rt (fn.setWidth 11)⟩
  | .time x rd => some ⟨x, 0x3e00000, 0, fmtR 0x39 rd 0 0 0⟩
  | .rreg x rd rs => some ⟨x, 0x3ff0000, 0, fmtR 0x3a rd rs 0 0⟩
  | .wreg x rs rt => some ⟨x, 0x1ff800, 0, fmtR 0x3b 0 rs rt 0⟩
  | .brk x => some ⟨x, 0x0, 0, fmtR 0x3c 0 0 0 0⟩
  | _ => none

/-- The whole word: with the bits of the unused fields. -/
def EngWord.bits (e : EngWord) : BitVec 32 := e.word ||| e.slot.unused.setWidth 32

end Sys2Proof
end

