-- ==== Sys2Proof/Config.lean ====
section
/-!
DEFINITION. What an implementation fixes, and the free values: constants without a body, of which no proof can see a
value. A statement about one of them holds whatever it is.
-/

namespace Sys2Proof.Config

/-- A value the spec leaves open, drawn fresh for each number of the state's counter `free` (log entry 3). -/
opaque freeValue : Nat → Word

/-- The address bits above a unit's place in its 8 KiB, hashed: the part of R28's fixed hash that the spec does not give. -/
opaque rldHash : Nat → Fin 128

/-- The pseudo-channel that holds a 64-byte RLD unit (R28): each aligned run of 128 units takes the 128 channels once, so every region
is spread evenly (log entry 86). -/
def rldChannel (u : Nat) : Fin 128 := Fin.ofNat 128 u + rldHash (u / 128)

/-- The stack of a unit: stack n holds the pseudo-channels 16 n to 16 n + 15. -/
def rldStack (u : Nat) : Fin 8 := ⟨(rldChannel u).val / 16, by have := (rldChannel u).isLt; omega⟩

/-- Whether the signature of a key slot's key over a debug token's words verifies (R492): a device's cryptography (log entry 45). -/
opaque tokenVerifies : Nat → List Word → Bool

/-- Whether a signature over an image's signed bytes verifies under a slot's key (R41). -/
opaque imageVerifies : Nat → List Byte → List Byte → Bool

/-- SHA-384 (R479, R484), a function of bytes that the spec names and does not write out. -/
opaque sha384 : List Byte → BitVec 384

/-- The SHA-384 of Tollhouse ROM (R484), and the hashes of the vendor key slots, which the ROM holds (R479). -/
opaque romDigest : BitVec 384
opaque romKeyHash : Nat → BitVec 384

/-- The derivations of R483 by their inputs: HKDF-SHA-384 of a secret with a label, HMAC-SHA-384 of a secret over a digest and an SVN, and
the public key of an ECDSA P-384 private key. -/
opaque hkdf384 : BitVec 384 → String → BitVec 384
opaque hmac384 : BitVec 384 → BitVec 384 → BitVec 16 → BitVec 384
opaque p384Public : BitVec 384 → BitVec 768

/-- The ID of PCIe's Physical Layer 128.0 GT/s capability, which R76 names without a number (log entry 98). -/
opaque phy128CapId : BitVec 16

end Sys2Proof.Config
end

