-- ==== Sys2Proof/Machine/State.lean ====
section
/-!
DEFINITION. The state of the device, its faults and refusals, and its state right after reset. Plain data: every array is
a sparse map in the canonical form of Map.lean, and every default below is the value at reset.
-/

namespace Sys2Proof.Machine

/-- Faults: the step stops because the state breaks the model's own form. No command of the spec ends in one; kept closed
and empty of cases the spec gives an effect to. -/
inductive Fault where
  /-- Raised by nobody: the spec stops this device on no command. Safe: no meaning answers it. -/
  | unreachable
  deriving DecidableEq, Repr

/-- Refusals. -/
inductive Refusal where
  /-- Raised by `exec` for a command that has no meaning yet. Safe: the step stops where the device goes on. -/
  | notModelled (mnemonic : String)
  deriving DecidableEq, Repr

structure State where
  /-- Register words (R17 and the other register tables), keyed by register and instance. -/
  regs : SMap Word := []
  /-- Written Epoch and Quiesced values that have not taken effect (R7, R8, R11). -/
  shadow : SMap Pend := []
  /-- The 96-bit time counter in units of 2^-32 ns (R324). -/
  time : BitVec 96 := 0
  /-- The ENG_CLK cycle counter that TRS_CYCLE reads (R377). -/
  cycle : Word := 0
  /-- What the model's device is doing as a whole: power, reset and boot (R511, R517, R518). -/
  dev : DevState := .inReset
  /-- PCIe functions' configuration state (R70, R76). -/
  fns : SMap FnCfg := []
  /-- MSI-X tables and PBAs (R73, R77). -/
  msix : SMap Msix := []
  /-- MSI-X messages waiting for Bus Master Enable, oldest first (R88). -/
  msixWait : List (Fn × Nat) := []
  /-- Tags of every link (R69). -/
  tags : SMap Tag := []
  links : SMap LinkSt := []
  /-- IDE streams, the keys IDE_KM gave them, and their address ranges (R100; key 24 (stream + 4 link) + 3 range + word). -/
  ide : SMap IdeStream := []
  ideKeys : SMap (BitVec 256) := []
  ideRanges : SMap (BitVec 32) := []
  does : SMap Doe := []
  /-- Host-facing structure in effect per link, and the one a fundamental reset will apply (R61). -/
  faces : SMap HostFace := []
  facesNext : SMap HostFace := []
  spans : SMap Span := []
  /-- The translation cache (R128), newest first. -/
  tlb : List Xlate := []
  /-- Requests that wait for a translation (R126), and requests that wait for Bus Master Enable, a tag or a TDI (R69, R88). -/
  walks : List Job := []
  stalled : List Job := []
  invals : List Inval := []
  /-- Lines of dirty bitmaps that are being rewritten (R133). -/
  logs : List LogLine := []
  /-- ATS invalidations waiting for the tags they name (R96). -/
  atsWait : List (Nat × List Nat) := []
  spanCmd : Option SpanCmd := none
  queues : SMap Queue := []
  /-- Entries whose completion is due and waits, by queue and cell, in their order (R88, R471). -/
  cplDue : List (Nat × BitVec 16) := []
  /-- The QE receive input of each Pier, oldest first (R538). -/
  rxIn : SMap (List Pkt) := []
  mbx : SMap Mbx := []
  threads : SMap Thread := []
  rails : SMap Rail := []
  /-- Engine queue of each Truss, oldest first (R387), and the entries each Truss holds (R420). -/
  eqs : SMap (List EqItem) := []
  held : List HeldEntry := []
  /-- Instruction store of each Truss (R410): words keyed by Truss and word index, and loaded length in bytes. -/
  code : SMap (BitVec 32) := []
  codeLen : SMap Nat := []
  /-- TRUSS_STALL was raised in the present stall of the Truss (R400). -/
  stallDone : SMap Bool := []
  /-- RLD bytes and poisoned 64-byte lines (R28–R30). -/
  rld : SMap Byte := []
  rldPoison : SMap Bool := []
  /-- The RLD layout of the Active image: DBASE, DSIZE and the hold area's base, in bytes (R29, R51). -/
  dbase : Nat := 0
  dsize : Nat := 0
  holdBase : Nat := 0
  /-- Capture FIFOs (R339) by input, and the GNSS UART's receive and transmit FIFOs (R341), oldest first. -/
  capFifo : SMap (List Capture) := []
  gnssRx : List GnssByte := []
  gnssTx : List Byte := []
  /-- Scratchpad words (R427) keyed by Pier offset / 8, 2,097,152 for each Pier, and poisoned words (R443). -/
  spm : SMap Word := []
  spmPoison : SMap Bool := []
  bays : SMap Bay := []
  /-- Shared-port accesses that wait for the end of a Bay's handover, oldest first (R437). -/
  spmWait : List SpmWait := []
  dmaCh : SMap DmaCh := []
  /-- Offsets of the FCU registers whose stored parity is bad (R472). -/
  fcuBad : List Nat := []
  /-- The channel that each priority of each Pier's engine served last (R450), plus one; key 8 p + priority. -/
  dmaLast : SMap Nat := []
  /-- Records of allocated buffers (R256), each Pier's caches (R258; key 256 p + pool), buffers lost to bitmap errors. -/
  recs : SMap BufRec := []
  bufCache : SMap (List Nat) := []
  lostBufs : List Nat := []
  bpmWait : List BufWait := []
  /-- Grants on their way to threads (R546), oldest first. -/
  grants : List Grant := []
  /-- SEQ of a running BPM_BUF_CMD, STU_RCV_CMD, and the owner a running sweep names. -/
  sweep : Option (BitVec 16 × Seq) := none
  /-- Table-entry locks (R235): owner by key (Pier, table, entry). -/
  locks : SMap (BitVec 16) := []
  /-- SEQ of the CFG command in progress, and of a pending ENTER (R46, R468). -/
  cfgSeq : Seq := 0
  enterSeq : Seq := 0
  sec : Sec := {}
  /-- SEQ of each gating command in progress, by power domain (R494). -/
  pwrSeq : SMap Seq := []
  /-- Image slots (R42). -/
  slots : Slots := {}
  /-- Distributor FIFOs (R34; key 4 port + Pier) and hold queues (R54; by port), oldest first. -/
  fifo : SMap (List Pkt) := []
  holdQ : SMap (List Pkt) := []
  /-- Frames back at head acceptance of each Pier (R363, R421), and frames in its ESP lane. -/
  reentry : SMap (List Pkt) := []
  espLane : SMap (List Pkt) := []
  /-- Forwarded frames, and firmware's, at each Pier's egress pipeline. -/
  egress : SMap (List Pkt) := []
  /-- Tables (chapter 07; keys: slot + 2^32 (table + 16 Pier)), by kind; routes and generations by table + 16 Pier. -/
  flows : SMap FlowEnt := []
  l2 : SMap L2Ent := []
  encaps : SMap EncapT := []
  routes : SMap (List Route) := []
  gens : SMap Nat := []
  /-- On-die entries that an uncorrected error made absent (R251). -/
  l2Bad : SMap Bool := []
  encapBad : SMap Bool := []
  /-- RLD counters (R234). -/
  counters : SMap Word := []
  /-- Flow-cache sets (R227; key set + 16384 Pier), most recently used first; miss buffers; identification counters. -/
  fcache : SMap (List FcLine) := []
  missBuf : SMap (List Parked) := []
  ipId : SMap (BitVec 16) := []
  /-- Learning tokens × 256 that a Pier's bucket lacks (R242), and events not written since space last existed (R248). -/
  learnUsed : SMap Nat := []
  evOver : SMap Nat := []
  /-- Table command rings in progress (R239) and events waiting, oldest first, by Pier. -/
  tblRun : SMap TblRun := []
  tblEv : SMap (List TEv) := []
  /-- Ternary rules (R201; key rule + 65536 Pier) and rules with an uncorrected error (R217). -/
  rules : SMap Rule := []
  ruleBad : SMap Bool := []
  /-- TMS queues (R278; key queue + 16384 Pier), node state (key index + 16384 (level + 4 Pier)),
  tier pointers (key 2 node + tier), the port arbiters, and what policers' buckets lack (key Span + 4096 Pier). -/
  tmsQ : SMap (List Pkt) := []
  nodes : SMap TmsNode := []
  ptrs : SMap Nat := []
  arbiter : SMap Nat := []
  pols : SMap Pol := []
  /-- MACs, their live counters (key counter + 32 MAC) and input FIFOs (R309; key class + 8 (Pier + 4 MAC)). -/
  macs : SMap MacSt := []
  macCnt : SMap Word := []
  macIn : SMap (List Pkt) := []
  /-- SEQ of a port's RESTART that runs (R303). -/
  portSeq : SMap Seq := []
  /-- Requests for XOFF that a watermark raised (R313; key 8 port + class; 16 for the hold area), and the Standby link is UP (R318). -/
  fcReq : SMap Bool := []
  standbyUp : Bool := false
  /-- Security associations (R357). -/
  sas : SMap Sa := []
  tim : Tim := {}
  /-- Rail monitors (R513) and aging monitors' warnings given (R526). -/
  supply : SMap RailMon := []
  aged : SMap Bool := []
  /-- Samples behind TEQ (R528): the sum of their acceleration factors, and their number. -/
  teqSum : Nat := 0
  teqCount : Nat := 0
  /-- No sample has been taken since PWR_TJ_PEAK was last read (R531). -/
  peakClear : Bool := true
  /-- REFCLK and ETH_REFCLK are absent (R22, R23); TIME_CLK ticks to the next AON_CLK edge (R21). -/
  refLost : Bool := false
  ethLost : Bool := false
  aonPhase : Nat := 31
  /-- TOP_UPTIME at which the debug session ends (R486); the thread and SEQ of a STEP that has not issued yet (R487, R534); flash components that PLDM is writing (R524); WAKE_N is driven low (R499). -/
  dbgEnd : Nat := 0
  heldStep : Option (Nat × Seq) := none
  flashBusy : List Nat := []
  wakeLow : Bool := false
  /-- Output pins (R509). -/
  pins : Pins := {}
  /-- The board record in use (R522). -/
  board : BoardRec := {}
  /-- The register window (R79), and accesses that wait on the register ring (R62, R496), oldest first. -/
  vsAddr : BitVec 32 := 0
  vsLo : BitVec 32 := 0
  vsHi : BitVec 32 := 0
  ring : List RingOp := []
  out : List Out := []
  /-- The model's own counter of free values drawn so far. -/
  free : Nat := 0
  /-- The commands that are waiting, first in, first out. -/
  pending : List Instr := []
  deriving DecidableEq, Repr

/-- The device right after reset. -/
def State.reset : State := {}

end Sys2Proof.Machine
end

