-- ==== Sys2Proof/Machine/Ops.lean ====
section
/-!
DEFINITION. The shared operations over the register file: reading and writing registers and fields, values that wait for
their Apply class (R7, R8), EVT registers and their MF vectors (R533), MSI-X messages (R77), and fault events (R459–R465).
-/

namespace Sys2Proof.Machine

/-- What a command answers. -/
abbrev Out3 := Host.Outcome State Fault Refusal

/-- The key of instance `i` of a register. -/
def regKey (r : Reg) (i : Nat) : Nat := r.ctorIdx + 512 * i

/-- The register's value at reset (R4, the tables' Reset column). -/
def Reg.resetWord (r : Reg) : Word := BitVec.ofNat 64 r.resetNat

/-- The word of instance `i` of a register. -/
def State.reg (s : State) (r : Reg) (i : Nat) : Word := SMap.get r.resetWord s.regs (regKey r i)

/-- Writes the word of instance `i` of a register. -/
def State.setReg (s : State) (r : Reg) (i : Nat) (w : Word) : State :=
  { s with regs := SMap.put r.resetWord s.regs (regKey r i) w }

/-- A field of instance `i` of its register. -/
def State.fld (s : State) (f : Fld) (i : Nat) : Nat := getBits (s.reg f.reg i) f.lo f.width

/-- A one-bit field as a Bool. -/
def State.flag (s : State) (f : Fld) (i : Nat) : Bool := s.fld f i != 0

/-- Writes a field of instance `i` of its register, keeping the other bits. -/
def State.setFld (s : State) (f : Fld) (i v : Nat) : State := s.setReg f.reg i (setBits (s.reg f.reg i) f.lo f.width v)

/-- Adds to a counter field that saturates; HEP_POISON_CNT, HEP_DROP_CNT and HEP_MGMT_PATH too (log entry 102). -/
def State.bump (s : State) (f : Fld) (i : Nat) (k : Nat := 1) : State := s.setFld f i (satAdd f.width (s.fld f i) k)

/-- Records what leaves the device. -/
def State.emit (s : State) (o : Out) : State := { s with out := o :: s.out }

/-- A fresh free value (log entry 3). -/
def State.fresh (s : State) : Word × State := (Config.freeValue s.free, { s with free := s.free + 1 })

/-- The addressed memories, RLD bytes and scratchpad words with their poison marks, are in their canonical form: keys rise and no
entry equals what an unlisted address reads as. -/
def Memory.wf (s : State) : Bool :=
  SMap.wf (fun _ => 0) s.rld && SMap.wf (fun _ => false) s.rldPoison && SMap.wf (fun _ => 0) s.spm && SMap.wf (fun _ => false) s.spmPoison

/-! ### Values waiting for their Apply class (R7, R8) -/

/-- The bits written and waiting at instance `i` of a register. -/
def State.pend (s : State) (r : Reg) (i : Nat) : Pend := SMap.get {} s.shadow (regKey r i)

/-- The bits of a register's fields that satisfy `p`. -/
def Reg.maskOf (r : Reg) (p : FieldRow → Bool) : Word :=
  (r.fields.filter p).foldl (fun m f => m ||| fieldMask f.lo f.width) 0

/-- The bits of a register whose Apply class waits for boundary `b`. -/
def Reg.epochMask (r : Reg) (b : Boundary) : Word := r.maskOf fun f => f.apply == .epoch b

/-- The Quiesced-class bits of a register. -/
def Reg.quiescedMask (r : Reg) : Word := r.maskOf fun f => f.apply == .quiesced

/-- Holds the bits `mask` of `val` for instance `i` of a register; a later value replaces an earlier one (R8). -/
def State.hold (s : State) (r : Reg) (i : Nat) (mask val : Word) : State :=
  let p := s.pend r i
  { s with shadow := SMap.put {} s.shadow (regKey r i) { mask := p.mask ||| mask, val := merge mask p.val val &&& (p.mask ||| mask) } }

/-- Lets the waiting bits among `mask` take effect. -/
def State.applyMask (s : State) (r : Reg) (i : Nat) (mask : Word) : State :=
  let p := s.pend r i
  let now := p.mask &&& mask
  let rest := p.mask &&& ~~~ mask
  let s := s.setReg r i (merge now (s.reg r i) p.val)
  { s with shadow := SMap.put {} s.shadow (regKey r i) { mask := rest, val := p.val &&& rest } }

/-- Boundary `b` occurs for instance `i` of a register: its Epoch values take effect (R7). -/
def State.epoch (s : State) (b : Boundary) (r : Reg) (i : Nat) : State := s.applyMask r i (r.epochMask b)

/-- Boundary `b` occurs for every waiting register whose instance satisfies `p`. -/
def State.epochAll (s : State) (b : Boundary) (p : Reg → Nat → Bool := fun _ _ => true) : State :=
  s.shadow.foldl (fun t e =>
    let r := Reg.ofNat (e.1 % 512)
    if p r (e.1 / 512) then t.epoch b r (e.1 / 512) else t) s

/-- Discards the bits `mask` waiting at instance `i` of a register (R10, R62). -/
def State.dropPend (s : State) (r : Reg) (i : Nat) (mask : Word) : State :=
  let p := s.pend r i
  { s with shadow := SMap.put {} s.shadow (regKey r i) { mask := p.mask &&& ~~~ mask, val := p.val &&& ~~~ mask &&& p.mask } }

/-! ### PCIe functions and MSI-X (R70, R77, R88) -/

/-- The key of a function. -/
def fnKey : Fn → Nat
  | .mf => 0
  | .pf h => 1 + h.val
  | .vf h n => 16 + 4096 * h.val + n.val

def State.fn (s : State) (f : Fn) : FnCfg := SMap.get {} s.fns (fnKey f)

def State.setFn (s : State) (f : Fn) (c : FnCfg) : State := { s with fns := SMap.put {} s.fns (fnKey f) c }

/-- The key of a function's vector. -/
def msixKey (f : Fn) (v : Nat) : Nat := v % 2048 + 2048 * fnKey f

def State.vec (s : State) (f : Fn) (v : Nat) : Msix := SMap.get {} s.msix (msixKey f v)

def State.setVec (s : State) (f : Fn) (v : Nat) (m : Msix) : State := { s with msix := SMap.put {} s.msix (msixKey f v) m }

/-- The device is in the safe state (R467). -/
def State.isSafe (s : State) : Bool := s.fld F.FCU_SAFE_STATUS_STATE 0 == 2

/-- The link that carries the Management Function (R71). -/
def State.mgmtLink (s : State) : Nat := s.fld F.HEP_MGMT_LINK_LINK 0

/-- HEP_LINK_STATE of a link is UP (R85). -/
def State.linkUp (s : State) (h : Nat) : Bool := s.fld (F.HEP_LINK_STATE_STATE h) 0 == 3

/-- The link of a function. -/
def State.fnLink (s : State) : Fn → Nat
  | .mf => s.mgmtLink
  | .pf h => h.val
  | .vf h _ => h.val

def State.span (s : State) (n : Nat) : Span := SMap.get {} s.spans n

/-- The host-facing structure in effect for a link (R61). -/
def State.face (s : State) (h : Nat) : HostFace := SMap.get {} s.faces h

/-- The function of a Span whose TDI is in ERROR: it serves no memory request and issues none (R104). -/
def State.tdiRefuses (s : State) : Fn → Bool
  | .vf h n => (s.span ((s.face h.val).base + n.val)).tdi == .error
  | _ => false

/-! ### IDE streams (R100, R101) -/

/-- The key of an IDE stream: stream 0 is the link stream, 1 to 4 are selective (R100). -/
def State.ideKey (h i : Nat) : Nat := 8 * h + i
def State.stream (s : State) (h i : Nat) : IdeStream := SMap.get .none s.ide (State.ideKey h i)
def State.setStream (s : State) (h i : Nat) (x : IdeStream) : State := { s with ide := SMap.put .none s.ide (State.ideKey h i) x }

/-- The stream of a function's TLPs: the one to which a VF's TDI is bound, and otherwise the link stream (R102). -/
def State.fnStream (s : State) : Fn → Nat
  | .vf h n => (s.span ((s.face h.val).base + n.val)).stream
  | _ => 0

/-- TLPs of the function's stream are dropped: it is Insecure (R101). -/
def State.ideDrops (s : State) (f : Fn) : Bool := s.stream (s.fnLink f) (s.fnStream f) == .insecure

/-- Sends a message that is due: a function without MSI-X enabled sends none, a vector masked by itself or by the Function Mask sets
its PBA bit (R77), one toward a link that is not Up is dropped and counted (R83), and one waits in place while its function's Bus
Master Enable is 0 or it is in D3hot (R78, R88), while its TDI is in ERROR (R104), and in the safe state (R469); on an Insecure
stream it is dropped (R101). -/
def State.msixSend (s : State) (f : Fn) (v : Nat) : State :=
  let c := s.fn f
  if !c.msixEnable then s
  else if c.msixMask || (s.vec f v).masked then s.setVec f v { s.vec f v with pending := true }
  else if !s.linkUp (s.fnLink f) then s.bump F.HEP_DROP_CNT_COUNT 0
  else if !c.bme || c.d3hot || s.tdiRefuses f || s.isSafe then { s with msixWait := s.msixWait ++ [(f, v)] }
  else if s.ideDrops f then s
  else s.emit (.msix f v)

/-- An MF vector of an EVT register falls due: in the safe state it is discarded (R464, R469). -/
def State.mfVector (s : State) (v : Nat) : State := if s.isSafe then s else s.msixSend .mf v

/-- An event sets bit `b` of an EVT register; if the bit was 0 and its EVT_EN bit is 1, the MF vector is sent (R533). -/
def State.setEvt (s : State) (evt en vec : Reg) (i b : Nat) : State :=
  let was := bitOf (s.reg evt i) b
  let s := s.setReg evt i (s.reg evt i ||| ((1 : Word) <<< b))
  if !was && bitOf (s.reg en i) b then s.mfVector (getBits (s.reg vec i) 0 11) else s

/-- Events of one CSR_CLK cycle: `f` sets bits of an EVT register, and where more than one condition goes true by it, one message is
sent for them (R533). -/
def State.evtTogether (s : State) (evt en vec : Reg) (i : Nat) (f : State → State) : State :=
  let t := f s
  let new := t.reg evt i &&& ~~~s.reg evt i &&& s.reg en i
  if new &&& (new - 1) = 0 then t
  else ((f (s.setReg en i 0)).setReg en i (s.reg en i)).mfVector (getBits (s.reg vec i) 0 11)

/-! ### Fault events (R459–R465) -/

/-- The class that the pair of source and code fixes (R459, R461); none for a pair the table does not hold. -/
def faultClass (source code : BitVec 8) : Option FaultClass :=
  let c := code.toNat
  match source.toNat with
  | 0x00 => if c = 1 then some .fat else none
  | 0x01 => if c = 0x0F then some .ucc else if c = 5 ∨ c = 6 ∨ c = 0x0E ∨ c = 0x10 ∨ c = 0x11 then some .ce else none
  | 0x03 => if c = 1 ∨ c = 2 then some .ce else if c = 3 then some .ucc else none
  | 0x04 => if c = 1 ∨ c = 5 ∨ c = 6 ∨ c = 8 then some .ucc else if c = 2 ∨ c = 3 ∨ c = 4 ∨ c = 7 ∨ c = 9 then some .ce else none
  | 0x05 => if c = 1 ∨ c = 2 ∨ c = 3 then some .ce else none
  | 0x08 => if c = 3 then some .ucc else if c = 1 ∨ c = 2 ∨ c = 4 then some .ce else none
  | 0x09 => if c = 2 ∨ c = 3 then some .ucc else if c = 1 ∨ c = 4 then some .ce else none
  | 0x0A => if c = 2 then some .ucc else if c = 1 ∨ c = 3 then some .ce else none
  | 0x0B => if c = 1 then some .fat else if c = 2 then some .ucc else if c = 3 ∨ c = 4 then some .ce else none
  | 0x0C => if c = 1 then some .ce else if c = 2 then some .fat else none
  | n =>
    if 0x10 ≤ n ∧ n < 0x18 then if c = 1 then some .ce else if c = 2 then some .ucc else none
    else if 0x40 ≤ n ∧ n < 0x80 then
      match n % 16 with
      | 0 | 1 | 3 => if c = 1 then some .ucc else if c = 2 then some .ce else none
      | 2 => if c = 1 ∨ c = 3 then some .ce else if c = 2 then some .ucc else none
      | 5 => if c = 1 then some .ucc else if c = 2 ∨ c = 3 then some .ce else none
      | 8 | 9 | 10 => if 1 ≤ c ∧ c ≤ 4 then some .ucc else if c = 5 then some .ce else none
      | _ => none
    else none

/-- The instance of the FCU_cls_ registers of a class, which is also its FCU_EVT bit (R464, R474). -/
def classIdx : FaultClass → Nat | .ce => 0 | .ucc => 1 | .fat => 2

/-- Wide time: counter bits [95:32] (R324, R325). -/
def State.wide (s : State) : Word := (s.time >>> 32).setWidth 64

/-- FRAC: counter bits [31:16] (R325). -/
def State.frac (s : State) : BitVec 16 := (s.time >>> 16).setWidth 16

/-- A FAULT_N pulse starts, or starts again (R465): the pending PULSE_US takes effect. -/
def State.startPulse (s : State) : State := (s.epoch .faultPulse .FCU_PIN 0).setFld F.FCU_PIN_PULSE 0 1

/-- A fault event of class `c` reaches the FCU (R462, R464). -/
def State.capture (s : State) (c : FaultClass) (e : FaultEv) : State :=
  let i := classIdx c
  let s := s.bump F.FCU_CNT_COUNT i
  if s.flag F.FCU_CAP_VALID i then s.setFld F.FCU_CAP_OVF i 1
  else
    let s := s.setReg .FCU_DETAIL i e.detail
    let s := s.setReg .FCU_TIME i s.wide
    let s := ((s.setFld F.FCU_CAP_SOURCE i e.source.toNat).setFld F.FCU_CAP_CODE i e.code.toNat).setFld F.FCU_CAP_VALID i 1
    let s := s.setEvt .FCU_EVT .FCU_EVT_EN .FCU_MSIX_VEC 0 i
    match c with
    | .ce => s
    | _ => s.startPulse

/-- The CORE domain, the fault collector in it, has no power (R493, R23). -/
def State.coreOff (s : State) : Bool := s.dev == .off || s.dev == .standby

/-- A fault event reaches the FCU and is handled by its class; a pair the table of R461 does not hold is no fault. -/
def State.faultEv (s : State) (e : FaultEv) : State :=
  if s.coreOff then s else
  match faultClass e.source e.code with
  | some c => s.capture c e
  | none => s

/-- A block raises a fault: source, code and detail as numbers. -/
def State.raise (s : State) (source code : Nat) (detail : Nat := 0) : State :=
  s.faultEv ⟨BitVec.ofNat 8 source, BitVec.ofNat 8 code, BitVec.ofNat 64 detail⟩

/-- FAULT_N is driven low while a pulse runs, HOLD is 1, the device is in the safe state (R465), or its boot failed (R482). -/
def State.faultNLow (s : State) : Bool := s.flag F.FCU_PIN_PULSE 0 || s.flag F.FCU_PIN_HOLD 0 || s.isSafe || s.dev == .bootFailed

/-! ### Command logic (R534) -/

/-- A command ends: LAST_RESULT and LAST_SEQ are written together. -/
def State.endCmd (s : State) (result seq : Fld) (i code : Nat) (q : Seq) : State :=
  (s.setFld result i code).setFld seq i q.toNat

/-- A thread command of the debugger ends (R487). -/
def State.thrDone (s : State) (q : Seq) (code : Nat) : State :=
  s.endCmd F.DBG_THR_STATUS_LAST_RESULT F.DBG_THR_STATUS_LAST_SEQ 0 code q

/-! ### The safe state's entry and the end of a CFG command (R46, R467, R468) -/

/-- The device enters SAFE (R468, R469); a pending ENTER ends with OK and its own SEQ. -/
def State.enterSafe (s : State) (cause : Nat) : State :=
  let wasPending := s.fld F.FCU_SAFE_STATUS_STATE 0 == 1
  let s := (s.setFld F.FCU_SAFE_STATUS_STATE 0 2).setFld F.FCU_SAFE_STATUS_CAUSE 0 cause
  if wasPending then s.endCmd F.FCU_SAFE_STATUS_LAST_RESULT F.FCU_SAFE_STATUS_LAST_SEQ 0 0 s.enterSeq else s

/-- A CFG command ends (R46): result and SEQ, the state it ends in (0 IDLE, 5 FAILED), then CFG_MSIX_VEC; a pending ENTER
then takes effect (R468). In SAFE that vector is discarded like one of an EVT register (log entry 101). -/
def State.cfgEnd (s : State) (q : Seq) (code : Nat) (st : Nat := 0) : State :=
  let s := s.endCmd F.CFG_STATUS_LAST_RESULT F.CFG_STATUS_LAST_SEQ 0 code q
  let s := s.setFld F.CFG_STATUS_STATE 0 st
  let s := s.mfVector (s.fld F.CFG_MSIX_VEC_VEC 0)
  if s.fld F.FCU_SAFE_STATUS_STATE 0 == 1 then s.enterSafe 1 else s

/-- A CFG command is refused without disturbing the command in progress (R46, R47). -/
def State.cfgRefuse (s : State) (q : Seq) (code : Nat) : State :=
  let s := s.endCmd F.CFG_STATUS_LAST_RESULT F.CFG_STATUS_LAST_SEQ 0 code q
  s.mfVector (s.fld F.CFG_MSIX_VEC_VEC 0)

end Sys2Proof.Machine
end

