-- ==== Sys2Proof/Machine/Objects.lean ====
section
/-!
DEFINITION. Reading and writing the device's objects: Spans, queues, mailboxes, threads, Rails, engine queues, Bays, DMA
channels, buffer records; which Span lies on which link (R72); the scheduler's tree; and owners and liveness (R120, R121).
-/

namespace Sys2Proof.Machine

namespace State

def setSpan (s : State) (n : Nat) (x : Span) : State := { s with spans := SMap.put {} s.spans n x }
def queue (s : State) (q : Nat) : Queue := SMap.get {} s.queues q
def setQueue (s : State) (q : Nat) (x : Queue) : State := { s with queues := SMap.put {} s.queues q x }
/-- Mailbox channel c: Span c, or host c − 4096 (R176). -/
def mail (s : State) (c : Nat) : Mbx := SMap.get {} s.mbx c
def setMail (s : State) (c : Nat) (x : Mbx) : State := { s with mbx := SMap.put {} s.mbx c x }
/-- Device-wide thread n (R13). -/
def thr (s : State) (n : Nat) : Thread := SMap.get {} s.threads n

/-- The threads of a Truss, by device-wide number. -/
def trussThreads (t : Nat) : List Nat := (List.range 64).map (64 * t + ·)

/-- The Truss is stalled (R399): some thread but the supervisor waits, none of them runs or is halted, none of their waits has
a source that arms the detector (TIMER, RAIL, EQ, MBX, DMA, TIME), and none is implicit. -/
def stalled399 (s : State) (t : Nat) : Bool :=
  let l := (trussThreads t).drop 1
  let waits (n : Nat) : Bool := (s.thr n).state == .waiting
  l.any waits && l.all fun n =>
    (s.thr n).state != .running && (s.thr n).state != .halted &&
    (!waits n || ((s.thr n).waitMask &&& 0x9F == 0 && (s.thr n).implicit.isNone))

/-- Writes a thread's record; a stall that it ends lets the detector arm again (R400). -/
def setThr (s : State) (n : Nat) (x : Thread) : State :=
  let s := { s with threads := SMap.put {} s.threads n x }
  if SMap.get false s.stallDone (n / 64) && !s.stalled399 (n / 64) then
    { s with stallDone := SMap.put false s.stallDone (n / 64) false }
  else s
/-- Rail r of Pier p. -/
def rail (s : State) (p r : Nat) : Rail := SMap.get {} s.rails (256 * p + r)
def setRail (s : State) (p r : Nat) (x : Rail) : State := { s with rails := SMap.put {} s.rails (256 * p + r) x }
/-- Engine queue of device-wide Truss t. -/
def eq (s : State) (t : Nat) : List EqItem := SMap.get [] s.eqs t
def setEq (s : State) (t : Nat) (x : List EqItem) : State := { s with eqs := SMap.put [] s.eqs t x }
/-- Bay b of Pier p. -/
def bay (s : State) (p b : Nat) : Bay := SMap.get {} s.bays (8 * p + b)
def setBay (s : State) (p b : Nat) (x : Bay) : State := { s with bays := SMap.put {} s.bays (8 * p + b) x }
/-- DMA channel c of Pier p. -/
def dmaC (s : State) (p c : Nat) : DmaCh := SMap.get {} s.dmaCh (64 * p + c)
def setDmaC (s : State) (p c : Nat) (x : DmaCh) : State := { s with dmaCh := SMap.put {} s.dmaCh (64 * p + c) x }
def link (s : State) (h : Nat) : LinkSt := SMap.get {} s.links h
def setLink (s : State) (h : Nat) (x : LinkSt) : State := { s with links := SMap.put {} s.links h x }

/-! ### Spans and links (R72) -/

/-- The link on which a Span lies, by HEP_LINKh_SPAN_MAP in effect. -/
def spanLink (s : State) (n : Nat) : Option Link :=
  (List.finRange 8).find? fun h => decide ((s.face h.val).base ≤ n ∧ n < (s.face h.val).base + (s.face h.val).count)

/-- VF index of a Span on link h. -/
def vfIndex (s : State) (h n : Nat) : Nat := n - (s.face h).base

/-- The function of a Span. -/
def spanFn (s : State) (n : Nat) : Option Fn :=
  match s.spanLink n with
  | none => none
  | some h => if hn : s.vfIndex h.val n < 4096 then some (.vf h ⟨s.vfIndex h.val n, hn⟩) else none

/-- A VF is present when its PF's VF Enable is 1 and its index is below NumVFs (R109). -/
def vfPresent (s : State) (n : Nat) : Bool :=
  match s.spanLink n with
  | none => false
  | some h => (s.fn (.pf h)).vfEnable && decide (s.vfIndex h.val n < (s.fn (.pf h)).numVfs)

/-- The Span accepts doorbells and the QE runs its queues (R108). -/
def spanEnabled (s : State) (n : Nat) : Bool := (s.span n).state == .enabled

/-- A Span in Disabled, Quiesced or Removed counts as quiesced (R113). -/
def spanQuiet (s : State) (n : Nat) : Bool :=
  match (s.span n).state with
  | .disabled | .quiesced | .removed => true
  | _ => false

/-- A TDI in CONFIG_LOCKED or RUN (R103, R142). -/
def tdiLocked (s : State) (n : Nat) : Bool := (s.span n).tdi == .locked || (s.span n).tdi == .run

/-- Sets the bit of a Span in a per-Span map register (STU_DRAINED_MAP and its kin). -/
def setMap (s : State) (r : Reg) (n : Nat) : State :=
  s.setReg r (n / 64) (s.reg r (n / 64) ||| ((1 : Word) <<< (n % 64)))

/-- Sets bit `b` of STU_EVT. -/
def stuEvt (s : State) (b : Nat) : State := s.setEvt .STU_EVT .STU_EVT_EN .STU_MSIX_VEC 0 b

/-! ### Queues of a Span -/

/-- Device-wide number of queue `i` of Span `n`, if the Span has it (R145). -/
def queueNo (s : State) (n i : Nat) : Option Nat :=
  if i < (s.span n).queues then some ((s.span n).firstQueue + i) else none

/-- The value of QE_CTX_CFG.EQ that is stored for queue `q` (R182). -/
def fixEq (s : State) (q v : Nat) : Nat :=
  let n := (s.queue q).span
  let isEvent (i : Nat) : Bool := match s.queueNo n i with | some k => (s.queue k).kind == 3 | none => false
  if isEvent v then v else ((List.range (s.span n).queues).find? isEvent).getD 0xFF

/-- EQ of a queue that its image or a reset gave its reset value: the Span's lowest EVENT queue where it names none (R167, R182). -/
def legalEq (s : State) (q : Nat) : State :=
  if (s.queue q).kind = 3 then s else s.setFld F.QE_CTX_CFG_EQ q (s.fixEq q (s.fld F.QE_CTX_CFG_EQ q))

/-! ### The scheduler's tree and queues (R276–R280) -/

/-- What the Active image gives a Pier. -/
def pierImg (s : State) (p : Nat) : PierImg := match s.slots.active with | some i => i.piers.getD p {} | none => {}

/-- Key of node `i` of a level of Pier `p`; its registers have it as their instance. -/
def nodeKey (p level i : Nat) : Nat := i + 16384 * (level + 4 * p)

/-- A node of the image's tree. -/
def treeNode (s : State) (p level i : Nat) : Option TreeNode :=
  (s.pierImg p).nodes.find? fun n => n.level.val == level && n.index == i

/-- Parent of a node. -/
def parentOf (s : State) (p level i : Nat) : Nat := match s.treeNode p level i with | some n => n.parent | none => 0

/-- The port node above a queue. -/
def portOf (s : State) (p q : Nat) : Nat := s.parentOf p 1 (s.parentOf p 2 (s.parentOf p 3 q))

/-- The TMS queue that a map of ranges gives work queue `q` (R278). -/
def mapped (m : List (Nat × Nat × Nat)) (q : Nat) : Option Nat :=
  (m.find? fun r => decide (r.1 ≤ q ∧ q < r.1 + r.2.1)).map fun r => r.2.2

/-- WIRE queue of TX work queue `q`, and HOST queue of RX work queue `q`, on Pier `p`. -/
def wireQueue (s : State) (p q : Nat) : Option Nat := mapped (s.pierImg p).txMap q
def hostQueue (s : State) (p q : Nat) : Option Nat := mapped (s.pierImg p).rxMap q

/-- The frames of a TMS queue. -/
def tq (s : State) (p q : Nat) : List Pkt := SMap.get [] s.tmsQ (q + 16384 * p)

/-- Bytes queued, FCS included. -/
def depth (s : State) (p q : Nat) : Nat := ((s.tq p q).map Pkt.len).sum

/-- The largest frame of a MAC, whose pending MAX_FRAME applies as a frame is checked (R321). -/
def maxFrame (s : State) (m : Nat) : Nat := s.fld F.MAC_CTL_MAX_FRAME m

/-! ### Threads -/

/-- Device-wide Truss of a thread, and its Pier (R13). -/
def trussOf (n : Nat) : Nat := n / 64
def pierOf (n : Nat) : Nat := n / 192

/-! ### Owners (R120, R121) -/

def ownerNone : BitVec 16 := 0
def ownerSpan (n : Nat) : BitVec 16 := BitVec.ofNat 16 (0x2000 + n)
def ownerThread (n : Nat) : BitVec 16 := BitVec.ofNat 16 (0x4000 + n)
def ownerMf : BitVec 16 := 0x6000
def ownerTruss (t : Nat) : BitVec 16 := BitVec.ofNat 16 (0x8000 + t)
def ownerDma (p : Nat) : BitVec 16 := BitVec.ofNat 16 (0xA000 + p)
def ownerPipe (p : Nat) : BitVec 16 := BitVec.ofNat 16 (0xC000 + p)

/-- OWNER[15:13] and OWNER[11:0]. -/
def ownerKind (o : BitVec 16) : Nat := o.toNat / 0x2000
def ownerId (o : BitVec 16) : Nat := o.toNat % 0x1000

/-- An owner is live (R121). -/
def ownerLive (s : State) (o : BitVec 16) : Bool :=
  match ownerKind o with
  | 1 => (s.span (ownerId o)).state == .enabled || (s.span (ownerId o)).state == .quiescing
  | 2 => (s.thr (ownerId o)).state != .free
  | 4 => (trussThreads (ownerId o)).any fun n => (s.thr n).state != .free
  | 5 | 6 => true
  | _ => false

end State

end Sys2Proof.Machine
end

