-- ==== Sys2Proof/Machine/Domain.lean ====
section
/-!
DEFINITION. The states of the power domains and their wake by work (R493–R496).
-/

namespace Sys2Proof.Machine

namespace State

/-- A power domain's field in PWR_DOMAINS: 0x00–0x03 Pier, 0x10–0x1B Truss. -/
def domFld (d : Nat) : Option Fld :=
  if d < 4 then some (F.PWR_DOMAINS_PIER d) else if 16 ≤ d ∧ d < 28 then some (F.PWR_DOMAINS_TRUSS (d - 16)) else none

/-- State of a domain: 0 ON, 1 GATING, 2 GATED, 3 WAKING. -/
def domState (s : State) (d : Nat) : Nat := match domFld d with | some f => s.fld f 0 | none => 0
def setDom (s : State) (d v : Nat) : State := match domFld d with | some f => s.setFld f 0 v | none => s

def pwrEvt (s : State) (b : Nat) : State := s.setEvt .PWR_EVT .PWR_EVT_EN .PWR_MSIX_VEC 0 b

/-- A PWR command ends (R504, R534). -/
def pwrEnd (s : State) (q : Seq) (code : Nat) : State :=
  (s.endCmd F.PWR_STATUS_LAST_RESULT F.PWR_STATUS_LAST_SEQ 0 code q).pwrEvt 0

/-- A gating in progress ends. -/
def gatingEnd (s : State) (d dst code : Nat) : State :=
  let q := SMap.get 0 s.pwrSeq d
  let s : State := { s with pwrSeq := SMap.erase s.pwrSeq d }
  ((s.setDom d dst).setFld F.PWR_STATUS_BUSY 0 0).pwrEnd q code

/-- A domain is woken, by work or by UNGATE (R494). -/
def wakeDom (s : State) (work : Bool) (d : Nat) : State :=
  match s.domState d with
  | 1 => if work then s.gatingEnd d 0 5 else s
  | 2 =>
    let s := s.setDom d 3
    if work then (s.bump F.PWR_WAKE_CNT_COUNT 0).pwrEvt 2 else s
  | _ => s

/-- A wake of a domain; a Truss's wakes its Pier (R496). -/
def wake (s : State) (work : Bool) (d : Nat) : State :=
  let s := if 16 ≤ d then s.wakeDom work ((d - 16) / 3) else s
  s.wakeDom work d

/-- An event makes a source of R389 pending for threads of Truss t, whatever their masks: a gated Truss wakes (R496). -/
def sourceWake (s : State) (t : Nat) : State := s.wake true (16 + t)

/-- Raises Thread-kind source `b` of R389 in a thread that is not FREE; it stays pending until `endSignal` or a WAIT clears it (log 134). -/
def pendSource (s : State) (n b : Nat) : State :=
  if (s.thr n).state == .free then s
  else (s.setThr n { s.thr n with pend := (s.thr n).pend ||| ((1 : BitVec 11) <<< b) }).sourceWake (trussOf n)

/-- An item enters the engine queue of Truss t (R387), source EQ of its threads. -/
def eqPush (s : State) (t : Nat) (x : EqItem) : State := (s.setEq t (s.eq t ++ [x])).sourceWake t

/-- An armed compare starts the wake of its gated Truss early enough for the thread's slot (R496): the power-up of R497, 12,800
ENG_CLK cycles, or 44,800 with that of the Pier. -/
def nearWake (s : State) : State :=
  (List.range 12).foldl (fun s t =>
    if s.domState (16 + t) = 0 then s
    else
      let w := if s.domState (t / 3) = 0 then 12800 else 44800
      if (trussThreads t).any fun n => (s.thr n).armed && decide (s.cycle.toNat ≤ (s.thr n).cmp.toNat ∧ (s.thr n).cmp.toNat ≤ s.cycle.toNat + w)
      then s.sourceWake t else s) s

/-- The supervisor's FAULT source: a bit of TRS_SUP_CAUSE is set (R389). -/
def supCause (s : State) (f : Fld) (t : Nat) : State := (s.setFld f t 1).sourceWake t

end State

end Sys2Proof.Machine
end

