-- ==== Sys2Proof/Machine/Ring.lean ====
section
/-!
DEFINITION. Where registers lie (R14–R16), and the register ring, on which an access waits for its block (R62, R128, R496).
-/

namespace Sys2Proof.Machine

/-! ### Offsets (R14–R16) -/

/-- The instance, if any, that lies `d` bytes after the first, for indexes of the given counts and strides, outermost first. -/
def instanceAt : List (Nat × Nat) → Nat → Nat → Option Nat
  | [], d, i => if d = 0 then some i else none
  | (n, st) :: rest, d, i => if d / st < n then instanceAt rest (d % st) (i * n + d / st) else none

/-- The register and instance at a BAR0 offset; none at an unused one. -/
def locateIn : List RegLoc → Nat → Option (Reg × Nat)
  | [], _ => none
  | l :: rest, off =>
    match (if l.base ≤ off then instanceAt l.dims (off - l.base) 0 else none) with
    | some i => some (l.reg, i)
    | none => locateIn rest off

def locate (off : Nat) : Option (Reg × Nat) := locateIn regMap off

/-- How many bytes after the first instance `i` lies. -/
def instanceOff : List (Nat × Nat) → Nat → Nat
  | [], _ => 0
  | (_, st) :: rest, i =>
    let inner := (rest.map Prod.fst).foldl (· * ·) 1
    st * (i / inner) + instanceOff rest (i % inner)

/-- The BAR0 offset of instance `i` of a register. -/
def regOff (r : Reg) (i : Nat) : Nat :=
  match regMap.find? fun l => l.reg == r with
  | some l => l.base + instanceOff l.dims i
  | none => 0

/-- The word of a command register: OP, SEQ in bits 31:16, and the command's other fields (R534). -/
def cmdWord (op : Nat) (q : Seq) (rest : Nat := 0) : Word := BitVec.ofNat 64 (op + 2 ^ 16 * q.toNat + rest)

/-- The offset of an access. -/
def RingOp.off : RingOp → Nat
  | .write off _ | .vsRead off _ | .read off _ => off

namespace State

/-- CFG_STATUS.STATE. -/
def cfgState (s : State) : Nat := s.fld F.CFG_STATUS_STATE 0

/-- The power domain that an offset needs ON: a Pier for its pipeline blocks, a Truss for its block but TRS_CMD (R401, R496). -/
def offDomain (off : Nat) : Option Nat :=
  let p := off / 0x1000000 - 1
  let b := off / 0x100000 % 16
  if off < 0x1000000 ∨ 0x5000000 ≤ off then none
  else if b < 5 then some p
  else if b < 8 ∨ 10 < b then none
  else match locate off with
    | some (.TRS_CMD, _) => none
    | _ => some (16 + 3 * p + (b - 8))

/-- CFG and FCU answer during a swap; every other block's accesses wait (R62). -/
def swapHolds (s : State) (off : Nat) : Bool := (s.cfgState == 4 || s.cfgState == 5) && off / 0x100000 != 1 && off / 0x100000 != 2

/-- An access waits: its block is held, or an access of that block waits before it (R62, R128). -/
def ringHeld (s : State) (off : Nat) : Bool := s.swapHolds off || s.ring.any fun x => x.off / 0x100000 == off / 0x100000

/-- A domain is ON, and with a Truss its Pier. -/
def domOn (s : State) (d : Nat) : Bool := s.domState d == 0 && (decide (d < 16) || s.domState ((d - 16) / 3) == 0)

/-- An access at an offset acts at once: nothing holds it and its domain is ON. -/
def ringOpen (s : State) (off : Nat) : Bool :=
  !s.ringHeld off && match offDomain off with | none => true | some d => s.domOn d

/-- An access joins those that wait on the ring. -/
def ringWait (s : State) (o : RingOp) : State := { s with ring := s.ring ++ [o] }

/-- An access enters the ring: it acts, or waits while its block is held, or its domain, which it wakes, is not ON (R62, R496). -/
def ringTake (s : State) (o : RingOp) (act : State → State) : State :=
  if s.ringHeld o.off then s.ringWait o
  else match offDomain o.off with
    | none => act s
    | some d =>
      let s := s.wake true d
      if s.domState d = 0 then act s else s.ringWait o

/-- A write of instance `i` of a register on the ring; a read of it, with the ECC outcome of a scratchpad word that it reads. -/
def onReg (s : State) (r : Reg) (i : Nat) (w : Word) (act : State → State) : State := s.ringTake (.write (regOff r i) w) act
def onRead (s : State) (r : Reg) (i : Nat) (act : State → State) (e : Ecc := .ok) : State := s.ringTake (.read (regOff r i) e) act

/-- Instance `i` of a register may be reached at once. -/
def regOpen (s : State) (r : Reg) (i : Nat) : Bool := s.ringOpen (regOff r i)

/-- The word that a register will hold once the values that wait for it have taken effect. -/
def shadowed (s : State) (r : Reg) (i : Nat) : Word := merge (s.pend r i).mask (s.reg r i) (s.pend r i).val

end State

end Sys2Proof.Machine
end

