-- ==== Sys2Proof/Machine/Bpm.lean ====
section
/-!
DEFINITION. Buffer pool (chapter 08): pools, accounts, charges, records, caches and the buffer operations; and the RLD
bytes in which buffers lie (R28–R30, R253).
-/

namespace Sys2Proof.Machine

/-- How a charge is answered (R261). -/
inductive ChargeAns where | granted | overMax | wait
  deriving DecidableEq, Repr

/-- Buffer operations. -/
inductive BufOp where | free | drop | give | share
  deriving DecidableEq, Repr

namespace State

/-! ### RLD (R28–R30) -/

def rldByte (s : State) (a : Nat) : Byte := SMap.get 0 s.rld a

/-- `n` bytes of RLD from address `a`. -/
def rldRead (s : State) (a n : Nat) : List Byte := (List.range n).map fun i => s.rldByte (a + i)

/-- Writes bytes to RLD from address `a`. -/
def rldWrite (s : State) : Nat → List Byte → State
  | _, [] => s
  | a, b :: t => rldWrite { s with rld := SMap.put 0 s.rld a b } (a + 1) t

/-- A 64-byte line carries a poison mark (R30, R94). -/
def rldBad (s : State) (a : Nat) : Bool := SMap.get false s.rldPoison (a / 64)

/-- Some line of a range carries a poison mark. -/
def rldBadIn (s : State) (a n : Nat) : Bool := (List.range (n / 64 + 2)).any fun i => decide (a / 64 + i ≤ (a + n - 1) / 64) && s.rldBad (a + 64 * i)

def setPoison (s : State) (a : Nat) (bad : Bool) : State := { s with rldPoison := SMap.put false s.rldPoison (a / 64) bad }

/-- Writes bytes to RLD: poisoned data marks every line it touches, and other data clears the mark of a line it covers whole
(R30, R94). -/
def rldStore (s : State) (a : Nat) (bs : List Byte) (bad : Bool) : State :=
  (List.range (bs.length / 64 + 2)).foldl (fun t i =>
    let l := a / 64 * 64 + 64 * i
    if bad then (if l < a + bs.length then t.setPoison l true else t)
    else if a ≤ l ∧ l + 64 ≤ a + bs.length then t.setPoison l false else t) (s.rldWrite a bs)

/-- An access range lies wholly in the engine firmware and data region and outside the hold and record areas (R416). -/
def inEngineRegion (s : State) (a n : Nat) : Bool :=
  let rec0 := s.fld F.BPM_REGION_REC_BASE 0 * 0x1000000
  let recN := s.fld F.BPM_REGION_REC_SIZE 0 * 0x1000000
  decide (s.dbase ≤ a ∧ a + n ≤ s.dbase + s.dsize ∧
    (a + n ≤ s.holdBase ∨ s.holdBase + 0x4000000 ≤ a) ∧ (a + n ≤ rec0 ∨ rec0 + recN ≤ a))

/-! ### Pools and accounts (R254, R257, R261) -/

/-- Index range of a pool. -/
def poolBase (s : State) (p : Nat) : Nat := s.fld F.BPM_POOL_RANGE_BASE p
def poolCount (s : State) (p : Nat) : Nat := s.fld F.BPM_POOL_RANGE_COUNT p

def inPool (s : State) (p i : Nat) : Bool := decide (s.poolBase p ≤ i ∧ i < s.poolBase p + s.poolCount p)

/-- The number of pools and of accounts that the image gives. -/
def pools (s : State) : Nat := s.fld F.BPM_INFO_POOLS 0
def accounts (s : State) : Nat := s.fld F.BPM_INFO_ACCOUNTS 0

/-- The pool of an index, and the pool of an account. -/
def poolOf (s : State) (i : Nat) : Option Nat := (List.range s.pools).find? fun p => s.inPool p i
def acctPool (s : State) (a : Nat) : Option Nat :=
  (List.range s.pools).find? fun p =>
    decide (s.fld F.BPM_POOL_ACCTS_ACCT_BASE p ≤ a ∧ a < s.fld F.BPM_POOL_ACCTS_ACCT_BASE p + s.fld F.BPM_POOL_ACCTS_ACCT_COUNT p)

def bufRec (s : State) (i : Nat) : BufRec := SMap.get {} s.recs i
def setRec (s : State) (i : Nat) (r : BufRec) : State := { s with recs := SMap.put {} s.recs i r }

/-- A buffer is allocated: it heads a chain or is a member of one. -/
def allocated (s : State) (i : Nat) : Bool := (s.bufRec i).refs != 0 || (s.bufRec i).member

/-- Cached indices of pool `p` in Pier `pier` (R258). -/
def cacheOf (s : State) (pier p : Nat) : List Nat := SMap.get [] s.bufCache (256 * pier + p)
def setCache (s : State) (pier p : Nat) (l : List Nat) : State := { s with bufCache := SMap.put [] s.bufCache (256 * pier + p) l }

/-- CACHED of a pool. -/
def poolCached (s : State) (p : Nat) : Nat := ((List.range 4).map fun pier => (s.cacheOf pier p).length).sum

/-- The bitmap bit of an index is 1: free, in a pool, and neither cached nor lost (R257, R258, R274). -/
def bitmap (s : State) (i : Nat) : Bool :=
  (s.poolOf i).isSome && !s.allocated i && !s.lostBufs.contains i && !(s.bufCache.any fun e => e.2.contains i)

/-- FREE of a pool: the number of its bitmap bits that are 1. -/
def poolFree (s : State) (p : Nat) : Nat :=
  s.poolCount p - (s.recs.filter fun e => s.inPool p e.1).length - s.poolCached p - (s.lostBufs.filter (s.inPool p)).length

/-- U, MIN and MAX of an account; the register's pending limits apply at the next charge or free (R262). -/
def acctUse (s : State) (a : Nat) : Nat := s.fld F.BPM_ACCT_USE_USE a
def acctMin (s : State) (a : Nat) : Nat := s.fld F.BPM_ACCT_LIMIT_MIN a
def acctMax (s : State) (a : Nat) : Nat := s.fld F.BPM_ACCT_LIMIT_MAX a

/-- The unused reserve of a pool: the sum of max(0, MIN − U) over its accounts. -/
def unusedReserve (s : State) (p : Nat) : Nat :=
  ((List.range (s.fld F.BPM_POOL_ACCTS_ACCT_COUNT p)).map fun k =>
    let a := s.fld F.BPM_POOL_ACCTS_ACCT_BASE p + k
    s.acctMin a - s.acctUse a).sum

/-- SHARED_FREE of a pool. -/
def sharedFree (s : State) (p : Nat) : Nat := s.poolFree p + s.poolCached p - s.unusedReserve p

/-- R261 for `n` buffers of account `a` in pool `p`, drawn from Pier cache `pier` or, with none, from FREE; pending limits of the account
apply at this charge (R262). -/
def chargeAns (s : State) (p a n : Nat) (pier : Option Nat) : ChargeAns :=
  let s := s.epoch .acctCharge .BPM_ACCT_LIMIT a
  if s.acctMax a < s.acctUse a + n then .overMax
  else
    let r := min n (s.acctMin a - s.acctUse a)
    let avail := match pier with | some k => (s.cacheOf k p).length | none => s.poolFree p
    if n - r ≤ s.sharedFree p ∧ n ≤ avail then .granted else .wait

/-- The Pier cache that a waiting request draws on: a pipeline's own; the others draw on the bitmap (R258). -/
def Waiter.cache : Waiter → Option Nat
  | .pipe p _ => some p
  | _ => none

/-- A waiting request can be granted. -/
def canGrant (s : State) (w : BufWait) : Bool := s.chargeAns w.pool w.acct w.n (Waiter.cache w.who) == .granted

/-- A request that began to wait before `w`, or before now where `w` does not wait yet, can be granted in its pool (R260). -/
def earlier (s : State) (w : BufWait) : Bool := (s.bpmWait.takeWhile (· != w)).any fun v => v.pool == w.pool && s.canGrant v

/-- R261 for a request in its turn: requests of a pool that can be granted are granted in the order in which they came (R260). -/
def chargeTurn (s : State) (w : BufWait) : ChargeAns :=
  match s.chargeAns w.pool w.acct w.n (Waiter.cache w.who) with
  | .granted => if s.earlier w then .wait else .granted
  | a => a

/-- A request no longer waits. -/
def doneWait (s : State) (w : BufWait) : State := { s with bpmWait := s.bpmWait.erase w }

/-- The lowest free index of a pool at or after `i`; `fuel` bounds the occupied ones passed. -/
def lowestFree (s : State) (p : Nat) : Nat → Nat → Option Nat
  | 0, _ => none
  | fuel + 1, i =>
    if s.poolBase p + s.poolCount p ≤ i then none
    else if s.bitmap i then some i else lowestFree s p fuel (i + 1)

/-- Indices not free anywhere, which bounds a search. -/
def occupied (s : State) : Nat := s.recs.length + s.lostBufs.length + (s.bufCache.map fun e => e.2.length).sum + 1

/-- The `n` lowest free indices of a pool (R257). -/
def freeIndices (s : State) (p : Nat) : Nat → Nat → List Nat
  | 0, _ => []
  | n + 1, i =>
    match s.lowestFree p (s.occupied + 1) i with
    | none => []
    | some j => j :: freeIndices s p n (j + 1)

/-- XOFF and XON of R264 after FREE of a pool changed; pending watermarks apply at a charge or free in the pool. -/
def poolWatch (s : State) (p : Nat) : State :=
  let xoff := s.fld F.BPM_POOL_WM_XOFF p
  let on := s.flag F.BPM_POOL_STATUS_XOFF p
  if !on && decide (xoff ≠ 0 ∧ s.poolFree p ≤ xoff) then
    ((s.setFld F.BPM_POOL_STATUS_XOFF p 1).bump F.BPM_POOL_CNT_XOFF_ENTRIES p).setEvt .BPM_EVT .BPM_EVT_EN .BPM_MSIX_VEC 0 0
  else if on && decide (xoff = 0 ∨ s.fld F.BPM_POOL_WM_XON p ≤ s.poolFree p) then s.setFld F.BPM_POOL_STATUS_XOFF p 0
  else s

/-- The boundaries "next charge or free in the pool" and "on the account" (R262, R273). -/
def bpmEpochs (s : State) (p a : Nat) : State := (s.epoch .poolCharge .BPM_POOL_WM p).epoch .acctCharge .BPM_ACCT_LIMIT a

/-- Links indices into a chain: head first, NEXT of the last its own index (R256, R267). -/
def linkChain (s : State) (owner : BitVec 16) (a : Nat) (bad : Bool) : Bool → List Nat → State
  | _, [] => s
  | first, [i] =>
    s.setRec i (if first then { owner := owner, refs := 1, account := a, poisoned := bad } else { member := true })
  | first, i :: j :: t =>
    linkChain (s.setRec i (if first then { owner := owner, refs := 1, account := a, next := some j, poisoned := bad }
      else { member := true, next := some j })) owner a bad false (j :: t)

/-- Adds to U and keeps PEAK (R261, R273). -/
def addUse (s : State) (a n : Nat) : State :=
  let s := s.setFld F.BPM_ACCT_USE_USE a (s.acctUse a + n)
  if s.fld F.BPM_ACCT_USE_PEAK a < s.acctUse a then s.setFld F.BPM_ACCT_USE_PEAK a (s.acctUse a) else s

/-- Carries out a granted charge: takes the indices, charges the account, writes the records; answers the head. -/
def grantBufs (s : State) (p a n : Nat) (pier : Option Nat) (owner : BitVec 16) : Nat × State :=
  let idx := match pier with
    | some k => (s.cacheOf k p).take n
    | none => s.freeIndices p n (s.poolBase p)
  let s := match pier with
    | some k => s.setCache k p ((s.cacheOf k p).drop n)
    | none => s
  (idx.headD 0, (((s.linkChain owner a false true idx).addUse a n).bpmEpochs p a).poolWatch p)

/-- Buffers of a frame or ALLOC of `len` bytes (R267). -/
def bufsFor (len : Nat) : Nat := min 8 ((len + 2047) / 2048)

/-- A refused charge is a boundary too: pending limits and watermarks apply (R262, R273). -/
def refusedCharge (s : State) (p a : Nat) : State := (s.bpmEpochs p a).poolWatch p

/-- A charge that must wait joins the waiting list once and is counted (R261, R273). -/
def waitBufs (s : State) (w : BufWait) : State :=
  let s := s.refusedCharge w.pool w.acct
  if s.bpmWait.contains w then s else { s.bump F.BPM_POOL_CNT_WAITS w.pool with bpmWait := s.bpmWait ++ [w] }

/-- The buffers of the chain headed by `i`; `fuel` bounds its length (at most 8). -/
def chainOf (s : State) : Nat → Nat → List Nat
  | 0, i => [i]
  | fuel + 1, i =>
    match (s.bufRec i).next with
    | none => [i]
    | some j => i :: chainOf s fuel j

/-- Returns the chain headed by `i` to the bitmap and takes its buffers off U (R261, R268); a chain with a poisoned record stays
allocated (R274). -/
def freeChain (s : State) (i : Nat) : State :=
  let c := s.chainOf 8 i
  let a := (s.bufRec i).account
  if c.any fun j => (s.bufRec j).poisoned then s else
  let s := c.foldl (fun t j => { t with recs := SMap.erase t.recs j }) s
  let s := s.setFld F.BPM_ACCT_USE_USE a (s.acctUse a - c.length)
  match s.poolOf i with
  | none => s
  | some p => (s.bpmEpochs p a).poolWatch p

/-- A release by a datapath block (R541): frees at REF 1, else drops one reference; never refused. -/
def release (s : State) (i : Nat) : State :=
  let r := s.bufRec i
  if r.poisoned then s
  else if r.refs == 1 then s.freeChain i
  else if 2 ≤ r.refs then s.setRec i { r with refs := r.refs - 1 } else s

/-- Releases the chain of a frame, if it has one. -/
def releaseOpt (s : State) : Option Nat → State
  | none => s
  | some i => s.release i

/-! ### Buffer operations (R268, R269) -/

/-- The RLD address of a buffer's record (R256, R271). -/
def recAddr (s : State) (i : Nat) : Nat := s.fld F.BPM_REGION_REC_BASE 0 * 0x1000000 + 8 * i

/-- A read of a record returns poison (R274): the record met an uncorrectable error since it was written. A free buffer's record reads
free whatever the record area holds (R544). -/
def recBad (s : State) (i : Nat) : Bool := (s.bufRec i).poisoned

/-- The records of allocated buffers in an RLD line that met an uncorrectable error are poisoned (R30, R274). -/
def poisonRecs (s : State) (line : Nat) : State :=
  { s with recs := s.recs.map fun e => if s.recAddr e.1 / 64 = line then (e.1, { e.2 with poisoned := true }) else e }

/-- The result of R269 for an operation of `who` on index `i`; 0 is OK. -/
def bufTest (s : State) (op : BufOp) (who : BitVec 16) (i : Nat) : Nat :=
  let r := s.bufRec i
  if (s.poolOf i).isNone then 5
  else if !r.member && r.refs == 0 then 4
  else if s.recBad i then 8
  else if r.member then 6
  else match op with
    | .free => if r.owner ≠ who then 2 else if r.refs ≠ 1 then 3 else if (s.chainOf 8 i).any s.recBad then 8 else 0
    | .drop => if r.refs < 2 then 3 else 0
    | .give => if r.owner ≠ who then 2 else 0
    | .share => if 255 ≤ r.refs then 7 else 0

/-- A refused operation is counted, captured and recorded (R269, R275). -/
def bufRefuse (s : State) (who : BitVec 16) (i code : Nat) : State :=
  let s :=
    if s.flag F.BPM_ERR_CAPTURE_VALID 0 then s
    else
      ((((s.setFld F.BPM_ERR_CAPTURE_INDEX 0 i).setFld F.BPM_ERR_CAPTURE_CAUSE 0 code).setFld F.BPM_ERR_CAPTURE_REQUESTER 0
        who.toNat).setFld F.BPM_ERR_CAPTURE_NAMED 0 (s.bufRec i).owner.toNat).setFld F.BPM_ERR_CAPTURE_VALID 0 1
  let detail := (s.reg .BPM_ERR_CAPTURE 0).toNat
  if code = 2 ∨ code = 3 then (s.bump F.BPM_ERR_CNT_REFUSED 0).raise 0x08 0x01 detail
  else (s.bump F.BPM_ERR_CNT_BAD 0).raise 0x08 0x02 detail

/-- A buffer operation of `who`: its result and effect (R268, R269). -/
def bufOp (s : State) (op : BufOp) (who : BitVec 16) (i : Nat) (newOwner : BitVec 16 := 0) : Nat × State :=
  let r := s.bufRec i
  match s.bufTest op who i with
  | 0 => (0, match op with
    | .free => s.freeChain i
    | .drop => s.setRec i { r with refs := r.refs - 1 }
    | .give => s.setRec i { r with owner := newOwner }
    | .share => s.setRec i { r with refs := r.refs + 1 })
  | 7 => (7, s)
  | 8 => (8, s)
  | code => (code, s.bufRefuse who i code)

/-! ### Data of a chain -/

/-- BUF_BASE (R253). -/
def bufBase (s : State) : Nat := s.fld F.BPM_REGION_BUF_BASE 0 * 0x1000000

/-- The RLD address of byte `off` of the chain headed by `i`, if the chain holds it. -/
def chainAddr (s : State) (i off : Nat) : Option Nat :=
  ((s.chainOf 8 i)[off / 2048]?).map fun j => s.bufBase + 2048 * j + off % 2048

/-- Bytes a chain can hold. -/
def chainCap (s : State) (i : Nat) : Nat := 2048 * (s.chainOf 8 i).length

/-- `n` bytes of a chain from offset `off`. -/
def chainRead (s : State) (i off n : Nat) : List Byte :=
  (List.range n).map fun k => match s.chainAddr i (off + k) with | some a => s.rldByte a | none => 0

/-- Some 64-byte line of the first `n` bytes of a chain carries a poison mark (R30, R94). -/
def chainBad (s : State) (i n : Nat) : Bool :=
  (List.range ((n + 63) / 64)).any fun k => match s.chainAddr i (64 * k) with | some a => s.rldBad a | none => false

/-- Writes bytes to a chain from offset `off`. -/
def chainWrite (s : State) (i : Nat) : Nat → List Byte → State
  | _, [] => s
  | off, b :: t =>
    let s' := match s.chainAddr i off with | some a => { s with rld := SMap.put 0 s.rld a b } | none => s
    chainWrite s' i (off + 1) t

/-- Writes a run of bytes to a chain, with the poison marks of R30 and R94 on the lines it touches. -/
def chainStore (s : State) (i off : Nat) (bs : List Byte) (bad : Bool) : State :=
  (List.range (bs.length / 2048 + 2)).foldl (fun t k =>
    let start := if k = 0 then off else off / 2048 * 2048 + 2048 * k
    let part := (bs.drop (start - off)).take (2048 - start % 2048)
    match t.chainAddr i start with
    | some a => if part.isEmpty then t else t.rldStore a part bad
    | none => t) s

end State

/-! ### Commands -/

/-- An access of the 64-byte line `line` completes at its RLC with the outcome of its ECC check (R30). -/
def State.rldAccess (s : State) (line : Nat) (ecc : Ecc) : State :=
  let n := (Config.rldStack line).val
  let s := s.bump F.RLC_ACCESS_CNT_COUNT n
  match ecc with
  | .ok => s
  | .corrected => (s.bump F.RLC_CE_CNT_COUNT n).raise (0x10 + n) 0x01 line
  | .uncorrected =>
    let s := s.bump F.RLC_UE_CNT_COUNT n
    let s :=
      if s.flag F.RLC_UE_ADDR_VALID n then s
      else (s.setFld F.RLC_UE_ADDR_LINE n line).setFld F.RLC_UE_ADDR_VALID n 1
    let s := (s.setPoison (64 * line) true).poisonRecs line
    (s.setEvt .RLC_EVT .RLC_EVT_EN .RLC_MSIX_VEC 0 n).raise (0x10 + n) 0x02 line

/-- RLD_ACCESS (R30): a 64-byte access completes at its RLC. -/
def execRldAccess (line : BitVec 31) (ecc : Ecc) (s : State) : Out3 := .next (s.rldAccess line.toNat ecc)

/-- A search of pool `pool` reads the bitmap word `word` with the outcome of its ECC check (R274): an uncorrected error takes the
word's buffers out of FREE until PORST_N. -/
def State.searchEcc (s : State) (pool word : Nat) : Ecc → State
  | .ok => s
  | .corrected => (s.bump F.BPM_STORE_ERR_CE 0).raise 0x08 0x04 word
  | .uncorrected =>
    let gone := ((List.range 64).map (64 * word + ·)).filter s.bitmap
    ((({ s with lostBufs := s.lostBufs ++ gone }).bump F.BPM_STORE_ERR_UE 0).raise 0x08 0x03 word).poolWatch pool

/-- CACHE_REFILL (R258, R274): a search of the bitmap reads the word with the pool's lowest free index, whose ECC check may fail (of
any search that meets it, log entry 87); it takes up to 64 free indices of the word into the Pier's cache, if the image names the pool
for the Pier and the cache holds fewer than 256. -/
def execCacheRefill (pier : Pier) (pool : Fin 256) (ecc : Ecc) (s : State) : Out3 := .next <|
  let c := s.cacheOf pier.val pool.val
  if s.pools ≤ pool.val then s
  else match s.lowestFree pool.val (s.occupied + 1) (s.poolBase pool.val) with
  | none => s
  | some i =>
    let word := i / 64
    let s := s.searchEcc pool.val word ecc
    if ecc == .uncorrected || 256 ≤ c.length || !(s.pierImg pier.val).pools.contains pool.val then s
    else
      let got := (((List.range 64).map (64 * word + ·)).filter fun j => s.bitmap j && s.inPool pool.val j).take (512 - c.length)
      (s.setCache pier.val pool.val (c ++ got)).poolWatch pool.val

/-- A BPM_BUF_CMD operation ends (R534, R542): RESULT, LAST_SEQ and BPM_EVT.CMD_DONE. -/
def State.bpmEnd (s : State) (q : Seq) (code : Nat) : State :=
  (s.endCmd F.BPM_BUF_STATUS_RESULT F.BPM_BUF_STATUS_LAST_SEQ 0 code q).setEvt .BPM_EVT .BPM_EVT_EN .BPM_MSIX_VEC 0 1

/-- A record as its 64 bits read (R256, R544). -/
def State.recWord (s : State) (i : Nat) : Word :=
  let r := s.bufRec i
  BitVec.ofNat 64 (r.owner.toNat + 2 ^ 16 * r.refs + 2 ^ 24 * b2n r.member + 2 ^ 25 * r.account +
    2 ^ 38 * (match r.next with | some j => j | none => i))

/-- The Manager's operation on BPM_BUF_ARG.INDEX; while one runs, a new one ends with BUSY (R534). -/
def State.mgrBuf (s : State) (q : Seq) (op : BufOp) : State :=
  let i := s.fld F.BPM_BUF_ARG_INDEX 0
  let o := BitVec.ofNat 16 (s.fld F.BPM_BUF_ARG_NEW_OWNER 0)
  let k := State.ownerKind o
  let o := if k = 1 ∨ k = 2 ∨ k = 3 ∨ k = 6 then o else State.ownerMf
  let (code, s) := s.bufOp op State.ownerMf i o
  s.bpmEnd q code

/-- READ_REC (R256, R268, R544). -/
def execReadRec (q : Seq) (s : State) : Out3 := .next <| s.onReg .BPM_BUF_CMD 0 (cmdWord 1 q) fun s =>
  let i := s.fld F.BPM_BUF_ARG_INDEX 0
  if s.fld F.BPM_INFO_BUFFERS 0 ≤ i then (s.bufRefuse State.ownerMf i 5).bpmEnd q 5
  else if s.recBad i then s.bpmEnd q 8
  else (s.setReg .BPM_BUF_REC 0 (s.recWord i)).bpmEnd q 0

/-- BPM_FREE (R268, R269). -/
def execBpmFree (q : Seq) (s : State) : Out3 := .next <| s.onReg .BPM_BUF_CMD 0 (cmdWord 2 q) fun s => s.mgrBuf q .free

/-- BPM_DROP (R268, R269). -/
def execBpmDrop (q : Seq) (s : State) : Out3 := .next <| s.onReg .BPM_BUF_CMD 0 (cmdWord 3 q) fun s => s.mgrBuf q .drop

/-- BPM_GIVE (R268, R269). -/
def execBpmGive (q : Seq) (s : State) : Out3 := .next <| s.onReg .BPM_BUF_CMD 0 (cmdWord 4 q) fun s => s.mgrBuf q .give

end Sys2Proof.Machine
end

