-- ==== Sys2Proof/Machine/Fcu.lean ====
section
/-!
DEFINITION. Fault collection and reaction (chapter 16): fault events, FAULT_N pulses and the safe-state commands.
-/

namespace Sys2Proof.Machine

/-- Puts a fault event at its place by source number; of equal sources the earlier stays first. -/
def insertBySource (e : FaultEv) : List FaultEv → List FaultEv
  | [] => [e]
  | a :: t => if a.source.toNat ≤ e.source.toNat then a :: insertBySource e t else e :: a :: t

/-- Fault events of one CSR_CLK cycle in the order in which the FCU takes them: lowest source number first (R463). -/
def bySource (es : List FaultEv) : List FaultEv := es.foldl (fun l e => insertBySource e l) []

/-- FAULT_EVENT (R462–R465): the fault events that reach the FCU in one CSR_CLK cycle are captured or counted. -/
def execFaultEvent (es : List FaultEv) (s : State) : Out3 := .next <|
  s.evtTogether .FCU_EVT .FCU_EVT_EN .FCU_MSIX_VEC 0 fun s => (bySource es).foldl State.faultEv s

/-- FAULT_PULSE_END (R465): the pulse ends; HOLD or the safe state may still hold the pin low. -/
def execFaultPulseEnd (s : State) : Out3 := .next (s.setFld F.FCU_PIN_PULSE 0 0)

/-- A safe-state command ends (R468, R475): result and SEQ, and SAFE_DONE if the device is then in RUN. -/
def State.safeEnd (s : State) (q : Seq) (code : Nat) : State :=
  let s := s.endCmd F.FCU_SAFE_STATUS_LAST_RESULT F.FCU_SAFE_STATUS_LAST_SEQ 0 code q
  if s.fld F.FCU_SAFE_STATUS_STATE 0 == 0 then s.setEvt .FCU_EVT .FCU_EVT_EN .FCU_MSIX_VEC 0 3 else s

/-- CFG_STATUS.STATE is DRAIN or SWAP (R48). -/
def State.swapping (s : State) : Bool := s.fld F.CFG_STATUS_STATE 0 == 3 || s.fld F.CFG_STATUS_STATE 0 == 4

/-- ENTER (R468): into SAFE, or into PENDING while a CFG command is in DRAIN or SWAP. -/
def execEnter (q : Seq) (s : State) : Out3 := .next <|
  match s.fld F.FCU_SAFE_STATUS_STATE 0 with
  | 0 =>
    if s.swapping then { s.setFld F.FCU_SAFE_STATUS_STATE 0 1 with enterSeq := q }
    else (s.enterSafe 1).safeEnd q 0
  | 1 => s.safeEnd q 1
  | _ => s.safeEnd q 0

/-- The capture, count and OVF bit of a class at their reset values (R472). -/
def State.scrubClass (s : State) (i : Nat) : State :=
  (((s.setReg .FCU_CAP i 0).setReg .FCU_DETAIL i 0).setReg .FCU_TIME i 0).setReg .FCU_CNT i 0

/-- The offset of an FCU register in its block, as SELF_REG names it in 16 bits (R472). -/
def fcuOff (r : Reg) : Nat := regOff r 0 % 0x10000

/-- The FCU registers that SCRUB does not rewrite: FCU_PIN, FCU_EVT_EN and FCU_MSIX_VEC (R472). -/
def scrubKeeps : List Nat := [fcuOff .FCU_PIN, fcuOff .FCU_EVT_EN, fcuOff .FCU_MSIX_VEC]

/-- A whole write of an FCU register stores its value with good parity (R472). -/
def State.fcuCure (s : State) (r : Reg) : State := { s with fcuBad := s.fcuBad.filter fun o => o ≠ fcuOff r }

/-- SCRUB (R472): in SAFE only. It cures the parity of every register that it rewrites, so its recheck finds one that it does not and
that no write has cured, or `bad`, the offset of a register whose parity fails again after it has been rewritten. -/
def execScrub (q : Seq) (bad : Option (BitVec 16)) (s : State) : Out3 := .next <|
  if !s.isSafe then s.safeEnd q 2
  else
    let s := (((s.scrubClass 0).scrubClass 1).scrubClass 2).setReg .FCU_EVT 0 0
    let s := { s with fcuBad := s.fcuBad.filter scrubKeeps.contains ++ bad.toList.map BitVec.toNat }
    match s.fcuBad.head? with
    | none => (s.setFld F.FCU_SAFE_STATUS_SELF_FAULT 0 0).safeEnd q 0
    | some r =>
      ((s.setFld F.FCU_SAFE_STATUS_SELF_FAULT 0 1).setFld F.FCU_SAFE_STATUS_SELF_REG 0 r).safeEnd q 3

/-- SELF (R468, R472): a parity error in FCU register `r`. A CFG command in DRAIN or SWAP ends at once with SWAP_FAULT in
FAILED, and the device is in SAFE; no section failed, so the TYPE bits of that fault's detail are a free value. -/
def State.selfFault (s : State) (r : BitVec 16) : State :=
  let mark (t : State) : State := ({ t with fcuBad := t.fcuBad.filter (· ≠ r.toNat) ++ [r.toNat] }.setFld F.FCU_SAFE_STATUS_SELF_FAULT 0 1).setFld F.FCU_SAFE_STATUS_SELF_REG 0 r.toNat
  if s.isSafe then mark s
  else
    let cut := s.swapping
    let s := mark (s.enterSafe 2)
    if cut then
      let (w, s) := s.fresh
      (s.cfgEnd s.cfgSeq 0x0F 5).raise 0x01 0x0F (s.cfgSeq.toNat + 2 ^ 16 * (w.toNat % 16))
    else s

end Sys2Proof.Machine
end

