-- ==== Sys2Proof/Machine/Fuse.lean ====
section
/-!
DEFINITION. The fuse array (R477, R478): its words, each stored as copy A and copy B, the fields they hold, and what a boot reads from
them. The places of the fields are those of R477's table, in its order, from word 0 (log entry 122).
-/

namespace Sys2Proof.Machine

/-- First words of the fields LC, UNIQUE_ID (8 words), GRADE, TS_CAL (256), UDS (24), OP_KEYS (24 to a slot), REVOKE (2), MIN_SVN (64) and
TH_MIN_SVN (32). -/
def fuseLc : Nat := 0
def fuseUid : Nat := 1
def fuseGrade : Nat := 9
def fuseCal : Nat := 10
def fuseUds : Nat := 266
def fuseKeys : Nat := 290
def fuseRevoke : Nat := 674
def fuseSvn : Nat := 676
def fuseThSvn : Nat := 740

/-- A value as `n` fuse words from `base`, least significant first. -/
def fuseSplit (base n v : Nat) : List (Nat × BitVec 16) := (List.range n).map fun k => (base + k, BitVec.ofNat 16 (v / 2 ^ (16 * k)))

/-- Writing fuse words only sets bits. -/
def burn (m : SMap (BitVec 16)) (ws : List (Nat × BitVec 16)) : SMap (BitVec 16) :=
  ws.foldl (fun m e => SMap.put 0 m e.1 (SMap.get 0 m e.1 ||| e.2)) m

/-- LC as R477 encodes it: 000, 001, 011 and 1x1; another value is none of them. -/
def lcState (v : Nat) : Option Nat :=
  match v % 8 with | 0 => some 0 | 1 => some 1 | 3 => some 2 | 5 => some 3 | 7 => some 3 | _ => none

namespace State

/-- SEC_LC.STATE (R476): 0 BLANK, 1 PROVISIONED, 2 DEPLOYED, 3 ANALYSIS. -/
def lifecycle (s : State) : Nat := s.fld F.SEC_LC_STATE 0

def fuseA (s : State) (w : Nat) : BitVec 16 := SMap.get 0 s.sec.fuseA w
def fuseB (s : State) (w : Nat) : BitVec 16 := SMap.get 0 s.sec.fuseB w

/-- The value of `n` words of copy A from `base`. -/
def fuseVal (s : State) (base n : Nat) : Nat := ((List.range n).map fun k => (s.fuseA (base + k)).toNat * 2 ^ (16 * k)).sum

/-- The copies of some of `n` words from `base` differ. -/
def fuseDiffers (s : State) (base n : Nat) : Bool := (List.range n).any fun k => s.fuseA (base + k) != s.fuseB (base + k)

/-- The SVN words of a field that are written, in order; one whose copies differ takes the higher (R478). -/
def svnWords (s : State) (base n : Nat) : List Nat :=
  ((List.range n).map fun k => max (s.fuseA (base + k)).toNat (s.fuseB (base + k)).toNat).filter (· != 0)

/-- The hash of a key slot (R479): a vendor slot's in ROM, an operator slot's in OP_KEYS; a slot whose copies differ is absent (R478). -/
def keyHash (s : State) (n : Nat) : Option (BitVec 384) :=
  let base := fuseKeys + 24 * (n - 16)
  if n < 16 then some (Config.romKeyHash n)
  else if s.fuseDiffers base 24 || s.fuseVal base 24 == 0 then none
  else some (BitVec.ofNat 384 (s.fuseVal base 24))

/-- A slot holds the hash of a key (R479). -/
def slotFull (s : State) (n : Nat) : Bool := (s.keyHash n).isSome

/-- The registers of the fuses take what a boot reads (R502); of the fields for whose copies R478 gives no rule, REVOKE is revoked where
either copy is and the others follow copy A (log entry 122). -/
def latchFuses (s : State) : State :=
  let svn := s.svnWords fuseSvn 64
  let th := s.svnWords fuseThSvn 32
  let revoked := s.fuseVal fuseRevoke 2 ||| ((s.fuseB fuseRevoke).toNat + 65536 * (s.fuseB (fuseRevoke + 1)).toNat)
  let s := (s.setFld F.SEC_LC_STATE 0 ((lcState (s.fuseVal fuseLc 1)).getD 0)).setFld F.TOP_GRADE_GRADE 0 (s.fuseVal fuseGrade 1 % 2)
  let s := (s.setReg .SEC_UID 0 (BitVec.ofNat 64 (s.fuseVal fuseUid 4))).setReg .SEC_UID_HI 0 (BitVec.ofNat 64 (s.fuseVal (fuseUid + 4) 4))
  let s := (s.setFld F.SEC_KEYS_REVOKED 0 revoked).setFld F.CFG_MIN_SVN_MIN_SVN 0 (svn.getLastD 0)
  ((s.setFld F.SEC_SVN_TH_MIN_SVN 0 (th.getLastD 0)).setFld F.SEC_SVN_SVN_WORDS_LEFT 0 (64 - svn.length)).setFld F.SEC_SVN_TH_WORDS_LEFT 0
    (32 - th.length)

/-- What has happened to a fuse word by a boot: the factory test wrote UNIQUE_ID, GRADE or TS_CAL in BLANK (R477), or a copy of a word no
longer reads as it was written. -/
def fuseEvent (s : State) : FuseEv → State
  | .factory w v =>
    if s.lifecycle = 0 ∧ fuseUid ≤ w.toNat ∧ w.toNat < fuseUds then
      { s with sec := { s.sec with fuseA := burn s.sec.fuseA [(w.toNat, v)], fuseB := burn s.sec.fuseB [(w.toNat, v)] } }
    else s
  | .decay false w v => { s with sec := { s.sec with fuseA := SMap.put 0 s.sec.fuseA w.toNat v } }
  | .decay true w v => { s with sec := { s.sec with fuseB := SMap.put 0 s.sec.fuseB w.toNat v } }

/-- The words of which copy A is written and copy B is blank, and those whose two written copies differ (R478). -/
def fuseGaps (s : State) : List (Nat × BitVec 16) := s.sec.fuseA.filter fun e => s.fuseB e.1 == 0
def fuseClashes (s : State) : List Nat :=
  (sortBy (fun a b => decide (a ≤ b)) ((s.sec.fuseA ++ s.sec.fuseB).map Prod.fst).eraseDups).filter fun w => s.fuseA w != s.fuseB w

/-- The ROM reads the fuses (R478, R482): copy B is completed, FUSE_UE is raised for each word whose copies differ, and the registers of
the fuses follow; UDS all ones with LC below ANALYSIS completes TO_ANALYSIS (R481). -/
def readFuses (s : State) : State :=
  let gaps := s.fuseGaps
  let s : State := { s with sec := { s.sec with fuseB := burn s.sec.fuseB gaps } }
  let s := s.setFld F.SEC_BOOT_STATUS_FUSE_REPAIRED 0 (b2n !gaps.isEmpty)
  let s := (s.fuseClashes.foldl (fun u w => u.raise 0x0C 0x02 w) s).latchFuses
  if s.fuseVal fuseUds 24 = 2 ^ 384 - 1 ∧ s.lifecycle < 3 then
    { s with sec := { s.sec with fuseA := burn s.sec.fuseA [(fuseLc, 5)], fuseB := burn s.sec.fuseB [(fuseLc, 5)] } }.setFld F.SEC_LC_STATE 0 3
  else s

/-- LC cannot be read: its copies differ, or it holds no encoding of R477. -/
def lcLost (s : State) : Bool := s.fuseDiffers fuseLc 1 || (lcState (s.fuseVal fuseLc 1)).isNone

end State

end Sys2Proof.Machine
end

