-- ==== Sys2Proof/Machine/ImageFile.lean ====
section
/-!
DEFINITION. The bytes of an image: its header, its section table, its signature block, and the checks of them (R38–R41, R50).
-/

namespace Sys2Proof

namespace ImgHdr

/-- VENDOR_DEBUG and RLD_TABLES (R38). -/
def vendorDebug (h : ImgHdr) : Bool := h.flags.getLsbD 0
def rldTables (h : ImgHdr) : Bool := h.flags.getLsbD 1

/-- The header that an image's bytes spell (R38). -/
def ofBytes (bs : List Byte) : ImgHdr :=
  let n (off k : Nat) : Nat := Machine.leAt bs off k
  { magic := n 0 4, hdrVersion := n 4 2, hdrSize := n 6 2, part := n 8 2, steppings := n 0xA 2, version := n 0xC 4, svn := n 0x10 2,
    flags := n 0x12 2, sectionCount := n 0x14 2, res16 := n 0x16 2, totalLen := n 0x18 4, tableOff := n 0x1C 4, buildId := n 0x20 8,
    signedLen := n 0x28 4, keyMldsa := n 0x2C 4, keyEcdsa := n 0x30 4, res34 := n 0x34 4,
    restZero := ((bs.drop 0x38).take 456).all (· == 0) }

/-- The checks of a header with a MAGIC (R38), for `len` bytes that were read. -/
def okAs (h : ImgHdr) (magic : BitVec 32) (len : Nat) : Bool :=
  h.magic == magic && h.hdrVersion == 1 && h.hdrSize == 0x200 && h.flags.toNat / 4 == 0 && h.res16 == 0 && h.res34 == 0 && h.restZero &&
    decide (h.totalLen.toNat = len ∧ len ≤ 0x2000000 ∧ h.totalLen.toNat = h.signedLen.toNat + 4728) &&
    decide (1 ≤ h.sectionCount.toNat ∧ h.sectionCount.toNat ≤ 64 ∧ 0x200 ≤ h.tableOff.toNat ∧
      h.tableOff.toNat + 32 * h.sectionCount.toNat ≤ h.signedLen.toNat)

/-- Step 1 of R50, for a header of an image of which `len` bytes were read. -/
def ok (h : ImgHdr) (len : Nat) : Bool := h.okAs 0x4147514E len

end ImgHdr

namespace SecEnt

/-- REQUIRED (R39). -/
def required (e : SecEnt) : Bool := e.flags.getLsbD 0

/-- The entry that 32 bytes spell (R39). -/
def ofBytes (bs : List Byte) : SecEnt :=
  let n (off k : Nat) : Nat := Machine.leAt bs off k
  { type := n 0 2, scope := n 2 1, flags := n 3 1, offset := n 4 4, length := n 8 4, schemaId := n 0xC 4, crc := n 0x10 4,
    restZero := ((bs.drop 0x14).take 12).all (· == 0) }

/-- The scope is the one that R40 gives the type: the device, a Pier, a Truss, or, for PARAMETERS, the device or a Pier. -/
def scopeOk (e : SecEnt) : Bool :=
  match e.type.toNat with
  | 1 | 2 | 8 | 9 => e.scope == 0xFF
  | 3 | 4 | 5 | 6 | 7 | 12 => decide (e.scope.toNat < 4)
  | 10 => decide (0x10 ≤ e.scope.toNat ∧ e.scope.toNat ≤ 0x1B)
  | 11 => e.scope == 0xFF || decide (e.scope.toNat < 4)
  | _ => !e.required

/-- An entry by itself as R39 and R40 ask: reserved bits, alignment, place, length, SCHEMA_ID, scope and CRC. -/
def ok (e : SecEnt) (h : ImgHdr) (bs : List Byte) : Bool :=
  e.flags.toNat / 2 == 0 && e.restZero && e.offset.toNat % 64 == 0 &&
    decide (h.tableOff.toNat + 32 * h.sectionCount.toNat ≤ e.offset.toNat ∧ e.offset.toNat + e.length.toNat ≤ h.signedLen.toNat) &&
    (e.length != 0 || e.type == 10) && (e.schemaId == 0 || e.type == 4) && e.scopeOk &&
    Machine.crc32c 0xFFFFFFFF ((bs.drop e.offset.toNat).take e.length.toNat) == e.crc

end SecEnt

/-- Ranges (first, count) of which no two overlap. -/
def Machine.disjoint (l : List (Nat × Nat)) : Bool :=
  (Machine.sortBy (fun a b => decide (a.1 ≤ b.1)) (l.filter fun r => r.2 != 0)).foldl
    (fun (a : Bool × Nat) r => (a.1 && decide (a.2 ≤ r.1), r.1 + r.2)) (true, 0) |>.1

namespace ImgFile

def hdr (f : ImgFile) : ImgHdr := .ofBytes f.bytes

/-- The section table (R39). -/
def secs (f : ImgFile) : List SecEnt :=
  let t := f.bytes.drop f.hdr.tableOff.toNat
  (List.range f.hdr.sectionCount.toNat).map fun k => .ofBytes ((t.drop (32 * k)).take 32)

/-- The image of the file: its header and table are those of its bytes, and the SCHEMA_IDs of a Pier's tables those of its
TABLE_SCHEMA sections, in their order. -/
def image (f : ImgFile) : Image :=
  let ids (p : Nat) : List (BitVec 32) := (f.secs.filter fun e => e.type == 4 && e.scope.toNat == p).map SecEnt.schemaId
  { f.content with
    hdr := f.hdr, secs := f.secs, digest := Config.sha384 (f.bytes.take f.hdr.signedLen.toNat),
    piers := f.content.piers.zipIdx.map fun x => { x.1 with tables := x.1.tables.zipIdx.map fun t => { t.1 with schemaId := (ids x.2).getD t.2 0 } } }

/-- The bytes that the signatures cover, and the two signatures (R41). -/
def signed (f : ImgFile) : List Byte := f.bytes.take f.hdr.signedLen.toNat
def mldsa (f : ImgFile) : List Byte := (f.bytes.drop (f.hdr.signedLen.toNat + 4)).take 4627
def ecdsa (f : ImgFile) : List Byte := (f.bytes.drop (f.hdr.signedLen.toNat + 0x1218)).take 96

/-- The signature block as R41 lays it out: the lengths it states and its padding. -/
def blockOk (f : ImgFile) : Bool :=
  let b := f.bytes.drop f.hdr.signedLen.toNat
  Machine.leAt b 0 2 == 4627 && Machine.leAt b 2 2 == 96 && Machine.leAt b 0x1217 1 == 0

/-- The sections of one type and scope. -/
def count (f : ImgFile) (type scope : Nat) : Nat := (f.secs.filter fun e => e.type.toNat == type && e.scope.toNat == scope).length

/-- The Count column of R40. -/
def countsOk (f : ImgFile) : Bool :=
  ([1, 2, 8, 9].all fun t => f.count t 0xFF == 1) && decide (f.count 11 0xFF ≤ 1) &&
    ((List.range 12).all fun t => f.count 10 (0x10 + t) == 1) &&
    (List.range 4).all fun p =>
      let x := f.content.piers.getD p {}
      let inits := x.init.map Prod.fst
      ([3, 5, 7].all fun t => f.count t p == 1) && f.count 4 p == x.tables.length && decide (f.count 6 p ≤ 1 ∧ f.count 11 p ≤ 1) &&
        f.count 12 p == inits.length && decide (inits.eraseDups = inits) && inits.all fun t => decide (t < x.tables.length)

/-- Step 6 of R50: the section table per R39 and R40, and each section's CRC. -/
def sectionsOk (f : ImgFile) : Bool :=
  (f.secs.all fun e => e.ok f.hdr f.bytes) && Machine.disjoint (f.secs.map fun e => (e.offset.toNat, e.length.toNat)) && f.countsOk

end ImgFile

end Sys2Proof
end

