-- ==== Sys2Proof/Machine/BlobBytes.lean ====
section
/-!
DEFINITION. The bytes of a Span context blob (R139) and of a queue context (R180). Multi-byte fields are little-endian and reserved
bytes 0. In the mailbox part the two words are followed by the full flags, bit 0 of the host-to-Span word and bit 1 of the other; an
MSI-X vector is a PCIe table entry: address, data, vector control with the mask in bit 0 (log entry 93).
-/

namespace Sys2Proof

open Machine

/-- The 256 bytes of a queue context (R180). -/
def QCtx.toBytes (c : QCtx) : List Byte :=
  let w0 := c.kind.toNat + 2 ^ 4 * c.state.toNat + 2 ^ 8 * c.eq.toNat + 2 ^ 16 * c.log2.toNat + 2 ^ 20 * b2n c.roHint
  toBytesLE 4 w0 ++ toBytesLE 4 (c.prefetch.toNat + 2 ^ 12 * c.bind.toNat) ++ toBytesLE 8 c.base.toNat ++
    toBytesLE 8 (c.pi.toNat + 2 ^ 16 * c.ci.toNat + 2 ^ 32 * c.di.toNat) ++
    toBytesLE 8 (c.modInterval.toNat + 2 ^ 16 * c.modCount.toNat) ++
    toBytesLE 4 (c.vec.toNat + 2 ^ 6 * b2n c.armed + 2 ^ 7 * b2n c.ovfPending) ++ toBytesLE 4 c.count.toNat ++
    toBytesLE 8 c.completions.toNat ++ toBytesLE 8 c.bytes.toNat ++ toBytesLE 4 c.malformed.toNat ++ List.replicate 196 0

/-- The queue context that 256 bytes spell (R180). -/
def QCtx.ofBytes (bs : List Byte) : QCtx :=
  let w0 := leAt bs 0 4
  let w4 := leAt bs 4 4
  let idx := leAt bs 0x10 8
  let mod := leAt bs 0x18 8
  let ev := leAt bs 0x20 4
  { kind := w0, state := w0 / 2 ^ 4, eq := w0 / 2 ^ 8, log2 := w0 / 2 ^ 16, roHint := w0 / 2 ^ 20 % 2 == 1
    prefetch := w4, bind := w4 / 2 ^ 12, base := leAt bs 8 8, pi := idx, ci := idx / 2 ^ 16, di := idx / 2 ^ 32
    modInterval := mod, modCount := mod / 2 ^ 16, vec := ev, armed := ev / 2 ^ 6 % 2 == 1, ovfPending := ev / 2 ^ 7 % 2 == 1
    count := leAt bs 0x24 4, completions := leAt bs 0x28 8, bytes := leAt bs 0x30 8, malformed := leAt bs 0x38 4 }

namespace Blob

/-- The 16 bytes before the CRC field (R139). -/
def headBytes (b : Blob) : List Byte :=
  toBytesLE 4 b.magic.toNat ++ toBytesLE 2 b.version.toNat ++ toBytesLE 2 b.queues ++ toBytesLE 4 b.srcSpan.toNat ++ toBytesLE 4 b.len

/-- The bytes after the CRC field, from 0x18 on (R139). -/
def restBytes (b : Blob) : List Byte :=
  let window (w : Word × Word × Word) : List Byte := toBytesLE 8 w.1.toNat ++ toBytesLE 8 w.2.1.toNat ++ toBytesLE 16 w.2.2.toNat
  let vec (v : Word × BitVec 32 × Bool) : List Byte := toBytesLE 8 v.1.toNat ++ toBytesLE 4 v.2.1.toNat ++ toBytesLE 4 (b2n v.2.2)
  toBytesLE 8 b.exportTime.toNat ++ toBytesLE 32 b.mode.toNat ++ (b.windows.map window).flatten ++
    toBytesLE 8 b.inWord.toNat ++ toBytesLE 8 b.outWord.toNat ++ toBytesLE 16 (b2n b.inFull + 2 * b2n b.outFull) ++ List.replicate 672 0 ++
    (b.msix.map vec).flatten ++ toBytesLE 8 b.pba.toNat ++ List.replicate 2040 0 ++ (b.contexts.map QCtx.toBytes).flatten

/-- A blob's bytes with a value of its CRC field, at 0x10 (R139). -/
def bytesCrc (b : Blob) (crc : Nat) : List Byte := b.headBytes ++ (toBytesLE 8 crc ++ b.restBytes)

/-- The CRC of a blob's bytes: CRC32C with the CRC field as 0 (R139). -/
def crcOf (bs : List Byte) : BitVec 32 := crc32c 0xFFFFFFFF (overlay bs 0x10 [0, 0, 0, 0])

/-- The blob that EXPORT writes (R136, R139). -/
def bytes (b : Blob) : List Byte := b.bytesCrc (crcOf (b.bytesCrc 0)).toNat

/-- A blob's CRC field is right (R137). -/
def crcOk (bs : List Byte) : Bool := leAt bs 0x10 4 == (crcOf bs).toNat

/-- The blob that bytes spell (R139). -/
def ofBytes (bs : List Byte) : Blob :=
  let w (off : Nat) : Word := leAt bs off 8
  let q := leAt bs 6 2
  { magic := leAt bs 0 4, version := leAt bs 4 2, queues := q, srcSpan := leAt bs 8 2, len := leAt bs 0xC 4, exportTime := w 0x18
    mode := leAt bs 0x20 1, windows := (List.range 8).map fun k => (w (0x40 + 32 * k), w (0x48 + 32 * k), w (0x50 + 32 * k))
    inWord := w 0x140, outWord := w 0x148, inFull := leAt bs 0x150 1 % 2 == 1, outFull := leAt bs 0x150 1 / 2 % 2 == 1
    msix := (List.range 64).map fun k => (w (0x400 + 16 * k), BitVec.ofNat 32 (leAt bs (0x408 + 16 * k) 4), leAt bs (0x40C + 16 * k) 1 % 2 == 1)
    pba := w 0x800, contexts := (List.range q).map fun k => .ofBytes ((bs.drop (0x1000 + 256 * k)).take 256) }

end Blob

end Sys2Proof
end

