-- ==== Sys2Proof/Machine/Stu.lean ====
section
/-!
DEFINITION. Span translation (chapter 04) and the host requests that go through it (chapter 03): translation and its faults,
tags, single pieces of a device request, dirty-page logging, INFLIGHT and DRAINED.
-/

namespace Sys2Proof.Machine

/-- How an address translates now (R125–R128). -/
inductive Tr where
  | ok (target : Nat) (big : Bool)
  | miss
  | fault (code : Nat)
  deriving DecidableEq, Repr

/-- What becomes of one piece of a request: it went out; it waits (Bus Master Enable 0, no tag, a TDI in ERROR); it needs a
table walk; or it ends with a status code of R163. -/
inductive Iss where
  | out (s : State)
  | hold
  | walk
  | fail (s : State) (code : Nat)

namespace State

/-! ### Quiet Spans and translation faults (R119, R127) -/

/-- Captures a refusal or fault in STU_FAULT_CAPTURE if VALID is 0; KIND 0 translation, 1 quiesced refusal. -/
def stuCapture (s : State) (n kind : Nat) (write : Bool) (addr : Nat) : State :=
  if s.flag F.STU_FAULT_CAPTURE_VALID 0 then s
  else s.setReg .STU_FAULT_CAPTURE 0 (BitVec.ofNat 64
    (n + 2 ^ 12 * kind + 2 ^ 14 * b2n write + 2 ^ 15 + 2 ^ 16 * (addr / 4096 % 2 ^ 36)))

/-- A request under the tag of a quiet Span is refused (R119). -/
def refuseQuiet (s : State) (n : Nat) (write : Bool) (addr : Nat) : State :=
  (s.bump F.STU_FAULT_CNT_QUIESCED 0).stuCapture n 1 write addr

/-- A translation fault (R127). -/
def xlateFault (s : State) (n : Nat) (write : Bool) (addr : Nat) : State :=
  ((s.bump F.STU_FAULT_CNT_XLATE 0).stuCapture n 0 write addr).stuEvt 2


/-- A cached translation that covers an address (R128). -/
def covers (n addr : Nat) (x : Xlate) : Bool :=
  x.span == n && (if x.big then x.page / 512 == addr / 0x200000 else x.page == addr / 4096)

/-- Translates an input address of Span `n` (R125, R126): OFF faults, PASS sends the address as it is, WALK and ATS use the
cache; an address beyond the width faults. A fault carries its status code (R163). -/
def xlate (s : State) (n : Nat) (write : Bool) (addr : Nat) : Tr :=
  let mode := s.fld F.STU_CTX_XLATE_MODE n
  if mode = 0 then .fault 3
  else if mode = 3 then .ok addr false
  else if mode = 1 ∧ 2 ^ (if s.flag F.STU_CTX_XLATE_LEVELS n then 48 else 39) ≤ addr then .fault 3
  else match s.tlb.find? (covers n addr) with
    | none => .miss
    | some x =>
      if x.fail ≠ 0 then .fault x.fail
      else if (if write then x.write else x.read) then .ok (x.target + addr % (if x.big then 0x200000 else 4096)) x.big
      else .fault 3

/-! ### Tags (R69, R90) -/

def tag (s : State) (h t : Nat) : Tag := SMap.get .free s.tags (16384 * h + t)
def setTag (s : State) (h t : Nat) (x : Tag) : State := { s with tags := SMap.put .free s.tags (16384 * h + t) x }

/-- The lowest free tag of link `h` from `t` on. -/
def freeTag (s : State) (h : Nat) : Nat → Nat → Option Nat
  | 0, _ => none
  | fuel + 1, t => if s.tag h t = .free then some t else freeTag s h fuel (t + 1)

/-! ### One piece of a request (R83, R88, R94, R119, R127) -/

/-- A posted write to target address `a` by function `f`: dropped and counted toward a link that is not Up (R83); poisoned
data goes out with EP set and is counted (R94); a TLP of an Insecure stream is dropped (R101). -/
def sendWrite (s : State) (f : Fn) (a : Nat) (data : List Byte) (bad : Bool) (relaxed : Bool := false) : State :=
  if !s.linkUp (s.fnLink f) then s.bump F.HEP_DROP_CNT_COUNT 0
  else if s.ideDrops f then s
  else
    let s := if bad then s.bump F.HEP_POISON_CNT_OUT 0 else s
    s.emit (.hostWrite f a data bad relaxed)

/-- A request TLP of function `f` leaves, unless its stream is Insecure (R101): then nothing answers it. -/
def sendReq (s : State) (f : Fn) (o : Out) : State := if s.ideDrops f then s else s.emit o

/-- A read of `len` bytes at target address `a`: it takes a tag, or waits for one. -/
def sendRead (s : State) (r : HostReq) (a : Nat) (relaxed : Bool := false) : Iss :=
  let h := s.fnLink r.fn
  if !s.linkUp h then .fail s 9
  else match s.freeTag h 16384 0 with
    | none => .hold
    | some t => .out ((s.setTag h t (.outstanding r)).sendReq r.fn (.hostRead r.fn a r.len relaxed))

/-- The function may issue nothing now: Bus Master Enable 0 or D3hot (R78, R88), or its TDI is in ERROR (R104). -/
def muted (s : State) (f : Fn) (n : Option Nat) : Bool :=
  !(s.fn f).bme || (s.fn f).d3hot || (match n with | some k => (s.span k).tdi == .error | none => false)

/-- Requests of the Management Function wait (R88, R469); a link that is not Up takes none (R83). -/
def mfWaits (s : State) : Bool := s.isSafe || (s.muted .mf none && s.linkUp s.mgmtLink)

/-! ### Dirty-page logging (R133–R135) -/

/-- A bitmap write of Span `n` cannot be delivered (R135). -/
def logLost (s : State) (n : Nat) : State := (s.setFld F.STU_LOG_CTL_LOST n 1).raise 0x05 0x03 n

/-- The read of a bitmap line, through the management link: undeliverable while that link is not Up (R83, R135). -/
def logRead (s : State) (x : LogLine) : State :=
  let j : Job := { fn := .mf, span := none, dep := .log x.span x.addr, write := false, parts := [{ addr := x.addr, len := 64 }] }
  if !s.linkUp s.mgmtLink then (s.bump F.HEP_DROP_CNT_COUNT 0).logLost x.span
  else
    let s : State := { s with logs := s.logs ++ [x] }
    if s.muted .mf none then { s with stalled := s.stalled ++ [j] }
    else match s.sendRead { fn := .mf, span := none, dep := j.dep, addr := x.addr, len := 64 } x.addr with
      | .out t => t
      | _ => { s with stalled := s.stalled ++ [j] }

/-- One logged page: OVER beyond the limit, or its bit joins those gathered for its 64-byte line of the active bitmap. -/
def logPage (s : State) (n page : Nat) : State :=
  if s.fld F.STU_LOG_CTL_LIMIT_PAGES n ≤ page then (s.setFld F.STU_LOG_CTL_OVER n 1).stuEvt 3
  else
    let b := s.flag F.STU_LOG_CTL_CUR n
    let a := 4096 * s.fld (if b then F.STU_LOG_BASE_B_BASE else F.STU_LOG_BASE_A_BASE) n + page / 512 * 64
    if s.logs.any fun x => x.span == n && x.mapB == b && x.addr == a then
      { s with logs := s.logs.map fun x => if x.span = n ∧ x.mapB = b ∧ x.addr = a then { x with bits := x.bits ++ [page % 512] } else x }
    else s.logRead ⟨n, b, a, [page % 512]⟩

/-- A device write of `len` bytes at input address `addr` under the Span tag (R133). -/
def logWrite (s : State) (n addr len : Nat) : State :=
  if s.flag F.STU_LOG_CTL_EN n && decide (0 < len) then
    (List.range ((addr + len - 1) / 4096 - addr / 4096 + 1)).foldl (fun t i => t.logPage n (addr / 4096 + i)) s
  else s

/-- Issues one piece of a job: the safe state issues none (R469); then a quiet Span refuses (R119), a link that is not Up takes
nothing (R83), with LOST for a dirty-page line (R135), and a function that may issue nothing now waits, or ends its work with SPAN_QUIESCED in Quiescing (R88, R115). -/
def issuePiece (s : State) (j : Job) (p : Part) : Iss :=
  if s.isSafe then .hold else
  let req : HostReq := { fn := j.fn, span := j.span, dep := j.dep, part := j.part, page := p.addr / 4096, addr := p.addr, len := p.len }
  let down := !s.linkUp (s.fnLink j.fn)
  let dropped := match j.write, j.dep with
    | true, .log n _ => Iss.out ((s.bump F.HEP_DROP_CNT_COUNT 0).logLost n)
    | true, _ => .out (s.bump F.HEP_DROP_CNT_COUNT 0)
    | false, _ => .fail s 9
  match j.span with
  | none =>
    if down then dropped
    else if s.muted j.fn none then .hold
    else if j.write then .out (s.sendWrite j.fn p.addr p.data (j.poisoned || p.poisoned) j.relaxed)
    else s.sendRead req p.addr j.relaxed
  | some n =>
    if s.spanQuiet n then .fail (s.refuseQuiet n j.write p.addr) 9
    else if down then dropped
    else if s.muted j.fn (some n) then (if (s.span n).state = .quiescing then .fail s 9 else .hold)
    else match s.xlate n j.write p.addr with
      | .fault c => .fail (if c = 3 then s.xlateFault n j.write p.addr else s) c
      | .miss => .walk
      | .ok a big =>
        if j.write then .out ((s.sendWrite j.fn a p.data (j.poisoned || p.poisoned) j.relaxed).logWrite n p.addr p.data.length)
        else s.sendRead { req with big := big } a j.relaxed

/-- Max Read Request Size and Max Payload Size of a function (R69): those of the requesting function itself, a VF's own too (log 127). -/
def readMax (s : State) (f : Fn) : Nat := min 4096 (128 * 2 ^ (s.fn f).mrrs.toNat)
def writeMax (s : State) (f : Fn) : Nat := min 512 (128 * 2 ^ (s.fn f).mps.toNat)

/-- A range cut at 4 KiB boundaries (R127) into pieces of at most `m` bytes. -/
def pieces (m : Nat) : Nat → Nat → Nat → List Part
  | 0, _, _ => []
  | fuel + 1, a, n =>
    if n = 0 then []
    else
      let k := min n (min m (4096 - a % 4096))
      { addr := a, len := k } :: pieces m fuel (a + k) (n - k)

/-- Bytes to write from an address on, cut in the same way. -/
def writePieces (m : Nat) : Nat → Nat → List Byte → List Part
  | 0, _, _ => []
  | _, _, [] => []
  | fuel + 1, a, bs =>
    let k := min bs.length (min m (4096 - a % 4096))
    { addr := a, len := k, data := bs.take k } :: writePieces m fuel (a + k) (bs.drop k)

/-- The read requests for a range, and the writes of bytes, by a function (R69, R127). -/
def readCut (s : State) (f : Fn) (a n : Nat) : List Part := pieces (s.readMax f) (n / s.readMax f + n / 4096 + 2) a n
def writeCut (s : State) (f : Fn) (a : Nat) (bs : List Byte) : List Part :=
  writePieces (s.writeMax f) (bs.length / s.writeMax f + bs.length / 4096 + 2) a bs

/-! ### Table walks (R125, R126) -/

/-- Sends the read of a walk's level, or its ATS request, under a free tag of the Span's link; the walk waits while its function may
issue nothing or no tag is free. The table's reads are the PF's, untranslated; an ATS request is the VF's. -/
def walkSend (s : State) (j : Job) : Job × State :=
  match j.span, j.parts with
  | some n, p :: _ =>
    let f : Fn := if j.walk.ats then j.fn else match j.fn with | .vf h _ => .pf h | g => g
    let h := s.fnLink j.fn
    let a := if j.walk.ats then p.addr / 4096 * 4096 else j.walk.table + 8 * (p.addr / 2 ^ (12 + 9 * j.walk.level) % 512)
    if s.isSafe || s.muted f none || s.tdiRefuses j.fn then (j, s)
    else match s.freeTag h 16384 0 with
      | none => (j, s)
      | some t =>
        let s := s.setTag h t (.outstanding { fn := f, span := some n, dep := .walk, page := p.addr / 4096, addr := a, len := 8 })
        ({ j with walk := { j.walk with tag := some (16384 * h + t) } }, s.sendReq f (if j.walk.ats then .atsRequest f a else .hostRead f a 8 false))
  | _, _ => (j, s)

/-! ### INFLIGHT and DRAINED (R116) -/

/-- Host requests outstanding of a Span; a walk's read counts as its walk. -/
def spanRequests (s : State) (n : Nat) : Nat :=
  (s.tags.filter fun e => match e.2 with | .outstanding r => r.span == some n && r.dep != .walk | _ => false).length

/-- Table walks under way of a Span. -/
def spanWalks (s : State) (n : Nat) : Nat := (s.walks.filter fun j => j.span == some n).length

/-- Entries begun by the QE and not completed; those that firmware holds are not counted. -/
def spanBegun (s : State) (n : Nat) : Nat :=
  (s.queues.map fun e => if e.2.used && e.2.span == n && e.2.kind != 2 then (e.2.begun.filter fun b => !b.written).length else 0).sum

def inflight (s : State) (n : Nat) : Nat := s.spanRequests n + s.spanWalks n + s.spanBegun n

/-- DRAINED follows INFLIGHT of a Quiescing Span; reaching 0 sets the map bit and the event (R109, R116). -/
def refreshDrained (s : State) (n : Nat) : State :=
  let x := s.span n
  if x.state ≠ .quiescing then s
  else if s.inflight n = 0 then
    if x.drained then s else ((s.setSpan n { x with drained := true }).setMap .STU_DRAINED_MAP n).stuEvt 0
  else if x.drained then s.setSpan n { x with drained := false } else s

/-- As `refreshDrained`, for the Span of a request that has one. -/
def refreshOpt (s : State) : Option Nat → State
  | none => s
  | some n => s.refreshDrained n

/-- A walk starts for the first piece of a job (R125, R126); it counts in INFLIGHT (R116). -/
def walkStart (s : State) (j : Job) : State :=
  let n := j.span.getD 0
  let w : WalkAt := { ats := s.fld F.STU_CTX_XLATE_MODE n == 2, level := if s.flag F.STU_CTX_XLATE_LEVELS n then 3 else 2,
                      table := 4096 * s.fld F.STU_CTX_XLATE_ROOT n }
  let (j, s) := s.walkSend { j with walk := w }
  { s with walks := s.walks ++ [j] }.refreshDrained n

end State

end Sys2Proof.Machine
end

