-- ==== Sys2Proof/Machine/Queue.lean ====
section
/-!
DEFINITION. Work queues (chapter 05): entries, event rings and moderation, completions in place, queue errors, and the jobs
that fetch entries and move their data.
-/

namespace Sys2Proof.Machine

/-- Bits `[lo + n - 1 : lo]` of a cell. -/
def cellBits (c : Cell16) (lo n : Nat) : Nat := c.toNat / 2 ^ lo % 2 ^ n

namespace Entry

/-- The header cell and its fields (R154, R156). -/
def hdr (e : Entry) : Cell16 := e.cells.headD 0
def opcode (e : Entry) : Nat := cellBits e.hdr 0 8
def barrier (e : Entry) : Bool := cellBits e.hdr 13 1 == 1
def launch (e : Entry) : Bool := cellBits e.hdr 14 1 == 1
def irq (e : Entry) : Bool := cellBits e.hdr 15 1 == 1
def inlineLen (e : Entry) : Nat := cellBits e.hdr 80 16

/-- The cells after the header and after the launch cell (R157). -/
def body (e : Entry) : List Cell16 := e.cells.drop (if e.launch then 2 else 1)

/-- The elements of a SEND or RECV: address and length (R157); a LEN of 16,385 to 32,767 stands as it is (log entry 106). -/
def elements (e : Entry) : List (Nat × Nat) := e.body.map fun c => (cellBits c 0 64, cellBits c 64 15)

/-- The launch time of cell 1 (R157). -/
def launchTime (e : Entry) : Word := ((e.cells.getD 1 0).setWidth 64)

/-- The bytes of a cell, low byte first. -/
def cellBytes (c : Cell16) : List Byte := toBytesLE 16 c.toNat

/-- The inline frame bytes of a SEND_INLINE (R157). -/
def inlineBytes (e : Entry) : List Byte := ((e.body.map cellBytes).flatten).take e.inlineLen

/-- R162 on a queue of kind `k` (kinds 4–15 act as TX, R144). -/
def malformed (e : Entry) (k : Nat) : Bool :=
  let k := if 4 ≤ k then 0 else k
  let op := e.opcode
  let n := e.cells.length
  let allowed := match k with
    | 0 => op == 0 || op == 1 || op == 2
    | 1 => op == 0 || op == 0x10
    | 2 => op == 0 || decide (0x80 ≤ op)
    | _ => false
  let least := if op = 1 ∨ op = 2 then (if e.launch then 3 else 2) else if op = 0x10 then 2 else 1
  !allowed || cellBits e.hdr 12 1 == 1 || decide (n < least) || (e.launch && !(op == 1 || op == 2)) ||
    ((op == 1 || op == 0x10) && e.elements.any fun x => x.2 == 0) ||
    (op == 2 && (e.inlineLen == 0 || decide (16 * e.body.length < e.inlineLen)))

end Entry

/-- The first status cause of R539 in a list of causes; 0 with none. MALFORMED excludes the others. -/
def firstCause (cs : List Nat) : Nat :=
  (([1, 14, 3, 4, 9, 5, 6, 7, 8, 11, 12, 10, 13, 2] : List Nat).find? cs.contains).getD 0

/-- The STATUS of a begun entry (R418, R539). -/
def Begun.status (b : Begun) : Nat := b.given.getD (firstCause b.causes)

/-- The entry's end is known: no request of it is outstanding, and it has its result, or causes with nothing handed to a
pipeline or a Truss. -/
def Begun.ready (b : Begun) : Bool := !b.written && b.parts == 0 && (b.result.isSome || (!b.causes.isEmpty && !b.handed))

/-- Cell 0 and cell 1 of a completion (R159). -/
def complCell0 (h : Cell16) (status : Nat) (c : Cpl) : Cell16 :=
  BitVec.ofNat 128 (cellBits h 0 12 + 2 ^ 12 + 2 ^ 13 * cellBits h 13 3 + 2 ^ 16 * (status % 256) + 2 ^ 32 * cellBits h 32 32 +
    2 ^ 64 * (c.bytes % 2 ^ 32) + 2 ^ 96 * c.info.toNat)

def complCell1 (c : Cpl) : Cell16 := BitVec.ofNat 128 (c.time.toNat + 2 ^ 64 * c.hash.toNat + 2 ^ 96 * c.mark.toNat)

/-- A TX queue; kinds 4–15 act as TX (R144). -/
def Queue.isTx (x : Queue) : Bool := x.kind == 0 || decide (4 ≤ x.kind)

/-- What became of a posted ring write: written, discarded and so finished (R88, R116, R119), waiting, or a fault. -/
inductive Post where
  | ok (s : State)
  | drop (s : State)
  | wait (s : State)
  | fault (s : State) (code : Nat)

namespace State

/-- Ring size in cells (R146). -/
def ringSize (s : State) (q : Nat) : Nat := 2 ^ (s.fld F.QE_CTX_RING_LOG2_SIZE q)

/-- Address of cell `c` of a ring (R146). -/
def ringAddr (s : State) (q : Nat) (c : BitVec 16) : Nat :=
  s.fld F.QE_CTX_RING_BASE q * 256 + 16 * (c.toNat % s.ringSize q)

/-- Cells from `a` to `b` (R148). -/
def dist (a b : BitVec 16) : Nat := (b - a).toNat

/-- The device-wide EVENT queue that a queue's EQ names; none for 0xFF (R182). -/
def eventQueue (s : State) (q : Nat) : Option Nat :=
  let e := s.fld F.QE_CTX_CFG_EQ q
  if e = 0xFF then none
  else match s.queueNo (s.queue q).span e with
    | some k => if (s.queue k).kind = 3 then some k else none
    | none => none

/-- Sets bit `b` of QE_EVT. -/
def qeEvt (s : State) (b : Nat) : State := s.setEvt .QE_EVT .QE_EVT_EN .QE_MSIX_VEC 0 b

/-- Captures a queue error if VALID is 0 (R162, R167). -/
def qeCapture (s : State) (q : Nat) (cell : BitVec 16) (status : Nat) : State :=
  if s.flag F.QE_ERR_CAPTURE_VALID 0 then s
  else s.setReg .QE_ERR_CAPTURE 0 (BitVec.ofNat 64 (q + 2 ^ 16 * cell.toNat + 2 ^ 32 * status + 2 ^ 40))

/-- Pending Quiesced values of a queue take effect (R167). -/
def queueQuiesced (s : State) (q : Nat) : State :=
  (s.applyMask .QE_CTX_RING q (Reg.quiescedMask .QE_CTX_RING)).applyMask .QE_CTX_CFG q (Reg.quiescedMask .QE_CTX_CFG)

/-- A posted ring write of 16 bytes: in the safe state it waits (R469); a quiet Span refuses it and a link that is not Up drops it, both
counted (R83, R119); it waits while Bus Master Enable is 0, unless the Span is Quiescing, where it is discarded and counts as finished
(R88, R116); a missing translation starts a walk. -/
def ringWrite (s : State) (q : Nat) (c : BitVec 16) (cell : Cell16) : Post :=
  let n := (s.queue q).span
  match s.spanFn n with
  | none => .drop s
  | some f =>
    if s.isSafe then .wait s
    else
      let j : Job := { fn := f, span := some n, dep := .other, write := true, parts := [] }
      match s.issuePiece j { addr := s.ringAddr q c, len := 16, data := toBytesLE 16 cell.toNat } with
      | .out t => .ok t
      | .hold => .wait s
      | .walk =>
        let w := { j with parts := [{ addr := s.ringAddr q c, len := 0 }] }
        .wait (if s.walks.any fun k => k.span == w.span && k.write && k.parts == w.parts then s else s.walkStart w)
      | .fail t code => if code = 9 then .drop t else .fault t code

/-! ### The receive inputs (R183, R538) -/

def rx (s : State) (p : Nat) : List Pkt := SMap.get [] s.rxIn p
def setRx (s : State) (p : Nat) (l : List Pkt) : State := { s with rxIn := SMap.put [] s.rxIn p l }

/-- A frame of an RX queue is dropped and counted (R88, R183), and its chain released (R541). -/
def rxDrop (s : State) (q : Nat) (f : Pkt) : State :=
  let x := s.queue q
  ((s.setQueue q { x with drops := satAdd 32 x.drops 1 }).bump F.QE_RX_DROP_CNT_COUNT 0).releaseOpt f.head

/-- The frames that wait for a queue as it leaves ACTIVE are dropped; one whose entry has begun stays until its data writes are issued
(R183, R538). -/
def rxFlush (s : State) (q : Nat) : State :=
  let mine (f : Pkt) : Bool := f.rxq == some q && f.placed.isNone
  (List.range 4).foldl (fun u p => ((u.rx p).filter mine).foldl (fun v f => v.rxDrop q f) (u.setRx p ((u.rx p).filter fun f => !mine f))) s

/-- The frames that wait for an RX queue are dropped once it has no entry cached, no fetch in flight and PI = CI (R183). -/
def rxStarve (s : State) (q : Nat) : State :=
  let x := s.queue q
  if x.kind = 1 ∧ x.pi = x.ci ∧ x.fetching = 0 ∧ x.cached.isEmpty then s.rxFlush q else s

/-- The frame of a RECV entry leaves the input, and its chain is released, once no data write of it is left to issue (R538, R541). -/
def rxIssued (s : State) (q : Nat) (cell : BitVec 16) : State :=
  let mine (f : Pkt) : Bool := f.rxq == some q && f.placed == some cell
  if (s.queue q).begun.any fun b => b.entry.cell == cell && b.parts != 0 then s
  else (List.range 4).foldl (fun u p => ((u.rx p).filter mine).foldl (fun v f => v.releaseOpt f.head) (u.setRx p ((u.rx p).filter fun f => !mine f))) s

/-- Enters ERROR: fetching stops, the error is counted, captured and flagged (R167), and the frames that wait are dropped (R183). -/
def enterError (s : State) (q : Nat) (code : Nat) (cell : BitVec 16) : State :=
  let x := s.queue q
  if x.state ≠ .active then s
  else
    let s := s.setQueue q { x with state := .error, fetching := 0 }
    (((s.bump F.QE_ERR_CNT_Q_ERRORS 0).qeCapture q cell code).qeEvt 0).queueQuiesced q |>.rxFlush q

/-! ### Event rings (R168–R172) -/

/-- An event entry (R168). -/
def eventCell (s : State) (ring : Nat) (type queue status : Nat) (di : BitVec 16) (count : Nat) : Cell16 :=
  let pi := (s.queue ring).pi.toNat
  let phase := 1 - pi / s.ringSize ring % 2
  BitVec.ofNat 128 (type + 2 ^ 8 * phase + 2 ^ 16 * queue + 2 ^ 24 * (status % 256) + 2 ^ 32 * di.toNat +
    2 ^ 48 * (min count 0xFFFF) + 2 ^ 64 * s.wide.toNat)

/-- The event ring is full (R148). -/
def ringFull (s : State) (q : Nat) : Bool := decide (s.ringSize q ≤ dist (s.queue q).ci (s.queue q).pi)

/-- After an event is written: PI advances, and an armed ring sends its vector and disarms (R170). -/
def eventDone (s : State) (ring : Nat) : State :=
  let x := s.queue ring
  let s := s.setQueue ring { x with pi := x.pi + 1, armed := false }
  if x.armed then
    match s.spanFn x.span with
    | some f => s.msixSend f (s.fld F.QE_CTX_EVT_VEC ring)
    | none => s
  else s

/-- An event that is not written (R171): pending bit, OVF_CNT and OVF_PENDING. OVF_CNT stays at its top (log 130). -/
def overflow (s : State) (ring q : Nat) : State :=
  let x := s.queue ring
  let i := (s.queue q).index
  s.setQueue ring { x with pend := x.pend ||| ((1 : BitVec 256) <<< i), drops := satAdd 32 x.drops 1,
                           ovfPending := true, ovfSince := x.ovfSince + 1 }

/-- The OVERFLOW event, before any other, once an ACTIVE ring has space (R171). -/
def flushOverflow (s : State) (ring : Nat) : State :=
  let x := s.queue ring
  if x.ovfPending && x.state == .active && !s.ringFull ring then
    match s.ringWrite ring x.pi (s.eventCell ring 2 0 0 0 x.ovfSince) with
    | .ok t => (t.setQueue ring { t.queue ring with ovfPending := false, ovfSince := 0 }).eventDone ring
    | .drop t => t.setQueue ring { t.queue ring with ovfPending := false, ovfSince := 0 }
    | .wait t => t
    | .fault t code => t.enterError ring code x.pi
  else s

/-- Tries to write one event; `false` with the state when it must wait in place (R88, R126). A QUEUE_ERROR event carries COUNT 0 and is
not the queue's previous event of R169 (log 128). -/
def tryEvent (s : State) (ring : Nat) (ev : EvItem) : Bool × State :=
  let s := s.flushOverflow ring
  let x := s.queue ring
  let y := s.queue ev.queue
  if x.state ≠ .active || s.ringFull ring then (true, s.overflow ring ev.queue)
  else if x.ovfPending then (false, s)
  else
    let status := if ev.type = 1 then y.badSince else ev.status
    let count := if ev.type = 1 then y.sinceEvent else 0
    let covered (t : State) : State :=
      if ev.type = 1 then t.setQueue ev.queue { t.queue ev.queue with sinceEvent := 0, badSince := 0 } else t
    match s.ringWrite ring x.pi (s.eventCell ring ev.type y.index status y.di count) with
    | .ok t => (true, (covered t).eventDone ring)
    | .drop t => (true, covered t)
    | .wait t => (false, t)
    | .fault t code => (true, (t.enterError ring code x.pi).overflow ring ev.queue)

/-- Writes the events that wait at a ring, in order, as far as they can be written. -/
def drainEvents (s : State) (ring : Nat) : List EvItem → State
  | [] => s.setQueue ring { s.queue ring with evWait := [] }
  | ev :: t =>
    match s.tryEvent ring ev with
    | (true, s') => drainEvents s' ring t
    | (false, s') => s'.setQueue ring { s'.queue ring with evWait := ev :: t }

/-- A queue writes an event to its event ring, behind those that wait (R169, R170). -/
def postEvent (s : State) (q type status : Nat) : State :=
  match s.eventQueue q with
  | none => s
  | some ring => s.drainEvents ring ((s.queue ring).evWait ++ [⟨type, q, status⟩])

/-- A ring fetch, completion write or event write of a queue faults (R167). -/
def queueError (s : State) (q : Nat) (code : Nat) (cell : BitVec 16) : State :=
  if (s.queue q).state = .active then (s.enterError q code cell).postEvent q 3 code else s

/-- Event moderation of one completion that feeds it (R169). -/
def moderate (s : State) (q : Nat) : State :=
  let x := s.queue q
  let count := s.fld F.QE_CTX_MOD_COUNT q
  if s.fld F.QE_CTX_CFG_EQ q = 0xFF then s
  else if s.fld F.QE_CTX_MOD_INTERVAL_US q = 0 then s.postEvent q 1 0
  else if !x.modRunning then (s.setQueue q { x with modRunning := true, gathered := 0 }).postEvent q 1 0
  else if count ≠ 0 ∧ count ≤ x.gathered + 1 then (s.setQueue q { x with gathered := 0 }).postEvent q 1 0
  else s.setQueue q { x with gathered := x.gathered + 1 }

/-! ### Completions (R159–R163) -/

/-- DI passes every entry that is complete and has no incomplete entry before it (R161). -/
def popDone : BitVec 16 → List Begun → BitVec 16 × List Begun
  | di, [] => (di, [])
  | di, b :: t => if b.written then popDone (b.entry.cell + BitVec.ofNat 16 b.entry.cells.length) t else (di, b :: t)

/-- A queue command ends (R534, R537): QE_Q_STATUS and QE_EVT.CMD_DONE. -/
def queueEnd (s : State) (q : Seq) (code : Nat) : State :=
  (s.endCmd F.QE_Q_STATUS_LAST_RESULT F.QE_Q_STATUS_LAST_SEQ 0 code q).qeEvt 1

/-- A DISABLE ends when every begun entry has completed (R167, R537). -/
def checkDisable (s : State) (q : Nat) : State :=
  let x := s.queue q
  match x.disabling with
  | some seq =>
    if x.begun.isEmpty then
      ((s.setQueue q { x with disabling := none }).setFld F.QE_Q_STATUS_BUSY 0 0).queueEnd seq 0
    else s
  | none => s

/-- The completion of the begun entry at `cell` has been written: counts, DI, moderation, DRAINED; a chain charged for a frame that
was never built is released (R541). -/
def completed (s : State) (q : Nat) (cell : BitVec 16) (irq : Bool) (status bytes : Nat) : State :=
  let x := s.queue q
  let marked := x.begun.map fun b => if b.entry.cell = cell then { b with written := true } else b
  let (di, rest) := popDone x.di marked
  let s := s.releaseOpt ((x.begun.find? fun b => b.entry.cell == cell).bind Begun.head)
  let s := s.setQueue q { x with
    begun := rest, di := di, completions := x.completions + 1, bytes := x.bytes + BitVec.ofNat 64 bytes,
    sinceEvent := x.sinceEvent + 1, badSince := if status = 0 then x.badSince else status }
  let s := if irq || status != 0 then s.moderate q else s
  (s.checkDisable q).refreshDrained x.span

/-- Writes an entry's completion in place, cell 1 then cell 0 (R160), both or neither; a fault moves the queue to ERROR (R167).
Answers `false` when it waits in place. -/
def writeCompletion (s : State) (q : Nat) (e : Entry) (status : Nat) (c : Cpl) : Bool × State :=
  let first : Post := if 2 ≤ e.cells.length then s.ringWrite q (e.cell + 1) (complCell1 c) else .ok s
  match first with
  | .wait t => (false, t)
  | .fault t code => (true, (t.queueError q code e.cell).completed q e.cell e.irq status c.bytes)
  | .ok t | .drop t =>
    match t.ringWrite q e.cell (complCell0 e.hdr status c) with
    | .wait u => (false, { s with walks := u.walks })
    | .fault u code => (true, (u.queueError q code e.cell).completed q e.cell e.irq status c.bytes)
    | .ok u | .drop u => (true, u.completed q e.cell e.irq status c.bytes)

/-- The completion of the begun entry at `cell` falls due, behind those that wait (R471). -/
def noteDue (s : State) (q : Nat) (cell : BitVec 16) : State :=
  if s.cplDue.contains (q, cell) then s else { s with cplDue := s.cplDue ++ [(q, cell)] }

/-- The completion of a ready entry is written in place, or waits behind those that wait (R88, R471); a NOP's TIMESTAMP is the time of
completion, and that of an entry that sent nothing is a free value (log entry 42). -/
def finishEntry (s : State) (q : Nat) (b : Begun) : State :=
  let (c, s) := match b.result with
    | some c => (if b.entry.opcode = 0 ∧ (s.queue q).kind ≠ 2 then { c with time := s.wide } else c, s)
    | none => let (w, s) := s.fresh; ({ time := w }, s)
  match s.writeCompletion q b.entry b.status c with
  | (true, t) => { t with cplDue := t.cplDue.filter (· != (q, b.entry.cell)) }
  | (false, t) => t.noteDue q b.entry.cell

/-- The begun entry that may be completed now: on TX and RX the oldest (R161); on ENGINE any, first those whose completion waits. -/
def completable (s : State) (q : Nat) : Option Begun :=
  let x := s.queue q
  if x.kind = 2 then
    match s.cplDue.findSome? fun e => if e.1 = q then x.begun.find? (fun b => b.entry.cell == e.2 && b.ready) else none with
    | some b => some b
    | none => x.begun.find? Begun.ready
  else match x.begun with
    | b :: _ => if b.ready then some b else none
    | [] => none

/-- The completions that wait at queues that satisfy `p` are tried again, in their order (R88, R471). -/
def retryCpl (s : State) (p : Nat → Bool) : State :=
  (s.cplDue.filter fun e => p e.1).foldl (fun t e =>
    match t.completable e.1 with
    | some b => if b.entry.cell = e.2 then t.finishEntry e.1 b else t
    | none => t) s

/-- The queue belongs to Span `n`. -/
def onSpan (s : State) (n q : Nat) : Bool := (s.queue q).used && (s.queue q).span == n

/-- Adds to the causes of the begun entry at `cell`, and to its parts. -/
def withBegun (s : State) (q : Nat) (cell : BitVec 16) (f : Begun → Begun) : State :=
  let x := s.queue q
  s.setQueue q { x with begun := x.begun.map fun b => if b.entry.cell = cell then f b else b }

/-! ### The run of a DMA channel (R445, R448, R450, R452) -/

/-- Changes the descriptor in progress on a channel. -/
def withRun (s : State) (p ch : Nat) (f : DmaRun → DmaRun) : State :=
  s.setDmaC p ch { s.dmaC p ch with run := (s.dmaC p ch).run.map f }

/-- A channel fails its running descriptor with a status; the first failure stays (R448). -/
def chFail (s : State) (p ch code : Nat) : State := s.withRun p ch fun r => { r with status := if r.status = 0 then code else r.status }

/-- Requests or writes of a burst have ended. -/
def burstEnded (s : State) (p ch b k : Nat) : State := s.withRun p ch fun r => r.ended b k

/-- A BARRIER's zero-length read has come back. -/
def barrierRead (s : State) (p ch : Nat) : State := s.withRun p ch fun r => { r with barrier := r.barrier.map (· - 1) }

/-- A ring access of a channel failed since the channel was started for the `g`th time: an ACTIVE channel stops (R445). -/
def chStopped (s : State) (p ch g : Nat) : State :=
  let c := s.dmaC p ch
  if c.state ≠ 1 ∨ c.gen ≠ g then s
  else (s.setDmaC p ch { c with state := 2, run := none, examining := false, fetchOut := false }).setEvt .DMA_EVT .DMA_EVT_EN .DMA_MSIX_VEC p 0

/-! ### Jobs -/

/-- A job ends with a status code at one of its pieces; the `left` pieces from it on are never issued (R127). -/
def depFail (s : State) (d : Dep) (code left : Nat) : State :=
  match d with
  | .fetch q =>
    let s := s.setQueue q { s.queue q with fetching := 0 }
    if code = 9 then s.rxStarve q else s.queueError q code (s.queue q).ci
  | .data q cell _ =>
    (s.withBegun q cell fun b => { b with causes := b.causes ++ [code], parts := b.parts - left }).rxIssued q cell
  | .dma p ch b => (s.chFail p ch code).burstEnded p ch b left
  | .dmaRing p ch g => s.chStopped p ch g
  | .dmaBarrier p ch => (s.chFail p ch code).barrierRead p ch
  | .tblRing p =>
    let s := { s with tblRun := SMap.put {} s.tblRun p {} }
    (s.setFld F.TBL_CMDQ_STATUS_STOPPED p 1).setEvt .TBL_EVT .TBL_EVT_EN .TBL_MSIX_VEC p 1
  | .tblBuf p => { s with tblRun := SMap.put {} s.tblRun p { SMap.get {} s.tblRun p with waiting := false, failed := true } }
  | .stage => { s with slots := { s.slots with bad := true } }
  | .blob => { s with spanCmd := s.spanCmd.map fun c => { c with bad := true } }
  | .log n a => ({ s with logs := s.logs.filter fun x => !(x.span == n && x.addr == a) }.bump F.HEP_DROP_CNT_COUNT 0 (b2n (code == 9))).logLost n
  | .walk | .other => s

/-- A posted piece of a job has been issued. -/
def depWritten (s : State) (d : Dep) : State :=
  match d with
  | .data q cell _ => (s.withBegun q cell fun b => { b with parts := b.parts - 1 }).rxIssued q cell
  | .dma p ch b => s.burstEnded p ch b 1
  | _ => s

/-- Issues the pieces of a job in order, as far as they go (R69, R88, R127). -/
def runParts : State → Job → List Part → State
  | s, _, [] => s
  | s, j, p :: rest =>
    match s.issuePiece j p with
    | .out t => runParts (if j.write then t.depWritten j.dep else t) { j with part := j.part + 1 } rest
    | .hold => { s with stalled := s.stalled ++ [{ j with parts := p :: rest }] }
    | .walk => s.walkStart { j with parts := p :: rest }
    | .fail t code => t.depFail j.dep code (rest.length + 1)

def runJob (s : State) (j : Job) : State := s.runParts j j.parts

/-- Every walk without its read, and every job that was stalled, tries again, in order. -/
def retryStalled (s : State) : State :=
  let s := s.walks.foldl (fun u j => let (k, u) := if j.walk.tag.isSome then (j, u) else u.walkSend j; { u with walks := u.walks ++ [k] }) { s with walks := [] }
  s.stalled.foldl runJob { s with stalled := [] }

/-- Every ring of a Span with waiting events, and OVERFLOW, tries again. -/
def retryEvents (s : State) (n : Nat) : State :=
  s.queues.foldl (fun t e =>
    if e.2.used && e.2.span == n && e.2.kind == 3 then (t.flushOverflow e.1).drainEvents e.1 (t.queue e.1).evWait else t) s

end State

end Sys2Proof.Machine
end

