-- ==== Sys2Proof/Machine/QueueCmd.lean ====
section
/-!
DEFINITION. The commands of the queue engine and the mailboxes (chapter 05): doorbells, fetching, beginning and completing
entries, event moderation, queue commands, received frames, mailbox words.
-/

namespace Sys2Proof.Machine

namespace State

/-! ### Memory requests to a function's BARs (R75, R78, R104, R469) -/

/-- A memory request to a BAR of function `f` is served: Memory Space Enable is 1, it is not in D3hot, its link is Up, and the
device is not in the safe state. -/
def barOk (s : State) (f : Fn) : Bool :=
  (s.fn f).mse && !(s.fn f).d3hot && s.linkUp (s.fnLink f) && !s.isSafe

/-- The host is told of an error: 0 correctable, 1 non-fatal, 2 fatal, where Device Control enables the message (R93). -/
def errMsg (s : State) (f : Fn) (kind : Fin 3) : State :=
  if (s.fn f).errEn.getLsbD kind.val && s.linkUp (s.fnLink f) && !s.ideDrops f then s.emit (.errMsg f kind) else s

/-- An uncorrectable error sets its AER status bit, and its mask and severity say how the host is told (R93). Completion Timeout is 14,
Unexpected Completion 16, Malformed TLP 18, Unsupported Request 20, Poisoned TLP 12, IDE check failed 28. -/
def aerU (s : State) (f : Fn) (bit : Nat) : State :=
  let c := s.fn f
  let s := s.setFn f { c with aerUncor := c.aerUncor ||| ((1 : BitVec 32) <<< bit) }
  if c.aerMask.getLsbD bit then s else s.errMsg f (if c.aerSev.getLsbD bit then 2 else 1)

/-- A correctable error, likewise; Advisory Non-Fatal is 13. -/
def aerC (s : State) (f : Fn) (bit : Nat) : State :=
  let c := s.fn f
  let s := s.setFn f { c with aerCor := c.aerCor ||| ((1 : BitVec 32) <<< bit) }
  if c.aerCorMask.getLsbD bit then s else s.errMsg f 0

/-- An uncorrectable error handled as Advisory Non-Fatal: both status bits, and the correctable message; one whose severity is fatal is
told as such. -/
def aerAdv (s : State) (f : Fn) (bit : Nat) : State :=
  let c := s.fn f
  if c.aerSev.getLsbD bit then s.aerU f bit
  else (s.setFn f { c with aerUncor := c.aerUncor ||| ((1 : BitVec 32) <<< bit) }).aerC f 13

/-- An Unsupported Request received: Advisory Non-Fatal (R93). -/
def unsupportedReq (s : State) (f : Fn) : State := s.aerAdv f 20

/-- A Span's TDI in ERROR refuses memory requests (R104). -/
def spanBarOk (s : State) (n : Nat) (f : Fn) : Bool := s.barOk f && (s.span n).tdi != .error

/-! ### Doorbells (R147–R153, R165, R170–R172) -/

/-- The producer index that a write of `p` stores (R149). -/
def clampPi (ci p : BitVec 16) (size : Nat) : BitVec 16 := if dist ci p ≤ size then p else ci + BitVec.ofNat 16 size

/-- The consumer index that a write of `c` stores on an EVENT queue (R149). -/
def clampCi (pi c : BitVec 16) (size : Nat) : BitVec 16 := if dist c pi ≤ size then c else pi

/-- ARM = 1 on an EVENT queue (R170); one in ERROR sends nothing (R171). -/
def armRing (s : State) (q : Nat) : State :=
  let x := s.queue q
  if x.pi ≠ x.ci ∧ x.state = .active then
    match s.spanFn x.span with
    | some f => (s.setQueue q { x with armed := false }).msixSend f (s.fld F.QE_CTX_EVT_VEC q)
    | none => s
  else s.setQueue q { x with armed := true }

/-- Work for a queue wakes the Pier or the Truss that serves it (R179, R494, R496). -/
def wakeServer (s : State) (q : Nat) : State :=
  let x := s.queue q
  if x.isTx then s.wake true x.bind else if x.kind = 2 then s.wake true (16 + x.bind) else s

/-- A DB_PI write on a queue that takes doorbells (R149, R153, R170); it wakes the queue's server. -/
def dbWrite (s : State) (q : Nat) (v : BitVec 16) (arm : Bool) : State :=
  let x := s.queue q
  if x.state = .disabled then s
  else if x.kind = 3 then
    let s := s.setQueue q { x with ci := clampCi x.pi v (s.ringSize q) }
    let s := if arm then s.armRing q else s
    (s.flushOverflow q).drainEvents q ((s.flushOverflow q).queue q).evWait
  else ((s.setQueue q { x with pi := clampPi x.ci v (s.ringSize q) }).rxStarve q).wakeServer q

/-- A write to the doorbell page of queue `i` of Span `n`: the device-wide queue that takes it, if one does; else the
reserved range is logged (R75, R152), or a Span that drops doorbells drops it (R108). -/
def doorbell (s : State) (n i : Nat) (f : State → Nat → State) : State :=
  match s.spanFn n with
  | none => s
  | some fn =>
    if s.ideDrops fn then s
    else if !s.spanBarOk n fn then s.unsupportedReq fn
    else match s.queueNo n i with
      | none => s.unsupportedReq fn
      | some q => if s.spanEnabled n then f s q else s

/-- Returns a granted charge of an entry that is discarded before it began (R164). -/
def dropCharge (s : State) (q : Nat) : State :=
  let s := { s with bpmWait := s.bpmWait.filter fun w => match w.who with | .qe k => k != q | .pipe _ k => k != 16 + q | _ => true }
  match (s.queue q).charge with
  | some i => (s.freeChain i).setQueue q { (s.freeChain i).queue q with charge := none }
  | none => s

/-- Discards every cached entry that has not begun and sets CI back to the first of them (R165). -/
def discardCache (s : State) (q : Nat) : State :=
  let s := s.dropCharge q
  let x := s.queue q
  let ci := match x.cached with | e :: _ => e.cell | [] => x.ci
  s.setQueue q { x with cached := [], fetching := 0, ci := ci }

/-- Cells in use in the prefetch cache (R182). -/
def cacheUse (s : State) : Nat :=
  (s.queues.map fun e => e.2.fetching + (e.2.cached.map fun x => x.cells.length).sum).sum

/-- The QE fetches and begins nothing: Stop to Resume of a swap, FAILED, or the safe state (R54, R59, R469). -/
def qeStopped (s : State) : Bool :=
  s.isSafe || s.fld F.CFG_STATUS_STATE 0 == 3 || s.fld F.CFG_STATUS_STATE 0 == 4 || s.fld F.CFG_STATUS_STATE 0 == 5

/-- A queue runs: ACTIVE, its Span Enabled, its function able to issue requests, and the QE not stopped (R88, R108, R166). -/
def queueRuns (s : State) (q : Nat) : Bool :=
  let x := s.queue q
  x.used && x.state == .active && s.spanEnabled x.span && !s.qeStopped &&
    (match s.spanFn x.span with | some f => !s.muted f (some x.span) | none => false)

/-- Engine-queue items of a kind (R387). -/
def eqPackets (s : State) (t : Nat) : Nat := ((s.eq t).filter fun i => match i with | .packet _ => true | _ => false).length
def eqEntries (s : State) (t : Nat) : Nat := ((s.eq t).filter fun i => match i with | .entry .. => true | _ => false).length

/-- Fetching is held back by full entry places of the bound Truss (R387), or by its lack of firmware (R386). -/
def trussFull (s : State) (q : Nat) : Bool :=
  (s.queue q).kind == 2 && (!s.flag F.TRS_INFO_FIRMWARE (s.queue q).bind || decide (512 ≤ s.eqEntries (s.queue q).bind))

/-- Fetching is held back by the depth of the WIRE queue that a TX queue is mapped to (R280). -/
def wireFull (s : State) (q : Nat) : Bool :=
  let x := s.queue q
  x.isTx && (match s.wireQueue x.bind q with
    | some w => decide (s.fld F.TMS_Q_LIMIT_GREEN_KIB (nodeKey x.bind 3 w) * 1024 ≤ s.depth x.bind w)
    | none => false)

/-- Fetching is held back by a charge that the queue waits for (R266). -/
def chargeWaits (s : State) (q : Nat) : Bool := s.bpmWait.any fun w => w.who == Waiter.qe q

/-- Whether the frame of an entry with its FCS is longer than the maximum of its port (R158); the port's pending MAX_FRAME applies. -/
def tooLong (s : State) (q n : Nat) : Bool × State :=
  match s.wireQueue (s.queue q).bind q with
  | some w =>
    let m := s.portOf (s.queue q).bind w
    let s := s.epoch .macRxOrChecked .MAC_CTL m
    (decide (s.maxFrame m < n + 4), s)
  | none => (false, s)

/-- A malformed entry is counted and captured (R162). -/
def countMalformed (s : State) (q : Nat) (e : Entry) : State :=
  let x := s.queue q
  ((s.bump F.QE_ERR_CNT_MALFORMED 0).qeCapture q e.cell 1).setQueue q { x with malformed := satAdd 32 x.malformed 1 }

end State

/-- DB_PI_WRITE (R149, R152, R153): a doorbell write of 4 or 8 bytes; bits [15:0] and, on an EVENT queue, ARM in bit 31. -/
def execDbPiWrite (n : SpanId) (i : Byte) (v : BitVec 32) (s : State) : Out3 :=
  .next (s.doorbell n.val i.toNat fun s q => s.dbWrite q (v.setWidth 16) (v.getLsbD 31))

/-- DB_CI_WRITE (R149, R170): a consumer index written to an EVENT queue's doorbell with ARM = 0. -/
def execDbCiWrite (n : SpanId) (i : Byte) (c : BitVec 16) (s : State) : Out3 :=
  .next (s.doorbell n.val i.toNat fun s q => s.dbWrite q c false)

/-- EVENT_ARM (R170): the doorbell write with ARM = 1. -/
def execEventArm (n : SpanId) (i : Byte) (c : BitVec 16) (s : State) : Out3 :=
  .next (s.doorbell n.val i.toNat fun s q => s.dbWrite q c true)

/-- DB_INVAL (R165): ignored for EVENT. -/
def execDbInval (n : SpanId) (i : Byte) (s : State) : Out3 :=
  .next (s.doorbell n.val i.toNat fun s q => if (s.queue q).kind = 3 then s else (s.discardCache q).rxStarve q)

/-- DB_PEND_CLEAR (R152, R172): W1C of event-pending bits 64k to 64k + 63 of an EVENT queue. -/
def execDbPendClear (n : SpanId) (i : Byte) (k : Fin 4) (mask : Word) (s : State) : Out3 :=
  .next (s.doorbell n.val i.toNat fun s q =>
    let x := s.queue q
    if x.kind = 3 then s.setQueue q { x with pend := x.pend &&& ~~~((mask.setWidth 256) <<< (64 * k.val)) } else s)

/-- ENTRY_FETCH_ISSUE (R150, R88, R266, R280, R387): a fetch of `n` cells from CI, within PI, DI plus the ring size, PREFETCH and the
room of the cache. -/
def execEntryFetchIssue (q : QueueId) (n : Fin 257) (s : State) : Out3 := .next <|
  let x := s.queue q.val
  if !s.queueRuns q.val || x.kind == 3 || s.trussFull q.val || s.wireFull q.val || s.chargeWaits q.val || x.fetching != 0 || n.val == 0 then s
  else
    let s := s.epoch .fetch .QE_CTX_CFG q.val
    let cachedCells := (x.cached.map fun e => e.cells.length).sum
    if State.dist x.ci x.pi < n.val ∨ s.ringSize q.val < State.dist x.di x.ci + n.val ∨
       s.fld F.QE_CTX_CFG_PREFETCH q.val < cachedCells + n.val ∨ 65536 < s.cacheUse + n.val then s
    else match s.spanFn x.span with
      | none => s
      | some f =>
        let s := s.wakeServer q.val
        let pos := x.ci.toNat % s.ringSize q.val
        let k := min n.val (s.ringSize q.val - pos)
        let ps := s.readCut f (s.ringAddr q.val x.ci) (16 * k) ++ s.readCut f (s.ringAddr q.val 0) (16 * (n.val - k))
        (s.setQueue q.val { x with fetching := n.val }).runJob
          { fn := f, span := some x.span, dep := .fetch q.val, write := false, parts := ps }

/-- Cuts fetched cells into whole entries (R150); an entry that claims more cells than there are waits. -/
def cutEntries : Nat → BitVec 16 → List Cell16 → List Entry
  | 0, _, _ => []
  | _, _, [] => []
  | fuel + 1, at_, c :: t =>
    let n := cellBits c 8 4 + 1
    if (c :: t).length < n then []
    else ⟨at_, (c :: t).take n⟩ :: cutEntries fuel (at_ + BitVec.ofNat 16 n) ((c :: t).drop n)

/-- One fetched entry (R162, R174): an ENGINE entry that may begin goes to its Truss's engine queue, a malformed one to its
completion; others go to the cache. -/
def State.takeEntry (s : State) (q : Nat) (e : Entry) : State :=
  let s := s.epoch .entryFetched .QE_CTX_CFG q
  let x := s.queue q
  let go := x.kind == 2 && x.cached.isEmpty && s.queueRuns q && !s.trussFull q && !(e.barrier && !x.begun.isEmpty)
  let x := { x with ci := e.cell + BitVec.ofNat 16 e.cells.length }
  if go then
    if e.malformed x.kind then (s.setQueue q { x with begun := x.begun ++ [{ entry := e, causes := [1] }] }).countMalformed q e
    else
      let s := s.setQueue q { x with begun := x.begun ++ [{ entry := e, handed := true }] }
      if hq : q < 65536 then s.eqPush x.bind (.entry ⟨q, hq⟩ e x.span s.wide) else s
  else s.setQueue q { x with cached := x.cached ++ [e] }

/-- ENTRY_FETCH_RETURN (R149, R150, R162, R174): the cells of a fetch arrive, or the fetch was poisoned; cells that a PI moved back
has withdrawn do not count as fetched. -/
def execEntryFetchReturn (q : QueueId) (cells : List Cell16) (poisoned : Bool) (s : State) : Out3 := .next <|
  let x := s.queue q.val
  if x.fetching = 0 then s
  else if poisoned then ((s.setQueue q.val { x with fetching := 0 }).queueError q.val 5 x.ci).refreshDrained x.span
  else
    let es := cutEntries 257 x.ci (cells.take (min x.fetching (State.dist x.ci x.pi)))
    (es.foldl (fun t e => t.takeEntry q.val e) (s.setQueue q.val { x with fetching := 0 })).rxStarve q.val |>.refreshDrained x.span

/-- Bytes an entry's frame takes, for its buffer charge (R266, R267). -/
def Entry.frameLen (e : Entry) : Nat := if e.opcode = 1 then (e.elements.map Prod.snd).sum else e.inlineLen

/-- Data requests of an entry carry Relaxed Ordering: the function's Enable Relaxed Ordering and the queue's hint or the entry's
(R95, R156, R182). -/
def State.relaxedOrder (s : State) (q : Nat) (e : Entry) (f : Fn) : Bool :=
  (s.fn f).relaxed && (s.flag F.QE_CTX_CFG_RO_HINT q || (e.cells.headD 0).getLsbD 64)

/-- ENTRY_BEGIN (R88, R156–R158, R162, R164, R266): the first cached entry begins. `acct` is the account that the image's
assignment charges for it (log entry 21); a charge that cannot be granted waits. -/
def execEntryBegin (q : QueueId) (acct : Option (Fin 8192)) (s : State) : Out3 := .next <|
  let x := s.queue q.val
  match x.cached with
  | [] => s
  | e :: rest =>
    if !s.queueRuns q.val || (e.barrier && !x.begun.isEmpty) then s
    else
      let bad := e.malformed x.kind
      let take (t : State) (b : Begun) : State :=
        let y := t.queue q.val
        t.setQueue q.val { y with cached := rest, begun := y.begun ++ [{ b with head := y.charge }], charge := none }
      if bad then ((take s { entry := e, causes := [1] }).countMalformed q.val e).rxStarve q.val
      else if x.kind = 2 then
        if s.trussFull q.val then s
        else
          let s := take s { entry := e, handed := true }
          s.eqPush x.bind (.entry q e x.span s.wide)
      else if e.opcode = 0 then (take s { entry := e, result := some { time := s.wide } }).rxStarve q.val
      else if x.kind = 1 then s
      else
        let (long, s) := s.tooLong q.val e.frameLen
        let n := State.bufsFor e.frameLen
        let need := match acct, x.charge with
          | some a, none => (s.acctPool a.val).map fun p => (a.val, p)
          | _, _ => none
        let go (t : State) : State :=
          if e.opcode = 2 then take t { entry := e, data := [(0, e.inlineBytes)] }
          else match t.spanFn x.span with
            | none => t
            | some f =>
              let ps := (e.elements.map fun el => t.readCut f el.1 el.2).flatten
              (take t { entry := e, parts := ps.length }).runJob
                { fn := f, span := some x.span, dep := .data q.val e.cell 0, write := false, relaxed := t.relaxedOrder q.val e f, parts := ps }
        if long then (take s { entry := e, causes := [2] }).refreshDrained x.span
        else match need with
        | none => (go s).refreshDrained x.span
        | some (a, p) =>
          let w : BufWait := ⟨.qe q.val, p, a, n, State.ownerPipe x.bind⟩
          if s.chargeTurn w = .granted then
            let (h, s) := (s.doneWait w).grantBufs p a n none (State.ownerPipe x.bind)
            (go (s.setQueue q.val { s.queue q.val with charge := some h })).refreshDrained x.span
          else s.waitBufs w

/-- ENTRY_COMPLETE (R159–R163, R539): the completion of the entry that may be completed is written in place, or waits (R88). -/
def execEntryComplete (q : QueueId) (s : State) : Out3 := .next <|
  match s.completable q.val with
  | none => s
  | some b => s.finishEntry q.val b

/-- MOD_INTERVAL_EXPIRE (R169). -/
def execModIntervalExpire (q : QueueId) (s : State) : Out3 := .next <|
  let x := s.queue q.val
  if !x.modRunning then s
  else if x.gathered = 0 then s.setQueue q.val { x with modRunning := false }
  else (s.setQueue q.val { x with gathered := 0 }).postEvent q.val 1 0

/-! ### Queue commands (R167, R537) -/

/-- The queue that QE_Q_SEL names. -/
def State.selQueue (s : State) : Nat := s.fld F.QE_Q_SEL_QUEUE 0

/-- A queue command, by its OP, on the selected queue: BUSY while one runs, WRONG_STATE on a queue of no Span, TDISP_LOCKED (R167, R537). -/
def State.queueCmdOn (s : State) (op : Nat) (q : Seq) (f : State → Nat → State) : State :=
  s.onReg .QE_Q_CMD 0 (cmdWord op q) fun s =>
  let k := s.selQueue
  let x := s.queue k
  if s.flag F.QE_Q_STATUS_BUSY 0 then s.queueEnd q 1
  else if !x.used then s.queueEnd q 2
  else if s.tdiLocked x.span then s.queueEnd q 3
  else f s k

/-- QUEUE_ENABLE (R167). -/
def execQueueEnable (q : Seq) (s : State) : Out3 := .next <| s.queueCmdOn 1 q fun s k =>
  let x := s.queue k
  if x.state = .disabled then ((s.setQueue k { x with state := .active }).queueEnd q 0).flushOverflow k
  else s.queueEnd q 2

/-- QUEUE_DISABLE (R167): ends when every begun entry has completed; the queue is DISABLED, and Quiesced-class values apply, from its
start (log 129). -/
def execQueueDisable (q : Seq) (s : State) : Out3 := .next <| s.queueCmdOn 2 q fun s k =>
  let x := s.queue k
  match x.state with
  | .disabled => s.queueEnd q 2
  | _ =>
    let s := s.discardCache k
    let s := ((s.setQueue k { s.queue k with state := .disabled, disabling := some q }).queueQuiesced k).rxFlush k
    (s.setFld F.QE_Q_STATUS_BUSY 0 1).checkDisable k

/-- QUEUE_RESTART (R167). -/
def execQueueRestart (q : Seq) (s : State) : Out3 := .next <| s.queueCmdOn 3 q fun s k =>
  let x := s.queue k
  if x.state = .error then ((s.setQueue k { x with state := .active }).queueEnd q 0).flushOverflow k
  else s.queueEnd q 2

/-- QUEUE_ZERO (R167). -/
def execQueueZero (q : Seq) (s : State) : Out3 := .next <| s.queueCmdOn 4 q fun s k =>
  let x := s.queue k
  if x.state = .disabled then (s.setQueue k { x with pi := 0, ci := 0, di := 0 }).queueEnd q 0
  else s.queueEnd q 2

/-! ### Received frames (R158, R183, R538) -/

/-- INFO of a receive completion (R159). -/
def rxInfo (f : Pkt) : BitVec 32 :=
  BitVec.ofNat 32 ((match f.vlan with | some t => t.toNat + 2 ^ 16 | none => 0) + 2 ^ 17 * b2n f.l3ok + 2 ^ 18 * b2n f.l4ok +
    2 ^ 19 * b2n f.decrypted + 2 ^ 20 * b2n f.trunc)

/-- Scatters bytes over elements (R157). -/
def scatter : List (Nat × Nat) → List Byte → List (Nat × List Byte)
  | [], _ => []
  | (a, n) :: t, bs => if bs.isEmpty then [] else (a, bs.take n) :: scatter t (bs.drop n)

/-- A frame in the input, marked as placed, is written to a RECV entry: data writes, causes and result (R157–R159, R163, R539). -/
def State.rxWrite (s : State) (q : Nat) (e : Entry) (rest : List Entry) (f : Pkt) : State :=
  let x := s.queue q
  let room := (e.elements.map Prod.snd).sum
  let bs := f.bytes.take room
  let f := { f with poisoned := f.poisoned || (match f.head with | some h => s.chainBad h bs.length | none => false) }
  let causes := (if room < f.bytes.length then [2] else []) ++ (if f.trunc then [13] else []) ++
    (if f.authFail then [6] else []) ++ (if f.poisoned then [5] else [])
  let c : Cpl := { bytes := bs.length, info := rxInfo f, time := f.time, hash := f.hash, mark := f.mark }
  match s.spanFn x.span with
  | none => s
  | some fn =>
    let ps := ((scatter e.elements bs).map fun w => s.writeCut fn w.1 w.2).flatten
    let b : Begun := { entry := e, parts := ps.length, causes := causes, result := some c }
    let s := s.setQueue q { x with cached := rest, begun := x.begun ++ [b] }
    let j : Job := { fn := fn, span := some x.span, dep := .data q e.cell 0, write := true, poisoned := f.poisoned, parts := ps }
    ((s.runJob { j with relaxed := s.relaxedOrder q e fn }).rxIssued q e.cell).refreshDrained x.span

/-- RX_FRAME_DELIVER (R183, R538): the frame at place `k` of Pier `p`'s receive input is dropped, or written to the next RECV entry,
unless an earlier frame of its queue is still there or it must wait; it leaves the input when its data writes have been issued. -/
def execRxFrameDeliver (p : Pier) (k : Fin 256) (s : State) : Out3 := .next <|
  let l := s.rx p.val
  match l[k.val]? with
  | none => s
  | some f =>
    match f.rxq with
    | none => s
    | some q =>
      if f.placed.isSome || (l.take k.val).any fun g => g.rxq == some q then s
      else
        let x := s.queue q
        let gone := s.setRx p.val (l.eraseIdx k.val)
        let off := match s.spanFn x.span with | some fn => !(s.fn fn).bme | none => true
        if x.state != .active || off || !s.spanEnabled x.span then gone.rxDrop q f
        else if s.isSafe then s
        else if x.fetching = 0 ∧ x.pi = x.ci ∧ !(x.cached.any fun e => e.opcode == 0x10) then gone.rxDrop q f
        else match x.cached with
          | [] => s
          | e :: rest =>
            if e.malformed x.kind || e.opcode == 0 || (e.barrier && !x.begun.isEmpty) || s.qeStopped then s
            else ((s.setRx p.val (setAt l k.val { f with placed := some e.cell })).rxWrite q e rest f).rxStarve q

/-! ### Mailboxes (R176–R179, R184, R185) -/

/-- Channel of a mailbox owner (R176). -/
def mbxChan : MbxEnd → Nat
  | .span n => n.val
  | .host h => 4096 + h.val

/-- Memory requests to a mailbox page are served; a TDI in ERROR refuses them (R104). -/
def State.mbxOk (s : State) (e : MbxEnd) (f : Fn) : Bool :=
  match e with | .span n => s.spanBarOk n.val f | .host _ => s.barOk f

/-- The function in whose BAR0 the mailbox page lies. -/
def State.mbxFn (s : State) : MbxEnd → Option Fn
  | .span n => s.spanFn n.val
  | .host h => some (.pf h)

/-- A mailbox page answers (R178): its function serves memory requests, and the Span is Enabled, Quiescing or Quiesced. -/
def State.mbxAnswers (s : State) : MbxEnd → Bool
  | .span n => (s.span n.val).state != .disabled && (s.span n.val).state != .removed
  | .host _ => true

/-- The endpoint is a Truss (R176, R185): its device-wide number. -/
def State.mbxTruss (s : State) (c : Nat) : Option Nat :=
  if c < 4096 ∧ s.flag F.MBX_ROUTE_ENDPOINT c then some (s.fld F.MBX_ROUTE_TRUSS c) else none

/-- MBX_FULL_MAP of a channel: an outbound word waits and the Manager is the endpoint; a bit that becomes set sets ARRIVED (R179, R184,
R185). -/
def State.fullMap (s : State) (c : Nat) : State :=
  let on := (s.mail c).outFull && (s.mbxTruss c).isNone
  let was := bitOf (s.reg .MBX_FULL_MAP (c / 64)) (c % 64)
  if on && !was then (s.setMap .MBX_FULL_MAP c).setEvt .MBX_EVT .MBX_EVT_EN .MBX_MSIX_VEC 0 0
  else if !on && was then s.setReg .MBX_FULL_MAP (c / 64) (s.reg .MBX_FULL_MAP (c / 64) &&& ~~~((1 : Word) <<< (c % 64)))
  else s

/-- A word is stored in the inbound side; with IRQ_EN the owner's vector is sent (R177). -/
def State.storeIn (s : State) (c : Nat) (w : Word) : State :=
  let m := s.mail c
  let s := s.setMail c { m with inWord := w, inFull := true }
  if m.irqEn then
    let fn := if c < 4096 then s.spanFn c else if h : c - 4096 < 8 then some (.pf ⟨c - 4096, h⟩) else none
    match fn with
    | some f => s.msixSend f m.vec.toNat
    | none => s
  else s

/-- MBX_OUT_WRITE (R177, R179); a narrower write than 8 bytes is dropped. -/
def execMbxOutWrite (x : MbxAccess) (w : Word) (s : State) : Out3 := .next <|
  let e := x.page
  match s.mbxFn e with
  | none => s
  | some f =>
    if s.ideDrops f then s
    else if !s.mbxOk e f then s.unsupportedReq f
    else if !s.mbxAnswers e || !x.eight then s
    else
      let c := mbxChan e
      let m := s.mail c
      if m.outFull then s.setMail c { m with overrun := true }
      else
        let s := s.setMail c { m with outWord := w, outFull := true }
        match s.mbxTruss c with
        | some k => s.sourceWake k
        | none => (s.setMap .MBX_FULL_MAP c).setEvt .MBX_EVT .MBX_EVT_EN .MBX_MSIX_VEC 0 0

/-- MBX_IN_READ (R177, R178): the read clears the word and IN_FULL; a read narrower than 8 bytes returns 0 and changes nothing. -/
def execMbxInRead (x : MbxAccess) (s : State) : Out3 := .next <|
  let e := x.page
  match s.mbxFn e with
  | none => s
  | some f =>
    if s.ideDrops f then s
    else if !s.mbxOk e f then (s.unsupportedReq f).emit (.unsupported f)
    else if !s.mbxAnswers e || !x.eight then s.emit (.readData 0)
    else
      let c := mbxChan e
      (s.setMail c { s.mail c with inWord := 0, inFull := false }).emit (.readData (s.mail c).inWord)

/-- The channel that MBX_SEL names. -/
def State.selChan (s : State) : Nat := s.fld F.MBX_SEL_CHANNEL 0

/-- MBX_TO_WRITE (R185): stored if the Manager is the endpoint and the word is free. -/
def execMbxToWrite (w : Word) (s : State) : Out3 := .next <| s.onReg .MBX_TO 0 w fun s =>
  let c := s.selChan
  if (s.mbxTruss c).isSome || (s.mail c).inFull then s.setFld F.MBX_STATUS_TO_DROPPED c 1
  else s.storeIn c w

/-- MBX_FROM read (R185): the read clears the word, OUT_FULL and the map bit. -/
def State.mbxFrom (s : State) : Word × State :=
  let c := s.selChan
  let m := s.mail c
  (m.outWord, (s.setMail c { m with outWord := 0, outFull := false }).fullMap c)

/-- MBX_FROM_READ (R185). -/
def execMbxFromRead (s : State) : Out3 := .next <| s.onRead .MBX_FROM 0 fun s =>
  let (w, s) := s.mbxFrom
  s.emit (.readData w)

end Sys2Proof.Machine
end

