-- ==== Sys2Proof/Machine/Truss.lean ====
section
/-!
DEFINITION. Trusses and threads (chapter 13): wake sources, waits and claims, exceptions, the pool, Rails, the stall
detector and the Manager's Truss commands.
-/

namespace Sys2Proof.Machine

/-- NONE (R412). -/
def noneVal : Word := 0xFFFFFFFFFFFFFFFF

/-- Exception codes (R425). -/
def Exc.code : Exc → Nat
  | .illegal => 1 | .pcRange => 2 | .align => 3 | .spmRange => 4 | .bay => 5 | .rldRange => 6 | .win => 7 | .poison => 8
  | .join => 9 | .rail => 10 | .priv => 11 | .notBound => 12 | .arg => 13 | .cipher => 14 | .regErr => 15 | .brk => 16

namespace State

/-- FCU source number of device-wide Truss t (R460). -/
def trussSrc (t : Nat) : Nat := 0x48 + 16 * (t / 3) + t % 3

def trsEvt (s : State) (t b : Nat) : State := s.setEvt .TRS_EVT .TRS_EVT_EN .TRS_MSIX_VEC t b

/-- A thread's general register; g0 reads 0 (R408). -/
def greg (s : State) (n : Nat) (r : Nat) : Word := if r = 0 then 0 else SMap.get 0 (s.thr n).regs r

/-- Writes a general register; writes to g0 are discarded (R408). -/
def setGreg (s : State) (n : Nat) (r : Nat) (w : Word) : State :=
  if r = 0 then s else s.setThr n { s.thr n with regs := SMap.put 0 (s.thr n).regs r w }

/-! ### Sources (R389–R393) -/

/-- Span channels routed to Truss t that hold an outbound word, lowest number first (R389, R414). -/
def mbxWaiting (s : State) (t : Nat) : List Nat :=
  (s.mbx.filter fun e => decide (e.1 < 4096) && e.2.outFull && s.flag F.MBX_ROUTE_ENDPOINT e.1 &&
    s.fld F.MBX_ROUTE_TRUSS e.1 == t).map Prod.fst

/-- Items that shared source `b` of Truss t holds: committed Rail messages, engine-queue items, mailbox words. -/
def srcItems (s : State) (t b : Nat) : Nat :=
  match b with
  | 1 => ((s.rails.filter fun e => e.2.reader == some t).map fun e => e.2.msgs.length).sum
  | 2 => (s.eq t).length
  | 3 => (s.mbxWaiting t).length
  | _ => 0

/-- Threads of Truss t that shared source `b` has woken and that have not taken since (R392). -/
def woken (s : State) (t b : Nat) : Nat := ((trussThreads t).filter fun n => (s.thr n).claims.getLsbD b).length

/-- The servo thread, by TRS_INFO of its Truss (R389). -/
def isServo (s : State) (n : Nat) : Bool :=
  s.flag F.TRS_INFO_SERVO_HERE (n / 64) && s.fld F.TRS_INFO_SERVO_LOCAL (n / 64) == n % 64

/-- TIMER is pending: latched, or the armed compare is reached (R389, R390). -/
def timerPending (s : State) (n : Nat) : Bool :=
  (s.thr n).pend.getLsbD 0 || ((s.thr n).armed && decide ((s.thr n).cmp.toNat ≤ s.cycle.toNat))

/-- The sources pending for a thread, by the column "Pending when" of R389. -/
def pendingSet (s : State) (n : Nat) : BitVec 11 :=
  let t := n / 64
  let bit (b : Nat) (p : Bool) : BitVec 11 := if p then (1 : BitVec 11) <<< b else 0
  let sup := n % 64 == 0
  ((s.thr n).pend &&& 0x170) ||| bit 0 (s.timerPending n) ||| bit 1 (s.srcItems t 1 != 0) ||| bit 2 (s.srcItems t 2 != 0) |||
    bit 3 (s.srcItems t 3 != 0) ||| bit 7 (s.isServo n && (s.capFifo.any (fun e => !e.2.isEmpty) || s.gnssRx.any fun g => g.line.isSome)) |||
    (if sup then (s.thr n).pend &&& 0x200 else 0) ||| bit 10 (sup && s.reg .TRS_SUP_CAUSE t != 0)

/-- A supervisor's WAIT always includes FAULT (R393). -/
def effMask (n : Nat) (m : BitVec 11) : BitVec 11 := if n % 64 = 0 then m ||| 0x400 else m

/-- Threads of the Truss below `n` that wait with shared source `b` in their mask. -/
def lowerWaiters (s : State) (n b : Nat) : Nat :=
  ((trussThreads (n / 64)).filter fun m => decide (m < n) && (s.thr m).state == .waiting && (s.thr m).implicit.isNone &&
    !(s.thr m).aborting && (effMask m (s.thr m).waitMask).getLsbD b).length

/-- The shared sources that may wake `n` now (R392). -/
def sharedWake (s : State) (n : Nat) : BitVec 11 :=
  let m := effMask n (s.thr n).waitMask
  let can (b : Nat) : BitVec 11 :=
    if m.getLsbD b && decide (s.woken (n / 64) b + s.lowerWaiters n b < s.srcItems (n / 64) b) then (1 : BitVec 11) <<< b else 0
  can 1 ||| can 2 ||| can 3

/-- WAIT returns the pending sources of a mask: Thread-kind ones clear, except TIMER, which stays pending and disarms
(R390, R391). -/
def takeSources (s : State) (n : Nat) (set : BitVec 11) (claims : BitVec 11) (rd : Nat) : State :=
  let x := s.thr n
  let timer := set.getLsbD 0
  let s := s.setThr n { x with
    pend := (x.pend &&& ~~~(set &&& 0x7F0)) ||| (if timer then 1 else 0),
    armed := x.armed && !timer, claims := claims, state := .running, waitMask := 0, joining := none }
  s.setGreg n rd (set.setWidth 64)

/-- A thread wakes: a SIGNAL sent to it before this wake is no longer pending, whether or not its wait returned it (R389). -/
def endSignal (s : State) (n : Nat) : State := s.setThr n { s.thr n with pend := (s.thr n).pend &&& 0x7BF }

/-! ### Exceptions (R397, R398, R425) -/

/-- The word TRS_THR_FAULT reads for a thread. -/
def thrFault (x : Thread) : Word :=
  BitVec.ofNat 64 (x.faultCode.toNat + 2 ^ 8 * b2n (x.state == .faulted) + 2 ^ 32 * x.faultPc.toNat)

/-- A thread's waiting ALLOC is withdrawn: it charges nothing, and a grant on its way comes too late (R402, R546). -/
def withdrawAlloc (s : State) (n : Nat) : State :=
  { s with bpmWait := s.bpmWait.filter (fun w => w.who != Waiter.thread n),
           grants := s.grants.map fun g => if g.thread = n then { g with late := true } else g }

/-- A thread stops waiting in an ALLOC or in a Rail's line of writers; a reservation that it holds stays. -/
def leaveWaits (s : State) (n : Nat) : State :=
  match (s.thr n).implicit with
  | some (.alloc ..) => s.withdrawAlloc n
  | some (.rail k) => s.setRail (n / 192) k { s.rail (n / 192) k with waiters := (s.rail (n / 192) k).waiters.filter (· != n) }
  | none => s

/-- A thread raises an exception at the instruction at `pc`; an implicit wait that it is in is over. -/
def raiseExc (s : State) (n : Nat) (e : Exc) (pc : BitVec 32) : State :=
  let t := n / 64
  let s := s.leaveWaits n
  let s := s.setThr n { s.thr n with state := .faulted, faultCode := BitVec.ofNat 8 e.code, faultPc := pc, waitMask := 0,
                                     implicit := none, joining := none }
  if n % 64 = 0 then (s.trsEvt t 1).raise (trussSrc t) 0x02 (thrFault (s.thr n)).toNat
  else ((s.supCause F.TRS_SUP_CAUSE_THREAD_FAULT t).trsEvt t 2).bump F.TRS_THR_CNT_FAULTS t

/-- An uncorrected error in a thread's registers, its stores or an engine-queue place is counted and captured (R406). -/
def storeUe (s : State) (t localN kind code : Nat) : State :=
  let s := s.bump F.TRS_STORE_ERR_UE t
  let w := BitVec.ofNat 64 (localN + 2 ^ 6 * kind + 2 ^ 15)
  let s := if s.flag F.TRS_ERR_CAPTURE_VALID t then s else s.setReg .TRS_ERR_CAPTURE t w
  s.raise (trussSrc t) code (s.reg .TRS_ERR_CAPTURE t).toNat

/-- A corrected error (R406, R425). -/
def storeCe (s : State) (t : Nat) : State :=
  (s.bump F.TRS_STORE_ERR_CE t).raise (trussSrc t) 0x05 (s.reg .TRS_ERR_CAPTURE t).toNat

/-! ### Rails and the pool (R383, R395, R396) -/

/-- Discards a thread's partial message and releases its reservation; leaves every Rail's line of writers. -/
def dropRail (s : State) (n : Nat) : State :=
  let p := n / 192
  { s with rails := s.rails.map fun e =>
      if e.1 / 256 = p then
        (e.1, { e.2 with owner := if e.2.owner = some n then none else e.2.owner, waiters := e.2.waiters.filter (· != n) })
      else e }

/-- Entries of a sparse map equal to the default leave the list. -/
def tidyRails (s : State) : State := { s with rails := s.rails.filter fun e => e.2 != {} }

/-- A child's parent ends (R383): a DONE child becomes FREE, a running one detached. -/
def orphan (s : State) (n : Nat) : State :=
  let x := s.thr n
  if x.state = .done then s.setThr n { ops := x.ops }
  else s.setThr n { x with joinable := false, detached := true }

/-- The children that a thread could still join. -/
def children (s : State) (n : Nat) : List Nat :=
  (trussThreads (n / 64)).filter fun m => (s.thr m).joinable && (s.thr m).parent == n % 64 && (s.thr m).state != .free

/-- What leaving does beyond the thread's own record: partial Rail message, reservation, waiting ALLOC, children. -/
def vacate (s : State) (n : Nat) : State :=
  let s := (s.dropRail n).tidyRails
  let s := s.withdrawAlloc n
  (s.children n).foldl orphan s

/-- The record of a thread that leaves; operations still outstanding are dropped as they return. -/
def goneOps (x : Thread) : List OutOp := x.ops.map fun o => { o with live := false }

/-- The parent's JOIN on a child that returns to the pool without ending answers NONE (R385). -/
def joinNone (s : State) (n : Nat) : State :=
  let x := s.thr n
  let p := 64 * (n / 64) + x.parent
  match (s.thr p).joining with
  | some (c, rd) =>
    if x.joinable && c == n % 64 && (s.thr p).state != .free then
      let y := s.thr p
      let y := { y with joining := none, waitMask := 0,
                        state := if y.state = .waiting then .running else y.state,
                        prior := if y.prior = .waiting then .running else y.prior }
      (s.setThr p y).setGreg p rd.toNat noneVal
    else s
  | none => s

/-- A thread returns to the pool by another route than END. -/
def toPool (s : State) (n : Nat) : State :=
  let s := (s.joinNone n).vacate n
  s.setThr n { ops := goneOps (s.thr n) }

/-- A thread ends with an exit value (R383, R385). -/
def endThread (s : State) (n : Nat) (v : Word) : State :=
  let x := s.thr n
  let s := s.vacate n
  let p := 64 * (n / 64) + x.parent
  if x.joinable then
    let s := s.setThr n { ops := goneOps x, state := .done, exitVal := v, parent := x.parent, joinable := true }
    if (s.thr p).joining.any (fun j => j.1 == n % 64) then s.pendSource p 5 else s
  else s.setThr n { ops := goneOps x }

/-- The supervisor of Truss t starts at the image's entry point (R383, R408). -/
def startSup (s : State) (t : Nat) : State :=
  if s.flag F.TRS_INFO_FIRMWARE t then
    s.setThr (64 * t) { ops := (s.thr (64 * t)).ops, state := .running, pc := BitVec.ofNat 32 (s.fld F.TRS_INFO_ENTRY t) }
  else s

/-- Entries that a returned thread took and did not complete are completed by the QE with INTERNAL (R388). -/
def abandonEntries (s : State) (n : Nat) : State :=
  let mine := s.held.filter fun h => h.thread == n
  let s := { s with held := s.held.filter fun h => h.thread != n }
  mine.foldl (fun t h => (t.withBegun h.queue.val h.cell fun b => { b with causes := [14], handed := false }).noteDue h.queue.val h.cell) s

/-- The start of R402 for one thread: it issues nothing more, and what it held is let go. -/
def abortThread (s : State) (n : Nat) : State :=
  let s := ((s.joinNone n).vacate n).abandonEntries n
  s.setThr n { s.thr n with aborting := true, ops := goneOps (s.thr n), armed := false, waitMask := 0, implicit := none,
                            joining := none, joinable := false, claims := 0, pend := 0, rail := none, partMsg := [] }

/-- A Truss command ends (R401, R403). -/
def trsEnd (s : State) (t : Nat) (q : Seq) (code : Nat) : State :=
  ((s.endCmd F.TRS_STATUS_LAST_RESULT F.TRS_STATUS_LAST_SEQ t code q).trsEvt t 3)

/-- Truss domain state (R494): 0 ON. -/
def trussPwr (s : State) (t : Nat) : Nat := s.fld (F.PWR_DOMAINS_TRUSS t) 0
def pierPwr (s : State) (p : Nat) : Nat := s.fld (F.PWR_DOMAINS_PIER p) 0

/-- Every Rail that Truss t reads is emptied (R401). -/
def emptyRails (s : State) (t : Nat) : State :=
  let s : State := { s with rails := s.rails.map fun e => if e.2.reader = some t then (e.1, { e.2 with msgs := [] }) else e }
  s.tidyRails

end State

/-! ### Commands -/

/-- THREAD_WAKE (R383, R385, R390, R392): a WAITING thread whose wait has ended runs again, once its Truss is ON (R496). -/
def execThreadWake (n : ThreadId) (s : State) : Out3 := .next <|
  let x := s.thr n.val
  if x.state ≠ .waiting ∨ x.implicit.isSome ∨ x.aborting ∨ s.trussPwr (n.val / 64) ≠ 0 then s
  else match x.joining with
    | some (c, rd) =>
      let m := 64 * (n.val / 64) + c
      if (s.thr m).state = .done ∧ (s.thr m).joinable then
        let v := (s.thr m).exitVal
        let s := s.setThr m { ops := (s.thr m).ops }
        (s.setThr n.val { s.thr n.val with state := .running, joining := none, waitMask := 0,
                                           pend := x.pend &&& ~~~(0x60 : BitVec 11) }).setGreg n.val rd.toNat v
      else s
    | none =>
      let m := State.effMask n.val x.waitMask
      let shared := s.sharedWake n.val
      let set := s.pendingSet n.val &&& m
      if (set &&& 0x7F1) ||| shared = 0 then s
      else (s.takeSources n.val set (shared &&& set) x.waitRd.toNat).endSignal n.val

/-- TIMER (R265, R389, R391, R546): an armed compare is reached; a waiting ALLOC ends with NONE. -/
def execTimer (n : ThreadId) (s : State) : Out3 := .next <|
  let x := s.thr n.val
  if !x.armed || decide (s.cycle.toNat < x.cmp.toNat) then s
  else
    let s := (s.setThr n.val { x with pend := x.pend ||| 1 }).sourceWake (State.trussOf n.val)
    match x.implicit with
    | some (.alloc _ _ _ rd) =>
      let s := s.withdrawAlloc n.val
      let y := s.thr n.val
      let y := { y with implicit := none, state := if y.state = .waiting then .running else y.state,
                        prior := if y.prior = .waiting then .running else y.prior }
      (s.setThr n.val y).setGreg n.val rd.toNat noneVal
    | _ => s

/-- A Rail may be granted: nobody holds it and a message place is free (R394, R395). -/
def Rail.free (r : Rail) : Bool := r.owner.isNone && decide (r.msgs.length < 16)

/-- RAIL_GRANT (R395, R396): the first waiting writer is granted the reservation. -/
def execRailGrant (p : Pier) (k : Byte) (s : State) : Out3 := .next <|
  let r := s.rail p.val k.toNat
  match r.waiters with
  | [] => s
  | n :: t =>
    if !r.free then s
    else
      let s := s.setRail p.val k.toNat { r with owner := some n, waiters := t }
      let x := s.thr n
      s.setThr n { x with implicit := none, rail := some k.toNat, partMsg := [],
                          state := if x.state = .waiting then .running else x.state,
                          prior := if x.prior = .waiting then .running else x.prior }

/-- TRUSS_STALL (R399, R400): raised once in a stall that has lasted 1,024 cycles. -/
def execTrussStall (t : Truss) (s : State) : Out3 := .next <|
  if !s.stalled399 t.val || SMap.get false s.stallDone t.val then s
  else
    let waiting := ((State.trussThreads t.val).filter fun n => (s.thr n).state == .waiting).length
    let s := { s with stallDone := SMap.put false s.stallDone t.val true }
    ((s.raise (State.trussSrc t.val) 0x01 waiting).trsEvt t.val 0).supCause F.TRS_SUP_CAUSE_STALL t.val

/-- The SEQ of a Truss's running command is kept in TRS_CMD.SEQ, which reads 0 (R4). -/
def State.trsSeq (s : State) (t : Nat) : Seq := BitVec.ofNat 16 (s.fld F.TRS_CMD_SEQ t)

/-- ABORT_THREAD (R401, R402). -/
def execAbortThread (t : Truss) (l : Fin 64) (q : Seq) (s : State) : Out3 := .next <|
  s.onReg .TRS_CMD t.val (cmdWord 1 q (2 ^ 8 * l.val)) fun s =>
  let n := 64 * t.val + l.val
  if s.flag F.TRS_STATUS_BUSY t.val then s.trsEnd t.val q 1
  else if l.val = 0 ∨ (s.thr n).state = .free then s.trsEnd t.val q 2
  else if (s.thr n).state = .halted then s.trsEnd t.val q 3
  else (((s.abortThread n).setFld F.TRS_STATUS_BUSY t.val 1).setFld F.TRS_CMD_SEQ t.val q.toNat)

/-- The threads of a Truss that are being returned. -/
def State.abortingIn (s : State) (t : Nat) : List Nat := (State.trussThreads t).filter fun n => (s.thr n).aborting && !(s.thr n).dropping

/-- ABORT_THREAD_DONE (R402): the thread has no outstanding operation and reads FREE; the command ends with OK. -/
def execAbortThreadDone (t : Truss) (s : State) : Out3 := .next <|
  match s.abortingIn t.val with
  | [n] =>
    if s.flag F.TRS_STATUS_BUSY t.val && (s.thr n).ops.isEmpty && n % 64 != 0 then
      ((s.setThr n {}).setFld F.TRS_STATUS_BUSY t.val 0).trsEnd t.val (s.trsSeq t.val) 0
    else s
  | _ => s

/-- RESTART_TRUSS (R401, R402). -/
def execRestartTruss (t : Truss) (q : Seq) (s : State) : Out3 := .next <| s.onReg .TRS_CMD t.val (cmdWord 2 q) fun s =>
  if s.flag F.TRS_STATUS_BUSY t.val then s.trsEnd t.val q 1
  else if (State.trussThreads t.val).any fun n => (s.thr n).state == .halted then s.trsEnd t.val q 3
  else if s.trussPwr t.val ≠ 0 then s.trsEnd t.val q 4
  else if !s.flag F.TRS_INFO_FIRMWARE t.val then s.trsEnd t.val q 5
  else
    let s := ((State.trussThreads t.val).filter fun n => decide (n % 64 = 0) || (s.thr n).state != .free).foldl State.abortThread s
    ((s.emptyRails t.val).setFld F.TRS_STATUS_BUSY t.val 1).setFld F.TRS_CMD_SEQ t.val q.toNat

/-- RESTART_TRUSS_DONE (R401, R402): every returning thread reads FREE; the supervisor starts at the entry point. -/
def execRestartTrussDone (t : Truss) (s : State) : Out3 := .next <|
  let l := s.abortingIn t.val
  if s.flag F.TRS_STATUS_BUSY t.val && l.contains (64 * t.val) && l.all fun n => (s.thr n).ops.isEmpty then
    let s := l.foldl (fun u n => u.setThr n {}) s
    ((s.startSup t.val).setFld F.TRS_STATUS_BUSY t.val 0).trsEnd t.val (s.trsSeq t.val) 0
  else s

/-- ALLOC_GRANT (R265, R426, R546): a grant on its way reaches the thread; it is returned if the ALLOC still waits, and undone
otherwise. -/
def execAllocGrant (n : ThreadId) (s : State) : Out3 := .next <|
  match s.grants.find? fun g => g.thread == n.val with
  | none => s
  | some ⟨_, h, late⟩ =>
    let s := { s with grants := s.grants.eraseP fun g => g.thread == n.val }
    let x := s.thr n.val
    match x.implicit with
    | some (.alloc _ _ _ rd) =>
      if late || x.aborting then s.freeChain h
      else
        let x := { x with implicit := none, state := if x.state = .waiting then .running else x.state,
                          prior := if x.prior = .waiting then .running else x.prior }
        (s.setThr n.val x).setGreg n.val rd.toNat (BitVec.ofNat 64 h)
    | _ => s.freeChain h

end Sys2Proof.Machine
end

