-- ==== Sys2Proof/Machine/Span.lean ====
section
/-!
DEFINITION. Span states and commands (chapter 04): quiesce with work in flight, resets of R81 as they reach a Span, the Span
commands, peer windows, invalidations, export and import.
-/

namespace Sys2Proof.Machine

namespace State

/-! ### Ends of host requests -/

/-- The answer to an ATS invalidation of a Span; on an Insecure stream it is dropped (R96, R101). -/
def atsAnswer (s : State) (n : Nat) : State :=
  match s.spanFn n with
  | some f => s.sendReq f (.atsDone n)
  | none => s.emit (.atsDone n)

/-- Forgets a tag that no longer waits, in the invalidations that wait for it (R96, R128). -/
def forgetTag (s : State) (key : Nat) : State :=
  let s : State := { s with invals := s.invals.map fun v => { v with waitOn := v.waitOn.filter (· != key) } }
  let w := s.atsWait.map fun a => (a.1, a.2.filter (· != key))
  let s := (w.filter fun a => a.2.isEmpty).foldl (fun t a => t.atsAnswer a.1) s
  { s with atsWait := w.filter fun a => !a.2.isEmpty }

/-- A tag leaves the outstanding state for `to`. -/
def endTag (s : State) (key : Nat) (dst : Tag) : State := { s with tags := SMap.put .free s.tags key dst }.forgetTag key

/-- Ends at once, with SPAN_QUIESCED, every outstanding request that satisfies `p`; its tag becomes `to` (R83, R115). -/
def cutRequests (s : State) (p : HostReq → Bool) (dst : Tag) : State :=
  s.tags.foldl (fun t e =>
    match e.2 with
    | .outstanding r => if p r then (t.endTag e.1 dst).depFail r.dep 9 1 else t
    | _ => t) s

/-- Ends every job of a Span that waits for a translation or to be issued. -/
def cutJobs (s : State) (n : Nat) : State :=
  let mine := (s.walks ++ s.stalled).filter fun j => j.span == some n
  let s : State := { s with walks := s.walks.filter (fun j => j.span != some n),
                            stalled := s.stalled.filter fun j => j.span != some n }
  mine.foldl (fun t j => t.depFail j.dep 9 j.parts.length) s

/-! ### Dirty bitmaps (R133–R135) -/

/-- LOG_SWAP sends its flushing read of the old bitmap once every line gathered for it has been rewritten (R134). -/
def logFlush (s : State) : State :=
  match s.spanCmd with
  | some c =>
    let old := !s.flag F.STU_LOG_CTL_CUR c.span
    if c.op == .logSwap && !c.flushed && !(s.logs.any fun x => x.span == c.span && x.mapB == old) then
      { s with spanCmd := some { c with flushed := true } }.runJob
        { fn := .mf, span := none, dep := .blob, write := false
          parts := [{ addr := 4096 * s.fld (if old then F.STU_LOG_BASE_B_BASE else F.STU_LOG_BASE_A_BASE) c.span, len := 8 }] }
    else s
  | none => s

/-- A line of a bitmap arrives: it goes back with the bits gathered for it; a poisoned line cannot be rewritten. -/
def logData (s : State) (n a : Nat) (bs : List Byte) (bad : Bool) : State :=
  let bits := ((s.logs.filter fun x => x.span == n && x.addr == a).map LogLine.bits).flatten
  let s : State := { s with logs := s.logs.filter fun x => !(x.span == n && x.addr == a) }
  let line := bits.foldl (fun (l : List Byte) b => setAt l (b / 8) (l.getD (b / 8) 0 ||| ((1 : Byte) <<< (b % 8)))) bs
  (if bad then s.logLost n
    else s.runJob { fn := .mf, span := none, dep := .log n a, write := true, parts := [{ addr := a, len := 64, data := line }] }).logFlush

/-! ### Entering Quiescing (R84, R115) -/

/-- The queues of a Span, by device-wide number. -/
def spanQueues (s : State) (n : Nat) : List Nat := (s.queues.filter fun e => e.2.used && e.2.span == n).map Prod.fst

/-- Trusses to which the image binds ENGINE queues of a Span. -/
def boundTrusses (s : State) (n : Nat) : List Nat :=
  ((s.queues.filter fun e => e.2.used && e.2.span == n && e.2.kind == 2).map fun e => e.2.bind).eraseDups

/-- Enters Quiescing: cached entries are discarded, SPAN_NOTICE is raised once in the supervisor of each bound Truss, and
work that waits for Bus Master Enable ends (R88, R115). -/
def enterQuiescing (s : State) (n : Nat) : State :=
  let s := s.setSpan n { s.span n with state := .quiescing, drained := false, lateDone := false }
  let s := (s.spanQueues n).foldl discardCache s
  let s := (s.boundTrusses n).foldl (fun t k => t.pendSource (64 * k) 9) s
  ((s.retryStalled).retryEvents n).refreshDrained n

/-- Posts a quiesce request (R111). -/
def postQuiesce (s : State) (n : Nat) : State :=
  if bitOf (s.reg .STU_QREQ_MAP (n / 64)) (n % 64) then s else (s.setMap .STU_QREQ_MAP n).stuEvt 5

/-- A Span command ends (R534, R536). -/
def spanEnd (s : State) (q : Seq) (code : Nat) : State :=
  (s.endCmd F.STU_SPAN_STATUS_LAST_RESULT F.STU_SPAN_STATUS_LAST_SEQ 0 code q).stuEvt 4

/-- The MF vector of HEP_MSIX_VEC for TDISP events, which have no enable register: sent once for each event. -/
def tdispEvt (s : State) (bit n : Nat) : State :=
  ((s.setReg .HEP_TDISP_EVT 0 (s.reg .HEP_TDISP_EVT 0 ||| ((1 : Word) <<< bit))).setFld F.HEP_TDISP_EVT_LAST_SPAN 0 n).mfVector
    (s.fld F.HEP_MSIX_VEC_VEC 0)

/-- A locked or running TDI enters ERROR (R104). -/
def tdiError (s : State) (n : Nat) : State :=
  if s.tdiLocked n then (s.setSpan n { s.span n with tdi := .error }).tdispEvt 1 n else s

end State

/-! ### Context export and import (R136–R139, R180) -/

/-- A queue context as EXPORT carries it. -/
def State.blobQueue (s : State) (q : Nat) : QCtx :=
  let x := s.queue q
  { kind := BitVec.ofNat 4 x.kind
    state := match x.state with | .disabled => 0 | .active => 1 | .error => 2
    eq := BitVec.ofNat 8 (s.fld F.QE_CTX_CFG_EQ q), log2 := BitVec.ofNat 4 (s.fld F.QE_CTX_RING_LOG2_SIZE q)
    roHint := s.flag F.QE_CTX_CFG_RO_HINT q, prefetch := BitVec.ofNat 9 (s.fld F.QE_CTX_CFG_PREFETCH q)
    bind := BitVec.ofNat 4 x.bind, base := BitVec.ofNat 64 (256 * s.fld F.QE_CTX_RING_BASE q)
    pi := x.pi, ci := x.ci, di := x.di
    modInterval := BitVec.ofNat 10 (s.fld F.QE_CTX_MOD_INTERVAL_US q), modCount := BitVec.ofNat 8 (s.fld F.QE_CTX_MOD_COUNT q)
    vec := if x.kind = 3 then BitVec.ofNat 6 (s.fld F.QE_CTX_EVT_VEC q) else 0
    armed := x.kind == 3 && x.armed, ovfPending := x.kind == 3 && x.ovfPending
    count := if x.kind = 1 ∨ x.kind = 3 then BitVec.ofNat 32 x.drops else 0
    completions := x.completions, bytes := x.bytes, malformed := BitVec.ofNat 32 x.malformed }

/-- The window registers of a Span in effect. -/
def State.blobWindows (s : State) (n : Nat) : List (Word × Word × Word) :=
  (List.range 8).map fun w => (s.reg .STU_WIN_BASE (8 * n + w), s.reg .STU_WIN_TARGET (8 * n + w), s.reg .STU_WIN_CTL (8 * n + w))

/-- The context that EXPORT writes (R136, R139). -/
def State.blobOf (s : State) (n : Nat) : Blob :=
  let q := (s.span n).queues
  let f := (s.spanFn n).getD .mf
  let vec (v : Nat) := s.vec f v
  { magic := 0x53504E58, version := 1, queues := q, srcSpan := BitVec.ofNat 16 n, len := 4096 + 256 * q
    exportTime := s.wide
    mode := BitVec.ofNat 3 (getBits (s.reg .STU_CTX_XLATE n) 0 3)
    windows := s.blobWindows n
    inWord := (s.mail n).inWord, outWord := (s.mail n).outWord, inFull := (s.mail n).inFull, outFull := (s.mail n).outFull
    msix := (List.range 64).map fun v => ((vec v).addr, (vec v).data, (vec v).masked)
    pba := (List.range 64).foldl (fun w v => if (vec v).pending then w ||| ((1 : Word) <<< v) else w) 0
    contexts := (List.range q).map fun i => s.blobQueue ((s.span n).firstQueue + i) }

/-! ### Peer windows (R129, R131, R132) -/

/-- A window as three register words spell it: enabled, first byte and one past the last in BAR2, permissions, target. -/
structure Window where
  en : Bool
  lo : Nat
  hi : Nat
  rd : Bool
  wr : Bool
  target : Nat
  pier : Nat
  spm : Bool
  deriving DecidableEq, Repr

/-- R129, from STU_WIN_BASE, STU_WIN_TARGET and STU_WIN_CTL; PAGES is at least 1 and at most 16,777,216. -/
def Window.ofRegs (base target ctl : Word) : Window :=
  let lo := 4096 * getBits base 12 24
  let n := 4096 * clampN 1 16777216 (getBits ctl 16 25)
  { en := bitOf ctl 0, lo := lo, hi := lo + n, rd := bitOf ctl 1, wr := bitOf ctl 2
    target := 4096 * getBits target 12 25, pier := getBits target 40 2, spm := bitOf target 63 }

/-- The target of an enabled window of Span `n` keeps R129: each Bay that a scratchpad target touches is owned by the Span's window at
the commit (log entry 94), and accesses are judged again by the owner then (R435). -/
def State.targetOk (s : State) (n : Nat) (w : Window) : Bool :=
  if w.spm then
    decide (w.target + (w.hi - w.lo) ≤ 0x1000000) &&
      (List.range 8).all fun b => decide (w.hi - w.lo = 0 ∨ (b + 1) * 0x200000 ≤ w.target ∨ w.target + (w.hi - w.lo) ≤ b * 0x200000) ||
        (s.bay w.pier b).owner == ownerSpan n
  else s.inEngineRegion w.target (w.hi - w.lo)

/-- Two enabled windows of a list overlap. -/
def overlapping : List Window → Bool
  | [] => false
  | w :: t => (t.any fun v => w.lo < v.hi && v.lo < w.hi) || overlapping t

/-- BAR2 size in effect for a Span's link (R74). -/
def State.bar2Size (s : State) (n : Nat) : Nat := match s.spanLink n with | some h => (s.face h.val).bar2 | none => 0

/-- The result of R132 for a window set; of several tests that fail the first in R132's order gives it (log entry 95). -/
def State.winTest (s : State) (n : Nat) (ws : List Window) : Nat :=
  let on := ws.filter (·.en)
  if overlapping on then 1 else if on.any fun w => decide (s.bar2Size n < w.hi) then 2
  else if on.any fun w => !s.targetOk n w then 3 else 0

/-- The shadow set of a Span, and the set in effect. -/
def State.shadowWins (s : State) (n : Nat) : List Window :=
  (List.range 8).map fun w => Window.ofRegs (s.shadowed .STU_WIN_BASE (8 * n + w)) (s.shadowed .STU_WIN_TARGET (8 * n + w))
    (s.shadowed .STU_WIN_CTL (8 * n + w))
def State.wins (s : State) (n : Nat) : List Window :=
  (s.blobWindows n).map fun x => Window.ofRegs x.1 x.2.1 x.2.2

/-- A write that a locked TDI refuses: dropped, flagged and recorded (R103, R142). -/
def State.writeDropped (s : State) (n : Nat) : State := (s.tdispEvt 0 n).raise 0x04 0x09 n

/-! ### Span commands (R109, R112, R536) -/

namespace State

/-- The Span that STU_SPAN_SEL names. -/
def selSpan (s : State) : Nat := s.fld F.STU_SPAN_SEL_SPAN 0

/-- A Span command, by its OP, on the selected Span; BUSY while one runs (R534). -/
def spanCmdOn (s : State) (op : Nat) (q : Seq) (f : State → Nat → State) : State :=
  s.onReg .STU_SPAN_CMD 0 (cmdWord op q) fun s => if s.spanCmd.isSome then s.spanEnd q 1 else f s s.selSpan

/-- A long-running Span command starts. -/
def spanStart (s : State) (op : SpanOp) (n : Nat) (q : Seq) : State :=
  { s.setFld F.STU_SPAN_STATUS_CMD_BUSY 0 1 with spanCmd := some { op := op, span := n, seq := q } }

/-- The long-running Span command ends. -/
def spanFinish (s : State) (q : Seq) (code : Nat) : State :=
  { s.setFld F.STU_SPAN_STATUS_CMD_BUSY 0 0 with spanCmd := none }.spanEnd q code

/-- A Span owns something: a buffer, a Bay or a table-entry lock (R109, R122). -/
def spanOwns (s : State) (n : Nat) : Bool :=
  let o := ownerSpan n
  s.recs.any (fun e => e.2.owner == o) || s.bays.any (fun e => e.2.owner == o) || s.locks.any fun e => e.2 == o

/-- Drops the cached translations of a Span (R128). -/
def dropXlate (s : State) (n : Nat) : State := { s with tlb := s.tlb.filter fun x => x.span != n }

/-- Pending Quiesced values of a Span and of its queues take effect (R109, R113). -/
def spanQuiesced (s : State) (n : Nat) : State :=
  let s := if (s.pend .STU_CTX_XLATE n).mask = 0 then s else s.dropXlate n
  let s := (s.applyMask .STU_CTX_XLATE n (Reg.quiescedMask .STU_CTX_XLATE)).applyMask .MBX_ROUTE n (Reg.quiescedMask .MBX_ROUTE) |>.fullMap n
  (s.spanQueues n).foldl queueQuiesced s

/-- A queue's context returns to its initial values; kind, binding and owner come from the image (R112, R167). -/
def resetQueue (s : State) (q : Nat) : State :=
  let x := s.queue q
  let s := s.dropCharge q
  let s := match x.disabling with | some seq => (s.setFld F.QE_Q_STATUS_BUSY 0 0).queueEnd seq 0 | none => s
  let s := s.setQueue q { used := x.used, span := x.span, index := x.index, kind := x.kind, bind := x.bind }
  let s : State := { s with shadow := SMap.keep (fun k => k != regKey .QE_CTX_RING q && k != regKey .QE_CTX_CFG q) s.shadow }
  (([Reg.QE_CTX_RING, .QE_CTX_CFG, .QE_CTX_MOD, .QE_CTX_EVT]).foldl (fun t r => t.setReg r q r.resetWord) s).legalEq q |>.rxFlush q

/-- RESET (R112): the mailboxes' words and flags go, and with them the channel's bit in MBX_FULL_MAP. -/
def resetSpanCtx (s : State) (n : Nat) : State :=
  let s := (((s.spanQueues n).foldl resetQueue s).setMail n {}).setFld F.MBX_STATUS_TO_DROPPED n 0
  s.setReg .MBX_FULL_MAP (n / 64) (s.reg .MBX_FULL_MAP (n / 64) &&& ~~~((1 : Word) <<< (n % 64)))

/-- The window set in effect and its shadow, cleared. -/
def clearWindows (s : State) (n : Nat) : State :=
  (List.range 8).foldl (fun t w =>
    ([Reg.STU_WIN_BASE, .STU_WIN_TARGET, .STU_WIN_CTL]).foldl (fun u r =>
      (u.setReg r (8 * n + w) 0).dropPend r (8 * n + w) 0xFFFFFFFFFFFFFFFF) t) s

/-- Every per-Span register and context at its reset value (R109, INIT); the TDI leaves ERROR only by STOP_INTERFACE_REQUEST (R104), so
it keeps its state and its stream (log entry 92). -/
def initSpan (s : State) (n : Nat) : State :=
  let s := (s.resetSpanCtx n).clearWindows n
  let s := ([Reg.STU_CTX_XLATE, .STU_LOG_CTL, .STU_LOG_BASE_A, .STU_LOG_BASE_B, .STU_XFER_ADDR, .STU_WIN_STATUS, .MBX_ROUTE]).foldl
    (fun t r => (t.setReg r n r.resetWord).dropPend r n 0xFFFFFFFFFFFFFFFF) s
  let x := s.span n
  (s.dropXlate n).setSpan n { queues := x.queues, firstQueue := x.firstQueue, tdispCapable := x.tdispCapable, tdi := x.tdi, stream := x.stream }

/-- The bytes of a blob pass R137. -/
def blobOk (s : State) (n : Nat) (bs : List Byte) : Bool :=
  let b := Blob.ofBytes bs
  b.magic == 0x53504E58 && b.version == 1 && b.len == 4096 + 256 * b.queues && b.queues == (s.span n).queues && bs.length == b.len &&
    Blob.crcOk bs && s.winTest n (b.windows.map fun x => Window.ofRegs x.1 x.2.1 x.2.2) == 0

/-- Loads one queue context of a blob, clamped as a write of its registers would be (R182); kind, binding and identity stay the
image's, and what the layout does not carry (DB_PEND, events lost, gathered completions) the queue's earlier values (log entry 113). -/
def loadQueue (s : State) (q : Nat) (c : QCtx) : State :=
  let x := s.queue q
  let s := s.setQueue q { x with
    state := if c.state = 1 then .active else if c.state = 2 then .error else .disabled
    pi := c.pi, ci := c.ci, di := c.di, cached := [], begun := [], fetching := 0, armed := c.armed, ovfPending := c.ovfPending
    drops := c.count.toNat, completions := c.completions, bytes := c.bytes, malformed := c.malformed.toNat }
  let s := (s.setFld F.QE_CTX_CFG_EQ q (s.fixEq q c.eq.toNat)).setFld F.QE_CTX_RING_LOG2_SIZE q (clampN 4 15 c.log2.toNat)
  let s := (s.setFld F.QE_CTX_CFG_RO_HINT q (b2n c.roHint)).setFld F.QE_CTX_CFG_PREFETCH q (clampN 16 256 c.prefetch.toNat)
  let s := (s.setFld F.QE_CTX_RING_BASE q (c.base.toNat / 256)).setFld F.QE_CTX_MOD_INTERVAL_US q c.modInterval.toNat
  let s := (s.setFld F.QE_CTX_MOD_COUNT q c.modCount.toNat).setFld F.QE_CTX_EVT_VEC q c.vec.toNat
  if c.state = 1 then s else s.rxFlush q

/-- Loads queue contexts from queue `q` on. -/
def loadQueues (s : State) : Nat → List QCtx → State
  | _, [] => s
  | q, c :: t => loadQueues (s.loadQueue q c) (q + 1) t

/-- Loads a blob's windows from window register `i` on. -/
def loadWindows (s : State) : Nat → List (Word × Word × Word) → State
  | _, [] => s
  | i, (a, b, c) :: t =>
    loadWindows (((s.setReg .STU_WIN_BASE i a).setReg .STU_WIN_TARGET i b).setReg .STU_WIN_CTL i c) (i + 1) t

/-- Loads a blob's MSI-X table from vector `v` on. -/
def loadMsix (s : State) (f : Fn) (pba : Word) : Nat → List (Word × BitVec 32 × Bool) → State
  | _, [] => s
  | v, (a, d, m) :: t => loadMsix (s.setVec f v { addr := a, data := d, masked := m, pending := bitOf pba v }) f pba (v + 1) t

/-- IMPORT succeeds (R109, R136, R137). -/
def importBlob (s : State) (n : Nat) (b : Blob) : State :=
  let s := s.dropXlate n
  let s := s.setReg .STU_CTX_XLATE n (setBits (s.reg .STU_CTX_XLATE n) 0 3 b.mode.toNat)
  let s := (s.loadQueues (s.span n).firstQueue b.contexts).loadWindows (8 * n) b.windows
  let s := s.setMail n { s.mail n with inWord := b.inWord, outWord := b.outWord, inFull := b.inFull, outFull := b.outFull }
  let s := s.fullMap n
  let s := match s.spanFn n with | some f => s.loadMsix f b.pba 0 b.msix | none => s
  s.setSpan n { s.span n with state := .quiesced, resetRequired := false, drained := false }

/-! ### Resets of R81 -/

/-- A blob's bytes go to the Manager's memory at STU_XFER_ADDR (R136). -/
def blobWrite (s : State) (n : Nat) (bs : List Byte) : State :=
  s.runJob { fn := .mf, span := none, dep := .blob, write := true, parts := s.writeCut .mf (4096 * s.fld F.STU_XFER_ADDR_ADDR n) bs }

/-- A Span command's reads that are still out, or wait to go, serve nobody any more. -/
def blobDrop (s : State) : State :=
  { s with tags := s.tags.map fun e => match e.2 with
             | .outstanding r => if r.dep = .blob then (e.1, .outstanding { r with dep := .other }) else e
             | _ => e,
           stalled := s.stalled.map fun j => if j.dep = .blob then { j with dep := .other } else j }

/-- A read or a write of the running Span command's transfer is still out, or waits to go. -/
def blobBusy (s : State) : Bool :=
  (s.tags.any fun e => match e.2 with | .outstanding r => r.dep == .blob | _ => false) || s.stalled.any fun j => j.dep == .blob

/-- A reset of R81 cuts a running EXPORT or IMPORT of the Span (R138). -/
def interrupt (s : State) (n : Nat) : State :=
  match s.spanCmd with
  | some c =>
    if c.span = n ∧ c.op = .exportBlob then ((s.blobWrite n ((s.blobOf n).bytesCrc 0)).blobDrop).spanFinish c.seq 0x0A
    else if c.span = n ∧ c.op = .importBlob then
      ((s.setSpan n { s.span n with resetRequired := true }).blobDrop).spanFinish c.seq 0x0A
    else s
  | none => s

/-- A reset of R81 reaches a Span (R104, R109–R111, R138). -/
def resetReaches (s : State) (n : Nat) : State :=
  let s := (s.interrupt n).tdiError n
  let x := s.span n
  match x.state with
  | .enabled => ((s.setSpan n { x with resetRequired := true, byReset := true }).enterQuiescing n).postQuiesce n
  | .quiescing | .quiesced => (s.setSpan n { x with resetRequired := true }).postQuiesce n
  | _ => s

end State

/-! ### The rows -/

/-- SPAN_ENABLE (R109). -/
def execSpanEnable (q : Seq) (s : State) : Out3 := .next <| s.spanCmdOn 1 q fun s n =>
  let x := s.span n
  let go := if s.vfPresent n then
      (s.setSpan n { x with state := .enabled, drained := false, byReset := false }).spanEnd q 0
    else s.spanEnd q 5
  match x.state with
  | .disabled => go
  | .quiesced => if x.resetRequired then s.spanEnd q 9 else go
  | _ => s.spanEnd q 2

/-- SPAN_QUIESCE (R109, R115). -/
def execSpanQuiesce (q : Seq) (s : State) : Out3 := .next <| s.spanCmdOn 2 q fun s n =>
  if (s.span n).state = .enabled then ((s.setSpan n { s.span n with byReset := false }).enterQuiescing n).spanEnd q 0
  else s.spanEnd q 2

/-- SPAN_COMPLETE (R109, R116). -/
def execSpanComplete (q : Seq) (s : State) : Out3 := .next <| s.spanCmdOn 3 q fun s n =>
  let x := s.span n
  if x.state ≠ .quiescing then s.spanEnd q 2
  else if !x.drained then s.spanEnd q 3
  else ((s.setSpan n { x with state := .quiesced, drained := false, byReset := false }).spanQuiesced n).spanEnd q 0

/-- SPAN_RESET (R112, R114): runs until SPAN_CMD_DONE; on a locked TDI the write is dropped (R103). -/
def execSpanReset (q : Seq) (s : State) : Out3 := .next <| s.spanCmdOn 4 q fun s n =>
  if (s.span n).state ≠ .quiesced then s.spanEnd q 2
  else if s.tdiLocked n then s.writeDropped n
  else s.spanStart .reset n q

/-- SPAN_REMOVE (R109): the Span is Removed, its window set cleared and its logging off; on a locked TDI the write is dropped (R103). -/
def execSpanRemove (q : Seq) (s : State) : Out3 := .next <| s.spanCmdOn 5 q fun s n =>
  if (s.span n).state ≠ .quiesced then s.spanEnd q 2
  else if s.tdiLocked n then s.writeDropped n
  else if s.spanOwns n then s.spanEnd q 4
  else
    let s := ((s.setSpan n { s.span n with state := .removed }).clearWindows n).setFld F.STU_LOG_CTL_EN n 0
    s.spanStart .remove n q

/-- SPAN_INIT (R109); on a locked TDI the write is dropped (R103). -/
def execSpanInit (q : Seq) (s : State) : Out3 := .next <| s.spanCmdOn 6 q fun s n =>
  if (s.span n).state = .removed ∧ s.tdiLocked n then s.writeDropped n
  else if (s.span n).state = .removed then (s.initSpan n).spanStart .init n q else s.spanEnd q 2

/-- SPAN_EXPORT (R136, R137): runs until SPAN_CMD_DONE; the pending STU_XFER_ADDR takes effect. -/
def execSpanExport (q : Seq) (s : State) : Out3 := .next <| s.spanCmdOn 7 q fun s n =>
  if (s.span n).state ≠ .quiesced then s.spanEnd q 2
  else if s.tdiLocked n then s.spanEnd q 6
  else (s.epoch .transfer .STU_XFER_ADDR n).spanStart .exportBlob n q

/-- SPAN_IMPORT (R137): the reads of a blob as long as the Span's own go out, and it runs until SPAN_CMD_DONE; of its refusals
TDISP_LOCKED comes first, then OWNS_RESOURCES (log entry 96). -/
def execSpanImport (q : Seq) (s : State) : Out3 := .next <| s.spanCmdOn 8 q fun s n =>
  if (s.span n).state ≠ .disabled ∧ (s.span n).state ≠ .quiesced then s.spanEnd q 2
  else if s.tdiLocked n then s.spanEnd q 6
  else if s.spanOwns n then s.spanEnd q 4
  else
    let s := (s.epoch .transfer .STU_XFER_ADDR n).spanStart .importBlob n q
    s.runJob { fn := .mf, span := none, dep := .blob, write := false
               parts := s.readCut .mf (4096 * s.fld F.STU_XFER_ADDR_ADDR n) (4096 + 256 * (s.span n).queues) }

/-- LOG_SWAP (R134): the other bitmap becomes active; ends at SPAN_CMD_DONE once the old one is flushed. -/
def execLogSwap (q : Seq) (s : State) : Out3 := .next <| s.spanCmdOn 9 q fun s n =>
  let s := (s.epoch .logEnOrSwap .STU_LOG_BASE_A n).epoch .logEnOrSwap .STU_LOG_BASE_B n
  (s.setFld F.STU_LOG_CTL_CUR n (1 - s.fld F.STU_LOG_CTL_CUR n)).spanStart .logSwap n q |>.logFlush

/-- SPAN_CMD_DONE (R536): the running Span command's rewrite, transfer or flush has finished, as `r` says; it has not while a request
of it is out or waits. A transfer that failed ends with READ_ERROR (R142), LOG_SWAP's flushing read too (log entry 97). -/
def execSpanCmdDone (r : TransferEnd) (s : State) : Out3 := .next <|
  match s.spanCmd with
  | none => s
  | some c =>
    if s.blobBusy then s
    else match c.op, r with
    | .reset, _ =>
      let s := s.resetSpanCtx c.span
      (s.setSpan c.span { s.span c.span with resetRequired := false }).spanFinish c.seq 0
    | .exportBlob, _ =>
      if s.mfWaits then s
      else
        let s := s.blobWrite c.span (s.blobOf c.span).bytes
        s.spanFinish c.seq (if s.linkUp s.mgmtLink then 0 else 8)
    | .importBlob, .blob bs =>
      if c.bad then s.spanFinish c.seq 8
      else if s.blobOk c.span bs then (s.importBlob c.span (.ofBytes bs)).spanFinish c.seq 0 else s.spanFinish c.seq 7
    | .importBlob, .done => if c.bad then s.spanFinish c.seq 8 else s
    | .logSwap, _ => if c.flushed then s.spanFinish c.seq (if c.bad then 8 else 0) else s
    | _, _ => s.spanFinish c.seq 0

/-- QUIESCE_LATE (R118): 80 ms in Quiescing after a reset put the Span there. -/
def execQuiesceLate (n : SpanId) (s : State) : Out3 := .next <|
  let x := s.span n.val
  if x.state == .quiescing && x.byReset && !x.lateDone then
    (((s.setSpan n.val { x with lateDone := true }).setMap .STU_LATE_MAP n.val).stuEvt 1).raise 0x05 0x01 n.val
  else s

/-- WIN_COMMIT (R131, R132): the selected Span's shadow window set takes effect at once, or is refused. -/
def execWinCommit (s : State) : Out3 := .next <| s.onReg .STU_WIN_COMMIT 0 1 fun s =>
  let n := s.selSpan
  if s.tdiLocked n then s.writeDropped n
  else
    let r := s.winTest n (s.shadowWins n)
    let s := s.setFld F.STU_WIN_STATUS_RESULT n r
    let s :=
      if r ≠ 0 then s
      else
        let s := (List.range 8).foldl (fun t w =>
          ([Reg.STU_WIN_BASE, .STU_WIN_TARGET, .STU_WIN_CTL]).foldl (fun u g => u.epoch .winCommit g (8 * n + w)) t) s
        s.setFld F.STU_WIN_STATUS_COMMIT_CNT n (s.fld F.STU_WIN_STATUS_COMMIT_CNT n + 1)
    s.stuEvt 4

/-- The scope of an invalidation covers a cached translation (R128): 0 a 4 KiB page with a 2 MiB translation covering it,
1 a 2 MiB range, 2 a Span, 3 everything. -/
def invCovers (scope : BitVec 2) (n page : Nat) (x : Xlate) : Bool :=
  match scope.toNat with
  | 0 => x.span == n && (if x.big then x.page / 512 == page / 512 else x.page == page)
  | 1 => x.span == n && x.page / 512 == page / 512
  | 2 => x.span == n
  | _ => true

/-- A request used a translation in the scope. -/
def invRequest (scope : BitVec 2) (n page : Nat) (r : HostReq) : Bool :=
  match scope.toNat with
  | 0 => r.span == some n && (r.page == page || (r.big && r.page / 512 == page / 512))
  | 1 => r.span == some n && r.page / 512 == page / 512
  | 2 => r.span == some n
  | _ => r.span.isSome

/-- Tags of the requests that satisfy `p`. -/
def State.tagsOf (s : State) (p : HostReq → Bool) : List Nat :=
  (s.tags.filter fun e => match e.2 with | .outstanding r => p r | _ => false).map Prod.fst

/-- An invalidation is accepted. -/
def State.invAccept (s : State) (n : Nat) (scope : BitVec 2) (page : Nat) (q : Seq) : State :=
  let s : State := { s with tlb := s.tlb.filter fun x => !invCovers scope n page x }
  let v : Inval := { span := n, scope := scope, page := page, seq := q, waitOn := s.tagsOf (invRequest scope n page) }
  { s.setFld F.STU_INV_STATUS_BUSY 0 1 with invals := s.invals ++ [v] }

/-- STU_INV_CMD (R128): accepted while fewer than 16 run; a further one waits on the register ring until one finishes. -/
def execStuInvCmd (n : SpanId) (scope : BitVec 2) (q : Seq) (s : State) : Out3 := .next <|
  let w := cmdWord (n.val + 2 ^ 12 * scope.toNat) q
  s.onReg .STU_INV_CMD 0 w fun s =>
    if s.invals.length < 16 then s.invAccept n.val scope (s.fld F.STU_INV_ADDR_ADDR 0) q
    else s.ringWait (.write (regOff .STU_INV_CMD 0) w)

end Sys2Proof.Machine
end

