-- ==== Sys2Proof/Machine/Spm.lean ====
section
/-!
DEFINITION. Scratchpad Bays (chapter 15): access checks and their reporting, words and poison, alias views, handover, power
modes and the management path.
-/

namespace Sys2Proof.Machine

/-- Masters of R431: 0–2 a Truss of the Pier, 3 DMA, 4 pipeline, 5 Span window, 6 management path. -/
abbrev SpmMaster := Nat

namespace State

/-- The Bay of a Pier offset (R427). -/
def bayOf (off : Nat) : Nat := off / 0x200000 % 8

/-- A shared-port access of a Bay's new owner waits for the end of the handover (R437). -/
def bayHolds (s : State) (p off : Nat) (actor : BitVec 16) (master : SpmMaster) : Bool :=
  let b := s.bay p (bayOf off)
  b.pwr == 0 && b.transit.isNone && decide (3 ≤ master) && match b.handover with | some (new, _, _) => new == actor | none => false

/-- An access that waits for the end of a handover (R437). -/
def spmHold (s : State) (x : SpmWait) : State := { s with spmWait := s.spmWait ++ [x] }

/-- The check of an access (R434, R435, R437): none, or the CAUSE of its refusal; one that `bayHolds` keeps waiting is not refused. -/
def bayAns (s : State) (p off : Nat) (actor : BitVec 16) (master : SpmMaster) : Option Nat :=
  let b := s.bay p (bayOf off)
  if b.pwr ≠ 0 || b.transit.isSome then some 2
  else match b.handover with
    | some (new, _, _) => if new = actor ∧ 3 ≤ master then none else some 1
    | none => if b.owner = actor then none else some 1

/-- The value of an SPM error capture (R442). -/
def spmCapture (off master cause : Nat) (write : Bool) (actor recorded : BitVec 16) : Word :=
  BitVec.ofNat 64 (off % 2 ^ 24 + 2 ^ 24 * master + 2 ^ 27 * cause + 2 ^ 30 * b2n write + 2 ^ 31 +
    2 ^ 32 * actor.toNat + 2 ^ 48 * recorded.toNat)

/-- Captures an SPM error if VALID is 0. -/
def spmCap (s : State) (p : Nat) (w : Word) : State :=
  if s.flag F.SPM_ERR_CAPTURE_VALID p then s else s.setReg .SPM_ERR_CAPTURE p w

def spmEvt (s : State) (p b : Nat) : State := s.setEvt .SPM_EVT .SPM_EVT_EN .SPM_MSIX_VEC p b

/-- A discarded access is counted, captured and flagged (R435). -/
def spmRefuse (s : State) (p off : Nat) (actor : BitVec 16) (master cause : Nat) (write : Bool) : State :=
  (((s.bump F.SPM_ERR_CNT_NON_OWNER p).spmCap p
    (spmCapture off master cause write actor (s.bay p (bayOf off)).owner)).spmEvt p 0)

/-! ### Words -/

def wordKey (p off : Nat) : Nat := 0x200000 * p + off % 0x1000000 / 8

def spmWord (s : State) (p off : Nat) : Word := SMap.get 0 s.spm (wordKey p off)
def spmBad (s : State) (p off : Nat) : Bool := SMap.get false s.spmPoison (wordKey p off)

/-- Writes a whole word; it is then not poisoned unless the data is (R443). -/
def setWord (s : State) (p off : Nat) (w : Word) (bad : Bool := false) : State :=
  { s with spm := SMap.put 0 s.spm (wordKey p off) w, spmPoison := SMap.put false s.spmPoison (wordKey p off) bad }

def spmByte (s : State) (p off : Nat) : Byte := (s.spmWord p off >>> (8 * (off % 8))).setWidth 8

/-- `n` bytes of a Pier's scratchpad. -/
def spmRead (s : State) (p off n : Nat) : List Byte := (List.range n).map fun i => s.spmByte p (off + i)

/-- Some word of a range is poisoned. -/
def spmBadIn (s : State) (p off n : Nat) : Bool :=
  (List.range (n / 8 + 2)).any fun i => decide (off / 8 + i ≤ (off + n - 1) / 8) && s.spmBad p (8 * (off / 8 + i))

/-- Writes one byte; a poisoned word stays poisoned (R443). -/
def setByte (s : State) (p off : Nat) (b : Byte) : State :=
  { s with spm := SMap.put 0 s.spm (wordKey p off) (setBits (s.spmWord p off) (8 * (off % 8)) 8 b.toNat) }

/-- Writes bytes one by one. -/
def setBytes (s : State) (p : Nat) : Nat → List Byte → State
  | _, [] => s
  | off, b :: t => setBytes (s.setByte p off b) p (off + 1) t

/-- Clears, or sets, the poison of every word that a write of `n` bytes from `off` covers whole. -/
def markWords (s : State) (p off n : Nat) (bad : Bool) : State :=
  (List.range (n / 8 + 1)).foldl (fun t i =>
    let w := 8 * ((off + 7) / 8 + i)
    if w + 8 ≤ off + n then { t with spmPoison := SMap.put false t.spmPoison (wordKey p w) bad }
    else t) s

/-- Marks every word that a range touches as poisoned. -/
def poisonWords (s : State) (p off n : Nat) : State :=
  (List.range (n / 8 + 2)).foldl (fun t i =>
    let w := 8 * (off / 8 + i)
    if w < off + n then { t with spmPoison := SMap.put false t.spmPoison (wordKey p w) true } else t) s

/-- A write of a run of bytes: whole words lose their poison, part words keep it; poisoned data poisons what it touches. -/
def spmWrite (s : State) (p off : Nat) (bs : List Byte) (bad : Bool := false) : State :=
  let s := s.setBytes p off bs
  if bad then s.poisonWords p off bs.length else s.markWords p off bs.length false

/-- The ECC check of a read (R443): a corrected error is counted; an uncorrected one poisons the word. -/
def spmEcc (s : State) (p off : Nat) (e : Ecc) : State :=
  match e with
  | .ok => s
  | .corrected => (s.bump F.SPM_STORE_ERR_CE p).raise (0x45 + 16 * p) 0x02 off
  | .uncorrected => { s with spmPoison := SMap.put false s.spmPoison (wordKey p off) true }

/-- The poisoned words that a range of bytes touches. -/
def badWords (s : State) (p off n : Nat) : List Nat :=
  ((List.range (n / 8 + 2)).map fun i => 8 * (off / 8 + i)).filter fun w => decide (w < off + n) && s.spmBad p w

/-- A read of a poisoned word is counted, captured, flagged and recorded (R443). -/
def spmUe (s : State) (p off : Nat) (actor : BitVec 16) (master : Nat) : State :=
  let w := spmCapture off master 3 false actor (s.bay p (bayOf off)).owner
  let s := ((s.bump F.SPM_STORE_ERR_UE p).spmCap p w).spmEvt p 2
  s.raise (0x45 + 16 * p) 0x01 (s.reg .SPM_ERR_CAPTURE p).toNat

/-- Each poisoned word that a read of a range touches. -/
def spmUeIn (s : State) (p off n : Nat) (actor : BitVec 16) (master : Nat) : State :=
  (s.badWords p off n).foldl (fun t w => t.spmUe p w actor master) s

/-- An access of the Pipeline of a Pier (R434), and whether it is refused (R435); a read of a poisoned word is reported as R443 says
and goes on (log 117). -/
def pipeAccess (s : State) (p : Nat) (a : PipeAccess) : State × Bool :=
  let off := a.off.toNat
  if s.bayHolds p off (ownerPipe p) 4 then (s.spmHold (.pipe p a), false)
  else match s.bayAns p off (ownerPipe p) 4 with
    | some c => (s.spmRefuse p off (ownerPipe p) 4 c a.write.isSome, true)
    | none => match a.write with
      | some w => (s.setWord p off w, false)
      | none => ((s.spmEcc p off a.ecc).spmUeIn p off 1 (ownerPipe p) 4, false)

/-! ### Handover and power (R436–R438) -/

/-- A Bay request ends (R441): LAST_RESULT, LAST_SEQ of the Bay, and CMD_DONE. -/
def bayEnd (s : State) (p b : Nat) (q : Seq) (code : Nat) : State :=
  (s.endCmd F.SPM_BAY_STATUS_LAST_RESULT F.SPM_BAY_STATUS_LAST_SEQ (8 * p + b) code q).spmEvt p 1

/-- NEW of R436 as it is stored: a kind that R434 does not allow, another Pier's object, or no encoding of R120 becomes the MF. -/
def bayNew (p : Nat) (o : BitVec 16) : BitVec 16 :=
  let k := ownerKind o
  let i := ownerId o
  if !o.getLsbD 12 && (k = 1 ∨ (k = 4 ∧ i / 3 = p ∧ i < 12) ∨ (k = 5 ∧ i = p) ∨ (k = 6 ∧ i = p)) then o else ownerMf

/-- The Bay that SPM_BAY_SEL names. -/
def selBay (s : State) (p : Nat) : Nat := s.fld F.SPM_BAY_SEL_BAY p

end State

/-- BAY_HANDOVER (R436, R437): a write of SPM_BAY_OWNER for the selected Bay. -/
def execBayHandover (p : Pier) (new expect : BitVec 16) (q : Seq) (s : State) : Out3 := .next <|
  s.onReg .SPM_BAY_OWNER p.val ((new.setWidth 64 ||| expect.setWidth 64 <<< 16) ||| q.setWidth 64 <<< 32) fun s =>
  let b := s.selBay p.val
  let x := s.bay p.val b
  let o := State.bayNew p.val new
  if x.handover.isSome || x.transit.isSome then s.bayEnd p.val b q 1
  else if expect ≠ x.owner then s.bayEnd p.val b q 2
  else if State.ownerKind x.owner == 1 && s.ownerLive x.owner then
    let s := s.spmCap p.val (State.spmCapture (0x200000 * b) 6 4 true State.ownerMf x.owner)
    (s.raise (0x45 + 16 * p.val) 0x03 (b + 2 ^ 16 * x.owner.toNat)).bayEnd p.val b q 3
  else if x.pwr ≠ 0 ∧ o ≠ State.ownerMf then s.bayEnd p.val b q 4
  else s.setBay p.val b { x with handover := some (o, q, false) }

/-- BAY_PWR_REQUEST (R438): a write of SPM_BAY_PWR for the selected Bay. -/
def execBayPwrRequest (p : Pier) (mode : BitVec 2) (q : Seq) (s : State) : Out3 := .next <|
  s.onReg .SPM_BAY_PWR p.val (cmdWord mode.toNat q) fun s =>
  let b := s.selBay p.val
  let x := s.bay p.val b
  let m := if mode = 3 then 0 else mode.toNat
  if x.handover.isSome || x.transit.isSome then s.bayEnd p.val b q 1
  else if x.pwr = 0 ∧ m ≠ 0 ∧ x.owner ≠ State.ownerMf then s.bayEnd p.val b q 5
  else s.setBay p.val b { x with transit := some (m, q) }

/-- Every word of a Bay to 0. -/
def State.zeroBay (s : State) (p b : Nat) : State :=
  let out (k : Nat) : Bool := decide (k / 0x40000 ≠ 8 * p + b)
  { s with spm := SMap.keep out s.spm, spmPoison := SMap.keep out s.spmPoison }

/-- BAY_PWR_DONE (R438): the mode takes effect; a Bay that enters or leaves OFF holds zeros. -/
def execBayPwrDone (p : Pier) (b : Fin 8) (s : State) : Out3 := .next <|
  let x := s.bay p.val b.val
  match x.transit with
  | none => s
  | some (m, q) =>
    let s := if m = 2 ∨ (x.pwr = 2 ∧ m = 0) then s.zeroBay p.val b.val else s
    (s.setBay p.val b.val { x with pwr := m, transit := none }).bayEnd p.val b.val q 0

/-- The word that the management path names. -/
def State.mgmtOff (s : State) (p : Nat) : Nat := s.fld F.SPM_MGMT_ADDR_WORD p * 8

/-- A read of SPM_MGMT_DATA (R439). -/
def State.mgmtRead (s : State) (p : Nat) (e : Ecc) : Word × State :=
  let off := s.mgmtOff p
  match s.bayAns p off State.ownerMf 6 with
  | some c => (0, s.spmRefuse p off State.ownerMf 6 c false)
  | none =>
    let s := s.spmEcc p off e
    (s.spmWord p off, if s.spmBad p off then s.spmUe p off State.ownerMf 6 else s)

/-- SPM_MGMT_READ (R439). -/
def execSpmMgmtRead (p : Pier) (e : Ecc) (s : State) : Out3 := .next <| s.onRead .SPM_MGMT_DATA p.val (e := e) fun s =>
  if s.bayHolds p.val (s.mgmtOff p.val) State.ownerMf 6 then s.spmHold (.mgmtRead p e)
  else
    let (w, s) := s.mgmtRead p.val e
    s.emit (.readData w)

/-- SPM_MGMT_WRITE (R439): a write of SPM_MGMT_DATA. -/
def execSpmMgmtWrite (p : Pier) (w : Word) (s : State) : Out3 := .next <| s.onReg .SPM_MGMT_DATA p.val w fun s =>
  let off := s.mgmtOff p.val
  if s.bayHolds p.val off State.ownerMf 6 then s.spmHold (.mgmtWrite p w)
  else match s.bayAns p.val off State.ownerMf 6 with
  | some c => s.spmRefuse p.val off State.ownerMf 6 c true
  | none => s.setWord p.val off w

end Sys2Proof.Machine
end

