-- ==== Sys2Proof/Machine/Dma.lean ====
section
/-!
DEFINITION. The Piers' DMA engines (chapter 15): descriptors and their checks, bursts, release and notices; and buffer grants
to those that wait (R260).
-/

namespace Sys2Proof.Machine

/-- Bits of a descriptor. -/
def descBits (d : BitVec 256) (lo n : Nat) : Nat := d.toNat / 2 ^ lo % 2 ^ n

/-- A descriptor with a field replaced. -/
def descSet (d : BitVec 256) (lo n v : Nat) : BitVec 256 :=
  (d &&& ~~~(BitVec.ofNat 256 (2 ^ n - 1) <<< lo)) ||| (BitVec.ofNat 256 (v % 2 ^ n) <<< lo)

namespace Desc

def barrier (d : BitVec 256) : Bool := descBits d 1 1 == 1
def notice (d : BitVec 256) : Bool := descBits d 2 1 == 1
def alloc (d : BitVec 256) : Bool := descBits d 3 1 == 1
def srcKind (d : BitVec 256) : Nat := descBits d 4 3
def dstKind (d : BitVec 256) : Nat := descBits d 8 3
def span (d : BitVec 256) : Nat := descBits d 24 12
def placer (d : BitVec 256) : Nat := descBits d 36 6
def src (d : BitVec 256) : Nat := descBits d 64 64
def dst (d : BitVec 256) : Nat := descBits d 128 64
def len (d : BitVec 256) : Nat := descBits d 192 25
def account (d : BitVec 256) : Nat := descBits d 224 13

/-- The reserved bits of R446 are 0; OWN, STATUS and PLACER are not tested. -/
def reservedOk (d : BitVec 256) : Bool :=
  descBits d 7 1 == 0 && descBits d 11 5 == 0 && descBits d 42 22 == 0 && descBits d 217 7 == 0 && descBits d 237 19 == 0

end Desc

namespace State

def chKey (p ch : Nat) : Nat := 64 * p + ch

/-- The device-wide Truss to which a channel is bound; none for the Management Function. -/
def chTruss (s : State) (p ch : Nat) : Option Nat :=
  if s.flag F.DMA_CH_CFG_BIND_TRUSS (chKey p ch) then some (3 * p + min 2 (s.fld F.DMA_CH_CFG_TRUSS (chKey p ch))) else none

/-- The owner a channel acts as on Bays (R434), and as a party to buffers (R447). -/
def chActor (s : State) (p ch : Nat) : BitVec 16 :=
  match s.chTruss p ch with | some t => ownerTruss t | none => ownerDma p
def chParty (s : State) (p ch : Nat) (d : BitVec 256) : BitVec 16 :=
  match s.chTruss p ch with | some t => ownerThread (64 * t + Desc.placer d) | none => ownerMf

def chRingSize (s : State) (p ch : Nat) : Nat := 2 ^ s.fld F.DMA_CH_RING_LOG2_SIZE (chKey p ch)

/-- Address of the descriptor at index `i` of a channel's ring (R444). -/
def chSlot (s : State) (p ch : Nat) (i : BitVec 16) : Nat :=
  256 * s.fld F.DMA_CH_RING_BASE (chKey p ch) + 32 * (i.toNat % s.chRingSize p ch)

/-- The checks of R447; 0 passes. -/
def descCheck (s : State) (p ch : Nat) (d : BitVec 256) : Nat :=
  let mf := (s.chTruss p ch).isNone
  let sk := Desc.srcKind d
  let dk := Desc.dstKind d
  let n := Desc.len d
  let bad :=
    decide (6 ≤ sk) || decide (5 ≤ dk) || ((sk == 3 || dk == 3) && !mf) || (sk == 0 && decide (0x1000000 ≤ Desc.src d)) ||
    (dk == 0 && decide (0x1000000 ≤ Desc.dst d)) || n == 0 || decide (0x1000000 < n) || !Desc.reservedOk d ||
    (Desc.alloc d && (dk != 4 || decide (16384 < n) || decide (s.accounts ≤ Desc.account d)))
  let off (v : Nat) : Nat := v / 2 ^ 32 % 2 ^ 16
  let head (v : Nat) : Nat := v % 2 ^ 26
  let isHead (v : Nat) : Bool := (s.bufRec (head v)).refs != 0
  let notOwner (v : Nat) : Bool := !isHead v || (s.bufRec (head v)).owner != s.chParty p ch d
  let beyond (v : Nat) : Bool := isHead v && decide (s.chainCap (head v) < off v + n)
  if bad then 0x01
  else if (sk == 0 && decide (0x1000000 < Desc.src d + n)) || (dk == 0 && decide (0x1000000 < Desc.dst d + n)) ||
      (sk == 1 && !s.inEngineRegion (Desc.src d) n) || (dk == 1 && !s.inEngineRegion (Desc.dst d) n) ||
      (sk == 4 && beyond (Desc.src d)) || (dk == 4 && !Desc.alloc d && beyond (Desc.dst d)) ||
      (dk == 4 && Desc.alloc d && decide (2048 * bufsFor n < off (Desc.dst d) + n)) then 0x11
  else if (sk == 4 && notOwner (Desc.src d)) || (dk == 4 && !Desc.alloc d && notOwner (Desc.dst d)) then 0x12
  else 0

/-- The writes, or the requests, of a burst's host end go out (R69): each is a part of the burst until it ends. -/
def dmaJob (s : State) (p ch b : Nat) (j : Job) : State :=
  (s.withRun p ch fun r =>
    { r with bursts := r.bursts.map fun x => if x.1 = b then (b, x.2 + (j.parts.length - 1)) else x }).runJob { j with dep := .dma p ch b }

/-- Ends a DMA request to a host function at once, with SPAN_QUIESCED: no function takes it; a quiet Span refuses it (R119). -/
def dmaNoHost (s : State) (p ch b n : Nat) (write : Bool) (a : Nat) : State :=
  ((if s.spanQuiet n then s.refuseQuiet n write a else s).chFail p ch 9).burstEnded p ch b 1

/-- A channel has written to a host: the link's last writer and place, for the BARRIER's read (R452). -/
def noteWrite (s : State) (p ch : Nat) (f : Fn) (span : Option Nat) (a : Nat) : State :=
  let c := s.dmaC p ch
  s.setDmaC p ch { c with wrote := (c.wrote.filter fun x => s.fnLink x.1 != s.fnLink f) ++ [(f, span, a)] }

/-- Bytes to write to a host, cut into requests, each poisoned if a byte of it is (R94). -/
def poisonCut (ps : List Part) (a : Nat) (bad : List Bool) : List Part :=
  ps.map fun p => { p with poisoned := ((bad.drop (p.addr - a)).take p.len).any id }

/-- The 64-byte lines of RLD, or the scratchpad words, that hold bad bytes take their poison. -/
def poisonBytes (s : State) (bad : List Bool) (mark : State → Nat → State) : State :=
  (List.range bad.length).foldl (fun t i => if bad.getD i false then mark t i else t) s

/-- Writes bytes of a descriptor at offset `off` of its destination, for the burst that began at `b`; bytes that are `bad` poison where
they go (R443). Host destinations go out as posted requests. -/
def dmaPut (s : State) (p ch b off : Nat) (bs : List Byte) (bad : List Bool) : State :=
  match (s.dmaC p ch).run with
  | none => s
  | some r =>
    let d := r.desc
    let a := Desc.dst d + off
    let s := if bad.any id then s.chFail p ch 5 else s
    let job (f : Fn) (n : Option Nat) : Job :=
      { fn := f, span := n, dep := .other, write := true, parts := poisonCut (s.writeCut f a bs) a bad }
    match Desc.dstKind d with
    | 0 =>
      if s.bayHolds p a (s.chActor p ch) 3 then s.spmHold (.put p ch b off bs bad)
      else match s.bayAns p a (s.chActor p ch) 3 with
      | some c => ((s.spmRefuse p a (s.chActor p ch) 3 c true).chFail p ch 0x10).burstEnded p ch b 1
      | none => ((s.spmWrite p a bs).poisonBytes bad fun t i => t.poisonWords p (a + i) 1).burstEnded p ch b 1
    | 1 => ((s.rldStore a bs false).poisonBytes bad fun t i => t.setPoison (a + i) true).burstEnded p ch b 1
    | 2 =>
      match s.spanFn (Desc.span d) with
      | some f => (s.noteWrite p ch f (some (Desc.span d)) a).dmaJob p ch b (job f (some (Desc.span d)))
      | none => s.dmaNoHost p ch b (Desc.span d) true a
    | 3 => (s.noteWrite p ch .mf none a).dmaJob p ch b (job .mf none)
    | _ =>
      let h := match r.head with | some h => h | none => Desc.dst d % 2 ^ 26
      let o := Desc.dst d / 2 ^ 32 % 2 ^ 16 + off
      ((s.chainStore h o bs false).poisonBytes bad fun t i =>
        match t.chainAddr h (o + i) with | some x => t.setPoison x true | none => t).burstEnded p ch b 1

/-- The burst of `n` bytes that begins at byte `b`: its source is read and passed on; a host source is asked for, and answers later. `e`
is the ECC outcome of the scratchpad word it reads first or, for another source, of the engine's own store, whose uncorrected error is an
internal one (R448; log entry 115). -/
def dmaMove (s : State) (p ch b n : Nat) (e : Ecc) : State :=
  match (s.dmaC p ch).run with
  | none => s
  | some r =>
    let d := r.desc
    let a := Desc.src d + b
    let flags (f : Nat → Bool) : List Bool := (List.range n).map f
    if Desc.srcKind d ≠ 0 ∧ e = .uncorrected then (s.chFail p ch 0x0E).burstEnded p ch b 1
    else match Desc.srcKind d with
    | 0 =>
      if s.bayHolds p a (s.chActor p ch) 3 then s.spmHold (.move p ch b n e)
      else match s.bayAns p a (s.chActor p ch) 3 with
      | some c => ((s.spmRefuse p a (s.chActor p ch) 3 c false).chFail p ch 0x10).burstEnded p ch b 1
      | none =>
        let s := s.spmEcc p a e
        (s.spmUeIn p a n (s.chActor p ch) 3).dmaPut p ch b b (s.spmRead p a n) (flags fun i => s.spmBad p (a + i))
    | 1 => s.dmaPut p ch b b (s.rldRead a n) (flags fun i => s.rldBad (a + i))
    | 2 =>
      match s.spanFn (Desc.span d) with
      | some f => s.dmaJob p ch b { fn := f, span := some (Desc.span d), dep := .other, write := false, parts := s.readCut f a n }
      | none => s.dmaNoHost p ch b (Desc.span d) false a
    | 3 => s.dmaJob p ch b { fn := .mf, span := none, dep := .other, write := false, parts := s.readCut .mf a n }
    | 4 =>
      let h := Desc.src d % 2 ^ 26
      let o := Desc.src d / 2 ^ 32 % 2 ^ 16 + b
      s.dmaPut p ch b b (s.chainRead h o n) (flags fun i => match s.chainAddr h (o + i) with | some x => s.rldBad x | none => false)
    | _ => s.dmaPut p ch b b (List.replicate n 0) (List.replicate n false)

/-- Takes up a descriptor as the one in progress: checks, and ALLOC's charge (R447, R454). -/
def chTake (s : State) (p ch : Nat) (d : BitVec 256) : State :=
  let c := s.dmaC p ch
  let code := s.descCheck p ch d
  let r : DmaRun := { desc := d, index := c.head.toNat % s.chRingSize p ch, checked := true, status := code }
  if code = 0 && Desc.alloc d then
    match s.acctPool (Desc.account d) with
    | none => s.setDmaC p ch { c with run := some { r with status := 1 } }
    | some pool =>
      let n := bufsFor (Desc.len d)
      let a := Desc.account d
      if s.chargeTurn ⟨.dma p ch, pool, a, n, s.chParty p ch d⟩ = .granted then
        let (h, s) := s.grantBufs pool a n none (s.chParty p ch d)
        s.setDmaC p ch { c with run := some { r with head := some h } }
      else
        (s.setDmaC p ch { c with run := some { r with allocWait := true } }).waitBufs ⟨.dma p ch, pool, a, n, s.chParty p ch d⟩
  else s.setDmaC p ch { c with run := some r }

/-- DMA engines issue nothing: the safe state, a swap's Drain and Swap for new descriptors, or a Pier that is not ON. -/
def dmaStopped (s : State) (p : Nat) : Bool := s.isSafe || s.pierPwr p != 0

/-- The 256 bits of a descriptor from its 32 bytes. -/
def descOf (bs : List Byte) : BitVec 256 := BitVec.ofNat 256 (fromBytesLE bs)

/-- An ACTIVE channel with no descriptor in progress takes the next one: a Truss-bound ring lies in RLD (R444, R449, R455). -/
def chNext (s : State) (p ch : Nat) : State :=
  let c := s.dmaC p ch
  if c.state ≠ 1 || c.run.isSome || c.stopping || s.qeStopped then s
  else match s.chTruss p ch with
    | none => s
    | some _ =>
      if c.head = c.tail then s
      else
        let a := s.chSlot p ch c.head
        if s.rldBad a then s.chStopped p ch c.gen
        else s.chTake p ch (descOf (s.rldRead a 32))

/-- MF-bound: fetches the descriptor at HEAD from the Manager's memory, one fetch at a time (R449). -/
def chFetch (s : State) (p ch : Nat) : State :=
  let c := s.dmaC p ch
  if c.state = 1 ∧ c.run.isNone ∧ c.examining ∧ !c.fetchOut ∧ !s.qeStopped then
    (s.setDmaC p ch { c with fetchOut := true, again := false }).runJob
      { fn := .mf, span := none, dep := .dmaRing p ch c.gen, write := false, parts := [{ addr := s.chSlot p ch c.head, len := 32 }] }
  else s

/-- A channel has a burst to issue (R450). -/
def chReady (s : State) (p ch : Nat) : Bool :=
  let c := s.dmaC p ch
  match c.run with
  | some r => c.state == 1 && r.status == 0 && !r.allocWait && decide (r.issued < Desc.len r.desc) && decide (r.outstanding < 32)
  | none => false

/-- The channel to serve: highest priority, round robin within it (R450). -/
def chPick (s : State) (p : Nat) : Option Nat :=
  let ready := (List.range 64).filter (s.chReady p)
  let prio (ch : Nat) : Nat := s.fld F.DMA_CH_CFG_PRIO (chKey p ch)
  let top := ready.foldl (fun m ch => max m (prio ch)) 0
  let l := ready.filter fun ch => prio ch == top
  let last := SMap.get 0 s.dmaLast (8 * p + top)
  match l.find? fun ch => decide (last ≤ ch) with
  | some ch => some ch
  | none => l.head?

/-- The address that R450's boundaries divide: for a chain, the byte offset within it. -/
def burstBase (kind a : Nat) : Nat := if kind = 4 then a / 2 ^ 32 % 2 ^ 16 else a

/-- Longest burst from offset `off` (R450). -/
def burstLen (d : BitVec 256) (off : Nat) : Nat :=
  min (min 512 (Desc.len d - off)) (min (512 - (burstBase (Desc.dstKind d) (Desc.dst d) + off) % 512)
    (if Desc.srcKind d = 5 then 512 else 4096 - (burstBase (Desc.srcKind d) (Desc.src d) + off) % 4096))

/-- EN rises: pending settings apply, a ring of a Truss that lies outside its region is stored at DBASE, and a DISABLED channel becomes
ACTIVE with HEAD and TAIL 0 (R444, R445, R457). -/
def chStart (s : State) (p ch : Nat) : State :=
  let k := chKey p ch
  let s := (s.epoch .dmaEn .DMA_CH_CFG k).epoch .dmaEn .DMA_CH_RING k
  let s := if (s.chTruss p ch).isSome && !s.inEngineRegion (256 * s.fld F.DMA_CH_RING_BASE k) (32 * s.chRingSize p ch) then
      s.setFld F.DMA_CH_RING_BASE k (s.dbase / 256) else s
  let c := s.dmaC p ch
  if c.state = 0 then s.setDmaC p ch { state := 1, gen := c.gen + 1, wrote := c.wrote } else s

/-- The channel that DMA_CH_SEL names. -/
def selCh (s : State) (p : Nat) : Nat := s.fld F.DMA_CH_SEL_CHANNEL p

end State

/-- DMA_CH_ENABLE (R445): EN written 1 for the selected channel; one that still runs its last descriptor starts when that has ended. -/
def execDmaChEnable (p : Pier) (s : State) : Out3 := .next <| s.onReg .DMA_CH_CTL p.val 1 fun s =>
  let ch := s.selCh p.val
  let k := State.chKey p.val ch
  let rising := s.fld F.DMA_CH_CTL_EN k == 0
  let s := s.setFld F.DMA_CH_CTL_EN k 1
  if !rising || ((s.dmaC p.val ch).stopping && (s.dmaC p.val ch).state == 1) then s else s.chStart p.val ch

/-- DMA_CH_DISABLE (R445): EN written 0; the descriptor in progress runs to its end first. -/
def execDmaChDisable (p : Pier) (s : State) : Out3 := .next <| s.onReg .DMA_CH_CTL p.val 0 fun s =>
  let ch := s.selCh p.val
  let s := s.setFld F.DMA_CH_CTL_EN (State.chKey p.val ch) 0
  let c := s.dmaC p.val ch
  if c.run.isSome ∧ c.state = 1 then s.setDmaC p.val ch { c with stopping := true }
  else s.setDmaC p.val ch { c with state := 0, stopping := false, examining := false, fetchOut := false, again := false, run := none }

/-- DMA_CH_DB (R449): examination of an MF-bound ring starts from HEAD; while a fetch is out, its descriptor may be older than the
doorbell, and OWN = 0 in it does not end the examination. -/
def execDmaChDb (p : Pier) (s : State) : Out3 := .next <| s.onReg .DMA_CH_DB p.val 0 fun s =>
  let ch := s.selCh p.val
  if (s.chTruss p.val ch).isSome ∨ (s.dmaC p.val ch).state ≠ 1 then s
  else if (s.dmaC p.val ch).fetchOut then s.setDmaC p.val ch { s.dmaC p.val ch with again := true }
  else (s.setDmaC p.val ch { s.dmaC p.val ch with examining := true }).chFetch p.val ch

/-- DMA_BURST_ISSUE (R447–R451, R454, R455): idle channels take their next descriptor, and the engine issues one burst from
the highest-priority ready channel; `e` is the ECC outcome of what it reads first. -/
def execDmaBurstIssue (p : Pier) (e : Ecc) (s : State) : Out3 := .next <|
  if s.dmaStopped p.val then s
  else
    let s := (List.range 64).foldl (fun t ch => (t.epoch .burstSelect .DMA_CH_CFG (State.chKey p.val ch)).chNext p.val ch) s
    match s.chPick p.val with
    | none => s
    | some ch =>
      let c := s.dmaC p.val ch
      match c.run with
      | none => s
      | some r =>
        let n := State.burstLen r.desc r.issued
        let prio := s.fld F.DMA_CH_CFG_PRIO (State.chKey p.val ch)
        let s := { s with dmaLast := SMap.put 0 s.dmaLast (8 * p.val + prio) (ch + 1) }
        let s := s.setDmaC p.val ch { c with run := some { r with issued := r.issued + n, bursts := r.bursts ++ [(r.issued, 1)] } }
        let span := fun (k a : Nat) => if k = 2 then some a else none
        ((s.dmaMove p.val ch r.issued n e).refreshOpt (span (Desc.srcKind r.desc) (Desc.span r.desc))).refreshOpt
          (span (Desc.dstKind r.desc) (Desc.span r.desc))

/-- Data of a host read of a channel arrives, for the burst that began at `b` (R448, R450). -/
def State.dmaData (s : State) (p ch b : Nat) (r : HostReq) (bs : List Byte) (bad : Bool) : State :=
  match (s.dmaC p ch).run with
  | none => s
  | some run => s.dmaPut p ch b (r.addr - Desc.src run.desc) (bs.take r.len) (List.replicate r.len bad)

/-- The descriptor that an MF-bound channel fetched arrives (R445, R449): one that returns between Stop and Resume is not taken, and is
fetched again at Resume (R455). -/
def State.dmaRingData (s : State) (p ch g : Nat) (bs : List Byte) (bad : Bool) : State :=
  let c := s.dmaC p ch
  if c.state ≠ 1 ∨ c.gen ≠ g then s
  else if bad then s.chStopped p ch g
  else
    let d := State.descOf bs
    let s := s.setDmaC p ch { c with fetchOut := false }
    if s.qeStopped then s
    else if descBits d 0 1 = 1 ∧ c.run.isNone then s.chTake p ch d
    else if c.again then s.chFetch p ch
    else s.setDmaC p ch { s.dmaC p ch with examining := false }

/-- The descriptor in progress has ended: every burst issued and none outstanding, or failed and none outstanding. -/
def DmaRun.finished (r : DmaRun) : Bool :=
  r.outstanding == 0 && !r.allocWait && (r.status != 0 || decide (Desc.len r.desc ≤ r.issued))

/-- A BARRIER starts: a zero-length read goes out on each link that this or an earlier descriptor of the channel wrote (R452). -/
def State.barrierStart (s : State) (p ch : Nat) : State :=
  let l := (s.dmaC p ch).wrote
  let s := (s.setDmaC p ch { s.dmaC p ch with wrote := [] }).withRun p ch fun r => { r with barrier := some l.length }
  l.foldl (fun t x => t.runJob { fn := x.1, span := x.2.1, dep := .dmaBarrier p ch, write := false, parts := [{ addr := x.2.2, len := 0 }] }) s

/-- Whether a descriptor may be released: at once without BARRIER, and with it once its reads have come back (R452). -/
def DmaRun.arrived (r : DmaRun) : Bool := !Desc.barrier r.desc || r.barrier == some 0

/-- The write-back of a finished descriptor, with what its release does (R452). -/
def State.descRelease (s : State) (p ch : Nat) (r : DmaRun) : State :=
  let c := s.dmaC p ch
  let k := State.chKey p ch
  let d := descSet (descSet r.desc 0 1 0) 16 8 r.status
  let d := match r.head with | some h => descSet d 128 26 h | none => d
  let bs := toBytesLE 32 d.toNat
  let a := s.chSlot p ch c.head
  let mf := (s.chTruss p ch).isNone
  if mf && !s.linkUp s.mgmtLink then (s.bump F.HEP_DROP_CNT_COUNT 0).chStopped p ch c.gen
  else if mf && s.muted .mf none then s
  else
    let s := if mf then s.sendWrite .mf a bs false else s.rldWrite a bs
    let s := s.bump F.DMA_CH_CNT_RELEASED k
    let s :=
      if r.status = 0 then s
      else
        let s := (s.bump F.DMA_CH_CNT_FAILED k).bump F.DMA_ERR_CNT_COUNT p
        if s.flag F.DMA_ERR_CAPTURE_VALID p then s
        else s.setReg .DMA_ERR_CAPTURE p (BitVec.ofNat 64 (ch + 2 ^ 8 * r.status + 2 ^ 16 * r.index + 2 ^ 63))
    let s := s.setDmaC p ch
      { c with run := none, head := c.head + 1, state := if c.stopping then 0 else 1, stopping := false,
               examining := c.examining && !c.stopping }
    let s :=
      if !Desc.notice r.desc then s
      else match s.chTruss p ch with
        | some t => s.pendSource (64 * t + Desc.placer r.desc) 4
        | none => s.setEvt .DMA_EVT .DMA_EVT_EN .DMA_MSIX_VEC p 1
    if c.stopping then (if s.fld F.DMA_CH_CTL_EN k = 1 then s.chStart p ch else s)
    else if mf then s.chFetch p ch else s

/-- DMA_DESC_RELEASE (R452): write-back with OWN = 0 and STATUS, counts, NOTICE, HEAD; a BARRIER first sends its zero-length reads, and
the row that follows their return releases it. -/
def execDmaDescRelease (p : Pier) (ch : Fin 64) (s : State) : Out3 := .next <|
  let c := s.dmaC p.val ch.val
  match c.run with
  | none => s
  | some r =>
    if !r.finished || s.dmaStopped p.val || c.state ≠ 1 then s
    else if r.arrived then s.descRelease p.val ch.val r
    else if r.barrier.isSome then s
    else
      let s := s.barrierStart p.val ch.val
      match (s.dmaC p.val ch.val).run with
      | some r => if r.arrived then s.descRelease p.val ch.val r else s
      | none => s

/-- BUFFER_WAIT_GRANT (R260, R261, R266): in a pool, the first waiting request that can be granted is granted; a thread's
grant is then on its way to it, and a pipeline takes its own as it accepts the head that waits. -/
def execBufferWaitGrant (pool : Fin 256) (s : State) : Out3 := .next <|
  match s.bpmWait.find? fun w => w.pool == pool.val && s.canGrant w with
  | none => s
  | some ⟨.pipe _ _, _, _, _, _⟩ => s
  | some w =>
    let (h, s) := s.grantBufs pool.val w.acct w.n none w.owner
    let s := s.doneWait w
    match w.who with
    | .qe q => s.setQueue q { s.queue q with charge := some h }
    | .dma p ch =>
      let c := s.dmaC p ch
      match c.run with
      | some r => s.setDmaC p ch { c with run := some { r with head := some h, allocWait := false } }
      | none => s.freeChain h
    | .thread n => { s with grants := s.grants ++ [{ thread := n, head := h }] }
    | .pipe _ _ => s

end Sys2Proof.Machine
end

