-- ==== Sys2Proof/Machine/Hep.lean ====
section
/-!
DEFINITION. Host links and PCIe functions (chapter 03), and the TLPs of chapter 04: resets of R81, link states, tags, error
reporting, IDE, TDISP, ATS invalidations, table walks and peer windows.
-/

namespace Sys2Proof.Machine

namespace State

/-- HEP_LINK_STATE values. -/
def linkState (s : State) (h : Nat) : Nat := s.fld (F.HEP_LINK_STATE_STATE h) 0
def setLinkState (s : State) (h v : Nat) : State := s.setFld (F.HEP_LINK_STATE_STATE h) 0 v

/-- Sets a bit of HEP_LINK_EVT (R533). -/
def hepEvt (s : State) (b : Nat) : State := s.setEvt .HEP_LINK_EVT .HEP_LINK_EVT_EN .HEP_MSIX_VEC 0 b

/-- Routing IDs (R540). -/
def reqId (s : State) : Fn → Nat
  | .pf h => 256 * (s.fn (.pf h)).bus.toNat
  | .mf => (List.finRange 8).foldl (fun r h => if h.val = s.mgmtLink then 256 * (s.fn (.pf h)).bus.toNat + 1 else r) 0
  | .vf h n => (256 * (s.fn (.pf h)).bus.toNat + 8 + n.val) % 0x10000

/-- The link of a function key. -/
def keyLink (s : State) (k : Nat) : Nat := if k = 0 then s.mgmtLink else if k < 16 then k - 1 else (k - 16) / 4096

/-! ### Resets of R81 -/

/-- Functions whose key satisfies `p` take reset values; sticky AER registers survive unless the reset is fundamental;
the register window is the MF's (R79). -/
def resetFns (s : State) (p : Nat → Bool) (fundamental : Bool) : State :=
  let one (c : FnCfg) : FnCfg := if fundamental then {}
    else { aerUncor := c.aerUncor, aerCor := c.aerCor, aerMask := c.aerMask, aerSev := c.aerSev, aerCorMask := c.aerCorMask }
  let fns := s.fns.foldl (fun m e => if p e.1 then SMap.put {} m e.1 (one (SMap.get {} m e.1)) else m) s.fns
  let s : State := if p 0 then { s with vsAddr := 0, vsLo := 0, vsHi := 0 } else s
  { s with fns := fns, msix := s.msix.filter (fun e => !p (e.1 / 2048)),
           msixWait := s.msixWait.filter fun w => !p (fnKey w.1) }

/-- Spans of link h in the state's list. -/
def linkSpans (s : State) (h : Nat) : List Nat :=
  (s.spans.map Prod.fst).filter fun n => decide ((s.face h).base ≤ n ∧ n < (s.face h).base + (s.face h).count)

/-- DOE mailboxes (R98). -/
def doeKey : DoeMbx → Nat
  | .pf h => h.val
  | .mf => 8
def doe (s : State) (m : DoeMbx) : Doe := SMap.get {} s.does (doeKey m)
def setDoe (s : State) (m : DoeMbx) (x : Doe) : State := { s with does := SMap.put {} s.does (doeKey m) x }

/-- A reset of R81 on link h clears PTM VALID at once (R344). -/
def ptmReset (s : State) (h : Nat) : State := s.setFld F.TIM_PTM_STATUS_VALID h 0

/-- A reset of a whole link (R81–R84): functions, SPDM and IDE state, Spans into Quiescing, outstanding requests ended, tags
free. -/
def resetLink (s : State) (h : Nat) (fundamental : Bool) : State :=
  let s := s.resetFns (fun k => s.keyLink k == h) fundamental
  let s : State := { s with does := s.does.filter fun e => e.1 != h && !(e.1 == 8 && s.mgmtLink == h),
                            ide := s.ide.filter (fun e => e.1 / 8 != h), ideKeys := s.ideKeys.filter (fun e => e.1 / 8 != h),
                            ideRanges := s.ideRanges.filter fun e => e.1 / 96 != h }
  let s := (s.ptmReset h).setReg .HEP_LINK_INFO h 0
  let l := s.linkSpans h
  let s := l.foldl resetReaches s
  let s := l.foldl cutJobs s
  let s := s.cutRequests (fun r => s.fnLink r.fn == h) .free
  let s : State := { s with tags := s.tags.filter fun e => e.1 / 16384 != h }
  l.foldl refreshDrained s.retryStalled

/-- A VF reset by its own FLR or by VF Enable (R81, R87, R115): outstanding requests end at once, tags quarantined. -/
def resetVf (s : State) (h n : Nat) : State :=
  let s := s.resetFns (fun k => k == 16 + 4096 * h + n) false
  let k := (s.face h).base + n
  let s := (s.resetReaches k).cutJobs k
  (s.cutRequests (fun r => r.span == some k) .quarantined).refreshDrained k

/-- Every VF of a link. -/
def resetVfs (s : State) (h : Nat) : State :=
  let s := s.resetFns (fun k => decide (16 ≤ k) && s.keyLink k == h) false
  (s.linkSpans h).foldl (fun t k => t.resetVf h (k - (t.face h).base)) s

/-- The host-facing structure that waits for link h takes effect (R61). -/
def applyFace (s : State) (h : Nat) : State :=
  if bitOf (s.reg .CFG_HOST_PENDING 0) h then
    let f := SMap.get {} s.facesNext h
    let old := s.face h
    let s : State := { s with faces := SMap.put {} s.faces h f, facesNext := SMap.erase s.facesNext h }
    let s := s.setReg .CFG_HOST_PENDING 0 (s.reg .CFG_HOST_PENDING 0 &&& ~~~((1 : Word) <<< h))
    let s := (s.setFld F.HEP_LINK_SPAN_MAP_BASE h f.base).setFld F.HEP_LINK_SPAN_MAP_COUNT h f.count
    let off := old.tdisp.foldl (fun t n => t.setSpan n { t.span n with tdispCapable := false }) s
    f.tdisp.foldl (fun t n => t.setSpan n { t.span n with tdispCapable := true }) off
  else s

/-- The link leaves UP for TRAINING or HELD with its event. -/
def leaveUp (s : State) (h dst evt : Nat) (fundamental : Bool) : State :=
  let s := (s.setLinkState h dst).setLink h { s.link h with cfgReady := false }
  (s.resetLink h fundamental).hepEvt (evt + h)

/-- Queued MSI-X messages of a function go out once it may issue requests (R88). -/
def retryMsix (s : State) (f : Fn) : State :=
  let w := s.msixWait.filter fun x => x.1 == f
  w.foldl (fun t x => t.msixSend x.1 x.2) { s with msixWait := s.msixWait.filter fun x => x.1 != f }

/-- Sends a vector whose PBA bit is set, once nothing masks it (R77). -/
def msixFlush (s : State) (f : Fn) (v : Nat) : State :=
  let m := s.vec f v
  let c := s.fn f
  if m.pending && !m.masked && !c.msixMask && c.msixEnable && !c.d3hot then
    (s.setVec f v { m with pending := false }).msixSend f v
  else s

/-- Every MSI-X message that waits is sent again, in order. -/
def retryAllMsix (s : State) : State := s.msixWait.foldl (fun t x => t.msixSend x.1 x.2) { s with msixWait := [] }

/-- The Spans with an event ring on which an event or OVERFLOW waits. -/
def eventSpans (s : State) : List Nat :=
  ((s.queues.filter fun e => e.2.used && e.2.kind == 3 && (!e.2.evWait.isEmpty || e.2.ovfPending)).map fun e => e.2.span).eraseDups

/-- The device issues requests to hosts again (R471): the requests, events and messages that waited go out, each in their order. -/
def resumeHosts (s : State) : State :=
  let s := s.retryCpl fun _ => true
  ((s.eventSpans.foldl retryEvents s).retryStalled).retryAllMsix

end State

/-- Vectors of a function (R73). -/
def State.vectorsOf : Fn → Nat
  | .mf => 2048
  | _ => 64

/-- A function's BAR answers a memory request with Unsupported Request (R75, R78, R104, R469). -/
def State.barRefuses (s : State) (f : Fn) : Bool := !s.barOk f || s.tdiRefuses f

/-- A write of a vector of a function's MSI-X table: dropped on an Insecure stream (R101), refused as R75 says, or served. -/
def State.msixWrite (s : State) (f : Fn) (v : Nat) (act : Msix → Msix) : State :=
  if s.ideDrops f then s
  else if s.barRefuses f || decide (State.vectorsOf f ≤ v) then s.unsupportedReq f
  else (s.setVec f v (act (s.vec f v))).msixFlush f v

/-! ### Links (R85, R86, R543) -/

/-- MSIX_UNMASK (R77): a write of the MSI-X table clears the vector's mask; a message whose PBA bit is still set is sent. -/
def execMsixUnmask (f : Fn) (v : Fin 2048) (s : State) : Out3 :=
  .next (s.msixWrite f v.val fun m => { m with masked := false })

/-- PERST_ASSERT (R81, R85). -/
def execPerstAssert (h : Link) (s : State) : Out3 := .next <|
  let h := h.val
  let s := s.setLink h { s.link h with perst := true }
  match s.linkState h with
  | 2 => (s.setLinkState h 1).setLink h {}
  | 3 => (s.leaveUp h 1 0 true).setLink h {}
  | _ => s

/-- PERST_RELEASE (R61, R85, R86): functions take reset values and the waiting host-facing structure takes effect. After a failed boot
the link stays HELD (R482). -/
def execPerstRelease (h : Link) (s : State) : Out3 := .next <|
  let h := h.val
  let s := s.setLink h { s.link h with perst := false }
  if s.linkState h = 1 ∧ s.dev ≠ .bootFailed then
    ((s.setLinkState h 2).resetFns (fun k => s.keyLink k == h) true).applyFace h
  else s

/-- PHY_CALIBRATED (R86). -/
def execPhyCalibrated (h : Link) (s : State) : Out3 := .next <|
  if s.linkState h.val = 2 then s.setLink h.val { s.link h.val with calibrated := true } else s

/-- The lanes of a present link (R67). -/
def State.linkLanes (s : State) (h : Nat) : Nat :=
  match s.fld (if h < 4 then F.HEP_BIFUR_CTL0_MODE else F.HEP_BIFUR_CTL1_MODE) 0 with | 1 => 8 | 2 => 4 | _ => 16

/-- LINK_UP (R68, R85, R86): the LTSSM reaches L0 at a speed code 1–7, a width within that of the link's mode, and flit mode, which 64
and 128 GT/s always use. -/
def execLinkUp (h : Link) (speed : Fin 8) (width : Fin 17) (flit : Bool) (s : State) : Out3 := .next <|
  let h := h.val
  if s.linkState h = 2 ∧ (s.link h).calibrated then
    let s := ((s.setLinkState h 3).setLink h { s.link h with cfgReady := false }).setReg .HEP_LINK_INFO h
      (BitVec.ofNat 64 (speed.val + 16 * min width.val (s.linkLanes h) + 512 * b2n (flit || decide (6 ≤ speed.val))))
    s.hepEvt (24 + h)
  else s

/-- CONFIG_READY (R86): configuration requests complete successfully from now on. -/
def execConfigReady (h : Link) (s : State) : Out3 := .next <|
  if s.linkState h.val = 3 then s.setLink h.val { s.link h.val with cfgReady := true } else s

/-- HOT_RESET (R81, R85, R543). -/
def execHotReset (h : Link) (s : State) : Out3 := .next <|
  if s.linkState h.val = 3 then s.leaveUp h.val 2 8 false else s

/-- LINK_LOST (R81, R85, R93). -/
def execLinkLost (h : Link) (s : State) : Out3 := .next <|
  if s.linkState h.val = 3 then (s.leaveUp h.val 2 16 false).raise 0x04 0x08 h.val else s

/-- LINK_RECOVERY (R85, R93): Recovery returns to L0; a receiver, DLLP, replay or flit error that caused it, given by its AER
correctable bit, is recorded. -/
def execLinkRecovery (h : Link) (err : Option (Fin 16)) (s : State) : Out3 := .next <|
  if s.linkState h.val ≠ 3 then s
  else match err with
    | none => s
    | some b => (s.aerC (.pf h) b.val).raise 0x04 0x07 (h.val + 2 ^ 8 * b.val)

/-- PF_FLR (R81): the PF and, with VF Enable, every VF. -/
def execPfFlr (h : Link) (s : State) : Out3 := .next <|
  if s.linkState h.val ≠ 3 then s
  else
    let s := s.resetVfs h.val
    let bus := (s.fn (.pf h)).bus
    let s := s.resetFns (fun k => k == 1 + h.val) false
    let s := s.setFn (.pf h) { s.fn (.pf h) with bus := bus }
    let s := s.cutRequests (fun r => r.fn == .pf h) .quarantined
    (s.setDoe (.pf h) {}).ptmReset h.val

/-- VF_FLR (R81, R87): of a VF that the link carries. -/
def execVfFlr (h : Link) (n : SpanId) (s : State) : Out3 := .next <|
  if s.linkState h.val = 3 ∧ (s.fn (.pf h)).vfEnable ∧ n.val < (s.fn (.pf h)).numVfs then s.resetVf h.val n.val else s

/-- VF_ENABLE_CLEAR (R81): every VF is reset; the PF is not. -/
def State.clearVfEnable (s : State) (h : Link) : State :=
  if (s.fn (.pf h)).vfEnable then (s.setFn (.pf h) { s.fn (.pf h) with vfEnable := false }).resetVfs h.val else s

/-- VF_ENABLE_CLEAR (R81). -/
def execVfEnableClear (h : Link) (s : State) : Out3 := .next (s.clearVfEnable h)

/-- MF_FLR (R81): the Management Function's configuration space and MSI-X table. -/
def execMfFlr (s : State) : Out3 := .next <|
  (s.resetFns (fun k => k == 0) false).setDoe .mf {}

/-! ### Table walks (R125–R128) -/

/-- What a page-table entry of a level says (R126): a fault, a page with its size, or the table of the next level. -/
inductive WalkStep where
  | fault
  | leaf (target : Nat) (big : Bool)
  | next (table : Nat)

/-- An entry at a level, 0 the last (R126): no access, reserved bits, LEAF where it may not or must be, and an unaligned 2 MiB page
fault. -/
def walkStep (level : Nat) (e : Word) : WalkStep :=
  let a := getBits e 12 40 * 4096
  let leaf := bitOf e 7
  if (!bitOf e 0 && !bitOf e 1) || getBits e 2 5 != 0 || getBits e 8 4 != 0 || bitOf e 63 then .fault
  else match level with
    | 0 => if leaf then .leaf a false else .fault
    | 1 => if leaf then (if getBits e 12 9 = 0 then .leaf a true else .fault) else .next a
    | _ => if leaf then .fault else .next a

namespace State

/-- What waited for a walk ends with a status code: a ring write meets it as it is tried again (R167). -/
def walkFail (s : State) (j : Job) (code : Nat) : State :=
  match j.span, j.parts with
  | some n, p :: _ =>
    if p.len = 0 ∧ j.write then
      let x : Xlate := { span := n, page := p.addr / 4096, big := false, read := false, write := false, target := 0, fail := code }
      let s : State := { s with tlb := x :: s.tlb }
      let s := s.retryEvents n
      let s := s.retryCpl (s.onSpan n)
      { s with tlb := s.tlb.erase x }
    else (if code = 3 then s.xlateFault n j.write p.addr else s).depFail j.dep code j.parts.length
  | _, _ => s

/-- A walk ends with a translation: it is cached, and the job goes on. -/
def walkOk (s : State) (j : Job) (big rd wr : Bool) (target : Nat) : State :=
  match j.span, j.parts with
  | some n, p :: _ =>
    let s : State := { s with tlb := ({ span := n, page := p.addr / 4096, big := big, read := rd, write := wr, target := target } :: s.tlb).take 32768 }
    if p.len = 0 ∧ j.write then (s.retryCpl (s.onSpan n)).retryEvents n else s.runJob { j with walk := {} }
  | _, _ => s

/-- The entries that a walk's reads bring, one for each level: after each pointer the next level's read goes out (R126). -/
def walkFeed : State → Job → List Word → State
  | s, j, [] => { s with walks := s.walks ++ [j] }
  | s, j, e :: rest =>
    let w := j.walk
    let s := match w.tag with | some k => s.endTag k .free | none => s
    let rd := w.read && bitOf e 0
    let wr := w.write && bitOf e 1
    match walkStep w.level e with
    | .fault => s.walkFail j 3
    | .leaf a big => s.walkOk j big rd wr a
    | .next a =>
      let (k, s) := s.walkSend { j with walk := { w with tag := none, level := w.level - 1, table := a, read := rd, write := wr } }
      if k.walk.tag.isSome then walkFeed s k rest else { s with walks := s.walks ++ [k] }

/-- The walk whose read has a tag ends with a code. -/
def walkTagFail (s : State) (key code : Nat) : State :=
  match s.walks.find? fun j => j.walk.tag == some key with
  | some j => { s with walks := s.walks.erase j }.walkFail j code
  | none => s

/-- The entry that a walk's read under a tag brought, or its poison. -/
def walkData (s : State) (key : Nat) (bs : List Byte) (bad : Bool) : State :=
  match s.walks.find? fun j => j.walk.tag == some key with
  | some j =>
    let s : State := { s with walks := s.walks.erase j }
    if bad then s.walkFail j 5
    else if j.walk.ats then { s with walks := s.walks ++ [j] }
    else s.walkFeed { j with walk := { j.walk with tag := none } } [BitVec.ofNat 64 (fromBytesLE bs)]
  | none => s

end State

/-! ### Tags, time-outs and error reporting (R89–R94, R100, R101) -/

/-- Captures a timeout in HEP_TO_CAPTURE if VALID is 0 (R90). -/
def State.toCapture (s : State) (f : Fn) (tag : Nat) : State :=
  if s.flag F.HEP_TO_CAPTURE_VALID 0 then s
  else s.setReg .HEP_TO_CAPTURE 0 (BitVec.ofNat 64 (s.reqId f + 2 ^ 16 * tag + 2 ^ 32 * s.fnLink f + 2 ^ 40))

/-- A request of function `f` with a tag timed out: counted, captured, in AER and recorded (R90, R93). -/
def State.timedOut (s : State) (f : Fn) (tag : Nat) : State :=
  let s := (s.bump F.HEP_CPL_TO_CNT_COUNT 0).toCapture f tag
  (s.aerU f 14).raise 0x04 0x01 (s.reg .HEP_TO_CAPTURE 0).toNat

/-- CPL_TIMEOUT (R90, R92): an outstanding request times out; its tag is quarantined. -/
def execCplTimeout (h : Link) (t : Fin 16384) (s : State) : Out3 := .next <|
  match s.tag h.val t.val with
  | .outstanding r =>
    let s := (s.timedOut r.fn t.val).endTag (16384 * h.val + t.val) .quarantined
    ((s.walkTagFail (16384 * h.val + t.val) 4).depFail r.dep 4 1).refreshOpt r.span
  | _ => s

/-- TAG_QUARANTINE_EXPIRE (R90): the tag is free again, and a read that waits for one may take it. -/
def execTagQuarantineExpire (h : Link) (t : Fin 16384) (s : State) : Out3 := .next <|
  match s.tag h.val t.val with
  | .quarantined => (s.setTag h.val t.val .free).retryStalled
  | _ => s

/-- A poisoned TLP received on link h for function f (R93, R94). -/
def State.poisonIn (s : State) (f : Fn) : State :=
  ((s.bump F.HEP_POISON_CNT_IN 0).aerAdv f 12).raise 0x04 0x04 (s.fnLink f + 2 ^ 16 * s.reqId f)

/-- MALFORMED_TLP (R93): dropped; in AER and recorded; on an Insecure stream only dropped (R101). -/
def execMalformedTlp (f : Fn) (s : State) : Out3 := .next <|
  if s.linkUp (s.fnLink f) && !s.ideDrops f then (s.aerU f 18).raise 0x04 0x05 (s.fnLink f) else s

/-- A stream enters Insecure, and the TDIs bound to it enter ERROR (R101, R104). -/
def State.insecure (s : State) (h i : Nat) : State :=
  let s := s.setStream h i .insecure
  ((s.linkSpans h).filter fun n => (s.span n).stream == i).foldl State.tdiError s

/-- IDE_FAIL (R93, R101). -/
def execIdeFail (h : Link) (i : Fin 5) (s : State) : Out3 := .next <|
  if s.stream h.val i.val = .secure then
    ((s.insecure h.val i.val).aerU (.pf h) 28).raise 0x04 0x06 (h.val + 2 ^ 4 * i.val)
  else s

/-- IDE_KM_KEY_PROG (R100): programs a stream's key inside a secured session, one that FINISH has completed, on the link's PF mailbox. -/
def execIdeKmKeyProg (h : Link) (k : IdeProg) (s : State) : Out3 := .next <|
  if (s.doe (.pf h)).finished = 0 then s
  else { s with ideKeys := SMap.put 0 s.ideKeys (State.ideKey h.val k.stream.val) k.key }.setStream h.val k.stream.val .secure

/-! ### ATS and table walks (R96, R126–R128) -/

/-- ATS_INVALIDATION (R96): cached translations in scope are dropped; the invalidation completes once no request that used them
is outstanding; one on an Insecure stream is dropped (R101). -/
def execAtsInvalidation (n : SpanId) (scope : BitVec 2) (page : BitVec 52) (s : State) : Out3 := .next <|
  if (match s.spanFn n.val with | some f => s.ideDrops f | none => false) then s else
  let s : State := { s with tlb := s.tlb.filter fun x => !(x.span == n.val && invCovers scope n.val page.toNat x) }
  let w := s.tagsOf fun r => r.span == some n.val && invRequest scope n.val page.toNat r
  if w.isEmpty then s.atsAnswer n.val else { s with atsWait := s.atsWait ++ [(n.val, w)] }

/-- WALK_COMPLETE (R125–R128): what the oldest walk of the Span that has sent its request gets: the page-table entries of a WALK Span,
the answer of an ATS Span, or a failure of the request. -/
def execWalkComplete (n : SpanId) (r : WalkResult) (s : State) : Out3 := .next <|
  match s.walks.find? fun j => j.span == some n.val && j.walk.tag.isSome with
  | none => s
  | some j =>
    let key := j.walk.tag.getD 0
    let f : Fn := match s.tag (key / 16384) (key % 16384) with | .outstanding q => q.fn | _ => j.fn
    let t : State := { s with walks := s.walks.erase j }.endTag key .free
    let t := match r with
      | .entries es => if j.walk.ats || es.isEmpty then s else t.walkFeed j es
      | .ats a big rd wr =>
        if !j.walk.ats then s
        else if !rd && !wr then t.walkFail j 3
        else t.walkOk j big rd wr (4096 * a.toNat)
      | .timeout => (({ s with walks := s.walks.erase j }.timedOut f (key % 16384)).endTag key .quarantined).walkFail j 4
      | .poisoned => (t.poisonIn f).walkFail j 5
    t.retryStalled.refreshDrained n.val

/-! ### Peer windows (R119, R129, R130, R432) -/

/-- A BAR2 TLP that no window takes (R130). -/
def State.winMiss (s : State) (f : Fn) (read : Bool) : State :=
  let s := (s.bump F.STU_WIN_MISS_COUNT 0).unsupportedReq f
  if read then s.emit (.unsupported f) else s

/-- The window of a Span that takes an access of `len` bytes at a BAR2 offset. -/
def State.winAt (s : State) (n off len : Nat) (write : Bool) : Option Window :=
  (s.wins n).find? fun w => w.en && decide (w.lo ≤ off ∧ off + len ≤ w.hi) && (if write then w.wr else w.rd)

/-- A window access to scratchpad that the Bay refuses (R129, R435). -/
def State.winRefuse (s : State) (n p a len : Nat) (write : Bool) : Option State :=
  let who := State.ownerSpan n
  match s.bayAns p a who 5, s.bayAns p (a + len - 1) who 5 with
  | some c, _ => some (s.spmRefuse p a who 5 c write)
  | none, some c => some (s.spmRefuse p (a + len - 1) who 5 c write)
  | none, none => none

/-- A window access to scratchpad waits for the end of a Bay's handover to the Span (R437). -/
def State.winHolds (s : State) (n p a len : Nat) : Bool :=
  s.bayHolds p a (State.ownerSpan n) 5 || s.bayHolds p (a + len - 1) (State.ownerSpan n) 5

/-- BAR2_TLP (R75, R94, R104, R119, R129, R130, R432): a TLP at an offset of a Span's BAR2; `e` is the ECC outcome of a
scratchpad word it reads. -/
def execBar2Tlp (n : SpanId) (off : BitVec 36) (tlp : Bar2Tlp) (e : Ecc) (s : State) : Out3 := .next <|
  match s.spanFn n.val with
  | none => s
  | some f =>
    let ur (t : State) (read : Bool) : State := if read then (t.unsupportedReq f).emit (.unsupported f) else t.unsupportedReq f
    let isRead := match tlp with | .write .. => false | _ => true
    if s.ideDrops f then s
    else if !s.spanBarOk n.val f then ur s isRead
    else if s.spanQuiet n.val then ur (s.refuseQuiet n.val (!isRead) off.toNat) isRead
    else match tlp with
      | .atomic => s.winMiss f true
      | .read len =>
        if len.val = 0 then s
        else match s.winAt n.val off.toNat len.val false with
        | none => s.winMiss f true
        | some w =>
          let a := w.target + (off.toNat - w.lo)
          if w.spm then
            if s.winHolds n.val w.pier a len.val then s.spmHold (.window n off tlp e)
            else match s.winRefuse n.val w.pier a len.val false with
            | some t => ur t true
            | none =>
              let s := s.spmEcc w.pier a e
              let bad := s.spmBadIn w.pier a len.val
              let s := if bad then (s.spmUeIn w.pier a len.val (State.ownerSpan n.val) 5).bump F.HEP_POISON_CNT_OUT 0 else s
              s.emit (.memData f (s.spmRead w.pier a len.val) bad)
          else
            let bad := s.rldBadIn a len.val
            let s := if bad then s.bump F.HEP_POISON_CNT_OUT 0 else s
            s.emit (.memData f (s.rldRead a len.val) bad)
      | .write data poisoned =>
        if data.isEmpty then s
        else match s.winAt n.val off.toNat data.length true with
        | none => s.winMiss f false
        | some w =>
          let a := w.target + (off.toNat - w.lo)
          if w.spm && s.winHolds n.val w.pier a data.length then s.spmHold (.window n off tlp e)
          else
          let s := if poisoned then s.poisonIn f else s
          if w.spm then
            match s.winRefuse n.val w.pier a data.length true with
            | some t => ur t false
            | none => s.spmWrite w.pier a data poisoned
          else s.rldStore a data poisoned

/-! ### The end of a handover (R437) -/

/-- An access that waited for a handover is made. -/
def State.spmResume (s : State) : SpmWait → State
  | .move p ch b n e => s.dmaMove p ch b n e
  | .put p ch b off bs bad => s.dmaPut p ch b off bs bad
  | .window n off tlp e => match execBar2Tlp n off tlp e s with | .next t => t | _ => s
  | .pipe p a => (s.pipeAccess p a).1
  | .mgmtRead p e => let (w, t) := s.mgmtRead p.val e; t.emit (.readData w)
  | .mgmtWrite p w => match execSpmMgmtWrite p w s with | .next t => t | _ => s

/-- HANDOVER_DONE (R437): the Bay passes to its new owner, the accesses that waited are made, in order, and the request ends; RECLAIM_BAY's
ends with it (R123). -/
def execHandoverDone (p : Pier) (b : Fin 8) (s : State) : Out3 := .next <|
  let x := s.bay p.val b.val
  match x.handover with
  | none => s
  | some (o, q, rcv) =>
    let s := s.setBay p.val b.val { x with owner := o, handover := none }
    let s := s.spmWait.foldl State.spmResume { s with spmWait := [] }
    let s := s.bayEnd p.val b.val q 0
    if rcv then ((s.setFld F.STU_RCV_STATUS_BUSY 0 0).endCmd F.STU_RCV_STATUS_RESULT F.STU_RCV_STATUS_LAST_SEQ 0 0 q).stuEvt 4 else s

end Sys2Proof.Machine
end

