-- ==== Sys2Proof/Machine/Counter.lean ====
section
/-!
DEFINITION. The timestamp counter, its adjustment and its ticks (R324–R328).
-/

namespace Sys2Proof.Machine

namespace State

def setTim (s : State) (t : Tim) : State := { s with tim := t }

/-! ### Adjusting the counter (R324–R328) -/

/-- The nominal increment and the range TIM_INCR is clamped to. -/
def incrNominal : Nat := 5368709120
def clampIncr (v : Nat) : Nat := clampN (incrNominal - 2684355) (incrNominal + 2684355) v

/-- A write to the adjustment registers by the servo thread (`servo`) or the Management Function: the owner's goes on, the other
party's is dropped and counted (R328). -/
def adjBy (s : State) (servo : Bool) (f : State → State) : State :=
  if s.flag F.TIM_CTL_ADJ_OWNER 0 == servo then f s
  else s.bump (if servo then F.TIM_ADJ_DROP_SERVO else F.TIM_ADJ_DROP_MF) 0

/-- As `adjBy`, for a register of the TIM that the servo thread writes, or that the Manager's write reaches on the ring. -/
def adjOn (s : State) (servo : Bool) (r : Reg) (w : Word) (f : State → State) : State :=
  if servo then s.adjBy true f else s.onReg r 0 w fun s => s.adjBy false f

/-- An adjustment reaches the TIM: it applies at the fourth tick from now (R327). -/
def adjAdd (s : State) (a : Adj) : State := s.setTim { s.tim with adj := s.tim.adj ++ [(4, a)] }

/-- TIM_INCR is written: the value waits for its tick and replaces one that waits (R8). -/
def writeIncr (s : State) (v : Nat) : State :=
  let s := s.hold .TIM_INCR 0 (fieldMask 0 40) (BitVec.ofNat 64 (clampIncr v))
  (s.setTim { s.tim with adj := s.tim.adj.filter fun e => e.2 != .incr }).adjAdd .incr

/-- The ticks over which a slew is spread: raised so that no tick adds more than 0.125 ns (R326). -/
def slewSpan (arg : Int) (ticks : Nat) : Nat := max ticks ((arg.natAbs * 65536 + 536870911) / 536870912)

/-- A command applies at its tick. -/
def adjApply (s : State) (a : Adj) : State :=
  let done (u : State) (q : Seq) : State := u.setFld F.TIM_ADJ_STATUS_LAST_SEQ 0 q.toNat
  match a with
  | .step arg q => done { s with time := s.time + BitVec.ofInt 96 (arg.toInt * 65536) } q
  | .set arg q => done { s with time := arg.setWidth 96 <<< 32 } q
  | .slew arg n q =>
    let n := slewSpan arg.toInt n
    let all := arg.toInt * 65536
    let part := all / (n : Int)
    done ({ s with time := s.time + BitVec.ofInt 96 part }.setTim { s.tim with slewLeft := all - part, slewTicks := n - 1 }) q
  | .slewAbort q => done (s.setTim { s.tim with slewLeft := 0, slewTicks := 0 }) q
  | .incr => s

/-- One TIME_CLK tick: INCR, the running slew's share, then the commands of the tick in arrival order. -/
def tick (s : State) : State :=
  let was := s.time
  let left := s.tim.adj.map fun e => (e.1 - 1, e.2)
  let now := (left.filter fun e => e.1 == 0).map Prod.snd
  let s := s.setTim { s.tim with adj := left.filter fun e => e.1 != 0 }
  let s := if now.contains .incr then s.epoch .timeTick .TIM_INCR 0 else s
  let x := s.tim
  let share : Int := if x.slewTicks = 0 then 0 else x.slewLeft / (x.slewTicks : Int)
  let s := { s with time := s.time + BitVec.ofNat 96 (s.fld F.TIM_INCR_INCR 0) + BitVec.ofInt 96 share, cycle := s.cycle + 4 }
  let s := s.setTim { s.tim with slewLeft := x.slewLeft - share, slewTicks := x.slewTicks - 1 }
  let s := now.foldl adjApply s
  let jumped := now.any fun a => match a with | .step .. | .set .. => true | _ => false
  s.setTim { s.tim with prev := if jumped then s.time else was }

/-- The counter as it stands `n` ticks later. -/
def timeAfter (s : State) (n : Nat) : BitVec 96 := ((List.range n).foldl (fun u _ => u.tick) s).time

end State

end Sys2Proof.Machine
end

