-- ==== Sys2Proof/Machine/Aes.lean ====
section
/-!
DEFINITION. The ciphers that chapter 12 names and does not define: the AES block cipher with keys of 128 and 256 bits (FIPS 197)
and Galois/Counter Mode (NIST SP 800-38D), from the standards (log entry 41).
-/

namespace Sys2Proof.Machine

/-! ### AES (FIPS 197) -/

/-- The substitution box: row `r` holds entries 32 r to 32 r + 31, the first in its low byte. -/
def sboxRows : List Nat :=
  [0xC072A49CAFA2D4ADF04759FA7DC982CA76ABD7FE2B670130C56F6BF27B777C63,
   0x75B227EBE28012079A059618C323C7041531D871F1E5A534CCF73F362693FDB7,
   0xCF584C4A39BECB6A5BB1FC20ED00D153842FE329B3D63B52A05A6E1B1A2C8309,
   0xD2F3FF1021DAB6BCF5389D928F40A351A89F3C507F02F94585334D43FBAAEFD0,
   0xDB0B5EDE14B8EE4688902A22DC4F816073195D643D7EA7C41744975FEC130CCD,
   0x08AE7A65EAF4566CA94ED58D6D37C8E779E4959162ACD3C25C2406490A3A32E0,
   0x9E1DC186B95735610EF6034866B53E708A8BBD4B1F74DDE8C6B4A61C2E2578BA,
   0x16BB54B00F2D99416842E6BF0D89A18CDF2855CEE9871E9B948ED9691198F8E1]

/-- The inverse substitution box. -/
def sboxInvRows : List Nat :=
  [0xCBE9DEC444438E3487FF2F9B8239E37CFBD7F3819EA340BF38A53630D56A0952,
   0x25D18B6D49A25B76B224D92866A12E084EC3FA420B954CEE3D23C2A632947B54,
   0x849D8DA75746155EDAB9EDFD5048706C92B6655DCC5CA4D41698688664F6F872,
   0x6B8A130103BDAFC1020F3FCA8F1E2CD00645B3B80558E4F70AD3BC8C00ABD890,
   0x6EDF751CE837F9E28535ADE72274AC9673E6B4F0CECFF297EADC674F4111913A,
   0xF45ACD78FEC0DB9A2079D2C64B3E56FC1BBE18AA0E62B76F89C5291D711AF147,
   0xEF9CC9939F7AE52D0D4AB519A97F51605FEC8027591012B131C7078833A8DD1F,
   0x7D0C2155631469E126D677BA7E042B17619953833CBBEBC8B0F52AAE4D3BE0A0]

/-- Entry `b` of a box. -/
def boxAt (rows : List Nat) (b : Byte) : Byte := BitVec.ofNat 8 (rows.getD (b.toNat / 32) 0 / 2 ^ (8 * (b.toNat % 32)))

/-- Multiplication by x in the field of AES. -/
def xtime (b : Byte) : Byte := (b <<< 1) ^^^ (if b.getLsbD 7 then 0x1B else 0)

/-- Multiplication by 9, 11, 13 or 14, as bits of `k`. -/
def gmul (k : Nat) (b : Byte) : Byte :=
  let b2 := xtime b
  let b4 := xtime b2
  let b8 := xtime b4
  (if k % 2 = 1 then b else 0) ^^^ (if k / 2 % 2 = 1 then b2 else 0) ^^^ (if k / 4 % 2 = 1 then b4 else 0) ^^^ (if k / 8 % 2 = 1 then b8 else 0)

def xorBytes (a b : List Byte) : List Byte := (a.zip b).map fun e => e.1 ^^^ e.2

/-- Round constants of the key expansion. -/
def rcon (i : Nat) : Byte := (List.range (i - 1)).foldl (fun c _ => xtime c) 1

/-- The key schedule: words of 4 bytes, newest first; `n` words of key, `k` more to make. -/
def expandKey (n : Nat) : Nat → List (List Byte) → List (List Byte)
  | 0, ws => ws
  | k + 1, ws =>
    let i := ws.length
    let prev := ws.headD []
    let t :=
      if i % n = 0 then xorBytes ((prev.drop 1 ++ prev.take 1).map (boxAt sboxRows)) [rcon (i / n), 0, 0, 0]
      else if n = 8 ∧ i % 8 = 4 then prev.map (boxAt sboxRows) else prev
    expandKey n k (xorBytes (ws.getD (n - 1) []) t :: ws)

/-- A byte string in groups of `k`. -/
def groups (k : Nat) : Nat → List Byte → List (List Byte)
  | 0, _ => []
  | fuel + 1, bs => if bs.isEmpty then [] else bs.take k :: groups k fuel (bs.drop k)

/-- Round keys of a key of 16 or 32 bytes, first round first. -/
def roundKeys (key : List Byte) : List (List Byte) :=
  let n := key.length / 4
  let words := (expandKey n (4 * (n + 7) - n) (groups 4 n key).reverse).reverse
  (List.range (n + 7)).map fun r => ((words.drop (4 * r)).take 4).flatten

/-- ShiftRows: byte 4 c + r of the state comes from column c + r (encrypting) or c − r (decrypting). -/
def shiftRows (dir : Nat) (st : List Byte) : List Byte :=
  (List.range 16).map fun i => st.getD (4 * ((i / 4 + dir * (i % 4)) % 4) + i % 4) 0

/-- MixColumns with the coefficients of a row. -/
def mixColumns (co : List Nat) (st : List Byte) : List Byte :=
  (List.range 16).map fun i =>
    (List.range 4).foldl (fun a j => a ^^^ gmul (co.getD j 0) (st.getD (4 * (i / 4) + (i % 4 + j) % 4) 0)) 0

/-- AES encryption of 16 bytes under a key of 16 or 32 bytes. -/
def aesEncrypt (key block : List Byte) : List Byte :=
  let ks := roundKeys key
  let n := ks.length - 1
  let st := (List.range (n - 1)).foldl (fun st r =>
    xorBytes (mixColumns [2, 3, 1, 1] (shiftRows 1 (st.map (boxAt sboxRows)))) (ks.getD (r + 1) [])) (xorBytes block (ks.headD []))
  xorBytes (shiftRows 1 (st.map (boxAt sboxRows))) (ks.getD n [])

/-- AES decryption. -/
def aesDecrypt (key block : List Byte) : List Byte :=
  let ks := (roundKeys key).reverse
  let n := ks.length - 1
  let st := (List.range (n - 1)).foldl (fun st r =>
    mixColumns [14, 11, 13, 9] (xorBytes ((shiftRows 3 st).map (boxAt sboxInvRows)) (ks.getD (r + 1) []))) (xorBytes block (ks.headD []))
  xorBytes ((shiftRows 3 st).map (boxAt sboxInvRows)) (ks.getD n [])

/-! ### Galois/Counter Mode (SP 800-38D) -/

/-- A block of 16 bytes as a bit string whose first bit is the most significant. -/
def blockOf (bs : List Byte) : BitVec 128 := BitVec.ofNat 128 (beAt bs 0 16)

/-- Multiplication in GF(2^128) as GCM orders bits. -/
def ghMul (x y : BitVec 128) : BitVec 128 :=
  ((List.range 128).foldl (fun (zv : BitVec 128 × BitVec 128) i =>
    (if x.getLsbD (127 - i) then zv.1 ^^^ zv.2 else zv.1,
     (zv.2 >>> 1) ^^^ (if zv.2.getLsbD 0 then (0xE1 : BitVec 128) <<< 120 else 0))) (0, y)).1

/-- GHASH over byte strings in blocks of 16, the last one filled with zeros. -/
def ghash (h : BitVec 128) (acc : BitVec 128) (bs : List Byte) : BitVec 128 :=
  (groups 16 (bs.length + 1) bs).foldl (fun y b => ghMul (y ^^^ blockOf b) h) acc

/-- Counter mode from block `ctr` on, under the counter block's first 12 bytes. -/
def ctrMode (key nonce : List Byte) (ctr : Nat) (bs : List Byte) : List Byte :=
  ((groups 16 (bs.length + 1) bs).zipIdx.map fun e =>
    xorBytes e.1 (aesEncrypt key (nonce ++ toBytesBE 4 (ctr + e.2)))).flatten

/-- The 16-byte ICV over AAD and ciphertext; the nonce has 12 bytes. -/
def gcmTag (key nonce aad ct : List Byte) : List Byte :=
  let h := blockOf (aesEncrypt key (List.replicate 16 0))
  let y := ghash h (ghash h 0 aad) ct
  let y := ghMul (y ^^^ blockOf (toBytesBE 8 (8 * aad.length) ++ toBytesBE 8 (8 * ct.length))) h
  xorBytes (toBytesBE 16 y.toNat) (aesEncrypt key (nonce ++ [0, 0, 0, 1]))

/-- Encryption, and decryption: data blocks take counters from 2 on. -/
def gcmCrypt (key nonce text : List Byte) : List Byte := ctrMode key nonce 2 text

end Sys2Proof.Machine
end

