-- ==== Sys2Proof/Machine/Isa.lean ====
section
/-!
DEFINITION. Engine instructions (chapter 14), first part: issue, arithmetic, branches, special registers, threads and
waits. Each command is one instruction issued by one thread; the bits of its word that the instruction does not use come
with the slot.
-/

namespace Sys2Proof.Machine

/-- What an issued instruction does: its effect, or an exception beside what the access recorded elsewhere. -/
inductive Done where
  | ok (s : State)
  | exc (e : Exc) (s : State)

/-! ### Fields of the formats of R411 -/

def mRd : BitVec 26 := 0x1F <<< 21
def mRs : BitVec 26 := 0x1F <<< 16
def mRt : BitVec 26 := 0x1F <<< 11
def mFn : BitVec 26 := 0x7FF
def mImm : BitVec 26 := 0xFFFF

namespace State

/-- Bytes of code loaded for the Truss of a thread (R410). -/
def codeSize (s : State) (n : Nat) : Nat := SMap.get 0 s.codeLen (n / 64)

/-- The registers an outstanding operation will write; g0 takes no write. -/
def destsOf : RetOp → List RegNo
  | .load _ _ _ rd => [rd]
  | .store .. => []
  | .atomic _ _ _ _ rd => [rd]
  | .aes _ _ _ _ rd => [rd, rd + 1]
  | .tbl _ _ rd => [rd]
  | .buf _ _ _ rd => [rd]
  | .keyld _ _ _ _ rd => [rd]
  | .dma _ _ rd => [rd]

/-- The thread's returning operations outstanding (R380, R409 OUTST). -/
def liveOps (s : State) (n : Nat) : List OutOp := (s.thr n).ops.filter OutOp.live

/-- The slot is a bubble (R380): a register that is read waits for an operation, or a ninth operation would start. -/
def bubble (s : State) (n : Nat) (reads : List RegNo) (ret : Bool) : Bool :=
  let busy := ((s.liveOps n).map fun o => destsOf o.op).flatten.filter (· != 0)
  (reads.any busy.contains) || (ret && decide (8 ≤ (s.liveOps n).length))

def setPc (s : State) (n : Nat) (pc : BitVec 32) : State := s.setThr n { s.thr n with pc := pc }

/-- An exception at the instruction at `pc`, raised at issue: the instruction has no effect (R425). -/
def excAt (s : State) (n : Nat) (e : Exc) (pc : BitVec 32) : State := (s.raiseExc n e pc).setPc n pc

/-- A register-error exception, counted, captured and recorded (R406, R425). -/
def regErrAt (s : State) (n kind : Nat) (pc : BitVec 32) : State := (s.storeUe (n / 64) (n % 64) kind 0x03).excAt n .regErr pc

/-- The slot issues: ECC outcomes, ILLEGAL for an unused field that is not 0 (R412), then the instruction. -/
def issueNow (s : State) (x : Slot) (uses : BitVec 26) (f : State → Nat → BitVec 32 → Done) : State :=
  let n := x.thr.val
  let pc := (s.thr n).pc
  let s := s.bump F.TRS_ISSUE_CNT_COUNT (n / 64)
  if s.codeSize n ≤ pc.toNat then s.excAt n .pcRange pc
  else
    let s := if x.store == .corrected then s.storeCe (n / 64) else s
    let s := if x.regs == .corrected then s.storeCe (n / 64) else s
    if x.store == .uncorrected || x.regs == .uncorrected then s.regErrAt n 0 pc
    else if x.unused &&& ~~~uses ≠ 0 then s.excAt n .illegal pc
    else match f (s.setPc n (pc + 4)) n pc with
      | .ok t => t
      | .exc e t => t.excAt n e pc

/-- A HALTED thread about to issue the one instruction of a STEP (R487). -/
def unhalt (s : State) (n : Nat) : State := s.setThr n { s.thr n with state := .running, prior := .free }

/-- A stepped thread is HALTED again, with the state that its instruction left it in as the one to resume (R487). -/
def haltAgain (s : State) (n : Nat) : State :=
  let y := s.thr n
  match y.state with
  | .running | .waiting | .faulted => s.setThr n { y with state := .halted, prior := y.state }
  | _ => s

/-- The SEQ of a STEP of thread `n` that is in progress and that its instruction may now end: the thread's wait is over (R487). -/
def stepSeq (s : State) (n : Nat) : Option Seq :=
  match s.heldStep with
  | some (k, q) => if k = n ∧ (s.thr n).state = .halted ∧ (s.thr n).prior = .running ∧ !(s.thr n).aborting then some q else none
  | none => none

/-- One slot of a RUNNING thread, in which an instruction that reads `reads` issues or the slot is a bubble (R379, R380); one slot of a
HALTED thread that a STEP in progress makes issue once (R487). -/
def issue (s : State) (x : Slot) (uses : BitVec 26) (reads : List RegNo) (ret : Bool)
    (f : State → Nat → BitVec 32 → Done) : State :=
  let n := x.thr.val
  if (s.thr n).state ≠ .running || (s.thr n).aborting then
    match s.stepSeq n with
    | none => s
    | some q =>
      if s.bubble n reads ret then s.bump F.TRS_BUBBLE_CNT_COUNT (n / 64)
      else { ((s.unhalt n).issueNow x uses f).haltAgain n with heldStep := none }.thrDone q 0
  else if s.bubble n reads ret then s.bump F.TRS_BUBBLE_CNT_COUNT (n / 64)
  else s.issueNow x uses f

/-- The value of a register operand. -/
def g (s : State) (n : Nat) (r : RegNo) : Word := s.greg n r.toNat

/-- The instruction writes `rd` and ends. -/
def put (s : State) (n : Nat) (rd : RegNo) (w : Word) : Done := .ok (s.setGreg n rd.toNat w)

/-- An instruction of R413 over two registers. -/
def alu2 (s : State) (x : Slot) (rd rs rt : RegNo) (f : Word → Word → Word) : State :=
  s.issue x (mRd ||| mRs ||| mRt ||| mFn) [rs, rt] false fun t n _ => t.put n rd (f (t.g n rs) (t.g n rt))

/-- An instruction of R413 over one register. -/
def alu1 (s : State) (x : Slot) (rd rs : RegNo) (f : Word → Word) : State :=
  s.issue x (mRd ||| mRs ||| mFn) [rs] false fun t n _ => t.put n rd (f (t.g n rs))

/-- An instruction over a register and an immediate. -/
def aluImm (s : State) (x : Slot) (rd rs : RegNo) (f : Word → Word) : State :=
  s.issue x (mRd ||| mRs ||| mImm) [rs] false fun t n _ => t.put n rd (f (t.g n rs))

end State

/-! ### Arithmetic (R413) -/

/-- Signed comparison. -/
def slt (a b : Word) : Bool := decide (a.toInt < b.toInt)

def boolWord (b : Bool) : Word := if b then 1 else 0

/-- Number of 1 bits. -/
def popcount (w : Word) : Nat := ((List.range 64).filter w.getLsbD).length

/-- Zeros above the highest 1 bit, and below the lowest; 64 for 0. -/
def leadingZeros (w : Word) : Nat := ((List.range 64).find? fun i => w.getLsbD (63 - i)).getD 64
def trailingZeros (w : Word) : Nat := ((List.range 64).find? w.getLsbD).getD 64

/-- The bytes in reverse order. -/
def byteSwap (w : Word) : Word := BitVec.ofNat 64 (fromBytesBE (toBytesLE 8 w.toNat))

/-- ADD. -/
def execAdd (x : Slot) (rd rs rt : RegNo) (s : State) : Out3 := .next (s.alu2 x rd rs rt (· + ·))
/-- SUB. -/
def execSub (x : Slot) (rd rs rt : RegNo) (s : State) : Out3 := .next (s.alu2 x rd rs rt (· - ·))
/-- AND. -/
def execAnd (x : Slot) (rd rs rt : RegNo) (s : State) : Out3 := .next (s.alu2 x rd rs rt (· &&& ·))
/-- OR. -/
def execOr (x : Slot) (rd rs rt : RegNo) (s : State) : Out3 := .next (s.alu2 x rd rs rt (· ||| ·))
/-- XOR. -/
def execXor (x : Slot) (rd rs rt : RegNo) (s : State) : Out3 := .next (s.alu2 x rd rs rt (· ^^^ ·))
/-- SLL; the count is rt[5:0]. -/
def execSll (x : Slot) (rd rs rt : RegNo) (s : State) : Out3 := .next (s.alu2 x rd rs rt fun a b => a <<< (b.toNat % 64))
/-- SRL. -/
def execSrl (x : Slot) (rd rs rt : RegNo) (s : State) : Out3 := .next (s.alu2 x rd rs rt fun a b => a >>> (b.toNat % 64))
/-- SRA. -/
def execSra (x : Slot) (rd rs rt : RegNo) (s : State) : Out3 := .next (s.alu2 x rd rs rt fun a b => a.sshiftRight (b.toNat % 64))
/-- MUL: the low 64 bits. -/
def execMul (x : Slot) (rd rs rt : RegNo) (s : State) : Out3 := .next (s.alu2 x rd rs rt (· * ·))
/-- MULHU: the high 64 bits of the unsigned product. -/
def execMulhu (x : Slot) (rd rs rt : RegNo) (s : State) : Out3 :=
  .next (s.alu2 x rd rs rt fun a b => BitVec.ofNat 64 (a.toNat * b.toNat / 2 ^ 64))
/-- SLT. -/
def execSlt (x : Slot) (rd rs rt : RegNo) (s : State) : Out3 := .next (s.alu2 x rd rs rt fun a b => boolWord (slt a b))
/-- SLTU. -/
def execSltu (x : Slot) (rd rs rt : RegNo) (s : State) : Out3 :=
  .next (s.alu2 x rd rs rt fun a b => boolWord (decide (a.toNat < b.toNat)))
/-- MIN, signed. -/
def execMin (x : Slot) (rd rs rt : RegNo) (s : State) : Out3 := .next (s.alu2 x rd rs rt fun a b => if slt b a then b else a)
/-- MAX, signed. -/
def execMax (x : Slot) (rd rs rt : RegNo) (s : State) : Out3 := .next (s.alu2 x rd rs rt fun a b => if slt a b then b else a)
/-- POPC. -/
def execPopc (x : Slot) (rd rs : RegNo) (s : State) : Out3 := .next (s.alu1 x rd rs fun a => BitVec.ofNat 64 (popcount a))
/-- CLZ. -/
def execClz (x : Slot) (rd rs : RegNo) (s : State) : Out3 := .next (s.alu1 x rd rs fun a => BitVec.ofNat 64 (leadingZeros a))
/-- CTZ. -/
def execCtz (x : Slot) (rd rs : RegNo) (s : State) : Out3 := .next (s.alu1 x rd rs fun a => BitVec.ofNat 64 (trailingZeros a))
/-- BSWAP. -/
def execBswap (x : Slot) (rd rs : RegNo) (s : State) : Out3 := .next (s.alu1 x rd rs byteSwap)

/-- ADDI. -/
def execAddi (x : Slot) (rd rs : RegNo) (imm : BitVec 16) (s : State) : Out3 :=
  .next (s.aluImm x rd rs (· + imm.signExtend 64))
/-- ANDI. -/
def execAndi (x : Slot) (rd rs : RegNo) (imm : BitVec 16) (s : State) : Out3 :=
  .next (s.aluImm x rd rs (· &&& imm.setWidth 64))
/-- ORI. -/
def execOri (x : Slot) (rd rs : RegNo) (imm : BitVec 16) (s : State) : Out3 :=
  .next (s.aluImm x rd rs (· ||| imm.setWidth 64))
/-- XORI. -/
def execXori (x : Slot) (rd rs : RegNo) (imm : BitVec 16) (s : State) : Out3 :=
  .next (s.aluImm x rd rs (· ^^^ imm.setWidth 64))
/-- SLTI. -/
def execSlti (x : Slot) (rd rs : RegNo) (imm : BitVec 16) (s : State) : Out3 :=
  .next (s.aluImm x rd rs fun a => boolWord (slt a (imm.signExtend 64)))
/-- LIH: `k` is RS[17:16]; RS[20:18] is unused. It reads rd, of which it keeps the other bits. -/
def execLih (x : Slot) (rd : RegNo) (k : BitVec 2) (imm : BitVec 16) (s : State) : Out3 :=
  .next (s.issue x (mRd ||| (0x3 <<< 16) ||| mImm) [rd] false fun t n _ =>
    t.put n rd (setBits (t.g n rd) (16 * k.toNat) 16 imm.toNat))

/-- SHI with a kind; IMM[15:8] is unused. -/
def State.shi (s : State) (x : Slot) (rd rs : RegNo) (f : Word → Word) : State :=
  s.issue x (mRd ||| mRs ||| 0xFF) [rs] false fun t n _ => t.put n rd (f (t.g n rs))

/-- SHI, SLL. -/
def execShiSll (x : Slot) (rd rs : RegNo) (c : BitVec 6) (s : State) : Out3 := .next (s.shi x rd rs (· <<< c.toNat))
/-- SHI, SRL. -/
def execShiSrl (x : Slot) (rd rs : RegNo) (c : BitVec 6) (s : State) : Out3 := .next (s.shi x rd rs (· >>> c.toNat))
/-- SHI, SRA. -/
def execShiSra (x : Slot) (rd rs : RegNo) (c : BitVec 6) (s : State) : Out3 := .next (s.shi x rd rs (·.sshiftRight c.toNat))
/-- SHI, rotate right. -/
def execShiRotate (x : Slot) (rd rs : RegNo) (c : BitVec 6) (s : State) : Out3 := .next (s.shi x rd rs (·.rotateRight c.toNat))

/-! ### CRC32C (R414) -/


/-- CRC: over the low 2^fn bytes of rt, without initial or final complement. -/
def execCrc (x : Slot) (rd rs rt : RegNo) (fn : BitVec 2) (s : State) : Out3 :=
  .next (s.issue x (mRd ||| mRs ||| mRt ||| mFn) [rs, rt] false fun t n _ =>
    t.put n rd (((toBytesLE (2 ^ fn.toNat) (t.g n rt).toNat).foldl crcByte ((t.g n rs).setWidth 32)).setWidth 64))

/-! ### Branches and jumps -/

/-- Goes to a byte address, if it lies in the loaded code. -/
def State.jump (s : State) (n : Nat) (target : Int) : Done :=
  if target < 0 ∨ ((s.codeSize n : Nat) : Int) ≤ target then .exc .pcRange s
  else .ok (s.setPc n (BitVec.ofInt 32 target))

/-- The target PC + 4 × OFF. -/
def relTarget (pc : BitVec 32) (off : Int) : Int := (pc.toNat : Int) + 4 * off

/-- A branch. -/
def State.branch (s : State) (x : Slot) (rs rt : RegNo) (off : BitVec 16) (p : Word → Word → Bool) : State :=
  s.issue x (mRd ||| mRs ||| mImm) [rs, rt] false fun t n pc =>
    if p (t.g n rs) (t.g n rt) then t.jump n (relTarget pc off.toInt) else .ok t

/-- BEQ. -/
def execBeq (x : Slot) (rs rt : RegNo) (off : BitVec 16) (s : State) : Out3 := .next (s.branch x rs rt off fun a b => a == b)
/-- BNE. -/
def execBne (x : Slot) (rs rt : RegNo) (off : BitVec 16) (s : State) : Out3 := .next (s.branch x rs rt off fun a b => a != b)
/-- BLT, signed. -/
def execBlt (x : Slot) (rs rt : RegNo) (off : BitVec 16) (s : State) : Out3 := .next (s.branch x rs rt off slt)
/-- BGE, signed. -/
def execBge (x : Slot) (rs rt : RegNo) (off : BitVec 16) (s : State) : Out3 := .next (s.branch x rs rt off fun a b => !slt a b)
/-- BLTU. -/
def execBltu (x : Slot) (rs rt : RegNo) (off : BitVec 16) (s : State) : Out3 :=
  .next (s.branch x rs rt off fun a b => decide (a.toNat < b.toNat))
/-- BGEU. -/
def execBgeu (x : Slot) (rs rt : RegNo) (off : BitVec 16) (s : State) : Out3 :=
  .next (s.branch x rs rt off fun a b => decide (b.toNat ≤ a.toNat))

/-- JAL: g31 = PC + 4, then the jump. -/
def execJal (x : Slot) (off : BitVec 26) (s : State) : Out3 :=
  .next (s.issue x 0x3FFFFFF [] false fun t n pc =>
    match t.jump n (relTarget pc off.toInt) with
    | .ok u => u.put n 31 (BitVec.ofNat 64 (pc.toNat + 4))
    | .exc e u => .exc e u)

/-- JALR: the target is computed before rd is written; one that is not a multiple of 4 raises ALIGN. -/
def execJalr (x : Slot) (rd rs : RegNo) (imm : BitVec 16) (s : State) : Out3 :=
  .next (s.issue x (mRd ||| mRs ||| mImm) [rs] false fun t n pc =>
    let target := (t.g n rs + imm.signExtend 64).toNat
    if target % 4 ≠ 0 then .exc .align t
    else match t.jump n target with
      | .ok u => u.put n rd (BitVec.ofNat 64 (pc.toNat + 4))
      | .exc e u => .exc e u)

/-! ### FENCE, MFS, TIME, TMR -/

/-- FENCE: a bubble until no operation of the thread, loads and stores alike, is outstanding. -/
def execFence (x : Slot) (s : State) : Out3 := .next <|
  let n := x.thr.val
  let slot := ((s.thr n).state == .running && !(s.thr n).aborting) || (s.stepSeq n).isSome
  if slot && !(s.liveOps n).isEmpty then s.bump F.TRS_BUBBLE_CNT_COUNT (n / 64)
  else s.issue x 0 [] false fun t _ _ => .ok t

/-- The special registers (R409). -/
def State.special (s : State) (n k : Nat) : Option Word :=
  let x := s.thr n
  match k with
  | 0 => some (BitVec.ofNat 64 n)
  | 1 => some (BitVec.ofNat 64 (n % 64))
  | 2 => some (BitVec.ofNat 64 x.parent)
  | 3 => some s.cycle
  | 4 => some x.cmp
  | 5 => some (BitVec.ofNat 64 (b2n x.armed + 2 * b2n (s.timerPending n)))
  | 6 => some (x.tfrac.setWidth 64)
  | 7 => some (BitVec.ofNat 64 s.dbase)
  | 8 => some (BitVec.ofNat 64 s.dsize)
  | 9 => some (BitVec.ofNat 64 (s.liveOps n).length)
  | _ => none

/-- MFS. -/
def execMfs (x : Slot) (rd : RegNo) (k : Byte) (s : State) : Out3 :=
  .next (s.issue x (mRd ||| 0xFF) [] false fun t n _ =>
    match t.special n k.toNat with
    | some w => t.put n rd w
    | none => .exc .illegal t)

/-- TIME (R423). -/
def execTime (x : Slot) (rd : RegNo) (s : State) : Out3 :=
  .next (s.issue x mRd [] false fun t n _ => (t.setThr n { t.thr n with tfrac := t.frac }).put n rd t.wide)

/-- Sets and arms the timer compare (R391). -/
def State.setTimer (s : State) (n : Nat) (v : Word) : Done :=
  .ok (s.setThr n { s.thr n with cmp := v, armed := true, pend := (s.thr n).pend &&& 0x7FE })

/-- TMR, absolute. -/
def execTmrAbs (x : Slot) (rs : RegNo) (s : State) : Out3 :=
  .next (s.issue x (mRs ||| mFn) [rs] false fun t n _ => t.setTimer n (t.g n rs))
/-- TMR, from CYCLE at issue. -/
def execTmrRel (x : Slot) (rs : RegNo) (s : State) : Out3 :=
  .next (s.issue x (mRs ||| mFn) [rs] false fun t n _ => t.setTimer n (t.cycle + t.g n rs))

/-! ### Threads (R383–R385, R390–R393) -/

/-- FORK and FORKD (R384): the lowest FREE thread of the pool starts at PC + 4 × IMM with g1 = rs. -/
def State.fork (s : State) (x : Slot) (rd rs : RegNo) (imm : BitVec 16) (detached : Bool) : State :=
  s.issue x (mRd ||| mRs ||| mImm) [rs] false fun t n pc =>
    let target := relTarget pc imm.toInt
    if target < 0 ∨ ((t.codeSize n : Nat) : Int) ≤ target then .exc .pcRange t
    else match ((State.trussThreads (n / 64)).drop 1).find? fun m => (t.thr m).state == .free && !(t.thr m).aborting with
      | none => (t.bump F.TRS_THR_CNT_FORK_NONE (n / 64)).put n rd noneVal
      | some m =>
        let child : Thread := { ops := (t.thr m).ops, state := .running, pc := BitVec.ofInt 32 target, parent := n % 64,
                                detached := detached, joinable := !detached, regs := SMap.put 0 [] 1 (t.g n rs) }
        ((t.setThr m child).bump F.TRS_THR_CNT_FORKS (n / 64)).put n rd (BitVec.ofNat 64 (m % 64))

/-- FORK. -/
def execFork (x : Slot) (rd rs : RegNo) (imm : BitVec 16) (s : State) : Out3 := .next (s.fork x rd rs imm false)
/-- FORKD. -/
def execForkd (x : Slot) (rd rs : RegNo) (imm : BitVec 16) (s : State) : Out3 := .next (s.fork x rd rs imm true)

/-- JOIN (R385). -/
def execJoin (x : Slot) (rd rs : RegNo) (s : State) : Out3 :=
  .next (s.issue x (mRd ||| mRs) [rs] false fun t n _ =>
    let c := (t.g n rs).toNat
    let m := 64 * (n / 64) + c
    let y := t.thr m
    if 64 ≤ c ∨ y.state = .free ∨ !y.joinable ∨ y.parent ≠ n % 64 then .exc .join t
    else if y.state = .done then (t.setThr m { ops := y.ops }).put n rd y.exitVal
    else .ok (t.setThr n { t.thr n with state := .waiting, waitMask := 0x20, joining := some (c, rd), claims := 0 }))

/-- END (R383): ends the thread; PRIV for the supervisor. -/
def execEnd (x : Slot) (rs : RegNo) (s : State) : Out3 :=
  .next (s.issue x mRs [rs] false fun t n _ =>
    if n % 64 = 0 then .exc .priv t else .ok (t.endThread n (t.g n rs)))

/-- SIGNAL. -/
def execSignal (x : Slot) (rs : RegNo) (s : State) : Out3 :=
  .next (s.issue x mRs [rs] false fun t n _ =>
    let c := (t.g n rs).toNat
    let m := 64 * (n / 64) + c
    if 64 ≤ c then .exc .arg t
    else if (t.thr m).aborting then .ok t
    else .ok (t.pendSource m 6))

/-- WAIT (R389–R393): returns pending sources at once, or waits. -/
def execWait (x : Slot) (rd : RegNo) (mask : BitVec 11) (s : State) : Out3 :=
  .next (s.issue x (mRd ||| mFn) [] false fun t n _ =>
    let set := t.pendingSet n &&& State.effMask n mask
    if set ≠ 0 then .ok (t.takeSources n set 0 rd.toNat)
    else .ok (t.setThr n { t.thr n with state := .waiting, waitMask := mask, waitRd := rd, claims := 0 }))

/-- The FAULTED thread that THRCTL names (R414). -/
def State.faultedThread (s : State) (n : Nat) (w : Word) : Option Nat :=
  let m := 64 * (n / 64) + w.toNat
  if w.toNat < 64 ∧ (s.thr m).state = .faulted ∧ !(s.thr m).aborting then some m else none

/-- THRCTL, FN 0: returns a FAULTED thread to the pool. -/
def execThrctlFree (x : Slot) (rd rs : RegNo) (s : State) : Out3 :=
  .next (s.issue x (mRd ||| mRs ||| mFn) [rs] false fun t n _ =>
    if n % 64 ≠ 0 then .exc .priv t
    else match t.faultedThread n (t.g n rs) with
      | some m => (t.toPool m).put n rd 0
      | none => t.put n rd 2)

/-- THRCTL, FN 1: restarts a FAULTED thread at rt with its registers kept. -/
def execThrctlRestart (x : Slot) (rd rs rt : RegNo) (s : State) : Out3 :=
  .next (s.issue x (mRd ||| mRs ||| mRt ||| mFn) [rs, rt] false fun t n _ =>
    let a := (t.g n rt).toNat
    if n % 64 ≠ 0 then .exc .priv t
    else if a % 4 ≠ 0 ∨ t.codeSize n ≤ a then .exc .pcRange t
    else match t.faultedThread n (t.g n rs) with
      | some m => (t.setThr m { t.thr m with state := .running, pc := BitVec.ofNat 32 a }).put n rd 0
      | none => t.put n rd 2)

/-! ### Rails (R394, R395) -/

/-- RSV. -/
def execRsv (x : Slot) (rs : RegNo) (s : State) : Out3 :=
  .next (s.issue x mRs [rs] false fun t n _ =>
    let k := (t.g n rs).toNat
    let p := n / 192
    if 256 ≤ k then .exc .arg t
    else if (t.thr n).rail.isSome then .exc .rail t
    else
      let r := t.rail p k
      if r.free && r.waiters.isEmpty then
        .ok ((t.setRail p k { r with owner := some n }).setThr n { t.thr n with rail := some k, partMsg := [] })
      else
        .ok ((t.setRail p k { r with waiters := r.waiters ++ [n] }).setThr n
          { t.thr n with state := .waiting, implicit := some (.rail k) }))

/-- PUT: a ninth word raises RAIL. -/
def execPut (x : Slot) (rs : RegNo) (s : State) : Out3 :=
  .next (s.issue x mRs [rs] false fun t n _ =>
    let y := t.thr n
    if y.rail.isNone ∨ 8 ≤ y.partMsg.length then .exc .rail t
    else .ok (t.setThr n { y with partMsg := y.partMsg ++ [t.g n rs] }))

/-- RSEND: commits the message, if a word was put, and releases the reservation. -/
def execRsend (x : Slot) (s : State) : Out3 :=
  .next (s.issue x 0 [] false fun t n _ =>
    let y := t.thr n
    match y.rail with
    | none => .exc .rail t
    | some k =>
      let p := n / 192
      let r := t.rail p k
      let msgs := if y.partMsg.isEmpty then r.msgs else r.msgs ++ [y.partMsg]
      let t := (t.setRail p k { r with owner := none, msgs := msgs }).setThr n { y with rail := none, partMsg := [] }
      match r.reader with
      | some d => .ok (if y.partMsg.isEmpty then t else t.sourceWake d)
      | none => .ok t)

/-- RRD: the oldest message of a Rail that the Truss reads goes to the RAIL area. -/
def execRrd (x : Slot) (rd rs : RegNo) (s : State) : Out3 :=
  .next (s.issue x (mRd ||| mRs) [rs] false fun t n _ =>
    let k := (t.g n rs).toNat
    let p := n / 192
    let r := t.rail p k
    if 256 ≤ k then .exc .arg t
    else if r.reader ≠ some (n / 64) then .exc .notBound t
    else
      let y := { t.thr n with claims := (t.thr n).claims &&& ~~~(2 : BitVec 11) }
      match r.msgs with
      | [] => (t.setThr n y).put n rd noneVal
      | m :: rest =>
        ((t.setRail p k { r with msgs := rest }).setThr n { y with railMsg := m }).put n rd (BitVec.ofNat 64 m.length))

/-! ### Mailboxes (R179) -/

/-- MBXR: the outbound word of the lowest Span channel routed to the Truss that holds one. -/
def execMbxr (x : Slot) (rd : RegNo) (s : State) : Out3 :=
  .next (s.issue x mRd [] false fun t n _ =>
    let y := { t.thr n with claims := (t.thr n).claims &&& ~~~(8 : BitVec 11) }
    match t.mbxWaiting (n / 64) with
    | [] => (t.setThr n y).put n rd noneVal
    | c :: _ =>
      let m := t.mail c
      (((t.setMail c { m with outWord := 0, outFull := false }).fullMap c).setThr n
        { y with win := { y.win with mbxWord := m.outWord } }).put n rd (BitVec.ofNat 64 c))

/-- MBXW: a word to the inbound side of a Span channel routed to the Truss. -/
def execMbxw (x : Slot) (rd rs rt : RegNo) (s : State) : Out3 :=
  .next (s.issue x (mRd ||| mRs ||| mRt) [rs, rt] false fun t n _ =>
    let c := (t.g n rs).toNat
    if 4096 ≤ c then .exc .arg t
    else if t.mbxTruss c ≠ some (n / 64) then .exc .notBound t
    else if (t.mail c).inFull then t.put n rd 1
    else (t.storeIn c (t.g n rt)).put n rd 0)

end Sys2Proof.Machine
end

