-- ==== Sys2Proof/Machine/IsaMem.lean ====
section
/-!
DEFINITION. Engine instructions, second part: scratchpad, packet window and RLD accesses, and the return of RLD operations
(R415–R417, R430–R433, R443).
-/

namespace Sys2Proof.Machine

/-- The thread's owner as a master of the scratchpad, and as a party to buffers (R120, R434). -/
def actorOf (n : Nat) : BitVec 16 := State.ownerTruss (n / 64)

/-- The master number of a thread at its Pier's scratchpad (R431). -/
def masterOf (n : Nat) : Nat := n / 64 % 3

namespace State

/-- The effective address of format M: RB + OFF. -/
def effAddr (b : Word) (off : BitVec 13) : Word := b + off.signExtend 64

/-- The checks of R415 on an access of `size` bytes at address `a`: the exception, with a refusal by the Bay recorded
(R435); the Pier offset otherwise. -/
def spmCheck (s : State) (n : Nat) (a : Word) (size : Nat) (write : Bool) : Except Done Nat :=
  let off := a.toNat % 0x1000000
  if a.toNat % size ≠ 0 then .error (.exc .align s)
  else if 0x4000000 ≤ a.toNat ∨ a.toNat / 0x1000000 % 4 = 3 then .error (.exc .spmRange s)
  else match s.bayAns (n / 192) off (actorOf n) (masterOf n) with
    | some c => .error (.exc .bay (s.spmRefuse (n / 192) off (actorOf n) (masterOf n) c write))
    | none => .ok off

/-- Reads `size` bytes at a Pier offset, after the ECC outcome `e`; a poisoned word raises POISON (R443). -/
def spmFetch (s : State) (n off size : Nat) (e : Ecc) : Except Done (State × List Byte) :=
  let p := n / 192
  let s := s.spmEcc p off e
  if s.spmBadIn p off size then .error (.exc .poison (s.spmUe p off (actorOf n) (masterOf n)))
  else .ok (s, s.spmRead p off size)

/-- A loaded value: SX sign-extends it. -/
def loaded (sx : Bool) (bs : List Byte) : Word :=
  let v := fromBytesLE bs
  if sx then BitVec.ofInt 64 (signed (8 * bs.length) v) else BitVec.ofNat 64 v

/-- The bytes a store of `size` bytes through a view leaves (R433). -/
def viewBytes (view : Nat) (old new : List Byte) : List Byte :=
  match view with
  | 1 => (old.zip new).map fun x => x.1 ||| x.2
  | 2 => (old.zip new).map fun x => x.1 &&& ~~~x.2
  | _ => new

end State

/-- LDS (R415, R433, R443). -/
def execLds (x : Slot) (rd rb : RegNo) (sx : Bool) (sz : BitVec 2) (off : BitVec 13) (s : State) : Out3 :=
  .next (s.issue x 0x3FFFFFF [rb] false fun t n _ =>
    let size := 2 ^ sz.toNat
    match t.spmCheck n (State.effAddr (t.g n rb) off) size false with
    | .error d => d
    | .ok o =>
      match t.spmFetch n o size x.word with
      | .error d => d
      | .ok (t, bs) => t.put n rd (State.loaded sx bs))

/-- STS (R415, R433); SX = 1 is ILLEGAL (R412). -/
def execSts (x : Slot) (rd rb : RegNo) (sx : Bool) (sz : BitVec 2) (off : BitVec 13) (s : State) : Out3 :=
  .next (s.issue x 0x3FFFFFF [rd, rb] false fun t n _ =>
    let size := 2 ^ sz.toNat
    let a := State.effAddr (t.g n rb) off
    if sx then .exc .illegal t
    else match t.spmCheck n a size true with
      | .error d => d
      | .ok o =>
        let new := toBytesLE size (t.g n rd).toNat
        .ok (t.spmWrite (n / 192) o (State.viewBytes (a.toNat / 0x1000000 % 4) (t.spmRead (n / 192) o size) new)))

/-- ATS (R414, R432): `f old rt` is the word written, if one is; rd receives the old word. -/
def State.ats (s : State) (x : Slot) (rd rs rt : RegNo) (reads : List RegNo) (f : Word → Word → Word → Option Word) : State :=
  s.issue x (mRd ||| mRs ||| mRt ||| mFn) reads false fun t n _ =>
    match t.spmCheck n (t.g n rs) 8 true with
    | .error d => d
    | .ok o =>
      match t.spmFetch n o 8 x.word with
      | .error d => d
      | .ok (t, bs) =>
        let old := State.loaded false bs
        match f old (t.g n rt) (t.g n rd) with
        | some w => (t.setWord (n / 192) o w).put n rd old
        | none => t.put n rd old

/-- ATS ADD. -/
def execAtsAdd (x : Slot) (rd rs rt : RegNo) (s : State) : Out3 := .next (s.ats x rd rs rt [rs, rt] fun o v _ => some (o + v))
/-- ATS SWAP. -/
def execAtsSwap (x : Slot) (rd rs rt : RegNo) (s : State) : Out3 := .next (s.ats x rd rs rt [rs, rt] fun _ v _ => some v)
/-- ATS CAS: writes rt if the word equals rd. -/
def execAtsCas (x : Slot) (rd rs rt : RegNo) (s : State) : Out3 :=
  .next (s.ats x rd rs rt [rs, rt, rd] fun o v c => if o = c then some v else none)

/-! ### The packet window (R417) -/

namespace State

/-- An aligned 8-byte unit of the window outside HEAD and HVEC, if the layout gives it a field; a word of the RAIL area
beyond the message read last has no content (log entry 30). -/
def winUnit (x : Thread) (o : Nat) : Option Word :=
  if o = 0x200 then some x.win.item else if o = 0x208 then some x.win.ref else if o = 0x210 then some x.win.time
  else if o = 0x218 then some x.win.parse else if o = 0x220 then some x.win.mark
  else if 0x240 ≤ o ∧ o < 0x280 then (if x.railMsg.isEmpty then some 0 else x.railMsg[(o - 0x240) / 8]?)
  else if o = 0x280 then some x.win.injectData else if o = 0x288 then some x.win.mbxWord
  else none

/-- Bytes of the window; where the layout gives no field, a free value (log entry 30). -/
def winRead (s : State) (n o size : Nat) : State × List Byte :=
  let x := s.thr n
  if o < 0x200 then (s, (List.range size).map fun i => SMap.get 0 x.head (o + i))
  else if 0x300 ≤ o then (s, (List.range size).map fun i => SMap.get 0 x.hvec (o - 0x300 + i))
  else match winUnit x (o / 8 * 8) with
    | some w => (s, ((toBytesLE 8 w.toNat).drop (o % 8)).take size)
    | none => (s.fresh.2, toBytesLE size s.fresh.1.toNat)

end State

/-- LDW (R417). -/
def execLdw (x : Slot) (rd rb : RegNo) (sx : Bool) (sz : BitVec 2) (off : BitVec 13) (s : State) : Out3 :=
  .next (s.issue x 0x3FFFFFF [rb] false fun t n _ =>
    let size := 2 ^ sz.toNat
    let o := (State.effAddr (t.g n rb) off).toNat
    if o % size ≠ 0 then .exc .align t
    else if 0x400 ≤ o then .exc .win t
    else
      let (t, bs) := t.winRead n o size
      t.put n rd (State.loaded sx bs))

/-- STW (R417): HEAD and INJECT_DATA only. -/
def execStw (x : Slot) (rd rb : RegNo) (sx : Bool) (sz : BitVec 2) (off : BitVec 13) (s : State) : Out3 :=
  .next (s.issue x 0x3FFFFFF [rd, rb] false fun t n _ =>
    let size := 2 ^ sz.toNat
    let o := (State.effAddr (t.g n rb) off).toNat
    let y := t.thr n
    if sx then .exc .illegal t
    else if o % size ≠ 0 then .exc .align t
    else if o < 0x200 then
      let put (h : SMap Byte) (i : Nat) : SMap Byte := SMap.put 0 h (o + i) ((toBytesLE size (t.g n rd).toNat).getD i 0)
      .ok (t.setThr n { y with head := (List.range size).foldl put y.head })
    else if 0x280 ≤ o ∧ o < 0x288 then
      .ok (t.setThr n { y with win := { y.win with
        injectData := setBits y.win.injectData (8 * (o - 0x280)) (8 * size) (t.g n rd).toNat } })
    else .exc .win t)

/-! ### RLD (R416, R430) -/

namespace State

/-- The checks of R416. -/
def rldCheck (s : State) (a size : Nat) : Option Exc :=
  if a % size ≠ 0 then some .align else if s.inEngineRegion a size then none else some .rldRange

/-- Starts a returning operation. -/
def startOp (s : State) (n : Nat) (pc : BitVec 32) (op : RetOp) : Done :=
  .ok (s.setThr n { s.thr n with ops := (s.thr n).ops ++ [{ op := op, pc := pc }] })

end State

/-- LDR. -/
def execLdr (x : Slot) (rd rb : RegNo) (sx : Bool) (sz : BitVec 2) (off : BitVec 13) (s : State) : Out3 :=
  .next (s.issue x 0x3FFFFFF [rb] true fun t n pc =>
    let a := (State.effAddr (t.g n rb) off).toNat
    match t.rldCheck a (2 ^ sz.toNat) with
    | some e => .exc e t
    | none => t.startOp n pc (.load a (2 ^ sz.toNat) sx rd))

/-- STR; SX = 1 is ILLEGAL. -/
def execStr (x : Slot) (rd rb : RegNo) (sx : Bool) (sz : BitVec 2) (off : BitVec 13) (s : State) : Out3 :=
  .next (s.issue x 0x3FFFFFF [rd, rb] true fun t n pc =>
    let a := (State.effAddr (t.g n rb) off).toNat
    if sx then .exc .illegal t
    else match t.rldCheck a (2 ^ sz.toNat) with
      | some e => .exc e t
      | none => t.startOp n pc (.store a (2 ^ sz.toNat) (t.g n rd)))

/-- ATR (R414), applied at the RLC when it returns. -/
def State.atr (s : State) (x : Slot) (rd rs rt : RegNo) (reads : List RegNo) (fn : Fin 3) : State :=
  s.issue x (mRd ||| mRs ||| mRt ||| mFn) reads true fun t n pc =>
    match t.rldCheck (t.g n rs).toNat 8 with
    | some e => .exc e t
    | none => t.startOp n pc (.atomic fn (t.g n rs).toNat (t.g n rt) (t.g n rd) rd)

/-- ATR ADD. -/
def execAtrAdd (x : Slot) (rd rs rt : RegNo) (s : State) : Out3 := .next (s.atr x rd rs rt [rs, rt] 0)
/-- ATR SWAP. -/
def execAtrSwap (x : Slot) (rd rs rt : RegNo) (s : State) : Out3 := .next (s.atr x rd rs rt [rs, rt] 1)
/-- ATR CAS. -/
def execAtrCas (x : Slot) (rd rs rt : RegNo) (s : State) : Out3 := .next (s.atr x rd rs rt [rs, rt, rd] 2)

/-! ### Returns (R379, R425) -/

namespace State

/-- A debugger's ABORT whose thread has no outstanding operation left ends with OK (R402, R487). -/
def abortEnd (s : State) (n : Nat) : State :=
  match s.heldStep with
  | some (k, q) => if k = n then { s with heldStep := none }.thrDone q 0 else s
  | none => s

/-- Takes the operation at place `k` of a thread's list out of it; the last of a thread that a debugger aborts frees it. -/
def takeOp (s : State) (n k : Nat) : State :=
  let s := s.setThr n { s.thr n with ops := (s.thr n).ops.eraseIdx k }
  if (s.thr n).dropping && (s.thr n).ops.isEmpty then (s.setThr n {}).abortEnd n else s

/-- An operation of a thread that still is the one that issued it writes a register. -/
def retReg (s : State) (n : Nat) (o : OutOp) (rd : RegNo) (w : Word) : State := if o.live then s.setGreg n rd.toNat w else s

/-- An exception at return (R425): a HALTED thread keeps the FAULTED state for its resume; a thread already FAULTED keeps its
record. -/
def retExc (s : State) (n : Nat) (o : OutOp) (e : Exc) : State :=
  if !o.live then s
  else match (s.thr n).state with
    | .faulted => s
    | .halted =>
      if (s.thr n).prior = .faulted then s
      else
        let t := s.raiseExc n e o.pc
        t.setThr n { t.thr n with state := .halted, prior := .faulted }
    | _ => s.raiseExc n e o.pc

/-- The RLD line an operation touches. -/
def opLine : RetOp → Option Nat
  | .load a .. => some (a / 64)
  | .store a .. => some (a / 64)
  | .atomic _ a .. => some (a / 64)
  | _ => none

/-- An operation of the same thread and line was issued before the one at place `k` and is outstanding (R416). -/
def lineBehind (l : List OutOp) (k : Nat) (line : Nat) : Bool := (l.take k).any fun o => opLine o.op == some line

end State

/-- RLD_LOAD_RETURN (R30, R379, R416, R425): the RLD operation at place `k` of the thread's list takes effect at its RLC, with
the outcome `e` of the line's ECC check, and returns; operations on one line return in issue order. -/
def execRldLoadReturn (n : ThreadId) (k : Fin 64) (e : Ecc) (s : State) : Out3 := .next <|
  match (s.thr n.val).ops[k.val]? with
  | none => s
  | some o =>
    match State.opLine o.op with
    | none => s
    | some line =>
      if State.lineBehind (s.thr n.val).ops k.val line then s
      else
        let s := (s.takeOp n.val k.val).rldAccess line e
        match o.op with
        | .load a size sx rd =>
          if s.rldBad a then s.retExc n.val o .poison else s.retReg n.val o rd (State.loaded sx (s.rldRead a size))
        | .store a size v => s.rldWrite a (toBytesLE size v.toNat)
        | .atomic fn a v c rd =>
          let old := State.loaded false (s.rldRead a 8)
          if s.rldBad a then s.retExc n.val o .poison
          else
            let new := if fn = 0 then some (old + v) else if fn = 1 then some v else if old = c then some v else none
            let s := match new with | some w => s.rldWrite a (toBytesLE 8 w.toNat) | none => s
            s.retReg n.val o rd old
        | _ => s

end Sys2Proof.Machine
end

