-- ==== Sys2Proof/Machine/IsaQueue.lean ====
section
/-!
DEFINITION. Engine instructions, third part: the engine queue, DMA placing, completions, buffers, table commands, raw cipher
operations (R418–R422, R449), and the returns of buffer and DMA operations.
-/

namespace Sys2Proof.Machine

/-- A list of bytes as a sparse map from offset 0, up to `n` of them. -/
def bytesMap (n : Nat) (bs : List Byte) : SMap Byte :=
  ((List.range n).zip bs).foldl (fun m e => SMap.put 0 m e.1 e.2) []

namespace State

/-- The window after TAKE of a packet (R417); the frame is stored with its FCS (R267), but a truncated one has none (R304). -/
def winPacket (x : Thread) (f : Pkt) : Thread :=
  let item := 1 + 2 ^ 4 * f.cause + 2 ^ 8 * f.mac + 2 ^ 12 * b2n f.trunc + 2 ^ 13 * b2n f.decrypted +
    2 ^ 16 * f.len + 2 ^ 32 * f.hash.toNat
  { x with head := bytesMap 512 (f.bytes ++ f.fcs), hvec := bytesMap 256 f.hvec
           win := { x.win with item := BitVec.ofNat 64 item, ref := BitVec.ofNat 64 (f.head.getD 0), time := f.time,
                               parse := f.parse, mark := f.mark.setWidth 64 } }

/-- The window after TAKE of an entry (R417). -/
def winEntry (x : Thread) (q : Nat) (e : Entry) (span : Nat) (time : Word) : Thread :=
  let bs := (e.cells.map Entry.cellBytes).flatten
  { x with head := bytesMap 512 bs, hvec := []
           win := { x.win with item := BitVec.ofNat 64 (2 + 2 ^ 4 * 7 + 2 ^ 16 * bs.length),
                               ref := BitVec.ofNat 64 (q + 2 ^ 16 * e.cell.toNat + 2 ^ 32 * span), time := time,
                               parse := 0, mark := 0 } }

end State

namespace State

/-- The oldest item that TAKE may take from the engine queue of Truss k: none while 1,024 entries are held and the item is one. -/
def eqHead (s : State) (k : Nat) : Option EqItem :=
  match s.eq k with
  | .entry q e sp tm :: _ => if 1024 ≤ (s.held.filter fun h => h.truss == k).length then none else some (.entry q e sp tm)
  | l => l.head?

/-- An uncorrected error in the engine-queue place of an item discards it (R406): an entry is completed with INTERNAL, a packet's
buffers stay owned by the Pipeline; the Truss counts, captures and records the error. -/
def eqLost (s : State) (n : Nat) (i : EqItem) : State :=
  let s := (s.setEq (n / 64) (s.eq (n / 64)).tail).storeUe (n / 64) (n % 64) 2 0x04
  match i with
  | .packet _ => s
  | .entry q e _ _ => (s.withBegun q.val e.cell fun b => { b with causes := [14], handed := false }).noteDue q.val e.cell

/-- TAKE of the item at the head of the engine queue, or NONE. -/
def takeItem (s : State) (n : Nat) (rd : RegNo) : Done :=
  let k := n / 64
  let y := { s.thr n with claims := (s.thr n).claims &&& ~~~(4 : BitVec 11) }
  match s.eqHead k with
  | none => (s.setThr n { y with win := { y.win with item := setBits y.win.item 0 2 0 } }).put n rd noneVal
  | some (.packet f) =>
    let s := (s.setEq k (s.eq k).tail).setThr n (State.winPacket y f)
    let s := match f.head with
      | some h => s.setRec h { s.bufRec h with owner := State.ownerThread n }
      | none => s
    s.put n rd 1
  | some (.entry q e span time) =>
    let s := (s.setEq k (s.eq k).tail).setThr n (State.winEntry y q.val e span time)
    { s with held := s.held ++ [HeldEntry.mk k n q e.cell] }.put n rd 2

end State

/-- TAKE (R387, R388, R392, R406, R420): the oldest engine-queue item, whose place `x.word` reads; an item whose place has an
uncorrected error is discarded and the next one taken (log entry 118). -/
def execTake (x : Slot) (rd : RegNo) (s : State) : Out3 :=
  .next (s.issue x mRd [] false fun t n _ =>
    match t.eqHead (n / 64), x.word with
    | some i, .uncorrected => (t.eqLost n i).takeItem n rd
    | some _, .corrected => (t.storeCe (n / 64)).takeItem n rd
    | _, _ => t.takeItem n rd)

/-! ### DMA placing (R449) -/

/-- DMA (R414, R449): the 32-byte descriptor at scratchpad address rt goes to channel rs. -/
def execDma (x : Slot) (rd rs rt : RegNo) (s : State) : Out3 :=
  .next (s.issue x (mRd ||| mRs ||| mRt) [rs, rt] true fun t n pc =>
    let ch := (t.g n rs).toNat
    if h : ch < 64 then
      if t.chTruss (n / 192) ch ≠ some (n / 64) then .exc .arg t
      else match t.spmCheck n (t.g n rt) 32 false with
        | .error d => d
        | .ok o =>
          match t.spmFetch n o 32 x.word with
          | .error d => d
          | .ok (t, bs) => t.startOp n pc (.dma ⟨ch, h⟩ (State.descOf bs) rd)
    else .exc .arg t)

/-- DMA_PLACE_RESULT (R449): the descriptor is placed at TAIL, or rd is 1. -/
def execDmaPlaceResult (n : ThreadId) (k : Fin 64) (s : State) : Out3 := .next <|
  match (s.thr n.val).ops[k.val]? with
  | some o =>
    match o.op with
    | .dma ch d rd =>
      let p := n.val / 192
      let s := s.takeOp n.val k.val
      let c := s.dmaC p ch.val
      if c.state ≠ 1 ∨ (c.tail - c.head).toNat = s.chRingSize p ch.val then s.retReg n.val o rd 1
      else
        let d := descSet (descSet d 0 1 1) 36 6 (n.val % 64)
        let s := s.rldWrite (s.chSlot p ch.val c.tail) (toBytesLE 32 d.toNat)
        (s.setDmaC p ch.val { s.dmaC p ch.val with tail := c.tail + 1 }).retReg n.val o rd 0
    | _ => s
  | none => s

/-! ### CPL (R418) -/

/-- CPL: completes an ENGINE entry that the Truss holds with the image at scratchpad address rt. -/
def execCpl (x : Slot) (rs rt : RegNo) (s : State) : Out3 :=
  .next (s.issue x (mRs ||| mRt) [rs, rt] false fun t n _ =>
    let w := t.g n rs
    let cell : BitVec 16 := BitVec.ofNat 16 (getBits w 16 16)
    match t.held.find? fun h => h.truss == n / 64 && h.queue.val == getBits w 0 16 && h.cell == cell with
    | none => .exc .notBound t
    | some h =>
      match t.spmCheck n (t.g n rt) 32 false with
      | .error d => d
      | .ok o =>
        match t.spmFetch n o 32 x.word with
        | .error d => d
        | .ok (t, bs) =>
          let c0 : Cell16 := BitVec.ofNat 128 (fromBytesLE (bs.take 16))
          let c1 : Cell16 := BitVec.ofNat 128 (fromBytesLE (bs.drop 16))
          let c : Cpl := { bytes := cellBits c0 64 32, info := BitVec.ofNat 32 (cellBits c0 96 32)
                           time := c1.setWidth 64, hash := BitVec.ofNat 32 (cellBits c1 64 32)
                           mark := BitVec.ofNat 32 (cellBits c1 96 32) }
          let t := { t with held := t.held.erase h }
          let t := t.withBegun h.queue.val h.cell fun b =>
            { b with given := some (cellBits c0 16 8), result := some c, handed := false }
          match (t.queue h.queue.val).begun.find? fun b => b.entry.cell == h.cell with
          | some b => .ok (t.finishEntry h.queue.val b)
          | none => .ok t)

/-! ### Buffers (R265, R420, R546) -/

/-- ALLOC: granted at once, NONE if TIMER is already pending, or an implicit wait. -/
def execAlloc (x : Slot) (rd rs rt : RegNo) (s : State) : Out3 :=
  .next (s.issue x (mRd ||| mRs ||| mRt) [rs, rt] false fun t n _ =>
    let w := t.g n rt
    let a := getBits w 0 13
    let len := clampN 1 16384 (t.g n rs).toNat
    let owner := if bitOf w 16 then State.ownerSpan (getBits w 32 12) else State.ownerThread n
    if w &&& ~~~(0xFFF00011FFF : Word) ≠ 0 ∨ t.accounts ≤ a then .exc .arg t
    else match t.acctPool a with
      | none => .exc .arg t
      | some pool =>
        let k := State.bufsFor len
        if t.chargeTurn ⟨.thread n, pool, a, k, owner⟩ = .granted then
          let (h, t) := t.grantBufs pool a k none owner
          t.put n rd (BitVec.ofNat 64 h)
        else if t.timerPending n then t.put n rd noneVal
        else
          .ok ((t.setThr n { t.thr n with state := .waiting, implicit := some (.alloc len a owner rd) }).waitBufs
            ⟨.thread n, pool, a, k, owner⟩))

/-- A buffer operation starts; it takes effect when it returns. -/
def State.bufStart (s : State) (x : Slot) (rd rs : RegNo) (fn : Fin 4) : State :=
  s.issue x (mRd ||| mRs ||| mFn) [rs] true fun t n pc => t.startOp n pc (.buf fn (t.g n rs).toNat 0 rd)

/-- BUF FREE. -/
def execBufFree (x : Slot) (rd rs : RegNo) (s : State) : Out3 := .next (s.bufStart x rd rs 0)
/-- BUF DROP. -/
def execBufDrop (x : Slot) (rd rs : RegNo) (s : State) : Out3 := .next (s.bufStart x rd rs 1)
/-- BUF GIVE: a kind other than Span, Thread, Management Function or Pipeline raises ARG. -/
def execBufGive (x : Slot) (rd rs rt : RegNo) (s : State) : Out3 :=
  .next (s.issue x (mRd ||| mRs ||| mRt ||| mFn) [rs, rt] true fun t n pc =>
    let o : BitVec 16 := (t.g n rt).setWidth 16
    if ([1, 2, 3, 6] : List Nat).contains (State.ownerKind o) then t.startOp n pc (.buf 2 (t.g n rs).toNat o rd) else .exc .arg t)
/-- BUF SHARE. -/
def execBufShare (x : Slot) (rd rs : RegNo) (s : State) : Out3 := .next (s.bufStart x rd rs 3)

/-- BUF_RESULT_RETURN (R268, R269, R420): the BPM performs the operation and its result returns. -/
def execBufResultReturn (n : ThreadId) (k : Fin 64) (s : State) : Out3 := .next <|
  match (s.thr n.val).ops[k.val]? with
  | some o =>
    match o.op with
    | .buf fn h new rd =>
      let op : BufOp := if fn = 0 then .free else if fn = 1 then .drop else if fn = 2 then .give else .share
      let (code, s) := (s.takeOp n.val k.val).bufOp op (State.ownerThread n.val) h new
      s.retReg n.val o rd (BitVec.ofNat 64 code)
    | _ => s
  | none => s

/-! ### Table commands and raw cipher operations: issue (R369, R370, R419, R422) -/

/-- TBL (R419): the command runs at the table engine when it returns; the buffer is aligned to 64 bytes. -/
def execTbl (x : Slot) (rd rs rt : RegNo) (s : State) : Out3 :=
  .next (s.issue x (mRd ||| mRs ||| mRt) [rs, rt] true fun t n pc =>
    match t.spmCheck n (t.g n rt) 64 true with
    | .error d => d
    | .ok o => t.startOp n pc (.tbl (t.g n rs) o rd))

/-- AES in one direction; an odd register of a pair is ILLEGAL (R412). The other direction's rt[16] makes it the other command, so
nothing happens. -/
def State.aesStart (s : State) (x : Slot) (rd rs rt : RegNo) (decrypt : Bool) : State :=
  if bitOf (s.g x.thr.val rt) 16 ≠ decrypt then s
  else
    s.issue x (mRd ||| mRs ||| mRt) [rs, rs + 1, rt] true fun t n pc =>
      if rd.getLsbD 0 || rs.getLsbD 0 then .exc .illegal t
      else t.startOp n pc (.aes ((t.g n rt).setWidth 16) decrypt (t.g n (rs + 1)) (t.g n rs) rd)

/-- AES, encrypting. -/
def execAesEnc (x : Slot) (rd rs rt : RegNo) (s : State) : Out3 := .next (s.aesStart x rd rs rt false)
/-- AES, decrypting. -/
def execAesDec (x : Slot) (rd rs rt : RegNo) (s : State) : Out3 := .next (s.aesStart x rd rs rt true)

/-- KEYLD of kind `kind` in rs[17:16] (R422); the other kind is the other command, and any further value raises ARG. -/
def State.keyldStart (s : State) (x : Slot) (rd rs rt : RegNo) (kind : Nat) : State :=
  if getBits (s.g x.thr.val rs) 16 2 = 3 - kind then s
  else
    s.issue x (mRd ||| mRs ||| mRt) [rs, rt] true fun t n pc =>
      let w := t.g n rs
      if getBits w 16 2 ≠ kind then .exc .arg t
      else match t.spmCheck n (t.g n rt) 32 false with
        | .error d => d
        | .ok o =>
          match t.spmFetch n o 32 x.word with
          | .error d => d
          | .ok (t, bs) => t.startOp n pc (.keyld (kind == 1) (w.setWidth 16) (bitOf w 18) bs rd)

/-- KEYLD INSTALL. -/
def execKeyldInstall (x : Slot) (rd rs rt : RegNo) (s : State) : Out3 := .next (s.keyldStart x rd rs rt 1)
/-- KEYLD DELETE. -/
def execKeyldDelete (x : Slot) (rd rs rt : RegNo) (s : State) : Out3 := .next (s.keyldStart x rd rs rt 2)

end Sys2Proof.Machine
end

