-- ==== Sys2Proof/Machine/Parse.lean ====
section
/-!
DEFINITION. Reading headers: the port distributors' pre-parser and symmetric hash (R187–R190), the parser graph (R192–R197),
and the checksums of IPv4, TCP and UDP headers.
-/

namespace Sys2Proof.Machine

/-! ### The pre-parser (R188) -/

/-- An IPv4 or IPv6 header that the pre-parser reached: its level, family, offset, addresses, the final protocol and the
offset after it, whether the packet is a fragment, and the key of the tunnel crossed last. -/
structure L3 where
  level : Nat
  v6 : Bool
  off : Nat
  src : Nat
  dst : Nat
  proto : Nat
  next : Nat
  frag : Bool
  tkey : Nat
  deriving DecidableEq, Repr

/-- What the pre-parser goes on to read. -/
inductive Nxt where
  | v4 (off : Nat)
  | v6 (off : Nat)
  | stop
  deriving DecidableEq, Repr

/-- The pre-parser reads no header that ends beyond byte 512 or the frame's end. -/
def preLimit (bs : List Byte) : Nat := min 512 bs.length

/-- After an MPLS label stack: at most 6 labels, then IPv4 or IPv6 by the first nibble. -/
def mplsNext (bs : List Byte) : Nat → Nat → Nxt
  | 0, _ => .stop
  | fuel + 1, off =>
    if preLimit bs < off + 4 then .stop
    else if (bs.getD (off + 2) 0).getLsbD 0 then
      match (bs.getD (off + 4) 0).toNat / 16 with
      | 4 => .v4 (off + 4)
      | 6 => .v6 (off + 4)
      | _ => .stop
    else mplsNext bs fuel (off + 4)

/-- A TPID of the two that mark a tag. -/
def isTpid (t : Nat) : Bool := t == 0x8100 || t == 0x88A8

/-- The EtherType at `off`, with up to `fuel` tags before it. -/
def typeNext (bs : List Byte) : Nat → Nat → Nxt
  | fuel, off =>
    if preLimit bs < off + 2 then .stop
    else
      let t := beAt bs off 2
      if t = 0x0800 then .v4 (off + 2)
      else if t = 0x86DD then .v6 (off + 2)
      else if t = 0x8847 ∨ t = 0x8848 then mplsNext bs 6 (off + 2)
      else match fuel with
        | 0 => .stop
        | k + 1 => if isTpid t then typeNext bs k (off + 4) else .stop

/-- An Ethernet header at `off`, with up to two tags. -/
def ethNext (bs : List Byte) (off : Nat) : Nxt := typeNext bs 2 (off + 12)

/-- An IPv4 header at `off`. -/
def preV4 (bs : List Byte) (level tkey off : Nat) : Option L3 :=
  let ihl := (bs.getD off 0).toNat % 16
  if ihl < 5 ∨ preLimit bs < off + 4 * ihl then none
  else some { level := level, v6 := false, off := off, src := 0xFFFF00000000 + beAt bs (off + 12) 4,
              dst := 0xFFFF00000000 + beAt bs (off + 16) 4, proto := (bs.getD (off + 9) 0).toNat, next := off + 4 * ihl,
              frag := decide (beAt bs (off + 6) 2 % 0x4000 ≠ 0), tkey := tkey }

/-- IPv6 extension headers from `off`, at most `fuel`: the final next header, where it starts, and whether one is a Fragment. -/
def extNext (bs : List Byte) : Nat → Nat → Nat → Nat × Nat × Bool
  | 0, nh, off => (nh, off, false)
  | fuel + 1, nh, off =>
    if nh = 0 ∨ nh = 43 ∨ nh = 60 then
      let n := 8 * ((bs.getD (off + 1) 0).toNat + 1)
      if preLimit bs < off + n then (nh, off, false) else extNext bs fuel (bs.getD off 0).toNat (off + n)
    else if nh = 44 then
      if preLimit bs < off + 8 then (nh, off, false) else ((bs.getD off 0).toNat, off + 8, true)
    else (nh, off, false)

/-- An IPv6 header at `off`, with up to two extension headers; reading stops at a Fragment header. -/
def preV6 (bs : List Byte) (level tkey off : Nat) : Option L3 :=
  if preLimit bs < off + 40 then none
  else
    let (nh, at_, frag) := extNext bs 2 (bs.getD (off + 6) 0).toNat (off + 40)
    some { level := level, v6 := true, off := off, src := beAt bs (off + 8) 16, dst := beAt bs (off + 24) 16, proto := nh,
           next := at_, frag := frag, tkey := tkey }

/-- The header that a tunnel of protocol type `t` opens at `off`. -/
def tunnelNext (bs : List Byte) (t off : Nat) : Nxt :=
  if t = 0x6558 then ethNext bs off else if t = 0x0800 then .v4 off else if t = 0x86DD then .v6 off else .stop

/-- The tunnel header after an IP header, if there is one: its key, and what it opens. GRE's checksum and sequence words are skipped, and
a header with the routing bit is not recognised (R188, log 131). -/
def tunnelOf (bs : List Byte) (x : L3) : Option (Nat × Nxt) :=
  let o := x.next
  if x.frag then none
  else if x.proto = 17 then
    if preLimit bs < o + 16 then none
    else if beAt bs (o + 2) 2 = 4789 then some (beAt bs (o + 12) 3, ethNext bs (o + 16))
    else if beAt bs (o + 2) 2 = 6081 then
      let n := 8 + 4 * ((bs.getD (o + 8) 0).toNat % 64)
      if preLimit bs < o + 8 + n then none else some (beAt bs (o + 12) 3, tunnelNext bs (beAt bs (o + 10) 2) (o + 8 + n))
    else none
  else if x.proto = 47 then
    let b := bs.getD o 0
    let c := 4 * b2n (b.getLsbD 7)
    let k := 4 * b2n (b.getLsbD 5)
    let n := 4 + c + k + 4 * b2n (b.getLsbD 4)
    if preLimit bs < o + n || b.getLsbD 6 then none
    else some (if k = 0 then 0 else beAt bs (o + 4 + c) 4, tunnelNext bs (beAt bs (o + 2) 2) (o + n))
  else none

/-- Every IP header that the pre-parser reaches, outermost first, no deeper than level 3. -/
def preWalk (bs : List Byte) : Nat → Nat → Nat → Nxt → List L3
  | 0, _, _, _ => []
  | fuel + 1, level, tkey, nx =>
    let h := match nx with
      | .v4 o => preV4 bs level tkey o
      | .v6 o => preV6 bs level tkey o
      | .stop => none
    match h with
    | none => []
    | some x =>
      match tunnelOf bs x with
      | none => [x]
      | some (key, n) => x :: preWalk bs fuel (level + 1) key n

def preParse (bs : List Byte) : List L3 := preWalk bs 4 0 0 (ethNext bs 0)

/-- The outermost IP header, if the frame starts with one after Ethernet. -/
def outerL3 (bs : List Byte) : Option L3 := (preParse bs).head?

/-- Source and destination port (R189): 0 for a fragment, for another protocol, and where the header does not fit. -/
def l4Ports (bs : List Byte) (x : L3) : Nat × Nat :=
  let n := if x.proto = 6 then 20 else if x.proto = 17 then 8 else if x.proto = 132 then 12 else 0
  if x.frag || n == 0 || decide (preLimit bs < x.next + n) then (0, 0) else (beAt bs x.next 2, beAt bs (x.next + 2) 2)

/-- The tuple of R187 and R189 with the fields selected, and whether the frame's source is the HI endpoint (R225). -/
def hashTuple (bs : List Byte) (level : Nat) (fAddr fPorts fProto fTkey : Bool) : List Byte × Bool :=
  let pick := ((preParse bs).filter fun x => x.level ≤ level).getLast?
  let (sa, da, sp, dp, proto, kind, tkey) := match pick with
    | some x =>
      let (a, b) := l4Ports bs x
      (x.src, x.dst, a, b, x.proto, if x.v6 then 2 else 1, x.tkey)
    | none => (beAt bs 6 6, beAt bs 0 6, 0, 0, 0, 0, 0)
  let hi := decide (da * 65536 + dp < sa * 65536 + sp)
  let (la, lp, ha, hp) := if hi then (da, dp, sa, sp) else (sa, sp, da, dp)
  let z (c : Bool) (v : Nat) : Nat := if c then v else 0
  (toBytesBE 16 (z fAddr la) ++ toBytesBE 2 (z fPorts lp) ++ toBytesBE 16 (z fAddr ha) ++ toBytesBE 2 (z fPorts hp) ++
    [BitVec.ofNat 8 (z fProto proto), BitVec.ofNat 8 kind, 0, 0] ++ toBytesBE 4 (z fTkey tkey), hi)

/-- The FLOW key of a tuple (R221): bytes 0–37, then 40–43. -/
def flowKey (tuple : List Byte) : List Byte := tuple.take 38 ++ tuple.drop 40

/-- Hashes a frame under the settings in effect (R187–R190). -/
def State.hashed (s : State) (f : Pkt) : Pkt :=
  let (t, hi) := hashTuple f.bytes (s.fld F.MAC_DIST_HASH_CFG_LEVEL 0) (s.flag F.MAC_DIST_HASH_CFG_F_ADDR 0)
    (s.flag F.MAC_DIST_HASH_CFG_F_PORTS 0) (s.flag F.MAC_DIST_HASH_CFG_F_PROTO 0) (s.flag F.MAC_DIST_HASH_CFG_F_TKEY 0)
  { f with tuple := t, srcHi := hi, hash := crc32c (BitVec.ofNat 32 (s.fld F.MAC_DIST_HASH_CFG_SEED 0)) t }

/-- The Pier of a hash (R190). -/
def State.pierFor (s : State) (h : BitVec 32) : Nat :=
  let i := h.toNat % 64
  s.fld (F.MAC_DIST_PIER_MAP_PIER (i % 32)) (i / 32)

/-! ### The parser graph (R194–R197) -/

/-- A header field of the header at byte `pos`. -/
def hdrBits (bs : List Byte) (pos : Nat) (f : HdrField) : Nat :=
  let n := (f.bit + f.width + 7) / 8
  beAt bs (pos + f.off) n / 2 ^ (8 * n - f.bit - f.width) % 2 ^ f.width

/-- Copies the fields of a header at `pos` into the header vector, each right-aligned in whole bytes, most significant first. -/
def copyFields (bs : List Byte) (pos : Nat) : Parse → List (HdrField × Nat) → Parse
  | r, [] => r
  | r, (f, d) :: t =>
    let k := (f.width + 7) / 8
    let m := (toBytesBE k (hdrBits bs pos f)).zipIdx.foldl (fun m e => if d + e.2 < 256 then SMap.put 0 m (d + e.2) e.1 else m) r.hvec
    copyFields bs pos { r with hvec := m, copied := r.copied ++ [(8 * (pos + f.off) + f.bit, f.width, d)] } t

/-- FRAG and whether parsing ends at the node (R197). -/
def fragAt (bs : List Byte) (pos : Nat) : FragRule → Bool × Bool
  | .none => (false, false)
  | .v4 =>
    let w := beAt bs (pos + 6) 2
    (decide (w % 0x4000 ≠ 0), decide (w % 0x2000 ≠ 0))
  | .v6 => (true, decide (beAt bs (pos + 2) 2 / 8 ≠ 0))

/-- One node after the other, with the checks of R194 in order. `enclose` is the enclosing end, `frameEnd` says it is still the
frame's own; a TRUNC frame skips the comparison with it in check 3 (R195). A field that lies beyond the frame's end reads 0 there (log 132). -/
def parseFrom (g : List ParseNode) (bs : List Byte) (trunc : Bool) : Nat → Nat → Nat → Nat → Bool → Parse → Parse
  | 0, _, _, _, _, r => r
  | fuel + 1, k, pos, enclose, frameEnd, r =>
    match g[k]? with
    | none => r
    | some nd =>
      let n := match nd.len with | some l => hdrBits bs pos l.field * l.scale + l.addend | none => nd.fixed
      let short := match nd.len with | some l => if n < l.least then some l.field.off else none | none => none
      let stop (cause off : Nat) : Parse := { r with cause := cause, node := k, offset := off }
      match short with
      | some o => stop 2 (pos + o)
      | none =>
        if enclose < pos + n then stop 2 pos
        else
          let declared := nd.check.map fun c => (c.field.off, pos + hdrBits bs pos c.field + c.addend)
          let beyond := match declared with
            | some (o, e) => if enclose < e && !(trunc && frameEnd) then some o else none
            | none => none
          match beyond with
          | some o => stop 2 (pos + o)
          | none =>
            if 512 < pos + n then stop 1 pos
            else if 16 ≤ r.headers || (nd.tunnel && decide (3 ≤ r.level)) then stop 1 pos
            else
              let (frag, last) := fragAt bs pos nd.frag
              let r := copyFields bs pos r nd.copies
              let r := { r with headers := r.headers + 1, frag := r.frag || frag,
                                level := if nd.tunnel then r.level + 1 else r.level
                                levels := if nd.tunnel then r.levels ++ [pos + n] else r.levels }
              let (e, fe) := match declared with | some (_, e) => (e, false) | none => (enclose, frameEnd)
              if last then r
              else
                let dst := match nd.sel with
                  | none => nd.dflt
                  | some f =>
                    match nd.next.find? fun x => x.1 == hdrBits bs pos f with
                    | some x => some x.2
                    | none => nd.dflt
                match dst with
                | none => r
                | some j => parseFrom g bs trunc fuel j (pos + n) e fe r

/-- Parses a frame with a graph, from its first node. -/
def parseFrame (g : List ParseNode) (f : Pkt) : Parse :=
  parseFrom g f.bytes f.trunc 18 0 0 f.bytes.length true {}

/-- The PARSE word of the packet window (R417). -/
def Parse.word (r : Parse) : Word :=
  BitVec.ofNat 64 (r.cause + 4 * b2n r.frag + 2 ^ 8 * r.node + 2 ^ 16 * r.offset + 2 ^ 26 * r.level + 2 ^ 28 * r.headers)

/-- Bytes of the header vector, as a number. -/
def Parse.hv (r : Parse) (off n : Nat) : Nat := (List.range n).foldl (fun a i => a * 256 + (SMap.get 0 r.hvec (off + i)).toNat) 0

/-- The deparser: writes every extracted field back to its place in the frame. -/
def deparse (r : Parse) (bs : List Byte) : List Byte :=
  r.copied.foldl (fun bs c =>
    let (bit, width, d) := c
    let v := r.hv d ((width + 7) / 8) % 2 ^ width
    let first := bit / 8
    let n := (bit % 8 + width + 7) / 8
    let sh := 8 * n - bit % 8 - width
    let old := beAt bs first n
    let new := old - (old / 2 ^ sh % 2 ^ width) * 2 ^ sh + v * 2 ^ sh
    overlay bs first (toBytesBE n new)) bs

/-! ### Checksums -/

/-- The ones' complement sum of the 16-bit words of a byte string, folded. -/
def onesSum (bs : List Byte) : Nat :=
  let total := (bs.zipIdx.map fun e => if e.2 % 2 = 0 then e.1.toNat * 256 else e.1.toNat).sum
  let a := total % 65536 + total / 65536
  let a := a % 65536 + a / 65536
  a % 65536 + a / 65536

/-- The bytes of an IPv4 header. -/
def ip4Header (bs : List Byte) (x : L3) : List Byte := (bs.drop x.off).take (x.next - x.off)

/-- Recomputes the IPv4 header checksum of a header at `off` of `n` bytes. -/
def ip4Fix (bs : List Byte) (off n : Nat) : List Byte :=
  let bs := overlay bs (off + 10) [0, 0]
  overlay bs (off + 10) (toBytesBE 2 (0xFFFF - onesSum ((bs.drop off).take n)))

/-- The end of the datagram of an IP header, by its length field. -/
def l3End (bs : List Byte) (x : L3) : Nat :=
  if x.v6 then x.off + 40 + beAt bs (x.off + 4) 2 else x.off + beAt bs (x.off + 2) 2

/-- The ones' complement sum of the pseudo-header and the transport segment. -/
def l4Sum (bs : List Byte) (x : L3) : Nat :=
  let seg := (bs.drop x.next).take (l3End bs x - x.next)
  let k := if x.v6 then 16 else 4
  onesSum (toBytesBE k (x.src % 2 ^ (8 * k)) ++ toBytesBE k (x.dst % 2 ^ (8 * k)) ++ toBytesBE 4 seg.length ++
    toBytesBE 4 x.proto ++ seg)

/-- Where the checksum of a TCP or UDP header stands. -/
def l4SumAt (x : L3) : Option Nat :=
  if x.frag then none else if x.proto = 6 then some (x.next + 16) else if x.proto = 17 then some (x.next + 6) else none

/-- The outermost L3 and L4 checksums of a received frame are correct (R159). -/
def csumOk (bs : List Byte) : Bool × Bool :=
  match outerL3 bs with
  | none => (false, false)
  | some x =>
    (!x.v6 && decide (onesSum (ip4Header bs x) = 0xFFFF),
     match l4SumAt x with
     | none => false
     | some _ => decide (l3End bs x ≤ bs.length) && decide (l4Sum bs x = 0xFFFF))

/-- Inserts the IPv4 header checksum and the TCP or UDP checksum of the outermost headers (R156). -/
def csumInsert (bs : List Byte) : List Byte :=
  match outerL3 bs with
  | none => bs
  | some x =>
    let bs := if x.v6 then bs else ip4Fix bs x.off (x.next - x.off)
    match l4SumAt x with
    | none => bs
    | some o =>
      let bs := overlay bs o [0, 0]
      let c := 0xFFFF - l4Sum bs x
      overlay bs o (toBytesBE 2 (if c = 0 ∧ x.proto = 17 then 0xFFFF else c))

end Sys2Proof.Machine
end

