-- ==== Sys2Proof/Machine/Tables.lean ====
section
/-!
DEFINITION. Forwarding tables (chapter 07): schemas, entry layouts, two-choice and bucket placement, longest-prefix routes,
locks, the flow cache, the table event ring, and the operations of R237 as one function for the command ring and for TBL.
-/

namespace Sys2Proof.Machine

namespace State

/-! ### Schemas and keys -/

/-- Key of entry `i` of table `t` of Pier `p`; of the table itself. -/
def tkey (p t i : Nat) : Nat := i + 2 ^ 32 * (t + 16 * p)
def tabKey (p t : Nat) : Nat := t + 16 * p

/-- KIND, entries and CRC seeds of a table (R219, R224). -/
def tblKind (s : State) (p t : Nat) : Nat := if t < 15 then s.fld F.TBL_SCHEMA_KIND (15 * p + t) else 0
def tblLog2 (s : State) (p t : Nat) : Nat := s.fld F.TBL_SCHEMA_LOG2_SIZE (15 * p + t)
def tblSize (s : State) (p t : Nat) : Nat := 2 ^ s.tblLog2 p t

def schema (s : State) (p t : Nat) : TblSchema := (s.pierImg p).tables.getD t { kind := 0, log2 := 0 }

/-- Slots A and B of a key (R224). -/
def slotA (s : State) (p t : Nat) (key : List Byte) : Nat := (crc32c (s.schema p t).seed1 key).toNat % s.tblSize p t
def slotB (s : State) (p t : Nat) (key : List Byte) : Nat := (crc32c (s.schema p t).seed2 key).toNat % s.tblSize p t

/-- Key bytes of an L2 entry: bytes 0–7 of its layout (R222). -/
def l2Key (mac : BitVec 48) (fid : BitVec 16) : List Byte := toBytesLE 6 mac.toNat ++ toBytesLE 2 fid.toNat

/-- Counters in the counter region (R234), and a COUNTER index as R223 stores it. -/
def counterTotal (s : State) : Nat := match s.slots.active with | some i => i.part.counters.2 * 0x200000 | none => 0
def counterIdx (s : State) (c : Nat) : Nat := let c := c - c % 2; if c < s.counterTotal then c else s.counterTotal - 2

/-- ENCAP templates of a Pier. -/
def templates (s : State) (p : Nat) : Nat :=
  ((List.range 15).map fun t => if s.tblKind p t = 5 then s.tblSize p t else 0).sum
def encapIdx (s : State) (p i : Nat) : Nat := if i < s.templates p then i else 0

/-- Adds `packets` and `bytes` to counter pair `c` (R234). -/
def countPair (s : State) (c packets bytes : Nat) : State :=
  if s.counterTotal = 0 then s
  else
    let c := s.counterIdx c
    let m := SMap.put 0 s.counters c (SMap.get 0 s.counters c + BitVec.ofNat 64 packets)
    { s with counters := SMap.put 0 m (c + 1) (SMap.get 0 m (c + 1) + BitVec.ofNat 64 bytes) }

/-! ### Locks (R235) -/

def lockOf (s : State) (k : Nat) : BitVec 16 := SMap.get 0 s.locks k
def setLock (s : State) (k : Nat) (o : BitVec 16) : State := { s with locks := SMap.put 0 s.locks k o }

/-! ### Entries as bytes (R221, R222, R232, R238) -/

def flowAt (s : State) (p t i : Nat) : FlowEnt := SMap.get {} s.flows (tkey p t i)
def setFlow (s : State) (p t i : Nat) (e : FlowEnt) : State := { s with flows := SMap.put {} s.flows (tkey p t i) e }
def l2At (s : State) (p t i : Nat) : L2Ent := SMap.get {} s.l2 (tkey p t i)
def setL2 (s : State) (p t i : Nat) (e : L2Ent) : State := { s with l2 := SMap.put {} s.l2 (tkey p t i) e }
def encapAt (s : State) (p t i : Nat) : EncapT := SMap.get {} s.encaps (tkey p t i)

/-- The flag byte of a FLOW entry, and of an L2 entry. -/
def flagByte (valid lock hit aged static learned : Bool) : Byte :=
  BitVec.ofNat 8 (b2n valid + 2 * b2n lock + 4 * b2n hit + 8 * b2n aged + 16 * b2n static + 32 * b2n learned)

def flowBytes (e : FlowEnt) (owner : BitVec 16) : List Byte :=
  overlay (List.replicate 42 0) 0 e.key ++
    [flagByte e.valid (owner != 0) e.hit e.aged e.static e.learned, BitVec.ofNat 8 e.spill] ++
    toBytesLE 2 owner.toNat ++ toBytesLE 2 e.actionId.toNat ++ toBytesLE 4 e.counter ++ toBytesLE 4 e.encap ++ toBytesLE 8 e.data.toNat

/-- The fields of a FLOW entry that a host buffer sets (R221, R223); the device's fields come from `old`. -/
def flowOf (s : State) (p : Nat) (old : FlowEnt) (bs : List Byte) : FlowEnt :=
  let at_ (o n : Nat) : Nat := fromBytesLE ((bs.drop o).take n)
  let fl := bs.getD 0x2A 0
  { old with key := overlay (List.replicate 42 0) 0 (bs.take 42), valid := fl.getLsbD 0, static := fl.getLsbD 4,
             actionId := BitVec.ofNat 16 (at_ 0x2E 2), counter := s.counterIdx (at_ 0x30 3),
             encap := s.encapIdx p (at_ 0x34 2 % 4096), data := BitVec.ofNat 64 (at_ 0x38 8) }

def l2Bytes (e : L2Ent) (owner : BitVec 16) : List Byte :=
  let flags := (flagByte e.valid (owner != 0) e.hit e.aged e.static e.learned).toNat
  toBytesLE 16 (e.mac.toNat + 2 ^ 48 * e.fid.toNat + 2 ^ 64 * flags + 2 ^ 72 * owner.toNat + 2 ^ 88 * e.destKind +
    2 ^ 92 * e.dest.toNat + 2 ^ 108 * e.encap + 2 ^ 124 * e.spill)

def l2Of (s : State) (p : Nat) (old : L2Ent) (bs : List Byte) : L2Ent :=
  let v := fromBytesLE (bs.take 16)
  let f (lo n : Nat) : Nat := v / 2 ^ lo % 2 ^ n
  let dk := if f 88 4 ≤ 3 then f 88 4 else 0
  { old with mac := BitVec.ofNat 48 v, fid := BitVec.ofNat 16 (f 48 16), valid := f 64 1 == 1, static := f 68 1 == 1,
             destKind := dk, dest := BitVec.ofNat 16 (f 92 16), encap := s.encapIdx p (f 108 12) }

def encapBytes (e : EncapT) : List Byte :=
  overlay (List.replicate 128 0) 0 ([BitVec.ofNat 8 e.header.length, BitVec.ofNat 8 e.type, BitVec.ofNat 8 e.l3, BitVec.ofNat 8 e.l4,
    BitVec.ofNat 8 (b2n e.ipv6 + 2 * b2n e.udpCsum)] ++ List.replicate 11 0 ++ e.header)

/-- A template from 128 bytes (R223, R232): LEN clamped to 14 to 112, a reserved TYPE stored as 0. -/
def encapOf (bs : List Byte) : EncapT :=
  let n := clampN 14 112 (bs.getD 0 0).toNat
  { type := if (bs.getD 1 0).toNat ≤ 4 then (bs.getD 1 0).toNat else 0, l3 := (bs.getD 2 0).toNat, l4 := (bs.getD 3 0).toNat,
    ipv6 := (bs.getD 4 0).getLsbD 0, udpCsum := (bs.getD 4 0).getLsbD 1,
    header := overlay (List.replicate n 0) 0 ((bs.drop 16).take n) }

def routeBytes (r : Route) : List Byte :=
  overlay (List.replicate 64 0) 0 (toBytesBE 16 r.pfx.toNat ++ [BitVec.ofNat 8 r.len, if r.v6 then 6 else 4] ++ toBytesLE 2 r.vrf.toNat ++
    [0, 0, 0, 0] ++ toBytesLE 8 r.data.toNat ++ toBytesLE 2 r.actionId.toNat)

/-- A route record (R238): LEN clamped, a FAMILY other than 4 or 6 stored as 4. -/
def routeOf (bs : List Byte) : Route :=
  let v6 := (bs.getD 17 0).toNat == 6
  { pfx := BitVec.ofNat 128 (beAt bs 0 16), len := min (bs.getD 16 0).toNat (if v6 then 128 else 32), v6 := v6,
    vrf := BitVec.ofNat 16 (fromBytesLE ((bs.drop 18).take 2)), data := BitVec.ofNat 64 (fromBytesLE ((bs.drop 24).take 8)),
    actionId := BitVec.ofNat 16 (fromBytesLE ((bs.drop 32).take 2)) }

/-! ### Placement and lookup (R224, R226, R239) -/

/-- The entry of a two-choice table with a key, by the slots it reads. -/
def flowFind (s : State) (p t : Nat) (key : List Byte) : Option Nat :=
  let a := s.slotA p t key
  let b := s.slotB p t key
  let is (i : Nat) : Bool := (s.flowAt p t i).valid && (s.flowAt p t i).key == key
  if is a then some a else if (s.flowAt p t a).spill ≠ 0 ∧ is b then some b else none

def l2Is (s : State) (p t i : Nat) (mac : BitVec 48) (fid : BitVec 16) : Bool :=
  let e := s.l2At p t i
  e.valid && e.mac == mac && e.fid == fid && !(SMap.get false s.l2Bad (tkey p t i))

/-- The four entries of the bucket of an L2_DIE key: bucket H1 modulo the number of buckets (R224, log 133). -/
def l2Bucket (s : State) (p t : Nat) (mac : BitVec 48) (fid : BitVec 16) : List Nat :=
  let b := (crc32c (s.schema p t).seed1 (l2Key mac fid)).toNat % (s.tblSize p t / 4)
  (List.range 4).map (4 * b + ·)

/-- The entry of an L2 table with a MAC and FID. -/
def l2Find (s : State) (p t : Nat) (mac : BitVec 48) (fid : BitVec 16) : Option Nat :=
  if s.tblKind p t = 2 then (s.l2Bucket p t mac fid).find? fun i => s.l2Is p t i mac fid
  else
    let a := s.slotA p t (l2Key mac fid)
    let b := s.slotB p t (l2Key mac fid)
    if s.l2Is p t a mac fid then some a else if (s.l2At p t a).spill ≠ 0 ∧ s.l2Is p t b mac fid then some b else none

/-- A route covers an address of a VRF: the first LEN bits of its family's address agree. -/
def Route.covers (r : Route) (vrf : BitVec 16) (v6 : Bool) (addr : Nat) : Bool :=
  let w := if r.v6 then 128 else 32
  r.vrf == vrf && r.v6 == v6 && (r.pfx.toNat % 2 ^ w) / 2 ^ (w - r.len) == (addr % 2 ^ w) / 2 ^ (w - r.len)

/-- The longest matching prefix (R226). -/
def lpmFind (s : State) (p t : Nat) (vrf : BitVec 16) (v6 : Bool) (addr : Nat) : Option Route :=
  ((SMap.get [] s.routes (tabKey p t)).filter fun r => Route.covers r vrf v6 addr).foldl (fun best r =>
    match best with | none => some r | some b => if b.len < r.len then some r else some b) none

/-- Units that routes take (R219). -/
def lpmUnits (rs : List Route) : Nat := (rs.map fun r => if r.v6 then 2 else 1).sum

/-! ### The flow cache (R227, R228) -/

def fcSet (p : Nat) (h : BitVec 32) : Nat := h.toNat / 64 % 16384 + 16384 * p
def fcLines (s : State) (k : Nat) : List FcLine := SMap.get [] s.fcache k
def setLines (s : State) (k : Nat) (l : List FcLine) : State := { s with fcache := SMap.put [] s.fcache k l }

/-- Writes a line's HIT back to its FLOW entry (R245). -/
def lineBack (s : State) (p : Nat) (l : FcLine) : State :=
  match l.slot with
  | some (t, i) => if l.hit && (s.flowAt p t i).key == l.key then s.setFlow p t i { s.flowAt p t i with hit := true } else s
  | none => s

/-- Parked heads of a Pier (R229). -/
def parked (s : State) (p : Nat) : List Parked := SMap.get [] s.missBuf p
def setParked (s : State) (p : Nat) (l : List Parked) : State := { s with missBuf := SMap.put [] s.missBuf p l }

/-- A changed FLOW entry: the line with that key goes, and fills that it covers are not installed (R228). -/
def fcDrop (s : State) (p : Nat) (key : List Byte) : State :=
  let c := s.fcache.map fun e => if e.1 / 16384 = p then (e.1, e.2.filter fun l => l.key != key) else e
  let s := { s with fcache := c.filter fun e => e.2 != [] }
  s.setParked p ((s.parked p).map fun h => if flowKey h.pkt.tuple = key then { h with stale := true } else h)

/-- Every line of a Pier goes (R228, R56). -/
def fcClear (s : State) (p : Nat) : State :=
  let s := { s with fcache := s.fcache.filter fun e => e.1 / 16384 != p }
  s.setParked p ((s.parked p).map fun h => { h with stale := true })

/-- The stage programs of a Pier look up table `t`. -/
def looksUp (s : State) (p t : Nat) : Bool :=
  (s.pierImg p).prog.stages.any fun st => match st.lookup with
    | some (.l2 k ..) => k == t
    | some (.lpm k ..) => k == t
    | _ => false

/-- A changed L2_RLD or LPM table: its generation rises, and fills that used it are not installed (R228). -/
def bumpGen (s : State) (p t : Nat) : State :=
  let k := tabKey p t
  let s := { s with gens := SMap.put 0 s.gens k (SMap.get 0 s.gens k + 1) }
  if s.looksUp p t then s.setParked p ((s.parked p).map fun h => { h with stale := true }) else s

/-- What a change of an entry of table `t` does to the cache. -/
def touched (s : State) (p t : Nat) (keys : List (List Byte)) : State :=
  match s.tblKind p t with
  | 1 => keys.foldl (fun u k => u.fcDrop p k) s
  | 3 | 4 => s.bumpGen p t
  | _ => s

/-! ### The table event ring (R247, R248) -/

def evqSize (s : State) (p : Nat) : Nat := 2 ^ s.fld F.TBL_EVQ_CTL_LOG2_SIZE p
def evqPi (s : State) (p : Nat) : BitVec 16 := BitVec.ofNat 16 (s.fld F.TBL_EVQ_STATUS_PI p)
def evqCi (s : State) (p : Nat) : BitVec 16 := BitVec.ofNat 16 (s.fld F.TBL_EVQ_CI_CI p)
def evqFull (s : State) (p : Nat) : Bool := decide (s.evqSize p ≤ (s.evqPi p - s.evqCi p).toNat)

/-- No place is left for one more event behind those that wait and an OVERFLOW event that is due (R246). -/
def evqNoRoom (s : State) (p : Nat) : Bool :=
  decide (s.evqSize p ≤ (s.evqPi p - s.evqCi p).toNat + (SMap.get [] s.tblEv p).length + (if SMap.get 0 s.evOver p = 0 then 0 else 1))

/-- An event's 128 bytes. -/
def evBytes (s : State) (p : Nat) (e : TEv) (count : Nat) : List Byte :=
  let pi := (s.evqPi p).toNat
  let phase := 1 - pi / s.evqSize p % 2
  overlay (List.replicate 128 0) 0 (toBytesLE 8 (e.type + 2 ^ 8 * phase + 2 ^ 12 * e.table + 2 ^ 32 * e.index) ++
    toBytesLE 8 e.time.toNat ++ toBytesLE 4 count ++ List.replicate 44 0 ++ e.entry)

/-- Writes one event where PI points; armed, the vector is sent (R248). -/
def evWrite (s : State) (p : Nat) (e : TEv) (count : Nat) : State :=
  let a := s.fld F.TBL_EVQ_BASE_BASE p * 256 + 128 * ((s.evqPi p).toNat % s.evqSize p)
  let s := s.sendWrite .mf a (s.evBytes p e count) false
  let s := s.setFld F.TBL_EVQ_STATUS_PI p (s.evqPi p + 1).toNat
  if s.flag F.TBL_EVQ_STATUS_ARMED p then
    (s.setFld F.TBL_EVQ_STATUS_ARMED p 0).mfVector (s.fld F.TBL_EVQ_CTL_VEC p)
  else s

/-- Once space appears, the OVERFLOW event goes first (R248). -/
def evOverflow (s : State) (p : Nat) : State :=
  let ovr := SMap.get 0 s.evOver p
  if ovr = 0 || s.evqFull p || s.mfWaits then s
  else
    let s := s.evWrite p ⟨4, 0, 0, s.wide, []⟩ ovr
    { s.setFld F.TBL_EVQ_STATUS_OVF_PENDING p 0 with evOver := SMap.put 0 s.evOver p 0 }

/-- The events that wait are written in order as far as they can be; a LEARNED or MOVED event that finds the ring full is not
written (R248); none is written in the safe state or without Bus Master Enable (R88, R469). -/
def evDrainOn (s : State) (p : Nat) : List TEv → State
  | [] => { s.evOverflow p with tblEv := SMap.put [] s.tblEv p [] }
  | e :: t =>
    if s.mfWaits then { s with tblEv := SMap.put [] s.tblEv p (e :: t) }
    else
      let s := s.evOverflow p
      if s.evqFull p then
        let s := (s.bump F.TBL_EVQ_STATUS_OVF_CNT p).setFld F.TBL_EVQ_STATUS_OVF_PENDING p 1
        evDrainOn { s with evOver := SMap.put 0 s.evOver p (SMap.get 0 s.evOver p + 1) } p t
      else evDrainOn (s.evWrite p e 0) p t

/-- As `evDrainOn`; with EN = 0 no event is written, and those that wait go (R250). -/
def evDrain (s : State) (p : Nat) (l : List TEv) : State :=
  if s.flag F.TBL_EVQ_CTL_EN p then s.evDrainOn p l else { s with tblEv := SMap.put [] s.tblEv p [] }

/-- Posts an event, behind those that wait. -/
def tblEvent (s : State) (p type t i : Nat) (entry : List Byte) : State :=
  if s.flag F.TBL_EVQ_CTL_EN p then s.evDrain p (SMap.get [] s.tblEv p ++ [⟨type, t, i, s.wide, entry⟩]) else s

end State

/-! ### Commands (R235–R240) -/

/-- A table command: OP, TABLE, INDEX, BY_KEY, UNLOCK, COUNT, the buffer, and what its read of the entry meets. -/
structure TblCmd where
  op : Nat
  table : Nat
  index : Nat := 0
  byKey : Bool := false
  unlock : Bool := false
  count : Nat := 1
  buf : List Byte := []
  err : TblRead := .ok

/-- Its end: RESULT, INDEX, bytes for the buffer, and the state after it. -/
structure TblAns where
  result : Nat
  index : Nat
  data : List Byte := []
  after : State

/-- The command of a descriptor (R237). -/
def TblCmd.ofDesc (d : BitVec 256) (buf : List Byte) (r : TblRead) : TblCmd :=
  { op := descBits d 0 8, table := descBits d 8 4, index := descBits d 32 32, byKey := descBits d 14 1 == 1,
    unlock := descBits d 15 1 == 1, count := descBits d 128 16 + 1, buf := buf, err := r }

/-- An OP is allowed on a kind; 15 stands for the counters (R237, R238). -/
def opAllowed (op kind : Nat) : Bool :=
  match op with
  | 1 => [1, 2, 3, 4, 5, 15].contains kind
  | 2 => [1, 2, 3, 5, 15].contains kind
  | 3 | 4 | 5 | 6 | 7 => [1, 2, 3].contains kind
  | 8 | 9 => kind == 4
  | _ => false

namespace State

/-- MAC and FID of an L2 key in a buffer. -/
def bufMac (bs : List Byte) : BitVec 48 := BitVec.ofNat 48 (fromBytesLE (bs.take 6))
def bufFid (bs : List Byte) : BitVec 16 := BitVec.ofNat 16 (fromBytesLE ((bs.drop 6).take 2))

/-- The entry of a FLOW or L2 table with the key in a buffer. -/
def keyFind (s : State) (p t : Nat) (bs : List Byte) : Option Nat :=
  if s.tblKind p t = 1 then s.flowFind p t (overlay (List.replicate 42 0) 0 (bs.take 42))
  else s.l2Find p t (bufMac bs) (bufFid bs)

/-- The entry that an INSERT replaces (R239): one with the key in the buffer in either slot, whatever slot A's SPILL. -/
def keyAt (s : State) (p t : Nat) (bs : List Byte) : Option Nat :=
  match s.keyFind p t bs with
  | some i => some i
  | none =>
    if s.tblKind p t = 1 then
      let key := overlay (List.replicate 42 0) 0 (bs.take 42)
      let b := s.slotB p t key
      if (s.flowAt p t b).valid && (s.flowAt p t b).key == key then some b else none
    else if s.tblKind p t = 3 then
      let b := s.slotB p t (l2Key (bufMac bs) (bufFid bs))
      if s.l2Is p t b (bufMac bs) (bufFid bs) then some b else none
    else none

/-- The key bytes that place entry `i`, VALID, and SPILL. -/
def entKey (s : State) (p t i : Nat) : List Byte :=
  if s.tblKind p t = 1 then (s.flowAt p t i).key else l2Key (s.l2At p t i).mac (s.l2At p t i).fid
def entValid (s : State) (p t i : Nat) : Bool := if s.tblKind p t = 1 then (s.flowAt p t i).valid else (s.l2At p t i).valid
def entSpill (s : State) (p t i : Nat) : Nat := if s.tblKind p t = 1 then (s.flowAt p t i).spill else (s.l2At p t i).spill
def setSpill (s : State) (p t i n : Nat) : State :=
  if s.tblKind p t = 1 then s.setFlow p t i { s.flowAt p t i with spill := n } else s.setL2 p t i { s.l2At p t i with spill := n }

/-- Stores a buffer as entry `i`; a new entry starts with its device fields clear (R221, R222). -/
def putEnt (s : State) (p t i : Nat) (bs : List Byte) (new : Bool) : State :=
  if s.tblKind p t = 1 then
    let old := s.flowAt p t i
    let e := s.flowOf p (if new then { spill := old.spill } else old) bs
    (s.setFlow p t i e).touched p t [old.key, e.key]
  else
    let old := s.l2At p t i
    let e := s.l2Of p (if new then { spill := old.spill } else old) bs
    let s := s.setL2 p t i e
    { s with l2Bad := SMap.put false s.l2Bad (tkey p t i) false }.touched p t []

/-- Removes entry `i`; one in its second slot takes 1 off its first slot's SPILL (R239). -/
def dropEnt (s : State) (p t i : Nat) : State :=
  let key := s.entKey p t i
  let a := s.slotA p t key
  let second := s.tblKind p t ≠ 2 ∧ a ≠ i ∧ s.slotB p t key = i
  let s := if s.tblKind p t = 1 then s.setFlow p t i { spill := (s.flowAt p t i).spill }
    else s.setL2 p t i { spill := (s.l2At p t i).spill }
  let s := if second then s.setSpill p t a (s.entSpill p t a - 1) else s
  s.touched p t [key]

/-- The key that a buffer holds, as the slots of a two-choice table are chosen from it (R237). -/
def bufKey (s : State) (p t : Nat) (bs : List Byte) : List Byte :=
  if s.tblKind p t = 1 then overlay (List.replicate 42 0) 0 (bs.take 42) else l2Key (bufMac bs) (bufFid bs)

/-- Where an INSERT of `who` goes (R224, R235, R239): the entry, whether it is new, and whether it takes a second slot of `a`; a slot
that another owner has locked counts as occupied (log entry 58). -/
def insertAt (s : State) (p t : Nat) (who : BitVec 16) (bs : List Byte) : Option (Nat × Bool × Option Nat) :=
  let empty (i : Nat) : Bool := !s.entValid p t i && (s.lockOf (tkey p t i) == 0 || s.lockOf (tkey p t i) == who)
  match s.keyAt p t bs with
  | some i => some (i, false, none)
  | none =>
    if s.tblKind p t = 2 then
      ((s.l2Bucket p t (bufMac bs) (bufFid bs)).find? fun i =>
        empty i && !(SMap.get false s.l2Bad (tkey p t i))).map fun i => (i, true, none)
    else
      let key := s.bufKey p t bs
      let a := s.slotA p t key
      let b := s.slotB p t key
      if empty a then some (a, true, none)
      else if empty b && decide (s.entSpill p t a < 15) then some (b, true, some a)
      else none

/-- Bytes of one entry or unit as READ returns them. -/
def readUnit (s : State) (p t kind i : Nat) : List Byte :=
  match kind with
  | 1 => flowBytes (s.flowAt p t i) (s.lockOf (tkey p t i))
  | 2 => l2Bytes (s.l2At p t i) (s.lockOf (tkey p t i))
  | 3 => overlay (List.replicate 64 0) 0 (l2Bytes (s.l2At p t i) (s.lockOf (tkey p t i)))
  | 4 => match (SMap.get [] s.routes (tabKey p t))[i]? with | some r => routeBytes r | none => List.replicate 64 0
  | 5 => encapBytes (s.encapAt p t i)
  | _ => ((List.range 8).map fun k => toBytesLE 8 (SMap.get 0 s.counters (8 * i + k)).toNat).flatten

/-- The entries, templates or units of a table (R219, R234). -/
def unitCount (s : State) (p t kind : Nat) : Nat :=
  if kind = 15 then s.counterTotal / 8 else s.tblSize p t

/-- WRITE of one entry, template or unit of counters by index. -/
def writeUnit (s : State) (p t kind i : Nat) (bs : List Byte) : State :=
  match kind with
  | 5 =>
    let s := { s with encaps := SMap.put {} s.encaps (tkey p t i) (encapOf (overlay (encapBytes (s.encapAt p t i)) 0 bs)) }
    { s with encapBad := SMap.put false s.encapBad (tkey p t i) false }
  | 15 => (List.range 8).foldl (fun u k =>
      { u with counters := SMap.put 0 u.counters (8 * i + k) (BitVec.ofNat 64 (fromBytesLE ((bs.drop (8 * k)).take 8))) }) s
  | _ => s.putEnt p t i bs false

/-- ROUTE_ADD and ROUTE_DEL (R219, R226, R238). -/
def routeCmd (s : State) (p t : Nat) (add : Bool) (bs : List Byte) : Nat × State :=
  let r := routeOf bs
  let rs := SMap.get [] s.routes (tabKey p t)
  let same (q : Route) : Bool := q.vrf == r.vrf && q.v6 == r.v6 && q.len == r.len && Route.covers q r.vrf r.v6 r.pfx.toNat
  let put (l : List Route) : State := { s with routes := SMap.put [] s.routes (tabKey p t) l }.bumpGen p t
  match rs.findIdx? same with
  | some i => (0, put (if add then setAt rs i r else rs.eraseIdx i))
  | none =>
    if !add then (2, s)
    else if s.tblSize p t < lpmUnits (rs ++ [r]) then (3, s)
    else (0, put (rs ++ [r]))

/-! ### Errors of the stores (R251) -/

def tblSrc (p : Nat) : Nat := 0x42 + 16 * p

/-- Captures a table error if VALID is 0. -/
def tblCapture (s : State) (p table cause index : Nat) : State :=
  if s.flag F.TBL_ERR_CAPTURE_VALID p then s
  else s.setReg .TBL_ERR_CAPTURE p (BitVec.ofNat 64 (table + 2 ^ 4 * cause + 2 ^ 7 + 2 ^ 32 * index))

/-- A lookup that reads a poisoned table line. -/
def tblPoison (s : State) (p t i : Nat) : State := (s.bump F.TBL_POISON_CNT_COUNT p).tblCapture p t 1 i

/-- A corrected error of an on-die table store. -/
def tblCe (s : State) (p : Nat) : State :=
  (s.bump F.TBL_ERR_CNT_STORE_CE p).raise (tblSrc p) 0x03 (s.reg .TBL_ERR_CAPTURE p).toNat

/-- An uncorrected error of an on-die entry or template: counted, captured and recorded. -/
def tblUe (s : State) (p t i : Nat) : State :=
  let s := (s.bump F.TBL_ERR_CNT_STORE_UE p).tblCapture p t 2 i
  s.raise (tblSrc p) 0x02 (s.reg .TBL_ERR_CAPTURE p).toNat

/-- An error of an L2_DIE entry, and of an ENCAP template: an uncorrected one makes it absent until a WRITE replaces it. -/
def l2Ecc (s : State) (p t i : Nat) (e : Ecc) : State :=
  match e with
  | .ok => s
  | .corrected => s.tblCe p
  | .uncorrected => { s with l2Bad := SMap.put false s.l2Bad (tkey p t i) true }.tblUe p t i

def encapEcc (s : State) (p t i : Nat) (e : Ecc) : State :=
  match e with
  | .ok => s
  | .corrected => s.tblCe p
  | .uncorrected => { s with encapBad := SMap.put false s.encapBad (tkey p t i) true }.tblUe p t i

/-- What a command's or the sweeper's read of entry `i` meets in an on-die store (R251, R252). -/
def tblMeet (s : State) (p t i : Nat) (r : TblRead) : State :=
  let e : Ecc := match r with | .corrected => .corrected | .uncorrected => .uncorrected | _ => .ok
  match s.tblKind p t with
  | 2 => s.l2Ecc p t i e
  | 5 => s.encapEcc p t i e
  | _ => s

/-- The entry that a command reads: by its key, the one with the key or the first of its bucket. -/
def tblPlace (s : State) (p : Nat) (c : TblCmd) : Nat :=
  if c.op = 3 ∨ c.op = 5 ∨ c.byKey then
    (s.keyFind p c.table c.buf).getD ((s.l2Bucket p c.table (bufMac c.buf) (bufFid c.buf)).headD 0)
  else c.index

/-- A table command of `who` on Pier `p` whose reads meet no error of an on-die store (R235–R240); one that reads a poisoned entry
changes nothing (log entry 88). -/
def tblRunCmd (s : State) (p : Nat) (who : BitVec 16) (c : TblCmd) : TblAns :=
  let t := c.table
  let kind := if t = 15 then 15 else s.tblKind p t
  let say (code : Nat) : TblAns := { result := code, index := c.index, after := s }
  let bad := c.err == .poisoned
  if c.op = 0 then say 0
  else if !opAllowed c.op kind then say 4
  else if c.op = 8 ∨ c.op = 9 then
    let (code, u) := s.routeCmd p t (c.op == 8) c.buf
    { result := code, index := c.index, after := u }
  else if c.op = 3 then
    if bad && kind ≠ 2 then say 6
    else match s.insertAt p t who c.buf with
    | none => say 3
    | some (i, new, spill) =>
      let o := s.lockOf (tkey p t i)
      if o ≠ 0 ∧ o ≠ who then say 1
      else
        let u := match spill with | some a => s.setSpill p t a (s.entSpill p t a + 1) | none => s
        let u := u.putEnt p t i c.buf new
        { result := 0, index := i, after := if c.unlock && !new then u.setLock (tkey p t i) 0 else u }
  else
    let keyed := decide (c.op = 5) || (c.byKey && decide (kind ≤ 3) && decide (c.op ≠ 2))
    let n := if c.op = 1 ∧ !keyed then c.count else 1
    let place := if keyed then s.keyFind p t c.buf else some c.index
    match place with
    | none =>
      if bad && kind ≠ 2 then
        { result := 6, index := c.index, data := if c.op = 1 then s.readUnit p t kind (s.slotA p t (s.bufKey p t c.buf)) else [], after := s }
      else say 2
    | some i =>
      let k := tkey p t i
      let o := s.lockOf k
      let other := decide (o ≠ 0 ∧ o ≠ who)
      let gone := kind = 2 ∧ SMap.get false s.l2Bad k ∨ kind = 5 ∧ SMap.get false s.encapBad k ∨
        kind = 4 ∧ (SMap.get [] s.routes (tabKey p t)).length < i + n
      let done (u : State) : TblAns := { result := 0, index := c.index, after := if c.unlock then u.setLock k 0 else u }
      if s.unitCount p t kind < i + n then say 8
      else if bad && ([4, 6, 7] : List Nat).contains c.op then say 6
      else match c.op with
        | 1 =>
          if gone then say 2
          else { result := if bad then 6 else 0, index := c.index,
                 data := ((List.range n).map fun j => s.readUnit p t kind (i + j)).flatten, after := s }
        | 2 =>
          if kind ≤ 3 ∧ other then say 1
          else if 4 ≤ kind then { result := 0, index := c.index, after := s.writeUnit p t kind i c.buf }
          else done (s.writeUnit p t kind i c.buf)
        | 4 => if other then say 1 else if !s.entValid p t i ∨ gone then say 2 else done (s.dropEnt p t i)
        | 5 => { result := if bad then 6 else 0, index := i, after := s }
        | 6 => if !s.entValid p t i ∨ gone then say 2 else if other then say 1 else { result := 0, index := c.index, after := s.setLock k who }
        | _ => if o = 0 then say 5 else if other then say 1 else { result := 0, index := c.index, after := s.setLock k 0 }

/-- A table command of `who` on Pier `p` (R235–R240, R251): what its read meets, then the command. -/
def tblDo (s : State) (p : Nat) (who : BitVec 16) (c : TblCmd) : TblAns :=
  if c.op = 0 ∨ c.op = 2 ∨ !opAllowed c.op (s.tblKind p c.table) then s.tblRunCmd p who c
  else (s.tblMeet p c.table (s.tblPlace p c) c.err).tblRunCmd p who c

end State
end Sys2Proof.Machine
end

