-- ==== Sys2Proof/Machine/Tms.lean ====
section
/-!
DEFINITION. Scheduling, shaping and policing (chapter 09): the tree, queue limits, node states, deficit round robin, shapers,
policers, TMS_DECISION.
-/

namespace Sys2Proof.Machine

namespace State

/-! ### The tree (R276–R278) -/

def polKey (p n : Nat) : Nat := n + 4096 * p

def node (s : State) (k : Nat) : TmsNode := SMap.get {} s.nodes k
def setNode (s : State) (k : Nat) (x : TmsNode) : State := { s with nodes := SMap.put {} s.nodes k x }

def setTq (s : State) (p q : Nat) (l : List Pkt) : State := { s with tmsQ := SMap.put [] s.tmsQ (q + 16384 * p) l }

/-- Children of a node, in ascending index. -/
def childrenOf (s : State) (p level i : Nat) : List Nat :=
  (sortBy (fun a b => decide (a ≤ b)) (((s.pierImg p).nodes.filter fun n => n.level.val == level + 1 && n.parent == i).map TreeNode.index))

/-- A queue is a WIRE queue under port node `m` (R276). -/
def isWire (s : State) (p q m : Nat) : Bool :=
  match s.treeNode p 3 q with | some n => n.kind == 0 && s.portOf p q == m | none => false

/-! ### Queue limits (R279–R281) -/

/-- A frame is given up: its chain is released (R541), and an entry it came from gets the status cause. -/
def dropPkt (s : State) (f : Pkt) (code : Nat) : State :=
  let s := s.releaseOpt f.head
  match f.entry with
  | some (q, c) =>
    s.withBegun q c fun b => { b with causes := b.causes ++ [code] ++ (if b.bad then [5] else []), handed := false, head := none }
  | none => s

/-- A frame enters a TMS queue, or a green or yellow one is dropped at its limit; a frame of a TX work queue, an entry's or firmware's,
is not dropped (R279, R280, R421). -/
def tmsPut (s : State) (p q : Nat) (f : Pkt) : State :=
  let k := nodeKey p 3 q
  let lim := s.fld (if f.colour = 0 then F.TMS_Q_LIMIT_GREEN_KIB else F.TMS_Q_LIMIT_YELLOW_KIB) k * 1024
  if f.entry.isNone && f.txq.isNone && f.colour != 2 && decide (lim < s.depth p q + f.len) then
    (s.bump (if f.colour = 0 then F.TMS_Q_DROP_LIMIT else F.TMS_Q_DROP_YELLOW) k).releaseOpt f.head
  else s.setTq p q (s.tq p q ++ [f])

/-! ### What stops a port or a queue (R289, R291) -/

def mac (s : State) (m : Nat) : MacSt := SMap.get {} s.macs m
def setMac (s : State) (m : Nat) (x : MacSt) : State := { s with macs := SMap.put {} s.macs m x }

/-- Link state of a MAC (R300): 0 ABSENT, 1 DISABLED, 2 ACQUIRING, 3 UP, 4 REMOTE_FAULT. -/
def macState (s : State) (m : Nat) : Nat := s.fld F.MAC_STATUS_STATE m

/-- The input FIFO of a MAC for a Pier and class (R309). -/
def macFifo (s : State) (m p c : Nat) : List Pkt := SMap.get [] s.macIn (c + 8 * (p + 4 * m))
def setMacFifo (s : State) (m p c : Nat) (l : List Pkt) : State := { s with macIn := SMap.put [] s.macIn (c + 8 * (p + 4 * m)) l }
def macRoom (s : State) (m p c : Nat) (f : Pkt) : Bool := decide (((s.macFifo m p c).map Pkt.len).sum + f.len ≤ 20480)

/-- PFC pauses class `c` of MAC `m` (R315): it names a priority of the class. -/
def classPfc (s : State) (m c : Nat) : Bool :=
  (List.range 8).any fun i => (s.mac m).paused.getLsbD i && s.fld (F.MAC_PCP_MAP_RX_TC i) m == c

/-- Class `c` of MAC `m` is paused by its partner (R315): PAUSE, or PFC of a priority of the class. -/
def classPaused (s : State) (m c : Nat) : Bool := (s.mac m).pauseAll || s.classPfc m c

/-! Credits (R310, R311) are in units of 1/25,600 byte, in which 1 Mb/s for one ENG_CLK cycle is one unit. -/

/-- Frames of class `c` wait, and not only frames held for their launch time. -/
def cbsWaits (s : State) (m c : Nat) : Bool :=
  (List.range 4).any fun p => match s.macFifo m p c with | f :: _ => f.launch.isNone || (s.mac m).launchOk.contains (p, c) | [] => false

/-- Frames of class `c` are queued at MAC `m`. -/
def cbsAny (s : State) (m c : Nat) : Bool := (List.range 4).any fun p => !(s.macFifo m p c).isEmpty

/-- The credit of class `c` after `cycles` in which the MAC sends nothing (`other` false), or a frame of another class. -/
def cbsIdle (s : State) (m c : Nat) (other : Bool) (cycles : Nat) : Int :=
  let k := 8 * m + c
  let x := (s.mac m).credit.getD c 0
  let slope : Int := (s.fld F.MAC_CBS_IDLE_SLOPE k : Nat) * (cycles : Int)
  let any := s.cbsAny m c
  let hi : Int := s.fld F.MAC_CBS_HI_CREDIT k * 25600
  if !s.flag F.MAC_CBS_EN k then 0
  else if s.classPaused m c || (any && !s.cbsWaits m c) then x
  else if other && s.cbsWaits m c then min hi (x + slope)
  else if x < 0 then min hi (min 0 (x + slope))
  else if any then x else 0

/-- The credit of class `c` after `cycles` of a frame of its own that draw `drawn` (R310). -/
def cbsOwn (s : State) (m c cycles drawn : Nat) : Int :=
  let k := 8 * m + c
  if !s.flag F.MAC_CBS_EN k then 0
  else min (s.fld F.MAC_CBS_HI_CREDIT k * 25600) ((s.mac m).credit.getD c 0 + (s.fld F.MAC_CBS_IDLE_SLOPE k * cycles : Nat) - (drawn : Int))

/-- Credits over `n` cycles in which the MAC sends nothing. -/
def cbsQuiet (s : State) (m n : Nat) : State :=
  let x := s.mac m
  s.setMac m { x with credit := (List.range 8).map fun c => s.cbsIdle m c false n, since := x.since + n }

/-- Credits over `n` cycles, at most those it still takes, of the frame that is being sent; at its end a class without a frame keeps no
credit above 0 (R310). -/
def cbsSending (s : State) (m n : Nat) : State :=
  let x := s.mac m
  match x.send with
  | none => s
  | some (c, left, draw) =>
    let last := decide (left ≤ n)
    let d := if last then draw else draw * n / left
    let own := s.cbsOwn m c (min n left) d
    let one (i : Nat) : Int :=
      if i ≠ c then s.cbsIdle m i true (min n left) else if last && !s.cbsAny m c then min 0 own else own
    s.setMac m { x with credit := (List.range 8).map one, since := x.since + min n left, send := if last then none else some (c, left - n, draw - d) }

/-- Credits up to the present cycle: settled before whatever changes what a class waits for (a frame that arrives or leaves, a pause that
begins or ends, a launch time reached), while a frame is being sent too. -/
def cbsGap (s : State) (m : Nat) : State :=
  let s := s.cbsSending m (s.cycle.toNat - (s.mac m).since)
  s.cbsQuiet m (s.cycle.toNat - (s.mac m).since)

/-- A port node is PAUSED whatever its frames (R289, R291, R301). -/
def portPaused (s : State) (p port : Nat) : Bool :=
  if port < 16 then s.macState port != 3 || (s.mac port).pauseAll
  else if port = 16 then decide (256 ≤ (s.rx p).length)
  else false

/-- A queue with frames is PAUSED: a WIRE queue by PFC of its class (R283, R289), an ENGINE queue by its Truss (R291); the engine
queue of a Truss without firmware accepts nothing (R386). A received PAUSE and a full MAC input pause the port node (R289). -/
def queuePaused (s : State) (p q : Nat) (n : TreeNode) : Bool :=
  if n.kind = 0 then s.classPfc (s.portOf p q) n.tc
  else if n.kind = 2 then !s.flag F.TRS_INFO_FIRMWARE (3 * p + n.truss) || decide (512 ≤ s.eqPackets (3 * p + n.truss))
  else false

/-! ### Node states (R283) -/

/-- The state that buckets give a child that is neither EMPTY nor PAUSED. -/
def bucketState (s : State) (k : Nat) : Nat :=
  if (s.node k).ptok ≤ 0 then 2 else if 0 < (s.node k).ctok then 3 else 4

def queueState (s : State) (p q : Nat) : Nat :=
  match s.treeNode p 3 q, s.tq p q with
  | some n, _ :: _ => if s.queuePaused p q n then 1 else s.bucketState (nodeKey p 3 q)
  | _, _ => 0

def candidate (st : Nat) : Bool := st == 3 || st == 4

/-- State of a Span node (level 2) and of a group (level 1). -/
def spanNodeState (s : State) (p i : Nat) : Nat :=
  if (s.childrenOf p 2 i).any fun q => candidate (s.queueState p q) then s.bucketState (nodeKey p 2 i) else 0
def groupState (s : State) (p i : Nat) : Nat :=
  if (s.childrenOf p 1 i).any fun n => candidate (s.spanNodeState p n) then s.bucketState (nodeKey p 1 i) else 0

/-- State of a child at any level. -/
def childState (s : State) (p level i : Nat) : Nat :=
  if level = 3 then s.queueState p i else if level = 2 then s.spanNodeState p i else s.groupState p i

/-! ### Deficit round robin (R282, R284–R286) -/

/-- The next of `cs` after `i` in ascending order, wrapping. -/
def nextAfter (cs : List Nat) (i : Nat) : Nat := (cs.find? (i < ·)).getD (cs.headD 0)

/-- Picks among the candidates `cs` of one tier, whose next frames have lengths `len`; each move of the pointer adds the next
child's QUANTUM, whose pending value applies then. -/
def drr (s : State) (p level ptrKey : Nat) (cs : List Nat) (len : Nat → Nat) : Nat → Option (Nat × State)
  | 0 => none
  | fuel + 1 =>
    let c := SMap.get 0 s.ptrs ptrKey
    let k := nodeKey p level c
    if cs.contains c && decide (len c ≤ (s.node k).deficit) then
      some (c, s.setNode k { s.node k with deficit := (s.node k).deficit - len c })
    else
      let d := nextAfter cs c
      let kd := nodeKey p level d
      let s := s.epoch .drrAddition .TMS_NODE_QUANTUM kd
      let s := s.setNode kd { s.node kd with deficit := (s.node kd).deficit + s.fld F.TMS_NODE_QUANTUM_QUANTUM kd }
      drr { s with ptrs := SMap.put 0 s.ptrs ptrKey d } p level ptrKey cs len fuel

/-- A node picks its child: COMMITTED children first, then EXCESS (R284). -/
def pickChild (s : State) (p level i : Nat) (len : State → Nat → Nat) : Option (Nat × State) :=
  let kids := s.childrenOf p level i
  let tier := if kids.any fun c => s.childState p (level + 1) c == 3 then 3 else 4
  let cs := kids.filter fun c => s.childState p (level + 1) c == tier
  if cs.isEmpty then none
  else s.drr p (level + 1) (2 * nodeKey p level i + (tier - 3)) cs (len s) (260 * cs.length + 1)

/-- The length a queue's first frame is charged with, and the lengths of what Span nodes and groups would send next. -/
def queueLen (s : State) (p q ovr : Nat) : Nat := match s.tq p q with | f :: _ => f.len + ovr | [] => 0

def pickQueue (s : State) (p ovr n : Nat) : Option (Nat × State) := s.pickChild p 2 n fun s q => s.queueLen p q ovr
def spanNodeLen (s : State) (p ovr n : Nat) : Nat := match s.pickQueue p ovr n with | some (q, _) => s.queueLen p q ovr | none => 0
def pickSpanNode (s : State) (p ovr g : Nat) : Option (Nat × State) := s.pickChild p 1 g fun s n => s.spanNodeLen p ovr n
def groupLen (s : State) (p ovr g : Nat) : Nat := match s.pickSpanNode p ovr g with | some (n, _) => s.spanNodeLen p ovr n | none => 0
def pickGroup (s : State) (p ovr port : Nat) : Option (Nat × State) := s.pickChild p 0 port fun s g => s.groupLen p ovr g

/-- The queue and the frame that a port node would send next. -/
def nextFrame (s : State) (p ovr port : Nat) : Option (Nat × Pkt) := do
  let (g, _) ← s.pickGroup p ovr port
  let (n, _) ← s.pickSpanNode p ovr g
  let (q, _) ← s.pickQueue p ovr n
  let f ← (s.tq p q).head?
  some (q, f)

/-- The MAC of a port node has room for the frame that the node would send next, with the OVERHEAD that its pick brings into effect
(R289, R309). -/
def portRoom (s : State) (p port : Nat) : Bool :=
  let s := s.epoch .portPick .TMS_NODE_OVERHEAD (nodeKey p 0 port)
  match s.nextFrame p (s.fld F.TMS_NODE_OVERHEAD_BYTES (nodeKey p 0 port)) port with
  | some (q, f) => (match s.treeNode p 3 q with | some n => n.kind != 0 || s.macRoom port p n.tc f | none => true)
  | none => true

/-- State of a port node, which has no committed bucket (R283, R289). -/
def portState (s : State) (p port : Nat) : Nat :=
  if !(s.childrenOf p 0 port).any fun g => candidate (s.groupState p g) then 0
  else if s.portPaused p port || !s.portRoom p port then 1
  else if (s.node (nodeKey p 0 port)).ptok ≤ 0 then 2 else 4

/-- Charges L to a node's buckets (R286). -/
def chargeNode (s : State) (k l : Nat) : State :=
  s.setNode k { s.node k with ctok := (s.node k).ctok - 256 * l, ptok := (s.node k).ptok - 256 * l }

/-- Charges L to a port node, which has the peak bucket alone (R283, R286). -/
def chargePort (s : State) (k l : Nat) : State := s.setNode k { s.node k with ptok := (s.node k).ptok - 256 * l }

/-- The deficits of EMPTY children are 0 (R285). -/
def settle (s : State) (p : Nat) : State :=
  (s.pierImg p).nodes.foldl (fun u n =>
    let k := nodeKey p n.level.val n.index
    if n.level.val ≠ 0 ∧ (u.node k).deficit ≠ 0 ∧ u.childState p n.level.val n.index = 0 then u.setNode k { u.node k with deficit := 0 }
    else u) s

/-- The candidate port node that the arbiter serves next (R286). -/
def pickPort (s : State) (p : Nat) : Option Nat :=
  let a := SMap.get 0 s.arbiter p
  ((List.range 18).map fun i => (a + i) % 18).find? fun i => s.portState p i == 4

/-- The first frame of a MAC's input FIFO becomes its head: a launch time beyond the horizon is cut (R337). -/
def headed (s : State) (m p c : Nat) : State :=
  match s.macFifo m p c with
  | [] => s
  | f :: rest =>
    let s := s.epoch .fifoHead .TIM_LAUNCH_CTL 0
    let top := s.wide.toNat + s.fld F.TIM_LAUNCH_CTL_HORIZON_MS 0 * 1000000
    match f.launch with
    | some lt => if top < lt.toNat then (s.setMacFifo m p c ({ f with launch := some (BitVec.ofNat 64 top) } :: rest)).bump F.TIM_LAUNCH_CNT_CLAMPED 0 else s
    | none => s

/-- A picked frame is handed to its destination path (R277, R286). -/
def handOff (s : State) (p q : Nat) (f : Pkt) : State :=
  match s.treeNode p 3 q with
  | none => s
  | some n =>
    if n.kind = 0 then
      let m := s.portOf p q
      let old := s.macFifo m p n.tc
      let s := (s.cbsGap m).setMacFifo m p n.tc (old ++ [{ f with tc := n.tc }])
      if old.isEmpty then s.headed m p n.tc else s
    else if n.kind = 1 then s.setRx p (s.rx p ++ [f])
    else s.eqPush (3 * p + n.truss) (.packet f)

/-- The TMS makes no decision in the safe state, in Swap and FAILED, or on a gated Pier (R56, R59, R469, R493). -/
def tmsHeld (s : State) (p : Nat) : Bool :=
  s.isSafe || s.fld F.CFG_STATUS_STATE 0 == 4 || s.fld F.CFG_STATUS_STATE 0 == 5 || s.pierPwr p != 0

/-- One decision of Pier `p` (R284–R286). -/
def tmsDecide (s : State) (p : Nat) : State :=
  if s.tmsHeld p then s
  else match s.pickPort p with
    | none => s
    | some port =>
      let s := s.epoch .portPick .TMS_NODE_OVERHEAD (nodeKey p 0 port)
      let ovr := s.fld F.TMS_NODE_OVERHEAD_BYTES (nodeKey p 0 port)
      match s.pickGroup p ovr port with
      | none => s
      | some (g, s) =>
        match s.pickSpanNode p ovr g with
        | none => s
        | some (n, s) =>
          match s.pickQueue p ovr n with
          | none => s
          | some (q, s) =>
            match s.tq p q with
            | [] => s
            | f :: rest =>
              let l := f.len + ovr
              let s := s.setTq p q rest
              let s := (((s.chargePort (nodeKey p 0 port) l).chargeNode (nodeKey p 1 g) l).chargeNode (nodeKey p 2 n) l).chargeNode (nodeKey p 3 q) l
              let s := { s with arbiter := SMap.put 0 s.arbiter p ((port + 1) % 18) }
              (s.handOff p q f).settle p

/-! ### Shapers and policers (R287, R288, R292, R293) -/

/-- A node's buckets at a refill tick; a port node has only the peak bucket. -/
def refillNode (s : State) (k : Nat) (port : Bool) : State :=
  let s := (s.epoch .tick .TMS_NODE_CIR k).epoch .tick .TMS_NODE_PIR k
  let x := s.node k
  let c : Int := min (x.ctok + s.fld F.TMS_NODE_CIR_RATE k) (256 * s.fld F.TMS_NODE_CBS_SIZE k)
  let q : Int := min (x.ptok + s.fld F.TMS_NODE_PIR_RATE k) (256 * s.fld F.TMS_NODE_PBS_SIZE k)
  s.setNode k { x with ctok := if port then x.ctok else c, ptok := q }

def pol (s : State) (k : Nat) : Pol := SMap.get {} s.pols k
def setPol (s : State) (k : Nat) (x : Pol) : State := { s with pols := SMap.put {} s.pols k x }

/-- Tc and Tp of a policer, in 1/256 byte. -/
def polTc (s : State) (k : Nat) : Nat :=
  if s.slots.active.isNone then 0 else 256 * s.fld F.TMS_POL_CBS_SIZE k - (s.pol k).tc
def polTp (s : State) (k : Nat) : Nat :=
  if s.slots.active.isNone then 0 else 256 * s.fld F.TMS_POL_PBS_SIZE k - (s.pol k).tp

/-- What a policer's buckets lack, so that they hold the tokens they held in `was`, up to their sizes now (R60, R288, R293): a lowered
size cuts the tokens, a raised one adds none. -/
def keepPol (s was : State) (k : Nat) : State :=
  let c := 256 * s.fld F.TMS_POL_CBS_SIZE k
  let q := 256 * s.fld F.TMS_POL_PBS_SIZE k
  s.setPol k { tc := c - min c (was.polTc k), tp := q - min q (was.polTp k) }

/-- A policer's tick. -/
def refillPol (s : State) (k : Nat) : State :=
  let s := (s.epoch .tick .TMS_POL_CIR k).epoch .tick .TMS_POL_PIR k
  s.setPol k { tc := (s.pol k).tc - s.fld F.TMS_POL_CIR_RATE k, tp := (s.pol k).tp - s.fld F.TMS_POL_PIR_RATE k }

/-- Every bucket of the four Piers at a refill tick (R287). -/
def tmsTick (s : State) : State :=
  let s := s.setFld F.TMS_TICK_COUNT 0 (s.fld F.TMS_TICK_COUNT 0 + 1)
  let s := (List.range 4).foldl (fun u p =>
    if 2 ≤ u.domState p then u else
    let u := (List.range 18).foldl (fun v i => v.refillNode (nodeKey p 0 i) true) u
    (u.pierImg p).nodes.foldl (fun v n => if n.level.val = 0 then v else v.refillNode (nodeKey p n.level.val n.index) false) u) s
  let waiting := s.shadow.filterMap fun e =>
    if Reg.ofNat (e.1 % 512) = .TMS_POL_CIR ∨ Reg.ofNat (e.1 % 512) = .TMS_POL_PIR then some (e.1 / 512) else none
  (((s.pols.map Prod.fst ++ waiting).filter fun k => decide (s.domState (k / 4096) < 2)).eraseDups).foldl refillPol s

/-- The colour of a frame of `b` bytes with a pre-colour, 0 green, 1 yellow, 2 red (R292), and the tokens it takes. -/
def police (s : State) (p n b pre : Nat) : Nat × State :=
  let k := polKey p n
  if !s.flag F.TMS_POL_CTL_EN k then
    (pre, if pre = 2 then s.bump F.TMS_POL_CNT_RED k else if pre = 1 then s.bump F.TMS_POL_CNT_YELLOW k else s)
  else
    let aware := s.flag F.TMS_POL_CTL_COLOR_AWARE k
    let x := s.pol k
    if aware && pre == 2 || decide (s.polTp k < 256 * b) then (2, s.bump F.TMS_POL_CNT_RED k)
    else if aware && pre == 1 || decide (s.polTc k < 256 * b) then
      (1, (s.setPol k { x with tp := x.tp + 256 * b }).bump F.TMS_POL_CNT_YELLOW k)
    else (0, s.setPol k { tc := x.tc + 256 * b, tp := x.tp + 256 * b })

/-! ### Errors (R296) -/

def tmsSrc (p : Nat) : Nat := 0x43 + 16 * p

/-- An ECC error in the TMS's state. -/
def tmsEcc (s : State) (p : Nat) (e : TmsErr) : State :=
  let lay := e.level.val + 4 * e.index.val + 2 ^ 16 * e.kind.val + 2 ^ 31
  if !e.uncorrected then (s.bump F.TMS_STORE_ERR_CE p).raise (tmsSrc p) 0x02 (s.reg .TMS_ERR_CAPTURE p).toNat
  else
    let k := nodeKey p e.level.val e.index.val
    let s := match e.kind with
      | 0 => s.setNode k { ctok := if e.level.val = 0 then (s.node k).ctok else 256 * s.fld F.TMS_NODE_CBS_SIZE k,
                           ptok := 256 * s.fld F.TMS_NODE_PBS_SIZE k, deficit := 0 }
      | 1 => State.settle ((s.tq p e.index.val).foldl (fun u f => u.dropPkt f 14) (s.setTq p e.index.val [])) p
      | _ => s.setPol (polKey p e.index.val) {}
    let s := s.bump F.TMS_STORE_ERR_UE p
    let s := if s.flag F.TMS_ERR_CAPTURE_VALID p then s else s.setReg .TMS_ERR_CAPTURE p (BitVec.ofNat 64 lay)
    s.raise (tmsSrc p) 0x01 (s.reg .TMS_ERR_CAPTURE p).toNat

end State

/-- TMS_DECISION (R283–R286, R296): an ECC error that the TMS meets, then one decision. -/
def execTmsDecision (p : Pier) (e : Option TmsErr) (s : State) : Out3 := .next <|
  let s := match e with | some x => s.tmsEcc p.val x | none => s
  s.tmsDecide p.val

end Sys2Proof.Machine
end

