-- ==== Sys2Proof/Machine/Cip.lean ====
section
/-!
DEFINITION. The cipher engine (chapter 12): security associations and their commands, ESP, MACsec and raw blocks, duplicate
computation and errors.
-/

namespace Sys2Proof.Machine

/-- The last four bytes of an Ethernet frame: CRC32 of IEEE 802.3. -/
def fcs32 (bs : List Byte) : List Byte :=
  let bit (c : BitVec 32) : BitVec 32 := if c.getLsbD 0 then (c >>> 1) ^^^ 0xEDB88320 else c >>> 1
  let byte (c : BitVec 32) (b : Byte) : BitVec 32 := (List.range 8).foldl (fun a _ => bit a) (c ^^^ b.setWidth 32)
  toBytesLE 4 (bs.foldl byte 0xFFFFFFFF ^^^ 0xFFFFFFFF).toNat

/-- A frame whose bytes the device changed, with the FCS that fits; a truncated frame carries none (R304). -/
def Pkt.withBytes (f : Pkt) (bs : List Byte) : Pkt := { f with bytes := bs, fcs := if f.trunc then [] else fcs32 bs }

namespace Sa

def valid (a : Sa) : Bool := a.state == 1

/-- The key bytes: byte `i` is key bits [8 i + 7 : 8 i]; AES-128 uses the first 16. -/
def keyBytes (a : Sa) : List Byte := (toBytesLE 32 a.key.toNat).take (if a.k256 then 32 else 16)

/-- The four salt bytes of ESP. -/
def saltBytes (a : Sa) : List Byte := toBytesLE 4 a.salt.toNat

/-- The highest packet number (R359). -/
def top (a : Sa) : Nat := if a.kind = 0 ∧ !a.esn then 2 ^ 32 - 1 else 2 ^ 64 - 1

/-- A SA of a state other than VALID or EXHAUSTED holds no key and no salt (R372). -/
def emptied : Sa := {}
def faulted (a : Sa) : Sa := { a with state := 3, key := 0, salt := 0 }

/-- MACsec's nonce: (SSCI ‖ PN) XOR salt. -/
def msecNonce (a : Sa) (pn : Nat) : List Byte :=
  toBytesBE 12 ((a.spi.setWidth 96 <<< 64 ||| BitVec.ofNat 96 (pn % 2 ^ 64)) ^^^ a.salt).toNat

end Sa

namespace State

def sa (s : State) (i : Nat) : Sa := SMap.get {} s.sas i
def setSa (s : State) (i : Nat) (a : Sa) : State := { s with sas := SMap.put {} s.sas i a }

def cipEvt (s : State) (b : Nat) : State := s.setEvt .CIP_EVT .CIP_EVT_EN .CIP_MSIX_VEC 0 b

/-! ### Packet numbers (R359, R367) -/

/-- Sets the bit of SA `i` in a per-SA map. -/
def saMap (s : State) (r : Reg) (i : Nat) : State := s.setReg r (i / 64) (s.reg r (i / 64) ||| ((1 : Word) <<< (i % 64)))

/-- Assigns the next packet number of transmit SA `i`: SOFT at SOFT_PN, EXHAUSTED after the highest. -/
def takePn (s : State) (i : Nat) : Nat × State :=
  let a := s.sa i
  let pn := a.pn
  let soft := decide (a.soft ≠ 0 ∧ a.soft ≤ pn) && !a.softHit
  let s := s.setSa i { a with pn := if pn < a.top then pn + 1 else pn, softHit := a.softHit || soft
                              state := if pn < a.top then a.state else 2 }
  let s := s.evtTogether .CIP_EVT .CIP_EVT_EN .CIP_MSIX_VEC 0 fun s =>
    let s := if soft then (s.saMap .CIP_SOFT_MAP i).cipEvt 0 else s
    if pn < a.top then s else (s.saMap .CIP_EXH_MAP i).cipEvt 1
  (pn, if pn < a.top then s else s.raise 0x09 0x01 i)

/-- Counts a frame of `n` bytes, FCS included, that SA `i` served. -/
def saCount (s : State) (i n : Nat) : State := s.countPair (s.sa i).cntidx 1 n

/-! ### Duplicate computation and the stores (R368, R371, R375) -/

/-- Captures a cipher error if VALID is 0. -/
def cipCapture (s : State) (i unit cause : Nat) : State :=
  if s.flag F.CIP_ERR_CAPTURE_VALID 0 then s
  else s.setReg .CIP_ERR_CAPTURE 0 (BitVec.ofNat 64 (i + 2 ^ 16 * unit + 2 ^ 20 * cause + 2 ^ 31))

/-- An uncorrected error of SA `i`, or copies that disagree: FAULTED, counted, captured and recorded. -/
def saFault (s : State) (i unit cause : Nat) : State :=
  let s := if (s.sa i).state = 1 ∨ (s.sa i).state = 2 then s.setSa i (s.sa i).faulted else s
  let s := ((s.bump F.CIP_STORE_ERR_UE 0).cipCapture i unit cause).cipEvt 2
  s.raise 0x09 0x03 (s.reg .CIP_ERR_CAPTURE 0).toNat

/-- What a unit finds at SA `i`: whether it discards the frame or block, and the record. -/
def cipCheck (s : State) (c : CipFault) (i unit : Nat) : Bool × State :=
  match c with
  | .none => (false, s)
  | .corrected => (false, (s.bump F.CIP_STORE_ERR_CE 0).raise 0x09 0x04 i)
  | .mismatch =>
    let s := ((s.bump F.CIP_DUP_CNT_MISMATCH 0).cipCapture i unit 1).cipEvt 2
    (true, s.raise 0x09 0x02 (s.reg .CIP_ERR_CAPTURE 0).toNat)
  | .keyStore => (true, s.saFault i unit 2)
  | .stateCopies => (true, s.saFault i unit 3)

/-- The data of a frame carries poison, by itself or in its chain: a unit that would protect or check it discards it (R473). -/
def framePoisoned (s : State) (f : Pkt) : Bool :=
  f.poisoned || match f.head with | some h => s.chainBad h f.bytes.length | none => false

/-! ### ESP (R361–R364) -/

/-- Offset after the outermost IP header's fixed part, its next header's place, and whether it is IPv6. -/
def outerIp (bs : List Byte) : Option (Nat × Nat × Nat × Bool) :=
  (outerL3 bs).map fun x =>
    if x.v6 then (x.off, x.off + 40, x.off + 6, true)
    else (x.off, x.off + 4 * ((bs.getD x.off 0).toNat % 16), x.off + 9, false)

/-- Rewrites the outer header for a new next header and length. -/
def ipFix (bs : List Byte) (off hdr nhAt : Nat) (v6 : Bool) (nh : Byte) : List Byte :=
  let bs := overlay bs nhAt [nh]
  if v6 then overlay bs (off + 4) (toBytesBE 2 (bs.length - off - 40))
  else ip4Fix (overlay bs (off + 2) (toBytesBE 2 (bs.length - off))) off (hdr - off)

/-- AAD of ESP. -/
def espAad (a : Sa) (pn : Nat) : List Byte :=
  toBytesBE 4 a.spi.toNat ++ (if a.esn then toBytesBE 8 pn else toBytesBE 4 (pn % 2 ^ 32))

/-- Bytes of the frame after protection, without FCS, when its payload after the IP header has `n` bytes. -/
def espPad (n : Nat) : Nat := (6 - n % 4) % 4

/-- ESP encryption of a frame by egress slice `p` under SA `i`, toward a port whose largest frame is `max` (R362): the protected
frame, or the status of a frame that is not sent. -/
def espEncrypt (s : State) (p i max : Nat) (f : Pkt) (c : CipFault) : Except Nat Pkt × State :=
  let a := s.sa i
  if !a.valid || a.kind != 0 || !a.tx then
    (.error (if a.state = 3 then 14 else 7), s.bump F.CIP_DROP_CNT_NO_SA 0)
  else
    match outerIp f.bytes with
    | none => (.error 14, s)
    | some (off, hdr, nhAt, v6) =>
      let payload := f.bytes.drop hdr
      let pad := espPad payload.length
      if max < hdr + 16 + payload.length + pad + 2 + 16 + 4 then (.error 8, s.bump F.CIP_DROP_CNT_LENGTH 0)
      else if s.framePoisoned f then (.error 5, s)
      else
        let (pn, s) := s.takePn i
        let (bad, s) := s.cipCheck c i (4 + p)
        if bad then (.error 14, s)
        else
          let plain := payload ++ (List.range pad).map (fun k => BitVec.ofNat 8 (k + 1)) ++ [BitVec.ofNat 8 pad, f.bytes.getD nhAt 0]
          let iv := toBytesBE 8 pn
          let nonce := a.saltBytes ++ iv
          let ct := gcmCrypt a.keyBytes nonce plain
          let bs := f.bytes.take hdr ++ toBytesBE 4 a.spi.toNat ++ toBytesBE 4 (pn % 2 ^ 32) ++ iv ++ ct ++
            gcmTag a.keyBytes nonce (espAad a pn) ct
          (.ok (f.withBytes (ipFix bs off hdr nhAt v6 50)), s.saCount i f.len)

/-- The 64-bit sequence number of a received ESP frame (RFC 4303, Appendix A, where ESN = 1). -/
def espSeq (a : Sa) (low : Nat) : Option Nat :=
  if !a.esn then some low
  else
    let t := a.pn - 1
    let tl := t % 2 ^ 32
    let th := t / 2 ^ 32
    if a.window ≤ tl + 1 then
      if tl + 1 - a.window ≤ low then some (th * 2 ^ 32 + low) else some ((th + 1) * 2 ^ 32 + low)
    else if tl + 1 + 2 ^ 32 - a.window ≤ low then (if th = 0 then none else some ((th - 1) * 2 ^ 32 + low))
    else some (th * 2 ^ 32 + low)

/-- The replay window accepts a number: above the highest seen, or within the window and not yet seen. -/
def replayOk (a : Sa) (n : Nat) : Bool :=
  decide (a.pn ≤ n) || (decide (a.pn - 1 < n + a.window) && !a.seen.getLsbD (a.pn - 1 - n))

/-- The number that the ICV check authenticates: the inferred one, whose high part below 0 is 2^32 − 1 (RFC 4303 Appendix A). -/
def espNumber (m : Option Nat) (low : Nat) : Nat := m.getD (2 ^ 64 - 2 ^ 32 + low)

/-- The window after number `n` is accepted. -/
def replaySeen (a : Sa) (n : Nat) : Sa :=
  if a.pn ≤ n then { a with pn := n + 1, seen := (if n + 1 - a.pn < 256 then a.seen <<< (n + 1 - a.pn) else 0) ||| 1 }
  else { a with seen := a.seen ||| (1 <<< (a.pn - 1 - n)) }

/-- ESP decryption by ingress slice `p` (R364): the plaintext frame, if it passes. -/
def espDecrypt (s : State) (p i : Nat) (f : Pkt) (c : CipFault) : Option Pkt × State :=
  let format := (none, s.bump F.CIP_FORMAT_CNT_COUNT 0)
  match outerIp f.bytes with
  | none => format
  | some (off, hdr, nhAt, v6) =>
    if f.bytes.getD nhAt 0 ≠ 50 then format
    else
      let a := s.sa i
      let low := beAt f.bytes (hdr + 4) 4
      let len := f.bytes.length - hdr - 32
      if !a.valid || a.kind != 0 || a.tx || beAt f.bytes hdr 4 != a.spi.toNat then (none, s.bump F.CIP_DROP_CNT_NO_SA 0)
      else if len < 4 ∨ len % 4 ≠ 0 then (none, s.bump F.CIP_DROP_CNT_LENGTH 0)
      else
        let replay := (none, s.setSa i { a with replayErr := satAdd 32 a.replayErr 1 })
        let m := espSeq a low
        if a.replay && !(m.any (replayOk a)) then replay
        else if s.framePoisoned f then (none, s)
        else
            let (bad, s) := s.cipCheck c i p
            if bad then (none, s)
            else
              let nonce := a.saltBytes ++ (f.bytes.drop (hdr + 8)).take 8
              let ct := (f.bytes.drop (hdr + 16)).take len
              let good := gcmTag a.keyBytes nonce (espAad a (espNumber m low)) ct == (f.bytes.drop (hdr + 16 + len)).take 16
              let s := if good then s else s.setSa i { a with authErr := satAdd 32 a.authErr 1 }
              if !good && !a.failPass then (none, s)
              else
                let plain := gcmCrypt a.keyBytes nonce ct
                let pad := (plain.getD (len - 2) 0).toNat
                if good && decide (len - 2 < pad) then (none, s.bump F.CIP_DROP_CNT_LENGTH 0)
                else
                  let bs := f.bytes.take hdr ++ plain.take (len - 2 - pad)
                  let g := { f.withBytes (ipFix bs off hdr nhAt v6 (plain.getD (len - 1) 0)) with decrypted := true, authFail := !good }
                  (some g, (if good then s.setSa i (m.elim a (replaySeen a)) else s).saCount i f.len)

/-! ### MACsec (R316, R317, R365, R366) -/

def etherType (bs : List Byte) : Nat := beAt bs 12 2

/-- A tag's TPID at byte `i`. -/
def isTag (bs : List Byte) (i : Nat) : Bool := beAt bs i 2 == 0x8100 || beAt bs i 2 == 0x88A8

/-- The EtherType at byte `i`, or behind the tags there, of which there are at most as many as the number says. -/
def typeAfterTags (bs : List Byte) : Nat → Nat → Nat
  | 0, i => beAt bs i 2
  | k + 1, i => if isTag bs i then typeAfterTags bs k (i + 4) else beAt bs i 2

/-- An EAPOL frame, which bypasses the SecY (R316); the tags are its own, of which there are at most two, and those that INSERT adds. -/
def isEapol (bs : List Byte) : Bool := typeAfterTags bs 4 12 == 0x888E

/-- The SCI of MAC `m`'s own transmissions. -/
def sciOf (s : State) (m : Nat) : List Byte := toBytesBE 6 (s.fld F.MAC_ADDR_ADDR m) ++ [0, 1]

/-- Port stage: protects a frame of MAC `m` where its SecY calls for it; its bytes, or the status of a frame not sent. -/
def msecProtect (s : State) (m : Nat) (f : Pkt) (c : CipFault) : Except Nat (List Byte) × State :=
  if !s.flag F.MAC_SECY_CTL_EN m || !s.flag F.MAC_SECY_CTL_TX_PROTECT m || isEapol f.bytes then (.ok f.bytes, s)
  else
    let s := s.epoch .protectFrame .CIP_MSEC_TX m
    let i := s.fld F.CIP_MSEC_TX_SA m
    let a := s.sa i
    if !a.valid || a.kind != 1 || !a.tx then (.error (if a.state = 3 then 14 else 7), s.bump F.CIP_DROP_CNT_NO_SA 0)
    else if s.framePoisoned f then (.error 5, s)
    else
      let (pn, s) := s.takePn i
      let (bad, s) := s.cipCheck c i (8 + m / 8)
      if bad then (.error 14, s)
      else
        let sc := s.flag F.MAC_SECY_CTL_INCLUDE_SCI m
        let plain := f.bytes.drop 12
        let tci := (if sc then 0x20 else 0x40) + 0x0C + s.fld F.CIP_MSEC_TX_AN m
        let tag := [0x88, 0xE5, BitVec.ofNat 8 tci, BitVec.ofNat 8 (if plain.length < 48 then plain.length else 0)] ++
          toBytesBE 4 (pn % 2 ^ 32) ++ (if sc then s.sciOf m else [])
        let head := f.bytes.take 12 ++ tag
        let ct := gcmCrypt a.keyBytes (a.msecNonce pn) plain
        (.ok (head ++ ct ++ gcmTag a.keyBytes (a.msecNonce pn) head ct), s.saCount i f.len)

/-- The SA that a received SecTAG names: the enabled channel with its SCI, by AN. -/
def rxSa (s : State) (m : Nat) (sci an : Nat) : Option Nat :=
  match (List.range 32).find? fun k => s.flag F.CIP_RXSC_CTL_EN (32 * m + k) && (s.reg .CIP_RXSC_SCI (32 * m + k)).toNat == sci with
  | none => none
  | some k =>
    let j := 32 * m + k
    let i := getBits (s.reg .CIP_RXSC_SA j) (16 * an) 16
    let a := s.sa i
    if bitOf (s.reg .CIP_RXSC_CTL j) an && a.valid && a.kind == 1 && !a.tx then some i else none

/-- The 64-bit packet number of a received frame: the number next to the SA's next PN that has the low 32 bits received. -/
def recoverPn (next low : Nat) : Nat :=
  let nl := next % 2 ^ 32
  let up := next / 2 ^ 32
  if low < nl ∧ low / 2 ^ 31 ≠ nl / 2 ^ 31 then (up + 1) * 2 ^ 32 + low else up * 2 ^ 32 + low

/-- Adds to counter `n` of MAC `m` (R321). -/
def macCount (s : State) (m n : Nat) (k : Nat := 1) : State :=
  { s with macCnt := SMap.put 0 s.macCnt (n + 32 * m) (SMap.get 0 s.macCnt (n + 32 * m) + BitVec.ofNat 64 k) }

/-- Ingress slice `p`: verifies a frame of a MAC whose SecY is in use (R317, R366); the frame, if it passes. -/
def msecVerify (s : State) (p : Nat) (f : Pkt) (c : CipFault) : Option Pkt × State :=
  let m := f.mac
  let mode := s.fld F.MAC_SECY_CTL_VALIDATE m
  let done (g : Pkt) : Pkt := { g with verified := true }
  if isEapol f.bytes then (some (done f), s)
  else if etherType f.bytes ≠ 0x88E5 then
    if mode = 0 then (some (done f), s)
    else (if mode = 2 then none else some (done f), s.macCount m 8)
  else
    let tci := (f.bytes.getD 14 0).toNat
    let sc := tci / 32 % 2 = 1
    let enc := tci / 8 % 2 = 1
    let sl := (f.bytes.getD 15 0).toNat % 64
    let n := if sc then 28 else 20
    let sci := if sc then beAt f.bytes 20 8 else beAt f.bytes 6 6 * 65536 + 1
    let rest := f.bytes.drop n
    let len := if sl = 0 then rest.length - 16 else sl
    let text := rest.take len
    let icv := (rest.drop len).take 16
    let head := f.bytes.take n
    let strip (bs : List Byte) : Pkt := done (f.withBytes (f.bytes.take 12 ++ bs))
    match s.rxSa m sci (tci % 4) with
    | none =>
      if mode = 0 then (some (strip text), s)
      else (if mode = 2 ∨ enc then none else some (strip text), s.macCount m 11)
    | some i =>
      let (bad, s) := s.cipCheck c i p
      if bad || s.framePoisoned f then (none, s)
      else
        let a := s.sa i
        let pn := recoverPn a.pn (beAt f.bytes 16 4)
        let nonce := a.msecNonce pn
        let good := (if enc then gcmTag a.keyBytes nonce head text else gcmTag a.keyBytes nonce (head ++ text) []) == icv
        let out := strip (if enc then gcmCrypt a.keyBytes nonce text else text)
        if !good then
          if mode = 0 then (some out, s)
          else (if mode = 2 ∨ enc then none else some { out with authFail := true }, s.macCount m 9)
        else if s.flag F.MAC_SECY_CTL_REPLAY_PROTECT m && decide (pn + s.fld F.MAC_SECY_CTL_REPLAY_WINDOW m < a.pn) then
          if mode = 0 then (some out, s) else (none, s.macCount m 10)
        else (some out, (s.setSa i { a with pn := max a.pn (pn + 1) }).saCount i f.len)

/-! ### SA commands (R359, R360, R370, R374) -/

/-- An SA command ends. -/
def saEnd (s : State) (q : Seq) (code : Nat) : State :=
  (s.endCmd F.CIP_SA_STATUS_LAST_RESULT F.CIP_SA_STATUS_LAST_SEQ 0 code q).cipEvt 3

def selSa (s : State) : Nat := s.fld F.CIP_SA_SEL_SA 0

/-- The staging registers that INSTALL takes, and their instances. -/
def saStaging : List (Reg × Nat) :=
  [(.CIP_SA_CFG, 0), (.CIP_SA_SPI, 0), (.CIP_SA_PN, 0), (.CIP_SA_CNTIDX, 0), (.CIP_SA_KEY, 0), (.CIP_SA_KEY, 1), (.CIP_SA_KEY, 2),
   (.CIP_SA_KEY, 3), (.CIP_SA_SALT_0, 0), (.CIP_SA_SALT_1, 0)]

/-- The registers whose content INSTALL zeroes. -/
def saSecret : List (Reg × Nat) :=
  [(.CIP_SA_KEY, 0), (.CIP_SA_KEY, 1), (.CIP_SA_KEY, 2), (.CIP_SA_KEY, 3), (.CIP_SA_SALT_0, 0), (.CIP_SA_SALT_1, 0)]

/-- The SA that the staging registers describe (R357, R374). -/
def stagedSa (s : State) : Sa :=
  let kind := if s.fld F.CIP_SA_CFG_KIND 0 = 3 then 0 else s.fld F.CIP_SA_CFG_KIND 0
  let esn := s.flag F.CIP_SA_CFG_ESN 0 && kind == 0
  let pn := max 1 (s.reg .CIP_SA_PN 0).toNat
  { state := 1, kind := kind, tx := kind != 2 && s.flag F.CIP_SA_CFG_DIR 0, esn := esn
    k256 := kind == 1 || s.flag F.CIP_SA_CFG_KEY256 0, replay := s.flag F.CIP_SA_CFG_REPLAY 0
    failPass := s.flag F.CIP_SA_CFG_FAIL_PASS 0, window := min 256 (s.fld F.CIP_SA_CFG_WINDOW 0)
    trussMask := BitVec.ofNat 12 (s.fld F.CIP_SA_CFG_TRUSS_MASK 0), spi := BitVec.ofNat 32 (s.fld F.CIP_SA_SPI_SPI 0)
    pn := if kind = 0 ∧ !esn then min pn (2 ^ 32 - 1) else pn, soft := (s.reg .CIP_SA_SOFT 0).toNat
    cntidx := s.counterIdx (s.fld F.CIP_SA_CNTIDX_COUNTER 0)
    key := (s.reg .CIP_SA_KEY 0).setWidth 256 ||| (s.reg .CIP_SA_KEY 1).setWidth 256 <<< 64 |||
      (s.reg .CIP_SA_KEY 2).setWidth 256 <<< 128 ||| (s.reg .CIP_SA_KEY 3).setWidth 256 <<< 192
    salt := (s.reg .CIP_SA_SALT_0 0).setWidth 96 ||| (s.reg .CIP_SA_SALT_1 0).setWidth 96 <<< 32 }

/-- Every SA is zeroed (R359, R372). -/
def zeroize (s : State) : State := { s with sas := [] }

/-- Sets a staging register to what an SA holds; a value that waits there is gone. -/
def stageSa (s : State) (r : Reg) (v : Nat) : State := (s.setReg r 0 (BitVec.ofNat 64 v)).dropPend r 0 (~~~ 0)

/-- CIP_SA_CFG as an SA shows it. -/
def saCfg (a : Sa) : Nat :=
  a.kind + 2 ^ 2 * b2n a.tx + 2 ^ 3 * b2n a.esn + 2 ^ 4 * b2n a.k256 + 2 ^ 5 * b2n a.replay + 2 ^ 6 * b2n a.failPass +
    2 ^ 16 * a.window + 2 ^ 32 * a.trussMask.toNat

/-- CIP_SA_STATE of an SA. -/
def saState (a : Sa) : Nat := a.state + 4 * b2n a.softHit + 8 * b2n a.fw

end State

/-! ### The commands -/

/-- SA_INSTALL (R359, R360): the staged SA becomes VALID if the selected SA is EMPTY; key and salt staging are zeroed. -/
def execSaInstall (q : Seq) (s : State) : Out3 := .next <| s.onReg .CIP_SA_CMD 0 (cmdWord 1 q) fun s =>
  if (s.sa s.selSa).state ≠ 0 then s.saEnd q 2
  else
    let s := (State.saStaging.foldl (fun u r => u.epoch .install r.1 r.2) s).epoch .installOrSoft .CIP_SA_SOFT 0
    let s := s.setSa s.selSa s.stagedSa
    (State.saSecret.foldl (fun u r => u.setReg r.1 r.2 0) s).saEnd q 0

/-- SA_DELETE (R359, R360): a frame of the model is never between two of its steps, so none is begun under the SA. -/
def execSaDelete (q : Seq) (s : State) : Out3 := .next <| s.onReg .CIP_SA_CMD 0 (cmdWord 2 q) fun s =>
  if (s.sa s.selSa).state = 0 then s.saEnd q 3 else (s.setSa s.selSa {}).saEnd q 0

/-- SA_READ (R360): loads the staging registers, never key or salt. -/
def execSaRead (q : Seq) (s : State) : Out3 := .next <| s.onReg .CIP_SA_CMD 0 (cmdWord 3 q) fun s =>
  let a := s.sa s.selSa
  (((((s.stageSa .CIP_SA_CFG (State.saCfg a)).stageSa .CIP_SA_SPI a.spi.toNat).stageSa .CIP_SA_PN a.pn).stageSa .CIP_SA_SOFT
    a.soft).stageSa .CIP_SA_CNTIDX a.cntidx).saEnd q 0

/-- SET_SOFT (R359, R360). -/
def execSetSoft (q : Seq) (s : State) : Out3 := .next <| s.onReg .CIP_SA_CMD 0 (cmdWord 4 q) fun s =>
  if !(s.sa s.selSa).valid then s.saEnd q 3
  else
    let s := s.epoch .installOrSoft .CIP_SA_SOFT 0
    (s.setSa s.selSa { s.sa s.selSa with soft := (s.reg .CIP_SA_SOFT 0).toNat, softHit := false }).saEnd q 0

/-- ZEROIZE_ALL (R359, R360). -/
def execZeroizeAll (q : Seq) (s : State) : Out3 := .next <| s.onReg .CIP_SA_CMD 0 (cmdWord 5 q) fun s => s.zeroize.saEnd q 0

/-! ### Raw blocks and key loads (R369, R370, R422) -/

/-- A raw block operation among the operations that a thread has outstanding. -/
def OutOp.isAes (o : OutOp) : Bool := match o.op with | .aes .. => true | _ => false

/-- AES_RESULT (R369, R425): the raw unit of the thread's Pier returns the block, or the thread takes CIPHER. Results of one thread
return in the order of issue: one that an earlier raw operation of the thread precedes does not return yet. -/
def execAesResult (n : ThreadId) (k : Fin 64) (c : CipFault) (s : State) : Out3 := .next <|
  match (s.thr n.val).ops[k.val]? with
  | some o =>
    match o.op with
    | .aes i dec hi lo rd =>
      if ((s.thr n.val).ops.take k.val).any OutOp.isAes then s
      else
       let s := s.takeOp n.val k.val
       let a := s.sa i.toNat
       let (bad, s) := if a.valid && a.kind == 2 then s.cipCheck c i.toNat (10 + n.val / 192) else (true, s)
       if bad || !a.trussMask.getLsbD (n.val / 64) then s.retExc n.val o .cipher
       else
        let block := toBytesLE 8 lo.toNat ++ toBytesLE 8 hi.toNat
        let out := if dec then aesDecrypt a.keyBytes block else aesEncrypt a.keyBytes block
        (s.retReg n.val o rd (BitVec.ofNat 64 (fromBytesLE (out.take 8)))).retReg n.val o (rd + 1)
          (BitVec.ofNat 64 (fromBytesLE (out.drop 8)))
    | _ => s
  | none => s

/-- SA `i` lies in the key window of Truss `t`. -/
def State.inRawWin (s : State) (t i : Nat) : Bool :=
  decide (s.fld F.CIP_RAW_WIN_BASE t ≤ i ∧ i < s.fld F.CIP_RAW_WIN_BASE t + s.fld F.CIP_RAW_WIN_COUNT t)

/-- KEYLD_RESULT (R370, R422): installs or deletes a RAW SA within the Truss's window. -/
def execKeyldResult (n : ThreadId) (k : Fin 64) (s : State) : Out3 := .next <|
  match (s.thr n.val).ops[k.val]? with
  | some o =>
    match o.op with
    | .keyld install i k256 key rd =>
      let t := n.val / 64
      let s := (s.takeOp n.val k.val).epoch .keyLoad .CIP_RAW_WIN t
      let a := s.sa i.toNat
      let say (u : State) (code : Nat) : State := u.retReg n.val o rd (BitVec.ofNat 64 code)
      if !s.inRawWin t i.toNat || (a.state != 0 && a.kind != 2) then say s 4
      else if install then
        if a.state ≠ 0 then say s 2
        else say (s.setSa i.toNat { state := 1, kind := 2, k256 := k256, trussMask := (1 : BitVec 12) <<< t, pn := 1, fw := true
                                    key := BitVec.ofNat 256 (fromBytesLE (key.take (if k256 then 32 else 16))) }) 0
      else if a.state = 0 then say s 3
      else say (s.setSa i.toNat {}) 0
    | _ => s
  | none => s

end Sys2Proof.Machine
end

