-- ==== Sys2Proof/Machine/TableCmd.lean ====
section
/-!
DEFINITION. The commands of the tables and of the ternary classifier: the command ring (R239–R241), TBL's return (R419), the
event ring's registers, the sweeper (R244–R246), flow-cache invalidation, and the rule commands (R202).
-/

namespace Sys2Proof.Machine

namespace State

/-! ### The command ring -/

def trun (s : State) (p : Nat) : TblRun := SMap.get {} s.tblRun p
def setTrun (s : State) (p : Nat) (x : TblRun) : State := { s with tblRun := SMap.put {} s.tblRun p x }

def cmdqSize (s : State) (p : Nat) : Nat := 2 ^ s.fld F.TBL_CMDQ_CTL_LOG2_SIZE p
def cmdqAddr (s : State) (p : Nat) : Nat :=
  s.fld F.TBL_CMDQ_BASE_BASE p * 256 + 32 * (s.fld F.TBL_CMDQ_STATUS_HEAD p % s.cmdqSize p)

/-- The table engine fetches no descriptor between Stop and Resume, in FAILED, or in the safe state (R241, R469). -/
def cmdqHeld (s : State) : Bool := s.qeStopped

/-- The ring stops (R241): HEAD is kept. -/
def cmdqStop (s : State) (p : Nat) : State := s.depFail (.tblRing p) 0 0

/-- Reads the descriptor at HEAD, if the ring is enabled and being examined and nothing is in progress (R239, R250). -/
def cmdqFetch (s : State) (p : Nat) : State :=
  let x := s.trun p
  if !s.flag F.TBL_CMDQ_CTL_EN p || s.flag F.TBL_CMDQ_STATUS_STOPPED p || s.cmdqHeld || !x.examining || x.waiting || x.desc.isSome then s
  else
    (s.setTrun p { examining := true, waiting := true, addr := s.cmdqAddr p }).runJob
      { fn := .mf, span := none, dep := .tblRing p, write := false, parts := [{ addr := s.cmdqAddr p, len := 32 }] }

/-- The examination goes on after a fetch or a command: at the next descriptor if `more`, or if the doorbell was written in the
meantime, and not with EN = 0 (R239, R250). -/
def cmdqNext (s : State) (p : Nat) (more : Bool) : State :=
  (s.setTrun p { examining := s.flag F.TBL_CMDQ_CTL_EN p && (more || (s.trun p).rung) }).cmdqFetch p

/-- The table engine of the Pier neither completes a command of the ring: it has no power, or its writes to the host wait (R88, R469,
R493). -/
def cmdqWaits (s : State) (p : Nat) : Bool := s.mfWaits || s.domState p != 0

/-- HOST_ADDR of a descriptor: 64-byte aligned, its low bits reserved (R237). -/
def descHost (d : BitVec 256) : Nat := descBits d 70 58 * 64

/-- A descriptor's command needs its host buffer first (R237). -/
def needsBuf (d : BitVec 256) : Bool :=
  let op := descBits d 0 8
  [2, 3, 5, 8, 9].contains op || ([1, 4, 6, 7].contains op && descBits d 14 1 == 1)

/-- Buffer bytes that a command reads: 128 for a template, 64 otherwise. -/
def bufLen (s : State) (p : Nat) (d : BitVec 256) : Nat := if s.tblKind p (descBits d 8 4) = 5 then 128 else 64

/-- Writes a descriptor back and goes on to the next (R239). Toward a link that is not Up the writes are dropped and counted (R83), and
the ring stops (R241). A command whose ring was enabled anew in the meantime leaves the new HEAD alone (log entry 119). -/
def cmdqDone (_s : State) (p : Nat) (d : BitVec 256) (a : TblAns) (e : Bool) : State :=
  let s := a.after
  let x := s.trun p
  let op := descBits d 0 8
  let d' := descSet (descSet d 12 1 0) 16 8 a.result
  let d' := if op = 3 ∨ op = 5 then descSet d' 32 32 a.index else d'
  let s := if a.data.isEmpty then s
    else (s.writeCut .mf (descHost d) a.data).foldl (fun u w => u.sendWrite .mf w.addr w.data e) s
  let s := (s.sendWrite .mf x.addr (toBytesLE 32 d'.toNat) false).setFld F.TBL_CMDQ_STATUS_BUSY p 0
  if !s.linkUp s.mgmtLink then s.cmdqStop p
  else
    let s := if x.old then s else s.setFld F.TBL_CMDQ_STATUS_HEAD p ((s.fld F.TBL_CMDQ_STATUS_HEAD p + 1) % s.cmdqSize p)
    let s := s.setFld F.TBL_CMDQ_STATUS_DONE_CNT p (s.fld F.TBL_CMDQ_STATUS_DONE_CNT p + 1)
    let s := if descBits d 13 1 = 1 then s.setEvt .TBL_EVT .TBL_EVT_EN .TBL_MSIX_VEC p 0 else s
    s.cmdqNext p (!x.old)

/-- A NOP or a command of a reserved OP, which needs nothing more, completes once it may be written back (R237, R240). -/
def cmdqNop (s : State) (p : Nat) : State :=
  match (s.trun p).desc with
  | some d =>
    if (descBits d 0 8 = 0 ∨ 10 ≤ descBits d 0 8) ∧ !s.cmdqWaits p then s.cmdqDone p d (s.tblDo p ownerMf (TblCmd.ofDesc d [] .ok)) false else s
  | none => s

/-- A fetched descriptor: OWN = 0 ends the examination; NOP and reserved OPs complete at once; others wait for their buffer and
their command (R237, R239, R240). -/
def cmdqDesc (s : State) (p : Nat) (bs : List Byte) (poisoned : Bool) : State :=
  let d := descOf bs
  let x := s.trun p
  if poisoned then s.cmdqStop p
  else if x.old || !s.flag F.TBL_CMDQ_CTL_EN p then s.cmdqNext p x.examining
  else if descBits d 12 1 = 0 then s.cmdqNext p false
  else
    let s := s.setFld F.TBL_CMDQ_STATUS_BUSY p 1
    let x := { x with rung := false, waiting := false, desc := some d }
    if needsBuf d then
      (s.setTrun p { x with waiting := true }).runJob
        { fn := .mf, span := none, dep := .tblBuf p, write := false, parts := s.readCut .mf (descHost d) (s.bufLen p d) }
    else (s.setTrun p { x with buf := some [] }).cmdqNop p

/-- The part of a descriptor's buffer at a host address arrives (R240); the command waits until all of it is in, or a part of it failed. -/
def cmdqBuf (s : State) (p addr : Nat) (bs : List Byte) (poisoned : Bool) : State :=
  let x := s.trun p
  match x.desc with
  | none => s
  | some d =>
    let got := x.got ++ [(addr - descHost d, bs)]
    if poisoned then s.setTrun p { x with waiting := false, buf := none, failed := true }
    else if (got.map fun e => e.2.length).sum < s.bufLen p d then s.setTrun p { x with got := got }
    else s.setTrun p { x with waiting := false, got := [], buf := some (got.foldl (fun l e => overlay l e.1 e.2) (List.replicate (s.bufLen p d) 0)) }

/-- The command with OP `op` at HEAD of Pier `p`'s ring is executed as the Management Function (R236, R239). -/
def cmdqRow (s : State) (p op : Nat) (r : TblRead) : State :=
  let x := s.trun p
  match x.desc with
  | none => s
  | some d =>
    if descBits d 0 8 ≠ op ∨ x.waiting ∨ s.cmdqWaits p then s
    else if x.failed then s.cmdqDone p d { result := 7, index := descBits d 32 32, after := s } false
    else match x.buf with
      | none => s
      | some b => s.cmdqDone p d (s.tblDo p ownerMf (TblCmd.ofDesc d b r)) (r == .poisoned)

/-- EN rises (R241, R250): the pending base and size apply; HEAD is kept, and examination resumes, if the ring had stopped. -/
def cmdqEnable (s : State) (p : Nat) : State :=
  if s.flag F.TBL_CMDQ_CTL_EN p then s
  else
    let was := s.flag F.TBL_CMDQ_STATUS_STOPPED p
    let s := ((s.setFld F.TBL_CMDQ_CTL_EN p 1).epoch .cmdqEn .TBL_CMDQ_BASE p).epoch .cmdqEn .TBL_CMDQ_CTL p
    let s := s.setFld F.TBL_CMDQ_STATUS_STOPPED p 0
    let x := s.trun p
    let s := s.setTrun p { x with examining := was, rung := false, old := x.waiting || x.desc.isSome }
    if was then s.cmdqFetch p else s.setFld F.TBL_CMDQ_STATUS_HEAD p 0

/-- The doorbell of the ring (R239): examination from HEAD starts, now or after the fetch or command in progress; with EN = 0 it does
nothing. -/
def cmdqRing (s : State) (p : Nat) : State :=
  if !s.flag F.TBL_CMDQ_CTL_EN p then s else (s.setTrun p { s.trun p with examining := true, rung := true }).cmdqFetch p

end State

/-- TBL_CMDQ_DB (R239): the doorbell starts examination from HEAD. -/
def execTblCmdqDb (p : Pier) (s : State) : Out3 := .next <| s.onReg .TBL_CMDQ_DB p.val 0 fun s => s.cmdqRing p.val

/-- CMDQ_ENABLE (R241, R250). -/
def execCmdqEnable (p : Pier) (s : State) : Out3 := .next <|
  s.onReg .TBL_CMDQ_CTL p.val (s.shadowed .TBL_CMDQ_CTL p.val ||| 0x100) fun s => s.cmdqEnable p.val

/-- TBL_READ (R234, R237, R240, R251): `r` is what the read of the entry meets. -/
def execTblRead (p : Pier) (r : TblRead) (s : State) : Out3 := .next (s.cmdqRow p.val 1 r)

/-- TBL_WRITE (R235, R237). -/
def execTblWrite (p : Pier) (s : State) : Out3 := .next (s.cmdqRow p.val 2 .ok)

/-- TBL_INSERT (R235, R237, R239). -/
def execTblInsert (p : PierRead) (s : State) : Out3 := .next (s.cmdqRow p.pier.val 3 p.read)

/-- TBL_DELETE (R235, R237, R239). -/
def execTblDelete (p : PierRead) (s : State) : Out3 := .next (s.cmdqRow p.pier.val 4 p.read)

/-- TBL_LOOKUP (R224, R237). -/
def execTblLookup (p : Pier) (r : TblRead) (s : State) : Out3 := .next (s.cmdqRow p.val 5 r)

/-- TBL_LOCK (R235). -/
def execTblLock (p : PierRead) (s : State) : Out3 := .next (s.cmdqRow p.pier.val 6 p.read)

/-- TBL_UNLOCK (R235). -/
def execTblUnlock (p : PierRead) (s : State) : Out3 := .next (s.cmdqRow p.pier.val 7 p.read)

/-- ROUTE_ADD (R226, R238). -/
def execRouteAdd (p : Pier) (s : State) : Out3 := .next (s.cmdqRow p.val 8 .ok)

/-- ROUTE_DEL (R226, R238). -/
def execRouteDel (p : Pier) (s : State) : Out3 := .next (s.cmdqRow p.val 9 .ok)

/-- TBL_RESULT_RETURN (R419): the thread's operation `k` runs at the table engine, with its 64-byte scratchpad buffer, and
returns. -/
def execTblResultReturn (n : ThreadId) (k : Fin 64) (r : TblRead) (s : State) : Out3 := .next <|
  match (s.thr n.val).ops[k.val]? with
  | some o =>
    match o.op with
    | .tbl desc buf rd =>
      let p := State.pierOf n.val
      if s.domState p ≠ 0 then s else
      let s := s.takeOp n.val k.val
      if s.spmBadIn p buf 64 && State.needsBuf (desc.setWidth 256) then s.retExc n.val o .poison
      else
        let a := s.tblDo p (State.ownerThread n.val) (TblCmd.ofDesc (desc.setWidth 256) (s.spmRead p buf 64) r)
        let s := if a.data.isEmpty then a.after else a.after.spmWrite p buf (a.data.take 64) (r == .poisoned)
        s.retReg n.val o rd (BitVec.ofNat 64 (a.result + 2 ^ 32 * a.index))
    | _ => s
  | none => s

/-! ### The event ring -/

/-- EVQ_ARM (R248, R250). -/
def execEvqArm (p : Pier) (s : State) : Out3 := .next <|
  s.onReg .TBL_EVQ_CTL p.val (s.shadowed .TBL_EVQ_CTL p.val ||| 0x200) fun s => s.setFld F.TBL_EVQ_STATUS_ARMED p.val 1

/-- TBL_EVQ_CI_WRITE (R149, R247): the consumer index is clamped, and events that wait go on. -/
def execTblEvqCiWrite (p : Pier) (c : BitVec 16) (s : State) : Out3 := .next <| s.onReg .TBL_EVQ_CI p.val (c.setWidth 64) fun s =>
  let pi := s.evqPi p.val
  let s := s.setFld F.TBL_EVQ_CI_CI p.val (if (pi - c).toNat ≤ s.evqSize p.val then c else pi).toNat
  s.evDrain p.val (SMap.get [] s.tblEv p.val)

/-! ### The sweeper (R244–R246) -/

namespace State

/-- HIT, AGED, STATIC of an entry, and their update. -/
def entHit (s : State) (p t i : Nat) : Bool := if s.tblKind p t = 1 then (s.flowAt p t i).hit else (s.l2At p t i).hit
def entAged (s : State) (p t i : Nat) : Bool := if s.tblKind p t = 1 then (s.flowAt p t i).aged else (s.l2At p t i).aged
def entStatic (s : State) (p t i : Nat) : Bool := if s.tblKind p t = 1 then (s.flowAt p t i).static else (s.l2At p t i).static
def setAge (s : State) (p t i : Nat) (hit aged : Bool) : State :=
  if s.tblKind p t = 1 then s.setFlow p t i { s.flowAt p t i with hit := hit, aged := aged }
  else s.setL2 p t i { s.l2At p t i with hit := hit, aged := aged }

/-- The flow-cache line of a FLOW entry gives up its HIT (R245). -/
def lineHit (s : State) (p t i : Nat) : Bool :=
  s.fcache.any fun e => e.1 / 16384 == p && e.2.any fun l => l.slot == some (t, i) && l.hit
def clearLineHit (s : State) (p t i : Nat) : State :=
  { s with fcache := s.fcache.map fun e => (e.1, e.2.map fun l =>
      if e.1 / 16384 = p ∧ l.slot = some (t, i) then { l with hit := false } else l) }

end State

/-- SWEEP_VISIT (R244–R246, R251): the sweeper visits slot `i` of table `t`, whose read meets `p.read`; a pass begins at slot 0. An absent
entry is not aged, and one that reads poisoned is left. -/
def execSweepVisit (p : PierRead) (t : Fin 15) (i : BitVec 32) (s : State) : Out3 := .next <|
  let r := p.read
  let p := p.pier.val
  let t := t.val
  let i := i.toNat
  let s := if i = 0 ∧ s.domState p = 0 then s.epoch .sweepPass .TBL_SWEEP (15 * p + t) else s
  let kind := s.tblKind p t
  if s.domState p ≠ 0 ∨ s.fld F.TBL_SWEEP_PERIOD_MS (15 * p + t) = 0 ∨ ¬ (kind = 1 ∨ kind = 2 ∨ kind = 3) ∨ s.tblSize p t ≤ i then s
  else
  let s := s.tblMeet p t i r
  if !s.entValid p t i || SMap.get false s.l2Bad (State.tkey p t i) || (r == .poisoned && kind != 2) || s.lockOf (State.tkey p t i) != 0 || s.entStatic p t i then s
  else
    let hit := s.entHit p t i || s.lineHit p t i
    let s := s.clearLineHit p t i
    if hit then s.setAge p t i false false
    else if !s.entAged p t i then s.setAge p t i false true
    else if s.flag F.TBL_EVQ_CTL_EN p && s.evqNoRoom p then s
    else
      let bytes := if kind = 1 then State.flowBytes (s.flowAt p t i) 0 else State.l2Bytes (s.l2At p t i) 0
      (s.tblEvent p 1 t i bytes).dropEnt p t i

/-- INV_ALL (R228, R250): every line of the Pier's flow cache goes. -/
def execInvAll (p : Pier) (q : Seq) (s : State) : Out3 := .next <|
  s.onReg .TBL_FC_CMD p.val (cmdWord 1 q) fun s => (s.fcClear p.val).setFld F.TBL_FC_STATUS_LAST_SEQ p.val q.toNat

/-! ### The ternary classifier (R201, R202) -/

namespace State

def ruleKey (p i : Nat) : Nat := i + 65536 * p
def ruleAt (s : State) (p i : Nat) : Rule := SMap.get {} s.rules (ruleKey p i)
def setRule (s : State) (p i : Nat) (r : Rule) : State := { s with rules := SMap.put {} s.rules (ruleKey p i) r }

/-- The staged 320 bits of CLS_RULE_KEY or CLS_RULE_MASK. -/
def staged320 (s : State) (r : Reg) (p : Nat) : BitVec 320 :=
  BitVec.ofNat 320 ((List.range 5).map fun n => (s.reg r (5 * p + n)).toNat * 2 ^ (64 * n)).sum
def stage320 (s : State) (r : Reg) (p : Nat) (v : BitVec 320) : State :=
  (List.range 5).foldl (fun u n => u.setReg r (5 * p + n) (BitVec.ofNat 64 (v.toNat / 2 ^ (64 * n)))) s

/-- A rule command ends (R534). -/
def ruleEnd (s : State) (p : Nat) (q : Seq) : State :=
  s.endCmd F.CLS_RULE_STATUS_LAST_RESULT F.CLS_RULE_STATUS_LAST_SEQ p 0 q

def selRule (s : State) (p : Nat) : Nat := s.fld F.CLS_RULE_SEL_RULE p

end State

/-- RULE_WRITE (R202): the whole rule is replaced between two lookups; the stored key is KEY AND MASK. -/
def execRuleWrite (p : Pier) (q : Seq) (s : State) : Out3 := .next <| s.onReg .CLS_RULE_CMD p.val (cmdWord 1 q) fun s =>
  let i := s.selRule p.val
  let mask := s.staged320 .CLS_RULE_MASK p.val
  let r : Rule := { key := s.staged320 .CLS_RULE_KEY p.val &&& mask, mask := mask,
                    action := BitVec.ofNat 16 (s.fld F.CLS_RULE_ACT_ACTION_ID p.val),
                    data := BitVec.ofNat 32 (s.fld F.CLS_RULE_ACT_DATA p.val), valid := s.flag F.CLS_RULE_ACT_VALID p.val }
  let s := s.setRule p.val i r
  { s with ruleBad := SMap.put false s.ruleBad (State.ruleKey p.val i) false }.ruleEnd p.val q

/-- RULE_READ (R202, R216). -/
def execRuleRead (p : Pier) (q : Seq) (s : State) : Out3 := .next <| s.onReg .CLS_RULE_CMD p.val (cmdWord 2 q) fun s =>
  let i := s.selRule p.val
  let r := s.ruleAt p.val i
  let s := (s.stage320 .CLS_RULE_KEY p.val r.key).stage320 .CLS_RULE_MASK p.val r.mask
  let s := ((s.setFld F.CLS_RULE_ACT_ACTION_ID p.val r.action.toNat).setFld F.CLS_RULE_ACT_DATA p.val r.data.toNat).setFld
    F.CLS_RULE_ACT_VALID p.val (b2n r.valid)
  let s := s.setFld F.CLS_RULE_STATUS_FAULTED p.val (b2n (SMap.get false s.ruleBad (State.ruleKey p.val i)))
  s.ruleEnd p.val q

/-- RULE_INVALIDATE (R216): VALID is cleared. -/
def execRuleInvalidate (p : Pier) (q : Seq) (s : State) : Out3 := .next <| s.onReg .CLS_RULE_CMD p.val (cmdWord 3 q) fun s =>
  let i := s.selRule p.val
  (s.setRule p.val i { s.ruleAt p.val i with valid := false }).ruleEnd p.val q

end Sys2Proof.Machine
end

