-- ==== Sys2Proof/Machine/Pass.lean ====
section
/-!
DEFINITION. Stage programs (R198–R206, R217, R225–R233, R242, R251): operands, lookups, primitives, tunnel headers, and what a
pass gathers. Shared by the ingress and egress pipelines.
-/

namespace Sys2Proof.Machine

/-- Where the stages send a frame. -/
inductive Dest where
  | deliver (span base group : Nat)
  | forward (mac queue : Nat)
  deriving DecidableEq, Repr

/-- A pass: its Pier and pipeline, the frame and its parse, the header-vector places SET_FIELD wrote, the results of lookups in
tables that the flow cache covers, and what the primitives chose. -/
structure Pass where
  p : Nat
  egress : Bool := false
  f : Pkt
  parse : Parse := {}
  wrote : List (Nat × Nat) := []
  given : List (Nat × Option Found) := []
  results : List (Nat × Option Found) := []
  used : List Nat := []
  drop : Option Nat := none
  engine : Option Nat := none
  dest : Option Dest := none
  police : Option (Nat × Nat × Bool × Bool) := none
  decap : Nat := 0
  encap : Option Nat := none
  decrypt : Option Nat := none
  encrypt : Option Nat := none

/-- The value of an operand. -/
def argVal (x : Pass) (r : Found) : Arg → Nat
  | .const v => v
  | .hvec off len => x.parse.hv off len
  | .data lo w => getBits r.data lo w
  | .counter => r.counter
  | .encap => r.encap
  | .orient => b2n r.orient
  | .ingressMac => x.f.mac
  | .tc => x.f.tc
  | .flowMark => x.f.flowMark.toNat
  | .vlan => match x.f.vlan with | some v => v.toNat | none => 0

/-- Raises the slow-path cause of a pass: ACTION goes before MISS (R204). -/
def Pass.divert (x : Pass) (cause : Nat) : Pass :=
  { x with engine := some (if x.engine = some 4 then 4 else cause) }

/-- The DELIVER of an L2 entry's delivery group, and the FORWARD of its MAC (R222). -/
def Pass.l2Dest (x : Pass) (g : Program) (kind : Nat) (dest : BitVec 16) (template : Nat) : Pass :=
  let x := if template = 0 then x else { x with encap := some template }
  match kind with
  | 1 => match g.wires.find? fun w => w.1 == dest.toNat with
    | some w => { x with dest := some (.forward dest.toNat w.2) }
    | none => { x with dest := some (.forward dest.toNat 16384) }
  | 2 => match g.groups[dest.toNat]? with
    | some d => { x with dest := some (.deliver d.1 d.2.1 d.2.2) }
    | none => { x with dest := some (.deliver 4096 0 1) }
  | 3 => x.divert 4
  | _ => { x with drop := some 0 }

namespace State

/-- A primitive (R199) with the result `r` of its stage's lookup; `miss` says it belongs to a miss action. -/
def prim (s : State) (x : Pass) (r : Found) (miss : Bool) (q : Prim) : State × Pass :=
  let v (a : Arg) : Nat := argVal x r a
  match q with
  | .deliver a b c => (s, { x with dest := some (.deliver (v a) (v b) (v c)) })
  | .forward a b => (s, { x with dest := some (.forward (v a) (v b)) })
  | .toEngine => (s, x.divert (if miss then 3 else 4))
  | .drop c => (s.countPair (v c) 1 x.f.len, { x with drop := some (v c) })
  | .police a b y d => (s, { x with police := some (v a, v b, y, d) })
  | .count c => (s.countPair (v c) 1 x.f.len, x)
  | .decap n => (s, { x with decap := n })
  | .encap a => (s, if v a = 0 then x else { x with encap := some (v a) })
  | .decrypt a => (s, { x with decrypt := some (v a) })
  | .encrypt a => (s, { x with encrypt := some (v a) })
  | .setField off len a =>
    let m := (toBytesBE len (v a)).zipIdx.foldl (fun m e => if off + e.2 < 256 then SMap.put 0 m (off + e.2) e.1 else m) x.parse.hvec
    (s, { x with parse := { x.parse with hvec := m }, wrote := x.wrote ++ [(off, len)] })
  | .setMark a => (s, { x with f := { x.f with mark := BitVec.ofNat 32 (v a) } })

def prims (s : State) (x : Pass) (r : Found) (miss : Bool) : List Prim → State × Pass
  | [] => (s, x)
  | q :: t =>
    let (s, x) := s.prim x r miss q
    prims s x r miss t

/-! ### Lookups -/

/-- What a FLOW entry gives (R221, R225). -/
def flowFound (e : FlowEnt) (orient : Bool) : Found :=
  { action := e.actionId.toNat, data := e.data, counter := e.counter, encap := e.encap, orient := orient }

/-- A FLOW lookup: the slot and entry that hit; the lookup sets HIT (R221). -/
def flowRead (s : State) (p t : Nat) (f : Pkt) : Option (Nat × Nat × FlowEnt) × State :=
  match s.flowFind p t (flowKey f.tuple) with
  | some i => (some (t, i, s.flowAt p t i), s.setFlow p t i { s.flowAt p t i with hit := true })
  | none => (none, s)

/-- An L2 lookup, which sets HIT. -/
def l2Read (s : State) (p t : Nat) (mac : BitVec 48) (fid : BitVec 16) : Option Found × State :=
  match s.l2Find p t mac fid with
  | some i =>
    let e := s.l2At p t i
    (some { dest := some (e.destKind, e.dest), encap := e.encap }, s.setL2 p t i { e with hit := true })
  | none => (none, s)

/-- An LPM lookup (R226). -/
def lpmRead (s : State) (p t : Nat) (vrf : BitVec 16) (v6 : Bool) (addr : Nat) : Option Found :=
  (s.lpmFind p t vrf v6 addr).map fun r => { action := r.actionId.toNat, data := r.data }

/-- A ternary lookup in rule set `n` (R201, R217): rules with an uncorrected error match nothing, and each is counted. -/
def ternRead (s : State) (p n : Nat) (key : BitVec 320) : Option Found × State :=
  let lo := s.fld F.CLS_SET_BASE (8 * p + n)
  let hi := lo + s.fld F.CLS_SET_COUNT (8 * p + n)
  let mine (k : Nat) : Bool := decide (65536 * p + lo ≤ k ∧ k < 65536 * p + hi)
  let bad := (s.ruleBad.filter fun e => mine e.1).length
  let hit := List.find? (fun (e : Nat × Rule) => mine e.1 && e.2.valid && !(SMap.get false s.ruleBad e.1) && (key &&& e.2.mask) == e.2.key) s.rules
  (hit.map fun e => { action := e.2.action.toNat, data := e.2.data.setWidth 64 }, s.bump F.CLS_STORE_ERR_UE p bad)

/-- The 320-bit key of a ternary lookup: header-vector bytes, the first ones highest. -/
def ternKey (x : Pass) (ks : List (Nat × Nat)) : BitVec 320 :=
  BitVec.ofNat 320 (ks.foldl (fun a k => a * 2 ^ (8 * k.2) + x.parse.hv k.1 k.2) 0)

/-- Hardware learning (R242) of a source MAC and FID that an L2_DIE lookup marks LEARN. -/
def learn (s : State) (x : Pass) (t : Nat) (src : BitVec 48) (fid : BitVec 16) : State :=
  let p := x.p
  if s.flag F.TBL_INFO_RLD_TABLES p || !s.flag F.TBL_LEARN_CFG_EN p then s
  else
    let mine := BitVec.ofNat 16 x.f.mac
    let used := SMap.get 0 s.learnUsed p
    let store (u : State) (i : Nat) (e : L2Ent) (type : Nat) (cnt : Fld) : State :=
      if 256 * u.fld F.TBL_LEARN_CFG_BURST p < used + 256 then u.bump F.TBL_LEARN_DROP_RATE p
      else
        let u := { u with learnUsed := SMap.put 0 u.learnUsed p (used + 256) }.setL2 p t i e
        (u.bump cnt p).tblEvent p type t i (l2Bytes e (u.lockOf (tkey p t i)))
    match s.l2Find p t src fid with
    | some i =>
      let e := s.l2At p t i
      if e.static || (e.destKind == 1 && e.dest == mine) then s
      else if s.lockOf (tkey p t i) ≠ 0 then s.bump F.TBL_LEARN_DROP_FULL p
      else store s i { e with destKind := 1, dest := mine } 3 F.TBL_LEARN_CNT_MOVED
    | none =>
      if 256 * s.fld F.TBL_LEARN_CFG_BURST p < used + 256 then s.bump F.TBL_LEARN_DROP_RATE p
      else
        match (s.l2Bucket p t src fid).find? fun i => !(s.l2At p t i).valid && !(SMap.get false s.l2Bad (tkey p t i)) &&
            decide (s.lockOf (tkey p t i) = 0) with
        | none => s.bump F.TBL_LEARN_DROP_FULL p
        | some i => store s i { mac := src, fid := fid, valid := true, hit := true, learned := true, destKind := 1, dest := mine } 2
            F.TBL_LEARN_CNT_LEARNED

/-- The lookup of stage `k` (R198): its result, taken from the line or the returned reads where they hold it. `bad` lists the
stages whose table read was poisoned, which is a miss (R251); a FLOW result's ORIENT is the frame's own (R225); the capture names the first slot of the key, and a free value for a trie. -/
def lookup (s : State) (x : Pass) (k : Nat) (bad : List Nat) (l : Lookup) : State × Pass × Option Found :=
  let p := x.p
  let zero : Found := {}
  let covered (t : Nat) (line : Nat × State) (read : State → Option Found × State) : State × Pass × Option Found :=
    match x.given.find? fun e => e.1 == k with
    | some e => (s, { x with results := x.results ++ [e] }, e.2)
    | none =>
      let (r, s) := if bad.contains k then (none, line.2.tblPoison p t line.1) else read s
      (s, { x with results := x.results ++ [(k, r)], used := x.used ++ [t] }, r)
  match l with
  | .flow t =>
    match x.f.reinject with
    | some (a, d) => (s, x, some { action := a.toNat, data := d })
    | none => (covered t (s.slotA p t (flowKey x.f.tuple), s) fun s =>
      let (r, s) := s.flowRead p t x.f
      (r.map fun e => flowFound e.2.2 x.f.srcHi, s)) |> fun a => (a.1, a.2.1, a.2.2.map fun g => { g with orient := x.f.srcHi })
  | .l2 t m fd ln =>
    let fid := BitVec.ofNat 16 (argVal x zero fd)
    let mac := BitVec.ofNat 48 (argVal x zero m)
    if s.tblKind p t = 2 then
      let (r, s) := s.l2Read p t mac fid
      let s := match ln, x.egress with | some a, false => s.learn x t (BitVec.ofNat 48 (argVal x zero a)) fid | _, _ => s
      (s, x, r)
    else covered t (s.slotA p t (l2Key mac fid), s) fun s => s.l2Read p t mac fid
  | .lpm t vrf addr v6 =>
    let vr := BitVec.ofNat 16 (argVal x zero vrf)
    let a := argVal x zero addr
    covered t (s.fresh.1.toNat % 2 ^ 32, s.fresh.2) fun s => (s.lpmRead p t vr v6 a, s)
  | .ternary n ks =>
    let (r, s) := s.ternRead p n.val (ternKey x ks)
    (s, x, r)

/-- One stage: the lookup, its base primitives, and those of the result's action or of a miss. -/
def stage (s : State) (x : Pass) (k : Nat) (bad : List Nat) (g : Program) (st : Stage) : State × Pass :=
  match st.lookup with
  | none => s.prims x {} false st.base
  | some l =>
    let (s, x, r) := s.lookup x k bad l
    let f := r.getD {}
    let (s, x) := s.prims x f false st.base
    match r with
    | none => s.prims x f true st.miss
    | some f =>
      let x := match f.dest with
        | some (kd, d) => x.l2Dest g kd d f.encap
        | none => x
      match st.hit.find? fun e => e.1 == f.action with
      | some e => s.prims x f false e.2
      | none => (s, x)

/-- Every stage of a program in order. -/
def stages (s : State) (x : Pass) (bad : List Nat) (g : Program) : Nat → List Stage → State × Pass
  | _, [] => (s, x)
  | k, st :: t =>
    let (s, x) := s.stage x k bad g st
    stages s x bad g (k + 1) t

/-- The stages of a program and the access they make to the scratchpad: a refused one drops the frame, counted as a stage-program
DROP (R435). -/
def stagesSpm (s : State) (x : Pass) (bad : List Nat) (g : Program) (a : Option PipeAccess) : State × Pass :=
  let (s, x) := s.stages x bad g 0 g.stages
  match a with
  | none => (s, x)
  | some a =>
    let (s, refused) := s.pipeAccess x.p a
    if refused && x.drop.isNone then (s.countPair a.ctr 1 x.f.len, { x with drop := some a.ctr }) else (s, x)

/-! ### Errors that a pass meets (R214, R217, R251) -/

def prsSrc (p : Nat) : Nat := 0x40 + 16 * p

/-- Captures a parse error if VALID is 0 (R196, R210). -/
def prsCapture (s : State) (x : Pass) (cause : Nat) : State :=
  if s.flag F.PRS_ERR_CAPTURE_VALID x.p then s
  else
    let r := x.parse
    let q := match x.f.txq with | some q => q | none => 0
    s.setReg .PRS_ERR_CAPTURE x.p (BitVec.ofNat 64 (cause + 2 ^ 3 * b2n x.egress + 2 ^ 4 * x.f.mac +
      2 ^ 8 * r.node + 2 ^ 16 * r.offset + 2 ^ 26 * r.level + 2 ^ 28 * r.headers + 2 ^ 33 * q + 2 ^ 63))

/-- An error of the graph store. -/
def graphEcc (s : State) (x : Pass) (e : Ecc) : State :=
  match e with
  | .ok => s
  | .corrected => (s.bump F.PRS_STORE_ERR_CE x.p).raise (prsSrc x.p) 0x02 (s.reg .PRS_ERR_CAPTURE x.p).toNat
  | .uncorrected =>
    let s := (s.bump F.PRS_STORE_ERR_UE x.p).prsCapture x 7
    s.raise (prsSrc x.p) 0x01 (s.reg .PRS_ERR_CAPTURE x.p).toNat

/-- An error of a rule's store. -/
def ruleEcc (s : State) (p : Nat) (i : Nat) (e : Ecc) : State :=
  match e with
  | .ok => s
  | .corrected => (s.bump F.CLS_STORE_ERR_CE p).raise (0x41 + 16 * p) 0x02 i
  | .uncorrected =>
    let s := { s with ruleBad := SMap.put false s.ruleBad (ruleKey p i) true }
    let s := if s.flag F.CLS_ERR_CAPTURE_VALID p then s else s.setReg .CLS_ERR_CAPTURE p (BitVec.ofNat 64 (i + 2 ^ 31))
    s.raise (0x41 + 16 * p) 0x01 i

/-- What the stores of a pipeline give, but for the flow-cache line and the graph. -/
def passEcc (s : State) (p : Nat) (e : PassEcc) : State :=
  let s := match e.rule with | some (i, c) => s.ruleEcc p i.toNat c | none => s
  let s := match e.l2 with | some (t, i, c) => s.l2Ecc p t.val i c | none => s
  match e.encap with | some (t, i, c) => s.encapEcc p t.val i c | none => s

/-! ### Tunnel headers (R231–R233) -/

/-- A UDP checksum over IPv6 for a header at `l4` whose outer IP header stands at `l3`. -/
def udp6Sum (bs : List Byte) (l3 l4 : Nat) : Nat :=
  let seg := bs.drop l4
  let c := 0xFFFF - onesSum ((bs.drop (l3 + 8)).take 32 ++ toBytesBE 4 seg.length ++ [0, 0, 0, 17] ++ seg)
  if c = 0 then 0xFFFF else c

/-- The bytes of template `e` fixed for a frame whose bytes follow it, with identification `id` (R231). -/
def encapBuild (e : EncapT) (hash : BitVec 32) (id : BitVec 16) (inner : List Byte) : List Byte :=
  let bs := e.header ++ inner
  let l3 := e.l3
  if e.type = 4 then bs
  else
    let bs :=
      if (e.type = 1 ∨ e.type = 2) ∧ e.l4 ≠ 0 then
        let bs := overlay bs e.l4 (toBytesBE 2 (0xC000 + hash.toNat / 2 ^ 16 % 2 ^ 14))
        let bs := overlay bs (e.l4 + 4) (toBytesBE 2 (bs.length - e.l4))
        overlay bs (e.l4 + 6) [0, 0]
      else bs
    if e.ipv6 then
      let bs := overlay bs (l3 + 4) (toBytesBE 2 (bs.length - l3 - 40))
      if (e.type = 1 ∨ e.type = 2) ∧ e.l4 ≠ 0 ∧ e.udpCsum then overlay bs (e.l4 + 6) (toBytesBE 2 (udp6Sum bs l3 e.l4)) else bs
    else
      let bs := overlay bs (l3 + 2) (toBytesBE 2 (bs.length - l3))
      let bs := overlay bs (l3 + 4) (toBytesBE 2 id.toNat)
      ip4Fix bs l3 (4 * ((bs.getD l3 0).toNat % 16))

/-- The header vector's changes written back to the frame. -/
def rewritten (x : Pass) : List Byte :=
  let hitBy (c : Nat × Nat × Nat) : Bool := x.wrote.any fun w => decide (c.2.2 < w.1 + w.2 ∧ w.1 < c.2.2 + (c.2.1 + 7) / 8)
  deparse { x.parse with copied := x.parse.copied.filter hitBy } x.f.bytes

/-- The table and entry of template `i` of a Pier, whose ENCAP tables count their templates one after the other. -/
def encapPlace (s : State) (p : Nat) : List Nat → Nat → Nat × Nat
  | [], i => (15, i)
  | t :: ts, i =>
    if s.tblKind p t ≠ 5 then encapPlace s p ts i
    else if i < s.tblSize p t then (t, i) else encapPlace s p ts (i - s.tblSize p t)

/-- Rewrites a frame: SET_FIELD, then the checksums that `csum` asks for (R156), then DECAP, then ENCAP (R231); a missing template gives INTERNAL (R251), and a frame above `max` with
its FCS is refused with LENGTH (R233). -/
def tunnel (s : State) (x : Pass) (csum : Bool) (max : Option Nat) : Except Nat (List Byte) × State :=
  let bs := if csum then csumInsert (rewritten x) else rewritten x
  let (bs, s) :=
    if x.decap = 0 then (bs, s)
    else match x.parse.levels[x.decap]? with
      | some o => (bs.drop o, s)
      | none => (bs, s.bump F.TBL_ACT_CNT_DECAP_SKIP x.p)
  match x.encap with
  | none => (.ok bs, s)
  | some k =>
    let (t, i) := s.encapPlace x.p (List.range 15) k
    if SMap.get false s.encapBad (tkey x.p t i) then (.error 14, s)
    else
      let e := s.encapAt x.p t i
      let id := SMap.get 0 s.ipId x.p
      let s := if e.type ≠ 4 ∧ !e.ipv6 then { s with ipId := SMap.put 0 s.ipId x.p (id + 1) } else s
      let bs := encapBuild e x.f.hash id bs
      match max with
      | some m => if m < bs.length + 4 then (.error 2, s.bump F.TBL_ACT_CNT_ENCAP_LEN x.p) else (.ok bs, s)
      | none => (.ok bs, s)

/-- Policing of a pass (R203): the colour, or none if the frame is dropped, which RED_DROPS counts whatever its colour (log entry 59). -/
def passPolice (s : State) (x : Pass) : Option Nat × State :=
  match x.police with
  | none => (some x.f.colour, s)
  | some (n, pre, yd, rd) =>
    let (c, s) := s.police x.p (n % 4096) x.f.len (min pre 2)
    let s := if c = 1 then s.bump F.CLS_POLICE_CNT_YELLOW x.p else s
    if c = 1 ∧ yd ∨ c = 2 ∧ rd then (none, s.bump F.CLS_POLICE_CNT_RED_DROPS x.p)
    else (some c, s)

end State
end Sys2Proof.Machine
end

