-- ==== Sys2Proof/Machine/Ingress.lean ====
section
/-!
DEFINITION. The ingress pipeline (R33–R36, R191, R196, R200, R203–R210, R227–R229, R263, R363): head acceptance, the flow cache and
the miss buffer, the final decision, and the returns of decrypted frames.
-/

namespace Sys2Proof.Machine

namespace State

/-! ### Final decision -/

/-- The port's effective service mode (R207, R208). -/
def effMode (s : State) (port : Nat) : Nat :=
  let st := s.fld F.CFG_STATUS_STATE 0
  if st = 3 ∨ st = 4 ∨ st = 5 then 4 else s.fld F.MAC_DIST_SVC_MODE port

/-- A frame goes to the HOST queue of work queue `q` on its Pier, or is dropped where the image has none (R278). -/
def toHost (s : State) (p q : Nat) (f : Pkt) : State :=
  match s.hostQueue p q with
  | some h => s.tmsPut p h { f with rxq := some q }
  | none => s.dropPkt f 12

/-- The port's default action (R209). -/
def defAction (s : State) (p port : Nat) (f : Pkt) : State :=
  let q := s.fld F.MAC_DIST_SVC_DEF_QUEUE port
  if s.flag F.MAC_DIST_SVC_DEF_ACTION port && (s.queue q).used && (s.queue q).kind == 1 then
    (s.bump F.MAC_DIST_DEF_CNT_QUEUED port).toHost p q { f with span := some (s.queue q).span }
  else (s.bump F.MAC_DIST_DEF_CNT_DROPPED port).dropPkt f 12

/-- The Truss of a Pier to which a slow-path frame goes (R206). -/
def spTruss (s : State) (p cause : Nat) (hash : BitVec 32) : Nat :=
  let mask := getBits (s.reg .CLS_SP_TARGET p) (3 * cause) 3
  let cs := (List.range 3).filter fun t => mask / 2 ^ t % 2 = 1
  cs.getD (hash.toNat / 256 % 256 * cs.length / 256) 0

/-- The slow path of a cause (R204–R206, R421). -/
def slowPath (s : State) (x : Pass) (cause : Nat) : State :=
  let p := x.p
  let f := { x.f with cause := cause, parse := x.parse.word, hvec := (List.range 256).map fun i => SMap.get 0 x.parse.hvec i }
  if f.reinject.isSome then (s.bump F.CLS_SP_DROP_COUNT (5 * p + cause)).dropPkt f 12
  else
    let port := f.mac / 8
    if s.effMode port ≠ 0 then s.defAction p port f
    else if s.fld F.CLS_SP_TOKENS_TOKENS p < 256 then (s.bump F.CLS_SP_DROP_COUNT (5 * p + cause)).dropPkt f 12
    else
      let s := (s.setFld F.CLS_SP_TOKENS_TOKENS p (s.fld F.CLS_SP_TOKENS_TOKENS p - 256)).bump F.CLS_SP_ADMIT_CNT_COUNT p
      match (s.pierImg p).slow.getD (s.spTruss p cause f.hash) none with
      | some q => s.tmsPut p q f
      | none => s.dropPkt f 12

/-- The RX queue of a DELIVER (R191). -/
def deliverQueue (s : State) (span base group : Nat) (hash : BitVec 32) : Option Nat :=
  let n := clampN 1 256 group
  match s.queueNo span (base + hash.toNat / 65536 * n / 65536) with
  | some q => if (s.queue q).kind = 1 then some q else none
  | none => none

/-- Writes a frame to its chain, FCS after it (R267), with the poison marks of R30. -/
def storeFrame (s : State) (f : Pkt) : State :=
  match f.head with
  | some h => s.chainStore h 0 (f.bytes ++ f.fcs) f.poisoned
  | none => s

/-- The final decision of a pass that met no diversion and no drop (R191, R203, R276, R278, R363). -/
def finish (s : State) (x : Pass) : State :=
  let p := x.p
  match x.decrypt, x.f.decrypted with
  | some i, false => { s with espLane := SMap.put [] s.espLane p (SMap.get [] s.espLane p ++ [{ x.f with saFrame := some (BitVec.ofNat 16 i) }]) }
  | dec, _ =>
    let s := if dec.isSome then s.bump F.CIP_FORMAT_CNT_COUNT 0 else s
    match s.passPolice x with
    | (none, s) => s.dropPkt x.f 12
    | (some c, s) =>
      let (max, s) := match x.dest with
        | some (.forward m _) =>
          let s := s.epoch .macRxOrChecked .MAC_CTL m
          (some (s.maxFrame m), s)
        | _ => (none, s)
      match s.tunnel x false max with
      | (.error code, s) => s.dropPkt x.f code
      | (.ok bs, s) =>
        let f := if bs = x.f.bytes then x.f else x.f.withBytes bs
        let f := { f with colour := c }
        let s := s.storeFrame f
        match x.dest with
        | some (.deliver a b n) =>
          match s.deliverQueue a b n f.hash with
          | some q => s.toHost p q { f with span := some a }
          | none => (s.bump F.CLS_MISROUTE_CNT_COUNT p).dropPkt f 12
        | some (.forward m q) =>
          if s.isWire p q m then { s with egress := SMap.put [] s.egress p (SMap.get [] s.egress p ++ [{ f with tmsq := some q }]) }
          else (s.bump F.CLS_MISROUTE_CNT_COUNT p).dropPkt f 12
        | none => s.dropPkt f 12

/-- A packet is classified on a port (R208, R212): the waiting fields of MAC_DIST_SVC take effect, MODE only where the port's effective
mode is not SWAP. -/
def portEpoch (s : State) (port : Nat) : State :=
  if s.effMode port = 4 then s.applyMask .MAC_DIST_SVC port (~~~0x3) else s.epoch .portPacket .MAC_DIST_SVC port

/-- A whole ingress pass of a frame with its parse and, where they are in hand, the results of covered lookups; `bad` lists stages
whose read was poisoned. A FRAG packet to which the stages apply DROP is dropped (R200, log 121). -/
def runPass (s : State) (x : Pass) (bad : List Nat) (e : PassEcc) : State × Pass :=
  let s := s.epoch .pierPacket .CLS_SP_TARGET x.p
  let s := if x.f.reinject.isSome then s else s.portEpoch (x.f.mac / 8)
  let (l3, l4) := csumOk x.f.bytes
  let f := { x.f with l3ok := l3, l4ok := l4 }
  let r := parseFrame (s.pierImg x.p).ingress f
  let x := { x with f := f, parse := r }
  let s := s.graphEcc { x with parse := {} } e.graph
  if e.graph == .uncorrected then (s.dropPkt f 14, x)
  else
    let s := if r.frag then s.bump F.PRS_FRAG_CNT_COUNT x.p else s
    if r.cause ≠ 0 then
      let s := (s.bump (if r.cause = 1 then F.PRS_CNT_DEPTH else F.PRS_CNT_LEN) x.p).prsCapture x r.cause
      ((s.storeFrame f).slowPath x r.cause, x)
    else
      let s := s.passEcc x.p e
      let g := (s.pierImg x.p).prog
      let (s, x) := s.stagesSpm x bad g e.spm
      if x.drop.isSome then (s.dropPkt x.f 12, x)
      else if r.frag then ((s.storeFrame x.f).slowPath x 0, x)
      else match x.engine with
        | some c => ((s.storeFrame x.f).slowPath x c, x)
        | none => (s.finish x, x)

/-! ### The flow cache and the miss buffer (R227–R229) -/

/-- A line is current: no table it used has a newer generation (R228). -/
def lineFresh (s : State) (p : Nat) (l : FcLine) : Bool :=
  l.gens.all fun g => SMap.get 0 s.gens (tabKey p g.1) == g.2

/-- Puts a line first in its set; the least recently used way makes room (R229, R245). -/
def fcFill (s : State) (p : Nat) (l : FcLine) : State :=
  let k := fcSet p l.hash
  let others := (s.fcLines k).filter fun m => !(m.hash == l.hash && m.key == l.key)
  (((others.drop 3).foldl (fun u m => u.lineBack p m) s)).setLines k (l :: others.take 3)

/-- An error in the line of a frame (R251, R252): four lines to a set, in which the spec numbers no way (log entry 89). -/
def lineEcc (s : State) (p : Nat) (f : Pkt) (e : Ecc) : State :=
  let k := fcSet p f.hash
  let (w, u) := s.fresh
  let line := 4 * (k % 16384) + w.toNat % 4
  match e with
  | .ok => s
  | .corrected => u.tblCe p
  | .uncorrected =>
    let s := u.setLines k ((u.fcLines k).filter fun m => !(m.hash == f.hash && m.key == flowKey f.tuple))
    let s := (s.bump F.TBL_ERR_CNT_STORE_UE p).tblCapture p 15 3 line
    s.raise (tblSrc p) 0x01 (s.reg .TBL_ERR_CAPTURE p).toNat

/-- The FLOW table whose result the stages take first. -/
def flowTable (g : Program) : Option Nat :=
  g.stages.findSome? fun st => match st.lookup with | some (.flow t) => some t | _ => none

/-- A head enters the miss buffer (R229). -/
def park (s : State) (p : Nat) (f : Pkt) : State :=
  let key := flowKey f.tuple
  let follow := (s.parked p).any fun h => h.pkt.hash == f.hash && flowKey h.pkt.tuple == key
  let (fl, s) :=
    if follow then (none, s)
    else match flowTable (s.pierImg p).prog with
      | some t => s.flowRead p t f
      | none => (none, s)
  let s := s.setParked p (s.parked p ++ [{ pkt := f, follow := follow, flow := fl }])
  let n := (s.parked p).length
  if s.fld F.TBL_MISS_STATUS_PEAK p < n then s.setFld F.TBL_MISS_STATUS_PEAK p n else s

/-- A head enters the pipeline: through the flow cache, or with its injected result (R227, R421). -/
def enter (s : State) (p : Nat) (f : Pkt) (e : PassEcc) : State :=
  if f.reinject.isSome then (s.runPass { p := p, f := f } (e.bad.map Fin.val) e).1
  else
    let s := s.lineEcc p f e.line
    let k := fcSet p f.hash
    match (s.fcLines k).find? fun l => l.hash == f.hash && l.key == flowKey f.tuple && s.lineFresh p l with
    | some l =>
      let s := (s.bump F.TBL_FC_CNT_HITS p).fcFill p { l with hit := true }
      (s.runPass { p := p, f := f, given := l.results } [] e).1
    | none => (s.bump F.TBL_FC_CNT_MISSES p).park p f

/-! ### Head acceptance -/

/-- The pipeline takes no head: its Pier is not powered, the device is in Swap, FAILED or SAFE (R56, R59, R469, R493). -/
def ingressHeld (s : State) (p : Nat) : Bool :=
  s.dev != .running || s.isSafe || s.fld F.CFG_STATUS_STATE 0 == 4 || s.fld F.CFG_STATUS_STATE 0 == 5 || s.pierPwr p != 0

def fifoOf (s : State) (port p : Nat) : List Pkt := SMap.get [] s.fifo (4 * port + p)
def setFifo (s : State) (port p : Nat) (l : List Pkt) : State := { s with fifo := SMap.put [] s.fifo (4 * port + p) l }
def holdOf (s : State) (port : Nat) : List Pkt := SMap.get [] s.holdQ port
def setHold (s : State) (port : Nat) (l : List Pkt) : State := { s with holdQ := SMap.put [] s.holdQ port l }

/-- The head of a port's frames for a Pier, hashed, and the state without it: the input FIFO's; or, outside a swap, the hold queue's
first frame where its Pier is this one (R54, R56). -/
def portHead (s : State) (p port : Nat) : Option (Pkt × State) :=
  match s.fifoOf port p with
  | f :: rest => some (f, s.setFifo port p rest)
  | [] =>
    if s.swapping then none
    else match s.holdOf port with
      | f :: rest =>
        let g := if f.tuple.isEmpty then s.hashed f else f
        if s.pierFor g.hash = p then some (g, s.setHold port rest) else none
      | [] => none

/-- Puts a head back in front of where `portHead` took it. -/
def putHead (s : State) (p port : Nat) (f : Pkt) : State :=
  match s.fifoOf port p with
  | _ :: rest => s.setFifo port p (f :: rest)
  | [] => s.setHold port (f :: (s.holdOf port).drop 1)

/-- The SecY has a frame's turn before head acceptance (R317). -/
def secyFirst (s : State) (f : Pkt) : Bool := s.flag F.MAC_SECY_CTL_EN f.mac && !f.verified

/-- The account of a received frame and its pool (R263). -/
def frameAcct (s : State) (p : Nat) (f : Pkt) : Option (Nat × Nat) :=
  match (s.pierImg p).accts.getD f.tc none with
  | some a => (s.acctPool a).map fun q => (a, q)
  | none => none

/-- Where the next ingress head of Pier `p` comes from at a turn of `port`: the head that waits for its buffers, else a returned or
injected frame (source 2), else the port's. No other head is accepted while one waits (R263). -/
def acceptFrom (s : State) (p port : Nat) : Option Nat :=
  match s.bpmWait.findSome? fun w => match w.who with | .pipe k x => if k == p && decide (x < 16) then some x else none | _ => none with
  | some x => if x = 2 ∨ x = port then some x else none
  | none => some (if (SMap.get [] s.reentry p).isEmpty then port else 2)

/-- The egress pipeline of Pier `p` waits for the buffers of a frame that came from elsewhere than `src`, and accepts no other (R263);
sources below 16 are the ingress pipeline's. -/
def pipeBusy (s : State) (p src : Nat) : Bool :=
  s.bpmWait.any fun w => match w.who with | .pipe k x => k == p && x != src && decide (16 ≤ x) | _ => false

/-- Charges the buffers of a frame from `src` (R261, R263): none if the pipeline waits; the state; and the head, or that the frame is
dropped. -/
def chargeFrame (s : State) (p src : Nat) (f : Pkt) : Option (Option Nat) × State :=
  match f.head with
  | some h => (some (some h), s)
  | none =>
    match s.frameAcct p f with
    | none => (some none, s)
    | some (a, q) =>
      let n := bufsFor f.len
      let w : BufWait := ⟨.pipe p src, q, a, n, ownerPipe p⟩
      match s.chargeTurn w with
      | .granted =>
        let s := s.doneWait w
        let (h, s) := s.grantBufs q a n (some p) (ownerPipe p)
        (some (some h), s)
      | .overMax => (some none, ((s.doneWait w).refusedCharge q a).bump F.BPM_ACCT_DROP_COUNT a)
      | .wait => (none, s.waitBufs w)

end State

/-- The head of a source, and the state without it. -/
def State.takeHead (s : State) (p src : Nat) : Option (Pkt × State) :=
  if src = 2 then
    match SMap.get [] s.reentry p with
    | f :: rest => some (f, { s with reentry := SMap.put [] s.reentry p rest })
    | [] => none
  else s.portHead p src

/-- INGRESS_HEAD_ACCEPT (R35, R36, R198): a returned or injected frame first, then the port's next one. With the miss buffer full no
head is accepted, and the cycle counts (R229); while another head waits for buffers none is accepted (R263). -/
def execIngressHeadAccept (p : Pier) (port : Port) (e : PassEcc) (s : State) : Out3 := .next <|
  match s.acceptFrom p.val port.val with
  | none => s
  | some src =>
   if s.ingressHeld p.val then s
   else if 512 ≤ (s.parked p.val).length then s.bump F.TBL_MISS_STATUS_STALL_CYC p.val
   else
    match s.takeHead p.val src with
    | none => s
    | some (f, u) =>
      if f.reinject.isNone && !f.decrypted && s.secyFirst f then s
      else match u.chargeFrame p.val src f with
        | (none, _) => (s.chargeFrame p.val src f).2
        | (some none, u) => u
        | (some (some h), u) => u.enter p.val { f with head := some h } e

/-- MISS_RESULTS_RETURN (R229, R36, R251): head `k` of the miss buffer re-enters with its results and fills the line; the heads that
waited behind it take the same results. `bad` names the stages whose table line was poisoned. -/
def execMissResultsReturn (p : Pier) (k : Fin 512) (bad : List (Fin 12)) (e : PassEcc) (s : State) : Out3 := .next <|
  match (s.parked p.val)[k.val]? with
  | none => s
  | some h =>
    if h.follow then s
    else
      let key := flowKey h.pkt.tuple
      let same (g : Parked) : Bool := g.pkt.hash == h.pkt.hash && flowKey g.pkt.tuple == key
      let behind := (s.parked p.val).filter fun g => g.follow && same g
      let s := s.setParked p.val ((s.parked p.val).filter fun g => !same g)
      let bad := bad.map Fin.val
      let given := (s.pierImg p.val).prog.stages.zipIdx.filterMap fun st => match st.1.lookup with
        | some (.flow _) => if bad.contains st.2 then none else some (st.2, h.flow.map fun r => State.flowFound r.2.2 h.pkt.srcHi)
        | _ => none
      let (s, x) := s.runPass { p := p.val, f := h.pkt, given := given } bad e
      let s :=
        if h.stale || x.parse.cause != 0 || e.graph == .uncorrected then s
        else s.fcFill p.val { hash := h.pkt.hash, key := key, slot := h.flow.map fun r => (r.1, r.2.1), results := x.results,
                              gens := x.used.map fun t => (t, SMap.get 0 s.gens (State.tabKey p.val t)) }
      behind.foldl (fun u g => (u.runPass { p := p.val, f := g.pkt, given := x.results } [] {}).1) s

/-- MACSEC_RX_VERIFY (R317, R366): the MACsec lane of an ingress slice verifies the next frame that a port holds for the Pier. -/
def execMacsecRxVerify (p : Pier) (port : Port) (c : CipFault) (s : State) : Out3 := .next <|
  if s.ingressHeld p.val then s
  else match s.portHead p.val port.val with
    | none => s
    | some (f, u) =>
      if !s.secyFirst f then s
      else match u.msecVerify p.val f c with
        | (none, u) => u
        | (some g, _) => ((s.msecVerify p.val f c).2).putHead p.val port.val g

/-- DECRYPT_RETURN (R363, R364): the ESP lane's first frame returns to head acceptance, or is dropped. -/
def execDecryptReturn (p : Pier) (c : CipFault) (s : State) : Out3 := .next <|
  match SMap.get [] s.espLane p.val with
  | [] => s
  | f :: rest =>
    let s := { s with espLane := SMap.put [] s.espLane p.val rest }
    match s.espDecrypt p.val ((f.saFrame.getD 0).toNat) f c with
    | (none, s) => s.dropPkt f 12
    | (some g, s) =>
      let g : Pkt := { bytes := g.bytes, mac := g.mac, time := g.time, frac := g.frac, trunc := g.trunc, decrypted := true
                       authFail := g.authFail, hash := g.hash, vlan := g.vlan, tc := g.tc, head := g.head, fcs := g.fcs
                       tuple := g.tuple, srcHi := g.srcHi, verified := true }
      { s with reentry := SMap.put [] s.reentry p.val (SMap.get [] s.reentry p.val ++ [g]) }

end Sys2Proof.Machine
end

