-- ==== Sys2Proof/Machine/Egress.lean ====
section
/-!
DEFINITION. The egress pipeline (R156, R158, R210, R231–R233, R278, R362) and the XMIT instruction (R421, R541).
-/

namespace Sys2Proof.Machine

namespace State

/-- The egress pipeline takes no head. -/
def egressHeld (s : State) (p : Nat) : Bool := s.ingressHeld p

def egressOf (s : State) (p : Nat) : List Pkt := SMap.get [] s.egress p
def setEgress (s : State) (p : Nat) (l : List Pkt) : State := { s with egress := SMap.put [] s.egress p l }

/-- The oldest begun entry of a TX queue that has not been handed on. -/
def txReady (s : State) (q : Nat) : Option Begun :=
  match (s.queue q).begun.find? fun b => !b.handed && b.result.isNone && b.causes.isEmpty with
  | some b => if b.parts = 0 then some b else none
  | none => none

/-- The frame of an entry whose data have arrived (R156, R157). -/
def txFrame (s : State) (q : Nat) (b : Begun) : Pkt :=
  let bs := ((sortBy (fun a c => decide (a.1 ≤ c.1)) b.data).map Prod.snd).flatten
  let f : Pkt := { bytes := bs, fcs := fcs32 bs, entry := some (q, b.entry.cell), txq := some q, span := some (s.queue q).span
                   launch := if b.entry.launch then some b.entry.launchTime else none
                   flowMark := BitVec.ofNat 32 (cellBits b.entry.hdr 96 32), csum := cellBits b.entry.hdr 65 1 == 1
                   poisoned := b.bad, head := b.head, tmsq := s.wireQueue (s.queue q).bind q }
  s.hashed f

/-- One egress pass of a frame (R210): parse, stages, rewriting, ESP, and the TMS queue; a fragment goes to the queue unchanged. -/
def egressPass (s : State) (p : Nat) (f : Pkt) (e : PassEcc) (c : CipFault) : State :=
  match f.tmsq with
  | none => s.dropPkt f 12
  | some wq =>
    let m := s.portOf p wq
    let s := s.epoch .macRxOrChecked .MAC_CTL m
    let max := s.maxFrame m
    if f.entry.isSome ∧ max < f.bytes.length + 4 then s.dropPkt f 2
    else
      let r := parseFrame (s.pierImg p).egress f
      let x : Pass := { p := p, egress := true, f := f, parse := r }
      let s := s.graphEcc { x with parse := {} } e.graph
      if e.graph == .uncorrected then (s.bump F.PRS_EGR_FAIL_CNT_COUNT p).dropPkt f 14
      else if r.cause ≠ 0 then ((s.bump F.PRS_EGR_FAIL_CNT_COUNT p).prsCapture x r.cause).dropPkt f 11
      else if r.frag then (s.storeFrame f).tmsPut p wq f
      else
        let s := s.passEcc p e
        let g := (s.pierImg p).eprog
        let (s, x) := s.stagesSpm x (e.bad.map Fin.val) g e.spm
        if x.drop.isSome then s.dropPkt x.f 12
        else match s.passPolice x with
          | (none, s) => s.dropPkt x.f 12
          | (some col, s) =>
            match s.tunnel x (g.csum && f.csum) (some max) with
            | (.error code, s) => s.dropPkt x.f code
            | (.ok bs, s) =>
              let h := { (if bs = x.f.bytes then x.f else x.f.withBytes bs) with colour := col }
              let (out, s) := match x.encrypt with
                | some i => s.espEncrypt p (i % 65536) max h c
                | none => (.ok h, s)
              match out with
              | .error code => s.dropPkt h code
              | .ok h => (s.storeFrame h).tmsPut p wq h

end State

/-- EGRESS_PASS (R210, R263): the next frame of TX queue `q`, or of those that were forwarded and injected, runs the pass. A frame for
which the QE charged no buffers is charged here, where the image gives its class an account: over MAX it ends with POLICY_DROP, and the
pipeline waits for buffers. -/
def execEgressPass (p : Pier) (q : Option QueueId) (e : PassEcc) (c : CipFault) (s : State) : Out3 := .next <|
  if s.egressHeld p.val || s.pipeBusy p.val (16 + (q.map Fin.val).getD 65536) then s
  else match q with
    | none =>
      match s.egressOf p.val with
      | [] => s
      | f :: rest => (s.setEgress p.val rest).egressPass p.val f e c
    | some k =>
      if !(s.queue k.val).isTx || (s.queue k.val).bind != p.val then s
      else match s.txReady k.val with
        | none => s
        | some b =>
          let f := s.txFrame k.val b
          let go (s : State) (f : Pkt) : State :=
            (s.withBegun k.val b.entry.cell fun b => { b with handed := true, head := none }).egressPass p.val f e c
          if f.head.isSome || (s.frameAcct p.val f).isNone then go s f
          else match s.chargeFrame p.val (16 + k.val) f with
            | (none, s) => s
            | (some none, s) => (s.withBegun k.val b.entry.cell fun b => { b with handed := true, head := none }).dropPkt f 12
            | (some h, s) => go s { f with head := h }

/-! ### XMIT (R421, R541) -/

namespace State

/-- The frame that XMIT makes of a chain: metadata of the window's packet where its head is the chain's, else free values where the
spec names none (log entry 43). -/
def xmitFrame (s : State) (n h len : Nat) : Pkt × State :=
  let x := s.thr n
  let mine := getBits x.win.item 0 2 == 1 && x.win.ref.toNat % 2 ^ 26 == h
  let s := if mine then s.chainStore h 0 ((List.range (min 512 len)).map fun i => SMap.get 0 x.head i) false else s
  let bs := s.chainRead h 0 len
  if mine then
    ({ bytes := bs, fcs := if bitOf x.win.item 12 then [] else fcs32 bs, poisoned := s.chainBad h len, head := some h
       mac := getBits x.win.item 8 4, trunc := bitOf x.win.item 12
       decrypted := bitOf x.win.item 13, hash := BitVec.ofNat 32 (getBits x.win.item 32 32), time := x.win.time
       mark := x.win.mark.setWidth 32 }, s)
  else
    let (a, s) := s.fresh
    let (b, s) := s.fresh
    ({ bytes := bs, fcs := fcs32 bs, poisoned := s.chainBad h len, head := some h, hash := a.setWidth 32, time := b }, s)

/-- The destination of an XMIT, or that its target is not allowed. -/
def xmitTo (s : State) (n kind target : Nat) (w : Word) : Option (State → Pkt → State) :=
  let p := n / 192
  let q := s.queue target
  match kind with
  | 0 =>
    if q.used && q.isTx && q.bind == p then
      some fun u f => u.setEgress p (u.egressOf p ++ [{ u.hashed f with txq := some target, span := some q.span, tmsq := u.wireQueue p target }])
    else none
  | 1 => if q.used && q.kind == 1 then some fun u f => u.toHost p target { f with span := some q.span } else none
  | 2 =>
    match s.treeNode p 3 target with
    | some nd => if nd.kind = 0 then some fun u f => u.setEgress p (u.egressOf p ++ [{ u.hashed f with tmsq := some target }]) else none
    | none => none
  | _ =>
    if target = 0 then
      some fun u f =>
        let g := { f with tuple := (u.hashed f).tuple, verified := true,
                          reinject := some (BitVec.ofNat 16 (getBits w 32 16), (u.thr n).win.injectData) }
        { u with reentry := SMap.put [] u.reentry p (SMap.get [] u.reentry p ++ [g]) }
    else none

/-- XMIT of a kind; another kind in rt is one of the other commands, and nothing happens. -/
def xmit (s : State) (x : Slot) (rd rs rt : RegNo) (kind : Nat) : State :=
  if getBits (s.g x.thr.val rt) 0 2 ≠ kind then s
  else
    s.issue x (mRd ||| mRs ||| mRt) [rs, rt] false fun t n _ =>
      let w := t.g n rt
      let h := (t.g n rs).toNat
      let len := getBits w 48 15
      match t.xmitTo n kind (getBits w 16 16) w with
      | none => .exc .notBound t
      | some send =>
        if len = 0 then .exc .arg t
        else match t.bufTest .give (ownerThread n) h with
          | 0 =>
            if t.chainCap h < len then .exc .arg t
            else
              let (f, t) := t.xmitFrame n h len
              let r := t.bufRec h
              let t := if r.refs = 1 then t.setRec h { r with owner := ownerPipe (n / 192) } else t
              (send t f).put n rd 0
          | 8 => t.put n rd 8
          | code => (t.bufRefuse (ownerThread n) h code).put n rd (BitVec.ofNat 64 code)

end State

/-- XMIT to a TX work queue. -/
def execXmitTxq (x : Slot) (rd rs rt : RegNo) (s : State) : Out3 := .next (s.xmit x rd rs rt 0)
/-- XMIT to an RX work queue. -/
def execXmitRxq (x : Slot) (rd rs rt : RegNo) (s : State) : Out3 := .next (s.xmit x rd rs rt 1)
/-- XMIT to a WIRE TMS queue. -/
def execXmitWire (x : Slot) (rd rs rt : RegNo) (s : State) : Out3 := .next (s.xmit x rd rs rt 2)
/-- XMIT to the ingress pipeline. -/
def execXmitPipe (x : Slot) (rd rs rt : RegNo) (s : State) : Out3 := .next (s.xmit x rd rs rt 3)

end Sys2Proof.Machine
end

