-- ==== Sys2Proof/Machine/Mac.lean ====
section
/-!
DEFINITION. Ethernet ports and MACs (chapter 10) and the distributors (R34, R54, R57): link states, receive checks, tags, transmit
selection, credit-based shaping, flow control, launch, one-step PTP (R332), RESTART, Standby wake.
-/

namespace Sys2Proof.Machine

namespace State

/-! ### Registers and rates -/

/-- Sets bit `b` of MAC_EVT_m. -/
def macEvt (s : State) (m b : Nat) : State := s.setEvt .MAC_EVT .MAC_EVT_EN .MAC_MSIX_VEC m b

/-- MAC rate in Mb/s (R298). -/
def macRate (s : State) (m : Nat) : Nat := 200000 * s.fld F.MAC_STATUS_LANES m

/-- Lanes of MAC 8 p + k under a BREAKOUT; 0 for an absent one (R298). -/
def macLanes (breakout k : Nat) : Nat :=
  let w := 8 / 2 ^ breakout
  if k % w = 0 then w else 0

/-- A signed delay register in units of the counter. -/
def calDelay (s : State) (f : Fld) (i : Nat) : Int := signed 32 (s.fld f i) * 65536

/-- A counter value rounded down to 62.5 ps (R330). -/
def stampOf (t : Int) : BitVec 96 := BitVec.ofInt 96 (t / 268435456 * 268435456)

/-- Wide time and FRAC of a counter value (R325). -/
def wideOf (t : BitVec 96) : Word := (t >>> 32).setWidth 64
def fracOf (t : BitVec 96) : BitVec 16 := (t >>> 16).setWidth 16

/-- The counter `k` steps of 62.5 ps into the present tick, at the rate of TIM_INCR (R330, R339; log entry 112). -/
def timeIn (s : State) (k : Fin 20) : Int := s.time.toNat + s.fld F.TIM_INCR_INCR 0 * k.val / 20

/-- The TIM_CAL registers of the lane of MAC `m` that carries a frame's first octet after the SFD, counted from the MAC's lowest lane
(R298, R329). -/
def calLane (s : State) (m : Nat) (l : Fin 8) : Nat := m + l.val % s.fld F.MAC_STATUS_LANES m

/-- The transmit timestamp of a frame that MAC `m` starts now: its first octet after the SFD crosses the package ball of a lane 20
TIME_CLK cycles later, and the reference plane lies CAL_TX behind it (R329, R332, R337; log entry 83). -/
def txStamp (s : State) (m : Nat) (l : Fin 8) : BitVec 96 :=
  stampOf ((s.timeAfter 20).toNat + s.calDelay F.TIM_CAL_TX_DELAY (s.calLane m l))

/-! ### Flow control (R312–R315) -/

/-- Bytes of class `c` in the FIFO of a port toward a Pier. -/
def classBytes (s : State) (port p c : Nat) : Nat := (((s.fifoOf port p).filter fun f => f.tc == c).map Pkt.len).sum

/-- Bytes in the hold area (R54). -/
def heldBytes (s : State) : Nat := (((s.holdOf 0) ++ (s.holdOf 1)).map Pkt.len).sum

def fcWanted (s : State) (k : Nat) : Bool := SMap.get false s.fcReq k

/-- A request with hysteresis: on above, off at or below. -/
def fcAsk (s : State) (k : Nat) (on off : Bool) : State :=
  { s with fcReq := SMap.put false s.fcReq k (on || (s.fcWanted k && !off)) }

/-- The requests of conditions (a) and (c) as the FIFOs stand (R313, R57). -/
def fcUpdate (s : State) : State :=
  let s := (List.range 16).foldl (fun u k =>
    let n := (List.range 4).map fun p => u.classBytes (k / 8) p (k % 8)
    u.fcAsk k (n.any fun b => decide (u.fld F.MAC_FC_WM_HIGH_KIB k * 1024 < b)) (n.all fun b => decide (b ≤ u.fld F.MAC_FC_WM_LOW_KIB k * 1024))) s
  s.fcAsk 16 (decide (48 * 1048576 < s.heldBytes)) (decide (s.heldBytes < 32 * 1048576))

/-- The pool of a class (R264). -/
def classPool (s : State) (c : Nat) : Option Nat :=
  match s.slots.active with | some i => i.classPool.getD c none | none => none

/-- Some condition of R313 asks MAC `m` for XOFF on class `c`. -/
def xoffAsked (s : State) (m c : Nat) : Bool :=
  s.fcWanted (8 * (m / 8) + c) || s.fcWanted 16 ||
    match s.classPool c with | some q => s.flag F.BPM_POOL_STATUS_XOFF q | none => false

/-- The classes, as bits, for which MAC `m` signals XOFF under a MODE and PFC_EN (R313). -/
def xoffWant (s : State) (m mode en : Nat) : Nat :=
  let asked := (List.range 8).filter fun c => s.xoffAsked m c
  if mode = 1 then (if asked.isEmpty then 0 else 255)
  else if mode = 2 then ((asked.filter fun c => en / 2 ^ c % 2 = 1).map (2 ^ ·)).sum
  else 0

/-- A control frame's bytes without FCS (R312). -/
def ctlFrame (s : State) (m opcode : Nat) (rest : List Byte) : List Byte :=
  let b := [0x01, 0x80, 0xC2, 0x00, 0x00, 0x01] ++ toBytesBE 6 (s.fld F.MAC_ADDR_ADDR m) ++ [0x88, 0x08] ++ toBytesBE 2 opcode ++ rest
  b ++ List.replicate (60 - b.length) 0

/-- Sends a control frame of a mode about the classes `due`, of which those in `on` are paused (R314). -/
def sendCtl (s : State) (m mode due on : Nat) : State :=
  let s := s.epoch .controlSent .MAC_FC_CTL m
  let t := s.fld F.MAC_FC_CTL_PAUSE_TIME m
  if mode = 1 then
    let b := s.ctlFrame m 1 (toBytesBE 2 (if on = 0 then 0 else t))
    (s.macCount m 14).emit (.frame (Fin.ofNat 16 m) (b ++ fcs32 b))
  else
    let cls (i : Nat) : Nat := s.fld (F.MAC_PCP_MAP_RX_TC i) m
    let ps := (List.range 8).filter fun i => due / 2 ^ cls i % 2 = 1
    let times := (List.range 8).map fun i => if ps.contains i && decide (on / 2 ^ cls i % 2 = 1) then t else 0
    let b := s.ctlFrame m 0x0101 (toBytesBE 2 ((ps.map (2 ^ ·)).sum) ++ (times.map (toBytesBE 2)).flatten)
    (s.macCount m 15).emit (.frame (Fin.ofNat 16 m) (b ++ fcs32 b))

/-- Swap, or FAILED after it, stops what the MACs send (R56, R59). -/
def swapIdle (s : State) : Bool := s.fld F.CFG_STATUS_STATE 0 == 4 || s.fld F.CFG_STATUS_STATE 0 == 5

/-- The MAC sends PAUSE and PFC frames: UP, and not in the safe state (R301, R302); Swap and FAILED leave them, since the hold area
fills then (R57, log entry 107). -/
def ctlSends (s : State) (m : Nat) : Bool := s.macState m == 3 && !s.isSafe

/-- The MAC sends the frames of its inputs: UP, and neither the safe state, Swap nor FAILED overrides it (R301, R302, R56, R59). -/
def macSends (s : State) (m : Nat) : Bool := s.ctlSends m && !s.swapIdle

/-- What MAC `m` transmits (R300, R302): electrical idle without ETH_REFCLK (R23); in Standby port 0's lane 0 alone is powered, and sends
idle where its link is UP (R318). -/
def macLine (s : State) (m : Nat) : MacLine :=
  if s.dev = .standby then
    if m ≠ 0 then .nothing else if s.ethLost then .electricalIdle else if s.standbyUp then .idle else .acquire
  else if s.ethLost ∧ s.macState m ≠ 0 then .electricalIdle
  else match s.macState m with
  | 0 => .nothing
  | 1 => .electricalIdle
  | 2 => .acquire
  | 3 => if s.isSafe then .localFault else if s.swapIdle then .idle else .framesAndIdle
  | _ => if s.isSafe then .localFault else .idle

/-- A control-frame event: a waiting MODE or PFC_EN takes effect, the partner's pauses end, and a zero-time frame of the old kind
goes out for every XOFF signalled (R312). -/
def ctlEvent (s : State) (m : Nat) : State :=
  let mode := s.fld F.MAC_FC_CTL_MODE m
  let en := s.fld F.MAC_FC_CTL_PFC_EN m
  let t := s.epoch .controlEvent .MAC_FC_CTL m
  if t.fld F.MAC_FC_CTL_MODE m = mode ∧ t.fld F.MAC_FC_CTL_PFC_EN m = en then t
  else
    let sent := t.fld F.MAC_FC_STATUS_XOFF_SENT m
    let t := t.cbsGap m
    let t := t.setMac m { t.mac m with paused := 0, pauseAll := false }
    let t := if sent ≠ 0 ∧ t.ctlSends m then t.sendCtl m mode sent 0 else t
    t.setFld F.MAC_FC_STATUS_XOFF_SENT m 0

/-- Whether the XOFF that should be signalled differs from what is, under the settings in effect or those that wait. -/
def ctlDue (s : State) (m : Nat) : Bool :=
  let f (u : State) : Bool :=
    u.xoffWant m (u.fld F.MAC_FC_CTL_MODE m) (u.fld F.MAC_FC_CTL_PFC_EN m) != u.fld F.MAC_FC_STATUS_XOFF_SENT m
  f s || f (s.epoch .controlEvent .MAC_FC_CTL m)

/-- Sends the control frames that are due: XOFF that begins or ends (R314). -/
def ctlSend (s : State) (m : Nat) : State :=
  let s := s.ctlEvent m
  let mode := s.fld F.MAC_FC_CTL_MODE m
  let want := s.xoffWant m mode (s.fld F.MAC_FC_CTL_PFC_EN m)
  let sent := s.fld F.MAC_FC_STATUS_XOFF_SENT m
  if want = sent then s else (s.sendCtl m mode (want ^^^ sent) want).setFld F.MAC_FC_STATUS_XOFF_SENT m want

/-- A received PAUSE or PFC frame acts (R312, R315); nodes that its pauses make EMPTY lose their deficits (R285), and a class's
credit is settled first (R310). -/
def ctlReceived (s : State) (m opcode : Nat) (bs : List Byte) : State :=
  let s := (s.cbsGap m).ctlEvent m
  let mode := s.fld F.MAC_FC_CTL_MODE m
  let x := s.mac m
  let settled (u : State) : State := (List.range 4).foldl State.settle u
  if opcode = 1 ∧ mode = 1 then settled (s.setMac m { x with pauseAll := beAt bs 16 2 != 0 })
  else if opcode = 0x0101 ∧ mode = 2 then
    let en := beAt bs 16 2
    let one (w : BitVec 8) (i : Nat) : BitVec 8 :=
      if en / 2 ^ i % 2 = 0 then w
      else if beAt bs (18 + 2 * i) 2 = 0 then w &&& ~~~ ((1 : BitVec 8) <<< i) else w ||| ((1 : BitVec 8) <<< i)
    settled (s.setMac m { x with paused := (List.range 8).foldl one x.paused })
  else s

/-! ### Receive (R304–R306, R34, R54, R57) -/

/-- The frame carries a SecTAG, after at most two tags. -/
def hasSecTag (bs : List Byte) : Bool :=
  beAt bs 12 2 == 0x88E5 || isTag bs 12 && (beAt bs 16 2 == 0x88E5 || isTag bs 16 && beAt bs 20 2 == 0x88E5)

/-- The class of a received frame (R305). -/
def rxClass (s : State) (m : Nat) (bs : List Byte) : Nat :=
  if isTag bs 12 then s.fld (F.MAC_PCP_MAP_RX_TC ((bs.getD 14 0).toNat / 32)) m else s.fld F.MAC_PCP_MAP_DEFAULT_TC m

/-- Strips tags (R306). -/
def stripTags (s : State) (m : Nat) (f : Pkt) : Pkt :=
  let bs := f.bytes
  let mode := s.fld F.MAC_TAG_CTL_STRIP m
  if hasSecTag bs then f
  else if mode = 1 ∧ isTag bs 12 then { f.withBytes (bs.take 12 ++ bs.drop 16) with vlan := some (BitVec.ofNat 16 (beAt bs 14 2)) }
  else if mode = 2 ∧ beAt bs 12 2 = 0x88A8 ∧ beAt bs 14 2 % 4096 = s.fld F.MAC_TAG_CTL_S_VID m ∧ beAt bs 16 2 = 0x8100 then
    { f.withBytes (bs.take 12 ++ bs.drop 20) with vlan := some (BitVec.ofNat 16 (beAt bs 18 2)) }
  else f

/-- A frame that the distributor drops (R34, R57). -/
def distDrop (s : State) (port p : Nat) : State := (s.bump F.MAC_DIST_DROP_COUNT (4 * port + p)).raise 0x0A 0x01 (port + 16 * p)

/-- The distributor takes a frame: into the hold area while a swap holds traffic or held frames remain, else hashed into its
Pier's FIFO (R34, R54, R56, R59); in the safe state it is discarded (R469). PEAK_KIB rounds a part of a KiB up
(log entry 103). -/
def distribute (s : State) (port : Nat) (f : Pkt) : State :=
  let st := s.fld F.CFG_STATUS_STATE 0
  if s.isSafe then s
  else if st = 3 ∨ st = 4 ∨ st = 5 ∨ !(s.holdOf port).isEmpty then
    if 64 * 1048576 < s.heldBytes + f.len then s.distDrop port (s.pierFor (s.hashed f).hash)
    else
      let s := s.setHold port (s.holdOf port ++ [f])
      let k := (s.heldBytes + 1023) / 1024
      if s.fld F.CFG_HOLD_PEAK_PEAK_KIB 0 < k then s.setFld F.CFG_HOLD_PEAK_PEAK_KIB 0 k else s
  else
    let f := s.hashed f
    let p := s.pierFor f.hash
    let s := s.wake true p
    if 524288 < (((s.fifoOf port p).map Pkt.len).sum) + f.len then s.distDrop port p
    else s.setFifo port p (s.fifoOf port p ++ [f])

/-- A frame that passed the FCS, length and control checks (R304, R305). -/
def rxPass (s : State) (m : Nat) (wire : List Byte) (l : Fin 8) (k : Fin 20) : State :=
  let n := wire.length
  let max := s.maxFrame m
  let trunc := decide (max < n)
  let s := if trunc then s.macCount m 4 else s
  let t := stampOf (s.timeIn k - s.calDelay F.TIM_CAL_RX_DELAY (s.calLane m l))
  let bs := if trunc then wire.take max else wire.take (n - 4)
  let f : Pkt := { bytes := bs, fcs := if trunc then [] else wire.drop (n - 4), mac := m, time := wideOf t, frac := fracOf t
                   trunc := trunc, tc := s.rxClass m wire }
  let s := (s.macCount m 0).macCount m 1 n
  (s.fcUpdate.distribute (m / 8) (s.stripTags m f)).fcUpdate

end State

/-- FRAME_RECEIVED (R304): a frame from destination address through FCS, with the corrected and uncorrectable codewords it came in. -/
def execFrameReceived (m : MacId) (f : WireFrame) (cor unc : Byte) (s : State) : Out3 := .next <|
  let m := m.val
  let wire := f.bytes
  if s.macState m ≠ 3 ∧ s.macState m ≠ 4 then s
  else
    let s := (s.macCount m 17 cor.toNat).macCount m 18 unc.toNat
    let s := [(Boundary.macRxOrChecked, Reg.MAC_CTL), (.macRx, .MAC_PCP_MAP), (.macRx, .MAC_TAG_CTL), (.macFrame, .MAC_TAG_CTL),
      (.macRx, .MAC_SECY_CTL), (.macFrame, .MAC_SECY_CTL)].foldl (fun u b => u.epoch b.1 b.2 m) (s.epoch .laneFrame .TIM_CAL_RX (s.calLane m f.lane))
    let n := wire.length
    if unc ≠ 0 ∨ wire.drop (n - 4) ≠ fcs32 (wire.take (n - 4)) then s.macCount m 2
    else if n < 64 then s.macCount m 3
    else if State.etherType wire = 0x8808 then
      let op := beAt wire 14 2
      if op = 1 then (s.macCount m 5).ctlReceived m op wire
      else if op = 0x0101 then (s.macCount m 6).ctlReceived m op wire
      else s.macCount m 7
    else s.rxPass m wire f.lane f.sub

/-! ### Transmit (R307, R309–R311, R322, R332, R337, R338) -/

namespace State

/-- Tags that INSERT adds to a frame of class `c` (R307). -/
def insertTags (s : State) (m c : Nat) (bs : List Byte) : List Byte :=
  let pcp := s.fld (F.MAC_PCP_MAP_TX_PCP c) m
  let tag (tpid vid : Nat) : List Byte := toBytesBE 2 tpid ++ toBytesBE 2 (pcp * 8192 + vid)
  let ct := tag 0x8100 (s.fld F.MAC_TAG_CTL_C_VID m)
  let st := tag 0x88A8 (s.fld F.MAC_TAG_CTL_S_VID m)
  let add := match s.fld F.MAC_TAG_CTL_INSERT m with | 0 => [] | 1 => ct | 2 => st | _ => st ++ ct
  bs.take 12 ++ add ++ bs.drop 12

/-- Where PTP version 2 lies in a frame, and its UDP checksum's place with whether it is over IPv6 (R332). -/
def ptpAt (bs : List Byte) : Option (Nat × Option (Nat × Bool)) :=
  let l := if isTag bs 12 then (if isTag bs 16 then 20 else 16) else 12
  let v2 (i : Nat) : Bool := (bs.getD (i + 1) 0).toNat % 16 == 2 && decide (i + 34 ≤ bs.length)
  let et := beAt bs l 2
  if et = 0x88F7 then (if v2 (l + 2) then some (l + 2, none) else none)
  else
    let udp (u : Nat) (six : Bool) := if beAt bs (u + 2) 2 = 319 ∧ v2 (u + 8) then some (u + 8, some (u + 6, six)) else none
    if et = 0x0800 then
      let h := l + 2 + 4 * ((bs.getD (l + 2) 0).toNat % 16)
      if (bs.getD (l + 11) 0) = 17 ∧ beAt bs (l + 8) 2 % 16384 = 0 then udp h false else none
    else if et = 0x86DD ∧ (bs.getD (l + 8) 0) = 17 then udp (l + 42) true
    else none

/-- The incremental checksum update of RFC 1624 over the 16-bit words of `old` that become `new`. -/
def csumDelta (c : Nat) : List Byte → List Byte → Nat
  | a :: b :: s, x :: y :: t =>
    let m := a.toNat * 256 + b.toNat
    let n := x.toNat * 256 + y.toNat
    let v := (65535 - c) + (65535 - m) + n
    let v := v % 65536 + v / 65536
    csumDelta (65535 - (v % 65536 + v / 65536)) s t
  | _, _ => c

/-- One-step rewriting of a frame whose transmit timestamp is `t` (R332). -/
def oneStep (s : State) (m : Nat) (t : BitVec 96) (bs : List Byte) : List Byte :=
  match ptpAt bs with
  | none => bs
  | some (i, sum) =>
    let type := (bs.getD i 0).toNat % 16
    let twoStep := (bs.getD (i + 6) 0).getLsbD 1
    let w := (wideOf t).toNat
    let corr := beAt bs (i + 8) 8
    let body := bs.drop i
    let new : Option (List Byte) :=
      if type = 0 ∧ s.flag F.TIM_ONESTEP_SYNC m then
        some (overlay (overlay body 8 (toBytesBE 8 ((corr + (fracOf t).toNat) % 2 ^ 64))) 34
          (toBytesBE 6 (w / 1000000000) ++ toBytesBE 4 (w % 1000000000)))
      else if type = 3 ∧ s.flag F.TIM_ONESTEP_PDELAY_RESP m then
        some (overlay body 8 (toBytesBE 8 ((corr + w * 65536 + (fracOf t).toNat) % 2 ^ 64)))
      else none
    match new with
    | none => bs
    | some new =>
      if !s.flag F.TIM_ONESTEP_EN m || twoStep then bs else
      let out := bs.take i ++ new
      match sum with
      | none => out
      | some (k, false) => overlay out k [0, 0]
      | some (k, true) =>
        let v := csumDelta (beAt bs k 2) body new
        overlay out k (toBytesBE 2 (if v = 0 then 65535 else v))

/-- The head of a FIFO may be sent (R309). -/
def headOk (s : State) (m p c : Nat) : Bool :=
  match s.macFifo m p c with
  | [] => false
  | f :: _ => !s.classPaused m c && !(s.flag F.MAC_CBS_EN (8 * m + c) && decide ((s.mac m).credit.getD c 0 < 0)) &&
      (f.launch.isNone || (s.mac m).launchOk.contains (p, c))

/-- The highest class of a Pier with an eligible head. -/
def headClass (s : State) (m p : Nat) : Option Nat := [7, 6, 5, 4, 3, 2, 1, 0].find? fun c => s.headOk m p c

/-- Deficit round robin over the Piers with a quantum of 16,384 bytes (R290); a Pier with nothing to send cedes its share. -/
def pickPier (s : State) (m : Nat) : Nat → Option (Nat × Nat × State)
  | 0 => none
  | fuel + 1 =>
    let x := s.mac m
    let p := x.ptr
    let len := match s.headClass m p with | some c => (match s.macFifo m p c with | f :: _ => some (c, f.len) | [] => none) | none => none
    let d := x.deficit.getD p 0
    let move (left : Nat) : State :=
      let q := (p + 1) % 4
      let l := setAt x.deficit p left
      s.setMac m { x with ptr := q, deficit := setAt l q (l.getD q 0 + 16384) }
    match len with
    | none => pickPier (move 0) m fuel
    | some (c, n) => if n ≤ d then some (p, c, s.setMac m { x with deficit := setAt x.deficit p (d - n) }) else pickPier (move d) m fuel

/-- The MAC begins to send a frame of class `c` with `n` bytes on the wire, once the one before it has ended. -/
def cbsFrame (s : State) (m c n : Nat) : State :=
  let s := match (s.mac m).send with | some (_, left, _) => s.cbsSending m left | none => s
  s.setMac m { s.mac m with send := some (c, n * 25600 / s.macRate m, n * 25600) }

/-- The first frame of a FIFO leaves it, and the next becomes its head. -/
def popMac (s : State) (m p c : Nat) : State :=
  let x := s.mac m
  ((s.setMac m { x with launchOk := x.launchOk.filter (· != (p, c)) }).setMacFifo m p c ((s.macFifo m p c).drop 1)).headed m p c

/-- A frame left the device, or was dropped late: its entry's result, and its chain (R159, R338). -/
def txDone (s : State) (f : Pkt) (causes : List Nat) (bytes : Nat) (t : Word) : State :=
  let s := s.releaseOpt f.head
  match f.entry with
  | some (q, c) =>
    s.withBegun q c fun b => { b with causes := b.causes ++ causes, handed := false, head := none, result := some { bytes := bytes, time := t } }
  | none => s

/-- Sends the frame picked from Pier `p`, class `c` (R307, R308, R317, R332, R338). -/
def txSend (s : State) (m p c : Nat) (f : Pkt) (x : TxFound) : State :=
  let lane (u : State) : State := u.epoch .laneFrame .TIM_CAL_TX (s.calLane m x.lane)
  let t := (lane s).txStamp m x.lane
  let late := match f.launch with
    | some lt => decide ((lt.toNat + s.fld F.TIM_LAUNCH_CTL_LATE_NS 0) * 2 ^ 32 < t.toNat)
    | none => false
  let drop := late && s.fld F.TIM_LAUNCH_CTL_MODE 0 == 1
  let s := if late then s.bump F.TIM_LAUNCH_CNT_LATE 0 else s
  let s := s.popMac m p c
  let f := { f with poisoned := s.framePoisoned f }
  let causes := (if late then [10] else []) ++ (if f.poisoned then [5] else [])
  if drop then s.txDone f causes 0 s.wide
  else
    let s := [(Boundary.macTx, Reg.MAC_TAG_CTL), (.macFrame, .MAC_TAG_CTL), (.macTx, .MAC_PCP_MAP), (.macTx, .MAC_SECY_CTL),
      (.macFrame, .MAC_SECY_CTL), (.macTx, .TIM_ONESTEP)].foldl (fun u b => u.epoch b.1 b.2 m) (lane s)
    let bs := s.oneStep m t (s.insertTags m c f.bytes)
    match s.msecProtect m { f with bytes := bs } x.cip with
    | (.error code, s) => s.dropPkt f code
    | (.ok out, s) =>
      let s := if out = bs then s else s.macCount m 19
      let out := out ++ List.replicate (60 - out.length) 0
      let fcs := (fcs32 out).map fun b => if f.poisoned then ~~~ b else b
      let n := out.length + 4
      let s := (s.cbsFrame m c (n + 20)).emit (.frame (Fin.ofNat 16 m) (out ++ fcs))
      ((s.macCount m 12).macCount m 13 n).txDone f causes f.bytes.length (wideOf t)

end State

/-- MAC_TX_START (R309, R314, R322): a ready MAC sends the control frame that is due, or the frame it picks; `e` is the outcome of its
FIFO's ECC check. -/
def execMacTxStart (m : MacId) (c : TxFound) (e : Ecc) (s : State) : Out3 := .next <|
  let m := m.val
  let s := s.fcUpdate
  if !s.ctlSends m then s
  else if s.ctlDue m then s.ctlSend m
  else if s.swapIdle || (s.mac m).pauseAll then s
  else
    let s := (List.range 8).foldl (fun u k => u.epoch .macSelect .MAC_CBS (8 * m + k)) (s.cbsGap m)
    match (if (List.range 4).any fun p => (s.headClass m p).isSome then s.pickPier m 12 else none) with
    | none => s
    | some (p, k, s) =>
      match s.macFifo m p k with
      | [] => s
      | f :: _ =>
        match e with
        | .uncorrected => (((s.popMac m p k).dropPkt f 14).bump F.MAC_STORE_ERR_UE m).macEvt m 4 |>.raise 0x0A 0x02 m
        | .corrected => ((s.bump F.MAC_STORE_ERR_CE m).raise 0x0A 0x03 m).txSend m p k f c
        | .ok => s.txSend m p k f c

/-- LAUNCH_ELIGIBLE (R337): the counter has reached the launch time of a FIFO head, less LEAD. -/
def execLaunchEligible (m : MacId) (p : Pier) (c : Fin 8) (s : State) : Out3 := .next <|
  match s.macFifo m.val p.val c.val with
  | [] => s
  | f :: _ =>
    match f.launch with
    | none => s
    | some lt =>
      let due : Int := lt.toNat * 4294967296 - (112742891520 + s.calDelay F.TIM_CAL_TX_DELAY m.val)
      let s := s.cbsGap m.val
      let x := s.mac m.val
      if due ≤ (s.time.toNat : Int) ∧ !x.launchOk.contains (p.val, c.val) then s.setMac m.val { x with launchOk := x.launchOk ++ [(p.val, c.val)] }
      else s

/-- PAUSE_TIMER_EXPIRE (R315): the link's pause, or that of a priority, ends. -/
def execPauseTimerExpire (m : MacId) (which : Option (Fin 8)) (s : State) : Out3 := .next <|
  let s := s.cbsGap m.val
  let x := s.mac m.val
  match which with
  | none => s.setMac m.val { x with pauseAll := false }
  | some i => s.setMac m.val { x with paused := x.paused &&& ~~~ ((1 : BitVec 8) <<< i.val) }

/-- XOFF_REFRESH (R314): the frame goes out again for the XOFF signalled. -/
def execXoffRefresh (m : MacId) (s : State) : Out3 := .next <|
  if !s.ctlSends m.val || s.fld F.MAC_FC_STATUS_XOFF_SENT m.val == 0 then s
  else
    let s := s.ctlEvent m.val
    let sent := s.fld F.MAC_FC_STATUS_XOFF_SENT m.val
    if sent = 0 then s else s.sendCtl m.val (s.fld F.MAC_FC_CTL_MODE m.val) sent sent

/-! ### Link states (R300–R303) -/

namespace State

def setMacState (s : State) (m v : Nat) : State := s.setFld F.MAC_STATUS_STATE m v

end State

/-- MAC_ENABLE (R301): EN = 1. -/
def execMacEnable (m : MacId) (s : State) : Out3 := .next <| s.onReg .MAC_CTL m.val (setBits (s.shadowed .MAC_CTL m.val) 0 1 1) fun s =>
  let s := s.setFld F.MAC_CTL_EN m.val 1
  if s.macState m.val = 1 then s.setMacState m.val 2 else s

/-- MAC_DISABLE (R301): EN = 0. -/
def execMacDisable (m : MacId) (s : State) : Out3 := .next <| s.onReg .MAC_CTL m.val (setBits (s.shadowed .MAC_CTL m.val) 0 1 0) fun s =>
  let s := s.setFld F.MAC_CTL_EN m.val 0
  if s.macState m.val = 0 then s else s.setMacState m.val 1

/-- MAC_LINK_UP (R301); an ACQUIRING MAC stays so in the safe state (R302) and without ETH_REFCLK (R23). -/
def execMacLinkUp (m : MacId) (s : State) : Out3 := .next <|
  if s.macState m.val = 2 ∧ !s.isSafe ∧ !s.ethLost then (s.setMacState m.val 3).macEvt m.val 0 else s

/-- LINK_DOWN (R301). -/
def execLinkDown (m : MacId) (s : State) : Out3 := .next <|
  if s.macState m.val = 3 ∨ s.macState m.val = 4 then (s.setMacState m.val 2).macEvt m.val 1 else s

/-- REMOTE_FAULT (R301). -/
def execRemoteFault (m : MacId) (s : State) : Out3 := .next <|
  if s.macState m.val = 3 then (s.setMacState m.val 4).macEvt m.val 2 else s

/-- REMOTE_FAULT_CLEAR (R301); in the safe state the MAC stays in REMOTE_FAULT (R302). -/
def execRemoteFaultClear (m : MacId) (s : State) : Out3 := .next <|
  if s.macState m.val = 4 ∧ !s.isSafe then s.setMacState m.val 3 else s

namespace State

/-- Discards the frames in a MAC's inputs (R303). -/
def flushMac (s : State) (m : Nat) : State :=
  (List.range 32).foldl (fun u k =>
    let l := u.macFifo m (k / 8) (k % 8)
    (l.foldl (fun v f => v.dropPkt f 12) ((u.setMacFifo m (k / 8) (k % 8) []).macCount m 16 l.length))) s

/-- The MACs of a port under its BREAKOUT: ABSENT, DISABLED, or ACQUIRING where EN = 1 (R298, R303). -/
def placeMac (s : State) (m : Nat) : State :=
  let w := macLanes (s.fld F.MAC_PORT_CFG_BREAKOUT (m / 8)) (m % 8)
  let s := s.epoch .portRestart .MAC_CTL m
  let s := (s.setFld F.MAC_STATUS_LANES m w).setMac m { s.mac m with launchOk := [] }
  s.setMacState m (if w = 0 then 0 else if s.flag F.MAC_CTL_EN m then 2 else 1)

/-- RESTART of a port (R303). -/
def restartPort (s : State) (port : Nat) : State :=
  let s := (List.range 8).foldl (fun u k => (u.cbsGap (8 * port + k)).flushMac (8 * port + k)) s
  let s := s.epoch .portRestart .MAC_PORT_CFG port
  (List.range 8).foldl (fun u k => (u.placeMac (8 * port + k)).macEvt (8 * port + k) 3) s

def portEnd (s : State) (port code : Nat) (q : Seq) : State :=
  s.endCmd F.MAC_PORT_STATUS_LAST_RESULT F.MAC_PORT_STATUS_LAST_SEQ port code q

/-- A RESTART that runs ends: the 1 µs tick after its steps is within the 20 µs of R303 (log entry 110). -/
def restartEnd (s : State) (port : Nat) : State :=
  if s.flag F.MAC_PORT_STATUS_BUSY port then (s.setFld F.MAC_PORT_STATUS_BUSY port 0).portEnd port 0 (SMap.get 0 s.portSeq port) else s

end State

/-- PORT_RESTART (R303): its four steps, and BUSY until the command ends; one that comes meanwhile ends with BUSY. -/
def execPortRestart (p : Port) (q : Seq) (s : State) : Out3 := .next <| s.onReg .MAC_PORT_CMD p.val (cmdWord 1 q) fun s =>
  if s.flag F.MAC_PORT_STATUS_BUSY p.val then s.portEnd p.val 1 q
  else
    let s := (s.restartPort p.val).setFld F.MAC_PORT_STATUS_BUSY p.val 1
    { s with portSeq := SMap.put 0 s.portSeq p.val q }

/-- MAC_STAT_SNAP (R321). -/
def execMacStatSnap (m : MacId) (s : State) : Out3 := .next <| s.onReg .MAC_STAT_SNAP m.val 1 fun s =>
  (List.range 20).foldl (fun u n => u.setReg .MAC_STAT (20 * m.val + n) (SMap.get 0 u.macCnt (n + 32 * m.val))) s

/-! ### Standby (R318, R319) -/

namespace State

/-- The MAGIC pattern lies in the first 512 bytes of a frame. -/
def magicIn (s : State) (bs : List Byte) : Bool :=
  let w := List.replicate 6 (0xFF : Byte) ++ (List.replicate 16 (toBytesBE 6 (s.fld F.MAC_WAKE_ADDR_ADDR 0))).flatten
  let bs := bs.take 512
  (List.range bs.length).any fun i => (bs.drop i).take 102 == w

/-- Pattern `k` matches a frame. -/
def patternIn (s : State) (k : Nat) (bs : List Byte) : Bool :=
  (List.range 128).all fun i =>
    !bitOf (s.reg .MAC_WAKE_MASK (2 * k + i / 64)) (i % 64) ||
      (decide (i < bs.length) && (bs.getD i 0).toNat == getBits (s.reg .MAC_WAKE_PAT (16 * k + i / 8)) (8 * (i % 8)) 8)

end State

/-- STANDBY_FRAME_RX (R318, R319): the Standby link checks a frame, FCS included, against the wake sources. -/
def execStandbyFrameRx (wire : List Byte) (s : State) : Out3 := .next <|
  let n := wire.length
  if s.dev ≠ .standby ∨ !s.standbyUp ∨ wire.drop (n - 4) ≠ fcs32 (wire.take (n - 4)) then s
  else
    let s' := if s.flag F.MAC_WAKE_CTL_MAGIC_EN 0 && s.magicIn wire then s.setFld F.MAC_WAKE_STATUS_MAGIC 0 1 else s
    (List.range 8).foldl (fun u k =>
      if s.fld F.MAC_WAKE_CTL_PAT_EN 0 / 2 ^ k % 2 = 1 ∧ s.patternIn k wire then
        u.setFld F.MAC_WAKE_STATUS_PAT 0 (u.fld F.MAC_WAKE_STATUS_PAT 0 ||| 2 ^ k)
      else u) s'

/-- STANDBY_LINK_CHANGE (R319): the Standby link enters or leaves UP. -/
def execStandbyLinkChange (up : Bool) (s : State) : Out3 := .next <|
  if s.dev ≠ .standby ∨ s.standbyUp = up ∨ (up ∧ s.ethLost) then s
  else
    let s := { s with standbyUp := up }
    if s.flag F.MAC_WAKE_CTL_LINK_EN 0 then s.setFld F.MAC_WAKE_STATUS_LINK 0 1 else s

end Sys2Proof.Machine
end

