-- ==== Sys2Proof/Machine/Tim.lean ====
section
/-!
DEFINITION. The time unit (chapter 11) and the 1 µs refill tick (R287) beside Machine/Counter.lean: traceability and bounds,
leap seconds, capture, REF10M, GNSS, outputs, SyncE, PTM and the Time Pages.
-/

namespace Sys2Proof.Machine

namespace State

def timEvt (s : State) (b : Nat) : State := s.setEvt .TIM_EVT .TIM_EVT_EN .TIM_MSIX_VEC 0 b

/-- Events of the time unit that come together (R533). -/
def timTogether (s : State) (f : State → State) : State := s.evtTogether .TIM_EVT .TIM_EVT_EN .TIM_MSIX_VEC 0 f

/-- The CORE domain runs: it has power and is out of reset (R493, R517). -/
def coreUp (s : State) : Bool := s.dev == .booting || s.dev == .running || s.dev == .bootFailed

/-- TOP_UPTIME counts the AON_CLK edge that a tick brings: one in 32 ticks, while REFCLK is present (R20, R21, R517). -/
def aonTick (s : State) : State :=
  if s.refLost then s
  else if s.aonPhase = 0 then { s.setReg .TOP_UPTIME 0 (s.reg .TOP_UPTIME 0 + 1) with aonPhase := 31 }
  else { s with aonPhase := s.aonPhase - 1 }

/-! ### Traceability and bounds (R333–R336, R547) -/

def timState (s : State) : Nat := s.fld F.TIM_STATE_STATE 0

/-- Nanoseconds since HOLD_START; 0 outside HOLDOVER. -/
def heldNs (s : State) : Nat := if s.timState = 2 then s.wide.toNat - s.tim.holdStart.toNat else 0

/-- The HOLD term and GROWTH at the present time (R335). -/
def holdPs (s : State) : Nat :=
  let t := s.heldNs
  s.fld F.TIM_HOLD_CFG_RATE 0 * t / 10 ^ 9 + s.fld F.TIM_HOLD_CFG_AGING 0 * t * t / (2000 * 10 ^ 18)
def growthPs (s : State) : Nat :=
  if s.timState ≠ 2 then 0
  else s.fld F.TIM_HOLD_CFG_RATE 0 + (s.fld F.TIM_HOLD_CFG_AGING 0 * s.heldNs + 10 ^ 12 - 1) / 10 ^ 12

/-- BOUND_DEV and BOUND_HOST_h as they read (R335). -/
def boundDev (s : State) : Nat := if s.timState = 0 then 0xFFFFFFFF else s.fld F.TIM_BOUND_BOUND_DEV_PS 0
def boundHost (s : State) (h : Nat) : Nat :=
  if s.timState = 0 ∨ !s.flag F.TIM_PTM_STATUS_VALID h then 0xFFFFFFFF
  else min 0xFFFFFFFE (s.boundDev + s.fld F.TIM_PTM_STATUS_UNC_PS h)

/-! ### Time Pages (R346–R348) -/

def ptm (s : State) (h : Nat) : Ptm := SMap.get {} s.tim.ptm h
def setPtm (s : State) (h : Nat) (p : Ptm) : State := s.setTim { s.tim with ptm := SMap.put {} s.tim.ptm h p }

/-- The page of host `h` with a SEQ (R347). -/
def pageBytes (s : State) (h : Nat) (seq : BitVec 32) : List Byte :=
  let p := s.ptm h
  let leap := s.fld F.TIM_LEAP_LEAP 0
  let flags := s.timState + 4 * b2n (s.flag F.TIM_PTM_STATUS_VALID h) + 8 * b2n (s.flag F.TIM_LEAP_UTC_VALID 0) + 16 * leap
  let parts : List (Nat × Nat) := [(4, seq.toNat), (4, 1 + 256 * flags), (8, s.wide.toNat), (8, s.frac.toNat), (8, p.dev.toNat),
    (8, p.host.toNat), (4, p.rate.toNat), (4, s.fld F.TIM_PTM_STATUS_UNC_PS h), (4, s.boundDev), (4, s.boundHost h),
    (4, if s.timState = 2 then s.tim.growth else 0), (4, s.fld F.TIM_LEAP_UTC_OFFSET 0), (8, if leap = 0 then 0 else s.fld F.TIM_LEAP_TIME_SEC 0),
    (8, if s.timState = 2 then s.tim.holdStart.toNat else 0), (4, s.tim.servoPs), (4, s.fld F.TIM_ASYM_PS 0),
    (4, if s.timState = 2 then s.fld F.TIM_BOUND_HOLD_PS 0 else 0), (4, 4000)]
  let bs := (parts.map fun e => toBytesLE e.1 e.2).flatten
  bs ++ List.replicate (128 - bs.length) 0

/-- The page of host `h` is brought up to date: the mirror, and three posted writes where it is enabled (R346, R350). -/
def pageUpdate (s : State) (h : Link) : State :=
  let s := (s.epoch .pageUpdate .TIM_TP_CTL 0).epoch .pageUpdate .TIM_TP_ADDR h.val
  let odd := SMap.get 0 s.tim.seqs h.val + 1
  let page := s.pageBytes h.val (odd + 1)
  let s := s.setTim { s.tim with seqs := SMap.put 0 s.tim.seqs h.val (odd + 1), pages := SMap.put [] s.tim.pages h.val page }
  if s.isSafe || s.fld F.TIM_TP_CTL_EN 0 / 2 ^ h.val % 2 == 0 then s
  else
    let a := s.fld F.TIM_TP_ADDR_ADDR h.val * 128
    let w (at_ : Nat) (bs : List Byte) : Part := { addr := a + at_, len := bs.length, data := bs }
    s.runJob { fn := .pf h, span := none, dep := .other, write := true
               parts := [w 0 (toBytesLE 4 odd.toNat), w 4 (page.drop 4), w 0 (page.take 4)] }

/-! ### Changes of state (R334, R335) -/

/-- The traceability state changes, and every Time Page with it (R334, R346). -/
def setTimState (s : State) (v : Nat) : State :=
  if s.timState = v then s else (List.finRange 8).foldl pageUpdate ((s.setFld F.TIM_STATE_STATE 0 v).timEvt 0)

/-- LOCKED to HOLDOVER: HOLD_START is the present time. -/
def toHoldover (s : State) : State := (s.setTim { s.tim with holdStart := s.wide }).setTimState 2

/-- The bounds at a refill tick, and the limit of HOLDOVER (R334, R335). -/
def boundTick (s : State) : State :=
  let hold := s.holdPs
  let b := min 0xFFFFFFFE (4000 + s.fld F.TIM_ASYM_PS 0 + s.tim.servoPs + hold)
  let s := (s.setFld F.TIM_BOUND_BOUND_DEV_PS 0 (if s.timState = 0 then 0xFFFFFFFF else b)).setFld F.TIM_BOUND_HOLD_PS 0 (min hold 0xFFFFFFFF)
  let s := s.setTim { s.tim with growth := min 0xFFFFFFFF s.growthPs }
  if s.timState = 2 ∧ s.fld F.TIM_LIMITS_BOUND_LIMIT_NS 0 * 1000 < b then s.timTogether fun s => ((s.setTimState 0).timEvt 2).raise 0x03 0x02 b else s

end State

/-! ### Adjustment commands -/

/-- TIME_CLK_TICK (R324, R327); an armed compare that has come near enough starts the wake of its gated Truss (R496). -/
def execTimeClkTick (s : State) : Out3 := .next (if s.coreUp then s.tick.aonTick.nearWake else s)

/-- STEP (R326): TIM_ADJ_ARG, signed, in units of 2^-16 ns. -/
def execStep (servo : Bool) (q : Seq) (s : State) : Out3 := .next <|
  s.adjOn servo .TIM_ADJ_CMD (cmdWord 1 q) fun s => s.adjAdd (.step (s.reg .TIM_ADJ_ARG 0) q)

/-- SET (R326). -/
def execSet (servo : Bool) (q : Seq) (s : State) : Out3 := .next <|
  s.adjOn servo .TIM_ADJ_CMD (cmdWord 2 q) fun s => s.adjAdd (.set (s.reg .TIM_ADJ_ARG 0) q)

/-- SLEW (R326): a waiting TICKS takes effect. -/
def execSlew (servo : Bool) (q : Seq) (s : State) : Out3 := .next <| s.adjOn servo .TIM_ADJ_CMD (cmdWord 3 q) fun s =>
  let s := s.epoch .slew .TIM_SLEW_TICKS 0
  s.adjAdd (.slew (s.reg .TIM_ADJ_ARG 0) (s.fld F.TIM_SLEW_TICKS_TICKS 0) q)

/-- SLEW_ABORT (R326). -/
def execSlewAbort (servo : Bool) (q : Seq) (s : State) : Out3 := .next <|
  s.adjOn servo .TIM_ADJ_CMD (cmdWord 4 q) fun s => s.adjAdd (.slewAbort q)

/-! ### Traceability -/

/-- TIM_SERVO_UPD (R334, R547). -/
def execTimServoUpd (servo : Bool) (offset : BitVec 32) (req : BitVec 2) (s : State) : Out3 := .next <|
  s.adjOn servo .TIM_SERVO_UPD (offset.setWidth 64 ||| req.setWidth 64 <<< 32) fun s =>
  let take (u : State) : State := u.setTim { u.tim with servoPs := min offset.toNat 0xFFFFFFFE }
  match req.toNat, s.timState with
  | 1, _ => (take s).setTimState 1
  | 2, 1 => (take s).toHoldover
  | 0, 1 => take s
  | 3, _ => s.setTimState 0
  | _, _ => s

/-- WATCHDOG (R334): no servo update came for WATCHDOG_MS. -/
def execWatchdog (s : State) : Out3 := .next <|
  if s.timState = 1 then s.timTogether fun s => (s.toHoldover.timEvt 1).raise 0x03 0x01 else s

/-- COUNTER_FAULT (R353). -/
def execCounterFault (s : State) : Out3 := .next <|
  s.timTogether fun s => (((s.setTimState 0).bump F.TIM_ERR_CNT_COMPARE 0).timEvt 8).raise 0x03 0x03

/-- LEAP_DONE (R336): the leap applies where the counter has reached it. -/
def execLeapDone (s : State) : Out3 := .next <|
  let leap := s.fld F.TIM_LEAP_LEAP 0
  if leap = 0 ∨ s.wide.toNat / 10 ^ 9 < s.fld F.TIM_LEAP_TIME_SEC 0 then s
  else
    let u := s.fld F.TIM_LEAP_UTC_OFFSET 0
    let s := s.setFld F.TIM_LEAP_UTC_OFFSET 0 (if leap = 1 then u + 1 else u + 65535)
    let s := ((s.setFld F.TIM_LEAP_LEAP 0 0).setFld F.TIM_LEAP_TIME_SEC 0 0).timEvt 7
    (List.finRange 8).foldl State.pageUpdate s

/-- TIME_PAGE_UPDATE (R346). -/
def execTimePageUpdate (h : Link) (s : State) : Out3 := .next (s.pageUpdate h)

/-- REFILL_TICK (R287, R206, R242, R335): shapers, policers, slow-path and learning buckets, and the bounds; PIPE_CLK, whose cycles the
tick counts, runs with the CORE domain. -/
def execRefillTick (s : State) : Out3 := .next <|
  if !s.coreUp then s
  else
  let s := s.tmsTick
  let s := (List.range 4).foldl (fun u p =>
    let u := (u.epoch .slowRefill .CLS_SP_RATE p).epoch .slowRefill .TBL_LEARN_CFG p
    let u := u.setFld F.CLS_SP_TOKENS_TOKENS p
      (min (u.fld F.CLS_SP_TOKENS_TOKENS p + u.fld F.CLS_SP_RATE_RATE p) (256 * u.fld F.CLS_SP_BURST_BURST p))
    { u with learnUsed := SMap.put 0 u.learnUsed p (SMap.get 0 u.learnUsed p - u.fld F.TBL_LEARN_CFG_RATE p) }) s
  ((s.boundTick).restartEnd 0).restartEnd 1

/-! ### Reads of the counter -/

/-- TIM_NOW is read: the value, and the fraction latched. -/
def State.timNow (s : State) : Word × State := (s.wide, s.setFld F.TIM_NOW_FRAC_FRAC 0 s.frac.toNat)

/-- TIM_NOW_READ (R351). -/
def execTimNowRead (s : State) : Out3 := .next <| s.onRead .TIM_NOW 0 fun s => let (w, s) := s.timNow; s.emit (.readData w)

/-! ### Capture channels (R339) -/

namespace State

def caps (s : State) (n : Nat) : List Capture := SMap.get [] s.capFifo n
def setCaps (s : State) (n : Nat) (l : List Capture) : State := { s with capFifo := SMap.put [] s.capFifo n l }

/-- TIM_CAP_HI is read: the oldest entry's SEC, EDGE and VALID, with NS and FRAC latched in TIM_CAP_LO. -/
def capPop (s : State) (n : Nat) : Word × State :=
  match s.caps n with
  | [] => (0, s)
  | c :: rest =>
    let w := c.wide.toNat
    (BitVec.ofNat 64 (w / 10 ^ 9 + 2 ^ 48 * b2n c.rising + 2 ^ 63),
      (s.setCaps n rest).setReg .TIM_CAP_LO n (BitVec.ofNat 64 (c.frac.toNat + 2 ^ 16 * (w % 10 ^ 9))))

end State

/-- Source TIME of the servo thread becomes pending (R389); its Truss wakes (R496). -/
def State.servoWake (s : State) : State :=
  (List.range 12).foldl (fun s t => if s.flag F.TRS_INFO_SERVO_HERE t then s.sourceWake t else s) s

/-- CAPTURE_EDGE (R339): an edge on input `n`, `k` steps of 62.5 ps into the present tick. -/
def execCaptureEdge (x : CapEdge) (rising : Bool) (s : State) : Out3 := .next <|
  let n := x.input.val
  let sel := s.fld F.TIM_CAP_CTL_EDGE n
  if !s.flag F.TIM_CAP_CTL_EN n || !(sel == 3 || (sel == 2) == !rising) then s
  else
    let last := SMap.get 0 s.tim.lastEdge n
    let now := 5 * s.cycle.toNat + x.place.val + 1
    if 16 ≤ (s.caps n).length ∨ (last ≠ 0 ∧ now < last + 80) then s.bump F.TIM_CAP_STATUS_OVF n
    else
      let t := State.stampOf (s.timeIn x.place - s.calDelay F.TIM_CAP_CTL_DELAY n)
      let s := s.setTim { s.tim with lastEdge := SMap.put 0 s.tim.lastEdge n now }
      ((s.setCaps n (s.caps n ++ [{ wide := State.wideOf t, frac := State.fracOf t, rising := rising }])).timEvt 3).servoWake

/-- CAP_POP (R339). -/
def execCapPop (n : Fin 5) (s : State) : Out3 := .next <|
  s.onRead .TIM_CAP_HI n.val fun s => let (w, s) := s.capPop n.val; s.emit (.readData w)

/-! ### REF10M_IN (R340) -/

/-- REF10M_MARK. -/
def execRef10mMark (s : State) : Out3 := .next <|
  if !s.flag F.TIM_REF10M_STATUS_PRESENT 0 then s
  else (s.setReg .TIM_REF10M_CAP 0 s.wide).setFld F.TIM_REF10M_STATUS_MARKS 0 (s.fld F.TIM_REF10M_STATUS_MARKS 0 + 1)

/-- REF10M_LOSS. -/
def execRef10mLoss (s : State) : Out3 := .next <|
  ((s.setFld F.TIM_REF10M_STATUS_PRESENT 0 0).setFld F.TIM_REF10M_STATUS_LOSS 0 1).timEvt 4

/-- REF10M_RETURN: the next edge. -/
def execRef10mReturn (s : State) : Out3 := .next (s.setFld F.TIM_REF10M_STATUS_PRESENT 0 1)

/-! ### GNSS UART (R341) -/

/-- GNSS_LINE: a byte is received, with its stop bit or without. The start bit of the first byte after an LF is timestamped, and a
received LF ends its line, whether or not the byte is dropped (log entry 70). -/
def execGnssLine (b : Byte) (stop : Bool) (s : State) : Out3 := .next <|
  if !s.flag F.TIM_GNSS_CTL_EN 0 then s
  else
    let first := s.tim.lineStart
    let now := s.wide
    let s := s.setTim { s.tim with lineStart := stop && b == 0x0A }
    let s := if first then (s.setReg .TIM_GNSS_LINE_TS 0 now).timEvt 5 else s
    if !stop then s.setFld F.TIM_GNSS_STATUS_FRAMING 0 1
    else if 2048 ≤ s.gnssRx.length then s.setFld F.TIM_GNSS_STATUS_RX_OVERRUN 0 1
    else
      let s : State := { s with gnssRx := s.gnssRx ++ [{ byte := b, line := if first then some now else none }] }
      if first then s.servoWake else s

/-- TIM_GNSS_RX is read: the next byte, or 0. -/
def State.gnssPop (s : State) : Word × State :=
  match s.gnssRx with
  | [] => (0, s)
  | g :: rest => (BitVec.ofNat 64 (g.byte.toNat + 256 + 512 * b2n g.line.isSome), { s with gnssRx := rest })

/-- GNSS_RX_READ. -/
def execGnssRxRead (s : State) : Out3 := .next <| s.onRead .TIM_GNSS_RX 0 fun s => let (w, s) := s.gnssPop; s.emit (.readData w)

/-- GNSS_TX_WRITE. -/
def execGnssTxWrite (b : Byte) (s : State) : Out3 := .next <| s.onReg .TIM_GNSS_TX 0 (b.setWidth 64) fun s =>
  if 256 ≤ s.gnssTx.length then s.setFld F.TIM_GNSS_STATUS_TX_OVERRUN 0 1 else { s with gnssTx := s.gnssTx ++ [b] }

/-- GNSS_TX_BYTE_SENT. -/
def execGnssTxByteSent (s : State) : Out3 := .next <|
  match s.gnssTx with
  | b :: rest => if s.flag F.TIM_GNSS_CTL_EN 0 then ({ s with gnssTx := rest }).emit (.uart b) else s
  | [] => s

/-! ### Outputs (R342, R343) -/

namespace State

/-- Number of scheduled instants START + i × PERIOD at or before a time, all in counter units. -/
def edgesTo (start period : Int) (t : BitVec 96) : Int :=
  if (t.toNat : Int) < start then 0 else ((t.toNat : Int) - start) / period + 1

/-- The scheduled instant that the counter passed at the latest tick, if it passed one. -/
def passed (s : State) (start period : Int) : Option Int :=
  if edgesTo start period s.tim.prev < edgesTo start period s.time then some (start + (edgesTo start period s.time - 1) * period) else none

/-- An output rises at a scheduled instant. -/
def riseAt (p : OutPin) (i : Int) : OutPin := { p with high := true, rose := i, edge := stampOf i }

/-- An output falls, once it has been high for `width`; otherwise it stays (R342). -/
def fallAfter (s : State) (p : OutPin) (width : Int) : OutPin :=
  if p.high && decide (p.rose + width ≤ (s.time.toNat : Int)) then { p with high := false, edge := stampOf (p.rose + width) } else p

def tout (s : State) (k : Nat) : OutPin := SMap.get {} s.tim.touts k
def setTout (s : State) (k : Nat) (p : OutPin) : State := s.setTim { s.tim with touts := SMap.put {} s.tim.touts k p }

/-- START and PERIOD of an output in counter units. -/
def toutStart (s : State) (k : Nat) : Int := (s.reg .TIM_TOUT_START k).toNat * 4294967296
def toutPeriod (s : State) (k : Nat) : Int := s.fld F.TIM_TOUT_PERIOD_PERIOD k * 65536

/-- Levels of the pins. -/
def ppsLevel (s : State) : Bool :=
  s.flag F.TIM_PPS_OUT_EN 0 && s.tim.pps.high && !(s.flag F.TIM_PPS_OUT_SQUELCH 0 && s.timState == 0)
def toutLevel (s : State) (k : Nat) : Bool :=
  (match s.fld F.TIM_TOUT_CTL_MODE k with | 0 => false | 1 => s.flag F.TIM_TOUT_CTL_LEVEL k | _ => (s.tout k).high) &&
    !(s.flag F.TIM_TOUT_CTL_SQUELCH k && s.timState == 0)

end State

/-- PPS_OUT_EDGE (R342): the output rises where the counter passed a whole second plus OFFSET_NS, with the waiting WIDTH_US and
OFFSET_NS; or falls WIDTH_US later. -/
def execPpsOutEdge (rise : Bool) (s : State) : Out3 := .next <|
  if !s.flag F.TIM_PPS_OUT_EN 0 then s
  else if !rise then s.setTim { s.tim with pps := s.fallAfter s.tim.pps (s.fld F.TIM_PPS_OUT_WIDTH_US 0 * 1000 * 4294967296) }
  else
    let t := s.epoch .ppsPulse .TIM_PPS_OUT 0
    match t.passed ((signed 32 (t.fld F.TIM_PPS_OUT_OFFSET_NS 0) - 1000000000) * 4294967296) (1000000000 * 4294967296) with
    | some i => t.setTim { t.tim with pps := State.riseAt t.tim.pps i }
    | none => s

/-- TOUT_EDGE (R342): output `k` rises at a scheduled instant that the counter passed; or falls WIDTH later. -/
def execToutEdge (k : Fin 4) (rise : Bool) (s : State) : Out3 := .next <|
  let k := k.val
  let mode := s.fld F.TIM_TOUT_CTL_MODE k
  let p := s.tout k
  if mode < 2 then s
  else if !rise then s.setTout k (s.fallAfter p (s.fld F.TIM_TOUT_WIDTH_WIDTH k * 65536))
  else if mode = 2 then
    let at_ : Int := s.toutStart k
    if !p.done && decide ((s.tim.prev.toNat : Int) < at_ ∧ at_ ≤ (s.time.toNat : Int)) then s.setTout k { State.riseAt p at_ with done := true } else s
  else match s.passed (s.toutStart k) (s.toutPeriod k) with
    | some i => s.setTout k (State.riseAt p i)
    | none => s

/-- TIM_PPS_OUT is written (R342): with EN = 0 the output is low. -/
def State.ppsWrite (s : State) : State := if s.flag F.TIM_PPS_OUT_EN 0 then s else s.setTim { s.tim with pps := {} }

/-- TOUT_CTL_WRITE (R342): MODE, LEVEL and SQUELCH; the waiting START, PERIOD and WIDTH take effect. -/
def State.toutCtl (s : State) (k v : Nat) : State :=
  let s := ((s.epoch .toutCtl .TIM_TOUT_START k).epoch .toutCtl .TIM_TOUT_PERIOD k).epoch .toutCtl .TIM_TOUT_WIDTH k
  let s := s.setReg .TIM_TOUT_CTL k (BitVec.ofNat 64 (v % 16))
  s.setTout k { high := false, done := decide (s.toutStart k ≤ (s.time.toNat : Int)) }

def execToutCtlWrite (k : Fin 4) (v : BitVec 4) (s : State) : Out3 := .next <|
  s.onReg .TIM_TOUT_CTL k.val (v.setWidth 64) fun s => s.toutCtl k.val v.toNat

/-- SYNCE_CLK_FALLING_EDGE (R343). -/
def execSynceClkFallingEdge (j : Fin 2) (s : State) : Out3 := .next (s.epoch .synceEdge .TIM_SYNCE j.val)

/-- SQUELCHED of a SyncE output (R343). -/
def State.squelched (s : State) (j : Nat) : Bool :=
  !s.flag F.TIM_SYNCE_EN j || s.macState (s.fld F.TIM_SYNCE_SRC_MAC j) != 3

/-! ### PTM (R344, R345) -/

/-- PTM_DIALOG: a dialog starts on a link whose PF has PTM Enable set and is not in D3hot (R78). -/
def execPtmDialog (h : Link) (s : State) : Out3 := .next <|
  if !(s.fn (.pf h)).ptmEnable || (s.fn (.pf h)).d3hot || !s.linkUp h.val then s
  else
    let s := s.epoch .ptmDialog .TIM_PTM_CTL 0
    s.setPtm h.val { s.ptm h.val with dialog := true }

/-- PTM_DIALOG_DONE: the dialog yields a pair, or fails. The rate's fit is a free value (log entry 44).
A dialog during which PTM Enable was cleared yields nothing (R97). -/
def execPtmDialogDone (h : Link) (r : Option PtmRes) (s : State) : Out3 := .next <|
  let p := s.ptm h.val
  if !p.dialog then s
  else if !(s.fn (.pf h)).ptmEnable then s.setPtm h.val { p with dialog := false }
  else match r with
  | some r =>
    let (w, s) := s.fresh
    let unc := (r.t41.toNat - r.t32.toNat) / 2 + 1000 * (if r.gran = 0 then 20 else r.gran.toNat)
    let s := s.setPtm h.val { dialog := false, dev := s.wide, host := r.host, pairs := ((s.wide, r.host) :: p.pairs).take 8
                              rate := w.setWidth 32, fails := 0 }
    (s.setFld F.TIM_PTM_STATUS_UNC_PS h.val (min unc 0xFFFFFFFF)).setFld F.TIM_PTM_STATUS_VALID h.val 1
  | none =>
    let s := (s.setPtm h.val { p with dialog := false, fails := p.fails + 1 }).bump F.TIM_PTM_STATUS_FAIL_CNT h.val
    if 3 ≤ p.fails + 1 then (s.setFld F.TIM_PTM_STATUS_VALID h.val 0).timEvt 6 else s

end Sys2Proof.Machine
end

