-- ==== Sys2Proof/Machine/Clamp.lean ====
section
/-!
DEFINITION. What a write stores where the value is out of range or a reserved encoding (R6): one function over the register tables'
Meaning cells, used by every register write and by an image's initial values (R52).
-/

namespace Sys2Proof.Machine

/-- The word last written to instance `i` of a register, in effect or waiting (R8, R288). -/
def State.written (s : State) (r : Reg) (i : Nat) : Word :=
  let p := s.pend r i
  merge p.mask (s.reg r i) p.val

/-- A field's value after its rule; a field that the write does not touch stays. -/
structure Fix where
  mask : Word
  word : Word

namespace Fix

/-- Applies a rule to field `[lo + n - 1 : lo]`. -/
def on (x : Fix) (lo n : Nat) (f : Nat → Nat) : Fix :=
  if x.mask &&& fieldMask lo n = 0 then x else { x with word := setBits x.word lo n (f (getBits x.word lo n)) }

/-- Forces a field into a range. -/
def range (x : Fix) (lo n a b : Nat) : Fix := x.on lo n (clampN a b)

/-- A reserved value of a field becomes its default. -/
def instead (x : Fix) (lo n bad dflt : Nat) : Fix := x.on lo n fun v => if v = bad then dflt else v

end Fix

namespace State

/-- The pool of the account whose limits are instance `a`. -/
def acctCount (s : State) (a : Nat) : Nat := match s.acctPool a with | some p => s.poolCount p | none => 0

/-- Nodes of a level (R276). -/
def levelSize (level : Nat) : Nat := [18, 256, 4096, 16384].getD level 0

/-- The word that a write of `w` under `mask` to instance `i` of a register stores. -/
def fixWord (s : State) (r : Reg) (i : Nat) (mask w : Word) : Word :=
  let x : Fix := ⟨mask, w⟩
  let cirPir (c p : Reg) (isCir : Bool) : Fix :=
    let x := x.range 0 26 0 51200000
    if isCir then x.on 0 26 fun v => min v (getBits (s.written p i) 0 26) else x.on 0 26 fun v => max v (getBits (s.written c i) 0 26)
  let y : Fix := match r with
    | .CFG_STAGE_LEN => x.range 0 26 0 33554432
    | .CFG_DRAIN_LIMIT => x.range 0 7 1 100
    | .STU_LOG_CTL => x.range 8 37 1 (2 ^ 36)
    | .STU_WIN_CTL => x.range 16 25 1 16777216
    | .QE_CTX_RING => x.range 0 4 4 15
    | .QE_CTX_CFG => (x.on 0 8 (s.fixEq i)).range 16 9 16 256
    | .MBX_SEL => x.range 0 13 0 4103
    | .MBX_ROUTE => x.range 1 4 0 11
    | .CLS_SP_BURST => x.range 0 16 1 65535
    | .CLS_SP_TARGET => (List.range 5).foldl (fun y c => y.instead (3 * c) 3 0 1) x
    | .TBL_CMDQ_CTL => x.range 0 4 4 12
    | .TBL_EVQ_CTL => x.range 0 4 4 15
    | .TBL_LEARN_CFG => x.range 32 16 1 65535
    | .BPM_POOL_SEL => x.range 0 8 0 (s.pools - 1)
    | .BPM_POOL_WM =>
      let y := x.range 0 27 0 (s.poolCount i)
      y.on 32 27 (clampN (getBits y.word 0 27) (s.poolCount i))
    | .BPM_ACCT_LIMIT =>
      let y := x.range 32 27 0 (s.acctCount i)
      y.range 0 27 0 (min (s.acctCount i) (getBits y.word 32 27))
    | .TMS_NODE_SEL => x.range 16 14 0 (levelSize (getBits w 0 2) - 1)
    | .TMS_NODE_QUANTUM => x.range 0 21 64 1048576
    | .TMS_NODE_CIR => cirPir .TMS_NODE_CIR .TMS_NODE_PIR true
    | .TMS_NODE_PIR => cirPir .TMS_NODE_CIR .TMS_NODE_PIR false
    | .TMS_POL_CIR => cirPir .TMS_POL_CIR .TMS_POL_PIR true
    | .TMS_POL_PIR => cirPir .TMS_POL_CIR .TMS_POL_PIR false
    | .TMS_NODE_CBS | .TMS_NODE_PBS | .TMS_POL_CBS | .TMS_POL_PBS => x.range 0 24 64 16777215
    | .TMS_Q_LIMIT =>
      let y := x.range 0 16 1 65535
      y.range 16 16 0 (getBits y.word 0 16)
    | .MAC_CTL => (x.range 16 15 64 16384).instead 32 2 3 0
    | .MAC_FC_CTL =>
      let y := (x.instead 0 2 3 0).range 16 16 1 65535
      y.range 32 16 1 (getBits y.word 16 16)
    | .MAC_TAG_CTL => x.instead 2 2 3 0
    | .MAC_SECY_CTL => x.instead 1 2 3 2
    | .MAC_CBS => x.on 8 24 fun v => max 1 (min v (s.macRate (i / 8)))
    | .MAC_FC_WM =>
      let y := x.range 0 10 1 511
      y.range 32 10 0 (getBits y.word 0 10 - 1)
    | .TIM_CTL => if s.flag F.TIM_SERVO_VALID 0 then x else x.on 0 1 fun _ => 0
    | .TIM_INCR => x.on 0 40 clampIncr
    | .TIM_SLEW_TICKS => x.instead 0 32 0 1
    | .TIM_ASYM => x.range 0 32 0 0xFFFFFFFE
    | .TIM_LIMITS => (x.instead 0 16 0 1).instead 32 16 0 1
    | .TIM_LEAP => x.instead 16 2 3 0
    | .TIM_TP_CTL => x.range 0 17 100 100000
    | .TIM_PTM_CTL => x.range 0 10 1 1000
    | .TIM_LAUNCH_CTL => (x.range 8 24 0 1000000).range 32 16 1 10000
    | .TIM_PPS_OUT =>
      (x.range 4 28 1 999999).on 32 32 fun v => unsigned 32 (max (-500000000) (min 499999999 (signed 32 v)))
    | .TIM_GNSS_CTL => x.range 4 20 4800 921600
    | .TIM_CAP_CTL => x.instead 1 2 0 1
    | .TIM_TOUT_PERIOD => x.range 0 48 1310720 281149440000000
    | .TIM_TOUT_WIDTH => x.on 0 48 (clampN 327680 (getBits (s.written .TIM_TOUT_PERIOD i) 0 48 - 327680))
    | .TIM_SYNCE => x.instead 4 2 3 0
    | .CIP_SA_CFG =>
      let y := (x.instead 0 2 3 0).range 16 9 0 256
      if getBits y.word 0 2 = 1 then y.on 4 1 fun _ => 1 else y
    | .CIP_SA_PN =>
      let c := s.written .CIP_SA_CFG 0
      (x.instead 0 64 0 1).on 0 64 fun v => if getBits c 0 2 = 0 ∧ !bitOf c 3 then min v 0xFFFFFFFF else v
    | .CIP_SA_CNTIDX => x.on 0 24 s.counterIdx
    | .CIP_RAW_WIN => x.range 16 17 0 (65536 - getBits w 0 16)
    | .DMA_CH_CFG => x.instead 4 2 3 2
    | .DMA_CH_RING =>
      let y := x.range 0 4 4 12
      if bitOf (s.written .DMA_CH_CFG i) 0 then
        y.on 8 56 fun v => if s.inEngineRegion (256 * v) (32 * 2 ^ getBits y.word 0 4) then v else s.dbase / 256
      else y
    | .FCU_PIN => x.range 4 12 2 1000
    | .DBG_TOKEN_PTR => x.range 0 10 0 622
    | .DBG_THR_SEL => x.range 0 10 0 767
    | .DBG_REG_SEL => x.on 0 6 fun v => if v ≤ 41 then v else 0
    | .PWR_TJ_CFG =>
      let y := x.on 0 12 fun v => unsigned 12 (max (-320) (min 1000 (signed 12 v)))
      let y := y.on 16 12 fun v => unsigned 12 (max (signed 12 (getBits y.word 0 12)) (min 1000 (signed 12 v)))
      y.instead 32 4 0 1
    | .PWR_AGE_CFG => x.instead 0 8 0 1
    | _ => x
  y.word

end State

end Sys2Proof.Machine
end

