-- ==== Sys2Proof/Machine/Clocks.lean ====
section
/-!
DEFINITION. Reference clocks (R22, R23).
-/

namespace Sys2Proof.Machine

namespace State

/-- Every MAC that is UP or REMOTE_FAULT moves to ACQUIRING with LINK_DOWN (R23, R301). -/
def dropLanes (s : State) : State :=
  (List.range 16).foldl (fun u m => if u.macState m = 3 ∨ u.macState m = 4 then (u.setMacState m 2).macEvt m 1 else u) s

end State

/-- REFCLK_LOSS (R22): the PLL holds; REF_LOSS is set, PLL_LOCK clears, and a FAT fault is recorded; nothing is recorded while the
core domains are in reset or off, where the collector is too (R517). -/
def execRefclkLoss (s : State) : Out3 := .next <|
  if s.refLost ∨ s.dev = .off then s
  else
    let s : State := { s with refLost := true }
    if !s.coreUp then s
    else ((s.setFld F.TOP_CLK_STATUS_REF_LOSS 0 1).setFld F.TOP_CLK_STATUS_PLL_LOCK 0 0).raise 0x00 0x01 1

/-- REFCLK_RETURN (R22): the PLL relocks; the ticks to the next AON_CLK edge, which R21 leaves open at a relock, are a free value (log
entry 6). -/
def execRefclkReturn (s : State) : Out3 := .next <|
  if !s.refLost then s
  else
    let s : State := { s with refLost := false }
    if s.coreUp then
      let (w, s) := s.fresh
      { s.setFld F.TOP_CLK_STATUS_PLL_LOCK 0 1 with aonPhase := w.toNat % 32 }
    else s

/-- ETH_REFCLK_LOSS (R23): ETH_REF_LOSS, a FAT fault, and every lane loses its lock; in Standby the Standby link leaves UP and
nothing is recorded, and while the core domains are in reset the loss is recorded at their release, if it still stands (R517). -/
def execEthRefclkLoss (s : State) : Out3 := .next <|
  if s.ethLost ∨ s.dev = .off then s
  else
    let s : State := { s with ethLost := true }
    if s.dev = .standby then
      if s.standbyUp then
        let s : State := { s with standbyUp := false }
        if s.flag F.MAC_WAKE_CTL_LINK_EN 0 then s.setFld F.MAC_WAKE_STATUS_LINK 0 1 else s
      else s
    else if !s.coreUp then s
    else ((s.setFld F.TOP_CLK_STATUS_ETH_REF_LOSS 0 1).raise 0x00 0x01 2).dropLanes

/-- ETH_REFCLK_RETURN (R23): the enabled MACs, which are ACQUIRING, can train again. -/
def execEthRefclkReturn (s : State) : Out3 := .next { s with ethLost := false }

end Sys2Proof.Machine
end

