-- ==== Sys2Proof/Machine/Monitor.lean ====
section
/-!
DEFINITION. Supply, temperature and aging monitors (R513, R525–R532), and the removal of the supply (R511).
-/

namespace Sys2Proof.Machine

/-! ### Supplies -/

/-- Nominal voltage of each rail in mV (R511). -/
def railNominal : List Nat := [750, 850, 1100, 1800, 900, 1200, 1800, 750]

/-- A reading lies outside nominal ±5 % (R513). -/
def outside (nominal mv : Nat) : Bool := decide (mv * 100 < nominal * 95 ∨ nominal * 105 < mv * 100)

namespace State

/-- The monitors sample: the PLL is locked to its reference (R513, R525). -/
def sampling (s : State) : Bool := s.coreUp && !s.refLost

/-- A sample of rail `r`. -/
def railSample (s : State) (r mv : Nat) : State :=
  let m := SMap.get {} s.supply r
  let bad := outside (railNominal.getD r 0) mv
  let lo := if m.seen then min mv (s.fld F.PWR_SUPPLY_MIN_MV r) else mv
  let hi := if m.seen then max mv (s.fld F.PWR_SUPPLY_MAX_MV r) else mv
  let s := s.setReg .PWR_SUPPLY r (BitVec.ofNat 64 (mv + 65536 * lo + 4294967296 * hi))
  let set (u : State) (lo n : Nat) : State :=
    u.setReg .PWR_SUPPLY_STATUS 0 (setBits (u.reg .PWR_SUPPLY_STATUS 0) (lo + r) 1 n)
  let s := set s 0 (b2n bad)
  let s := if bad then set s 8 1 else s
  let good := if bad then 0 else m.good + 1
  let m' : RailMon := { seen := true, excursion := bad || (m.excursion && decide (good < 1000)), good := if bad || m.excursion then good else 0 }
  let s : State := { s with supply := SMap.put {} s.supply r m' }
  if bad && !m.excursion then s.raise 0x0B 0x01 (r + 65536 * mv) else s

end State

/-- SUPPLY_SAMPLE (R513): one sample of every rail, in mV. -/
def execSupplySample (mv : List (BitVec 16)) (s : State) : Out3 := .next <|
  if s.sampling then (List.range 8).foldl (fun u r => match mv[r]? with | some v => u.railSample r v.toNat | none => u) s else s

/-! ### Temperature -/

/-- The factor AF of R528 at `k` eighths of a degree Celsius, in units of 2^-96. -/
def ageFactor (k : Int) : Nat :=
  let one : Int := 2 ^ 96
  let y : Int := (one * 162470 / 7163 - one * 324940 / (10926 + 5 * k)) / 64
  let (v, _) := (List.range 24).foldl (fun (a : Int × Int) (i : Nat) => let t := a.2 * y / (one * ((i : Int) + 1)); (a.1 + t, t)) (one, one)
  ((List.range 6).foldl (fun v _ => v * v / one) v).toNat

/-- The least eighth of a degree, from `k` on (-60 °C at the start), whose factor times `n` reaches `sum`. -/
def teqFrom (sum n : Nat) : Nat → Int → Int
  | 0, k => k
  | fuel + 1, k => if sum ≤ n * ageFactor k then k else teqFrom sum n fuel (k + 1)

/-- Sensor with the highest reading, the lowest number of equals, and that reading. -/
def hottest : List (BitVec 12) → Nat → Nat × Int
  | [], _ => (0, 0)
  | [t], i => (i, t.toInt)
  | t :: l, i => let h := hottest l (i + 1); if h.2 ≤ t.toInt then (i, t.toInt) else h

/-- TEMP_SAMPLE (R525): one sample of every sensor, in eighths of a degree. -/
def execTempSample (ts : List (BitVec 12)) (s : State) : Out3 := .next <|
  if !s.sampling ∨ ts.isEmpty then s
  else
    let s := (List.range 28).foldl (fun u n => match ts[n]? with
      | some t => u.setReg .PWR_TJ n (BitVec.ofNat 64 (t.toNat + 32768)) | none => u) s
    let (k, t) := hottest ts 0
    let s := (s.setFld F.PWR_TJ_STATUS_HOT 0 (unsigned 12 t)).setFld F.PWR_TJ_STATUS_HOT_SENSOR 0 k
    let s := if s.peakClear || decide (signed 12 (s.fld F.PWR_TJ_PEAK_PEAK 0) < t) then
        { (s.setFld F.PWR_TJ_PEAK_PEAK 0 (unsigned 12 t)).setFld F.PWR_TJ_PEAK_SENSOR 0 k with peakClear := false }
      else s
    let s : State := { s with teqSum := s.teqSum + ageFactor t, teqCount := s.teqCount + 1 }
    let limit := signed 12 (s.fld F.PWR_TJ_CFG_LIMIT 0)
    let crit := signed 12 (s.fld F.PWR_TJ_CFG_CRIT 0)
    let hyst : Int := 8 * s.fld F.PWR_TJ_CFG_HYST 0
    let s := if crit ≤ t then s.setFld F.PWR_TJ_STATUS_THERM 0 1
      else if t < crit - hyst then s.setFld F.PWR_TJ_STATUS_THERM 0 0 else s
    if s.flag F.PWR_TJ_STATUS_OVER_LIMIT 0 then
      if t < limit - hyst then s.setFld F.PWR_TJ_STATUS_OVER_LIMIT 0 0 else s
    else if limit ≤ t then (s.setFld F.PWR_TJ_STATUS_OVER_LIMIT 0 1).raise 0x0B 0x02 (k + 65536 * unsigned 12 t)
    else s

/-- TJ_EQ_UPDATE (R528): a second has passed. -/
def execTjEqUpdate (s : State) : Out3 := .next <|
  if !s.coreUp then s
  else
    let s := s.bump F.PWR_TJ_EQ_SECONDS 0
    if s.teqCount = 0 then s else s.setFld F.PWR_TJ_EQ_TEQ 0 (unsigned 12 (teqFrom s.teqSum s.teqCount 1481 (-480)))

/-! ### Aging -/

/-- The monitored domain is ON (R529). -/
def State.ageOn (s : State) (n : Nat) : Bool :=
  s.sampling && (if n < 12 then s.trussPwr n == 0 else if n < 16 then s.pierPwr (n - 12) == 0 else true)

/-- AGING_MEASURE (R529): monitor `n` reads `v` half percents. -/
def execAgingMeasure (n : Fin 22) (v : Byte) (s : State) : Out3 := .next <|
  let n := n.val
  if !s.ageOn n then s
  else
    let s := s.setReg .PWR_AGE n (BitVec.ofNat 64 (v.toNat + 256 + 4294967296 * ((s.reg .TOP_UPTIME 0).toNat / 25000000 % 4294967296)))
    if s.fld F.PWR_AGE_CFG_WARN 0 ≤ v.toNat ∧ !SMap.get false s.aged n then
      ({ s with aged := SMap.put false s.aged n true }).raise 0x0B 0x03 (n + 256 * v.toNat)
    else s

/-! ### What survives -/

/-- Registers that report fuses (R477). -/
def fuseRegs : List Reg := [.TOP_GRADE, .CFG_MIN_SVN, .SEC_LC, .SEC_UID, .SEC_UID_HI, .SEC_SVN]

/-- The device with every register, slot, key and thread lost (R519, R511): only the fuses, the board's inputs, and the model's own
fields stay. -/
def State.blank (s : State) (d : DevState) : State :=
  let keep := fuseRegs.map fun r => regKey r 0
  let b : State := {
    dev := d, regs := SMap.keep keep.contains s.regs, refLost := s.refLost, ethLost := s.ethLost, out := s.out, free := s.free,
    pending := s.pending,
    links := (s.links.filter fun e => !e.2.perst).map fun e => (e.1, { perst := false }),
    sec := { fuseA := s.sec.fuseA, fuseB := s.sec.fuseB } }
  b.setFld F.SEC_KEYS_REVOKED 0 (s.fld F.SEC_KEYS_REVOKED 0)

/-- SUPPLY_REMOVED (R511): the device enters Off. -/
def execSupplyRemoved (s : State) : Out3 := .next (s.blank .off)

end Sys2Proof.Machine
end

