-- ==== Sys2Proof/Machine/Recovery.lean ====
section
/-!
DEFINITION. Recovery of resources from owners that are no longer live (R120–R124, R270).
-/

namespace Sys2Proof.Machine

namespace State

/-- A recovery command ends (R124, R534). -/
def rcvEnd (s : State) (q : Seq) (code : Nat) : State :=
  ((s.setFld F.STU_RCV_STATUS_BUSY 0 0).endCmd F.STU_RCV_STATUS_RESULT F.STU_RCV_STATUS_LAST_SEQ 0 code q).stuEvt 4

/-- A recovery command starts work that a later event ends. -/
def rcvStart (s : State) : State := s.setFld F.STU_RCV_STATUS_BUSY 0 1

/-- STU_RCV_ARG1.OWNER, and bits of STU_RCV_ARG0. -/
def rcvOwner (s : State) : BitVec 16 := BitVec.ofNat 16 (s.fld F.STU_RCV_ARG1_OWNER 0)
def rcvArg (s : State) (lo n : Nat) : Nat := getBits (s.reg .STU_RCV_ARG0 0) lo n

/-- Test 4 of R124: a live owner refuses, with a CE fault. -/
def rcvLive (s : State) (op : Nat) (q : Seq) (go : State → State) : State :=
  let o := s.rcvOwner
  if s.ownerLive o then (s.raise 0x05 0x02 (op + 65536 * o.toNat + 4294967296 * s.rcvArg 0 32)).rcvEnd q 2 else go s

/-- The tests of R124 in order, over the recorded owner of the object, if ARG0 names one. -/
def rcvTest (s : State) (op : Nat) (q : Seq) (held : Option (BitVec 16)) (go : State → State) : State :=
  if s.flag F.STU_RCV_STATUS_BUSY 0 then (s.endCmd F.STU_RCV_STATUS_RESULT F.STU_RCV_STATUS_LAST_SEQ 0 1 q).stuEvt 4
  else match held with
    | none => s.rcvEnd q 5
    | some o => if ownerKind o = 0 then s.rcvEnd q 4 else if o ≠ s.rcvOwner then s.rcvEnd q 3 else s.rcvLive op q go

end State

/-- BREAK_LOCK (R123, R124, R235): the lock bit of a FLOW or L2 entry and its owner clear. -/
def execBreakLock (q : Seq) (s : State) : Out3 := .next <| s.onReg .STU_RCV_CMD 0 (cmdWord 1 q) fun s =>
  let p := s.rcvArg 0 2
  let t := s.rcvArg 4 4
  let i := s.rcvArg 8 32
  let kind := s.tblKind p t
  let k := State.tkey p t i
  s.rcvTest 1 q (if 1 ≤ kind ∧ kind ≤ 3 ∧ i < s.tblSize p t then some (s.lockOf k) else none) fun s => (s.setLock k 0).rcvEnd q 0

/-- RELEASE_RAIL (R123, R124): the partial message is discarded and the reservation freed. -/
def execReleaseRail (q : Seq) (s : State) : Out3 := .next <| s.onReg .STU_RCV_CMD 0 (cmdWord 2 q) fun s =>
  let p := s.rcvArg 0 2
  let r := s.rcvArg 8 8
  s.rcvTest 2 q (some (match (s.rail p r).owner with | some n => State.ownerThread n | none => 0)) fun s =>
    let s := match (s.rail p r).owner with
      | some n => s.setThr n { s.thr n with rail := none, partMsg := [] }
      | none => s
    (s.setRail p r { s.rail p r with owner := none }).rcvEnd q 0

/-- RECLAIM_BAY (R123, R124, R436): the Bay starts to pass to the Management Function. -/
def execReclaimBay (q : Seq) (s : State) : Out3 := .next <| s.onReg .STU_RCV_CMD 0 (cmdWord 3 q) fun s =>
  let p := s.rcvArg 0 2
  let b := s.rcvArg 4 3
  s.rcvTest 3 q (some (s.bay p b).owner) fun s =>
    let x := s.bay p b
    if x.handover.isSome || x.transit.isSome then s.rcvEnd q 1
    else (s.setBay p b { x with handover := some (State.ownerMf, q, true) }).rcvStart

/-- SWEEP_BUFFERS (R123, R124, R270): the walk starts. -/
def execSweepBuffers (q : Seq) (s : State) : Out3 := .next <| s.onReg .STU_RCV_CMD 0 (cmdWord 4 q) fun s =>
  if s.flag F.STU_RCV_STATUS_BUSY 0 then (s.endCmd F.STU_RCV_STATUS_RESULT F.STU_RCV_STATUS_LAST_SEQ 0 1 q).stuEvt 4
  else s.rcvLive 4 q fun s =>
    let s := (s.epoch .sweepBuffers .BPM_SWEEP_ADDR 0).epoch .sweepBuffers .BPM_SWEEP_MAX 0
    let s := (s.setFld F.STU_RCV_STATUS_COUNT 0 0).setReg .BPM_SWEEP_STATUS 0 0
    { s.rcvStart with sweep := some (s.rcvOwner, q) }

namespace State

/-- The heads whose named owner is `o`, by rising index. -/
def sweptHeads (s : State) (o : BitVec 16) : List (Nat × BufRec) :=
  s.recs.filter fun e => e.2.owner == o && e.2.refs != 0 && !e.2.member && !e.2.poisoned

/-- The whole walk (R270): heads with one reference are freed, the others counted and listed. -/
def sweepAll (s : State) (o : BitVec 16) : State :=
  let heads := s.sweptHeads o
  let one := (heads.filter fun e => e.2.refs == 1).map Prod.fst
  let left := (heads.filter fun e => e.2.refs != 1).map Prod.fst
  let room := s.fld F.BPM_SWEEP_MAX_ENTRIES 0
  let listed := left.take room
  let s := one.foldl (fun u i => u.freeChain i) s
  let s := s.setFld F.STU_RCV_STATUS_COUNT 0 one.length
  let s := ((s.setFld F.BPM_SWEEP_STATUS_LEFT 0 left.length).setFld F.BPM_SWEEP_STATUS_LISTED 0 listed.length).setFld
    F.BPM_SWEEP_STATUS_OVER 0 (b2n (decide (room < left.length)))
  if listed.isEmpty then s
  else
    let a := s.fld F.BPM_SWEEP_ADDR_ADDR 0 * 4096
    s.runJob { fn := .mf, span := none, dep := .other, write := true
               parts := s.writeCut .mf a (listed.map (toBytesLE 4)).flatten }

end State

/-- SWEEP_BUFFERS_DONE (R270). -/
def execSweepBuffersDone (s : State) : Out3 := .next <|
  match s.sweep with
  | none => s
  | some (o, q) => ({ s.sweepAll o with sweep := none }).rcvEnd q 0

/-- TRANSFER_OWNER (R123, R124): NEW_OWNER becomes the buffer's last owner. -/
def execTransferOwner (q : Seq) (s : State) : Out3 := .next <| s.onReg .STU_RCV_CMD 0 (cmdWord 5 q) fun s =>
  let i := s.rcvArg 0 26
  let o := BitVec.ofNat 16 (s.fld F.STU_RCV_ARG1_NEW_OWNER 0)
  let k := State.ownerKind o
  let r := s.bufRec i
  let names := (s.poolOf i).isSome && !r.member && !r.poisoned && decide (1 ≤ k ∧ k ≤ 3)
  s.rcvTest 5 q (if names then some (if r.refs = 0 then 0 else r.owner) else none) fun s =>
    (s.setRec i { r with owner := o }).rcvEnd q 0

end Sys2Proof.Machine
end

