-- ==== Sys2Proof/Machine/Load.lean ====
section
/-!
DEFINITION. Loading an image into the device (R29, R37, R43, R60–R62, R440, R535): at boot into every block, at a swap into the
blocks whose sections differ, with what R60 keeps.
-/

namespace Sys2Proof.Machine

/-! ### RLD_PARTITION (R29, R51, R255) -/

/-- Units of 16 MiB in the RLD. -/
def rldUnits : Nat := 8192

/-- The regions that an image assigns, those of its RLD tables included. -/
def imgRegions (i : Image) : List (Nat × Nat) :=
  ([i.part.qctx, i.part.counters, i.part.engine] ++
    (i.piers.map fun p => (p.tables.filter fun t => t.kind == 1 || t.kind == 3 || t.kind == 4).map TblSchema.region).flatten).filter fun r => r.2 != 0

/-- The gaps that regions sorted by base leave from unit `at_` on. -/
def gaps : List (Nat × Nat) → Nat → List (Nat × Nat)
  | [], at_ => if at_ < rldUnits then [(at_, rldUnits - at_)] else []
  | r :: l, at_ => (if at_ < r.1 then [(at_, r.1 - at_)] else []) ++ gaps l (max at_ (r.1 + r.2))

/-- The space that no region holds. -/
def imgSpare (i : Image) : List (Nat × Nat) := gaps (sortBy (fun a b => decide (a.1 ≤ b.1)) (imgRegions i)) 0

/-- The buffer region (R29) in units, and the number of buffers. -/
def imgBuf (i : Image) : Nat × Nat := (imgSpare i).headD (0, 0)
def imgBuffers (i : Image) : Nat := (imgBuf i).2 * 8192

/-! ### Blocks and their registers (R60, R62) -/

/-- What a register of a block holds is state that R60 always keeps, or no run-time value of its block: the contexts of Spans, queues
and channels, the scratchpad's owners and modes, and the device's count of ticks (R287). -/
def keptReg : Reg → Bool
  | .STU_CTX_XLATE | .STU_LOG_CTL | .STU_LOG_BASE_A | .STU_LOG_BASE_B | .STU_XFER_ADDR | .STU_WIN_BASE | .STU_WIN_TARGET | .STU_WIN_CTL
  | .QE_CTX_RING | .QE_CTX_CFG | .QE_CTX_MOD | .QE_CTX_EVT | .MBX_ROUTE | .SPM_BAY_OWNER | .SPM_BAY_PWR | .TMS_TICK => true
  | _ => false

/-- The blocks that a swap can rebuild: 8 p + 0 PRS, 1 CLS, 2 TBL, 3 TMS, 4 DMA, 5 SPM of Pier p; 32 the BPM; 64 + t Truss t; 128 + b
the block at 0x100000 b, but for the FCU, the time unit, the CIP and the MACs, which R60 keeps. -/
def rebuildBlock (r : Reg) (i : Nat) : Option Nat :=
  if keptReg r then none else
  match regMap.find? fun l => l.reg == r with
  | none => none
  | some l =>
    let inner (n : Nat) : Nat := ((l.dims.drop n).map Prod.fst).foldl (· * ·) 1
    if l.base / 0x100000 = 8 then some 32
    else if l.base < 0x1000000 then
      match l.base / 0x100000 with
      | 2 | 3 | 9 | 10 => none
      | b => some (128 + b)
    else match (l.base - 0x1000000) / 0x100000 with
      | 0 => some (8 * (i / inner 1))
      | 1 => some (8 * (i / inner 1) + 1)
      | 2 => some (8 * (i / inner 1) + 2)
      | 3 =>
        let off := l.base % 0x100000
        if 0x18 ≤ off ∧ off < 0x78 then some (8 * (i / 65536) + 3)
        else if 0x80 ≤ off ∧ off < 0xB8 then some (8 * (i / 4096) + 3)
        else some (8 * i + 3)
      | 4 => some (8 * (if decide (0x10 ≤ l.base % 0x100000 ∧ l.base % 0x100000 < 0x40) then i / 64 else i / inner 1) + 4)
      | 5 => some (8 * (i / inner 1) + 5)
      | 8 => some (64 + i / inner 2)
      | _ => none

/-- A register whose waiting values are held for a Span, a queue or a channel, not for its block (R10, R62). -/
def heldReg (r : Reg) : Bool :=
  keptReg r || match r with | .TMS_POL_CIR | .TMS_POL_PIR | .TMS_POL_CBS | .TMS_POL_PBS | .TMS_POL_CTL => true | _ => false

/-- A block that loads from PARAMETERS alone: its rebuild is that of its run-time register values (R60). -/
def paramOnly (b : Nat) : Bool := decide (128 ≤ b) || decide (b < 32 ∧ 4 ≤ b % 8)

/-- The run-time fields of a register. -/
def runMask (r : Reg) : Word := r.maskOf fun f => f.access == .rw && f.apply != .image

namespace State

/-- Every register of the rebuilt blocks takes its reset value, and its waiting values are discarded (R60, R62); of a block that
loads from PARAMETERS alone the run-time fields do, and the channels of a DMA engine are disabled with their EN (log entry 85). -/
def clearBlocks (s : State) (rebuilt : Nat → Bool) : State :=
  let block (k : Nat) : Option Nat := rebuildBlock (Reg.ofNat (k % 512)) (k / 512)
  let gone (k : Nat) : Bool := match block k with | some b => rebuilt b && !paramOnly b | none => false
  let part := s.regs.filter fun e => match block e.1 with | some b => rebuilt b && paramOnly b | none => false
  let s : State := { s with regs := SMap.keep (fun k => !gone k) s.regs,
                            shadow := SMap.keep (fun k => heldReg (Reg.ofNat (k % 512)) || !(match block k with | some b => rebuilt b | none => false)) s.shadow,
                            dmaCh := SMap.keep (fun k => !rebuilt (8 * (k / 64) + 4)) s.dmaCh }
  part.foldl (fun u e =>
    let r := Reg.ofNat (e.1 % 512)
    u.setReg r (e.1 / 512) (merge (runMask r) e.2 r.resetWord)) s

/-- A smaller BURST of the slow path, by a write or from an image, clamps the tokens present at once (R205). -/
def spCut (s : State) (r : Reg) (p : Nat) : State :=
  if r = .CLS_SP_BURST then
    s.setFld F.CLS_SP_TOKENS_TOKENS p (min (s.fld F.CLS_SP_TOKENS_TOKENS p) (256 * s.fld F.CLS_SP_BURST_BURST p))
  else s

/-- Sets a field to a value of the image, clamped by R6 (R52). -/
def setParam (s : State) (f : Fld) (i v : Nat) : State :=
  (s.setReg f.reg i (s.fixWord f.reg i (fieldMask f.lo f.width) (setBits (s.reg f.reg i) f.lo f.width v))).spCut f.reg i

def setParamO (s : State) (f : Fld) (i : Nat) : Option Nat → State
  | none => s
  | some v => s.setParam f i v

/-! ### Which blocks differ (R60) -/

/-- CFG_REBUILT bits and the rebuilt blocks, from the image that ran and the one that comes. -/
structure Diff where
  blocks : List Nat := []
  pipes : Nat := 0
  tables : List (Nat × Nat) := []
  tms : Nat := 0
  trusses : List Nat := []
  bpm : Bool := false
  routes : Bool := false
  counters : Bool := false

/-- A table's contents are kept: it stands in both images with the same SCHEMA_ID, region base and region size (R60). -/
def keptTable (a b : Option TblSchema) : Bool :=
  match a, b with
  | some x, some y => x.schemaId == y.schemaId && x.region == y.region
  | none, none => true
  | _, _ => false

/-- Length and CRC of an image's sections of one type and scope (R39, R40). -/
def secsOf (i : Image) (type scope : Nat) : List (BitVec 32 × BitVec 32) :=
  (i.secs.filter fun e => e.type.toNat == type && e.scope.toNat == scope).map fun e => (e.length, e.crc)

/-- The sections of one type and scope differ, in length or CRC, between the images; with no old image they do (R60). -/
def differs (old : Option Image) (new : Image) (type scope : Nat) : Bool :=
  match old with | some o => secsOf o type scope != secsOf new type scope | none => true

def pierOf? (i : Option Image) (p : Nat) : Option PierImg := i.map fun x => x.piers.getD p {}

/-- The blocks that a PARAMETERS section names. -/
def paramBlocks (l : List Param) : List Nat := l.filterMap fun x => rebuildBlock x.fld.reg x.idx

/-- The blocks of which a PARAMETERS section that they load from differs (R60). -/
def paramDiff (old : Option Image) (new : Image) : List Nat :=
  match old with
  | none => []
  | some o => [(none, 0xFF), (some 0, 0), (some 1, 1), (some 2, 2), (some 3, 3)].flatMap fun (c : Option (Fin 4) × Nat) =>
      if differs old new 11 c.2 then paramBlocks (o.params.filter (Param.scope · == c.1)) ++ paramBlocks (new.params.filter (Param.scope · == c.1))
      else []

/-- The ternary rules of a Pier are kept (R60). -/
def keptRules (old : Option Image) (new : Image) (p : Nat) : Bool := !differs old new 6 p && !differs old new 3 p

/-- What differs between the images: a block is rebuilt when any section it loads from differs in length or CRC (R60). -/
def diff (old : Option Image) (new : Image) : Diff :=
  let ps := List.range 4
  let np (p : Nat) : PierImg := new.piers.getD p {}
  let named := paramDiff old new
  let sec := differs old new
  let cls (p : Nat) : Bool := named.contains (8 * p + 1) || sec 3 p || sec 5 p || sec 6 p
  let prs (p : Nat) : Bool := named.contains (8 * p) || sec 3 p
  let tbl (p : Nat) : Bool := named.contains (8 * p + 2) || sec 4 p || sec 12 p
  let tms (p : Nat) : Bool := named.contains (8 * p + 3) || sec 7 p
  let bpm : Bool := named.contains 32 || sec 8 0xFF || sec 2 0xFF || match old with | some o => imgBuf o != imgBuf new | none => true
  let trs := (List.range 12).filter fun t => sec 10 (0x10 + t)
  let cleared := (ps.map fun p => ((List.range 15).filter fun t => match pierOf? old p with
    | some o => !keptTable o.tables[t]? (np p).tables[t]?
    | none => true).map fun t => (p, t)).flatten
  let rest := (named.filter paramOnly).eraseDups
  let bits (f : Nat → Bool) : Nat := (ps.map fun p => if f p then 2 ^ p else 0).sum
  { blocks := (ps.map fun p => (if prs p then [8 * p] else []) ++ (if cls p then [8 * p + 1] else []) ++
        (if tbl p then [8 * p + 2] else []) ++ (if tms p then [8 * p + 3] else [])).flatten ++
      (if bpm then [32] else []) ++ rest ++ ((List.range 12).filter fun t => trs.contains t || named.contains (64 + t)).map (64 + ·),
    pipes := bits fun p => prs p || cls p, tables := cleared, tms := bits tms, trusses := trs, bpm := bpm,
    routes := sec 9 0xFF,
    counters := match old with | some o => o.part.counters != new.part.counters | none => true }

/-- Every block that a swap can rebuild. -/
def allBlocks : List Nat :=
  (List.range 4).flatMap (fun p => (List.range 6).map (8 * p + ·)) ++ [32] ++ (List.range 12).map (64 + ·) ++
    [0, 1, 4, 5, 6, 7, 11, 12, 13, 14].map (128 + ·)

/-- As `diff`; a reload goes into every block (R59). -/
def diffAll (old : Option Image) (new : Image) (all : Bool) : Diff :=
  let d := diff old new
  if all then
    { d with blocks := allBlocks,
             pipes := 15, tms := 15, bpm := true }
  else d

/-- CFG_REBUILT (R45). -/
def Diff.word (d : Diff) : Nat :=
  let tbl := ((List.range 4).map fun p => if d.tables.any fun t => t.1 == p then 2 ^ p else 0).sum
  d.pipes + 2 ^ 4 * tbl + 2 ^ 8 * d.tms + 2 ^ 12 * (d.trusses.map (2 ^ ·)).sum + 2 ^ 24 * b2n d.bpm + 2 ^ 25 * b2n d.routes +
    2 ^ 26 * b2n d.counters

/-! ### Host-facing structure and queues (R61, R145) -/

/-- The host-facing structure that an image gives link h. -/
def imgFace (i : Image) (h : Nat) : HostFace :=
  let x := i.hosts.getD h {}
  { base := x.base, count := x.count, bar2 := x.bar2,
    tdisp := ((List.range x.count).map (x.base + ·)).filter fun n => (i.spans.getD n {}).tdisp }

/-- The link takes its structure now at a boot, and at its next fundamental reset otherwise (R61). -/
def loadFace (s : State) (i : Image) (boot : Bool) (h : Nat) : State :=
  let f := imgFace i h
  let bit : Word := (1 : Word) <<< h
  if !boot && f == s.face h then
    { s.setReg .CFG_HOST_PENDING 0 (s.reg .CFG_HOST_PENDING 0 &&& ~~~bit) with facesNext := SMap.erase s.facesNext h }
  else
    let s := { s.setReg .CFG_HOST_PENDING 0 (s.reg .CFG_HOST_PENDING 0 ||| bit) with facesNext := SMap.put {} s.facesNext h f }
    if boot then s.applyFace h else s

/-- Queues of Span `n`: kind, Pier or Truss, Span and local index; contexts stay (R60, R144, R145). -/
def loadSpan (s : State) (n : Nat) (x : SpanImg) : State :=
  let s := s.setSpan n { s.span n with queues := x.queues.length, firstQueue := x.first }
  (x.queues.zipIdx).foldl (fun u e =>
    let q := x.first + e.2
    u.setQueue q { u.queue q with used := true, span := n, index := e.2, kind := e.1.kind, bind := e.1.bind }) s

def loadSpans (s : State) (i : Image) : State :=
  let s : State := { s with queues := (s.queues.map fun e => (e.1, { e.2 with used := false })).filter fun e => e.2 != {} }
  let s : State := { s with spans := (s.spans.map fun e => (e.1, { e.2 with queues := 0, firstQueue := 0 })).filter fun e => e.2 != {} }
  let s := (i.spans.zipIdx).foldl (fun u e => u.loadSpan e.2 e.1) s
  (s.queues.filter fun e => e.2.used).foldl (fun u e => u.legalEq e.1) s

/-! ### Tables and rules -/

def loadInit (s : State) (p t : Nat) : InitEnt → State
  | .flow i e => s.setFlow p t i e
  | .l2 i e => s.setL2 p t i e
  | .encap i e => { s with encaps := SMap.put {} s.encaps (tkey p t i) e }
  | .route r => { s with routes := SMap.put [] s.routes (tabKey p t) (SMap.get [] s.routes (tabKey p t) ++ [r]) }

/-- A table is cleared with its locks, then loaded from TABLE_INIT (R60). -/
def loadTable (s : State) (i : Image) (p t : Nat) : State :=
  let out (k : Nat) : Bool := decide (k / 2 ^ 32 ≠ t + 16 * p)
  let s : State := { s with flows := SMap.keep out s.flows, l2 := SMap.keep out s.l2, encaps := SMap.keep out s.encaps, locks := SMap.keep out s.locks,
                            l2Bad := SMap.keep out s.l2Bad, encapBad := SMap.keep out s.encapBad, routes := SMap.erase s.routes (tabKey p t) }
  ((i.piers.getD p {}).init.filter fun e => e.1 == t).foldl (fun u e => e.2.foldl (fun u x => u.loadInit p t x) u) s

/-- TBL_SCHEMA, TBL_INFO, CLS_SET and PRS_GRAPH_INFO of a Pier. -/
def loadInfo (s : State) (i : Image) (p : Nat) : State :=
  let x := i.piers.getD p {}
  let s := (s.setFld F.PRS_GRAPH_INFO_ING_NODES p x.ingress.length).setFld F.PRS_GRAPH_INFO_EGR_NODES p x.egress.length
  let s := (s.setFld F.TBL_INFO_TABLES p x.tables.length).setFld F.TBL_INFO_RLD_TABLES p (b2n i.hdr.rldTables)
  let s := (List.range 15).foldl (fun u t =>
    let y := x.tables.getD t { kind := 0, log2 := 0 }
    ((u.setFld F.TBL_SCHEMA_KIND (15 * p + t) y.kind).setFld F.TBL_SCHEMA_LOG2_SIZE (15 * p + t) y.log2).setFld
      F.TBL_SCHEMA_SCHEMA_ID (15 * p + t) y.schemaId.toNat) s
  (List.range 8).foldl (fun u n =>
    let y := x.sets.getD n (0, 0)
    (u.setFld F.CLS_SET_BASE (8 * p + n) y.1).setFld F.CLS_SET_COUNT (8 * p + n) y.2) s

/-- The rules of a Pier are those of CLASSIFIER_RULES; a bit whose mask is 0 always matches, so it is stored as 0 (R201). -/
def loadRules (s : State) (i : Image) (p : Nat) : State :=
  let out (k : Nat) : Bool := decide (k / 65536 ≠ p)
  let s : State := { s with rules := SMap.keep out s.rules, ruleBad := SMap.keep out s.ruleBad }
  (i.piers.getD p {}).rules.foldl (fun u e => u.setRule p e.1 { e.2 with key := e.2.key &&& e.2.mask }) s

/-! ### The scheduler (R276, R282, R535) -/

/-- A node's registers: reset values, the settings the section names, and the tree it hangs in. Of a CIR above the PIR that the section
names too, the CIR gives way (R52, log 125). -/
def loadNode (s : State) (p : Nat) (n : TreeNode) : State :=
  let k := nodeKey p n.level.val n.index
  let s := ((((s.setFld F.TMS_NODE_TREE_PARENT k n.parent).setFld F.TMS_NODE_TREE_DEST_KIND k n.kind).setFld F.TMS_NODE_TREE_TC k n.tc).setFld
    F.TMS_NODE_TREE_TRUSS k n.truss).setFld F.TMS_NODE_TREE_USED k 1
  let s := (((s.setParamO F.TMS_NODE_QUANTUM_QUANTUM k n.quantum).setParamO F.TMS_NODE_PIR_RATE k n.pir).setParamO F.TMS_NODE_CIR_RATE k n.cir)
  let s := ((s.setParamO F.TMS_NODE_CBS_SIZE k n.cbs).setParamO F.TMS_NODE_PBS_SIZE k n.pbs).setParamO F.TMS_NODE_OVERHEAD_BYTES k n.overhead
  let s := match n.green with
    | some g =>
      let s := s.setParam F.TMS_Q_LIMIT_GREEN_KIB k g
      s.setParam F.TMS_Q_LIMIT_YELLOW_KIB k (s.fld F.TMS_Q_LIMIT_GREEN_KIB k)
    | none => s
  s.setParamO F.TMS_Q_LIMIT_YELLOW_KIB k n.yellow

/-- Full buckets of a node; a port node has the peak bucket alone (R283). -/
def fullNode (s : State) (level k : Nat) : TmsNode :=
  { ctok := if level = 0 then 0 else 256 * s.fld F.TMS_NODE_CBS_SIZE k, ptok := 256 * s.fld F.TMS_NODE_PBS_SIZE k }

/-- The tree's nodes, with the 18 port nodes (R276). -/
def allNodes (x : PierImg) : List TreeNode :=
  let named := x.nodes
  let port (m : Nat) : TreeNode := { level := 0, index := m }
  named ++ ((List.range 18).filter fun m => !named.any fun n => n.level == 0 && n.index == m).map port

def hasNode (old : Option Image) (p : Nat) (n : TreeNode) : Bool :=
  match pierOf? old p with | some o => (allNodes o).any fun m => m.level == n.level && m.index == n.index | none => false

/-- The tree of a Pier: tokens of a node or policer that stays are kept, up to its bucket, the others start full (R60); `before` is the
state that the swap found. Of a policer's CIR above its PIR the PIR gives way (R52, log 125). -/
def loadTree (s before : State) (old : Option Image) (i : Image) (p : Nat) : State :=
  let x := i.piers.getD p {}
  let count (l : Nat) : Nat := (x.nodes.filter fun n => n.level.val == l).length
  let s := ((s.setFld F.TMS_INFO_GROUPS p (count 1)).setFld F.TMS_INFO_SPANS p (count 2)).setFld F.TMS_INFO_QUEUES p (count 3)
  let s := (List.range 16).foldl (fun u m => u.setFld F.TMS_NODE_OVERHEAD_BYTES (nodeKey p 0 m) 20) s
  let was := s.nodes
  let s : State := { s with nodes := SMap.keep (fun k => decide (k / 65536 ≠ p)) s.nodes, ptrs := SMap.keep (fun k => decide (k / 2 / 65536 ≠ p)) s.ptrs }
  let s := (allNodes x).foldl (fun u n =>
    let u := u.loadNode p n
    let k := nodeKey p n.level.val n.index
    let full := u.fullNode n.level.val k
    let o := SMap.get {} was k
    u.setNode k (if hasNode old p n then { ctok := min o.ctok full.ctok, ptok := min o.ptok full.ptok } else full)) s
  let s := x.policers.foldl (fun u y =>
    let k := polKey p y.span
    let u := (u.setFld F.TMS_POL_CTL_EN k (b2n y.en)).setFld F.TMS_POL_CTL_COLOR_AWARE k (b2n y.aware)
    let u := (u.setParamO F.TMS_POL_CIR_RATE k y.cir).setParamO F.TMS_POL_PIR_RATE k y.pir
    (u.setParamO F.TMS_POL_CBS_SIZE k y.cbs).setParamO F.TMS_POL_PBS_SIZE k y.pbs) s
  let sized (e : Nat × Word) : Bool := match Reg.ofNat (e.1 % 512) with | .TMS_POL_CBS | .TMS_POL_PBS => e.1 / 512 / 4096 == p | _ => false
  let pols := ((before.pols.map Prod.fst).filter fun k => k / 4096 == p) ++ ((before.regs ++ s.regs).filter sized).map (fun e => e.1 / 512)
  if old.isNone then s else pols.eraseDups.foldl (fun u k => u.keepPol before k) s

/-- Every deficit returns to 0 (R60). -/
def zeroDeficits (s : State) : State :=
  { s with nodes := (s.nodes.map fun e => (e.1, { e.2 with deficit := 0 })).filter fun e => e.2 != {} }

/-! ### Buffers (R60, R254, R271) -/

/-- The account that a buffer's charge goes to in the new image. -/
def newAccount (s : State) (i a : Nat) : Nat :=
  match s.poolOf i with
  | some p => if s.acctPool a = some p then a else s.fld F.BPM_POOL_ACCTS_ACCT_BASE p
  | none => a

/-- Pools, accounts and limits of BUFFER_POOLS; usage follows the records that stay. -/
def loadPools (s : State) (i : Image) : State :=
  let s := ((s.setFld F.BPM_INFO_POOLS 0 i.pools.length).setFld F.BPM_INFO_ACCOUNTS 0 (i.pools.map PoolImg.acctCount).sum).setFld
    F.BPM_INFO_BUFFERS 0 (imgBuffers i)
  let s := ((s.setFld F.BPM_REGION_BUF_BASE 0 (imgBuf i).1).setFld F.BPM_REGION_REC_BASE 0 i.part.recs.1).setFld
    F.BPM_REGION_REC_SIZE 0 i.part.recs.2
  let s := (i.pools.zipIdx).foldl (fun u e =>
    let u := (u.setFld F.BPM_POOL_RANGE_BASE e.2 e.1.base).setFld F.BPM_POOL_RANGE_COUNT e.2 e.1.count
    let u := (u.setFld F.BPM_POOL_ACCTS_ACCT_BASE e.2 e.1.acctBase).setFld F.BPM_POOL_ACCTS_ACCT_COUNT e.2 e.1.acctCount
    let u := (List.range e.1.acctCount).foldl (fun v a => v.setFld F.BPM_ACCT_LIMIT_MAX (e.1.acctBase + a) e.1.count) u
    let u := e.1.limits.foldl (fun v l => (v.setParam F.BPM_ACCT_LIMIT_MAX l.1 l.2.2).setParam F.BPM_ACCT_LIMIT_MIN l.1 l.2.1) u
    (u.setParamO F.BPM_POOL_WM_XOFF e.2 e.1.xoff).setParamO F.BPM_POOL_WM_XON e.2 e.1.xon) s
  let s : State := { s with bufCache := [] }
  let s := s.recs.foldl (fun u e =>
    if e.2.refs = 0 then u
    else
      let a := u.newAccount e.1 e.2.account
      (u.setRec e.1 { e.2 with account := a }).addUse a (u.chainOf 8 e.1).length) s
  (List.range i.pools.length).foldl poolWatch s

/-! ### Trusses (R60, R383, R410) -/

/-- TRS_INFO of a Truss. -/
def loadTrussInfo (s : State) (i : Image) (t : Nat) : State :=
  let x := i.fw.getD t {}
  let s := s.setReg .TRS_INFO t 0
  if x.code.isEmpty then s else (s.setFld F.TRS_INFO_FIRMWARE t 1).setFld F.TRS_INFO_ENTRY t x.entry.toNat

/-- A Truss takes its firmware: every thread returns to the pool, and the supervisor starts. -/
def loadTruss (s : State) (i : Image) (t : Nat) : State :=
  let x := i.fw.getD t {}
  let s := (trussThreads t).foldl (fun u n => (u.abandonEntries n).toPool n) s
  let s : State := { s with code := SMap.keep (fun k => decide (k / 65536 ≠ t)) s.code, codeLen := SMap.put 0 s.codeLen t (4 * x.code.length) }
  let s : State := { s with code := (x.code.zipIdx).foldl (fun m e => SMap.put 0 m (e.2 + 65536 * t) e.1) s.code }
  let s := x.data.foldl (fun u e => u.rldStore (u.dbase + e.1) e.2 false) s
  (s.loadTrussInfo i t).startSup t

/-- SERVO_HERE and SERVO_LOCAL of each Truss, and TIM_SERVO (R389). -/
def loadServo (s : State) (i : Image) : State :=
  let s := s.setReg .TIM_SERVO 0 0
  let s := (List.range 12).foldl (fun u t => (u.setFld F.TRS_INFO_SERVO_HERE t 0).setFld F.TRS_INFO_SERVO_LOCAL t 0) s
  match i.servo with
  | none => s
  | some n =>
    (((s.setFld F.TIM_SERVO_THREAD 0 n.val).setFld F.TIM_SERVO_VALID 0 1).setFld F.TRS_INFO_SERVO_HERE (n.val / 64) 1).setFld
      F.TRS_INFO_SERVO_LOCAL (n.val / 64) (n.val % 64)

/-- The Rails of a Pier take their readers; where a Truss of the Pier restarts they are cleared (R60, R394). -/
def loadRails (s : State) (i : Image) (p : Nat) (restart : Bool) : State :=
  let s := if restart then
      let held := s.rails.filter fun e => e.1 / 256 == p && e.2.owner.isSome
      let s := held.foldl (fun u e => match e.2.owner with | some n => u.setThr n { u.thr n with rail := none, partMsg := [] } | none => u) s
      { s with rails := (s.rails.map fun e => if e.1 / 256 = p then (e.1, { e.2 with msgs := [], owner := none }) else e) }
    else s
  let s : State := { s with rails := (s.rails.map fun e => if e.1 / 256 = p then (e.1, { e.2 with reader := none }) else e) }
  ((i.piers.getD p {}).rails.foldl (fun u e => u.setRail p e.1.val { u.rail p e.1.val with reader := some (3 * p + e.2.val) }) s).tidyRails

/-! ### PARAMETERS -/

/-- The Image-class fields of the distributors, which the device's PARAMETERS section gives (R211, R535). -/
def loadDist (s : State) (i : Image) : State :=
  let mine (r : Reg) : Bool := r == .MAC_DIST_HASH_CFG || r == .MAC_DIST_PIER_MAP
  let s := ((s.setReg .MAC_DIST_HASH_CFG 0 Reg.MAC_DIST_HASH_CFG.resetWord).setReg .MAC_DIST_PIER_MAP 0 Reg.MAC_DIST_PIER_MAP.resetWord).setReg
    .MAC_DIST_PIER_MAP 1 Reg.MAC_DIST_PIER_MAP.resetWord
  (i.params.filter fun p => mine p.fld.reg && p.scope == none).foldl (fun u p => u.setFld p.fld p.idx p.val) s

/-- Initial values of run-time fields, for the registers that satisfy `take`; a Bay's owner at a boot (R440). -/
def loadParams (s : State) (i : Image) (take : Reg → Nat → Bool) : State :=
  (i.params.filter fun p => take p.fld.reg p.idx).foldl (fun u p =>
    if p.fld.reg = .SPM_BAY_OWNER then u.setBay (p.idx / 8) (p.idx % 8) { u.bay (p.idx / 8) (p.idx % 8) with owner := bayNew (p.idx / 8) (BitVec.ofNat 16 p.val) }
    else if p.fld.reg = .MAC_DIST_HASH_CFG ∨ p.fld.reg = .MAC_DIST_PIER_MAP then u
    else u.setParam p.fld p.idx p.val) s

/-! ### The whole image -/

/-- Loads image `i`, whose slot is Active already, where `old` ran before; `all` reloads every block (R59). -/
def loadImage (s : State) (old : Option Image) (i : Image) (boot : Bool) (all : Bool := false) : State :=
  let d := diffAll old i all
  let before := s
  let s := s.clearBlocks d.blocks.contains
  let s : State := { s with dbase := i.part.engine.1 * 0x1000000, dsize := i.part.engine.2 * 0x1000000, holdBase := i.part.hold.1 * 0x1000000 }
  let s := if d.counters then { s with counters := [] } else s
  let s := (List.range 8).foldl (fun u h => u.loadFace i boot h) (s.loadSpans i)
  let s := (List.range 4).foldl (fun u p => u.loadInfo i p) s
  let s := d.tables.foldl (fun u t => u.loadTable i t.1 t.2) s
  let s := (List.range 4).foldl (fun u p => if keptRules old i p then u else u.loadRules i p) s
  let s := ((List.range 4).foldl (fun u p => if d.blocks.contains (8 * p + 3) then u.loadTree before old i p else u) s).zeroDeficits
  let s := if d.bpm then s.loadPools i else s
  let s := (List.range 4).foldl (fun u p => u.fcClear p) s
  let s := d.trusses.foldl (fun u t => u.loadTruss i t) s
  let s := (List.range 12).foldl (fun u t => u.loadTrussInfo i t) s
  let s := (List.range 4).foldl (fun u p => u.loadRails i p (d.trusses.any fun t => t / 3 == p)) s
  let s := (s.loadServo i).loadDist i
  s.loadParams i fun r k => boot || (match rebuildBlock r k with | some b => d.blocks.contains b | none => false)

end State

end Sys2Proof.Machine
end

