-- ==== Sys2Proof/Machine/Cfg.lean ====
section
/-!
DEFINITION. Image slots, staging, commit and rollback (chapter 02).
-/

namespace Sys2Proof.Machine

/-! ### Keys (R41, R479) -/

/-- Slot of a KEY_ID: its ROLE, ALG and INDEX, where the other bits are 0 and the fields name a slot. -/
def keySlot (k : BitVec 32) : Option Nat :=
  let v := k.toNat
  let index := v % 16
  let role := v / 256 % 16
  let alg := v / 65536 % 16
  if index < 4 ∧ 1 ≤ role ∧ role ≤ 4 ∧ 1 ≤ alg ∧ alg ≤ 2 ∧ v = index + 256 * role + 65536 * alg then some ((role - 1) * 8 + (alg - 1) * 4 + index)
  else none

/-- ROLE of a pair of KEY_IDs that name slots of one ROLE and INDEX, ML-DSA first (R479). -/
def keyPair (mldsa ecdsa : BitVec 32) : Option Nat :=
  match keySlot mldsa, keySlot ecdsa with
  | some a, some b => if a % 8 < 4 ∧ b = a + 4 then some (a / 8 + 1) else none
  | _, _ => none

namespace State

/-- A key is loaded and its slot not revoked. -/
def keyLoaded (s : State) (k : BitVec 32) : Bool :=
  match keySlot k with
  | some n => s.fld F.SEC_KEYS_PRESENT 0 / 2 ^ n % 2 == 1 && s.fld F.SEC_KEYS_REVOKED 0 / 2 ^ n % 2 == 0
  | none => false

/-- The image key ROLEs that the lifecycle state accepts (R476). -/
def imageRole (s : State) (role : Nat) : Bool :=
  match s.lifecycle with
  | 1 => role == 1 || role == 3
  | 2 => role == 3
  | _ => role == 1

/-! ### Structural checks (R50 step 7, R51, R192, R198, R201, R219, R220, R254, R255, R258, R276, R410) -/

def isPow2 (n : Nat) : Bool := (List.range 64).any fun k => n == 2 ^ k

/-- A parser graph within R192. -/
def graphOk (g : List ParseNode) : Bool :=
  decide (g.length ≤ 256) && decide ((g.map fun n => n.copies.length).sum ≤ 64) &&
    g.all fun n => decide (n.next.length ≤ 16) && n.copies.all fun c => decide (c.2 + (c.1.width + 7) / 8 ≤ 256)

/-- A program within R198. -/
def programOk (x : Program) : Bool :=
  decide (x.stages.length ≤ 12) && x.stages.all fun t =>
    (t.miss :: t.hit.map Prod.snd).all fun l => decide (t.base.length + l.length ≤ 8)

/-- Entries of a Pier's tables of one kind, and the largest number a Pier holds of those that a LIMIT bounds (R2, R51, R219). -/
def kindTotal (x : PierImg) (k : Nat) : Nat := ((x.tables.filter fun t => t.kind == k).map fun t => 2 ^ t.log2).sum

def kindLimits : List (Nat × Nat) := [(1, 2 ^ 22), (3, 2 ^ 21), (4, 2 ^ 20)]

/-- A Pier's sections exceed no limit. -/
def pierLimits (x : PierImg) : Bool :=
  graphOk x.ingress && graphOk x.egress && programOk x.prog && programOk x.eprog && decide (x.tables.length ≤ 15) &&
    (kindLimits.all fun k => decide (kindTotal x k.1 ≤ k.2)) && decide (x.sets.length ≤ 8) &&
    (x.sets.all fun r => decide (r.1 + r.2 ≤ 65536)) && (x.rules.all fun r => decide (r.1 < 65536)) &&
    (x.nodes.all fun n => decide (n.index < levelSize n.level.val)) && decide (x.pools.length ≤ 4)

/-- Every limit of R51. -/
def limitsOk (i : Image) : Bool :=
  decide (i.spans.length ≤ 4096) && (i.spans.all fun x => decide (x.queues.length ≤ 256 ∧ x.first + x.queues.length ≤ 65536)) &&
    decide ((i.spans.map fun x => x.queues.length).sum ≤ 65536) && decide ((i.hosts.map HostImg.count).sum ≤ 4096) &&
    (i.hosts.all fun h => decide (h.bar2 ≤ 2 ^ 36) && (h.bar2 == 0 || isPow2 h.bar2)) &&
    decide ((i.spans.filter SpanImg.tdisp).length ≤ 256) && decide (i.part.counters.2 ≤ 8) &&
    decide (i.pools.length ≤ 256) && decide ((i.pools.map PoolImg.acctCount).sum ≤ 8192) &&
    (i.fw.all fun f => decide (f.code.length ≤ 65536)) && i.piers.all pierLimits

/-- A range lies inside another. -/
def inside (a b : Nat × Nat) : Bool := decide (b.1 ≤ a.1 ∧ a.1 + a.2 ≤ b.1 + b.2)

/-- RLD_PARTITION as R29, R51, R254 and R255 ask. -/
def partitionOk (i : Image) : Bool :=
  let n := imgBuffers i
  disjoint (imgRegions i) && ((imgRegions i).all fun r => inside r (0, rldUnits)) && (imgSpare i).length == 1 &&
    i.part.hold.2 == 4 && inside i.part.hold i.part.engine && inside i.part.recs i.part.engine &&
    disjoint [i.part.hold, i.part.recs] && i.part.recs.2 == (n * 8 + 0xFFFFFF) / 0x1000000 &&
    i.pools.all fun p => decide (p.base + p.count ≤ n)

/-- Pools and accounts as R254 asks. -/
def poolsOk (i : Image) : Bool :=
  decide (1 ≤ i.pools.length) && (i.pools.all fun p => p.base % 64 == 0 && p.count % 64 == 0 && decide (1 ≤ p.acctCount)) &&
    disjoint (i.pools.map fun p => (p.base, p.count)) && disjoint (i.pools.map fun p => (p.acctBase, p.acctCount)) &&
    i.pools.all fun p => decide (p.acctBase + p.acctCount ≤ (i.pools.map PoolImg.acctCount).sum)

/-- A node of a tree. -/
def nodeIn (x : PierImg) (level i : Nat) : Option TreeNode := x.nodes.find? fun n => n.level.val == level && n.index == i

/-- The port node above a queue of a tree, where every parent exists. -/
def portIn (x : PierImg) (q : Nat) : Option Nat := do
  let n ← nodeIn x 3 q
  let m ← nodeIn x 2 n.parent
  let g ← nodeIn x 1 m.parent
  if g.parent < 18 then some g.parent else none

/-- DEST_KIND that a port node asks for (R277). -/
def portKind (port : Nat) : Nat := if port < 16 then 0 else if port = 16 then 1 else 2

/-- The queue is of a kind, under some port node. -/
def kindIn (x : PierImg) (kind : Nat) (q : Option Nat) : Bool :=
  match q with | some k => (match nodeIn x 3 k with | some n => n.kind == kind | none => false) | none => false

/-- Every primitive of a program. -/
def allPrims (x : Program) : List Prim := (x.stages.map fun t => t.base ++ (t.hit.map Prod.snd).flatten ++ t.miss).flatten

/-- SCHED_TREE of Pier `p` as R276 asks. -/
def treeOk (i : Image) (p : Nat) (x : PierImg) : Bool :=
  let work := (i.spans.map fun y => y.queues.zipIdx.map fun e => (y.first + e.2, e.1)).flatten
  let wire (m q : Nat) : Bool := portIn x q == some m && kindIn x 0 (some q)
  (x.nodes.all fun n => match n.level.val with
    | 0 => true
    | 1 => decide (n.parent < 18)
    | 2 => (nodeIn x 1 n.parent).isSome
    | _ => match portIn x n.index with | some m => n.kind == portKind m && decide (n.tc < 8 ∧ n.truss < 3) | none => false) &&
  (work.all fun e =>
    if e.2.kind = 1 then kindIn x 1 (mapped x.rxMap e.1)
    else if (e.2.kind = 0 ∨ 4 ≤ e.2.kind) ∧ e.2.bind = p then kindIn x 0 (mapped x.txMap e.1)
    else true) &&
  ((List.range 3).all fun t => match x.slow.getD t none with
    | some q => (match nodeIn x 3 q with | some n => n.kind == 2 && n.truss == t | none => false)
    | none => false) &&
  [x.prog, x.eprog].all fun g => (g.wires.all fun e => wire e.1 e.2) && (allPrims g).all fun a => match a with
    | .forward (.const m) (.const q) => wire m q
    | _ => true

/-- The sections keep the rules about their own content (R73, R210, R220, R254, R276). -/
def contentOk (i : Image) : Bool :=
  poolsOk i && i.piers.length == 4 && i.fw.length == 12 &&
    disjoint (i.hosts.map fun h => (h.base, h.count)) && (i.hosts.all fun h => h.bar0 == 0x10000) && disjoint (i.spans.map fun x => (x.first, x.queues.length)) &&
    (i.piers.all fun x => (x.tables.all fun t => decide (t.kind ≤ 5)) && decide (kindTotal x 5 ≤ 4096 ∧ kindTotal x 2 ≤ 524288) && !(allPrims x.eprog).contains .toEngine &&
      (x.tables.all fun t => if i.hdr.rldTables then t.kind != 2 else t.kind != 3) && disjoint x.sets) &&
    (i.piers.zipIdx).all fun e => treeOk i e.2 e.1

/-- The length that a STAGE_HOST reads, and otherwise that of the file (R50). -/
def readLen (s : State) (f : ImgFile) : Nat := match s.slots.reading with | some (true, _, n) => n | _ => f.bytes.length

/-- The staging checks of R50 in order: the result code of R58, 0 if all pass. -/
def stageCheck (s : State) (f : ImgFile) : Nat :=
  let h := f.hdr
  let i := f.image
  let verifies (k : BitVec 32) (sig : List Byte) : Bool := match keySlot k with | some n => Config.imageVerifies n f.signed sig | none => false
  if !h.ok f.bytes.length ∨ f.bytes.length ≠ s.readLen f then 4
  else if h.part ≠ 0x9640 ∨ !h.steppings.getLsbD (s.fld F.TOP_ID_STEPPING 0) then 7
  else if !((match keyPair h.keyMldsa h.keyEcdsa with | some r => s.imageRole r | none => false) &&
      s.keyLoaded h.keyMldsa && s.keyLoaded h.keyEcdsa && f.blockOk && verifies h.keyMldsa f.mldsa && verifies h.keyEcdsa f.ecdsa) then 5
  else if h.svn.toNat < s.fld F.CFG_MIN_SVN_MIN_SVN 0 then 6
  else if h.vendorDebug ∧ s.lifecycle ≠ 3 then 0x11
  else if !f.sectionsOk then 8
  else if !limitsOk i then 0xA
  else if !partitionOk i then 9
  else if !contentOk i then 8
  else 0

/-! ### Slots and results -/

def setSlots (s : State) (x : Slots) : State := { s with slots := x }

/-- CFG_ACTIVE_VER, CFG_PREV_VER and CFG_STAGED_VER follow the slots (R45). -/
def showSlots (s : State) : State :=
  let w : Option Image → Word
    | some i => BitVec.ofNat 64 (i.hdr.version.toNat + 2 ^ 32 * i.hdr.svn.toNat + 2 ^ 63)
    | none => 0
  ((s.setReg .CFG_ACTIVE_VER 0 (w s.slots.active)).setReg .CFG_PREV_VER 0 (w s.slots.previous)).setReg .CFG_STAGED_VER 0 (w s.slots.staged)

/-- The fault of a result, if R58 gives one; `more` is what R461 puts above the SEQ in its detail. -/
def cfgFault (s : State) (q : Seq) (code : Nat) (more : Nat := 0) : State :=
  if code ∈ [5, 6, 0x0E, 0x0F, 0x10, 0x11] then s.raise 0x01 code (q.toNat + 2 ^ 16 * more) else s

/-- The command in progress ends, with the fault of its result. -/
def cfgDone (s : State) (code : Nat) (st : Nat := 0) (more : Nat := 0) : State := (s.cfgFault s.cfgSeq code more).cfgEnd s.cfgSeq code st

/-- A command ends because of a check of its image; the detail of SVN_BELOW_MIN holds the image's SVN (R461). -/
def cfgCheck (s : State) (i : Option Image) (code : Nat) (st : Nat := 0) : State :=
  s.cfgDone code st (if code = 6 then (i.getD {}).hdr.svn.toNat else 0)

/-- CFG_STATUS.STATE changes. -/
def setCfgState (s : State) (v : Nat) : State := s.setFld F.CFG_STATUS_STATE 0 v

/-- STATE becomes STAGING and Staged is invalidated (R49). -/
def startStaging (s : State) (host : Bool) (a n : Nat) (q : Seq) : State :=
  ({ (s.setCfgState 1) with cfgSeq := q }.setSlots { s.slots with staged := none, reading := some (host, a, n), bad := false }).showSlots

end State

/-- STAGE_FLASH (R49, R50, R524): a slot that PLDM writes answers BUSY. -/
def execStageFlash (index : Fin 4) (q : Seq) (s : State) : Out3 := .next <|
  if s.cfgState ≠ 0 ∨ s.flashBusy.contains (1 + index.val) then s.cfgRefuse q 1
  else s.startStaging false index.val 0x2000000 q

/-- STAGE_HOST (R45, R49, R50): the image is read with memory reads of the Management Function; in the safe state it ends with READ_ERROR
(R469). -/
def execStageHost (q : Seq) (s : State) : Out3 := .next <|
  if s.cfgState ≠ 0 then s.cfgRefuse q 1
  else
    let s := (s.epoch .stageHost .CFG_STAGE_ADDR 0).epoch .stageHost .CFG_STAGE_LEN 0
    let s := s.startStaging true (s.fld F.CFG_STAGE_ADDR_ADDR 0 * 4096) (s.fld F.CFG_STAGE_LEN_LEN 0) q
    if s.isSafe then (s.setSlots { s.slots with reading := none }).cfgDone 0x10
    else s.runJob { fn := .mf, span := none, dep := .stage, write := false
                    parts := s.readCut .mf (s.fld F.CFG_STAGE_ADDR_ADDR 0 * 4096) (s.fld F.CFG_STAGE_LEN_LEN 0) }

/-- A read of the image is still out, or waits to go. -/
def State.stageBusy (s : State) : Bool :=
  (s.tags.any fun e => match e.2 with | .outstanding r => r.dep == .stage | _ => false) || s.stalled.any fun j => j.dep == .stage

/-- STAGING_COMPLETE (R49, R50, R58): once every read of the image is in, the checks pass and Staged is valid, or the first that fails
sets the result; a read that failed ends it with READ_ERROR, recorded in the HEP as it failed. The file's bytes are those that the
reads brought (log entry 100). -/
def execStagingComplete (r : ImgRead) (s : State) : Out3 := .next <|
  if s.cfgState ≠ 1 ∨ s.stageBusy then s
  else
    let bad := s.slots.bad
    let host := match s.slots.reading with | some (true, _, _) => true | _ => false
    let done (u : State) : State := u.setSlots { u.slots with reading := none, bad := false }
    if bad then (done s).cfgDone 0x10
    else match r with
    | .error => if host then s else (done s).cfgDone 0x10
    | .image f =>
      match s.stageCheck f with
      | 0 => (((done s).setSlots { (done s).slots with staged := some f.image }).showSlots).cfgDone 0
      | code => (done s).cfgCheck (some f.image) code

/-- DISCARD (R43, R49). -/
def execDiscard (q : Seq) (s : State) : Out3 := .next <|
  if s.cfgState ≠ 0 then s.cfgRefuse q 1
  else ((s.setSlots { s.slots with staged := none }).showSlots).cfgRefuse q 0

namespace State

/-- CHECK begins (R49); DRAIN_LIMIT takes its waiting value. -/
def startCheck (s : State) (rollback : Bool) (q : Seq) : State :=
  { ((s.epoch .commitRollback .CFG_DRAIN_LIMIT 0).setCfgState 2).setSlots { s.slots with rollback := rollback, reload := false } with cfgSeq := q }

end State

/-- COMMIT (R47, R49, R53, R469). -/
def execCommit (q : Seq) (s : State) : Out3 := .next <|
  if s.cfgState ≠ 0 ∨ s.isSafe then s.cfgRefuse q 1 else s.startCheck false q

/-- ROLLBACK (R49, R59, R64): from FAILED the Active image is reloaded, subject to the security version alone; after a reload that
faulted only PORST_N restores service. One that this check refuses leaves STATE FAILED (log 126). -/
def execRollback (q : Seq) (s : State) : Out3 := .next <|
  if s.cfgState = 5 ∧ s.slots.dead then s.cfgRefuse q 1
  else if s.cfgState = 5 then
    match s.slots.active with
    | none => ({ s with cfgSeq := q }).cfgDone 3 5
    | some i =>
      let s := s.epoch .commitRollback .CFG_DRAIN_LIMIT 0
      if i.hdr.svn.toNat < s.fld F.CFG_MIN_SVN_MIN_SVN 0 then ({ s with cfgSeq := q }).cfgCheck (some i) 6 5
      else { (s.setCfgState 4).setSlots { s.slots with reload := true } with cfgSeq := q }
  else if s.cfgState ≠ 0 ∨ s.isSafe then s.cfgRefuse q 1
  else s.startCheck true q

namespace State

/-! ### Commit-time checks (R53) -/

/-- Span `n` loses queues, or its existence, under the new image. -/
def losesQueues (old new : Image) (n : Nat) : Bool :=
  let o := old.spans.getD n {}
  let w := new.spans.getD n {}
  let onLink (i : Image) : Bool := i.hosts.any fun h => decide (h.base ≤ n ∧ n < h.base + h.count)
  (onLink old && !onLink new) ||
    (o.queues.length != 0 && (o.first != w.first || (w.queues.take o.queues.length).map QueueImg.kind != o.queues.map QueueImg.kind))

/-- The structure of Span `n` differs: its queues, its flag, its place among the links' VFs or its BAR2 (R53, R103). -/
def structureDiffers (old new : Image) (n : Nat) : Bool :=
  let face (i : Image) : Option (Nat × Nat × Nat) :=
    (i.hosts.zipIdx.find? fun h => decide (h.1.base ≤ n ∧ n < h.1.base + h.1.count)).map fun h => (h.2, n - h.1.base, h.1.bar2)
  old.spans.getD n {} != new.spans.getD n {} || face old != face new

/-- A buffer in use would have no place in the new image. -/
def bufferLost (s : State) (new : Image) : Bool :=
  let used := s.recs.filter fun e => e.2.refs != 0 || e.2.member
  (used.any fun e => decide (imgBuffers new ≤ e.1) || !new.pools.any fun p => decide (p.base ≤ e.1 ∧ e.1 < p.base + p.count)) ||
    (!used.isEmpty && (match s.slots.active with
      | some o => (imgBuf o).1 != (imgBuf new).1 || o.part.recs != new.part.recs
      | none => false))

/-- A Pier or a Truss that is not ON has a section that changes: one of its own, or a PARAMETERS section from which a block of it loads. -/
def gatedChange (s : State) (new : Image) : Bool :=
  let old := s.slots.active
  let d := diff old new
  let ids (i : Image) (p : Nat) : List (BitVec 32) := (i.secs.filter fun e => e.type == 4 && e.scope.toNat == p).map SecEnt.schemaId
  ((List.range 12).any fun t => s.trussPwr t != 0 && (d.trusses.contains t || d.blocks.contains (64 + t))) ||
    (List.range 4).any fun p => s.pierPwr p != 0 && ((d.blocks.any fun b => b / 8 == p && decide (b < 32)) ||
      ([3, 4, 5, 6, 7, 11, 12].any fun y => differs old new y p) || ids (old.getD {}) p != ids new p)

/-- The checks of R53: the result code, 0 if the swap may go on. Where several conditions hold, R53 does not say which gives the result;
the model takes them in the order below (log entry 111). -/
def commitCheck (s : State) : Nat :=
  match (if s.slots.rollback then s.slots.previous else s.slots.staged) with
  | none => if s.slots.rollback then 3 else 2
  | some i =>
    let d := diff s.slots.active i
    let old := s.slots.active.getD {}
    let live := (s.spans.filter fun e => !s.spanQuiet e.1).map Prod.fst
    let locked := (s.spans.filter fun e => s.tdiLocked e.1).map Prod.fst
    if i.hdr.svn.toNat < s.fld F.CFG_MIN_SVN_MIN_SVN 0 then 6
    else if live.any (losesQueues old i) then 0xB
    else if locked.any (structureDiffers old i) then 0xD
    else if s.bufferLost i then 0xC
    else if s.slots.active.isSome ∧ old.part.qctx ≠ i.part.qctx then 9
    else if d.trusses.any fun t => (trussThreads t).any fun n => (s.thr n).state == .halted then 0x12
    else if s.gatedChange i then 0x13
    else 0

end State

/-- CHECK_COMPLETE (R49, R53–R55): Stop, DRAIN, and SWAP_NOTICE in the threads of each Truss that will restart. -/
def execCheckComplete (s : State) : Out3 := .next <|
  if s.cfgState ≠ 2 then s
  else match s.commitCheck with
    | 0 =>
      match (if s.slots.rollback then s.slots.previous else s.slots.staged) with
      | none => s
      | some i =>
        let d := State.diff s.slots.active i
        let s := (s.setCfgState 3).setSlots { s.slots with incoming := some i }
        d.trusses.foldl (fun u t => (State.trussThreads t).foldl (fun v n => v.pendSource n 8) u) s
    | code => s.cfgCheck (if s.slots.rollback then s.slots.previous else s.slots.staged) code

namespace State

/-! ### Drain (R55) -/

/-- The accepted heads, table work, DMA descriptors and begun entries that a swap waits for are done. -/
def workDone (s : State) : Bool :=
  s.fifo.isEmpty && s.reentry.isEmpty && s.espLane.isEmpty && s.egress.isEmpty && s.missBuf.isEmpty &&
    (s.tblRun.all fun e => !e.2.waiting && e.2.desc.isNone) && (s.dmaCh.all fun e => e.2.run.isNone) &&
    !(s.tags.any fun e => match e.2 with | .outstanding { dep := .dmaRing .., .. } => true | _ => false) &&
    (s.queues.all fun e => e.2.kind == 2 || e.2.begun.all fun b => b.handed || b.result.isSome || b.written || !b.causes.isEmpty)

/-- A thread of a restarting Truss holds Drain back. -/
def holdsDrain (s : State) (n : Nat) : Bool :=
  let x := s.thr n
  match x.state with
  | .free | .done | .faulted => false
  | .waiting => x.rail.isSome || (x.ops.any fun o => match o.op with | .dma .. => true | _ => false) ||
      (match x.implicit with | some (.alloc ..) => true | _ => false)
  | _ => true

/-- TMS queues of Pier `p` that the incoming tree drops or gives another kind, port node, class or Truss (R55). -/
def movedQueue (old new : PierImg) (q : Nat) : Bool :=
  match nodeIn old 3 q, nodeIn new 3 q with
  | some a, some b => a.kind != b.kind || a.tc != b.tc || a.truss != b.truss || portIn old q != portIn new q
  | _, none => true
  | none, _ => false

/-- Every condition of R55 holds. -/
def drained (s : State) (i : Image) : Bool :=
  let d := diff s.slots.active i
  s.workDone && (d.trusses.all fun t => (trussThreads t).all fun n => !s.holdsDrain n) &&
    s.tmsQ.all fun e => e.2.isEmpty ||
      !movedQueue ((s.slots.active.getD {}).piers.getD (e.1 / 16384) {}) (i.piers.getD (e.1 / 16384) {}) (e.1 % 16384)

end State

/-- DRAIN_COMPLETE (R49, R55): SWAP begins. -/
def execDrainComplete (s : State) : Out3 := .next <|
  if s.cfgState ≠ 3 then s
  else match s.slots.incoming with
    | none => s
    | some i => if s.drained i then s.setCfgState 4 else s

/-- The table engines and the MF-bound DMA channels go on with their rings (R56, R241, R455, R471). -/
def State.ringsGoOn (s : State) : State :=
  let s := (List.range 4).foldl (fun u p => u.cmdqFetch p) s
  (s.dmaCh.map Prod.fst).foldl (fun u k => u.chFetch (k / 64) (k % 64)) s

/-- Resume (R56, R208): a port's waiting MODE takes effect, its other waiting fields at their own boundary, and the rings go on. -/
def State.resume (s : State) : State := ((s.applyMask .MAC_DIST_SVC 0 0x3).applyMask .MAC_DIST_SVC 1 0x3).ringsGoOn

/-- DRAIN_TIMEOUT (R49, R58): traffic resumes under the unchanged image. -/
def execDrainTimeout (s : State) : Out3 := .next <|
  if s.cfgState ≠ 3 then s else (s.setSlots { s.slots with incoming := none, rollback := false }).cfgDone 0x0E |>.resume

/-- The slots after a swap that loaded image `i` (R43). -/
def State.rotate (s : State) (i : Image) : Slots :=
  if s.slots.reload then { s.slots with incoming := none, rollback := false, reload := false }
  else if s.slots.rollback then { s.slots with active := some i, previous := s.slots.active, incoming := none, rollback := false }
  else { s.slots with active := some i, previous := s.slots.active, staged := none, incoming := none }

/-- The load and the rotation of a swap that completes (R43, R45, R56, R59, R60): a reload of Active goes into every block, over what
the failed image left there; `drain` and `swap` are the PIPE_CLK cycles of CFG_LAST_SWAP. -/
def State.swapIn (s : State) (drain swap : BitVec 32) : State :=
  let all := s.slots.reload
  match (if all then s.slots.active else s.slots.incoming) with
  | none => s
  | some i =>
    let old := if all then s.slots.incoming else s.slots.active
    let s := (s.setSlots (s.rotate i)).showSlots
    let s := s.loadImage old i false all
    let s := (s.setReg .CFG_REBUILT 0 (BitVec.ofNat 64 (State.diffAll old i all).word)).bump F.CFG_SWAP_CNT_COUNT 0
    (s.setReg .CFG_LAST_SWAP 0 (BitVec.ofNat 64 (drain.toNat + 2 ^ 32 * swap.toNat))).cfgDone 0 |>.resume

/-- A swap faults; a reload that faults is the last (R59). -/
def State.failSwap (s : State) : State := s.setSlots { s.slots with dead := s.slots.reload }

/-- SWAP_FAULT (R49, R59, R461). -/
def State.swapFault (s : State) (y : BitVec 4) : State := if s.cfgState ≠ 4 then s else s.failSwap.cfgDone 0x0F 5 y.toNat

/-! ### The end of the safe state -/

/-- LEAVE (R468, R471): ends the safe state when SELF_FAULT is 0; what waited for requests to hosts proceeds. -/
def execLeave (q : Seq) (s : State) : Out3 := .next <|
  if !s.isSafe then s.safeEnd q 2
  else if s.flag F.FCU_SAFE_STATUS_SELF_FAULT 0 then s.safeEnd q 3
  else
    let s := ((s.setFld F.FCU_SAFE_STATUS_STATE 0 0).safeEnd q 0).resumeHosts.ringsGoOn
    (List.range 4).foldl (fun t p => (t.evDrain p (SMap.get [] t.tblEv p)).cmdqNop p) s

end Sys2Proof.Machine
end

