-- ==== Sys2Proof/Machine/Spdm.lean ====
section
/-!
DEFINITION. SPDM over DOE and TDISP (R98, R99, R102–R104, R483, R484): the responders' behaviour, and what the manual says of
their messages' contents; signatures are free values (log entry 99).
-/

namespace Sys2Proof.Machine

namespace State

/-- The lowest free secured session of a mailbox, of at most 4 (R98). -/
def freeSession (b : BitVec 4) : Option Nat := (List.range 4).find? fun i => !b.getLsbD i

/-- The measurement blocks of R484. -/
def measurements (s : State) : List (Nat × List SpdmMeas) :=
  let h := (s.slots.active.getD {}).hdr
  [(1, [.digest Config.romDigest]),
   (2, [.digest s.sec.thDigest, .raw (s.fld F.SEC_BOOT_STATUS_TH_SVN 0)]),
   (3, [.digest (s.slots.active.getD {}).digest, .raw h.version.toNat, .raw h.svn.toNat]),
   (4, [.raw (s.fld F.SEC_LC_STATE 0), .raw (s.fld F.CFG_MIN_SVN_MIN_SVN 0), .raw (s.fld F.SEC_SVN_TH_MIN_SVN 0),
        .raw (s.fld F.SEC_KEYS_PRESENT 0), .raw (s.fld F.SEC_KEYS_REVOKED 0)]),
   (5, [.raw (s.fld F.DBG_STATUS_LEVEL 0), .raw (s.fld F.DBG_STATUS_EVER_OPENED 0)])]

/-- What a response says (R98, R484): a signed one takes a fresh free value for its signature by the Alias key. -/
def spdmBody (s : State) (r : SpdmReq) : SpdmBody × State :=
  let certs : List SpdmCert := [.vendorRoot, .vendorIntermediate, .deviceId, .alias_]
  match r with
  | .getVersion => ({ version := some 0x13 }, s)
  | .negotiateAlgorithms => ({ algs := [.ecdsaP384, .sha384, .secp384r1, .aes256Gcm] }, s)
  | .getDigests | .getCertificate => ({ certs := certs }, s)
  | .challenge | .keyExchange => let (w, s) := s.fresh; ({ signature := some w }, s)
  | .getMeasurements => let (w, s) := s.fresh; ({ blocks := s.measurements, signature := some w }, s)
  | _ => ({}, s)

/-- How an SPDM request is answered, and the mailbox's sessions after it (R98, R483): whether with an error, and with which session;
TDISP START_INTERFACE moves a locked TDI to RUN. -/
def spdmStep (s : State) (d : Doe) (r : SpdmReq) : State × Doe × Bool × Nat :=
  let ok := (s, d, false, 0)
  let err := (s, d, true, 0)
  let bit (i : Nat) : BitVec 4 := (1 : BitVec 4) <<< i
  let keyed := s.sec.dice
  match r with
  | .getVersion | .getCapabilities | .negotiateAlgorithms => ok
  | .unsupported _ => err
  | .keyExchange =>
    if !keyed then err
    else match freeSession d.sessions with
      | some i => (s, { d with sessions := d.sessions ||| bit i, finished := d.finished &&& ~~~bit i }, false, i)
      | none => err
  | .endSession i =>
    if keyed && d.finished.getLsbD i.val then
      (s, { d with sessions := d.sessions &&& ~~~bit i.val, finished := d.finished &&& ~~~bit i.val }, false, i.val)
    else err
  | .finish i =>
    if keyed && d.sessions.getLsbD i.val && !d.finished.getLsbD i.val then (s, { d with finished := d.finished ||| bit i.val }, false, i.val)
    else err
  | .heartbeat | .keyUpdate => if keyed && d.finished != 0 then ok else err
  | .getDigests | .getCertificate | .challenge | .getMeasurements | .vendorOther => if keyed then ok else err
  | .tdispStart n =>
    if keyed && (s.span n.val).tdi == .locked then (s.setSpan n.val { s.span n.val with tdi := .run }, d, false, 0) else err
  | .tdispGetState n => if keyed && (s.span n.val).tdispCapable then ok else err

/-- The response to an SPDM request, with its contents. -/
def spdmAnswer (s : State) (d : Doe) (r : SpdmReq) : State × Doe × DoeResp :=
  let (s, d, bad, i) := s.spdmStep d r
  if bad then (s, d, { req := r, error := some (if s.sec.dice then .unstated else .unspecified) })
  else
    let (b, s) := s.spdmBody r
    (s, d, { req := r, session := i, body := b })

/-- The mailbox takes its next waiting request, if it holds no unread response (R99). -/
def doeServe (s : State) (m : DoeMbx) : State :=
  let d := s.doe m
  match d.response, d.waiting with
  | none, r :: rest =>
    let (s, d, a) := s.spdmAnswer { d with waiting := rest } r
    (s.setDoe m { d with response := some a }).emit (.spdm m a)
  | _, _ => s

/-- The link of a DOE mailbox is Up. -/
def doeUp (s : State) : DoeMbx → Bool
  | .pf h => s.linkUp h.val
  | .mf => s.linkUp s.mgmtLink

/-- A Span can be a TDI of a link with a selective stream in Secure; the lowest such stream. -/
def secureStream (s : State) (n : Nat) : Option Nat :=
  match s.spanLink n with
  | some h => ([1, 2, 3, 4] : List Nat).find? fun i => s.stream h.val i == .secure
  | none => none

end State

/-- DOE_REQUEST (R98, R99): a data object; one above 64 KiB is discarded (log entry 99). -/
def execDoeRequest (m : DoeMbx) (r : DoeObj) (s : State) : Out3 := .next <|
  if s.doeUp m ∧ r.len ≤ 0x10000 then
    let s := s.setDoe m { s.doe m with waiting := (s.doe m).waiting ++ [r.req] }
    s.doeServe m
  else s

/-- DOE_ABORT (R99): request and response are discarded; the secured sessions stay open. -/
def execDoeAbort (m : DoeMbx) (s : State) : Out3 := .next (s.setDoe m { s.doe m with waiting := [], response := none })

/-- LOCK_INTERFACE_REQUEST (R102, R483): CONFIG_UNLOCKED to CONFIG_LOCKED, bound to the lowest selective stream in Secure. -/
def execLockInterfaceRequest (n : SpanId) (s : State) : Out3 := .next <|
  let x := s.span n.val
  let ans (t : State) (a : TdispAnswer) : State := t.emit (.tdisp n.val a)
  if !s.sec.dice then ans s .unspecified
  else if !x.tdispCapable then ans s .unsupportedRequest
  else if x.tdi ≠ .unlocked then ans s .invalidInterfaceState
  else match s.secureStream n.val with
    | none => ans s .invalidDeviceConfiguration
    | some i => ans (s.setSpan n.val { x with tdi := .locked, stream := i }) .ok

/-- STOP_INTERFACE_REQUEST (R104): the TDI returns to CONFIG_UNLOCKED; what waited while it was in ERROR proceeds. -/
def execStopInterfaceRequest (n : SpanId) (s : State) : Out3 := .next <|
  let x := s.span n.val
  if !x.tdispCapable then s.emit (.tdisp n.val .unsupportedRequest)
  else
    let s := (s.setSpan n.val { x with tdi := .unlocked, stream := 0 }).emit (.tdisp n.val .ok)
    if x.tdi ≠ .error then s
    else match s.spanFn n.val with
      | some f => ((s.retryMsix f).retryStalled).retryEvents n.val
      | none => s

end Sys2Proof.Machine
end

