-- ==== Sys2Proof/Machine/Sec.lean ====
section
/-!
DEFINITION. Lifecycle, fuses and keys, debug tokens and the end of a debug session (R476–R481, R486, R490–R492).
-/

namespace Sys2Proof.Machine

namespace State

/-! ### Debug session (R485, R486) -/

/-- DBG_STATUS.LEVEL: 0 no session, 1 firmware, 2 full. -/
def dbgLevel (s : State) : Nat := s.fld F.DBG_STATUS_LEVEL 0

/-- A HALTED thread resumes its prior state (R383, R487). -/
def resumeThr (s : State) (n : Nat) : State :=
  if (s.thr n).state = .halted then s.setThr n { s.thr n with state := (s.thr n).prior, prior := .free } else s

/-- The token buffer is zeroed. -/
def zeroToken (s : State) : State :=
  { s with sec := { s.sec with token := [], tokenSeen := [] } }

/-- A STEP in progress ends with the session, with NO_SESSION: its thread resumes (log entry 25). -/
def stepDrop (s : State) : State :=
  match s.heldStep with
  | some (_, q) => { s with heldStep := none }.thrDone q 4
  | none => s

/-- The session ends (R486); EVER_OPENED stays. -/
def sessionEnd (s : State) : State :=
  if s.dbgLevel = 0 then s
  else
    let s := s.stepDrop
    let halted := (s.threads.filter fun e => e.2.state == .halted).map Prod.fst
    let s := (halted.foldl resumeThr s).zeroToken
    { ((s.setFld F.DBG_STATUS_LEVEL 0 0).setFld F.DBG_STATUS_SPAN 0 0).setFld F.DBG_STATUS_TRUSS_MASK 0 0 with dbgEnd := 0 }

/-- The session's scope: every Truss and Bay at the full level, and in BLANK. -/
def dbgAll (s : State) : Bool := s.dbgLevel == 2 || s.lifecycle == 0

/-- Thread `n` is within the session's scope (R485). -/
def dbgThread (s : State) (n : Nat) : Bool := s.dbgAll || s.fld F.DBG_STATUS_TRUSS_MASK 0 / 2 ^ (n / 64) % 2 == 1

/-! ### Tokens (R490–R492) -/

/-- Word `k` of the token buffer, and `n` bits of it from `lo`. -/
def tokenWord (s : State) (k : Nat) : Word := SMap.get 0 s.sec.token k
def tokenBits (s : State) (k lo n : Nat) : Nat := getBits (s.tokenWord k) lo n

/-- KIND: 1 FIRMWARE, 2 FULL, 3 ANALYSIS. -/
def tokenKind (s : State) : Nat := s.tokenBits 0 48 16

/-- BAD_FORMAT does not hold (R491, R492). -/
def tokenFormat (s : State) (analysis : Bool) : Bool :=
  let kind := s.tokenKind
  (List.range 623).all (fun k => SMap.get false s.sec.tokenSeen k) && s.tokenBits 0 0 32 == 0x5442474E && s.tokenBits 0 32 16 == 1 &&
    (if analysis then kind == 3 else kind == 1 || kind == 2) && decide (1 ≤ s.tokenBits 7 32 32 ∧ s.tokenBits 7 32 32 ≤ 86400) &&
    (kind != 1 || decide (s.tokenBits 7 0 16 < 4096 ∧ s.tokenBits 7 16 16 < 4096)) &&
    (List.range 23).all fun k => s.tokenWord (9 + k) == 0

/-- ROLEs that sign a token of a KIND in the present lifecycle state. -/
def tokenRole (s : State) (role : Nat) : Bool :=
  match s.lifecycle, s.tokenKind with
  | 1, 1 => role == 2 || role == 4
  | 1, 2 => role == 2
  | 1, 3 => role == 2
  | 2, 1 => role == 4
  | 2, 3 => role == 4
  | 3, 1 => role == 2
  | 3, 2 => role == 2
  | _, _ => false

/-- The cause of R492, 0 if the token passes. -/
def tokenCause (s : State) (analysis : Bool) : Nat :=
  let kM := BitVec.ofNat 32 (s.tokenBits 8 0 32)
  let kE := BitVec.ofNat 32 (s.tokenBits 8 32 32)
  let nonce := (List.range 4).all fun k => s.tokenWord (3 + k) == s.reg .DBG_NONCE k
  let words := (List.range 623).map s.tokenWord
  let signed (k : BitVec 32) : Bool := match keySlot k with | some n => Config.tokenVerifies n words | none => false
  if !analysis ∧ s.dbgLevel ≠ 0 then 7
  else if !s.tokenFormat analysis then 1
  else if s.tokenWord 1 ≠ s.reg .SEC_UID 0 ∨ s.tokenWord 2 ≠ s.reg .SEC_UID_HI 0 then 2
  else if !s.sec.nonceLive ∨ !nonce then 3
  else if s.tokenKind = 2 ∧ s.lifecycle = 2 then 6
  else if !((match keyPair kM kE with | some r => s.tokenRole r | none => false) && s.keyLoaded kM && s.keyLoaded kE) then 5
  else if !(signed kM && signed kE) then 4
  else 0

/-- The nonce is consumed by OPEN and TO_ANALYSIS (R490). -/
def useNonce (s : State) : State := { s with sec := { s.sec with nonceLive := false } }

/-- TOKEN_REJECTED (R492). -/
def tokenReject (s : State) (cause : Nat) : State :=
  (s.setFld F.DBG_STATUS_REJECT_CAUSE 0 cause).raise 0x0C 0x01 (cause + 16 * (s.tokenKind % 16))

/-! ### SEC commands (R480) -/

/-- A SEC command ends (R502, R534). -/
def secEnd (s : State) (q : Seq) (code : Nat) : State :=
  ({ s.setFld F.SEC_STATUS_BUSY 0 0 with sec := { s.sec with running := none } }.endCmd F.SEC_STATUS_LAST_RESULT F.SEC_STATUS_LAST_SEQ 0 code q).setEvt
    .SEC_EVT .SEC_EVT_EN .SEC_MSIX_VEC 0 0

/-- A command that writes fuses starts: copy A of the words is written first (R478). -/
def secStart (s : State) (op arg : Nat) (q : Seq) (ws : List (Nat × BitVec 16)) : State :=
  { s.setFld F.SEC_STATUS_BUSY 0 1 with sec := { s.sec with running := some ⟨op, arg, q, ws⟩, fuseA := burn s.sec.fuseA ws } }

/-- 384 bits of the on-die TRNG, free values (R477). -/
def trng384 (s : State) : Nat × State :=
  (List.range 6).foldl (fun a k => let (w, u) := a.2.fresh; (a.1 + w.toNat * 2 ^ (64 * k), u)) (0, s)

/-- A command is tested: BUSY, then the lifecycle states that allow it. -/
def secTry (s : State) (q : Seq) (allowed : Nat → Bool) (go : State → State) : State :=
  if s.flag F.SEC_STATUS_BUSY 0 then
    (s.endCmd F.SEC_STATUS_LAST_RESULT F.SEC_STATUS_LAST_SEQ 0 1 q).setEvt .SEC_EVT .SEC_EVT_EN .SEC_MSIX_VEC 0 0
  else if !allowed s.lifecycle then s.secEnd q 2
  else go s

/-- A command arrives at the SEC block. -/
def secCmd (s : State) (op : Nat) (q : Seq) (allowed : Nat → Bool) (go : State → State) : State :=
  s.onReg .SEC_CMD 0 (cmdWord op q) fun s => s.secTry q allowed go

/-- SEC_ARG_SEL as a KEY_ID, and its slot. -/
def argSlot (s : State) : Option Nat := keySlot (BitVec.ofNat 32 (s.fld F.SEC_ARG_SEL_VALUE 0))
def argSvn (s : State) : Nat := s.fld F.SEC_ARG_SEL_VALUE 0 % 65536

/-- Both slots of the pair with ROLE − 1 `r` and INDEX `i` are full and not revoked. -/
def pairGood (s : State) (r i : Nat) : Bool :=
  [8 * r + i, 8 * r + 4 + i].all fun n => s.slotFull n && s.fld F.SEC_KEYS_REVOKED 0 / 2 ^ n % 2 == 0

/-- The slot belongs to the last unrevoked pair of its ROLE. -/
def lastPair (s : State) (n : Nat) : Bool :=
  s.pairGood (n / 8) (n % 4) && !(List.range 4).any fun i => i != n % 4 && s.pairGood (n / 8) i

/-- SVN of the Active image; minimum and running SVN of the Tollhouse firmware. -/
def activeSvn (s : State) : Nat := match s.slots.active with | some i => i.hdr.svn.toNat | none => 0
def thMinSvn (s : State) : Nat := s.fld F.SEC_SVN_TH_MIN_SVN 0

end State

/-- PROVISION (R480). -/
def execProvision (q : Seq) (s : State) : Out3 := .next <| s.secCmd 1 q (· == 0) fun s =>
  let (v, s) := s.trng384
  s.secStart 1 0 q (fuseSplit fuseUds 24 v ++ [(fuseLc, 1)])

/-- FUSE_KEY (R479, R480): the hash of SEC_ARG_0–5 for the operator slot that SEC_ARG_SEL names. -/
def execFuseKey (q : Seq) (s : State) : Out3 := .next <| s.secCmd 2 q (· == 1) fun s =>
  match s.argSlot with
  | some n =>
    if n < 16 ∨ s.slotFull n then s.secEnd q 3
    else
      let hash := (List.range 6).foldl (fun h k => h + (s.reg .SEC_ARG k).toNat * 2 ^ (64 * k)) 0
      s.secStart 2 (n + 32 * hash) q (fuseSplit (fuseKeys + 24 * (n - 16)) 24 hash)
  | none => s.secEnd q 3

/-- REVOKE_KEY (R479, R480). -/
def execRevokeKey (q : Seq) (s : State) : Out3 := .next <| s.secCmd 3 q (fun l => l == 1 || l == 2) fun s =>
  match s.argSlot with
  | some n => if !s.slotFull n || s.lastPair n then s.secEnd q 3 else s.secStart 3 n q (fuseSplit fuseRevoke 2 (2 ^ n))
  | none => s.secEnd q 3

/-- DEPLOY (R480). -/
def execDeploy (q : Seq) (s : State) : Out3 := .next <| s.secCmd 4 q (· == 1) fun s =>
  match s.slots.active with
  | some i => if keyPair i.hdr.keyMldsa i.hdr.keyEcdsa = some 3 then s.secStart 4 0 q [(fuseLc, 2)] else s.secEnd q 3
  | none => s.secEnd q 3

/-- RAISE_SVN (R65, R480). -/
def execRaiseSvn (q : Seq) (s : State) : Out3 := .next <| s.secCmd 5 q (fun l => l == 1 || l == 2) fun s =>
  let v := s.argSvn
  if v ≤ s.fld F.CFG_MIN_SVN_MIN_SVN 0 ∨ s.activeSvn < v then s.secEnd q 3
  else if s.fld F.SEC_SVN_SVN_WORDS_LEFT 0 = 0 then s.secEnd q 4
  else s.secStart 5 v q [(fuseSvn + (64 - s.fld F.SEC_SVN_SVN_WORDS_LEFT 0), BitVec.ofNat 16 v)]

/-- RAISE_TH_SVN (R480). -/
def execRaiseThSvn (q : Seq) (s : State) : Out3 := .next <| s.secCmd 6 q (fun l => l == 1 || l == 2) fun s =>
  let v := s.argSvn
  if v ≤ s.thMinSvn ∨ s.fld F.SEC_BOOT_STATUS_TH_SVN 0 < v then s.secEnd q 3
  else if s.fld F.SEC_SVN_TH_WORDS_LEFT 0 = 0 then s.secEnd q 4
  else s.secStart 6 v q [(fuseThSvn + (32 - s.fld F.SEC_SVN_TH_WORDS_LEFT 0), BitVec.ofNat 16 v)]

namespace State

/-- Every SPDM session ends and every IDE stream enters Insecure (R101, R481); CDI and the Alias key are zeroed. -/
def dropKeys (s : State) : State :=
  let s : State := { s with does := (s.does.map fun e => (e.1, { e.2 with sessions := 0 })).filter fun e => e.2 != {} }
  let s := (s.ide.map Prod.fst).foldl (fun u k => if SMap.get .none u.ide k = .none then u else u.insecure (k / 8) (k % 8)) s
  { s with sec := { s.sec with dice := false, cdi := 0, alias_ := 0 } }

/-- PWR_TJ_CFG's reset value in grade E (R531). -/
def gradeRegs (s : State) : State :=
  if s.flag F.TOP_GRADE_GRADE 0 then (s.setFld F.PWR_TJ_CFG_LIMIT 0 840).setFld F.PWR_TJ_CFG_CRIT 0 960 else s

/-- The device as PORST_N release finds it (R517): every register at its reset value, the straps latched, QSPI_RESET_N released, the PLL starting. -/
def released (s : State) (straps : Word) : State :=
  { ((s.blank .locking).setReg .TOP_STRAP 0 straps).gradeRegs with pins := { qspiResetN := true } }

end State

/-- Every UDS word, in both copies, becomes all ones (R481 step 5). -/
def State.destroyUds (s : State) : State :=
  { s with sec := { s.sec with fuseB := burn s.sec.fuseB (fuseSplit fuseUds 24 (2 ^ 384 - 1)) } }

/-- TO_ANALYSIS (R480, R481, R490, R492): the first five steps; LC and the reset follow at SEC_CMD_DONE. The command uses up the nonce
however it ends. -/
def execToAnalysis (q : Seq) (s : State) : Out3 := .next <| s.onReg .SEC_CMD 0 (cmdWord 7 q) fun s =>
  let cause := s.tokenCause true
  s.useNonce.secTry q (fun l => l == 1 || l == 2) fun s =>
  if cause ≠ 0 then (s.tokenReject cause).secEnd q 5
  else s.sessionEnd.zeroize.dropKeys.destroyUds.secStart 7 0 q (fuseSplit fuseUds 24 (2 ^ 384 - 1))

namespace State

/-- What a SEC command's verified fuses bring (R478, R480, R481): copy B follows copy A, then the effect. -/
def secEffect (s : State) (r : SecRun) : State :=
  let s : State := { s with sec := { s.sec with fuseB := burn s.sec.fuseB r.words } }
  match r.op with
  | 1 => ((s.setFld F.SEC_LC_STATE 0 1).sessionEnd).secEnd r.seq 0
  | 2 => s.secEnd r.seq 0
  | 3 =>
    let s := s.setFld F.SEC_KEYS_REVOKED 0 (s.fld F.SEC_KEYS_REVOKED 0 ||| 2 ^ r.arg)
    (s.setFld F.SEC_KEYS_PRESENT 0 (s.fld F.SEC_KEYS_PRESENT 0 - (s.fld F.SEC_KEYS_PRESENT 0 &&& 2 ^ r.arg))).secEnd r.seq 0
  | 4 => ((s.setFld F.SEC_LC_STATE 0 2).sessionEnd).secEnd r.seq 0
  | 5 => ((s.setFld F.CFG_MIN_SVN_MIN_SVN 0 r.arg).setFld F.SEC_SVN_SVN_WORDS_LEFT 0 (s.fld F.SEC_SVN_SVN_WORDS_LEFT 0 - 1)).secEnd r.seq 0
  | 6 => ((s.setFld F.SEC_SVN_TH_MIN_SVN 0 r.arg).setFld F.SEC_SVN_TH_WORDS_LEFT 0 (s.fld F.SEC_SVN_TH_WORDS_LEFT 0 - 1)).secEnd r.seq 0
  | _ =>
    let s : State := { s with sec := { s.sec with fuseA := burn s.sec.fuseA [(fuseLc, 5)], fuseB := burn s.sec.fuseB [(fuseLc, 5)] } }
    (s.setFld F.SEC_LC_STATE 0 3).released (s.reg .TOP_STRAP 0)

end State

/-- SEC_CMD_DONE (R478, R480): the write of copy A verifies, or its word `bad` does not: its content is a free value, FUSE_UE is raised and
copy B is not written. -/
def execSecCmdDone (bad : Option (BitVec 16)) (s : State) : Out3 := .next <|
  match s.sec.running with
  | none => s
  | some r =>
    match bad with
    | none => s.secEffect r
    | some w =>
      let (v, s) := s.fresh
      let s : State := { s with sec := { s.sec with fuseA := SMap.put 0 s.sec.fuseA w.toNat (v.setWidth 16) } }
      (s.raise 0x0C 0x02 w.toNat).secEnd r.seq 6

/-! ### Tokens and the nonce -/

/-- DBG_NONCE_0 is read (R490): four fresh free values. -/
def State.nonceRead (s : State) : Word × State :=
  let s := (List.range 4).foldl (fun u k => let (w, u) := u.fresh; u.setReg .DBG_NONCE k w) s
  (s.reg .DBG_NONCE 0, { s with sec := { s.sec with nonceLive := true } })

/-- DBG_NONCE_READ (R490). -/
def execDbgNonceRead (s : State) : Out3 := .next <| s.onRead .DBG_NONCE 0 fun s => let (w, s) := s.nonceRead; s.emit (.readData w)

/-- NONCE_EXPIRE (R490). -/
def execNonceExpire (s : State) : Out3 := .next s.useNonce

/-- DBG_TOKEN_WRITE (R491, R506). -/
def execDbgTokenWrite (w : Word) (s : State) : Out3 := .next <| s.onReg .DBG_TOKEN_DATA 0 w fun s =>
  let k := s.fld F.DBG_TOKEN_PTR_INDEX 0
  if 622 < k then s
  else { s.setFld F.DBG_TOKEN_PTR_INDEX 0 (k + 1) with
    sec := { s.sec with token := SMap.put 0 s.sec.token k w, tokenSeen := SMap.put false s.sec.tokenSeen k true } }

end Sys2Proof.Machine
end

