-- ==== Sys2Proof/Machine/Power.lean ====
section
/-!
DEFINITION. Power domains and Standby (R493–R499), reset, PLL lock and boot (R482, R515–R523), and the boot flash (R524).
-/

namespace Sys2Proof.Machine

namespace State

/-! ### Domains (R493–R497) -/

/-- The Trusses of a domain. -/
def domTrusses (d : Nat) : List Nat := if d < 4 then [3 * d, 3 * d + 1, 3 * d + 2] else [d - 16]

/-- The threads of a domain. -/
def domThreads (d : Nat) : List Nat := (domTrusses d).flatMap trussThreads

/-- A DMA channel that is not empty: a descriptor is taken up or being looked for, or its Truss has placed one (R495). -/
def chLoaded (s : State) (p ch : Nat) : Bool :=
  let x := s.dmaC p ch
  x.run.isSome || x.examining || ((s.chTruss p ch).isSome && x.state == 1 && x.head != x.tail)

/-- A domain that still has something to do refuses to gate (R495). -/
def domActive (s : State) (d : Nat) : Bool :=
  if d < 4 then
    (domTrusses d).any (fun t => s.trussPwr t != 2) || (s.tmsQ.any fun e => e.1 / 16384 == d && !e.2.isEmpty) || !(s.parked d).isEmpty ||
      (s.fifo.any fun e => e.1 % 4 == d && !e.2.isEmpty) || s.dmaCh.any fun e => e.1 / 64 == d && s.chLoaded d (e.1 % 64)
  else (domThreads d).any fun n => (s.thr n).state == .running || (s.thr n).implicit.isSome

/-- An armed compare lies within the domain's bound of the present cycle (R495). -/
def timerNear (s : State) (d : Nat) : Bool :=
  let w := if d < 4 then 44800 else 12800
  (domThreads d).any fun n => (s.thr n).armed && decide ((s.thr n).cmp.toNat ≤ s.cycle.toNat + w ∧ s.cycle.toNat ≤ (s.thr n).cmp.toNat + w)

end State

/-- GATE (R494, R495). -/
def execGate (domain : Byte) (q : Seq) (s : State) : Out3 := .next <| s.onReg .PWR_CMD 0 (cmdWord 1 q (2 ^ 8 * domain.toNat)) fun s =>
  let d := domain.toNat
  if (State.domFld d).isNone then s
  else if s.flag F.PWR_STATUS_BUSY 0 || s.cfgState != 0 || s.domState d != 0 then s.pwrEnd q 1
  else if (State.domThreads d).any fun n => (s.thr n).state == .halted then 
    (s.raise 0x0B 0x04 d).evtTogether .PWR_EVT .PWR_EVT_EN .PWR_MSIX_VEC 0 fun s => (s.pwrEvt 1).pwrEnd q 2
  else if s.domActive d then s.pwrEnd q 3
  else if s.timerNear d then s.pwrEnd q 4
  else { (s.setDom d 1).setFld F.PWR_STATUS_BUSY 0 1 with pwrSeq := SMap.put 0 s.pwrSeq d q }

/-- UNGATE (R494): the domain starts to power up, or is ON already. -/
def execUngate (domain : Byte) (q : Seq) (s : State) : Out3 := .next <| s.onReg .PWR_CMD 0 (cmdWord 2 q (2 ^ 8 * domain.toNat)) fun s =>
  let d := domain.toNat
  if (State.domFld d).isNone then s
  else if s.flag F.PWR_STATUS_BUSY 0 then s.pwrEnd q 1
  else (s.wake false d).pwrEnd q 0

/-- GATING_DONE (R493, R494): the flow cache of a gated Pier is invalidated. -/
def execGatingDone (domain : Byte) (s : State) : Out3 := .next <|
  let d := domain.toNat
  if s.domState d ≠ 1 then s
  else if d < 4 then
    if (SMap.get [] s.reentry d).isEmpty && (SMap.get [] s.espLane d).isEmpty && (SMap.get [] s.egress d).isEmpty then
      (s.fcClear d).gatingEnd d 2 0
    else s
  else s.gatingEnd d 2 0

/-- DOMAIN_WAKE (R494, R496). -/
def execDomainWake (domain : Byte) (s : State) : Out3 := .next (s.wake true domain.toNat)

/-! ### Reset and PLL lock (R515, R517, R519) -/

/-- PORST_N_ASSERT (R519): everything is lost. -/
def execPorstNAssert (s : State) : Out3 := .next (s.blank .inReset)

/-- PORST_N_RELEASE (R515, R517): the straps latch and the PLL starts. -/
def execPorstNRelease (straps : Straps) (s : State) : Out3 := .next <|
  if s.dev = .inReset ∨ s.dev = .off then s.released (BitVec.ofNat 64 (straps.mgmtHost.toNat + 16 * straps.bootSel.toNat)) else s

namespace State

/-- The device was in Standby, by PWR_STANDBY_WAKE (R504). -/
def woke (s : State) : Bool := s.fld F.PWR_STANDBY_WAKE_CAUSE 0 != 0

/-- The counter as Standby is left (R349): T_s + N × 40 ns × INCR ÷ nominal, in units of 2^-32 ns. -/
def wokenTime (s : State) : BitVec 96 :=
  BitVec.ofNat 96 (s.tim.atStandby.toNat * 2 ^ 32 + s.tim.aonCount * 40 * 2 ^ 32 * s.fld F.TIM_INCR_INCR 0 / incrNominal)

/-- `n` AON_CLK cycles pass while only the AON domain runs (R349, R517). -/
def aonPass (s : State) (n : Nat) : State :=
  { s.setReg .TOP_UPTIME 0 (s.reg .TOP_UPTIME 0 + BitVec.ofNat 64 n) with tim := { s.tim with aonCount := s.tim.aonCount + n } }

end State

/-! ### Boot (R67, R71, R476, R478, R481–R483, R518, R520–R523) -/

namespace State

/-- The entries that a key record's bytes hold (R523), `n` of them: KEY_ID and key bytes. -/
def keyEntries : Nat → List Byte → List (BitVec 32 × List Byte)
  | 0, _ => []
  | n + 1, bs =>
    let len := leAt bs 4 4
    (BitVec.ofNat 32 (leAt bs 0 4), (bs.drop 8).take len) :: keyEntries n (bs.drop (8 + (len + 7) / 8 * 8))

/-- A key record whose header passes its checks (R523). -/
def keyRecord (bs : List Byte) : Option (List (BitVec 32 × List Byte)) :=
  let n := leAt bs 6 2
  if 16 ≤ bs.length ∧ leAt bs 0 4 = 0x4B455952 ∧ leAt bs 4 2 = 1 ∧ n ≤ 32 then some (keyEntries n (bs.drop 16)) else none

/-- A slot is not revoked. -/
def unrevoked (s : State) (n : Nat) : Bool := s.fld F.SEC_KEYS_REVOKED 0 / 2 ^ n % 2 == 0

/-- Slots whose keys are loaded: those with an entry whose SHA-384 is the slot's hash, and that are not revoked (R479, R523). -/
def bootKeys (s : State) (keys : List (BitVec 32 × List Byte)) : Nat :=
  let ok (n : Nat) : Bool := s.unrevoked n && keys.any fun e => keySlot e.1 == some n && s.keyHash n == some (Config.sha384 e.2)
  ((List.range 32).map fun n => if ok n then 2 ^ n else 0).sum

/-- A copy of the Tollhouse firmware passes (R482 step 2): its header, its signature block by a pair of vendor image keys that are not
revoked (log entry 123), and its SVN. -/
def thOk (s : State) (bs : List Byte) : Bool :=
  let f : ImgFile := { bytes := bs }
  let h := f.hdr
  let verifies (k : BitVec 32) (sig : List Byte) : Bool :=
    match keySlot k with | some n => s.unrevoked n && Config.imageVerifies n f.signed sig | none => false
  h.okAs 0x5448574E bs.length && f.blockOk && keyPair h.keyMldsa h.keyEcdsa == some 1 && verifies h.keyMldsa f.mldsa &&
    verifies h.keyEcdsa f.ecdsa && decide (s.thMinSvn ≤ h.svn.toNat)

/-- The copy that the ROM starts, A before B (R482). -/
def thCopy (s : State) (b : BootFind) : Option (Nat × List Byte) :=
  if s.thOk b.thA then some (0, b.thA) else if s.thOk b.thB then some (1, b.thB) else none

/-- The ROM derives the DICE keys for firmware `bs`, where LC and UDS give a DICE identity (R478, R483). -/
def dice (s : State) (bs : List Byte) : State :=
  let f : ImgFile := { bytes := bs }
  let d := Config.sha384 f.signed
  let uds := BitVec.ofNat 384 (s.fuseVal fuseUds 24)
  let s : State := { s with sec := { s.sec with thDigest := d } }
  if (s.lifecycle = 1 ∨ s.lifecycle = 2) ∧ !s.fuseDiffers fuseUds 24 then
    let cdi := Config.hmac384 uds d f.hdr.svn
    { s with sec := { s.sec with dice := true, deviceId := Config.p384Public (Config.hkdf384 uds "DEVID"), cdi := cdi,
                                 alias_ := Config.hkdf384 cdi "ALIAS" } }
  else s

/-- The links of a controller in a bifurcation mode, and the link of a quad (R67). -/
def ctlLinks (mode : Nat) : List Nat := match mode with | 1 => [0, 2] | 2 => [0, 1, 2, 3] | _ => [0]
def quadLink (mode q : Nat) : Nat := match mode with | 1 => q / 2 * 2 | 2 => q | _ => 0

/-- HEP_BIFUR mode of controller c. -/
def ctlMode (s : State) (c : Nat) : Nat := s.fld (if c = 0 then F.HEP_BIFUR_CTL0_MODE else F.HEP_BIFUR_CTL1_MODE) 0

/-- The board record's settings apply (R70, R71, R298, R522); a reserved HEP_BIFUR code reads as the record holds it (log entry 104). -/
def bootBoard (s : State) (b : BoardRec) : State :=
  let s := (s.setFld F.HEP_BIFUR_CTL0_MODE 0 b.ctl0Mode.toNat).setFld F.HEP_BIFUR_CTL1_MODE 0 b.ctl1Mode.toNat
  let m := s.fld F.TOP_STRAP_MGMT_HOST 0
  let s := s.setFld F.HEP_MGMT_LINK_LINK 0 (4 * (m / 4) + quadLink (s.ctlMode (m / 4)) (m % 4))
  let s := (s.setFld F.MAC_PORT_CFG_BREAKOUT 0 b.breakout0.toNat).setFld F.MAC_PORT_CFG_BREAKOUT 1 b.breakout1.toNat
  let s := (List.range 16).foldl (fun u k => u.setParam F.MAC_CTL_PMD_TYPE k (b.pmdType.toNat / 4 ^ k % 4)) s
  { s with board := b }

/-- Every present link enters HELD; with `train`, those whose PERST is released go on to TRAINING (R482, R518). -/
def bootLinks (s : State) (train : Bool) : State :=
  ((List.range 2).flatMap fun c => (ctlLinks (s.ctlMode c)).map (4 * c + ·)).foldl
    (fun u h => u.setLinkState h (if train && !(u.link h).perst then 2 else 1)) s

/-- No Tollhouse copy passes, or LC cannot be read (R478, R482 step 3). -/
def bootFail (s : State) : State := { (s.bootBoard {}).bootLinks false with dev := .bootFailed }

/-- The image slots that BOOT_SEL has tried (R516). -/
def bootSlots (sel : Nat) : List Nat := if sel = 3 then [] else (List.range 4).map fun k => (sel + k) % 4

/-- The first image that passes, with its slot: the slots of BOOT_SEL in their order, of which `x` gives what the flash holds, are checked
by the staging checks (R482 step 5, R516). -/
def bootPick (s : State) (x : List (Fin 4 × ImgFile)) : Option (Nat × ImgFile) :=
  let held := (bootSlots (s.fld F.TOP_STRAP_BOOT_SEL 0)).filterMap fun k => (x.find? fun e => e.1.val == k).map fun e => (k, e.2)
  held.find? fun e => s.stageCheck e.2 == 0

/-- The boot image becomes Active, or none does (R482 steps 5 and 6). -/
def bootImage (s : State) (x : List (Fin 4 × ImgFile)) : State :=
  let s := match s.bootPick x with
    | some (k, f) =>
      let s := (s.setFld F.SEC_BOOT_STATUS_IMAGE_OK 0 1).setFld F.SEC_BOOT_STATUS_IMAGE_INDEX 0 k
      { (s.setSlots { active := some f.image }).showSlots.loadImage none f.image true with wakeLow := false }
    | none => s.setEvt .SEC_EVT .SEC_EVT_EN .SEC_MSIX_VEC 0 1
  (List.range 16).foldl placeMac s

/-- The boot's steps from the fuses to the links (R482 steps 1 to 4, R518). -/
def bootEarly (s : State) (b : BootFind) : State :=
  let s := (b.fuses.foldl fuseEvent s).readFuses.setFld F.SEC_BOOT_STATUS_WOKE 0 (b2n s.woke)
  if s.lcLost then s.bootFail
  else
    let s := { s with pins := { s.pins with qspiDriven := true } }.setFld F.PWR_BOARD_FLASH_DEVS 0 b.devs.val
    match (if b.devs.val < 4 then none else s.thCopy b) with
    | none => s.bootFail
    | some (copy, bs) =>
      let s := (s.setFld F.SEC_BOOT_STATUS_TH_COPY 0 copy).setFld F.SEC_BOOT_STATUS_TH_SVN 0 (ImgHdr.ofBytes bs).svn.toNat
      let s := s.dice bs
      let keys := keyRecord b.keyRec
      let s := (s.setFld F.SEC_KEYS_PRESENT 0 (s.bootKeys (keys.getD []))).setFld F.PWR_BOARD_KEYREC_OK 0 (b2n keys.isSome)
      ((s.setFld F.PWR_BOARD_BOARD_OK 0 (b2n b.board.isSome)).bootBoard (b.board.getD {})).bootLinks true

end State

/-- PLL_LOCK (R517, R349, R518): 1,250 AON_CLK cycles after the start the core domains leave reset, with TOP_UPTIME one later where
`late`; `b.phase` is the ticks to the next AON_CLK edge, which R21 leaves open (log entry 6). The boot's steps from the fuses to the board record
follow here, so that links train and answer with Retry Status before the image is Active (log entry 90). -/
def execPllLock (late : Bool) (b : LockFind) (s : State) : Out3 := .next <|
  if s.dev ≠ .locking ∨ s.refLost then s
  else
    let s := s.aonPass (1250 + b2n late)
    let s : State := { s with dev := .booting, cycle := 0, aonPhase := b.phase.val, time := if s.woke then s.wokenTime else 0 }
    let s := s.setTim { s.tim with prev := s.time }
    let s := if s.timState = 0 then s
      else (s.setTim { s.tim with holdStart := s.tim.atStandby, servoPs := min (s.tim.servoPs + 80000) 0xFFFFFFFE }).setTimState 2
    let s := s.setFld F.TOP_CLK_STATUS_PLL_LOCK 0 1
    let s := if s.ethLost then (s.setFld F.TOP_CLK_STATUS_ETH_REF_LOSS 0 1).raise 0x00 0x01 2 else s
    s.bootEarly b.boot

/-- BOOT_IMAGE_ACTIVE (R482 steps 5 and 6, R518): of the images that the flash's slots hold, the first that passes becomes Active, or none
does; the relays answer then (log entry 90). -/
def execBootImageActive (x : List (Fin 4 × ImgFile)) (s : State) : Out3 := .next <|
  if s.dev ≠ .booting then s
  else
    let s := (List.range 8).foldl (fun u n => u.setFld F.RLC_STATUS_READY n 1) s
    { s.bootImage x with dev := .running }

/-! ### Standby (R318, R349, R498, R499) -/

/-- Registers of the AON domain, with the instances each has (R320, R349, R493). -/
def aonRegs : List (Reg × Nat) :=
  [(.TIM_INCR, 1), (.TIM_ASYM, 1), (.TIM_HOLD_CFG, 1), (.TIM_LIMITS, 1), (.TIM_LEAP, 1), (.TIM_LEAP_TIME, 1), (.TOP_UPTIME, 1),
   (.TOP_STRAP, 1), (.PWR_STANDBY_WAKE, 1), (.MAC_WAKE_CTL, 1), (.MAC_WAKE_ADDR, 1), (.MAC_WAKE_STATUS, 1), (.MAC_WAKE_PAT, 128),
   (.MAC_WAKE_MASK, 16)]

/-- Puts back what the AON domain holds of an earlier state. -/
def State.keepAon (s was : State) : State :=
  { aonRegs.foldl (fun u r => (List.range r.2).foldl (fun v k => v.setReg r.1 k (was.reg r.1 k)) u) s with aged := was.aged, pins := was.pins }

/-- The device in Standby: only the AON domain's contents, the fuses, EVER_OPENED and the traceability state and SERVO that the exit
needs stay, and every Bay is off (R440). -/
def State.enterStandby (s : State) : State :=
  let s' : State := { (s.blank .standby).keepAon s with tim := { atStandby := s.wide, servoPs := s.tim.servoPs } }
  let s' := (List.range 32).foldl (fun u k => u.setBay (k / 8) (k % 8) { pwr := 2 }) s'
  (s'.setFld F.TIM_STATE_STATE 0 s.timState).setFld F.DBG_STATUS_EVER_OPENED 0 (s.fld F.DBG_STATUS_EVER_OPENED 0)

/-- STANDBY (R498, R534): from RUN or IDLE only; BUSY while a CFG, SEC or PWR command runs. -/
def execStandby (q : Seq) (s : State) : Out3 := .next <| s.onReg .PWR_CMD 0 (cmdWord 3 q) fun s =>
  if s.dev ≠ .running then s
  else if s.flag F.PWR_STATUS_BUSY 0 ∨ s.cfgState ≠ 0 ∨ s.flag F.SEC_STATUS_BUSY 0 then s.pwrEnd q 1 else s.sessionEnd.zeroize.dropKeys.enterStandby

/-- STANDBY_WAKE (R349, R499): an enabled wake match (`mctp` false) or the MCTP wake message, `n` AON_CLK cycles after the entry; every Bay is ON
and zeroed again (R440). -/
def execStandbyWake (mctp : Bool) (n : BitVec 64) (s : State) : Out3 := .next <|
  if s.dev ≠ .standby ∨ (!mctp ∧ s.reg .MAC_WAKE_STATUS 0 = 0) then s
  else
    let s := ({ s with dev := .locking, wakeLow := true, standbyUp := false, bays := [] }.gradeRegs).aonPass n.toNat
    (s.setFld F.PWR_STANDBY_WAKE_CAUSE 0 (if mctp then 2 else 1)).setFld F.PWR_STANDBY_WAKE_DURATION_S 0 (min (n.toNat / 25000000) 0xFFFFFFFF)

/-! ### Firmware update (R524) -/

/-- PLDM_UPDATE (R524): the writing of a component begins or ends: 0 TH, 1–4 IMAGE0–IMAGE3, 5 BOARD_REC, 6 KEY_REC. In Standby the
request, an MCTP message, is answered with ERROR_NOT_READY (R499). -/
def execPldmUpdate (component : Fin 7) (begin_ : Bool) (s : State) : Out3 := .next <|
  let k := component.val
  if s.dev = .standby ∧ begin_ then s.emit .mctpNotReady
  else if s.dev ≠ .running then s
  else if !begin_ then { s with flashBusy := s.flashBusy.filter (· != k) }
  else match s.slots.reading with
    | some (false, i, _) => if k = 1 + i then s.emit (.pldm true) else { s with flashBusy := k :: s.flashBusy.filter (· != k) }.emit (.pldm false)
    | _ => { s with flashBusy := k :: s.flashBusy.filter (· != k) }.emit (.pldm false)

end Sys2Proof.Machine
end

