-- ==== Sys2Proof/Machine/Bus.lean ====
section
/-!
DEFINITION. The register bus: what a read returns and clears (R4), what a write stores, holds
or starts (R4, R6–R8, R533), and the engine's RREG and WREG (R424).
-/

namespace Sys2Proof.Machine

namespace Reg

/-- Bits that a write stores at once; that it holds for their Apply class; that a 1 clears; that a read clears; that read 0. -/
def nowMask (r : Reg) : Word := r.maskOf fun f => (f.access == .rw || f.access == .wo) && f.apply == .immediate
def laterMask (r : Reg) : Word :=
  r.maskOf fun f => (f.access == .rw || f.access == .wo) && f.apply != .immediate && f.apply != .image && f.apply != .fixed
def w1cMask (r : Reg) : Word := r.maskOf fun f => f.access == .w1c
def rcMask (r : Reg) : Word := r.maskOf fun f => f.access == .rc
def woMask (r : Reg) : Word := r.maskOf fun f => f.access == .wo

/-- The EVT register and the vector register of an EVT_EN register (R533). -/
def eventOf : Reg → Option (Reg × Reg)
  | .RLC_EVT_EN => some (.RLC_EVT, .RLC_MSIX_VEC)
  | .HEP_LINK_EVT_EN => some (.HEP_LINK_EVT, .HEP_MSIX_VEC)
  | .STU_EVT_EN => some (.STU_EVT, .STU_MSIX_VEC)
  | .QE_EVT_EN => some (.QE_EVT, .QE_MSIX_VEC)
  | .MBX_EVT_EN => some (.MBX_EVT, .MBX_MSIX_VEC)
  | .TBL_EVT_EN => some (.TBL_EVT, .TBL_MSIX_VEC)
  | .BPM_EVT_EN => some (.BPM_EVT, .BPM_MSIX_VEC)
  | .MAC_EVT_EN => some (.MAC_EVT, .MAC_MSIX_VEC)
  | .TIM_EVT_EN => some (.TIM_EVT, .TIM_MSIX_VEC)
  | .CIP_EVT_EN => some (.CIP_EVT, .CIP_MSIX_VEC)
  | .TRS_EVT_EN => some (.TRS_EVT, .TRS_MSIX_VEC)
  | .SPM_EVT_EN => some (.SPM_EVT, .SPM_MSIX_VEC)
  | .DMA_EVT_EN => some (.DMA_EVT, .DMA_MSIX_VEC)
  | .FCU_EVT_EN => some (.FCU_EVT, .FCU_MSIX_VEC)
  | .SEC_EVT_EN => some (.SEC_EVT, .SEC_MSIX_VEC)
  | .PWR_EVT_EN => some (.PWR_EVT, .PWR_MSIX_VEC)
  | _ => none

end Reg

namespace State

/-! ### Selected objects -/

/-- The node that TMS_NODE_SEL names: level and index. -/
def selNode (s : State) (p : Nat) : Nat × Nat := (s.fld F.TMS_NODE_SEL_LEVEL p, s.fld F.TMS_NODE_SEL_INDEX p)

/-- Where the word of a register that acts on a selected object lives; the Piers' TMS_TICK are one (R287). -/
def inst (s : State) (r : Reg) (i : Nat) : Nat :=
  match r with
  | .STU_CTX_XLATE | .STU_LOG_CTL | .STU_LOG_BASE_A | .STU_LOG_BASE_B | .STU_WIN_STATUS | .STU_XFER_ADDR => s.selSpan
  | .STU_WIN_BASE | .STU_WIN_TARGET | .STU_WIN_CTL => 8 * s.selSpan + s.fld F.STU_WIN_SEL_WIN 0
  | .QE_CTX_RING | .QE_CTX_CFG | .QE_CTX_MOD | .QE_CTX_EVT | .QE_CTX_IDX | .QE_CTX_CNT => s.selQueue
  | .MBX_STATUS | .MBX_ROUTE => s.selChan
  | .BPM_POOL_RANGE | .BPM_POOL_ACCTS | .BPM_POOL_WM | .BPM_POOL_STATUS | .BPM_POOL_CNT => s.fld F.BPM_POOL_SEL_POOL 0
  | .BPM_ACCT_LIMIT | .BPM_ACCT_USE | .BPM_ACCT_DROP => s.fld F.BPM_ACCT_SEL_ACCOUNT 0
  | .TMS_NODE_TREE | .TMS_NODE_QUANTUM | .TMS_NODE_CIR | .TMS_NODE_PIR | .TMS_NODE_CBS | .TMS_NODE_PBS | .TMS_NODE_OVERHEAD
  | .TMS_NODE_TOKENS | .TMS_NODE_STATE | .TMS_Q_LIMIT | .TMS_Q_DEPTH | .TMS_Q_DROP => nodeKey i (s.selNode i).1 (s.selNode i).2
  | .TMS_POL_CIR | .TMS_POL_PIR | .TMS_POL_CBS | .TMS_POL_PBS | .TMS_POL_CTL | .TMS_POL_TOKENS | .TMS_POL_CNT =>
    polKey i (s.fld F.TMS_POL_SEL_SPAN i)
  | .CIP_RXSC_SCI | .CIP_RXSC_SA | .CIP_RXSC_CTL => 32 * s.fld F.CIP_RXSC_SEL_MAC 0 + s.fld F.CIP_RXSC_SEL_SC 0
  | .DMA_CH_CFG | .DMA_CH_RING | .DMA_CH_CTL | .DMA_CH_DB | .DMA_CH_STATUS | .DMA_CH_CNT => chKey i (s.selCh i)
  | .SPM_BAY_OWNER | .SPM_BAY_PWR | .SPM_BAY_STATUS => 8 * i + s.selBay i
  | .TMS_TICK => 0
  | _ => i

/-! ### What read-only registers report -/

/-- The completion timeout in microseconds that a stored Completion Timeout Value gives (R89). -/
def timeoutUs : Nat → Nat
  | 1 => 100
  | 2 => 10000
  | 5 => 55000
  | 6 => 210000
  | 9 => 900000
  | 10 => 3500000
  | 13 => 13000000
  | 14 => 64000000
  | _ => 50000

/-- Words of a field's value. -/
def put1 (w : Word) (f : Fld) (v : Nat) : Word := setBits w f.lo f.width v

def spanCode : SpanState → Nat | .disabled => 0 | .enabled => 1 | .quiescing => 2 | .quiesced => 3 | .removed => 4
def queueCode : QState → Nat | .disabled => 0 | .active => 1 | .error => 2
def thrCode : ThrState → Nat | .free => 0 | .running => 1 | .waiting => 2 | .done => 3 | .faulted => 4 | .halted => 5

def linkTags (s : State) (h : Nat) (quarantined : Bool) : Nat :=
  (s.tags.filter fun e => e.1 / 16384 == h && match e.2 with | .outstanding _ => !quarantined | .quarantined => quarantined | .free => false).length

/-- Whole bytes of an amount in units of 1/`unit` byte, in 32 bits of two's complement. -/
def whole (unit v : Int) : Nat := unsigned 32 (v / unit)

/-- The word that a register reads: its own bits, and in the place of read-only fields what the objects' records say;
SHADOW_DIRTY is 1 where the shadow differs from the set in effect (log entry 105). -/
def composed (s : State) (r : Reg) (i : Nat) (w : Word) : Word :=
  let p := i
  match r with
  | .HEP_TDISP_LOCKED => put1 w F.HEP_TDISP_LOCKED_COUNT (s.spans.filter fun e => e.2.tdi == .locked || e.2.tdi == .run).length
  | .HEP_LINK_CPL_TO => put1 w F.HEP_LINK_CPL_TO_TIMEOUT_US (timeoutUs (SMap.get {} s.fns (1 + i)).timeout.toNat)
  | .HEP_LINK_TAGS => put1 (put1 w F.HEP_LINK_TAGS_OUTSTANDING (s.linkTags i false)) F.HEP_LINK_TAGS_QUARANTINED (s.linkTags i true)
  | .STU_SPAN_STATUS =>
    let n := s.selSpan
    let x := s.span n
    let w := w ||| s.reg .STU_SPAN_LOGIC 0
    let w := put1 (put1 (put1 w F.STU_SPAN_STATUS_STATE (spanCode x.state)) F.STU_SPAN_STATUS_DRAINED (b2n x.drained))
      F.STU_SPAN_STATUS_RESET_REQUIRED (b2n x.resetRequired)
    let waiting := (s.pend .STU_CTX_XLATE n).mask ||| (s.pend .MBX_ROUTE n).mask
    let w := put1 (put1 w F.STU_SPAN_STATUS_PENDING (b2n (waiting != 0))) F.STU_SPAN_STATUS_TDI_LOCKED (b2n (s.tdiLocked n))
    put1 (put1 w F.STU_SPAN_STATUS_INFLIGHT (min 0xFFFF (s.inflight n))) F.STU_SPAN_STATUS_QUEUES x.queues
  | .STU_WIN_STATUS =>
    let differs (g : Reg) (k : Nat) : Bool := s.shadowed g (8 * i + k) != s.reg g (8 * i + k)
    put1 w F.STU_WIN_STATUS_SHADOW_DIRTY (b2n ((List.range 8).any fun k =>
      differs .STU_WIN_BASE k || differs .STU_WIN_TARGET k || differs .STU_WIN_CTL k))
  | .STU_INV_STATUS => put1 w F.STU_INV_STATUS_BUSY (b2n (!s.invals.isEmpty))
  | .QE_Q_STATUS =>
    let q := s.selQueue
    let x := s.queue q
    let waiting := ((s.pend .QE_CTX_RING q).mask &&& Reg.quiescedMask .QE_CTX_RING) |||
      ((s.pend .QE_CTX_CFG q).mask &&& Reg.quiescedMask .QE_CTX_CFG)
    let w := w ||| s.reg .QE_Q_LOGIC 0
    let w := put1 (put1 w F.QE_Q_STATUS_STATE (queueCode x.state)) F.QE_Q_STATUS_PENDING (b2n (waiting != 0))
    put1 (put1 (put1 (put1 w F.QE_Q_STATUS_SPAN x.span) F.QE_Q_STATUS_INDEX x.index) F.QE_Q_STATUS_KIND x.kind) F.QE_Q_STATUS_BIND x.bind
  | .QE_CTX_IDX =>
    let x := s.queue i
    put1 (put1 (put1 w F.QE_CTX_IDX_PI x.pi.toNat) F.QE_CTX_IDX_CI x.ci.toNat) F.QE_CTX_IDX_DI x.di.toNat
  | .QE_CTX_CNT =>
    put1 (put1 w F.QE_CTX_CNT_DROPS_OR_OVF (min (s.queue i).drops 0xFFFFFFFF)) F.QE_CTX_CNT_MALFORMED (min (s.queue i).malformed 0xFFFFFFFF)
  | .QE_CACHE_USE => put1 w F.QE_CACHE_USE_CELLS s.cacheUse
  | .MBX_STATUS => put1 (put1 w F.MBX_STATUS_OUT_FULL (b2n (s.mail i).outFull)) F.MBX_STATUS_IN_FULL (b2n (s.mail i).inFull)
  | .MBX_FROM => (s.mbxFrom).1
  | .MAC_DIST_SVC => put1 w F.MAC_DIST_SVC_EFFECTIVE (s.effMode i)
  | .TBL_EVQ_CTL => put1 w F.TBL_EVQ_CTL_ARM (s.fld F.TBL_EVQ_STATUS_ARMED p)
  | .TBL_CMDQ_STATUS => put1 w F.TBL_CMDQ_STATUS_BUSY (b2n (s.trun p).desc.isSome)
  | .TBL_FC_STATUS => put1 w F.TBL_FC_STATUS_LINES ((s.fcache.map fun e => if e.1 / 16384 = p then e.2.length else 0).sum)
  | .BPM_POOL_STATUS => put1 (put1 w F.BPM_POOL_STATUS_FREE (s.poolFree i)) F.BPM_POOL_STATUS_SHARED_FREE (s.sharedFree i)
  | .TMS_NODE_TOKENS =>
    put1 (put1 w F.TMS_NODE_TOKENS_CTOK (whole 256 (s.node i).ctok)) F.TMS_NODE_TOKENS_PTOK (whole 256 (s.node i).ptok)
  | .TMS_NODE_STATE =>
    let p := i / 65536
    let n := s.selNode p
    put1 (put1 w F.TMS_NODE_STATE_STATE (if n.1 = 0 then s.portState p n.2 else s.childState p n.1 n.2)) F.TMS_NODE_STATE_DEFICIT (s.node i).deficit
  | .TMS_Q_DEPTH =>
    let p := i / 65536
    let n := s.selNode p
    if n.1 = 3 then put1 (put1 w F.TMS_Q_DEPTH_BYTES (s.depth p n.2)) F.TMS_Q_DEPTH_FRAMES (s.tq p n.2).length else w
  | .TMS_POL_TOKENS => put1 (put1 w F.TMS_POL_TOKENS_TC (s.polTc i / 256)) F.TMS_POL_TOKENS_TP (s.polTp i / 256)
  | .MAC_FC_STATUS =>
    put1 w F.MAC_FC_STATUS_RX_PAUSED (((List.range 8).map fun c => if s.classPaused i c then 2 ^ c else 0).sum)
  | .MAC_CBS_CREDIT =>
    put1 w F.MAC_CBS_CREDIT_CREDIT (whole 25600 (((s.cbsGap (i / 8)).mac (i / 8)).credit.getD (i % 8) 0))
  | .TIM_NOW => s.wide
  | .TIM_ADJ_STATUS => put1 w F.TIM_ADJ_STATUS_SLEW_LEFT (min s.tim.slewTicks 0xFFFFFFFF)
  | .TIM_STATE => put1 w F.TIM_STATE_HOLD_MS (s.heldNs / 1000000)
  | .TIM_BOUND => put1 w F.TIM_BOUND_BOUND_DEV_PS s.boundDev
  | .TIM_GNSS_RX => (s.gnssPop).1
  | .TIM_GNSS_STATUS => put1 (put1 w F.TIM_GNSS_STATUS_RX_LEVEL s.gnssRx.length) F.TIM_GNSS_STATUS_TX_LEVEL s.gnssTx.length
  | .TIM_CAP_HI => (s.capPop i).1
  | .TIM_CAP_STATUS => put1 w F.TIM_CAP_STATUS_LEVEL (s.caps i).length
  | .TIM_SYNCE => put1 w F.TIM_SYNCE_SQUELCHED (b2n (s.squelched i))
  | .CIP_SA_STATE => BitVec.ofNat 64 (saState (s.sa s.selSa))
  | .CIP_SA_NEXT => BitVec.ofNat 64 (s.sa s.selSa).pn
  | .CIP_SA_ERRCNT => put1 (put1 w F.CIP_SA_ERRCNT_AUTH (s.sa s.selSa).authErr) F.CIP_SA_ERRCNT_REPLAY (s.sa s.selSa).replayErr
  | .TRS_CYCLE => s.cycle
  | .TRS_STATUS =>
    let count (st : ThrState) : Nat := ((trussThreads i).filter fun n => (s.thr n).state == st).length
    let w := put1 (put1 w F.TRS_STATUS_LIVE (64 - count .free)) F.TRS_STATUS_WAITING (count .waiting)
    put1 (put1 w F.TRS_STATUS_FREE (count .free)) F.TRS_STATUS_STALLED (b2n (s.stalled399 i))
  | .TRS_THR_STATE =>
    let n := 64 * i + s.fld F.TRS_THR_SEL_THREAD i
    let x := s.thr n
    let w := put1 (put1 w F.TRS_THR_STATE_STATE (thrCode x.state)) F.TRS_THR_STATE_IMPLICIT (b2n (x.state == .waiting && x.implicit.isSome))
    let w := put1 (put1 w F.TRS_THR_STATE_OUTSTANDING (s.liveOps n).length) F.TRS_THR_STATE_DETACHED (b2n x.detached)
    let w := put1 (put1 w F.TRS_THR_STATE_RAIL_HOLD (b2n x.rail.isSome)) F.TRS_THR_STATE_PARENT (x.parent % 64)
    put1 (put1 w F.TRS_THR_STATE_WAIT_MASK x.waitMask.toNat) F.TRS_THR_STATE_PENDING (s.pendingSet n).toNat
  | .TRS_THR_PC => put1 w F.TRS_THR_PC_PC (s.thr (64 * i + s.fld F.TRS_THR_SEL_THREAD i)).pc.toNat
  | .TRS_THR_FAULT => thrFault (s.thr (64 * i + s.fld F.TRS_THR_SEL_THREAD i))
  | .TRS_FAULT_MAP => BitVec.ofNat 64 (((List.range 64).map fun l => if (s.thr (64 * i + l)).state = .faulted then 2 ^ l else 0).sum)
  | .TRS_EQ_STATUS =>
    put1 (put1 (put1 w F.TRS_EQ_STATUS_PACKETS (s.eqPackets i)) F.TRS_EQ_STATUS_ENTRIES (s.eqEntries i)) F.TRS_EQ_STATUS_WOKEN (s.woken i 2)
  | .TRS_RAIL =>
    let t := i / 256
    let x := s.rail (t / 3) (i % 256)
    let w := put1 (put1 w F.TRS_RAIL_COUNT x.msgs.length) F.TRS_RAIL_HELD (b2n x.owner.isSome)
    let owner := match x.owner with | some n => (ownerThread n).toNat | none => 0
    put1 (put1 (put1 w F.TRS_RAIL_READER (b2n (x.reader == some t))) F.TRS_RAIL_OWNER owner) F.TRS_RAIL_WAITERS x.waiters.length
  | .SPM_BAY_OWNER => put1 w F.SPM_BAY_OWNER_OWNER (s.bay (i / 8) (i % 8)).owner.toNat
  | .SPM_BAY_PWR => put1 w F.SPM_BAY_PWR_MODE (s.bay (i / 8) (i % 8)).pwr
  | .SPM_BAY_STATUS =>
    let b := s.bay (i / 8) (i % 8)
    put1 (put1 (put1 w F.SPM_BAY_STATUS_STATE (b2n b.handover.isSome)) F.SPM_BAY_STATUS_PWR b.pwr) F.SPM_BAY_STATUS_TRANSIT (b2n b.transit.isSome)
  | .DMA_CH_STATUS =>
    let c := s.dmaC (i / 64) (i % 64)
    let w := put1 (put1 w F.DMA_CH_STATUS_STATE c.state) F.DMA_CH_STATUS_HEAD c.head.toNat
    let w := put1 w F.DMA_CH_STATUS_TAIL c.tail.toNat
    match c.run with
    | none => w
    | some r =>
      put1 (put1 (put1 w F.DMA_CH_STATUS_OUTSTANDING r.outstanding) F.DMA_CH_STATUS_ALLOC_WAIT (b2n r.allocWait))
        F.DMA_CH_STATUS_BARRIER_WAIT (b2n (r.finished && Desc.barrier r.desc))
  | .CFG_STATUS => put1 w F.CFG_STATUS_HOLD_ACTIVE (b2n (s.heldBytes != 0))
  | .FCU_PIN => put1 w F.FCU_PIN_LEVEL (b2n (!s.faultNLow))
  | .PWR_STATUS =>
    let idle := s.reg .PWR_DOMAINS 0 != 0 || s.bays.any fun e => e.2.pwr != 0
    put1 w F.PWR_STATUS_STATE (b2n idle)
  | .DBG_STATUS =>
    put1 w F.DBG_STATUS_RAIL_HELD (b2n (s.rails.any fun e => !e.2.waiters.isEmpty && match e.2.owner with
      | some n => (s.thr n).state == .halted | none => false))
  | .DBG_THR_STATUS =>
    let x := s.thr (s.fld F.DBG_THR_SEL_THREAD 0)
    let w := put1 w F.DBG_THR_STATUS_STATE (thrCode x.state)
    if x.state = .halted then put1 (put1 w F.DBG_THR_STATUS_PRIOR (thrCode x.prior)) F.DBG_THR_STATUS_PC x.pc.toNat else w
  | .DBG_REMAIN =>
    put1 w F.DBG_REMAIN_SECONDS (if s.dbgLevel = 0 then 0 else (s.dbgEnd - (s.reg .TOP_UPTIME 0).toNat + 24999999) / 25000000)
  | _ => w

/-- What instance `i` of a register reads: the value in effect, and 0 in write-only fields. -/
def readReg (s : State) (r : Reg) (i : Nat) : Word :=
  let k := s.inst r i
  s.composed r k (s.reg r k &&& ~~~ r.woMask)

/-! ### Reads that do something (R4) -/

/-- A read of instance `i` of a register; `e` is the ECC outcome of a scratchpad word that it reads. -/
def busRead (s : State) (r : Reg) (i : Nat) (e : Ecc) : Word × State :=
  match r with
  | .TIM_NOW => s.timNow
  | .TIM_CAP_HI => s.capPop i
  | .TIM_GNSS_RX => s.gnssPop
  | .MBX_FROM => s.mbxFrom
  | .SPM_MGMT_DATA => s.mgmtRead i e
  | .PWR_TJ_PEAK => (s.readReg r i, { s.setReg r i 0 with peakClear := true })
  | _ =>
    let k := s.inst r i
    let w := s.readReg r i
    (w, if r.rcMask = 0 then s else s.setReg r k (s.reg r k &&& ~~~ r.rcMask))

/-! ### Writes -/

/-- A register without effects of its own is written (R4, R6, R7): fields that apply at once are stored, the others held, and 1s
clear W1C bits. -/
def wrPlain (s : State) (r : Reg) (k : Nat) (w : Word) : State :=
  let v := s.fixWord r k (r.nowMask ||| r.laterMask) w
  let s := s.setReg r k (merge r.nowMask (s.reg r k) v &&& ~~~ (w &&& r.w1cMask))
  if r.laterMask = 0 then s else s.hold r k r.laterMask v

/-- An EVT_EN register is written: bits that go from 0 to 1 over set EVT bits send the vector, once (R533). -/
def wrEnable (s : State) (r evt vec : Reg) (k : Nat) (w : Word) : State :=
  let was := s.reg evt k &&& s.reg r k
  let s := s.wrPlain r k w
  if s.reg evt k &&& s.reg r k &&& ~~~ was = 0 then s else s.mfVector (getBits (s.reg vec k) 0 11)

def wrBasic (s : State) (r : Reg) (k : Nat) (w : Word) : State :=
  match r.eventOf with
  | some (evt, vec) => s.wrEnable r evt vec k w
  | none => s.wrPlain r k w

/-- The state a command of the register's logic leaves. -/
def after (s : State) : Out3 → State
  | .next t => t
  | _ => s

/-- OP and SEQ of a command word. -/
def opOf (w : Word) (n : Nat) : Nat := getBits w 0 n
def seqOf (w : Word) : Seq := BitVec.ofNat 16 (getBits w 16 16)

/-- A write to the TIM block by the servo thread (`servo`) or the Management Function (R326, R328, R334, R339, R341, R342). -/
def wrTim (s : State) (servo : Bool) (r : Reg) (i : Nat) (w : Word) : State :=
  match r with
  | .TIM_CTL => if servo then s else s.wrBasic r i w
  | .TIM_INCR => s.adjBy servo fun s => s.writeIncr (getBits w 0 40)
  | .TIM_ADJ_ARG | .TIM_SLEW_TICKS | .TIM_LEAP | .TIM_LEAP_TIME => s.adjBy servo fun s => s.wrBasic r i w
  | .TIM_ADJ_CMD =>
    let q := seqOf w
    match opOf w 4 with
    | 1 => s.after (execStep servo q s)
    | 2 => s.after (execSet servo q s)
    | 3 => s.after (execSlew servo q s)
    | 4 => s.after (execSlewAbort servo q s)
    | _ => s.adjBy servo id
  | .TIM_SERVO_UPD => s.after (execTimServoUpd servo (w.setWidth 32) ((w >>> 32).setWidth 2) s)
  | .TIM_GNSS_TX => s.after (execGnssTxWrite (w.setWidth 8) s)
  | .TIM_PPS_OUT => (s.wrBasic r i w).ppsWrite
  | .TIM_TOUT_CTL => s.toutCtl i (getBits w 0 4)
  | .TIM_EVT =>
    let s := s.wrBasic r i w
    if s.capFifo.isEmpty then s else s.timEvt 3
  | _ => s.wrBasic r i w

end State

/-! ### RREG and WREG (R424) -/

namespace State

/-- The register that an address word names to a thread: PRIV for a block or an access the table of R424 forbids; none at an unused
offset. -/
def threadReg (s : State) (n : Nat) (a : Word) (write : Bool) : Except Exc (Option (Reg × Nat)) :=
  let off := getBits a 0 24
  let ok := match getBits a 24 8 with
    | 0 => !write || n % 64 == 0
    | 1 => s.flag F.TIM_SERVO_VALID 0 && s.fld F.TIM_SERVO_THREAD 0 == n
    | _ => false
  if off % 8 ≠ 0 then .error .align
  else if !ok then .error .priv
  else if 0x100000 ≤ off then .ok none
  else if getBits a 24 8 = 1 then .ok (locate (0x300000 + off))
  else .ok (locate (0x1800000 + n / 192 * 0x1000000 + n / 64 % 3 * 0x100000 + off))

end State

/-- A slot that is lost because the register ring is held (R62, R379). -/
def State.lostSlot (s : State) (x : Slot) : State :=
  let n := x.thr.val
  if (s.thr n).state = .running ∧ !(s.thr n).aborting then s.bump F.TRS_BUBBLE_CNT_COUNT (n / 64) else s

/-- RREG (R424). -/
def execRreg (x : Slot) (rd rs : RegNo) (s : State) : Out3 :=
  .next (if s.cfgState = 4 ∨ s.cfgState = 5 then s.lostSlot x
    else s.issue x (mRd ||| mRs) [rs] false fun t n _ =>
      match t.threadReg n (t.g n rs) false with
      | .error e => .exc e t
      | .ok none => t.put n rd 0
      | .ok (some (r, i)) => let (w, t) := t.busRead r i .ok; t.put n rd w)

/-- WREG (R424). -/
def execWreg (x : Slot) (rs rt : RegNo) (s : State) : Out3 :=
  .next (if s.cfgState = 4 ∨ s.cfgState = 5 then s.lostSlot x
    else s.issue x (mRs ||| mRt) [rs, rt] false fun t n _ =>
      match t.threadReg n (t.g n rs) true with
      | .error e => .exc e t
      | .ok none => .ok t
      | .ok (some (r, i)) =>
        if r = .TRS_CMD then .ok t
        else .ok (if getBits (t.g n rs) 24 8 = 1 then t.wrTim true r i (t.g n rt) else t.wrBasic r i (t.g n rt)))

end Sys2Proof.Machine
end

