-- ==== Sys2Proof/Machine/Engine.lean ====
section
/-!
DEFINITION. An engine instruction as the engine runs it, by its row; BRK; and the one instruction that a debugger steps (R414, R487).
-/

namespace Sys2Proof.Machine

/-- BRK (R414, R485): the thread halts where a session holds its Truss; otherwise BREAK. -/
def execBrk (x : Slot) (s : State) : Out3 :=
  .next (s.issue x 0 [] false fun t n _ =>
    if t.dbgLevel ≠ 0 ∧ t.dbgThread n then .ok (t.setThr n { t.thr n with state := .halted, prior := .running })
    else .exc .brk t)

/-- The effect of an engine instruction; no other command has one here. -/
def runEng (i : Instr) (s : State) : Out3 :=
  match i with
  | .add x rd rs rt => execAdd x rd rs rt s
  | .sub x rd rs rt => execSub x rd rs rt s
  | .and_ x rd rs rt => execAnd x rd rs rt s
  | .or_ x rd rs rt => execOr x rd rs rt s
  | .xor x rd rs rt => execXor x rd rs rt s
  | .sll x rd rs rt => execSll x rd rs rt s
  | .srl x rd rs rt => execSrl x rd rs rt s
  | .sra x rd rs rt => execSra x rd rs rt s
  | .mul x rd rs rt => execMul x rd rs rt s
  | .mulhu x rd rs rt => execMulhu x rd rs rt s
  | .slt x rd rs rt => execSlt x rd rs rt s
  | .sltu x rd rs rt => execSltu x rd rs rt s
  | .min x rd rs rt => execMin x rd rs rt s
  | .max x rd rs rt => execMax x rd rs rt s
  | .popc x rd rs => execPopc x rd rs s
  | .clz x rd rs => execClz x rd rs s
  | .ctz x rd rs => execCtz x rd rs s
  | .bswap x rd rs => execBswap x rd rs s
  | .addi x rd rs imm => execAddi x rd rs imm s
  | .andi x rd rs imm => execAndi x rd rs imm s
  | .ori x rd rs imm => execOri x rd rs imm s
  | .xori x rd rs imm => execXori x rd rs imm s
  | .slti x rd rs imm => execSlti x rd rs imm s
  | .lih x rd k imm => execLih x rd k imm s
  | .shiSll x rd rs c => execShiSll x rd rs c s
  | .shiSrl x rd rs c => execShiSrl x rd rs c s
  | .shiSra x rd rs c => execShiSra x rd rs c s
  | .shiRotate x rd rs c => execShiRotate x rd rs c s
  | .lds x rd rb sx sz off => execLds x rd rb sx sz off s
  | .sts x rd rb sx sz off => execSts x rd rb sx sz off s
  | .ldw x rd rb sx sz off => execLdw x rd rb sx sz off s
  | .stw x rd rb sx sz off => execStw x rd rb sx sz off s
  | .ldr x rd rb sx sz off => execLdr x rd rb sx sz off s
  | .str x rd rb sx sz off => execStr x rd rb sx sz off s
  | .atsAdd x rd rs rt => execAtsAdd x rd rs rt s
  | .atsSwap x rd rs rt => execAtsSwap x rd rs rt s
  | .atsCas x rd rs rt => execAtsCas x rd rs rt s
  | .atrAdd x rd rs rt => execAtrAdd x rd rs rt s
  | .atrSwap x rd rs rt => execAtrSwap x rd rs rt s
  | .atrCas x rd rs rt => execAtrCas x rd rs rt s
  | .beq x rs rt off => execBeq x rs rt off s
  | .bne x rs rt off => execBne x rs rt off s
  | .blt x rs rt off => execBlt x rs rt off s
  | .bge x rs rt off => execBge x rs rt off s
  | .bltu x rs rt off => execBltu x rs rt off s
  | .bgeu x rs rt off => execBgeu x rs rt off s
  | .jal x off => execJal x off s
  | .jalr x rd rs imm => execJalr x rd rs imm s
  | .fence x => execFence x s
  | .mfs x rd k => execMfs x rd k s
  | .fork x rd rs imm => execFork x rd rs imm s
  | .forkd x rd rs imm => execForkd x rd rs imm s
  | .join x rd rs => execJoin x rd rs s
  | .endThread x rs => execEnd x rs s
  | .signal x rs => execSignal x rs s
  | .wait x rd mask => execWait x rd mask s
  | .tmrAbs x rs => execTmrAbs x rs s
  | .tmrRel x rs => execTmrRel x rs s
  | .thrctlFree x rd rs => execThrctlFree x rd rs s
  | .thrctlRestart x rd rs rt => execThrctlRestart x rd rs rt s
  | .take x rd => execTake x rd s
  | .rsv x rs => execRsv x rs s
  | .put x rs => execPut x rs s
  | .rsend x => execRsend x s
  | .rrd x rd rs => execRrd x rd rs s
  | .mbxr x rd => execMbxr x rd s
  | .mbxw x rd rs rt => execMbxw x rd rs rt s
  | .dma x rd rs rt => execDma x rd rs rt s
  | .tbl x rd rs rt => execTbl x rd rs rt s
  | .cpl x rs rt => execCpl x rs rt s
  | .xmitTxq x rd rs rt => execXmitTxq x rd rs rt s
  | .xmitRxq x rd rs rt => execXmitRxq x rd rs rt s
  | .xmitWire x rd rs rt => execXmitWire x rd rs rt s
  | .xmitPipe x rd rs rt => execXmitPipe x rd rs rt s
  | .alloc x rd rs rt => execAlloc x rd rs rt s
  | .bufFree x rd rs => execBufFree x rd rs s
  | .bufDrop x rd rs => execBufDrop x rd rs s
  | .bufGive x rd rs rt => execBufGive x rd rs rt s
  | .bufShare x rd rs => execBufShare x rd rs s
  | .aesEnc x rd rs rt => execAesEnc x rd rs rt s
  | .aesDec x rd rs rt => execAesDec x rd rs rt s
  | .keyldInstall x rd rs rt => execKeyldInstall x rd rs rt s
  | .keyldDelete x rd rs rt => execKeyldDelete x rd rs rt s
  | .crc x rd rs rt fn => execCrc x rd rs rt fn s
  | .time x rd => execTime x rd s
  | .rreg x rd rs => execRreg x rd rs s
  | .wreg x rs rt => execWreg x rs rt s
  | .brk x => execBrk x s
  | _ => .next s

namespace State

/-- The word at a thread's PC in its Truss's instruction store (R410). -/
def fetchWord (s : State) (n : Nat) : BitVec 32 := SMap.get 0 s.code ((s.thr n).pc.toNat / 4 + 65536 * (n / 64))

/-- What a register holds picks the row of XMIT, AES and KEYLD. -/
def rowOf (s : State) (n : Nat) (w : BitVec 32) : BitVec 2 :=
  let rt := s.g n (w.extractLsb' 11 5)
  match (w.extractLsb' 26 6).toNat with
  | 0x33 => rt.setWidth 2
  | 0x36 => if bitOf rt 16 then 1 else 0
  | 0x37 => BitVec.ofNat 2 (getBits (s.g n (w.extractLsb' 16 5)) 16 2)
  | _ => 0

/-- One slot of RUNNING thread `x.thr`: its instruction by its word; ILLEGAL for a word no row has (R412). -/
def runSlot (s : State) (x : Slot) : State :=
  let n := x.thr.val
  let w := s.fetchWord n
  match decodeEng x (s.rowOf n w) w with
  | some i => s.after (runEng i s)
  | none => s.issue { x with unused := 0 } 0 [] false fun t _ _ => .exc .illegal t

/-- STEP of a HALTED thread (R487): one instruction issues and the thread is HALTED again, with the state it would have as the one to
resume; none while no instruction can issue: the prior state is not RUNNING, or the slot is a bubble. -/
def stepSlot (s : State) (x : Slot) : Option State :=
  let n := x.thr.val
  if (s.thr n).prior ≠ .running then none
  else
    let s := s.unhalt n
    let probe := (s.setReg .TRS_BUBBLE_CNT (n / 64) 0).runSlot x
    if probe.reg .TRS_BUBBLE_CNT (n / 64) ≠ 0 then none
    else some ((s.runSlot x).haltAgain n)

end State

end Sys2Proof.Machine
end

