-- ==== Sys2Proof/Machine/Debug.lean ====
section
/-!
DEFINITION. The debug block's session, thread commands and reads (R485–R488, R490, R492, R506).
-/

namespace Sys2Proof.Machine

namespace State

/-- A DBG command ends (R534). -/
def dbgDone (s : State) (q : Seq) (code : Nat) : State := s.endCmd F.DBG_STATUS_LAST_RESULT F.DBG_STATUS_LAST_SEQ 0 code q

/-- A session opens at a level for `seconds` AON_CLK seconds from now. -/
def startSession (s : State) (level span mask seconds : Nat) : State :=
  let s := ((s.setFld F.DBG_STATUS_LEVEL 0 level).setFld F.DBG_STATUS_SPAN 0 span).setFld F.DBG_STATUS_TRUSS_MASK 0 mask
  { s.setFld F.DBG_STATUS_EVER_OPENED 0 1 with dbgEnd := (s.reg .TOP_UPTIME 0).toNat + 25000000 * seconds }

/-- The thread that DBG_THR_SEL names. -/
def selThr (s : State) : Nat := s.fld F.DBG_THR_SEL_THREAD 0

/-- What refuses an access to the selected thread before its state counts (R485, R487): the code and the state it leaves. -/
def thrBar (s : State) : Option (Nat × State) :=
  let n := s.selThr
  if s.dbgLevel = 0 then some (4, s)
  else if !s.dbgThread n then some (3, s.setFld F.DBG_STATUS_DENIED 0 1)
  else if s.trussPwr (n / 64) ≠ 0 then some (6, s.setFld F.DBG_STATUS_GATED 0 1)
  else none

/-- A thread command acts on the selected thread: BUSY while a STEP is in progress (R534), then what refuses an access. -/
def onThread (s : State) (op : Nat) (q : Seq) (f : State → Nat → State) : State :=
  s.onReg .DBG_THR_CMD 0 (cmdWord op q) fun s =>
  if s.heldStep.isSome then s.thrDone q 1
  else match s.thrBar with
    | some (c, t) => t.thrDone q c
    | none => f s s.selThr

/-- A thread command that acts on a HALTED thread. -/
def onHalted (s : State) (op : Nat) (q : Seq) (f : State → Nat → State) : State :=
  s.onThread op q fun s n => if (s.thr n).state = .halted then f s n else s.thrDone q 5

/-- A register access to the selected thread that fails: its code in DBG_THR_STATUS. -/
def regFail (s : State) (code : Nat) : State := s.setFld F.DBG_THR_STATUS_LAST_RESULT 0 code

/-- The register that DBG_REG_SEL names: g0–g31, or special register 0–9 (R409). -/
def dbgReg (s : State) (n r : Nat) : Word := if r < 32 then s.greg n r else (s.special n (r - 32)).getD 0

/-- DBG_REG_DATA is read: the word, and the state it leaves (R487, R506). -/
def dbgRegRead (s : State) : Word × State :=
  match s.thrBar with
  | some (6, t) => (~~~0, t.regFail 6)
  | some (c, t) => (0, t.regFail c)
  | none =>
    if (s.thr s.selThr).state = .halted then (s.dbgReg s.selThr (s.fld F.DBG_REG_SEL_REG 0), s.regFail 0) else (0, s.regFail 5)

/-- DBG_SPM_DATA is read (R488): Bay off, scope, then the word by the management path. -/
def dbgSpmRead (s : State) (e : Ecc) : Word × State :=
  let p := s.fld F.DBG_SPM_ADDR_PIER 0
  let off := 8 * s.fld F.DBG_SPM_ADDR_WORD 0
  let b := s.bay p (bayOf off)
  if s.dbgLevel = 0 then (0, s.setFld F.DBG_STATUS_DENIED 0 1)
  else if b.pwr ≠ 0 ∨ b.transit.isSome then (~~~0, s.setFld F.DBG_STATUS_GATED 0 1)
  else if !s.dbgAll ∧ b.owner ≠ ownerSpan (s.fld F.DBG_STATUS_SPAN 0) then (0, s.setFld F.DBG_STATUS_DENIED 0 1)
  else
    let s := s.spmEcc p off e
    (s.spmWord p off, if s.spmBad p off then s.spmUe p off ownerMf 6 else s)

end State

/-- OPEN (R490, R492): the token is checked and the nonce consumed; in BLANK, without a token, the level of DBG_CMD.LEVEL opens, for a
time the spec leaves open. In Standby and Off no session opens (R500). -/
def execOpen (level : BitVec 2) (q : Seq) (s : State) : Out3 := .next <| s.onReg .DBG_CMD 0 (cmdWord 1 q (2 ^ 4 * level.toNat)) fun s =>
  if s.dev = .standby ∨ s.dev = .off ∨ s.dev = .inReset then s
  else if s.lifecycle = 0 ∧ s.dbgLevel = 0 ∧ s.sec.tokenSeen.isEmpty then
    let (w, s) := s.useNonce.fresh
    (s.startSession (if level = 2 then 2 else 1) 0 0xFFF (1 + w.toNat % 86400)).dbgDone q 0
  else
    let cause := s.tokenCause false
    let s := s.useNonce
    if cause ≠ 0 then (s.tokenReject cause).dbgDone q 2
    else
      let full := s.tokenKind = 2
      (s.startSession (if full then 2 else 1) (if full then 0 else s.tokenBits 7 0 12) (if full then 0xFFF else s.tokenBits 7 16 12)
        (s.tokenBits 7 32 32)).dbgDone q 0

/-- CLOSE (R486). -/
def execClose (q : Seq) (s : State) : Out3 := .next <|
  s.onReg .DBG_CMD 0 (cmdWord 2 q) fun s => if s.dbgLevel = 0 then s.dbgDone q 4 else s.sessionEnd.dbgDone q 0

/-- SESSION_EXPIRE (R486): the session's duration is over. -/
def execSessionExpire (s : State) : Out3 := .next s.sessionEnd

/-- HALT (R487). -/
def execHalt (q : Seq) (s : State) : Out3 := .next <| s.onThread 1 q fun s n =>
  let x := s.thr n
  match x.state with
  | .free | .done => s.thrDone q 5
  | .halted => s.thrDone q 0
  | st => (s.setThr n { x with state := .halted, prior := st }).thrDone q 0

/-- RESUME (R383, R487). -/
def execResumeThread (q : Seq) (s : State) : Out3 := .next <| s.onHalted 2 q fun s n => (s.resumeThr n).thrDone q 0

/-- STEP (R487): in this slot where an instruction can issue; else the command stays in progress until a slot of the thread in which
one can (`State.issue`). -/
def execStepThread (q : Seq) (regs store word : Ecc) (s : State) : Out3 := .next <| s.onHalted 3 q fun s n =>
  match s.stepSlot { thr := Fin.ofNat 768 n, regs := regs, store := store, word := word } with
  | some t => t.thrDone q 0
  | none => { s with heldStep := some (n, q) }

/-- ABORT (R396, R402, R487): the thread returns to the pool, at once where it has no outstanding operation, else as the last of them
returns (`State.takeOp`); the command is in progress until then. -/
def execAbort (q : Seq) (s : State) : Out3 := .next <| s.onHalted 4 q fun s n =>
  let s := s.abortThread n
  if (s.thr n).ops.isEmpty then (s.setThr n {}).thrDone q 0
  else { s.setThr n { s.thr n with dropping := true } with heldStep := some (n, q) }

/-- DBG_REG_READ (R487, R506). -/
def execDbgRegRead (s : State) : Out3 := .next <| s.onRead .DBG_REG_DATA 0 fun s => let (w, s) := s.dbgRegRead; s.emit (.readData w)

/-- DBG_REG_WRITE (R487, R506): g1–g31 of a HALTED thread; any other register takes nothing. -/
def execDbgRegWrite (w : Word) (s : State) : Out3 := .next <| s.onReg .DBG_REG_DATA 0 w fun s =>
  match s.thrBar with
  | some (c, t) => t.regFail c
  | none =>
    let r := s.fld F.DBG_REG_SEL_REG 0
    if (s.thr s.selThr).state ≠ .halted then s.regFail 5
    else if r < 32 then (s.setGreg s.selThr r w).regFail 0 else s.regFail 0

/-- DBG_SPM_READ (R488). -/
def execDbgSpmRead (e : Ecc) (s : State) : Out3 := .next <|
  s.onRead .DBG_SPM_DATA 0 (e := e) fun s => let (w, s) := s.dbgSpmRead e; s.emit (.readData w)

end Sys2Proof.Machine
end

