-- ==== Sys2Proof/Machine/BusCmd.lean ====
section
/-!
DEFINITION. Writes of registers that hold commands or whose writes do more than store (chapters 01–17), the register ring's waits
(R62, R496), the register window (R79), a swap's end (R56, R59), a domain's power-up (R497) and the JTAG TAP (R486, R489, R510).
-/

namespace Sys2Proof.Machine

namespace State

/-! ### Command registers -/

/-- A bit field of a command word as a `BitVec`. -/
def cmdBits (w : Word) (lo n : Nat) : BitVec n := BitVec.ofNat n (getBits w lo n)

/-- A write of a command register: the command that OP names, with SEQ; a reserved OP is a NOP. None for another register. -/
def wrCommand (s : State) (r : Reg) (i : Nat) (w : Word) : Option State :=
  let q := seqOf w
  let p : Pier := Fin.ofNat 4 i
  let t : Truss := Fin.ofNat 12 i
  match r with
  | .CFG_CMD => some <| s.after <| match opOf w 4 with
    | 1 => execStageFlash (Fin.ofNat 4 (getBits w 4 2)) q s | 2 => execStageHost q s | 3 => execCommit q s | 4 => execRollback q s
    | 5 => execDiscard q s | _ => .next s
  | .FCU_SAFE_CMD => some <| s.after <| match opOf w 2 with
    | 1 => execEnter q s | 2 => execLeave q s | 3 => execScrub q none s | _ => .next s
  | .STU_SPAN_CMD => some <| s.after <| match opOf w 4 with
    | 1 => execSpanEnable q s | 2 => execSpanQuiesce q s | 3 => execSpanComplete q s | 4 => execSpanReset q s | 5 => execSpanRemove q s
    | 6 => execSpanInit q s | 7 => execSpanExport q s | 8 => execSpanImport q s | 9 => execLogSwap q s | _ => .next s
  | .STU_WIN_COMMIT => some (if bitOf w 0 then s.after (execWinCommit s) else s)
  | .STU_INV_CMD => some (s.after (execStuInvCmd (Fin.ofNat 4096 (getBits w 0 12)) (cmdBits w 12 2) q s))
  | .STU_RCV_CMD => some <| s.after <| match opOf w 4 with
    | 1 => execBreakLock q s | 2 => execReleaseRail q s | 3 => execReclaimBay q s | 4 => execSweepBuffers q s
    | 5 => execTransferOwner q s | _ => .next s
  | .QE_Q_CMD => some <| s.after <| match opOf w 4 with
    | 1 => execQueueEnable q s | 2 => execQueueDisable q s | 3 => execQueueRestart q s | 4 => execQueueZero q s | _ => .next s
  | .MBX_TO => some (s.after (execMbxToWrite w s))
  | .CLS_RULE_CMD => some <| s.after <| match opOf w 2 with
    | 1 => execRuleWrite p q s | 2 => execRuleRead p q s | 3 => execRuleInvalidate p q s | _ => .next s
  | .TBL_CMDQ_DB => some (s.after (execTblCmdqDb p s))
  | .TBL_FC_CMD => some (if opOf w 2 = 1 then s.after (execInvAll p q s) else s)
  | .TBL_EVQ_CI => some (s.after (execTblEvqCiWrite p (cmdBits w 0 16) s))
  | .BPM_BUF_CMD => some <| s.after <| match opOf w 4 with
    | 1 => execReadRec q s | 2 => execBpmFree q s | 3 => execBpmDrop q s | 4 => execBpmGive q s | _ => .next s
  | .MAC_STAT_SNAP => some (if bitOf w 0 then s.after (execMacStatSnap (Fin.ofNat 16 i) s) else s)
  | .MAC_PORT_CMD => some (if opOf w 2 = 1 then s.after (execPortRestart (Fin.ofNat 2 i) q s) else s)
  | .CIP_SA_CMD => some <| s.after <| match opOf w 4 with
    | 1 => execSaInstall q s | 2 => execSaDelete q s | 3 => execSaRead q s | 4 => execSetSoft q s | 5 => execZeroizeAll q s
    | _ => .next s
  | .TRS_CMD => some <| s.after <| match opOf w 4 with
    | 1 => execAbortThread t (Fin.ofNat 64 (getBits w 8 6)) q s | 2 => execRestartTruss t q s | _ => .next s
  | .SPM_BAY_OWNER => some (s.after (execBayHandover p (cmdBits w 0 16) (cmdBits w 16 16) (cmdBits w 32 16) s))
  | .SPM_BAY_PWR => some (s.after (execBayPwrRequest p (cmdBits w 0 2) q s))
  | .SPM_MGMT_DATA => some (s.after (execSpmMgmtWrite p w s))
  | .DMA_CH_CTL => some (s.after (if bitOf w 0 then execDmaChEnable p s else execDmaChDisable p s))
  | .DMA_CH_DB => some (s.after (execDmaChDb p s))
  | .SEC_CMD => some <| s.after <| match opOf w 4 with
    | 1 => execProvision q s | 2 => execFuseKey q s | 3 => execRevokeKey q s | 4 => execDeploy q s | 5 => execRaiseSvn q s
    | 6 => execRaiseThSvn q s | 7 => execToAnalysis q s | _ => .next s
  | .PWR_CMD => some <| s.after <| match opOf w 2 with
    | 1 => execGate (cmdBits w 8 8) q s | 2 => execUngate (cmdBits w 8 8) q s | 3 => execStandby q s | _ => .next s
  | .DBG_CMD => some <| s.after <| match opOf w 2 with
    | 1 => execOpen (cmdBits w 4 2) q s | 2 => execClose q s | _ => .next s
  | .DBG_THR_CMD => some <| s.after <| match opOf w 3 with
    | 1 => execHalt q s | 2 => execResumeThread q s | 3 => execStepThread q .ok .ok .ok s | 4 => execAbort q s | _ => .next s
  | .DBG_TOKEN_DATA => some (s.after (execDbgTokenWrite w s))
  | .DBG_REG_DATA => some (s.after (execDbgRegWrite w s))
  | _ => none

/-! ### Writes that do more than store -/

/-- A write to a register of a Span's or queue's structure, which a locked TDI refuses (R103, R142). -/
def wrLocked (s : State) (n : Nat) (f : State → State) : State := if s.tdiLocked n then s.writeDropped n else f s

/-- STU_LOG_CTL (R133, R141): EN rises. -/
def wrLogCtl (s : State) (k : Nat) (w : Word) : State :=
  let was := s.flag F.STU_LOG_CTL_EN k
  let s := s.wrPlain .STU_LOG_CTL k w
  if !was && s.flag F.STU_LOG_CTL_EN k then
    (((s.epoch .logEn .STU_LOG_CTL k).epoch .logEnOrSwap .STU_LOG_BASE_A k).epoch .logEnOrSwap .STU_LOG_BASE_B k).setFld F.STU_LOG_CTL_CUR k 0
  else s

/-- A Quiesced register of a queue (R167, R182): a queue or Span that counts as quiesced takes it at once. -/
def wrQueue (s : State) (r : Reg) (k : Nat) (w : Word) : State :=
  let x := s.queue k
  if !x.used then s
  else s.wrLocked x.span fun s =>
    let s := s.wrPlain r k w
    if x.state ≠ .active ∨ s.spanQuiet x.span then s.queueQuiesced k else s

/-- TBL_EVQ_CTL (R248, R250). -/
def wrEvqCtl (s : State) (p : Nat) (w : Word) : State :=
  let was := s.flag F.TBL_EVQ_CTL_EN p
  let s := s.wrPlain .TBL_EVQ_CTL p w
  let s := if !was && s.flag F.TBL_EVQ_CTL_EN p then
      let s := ((s.epoch .evqEn .TBL_EVQ_BASE p).epoch .evqEn .TBL_EVQ_CTL p).setFld F.TBL_EVQ_STATUS_PI p 0
      (s.setFld F.TBL_EVQ_CI_CI p 0).evDrain p (SMap.get [] s.tblEv p)
    else s
  if bitOf w 9 then s.setFld F.TBL_EVQ_STATUS_ARMED p 1 else s

/-- A bucket's shortfall after its size, in whole units, goes from `old` to `new`: tokens above the new size are cut (R288, R250). -/
def shortfall (unit old new lack : Nat) : Nat := unit * new - min (unit * old - lack) (unit * new)

/-- A TMS node register, at a level that has it: a port node has no quantum and only the peak bucket (R287, R288, R295). -/
def wrNode (s : State) (r : Reg) (k : Nat) (w : Word) : State :=
  let level := k / 16384 % 4
  let has : Bool := match r with
    | .TMS_NODE_OVERHEAD => level == 0
    | .TMS_Q_LIMIT => level == 3
    | .TMS_NODE_PIR | .TMS_NODE_PBS => true
    | _ => level != 0
  if !has then s
  else
    let s := s.wrPlain r k w
    let x := s.node k
    match r with
    | .TMS_NODE_CBS => s.setNode k { x with ctok := min x.ctok (256 * (s.fld F.TMS_NODE_CBS_SIZE k : Int)) }
    | .TMS_NODE_PBS => s.setNode k { x with ptok := min x.ptok (256 * (s.fld F.TMS_NODE_PBS_SIZE k : Int)) }
    | _ => s

/-- A policer's bucket size (R288). -/
def wrPolSize (s : State) (r : Reg) (k : Nat) (w : Word) : State :=
  let x := s.pol k
  let s' := s.wrPlain r k w
  if r = .TMS_POL_CBS then s'.setPol k { x with tc := shortfall 256 (s.fld F.TMS_POL_CBS_SIZE k) (s'.fld F.TMS_POL_CBS_SIZE k) x.tc }
  else s'.setPol k { x with tp := shortfall 256 (s.fld F.TMS_POL_PBS_SIZE k) (s'.fld F.TMS_POL_PBS_SIZE k) x.tp }

/-- FCU_cls_CAP (R464, R475): a 1 in VALID clears the capture. -/
def wrCapture (s : State) (i : Nat) (w : Word) : State :=
  let s := s.wrPlain .FCU_CAP i w
  if bitOf w 63 then
    (((s.setFld F.FCU_CAP_SOURCE i 0).setFld F.FCU_CAP_CODE i 0).setReg .FCU_DETAIL i 0).setReg .FCU_TIME i 0
  else s

/-- A write of instance `i` of a register on the bus. -/
def wrReg (s : State) (r : Reg) (i : Nat) (w : Word) : State :=
  match s.wrCommand r i w with
  | some t => t
  | none =>
    let k := s.inst r i
    match r with
    | .STU_CTX_XLATE => s.wrLocked k fun s =>
      let s := s.wrPlain r k w
      if s.spanQuiet k then (s.dropXlate k).applyMask r k (Reg.quiescedMask r) else s
    | .STU_WIN_BASE | .STU_WIN_TARGET | .STU_WIN_CTL => s.wrLocked (k / 8) fun s => s.wrPlain r k w
    | .STU_LOG_CTL => s.wrLocked k fun s => s.wrLogCtl k w
    | .QE_CTX_RING | .QE_CTX_CFG => s.wrQueue r k w
    | .QE_CTX_EVT => if (s.queue k).used then s.wrLocked (s.queue k).span fun s => s.wrPlain r k w else s
    | .QE_CTX_MOD => if (s.queue k).used then s.wrPlain r k w else s
    | .MBX_ROUTE =>
      let s := s.wrPlain r k w
      if 4096 ≤ k ∨ s.spanQuiet k then (s.applyMask r k (Reg.quiescedMask r)).fullMap k else s
    | .CLS_SP_BURST => (s.wrPlain r k w).spCut r k
    | .TBL_CMDQ_CTL =>
      let s := s.hold r k r.laterMask (s.fixWord r k (r.nowMask ||| r.laterMask) w)
      if bitOf w 8 then s.cmdqEnable k else s.setFld F.TBL_CMDQ_CTL_EN k 0
    | .TBL_EVQ_CTL => s.wrEvqCtl k w
    | .TBL_LEARN_CFG =>
      let s' := s.wrPlain r k w
      let lack := shortfall 256 (s.fld F.TBL_LEARN_CFG_BURST k) (s'.fld F.TBL_LEARN_CFG_BURST k) (SMap.get 0 s.learnUsed k)
      { s' with learnUsed := SMap.put 0 s'.learnUsed k lack }
    | .TMS_NODE_QUANTUM | .TMS_NODE_CIR | .TMS_NODE_PIR | .TMS_NODE_CBS | .TMS_NODE_PBS | .TMS_NODE_OVERHEAD | .TMS_Q_LIMIT =>
      s.wrNode r k w
    | .TMS_POL_CBS | .TMS_POL_PBS => s.wrPolSize r k w
    | .MAC_CTL =>
      let s := s.hold r k r.laterMask (s.fixWord r k (r.nowMask ||| r.laterMask) w)
      s.after (if bitOf w 0 then execMacEnable (Fin.ofNat 16 k) s else execMacDisable (Fin.ofNat 16 k) s)
    | .MAC_FC_WM => (s.wrPlain r k w).fcUpdate
    | .MAC_CBS =>
      let m := k / 8
      let s := (s.cbsGap m).wrPlain r k w
      let x := s.mac m
      let top : Int := 25600 * (s.fld F.MAC_CBS_HI_CREDIT k : Int)
      s.setMac m { x with credit := x.credit.set (k % 8) (min (x.credit.getD (k % 8) 0) top) }
    | .FCU_CAP => s.wrCapture k w
    | .FCU_PIN | .FCU_EVT_EN | .FCU_MSIX_VEC => (s.wrBasic r k w).fcuCure r
    | .TOP_CLK_STATUS =>
      let s := s.wrPlain r k w
      let s := if s.refLost then s.setFld F.TOP_CLK_STATUS_REF_LOSS 0 1 else s
      if s.ethLost then s.setFld F.TOP_CLK_STATUS_ETH_REF_LOSS 0 1 else s
    | _ => s.wrTim false r k w

/-- A write at a BAR0 offset; one at an unused offset is dropped (R16). -/
def busWrite (s : State) (off : Nat) (w : Word) : State :=
  match locate off with
  | some (r, i) => s.wrReg r i w
  | none => s

/-- A read at a BAR0 offset; an unused one reads 0 (R16). -/
def busReadAt (s : State) (off : Nat) (e : Ecc) : Word × State :=
  match locate off with
  | none => (0, s)
  | some (.DBG_REG_DATA, _) => s.dbgRegRead
  | some (.DBG_SPM_DATA, _) => s.dbgSpmRead e
  | some (.DBG_NONCE, 0) => s.nonceRead
  | some (r, i) => s.busRead r i e

/-! ### The register ring (R62, R496) -/

/-- What an access does when it reaches its block; the value that a read through the register window brings stands in VS_DATA_LO and
VS_DATA_HI, which are one register each way (log entry 91). -/
def ringDo (s : State) : RingOp → State
  | .write off w => s.busWrite off w
  | .vsRead off e =>
    let (w, s) := s.busReadAt off e
    { s with vsLo := w.setWidth 32, vsHi := (w >>> 32).setWidth 32 }.emit (.cfgDone .success (w.setWidth 32))
  | .read off e => let (w, s) := s.busReadAt off e; s.emit (.readData w)

/-- An access enters the ring and does what it does at its block. -/
def ringSend (s : State) (o : RingOp) : State := s.ringTake o fun s => s.ringDo o

/-- The waiting accesses are tried again, in order. -/
def drainRing (s : State) : State := s.ring.foldl ringSend { s with ring := [] }

/-- A register write of the Manager arrives (R3, R80): counted by its path. -/
def mgmtWrite (s : State) (path : MgmtPath) (off : Nat) (w : Word) : State :=
  let s := match path with
    | .mf => s.bump F.HEP_MGMT_PATH_MF_WRITES 0
    | .mctp => s.bump F.HEP_MGMT_PATH_MCTP_WRITES 0
  if off % 8 ≠ 0 then s else s.ringSend (.write off w)

end State

/-- An access to a register or to a page's register in service. -/
def State.registerAccess (s : State) (t : RegTarget) (w : Word) : State :=
  if s.dev ≠ .running then s
  else match t with
  | .bar0 .mf off =>
    if s.ideDrops .mf then s else if s.barOk .mf then s.mgmtWrite .mf off.toNat w else s.unsupportedReq .mf
  | .bar0 .mctp off => s.mgmtWrite .mctp off.toNat w
  | .mbxPage e off eight =>
    match s.mbxFn e with
    | none => s
    | some f =>
      if s.ideDrops f then s
      else if !s.mbxOk e f then s.unsupportedReq f
      else if !s.mbxAnswers e then s
      else
        let c := mbxChan e
        let m := s.mail c
        match off.toNat with
        | 0x00 => s.after (execMbxOutWrite { page := e, eight := eight } w s)
        | 0x10 => if bitOf w 2 then s.setMail c { m with overrun := false } else s
        | 0x18 => s.setMail c { m with irqEn := bitOf w 0, vec := State.cmdBits w 8 6 }
        | k => if k < 0x20 then s else s.unsupportedReq f
  | .msixTable f v word =>
    s.msixWrite f v.val fun m => match word.val with
      | 0 => { m with addr := w }
      | 1 => { m with data := w.setWidth 32 }
      | _ => { m with masked := bitOf w 0 }
  | .vsWindow word =>
    if word.val = 0 then { s with vsAddr := w.setWidth 32 &&& 0x0FFFFFF8 } else { s with vsLo := w.setWidth 32 }
  | .mctpRead off => s.ringSend (.read off.toNat .ok)

/-- REGISTER_WRITE (R4, R7, R16, R73, R79, R177). -/
def execRegisterWrite (t : RegTarget) (w : Word) (s : State) : Out3 := .next <|
  match t with
  | .bar0 .mctp _ | .mctpRead _ =>
    if s.dev = .standby then s.emit .mctpNotReady
    else if s.dev = .bootFailed then
      match t with
      | .mctpRead off => if off.toNat = regOff .SEC_BOOT_STATUS 0 then s.emit (.readData (s.reg .SEC_BOOT_STATUS 0)) else s
      | _ => s
    else s.registerAccess t w
  | _ => s.registerAccess t w

/-- VS_DATA_LO_READ (R79). -/
def execVsDataLoRead (e : Ecc) (s : State) : Out3 := .next <|
  if s.dev ≠ .running then s else s.ringSend (.vsRead s.vsAddr.toNat e)

/-- VS_DATA_HI_WRITE (R79): the 64-bit write of VS_DATA_HI and VS_DATA_LO. -/
def execVsDataHiWrite (v : BitVec 32) (s : State) : Out3 := .next <|
  if s.dev ≠ .running then s else { s with vsHi := v }.mgmtWrite .mf s.vsAddr.toNat (v ++ s.vsLo)

/-- INVALIDATION_DONE (R128): the oldest invalidation finishes once no request that used its translations is outstanding, and an
STU_INV_CMD that waits on the ring for its place is accepted. -/
def execInvalidationDone (s : State) : Out3 := .next <|
  match s.invals with
  | [] => s
  | v :: t =>
    if !v.waitOn.isEmpty then s
    else
      let s : State := { s with invals := t }
      ((s.setFld F.STU_INV_STATUS_LAST_SEQ 0 v.seq.toNat).setFld F.STU_INV_STATUS_BUSY 0 (b2n !t.isEmpty)).stuEvt 4 |>.drainRing

/-- SWAP_COMPLETE (R43, R56, R60, R62): the load, then Resume: waiting accesses take effect over the new values. -/
def execSwapComplete (drain swap : BitVec 32) (s : State) : Out3 := .next <|
  if s.cfgState ≠ 4 then s else (s.swapIn drain swap).drainRing

/-- SWAP_FAULT (R49, R59). -/
def execSwapFault (y : BitVec 4) (s : State) : Out3 := .next <| if s.cfgState ≠ 4 then s else s.swapFault y

/-- SELF (R468, R472). -/
def execSelf (r : BitVec 16) (s : State) : Out3 := .next <|
  if s.cfgState = 4 then s.failSwap.selfFault r else s.selfFault r

/-- POWERUP_DONE (R496, R497): a waking domain is ON, a Truss once its Pier is, and what waited for it proceeds. -/
def execPowerupDone (domain : Byte) (s : State) : Out3 := .next <|
  let d := domain.toNat
  if s.domState d ≠ 3 ∨ (16 ≤ d ∧ s.domState ((d - 16) / 3) ≠ 0) then s
  else
    let s := (s.setDom d 0).drainRing
    if d < 4 then s.cmdqNop d else s

/-! ### JTAG (R486, R489, R510) -/

namespace State

/-- A scanned domain has power (R493): CORE and AON with the device, a Pier, Truss or Bay that is ON. -/
def scanPower (s : State) (d : Nat) : Bool :=
  let bay := s.bay ((d - 0x20) / 8) (d % 8)
  (s.coreUp || s.dev == .scanned) && (d == 0xFF || d == 0xFE || ((domFld d).isSome && s.domState d == 0) ||
    (decide (0x20 ≤ d ∧ d < 0x40) && bay.pwr == 0 && bay.transit.isNone))

/-- The device after a scan of domain `d` (R489): out of service until PORST_N, with the session open (R486), the power domains and Bays
as they stood, and the AON domain's contents, unless it was the one scanned (log entry 124). -/
def scanned (s : State) (d : Nat) : State :=
  let t := s.blank .scanned
  let t := if d = 0xFE then t else t.keepAon s
  let kept := [Reg.DBG_STATUS, .DBG_THR_SEL, .DBG_THR_STATUS, .DBG_SPM_ADDR, .PWR_DOMAINS]
  let t := kept.foldl (fun u r => u.setReg r 0 (s.reg r 0)) t
  { s.bays.foldl (fun u e => u.setBay (e.1 / 8) (e.1 % 8) { pwr := e.2.pwr }) t with dbgEnd := s.dbgEnd }

/-- A full session is open. -/
def dbgFull (s : State) : Bool := s.dbgLevel == 2

/-- Free values for the bits that a scan shifts out. -/
def freeBits : Nat → State → List Bool × State
  | 0, s => ([], s)
  | n + 1, s =>
    let (w, s) := s.fresh
    let (l, s) := freeBits n s
    (w.getLsbD 0 :: l, s)

end State

/-- JTAG_SCAN: what a data scan under an instruction shifts out, least significant bit first. -/
def execJtagScan (ir : JtagIr) (tdi : List Bool) (s : State) : Out3 := .next <|
  let n := tdi.length
  let ones := s.emit (.jtag (List.replicate n true))
  let bypass := s.emit (.jtag ((false :: tdi).take n))
  let id : List Bool := (List.range 32).map fun i => (0x09640001 : BitVec 32).getLsbD i
  if s.dev = .off ∨ s.dev = .inReset then s
  else if s.dev = .standby then bypass
  else match ir with
  | .idcode => s.emit (.jtag ((id ++ tdi).take n))
  | .bypass => bypass
  | .bus =>
    if !s.dbgFull then ones
    else
      let (l, s) := State.freeBits n s
      s.emit (.jtag l)
  | .scan d =>
    if !s.dbgFull ∨ !s.scanPower d.toNat then ones
    else
      let (l, s) := State.freeBits n s
      (s.emit (.jtag l)).scanned d.toNat
  | .register off write =>
    match write with
    | some w => s.busWrite (0xD00000 + off.toNat) w
    | none =>
      let (w, s) := s.busReadAt (0xD00000 + off.toNat) .ok
      s.emit (.readData w)

end Sys2Proof.Machine
end

