-- ==== Sys2Proof/Machine/Completion.lean ====
section
/-!
DEFINITION. Completions of the device's own reads (R83, R91, R92, R94).
-/

namespace Sys2Proof.Machine

namespace State

/-- Data of an entry's part arrive (R127, R164). -/
def entryData (s : State) (q : Nat) (cell : BitVec 16) (part : Nat) (bs : List Byte) (bad : Bool) : State :=
  s.withBegun q cell fun b => { b with parts := b.parts - 1, data := b.data ++ [(part, bs)], bad := b.bad || bad }

/-- What a request's data do to the work that depended on it; the cells of a ring fetch come with their own row. -/
def deliver (s : State) (r : HostReq) (bs : List Byte) (bad : Bool) : State :=
  match r.dep with
  | .data q cell _ => s.entryData q cell r.part (bs.take r.len) bad
  | .dma p ch b => s.dmaData p ch b r bs bad
  | .dmaRing p ch g => s.dmaRingData p ch g bs bad
  | .dmaBarrier p ch => if bad then s.depFail r.dep 5 1 else s.barrierRead p ch
  | .tblRing p => s.cmdqDesc p bs bad
  | .tblBuf p => s.cmdqBuf p r.addr bs bad
  | .log n a => s.logData n a bs bad
  | .stage | .blob => if bad then s.depFail r.dep 5 1 else s
  | .walk | .fetch _ | .other => s

/-- A completion that no request waits for: AER Unexpected Completion as Advisory Non-Fatal in the link's PF, and a CE fault (R91). -/
def strayCpl (s : State) (h : Link) (t code : Nat) : State :=
  (s.aerAdv (.pf h) 16).raise 0x04 code (h.val + 2 ^ 16 * t)

end State

/-- COMPLETION_RECEIVED (R91, R92, R94): data of a read under tag `t`; the read has ended once all of its bytes are in. -/
def execCompletionReceived (h : Link) (t : Fin 16384) (poisoned : Bool) (data : List Byte) (s : State) : Out3 := .next <|
  if !s.linkUp h.val then s
  else if (match s.tag h.val t.val with | .outstanding r => s.ideDrops r.fn | _ => s.ideDrops (.pf h)) then s
  else match s.tag h.val t.val with
  | .free => s.strayCpl h t.val 0x03
  | .quarantined => (s.bump F.HEP_LATE_CPL_COUNT 0).strayCpl h t.val 0x02
  | .outstanding r =>
    let key := 16384 * h.val + t.val
    let r := { r with recv := r.recv ++ data, bad := r.bad || poisoned }
    let s := if poisoned then s.poisonIn r.fn else s
    if r.recv.length < r.len then s.setTag h.val t.val (.outstanding r)
    else
      let s := s.endTag key .free
      (((s.walkData key r.recv r.bad).deliver r (r.recv.take r.len) r.bad).retryStalled).refreshOpt r.span

end Sys2Proof.Machine
end

