-- ==== Sys2Proof/Machine/PageRead.lean ====
section
/-!
DEFINITION. Reads of the functions' BAR pages (R73, R75, R77, R149, R152, R177, R178, R348): doorbell pages, mailbox pages, the Time Page
mirror, MSI-X tables and PBAs, each at its place in its BAR.
-/

namespace Sys2Proof.Machine

namespace State

/-- A doorbell page of queue `i` of a Span at an offset (R149, R152): DB_IDX and DB_PEND_k; 0 while R108 drops the Span's doorbells,
none on a page of no queue. -/
def doorbellRead (s : State) (n i off : Nat) : Option Word :=
  match s.queueNo n i with
  | none => none
  | some q =>
    let x := s.queue q
    if !s.spanEnabled n then some 0
    else match off with
      | 0x10 => some (BitVec.ofNat 64 (x.pi.toNat + 2 ^ 16 * x.ci.toNat + 2 ^ 32 * x.di.toNat +
          2 ^ 48 * (match x.state with | .disabled => 0 | .active => 1 | .error => 2)))
      | 0x20 | 0x28 | 0x30 | 0x38 => some (if x.kind = 3 then (x.pend >>> (8 * (off - 0x20))).setWidth 64 else 0)
      | _ => some 0

/-- The mailbox page at an offset (R177, R178); a read of 8 bytes of MBX_IN takes the word. -/
def mailRead (s : State) (e : MbxEnd) (off : Nat) (eight : Bool) : Option (Word × State) :=
  let c := mbxChan e
  let m := s.mail c
  if 0x20 ≤ off then none
  else if !s.mbxAnswers e then some (0, s)
  else match off with
    | 0x08 => some (if eight then (m.inWord, s.setMail c { m with inWord := 0, inFull := false }) else (0, s))
    | 0x10 => some (BitVec.ofNat 64 (b2n m.outFull + 2 * b2n m.inFull + 4 * b2n m.overrun), s)
    | 0x18 => some (BitVec.ofNat 64 (b2n m.irqEn + 2 ^ 8 * m.vec.toNat), s)
    | _ => some (0, s)

/-- Eight bytes of a function's MSI-X table, or of its PBA (R73, R77). -/
def msixRead (s : State) (f : Fn) (off : Nat) : Word :=
  let m := s.vec f (off / 16)
  if off % 16 = 0 then m.addr else m.data.setWidth 64 ||| BitVec.ofNat 64 (2 ^ 32 * b2n m.masked)
def pbaRead (s : State) (f : Fn) (k : Nat) : Word :=
  (List.range 64).foldl (fun w b => if (s.vec f (64 * k + b)).pending then w ||| ((1 : Word) <<< b) else w) 0

/-- The Time Page mirror of host `h` from offset 0x5000 on (R348): the page; TP_NOW, whose read keeps FRAC, and of 4 bytes the high half;
TP_NOW_FRAC. -/
def mirrorRead (s : State) (h off : Nat) (eight : Bool) : Option (Word × State) :=
  let kept := SMap.get 0 s.tim.tpLatch h
  if off < 0x80 then some (BitVec.ofNat 64 (fromBytesLE (((SMap.get [] s.tim.pages h).drop off).take 8)), s)
  else match off with
    | 0x80 =>
      let hi : BitVec 32 := if eight then (kept >>> 16).setWidth 32 else (s.wide >>> 32).setWidth 32
      some (s.wide, s.setTim { s.tim with tpLatch := SMap.put 0 s.tim.tpLatch h (hi ++ s.frac) })
    | 0x88 => some ((kept.setWidth 16).setWidth 64, s)
    | _ => none

/-- The 8 bytes at an aligned offset of BAR0 of a PF or a VF, or of the MF's BAR4, with what the read changes; none in a reserved range
(R73, R75). -/
def pageWord (s : State) (f : Fn) (off : Nat) (eight : Bool) : Option (Word × State) :=
  let plain (o : Option Word) : Option (Word × State) := o.map fun w => (w, s)
  let table : Nat := if f = .mf then 0 else 0x8000
  let pba : Nat := if f = .mf then 0x8000 else 0xC000
  let n := vectorsOf f
  if table ≤ off ∧ off < table + 16 * n then some (s.msixRead f (off - table), s)
  else if pba ≤ off ∧ off < pba + n / 8 then some (s.pbaRead f ((off - pba) / 8), s)
  else match f with
    | .mf => none
    | .pf h =>
      if off < 0x4000 then none
      else if off < 0x5000 then s.mailRead (.host h) (off - 0x4000) eight
      else s.mirrorRead h.val (off - 0x5000) eight
    | .vf h k =>
      let span := (s.face h.val).base + k.val
      if off < 0x4000 then plain (s.doorbellRead span (off / 64) (off % 64))
      else if off < 0x5000 then (if hn : span < 4096 then s.mailRead (.span ⟨span, hn⟩) (off - 0x4000) eight else none)
      else s.mirrorRead h.val (off - 0x5000) eight

end State

/-- TP_NOW_READ (R75, R348), and with it every read of a function's BAR page that has no row of its own (log entry 114): of 8 bytes at
an aligned offset, or of 4; the read of 4 bytes at 0x5084 returns what one of 0x5080 kept. A refused read returns Unsupported Request. -/
def execTpNowRead (f : Fn) (x : TpAccess) (s : State) : Out3 := .next <|
  let a := x.off.toNat / 8 * 8
  let high := x.four && decide (4 ≤ x.off.toNat % 8)
  if s.ideDrops f then s
  else if s.barRefuses f then (s.unsupportedReq f).emit (.unsupported f)
  else if high && a == 0x5080 && f != .mf then
    s.emit (.readData (((SMap.get 0 s.tim.tpLatch (s.fnLink f) >>> 16).setWidth 32).setWidth 64))
  else match s.pageWord f a (!x.four) with
    | none => (s.unsupportedReq f).emit (.unsupported f)
    | some (w, t) => t.emit (.readData (if !x.four then w else if high then w >>> 32 else (w.setWidth 32).setWidth 64))

end Sys2Proof.Machine
end

