-- ==== Sys2Proof/Machine/HepCfg.lean ====
section
/-!
DEFINITION. Configuration requests (R70, R72–R74, R76–R79, R81, R86, R88, R89, R97, R540).
-/

namespace Sys2Proof.Machine

/-- Device ID and class code of a function (R70). -/
def deviceId : Fn → Nat
  | .pf _ => 0x9641
  | .mf => 0x9640
  | .vf .. => 0x9642
def classCode : Fn → Nat
  | .mf => 0x088000
  | _ => 0x020000

/-- Completion Timeout Value as it is stored (R89). -/
def timeoutCode (v : BitVec 4) : BitVec 4 := if [0, 1, 2, 5, 6, 9, 10, 13, 14].contains v.toNat then v else 0

/-- Some of the 32 bits of a configuration word. -/
def cfgBits (v : BitVec 32) (lo n : Nat) : Nat := v.toNat / 2 ^ lo % 2 ^ n

namespace State

/-- The function that number `k` names on a link, if the link carries it (R70, R540). -/
def cfgFn (s : State) (h : Link) (k : Nat) : Option Fn :=
  if k = 0 then some (.pf h)
  else if k = 1 then (if h.val = s.mgmtLink then some .mf else none)
  else if hk : k < 4104 then
    if 8 ≤ k ∧ (s.fn (.pf h)).vfEnable ∧ k - 8 < (s.fn (.pf h)).numVfs then some (.vf h ⟨k - 8, by omega⟩) else none
  else none

/-! ### BARs and capabilities (R73, R74, R76) -/

/-- The size of a BAR that starts at word `i` of a function, and whether it is prefetchable; words from 8 on are a PF's VF BARs (R73, R74). -/
def barSize (s : State) (f : Fn) (i : Nat) : Option (Nat × Bool) :=
  match f, i with
  | .mf, 0 => some (0x10000000, false)
  | .mf, 4 => some (0x10000, false)
  | .pf _, 0 | .pf _, 8 => some (0x10000, false)
  | .pf h, 10 => if (s.face h.val).bar2 = 0 then none else some ((s.face h.val).bar2, true)
  | _, _ => none

/-- What BAR word `i` reads: address bits at or above the size, in the low word with the type, 64-bit memory (R73). -/
def barRead (s : State) (f : Fn) (i : Nat) : BitVec 32 :=
  let v (k : Nat) : BitVec 32 := SMap.get 0 (s.fn f).bars k
  match s.barSize f i, (if i % 2 = 1 then s.barSize f (i - 1) else none) with
  | some (n, p), _ => (v i &&& BitVec.ofNat 32 (2 ^ 64 - n)) ||| BitVec.ofNat 32 (4 + 8 * b2n p)
  | none, some (n, _) => v i &&& BitVec.ofNat 32 ((2 ^ 64 - n) / 2 ^ 32)
  | none, none => 0

/-- The capabilities of R76 that a function has, in its list's order: offset and ID; the IDs are PCIe's, and the Physical Layer
capabilities after the 16.0 GT/s one follow it at the sizes PCIe gives them (log entry 98). -/
def capList (f : Fn) : List (Nat × Nat) :=
  let mf := f == .mf
  let pf := match f with | .pf _ => true | _ => false
  ([(0x40, 0x01, mf || pf), (0x50, 0x10, true), (0xB0, 0x11, true), (0x100, 0x0001, true), (0x148, 0x000E, true), (0x158, 0x0003, mf || pf),
    (0x168, 0x0010, pf), (0x1A8, 0x000F, !mf), (0x1B8, 0x001F, pf), (0x1C8, 0x002E, mf || pf), (0x200, 0x0025, pf), (0x210, 0x0026, pf),
    (0x240, 0x002A, pf), (0x270, 0x0031, pf), (0x290, Config.phy128CapId.toNat, pf), (0x300, 0x0030, pf), (0x400, 0x000B, mf)].filter fun x => x.2.2).map fun x => (x.1, x.2.1)

/-- The capability after the one at an offset, in the same list. -/
def capNext (f : Fn) (off : Nat) : Nat :=
  ((capList f).map Prod.fst).find? (fun o => decide (off < o) && decide (o < 0x100) == decide (off < 0x100)) |>.getD 0

/-- The first word of the capability at an offset: its ID and the offset of the next, in an extended capability with version 1. -/
def capHeader (f : Fn) (off : Nat) : BitVec 32 :=
  match (capList f).find? fun x => x.1 == off with
  | none => 0
  | some (o, id) => BitVec.ofNat 32 (if o < 0x100 then id + 2 ^ 8 * capNext f o else id + 2 ^ 16 + 2 ^ 20 * capNext f o)

/-- An address-range word of selective stream `i` + 1 of a link (R100). -/
def rangeKey (h : Link) (i : Fin 4) (k : Fin 8) (word : Fin 3) : Nat := 24 * (i.val + 4 * h.val) + 3 * k.val + word.val

/-- What a configuration register of a function reads; a register that the function does not have reads 0. The PCI Express
Capabilities register names an Endpoint, the PTM capability a Requester only, the ATS capability a queue depth of 32, which PCIe writes
as 0 (R76); the MSI-X table and PBA stand in the BARs and at the offsets of R73. -/
def cfgRead (s : State) (f : Fn) (r : CfgReg) : BitVec 32 :=
  let c := s.fn f
  let word (n : Nat) : BitVec 32 := BitVec.ofNat 32 n
  match r, f with
  | .bar i, _ => s.barRead f i.val
  | .vfBar i, .pf _ => s.barRead f (8 + i.val)
  | .capPtr, _ => word (((capList f).map Prod.fst).headD 0)
  | .interrupt, _ => 0
  | .capHeader off, _ => capHeader f off.toNat
  | .pcieCap, _ => word 2
  | .msixTable, f => if f = .mf then word 4 else word 0x8000
  | .msixPba, f => if f = .mf then word (0x8000 + 4) else word 0xC000
  | .ptmCap, .pf _ => word 1
  | .atsCap, .pf _ | .atsCap, .vf .. => word (32 % 32)
  | .devCap, .pf _ => word (2 + 2 ^ 28 + 2 ^ 30)
  | .devCap, _ => word (2 + 2 ^ 28)
  | .devCap2, _ => word 0xF
  | .aerUncorMask, _ => c.aerMask
  | .aerUncorSev, _ => c.aerSev
  | .aerCorMask, _ => c.aerCorMask
  | .ideCap, .pf _ => word (1 + 2 + 2 ^ 5 + 2 ^ 6 + 2 ^ 16 * 3)
  | .ideRange i k w, .pf h => SMap.get 0 s.ideRanges (rangeKey h i k w)
  | .ids, _ => word (0x1F7E + 2 ^ 16 * deviceId f)
  | .classRev, _ => word (s.fld F.TOP_ID_STEPPING 0 + 2 ^ 8 * classCode f)
  | .subsystem, _ => word (s.board.ssvid.toNat + 2 ^ 16 * s.board.ssid.toNat)
  | .serial hi, .pf _ | .serial hi, .mf => if hi then (s.reg .SEC_UID 0 >>> 32).setWidth 32 else (s.reg .SEC_UID 0).setWidth 32
  | .vsHeader, .mf => word 1
  | .totalVfs, .pf h => word (s.face h.val).count
  | .vfOffset, .pf _ => word (8 + 2 ^ 16)
  | .command, _ => word (2 * b2n c.mse + 4 * b2n c.bme)
  | .pmcsr, .pf _ | .pmcsr, .mf => word (if c.d3hot then 3 else 0)
  | .devCtl, _ => word (c.errEn.toNat + 16 * b2n c.relaxed + 2 ^ 5 * c.mps.toNat + 2 ^ 12 * c.mrrs.toNat)
  | .devCtl2, .pf _ | .devCtl2, .mf => word c.timeout.toNat
  | .msixCtl, _ => word (2 ^ 16 * (vectorsOf f - 1) + 2 ^ 30 * b2n c.msixMask + 2 ^ 31 * b2n c.msixEnable)
  | .aerUncor, _ => c.aerUncor
  | .aerCor, _ => c.aerCor
  | .numVfs, .pf _ => word c.numVfs
  | .sriovCtl, .pf _ => word (b2n c.vfEnable)
  | .ptmCtl, .pf _ => word (b2n c.ptmEnable)
  | .atsCtl, .pf _ | .atsCtl, .vf .. => word (2 ^ 15 * b2n c.atsEnable)
  | .vsAddr, .mf => s.vsAddr
  | .vsDataHi, .mf => s.vsHi
  | _, _ => 0

/-- A function may issue requests again: what waited proceeds in order (R88). -/
def unmute (s : State) (f : Fn) : State :=
  let s := (s.retryMsix f).retryStalled
  match f with
  | .vf h n =>
    let k := (s.face h.val).base + n.val
    (s.retryCpl (s.onSpan k)).retryEvents k
  | .pf _ => s
  | .mf => (List.range 4).foldl (fun u p => (u.evDrain p (SMap.get [] u.tblEv p)).cmdqNop p) s

/-- Every vector of a function whose PBA bit is set is looked at again (R77). -/
def flushVectors (s : State) (f : Fn) : State :=
  ((s.msix.filter fun e => e.1 / 2048 == fnKey f).map fun e => e.1 % 2048).foldl (fun u v => u.msixFlush f v) s

/-- A function-level reset that a configuration write starts (R81). -/
def cfgFlr (s : State) : Fn → State
  | .pf h => s.after (execPfFlr h s)
  | .mf => s.after (execMfFlr s)
  | .vf h n => s.after (execVfFlr h n s)

/-- What a write of a configuration register does; one that the function does not have, or a read-only one, takes nothing. -/
def cfgWrite (s : State) (f : Fn) (r : CfgReg) (v : BitVec 32) : State :=
  let c := s.fn f
  match r, f with
  | .command, _ =>
    let bme := v.getLsbD 2
    let s := s.setFn f { c with mse := v.getLsbD 1, bme := bme }
    if bme && !c.bme then s.unmute f else s
  | .pmcsr, .pf _ | .pmcsr, .mf =>
    let d3 := cfgBits v 0 2 == 3
    let s := s.setFn f { c with d3hot := d3 }
    if c.d3hot && !d3 then (s.unmute f).flushVectors f else s
  | .devCtl, _ =>
    let s := s.setFn f { c with errEn := v.setWidth 4, relaxed := v.getLsbD 4, mps := BitVec.ofNat 3 (min 2 (cfgBits v 5 3)), mrrs := BitVec.ofNat 3 (min 5 (cfgBits v 12 3)) }
    if v.getLsbD 15 then s.cfgFlr f else s
  | .bar i, _ => s.setFn f { c with bars := SMap.put 0 c.bars i.val v }
  | .vfBar i, .pf _ => s.setFn f { c with bars := SMap.put 0 c.bars (8 + i.val) v }
  | .aerUncorMask, _ => s.setFn f { c with aerMask := v }
  | .aerUncorSev, _ => s.setFn f { c with aerSev := v }
  | .aerCorMask, _ => s.setFn f { c with aerCorMask := v }
  | .ideRange i k w, .pf h => { s with ideRanges := SMap.put 0 s.ideRanges (rangeKey h i k w) v }
  | .devCtl2, .pf _ | .devCtl2, .mf => s.setFn f { c with timeout := timeoutCode (v.setWidth 4) }
  | .msixCtl, _ => (s.setFn f { c with msixMask := v.getLsbD 30, msixEnable := v.getLsbD 31 }).flushVectors f
  | .aerUncor, _ => s.setFn f { c with aerUncor := c.aerUncor &&& ~~~v }
  | .aerCor, _ => s.setFn f { c with aerCor := c.aerCor &&& ~~~v }
  | .numVfs, .pf h => if c.vfEnable then s else s.setFn f { c with numVfs := min (cfgBits v 0 16) (s.face h.val).count }
  | .sriovCtl, .pf h => if v.getLsbD 0 then s.setFn f { c with vfEnable := true } else s.clearVfEnable h
  | .ptmCtl, .pf h =>
    let s := s.setFn f { c with ptmEnable := v.getLsbD 0 }
    if v.getLsbD 0 then s else s.ptmReset h.val
  | .atsCtl, .pf _ | .atsCtl, .vf .. => s.setFn f { c with atsEnable := v.getLsbD 15 }
  | .vsAddr, .mf => s.after (execRegisterWrite (.vsWindow 0) (v.setWidth 64) s)
  | .vsDataLo, .mf => s.after (execRegisterWrite (.vsWindow 1) (v.setWidth 64) s)
  | .vsDataHi, .mf => s.after (execVsDataHiWrite v s)
  | _, _ => s

/-- The DOE mailbox of a function. -/
def doeOf : Fn → Option DoeMbx
  | .pf h => some (.pf h)
  | .mf => some .mf
  | .vf .. => none

/-- A served read: most answer at once; VS_DATA_LO answers when its access has reached the register (R79), and the read of a DOE
response frees the mailbox (R99), its words a free value. -/
def cfgServe (s : State) (f : Fn) (r : CfgReg) : State :=
  let done (t : State) (d : BitVec 32) : State := t.emit (.cfgDone .success d)
  match r, f with
  | .vsDataLo, .mf => s.after (execVsDataLoRead .ok s)
  | .doeResponse, _ =>
    match doeOf f with
    | none => done s 0
    | some m =>
      match (s.doe m).response with
      | none => done s 0
      | some _ =>
        let (w, s) := s.fresh
        done ((s.setDoe m { s.doe m with response := none }).doeServe m) (w.setWidth 32)
  | _, _ => done s (s.cfgRead f r)

end State

/-- CONFIG_REQUEST (R86, R540): function number `k` of the link, under bus number `bus`. -/
def execConfigRequest (h : Link) (bus : Byte) (k : Fin 8192) (op : CfgOp) (s : State) : Out3 := .next <|
  if !s.linkUp h.val || s.stream h.val 0 == .insecure then s
  else if s.dev ≠ .running ∨ !(s.link h.val).cfgReady then s.emit (.cfgDone .retry 0)
  else match s.cfgFn h k.val with
  | none => s.emit (.cfgDone .unsupported 0)
  | some f =>
    let s := if k.val = 0 then s.setFn f { s.fn f with bus := bus } else s
    match op with
    | .read r => s.cfgServe f r
    | .write r v => (s.cfgWrite f r v).emit (.cfgDone .success 0)

end Sys2Proof.Machine
end

