-- ==== Sys2Proof/Machine/Dispatch.lean ====
section
/-!
DEFINITION. One arm for each command: its meaning.
-/

namespace Sys2Proof.Machine

/-- A command's effect on everything but the queue. -/
def exec (i : Instr) (s : State) : Host.Outcome State Fault Refusal :=
  match i with
  | .add x rd rs rt => Sys2Proof.Machine.execAdd x rd rs rt s
  | .sub x rd rs rt => Sys2Proof.Machine.execSub x rd rs rt s
  | .and_ x rd rs rt => Sys2Proof.Machine.execAnd x rd rs rt s
  | .or_ x rd rs rt => Sys2Proof.Machine.execOr x rd rs rt s
  | .xor x rd rs rt => Sys2Proof.Machine.execXor x rd rs rt s
  | .sll x rd rs rt => Sys2Proof.Machine.execSll x rd rs rt s
  | .srl x rd rs rt => Sys2Proof.Machine.execSrl x rd rs rt s
  | .sra x rd rs rt => Sys2Proof.Machine.execSra x rd rs rt s
  | .mul x rd rs rt => Sys2Proof.Machine.execMul x rd rs rt s
  | .mulhu x rd rs rt => Sys2Proof.Machine.execMulhu x rd rs rt s
  | .slt x rd rs rt => Sys2Proof.Machine.execSlt x rd rs rt s
  | .sltu x rd rs rt => Sys2Proof.Machine.execSltu x rd rs rt s
  | .min x rd rs rt => Sys2Proof.Machine.execMin x rd rs rt s
  | .max x rd rs rt => Sys2Proof.Machine.execMax x rd rs rt s
  | .popc x rd rs => Sys2Proof.Machine.execPopc x rd rs s
  | .clz x rd rs => Sys2Proof.Machine.execClz x rd rs s
  | .ctz x rd rs => Sys2Proof.Machine.execCtz x rd rs s
  | .bswap x rd rs => Sys2Proof.Machine.execBswap x rd rs s
  | .addi x rd rs imm => Sys2Proof.Machine.execAddi x rd rs imm s
  | .andi x rd rs imm => Sys2Proof.Machine.execAndi x rd rs imm s
  | .ori x rd rs imm => Sys2Proof.Machine.execOri x rd rs imm s
  | .xori x rd rs imm => Sys2Proof.Machine.execXori x rd rs imm s
  | .slti x rd rs imm => Sys2Proof.Machine.execSlti x rd rs imm s
  | .lih x rd k imm => Sys2Proof.Machine.execLih x rd k imm s
  | .shiSll x rd rs c => Sys2Proof.Machine.execShiSll x rd rs c s
  | .shiSrl x rd rs c => Sys2Proof.Machine.execShiSrl x rd rs c s
  | .shiSra x rd rs c => Sys2Proof.Machine.execShiSra x rd rs c s
  | .shiRotate x rd rs c => Sys2Proof.Machine.execShiRotate x rd rs c s
  | .lds x rd rb sx sz off => Sys2Proof.Machine.execLds x rd rb sx sz off s
  | .sts x rd rb sx sz off => Sys2Proof.Machine.execSts x rd rb sx sz off s
  | .ldw x rd rb sx sz off => Sys2Proof.Machine.execLdw x rd rb sx sz off s
  | .stw x rd rb sx sz off => Sys2Proof.Machine.execStw x rd rb sx sz off s
  | .ldr x rd rb sx sz off => Sys2Proof.Machine.execLdr x rd rb sx sz off s
  | .str x rd rb sx sz off => Sys2Proof.Machine.execStr x rd rb sx sz off s
  | .atsAdd x rd rs rt => Sys2Proof.Machine.execAtsAdd x rd rs rt s
  | .atsSwap x rd rs rt => Sys2Proof.Machine.execAtsSwap x rd rs rt s
  | .atsCas x rd rs rt => Sys2Proof.Machine.execAtsCas x rd rs rt s
  | .atrAdd x rd rs rt => Sys2Proof.Machine.execAtrAdd x rd rs rt s
  | .atrSwap x rd rs rt => Sys2Proof.Machine.execAtrSwap x rd rs rt s
  | .atrCas x rd rs rt => Sys2Proof.Machine.execAtrCas x rd rs rt s
  | .beq x rs rt off => Sys2Proof.Machine.execBeq x rs rt off s
  | .bne x rs rt off => Sys2Proof.Machine.execBne x rs rt off s
  | .blt x rs rt off => Sys2Proof.Machine.execBlt x rs rt off s
  | .bge x rs rt off => Sys2Proof.Machine.execBge x rs rt off s
  | .bltu x rs rt off => Sys2Proof.Machine.execBltu x rs rt off s
  | .bgeu x rs rt off => Sys2Proof.Machine.execBgeu x rs rt off s
  | .jal x off => Sys2Proof.Machine.execJal x off s
  | .jalr x rd rs imm => Sys2Proof.Machine.execJalr x rd rs imm s
  | .fence x => Sys2Proof.Machine.execFence x s
  | .mfs x rd k => Sys2Proof.Machine.execMfs x rd k s
  | .fork x rd rs imm => Sys2Proof.Machine.execFork x rd rs imm s
  | .forkd x rd rs imm => Sys2Proof.Machine.execForkd x rd rs imm s
  | .join x rd rs => Sys2Proof.Machine.execJoin x rd rs s
  | .endThread x rs => Sys2Proof.Machine.execEnd x rs s
  | .signal x rs => Sys2Proof.Machine.execSignal x rs s
  | .wait x rd mask => Sys2Proof.Machine.execWait x rd mask s
  | .tmrAbs x rs => Sys2Proof.Machine.execTmrAbs x rs s
  | .tmrRel x rs => Sys2Proof.Machine.execTmrRel x rs s
  | .thrctlFree x rd rs => Sys2Proof.Machine.execThrctlFree x rd rs s
  | .thrctlRestart x rd rs rt => Sys2Proof.Machine.execThrctlRestart x rd rs rt s
  | .take x rd => Sys2Proof.Machine.execTake x rd s
  | .rsv x rs => Sys2Proof.Machine.execRsv x rs s
  | .put x rs => Sys2Proof.Machine.execPut x rs s
  | .rsend x => Sys2Proof.Machine.execRsend x s
  | .rrd x rd rs => Sys2Proof.Machine.execRrd x rd rs s
  | .mbxr x rd => Sys2Proof.Machine.execMbxr x rd s
  | .mbxw x rd rs rt => Sys2Proof.Machine.execMbxw x rd rs rt s
  | .dma x rd rs rt => Sys2Proof.Machine.execDma x rd rs rt s
  | .tbl x rd rs rt => Sys2Proof.Machine.execTbl x rd rs rt s
  | .cpl x rs rt => Sys2Proof.Machine.execCpl x rs rt s
  | .xmitTxq x rd rs rt => Sys2Proof.Machine.execXmitTxq x rd rs rt s
  | .xmitRxq x rd rs rt => Sys2Proof.Machine.execXmitRxq x rd rs rt s
  | .xmitWire x rd rs rt => Sys2Proof.Machine.execXmitWire x rd rs rt s
  | .xmitPipe x rd rs rt => Sys2Proof.Machine.execXmitPipe x rd rs rt s
  | .alloc x rd rs rt => Sys2Proof.Machine.execAlloc x rd rs rt s
  | .bufFree x rd rs => Sys2Proof.Machine.execBufFree x rd rs s
  | .bufDrop x rd rs => Sys2Proof.Machine.execBufDrop x rd rs s
  | .bufGive x rd rs rt => Sys2Proof.Machine.execBufGive x rd rs rt s
  | .bufShare x rd rs => Sys2Proof.Machine.execBufShare x rd rs s
  | .aesEnc x rd rs rt => Sys2Proof.Machine.execAesEnc x rd rs rt s
  | .aesDec x rd rs rt => Sys2Proof.Machine.execAesDec x rd rs rt s
  | .keyldInstall x rd rs rt => Sys2Proof.Machine.execKeyldInstall x rd rs rt s
  | .keyldDelete x rd rs rt => Sys2Proof.Machine.execKeyldDelete x rd rs rt s
  | .crc x rd rs rt fn => Sys2Proof.Machine.execCrc x rd rs rt fn s
  | .time x rd => Sys2Proof.Machine.execTime x rd s
  | .rreg x rd rs => Sys2Proof.Machine.execRreg x rd rs s
  | .wreg x rs rt => Sys2Proof.Machine.execWreg x rs rt s
  | .brk x => Sys2Proof.Machine.execBrk x s
  | .registerWrite t w => Sys2Proof.Machine.execRegisterWrite t w s
  | .msixUnmask f v => Sys2Proof.Machine.execMsixUnmask f v s
  | .rldAccess line ecc => Sys2Proof.Machine.execRldAccess line ecc s
  | .stageFlash index q => Sys2Proof.Machine.execStageFlash index q s
  | .stageHost q => Sys2Proof.Machine.execStageHost q s
  | .stagingComplete r => Sys2Proof.Machine.execStagingComplete r s
  | .commit q => Sys2Proof.Machine.execCommit q s
  | .rollback q => Sys2Proof.Machine.execRollback q s
  | .discard q => Sys2Proof.Machine.execDiscard q s
  | .swapComplete drain swap => Sys2Proof.Machine.execSwapComplete drain swap s
  | .perstAssert h => Sys2Proof.Machine.execPerstAssert h s
  | .perstRelease h => Sys2Proof.Machine.execPerstRelease h s
  | .phyCalibrated h => Sys2Proof.Machine.execPhyCalibrated h s
  | .linkUp h speed width flit => Sys2Proof.Machine.execLinkUp h speed width flit s
  | .configReady h => Sys2Proof.Machine.execConfigReady h s
  | .hotReset h => Sys2Proof.Machine.execHotReset h s
  | .linkLost h => Sys2Proof.Machine.execLinkLost h s
  | .pfFlr h => Sys2Proof.Machine.execPfFlr h s
  | .vfFlr h n => Sys2Proof.Machine.execVfFlr h n s
  | .vfEnableClear h => Sys2Proof.Machine.execVfEnableClear h s
  | .configRequest h bus k op => Sys2Proof.Machine.execConfigRequest h bus k op s
  | .completionReceived h t poisoned data => Sys2Proof.Machine.execCompletionReceived h t poisoned data s
  | .cplTimeout h t => Sys2Proof.Machine.execCplTimeout h t s
  | .tagQuarantineExpire h t => Sys2Proof.Machine.execTagQuarantineExpire h t s
  | .malformedTlp f => Sys2Proof.Machine.execMalformedTlp f s
  | .ideFail h k => Sys2Proof.Machine.execIdeFail h k s
  | .vsDataLoRead e => Sys2Proof.Machine.execVsDataLoRead e s
  | .vsDataHiWrite v => Sys2Proof.Machine.execVsDataHiWrite v s
  | .atsInvalidation n scope page => Sys2Proof.Machine.execAtsInvalidation n scope page s
  | .doeRequest m r => Sys2Proof.Machine.execDoeRequest m r s
  | .doeAbort m => Sys2Proof.Machine.execDoeAbort m s
  | .ideKmKeyProg h idx => Sys2Proof.Machine.execIdeKmKeyProg h idx s
  | .lockInterfaceRequest n => Sys2Proof.Machine.execLockInterfaceRequest n s
  | .stopInterfaceRequest n => Sys2Proof.Machine.execStopInterfaceRequest n s
  | .spanEnable q => Sys2Proof.Machine.execSpanEnable q s
  | .spanQuiesce q => Sys2Proof.Machine.execSpanQuiesce q s
  | .spanComplete q => Sys2Proof.Machine.execSpanComplete q s
  | .spanReset q => Sys2Proof.Machine.execSpanReset q s
  | .spanRemove q => Sys2Proof.Machine.execSpanRemove q s
  | .spanInit q => Sys2Proof.Machine.execSpanInit q s
  | .spanExport q => Sys2Proof.Machine.execSpanExport q s
  | .spanImport q => Sys2Proof.Machine.execSpanImport q s
  | .logSwap q => Sys2Proof.Machine.execLogSwap q s
  | .spanCmdDone r => Sys2Proof.Machine.execSpanCmdDone r s
  | .quiesceLate n => Sys2Proof.Machine.execQuiesceLate n s
  | .breakLock q => Sys2Proof.Machine.execBreakLock q s
  | .releaseRail q => Sys2Proof.Machine.execReleaseRail q s
  | .reclaimBay q => Sys2Proof.Machine.execReclaimBay q s
  | .sweepBuffers q => Sys2Proof.Machine.execSweepBuffers q s
  | .transferOwner q => Sys2Proof.Machine.execTransferOwner q s
  | .stuInvCmd n scope q => Sys2Proof.Machine.execStuInvCmd n scope q s
  | .walkComplete n r => Sys2Proof.Machine.execWalkComplete n r s
  | .bar2Tlp n off tlp e => Sys2Proof.Machine.execBar2Tlp n off tlp e s
  | .dbPiWrite n idx v => Sys2Proof.Machine.execDbPiWrite n idx v s
  | .dbCiWrite n idx c => Sys2Proof.Machine.execDbCiWrite n idx c s
  | .eventArm n idx c => Sys2Proof.Machine.execEventArm n idx c s
  | .dbInval n idx => Sys2Proof.Machine.execDbInval n idx s
  | .dbPendClear n idx k mask => Sys2Proof.Machine.execDbPendClear n idx k mask s
  | .entryFetchIssue q n => Sys2Proof.Machine.execEntryFetchIssue q n s
  | .entryFetchReturn q cells poisoned => Sys2Proof.Machine.execEntryFetchReturn q cells poisoned s
  | .entryBegin q acct => Sys2Proof.Machine.execEntryBegin q acct s
  | .entryComplete q => Sys2Proof.Machine.execEntryComplete q s
  | .modIntervalExpire q => Sys2Proof.Machine.execModIntervalExpire q s
  | .queueEnable q => Sys2Proof.Machine.execQueueEnable q s
  | .queueDisable q => Sys2Proof.Machine.execQueueDisable q s
  | .queueRestart q => Sys2Proof.Machine.execQueueRestart q s
  | .queueZero q => Sys2Proof.Machine.execQueueZero q s
  | .rxFrameDeliver p k => Sys2Proof.Machine.execRxFrameDeliver p k s
  | .mbxOutWrite e w => Sys2Proof.Machine.execMbxOutWrite e w s
  | .mbxInRead e => Sys2Proof.Machine.execMbxInRead e s
  | .mbxToWrite w => Sys2Proof.Machine.execMbxToWrite w s
  | .frameReceived m wire cor unc => Sys2Proof.Machine.execFrameReceived m wire cor unc s
  | .macsecRxVerify p port c => Sys2Proof.Machine.execMacsecRxVerify p port c s
  | .ingressHeadAccept p port e => Sys2Proof.Machine.execIngressHeadAccept p port e s
  | .missResultsReturn p k bad e => Sys2Proof.Machine.execMissResultsReturn p k bad e s
  | .decryptReturn p c => Sys2Proof.Machine.execDecryptReturn p c s
  | .egressPass p q e c => Sys2Proof.Machine.execEgressPass p q e c s
  | .ruleWrite p q => Sys2Proof.Machine.execRuleWrite p q s
  | .ruleRead p q => Sys2Proof.Machine.execRuleRead p q s
  | .ruleInvalidate p q => Sys2Proof.Machine.execRuleInvalidate p q s
  | .tblCmdqDb p => Sys2Proof.Machine.execTblCmdqDb p s
  | .tblRead p r => Sys2Proof.Machine.execTblRead p r s
  | .tblWrite p => Sys2Proof.Machine.execTblWrite p s
  | .tblInsert p => Sys2Proof.Machine.execTblInsert p s
  | .tblDelete p => Sys2Proof.Machine.execTblDelete p s
  | .tblLookup p r => Sys2Proof.Machine.execTblLookup p r s
  | .tblLock p => Sys2Proof.Machine.execTblLock p s
  | .tblUnlock p => Sys2Proof.Machine.execTblUnlock p s
  | .routeAdd p => Sys2Proof.Machine.execRouteAdd p s
  | .routeDel p => Sys2Proof.Machine.execRouteDel p s
  | .cmdqEnable p => Sys2Proof.Machine.execCmdqEnable p s
  | .evqArm p => Sys2Proof.Machine.execEvqArm p s
  | .tblEvqCiWrite p c => Sys2Proof.Machine.execTblEvqCiWrite p c s
  | .invAll p q => Sys2Proof.Machine.execInvAll p q s
  | .sweepVisit p t idx => Sys2Proof.Machine.execSweepVisit p t idx s
  | .bufferWaitGrant pool => Sys2Proof.Machine.execBufferWaitGrant pool s
  | .cacheRefill pier pool ecc => Sys2Proof.Machine.execCacheRefill pier pool ecc s
  | .readRec q => Sys2Proof.Machine.execReadRec q s
  | .bpmFree q => Sys2Proof.Machine.execBpmFree q s
  | .bpmDrop q => Sys2Proof.Machine.execBpmDrop q s
  | .bpmGive q => Sys2Proof.Machine.execBpmGive q s
  | .tmsDecision p e => Sys2Proof.Machine.execTmsDecision p e s
  | .macEnable m => Sys2Proof.Machine.execMacEnable m s
  | .macDisable m => Sys2Proof.Machine.execMacDisable m s
  | .macLinkUp m => Sys2Proof.Machine.execMacLinkUp m s
  | .linkDown m => Sys2Proof.Machine.execLinkDown m s
  | .remoteFault m => Sys2Proof.Machine.execRemoteFault m s
  | .remoteFaultClear m => Sys2Proof.Machine.execRemoteFaultClear m s
  | .portRestart p q => Sys2Proof.Machine.execPortRestart p q s
  | .macTxStart m c e => Sys2Proof.Machine.execMacTxStart m c e s
  | .pauseTimerExpire m which => Sys2Proof.Machine.execPauseTimerExpire m which s
  | .xoffRefresh m => Sys2Proof.Machine.execXoffRefresh m s
  | .macStatSnap m => Sys2Proof.Machine.execMacStatSnap m s
  | .standbyFrameRx wire => Sys2Proof.Machine.execStandbyFrameRx wire s
  | .stepTime servo q => Sys2Proof.Machine.execStep servo q s
  | .setTime servo q => Sys2Proof.Machine.execSet servo q s
  | .slew servo q => Sys2Proof.Machine.execSlew servo q s
  | .slewAbort servo q => Sys2Proof.Machine.execSlewAbort servo q s
  | .timServoUpd servo offset req => Sys2Proof.Machine.execTimServoUpd servo offset req s
  | .tpNowRead f a => Sys2Proof.Machine.execTpNowRead f a s
  | .captureEdge n rising => Sys2Proof.Machine.execCaptureEdge n rising s
  | .capPop n => Sys2Proof.Machine.execCapPop n s
  | .gnssLine b stop => Sys2Proof.Machine.execGnssLine b stop s
  | .gnssTxWrite b => Sys2Proof.Machine.execGnssTxWrite b s
  | .ppsOutEdge rise => Sys2Proof.Machine.execPpsOutEdge rise s
  | .toutEdge k rise => Sys2Proof.Machine.execToutEdge k rise s
  | .toutCtlWrite k v => Sys2Proof.Machine.execToutCtlWrite k v s
  | .launchEligible m p c => Sys2Proof.Machine.execLaunchEligible m p c s
  | .ptmDialog h => Sys2Proof.Machine.execPtmDialog h s
  | .ptmDialogDone h r => Sys2Proof.Machine.execPtmDialogDone h r s
  | .timePageUpdate h => Sys2Proof.Machine.execTimePageUpdate h s
  | .saInstall q => Sys2Proof.Machine.execSaInstall q s
  | .saDelete q => Sys2Proof.Machine.execSaDelete q s
  | .saRead q => Sys2Proof.Machine.execSaRead q s
  | .setSoft q => Sys2Proof.Machine.execSetSoft q s
  | .zeroizeAll q => Sys2Proof.Machine.execZeroizeAll q s
  | .aesResult n k c => Sys2Proof.Machine.execAesResult n k c s
  | .threadWake n => Sys2Proof.Machine.execThreadWake n s
  | .timer n => Sys2Proof.Machine.execTimer n s
  | .allocGrant n => Sys2Proof.Machine.execAllocGrant n s
  | .railGrant p k => Sys2Proof.Machine.execRailGrant p k s
  | .rldLoadReturn n k e => Sys2Proof.Machine.execRldLoadReturn n k e s
  | .tblResultReturn n k r => Sys2Proof.Machine.execTblResultReturn n k r s
  | .bufResultReturn n k => Sys2Proof.Machine.execBufResultReturn n k s
  | .keyldResult n k => Sys2Proof.Machine.execKeyldResult n k s
  | .dmaPlaceResult n k => Sys2Proof.Machine.execDmaPlaceResult n k s
  | .trussStall t => Sys2Proof.Machine.execTrussStall t s
  | .abortThread t l q => Sys2Proof.Machine.execAbortThread t l q s
  | .abortThreadDone t => Sys2Proof.Machine.execAbortThreadDone t s
  | .restartTruss t q => Sys2Proof.Machine.execRestartTruss t q s
  | .bayHandover p new expect q => Sys2Proof.Machine.execBayHandover p new expect q s
  | .handoverDone p b => Sys2Proof.Machine.execHandoverDone p b s
  | .bayPwrRequest p mode q => Sys2Proof.Machine.execBayPwrRequest p mode q s
  | .bayPwrDone p b => Sys2Proof.Machine.execBayPwrDone p b s
  | .spmMgmtRead p e => Sys2Proof.Machine.execSpmMgmtRead p e s
  | .spmMgmtWrite p w => Sys2Proof.Machine.execSpmMgmtWrite p w s
  | .dmaChEnable p => Sys2Proof.Machine.execDmaChEnable p s
  | .dmaChDisable p => Sys2Proof.Machine.execDmaChDisable p s
  | .dmaChDb p => Sys2Proof.Machine.execDmaChDb p s
  | .dmaBurstIssue p e => Sys2Proof.Machine.execDmaBurstIssue p e s
  | .dmaDescRelease p ch => Sys2Proof.Machine.execDmaDescRelease p ch s
  | .faultEvent es => Sys2Proof.Machine.execFaultEvent es s
  | .enter q => Sys2Proof.Machine.execEnter q s
  | .leave q => Sys2Proof.Machine.execLeave q s
  | .scrub q bad => Sys2Proof.Machine.execScrub q bad s
  | .selfFault r => Sys2Proof.Machine.execSelf r s
  | .provision q => Sys2Proof.Machine.execProvision q s
  | .fuseKey q => Sys2Proof.Machine.execFuseKey q s
  | .revokeKey q => Sys2Proof.Machine.execRevokeKey q s
  | .deploy q => Sys2Proof.Machine.execDeploy q s
  | .raiseSvn q => Sys2Proof.Machine.execRaiseSvn q s
  | .raiseThSvn q => Sys2Proof.Machine.execRaiseThSvn q s
  | .toAnalysis q => Sys2Proof.Machine.execToAnalysis q s
  | .secCmdDone bad => Sys2Proof.Machine.execSecCmdDone bad s
  | .bootImageActive x => Sys2Proof.Machine.execBootImageActive x s
  | .dbgTokenWrite w => Sys2Proof.Machine.execDbgTokenWrite w s
  | .openSession level q => Sys2Proof.Machine.execOpen level q s
  | .closeSession q => Sys2Proof.Machine.execClose q s
  | .halt q => Sys2Proof.Machine.execHalt q s
  | .resumeThread q => Sys2Proof.Machine.execResumeThread q s
  | .stepThread q regs store word => Sys2Proof.Machine.execStepThread q regs store word s
  | .abort q => Sys2Proof.Machine.execAbort q s
  | .dbgRegWrite w => Sys2Proof.Machine.execDbgRegWrite w s
  | .dbgSpmRead e => Sys2Proof.Machine.execDbgSpmRead e s
  | .jtagScan ir tdi => Sys2Proof.Machine.execJtagScan ir tdi s
  | .gate domain q => Sys2Proof.Machine.execGate domain q s
  | .ungate domain q => Sys2Proof.Machine.execUngate domain q s
  | .gatingDone domain => Sys2Proof.Machine.execGatingDone domain s
  | .domainWake domain => Sys2Proof.Machine.execDomainWake domain s
  | .powerupDone domain => Sys2Proof.Machine.execPowerupDone domain s
  | .standby q => Sys2Proof.Machine.execStandby q s
  | .standbyWake mctp n => Sys2Proof.Machine.execStandbyWake mctp n s
  | .pldmUpdate component begin_ => Sys2Proof.Machine.execPldmUpdate component begin_ s
  | .porstNRelease straps => Sys2Proof.Machine.execPorstNRelease straps s
  | .pllLock late phase => Sys2Proof.Machine.execPllLock late phase s
  | .supplySample mv => Sys2Proof.Machine.execSupplySample mv s
  | .tempSample ts => Sys2Proof.Machine.execTempSample ts s
  | .agingMeasure n v => Sys2Proof.Machine.execAgingMeasure n v s
  | .standbyLinkChange up => Sys2Proof.Machine.execStandbyLinkChange up s
  | .linkRecovery h err => Sys2Proof.Machine.execLinkRecovery h err s
  | .synceClkFallingEdge j => Sys2Proof.Machine.execSynceClkFallingEdge j s
  | .restartTrussDone t => Sys2Proof.Machine.execRestartTrussDone t s
  | .refclkLoss => Sys2Proof.Machine.execRefclkLoss s
  | .refclkReturn => Sys2Proof.Machine.execRefclkReturn s
  | .ethRefclkLoss => Sys2Proof.Machine.execEthRefclkLoss s
  | .ethRefclkReturn => Sys2Proof.Machine.execEthRefclkReturn s
  | .refillTick => Sys2Proof.Machine.execRefillTick s
  | .checkComplete => Sys2Proof.Machine.execCheckComplete s
  | .drainComplete => Sys2Proof.Machine.execDrainComplete s
  | .drainTimeout => Sys2Proof.Machine.execDrainTimeout s
  | .swapFault y => Sys2Proof.Machine.execSwapFault y s
  | .mfFlr => Sys2Proof.Machine.execMfFlr s
  | .sweepBuffersDone => Sys2Proof.Machine.execSweepBuffersDone s
  | .winCommit => Sys2Proof.Machine.execWinCommit s
  | .invalidationDone => Sys2Proof.Machine.execInvalidationDone s
  | .mbxFromRead => Sys2Proof.Machine.execMbxFromRead s
  | .watchdog => Sys2Proof.Machine.execWatchdog s
  | .leapDone => Sys2Proof.Machine.execLeapDone s
  | .counterFault => Sys2Proof.Machine.execCounterFault s
  | .timNowRead => Sys2Proof.Machine.execTimNowRead s
  | .ref10mMark => Sys2Proof.Machine.execRef10mMark s
  | .ref10mLoss => Sys2Proof.Machine.execRef10mLoss s
  | .gnssRxRead => Sys2Proof.Machine.execGnssRxRead s
  | .faultPulseEnd => Sys2Proof.Machine.execFaultPulseEnd s
  | .dbgNonceRead => Sys2Proof.Machine.execDbgNonceRead s
  | .nonceExpire => Sys2Proof.Machine.execNonceExpire s
  | .sessionExpire => Sys2Proof.Machine.execSessionExpire s
  | .dbgRegRead => Sys2Proof.Machine.execDbgRegRead s
  | .porstNAssert => Sys2Proof.Machine.execPorstNAssert s
  | .tjEqUpdate => Sys2Proof.Machine.execTjEqUpdate s
  | .timeClkTick => Sys2Proof.Machine.execTimeClkTick s
  | .ref10mReturn => Sys2Proof.Machine.execRef10mReturn s
  | .gnssTxByteSent => Sys2Proof.Machine.execGnssTxByteSent s
  | .supplyRemoved => Sys2Proof.Machine.execSupplyRemoved s

end Sys2Proof.Machine
end

