-- ==== Sys2Proof/WellFormed.lean ====
section
/-!
DEFINITION. Well-formed commands: operands that the outside can bring. The types of the operands bound most of them; these are the
checks that a type does not make.
-/

namespace Sys2Proof

/-- The bits that an engine instruction carries as unused lie outside the fields it uses (R411, R412). -/
def Instr.unusedOk (i : Instr) : Bool :=
  match encodeEng i with
  | some e => e.slot.unused &&& e.uses == 0
  | none => true

/-- One check for each command whose operands need one. -/
def Instr.operandsOk : Instr → Bool
  | .msixUnmask f v => f == .mf || decide (v.val < 64)
  | .registerWrite (.msixTable f v _) _ => f == .mf || decide (v.val < 64)
  | .registerWrite (.mbxPage _ off _) _ => off.toNat % 8 == 0
  | .configRequest _ _ k _ => decide (k.val < 4104)
  | .completionReceived _ _ _ data => decide (data.length ≤ 4096)
  | .linkUp _ speed width _ => decide (1 ≤ speed.val) && [1, 2, 4, 8, 16].contains width.val
  | .bar2Tlp _ _ (.read len) _ => decide (1 ≤ len.val)
  | .bar2Tlp _ _ (.write data _) _ => decide (1 ≤ data.length ∧ data.length ≤ 4096)
  | .entryFetchIssue _ n => decide (1 ≤ n.val)
  | .entryFetchReturn _ cells _ => decide (cells.length ≤ 256)
  | .tempSample ts => ts.length == 28
  | .supplySample mv => mv.length == 8
  | .jtagScan _ tdi => !tdi.isEmpty
  | _ => true

/-- Well-formed. -/
def Instr.wf (i : Instr) : Bool := i.unusedOk && i.operandsOk

end Sys2Proof
end

