-- ==== Sys2Proof/Safety.lean ====
section
/-!
DEFINITION. What claims about runs use: that a run goes on, that the addressed memories keep their canonical form, and how much of the
state a command may touch.
-/

namespace Sys2Proof.Machine

/-- The block goes on: a step answers a next state. -/
def State.Runs (s : State) : Prop := ∃ t, step s = .next t

/-- Every register but the listed instances reads as before, and everything beside the register file is the same. -/
def State.OnlyRegs (s t : State) (l : List (Reg × Nat)) : Prop :=
  t = { s with regs := t.regs } ∧ ∀ r i, (r, i) ∉ l → t.reg r i = s.reg r i

/-- Every register but the listed instances reads as before. -/
def State.RegsBut (s t : State) (l : List (Reg × Nat)) : Prop := ∀ r i, (r, i) ∉ l → t.reg r i = s.reg r i

/-- The bytes of the addressed memories, RLD and scratchpad, and their poison marks, read as before. -/
def State.SameMemory (s t : State) : Prop :=
  t.rld = s.rld ∧ t.rldPoison = s.rldPoison ∧ t.spm = s.spm ∧ t.spmPoison = s.spmPoison

/-- Nothing differs but registers, and what an MSI-X vector changes: PBA bits, waiting messages, and what leaves the device (R77). -/
def State.OnlySignals (s t : State) : Prop :=
  t = { s with regs := t.regs, msix := t.msix, msixWait := t.msixWait, out := t.out }

/-- A command's LAST_RESULT and LAST_SEQ (R534). -/
def State.Ended (t : State) (result seq : Fld) (i code : Nat) (q : Seq) : Prop := t.fld result i = code ∧ t.fld seq i = q.toNat

/-- The event of a bit of an EVT register has been recorded (R533). -/
def State.Event (t : State) (evt : Reg) (i b : Nat) : Prop := bitOf (t.reg evt i) b = true

/-- The thread of a slot issues an instruction that reads `reads`: it is RUNNING, the slot is no bubble (R379, R380), its PC lies in
the loaded code, no register or store error is in the way, the word's unused fields are 0, and the Truss is ON (R493). -/
def State.Issues (s : State) (x : Slot) (reads : List RegNo) (ret : Bool) : Prop :=
  (s.thr x.thr.val).state = .running ∧ (s.thr x.thr.val).aborting = false ∧ s.bubble x.thr.val reads ret = false ∧
    (s.thr x.thr.val).pc.toNat < s.codeSize x.thr.val ∧ x.store = .ok ∧ x.regs = .ok ∧ x.unused = 0 ∧
    s.domOn (16 + x.thr.val / 64) = true

/-- What every issued instruction does beside its own effect: the Truss's issue count goes up and the PC to the next word. -/
def State.ran (s : State) (x : Slot) : State :=
  (s.bump F.TRS_ISSUE_CNT_COUNT (x.thr.val / 64)).setPc x.thr.val ((s.thr x.thr.val).pc + 4)

/-- Nothing differs but the record of thread `n`, and whether its Truss's stall has been reported (R400). -/
def State.OnlyThread (s t : State) (n : Nat) : Prop :=
  t = { s with threads := t.threads, stallDone := t.stallDone } ∧ ∀ m, m ≠ n → t.thr m = s.thr m

/-- Nothing differs but general register `rd` of thread `n`, which holds `w`; g0 takes no write (R408). -/
def State.Wrote (s : State) (n : Nat) (rd : RegNo) (w : Word) (t : State) : Prop :=
  s.OnlyThread t n ∧ t.thr n = { s.thr n with regs := (t.thr n).regs } ∧
    ∀ r : RegNo, t.g n r = if r = rd ∧ rd ≠ 0 then w else s.g n r

/-- The instruction issues, completes, and writes `w` to `rd` and nothing else. -/
def State.Computes (s : State) (x : Slot) (reads : List RegNo) (c : Instr) (rd : RegNo) (w : Word) : Prop :=
  s.Issues x reads false → ∃ t, exec c s = .next t ∧ (s.ran x).Wrote x.thr.val rd w t

/-- The instruction issues and raises `e`: it leaves what the issue and the exception's record change. -/
def State.Raises (s : State) (x : Slot) (reads : List RegNo) (ret : Bool) (c : Instr) (e : Exc) : Prop :=
  s.Issues x reads ret → exec c s = .next ((s.ran x).excAt x.thr.val e (s.thr x.thr.val).pc)

/-- The instruction issues and starts the returning operation `op`, which joins the thread's outstanding ones as the last. -/
def State.Starts (s : State) (x : Slot) (reads : List RegNo) (c : Instr) (op : RetOp) : Prop :=
  s.Issues x reads true → ∃ t, exec c s = .next t ∧ (s.ran x).OnlyThread t x.thr.val ∧
    t.thr x.thr.val = { s.thr x.thr.val with
      pc := (s.thr x.thr.val).pc + 4
      ops := (s.thr x.thr.val).ops ++ [{ op := op, pc := (s.thr x.thr.val).pc, live := true }] }

/-- Thread `n` may access `size` bytes at scratchpad address `a`: aligned, below the end, through a view that exists, in a Bay that is
ON, settled and the Truss's own (R415, R427, R434). -/
def State.SpmOpen (s : State) (n : Nat) (a : Word) (size : Nat) : Prop :=
  a.toNat % size = 0 ∧ a.toNat < 0x3000000 ∧
    let b := s.bay (n / 192) (State.bayOf (a.toNat % 0x1000000))
    b.pwr = 0 ∧ b.transit = none ∧ b.handover = none ∧ b.owner = State.ownerTruss (n / 64)

/-- No word that `size` bytes at address `a` touch in thread `n`'s scratchpad is poisoned. -/
def State.SpmClean (s : State) (n : Nat) (a : Word) (size : Nat) : Prop := s.spmBadIn (n / 192) (a.toNat % 0x1000000) size = false

/-- A posted write to a ring of queue `q` goes out at once: its function `f` may issue requests on a link that is Up and whose IDE stream is
not Insecure, its Span is Enabled with translation PASS and no dirty-page log, and the device is not in the safe state. -/
def State.RingOpen (s : State) (q : Nat) (f : Fn) : Prop :=
  let n := (s.queue q).span
  s.spanFn n = some f ∧ s.isSafe = false ∧ s.muted f (some n) = false ∧ (s.span n).state = .enabled ∧
    s.fld F.STU_CTX_XLATE_MODE n = 3 ∧ s.linkUp (s.fnLink f) = true ∧ s.flag F.STU_LOG_CTL_EN n = false ∧
    s.ideDrops f = false

/-- Little-endian bytes as a loaded register: sign-extended where SX is 1, else zero-extended (R411). -/
def loadValue (sx : Bool) (bs : List Byte) : Word :=
  let v := BitVec.ofNat (8 * bs.length) (fromBytesLE bs)
  if sx then v.signExtend 64 else v.setWidth 64

end Sys2Proof.Machine
end

