-- ==== Sys2Proof/Certificates/Slice0/Obligations.lean ====
section
/-!
DEFINITION. The statements for the provers: what each family of commands does, to every kind of state that the spec names.
-/

open Sys2Proof Sys2Proof.Machine

/-! ### The block, its reset and its words -/

/-- A step takes the command at the front of the queue and is that command's effect on the state with the queue's rest. On an empty queue the block
idles, which is the model's choice (log entry 1). -/
def Obligations.StepTakesFront : Prop :=
  ∀ (s : State) (c : Instr) (rest : List Instr),
    step { s with pending := c :: rest } = exec c { s with pending := rest } ∧ (s.pending = [] → step s = .next s)

/-- R4, R333 and the register tables: after reset every register of the tables reads its Reset column, of which the fields with a value other than 0
are named for the time unit; and the blocks' objects are as their rules have them at reset: Spans and queues Disabled, threads FREE, channels
DISABLED, MACs ABSENT, SAs EMPTY, Bays ON and owned by the Management Function, image slots empty, no session, RUN. The values themselves are named by log entry 6
where the spec gives none. -/
def Obligations.ResetState : Prop :=
  (∀ r i, State.reset.reg r i = r.resetWord) ∧ State.reset.fld F.TIM_INCR_INCR 0 = 0x140000000 ∧
  State.reset.fld F.TIM_BOUND_BOUND_DEV_PS 0 = 0xFFFFFFFF ∧ State.reset.fld F.TIM_LIMITS_WATCHDOG_MS 0 = 1000 ∧
  State.reset.fld F.TIM_LIMITS_BOUND_LIMIT_NS 0 = 1000 ∧ State.reset.fld F.TIM_TP_CTL_INTERVAL_US 0 = 1000 ∧
  State.reset.fld F.TIM_GNSS_CTL_BAUD 0 = 115200 ∧ State.reset.fld F.TIM_PTM_CTL_INTERVAL_MS 0 = 10 ∧ State.reset.time = 0 ∧
  State.reset.timState = 0 ∧ State.reset.isSafe = false ∧ State.reset.dbgLevel = 0 ∧ State.reset.lifecycle = 0 ∧
  State.reset.cfgState = 0 ∧ State.reset.slots = {} ∧ State.reset.pending = [] ∧
  (∀ n, (State.reset.span n).state = .disabled ∧ (State.reset.queue n).state = .disabled ∧ (State.reset.thr n).state = .free ∧
    State.reset.macState n = 0 ∧ State.reset.sa n = {} ∧ ∀ m, (State.reset.dmaC n m).state = 0 ∧ (State.reset.bay n m).owner = 0x6000)

/-- After reset the addressed memories, RLD and scratchpad, are in their canonical form: nothing is listed. It rests on the model's choices or
readings of log entry 6, which no rule states. -/
def Obligations.ResetMemoryCanonical : Prop :=
  Memory.wf State.reset = true ∧ State.reset.rld = [] ∧ State.reset.spm = []

/-- A step that takes an engine instruction keeps the canonical form of the addressed memories, whatever the state: RLD and scratchpad bytes and
their poison marks stay in rising order of address, and nothing that equals what an unlisted address reads as is listed. It rests on the model's
choices or readings of log entry 6, which no rule states. -/
def Obligations.EngineStepKeepsMemoryCanonical : Prop :=
  ∀ (s t : State) (c : Instr) (rest : List Instr),
    s.pending = c :: rest → (encodeEng c).isSome = true → Memory.wf s = true → step s = .next t → Memory.wf t = true

/-- R411–R414: the word of every well-formed engine instruction, with the bits of the fields it does not use as its slot carries them, decodes to the
instruction, with every operand at every value that the encoding admits. -/
def Obligations.EngineDecodeOfEncode : Prop :=
  ∀ (i : Instr) (e : EngWord), encodeEng i = some e → i.wf = true →
    decodeEng e.slot e.sel (e.word ||| e.slot.unused.setWidth 32) = some i

/-! ### Engine instructions -/

/-- R379, R380, R412: an issued instruction adds one to its Truss's issue count, moves the thread's PC to the next word and changes nothing else of
its own. In four kinds of slot no instruction takes effect: a thread that is not RUNNING leaves the state as it is; a slot whose registers still
wait for an operation, or that would start a ninth one, is a bubble, counted; a PC outside the code raises PC_RANGE, and a field that is not used
and not 0 ILLEGAL, both at the instruction's own address. ADD, POPC and LDR are the instructions named. It rests on the model's choices or
readings of log entries 8 and 9, which no rule states. -/
def Obligations.IssueOfInstructions : Prop :=
  (∀ (s : State) (x : Slot),
    let n := x.thr.val
    let t := s.ran x
    t = { s with regs := t.regs, threads := t.threads, stallDone := t.stallDone } ∧ s.RegsBut t [(.TRS_ISSUE_CNT, n / 64)] ∧
    t.reg .TRS_ISSUE_CNT (n / 64) = (if s.reg .TRS_ISSUE_CNT (n / 64) = BitVec.allOnes 64 then BitVec.allOnes 64
      else s.reg .TRS_ISSUE_CNT (n / 64) + 1) ∧
    t.thr n = { s.thr n with pc := (s.thr n).pc + 4 } ∧ ∀ m, m ≠ n → t.thr m = s.thr m) ∧
  ∀ (s : State) (x : Slot) (rd rs rt : RegNo) (sz : BitVec 2) (off : BitVec 13),
    let n := x.thr.val
    let y := s.thr n
    let counted := s.bump F.TRS_ISSUE_CNT_COUNT (n / 64)
    ((y.state ≠ .running ∨ y.aborting = true) → s.heldStep = none → exec (.add x rd rs rt) s = .next s ∧ exec (.ldr x rd rs false sz off) s = .next s) ∧
    (y.state = .running → y.aborting = false →
      ((∃ o ∈ y.ops, o.live = true ∧ ∃ r ∈ State.destsOf o.op, r ≠ 0 ∧ (r = rs ∨ r = rt)) →
        exec (.add x rd rs rt) s = .next (s.bump F.TRS_BUBBLE_CNT_COUNT (n / 64))) ∧
      (8 ≤ (y.ops.filter fun o => o.live).length →
        exec (.ldr x rd rs false sz off) s = .next (s.bump F.TRS_BUBBLE_CNT_COUNT (n / 64))) ∧
      (s.bubble n [rs, rt] false = false → s.codeSize n ≤ y.pc.toNat →
        exec (.add x rd rs rt) s = .next (counted.excAt n .pcRange y.pc)) ∧
      (s.bubble n [rs] false = false → y.pc.toNat < s.codeSize n → x.store = .ok → x.regs = .ok → Instr.wf (.popc x rd rs) = true →
        x.unused ≠ 0 → exec (.popc x rd rs) s = .next (counted.excAt n .illegal y.pc)))

/-- R413: ADD, SUB, AND, OR, XOR, the shifts by rt[5:0], MUL and MULHU (the low and the high 64 bits of the unsigned product), SLT and
SLTU, signed MIN and MAX, POPC, CLZ and CTZ (64 for 0), and BSWAP write their result to rd and nothing else. A word with OP 0 and an FN from
18 on is no instruction. -/
def Obligations.ArithmeticResults : Prop :=
  ∀ (s : State) (x : Slot) (rd rs rt : RegNo),
    let a := s.g x.thr.val rs
    let b := s.g x.thr.val rt
    s.Computes x [rs, rt] (.add x rd rs rt) rd (a + b) ∧ s.Computes x [rs, rt] (.sub x rd rs rt) rd (a - b) ∧
    s.Computes x [rs, rt] (.and_ x rd rs rt) rd (a &&& b) ∧ s.Computes x [rs, rt] (.or_ x rd rs rt) rd (a ||| b) ∧
    s.Computes x [rs, rt] (.xor x rd rs rt) rd (a ^^^ b) ∧
    s.Computes x [rs, rt] (.sll x rd rs rt) rd (a <<< (b.setWidth 6).toNat) ∧
    s.Computes x [rs, rt] (.srl x rd rs rt) rd (a >>> (b.setWidth 6).toNat) ∧
    s.Computes x [rs, rt] (.sra x rd rs rt) rd (a.sshiftRight (b.setWidth 6).toNat) ∧
    s.Computes x [rs, rt] (.mul x rd rs rt) rd (BitVec.ofNat 64 (a.toNat * b.toNat)) ∧
    s.Computes x [rs, rt] (.mulhu x rd rs rt) rd ((a.setWidth 128 * b.setWidth 128).extractLsb' 64 64) ∧
    s.Computes x [rs, rt] (.slt x rd rs rt) rd (if a.toInt < b.toInt then 1 else 0) ∧
    s.Computes x [rs, rt] (.sltu x rd rs rt) rd (if a < b then 1 else 0) ∧
    s.Computes x [rs, rt] (.min x rd rs rt) rd (BitVec.ofInt 64 (Min.min a.toInt b.toInt)) ∧
    s.Computes x [rs, rt] (.max x rd rs rt) rd (BitVec.ofInt 64 (Max.max a.toInt b.toInt)) ∧
    (∃ v : Word, v.toNat = (Finset.univ.filter fun i : Fin 64 => a.getLsbD i.val = true).card ∧ s.Computes x [rs] (.popc x rd rs) rd v) ∧
    (∃ v : Word, v.toNat ≤ 64 ∧ (∀ i, i < v.toNat → a.getLsbD (63 - i) = false) ∧ (v.toNat < 64 → a.getLsbD (63 - v.toNat) = true) ∧
      s.Computes x [rs] (.clz x rd rs) rd v) ∧
    (∃ v : Word, v.toNat ≤ 64 ∧ (∀ i, i < v.toNat → a.getLsbD i = false) ∧ (v.toNat < 64 → a.getLsbD v.toNat = true) ∧
      s.Computes x [rs] (.ctz x rd rs) rd v) ∧
    (∃ v : Word, (∀ i, i < 8 → v.extractLsb' (8 * i) 8 = a.extractLsb' (56 - 8 * i) 8) ∧ s.Computes x [rs] (.bswap x rd rs) rd v) ∧
    ∀ (w : BitVec 32) (sel : BitVec 2), w.extractLsb' 26 6 = 0 → 18 ≤ (w.extractLsb' 0 11).toNat → decodeEng x sel w = none

/-- R409, R414: the immediate forms; LIH replaces one quarter of rd; SHI by its kind; CRC without complements; MFS of each special
register, and of any other number ILLEGAL; TIME writes Wide time to rd and FRAC to TFRAC. -/
def Obligations.ImmediateAndSpecialResults : Prop :=
  ∀ (s : State) (x : Slot) (rd rs rt : RegNo) (imm : BitVec 16) (c : BitVec 6) (k fn : BitVec 2) (j : Byte),
    let n := x.thr.val
    let y := s.thr n
    let a := s.g n rs
    let live := (y.ops.filter fun o => o.live).length
    let reached : Bool := y.pend.getLsbD 0 || (y.armed && decide (y.cmp ≤ s.cycle))
    let sp : List Word := [BitVec.ofNat 64 n, BitVec.ofNat 64 (n % 64), BitVec.ofNat 64 y.parent, s.cycle, y.cmp,
      (if y.armed then 1 else 0) + (if reached then 2 else 0), y.tfrac.setWidth 64, BitVec.ofNat 64 s.dbase, BitVec.ofNat 64 s.dsize,
      BitVec.ofNat 64 live]
    s.Computes x [rs] (.addi x rd rs imm) rd (a + imm.signExtend 64) ∧ s.Computes x [rs] (.andi x rd rs imm) rd (a &&& imm.setWidth 64) ∧
    s.Computes x [rs] (.ori x rd rs imm) rd (a ||| imm.setWidth 64) ∧ s.Computes x [rs] (.xori x rd rs imm) rd (a ^^^ imm.setWidth 64) ∧
    s.Computes x [rs] (.slti x rd rs imm) rd (if a.toInt < imm.toInt then 1 else 0) ∧
    s.Computes x [rd] (.lih x rd k imm) rd (merge (0xFFFF <<< (16 * k.toNat)) (s.g n rd) (imm.setWidth 64 <<< (16 * k.toNat))) ∧
    s.Computes x [rs] (.shiSll x rd rs c) rd (a <<< c.toNat) ∧ s.Computes x [rs] (.shiSrl x rd rs c) rd (a >>> c.toNat) ∧
    s.Computes x [rs] (.shiSra x rd rs c) rd (a.sshiftRight c.toNat) ∧ s.Computes x [rs] (.shiRotate x rd rs c) rd (a.rotateRight c.toNat) ∧
    s.Computes x [rs, rt] (.crc x rd rs rt fn) rd
      (((toBytesLE (2 ^ fn.toNat) (s.g n rt).toNat).foldl crcByte (a.setWidth 32)).setWidth 64) ∧
    (∀ h : j.toNat < sp.length, s.Computes x [] (.mfs x rd j) rd sp[j.toNat]) ∧
    (sp.length ≤ j.toNat → s.Raises x [] false (.mfs x rd j) .illegal) ∧
    (s.Issues x [] false → ∃ t, exec (.time x rd) s = .next t ∧ (s.ran x).OnlyThread t n ∧ (t.thr n).tfrac = (s.time >>> 16).setWidth 16 ∧
      t.thr n = { y with pc := y.pc + 4, regs := (t.thr n).regs, tfrac := (t.thr n).tfrac } ∧
      ∀ r : RegNo, t.g n r = if r = rd ∧ rd ≠ 0 then (s.time >>> 32).setWidth 64 else s.g n r)

/-- R414: a branch that is not taken goes to the next word; one that is taken, JAL and JALR go to their target if it lies in the loaded
code, and raise PC_RANGE if not; JAL leaves PC + 4 in g31, JALR in rd after it has read rs, and a JALR target that is not a multiple of
4 raises ALIGN. -/
def Obligations.BranchesAndJumps : Prop :=
  ∀ (s : State) (x : Slot) (rd rs rt : RegNo) (off : BitVec 16) (far : BitVec 26),
    let n := x.thr.val
    let pc := (s.thr n).pc
    let a := s.g n rs
    let b := s.g n rt
    let inCode (v : Int) : Prop := 0 ≤ v ∧ v < s.codeSize n
    let near : Int := pc.toNat + 4 * off.toInt
    let long : Int := pc.toNat + 4 * far.toInt
    let reg := a + off.signExtend 64
    let went (v : Int) (t : State) : Prop := t = (s.ran x).setPc n (BitVec.ofInt 32 v)
    (∀ cp ∈ ([(.beq x rs rt off, a = b), (.bne x rs rt off, a ≠ b), (.blt x rs rt off, a.toInt < b.toInt),
        (.bge x rs rt off, b.toInt ≤ a.toInt), (.bltu x rs rt off, a.toNat < b.toNat), (.bgeu x rs rt off, b.toNat ≤ a.toNat)]
        : List (Instr × Prop)),
      s.Issues x [rs, rt] false →
        (¬cp.2 → exec cp.1 s = .next (s.ran x)) ∧
        (cp.2 → inCode near → ∃ t, exec cp.1 s = .next t ∧ went near t) ∧
        (cp.2 → ¬inCode near → exec cp.1 s = .next ((s.ran x).excAt n .pcRange pc))) ∧
    (s.Issues x [] false → inCode long →
      ∃ t u, exec (.jal x far) s = .next t ∧ went long u ∧ u.Wrote n 31 (BitVec.ofNat 64 (pc.toNat + 4)) t) ∧
    (¬inCode long → s.Raises x [] false (.jal x far) .pcRange) ∧
    (s.Issues x [rs] false → reg.toNat % 4 = 0 → inCode reg.toNat →
      ∃ t u, exec (.jalr x rd rs off) s = .next t ∧ went reg.toNat u ∧ u.Wrote n rd (BitVec.ofNat 64 (pc.toNat + 4)) t) ∧
    (reg.toNat % 4 ≠ 0 → s.Raises x [rs] false (.jalr x rd rs off) .align) ∧
    (reg.toNat % 4 = 0 → ¬inCode reg.toNat → s.Raises x [rs] false (.jalr x rd rs off) .pcRange)

/-- R415, R433: LDS through any view that exists reads the plain little-endian value; STS writes its bytes through the view (plain, set
bits, clear bits) and no other byte of any scratchpad; a whole word written is no longer poisoned, and no other mark changes. -/
def Obligations.ScratchpadLoadStore : Prop :=
  ∀ (s : State) (x : Slot) (rd rb : RegNo) (sx : Bool) (sz : BitVec 2) (off : BitVec 13),
    let n := x.thr.val
    let a := s.g n rb + off.signExtend 64
    let size := 2 ^ sz.toNat
    let o := a.toNat % 0x1000000
    s.SpmOpen n a size →
      (x.word = .ok → s.SpmClean n a size →
        s.Computes x [rb] (.lds x rd rb sx sz off) rd (loadValue sx ((List.range size).map fun i => s.spmByte (n / 192) (o + i)))) ∧
      (s.Issues x [rd, rb] false → ∃ t, exec (.sts x rd rb false sz off) s = .next t ∧
        t = { s.ran x with spm := t.spm, spmPoison := t.spmPoison } ∧
        (∀ k, k < size →
          let old := s.spmByte (n / 192) (o + k)
          let new : Byte := (s.g n rd >>> (8 * k)).setWidth 8
          t.spmByte (n / 192) (o + k) =
            if a.toNat / 0x1000000 = 1 then old ||| new else if a.toNat / 0x1000000 = 2 then old &&& ~~~new else new) ∧
        (∀ p b, p < 4 → b < 0x1000000 → ¬(p = n / 192 ∧ o ≤ b ∧ b < o + size) → t.spmByte p b = s.spmByte p b) ∧
        ∀ p b, p < 4 → b < 0x1000000 →
          t.spmBad p b = if p = n / 192 ∧ b / 8 = o / 8 ∧ size = 8 then false else s.spmBad p b)

/-- R414, R415, R425, R432, R435, R443: each ATS returns the old word in rd and writes, as one step, the sum, rt, or rt where the word equals rd; no
other word of any scratchpad changes. A load that is not aligned raises ALIGN; one through view 3 or with a bit above 25 SPM_RANGE; one of
another owner's Bay BAY, after the refusal has been counted and reported; one of a poisoned word POISON, counted and reported. It rests on the
model's choices or readings of log entries 9 and 13, which no rule states. -/
def Obligations.ScratchpadAtomicsAndExceptions : Prop :=
  (∀ (s : State) (x : Slot) (rd rs rt : RegNo),
    let n := x.thr.val
    let a := s.g n rs
    let p := n / 192
    let o := a.toNat % 0x1000000
    let old := s.spmWord p o
    let does (reads : List RegNo) (c : Instr) (new : Word) : Prop :=
      s.Issues x reads false → ∃ t u : State, exec c s = .next t ∧ u = { s.ran x with spm := u.spm, spmPoison := u.spmPoison } ∧
        u.spmWord p o = new ∧ (∀ p' b, p' < 4 → b < 0x1000000 → u.spmBad p' b = s.spmBad p' b) ∧
        (∀ p' b, p' < 4 → b < 0x1000000 → ¬(p' = p ∧ b / 8 = o / 8) → u.spmWord p' b = s.spmWord p' b) ∧ u.Wrote n rd old t
    s.SpmOpen n a 8 → x.word = .ok → s.SpmClean n a 8 →
      does [rs, rt] (.atsAdd x rd rs rt) (old + s.g n rt) ∧ does [rs, rt] (.atsSwap x rd rs rt) (s.g n rt) ∧
      does [rs, rt, rd] (.atsCas x rd rs rt) (if old = s.g n rd then s.g n rt else old)) ∧
  ∀ (s : State) (x : Slot) (rd rb : RegNo) (sx : Bool) (sz : BitVec 2) (off : BitVec 13),
    let n := x.thr.val
    let p := n / 192
    let a := s.g n rb + off.signExtend 64
    let size := 2 ^ sz.toNat
    let o := a.toNat % 0x1000000
    let bay := s.bay p (o / 0x200000)
    let load := Instr.lds x rd rb sx sz off
    (a.toNat % size ≠ 0 → s.Raises x [rb] false load .align) ∧
    (a.toNat % size = 0 → 0x3000000 ≤ a.toNat → s.Raises x [rb] false load .spmRange) ∧
    (a.toNat % size = 0 → a.toNat < 0x3000000 → bay.pwr = 0 → bay.transit = none → bay.handover = none →
      bay.owner ≠ State.ownerTruss (n / 64) → s.Issues x [rb] false →
        exec load s = .next (((s.ran x).spmRefuse p o (State.ownerTruss (n / 64)) (n / 64 % 3) 1 false).excAt n .bay (s.thr n).pc)) ∧
    (s.SpmOpen n a size → ¬s.SpmClean n a size → x.word = .ok → s.Issues x [rb] false →
      exec load s = .next (((s.ran x).spmUe p o (State.ownerTruss (n / 64)) (n / 64 % 3)).excAt n .poison (s.thr n).pc))

/-- R417: LDW reads HEAD, the fields of the window and HVEC; STW writes bytes of HEAD and of INJECT_DATA, and raises WIN everywhere else; an
access that is not aligned raises ALIGN, a load past the window WIN. -/
def Obligations.PacketWindow : Prop :=
  ∀ (s : State) (x : Slot) (rd rb : RegNo) (sx : Bool) (sz : BitVec 2) (off : BitVec 13),
    let n := x.thr.val
    let y := s.thr n
    let o := (s.g n rb + off.signExtend 64).toNat
    let size := 2 ^ sz.toNat
    let word (w : Word) : Word := loadValue sx ((List.range size).map fun i => (w >>> (8 * (o % 8 + i))).setWidth 8)
    let load := Instr.ldw x rd rb sx sz off
    let store := Instr.stw x rd rb false sz off
    let field (at_ : Nat) (w : Word) : Prop := o % size = 0 → o / 8 = at_ / 8 → s.Computes x [rb] load rd (word w)
    (o % size = 0 → o < 0x200 →
      s.Computes x [rb] load rd (loadValue sx ((List.range size).map fun i => SMap.get 0 y.head (o + i)))) ∧
    (o % size = 0 → 0x300 ≤ o → o < 0x400 →
      s.Computes x [rb] load rd (loadValue sx ((List.range size).map fun i => SMap.get 0 y.hvec (o - 0x300 + i)))) ∧
    field 0x200 y.win.item ∧ field 0x208 y.win.ref ∧ field 0x210 y.win.time ∧ field 0x218 y.win.parse ∧ field 0x220 y.win.mark ∧
    field 0x280 y.win.injectData ∧ field 0x288 y.win.mbxWord ∧
    (∀ k (h : k < y.railMsg.length), k < 8 → field (0x240 + 8 * k) y.railMsg[k]) ∧
    (s.Issues x [rd, rb] false → o % size = 0 → o < 0x200 → ∃ t, exec store s = .next t ∧ (s.ran x).OnlyThread t n ∧
      t.thr n = { (s.ran x).thr n with head := (t.thr n).head } ∧
      ∀ k, SMap.get 0 (t.thr n).head k =
        if o ≤ k ∧ k < o + size then (s.g n rd >>> (8 * (k - o))).setWidth 8 else SMap.get 0 y.head k) ∧
    (s.Issues x [rd, rb] false → o % size = 0 → 0x280 ≤ o → o < 0x288 → ∃ t, exec store s = .next t ∧ (s.ran x).OnlyThread t n ∧
      t.thr n = { (s.ran x).thr n with win := { y.win with injectData := (t.thr n).win.injectData } } ∧
      (t.thr n).win.injectData = setBits y.win.injectData (8 * (o - 0x280)) (8 * size) (s.g n rd).toNat) ∧
    (o % size = 0 → 0x200 ≤ o → (o < 0x280 ∨ 0x288 ≤ o) → s.Raises x [rd, rb] false store .win) ∧
    (o % size = 0 → 0x400 ≤ o → s.Raises x [rb] false load .win) ∧
    (o % size ≠ 0 → s.Raises x [rb] false load .align ∧ s.Raises x [rd, rb] false store .align)

/-- R30, R379, R414, R416, R425: LDR, STR and ATR start a returning operation on an RLD address in the engine region, outside the hold and record
areas; they raise ALIGN where it is not aligned and RLD_RANGE outside. The return takes the operation at its place if none of the same line is
before it, and so a thread's operations on one line take effect in the order of issue. A load then writes its register, a store its bytes and an
atomic both; no other RLD byte changes, the operation leaves the list, and its stack counts the access; the line is not poisoned and without an
error here. The operation of a thread that has left for the pool writes no register. It rests on the model's choices or readings of log entry 8,
which no rule states. -/
def Obligations.RldOperations : Prop :=
  (∀ (s : State) (x : Slot) (rd rs rt : RegNo) (sx : Bool) (sz : BitVec 2) (off : BitVec 13),
    let n := x.thr.val
    let a := (s.g n rs + off.signExtend 64).toNat
    let at_ := (s.g n rs).toNat
    let size := 2 ^ sz.toNat
    let recBase := s.fld F.BPM_REGION_REC_BASE 0 * 0x1000000
    let recEnd := recBase + s.fld F.BPM_REGION_REC_SIZE 0 * 0x1000000
    let open_ (b k : Nat) : Prop := s.dbase ≤ b ∧ b + k ≤ s.dbase + s.dsize ∧
      (b + k ≤ s.holdBase ∨ s.holdBase + 0x4000000 ≤ b) ∧ (b + k ≤ recBase ∨ recEnd ≤ b)
    (a % size = 0 → open_ a size →
      s.Starts x [rs] (.ldr x rd rs sx sz off) (.load a size sx rd) ∧
      s.Starts x [rd, rs] (.str x rd rs false sz off) (.store a size (s.g n rd))) ∧
    (at_ % 8 = 0 → open_ at_ 8 →
      s.Starts x [rs, rt] (.atrAdd x rd rs rt) (.atomic 0 at_ (s.g n rt) (s.g n rd) rd) ∧
      s.Starts x [rs, rt] (.atrSwap x rd rs rt) (.atomic 1 at_ (s.g n rt) (s.g n rd) rd) ∧
      s.Starts x [rs, rt, rd] (.atrCas x rd rs rt) (.atomic 2 at_ (s.g n rt) (s.g n rd) rd)) ∧
    (a % size ≠ 0 → s.Raises x [rs] true (.ldr x rd rs sx sz off) .align ∧ s.Raises x [rd, rs] true (.str x rd rs false sz off) .align) ∧
    (a % size = 0 → ¬open_ a size →
      s.Raises x [rs] true (.ldr x rd rs sx sz off) .rldRange ∧ s.Raises x [rd, rs] true (.str x rd rs false sz off) .rldRange) ∧
    (at_ % 8 ≠ 0 → s.Raises x [rs, rt] true (.atrAdd x rd rs rt) .align ∧ s.Raises x [rs, rt] true (.atrSwap x rd rs rt) .align ∧
      s.Raises x [rs, rt, rd] true (.atrCas x rd rs rt) .align) ∧
    (at_ % 8 = 0 → ¬open_ at_ 8 → s.Raises x [rs, rt] true (.atrAdd x rd rs rt) .rldRange ∧
      s.Raises x [rs, rt] true (.atrSwap x rd rs rt) .rldRange ∧ s.Raises x [rs, rt, rd] true (.atrCas x rd rs rt) .rldRange)) ∧
  ∀ (s : State) (n : ThreadId) (k : Fin 64) (o : OutOp),
    let y := s.thr n.val
    let left (a : Nat) : State :=
      (s.setThr n.val { y with ops := y.ops.eraseIdx k.val }).bump F.RLC_ACCESS_CNT_COUNT (Config.rldStack (a / 64)).val
    let first (a : Nat) : Prop := ∀ q ∈ y.ops.take k.val, State.opLine q.op ≠ some (a / 64)
    let writes (rd : RegNo) (w : Word) (u t : State) : Prop := if o.live then u.Wrote n.val rd w t else t = u
    let stored (u : State) (a : Nat) (bs : List Byte) : Prop := u = { left a with rld := u.rld } ∧
      (∀ i (h : i < bs.length), u.rldByte (a + i) = bs[i]) ∧ ∀ b, b < a ∨ a + bs.length ≤ b → u.rldByte b = s.rldByte b
    y.dropping = false → y.ops[k.val]? = some o →
      (∀ a size sx rd, o.op = .load a size sx rd → first a → s.rldBad a = false → ∃ t, exec (.rldLoadReturn n k .ok) s = .next t ∧
        writes rd (loadValue sx ((List.range size).map fun i => s.rldByte (a + i))) (left a) t) ∧
      (∀ a size v, o.op = .store a size v → first a → ∃ t, exec (.rldLoadReturn n k .ok) s = .next t ∧
        stored t a (toBytesLE size v.toNat)) ∧
      (∀ fn a v c rd, o.op = .atomic fn a v c rd → first a → s.rldBad a = false →
        let old := loadValue false ((List.range 8).map fun i => s.rldByte (a + i))
        let new := if fn = 0 then old + v else if fn = 1 ∨ old = c then v else old
        ∃ t u : State, exec (.rldLoadReturn n k .ok) s = .next t ∧ stored u a (toBytesLE 8 new.toNat) ∧ writes rd old u t) ∧
      (∀ a, State.opLine o.op = some (a / 64) → ¬first a → exec (.rldLoadReturn n k .ok) s = .next s)

/-- R383, R384: FORK and FORKD start the lowest FREE thread of the pool at their target with the argument in g1 and every other
register 0, count it and answer its local number; with none FREE they answer NONE and are counted; a target outside the code raises PC_RANGE. -/
def Obligations.ForkStartsLowestFree : Prop :=
  ∀ (s : State) (x : Slot) (rd rs : RegNo) (imm : BitVec 16),
    let n := x.thr.val
    let target : Int := (s.thr n).pc.toNat + 4 * imm.toInt
    let inCode : Prop := 0 ≤ target ∧ target < s.codeSize n
    let isFree (l : Nat) : Prop := (s.thr (64 * (n / 64) + l)).state = .free ∧ (s.thr (64 * (n / 64) + l)).aborting = false
    let child (l : Nat) (detached : Bool) (u t : State) : Prop := (s.ran x).OnlyThread u (64 * (n / 64) + l) ∧
      (u.thr (64 * (n / 64) + l) = {
        ops := (s.thr (64 * (n / 64) + l)).ops
        state := .running
        pc := BitVec.ofInt 32 target
        parent := n % 64
        detached := detached
        joinable := !detached
        regs := if s.g n rs = 0 then [] else [(1, s.g n rs)] }) ∧
      (u.bump F.TRS_THR_CNT_FORKS (n / 64)).Wrote n rd (BitVec.ofNat 64 l) t
    let none_ (t : State) : Prop := ((s.ran x).bump F.TRS_THR_CNT_FORK_NONE (n / 64)).Wrote n rd 0xFFFFFFFFFFFFFFFF t
    (∀ l, 1 ≤ l → l < 64 → isFree l → (∀ k, 1 ≤ k → k < l → ¬isFree k) → inCode → s.Issues x [rs] false →
      (∃ t u : State, exec (.fork x rd rs imm) s = .next t ∧ child l false u t) ∧
      ∃ t u : State, exec (.forkd x rd rs imm) s = .next t ∧ child l true u t) ∧
    ((∀ k, 1 ≤ k → k < 64 → ¬isFree k) → inCode → s.Issues x [rs] false →
      (∃ t, exec (.fork x rd rs imm) s = .next t ∧ none_ t) ∧ ∃ t, exec (.forkd x rd rs imm) s = .next t ∧ none_ t) ∧
    (¬inCode → s.Raises x [rs] false (.fork x rd rs imm) .pcRange ∧ s.Raises x [rs] false (.forkd x rd rs imm) .pcRange)

/-- R385: JOIN of a DONE child answers its exit value and frees it; of a child that still lives it waits with the JOIN source; of any
thread that is no joinable child of the caller it raises JOIN. -/
def Obligations.JoinChild : Prop :=
  ∀ (s : State) (x : Slot) (rd rs : RegNo),
    let n := x.thr.val
    let l := (s.g n rs).toNat
    let m := 64 * (n / 64) + l
    let child : Prop := l < 64 ∧ (s.thr m).state ≠ .free ∧ (s.thr m).joinable = true ∧ (s.thr m).parent = n % 64
    (s.Issues x [rs] false → child → m ≠ n → (s.thr m).state = .done →
      ∃ t u : State, exec (.join x rd rs) s = .next t ∧ (s.ran x).OnlyThread u m ∧ u.thr m = { ops := (s.thr m).ops } ∧
        u.Wrote n rd (s.thr m).exitVal t) ∧
    (s.Issues x [rs] false → child → (s.thr m).state ≠ .done → ∃ t, exec (.join x rd rs) s = .next t ∧ (s.ran x).OnlyThread t n ∧
      t.thr n = { (s.ran x).thr n with state := .waiting, waitMask := 0x20, joining := some (l, rd), claims := 0 }) ∧
    (¬child → s.Raises x [rs] false (.join x rd rs) .join)

/-- R383, R414: END keeps the exit value of a thread that its parent may join, and tells a parent that waits for it; it frees any other
thread; the supervisor's END raises PRIV. A thread without Rail, waiting ALLOC or children of its own is named here. SIGNAL raises
source 6 in a thread that is not FREE, and ARG above 63. -/
def Obligations.EndAndSignal : Prop :=
  ∀ (s : State) (x : Slot) (rs : RegNo),
    let n := x.thr.val
    let p := 64 * (n / 64) + (s.thr n).parent
    let gone : List OutOp := (s.thr n).ops.map fun o => { o with live := false }
    let l := (s.g n rs).toNat
    let m := 64 * (n / 64) + l
    (n % 64 ≠ 0 → s.rails = [] → s.bpmWait = [] → (∀ k, k < 64 → ¬((s.thr (64 * (n / 64) + k)).joinable = true ∧
        (s.thr (64 * (n / 64) + k)).parent = n % 64 ∧ (s.thr (64 * (n / 64) + k)).state ≠ .free)) → s.Issues x [rs] false →
      ((s.thr n).joinable = true → p ≠ n → (s.thr p).state ≠ .free → ∃ t u : State, exec (.endThread x rs) s = .next t ∧
        (s.ran x).OnlyThread u n ∧
        u.thr n = { ops := gone, state := .done, exitVal := s.g n rs, parent := (s.thr n).parent, joinable := true } ∧
        u.OnlyThread t p ∧ t.thr p = { s.thr p with pend := (t.thr p).pend } ∧
        ((∃ r, (s.thr p).joining = some (n % 64, r)) → (t.thr p).pend = (s.thr p).pend ||| 0x20) ∧
        ((¬∃ r, (s.thr p).joining = some (n % 64, r)) → (t.thr p).pend = (s.thr p).pend)) ∧
      ((s.thr n).joinable = false → ∃ t, exec (.endThread x rs) s = .next t ∧ (s.ran x).OnlyThread t n ∧ t.thr n = { ops := gone })) ∧
    (n % 64 = 0 → s.Raises x [rs] false (.endThread x rs) .priv) ∧
    (l < 64 → (s.thr m).aborting = false → s.Issues x [rs] false → ∃ t, exec (.signal x rs) s = .next t ∧ (s.ran x).OnlyThread t m ∧
      t.thr m = { (s.ran x).thr m with pend := if (s.thr m).state = .free then (s.thr m).pend else (s.thr m).pend ||| 0x40 }) ∧
    (64 ≤ l → s.Raises x [rs] false (.signal x rs) .arg)

/-- R389, R390, R391: WAIT answers the masked sources that are pending and clears the Thread-kind ones, TIMER excepted, which stays and disarms; with
none pending the thread waits with its mask. TMR sets and arms the compare, and a new value clears TIMER. It rests on the model's choices or
readings of log entry 134, which no rule states. -/
def Obligations.WaitAndTimer : Prop :=
  ∀ (s : State) (x : Slot) (rd rs : RegNo) (mask : BitVec 11),
    let n := x.thr.val
    let m : BitVec 11 := if n % 64 = 0 then mask ||| 0x400 else mask
    let set := s.pendingSet n &&& m
    let y := (s.ran x).thr n
    (s.Issues x [] false → set = 0 → ∃ t, exec (.wait x rd mask) s = .next t ∧ (s.ran x).OnlyThread t n ∧
      t.thr n = { y with state := .waiting, waitMask := mask, waitRd := rd, claims := 0 }) ∧
    (s.Issues x [] false → set ≠ 0 → ∃ t u : State, exec (.wait x rd mask) s = .next t ∧ (s.ran x).OnlyThread u n ∧
      (u.thr n = { y with
        pend := (y.pend &&& ~~~(set &&& 0x7F0)) ||| (if set.getLsbD 0 then 1 else 0)
        armed := y.armed && !set.getLsbD 0
        claims := 0
        waitMask := 0
        joining := none }) ∧
      u.Wrote n rd (set.setWidth 64) t) ∧
    (s.Issues x [rs] false → ∃ t, exec (.tmrAbs x rs) s = .next t ∧ (s.ran x).OnlyThread t n ∧
      t.thr n = { y with cmp := s.g n rs, armed := true, pend := y.pend &&& ~~~1 }) ∧
    (s.Issues x [rs] false → ∃ t, exec (.tmrRel x rs) s = .next t ∧ (s.ran x).OnlyThread t n ∧
      t.thr n = { y with cmp := s.cycle + s.g n rs, armed := true, pend := y.pend &&& ~~~1 })

/-- R383, R389–R392, R414: THREAD_WAKE lets a WAITING thread run again: with the sources of its mask that are pending of the Thread kind, of TIMER or
FAULT, or those shared ones that this thread is woken for; with the exit value of the child that a JOIN waits for. It does nothing to a thread
that does not wait, or waits for a grant, and none of an unready source. The supervisor's THRCTL returns a FAULTED thread to the pool, or
restarts it at an address of the code with its registers kept, and answers 0; of any other thread it answers 2; any other thread's THRCTL raises
PRIV. It rests on the model's choices or readings of log entries 9 and 134, which no rule states. -/
def Obligations.ThreadWakesAndControl : Prop :=
  (∀ (s : State) (n : ThreadId),
    let y := s.thr n.val
    let m := State.effMask n.val y.waitMask
    let set := s.pendingSet n.val &&& m
    let shared := s.sharedWake n.val
    (y.state ≠ .waiting ∨ y.implicit.isSome = true ∨ y.aborting = true → exec (.threadWake n) s = .next s) ∧
    (y.state = .waiting → y.implicit = none → y.aborting = false → s.trussPwr (n.val / 64) = 0 → y.joining = none →
      ((set &&& 0x7F1) ||| shared = 0 → exec (.threadWake n) s = .next s) ∧
      ((set &&& 0x7F1) ||| shared ≠ 0 → ∃ t, exec (.threadWake n) s = .next t ∧ s.OnlyThread t n.val ∧ (t.thr n.val).state = .running ∧
        (t.thr n.val).claims = shared &&& set ∧ (t.thr n.val).waitMask = 0 ∧ (t.thr n.val).pend.getLsbD 6 = false ∧
        ∀ r : RegNo, t.g n.val r = if r = y.waitRd ∧ y.waitRd ≠ 0 then set.setWidth 64 else s.g n.val r)) ∧
    (∀ c rd, y.state = .waiting → y.implicit = none → y.aborting = false → s.trussPwr (n.val / 64) = 0 → y.joining = some (c, rd) →
      64 * (n.val / 64) + c ≠ n.val → (s.thr (64 * (n.val / 64) + c)).state = .done →
      (s.thr (64 * (n.val / 64) + c)).joinable = true → ∃ t, exec (.threadWake n) s = .next t ∧
        t.thr (64 * (n.val / 64) + c) = { ops := (s.thr (64 * (n.val / 64) + c)).ops } ∧ (t.thr n.val).state = .running ∧
        (t.thr n.val).joining = none ∧ (t.thr n.val).pend = y.pend &&& ~~~0x60 ∧
        ∀ r : RegNo, t.g n.val r = if r = rd ∧ rd ≠ 0 then (s.thr (64 * (n.val / 64) + c)).exitVal else s.g n.val r)) ∧
  ∀ (s : State) (x : Slot) (rd rs rt : RegNo),
    let n := x.thr.val
    let l := (s.g n rs).toNat
    let m := 64 * (n / 64) + l
    let a := (s.g n rt).toNat
    let faulted : Prop := l < 64 ∧ (s.thr m).state = .faulted ∧ (s.thr m).aborting = false
    let inCode : Prop := a % 4 = 0 ∧ a < s.codeSize n
    (n % 64 ≠ 0 → s.Raises x [rs] false (.thrctlFree x rd rs) .priv ∧ s.Raises x [rs, rt] false (.thrctlRestart x rd rs rt) .priv) ∧
    (n % 64 = 0 → ¬faulted → s.Computes x [rs] (.thrctlFree x rd rs) rd 2 ∧
      (inCode → s.Computes x [rs, rt] (.thrctlRestart x rd rs rt) rd 2)) ∧
    (n % 64 = 0 → ¬inCode → s.Raises x [rs, rt] false (.thrctlRestart x rd rs rt) .pcRange) ∧
    (n % 64 = 0 → faulted → inCode → s.Issues x [rs, rt] false → ∃ t u : State, exec (.thrctlRestart x rd rs rt) s = .next t ∧
      (s.ran x).OnlyThread u m ∧ u.thr m = { s.thr m with state := .running, pc := BitVec.ofNat 32 a } ∧ u.Wrote n rd 0 t) ∧
    (n % 64 = 0 → faulted → s.Issues x [rs] false → ∃ t : State, exec (.thrctlFree x rd rs) s = .next t ∧
      (t.thr m).state = .free ∧ (t.thr m).regs = [] ∧ (t.thr n).state = .running ∧ (rd ≠ 0 → t.g n rd = 0))

/-- R394, R395: RSV of a Rail that nobody holds, with a free place and nobody before, reserves it; else the writer waits in line. PUT adds a
word to the message, at most eight; RSEND commits a message that has words and releases the Rail; RRD takes the oldest message of a Rail
that the Truss reads to the RAIL area. RAIL_GRANT gives a free Rail to the first writer in line. -/
def Obligations.RailMessages : Prop :=
  ∀ (s : State) (x : Slot) (rd rs : RegNo) (p : Pier) (k : Byte),
    let n := x.thr.val
    let y := (s.ran x).thr n
    let q := n / 192
    let j := (s.g n rs).toNat
    let r := s.rail q j
    let only (u t : State) (i : Nat) (r : Rail) : Prop := t = { u with rails := t.rails } ∧
      ∀ i', SMap.get {} t.rails i' = if i' = i then r else SMap.get {} u.rails i'
    (s.Issues x [rs] false → j < 256 → (s.thr n).rail = none → r.owner = none → r.msgs.length < 16 → r.waiters = [] →
      ∃ t u : State, exec (.rsv x rs) s = .next t ∧ only (s.ran x) u (256 * q + j) { r with owner := some n } ∧ u.OnlyThread t n ∧
        t.thr n = { y with rail := some j, partMsg := [] }) ∧
    (s.Issues x [rs] false → j < 256 → (s.thr n).rail = none → (r.owner ≠ none ∨ 16 ≤ r.msgs.length ∨ r.waiters ≠ []) →
      ∃ t u : State, exec (.rsv x rs) s = .next t ∧ only (s.ran x) u (256 * q + j) { r with waiters := r.waiters ++ [n] } ∧
        u.OnlyThread t n ∧ t.thr n = { y with state := .waiting, implicit := some (.rail j) }) ∧
    (256 ≤ j → s.Raises x [rs] false (.rsv x rs) .arg ∧ s.Raises x [rs] false (.rrd x rd rs) .arg) ∧
    (j < 256 → (s.thr n).rail ≠ none → s.Raises x [rs] false (.rsv x rs) .rail) ∧
    (s.Issues x [rs] false → (s.thr n).rail ≠ none → y.partMsg.length < 8 → ∃ t, exec (.put x rs) s = .next t ∧
      (s.ran x).OnlyThread t n ∧ t.thr n = { y with partMsg := y.partMsg ++ [s.g n rs] }) ∧
    ((s.thr n).rail = none ∨ 8 ≤ y.partMsg.length → s.Raises x [rs] false (.put x rs) .rail) ∧
    (∀ i, (s.thr n).rail = some i → i < 256 → s.Issues x [] false → (∀ d, (s.rail q i).reader = some d → s.domOn (16 + d) = true) → ∃ t u : State, exec (.rsend x) s = .next t ∧
      only (s.ran x) u (256 * q + i) (if y.partMsg = [] then { s.rail q i with owner := none }
        else { s.rail q i with owner := none, msgs := (s.rail q i).msgs ++ [y.partMsg] }) ∧
      u.OnlyThread t n ∧ t.thr n = { y with rail := none, partMsg := [] }) ∧
    ((s.thr n).rail = none → s.Raises x [] false (.rsend x) .rail) ∧
    (∀ m rest, s.Issues x [rs] false → j < 256 → r.reader = some (n / 64) → r.msgs = m :: rest →
      ∃ t u v : State, exec (.rrd x rd rs) s = .next t ∧ only (s.ran x) u (256 * q + j) { r with msgs := rest } ∧ u.OnlyThread v n ∧
        v.thr n = { y with claims := y.claims &&& ~~~2, railMsg := m } ∧ v.Wrote n rd (BitVec.ofNat 64 m.length) t) ∧
    (s.Issues x [rs] false → j < 256 → r.reader = some (n / 64) → r.msgs = [] → ∃ t : State, exec (.rrd x rd rs) s = .next t ∧
      (rd ≠ 0 → t.g n rd = 0xFFFFFFFFFFFFFFFF) ∧ t.rails = s.rails) ∧
    (j < 256 → r.reader ≠ some (n / 64) → s.Raises x [rs] false (.rrd x rd rs) .notBound) ∧
    (∀ w rest, (s.rail p.val k.toNat).waiters = w :: rest → (s.rail p.val k.toNat).owner = none →
      (s.rail p.val k.toNat).msgs.length < 16 → ∃ t u : State, exec (.railGrant p k) s = .next t ∧
        only s u (256 * p.val + k.toNat) { s.rail p.val k.toNat with owner := some w, waiters := rest } ∧ u.OnlyThread t w ∧
        (t.thr w).rail = some k.toNat ∧ (t.thr w).implicit = none ∧
        ((s.thr w).state = .waiting → (t.thr w).state = .running) ∧ ((s.thr w).state = .halted → (t.thr w).state = .halted))

/-- R179, R387, R388, R389, R414, R417, R420: MBXR takes the word of the lowest Span channel routed to the Truss that holds one and clears OUT_FULL;
MBXW stores a word where none is held, and answers 1 and stores nothing where one is. TAKE takes the oldest engine-queue item to the window: a
packet, whose chain then is the thread's, answers 1; an entry, which the Truss then holds, answers 2; with none it answers NONE and the window's
KIND is 0. -/
def Obligations.MailboxesAndItemsOfThreads : Prop :=
  (∀ (s : State) (x : Slot) (rd rs rt : RegNo),
    let n := x.thr.val
    let c := (s.g n rs).toNat
    let y := (s.ran x).thr n
    (∀ l rest, s.Issues x [] false → s.mbxWaiting (n / 64) = l :: rest → ∃ t : State, exec (.mbxr x rd) s = .next t ∧
      t = { s with regs := t.regs, threads := t.threads, stallDone := t.stallDone, mbx := t.mbx } ∧
      (t.mail l).outFull = false ∧ (t.mail l).inFull = (s.mail l).inFull ∧ (∀ d, d ≠ l → t.mail d = s.mail d) ∧
      (t.thr n).win.mbxWord = (s.mail l).outWord ∧ (t.thr n).claims = y.claims &&& ~~~8 ∧
      ∀ r : RegNo, t.g n r = if r = rd ∧ rd ≠ 0 then BitVec.ofNat 64 l else s.g n r) ∧
    (s.Issues x [] false → s.mbxWaiting (n / 64) = [] → ∃ t : State, exec (.mbxr x rd) s = .next t ∧ t.mbx = s.mbx ∧
      ∀ r : RegNo, t.g n r = if r = rd ∧ rd ≠ 0 then 0xFFFFFFFFFFFFFFFF else s.g n r) ∧
    (4096 ≤ c → s.Raises x [rs, rt] false (.mbxw x rd rs rt) .arg) ∧
    (c < 4096 → s.mbxTruss c ≠ some (n / 64) → s.Raises x [rs, rt] false (.mbxw x rd rs rt) .notBound) ∧
    (c < 4096 → s.mbxTruss c = some (n / 64) → (s.mail c).inFull = true → s.Computes x [rs, rt] (.mbxw x rd rs rt) rd 1) ∧
    (c < 4096 → s.mbxTruss c = some (n / 64) → (s.mail c).inFull = false → s.Issues x [rs, rt] false →
      ∃ t : State, exec (.mbxw x rd rs rt) s = .next t ∧ (t.mail c).inFull = true ∧ (t.mail c).inWord = s.g n rt ∧
        (∀ d, d ≠ c → t.mail d = s.mail d) ∧ ∀ r : RegNo, t.g n r = if r = rd ∧ rd ≠ 0 then 0 else s.g n r)) ∧
  ∀ (s : State) (x : Slot) (rd : RegNo),
    let n := x.thr.val
    let k := n / 64
    let gives (t : State) (w : Word) : Prop := ∀ r : RegNo, t.g n r = if r = rd ∧ rd ≠ 0 then w else s.g n r
    s.Issues x [] false → (x.word = .uncorrected → ∀ f, s.eq k = [.packet f] → ∃ t : State, exec (.take x rd) s = .next t ∧
        gives t 0xFFFFFFFFFFFFFFFF ∧ t.eq k = [] ∧ t.recs = s.recs ∧ t.held = s.held) ∧ (x.word = .ok →
      (∀ f rest, s.eq k = .packet f :: rest → ∃ t : State, exec (.take x rd) s = .next t ∧ gives t 1 ∧ t.eq k = rest ∧
        getBits (t.thr n).win.item 0 2 = 1 ∧ (t.thr n).win.time = f.time ∧ (t.thr n).win.parse = f.parse ∧
        (∀ i, i < f.bytes.length → i < 512 → SMap.get 0 (t.thr n).head i = f.bytes.getD i 0) ∧
        (∀ h, f.head = some h → (t.bufRec h).owner = State.ownerThread n ∧ ∀ i, i ≠ h → t.bufRec i = s.bufRec i)) ∧
      (∀ q e span time rest, s.eq k = .entry q e span time :: rest → (s.held.filter fun h => h.truss == k).length < 1024 →
        ∃ t : State, exec (.take x rd) s = .next t ∧ gives t 2 ∧ t.eq k = rest ∧ getBits (t.thr n).win.item 0 2 = 2 ∧
          (t.thr n).win.time = time ∧ t.held = s.held ++ [HeldEntry.mk k n q e.cell]) ∧
      (s.eq k = [] → ∃ t : State, exec (.take x rd) s = .next t ∧ gives t 0xFFFFFFFFFFFFFFFF ∧ t.eqs = s.eqs ∧ t.held = s.held ∧
        getBits (t.thr n).win.item 0 2 = 0))

/-- R414, R419, R420, R422, R449: DMA, TBL, BUF, AES and KEYLD start a returning operation with what they read of registers and of the scratchpad;
DMA on a channel that is not bound to the Truss, BUF GIVE to a kind it may not give to, and a KEYLD code that names nothing raise ARG; an odd
register of an AES pair ILLEGAL. It rests on the model's choices or readings of log entries 10, 11 and 12, which no rule states. -/
def Obligations.ReturningOperationsStart : Prop :=
  ∀ (s : State) (x : Slot) (rd rs rt : RegNo),
    let n := x.thr.val
    let a := s.g n rs
    let b := s.g n rt
    let bytes := (List.range 32).map fun i => s.spmByte (n / 192) (b.toNat % 0x1000000 + i)
    let image : Prop := s.SpmOpen n b 32 ∧ s.SpmClean n b 32 ∧ x.word = .ok
    let kind := getBits b 13 3
    (∀ h : a.toNat < 64, s.chTruss (n / 192) a.toNat = some (n / 64) → image →
      s.Starts x [rs, rt] (.dma x rd rs rt) (.dma ⟨a.toNat, h⟩ (BitVec.ofNat 256 (fromBytesLE bytes)) rd)) ∧
    (64 ≤ a.toNat ∨ s.chTruss (n / 192) a.toNat ≠ some (n / 64) → s.Raises x [rs, rt] true (.dma x rd rs rt) .arg) ∧
    (s.SpmOpen n b 64 → s.Starts x [rs, rt] (.tbl x rd rs rt) (.tbl a (b.toNat % 0x1000000) rd)) ∧
    s.Starts x [rs] (.bufFree x rd rs) (.buf 0 a.toNat 0 rd) ∧ s.Starts x [rs] (.bufDrop x rd rs) (.buf 1 a.toNat 0 rd) ∧
    s.Starts x [rs] (.bufShare x rd rs) (.buf 3 a.toNat 0 rd) ∧
    (kind = 1 ∨ kind = 2 ∨ kind = 3 ∨ kind = 6 → s.Starts x [rs, rt] (.bufGive x rd rs rt) (.buf 2 a.toNat (b.setWidth 16) rd)) ∧
    (¬(kind = 1 ∨ kind = 2 ∨ kind = 3 ∨ kind = 6) → s.Raises x [rs, rt] true (.bufGive x rd rs rt) .arg) ∧
    (b.getLsbD 16 = false → rd.toNat % 2 = 0 → rs.toNat % 2 = 0 →
      s.Starts x [rs, rs + 1, rt] (.aesEnc x rd rs rt) (.aes (b.setWidth 16) false (s.g n (rs + 1)) a rd)) ∧
    (b.getLsbD 16 = true → rd.toNat % 2 = 0 → rs.toNat % 2 = 0 →
      s.Starts x [rs, rs + 1, rt] (.aesDec x rd rs rt) (.aes (b.setWidth 16) true (s.g n (rs + 1)) a rd)) ∧
    (b.getLsbD 16 = false → (rd.toNat % 2 = 1 ∨ rs.toNat % 2 = 1) → s.Raises x [rs, rs + 1, rt] true (.aesEnc x rd rs rt) .illegal) ∧
    (getBits a 16 2 = 1 → image →
      s.Starts x [rs, rt] (.keyldInstall x rd rs rt) (.keyld true (a.setWidth 16) (a.getLsbD 18) bytes rd)) ∧
    (getBits a 16 2 = 2 → image →
      s.Starts x [rs, rt] (.keyldDelete x rd rs rt) (.keyld false (a.setWidth 16) (a.getLsbD 18) bytes rd)) ∧
    (getBits a 16 2 = 0 → s.Raises x [rs, rt] true (.keyldInstall x rd rs rt) .arg)

/-- R418: CPL of an entry that the Truss holds gives it the STATUS, the BYTES, the INFO and the cell 1 of the 32-byte image, keeps the fields of cell
0 that the rule keeps, and sets DONE: where the completion can be written, cell 1 of an entry of more than one cell and then cell 0 go out to the
entry's place, the queue counts it, and the Truss no longer holds the entry; alone it leaves the queue and DI passes it. An entry that the Truss
does not hold raises NOT_BOUND, and a bad image address what a load from it raises. A Span with translation PASS and no log is named, and a
completion that writes no event. It rests on the model's choices or readings of log entry 10, which no rule states. -/
def Obligations.CompleteEngineEntry : Prop :=
  ∀ (s : State) (x : Slot) (rs rt : RegNo),
    let n := x.thr.val
    let w := s.g n rs
    let image := s.g n rt
    let bytes := (List.range 32).map fun i => s.spmByte (n / 192) (image.toNat % 0x1000000 + i)
    let o := image.toNat % 0x1000000
    let bay := s.bay (n / 192) (o / 0x200000)
    let owned : Prop := ∃ h ∈ s.held, h.truss = n / 64 ∧ h.queue.val = getBits w 0 16 ∧ h.cell.toNat = getBits w 16 16
    (∀ (h : HeldEntry) (b : Begun) (f : Fn),
      let q := h.queue.val
      let y := s.queue q
      let hdr := b.entry.hdr
      let status := (bytes.getD 2 0).toNat
      let cell0 := toBytesLE 8 (cellBits hdr 0 12 + 2 ^ 12 + 2 ^ 13 * cellBits hdr 13 3 + 2 ^ 16 * status + 2 ^ 32 * cellBits hdr 32 32) ++
        (bytes.drop 8).take 8
      let cell1 : List Out := if 2 ≤ b.entry.cells.length then [.hostWrite f (s.ringAddr q (h.cell + 1)) (bytes.drop 16) false false] else []
      h ∈ s.held → (∀ h' ∈ s.held, h'.truss = h.truss → h'.queue = h.queue → h'.cell = h.cell → h' = h) → h.truss = n / 64 →
      q = getBits w 0 16 → h.cell.toNat = getBits w 16 16 → s.SpmOpen n image 32 → s.SpmClean n image 32 → x.word = .ok →
      b ∈ y.begun → b.entry.cell = h.cell → (∀ b' ∈ y.begun, b'.entry.cell = h.cell → b' = b) → b.head = none → y.kind = 2 →
      y.disabling = none → (status = 0 ∧ b.entry.irq = false ∨ s.fld F.QE_CTX_CFG_EQ q = 0xFF) → s.RingOpen q f → s.Issues x [rs, rt] false →
      ∃ t : State, exec (.cpl x rs rt) s = .next t ∧ t.held = s.held.erase h ∧ (t.queue q).completions = y.completions + 1 ∧
        t.out = .hostWrite f (s.ringAddr q h.cell) cell0 false false :: (cell1 ++ s.out) ∧
        (∀ b' ∈ (t.queue q).begun, b'.entry.cell = h.cell → b'.written = true) ∧
        (y.begun = [b] → (t.queue q).begun = [] ∧ (t.queue q).di = h.cell + BitVec.ofNat 16 b.entry.cells.length) ∧
        ∀ k, k ≠ q → t.queue k = s.queue k) ∧
    ((∀ h ∈ s.held, ¬(h.truss = n / 64 ∧ h.queue.val = getBits w 0 16 ∧ h.cell.toNat = getBits w 16 16)) →
      s.Raises x [rs, rt] false (.cpl x rs rt) .notBound) ∧
    (owned → image.toNat % 32 ≠ 0 → s.Raises x [rs, rt] false (.cpl x rs rt) .align) ∧
    (owned → image.toNat % 32 = 0 → 0x3000000 ≤ image.toNat → s.Raises x [rs, rt] false (.cpl x rs rt) .spmRange) ∧
    (owned → image.toNat % 32 = 0 → image.toNat < 0x3000000 → bay.pwr = 0 → bay.transit = none → bay.handover = none →
      bay.owner ≠ State.ownerTruss (n / 64) → s.Issues x [rs, rt] false → exec (.cpl x rs rt) s =
        .next (((s.ran x).spmRefuse (n / 192) o (State.ownerTruss (n / 64)) (n / 64 % 3) 1 false).excAt n .bay (s.thr n).pc)) ∧
    (owned → s.SpmOpen n image 32 → ¬s.SpmClean n image 32 → x.word = .ok → s.Issues x [rs, rt] false → exec (.cpl x rs rt) s =
        .next (((s.ran x).spmUe (n / 192) o (State.ownerTruss (n / 64)) (n / 64 % 3)).excAt n .poison (s.thr n).pc))

/-- R265, R420: ALLOC with a length and an account answers the head of a chain that is then the thread's and charged to the account;
one that cannot be granted makes the thread wait, or answers NONE if TIMER is pending; reserved bits and an account that the image does not
give raise ARG. -/
def Obligations.AllocBuffers : Prop :=
  ∀ (s : State) (x : Slot) (rd rs rt : RegNo),
    let n := x.thr.val
    let w := s.g n rt
    let a := getBits w 0 13
    let len := if (s.g n rs).toNat < 1 then 1 else if 16384 < (s.g n rs).toNat then 16384 else (s.g n rs).toNat
    let k := (len + 2047) / 2048
    let owner := if w.getLsbD 16 then State.ownerSpan (getBits w 32 12) else State.ownerThread n
    let good : Prop := w &&& ~~~0xFFF00011FFF = 0 ∧ a < s.accounts
    (∀ p h l, good → s.acctPool a = some p → s.chargeTurn ⟨.thread n, p, a, k, owner⟩ = .granted → s.freeIndices p k (s.poolBase p) = h :: l →
      s.Issues x [rs, rt] false → ∃ t : State, exec (.alloc x rd rs rt) s = .next t ∧
        (t.bufRec h).owner = owner ∧ (t.bufRec h).refs = 1 ∧ (t.bufRec h).account = a ∧ (t.thr n).state = .running ∧
        (∀ i, i ∉ h :: l → t.bufRec i = s.bufRec i) ∧
        ∀ r : RegNo, t.g n r = if r = rd ∧ rd ≠ 0 then BitVec.ofNat 64 h else s.g n r) ∧
    (∀ p, good → s.acctPool a = some p → s.chargeTurn ⟨.thread n, p, a, k, owner⟩ ≠ .granted → s.timerPending n = false → s.Issues x [rs, rt] false →
      ∃ t : State, exec (.alloc x rd rs rt) s = .next t ∧
        t.thr n = { (s.ran x).thr n with state := .waiting, implicit := some (.alloc len a owner rd) } ∧
        (⟨.thread n, p, a, k, owner⟩ : BufWait) ∈ t.bpmWait ∧ t.recs = s.recs) ∧
    (∀ p, good → s.acctPool a = some p → s.chargeTurn ⟨.thread n, p, a, k, owner⟩ ≠ .granted → s.timerPending n = true →
      s.Computes x [rs, rt] (.alloc x rd rs rt) rd 0xFFFFFFFFFFFFFFFF) ∧
    (¬good → s.Raises x [rs, rt] false (.alloc x rd rs rt) .arg)

/-- R421, R541: XMIT of a chain that the thread owns, with one reference, hands it to its destination with rd 0: for a TX queue and a WIRE TMS queue
the frame is then last in the egress pipeline, for PIPE last at head acceptance, and the chain the pipeline's; a queue that no Span has raises
NOT_BOUND. It rests on the model's choices or readings of log entries 12 and 15, which no rule states. -/
def Obligations.XmitChain : Prop :=
  ∀ (s : State) (x : Slot) (rd rs rt : RegNo) (b : Nat),
    let n := x.thr.val
    let p := n / 192
    let w := s.g n rt
    let target := getBits w 16 16
    let len := getBits w 48 15
    let q := s.queue target
    let owned : Prop := (s.poolOf b).isSome ∧ (s.bufRec b).member = false ∧ (s.bufRec b).refs = 1 ∧ s.recBad b = false ∧
      (s.bufRec b).owner = State.ownerThread n
    let mine : Prop := getBits (s.thr n).win.item 0 2 = 1 ∧ (s.thr n).win.ref.toNat % 2 ^ 26 = b
    let sent (c : Instr) (t : State) : Prop := exec c s = .next t ∧ (t.bufRec b).owner = State.ownerPipe p ∧
      (∀ r : RegNo, t.g n r = if r = rd ∧ rd ≠ 0 then 0 else s.g n r)
    (s.g n rs).toNat = b → owned → ¬mine → 0 < len → len ≤ s.chainCap b →
      (getBits w 0 2 = 0 → q.used = true → q.kind = 0 → q.bind = p → s.Issues x [rs, rt] false → ∃ t : State,
        sent (.xmitTxq x rd rs rt) t ∧ ∃ f, t.egressOf p = s.egressOf p ++ [f] ∧ f.bytes = s.chainRead b 0 len ∧ f.head = some b ∧
          f.txq = some target ∧ f.span = some q.span) ∧
      (getBits w 0 2 = 2 → (∃ nd, s.treeNode p 3 target = some nd ∧ nd.kind = 0) → s.Issues x [rs, rt] false → ∃ t : State,
        sent (.xmitWire x rd rs rt) t ∧ ∃ f, t.egressOf p = s.egressOf p ++ [f] ∧ f.bytes = s.chainRead b 0 len ∧ f.head = some b ∧
          f.tmsq = some target) ∧
      (getBits w 0 2 = 3 → target = 0 → s.Issues x [rs, rt] false → ∃ t : State,
        sent (.xmitPipe x rd rs rt) t ∧ ∃ f, SMap.get [] t.reentry p = SMap.get [] s.reentry p ++ [f] ∧
          f.bytes = s.chainRead b 0 len ∧ f.head = some b) ∧
      (getBits w 0 2 = 1 → q.used = true → q.kind = 1 → s.Issues x [rs, rt] false → ∃ t : State,
        exec (.xmitRxq x rd rs rt) s = .next t ∧ (∀ r : RegNo, t.g n r = if r = rd ∧ rd ≠ 0 then 0 else s.g n r)) ∧
      (getBits w 0 2 = 0 → q.used = false → s.Raises x [rs, rt] false (.xmitTxq x rd rs rt) .notBound) ∧
      (getBits w 0 2 = 1 → q.used = false → s.Raises x [rs, rt] false (.xmitRxq x rd rs rt) .notBound)

/-- R414, R424, R485: FENCE issues once nothing of the thread is outstanding, and is a bubble before; BRK halts the thread where a debug session
holds its Truss and raises BREAK elsewhere; RREG reads and, of the supervisor, WREG writes a register of the thread's own Truss; a register of
another block raises PRIV, an offset that is not a multiple of 8 ALIGN. It rests on the model's choices or readings of log entries 17 and 18,
which no rule states. -/
def Obligations.FenceBreakAndRegisters : Prop :=
  ∀ (s : State) (x : Slot) (rd rs rt : RegNo) (r : Reg) (i : Nat),
    let n := x.thr.val
    let a := s.g n rs
    let own : Prop := getBits a 24 8 = 0 ∧ getBits a 0 24 % 8 = 0 ∧ getBits a 0 24 < 0x100000 ∧
      locate (0x1800000 + n / 192 * 0x1000000 + n / 64 % 3 * 0x100000 + getBits a 0 24) = some (r, i)
    (s.Issues x [] false → s.liveOps n = [] → exec (.fence x) s = .next (s.ran x)) ∧
    ((s.thr n).state = .running → (s.thr n).aborting = false → s.liveOps n ≠ [] →
      exec (.fence x) s = .next (s.bump F.TRS_BUBBLE_CNT_COUNT (n / 64))) ∧
    (s.Issues x [] false → s.dbgLevel ≠ 0 → s.dbgThread n = true → ∃ t, exec (.brk x) s = .next t ∧ (s.ran x).OnlyThread t n ∧
      t.thr n = { (s.ran x).thr n with state := .halted, prior := .running }) ∧
    (s.dbgLevel = 0 ∨ s.dbgThread n = false → s.Raises x [] false (.brk x) .brk) ∧
    (s.cfgState ≠ 4 → s.cfgState ≠ 5 →
      (own → r.rcMask = 0 → r ∉ [Reg.TIM_NOW, .TIM_CAP_HI, .TIM_GNSS_RX, .MBX_FROM, .SPM_MGMT_DATA, .PWR_TJ_PEAK] →
        s.Computes x [rs] (.rreg x rd rs) rd ((s.ran x).readReg r i)) ∧
      (own → r ≠ .TRS_CMD → n % 64 = 0 → s.Issues x [rs, rt] false →
        exec (.wreg x rs rt) s = .next ((s.ran x).wrBasic r i (s.g n rt))) ∧
      (own → n % 64 ≠ 0 → s.Raises x [rs, rt] false (.wreg x rs rt) .priv) ∧
      (getBits a 0 24 % 8 = 0 → 2 ≤ getBits a 24 8 → s.Raises x [rs] false (.rreg x rd rs) .priv) ∧
      (getBits a 0 24 % 8 ≠ 0 → s.Raises x [rs] false (.rreg x rd rs) .align))

/-- R397, R398, R425: an exception at the instruction at `pc` leaves the thread FAULTED with its code and that PC, and its PC there; the
exception of a pool thread sets THREAD_FAULT in TRS_SUP_CAUSE and is counted, that of the supervisor is a fault event of the Truss that
the FCU captures, if it has captured no uncorrected one. -/
def Obligations.ExceptionRecord : Prop :=
  ∀ (s : State) (n : ThreadId) (e : Exc) (pc : BitVec 32),
    let k := n.val / 64
    let t := s.excAt n.val e pc
    t.thr n.val = { s.thr n.val with
      state := .faulted
      pc := pc
      faultCode := BitVec.ofNat 8 e.code
      faultPc := pc
      waitMask := 0
      implicit := none
      joining := none } ∧
    (∀ m, m ≠ n.val → t.thr m = s.thr m) ∧ s.SameMemory t ∧
    (n.val % 64 ≠ 0 → bitOf (t.reg .TRS_EVT k) 2 = true ∧ t.fld F.TRS_SUP_CAUSE_THREAD_FAULT k = 1 ∧
      t.fld F.TRS_THR_CNT_FAULTS k = min (s.fld F.TRS_THR_CNT_FAULTS k + 1) (2 ^ F.TRS_THR_CNT_FAULTS.width - 1)) ∧
    (n.val % 64 = 0 → bitOf (t.reg .TRS_EVT k) 1 = true ∧
      (s.coreOff = false → s.fld F.FCU_CAP_VALID 1 = 0 → t.fld F.FCU_CAP_VALID 1 = 1 ∧ t.fld F.FCU_CAP_CODE 1 = 2 ∧
        t.fld F.FCU_CAP_SOURCE 1 = 0x48 + 16 * (k / 3) + k % 3))

/-! ### Faults, Bays, buffers -/

/-- R462–R465: a fault event is counted in its class; the first of a class is captured with its source, code, detail and time, sets its FCU_EVT bit
and, unless correctable, starts a FAULT_N pulse; while one is captured a further one sets OVF and leaves the record alone; of two in one cycle
the lower source comes first; an unlisted pair is no fault. It rests on the model's choices or readings of log entry 5, which no rule states. -/
def Obligations.FaultEventsCaptured : Prop :=
  ∀ (s : State) (a b : FaultEv) (c : FaultClass),
    let i := classIdx c
    s.coreOff = false → faultClass a.source a.code = some c →
      (∃ t, exec (.faultEvent [a]) s = .next t ∧ s.OnlySignals { t with shadow := s.shadow } ∧ (c = .ce → t.shadow = s.shadow) ∧
        t.fld F.FCU_CNT_COUNT i = min (s.fld F.FCU_CNT_COUNT i + 1) 0xFFFFFFFF ∧
        (s.fld F.FCU_CAP_VALID i = 0 → t.fld F.FCU_CAP_VALID i = 1 ∧ t.fld F.FCU_CAP_SOURCE i = a.source.toNat ∧
          t.fld F.FCU_CAP_CODE i = a.code.toNat ∧ t.reg .FCU_DETAIL i = a.detail ∧ t.reg .FCU_TIME i = (s.time >>> 32).setWidth 64 ∧
          t.Event .FCU_EVT 0 i ∧ (c ≠ .ce → t.fld F.FCU_PIN_PULSE 0 = 1)) ∧
        (s.fld F.FCU_CAP_VALID i = 1 → t.fld F.FCU_CAP_OVF i = 1 ∧ t.reg .FCU_DETAIL i = s.reg .FCU_DETAIL i ∧
          t.reg .FCU_TIME i = s.reg .FCU_TIME i ∧ t.fld F.FCU_CAP_SOURCE i = s.fld F.FCU_CAP_SOURCE i)) ∧
      (faultClass b.source b.code = some c → b.source.toNat < a.source.toNat → s.fld F.FCU_CAP_VALID i = 0 →
        ∃ t, exec (.faultEvent [a, b]) s = .next t ∧ t.fld F.FCU_CAP_SOURCE i = b.source.toNat ∧ t.reg .FCU_DETAIL i = b.detail ∧
          t.fld F.FCU_CAP_OVF i = 1 ∧ t.fld F.FCU_CNT_COUNT i = min (s.fld F.FCU_CNT_COUNT i + 2) 0xFFFFFFFF) ∧
      (faultClass b.source b.code = none → exec (.faultEvent [b]) s = .next s)

/-- R465, R467–R472: the end of a pulse; ENTER takes the device to SAFE, LEAVE back to RUN unless SELF_FAULT stands, SCRUB clears captures,
counts and events in SAFE, and ends with SELF_FAULT where a register that it does not rewrite still has bad parity or one fails again; each outside its state ends with NOT_SAFE, and a second ENTER with BUSY; a parity error in an FCU register enters SAFE by itself. -/
def Obligations.SafeStateCommands : Prop :=
  ∀ (s : State) (q : Seq) (r : BitVec 16),
    let st := s.fld F.FCU_SAFE_STATUS_STATE 0
    let ended (t : State) (code : Nat) : Prop := t.Ended F.FCU_SAFE_STATUS_LAST_RESULT F.FCU_SAFE_STATUS_LAST_SEQ 0 code q
    let kept : List Nat := s.fcuBad.filter scrubKeeps.contains
    (∃ t, exec .faultPulseEnd s = .next t ∧ s.OnlyRegs t [(.FCU_PIN, 0)] ∧ t.fld F.FCU_PIN_PULSE 0 = 0 ∧
      t.fld F.FCU_PIN_HOLD 0 = s.fld F.FCU_PIN_HOLD 0) ∧
    (st = 0 → s.fld F.CFG_STATUS_STATE 0 ≠ 3 → s.fld F.CFG_STATUS_STATE 0 ≠ 4 → ∃ t, exec (.enter q) s = .next t ∧
      s.OnlyRegs t [(.FCU_SAFE_STATUS, 0)] ∧ t.fld F.FCU_SAFE_STATUS_STATE 0 = 2 ∧ t.fld F.FCU_SAFE_STATUS_CAUSE 0 = 1 ∧ ended t 0) ∧
    (st = 0 → s.fld F.CFG_STATUS_STATE 0 = 3 ∨ s.fld F.CFG_STATUS_STATE 0 = 4 → ∃ t, exec (.enter q) s = .next t ∧
      t.fld F.FCU_SAFE_STATUS_STATE 0 = 1 ∧ t.enterSeq = q ∧ s.RegsBut t [(.FCU_SAFE_STATUS, 0)]) ∧
    (st = 1 → ∃ t, exec (.enter q) s = .next t ∧ ended t 1 ∧ t.fld F.FCU_SAFE_STATUS_STATE 0 = 1) ∧
    (st = 2 → s.fld F.FCU_SAFE_STATUS_SELF_FAULT 0 = 0 → s.queues = [] → s.stalled = [] → s.walks = [] → s.msixWait = [] → s.tblEv = [] → s.evOver = [] →
      s.tblRun = [] → s.dmaCh = [] → s.shadow = [] → s.cplDue = [] → ∃ t, exec (.leave q) s = .next t ∧ s.OnlySignals t ∧
      s.RegsBut t [(.FCU_SAFE_STATUS, 0), (.FCU_EVT, 0), (.HEP_DROP_CNT, 0)] ∧ t.fld F.FCU_SAFE_STATUS_STATE 0 = 0 ∧ ended t 0 ∧
      t.Event .FCU_EVT 0 3) ∧
    (st = 2 → s.fld F.FCU_SAFE_STATUS_SELF_FAULT 0 = 1 → ∃ t, exec (.leave q) s = .next t ∧ s.OnlyRegs t [(.FCU_SAFE_STATUS, 0)] ∧
      t.fld F.FCU_SAFE_STATUS_STATE 0 = 2 ∧ ended t 3) ∧
    (st ≠ 2 → ∃ t u, exec (.leave q) s = .next t ∧ exec (.scrub q none) s = .next u ∧ ended t 2 ∧ ended u 2 ∧
      t.fld F.FCU_SAFE_STATUS_STATE 0 = st ∧ u.fld F.FCU_SAFE_STATUS_STATE 0 = st) ∧
    (st = 2 → kept = [] → ∃ t, exec (.scrub q none) s = .next t ∧ ended t 0 ∧ t.fld F.FCU_SAFE_STATUS_SELF_FAULT 0 = 0 ∧
      t.reg .FCU_EVT 0 = 0 ∧ t.fcuBad = [] ∧ ∀ i, i < 3 → t.reg .FCU_CAP i = 0 ∧ t.reg .FCU_DETAIL i = 0 ∧ t.reg .FCU_TIME i = 0 ∧ t.reg .FCU_CNT i = 0) ∧
    (st = 2 → kept = [] → ∃ t, exec (.scrub q (some r)) s = .next t ∧ ended t 3 ∧ t.fld F.FCU_SAFE_STATUS_SELF_FAULT 0 = 1 ∧
      t.fld F.FCU_SAFE_STATUS_SELF_REG 0 = r.toNat) ∧
    (∀ k l, st = 2 → kept = k :: l → ∃ t, exec (.scrub q none) s = .next t ∧ ended t 3 ∧
      t.fld F.FCU_SAFE_STATUS_SELF_FAULT 0 = 1 ∧ t.fld F.FCU_SAFE_STATUS_SELF_REG 0 = k) ∧
    (st = 0 → s.fld F.CFG_STATUS_STATE 0 ≠ 3 → s.fld F.CFG_STATUS_STATE 0 ≠ 4 → ∃ t, exec (.selfFault r) s = .next t ∧
      s.OnlyRegs { t with fcuBad := s.fcuBad } [(.FCU_SAFE_STATUS, 0)] ∧ r.toNat ∈ t.fcuBad ∧ t.fld F.FCU_SAFE_STATUS_STATE 0 = 2 ∧
      t.fld F.FCU_SAFE_STATUS_CAUSE 0 = 2 ∧
      t.fld F.FCU_SAFE_STATUS_SELF_FAULT 0 = 1 ∧ t.fld F.FCU_SAFE_STATUS_SELF_REG 0 = r.toNat)

/-- R436–R439, R441: a handover whose EXPECT is the owner, of a Bay that is ON, settled and not held by a live Span, begins; its end makes NEW the
owner; a wrong EXPECT and a Bay in handover or transition change nothing and say so. A power mode takes effect at its end, OFF with every word 0.
The Manager's path reads and writes the word it names in a Bay that the MF owns. It rests on the model's choices or readings of log entries 20
and 116, which no rule states. -/
def Obligations.BayCommands : Prop :=
  ∀ (s : State) (p : Pier) (new expect : BitVec 16) (mode : BitVec 2) (q : Seq) (b : Fin 8) (w : Word),
    let k := s.fld F.SPM_BAY_SEL_BAY p.val
    let x := s.bay p.val k
    let y := s.bay p.val b.val
    let off := s.fld F.SPM_MGMT_ADDR_WORD p.val * 8
    let m := s.bay p.val (off / 0x200000)
    let settled : Prop := x.handover = none ∧ x.transit = none
    let data : Prop := s.regOpen .SPM_MGMT_DATA p.val = true
    let ended (t : State) (b code : Nat) (q : Seq) : Prop :=
      t.Ended F.SPM_BAY_STATUS_LAST_RESULT F.SPM_BAY_STATUS_LAST_SEQ (8 * p.val + b) code q ∧ t.Event .SPM_EVT p.val 1
    let only (t : State) (i : Nat) (z : Bay) : Prop := t.bay p.val i = z ∧ ∀ p' i', (p' = p.val → i' ≠ i) → i' < 8 → t.bay p' i' = s.bay p' i'
    (s.regOpen .SPM_BAY_OWNER p.val = true → settled → expect = x.owner → (getBits (x.owner.setWidth 64) 13 3 = 1 → s.ownerLive x.owner = false) → x.pwr = 0 →
      ∃ t, exec (.bayHandover p new expect q) s = .next t ∧ t = { s with bays := t.bays } ∧
        only t k { x with handover := some (State.bayNew p.val new, q, false) }) ∧
    (s.regOpen .SPM_BAY_OWNER p.val = true → settled → expect ≠ x.owner → ∃ t, exec (.bayHandover p new expect q) s = .next t ∧ s.OnlySignals t ∧ ended t k 2 q) ∧
    (s.regOpen .SPM_BAY_OWNER p.val = true → s.regOpen .SPM_BAY_PWR p.val = true → ¬settled → ∃ t u, exec (.bayHandover p new expect q) s = .next t ∧ exec (.bayPwrRequest p mode q) s = .next u ∧
      s.OnlySignals t ∧ ended t k 1 q ∧ s.OnlySignals u ∧ ended u k 1 q) ∧
    (∀ o q' rcv, s.spmWait = [] → y.handover = some (o, q', rcv) → ∃ t, exec (.handoverDone p b) s = .next t ∧
      s.OnlySignals { t with bays := s.bays } ∧ only t b.val { y with owner := o, handover := none } ∧ ended t b.val 0 q' ∧
      (rcv = true → t.Ended F.STU_RCV_STATUS_RESULT F.STU_RCV_STATUS_LAST_SEQ 0 0 q')) ∧
    (s.regOpen .SPM_BAY_PWR p.val = true → settled → (x.pwr ≠ 0 ∨ mode = 0 ∨ mode = 3 ∨ x.owner = State.ownerMf) → ∃ t, exec (.bayPwrRequest p mode q) s = .next t ∧
      t = { s with bays := t.bays } ∧ only t k { x with transit := some (if mode = 3 then 0 else mode.toNat, q) }) ∧
    (∀ q', y.transit = some (2, q') → ∃ t, exec (.bayPwrDone p b) s = .next t ∧ only t b.val { y with pwr := 2, transit := none } ∧
      ended t b.val 0 q' ∧ ∀ o, o < 0x200000 → t.spmWord p.val (0x200000 * b.val + o) = 0) ∧
    (∀ q', y.transit = some (0, q') → y.pwr = 1 → ∃ t, exec (.bayPwrDone p b) s = .next t ∧ s.SameMemory t ∧
      only t b.val { y with pwr := 0, transit := none } ∧ ended t b.val 0 q') ∧
    (data → m.pwr = 0 → m.transit = none → m.handover = none → m.owner = State.ownerMf →
      (s.spmBad p.val off = false → exec (.spmMgmtRead p .ok) s = .next { s with out := .readData (s.spmWord p.val off) :: s.out }) ∧
      (∃ t, exec (.spmMgmtWrite p w) s = .next t ∧ t = { s with spm := t.spm, spmPoison := t.spmPoison } ∧ t.spmWord p.val off = w ∧
        t.spmBad p.val off = false ∧ ∀ p' o, p' < 4 → o < 0x1000000 → ¬(p' = p.val ∧ o / 8 = off / 8) → t.spmWord p' o = s.spmWord p' o)) ∧
    (data → m.owner ≠ State.ownerMf → m.handover = none → m.pwr = 0 → m.transit = none → ∃ t u, exec (.spmMgmtRead p .ok) s = .next t ∧
      exec (.spmMgmtWrite p w) s = .next u ∧ s.SameMemory t ∧ s.SameMemory u ∧ t.Event .SPM_EVT p.val 0 ∧ u.Event .SPM_EVT p.val 0)

/-- R30, R256, R258, R260, R268, R269, R420, R546: the Manager's FREE, DROP and GIVE on a buffer: FREE returns a chain that the MF owns with one
reference, DROP takes one of several references, GIVE changes the owner; a refused one leaves the records alone and ends with its code. READ_REC
puts the record into BPM_BUF_REC. An RLD access is counted and an error recorded, an uncorrected one with its line poisoned; a Pier's cache that
runs low takes indices that no buffer uses; a waiting charge that can be granted now is granted to the thread that waits; a buffer operation
returns with its result, and a grant that no ALLOC waits for any more is undone. It rests on the model's choices or readings of log entries 86
and 87, which no rule states. -/
def Obligations.BufferCommandsAndEvents : Prop :=
  (∀ (s : State) (q : Seq),
    let i := s.fld F.BPM_BUF_ARG_INDEX 0
    let o := BitVec.ofNat 16 (s.fld F.BPM_BUF_ARG_NEW_OWNER 0)
    let r := s.bufRec i
    let ended (t : State) (code : Nat) : Prop :=
      t.Ended F.BPM_BUF_STATUS_RESULT F.BPM_BUF_STATUS_LAST_SEQ 0 code q ∧ t.Event .BPM_EVT 0 1
    let head : Prop := (s.poolOf i).isSome ∧ r.member = false ∧ s.recBad i = false
    s.regOpen .BPM_BUF_CMD 0 = true →
    (head → r.refs = 1 → r.owner = State.ownerMf → r.next = none → ∃ t, exec (.bpmFree q) s = .next t ∧ ended t 0 ∧
      t.bufRec i = {} ∧ (∀ j, j ≠ i → t.bufRec j = s.bufRec j) ∧
      t.fld F.BPM_ACCT_USE_USE r.account = s.fld F.BPM_ACCT_USE_USE r.account - 1) ∧
    (head → 2 ≤ r.refs → ∃ t, exec (.bpmDrop q) s = .next t ∧ s.OnlySignals { t with recs := s.recs } ∧ ended t 0 ∧
      t.bufRec i = { r with refs := r.refs - 1 } ∧ ∀ j, j ≠ i → t.bufRec j = s.bufRec j) ∧
    (head → 1 ≤ r.refs → r.owner = State.ownerMf → getBits (o.setWidth 64) 13 3 ∈ [1, 2, 3, 6] → ∃ t, exec (.bpmGive q) s = .next t ∧
      s.OnlySignals { t with recs := s.recs } ∧ ended t 0 ∧ t.bufRec i = { r with owner := o } ∧ ∀ j, j ≠ i → t.bufRec j = s.bufRec j) ∧
    (head → 1 ≤ r.refs → r.owner ≠ State.ownerMf → ∃ t u, exec (.bpmFree q) s = .next t ∧ exec (.bpmGive q) s = .next u ∧
      ended t 2 ∧ ended u 2 ∧ t.recs = s.recs ∧ u.recs = s.recs) ∧
    (s.recBad i = false → i < s.fld F.BPM_INFO_BUFFERS 0 → ∃ t, exec (.readRec q) s = .next t ∧ s.OnlySignals t ∧ ended t 0 ∧
      getBits (t.reg .BPM_BUF_REC 0) 0 16 = r.owner.toNat ∧ (r.refs < 256 → getBits (t.reg .BPM_BUF_REC 0) 16 8 = r.refs)) ∧
    (s.fld F.BPM_INFO_BUFFERS 0 ≤ i → ∃ t, exec (.readRec q) s = .next t ∧ ended t 5)) ∧
  ∀ (s : State) (line : BitVec 31) (pier : Pier) (pool : Fin 256) (n : ThreadId) (k : Fin 64),
    let st := (Config.rldStack line.toNat).val
    (∃ t, exec (.rldAccess line .ok) s = .next t ∧ s.OnlyRegs t [(.RLC_ACCESS_CNT, st)]) ∧
    (∃ t, exec (.rldAccess line .uncorrected) s = .next t ∧ t.rld = s.rld ∧
      SMap.get false t.rldPoison line.toNat = true ∧ (∀ l, l ≠ line.toNat → SMap.get false t.rldPoison l = SMap.get false s.rldPoison l) ∧
      t.Event .RLC_EVT 0 st) ∧
    (∀ i, (s.cacheOf pier.val pool.val).length < 256 → pool.val < s.pools → pool.val ∈ (s.pierImg pier.val).pools →
      s.lowestFree pool.val (s.occupied + 1) (s.poolBase pool.val) = some i → ∃ t, exec (.cacheRefill pier pool .ok) s = .next t ∧
        s.OnlySignals { t with bufCache := s.bufCache } ∧ t.cacheOf pier.val pool.val = s.cacheOf pier.val pool.val ++
          (((List.range 64).map (64 * (i / 64) + ·)).filter fun j => s.bitmap j && s.inPool pool.val j).take
            (512 - (s.cacheOf pier.val pool.val).length)) ∧
    (∀ w rest h l, s.bpmWait = w :: rest → w.pool = pool.val → w.who = .thread n.val → s.chargeAns pool.val w.acct w.n none = .granted →
      s.freeIndices pool.val w.n (s.poolBase pool.val) = h :: l → ∃ t, exec (.bufferWaitGrant pool) s = .next t ∧
        t.grants = s.grants ++ [{ thread := n.val, head := h }] ∧ t.bpmWait = rest ∧ (t.bufRec h).owner = w.owner ∧ (t.bufRec h).refs = 1) ∧
    (∀ o fn h new rd, (s.thr n.val).dropping = false → (s.thr n.val).ops[k.val]? = some o → o.op = .buf fn h new rd → o.live = true → (s.bufRec h).refs = 0 →
      (s.poolOf h).isSome → (s.bufRec h).member = false → ∃ t, exec (.bufResultReturn n k) s = .next t ∧ t.recs = s.recs ∧
        (t.thr n.val).ops = (s.thr n.val).ops.eraseIdx k.val ∧ (rd ≠ 0 → t.g n.val rd = 4)) ∧
    (∀ o h rd, (s.thr n.val).dropping = false → (s.thr n.val).ops[k.val]? = some o → o.op = .buf 3 h 0 rd → o.live = true → (s.poolOf h).isSome →
      (s.bufRec h).member = false → s.recBad h = false → 1 ≤ (s.bufRec h).refs → (s.bufRec h).refs < 255 →
      ∃ t, exec (.bufResultReturn n k) s = .next t ∧ t.bufRec h = { s.bufRec h with refs := (s.bufRec h).refs + 1 } ∧
        (rd ≠ 0 → t.g n.val rd = 0)) ∧
    (∀ h rest len a owner rd, s.grants = { thread := n.val, head := h } :: rest → (s.thr n.val).implicit = some (.alloc len a owner rd) →
      (s.thr n.val).aborting = false → (s.thr n.val).state = .waiting → ∃ t u : State, exec (.allocGrant n) s = .next t ∧
        ({ s with grants := rest } : State).OnlyThread u n.val ∧ (u.thr n.val).state = .running ∧ (u.thr n.val).implicit = none ∧
        u.Wrote n.val rd (BitVec.ofNat 64 h) t)

/-! ### Queues and host links -/

/-- R149, R152, R165, R170, R172: a doorbell write that its function and Span take stores PI as far as the ring allows, or CI of an EVENT queue up to
PI; arming an EVENT queue with nothing new arms it; INVAL sets CI back to the first entry not begun and empties the cache; PEND_CLEAR clears the
bits written as 1. A doorbell of a number the Span does not have is an Unsupported Request, and a Span that is not Enabled drops it. It rests on
the model's choices or readings of log entry 23, which no rule states. -/
def Obligations.DoorbellWrites : Prop :=
  ∀ (s : State) (n : SpanId) (i : Byte) (v : BitVec 32) (c : BitVec 16) (k : Fin 4) (m : Word) (f : Fn) (q : Nat),
    let x := s.queue q
    let size := s.ringSize q
    let p : BitVec 16 := v.setWidth 16
    let only (t : State) (y : Queue) : Prop := t = { s with queues := t.queues } ∧ t.queue q = y ∧ ∀ j, j ≠ q → t.queue j = s.queue j
    let toCi : BitVec 16 := if (x.pi - c).toNat ≤ size then c else x.pi
    let toPi : BitVec 16 := if (p - x.ci).toNat ≤ size then p else x.ci + BitVec.ofNat 16 size
    let starved : Prop := x.kind = 1 ∧ toPi = x.ci ∧ x.fetching = 0 ∧ x.cached = []
    let server := if x.isTx then x.bind else 16 + x.bind
    let awake : Prop := x.isTx = true ∨ x.kind = 2 → ∀ d ∈ server :: (if 16 ≤ server then [(server - 16) / 3] else []),
      s.domState d ≠ 1 ∧ s.domState d ≠ 2
    s.spanFn n.val = some f → s.spanBarOk n.val f = true → s.ideDrops f = false →
      (s.queueNo n.val i.toNat = some q → (s.span n.val).state = .enabled →
        (x.kind ≠ 3 → x.state ≠ .disabled → awake → ¬starved → ∃ t, exec (.dbPiWrite n i v) s = .next t ∧ only t { x with pi := toPi }) ∧
        (x.state ≠ .disabled → starved → ∃ t, exec (.dbPiWrite n i v) s = .next t ∧ (t.queue q).pi = toPi ∧
          ∀ p' < 4, ∀ g ∈ t.rx p', g.rxq = some q → g.placed ≠ none) ∧
        (x.isTx = true → x.kind ≠ 3 → x.state ≠ .disabled → x.bind < 4 → s.domState x.bind = 2 → ∃ t, exec (.dbPiWrite n i v) s = .next t ∧
          t.domState x.bind = 3 ∧ t.Event .PWR_EVT 0 2 ∧ t.queue q = { x with pi := toPi }) ∧
        (x.kind = 3 → x.state ≠ .disabled → x.ovfPending = false → x.evWait = [] → ∃ t, exec (.dbCiWrite n i c) s = .next t ∧
          only t { x with ci := toCi }) ∧
        (x.kind = 3 → x.state ≠ .disabled → x.ovfPending = false → x.evWait = [] → toCi = x.pi → ∃ t, exec (.eventArm n i c) s = .next t ∧
          only t { x with ci := toCi, armed := true }) ∧
        (x.state = .disabled → exec (.dbPiWrite n i v) s = .next s ∧ exec (.dbCiWrite n i c) s = .next s ∧
          exec (.eventArm n i c) s = .next s) ∧
        (x.kind ≠ 3 → x.charge = none → ∃ t, exec (.dbInval n i) s = .next t ∧ (t.queue q).cached = [] ∧ (t.queue q).fetching = 0 ∧
          (t.queue q).ci = (match x.cached with | e :: _ => e.cell | [] => x.ci) ∧ (t.queue q).pi = x.pi ∧ (t.queue q).di = x.di ∧
          ∀ j, j ≠ q → t.queue j = s.queue j) ∧
        (x.kind = 3 → exec (.dbInval n i) s = .next s) ∧
        (x.kind = 3 → ∃ t, exec (.dbPendClear n i k m) s = .next t ∧ only t { x with pend := (t.queue q).pend } ∧
          ∀ b, (t.queue q).pend.getLsbD b = (x.pend.getLsbD b && !(decide (64 * k.val ≤ b ∧ b < 64 * k.val + 64) && m.getLsbD (b - 64 * k.val))))) ∧
      (s.queueNo n.val i.toNat = none → ∃ t, exec (.dbPiWrite n i v) s = .next t ∧ t = { s with fns := t.fns, out := t.out } ∧
        (t.fn f).aerUncor.getLsbD 20 = true) ∧
      (s.queueNo n.val i.toNat ≠ none → (s.span n.val).state ≠ .enabled → exec (.dbPiWrite n i v) s = .next s)

/-- R150, R160–R163, R169: cells that come back from a fetch are cut into entries, which wait in the cache, those that a PI moved back has withdrawn
excepted; a poisoned fetch puts the queue in ERROR; an entry begins in order; a completed entry's completion is written to the first of its
cells, DI passes it and it is counted; a moderation interval that ends with nothing gathered stops. A NOP is the entry named. It rests on the
model's choices or readings of log entry 42, which no rule states. -/
def Obligations.EntryLifecycle : Prop :=
  ∀ (s : State) (q : QueueId),
    let k := q.val
    let x := s.queue k
    let only (t : State) (y : Queue) : Prop := t = { s with queues := t.queues } ∧ t.queue k = y ∧ ∀ j, j ≠ k → t.queue j = s.queue j
    let server := if x.isTx then x.bind else 16 + x.bind
    let awake : Prop := x.isTx = true ∨ x.kind = 2 → ∀ d ∈ server :: (if 16 ≤ server then [(server - 16) / 3] else []),
      s.domState d ≠ 1 ∧ s.domState d ≠ 2
    let more (l : List Entry) : Prop := x.kind = 1 → l ≠ [] ∨ x.pi ≠ x.ci ∨ x.fetching ≠ 0
    let nop (e : Entry) : Prop := e.cells.length = 1 ∧ e.opcode = 0 ∧ cellBits e.hdr 8 4 = 0 ∧ cellBits e.hdr 12 4 = 0
    (∀ f n, s.queueRuns k = true → x.kind ≠ 3 → s.trussFull k = false → s.wireFull k = false → s.chargeWaits k = false → x.fetching = 0 →
      x.cached = [] → s.pend .QE_CTX_CFG k = {} →
      s.RingOpen k f → n = 1 → n ≤ (x.pi - x.ci).toNat → (x.ci - x.di).toNat + n ≤ s.ringSize k → 1 ≤ s.fld F.QE_CTX_CFG_PREFETCH k →
      s.cacheUse + n ≤ 65536 → awake → (∃ t, s.freeTag (s.fnLink f) 16384 0 = some t) → ∃ t, exec (.entryFetchIssue q ⟨1, by decide⟩) s = .next t ∧
        (t.queue k).fetching = 1 ∧ t.out = .hostRead f (s.ringAddr k x.ci) 16 false :: s.out) ∧
    (∀ c, x.fetching = 1 → x.pi ≠ x.ci → x.kind < 2 → nop ⟨x.ci, [c]⟩ → s.pend .QE_CTX_CFG k = {} → (s.span x.span).state = .enabled →
      ∃ t, exec (.entryFetchReturn q [c] false) s = .next t ∧
        only { t with regs := s.regs, shadow := s.shadow } { x with fetching := 0, ci := x.ci + 1, cached := x.cached ++ [⟨x.ci, [c]⟩] }) ∧
    (∀ cells, x.fetching ≠ 0 → x.pi = x.ci → x.kind ≠ 1 → (s.span x.span).state = .enabled → ∃ t, exec (.entryFetchReturn q cells false) s = .next t ∧
      only t { x with fetching := 0 }) ∧
    (x.fetching ≠ 0 → x.state = .active → s.pend .QE_CTX_CFG k = {} → s.fld F.QE_CTX_CFG_EQ k = 0xFF → ∃ t, exec (.entryFetchReturn q [] true) s = .next t ∧
      (t.queue k).state = .error ∧ (t.queue k).fetching = 0 ∧ t.Event .QE_EVT 0 0) ∧
    (x.fetching = 0 → exec (.entryFetchReturn q [] true) s = .next s) ∧
    (∀ e rest, x.cached = e :: rest → more rest → nop e → x.kind < 2 → s.queueRuns k = true → ∃ t, exec (.entryBegin q none) s = .next t ∧
      only t { x with cached := rest, charge := none, begun := x.begun ++ [{ entry := e, result := some { time := s.wide }, head := x.charge }] }) ∧
    (∀ b c f, x.begun = [b] → b.result = some c → b.parts = 0 → b.causes = [] → b.given = none → b.written = false → b.head = none →
      b.entry.cells.length = 1 → b.entry.irq = false → x.disabling = none → s.RingOpen k f → ∃ t, exec (.entryComplete q) s = .next t ∧
        (t.queue k).begun = [] ∧ (t.queue k).di = b.entry.cell + 1 ∧ (t.queue k).completions = x.completions + 1 ∧
        (t.queue k).bytes = x.bytes + BitVec.ofNat 64 c.bytes ∧ (∀ j, j ≠ k → t.queue j = s.queue j) ∧
        t.out = .hostWrite f (s.ringAddr k b.entry.cell) (toBytesLE 16 (complCell0 b.entry.hdr 0 c).toNat) false false :: s.out) ∧
    (x.modRunning = true → x.gathered = 0 → ∃ t, exec (.modIntervalExpire q) s = .next t ∧ only t { x with modRunning := false }) ∧
    (x.modRunning = false → exec (.modIntervalExpire q) s = .next s)

/-- R167, R537: ENABLE of a DISABLED queue makes it ACTIVE, DISABLE of an ACTIVE one, or one in ERROR, DISABLED, once nothing begun of it is left,
RESTART of one in ERROR ACTIVE, and ZERO of a DISABLED one clears its indices; each ends with its result and CMD_DONE; in any other state of the
queue with WRONG_STATE, of a queue of a locked TDI with TDISP_LOCKED, and while one runs with BUSY, the queue as before. It rests on the model's
choices or readings of log entry 129, which no rule states. -/
def Obligations.QueueCommands : Prop :=
  ∀ (s : State) (q : Seq),
    let k := s.fld F.QE_Q_SEL_QUEUE 0
    let x := s.queue k
    let ended (t : State) (code : Nat) : Prop :=
      t.Ended F.QE_Q_STATUS_LAST_RESULT F.QE_Q_STATUS_LAST_SEQ 0 code q ∧ t.Event .QE_EVT 0 1
    let ends (c : Instr) (code : Nat) : Prop := ∃ t, exec c s = .next t ∧ s.OnlySignals t ∧ ended t code
    let all : List Instr := [.queueEnable q, .queueDisable q, .queueRestart q, .queueZero q]
    let ready : Prop := s.flag F.QE_Q_STATUS_BUSY 0 = false ∧ x.used = true ∧ s.tdiLocked x.span = false
    s.regOpen .QE_Q_CMD 0 = true →
    (ready → x.state = .disabled → x.ovfPending = false → ∃ t, exec (.queueEnable q) s = .next t ∧
      s.OnlySignals { t with queues := s.queues } ∧ ended t 0 ∧ t.queue k = { x with state := .active } ∧ ∀ j, j ≠ k → t.queue j = s.queue j) ∧
    (ready → x.state ≠ .disabled → x.begun = [] → x.charge = none → ∃ t, exec (.queueDisable q) s = .next t ∧ ended t 0 ∧
      (t.queue k).state = .disabled ∧ (t.queue k).disabling = none ∧ (t.queue k).cached = [] ∧ t.fld F.QE_Q_STATUS_BUSY 0 = 0) ∧
    (ready → x.state ≠ .disabled → x.begun ≠ [] → x.charge = none → ∃ t, exec (.queueDisable q) s = .next t ∧
      (t.queue k).state = .disabled ∧ (t.queue k).disabling = some q ∧ t.fld F.QE_Q_STATUS_BUSY 0 = 1) ∧
    (ready → x.state = .error → x.ovfPending = false → ∃ t, exec (.queueRestart q) s = .next t ∧ ended t 0 ∧
      s.OnlySignals { t with queues := s.queues } ∧ t.queue k = { x with state := .active }) ∧
    (ready → x.state = .disabled → ∃ t, exec (.queueZero q) s = .next t ∧ ended t 0 ∧ s.OnlySignals { t with queues := s.queues } ∧
      t.queue k = { x with pi := 0, ci := 0, di := 0 }) ∧
    (ready → x.state ≠ .disabled → ends (.queueEnable q) 2 ∧ ends (.queueZero q) 2) ∧ (ready → x.state ≠ .error → ends (.queueRestart q) 2) ∧
    (ready → x.state = .disabled → ends (.queueDisable q) 2) ∧
    (s.flag F.QE_Q_STATUS_BUSY 0 = true → ∀ c ∈ all, ends c 1) ∧
    (s.flag F.QE_Q_STATUS_BUSY 0 = false → x.used = true → s.tdiLocked x.span = true → ∀ c ∈ all, ends c 3)

/-- R177–R179, R183, R185, R538: an outbound word is stored where none is, and marked for the Manager unless a Truss is the endpoint; a word
that meets one not yet taken sets OVERRUN and is lost; reading the inbound word clears it; MBX_TO stores to a free inbound side and sets
TO_DROPPED at one that is full or a Truss's; an access of a page narrower than 8 bytes stores nothing, reads 0 and changes nothing; MBX_FROM takes the outbound word. A word for a GATED Truss wakes it. A frame for an RX queue that is
not ACTIVE is dropped and counted; one that meets a RECV entry of an ACTIVE queue is written to the host and ends the entry's data. -/
def Obligations.MailboxesAndReceive : Prop :=
  ∀ (s : State) (e : MbxEnd) (w : Word) (f : Fn) (p : Pier) (k : Fin 256),
    let c := mbxChan e
    let x := s.mail c
    let d := s.fld F.MBX_SEL_CHANNEL 0
    let y := s.mail d
    let sole (t : State) (i : Nat) (z : Mbx) : Prop := t.mail i = z ∧ ∀ j, j ≠ i → t.mail j = s.mail j
    let awake (d : Nat) : Prop := s.domState d ≠ 1 ∧ s.domState d ≠ 2
    let more (q : Nat) (l : List Entry) : Prop := l ≠ [] ∨ (s.queue q).pi ≠ (s.queue q).ci ∨ (s.queue q).fetching ≠ 0
    (s.mbxFn e = some f → s.ideDrops f = false → s.mbxOk e f = true → s.mbxAnswers e = true →
      (x.outFull = false → s.mbxTruss c = none → ∃ t, exec (.mbxOutWrite ⟨e, true⟩ w) s = .next t ∧
        s.OnlySignals { t with mbx := s.mbx } ∧ sole t c { x with outWord := w, outFull := true } ∧ t.Event .MBX_EVT 0 0 ∧
        t.Event .MBX_FULL_MAP (c / 64) (c % 64)) ∧
      (∀ n, x.outFull = false → s.mbxTruss c = some n → awake (16 + n) → awake (n / 3) → ∃ t, exec (.mbxOutWrite ⟨e, true⟩ w) s = .next t ∧
        t = { s with mbx := t.mbx } ∧ sole t c { x with outWord := w, outFull := true }) ∧
      (∀ n, x.outFull = false → s.mbxTruss c = some n → n < 12 → s.domState (16 + n) = 2 → ∃ t, exec (.mbxOutWrite ⟨e, true⟩ w) s = .next t ∧
        t.domState (16 + n) = 3 ∧ sole t c { x with outWord := w, outFull := true }) ∧
      (x.outFull = true → ∃ t, exec (.mbxOutWrite ⟨e, true⟩ w) s = .next t ∧ t = { s with mbx := t.mbx } ∧ sole t c { x with overrun := true }) ∧
      (∃ t, exec (.mbxInRead ⟨e, true⟩) s = .next t ∧ t = { s with mbx := t.mbx, out := .readData x.inWord :: s.out } ∧
        sole t c { x with inWord := 0, inFull := false }) ∧
      exec (.mbxOutWrite ⟨e, false⟩ w) s = .next s ∧ exec (.mbxInRead ⟨e, false⟩) s = .next { s with out := .readData 0 :: s.out }) ∧
    (s.regOpen .MBX_TO 0 = true → s.mbxTruss d = none → y.inFull = false → y.irqEn = false → ∃ t, exec (.mbxToWrite w) s = .next t ∧ t = { s with mbx := t.mbx } ∧
      sole t d { y with inWord := w, inFull := true }) ∧
    (s.regOpen .MBX_TO 0 = true → y.inFull = true ∨ s.mbxTruss d ≠ none → ∃ t, exec (.mbxToWrite w) s = .next t ∧ s.OnlyRegs t [(.MBX_STATUS, d)] ∧ t.fld F.MBX_STATUS_TO_DROPPED d = 1) ∧
    (s.regOpen .MBX_FROM 0 = true → ∃ t, exec .mbxFromRead s = .next t ∧
      t = { s with mbx := t.mbx, regs := t.regs, out := .readData y.outWord :: s.out } ∧ sole t d { y with outWord := 0, outFull := false } ∧
      bitOf (t.reg .MBX_FULL_MAP (d / 64)) (d % 64) = false) ∧
    (∀ g q, (s.rx p.val)[k.val]? = some g → g.rxq = some q → g.placed = none → (∀ g' ∈ (s.rx p.val).take k.val, g'.rxq ≠ some q) →
      (s.queue q).state ≠ .active → g.head = none → ∃ t, exec (.rxFrameDeliver p k) s = .next t ∧ t.rx p.val = (s.rx p.val).eraseIdx k.val ∧
        (t.queue q).drops = min ((s.queue q).drops + 1) 0xFFFFFFFF ∧
        t.fld F.QE_RX_DROP_CNT_COUNT 0 = min (s.fld F.QE_RX_DROP_CNT_COUNT 0 + 1) 0xFFFFFFFF) ∧
    (∀ g q r rest, (s.rx p.val)[k.val]? = some g → g.rxq = some q → g.placed = none → g.head = none → g.poisoned = false →
      (∀ g' ∈ (s.rx p.val).take k.val, g'.rxq ≠ some q) → (∀ p' < 4, ∀ g' ∈ s.rx p', g'.rxq = some q → g'.placed ≠ some r.cell) →
      (s.queue q).state = .active → (s.queue q).cached = r :: rest → more q rest → r.opcode = 0x10 → r.malformed (s.queue q).kind = false →
      (r.barrier = false ∨ (s.queue q).begun = []) → (∀ b ∈ (s.queue q).begun, b.entry.cell ≠ r.cell) → s.qeStopped = false →
      s.RingOpen q f → ∃ t, exec (.rxFrameDeliver p k) s = .next t ∧
        let room := (r.elements.map Prod.snd).sum
        let bs := g.bytes.take room
        let parts := ((scatter r.elements bs).map fun v => s.writeCut f v.1 v.2).flatten
        t.rx p.val = (s.rx p.val).eraseIdx k.val ∧ (∀ j, j ≠ q → t.queue j = s.queue j) ∧
        t.queue q = { s.queue q with
          cached := rest
          begun := (s.queue q).begun ++ [{
            entry := r
            causes := (if room < g.bytes.length then [2] else []) ++ (if g.trunc then [13] else []) ++ (if g.authFail then [6] else [])
            result := some { bytes := bs.length, info := rxInfo g, time := g.time, hash := g.hash, mark := g.mark } }] } ∧
        t.out = (parts.map fun v => Out.hostWrite f v.addr v.data false (s.relaxedOrder q r f)).reverse ++ s.out)

/-- R81, R85, R86: what each event does to a link: HELD, TRAINING and UP with their events, link information and the reset of the functions behind
it, sticky AER status kept but by a fundamental reset; in another state of the link an event that needs a certain one changes nothing. The resets
are stated of a link without Spans and outstanding requests. It rests on the model's choices or readings of log entries 71 and 98, which no rule
states. -/
def Obligations.HostLinkEvents : Prop :=
  ∀ (s : State) (h : Link) (speed : Fin 8) (width : Fin 17) (flit : Bool) (b : Fin 16),
    let st := s.linkState h.val
    let quiet : Prop := (s.face h.val).count = 0 ∧ s.tags = [] ∧ s.walks = [] ∧ s.stalled = []
    let pf := s.fn (.pf h)
    let at_ (t : State) (v : Nat) : Prop := t.linkState h.val = v ∧ ∀ k, k < 8 → k ≠ h.val → t.linkState k = s.linkState k
    let sticky : FnCfg := { aerUncor := pf.aerUncor, aerCor := pf.aerCor, aerMask := pf.aerMask, aerSev := pf.aerSev, aerCorMask := pf.aerCorMask }
    (st = 2 → ∃ t, exec (.phyCalibrated h) s = .next t ∧ t = { s with links := t.links } ∧ t.link h.val = { s.link h.val with calibrated := true }) ∧
    (st = 2 → (s.link h.val).calibrated = true → ∃ t, exec (.linkUp h speed width flit) s = .next t ∧ at_ t 3 ∧
      getBits (t.reg .HEP_LINK_INFO h.val) 0 3 = speed.val ∧ getBits (t.reg .HEP_LINK_INFO h.val) 4 5 = min width.val (s.linkLanes h.val) ∧
      getBits (t.reg .HEP_LINK_INFO h.val) 9 1 = (if flit = true ∨ 6 ≤ speed.val then 1 else 0) ∧ t.Event .HEP_LINK_EVT 0 (24 + h.val) ∧
      (t.link h.val).cfgReady = false) ∧
    (st = 3 → ∃ t, exec (.configReady h) s = .next t ∧ t = { s with links := t.links } ∧ (t.link h.val).cfgReady = true) ∧
    (st = 3 → exec (.linkRecovery h none) s = .next s) ∧
    (st = 3 → ∃ t, exec (.linkRecovery h (some b)) s = .next t ∧ at_ t 3 ∧ (t.fn (.pf h)).aerCor = pf.aerCor ||| (1 <<< b.val) ∧
      (t.fn (.pf h)).aerUncor = pf.aerUncor) ∧
    (st = 3 → quiet → ∃ t, exec (.hotReset h) s = .next t ∧ at_ t 2 ∧ (t.link h.val).cfgReady = false ∧ t.fn (.pf h) = sticky ∧
      t.reg .HEP_LINK_INFO h.val = 0 ∧ t.Event .HEP_LINK_EVT 0 (8 + h.val)) ∧
    (st = 3 → quiet → ∃ t, exec (.linkLost h) s = .next t ∧ at_ t 2 ∧ (t.link h.val).cfgReady = false ∧ t.fn (.pf h) = sticky ∧
      t.Event .HEP_LINK_EVT 0 (16 + h.val)) ∧
    (st = 3 → quiet → ∃ t, exec (.perstAssert h) s = .next t ∧ at_ t 1 ∧ t.fn (.pf h) = {} ∧ t.Event .HEP_LINK_EVT 0 h.val) ∧
    (st = 2 → ∃ t, exec (.perstAssert h) s = .next t ∧ at_ t 1 ∧ t.spans = s.spans ∧ t.fns = s.fns) ∧
    (st = 1 → s.dev ≠ .bootFailed → bitOf (s.reg .CFG_HOST_PENDING 0) h.val = false → ∃ t, exec (.perstRelease h) s = .next t ∧ at_ t 2 ∧
      (t.link h.val).perst = false ∧ t.fn (.pf h) = {}) ∧
    (st = 1 → s.dev ≠ .bootFailed → bitOf (s.reg .CFG_HOST_PENDING 0) h.val = true → ∃ t, exec (.perstRelease h) s = .next t ∧
      at_ t 2 ∧ (t.face h.val) = SMap.get {} s.facesNext h.val ∧ bitOf (t.reg .CFG_HOST_PENDING 0) h.val = false) ∧
    (st ≠ 3 → exec (.hotReset h) s = .next s ∧ exec (.linkLost h) s = .next s ∧ exec (.configReady h) s = .next s ∧
      exec (.linkRecovery h (some b)) s = .next s)

/-- R70, R77, R81, R86–R88, R540: function-level resets bring the function to its reset values, sticky AER status kept, the others as they were;
unmasking a vector of a function that serves memory requests sends a message whose PBA bit stands; configuration requests read a function's
identity, set its Command register, and answer Retry before the link is ready and Unsupported Request for a function that the link does not
carry. It rests on the model's choices or readings of log entries 23, 73 and 98, which no rule states. -/
def Obligations.FunctionResetsAndConfiguration : Prop :=
  ∀ (s : State) (h : Link) (n : SpanId) (bus : Byte) (v : BitVec 32) (f : Fn) (k : Fin 2048),
    let pf := s.fn (.pf h)
    let vf := s.fn (.vf h n)
    let span := (s.face h.val).base + n.val
    let sticky (c : FnCfg) : FnCfg :=
      { aerUncor := c.aerUncor, aerCor := c.aerCor, aerMask := c.aerMask, aerSev := c.aerSev, aerCorMask := c.aerCorMask }
    let quiet : Prop := (s.face h.val).count = 0 ∧ s.tags = []
    let idle : Prop := (s.span span).state = .disabled ∧ (s.span span).tdi = .unlocked ∧ s.spanCmd = none ∧ s.tags = [] ∧ s.walks = [] ∧
      s.stalled = []
    let m := s.vec f k.val
    let heard : Prop := s.linkUp h.val = true ∧ s.stream h.val 0 ≠ .insecure
    let ready : Prop := heard ∧ s.dev = .running ∧ (s.link h.val).cfgReady = true
    (s.linkState h.val = 3 → quiet → ∃ t, exec (.pfFlr h) s = .next t ∧ t.fn (.pf h) = { sticky pf with bus := pf.bus } ∧
      t.fld F.TIM_PTM_STATUS_VALID h.val = 0 ∧ t.doe (.pf h) = {} ∧ t.linkState h.val = 3) ∧
    (s.linkState h.val = 3 → pf.vfEnable = true → n.val < pf.numVfs → idle → ∃ t, exec (.vfFlr h n) s = .next t ∧ t.fn (.vf h n) = sticky vf ∧
      t.vec (.vf h n) k.val = {} ∧ t.fn (.pf h) = pf) ∧
    (pf.vfEnable = true → quiet → ∃ t, exec (.vfEnableClear h) s = .next t ∧ t.fn (.pf h) = { pf with vfEnable := false }) ∧
    (pf.vfEnable = false → exec (.vfEnableClear h) s = .next s) ∧
    (∃ t, exec .mfFlr s = .next t ∧ t.fn .mf = sticky (s.fn .mf) ∧ t.fn (.pf h) = pf ∧ t.vsAddr = 0 ∧ t.vec .mf k.val = {} ∧ t.doe .mf = {}) ∧
    (s.ideDrops f = true → exec (.msixUnmask f k) s = .next s) ∧
    (s.ideDrops f = false → (s.barRefuses f = true ∨ State.vectorsOf f ≤ k.val) → ∃ t, exec (.msixUnmask f k) s = .next t ∧ t.msix = s.msix ∧
      (t.fn f).aerUncor.getLsbD 20 = true) ∧
    (s.ideDrops f = false → s.barRefuses f = false → k.val < State.vectorsOf f → (s.fn f).msixEnable = true → (s.fn f).msixMask = false →
      (m.pending = false → ∃ t, exec (.msixUnmask f k) s = .next t ∧ t = { s with msix := t.msix } ∧ t.vec f k.val = { m with masked := false }) ∧
      (m.pending = true → (s.fn f).bme = true → ∃ t, exec (.msixUnmask f k) s = .next t ∧
        t = { s with msix := t.msix, out := .msix f k.val :: s.out } ∧ t.vec f k.val = { m with masked := false, pending := false })) ∧
    (ready → ∃ t, exec (.configRequest h bus 0 (.read .ids)) s = .next t ∧ t = { s with fns := t.fns, out := t.out } ∧
      t.out = .cfgDone .success 0x96411F7E :: s.out ∧ t.fn (.pf h) = { pf with bus := bus }) ∧
    (ready → v.getLsbD 2 = false → ∃ t, exec (.configRequest h bus 0 (.write .command v)) s = .next t ∧ t = { s with fns := t.fns, out := t.out } ∧
      t.fn (.pf h) = { pf with bus := bus, mse := v.getLsbD 1, bme := false } ∧ t.out = .cfgDone .success 0 :: s.out) ∧
    (s.stream h.val 0 = .insecure → exec (.configRequest h bus 0 (.read .ids)) s = .next s) ∧
    (heard → (s.dev ≠ .running ∨ (s.link h.val).cfgReady = false) →
      exec (.configRequest h bus 0 (.read .ids)) s = .next { s with out := .cfgDone .retry 0 :: s.out }) ∧
    (ready → exec (.configRequest h bus 2 (.read .ids)) s = .next { s with out := .cfgDone .unsupported 0 :: s.out })

/-- R90–R94, R101, R104: the completion that brings a read's last bytes frees its tag and gives an entry its data, and one before it only adds its
bytes; a timeout quarantines the tag, is counted, sets the AER bit and gives an entry the cause HOST_TIMEOUT; a late or an unexpected completion
sets the AER bits and changes no tag; the quarantine ends with a free tag; a malformed TLP sets its AER bit; an IDE failure makes a Secure stream
Insecure, sets its AER bit and takes the locked TDIs of the stream to ERROR. On a link that is not Up, and on an Insecure stream, completions and
malformed TLPs change nothing. A poisoned completion is counted, sets its AER bit and marks the entry's data. Named with nothing else waiting and
a Span of the request that is not Quiescing. It rests on the model's choices or readings of log entries 23, 71 and 73, which no rule states. -/
def Obligations.CompletionsAndErrors : Prop :=
  ∀ (s : State) (h : Link) (k : Fin 16384) (data : List Byte) (f : Fn) (i : Fin 5) (r : HostReq) (q : Nat) (cell : BitVec 16) (el : Nat),
    let only (t : State) (x : Tag) : Prop := t.tag h.val k.val = x ∧ ∀ h' k', h' < 8 → k' < 16384 → ¬(h' = h.val ∧ k' = k.val) →
      t.tag h' k' = s.tag h' k'
    let quiet : Prop := (∀ n, r.span = some n → (s.span n).state ≠ .quiescing) ∧ s.walks = [] ∧ s.stalled = [] ∧ s.atsWait = [] ∧ s.invals = []
    let got := r.recv ++ data
    let taken (f : Fn) : Prop := s.ideDrops f = false
    let come := Instr.completionReceived h k false data
    let poison := Instr.completionReceived h k true data
    let marked (t : State) : Prop := t.fld F.HEP_POISON_CNT_IN 0 = min (s.fld F.HEP_POISON_CNT_IN 0 + 1) 0xFFFFFFFF ∧
      (t.fn r.fn).aerUncor.getLsbD 12 = true
    let entry (t : State) (g : Begun → Begun) : Prop :=
      (t.queue q).begun = (s.queue q).begun.map fun b => if b.entry.cell = cell then g b else b
    (s.linkUp h.val = true → taken r.fn → s.tag h.val k.val = .outstanding r → got.length < r.len → ∃ t, exec come s = .next t ∧
      only t (.outstanding { r with recv := got }) ∧ t = { s with tags := t.tags }) ∧
    (s.linkUp h.val = true → taken r.fn → s.tag h.val k.val = .outstanding r → quiet → r.dep = .data q cell el → r.len ≤ got.length →
      ∃ t, exec come s = .next t ∧ only t .free ∧ t = { s with tags := t.tags, queues := t.queues } ∧
        entry t fun b => { b with parts := b.parts - 1, data := b.data ++ [(r.part, got.take r.len)], bad := b.bad || r.bad }) ∧
    (s.linkUp h.val = true → taken r.fn → s.tag h.val k.val = .outstanding r → got.length < r.len → ∃ t, exec poison s = .next t ∧ marked t ∧
      only t (.outstanding { r with recv := got, bad := true }) ∧ t.queues = s.queues) ∧
    (s.linkUp h.val = true → taken r.fn → s.tag h.val k.val = .outstanding r → quiet → r.dep = .data q cell el → r.len ≤ got.length →
      ∃ t, exec poison s = .next t ∧ marked t ∧ only t .free ∧
        entry t fun b => { b with parts := b.parts - 1, data := b.data ++ [(r.part, got.take r.len)], bad := true }) ∧
    (s.linkUp h.val = true → taken (.pf h) → s.tag h.val k.val = .free ∨ s.tag h.val k.val = .quarantined → ∃ t, exec come s = .next t ∧
      t.tags = s.tags ∧ (t.fn (.pf h)).aerUncor.getLsbD 16 = true ∧
      ((s.fn (.pf h)).aerSev.getLsbD 16 = false → (t.fn (.pf h)).aerCor.getLsbD 13 = true) ∧
      (s.tag h.val k.val = .quarantined → t.fld F.HEP_LATE_CPL_COUNT 0 = min (s.fld F.HEP_LATE_CPL_COUNT 0 + 1) 0xFFFFFFFF)) ∧
    (s.linkUp h.val = false → exec come s = .next s) ∧
    (s.tag h.val k.val = .outstanding r → s.ideDrops r.fn = true → exec come s = .next s) ∧
    (s.tag h.val k.val = .outstanding r → quiet → r.dep = .data q cell el → ∃ t, exec (.cplTimeout h k) s = .next t ∧ only t .quarantined ∧
      (t.fn r.fn).aerUncor.getLsbD 14 = true ∧ t.fld F.HEP_CPL_TO_CNT_COUNT 0 = min (s.fld F.HEP_CPL_TO_CNT_COUNT 0 + 1) 0xFFFFFFFF ∧
      entry t fun b => { b with causes := b.causes ++ [4], parts := b.parts - 1 }) ∧
    ((∀ r, s.tag h.val k.val ≠ .outstanding r) → exec (.cplTimeout h k) s = .next s) ∧
    (s.tag h.val k.val = .quarantined → s.walks = [] → s.stalled = [] → ∃ t, exec (.tagQuarantineExpire h k) s = .next t ∧
      t = { s with tags := t.tags } ∧ only t .free) ∧
    (s.tag h.val k.val ≠ .quarantined → exec (.tagQuarantineExpire h k) s = .next s) ∧
    (s.linkUp (s.fnLink f) = true → taken f → ∃ t, exec (.malformedTlp f) s = .next t ∧ (t.fn f).aerUncor.getLsbD 18 = true ∧
      t.tags = s.tags ∧ t.queues = s.queues ∧ s.SameMemory t) ∧
    (s.linkUp (s.fnLink f) = false ∨ s.ideDrops f = true → exec (.malformedTlp f) s = .next s) ∧
    (s.stream h.val i.val = .secure → ∃ t, exec (.ideFail h i) s = .next t ∧ t.stream h.val i.val = .insecure ∧
      (t.fn (.pf h)).aerUncor.getLsbD 28 = true ∧ t.tags = s.tags ∧
      (∀ h' i', i' < 8 → ¬(h' = h.val ∧ i' = i.val) → t.stream h' i' = s.stream h' i') ∧
      ∀ n ∈ s.linkSpans h.val, (s.span n).stream = i.val → s.tdiLocked n = true → (t.span n).tdi = .error) ∧
    (s.stream h.val i.val ≠ .secure → exec (.ideFail h i) s = .next s)

/-- R96, R98–R100, R102, R104, R128, R483: a DOE mailbox on a link that is Up answers a request at once, GET_VERSION with version 1.3 and, without
keys, all but three kinds with ERROR, and holds the answer until it is read; an abort discards request and answer and keeps the sessions; IDE_KM
programs a stream inside a session; LOCK_INTERFACE binds a Span that can be a TDI to a Secure stream, STOP_INTERFACE unlocks it; invalidations,
of the host and of the Manager, drop cached translations in their scope. It rests on the model's choices or readings of log entries 45 and 99,
which no rule states. -/
def Obligations.SecureLinkProtocols : Prop :=
  ∀ (s : State) (h : Link) (m : DoeMbx) (k : IdeProg) (len : Nat) (req : SpdmReq) (n : SpanId) (sc : BitVec 2) (page : BitVec 52) (q : Seq),
    let d := s.doe m
    let x := s.span n.val
    let ask : Instr := .doeRequest m { req := .getVersion, len := len }
    let asks : Instr := .doeRequest m { req := req, len := len }
    let early : List SpdmReq := [.getVersion, .getCapabilities, .negotiateAlgorithms]
    let tdisp (c : Instr) (a : TdispAnswer) : Prop := exec c s = .next { s with out := .tdisp n.val a :: s.out }
    let hit (y : Xlate) : Prop := y.span = n.val ∧ invCovers sc n.val page.toNat y = true
    let waits := s.tagsOf fun r => r.span == some n.val && invRequest sc n.val page.toNat r
    let answer : DoeResp := { req := .getVersion, body := { version := some 0x13 } }
    (s.doeUp m = true → len ≤ 65536 → d.response = none → d.waiting = [] → ∃ t, exec ask s = .next t ∧
      t = { s with does := t.does, out := .spdm m answer :: s.out } ∧ t.doe m = { d with response := some answer }) ∧
    (s.doeUp m = true → len ≤ 65536 → d.response = none → d.waiting = [] → ∃ t b, exec asks s = .next t ∧ t.out = .spdm m b :: s.out ∧
      (t.doe m).response = some b ∧ (t.doe m).waiting = [] ∧ b.req = req ∧ (req ∈ early → b.error = none) ∧
      (s.sec.dice = false → req ∉ early → b.error = some .unspecified ∧ (t.doe m).sessions = d.sessions ∧ t.spans = s.spans) ∧
      (s.sec.dice = true → req = .keyExchange → (b.error = none ↔ d.sessions ≠ 0xF)) ∧
      (∀ j, s.sec.dice = true → req = .tdispStart j → (s.span j.val).tdi = .locked → b.error = none ∧ (t.span j.val).tdi = .run)) ∧
    (s.doeUp m = true → len ≤ 65536 → d.response ≠ none → ∃ t, exec asks s = .next t ∧ t = { s with does := t.does } ∧
      t.doe m = { d with waiting := d.waiting ++ [req] }) ∧
    (s.doeUp m = false ∨ 65536 < len → exec asks s = .next s) ∧
    (∃ t, exec (.doeAbort m) s = .next t ∧ t = { s with does := t.does } ∧ t.doe m = { d with waiting := [], response := none }) ∧
    ((s.doe (.pf h)).finished ≠ 0 → ∃ t, exec (.ideKmKeyProg h k) s = .next t ∧ t = { s with ide := t.ide, ideKeys := t.ideKeys } ∧
      t.stream h.val k.stream.val = .secure ∧ SMap.get 0 t.ideKeys (State.ideKey h.val k.stream.val) = k.key ∧
      ∀ h' i', i' < 8 → ¬(h' = h.val ∧ i' = k.stream.val) → t.stream h' i' = s.stream h' i') ∧
    ((s.doe (.pf h)).finished = 0 → exec (.ideKmKeyProg h k) s = .next s) ∧
    (∀ i, s.sec.dice = true → x.tdispCapable = true → x.tdi = .unlocked → s.secureStream n.val = some i →
      ∃ t, exec (.lockInterfaceRequest n) s = .next t ∧ t = { s with spans := t.spans, out := .tdisp n.val .ok :: s.out } ∧
        t.span n.val = { x with tdi := .locked, stream := i } ∧ ∀ j, j ≠ n.val → t.span j = s.span j) ∧
    (s.sec.dice = true → x.tdispCapable = true → x.tdi ≠ .unlocked → tdisp (.lockInterfaceRequest n) .invalidInterfaceState) ∧
    (s.sec.dice = true → x.tdispCapable = true → x.tdi = .unlocked → s.secureStream n.val = none →
      tdisp (.lockInterfaceRequest n) .invalidDeviceConfiguration) ∧
    (s.sec.dice = false → tdisp (.lockInterfaceRequest n) .unspecified) ∧
    (s.sec.dice = true → x.tdispCapable = false → tdisp (.lockInterfaceRequest n) .unsupportedRequest) ∧
    (x.tdispCapable = false → tdisp (.stopInterfaceRequest n) .unsupportedRequest) ∧
    (x.tdispCapable = true → (x.tdi = .error → s.walks = [] ∧ s.stalled = [] ∧ s.msixWait = [] ∧ s.queues = []) → ∃ t, exec (.stopInterfaceRequest n) s = .next t ∧
      t = { s with spans := t.spans, out := .tdisp n.val .ok :: s.out } ∧ t.span n.val = { x with tdi := .unlocked, stream := 0 }) ∧
    (∀ f, s.spanFn n.val = some f → s.ideDrops f = true → exec (.atsInvalidation n sc page) s = .next s) ∧
    ((∀ f, s.spanFn n.val = some f → s.ideDrops f = false) → ∃ t, exec (.atsInvalidation n sc page) s = .next t ∧
      t = { s with tlb := t.tlb, atsWait := t.atsWait, out := t.out } ∧ (∀ y, y ∈ t.tlb ↔ y ∈ s.tlb ∧ ¬hit y) ∧
      (waits = [] → t.atsWait = s.atsWait ∧ t.out = .atsDone n.val :: s.out) ∧
      (waits ≠ [] → t.atsWait = s.atsWait ++ [(n.val, waits)] ∧ t.out = s.out)) ∧
    (s.tags = [] → (∀ f, s.spanFn n.val = some f → s.ideDrops f = false) → ∃ t, exec (.atsInvalidation n 2 page) s = .next t ∧ t = { s with tlb := t.tlb, out := .atsDone n.val :: s.out } ∧
      ∀ y, y ∈ t.tlb ↔ y ∈ s.tlb ∧ y.span ≠ n.val) ∧
    (s.regOpen .STU_INV_CMD 0 = true → s.invals.length < 16 → ∃ t, exec (.stuInvCmd n 2 q) s = .next t ∧ (∀ y, y ∈ t.tlb ↔ y ∈ s.tlb ∧ y.span ≠ n.val) ∧ t.fld F.STU_INV_STATUS_BUSY 0 = 1 ∧
      t.invals.length = s.invals.length + 1) ∧
    (s.regOpen .STU_INV_CMD 0 = true → s.invals.length < 16 → ∃ t, exec (.stuInvCmd n sc q) s = .next t ∧ t.fld F.STU_INV_STATUS_BUSY 0 = 1 ∧
      (∀ y, y ∈ t.tlb ↔ y ∈ s.tlb ∧ invCovers sc n.val (s.fld F.STU_INV_ADDR_ADDR 0) y = false) ∧ t.invals.length = s.invals.length + 1) ∧
    (s.regOpen .STU_INV_CMD 0 = true → 16 ≤ s.invals.length → ∃ w, exec (.stuInvCmd n sc q) s =
      .next { s with ring := s.ring ++ [.write (regOff .STU_INV_CMD 0) w] }) ∧
    (∀ v rest, s.invals = v :: rest → v.waitOn = [] → s.ring = [] → ∃ t, exec .invalidationDone s = .next t ∧ s.OnlySignals { t with invals := s.invals } ∧
      t.invals = rest ∧ t.fld F.STU_INV_STATUS_LAST_SEQ 0 = v.seq.toNat ∧ t.fld F.STU_INV_STATUS_BUSY 0 = (if rest = [] then 0 else 1) ∧
      t.Event .STU_EVT 0 4) ∧
    (∀ v rest, s.invals = v :: rest → v.waitOn ≠ [] → exec .invalidationDone s = .next s)

/-! ### Spans -/

/-- R103, R109, R112, R115–R118, R534, R536: the Span state machine: ENABLE, QUIESCE (of a Span without queues: drained at once), COMPLETE, RESET,
REMOVE and INIT, each from its state, with its result; RESET, REMOVE and INIT of a locked TDI are dropped and told (R103); from another state
WRONG_STATE, and BUSY while a long one runs. It rests on the model's choices or readings of log entry 92, which no rule states. -/
def Obligations.SpanStateCommands : Prop :=
  ∀ (s : State) (q : Seq) (n : SpanId),
    let k := s.fld F.STU_SPAN_SEL_SPAN 0
    let x := s.span k
    let ended (t : State) (code : Nat) : Prop :=
      t.Ended F.STU_SPAN_STATUS_LAST_RESULT F.STU_SPAN_STATUS_LAST_SEQ 0 code q ∧ t.Event .STU_EVT 0 4
    let ends (c : Instr) (code : Nat) : Prop := ∃ t, exec c s = .next t ∧ s.OnlySignals t ∧ ended t code
    let sole (t : State) (y : Span) : Prop := t.span k = y ∧ ∀ j, j ≠ k → t.span j = s.span j
    let started (t : State) (op : SpanOp) : Prop := t.spanCmd = some { op := op, span := k, seq := q } ∧ t.fld F.STU_SPAN_STATUS_CMD_BUSY 0 = 1
    let all : List Instr := [.spanEnable q, .spanQuiesce q, .spanComplete q, .spanReset q, .spanRemove q, .spanInit q, .spanExport q,
      .spanImport q, .logSwap q]
    let dropped (c : Instr) : Prop := ∃ t, exec c s = .next t ∧ s.OnlySignals { t with shadow := s.shadow } ∧ t.Event .HEP_TDISP_EVT 0 0
    let free : Prop := s.tdiLocked k = false
    s.regOpen .STU_SPAN_CMD 0 = true →
    (s.spanCmd ≠ none → ∀ c ∈ all, ends c 1) ∧
    (s.spanCmd = none →
      (x.state = .disabled ∨ (x.state = .quiesced ∧ x.resetRequired = false) →
        (s.vfPresent k = true → ∃ t, exec (.spanEnable q) s = .next t ∧ s.OnlySignals { t with spans := s.spans } ∧
          sole t { x with state := .enabled, drained := false, byReset := false } ∧ ended t 0) ∧
        (s.vfPresent k = false → ends (.spanEnable q) 5)) ∧
      (x.state = .quiesced → x.resetRequired = true → ends (.spanEnable q) 9) ∧
      (x.state = .enabled → s.queues = [] → s.tags = [] → s.walks = [] → s.stalled = [] → ∃ t, exec (.spanQuiesce q) s = .next t ∧
        s.OnlySignals { t with spans := s.spans } ∧
        sole t { x with state := .quiescing, drained := true, lateDone := false, byReset := false } ∧
        t.Event .STU_DRAINED_MAP (k / 64) (k % 64) ∧ t.Event .STU_EVT 0 0 ∧ ended t 0) ∧
      (x.state = .quiescing → x.drained = true → ∃ t, exec (.spanComplete q) s = .next t ∧
        sole t { x with state := .quiesced, drained := false, byReset := false } ∧ ended t 0) ∧
      (x.state = .quiescing → x.drained = false → ends (.spanComplete q) 3) ∧
      (x.state = .quiesced → free → ∃ t, exec (.spanReset q) s = .next t ∧ started t .reset ∧ t.spans = s.spans ∧ t.mbx = s.mbx) ∧
      (x.state = .quiesced → free → s.spanOwns k = false → ∃ t, exec (.spanRemove q) s = .next t ∧ sole t { x with state := .removed } ∧
        started t .remove ∧ t.fld F.STU_LOG_CTL_EN k = 0 ∧ ∀ w, w < 8 → t.reg .STU_WIN_CTL (8 * k + w) = 0) ∧
      (x.state = .quiesced → free → s.spanOwns k = true → ends (.spanRemove q) 4) ∧
      (¬free → (x.state = .quiesced → dropped (.spanReset q) ∧ dropped (.spanRemove q)) ∧ (x.state = .removed → dropped (.spanInit q))) ∧
      (x.state = .removed → free → s.queues = [] → ∃ t, exec (.spanInit q) s = .next t ∧
        sole t { queues := x.queues, firstQueue := x.firstQueue, tdispCapable := x.tdispCapable, tdi := x.tdi, stream := x.stream } ∧
        started t .init ∧ t.mail k = {} ∧ t.reg .STU_CTX_XLATE k = 0 ∧ t.fld F.STU_XFER_ADDR_ADDR k = 0 ∧
        t.fld F.MBX_STATUS_TO_DROPPED k = 0) ∧
      (x.state ≠ .enabled → ends (.spanQuiesce q) 2) ∧ (x.state ≠ .quiescing → ends (.spanComplete q) 2) ∧
      (x.state ≠ .quiesced → ends (.spanReset q) 2 ∧ ends (.spanRemove q) 2) ∧ (x.state ≠ .removed → ends (.spanInit q) 2)) ∧
    ((s.span n.val).state = .quiescing → (s.span n.val).byReset = true → (s.span n.val).lateDone = false →
      ∃ t, exec (.quiesceLate n) s = .next t ∧ t.span n.val = { s.span n.val with lateDone := true } ∧
        t.Event .STU_LATE_MAP (n.val / 64) (n.val % 64) ∧ t.Event .STU_EVT 0 1)

/-- R131, R132, R134, R136–R139, R536: EXPORT and IMPORT run until their transfer has ended: a blob with the Span's state and a right CRC is written
at STU_XFER_ADDR; a good blob is loaded and leaves the Span Quiesced, a bad one and a failed read change nothing; LOG_SWAP makes the other bitmap
active and flushes the old one; RESET is done. WIN_COMMIT applies a window set that keeps the rules, or leaves the set in effect and says which
rule failed. It rests on the model's choices or readings of log entries 93, 94, 95, 96 and 97, which no rule states. -/
def Obligations.SpanTransfersAndWindows : Prop :=
  ∀ (s : State) (q : Seq) (c : SpanCmd) (bs : List Byte),
    let k := s.fld F.STU_SPAN_SEL_SPAN 0
    let x := s.span k
    let y := s.span c.span
    let done (t : State) (code : Nat) : Prop := t.Ended F.STU_SPAN_STATUS_LAST_RESULT F.STU_SPAN_STATUS_LAST_SEQ 0 code c.seq ∧
      t.Event .STU_EVT 0 4 ∧ t.spanCmd = none ∧ t.fld F.STU_SPAN_STATUS_CMD_BUSY 0 = 0
    let started (t : State) (op : SpanOp) (flushed : Bool) : Prop :=
      t.spanCmd = some { op := op, span := k, seq := q, flushed := flushed } ∧ t.fld F.STU_SPAN_STATUS_CMD_BUSY 0 = 1 ∧ t.spans = s.spans
    let up : Prop := s.linkUp s.mgmtLink = true
    let cmd : Prop := s.regOpen .STU_SPAN_CMD 0 = true
    let win : Prop := s.regOpen .STU_WIN_COMMIT 0 = true
    let b := Blob.ofBytes bs
    let image := (s.blobOf c.span).bytes
    let r := s.winTest k (s.shadowWins k)
    let sets : List Reg := [.STU_WIN_BASE, .STU_WIN_TARGET, .STU_WIN_CTL]
    (cmd → s.spanCmd = none → x.state = .quiesced → s.tdiLocked k = false →
      (∃ t, exec (.spanExport q) s = .next t ∧ started t .exportBlob false) ∧
      (s.spanOwns k = false → up → ∃ t, exec (.spanImport q) s = .next t ∧ started t .importBlob false)) ∧
    (cmd → s.spanCmd = none → up → (∀ x ∈ s.logs, x.span ≠ k) → ∃ t, exec (.logSwap q) s = .next t ∧ started t .logSwap true ∧
      t.fld F.STU_LOG_CTL_CUR k = 1 - s.fld F.STU_LOG_CTL_CUR k) ∧
    Blob.crcOk image = true ∧ (Blob.ofBytes image).magic = 0x53504E58 ∧ (Blob.ofBytes image).srcSpan = BitVec.ofNat 16 c.span ∧
    (s.spanCmd = some c → s.blobBusy = true → exec (.spanCmdDone .done) s = .next s) ∧
    (s.spanCmd = some c → s.blobBusy = false →
      (c.op = .reset → s.queues = [] → ∃ t, exec (.spanCmdDone .done) s = .next t ∧ done t 0 ∧ t.mail c.span = {} ∧
        t.span c.span = { y with resetRequired := false }) ∧
      (c.op = .exportBlob → s.mfWaits = false → up → ∃ t, exec (.spanCmdDone .done) s = .next t ∧ done t 0 ∧ t.spans = s.spans ∧
        t.queues = s.queues ∧ ∃ l, t.out = l ++ ((s.writeCut .mf (4096 * s.fld F.STU_XFER_ADDR_ADDR c.span) image).map fun p =>
          Out.hostWrite .mf p.addr p.data false false).reverse ++ s.out) ∧
      (c.op = .importBlob → c.bad = false → s.blobOk c.span bs = true → ∃ t, exec (.spanCmdDone (.blob bs)) s = .next t ∧ done t 0 ∧
        t.span c.span = { y with state := .quiesced, resetRequired := false, drained := false } ∧
        (t.mail c.span).inWord = b.inWord ∧ (t.mail c.span).outFull = b.outFull) ∧
      (c.op = .importBlob → c.bad = false → s.blobOk c.span bs = false → ∃ t, exec (.spanCmdDone (.blob bs)) s = .next t ∧ done t 7 ∧ t.spans = s.spans ∧
        t.queues = s.queues ∧ t.mbx = s.mbx) ∧
      (c.op = .importBlob → c.bad = true → ∃ t, exec (.spanCmdDone (.blob bs)) s = .next t ∧ done t 8 ∧ t.spans = s.spans) ∧
      (c.op = .exportBlob → s.isSafe = false → ¬up → ∃ t, exec (.spanCmdDone .done) s = .next t ∧ done t 8 ∧ t.spans = s.spans) ∧
      (c.op = .logSwap → c.flushed = true → ∃ t, exec (.spanCmdDone .done) s = .next t ∧ done t (if c.bad = true then 8 else 0) ∧
        t.spans = s.spans) ∧
      (c.op = .logSwap → c.flushed = false → exec (.spanCmdDone .done) s = .next s)) ∧
    (win → s.tdiLocked k = false → r = 0 → ∃ t, exec .winCommit s = .next t ∧ t.fld F.STU_WIN_STATUS_RESULT k = 0 ∧ t.Event .STU_EVT 0 4 ∧
      t.fld F.STU_WIN_STATUS_COMMIT_CNT k = (s.fld F.STU_WIN_STATUS_COMMIT_CNT k + 1) % 2 ^ 32 ∧
      ∀ g ∈ sets, ∀ w, w < 8 → t.reg g (8 * k + w) =
        merge ((s.pend g (8 * k + w)).mask &&& g.epochMask .winCommit) (s.reg g (8 * k + w)) (s.pend g (8 * k + w)).val) ∧
    (win → s.tdiLocked k = false → r ≠ 0 → ∃ t, exec .winCommit s = .next t ∧ s.OnlySignals t ∧ t.fld F.STU_WIN_STATUS_RESULT k = r ∧
      ∀ g ∈ sets, ∀ w, t.reg g w = s.reg g w)

/-- R119, R126–R130, R432: an entry that is a leaf ends its walk and caches the translation for the page, one that faults is counted; one that points
to a table sends the read of the next level's entry, of 8 bytes, through the PF. A TLP to BAR2 of an Enabled Span that a window takes reads or
writes scratchpad or RLD bytes at the window's target; one that no window takes, and every atomic, is an Unsupported Request and counted. It
rests on the model's choices or readings of log entry 108, which no rule states. -/
def Obligations.WalksAndPeerWindows : Prop :=
  ∀ (s : State) (n : SpanId) (j : Job) (p : Part) (e : Word) (off : BitVec 36) (len : Fin 4097) (data : List Byte) (f : Fn),
    let w (write : Bool) := s.winAt n.val off.toNat (if write then data.length else len.val) write
    let at_ := j.walk
    let got := Instr.walkComplete n (.entries [e])
    (s.walks = [j] → j.span = some n.val → j.parts = [p] → at_.ats = false → s.stalled = [] → s.invals = [] → s.atsWait = [] →
      (s.span n.val).state = .enabled → ∀ h k, at_.tag = some (16384 * h + k) → k < 16384 →
      (∀ a big, walkStep at_.level e = .leaf a big → p.len = 0 → j.write = true → s.queues = [] → ∃ t, exec got s = .next t ∧
        t = { s with walks := [], tlb := t.tlb, tags := t.tags } ∧ t.tag h k = .free ∧
        t.tlb = ({ span := n.val, page := p.addr / 4096, big := big, read := at_.read && bitOf e 0, write := at_.write && bitOf e 1,
                   target := a } :: s.tlb).take 32768) ∧
      (walkStep at_.level e = .fault → 0 < p.len → j.dep = .other → ∃ t, exec got s = .next t ∧
        t.walks = [] ∧ t.tlb = s.tlb ∧ t.tag h k = .free ∧
        t.fld F.STU_FAULT_CNT_XLATE 0 = min (s.fld F.STU_FAULT_CNT_XLATE 0 + 1) 0xFFFFFFFF ∧ t.Event .STU_EVT 0 2) ∧
      (∀ a l m, walkStep at_.level e = .next a → j.fn = .vf l m → l.val = h → s.isSafe = false → s.muted (.pf l) none = false →
        s.tdiRefuses j.fn = false → s.ideDrops (.pf l) = false → ∃ t tag, exec got s = .next t ∧ t.tlb = s.tlb ∧ t.walks = [{ j with walk := { at_ with
          tag := some tag, level := at_.level - 1, table := a, read := at_.read && bitOf e 0, write := at_.write && bitOf e 1 } }] ∧
        t.out = .hostRead (.pf l) (a + 8 * (p.addr / 2 ^ (12 + 9 * (at_.level - 1)) % 512)) 8 false :: s.out) ∧
      exec (.walkComplete n (.entries [])) s = .next s) ∧
    (s.spanFn n.val = some f → s.spanBarOk n.val f = true → s.ideDrops f = false → (s.span n.val).state = .enabled →
      (∀ v, 0 < len.val → w false = some v → v.spm = false → s.rldBadIn (v.target + (off.toNat - v.lo)) len.val = false →
        exec (.bar2Tlp n off (.read len) .ok) s =
          .next { s with out := .memData f (s.rldRead (v.target + (off.toNat - v.lo)) len.val) false :: s.out }) ∧
      (∀ v, data ≠ [] → w true = some v → v.spm = false → ∃ t, exec (.bar2Tlp n off (.write data false) .ok) s = .next t ∧
        t = { s with rld := t.rld, rldPoison := t.rldPoison } ∧
        (∀ i (h : i < data.length), t.rldByte (v.target + (off.toNat - v.lo) + i) = data[i]) ∧
        ∀ a, a < v.target + (off.toNat - v.lo) ∨ v.target + (off.toNat - v.lo) + data.length ≤ a → t.rldByte a = s.rldByte a) ∧
      (w false = none → 0 < len.val → ∃ t, exec (.bar2Tlp n off (.read len) .ok) s = .next t ∧ s.SameMemory t ∧
        (∃ l, t.out = .unsupported f :: (l ++ s.out)) ∧ t.fld F.STU_WIN_MISS_COUNT 0 = min (s.fld F.STU_WIN_MISS_COUNT 0 + 1) 0xFFFFFFFF) ∧
      (∃ t, exec (.bar2Tlp n off .atomic .ok) s = .next t ∧ s.SameMemory t ∧ ∃ l, t.out = .unsupported f :: (l ++ s.out))) ∧
    (s.spanFn n.val = some f → s.ideDrops f = true → exec (.bar2Tlp n off .atomic .ok) s = .next s) ∧
    (s.spanFn n.val = some f → s.spanBarOk n.val f = true → s.ideDrops f = false → s.spanQuiet n.val = true → ∃ t,
      exec (.bar2Tlp n off (.write data false) .ok) s = .next t ∧ s.SameMemory t ∧
        t.fld F.STU_FAULT_CNT_QUIESCED 0 = min (s.fld F.STU_FAULT_CNT_QUIESCED 0 + 1) 0xFFFFFFFF)

/-- R120–R124, R270: each recovery command takes a resource from an owner that is recorded for it and is not live: it clears a lock, frees a Rail,
starts a Bay's handover to the Management Function, starts a walk over the buffers, or names a new owner; a wrong owner, a live one, an object
that is free or does not exist end with their codes and change nothing. The walk's end frees every chain with one reference of the owner. It
rests on the model's choices or readings of log entry 31, which no rule states. -/
def Obligations.RecoveryCommands : Prop :=
  ∀ (s : State) (q : Seq),
    let o := BitVec.ofNat 16 (s.fld F.STU_RCV_ARG1_OWNER 0)
    let new := BitVec.ofNat 16 (s.fld F.STU_RCV_ARG1_NEW_OWNER 0)
    let arg (lo n : Nat) := getBits (s.reg .STU_RCV_ARG0 0) lo n
    let ended (t : State) (code : Nat) : Prop := t.Ended F.STU_RCV_STATUS_RESULT F.STU_RCV_STATUS_LAST_SEQ 0 code q ∧ t.Event .STU_EVT 0 4
    let open_ : Prop := s.regOpen .STU_RCV_CMD 0 = true
    let ready : Prop := open_ ∧ s.fld F.STU_RCV_STATUS_BUSY 0 = 0 ∧ getBits (o.setWidth 64) 13 3 ≠ 0 ∧ s.ownerLive o = false
    let p := arg 0 2
    let b := s.bay p (arg 4 3)
    let r := s.rail p (arg 8 8)
    let i := arg 0 26
    let entry := State.tkey p (arg 4 4) (arg 8 32)
    let isEntry : Prop := 1 ≤ s.tblKind p (arg 4 4) ∧ s.tblKind p (arg 4 4) ≤ 3 ∧ arg 8 32 < s.tblSize p (arg 4 4)
    (ready → isEntry → s.lockOf entry = o → ∃ t, exec (.breakLock q) s = .next t ∧ s.OnlySignals { t with locks := s.locks } ∧
      t.lockOf entry = 0 ∧ ended t 0) ∧
    (ready → isEntry → s.lockOf entry ≠ o → s.lockOf entry ≠ 0 → getBits ((s.lockOf entry).setWidth 64) 13 3 ≠ 0 →
      ∃ t, exec (.breakLock q) s = .next t ∧ s.OnlySignals t ∧ ended t 3) ∧
    (∀ n, ready → r.owner = some n → n < 768 → o = State.ownerThread n → ∃ t, exec (.releaseRail q) s = .next t ∧ ended t 0 ∧
      (t.rail p (arg 8 8)) = { r with owner := none } ∧ t.thr n = { s.thr n with rail := none, partMsg := [] }) ∧
    (ready → b.owner = o → b.handover = none → b.transit = none → ∃ t, exec (.reclaimBay q) s = .next t ∧
      t.bay p (arg 4 3) = { b with handover := some (State.ownerMf, q, true) } ∧ t.fld F.STU_RCV_STATUS_BUSY 0 = 1) ∧
    (open_ → s.fld F.STU_RCV_STATUS_BUSY 0 = 0 → s.ownerLive o = false → ∃ t, exec (.sweepBuffers q) s = .next t ∧ t.sweep = some (o, q) ∧
      t.fld F.STU_RCV_STATUS_BUSY 0 = 1 ∧ t.recs = s.recs) ∧
    (∀ w q', s.sweep = some (w, q') → s.recs = [] → ∃ t, exec .sweepBuffersDone s = .next t ∧ t.sweep = none ∧
      t.Ended F.STU_RCV_STATUS_RESULT F.STU_RCV_STATUS_LAST_SEQ 0 0 q' ∧ t.fld F.STU_RCV_STATUS_BUSY 0 = 0 ∧
      t.fld F.STU_RCV_STATUS_COUNT 0 = 0) ∧
    (∀ w q' k y, s.sweep = some (w, q') → s.recs = [(k, y)] → y.owner = w → y.refs = 1 → y.member = false → y.poisoned = false → y.next = none →
      ∃ t, exec .sweepBuffersDone s = .next t ∧ t.recs = [] ∧ t.fld F.STU_RCV_STATUS_COUNT 0 = 1) ∧
    (ready → (s.poolOf i).isSome → (s.bufRec i).member = false → (s.bufRec i).poisoned = false → 1 ≤ (s.bufRec i).refs →
      (s.bufRec i).owner = o → getBits (new.setWidth 64) 13 3 ∈ [1, 2, 3] → ∃ t, exec (.transferOwner q) s = .next t ∧ ended t 0 ∧
        t.bufRec i = { s.bufRec i with owner := new } ∧ ∀ k, k ≠ i → t.bufRec k = s.bufRec k) ∧
    (open_ → s.fld F.STU_RCV_STATUS_BUSY 0 = 1 → ∀ c ∈ [Instr.breakLock q, .releaseRail q, .reclaimBay q, .sweepBuffers q, .transferOwner q],
      ∃ t, exec c s = .next t ∧ s.OnlySignals t ∧ ended t 1)

/-! ### Registers, images, the data path -/

/-- R4, R6, R7, R16, R62, R73, R79, R533: a register write of the Manager is counted and takes effect by its field's access code and Apply class; an
unused offset takes nothing; during Swap it waits in line; enabling an event that stands sends the vector; the register window reads and writes
the register that VS_ADDR names. It rests on the model's choices or readings of log entries 7, 24, 54, 75 and 91, which no rule states. -/
def Obligations.RegisterAccess : Prop :=
  ∀ (s : State) (off : BitVec 28) (w : Word) (v : BitVec 32) (r : Reg) (i : Nat) (f : Fn) (k : Fin 2048) (e : Ecc),
    let a := off.toNat
    let c := Instr.registerWrite (.bar0 .mf off) w
    let served : Prop := s.dev = .running ∧ s.ideDrops .mf = false ∧ s.barOk .mf = true ∧ a % 8 = 0
    let now : Prop := s.ring = [] ∧ s.swapHolds a = false ∧ State.offDomain a = none
    let counted (t : State) : Prop := t.fld F.HEP_MGMT_PATH_MF_WRITES 0 = min (s.fld F.HEP_MGMT_PATH_MF_WRITES 0 + 1) 0xFFFFFFFF
    let only (t : State) (r : Reg) : Prop := s.OnlyRegs t [(.HEP_MGMT_PATH, 0), (r, 0)] ∧ counted t
    let word (t : State) (x : Word) : State :=
      { t with vsLo := x.setWidth 32, vsHi := (x >>> 32).setWidth 32, out := .cfgDone .success (x.setWidth 32) :: t.out }
    (served → now →
      (locate a = none → ∃ t, exec c s = .next t ∧ s.OnlyRegs t [(.HEP_MGMT_PATH, 0)] ∧ counted t) ∧
      (locate a = some (.TOP_SCRATCH, 0) → ∃ t, exec c s = .next t ∧ only t .TOP_SCRATCH ∧
        t.fld F.TOP_SCRATCH_VALUE 0 = getBits w 0 32) ∧
      (locate a = some (.CFG_DRAIN_LIMIT, 0) → ∃ t, exec c s = .next t ∧ only { t with shadow := s.shadow } .CFG_DRAIN_LIMIT ∧
        t.fld F.CFG_DRAIN_LIMIT_LIMIT_US 0 = s.fld F.CFG_DRAIN_LIMIT_LIMIT_US 0 ∧
        (t.epoch .commitRollback .CFG_DRAIN_LIMIT 0).fld F.CFG_DRAIN_LIMIT_LIMIT_US 0 = clampN 1 100 (getBits w 0 7)) ∧
      (locate a = some (.FCU_EVT, 0) → ∃ t, exec c s = .next t ∧ only t .FCU_EVT ∧
        t.reg .FCU_EVT 0 = s.reg .FCU_EVT 0 &&& ~~~(w &&& 0xF)) ∧
      (locate a = some (.FCU_EVT_EN, 0) → s.reg .FCU_EVT 0 &&& ~~~s.reg .FCU_EVT_EN 0 &&& w &&& 0xF ≠ 0 →
        (s.fn .mf).msixEnable = true → (s.fn .mf).msixMask = false → (s.fn .mf).bme = true →
        (s.vec .mf (s.fld F.FCU_MSIX_VEC_VEC 0)).masked = false → ∃ t, exec c s = .next t ∧
          t.fld F.FCU_EVT_EN_EN 0 = getBits w 0 4 ∧ t.out = .msix .mf (s.fld F.FCU_MSIX_VEC_VEC 0) :: s.out)) ∧
    (served → s.swapHolds a = true → ∃ t, exec c s = .next t ∧ t = { s with regs := t.regs, ring := s.ring ++ [.write a w] } ∧
      s.RegsBut t [(.HEP_MGMT_PATH, 0)] ∧ counted t) ∧
    (served → s.vsAddr.toNat = a → ∃ t, exec (.vsDataHiWrite v) s = .next t ∧
      exec (.registerWrite (.bar0 .mf off) (v ++ s.vsLo)) { s with vsHi := v } = .next t) ∧
    (s.dev = .running → s.vsAddr.toNat = a → a % 8 = 0 → now →
      (locate a = none → ∃ t, exec (.vsDataHiWrite v) s = .next t ∧ { s with vsHi := v }.OnlyRegs t [(.HEP_MGMT_PATH, 0)] ∧ counted t) ∧
      (locate a = some (.TOP_SCRATCH, 0) → ∃ t, exec (.vsDataHiWrite v) s = .next t ∧ counted t ∧
        { s with vsHi := v }.OnlyRegs t [(.HEP_MGMT_PATH, 0), (.TOP_SCRATCH, 0)] ∧ t.fld F.TOP_SCRATCH_VALUE 0 = s.vsLo.toNat)) ∧
    (s.dev ≠ .running → exec (.vsDataHiWrite v) s = .next s) ∧
    (s.dev = .running → s.vsAddr.toNat = a → now →
      (locate a = none → exec (.vsDataLoRead e) s = .next (word s 0)) ∧
      (locate a = some (r, i) → r.rcMask = 0 → r ∉ [Reg.TIM_NOW, .TIM_CAP_HI, .TIM_GNSS_RX, .MBX_FROM, .SPM_MGMT_DATA, .PWR_TJ_PEAK,
          .DBG_REG_DATA, .DBG_SPM_DATA, .DBG_NONCE] → exec (.vsDataLoRead e) s = .next (word s (s.readReg r i)))) ∧
    (s.dev = .running → s.ideDrops f = false → s.barOk f = true → s.tdiRefuses f = false → k.val < State.vectorsOf f →
      ((s.vec f k.val).pending = false ∨ (s.vec f k.val).masked = true) → ∃ t, exec (.registerWrite (.msixTable f k 0) w) s = .next t ∧
      t = { s with msix := t.msix } ∧ t.vec f k.val = { s.vec f k.val with addr := w } ∧
      ∀ g (j : Fin 2048), ¬(g = f ∧ j = k) → t.vec g j.val = s.vec g j.val)

/-- R43, R46, R47, R49, R50, R53, R55, R58, R59, R64: the image commands and what happens in their course. STAGE empties Staged and reads; its end
fills Staged or says which check failed; DISCARD empties it; COMMIT and ROLLBACK go through CHECK, DRAIN and SWAP, and rotate the slots as R43
says; a fault leaves the state FAILED, from which only ROLLBACK leads on, and not after a reload that faulted; a command that comes at another
time ends with BUSY. It rests on the model's choices or readings of log entries 35, 36, 40, 100, 111 and 126, which no rule states. -/
def Obligations.ImageCommands : Prop :=
  ∀ (s : State) (q : Seq) (x : Fin 4) (y : BitVec 4) (i : Image) (f : ImgFile) (r : ImgRead) (d w : BitVec 32),
    let st := s.cfgState
    let ended (t : State) (code : Nat) (q : Seq) : Prop := t.Ended F.CFG_STATUS_LAST_RESULT F.CFG_STATUS_LAST_SEQ 0 code q
    let idle (t : State) (code : Nat) : Prop := t.cfgState = 0 ∧ ended t code s.cfgSeq
    let kept (t : State) : Prop := t.slots.active = s.slots.active ∧ t.slots.previous = s.slots.previous
    let staging (t : State) (r : Bool × Nat × Nat) : Prop := t.cfgState = 1 ∧ t.cfgSeq = q ∧
      t.slots = { s.slots with staged := none, reading := some r, bad := false } ∧ t.reg .CFG_STAGED_VER 0 = 0
    let incoming := if s.slots.rollback then s.slots.previous else s.slots.staged
    (st = 0 →
      (s.flashBusy.contains (1 + x.val) = false → ∃ t, exec (.stageFlash x q) s = .next t ∧ staging t (false, x.val, 0x2000000)) ∧
      (s.shadow = [] → s.isSafe = true → ∃ t, exec (.stageHost q) s = .next t ∧ t.cfgState = 0 ∧ ended t 0x10 q) ∧
      (s.shadow = [] → s.isSafe = false → s.linkUp s.mgmtLink = true → ∃ t, exec (.stageHost q) s = .next t ∧
        staging t (true, s.fld F.CFG_STAGE_ADDR_ADDR 0 * 4096, s.fld F.CFG_STAGE_LEN_LEN 0)) ∧
      (∃ t, exec (.discard q) s = .next t ∧ t.slots = { s.slots with staged := none } ∧ t.reg .CFG_STAGED_VER 0 = 0 ∧ t.cfgState = 0 ∧
        ended t 0 q) ∧
      (s.isSafe = false → ∃ t u, exec (.commit q) s = .next t ∧ exec (.rollback q) s = .next u ∧ t.cfgState = 2 ∧ u.cfgState = 2 ∧
        t.cfgSeq = q ∧ u.cfgSeq = q ∧ t.slots = { s.slots with rollback := false, reload := false } ∧
        u.slots = { s.slots with rollback := true, reload := false })) ∧
    (st ≠ 0 → ∀ c ∈ [Instr.stageFlash x q, .stageHost q, .discard q, .commit q], ∃ t, exec c s = .next t ∧ s.OnlySignals t ∧ ended t 1 q ∧
      t.cfgState = st) ∧
    (st ≠ 0 → st ≠ 5 → ∃ t, exec (.rollback q) s = .next t ∧ s.OnlySignals t ∧ ended t 1 q ∧ t.cfgState = st) ∧
    (st = 1 → s.stageBusy = true → exec (.stagingComplete r) s = .next s) ∧
    (st = 1 → s.stageBusy = false →
      (s.slots.bad = false → s.stageCheck f = 0 → ∃ t, exec (.stagingComplete (.image f)) s = .next t ∧ idle t 0 ∧ kept t ∧
        t.slots.staged = some f.image) ∧
      (s.slots.bad = false → f.hdr.ok f.bytes.length = false → ∃ t, exec (.stagingComplete (.image f)) s = .next t ∧ idle t 4 ∧ kept t ∧
        t.slots.staged = s.slots.staged) ∧
      (s.slots.bad = false → (∀ a n, s.slots.reading ≠ some (true, a, n)) → ∃ t, exec (.stagingComplete .error) s = .next t ∧ idle t 0x10 ∧
        kept t ∧ t.slots.staged = s.slots.staged) ∧
      (s.slots.bad = true → ∃ t, exec (.stagingComplete r) s = .next t ∧ idle t 0x10 ∧ kept t ∧ t.slots.staged = s.slots.staged)) ∧
    (st = 2 → (s.commitCheck = 0 → incoming = some i → ∃ t, exec .checkComplete s = .next t ∧ t.cfgState = 3 ∧
        t.slots = { s.slots with incoming := some i } ∧
        ∀ k n, k ∈ (State.diff s.slots.active i).trusses → n ∈ State.trussThreads k → (s.thr n).state ≠ .free →
          (t.thr n).pend.getLsbD 8 = true) ∧
      (s.slots.rollback = false → s.slots.staged = none → ∃ t, exec .checkComplete s = .next t ∧ idle t 2 ∧ t.slots = s.slots) ∧
      (s.slots.rollback = true → s.slots.previous = none → ∃ t, exec .checkComplete s = .next t ∧ idle t 3 ∧ t.slots = s.slots)) ∧
    (st = 3 → (s.slots.incoming = some i → s.drained i = true → ∃ t, exec .drainComplete s = .next t ∧ s.OnlyRegs t [(.CFG_STATUS, 0)] ∧
        t.cfgState = 4) ∧
      (∃ t, exec .drainTimeout s = .next t ∧ idle t 0x0E ∧ t.slots = { s.slots with incoming := none, rollback := false })) ∧
    (st = 4 → s.ring = [] →
      (s.slots.incoming = some i → s.slots.reload = false → s.slots.rollback = false → ∃ t, exec (.swapComplete d w) s = .next t ∧
        idle t 0 ∧ t.slots.active = some i ∧ t.slots.previous = s.slots.active ∧ t.slots.staged = none) ∧
      (s.slots.incoming = some i → s.slots.reload = false → s.slots.rollback = true → ∃ t, exec (.swapComplete d w) s = .next t ∧
        idle t 0 ∧ t.slots.active = some i ∧ t.slots.previous = s.slots.active ∧ t.slots.staged = s.slots.staged) ∧
      (s.slots.active = some i → s.slots.reload = true → ∃ t, exec (.swapComplete d w) s = .next t ∧ idle t 0 ∧ kept t ∧
        t.slots.staged = s.slots.staged) ∧
      (∃ t, exec (.swapFault y) s = .next t ∧ t.cfgState = 5 ∧ ended t 0x0F s.cfgSeq ∧ t.slots = { s.slots with dead := s.slots.reload })) ∧
    (st = 5 → s.slots.dead = true → ∃ t, exec (.rollback q) s = .next t ∧ s.OnlySignals t ∧ ended t 1 q ∧ t.cfgState = 5) ∧
    (st = 5 → s.slots.dead = false → s.slots.active = some i → s.fld F.CFG_MIN_SVN_MIN_SVN 0 ≤ i.hdr.svn.toNat → ∃ t, exec (.rollback q) s = .next t ∧
      t.cfgState = 4 ∧ t.cfgSeq = q ∧ t.slots = { s.slots with reload := true })

/-- R34, R35, R198, R204, R227, R229, R304, R305, R317, R321: a frame that comes in on a MAC that is UP, without error, is counted and
joins the FIFO of the Pier its hash names; one with a bad codeword, or shorter than 64 bytes, is counted and gone. The Pier's pipeline takes
the FIFO's first frame: charged, it looks in the flow cache, and on a miss joins the miss buffer; a full miss buffer takes none. -/
def Obligations.FramesIn : Prop :=
  ∀ (s : State) (m : MacId) (wire : List Byte) (lane : Fin 8) (sub : Fin 20) (cor unc : Byte) (p : Pier) (port : Port) (f : Pkt) (rest : List Pkt) (a q h : Nat) (l : List Nat),
    let n := wire.length
    let st := s.fld F.CFG_STATUS_STATE 0
    let up : Prop := s.macState m.val = 3 ∨ s.macState m.val = 4
    let good : Prop := unc = 0 ∧ wire.drop (n - 4) = fcs32 (wire.take (n - 4))
    let cnt (t : State) (i k : Nat) : Prop :=
      SMap.get 0 t.macCnt (i + 32 * m.val) = SMap.get 0 s.macCnt (i + 32 * m.val) + BitVec.ofNat 64 k
    let c := Instr.frameReceived m ⟨wire, lane, sub⟩ cor unc
    let head : Prop := s.ingressHeld p.val = false ∧ s.fifoOf port.val p.val = f :: rest
    let accept := Instr.ingressHeadAccept p port {}
    let turn : Prop := s.acceptFrom p.val port.val = some port.val
    let miss : Prop := ∀ x ∈ s.fcLines (State.fcSet p.val f.hash), ¬(x.hash = f.hash ∧ x.key = flowKey f.tuple)
    (up → good → 64 ≤ n → n ≤ s.maxFrame m.val → State.etherType wire ≠ 0x8808 → s.shadow = [] → s.isSafe = false →
      st ≠ 3 → st ≠ 4 → st ≠ 5 → s.holdOf (m.val / 8) = [] → s.fld F.MAC_TAG_CTL_STRIP m.val = 0 →
      (∀ k, k < 4 → ((s.fifoOf (m.val / 8) k).map Pkt.len).sum + n ≤ 524288) → ∃ t g, exec c s = .next t ∧
        g.bytes = wire.take (n - 4) ∧ g.fcs = wire.drop (n - 4) ∧ g.mac = m.val ∧ g.tc = s.rxClass m.val wire ∧ g.trunc = false ∧
        t.fifoOf (m.val / 8) (s.pierFor g.hash) = s.fifoOf (m.val / 8) (s.pierFor g.hash) ++ [g] ∧
        (∀ k, k ≠ s.pierFor g.hash → k < 4 → t.fifoOf (m.val / 8) k = s.fifoOf (m.val / 8) k) ∧ cnt t 0 1 ∧ cnt t 1 n) ∧
    (up → unc ≠ 0 → ∃ t, exec c s = .next t ∧ t.fifo = s.fifo ∧ t.holdQ = s.holdQ ∧ cnt t 2 1) ∧
    (up → good → n < 64 → ∃ t, exec c s = .next t ∧ t.fifo = s.fifo ∧ t.holdQ = s.holdQ ∧ cnt t 3 1) ∧
    (¬up → exec c s = .next s) ∧
    (head → s.secyFirst f = true →
      (State.isEapol f.bytes = true → ∃ t, exec (.macsecRxVerify p port .none) s = .next t ∧ t = { s with fifo := t.fifo } ∧
        t.fifoOf port.val p.val = { f with verified := true } :: rest) ∧
      (State.isEapol f.bytes = false → State.etherType f.bytes ≠ 0x88E5 → s.fld F.MAC_SECY_CTL_VALIDATE f.mac = 2 → ∃ t,
        exec (.macsecRxVerify p port .none) s = .next t ∧ t = { s with fifo := t.fifo, macCnt := t.macCnt } ∧
        t.fifoOf port.val p.val = rest ∧ SMap.get 0 t.macCnt (8 + 32 * f.mac) = SMap.get 0 s.macCnt (8 + 32 * f.mac) + 1)) ∧
    (s.ingressHeld p.val = false → (s.acceptFrom p.val port.val).isSome = true → 512 ≤ (s.parked p.val).length → ∃ t, exec accept s = .next t ∧ s.OnlyRegs t [(.TBL_MISS_STATUS, p.val)] ∧
      t.fld F.TBL_MISS_STATUS_STALL_CYC p.val = min (s.fld F.TBL_MISS_STATUS_STALL_CYC p.val + 1) 0xFFFFFFFF) ∧
    (s.acceptFrom p.val port.val = none → exec accept s = .next s) ∧
    (head → turn → (s.parked p.val).length < 512 → s.secyFirst f = false → f.reinject = none → f.head = none →
      0 < f.len → s.frameAcct p.val f = some (a, q) →
      s.chargeTurn ⟨.pipe p.val port.val, q, a, State.bufsFor f.len, State.ownerPipe p.val⟩ = .granted → s.cacheOf p.val q = h :: l → miss →
      ∃ t y, exec accept s = .next t ∧ t.fifoOf port.val p.val = rest ∧ t.parked p.val = s.parked p.val ++ [y] ∧
        y.pkt = { f with head := some h } ∧ y.stale = false ∧
        t.fld F.TBL_FC_CNT_MISSES p.val = min (s.fld F.TBL_FC_CNT_MISSES p.val + 1) 0xFFFFFFFF) ∧
    (head → turn → (s.parked p.val).length < 512 → s.secyFirst f = false → f.head = none →
      s.frameAcct p.val f = none → ∃ t, exec accept s = .next t ∧ t = { s with fifo := t.fifo } ∧ t.fifoOf port.val p.val = rest)

/-- R156, R210, R229, R279, R361–R364: a head whose results return leaves the miss buffer with those that wait behind it, and unless an invalidation
came between its line is filled; a frame back from decryption re-enters with its plain bytes, a bad one is counted and dropped; a frame that
passes the egress pipeline unchanged joins its TMS queue. It rests on the model's choices or readings of log entries 60 and 61, which no rule
states. -/
def Obligations.FramesThrough : Prop :=
  ∀ (s : State) (p : Pier) (k : Fin 512) (h : Parked) (c : CipFault) (f : Pkt) (rest : List Pkt) (wq : Nat) (q : QueueId) (e : PassEcc),
    let key (x : Pkt) : List Byte := flowKey x.tuple
    let plain := { h.pkt with l3ok := (csumOk h.pkt.bytes).1, l4ok := (csumOk h.pkt.bytes).2 }
    let limit := s.fld (if f.colour = 0 then F.TMS_Q_LIMIT_GREEN_KIB else F.TMS_Q_LIMIT_YELLOW_KIB) (State.nodeKey p.val 3 wq) * 1024
    let turn (q : Option QueueId) : Prop := s.pipeBusy p.val (16 + (q.map Fin.val).getD 65536) = false
    let u : State := { s with espLane := SMap.put [] s.espLane p.val rest }
    let d := u.espDecrypt p.val ((f.saFrame.getD 0).toNat) f c
    ((s.parked p.val)[k.val]? = some h → h.follow = false → ∃ t, exec (.missResultsReturn p k [] {}) s = .next t ∧
      t.parked p.val = (s.parked p.val).filter (fun g => !(g.pkt.hash == h.pkt.hash && key g.pkt == key h.pkt)) ∧
      (h.stale = false → (parseFrame (s.pierImg p.val).ingress plain).cause = 0 → ∃ x ∈ t.fcLines (State.fcSet p.val h.pkt.hash),
        x.hash = h.pkt.hash ∧ x.key = key h.pkt)) ∧
    ((s.parked p.val)[k.val]? = some h → h.follow = true → exec (.missResultsReturn p k [] {}) s = .next s) ∧
    (SMap.get [] s.espLane p.val = f :: rest →
      (∀ g, d.1 = some g → ∃ t x, exec (.decryptReturn p c) s = .next t ∧ SMap.get [] t.espLane p.val = rest ∧
        SMap.get [] t.reentry p.val = SMap.get [] s.reentry p.val ++ [x] ∧ x.bytes = g.bytes ∧ x.decrypted = true ∧
        x.authFail = g.authFail ∧ x.head = g.head) ∧
      (State.outerIp f.bytes = none → f.head = none → f.entry = none → ∃ t, exec (.decryptReturn p c) s = .next t ∧
        t = { u with regs := t.regs } ∧ s.RegsBut t [(.CIP_FORMAT_CNT, 0)] ∧
        t.fld F.CIP_FORMAT_CNT_COUNT 0 = min (s.fld F.CIP_FORMAT_CNT_COUNT 0 + 1) 0xFFFFFFFF)) ∧
    (s.egressHeld p.val = false → turn none → s.egressOf p.val = f :: rest → f.tmsq = some wq → f.entry = none → f.csum = false →
      (parseFrame (s.pierImg p.val).egress f).cause = 0 → (s.pierImg p.val).eprog.stages = [] →
      (f.colour = 2 ∨ s.depth p.val wq + f.len ≤ limit) → ∃ t, exec (.egressPass p none {} c) s = .next t ∧ t.egressOf p.val = rest ∧
        t.tq p.val wq = s.tq p.val wq ++ [f]) ∧
    (s.egressHeld p.val = false → turn none → s.egressOf p.val = f :: rest → f.tmsq = none → f.entry = none → f.head = none →
      ∃ t, exec (.egressPass p none e c) s = .next t ∧ t = { s with egress := t.egress } ∧ t.egressOf p.val = rest) ∧
    ((s.queue q.val).isTx = false ∨ (s.queue q.val).bind ≠ p.val ∨ s.txReady q.val = none →
      exec (.egressPass p (some q) e c) s = .next s) ∧
    (∀ b, s.egressHeld p.val = false → turn (some q) → (s.queue q.val).isTx = true → (s.queue q.val).bind = p.val → s.txReady q.val = some b →
      s.wireQueue p.val q.val = none → b.head = none → (s.pierImg p.val).accts = [] → ∃ t, exec (.egressPass p (some q) e c) s = .next t ∧
        ∀ x ∈ (t.queue q.val).begun, x.entry.cell = b.entry.cell → 12 ∈ x.causes ∧ x.handed = false)

/-- R224–R226, R234–R240, R250: the Management Function's command ring. The doorbell reads the descriptor at HEAD; each command runs as the
Management Function on the table it names and is written back with OWN 0 and its RESULT, HEAD and the count going on; a locked entry of another
owner, a missing one and an occupied table end with their codes and change nothing. It rests on the model's choices or readings of log entry 88,
which no rule states. -/
def Obligations.TableCommands : Prop :=
  ∀ (s : State) (p : Pier) (d : BitVec 256) (b : List Byte) (j tg : Nat),
    let tab := descBits d 8 4
    let i := descBits d 32 32
    let key := State.tkey p.val tab i
    let host := State.descHost d
    let lock := s.lockOf key
    let free : Prop := lock = 0 ∨ lock = State.ownerMf
    let live : Prop := s.isSafe = false ∧ s.muted .mf none = false ∧ s.linkUp s.mgmtLink = true ∧ s.ideDrops .mf = false
    let wrote (t : State) (code : Nat) (index : Option Nat) : Prop :=
      let w := descSet (descSet d 12 1 0) 16 8 code
      let w := match index with | some k => descSet w 32 32 k | none => w
      .hostWrite .mf (s.cmdqAddr p.val) (toBytesLE 32 w.toNat) false false ∈ t.out ∧
        t.fld F.TBL_CMDQ_STATUS_HEAD p.val = (s.fld F.TBL_CMDQ_STATUS_HEAD p.val + 1) % s.cmdqSize p.val ∧
        t.fld F.TBL_CMDQ_STATUS_DONE_CNT p.val = (s.fld F.TBL_CMDQ_STATUS_DONE_CNT p.val + 1) % 2 ^ 32 ∧
        t.fld F.TBL_CMDQ_STATUS_BUSY p.val = 0 ∧ (t.trun p.val).desc = none
    let op (n : Nat) : Prop := live ∧ s.domState p.val = 0 ∧
      s.trun p.val = { examining := true, addr := s.cmdqAddr p.val, desc := some d, buf := some b } ∧ descBits d 0 8 = n
    let flow : Prop := s.tblKind p.val tab = 1 ∧ i < s.tblSize p.val tab ∧ descBits d 14 1 = 0 ∧ descBits d 15 1 = 0
    let same (t : State) : Prop := t.flows = s.flows ∧ t.locks = s.locks
    let only (t : State) (k : Nat) (e : FlowEnt) : Prop := t.flowAt p.val tab k = e ∧ t.locks = s.locks
    let rs := SMap.get [] s.routes (State.tabKey p.val tab)
    let r := State.routeOf b
    (live → s.regOpen .TBL_CMDQ_DB p.val = true → s.cmdqHeld = false → s.flag F.TBL_CMDQ_CTL_EN p.val = true → s.flag F.TBL_CMDQ_STATUS_STOPPED p.val = false →
      s.trun p.val = {} → s.freeTag s.mgmtLink 16384 0 = some tg → ∃ t, exec (.tblCmdqDb p) s = .next t ∧
        t = { s with tblRun := t.tblRun, tags := t.tags, out := .hostRead .mf (s.cmdqAddr p.val) 32 false :: s.out } ∧
        t.trun p.val = { examining := true, waiting := true, addr := s.cmdqAddr p.val }) ∧
    (s.regOpen .TBL_CMDQ_DB p.val = true → s.flag F.TBL_CMDQ_CTL_EN p.val = false → exec (.tblCmdqDb p) s = .next s) ∧
    (s.regOpen .TBL_CMDQ_DB p.val = true → s.flag F.TBL_CMDQ_CTL_EN p.val = true → (s.trun p.val).waiting = true → ∃ t,
      exec (.tblCmdqDb p) s = .next t ∧ t = { s with tblRun := t.tblRun } ∧ t.trun p.val = { s.trun p.val with examining := true, rung := true }) ∧
    (s.regOpen .TBL_CMDQ_CTL p.val = true → s.shadow = [] → s.flag F.TBL_CMDQ_CTL_EN p.val = false → s.flag F.TBL_CMDQ_STATUS_STOPPED p.val = false → ∃ t,
      exec (.cmdqEnable p) s = .next t ∧ t.flag F.TBL_CMDQ_CTL_EN p.val = true ∧ t.fld F.TBL_CMDQ_STATUS_HEAD p.val = 0) ∧
    (s.regOpen .TBL_CMDQ_CTL p.val = true → s.shadow = [] → s.linkUp s.mgmtLink = true → s.flag F.TBL_CMDQ_CTL_EN p.val = false →
      s.flag F.TBL_CMDQ_STATUS_STOPPED p.val = true →
      ∃ t, exec (.cmdqEnable p) s = .next t ∧ t.flag F.TBL_CMDQ_CTL_EN p.val = true ∧ t.fld F.TBL_CMDQ_STATUS_STOPPED p.val = 0 ∧
        t.fld F.TBL_CMDQ_STATUS_HEAD p.val = s.fld F.TBL_CMDQ_STATUS_HEAD p.val) ∧
    (op 1 → flow → descBits d 128 16 = 0 → ∃ t, exec (.tblRead p .ok) s = .next t ∧ wrote t 0 none ∧ same t ∧
      .hostWrite .mf host (State.flowBytes (s.flowAt p.val tab i) lock) false false ∈ t.out) ∧
    (op 2 → flow → free → ∃ t, exec (.tblWrite p) s = .next t ∧ wrote t 0 none ∧ only t i (s.flowOf p.val (s.flowAt p.val tab i) b)) ∧
    (op 2 → flow → ¬free → ∃ t, exec (.tblWrite p) s = .next t ∧ wrote t 1 none ∧ same t) ∧
    (op 3 → flow → s.insertAt p.val tab State.ownerMf b = some (j, true, none) → s.lockOf (State.tkey p.val tab j) = 0 → ∃ t,
      exec (.tblInsert ⟨p, .ok⟩) s = .next t ∧ wrote t 0 (some j) ∧
        only t j (s.flowOf p.val { spill := (s.flowAt p.val tab j).spill } b)) ∧
    (op 3 → flow → s.insertAt p.val tab State.ownerMf b = none → ∃ t, exec (.tblInsert ⟨p, .ok⟩) s = .next t ∧ wrote t 3 (some i) ∧ same t) ∧
    (op 3 → flow → ∃ t, exec (.tblInsert ⟨p, .poisoned⟩) s = .next t ∧ wrote t 6 (some i) ∧ same t) ∧
    (op 4 → flow → free → (s.flowAt p.val tab i).valid = true → ∃ t, exec (.tblDelete ⟨p, .ok⟩) s = .next t ∧ wrote t 0 none ∧
      (t.flowAt p.val tab i).valid = false ∧ t.locks = s.locks) ∧
    (op 4 → flow → free → (s.flowAt p.val tab i).valid = false → ∃ t, exec (.tblDelete ⟨p, .ok⟩) s = .next t ∧ wrote t 2 none ∧ same t) ∧
    (op 5 → flow → s.keyFind p.val tab b = some j → j < s.tblSize p.val tab → ∃ t, exec (.tblLookup p .ok) s = .next t ∧
      wrote t 0 (some j) ∧ same t) ∧
    (op 5 → flow → s.keyFind p.val tab b = none → ∃ t, exec (.tblLookup p .ok) s = .next t ∧ wrote t 2 (some i) ∧ same t) ∧
    (op 6 → flow → free → (s.flowAt p.val tab i).valid = true → ∃ t, exec (.tblLock ⟨p, .ok⟩) s = .next t ∧ wrote t 0 none ∧
      t.lockOf key = State.ownerMf ∧ (∀ k, k ≠ key → t.lockOf k = s.lockOf k) ∧ t.flows = s.flows) ∧
    (op 6 → flow → ¬free → (s.flowAt p.val tab i).valid = true → ∃ t, exec (.tblLock ⟨p, .ok⟩) s = .next t ∧ wrote t 1 none ∧ same t) ∧
    (op 7 → flow → lock = State.ownerMf → ∃ t, exec (.tblUnlock ⟨p, .ok⟩) s = .next t ∧ wrote t 0 none ∧ t.lockOf key = 0 ∧
      (∀ k, k ≠ key → t.lockOf k = s.lockOf k) ∧ t.flows = s.flows) ∧
    (op 7 → flow → lock = 0 → ∃ t, exec (.tblUnlock ⟨p, .ok⟩) s = .next t ∧ wrote t 5 none ∧ same t) ∧
    (op 8 → s.tblKind p.val tab = 4 → tab ≠ 15 → (∀ q ∈ rs, ¬(q.vrf = r.vrf ∧ q.v6 = r.v6 ∧ q.len = r.len)) →
      State.lpmUnits (rs ++ [r]) ≤ s.tblSize p.val tab → ∃ t, exec (.routeAdd p) s = .next t ∧ wrote t 0 none ∧
        SMap.get [] t.routes (State.tabKey p.val tab) = rs ++ [r]) ∧
    (∀ rest, op 9 → s.tblKind p.val tab = 4 → tab ≠ 15 → rs = r :: rest → ∃ t, exec (.routeDel p) s = .next t ∧ wrote t 0 none ∧
      SMap.get [] t.routes (State.tabKey p.val tab) = rest) ∧
    (op 9 → s.tblKind p.val tab = 4 → tab ≠ 15 → rs = [] → ∃ t, exec (.routeDel p) s = .next t ∧ wrote t 2 none ∧ t.routes = s.routes)

/-- R201, R202, R216, R228, R244–R248, R419, R534: rule commands replace, read and invalidate the selected rule, stored as KEY AND MASK; INV_ALL
empties the Pier's flow cache; arming and the consumer index of the event ring; the sweeper clears HIT, then marks AGED, then removes; TBL's
operation returns its RESULT and INDEX. -/
def Obligations.RulesCacheAndSweeper : Prop :=
  ∀ (s : State) (p : Pier) (q : Seq) (ci : BitVec 16) (tab : Fin 15) (i : BitVec 32) (n : ThreadId) (k : Fin 64),
    let sel := s.fld F.CLS_RULE_SEL_RULE p.val
    let x := s.ruleAt p.val sel
    let ended (t : State) : Prop := t.Ended F.CLS_RULE_STATUS_LAST_RESULT F.CLS_RULE_STATUS_LAST_SEQ p.val 0 q
    let only (t : State) (y : Rule) : Prop := t.ruleAt p.val sel = y ∧ ∀ j, j ≠ State.ruleKey p.val sel → SMap.get {} t.rules j = SMap.get {} s.rules j
    let mask := s.staged320 .CLS_RULE_MASK p.val
    let old : Prop := (i ≠ 0 ∨ s.shadow = []) ∧ s.domState p.val = 0 ∧ s.fld F.TBL_SWEEP_PERIOD_MS (15 * p.val + tab.val) ≠ 0 ∧
      (s.tblKind p.val tab.val = 1 ∨ s.tblKind p.val tab.val = 2 ∨ s.tblKind p.val tab.val = 3) ∧ i.toNat < s.tblSize p.val tab.val ∧
      s.entValid p.val tab.val i.toNat = true ∧ s.lockOf (State.tkey p.val tab.val i.toNat) = 0 ∧ s.entStatic p.val tab.val i.toNat = false ∧
      SMap.get false s.l2Bad (State.tkey p.val tab.val i.toNat) = false
    let hit : Bool := s.entHit p.val tab.val i.toNat || s.lineHit p.val tab.val i.toNat
    let visit := exec (.sweepVisit ⟨p, .ok⟩ tab i) s
    let aged (t : State) (b : Bool) : Prop := t = { s with flows := t.flows, l2 := t.l2, fcache := t.fcache } ∧
      t.entHit p.val tab.val i.toNat = false ∧ t.lineHit p.val tab.val i.toNat = false ∧ t.entAged p.val tab.val i.toNat = b ∧
      t.entValid p.val tab.val i.toNat = true
    let cmd := s.regOpen .CLS_RULE_CMD p.val = true
    (cmd → ∃ t, exec (.ruleWrite p q) s = .next t ∧ ended t ∧ s.RegsBut t [(.CLS_RULE_STATUS, p.val)] ∧
      only t { key := s.staged320 .CLS_RULE_KEY p.val &&& mask, mask := mask,
               action := BitVec.ofNat 16 (s.fld F.CLS_RULE_ACT_ACTION_ID p.val), data := BitVec.ofNat 32 (s.fld F.CLS_RULE_ACT_DATA p.val),
               valid := s.flag F.CLS_RULE_ACT_VALID p.val }) ∧
    (cmd → ∃ t, exec (.ruleRead p q) s = .next t ∧ ended t ∧ t = { s with regs := t.regs } ∧ t.staged320 .CLS_RULE_KEY p.val = x.key ∧
      t.staged320 .CLS_RULE_MASK p.val = x.mask ∧ t.fld F.CLS_RULE_ACT_ACTION_ID p.val = x.action.toNat ∧
      t.fld F.CLS_RULE_ACT_DATA p.val = x.data.toNat ∧ t.flag F.CLS_RULE_ACT_VALID p.val = x.valid) ∧
    (cmd → ∃ t, exec (.ruleInvalidate p q) s = .next t ∧ ended t ∧ s.RegsBut t [(.CLS_RULE_STATUS, p.val)] ∧ only t { x with valid := false }) ∧
    (s.regOpen .TBL_FC_CMD p.val = true → ∃ t, exec (.invAll p q) s = .next t ∧ s.OnlyRegs { t with fcache := s.fcache, missBuf := s.missBuf } [(.TBL_FC_STATUS, p.val)] ∧
      t.fld F.TBL_FC_STATUS_LAST_SEQ p.val = q.toNat ∧ (∀ h, t.fcLines (State.fcSet p.val h) = []) ∧
      ∀ j, j / 16384 ≠ p.val → t.fcLines j = s.fcLines j) ∧
    (s.regOpen .TBL_EVQ_CTL p.val = true → ∃ t, exec (.evqArm p) s = .next t ∧ s.OnlyRegs t [(.TBL_EVQ_STATUS, p.val)] ∧ t.fld F.TBL_EVQ_STATUS_ARMED p.val = 1) ∧
    (s.regOpen .TBL_EVQ_CI p.val = true → ∃ t, exec (.tblEvqCiWrite p ci) s = .next t ∧
      (SMap.get [] s.tblEv p.val = [] → SMap.get 0 s.evOver p.val = 0 → s.OnlyRegs { t with tblEv := s.tblEv } [(.TBL_EVQ_CI, p.val)]) ∧
      t.evqCi p.val = if (s.evqPi p.val - ci).toNat ≤ s.evqSize p.val then ci else s.evqPi p.val) ∧
    (old → (hit = true → ∃ t, visit = .next t ∧ aged t false) ∧
      (hit = false → s.entAged p.val tab.val i.toNat = false → ∃ t, visit = .next t ∧ aged t true) ∧
      (hit = false → s.entAged p.val tab.val i.toNat = true → (s.flag F.TBL_EVQ_CTL_EN p.val = false ∨ s.evqNoRoom p.val = false) → ∃ t,
        visit = .next t ∧ t.locks = s.locks ∧ t.entValid p.val tab.val i.toNat = false) ∧
      (hit = false → s.entAged p.val tab.val i.toNat = true → s.flag F.TBL_EVQ_CTL_EN p.val = true → s.evqNoRoom p.val = true → ∃ t,
        visit = .next t ∧ aged t true)) ∧
    (∀ o d buf rd, (s.thr n.val).ops[k.val]? = some o → o.op = .tbl d buf rd → o.live = true → (s.thr n.val).dropping = false →
      s.domState (State.pierOf n.val) = 0 → s.spmBadIn (State.pierOf n.val) buf 64 = false →
      let a := (s.takeOp n.val k.val).tblDo (State.pierOf n.val) (State.ownerThread n.val)
        (TblCmd.ofDesc (d.setWidth 256) (s.spmRead (State.pierOf n.val) buf 64) .ok)
      ∃ t, exec (.tblResultReturn n k .ok) s = .next t ∧ (t.thr n.val).ops = (s.thr n.val).ops.eraseIdx k.val ∧
        (rd ≠ 0 → t.g n.val rd = BitVec.ofNat 64 (a.result + 2 ^ 32 * a.index)) ∧
        (descBits (d.setWidth 256) 0 8 = 0 → a.result = 0) ∧
        (opAllowed (descBits (d.setWidth 256) 0 8) (if descBits (d.setWidth 256) 8 4 = 15 then 15
            else s.tblKind (State.pierOf n.val) (descBits (d.setWidth 256) 8 4)) = false → descBits (d.setWidth 256) 0 8 ≠ 0 → a.result = 4))

/-- R298, R300–R303, R318, R319, R321: the link states of a MAC, each change by its event; RESTART empties the inputs of a port's MACs, places them
under the BREAKOUT in effect and is busy, and another one then ends with BUSY; a snapshot copies the counters; the Standby link's changes and a
wake match are recorded. It rests on the model's choices or readings of log entry 68, which no rule states. -/
def Obligations.MacLinks : Prop :=
  ∀ (s : State) (m : MacId) (p : Port) (q : Seq) (wire : List Byte) (up : Bool) (k : Fin 8),
    let st := s.macState m.val
    let moved (t : State) (v b : Nat) : Prop := s.OnlySignals t ∧ t.macState m.val = v ∧ t.Event .MAC_EVT m.val b
    let wake : Prop := s.dev = .standby ∧ s.standbyUp = true ∧ wire.drop (wire.length - 4) = fcs32 (wire.take (wire.length - 4))
    (s.regOpen .MAC_CTL m.val = true → ∃ t u, exec (.macEnable m) s = .next t ∧ exec (.macDisable m) s = .next u ∧
      s.OnlyRegs t [(.MAC_CTL, m.val), (.MAC_STATUS, m.val)] ∧ s.OnlyRegs u [(.MAC_CTL, m.val), (.MAC_STATUS, m.val)] ∧
      t.fld F.MAC_CTL_EN m.val = 1 ∧ u.fld F.MAC_CTL_EN m.val = 0 ∧ t.macState m.val = (if st = 1 then 2 else st) ∧
      u.macState m.val = (if st = 0 then 0 else 1)) ∧
    (st = 2 → s.isSafe = false → s.ethLost = false → ∃ t, exec (.macLinkUp m) s = .next t ∧ moved t 3 0) ∧
    (st = 3 ∨ st = 4 → ∃ t, exec (.linkDown m) s = .next t ∧ moved t 2 1) ∧
    (st = 3 → ∃ t, exec (.remoteFault m) s = .next t ∧ moved t 4 2) ∧
    (st = 4 → s.isSafe = false → ∃ t, exec (.remoteFaultClear m) s = .next t ∧ s.OnlyRegs t [(.MAC_STATUS, m.val)] ∧ t.macState m.val = 3) ∧
    (s.regOpen .MAC_PORT_CMD p.val = true → s.flag F.MAC_PORT_STATUS_BUSY p.val = true → ∃ t, exec (.portRestart p q) s = .next t ∧
      s.OnlyRegs t [(.MAC_PORT_STATUS, p.val)] ∧ t.Ended F.MAC_PORT_STATUS_LAST_RESULT F.MAC_PORT_STATUS_LAST_SEQ p.val 1 q ∧
      t.flag F.MAC_PORT_STATUS_BUSY p.val = true) ∧
    (s.regOpen .MAC_PORT_CMD p.val = true → s.flag F.MAC_PORT_STATUS_BUSY p.val = false → ∃ t, exec (.portRestart p q) s = .next t ∧
      t.flag F.MAC_PORT_STATUS_BUSY p.val = true ∧ SMap.get 0 t.portSeq p.val = q ∧
      ∀ j, j < 8 →
        let i := 8 * p.val + j
        let w := State.macLanes (t.fld F.MAC_PORT_CFG_BREAKOUT p.val) j
        t.fld F.MAC_STATUS_LANES i = w ∧ t.macState i = (if w = 0 then 0 else if t.flag F.MAC_CTL_EN i then 2 else 1) ∧
          t.Event .MAC_EVT i 3 ∧ ∀ a c, a < 4 → c < 8 → t.macFifo i a c = []) ∧
    (s.regOpen .MAC_STAT_SNAP m.val = true → ∃ t, exec (.macStatSnap m) s = .next t ∧ t = { s with regs := t.regs } ∧
      ∀ n, n < 20 → t.reg .MAC_STAT (20 * m.val + n) = SMap.get 0 s.macCnt (n + 32 * m.val)) ∧
    (wake → s.flag F.MAC_WAKE_CTL_MAGIC_EN 0 = true → s.magicIn wire = true → ∃ t, exec (.standbyFrameRx wire) s = .next t ∧
      s.OnlyRegs t [(.MAC_WAKE_STATUS, 0)] ∧ t.fld F.MAC_WAKE_STATUS_MAGIC 0 = 1) ∧
    (wake → s.fld F.MAC_WAKE_CTL_PAT_EN 0 / 2 ^ k.val % 2 = 1 → s.patternIn k.val wire = true → ∃ t,
      exec (.standbyFrameRx wire) s = .next t ∧ s.OnlyRegs t [(.MAC_WAKE_STATUS, 0)] ∧
        t.fld F.MAC_WAKE_STATUS_PAT 0 / 2 ^ k.val % 2 = 1) ∧
    (s.dev = .standby → s.standbyUp ≠ up → (up = true → s.ethLost = false) → ∃ t, exec (.standbyLinkChange up) s = .next t ∧
      s.OnlyRegs { t with standbyUp := s.standbyUp } [(.MAC_WAKE_STATUS, 0)] ∧ t.standbyUp = up ∧
      (s.flag F.MAC_WAKE_CTL_LINK_EN 0 = true → t.fld F.MAC_WAKE_STATUS_LINK 0 = 1))

/-- R206, R277, R284, R286, R287, R296, R307, R309, R312–R315, R337: a ready MAC sends the first frame of the class and Pier it picks, with FCS, or
first the control frame that is due; pauses end; XOFF is refreshed; a launch time comes; the TMS hands the frame it picks to its destination and
an uncorrected error empties the queue it hits; a refill tick adds each bucket's rate up to its size and ends a RESTART. It rests on the model's
choices or readings of log entry 107, which no rule states. -/
def Obligations.SendingAndScheduling : Prop :=
  ∀ (s : State) (m : MacId) (p : Pier) (c : Fin 8) (f : Pkt) (rest : List Pkt) (i : Option (Fin 8)) (lt : Word) (x : TmsErr) (port : Nat)
    (lane : Fin 8),
    let y := s.mac m.val
    let z := (s.cbsGap m.val).mac m.val
    let u := s.fcUpdate
    let pause (v : Nat) : List Byte := s.ctlFrame m.val 1 (toBytesBE 2 v)
    let time := s.fld F.MAC_FC_CTL_PAUSE_TIME m.val
    let sent := s.fld F.MAC_FC_STATUS_XOFF_SENT m.val
    let cnt (t : State) (j : Nat) : Prop := SMap.get 0 t.macCnt (j + 32 * m.val) = SMap.get 0 s.macCnt (j + 32 * m.val) + 1
    let body := f.bytes ++ List.replicate (60 - f.bytes.length) 0
    let k := State.nodeKey p.val 0 port
    let due : Int := lt.toNat * 4294967296 - (112742891520 + s.calDelay F.TIM_CAL_TX_DELAY m.val)
    (s.macSends m.val = true → u.ctlDue m.val = false → y.pauseAll = false → s.shadow = [] → s.macFifo m.val p.val c.val = f :: rest →
      f.launch = none → f.head = none → f.poisoned = false → f.entry = none → (∀ j, j < 8 → s.fld F.MAC_CBS_EN (8 * m.val + j) = 0) →
      s.headClass m.val p.val = some c.val → y.ptr = p.val → f.len ≤ y.deficit.getD p.val 0 → s.fld F.MAC_TAG_CTL_INSERT m.val = 0 →
      s.fld F.TIM_ONESTEP_EN m.val = 0 → s.fld F.MAC_SECY_CTL_EN m.val = 0 → (∀ g ∈ rest, g.launch = none) →
      ∃ t, exec (.macTxStart m ⟨.none, lane⟩ .ok) s = .next t ∧ t.out = .frame m (body ++ fcs32 body) :: s.out ∧
        t.macFifo m.val p.val c.val = rest ∧ cnt t 12) ∧
    (s.ctlSends m.val = true → s.shadow = [] → s.fld F.MAC_FC_CTL_MODE m.val = 1 → sent = 0 → (∃ j, j < 8 ∧ u.xoffAsked m.val j = true) →
      ∃ t, exec (.macTxStart m ⟨.none, lane⟩ .ok) s = .next t ∧ t.out = .frame m (pause time ++ fcs32 (pause time)) :: s.out ∧
        t.fld F.MAC_FC_STATUS_XOFF_SENT m.val = 255 ∧ cnt t 14) ∧
    (s.ctlSends m.val = true → s.shadow = [] → s.fld F.MAC_FC_CTL_MODE m.val = 1 → sent ≠ 0 → ∃ t, exec (.xoffRefresh m) s = .next t ∧
      t.out = .frame m (pause time ++ fcs32 (pause time)) :: s.out ∧ t.fld F.MAC_FC_STATUS_XOFF_SENT m.val = sent ∧ cnt t 14) ∧
    (∃ t, exec (.pauseTimerExpire m i) s = .next t ∧ t = { s with macs := t.macs } ∧ (∀ j, j ≠ m.val → t.mac j = s.mac j) ∧
      t.mac m.val = match i with
        | none => { z with pauseAll := false }
        | some j => { z with paused := y.paused &&& ~~~((1 : BitVec 8) <<< j.val) }) ∧
    (s.macFifo m.val p.val c.val = f :: rest → f.launch = some lt → s.shadow = [] → due ≤ (s.time.toNat : Int) → (p.val, c.val) ∉ y.launchOk →
      ∃ t, exec (.launchEligible m p c) s = .next t ∧ t.mac m.val = { z with launchOk := y.launchOk ++ [(p.val, c.val)] } ∧
        t.macIn = s.macIn) ∧
    (∀ g n q s1 s2 s3 nd,
      let s0 := s.epoch .portPick .TMS_NODE_OVERHEAD k
      let ovr := s0.fld F.TMS_NODE_OVERHEAD_BYTES k
      s.tmsHeld p.val = false → s.pickPort p.val = some port → s0.pickGroup p.val ovr port = some (g, s1) →
      s1.pickSpanNode p.val ovr g = some (n, s2) → s2.pickQueue p.val ovr n = some (q, s3) → s3.tq p.val q = f :: rest →
      s3.treeNode p.val 3 q = some nd → f.launch = none → ∃ t, exec (.tmsDecision p none) s = .next t ∧ t.tq p.val q = rest ∧
        SMap.get 0 t.arbiter p.val = (port + 1) % 18 ∧
        (nd.kind = 0 → t.macFifo (s3.portOf p.val q) p.val nd.tc = s3.macFifo (s3.portOf p.val q) p.val nd.tc ++ [{ f with tc := nd.tc }]) ∧
        (nd.kind = 1 → t.rx p.val = s3.rx p.val ++ [f]) ∧
        (nd.kind = 2 → t.eq (3 * p.val + nd.truss) = s3.eq (3 * p.val + nd.truss) ++ [.packet f])) ∧
    (s.tmsHeld p.val = true → exec (.tmsDecision p none) s = .next s) ∧
    (s.tmsHeld p.val = true → x.uncorrected = true → x.kind = 1 → ∃ t, exec (.tmsDecision p (some x)) s = .next t ∧
      t.tq p.val x.index.val = [] ∧ t.fld F.TMS_STORE_ERR_UE p.val = min (s.fld F.TMS_STORE_ERR_UE p.val + 1) 0xFFFFFFFF) ∧
    (∀ j : Port, s.coreUp = true → s.flag F.MAC_PORT_STATUS_BUSY j.val = true → ∃ t, exec .refillTick s = .next t ∧
      t.flag F.MAC_PORT_STATUS_BUSY j.val = false ∧
      t.Ended F.MAC_PORT_STATUS_LAST_RESULT F.MAC_PORT_STATUS_LAST_SEQ j.val 0 (SMap.get 0 s.portSeq j.val)) ∧
    (s.coreUp = true → s.shadow = [] → s.domState p.val < 2 → port < 18 → (∀ j, j < 4 → ∀ nd ∈ (s.pierImg j).nodes, nd.index < 16384) → ∃ t, exec .refillTick s = .next t ∧
      t.fld F.TMS_TICK_COUNT 0 = (s.fld F.TMS_TICK_COUNT 0 + 1) % 2 ^ 32 ∧
      (t.node k).ptok = min ((s.node k).ptok + s.fld F.TMS_NODE_PIR_RATE k) (256 * s.fld F.TMS_NODE_PBS_SIZE k) ∧
      (t.node k).ctok = (s.node k).ctok ∧ (t.node k).deficit = (s.node k).deficit ∧
      t.fld F.CLS_SP_TOKENS_TOKENS p.val =
        min (s.fld F.CLS_SP_TOKENS_TOKENS p.val + s.fld F.CLS_SP_RATE_RATE p.val) (256 * s.fld F.CLS_SP_BURST_BURST p.val))

/-! ### Time, cipher, Trusses, DMA -/

/-- R324–R328, R333–R336, R343, R348, R353, R547: a tick adds INCR, and a running slew loses what it adds; a command applies at its tick, four ticks
after it came, from the owner alone; the traceability states and what each change records; a leap; the bound at a refill tick; reads of the counter;
a SyncE setting at the falling edge. -/
def Obligations.TimeCounter : Prop :=
  ∀ (s : State) (v : Bool) (q : Seq) (a : Adj) (off : BitVec 32) (req : BitVec 2) (f : Fn) (j : Fin 2),
    let x := s.tim
    let incr := BitVec.ofNat 96 (s.fld F.TIM_INCR_INCR 0)
    let arg := s.reg .TIM_ADJ_ARG 0
    let st := s.timState
    let owns : Prop := s.flag F.TIM_CTL_ADJ_OWNER 0 = v
    let dropFld := if v then F.TIM_ADJ_DROP_SERVO else F.TIM_ADJ_DROP_MF
    let queued (b : Adj) : State := { s with tim := { x with adj := x.adj ++ [(4, b)] } }
    let servo := min off.toNat 0xFFFFFFFE
    let seqIs (t : State) (q : Seq) : Prop := t.fld F.TIM_ADJ_STATUS_LAST_SEQ 0 = q.toNat
    let moved (t : State) (v : Nat) : Prop := t.timState = v ∧ (st ≠ v → t.Event .TIM_EVT 0 0)
    let paged (t : State) (v : Nat) : Prop := ∀ h, h < 8 → SMap.get 0 t.tim.seqs h = SMap.get 0 x.seqs h + (if st = v then 0 else 2)
    let quiet (t : State) (v : Nat) : Prop := paged t v ∧
      (s.shadow = [] → s.fld F.TIM_TP_CTL_EN 0 = 0 → s.OnlySignals { t with tim := x })
    let tim (t : State) (y : Tim) : Prop := t.tim = { y with seqs := t.tim.seqs, pages := t.tim.pages }
    let counted (t : State) (i : Nat) : Prop := s.coreOff = false → t.fld F.FCU_CNT_COUNT i = min (s.fld F.FCU_CNT_COUNT i + 1) 0xFFFFFFFF
    let leap := s.fld F.TIM_LEAP_LEAP 0
    let bound := 4000 + s.fld F.TIM_ASYM_PS 0 + x.servoPs
    let serves : Prop := s.ideDrops f = false ∧ s.barRefuses f = false
    let latch (u : State) : BitVec 48 := SMap.get 0 u.tim.tpLatch (s.fnLink f)
    let free (r : Reg) : Prop := v = false → s.regOpen r 0 = true
    (s.coreUp = true → x.adj = [] → ∃ t, exec .timeClkTick s = .next t ∧ t.cycle = s.cycle + 4 ∧ t.tim.prev = s.time ∧
      t.time + BitVec.ofInt 96 t.tim.slewLeft = s.time + incr + BitVec.ofInt 96 x.slewLeft ∧ t.tim.slewTicks = x.slewTicks - 1 ∧
      (x.slewTicks = 0 → t.time = s.time + incr) ∧ (x.slewTicks = 1 → t.tim.slewLeft = 0) ∧
      ((∀ k, k < 12 → s.domState (16 + k) = 0) → s.RegsBut t [(.TOP_UPTIME, 0)])) ∧
    (s.coreUp = true → x.adj = [(1, a)] → x.slewTicks = 0 → ∃ t, exec .timeClkTick s = .next t ∧ t.tim.adj = [] ∧ match a with
      | .step w q => t.time = s.time + incr + BitVec.ofInt 96 (w.toInt * 65536) ∧ seqIs t q
      | .set w q => t.time = w.setWidth 96 <<< 32 ∧ seqIs t q
      | .slew w n q => t.time + BitVec.ofInt 96 t.tim.slewLeft = s.time + incr + BitVec.ofInt 96 (w.toInt * 65536) ∧
          t.tim.slewTicks = max n ((w.toInt.natAbs * 65536 + 536870911) / 536870912) - 1 ∧ seqIs t q
      | .slewAbort q => t.time = s.time + incr ∧ t.tim.slewLeft = 0 ∧ seqIs t q
      | .incr => t.time = s.time + BitVec.ofNat 96 ((s.epoch .timeTick .TIM_INCR 0).fld F.TIM_INCR_INCR 0)) ∧
    (owns → free .TIM_ADJ_CMD → exec (.stepTime v q) s = .next (queued (.step arg q)) ∧ exec (.setTime v q) s = .next (queued (.set arg q)) ∧
      exec (.slewAbort v q) s = .next (queued (.slewAbort q)) ∧
      (s.shadow = [] → ∃ t, exec (.slew v q) s = .next t ∧ s.OnlyRegs { t with tim := x } [] ∧
        t.tim.adj = x.adj ++ [(4, .slew arg (s.fld F.TIM_SLEW_TICKS_TICKS 0) q)])) ∧
    (¬owns → free .TIM_ADJ_CMD → free .TIM_SERVO_UPD → ∀ c ∈ [Instr.stepTime v q, .setTime v q, .slew v q, .slewAbort v q, .timServoUpd v off req], ∃ t, exec c s = .next t ∧
      s.OnlyRegs t [(.TIM_ADJ_DROP, 0)] ∧ t.fld dropFld 0 = satAdd dropFld.width (s.fld dropFld 0) 1) ∧
    (owns → free .TIM_SERVO_UPD → (req = 1 → ∃ t, exec (.timServoUpd v off req) s = .next t ∧ quiet t 1 ∧ moved t 1 ∧ tim t { x with servoPs := servo }) ∧
      (req = 2 → st = 1 → ∃ t, exec (.timServoUpd v off req) s = .next t ∧ quiet t 2 ∧ moved t 2 ∧
        tim t { x with servoPs := servo, holdStart := s.wide }) ∧
      (req = 0 → st = 1 → exec (.timServoUpd v off req) s = .next { s with tim := { x with servoPs := servo } }) ∧
      (req = 3 → ∃ t, exec (.timServoUpd v off req) s = .next t ∧ quiet t 0 ∧ moved t 0 ∧ tim t x) ∧
      (req = 0 ∨ req = 2 → st ≠ 1 → exec (.timServoUpd v off req) s = .next s)) ∧
    (st = 1 → ∃ t, exec .watchdog s = .next t ∧ quiet t 2 ∧ moved t 2 ∧ tim t { x with holdStart := s.wide } ∧ t.Event .TIM_EVT 0 1 ∧
      counted t 0) ∧
    (∃ t, exec .counterFault s = .next t ∧ moved t 0 ∧ paged t 0 ∧ t.Event .TIM_EVT 0 8 ∧ counted t 1 ∧
      t.fld F.TIM_ERR_CNT_COMPARE 0 = min (s.fld F.TIM_ERR_CNT_COMPARE 0 + 1) 0xFFFFFFFF) ∧
    (leap = 1 ∨ leap = 2 → s.fld F.TIM_LEAP_TIME_SEC 0 ≤ s.wide.toNat / 10 ^ 9 → ∃ t, exec .leapDone s = .next t ∧
      t.fld F.TIM_LEAP_UTC_OFFSET 0 = (s.fld F.TIM_LEAP_UTC_OFFSET 0 + (if leap = 1 then 1 else 65535)) % 65536 ∧
      t.fld F.TIM_LEAP_LEAP 0 = 0 ∧ t.fld F.TIM_LEAP_TIME_SEC 0 = 0 ∧ t.Event .TIM_EVT 0 7 ∧
      ∀ h, h < 8 → SMap.get 0 t.tim.seqs h = SMap.get 0 x.seqs h + 2) ∧
    (s.coreUp = true → s.shadow = [] → st = 1 → ∃ t, exec .refillTick s = .next t ∧ t.boundDev = min 0xFFFFFFFE bound ∧ t.timState = 1) ∧
    (s.coreUp = true → s.shadow = [] → st = 2 → s.fld F.TIM_LIMITS_BOUND_LIMIT_NS 0 * 1000 < min 0xFFFFFFFE (bound + s.holdPs) →
      ∃ t, exec .refillTick s = .next t ∧ moved t 0 ∧ t.boundDev = 0xFFFFFFFF ∧ t.Event .TIM_EVT 0 2) ∧
    (s.regOpen .TIM_NOW 0 = true → ∃ t, exec .timNowRead s = .next t ∧ t.out = .readData s.wide :: s.out ∧ s.OnlyRegs { t with out := s.out } [(.TIM_NOW_FRAC, 0)] ∧
      t.fld F.TIM_NOW_FRAC_FRAC 0 = s.frac.toNat) ∧
    (f ≠ .mf → serves →
      (∃ t, exec (.tpNowRead f ⟨0x5080, false⟩) s = .next t ∧ t = { s with tim := t.tim, out := .readData s.wide :: s.out } ∧
        (latch t).setWidth 16 = s.frac) ∧
      (∃ t, exec (.tpNowRead f ⟨0x5080, true⟩) s = .next t ∧
        t = { s with tim := t.tim, out := .readData ((s.wide.setWidth 32).setWidth 64) :: s.out } ∧ (latch t).setWidth 16 = s.frac ∧
        (latch t >>> 16).setWidth 32 = (s.wide >>> 32).setWidth 32) ∧
      exec (.tpNowRead f ⟨0x5084, true⟩) s = .next { s with out := .readData (((latch s >>> 16).setWidth 32).setWidth 64) :: s.out } ∧
      exec (.tpNowRead f ⟨0x5088, false⟩) s = .next { s with out := .readData (((latch s).setWidth 16).setWidth 64) :: s.out }) ∧
    (∀ o w t, serves → o.toNat % 8 = 0 → s.pageWord f o.toNat true = some (w, t) →
      exec (.tpNowRead f ⟨o, false⟩) s = .next { t with out := .readData w :: t.out }) ∧
    (∀ o four, s.ideDrops f = false → s.barRefuses f = true → ∃ t, exec (.tpNowRead f ⟨o, four⟩) s = .next t ∧ t.out.head? = some (.unsupported f)) ∧
    (∃ t, exec (.synceClkFallingEdge j) s = .next t ∧ ∀ b, b < 6 ∨ b = 8 → bitOf (t.reg .TIM_SYNCE j.val) b =
      if bitOf (s.pend .TIM_SYNCE j.val).mask b then bitOf (s.pend .TIM_SYNCE j.val).val b else bitOf (s.reg .TIM_SYNCE j.val) b)

/-- R339–R342, R344–R348, R350: an edge in a channel's FIFO, and its pop; REF10M_IN; the GNSS UART's two FIFOs; the outputs' edges; a PTM dialog's
pair, uncertainty and failures; the Time Page's mirror and its three posted writes. It rests on the model's choices or readings of log entries
16, 70, 71 and 112, which no rule states. -/
def Obligations.TimeEvents : Prop :=
  ∀ (s : State) (n : Fin 5) (pl : Fin 20) (up : Bool) (b : Byte) (k : Fin 4) (v : BitVec 4) (h : Link) (r : PtmRes),
    let x := s.tim
    let i := n.val
    let sel := s.fld F.TIM_CAP_CTL_EDGE i
    let p := s.ptm h.val
    let shift := signed 32 (s.fld F.TIM_PPS_OUT_OFFSET_NS 0)
    let mode := s.fld F.TIM_TOUT_CTL_MODE k.val
    let fell (o : OutPin) (width : Int) : Prop := o.high = true ∧ o.rose + width ≤ (s.time.toNat : Int)
    let edge (t : BitVec 96) (at_ : Int) : Prop := (x.prev.toNat : Int) < at_ ∧ at_ ≤ (t.toNat : Int)
    let seq := SMap.get 0 x.seqs h.val
    let page := s.pageBytes h.val (seq + 2)
    let a := s.fld F.TIM_TP_ADDR_ADDR h.val * 128
    let w (at_ : Nat) (bs : List Byte) : Out := .hostWrite (.pf h) (a + at_) bs false false
    (s.flag F.TIM_CAP_CTL_EN i = true → sel = 3 ∨ sel = (if up then 1 else 2) → (s.caps i).length < 16 → SMap.get 0 x.lastEdge i = 0 →
      s.fld F.TIM_CAP_CTL_DELAY i = 0 → ∃ t c, exec (.captureEdge ⟨n, pl⟩ up) s = .next t ∧ t.caps i = s.caps i ++ [c] ∧ c.rising = up ∧
        c.wide = State.wideOf (State.stampOf (s.timeIn pl)) ∧ c.frac = State.fracOf (State.stampOf (s.timeIn pl)) ∧ t.Event .TIM_EVT 0 3) ∧
    (s.flag F.TIM_CAP_CTL_EN i = true → sel = 3 ∨ sel = (if up then 1 else 2) → 16 ≤ (s.caps i).length → ∃ t,
      exec (.captureEdge ⟨n, pl⟩ up) s = .next t ∧ s.OnlyRegs t [(.TIM_CAP_STATUS, i)] ∧
      t.fld F.TIM_CAP_STATUS_OVF i = min (s.fld F.TIM_CAP_STATUS_OVF i + 1) 0xFFFFFFFF) ∧
    (s.regOpen .TIM_CAP_HI i = true → s.caps i = [] → exec (.capPop n) s = .next { s with out := .readData 0 :: s.out }) ∧
    (∀ c rest, s.regOpen .TIM_CAP_HI i = true → s.caps i = c :: rest → ∃ t y, exec (.capPop n) s = .next t ∧ t.out = .readData y :: s.out ∧ t.caps i = rest ∧
      getBits y 0 48 = c.wide.toNat / 10 ^ 9 ∧ bitOf y 48 = c.rising ∧ bitOf y 63 = true ∧
      t.fld F.TIM_CAP_LO_NS i = c.wide.toNat % 10 ^ 9 ∧ t.fld F.TIM_CAP_LO_FRAC i = c.frac.toNat) ∧
    (s.flag F.TIM_REF10M_STATUS_PRESENT 0 = true → ∃ t, exec .ref10mMark s = .next t ∧
      s.OnlyRegs t [(.TIM_REF10M_CAP, 0), (.TIM_REF10M_STATUS, 0)] ∧ t.reg .TIM_REF10M_CAP 0 = s.wide ∧
      t.fld F.TIM_REF10M_STATUS_MARKS 0 = (s.fld F.TIM_REF10M_STATUS_MARKS 0 + 1) % 2 ^ 32) ∧
    (∃ t u, exec .ref10mLoss s = .next t ∧ exec .ref10mReturn s = .next u ∧ s.OnlySignals t ∧ s.OnlyRegs u [(.TIM_REF10M_STATUS, 0)] ∧
      t.fld F.TIM_REF10M_STATUS_PRESENT 0 = 0 ∧ t.fld F.TIM_REF10M_STATUS_LOSS 0 = 1 ∧ t.Event .TIM_EVT 0 4 ∧
      u.fld F.TIM_REF10M_STATUS_PRESENT 0 = 1) ∧
    (s.flag F.TIM_GNSS_CTL_EN 0 = true →
      (s.gnssRx.length < 2048 → ∃ t, exec (.gnssLine b true) s = .next t ∧
        t.gnssRx = s.gnssRx ++ [{ byte := b, line := if x.lineStart then some s.wide else none }] ∧ t.tim.lineStart = (b == 0x0A) ∧
        (x.lineStart = true → t.reg .TIM_GNSS_LINE_TS 0 = s.wide ∧ t.Event .TIM_EVT 0 5)) ∧
      (2048 ≤ s.gnssRx.length → ∃ t, exec (.gnssLine b true) s = .next t ∧ t.gnssRx = s.gnssRx ∧ t.fld F.TIM_GNSS_STATUS_RX_OVERRUN 0 = 1 ∧
        t.tim.lineStart = (b == 0x0A) ∧ (x.lineStart = true → t.reg .TIM_GNSS_LINE_TS 0 = s.wide ∧ t.Event .TIM_EVT 0 5)) ∧
      (∃ t, exec (.gnssLine b false) s = .next t ∧ t.gnssRx = s.gnssRx ∧ t.fld F.TIM_GNSS_STATUS_FRAMING 0 = 1 ∧ t.tim.lineStart = false ∧
        (x.lineStart = true → t.reg .TIM_GNSS_LINE_TS 0 = s.wide ∧ t.Event .TIM_EVT 0 5)) ∧
      (∀ rest, s.gnssTx = b :: rest → exec .gnssTxByteSent s = .next { s with gnssTx := rest, out := .uart b :: s.out })) ∧
    (s.regOpen .TIM_GNSS_RX 0 = true → s.gnssRx = [] → exec .gnssRxRead s = .next { s with out := .readData 0 :: s.out }) ∧
    (∀ g rest, s.regOpen .TIM_GNSS_RX 0 = true → s.gnssRx = g :: rest → ∃ y, exec .gnssRxRead s = .next { s with gnssRx := rest, out := .readData y :: s.out } ∧
      getBits y 0 8 = g.byte.toNat ∧ bitOf y 8 = true ∧ bitOf y 9 = g.line.isSome) ∧
    (s.regOpen .TIM_GNSS_TX 0 = true → s.gnssTx.length < 256 → exec (.gnssTxWrite b) s = .next { s with gnssTx := s.gnssTx ++ [b] }) ∧
    (s.regOpen .TIM_GNSS_TX 0 = true → 256 ≤ s.gnssTx.length → ∃ t, exec (.gnssTxWrite b) s = .next t ∧ s.OnlyRegs t [(.TIM_GNSS_STATUS, 0)] ∧
      t.fld F.TIM_GNSS_STATUS_TX_OVERRUN 0 = 1) ∧
    (s.flag F.TIM_PPS_OUT_EN 0 = true → s.shadow = [] → (∃ m : Nat, edge s.time (((m : Int) * 1000000000 + shift) * 4294967296)) →
      ∃ t i, exec (.ppsOutEdge true) s = .next t ∧ edge s.time i ∧ t = { s with tim := { x with pps := State.riseAt x.pps i } } ∧
        t.tim.pps.high = true ∧ t.tim.pps.edge = State.stampOf i) ∧
    (s.flag F.TIM_PPS_OUT_EN 0 = true → fell x.pps (s.fld F.TIM_PPS_OUT_WIDTH_US 0 * 4294967296000) → ∃ t, exec (.ppsOutEdge false) s = .next t ∧
      t = { s with tim := { x with pps := t.tim.pps } } ∧ t.tim.pps.high = false ∧
      t.tim.pps.edge = State.stampOf (x.pps.rose + s.fld F.TIM_PPS_OUT_WIDTH_US 0 * 4294967296000)) ∧
    (¬fell x.pps (s.fld F.TIM_PPS_OUT_WIDTH_US 0 * 4294967296000) → exec (.ppsOutEdge false) s = .next s) ∧
    (mode = 2 → (s.tout k.val).done = false → edge s.time (s.toutStart k.val) →
      ∃ t, exec (.toutEdge k true) s = .next t ∧ t = { s with tim := t.tim } ∧
        t.tout k.val = { State.riseAt (s.tout k.val) (s.toutStart k.val) with done := true }) ∧
    (mode = 3 → (∃ m : Nat, edge s.time (s.toutStart k.val + (m : Int) * s.toutPeriod k.val)) → s.toutPeriod k.val ≠ 0 →
      ∃ t i, exec (.toutEdge k true) s = .next t ∧ t = { s with tim := t.tim } ∧ edge s.time i ∧ t.tout k.val = State.riseAt (s.tout k.val) i) ∧
    (2 ≤ mode → fell (s.tout k.val) (s.fld F.TIM_TOUT_WIDTH_WIDTH k.val * 65536) → ∃ t, exec (.toutEdge k false) s = .next t ∧
      t = { s with tim := t.tim } ∧ (t.tout k.val).high = false) ∧
    (s.regOpen .TIM_TOUT_CTL k.val = true → ∃ t, exec (.toutCtlWrite k v) s = .next t ∧ getBits (t.reg .TIM_TOUT_CTL k.val) 0 4 = v.toNat ∧
      (t.tout k.val).high = false ∧
      ((t.tout k.val).done = true ↔ (t.reg .TIM_TOUT_START k.val).toNat ≤ s.time.toNat / 4294967296)) ∧
    ((s.fn (.pf h)).ptmEnable = true → (s.fn (.pf h)).d3hot = false → s.linkUp h.val = true → ∃ t, exec (.ptmDialog h) s = .next t ∧
      t.ptm h.val = { p with dialog := true }) ∧
    (p.dialog = true → (s.fn (.pf h)).ptmEnable = false → exec (.ptmDialogDone h (some r)) s = .next (s.setPtm h.val { p with dialog := false })) ∧
    (p.dialog = true → (s.fn (.pf h)).ptmEnable = true → ∃ t u, exec (.ptmDialogDone h (some r)) s = .next t ∧ exec (.ptmDialogDone h none) s = .next u ∧
      (t.ptm h.val).dialog = false ∧ (t.ptm h.val).dev = s.wide ∧ (t.ptm h.val).host = r.host ∧ (t.ptm h.val).fails = 0 ∧
      t.fld F.TIM_PTM_STATUS_VALID h.val = 1 ∧ (r.t32.toNat ≤ r.t41.toNat → t.fld F.TIM_PTM_STATUS_UNC_PS h.val =
        min 0xFFFFFFFF ((r.t41.toNat - r.t32.toNat) / 2 + 1000 * (if r.gran = 0 then 20 else r.gran.toNat))) ∧
      u.fld F.TIM_PTM_STATUS_FAIL_CNT h.val = min (s.fld F.TIM_PTM_STATUS_FAIL_CNT h.val + 1) 0xFFFFFF ∧
      u.ptm h.val = { p with dialog := false, fails := p.fails + 1 } ∧
      (p.fails = 2 → u.fld F.TIM_PTM_STATUS_VALID h.val = 0 ∧ u.Event .TIM_EVT 0 6)) ∧
    (s.shadow = [] → ∃ t, exec (.timePageUpdate h) s = .next t ∧ SMap.get 0 t.tim.seqs h.val = seq + 2 ∧
      SMap.get [] t.tim.pages h.val = page ∧
      (s.isSafe = false → s.fld F.TIM_TP_CTL_EN 0 / 2 ^ h.val % 2 = 1 → s.muted (.pf h) none = false → s.linkUp h.val = true →
        s.ideDrops (.pf h) = false →
        t.out = w 0 (page.take 4) :: w 4 (page.drop 4) :: w 0 (toBytesLE 4 (seq + 1).toNat) :: s.out) ∧
      (s.fld F.TIM_TP_CTL_EN 0 / 2 ^ h.val % 2 = 0 → t.out = s.out))

/-- R357–R360, R367, R369, R370, R372, R374, R422: SA commands on the selected SA, each with its result and CMD_DONE: INSTALL takes the staging
registers and zeroes key and salt, READ loads all but those, DELETE and ZEROIZE_ALL empty; a raw block is ciphered with a usable RAW SA, and is
refused by CIPHER otherwise; KEYLD answers its result and installs or deletes within the Truss's window alone. It rests on the model's choices or
readings of log entries 11 and 65, which no rule states. -/
def Obligations.Cipher : Prop :=
  ∀ (s : State) (q : Seq) (n : ThreadId) (k : Fin 64) (o : OutOp) (c : CipFault),
    let i := s.selSa
    let a := s.sa i
    let cmd : Prop := s.regOpen .CIP_SA_CMD 0 = true
    let ended (t : State) (code : Nat) : Prop := t.Ended F.CIP_SA_STATUS_LAST_RESULT F.CIP_SA_STATUS_LAST_SEQ 0 code q ∧
      t.Event .CIP_EVT 0 3 ∧ s.OnlySignals { t with sas := s.sas }
    let became (t : State) (b : Sa) : Prop := t.sa i = b ∧ ∀ j, j ≠ i → t.sa j = s.sa j
    let kind := if s.fld F.CIP_SA_CFG_KIND 0 = 3 then 0 else s.fld F.CIP_SA_CFG_KIND 0
    let key (j : Nat) : BitVec 256 := (s.reg .CIP_SA_KEY j).setWidth 256 <<< (64 * j)
    let left : State := s.setThr n.val { s.thr n.val with ops := (s.thr n.val).ops.eraseIdx k.val }
    (cmd → a.state = 0 → s.shadow = [] → ∃ t b, exec (.saInstall q) s = .next t ∧ ended t 0 ∧ became t b ∧ b.state = 1 ∧ b.kind = kind ∧
      b.tx = (kind != 2 && s.flag F.CIP_SA_CFG_DIR 0) ∧ b.k256 = (kind == 1 || s.flag F.CIP_SA_CFG_KEY256 0) ∧
      b.esn = (s.flag F.CIP_SA_CFG_ESN 0 && kind == 0) ∧ b.spi.toNat = s.fld F.CIP_SA_SPI_SPI 0 ∧
      b.soft = (s.reg .CIP_SA_SOFT 0).toNat ∧ (kind = 1 → s.reg .CIP_SA_PN 0 ≠ 0 → b.pn = (s.reg .CIP_SA_PN 0).toNat) ∧
      b.key = key 0 ||| key 1 ||| key 2 ||| key 3 ∧
      b.salt = ((s.reg .CIP_SA_SALT_0 0).setWidth 96 ||| (s.reg .CIP_SA_SALT_1 0).setWidth 96 <<< 32) ∧
      t.reg .CIP_SA_KEY 0 = 0 ∧ t.reg .CIP_SA_KEY 1 = 0 ∧ t.reg .CIP_SA_KEY 2 = 0 ∧ t.reg .CIP_SA_KEY 3 = 0 ∧ t.reg .CIP_SA_SALT_0 0 = 0 ∧
      t.reg .CIP_SA_SALT_1 0 = 0) ∧
    (cmd → a.state ≠ 0 → ∃ t u, exec (.saInstall q) s = .next t ∧ ended t 2 ∧ t.sas = s.sas ∧
      exec (.saDelete q) s = .next u ∧ ended u 0 ∧ became u {}) ∧
    (cmd → a.state = 0 → ∃ t, exec (.saDelete q) s = .next t ∧ ended t 3 ∧ t.sas = s.sas) ∧
    (cmd → s.shadow = [] → ∃ t, exec (.saRead q) s = .next t ∧ ended t 0 ∧ t.sas = s.sas ∧
      t.reg .CIP_SA_CFG 0 = BitVec.ofNat 64 (State.saCfg a) ∧ t.reg .CIP_SA_SPI 0 = a.spi.setWidth 64 ∧
      t.reg .CIP_SA_PN 0 = BitVec.ofNat 64 a.pn ∧ t.reg .CIP_SA_SOFT 0 = BitVec.ofNat 64 a.soft ∧
      t.reg .CIP_SA_CNTIDX 0 = BitVec.ofNat 64 a.cntidx ∧ ∀ j, t.reg .CIP_SA_KEY j = s.reg .CIP_SA_KEY j ∧
        t.reg .CIP_SA_SALT_0 j = s.reg .CIP_SA_SALT_0 j ∧ t.reg .CIP_SA_SALT_1 j = s.reg .CIP_SA_SALT_1 j) ∧
    (cmd → a.state = 1 → s.shadow = [] → ∃ t, exec (.setSoft q) s = .next t ∧ ended t 0 ∧
      became t { a with soft := (s.reg .CIP_SA_SOFT 0).toNat, softHit := false }) ∧
    (cmd → a.state ≠ 1 → ∃ t, exec (.setSoft q) s = .next t ∧ ended t 3 ∧ t.sas = s.sas) ∧
    (cmd → ∃ t, exec (.zeroizeAll q) s = .next t ∧ ended t 0 ∧ ∀ j, t.sa j = {}) ∧
    ((s.thr n.val).ops[k.val]? = some o → (s.thr n.val).dropping = false →
      (((s.thr n.val).ops.take k.val).any OutOp.isAes = true → o.isAes = true → exec (.aesResult n k c) s = .next s) ∧
      (∀ j dec hi lo rd, o.op = .aes j dec hi lo rd → ((s.thr n.val).ops.take k.val).any OutOp.isAes = false →
        let b := s.sa j.toNat
        let text := toBytesLE 8 lo.toNat ++ toBytesLE 8 hi.toNat
        let out := if dec then aesDecrypt b.keyBytes text else aesEncrypt b.keyBytes text
        let w (bs : List Byte) : Word := BitVec.ofNat 64 (fromBytesLE bs)
        (b.state = 1 → b.kind = 2 → b.trussMask.getLsbD (n.val / 64) = true → o.live = true → ∃ t u : State,
          exec (.aesResult n k .none) s = .next t ∧ left.Wrote n.val rd (w (out.take 8)) u ∧ u.Wrote n.val (rd + 1) (w (out.drop 8)) t) ∧
        (b.state ≠ 1 ∨ b.kind ≠ 2 → exec (.aesResult n k c) s = .next (left.retExc n.val o .cipher)) ∧
        (b.trussMask.getLsbD (n.val / 64) = false → exec (.aesResult n k .none) s = .next (left.retExc n.val o .cipher)) ∧
        (b.state = 1 → b.kind = 2 → ∃ t, exec (.aesResult n k .mismatch) s = .next t ∧
          t.fld F.CIP_DUP_CNT_MISMATCH 0 = min (s.fld F.CIP_DUP_CNT_MISMATCH 0 + 1) 0xFFFFFFFF ∧ t.Event .CIP_EVT 0 2)) ∧
      (∀ install j k256 bytes rd, o.op = .keyld install j k256 bytes rd → o.live = true → s.shadow = [] →
        let t0 := n.val / 64
        let b := s.sa j.toNat
        let inside : Prop := s.fld F.CIP_RAW_WIN_BASE t0 ≤ j.toNat ∧ j.toNat < s.fld F.CIP_RAW_WIN_BASE t0 + s.fld F.CIP_RAW_WIN_COUNT t0
        let answers (code : Nat) (new : Sa) : Prop := ∃ t u : State, exec (.keyldResult n k) s = .next t ∧
          u.Wrote n.val rd (BitVec.ofNat 64 code) t ∧ left.OnlyRegs { u with sas := s.sas } [] ∧ u.sa j.toNat = new ∧
          ∀ m, m ≠ j.toNat → u.sa m = s.sa m
        (¬inside ∨ (b.state ≠ 0 ∧ b.kind ≠ 2) → answers 4 b) ∧
        (inside → install = true → b.state = 0 → answers 0 { state := 1, kind := 2, k256 := k256, trussMask := 1 <<< t0, pn := 1, fw := true
                                                             key := BitVec.ofNat 256 (fromBytesLE (bytes.take (if k256 then 32 else 16))) }) ∧
        (inside → install = true → b.state ≠ 0 → b.kind = 2 → answers 2 b) ∧
        (inside → install = false → b.state = 0 → answers 3 b) ∧
        (inside → install = false → b.state ≠ 0 → b.kind = 2 → answers 0 {})))

/-- R265, R383, R385, R391, R399–R402: an armed compare that is reached makes TIMER pending, and ends a waiting ALLOC with NONE; a Truss in which
every thread waits for another is reported once; ABORT_THREAD and RESTART_TRUSS, their refusals, and their ends. It rests on the model's choices
or readings of log entry 71, which no rule states. -/
def Obligations.TrussCommands : Prop :=
  ∀ (s : State) (n : ThreadId) (tr : Truss) (l : Fin 64) (q : Seq),
    let y := s.thr n.val
    let i := tr.val
    let m := 64 * i + l.val
    let busy := s.flag F.TRS_STATUS_BUSY i
    let ended (t : State) (code : Nat) (q : Seq) : Prop := t.Ended F.TRS_STATUS_LAST_RESULT F.TRS_STATUS_LAST_SEQ i code q ∧
      t.Event .TRS_EVT i 3
    let cmd : Prop := s.regOpen .TRS_CMD i = true
    let refused (c : Instr) (code : Nat) : Prop := cmd → ∃ t, exec c s = .next t ∧ s.OnlySignals t ∧ ended t code q
    let gone (t : State) (k : Nat) : Prop := (t.thr k).aborting = true ∧ (t.thr k).armed = false ∧ (t.thr k).joinable = false ∧
      (t.thr k).rail = none ∧ (t.thr k).partMsg = [] ∧ ∀ o ∈ (t.thr k).ops, o.live = false
    let stalled : Prop := (∃ k, 0 < k ∧ k < 64 ∧ (s.thr (64 * i + k)).state = .waiting) ∧ ∀ k, 0 < k → k < 64 →
      let z := s.thr (64 * i + k)
      z.state ≠ .running ∧ z.state ≠ .halted ∧ (z.state = .waiting → z.waitMask &&& 0x9F = 0 ∧ z.implicit = none)
    let halted : Prop := ∃ k, k < 64 ∧ (s.thr (64 * i + k)).state = .halted
    let held : Prop := busy = false ∧ ¬halted ∧ s.trussPwr i = 0
    (y.armed = true → y.cmp.toNat ≤ s.cycle.toNat → s.domOn (16 + n.val / 64) = true →
      (y.implicit = none → ∃ t, exec (.timer n) s = .next t ∧ s.OnlyThread t n.val ∧ t.thr n.val = { y with pend := y.pend ||| 1 }) ∧
      (∀ a b c rd, y.implicit = some (.alloc a b c rd) → ∃ t, exec (.timer n) s = .next t ∧ (t.thr n.val).implicit = none ∧
        (y.state = .waiting → (t.thr n.val).state = .running) ∧ (rd ≠ 0 → t.g n.val rd = noneVal) ∧
        ∀ w ∈ t.bpmWait, w.who ≠ .thread n.val)) ∧
    (y.armed = false → exec (.timer n) s = .next s) ∧
    (stalled → SMap.get false s.stallDone i = false → ∃ t, exec (.trussStall tr) s = .next t ∧ SMap.get false t.stallDone i = true ∧
      t.fld F.TRS_SUP_CAUSE_STALL i = 1 ∧ t.Event .TRS_EVT i 0 ∧ t.threads = s.threads ∧
      (s.coreOff = false → t.fld F.FCU_CNT_COUNT 1 = min (s.fld F.FCU_CNT_COUNT 1 + 1) 0xFFFFFFFF)) ∧
    (¬stalled ∨ SMap.get false s.stallDone i = true → exec (.trussStall tr) s = .next s) ∧
    (busy = true → refused (.abortThread tr l q) 1 ∧ refused (.restartTruss tr q) 1) ∧
    (busy = false → l = 0 ∨ (s.thr m).state = .free → refused (.abortThread tr l q) 2) ∧
    (busy = false → l ≠ 0 → (s.thr m).state = .halted → refused (.abortThread tr l q) 3) ∧
    (cmd → busy = false → l ≠ 0 → (s.thr m).state ≠ .free → (s.thr m).state ≠ .halted → ∃ t, exec (.abortThread tr l q) s = .next t ∧
      t.fld F.TRS_STATUS_BUSY i = 1 ∧ gone t m) ∧
    (busy = true → l ≠ 0 → s.abortingIn i = [m] → (s.thr m).ops = [] → ∃ t, exec (.abortThreadDone tr) s = .next t ∧
      (t.thr m).state = .free ∧ t.fld F.TRS_STATUS_BUSY i = 0 ∧ ended t 0 (s.trsSeq i)) ∧
    (busy = false → halted → refused (.restartTruss tr q) 3) ∧
    (busy = false → ¬halted → s.trussPwr i ≠ 0 → refused (.restartTruss tr q) 4) ∧
    (held → s.flag F.TRS_INFO_FIRMWARE i = false → refused (.restartTruss tr q) 5) ∧
    (cmd → held → s.flag F.TRS_INFO_FIRMWARE i = true → ∃ t, exec (.restartTruss tr q) s = .next t ∧ t.fld F.TRS_STATUS_BUSY i = 1 ∧
      (∀ k, k < 64 → k = 0 ∨ (s.thr (64 * i + k)).state ≠ .free → gone t (64 * i + k)) ∧
      ∀ p r, (s.rail p r).reader = some i → (t.rail p r).msgs = []) ∧
    (busy = true → s.flag F.TRS_INFO_FIRMWARE i = true → (s.thr (64 * i)).aborting = true →
      (s.thr (64 * i)).dropping = false → (∀ k, k < 64 → (s.thr (64 * i + k)).aborting = true → (s.thr (64 * i + k)).ops = []) →
      ∃ t, exec (.restartTrussDone tr) s = .next t ∧ t.fld F.TRS_STATUS_BUSY i = 0 ∧ ended t 0 (s.trsSeq i) ∧
        t.thr (64 * i) = { state := .running, pc := BitVec.ofNat 32 (s.fld F.TRS_INFO_ENTRY i) } ∧
        ∀ k, 0 < k → k < 64 → (s.thr (64 * i + k)).aborting = true → (s.thr (64 * i + k)).dropping = false → (t.thr (64 * i + k)).state = .free)

/-- R445, R448–R450, R452: a DMA instruction places its descriptor in the ring of an ACTIVE channel that has room; a channel starts empty, and stops
after the descriptor in progress; the engine issues one burst of the channel that is ready, here between RLD places and of zeros; a descriptor
that has ended is written back with OWN 0 and its STATUS, counted, and announced where NOTICE asks. It rests on the model's choices or readings
of log entry 115, which no rule states. -/
def Obligations.DmaChannels : Prop :=
  ∀ (s : State) (n : ThreadId) (k ch : Fin 64) (o : OutOp) (p : Pier) (e : Ecc) (r : DmaRun),
    let left : State := s.setThr n.val { s.thr n.val with ops := (s.thr n.val).ops.eraseIdx k.val }
    let sel := s.selCh p.val
    let key := State.chKey p.val
    let x := s.dmaC p.val sel
    let c := s.dmaC p.val ch.val
    let one (t : State) (j : Nat) (new : DmaCh) : Prop := t.dmaC p.val j = new ∧ ∀ j', j' < 64 → j' ≠ j → t.dmaC p.val j' = s.dmaC p.val j'
    let running : Prop := c.state = 1 ∧ c.run = some r
    let ready : Prop := running ∧ e ≠ .uncorrected ∧ (∀ z ∈ r.bursts, z.1 ≠ r.issued) ∧ r.status = 0 ∧ r.allocWait = false ∧ r.issued < Desc.len r.desc ∧ r.outstanding < 32 ∧ s.shadow = [] ∧
      s.dmaStopped p.val = false ∧ ∀ j, j < 64 → j ≠ ch.val → (s.dmaC p.val j).state ≠ 1
    let src := Desc.src r.desc + r.issued
    let dst := Desc.dst r.desc + r.issued
    let whole := min (min 512 (Desc.len r.desc - r.issued)) (512 - dst % 512)
    let burst (len : Nat) (byte : Nat → Byte) : Prop := ∃ t, exec (.dmaBurstIssue p e) s = .next t ∧
      one t ch.val { c with run := some { r with issued := r.issued + len } } ∧ (∀ i, i < len → t.rldByte (dst + i) = byte i) ∧
      ∀ a, a < dst ∨ dst + len ≤ a → t.rldByte a = s.rldByte a
    let back := descSet (descSet r.desc 0 1 0) 16 8 r.status
    let at_ := s.chSlot p.val ch.val c.head
    let ended : Prop := running ∧ r.outstanding = 0 ∧ r.allocWait = false ∧ r.head = none ∧ s.dmaStopped p.val = false ∧ c.stopping = false ∧ r.arrived = true ∧
      (r.status ≠ 0 ∨ Desc.len r.desc ≤ r.issued)
    let released (t : State) : Prop := one t ch.val { c with run := none, head := c.head + 1 } ∧
      t.fld F.DMA_CH_CNT_RELEASED (key ch.val) = min (s.fld F.DMA_CH_CNT_RELEASED (key ch.val) + 1) 0xFFFFFFFF ∧
      (r.status ≠ 0 → t.fld F.DMA_ERR_CNT_COUNT p.val = min (s.fld F.DMA_ERR_CNT_COUNT p.val + 1) 0xFFFFFFFF)
    (∀ d rd, (s.thr n.val).ops[k.val]? = some o → o.live = true → (s.thr n.val).dropping = false → o.op = .dma ch d rd →
      let p := n.val / 192
      let c := s.dmaC p ch.val
      let full : Prop := (c.tail - c.head).toNat = s.chRingSize p ch.val
      (c.state ≠ 1 ∨ full → ∃ t, exec (.dmaPlaceResult n k) s = .next t ∧ left.Wrote n.val rd 1 t) ∧
      (c.state = 1 → ¬full → ∃ t, exec (.dmaPlaceResult n k) s = .next t ∧ (rd ≠ 0 → t.g n.val rd = 0) ∧
        t.dmaC p ch.val = { c with tail := c.tail + 1 } ∧ ∀ i, i < 32 → t.rldByte (s.chSlot p ch.val c.tail + i) =
          (toBytesLE 32 (descSet (descSet d 0 1 1) 36 6 (n.val % 64)).toNat).getD i 0)) ∧
    (s.regOpen .DMA_CH_CTL p.val = true → s.fld F.DMA_CH_CTL_EN (key sel) = 0 → x.state = 0 → s.shadow = [] → ∃ t,
      exec (.dmaChEnable p) s = .next t ∧ t.fld F.DMA_CH_CTL_EN (key sel) = 1 ∧
      s.OnlyRegs { t with dmaCh := s.dmaCh } [(.DMA_CH_CTL, key sel), (.DMA_CH_RING, key sel)] ∧
      (s.chTruss p.val sel = none → t.reg .DMA_CH_RING (key sel) = s.reg .DMA_CH_RING (key sel)) ∧
      one t sel { state := 1, gen := x.gen + 1, wrote := x.wrote }) ∧
    (s.regOpen .DMA_CH_CTL p.val = true → ∃ t, exec (.dmaChDisable p) s = .next t ∧ s.OnlyRegs { t with dmaCh := s.dmaCh } [(.DMA_CH_CTL, key sel)] ∧
      t.fld F.DMA_CH_CTL_EN (key sel) = 0 ∧ (x.run = none → (t.dmaC p.val sel).state = 0) ∧
      (x.run.isSome = true → x.state = 1 → one t sel { x with stopping := true })) ∧
    (s.regOpen .DMA_CH_DB p.val = true → s.chTruss p.val sel = none → x.state = 1 → x.run.isSome = true → x.fetchOut = false → ∃ t,
      exec (.dmaChDb p) s = .next t ∧ t = { s with dmaCh := t.dmaCh } ∧ one t sel { x with examining := true }) ∧
    (s.regOpen .DMA_CH_DB p.val = true → s.chTruss p.val sel = none → x.state = 1 → x.fetchOut = true → ∃ t,
      exec (.dmaChDb p) s = .next t ∧ t = { s with dmaCh := t.dmaCh } ∧ one t sel { x with again := true }) ∧
    (ready → Desc.dstKind r.desc = 1 → Desc.srcKind r.desc = 5 → burst whole fun _ => 0) ∧
    (ready → Desc.dstKind r.desc = 1 → Desc.srcKind r.desc = 1 →
      let len := min whole (4096 - src % 4096)
      s.rldBadIn src len = false → burst len fun i => s.rldByte (src + i)) ∧
    (ended → ∀ j, s.chTruss p.val ch.val = some j → ∃ t, exec (.dmaDescRelease p ch) s = .next t ∧ released t ∧
      (∀ i, i < 32 → t.rldByte (at_ + i) = (toBytesLE 32 back.toNat).getD i 0) ∧
      (Desc.notice r.desc = true → (s.thr (64 * j + Desc.placer r.desc)).state ≠ .free →
        (t.thr (64 * j + Desc.placer r.desc)).pend.getLsbD 4 = true)) ∧
    (ended → s.chTruss p.val ch.val = none → s.linkUp s.mgmtLink = true → s.muted .mf none = false → s.ideDrops .mf = false →
      c.examining = false → Desc.notice r.desc = false → ∃ t, exec (.dmaDescRelease p ch) s = .next t ∧ released t ∧
        t.out = .hostWrite .mf at_ (toBytesLE 32 back.toNat) false false :: s.out)

/-! ### Security, debug, power -/

/-- R476–R481, R490–R492, R502: a SEC command is refused while another runs, in the wrong lifecycle state, for an argument or for want of fuses, and
otherwise starts; when its fuses verify it takes effect, and ends; TO_ANALYSIS asks for a token, and the device restarts in ANALYSIS; the nonce
and the token buffer. It rests on the model's choices or readings of log entries 37, 45 and 122, which no rule states. -/
def Obligations.SecurityCommands : Prop :=
  ∀ (s : State) (q : Seq) (w : Word) (r : SecRun) (bad : BitVec 16),
    let busy := s.flag F.SEC_STATUS_BUSY 0
    let lc := s.lifecycle
    let v := s.fld F.SEC_ARG_SEL_VALUE 0
    let cmd : Prop := s.regOpen .SEC_CMD 0 = true
    let ended (t : State) (code : Nat) (q : Seq) : Prop := t.Ended F.SEC_STATUS_LAST_RESULT F.SEC_STATUS_LAST_SEQ 0 code q ∧ t.Event .SEC_EVT 0 0
    let refused (c : Instr) (code : Nat) : Prop := ∃ t, exec c s = .next t ∧ ended t code q ∧ s.OnlySignals { t with sec := s.sec } ∧
      t.lifecycle = lc
    let runs (t : State) (op arg : Nat) (ws : List (Nat × BitVec 16)) : Prop := t.fld F.SEC_STATUS_BUSY 0 = 1 ∧
      t.sec.running = some ⟨op, arg, q, ws⟩ ∧ t.sec.fuseA = burn s.sec.fuseA ws
    let starts (c : Instr) (op arg : Nat) (ws : List (Nat × BitVec 16)) : Prop := ∃ t, exec c s = .next t ∧ runs t op arg ws ∧
      s.OnlyRegs { t with sec := s.sec } [(.SEC_STATUS, 0)]
    let slot := keySlot (BitVec.ofNat 32 v)
    let hash := (List.range 6).foldl (fun h k => h + (s.reg .SEC_ARG k).toNat * 2 ^ (64 * k)) 0
    let cause := s.tokenCause true
    let left := s.fld F.SEC_SVN_SVN_WORDS_LEFT 0
    let thLeft := s.fld F.SEC_SVN_TH_WORDS_LEFT 0
    let ones := fuseSplit fuseUds 24 (2 ^ 384 - 1)
    let done (t : State) : Prop := exec (.secCmdDone none) s = .next t
    let both (t : State) : Prop := ended t 0 r.seq ∧ t.sec.fuseA = s.sec.fuseA ∧ t.sec.fuseB = burn s.sec.fuseB r.words
    (cmd → busy = true → ∀ c ∈ [Instr.provision q, .fuseKey q, .revokeKey q, .deploy q, .raiseSvn q, .raiseThSvn q, .toAnalysis q], refused c 1) ∧
    (cmd → busy = false →
      (lc ≠ 0 → refused (.provision q) 2) ∧
      (lc ≠ 1 → refused (.fuseKey q) 2 ∧ refused (.deploy q) 2) ∧
      (lc ≠ 1 → lc ≠ 2 → refused (.revokeKey q) 2 ∧ refused (.raiseSvn q) 2 ∧ refused (.raiseThSvn q) 2 ∧ refused (.toAnalysis q) 2) ∧
      (lc = 0 → ∃ t uds, exec (.provision q) s = .next t ∧ runs t 1 0 (fuseSplit fuseUds 24 uds ++ [(fuseLc, 1)]) ∧
        s.OnlyRegs { t with sec := s.sec, free := s.free } [(.SEC_STATUS, 0)]) ∧
      (lc = 1 → ∀ n, slot = some n → 16 ≤ n → s.slotFull n = false →
        starts (.fuseKey q) 2 (n + 32 * hash) (fuseSplit (fuseKeys + 24 * (n - 16)) 24 hash)) ∧
      (lc = 1 → ∀ n, slot = some n → n < 16 ∨ s.slotFull n = true → refused (.fuseKey q) 3) ∧
      (lc = 1 ∨ lc = 2 → ∀ n, slot = some n →
        (s.slotFull n = true → s.lastPair n = false → starts (.revokeKey q) 3 n (fuseSplit fuseRevoke 2 (2 ^ n))) ∧
        (s.slotFull n = false ∨ s.lastPair n = true → refused (.revokeKey q) 3)) ∧
      (lc = 1 → ∀ i, s.slots.active = some i →
        (keyPair i.hdr.keyMldsa i.hdr.keyEcdsa = some 3 → starts (.deploy q) 4 0 [(fuseLc, 2)]) ∧
        (keyPair i.hdr.keyMldsa i.hdr.keyEcdsa ≠ some 3 → refused (.deploy q) 3)) ∧
      (lc = 1 ∨ lc = 2 → (v % 65536 ≤ s.fld F.CFG_MIN_SVN_MIN_SVN 0 ∨ s.activeSvn < v % 65536 → refused (.raiseSvn q) 3) ∧
        (s.fld F.CFG_MIN_SVN_MIN_SVN 0 < v % 65536 → v % 65536 ≤ s.activeSvn →
          (left ≠ 0 → starts (.raiseSvn q) 5 (v % 65536) [(fuseSvn + (64 - left), BitVec.ofNat 16 (v % 65536))]) ∧
          (left = 0 → refused (.raiseSvn q) 4)) ∧
        (s.thMinSvn < v % 65536 → v % 65536 ≤ s.fld F.SEC_BOOT_STATUS_TH_SVN 0 →
          (thLeft ≠ 0 → starts (.raiseThSvn q) 6 (v % 65536) [(fuseThSvn + (32 - thLeft), BitVec.ofNat 16 (v % 65536))]) ∧
          (thLeft = 0 → refused (.raiseThSvn q) 4))) ∧
      (lc = 1 ∨ lc = 2 → (cause ≠ 0 → ∃ t, exec (.toAnalysis q) s = .next t ∧ ended t 5 q ∧ t.fld F.DBG_STATUS_REJECT_CAUSE 0 = cause ∧
          t.sec.nonceLive = false ∧ t.sas = s.sas ∧ t.lifecycle = lc) ∧
        (cause = 0 → ∃ t, exec (.toAnalysis q) s = .next t ∧ runs t 7 0 ones ∧ t.sec.fuseB = burn s.sec.fuseB ones ∧
          t.sec.nonceLive = false ∧ t.dbgLevel = 0 ∧ ∀ i, t.sa i = {}))) ∧
    (s.sec.running = some r →
      (∃ t, exec (.secCmdDone (some bad)) s = .next t ∧ ended t 6 r.seq ∧ t.lifecycle = lc ∧
        t.sec = { s.sec with running := none, fuseA := t.sec.fuseA } ∧ (∀ w, w ≠ bad.toNat → t.fuseA w = s.fuseA w) ∧
        (s.coreOff = false → t.fld F.FCU_CNT_COUNT 2 = min (s.fld F.FCU_CNT_COUNT 2 + 1) 0xFFFFFFFF)) ∧
      (r.op = 1 → ∃ t, done t ∧ both t ∧ t.lifecycle = 1 ∧ t.dbgLevel = 0) ∧
      (r.op = 2 → ∃ t, done t ∧ both t ∧ t.lifecycle = lc) ∧
      (r.op = 3 → r.arg < 32 → ∃ t, done t ∧ both t ∧ t.fld F.SEC_KEYS_REVOKED 0 / 2 ^ r.arg % 2 = 1) ∧
      (r.op = 4 → ∃ t, done t ∧ both t ∧ t.lifecycle = 2 ∧ t.dbgLevel = 0) ∧
      (r.op = 5 → r.arg < 65536 → ∃ t, done t ∧ both t ∧ t.fld F.CFG_MIN_SVN_MIN_SVN 0 = r.arg ∧ t.fld F.SEC_SVN_SVN_WORDS_LEFT 0 = left - 1) ∧
      (r.op = 6 → r.arg < 65536 → ∃ t, done t ∧ both t ∧ t.thMinSvn = r.arg ∧ t.fld F.SEC_SVN_TH_WORDS_LEFT 0 = thLeft - 1) ∧
      (r.op = 7 → ∃ t, done t ∧ t.lifecycle = 3 ∧ lcState (t.fuseA fuseLc).toNat = some 3 ∧ t.dev = .locking ∧ t.threads = [] ∧
        t.slots.active = none)) ∧
    (s.regOpen .DBG_NONCE 0 = true → ∃ t, exec .dbgNonceRead s = .next t ∧
      s.RegsBut t [(.DBG_NONCE, 0), (.DBG_NONCE, 1), (.DBG_NONCE, 2), (.DBG_NONCE, 3)] ∧
      t.out = .readData (t.reg .DBG_NONCE 0) :: s.out ∧ t.sec = { s.sec with nonceLive := true }) ∧
    (exec .nonceExpire s = .next { s with sec := { s.sec with nonceLive := false } }) ∧
    (s.regOpen .DBG_TOKEN_DATA 0 = true → s.fld F.DBG_TOKEN_PTR_INDEX 0 ≤ 622 → ∃ t, exec (.dbgTokenWrite w) s = .next t ∧
      s.OnlyRegs { t with sec := s.sec } [(.DBG_TOKEN_PTR, 0)] ∧
      t.fld F.DBG_TOKEN_PTR_INDEX 0 = s.fld F.DBG_TOKEN_PTR_INDEX 0 + 1 ∧ t.tokenWord (s.fld F.DBG_TOKEN_PTR_INDEX 0) = w) ∧
    (s.regOpen .DBG_TOKEN_DATA 0 = true → 622 < s.fld F.DBG_TOKEN_PTR_INDEX 0 → exec (.dbgTokenWrite w) s = .next s)

/-- R485–R488, R490, R492, R506, R510: OPEN takes a token that passes, uses up the nonce and sets level and scope; the session's end lets every
HALTED thread run on; a thread command is refused without a session, out of scope, of a gated Truss, in the wrong state and while a STEP is in
progress; HALT, RESUME, ABORT, and STEP, which waits for a slot in which the thread's instruction can issue; reads and writes of a HALTED
thread's registers, and of the scratchpad; JTAG. It rests on the model's choices or readings of log entries 25, 26, 27, 77 and 124, which no rule
states. -/
def Obligations.DebugSession : Prop :=
  ∀ (s : State) (level : BitVec 2) (q : Seq) (w : Word) (rd rs rt : RegNo) (e : Ecc) (tdi : List Bool) (off : BitVec 20) (a b c : Ecc),
    let lv := s.dbgLevel
    let n := s.selThr
    let y := s.thr n
    let cause := s.tokenCause false
    let blank : Prop := s.lifecycle = 0 ∧ lv = 0 ∧ s.sec.tokenSeen = []
    let ended (t : State) (code : Nat) : Prop := t.Ended F.DBG_STATUS_LAST_RESULT F.DBG_STATUS_LAST_SEQ 0 code q
    let thrEnded (t : State) (code : Nat) : Prop := t.Ended F.DBG_THR_STATUS_LAST_RESULT F.DBG_THR_STATUS_LAST_SEQ 0 code q
    let closed (t : State) : Prop := t.dbgLevel = 0 ∧ ∀ m, (s.thr m).state = .halted → (s.thr m).prior ≠ .halted → (t.thr m).state = (s.thr m).prior
    let cmds : List Instr := [.halt q, .resumeThread q, .stepThread q a b c, .abort q]
    let thrCmd : Prop := s.regOpen .DBG_THR_CMD 0 = true
    let barred (code : Nat) : Prop := thrCmd → ∀ c ∈ cmds, ∃ t, exec c s = .next t ∧ thrEnded t code ∧ s.OnlyRegs t [(.DBG_STATUS, 0), (.DBG_THR_STATUS, 0)]
    let cmd : Prop := s.regOpen .DBG_CMD 0 = true
    let up : Prop := s.dev ≠ .standby ∧ s.dev ≠ .off ∧ s.dev ≠ .inReset
    let open_ : Prop := lv ≠ 0 ∧ s.dbgThread n = true ∧ s.trussPwr (n / 64) = 0
    let free : Prop := open_ ∧ s.heldStep = none ∧ thrCmd
    let acted (c : Instr) (z : Thread) : Prop := ∃ t, exec c s = .next t ∧ thrEnded t 0 ∧ t.thr n = z ∧ ∀ m, m ≠ n → t.thr m = s.thr m
    let wrong (c : Instr) : Prop := ∃ t, exec c s = .next t ∧ thrEnded t 5 ∧ s.OnlyRegs t [(.DBG_THR_STATUS, 0)]
    let r := s.fld F.DBG_REG_SEL_REG 0
    let reg : Prop := s.regOpen .DBG_REG_DATA 0 = true
    let spm : Prop := s.regOpen .DBG_SPM_DATA 0 = true
    let p := s.fld F.DBG_SPM_ADDR_PIER 0
    let at_ := 8 * s.fld F.DBG_SPM_ADDR_WORD 0
    let bay := s.bay p (State.bayOf at_)
    let out (c : Instr) (bits : List Bool) : Prop := exec c s = .next { s with out := .jtag bits :: s.out }
    let id : List Bool := (List.range 32).map fun i => (0x09640001 : BitVec 32).getLsbD i
    let jtag : Prop := s.dev = .running
    let x : Slot := { thr := Fin.ofNat 768 n }
    let steps : Prop := y.state = .halted ∧ y.prior = .running ∧ n < 768 ∧ y.aborting = false ∧ y.pc.toNat < s.codeSize n ∧
      s.bubble n [rs, rt] false = false
    let stepped (c : Instr) : Prop := ∃ t, exec c s = .next t ∧ thrEnded t 0 ∧ t.heldStep = none ∧ (t.thr n).state = .halted ∧
      (t.thr n).prior = .running ∧ (t.thr n).pc = y.pc + 4 ∧ (rd ≠ 0 → t.g n rd = s.g n rs + s.g n rt)
    (cmd → up → ¬blank → cause = 0 → ∃ t, exec (.openSession level q) s = .next t ∧ ended t 0 ∧ t.sec.nonceLive = false ∧
      t.fld F.DBG_STATUS_EVER_OPENED 0 = 1 ∧ t.dbgEnd = (s.reg .TOP_UPTIME 0).toNat + 25000000 * s.tokenBits 7 32 32 ∧
      (s.tokenKind = 2 → t.dbgLevel = 2) ∧ (s.tokenKind = 1 → t.dbgLevel = 1 ∧ t.fld F.DBG_STATUS_SPAN 0 = s.tokenBits 7 0 12 ∧
        t.fld F.DBG_STATUS_TRUSS_MASK 0 = s.tokenBits 7 16 12)) ∧
    (cmd → up → ¬blank → cause ≠ 0 → ∃ t, exec (.openSession level q) s = .next t ∧ ended t 2 ∧ t.sec.nonceLive = false ∧ t.dbgLevel = lv ∧
      t.fld F.DBG_STATUS_REJECT_CAUSE 0 = cause) ∧
    (cmd → ¬up → exec (.openSession level q) s = .next s) ∧
    (cmd → up → blank → ∃ t, exec (.openSession level q) s = .next t ∧ ended t 0 ∧ t.dbgLevel = (if level = 2 then 2 else 1)) ∧
    (cmd → lv = 0 → ∃ t, exec (.closeSession q) s = .next t ∧ ended t 4 ∧ s.OnlyRegs t [(.DBG_STATUS, 0)]) ∧
    (cmd → lv ≠ 0 → ∃ t u, exec (.closeSession q) s = .next t ∧ exec .sessionExpire s = .next u ∧ ended t 0 ∧ closed t ∧ closed u) ∧
    (s.heldStep = none → (lv = 0 → barred 4) ∧ (lv ≠ 0 → s.dbgThread n = false → barred 3) ∧
      (lv ≠ 0 → s.dbgThread n = true → s.trussPwr (n / 64) ≠ 0 → barred 6)) ∧
    (∀ k u, thrCmd → s.heldStep = some (k, u) → ∀ c ∈ cmds, ∃ t, exec c s = .next t ∧ thrEnded t 1 ∧ s.OnlyRegs t [(.DBG_THR_STATUS, 0)]) ∧
    (free → y.state = .free ∨ y.state = .done → wrong (.halt q)) ∧
    (free → y.state ≠ .free → y.state ≠ .done → y.state ≠ .halted → acted (.halt q) { y with state := .halted, prior := y.state }) ∧
    (free → y.state ≠ .halted → wrong (.resumeThread q) ∧ wrong (.stepThread q a b c) ∧ wrong (.abort q)) ∧
    (free → y.state = .halted → acted (.halt q) y ∧ acted (.resumeThread q) { y with state := y.prior, prior := .free } ∧
      (y.ops = [] → ∃ t, exec (.abort q) s = .next t ∧ thrEnded t 0 ∧ (t.thr n).state = .free ∧ (t.thr n).regs = []) ∧
      (y.ops ≠ [] → ∃ t, exec (.abort q) s = .next t ∧ t.heldStep = some (n, q) ∧ (t.thr n).dropping = true ∧ (t.thr n).aborting = true ∧
        ∀ o ∈ (t.thr n).ops, o.live = false)) ∧
    (free → steps → decodeEng x 0 (s.fetchWord n) = some (.add x rd rs rt) → stepped (.stepThread q .ok .ok .ok)) ∧
    (free → y.state = .halted → y.prior ≠ .running → exec (.stepThread q a b c) s = .next { s with heldStep := some (n, q) }) ∧
    (s.heldStep = some (n, q) → steps → stepped (.add x rd rs rt)) ∧
    (open_ → reg → y.state = .halted → r < 32 → ∃ t u, exec (.dbgRegWrite w) s = .next t ∧ exec .dbgRegRead s = .next u ∧
      t.fld F.DBG_THR_STATUS_LAST_RESULT 0 = 0 ∧ (∀ k : RegNo, t.g n k = if k.toNat = r ∧ k ≠ 0 then w else s.g n k) ∧
      u.out = .readData (s.g n (BitVec.ofNat 5 r)) :: s.out) ∧
    (open_ → reg → y.state ≠ .halted → ∃ t u, exec (.dbgRegWrite w) s = .next t ∧ exec .dbgRegRead s = .next u ∧ s.OnlyRegs t [(.DBG_THR_STATUS, 0)] ∧
      t.fld F.DBG_THR_STATUS_LAST_RESULT 0 = 5 ∧ u.fld F.DBG_THR_STATUS_LAST_RESULT 0 = 5) ∧
    (spm → lv ≠ 0 → bay.pwr = 0 → bay.transit = none → s.dbgAll = true ∨ bay.owner = State.ownerSpan (s.fld F.DBG_STATUS_SPAN 0) → s.spmBad p at_ = false →
      exec (.dbgSpmRead .ok) s = .next { s with out := .readData (s.spmWord p at_) :: s.out }) ∧
    (spm → lv ≠ 0 → bay.pwr ≠ 0 → ∃ t, exec (.dbgSpmRead e) s = .next t ∧ t.fld F.DBG_STATUS_GATED 0 = 1) ∧
    (spm → lv ≠ 0 → bay.pwr = 0 → bay.transit = none → s.dbgAll = false → bay.owner ≠ State.ownerSpan (s.fld F.DBG_STATUS_SPAN 0) →
      ∃ t, exec (.dbgSpmRead e) s = .next t ∧ t.fld F.DBG_STATUS_DENIED 0 = 1 ∧ t.out = .readData 0 :: s.out) ∧
    (jtag → out (.jtagScan .idcode tdi) ((id ++ tdi).take tdi.length) ∧ out (.jtagScan .bypass tdi) ((false :: tdi).take tdi.length) ∧
      (lv ≠ 2 → out (.jtagScan .bus tdi) (List.replicate tdi.length true) ∧
        out (.jtagScan (.scan 0xFF) tdi) (List.replicate tdi.length true)) ∧
      (lv = 2 → ∃ t, exec (.jtagScan (.scan 0xFF) tdi) s = .next t ∧ t.dev = .scanned) ∧
      exec (.jtagScan (.register off (some w)) tdi) s = .next (s.busWrite (0xD00000 + off.toNat) w))

/-- R493–R499, R504, R524: GATE's checks in their order, and its acceptance; a gated domain; wakes by work and by UNGATE; power-up; Standby's entry
and its wake; the boot flash. It rests on the model's choices or readings of log entries 24, 46 and 47, which no rule states. -/
def Obligations.PowerDomains : Prop :=
  ∀ (s : State) (domain : Byte) (q : Seq) (mctp : Bool) (n : BitVec 64) (k : Fin 7),
    let d := domain.toNat
    let pier := (d - 16) / 3
    let busy := s.flag F.PWR_STATUS_BUSY 0
    let ended (t : State) (code : Nat) (q : Seq) : Prop := t.Ended F.PWR_STATUS_LAST_RESULT F.PWR_STATUS_LAST_SEQ 0 code q ∧ t.Event .PWR_EVT 0 0
    let cmd : Prop := s.regOpen .PWR_CMD 0 = true
    let refused (c : Instr) (code : Nat) : Prop := cmd → ∃ t, exec c s = .next t ∧ ended t code q ∧ t.domState d = s.domState d ∧ t.threads = s.threads
    let idle : Prop := d < 4 ∨ (16 ≤ d ∧ d < 28)
    let ready : Prop := idle ∧ busy = false ∧ s.cfgState = 0 ∧ s.domState d = 0
    let halted : Prop := ∃ m ∈ State.domThreads d, (s.thr m).state = .halted
    let was := SMap.get 0 s.pwrSeq d
    (idle → busy = true ∨ s.cfgState ≠ 0 ∨ s.domState d ≠ 0 → refused (.gate domain q) 1) ∧
    (ready → halted → refused (.gate domain q) 2 ∧ (cmd → ∃ t, exec (.gate domain q) s = .next t ∧ t.Event .PWR_EVT 0 1 ∧
      (s.coreOff = false → t.fld F.FCU_CNT_COUNT 0 = min (s.fld F.FCU_CNT_COUNT 0 + 1) 0xFFFFFFFF))) ∧
    (ready → ¬halted → 16 ≤ d → (∃ m ∈ State.domThreads d, (s.thr m).state = .running) → refused (.gate domain q) 3) ∧
    (ready → ¬halted → d < 4 → s.trussPwr (3 * d) ≠ 2 → refused (.gate domain q) 3) ∧
    (ready → ¬halted → s.domActive d = false → 16 ≤ d → (∃ m ∈ State.domThreads d, (s.thr m).armed = true ∧
      (s.thr m).cmp.toNat ≤ s.cycle.toNat + 12800 ∧ s.cycle.toNat ≤ (s.thr m).cmp.toNat) → refused (.gate domain q) 4) ∧
    (ready → ¬halted → s.domActive d = false → s.timerNear d = false → cmd → ∃ t, exec (.gate domain q) s = .next t ∧
      t.domState d = 1 ∧ t.fld F.PWR_STATUS_BUSY 0 = 1 ∧ SMap.get 0 t.pwrSeq d = q ∧ t.threads = s.threads) ∧
    (idle → s.domState d = 1 → (d < 4 → SMap.get [] s.reentry d = [] ∧ SMap.get [] s.espLane d = [] ∧ SMap.get [] s.egress d = []) →
      ∃ t, exec (.gatingDone domain) s = .next t ∧ t.domState d = 2 ∧ t.fld F.PWR_STATUS_BUSY 0 = 0 ∧ ended t 0 was ∧
        (d < 4 → ∀ j, j < 16384 → SMap.get [] t.fcache (j + 16384 * d) = [])) ∧
    (idle → s.domState d = 2 → (16 ≤ d → s.domState pier = 0) → cmd → ∃ u, exec (.ungate domain q) s = .next u ∧
      (busy = false → u.domState d = 3 ∧ ended u 0 q ∧ u.fld F.PWR_WAKE_CNT_COUNT 0 = s.fld F.PWR_WAKE_CNT_COUNT 0) ∧
      (busy = true → u.domState d = 2 ∧ ended u 1 q)) ∧
    (idle → s.domState d = 2 → (16 ≤ d → s.domState pier = 0) → ∃ t, exec (.domainWake domain) s = .next t ∧
      t.domState d = 3 ∧ t.fld F.PWR_WAKE_CNT_COUNT 0 = min (s.fld F.PWR_WAKE_CNT_COUNT 0 + 1) 0xFFFFFFFF ∧ t.Event .PWR_EVT 0 2) ∧
    (idle → s.domState d = 1 → (16 ≤ d → s.domState pier = 0) → ∃ t, exec (.domainWake domain) s = .next t ∧ t.domState d = 0 ∧ ended t 5 was) ∧
    (16 ≤ d → d < 28 → s.domState d = 2 → s.domState pier = 2 → ∃ t, exec (.domainWake domain) s = .next t ∧ t.domState d = 3 ∧ t.domState pier = 3) ∧
    (idle → busy = false → s.domState d = 0 → (16 ≤ d → s.domState pier = 0) → refused (.ungate domain q) 0) ∧
    (idle → s.domState d = 3 → (16 ≤ d → s.domState pier = 0) → s.ring = [] → ∃ t, exec (.powerupDone domain) s = .next t ∧ t.domState d = 0 ∧
      s.OnlyRegs t [(.PWR_DOMAINS, 0)]) ∧
    (16 ≤ d → d < 28 → s.domState pier ≠ 0 → exec (.powerupDone domain) s = .next s) ∧
    (s.dev = .running → busy = true ∨ s.cfgState ≠ 0 ∨ s.flag F.SEC_STATUS_BUSY 0 = true → refused (.standby q) 1) ∧
    (cmd → s.dev ≠ .running → exec (.standby q) s = .next s) ∧
    (cmd → s.dev = .running → busy = false → s.cfgState = 0 → s.flag F.SEC_STATUS_BUSY 0 = false → ∃ t, exec (.standby q) s = .next t ∧ t.dev = .standby ∧ t.dbgLevel = 0 ∧
      t.sec.dice = false ∧ (∀ i, t.sa i = {}) ∧ t.tim.atStandby = s.wide ∧ t.timState = s.timState ∧ t.threads = [] ∧ t.rld = [] ∧ t.spm = [] ∧
      (∀ p b, p < 4 → b < 8 → (t.bay p b).pwr = 2) ∧ t.reg .TIM_INCR 0 = s.reg .TIM_INCR 0 ∧ t.reg .TIM_LEAP 0 = s.reg .TIM_LEAP 0 ∧ t.reg .TIM_HOLD_CFG 0 = s.reg .TIM_HOLD_CFG 0 ∧
      t.reg .MAC_WAKE_CTL 0 = s.reg .MAC_WAKE_CTL 0) ∧
    (s.dev = .standby → mctp = true ∨ s.reg .MAC_WAKE_STATUS 0 ≠ 0 → ∃ t, exec (.standbyWake mctp n) s = .next t ∧ t.dev = .locking ∧
      t.wakeLow = true ∧ t.fld F.PWR_STANDBY_WAKE_CAUSE 0 = (if mctp then 2 else 1) ∧ t.reg .TOP_UPTIME 0 = s.reg .TOP_UPTIME 0 + n ∧
      t.fld F.PWR_STANDBY_WAKE_DURATION_S 0 = min (n.toNat / 25000000) 0xFFFFFFFF) ∧
    (s.dev = .standby → mctp = false → s.reg .MAC_WAKE_STATUS 0 = 0 → exec (.standbyWake mctp n) s = .next s) ∧
    (s.dev = .standby → exec (.pldmUpdate k true) s = .next { s with out := .mctpNotReady :: s.out }) ∧
    (s.dev = .running → exec (.pldmUpdate k false) s = .next { s with flashBusy := s.flashBusy.filter (· != k.val) } ∧
      (s.slots.reading = none → ∃ t, exec (.pldmUpdate k true) s = .next t ∧ k.val ∈ t.flashBusy ∧ t.out = .pldm false :: s.out) ∧
      (∀ i z, s.slots.reading = some (false, i, z) → k.val = 1 + i →
        exec (.pldmUpdate k true) s = .next { s with out := .pldm true :: s.out }))

/-- R22, R23, R349, R478, R482, R511, R515–R519, R521: PORST_N and the loss of the supply lose all but fuses; the PLL's lock starts the clocks, with
the counter as R349 gives it; the boot ends with the device running, with the image it found or without, or with no firmware; the reference
clocks. It rests on the model's choices or readings of log entries 6, 49, 51, 90, 122 and 123, which no rule states. -/
def Obligations.ResetAndBoot : Prop :=
  ∀ (s : State) (st : Straps) (late : Bool) (l : LockFind),
    let b := l.boot
    let lost (t : State) : Prop := t.threads = [] ∧ t.slots = {} ∧ t.rld = [] ∧ t.spm = [] ∧ t.queues = [] ∧ t.sas = [] ∧ t.macs = [] ∧
      t.sec = { fuseA := s.sec.fuseA, fuseB := s.sec.fuseB } ∧
      (∀ r ∈ fuseRegs, t.reg r 0 = s.reg r 0) ∧ t.fld F.SEC_KEYS_REVOKED 0 = s.fld F.SEC_KEYS_REVOKED 0
    let fresh (t : State) (l : List Reg) : Prop := ∀ r i, r ∉ fuseRegs ++ .SEC_KEYS :: l → t.reg r i = r.resetWord
    let counted (t : State) : Prop := t.fld F.FCU_CNT_COUNT 2 = min (s.fld F.FCU_CNT_COUNT 2 + 1) 0xFFFFFFFF
    let read := (b.fuses.foldl State.fuseEvent s).readFuses
    let good (cp : Nat) (bs : List Byte) : Prop := read.lcLost = false ∧ b.devs = 4 ∧ read.thCopy b = some (cp, bs)
    let upNow := s.reg .TOP_UPTIME 0 + (if late then 1251 else 1250)
    let away := s.tim.aonCount + (if late then 1251 else 1250)
    (∃ t u, exec .porstNAssert s = .next t ∧ exec .supplyRemoved s = .next u ∧ t.dev = .inReset ∧ u.dev = .off ∧ lost t ∧ lost u ∧
      fresh t [] ∧ fresh u []) ∧
    (s.dev = .inReset ∨ s.dev = .off → ∃ t, exec (.porstNRelease st) s = .next t ∧ t.dev = .locking ∧ lost t ∧
      fresh t [.TOP_STRAP, .PWR_TJ_CFG] ∧ t.fld F.TOP_STRAP_MGMT_HOST 0 = st.mgmtHost.toNat ∧ t.fld F.TOP_STRAP_BOOT_SEL 0 = st.bootSel.toNat ∧
      (s.fld F.TOP_GRADE_GRADE 0 = 0 → t.reg .PWR_TJ_CFG 0 = Reg.resetWord .PWR_TJ_CFG) ∧
      (s.fld F.TOP_GRADE_GRADE 0 = 1 → t.fld F.PWR_TJ_CFG_LIMIT 0 = 840 ∧ t.fld F.PWR_TJ_CFG_CRIT 0 = 960)) ∧
    (s.dev = .locking → s.refLost = false → s.ethLost = false → ∃ t, exec (.pllLock late l) s = .next t ∧ t.cycle = 0 ∧ t.aonPhase = l.phase.val ∧
      t.reg .TOP_UPTIME 0 = upNow ∧ t.fld F.TOP_CLK_STATUS_PLL_LOCK 0 = 1 ∧
      (s.woke = false → t.time = 0) ∧ (s.woke = true → t.time = BitVec.ofNat 96 (s.tim.atStandby.toNat * 2 ^ 32 +
        away * 40 * 2 ^ 32 * s.fld F.TIM_INCR_INCR 0 / 5368709120)) ∧
      (s.timState = 0 → t.timState = 0) ∧ (s.timState ≠ 0 → t.timState = 2 ∧ t.tim.holdStart = s.tim.atStandby ∧
        t.tim.servoPs = min (s.tim.servoPs + 80000) 0xFFFFFFFE) ∧
      (∀ c bs, c < 2 → good c bs → t.dev = .booting ∧ t.fld F.SEC_BOOT_STATUS_TH_COPY 0 = c ∧
        t.fld F.SEC_BOOT_STATUS_TH_SVN 0 = (ImgHdr.ofBytes bs).svn.toNat ∧ t.sec.thDigest = Config.sha384 (ImgFile.signed { bytes := bs })) ∧
      (read.lcLost = true ∨ b.devs ≠ 4 ∨ read.thCopy b = none → t.dev = .bootFailed ∧ t.slots = s.slots ∧ t.faultNLow = true)) ∧
    (s.dev = .booting → ∀ x, s.bootPick x = none → ∃ t, exec (.bootImageActive x) s = .next t ∧ t.dev = .running ∧ t.slots = s.slots ∧
      t.Event .SEC_EVT 0 1 ∧ ∀ n, n < 8 → t.fld F.RLC_STATUS_READY n = 1) ∧
    (s.dev = .booting → ∀ x k f, s.bootPick x = some (k, f) → k ∈ State.bootSlots (s.fld F.TOP_STRAP_BOOT_SEL 0) ∧ s.stageCheck f = 0 ∧
      ∃ t, exec (.bootImageActive x) s = .next t ∧ t.dev = .running ∧ t.slots = { active := some f.image } ∧ t.wakeLow = false) ∧
    (∀ d, d = .inReset ∨ d = .locking ∨ d = .running ∨ d = .bootFailed → s.dev = d → ∀ x, exec (.bootImageActive x) s = .next s) ∧
    (s.dev = .running → s.refLost = false → ∃ t, exec .refclkLoss s = .next t ∧ t.refLost = true ∧ t.fld F.TOP_CLK_STATUS_REF_LOSS 0 = 1 ∧
      t.fld F.TOP_CLK_STATUS_PLL_LOCK 0 = 0 ∧ counted t) ∧
    (s.dev = .running → s.refLost = true → ∃ t, exec .refclkReturn s = .next t ∧ t.refLost = false ∧
      s.OnlyRegs { t with refLost := true, free := s.free, aonPhase := s.aonPhase } [(.TOP_CLK_STATUS, 0)] ∧ t.aonPhase < 32 ∧ t.fld F.TOP_CLK_STATUS_PLL_LOCK 0 = 1) ∧
    (s.dev = .running → s.ethLost = false → ∃ t, exec .ethRefclkLoss s = .next t ∧ t.ethLost = true ∧ t.fld F.TOP_CLK_STATUS_ETH_REF_LOSS 0 = 1 ∧
      counted t ∧ ∀ m, m < 16 → s.macState m = 3 ∨ s.macState m = 4 → t.macState m = 2) ∧
    exec .ethRefclkReturn s = .next { s with ethLost := false }

/-- R513, R525, R528, R529: a rail's reading, its extremes and its mark; the hottest sensor, its peak, the limit with its hysteresis, and THERM_N; the seconds
behind TEQ; an aging monitor's reading and its warning, given once. -/
def Obligations.Monitors : Prop :=
  ∀ (s : State) (mv : List (BitVec 16)) (r : Nat) (ts : List (BitVec 12)) (k : Nat) (v : BitVec 12) (n : Fin 22) (y : Byte),
    let rail := SMap.get {} s.supply r
    let rd := (mv.getD r 0).toNat
    let hot : Prop := ts.length ≤ 28 ∧ ts[k]? = some v ∧ (∀ (j : Nat) (u : BitVec 12), ts[j]? = some u → u.toInt ≤ v.toInt) ∧ ∀ (j : Nat) (u : BitVec 12), j < k → ts[j]? = some u → u.toInt < v.toInt
    let limit := signed 12 (s.fld F.PWR_TJ_CFG_LIMIT 0)
    let crit := signed 12 (s.fld F.PWR_TJ_CFG_CRIT 0)
    let hyst : Int := 8 * s.fld F.PWR_TJ_CFG_HYST 0
    let was := s.fld F.PWR_TJ_STATUS_OVER_LIMIT 0
    let count (t : State) (i : Nat) : Prop := t.fld F.FCU_CNT_COUNT i = min (s.fld F.FCU_CNT_COUNT i + 1) 0xFFFFFFFF
    (s.sampling = true → mv.length = 8 → r < 8 → ∃ t, exec (.supplySample mv) s = .next t ∧ t.fld F.PWR_SUPPLY_MV r = rd ∧
      t.fld F.PWR_SUPPLY_STATUS_OUT 0 / 2 ^ r % 2 = b2n (outside (railNominal.getD r 0) rd) ∧
      (rail.seen = true → t.fld F.PWR_SUPPLY_MIN_MV r = min rd (s.fld F.PWR_SUPPLY_MIN_MV r) ∧
        t.fld F.PWR_SUPPLY_MAX_MV r = max rd (s.fld F.PWR_SUPPLY_MAX_MV r)) ∧
      (outside (railNominal.getD r 0) rd = true → t.fld F.PWR_SUPPLY_STATUS_SEEN 0 / 2 ^ r % 2 = 1 ∧
        (rail.excursion = false → (∀ j, j < 8 → j ≠ r → outside (railNominal.getD j 0) (mv.getD j 0).toNat = false) → count t 2))) ∧
    (s.sampling = true → hot → ∃ t, exec (.tempSample ts) s = .next t ∧ t.fld F.PWR_TJ_STATUS_HOT 0 = v.toNat ∧
      t.fld F.PWR_TJ_STATUS_HOT_SENSOR 0 = k ∧ (∀ (j : Nat) (u : BitVec 12), ts[j]? = some u → t.fld F.PWR_TJ_TJ j = u.toNat ∧ t.fld F.PWR_TJ_VALID j = 1) ∧
      (s.peakClear = true ∨ signed 12 (s.fld F.PWR_TJ_PEAK_PEAK 0) < v.toInt → t.fld F.PWR_TJ_PEAK_PEAK 0 = v.toNat) ∧
      (crit ≤ v.toInt → t.fld F.PWR_TJ_STATUS_THERM 0 = 1) ∧ (v.toInt < crit - hyst → t.fld F.PWR_TJ_STATUS_THERM 0 = 0) ∧
      (was = 0 → limit ≤ v.toInt → t.fld F.PWR_TJ_STATUS_OVER_LIMIT 0 = 1 ∧ count t 1) ∧
      (was = 1 → limit - hyst ≤ v.toInt → t.fld F.PWR_TJ_STATUS_OVER_LIMIT 0 = 1 ∧ t.fld F.FCU_CNT_COUNT 1 = s.fld F.FCU_CNT_COUNT 1) ∧
      (was = 1 → v.toInt < limit - hyst → t.fld F.PWR_TJ_STATUS_OVER_LIMIT 0 = 0)) ∧
    (s.coreUp = true → ∃ t, exec .tjEqUpdate s = .next t ∧ s.OnlyRegs t [(.PWR_TJ_EQ, 0)] ∧
      t.fld F.PWR_TJ_EQ_SECONDS 0 = min (s.fld F.PWR_TJ_EQ_SECONDS 0 + 1) 0xFFFFFFFF) ∧
    (s.ageOn n.val = true → ∃ t, exec (.agingMeasure n y) s = .next t ∧ t.fld F.PWR_AGE_CONSUMED n.val = y.toNat ∧ t.fld F.PWR_AGE_VALID n.val = 1 ∧
      (s.fld F.PWR_AGE_CFG_WARN 0 ≤ y.toNat → SMap.get false t.aged n.val = true ∧
        (SMap.get false s.aged n.val = false → count t 0)) ∧
      (SMap.get false s.aged n.val = true → s.OnlyRegs t [(.PWR_AGE, n.val)]))
end

