-- ==== Sys2Proof/Laws/Bits.lean ====
section
/-!
SUPPORT. Bit fields of words: reading a field after writing it, after writing a field that lies apart, and after masking.
-/

namespace Sys2Proof.Machine

theorem fieldMask_getLsbD (lo n i : Nat) (h : lo + n ≤ 64) : (fieldMask lo n).getLsbD i = decide (lo ≤ i ∧ i < lo + n) := by
  unfold fieldMask
  rw [BitVec.getLsbD_shiftLeft, BitVec.getLsbD_ofNat, Nat.testBit_two_pow_sub_one]
  by_cases h2 : lo ≤ i
  · have e1 : ¬ i < lo := by omega
    have e2 : (i - lo < n) = (i < lo + n) := by rw [eq_iff_iff]; omega
    by_cases h3 : i < lo + n
    · have e3 : i < 64 := by omega
      have e4 : i - lo < 64 := by omega
      simp [h2, h3, e1, e2, e3, e4]
    · simp [h3, e2]
  · have e1 : i < lo := by omega
    simp [h2, e1]

/-- A field's value, bit by bit. -/
theorem getBits_testBit (w : Word) (lo n i : Nat) : (getBits w lo n).testBit i = (decide (i < n) && w.getLsbD (lo + i)) := by
  unfold getBits
  rw [Nat.testBit_mod_two_pow, BitVec.testBit_toNat, BitVec.getLsbD_ushiftRight]

theorem setBits_getLsbD (w : Word) (lo n v i : Nat) (h : lo + n ≤ 64) :
    (setBits w lo n v).getLsbD i = if lo ≤ i ∧ i < lo + n then v.testBit (i - lo) else w.getLsbD i := by
  unfold setBits
  rw [BitVec.getLsbD_or, BitVec.getLsbD_and, BitVec.getLsbD_not, fieldMask_getLsbD lo n i h, BitVec.getLsbD_shiftLeft,
    BitVec.getLsbD_ofNat, Nat.testBit_mod_two_pow]
  by_cases h1 : lo ≤ i <;> by_cases h2 : i < lo + n <;> by_cases h3 : i < 64
  all_goals first
    | (exfalso; omega)
    | (have e1 : ¬ (i < lo) := by omega
       have e2 : i - lo < n ∨ ¬ (i - lo < n) := Nat.lt_or_ge _ _ |>.imp id (by omega)
       have e3 : i - lo < 64 := by omega
       rcases e2 with e2 | e2 <;> first | (simp [h1, h2, h3, e1, e2, e3]; done) | (exfalso; omega))
    | (have e1 : i < lo := by omega
       simp [h1, h2, h3, e1])
    | (have e1 : w.getLsbD i = false := BitVec.getLsbD_of_ge _ _ (by omega)
       simp [h1, h2, h3, e1])

/-- A field reads what was written to it. -/
theorem getBits_setBits_self (w : Word) (lo n v : Nat) (h : lo + n ≤ 64) : getBits (setBits w lo n v) lo n = v % 2 ^ n := by
  apply Nat.eq_of_testBit_eq
  intro i
  rw [getBits_testBit, setBits_getLsbD w lo n v _ h, Nat.testBit_mod_two_pow]
  by_cases hi : i < n <;> simp [hi]

/-- A field that lies apart from the written one keeps its value. -/
theorem getBits_setBits_apart (w : Word) (lo n v a k : Nat) (h : lo + n ≤ 64) (ha : a + k ≤ lo ∨ lo + n ≤ a) :
    getBits (setBits w lo n v) a k = getBits w a k := by
  apply Nat.eq_of_testBit_eq
  intro i
  rw [getBits_testBit, getBits_testBit, setBits_getLsbD w lo n v _ h]
  by_cases hi : i < k
  · have : ¬ (lo ≤ a + i ∧ a + i < lo + n) := by omega
    simp [hi, this]
  · simp [hi]

theorem merge_getLsbD (m o n : Word) (i : Nat) : (merge m o n).getLsbD i = if m.getLsbD i then n.getLsbD i else o.getLsbD i := by
  unfold merge
  rw [BitVec.getLsbD_or, BitVec.getLsbD_and, BitVec.getLsbD_and, BitVec.getLsbD_not]
  by_cases hi : i < 64
  · cases m.getLsbD i <;> simp [hi]
  · have e (w : Word) : w.getLsbD i = false := BitVec.getLsbD_of_ge _ _ (by omega)
    simp [e]

/-- Bits outside the mask keep their old values. -/
theorem merge_zero (o n : Word) : merge 0 o n = o := by
  apply BitVec.eq_of_getLsbD_eq
  intro i _
  rw [merge_getLsbD]
  simp

theorem getBits_lt (w : Word) (lo n : Nat) : getBits w lo n < 2 ^ n := Nat.mod_lt _ (Nat.two_pow_pos n)

end Sys2Proof.Machine
end

