-- ==== Sys2Proof/Laws/Map.lean ====
section
/-!
SUPPORT. Sparse maps: what reading after a write gives, and that every map operation keeps the canonical form.
-/

namespace Sys2Proof.Machine.SMap

variable {V : Type}

theorem find?_insert_self (m : SMap V) (k : Nat) (v : V) : find? (insert m k v) k = some v := by
  induction m with
  | nil => simp [insert, find?]
  | cons e m ih =>
    obtain ⟨a, w⟩ := e
    simp only [insert]
    split
    · simp [find?]
    · split
      · simp [find?]
      · rename_i h1 h2
        simp [find?, h2, ih]

theorem find?_insert_ne (m : SMap V) {k j : Nat} (v : V) (h : j ≠ k) : find? (insert m k v) j = find? m j := by
  induction m with
  | nil => simp [insert, find?, h]
  | cons e m ih =>
    obtain ⟨a, w⟩ := e
    simp only [insert]
    split
    · simp [find?, h]
    · split
      · rename_i h1 h2
        subst h2
        simp [find?, h]
      · simp [find?, ih]

theorem find?_erase_self (m : SMap V) (k : Nat) : find? (erase m k) k = none := by
  induction m with
  | nil => rfl
  | cons e m ih =>
    obtain ⟨a, w⟩ := e
    simp only [erase]
    split
    · exact ih
    · rename_i h
      simp [find?, h, ih]

theorem find?_erase_ne (m : SMap V) {k j : Nat} (h : j ≠ k) : find? (erase m k) j = find? m j := by
  induction m with
  | nil => rfl
  | cons e m ih =>
    obtain ⟨a, w⟩ := e
    simp only [erase]
    split
    · rename_i h1
      subst h1
      simp [find?, h, ih]
    · simp [find?, ih]

/-- A key reads what was last written to it. -/
@[simp] theorem get_put_self [DecidableEq V] (d : V) (m : SMap V) (k : Nat) (v : V) : get d (put d m k v) k = v := by
  unfold get put
  split
  · rename_i h
    simp [find?_erase_self, h]
  · simp [find?_insert_self]

/-- A write leaves every other key alone. -/
theorem get_put_ne [DecidableEq V] (d d' : V) (m : SMap V) {k j : Nat} (v : V) (h : j ≠ k) : get d' (put d m k v) j = get d' m j := by
  unfold get put
  split
  · rw [find?_erase_ne m h]
  · rw [find?_insert_ne m v h]

theorem get_put [DecidableEq V] (d : V) (m : SMap V) (k j : Nat) (v : V) :
    get d (put d m k v) j = if j = k then v else get d m j := by
  split
  · rename_i h; subst h; simp
  · rename_i h; exact get_put_ne d d m v h

@[simp] theorem get_nil (d : V) (k : Nat) : get d ([] : SMap V) k = d := rfl

/-! ### The canonical form -/

/-- Every key of a map is above `k`. -/
def above (k : Nat) (m : SMap V) : Prop := ∀ e ∈ m, k < e.1

theorem rising_cons (a : Nat) (w : V) (m : SMap V) : rising ((a, w) :: m) = true ↔ above a m ∧ rising m = true := by
  induction m generalizing a w with
  | nil => simp [rising, above]
  | cons e m ih =>
    obtain ⟨b, x⟩ := e
    simp only [rising, Bool.and_eq_true, decide_eq_true_eq]
    constructor
    · rintro ⟨hab, hr⟩
      refine ⟨?_, hr⟩
      intro e he
      rcases List.mem_cons.1 he with rfl | he
      · exact hab
      · exact lt_trans hab (((ih b x).1 hr).1 e he)
    · rintro ⟨ha, hr⟩
      exact ⟨ha (b, x) (by simp), hr⟩

theorem above_insert {a : Nat} {m : SMap V} (k : Nat) (v : V) (h : above a m) (hk : a < k) : above a (insert m k v) := by
  induction m with
  | nil => intro e he; simp [insert] at he; subst he; exact hk
  | cons e m ih =>
    obtain ⟨b, w⟩ := e
    have hm : above a m := fun e he => h e (by simp [he])
    have hb : a < b := h (b, w) (by simp)
    intro e he
    simp only [insert] at he
    split at he
    · rcases List.mem_cons.1 he with rfl | he
      · exact hk
      · exact h e he
    · split at he
      · rcases List.mem_cons.1 he with rfl | he
        · exact hk
        · exact hm e he
      · rcases List.mem_cons.1 he with rfl | he
        · exact hb
        · exact ih hm e he

theorem rising_insert {m : SMap V} (k : Nat) (v : V) (h : rising m = true) : rising (insert m k v) = true := by
  induction m with
  | nil => rfl
  | cons e m ih =>
    obtain ⟨a, w⟩ := e
    obtain ⟨ha, hm⟩ := (rising_cons a w m).1 h
    simp only [insert]
    split
    · rename_i hk
      refine (rising_cons k v _).2 ⟨?_, h⟩
      intro e he
      rcases List.mem_cons.1 he with rfl | he
      · exact hk
      · exact lt_trans hk (ha e he)
    · split
      · rename_i h1 h2
        subst h2
        exact (rising_cons k v m).2 ⟨ha, hm⟩
      · rename_i h1 h2
        exact (rising_cons a w _).2 ⟨above_insert k v ha (by omega), ih hm⟩

theorem above_erase {a : Nat} {m : SMap V} (k : Nat) (h : above a m) : above a (erase m k) := by
  induction m with
  | nil => exact h
  | cons e m ih =>
    obtain ⟨b, w⟩ := e
    have hm : above a m := fun e he => h e (by simp [he])
    simp only [erase]
    split
    · exact ih hm
    · intro e he
      rcases List.mem_cons.1 he with rfl | he
      · exact h (b, w) (by simp)
      · exact ih hm e he

theorem rising_erase {m : SMap V} (k : Nat) (h : rising m = true) : rising (erase m k) = true := by
  induction m with
  | nil => rfl
  | cons e m ih =>
    obtain ⟨a, w⟩ := e
    obtain ⟨ha, hm⟩ := (rising_cons a w m).1 h
    simp only [erase]
    split
    · exact ih hm
    · exact (rising_cons a w _).2 ⟨above_erase k ha, ih hm⟩

theorem mem_erase {m : SMap V} {k : Nat} {e : Nat × V} (h : e ∈ erase m k) : e ∈ m := by
  induction m with
  | nil => exact h
  | cons x m ih =>
    obtain ⟨a, w⟩ := x
    simp only [erase] at h
    split at h
    · exact List.mem_cons_of_mem _ (ih h)
    · rcases List.mem_cons.1 h with rfl | h
      · simp
      · exact List.mem_cons_of_mem _ (ih h)

theorem mem_insert {m : SMap V} {k : Nat} {v : V} {e : Nat × V} (h : e ∈ insert m k v) : e = (k, v) ∨ e ∈ m := by
  induction m with
  | nil => simpa [insert] using h
  | cons x m ih =>
    obtain ⟨a, w⟩ := x
    simp only [insert] at h
    split at h
    · simpa using h
    · split at h
      · rcases List.mem_cons.1 h with h | h
        · exact .inl h
        · exact .inr (List.mem_cons_of_mem _ h)
      · rcases List.mem_cons.1 h with rfl | h
        · simp
        · rcases ih h with h | h
          · exact .inl h
          · exact .inr (List.mem_cons_of_mem _ h)

theorem wf_iff [DecidableEq V] (d : Nat → V) (m : SMap V) : wf d m = true ↔ rising m = true ∧ ∀ e ∈ m, e.2 ≠ d e.1 := by
  simp [wf]

/-- A write keeps the canonical form. -/
theorem wf_put [DecidableEq V] (d : V) {m : SMap V} (k : Nat) (v : V) (h : wf (fun _ => d) m = true) :
    wf (fun _ => d) (put d m k v) = true := by
  obtain ⟨hr, hd⟩ := (wf_iff _ m).1 h
  unfold put
  split
  · exact (wf_iff _ _).2 ⟨rising_erase k hr, fun e he => hd e (mem_erase he)⟩
  · rename_i hv
    refine (wf_iff _ _).2 ⟨rising_insert k v hr, fun e he => ?_⟩
    rcases mem_insert he with rfl | he
    · exact hv
    · exact hd e he

theorem rising_filter {m : SMap V} (p : Nat × V → Bool) (h : rising m = true) : rising (m.filter p) = true := by
  induction m with
  | nil => rfl
  | cons e m ih =>
    obtain ⟨a, w⟩ := e
    obtain ⟨ha, hm⟩ := (rising_cons a w m).1 h
    simp only [List.filter_cons]
    split
    · exact (rising_cons a w _).2 ⟨fun e he => ha e (List.mem_filter.1 he).1, ih hm⟩
    · exact ih hm

/-- Dropping entries keeps the canonical form. -/
theorem wf_keep [DecidableEq V] (d : Nat → V) {m : SMap V} (p : Nat → Bool) (h : wf d m = true) : wf d (keep p m) = true := by
  obtain ⟨hr, hd⟩ := (wf_iff d m).1 h
  exact (wf_iff d _).2 ⟨rising_filter _ hr, fun e he => hd e (List.mem_filter.1 he).1⟩

/-- In the canonical form an entry is listed under a key exactly when the key does not read as unlisted. -/
theorem find?_mem {m : SMap V} {k : Nat} {v : V} (h : find? m k = some v) : (k, v) ∈ m := by
  induction m with
  | nil => simp [find?] at h
  | cons e m ih =>
    obtain ⟨a, w⟩ := e
    simp only [find?] at h
    split at h
    · rename_i hk; subst hk; simp at h; simp [h]
    · exact List.mem_cons_of_mem _ (ih h)

end Sys2Proof.Machine.SMap
end

