-- ==== Sys2Proof/Laws/State.lean ====
section
/-!
SUPPORT. What each update of the state leaves alone: for every update, one equation for each field that it does not touch, tagged for
simp, so that no proof unfolds a record update; and what reading an object after writing one gives.
-/

namespace Sys2Proof.Machine.State

variable (s : State)

@[simp] theorem setReg_other (r : Reg) (i : Nat) (w : Word) :
    (s.setReg r i w).shadow = s.shadow ∧ (s.setReg r i w).time = s.time ∧ (s.setReg r i w).cycle = s.cycle ∧
    (s.setReg r i w).dev = s.dev ∧ (s.setReg r i w).fns = s.fns ∧ (s.setReg r i w).msix = s.msix ∧
    (s.setReg r i w).msixWait = s.msixWait ∧ (s.setReg r i w).tags = s.tags ∧ (s.setReg r i w).links = s.links ∧
    (s.setReg r i w).ide = s.ide ∧ (s.setReg r i w).ideKeys = s.ideKeys ∧ (s.setReg r i w).ideRanges = s.ideRanges ∧
    (s.setReg r i w).does = s.does ∧ (s.setReg r i w).faces = s.faces ∧ (s.setReg r i w).facesNext = s.facesNext ∧
    (s.setReg r i w).spans = s.spans ∧ (s.setReg r i w).tlb = s.tlb ∧ (s.setReg r i w).walks = s.walks ∧
    (s.setReg r i w).stalled = s.stalled ∧ (s.setReg r i w).invals = s.invals ∧ (s.setReg r i w).logs = s.logs ∧
    (s.setReg r i w).atsWait = s.atsWait ∧ (s.setReg r i w).spanCmd = s.spanCmd ∧ (s.setReg r i w).queues = s.queues ∧
    (s.setReg r i w).cplDue = s.cplDue ∧ (s.setReg r i w).rxIn = s.rxIn ∧ (s.setReg r i w).mbx = s.mbx ∧
    (s.setReg r i w).threads = s.threads ∧ (s.setReg r i w).rails = s.rails ∧ (s.setReg r i w).eqs = s.eqs ∧
    (s.setReg r i w).held = s.held ∧ (s.setReg r i w).code = s.code ∧ (s.setReg r i w).codeLen = s.codeLen ∧
    (s.setReg r i w).stallDone = s.stallDone ∧ (s.setReg r i w).rld = s.rld ∧ (s.setReg r i w).rldPoison = s.rldPoison ∧
    (s.setReg r i w).dbase = s.dbase ∧ (s.setReg r i w).dsize = s.dsize ∧ (s.setReg r i w).holdBase = s.holdBase ∧
    (s.setReg r i w).capFifo = s.capFifo ∧ (s.setReg r i w).gnssRx = s.gnssRx ∧ (s.setReg r i w).gnssTx = s.gnssTx ∧
    (s.setReg r i w).spm = s.spm ∧ (s.setReg r i w).spmPoison = s.spmPoison ∧ (s.setReg r i w).bays = s.bays ∧
    (s.setReg r i w).spmWait = s.spmWait ∧ (s.setReg r i w).dmaCh = s.dmaCh ∧ (s.setReg r i w).fcuBad = s.fcuBad ∧
    (s.setReg r i w).dmaLast = s.dmaLast ∧ (s.setReg r i w).recs = s.recs ∧ (s.setReg r i w).bufCache = s.bufCache ∧
    (s.setReg r i w).lostBufs = s.lostBufs ∧ (s.setReg r i w).bpmWait = s.bpmWait ∧ (s.setReg r i w).grants = s.grants ∧
    (s.setReg r i w).sweep = s.sweep ∧ (s.setReg r i w).locks = s.locks ∧ (s.setReg r i w).cfgSeq = s.cfgSeq ∧
    (s.setReg r i w).enterSeq = s.enterSeq ∧ (s.setReg r i w).sec = s.sec ∧ (s.setReg r i w).pwrSeq = s.pwrSeq ∧
    (s.setReg r i w).slots = s.slots ∧ (s.setReg r i w).fifo = s.fifo ∧ (s.setReg r i w).holdQ = s.holdQ ∧
    (s.setReg r i w).reentry = s.reentry ∧ (s.setReg r i w).espLane = s.espLane ∧ (s.setReg r i w).egress = s.egress ∧
    (s.setReg r i w).flows = s.flows ∧ (s.setReg r i w).l2 = s.l2 ∧ (s.setReg r i w).encaps = s.encaps ∧
    (s.setReg r i w).routes = s.routes ∧ (s.setReg r i w).gens = s.gens ∧ (s.setReg r i w).l2Bad = s.l2Bad ∧
    (s.setReg r i w).encapBad = s.encapBad ∧ (s.setReg r i w).counters = s.counters ∧ (s.setReg r i w).fcache = s.fcache ∧
    (s.setReg r i w).missBuf = s.missBuf ∧ (s.setReg r i w).ipId = s.ipId ∧ (s.setReg r i w).learnUsed = s.learnUsed ∧
    (s.setReg r i w).evOver = s.evOver ∧ (s.setReg r i w).tblRun = s.tblRun ∧ (s.setReg r i w).tblEv = s.tblEv ∧
    (s.setReg r i w).rules = s.rules ∧ (s.setReg r i w).ruleBad = s.ruleBad ∧ (s.setReg r i w).tmsQ = s.tmsQ ∧
    (s.setReg r i w).nodes = s.nodes ∧ (s.setReg r i w).ptrs = s.ptrs ∧ (s.setReg r i w).arbiter = s.arbiter ∧
    (s.setReg r i w).pols = s.pols ∧ (s.setReg r i w).macs = s.macs ∧ (s.setReg r i w).macCnt = s.macCnt ∧
    (s.setReg r i w).macIn = s.macIn ∧ (s.setReg r i w).portSeq = s.portSeq ∧ (s.setReg r i w).fcReq = s.fcReq ∧
    (s.setReg r i w).standbyUp = s.standbyUp ∧ (s.setReg r i w).sas = s.sas ∧ (s.setReg r i w).tim = s.tim ∧
    (s.setReg r i w).supply = s.supply ∧ (s.setReg r i w).aged = s.aged ∧ (s.setReg r i w).teqSum = s.teqSum ∧
    (s.setReg r i w).teqCount = s.teqCount ∧ (s.setReg r i w).peakClear = s.peakClear ∧ (s.setReg r i w).refLost = s.refLost ∧
    (s.setReg r i w).ethLost = s.ethLost ∧ (s.setReg r i w).aonPhase = s.aonPhase ∧ (s.setReg r i w).dbgEnd = s.dbgEnd ∧
    (s.setReg r i w).heldStep = s.heldStep ∧ (s.setReg r i w).flashBusy = s.flashBusy ∧ (s.setReg r i w).wakeLow = s.wakeLow ∧
    (s.setReg r i w).pins = s.pins ∧ (s.setReg r i w).board = s.board ∧ (s.setReg r i w).vsAddr = s.vsAddr ∧
    (s.setReg r i w).vsLo = s.vsLo ∧ (s.setReg r i w).vsHi = s.vsHi ∧ (s.setReg r i w).ring = s.ring ∧ (s.setReg r i w).out = s.out ∧
    (s.setReg r i w).free = s.free ∧ (s.setReg r i w).pending = s.pending :=
  by refine ⟨?_, ?_, ?_, ?_, ?_, ?_, ?_, ?_, ?_, ?_, ?_, ?_, ?_, ?_, ?_, ?_, ?_, ?_, ?_, ?_, ?_, ?_, ?_, ?_, ?_, ?_, ?_, ?_, ?_, ?_, ?_, ?_, ?_, ?_, ?_, ?_, ?_, ?_, ?_, ?_, ?_, ?_, ?_, ?_, ?_, ?_, ?_, ?_, ?_, ?_, ?_, ?_, ?_, ?_, ?_, ?_, ?_, ?_, ?_, ?_, ?_, ?_, ?_, ?_, ?_, ?_, ?_, ?_, ?_, ?_, ?_, ?_, ?_, ?_, ?_, ?_, ?_, ?_, ?_, ?_, ?_, ?_, ?_, ?_, ?_, ?_, ?_, ?_, ?_, ?_, ?_, ?_, ?_, ?_, ?_, ?_, ?_, ?_, ?_, ?_, ?_, ?_, ?_, ?_, ?_, ?_, ?_, ?_, ?_, ?_, ?_, ?_, ?_, ?_, ?_, ?_, ?_⟩ <;> rfl

@[simp] theorem setFld_other (f : Fld) (i v : Nat) :
    (s.setFld f i v).shadow = s.shadow ∧ (s.setFld f i v).time = s.time ∧ (s.setFld f i v).cycle = s.cycle ∧
    (s.setFld f i v).dev = s.dev ∧ (s.setFld f i v).fns = s.fns ∧ (s.setFld f i v).msix = s.msix ∧
    (s.setFld f i v).msixWait = s.msixWait ∧ (s.setFld f i v).tags = s.tags ∧ (s.setFld f i v).links = s.links ∧
    (s.setFld f i v).ide = s.ide ∧ (s.setFld f i v).ideKeys = s.ideKeys ∧ (s.setFld f i v).ideRanges = s.ideRanges ∧
    (s.setFld f i v).does = s.does ∧ (s.setFld f i v).faces = s.faces ∧ (s.setFld f i v).facesNext = s.facesNext ∧
    (s.setFld f i v).spans = s.spans ∧ (s.setFld f i v).tlb = s.tlb ∧ (s.setFld f i v).walks = s.walks ∧
    (s.setFld f i v).stalled = s.stalled ∧ (s.setFld f i v).invals = s.invals ∧ (s.setFld f i v).logs = s.logs ∧
    (s.setFld f i v).atsWait = s.atsWait ∧ (s.setFld f i v).spanCmd = s.spanCmd ∧ (s.setFld f i v).queues = s.queues ∧
    (s.setFld f i v).cplDue = s.cplDue ∧ (s.setFld f i v).rxIn = s.rxIn ∧ (s.setFld f i v).mbx = s.mbx ∧
    (s.setFld f i v).threads = s.threads ∧ (s.setFld f i v).rails = s.rails ∧ (s.setFld f i v).eqs = s.eqs ∧
    (s.setFld f i v).held = s.held ∧ (s.setFld f i v).code = s.code ∧ (s.setFld f i v).codeLen = s.codeLen ∧
    (s.setFld f i v).stallDone = s.stallDone ∧ (s.setFld f i v).rld = s.rld ∧ (s.setFld f i v).rldPoison = s.rldPoison ∧
    (s.setFld f i v).dbase = s.dbase ∧ (s.setFld f i v).dsize = s.dsize ∧ (s.setFld f i v).holdBase = s.holdBase ∧
    (s.setFld f i v).capFifo = s.capFifo ∧ (s.setFld f i v).gnssRx = s.gnssRx ∧ (s.setFld f i v).gnssTx = s.gnssTx ∧
    (s.setFld f i v).spm = s.spm ∧ (s.setFld f i v).spmPoison = s.spmPoison ∧ (s.setFld f i v).bays = s.bays ∧
    (s.setFld f i v).spmWait = s.spmWait ∧ (s.setFld f i v).dmaCh = s.dmaCh ∧ (s.setFld f i v).fcuBad = s.fcuBad ∧
    (s.setFld f i v).dmaLast = s.dmaLast ∧ (s.setFld f i v).recs = s.recs ∧ (s.setFld f i v).bufCache = s.bufCache ∧
    (s.setFld f i v).lostBufs = s.lostBufs ∧ (s.setFld f i v).bpmWait = s.bpmWait ∧ (s.setFld f i v).grants = s.grants ∧
    (s.setFld f i v).sweep = s.sweep ∧ (s.setFld f i v).locks = s.locks ∧ (s.setFld f i v).cfgSeq = s.cfgSeq ∧
    (s.setFld f i v).enterSeq = s.enterSeq ∧ (s.setFld f i v).sec = s.sec ∧ (s.setFld f i v).pwrSeq = s.pwrSeq ∧
    (s.setFld f i v).slots = s.slots ∧ (s.setFld f i v).fifo = s.fifo ∧ (s.setFld f i v).holdQ = s.holdQ ∧
    (s.setFld f i v).reentry = s.reentry ∧ (s.setFld f i v).espLane = s.espLane ∧ (s.setFld f i v).egress = s.egress ∧
    (s.setFld f i v).flows = s.flows ∧ (s.setFld f i v).l2 = s.l2 ∧ (s.setFld f i v).encaps = s.encaps ∧
    (s.setFld f i v).routes = s.routes ∧ (s.setFld f i v).gens = s.gens ∧ (s.setFld f i v).l2Bad = s.l2Bad ∧
    (s.setFld f i v).encapBad = s.encapBad ∧ (s.setFld f i v).counters = s.counters ∧ (s.setFld f i v).fcache = s.fcache ∧
    (s.setFld f i v).missBuf = s.missBuf ∧ (s.setFld f i v).ipId = s.ipId ∧ (s.setFld f i v).learnUsed = s.learnUsed ∧
    (s.setFld f i v).evOver = s.evOver ∧ (s.setFld f i v).tblRun = s.tblRun ∧ (s.setFld f i v).tblEv = s.tblEv ∧
    (s.setFld f i v).rules = s.rules ∧ (s.setFld f i v).ruleBad = s.ruleBad ∧ (s.setFld f i v).tmsQ = s.tmsQ ∧
    (s.setFld f i v).nodes = s.nodes ∧ (s.setFld f i v).ptrs = s.ptrs ∧ (s.setFld f i v).arbiter = s.arbiter ∧
    (s.setFld f i v).pols = s.pols ∧ (s.setFld f i v).macs = s.macs ∧ (s.setFld f i v).macCnt = s.macCnt ∧
    (s.setFld f i v).macIn = s.macIn ∧ (s.setFld f i v).portSeq = s.portSeq ∧ (s.setFld f i v).fcReq = s.fcReq ∧
    (s.setFld f i v).standbyUp = s.standbyUp ∧ (s.setFld f i v).sas = s.sas ∧ (s.setFld f i v).tim = s.tim ∧
    (s.setFld f i v).supply = s.supply ∧ (s.setFld f i v).aged = s.aged ∧ (s.setFld f i v).teqSum = s.teqSum ∧
    (s.setFld f i v).teqCount = s.teqCount ∧ (s.setFld f i v).peakClear = s.peakClear ∧ (s.setFld f i v).refLost = s.refLost ∧
    (s.setFld f i v).ethLost = s.ethLost ∧ (s.setFld f i v).aonPhase = s.aonPhase ∧ (s.setFld f i v).dbgEnd = s.dbgEnd ∧
    (s.setFld f i v).heldStep = s.heldStep ∧ (s.setFld f i v).flashBusy = s.flashBusy ∧ (s.setFld f i v).wakeLow = s.wakeLow ∧
    (s.setFld f i v).pins = s.pins ∧ (s.setFld f i v).board = s.board ∧ (s.setFld f i v).vsAddr = s.vsAddr ∧
    (s.setFld f i v).vsLo = s.vsLo ∧ (s.setFld f i v).vsHi = s.vsHi ∧ (s.setFld f i v).ring = s.ring ∧ (s.setFld f i v).out = s.out ∧
    (s.setFld f i v).free = s.free ∧ (s.setFld f i v).pending = s.pending :=
  by refine ⟨?_, ?_, ?_, ?_, ?_, ?_, ?_, ?_, ?_, ?_, ?_, ?_, ?_, ?_, ?_, ?_, ?_, ?_, ?_, ?_, ?_, ?_, ?_, ?_, ?_, ?_, ?_, ?_, ?_, ?_, ?_, ?_, ?_, ?_, ?_, ?_, ?_, ?_, ?_, ?_, ?_, ?_, ?_, ?_, ?_, ?_, ?_, ?_, ?_, ?_, ?_, ?_, ?_, ?_, ?_, ?_, ?_, ?_, ?_, ?_, ?_, ?_, ?_, ?_, ?_, ?_, ?_, ?_, ?_, ?_, ?_, ?_, ?_, ?_, ?_, ?_, ?_, ?_, ?_, ?_, ?_, ?_, ?_, ?_, ?_, ?_, ?_, ?_, ?_, ?_, ?_, ?_, ?_, ?_, ?_, ?_, ?_, ?_, ?_, ?_, ?_, ?_, ?_, ?_, ?_, ?_, ?_, ?_, ?_, ?_, ?_, ?_, ?_, ?_, ?_, ?_, ?_⟩ <;> rfl

@[simp] theorem bump_other (f : Fld) (i k : Nat) :
    (s.bump f i k).shadow = s.shadow ∧ (s.bump f i k).time = s.time ∧ (s.bump f i k).cycle = s.cycle ∧ (s.bump f i k).dev = s.dev ∧
    (s.bump f i k).fns = s.fns ∧ (s.bump f i k).msix = s.msix ∧ (s.bump f i k).msixWait = s.msixWait ∧ (s.bump f i k).tags = s.tags ∧
    (s.bump f i k).links = s.links ∧ (s.bump f i k).ide = s.ide ∧ (s.bump f i k).ideKeys = s.ideKeys ∧
    (s.bump f i k).ideRanges = s.ideRanges ∧ (s.bump f i k).does = s.does ∧ (s.bump f i k).faces = s.faces ∧
    (s.bump f i k).facesNext = s.facesNext ∧ (s.bump f i k).spans = s.spans ∧ (s.bump f i k).tlb = s.tlb ∧
    (s.bump f i k).walks = s.walks ∧ (s.bump f i k).stalled = s.stalled ∧ (s.bump f i k).invals = s.invals ∧
    (s.bump f i k).logs = s.logs ∧ (s.bump f i k).atsWait = s.atsWait ∧ (s.bump f i k).spanCmd = s.spanCmd ∧
    (s.bump f i k).queues = s.queues ∧ (s.bump f i k).cplDue = s.cplDue ∧ (s.bump f i k).rxIn = s.rxIn ∧ (s.bump f i k).mbx = s.mbx ∧
    (s.bump f i k).threads = s.threads ∧ (s.bump f i k).rails = s.rails ∧ (s.bump f i k).eqs = s.eqs ∧ (s.bump f i k).held = s.held ∧
    (s.bump f i k).code = s.code ∧ (s.bump f i k).codeLen = s.codeLen ∧ (s.bump f i k).stallDone = s.stallDone ∧
    (s.bump f i k).rld = s.rld ∧ (s.bump f i k).rldPoison = s.rldPoison ∧ (s.bump f i k).dbase = s.dbase ∧
    (s.bump f i k).dsize = s.dsize ∧ (s.bump f i k).holdBase = s.holdBase ∧ (s.bump f i k).capFifo = s.capFifo ∧
    (s.bump f i k).gnssRx = s.gnssRx ∧ (s.bump f i k).gnssTx = s.gnssTx ∧ (s.bump f i k).spm = s.spm ∧
    (s.bump f i k).spmPoison = s.spmPoison ∧ (s.bump f i k).bays = s.bays ∧ (s.bump f i k).spmWait = s.spmWait ∧
    (s.bump f i k).dmaCh = s.dmaCh ∧ (s.bump f i k).fcuBad = s.fcuBad ∧ (s.bump f i k).dmaLast = s.dmaLast ∧
    (s.bump f i k).recs = s.recs ∧ (s.bump f i k).bufCache = s.bufCache ∧ (s.bump f i k).lostBufs = s.lostBufs ∧
    (s.bump f i k).bpmWait = s.bpmWait ∧ (s.bump f i k).grants = s.grants ∧ (s.bump f i k).sweep = s.sweep ∧
    (s.bump f i k).locks = s.locks ∧ (s.bump f i k).cfgSeq = s.cfgSeq ∧ (s.bump f i k).enterSeq = s.enterSeq ∧
    (s.bump f i k).sec = s.sec ∧ (s.bump f i k).pwrSeq = s.pwrSeq ∧ (s.bump f i k).slots = s.slots ∧ (s.bump f i k).fifo = s.fifo ∧
    (s.bump f i k).holdQ = s.holdQ ∧ (s.bump f i k).reentry = s.reentry ∧ (s.bump f i k).espLane = s.espLane ∧
    (s.bump f i k).egress = s.egress ∧ (s.bump f i k).flows = s.flows ∧ (s.bump f i k).l2 = s.l2 ∧ (s.bump f i k).encaps = s.encaps ∧
    (s.bump f i k).routes = s.routes ∧ (s.bump f i k).gens = s.gens ∧ (s.bump f i k).l2Bad = s.l2Bad ∧
    (s.bump f i k).encapBad = s.encapBad ∧ (s.bump f i k).counters = s.counters ∧ (s.bump f i k).fcache = s.fcache ∧
    (s.bump f i k).missBuf = s.missBuf ∧ (s.bump f i k).ipId = s.ipId ∧ (s.bump f i k).learnUsed = s.learnUsed ∧
    (s.bump f i k).evOver = s.evOver ∧ (s.bump f i k).tblRun = s.tblRun ∧ (s.bump f i k).tblEv = s.tblEv ∧
    (s.bump f i k).rules = s.rules ∧ (s.bump f i k).ruleBad = s.ruleBad ∧ (s.bump f i k).tmsQ = s.tmsQ ∧ (s.bump f i k).nodes = s.nodes ∧
    (s.bump f i k).ptrs = s.ptrs ∧ (s.bump f i k).arbiter = s.arbiter ∧ (s.bump f i k).pols = s.pols ∧ (s.bump f i k).macs = s.macs ∧
    (s.bump f i k).macCnt = s.macCnt ∧ (s.bump f i k).macIn = s.macIn ∧ (s.bump f i k).portSeq = s.portSeq ∧
    (s.bump f i k).fcReq = s.fcReq ∧ (s.bump f i k).standbyUp = s.standbyUp ∧ (s.bump f i k).sas = s.sas ∧ (s.bump f i k).tim = s.tim ∧
    (s.bump f i k).supply = s.supply ∧ (s.bump f i k).aged = s.aged ∧ (s.bump f i k).teqSum = s.teqSum ∧
    (s.bump f i k).teqCount = s.teqCount ∧ (s.bump f i k).peakClear = s.peakClear ∧ (s.bump f i k).refLost = s.refLost ∧
    (s.bump f i k).ethLost = s.ethLost ∧ (s.bump f i k).aonPhase = s.aonPhase ∧ (s.bump f i k).dbgEnd = s.dbgEnd ∧
    (s.bump f i k).heldStep = s.heldStep ∧ (s.bump f i k).flashBusy = s.flashBusy ∧ (s.bump f i k).wakeLow = s.wakeLow ∧
    (s.bump f i k).pins = s.pins ∧ (s.bump f i k).board = s.board ∧ (s.bump f i k).vsAddr = s.vsAddr ∧ (s.bump f i k).vsLo = s.vsLo ∧
    (s.bump f i k).vsHi = s.vsHi ∧ (s.bump f i k).ring = s.ring ∧ (s.bump f i k).out = s.out ∧ (s.bump f i k).free = s.free ∧
    (s.bump f i k).pending = s.pending :=
  by refine ⟨?_, ?_, ?_, ?_, ?_, ?_, ?_, ?_, ?_, ?_, ?_, ?_, ?_, ?_, ?_, ?_, ?_, ?_, ?_, ?_, ?_, ?_, ?_, ?_, ?_, ?_, ?_, ?_, ?_, ?_, ?_, ?_, ?_, ?_, ?_, ?_, ?_, ?_, ?_, ?_, ?_, ?_, ?_, ?_, ?_, ?_, ?_, ?_, ?_, ?_, ?_, ?_, ?_, ?_, ?_, ?_, ?_, ?_, ?_, ?_, ?_, ?_, ?_, ?_, ?_, ?_, ?_, ?_, ?_, ?_, ?_, ?_, ?_, ?_, ?_, ?_, ?_, ?_, ?_, ?_, ?_, ?_, ?_, ?_, ?_, ?_, ?_, ?_, ?_, ?_, ?_, ?_, ?_, ?_, ?_, ?_, ?_, ?_, ?_, ?_, ?_, ?_, ?_, ?_, ?_, ?_, ?_, ?_, ?_, ?_, ?_, ?_, ?_, ?_, ?_, ?_, ?_⟩ <;> rfl

@[simp] theorem emit_other (o : Out) :
    (s.emit o).regs = s.regs ∧ (s.emit o).shadow = s.shadow ∧ (s.emit o).time = s.time ∧ (s.emit o).cycle = s.cycle ∧
    (s.emit o).dev = s.dev ∧ (s.emit o).fns = s.fns ∧ (s.emit o).msix = s.msix ∧ (s.emit o).msixWait = s.msixWait ∧
    (s.emit o).tags = s.tags ∧ (s.emit o).links = s.links ∧ (s.emit o).ide = s.ide ∧ (s.emit o).ideKeys = s.ideKeys ∧
    (s.emit o).ideRanges = s.ideRanges ∧ (s.emit o).does = s.does ∧ (s.emit o).faces = s.faces ∧ (s.emit o).facesNext = s.facesNext ∧
    (s.emit o).spans = s.spans ∧ (s.emit o).tlb = s.tlb ∧ (s.emit o).walks = s.walks ∧ (s.emit o).stalled = s.stalled ∧
    (s.emit o).invals = s.invals ∧ (s.emit o).logs = s.logs ∧ (s.emit o).atsWait = s.atsWait ∧ (s.emit o).spanCmd = s.spanCmd ∧
    (s.emit o).queues = s.queues ∧ (s.emit o).cplDue = s.cplDue ∧ (s.emit o).rxIn = s.rxIn ∧ (s.emit o).mbx = s.mbx ∧
    (s.emit o).threads = s.threads ∧ (s.emit o).rails = s.rails ∧ (s.emit o).eqs = s.eqs ∧ (s.emit o).held = s.held ∧
    (s.emit o).code = s.code ∧ (s.emit o).codeLen = s.codeLen ∧ (s.emit o).stallDone = s.stallDone ∧ (s.emit o).rld = s.rld ∧
    (s.emit o).rldPoison = s.rldPoison ∧ (s.emit o).dbase = s.dbase ∧ (s.emit o).dsize = s.dsize ∧ (s.emit o).holdBase = s.holdBase ∧
    (s.emit o).capFifo = s.capFifo ∧ (s.emit o).gnssRx = s.gnssRx ∧ (s.emit o).gnssTx = s.gnssTx ∧ (s.emit o).spm = s.spm ∧
    (s.emit o).spmPoison = s.spmPoison ∧ (s.emit o).bays = s.bays ∧ (s.emit o).spmWait = s.spmWait ∧ (s.emit o).dmaCh = s.dmaCh ∧
    (s.emit o).fcuBad = s.fcuBad ∧ (s.emit o).dmaLast = s.dmaLast ∧ (s.emit o).recs = s.recs ∧ (s.emit o).bufCache = s.bufCache ∧
    (s.emit o).lostBufs = s.lostBufs ∧ (s.emit o).bpmWait = s.bpmWait ∧ (s.emit o).grants = s.grants ∧ (s.emit o).sweep = s.sweep ∧
    (s.emit o).locks = s.locks ∧ (s.emit o).cfgSeq = s.cfgSeq ∧ (s.emit o).enterSeq = s.enterSeq ∧ (s.emit o).sec = s.sec ∧
    (s.emit o).pwrSeq = s.pwrSeq ∧ (s.emit o).slots = s.slots ∧ (s.emit o).fifo = s.fifo ∧ (s.emit o).holdQ = s.holdQ ∧
    (s.emit o).reentry = s.reentry ∧ (s.emit o).espLane = s.espLane ∧ (s.emit o).egress = s.egress ∧ (s.emit o).flows = s.flows ∧
    (s.emit o).l2 = s.l2 ∧ (s.emit o).encaps = s.encaps ∧ (s.emit o).routes = s.routes ∧ (s.emit o).gens = s.gens ∧
    (s.emit o).l2Bad = s.l2Bad ∧ (s.emit o).encapBad = s.encapBad ∧ (s.emit o).counters = s.counters ∧ (s.emit o).fcache = s.fcache ∧
    (s.emit o).missBuf = s.missBuf ∧ (s.emit o).ipId = s.ipId ∧ (s.emit o).learnUsed = s.learnUsed ∧ (s.emit o).evOver = s.evOver ∧
    (s.emit o).tblRun = s.tblRun ∧ (s.emit o).tblEv = s.tblEv ∧ (s.emit o).rules = s.rules ∧ (s.emit o).ruleBad = s.ruleBad ∧
    (s.emit o).tmsQ = s.tmsQ ∧ (s.emit o).nodes = s.nodes ∧ (s.emit o).ptrs = s.ptrs ∧ (s.emit o).arbiter = s.arbiter ∧
    (s.emit o).pols = s.pols ∧ (s.emit o).macs = s.macs ∧ (s.emit o).macCnt = s.macCnt ∧ (s.emit o).macIn = s.macIn ∧
    (s.emit o).portSeq = s.portSeq ∧ (s.emit o).fcReq = s.fcReq ∧ (s.emit o).standbyUp = s.standbyUp ∧ (s.emit o).sas = s.sas ∧
    (s.emit o).tim = s.tim ∧ (s.emit o).supply = s.supply ∧ (s.emit o).aged = s.aged ∧ (s.emit o).teqSum = s.teqSum ∧
    (s.emit o).teqCount = s.teqCount ∧ (s.emit o).peakClear = s.peakClear ∧ (s.emit o).refLost = s.refLost ∧
    (s.emit o).ethLost = s.ethLost ∧ (s.emit o).aonPhase = s.aonPhase ∧ (s.emit o).dbgEnd = s.dbgEnd ∧ (s.emit o).heldStep = s.heldStep ∧
    (s.emit o).flashBusy = s.flashBusy ∧ (s.emit o).wakeLow = s.wakeLow ∧ (s.emit o).pins = s.pins ∧ (s.emit o).board = s.board ∧
    (s.emit o).vsAddr = s.vsAddr ∧ (s.emit o).vsLo = s.vsLo ∧ (s.emit o).vsHi = s.vsHi ∧ (s.emit o).ring = s.ring ∧
    (s.emit o).free = s.free ∧ (s.emit o).pending = s.pending :=
  by refine ⟨?_, ?_, ?_, ?_, ?_, ?_, ?_, ?_, ?_, ?_, ?_, ?_, ?_, ?_, ?_, ?_, ?_, ?_, ?_, ?_, ?_, ?_, ?_, ?_, ?_, ?_, ?_, ?_, ?_, ?_, ?_, ?_, ?_, ?_, ?_, ?_, ?_, ?_, ?_, ?_, ?_, ?_, ?_, ?_, ?_, ?_, ?_, ?_, ?_, ?_, ?_, ?_, ?_, ?_, ?_, ?_, ?_, ?_, ?_, ?_, ?_, ?_, ?_, ?_, ?_, ?_, ?_, ?_, ?_, ?_, ?_, ?_, ?_, ?_, ?_, ?_, ?_, ?_, ?_, ?_, ?_, ?_, ?_, ?_, ?_, ?_, ?_, ?_, ?_, ?_, ?_, ?_, ?_, ?_, ?_, ?_, ?_, ?_, ?_, ?_, ?_, ?_, ?_, ?_, ?_, ?_, ?_, ?_, ?_, ?_, ?_, ?_, ?_, ?_, ?_, ?_, ?_⟩ <;> rfl

@[simp] theorem hold_other (r : Reg) (i : Nat) (m v : Word) :
    (s.hold r i m v).regs = s.regs ∧ (s.hold r i m v).time = s.time ∧ (s.hold r i m v).cycle = s.cycle ∧ (s.hold r i m v).dev = s.dev ∧
    (s.hold r i m v).fns = s.fns ∧ (s.hold r i m v).msix = s.msix ∧ (s.hold r i m v).msixWait = s.msixWait ∧
    (s.hold r i m v).tags = s.tags ∧ (s.hold r i m v).links = s.links ∧ (s.hold r i m v).ide = s.ide ∧
    (s.hold r i m v).ideKeys = s.ideKeys ∧ (s.hold r i m v).ideRanges = s.ideRanges ∧ (s.hold r i m v).does = s.does ∧
    (s.hold r i m v).faces = s.faces ∧ (s.hold r i m v).facesNext = s.facesNext ∧ (s.hold r i m v).spans = s.spans ∧
    (s.hold r i m v).tlb = s.tlb ∧ (s.hold r i m v).walks = s.walks ∧ (s.hold r i m v).stalled = s.stalled ∧
    (s.hold r i m v).invals = s.invals ∧ (s.hold r i m v).logs = s.logs ∧ (s.hold r i m v).atsWait = s.atsWait ∧
    (s.hold r i m v).spanCmd = s.spanCmd ∧ (s.hold r i m v).queues = s.queues ∧ (s.hold r i m v).cplDue = s.cplDue ∧
    (s.hold r i m v).rxIn = s.rxIn ∧ (s.hold r i m v).mbx = s.mbx ∧ (s.hold r i m v).threads = s.threads ∧
    (s.hold r i m v).rails = s.rails ∧ (s.hold r i m v).eqs = s.eqs ∧ (s.hold r i m v).held = s.held ∧ (s.hold r i m v).code = s.code ∧
    (s.hold r i m v).codeLen = s.codeLen ∧ (s.hold r i m v).stallDone = s.stallDone ∧ (s.hold r i m v).rld = s.rld ∧
    (s.hold r i m v).rldPoison = s.rldPoison ∧ (s.hold r i m v).dbase = s.dbase ∧ (s.hold r i m v).dsize = s.dsize ∧
    (s.hold r i m v).holdBase = s.holdBase ∧ (s.hold r i m v).capFifo = s.capFifo ∧ (s.hold r i m v).gnssRx = s.gnssRx ∧
    (s.hold r i m v).gnssTx = s.gnssTx ∧ (s.hold r i m v).spm = s.spm ∧ (s.hold r i m v).spmPoison = s.spmPoison ∧
    (s.hold r i m v).bays = s.bays ∧ (s.hold r i m v).spmWait = s.spmWait ∧ (s.hold r i m v).dmaCh = s.dmaCh ∧
    (s.hold r i m v).fcuBad = s.fcuBad ∧ (s.hold r i m v).dmaLast = s.dmaLast ∧ (s.hold r i m v).recs = s.recs ∧
    (s.hold r i m v).bufCache = s.bufCache ∧ (s.hold r i m v).lostBufs = s.lostBufs ∧ (s.hold r i m v).bpmWait = s.bpmWait ∧
    (s.hold r i m v).grants = s.grants ∧ (s.hold r i m v).sweep = s.sweep ∧ (s.hold r i m v).locks = s.locks ∧
    (s.hold r i m v).cfgSeq = s.cfgSeq ∧ (s.hold r i m v).enterSeq = s.enterSeq ∧ (s.hold r i m v).sec = s.sec ∧
    (s.hold r i m v).pwrSeq = s.pwrSeq ∧ (s.hold r i m v).slots = s.slots ∧ (s.hold r i m v).fifo = s.fifo ∧
    (s.hold r i m v).holdQ = s.holdQ ∧ (s.hold r i m v).reentry = s.reentry ∧ (s.hold r i m v).espLane = s.espLane ∧
    (s.hold r i m v).egress = s.egress ∧ (s.hold r i m v).flows = s.flows ∧ (s.hold r i m v).l2 = s.l2 ∧
    (s.hold r i m v).encaps = s.encaps ∧ (s.hold r i m v).routes = s.routes ∧ (s.hold r i m v).gens = s.gens ∧
    (s.hold r i m v).l2Bad = s.l2Bad ∧ (s.hold r i m v).encapBad = s.encapBad ∧ (s.hold r i m v).counters = s.counters ∧
    (s.hold r i m v).fcache = s.fcache ∧ (s.hold r i m v).missBuf = s.missBuf ∧ (s.hold r i m v).ipId = s.ipId ∧
    (s.hold r i m v).learnUsed = s.learnUsed ∧ (s.hold r i m v).evOver = s.evOver ∧ (s.hold r i m v).tblRun = s.tblRun ∧
    (s.hold r i m v).tblEv = s.tblEv ∧ (s.hold r i m v).rules = s.rules ∧ (s.hold r i m v).ruleBad = s.ruleBad ∧
    (s.hold r i m v).tmsQ = s.tmsQ ∧ (s.hold r i m v).nodes = s.nodes ∧ (s.hold r i m v).ptrs = s.ptrs ∧
    (s.hold r i m v).arbiter = s.arbiter ∧ (s.hold r i m v).pols = s.pols ∧ (s.hold r i m v).macs = s.macs ∧
    (s.hold r i m v).macCnt = s.macCnt ∧ (s.hold r i m v).macIn = s.macIn ∧ (s.hold r i m v).portSeq = s.portSeq ∧
    (s.hold r i m v).fcReq = s.fcReq ∧ (s.hold r i m v).standbyUp = s.standbyUp ∧ (s.hold r i m v).sas = s.sas ∧
    (s.hold r i m v).tim = s.tim ∧ (s.hold r i m v).supply = s.supply ∧ (s.hold r i m v).aged = s.aged ∧
    (s.hold r i m v).teqSum = s.teqSum ∧ (s.hold r i m v).teqCount = s.teqCount ∧ (s.hold r i m v).peakClear = s.peakClear ∧
    (s.hold r i m v).refLost = s.refLost ∧ (s.hold r i m v).ethLost = s.ethLost ∧ (s.hold r i m v).aonPhase = s.aonPhase ∧
    (s.hold r i m v).dbgEnd = s.dbgEnd ∧ (s.hold r i m v).heldStep = s.heldStep ∧ (s.hold r i m v).flashBusy = s.flashBusy ∧
    (s.hold r i m v).wakeLow = s.wakeLow ∧ (s.hold r i m v).pins = s.pins ∧ (s.hold r i m v).board = s.board ∧
    (s.hold r i m v).vsAddr = s.vsAddr ∧ (s.hold r i m v).vsLo = s.vsLo ∧ (s.hold r i m v).vsHi = s.vsHi ∧
    (s.hold r i m v).ring = s.ring ∧ (s.hold r i m v).out = s.out ∧ (s.hold r i m v).free = s.free ∧
    (s.hold r i m v).pending = s.pending :=
  by refine ⟨?_, ?_, ?_, ?_, ?_, ?_, ?_, ?_, ?_, ?_, ?_, ?_, ?_, ?_, ?_, ?_, ?_, ?_, ?_, ?_, ?_, ?_, ?_, ?_, ?_, ?_, ?_, ?_, ?_, ?_, ?_, ?_, ?_, ?_, ?_, ?_, ?_, ?_, ?_, ?_, ?_, ?_, ?_, ?_, ?_, ?_, ?_, ?_, ?_, ?_, ?_, ?_, ?_, ?_, ?_, ?_, ?_, ?_, ?_, ?_, ?_, ?_, ?_, ?_, ?_, ?_, ?_, ?_, ?_, ?_, ?_, ?_, ?_, ?_, ?_, ?_, ?_, ?_, ?_, ?_, ?_, ?_, ?_, ?_, ?_, ?_, ?_, ?_, ?_, ?_, ?_, ?_, ?_, ?_, ?_, ?_, ?_, ?_, ?_, ?_, ?_, ?_, ?_, ?_, ?_, ?_, ?_, ?_, ?_, ?_, ?_, ?_, ?_, ?_, ?_, ?_, ?_⟩ <;> rfl

@[simp] theorem dropPend_other (r : Reg) (i : Nat) (m : Word) :
    (s.dropPend r i m).regs = s.regs ∧ (s.dropPend r i m).time = s.time ∧ (s.dropPend r i m).cycle = s.cycle ∧
    (s.dropPend r i m).dev = s.dev ∧ (s.dropPend r i m).fns = s.fns ∧ (s.dropPend r i m).msix = s.msix ∧
    (s.dropPend r i m).msixWait = s.msixWait ∧ (s.dropPend r i m).tags = s.tags ∧ (s.dropPend r i m).links = s.links ∧
    (s.dropPend r i m).ide = s.ide ∧ (s.dropPend r i m).ideKeys = s.ideKeys ∧ (s.dropPend r i m).ideRanges = s.ideRanges ∧
    (s.dropPend r i m).does = s.does ∧ (s.dropPend r i m).faces = s.faces ∧ (s.dropPend r i m).facesNext = s.facesNext ∧
    (s.dropPend r i m).spans = s.spans ∧ (s.dropPend r i m).tlb = s.tlb ∧ (s.dropPend r i m).walks = s.walks ∧
    (s.dropPend r i m).stalled = s.stalled ∧ (s.dropPend r i m).invals = s.invals ∧ (s.dropPend r i m).logs = s.logs ∧
    (s.dropPend r i m).atsWait = s.atsWait ∧ (s.dropPend r i m).spanCmd = s.spanCmd ∧ (s.dropPend r i m).queues = s.queues ∧
    (s.dropPend r i m).cplDue = s.cplDue ∧ (s.dropPend r i m).rxIn = s.rxIn ∧ (s.dropPend r i m).mbx = s.mbx ∧
    (s.dropPend r i m).threads = s.threads ∧ (s.dropPend r i m).rails = s.rails ∧ (s.dropPend r i m).eqs = s.eqs ∧
    (s.dropPend r i m).held = s.held ∧ (s.dropPend r i m).code = s.code ∧ (s.dropPend r i m).codeLen = s.codeLen ∧
    (s.dropPend r i m).stallDone = s.stallDone ∧ (s.dropPend r i m).rld = s.rld ∧ (s.dropPend r i m).rldPoison = s.rldPoison ∧
    (s.dropPend r i m).dbase = s.dbase ∧ (s.dropPend r i m).dsize = s.dsize ∧ (s.dropPend r i m).holdBase = s.holdBase ∧
    (s.dropPend r i m).capFifo = s.capFifo ∧ (s.dropPend r i m).gnssRx = s.gnssRx ∧ (s.dropPend r i m).gnssTx = s.gnssTx ∧
    (s.dropPend r i m).spm = s.spm ∧ (s.dropPend r i m).spmPoison = s.spmPoison ∧ (s.dropPend r i m).bays = s.bays ∧
    (s.dropPend r i m).spmWait = s.spmWait ∧ (s.dropPend r i m).dmaCh = s.dmaCh ∧ (s.dropPend r i m).fcuBad = s.fcuBad ∧
    (s.dropPend r i m).dmaLast = s.dmaLast ∧ (s.dropPend r i m).recs = s.recs ∧ (s.dropPend r i m).bufCache = s.bufCache ∧
    (s.dropPend r i m).lostBufs = s.lostBufs ∧ (s.dropPend r i m).bpmWait = s.bpmWait ∧ (s.dropPend r i m).grants = s.grants ∧
    (s.dropPend r i m).sweep = s.sweep ∧ (s.dropPend r i m).locks = s.locks ∧ (s.dropPend r i m).cfgSeq = s.cfgSeq ∧
    (s.dropPend r i m).enterSeq = s.enterSeq ∧ (s.dropPend r i m).sec = s.sec ∧ (s.dropPend r i m).pwrSeq = s.pwrSeq ∧
    (s.dropPend r i m).slots = s.slots ∧ (s.dropPend r i m).fifo = s.fifo ∧ (s.dropPend r i m).holdQ = s.holdQ ∧
    (s.dropPend r i m).reentry = s.reentry ∧ (s.dropPend r i m).espLane = s.espLane ∧ (s.dropPend r i m).egress = s.egress ∧
    (s.dropPend r i m).flows = s.flows ∧ (s.dropPend r i m).l2 = s.l2 ∧ (s.dropPend r i m).encaps = s.encaps ∧
    (s.dropPend r i m).routes = s.routes ∧ (s.dropPend r i m).gens = s.gens ∧ (s.dropPend r i m).l2Bad = s.l2Bad ∧
    (s.dropPend r i m).encapBad = s.encapBad ∧ (s.dropPend r i m).counters = s.counters ∧ (s.dropPend r i m).fcache = s.fcache ∧
    (s.dropPend r i m).missBuf = s.missBuf ∧ (s.dropPend r i m).ipId = s.ipId ∧ (s.dropPend r i m).learnUsed = s.learnUsed ∧
    (s.dropPend r i m).evOver = s.evOver ∧ (s.dropPend r i m).tblRun = s.tblRun ∧ (s.dropPend r i m).tblEv = s.tblEv ∧
    (s.dropPend r i m).rules = s.rules ∧ (s.dropPend r i m).ruleBad = s.ruleBad ∧ (s.dropPend r i m).tmsQ = s.tmsQ ∧
    (s.dropPend r i m).nodes = s.nodes ∧ (s.dropPend r i m).ptrs = s.ptrs ∧ (s.dropPend r i m).arbiter = s.arbiter ∧
    (s.dropPend r i m).pols = s.pols ∧ (s.dropPend r i m).macs = s.macs ∧ (s.dropPend r i m).macCnt = s.macCnt ∧
    (s.dropPend r i m).macIn = s.macIn ∧ (s.dropPend r i m).portSeq = s.portSeq ∧ (s.dropPend r i m).fcReq = s.fcReq ∧
    (s.dropPend r i m).standbyUp = s.standbyUp ∧ (s.dropPend r i m).sas = s.sas ∧ (s.dropPend r i m).tim = s.tim ∧
    (s.dropPend r i m).supply = s.supply ∧ (s.dropPend r i m).aged = s.aged ∧ (s.dropPend r i m).teqSum = s.teqSum ∧
    (s.dropPend r i m).teqCount = s.teqCount ∧ (s.dropPend r i m).peakClear = s.peakClear ∧ (s.dropPend r i m).refLost = s.refLost ∧
    (s.dropPend r i m).ethLost = s.ethLost ∧ (s.dropPend r i m).aonPhase = s.aonPhase ∧ (s.dropPend r i m).dbgEnd = s.dbgEnd ∧
    (s.dropPend r i m).heldStep = s.heldStep ∧ (s.dropPend r i m).flashBusy = s.flashBusy ∧ (s.dropPend r i m).wakeLow = s.wakeLow ∧
    (s.dropPend r i m).pins = s.pins ∧ (s.dropPend r i m).board = s.board ∧ (s.dropPend r i m).vsAddr = s.vsAddr ∧
    (s.dropPend r i m).vsLo = s.vsLo ∧ (s.dropPend r i m).vsHi = s.vsHi ∧ (s.dropPend r i m).ring = s.ring ∧
    (s.dropPend r i m).out = s.out ∧ (s.dropPend r i m).free = s.free ∧ (s.dropPend r i m).pending = s.pending :=
  by refine ⟨?_, ?_, ?_, ?_, ?_, ?_, ?_, ?_, ?_, ?_, ?_, ?_, ?_, ?_, ?_, ?_, ?_, ?_, ?_, ?_, ?_, ?_, ?_, ?_, ?_, ?_, ?_, ?_, ?_, ?_, ?_, ?_, ?_, ?_, ?_, ?_, ?_, ?_, ?_, ?_, ?_, ?_, ?_, ?_, ?_, ?_, ?_, ?_, ?_, ?_, ?_, ?_, ?_, ?_, ?_, ?_, ?_, ?_, ?_, ?_, ?_, ?_, ?_, ?_, ?_, ?_, ?_, ?_, ?_, ?_, ?_, ?_, ?_, ?_, ?_, ?_, ?_, ?_, ?_, ?_, ?_, ?_, ?_, ?_, ?_, ?_, ?_, ?_, ?_, ?_, ?_, ?_, ?_, ?_, ?_, ?_, ?_, ?_, ?_, ?_, ?_, ?_, ?_, ?_, ?_, ?_, ?_, ?_, ?_, ?_, ?_, ?_, ?_, ?_, ?_, ?_, ?_⟩ <;> rfl

@[simp] theorem applyMask_other (r : Reg) (i : Nat) (m : Word) :
    (s.applyMask r i m).time = s.time ∧ (s.applyMask r i m).cycle = s.cycle ∧ (s.applyMask r i m).dev = s.dev ∧
    (s.applyMask r i m).fns = s.fns ∧ (s.applyMask r i m).msix = s.msix ∧ (s.applyMask r i m).msixWait = s.msixWait ∧
    (s.applyMask r i m).tags = s.tags ∧ (s.applyMask r i m).links = s.links ∧ (s.applyMask r i m).ide = s.ide ∧
    (s.applyMask r i m).ideKeys = s.ideKeys ∧ (s.applyMask r i m).ideRanges = s.ideRanges ∧ (s.applyMask r i m).does = s.does ∧
    (s.applyMask r i m).faces = s.faces ∧ (s.applyMask r i m).facesNext = s.facesNext ∧ (s.applyMask r i m).spans = s.spans ∧
    (s.applyMask r i m).tlb = s.tlb ∧ (s.applyMask r i m).walks = s.walks ∧ (s.applyMask r i m).stalled = s.stalled ∧
    (s.applyMask r i m).invals = s.invals ∧ (s.applyMask r i m).logs = s.logs ∧ (s.applyMask r i m).atsWait = s.atsWait ∧
    (s.applyMask r i m).spanCmd = s.spanCmd ∧ (s.applyMask r i m).queues = s.queues ∧ (s.applyMask r i m).cplDue = s.cplDue ∧
    (s.applyMask r i m).rxIn = s.rxIn ∧ (s.applyMask r i m).mbx = s.mbx ∧ (s.applyMask r i m).threads = s.threads ∧
    (s.applyMask r i m).rails = s.rails ∧ (s.applyMask r i m).eqs = s.eqs ∧ (s.applyMask r i m).held = s.held ∧
    (s.applyMask r i m).code = s.code ∧ (s.applyMask r i m).codeLen = s.codeLen ∧ (s.applyMask r i m).stallDone = s.stallDone ∧
    (s.applyMask r i m).rld = s.rld ∧ (s.applyMask r i m).rldPoison = s.rldPoison ∧ (s.applyMask r i m).dbase = s.dbase ∧
    (s.applyMask r i m).dsize = s.dsize ∧ (s.applyMask r i m).holdBase = s.holdBase ∧ (s.applyMask r i m).capFifo = s.capFifo ∧
    (s.applyMask r i m).gnssRx = s.gnssRx ∧ (s.applyMask r i m).gnssTx = s.gnssTx ∧ (s.applyMask r i m).spm = s.spm ∧
    (s.applyMask r i m).spmPoison = s.spmPoison ∧ (s.applyMask r i m).bays = s.bays ∧ (s.applyMask r i m).spmWait = s.spmWait ∧
    (s.applyMask r i m).dmaCh = s.dmaCh ∧ (s.applyMask r i m).fcuBad = s.fcuBad ∧ (s.applyMask r i m).dmaLast = s.dmaLast ∧
    (s.applyMask r i m).recs = s.recs ∧ (s.applyMask r i m).bufCache = s.bufCache ∧ (s.applyMask r i m).lostBufs = s.lostBufs ∧
    (s.applyMask r i m).bpmWait = s.bpmWait ∧ (s.applyMask r i m).grants = s.grants ∧ (s.applyMask r i m).sweep = s.sweep ∧
    (s.applyMask r i m).locks = s.locks ∧ (s.applyMask r i m).cfgSeq = s.cfgSeq ∧ (s.applyMask r i m).enterSeq = s.enterSeq ∧
    (s.applyMask r i m).sec = s.sec ∧ (s.applyMask r i m).pwrSeq = s.pwrSeq ∧ (s.applyMask r i m).slots = s.slots ∧
    (s.applyMask r i m).fifo = s.fifo ∧ (s.applyMask r i m).holdQ = s.holdQ ∧ (s.applyMask r i m).reentry = s.reentry ∧
    (s.applyMask r i m).espLane = s.espLane ∧ (s.applyMask r i m).egress = s.egress ∧ (s.applyMask r i m).flows = s.flows ∧
    (s.applyMask r i m).l2 = s.l2 ∧ (s.applyMask r i m).encaps = s.encaps ∧ (s.applyMask r i m).routes = s.routes ∧
    (s.applyMask r i m).gens = s.gens ∧ (s.applyMask r i m).l2Bad = s.l2Bad ∧ (s.applyMask r i m).encapBad = s.encapBad ∧
    (s.applyMask r i m).counters = s.counters ∧ (s.applyMask r i m).fcache = s.fcache ∧ (s.applyMask r i m).missBuf = s.missBuf ∧
    (s.applyMask r i m).ipId = s.ipId ∧ (s.applyMask r i m).learnUsed = s.learnUsed ∧ (s.applyMask r i m).evOver = s.evOver ∧
    (s.applyMask r i m).tblRun = s.tblRun ∧ (s.applyMask r i m).tblEv = s.tblEv ∧ (s.applyMask r i m).rules = s.rules ∧
    (s.applyMask r i m).ruleBad = s.ruleBad ∧ (s.applyMask r i m).tmsQ = s.tmsQ ∧ (s.applyMask r i m).nodes = s.nodes ∧
    (s.applyMask r i m).ptrs = s.ptrs ∧ (s.applyMask r i m).arbiter = s.arbiter ∧ (s.applyMask r i m).pols = s.pols ∧
    (s.applyMask r i m).macs = s.macs ∧ (s.applyMask r i m).macCnt = s.macCnt ∧ (s.applyMask r i m).macIn = s.macIn ∧
    (s.applyMask r i m).portSeq = s.portSeq ∧ (s.applyMask r i m).fcReq = s.fcReq ∧ (s.applyMask r i m).standbyUp = s.standbyUp ∧
    (s.applyMask r i m).sas = s.sas ∧ (s.applyMask r i m).tim = s.tim ∧ (s.applyMask r i m).supply = s.supply ∧
    (s.applyMask r i m).aged = s.aged ∧ (s.applyMask r i m).teqSum = s.teqSum ∧ (s.applyMask r i m).teqCount = s.teqCount ∧
    (s.applyMask r i m).peakClear = s.peakClear ∧ (s.applyMask r i m).refLost = s.refLost ∧ (s.applyMask r i m).ethLost = s.ethLost ∧
    (s.applyMask r i m).aonPhase = s.aonPhase ∧ (s.applyMask r i m).dbgEnd = s.dbgEnd ∧ (s.applyMask r i m).heldStep = s.heldStep ∧
    (s.applyMask r i m).flashBusy = s.flashBusy ∧ (s.applyMask r i m).wakeLow = s.wakeLow ∧ (s.applyMask r i m).pins = s.pins ∧
    (s.applyMask r i m).board = s.board ∧ (s.applyMask r i m).vsAddr = s.vsAddr ∧ (s.applyMask r i m).vsLo = s.vsLo ∧
    (s.applyMask r i m).vsHi = s.vsHi ∧ (s.applyMask r i m).ring = s.ring ∧ (s.applyMask r i m).out = s.out ∧
    (s.applyMask r i m).free = s.free ∧ (s.applyMask r i m).pending = s.pending :=
  by refine ⟨?_, ?_, ?_, ?_, ?_, ?_, ?_, ?_, ?_, ?_, ?_, ?_, ?_, ?_, ?_, ?_, ?_, ?_, ?_, ?_, ?_, ?_, ?_, ?_, ?_, ?_, ?_, ?_, ?_, ?_, ?_, ?_, ?_, ?_, ?_, ?_, ?_, ?_, ?_, ?_, ?_, ?_, ?_, ?_, ?_, ?_, ?_, ?_, ?_, ?_, ?_, ?_, ?_, ?_, ?_, ?_, ?_, ?_, ?_, ?_, ?_, ?_, ?_, ?_, ?_, ?_, ?_, ?_, ?_, ?_, ?_, ?_, ?_, ?_, ?_, ?_, ?_, ?_, ?_, ?_, ?_, ?_, ?_, ?_, ?_, ?_, ?_, ?_, ?_, ?_, ?_, ?_, ?_, ?_, ?_, ?_, ?_, ?_, ?_, ?_, ?_, ?_, ?_, ?_, ?_, ?_, ?_, ?_, ?_, ?_, ?_, ?_, ?_, ?_, ?_, ?_⟩ <;> rfl

@[simp] theorem setFn_other (f : Fn) (c : FnCfg) :
    (s.setFn f c).regs = s.regs ∧ (s.setFn f c).shadow = s.shadow ∧ (s.setFn f c).time = s.time ∧ (s.setFn f c).cycle = s.cycle ∧
    (s.setFn f c).dev = s.dev ∧ (s.setFn f c).msix = s.msix ∧ (s.setFn f c).msixWait = s.msixWait ∧ (s.setFn f c).tags = s.tags ∧
    (s.setFn f c).links = s.links ∧ (s.setFn f c).ide = s.ide ∧ (s.setFn f c).ideKeys = s.ideKeys ∧
    (s.setFn f c).ideRanges = s.ideRanges ∧ (s.setFn f c).does = s.does ∧ (s.setFn f c).faces = s.faces ∧
    (s.setFn f c).facesNext = s.facesNext ∧ (s.setFn f c).spans = s.spans ∧ (s.setFn f c).tlb = s.tlb ∧ (s.setFn f c).walks = s.walks ∧
    (s.setFn f c).stalled = s.stalled ∧ (s.setFn f c).invals = s.invals ∧ (s.setFn f c).logs = s.logs ∧
    (s.setFn f c).atsWait = s.atsWait ∧ (s.setFn f c).spanCmd = s.spanCmd ∧ (s.setFn f c).queues = s.queues ∧
    (s.setFn f c).cplDue = s.cplDue ∧ (s.setFn f c).rxIn = s.rxIn ∧ (s.setFn f c).mbx = s.mbx ∧ (s.setFn f c).threads = s.threads ∧
    (s.setFn f c).rails = s.rails ∧ (s.setFn f c).eqs = s.eqs ∧ (s.setFn f c).held = s.held ∧ (s.setFn f c).code = s.code ∧
    (s.setFn f c).codeLen = s.codeLen ∧ (s.setFn f c).stallDone = s.stallDone ∧ (s.setFn f c).rld = s.rld ∧
    (s.setFn f c).rldPoison = s.rldPoison ∧ (s.setFn f c).dbase = s.dbase ∧ (s.setFn f c).dsize = s.dsize ∧
    (s.setFn f c).holdBase = s.holdBase ∧ (s.setFn f c).capFifo = s.capFifo ∧ (s.setFn f c).gnssRx = s.gnssRx ∧
    (s.setFn f c).gnssTx = s.gnssTx ∧ (s.setFn f c).spm = s.spm ∧ (s.setFn f c).spmPoison = s.spmPoison ∧ (s.setFn f c).bays = s.bays ∧
    (s.setFn f c).spmWait = s.spmWait ∧ (s.setFn f c).dmaCh = s.dmaCh ∧ (s.setFn f c).fcuBad = s.fcuBad ∧
    (s.setFn f c).dmaLast = s.dmaLast ∧ (s.setFn f c).recs = s.recs ∧ (s.setFn f c).bufCache = s.bufCache ∧
    (s.setFn f c).lostBufs = s.lostBufs ∧ (s.setFn f c).bpmWait = s.bpmWait ∧ (s.setFn f c).grants = s.grants ∧
    (s.setFn f c).sweep = s.sweep ∧ (s.setFn f c).locks = s.locks ∧ (s.setFn f c).cfgSeq = s.cfgSeq ∧
    (s.setFn f c).enterSeq = s.enterSeq ∧ (s.setFn f c).sec = s.sec ∧ (s.setFn f c).pwrSeq = s.pwrSeq ∧ (s.setFn f c).slots = s.slots ∧
    (s.setFn f c).fifo = s.fifo ∧ (s.setFn f c).holdQ = s.holdQ ∧ (s.setFn f c).reentry = s.reentry ∧ (s.setFn f c).espLane = s.espLane ∧
    (s.setFn f c).egress = s.egress ∧ (s.setFn f c).flows = s.flows ∧ (s.setFn f c).l2 = s.l2 ∧ (s.setFn f c).encaps = s.encaps ∧
    (s.setFn f c).routes = s.routes ∧ (s.setFn f c).gens = s.gens ∧ (s.setFn f c).l2Bad = s.l2Bad ∧ (s.setFn f c).encapBad = s.encapBad ∧
    (s.setFn f c).counters = s.counters ∧ (s.setFn f c).fcache = s.fcache ∧ (s.setFn f c).missBuf = s.missBuf ∧
    (s.setFn f c).ipId = s.ipId ∧ (s.setFn f c).learnUsed = s.learnUsed ∧ (s.setFn f c).evOver = s.evOver ∧
    (s.setFn f c).tblRun = s.tblRun ∧ (s.setFn f c).tblEv = s.tblEv ∧ (s.setFn f c).rules = s.rules ∧ (s.setFn f c).ruleBad = s.ruleBad ∧
    (s.setFn f c).tmsQ = s.tmsQ ∧ (s.setFn f c).nodes = s.nodes ∧ (s.setFn f c).ptrs = s.ptrs ∧ (s.setFn f c).arbiter = s.arbiter ∧
    (s.setFn f c).pols = s.pols ∧ (s.setFn f c).macs = s.macs ∧ (s.setFn f c).macCnt = s.macCnt ∧ (s.setFn f c).macIn = s.macIn ∧
    (s.setFn f c).portSeq = s.portSeq ∧ (s.setFn f c).fcReq = s.fcReq ∧ (s.setFn f c).standbyUp = s.standbyUp ∧
    (s.setFn f c).sas = s.sas ∧ (s.setFn f c).tim = s.tim ∧ (s.setFn f c).supply = s.supply ∧ (s.setFn f c).aged = s.aged ∧
    (s.setFn f c).teqSum = s.teqSum ∧ (s.setFn f c).teqCount = s.teqCount ∧ (s.setFn f c).peakClear = s.peakClear ∧
    (s.setFn f c).refLost = s.refLost ∧ (s.setFn f c).ethLost = s.ethLost ∧ (s.setFn f c).aonPhase = s.aonPhase ∧
    (s.setFn f c).dbgEnd = s.dbgEnd ∧ (s.setFn f c).heldStep = s.heldStep ∧ (s.setFn f c).flashBusy = s.flashBusy ∧
    (s.setFn f c).wakeLow = s.wakeLow ∧ (s.setFn f c).pins = s.pins ∧ (s.setFn f c).board = s.board ∧ (s.setFn f c).vsAddr = s.vsAddr ∧
    (s.setFn f c).vsLo = s.vsLo ∧ (s.setFn f c).vsHi = s.vsHi ∧ (s.setFn f c).ring = s.ring ∧ (s.setFn f c).out = s.out ∧
    (s.setFn f c).free = s.free ∧ (s.setFn f c).pending = s.pending :=
  by refine ⟨?_, ?_, ?_, ?_, ?_, ?_, ?_, ?_, ?_, ?_, ?_, ?_, ?_, ?_, ?_, ?_, ?_, ?_, ?_, ?_, ?_, ?_, ?_, ?_, ?_, ?_, ?_, ?_, ?_, ?_, ?_, ?_, ?_, ?_, ?_, ?_, ?_, ?_, ?_, ?_, ?_, ?_, ?_, ?_, ?_, ?_, ?_, ?_, ?_, ?_, ?_, ?_, ?_, ?_, ?_, ?_, ?_, ?_, ?_, ?_, ?_, ?_, ?_, ?_, ?_, ?_, ?_, ?_, ?_, ?_, ?_, ?_, ?_, ?_, ?_, ?_, ?_, ?_, ?_, ?_, ?_, ?_, ?_, ?_, ?_, ?_, ?_, ?_, ?_, ?_, ?_, ?_, ?_, ?_, ?_, ?_, ?_, ?_, ?_, ?_, ?_, ?_, ?_, ?_, ?_, ?_, ?_, ?_, ?_, ?_, ?_, ?_, ?_, ?_, ?_, ?_, ?_⟩ <;> rfl

@[simp] theorem setVec_other (f : Fn) (v : Nat) (m : Msix) :
    (s.setVec f v m).regs = s.regs ∧ (s.setVec f v m).shadow = s.shadow ∧ (s.setVec f v m).time = s.time ∧
    (s.setVec f v m).cycle = s.cycle ∧ (s.setVec f v m).dev = s.dev ∧ (s.setVec f v m).fns = s.fns ∧
    (s.setVec f v m).msixWait = s.msixWait ∧ (s.setVec f v m).tags = s.tags ∧ (s.setVec f v m).links = s.links ∧
    (s.setVec f v m).ide = s.ide ∧ (s.setVec f v m).ideKeys = s.ideKeys ∧ (s.setVec f v m).ideRanges = s.ideRanges ∧
    (s.setVec f v m).does = s.does ∧ (s.setVec f v m).faces = s.faces ∧ (s.setVec f v m).facesNext = s.facesNext ∧
    (s.setVec f v m).spans = s.spans ∧ (s.setVec f v m).tlb = s.tlb ∧ (s.setVec f v m).walks = s.walks ∧
    (s.setVec f v m).stalled = s.stalled ∧ (s.setVec f v m).invals = s.invals ∧ (s.setVec f v m).logs = s.logs ∧
    (s.setVec f v m).atsWait = s.atsWait ∧ (s.setVec f v m).spanCmd = s.spanCmd ∧ (s.setVec f v m).queues = s.queues ∧
    (s.setVec f v m).cplDue = s.cplDue ∧ (s.setVec f v m).rxIn = s.rxIn ∧ (s.setVec f v m).mbx = s.mbx ∧
    (s.setVec f v m).threads = s.threads ∧ (s.setVec f v m).rails = s.rails ∧ (s.setVec f v m).eqs = s.eqs ∧
    (s.setVec f v m).held = s.held ∧ (s.setVec f v m).code = s.code ∧ (s.setVec f v m).codeLen = s.codeLen ∧
    (s.setVec f v m).stallDone = s.stallDone ∧ (s.setVec f v m).rld = s.rld ∧ (s.setVec f v m).rldPoison = s.rldPoison ∧
    (s.setVec f v m).dbase = s.dbase ∧ (s.setVec f v m).dsize = s.dsize ∧ (s.setVec f v m).holdBase = s.holdBase ∧
    (s.setVec f v m).capFifo = s.capFifo ∧ (s.setVec f v m).gnssRx = s.gnssRx ∧ (s.setVec f v m).gnssTx = s.gnssTx ∧
    (s.setVec f v m).spm = s.spm ∧ (s.setVec f v m).spmPoison = s.spmPoison ∧ (s.setVec f v m).bays = s.bays ∧
    (s.setVec f v m).spmWait = s.spmWait ∧ (s.setVec f v m).dmaCh = s.dmaCh ∧ (s.setVec f v m).fcuBad = s.fcuBad ∧
    (s.setVec f v m).dmaLast = s.dmaLast ∧ (s.setVec f v m).recs = s.recs ∧ (s.setVec f v m).bufCache = s.bufCache ∧
    (s.setVec f v m).lostBufs = s.lostBufs ∧ (s.setVec f v m).bpmWait = s.bpmWait ∧ (s.setVec f v m).grants = s.grants ∧
    (s.setVec f v m).sweep = s.sweep ∧ (s.setVec f v m).locks = s.locks ∧ (s.setVec f v m).cfgSeq = s.cfgSeq ∧
    (s.setVec f v m).enterSeq = s.enterSeq ∧ (s.setVec f v m).sec = s.sec ∧ (s.setVec f v m).pwrSeq = s.pwrSeq ∧
    (s.setVec f v m).slots = s.slots ∧ (s.setVec f v m).fifo = s.fifo ∧ (s.setVec f v m).holdQ = s.holdQ ∧
    (s.setVec f v m).reentry = s.reentry ∧ (s.setVec f v m).espLane = s.espLane ∧ (s.setVec f v m).egress = s.egress ∧
    (s.setVec f v m).flows = s.flows ∧ (s.setVec f v m).l2 = s.l2 ∧ (s.setVec f v m).encaps = s.encaps ∧
    (s.setVec f v m).routes = s.routes ∧ (s.setVec f v m).gens = s.gens ∧ (s.setVec f v m).l2Bad = s.l2Bad ∧
    (s.setVec f v m).encapBad = s.encapBad ∧ (s.setVec f v m).counters = s.counters ∧ (s.setVec f v m).fcache = s.fcache ∧
    (s.setVec f v m).missBuf = s.missBuf ∧ (s.setVec f v m).ipId = s.ipId ∧ (s.setVec f v m).learnUsed = s.learnUsed ∧
    (s.setVec f v m).evOver = s.evOver ∧ (s.setVec f v m).tblRun = s.tblRun ∧ (s.setVec f v m).tblEv = s.tblEv ∧
    (s.setVec f v m).rules = s.rules ∧ (s.setVec f v m).ruleBad = s.ruleBad ∧ (s.setVec f v m).tmsQ = s.tmsQ ∧
    (s.setVec f v m).nodes = s.nodes ∧ (s.setVec f v m).ptrs = s.ptrs ∧ (s.setVec f v m).arbiter = s.arbiter ∧
    (s.setVec f v m).pols = s.pols ∧ (s.setVec f v m).macs = s.macs ∧ (s.setVec f v m).macCnt = s.macCnt ∧
    (s.setVec f v m).macIn = s.macIn ∧ (s.setVec f v m).portSeq = s.portSeq ∧ (s.setVec f v m).fcReq = s.fcReq ∧
    (s.setVec f v m).standbyUp = s.standbyUp ∧ (s.setVec f v m).sas = s.sas ∧ (s.setVec f v m).tim = s.tim ∧
    (s.setVec f v m).supply = s.supply ∧ (s.setVec f v m).aged = s.aged ∧ (s.setVec f v m).teqSum = s.teqSum ∧
    (s.setVec f v m).teqCount = s.teqCount ∧ (s.setVec f v m).peakClear = s.peakClear ∧ (s.setVec f v m).refLost = s.refLost ∧
    (s.setVec f v m).ethLost = s.ethLost ∧ (s.setVec f v m).aonPhase = s.aonPhase ∧ (s.setVec f v m).dbgEnd = s.dbgEnd ∧
    (s.setVec f v m).heldStep = s.heldStep ∧ (s.setVec f v m).flashBusy = s.flashBusy ∧ (s.setVec f v m).wakeLow = s.wakeLow ∧
    (s.setVec f v m).pins = s.pins ∧ (s.setVec f v m).board = s.board ∧ (s.setVec f v m).vsAddr = s.vsAddr ∧
    (s.setVec f v m).vsLo = s.vsLo ∧ (s.setVec f v m).vsHi = s.vsHi ∧ (s.setVec f v m).ring = s.ring ∧ (s.setVec f v m).out = s.out ∧
    (s.setVec f v m).free = s.free ∧ (s.setVec f v m).pending = s.pending :=
  by refine ⟨?_, ?_, ?_, ?_, ?_, ?_, ?_, ?_, ?_, ?_, ?_, ?_, ?_, ?_, ?_, ?_, ?_, ?_, ?_, ?_, ?_, ?_, ?_, ?_, ?_, ?_, ?_, ?_, ?_, ?_, ?_, ?_, ?_, ?_, ?_, ?_, ?_, ?_, ?_, ?_, ?_, ?_, ?_, ?_, ?_, ?_, ?_, ?_, ?_, ?_, ?_, ?_, ?_, ?_, ?_, ?_, ?_, ?_, ?_, ?_, ?_, ?_, ?_, ?_, ?_, ?_, ?_, ?_, ?_, ?_, ?_, ?_, ?_, ?_, ?_, ?_, ?_, ?_, ?_, ?_, ?_, ?_, ?_, ?_, ?_, ?_, ?_, ?_, ?_, ?_, ?_, ?_, ?_, ?_, ?_, ?_, ?_, ?_, ?_, ?_, ?_, ?_, ?_, ?_, ?_, ?_, ?_, ?_, ?_, ?_, ?_, ?_, ?_, ?_, ?_, ?_, ?_⟩ <;> rfl

@[simp] theorem setSpan_other (n : Nat) (x : Span) :
    (s.setSpan n x).regs = s.regs ∧ (s.setSpan n x).shadow = s.shadow ∧ (s.setSpan n x).time = s.time ∧ (s.setSpan n x).cycle = s.cycle ∧
    (s.setSpan n x).dev = s.dev ∧ (s.setSpan n x).fns = s.fns ∧ (s.setSpan n x).msix = s.msix ∧ (s.setSpan n x).msixWait = s.msixWait ∧
    (s.setSpan n x).tags = s.tags ∧ (s.setSpan n x).links = s.links ∧ (s.setSpan n x).ide = s.ide ∧ (s.setSpan n x).ideKeys = s.ideKeys ∧
    (s.setSpan n x).ideRanges = s.ideRanges ∧ (s.setSpan n x).does = s.does ∧ (s.setSpan n x).faces = s.faces ∧
    (s.setSpan n x).facesNext = s.facesNext ∧ (s.setSpan n x).tlb = s.tlb ∧ (s.setSpan n x).walks = s.walks ∧
    (s.setSpan n x).stalled = s.stalled ∧ (s.setSpan n x).invals = s.invals ∧ (s.setSpan n x).logs = s.logs ∧
    (s.setSpan n x).atsWait = s.atsWait ∧ (s.setSpan n x).spanCmd = s.spanCmd ∧ (s.setSpan n x).queues = s.queues ∧
    (s.setSpan n x).cplDue = s.cplDue ∧ (s.setSpan n x).rxIn = s.rxIn ∧ (s.setSpan n x).mbx = s.mbx ∧
    (s.setSpan n x).threads = s.threads ∧ (s.setSpan n x).rails = s.rails ∧ (s.setSpan n x).eqs = s.eqs ∧ (s.setSpan n x).held = s.held ∧
    (s.setSpan n x).code = s.code ∧ (s.setSpan n x).codeLen = s.codeLen ∧ (s.setSpan n x).stallDone = s.stallDone ∧
    (s.setSpan n x).rld = s.rld ∧ (s.setSpan n x).rldPoison = s.rldPoison ∧ (s.setSpan n x).dbase = s.dbase ∧
    (s.setSpan n x).dsize = s.dsize ∧ (s.setSpan n x).holdBase = s.holdBase ∧ (s.setSpan n x).capFifo = s.capFifo ∧
    (s.setSpan n x).gnssRx = s.gnssRx ∧ (s.setSpan n x).gnssTx = s.gnssTx ∧ (s.setSpan n x).spm = s.spm ∧
    (s.setSpan n x).spmPoison = s.spmPoison ∧ (s.setSpan n x).bays = s.bays ∧ (s.setSpan n x).spmWait = s.spmWait ∧
    (s.setSpan n x).dmaCh = s.dmaCh ∧ (s.setSpan n x).fcuBad = s.fcuBad ∧ (s.setSpan n x).dmaLast = s.dmaLast ∧
    (s.setSpan n x).recs = s.recs ∧ (s.setSpan n x).bufCache = s.bufCache ∧ (s.setSpan n x).lostBufs = s.lostBufs ∧
    (s.setSpan n x).bpmWait = s.bpmWait ∧ (s.setSpan n x).grants = s.grants ∧ (s.setSpan n x).sweep = s.sweep ∧
    (s.setSpan n x).locks = s.locks ∧ (s.setSpan n x).cfgSeq = s.cfgSeq ∧ (s.setSpan n x).enterSeq = s.enterSeq ∧
    (s.setSpan n x).sec = s.sec ∧ (s.setSpan n x).pwrSeq = s.pwrSeq ∧ (s.setSpan n x).slots = s.slots ∧ (s.setSpan n x).fifo = s.fifo ∧
    (s.setSpan n x).holdQ = s.holdQ ∧ (s.setSpan n x).reentry = s.reentry ∧ (s.setSpan n x).espLane = s.espLane ∧
    (s.setSpan n x).egress = s.egress ∧ (s.setSpan n x).flows = s.flows ∧ (s.setSpan n x).l2 = s.l2 ∧ (s.setSpan n x).encaps = s.encaps ∧
    (s.setSpan n x).routes = s.routes ∧ (s.setSpan n x).gens = s.gens ∧ (s.setSpan n x).l2Bad = s.l2Bad ∧
    (s.setSpan n x).encapBad = s.encapBad ∧ (s.setSpan n x).counters = s.counters ∧ (s.setSpan n x).fcache = s.fcache ∧
    (s.setSpan n x).missBuf = s.missBuf ∧ (s.setSpan n x).ipId = s.ipId ∧ (s.setSpan n x).learnUsed = s.learnUsed ∧
    (s.setSpan n x).evOver = s.evOver ∧ (s.setSpan n x).tblRun = s.tblRun ∧ (s.setSpan n x).tblEv = s.tblEv ∧
    (s.setSpan n x).rules = s.rules ∧ (s.setSpan n x).ruleBad = s.ruleBad ∧ (s.setSpan n x).tmsQ = s.tmsQ ∧
    (s.setSpan n x).nodes = s.nodes ∧ (s.setSpan n x).ptrs = s.ptrs ∧ (s.setSpan n x).arbiter = s.arbiter ∧
    (s.setSpan n x).pols = s.pols ∧ (s.setSpan n x).macs = s.macs ∧ (s.setSpan n x).macCnt = s.macCnt ∧ (s.setSpan n x).macIn = s.macIn ∧
    (s.setSpan n x).portSeq = s.portSeq ∧ (s.setSpan n x).fcReq = s.fcReq ∧ (s.setSpan n x).standbyUp = s.standbyUp ∧
    (s.setSpan n x).sas = s.sas ∧ (s.setSpan n x).tim = s.tim ∧ (s.setSpan n x).supply = s.supply ∧ (s.setSpan n x).aged = s.aged ∧
    (s.setSpan n x).teqSum = s.teqSum ∧ (s.setSpan n x).teqCount = s.teqCount ∧ (s.setSpan n x).peakClear = s.peakClear ∧
    (s.setSpan n x).refLost = s.refLost ∧ (s.setSpan n x).ethLost = s.ethLost ∧ (s.setSpan n x).aonPhase = s.aonPhase ∧
    (s.setSpan n x).dbgEnd = s.dbgEnd ∧ (s.setSpan n x).heldStep = s.heldStep ∧ (s.setSpan n x).flashBusy = s.flashBusy ∧
    (s.setSpan n x).wakeLow = s.wakeLow ∧ (s.setSpan n x).pins = s.pins ∧ (s.setSpan n x).board = s.board ∧
    (s.setSpan n x).vsAddr = s.vsAddr ∧ (s.setSpan n x).vsLo = s.vsLo ∧ (s.setSpan n x).vsHi = s.vsHi ∧ (s.setSpan n x).ring = s.ring ∧
    (s.setSpan n x).out = s.out ∧ (s.setSpan n x).free = s.free ∧ (s.setSpan n x).pending = s.pending :=
  by refine ⟨?_, ?_, ?_, ?_, ?_, ?_, ?_, ?_, ?_, ?_, ?_, ?_, ?_, ?_, ?_, ?_, ?_, ?_, ?_, ?_, ?_, ?_, ?_, ?_, ?_, ?_, ?_, ?_, ?_, ?_, ?_, ?_, ?_, ?_, ?_, ?_, ?_, ?_, ?_, ?_, ?_, ?_, ?_, ?_, ?_, ?_, ?_, ?_, ?_, ?_, ?_, ?_, ?_, ?_, ?_, ?_, ?_, ?_, ?_, ?_, ?_, ?_, ?_, ?_, ?_, ?_, ?_, ?_, ?_, ?_, ?_, ?_, ?_, ?_, ?_, ?_, ?_, ?_, ?_, ?_, ?_, ?_, ?_, ?_, ?_, ?_, ?_, ?_, ?_, ?_, ?_, ?_, ?_, ?_, ?_, ?_, ?_, ?_, ?_, ?_, ?_, ?_, ?_, ?_, ?_, ?_, ?_, ?_, ?_, ?_, ?_, ?_, ?_, ?_, ?_, ?_, ?_⟩ <;> rfl

@[simp] theorem setQueue_other (q : Nat) (x : Queue) :
    (s.setQueue q x).regs = s.regs ∧ (s.setQueue q x).shadow = s.shadow ∧ (s.setQueue q x).time = s.time ∧
    (s.setQueue q x).cycle = s.cycle ∧ (s.setQueue q x).dev = s.dev ∧ (s.setQueue q x).fns = s.fns ∧ (s.setQueue q x).msix = s.msix ∧
    (s.setQueue q x).msixWait = s.msixWait ∧ (s.setQueue q x).tags = s.tags ∧ (s.setQueue q x).links = s.links ∧
    (s.setQueue q x).ide = s.ide ∧ (s.setQueue q x).ideKeys = s.ideKeys ∧ (s.setQueue q x).ideRanges = s.ideRanges ∧
    (s.setQueue q x).does = s.does ∧ (s.setQueue q x).faces = s.faces ∧ (s.setQueue q x).facesNext = s.facesNext ∧
    (s.setQueue q x).spans = s.spans ∧ (s.setQueue q x).tlb = s.tlb ∧ (s.setQueue q x).walks = s.walks ∧
    (s.setQueue q x).stalled = s.stalled ∧ (s.setQueue q x).invals = s.invals ∧ (s.setQueue q x).logs = s.logs ∧
    (s.setQueue q x).atsWait = s.atsWait ∧ (s.setQueue q x).spanCmd = s.spanCmd ∧ (s.setQueue q x).cplDue = s.cplDue ∧
    (s.setQueue q x).rxIn = s.rxIn ∧ (s.setQueue q x).mbx = s.mbx ∧ (s.setQueue q x).threads = s.threads ∧
    (s.setQueue q x).rails = s.rails ∧ (s.setQueue q x).eqs = s.eqs ∧ (s.setQueue q x).held = s.held ∧ (s.setQueue q x).code = s.code ∧
    (s.setQueue q x).codeLen = s.codeLen ∧ (s.setQueue q x).stallDone = s.stallDone ∧ (s.setQueue q x).rld = s.rld ∧
    (s.setQueue q x).rldPoison = s.rldPoison ∧ (s.setQueue q x).dbase = s.dbase ∧ (s.setQueue q x).dsize = s.dsize ∧
    (s.setQueue q x).holdBase = s.holdBase ∧ (s.setQueue q x).capFifo = s.capFifo ∧ (s.setQueue q x).gnssRx = s.gnssRx ∧
    (s.setQueue q x).gnssTx = s.gnssTx ∧ (s.setQueue q x).spm = s.spm ∧ (s.setQueue q x).spmPoison = s.spmPoison ∧
    (s.setQueue q x).bays = s.bays ∧ (s.setQueue q x).spmWait = s.spmWait ∧ (s.setQueue q x).dmaCh = s.dmaCh ∧
    (s.setQueue q x).fcuBad = s.fcuBad ∧ (s.setQueue q x).dmaLast = s.dmaLast ∧ (s.setQueue q x).recs = s.recs ∧
    (s.setQueue q x).bufCache = s.bufCache ∧ (s.setQueue q x).lostBufs = s.lostBufs ∧ (s.setQueue q x).bpmWait = s.bpmWait ∧
    (s.setQueue q x).grants = s.grants ∧ (s.setQueue q x).sweep = s.sweep ∧ (s.setQueue q x).locks = s.locks ∧
    (s.setQueue q x).cfgSeq = s.cfgSeq ∧ (s.setQueue q x).enterSeq = s.enterSeq ∧ (s.setQueue q x).sec = s.sec ∧
    (s.setQueue q x).pwrSeq = s.pwrSeq ∧ (s.setQueue q x).slots = s.slots ∧ (s.setQueue q x).fifo = s.fifo ∧
    (s.setQueue q x).holdQ = s.holdQ ∧ (s.setQueue q x).reentry = s.reentry ∧ (s.setQueue q x).espLane = s.espLane ∧
    (s.setQueue q x).egress = s.egress ∧ (s.setQueue q x).flows = s.flows ∧ (s.setQueue q x).l2 = s.l2 ∧
    (s.setQueue q x).encaps = s.encaps ∧ (s.setQueue q x).routes = s.routes ∧ (s.setQueue q x).gens = s.gens ∧
    (s.setQueue q x).l2Bad = s.l2Bad ∧ (s.setQueue q x).encapBad = s.encapBad ∧ (s.setQueue q x).counters = s.counters ∧
    (s.setQueue q x).fcache = s.fcache ∧ (s.setQueue q x).missBuf = s.missBuf ∧ (s.setQueue q x).ipId = s.ipId ∧
    (s.setQueue q x).learnUsed = s.learnUsed ∧ (s.setQueue q x).evOver = s.evOver ∧ (s.setQueue q x).tblRun = s.tblRun ∧
    (s.setQueue q x).tblEv = s.tblEv ∧ (s.setQueue q x).rules = s.rules ∧ (s.setQueue q x).ruleBad = s.ruleBad ∧
    (s.setQueue q x).tmsQ = s.tmsQ ∧ (s.setQueue q x).nodes = s.nodes ∧ (s.setQueue q x).ptrs = s.ptrs ∧
    (s.setQueue q x).arbiter = s.arbiter ∧ (s.setQueue q x).pols = s.pols ∧ (s.setQueue q x).macs = s.macs ∧
    (s.setQueue q x).macCnt = s.macCnt ∧ (s.setQueue q x).macIn = s.macIn ∧ (s.setQueue q x).portSeq = s.portSeq ∧
    (s.setQueue q x).fcReq = s.fcReq ∧ (s.setQueue q x).standbyUp = s.standbyUp ∧ (s.setQueue q x).sas = s.sas ∧
    (s.setQueue q x).tim = s.tim ∧ (s.setQueue q x).supply = s.supply ∧ (s.setQueue q x).aged = s.aged ∧
    (s.setQueue q x).teqSum = s.teqSum ∧ (s.setQueue q x).teqCount = s.teqCount ∧ (s.setQueue q x).peakClear = s.peakClear ∧
    (s.setQueue q x).refLost = s.refLost ∧ (s.setQueue q x).ethLost = s.ethLost ∧ (s.setQueue q x).aonPhase = s.aonPhase ∧
    (s.setQueue q x).dbgEnd = s.dbgEnd ∧ (s.setQueue q x).heldStep = s.heldStep ∧ (s.setQueue q x).flashBusy = s.flashBusy ∧
    (s.setQueue q x).wakeLow = s.wakeLow ∧ (s.setQueue q x).pins = s.pins ∧ (s.setQueue q x).board = s.board ∧
    (s.setQueue q x).vsAddr = s.vsAddr ∧ (s.setQueue q x).vsLo = s.vsLo ∧ (s.setQueue q x).vsHi = s.vsHi ∧
    (s.setQueue q x).ring = s.ring ∧ (s.setQueue q x).out = s.out ∧ (s.setQueue q x).free = s.free ∧
    (s.setQueue q x).pending = s.pending :=
  by refine ⟨?_, ?_, ?_, ?_, ?_, ?_, ?_, ?_, ?_, ?_, ?_, ?_, ?_, ?_, ?_, ?_, ?_, ?_, ?_, ?_, ?_, ?_, ?_, ?_, ?_, ?_, ?_, ?_, ?_, ?_, ?_, ?_, ?_, ?_, ?_, ?_, ?_, ?_, ?_, ?_, ?_, ?_, ?_, ?_, ?_, ?_, ?_, ?_, ?_, ?_, ?_, ?_, ?_, ?_, ?_, ?_, ?_, ?_, ?_, ?_, ?_, ?_, ?_, ?_, ?_, ?_, ?_, ?_, ?_, ?_, ?_, ?_, ?_, ?_, ?_, ?_, ?_, ?_, ?_, ?_, ?_, ?_, ?_, ?_, ?_, ?_, ?_, ?_, ?_, ?_, ?_, ?_, ?_, ?_, ?_, ?_, ?_, ?_, ?_, ?_, ?_, ?_, ?_, ?_, ?_, ?_, ?_, ?_, ?_, ?_, ?_, ?_, ?_, ?_, ?_, ?_, ?_⟩ <;> rfl

@[simp] theorem setMail_other (c : Nat) (x : Mbx) :
    (s.setMail c x).regs = s.regs ∧ (s.setMail c x).shadow = s.shadow ∧ (s.setMail c x).time = s.time ∧ (s.setMail c x).cycle = s.cycle ∧
    (s.setMail c x).dev = s.dev ∧ (s.setMail c x).fns = s.fns ∧ (s.setMail c x).msix = s.msix ∧ (s.setMail c x).msixWait = s.msixWait ∧
    (s.setMail c x).tags = s.tags ∧ (s.setMail c x).links = s.links ∧ (s.setMail c x).ide = s.ide ∧ (s.setMail c x).ideKeys = s.ideKeys ∧
    (s.setMail c x).ideRanges = s.ideRanges ∧ (s.setMail c x).does = s.does ∧ (s.setMail c x).faces = s.faces ∧
    (s.setMail c x).facesNext = s.facesNext ∧ (s.setMail c x).spans = s.spans ∧ (s.setMail c x).tlb = s.tlb ∧
    (s.setMail c x).walks = s.walks ∧ (s.setMail c x).stalled = s.stalled ∧ (s.setMail c x).invals = s.invals ∧
    (s.setMail c x).logs = s.logs ∧ (s.setMail c x).atsWait = s.atsWait ∧ (s.setMail c x).spanCmd = s.spanCmd ∧
    (s.setMail c x).queues = s.queues ∧ (s.setMail c x).cplDue = s.cplDue ∧ (s.setMail c x).rxIn = s.rxIn ∧
    (s.setMail c x).threads = s.threads ∧ (s.setMail c x).rails = s.rails ∧ (s.setMail c x).eqs = s.eqs ∧ (s.setMail c x).held = s.held ∧
    (s.setMail c x).code = s.code ∧ (s.setMail c x).codeLen = s.codeLen ∧ (s.setMail c x).stallDone = s.stallDone ∧
    (s.setMail c x).rld = s.rld ∧ (s.setMail c x).rldPoison = s.rldPoison ∧ (s.setMail c x).dbase = s.dbase ∧
    (s.setMail c x).dsize = s.dsize ∧ (s.setMail c x).holdBase = s.holdBase ∧ (s.setMail c x).capFifo = s.capFifo ∧
    (s.setMail c x).gnssRx = s.gnssRx ∧ (s.setMail c x).gnssTx = s.gnssTx ∧ (s.setMail c x).spm = s.spm ∧
    (s.setMail c x).spmPoison = s.spmPoison ∧ (s.setMail c x).bays = s.bays ∧ (s.setMail c x).spmWait = s.spmWait ∧
    (s.setMail c x).dmaCh = s.dmaCh ∧ (s.setMail c x).fcuBad = s.fcuBad ∧ (s.setMail c x).dmaLast = s.dmaLast ∧
    (s.setMail c x).recs = s.recs ∧ (s.setMail c x).bufCache = s.bufCache ∧ (s.setMail c x).lostBufs = s.lostBufs ∧
    (s.setMail c x).bpmWait = s.bpmWait ∧ (s.setMail c x).grants = s.grants ∧ (s.setMail c x).sweep = s.sweep ∧
    (s.setMail c x).locks = s.locks ∧ (s.setMail c x).cfgSeq = s.cfgSeq ∧ (s.setMail c x).enterSeq = s.enterSeq ∧
    (s.setMail c x).sec = s.sec ∧ (s.setMail c x).pwrSeq = s.pwrSeq ∧ (s.setMail c x).slots = s.slots ∧ (s.setMail c x).fifo = s.fifo ∧
    (s.setMail c x).holdQ = s.holdQ ∧ (s.setMail c x).reentry = s.reentry ∧ (s.setMail c x).espLane = s.espLane ∧
    (s.setMail c x).egress = s.egress ∧ (s.setMail c x).flows = s.flows ∧ (s.setMail c x).l2 = s.l2 ∧ (s.setMail c x).encaps = s.encaps ∧
    (s.setMail c x).routes = s.routes ∧ (s.setMail c x).gens = s.gens ∧ (s.setMail c x).l2Bad = s.l2Bad ∧
    (s.setMail c x).encapBad = s.encapBad ∧ (s.setMail c x).counters = s.counters ∧ (s.setMail c x).fcache = s.fcache ∧
    (s.setMail c x).missBuf = s.missBuf ∧ (s.setMail c x).ipId = s.ipId ∧ (s.setMail c x).learnUsed = s.learnUsed ∧
    (s.setMail c x).evOver = s.evOver ∧ (s.setMail c x).tblRun = s.tblRun ∧ (s.setMail c x).tblEv = s.tblEv ∧
    (s.setMail c x).rules = s.rules ∧ (s.setMail c x).ruleBad = s.ruleBad ∧ (s.setMail c x).tmsQ = s.tmsQ ∧
    (s.setMail c x).nodes = s.nodes ∧ (s.setMail c x).ptrs = s.ptrs ∧ (s.setMail c x).arbiter = s.arbiter ∧
    (s.setMail c x).pols = s.pols ∧ (s.setMail c x).macs = s.macs ∧ (s.setMail c x).macCnt = s.macCnt ∧ (s.setMail c x).macIn = s.macIn ∧
    (s.setMail c x).portSeq = s.portSeq ∧ (s.setMail c x).fcReq = s.fcReq ∧ (s.setMail c x).standbyUp = s.standbyUp ∧
    (s.setMail c x).sas = s.sas ∧ (s.setMail c x).tim = s.tim ∧ (s.setMail c x).supply = s.supply ∧ (s.setMail c x).aged = s.aged ∧
    (s.setMail c x).teqSum = s.teqSum ∧ (s.setMail c x).teqCount = s.teqCount ∧ (s.setMail c x).peakClear = s.peakClear ∧
    (s.setMail c x).refLost = s.refLost ∧ (s.setMail c x).ethLost = s.ethLost ∧ (s.setMail c x).aonPhase = s.aonPhase ∧
    (s.setMail c x).dbgEnd = s.dbgEnd ∧ (s.setMail c x).heldStep = s.heldStep ∧ (s.setMail c x).flashBusy = s.flashBusy ∧
    (s.setMail c x).wakeLow = s.wakeLow ∧ (s.setMail c x).pins = s.pins ∧ (s.setMail c x).board = s.board ∧
    (s.setMail c x).vsAddr = s.vsAddr ∧ (s.setMail c x).vsLo = s.vsLo ∧ (s.setMail c x).vsHi = s.vsHi ∧ (s.setMail c x).ring = s.ring ∧
    (s.setMail c x).out = s.out ∧ (s.setMail c x).free = s.free ∧ (s.setMail c x).pending = s.pending :=
  by refine ⟨?_, ?_, ?_, ?_, ?_, ?_, ?_, ?_, ?_, ?_, ?_, ?_, ?_, ?_, ?_, ?_, ?_, ?_, ?_, ?_, ?_, ?_, ?_, ?_, ?_, ?_, ?_, ?_, ?_, ?_, ?_, ?_, ?_, ?_, ?_, ?_, ?_, ?_, ?_, ?_, ?_, ?_, ?_, ?_, ?_, ?_, ?_, ?_, ?_, ?_, ?_, ?_, ?_, ?_, ?_, ?_, ?_, ?_, ?_, ?_, ?_, ?_, ?_, ?_, ?_, ?_, ?_, ?_, ?_, ?_, ?_, ?_, ?_, ?_, ?_, ?_, ?_, ?_, ?_, ?_, ?_, ?_, ?_, ?_, ?_, ?_, ?_, ?_, ?_, ?_, ?_, ?_, ?_, ?_, ?_, ?_, ?_, ?_, ?_, ?_, ?_, ?_, ?_, ?_, ?_, ?_, ?_, ?_, ?_, ?_, ?_, ?_, ?_, ?_, ?_, ?_, ?_⟩ <;> rfl

@[simp] theorem setRail_other (p r : Nat) (x : Rail) :
    (s.setRail p r x).regs = s.regs ∧ (s.setRail p r x).shadow = s.shadow ∧ (s.setRail p r x).time = s.time ∧
    (s.setRail p r x).cycle = s.cycle ∧ (s.setRail p r x).dev = s.dev ∧ (s.setRail p r x).fns = s.fns ∧ (s.setRail p r x).msix = s.msix ∧
    (s.setRail p r x).msixWait = s.msixWait ∧ (s.setRail p r x).tags = s.tags ∧ (s.setRail p r x).links = s.links ∧
    (s.setRail p r x).ide = s.ide ∧ (s.setRail p r x).ideKeys = s.ideKeys ∧ (s.setRail p r x).ideRanges = s.ideRanges ∧
    (s.setRail p r x).does = s.does ∧ (s.setRail p r x).faces = s.faces ∧ (s.setRail p r x).facesNext = s.facesNext ∧
    (s.setRail p r x).spans = s.spans ∧ (s.setRail p r x).tlb = s.tlb ∧ (s.setRail p r x).walks = s.walks ∧
    (s.setRail p r x).stalled = s.stalled ∧ (s.setRail p r x).invals = s.invals ∧ (s.setRail p r x).logs = s.logs ∧
    (s.setRail p r x).atsWait = s.atsWait ∧ (s.setRail p r x).spanCmd = s.spanCmd ∧ (s.setRail p r x).queues = s.queues ∧
    (s.setRail p r x).cplDue = s.cplDue ∧ (s.setRail p r x).rxIn = s.rxIn ∧ (s.setRail p r x).mbx = s.mbx ∧
    (s.setRail p r x).threads = s.threads ∧ (s.setRail p r x).eqs = s.eqs ∧ (s.setRail p r x).held = s.held ∧
    (s.setRail p r x).code = s.code ∧ (s.setRail p r x).codeLen = s.codeLen ∧ (s.setRail p r x).stallDone = s.stallDone ∧
    (s.setRail p r x).rld = s.rld ∧ (s.setRail p r x).rldPoison = s.rldPoison ∧ (s.setRail p r x).dbase = s.dbase ∧
    (s.setRail p r x).dsize = s.dsize ∧ (s.setRail p r x).holdBase = s.holdBase ∧ (s.setRail p r x).capFifo = s.capFifo ∧
    (s.setRail p r x).gnssRx = s.gnssRx ∧ (s.setRail p r x).gnssTx = s.gnssTx ∧ (s.setRail p r x).spm = s.spm ∧
    (s.setRail p r x).spmPoison = s.spmPoison ∧ (s.setRail p r x).bays = s.bays ∧ (s.setRail p r x).spmWait = s.spmWait ∧
    (s.setRail p r x).dmaCh = s.dmaCh ∧ (s.setRail p r x).fcuBad = s.fcuBad ∧ (s.setRail p r x).dmaLast = s.dmaLast ∧
    (s.setRail p r x).recs = s.recs ∧ (s.setRail p r x).bufCache = s.bufCache ∧ (s.setRail p r x).lostBufs = s.lostBufs ∧
    (s.setRail p r x).bpmWait = s.bpmWait ∧ (s.setRail p r x).grants = s.grants ∧ (s.setRail p r x).sweep = s.sweep ∧
    (s.setRail p r x).locks = s.locks ∧ (s.setRail p r x).cfgSeq = s.cfgSeq ∧ (s.setRail p r x).enterSeq = s.enterSeq ∧
    (s.setRail p r x).sec = s.sec ∧ (s.setRail p r x).pwrSeq = s.pwrSeq ∧ (s.setRail p r x).slots = s.slots ∧
    (s.setRail p r x).fifo = s.fifo ∧ (s.setRail p r x).holdQ = s.holdQ ∧ (s.setRail p r x).reentry = s.reentry ∧
    (s.setRail p r x).espLane = s.espLane ∧ (s.setRail p r x).egress = s.egress ∧ (s.setRail p r x).flows = s.flows ∧
    (s.setRail p r x).l2 = s.l2 ∧ (s.setRail p r x).encaps = s.encaps ∧ (s.setRail p r x).routes = s.routes ∧
    (s.setRail p r x).gens = s.gens ∧ (s.setRail p r x).l2Bad = s.l2Bad ∧ (s.setRail p r x).encapBad = s.encapBad ∧
    (s.setRail p r x).counters = s.counters ∧ (s.setRail p r x).fcache = s.fcache ∧ (s.setRail p r x).missBuf = s.missBuf ∧
    (s.setRail p r x).ipId = s.ipId ∧ (s.setRail p r x).learnUsed = s.learnUsed ∧ (s.setRail p r x).evOver = s.evOver ∧
    (s.setRail p r x).tblRun = s.tblRun ∧ (s.setRail p r x).tblEv = s.tblEv ∧ (s.setRail p r x).rules = s.rules ∧
    (s.setRail p r x).ruleBad = s.ruleBad ∧ (s.setRail p r x).tmsQ = s.tmsQ ∧ (s.setRail p r x).nodes = s.nodes ∧
    (s.setRail p r x).ptrs = s.ptrs ∧ (s.setRail p r x).arbiter = s.arbiter ∧ (s.setRail p r x).pols = s.pols ∧
    (s.setRail p r x).macs = s.macs ∧ (s.setRail p r x).macCnt = s.macCnt ∧ (s.setRail p r x).macIn = s.macIn ∧
    (s.setRail p r x).portSeq = s.portSeq ∧ (s.setRail p r x).fcReq = s.fcReq ∧ (s.setRail p r x).standbyUp = s.standbyUp ∧
    (s.setRail p r x).sas = s.sas ∧ (s.setRail p r x).tim = s.tim ∧ (s.setRail p r x).supply = s.supply ∧
    (s.setRail p r x).aged = s.aged ∧ (s.setRail p r x).teqSum = s.teqSum ∧ (s.setRail p r x).teqCount = s.teqCount ∧
    (s.setRail p r x).peakClear = s.peakClear ∧ (s.setRail p r x).refLost = s.refLost ∧ (s.setRail p r x).ethLost = s.ethLost ∧
    (s.setRail p r x).aonPhase = s.aonPhase ∧ (s.setRail p r x).dbgEnd = s.dbgEnd ∧ (s.setRail p r x).heldStep = s.heldStep ∧
    (s.setRail p r x).flashBusy = s.flashBusy ∧ (s.setRail p r x).wakeLow = s.wakeLow ∧ (s.setRail p r x).pins = s.pins ∧
    (s.setRail p r x).board = s.board ∧ (s.setRail p r x).vsAddr = s.vsAddr ∧ (s.setRail p r x).vsLo = s.vsLo ∧
    (s.setRail p r x).vsHi = s.vsHi ∧ (s.setRail p r x).ring = s.ring ∧ (s.setRail p r x).out = s.out ∧ (s.setRail p r x).free = s.free ∧
    (s.setRail p r x).pending = s.pending :=
  by refine ⟨?_, ?_, ?_, ?_, ?_, ?_, ?_, ?_, ?_, ?_, ?_, ?_, ?_, ?_, ?_, ?_, ?_, ?_, ?_, ?_, ?_, ?_, ?_, ?_, ?_, ?_, ?_, ?_, ?_, ?_, ?_, ?_, ?_, ?_, ?_, ?_, ?_, ?_, ?_, ?_, ?_, ?_, ?_, ?_, ?_, ?_, ?_, ?_, ?_, ?_, ?_, ?_, ?_, ?_, ?_, ?_, ?_, ?_, ?_, ?_, ?_, ?_, ?_, ?_, ?_, ?_, ?_, ?_, ?_, ?_, ?_, ?_, ?_, ?_, ?_, ?_, ?_, ?_, ?_, ?_, ?_, ?_, ?_, ?_, ?_, ?_, ?_, ?_, ?_, ?_, ?_, ?_, ?_, ?_, ?_, ?_, ?_, ?_, ?_, ?_, ?_, ?_, ?_, ?_, ?_, ?_, ?_, ?_, ?_, ?_, ?_, ?_, ?_, ?_, ?_, ?_, ?_⟩ <;> rfl

@[simp] theorem setEq_other (t : Nat) (x : List EqItem) :
    (s.setEq t x).regs = s.regs ∧ (s.setEq t x).shadow = s.shadow ∧ (s.setEq t x).time = s.time ∧ (s.setEq t x).cycle = s.cycle ∧
    (s.setEq t x).dev = s.dev ∧ (s.setEq t x).fns = s.fns ∧ (s.setEq t x).msix = s.msix ∧ (s.setEq t x).msixWait = s.msixWait ∧
    (s.setEq t x).tags = s.tags ∧ (s.setEq t x).links = s.links ∧ (s.setEq t x).ide = s.ide ∧ (s.setEq t x).ideKeys = s.ideKeys ∧
    (s.setEq t x).ideRanges = s.ideRanges ∧ (s.setEq t x).does = s.does ∧ (s.setEq t x).faces = s.faces ∧
    (s.setEq t x).facesNext = s.facesNext ∧ (s.setEq t x).spans = s.spans ∧ (s.setEq t x).tlb = s.tlb ∧ (s.setEq t x).walks = s.walks ∧
    (s.setEq t x).stalled = s.stalled ∧ (s.setEq t x).invals = s.invals ∧ (s.setEq t x).logs = s.logs ∧
    (s.setEq t x).atsWait = s.atsWait ∧ (s.setEq t x).spanCmd = s.spanCmd ∧ (s.setEq t x).queues = s.queues ∧
    (s.setEq t x).cplDue = s.cplDue ∧ (s.setEq t x).rxIn = s.rxIn ∧ (s.setEq t x).mbx = s.mbx ∧ (s.setEq t x).threads = s.threads ∧
    (s.setEq t x).rails = s.rails ∧ (s.setEq t x).held = s.held ∧ (s.setEq t x).code = s.code ∧ (s.setEq t x).codeLen = s.codeLen ∧
    (s.setEq t x).stallDone = s.stallDone ∧ (s.setEq t x).rld = s.rld ∧ (s.setEq t x).rldPoison = s.rldPoison ∧
    (s.setEq t x).dbase = s.dbase ∧ (s.setEq t x).dsize = s.dsize ∧ (s.setEq t x).holdBase = s.holdBase ∧
    (s.setEq t x).capFifo = s.capFifo ∧ (s.setEq t x).gnssRx = s.gnssRx ∧ (s.setEq t x).gnssTx = s.gnssTx ∧ (s.setEq t x).spm = s.spm ∧
    (s.setEq t x).spmPoison = s.spmPoison ∧ (s.setEq t x).bays = s.bays ∧ (s.setEq t x).spmWait = s.spmWait ∧
    (s.setEq t x).dmaCh = s.dmaCh ∧ (s.setEq t x).fcuBad = s.fcuBad ∧ (s.setEq t x).dmaLast = s.dmaLast ∧ (s.setEq t x).recs = s.recs ∧
    (s.setEq t x).bufCache = s.bufCache ∧ (s.setEq t x).lostBufs = s.lostBufs ∧ (s.setEq t x).bpmWait = s.bpmWait ∧
    (s.setEq t x).grants = s.grants ∧ (s.setEq t x).sweep = s.sweep ∧ (s.setEq t x).locks = s.locks ∧ (s.setEq t x).cfgSeq = s.cfgSeq ∧
    (s.setEq t x).enterSeq = s.enterSeq ∧ (s.setEq t x).sec = s.sec ∧ (s.setEq t x).pwrSeq = s.pwrSeq ∧ (s.setEq t x).slots = s.slots ∧
    (s.setEq t x).fifo = s.fifo ∧ (s.setEq t x).holdQ = s.holdQ ∧ (s.setEq t x).reentry = s.reentry ∧ (s.setEq t x).espLane = s.espLane ∧
    (s.setEq t x).egress = s.egress ∧ (s.setEq t x).flows = s.flows ∧ (s.setEq t x).l2 = s.l2 ∧ (s.setEq t x).encaps = s.encaps ∧
    (s.setEq t x).routes = s.routes ∧ (s.setEq t x).gens = s.gens ∧ (s.setEq t x).l2Bad = s.l2Bad ∧ (s.setEq t x).encapBad = s.encapBad ∧
    (s.setEq t x).counters = s.counters ∧ (s.setEq t x).fcache = s.fcache ∧ (s.setEq t x).missBuf = s.missBuf ∧
    (s.setEq t x).ipId = s.ipId ∧ (s.setEq t x).learnUsed = s.learnUsed ∧ (s.setEq t x).evOver = s.evOver ∧
    (s.setEq t x).tblRun = s.tblRun ∧ (s.setEq t x).tblEv = s.tblEv ∧ (s.setEq t x).rules = s.rules ∧ (s.setEq t x).ruleBad = s.ruleBad ∧
    (s.setEq t x).tmsQ = s.tmsQ ∧ (s.setEq t x).nodes = s.nodes ∧ (s.setEq t x).ptrs = s.ptrs ∧ (s.setEq t x).arbiter = s.arbiter ∧
    (s.setEq t x).pols = s.pols ∧ (s.setEq t x).macs = s.macs ∧ (s.setEq t x).macCnt = s.macCnt ∧ (s.setEq t x).macIn = s.macIn ∧
    (s.setEq t x).portSeq = s.portSeq ∧ (s.setEq t x).fcReq = s.fcReq ∧ (s.setEq t x).standbyUp = s.standbyUp ∧
    (s.setEq t x).sas = s.sas ∧ (s.setEq t x).tim = s.tim ∧ (s.setEq t x).supply = s.supply ∧ (s.setEq t x).aged = s.aged ∧
    (s.setEq t x).teqSum = s.teqSum ∧ (s.setEq t x).teqCount = s.teqCount ∧ (s.setEq t x).peakClear = s.peakClear ∧
    (s.setEq t x).refLost = s.refLost ∧ (s.setEq t x).ethLost = s.ethLost ∧ (s.setEq t x).aonPhase = s.aonPhase ∧
    (s.setEq t x).dbgEnd = s.dbgEnd ∧ (s.setEq t x).heldStep = s.heldStep ∧ (s.setEq t x).flashBusy = s.flashBusy ∧
    (s.setEq t x).wakeLow = s.wakeLow ∧ (s.setEq t x).pins = s.pins ∧ (s.setEq t x).board = s.board ∧ (s.setEq t x).vsAddr = s.vsAddr ∧
    (s.setEq t x).vsLo = s.vsLo ∧ (s.setEq t x).vsHi = s.vsHi ∧ (s.setEq t x).ring = s.ring ∧ (s.setEq t x).out = s.out ∧
    (s.setEq t x).free = s.free ∧ (s.setEq t x).pending = s.pending :=
  by refine ⟨?_, ?_, ?_, ?_, ?_, ?_, ?_, ?_, ?_, ?_, ?_, ?_, ?_, ?_, ?_, ?_, ?_, ?_, ?_, ?_, ?_, ?_, ?_, ?_, ?_, ?_, ?_, ?_, ?_, ?_, ?_, ?_, ?_, ?_, ?_, ?_, ?_, ?_, ?_, ?_, ?_, ?_, ?_, ?_, ?_, ?_, ?_, ?_, ?_, ?_, ?_, ?_, ?_, ?_, ?_, ?_, ?_, ?_, ?_, ?_, ?_, ?_, ?_, ?_, ?_, ?_, ?_, ?_, ?_, ?_, ?_, ?_, ?_, ?_, ?_, ?_, ?_, ?_, ?_, ?_, ?_, ?_, ?_, ?_, ?_, ?_, ?_, ?_, ?_, ?_, ?_, ?_, ?_, ?_, ?_, ?_, ?_, ?_, ?_, ?_, ?_, ?_, ?_, ?_, ?_, ?_, ?_, ?_, ?_, ?_, ?_, ?_, ?_, ?_, ?_, ?_, ?_⟩ <;> rfl

@[simp] theorem setBay_other (p b : Nat) (x : Bay) :
    (s.setBay p b x).regs = s.regs ∧ (s.setBay p b x).shadow = s.shadow ∧ (s.setBay p b x).time = s.time ∧
    (s.setBay p b x).cycle = s.cycle ∧ (s.setBay p b x).dev = s.dev ∧ (s.setBay p b x).fns = s.fns ∧ (s.setBay p b x).msix = s.msix ∧
    (s.setBay p b x).msixWait = s.msixWait ∧ (s.setBay p b x).tags = s.tags ∧ (s.setBay p b x).links = s.links ∧
    (s.setBay p b x).ide = s.ide ∧ (s.setBay p b x).ideKeys = s.ideKeys ∧ (s.setBay p b x).ideRanges = s.ideRanges ∧
    (s.setBay p b x).does = s.does ∧ (s.setBay p b x).faces = s.faces ∧ (s.setBay p b x).facesNext = s.facesNext ∧
    (s.setBay p b x).spans = s.spans ∧ (s.setBay p b x).tlb = s.tlb ∧ (s.setBay p b x).walks = s.walks ∧
    (s.setBay p b x).stalled = s.stalled ∧ (s.setBay p b x).invals = s.invals ∧ (s.setBay p b x).logs = s.logs ∧
    (s.setBay p b x).atsWait = s.atsWait ∧ (s.setBay p b x).spanCmd = s.spanCmd ∧ (s.setBay p b x).queues = s.queues ∧
    (s.setBay p b x).cplDue = s.cplDue ∧ (s.setBay p b x).rxIn = s.rxIn ∧ (s.setBay p b x).mbx = s.mbx ∧
    (s.setBay p b x).threads = s.threads ∧ (s.setBay p b x).rails = s.rails ∧ (s.setBay p b x).eqs = s.eqs ∧
    (s.setBay p b x).held = s.held ∧ (s.setBay p b x).code = s.code ∧ (s.setBay p b x).codeLen = s.codeLen ∧
    (s.setBay p b x).stallDone = s.stallDone ∧ (s.setBay p b x).rld = s.rld ∧ (s.setBay p b x).rldPoison = s.rldPoison ∧
    (s.setBay p b x).dbase = s.dbase ∧ (s.setBay p b x).dsize = s.dsize ∧ (s.setBay p b x).holdBase = s.holdBase ∧
    (s.setBay p b x).capFifo = s.capFifo ∧ (s.setBay p b x).gnssRx = s.gnssRx ∧ (s.setBay p b x).gnssTx = s.gnssTx ∧
    (s.setBay p b x).spm = s.spm ∧ (s.setBay p b x).spmPoison = s.spmPoison ∧ (s.setBay p b x).spmWait = s.spmWait ∧
    (s.setBay p b x).dmaCh = s.dmaCh ∧ (s.setBay p b x).fcuBad = s.fcuBad ∧ (s.setBay p b x).dmaLast = s.dmaLast ∧
    (s.setBay p b x).recs = s.recs ∧ (s.setBay p b x).bufCache = s.bufCache ∧ (s.setBay p b x).lostBufs = s.lostBufs ∧
    (s.setBay p b x).bpmWait = s.bpmWait ∧ (s.setBay p b x).grants = s.grants ∧ (s.setBay p b x).sweep = s.sweep ∧
    (s.setBay p b x).locks = s.locks ∧ (s.setBay p b x).cfgSeq = s.cfgSeq ∧ (s.setBay p b x).enterSeq = s.enterSeq ∧
    (s.setBay p b x).sec = s.sec ∧ (s.setBay p b x).pwrSeq = s.pwrSeq ∧ (s.setBay p b x).slots = s.slots ∧
    (s.setBay p b x).fifo = s.fifo ∧ (s.setBay p b x).holdQ = s.holdQ ∧ (s.setBay p b x).reentry = s.reentry ∧
    (s.setBay p b x).espLane = s.espLane ∧ (s.setBay p b x).egress = s.egress ∧ (s.setBay p b x).flows = s.flows ∧
    (s.setBay p b x).l2 = s.l2 ∧ (s.setBay p b x).encaps = s.encaps ∧ (s.setBay p b x).routes = s.routes ∧
    (s.setBay p b x).gens = s.gens ∧ (s.setBay p b x).l2Bad = s.l2Bad ∧ (s.setBay p b x).encapBad = s.encapBad ∧
    (s.setBay p b x).counters = s.counters ∧ (s.setBay p b x).fcache = s.fcache ∧ (s.setBay p b x).missBuf = s.missBuf ∧
    (s.setBay p b x).ipId = s.ipId ∧ (s.setBay p b x).learnUsed = s.learnUsed ∧ (s.setBay p b x).evOver = s.evOver ∧
    (s.setBay p b x).tblRun = s.tblRun ∧ (s.setBay p b x).tblEv = s.tblEv ∧ (s.setBay p b x).rules = s.rules ∧
    (s.setBay p b x).ruleBad = s.ruleBad ∧ (s.setBay p b x).tmsQ = s.tmsQ ∧ (s.setBay p b x).nodes = s.nodes ∧
    (s.setBay p b x).ptrs = s.ptrs ∧ (s.setBay p b x).arbiter = s.arbiter ∧ (s.setBay p b x).pols = s.pols ∧
    (s.setBay p b x).macs = s.macs ∧ (s.setBay p b x).macCnt = s.macCnt ∧ (s.setBay p b x).macIn = s.macIn ∧
    (s.setBay p b x).portSeq = s.portSeq ∧ (s.setBay p b x).fcReq = s.fcReq ∧ (s.setBay p b x).standbyUp = s.standbyUp ∧
    (s.setBay p b x).sas = s.sas ∧ (s.setBay p b x).tim = s.tim ∧ (s.setBay p b x).supply = s.supply ∧ (s.setBay p b x).aged = s.aged ∧
    (s.setBay p b x).teqSum = s.teqSum ∧ (s.setBay p b x).teqCount = s.teqCount ∧ (s.setBay p b x).peakClear = s.peakClear ∧
    (s.setBay p b x).refLost = s.refLost ∧ (s.setBay p b x).ethLost = s.ethLost ∧ (s.setBay p b x).aonPhase = s.aonPhase ∧
    (s.setBay p b x).dbgEnd = s.dbgEnd ∧ (s.setBay p b x).heldStep = s.heldStep ∧ (s.setBay p b x).flashBusy = s.flashBusy ∧
    (s.setBay p b x).wakeLow = s.wakeLow ∧ (s.setBay p b x).pins = s.pins ∧ (s.setBay p b x).board = s.board ∧
    (s.setBay p b x).vsAddr = s.vsAddr ∧ (s.setBay p b x).vsLo = s.vsLo ∧ (s.setBay p b x).vsHi = s.vsHi ∧
    (s.setBay p b x).ring = s.ring ∧ (s.setBay p b x).out = s.out ∧ (s.setBay p b x).free = s.free ∧
    (s.setBay p b x).pending = s.pending :=
  by refine ⟨?_, ?_, ?_, ?_, ?_, ?_, ?_, ?_, ?_, ?_, ?_, ?_, ?_, ?_, ?_, ?_, ?_, ?_, ?_, ?_, ?_, ?_, ?_, ?_, ?_, ?_, ?_, ?_, ?_, ?_, ?_, ?_, ?_, ?_, ?_, ?_, ?_, ?_, ?_, ?_, ?_, ?_, ?_, ?_, ?_, ?_, ?_, ?_, ?_, ?_, ?_, ?_, ?_, ?_, ?_, ?_, ?_, ?_, ?_, ?_, ?_, ?_, ?_, ?_, ?_, ?_, ?_, ?_, ?_, ?_, ?_, ?_, ?_, ?_, ?_, ?_, ?_, ?_, ?_, ?_, ?_, ?_, ?_, ?_, ?_, ?_, ?_, ?_, ?_, ?_, ?_, ?_, ?_, ?_, ?_, ?_, ?_, ?_, ?_, ?_, ?_, ?_, ?_, ?_, ?_, ?_, ?_, ?_, ?_, ?_, ?_, ?_, ?_, ?_, ?_, ?_, ?_⟩ <;> rfl

@[simp] theorem setDmaC_other (p c : Nat) (x : DmaCh) :
    (s.setDmaC p c x).regs = s.regs ∧ (s.setDmaC p c x).shadow = s.shadow ∧ (s.setDmaC p c x).time = s.time ∧
    (s.setDmaC p c x).cycle = s.cycle ∧ (s.setDmaC p c x).dev = s.dev ∧ (s.setDmaC p c x).fns = s.fns ∧ (s.setDmaC p c x).msix = s.msix ∧
    (s.setDmaC p c x).msixWait = s.msixWait ∧ (s.setDmaC p c x).tags = s.tags ∧ (s.setDmaC p c x).links = s.links ∧
    (s.setDmaC p c x).ide = s.ide ∧ (s.setDmaC p c x).ideKeys = s.ideKeys ∧ (s.setDmaC p c x).ideRanges = s.ideRanges ∧
    (s.setDmaC p c x).does = s.does ∧ (s.setDmaC p c x).faces = s.faces ∧ (s.setDmaC p c x).facesNext = s.facesNext ∧
    (s.setDmaC p c x).spans = s.spans ∧ (s.setDmaC p c x).tlb = s.tlb ∧ (s.setDmaC p c x).walks = s.walks ∧
    (s.setDmaC p c x).stalled = s.stalled ∧ (s.setDmaC p c x).invals = s.invals ∧ (s.setDmaC p c x).logs = s.logs ∧
    (s.setDmaC p c x).atsWait = s.atsWait ∧ (s.setDmaC p c x).spanCmd = s.spanCmd ∧ (s.setDmaC p c x).queues = s.queues ∧
    (s.setDmaC p c x).cplDue = s.cplDue ∧ (s.setDmaC p c x).rxIn = s.rxIn ∧ (s.setDmaC p c x).mbx = s.mbx ∧
    (s.setDmaC p c x).threads = s.threads ∧ (s.setDmaC p c x).rails = s.rails ∧ (s.setDmaC p c x).eqs = s.eqs ∧
    (s.setDmaC p c x).held = s.held ∧ (s.setDmaC p c x).code = s.code ∧ (s.setDmaC p c x).codeLen = s.codeLen ∧
    (s.setDmaC p c x).stallDone = s.stallDone ∧ (s.setDmaC p c x).rld = s.rld ∧ (s.setDmaC p c x).rldPoison = s.rldPoison ∧
    (s.setDmaC p c x).dbase = s.dbase ∧ (s.setDmaC p c x).dsize = s.dsize ∧ (s.setDmaC p c x).holdBase = s.holdBase ∧
    (s.setDmaC p c x).capFifo = s.capFifo ∧ (s.setDmaC p c x).gnssRx = s.gnssRx ∧ (s.setDmaC p c x).gnssTx = s.gnssTx ∧
    (s.setDmaC p c x).spm = s.spm ∧ (s.setDmaC p c x).spmPoison = s.spmPoison ∧ (s.setDmaC p c x).bays = s.bays ∧
    (s.setDmaC p c x).spmWait = s.spmWait ∧ (s.setDmaC p c x).fcuBad = s.fcuBad ∧ (s.setDmaC p c x).dmaLast = s.dmaLast ∧
    (s.setDmaC p c x).recs = s.recs ∧ (s.setDmaC p c x).bufCache = s.bufCache ∧ (s.setDmaC p c x).lostBufs = s.lostBufs ∧
    (s.setDmaC p c x).bpmWait = s.bpmWait ∧ (s.setDmaC p c x).grants = s.grants ∧ (s.setDmaC p c x).sweep = s.sweep ∧
    (s.setDmaC p c x).locks = s.locks ∧ (s.setDmaC p c x).cfgSeq = s.cfgSeq ∧ (s.setDmaC p c x).enterSeq = s.enterSeq ∧
    (s.setDmaC p c x).sec = s.sec ∧ (s.setDmaC p c x).pwrSeq = s.pwrSeq ∧ (s.setDmaC p c x).slots = s.slots ∧
    (s.setDmaC p c x).fifo = s.fifo ∧ (s.setDmaC p c x).holdQ = s.holdQ ∧ (s.setDmaC p c x).reentry = s.reentry ∧
    (s.setDmaC p c x).espLane = s.espLane ∧ (s.setDmaC p c x).egress = s.egress ∧ (s.setDmaC p c x).flows = s.flows ∧
    (s.setDmaC p c x).l2 = s.l2 ∧ (s.setDmaC p c x).encaps = s.encaps ∧ (s.setDmaC p c x).routes = s.routes ∧
    (s.setDmaC p c x).gens = s.gens ∧ (s.setDmaC p c x).l2Bad = s.l2Bad ∧ (s.setDmaC p c x).encapBad = s.encapBad ∧
    (s.setDmaC p c x).counters = s.counters ∧ (s.setDmaC p c x).fcache = s.fcache ∧ (s.setDmaC p c x).missBuf = s.missBuf ∧
    (s.setDmaC p c x).ipId = s.ipId ∧ (s.setDmaC p c x).learnUsed = s.learnUsed ∧ (s.setDmaC p c x).evOver = s.evOver ∧
    (s.setDmaC p c x).tblRun = s.tblRun ∧ (s.setDmaC p c x).tblEv = s.tblEv ∧ (s.setDmaC p c x).rules = s.rules ∧
    (s.setDmaC p c x).ruleBad = s.ruleBad ∧ (s.setDmaC p c x).tmsQ = s.tmsQ ∧ (s.setDmaC p c x).nodes = s.nodes ∧
    (s.setDmaC p c x).ptrs = s.ptrs ∧ (s.setDmaC p c x).arbiter = s.arbiter ∧ (s.setDmaC p c x).pols = s.pols ∧
    (s.setDmaC p c x).macs = s.macs ∧ (s.setDmaC p c x).macCnt = s.macCnt ∧ (s.setDmaC p c x).macIn = s.macIn ∧
    (s.setDmaC p c x).portSeq = s.portSeq ∧ (s.setDmaC p c x).fcReq = s.fcReq ∧ (s.setDmaC p c x).standbyUp = s.standbyUp ∧
    (s.setDmaC p c x).sas = s.sas ∧ (s.setDmaC p c x).tim = s.tim ∧ (s.setDmaC p c x).supply = s.supply ∧
    (s.setDmaC p c x).aged = s.aged ∧ (s.setDmaC p c x).teqSum = s.teqSum ∧ (s.setDmaC p c x).teqCount = s.teqCount ∧
    (s.setDmaC p c x).peakClear = s.peakClear ∧ (s.setDmaC p c x).refLost = s.refLost ∧ (s.setDmaC p c x).ethLost = s.ethLost ∧
    (s.setDmaC p c x).aonPhase = s.aonPhase ∧ (s.setDmaC p c x).dbgEnd = s.dbgEnd ∧ (s.setDmaC p c x).heldStep = s.heldStep ∧
    (s.setDmaC p c x).flashBusy = s.flashBusy ∧ (s.setDmaC p c x).wakeLow = s.wakeLow ∧ (s.setDmaC p c x).pins = s.pins ∧
    (s.setDmaC p c x).board = s.board ∧ (s.setDmaC p c x).vsAddr = s.vsAddr ∧ (s.setDmaC p c x).vsLo = s.vsLo ∧
    (s.setDmaC p c x).vsHi = s.vsHi ∧ (s.setDmaC p c x).ring = s.ring ∧ (s.setDmaC p c x).out = s.out ∧ (s.setDmaC p c x).free = s.free ∧
    (s.setDmaC p c x).pending = s.pending :=
  by refine ⟨?_, ?_, ?_, ?_, ?_, ?_, ?_, ?_, ?_, ?_, ?_, ?_, ?_, ?_, ?_, ?_, ?_, ?_, ?_, ?_, ?_, ?_, ?_, ?_, ?_, ?_, ?_, ?_, ?_, ?_, ?_, ?_, ?_, ?_, ?_, ?_, ?_, ?_, ?_, ?_, ?_, ?_, ?_, ?_, ?_, ?_, ?_, ?_, ?_, ?_, ?_, ?_, ?_, ?_, ?_, ?_, ?_, ?_, ?_, ?_, ?_, ?_, ?_, ?_, ?_, ?_, ?_, ?_, ?_, ?_, ?_, ?_, ?_, ?_, ?_, ?_, ?_, ?_, ?_, ?_, ?_, ?_, ?_, ?_, ?_, ?_, ?_, ?_, ?_, ?_, ?_, ?_, ?_, ?_, ?_, ?_, ?_, ?_, ?_, ?_, ?_, ?_, ?_, ?_, ?_, ?_, ?_, ?_, ?_, ?_, ?_, ?_, ?_, ?_, ?_, ?_, ?_⟩ <;> rfl

@[simp] theorem setLink_other (h : Nat) (x : LinkSt) :
    (s.setLink h x).regs = s.regs ∧ (s.setLink h x).shadow = s.shadow ∧ (s.setLink h x).time = s.time ∧ (s.setLink h x).cycle = s.cycle ∧
    (s.setLink h x).dev = s.dev ∧ (s.setLink h x).fns = s.fns ∧ (s.setLink h x).msix = s.msix ∧ (s.setLink h x).msixWait = s.msixWait ∧
    (s.setLink h x).tags = s.tags ∧ (s.setLink h x).ide = s.ide ∧ (s.setLink h x).ideKeys = s.ideKeys ∧
    (s.setLink h x).ideRanges = s.ideRanges ∧ (s.setLink h x).does = s.does ∧ (s.setLink h x).faces = s.faces ∧
    (s.setLink h x).facesNext = s.facesNext ∧ (s.setLink h x).spans = s.spans ∧ (s.setLink h x).tlb = s.tlb ∧
    (s.setLink h x).walks = s.walks ∧ (s.setLink h x).stalled = s.stalled ∧ (s.setLink h x).invals = s.invals ∧
    (s.setLink h x).logs = s.logs ∧ (s.setLink h x).atsWait = s.atsWait ∧ (s.setLink h x).spanCmd = s.spanCmd ∧
    (s.setLink h x).queues = s.queues ∧ (s.setLink h x).cplDue = s.cplDue ∧ (s.setLink h x).rxIn = s.rxIn ∧ (s.setLink h x).mbx = s.mbx ∧
    (s.setLink h x).threads = s.threads ∧ (s.setLink h x).rails = s.rails ∧ (s.setLink h x).eqs = s.eqs ∧ (s.setLink h x).held = s.held ∧
    (s.setLink h x).code = s.code ∧ (s.setLink h x).codeLen = s.codeLen ∧ (s.setLink h x).stallDone = s.stallDone ∧
    (s.setLink h x).rld = s.rld ∧ (s.setLink h x).rldPoison = s.rldPoison ∧ (s.setLink h x).dbase = s.dbase ∧
    (s.setLink h x).dsize = s.dsize ∧ (s.setLink h x).holdBase = s.holdBase ∧ (s.setLink h x).capFifo = s.capFifo ∧
    (s.setLink h x).gnssRx = s.gnssRx ∧ (s.setLink h x).gnssTx = s.gnssTx ∧ (s.setLink h x).spm = s.spm ∧
    (s.setLink h x).spmPoison = s.spmPoison ∧ (s.setLink h x).bays = s.bays ∧ (s.setLink h x).spmWait = s.spmWait ∧
    (s.setLink h x).dmaCh = s.dmaCh ∧ (s.setLink h x).fcuBad = s.fcuBad ∧ (s.setLink h x).dmaLast = s.dmaLast ∧
    (s.setLink h x).recs = s.recs ∧ (s.setLink h x).bufCache = s.bufCache ∧ (s.setLink h x).lostBufs = s.lostBufs ∧
    (s.setLink h x).bpmWait = s.bpmWait ∧ (s.setLink h x).grants = s.grants ∧ (s.setLink h x).sweep = s.sweep ∧
    (s.setLink h x).locks = s.locks ∧ (s.setLink h x).cfgSeq = s.cfgSeq ∧ (s.setLink h x).enterSeq = s.enterSeq ∧
    (s.setLink h x).sec = s.sec ∧ (s.setLink h x).pwrSeq = s.pwrSeq ∧ (s.setLink h x).slots = s.slots ∧ (s.setLink h x).fifo = s.fifo ∧
    (s.setLink h x).holdQ = s.holdQ ∧ (s.setLink h x).reentry = s.reentry ∧ (s.setLink h x).espLane = s.espLane ∧
    (s.setLink h x).egress = s.egress ∧ (s.setLink h x).flows = s.flows ∧ (s.setLink h x).l2 = s.l2 ∧ (s.setLink h x).encaps = s.encaps ∧
    (s.setLink h x).routes = s.routes ∧ (s.setLink h x).gens = s.gens ∧ (s.setLink h x).l2Bad = s.l2Bad ∧
    (s.setLink h x).encapBad = s.encapBad ∧ (s.setLink h x).counters = s.counters ∧ (s.setLink h x).fcache = s.fcache ∧
    (s.setLink h x).missBuf = s.missBuf ∧ (s.setLink h x).ipId = s.ipId ∧ (s.setLink h x).learnUsed = s.learnUsed ∧
    (s.setLink h x).evOver = s.evOver ∧ (s.setLink h x).tblRun = s.tblRun ∧ (s.setLink h x).tblEv = s.tblEv ∧
    (s.setLink h x).rules = s.rules ∧ (s.setLink h x).ruleBad = s.ruleBad ∧ (s.setLink h x).tmsQ = s.tmsQ ∧
    (s.setLink h x).nodes = s.nodes ∧ (s.setLink h x).ptrs = s.ptrs ∧ (s.setLink h x).arbiter = s.arbiter ∧
    (s.setLink h x).pols = s.pols ∧ (s.setLink h x).macs = s.macs ∧ (s.setLink h x).macCnt = s.macCnt ∧ (s.setLink h x).macIn = s.macIn ∧
    (s.setLink h x).portSeq = s.portSeq ∧ (s.setLink h x).fcReq = s.fcReq ∧ (s.setLink h x).standbyUp = s.standbyUp ∧
    (s.setLink h x).sas = s.sas ∧ (s.setLink h x).tim = s.tim ∧ (s.setLink h x).supply = s.supply ∧ (s.setLink h x).aged = s.aged ∧
    (s.setLink h x).teqSum = s.teqSum ∧ (s.setLink h x).teqCount = s.teqCount ∧ (s.setLink h x).peakClear = s.peakClear ∧
    (s.setLink h x).refLost = s.refLost ∧ (s.setLink h x).ethLost = s.ethLost ∧ (s.setLink h x).aonPhase = s.aonPhase ∧
    (s.setLink h x).dbgEnd = s.dbgEnd ∧ (s.setLink h x).heldStep = s.heldStep ∧ (s.setLink h x).flashBusy = s.flashBusy ∧
    (s.setLink h x).wakeLow = s.wakeLow ∧ (s.setLink h x).pins = s.pins ∧ (s.setLink h x).board = s.board ∧
    (s.setLink h x).vsAddr = s.vsAddr ∧ (s.setLink h x).vsLo = s.vsLo ∧ (s.setLink h x).vsHi = s.vsHi ∧ (s.setLink h x).ring = s.ring ∧
    (s.setLink h x).out = s.out ∧ (s.setLink h x).free = s.free ∧ (s.setLink h x).pending = s.pending :=
  by refine ⟨?_, ?_, ?_, ?_, ?_, ?_, ?_, ?_, ?_, ?_, ?_, ?_, ?_, ?_, ?_, ?_, ?_, ?_, ?_, ?_, ?_, ?_, ?_, ?_, ?_, ?_, ?_, ?_, ?_, ?_, ?_, ?_, ?_, ?_, ?_, ?_, ?_, ?_, ?_, ?_, ?_, ?_, ?_, ?_, ?_, ?_, ?_, ?_, ?_, ?_, ?_, ?_, ?_, ?_, ?_, ?_, ?_, ?_, ?_, ?_, ?_, ?_, ?_, ?_, ?_, ?_, ?_, ?_, ?_, ?_, ?_, ?_, ?_, ?_, ?_, ?_, ?_, ?_, ?_, ?_, ?_, ?_, ?_, ?_, ?_, ?_, ?_, ?_, ?_, ?_, ?_, ?_, ?_, ?_, ?_, ?_, ?_, ?_, ?_, ?_, ?_, ?_, ?_, ?_, ?_, ?_, ?_, ?_, ?_, ?_, ?_, ?_, ?_, ?_, ?_, ?_, ?_⟩ <;> rfl

@[simp] theorem span_setSpan (n : Nat) (x : Span) : (s.setSpan n x).span n = x := by simp [span, setSpan]
theorem span_setSpan_ne {n k : Nat} (x : Span) (h : k ≠ n) : (s.setSpan n x).span k = s.span k := SMap.get_put_ne _ _ _ _ h
@[simp] theorem queue_setQueue (q : Nat) (x : Queue) : (s.setQueue q x).queue q = x := by simp [queue, setQueue]
theorem queue_setQueue_ne {q k : Nat} (x : Queue) (h : k ≠ q) : (s.setQueue q x).queue k = s.queue k := SMap.get_put_ne _ _ _ _ h
@[simp] theorem mail_setMail (c : Nat) (x : Mbx) : (s.setMail c x).mail c = x := by simp [mail, setMail]
theorem mail_setMail_ne {c k : Nat} (x : Mbx) (h : k ≠ c) : (s.setMail c x).mail k = s.mail k := SMap.get_put_ne _ _ _ _ h
@[simp] theorem bay_setBay (p b : Nat) (x : Bay) : (s.setBay p b x).bay p b = x := by simp [bay, setBay]
@[simp] theorem rail_setRail (p r : Nat) (x : Rail) : (s.setRail p r x).rail p r = x := by simp [rail, setRail]
@[simp] theorem eq_setEq (t : Nat) (x : List EqItem) : (s.setEq t x).eq t = x := by simp [eq, setEq]
@[simp] theorem dmaC_setDmaC (p c : Nat) (x : DmaCh) : (s.setDmaC p c x).dmaC p c = x := by simp [dmaC, setDmaC]
@[simp] theorem link_setLink (h : Nat) (x : LinkSt) : (s.setLink h x).link h = x := by simp [link, setLink]
@[simp] theorem fn_setFn (f : Fn) (c : FnCfg) : (s.setFn f c).fn f = c := by simp [fn, setFn]
@[simp] theorem vec_setVec (f : Fn) (v : Nat) (m : Msix) : (s.setVec f v m).vec f v = m := by simp [vec, setVec]

end Sys2Proof.Machine.State
end

