-- ==== Sys2Proof/Laws/Ops.lean ====
section
/-!
SUPPORT. What each operation of Ops.lean can do, said once: registers and fields read after a write, held values, EVT bits and their
vectors, fault events, commands' ends, the wake of a domain that is ON, and an access to a register that may be reached at once.
-/

namespace Sys2Proof.Machine

/-- R28: two units of one aligned run of 128 never share a pseudo-channel, so the run covers all 128 of them. -/
theorem rldChannel_inj {u v : Nat} (run : u / 128 = v / 128)
    (h : Config.rldChannel u = Config.rldChannel v) : u = v := by
  unfold Config.rldChannel at h
  rw [run] at h
  have h := congrArg Fin.val (add_right_cancel h)
  simp only [Fin.ofNat] at h
  omega

theorem regKey_inj {r r' : Reg} {i i' : Nat} (h : regKey r i = regKey r' i') : r = r' ∧ i = i' := by
  have b (x : Reg) : x.ctorIdx < 512 := by cases x <;> decide
  have h1 := b r
  have h2 := b r'
  unfold regKey at h
  have e : r.ctorIdx = r'.ctorIdx := by omega
  refine ⟨?_, by omega⟩
  have g (x : Reg) : Reg.ofNat x.ctorIdx = x := by cases x <;> rfl
  rw [← g r, ← g r', e]

namespace State

variable (s : State)

@[simp] theorem reg_setReg (r : Reg) (i : Nat) (w : Word) : (s.setReg r i w).reg r i = w := by simp [reg, setReg]

/-- Another register, or another instance, reads as before. -/
theorem reg_setReg_ne {r r' : Reg} {i i' : Nat} (w : Word) (h : r' ≠ r ∨ i' ≠ i) : (s.setReg r i w).reg r' i' = s.reg r' i' := by
  unfold reg setReg
  refine SMap.get_put_ne _ _ _ _ fun e => ?_
  obtain ⟨h1, h2⟩ := regKey_inj e
  rcases h with h | h
  · exact h h1
  · exact h h2

theorem reg_setReg_if (r r' : Reg) (i i' : Nat) (w : Word) :
    (s.setReg r i w).reg r' i' = if r' = r ∧ i' = i then w else s.reg r' i' := by
  split
  · rename_i h
    obtain ⟨rfl, rfl⟩ := h
    simp
  · rename_i h
    exact s.reg_setReg_ne w (by tauto)

theorem reg_setFld (f : Fld) (i v : Nat) : (s.setFld f i v).reg f.reg i = setBits (s.reg f.reg i) f.lo f.width v := by simp [setFld]

theorem reg_setFld_ne {f : Fld} {r : Reg} {i i' : Nat} (v : Nat) (h : r ≠ f.reg ∨ i' ≠ i) : (s.setFld f i v).reg r i' = s.reg r i' :=
  s.reg_setReg_ne _ h

/-- A field reads what was written to it. -/
theorem fld_setFld (f : Fld) (i v : Nat) (h : f.lo + f.width ≤ 64) : (s.setFld f i v).fld f i = v % 2 ^ f.width := by
  unfold fld
  rw [reg_setFld]
  exact getBits_setBits_self _ _ _ _ h

/-- A field of another register, of another instance, or apart in the same word, keeps its value. -/
theorem fld_setFld_ne {f g : Fld} {i j : Nat} (v : Nat) (hf : f.lo + f.width ≤ 64)
    (h : g.reg ≠ f.reg ∨ j ≠ i ∨ g.lo + g.width ≤ f.lo ∨ f.lo + f.width ≤ g.lo) : (s.setFld f i v).fld g j = s.fld g j := by
  by_cases e : g.reg = f.reg ∧ j = i
  · obtain ⟨e1, rfl⟩ := e
    unfold fld
    rw [e1, reg_setFld]
    refine getBits_setBits_apart _ _ _ _ _ _ hf ?_
    tauto
  · unfold fld
    rw [s.reg_setFld_ne v (by tauto)]

theorem fld_setReg_ne {r : Reg} {g : Fld} {i j : Nat} (w : Word) (h : g.reg ≠ r ∨ j ≠ i) : (s.setReg r i w).fld g j = s.fld g j := by
  unfold fld
  rw [s.reg_setReg_ne w h]

theorem fld_setReg (g : Fld) (i : Nat) (w : Word) : (s.setReg g.reg i w).fld g i = getBits w g.lo g.width := by simp [fld]

/-- The registers that two writes leave do not depend on the other fields of the state. -/
theorem reg_congr {s t : State} (h : s.regs = t.regs) (r : Reg) (i : Nat) : s.reg r i = t.reg r i := by unfold reg; rw [h]

theorem fld_congr {s t : State} (h : s.regs = t.regs) (f : Fld) (i : Nat) : s.fld f i = t.fld f i := by unfold fld; rw [reg_congr h]

/-! ### Values that wait -/

/-- A held value is waiting, in the bits written and in those that waited before; a later value replaces an earlier one (R8). -/
theorem pend_hold (r : Reg) (i : Nat) (m v : Word) : (s.hold r i m v).pend r i =
    ⟨(s.pend r i).mask ||| m, merge m (s.pend r i).val v &&& ((s.pend r i).mask ||| m)⟩ := by
  simp [pend, hold]

/-- Boundary values take effect: the waiting bits of the mask are in the register, the others stay as they were (R7). -/
theorem reg_applyMask (r : Reg) (i : Nat) (m : Word) :
    (s.applyMask r i m).reg r i = merge ((s.pend r i).mask &&& m) (s.reg r i) (s.pend r i).val := by
  have h : (s.applyMask r i m).regs = (s.setReg r i (merge ((s.pend r i).mask &&& m) (s.reg r i) (s.pend r i).val)).regs := rfl
  rw [reg_congr h, reg_setReg]

/-! ### MSI-X and EVT registers (R77, R88, R533) -/

/-- Everything that a vector can change: PBA bits, waiting messages, the count of dropped ones, and what leaves the device. -/
theorem msixSend_frame (f : Fn) (v : Nat) : s.msixSend f v = { s with
    msix := (s.msixSend f v).msix, msixWait := (s.msixSend f v).msixWait, regs := (s.msixSend f v).regs, out := (s.msixSend f v).out } := by
  unfold msixSend
  dsimp only
  split
  · rfl
  · split
    · rfl
    · split
      · rfl
      · split
        · rfl
        · split <;> rfl

theorem mfVector_frame (v : Nat) : s.mfVector v = { s with
    msix := (s.mfVector v).msix, msixWait := (s.mfVector v).msixWait, regs := (s.mfVector v).regs, out := (s.mfVector v).out } := by
  unfold mfVector
  split
  · rfl
  · exact s.msixSend_frame .mf v

/-- A vector changes no register but HEP_DROP_CNT. -/
theorem reg_msixSend (f : Fn) (v : Nat) {r : Reg} {i : Nat} (h : r ≠ .HEP_DROP_CNT) : (s.msixSend f v).reg r i = s.reg r i := by
  unfold msixSend
  dsimp only
  split
  · rfl
  · split
    · rfl
    · split
      · exact s.reg_setFld_ne _ (.inl h)
      · split
        · rfl
        · split <;> rfl

theorem reg_mfVector (v : Nat) {r : Reg} {i : Nat} (h : r ≠ .HEP_DROP_CNT) : (s.mfVector v).reg r i = s.reg r i := by
  unfold mfVector
  split
  · rfl
  · exact s.reg_msixSend .mf v h

/-- An event sets its bit and no other register of its own. -/
theorem reg_setEvt (evt en vec : Reg) (i b : Nat) (h : evt ≠ .HEP_DROP_CNT) :
    (s.setEvt evt en vec i b).reg evt i = s.reg evt i ||| ((1 : Word) <<< b) := by
  unfold setEvt
  dsimp only
  split
  · rw [reg_mfVector _ _ h, reg_setReg]
  · rw [reg_setReg]

theorem reg_setEvt_ne {evt en vec r : Reg} {i j b : Nat} (h : r ≠ .HEP_DROP_CNT) (hr : r ≠ evt ∨ j ≠ i) :
    (s.setEvt evt en vec i b).reg r j = s.reg r j := by
  unfold setEvt
  dsimp only
  split
  · rw [reg_mfVector _ _ h, s.reg_setReg_ne _ hr]
  · rw [s.reg_setReg_ne _ hr]

theorem setEvt_frame (evt en vec : Reg) (i b : Nat) : s.setEvt evt en vec i b = { s with
    msix := (s.setEvt evt en vec i b).msix, msixWait := (s.setEvt evt en vec i b).msixWait,
    regs := (s.setEvt evt en vec i b).regs, out := (s.setEvt evt en vec i b).out } := by
  unfold setEvt
  dsimp only
  split
  · exact mfVector_frame _ _
  · rfl

/-! ### Commands' ends (R534) -/

theorem endCmd_frame (f g : Fld) (i code : Nat) (q : Seq) :
    s.endCmd f g i code q = { s with regs := (s.endCmd f g i code q).regs } := rfl

/-- LAST_RESULT and LAST_SEQ of a register read the code and the SEQ that a command ended with. -/
theorem fld_endCmd {f g : Fld} {i code : Nat} {q : Seq} (hf : f.lo + f.width ≤ 64) (hg : g.lo + g.width ≤ 64)
    (ha : f.lo + f.width ≤ g.lo ∨ g.lo + g.width ≤ f.lo) (hw : g.width = 16) (hc : code < 2 ^ f.width) :
    (s.endCmd f g i code q).fld f i = code ∧ (s.endCmd f g i code q).fld g i = q.toNat := by
  unfold endCmd
  constructor
  · rw [fld_setFld_ne _ _ hg (by tauto), fld_setFld _ _ _ _ hf, Nat.mod_eq_of_lt hc]
  · rw [fld_setFld _ _ _ _ hg, hw, Nat.mod_eq_of_lt q.isLt]

/-! ### Domains and the register ring (R62, R128, R494, R496) -/

/-- Nothing wakes a domain that is ON, or powers up already. -/
theorem wakeDom_on (work : Bool) (d : Nat) (h : s.domState d = 0 ∨ s.domState d = 3) : s.wakeDom work d = s := by
  unfold wakeDom
  rcases h with h | h <;> rw [h] <;> rfl

theorem wake_on (work : Bool) (d : Nat) (h : s.domOn d = true) : s.wake work d = s := by
  simp only [domOn, Bool.and_eq_true, Bool.or_eq_true, beq_iff_eq, decide_eq_true_eq] at h
  obtain ⟨h, p⟩ := h
  unfold wake
  by_cases g : 16 ≤ d
  · rw [if_pos g, s.wakeDom_on work _ (.inl (p.resolve_left (by omega))), s.wakeDom_on work _ (.inl h)]
  · rw [if_neg g, s.wakeDom_on work _ (.inl h)]

/-- A source of a Truss that is ON becomes pending and wakes nothing. -/
theorem sourceWake_on (t : Nat) (h : s.domOn (16 + t) = true) : s.sourceWake t = s := s.wake_on true _ h

/-- An access to what may be reached at once acts at once; a block that is held keeps it, in its place behind those that wait. -/
theorem ringTake_open (o : RingOp) (act : State → State) (h : s.ringOpen o.off = true) : s.ringTake o act = act s := by
  unfold ringOpen at h
  unfold ringTake
  cases e : offDomain o.off with
  | none => simp_all
  | some d =>
    simp only [e, Bool.and_eq_true, Bool.not_eq_true'] at h
    have hd : s.domState d = 0 := by
      have := h.2
      simp only [domOn, Bool.and_eq_true, beq_iff_eq] at this
      exact this.1
    simp [h.1, s.wake_on true d h.2, hd]

theorem ringTake_held (o : RingOp) (act : State → State) (h : s.ringHeld o.off = true) : s.ringTake o act = s.ringWait o := by
  unfold ringTake
  rw [if_pos h]

theorem onReg_open (r : Reg) (i : Nat) (w : Word) (act : State → State) (h : s.regOpen r i = true) : s.onReg r i w act = act s :=
  s.ringTake_open _ act h

theorem onRead_open (r : Reg) (i : Nat) (act : State → State) (e : Ecc) (h : s.regOpen r i = true) : s.onRead r i act e = act s :=
  s.ringTake_open _ act h

end State

end Sys2Proof.Machine
end

