-- ==== Sys2Proof/Laws/Isa.lean ====
section
/-!
SUPPORT. Engine instructions: what an issued slot does, said once, and what writing a general register leaves.
-/

namespace Sys2Proof.Machine.State

variable (s : State)

theorem thr_congr {s t : State} (h : s.threads = t.threads) (n : Nat) : s.thr n = t.thr n := by unfold thr; rw [h]

/-- Writing a thread's record changes nothing but the threads and the stall marks. -/
theorem setThr_frame (n : Nat) (y : Thread) :
    s.setThr n y = { s with threads := (s.setThr n y).threads, stallDone := (s.setThr n y).stallDone } := by
  unfold setThr
  dsimp only
  split <;> rfl

theorem setThr_threads (n : Nat) (y : Thread) : (s.setThr n y).threads = SMap.put {} s.threads n y := by
  unfold setThr
  dsimp only
  split <;> rfl

@[simp] theorem thr_setThr (n : Nat) (y : Thread) : (s.setThr n y).thr n = y := by
  unfold thr
  rw [setThr_threads, SMap.get_put_self]

theorem thr_setThr_ne {n m : Nat} (y : Thread) (h : m ≠ n) : (s.setThr n y).thr m = s.thr m := by
  unfold thr
  rw [setThr_threads, SMap.get_put_ne _ _ _ _ h]

@[simp] theorem setThr_regs (n : Nat) (y : Thread) : (s.setThr n y).regs = s.regs := by rw [setThr_frame]

theorem onlyThread_setThr (n : Nat) (y : Thread) : s.OnlyThread (s.setThr n y) n :=
  ⟨s.setThr_frame n y, fun _ h => s.thr_setThr_ne y h⟩

theorem onlyThread_refl (n : Nat) : s.OnlyThread s n := ⟨rfl, fun _ _ => rfl⟩

/-- A register write is what `Wrote` says. -/
theorem wrote_setGreg (n : Nat) (rd : RegNo) (w : Word) : s.Wrote n rd w (s.setGreg n rd.toNat w) := by
  by_cases h : rd = 0
  · have e : s.setGreg n rd.toNat w = s := by subst h; rfl
    rw [e]
    exact ⟨s.onlyThread_refl n, rfl, fun r => by rw [if_neg (fun c => c.2 h)]⟩
  · have h0 : rd.toNat ≠ 0 := fun e => h (by apply BitVec.eq_of_toNat_eq; simpa using e)
    unfold setGreg
    rw [if_neg h0]
    refine ⟨s.onlyThread_setThr n _, by rw [thr_setThr], fun r => ?_⟩
    unfold g greg
    rw [thr_setThr]
    by_cases e : r = rd
    · subst e
      rw [if_neg h0, if_pos ⟨rfl, h⟩]
      exact SMap.get_put_self _ _ _ _
    · have hr : r.toNat ≠ rd.toNat := fun c => e (BitVec.eq_of_toNat_eq c)
      rw [if_neg (fun c : r = rd ∧ rd ≠ 0 => e c.1)]
      congr 1
      exact SMap.get_put_ne _ _ _ _ hr

theorem thr_bump (f : Fld) (i k n : Nat) : (s.bump f i k).thr n = s.thr n := rfl

/-- An issued instruction runs on the state that counts it and has its PC at the next word. -/
theorem issue_eq {x : Slot} {reads : List RegNo} {ret : Bool} (h : s.Issues x reads ret) (uses : BitVec 26)
    (f : State → Nat → BitVec 32 → Done) :
    s.issue x uses reads ret f = match f (s.ran x) x.thr.val (s.thr x.thr.val).pc with
      | .ok t => t
      | .exc e t => t.excAt x.thr.val e (s.thr x.thr.val).pc := by
  obtain ⟨h1, h2, h3, h4, h5, h6, h7⟩ := h
  unfold issue issueNow ran
  have e : (s.bump F.TRS_ISSUE_CNT_COUNT (x.thr.val / 64)).codeSize x.thr.val = s.codeSize x.thr.val := rfl
  have h4' : ¬ s.codeSize x.thr.val ≤ (s.thr x.thr.val).pc.toNat := by omega
  have k1 : (Ecc.ok == Ecc.corrected) = false := rfl
  have k2 : (Ecc.ok == Ecc.uncorrected) = false := rfl
  have k3 : (0 : BitVec 26) &&& ~~~uses = 0 := BitVec.zero_and
  simp only [h1, h2, h3, h5, h6, h7, e, k1, k2, k3, if_neg h4', ne_eq, not_true_eq_false, Bool.false_eq_true, decide_false,
    Bool.or_false, ↓reduceIte] <;> rfl

/-- What the instruction reads of its own registers is what it held before. -/
theorem g_ran (x : Slot) (n : Nat) (r : RegNo) : (s.ran x).g n r = s.g n r := by
  unfold ran setPc g greg
  by_cases e : n = x.thr.val
  · subst e
    rw [thr_setThr]
    rfl
  · rw [thr_setThr_ne _ _ e]
    rfl

theorem thr_ran (x : Slot) : (s.ran x).thr x.thr.val = { s.thr x.thr.val with pc := (s.thr x.thr.val).pc + 4 } := by
  unfold ran setPc
  rw [thr_setThr]
  rfl

/-- An instruction whose effect is one register write computes it. -/
theorem computes_put {x : Slot} {reads : List RegNo} {c : Instr} {rd : RegNo} {w : Word} {uses : BitVec 26}
    {f : State → Nat → BitVec 32 → Done} (hc : exec c s = .next (s.issue x uses reads false f))
    (hf : f (s.ran x) x.thr.val (s.thr x.thr.val).pc = (s.ran x).put x.thr.val rd w) : s.Computes x reads c rd w := by
  intro h
  refine ⟨_, hc, ?_⟩
  rw [s.issue_eq h, hf]
  exact (s.ran x).wrote_setGreg _ _ _

theorem computes_alu2 {x : Slot} {c : Instr} {rd rs rt : RegNo} {w : Word} {f : Word → Word → Word}
    (hc : exec c s = .next (s.alu2 x rd rs rt f)) (hw : f (s.g x.thr.val rs) (s.g x.thr.val rt) = w) :
    s.Computes x [rs, rt] c rd w :=
  s.computes_put hc (by rw [g_ran, g_ran, hw])

theorem computes_alu1 {x : Slot} {c : Instr} {rd rs : RegNo} {w : Word} {f : Word → Word}
    (hc : exec c s = .next (s.alu1 x rd rs f)) (hw : f (s.g x.thr.val rs) = w) : s.Computes x [rs] c rd w :=
  s.computes_put hc (by rw [g_ran, hw])

theorem computes_aluImm {x : Slot} {c : Instr} {rd rs : RegNo} {w : Word} {f : Word → Word}
    (hc : exec c s = .next (s.aluImm x rd rs f)) (hw : f (s.g x.thr.val rs) = w) : s.Computes x [rs] c rd w :=
  s.computes_put hc (by rw [g_ran, hw])

theorem computes_shi {x : Slot} {c : Instr} {rd rs : RegNo} {w : Word} {f : Word → Word}
    (hc : exec c s = .next (s.shi x rd rs f)) (hw : f (s.g x.thr.val rs) = w) : s.Computes x [rs] c rd w :=
  s.computes_put hc (by rw [g_ran, hw])

end Sys2Proof.Machine.State
end

