-- ==== Sys2Proof/Laws/Memory.lean ====
section
/-!
SUPPORT. The addressed memories: RLD bytes and scratchpad words (R28–R30, R427, R443). What reading after a write gives, and that every
memory operation keeps the canonical form.
-/

namespace Sys2Proof.Machine

theorem Memory.wf_iff (s : State) : Memory.wf s = true ↔
    SMap.wf (fun _ => 0) s.rld = true ∧ SMap.wf (fun _ => false) s.rldPoison = true ∧
    SMap.wf (fun _ => 0) s.spm = true ∧ SMap.wf (fun _ => false) s.spmPoison = true := by
  simp [Memory.wf, and_assoc]

/-- A state with the same memories is in the canonical form as well. -/
theorem Memory.wf_congr {s t : State} (h : t.rld = s.rld ∧ t.rldPoison = s.rldPoison ∧ t.spm = s.spm ∧ t.spmPoison = s.spmPoison)
    (hs : Memory.wf s = true) : Memory.wf t = true := by
  obtain ⟨h1, h2, h3, h4⟩ := h
  rw [Memory.wf_iff] at hs ⊢
  rw [h1, h2, h3, h4]
  exact hs

theorem Memory.wf_reset : Memory.wf State.reset = true := by decide

namespace State

variable {s : State}

/-- A fold of steps that keep the form keeps it. -/
theorem wf_foldl {α : Type} (f : State → α → State) (hf : ∀ t a, Memory.wf t = true → Memory.wf (f t a) = true) (l : List α)
    (h : Memory.wf s = true) : Memory.wf (l.foldl f s) = true := by
  induction l generalizing s with
  | nil => exact h
  | cons a l ih => exact ih (hf s a h)

/-! ### RLD -/

@[simp] theorem rldByte_put (a k : Nat) (b : Byte) :
    ({ s with rld := SMap.put 0 s.rld a b } : State).rldByte k = if k = a then b else s.rldByte k := by
  simp [rldByte, SMap.get_put]

/-- A byte outside a written range reads as before. -/
theorem rldByte_rldWrite_out (bs : List Byte) (a k : Nat) (h : k < a ∨ a + bs.length ≤ k) : (s.rldWrite a bs).rldByte k = s.rldByte k := by
  induction bs generalizing s a with
  | nil => rfl
  | cons b bs ih =>
    simp only [List.length_cons] at h
    rw [rldWrite, ih _ (by omega), rldByte_put, if_neg (by omega)]

/-- A byte inside a written range reads what was written. -/
theorem rldByte_rldWrite_in (bs : List Byte) (a k : Nat) (h : k < bs.length) : (s.rldWrite a bs).rldByte (a + k) = bs[k] := by
  induction bs generalizing s a k with
  | nil => simp at h
  | cons b bs ih =>
    rw [rldWrite]
    cases k with
    | zero =>
      have e := rldByte_rldWrite_out (s := { s with rld := SMap.put 0 s.rld a b }) bs (a + 1) a (by omega)
      exact e.trans ((rldByte_put a a b).trans (if_pos rfl))
    | succ k =>
      have := ih (s := { s with rld := SMap.put 0 s.rld a b }) (a + 1) k (by simpa using h)
      rw [show a + (k + 1) = a + 1 + k by omega, this]
      rfl

theorem wf_putRld (a : Nat) (b : Byte) (h : Memory.wf s = true) : Memory.wf { s with rld := SMap.put 0 s.rld a b } = true := by
  rw [Memory.wf_iff] at h ⊢
  exact ⟨SMap.wf_put _ _ _ h.1, h.2⟩

theorem wf_rldWrite (bs : List Byte) (a : Nat) (h : Memory.wf s = true) : Memory.wf (s.rldWrite a bs) = true := by
  induction bs generalizing s a with
  | nil => exact h
  | cons b bs ih => exact ih _ (wf_putRld a b h)

theorem wf_setPoison (a : Nat) (bad : Bool) (h : Memory.wf s = true) : Memory.wf (s.setPoison a bad) = true := by
  rw [Memory.wf_iff] at h ⊢
  exact ⟨h.1, SMap.wf_put _ _ _ h.2.1, h.2.2⟩

theorem wf_rldStore (bs : List Byte) (a : Nat) (bad : Bool) (h : Memory.wf s = true) : Memory.wf (s.rldStore a bs bad) = true := by
  refine wf_foldl _ (fun t i ht => ?_) _ (wf_rldWrite bs a h)
  dsimp only
  split
  · split
    · exact wf_setPoison _ _ ht
    · exact ht
  · split
    · exact wf_setPoison _ _ ht
    · exact ht

theorem wf_chainWrite (bs : List Byte) (i off : Nat) (h : Memory.wf s = true) : Memory.wf (s.chainWrite i off bs) = true := by
  induction bs generalizing s off with
  | nil => exact h
  | cons b bs ih =>
    rw [chainWrite]
    split
    · exact ih _ (wf_putRld _ b h)
    · exact ih _ h

/-! ### Scratchpad -/

theorem spmWord_setWord (p off : Nat) (w : Word) (bad : Bool) : (s.setWord p off w bad).spmWord p off = w := by
  simp [spmWord, setWord]

theorem spmBad_setWord (p off : Nat) (w : Word) (bad : Bool) : (s.setWord p off w bad).spmBad p off = bad := by
  simp [spmBad, setWord]

/-- A word with another key reads as before. -/
theorem spmWord_setWord_ne {p p' off off' : Nat} (w : Word) (bad : Bool) (h : wordKey p' off' ≠ wordKey p off) :
    (s.setWord p off w bad).spmWord p' off' = s.spmWord p' off' := SMap.get_put_ne _ _ _ _ h

theorem wf_setWord (p off : Nat) (w : Word) (bad : Bool) (h : Memory.wf s = true) : Memory.wf (s.setWord p off w bad) = true := by
  rw [Memory.wf_iff] at h ⊢
  exact ⟨h.1, h.2.1, SMap.wf_put _ _ _ h.2.2.1, SMap.wf_put _ _ _ h.2.2.2⟩

theorem wf_setByte (p off : Nat) (b : Byte) (h : Memory.wf s = true) : Memory.wf (s.setByte p off b) = true := by
  rw [Memory.wf_iff] at h ⊢
  exact ⟨h.1, h.2.1, SMap.wf_put _ _ _ h.2.2.1, h.2.2.2⟩

theorem wf_setBytes (p : Nat) (bs : List Byte) (off : Nat) (h : Memory.wf s = true) : Memory.wf (s.setBytes p off bs) = true := by
  induction bs generalizing s off with
  | nil => exact h
  | cons b bs ih => exact ih _ (wf_setByte p off b h)

theorem wf_putBad (k : Nat) (bad : Bool) (h : Memory.wf s = true) :
    Memory.wf { s with spmPoison := SMap.put false s.spmPoison k bad } = true := by
  rw [Memory.wf_iff] at h ⊢
  exact ⟨h.1, h.2.1, h.2.2.1, SMap.wf_put _ _ _ h.2.2.2⟩

theorem wf_spmWrite (p off : Nat) (bs : List Byte) (bad : Bool) (h : Memory.wf s = true) : Memory.wf (s.spmWrite p off bs bad) = true := by
  have hb := wf_setBytes p bs off h
  unfold spmWrite
  dsimp only
  split
  · refine wf_foldl _ (fun t i ht => ?_) _ hb
    dsimp only
    split
    · exact wf_putBad _ _ ht
    · exact ht
  · refine wf_foldl _ (fun t i ht => ?_) _ hb
    dsimp only
    split
    · exact wf_putBad _ _ ht
    · exact ht

theorem wf_zeroBay (p b : Nat) (h : Memory.wf s = true) : Memory.wf (s.zeroBay p b) = true := by
  rw [Memory.wf_iff] at h ⊢
  have e1 := SMap.wf_keep (fun _ => (0 : Word)) (fun k => decide (k / 0x40000 ≠ 8 * p + b)) h.2.2.1
  have e2 := SMap.wf_keep (fun _ => false) (fun k => decide (k / 0x40000 ≠ 8 * p + b)) h.2.2.2
  exact ⟨h.1, h.2.1, e1, e2⟩

end State

end Sys2Proof.Machine
end

