-- ==== Sys2Proof/Laws/PerInstr.lean ====
section
/-!
SUPPORT. Statements about every command as syntax, made per constructor: the word of an engine instruction has zeros outside the fields it
uses (R411, R412); a command that is no engine instruction has no word.
-/

namespace Sys2Proof.Laws.FieldsInUse

set_option Elab.async false

/-- The word that the encoder gives has no bit outside the fields in use. -/
def Statement (i : Instr) : Prop := ∀ e, encodeEng i = some e → e.word.setWidth 26 &&& ~~~e.uses = 0

/-- The bits of a word of format R, and of format I, below OP. -/
theorem fmtR_bit (op : BitVec 6) (rd rs rt : RegNo) (fn : BitVec 11) {i : Nat} (h : i < 26) : (fmtR op rd rs rt fn).getLsbD i =
    if i < 11 then fn.getLsbD i else if i < 16 then rt.getLsbD (i - 11) else if i < 21 then rs.getLsbD (i - 16) else rd.getLsbD (i - 21) := by
  simp only [fmtR, BitVec.getLsbD_append]
  split_ifs <;> first | rfl | omega

theorem fmtI_bit (op : BitVec 6) (rd rs : RegNo) (imm : BitVec 16) {i : Nat} (h : i < 26) : (fmtI op rd rs imm).getLsbD i =
    if i < 16 then imm.getLsbD i else if i < 21 then rs.getLsbD (i - 16) else rd.getLsbD (i - 21) := by
  simp only [fmtI, BitVec.getLsbD_append]
  split_ifs <;> first | rfl | omega

theorem of_some {a e : EngWord} (h : some a = some e)
    (hz : ∀ i, i < 26 → a.uses.getLsbD i = false → a.word.getLsbD i = false) : e.word.setWidth 26 &&& ~~~e.uses = 0 := by
  obtain rfl := Option.some.inj h
  apply BitVec.eq_of_getLsbD_eq
  intro i hi
  have := hz i hi
  cases hu : a.uses.getLsbD i <;> simp_all

theorem of_full {x : Slot} {k : BitVec 2} {w : BitVec 32} {e : EngWord} (h : some (EngWord.mk x 0x3ffffff k w) = some e) :
    e.word.setWidth 26 &&& ~~~e.uses = 0 := by
  obtain rfl := Option.some.inj h
  apply BitVec.eq_of_getLsbD_eq
  intro i hi
  interval_cases i <;> simp

theorem add (x : Slot) (rd rs rt : RegNo) : Statement (.add x rd rs rt) := fun _ h => of_full h
theorem sub (x : Slot) (rd rs rt : RegNo) : Statement (.sub x rd rs rt) := fun _ h => of_full h
theorem and_ (x : Slot) (rd rs rt : RegNo) : Statement (.and_ x rd rs rt) := fun _ h => of_full h
theorem or_ (x : Slot) (rd rs rt : RegNo) : Statement (.or_ x rd rs rt) := fun _ h => of_full h
theorem xor (x : Slot) (rd rs rt : RegNo) : Statement (.xor x rd rs rt) := fun _ h => of_full h
theorem sll (x : Slot) (rd rs rt : RegNo) : Statement (.sll x rd rs rt) := fun _ h => of_full h
theorem srl (x : Slot) (rd rs rt : RegNo) : Statement (.srl x rd rs rt) := fun _ h => of_full h
theorem sra (x : Slot) (rd rs rt : RegNo) : Statement (.sra x rd rs rt) := fun _ h => of_full h
theorem mul (x : Slot) (rd rs rt : RegNo) : Statement (.mul x rd rs rt) := fun _ h => of_full h
theorem mulhu (x : Slot) (rd rs rt : RegNo) : Statement (.mulhu x rd rs rt) := fun _ h => of_full h
theorem slt (x : Slot) (rd rs rt : RegNo) : Statement (.slt x rd rs rt) := fun _ h => of_full h
theorem sltu (x : Slot) (rd rs rt : RegNo) : Statement (.sltu x rd rs rt) := fun _ h => of_full h
theorem min (x : Slot) (rd rs rt : RegNo) : Statement (.min x rd rs rt) := fun _ h => of_full h
theorem max (x : Slot) (rd rs rt : RegNo) : Statement (.max x rd rs rt) := fun _ h => of_full h
theorem popc (x : Slot) (rd rs : RegNo) : Statement (.popc x rd rs) := fun _ h => of_some h fun i hi hm => by
  rw [fmtR_bit _ _ _ _ _ hi]
  interval_cases i <;> simp_all
theorem clz (x : Slot) (rd rs : RegNo) : Statement (.clz x rd rs) := fun _ h => of_some h fun i hi hm => by
  rw [fmtR_bit _ _ _ _ _ hi]
  interval_cases i <;> simp_all
theorem ctz (x : Slot) (rd rs : RegNo) : Statement (.ctz x rd rs) := fun _ h => of_some h fun i hi hm => by
  rw [fmtR_bit _ _ _ _ _ hi]
  interval_cases i <;> simp_all
theorem bswap (x : Slot) (rd rs : RegNo) : Statement (.bswap x rd rs) := fun _ h => of_some h fun i hi hm => by
  rw [fmtR_bit _ _ _ _ _ hi]
  interval_cases i <;> simp_all
theorem addi (x : Slot) (rd rs : RegNo) (imm : BitVec 16) : Statement (.addi x rd rs imm) := fun _ h => of_full h
theorem andi (x : Slot) (rd rs : RegNo) (imm : BitVec 16) : Statement (.andi x rd rs imm) := fun _ h => of_full h
theorem ori (x : Slot) (rd rs : RegNo) (imm : BitVec 16) : Statement (.ori x rd rs imm) := fun _ h => of_full h
theorem xori (x : Slot) (rd rs : RegNo) (imm : BitVec 16) : Statement (.xori x rd rs imm) := fun _ h => of_full h
theorem slti (x : Slot) (rd rs : RegNo) (imm : BitVec 16) : Statement (.slti x rd rs imm) := fun _ h => of_full h
theorem lih (x : Slot) (rd : RegNo) (k : BitVec 2) (imm : BitVec 16) : Statement (.lih x rd k imm) := fun _ h => of_some h fun i hi hm => by
  rw [fmtI_bit _ _ _ _ hi]
  interval_cases i <;> simp_all
theorem shiSll (x : Slot) (rd rs : RegNo) (c : BitVec 6) : Statement (.shiSll x rd rs c) := fun _ h => of_some h fun i hi hm => by
  rw [fmtI_bit _ _ _ _ hi]
  simp only [BitVec.getLsbD_append]
  interval_cases i <;> simp_all
theorem shiSrl (x : Slot) (rd rs : RegNo) (c : BitVec 6) : Statement (.shiSrl x rd rs c) := fun _ h => of_some h fun i hi hm => by
  rw [fmtI_bit _ _ _ _ hi]
  simp only [BitVec.getLsbD_append]
  interval_cases i <;> simp_all
theorem shiSra (x : Slot) (rd rs : RegNo) (c : BitVec 6) : Statement (.shiSra x rd rs c) := fun _ h => of_some h fun i hi hm => by
  rw [fmtI_bit _ _ _ _ hi]
  simp only [BitVec.getLsbD_append]
  interval_cases i <;> simp_all
theorem shiRotate (x : Slot) (rd rs : RegNo) (c : BitVec 6) : Statement (.shiRotate x rd rs c) := fun _ h => of_some h fun i hi hm => by
  rw [fmtI_bit _ _ _ _ hi]
  simp only [BitVec.getLsbD_append]
  interval_cases i <;> simp_all
theorem lds (x : Slot) (rd rb : RegNo) (sx : Bool) (sz : BitVec 2) (off : BitVec 13) : Statement (.lds x rd rb sx sz off) := fun _ h => of_full h
theorem sts (x : Slot) (rd rb : RegNo) (sx : Bool) (sz : BitVec 2) (off : BitVec 13) : Statement (.sts x rd rb sx sz off) := fun _ h => of_full h
theorem ldw (x : Slot) (rd rb : RegNo) (sx : Bool) (sz : BitVec 2) (off : BitVec 13) : Statement (.ldw x rd rb sx sz off) := fun _ h => of_full h
theorem stw (x : Slot) (rd rb : RegNo) (sx : Bool) (sz : BitVec 2) (off : BitVec 13) : Statement (.stw x rd rb sx sz off) := fun _ h => of_full h
theorem ldr (x : Slot) (rd rb : RegNo) (sx : Bool) (sz : BitVec 2) (off : BitVec 13) : Statement (.ldr x rd rb sx sz off) := fun _ h => of_full h
theorem str (x : Slot) (rd rb : RegNo) (sx : Bool) (sz : BitVec 2) (off : BitVec 13) : Statement (.str x rd rb sx sz off) := fun _ h => of_full h
theorem atsAdd (x : Slot) (rd rs rt : RegNo) : Statement (.atsAdd x rd rs rt) := fun _ h => of_full h
theorem atsSwap (x : Slot) (rd rs rt : RegNo) : Statement (.atsSwap x rd rs rt) := fun _ h => of_full h
theorem atsCas (x : Slot) (rd rs rt : RegNo) : Statement (.atsCas x rd rs rt) := fun _ h => of_full h
theorem atrAdd (x : Slot) (rd rs rt : RegNo) : Statement (.atrAdd x rd rs rt) := fun _ h => of_full h
theorem atrSwap (x : Slot) (rd rs rt : RegNo) : Statement (.atrSwap x rd rs rt) := fun _ h => of_full h
theorem atrCas (x : Slot) (rd rs rt : RegNo) : Statement (.atrCas x rd rs rt) := fun _ h => of_full h
theorem beq (x : Slot) (rs rt : RegNo) (off : BitVec 16) : Statement (.beq x rs rt off) := fun _ h => of_full h
theorem bne (x : Slot) (rs rt : RegNo) (off : BitVec 16) : Statement (.bne x rs rt off) := fun _ h => of_full h
theorem blt (x : Slot) (rs rt : RegNo) (off : BitVec 16) : Statement (.blt x rs rt off) := fun _ h => of_full h
theorem bge (x : Slot) (rs rt : RegNo) (off : BitVec 16) : Statement (.bge x rs rt off) := fun _ h => of_full h
theorem bltu (x : Slot) (rs rt : RegNo) (off : BitVec 16) : Statement (.bltu x rs rt off) := fun _ h => of_full h
theorem bgeu (x : Slot) (rs rt : RegNo) (off : BitVec 16) : Statement (.bgeu x rs rt off) := fun _ h => of_full h
theorem jal (x : Slot) (off : BitVec 26) : Statement (.jal x off) := fun _ h => of_full h
theorem jalr (x : Slot) (rd rs : RegNo) (imm : BitVec 16) : Statement (.jalr x rd rs imm) := fun _ h => of_full h
theorem fence (x : Slot) : Statement (.fence x) := fun _ h => of_some h fun i hi hm => by
  rw [fmtR_bit _ _ _ _ _ hi]
  interval_cases i <;> simp_all
theorem mfs (x : Slot) (rd : RegNo) (k : Byte) : Statement (.mfs x rd k) := fun _ h => of_some h fun i hi hm => by
  rw [fmtI_bit _ _ _ _ hi]
  interval_cases i <;> simp_all
theorem fork (x : Slot) (rd rs : RegNo) (imm : BitVec 16) : Statement (.fork x rd rs imm) := fun _ h => of_full h
theorem forkd (x : Slot) (rd rs : RegNo) (imm : BitVec 16) : Statement (.forkd x rd rs imm) := fun _ h => of_full h
theorem join (x : Slot) (rd rs : RegNo) : Statement (.join x rd rs) := fun _ h => of_some h fun i hi hm => by
  rw [fmtR_bit _ _ _ _ _ hi]
  interval_cases i <;> simp_all
theorem endThread (x : Slot) (rs : RegNo) : Statement (.endThread x rs) := fun _ h => of_some h fun i hi hm => by
  rw [fmtR_bit _ _ _ _ _ hi]
  interval_cases i <;> simp_all
theorem signal (x : Slot) (rs : RegNo) : Statement (.signal x rs) := fun _ h => of_some h fun i hi hm => by
  rw [fmtR_bit _ _ _ _ _ hi]
  interval_cases i <;> simp_all
theorem wait (x : Slot) (rd : RegNo) (mask : BitVec 11) : Statement (.wait x rd mask) := fun _ h => of_some h fun i hi hm => by
  rw [fmtR_bit _ _ _ _ _ hi]
  interval_cases i <;> simp_all
theorem tmrAbs (x : Slot) (rs : RegNo) : Statement (.tmrAbs x rs) := fun _ h => of_some h fun i hi hm => by
  rw [fmtR_bit _ _ _ _ _ hi]
  interval_cases i <;> simp_all
theorem tmrRel (x : Slot) (rs : RegNo) : Statement (.tmrRel x rs) := fun _ h => of_some h fun i hi hm => by
  rw [fmtR_bit _ _ _ _ _ hi]
  interval_cases i <;> simp_all
theorem thrctlFree (x : Slot) (rd rs : RegNo) : Statement (.thrctlFree x rd rs) := fun _ h => of_some h fun i hi hm => by
  rw [fmtR_bit _ _ _ _ _ hi]
  interval_cases i <;> simp_all
theorem thrctlRestart (x : Slot) (rd rs rt : RegNo) : Statement (.thrctlRestart x rd rs rt) := fun _ h => of_full h
theorem take (x : Slot) (rd : RegNo) : Statement (.take x rd) := fun _ h => of_some h fun i hi hm => by
  rw [fmtR_bit _ _ _ _ _ hi]
  interval_cases i <;> simp_all
theorem rsv (x : Slot) (rs : RegNo) : Statement (.rsv x rs) := fun _ h => of_some h fun i hi hm => by
  rw [fmtR_bit _ _ _ _ _ hi]
  interval_cases i <;> simp_all
theorem put (x : Slot) (rs : RegNo) : Statement (.put x rs) := fun _ h => of_some h fun i hi hm => by
  rw [fmtR_bit _ _ _ _ _ hi]
  interval_cases i <;> simp_all
theorem rsend (x : Slot) : Statement (.rsend x) := fun _ h => of_some h fun i hi hm => by
  rw [fmtR_bit _ _ _ _ _ hi]
  interval_cases i <;> simp_all
theorem rrd (x : Slot) (rd rs : RegNo) : Statement (.rrd x rd rs) := fun _ h => of_some h fun i hi hm => by
  rw [fmtR_bit _ _ _ _ _ hi]
  interval_cases i <;> simp_all
theorem mbxr (x : Slot) (rd : RegNo) : Statement (.mbxr x rd) := fun _ h => of_some h fun i hi hm => by
  rw [fmtR_bit _ _ _ _ _ hi]
  interval_cases i <;> simp_all
theorem mbxw (x : Slot) (rd rs rt : RegNo) : Statement (.mbxw x rd rs rt) := fun _ h => of_some h fun i hi hm => by
  rw [fmtR_bit _ _ _ _ _ hi]
  interval_cases i <;> simp_all
theorem dma (x : Slot) (rd rs rt : RegNo) : Statement (.dma x rd rs rt) := fun _ h => of_some h fun i hi hm => by
  rw [fmtR_bit _ _ _ _ _ hi]
  interval_cases i <;> simp_all
theorem tbl (x : Slot) (rd rs rt : RegNo) : Statement (.tbl x rd rs rt) := fun _ h => of_some h fun i hi hm => by
  rw [fmtR_bit _ _ _ _ _ hi]
  interval_cases i <;> simp_all
theorem cpl (x : Slot) (rs rt : RegNo) : Statement (.cpl x rs rt) := fun _ h => of_some h fun i hi hm => by
  rw [fmtR_bit _ _ _ _ _ hi]
  interval_cases i <;> simp_all
theorem xmitTxq (x : Slot) (rd rs rt : RegNo) : Statement (.xmitTxq x rd rs rt) := fun _ h => of_some h fun i hi hm => by
  rw [fmtR_bit _ _ _ _ _ hi]
  interval_cases i <;> simp_all
theorem xmitRxq (x : Slot) (rd rs rt : RegNo) : Statement (.xmitRxq x rd rs rt) := fun _ h => of_some h fun i hi hm => by
  rw [fmtR_bit _ _ _ _ _ hi]
  interval_cases i <;> simp_all
theorem xmitWire (x : Slot) (rd rs rt : RegNo) : Statement (.xmitWire x rd rs rt) := fun _ h => of_some h fun i hi hm => by
  rw [fmtR_bit _ _ _ _ _ hi]
  interval_cases i <;> simp_all
theorem xmitPipe (x : Slot) (rd rs rt : RegNo) : Statement (.xmitPipe x rd rs rt) := fun _ h => of_some h fun i hi hm => by
  rw [fmtR_bit _ _ _ _ _ hi]
  interval_cases i <;> simp_all
theorem alloc (x : Slot) (rd rs rt : RegNo) : Statement (.alloc x rd rs rt) := fun _ h => of_some h fun i hi hm => by
  rw [fmtR_bit _ _ _ _ _ hi]
  interval_cases i <;> simp_all
theorem bufFree (x : Slot) (rd rs : RegNo) : Statement (.bufFree x rd rs) := fun _ h => of_some h fun i hi hm => by
  rw [fmtR_bit _ _ _ _ _ hi]
  interval_cases i <;> simp_all
theorem bufDrop (x : Slot) (rd rs : RegNo) : Statement (.bufDrop x rd rs) := fun _ h => of_some h fun i hi hm => by
  rw [fmtR_bit _ _ _ _ _ hi]
  interval_cases i <;> simp_all
theorem bufGive (x : Slot) (rd rs rt : RegNo) : Statement (.bufGive x rd rs rt) := fun _ h => of_full h
theorem bufShare (x : Slot) (rd rs : RegNo) : Statement (.bufShare x rd rs) := fun _ h => of_some h fun i hi hm => by
  rw [fmtR_bit _ _ _ _ _ hi]
  interval_cases i <;> simp_all
theorem aesEnc (x : Slot) (rd rs rt : RegNo) : Statement (.aesEnc x rd rs rt) := fun _ h => of_some h fun i hi hm => by
  rw [fmtR_bit _ _ _ _ _ hi]
  interval_cases i <;> simp_all
theorem aesDec (x : Slot) (rd rs rt : RegNo) : Statement (.aesDec x rd rs rt) := fun _ h => of_some h fun i hi hm => by
  rw [fmtR_bit _ _ _ _ _ hi]
  interval_cases i <;> simp_all
theorem keyldInstall (x : Slot) (rd rs rt : RegNo) : Statement (.keyldInstall x rd rs rt) := fun _ h => of_some h fun i hi hm => by
  rw [fmtR_bit _ _ _ _ _ hi]
  interval_cases i <;> simp_all
theorem keyldDelete (x : Slot) (rd rs rt : RegNo) : Statement (.keyldDelete x rd rs rt) := fun _ h => of_some h fun i hi hm => by
  rw [fmtR_bit _ _ _ _ _ hi]
  interval_cases i <;> simp_all
theorem crc (x : Slot) (rd rs rt : RegNo) (fn : BitVec 2) : Statement (.crc x rd rs rt fn) := fun _ h => of_full h
theorem time (x : Slot) (rd : RegNo) : Statement (.time x rd) := fun _ h => of_some h fun i hi hm => by
  rw [fmtR_bit _ _ _ _ _ hi]
  interval_cases i <;> simp_all
theorem rreg (x : Slot) (rd rs : RegNo) : Statement (.rreg x rd rs) := fun _ h => of_some h fun i hi hm => by
  rw [fmtR_bit _ _ _ _ _ hi]
  interval_cases i <;> simp_all
theorem wreg (x : Slot) (rs rt : RegNo) : Statement (.wreg x rs rt) := fun _ h => of_some h fun i hi hm => by
  rw [fmtR_bit _ _ _ _ _ hi]
  interval_cases i <;> simp_all
theorem brk (x : Slot) : Statement (.brk x) := fun _ h => of_some h fun i hi hm => by
  rw [fmtR_bit _ _ _ _ _ hi]
  interval_cases i <;> simp_all
theorem registerWrite (t : RegTarget) (w : Word) : Statement (.registerWrite t w) := fun _ h => by simp [encodeEng] at h
theorem msixUnmask (f : Fn) (v : Fin 2048) : Statement (.msixUnmask f v) := fun _ h => by simp [encodeEng] at h
theorem rldAccess (line : BitVec 31) (ecc : Ecc) : Statement (.rldAccess line ecc) := fun _ h => by simp [encodeEng] at h
theorem stageFlash (index : Fin 4) (q : Seq) : Statement (.stageFlash index q) := fun _ h => by simp [encodeEng] at h
theorem stageHost (q : Seq) : Statement (.stageHost q) := fun _ h => by simp [encodeEng] at h
theorem stagingComplete (r : ImgRead) : Statement (.stagingComplete r) := fun _ h => by simp [encodeEng] at h
theorem commit (q : Seq) : Statement (.commit q) := fun _ h => by simp [encodeEng] at h
theorem rollback (q : Seq) : Statement (.rollback q) := fun _ h => by simp [encodeEng] at h
theorem discard (q : Seq) : Statement (.discard q) := fun _ h => by simp [encodeEng] at h
theorem swapComplete (drain swap : BitVec 32) : Statement (.swapComplete drain swap) := fun _ h => by simp [encodeEng] at h
theorem perstAssert (h : Link) : Statement (.perstAssert h) := fun _ h => by simp [encodeEng] at h
theorem perstRelease (h : Link) : Statement (.perstRelease h) := fun _ h => by simp [encodeEng] at h
theorem phyCalibrated (h : Link) : Statement (.phyCalibrated h) := fun _ h => by simp [encodeEng] at h
theorem linkUp (h : Link) (speed : Fin 8) (width : Fin 17) (flit : Bool) : Statement (.linkUp h speed width flit) := fun _ h => by simp [encodeEng] at h
theorem configReady (h : Link) : Statement (.configReady h) := fun _ h => by simp [encodeEng] at h
theorem hotReset (h : Link) : Statement (.hotReset h) := fun _ h => by simp [encodeEng] at h
theorem linkLost (h : Link) : Statement (.linkLost h) := fun _ h => by simp [encodeEng] at h
theorem pfFlr (h : Link) : Statement (.pfFlr h) := fun _ h => by simp [encodeEng] at h
theorem vfFlr (h : Link) (n : SpanId) : Statement (.vfFlr h n) := fun _ h => by simp [encodeEng] at h
theorem vfEnableClear (h : Link) : Statement (.vfEnableClear h) := fun _ h => by simp [encodeEng] at h
theorem configRequest (h : Link) (bus : Byte) (k : Fin 8192) (op : CfgOp) : Statement (.configRequest h bus k op) := fun _ h => by simp [encodeEng] at h
theorem completionReceived (h : Link) (t : Fin 16384) (poisoned : Bool) (data : List Byte) : Statement (.completionReceived h t poisoned data) := fun _ h => by simp [encodeEng] at h
theorem cplTimeout (h : Link) (t : Fin 16384) : Statement (.cplTimeout h t) := fun _ h => by simp [encodeEng] at h
theorem tagQuarantineExpire (h : Link) (t : Fin 16384) : Statement (.tagQuarantineExpire h t) := fun _ h => by simp [encodeEng] at h
theorem malformedTlp (f : Fn) : Statement (.malformedTlp f) := fun _ h => by simp [encodeEng] at h
theorem ideFail (h : Link) (i : Fin 5) : Statement (.ideFail h i) := fun _ h => by simp [encodeEng] at h
theorem vsDataLoRead (e : Ecc) : Statement (.vsDataLoRead e) := fun _ h => by simp [encodeEng] at h
theorem vsDataHiWrite (v : BitVec 32) : Statement (.vsDataHiWrite v) := fun _ h => by simp [encodeEng] at h
theorem atsInvalidation (n : SpanId) (scope : BitVec 2) (page : BitVec 52) : Statement (.atsInvalidation n scope page) := fun _ h => by simp [encodeEng] at h
theorem doeRequest (m : DoeMbx) (r : DoeObj) : Statement (.doeRequest m r) := fun _ h => by simp [encodeEng] at h
theorem doeAbort (m : DoeMbx) : Statement (.doeAbort m) := fun _ h => by simp [encodeEng] at h
theorem ideKmKeyProg (h : Link) (k : IdeProg) : Statement (.ideKmKeyProg h k) := fun _ h => by simp [encodeEng] at h
theorem lockInterfaceRequest (n : SpanId) : Statement (.lockInterfaceRequest n) := fun _ h => by simp [encodeEng] at h
theorem stopInterfaceRequest (n : SpanId) : Statement (.stopInterfaceRequest n) := fun _ h => by simp [encodeEng] at h
theorem spanEnable (q : Seq) : Statement (.spanEnable q) := fun _ h => by simp [encodeEng] at h
theorem spanQuiesce (q : Seq) : Statement (.spanQuiesce q) := fun _ h => by simp [encodeEng] at h
theorem spanComplete (q : Seq) : Statement (.spanComplete q) := fun _ h => by simp [encodeEng] at h
theorem spanReset (q : Seq) : Statement (.spanReset q) := fun _ h => by simp [encodeEng] at h
theorem spanRemove (q : Seq) : Statement (.spanRemove q) := fun _ h => by simp [encodeEng] at h
theorem spanInit (q : Seq) : Statement (.spanInit q) := fun _ h => by simp [encodeEng] at h
theorem spanExport (q : Seq) : Statement (.spanExport q) := fun _ h => by simp [encodeEng] at h
theorem spanImport (q : Seq) : Statement (.spanImport q) := fun _ h => by simp [encodeEng] at h
theorem logSwap (q : Seq) : Statement (.logSwap q) := fun _ h => by simp [encodeEng] at h
theorem spanCmdDone (r : TransferEnd) : Statement (.spanCmdDone r) := fun _ h => by simp [encodeEng] at h
theorem quiesceLate (n : SpanId) : Statement (.quiesceLate n) := fun _ h => by simp [encodeEng] at h
theorem breakLock (q : Seq) : Statement (.breakLock q) := fun _ h => by simp [encodeEng] at h
theorem releaseRail (q : Seq) : Statement (.releaseRail q) := fun _ h => by simp [encodeEng] at h
theorem reclaimBay (q : Seq) : Statement (.reclaimBay q) := fun _ h => by simp [encodeEng] at h
theorem sweepBuffers (q : Seq) : Statement (.sweepBuffers q) := fun _ h => by simp [encodeEng] at h
theorem transferOwner (q : Seq) : Statement (.transferOwner q) := fun _ h => by simp [encodeEng] at h
theorem stuInvCmd (n : SpanId) (scope : BitVec 2) (q : Seq) : Statement (.stuInvCmd n scope q) := fun _ h => by simp [encodeEng] at h
theorem walkComplete (n : SpanId) (r : WalkResult) : Statement (.walkComplete n r) := fun _ h => by simp [encodeEng] at h
theorem bar2Tlp (n : SpanId) (off : BitVec 36) (tlp : Bar2Tlp) (e : Ecc) : Statement (.bar2Tlp n off tlp e) := fun _ h => by simp [encodeEng] at h
theorem dbPiWrite (n : SpanId) (i : Byte) (v : BitVec 32) : Statement (.dbPiWrite n i v) := fun _ h => by simp [encodeEng] at h
theorem dbCiWrite (n : SpanId) (i : Byte) (c : BitVec 16) : Statement (.dbCiWrite n i c) := fun _ h => by simp [encodeEng] at h
theorem eventArm (n : SpanId) (i : Byte) (c : BitVec 16) : Statement (.eventArm n i c) := fun _ h => by simp [encodeEng] at h
theorem dbInval (n : SpanId) (i : Byte) : Statement (.dbInval n i) := fun _ h => by simp [encodeEng] at h
theorem dbPendClear (n : SpanId) (i : Byte) (k : Fin 4) (mask : Word) : Statement (.dbPendClear n i k mask) := fun _ h => by simp [encodeEng] at h
theorem entryFetchIssue (q : QueueId) (n : Fin 257) : Statement (.entryFetchIssue q n) := fun _ h => by simp [encodeEng] at h
theorem entryFetchReturn (q : QueueId) (cells : List (BitVec 128)) (poisoned : Bool) : Statement (.entryFetchReturn q cells poisoned) := fun _ h => by simp [encodeEng] at h
theorem entryBegin (q : QueueId) (acct : Option (Fin 8192)) : Statement (.entryBegin q acct) := fun _ h => by simp [encodeEng] at h
theorem entryComplete (q : QueueId) : Statement (.entryComplete q) := fun _ h => by simp [encodeEng] at h
theorem modIntervalExpire (q : QueueId) : Statement (.modIntervalExpire q) := fun _ h => by simp [encodeEng] at h
theorem queueEnable (q : Seq) : Statement (.queueEnable q) := fun _ h => by simp [encodeEng] at h
theorem queueDisable (q : Seq) : Statement (.queueDisable q) := fun _ h => by simp [encodeEng] at h
theorem queueRestart (q : Seq) : Statement (.queueRestart q) := fun _ h => by simp [encodeEng] at h
theorem queueZero (q : Seq) : Statement (.queueZero q) := fun _ h => by simp [encodeEng] at h
theorem rxFrameDeliver (p : Pier) (k : Fin 256) : Statement (.rxFrameDeliver p k) := fun _ h => by simp [encodeEng] at h
theorem mbxOutWrite (e : MbxAccess) (w : Word) : Statement (.mbxOutWrite e w) := fun _ h => by simp [encodeEng] at h
theorem mbxInRead (e : MbxAccess) : Statement (.mbxInRead e) := fun _ h => by simp [encodeEng] at h
theorem mbxToWrite (w : Word) : Statement (.mbxToWrite w) := fun _ h => by simp [encodeEng] at h
theorem frameReceived (m : MacId) (f : WireFrame) (cor unc : Byte) : Statement (.frameReceived m f cor unc) := fun _ h => by simp [encodeEng] at h
theorem macsecRxVerify (p : Pier) (port : Port) (c : Machine.CipFault) : Statement (.macsecRxVerify p port c) := fun _ h => by simp [encodeEng] at h
theorem ingressHeadAccept (p : Pier) (port : Port) (e : Machine.PassEcc) : Statement (.ingressHeadAccept p port e) := fun _ h => by simp [encodeEng] at h
theorem missResultsReturn (p : Pier) (k : Fin 512) (bad : List (Fin 12)) (e : Machine.PassEcc) : Statement (.missResultsReturn p k bad e) := fun _ h => by simp [encodeEng] at h
theorem decryptReturn (p : Pier) (c : Machine.CipFault) : Statement (.decryptReturn p c) := fun _ h => by simp [encodeEng] at h
theorem egressPass (p : Pier) (q : Option QueueId) (e : Machine.PassEcc) (c : Machine.CipFault) : Statement (.egressPass p q e c) := fun _ h => by simp [encodeEng] at h
theorem ruleWrite (p : Pier) (q : Seq) : Statement (.ruleWrite p q) := fun _ h => by simp [encodeEng] at h
theorem ruleRead (p : Pier) (q : Seq) : Statement (.ruleRead p q) := fun _ h => by simp [encodeEng] at h
theorem ruleInvalidate (p : Pier) (q : Seq) : Statement (.ruleInvalidate p q) := fun _ h => by simp [encodeEng] at h
theorem tblCmdqDb (p : Pier) : Statement (.tblCmdqDb p) := fun _ h => by simp [encodeEng] at h
theorem tblRead (p : Pier) (r : TblRead) : Statement (.tblRead p r) := fun _ h => by simp [encodeEng] at h
theorem tblWrite (p : Pier) : Statement (.tblWrite p) := fun _ h => by simp [encodeEng] at h
theorem tblInsert (p : PierRead) : Statement (.tblInsert p) := fun _ h => by simp [encodeEng] at h
theorem tblDelete (p : PierRead) : Statement (.tblDelete p) := fun _ h => by simp [encodeEng] at h
theorem tblLookup (p : Pier) (r : TblRead) : Statement (.tblLookup p r) := fun _ h => by simp [encodeEng] at h
theorem tblLock (p : PierRead) : Statement (.tblLock p) := fun _ h => by simp [encodeEng] at h
theorem tblUnlock (p : PierRead) : Statement (.tblUnlock p) := fun _ h => by simp [encodeEng] at h
theorem routeAdd (p : Pier) : Statement (.routeAdd p) := fun _ h => by simp [encodeEng] at h
theorem routeDel (p : Pier) : Statement (.routeDel p) := fun _ h => by simp [encodeEng] at h
theorem cmdqEnable (p : Pier) : Statement (.cmdqEnable p) := fun _ h => by simp [encodeEng] at h
theorem evqArm (p : Pier) : Statement (.evqArm p) := fun _ h => by simp [encodeEng] at h
theorem tblEvqCiWrite (p : Pier) (c : BitVec 16) : Statement (.tblEvqCiWrite p c) := fun _ h => by simp [encodeEng] at h
theorem invAll (p : Pier) (q : Seq) : Statement (.invAll p q) := fun _ h => by simp [encodeEng] at h
theorem sweepVisit (p : PierRead) (t : Fin 15) (i : BitVec 32) : Statement (.sweepVisit p t i) := fun _ h => by simp [encodeEng] at h
theorem bufferWaitGrant (pool : Fin 256) : Statement (.bufferWaitGrant pool) := fun _ h => by simp [encodeEng] at h
theorem cacheRefill (pier : Pier) (pool : Fin 256) (ecc : Ecc) : Statement (.cacheRefill pier pool ecc) := fun _ h => by simp [encodeEng] at h
theorem readRec (q : Seq) : Statement (.readRec q) := fun _ h => by simp [encodeEng] at h
theorem bpmFree (q : Seq) : Statement (.bpmFree q) := fun _ h => by simp [encodeEng] at h
theorem bpmDrop (q : Seq) : Statement (.bpmDrop q) := fun _ h => by simp [encodeEng] at h
theorem bpmGive (q : Seq) : Statement (.bpmGive q) := fun _ h => by simp [encodeEng] at h
theorem tmsDecision (p : Pier) (e : Option TmsErr) : Statement (.tmsDecision p e) := fun _ h => by simp [encodeEng] at h
theorem macEnable (m : MacId) : Statement (.macEnable m) := fun _ h => by simp [encodeEng] at h
theorem macDisable (m : MacId) : Statement (.macDisable m) := fun _ h => by simp [encodeEng] at h
theorem macLinkUp (m : MacId) : Statement (.macLinkUp m) := fun _ h => by simp [encodeEng] at h
theorem linkDown (m : MacId) : Statement (.linkDown m) := fun _ h => by simp [encodeEng] at h
theorem remoteFault (m : MacId) : Statement (.remoteFault m) := fun _ h => by simp [encodeEng] at h
theorem remoteFaultClear (m : MacId) : Statement (.remoteFaultClear m) := fun _ h => by simp [encodeEng] at h
theorem portRestart (p : Port) (q : Seq) : Statement (.portRestart p q) := fun _ h => by simp [encodeEng] at h
theorem macTxStart (m : MacId) (c : Machine.TxFound) (e : Ecc) : Statement (.macTxStart m c e) := fun _ h => by simp [encodeEng] at h
theorem pauseTimerExpire (m : MacId) (which : Option (Fin 8)) : Statement (.pauseTimerExpire m which) := fun _ h => by simp [encodeEng] at h
theorem xoffRefresh (m : MacId) : Statement (.xoffRefresh m) := fun _ h => by simp [encodeEng] at h
theorem macStatSnap (m : MacId) : Statement (.macStatSnap m) := fun _ h => by simp [encodeEng] at h
theorem standbyFrameRx (wire : List Byte) : Statement (.standbyFrameRx wire) := fun _ h => by simp [encodeEng] at h
theorem stepTime (servo : Bool) (q : Seq) : Statement (.stepTime servo q) := fun _ h => by simp [encodeEng] at h
theorem setTime (servo : Bool) (q : Seq) : Statement (.setTime servo q) := fun _ h => by simp [encodeEng] at h
theorem slew (servo : Bool) (q : Seq) : Statement (.slew servo q) := fun _ h => by simp [encodeEng] at h
theorem slewAbort (servo : Bool) (q : Seq) : Statement (.slewAbort servo q) := fun _ h => by simp [encodeEng] at h
theorem timServoUpd (servo : Bool) (offset : BitVec 32) (req : BitVec 2) : Statement (.timServoUpd servo offset req) := fun _ h => by simp [encodeEng] at h
theorem tpNowRead (f : Fn) (a : TpAccess) : Statement (.tpNowRead f a) := fun _ h => by simp [encodeEng] at h
theorem captureEdge (n : CapEdge) (rising : Bool) : Statement (.captureEdge n rising) := fun _ h => by simp [encodeEng] at h
theorem capPop (n : Fin 5) : Statement (.capPop n) := fun _ h => by simp [encodeEng] at h
theorem gnssLine (b : Byte) (stop : Bool) : Statement (.gnssLine b stop) := fun _ h => by simp [encodeEng] at h
theorem gnssTxWrite (b : Byte) : Statement (.gnssTxWrite b) := fun _ h => by simp [encodeEng] at h
theorem ppsOutEdge (rise : Bool) : Statement (.ppsOutEdge rise) := fun _ h => by simp [encodeEng] at h
theorem toutEdge (k : Fin 4) (rise : Bool) : Statement (.toutEdge k rise) := fun _ h => by simp [encodeEng] at h
theorem toutCtlWrite (k : Fin 4) (v : BitVec 4) : Statement (.toutCtlWrite k v) := fun _ h => by simp [encodeEng] at h
theorem launchEligible (m : MacId) (p : Pier) (c : Fin 8) : Statement (.launchEligible m p c) := fun _ h => by simp [encodeEng] at h
theorem ptmDialog (h : Link) : Statement (.ptmDialog h) := fun _ h => by simp [encodeEng] at h
theorem ptmDialogDone (h : Link) (r : Option PtmRes) : Statement (.ptmDialogDone h r) := fun _ h => by simp [encodeEng] at h
theorem timePageUpdate (h : Link) : Statement (.timePageUpdate h) := fun _ h => by simp [encodeEng] at h
theorem saInstall (q : Seq) : Statement (.saInstall q) := fun _ h => by simp [encodeEng] at h
theorem saDelete (q : Seq) : Statement (.saDelete q) := fun _ h => by simp [encodeEng] at h
theorem saRead (q : Seq) : Statement (.saRead q) := fun _ h => by simp [encodeEng] at h
theorem setSoft (q : Seq) : Statement (.setSoft q) := fun _ h => by simp [encodeEng] at h
theorem zeroizeAll (q : Seq) : Statement (.zeroizeAll q) := fun _ h => by simp [encodeEng] at h
theorem aesResult (n : ThreadId) (k : Fin 64) (c : Machine.CipFault) : Statement (.aesResult n k c) := fun _ h => by simp [encodeEng] at h
theorem threadWake (n : ThreadId) : Statement (.threadWake n) := fun _ h => by simp [encodeEng] at h
theorem timer (n : ThreadId) : Statement (.timer n) := fun _ h => by simp [encodeEng] at h
theorem allocGrant (n : ThreadId) : Statement (.allocGrant n) := fun _ h => by simp [encodeEng] at h
theorem railGrant (p : Pier) (k : Byte) : Statement (.railGrant p k) := fun _ h => by simp [encodeEng] at h
theorem rldLoadReturn (n : ThreadId) (k : Fin 64) (e : Ecc) : Statement (.rldLoadReturn n k e) := fun _ h => by simp [encodeEng] at h
theorem tblResultReturn (n : ThreadId) (k : Fin 64) (r : TblRead) : Statement (.tblResultReturn n k r) := fun _ h => by simp [encodeEng] at h
theorem bufResultReturn (n : ThreadId) (k : Fin 64) : Statement (.bufResultReturn n k) := fun _ h => by simp [encodeEng] at h
theorem keyldResult (n : ThreadId) (k : Fin 64) : Statement (.keyldResult n k) := fun _ h => by simp [encodeEng] at h
theorem dmaPlaceResult (n : ThreadId) (k : Fin 64) : Statement (.dmaPlaceResult n k) := fun _ h => by simp [encodeEng] at h
theorem trussStall (t : Truss) : Statement (.trussStall t) := fun _ h => by simp [encodeEng] at h
theorem abortThread (t : Truss) (l : Fin 64) (q : Seq) : Statement (.abortThread t l q) := fun _ h => by simp [encodeEng] at h
theorem abortThreadDone (t : Truss) : Statement (.abortThreadDone t) := fun _ h => by simp [encodeEng] at h
theorem restartTruss (t : Truss) (q : Seq) : Statement (.restartTruss t q) := fun _ h => by simp [encodeEng] at h
theorem bayHandover (p : Pier) (new expect : BitVec 16) (q : Seq) : Statement (.bayHandover p new expect q) := fun _ h => by simp [encodeEng] at h
theorem handoverDone (p : Pier) (b : Fin 8) : Statement (.handoverDone p b) := fun _ h => by simp [encodeEng] at h
theorem bayPwrRequest (p : Pier) (mode : BitVec 2) (q : Seq) : Statement (.bayPwrRequest p mode q) := fun _ h => by simp [encodeEng] at h
theorem bayPwrDone (p : Pier) (b : Fin 8) : Statement (.bayPwrDone p b) := fun _ h => by simp [encodeEng] at h
theorem spmMgmtRead (p : Pier) (e : Ecc) : Statement (.spmMgmtRead p e) := fun _ h => by simp [encodeEng] at h
theorem spmMgmtWrite (p : Pier) (w : Word) : Statement (.spmMgmtWrite p w) := fun _ h => by simp [encodeEng] at h
theorem dmaChEnable (p : Pier) : Statement (.dmaChEnable p) := fun _ h => by simp [encodeEng] at h
theorem dmaChDisable (p : Pier) : Statement (.dmaChDisable p) := fun _ h => by simp [encodeEng] at h
theorem dmaChDb (p : Pier) : Statement (.dmaChDb p) := fun _ h => by simp [encodeEng] at h
theorem dmaBurstIssue (p : Pier) (e : Ecc) : Statement (.dmaBurstIssue p e) := fun _ h => by simp [encodeEng] at h
theorem dmaDescRelease (p : Pier) (ch : Fin 64) : Statement (.dmaDescRelease p ch) := fun _ h => by simp [encodeEng] at h
theorem faultEvent (es : List FaultEv) : Statement (.faultEvent es) := fun _ h => by simp [encodeEng] at h
theorem enter (q : Seq) : Statement (.enter q) := fun _ h => by simp [encodeEng] at h
theorem leave (q : Seq) : Statement (.leave q) := fun _ h => by simp [encodeEng] at h
theorem scrub (q : Seq) (bad : Option (BitVec 16)) : Statement (.scrub q bad) := fun _ h => by simp [encodeEng] at h
theorem selfFault (r : BitVec 16) : Statement (.selfFault r) := fun _ h => by simp [encodeEng] at h
theorem provision (q : Seq) : Statement (.provision q) := fun _ h => by simp [encodeEng] at h
theorem fuseKey (q : Seq) : Statement (.fuseKey q) := fun _ h => by simp [encodeEng] at h
theorem revokeKey (q : Seq) : Statement (.revokeKey q) := fun _ h => by simp [encodeEng] at h
theorem deploy (q : Seq) : Statement (.deploy q) := fun _ h => by simp [encodeEng] at h
theorem raiseSvn (q : Seq) : Statement (.raiseSvn q) := fun _ h => by simp [encodeEng] at h
theorem raiseThSvn (q : Seq) : Statement (.raiseThSvn q) := fun _ h => by simp [encodeEng] at h
theorem toAnalysis (q : Seq) : Statement (.toAnalysis q) := fun _ h => by simp [encodeEng] at h
theorem secCmdDone (bad : Option (BitVec 16)) : Statement (.secCmdDone bad) := fun _ h => by simp [encodeEng] at h
theorem bootImageActive (x : List (Fin 4 × ImgFile)) : Statement (.bootImageActive x) := fun _ h => by simp [encodeEng] at h
theorem dbgTokenWrite (w : Word) : Statement (.dbgTokenWrite w) := fun _ h => by simp [encodeEng] at h
theorem openSession (level : BitVec 2) (q : Seq) : Statement (.openSession level q) := fun _ h => by simp [encodeEng] at h
theorem closeSession (q : Seq) : Statement (.closeSession q) := fun _ h => by simp [encodeEng] at h
theorem halt (q : Seq) : Statement (.halt q) := fun _ h => by simp [encodeEng] at h
theorem resumeThread (q : Seq) : Statement (.resumeThread q) := fun _ h => by simp [encodeEng] at h
theorem stepThread (q : Seq) (regs store word : Ecc) : Statement (.stepThread q regs store word) := fun _ h => by simp [encodeEng] at h
theorem abort (q : Seq) : Statement (.abort q) := fun _ h => by simp [encodeEng] at h
theorem dbgRegWrite (w : Word) : Statement (.dbgRegWrite w) := fun _ h => by simp [encodeEng] at h
theorem dbgSpmRead (e : Ecc) : Statement (.dbgSpmRead e) := fun _ h => by simp [encodeEng] at h
theorem jtagScan (ir : JtagIr) (tdi : List Bool) : Statement (.jtagScan ir tdi) := fun _ h => by simp [encodeEng] at h
theorem gate (domain : Byte) (q : Seq) : Statement (.gate domain q) := fun _ h => by simp [encodeEng] at h
theorem ungate (domain : Byte) (q : Seq) : Statement (.ungate domain q) := fun _ h => by simp [encodeEng] at h
theorem gatingDone (domain : Byte) : Statement (.gatingDone domain) := fun _ h => by simp [encodeEng] at h
theorem domainWake (domain : Byte) : Statement (.domainWake domain) := fun _ h => by simp [encodeEng] at h
theorem powerupDone (domain : Byte) : Statement (.powerupDone domain) := fun _ h => by simp [encodeEng] at h
theorem standby (q : Seq) : Statement (.standby q) := fun _ h => by simp [encodeEng] at h
theorem standbyWake (mctp : Bool) (n : BitVec 64) : Statement (.standbyWake mctp n) := fun _ h => by simp [encodeEng] at h
theorem pldmUpdate (component : Fin 7) (begin_ : Bool) : Statement (.pldmUpdate component begin_) := fun _ h => by simp [encodeEng] at h
theorem porstNRelease (straps : Straps) : Statement (.porstNRelease straps) := fun _ h => by simp [encodeEng] at h
theorem pllLock (late : Bool) (b : LockFind) : Statement (.pllLock late b) := fun _ h => by simp [encodeEng] at h
theorem supplySample (mv : List (BitVec 16)) : Statement (.supplySample mv) := fun _ h => by simp [encodeEng] at h
theorem tempSample (ts : List (BitVec 12)) : Statement (.tempSample ts) := fun _ h => by simp [encodeEng] at h
theorem agingMeasure (n : Fin 22) (v : Byte) : Statement (.agingMeasure n v) := fun _ h => by simp [encodeEng] at h
theorem standbyLinkChange (up : Bool) : Statement (.standbyLinkChange up) := fun _ h => by simp [encodeEng] at h
theorem linkRecovery (h : Link) (err : Option (Fin 16)) : Statement (.linkRecovery h err) := fun _ h => by simp [encodeEng] at h
theorem synceClkFallingEdge (j : Fin 2) : Statement (.synceClkFallingEdge j) := fun _ h => by simp [encodeEng] at h
theorem restartTrussDone (t : Truss) : Statement (.restartTrussDone t) := fun _ h => by simp [encodeEng] at h
theorem refclkLoss : Statement .refclkLoss := fun _ h => by simp [encodeEng] at h
theorem refclkReturn : Statement .refclkReturn := fun _ h => by simp [encodeEng] at h
theorem ethRefclkLoss : Statement .ethRefclkLoss := fun _ h => by simp [encodeEng] at h
theorem ethRefclkReturn : Statement .ethRefclkReturn := fun _ h => by simp [encodeEng] at h
theorem refillTick : Statement .refillTick := fun _ h => by simp [encodeEng] at h
theorem checkComplete : Statement .checkComplete := fun _ h => by simp [encodeEng] at h
theorem drainComplete : Statement .drainComplete := fun _ h => by simp [encodeEng] at h
theorem drainTimeout : Statement .drainTimeout := fun _ h => by simp [encodeEng] at h
theorem swapFault (section_ : BitVec 4) : Statement (.swapFault section_) := fun _ h => by simp [encodeEng] at h
theorem mfFlr : Statement .mfFlr := fun _ h => by simp [encodeEng] at h
theorem sweepBuffersDone : Statement .sweepBuffersDone := fun _ h => by simp [encodeEng] at h
theorem winCommit : Statement .winCommit := fun _ h => by simp [encodeEng] at h
theorem invalidationDone : Statement .invalidationDone := fun _ h => by simp [encodeEng] at h
theorem mbxFromRead : Statement .mbxFromRead := fun _ h => by simp [encodeEng] at h
theorem watchdog : Statement .watchdog := fun _ h => by simp [encodeEng] at h
theorem leapDone : Statement .leapDone := fun _ h => by simp [encodeEng] at h
theorem counterFault : Statement .counterFault := fun _ h => by simp [encodeEng] at h
theorem timNowRead : Statement .timNowRead := fun _ h => by simp [encodeEng] at h
theorem ref10mMark : Statement .ref10mMark := fun _ h => by simp [encodeEng] at h
theorem ref10mLoss : Statement .ref10mLoss := fun _ h => by simp [encodeEng] at h
theorem gnssRxRead : Statement .gnssRxRead := fun _ h => by simp [encodeEng] at h
theorem faultPulseEnd : Statement .faultPulseEnd := fun _ h => by simp [encodeEng] at h
theorem dbgNonceRead : Statement .dbgNonceRead := fun _ h => by simp [encodeEng] at h
theorem nonceExpire : Statement .nonceExpire := fun _ h => by simp [encodeEng] at h
theorem sessionExpire : Statement .sessionExpire := fun _ h => by simp [encodeEng] at h
theorem dbgRegRead : Statement .dbgRegRead := fun _ h => by simp [encodeEng] at h
theorem porstNAssert : Statement .porstNAssert := fun _ h => by simp [encodeEng] at h
theorem tjEqUpdate : Statement .tjEqUpdate := fun _ h => by simp [encodeEng] at h
theorem timeClkTick : Statement .timeClkTick := fun _ h => by simp [encodeEng] at h
theorem ref10mReturn : Statement .ref10mReturn := fun _ h => by simp [encodeEng] at h
theorem gnssTxByteSent : Statement .gnssTxByteSent := fun _ h => by simp [encodeEng] at h
theorem supplyRemoved : Statement .supplyRemoved := fun _ h => by simp [encodeEng] at h

end Sys2Proof.Laws.FieldsInUse
end

