-- ==== Sys2Proof/Tests/Slice0.lean ====
section
/-!
SUPPORT. Tests: concrete states that meet the hypotheses of the statements (witness_…, each named after its statement), terms that are not
well-formed, words of engine instructions written out from their formats, and single steps worked by hand.
-/

set_option Elab.async false

namespace Sys2Proof.Tests
open Sys2Proof Sys2Proof.Machine

/-! ### Small states -/

/-- Threads 0 and 1 of Truss 0 run in 64 bytes of code. -/
def live : State :=
  { State.reset with
    threads := [(0, { state := .running }), (1, { state := .running, regs := [(1, 8), (2, 3), (3, 64)] })]
    codeLen := [(0, 64)] }

/-- As `live`, with thread 1's record changed. -/
def liveWith (f : Thread → Thread) : State :=
  { live with threads := [(0, { state := .running }), (1, f { state := .running, regs := [(1, 8), (2, 3), (3, 64)] })] }

def slot0 : Slot := { thr := 0 }
def slot1 : Slot := { thr := 1 }

/-- `State.Issues` as a Boolean. -/
def issuesB (s : State) (x : Slot) (reads : List RegNo) (ret : Bool) : Bool :=
  decide ((s.thr x.thr.val).state = .running) && !(s.thr x.thr.val).aborting && !s.bubble x.thr.val reads ret &&
    decide ((s.thr x.thr.val).pc.toNat < s.codeSize x.thr.val) && decide (x.store = .ok) && decide (x.regs = .ok) && decide (x.unused = 0) &&
    s.domOn (16 + x.thr.val / 64)

theorem issues_of (s : State) (x : Slot) (reads : List RegNo) (ret : Bool) (h : issuesB s x reads ret = true) : s.Issues x reads ret := by
  simp only [issuesB, Bool.and_eq_true, Bool.not_eq_true', decide_eq_true_eq] at h
  obtain ⟨⟨⟨⟨⟨⟨⟨a, b⟩, c⟩, d⟩, e⟩, f⟩, g⟩, k⟩ := h
  exact ⟨a, b, c, d, e, f, g, k⟩

/-! ### Hypotheses that concrete states meet: engine instructions -/

/-- The slots without effect, at their boundaries: a thread that is not RUNNING; a load outstanding into a source; eight operations; the
first PC beyond the code; one unused bit. -/
theorem witness_IssueOfInstructions :
    ((State.reset.thr 1).state ≠ .running ∧ State.reset.heldStep = none) ∧
    (∃ o ∈ ((liveWith fun y => { y with ops := [⟨.load 0 8 false 2, 0, true⟩] }).thr 1).ops, o.live = true ∧
      ∃ r ∈ State.destsOf o.op, r ≠ 0 ∧ (r = 1 ∨ r = (2 : RegNo))) ∧
    8 ≤ (((liveWith fun y => { y with ops := List.replicate 8 ⟨.store 0 8 0, 0, true⟩ }).thr 1).ops.filter fun o => o.live).length ∧
    (let s := liveWith fun y => { y with pc := 64 }
     (s.thr 1).state = .running ∧ s.bubble 1 [1, 2] false = false ∧ s.codeSize 1 ≤ (s.thr 1).pc.toNat) ∧
    (live.bubble 1 [1] false = false ∧ (live.thr 1).pc.toNat < live.codeSize 1 ∧ Instr.wf (.popc { slot1 with unused := 0x800 } 1 1) = true) := by
  refine ⟨by decide, ⟨_, List.mem_singleton.2 rfl, rfl, 2, by decide, by decide, .inr rfl⟩, by decide, by decide, by decide⟩

/-- An instruction with one, two, three and no sources issues; so does one that returns, with seven operations outstanding. -/
theorem witness_Issues :
    live.Issues slot1 [1] false ∧ live.Issues slot1 [1, 2] false ∧ live.Issues slot1 [1, 2, 3] false ∧ live.Issues slot1 [] false ∧
    (liveWith fun y => { y with ops := List.replicate 7 ⟨.store 0 8 0, 0, true⟩ }).Issues slot1 [1, 2] true ∧ live.Issues slot0 [1] false :=
  ⟨issues_of _ _ _ _ (by decide), issues_of _ _ _ _ (by decide), issues_of _ _ _ _ (by decide), issues_of _ _ _ _ (by decide),
    issues_of _ _ _ _ (by decide), issues_of _ _ _ _ (by decide)⟩

/-- The special registers are ten: 9 is the last, 10 the first that raises ILLEGAL; FN 18 is the first unassigned one. -/
theorem witness_ArithmeticResults_ImmediateAndSpecialResults :
    (9 : Byte).toNat < 10 ∧ 10 ≤ (10 : Byte).toNat ∧
    (18 : BitVec 32).extractLsb' 26 6 = 0 ∧ 18 ≤ ((18 : BitVec 32).extractLsb' 0 11).toNat := by decide

/-- Branch targets at the last word of the code, beyond it and before it; jump targets likewise, and one that is not aligned. -/
theorem witness_BranchesAndJumps :
    live.Issues slot1 [1, 2] false ∧ live.codeSize 1 = 64 ∧ (live.thr 1).pc.toNat + 4 * (15 : BitVec 16).toInt = 60 ∧
    (live.thr 1).pc.toNat + 4 * (16 : BitVec 16).toInt = 64 ∧ (live.thr 1).pc.toNat + 4 * (-1 : BitVec 16).toInt = -4 ∧
    (live.g 1 1 ≠ live.g 1 2 ∧ ¬(live.g 1 1).toInt < (live.g 1 2).toInt ∧ (live.g 1 2).toNat < (live.g 1 1).toNat) ∧
    (live.thr 1).pc.toNat + 4 * (15 : BitVec 26).toInt = 60 ∧ (live.thr 1).pc.toNat + 4 * (-1 : BitVec 26).toInt = -4 ∧
    (live.g 1 1 + (52 : BitVec 16).signExtend 64).toNat = 60 ∧ (live.g 1 1 + (1 : BitVec 16).signExtend 64).toNat % 4 ≠ 0 ∧
    (live.g 1 1 + (56 : BitVec 16).signExtend 64).toNat = 64 := ⟨issues_of _ _ _ _ (by decide), by decide⟩

/-- Thread 1 with its Truss's Bay 0 of Pier 0, and a poisoned word 8 in it. -/
def bayed : State := { live with bays := [(0, { owner := State.ownerTruss 0 })], spmPoison := [(1, true)] }

def spmOpenB (s : State) (n : Nat) (a : Word) (size : Nat) : Bool :=
  let b := s.bay (n / 192) (State.bayOf (a.toNat % 0x1000000))
  decide (a.toNat % size = 0) && decide (a.toNat < 0x3000000) && decide (b.pwr = 0) && decide (b.transit = none) &&
    decide (b.handover = none) && decide (b.owner = State.ownerTruss (n / 64))

theorem spmOpen_of (s : State) (n : Nat) (a : Word) (size : Nat) (h : spmOpenB s n a size = true) : s.SpmOpen n a size := by
  simp only [spmOpenB, Bool.and_eq_true, decide_eq_true_eq] at h
  obtain ⟨⟨⟨⟨⟨a, b⟩, c⟩, d⟩, e⟩, f⟩ := h
  exact ⟨a, b, c, d, e, f⟩

/-- The last 8 bytes of a Bay are open through the three views, clean or poisoned; a byte further is not aligned; view 3 and another
owner's Bay are not open. -/
theorem witness_Scratchpad :
    bayed.SpmOpen 1 0x1FFFF8 8 ∧ bayed.SpmOpen 1 0x11FFFFF 1 ∧ bayed.SpmOpen 1 0x21FFFFE 2 ∧ bayed.SpmClean 1 0x1FFFF8 8 ∧
    bayed.SpmOpen 1 8 8 ∧ ¬bayed.SpmClean 1 8 8 ∧ (0x1FFFF9 : Word).toNat % 8 ≠ 0 ∧
    (0x3000000 ≤ (0x3000000 : Word).toNat ∧ (0x3000000 : Word).toNat % 8 = 0) ∧
    (let b := bayed.bay 0 1; b.pwr = 0 ∧ b.transit = none ∧ b.handover = none ∧ b.owner ≠ State.ownerTruss 0) :=
  ⟨spmOpen_of _ _ _ _ (by decide), spmOpen_of _ _ _ _ (by decide), spmOpen_of _ _ _ _ (by decide), by unfold State.SpmClean; decide,
    spmOpen_of _ _ _ _ (by decide), by unfold State.SpmClean; decide, by decide, by decide, by decide⟩

/-- Offsets of the window at the ends of its areas. -/
theorem witness_PacketWindow :
    (0x1F8 : Nat) % 8 = 0 ∧ 0x1F8 < 0x200 ∧ 0x3F8 < 0x400 ∧ 0x300 ≤ 0x3F8 ∧ (0x204 : Nat) % 4 = 0 ∧ 0x204 / 8 = 0x200 / 8 ∧
    ((liveWith fun y => { y with railMsg := List.replicate 8 0 }).thr 1).railMsg.length = 8 ∧ 0x280 ≤ 0x287 ∧ 0x287 < 0x288 ∧
    (0x200 ≤ 0x278 ∧ 0x278 < 0x280) ∧ 0x288 ≤ 0x288 ∧ 0x400 ≤ 0x400 ∧ (0x1F9 : Nat) % 8 ≠ 0 := by decide

/-- RLD with an engine region of 128 MiB: its last word is open, the next one is outside; the hold and record areas lie above. -/
def rldReady : State := { live with dbase := 0, dsize := 0x8000000, holdBase := 0x8000000 }

theorem witness_RldOperations :
    (let s := rldReady
     let recBase := s.fld F.BPM_REGION_REC_BASE 0 * 0x1000000
     let recEnd := recBase + s.fld F.BPM_REGION_REC_SIZE 0 * 0x1000000
     (s.dbase ≤ 0x7FFFFF8 ∧ 0x7FFFFF8 + 8 ≤ s.dbase + s.dsize ∧ 0x7FFFFF8 + 8 ≤ s.holdBase ∧ recEnd ≤ 0x7FFFFF8) ∧
     ¬(0x8000000 + 8 ≤ s.dbase + s.dsize)) ∧
    (let s := liveWith fun y => { y with ops := [⟨.load 0 8 false 1, 0, true⟩, ⟨.store 0 8 0, 0, true⟩, ⟨.atomic 0 64 0 0 1, 0, false⟩] }
     (s.thr 1).ops[0]? = some ⟨.load 0 8 false 1, 0, true⟩ ∧ s.rldBad 0 = false ∧
     (s.thr 1).ops[2]? = some ⟨.atomic 0 64 0 0 1, 0, false⟩ ∧ (∀ q ∈ (s.thr 1).ops.take 2, State.opLine q.op ≠ some (64 / 64)) ∧
     ¬∀ q ∈ (s.thr 1).ops.take 1, State.opLine q.op ≠ some (0 / 64)) := by decide

/-- Thread 1 of Truss 0 with the lowest free thread at 63, and with none free. -/
def crowd (last : ThrState) : State :=
  { live with threads := (List.range 64).map fun k => (k, { state := if k = 63 then last else .running }) }

theorem witness_ForkStartsLowestFree :
    (((crowd .free).thr 63).state = .free ∧ ((crowd .free).thr 63).aborting = false) ∧ (∀ k, 1 ≤ k → k < 63 → ((crowd .free).thr k).state ≠ .free) ∧
    (∀ k, 1 ≤ k → k < 64 → ((crowd .done).thr k).state ≠ .free) ∧ issuesB (crowd .done) slot1 [1] false = true ∧
    (live.thr 1).pc.toNat + 4 * (15 : BitVec 16).toInt < live.codeSize 1 := by
  refine ⟨by decide, ?_, ?_, by decide, by decide⟩
  · intro k h1 h2
    have : ∀ k, k < 63 → 1 ≤ k → ((crowd .free).thr k).state ≠ .free := by decide
    exact this k h2 h1
  · intro k h1 h2
    have : ∀ k, k < 64 → 1 ≤ k → ((crowd .done).thr k).state ≠ .free := by decide
    exact this k h2 h1

/-- Thread 1 with its child 3 (register 2 holds 3) in the given state; register 3 holds 64, no thread of the Truss. -/
def family (st : ThrState) : State :=
  { live with threads := [(0, { state := .running }), (1, { state := .running, regs := [(1, 8), (2, 3), (3, 64)] }),
      (3, { state := st, joinable := true, parent := 1, exitVal := 5 })] }

theorem witness_JoinChild :
    (family .done).Issues slot1 [2] false ∧ ((family .done).g 1 2).toNat = 3 ∧ ((family .done).thr 3).state = .done ∧
    ((family .done).thr 3).joinable = true ∧ ((family .done).thr 3).parent = 1 % 64 ∧
    ((family .waiting).thr 3).state ≠ .done ∧ ((family .waiting).thr 3).state ≠ .free ∧ ¬((family .done).g 1 3).toNat < 64 ∧
    ((family .done).thr 8).joinable = false :=
  ⟨issues_of _ _ _ _ (by decide), by decide⟩

/-- END: thread 1 joinable by its parent 0, detached, and the supervisor; SIGNAL of thread 3 and of 64. -/
theorem witness_EndAndSignal :
    (let s := liveWith fun y => { y with joinable := true, parent := 0 }
     s.rails = [] ∧ s.bpmWait = [] ∧ (∀ k, k < 64 → ¬((s.thr k).joinable = true ∧ (s.thr k).parent = 1 ∧ (s.thr k).state ≠ .free)) ∧
     issuesB s slot1 [1] false = true ∧ (s.thr 1).joinable = true ∧ (s.thr 0).state ≠ .free) ∧
    (live.thr 1).joinable = false ∧ issuesB live slot0 [1] false = true ∧ (live.g 1 2).toNat < 64 ∧ (live.thr 3).aborting = false ∧
    64 ≤ (live.g 1 3).toNat := by decide

/-- WAIT without a masked source, and with TIMER pending; TMR. -/
theorem witness_WaitAndTimer :
    live.pendingSet 1 &&& 0x3FF = 0 ∧ issuesB live slot1 [] false = true ∧
    (let s := liveWith fun y => { y with pend := 0x41, armed := true }
     s.pendingSet 1 &&& 0x41 ≠ 0 ∧ issuesB s slot1 [1] false = true) := by decide

/-- A WAITING thread with a source pending, with none, with a child that has ended; a thread that runs. Threads that THRCTL may and may not
touch. -/
theorem witness_ThreadWakesAndControl :
    (let s := liveWith fun y => { y with state := .waiting, waitMask := 0x40, pend := 0x40 }
     (s.thr 1).state = .waiting ∧ (s.thr 1).implicit = none ∧ s.trussPwr 0 = 0 ∧ (s.thr 1).joining = none ∧
     ((s.pendingSet 1 &&& State.effMask 1 0x40) &&& 0x7F1) ||| s.sharedWake 1 ≠ 0) ∧
    (let s := liveWith fun y => { y with state := .waiting, waitMask := 0x40 }
     ((s.pendingSet 1 &&& State.effMask 1 0x40) &&& 0x7F1) ||| s.sharedWake 1 = 0) ∧
    (let s := { family .done with threads := [(1, { state := .waiting, waitMask := 0x20, joining := some (3, 2) }),
        (3, { state := .done, joinable := true, parent := 1 })] }
     (s.thr 1).joining = some (3, 2) ∧ (s.thr 3).state = .done ∧ (s.thr 3).joinable = true) ∧
    (live.thr 1).state ≠ .waiting ∧
    (let s := { live with threads := [(0, { state := .running, regs := [(1, 3), (2, 60), (3, 62)] }), (3, { state := .faulted })] }
     (s.thr 3).state = .faulted ∧ (s.g 0 1).toNat = 3 ∧ ((s.g 0 2).toNat % 4 = 0 ∧ (s.g 0 2).toNat < s.codeSize 0) ∧ (s.g 0 3).toNat % 4 ≠ 0 ∧
     issuesB s slot0 [1, 2] false = true ∧ (s.thr 60).state ≠ .faulted) := by decide

/-- Rail 8 free, held, full, and read; the message of thread 1 with seven words, with eight and with none; a waiter that can be granted. -/
theorem witness_RailMessages :
    (live.thr 1).rail = none ∧ (live.g 1 1).toNat < 256 ∧ (live.rail 0 8).owner = none ∧ (live.rail 0 8).msgs.length < 16 ∧
    (live.rail 0 8).waiters = [] ∧
    ({ live with rails := [(8, { owner := some 2 })] }.rail 0 8).owner ≠ none ∧
    16 ≤ ({ live with rails := [(8, { msgs := List.replicate 16 [0] })] }.rail 0 8).msgs.length ∧
    256 ≤ ((liveWith fun y => { y with regs := [(1, 256)] }).g 1 1).toNat ∧
    (let s := liveWith fun y => { y with rail := some 255, partMsg := List.replicate 7 0 }
     (s.thr 1).rail ≠ none ∧ ((s.ran slot1).thr 1).partMsg.length < 8 ∧ issuesB s slot1 [1] false = true) ∧
    (let s := liveWith fun y => { y with rail := some 255, partMsg := List.replicate 8 0 }
     8 ≤ ((s.ran slot1).thr 1).partMsg.length) ∧
    (let s := { live with rails := [(8, { reader := some 0, msgs := [[1, 2]] })] }
     (s.rail 0 8).reader = some 0 ∧ (s.rail 0 8).msgs = [[1, 2]]) ∧
    ({ live with rails := [(8, { reader := some 0 })] }.rail 0 8).msgs = [] ∧ (live.rail 0 8).reader ≠ some 0 ∧
    (∀ d, (live.rail 0 8).reader = some d → live.domOn (16 + d) = true) ∧
    (let s := { live with rails := [(255, { waiters := [1], msgs := List.replicate 15 [0] })] }
     (s.rail 0 255).waiters = [1] ∧ (s.rail 0 255).owner = none ∧ (s.rail 0 255).msgs.length < 16) := by
  refine ⟨by decide, by decide, by decide, by decide, by decide, by decide, by decide, by decide, by decide, by decide, by decide, by decide, by decide,
    fun d h => ?_, by decide⟩
  have : (live.rail 0 8).reader = none := by decide
  rw [this] at h
  exact absurd h (by simp)

/-- Mailbox words: Span channel 5 routed to Truss 0 holds one outwards; its inbound side is free, or full. -/
def mailed (full : Bool) : State :=
  ({ live with mbx := [(5, { outFull := true, inFull := full })] }.setFld F.MBX_ROUTE_ENDPOINT 5 1)

theorem witness_MailboxesAndItemsOfThreads :
    (mailed false).mbxWaiting 0 = [5] ∧ live.mbxWaiting 0 = [] ∧ issuesB (mailed true) slot1 [2, 1] false = true ∧
    4096 ≤ ((liveWith fun y => { y with regs := [(1, 4096)] }).g 1 1).toNat ∧ live.mbxTruss 4095 ≠ some 0 ∧
    (mailed false).mbxTruss 5 = some 0 ∧ ((mailed true).mail 5).inFull = true ∧ ((mailed false).mail 5).inFull = false ∧
    ({ live with eqs := [(0, [.packet { head := some 7 }])] }.eq 0 = [.packet { head := some 7 }]) ∧
    ({ live with eqs := [(0, [.entry 4 { cell := 9, cells := [0] } 2 0])] }.eq 0 = [.entry 4 { cell := 9, cells := [0] } 2 0]) ∧
    (live.held.filter fun h => h.truss == 0).length < 1024 ∧ live.eq 0 = [] := by decide

/-- Operands of the returning operations: channel 63 bound to the Truss, images in an open Bay, kinds, odd registers and codes. -/
def bound : State := (bayed.setFld F.DMA_CH_CFG_BIND_TRUSS 63 1)

theorem witness_ReturningOperationsStart :
    bound.chTruss 0 63 = some 0 ∧ bound.SpmOpen 1 32 32 ∧ bound.SpmClean 1 32 32 ∧ bound.SpmOpen 1 64 64 ∧
    bound.chTruss 0 62 ≠ some 0 ∧ 64 ≤ (live.g 1 3).toNat ∧ getBits (0xC000 : Word) 13 3 = 6 ∧ getBits (0x8000 : Word) 13 3 = 4 ∧
    (0x1FFFF : Word).getLsbD 16 = true ∧ (0xFFFF : Word).getLsbD 16 = false ∧ ((30 : RegNo).toNat % 2 = 0 ∧ (31 : RegNo).toNat % 2 = 1) ∧
    getBits (0x1FFFF : Word) 16 2 = 1 ∧ getBits (0x2FFFF : Word) 16 2 = 2 ∧ getBits (0xFFFF : Word) 16 2 = 0 ∧
    bound.Issues slot1 [1, 2] true :=
  ⟨by decide, spmOpen_of _ _ _ _ (by decide), by unfold State.SpmClean; decide, spmOpen_of _ _ _ _ (by decide), by decide, by decide, by decide,
    by decide, by decide, by decide, by decide, by decide, by decide, by decide, issues_of _ _ _ _ (by decide)⟩

/-- ENGINE queue 4 of Span 2 with the one-cell entry at cell 9 begun and held by Truss 0; its Span is Enabled with translation PASS. -/
def ringed : State :=
  { bayed with
    threads := [(0, { state := .running }), (1, { state := .running, regs := [(1, 0x90004), (2, 64)] })]
    held := [⟨0, 1, 4, 9⟩]
    queues := [(4, { used := true, span := 2, kind := 2, state := .active, begun := [{ entry := { cell := 9, cells := [0] }, handed := true }] })]
    spans := [(2, { state := .enabled, queues := 8 })]
    faces := [(0, { base := 0, count := 8 })]
    fns := [(fnKey (.vf 0 2), { bme := true, mse := true })] }.setFld (F.HEP_LINK_STATE_STATE 0) 0 3 |>.setFld F.STU_CTX_XLATE_MODE 2 3

/-- As `ringed`, with the image of CPL at another address. -/
def ringedAt (a : Word) : State :=
  { ringed with threads := [(0, { state := .running }), (1, { state := .running, regs := [(1, 0x90004), (2, a)] })] }

/-- `State.RingOpen` as a Boolean. -/
def ringOpenB (s : State) (q : Nat) (f : Fn) : Bool :=
  let n := (s.queue q).span
  decide (s.spanFn n = some f) && !s.isSafe && !s.muted f (some n) && decide ((s.span n).state = .enabled) &&
    decide (s.fld F.STU_CTX_XLATE_MODE n = 3) && s.linkUp (s.fnLink f) && !s.flag F.STU_LOG_CTL_EN n && !s.ideDrops f

theorem ringOpen_of (s : State) (q : Nat) (f : Fn) (h : ringOpenB s q f = true) : s.RingOpen q f := by
  simp only [ringOpenB, Bool.and_eq_true, Bool.not_eq_true', decide_eq_true_eq] at h
  obtain ⟨⟨⟨⟨⟨⟨⟨a, b⟩, c⟩, d⟩, e⟩, f⟩, g⟩, k⟩ := h
  exact ⟨a, b, c, d, e, f, g, k⟩

theorem witness_CompleteEngineEntry :
    ringed.RingOpen 4 (.vf 0 2) ∧ ringed.SpmOpen 1 64 32 ∧ ringed.SpmClean 1 64 32 ∧ ringed.Issues slot1 [1, 2] false ∧
    (ringed.held = [⟨0, 1, 4, 9⟩] ∧ (4 : QueueId).val = getBits (ringed.g 1 1) 0 16 ∧ (9 : BitVec 16).toNat = getBits (ringed.g 1 1) 16 16 ∧
      ringed.g 1 2 = 64 ∧ ((List.range 32).map fun i => ringed.spmByte 0 (64 + i)).getD 2 0 = 0 ∧
      (ringed.queue 4).begun = [{ entry := { cell := 9, cells := [0] }, handed := true }] ∧ (ringed.queue 4).disabling = none) ∧
    (∀ h ∈ live.held, ¬(h.truss = 0 ∧ h.queue.val = 0 ∧ h.cell.toNat = 0)) ∧
    ((ringedAt 72).g 1 2).toNat % 32 ≠ 0 ∧ ((ringedAt 0x3000000).g 1 2).toNat % 32 = 0 ∧ (ringedAt 72).held = ringed.held ∧
    (ringedAt 0x200000).g 1 2 = 0x200000 ∧ ((ringedAt 0x200000).bay 0 1).owner ≠ State.ownerTruss 0 ∧ ¬ringed.SpmClean 1 0 32 :=
  ⟨ringOpen_of _ _ _ (by decide), spmOpen_of _ _ _ _ (by decide), by unfold State.SpmClean; decide, issues_of _ _ _ _ (by decide), by decide,
    by decide, by decide, by decide, by decide, by decide, by decide, by unfold State.SpmClean; decide⟩

/-- One pool of four buffers and two accounts, of which account 1 may hold all and account 0 none. -/
def pooled : State :=
  live.setFld F.BPM_INFO_POOLS 0 1 |>.setFld F.BPM_INFO_ACCOUNTS 0 2 |>.setFld F.BPM_INFO_BUFFERS 0 4 |>.setFld F.BPM_POOL_RANGE_COUNT 0 4
    |>.setFld F.BPM_POOL_ACCTS_ACCT_COUNT 0 2 |>.setFld F.BPM_ACCT_LIMIT_MAX 1 4

theorem witness_AllocBuffers :
    (1 : Word) &&& ~~~0xFFF00011FFF = 0 ∧ 1 < pooled.accounts ∧ pooled.acctPool 1 = some 0 ∧ pooled.chargeTurn ⟨.thread 1, 0, 1, 4, State.ownerThread 1⟩ = .granted ∧
    pooled.freeIndices 0 4 (pooled.poolBase 0) = [0, 1, 2, 3] ∧ issuesB pooled slot1 [1, 2] false = true ∧
    pooled.acctPool 0 = some 0 ∧ pooled.chargeTurn ⟨.thread 1, 0, 0, 1, State.ownerThread 1⟩ ≠ .granted ∧ pooled.timerPending 1 = false ∧
    ({ pooled with threads := [(1, { state := .running, armed := true })] }).timerPending 1 = true ∧
    (0x2000 : Word) &&& ~~~0xFFF00011FFF ≠ 0 ∧ ¬2 < pooled.accounts := by decide

/-- Buffer 3 heads thread 1's chain; queue 4 is a TX queue of Pier 0, queue 5 an RX queue, and the tree has a WIRE queue 2. -/
def sender : State :=
  { pooled with
    threads := [(1, { state := .running, regs := [(1, 3), (2, 0x5EA000040000)] })]
    recs := [(3, { owner := State.ownerThread 1, refs := 1 })]
    queues := [(4, { used := true, kind := 0, bind := 0 }), (5, { used := true, kind := 1 })] }

theorem witness_XmitChain :
    (sender.g 1 1).toNat = 3 ∧ (sender.poolOf 3).isSome ∧ (sender.bufRec 3).member = false ∧ (sender.bufRec 3).refs = 1 ∧
    sender.recBad 3 = false ∧ (sender.bufRec 3).owner = State.ownerThread 1 ∧
    ¬(getBits (sender.thr 1).win.item 0 2 = 1 ∧ (sender.thr 1).win.ref.toNat % 2 ^ 26 = 3) ∧
    getBits (0x800000000040000 : Word) 48 15 = 2048 ∧ 2048 ≤ sender.chainCap 3 ∧ getBits (0x800000000040000 : Word) 16 16 = 4 ∧
    getBits (0x800000000040000 : Word) 0 2 = 0 ∧ (sender.queue 4).used = true ∧ (sender.queue 5).kind = 1 ∧ (sender.queue 6).used = false ∧
    issuesB sender slot1 [1, 2] false = true := by decide

/-- FENCE with nothing and with one load outstanding; sessions; the addresses of a Truss's own register and of others. -/
theorem witness_FenceBreakAndRegisters :
    live.liveOps 1 = [] ∧ (liveWith fun y => { y with ops := [⟨.store 0 8 0, 0, true⟩] }).liveOps 1 ≠ [] ∧ live.dbgLevel = 0 ∧
    (let s := live.setFld F.DBG_STATUS_LEVEL 0 1 |>.setFld F.DBG_STATUS_TRUSS_MASK 0 1 |>.setFld F.SEC_LC_STATE 0 2
     s.dbgLevel ≠ 0 ∧ s.dbgThread 1 = true ∧ s.dbgThread 64 = false) ∧
    live.fld F.CFG_STATUS_STATE 0 ≠ 4 ∧ (getBits (0x78 : Word) 24 8 = 0 ∧ getBits (0x78 : Word) 0 24 % 8 = 0 ∧ locate 0x1800078 = some (.TRS_EVT_EN, 0)) ∧
    2 ≤ getBits (0x2000000 : Word) 24 8 ∧ getBits (0xFF : Word) 0 24 % 8 ≠ 0 := by decide

theorem witness_ExceptionRecord :
    live.coreOff = false ∧ live.fld F.FCU_CAP_VALID 1 = 0 ∧ (64 : ThreadId).val % 64 = 0 ∧ (767 : ThreadId).val % 64 ≠ 0 := by decide

/-! ### Hypotheses that concrete states meet: faults, Bays, buffers, queues -/

/-- A correctable, an uncorrectable and a fatal pair, two sources of one class in order, a captured record, and a pair that is no fault. -/
theorem witness_FaultEventsCaptured :
    live.coreOff = false ∧ faultClass 3 1 = some .ce ∧ faultClass 4 1 = some .ucc ∧ faultClass 0 1 = some .fat ∧ faultClass 1 15 = some .ucc ∧
    (1 : BitVec 8).toNat < (4 : BitVec 8).toNat ∧ live.fld F.FCU_CAP_VALID 1 = 0 ∧
    (live.setFld F.FCU_CAP_VALID 2 1).fld F.FCU_CAP_VALID 2 = 1 ∧ faultClass 0 2 = none := by decide

theorem witness_SafeStateCommands :
    live.fld F.FCU_SAFE_STATUS_STATE 0 = 0 ∧ live.fld F.CFG_STATUS_STATE 0 = 0 ∧ (live.setFld F.CFG_STATUS_STATE 0 3).fld F.CFG_STATUS_STATE 0 = 3 ∧
    (live.setFld F.CFG_STATUS_STATE 0 4).fld F.FCU_SAFE_STATUS_STATE 0 = 0 ∧
    (live.setFld F.FCU_SAFE_STATUS_STATE 0 1).fld F.FCU_SAFE_STATUS_STATE 0 = 1 ∧
    (live.setFld F.FCU_SAFE_STATUS_STATE 0 2).fld F.FCU_SAFE_STATUS_SELF_FAULT 0 = 0 ∧
    ((live.setFld F.FCU_SAFE_STATUS_STATE 0 2).setFld F.FCU_SAFE_STATUS_SELF_FAULT 0 1).fld F.FCU_SAFE_STATUS_SELF_FAULT 0 = 1 ∧
    (let s := live.setFld F.FCU_SAFE_STATUS_STATE 0 2
     s.queues = [] ∧ s.stalled = [] ∧ s.walks = [] ∧ s.msixWait = [] ∧ s.tblEv = [] ∧ s.evOver = [] ∧ s.tblRun = [] ∧ s.dmaCh = [] ∧ s.shadow = [] ∧ s.cplDue = [] ∧
       s.fcuBad.filter scrubKeeps.contains = [] ∧
       { s with fcuBad := [fcuOff .FCU_CNT, fcuOff .FCU_MSIX_VEC] }.fcuBad.filter scrubKeeps.contains = [fcuOff .FCU_MSIX_VEC]) := by decide

/-- The selected Bay 0 at reset is ON, settled and the MF's; a Span owns it; it is in handover, or in transition; another owner's. -/
theorem witness_BayCommands :
    (let x := live.bay 3 (live.fld F.SPM_BAY_SEL_BAY 3)
     x.handover = none ∧ x.transit = none ∧ x.owner = State.ownerMf ∧ x.pwr = 0 ∧ getBits (x.owner.setWidth 64) 13 3 ≠ 1) ∧
    (let s := { live with bays := [(0, { owner := State.ownerSpan 9 })] }
     getBits ((s.bay 0 0).owner.setWidth 64) 13 3 = 1 ∧ s.ownerLive (s.bay 0 0).owner = false ∧ (s.bay 0 0).owner ≠ State.ownerMf) ∧
    ({ live with bays := [(0, { handover := some (0, 1, false) })] }.bay 0 0).handover = some (0, 1, false) ∧
    ({ live with bays := [(0, { transit := some (2, 1) })] }.bay 0 0).transit = some (2, 1) ∧
    ({ live with bays := [(0, { pwr := 1, transit := some (0, 1) })] }.bay 0 0).pwr = 1 ∧ live.spmBad 0 0 = false ∧ live.spmWait = [] ∧
    (∀ r ∈ [Reg.SPM_BAY_OWNER, .SPM_BAY_PWR, .SPM_MGMT_DATA], live.regOpen r 3 = true) := by decide

/-- The Manager's buffer: index 0, of one reference and its own; of two references; another owner's; indices at the end. A cache of 255;
a waiting charge; operations on a free buffer and on one of 254 references; a grant to a thread that waits. -/
theorem witness_BufferCommandsAndEvents :
    (let s := { pooled with recs := [(0, { owner := State.ownerMf, refs := 1 })] }
     (s.poolOf 0).isSome ∧ (s.bufRec 0).member = false ∧ s.recBad 0 = false ∧ (s.bufRec 0).next = none ∧ (s.bufRec 0).refs = 1) ∧
    2 ≤ ({ pooled with recs := [(0, { owner := State.ownerMf, refs := 2 })] }.bufRec 0).refs ∧
    getBits (((BitVec.ofNat 16 0xC000 : BitVec 16)).setWidth 64) 13 3 ∈ [1, 2, 3, 6] ∧
    ({ pooled with recs := [(0, { owner := State.ownerSpan 1, refs := 1 })] }.bufRec 0).owner ≠ State.ownerMf ∧
    0 < pooled.fld F.BPM_INFO_BUFFERS 0 ∧ live.fld F.BPM_INFO_BUFFERS 0 ≤ 0 ∧ pooled.regOpen .BPM_BUF_CMD 0 = true ∧
    (pooled.thr 1).dropping = false ∧
    ({ pooled with bufCache := [(0, [9])] }.cacheOf 0 0).length < 256 ∧ 0 < pooled.pools ∧
    0 ∈ ({ pooled with slots := { active := some { piers := [{ pools := [0] }] } } }.pierImg 0).pools ∧
    pooled.lowestFree 0 (pooled.occupied + 1) (pooled.poolBase 0) = some 0 ∧
    (let s := { pooled with bpmWait := [⟨.thread 1, 0, 1, 1, 0⟩] }
     s.bpmWait = [⟨.thread 1, 0, 1, 1, 0⟩] ∧ s.chargeAns 0 1 1 none = .granted ∧ s.freeIndices 0 1 (s.poolBase 0) = [0]) ∧
    (let s := { pooled with threads := [(1, { state := .running, ops := [⟨.buf 3 0 0 2, 0, true⟩] })], recs := [(0, { refs := 254 })] }
     (s.thr 1).ops[0]? = some ⟨.buf 3 0 0 2, 0, true⟩ ∧ 1 ≤ (s.bufRec 0).refs ∧ (s.bufRec 0).refs < 255 ∧ s.recBad 0 = false ∧ (s.bufRec 1).refs = 0) ∧
    (let s := { pooled with threads := [(1, { state := .waiting, implicit := some (.alloc 1 1 0 2) })], grants := [{ thread := 1, head := 0 }] }
     s.grants = [{ thread := 1, head := 0 }] ∧ (s.thr 1).implicit = some (.alloc 1 1 0 2) ∧ (s.thr 1).aborting = false ∧ (s.thr 1).state = .waiting) := by decide

/-- TX queue 4, RX queue 5, EVENT queue 6 and a Disabled queue 7 of Span 2, whose first queue is 4; its doorbell page has four. -/
def queued : State :=
  { live with
    queues := [(4, { used := true, span := 2, index := 0, kind := 0, state := .active, pi := 1 }),
      (5, { used := true, span := 2, index := 1, kind := 1, state := .active }),
      (6, { used := true, span := 2, index := 2, kind := 3, state := .active }), (7, { used := true, span := 2, index := 3 })]
    spans := [(2, { state := .enabled, queues := 4, firstQueue := 4 })]
    faces := [(0, { base := 0, count := 8 })]
    fns := [(fnKey (.vf 0 2), { bme := true, mse := true })] }.setFld (F.HEP_LINK_STATE_STATE 0) 0 3 |>.setFld F.STU_CTX_XLATE_MODE 2 3
    |>.setFld F.QE_CTX_CFG_PREFETCH 4 1 |>.setFld F.QE_CTX_CFG_EQ 4 0xFF

theorem witness_DoorbellWrites :
    queued.spanFn 2 = some (.vf 0 2) ∧ queued.spanBarOk 2 (.vf 0 2) = true ∧ queued.ideDrops (.vf 0 2) = false ∧
    (queued.domState 0 ≠ 1 ∧ queued.domState 0 ≠ 2) ∧ (queued.queue 4).isTx = true ∧ (queued.queue 4).bind < 4 ∧
    (queued.setFld (F.PWR_DOMAINS_PIER 0) 0 2).domState 0 = 2 ∧ queued.queueNo 2 0 = some 4 ∧ queued.queueNo 2 2 = some 6 ∧
    queued.queueNo 2 3 = some 7 ∧ queued.queueNo 2 4 = none ∧ (queued.span 2).state = .enabled ∧
    (queued.queue 4).kind ≠ 3 ∧ (queued.queue 4).state ≠ .disabled ∧ (queued.queue 4).charge = none ∧ (queued.queue 6).kind = 3 ∧
    (queued.queue 6).state ≠ .disabled ∧ (queued.queue 6).ovfPending = false ∧ (queued.queue 6).evWait = [] ∧
    (queued.queue 7).state = .disabled ∧
    ((queued.queue 5).kind = 1 ∧ (0 : BitVec 16) = (queued.queue 5).ci ∧ (queued.queue 5).fetching = 0 ∧ (queued.queue 5).cached = []) ∧
    (let s := { queued with spans := [(2, { state := .quiesced, queues := 4, firstQueue := 4 })] }
     s.queueNo 2 0 ≠ none ∧ (s.span 2).state ≠ .enabled ∧ s.spanBarOk 2 (.vf 0 2) = true) := by decide

/-- A fetch of one cell may issue, and returns a NOP, which begins and is completed; an interval. -/
theorem witness_EntryLifecycle :
    (queued.queueRuns 4 = true ∧ queued.trussFull 4 = false ∧ queued.wireFull 4 = false ∧ queued.chargeWaits 4 = false ∧ (queued.queue 4).fetching = 0 ∧ (queued.queue 4).cached = [] ∧ queued.pend .QE_CTX_CFG 4 = {} ∧
      1 ≤ ((queued.queue 4).pi - (queued.queue 4).ci).toNat ∧ ((queued.queue 4).ci - (queued.queue 4).di).toNat + 1 ≤ queued.ringSize 4 ∧
      1 ≤ queued.fld F.QE_CTX_CFG_PREFETCH 4 ∧ queued.cacheUse + 1 ≤ 65536 ∧ queued.freeTag (queued.fnLink (.vf 0 2)) 16384 0 = some 0) ∧
    ringOpenB queued 4 (.vf 0 2) = true ∧ queued.fld F.QE_CTX_CFG_EQ 4 = 0xFF ∧
    ((⟨0, [0]⟩ : Entry).cells.length = 1 ∧ (⟨0, [0]⟩ : Entry).opcode = 0 ∧ cellBits (⟨0, [0]⟩ : Entry).hdr 8 4 = 0 ∧
      cellBits (⟨0, [0]⟩ : Entry).hdr 12 4 = 0 ∧ (⟨0, [0]⟩ : Entry).irq = false) ∧
    (let s := { queued with queues := [(4, { used := true, span := 2, state := .active, fetching := 1 })] }
     (s.queue 4).fetching = 1 ∧ (s.queue 4).kind < 2 ∧ (s.span (s.queue 4).span).state = .enabled ∧ (s.queue 4).pi = (s.queue 4).ci) ∧
    (let s := { queued with queues := [(4, { used := true, span := 2, state := .active, fetching := 1, pi := 1 })] }
     (s.queue 4).fetching = 1 ∧ (s.queue 4).pi ≠ (s.queue 4).ci ∧ (s.queue 4).kind < 2 ∧ s.pend .QE_CTX_CFG 4 = {} ∧
       (s.span (s.queue 4).span).state = .enabled) ∧
    (∀ d ∈ [0, 16], queued.domState d ≠ 1 ∧ queued.domState d ≠ 2) ∧
    (let s := { queued with queues := [(4, { used := true, span := 2, state := .active, cached := [⟨0, [0]⟩] })] }
     (s.queue 4).cached = [⟨0, [0]⟩] ∧ s.queueRuns 4 = true) ∧
    (let s := { queued with queues := [(4, { used := true, span := 2, state := .active, begun := [{ entry := ⟨0, [0]⟩, result := some {} }] })] }
     (s.queue 4).begun = [{ entry := ⟨0, [0]⟩, result := some {} }] ∧ ringOpenB s 4 (.vf 0 2) = true) ∧
    ({ queued with queues := [(4, { modRunning := true })] }.queue 4).modRunning = true ∧ (queued.queue 4).modRunning = false := by decide

/-- The selected queue in each of its states, with an entry begun, with a command running, and of a locked TDI. -/
def chosen (x : Queue) : State := { queued with queues := [(0, { x with used := true, span := 2 })] }

theorem witness_QueueCommands :
    (let s := chosen {}
     s.fld F.QE_Q_SEL_QUEUE 0 = 0 ∧ s.flag F.QE_Q_STATUS_BUSY 0 = false ∧ (s.queue 0).used = true ∧ s.tdiLocked (s.queue 0).span = false ∧
       (s.queue 0).state = .disabled ∧ (s.queue 0).ovfPending = false ∧ s.regOpen .QE_Q_CMD 0 = true) ∧
    ((chosen { state := .active }).queue 0).begun = [] ∧ ((chosen { state := .active }).queue 0).charge = none ∧
    ((chosen { state := .active, begun := [{ entry := ⟨0, [0]⟩ }] }).queue 0).begun ≠ [] ∧ ((chosen { state := .error }).queue 0).state = .error ∧
    ((chosen {}).setFld F.QE_Q_STATUS_BUSY 0 1).flag F.QE_Q_STATUS_BUSY 0 = true ∧
    ({ chosen {} with spans := [(2, { tdi := .locked })] }).tdiLocked 2 = true := by decide

/-- A RECV entry at cell 0 with room for 64 bytes, in the RX queue 5. -/
def recv : Entry := ⟨0, [0x10, 64 * 2 ^ 64]⟩

def receiving : State :=
  { queued with
    queues := [(5, { used := true, span := 2, index := 1, kind := 1, state := .active, pi := 1, cached := [recv] })]
    rxIn := [(3, [{ rxq := some 5, bytes := List.replicate 60 0 }])] }

/-- Span 2's mailbox and a host's; full and empty sides; a channel whose endpoint is a Truss, ON or GATED; a frame for a queue that is not
ACTIVE, and one that meets a RECV entry. -/
theorem witness_MailboxesAndReceive :
    queued.mbxFn (.span 2) = some (.vf 0 2) ∧ queued.ideDrops (.vf 0 2) = false ∧ queued.mbxOk (.span 2) (.vf 0 2) = true ∧
    queued.mbxAnswers (.span 2) = true ∧
    queued.mbxAnswers (.host 7) = true ∧ (queued.mail 2).outFull = false ∧ queued.mbxTruss 2 = none ∧
    (let s := queued.setFld F.MBX_ROUTE_ENDPOINT 2 1
     s.mbxTruss 2 = some 0 ∧ (s.domState 16 ≠ 1 ∧ s.domState 16 ≠ 2) ∧ (s.domState 0 ≠ 1 ∧ s.domState 0 ≠ 2) ∧
       (s.setFld (F.PWR_DOMAINS_TRUSS 0) 0 2).domState 16 = 2) ∧ ({ queued with mbx := [(2, { outFull := true })] }.mail 2).outFull = true ∧
    (queued.mail 0).inFull = false ∧ (queued.mail 0).irqEn = false ∧ ({ queued with mbx := [(0, { inFull := true })] }.mail 0).inFull = true ∧
    queued.regOpen .MBX_TO 0 = true ∧ queued.regOpen .MBX_FROM 0 = true ∧ queued.mbxTruss (queued.fld F.MBX_SEL_CHANNEL 0) = none ∧
    (queued.setFld F.MBX_ROUTE_ENDPOINT 0 1).mbxTruss ((queued.setFld F.MBX_ROUTE_ENDPOINT 0 1).fld F.MBX_SEL_CHANNEL 0) ≠ none ∧
    (let s := { queued with rxIn := [(3, [{ rxq := some 7 }])] }
     (s.rx 3)[0]? = some { rxq := some 7 } ∧ (s.queue 7).state ≠ .active) ∧
    ((receiving.rx 3)[0]? = some { rxq := some 5, bytes := List.replicate 60 0 } ∧
      (∀ p' < 4, ∀ g' ∈ receiving.rx p', g'.rxq = some 5 → g'.placed ≠ some recv.cell) ∧ (receiving.queue 5).cached = [recv] ∧
      recv.opcode = 0x10 ∧ recv.malformed 1 = false ∧ recv.barrier = false ∧ receiving.qeStopped = false ∧
      (receiving.queue 5).pi ≠ (receiving.queue 5).ci ∧ (receiving.queue 5).begun = [] ∧
      ringOpenB receiving 5 (.vf 0 2) = true) := by decide +kernel

/-! ### Hypotheses that concrete states meet: host links and Spans -/

/-- Link 7 in state `st`, calibrated, with no Spans. -/
def linked (st : Nat) : State := { live with links := [(7, { calibrated := true })] }.setFld (F.HEP_LINK_STATE_STATE 7) 0 st

theorem witness_HostLinkEvents :
    ((linked 1).linkState 7 = 1 ∧ (linked 2).linkState 7 = 2 ∧ (linked 3).linkState 7 = 3) ∧ ((linked 2).link 7).calibrated = true ∧
    (((linked 3).face 7).count = 0 ∧ (linked 3).tags = [] ∧ (linked 3).walks = [] ∧ (linked 3).stalled = []) ∧ (linked 1).dev ≠ .bootFailed ∧ bitOf ((linked 1).reg .CFG_HOST_PENDING 0) 7 = false ∧
    bitOf (((linked 1).setFld F.CFG_HOST_PENDING_HOST 0 0x80).reg .CFG_HOST_PENDING 0) 7 = true := by decide

/-- A link that serves configuration requests, VF 2 of its eight, MSI-X vectors with and without their PBA bit. -/
def ready : State :=
  { queued with
    dev := .running
    links := [(0, { calibrated := true, cfgReady := true })]
    fns := [(fnKey (.pf 0), { vfEnable := true, numVfs := 8 }), (fnKey (.vf 0 2), { bme := true, mse := true, msixEnable := true })]
    msix := [(msixKey (.vf 0 2) 63, { pending := true })] }

theorem witness_FunctionResetsAndConfiguration :
    (linked 3).linkState 7 = 3 ∧ (ready.linkUp 0 = true ∧ ready.stream 0 0 ≠ .insecure) ∧
    { ready with ide := [(State.ideKey 0 0, .insecure)] }.stream 0 0 = .insecure ∧ ready.dev = .running ∧ (ready.link 0).cfgReady = true ∧ queued.dev ≠ .running ∧
    ((ready.fn (.pf 0)).vfEnable = true ∧ 7 < (ready.fn (.pf 0)).numVfs ∧ (ready.span 7).state = .disabled ∧ (ready.span 7).tdi = .unlocked ∧ ready.spanCmd = none ∧ ready.tags = [] ∧
      ready.walks = [] ∧ ready.stalled = [] ∧ ready.linkState 0 = 3) ∧
    (({ live with fns := [(fnKey (.pf 7), { vfEnable := true })] }.fn (.pf 7)).vfEnable = true ∧ (live.face 7).count = 0) ∧
    (live.fn (.pf 7)).vfEnable = false ∧
    ((ready.fn (.vf 0 2)).msixEnable = true ∧ (ready.fn (.vf 0 2)).msixMask = false ∧ (ready.fn (.vf 0 2)).d3hot = false ∧
      (ready.vec (.vf 0 2) 0).pending = false ∧ (ready.vec (.vf 0 2) 63).pending = true ∧ (ready.fn (.vf 0 2)).bme = true ∧ ready.tdiRefuses (.vf 0 2) = false ∧ ready.isSafe = false ∧
      ready.linkUp (ready.fnLink (.vf 0 2)) = true ∧ ready.ideDrops (.vf 0 2) = false ∧ ready.barRefuses (.vf 0 2) = false ∧
      63 < State.vectorsOf (.vf 0 2) ∧ State.vectorsOf (.vf 0 2) ≤ 64) ∧ live.barRefuses (.vf 0 2) = true ∧
    { ready with ide := [(State.ideKey 0 0, .insecure)] }.ideDrops (.vf 0 2) = true ∧ (0 : BitVec 32).getLsbD 2 = false := by decide

/-- The last tag of link 0: outstanding for an entry's data and for something else, free and quarantined; IDE streams. -/
def tagged (t : Tag) : State := { queued with tags := [(16383, t)] }

theorem witness_CompletionsAndErrors :
    (let r : HostReq := { fn := .vf 0 2, span := some 2, dep := .data 4 0 0, len := 8, recv := [1, 2, 3, 4] }
     (tagged (.outstanding r)).tag 0 16383 = .outstanding r ∧ ((tagged (.outstanding r)).span 2).state = .enabled ∧ (tagged (.outstanding r)).stalled = [] ∧
       (tagged (.outstanding r)).walks = [] ∧ (tagged (.outstanding r)).atsWait = [] ∧ (tagged (.outstanding r)).invals = [] ∧
       ((tagged (.outstanding r)).linkUp 0 = true ∧ (tagged (.outstanding r)).ideDrops r.fn = false) ∧
       (r.recv ++ [5, 6, 7]).length < r.len ∧ r.len ≤ (r.recv ++ [5, 6, 7, 8]).length) ∧
    (queued.ideDrops (.pf 0) = false ∧ (queued.fn (.pf 0)).aerSev.getLsbD 16 = false) ∧
    ((tagged (.outstanding { fn := .mf, span := none, dep := .other })).tag 0 16383 =
      .outstanding { fn := .mf, span := none, dep := .other }) ∧
    queued.tag 0 16383 = .free ∧ (tagged .quarantined).tag 0 16383 = .quarantined ∧ queued.linkUp (queued.fnLink (.vf 0 2)) = true ∧
    ({ live with ide := [(State.ideKey 7 4, .secure)] }.stream 7 4 = .secure ∧ (live.face 7).count = 0) ∧
    { tagged (.outstanding { fn := .vf 0 2, span := none, dep := .other }) with ide := [(State.ideKey 0 0, .insecure)] }.ideDrops (.vf 0 2) = true ∧ live.stream 7 4 ≠ .secure := by decide

/-- DOE mailboxes on a link that is Up, free and with an answer; sessions; a Span that can be a TDI, its stream, locked; invalidations. -/
def secured (tdi : Tdi) : State :=
  { queued with
    sec := { dice := true }
    ide := [(State.ideKey 0 1, .secure)]
    does := [(State.doeKey (.pf 0), { sessions := 1, finished := 1 })]
    spans := [(2, { tdispCapable := true, tdi := tdi })] }

theorem witness_SecureLinkProtocols :
    queued.doeUp (.pf 0) = true ∧ (queued.doe (.pf 0)).response = none ∧ (queued.doe (.pf 0)).waiting = [] ∧
    ({ queued with does := [(State.doeKey (.pf 0), { response := some { req := .getVersion } })] }.doe (.pf 0)).response ≠ none ∧
    ((secured .unlocked).doe (.pf 0)).finished ≠ 0 ∧ (queued.doe (.pf 0)).finished = 0 ∧
    ((secured .unlocked).sec.dice = true ∧ ((secured .unlocked).span 2).tdispCapable = true ∧ ((secured .unlocked).span 2).tdi = .unlocked ∧
      (secured .unlocked).secureStream 2 = some 1) ∧ { secured .unlocked with ide := [] }.secureStream 2 = none ∧ queued.sec.dice = false ∧
    (queued.span 2).tdispCapable = false ∧ ((secured .locked).span 2).tdi = .locked ∧ ((secured .unlocked).doe (.pf 0)).sessions ≠ 0xF ∧
    ((tagged (.outstanding { fn := .vf 0 2, span := some 2, dep := .other })).tagsOf fun r => r.span == some 2 && invRequest 2 2 0 r) ≠ [] ∧ ((secured .run).span 2).tdi ≠ .unlocked ∧ queued.tags = [] ∧
    ({ queued with invals := [⟨2, 2, 0, 9, []⟩] }.invals = [⟨2, 2, 0, 9, []⟩] ∧ queued.ring = [] ∧ queued.regOpen .STU_INV_CMD 0 = true ∧
      queued.spanFn 2 = some (.vf 0 2) ∧ queued.ideDrops (.vf 0 2) = false ∧
      { queued with ide := [(State.ideKey 0 0, .insecure)] }.ideDrops (.vf 0 2) = true) ∧
    16 ≤ { queued with invals := List.replicate 16 ⟨2, 2, 0, 9, []⟩ }.invals.length ∧ 65536 < 65537 ∧
    { queued with invals := [⟨2, 2, 0, 9, [1]⟩] }.invals = [⟨2, 2, 0, 9, [1]⟩] := by decide

/-- Span 0 (the selected one) in each of its states, with its VF present or not, owning a Bay or nothing; a long command running. -/
def spanIn (x : Span) : State :=
  { live with spans := [(0, x)], faces := [(0, { base := 0, count := 8 })], fns := [(fnKey (.pf 0), { vfEnable := true, numVfs := 1 })] }

theorem witness_SpanStateCommands :
    (spanIn {}).regOpen .STU_SPAN_CMD 0 = true ∧ (spanIn {}).tdiLocked 0 = false ∧ (spanIn { tdi := .run }).tdiLocked 0 = true ∧
    (spanIn {}).fld F.STU_SPAN_SEL_SPAN 0 = 0 ∧ (spanIn {}).spanCmd = none ∧ ((spanIn {}).span 0).state = .disabled ∧
    (spanIn {}).vfPresent 0 = true ∧ live.vfPresent 0 = false ∧
    ({ live with spanCmd := some { op := .reset, span := 0, seq := 1 } }.spanCmd ≠ none) ∧
    (((spanIn { state := .quiesced }).span 0).resetRequired = false ∧ (spanIn { state := .quiesced }).spanOwns 0 = false) ∧
    ((spanIn { state := .quiesced, resetRequired := true }).span 0).resetRequired = true ∧
    { spanIn { state := .quiesced } with bays := [(0, { owner := State.ownerSpan 0 })] }.spanOwns 0 = true ∧
    (let s := spanIn { state := .enabled }
     (s.span 0).state = .enabled ∧ s.queues = [] ∧ s.tags = [] ∧ s.walks = [] ∧ s.stalled = []) ∧
    ((spanIn { state := .quiescing, drained := true }).span 0).drained = true ∧ ((spanIn { state := .quiescing }).span 0).drained = false ∧
    ((spanIn { state := .removed }).span 0).state = .removed ∧
    (let x := (spanIn { state := .quiescing, byReset := true }).span 0
     x.state = .quiescing ∧ x.byReset = true ∧ x.lateDone = false) := by decide

/-- A blob of a Span without queues and windows, one that is not, and window sets that keep the rules and break the first. -/
def blob : Blob :=
  { magic := 0x53504E58, version := 1, queues := 0, srcSpan := 0, len := 4096, exportTime := 0, mode := 0
    windows := List.replicate 8 (0, 0, 0), inWord := 0, outWord := 0, inFull := false, outFull := false
    msix := List.replicate 64 (0, 0, false), pba := 0, contexts := [] }

/-- The CRC field's eight bytes: the CRC, and four zeros. -/
theorem crcField (c : BitVec 32) : toBytesLE 8 c.toNat = toBytesLE 4 c.toNat ++ [0, 0, 0, 0] := by
  simp [toBytesLE]
  refine ⟨?_, ?_, ?_, ?_⟩ <;> bv_omega

theorem headBytes_length (b : Blob) : b.headBytes.length = 16 := rfl

/-- What stands outside the CRC field's four bytes does not depend on the CRC. -/
theorem leAt_bytesCrc (b : Blob) (c off n : Nat) (h : off + n ≤ 16 ∨ 24 ≤ off) : leAt (b.bytesCrc c) off n = leAt (b.bytesCrc 0) off n := by
  have l (n : Nat) : (toBytesLE 8 n).length = 8 := rfl
  simp only [leAt, Blob.bytesCrc, List.drop_append, headBytes_length, l]
  rcases h with h | h
  · simp only [List.take_append, List.length_drop, headBytes_length]
    rw [show n - (16 - off) = 0 by omega]; simp
  · rw [List.drop_eq_nil_of_le (as := toBytesLE 8 c) (by rw [l]; omega), List.drop_eq_nil_of_le (as := toBytesLE 8 0) (by rw [l]; omega)]

/-- The CRC of the blob's bytes is right. -/
theorem blob_crc : Blob.crcOk blob.bytes = true := by
  generalize blob = b
  have h (c : BitVec 32) : leAt (b.bytesCrc c.toNat) 0x10 4 = c.toNat := by
    show fromBytesLE (((b.headBytes ++ _).drop b.headBytes.length).take 4) = _
    rw [List.drop_left, crcField, List.append_assoc]
    show fromBytesLE (toBytesLE 4 c.toNat) = _
    simp [toBytesLE, fromBytesLE]; omega
  have z (c : BitVec 32) : overlay (b.bytesCrc c.toNat) 0x10 [0, 0, 0, 0] = b.bytesCrc 0 := by
    unfold overlay
    rw [Blob.bytesCrc, show (0x10 : Nat) = b.headBytes.length from rfl, List.take_left, List.length_append, Nat.add_sub_cancel_left, List.drop_append,
      crcField, List.append_assoc]
    simp [Blob.bytesCrc, headBytes_length]
    rfl
  have : b.bytesCrc 0 = b.bytesCrc (0 : BitVec 32).toNat := rfl
  simp only [Blob.crcOk, Blob.bytes, h, Blob.crcOf, z]
  rw [this, z]; simp

/-- The blob's bytes pass every check of an IMPORT by Span 0. -/
theorem witness_SpanTransfersAndWindows_blob : (spanIn { state := .quiesced }).blobOk 0 blob.bytes = true := by
  have e (c : BitVec 32) : Blob.ofBytes (blob.bytesCrc c.toNat) = Blob.ofBytes (blob.bytesCrc 0) := by
    simp (disch := omega) only [Blob.ofBytes, leAt_bytesCrc]
    rfl
  have l (c : Nat) : (blob.bytesCrc c).length = 4096 := by
    simp only [Blob.bytesCrc, List.length_append, headBytes_length]
    rw [show (toBytesLE 8 c).length = 8 from rfl, show blob.restBytes.length = 4072 by decide +kernel]
  have w : (Blob.ofBytes (blob.bytesCrc 0)).magic = 0x53504E58 := by decide +kernel
  unfold State.blobOk
  rw [blob_crc, Blob.bytes, e, l]
  decide +kernel

theorem witness_SpanTransfersAndWindows :
    (let s := { spanIn { state := .quiesced } with fns := [(fnKey .mf, { bme := true })] }.setFld (F.HEP_LINK_STATE_STATE 0) 0 3
     s.spanCmd = none ∧ (s.span 0).state = .quiesced ∧ s.tdiLocked 0 = false ∧ s.spanOwns 0 = false ∧ s.linkUp s.mgmtLink = true ∧
       s.logs = [] ∧ s.blobBusy = false ∧ s.mfWaits = false ∧ s.queues = [] ∧ s.blobOk 0 [] = false ∧ s.winTest 0 (s.shadowWins 0) = 0 ∧ s.regOpen .STU_SPAN_CMD 0 = true ∧
       s.regOpen .STU_WIN_COMMIT 0 = true) ∧
    ((spanIn {}).isSafe = false ∧ (spanIn {}).linkUp (spanIn {}).mgmtLink = false) ∧
    { spanIn {} with tags := [(0, .outstanding { fn := .mf, span := none, dep := .blob })] }.blobBusy = true ∧
    (let s := ((spanIn {}).setReg .STU_WIN_CTL 0 (1#64 + 1#64 <<< 16)).setReg .STU_WIN_CTL 1 (1#64 + 1#64 <<< 16)
     s.winTest 0 (s.shadowWins 0) ≠ 0) := by decide

/-- Entries of a walk: a leaf of the second level, a fault, a table below; the walk under tag 1 of link 0; windows of the Span and offsets without
one. -/
theorem witness_WalksAndPeerWindows :
    (walkStep 1 0x83 = .leaf 0 true ∧ walkStep 1 0 = .fault ∧ walkStep 1 0x5003 = .next 0x5000) ∧
    (let j : Job := { fn := .vf 0 2, span := some 2, dep := .other, write := true, parts := [⟨0, 0, [], false⟩], walk := { tag := some 1, level := 1 } }
     { queued with walks := [j] }.walks = [j] ∧ j.walk.ats = false ∧ queued.stalled = [] ∧ queued.invals = [] ∧ queued.atsWait = [] ∧
       (queued.span 2).state = .enabled ∧ j.walk.tag = some (16384 * 0 + 1) ∧ { queued with queues := [] }.queues = [] ∧ queued.isSafe = false ∧
       { queued with fns := [(fnKey (.pf 0), { bme := true })] }.muted (.pf 0) none = false ∧ queued.tdiRefuses (.vf 0 2) = false ∧
       queued.ideDrops (.pf 0) = false) ∧
    (queued.ideDrops (.vf 0 2) = false ∧ { queued with ide := [(State.ideKey 0 0, .insecure)] }.ideDrops (.vf 0 2) = true) ∧
    (let s := (queued.setReg .STU_WIN_CTL 16 (7#64 + 1#64 <<< 16))
     (s.winAt 2 4095 1 false).isSome ∧ (s.winAt 2 4096 1 false) = none ∧ (s.winAt 2 0 4096 true).isSome ∧ s.rldBadIn 0 1 = false) ∧
    queued.spanFn 2 = some (.vf 0 2) ∧ queued.spanBarOk 2 (.vf 0 2) = true ∧
    (let s := { queued with spans := [(2, { state := .quiesced })] }
     s.spanQuiet 2 = true ∧ s.spanBarOk 2 (.vf 0 2) = true) := by
  refine ⟨⟨rfl, rfl, rfl⟩, ?_⟩
  decide

/-- Resources of thread 9, which is FREE, and the owner that the command names: a lock of table 0, a Rail, a Bay, a chain; a live owner; BUSY. -/
def lost : State :=
  { pooled with
    threads := []
    locks := [(State.tkey 0 0 0, State.ownerThread 9)]
    rails := [(0, { owner := some 9 })]
    bays := [(0, { owner := State.ownerThread 9 })]
    recs := [(0, { owner := State.ownerThread 9, refs := 1 })] }.setFld F.STU_RCV_ARG1_OWNER 0 (State.ownerThread 9).toNat
    |>.setFld F.TBL_SCHEMA_KIND 0 1 |>.setFld F.TBL_SCHEMA_LOG2_SIZE 0 1 |>.setFld F.STU_RCV_ARG1_NEW_OWNER 0 0x6000

theorem witness_RecoveryCommands :
    (lost.regOpen .STU_RCV_CMD 0 = true ∧ lost.fld F.STU_RCV_STATUS_BUSY 0 = 0 ∧ BitVec.ofNat 16 (lost.fld F.STU_RCV_ARG1_OWNER 0) = State.ownerThread 9 ∧
      getBits ((State.ownerThread 9).setWidth 64) 13 3 ≠ 0 ∧ lost.ownerLive (State.ownerThread 9) = false) ∧
    (1 ≤ lost.tblKind 0 0 ∧ lost.tblKind 0 0 ≤ 3 ∧ 0 < lost.tblSize 0 0 ∧ lost.lockOf (State.tkey 0 0 0) = State.ownerThread 9) ∧
    (let o := { lost with locks := [(State.tkey 0 0 0, State.ownerSpan 1)] }.lockOf (State.tkey 0 0 0)
     o ≠ State.ownerThread 9 ∧ o ≠ 0 ∧ getBits (o.setWidth 64) 13 3 ≠ 0) ∧
    (lost.rail 0 0).owner = some 9 ∧ ((lost.bay 0 0).owner = State.ownerThread 9 ∧ (lost.bay 0 0).handover = none ∧ (lost.bay 0 0).transit = none) ∧
    ((lost.poolOf 0).isSome ∧ (lost.bufRec 0).member = false ∧ 1 ≤ (lost.bufRec 0).refs ∧ (lost.bufRec 0).owner = State.ownerThread 9) ∧
    getBits ((BitVec.ofNat 16 (lost.fld F.STU_RCV_ARG1_NEW_OWNER 0)).setWidth 64) 13 3 ∈ [1, 2, 3] ∧
    ({ lost with sweep := some (State.ownerThread 9, 1) }.sweep = some (State.ownerThread 9, 1) ∧ live.recs = []) ∧
    (lost.recs = [(0, { owner := State.ownerThread 9, refs := 1 })] ∧ (lost.bufRec 0).next = none) ∧
    (lost.setFld F.STU_RCV_STATUS_BUSY 0 1).fld F.STU_RCV_STATUS_BUSY 0 = 1 := by decide

/-! ### Hypotheses that concrete states meet: registers, images, frames, tables -/

/-- The device runs, link 0 carries the Management Function, whose vectors are unmasked. -/
def managed : State :=
  { live with
    dev := .running
    fns := [(fnKey .mf, { bme := true, mse := true, msixEnable := true })]
    msix := [(msixKey .mf 0, { masked := false })] }.setFld (F.HEP_LINK_STATE_STATE 0) 0 3

theorem witness_RegisterAccess :
    (managed.dev = .running ∧ live.dev ≠ .running ∧ managed.ideDrops .mf = false ∧ managed.barOk .mf = true ∧ managed.ring = [] ∧ managed.tdiRefuses .mf = false ∧
      { managed with vsAddr := 0x28 }.vsAddr.toNat = 0x28 ∧ managed.shadow = []) ∧
    (managed.swapHolds 0x28 = false ∧ State.offDomain 0x28 = none ∧ (0x28 : Nat) % 8 = 0) ∧ locate 0xFFFF8 = none ∧
    locate 0x28 = some (.TOP_SCRATCH, 0) ∧ locate 1048608 = some (.CFG_DRAIN_LIMIT, 0) ∧ locate 2097176 = some (.FCU_EVT, 0) ∧
    locate 2097184 = some (.FCU_EVT_EN, 0) ∧
    ((managed.setReg .FCU_EVT 0 1).reg .FCU_EVT 0 &&& ~~~(managed.setReg .FCU_EVT 0 1).reg .FCU_EVT_EN 0 &&& 1 &&& 0xF ≠ 0) ∧
    ((managed.fn .mf).msixEnable = true ∧ (managed.fn .mf).msixMask = false ∧ (managed.vec .mf 0).masked = false ∧
      managed.fld F.FCU_MSIX_VEC_VEC 0 = 0) ∧
    (managed.setFld F.CFG_STATUS_STATE 0 4).swapHolds 0x28 = true ∧ managed.vsAddr.toNat = 0 ∧ 2047 < State.vectorsOf .mf ∧
    (63 < State.vectorsOf (.vf 0 2) ∧ ¬64 < State.vectorsOf (.vf 0 2)) := by decide

/-- The smallest image that every check of staging passes, in a device that holds the vendor key pair 0. -/
def pierImg0 : PierImg :=
  { nodes := [{ level := 1, index := 0, parent := 17 }, { level := 2, index := 0 }, { level := 3, index := 0, kind := 2, truss := 0 },
      { level := 3, index := 1, kind := 2, truss := 1 }, { level := 3, index := 2, kind := 2, truss := 2 }]
    slow := [some 0, some 1, some 2] }

def image0 : Image :=
  { piers := [pierImg0, pierImg0, pierImg0, pierImg0]
    pools := [{ base := 0, count := 64, acctBase := 0, acctCount := 1 }]
    fw := List.replicate 12 {}
    part := { engine := (0, 64), hold := (0, 4), recs := (4, 32) } }

/-- CFG_STATUS.STATE `st` with the given slots. -/
def imaged (st : Nat) (x : Slots) : State :=
  { live with slots := x, threads := [] }.setFld F.CFG_STATUS_STATE 0 st |>.setFld F.SEC_KEYS_PRESENT 0 0x11

/-- Type and scope of each section of the smallest image, one byte 0 long at 0x580, 0x5C0 and so on; its entry in the table. -/
def secs0 : List (Nat × Nat) :=
  [(1, 0xFF), (2, 0xFF), (8, 0xFF), (9, 0xFF)] ++ (List.range 12).map (fun t => (10, 0x10 + t)) ++
    (List.range 4).flatMap fun p => [(3, p), (5, p), (7, p)]

def entry0 (k : Nat) (e : Nat × Nat) : List Byte :=
  toBytesLE 2 e.1 ++ toBytesLE 2 e.2 ++ toBytesLE 4 (0x580 + 64 * k) ++ toBytesLE 4 1 ++ toBytesLE 4 0 ++ toBytesLE 4 0x527D5351 ++ toBytesLE 12 0

/-- The file of the smallest image: header, table, 28 sections, and the signature block of 4,728 bytes. -/
def file0 : ImgFile :=
  { content := image0
    bytes := toBytesLE 4 0x4147514E ++ toBytesLE 2 1 ++ toBytesLE 2 0x200 ++ toBytesLE 2 0x9640 ++ toBytesLE 2 0xFFFF ++ toBytesLE 8 0 ++
      toBytesLE 4 28 ++ toBytesLE 4 7928 ++ toBytesLE 4 0x200 ++ toBytesLE 8 0 ++ toBytesLE 4 3200 ++ toBytesLE 4 0x10100 ++ toBytesLE 4 0x20100 ++
      List.replicate 460 0 ++ (secs0.zipIdx.flatMap fun e => entry0 e.2 e.1) ++ List.replicate 1792 0 ++ toBytesLE 2 4627 ++ toBytesLE 2 96 ++
      List.replicate 4724 0 }

/-- A file that passes every check but its signatures' leaves the result to these (log entry 45). -/
theorem stageCheck_of (s : State) (f : ImgFile) (a : f.hdr.ok f.bytes.length = true) (b : f.bytes.length = s.readLen f) (d : f.hdr.part = 0x9640)
    (e : f.hdr.steppings.getLsbD (s.fld F.TOP_ID_STEPPING 0) = true) (g : keyPair f.hdr.keyMldsa f.hdr.keyEcdsa = some 1)
    (g' : s.imageRole 1 = true) (k : s.keyLoaded f.hdr.keyMldsa = true) (l : s.keyLoaded f.hdr.keyEcdsa = true) (m : f.blockOk = true)
    (n : keySlot f.hdr.keyMldsa = some 0) (o : keySlot f.hdr.keyEcdsa = some 4) (p : s.fld F.CFG_MIN_SVN_MIN_SVN 0 ≤ f.hdr.svn.toNat)
    (q : f.hdr.vendorDebug = false) (r : f.sectionsOk = true) (t : State.limitsOk f.image = true) (u : State.partitionOk f.image = true)
    (v : State.contentOk f.image = true) : s.stageCheck f =
      if (Config.imageVerifies 0 f.signed f.mldsa && Config.imageVerifies 4 f.signed f.ecdsa) = true then 0 else 5 := by
  simp [State.stageCheck, a, ← b, d, e, g, g', k, l, m, n, o, Nat.not_lt.2 p, q, r, t, u, v]
  cases Config.imageVerifies 0 f.signed f.mldsa <;> cases Config.imageVerifies 4 f.signed f.ecdsa <;> rfl

/-- Every check passes; the two signatures are as the device's algorithms find them. -/
theorem witness_ImageCommands_staging :
    (imaged 1 {}).stageCheck file0 =
      if (Config.imageVerifies 0 file0.signed file0.mldsa && Config.imageVerifies 4 file0.signed file0.ecdsa) = true then 0 else 5 :=
  stageCheck_of _ _ (by decide +kernel) (by decide +kernel) (by decide +kernel) (by decide +kernel) (by decide +kernel) (by decide +kernel)
    (by decide +kernel) (by decide +kernel) (by decide +kernel) (by decide +kernel) (by decide +kernel) (by decide +kernel)
    (by decide +kernel) (by decide +kernel) (by decide +kernel) (by decide +kernel) (by decide +kernel)

theorem witness_ImageCommands :
    ((imaged 0 {}).cfgState = 0 ∧ (imaged 0 {}).flashBusy.contains 1 = false ∧ (imaged 0 {}).shadow = [] ∧ (imaged 0 {}).isSafe = false ∧
      (let s := (imaged 0 {}).setFld (F.HEP_LINK_STATE_STATE 0) 0 3
       s.linkUp s.mgmtLink = true) ∧ ((imaged 0 {}).setFld F.FCU_SAFE_STATUS_STATE 0 2).isSafe = true) ∧
    (imaged 1 {}).slots.reading = none ∧
    (({ bytes := [0] } : ImgFile).hdr.ok 1 = false ∧ (imaged 1 {}).stageBusy = false ∧ (imaged 1 { bad := true }).slots.bad = true ∧
      { imaged 1 {} with tags := [(0, .outstanding { fn := .mf, span := none, dep := .stage })] }.stageBusy = true) ∧
    ((imaged 2 { staged := some image0 }).commitCheck = 0 ∧ (imaged 2 {}).slots.staged = none ∧
      (imaged 2 { rollback := true }).slots.previous = none ∧ (imaged 2 { rollback := true, previous := some image0 }).commitCheck = 0) ∧
    ((imaged 3 { incoming := some image0 }).cfgState = 3 ∧ (imaged 3 { incoming := some image0 }).drained image0 = true) ∧
    ((imaged 4 { incoming := some image0 }).ring = [] ∧ (imaged 4 { active := some image0, reload := true }).slots.reload = true) ∧
    ((imaged 5 { active := some image0 }).cfgState = 5 ∧ (imaged 5 { dead := true }).slots.dead = true ∧ (imaged 5 {}).fld F.CFG_MIN_SVN_MIN_SVN 0 ≤ image0.hdr.svn.toNat) := by decide

/-- A frame of 64 bytes with its FCS; MAC 15 UP; a Pier with room, its first frame, with and without an account. -/
def wire : List Byte := List.replicate 60 0 ++ fcs32 (List.replicate 60 0)

def fed (f : Pkt) (a : Option Nat) : State :=
  { pooled with
    dev := .running
    fifo := [(7, [f])]
    bufCache := [(256 * 3, [0, 1])]
    slots := { active := some { image0 with piers := List.replicate 4 { pierImg0 with accts := [a] } } } }.setFld F.MAC_STATUS_STATE 15 3

theorem witness_FramesIn :
    (let s := fed { bytes := List.replicate 60 0 } (some 1)
     (s.macState 15 = 3 ∧ s.macState 14 ≠ 3 ∧ s.macState 14 ≠ 4) ∧ (wire.drop 60 = fcs32 (wire.take 60) ∧ wire.length = 64) ∧
     64 ≤ s.maxFrame 15 ∧ State.etherType wire ≠ 0x8808 ∧ s.shadow = [] ∧ s.isSafe = false ∧ s.holdOf 1 = [] ∧
     s.fld F.MAC_TAG_CTL_STRIP 15 = 0 ∧ (∀ k, k < 4 → ((s.fifoOf 1 k).map Pkt.len).sum + 64 ≤ 524288)) ∧
    (let s := fed { bytes := List.replicate 60 0 } (some 1)
     let f : Pkt := { bytes := List.replicate 60 0 }
     s.ingressHeld 3 = false ∧ s.acceptFrom 3 1 = some 1 ∧ s.fifoOf 1 3 = [f] ∧ s.secyFirst f = false ∧ f.reinject = none ∧ f.head = none ∧ 0 < f.len ∧
       s.frameAcct 3 f = some (1, 0) ∧ s.chargeTurn ⟨.pipe 3 1, 0, 1, State.bufsFor f.len, State.ownerPipe 3⟩ = .granted ∧ s.cacheOf 3 0 = [0, 1] ∧
       (∀ x ∈ s.fcLines (State.fcSet 3 f.hash), ¬(x.hash = f.hash ∧ x.key = flowKey f.tuple)) ∧ (s.parked 3).length < 512 ∧
       SMap.get [] s.reentry 3 = [] ∧ { s with bpmWait := [⟨.pipe 3 0, 0, 1, 1, 0⟩] }.acceptFrom 3 1 = none) ∧
    (fed {} none).frameAcct 3 {} = none ∧
    (let s := (fed { mac := 15, bytes := List.replicate 12 0 ++ [0x88, 0x8E] } none).setFld F.MAC_SECY_CTL_EN 15 1
     s.secyFirst { mac := 15 } = true ∧ State.isEapol (List.replicate 12 0 ++ [0x88, 0x8E]) = true) ∧
    ((managed.setFld F.MAC_SECY_CTL_VALIDATE 15 2).fld F.MAC_SECY_CTL_VALIDATE 15 = 2) := by decide +kernel

theorem witness_FramesIn_full : 512 ≤ ({ managed with missBuf := [(3, List.replicate 512 { pkt := {} })] }.parked 3).length := by
  decide +kernel

/-- The frame of an ESP packet whose SA passes frames that fail. -/
def espFrame : Pkt :=
  { bytes := List.replicate 12 0 ++ [8, 0, 0x45, 0, 0, 0, 0, 0, 0, 0, 64, 50] ++ List.replicate 10 0 ++ toBytesBE 4 7 ++ toBytesBE 4 1 ++
      List.replicate 28 0, saFrame := some 9 }

def espState : State :=
  { managed with espLane := [(3, [espFrame])], sas := [(9, { state := 1, kind := 0, spi := 7, failPass := true, pn := 1 })] }

theorem witness_FramesThrough_decrypt : (espState.espDecrypt 3 9 espFrame .none).1.isSome = true := by decide +kernel

theorem witness_FramesThrough :
    (let s := { managed with missBuf := [(3, [{ pkt := {} }, { pkt := {}, follow := true }])] }
     (s.parked 3)[0]? = some { pkt := {} } ∧ (s.parked 3)[1]? = some { pkt := {}, follow := true } ∧
       (parseFrame (s.pierImg 3).ingress {}).cause = 0) ∧
    (State.outerIp ([] : List Byte) = none) ∧
    (let s := (managed.setFld F.TMS_Q_LIMIT_GREEN_KIB (State.nodeKey 3 3 5) 1)
     let f : Pkt := { tmsq := some 5, bytes := List.replicate 60 0 }
     let t := { s with egress := [(3, [f])] }
     t.egressHeld 3 = false ∧ t.pipeBusy 3 65552 = false ∧ t.egressOf 3 = [f] ∧ (parseFrame (t.pierImg 3).egress f).cause = 0 ∧ (t.pierImg 3).eprog.stages = [] ∧
       t.depth 3 5 + f.len ≤ t.fld F.TMS_Q_LIMIT_GREEN_KIB (State.nodeKey 3 3 5) * 1024) ∧
    (let s := { managed with queues := [(4, { used := true, bind := 3, begun := [{ entry := ⟨0, [0]⟩ }] })] }
     (s.pierImg 3).accts = [] ∧ s.pipeBusy 3 20 = false ∧ (s.queue 4).isTx = true ∧ (s.queue 4).bind = 3 ∧ s.txReady 4 = some { entry := ⟨0, [0]⟩ } ∧ s.wireQueue 3 4 = none ∧ s.txReady 5 = none ∧
       s.egressHeld 3 = false) := by decide

/-! ### Hypotheses that concrete states meet: tables, ports, scheduling, time -/

/-- Pier 3's table 14: KIND `kind`, entries `n`, and the descriptor of `op` on entry 1 in progress. -/
def tabled (kind op : Nat) (e : FlowEnt) : State :=
  { managed with
    flows := if e = ({} : FlowEnt) then [] else [(State.tkey 3 14 1, e)]
    tblRun := [(3, { examining := true, desc := some (BitVec.ofNat 256 (op + 256 * 14 + 2 ^ 32)), buf := some [] })] }.setFld F.TBL_SCHEMA_KIND 59 kind
    |>.setFld F.TBL_SCHEMA_LOG2_SIZE 59 1

theorem witness_TableCommands_ring :
    (let s := managed.setFld F.TBL_CMDQ_CTL_EN 3 1
     s.isSafe = false ∧ s.muted .mf none = false ∧ s.linkUp s.mgmtLink = true ∧ s.ideDrops .mf = false ∧ s.domState 3 = 0 ∧
       s.regOpen .TBL_CMDQ_DB 3 = true ∧ s.regOpen .TBL_CMDQ_CTL 3 = true ∧
       (let t := { s with tblRun := [(3, { examining := true, waiting := true })] }
        t.regOpen .TBL_CMDQ_DB 3 = true ∧ t.flag F.TBL_CMDQ_CTL_EN 3 = true ∧ (t.trun 3).waiting = true) ∧ s.cmdqHeld = false ∧ s.flag F.TBL_CMDQ_CTL_EN 3 = true ∧
       s.flag F.TBL_CMDQ_STATUS_STOPPED 3 = false ∧ s.trun 3 = {} ∧ s.freeTag s.mgmtLink 16384 0 = some 0) ∧
    (managed.shadow = [] ∧ managed.flag F.TBL_CMDQ_CTL_EN 3 = false ∧ managed.flag F.TBL_CMDQ_STATUS_STOPPED 3 = false) ∧
    (let s := managed.setFld F.TBL_CMDQ_STATUS_STOPPED 3 1
     s.shadow = [] ∧ s.linkUp s.mgmtLink = true ∧ s.flag F.TBL_CMDQ_CTL_EN 3 = false ∧ s.flag F.TBL_CMDQ_STATUS_STOPPED 3 = true) := by
  decide +kernel

/-- Each operation in progress on the last entry of a table of two. -/
theorem witness_TableCommands_flow : ∀ op : Fin 8, 1 ≤ op.val →
    let s := tabled 1 op.val { valid := true, key := List.replicate 42 0 }
    let d := BitVec.ofNat 256 (op.val + 256 * 14 + 2 ^ 32)
    s.isSafe = false ∧ s.ideDrops .mf = false ∧ s.domState 3 = 0 ∧
      s.trun 3 = { examining := true, addr := s.cmdqAddr 3, desc := some d, buf := some [] } ∧ descBits d 0 8 = op.val ∧ descBits d 8 4 = 14 ∧ descBits d 32 32 = 1 ∧
      s.tblKind 3 14 = 1 ∧ 1 < s.tblSize 3 14 ∧ descBits d 14 1 = 0 ∧ descBits d 15 1 = 0 ∧ descBits d 128 16 = 0 ∧
      s.lockOf (State.tkey 3 14 1) = 0 ∧ (s.flowAt 3 14 1).valid = true ∧ s.linkUp s.mgmtLink = true ∧
      s.muted .mf none = false := by decide +kernel

theorem witness_TableCommands_locks :
    (let s := { tabled 1 7 { valid := true } with locks := [(State.tkey 3 14 1, State.ownerMf)] }
     s.lockOf (State.tkey 3 14 1) = State.ownerMf) ∧
    (let l := { tabled 1 2 {} with locks := [(State.tkey 3 14 1, State.ownerThread 9)] }.lockOf (State.tkey 3 14 1)
     ¬(l = 0 ∨ l = State.ownerMf)) ∧ ((tabled 1 4 {}).flowAt 3 14 1).valid = false := by decide +kernel

/-- A key that has an entry, that goes into an empty one, and that finds none. -/
theorem witness_TableCommands_keys :
    ((tabled 1 3 {}).insertAt 3 14 State.ownerMf []).isSome = true ∧ ((tabled 1 3 {}).insertAt 3 14 State.ownerMf []).map (fun x => x.2) = some (true, none) ∧
    (tabled 1 5 {}).keyFind 3 14 [] = none ∧
    ({ tabled 1 5 {} with flows := [(State.tkey 3 14 0, { valid := true, key := List.replicate 42 0 })] }.keyFind 3 14 [] = some 0 ∨
     { tabled 1 5 {} with flows := [(State.tkey 3 14 1, { valid := true, key := List.replicate 42 0 })] }.keyFind 3 14 [] = some 1) ∧
    { tabled 1 3 {} with flows := [(State.tkey 3 14 0, { valid := true, key := [1] }), (State.tkey 3 14 1, { valid := true, key := [2] })] }.insertAt
      3 14 State.ownerMf [] = none := by decide +kernel

theorem witness_TableCommands_routes :
    (let s := tabled 4 8 {}
     let r := State.routeOf []
     s.tblKind 3 14 = 4 ∧ SMap.get [] s.routes (State.tabKey 3 14) = [] ∧ State.lpmUnits ([] ++ [r]) ≤ s.tblSize 3 14) ∧
    SMap.get [] { tabled 4 9 {} with routes := [(State.tabKey 3 14, [State.routeOf []])] }.routes (State.tabKey 3 14) = [State.routeOf []] := by
  decide +kernel

theorem witness_RulesCacheAndSweeper :
    SMap.get [] live.tblEv 3 = [] ∧ SMap.get 0 live.evOver 3 = 0 ∧
    (∀ h : Bool, ∀ a : Bool,
      let s := (tabled 1 0 { valid := true, hit := h, aged := a }).setFld F.TBL_SWEEP_PERIOD_MS 59 1
      (1 : BitVec 32) ≠ 0 ∧ s.domState 3 = 0 ∧ s.fld F.TBL_SWEEP_PERIOD_MS 59 ≠ 0 ∧ s.tblKind 3 14 = 1 ∧ (1 : BitVec 32).toNat < s.tblSize 3 14 ∧
        s.entValid 3 14 1 = true ∧ s.lockOf (State.tkey 3 14 1) = 0 ∧ s.entStatic 3 14 1 = false ∧
        SMap.get false s.l2Bad (State.tkey 3 14 1) = false ∧ (s.entHit 3 14 1 || s.lineHit 3 14 1) = h ∧ s.entAged 3 14 1 = a ∧
        s.flag F.TBL_EVQ_CTL_EN 3 = false ∧
        (let t := (s.setFld F.TBL_EVQ_CTL_EN 3 1).setReg .TBL_EVQ_CI 3 1
         t.flag F.TBL_EVQ_CTL_EN 3 = true ∧ t.evqNoRoom 3 = true)) ∧
    (∀ r ∈ [Reg.CLS_RULE_CMD, .TBL_FC_CMD, .TBL_EVQ_CTL, .TBL_EVQ_CI], live.regOpen r 3 = true) ∧
    (∀ j : Fin 2,
      let d : Word := BitVec.ofNat 64 (if j = 0 then 0 else 8 + 256 * 14)
      let s := { tabled 1 0 {} with threads := [(767, { ops := [⟨.tbl d 64 2, 0, true⟩] })] }
      (s.thr 767).ops[0]? = some ⟨.tbl d 64 2, 0, true⟩ ∧ (s.thr 767).dropping = false ∧ s.domState (State.pierOf 767) = 0 ∧ s.spmBadIn (767 / 192) 64 64 = false ∧
        (if j = 0 then descBits (d.setWidth 256) 0 8 = 0
         else opAllowed (descBits (d.setWidth 256) 0 8) (if descBits (d.setWidth 256) 8 4 = 15 then 15
            else s.tblKind (767 / 192) (descBits (d.setWidth 256) 8 4)) = false ∧ descBits (d.setWidth 256) 0 8 ≠ 0)) := by
  decide +kernel

/-- MAC 15 in link state `st`, with one frame of class 7 from Pier 3 waiting. -/
def maced (st : Nat) (f : Pkt) : State :=
  { managed with
    macIn := [(7 + 8 * (3 + 4 * 15), [f])]
    macs := [(15, { ptr := 3, deficit := [0, 0, 0, 16384] })] }.setFld F.MAC_STATUS_STATE 15 st

/-- A device in Standby whose link is UP, and a frame with a given content. -/
def asleep : State := { live with dev := .standby, standbyUp := true }
def sealed (bs : List Byte) : List Byte := bs ++ fcs32 bs
def magic : List Byte := sealed (List.replicate 6 0xFF ++ (List.replicate 96 0))

theorem sealed_fcs (bs : List Byte) : (sealed bs).drop ((sealed bs).length - 4) = fcs32 ((sealed bs).take ((sealed bs).length - 4)) := by
  have h : (fcs32 bs).length = 4 := by simp [fcs32, toBytesLE]
  simp [sealed, h]

/-- The FCS of `magic` is right. -/
theorem witness_MacLinks_wake : magic.drop (magic.length - 4) = fcs32 (magic.take (magic.length - 4)) := sealed_fcs _

theorem witness_MacLinks :
    ((maced 2 {}).macState 15 = 2 ∧ (maced 2 {}).isSafe = false ∧ (maced 2 {}).ethLost = false) ∧ (maced 3 {}).macState 15 = 3 ∧
    (maced 4 {}).macState 15 = 4 ∧
    (asleep.dev = .standby ∧ asleep.standbyUp = true ∧
      (asleep.setFld F.MAC_WAKE_CTL_MAGIC_EN 0 1).flag F.MAC_WAKE_CTL_MAGIC_EN 0 = true ∧
      (asleep.setFld F.MAC_WAKE_CTL_MAGIC_EN 0 1).magicIn magic = true) ∧
    (asleep.setFld F.MAC_WAKE_CTL_PAT_EN 0 0x80).fld F.MAC_WAKE_CTL_PAT_EN 0 / 2 ^ 7 % 2 = 1 ∧
    (asleep.setFld F.MAC_WAKE_CTL_PAT_EN 0 0x80).patternIn 7 magic = true ∧ asleep.ethLost = false ∧
    (asleep.setFld F.MAC_WAKE_CTL_LINK_EN 0 1).flag F.MAC_WAKE_CTL_LINK_EN 0 = true ∧
    managed.regOpen .MAC_CTL 15 = true ∧ managed.regOpen .MAC_STAT_SNAP 15 = true ∧ managed.regOpen .MAC_PORT_CMD 1 = true ∧
    managed.flag F.MAC_PORT_STATUS_BUSY 1 = false ∧
    (let s := managed.setFld F.MAC_PORT_STATUS_BUSY 1 1
     s.flag F.MAC_PORT_STATUS_BUSY 1 = true ∧ s.regOpen .MAC_PORT_CMD 1 = true ∧ s.coreUp = true) := by decide +kernel

theorem witness_SendingAndScheduling_frame :
    let f : Pkt := { bytes := List.replicate 20 0 }
    let s := maced 3 f
    s.macSends 15 = true ∧ s.fcUpdate.ctlDue 15 = false ∧ (s.mac 15).pauseAll = false ∧ s.shadow = [] ∧ s.macFifo 15 3 7 = [f] ∧
      f.launch = none ∧ f.head = none ∧ f.poisoned = false ∧ f.entry = none ∧ (∀ j, j < 8 → s.fld F.MAC_CBS_EN (8 * 15 + j) = 0) ∧
      s.headClass 15 3 = some 7 ∧ (s.mac 15).ptr = 3 ∧ f.len ≤ (s.mac 15).deficit.getD 3 0 ∧ s.fld F.MAC_TAG_CTL_INSERT 15 = 0 ∧
      s.fld F.TIM_ONESTEP_EN 15 = 0 ∧ s.fld F.MAC_SECY_CTL_EN 15 = 0 := by decide +kernel

theorem witness_SendingAndScheduling_control :
    (let s := ({ maced 3 {} with fifo := [(7, [{ bytes := List.replicate 60 0 }])] }.setFld F.MAC_FC_CTL_MODE 15 1).setReg .MAC_FC_WM 8 0
     s.ctlSends 15 = true ∧ s.shadow = [] ∧ s.fld F.MAC_FC_CTL_MODE 15 = 1 ∧ s.fld F.MAC_FC_STATUS_XOFF_SENT 15 = 0 ∧
       s.fcUpdate.xoffAsked 15 0 = true) ∧
    ((maced 3 {}).setFld F.MAC_FC_STATUS_XOFF_SENT 15 255).fld F.MAC_FC_STATUS_XOFF_SENT 15 ≠ 0 ∧
    (let f : Pkt := { launch := some 0 }
     let s := maced 3 f
     s.macFifo 15 3 7 = [f] ∧ (0 : Word).toNat * 4294967296 - (112742891520 + s.calDelay F.TIM_CAL_TX_DELAY 15) ≤ (s.time.toNat : Int) ∧
       ((3 : Nat), (7 : Nat)) ∉ (s.mac 15).launchOk) := by decide +kernel

/-- A Pier 3 whose tree has one queue of each kind, `k` of them filled with a frame. -/
def treed (k : Nat) : State :=
  let port := if k = 0 then 0 else 15 + k
  { managed with
    slots := { active := some { hdr := {}, piers := List.replicate 4 { nodes := [{ level := 1, index := 4095, parent := port }, { level := 2, index := 5, parent := 4095 }, { level := 3, index := 16383, parent := 5, kind := k, tc := 7, truss := 2 }] } } }
    tmsQ := [(16383 + 16384 * 3, [{ bytes := List.replicate 20 0 }])]
    macs := [(0, {})]
    nodes := ([(State.nodeKey 3 0 port, { ptok := 1 }), (State.nodeKey 3 1 4095, { ptok := 1, ctok := 1 }),
      (State.nodeKey 3 2 5, { ptok := 1 }), (State.nodeKey 3 3 16383, { ptok := 1 })] : SMap TmsNode) }.setFld F.MAC_STATUS_STATE 0 3 |>.setFld F.TRS_INFO_FIRMWARE 11 1

/-- The picks of a decision, level by level, with what the queue holds and is. -/
def picks (s : State) (p ovr port : Nat) : Option (List Nat) :=
  (s.pickGroup p ovr port).bind fun (g, s) => (s.pickSpanNode p ovr g).bind fun (n, s) => (s.pickQueue p ovr n).bind fun (q, s) =>
    some [g, n, q, (s.tq p q).length, ((s.treeNode p 3 q).map fun x => x.kind).getD 9]

theorem witness_SendingAndScheduling_decision : ∀ k : Fin 3,
    (treed k.val).tmsHeld 3 = false ∧ (treed k.val).pickPort 3 = some (if k.val = 0 then 0 else 15 + k.val) ∧
      picks ((treed k.val).epoch .portPick .TMS_NODE_OVERHEAD (State.nodeKey 3 0 (if k.val = 0 then 0 else 15 + k.val))) 3 24
        (if k.val = 0 then 0 else 15 + k.val) = some [4095, 5, 16383, 1, k.val] := by
  decide +kernel

theorem witness_SendingAndScheduling_held :
    (let s := managed.setFld F.CFG_STATUS_STATE 0 4
     s.tmsHeld 3 = true ∧ (⟨1, 3, 16383, true⟩ : TmsErr).uncorrected = true ∧ (⟨1, 3, 16383, true⟩ : TmsErr).kind = 1) ∧
    (managed.coreUp = true ∧ managed.shadow = [] ∧ managed.domState 3 < 2 ∧ (17 : Nat) < 18 ∧ ∀ j, j < 4 → ∀ nd ∈ ((treed 2).pierImg j).nodes, nd.index < 16384) := by decide +kernel

/-- The traceability state `st`, the Management Function owning the adjustment of time, with a tim record. -/
def timed (st : Nat) (x : Tim) : State := { managed with tim := x }.setFld F.TIM_STATE_STATE 0 st

theorem witness_TimeCounter :
    (managed.coreUp = true ∧ managed.tim.adj = []) ∧ ((timed 0 { adj := [(1, .incr)] }).tim.adj = [(1, .incr)] ∧
      (timed 0 { adj := [(1, .incr)] }).tim.slewTicks = 0 ∧ (timed 0 { slewTicks := 1 }).tim.slewTicks = 1) ∧
    (managed.flag F.TIM_CTL_ADJ_OWNER 0 = false ∧ ¬managed.flag F.TIM_CTL_ADJ_OWNER 0 = true ∧ managed.shadow = [] ∧ managed.fld F.TIM_TP_CTL_EN 0 = 0) ∧
    ((timed 1 {}).timState = 1 ∧ (timed 2 {}).timState ≠ 1) ∧
    (let s := (timed 1 {}).setFld F.TIM_LEAP_LEAP 0 2
     s.fld F.TIM_LEAP_LEAP 0 = 2 ∧ s.fld F.TIM_LEAP_TIME_SEC 0 ≤ s.wide.toNat / 10 ^ 9) ∧
    (let s := (timed 2 { servoPs := 0xFFFFFFFE }).setFld F.TIM_LIMITS_BOUND_LIMIT_NS 0 1
     s.coreUp = true ∧ s.shadow = [] ∧ s.timState = 2 ∧ s.fld F.TIM_LIMITS_BOUND_LIMIT_NS 0 * 1000 <
       min 0xFFFFFFFE (4000 + s.fld F.TIM_ASYM_PS 0 + s.tim.servoPs + s.holdPs)) ∧
    (∀ k, k < 12 → managed.domState (16 + k) = 0) ∧ (∀ r ∈ [Reg.TIM_ADJ_CMD, .TIM_SERVO_UPD, .TIM_NOW], managed.regOpen r 0 = true) ∧
    (Fn.vf 0 2 ≠ .mf ∧ queued.ideDrops (.vf 0 2) = false ∧ queued.barRefuses (.vf 0 2) = false ∧
      (queued.pageWord (.vf 0 2) 0x5000 true).isSome = true ∧ (0x5000 : BitVec 17).toNat % 8 = 0 ∧ live.ideDrops (.pf 0) = false ∧
      live.barRefuses (.pf 0) = true ∧ { queued with fns := [(fnKey (.pf 0), { mse := true })] }.barRefuses (.pf 0) = false) := by
  decide +kernel

/-- Input 4 enabled for both edges, `n` captures in its FIFO; the GNSS UART on, with a byte each way. -/
def pulsed (n : Nat) : State :=
  { managed with
    capFifo := SMap.put [] [] 4 (List.replicate n { wide := 5, frac := 0 })
    gnssRx := [{ byte := 0x41 }], gnssTx := [0x42]
    time := 1000000000 * 4294967296
    fns := [(fnKey (.pf 7), { ptmEnable := true, bme := true })]
    tim := { prev := 999999999 * 4294967296, ptm := [(7, { dialog := true, fails := 2 })] } }.setFld F.TIM_CAP_CTL_EN 4 1
    |>.setFld F.TIM_CAP_CTL_EDGE 4 3 |>.setFld F.TIM_GNSS_CTL_EN 0 1 |>.setFld F.TIM_REF10M_STATUS_PRESENT 0 1
    |>.setFld F.TIM_PPS_OUT_EN 0 1 |>.setFld (F.HEP_LINK_STATE_STATE 7) 0 3 |>.setFld F.TIM_TP_CTL_EN 0 0x80

theorem witness_TimeEvents_inputs :
    ((pulsed 15).flag F.TIM_CAP_CTL_EN 4 = true ∧ (pulsed 15).fld F.TIM_CAP_CTL_EDGE 4 = 3 ∧ ((pulsed 15).caps 4).length < 16 ∧
      SMap.get 0 (pulsed 15).tim.lastEdge 4 = 0 ∧ (pulsed 15).fld F.TIM_CAP_CTL_DELAY 4 = 0) ∧ 16 ≤ ((pulsed 16).caps 4).length ∧
    (pulsed 0).caps 4 = [] ∧ (pulsed 1).caps 4 = [{ wide := 5, frac := 0 }] ∧ (pulsed 0).flag F.TIM_REF10M_STATUS_PRESENT 0 = true ∧
    ((pulsed 0).flag F.TIM_GNSS_CTL_EN 0 = true ∧ (pulsed 0).gnssRx = [{ byte := 0x41 }] ∧ (pulsed 0).gnssTx = [0x42] ∧ managed.gnssRx = []) ∧
    ({ managed with tim := { lineStart := true } }).tim.lineStart = true ∧ (pulsed 0).regOpen .TIM_CAP_HI 4 = true ∧
    (∀ r ∈ [Reg.TIM_GNSS_RX, .TIM_GNSS_TX], (pulsed 0).regOpen r 0 = true) := by
  decide +kernel

/-- FIFOs of any length: 2,048 and 256 bytes are full, one less is not. -/
theorem witness_TimeEvents_full (n : Nat) :
    ({ managed with gnssRx := List.replicate n { byte := 0 } }).gnssRx.length = n ∧ ({ managed with gnssTx := List.replicate n 0 }).gnssTx.length = n :=
  ⟨List.length_replicate, List.length_replicate⟩

/-- The second's edge of PPS_OUT and of outputs in modes 2 and 3, between the previous tick and this one; PTM; the Time Page. -/
theorem witness_TimeEvents_outputs :
    (let s := pulsed 0
     let edge (at_ : Int) : Prop := (s.tim.prev.toNat : Int) < at_ ∧ at_ ≤ (s.time.toNat : Int)
     s.flag F.TIM_PPS_OUT_EN 0 = true ∧ s.shadow = [] ∧ signed 32 (s.fld F.TIM_PPS_OUT_OFFSET_NS 0) = 0 ∧
       edge ((((1 : Nat) : Int) * 1000000000 + 0) * 4294967296)) ∧
    (let s := ((pulsed 0).setFld F.TIM_TOUT_CTL_MODE 3 2).setReg .TIM_TOUT_START 3 1000000000
     s.fld F.TIM_TOUT_CTL_MODE 3 = 2 ∧ (s.tout 3).done = false ∧ (s.tim.prev.toNat : Int) < s.toutStart 3 ∧
       s.toutStart 3 ≤ (s.time.toNat : Int) ∧ s.regOpen .TIM_TOUT_CTL 3 = true) ∧
    (let x : OutPin := { high := true }
     let s := { pulsed 0 with tim := { (pulsed 0).tim with pps := x, touts := [(3, x)] } }.setFld F.TIM_TOUT_CTL_MODE 3 2
     s.flag F.TIM_PPS_OUT_EN 0 = true ∧ x.rose + s.fld F.TIM_PPS_OUT_WIDTH_US 0 * 4294967296000 ≤ (s.time.toNat : Int) ∧
       (s.tout 3).high = true ∧ 2 ≤ s.fld F.TIM_TOUT_CTL_MODE 3 ∧
       (s.tout 3).rose + s.fld F.TIM_TOUT_WIDTH_WIDTH 3 * 65536 ≤ (s.time.toNat : Int) ∧ managed.tim.pps.high = false) ∧
    (let s := ((pulsed 0).setFld F.TIM_TOUT_CTL_MODE 3 3).setFld F.TIM_TOUT_PERIOD_PERIOD 3 65536000000000
     s.fld F.TIM_TOUT_CTL_MODE 3 = 3 ∧ s.toutPeriod 3 ≠ 0 ∧ (s.tim.prev.toNat : Int) < s.toutStart 3 + ((1 : Nat) : Int) * s.toutPeriod 3 ∧
       s.toutStart 3 + ((1 : Nat) : Int) * s.toutPeriod 3 ≤ (s.time.toNat : Int)) ∧
    (let s := pulsed 0
     (s.fn (.pf 7)).ptmEnable = true ∧ (s.fn (.pf 7)).d3hot = false ∧ s.ideDrops (.pf 7) = false ∧
       ({ s with fns := [] }.fn (.pf 7)).ptmEnable = false ∧ s.linkUp 7 = true ∧ (s.ptm 7).dialog = true ∧ (s.ptm 7).fails = 2 ∧ s.isSafe = false ∧
       s.fld F.TIM_TP_CTL_EN 0 / 2 ^ 7 % 2 = 1 ∧ s.muted (.pf 7) none = false ∧ managed.fld F.TIM_TP_CTL_EN 0 / 2 ^ 7 % 2 = 0) := by
  decide +kernel

/-- The selected SA; a RAW SA for Truss 11 with operations of its last thread, and Truss 11's window. -/
def keyed (x : Sa) : State :=
  { managed with
    sas := [(0, x)]
    threads := [(767, { state := .waiting, ops := [⟨.aes 0 false 1 2 2, 0, true⟩, ⟨.keyld true 0 true (List.replicate 32 7) 2, 0, true⟩,
      ⟨.keyld false 0 false [] 2, 0, true⟩] })] }.setFld F.CIP_RAW_WIN_COUNT 11 1

theorem witness_Cipher :
    managed.regOpen .CIP_SA_CMD 0 = true ∧ (managed.sa managed.selSa).state = 0 ∧ managed.shadow = [] ∧ ((keyed { state := 1 }).sa (keyed {}).selSa).state = 1 ∧
    (managed.setFld F.CIP_SA_CFG_KIND 0 1 |>.setReg .CIP_SA_PN 0 9).reg .CIP_SA_PN 0 ≠ 0 ∧
    (let s := keyed { state := 1, kind := 2, trussMask := 0x800 }
     let b := s.sa 0
     (s.thr 767).ops[0]? = some ⟨.aes 0 false 1 2 2, 0, true⟩ ∧ (s.thr 767).dropping = false ∧
       ((s.thr 767).ops.take 0).any OutOp.isAes = false ∧ ((s.thr 767).ops.take 1).any OutOp.isAes = true ∧ b.state = 1 ∧ b.kind = 2 ∧ b.trussMask.getLsbD (767 / 64) = true ∧
       (s.thr 767).ops[1]? = some ⟨.keyld true 0 true (List.replicate 32 7) 2, 0, true⟩ ∧
       (s.thr 767).ops[2]? = some ⟨.keyld false 0 false [] 2, 0, true⟩ ∧ s.fld F.CIP_RAW_WIN_BASE 11 ≤ 0 ∧
       0 < s.fld F.CIP_RAW_WIN_BASE 11 + s.fld F.CIP_RAW_WIN_COUNT 11) ∧
    ((keyed { state := 1, kind := 2 }).sa 0).trussMask.getLsbD (767 / 64) = false ∧ ((keyed { state := 1, kind := 0 }).sa 0).kind ≠ 2 ∧
    ¬0 < managed.fld F.CIP_RAW_WIN_BASE 11 + managed.fld F.CIP_RAW_WIN_COUNT 11 := by decide +kernel

/-- Truss 11, powered, whose supervisor and last thread are as given. -/
def crewed (sup last : Thread) : State := { live with threads := [(704, sup), (767, last)] }

theorem witness_TrussCommands :
    (let s := crewed {} { state := .waiting, armed := true, cmp := 0 }
     (s.thr 767).armed = true ∧ (s.thr 767).cmp.toNat ≤ s.cycle.toNat ∧ s.domOn (16 + 767 / 64) = true ∧ (s.thr 767).implicit = none ∧
       s.regOpen .TRS_CMD 11 = true) ∧
    ((crewed {} { state := .waiting, armed := true, implicit := some (.alloc 0 1 0 2) }).thr 767).implicit = some (.alloc 0 1 0 2) ∧
    ((crewed {} {}).thr 767).armed = false ∧
    (let s := crewed { state := .running } { state := .waiting, waitMask := 0x40 }
     ((s.thr (64 * 11 + 63)).state = .waiting ∧ ∀ k, k < 64 → 0 < k →
      (s.thr (64 * 11 + k)).state ≠ .running ∧ (s.thr (64 * 11 + k)).state ≠ .halted ∧
        ((s.thr (64 * 11 + k)).state = .waiting → (s.thr (64 * 11 + k)).waitMask &&& 0x9F = 0 ∧ (s.thr (64 * 11 + k)).implicit = none)) ∧
      SMap.get false s.stallDone 11 = false) ∧
    (let s := (crewed { state := .running, aborting := true } { state := .running, aborting := true }).setFld F.TRS_STATUS_BUSY 11 1
       |>.setFld F.TRS_INFO_FIRMWARE 11 1
     s.flag F.TRS_STATUS_BUSY 11 = true ∧ s.flag F.TRS_INFO_FIRMWARE 11 = true ∧ (s.thr (64 * 11)).aborting = true ∧
       (s.thr (64 * 11)).dropping = false ∧ s.regOpen .TRS_CMD 11 = true ∧
       ∀ k, k < 64 → (s.thr (64 * 11 + k)).aborting = true → (s.thr (64 * 11 + k)).ops = []) ∧
    (let s := (crewed { state := .running } { state := .running, aborting := true }).setFld F.TRS_STATUS_BUSY 11 1
     s.abortingIn 11 = [767] ∧ (s.thr 767).ops = []) ∧
    (let s := crewed { state := .running } { state := .halted }
     s.flag F.TRS_STATUS_BUSY 11 = false ∧ (s.thr 767).state = .halted ∧ s.trussPwr 11 = 0 ∧ s.flag F.TRS_INFO_FIRMWARE 11 = false) ∧
    (let s := crewed { state := .running } { state := .running }
     (s.thr 767).state ≠ .free ∧ (s.thr 767).state ≠ .halted ∧ (∀ k, k < 64 → (s.thr (64 * 11 + k)).state ≠ .halted)) ∧
    (live.setFld (F.PWR_DOMAINS_TRUSS 11) 0 2).trussPwr 11 = 2 := by decide +kernel

/-- A descriptor that moves `len` bytes within the RLD, or fills it with zeros; channel 63 of Pier 3 runs it. -/
def moving (srcKind len : Nat) (x : DmaRun → DmaRun) : State :=
  { managed with
    dmaCh := [(State.chKey 3 63, { state := 1, run := some (x { desc := BitVec.ofNat 256 (4 + 16 * srcKind + 256 + len * 2 ^ 192), index := 0 }) })] }

theorem witness_DmaChannels :
    (∀ k : Fin 2,
      let s := moving (if k = 0 then 5 else 1) 600 id
      let c := s.dmaC 3 63
      let r : DmaRun := { desc := BitVec.ofNat 256 (4 + 16 * (if k = 0 then 5 else 1) + 256 + 600 * 2 ^ 192), index := 0 }
      c.state = 1 ∧ c.run = some r ∧ r.bursts = [] ∧ r.status = 0 ∧ r.allocWait = false ∧ r.issued < Desc.len r.desc ∧ r.outstanding < 32 ∧ s.shadow = [] ∧
        s.dmaStopped 3 = false ∧ (∀ j, j < 64 → j ≠ 63 → (s.dmaC 3 j).state ≠ 1) ∧ Desc.dstKind r.desc = 1 ∧
        Desc.srcKind r.desc = (if k = 0 then 5 else 1) ∧ s.rldBadIn 0 512 = false) ∧
    (let s := moving 5 600 fun r => { r with issued := 600, barrier := some 0 }
     let c := s.dmaC 3 63
     ∃ r, c.run = some r ∧ c.state = 1 ∧ r.arrived = true ∧ s.dmaStopped 3 = false ∧ s.ideDrops .mf = false ∧ r.outstanding = 0 ∧ r.allocWait = false ∧ r.head = none ∧ c.stopping = false ∧ Desc.len r.desc ≤ r.issued ∧
       Desc.notice r.desc = true ∧ s.chTruss 3 63 = none ∧ s.linkUp s.mgmtLink = true ∧ s.muted .mf none = false ∧ c.examining = false ∧
       (s.setFld F.DMA_CH_CFG_BIND_TRUSS 255 1).chTruss 3 63 = some 9 ∧ (s.thr (64 * 0 + Desc.placer r.desc)).state ≠ .free) ∧
    (let s := { moving 5 600 id with threads := [(767, { ops := [⟨.dma 63 0 2, 0, true⟩] })] }
     (s.thr 767).ops[0]? = some ⟨.dma 63 0 2, 0, true⟩ ∧ (s.thr 767).dropping = false ∧ (s.dmaC (767 / 192) 63).state = 1 ∧
       ((s.dmaC 3 63).tail - (s.dmaC 3 63).head).toNat ≠ s.chRingSize 3 63 ∧ (s.dmaC 3 62).state ≠ 1) ∧
    (managed.regOpen .DMA_CH_CTL 3 = true ∧ managed.regOpen .DMA_CH_DB 3 = true ∧ managed.fld F.DMA_CH_CTL_EN (State.chKey 3 (managed.selCh 3)) = 0 ∧ (managed.dmaC 3 (managed.selCh 3)).state = 0) ∧
    (let s := { managed with dmaCh := [(State.chKey 3 0, { state := 1, run := some { desc := 0, index := 0 } })] }
     s.chTruss 3 (s.selCh 3) = none ∧ (s.dmaC 3 (s.selCh 3)).state = 1 ∧ (s.dmaC 3 (s.selCh 3)).run.isSome = true ∧
       (s.dmaC 3 (s.selCh 3)).examining = false ∧ (s.dmaC 3 (s.selCh 3)).fetchOut = false) ∧
    ({ managed with dmaCh := [(State.chKey 3 0, { state := 1, fetchOut := true })] }.dmaC 3 (managed.selCh 3)).fetchOut = true := by
  refine ⟨by decide +kernel, ⟨_, rfl, ?_⟩, by decide +kernel, by decide +kernel, by decide +kernel, by decide +kernel⟩
  decide +kernel

/-! ### Hypotheses that concrete states meet: security, debug, power, boot, monitors -/

/-- A device in lifecycle state `lc` with the pair of ROLE 2 loaded and a whole token of `kind` in the buffer; selected values `v`. -/
def fused (lc kind v seen : Nat) : State :=
  { managed with
    slots := { active := some { hdr := { keyMldsa := 0x10300, keyEcdsa := 0x20300, svn := 7 } } }
    sec := { nonceLive := true, tokenSeen := (List.range seen).map fun k => (k, true)
             token := [(0, BitVec.ofNat 64 (0x5442474E + 2 ^ 32 + kind * 2 ^ 48)), (7, 0x100000000), (8, 0x0002020000010200)] } }.setFld F.SEC_LC_STATE 0 lc
    |>.setFld F.SEC_KEYS_PRESENT 0 0x1111 |>.setFld F.SEC_ARG_SEL_VALUE 0 v

/-- A token that passes every check but its signatures' leaves the cause to these (log entry 45). -/
theorem tokenCause_of (s : State) (analysis : Bool) (m e r : Nat) (h0 : analysis = true ∨ s.dbgLevel = 0) (h1 : s.tokenFormat analysis = true)
    (h2 : s.tokenWord 1 = s.reg .SEC_UID 0 ∧ s.tokenWord 2 = s.reg .SEC_UID_HI 0) (h3 : s.sec.nonceLive = true)
    (h4 : ((List.range 4).all fun k => s.tokenWord (3 + k) == s.reg .DBG_NONCE k) = true) (h5 : ¬(s.tokenKind = 2 ∧ s.lifecycle = 2))
    (h6 : keyPair (BitVec.ofNat 32 (s.tokenBits 8 0 32)) (BitVec.ofNat 32 (s.tokenBits 8 32 32)) = some r) (h7 : s.tokenRole r = true)
    (h8 : s.keyLoaded (BitVec.ofNat 32 (s.tokenBits 8 0 32)) = true) (h9 : s.keyLoaded (BitVec.ofNat 32 (s.tokenBits 8 32 32)) = true)
    (h10 : keySlot (BitVec.ofNat 32 (s.tokenBits 8 0 32)) = some m) (h11 : keySlot (BitVec.ofNat 32 (s.tokenBits 8 32 32)) = some e)
    (hm : Config.tokenVerifies m ((List.range 623).map s.tokenWord) = true)
    (he : Config.tokenVerifies e ((List.range 623).map s.tokenWord) = true) : s.tokenCause analysis = 0 := by
  unfold State.tokenCause
  simp only [h1, h2.1, h2.2, h3, h4, h6, h7, h8, h9, h10, h11, hm, he]
  rcases h0 with h | h <;> simp [h, h5]

theorem seen_all (n m k : Nat) (h : m ≤ k) (h2 : k < m + n) :
    SMap.get false ((List.range' m n).map fun k => (k, true)) k = true := by
  induction n generalizing m with
  | zero => omega
  | succ n ih =>
    simp only [List.range'_succ, List.map_cons, SMap.get, SMap.find?]
    split
    · rfl
    · exact ih (m + 1) (by omega) (by omega)

theorem fused_tokenSeen (lc kind v n : Nat) : (fused lc kind v n).sec.tokenSeen = (List.range n).map fun k => (k, true) := rfl

/-- Every word of the token of `fused` has been written. -/
theorem fused_seen (lc kind : Nat) : (List.range 623).all (fun k => SMap.get false (fused lc kind 0 623).sec.tokenSeen k) = true := by
  simp only [List.all_eq_true, List.mem_range]
  intro k h
  rw [fused_tokenSeen, List.range_eq_range']
  exact seen_all _ _ _ (by omega) (by omega)

/-- Whole tokens of KIND FULL and ANALYSIS in a state that accepts the ROLE of the pair that signs them; the pair's keys have slots 8 and 12. -/
theorem witness_SecurityCommands_DebugSession_token : ∀ x ∈ [(1, 2, false), (1, 3, true)],
    let s := fused x.1 x.2.1 0 623
    s.dbgLevel = 0 ∧ (s.tokenBits 0 0 32 == 0x5442474E && s.tokenBits 0 32 16 == 1 &&
      (if x.2.2 then s.tokenKind == 3 else s.tokenKind == 1 || s.tokenKind == 2) &&
      decide (1 ≤ s.tokenBits 7 32 32 ∧ s.tokenBits 7 32 32 ≤ 86400) &&
      (s.tokenKind != 1 || decide (s.tokenBits 7 0 16 < 4096 ∧ s.tokenBits 7 16 16 < 4096)) &&
      (List.range 23).all fun k => s.tokenWord (9 + k) == 0) = true ∧ s.tokenWord 1 = s.reg .SEC_UID 0 ∧ s.tokenWord 2 = s.reg .SEC_UID_HI 0 ∧
    s.sec.nonceLive = true ∧ ((List.range 4).all fun k => s.tokenWord (3 + k) == s.reg .DBG_NONCE k) = true ∧
    ¬(s.tokenKind = 2 ∧ s.lifecycle = 2) ∧ keyPair (BitVec.ofNat 32 (s.tokenBits 8 0 32)) (BitVec.ofNat 32 (s.tokenBits 8 32 32)) = some 2 ∧
    s.tokenRole 2 = true ∧ s.keyLoaded (BitVec.ofNat 32 (s.tokenBits 8 0 32)) = true ∧
    s.keyLoaded (BitVec.ofNat 32 (s.tokenBits 8 32 32)) = true ∧ keySlot (BitVec.ofNat 32 (s.tokenBits 8 0 32)) = some 8 ∧
    keySlot (BitVec.ofNat 32 (s.tokenBits 8 32 32)) = some 12 := by decide +kernel

theorem witness_SecurityCommands :
    (fused 1 0 0 0).flag F.SEC_STATUS_BUSY 0 = false ∧ ((fused 1 0 0 0).setFld F.SEC_STATUS_BUSY 0 1).flag F.SEC_STATUS_BUSY 0 = true ∧
    ((fused 0 0 0 0).lifecycle = 0 ∧ (fused 1 0 0 0).lifecycle = 1 ∧ (fused 2 0 0 0).lifecycle = 2 ∧ (fused 3 0 0 0).lifecycle = 3) ∧
    (keySlot (BitVec.ofNat 32 ((fused 1 0 0x10300 0).fld F.SEC_ARG_SEL_VALUE 0)) = some 16 ∧ keySlot 0x20403 = some 31 ∧ keySlot 0x20203 = some 15) ∧
    ((fused 1 0 0 0).slotFull 15 = true ∧ (fused 1 0 0 0).lastPair 15 = false ∧ (fused 1 0 0 0).slotFull 16 = false ∧
      ((fused 1 0 0 0).setFld F.SEC_KEYS_REVOKED 0 0xEE).lastPair 0 = true) ∧
    keyPair 0x10300 0x20300 = some 3 ∧ keyPair 0x10100 0x20100 ≠ some 3 ∧
    ((fused 1 0 7 0).fld F.CFG_MIN_SVN_MIN_SVN 0 < 7 ∧ 7 % 65536 ≤ (fused 1 0 7 0).activeSvn ∧ (fused 1 0 7 0).activeSvn < 8 % 65536 ∧
      (fused 1 0 7 0).fld F.SEC_SVN_SVN_WORDS_LEFT 0 = 64) ∧
    (managed.setReg .SEC_SVN 0 0).fld F.SEC_SVN_SVN_WORDS_LEFT 0 = 0 ∧ (managed.setReg .SEC_SVN 0 0).fld F.SEC_SVN_TH_WORDS_LEFT 0 = 0 ∧
    (∀ r ∈ [Reg.SEC_CMD, .DBG_NONCE, .DBG_TOKEN_DATA], managed.regOpen r 0 = true) ∧
    (let s := (fused 1 0 7 0).setFld F.SEC_BOOT_STATUS_TH_SVN 0 7
     s.thMinSvn < 7 % 65536 ∧ 7 % 65536 ≤ s.fld F.SEC_BOOT_STATUS_TH_SVN 0 ∧ s.fld F.SEC_SVN_TH_WORDS_LEFT 0 = 32) ∧
    (fused 1 1 0 0).tokenCause true = 1 ∧ (fused 1 3 0 0).tokenCause false = 1 ∧
    (∀ k : Fin 8, { managed with sec := { running := some ⟨k.val, 31, 5, []⟩ } }.sec.running = some ⟨k.val, 31, 5, []⟩) ∧
    (managed.setFld F.DBG_TOKEN_PTR_INDEX 0 622).fld F.DBG_TOKEN_PTR_INDEX 0 ≤ 622 ∧
    622 < (managed.setFld F.DBG_TOKEN_PTR_INDEX 0 623).fld F.DBG_TOKEN_PTR_INDEX 0 := by decide +kernel

/-- A session of level `lv` in lifecycle state 1, with thread 767 (of the Truss in scope if `mask` says so) selected. -/
def debugged (lv mask : Nat) (y : Thread) : State :=
  { managed with threads := [(767, y)], codeLen := [(11, 4)], code := [(65536 * 11, 0x00611000)] }.setFld F.DBG_STATUS_LEVEL 0 lv |>.setFld F.DBG_STATUS_TRUSS_MASK 0 mask
    |>.setFld F.DBG_THR_SEL_THREAD 0 767 |>.setFld F.SEC_LC_STATE 0 1

theorem witness_DebugSession :
    (∀ r ∈ [Reg.DBG_CMD, .DBG_THR_CMD, .DBG_REG_DATA, .DBG_SPM_DATA], managed.regOpen r 0 = true) ∧
    (managed.dev ≠ .standby ∧ managed.dev ≠ .off ∧ managed.dev ≠ .inReset ∧ asleep.dev = .standby) ∧
    (managed.lifecycle = 0 ∧ managed.dbgLevel = 0 ∧ managed.sec.tokenSeen = []) ∧ ((debugged 0 0 {}).dbgLevel = 0 ∧ (debugged 0 0 {}).lifecycle ≠ 0) ∧
    (managed.heldStep = none ∧ { managed with heldStep := some (767, 5) }.heldStep = some (767, 5)) ∧
    ((debugged 1 0x400 {}).dbgLevel ≠ 0 ∧ (debugged 1 0x400 {}).selThr = 767 ∧ (debugged 1 0x400 {}).dbgThread 767 = false) ∧
    (debugged 1 0x800 {}).dbgThread 767 = true ∧ (debugged 1 0x800 {}).trussPwr (767 / 64) = 0 ∧
    ((debugged 1 0x800 {}).setFld (F.PWR_DOMAINS_TRUSS 11) 0 2).trussPwr (767 / 64) ≠ 0 ∧
    ((debugged 1 0x800 { state := .halted }).thr 767).ops = [] ∧
    ((debugged 1 0x800 { state := .halted, ops := [⟨.store 0 8 0, 0, true⟩] }).thr 767).ops ≠ [] ∧
    ((debugged 1 0x800 { state := .halted, prior := .waiting }).thr 767).prior ≠ .running ∧
    ((debugged 1 0x800 { state := .waiting }).thr 767).state = .waiting ∧ ((debugged 1 0x800 { state := .halted, prior := .done }).thr 767).prior ≠ .halted ∧
    (let s := debugged 2 0 { state := .halted, prior := .running }
     let y := s.thr 767
     y.state = .halted ∧ y.prior = .running ∧ y.aborting = false ∧ y.pc.toNat < s.codeSize 767 ∧ s.bubble 767 [1, 2] false = false ∧
       decodeEng { thr := 767 } 0 (s.fetchWord 767) = some (.add { thr := 767 } 3 1 2)) ∧
    ((debugged 1 0 {}).setFld F.DBG_REG_SEL_REG 0 31).fld F.DBG_REG_SEL_REG 0 < 32 ∧
    (let s := debugged 2 0 {}
     (s.bay 0 (State.bayOf 0)).pwr = 0 ∧ (s.bay 0 (State.bayOf 0)).transit = none ∧ s.dbgAll = true ∧ s.spmBad 0 0 = false) ∧
    ((debugged 1 0 {}).dbgAll = false ∧ ((debugged 1 0 {}).bay 0 0).owner ≠ State.ownerSpan ((debugged 1 0 {}).fld F.DBG_STATUS_SPAN 0)) ∧
    ({ debugged 1 0 {} with bays := [(0, { pwr := 2 })] }.bay 0 (State.bayOf 0)).pwr ≠ 0 ∧ (debugged 2 0 {}).dev = .running := by decide +kernel

/-- Domain `d` in state `st`, thread 767 (of Truss 11, domain 0x1B) as given. -/
def powered (d st : Nat) (y : Thread) : State := { managed with threads := [(767, y)] }.setDom d st

theorem powered_thr (st m : Nat) (y : Thread) :
    (powered 0x1B st y).thr m = (if m = 767 then y else {}) ∧ (powered 3 st y).thr m = (if m = 767 then y else {}) := by
  constructor <;> (show SMap.get {} [(767, y)] m = _; simp only [SMap.get, SMap.find?]; split <;> rfl)

/-- No thread of a domain is HALTED, or armed, where thread 767 is not. -/
theorem witness_PowerDomains_threads : (∀ m, ((powered 0x1B 0 { state := .running }).thr m).state ≠ .halted) ∧
    (∀ m, ((powered 3 0 {}).thr m).state ≠ .halted) ∧ ∀ m, ((powered 0x1B 0 { state := .waiting }).thr m).armed = false := by
  refine ⟨fun m => ?_, fun m => ?_, fun m => ?_⟩ <;> simp only [powered_thr] <;> split <;> simp

theorem witness_PowerDomains :
    ((powered 0x1B 0 {}).flag F.PWR_STATUS_BUSY 0 = false ∧ (powered 0x1B 0 {}).cfgState = 0 ∧ (powered 0x1B 0 {}).domState 0x1B = 0 ∧
      (powered 3 2 {}).domState 3 ≠ 0) ∧
    ((powered 0x1B 0 {}).regOpen .PWR_CMD 0 = true ∧ (powered 0x1B 0 {}).timerNear 0x1B = false ∧ (powered 0x1B 0 {}).dev = .running ∧
      live.dev ≠ .running) ∧
    (767 ∈ State.domThreads 0x1B ∧ ((powered 0x1B 0 { state := .halted }).thr 767).state = .halted ∧
      ((powered 0x1B 0 { state := .running }).thr 767).state = .running) ∧
    (powered 3 0 {}).trussPwr 9 ≠ 2 ∧
    (let s := powered 0x1B 0 { state := .waiting, armed := true, cmp := 12800 }
     s.domActive 0x1B = false ∧ (s.thr 767).armed = true ∧ (s.thr 767).cmp.toNat ≤ s.cycle.toNat + 12800 ∧ s.cycle.toNat ≤ (s.thr 767).cmp.toNat) ∧
    (powered 0x1B 0 { state := .waiting }).domActive 0x1B = false ∧
    ((powered 3 1 {}).domState 3 = 1 ∧ SMap.get [] (powered 3 1 {}).reentry 3 = [] ∧ SMap.get [] (powered 3 1 {}).espLane 3 = [] ∧
      SMap.get [] (powered 3 1 {}).egress 3 = [] ∧ (powered 0x1B 1 {}).domState 0x1B = 1) ∧
    ((powered 0x1B 2 {}).domState 0x1B = 2 ∧ (powered 0x1B 2 {}).domState 3 = 0 ∧ (0x1B - 16) / 3 = 3) ∧
    ((powered 0x1B 2 {}).setDom 3 2).domState 3 = 2 ∧ ((powered 0x1B 3 {}).domState 0x1B = 3 ∧ (powered 0x1B 3 {}).ring = []) ∧
    (asleep.setFld F.MAC_WAKE_STATUS_MAGIC 0 1).reg .MAC_WAKE_STATUS 0 ≠ 0 ∧ (asleep.dev = .standby ∧ asleep.reg .MAC_WAKE_STATUS 0 = 0) ∧
    (managed.setFld F.CFG_STATUS_STATE 0 4).cfgState ≠ 0 ∧ (managed.setFld F.SEC_STATUS_BUSY 0 1).flag F.SEC_STATUS_BUSY 0 = true ∧
    managed.slots.reading = none ∧ ({ managed with slots := { reading := some (false, 2, 5) } }.slots.reading = some (false, 2, 5)) := by
  decide +kernel

/-- A device at a stage of its power-up. -/
def rising (d : DevState) : State := { State.reset with dev := d }

theorem witness_ResetAndBoot :
    (State.reset.dev = .inReset ∧ (rising .off).dev = .off) ∧ (State.reset.fld F.TOP_GRADE_GRADE 0 = 0 ∧
      (State.reset.setFld F.TOP_GRADE_GRADE 0 1).fld F.TOP_GRADE_GRADE 0 = 1) ∧
    ((rising .locking).dev = .locking ∧ (rising .locking).refLost = false ∧ (rising .locking).ethLost = false ∧ (rising .locking).woke = false ∧
      ((rising .locking).setFld F.PWR_STANDBY_WAKE_CAUSE 0 2).woke = true ∧ (rising .locking).timState = 0 ∧
      ((rising .locking).setFld F.TIM_STATE_STATE 0 1).timState ≠ 0) ∧
    ((rising .locking).readFuses.lcLost = false ∧ ({} : BootFind).devs = 4 ∧ ({ devs := 3 } : BootFind).devs ≠ 4 ∧
      ([FuseEv.decay true 0 1].foldl State.fuseEvent (rising .locking)).readFuses.lcLost = true ∧ (rising .locking).readFuses.thCopy {} = none) ∧
    ((rising .booting).dev = .booting ∧ (rising .booting).bootPick [] = none ∧ (rising .running).dev = .running ∧ (rising .bootFailed).dev = .bootFailed) ∧
    (managed.dev = .running ∧ managed.refLost = false ∧ { managed with refLost := true }.refLost = true ∧ managed.ethLost = false ∧
      (managed.setFld F.MAC_STATUS_STATE 15 4).macState 15 = 4) := by decide +kernel

/-- Firmware bytes that differ from the smallest image in their magic alone. -/
def firmware0 : List Byte := toBytesLE 4 0x5448574E ++ file0.bytes.drop 4

/-- Copy B of the Tollhouse firmware is started where its two signatures verify, as the device's algorithms find them. -/
theorem witness_ResetAndBoot_copy :
    (rising .locking).readFuses.thCopy { thB := firmware0 } =
      if (Config.imageVerifies 0 (ImgFile.signed { bytes := firmware0 }) (ImgFile.mldsa { bytes := firmware0 }) &&
        Config.imageVerifies 4 (ImgFile.signed { bytes := firmware0 }) (ImgFile.ecdsa { bytes := firmware0 })) = true
      then some (1, firmware0) else none := by
  have c (s : State) (bs : List Byte) (a : s.thOk [] = false) (b : (ImgHdr.ofBytes bs).okAs 0x5448574E bs.length = true)
      (d : ImgFile.blockOk { bytes := bs } = true)
      (n : keySlot (ImgHdr.ofBytes bs).keyMldsa = some 0) (o : keySlot (ImgHdr.ofBytes bs).keyEcdsa = some 4)
      (p : keyPair (ImgHdr.ofBytes bs).keyMldsa (ImgHdr.ofBytes bs).keyEcdsa = some 1) (g : s.unrevoked 0 = true) (k : s.unrevoked 4 = true)
      (l : s.thMinSvn ≤ (ImgHdr.ofBytes bs).svn.toNat) : s.thCopy { thB := bs } =
        if (Config.imageVerifies 0 (ImgFile.signed { bytes := bs }) (ImgFile.mldsa { bytes := bs }) &&
          Config.imageVerifies 4 (ImgFile.signed { bytes := bs }) (ImgFile.ecdsa { bytes := bs })) = true then some (1, bs) else none := by
    have q (f : ImgFile) (h : ({ bytes := bs } : ImgFile) = f) (d : f.blockOk = true) : s.thOk bs =
        (Config.imageVerifies 0 f.signed f.mldsa && Config.imageVerifies 4 f.signed f.ecdsa) := by
      have hb : f.bytes = bs := by rw [← h]
      unfold State.thOk
      rw [h]
      simp [ImgFile.hdr, hb, show (ImgHdr.ofBytes bs).okAs 1414027086#32 bs.length = true from b, d, n, o, p, g, k, l]
    have q := q _ rfl d
    simp only [State.thCopy, a, q]
    cases Config.imageVerifies 0 (ImgFile.signed { bytes := bs }) (ImgFile.mldsa { bytes := bs }) <;>
      cases Config.imageVerifies 4 (ImgFile.signed { bytes := bs }) (ImgFile.ecdsa { bytes := bs }) <;> rfl
  exact c _ _ (by decide +kernel) (by decide +kernel) (by decide +kernel) (by decide +kernel) (by decide +kernel) (by decide +kernel)
    (by decide +kernel) (by decide +kernel) (by decide +kernel)

/-- A boot that finds the smallest image in slot 3 alone picks it, where its two signatures verify. -/
theorem witness_ResetAndBoot_pick :
    ((rising .booting).setFld F.SEC_KEYS_PRESENT 0 0x11).bootPick [(3, file0)] =
      if (Config.imageVerifies 0 file0.signed file0.mldsa && Config.imageVerifies 4 file0.signed file0.ecdsa) = true then some (3, file0) else none := by
  have c (s : State) (f : ImgFile) (a : State.bootSlots (s.fld F.TOP_STRAP_BOOT_SEL 0) = [0, 1, 2, 3]) (b : Bool)
      (d : s.stageCheck f = if b = true then 0 else 5) : s.bootPick [(3, f)] = if b = true then some (3, f) else none := by
    unfold State.bootPick
    rw [a]
    cases b <;> simp_all [List.find?]
  exact c _ _ (by decide +kernel) _ (stageCheck_of _ _ (by decide +kernel) (by decide +kernel) (by decide +kernel) (by decide +kernel)
    (by decide +kernel) (by decide +kernel) (by decide +kernel) (by decide +kernel) (by decide +kernel) (by decide +kernel) (by decide +kernel)
    (by decide +kernel) (by decide +kernel) (by decide +kernel) (by decide +kernel) (by decide +kernel) (by decide +kernel))

/-- The second of two readings, -1 °C and 105 °C, is the hottest. -/
theorem witness_Monitors_hot :
    let ts : List (BitVec 12) := [0xFF8, 840]
    ts.length ≤ 28 ∧ ts[1]? = some 840 ∧ (∀ u ∈ ts, u.toInt ≤ (840 : BitVec 12).toInt) ∧ (∀ u ∈ ts.take 1, u.toInt < (840 : BitVec 12).toInt) := by
  simp

theorem witness_Monitors :
    (managed.sampling = true ∧ (railNominal.map (BitVec.ofNat 16)).length = 8 ∧
      (∀ j, j < 8 → outside (railNominal.getD j 0) ((railNominal.map (BitVec.ofNat 16)).getD j 0).toNat = false) ∧
      outside (railNominal.getD 7 0) 712 = true ∧ outside (railNominal.getD 7 0) 713 = false ∧
      (SMap.get {} { managed with supply := [(7, { seen := true })] }.supply 7 : RailMon).seen = true) ∧
    (managed.peakClear = true ∧ (managed.setFld F.PWR_TJ_STATUS_OVER_LIMIT 0 1).fld F.PWR_TJ_STATUS_OVER_LIMIT 0 = 1 ∧
      signed 12 (managed.fld F.PWR_TJ_CFG_LIMIT 0) ≤ 840 ∧ signed 12 (managed.fld F.PWR_TJ_CFG_CRIT 0) ≤ 1000) ∧ managed.coreUp = true ∧
    (managed.ageOn 21 = true ∧ managed.fld F.PWR_AGE_CFG_WARN 0 ≤ 255 ∧ SMap.get false { managed with aged := [(21, true)] }.aged 21 = true) := by
  decide +kernel

/-! ### Hypotheses of the two headline statements, and of the step -/

/-- A store that issues from the front of the queue keeps the canonical form; the word of a well-formed instruction with unused bits. -/
theorem witness_EngineStepKeepsMemoryCanonical :
    let s := { bayed with spm := [(2, 7)], pending := [.sts slot1 3 1 false 3 8] }
    s.pending = [.sts slot1 3 1 false 3 8] ∧ (encodeEng (.sts slot1 3 1 false 3 8)).isSome = true ∧ Memory.wf s = true ∧
      (∃ t, step s = .next t ∧ t.spm = [(2, 64)]) := by
  refine ⟨rfl, rfl, by decide +kernel, _, rfl, by decide +kernel⟩

theorem witness_EngineDecodeOfEncode :
    Instr.wf (.popc { slot1 with unused := 0x800 } 1 31) = true ∧ (encodeEng (.popc { slot1 with unused := 0x800 } 1 31)).isSome = true := by decide

/-! ### What is not well-formed -/

theorem test_wf_unused : Instr.wf (.popc { slot1 with unused := 0x20 } 1 1) = false := by decide
theorem test_wf_msixUnmask : Instr.wf (.msixUnmask (.vf 0 2) 64) = false ∧ Instr.wf (.msixUnmask (.vf 0 2) 63) = true ∧
    Instr.wf (.msixUnmask .mf 2047) = true := by decide
theorem test_wf_msixTable (q : Fin 3) (w : Word) : Instr.wf (.registerWrite (.msixTable (.pf 1) 64 q) w) = false := by rfl
theorem test_wf_mbxPage (c : MbxEnd) (b : Bool) (w : Word) : Instr.wf (.registerWrite (.mbxPage c 4 b) w) = false := by rfl
theorem test_wf_completion (h : Link) (t : Fin 16384) (p : Bool) (d : List Byte) (hd : d.length = 4097) :
    Instr.wf (.completionReceived h t p d) = false := by simp [Instr.wf, Instr.operandsOk, hd]
theorem test_wf_entryFetchIssue (q : QueueId) : Instr.wf (.entryFetchIssue q 0) = false := by rfl
theorem test_wf_entryFetchReturn (q : QueueId) (p : Bool) (l : List (BitVec 128)) (h : l.length = 257) :
    Instr.wf (.entryFetchReturn q l p) = false := by simp [Instr.wf, Instr.operandsOk, h]
theorem test_wf_configRequest (h : Link) (b : Byte) (o : CfgOp) : Instr.wf (.configRequest h b 4104 o) = false := by rfl
theorem test_wf_linkUp (h : Link) (f : Bool) : Instr.wf (.linkUp h 0 16 f) = false ∧ Instr.wf (.linkUp h 1 3 f) = false := ⟨rfl, rfl⟩
theorem test_wf_bar2Tlp (n : SpanId) (o : BitVec 36) (e : Ecc) (p : Bool) : Instr.wf (.bar2Tlp n o (.read 0) e) = false ∧
    Instr.wf (.bar2Tlp n o (.write [] p) e) = false ∧ Instr.wf (.bar2Tlp n o (.read 4096) e) = true := ⟨rfl, rfl, rfl⟩
theorem test_wf_samples : Instr.wf (.tempSample (List.replicate 27 0)) = false ∧ Instr.wf (.supplySample (List.replicate 9 0)) = false := by decide
theorem test_wf_jtag : Instr.wf (.jtagScan .idcode []) = false := by decide

/-! ### Words written out from R411, R413 and R414, field by field: OP, then the fields of the format -/

/-- The instruction that a word decodes to in slot 1, where no register picks its row. -/
def dec (w : BitVec 32) : Option Instr := decodeEng slot1 0 w

/-- R: OP 0x00 by FN. -/
theorem test_decode_alu :
    dec 0b000000_11111_00001_00010_00000000000 = some (.add slot1 31 1 2) ∧ dec 0b000000_00011_00001_00010_00000000001 = some (.sub slot1 3 1 2) ∧
    dec 0b000000_00011_00001_00010_00000000010 = some (.and_ slot1 3 1 2) ∧ dec 0b000000_00011_00001_00010_00000000011 = some (.or_ slot1 3 1 2) ∧
    dec 0b000000_00011_00001_00010_00000000100 = some (.xor slot1 3 1 2) ∧ dec 0b000000_00011_00001_00010_00000000101 = some (.sll slot1 3 1 2) ∧
    dec 0b000000_00011_00001_00010_00000000110 = some (.srl slot1 3 1 2) ∧ dec 0b000000_00011_00001_00010_00000000111 = some (.sra slot1 3 1 2) ∧
    dec 0b000000_00011_00001_00010_00000001000 = some (.mul slot1 3 1 2) ∧ dec 0b000000_00011_00001_00010_00000001001 = some (.mulhu slot1 3 1 2) ∧
    dec 0b000000_00011_00001_00010_00000001010 = some (.slt slot1 3 1 2) ∧ dec 0b000000_00011_00001_00010_00000001011 = some (.sltu slot1 3 1 2) ∧
    dec 0b000000_00011_00001_00010_00000001100 = some (.min slot1 3 1 2) ∧ dec 0b000000_00011_00001_00010_00000001101 = some (.max slot1 3 1 2) ∧
    dec 0b000000_00011_00001_00000_00000001110 = some (.popc slot1 3 1) ∧ dec 0b000000_00011_00001_00000_00000001111 = some (.clz slot1 3 1) ∧
    dec 0b000000_00011_00001_00000_00000010000 = some (.ctz slot1 3 1) ∧ dec 0b000000_00011_00001_00000_00000010001 = some (.bswap slot1 3 1) ∧
    dec 0b000000_00011_00001_00010_00000010010 = none := by decide

/-- I: immediates, LIH with its field, SHI with its kind. -/
theorem test_decode_immediate :
    dec 0b000001_00011_00001_1000000000000001 = some (.addi slot1 3 1 0x8001) ∧ dec 0b000010_00011_00001_0000000000000001 = some (.andi slot1 3 1 1) ∧
    dec 0b000011_00011_00001_0000000000000001 = some (.ori slot1 3 1 1) ∧ dec 0b000100_00011_00001_0000000000000001 = some (.xori slot1 3 1 1) ∧
    dec 0b000101_00011_00001_0000000000000001 = some (.slti slot1 3 1 1) ∧ dec 0b000110_00011_00010_0000000000000001 = some (.lih slot1 3 2 1) ∧
    dec 0b000111_00011_00001_00000000_00_111111 = some (.shiSll slot1 3 1 63) ∧ dec 0b000111_00011_00001_00000000_01_000001 = some (.shiSrl slot1 3 1 1) ∧
    dec 0b000111_00011_00001_00000000_10_000001 = some (.shiSra slot1 3 1 1) ∧ dec 0b000111_00011_00001_00000000_11_000001 = some (.shiRotate slot1 3 1 1) ∧
    dec 0b010111_00011_00001_0000000000001000 = some (.jalr slot1 3 1 8) ∧ dec 0b011001_00011_00000_0000000000001001 = some (.mfs slot1 3 9) ∧
    dec 0b100000_00011_00001_1111111111111111 = some (.fork slot1 3 1 0xFFFF) ∧
    dec 0b100001_00011_00001_0000000000000001 = some (.forkd slot1 3 1 1) := by decide

/-- M: SX, SZ and a signed offset; B and J. -/
theorem test_decode_memory :
    dec 0b001000_00011_00001_1_01_1000000000001 = some (.lds slot1 3 1 true 1 0x1001) ∧
    dec 0b001001_00011_00001_0_11_0000000001000 = some (.sts slot1 3 1 false 3 8) ∧
    dec 0b001010_00011_00001_0_10_0000000000100 = some (.ldw slot1 3 1 false 2 4) ∧
    dec 0b001011_00011_00001_0_00_0000000000100 = some (.stw slot1 3 1 false 0 4) ∧
    dec 0b001100_00011_00001_0_11_0000000001000 = some (.ldr slot1 3 1 false 3 8) ∧
    dec 0b001101_00011_00001_0_11_0000000001000 = some (.str slot1 3 1 false 3 8) ∧
    dec 0b001110_00011_00001_00010_00000000000 = some (.atsAdd slot1 3 1 2) ∧ dec 0b001110_00011_00001_00010_00000000001 = some (.atsSwap slot1 3 1 2) ∧
    dec 0b001110_00011_00001_00010_00000000010 = some (.atsCas slot1 3 1 2) ∧ dec 0b001110_00011_00001_00010_00000000011 = none ∧
    dec 0b001111_00011_00001_00010_00000000000 = some (.atrAdd slot1 3 1 2) ∧ dec 0b001111_00011_00001_00010_00000000001 = some (.atrSwap slot1 3 1 2) ∧
    dec 0b001111_00011_00001_00010_00000000010 = some (.atrCas slot1 3 1 2) ∧
    dec 0b010000_00001_00010_1111111111111111 = some (.beq slot1 1 2 0xFFFF) ∧ dec 0b010001_00001_00010_0000000000000001 = some (.bne slot1 1 2 1) ∧
    dec 0b010010_00001_00010_0000000000000001 = some (.blt slot1 1 2 1) ∧ dec 0b010011_00001_00010_0000000000000001 = some (.bge slot1 1 2 1) ∧
    dec 0b010100_00001_00010_0000000000000001 = some (.bltu slot1 1 2 1) ∧ dec 0b010101_00001_00010_0000000000000001 = some (.bgeu slot1 1 2 1) ∧
    dec 0b010110_10000000000000000000000001 = some (.jal slot1 0x2000001) := by decide

/-- The threads' own: fences, children, waits, Rails, mailboxes. -/
theorem test_decode_threads :
    dec 0b011000_00000_00000_00000_00000000000 = some (.fence slot1) ∧ dec 0b100010_00011_00001_00000_00000000000 = some (.join slot1 3 1) ∧
    dec 0b100011_00000_00001_00000_00000000000 = some (.endThread slot1 1) ∧ dec 0b100100_00000_00001_00000_00000000000 = some (.signal slot1 1) ∧
    dec 0b100101_00011_00000_00000_00010011111 = some (.wait slot1 3 0x9F) ∧ dec 0b100110_00000_00001_00000_00000000000 = some (.tmrAbs slot1 1) ∧
    dec 0b100110_00000_00001_00000_00000000001 = some (.tmrRel slot1 1) ∧ dec 0b100111_00011_00001_00000_00000000000 = some (.thrctlFree slot1 3 1) ∧
    dec 0b100111_00011_00001_00010_00000000001 = some (.thrctlRestart slot1 3 1 2) ∧ dec 0b101000_00011_00000_00000_00000000000 = some (.take slot1 3) ∧
    dec 0b101001_00000_00001_00000_00000000000 = some (.rsv slot1 1) ∧ dec 0b101010_00000_00001_00000_00000000000 = some (.put slot1 1) ∧
    dec 0b101011_00000_00000_00000_00000000000 = some (.rsend slot1) ∧ dec 0b101100_00011_00001_00000_00000000000 = some (.rrd slot1 3 1) ∧
    dec 0b101101_00011_00000_00000_00000000000 = some (.mbxr slot1 3) ∧ dec 0b101110_00011_00001_00010_00000000000 = some (.mbxw slot1 3 1 2) ∧
    dec 0b111001_00011_00000_00000_00000000000 = some (.time slot1 3) ∧ dec 0b111010_00011_00001_00000_00000000000 = some (.rreg slot1 3 1) ∧
    dec 0b111011_00000_00001_00010_00000000000 = some (.wreg slot1 1 2) ∧ dec 0b111100_00000_00000_00000_00000000000 = some (.brk slot1) := by decide

/-- The device's units: DMA to CRC. BUF has FN 2 to 5 (R420); XMIT, AES and KEYLD by their registers; the unassigned OPs. -/
theorem test_decode_units :
    dec 0b110000_00011_00001_00010_00000000000 = some (.dma slot1 3 1 2) ∧ dec 0b110001_00011_00001_00010_00000000000 = some (.tbl slot1 3 1 2) ∧
    dec 0b110010_00000_00001_00010_00000000000 = some (.cpl slot1 1 2) ∧ dec 0b110011_00011_00001_00010_00000000000 = some (.xmitTxq slot1 3 1 2) ∧
    decodeEng slot1 1 0b110011_00011_00001_00010_00000000000 = some (.xmitRxq slot1 3 1 2) ∧
    decodeEng slot1 2 0b110011_00011_00001_00010_00000000000 = some (.xmitWire slot1 3 1 2) ∧
    decodeEng slot1 3 0b110011_00011_00001_00010_00000000000 = some (.xmitPipe slot1 3 1 2) ∧
    dec 0b110100_00011_00001_00010_00000000000 = some (.alloc slot1 3 1 2) ∧ dec 0b110101_00011_00001_00000_00000000010 = some (.bufFree slot1 3 1) ∧
    dec 0b110101_00011_00001_00000_00000000011 = some (.bufDrop slot1 3 1) ∧ dec 0b110101_00011_00001_00010_00000000100 = some (.bufGive slot1 3 1 2) ∧
    dec 0b110101_00011_00001_00000_00000000101 = some (.bufShare slot1 3 1) ∧ dec 0b110101_00011_00001_00000_00000000000 = none ∧
    dec 0b110110_00100_00010_00001_00000000000 = some (.aesEnc slot1 4 2 1) ∧
    decodeEng slot1 1 0b110110_00100_00010_00001_00000000000 = some (.aesDec slot1 4 2 1) ∧
    decodeEng slot1 1 0b110111_00011_00001_00010_00000000000 = some (.keyldInstall slot1 3 1 2) ∧
    decodeEng slot1 2 0b110111_00011_00001_00010_00000000000 = some (.keyldDelete slot1 3 1 2) ∧
    dec 0b111000_00011_00001_00010_00000000011 = some (.crc slot1 3 1 2 3) ∧ dec 0b111000_00011_00001_00010_00000000100 = none := by decide

theorem test_decode_unassigned : ∀ op : BitVec 6, op ∈ [0x1A, 0x1B, 0x1C, 0x1D, 0x1E, 0x1F, 0x2F, 0x3D, 0x3E, 0x3F] →
    dec (op ++ (0 : BitVec 26)) = none := by decide

/-! ### One step of a few commands -/

/-- The state after a command. -/
def after (i : Instr) (s : State) : State := match exec i s with | .next t => t | _ => s

/-- Thread 1 with g1 and g2 as given. -/
def two (a b : Word) : State := liveWith fun y => { y with regs := [(1, a), (2, b)] }

theorem test_add_wraps : (after (.add slot1 3 1 2) (two 0xFFFFFFFFFFFFFFFF 2)).g 1 3 = 1 := by decide
theorem test_sub_order : (after (.sub slot1 3 1 2) (two 2 3)).g 1 3 = 0xFFFFFFFFFFFFFFFF := by decide
theorem test_sra_sign : (after (.sra slot1 3 1 2) (two 0x8000000000000000 67)).g 1 3 = 0xF000000000000000 := by decide
theorem test_mulhu_unsigned : (after (.mulhu slot1 3 1 2) (two 0xFFFFFFFFFFFFFFFF 2)).g 1 3 = 1 := by decide
theorem test_slt_signed : (after (.slt slot1 3 1 2) (two 0xFFFFFFFFFFFFFFFF 0)).g 1 3 = 1 ∧
    (after (.sltu slot1 3 1 2) (two 0xFFFFFFFFFFFFFFFF 0)).g 1 3 = 0 := by decide
theorem test_bswap : (after (.bswap slot1 3 1) (two 0x0102030405060708 0)).g 1 3 = 0x0807060504030201 := by decide +kernel
theorem test_clz_ctz : (after (.clz slot1 3 1) (two 1 0)).g 1 3 = 63 ∧ (after (.ctz slot1 3 1) (two 0x100 0)).g 1 3 = 8 := by decide +kernel
theorem test_lih_keeps : (after (.lih slot1 1 2 0xABCD) (two 0x1111222233334444 0)).g 1 1 = 0x1111ABCD33334444 := by decide
theorem test_addi_signed : (after (.addi slot1 3 1 0xFFFF) (two 1 0)).g 1 3 = 0 ∧ (after (.ori slot1 3 1 0xFFFF) (two 0 0)).g 1 3 = 0xFFFF := by decide
theorem test_rotate : (after (.shiRotate slot1 3 1 4) (two 0x1 0)).g 1 3 = 0x1000000000000000 := by decide
theorem test_g0_reads_zero : (after (.add slot1 0 1 2) (two 1 1)).g 1 0 = 0 := by decide
theorem test_branch_backwards : ((after (.bltu slot1 2 1 0xFFFF) (liveWith fun y => { y with pc := 8, regs := [(1, 5), (2, 4)] })).thr 1).pc = 4 := by decide
theorem test_jal_link : (let t := after (.jal slot1 3) live; (t.thr 1).pc = 12 ∧ t.g 1 31 = 4) := by decide
theorem test_lds_extends : (after (.lds slot1 3 1 true 1 0) { bayed with spm := [(2, 0x8001)], threads := [(1, { state := .running, regs := [(1, 16)] })] }).g 1 3 =
    0xFFFFFFFFFFFF8001 := by decide +kernel
theorem test_sts_bytes : (after (.sts slot1 2 1 false 0 1) { bayed with spm := [(2, 0x1111)], threads := [(1, { state := .running, regs := [(1, 16), (2, 0x2299)] })] }).spm =
    [(2, 0x9911)] := by decide +kernel
theorem test_cas : (let s := { bayed with spm := [(2, 7)], threads := [(1, { state := .running, regs := [(1, 16), (2, 9), (3, 7)] })] }
    let t := after (.atsCas slot1 3 1 2) s
    t.spm = [(2, 9)] ∧ t.g 1 3 = 7) := by decide +kernel
theorem test_crc32c_byte : (after (.crc slot1 3 1 2 0) (two 0 1)).g 1 3 = 0xF26B8303 := by decide +kernel
theorem test_illegal_unused : ((after (.popc { slot1 with unused := 0x800 } 3 1) live).thr 1).state = .faulted := by decide
theorem test_ready_fifo : (match step { live with pending := [.nonceExpire, .timeClkTick] } with | .next t => t.pending | _ => []) = [.timeClkTick] := by decide
theorem test_idle : step State.reset = .next State.reset := rfl
/-- A STEP of a thread that waits stays in progress; the slot of its next instruction ends it (R487). -/
theorem test_step_held : (after (.stepThread 9 .ok .ok .ok) (debugged 2 0 { state := .halted, prior := .waiting })).heldStep = some (767, 9) ∧
    (let t := after (.add { thr := 767 } 3 1 2) { debugged 2 0 { state := .halted, prior := .running } with heldStep := some (767, 5) }
     t.heldStep = none ∧ (t.thr 767).pc = 4 ∧ t.fld F.DBG_THR_STATUS_LAST_SEQ 0 = 5) := by decide +kernel
/-- The example vectors of the AES standard, for the two key sizes that SAs have. -/
theorem test_aes : aesEncrypt ((List.range 16).map (BitVec.ofNat 8)) ((List.range 16).map fun k => BitVec.ofNat 8 (17 * k)) =
    toBytesBE 16 0x69c4e0d86a7b0430d8cdb78070b4c55a := by decide +kernel
theorem test_aes256 : aesDecrypt ((List.range 32).map (BitVec.ofNat 8)) (toBytesBE 16 0x8ea2b7ca516745bfeafc49904b496089) =
    (List.range 16).map fun k => BitVec.ofNat 8 (17 * k) := by decide +kernel

end Sys2Proof.Tests
end

section
/-!
PROOFS. The counter and the time unit (R324–R328, R333–R336, R343, R348, R353, R547): what an operation of the time unit keeps, said
once for each, and from it what a tick, an adjustment, a change of the traceability, a refill tick and a read leave.
-/

namespace Sys2Proof.Machine.TimeUnit
open State

/-- What `t` has kept of `s`: the device's state, both counters, the time unit but for its Time Pages, of which the SEQ of host
`h` has gone up by `d h`, and every register that is not in `l`. Nothing is said of the rest of the device. -/
structure Keeps (s t : State) (l : List Reg) (d : Nat → BitVec 32) : Prop where
  dev : t.dev = s.dev
  time : t.time = s.time
  cycle : t.cycle = s.cycle
  tim : t.tim = { s.tim with seqs := t.tim.seqs, pages := t.tim.pages }
  seq : ∀ h, SMap.get 0 t.tim.seqs h = SMap.get 0 s.tim.seqs h + d h
  reg : ∀ r i, r ∉ l → t.reg r i = s.reg r i

/-- As `Keeps`; and where no value waits and no Time Page is sent, nothing else differs but what a vector changes. -/
structure Calm (s t : State) (l : List Reg) (d : Nat → BitVec 32) : Prop extends Keeps s t l d where
  quiet : s.shadow = [] → s.fld F.TIM_TP_CTL_EN 0 = 0 →
    t = { s with regs := t.regs, msix := t.msix, msixWait := t.msixWait, out := t.out, tim := t.tim } ∧ t.fld F.TIM_TP_CTL_EN 0 = 0

variable {s t u : State} {l l' : List Reg} {d d' : Nat → BitVec 32}

namespace Keeps

theorem of_tim (dev : t.dev = s.dev) (time : t.time = s.time) (cycle : t.cycle = s.cycle) (tim : t.tim = s.tim)
    (reg : ∀ r i, r ∉ l → t.reg r i = s.reg r i) : Keeps s t l 0 :=
  ⟨dev, time, cycle, by rw [tim], fun h => by rw [tim]; exact (BitVec.add_zero _).symm, reg⟩

theorem refl (s : State) : Keeps s s [] 0 := of_tim rfl rfl rfl rfl fun _ _ _ => rfl

theorem trans (h : Keeps s t l d) (g : Keeps t u l' d') : Keeps s u (l ++ l') (d + d') where
  dev := g.dev.trans h.dev
  time := g.time.trans h.time
  cycle := g.cycle.trans h.cycle
  tim := by rw [g.tim, h.tim]
  seq k := by rw [g.seq, h.seq, BitVec.add_assoc]; rfl
  reg r i hr := by
    rw [List.mem_append, not_or] at hr
    exact (g.reg r i hr.2).trans (h.reg r i hr.1)

theorem mono (h : Keeps s t l d) (sub : l ⊆ l') : Keeps s t l' d :=
  { h with reg := fun r i hr => h.reg r i fun m => hr (sub m) }

theorem fld (h : Keeps s t l d) (f : Fld) (i : Nat) (hf : f.reg ∉ l) : t.fld f i = s.fld f i := by
  unfold State.fld
  rw [h.reg _ i hf]

theorem event (h : Keeps s t l d) {evt : Reg} {i b : Nat} (he : evt ∉ l) (hb : s.Event evt i b) : t.Event evt i b := by
  unfold State.Event
  rw [h.reg _ i he]
  exact hb

/-- A step that leaves the Time Pages alone, after and before another. -/
theorem still (h : Keeps s t l d) (g : Keeps t u l' 0) : Keeps s u (l ++ l') d := add_zero d ▸ h.trans g
theorem andThen (h : Keeps s t l 0) (g : Keeps t u l' d) : Keeps s u (l ++ l') d := zero_add d ▸ h.trans g

/-- Two steps that change the same registers. -/
theorem both (h : Keeps s t l d) (g : Keeps t u l 0) : Keeps s u l d := (h.still g).mono (by simp)

theorem foldl {A : Type} (f : State → A → State) (L : List A) (h : ∀ u, ∀ x ∈ L, Keeps u (f u x) l 0) (s : State) :
    Keeps s (L.foldl f s) l 0 := by
  induction L generalizing s with
  | nil => exact (refl s).mono (List.nil_subset _)
  | cons x L ih =>
    exact (h s x (by simp)).both (ih (fun u y hy => h u y (by simp [hy])) (f s x))

end Keeps

namespace Calm

theorem trans (h : Calm s t l d) (g : Calm t u l' d') : Calm s u (l ++ l') (d + d') where
  toKeeps := h.toKeeps.trans g.toKeeps
  quiet hs he := by
    obtain ⟨ht, hte⟩ := h.quiet hs he
    obtain ⟨hu, hue⟩ := g.quiet (by rw [ht]; exact hs) hte
    exact ⟨by rw [hu, ht], hue⟩

theorem mono (h : Calm s t l d) (sub : l ⊆ l') : Calm s t l' d := ⟨h.toKeeps.mono sub, h.quiet⟩

theorem pages (h : Calm s t l d) (e : ∀ k, d k = d' k) : Calm s t l d' := funext e ▸ h

/-- A step that leaves the Time Pages alone, after and before another. -/
theorem still (h : Calm s t l d) (g : Calm t u l' 0) : Calm s u (l ++ l') d := add_zero d ▸ h.trans g
theorem andThen (h : Calm s t l 0) (g : Calm t u l' d) : Calm s u (l ++ l') d := zero_add d ▸ h.trans g

/-- Signals, and registers of a list without TIM_TP_CTL. -/
theorem of_signals (h : s.OnlySignals t) (hr : ∀ r i, r ∉ l → t.reg r i = s.reg r i) (hl : .TIM_TP_CTL ∉ l) : Calm s t l 0 where
  toKeeps := by
    unfold State.OnlySignals at h
    exact .of_tim (by rw [h]) (by rw [h]) (by rw [h]) (by rw [h]) hr
  quiet _ he := by
    unfold State.OnlySignals at h
    refine ⟨h.trans (by rw [h]), ?_⟩
    unfold State.fld at he ⊢
    rwa [hr F.TIM_TP_CTL_EN.reg 0 hl]

theorem refl (s : State) : Calm s s [] 0 := .of_signals rfl (fun _ _ _ => rfl) (by simp)

end Calm

/-! ### Registers, events and boundaries -/

theorem calm_setReg (s : State) (r : Reg) (i : Nat) (w : Word) (h : r ≠ .TIM_TP_CTL) : Calm s (s.setReg r i w) [r] 0 :=
  .of_signals rfl (fun r' i' hr => s.reg_setReg_ne w (.inl (by simpa using hr))) (by simpa using h.symm)

theorem keeps_setReg (s : State) (r : Reg) (i : Nat) (w : Word) : Keeps s (s.setReg r i w) [r] 0 :=
  .of_tim rfl rfl rfl rfl fun r' i' hr => s.reg_setReg_ne w (.inl (by simpa using hr))

theorem calm_setFld (s : State) (f : Fld) (i v : Nat) (h : f.reg ≠ .TIM_TP_CTL) : Calm s (s.setFld f i v) [f.reg] 0 :=
  calm_setReg s f.reg i _ h

theorem keeps_setFld (s : State) (f : Fld) (i v : Nat) : Keeps s (s.setFld f i v) [f.reg] 0 := keeps_setReg s f.reg i _

theorem calm_mfVector (s : State) (v : Nat) : Calm s (s.mfVector v) [.HEP_DROP_CNT] 0 :=
  .of_signals (s.mfVector_frame v) (fun _ _ hr => s.reg_mfVector v (by simpa using hr)) (by simp)

theorem calm_setEvt (s : State) (evt en vec : Reg) (i b : Nat) (h : evt ≠ .TIM_TP_CTL) :
    Calm s (s.setEvt evt en vec i b) [evt, .HEP_DROP_CNT] 0 := by
  refine .of_signals (s.setEvt_frame evt en vec i b) (fun r j hr => ?_) (by simpa using h.symm)
  obtain ⟨h1, h2⟩ : r ≠ evt ∧ r ≠ .HEP_DROP_CNT := by simpa using hr
  exact s.reg_setEvt_ne h2 (.inl h1)

theorem calm_timEvt (s : State) (b : Nat) : Calm s (s.timEvt b) [.TIM_EVT, .HEP_DROP_CNT] 0 := calm_setEvt s _ _ _ _ _ (by decide)

/-- An event is recorded, and those recorded before stay so. -/
theorem event_timEvt (s : State) (b : Nat) (h : b < 64) : (s.timEvt b).Event .TIM_EVT 0 b := by
  unfold State.Event timEvt bitOf
  rw [s.reg_setEvt _ _ _ _ _ (by decide), BitVec.getLsbD_or, BitVec.getLsbD_shiftLeft]
  simp [h]

theorem event_timEvt_of (s : State) (b : Nat) {k : Nat} (h : s.Event .TIM_EVT 0 k) : (s.timEvt b).Event .TIM_EVT 0 k := by
  unfold State.Event timEvt bitOf at *
  rw [s.reg_setEvt _ _ _ _ _ (by decide), BitVec.getLsbD_or, h, Bool.true_or]

theorem reg_epoch_ne (s : State) (b : Boundary) {r r' : Reg} {i i' : Nat} (h : r' ≠ r) : (s.epoch b r i).reg r' i' = s.reg r' i' :=
  s.reg_setReg_ne _ (.inl h)

theorem keeps_epoch (s : State) (b : Boundary) (r : Reg) (i : Nat) : Keeps s (s.epoch b r i) [r] 0 :=
  .of_tim rfl rfl rfl rfl fun _ _ hr => reg_epoch_ne s b (by simpa using hr)

/-- Where no value waits, a boundary changes nothing that is read. -/
theorem onlyRegs_epoch (h : s.shadow = []) (b : Boundary) (r : Reg) (i : Nat) : s.OnlyRegs (s.epoch b r i) [] := by
  have hp : s.pend r i = {} := by unfold pend; rw [h]; rfl
  constructor
  · unfold epoch applyMask
    simp [hp, h, SMap.put, SMap.erase, setReg]
  · intro r' i' _
    by_cases e : r' = r ∧ i' = i
    · obtain ⟨rfl, rfl⟩ := e
      unfold epoch
      rw [reg_applyMask, hp]
      exact (congrArg (merge · _ _) BitVec.zero_and).trans (merge_zero _ _)
    · exact s.reg_setReg_ne _ (by tauto)

theorem calm_epoch (s : State) (b : Boundary) (r : Reg) (i : Nat) : Calm s (s.epoch b r i) [r] 0 where
  toKeeps := keeps_epoch s b r i
  quiet hs he := by
    obtain ⟨hf, hr⟩ := onlyRegs_epoch hs b r i
    refine ⟨hf, ?_⟩
    unfold State.fld at he ⊢
    rwa [hr _ _ (by simp)]

/-! ### Time Pages (R346, R350) -/

/-- A posted write of a function itself waits, or goes out, or is dropped. -/
theorem issuePiece_posted (s : State) {j : Job} (p : Part) (hs : j.span = none) (hw : j.write = true) (hd : j.dep = .other) :
    s.issuePiece j p = .hold ∨ ∃ t, s.issuePiece j p = .out t ∧ Keeps s t [.HEP_DROP_CNT, .HEP_POISON_CNT] 0 := by
  have emitted (u : State) (o : Out) (l : List Reg) : Keeps u (u.emit o) l 0 := .of_tim rfl rfl rfl rfl fun _ _ _ => rfl
  unfold issuePiece
  simp only [hs, hw, hd]
  split
  · exact .inl rfl
  · split
    · exact .inr ⟨_, rfl, (keeps_setFld s F.HEP_DROP_CNT_COUNT 0 _).mono (by simp [F.HEP_DROP_CNT_COUNT])⟩
    · split
      · exact .inl rfl
      · refine .inr ⟨_, rfl, ?_⟩
        unfold sendWrite
        split
        · exact (keeps_setFld s F.HEP_DROP_CNT_COUNT 0 _).mono (by simp [F.HEP_DROP_CNT_COUNT])
        · split
          · exact (Keeps.refl s).mono (List.nil_subset _)
          · refine .both ?_ (emitted _ _ _)
            split
            · exact (keeps_setFld s F.HEP_POISON_CNT_OUT 0 _).mono (by simp [F.HEP_POISON_CNT_OUT])
            · exact (Keeps.refl s).mono (List.nil_subset _)

theorem keeps_runParts (s : State) (j : Job) (L : List Part) (hs : j.span = none) (hw : j.write = true) (hd : j.dep = .other) :
    Keeps s (s.runParts j L) [.HEP_DROP_CNT, .HEP_POISON_CNT] 0 := by
  induction L generalizing s j with
  | nil => exact (Keeps.refl s).mono (List.nil_subset _)
  | cons p L ih =>
    rcases issuePiece_posted s p hs hw hd with e | ⟨t, e, ht⟩
    · rw [runParts, e]
      exact .of_tim rfl rfl rfl rfl fun _ _ _ => rfl
    · rw [runParts, e]
      simp only [hw, hd, depWritten]
      exact ht.both (ih t _ hs rfl rfl)

/-- The registers that a Time Page's update can change. -/
def pageRegs : List Reg := [.TIM_TP_CTL, .TIM_TP_ADDR, .HEP_DROP_CNT, .HEP_POISON_CNT]

/-- The SEQ of host `h` goes up by 2. -/
def pageOf (h : Nat) : Nat → BitVec 32 := fun k => if k = h then 2 else 0

/-- A Time Page is built from the state at its boundary, with its own two SEQs. -/
def atPage (s : State) (h : Link) : State := (s.epoch .pageUpdate .TIM_TP_CTL 0).epoch .pageUpdate .TIM_TP_ADDR h.val

theorem calm_atPage (s : State) (h : Link) : Calm s (atPage s h) [.TIM_TP_CTL, .TIM_TP_ADDR] 0 :=
  (calm_epoch s .pageUpdate .TIM_TP_CTL 0).still (calm_epoch _ .pageUpdate .TIM_TP_ADDR h.val)

/-- The mirror of host `h` is brought up to date. -/
def mirrored (s : State) (h : Link) : State :=
  s.setTim { s.tim with
    seqs := SMap.put 0 s.tim.seqs h.val (SMap.get 0 s.tim.seqs h.val + 1 + 1)
    pages := SMap.put [] s.tim.pages h.val (s.pageBytes h.val (SMap.get 0 s.tim.seqs h.val + 1 + 1)) }

theorem calm_mirrored (s : State) (h : Link) : Calm s (mirrored s h) [] (pageOf h.val) where
  dev := rfl
  time := rfl
  cycle := rfl
  tim := rfl
  seq k := by
    change SMap.get 0 (SMap.put 0 s.tim.seqs h.val _) k = _
    rw [SMap.get_put]
    unfold pageOf
    split
    · next e => rw [e, BitVec.add_assoc]; rfl
    · exact (BitVec.add_zero _).symm
  reg _ _ _ := rfl
  quiet _ he := ⟨rfl, he⟩

/-- The update is the mirror's, and a posted job where the page is enabled. -/
theorem pageUpdate_cases (s : State) (h : Link) :
    s.pageUpdate h = mirrored (atPage s h) h ∨
    ((mirrored (atPage s h) h).fld F.TIM_TP_CTL_EN 0 / 2 ^ h.val % 2 ≠ 0 ∧
      ∃ j, s.pageUpdate h = (mirrored (atPage s h) h).runJob j ∧ j.span = none ∧ j.write = true ∧ j.dep = .other) := by
  unfold pageUpdate
  dsimp only
  split
  · exact .inl rfl
  · next hn => 
    refine .inr ⟨fun e => hn ?_, _, rfl, rfl, rfl, rfl⟩
    rw [Bool.or_eq_true, beq_iff_eq]
    exact .inr e

theorem calm_pageUpdate (s : State) (h : Link) : Calm s (s.pageUpdate h) pageRegs (pageOf h.val) := by
  have page : Calm s (mirrored (atPage s h) h) [.TIM_TP_CTL, .TIM_TP_ADDR] (pageOf h.val) := (calm_atPage s h).andThen (calm_mirrored _ h)
  rcases pageUpdate_cases s h with e | ⟨en, j, e, hs, hw, hd⟩
  · rw [e]
    exact page.mono (by decide)
  · refine ⟨?_, fun hsh he => absurd ?_ en⟩
    · rw [e]
      exact page.toKeeps.still (keeps_runParts _ j j.parts hs hw hd)
    · rw [(page.quiet hsh he).2]
      simp

/-- Every page of a list of hosts goes on by its two SEQs. -/
theorem calm_pageUpdates (L : List Link) (hL : L.Nodup) (s : State) :
    Calm s (L.foldl pageUpdate s) pageRegs fun k => if k ∈ L.map Fin.val then 2 else 0 := by
  induction L generalizing s with
  | nil => exact (Calm.refl s).mono (List.nil_subset _)
  | cons h L ih =>
    obtain ⟨hh, hL⟩ := List.nodup_cons.1 hL
    refine (((calm_pageUpdate s h).trans (ih hL (s.pageUpdate h))).mono (l' := pageRegs) (by simp)).pages fun k => ?_
    by_cases e : k = h.val
    · subst e
      have apart : ∀ x ∈ L, ¬x.val = h.val := fun x hx e => hh (Fin.ext e ▸ hx)
      simpa [pageOf] using apart
    · simp [pageOf, e]

/-- The SEQ of every host's page goes up by 2. -/
def allPages : Nat → BitVec 32 := fun k => if k < 8 then 2 else 0

theorem calm_allPages (s : State) : Calm s ((List.finRange 8).foldl pageUpdate s) pageRegs allPages :=
  (calm_pageUpdates (List.finRange 8) (List.nodup_finRange 8) s).pages fun k => by simp [allPages]

/-! ### Traceability (R334, R335, R353) -/

/-- A change to another state updates every page; none does nothing. -/
def changePages (was v : Nat) : Nat → BitVec 32 := if was = v then 0 else allPages

theorem calm_setTimState (s : State) (v : Nat) :
    Calm s (s.setTimState v) (.TIM_STATE :: .TIM_EVT :: pageRegs) (changePages s.timState v) := by
  unfold setTimState changePages
  split
  · exact (Calm.refl s).mono (List.nil_subset _)
  · have changed := (calm_setFld s F.TIM_STATE_STATE 0 v (by decide)).still (calm_timEvt _ 0)
    exact (changed.andThen (calm_allPages _)).mono (by decide)

theorem timState_setTimState (s : State) {v : Nat} (hv : v < 4) : (s.setTimState v).timState = v := by
  unfold setTimState
  split
  · assumption
  · unfold State.timState
    rw [(calm_allPages _).fld F.TIM_STATE_STATE 0 (by decide), (calm_timEvt _ 0).fld F.TIM_STATE_STATE 0 (by decide),
      fld_setFld _ _ _ _ (by decide)]
    exact Nat.mod_eq_of_lt hv

theorem event_setTimState (s : State) {v : Nat} (h : s.timState ≠ v) : (s.setTimState v).Event .TIM_EVT 0 0 := by
  unfold setTimState
  rw [if_neg h]
  exact (calm_allPages _).event (by decide) (event_timEvt _ 0 (by decide))

/-! ### Fault events (R462, R464, R465) -/

/-- The registers that a fault event can change. -/
def captureRegs : List Reg := [.FCU_CNT, .FCU_CAP, .FCU_DETAIL, .FCU_TIME, .FCU_EVT, .HEP_DROP_CNT, .FCU_PIN]

theorem calm_startPulse (s : State) : Calm s s.startPulse [.FCU_PIN] 0 :=
  ((calm_epoch s .faultPulse .FCU_PIN 0).still (calm_setFld _ F.FCU_PIN_PULSE 0 1 (by decide))).mono (by decide)

/-- A fault event's record in the capture registers of its class, and the event (R464). -/
def record (s : State) (i : Nat) (e : FaultEv) : State :=
  (((((((s.setReg .FCU_DETAIL i e.detail).setReg .FCU_TIME i s.wide).setFld F.FCU_CAP_SOURCE i e.source.toNat).setFld
    F.FCU_CAP_CODE i e.code.toNat).setFld F.FCU_CAP_VALID i 1).setEvt .FCU_EVT .FCU_EVT_EN .FCU_MSIX_VEC 0 i))

theorem calm_record (s : State) (i : Nat) (e : FaultEv) : Calm s (record s i e) captureRegs.tail 0 :=
  ((calm_setReg s .FCU_DETAIL i e.detail (by decide)).still
    ((calm_setReg _ .FCU_TIME i s.wide (by decide)).still
      ((calm_setFld _ F.FCU_CAP_SOURCE i e.source.toNat (by decide)).still
        ((calm_setFld _ F.FCU_CAP_CODE i e.code.toNat (by decide)).still
          ((calm_setFld _ F.FCU_CAP_VALID i 1 (by decide)).still
            (calm_setEvt _ .FCU_EVT .FCU_EVT_EN .FCU_MSIX_VEC 0 i (by decide))))))).mono (by decide)

/-- What a fault event does after it has been counted. -/
theorem calm_capture (s : State) (c : FaultClass) (e : FaultEv) :
    Calm (s.bump F.FCU_CNT_COUNT (classIdx c)) (s.capture c e) captureRegs.tail 0 := by
  have first := calm_record (s.bump F.FCU_CNT_COUNT (classIdx c)) (classIdx c) e
  unfold capture
  dsimp only
  split
  · exact (calm_setFld _ F.FCU_CAP_OVF _ 1 (by decide)).mono (by decide)
  · cases c with
    | ce => exact first
    | ucc => exact (first.still (calm_startPulse _)).mono (by decide)
    | fat => exact (first.still (calm_startPulse _)).mono (by decide)

theorem calm_raise (s : State) (source code detail : Nat) : Calm s (s.raise source code detail) captureRegs 0 := by
  unfold raise faultEv
  split
  · exact (Calm.refl s).mono (List.nil_subset _)
  · split
    · next c _ => exact ((calm_setFld s F.FCU_CNT_COUNT (classIdx c) _ (by decide)).still (calm_capture s c _)).mono (by decide)
    · exact (Calm.refl s).mono (List.nil_subset _)

theorem satAdd_one (w v : Nat) : satAdd w v 1 = min (v + 1) (2 ^ w - 1) := by
  unfold satAdd
  split <;> omega

/-- A field that has been counted up by one. -/
theorem fld_bump (s : State) (f : Fld) (i : Nat) (h : f.lo + f.width ≤ 64) :
    (s.bump f i).fld f i = satAdd f.width (s.fld f i) 1 := by
  have pos := Nat.two_pow_pos f.width
  have lt : satAdd f.width (s.fld f i) 1 < 2 ^ f.width := by rw [satAdd_one]; omega
  unfold bump
  rw [fld_setFld _ _ _ _ h, Nat.mod_eq_of_lt lt]

/-- A fault event of a pair that the table of R461 holds is counted under its class. -/
theorem fld_raise_count (s : State) (source code detail : Nat) {c : FaultClass} (hs : s.coreOff = false)
    (hc : faultClass (BitVec.ofNat 8 source) (BitVec.ofNat 8 code) = some c) :
    (s.raise source code detail).fld F.FCU_CNT_COUNT (classIdx c) = min (s.fld F.FCU_CNT_COUNT (classIdx c) + 1) 0xFFFFFFFF := by
  unfold raise faultEv
  simp only [hs, hc, Bool.false_eq_true, ↓reduceIte]
  rw [(calm_capture s c _).fld F.FCU_CNT_COUNT _ (by decide), fld_bump _ _ _ (by decide)]
  exact satAdd_one _ _

/-! ### Events that come together (R533) -/

/-- Events that come together are those of the same change, from a state whose EVT_EN may read 0 for its time. -/
theorem timTogether_cases (s : State) (f : State → State) :
    ∃ u, Calm s u [.TIM_EVT_EN] 0 ∧ Calm (f u) (s.timTogether f) [.TIM_EVT_EN, .HEP_DROP_CNT] 0 := by
  unfold timTogether evtTogether
  dsimp only
  split
  · exact ⟨s, (Calm.refl s).mono (List.nil_subset _), (Calm.refl _).mono (List.nil_subset _)⟩
  · exact ⟨s.setReg .TIM_EVT_EN 0 0, calm_setReg s _ _ _ (by decide), (calm_setReg _ _ _ _ (by decide)).still (calm_mfVector _ _)⟩

/-! ### What a change of the traceability records -/

/-- Every host's page goes on by two SEQs with a change to state `v`, and by none without one. -/
def Paged (s t : State) (v : Nat) : Prop :=
  ∀ h, h < 8 → SMap.get 0 t.tim.seqs h = SMap.get 0 s.tim.seqs h + (if s.timState = v then 0 else 2)

/-- The pages go on; and where no value waits and no page is sent, nothing differs but what a vector changes and the time unit. -/
def Quiet (s t : State) (v : Nat) : Prop :=
  Paged s t v ∧ (s.shadow = [] → s.fld F.TIM_TP_CTL_EN 0 = 0 → s.OnlySignals { t with tim := s.tim })

/-- The state is `v`, and a change to it has been recorded. -/
def Moved (s t : State) (v : Nat) : Prop := t.timState = v ∧ (s.timState ≠ v → t.Event .TIM_EVT 0 0)

theorem paged_of_keeps {v : Nat} (h : Keeps s t l (changePages s.timState v)) : Paged s t v := by
  intro k hk
  rw [h.seq]
  unfold changePages allPages
  split <;> simp [hk]

/-- A change of the traceability after the time unit has taken the values of `y`. -/
theorem quiet_of_calm {v : Nat} {y : Tim} (hy : y.seqs = s.tim.seqs) (h : Calm (s.setTim y) t l (changePages s.timState v)) :
    Quiet s t v ∧ t.tim = { y with seqs := t.tim.seqs, pages := t.tim.pages } := by
  refine ⟨⟨fun k hk => ?_, fun hs he => ?_⟩, h.tim⟩
  · rw [← hy]
    exact paged_of_keeps h.toKeeps k hk
  · exact congrArg (fun u : State => { u with tim := s.tim }) (h.quiet hs he).1

theorem moved_setTimState (s : State) (y : Tim) {v : Nat} (hv : v < 4) : Moved s ((s.setTim y).setTimState v) v :=
  ⟨timState_setTimState _ hv, fun h => event_setTimState (s.setTim y) h⟩

/-! ### Adjustment commands (R326–R328) -/

/-- The owner's write goes on where it reaches its register at once. -/
theorem adjOn_owner {v : Bool} {r : Reg} (hv : s.flag F.TIM_CTL_ADJ_OWNER 0 = v) (hr : v = false → s.regOpen r 0 = true)
    (w : Word) (f : State → State) : s.adjOn v r w f = f s := by
  have mine : s.adjBy v f = f s := by unfold adjBy; simp [hv]
  unfold adjOn
  cases v with
  | true => exact mine
  | false => exact (s.onReg_open r 0 w _ (hr rfl)).trans mine

/-- The other party's write is dropped and counted. -/
theorem adjOn_other {v : Bool} {r : Reg} (hv : ¬s.flag F.TIM_CTL_ADJ_OWNER 0 = v) (hr : v = false → s.regOpen r 0 = true)
    (w : Word) (f : State → State) :
    s.adjOn v r w f = s.bump (if v then F.TIM_ADJ_DROP_SERVO else F.TIM_ADJ_DROP_MF) 0 := by
  have drop : s.adjBy v f = s.bump (if v then F.TIM_ADJ_DROP_SERVO else F.TIM_ADJ_DROP_MF) 0 := by unfold adjBy; simp [hv]
  unfold adjOn
  cases v with
  | true => exact drop
  | false => exact (s.onReg_open r 0 w _ (hr rfl)).trans drop

theorem ne_of_not_listed {r r' : Reg} {i i' : Nat} (h : (r, i) ∉ [(r', i')]) : r ≠ r' ∨ i ≠ i' := by
  rw [List.mem_singleton, Prod.mk.injEq] at h
  tauto

/-- A dropped write is counted, once, for the party that made it. -/
theorem drop_counted (s : State) (v : Bool) :
    let f := if v then F.TIM_ADJ_DROP_SERVO else F.TIM_ADJ_DROP_MF
    s.OnlyRegs (s.bump f 0) [(.TIM_ADJ_DROP, 0)] ∧ (s.bump f 0).fld f 0 = satAdd f.width (s.fld f 0) 1 := by
  intro f
  have reg : f.reg = .TIM_ADJ_DROP := by cases v <;> rfl
  have fits : f.lo + f.width ≤ 64 := by cases v <;> decide
  exact ⟨⟨rfl, fun r i h => s.reg_setFld_ne _ (reg.symm ▸ ne_of_not_listed h)⟩, fld_bump s f 0 fits⟩

/-- A command of the party that does not own the adjustment. -/
theorem exec_other {v : Bool} (q : Seq) (off : BitVec 32) (req : BitVec 2) (hv : ¬s.flag F.TIM_CTL_ADJ_OWNER 0 = v)
    (hc : v = false → s.regOpen .TIM_ADJ_CMD 0 = true) (hu : v = false → s.regOpen .TIM_SERVO_UPD 0 = true)
    {c : Instr} (hmem : c ∈ [Instr.stepTime v q, .setTime v q, .slew v q, .slewAbort v q, .timServoUpd v off req]) :
    exec c s = .next (s.bump (if v then F.TIM_ADJ_DROP_SERVO else F.TIM_ADJ_DROP_MF) 0) := by
  simp only [List.mem_cons, List.not_mem_nil, or_false] at hmem
  rcases hmem with rfl | rfl | rfl | rfl | rfl
  · exact congrArg Host.Outcome.next (adjOn_other hv hc _ _)
  · exact congrArg Host.Outcome.next (adjOn_other hv hc _ _)
  · exact congrArg Host.Outcome.next (adjOn_other hv hc _ _)
  · exact congrArg Host.Outcome.next (adjOn_other hv hc _ _)
  · exact congrArg Host.Outcome.next (adjOn_other hv hu _ _)

/-- The owner's SLEW joins the commands that wait for their tick. -/
theorem exec_slew_owner {v : Bool} (q : Seq) (hv : s.flag F.TIM_CTL_ADJ_OWNER 0 = v)
    (hc : v = false → s.regOpen .TIM_ADJ_CMD 0 = true) (hs : s.shadow = []) :
    ∃ t, exec (.slew v q) s = .next t ∧ s.OnlyRegs { t with tim := s.tim } [] ∧
      t.tim.adj = s.tim.adj ++ [(4, .slew (s.reg .TIM_ADJ_ARG 0) (s.fld F.TIM_SLEW_TICKS_TICKS 0) q)] := by
  obtain ⟨frame, same⟩ := onlyRegs_epoch hs .slew .TIM_SLEW_TICKS 0
  refine ⟨_, congrArg Host.Outcome.next (adjOn_owner hv hc _ _), ⟨?_, same⟩, ?_⟩
  · exact congrArg (fun u : State => { u with tim := s.tim }) frame
  · change s.tim.adj ++ [(4, .slew ((s.epoch .slew .TIM_SLEW_TICKS 0).reg .TIM_ADJ_ARG 0)
      (getBits ((s.epoch .slew .TIM_SLEW_TICKS 0).reg .TIM_SLEW_TICKS 0) _ _) q)] = _
    rw [same _ _ (by simp), same _ _ (by simp)]
    rfl

/-! ### TIM_SERVO_UPD (R334, R547) -/

/-- The time unit takes the values of `y` and goes to state `v`. -/
theorem settled (s : State) {y : Tim} {v : Nat} (hy : y.seqs = s.tim.seqs) (hv : v < 4) :
    let t := (s.setTim y).setTimState v
    Quiet s t v ∧ Moved s t v ∧ t.tim = { y with seqs := t.tim.seqs, pages := t.tim.pages } := by
  obtain ⟨quiet, tim⟩ := quiet_of_calm hy (calm_setTimState (s.setTim y) v)
  exact ⟨quiet, moved_setTimState s y hv, tim⟩

/-- SERVO takes the offset of an update. -/
def servoTaken (s : State) (off : BitVec 32) : State := s.setTim { s.tim with servoPs := min off.toNat 0xFFFFFFFE }

/-- The owner's update by STATE_REQ: 1 locks, 3 ends the traceability, and from LOCKED 0 goes on and 2 holds over. -/
theorem exec_servo_owner {v : Bool} (off : BitVec 32) (req : BitVec 2) (hv : s.flag F.TIM_CTL_ADJ_OWNER 0 = v)
    (hr : v = false → s.regOpen .TIM_SERVO_UPD 0 = true) :
    exec (.timServoUpd v off req) s = .next (
      if req = 1 then (servoTaken s off).setTimState 1
      else if req = 3 then s.setTimState 0
      else if s.timState ≠ 1 then s
      else if req = 2 then (servoTaken s off).toHoldover
      else servoTaken s off) := by
  refine congrArg Host.Outcome.next ((adjOn_owner hv hr _ _).trans ?_)
  have cases4 : req = 0 ∨ req = 1 ∨ req = 2 ∨ req = 3 := by revert req; decide
  rcases cases4 with rfl | rfl | rfl | rfl
  · by_cases h : s.timState = 1
    · simp [h, servoTaken]
    · simp [h]
  · rfl
  · by_cases h : s.timState = 1
    · simp [h, servoTaken]
    · simp [h]
  · rfl

/-! ### Changes of state that are reported (R334, R353, R461) -/

theorem Keeps.coreOff (h : Keeps s t l d) : t.coreOff = s.coreOff := by unfold State.coreOff; rw [h.dev]

theorem Keeps.wide (h : Keeps s t l d) : t.wide = s.wide := by unfold State.wide; rw [h.time]

/-- An event of the time unit, and a fault event of source 0x03. -/
def reported (s : State) (b code detail : Nat) : State := (s.timEvt b).raise 0x03 code detail

theorem calm_reported (s : State) (b code detail : Nat) : Calm s (reported s b code detail) (.TIM_EVT :: captureRegs) 0 :=
  ((calm_timEvt s b).still (calm_raise _ 0x03 code detail)).mono (by decide)

theorem event_reported (s : State) {b : Nat} (code detail : Nat) (h : b < 64) : (reported s b code detail).Event .TIM_EVT 0 b :=
  (calm_raise _ 0x03 code detail).event (by decide) (event_timEvt s b h)

theorem event_reported_of (b code detail : Nat) {k : Nat} (h : s.Event .TIM_EVT 0 k) : (reported s b code detail).Event .TIM_EVT 0 k :=
  (calm_raise _ 0x03 code detail).event (by decide) (event_timEvt_of s b h)

/-- A change `g` whose event and fault event come together: what is left of it, and that it is recorded and counted. -/
theorem timTogether_reported (s : State) (g : State → State) {b code : Nat} (detail : Nat) {c : FaultClass} (hb : b < 64)
    (hc : faultClass 0x03 (BitVec.ofNat 8 code) = some c) :
    let t := s.timTogether fun w => reported (g w) b code detail
    ∃ u, Calm s u [.TIM_EVT_EN] 0 ∧ Calm (g u) t (.TIM_EVT_EN :: .TIM_EVT :: captureRegs) 0 ∧ t.Event .TIM_EVT 0 b ∧
      (∀ k, (g u).Event .TIM_EVT 0 k → t.Event .TIM_EVT 0 k) ∧
      ((g u).coreOff = false →
        t.fld F.FCU_CNT_COUNT (classIdx c) = min ((g u).fld F.FCU_CNT_COUNT (classIdx c) + 1) 0xFFFFFFFF) := by
  obtain ⟨u, hu, ht⟩ := timTogether_cases s fun w => reported (g w) b code detail
  refine ⟨u, hu, ((calm_reported (g u) b code detail).still ht).mono (by decide), ht.event (by decide) (event_reported _ _ _ hb),
    fun k hk => ht.event (by decide) (event_reported_of b code detail hk), fun hoff => ?_⟩
  have evt := calm_timEvt (g u) b
  refine (ht.fld F.FCU_CNT_COUNT _ (by decide)).trans ?_
  unfold reported
  rw [fld_raise_count _ _ _ _ (evt.coreOff.trans hoff) hc, evt.fld F.FCU_CNT_COUNT _ (by decide)]

/-- HOLD_START takes the present time. -/
def holdFrom (s : State) : State := s.setTim { s.tim with holdStart := s.wide }

theorem calm_holdFrom (h : Calm s u l 0) : Calm (holdFrom s) (holdFrom u) l 0 where
  dev := h.dev
  time := h.time
  cycle := h.cycle
  seq := h.seq
  reg := h.reg
  tim := by
    unfold holdFrom setTim
    simp only [h.wide]
    rw [h.tim]
  quiet hs he :=
    ⟨congrArg (fun w : State => { w with tim := { u.tim with holdStart := u.wide } }) (h.quiet hs he).1, (h.quiet hs he).2⟩

/-- WATCHDOG in LOCKED: HOLDOVER from the present time, its event, and its fault event. -/
theorem exec_watchdog_locked (h1 : s.timState = 1) : ∃ t, exec .watchdog s = .next t ∧ Quiet s t 2 ∧ Moved s t 2 ∧
    t.tim = { s.tim with holdStart := s.wide, seqs := t.tim.seqs, pages := t.tim.pages } ∧ t.Event .TIM_EVT 0 1 ∧
    (s.coreOff = false → t.fld F.FCU_CNT_COUNT 0 = min (s.fld F.FCU_CNT_COUNT 0 + 1) 0xFFFFFFFF) := by
  obtain ⟨u, hu, ht, event, events, count⟩ :=
    timTogether_reported s (fun w => (holdFrom w).setTimState 2) (b := 1) (code := 0x01) 0 (by decide) (c := .ce) rfl
  have was : (holdFrom u).timState = s.timState := hu.fld F.TIM_STATE_STATE 0 (by decide)
  have change := (calm_holdFrom hu).andThen (calm_setTimState (holdFrom u) 2)
  rw [was] at change
  obtain ⟨quiet, tim⟩ := quiet_of_calm (s := s) (y := (holdFrom s).tim) rfl (change.still ht)
  refine ⟨_, congrArg Host.Outcome.next (if_pos h1), quiet, ⟨?_, fun _ => ?_⟩, tim, event, fun hc => ?_⟩
  · exact (ht.fld F.TIM_STATE_STATE 0 (by decide)).trans (timState_setTimState _ (by decide))
  · exact events 0 (event_setTimState _ (by rw [was, h1]; decide))
  · have before : _ = s.fld F.FCU_CNT_COUNT 0 := change.fld F.FCU_CNT_COUNT 0 (by decide)
    exact (count (change.coreOff.trans hc)).trans (congrArg (fun n => min (n + 1) _) before)

/-- COUNTER_FAULT: FREE_RUN, its event and its fault event, and its count. -/
theorem exec_counterFault_count (s : State) : ∃ t, exec .counterFault s = .next t ∧ Moved s t 0 ∧ Paged s t 0 ∧ t.Event .TIM_EVT 0 8 ∧
    (s.coreOff = false → t.fld F.FCU_CNT_COUNT 1 = min (s.fld F.FCU_CNT_COUNT 1 + 1) 0xFFFFFFFF) ∧
    t.fld F.TIM_ERR_CNT_COMPARE 0 = min (s.fld F.TIM_ERR_CNT_COMPARE 0 + 1) 0xFFFFFFFF := by
  obtain ⟨u, hu, ht, event, events, count⟩ :=
    timTogether_reported s (fun w => (w.setTimState 0).bump F.TIM_ERR_CNT_COMPARE 0) (b := 8) (code := 0x03) 0 (by decide) (c := .ucc) rfl
  have was : u.timState = s.timState := hu.fld F.TIM_STATE_STATE 0 (by decide)
  have change := hu.andThen (calm_setTimState u 0)
  have bump := calm_setFld (u.setTimState 0) F.TIM_ERR_CNT_COMPARE 0 (satAdd 32 ((u.setTimState 0).fld F.TIM_ERR_CNT_COMPARE 0) 1) (by decide)
  have all := change.still bump
  rw [was] at all
  refine ⟨_, rfl, ⟨?_, fun h => ?_⟩, paged_of_keeps (all.still ht).toKeeps, event, fun hc => ?_, ?_⟩
  · exact (ht.fld F.TIM_STATE_STATE 0 (by decide)).trans
      ((bump.fld F.TIM_STATE_STATE 0 (by decide)).trans (timState_setTimState _ (by decide)))
  · exact events 0 (bump.event (by decide) (event_setTimState _ (by rwa [was])))
  · have before : _ = s.fld F.FCU_CNT_COUNT 1 := all.fld F.FCU_CNT_COUNT 1 (by decide)
    exact (count (all.coreOff.trans hc)).trans (congrArg (fun n => min (n + 1) _) before)
  · refine (ht.fld F.TIM_ERR_CNT_COMPARE 0 (by decide)).trans ((fld_bump _ _ _ (by decide)).trans ((satAdd_one _ _).trans ?_))
    exact congrArg (fun n => min (n + 1) _) (change.fld F.TIM_ERR_CNT_COMPARE 0 (by decide))

/-! ### Leap seconds (R336) -/

/-- The leap's registers, set and cleared. -/
def leapSet (s : State) : State :=
  ((s.setFld F.TIM_LEAP_UTC_OFFSET 0 (s.fld F.TIM_LEAP_UTC_OFFSET 0 + if s.fld F.TIM_LEAP_LEAP 0 = 1 then 1 else 65535)).setFld
    F.TIM_LEAP_LEAP 0 0).setFld F.TIM_LEAP_TIME_SEC 0 0

theorem exec_leapDone_due (h : s.fld F.TIM_LEAP_LEAP 0 = 1 ∨ s.fld F.TIM_LEAP_LEAP 0 = 2)
    (ht : s.fld F.TIM_LEAP_TIME_SEC 0 ≤ s.wide.toNat / 10 ^ 9) :
    exec .leapDone s = .next ((List.finRange 8).foldl pageUpdate ((leapSet s).timEvt 7)) := by
  have due : ¬(s.fld F.TIM_LEAP_LEAP 0 = 0 ∨ s.wide.toNat / 10 ^ 9 < s.fld F.TIM_LEAP_TIME_SEC 0) := by omega
  refine congrArg Host.Outcome.next ((if_neg due).trans ?_)
  unfold leapSet
  split <;> rfl

theorem leapSet_fields (s : State) :
    (leapSet s).fld F.TIM_LEAP_UTC_OFFSET 0 =
      (s.fld F.TIM_LEAP_UTC_OFFSET 0 + if s.fld F.TIM_LEAP_LEAP 0 = 1 then 1 else 65535) % 65536 ∧
    (leapSet s).fld F.TIM_LEAP_LEAP 0 = 0 ∧ (leapSet s).fld F.TIM_LEAP_TIME_SEC 0 = 0 := by
  unfold leapSet
  refine ⟨?_, ?_, fld_setFld _ _ _ _ (by decide)⟩
  · rw [fld_setFld_ne _ _ (by decide) (by decide), fld_setFld_ne _ _ (by decide) (by decide), fld_setFld _ _ _ _ (by decide)]
    rfl
  · rw [fld_setFld_ne _ _ (by decide) (by decide), fld_setFld _ _ _ _ (by decide)]
    rfl

theorem exec_leapDone_applies (h : s.fld F.TIM_LEAP_LEAP 0 = 1 ∨ s.fld F.TIM_LEAP_LEAP 0 = 2)
    (ht : s.fld F.TIM_LEAP_TIME_SEC 0 ≤ s.wide.toNat / 10 ^ 9) : ∃ t, exec .leapDone s = .next t ∧
    t.fld F.TIM_LEAP_UTC_OFFSET 0 = (s.fld F.TIM_LEAP_UTC_OFFSET 0 + if s.fld F.TIM_LEAP_LEAP 0 = 1 then 1 else 65535) % 65536 ∧
    t.fld F.TIM_LEAP_LEAP 0 = 0 ∧ t.fld F.TIM_LEAP_TIME_SEC 0 = 0 ∧ t.Event .TIM_EVT 0 7 ∧
    ∀ k, k < 8 → SMap.get 0 t.tim.seqs k = SMap.get 0 s.tim.seqs k + 2 := by
  obtain ⟨utc, leap, sec⟩ := leapSet_fields s
  have pages := calm_allPages ((leapSet s).timEvt 7)
  have evt := calm_timEvt (leapSet s) 7
  have later := evt.andThen pages
  refine ⟨_, exec_leapDone_due h ht, ?_, ?_, ?_, pages.event (by decide) (event_timEvt _ 7 (by decide)), fun k hk => ?_⟩
  · exact (later.fld F.TIM_LEAP_UTC_OFFSET 0 (by decide)).trans utc
  · exact (later.fld F.TIM_LEAP_LEAP 0 (by decide)).trans leap
  · exact (later.fld F.TIM_LEAP_TIME_SEC 0 (by decide)).trans sec
  · refine (later.seq k).trans ?_
    rw [allPages, if_pos hk]
    rfl

/-! ### The bound at a refill tick (R334, R335) -/

/-- The registers that the schedulers' and the slow paths' part of a refill tick can change. -/
def refillRegs : List Reg :=
  [.TMS_TICK, .TMS_NODE_CIR, .TMS_NODE_PIR, .TMS_POL_CIR, .TMS_POL_PIR, .CLS_SP_RATE, .TBL_LEARN_CFG, .CLS_SP_TOKENS]

theorem keeps_two_epochs (s : State) (b : Boundary) (r r' : Reg) (i : Nat) : Keeps s ((s.epoch b r i).epoch b r' i) [r, r'] 0 :=
  (keeps_epoch s b r i).still (keeps_epoch _ b r' i)

theorem keeps_refillNode (s : State) (k : Nat) (port : Bool) : Keeps s (s.refillNode k port) refillRegs 0 := by
  have setNode (u : State) (x : TmsNode) : Keeps u (u.setNode k x) [] 0 := .of_tim rfl rfl rfl rfl fun _ _ _ => rfl
  exact ((keeps_two_epochs s .tick .TMS_NODE_CIR .TMS_NODE_PIR k).still (setNode _ _)).mono (by decide)

theorem keeps_refillPol (s : State) (k : Nat) : Keeps s (s.refillPol k) refillRegs 0 := by
  have setPol (u : State) (x : Pol) : Keeps u (u.setPol k x) [] 0 := .of_tim rfl rfl rfl rfl fun _ _ _ => rfl
  exact ((keeps_two_epochs s .tick .TMS_POL_CIR .TMS_POL_PIR k).still (setPol _ _)).mono (by decide)

theorem keeps_tmsTick (s : State) : Keeps s s.tmsTick refillRegs 0 := by
  unfold tmsTick
  refine .both (.both ((keeps_setFld s F.TMS_TICK_COUNT 0 _).mono (by decide)) (.foldl _ _ (fun u p _ => ?_) _))
    (.foldl _ _ (fun u k _ => keeps_refillPol u k) _)
  dsimp only
  split
  · exact (Keeps.refl u).mono (List.nil_subset _)
  · refine .both (.foldl _ _ (fun u i _ => keeps_refillNode u _ true) _) (.foldl _ _ (fun u n _ => ?_) _)
    split
    · exact (Keeps.refl u).mono (List.nil_subset _)
    · exact keeps_refillNode u _ false

/-- The slow path's and the learning bucket of a Pier at a refill tick. -/
def slowRefill (s : State) (p : Nat) : State :=
  let u := (s.epoch .slowRefill .CLS_SP_RATE p).epoch .slowRefill .TBL_LEARN_CFG p
  let u := u.setFld F.CLS_SP_TOKENS_TOKENS p
    (min (u.fld F.CLS_SP_TOKENS_TOKENS p + u.fld F.CLS_SP_RATE_RATE p) (256 * u.fld F.CLS_SP_BURST_BURST p))
  { u with learnUsed := SMap.put 0 u.learnUsed p (SMap.get 0 u.learnUsed p - u.fld F.TBL_LEARN_CFG_RATE p) }

theorem keeps_slowRefill (s : State) (p : Nat) : Keeps s (slowRefill s p) refillRegs 0 := by
  have learn (u : State) (m : SMap Nat) : Keeps u { u with learnUsed := m } [] 0 := .of_tim rfl rfl rfl rfl fun _ _ _ => rfl
  exact (((keeps_two_epochs s .slowRefill .CLS_SP_RATE .TBL_LEARN_CFG p).still
    (keeps_setFld _ F.CLS_SP_TOKENS_TOKENS p _)).still (learn _ _)).mono (by decide)

/-- A refill tick before the bounds. -/
def refilled (s : State) : State := (List.range 4).foldl slowRefill s.tmsTick

theorem keeps_refilled (s : State) : Keeps s (refilled s) refillRegs 0 :=
  (keeps_tmsTick s).both (.foldl _ _ (fun u p _ => keeps_slowRefill u p) _)

theorem exec_refillTick_up (h : s.coreUp = true) :
    exec .refillTick s = .next (((refilled s).boundTick.restartEnd 0).restartEnd 1) :=
  congrArg Host.Outcome.next (if_neg (by simp [h]))

theorem keeps_restartEnd (s : State) (port : Nat) : Keeps s (s.restartEnd port) [.MAC_PORT_STATUS] 0 := by
  unfold restartEnd portEnd endCmd
  split
  · exact ((keeps_setFld s F.MAC_PORT_STATUS_BUSY port 0).both (keeps_setFld _ F.MAC_PORT_STATUS_LAST_RESULT port 0)).both
      (keeps_setFld _ F.MAC_PORT_STATUS_LAST_SEQ port _)
  · exact (Keeps.refl s).mono (List.nil_subset _)

/-- BOUND_DEV of LOCKED and HOLDOVER (R335). -/
def boundPs (s : State) : Nat := min 0xFFFFFFFE (4000 + s.fld F.TIM_ASYM_PS 0 + s.tim.servoPs + s.holdPs)

/-- The bounds that a refill tick writes. -/
def bounded (s : State) : State :=
  let u := (s.setFld F.TIM_BOUND_BOUND_DEV_PS 0 (if s.timState = 0 then 0xFFFFFFFF else boundPs s)).setFld F.TIM_BOUND_HOLD_PS 0
    (min s.holdPs 0xFFFFFFFF)
  u.setTim { u.tim with growth := min 0xFFFFFFFF u.growthPs }

theorem fld_bounded (s : State) (f : Fld) (i : Nat) (h : f.reg ≠ .TIM_BOUND) : (bounded s).fld f i = s.fld f i := by
  have keeps := (keeps_setFld s F.TIM_BOUND_BOUND_DEV_PS 0 (if s.timState = 0 then 0xFFFFFFFF else boundPs s)).both
    (keeps_setFld _ F.TIM_BOUND_HOLD_PS 0 (min s.holdPs 0xFFFFFFFF))
  exact keeps.fld f i (by simpa [F.TIM_BOUND_BOUND_DEV_PS] using h)

/-- The limit of HOLDOVER is passed. -/
def overLimit (s : State) : Prop := s.timState = 2 ∧ s.fld F.TIM_LIMITS_BOUND_LIMIT_NS 0 * 1000 < boundPs s

theorem boundTick_within (h : ¬overLimit s) : s.boundTick = bounded s := by
  refine if_neg fun c => h ⟨?_, ?_⟩
  · exact (fld_bounded s F.TIM_STATE_STATE 0 (by decide)).symm.trans c.1
  · have limit := fld_bounded s F.TIM_LIMITS_BOUND_LIMIT_NS 0 (by decide)
    rw [← limit]
    exact c.2

theorem boundTick_over (h : overLimit s) :
    s.boundTick = (bounded s).timTogether fun u => reported (u.setTimState 0) 2 0x02 (boundPs s) := by
  refine if_pos ⟨(fld_bounded s F.TIM_STATE_STATE 0 (by decide)).trans h.1, ?_⟩
  have limit := fld_bounded s F.TIM_LIMITS_BOUND_LIMIT_NS 0 (by decide)
  exact limit ▸ h.2

theorem boundDev_bounded (h : s.timState ≠ 0) : (bounded s).boundDev = boundPs s := by
  have state : (bounded s).timState = s.timState := fld_bounded s F.TIM_STATE_STATE 0 (by decide)
  have small : boundPs s < 2 ^ 32 := lt_of_le_of_lt (min_le_left _ _) (by decide)
  unfold boundDev
  rw [state, if_neg h]
  unfold bounded
  dsimp only
  rw [if_neg h]
  refine (fld_setFld_ne _ (f := F.TIM_BOUND_HOLD_PS) (g := F.TIM_BOUND_BOUND_DEV_PS) _ (by decide) (by decide)).trans ?_
  rw [fld_setFld _ _ _ _ (by decide)]
  exact Nat.mod_eq_of_lt small

/-- The bound depends on the counter, the time unit and its registers alone. -/
theorem Keeps.boundPs (h : Keeps s t refillRegs 0) : boundPs t = boundPs s := by
  have servo : t.tim.servoPs = s.tim.servoPs := by rw [h.tim]
  have hold : t.tim.holdStart = s.tim.holdStart := by rw [h.tim]
  unfold TimeUnit.boundPs holdPs heldNs timState
  rw [servo, hold, h.wide, h.fld F.TIM_ASYM_PS 0 (by decide), h.fld F.TIM_STATE_STATE 0 (by decide),
    h.fld F.TIM_HOLD_CFG_RATE 0 (by decide), h.fld F.TIM_HOLD_CFG_AGING 0 (by decide)]

theorem keeps_restartEnds (s : State) : Keeps s ((s.restartEnd 0).restartEnd 1) [.MAC_PORT_STATUS] 0 :=
  (keeps_restartEnd s 0).both (keeps_restartEnd _ 1)

theorem boundDev_congr (h : Keeps s t [.MAC_PORT_STATUS] 0) : t.boundDev = s.boundDev := by
  unfold boundDev timState
  rw [h.fld F.TIM_STATE_STATE 0 (by decide), h.fld F.TIM_BOUND_BOUND_DEV_PS 0 (by decide)]

/-- A refill tick in LOCKED. -/
theorem exec_refillTick_locked (hc : s.coreUp = true) (h1 : s.timState = 1) : ∃ t, exec .refillTick s = .next t ∧
    t.boundDev = min 0xFFFFFFFE (4000 + s.fld F.TIM_ASYM_PS 0 + s.tim.servoPs) ∧ t.timState = 1 := by
  have before := keeps_refilled s
  have state : (refilled s).timState = 1 := (before.fld F.TIM_STATE_STATE 0 (by decide)).trans h1
  have ends := keeps_restartEnds (refilled s).boundTick
  have tick : (refilled s).boundTick = bounded (refilled s) := boundTick_within fun c => by have := c.1; omega
  have noHold : s.holdPs = 0 := by
    have held : s.heldNs = 0 := if_neg (by omega)
    unfold holdPs
    simp [held]
  refine ⟨_, exec_refillTick_up hc, ?_, ?_⟩
  · rw [boundDev_congr ends, tick, boundDev_bounded (by omega), before.boundPs]
    unfold boundPs
    rw [noHold, Nat.add_zero]
  · refine (ends.fld F.TIM_STATE_STATE 0 (by decide)).trans ?_
    rw [tick]
    exact (fld_bounded _ F.TIM_STATE_STATE 0 (by decide)).trans state

/-- A refill tick in HOLDOVER whose bound passes the limit. -/
theorem exec_refillTick_over (hc : s.coreUp = true) (hlim : overLimit s) : ∃ t, exec .refillTick s = .next t ∧ Moved s t 0 ∧
    t.boundDev = 0xFFFFFFFF ∧ t.Event .TIM_EVT 0 2 := by
  have before := keeps_refilled s
  have still : overLimit (refilled s) := by
    refine ⟨(before.fld F.TIM_STATE_STATE 0 (by decide)).trans hlim.1, ?_⟩
    rw [before.boundPs, before.fld F.TIM_LIMITS_BOUND_LIMIT_NS 0 (by decide)]
    exact hlim.2
  have ends := keeps_restartEnds (refilled s).boundTick
  obtain ⟨u, hu, ht, event, events, -⟩ :=
    timTogether_reported (bounded (refilled s)) (fun w => w.setTimState 0) (b := 2) (code := 0x02) (boundPs (refilled s)) (by decide) (c := .ce) rfl
  rw [← boundTick_over still] at ht event events
  have was : u.timState = 2 := (hu.fld F.TIM_STATE_STATE 0 (by decide)).trans ((fld_bounded _ F.TIM_STATE_STATE 0 (by decide)).trans still.1)
  have free : (((refilled s).boundTick.restartEnd 0).restartEnd 1).timState = 0 :=
    (ends.fld F.TIM_STATE_STATE 0 (by decide)).trans ((ht.fld F.TIM_STATE_STATE 0 (by decide)).trans (timState_setTimState _ (by decide)))
  refine ⟨_, exec_refillTick_up hc, ⟨free, fun _ => ?_⟩, if_pos free, ends.event (by decide) event⟩
  exact ends.event (by decide) (events 0 (event_setTimState _ (by rw [was]; decide)))

/-! ### Reads of the counter (R325, R348, R351) -/

theorem exec_timNowRead_open (h : s.regOpen .TIM_NOW 0 = true) :
    exec .timNowRead s = .next ((s.setFld F.TIM_NOW_FRAC_FRAC 0 s.frac.toNat).emit (.readData s.wide)) :=
  congrArg Host.Outcome.next (s.onRead_open .TIM_NOW 0 _ .ok h)

theorem exec_timNowRead_latches (h : s.regOpen .TIM_NOW 0 = true) : ∃ t, exec .timNowRead s = .next t ∧
    t.out = .readData s.wide :: s.out ∧ s.OnlyRegs { t with out := s.out } [(.TIM_NOW_FRAC, 0)] ∧
    t.fld F.TIM_NOW_FRAC_FRAC 0 = s.frac.toNat := by
  refine ⟨_, exec_timNowRead_open h, rfl, ⟨rfl, fun r i hr => s.reg_setFld_ne _ (ne_of_not_listed hr)⟩, ?_⟩
  exact (s.fld_setFld _ _ _ (by decide)).trans (Nat.mod_eq_of_lt s.frac.isLt)

/-- From offset 0x5000 to the MSI-X table, BAR0 of a PF or a VF is the Time Page mirror of its link's host. -/
theorem pageWord_mirror {f : Fn} (hf : f ≠ .mf) {off : Nat} (h1 : 0x5000 ≤ off) (h2 : off < 0x8000) (eight : Bool) :
    s.pageWord f off eight = s.mirrorRead (s.fnLink f) (off - 0x5000) eight := by
  have a : ¬off < 0x4000 := by omega
  have b : ¬off < 0x5000 := by omega
  have c : ¬0x8000 ≤ off := by omega
  have e : ¬0xC000 ≤ off := by omega
  cases f with
  | mf => exact absurd rfl hf
  | pf _ => simp [pageWord, fnLink, a, b, c, e]
  | vf _ _ => simp [pageWord, fnLink, a, b, c, e]

/-- A read of 8 bytes at an aligned offset returns the word there. -/
theorem exec_pageRead_eight {f : Fn} {o : BitVec 16} {w : Word} (hi : s.ideDrops f = false) (hb : s.barRefuses f = false)
    (ho : o.toNat % 8 = 0) (hp : s.pageWord f o.toNat true = some (w, t)) :
    exec (.tpNowRead f ⟨o, false⟩) s = .next (t.emit (.readData w)) := by
  have at_ : o.toNat / 8 * 8 = o.toNat := by omega
  change execTpNowRead f ⟨o, false⟩ s = _
  unfold execTpNowRead
  simp [hi, hb, at_, hp]

/-- A read of 4 bytes at an aligned offset returns the low half of the word there. -/
theorem exec_pageRead_low {f : Fn} {o : BitVec 16} {w : Word} (hi : s.ideDrops f = false) (hb : s.barRefuses f = false)
    (ho : o.toNat % 8 = 0) (hp : s.pageWord f o.toNat false = some (w, t)) :
    exec (.tpNowRead f ⟨o, true⟩) s = .next (t.emit (.readData ((w.setWidth 32).setWidth 64))) := by
  have at_ : o.toNat / 8 * 8 = o.toNat := by omega
  change execTpNowRead f ⟨o, true⟩ s = _
  unfold execTpNowRead
  simp [hi, hb, at_, ho, hp]

/-- A read of 4 bytes at 0x5084 returns the high half that the one at 0x5080 kept. -/
theorem exec_pageRead_high {f : Fn} (hf : f ≠ .mf) (hi : s.ideDrops f = false) (hb : s.barRefuses f = false) :
    exec (.tpNowRead f ⟨0x5084, true⟩) s =
      .next (s.emit (.readData (((SMap.get 0 s.tim.tpLatch (s.fnLink f) >>> 16).setWidth 32).setWidth 64))) := by
  change execTpNowRead f ⟨0x5084, true⟩ s = _
  unfold execTpNowRead
  simp [hi, hb, hf]

theorem exec_pageRead_refused {f : Fn} (o : BitVec 16) (four : Bool) (hi : s.ideDrops f = false) (hb : s.barRefuses f = true) :
    exec (.tpNowRead f ⟨o, four⟩) s = .next ((s.unsupportedReq f).emit (.unsupported f)) := by
  change execTpNowRead f ⟨o, four⟩ s = _
  unfold execTpNowRead
  simp [hi, hb]

/-- What TP_NOW latches: the fraction, and of a read of 4 bytes the high half. -/
def latched (s : State) (h : Nat) (hi : BitVec 32) : State :=
  s.setTim { s.tim with tpLatch := SMap.put 0 s.tim.tpLatch h (hi ++ s.frac) }

theorem get_latched (s : State) (h : Nat) (hi : BitVec 32) : SMap.get 0 (latched s h hi).tim.tpLatch h = hi ++ s.frac :=
  SMap.get_put_self _ _ _ _

theorem setWidth_append_low (hi : BitVec 32) (lo : BitVec 16) : (hi ++ lo).setWidth 16 = lo := BitVec.setWidth_append_eq_right

theorem setWidth_append_high (hi : BitVec 32) (lo : BitVec 16) : ((hi ++ lo) >>> 16).setWidth 32 = hi := by
  apply BitVec.eq_of_getLsbD_eq
  intro i hi'
  have past : ¬16 + i < 16 := by omega
  rw [BitVec.getLsbD_setWidth, BitVec.getLsbD_ushiftRight, BitVec.getLsbD_append, if_neg past, Nat.add_sub_cancel_left]
  simp [hi']

/-! ### SyncE (R343) -/

/-- The fields of a SyncE output that wait for the falling edge. -/
theorem epochMask_synce (b : Nat) (h : b < 6 ∨ b = 8) : (Reg.epochMask .TIM_SYNCE .synceEdge).getLsbD b = true := by
  have all : ∀ b < 9, b < 6 ∨ b = 8 → (Reg.epochMask .TIM_SYNCE .synceEdge).getLsbD b = true := by decide
  exact all b (by omega) h

theorem bit_synceEdge (s : State) (j : Nat) {b : Nat} (h : b < 6 ∨ b = 8) :
    bitOf ((s.epoch .synceEdge .TIM_SYNCE j).reg .TIM_SYNCE j) b =
      if bitOf (s.pend .TIM_SYNCE j).mask b then bitOf (s.pend .TIM_SYNCE j).val b else bitOf (s.reg .TIM_SYNCE j) b := by
  unfold epoch bitOf
  rw [reg_applyMask, merge_getLsbD, BitVec.getLsbD_and, epochMask_synce b h, Bool.and_true]

/-! ### A tick of TIME_CLK (R324, R326, R327) -/

/-- The registers that the wake of a domain can change (R494, R496). -/
def wakeRegs : List Reg := [.PWR_DOMAINS, .PWR_STATUS, .PWR_EVT, .PWR_WAKE_CNT, .HEP_DROP_CNT]

theorem domFld_reg {k : Nat} {f : Fld} (h : domFld k = some f) : f.reg = .PWR_DOMAINS := by
  unfold domFld at h
  split at h
  · cases h; rfl
  · split at h
    · cases h; rfl
    · cases h

theorem keeps_setDom (s : State) (k v : Nat) : Keeps s (s.setDom k v) wakeRegs 0 := by
  unfold setDom
  split
  · next f hf => exact (keeps_setFld s f 0 v).mono (by simp [domFld_reg hf, wakeRegs])
  · exact (Keeps.refl s).mono (List.nil_subset _)

theorem keeps_pwrEvt (s : State) (b : Nat) : Keeps s (s.pwrEvt b) wakeRegs 0 :=
  (calm_setEvt s .PWR_EVT .PWR_EVT_EN .PWR_MSIX_VEC 0 b (by decide)).toKeeps.mono (by decide)

theorem keeps_gatingEnd (s : State) (k v code : Nat) : Keeps s (s.gatingEnd k v code) wakeRegs 0 := by
  have status (u : State) (f : Fld) (n : Nat) (h : f.reg = .PWR_STATUS) : Keeps u (u.setFld f 0 n) wakeRegs 0 :=
    (keeps_setFld u f 0 n).mono (by simp [h, wakeRegs])
  have seq (u : State) (m : SMap Seq) : Keeps u { u with pwrSeq := m } wakeRegs 0 := .of_tim rfl rfl rfl rfl fun _ _ _ => rfl
  exact ((((((seq s _).both (keeps_setDom _ k v)).both (status _ F.PWR_STATUS_BUSY 0 rfl)).both
    (status _ F.PWR_STATUS_LAST_RESULT code rfl)).both (status _ F.PWR_STATUS_LAST_SEQ _ rfl)).both (keeps_pwrEvt _ 0))

theorem keeps_wakeDom (s : State) (work : Bool) (k : Nat) : Keeps s (s.wakeDom work k) wakeRegs 0 := by
  have same (u : State) : Keeps u u wakeRegs 0 := (Keeps.refl u).mono (List.nil_subset _)
  unfold wakeDom
  split
  · split
    · exact keeps_gatingEnd s k 0 5
    · exact same s
  · dsimp only
    split
    · exact ((keeps_setDom s k 3).both ((keeps_setFld _ F.PWR_WAKE_CNT_COUNT 0 _).mono (by decide))).both (keeps_pwrEvt _ 2)
    · exact keeps_setDom s k 3
  · exact same s

theorem keeps_sourceWake (s : State) (k : Nat) : Keeps s (s.sourceWake k) wakeRegs 0 := by
  unfold sourceWake wake
  dsimp only
  split
  · exact (keeps_wakeDom s true _).both (keeps_wakeDom _ true _)
  · exact keeps_wakeDom s true _

theorem keeps_nearWake (s : State) : Keeps s s.nearWake wakeRegs 0 := by
  refine .foldl _ _ (fun u k _ => ?_) s
  have same : Keeps u u wakeRegs 0 := (Keeps.refl u).mono (List.nil_subset _)
  have wake (c : Prop) [Decidable c] : Keeps u (if c then u.sourceWake k else u) wakeRegs 0 := by
    split
    · exact keeps_sourceWake u k
    · exact same
  dsimp only
  by_cases h : u.domState (16 + k) = 0
  · rw [if_pos h]
    exact same
  · rw [if_neg h]
    exact wake _

/-- Where every Truss is ON nothing is to be woken. -/
theorem nearWake_on (h : ∀ k, k < 12 → s.domState (16 + k) = 0) : s.nearWake = s := by
  have stays (L : List Nat) (hL : ∀ k ∈ L, k < 12) (g : State → Nat → State) (hg : ∀ k, k < 12 → g s k = s) : L.foldl g s = s := by
    induction L with
    | nil => rfl
    | cons k L ih =>
      rw [List.foldl_cons, hg k (hL k (by simp))]
      exact ih fun j hj => hL j (by simp [hj])
  exact stays (List.range 12) (by simp) _ fun k hk => if_pos (h k hk)

theorem regsBut_aonTick (s : State) : s.RegsBut s.aonTick [(.TOP_UPTIME, 0)] := by
  intro r i hr
  unfold aonTick
  split
  · rfl
  · split
    · exact s.reg_setReg_ne _ (ne_of_not_listed hr)
    · rfl

theorem keeps_aonTick (s : State) : Keeps s s.aonTick [.TOP_UPTIME] 0 := by
  have phase (u : State) (n : Nat) : Keeps u { u with aonPhase := n } [.TOP_UPTIME] 0 := .of_tim rfl rfl rfl rfl fun _ _ _ => rfl
  unfold aonTick
  split
  · exact (Keeps.refl s).mono (List.nil_subset _)
  · split
    · exact (keeps_setReg s .TOP_UPTIME 0 _).both (phase _ 31)
    · exact phase s _

theorem domState_aonTick (s : State) (k : Nat) : s.aonTick.domState k = s.domState k := by
  unfold domState
  split
  · next f hf => exact (keeps_aonTick s).fld f 0 (by simp [domFld_reg hf])
  · rfl

/-- What a tick does beside the counter's. -/
theorem keeps_afterTick (s : State) : Keeps s s.aonTick.nearWake (.TOP_UPTIME :: wakeRegs) 0 :=
  (keeps_aonTick s).still (keeps_nearWake _)

theorem exec_timeClkTick_up (h : s.coreUp = true) : exec .timeClkTick s = .next s.tick.aonTick.nearWake :=
  congrArg Host.Outcome.next (if_pos h)

/-- What a running slew adds at a tick. -/
def share (x : Tim) : Int := if x.slewTicks = 0 then 0 else x.slewLeft / (x.slewTicks : Int)

/-- The counter of `s` goes on by INCR and the slew's share. -/
def ticked (s : State) : State :=
  { s with
    time := s.time + BitVec.ofNat 96 (s.fld F.TIM_INCR_INCR 0) + BitVec.ofInt 96 (share s.tim)
    cycle := s.cycle + 4
    tim := { s.tim with slewLeft := s.tim.slewLeft - share s.tim, slewTicks := s.tim.slewTicks - 1 } }

/-- With nothing waiting, a tick is the counter's. -/
theorem tick_idle (h : s.tim.adj = []) :
    s.tick = (ticked (s.setTim { s.tim with adj := [] })).setTim
      { (ticked (s.setTim { s.tim with adj := [] })).tim with prev := s.time } := by
  unfold tick
  rw [h]
  rfl

/-- The state in which a command of the tick finds INCR. -/
def dueAt (s : State) (a : Adj) : State :=
  let u := s.setTim { s.tim with adj := [] }
  if [a].contains .incr then u.epoch .timeTick .TIM_INCR 0 else u

/-- The last waiting tick of a command: the counter goes on, and the command applies. -/
theorem tick_due {a : Adj} (h : s.tim.adj = [(1, a)]) :
    ∃ p, s.tick = ((ticked (dueAt s a)).adjApply a).setTim { ((ticked (dueAt s a)).adjApply a).tim with prev := p } := by
  unfold tick
  rw [h]
  exact ⟨_, rfl⟩

theorem dueAt_other (s : State) {a : Adj} (h : a ≠ .incr) : dueAt s a = s.setTim { s.tim with adj := [] } :=
  if_neg (by simpa using h.symm)

/-- What a tick has moved of the slew is what the slew has lost. -/
theorem ticked_total (s : State) :
    (ticked s).time + BitVec.ofInt 96 (ticked s).tim.slewLeft =
      s.time + BitVec.ofNat 96 (s.fld F.TIM_INCR_INCR 0) + BitVec.ofInt 96 s.tim.slewLeft := by
  have split : BitVec.ofInt 96 (share s.tim) + BitVec.ofInt 96 (s.tim.slewLeft - share s.tim) = BitVec.ofInt 96 s.tim.slewLeft := by
    rw [← BitVec.ofInt_add, add_sub_cancel]
  exact (BitVec.add_assoc _ _ _).trans (congrArg (_ + ·) split)

theorem ticked_still (h : s.tim.slewTicks = 0) : (ticked s).time = s.time + BitVec.ofNat 96 (s.fld F.TIM_INCR_INCR 0) := by
  have none_ : share s.tim = 0 := if_pos h
  unfold ticked
  rw [none_]
  exact BitVec.add_zero _

theorem exec_timeClkTick_idle (hc : s.coreUp = true) (h : s.tim.adj = []) : ∃ t, exec .timeClkTick s = .next t ∧
    t.cycle = s.cycle + 4 ∧ t.tim.prev = s.time ∧
    t.time + BitVec.ofInt 96 t.tim.slewLeft = s.time + BitVec.ofNat 96 (s.fld F.TIM_INCR_INCR 0) + BitVec.ofInt 96 s.tim.slewLeft ∧
    t.tim.slewTicks = s.tim.slewTicks - 1 ∧
    (s.tim.slewTicks = 0 → t.time = s.time + BitVec.ofNat 96 (s.fld F.TIM_INCR_INCR 0)) ∧
    (s.tim.slewTicks = 1 → t.tim.slewLeft = 0) ∧
    ((∀ k, k < 12 → s.domState (16 + k) = 0) → s.RegsBut t [(.TOP_UPTIME, 0)]) := by
  have after := keeps_afterTick s.tick
  have regs (r : Reg) (i : Nat) : s.tick.reg r i = s.reg r i := by rw [tick_idle h]; rfl
  have left : s.tick.aonTick.nearWake.tim.slewLeft = s.tim.slewLeft - share s.tim := by rw [after.tim, tick_idle h]; rfl
  refine ⟨_, exec_timeClkTick_up hc, ?_, ?_, ?_, ?_, fun h0 => ?_, fun h1 => ?_, fun hon => ?_⟩
  · rw [after.cycle, tick_idle h]; rfl
  · rw [after.tim, tick_idle h]; rfl
  · rw [after.time, left, tick_idle h]
    exact ticked_total (s.setTim { s.tim with adj := [] })
  · rw [after.tim, tick_idle h]; rfl
  · rw [after.time, tick_idle h]
    exact ticked_still (s := s.setTim { s.tim with adj := [] }) h0
  · rw [left]
    unfold share
    simp [h1]
  · have on (k : Nat) (hk : k < 12) : s.tick.aonTick.domState (16 + k) = 0 := by
      rw [domState_aonTick, ← hon k hk, tick_idle h]
      rfl
    rw [nearWake_on on]
    exact fun r i hr => (regsBut_aonTick s.tick r i hr).trans (regs r i)

/-- What a command leaves at its tick reads the same after the tick. -/
theorem exec_timeClkTick_due {a : Adj} (hc : s.coreUp = true) (h : s.tim.adj = [(1, a)]) :
    let w := (ticked (dueAt s a)).adjApply a
    ∃ t, exec .timeClkTick s = .next t ∧ t.time = w.time ∧ t.tim.adj = w.tim.adj ∧ t.tim.slewLeft = w.tim.slewLeft ∧
      t.tim.slewTicks = w.tim.slewTicks ∧ t.fld F.TIM_ADJ_STATUS_LAST_SEQ 0 = w.fld F.TIM_ADJ_STATUS_LAST_SEQ 0 := by
  intro w
  obtain ⟨p, tick⟩ := tick_due h
  have after := keeps_afterTick s.tick
  refine ⟨_, exec_timeClkTick_up hc, ?_, ?_, ?_, ?_, ?_⟩
  · rw [after.time, tick]; rfl
  · rw [after.tim, tick]; rfl
  · rw [after.tim, tick]; rfl
  · rw [after.tim, tick]; rfl
  · rw [after.fld F.TIM_ADJ_STATUS_LAST_SEQ 0 (by decide), tick]; rfl

/-- A command's LAST_SEQ after it has applied. -/
theorem fld_lastSeq (s : State) (q : Seq) : (s.setFld F.TIM_ADJ_STATUS_LAST_SEQ 0 q.toNat).fld F.TIM_ADJ_STATUS_LAST_SEQ 0 = q.toNat :=
  (s.fld_setFld _ _ _ (by decide)).trans (Nat.mod_eq_of_lt q.isLt)

/-- What a command has done once its tick is over, where no slew ran (R326). -/
def Applied (s t : State) : Adj → Prop
  | .step w q => t.time = s.time + BitVec.ofNat 96 (s.fld F.TIM_INCR_INCR 0) + BitVec.ofInt 96 (w.toInt * 65536) ∧
      t.fld F.TIM_ADJ_STATUS_LAST_SEQ 0 = q.toNat
  | .set w q => t.time = w.setWidth 96 <<< 32 ∧ t.fld F.TIM_ADJ_STATUS_LAST_SEQ 0 = q.toNat
  | .slew w n q =>
      t.time + BitVec.ofInt 96 t.tim.slewLeft =
        s.time + BitVec.ofNat 96 (s.fld F.TIM_INCR_INCR 0) + BitVec.ofInt 96 (w.toInt * 65536) ∧
      t.tim.slewTicks = max n ((w.toInt.natAbs * 65536 + 536870911) / 536870912) - 1 ∧
      t.fld F.TIM_ADJ_STATUS_LAST_SEQ 0 = q.toNat
  | .slewAbort q => t.time = s.time + BitVec.ofNat 96 (s.fld F.TIM_INCR_INCR 0) ∧ t.tim.slewLeft = 0 ∧
      t.fld F.TIM_ADJ_STATUS_LAST_SEQ 0 = q.toNat
  | .incr => t.time = s.time + BitVec.ofNat 96 ((s.epoch .timeTick .TIM_INCR 0).fld F.TIM_INCR_INCR 0)

theorem exec_timeClkTick_applies {a : Adj} (hc : s.coreUp = true) (h : s.tim.adj = [(1, a)]) (h0 : s.tim.slewTicks = 0) :
    ∃ t, exec .timeClkTick s = .next t ∧ t.tim.adj = [] ∧ Applied s t a := by
  obtain ⟨t, ht, time, adj, left, ticks, seq⟩ := exec_timeClkTick_due hc h
  refine ⟨t, ht, ?_⟩
  have on : (ticked (s.setTim { s.tim with adj := [] })).time = s.time + BitVec.ofNat 96 (s.fld F.TIM_INCR_INCR 0) :=
    ticked_still (s := s.setTim { s.tim with adj := [] }) h0
  cases a with
  | incr => exact ⟨adj, time.trans (ticked_still (s := dueAt s .incr) h0)⟩
  | step w q =>
    rw [dueAt_other s (by simp)] at time adj seq
    exact ⟨adj, time.trans (congrArg (· + BitVec.ofInt 96 (w.toInt * 65536)) on), seq.trans (fld_lastSeq _ q)⟩
  | set w q =>
    rw [dueAt_other s (by simp)] at time adj seq
    exact ⟨adj, time, seq.trans (fld_lastSeq _ q)⟩
  | slewAbort q =>
    rw [dueAt_other s (by simp)] at time adj left seq
    exact ⟨adj, time.trans on, left, seq.trans (fld_lastSeq _ q)⟩
  | slew w n q =>
    rw [dueAt_other s (by simp)] at time adj left ticks seq
    refine ⟨adj, ?_, ticks, seq.trans (fld_lastSeq _ q)⟩
    have part : t.time = s.time + BitVec.ofNat 96 (s.fld F.TIM_INCR_INCR 0) +
        BitVec.ofInt 96 (w.toInt * 65536 / (slewSpan w.toInt n : Int)) := time.trans (congrArg (· + _) on)
    have rest : t.tim.slewLeft = w.toInt * 65536 - w.toInt * 65536 / (slewSpan w.toInt n : Int) := left
    rw [part, rest, BitVec.add_assoc, ← BitVec.ofInt_add, add_sub_cancel]

/-- What an update of the owner leaves, by STATE_REQ and the state it finds. -/
theorem exec_servo_states {v : Bool} (off : BitVec 32) (req : BitVec 2) (hv : s.flag F.TIM_CTL_ADJ_OWNER 0 = v)
    (hr : v = false → s.regOpen .TIM_SERVO_UPD 0 = true) :
    (req = 1 → ∃ t, exec (.timServoUpd v off req) s = .next t ∧ Quiet s t 1 ∧ Moved s t 1 ∧
      t.tim = { s.tim with servoPs := min off.toNat 0xFFFFFFFE, seqs := t.tim.seqs, pages := t.tim.pages }) ∧
    (req = 2 → s.timState = 1 → ∃ t, exec (.timServoUpd v off req) s = .next t ∧ Quiet s t 2 ∧ Moved s t 2 ∧
      t.tim = { s.tim with servoPs := min off.toNat 0xFFFFFFFE, holdStart := s.wide, seqs := t.tim.seqs, pages := t.tim.pages }) ∧
    (req = 0 → s.timState = 1 → exec (.timServoUpd v off req) s = .next (servoTaken s off)) ∧
    (req = 3 → ∃ t, exec (.timServoUpd v off req) s = .next t ∧ Quiet s t 0 ∧ Moved s t 0 ∧
      t.tim = { s.tim with seqs := t.tim.seqs, pages := t.tim.pages }) ∧
    (req = 0 ∨ req = 2 → s.timState ≠ 1 → exec (.timServoUpd v off req) s = .next s) := by
  rw [exec_servo_owner off req hv hr]
  refine ⟨?_, ?_, ?_, ?_, ?_⟩
  · rintro rfl
    exact ⟨_, rfl, settled s (y := (servoTaken s off).tim) rfl (by decide)⟩
  · rintro rfl h1
    simp only [h1, ne_eq, not_true_eq_false, ↓reduceIte]
    exact ⟨_, rfl, settled s (y := (holdFrom (servoTaken s off)).tim) rfl (by decide)⟩
  · rintro rfl h1
    simp [h1]
  · rintro rfl
    exact ⟨_, rfl, settled s (y := s.tim) rfl (by decide)⟩
  · rintro (rfl | rfl) h1
    · simp [h1]
    · simp [h1]

/-- The reads of TP_NOW and TP_NOW_FRAC in a PF's or a VF's Time Page mirror. -/
theorem exec_tpNow_reads {f : Fn} (hf : f ≠ .mf) (hi : s.ideDrops f = false) (hb : s.barRefuses f = false) :
    let latch (u : State) : BitVec 48 := SMap.get 0 u.tim.tpLatch (s.fnLink f)
    (∃ t, exec (.tpNowRead f ⟨0x5080, false⟩) s = .next t ∧ t = { s with tim := t.tim, out := .readData s.wide :: s.out } ∧
      (latch t).setWidth 16 = s.frac) ∧
    (∃ t, exec (.tpNowRead f ⟨0x5080, true⟩) s = .next t ∧
      t = { s with tim := t.tim, out := .readData ((s.wide.setWidth 32).setWidth 64) :: s.out } ∧ (latch t).setWidth 16 = s.frac ∧
      (latch t >>> 16).setWidth 32 = (s.wide >>> 32).setWidth 32) ∧
    exec (.tpNowRead f ⟨0x5084, true⟩) s = .next { s with out := .readData (((latch s >>> 16).setWidth 32).setWidth 64) :: s.out } ∧
    exec (.tpNowRead f ⟨0x5088, false⟩) s = .next { s with out := .readData (((latch s).setWidth 16).setWidth 64) :: s.out } := by
  intro latch
  have now (eight : Bool) : s.pageWord f 0x5080 eight = some (s.wide,
      latched s (s.fnLink f) (if eight then (latch s >>> 16).setWidth 32 else (s.wide >>> 32).setWidth 32)) :=
    (pageWord_mirror hf (by decide) (by decide) eight).trans rfl
  have frac : s.pageWord f 0x5088 true = some (((latch s).setWidth 16).setWidth 64, s) :=
    (pageWord_mirror hf (by decide) (by decide) true).trans rfl
  have kept (hi : BitVec 32) : latch (latched s (s.fnLink f) hi) = hi ++ s.frac := get_latched s _ hi
  refine ⟨⟨_, exec_pageRead_eight hi hb (by decide) (now true), rfl, ?_⟩,
    ⟨_, exec_pageRead_low hi hb (by decide) (now false), rfl, ?_, ?_⟩,
    exec_pageRead_high hf hi hb, exec_pageRead_eight hi hb (by decide) frac⟩
  · exact (congrArg _ (kept _)).trans (setWidth_append_low _ _)
  · exact (congrArg _ (kept _)).trans (setWidth_append_low _ _)
  · exact (congrArg (fun w : BitVec 48 => (w >>> 16).setWidth 32) (kept _)).trans (setWidth_append_high _ _)

/-! ### The statement -/

/-- Settles O51: each clause is what the command's execution above leaves. -/
theorem timeCounter : Obligations.TimeCounter := fun s v q _ off req _ j =>
  ⟨exec_timeClkTick_idle,
    exec_timeClkTick_applies,
    fun hv hc => ⟨congrArg Host.Outcome.next (adjOn_owner hv hc _ _), congrArg Host.Outcome.next (adjOn_owner hv hc _ _),
      congrArg Host.Outcome.next (adjOn_owner hv hc _ _), exec_slew_owner q hv hc⟩,
    fun hv hc hu _ hmem => ⟨_, exec_other q off req hv hc hu hmem, drop_counted s v⟩,
    exec_servo_states off req,
    exec_watchdog_locked,
    exec_counterFault_count s,
    exec_leapDone_applies,
    fun hc _ => exec_refillTick_locked hc,
    fun hc _ h2 hlim => exec_refillTick_over hc ⟨h2, hlim⟩,
    exec_timNowRead_latches,
    fun hf hs => exec_tpNow_reads hf hs.1 hs.2,
    fun _ _ _ hs ho hp => exec_pageRead_eight hs.1 hs.2 ho hp,
    fun o four hi hb => ⟨_, exec_pageRead_refused o four hi hb, rfl⟩,
    ⟨_, rfl, fun _ hb => bit_synceEdge s j.val hb⟩⟩

end Sys2Proof.Machine.TimeUnit
end

section
/-!
PROOFS. The arithmetic operations (R413): what each function of the table means, said once for each, and with it what OP 0 writes.
-/

namespace Sys2Proof.Machine.Arithmetic
open State

/-! ### The functions of the table -/

/-- The upper half of the full product. -/
theorem mulhu_eq (a b : Word) :
    BitVec.ofNat 64 (a.toNat * b.toNat / 2 ^ 64) = (a.setWidth 128 * b.setWidth 128).extractLsb' 64 64 := by
  have full : a.toNat * b.toNat < 2 ^ 128 := Nat.mul_lt_mul'' (c := 2 ^ 64) (d := 2 ^ 64) a.isLt b.isLt
  apply BitVec.eq_of_toNat_eq
  rw [BitVec.toNat_ofNat, BitVec.extractLsb'_toNat, BitVec.toNat_mul, BitVec.toNat_setWidth_of_le (by decide),
    BitVec.toNat_setWidth_of_le (by decide), Nat.mod_eq_of_lt full, Nat.shiftRight_eq_div_pow]

theorem boolWord_slt (a b : Word) : boolWord (slt a b) = if a.toInt < b.toInt then 1 else 0 := by
  simp [boolWord, slt]

theorem boolWord_ult (a b : Word) : boolWord (decide (a.toNat < b.toNat)) = if a < b then 1 else 0 := by
  simp [boolWord, BitVec.lt_def]

theorem min_eq (a b : Word) : (if slt b a then b else a) = BitVec.ofInt 64 (min a.toInt b.toInt) := by
  unfold slt
  by_cases h : b.toInt < a.toInt
  · simp [h, min_eq_right h.le]
  · simp [h, min_eq_left (not_lt.1 h)]

theorem max_eq (a b : Word) : (if slt a b then b else a) = BitVec.ofInt 64 (max a.toInt b.toInt) := by
  unfold slt
  by_cases h : a.toInt < b.toInt
  · simp [h, max_eq_right h.le]
  · simp [h, max_eq_left (not_lt.1 h)]

/-- At most 64 bits are 1, so the count fits its register. -/
theorem toNat_popcount (a : Word) :
    (BitVec.ofNat 64 (popcount a)).toNat = (Finset.univ.filter fun i : Fin 64 => a.getLsbD i.val = true).card := by
  have fits : popcount a ≤ 64 := (List.length_filter_le _ _).trans (List.length_range ..).le
  have bits : a.getLsbD ∘ Fin.val = fun i : Fin 64 => decide (a.getLsbD i.val = true) := by
    funext i
    exact Bool.decide_eq_true.symm
  rw [BitVec.toNat_ofNat, Nat.mod_eq_of_lt (by omega)]
  unfold popcount
  rw [← List.map_coe_finRange_eq_range, List.filter_map, List.length_map]
  exact congrArg (fun p => ((List.finRange 64).filter p).length) bits

/-- The first place below 64 at which `p` holds, 64 where there is none. -/
def firstAt (p : Nat → Bool) : Nat := ((List.range 64).find? p).getD 64

/-- CLZ looks from bit 63 downwards, CTZ from bit 0 upwards. -/
theorem leadingZeros_eq (a : Word) : leadingZeros a = firstAt fun i => a.getLsbD (63 - i) := rfl

theorem trailingZeros_eq (a : Word) : trailingZeros a = firstAt a.getLsbD := rfl

/-- `p` fails at every place before the first one at which it holds. -/
theorem firstAt_spec (p : Nat → Bool) :
    firstAt p ≤ 64 ∧ (∀ i, i < firstAt p → p i = false) ∧ (firstAt p < 64 → p (firstAt p) = true) := by
  unfold firstAt
  cases h : (List.range 64).find? p with
  | none => exact ⟨le_rfl, by simpa using h, fun lt => absurd lt (lt_irrefl 64)⟩
  | some k =>
    obtain ⟨holds, below, before⟩ := List.find?_range_eq_some.1 h
    exact ⟨(List.mem_range.1 below).le, fun i hi => by simpa using before i hi, fun _ => holds⟩

/-- A register holds that place, for it is at most 64. -/
theorem firstAt_word (p : Nat → Bool) :
    let v := BitVec.ofNat 64 (firstAt p)
    v.toNat ≤ 64 ∧ (∀ i, i < v.toNat → p i = false) ∧ (v.toNat < 64 → p v.toNat = true) := by
  obtain ⟨le, before, holds⟩ := firstAt_spec p
  have fits : (BitVec.ofNat 64 (firstAt p)).toNat = firstAt p := Nat.mod_eq_of_lt (by omega)
  dsimp only
  rw [fits]
  exact ⟨le, before, holds⟩

theorem fromBytesLE_lt (bs : List Byte) : fromBytesLE bs < 256 ^ bs.length := by
  induction bs with
  | nil => decide
  | cons b bs ih =>
    have := b.isLt
    rw [fromBytesLE, List.length_cons, Nat.pow_succ]
    omega

/-- Digit `i` to base 256 of the number that bytes spell is the `i`th byte. -/
theorem fromBytesLE_byte (bs : List Byte) (i : Nat) : fromBytesLE bs / 256 ^ i % 256 = (bs.getD i 0).toNat := by
  induction bs generalizing i with
  | nil => simp [fromBytesLE]
  | cons b bs ih =>
    have := b.isLt
    cases i with
    | zero =>
      rw [fromBytesLE, List.getD_cons_zero]
      omega
    | succ i =>
      have rest : (b.toNat + 256 * fromBytesLE bs) / 256 = fromBytesLE bs := by omega
      rw [fromBytesLE, List.getD_cons_succ, ← ih i, Nat.pow_succ', ← Nat.div_div_eq_div_mul, rest]

theorem fromBytesBE_eq (bs : List Byte) : fromBytesBE bs = fromBytesLE bs.reverse := by
  have spelt (cs : List Byte) : cs.foldr (fun b a => a * 256 + b.toNat) 0 = fromBytesLE cs := by
    induction cs with
    | nil => rfl
    | cons b cs ih =>
      rw [List.foldr_cons, ih, fromBytesLE]
      omega
  rw [fromBytesBE, List.foldl_eq_foldr_reverse, spelt]

@[simp] theorem toBytesLE_length (k v : Nat) : (toBytesLE k v).length = k := by
  induction k generalizing v with
  | zero => rfl
  | succ k ih => rw [toBytesLE, List.length_cons, ih]

theorem toBytesLE_getElem {k i : Nat} (v : Nat) (h : i < (toBytesLE k v).length) :
    (toBytesLE k v)[i] = BitVec.ofNat 8 (v / 256 ^ i) := by
  induction k generalizing v i with
  | zero => exact absurd h (Nat.not_lt_zero i)
  | succ k ih =>
    cases i with
    | zero => simp [toBytesLE]
    | succ i =>
      rw [Nat.pow_succ', ← Nat.div_div_eq_div_mul]
      exact ih (v / 256) (Nat.lt_of_succ_lt_succ h)

/-- A byte of a word is a digit of its number to base 256. -/
theorem extractLsb'_byte (w : Word) (i : Nat) : (w.extractLsb' (8 * i) 8).toNat = w.toNat / 256 ^ i % 256 := by
  rw [BitVec.extractLsb'_toNat, Nat.shiftRight_eq_div_pow, Nat.pow_mul]

/-- BSWAP puts byte 7 - `i` of the word in the place of byte `i`. -/
theorem byteSwap_byte (a : Word) {i : Nat} (h : i < 8) :
    (byteSwap a).extractLsb' (8 * i) 8 = a.extractLsb' (56 - 8 * i) 8 := by
  have fits : fromBytesLE (toBytesLE 8 a.toNat).reverse < 2 ^ 64 := by
    simpa using fromBytesLE_lt (toBytesLE 8 a.toNat).reverse
  have place : (toBytesLE 8 a.toNat).reverse.getD i 0 = BitVec.ofNat 8 (a.toNat / 256 ^ (7 - i)) := by
    rw [List.getD_eq_getElem _ _ (by simpa using h), List.getElem_reverse, toBytesLE_getElem]
    simp
  have other : 56 - 8 * i = 8 * (7 - i) := by omega
  apply BitVec.eq_of_toNat_eq
  rw [other, extractLsb'_byte, extractLsb'_byte, byteSwap, fromBytesBE_eq, BitVec.toNat_ofNat, Nat.mod_eq_of_lt fits,
    fromBytesLE_byte, place, BitVec.toNat_ofNat]

/-! ### The decoder -/

/-- FN 18 to 2,047 of OP 0 are not assigned. -/
theorem decodeEng_unassigned (x : Slot) (sel : BitVec 2) {w : BitVec 32} (op : w.extractLsb' 26 6 = 0)
    (fn : 18 ≤ (w.extractLsb' 0 11).toNat) : decodeEng x sel w = none := by
  obtain ⟨k, hk⟩ := Nat.exists_eq_add_of_le' fn
  unfold decodeEng
  rw [op]
  dsimp only
  rw [hk]
  rfl

/-! ### The statement -/

/-- Settles O7: each operation is one register write of the function that the table gives it. -/
theorem arithmeticResults : Obligations.ArithmeticResults := fun s x _ rs rt =>
  have sixBits := (BitVec.toNat_setWidth 6 (s.g x.thr.val rt)).symm
  have ⟨clzLe, clzBefore, clzAt⟩ := firstAt_word fun i => (s.g x.thr.val rs).getLsbD (63 - i)
  have ⟨ctzLe, ctzBefore, ctzAt⟩ := firstAt_word (s.g x.thr.val rs).getLsbD
  ⟨s.computes_alu2 rfl rfl,
    s.computes_alu2 rfl rfl,
    s.computes_alu2 rfl rfl,
    s.computes_alu2 rfl rfl,
    s.computes_alu2 rfl rfl,
    s.computes_alu2 rfl (congrArg _ sixBits),
    s.computes_alu2 rfl (congrArg _ sixBits),
    s.computes_alu2 rfl (congrArg _ sixBits),
    s.computes_alu2 rfl rfl,
    s.computes_alu2 rfl (mulhu_eq _ _),
    s.computes_alu2 rfl (boolWord_slt _ _),
    s.computes_alu2 rfl (boolWord_ult _ _),
    s.computes_alu2 rfl (min_eq _ _),
    s.computes_alu2 rfl (max_eq _ _),
    ⟨_, toNat_popcount _, s.computes_alu1 rfl rfl⟩,
    ⟨_, clzLe, clzBefore, clzAt, s.computes_alu1 rfl (congrArg _ (leadingZeros_eq _))⟩,
    ⟨_, ctzLe, ctzBefore, ctzAt, s.computes_alu1 rfl (congrArg _ (trailingZeros_eq _))⟩,
    ⟨_, fun _ => byteSwap_byte _, s.computes_alu1 rfl rfl⟩,
    fun _ sel => decodeEng_unassigned x sel⟩

end Sys2Proof.Machine.Arithmetic
end

section
/-!
PROOFS. Scratchpad loads and stores (R415, R433, R443): which word a Pier offset names, what bytes and poison marks read after a write of
bytes, and from it what LDS and STS leave.
-/

namespace Sys2Proof.Machine.Scratchpad
open State Arithmetic

variable {s t : State} {p p' b o off n : Nat}

/-! ### Words and bytes -/

/-- Two Pier offsets share a key where the Pier and the word are the same. -/
theorem wordKey_eq_iff (ho : o < 0x1000000) (hb : b < 0x1000000) : wordKey p' b = wordKey p o ↔ p' = p ∧ b / 8 = o / 8 := by
  unfold wordKey
  omega

theorem spmByte_eq_getBits (s : State) (p b : Nat) : s.spmByte p b = BitVec.ofNat 8 (getBits (s.spmWord p b) (8 * (b % 8)) 8) := by
  apply BitVec.eq_of_toNat_eq
  simp [spmByte, getBits]

theorem spmByte_congr (h : t.spm = s.spm) (p b : Nat) : t.spmByte p b = s.spmByte p b := by
  unfold spmByte spmWord
  rw [h]

theorem spmBad_congr (h : t.spmPoison = s.spmPoison) (p b : Nat) : t.spmBad p b = s.spmBad p b := by
  unfold spmBad
  rw [h]

theorem spmRead_congr (h : t.spm = s.spm) (p o n : Nat) : t.spmRead p o n = s.spmRead p o n := by
  unfold spmRead
  simp only [spmByte_congr h]

theorem spmBadIn_congr (h : t.spmPoison = s.spmPoison) (p o n : Nat) : t.spmBadIn p o n = s.spmBadIn p o n := by
  unfold spmBadIn
  simp only [spmBad_congr h]

/-! ### A write of bytes -/

/-- A byte written reads what was written; every other byte reads as before. -/
theorem spmByte_setByte (v : Byte) (ho : o < 0x1000000) (hb : b < 0x1000000) :
    (s.setByte p o v).spmByte p' b = if p' = p ∧ b = o then v else s.spmByte p' b := by
  have word : (s.setByte p o v).spmWord p' b =
      if wordKey p' b = wordKey p o then setBits (s.spmWord p o) (8 * (o % 8)) 8 v.toNat else s.spmWord p' b :=
    SMap.get_put _ _ _ _ _
  rw [spmByte_eq_getBits, spmByte_eq_getBits s, word]
  by_cases key : wordKey p' b = wordKey p o
  · have old : s.spmWord p' b = s.spmWord p o := by
      unfold spmWord
      rw [key]
    obtain ⟨rfl, hw⟩ := (wordKey_eq_iff ho hb).1 key
    rw [if_pos key, old]
    by_cases same : b = o
    · subst same
      rw [if_pos ⟨rfl, rfl⟩, getBits_setBits_self _ _ _ _ (by omega), Nat.mod_eq_of_lt v.isLt, BitVec.ofNat_toNat,
        BitVec.setWidth_eq]
    · rw [if_neg (fun c => same c.2), getBits_setBits_apart _ _ _ _ _ _ (by omega) (by omega)]
  · rw [if_neg key, if_neg (fun c => key (by rw [c.1, c.2]))]

/-- A byte outside a written run reads as before. -/
theorem spmByte_setBytes_out (bs : List Byte) (fits : o + bs.length ≤ 0x1000000) (hb : b < 0x1000000)
    (out : ¬(p' = p ∧ o ≤ b ∧ b < o + bs.length)) : (s.setBytes p o bs).spmByte p' b = s.spmByte p' b := by
  induction bs generalizing s o with
  | nil => rfl
  | cons v bs ih =>
    rw [List.length_cons] at fits out
    rw [setBytes, ih (by omega) (by omega), spmByte_setByte v (by omega) hb, if_neg (by omega)]

/-- A byte inside a written run reads what was written. -/
theorem spmByte_setBytes_in (bs : List Byte) (fits : o + bs.length ≤ 0x1000000) {k : Nat} (hk : k < bs.length) :
    (s.setBytes p o bs).spmByte p (o + k) = bs[k] := by
  induction bs generalizing s o k with
  | nil => exact absurd hk (Nat.not_lt_zero k)
  | cons v bs ih =>
    rw [List.length_cons] at fits
    rw [setBytes]
    cases k with
    | zero =>
      rw [spmByte_setBytes_out bs (by omega) (by omega) (by omega), spmByte_setByte v (by omega) (by omega), if_pos ⟨rfl, rfl⟩]
      rfl
    | succ k =>
      rw [show o + (k + 1) = o + 1 + k by omega]
      exact ih (by omega) (Nat.lt_of_succ_lt_succ hk)

/-- Writing bytes changes the scratchpad's words only. -/
theorem setBytes_frame (s : State) (p o : Nat) (bs : List Byte) : s.setBytes p o bs = { s with spm := (s.setBytes p o bs).spm } := by
  induction bs generalizing s o with
  | nil => rfl
  | cons v bs ih =>
    rw [setBytes]
    exact ih _ _

/-! ### Poison marks -/

theorem spmBad_put (ho : o < 0x1000000) (hb : b < 0x1000000) (bad : Bool) :
    ({ s with spmPoison := SMap.put false s.spmPoison (wordKey p o) bad } : State).spmBad p' b =
      if p' = p ∧ b / 8 = o / 8 then bad else s.spmBad p' b := by
  simp only [spmBad, SMap.get_put, wordKey_eq_iff ho hb]

/-- One round of `markWords`: the `i`th word from the first one that begins in the run of `n` bytes at `o`. -/
def markRound (p o n : Nat) (bad : Bool) (t : State) (i : Nat) : State :=
  if 8 * ((o + 7) / 8 + i) + 8 ≤ o + n then
    { t with spmPoison := SMap.put false t.spmPoison (wordKey p (8 * ((o + 7) / 8 + i))) bad }
  else t

theorem markWords_eq_foldl (s : State) (p o n : Nat) (bad : Bool) :
    s.markWords p o n bad = (List.range (n / 8 + 1)).foldl (markRound p o n bad) s := rfl

theorem markRound_frame (bad : Bool) (i : Nat) :
    markRound p o n bad s i = { s with spmPoison := (markRound p o n bad s i).spmPoison } := by
  unfold markRound
  split <;> rfl

/-- A round marks its word where the run covers it whole. -/
theorem spmBad_markRound (fits : o + n ≤ 0x1000000) (hb : b < 0x1000000) (bad : Bool) (i : Nat) :
    (markRound p o n bad s i).spmBad p' b =
      if p' = p ∧ b / 8 = (o + 7) / 8 + i ∧ 8 * (b / 8) + 8 ≤ o + n then bad else s.spmBad p' b := by
  unfold markRound
  split
  case isTrue whole =>
    rw [spmBad_put (by omega) hb]
    exact if_congr (by omega) rfl rfl
  case isFalse part => rw [if_neg (by omega)]

/-- Marking words changes the poison marks only. -/
theorem markWords_frame (s : State) (p o n : Nat) (bad : Bool) :
    s.markWords p o n bad = { s with spmPoison := (s.markWords p o n bad).spmPoison } := by
  rw [markWords_eq_foldl]
  induction List.range (n / 8 + 1) generalizing s with
  | nil => rfl
  | cons i l ih =>
    rw [List.foldl_cons, ih, markRound_frame]

/-- The words that a run covers whole are marked, and no others. -/
theorem spmBad_markWords (fits : o + n ≤ 0x1000000) (hb : b < 0x1000000) (bad : Bool) : (s.markWords p o n bad).spmBad p' b =
    if p' = p ∧ o ≤ 8 * (b / 8) ∧ 8 * (b / 8) + 8 ≤ o + n then bad else s.spmBad p' b := by
  have rounds (m : Nat) : ((List.range m).foldl (markRound p o n bad) s).spmBad p' b =
      if p' = p ∧ o ≤ 8 * (b / 8) ∧ b / 8 < (o + 7) / 8 + m ∧ 8 * (b / 8) + 8 ≤ o + n then bad else s.spmBad p' b := by
    induction m with
    | zero => rw [if_neg (by omega)]; rfl
    | succ m ih =>
      rw [List.range_succ, List.foldl_append, List.foldl_cons, List.foldl_nil, spmBad_markRound fits hb, ih, ← ite_or]
      exact if_congr (by omega) rfl rfl
  rw [markWords_eq_foldl, rounds]
  exact if_congr (by omega) rfl rfl

/-! ### A write of a run -/

theorem spmWrite_eq (s : State) (p o : Nat) (bs : List Byte) :
    s.spmWrite p o bs = (s.setBytes p o bs).markWords p o bs.length false := rfl

/-- A write of a run changes words and poison marks only. -/
theorem spmWrite_frame (s : State) (p o : Nat) (bs : List Byte) :
    s.spmWrite p o bs = { s with spm := (s.spmWrite p o bs).spm, spmPoison := (s.spmWrite p o bs).spmPoison } := by
  rw [spmWrite_eq, markWords_frame, setBytes_frame]

/-- The marks do not touch the bytes. -/
theorem spmByte_spmWrite (s : State) (p o p' b : Nat) (bs : List Byte) :
    (s.spmWrite p o bs).spmByte p' b = (s.setBytes p o bs).spmByte p' b :=
  spmByte_congr (by rw [spmWrite_eq, markWords_frame]) p' b

theorem spmByte_spmWrite_out (bs : List Byte) (fits : o + bs.length ≤ 0x1000000) (hb : b < 0x1000000)
    (out : ¬(p' = p ∧ o ≤ b ∧ b < o + bs.length)) : (s.spmWrite p o bs).spmByte p' b = s.spmByte p' b :=
  (spmByte_spmWrite ..).trans (spmByte_setBytes_out bs fits hb out)

theorem spmByte_spmWrite_in (bs : List Byte) (fits : o + bs.length ≤ 0x1000000) {k : Nat} (hk : k < bs.length) :
    (s.spmWrite p o bs).spmByte p (o + k) = bs[k] :=
  (spmByte_spmWrite ..).trans (spmByte_setBytes_in bs fits hk)

/-- Words written whole are no longer poisoned, and no other mark changes (R443). -/
theorem spmBad_spmWrite (bs : List Byte) (fits : o + bs.length ≤ 0x1000000) (hb : b < 0x1000000) :
    (s.spmWrite p o bs).spmBad p' b =
      if p' = p ∧ o ≤ 8 * (b / 8) ∧ 8 * (b / 8) + 8 ≤ o + bs.length then false else s.spmBad p' b := by
  have old : (s.setBytes p o bs).spmBad p' b = s.spmBad p' b := spmBad_congr (by rw [setBytes_frame]) p' b
  rw [spmWrite_eq, spmBad_markWords fits hb, old]

/-! ### Views and values -/

/-- What a view makes of the byte that stands at a place and the byte stored there (R433). -/
def viewByte (view : Nat) (old new : Byte) : Byte := if view = 1 then old ||| new else if view = 2 then old &&& ~~~new else new

/-- A view works byte by byte. -/
theorem viewBytes_eq_zipWith (view : Nat) {old new : List Byte} (h : old.length = new.length) :
    viewBytes view old new = List.zipWith (viewByte view) old new := by
  unfold viewBytes
  split
  case h_1 => exact List.map_zip_eq_zipWith
  case h_2 => exact List.map_zip_eq_zipWith
  case h_3 ne1 ne2 =>
    have plain : viewByte view = fun _ v => v := by
      funext old new
      rw [viewByte, if_neg ne1, if_neg ne2]
    rw [plain]
    exact List.ext_getElem (by simp [h]) (by simp)

/-- Byte `k` of a stored register. -/
theorem byte_ofNat_div (w : Word) (k : Nat) : BitVec.ofNat 8 (w.toNat / 256 ^ k) = (w >>> (8 * k)).setWidth 8 := by
  apply BitVec.eq_of_toNat_eq
  rw [BitVec.toNat_ofNat, BitVec.toNat_setWidth, BitVec.toNat_ushiftRight, Nat.shiftRight_eq_div_pow, Nat.pow_mul]

theorem signed_eq_toInt (m v : Nat) : signed m v = (BitVec.ofNat m v).toInt := by
  have half : v % 2 ^ m < 2 ^ (m - 1) ↔ 2 * (v % 2 ^ m) < 2 ^ m := by
    cases m with
    | zero => simp [Nat.mod_one]
    | succ m => rw [Nat.add_sub_cancel, Nat.pow_succ']; omega
  rw [signed, BitVec.toInt_eq_toNat_cond, BitVec.toNat_ofNat]
  exact if_congr half rfl rfl

/-- What LDS loads is the value of the bytes (R411). -/
theorem loaded_eq_loadValue (sx : Bool) (bs : List Byte) (short : bs.length ≤ 8) : loaded sx bs = loadValue sx bs := by
  unfold loaded loadValue
  cases sx with
  | true => exact congrArg (BitVec.ofInt 64) (signed_eq_toInt _ _)
  | false =>
    have fits : fromBytesLE bs < 2 ^ (8 * bs.length) := by
      rw [Nat.pow_mul]
      exact fromBytesLE_lt bs
    exact (BitVec.setWidth_ofNat_of_le_of_lt (by omega) fits).symm

/-! ### The access -/

theorem ran_frame (s : State) (x : Slot) :
    s.ran x = { s with regs := (s.ran x).regs, threads := (s.ran x).threads, stallDone := (s.ran x).stallDone } := by
  unfold ran setPc
  rw [setThr_frame]
  rfl

/-- The issue of an instruction leaves the scratchpad and its Bays. -/
theorem ran_spm (s : State) (x : Slot) : (s.ran x).spm = s.spm ∧ (s.ran x).spmPoison = s.spmPoison ∧ (s.ran x).bays = s.bays := by
  rw [ran_frame]
  exact ⟨rfl, rfl, rfl⟩

theorem spmOpen_congr (h : t.bays = s.bays) {a : Word} {size : Nat} (ok : s.SpmOpen n a size) : t.SpmOpen n a size := by
  unfold SpmOpen bay at ok ⊢
  rwa [h]

/-- An access that may be made passes the checks of R415. -/
theorem spmCheck_open {a : Word} {size : Nat} (ok : s.SpmOpen n a size) (write : Bool) :
    s.spmCheck n a size write = .ok (a.toNat % 0x1000000) := by
  obtain ⟨aligned, below, on, settled, kept, own⟩ := ok
  have answer : s.bayAns (n / 192) (a.toNat % 0x1000000) (actorOf n) (masterOf n) = none := by
    unfold bayAns actorOf
    simp [on, settled, kept, own]
  unfold spmCheck
  dsimp only
  rw [if_neg (not_not.2 aligned), if_neg (by omega), answer]

/-- A read without a corrected or uncorrected error, of words that are not poisoned, answers the bytes and changes nothing. -/
theorem spmFetch_clean {size : Nat} (clean : s.spmBadIn (n / 192) o size = false) :
    s.spmFetch n o size .ok = .ok (s, s.spmRead (n / 192) o size) := by
  unfold spmFetch
  simp [spmEcc, clean]

/-! ### The two instructions -/

variable {x : Slot} {rd rb : RegNo} {sz : BitVec 2} {off : BitVec 13} {a : Word}

theorem size_cases (sz : BitVec 2) : 2 ^ sz.toNat = 1 ∨ 2 ^ sz.toNat = 2 ∨ 2 ^ sz.toNat = 4 ∨ 2 ^ sz.toNat = 8 := by
  revert sz
  decide

/-- An aligned access of LDS or STS lies in one word, below the end of the scratchpad: its size divides 8. -/
theorem spmOpen_oneWord (ok : s.SpmOpen n a (2 ^ sz.toNat)) :
    a.toNat % 0x1000000 + 2 ^ sz.toNat ≤ 0x1000000 ∧ a.toNat % 0x1000000 % 8 + 2 ^ sz.toNat ≤ 8 ∧ a.toNat / 0x1000000 < 3 := by
  obtain ⟨aligned, below, -⟩ := ok
  rcases size_cases sz with h | h | h | h <;> rw [h] at aligned ⊢ <;> omega

/-- LDS reads the plain value through every view. -/
theorem lds_computes (sx : Bool) (addr : effAddr (s.g x.thr.val rb) off = a) (ok : s.SpmOpen x.thr.val a (2 ^ sz.toNat))
    (good : x.word = .ok) (clean : s.SpmClean x.thr.val a (2 ^ sz.toNat)) :
    s.Computes x [rb] (.lds x rd rb sx sz off) rd
      (loadValue sx (s.spmRead (x.thr.val / 192) (a.toNat % 0x1000000) (2 ^ sz.toNat))) := by
  obtain ⟨words, marks, bays⟩ := ran_spm s x
  have passes := spmCheck_open (spmOpen_congr bays ok) false
  have reads := spmFetch_clean ((spmBadIn_congr marks _ _ _).trans clean)
  have short : (s.spmRead (x.thr.val / 192) (a.toNat % 0x1000000) (2 ^ sz.toNat)).length ≤ 8 := by
    have := spmOpen_oneWord ok
    rw [spmRead, List.length_map, List.length_range]
    omega
  refine s.computes_put rfl ?_
  simp only [g_ran, addr, passes, good, reads]
  rw [spmRead_congr words, loaded_eq_loadValue _ _ short]

/-- The bytes that a store of a register through a view leaves in its place. -/
def storedBytes (s : State) (p : Nat) (a v : Word) (size : Nat) : List Byte :=
  List.zipWith (viewByte (a.toNat / 0x1000000)) (s.spmRead p (a.toNat % 0x1000000) size) (toBytesLE size v.toNat)

theorem storedBytes_length (s : State) (p : Nat) (a v : Word) (size : Nat) : (storedBytes s p a v size).length = size := by
  simp [storedBytes, spmRead]

theorem storedBytes_getElem (s : State) (p : Nat) (a v : Word) {size k : Nat} (h : k < (storedBytes s p a v size).length) :
    (storedBytes s p a v size)[k] =
      viewByte (a.toNat / 0x1000000) (s.spmByte p (a.toNat % 0x1000000 + k)) ((v >>> (8 * k)).setWidth 8) := by
  simp only [storedBytes, spmRead, List.getElem_zipWith, List.getElem_map, List.getElem_range, toBytesLE_getElem, byte_ofNat_div]

/-- STS is one write of a run. -/
theorem exec_sts (addr : effAddr (s.g x.thr.val rb) off = a) (ok : s.SpmOpen x.thr.val a (2 ^ sz.toNat))
    (issues : s.Issues x [rd, rb] false) : exec (.sts x rd rb false sz off) s = .next ((s.ran x).spmWrite (x.thr.val / 192)
      (a.toNat % 0x1000000) (storedBytes s (x.thr.val / 192) a (s.g x.thr.val rd) (2 ^ sz.toNat))) := by
  obtain ⟨words, -, bays⟩ := ran_spm s x
  obtain ⟨-, -, view⟩ := spmOpen_oneWord ok
  have passes := spmCheck_open (spmOpen_congr bays ok) true
  refine congrArg Host.Outcome.next ((s.issue_eq issues _ _).trans ?_)
  simp only [g_ran, addr, passes, Bool.false_eq_true, if_false]
  rw [spmRead_congr words, viewBytes_eq_zipWith _ (by simp [spmRead]), Nat.mod_eq_of_lt (by omega : _ < 4)]
  rfl

/-- Settles O10: LDS is the register write of a plain read, and STS one write of a run within a word. -/
theorem scratchpadLoadStore : Obligations.ScratchpadLoadStore := by
  intro s x rd rb sx sz off n a size o ok
  obtain ⟨below, oneWord, -⟩ := spmOpen_oneWord ok
  obtain ⟨words, marks, -⟩ := ran_spm s x
  have covers : (storedBytes s (n / 192) a (s.g n rd) size).length = size := storedBytes_length ..
  have fits : o + (storedBytes s (n / 192) a (s.g n rd) size).length ≤ 0x1000000 := by rwa [covers]
  refine ⟨lds_computes sx rfl ok, fun issues => ⟨_, exec_sts rfl ok issues, spmWrite_frame _ _ _ _, fun k hk => ?written,
    fun p b _ hb out => ?kept, fun p b _ hb => ?marks⟩⟩
  case written =>
    exact (spmByte_spmWrite_in _ fits (covers.symm ▸ hk)).trans (storedBytes_getElem ..)
  case kept =>
    exact (spmByte_spmWrite_out _ fits hb (covers.symm ▸ out)).trans (spmByte_congr words p b)
  case marks =>
    refine (spmBad_spmWrite _ fits hb).trans ?_
    rw [spmBad_congr marks, covers]
    exact if_congr (by omega) rfl rfl

end Sys2Proof.Machine.Scratchpad
end

section
/-!
PROOFS. The block's step and the addressed memories at reset.
-/

namespace Sys2Proof.Machine.Block

/-- Settles O1: both halves are the definition of a step, at a queue with a front and at the empty one. -/
theorem stepTakesFront : Obligations.StepTakesFront := by
  intro s c rest
  refine ⟨rfl, fun empty => ?_⟩
  unfold step
  rw [empty]

/-- Settles O3: reset lists nothing. -/
theorem resetMemoryCanonical : Obligations.ResetMemoryCanonical := ⟨Memory.wf_reset, rfl, rfl⟩

end Sys2Proof.Machine.Block
end

section
/-!
PROOFS. Decoding of encoded engine instructions (R411–R414): what a field of a word reads where unused bits are carried beside it, and
from it that every word decodes to its instruction.
-/

namespace Sys2Proof.Laws.DecodeEncode

/-- The word `w` with the unused bits `u` beside it. -/
def carried (w : BitVec 32) (u : BitVec 26) : BitVec 32 := w ||| u.setWidth 32

variable {w : BitVec 32} {u uses : BitVec 26} {x : Slot}

/-- Unused bits lie below OP. -/
theorem carried_op (w : BitVec 32) (u : BitVec 26) : (carried w u).extractLsb' 26 6 = w.extractLsb' 26 6 := by
  apply BitVec.eq_of_getLsbD_eq
  intro i hi
  simp [carried, hi]

/-- A bit of a field in use carries no unused bit. -/
theorem carried_bit (free : u &&& uses = 0) (w : BitVec 32) {i : Nat} (used : uses.getLsbD i = true) :
    (carried w u).getLsbD i = w.getLsbD i := by
  have clear := congrArg (·.getLsbD i) free
  simp only [BitVec.getLsbD_and, used, Bool.and_true] at clear
  simp [carried, clear]

/-- A field in use reads as without the unused bits. -/
theorem carried_field (free : u &&& uses = 0) (w : BitVec 32) (lo n : Nat) (covers : ∀ i < n, uses.getLsbD (lo + i) = true) :
    (carried w u).extractLsb' lo n = w.extractLsb' lo n := by
  apply BitVec.eq_of_getLsbD_eq
  intro i hi
  simp only [BitVec.getLsbD_extractLsb', carried_bit free w (covers i hi)]

/-- What the decoder finds outside the fields in use is what the slot carries there. -/
theorem carried_unused (free : u &&& uses = 0) (inUse : w.setWidth 26 &&& ~~~uses = 0) : (carried w u).setWidth 26 &&& ~~~uses = u := by
  have split : (carried w u).setWidth 26 = w.setWidth 26 ||| u := by
    apply BitVec.eq_of_getLsbD_eq
    intro i hi
    simp [carried, hi]
  have kept : u &&& ~~~uses = u := by
    have parts : u &&& uses ||| u &&& ~~~uses = u := by
      rw [← BitVec.and_or_distrib_left, BitVec.or_not_self, BitVec.and_allOnes]
    simpa [free] using parts
  rw [split, BitVec.and_or_distrib_right, inUse, kept]
  simp

theorem slot_carried (free : x.unused &&& uses = 0) (inUse : w.setWidth 26 &&& ~~~uses = 0) :
    { x with unused := (carried w x.unused).setWidth 26 &&& ~~~uses } = x := by
  rw [carried_unused free inUse]

/-! ### The fields of the formats -/

section
variable (op : BitVec 6) (rd rs rt : RegNo) (fn : BitVec 11) (imm : BitVec 16) (far : BitVec 26)

theorem fmtR_op : (fmtR op rd rs rt fn).extractLsb' 26 6 = op := by
  apply BitVec.eq_of_getLsbD_eq
  intro i hi
  simp only [fmtR, BitVec.getLsbD_extractLsb', BitVec.getLsbD_append, hi, show 26 + i - 11 - 5 - 5 - 5 = i by omega]
  rw [if_neg (by omega), if_neg (by omega), if_neg (by omega), if_neg (by omega)]
  simp

theorem fmtR_rd : (fmtR op rd rs rt fn).extractLsb' 21 5 = rd := by
  apply BitVec.eq_of_getLsbD_eq
  intro i hi
  rw [BitVec.getLsbD_extractLsb', FieldsInUse.fmtR_bit _ _ _ _ _ (by omega), if_neg (by omega), if_neg (by omega), if_neg (by omega)]
  simp [hi]

theorem fmtR_rs : (fmtR op rd rs rt fn).extractLsb' 16 5 = rs := by
  apply BitVec.eq_of_getLsbD_eq
  intro i hi
  rw [BitVec.getLsbD_extractLsb', FieldsInUse.fmtR_bit _ _ _ _ _ (by omega), if_neg (by omega), if_neg (by omega), if_pos (by omega)]
  simp [hi]

theorem fmtR_rt : (fmtR op rd rs rt fn).extractLsb' 11 5 = rt := by
  apply BitVec.eq_of_getLsbD_eq
  intro i hi
  rw [BitVec.getLsbD_extractLsb', FieldsInUse.fmtR_bit _ _ _ _ _ (by omega), if_neg (by omega), if_pos (by omega)]
  simp [hi]

theorem fmtR_fn : (fmtR op rd rs rt fn).extractLsb' 0 11 = fn := by
  apply BitVec.eq_of_getLsbD_eq
  intro i hi
  rw [BitVec.getLsbD_extractLsb', FieldsInUse.fmtR_bit _ _ _ _ _ (by omega), if_pos (by omega)]
  simp [hi]

theorem fmtI_op : (fmtI op rd rs imm).extractLsb' 26 6 = op := by
  apply BitVec.eq_of_getLsbD_eq
  intro i hi
  simp only [fmtI, BitVec.getLsbD_extractLsb', BitVec.getLsbD_append, hi, show 26 + i - 16 - 5 - 5 = i by omega]
  rw [if_neg (by omega), if_neg (by omega), if_neg (by omega)]
  simp

theorem fmtI_rd : (fmtI op rd rs imm).extractLsb' 21 5 = rd := by
  apply BitVec.eq_of_getLsbD_eq
  intro i hi
  rw [BitVec.getLsbD_extractLsb', FieldsInUse.fmtI_bit _ _ _ _ (by omega), if_neg (by omega), if_neg (by omega)]
  simp [hi]

/-- A part of the RS field. -/
theorem fmtI_rsPart (n : Nat) (h : n ≤ 5) : (fmtI op rd rs imm).extractLsb' 16 n = rs.setWidth n := by
  apply BitVec.eq_of_getLsbD_eq
  intro i hi
  rw [BitVec.getLsbD_extractLsb', FieldsInUse.fmtI_bit _ _ _ _ (by omega), if_neg (by omega), if_pos (by omega)]
  simp [hi]

/-- A part of the IMM field. -/
theorem fmtI_part (lo n : Nat) (h : lo + n ≤ 16) : (fmtI op rd rs imm).extractLsb' lo n = imm.extractLsb' lo n := by
  apply BitVec.eq_of_getLsbD_eq
  intro i hi
  rw [BitVec.getLsbD_extractLsb', BitVec.getLsbD_extractLsb', FieldsInUse.fmtI_bit _ _ _ _ (by omega), if_pos (by omega)]

end

/-- `uses` has every bit of the field of `n` bits at `lo`. -/
abbrev Covers (uses : BitVec 26) (lo n : Nat) : Prop := ∀ i < n, uses.getLsbD (lo + i) = true

/-- A word of format R has no bit outside fields that are in use or 0. -/
theorem fmtR_inUse {op : BitVec 6} {rd rs rt : RegNo} {fn : BitVec 11} (hrd : rd = 0 ∨ Covers uses 21 5) (hrs : rs = 0 ∨ Covers uses 16 5)
    (hrt : rt = 0 ∨ Covers uses 11 5) (hfn : fn = 0 ∨ Covers uses 0 11) : (fmtR op rd rs rt fn).setWidth 26 &&& ~~~uses = 0 := by
  have zero {n : Nat} {v : BitVec n} {lo i : Nat} (h : v = 0 ∨ Covers uses lo n) (hi : lo ≤ i) (out : uses.getLsbD i = false) :
      v.getLsbD (i - lo) = false := by
    by_cases inside : i - lo < n
    · rcases h with rfl | h
      · simp
      · have := h (i - lo) inside
        rw [show lo + (i - lo) = i by omega, out] at this
        contradiction
    · exact BitVec.getLsbD_of_ge _ _ (by omega)
  apply BitVec.eq_of_getLsbD_eq
  intro i hi
  cases out : uses.getLsbD i
  · simp only [BitVec.getLsbD_and, BitVec.getLsbD_setWidth, FieldsInUse.fmtR_bit _ _ _ _ _ hi]
    split_ifs
    · simp [show fn.getLsbD i = false from zero hfn (Nat.zero_le i) out]
    · simp [zero hrt (by omega) out]
    · simp [zero hrs (by omega) out]
    · simp [zero hrd (by omega) out]
  · simp [out]

theorem full_inUse (w : BitVec 26) : w &&& ~~~(0x3ffffff : BitVec 26) = 0 := by
  rw [show ~~~(0x3ffffff : BitVec 26) = 0 by decide]
  simp

/-! ### The fields of a word as the decoder reads them, by the fields in use -/

section
variable {op : BitVec 6} {rd rs rt : RegNo} {fn : BitVec 11} {imm : BitVec 16}

theorem read_rd (free : u &&& uses = 0) (c : Covers uses 21 5) : (carried (fmtR op rd rs rt fn) u).extractLsb' 21 5 = rd := by
  rw [carried_field free _ _ _ c, fmtR_rd]

theorem read_rs (free : u &&& uses = 0) (c : Covers uses 16 5) : (carried (fmtR op rd rs rt fn) u).extractLsb' 16 5 = rs := by
  rw [carried_field free _ _ _ c, fmtR_rs]

theorem read_rt (free : u &&& uses = 0) (c : Covers uses 11 5) : (carried (fmtR op rd rs rt fn) u).extractLsb' 11 5 = rt := by
  rw [carried_field free _ _ _ c, fmtR_rt]

theorem read_fn (free : u &&& uses = 0) (c : Covers uses 0 11) : (carried (fmtR op rd rs rt fn) u).extractLsb' 0 11 = fn := by
  rw [carried_field free _ _ _ c, fmtR_fn]

theorem read_op : (carried (fmtR op rd rs rt fn) u).extractLsb' 26 6 = op := by
  rw [carried_op, fmtR_op]

theorem read_opI : (carried (fmtI op rd rs imm) u).extractLsb' 26 6 = op := by
  rw [carried_op, fmtI_op]

theorem read_rdI (free : u &&& uses = 0) (c : Covers uses 21 5) : (carried (fmtI op rd rs imm) u).extractLsb' 21 5 = rd := by
  rw [carried_field free _ _ _ c, fmtI_rd]

theorem read_rsI (free : u &&& uses = 0) (n : Nat) (h : n ≤ 5) (c : Covers uses 16 n) :
    (carried (fmtI op rd rs imm) u).extractLsb' 16 n = rs.setWidth n := by
  rw [carried_field free _ _ _ c, fmtI_rsPart _ _ _ _ _ h]

theorem read_immI (free : u &&& uses = 0) (lo n : Nat) (h : lo + n ≤ 16) (c : Covers uses lo n) :
    (carried (fmtI op rd rs imm) u).extractLsb' lo n = imm.extractLsb' lo n := by
  rw [carried_field free _ _ _ c, fmtI_part _ _ _ _ _ _ h]

end

variable {sx : Bool} {sz : BitVec 2} {off : BitVec 13}

/-- SX, SZ and OFF of format M. -/
theorem memory_fields : (BitVec.ofBool sx ++ sz ++ off).extractLsb' 0 13 = off ∧ (BitVec.ofBool sx ++ sz ++ off).extractLsb' 13 2 = sz ∧
    (BitVec.ofBool sx ++ sz ++ off).getLsbD 15 = sx := by
  refine ⟨BitVec.eq_of_getLsbD_eq fun i hi => ?_, BitVec.eq_of_getLsbD_eq fun i hi => ?_, ?_⟩ <;>
    simp only [BitVec.getLsbD_extractLsb', BitVec.getLsbD_append]
  · simp [hi]
  · simp [hi]
  · simp

theorem shift_fields (k : BitVec 2) (c : BitVec 6) : ((0 : BitVec 8) ++ k ++ c).extractLsb' 0 6 = c ∧
    ((0 : BitVec 8) ++ k ++ c).extractLsb' 6 2 = k := by
  refine ⟨BitVec.eq_of_getLsbD_eq fun i hi => ?_, BitVec.eq_of_getLsbD_eq fun i hi => ?_⟩ <;>
    simp only [BitVec.getLsbD_extractLsb', BitVec.getLsbD_append]
  · simp [hi]
  · simp [hi]

/-- The zeros of IMM[15:8] of SHI lie outside the fields in use. -/
theorem shift_inUse (op : BitVec 6) (rd rs : RegNo) (k : BitVec 2) (c : BitVec 6) :
    (fmtI op rd rs ((0 : BitVec 8) ++ k ++ c)).setWidth 26 &&& ~~~(0x3ff00ff : BitVec 26) = 0 := by
  apply BitVec.eq_of_getLsbD_eq
  intro i hi
  simp only [BitVec.getLsbD_and, BitVec.getLsbD_setWidth, FieldsInUse.fmtI_bit _ _ _ _ hi, BitVec.getLsbD_append]
  interval_cases i <;> simp

/-- OP and the offset of JAL. -/
theorem far_fields (op : BitVec 6) (far : BitVec 26) : (op ++ far).extractLsb' 26 6 = op ∧ (op ++ far).extractLsb' 0 26 = far := by
  refine ⟨BitVec.eq_of_getLsbD_eq fun i hi => ?_, BitVec.eq_of_getLsbD_eq fun i hi => ?_⟩ <;>
    simp only [BitVec.getLsbD_extractLsb', BitVec.getLsbD_append]
  · simp [hi]
  · simp [hi]

/-- SX of format M as the decoder reads it. -/
theorem read_sx {op : BitVec 6} {rd rb : RegNo} (free : u &&& uses = 0) (c : uses.getLsbD 15 = true) :
    (carried (fmtI op rd rb (BitVec.ofBool sx ++ sz ++ off)) u).getLsbD 15 = sx := by
  rw [carried_bit free _ c, FieldsInUse.fmtI_bit _ _ _ _ (by decide), if_pos (by decide), memory_fields.2.2]

/-- Decoding the word that carries the unused bits of its slot. -/
theorem decode_carried (i : Instr) (e : EngWord) (h : encodeEng i = some e) (free : e.slot.unused &&& e.uses = 0) :
    decodeEng e.slot e.sel (carried e.word e.slot.unused) = some i := by
  cases i
  case add x rd rs rt | sub x rd rs rt | and_ x rd rs rt | or_ x rd rs rt | xor x rd rs rt | sll x rd rs rt | srl x rd rs rt
      | sra x rd rs rt | mul x rd rs rt | mulhu x rd rs rt | slt x rd rs rt | sltu x rd rs rt | min x rd rs rt | max x rd rs rt
      | atsAdd x rd rs rt | atsSwap x rd rs rt | atsCas x rd rs rt | atrAdd x rd rs rt | atrSwap x rd rs rt | atrCas x rd rs rt
      | thrctlRestart x rd rs rt | bufGive x rd rs rt =>
    obtain rfl := Option.some.inj h
    dsimp only [decodeEng] at free ⊢
    rw [slot_carried free (full_inUse _), read_op, read_rd free (by decide), read_rs free (by decide), read_rt free (by decide),
      read_fn free (by decide)]
    rfl
  case crc x rd rs rt fn =>
    obtain rfl := Option.some.inj h
    dsimp only [decodeEng] at free ⊢
    rw [slot_carried free (full_inUse _), read_op, read_rd free (by decide), read_rs free (by decide), read_rt free (by decide),
      read_fn free (by decide)]
    have assigned : (fn.setWidth 11).toNat < 4 := by
      rw [BitVec.toNat_setWidth_of_le (by decide)]
      exact fn.isLt
    exact (if_pos assigned).trans (by simp)
  case popc x rd rs | clz x rd rs | ctz x rd rs | bswap x rd rs | thrctlFree x rd rs | bufFree x rd rs | bufDrop x rd rs
      | bufShare x rd rs =>
    obtain rfl := Option.some.inj h
    dsimp only [decodeEng] at free ⊢
    rw [slot_carried free (fmtR_inUse (.inr (by decide)) (.inr (by decide)) (.inl rfl) (.inr (by decide))), read_op,
      read_rd free (by decide), read_rs free (by decide), read_fn free (by decide)]
    rfl
  case mbxw x rd rs rt | dma x rd rs rt | tbl x rd rs rt | xmitTxq x rd rs rt | xmitRxq x rd rs rt | xmitWire x rd rs rt
      | xmitPipe x rd rs rt | alloc x rd rs rt | aesEnc x rd rs rt | aesDec x rd rs rt | keyldInstall x rd rs rt
      | keyldDelete x rd rs rt =>
    obtain rfl := Option.some.inj h
    dsimp only [decodeEng] at free ⊢
    rw [slot_carried free (fmtR_inUse (.inr (by decide)) (.inr (by decide)) (.inr (by decide)) (.inl rfl)), read_op,
      read_rd free (by decide), read_rs free (by decide), read_rt free (by decide)]
    rfl
  case join x rd rs | rrd x rd rs | rreg x rd rs =>
    obtain rfl := Option.some.inj h
    dsimp only [decodeEng] at free ⊢
    rw [slot_carried free (fmtR_inUse (.inr (by decide)) (.inr (by decide)) (.inl rfl) (.inl rfl)), read_op,
      read_rd free (by decide), read_rs free (by decide)]
    rfl
  case cpl x rs rt | wreg x rs rt =>
    obtain rfl := Option.some.inj h
    dsimp only [decodeEng] at free ⊢
    rw [slot_carried free (fmtR_inUse (.inl rfl) (.inr (by decide)) (.inr (by decide)) (.inl rfl)), read_op,
      read_rs free (by decide), read_rt free (by decide)]
    rfl
  case endThread x rs | signal x rs | rsv x rs | put x rs =>
    obtain rfl := Option.some.inj h
    dsimp only [decodeEng] at free ⊢
    rw [slot_carried free (fmtR_inUse (.inl rfl) (.inr (by decide)) (.inl rfl) (.inl rfl)), read_op, read_rs free (by decide)]
    rfl
  case tmrAbs x rs | tmrRel x rs =>
    obtain rfl := Option.some.inj h
    dsimp only [decodeEng] at free ⊢
    rw [slot_carried free (fmtR_inUse (.inl rfl) (.inr (by decide)) (.inl rfl) (.inr (by decide))), read_op, read_rs free (by decide),
      read_fn free (by decide)]
    rfl
  case take x rd | mbxr x rd | time x rd =>
    obtain rfl := Option.some.inj h
    dsimp only [decodeEng] at free ⊢
    rw [slot_carried free (fmtR_inUse (.inr (by decide)) (.inl rfl) (.inl rfl) (.inl rfl)), read_op, read_rd free (by decide)]
    rfl
  case wait x rd mask =>
    obtain rfl := Option.some.inj h
    dsimp only [decodeEng] at free ⊢
    rw [slot_carried free (fmtR_inUse (.inr (by decide)) (.inl rfl) (.inl rfl) (.inr (by decide))), read_op, read_rd free (by decide),
      read_fn free (by decide)]
    rfl
  case fence x | rsend x | brk x =>
    obtain rfl := Option.some.inj h
    dsimp only [decodeEng] at free ⊢
    rw [slot_carried free (fmtR_inUse (.inl rfl) (.inl rfl) (.inl rfl) (.inl rfl)), read_op]
    rfl
  case addi x rd rs imm | andi x rd rs imm | ori x rd rs imm | xori x rd rs imm | slti x rd rs imm | beq x rd rs imm
      | bne x rd rs imm | blt x rd rs imm | bge x rd rs imm | bltu x rd rs imm | bgeu x rd rs imm | jalr x rd rs imm
      | fork x rd rs imm | forkd x rd rs imm =>
    obtain rfl := Option.some.inj h
    dsimp only [decodeEng] at free ⊢
    rw [slot_carried free (full_inUse _), read_opI, read_rdI free (by decide), read_rsI free 5 (by decide) (by decide),
      read_immI free 0 16 (by decide) (by decide), BitVec.setWidth_eq, BitVec.extractLsb'_eq_self]
    rfl
  case lds x rd rb sx sz off | sts x rd rb sx sz off | ldw x rd rb sx sz off | stw x rd rb sx sz off | ldr x rd rb sx sz off
      | str x rd rb sx sz off =>
    obtain rfl := Option.some.inj h
    obtain ⟨offField, szField, -⟩ := memory_fields (sx := sx) (sz := sz) (off := off)
    dsimp only [decodeEng] at free ⊢
    rw [slot_carried free (full_inUse _), read_opI, read_rdI free (by decide), read_rsI free 5 (by decide) (by decide),
      read_immI free 0 13 (by decide) (by decide), read_immI free 13 2 (by decide) (by decide), read_sx free (by decide),
      BitVec.setWidth_eq, offField, szField]
    rfl
  case shiSll x rd rs c | shiSrl x rd rs c | shiSra x rd rs c | shiRotate x rd rs c =>
    obtain rfl := Option.some.inj h
    dsimp only [decodeEng] at free ⊢
    rw [slot_carried free (shift_inUse ..), read_opI, read_rdI free (by decide), read_rsI free 5 (by decide) (by decide),
      read_immI free 0 6 (by decide) (by decide), read_immI free 6 2 (by decide) (by decide), BitVec.setWidth_eq,
      (shift_fields _ c).1, (shift_fields _ c).2]
    rfl
  case jal x off =>
    obtain rfl := Option.some.inj h
    dsimp only [decodeEng] at free ⊢
    rw [slot_carried free (full_inUse _), carried_op, carried_field free _ 0 26 (by decide), (far_fields _ off).1, (far_fields _ off).2]
    rfl
  case lih x rd k imm =>
    have inUse := FieldsInUse.lih x rd k imm e h
    obtain rfl := Option.some.inj h
    dsimp only [decodeEng] at free inUse ⊢
    rw [slot_carried free inUse, read_opI, read_rdI free (by decide), read_rsI free 2 (by decide) (by decide),
      read_immI free 0 16 (by decide) (by decide), BitVec.extractLsb'_eq_self, BitVec.setWidth_setWidth_of_le _ (by decide), BitVec.setWidth_eq]
    rfl
  case mfs x rd k =>
    have inUse := FieldsInUse.mfs x rd k e h
    obtain rfl := Option.some.inj h
    dsimp only [decodeEng] at free inUse ⊢
    rw [slot_carried free inUse, read_opI, read_rdI free (by decide), read_immI free 0 8 (by decide) (by decide)]
    exact congrArg (fun j => some (Instr.mfs x rd j)) (BitVec.eq_of_toNat_eq (by simpa using k.isLt))
  all_goals exact nomatch h

/-- A well-formed command carries unused bits only outside the fields it uses. -/
theorem unused_free {i : Instr} {e : EngWord} (h : encodeEng i = some e) (wf : i.wf = true) : e.slot.unused &&& e.uses = 0 := by
  simp only [Instr.wf, Instr.unusedOk, h, Bool.and_eq_true, beq_iff_eq] at wf
  exact wf.1

/-- Settles O5: the decoder reads every field in use as the encoder wrote it, and the slot's unused bits beside them. -/
theorem engineDecodeOfEncode : Obligations.EngineDecodeOfEncode :=
  fun i e h wf => decode_carried i e h (unused_free h wf)

end Sys2Proof.Laws.DecodeEncode
end

section
/-!
PROOFS. What operations leave the addressed memories alone (R28–R30, R427, R443): one equation for each.
-/

namespace Sys2Proof.Machine.MemoryFrame
open State

/-- The addressed memories: RLD bytes and scratchpad words, with their poison marks. -/
def memory (s : State) : SMap Byte × SMap Bool × SMap Word × SMap Bool := (s.rld, s.rldPoison, s.spm, s.spmPoison)

theorem sameMemory_iff {s t : State} : s.SameMemory t ↔ memory t = memory s := by
  simp [SameMemory, memory]

theorem wf_of_memory {s t : State} (h : memory t = memory s) (wf : Memory.wf s = true) : Memory.wf t = true :=
  Memory.wf_congr (sameMemory_iff.2 h) wf

/-- A fold of steps that leave the memories alone leaves them alone. -/
theorem memory_foldl {A : Type} {f : State → A → State} (h : ∀ t a, memory (f t a) = memory t) (l : List A) (s : State) :
    memory (l.foldl f s) = memory s := by
  induction l generalizing s with
  | nil => rfl
  | cons a l ih => rw [List.foldl_cons, ih, h]

variable (s : State)

/-! ### Registers, signals and faults -/

@[simp] theorem memory_setReg (r : Reg) (i : Nat) (w : Word) : memory (s.setReg r i w) = memory s := rfl
@[simp] theorem memory_setFld (f : Fld) (i v : Nat) : memory (s.setFld f i v) = memory s := rfl
@[simp] theorem memory_bump (f : Fld) (i k : Nat) : memory (s.bump f i k) = memory s := rfl
@[simp] theorem memory_emit (o : Out) : memory (s.emit o) = memory s := rfl
@[simp] theorem memory_applyMask (r : Reg) (i : Nat) (m : Word) : memory (s.applyMask r i m) = memory s := rfl
@[simp] theorem memory_epoch (b : Boundary) (r : Reg) (i : Nat) : memory (s.epoch b r i) = memory s := rfl
@[simp] theorem memory_hold (r : Reg) (i : Nat) (m v : Word) : memory (s.hold r i m v) = memory s := rfl
@[simp] theorem memory_setMap (r : Reg) (n : Nat) : memory (s.setMap r n) = memory s := rfl
@[simp] theorem memory_endCmd (f g : Fld) (i c : Nat) (q : Seq) : memory (s.endCmd f g i c q) = memory s := rfl
@[simp] theorem memory_fresh : memory s.fresh.2 = memory s := rfl

@[simp] theorem memory_msixSend (f : Fn) (v : Nat) : memory (s.msixSend f v) = memory s := by
  rw [msixSend_frame]
  rfl

@[simp] theorem memory_mfVector (v : Nat) : memory (s.mfVector v) = memory s := by
  rw [mfVector_frame]
  rfl

@[simp] theorem memory_setEvt (evt en vec : Reg) (i b : Nat) : memory (s.setEvt evt en vec i b) = memory s := by
  rw [setEvt_frame]
  rfl

theorem memory_evtTogether (evt en vec : Reg) (i : Nat) {f : State → State} (h : ∀ t, memory (f t) = memory t) :
    memory (s.evtTogether evt en vec i f) = memory s := by
  unfold evtTogether
  dsimp only
  split <;> simp [h]

@[simp] theorem memory_capture (c : FaultClass) (e : FaultEv) : memory (s.capture c e) = memory s := by
  unfold capture
  dsimp only
  split
  · simp
  · cases c <;> simp [startPulse]

@[simp] theorem memory_raise (source code detail : Nat) : memory (s.raise source code detail) = memory s := by
  unfold raise faultEv
  split
  · rfl
  · split <;> simp

/-! ### Domains, threads and their objects -/

@[simp] theorem memory_setDom (d v : Nat) : memory (s.setDom d v) = memory s := by
  unfold setDom
  split <;> rfl

@[simp] theorem memory_gatingEnd (d v c : Nat) : memory (s.gatingEnd d v c) = memory s := by
  simp only [gatingEnd, pwrEnd, pwrEvt, memory_setEvt, memory_endCmd, memory_setFld, memory_setDom]
  rfl

@[simp] theorem memory_wakeDom (work : Bool) (d : Nat) : memory (s.wakeDom work d) = memory s := by
  unfold wakeDom
  split
  · split <;> simp
  · split <;> simp [pwrEvt]
  · rfl

@[simp] theorem memory_wake (work : Bool) (d : Nat) : memory (s.wake work d) = memory s := by
  unfold wake
  split <;> simp

@[simp] theorem memory_sourceWake (t : Nat) : memory (s.sourceWake t) = memory s := memory_wake ..

@[simp] theorem memory_setThr (n : Nat) (y : Thread) : memory (s.setThr n y) = memory s := by
  rw [setThr_frame]
  rfl

@[simp] theorem memory_setPc (n : Nat) (pc : BitVec 32) : memory (s.setPc n pc) = memory s := memory_setThr ..

@[simp] theorem memory_setGreg (n r : Nat) (w : Word) : memory (s.setGreg n r w) = memory s := by
  unfold setGreg
  split <;> simp

@[simp] theorem memory_setRail (p r : Nat) (x : Rail) : memory (s.setRail p r x) = memory s := rfl
@[simp] theorem memory_setEq (t : Nat) (x : List EqItem) : memory (s.setEq t x) = memory s := rfl
@[simp] theorem memory_setMail (c : Nat) (x : Mbx) : memory (s.setMail c x) = memory s := rfl
@[simp] theorem memory_setRec (i : Nat) (x : BufRec) : memory (s.setRec i x) = memory s := rfl
@[simp] theorem memory_setQueue (q : Nat) (x : Queue) : memory (s.setQueue q x) = memory s := rfl
@[simp] theorem memory_setSpan (n : Nat) (x : Span) : memory (s.setSpan n x) = memory s := rfl
@[simp] theorem memory_setCache (k p : Nat) (l : List Nat) : memory (s.setCache k p l) = memory s := rfl
@[simp] theorem memory_setDmaC (p c : Nat) (x : DmaCh) : memory (s.setDmaC p c x) = memory s := rfl
@[simp] theorem memory_setTag (h t : Nat) (x : Tag) : memory (s.setTag h t x) = memory s := rfl
@[simp] theorem memory_setRx (p : Nat) (l : List Pkt) : memory (s.setRx p l) = memory s := rfl
@[simp] theorem memory_setTq (p q : Nat) (l : List Pkt) : memory (s.setTq p q l) = memory s := rfl
@[simp] theorem memory_setEgress (p : Nat) (l : List Pkt) : memory (s.setEgress p l) = memory s := rfl
@[simp] theorem memory_setTim (t : Tim) : memory (s.setTim t) = memory s := rfl
@[simp] theorem memory_setCaps (n : Nat) (l : List Capture) : memory (s.setCaps n l) = memory s := rfl

@[simp] theorem memory_pendSource (n b : Nat) : memory (s.pendSource n b) = memory s := by
  unfold pendSource
  split <;> simp

@[simp] theorem memory_supCause (f : Fld) (t : Nat) : memory (s.supCause f t) = memory s := by
  simp [supCause]

@[simp] theorem memory_withdrawAlloc (n : Nat) : memory (s.withdrawAlloc n) = memory s := rfl

@[simp] theorem memory_leaveWaits (n : Nat) : memory (s.leaveWaits n) = memory s := by
  unfold leaveWaits
  split <;> rfl

@[simp] theorem memory_raiseExc (n : Nat) (e : Exc) (pc : BitVec 32) : memory (s.raiseExc n e pc) = memory s := by
  unfold raiseExc
  dsimp only
  split <;> simp [trsEvt]

@[simp] theorem memory_excAt (n : Nat) (e : Exc) (pc : BitVec 32) : memory (s.excAt n e pc) = memory s := by
  simp [excAt]

@[simp] theorem memory_storeUe (t l kind code : Nat) : memory (s.storeUe t l kind code) = memory s := by
  unfold storeUe
  dsimp only
  split <;> simp

@[simp] theorem memory_storeCe (t : Nat) : memory (s.storeCe t) = memory s := by
  simp [storeCe]

@[simp] theorem memory_regErrAt (n kind : Nat) (pc : BitVec 32) : memory (s.regErrAt n kind pc) = memory s := by
  simp [regErrAt]

@[simp] theorem memory_orphan (n : Nat) : memory (s.orphan n) = memory s := by
  unfold orphan
  dsimp only
  split <;> simp

@[simp] theorem memory_vacate (n : Nat) : memory (s.vacate n) = memory s := by
  unfold vacate
  exact memory_foldl (fun t m => memory_orphan t m) _ _

@[simp] theorem memory_joinNone (n : Nat) : memory (s.joinNone n) = memory s := by
  unfold joinNone
  dsimp only
  split
  · split <;> simp
  · rfl

@[simp] theorem memory_toPool (n : Nat) : memory (s.toPool n) = memory s := by
  simp [toPool]

@[simp] theorem memory_endThread (n : Nat) (v : Word) : memory (s.endThread n v) = memory s := by
  unfold endThread
  dsimp only
  split
  · split <;> simp
  · simp

@[simp] theorem memory_takeSources (n : Nat) (set claims : BitVec 11) (rd : Nat) : memory (s.takeSources n set claims rd) = memory s := by
  simp [takeSources]

@[simp] theorem memory_thrDone (q : Seq) (c : Nat) : memory (s.thrDone q c) = memory s := rfl

@[simp] theorem memory_haltAgain (n : Nat) : memory (s.haltAgain n) = memory s := by
  unfold haltAgain
  dsimp only
  split <;> simp

@[simp] theorem memory_unhalt (n : Nat) : memory (s.unhalt n) = memory s := by
  simp [unhalt]

/-! ### The buffer pool -/

@[simp] theorem memory_bpmEpochs (p a : Nat) : memory (s.bpmEpochs p a) = memory s := rfl

@[simp] theorem memory_poolWatch (p : Nat) : memory (s.poolWatch p) = memory s := by
  unfold poolWatch
  dsimp only
  split
  · simp
  · split <;> simp

theorem memory_linkChain (owner : BitVec 16) (a : Nat) (bad first : Bool) (l : List Nat) : memory (s.linkChain owner a bad first l) = memory s := by
  induction l generalizing s first with
  | nil => rfl
  | cons i l ih =>
    cases l with
    | nil => rfl
    | cons j l =>
      rw [linkChain, ih]
      rfl

@[simp] theorem memory_addUse (a n : Nat) : memory (s.addUse a n) = memory s := by
  unfold addUse
  dsimp only
  split <;> simp

@[simp] theorem memory_grantBufs (p a n : Nat) (pier : Option Nat) (owner : BitVec 16) : memory (s.grantBufs p a n pier owner).2 = memory s := by
  unfold grantBufs
  cases pier <;> simp [memory_linkChain]

@[simp] theorem memory_refusedCharge (p a : Nat) : memory (s.refusedCharge p a) = memory s := by
  simp [refusedCharge]

@[simp] theorem memory_waitBufs (w : BufWait) : memory (s.waitBufs w) = memory s := by
  rw [← memory_refusedCharge s w.pool w.acct]
  unfold waitBufs
  generalize s.refusedCharge w.pool w.acct = u
  dsimp only
  split <;> rfl

/-- A chain's records are erased one by one. -/
theorem memory_eraseRecs (l : List Nat) : memory (l.foldl (fun (t : State) j => { t with recs := SMap.erase t.recs j }) s) = memory s := by
  induction l generalizing s with
  | nil => rfl
  | cons j l ih => exact (ih _).trans rfl

@[simp] theorem memory_freeChain (i : Nat) : memory (s.freeChain i) = memory s := by
  unfold freeChain
  dsimp only
  split
  · rfl
  · split <;> simp [memory_eraseRecs]

@[simp] theorem memory_release (i : Nat) : memory (s.release i) = memory s := by
  unfold release
  dsimp only
  split_ifs <;> simp

@[simp] theorem memory_releaseOpt (o : Option Nat) : memory (s.releaseOpt o) = memory s := by
  cases o <;> simp [releaseOpt]

@[simp] theorem memory_bufRefuse (who : BitVec 16) (i c : Nat) : memory (s.bufRefuse who i c) = memory s := by
  unfold bufRefuse
  dsimp only
  split_ifs <;> simp

/-! ### Host requests -/

@[simp] theorem memory_stuCapture (n k : Nat) (w : Bool) (a : Nat) : memory (s.stuCapture n k w a) = memory s := by
  unfold stuCapture
  split <;> rfl

@[simp] theorem memory_refuseQuiet (n : Nat) (w : Bool) (a : Nat) : memory (s.refuseQuiet n w a) = memory s := by
  simp [refuseQuiet]

@[simp] theorem memory_xlateFault (n : Nat) (w : Bool) (a : Nat) : memory (s.xlateFault n w a) = memory s := by
  simp [xlateFault, stuEvt]

@[simp] theorem memory_sendWrite (f : Fn) (a : Nat) (d : List Byte) (bad rel : Bool) : memory (s.sendWrite f a d bad rel) = memory s := by
  unfold sendWrite
  dsimp only
  split_ifs <;> simp

@[simp] theorem memory_sendReq (f : Fn) (o : Out) : memory (s.sendReq f o) = memory s := by
  unfold sendReq
  split <;> simp

/-- The state that an issued or failed piece leaves. -/
def left : Iss → Option State
  | .out t | .fail t _ => some t
  | .hold | .walk => none

theorem memory_sendRead {r : HostReq} {a : Nat} {rel : Bool} {t : State} (h : left (s.sendRead r a rel) = some t) : memory t = memory s := by
  unfold sendRead at h
  dsimp only at h
  split at h
  · obtain rfl := Option.some.inj h
    rfl
  · split at h
    · cases h
    · obtain rfl := Option.some.inj h
      simp

@[simp] theorem memory_logLost (n : Nat) : memory (s.logLost n) = memory s := by
  simp [logLost]

@[simp] theorem memory_logRead (x : LogLine) : memory (s.logRead x) = memory s := by
  unfold logRead
  dsimp only
  split
  · simp
  · split
    · rfl
    · split
      · next t out => exact (memory_sendRead _ (t := t) (congrArg left out)).trans rfl
      · rfl

@[simp] theorem memory_logPage (n k : Nat) : memory (s.logPage n k) = memory s := by
  unfold logPage
  dsimp only
  split
  · simp [stuEvt]
  · split <;> split
    · rfl
    · simp
    · rfl
    · simp

@[simp] theorem memory_logWrite (n a len : Nat) : memory (s.logWrite n a len) = memory s := by
  unfold logWrite
  split
  · exact memory_foldl (fun t i => memory_logPage t _ _) _ _
  · rfl

theorem memory_issuePiece {j : Job} {p : Part} {t : State} (h : left (s.issuePiece j p) = some t) : memory t = memory s := by
  unfold issuePiece at h
  dsimp only at h
  repeat' split at h
  all_goals first
    | exact memory_sendRead _ h
    | cases h
  all_goals simp

@[simp] theorem memory_walkSend (j : Job) : memory (s.walkSend j).2 = memory s := by
  unfold walkSend
  split
  · refine iteInduction (motive := fun r : Job × State => memory r.2 = memory s) (fun _ => rfl) fun _ => ?_
    generalize s.freeTag (s.fnLink j.fn) 16384 0 = free
    cases free with
    | none => rfl
    | some t => exact (memory_sendReq ..).trans (memory_setTag ..)
  · rfl

@[simp] theorem memory_refreshDrained (n : Nat) : memory (s.refreshDrained n) = memory s := by
  unfold refreshDrained
  dsimp only
  split_ifs <;> simp [stuEvt]

theorem memory_addWalk (r : Job × State) (n : Nat) : memory ({ r.2 with walks := r.2.walks ++ [r.1] }.refreshDrained n) = memory r.2 :=
  (memory_refreshDrained ..).trans rfl

@[simp] theorem memory_walkStart (j : Job) : memory (s.walkStart j) = memory s :=
  (memory_addWalk (s.walkSend _) (j.span.getD 0)).trans (memory_walkSend ..)

/-! ### Queues -/

@[simp] theorem memory_qeEvt (b : Nat) : memory (s.qeEvt b) = memory s := memory_setEvt ..

@[simp] theorem memory_qeCapture (q : Nat) (c : BitVec 16) (st : Nat) : memory (s.qeCapture q c st) = memory s := by
  unfold qeCapture
  split
  · rfl
  · exact memory_setReg ..

@[simp] theorem memory_queueQuiesced (q : Nat) : memory (s.queueQuiesced q) = memory s := by
  simp [queueQuiesced]

/-- The state that a ring write leaves. -/
def posted : Post → State
  | .ok t | .drop t | .wait t | .fault t _ => t

@[simp] theorem memory_ringWrite (q : Nat) (c : BitVec 16) (cell : Cell16) : memory (posted (s.ringWrite q c cell)) = memory s := by
  unfold ringWrite
  dsimp only
  split
  · rfl
  · split
    · rfl
    · split
      · next t out => exact memory_issuePiece s (congrArg left out)
      · rfl
      · dsimp only [posted]
        split <;> simp
      · next t code out =>
        have kept := memory_issuePiece s (congrArg left out)
        split <;> exact kept

@[simp] theorem memory_rxDrop (q : Nat) (f : Pkt) : memory (s.rxDrop q f) = memory s := by
  simp [rxDrop]

@[simp] theorem memory_rxFlush (q : Nat) : memory (s.rxFlush q) = memory s :=
  memory_foldl (fun _ _ => (memory_foldl (fun _ _ => memory_rxDrop ..) _ _).trans (memory_setRx ..)) _ _

@[simp] theorem memory_rxStarve (q : Nat) : memory (s.rxStarve q) = memory s := by
  unfold rxStarve
  dsimp only
  split <;> simp

@[simp] theorem memory_rxIssued (q : Nat) (c : BitVec 16) : memory (s.rxIssued q c) = memory s := by
  unfold rxIssued
  dsimp only
  split
  · rfl
  · exact memory_foldl (fun _ _ => (memory_foldl (fun _ _ => memory_releaseOpt ..) _ _).trans (memory_setRx ..)) _ _

@[simp] theorem memory_enterError (q c : Nat) (cell : BitVec 16) : memory (s.enterError q c cell) = memory s := by
  unfold enterError
  dsimp only
  split <;> simp

@[simp] theorem memory_eventDone (r : Nat) : memory (s.eventDone r) = memory s := by
  unfold eventDone
  dsimp only
  split
  · split <;> simp
  · simp

@[simp] theorem memory_overflow (r q : Nat) : memory (s.overflow r q) = memory s := rfl

/-- What a ring write left has the memories of before. -/
theorem memory_posted {q : Nat} {c : BitVec 16} {cell : Cell16} {r : Post} (h : s.ringWrite q c cell = r) : memory (posted r) = memory s :=
  h ▸ memory_ringWrite ..

@[simp] theorem memory_flushOverflow (r : Nat) : memory (s.flushOverflow r) = memory s := by
  unfold flushOverflow
  dsimp only
  split
  · split <;> rename_i out <;> have kept := memory_posted s out <;> dsimp only [posted] at kept <;> simp [kept]
  · rfl

@[simp] theorem memory_tryEvent (r : Nat) (e : EvItem) : memory (s.tryEvent r e).2 = memory s := by
  rw [← memory_flushOverflow s r]
  unfold tryEvent
  generalize s.flushOverflow r = u
  dsimp only
  split
  · rfl
  · split
    · rfl
    · have covered (t : State) : memory (if e.type = 1 then t.setQueue e.queue { t.queue e.queue with sinceEvent := 0, badSince := 0 } else t)
          = memory t := by split <;> rfl
      split <;> rename_i out <;> have kept := memory_posted u out <;> dsimp only [posted] at kept <;> simp [kept, covered]

@[simp] theorem memory_drainEvents (r : Nat) (l : List EvItem) : memory (s.drainEvents r l) = memory s := by
  induction l generalizing s with
  | nil => rfl
  | cons e l ih =>
    have kept := memory_tryEvent s r e
    rw [drainEvents]
    split <;> rename_i out <;> rw [out] at kept
    · rw [ih]
      exact kept
    · exact kept

@[simp] theorem memory_postEvent (q t st : Nat) : memory (s.postEvent q t st) = memory s := by
  unfold postEvent
  split <;> simp

@[simp] theorem memory_queueError (q c : Nat) (cell : BitVec 16) : memory (s.queueError q c cell) = memory s := by
  unfold queueError
  split <;> simp

@[simp] theorem memory_moderate (q : Nat) : memory (s.moderate q) = memory s := by
  unfold moderate
  dsimp only
  split_ifs <;> simp

@[simp] theorem memory_queueEnd (q : Seq) (c : Nat) : memory (s.queueEnd q c) = memory s := by
  simp [queueEnd]

@[simp] theorem memory_checkDisable (q : Nat) : memory (s.checkDisable q) = memory s := by
  unfold checkDisable
  dsimp only
  split
  · split <;> simp
  · rfl

@[simp] theorem memory_completed (q : Nat) (cell : BitVec 16) (irq : Bool) (st b : Nat) : memory (s.completed q cell irq st b) = memory s := by
  unfold completed
  dsimp only
  split <;> simp

@[simp] theorem memory_writeCompletion (q : Nat) (e : Entry) (st : Nat) (c : Cpl) : memory (s.writeCompletion q e st c).2 = memory s := by
  have first : memory (posted (if 2 ≤ e.cells.length then s.ringWrite q (e.cell + 1) (complCell1 c) else .ok s)) = memory s := by
    split
    · simp
    · rfl
  have last (t : State) (kept : memory t = memory s) :
      memory (match t.ringWrite q e.cell (complCell0 e.hdr st c) with
        | .wait u => (false, { s with walks := u.walks })
        | .fault u code => (true, (u.queueError q code e.cell).completed q e.cell e.irq st c.bytes)
        | .ok u | .drop u => (true, u.completed q e.cell e.irq st c.bytes)).2 = memory s := by
    split <;> rename_i out <;> have after := memory_posted t out <;> dsimp only [posted] at after
    · rfl
    all_goals simp [after, kept]
  unfold writeCompletion
  dsimp only
  split <;> rename_i out <;> rw [out] at first <;> dsimp only [posted] at first
  · exact first
  · simp [first]
  · exact last _ first
  · exact last _ first

@[simp] theorem memory_noteDue (q : Nat) (c : BitVec 16) : memory (s.noteDue q c) = memory s := by
  unfold noteDue
  split <;> rfl

@[simp] theorem memory_finishEntry (q : Nat) (b : Begun) : memory (s.finishEntry q b) = memory s := by
  have done (t : State) (c : Cpl) (kept : memory t = memory s) :
      memory (match t.writeCompletion q b.entry b.status c with
        | (true, u) => { u with cplDue := u.cplDue.filter (· != (q, b.entry.cell)) }
        | (false, u) => u.noteDue q b.entry.cell) = memory s := by
    have written := memory_writeCompletion t q b.entry b.status c
    split <;> rename_i out <;> rw [out] at written
    · exact written.trans kept
    · exact (memory_noteDue ..).trans (written.trans kept)
  unfold finishEntry
  cases b.result with
  | some c => exact done _ _ rfl
  | none => exact done _ _ (memory_fresh s)

@[simp] theorem memory_withBegun (q : Nat) (c : BitVec 16) (f : Begun → Begun) : memory (s.withBegun q c f) = memory s := rfl

end Sys2Proof.Machine.MemoryFrame
end

section
/-!
PROOFS. What jobs, frames, registers and instructions leave of the addressed memories, up to the step of an engine instruction (R28–R30,
R427, R443).
-/

namespace Sys2Proof.Machine.MemoryFrame
open State

variable (s : State)

/-! ### Jobs -/

@[simp] theorem memory_withRun (p ch : Nat) (f : DmaRun → DmaRun) : memory (s.withRun p ch f) = memory s := rfl
@[simp] theorem memory_chFail (p ch c : Nat) : memory (s.chFail p ch c) = memory s := rfl
@[simp] theorem memory_burstEnded (p ch b k : Nat) : memory (s.burstEnded p ch b k) = memory s := rfl
@[simp] theorem memory_barrierRead (p ch : Nat) : memory (s.barrierRead p ch) = memory s := rfl

@[simp] theorem memory_chStopped (p ch g : Nat) : memory (s.chStopped p ch g) = memory s := by
  unfold chStopped
  dsimp only
  split <;> simp

@[simp] theorem memory_depFail (d : Dep) (code k : Nat) : memory (s.depFail d code k) = memory s := by
  cases d with
  | fetch q =>
    unfold depFail
    dsimp only
    split <;> simp
  | log n a => exact (memory_logLost ..).trans rfl
  | tblRing p => exact (memory_setEvt ..).trans rfl
  | _ => simp [depFail] <;> rfl

@[simp] theorem memory_depWritten (d : Dep) : memory (s.depWritten d) = memory s := by
  cases d <;> simp [depWritten]

theorem memory_runParts (j : Job) (l : List Part) : memory (s.runParts j l) = memory s := by
  induction l generalizing s j with
  | nil => rfl
  | cons p l ih =>
    rw [runParts]
    split <;> rename_i out
    · rw [ih]
      have kept := memory_issuePiece s (congrArg left out)
      split <;> simp [kept]
    · rfl
    · simp
    · have kept := memory_issuePiece s (congrArg left out)
      simp [kept]

@[simp] theorem memory_runJob (j : Job) : memory (s.runJob j) = memory s := memory_runParts ..

/-! ### Frames -/

@[simp] theorem memory_dropPkt (f : Pkt) (c : Nat) : memory (s.dropPkt f c) = memory s := by
  unfold dropPkt
  dsimp only
  split <;> simp

@[simp] theorem memory_tmsPut (p q : Nat) (f : Pkt) : memory (s.tmsPut p q f) = memory s := by
  unfold tmsPut
  dsimp only
  split_ifs <;> simp

@[simp] theorem memory_toHost (p q : Nat) (f : Pkt) : memory (s.toHost p q f) = memory s := by
  unfold toHost
  split <;> simp

theorem memory_xmitTo {n kind target : Nat} {w : Word} {send : State → Pkt → State} (h : s.xmitTo n kind target w = some send)
    (t : State) (f : Pkt) : memory (send t f) = memory t := by
  unfold xmitTo at h
  split at h
  · obtain ⟨_, h⟩ := Option.ite_none_right_eq_some.1 h
    obtain rfl := Option.some.inj h
    rfl
  · obtain ⟨_, h⟩ := Option.ite_none_right_eq_some.1 h
    obtain rfl := Option.some.inj h
    exact memory_toHost ..
  · dsimp only at h
    split at h
    · obtain ⟨_, h⟩ := Option.ite_none_right_eq_some.1 h
      obtain rfl := Option.some.inj h
      rfl
    · cases h
  · obtain ⟨_, h⟩ := Option.ite_none_right_eq_some.1 h
    obtain rfl := Option.some.inj h
    rfl

theorem wf_chainStore (i off : Nat) (bs : List Byte) (bad : Bool) (h : Memory.wf s = true) : Memory.wf (s.chainStore i off bs bad) = true := by
  refine wf_foldl _ (fun t k wf => ?_) _ h
  extract_lets start part
  split
  · refine iteInduction (motive := fun u => Memory.wf u = true) (fun _ => wf) fun _ => wf_rldStore _ _ _ wf
  · exact wf

theorem wf_xmitFrame (n h len : Nat) (wf : Memory.wf s = true) : Memory.wf (s.xmitFrame n h len).2 = true := by
  unfold xmitFrame
  extract_lets x mine t
  have stored : Memory.wf t = true := by
    unfold t
    split
    · exact wf_chainStore _ _ _ _ _ wf
    · exact wf
  generalize t = t at stored ⊢
  dsimp only
  split
  · exact stored
  · exact wf_of_memory (by simp) stored

/-! ### The scratchpad -/

@[simp] theorem memory_spmCap (p : Nat) (w : Word) : memory (s.spmCap p w) = memory s := by
  unfold spmCap
  split
  · rfl
  · exact memory_setReg ..

@[simp] theorem memory_spmEvt (p b : Nat) : memory (s.spmEvt p b) = memory s := memory_setEvt ..

@[simp] theorem memory_spmRefuse (p off : Nat) (a : BitVec 16) (m c : Nat) (w : Bool) : memory (s.spmRefuse p off a m c w) = memory s := by
  unfold spmRefuse
  rw [memory_spmEvt, memory_spmCap, memory_bump]

@[simp] theorem memory_spmUe (p off : Nat) (a : BitVec 16) (m : Nat) : memory (s.spmUe p off a m) = memory s := by
  unfold spmUe
  dsimp only
  rw [memory_raise, memory_spmEvt, memory_spmCap, memory_bump]

theorem wf_spmEcc (p off : Nat) (e : Ecc) (wf : Memory.wf s = true) : Memory.wf (s.spmEcc p off e) = true := by
  cases e with
  | ok => exact wf
  | corrected => exact wf_of_memory (by simp [spmEcc]) wf
  | uncorrected => exact wf_putBad _ _ wf

theorem wf_mgmtRead (p : Nat) (e : Ecc) (wf : Memory.wf s = true) : Memory.wf (s.mgmtRead p e).2 = true := by
  have read := wf_spmEcc s p (s.mgmtOff p) e wf
  unfold mgmtRead
  dsimp only
  split
  · exact wf_of_memory (memory_spmRefuse ..) wf
  · dsimp only
    split
    · exact wf_of_memory (memory_spmUe ..) read
    · exact read

/-! ### Mailboxes and time -/

@[simp] theorem memory_fullMap (c : Nat) : memory (s.fullMap c) = memory s := by
  unfold fullMap
  dsimp only
  split_ifs <;> simp

@[simp] theorem memory_storeIn (c : Nat) (w : Word) : memory (s.storeIn c w) = memory s := by
  unfold storeIn
  dsimp only
  generalize (if c < 4096 then s.spanFn c else _) = fn
  split
  · split <;> simp
  · rfl

@[simp] theorem memory_mbxFrom : memory s.mbxFrom.2 = memory s := (memory_fullMap ..).trans rfl

@[simp] theorem memory_timNow : memory s.timNow.2 = memory s := rfl

@[simp] theorem memory_capPop (n : Nat) : memory (s.capPop n).2 = memory s := by
  unfold capPop
  split <;> rfl

@[simp] theorem memory_gnssPop : memory s.gnssPop.2 = memory s := by
  unfold gnssPop
  split <;> rfl

@[simp] theorem memory_timEvt (b : Nat) : memory (s.timEvt b) = memory s := memory_setEvt ..

theorem memory_ringTake (o : RingOp) {f : State → State} (h : ∀ t, memory (f t) = memory t) : memory (s.ringTake o f) = memory s := by
  unfold ringTake
  split
  · rfl
  · split
    · exact h s
    · dsimp only
      split
      · rw [h, memory_wake]
      · exact memory_wake ..

theorem memory_onReg (r : Reg) (i : Nat) (w : Word) {f : State → State} (h : ∀ t, memory (f t) = memory t) :
    memory (s.onReg r i w f) = memory s := memory_ringTake s _ h

theorem memory_adjBy (servo : Bool) {f : State → State} (h : ∀ t, memory (f t) = memory t) : memory (s.adjBy servo f) = memory s := by
  unfold adjBy
  split
  · exact h s
  · rfl

theorem memory_adjOn (servo : Bool) (r : Reg) (w : Word) {f : State → State} (h : ∀ t, memory (f t) = memory t) :
    memory (s.adjOn servo r w f) = memory s := by
  unfold adjOn
  split
  · exact memory_adjBy s _ h
  · exact memory_onReg s _ _ _ fun t => memory_adjBy t _ h

@[simp] theorem memory_adjAdd (a : Adj) : memory (s.adjAdd a) = memory s := rfl
@[simp] theorem memory_writeIncr (v : Nat) : memory (s.writeIncr v) = memory s := rfl

@[simp] theorem memory_pageUpdate (h : Link) : memory (s.pageUpdate h) = memory s := by
  unfold pageUpdate
  extract_lets t odd page _ u
  have kept : memory u = memory s := rfl
  generalize u = u at kept ⊢
  split
  · exact kept
  · rw [memory_runJob]
    exact kept

@[simp] theorem memory_setTimState (v : Nat) : memory (s.setTimState v) = memory s := by
  unfold setTimState
  split
  · rfl
  · exact (memory_foldl memory_pageUpdate _ _).trans (memory_timEvt ..)

@[simp] theorem memory_toHoldover : memory s.toHoldover = memory s := (memory_setTimState ..).trans rfl

/-- A servo update changes the state of the servo. -/
theorem memory_servoUpd (servo : Bool) (offset : BitVec 32) (req : BitVec 2) :
    memory (s.after (execTimServoUpd servo offset req s)) = memory s := by
  refine memory_adjOn s servo _ _ fun t => ?_
  dsimp only
  split
  · exact (memory_setTimState ..).trans rfl
  · exact (memory_toHoldover _).trans rfl
  · rfl
  · exact memory_setTimState ..
  · rfl

theorem memory_gnssTx (b : Byte) : memory (s.after (execGnssTxWrite b s)) = memory s := by
  refine memory_onReg s _ _ _ fun t => ?_
  split <;> rfl

@[simp] theorem memory_ppsWrite : memory s.ppsWrite = memory s := by
  unfold ppsWrite
  split <;> rfl

@[simp] theorem memory_toutCtl (k v : Nat) : memory (s.toutCtl k v) = memory s := rfl

/-! ### The register bus -/

@[simp] theorem memory_wrPlain (r : Reg) (k : Nat) (w : Word) : memory (s.wrPlain r k w) = memory s := by
  unfold wrPlain
  dsimp only
  split <;> rfl

@[simp] theorem memory_wrEnable (r e v : Reg) (k : Nat) (w : Word) : memory (s.wrEnable r e v k w) = memory s := by
  unfold wrEnable
  dsimp only
  split <;> simp

@[simp] theorem memory_wrBasic (r : Reg) (k : Nat) (w : Word) : memory (s.wrBasic r k w) = memory s := by
  unfold wrBasic
  split <;> simp

@[simp] theorem memory_wrTim (servo : Bool) (r : Reg) (i : Nat) (w : Word) : memory (s.wrTim servo r i w) = memory s := by
  unfold wrTim
  split
  · split <;> simp
  · exact memory_adjBy s _ fun t => memory_writeIncr ..
  · exact memory_adjBy s _ fun t => memory_wrBasic ..
  · exact memory_adjBy s _ fun t => memory_wrBasic ..
  · exact memory_adjBy s _ fun t => memory_wrBasic ..
  · exact memory_adjBy s _ fun t => memory_wrBasic ..
  · dsimp only
    split
    · exact memory_adjOn s _ _ _ fun t => memory_adjAdd ..
    · exact memory_adjOn s _ _ _ fun t => memory_adjAdd ..
    · exact memory_adjOn s _ _ _ fun t => (memory_adjAdd ..).trans (memory_epoch ..)
    · exact memory_adjOn s _ _ _ fun t => memory_adjAdd ..
    · exact memory_adjBy s _ fun t => rfl
  · exact memory_servoUpd ..
  · exact memory_gnssTx ..
  · simp
  · simp
  · dsimp only
    split <;> simp
  · simp

theorem wf_busRead (r : Reg) (i : Nat) (e : Ecc) (wf : Memory.wf s = true) : Memory.wf (s.busRead r i e).2 = true := by
  unfold busRead
  split
  · exact wf_of_memory (memory_timNow s) wf
  · exact wf_of_memory (memory_capPop ..) wf
  · exact wf_of_memory (memory_gnssPop s) wf
  · exact wf_of_memory (memory_mbxFrom s) wf
  · exact wf_mgmtRead s _ _ wf
  · exact wf
  · dsimp only
    split <;> exact wf

end Sys2Proof.Machine.MemoryFrame
end

section
/-!
PROOFS. The step of an engine instruction keeps the canonical form of the addressed memories (R28–R30, R427, R443).
-/

namespace Sys2Proof.Machine.MemoryFrame
open State

/-- The state that an instruction leaves, ended or faulted. -/
def doneState : Done → State
  | .ok t | .exc _ t => t

/-- The effect of an instruction. -/
abbrev Effect := State → Nat → BitVec 32 → Done

/-- An effect that leaves the memories alone. -/
def Quiet (f : Effect) : Prop := ∀ t n pc, memory (doneState (f t n pc)) = memory t

/-- An effect that keeps the canonical form of the memories. -/
def Sound (f : Effect) : Prop := ∀ t n pc, Memory.wf t = true → Memory.wf (doneState (f t n pc)) = true

theorem Quiet.sound {f : Effect} (h : Quiet f) : Sound f := fun t n pc => wf_of_memory (h t n pc)

variable (s : State)

/-! ### Slots -/

theorem wf_issueNow {f : Effect} (x : Slot) (uses : BitVec 26) (hf : Sound f) (wf : Memory.wf s = true) :
    Memory.wf (s.issueNow x uses f) = true := by
  have checked : memory (if x.regs == .corrected
      then (if x.store == .corrected then (s.bump F.TRS_ISSUE_CNT_COUNT (x.thr.val / 64)).storeCe (x.thr.val / 64)
        else s.bump F.TRS_ISSUE_CNT_COUNT (x.thr.val / 64)).storeCe (x.thr.val / 64)
      else if x.store == .corrected then (s.bump F.TRS_ISSUE_CNT_COUNT (x.thr.val / 64)).storeCe (x.thr.val / 64)
        else s.bump F.TRS_ISSUE_CNT_COUNT (x.thr.val / 64)) = memory s := by
    split <;> split <;> simp
  unfold issueNow
  dsimp only
  split
  · exact wf_of_memory (by simp) wf
  · generalize (ite ((x.regs == .corrected) = true) _ _ : State) = u at checked ⊢
    have wf := wf_of_memory checked wf
    split
    · exact wf_of_memory (memory_regErrAt ..) wf
    · split
      · exact wf_of_memory (memory_excAt ..) wf
      · have after := hf (u.setPc x.thr.val ((s.thr x.thr.val).pc + 4)) x.thr.val (s.thr x.thr.val).pc (wf_of_memory (memory_setPc ..) wf)
        split <;> rename_i out <;> rw [out] at after
        · exact after
        · exact wf_of_memory (memory_excAt ..) after

/-- A slot keeps the canonical form if the instruction's effect does. -/
theorem wf_issue {f : Effect} (x : Slot) (uses : BitVec 26) (reads : List RegNo) (ret : Bool) (hf : Sound f)
    (wf : Memory.wf s = true) : Memory.wf (s.issue x uses reads ret f) = true := by
  unfold issue
  dsimp only
  split
  · split
    · exact wf
    · split
      · exact wf
      · exact wf_of_memory (memory_haltAgain ..) (wf_issueNow _ x uses hf (wf_of_memory (memory_unhalt s _) wf))
  · split
    · exact wf
    · exact wf_issueNow s x uses hf wf

/-! ### Effects that leave the memories alone -/

@[simp] theorem memory_put (n : Nat) (rd : RegNo) (w : Word) : memory (doneState (s.put n rd w)) = memory s := memory_setGreg ..
@[simp] theorem memory_ok : memory (doneState (.ok s)) = memory s := rfl
@[simp] theorem memory_exc (e : Exc) : memory (doneState (.exc e s)) = memory s := rfl

@[simp] theorem memory_jump (n : Nat) (target : Int) : memory (doneState (s.jump n target)) = memory s := by
  unfold jump
  split <;> simp

@[simp] theorem memory_startOp (n : Nat) (pc : BitVec 32) (op : RetOp) : memory (doneState (s.startOp n pc op)) = memory s := by
  simp [startOp]

/-- A jump that leaves PC + 4 in a register. -/
theorem quiet_link (target : State → Nat → BitVec 32 → Int) (rd : RegNo) :
    Quiet fun t n pc => match t.jump n (target t n pc) with
      | .ok u => u.put n rd (BitVec.ofNat 64 (pc.toNat + 4))
      | .exc e u => .exc e u := by
  intro t n pc
  have kept := memory_jump t n (target t n pc)
  dsimp only
  split <;> rename_i out <;> rw [out] at kept
  · exact (memory_put ..).trans kept
  · exact kept

/-- An instruction that writes a register. -/
theorem quiet_put (rd : RegNo) (v : State → Nat → BitVec 32 → Word) : Quiet fun t n pc => t.put n rd (v t n pc) :=
  fun _ _ _ => memory_put ..

theorem quiet_special (rd : RegNo) (k : Nat) :
    Quiet fun t n _ => match t.special n k with | some w => t.put n rd w | none => .exc .illegal t := by
  intro t n pc
  dsimp only
  split <;> simp

theorem quiet_branch (rs rt : RegNo) (off : Int) (p : Word → Word → Bool) :
    Quiet fun t n pc => if p (t.g n rs) (t.g n rt) then t.jump n (relTarget pc off) else .ok t := by
  intro t n pc
  dsimp only
  split <;> simp

/-! ### The engine queue -/

theorem memory_takeItem (n : Nat) (rd : RegNo) : memory (doneState (s.takeItem n rd)) = memory s := by
  unfold takeItem
  dsimp only
  split
  · simp
  · rw [memory_put]
    split <;> simp
  · rw [memory_put]
    exact (memory_setThr ..).trans (memory_setEq ..)

theorem memory_eqLost (n : Nat) (i : EqItem) : memory (s.eqLost n i) = memory s := by
  unfold eqLost
  dsimp only
  split <;> simp

/-! ### Effects on the scratchpad -/

/-- The state beside the refusal of a scratchpad access has the memories of before. -/
theorem memory_spmCheck {n : Nat} {a : Word} {size : Nat} {write : Bool} {d : Done} (h : s.spmCheck n a size write = .error d) :
    memory (doneState d) = memory s := by
  unfold spmCheck at h
  dsimp only at h
  split_ifs at h
  · obtain rfl := Except.error.inj h
    rfl
  · obtain rfl := Except.error.inj h
    rfl
  · split at h
    · obtain rfl := Except.error.inj h
      exact memory_spmRefuse ..
    · cases h

theorem wf_spmCheck {n : Nat} {a : Word} {size : Nat} {write : Bool} {d : Done} (h : s.spmCheck n a size write = .error d)
    (wf : Memory.wf s = true) : Memory.wf (doneState d) = true := wf_of_memory (memory_spmCheck s h) wf

theorem wf_spmFetch_error {n off size : Nat} {e : Ecc} {d : Done} (h : s.spmFetch n off size e = .error d)
    (wf : Memory.wf s = true) : Memory.wf (doneState d) = true := by
  unfold spmFetch at h
  dsimp only at h
  split at h
  · obtain rfl := Except.error.inj h
    exact wf_of_memory (memory_spmUe ..) (wf_spmEcc s _ _ _ wf)
  · cases h

theorem wf_spmFetch_ok {n off size : Nat} {e : Ecc} {t : State} {bs : List Byte} (h : s.spmFetch n off size e = .ok (t, bs))
    (wf : Memory.wf s = true) : Memory.wf t = true := by
  unfold spmFetch at h
  dsimp only at h
  split at h
  · cases h
  · obtain ⟨rfl, -⟩ := Prod.mk.inj (Except.ok.inj h)
    exact wf_spmEcc s _ _ _ wf

/-- An effect that checks and reads the scratchpad, and then goes on with the bytes. -/
theorem sound_spmRead (a : State → Nat → BitVec 32 → Word) (size : Nat) (write : Bool) (e : Ecc)
    (f : List Byte → Nat → Effect) (hf : ∀ bs o, Sound (f bs o)) :
    Sound fun t n pc => match t.spmCheck n (a t n pc) size write with
      | .error d => d
      | .ok o => match t.spmFetch n o size e with
        | .error d => d
        | .ok (t, bs) => f bs o t n pc := by
  intro t n pc wf
  dsimp only
  split
  · next out => exact wf_spmCheck t out wf
  · split
    · next out => exact wf_spmFetch_error t out wf
    · next out => exact hf _ _ _ _ _ (wf_spmFetch_ok t out wf)

end Sys2Proof.Machine.MemoryFrame
end

section
/-!
PROOFS. Instruction by instruction: an engine instruction keeps the canonical form of the addressed memories (R28–R30, R427, R443).
-/

namespace Sys2Proof.Machine.MemoryFrame
open State

/-- A command that goes on to a state whose memories are in canonical form. -/
def Kept (o : Out3) : Prop := ∃ t, o = .next t ∧ Memory.wf t = true

variable {s : State} (wf : Memory.wf s = true)
include wf

/-- An instruction is kept if its effect keeps the form. -/
theorem kept_issue {f : Effect} (x : Slot) (uses : BitVec 26) (reads : List RegNo) (ret : Bool) (hf : Sound f) :
    Kept (.next (s.issue x uses reads ret f)) := ⟨_, rfl, wf_issue s x uses reads ret hf wf⟩

/-! ### Arithmetic, jumps and special registers -/

theorem kept_alu2 (x : Slot) (rd rs rt : RegNo) (f : Word → Word → Word) : Kept (.next (s.alu2 x rd rs rt f)) :=
  kept_issue wf _ _ _ _ (quiet_put _ _).sound

theorem kept_alu1 (x : Slot) (rd rs : RegNo) (f : Word → Word) : Kept (.next (s.alu1 x rd rs f)) :=
  kept_issue wf _ _ _ _ (quiet_put _ _).sound

theorem kept_aluImm (x : Slot) (rd rs : RegNo) (f : Word → Word) : Kept (.next (s.aluImm x rd rs f)) :=
  kept_issue wf _ _ _ _ (quiet_put _ _).sound

theorem kept_shi (x : Slot) (rd rs : RegNo) (f : Word → Word) : Kept (.next (s.shi x rd rs f)) :=
  kept_issue wf _ _ _ _ (quiet_put _ _).sound

theorem kept_lih (x : Slot) (rd : RegNo) (k : BitVec 2) (imm : BitVec 16) : Kept (execLih x rd k imm s) :=
  kept_issue wf _ _ _ _ (quiet_put _ _).sound

theorem kept_crc (x : Slot) (rd rs rt : RegNo) (fn : BitVec 2) : Kept (execCrc x rd rs rt fn s) :=
  kept_issue wf _ _ _ _ (quiet_put _ _).sound

theorem kept_branch (x : Slot) (rs rt : RegNo) (off : BitVec 16) (p : Word → Word → Bool) : Kept (.next (s.branch x rs rt off p)) :=
  kept_issue wf _ _ _ _ (quiet_branch _ _ _ _).sound

theorem kept_jal (x : Slot) (off : BitVec 26) : Kept (execJal x off s) :=
  kept_issue wf _ _ _ _ (quiet_link (fun _ _ pc => relTarget pc off.toInt) _).sound

theorem kept_jalr (x : Slot) (rd rs : RegNo) (imm : BitVec 16) : Kept (execJalr x rd rs imm s) := by
  refine kept_issue wf _ _ _ _ (Quiet.sound fun t n pc => ?_)
  dsimp only
  split
  · rfl
  · exact quiet_link (fun t n _ => (t.g n rs + imm.signExtend 64).toNat) rd t n pc

theorem kept_fence (x : Slot) : Kept (execFence x s) := by
  unfold execFence
  dsimp only
  split
  · exact ⟨_, rfl, wf⟩
  · exact kept_issue wf _ _ _ _ (Quiet.sound fun _ _ _ => rfl)

theorem kept_mfs (x : Slot) (rd : RegNo) (k : Byte) : Kept (execMfs x rd k s) :=
  kept_issue wf _ _ _ _ (quiet_special _ _).sound

theorem kept_time (x : Slot) (rd : RegNo) : Kept (execTime x rd s) :=
  kept_issue wf _ _ _ _ (Quiet.sound fun _ _ _ => (memory_put ..).trans (memory_setThr ..))

theorem kept_timer (x : Slot) (rs : RegNo) (v : State → Nat → Word) :
    Kept (.next (s.issue x (mRs ||| mFn) [rs] false fun t n _ => t.setTimer n (v t n))) :=
  kept_issue wf _ _ _ _ (Quiet.sound fun _ _ _ => memory_setThr ..)

/-! ### Threads and waits -/

theorem kept_fork (x : Slot) (rd rs : RegNo) (imm : BitVec 16) (detached : Bool) : Kept (.next (s.fork x rd rs imm detached)) := by
  refine kept_issue wf _ _ _ _ (Quiet.sound fun t n pc => ?_)
  dsimp only
  split
  · rfl
  · split <;> simp

theorem kept_join (x : Slot) (rd rs : RegNo) : Kept (execJoin x rd rs s) := by
  refine kept_issue wf _ _ _ _ (Quiet.sound fun t n pc => ?_)
  dsimp only
  split_ifs <;> simp

theorem kept_end (x : Slot) (rs : RegNo) : Kept (execEnd x rs s) := by
  refine kept_issue wf _ _ _ _ (Quiet.sound fun t n pc => ?_)
  split <;> simp

theorem kept_signal (x : Slot) (rs : RegNo) : Kept (execSignal x rs s) := by
  refine kept_issue wf _ _ _ _ (Quiet.sound fun t n pc => ?_)
  dsimp only
  split_ifs <;> simp

theorem kept_wait (x : Slot) (rd : RegNo) (mask : BitVec 11) : Kept (execWait x rd mask s) := by
  refine kept_issue wf _ _ _ _ (Quiet.sound fun t n pc => ?_)
  dsimp only
  split <;> simp

theorem kept_thrctlFree (x : Slot) (rd rs : RegNo) : Kept (execThrctlFree x rd rs s) := by
  refine kept_issue wf _ _ _ _ (Quiet.sound fun t n pc => ?_)
  split
  · rfl
  · split <;> simp

theorem kept_thrctlRestart (x : Slot) (rd rs rt : RegNo) : Kept (execThrctlRestart x rd rs rt s) := by
  refine kept_issue wf _ _ _ _ (Quiet.sound fun t n pc => ?_)
  dsimp only
  split
  · rfl
  · split
    · rfl
    · split <;> simp

theorem kept_brk (x : Slot) : Kept (execBrk x s) := by
  refine kept_issue wf _ _ _ _ (Quiet.sound fun t n pc => ?_)
  dsimp only
  split <;> simp

/-! ### Rails and mailboxes -/

theorem kept_rsv (x : Slot) (rs : RegNo) : Kept (execRsv x rs s) := by
  refine kept_issue wf _ _ _ _ (Quiet.sound fun t n pc => ?_)
  dsimp only
  split_ifs <;> simp

theorem kept_put (x : Slot) (rs : RegNo) : Kept (execPut x rs s) := by
  refine kept_issue wf _ _ _ _ (Quiet.sound fun t n pc => ?_)
  dsimp only
  split <;> simp

theorem kept_rsend (x : Slot) : Kept (execRsend x s) := by
  refine kept_issue wf _ _ _ _ (Quiet.sound fun t n pc => ?_)
  dsimp only
  split
  · rfl
  · split
    · split_ifs <;> simp
    · simp

theorem kept_rrd (x : Slot) (rd rs : RegNo) : Kept (execRrd x rd rs s) := by
  refine kept_issue wf _ _ _ _ (Quiet.sound fun t n pc => ?_)
  dsimp only
  split_ifs
  · rfl
  · rfl
  · split <;> simp

theorem kept_mbxr (x : Slot) (rd : RegNo) : Kept (execMbxr x rd s) := by
  refine kept_issue wf _ _ _ _ (Quiet.sound fun t n pc => ?_)
  dsimp only
  split <;> simp

theorem kept_mbxw (x : Slot) (rd rs rt : RegNo) : Kept (execMbxw x rd rs rt s) := by
  refine kept_issue wf _ _ _ _ (Quiet.sound fun t n pc => ?_)
  dsimp only
  split_ifs <;> simp

/-! ### Scratchpad, packet window and RLD -/

theorem kept_lds (x : Slot) (rd rb : RegNo) (sx : Bool) (sz : BitVec 2) (off : BitVec 13) : Kept (execLds x rd rb sx sz off s) :=
  kept_issue wf _ _ _ _ (sound_spmRead (fun t n _ => effAddr (t.g n rb) off) _ _ _ (fun bs _ t n _ => t.put n rd (loaded sx bs))
    fun _ _ => (quiet_put _ _).sound)

theorem kept_sts (x : Slot) (rd rb : RegNo) (sx : Bool) (sz : BitVec 2) (off : BitVec 13) : Kept (execSts x rd rb sx sz off s) := by
  refine kept_issue wf _ _ _ _ fun t n pc wf => ?_
  dsimp only
  split
  · exact wf
  · split
    · next out => exact wf_spmCheck t out wf
    · exact wf_of_memory (memory_ok _) (wf_spmWrite _ _ _ _ wf)

theorem kept_ats (x : Slot) (rd rs rt : RegNo) (reads : List RegNo) (f : Word → Word → Word → Option Word) :
    Kept (.next (s.ats x rd rs rt reads f)) := by
  refine kept_issue wf _ _ _ _ (sound_spmRead (fun t n _ => t.g n rs) _ _ _ (fun bs o t n _ =>
    match f (loaded false bs) (t.g n rt) (t.g n rd) with
    | some w => (t.setWord (n / 192) o w).put n rd (loaded false bs)
    | none => t.put n rd (loaded false bs)) fun bs o t n pc wf => ?_)
  dsimp only
  split
  · exact wf_of_memory (memory_put ..) (wf_setWord _ _ _ _ wf)
  · exact wf_of_memory (memory_put ..) wf

theorem kept_ldw (x : Slot) (rd rb : RegNo) (sx : Bool) (sz : BitVec 2) (off : BitVec 13) : Kept (execLdw x rd rb sx sz off s) := by
  refine kept_issue wf _ _ _ _ (Quiet.sound fun t n pc => ?_)
  have kept (o size : Nat) : memory (t.winRead n o size).1 = memory t := by
    unfold winRead
    dsimp only
    split
    · rfl
    · split
      · rfl
      · split <;> simp
  dsimp only
  split_ifs
  · rfl
  · rfl
  · exact (memory_put ..).trans (kept ..)

theorem kept_stw (x : Slot) (rd rb : RegNo) (sx : Bool) (sz : BitVec 2) (off : BitVec 13) : Kept (execStw x rd rb sx sz off s) := by
  refine kept_issue wf _ _ _ _ (Quiet.sound fun t n pc => ?_)
  dsimp only
  split_ifs <;> simp

theorem kept_ldr (x : Slot) (rd rb : RegNo) (sx : Bool) (sz : BitVec 2) (off : BitVec 13) : Kept (execLdr x rd rb sx sz off s) := by
  refine kept_issue wf _ _ _ _ (Quiet.sound fun t n pc => ?_)
  dsimp only
  split <;> simp

theorem kept_str (x : Slot) (rd rb : RegNo) (sx : Bool) (sz : BitVec 2) (off : BitVec 13) : Kept (execStr x rd rb sx sz off s) := by
  refine kept_issue wf _ _ _ _ (Quiet.sound fun t n pc => ?_)
  dsimp only
  split
  · rfl
  · split <;> simp

theorem kept_atr (x : Slot) (rd rs rt : RegNo) (reads : List RegNo) (fn : Fin 3) : Kept (.next (s.atr x rd rs rt reads fn)) := by
  refine kept_issue wf _ _ _ _ (Quiet.sound fun t n pc => ?_)
  split <;> simp

/-! ### Queues, buffers and ciphers -/

theorem kept_take (x : Slot) (rd : RegNo) : Kept (execTake x rd s) := by
  refine kept_issue wf _ _ _ _ (Quiet.sound fun t n pc => ?_)
  split
  · exact (memory_takeItem ..).trans (memory_eqLost ..)
  · exact (memory_takeItem ..).trans (memory_storeCe ..)
  · exact memory_takeItem ..

theorem kept_dma (x : Slot) (rd rs rt : RegNo) : Kept (execDma x rd rs rt s) := by
  refine kept_issue wf _ _ _ _ fun t n pc wf => ?_
  dsimp only
  split
  · split
    · exact wf
    · exact sound_spmRead (fun t n _ => t.g n rt) 32 false x.word (fun bs _ t n pc => t.startOp n pc (.dma _ (descOf bs) rd))
        (fun _ _ => Quiet.sound fun _ _ _ => memory_startOp ..) t n pc wf
  · exact wf

theorem kept_cpl (x : Slot) (rs rt : RegNo) : Kept (execCpl x rs rt s) := by
  refine kept_issue wf _ _ _ _ fun t n pc wf => ?_
  dsimp only
  split
  · exact wf
  · split
    · next out => exact wf_spmCheck t out wf
    · split
      · next out => exact wf_spmFetch_error t out wf
      · next out =>
        have read := wf_spmFetch_ok t out wf
        split
        · exact wf_of_memory (memory_finishEntry ..) read
        · exact read

theorem kept_xmit (x : Slot) (rd rs rt : RegNo) (kind : Nat) : Kept (.next (s.xmit x rd rs rt kind)) := by
  unfold xmit
  split
  · exact ⟨_, rfl, wf⟩
  · refine kept_issue wf _ _ _ _ fun t n pc wf => ?_
    dsimp only
    split
    · exact wf
    · next send out =>
      split
      · exact wf
      · split
        · split
          · exact wf
          · refine wf_of_memory (memory_put ..) (wf_of_memory (memory_xmitTo _ out _ _) ?_)
            split
            · exact wf_of_memory (memory_setRec ..) (wf_xmitFrame _ _ _ _ wf)
            · exact wf_xmitFrame _ _ _ _ wf
        · exact wf_of_memory (memory_put ..) wf
        · exact wf_of_memory ((memory_put ..).trans (memory_bufRefuse ..)) wf

theorem kept_alloc (x : Slot) (rd rs rt : RegNo) : Kept (execAlloc x rd rs rt s) := by
  refine kept_issue wf _ _ _ _ (Quiet.sound fun t n pc => ?_)
  dsimp only
  split
  · rfl
  · split
    · rfl
    · split_ifs <;> simp

theorem kept_tbl (x : Slot) (rd rs rt : RegNo) : Kept (execTbl x rd rs rt s) := by
  refine kept_issue wf _ _ _ _ (Quiet.sound fun t n pc => ?_)
  split
  · next out => exact memory_spmCheck t out
  · simp

theorem kept_buf (x : Slot) (rd rs : RegNo) (fn : Fin 4) : Kept (.next (s.bufStart x rd rs fn)) :=
  kept_issue wf _ _ _ _ (Quiet.sound fun _ _ _ => memory_startOp ..)

theorem kept_bufGive (x : Slot) (rd rs rt : RegNo) : Kept (execBufGive x rd rs rt s) := by
  refine kept_issue wf _ _ _ _ (Quiet.sound fun t n pc => ?_)
  dsimp only
  split <;> simp

theorem kept_aes (x : Slot) (rd rs rt : RegNo) (decrypt : Bool) : Kept (.next (s.aesStart x rd rs rt decrypt)) := by
  unfold aesStart
  split
  · exact ⟨_, rfl, wf⟩
  · refine kept_issue wf _ _ _ _ (Quiet.sound fun t n pc => ?_)
    split <;> simp

theorem kept_keyld (x : Slot) (rd rs rt : RegNo) (kind : Nat) : Kept (.next (s.keyldStart x rd rs rt kind)) := by
  unfold keyldStart
  split
  · exact ⟨_, rfl, wf⟩
  · refine kept_issue wf _ _ _ _ fun t n pc wf => ?_
    dsimp only
    split
    · exact wf
    · split
      · next out => exact wf_spmCheck t out wf
      · split
        · next out => exact wf_spmFetch_error t out wf
        · next out => exact wf_of_memory (memory_startOp ..) (wf_spmFetch_ok t out wf)

/-! ### The register bus -/

theorem kept_lost (x : Slot) : Kept (.next (s.lostSlot x)) := by
  refine ⟨_, rfl, ?_⟩
  unfold lostSlot
  dsimp only
  split <;> exact wf

theorem kept_rreg (x : Slot) (rd rs : RegNo) : Kept (execRreg x rd rs s) := by
  unfold execRreg
  split
  · exact kept_lost wf x
  · refine kept_issue wf _ _ _ _ fun t n pc wf => ?_
    dsimp only
    split
    · exact wf
    · exact wf_of_memory (memory_put ..) wf
    · exact wf_of_memory (memory_put ..) (wf_busRead _ _ _ _ wf)

theorem kept_wreg (x : Slot) (rs rt : RegNo) : Kept (execWreg x rs rt s) := by
  unfold execWreg
  split
  · exact kept_lost wf x
  · refine kept_issue wf _ _ _ _ (Quiet.sound fun t n pc => ?_)
    split
    · rfl
    · rfl
    · split
      · rfl
      · rw [memory_ok]
        split <;> simp

/-! ### Every instruction -/

/-- The effect of an engine instruction keeps the canonical form. -/
theorem kept_exec {c : Instr} (engine : (encodeEng c).isSome = true) : Kept (exec c s) := by
  cases c
  case add | sub | and_ | or_ | xor | sll | srl | sra | mul | mulhu | slt | sltu | min | max => exact kept_alu2 wf ..
  case popc | clz | ctz | bswap => exact kept_alu1 wf ..
  case addi | andi | ori | xori | slti => exact kept_aluImm wf ..
  case lih => exact kept_lih wf ..
  case shiSll | shiSrl | shiSra | shiRotate => exact kept_shi wf ..
  case lds => exact kept_lds wf ..
  case sts => exact kept_sts wf ..
  case ldw => exact kept_ldw wf ..
  case stw => exact kept_stw wf ..
  case ldr => exact kept_ldr wf ..
  case str => exact kept_str wf ..
  case atsAdd | atsSwap | atsCas => exact kept_ats wf ..
  case atrAdd | atrSwap | atrCas => exact kept_atr wf ..
  case beq | bne | blt | bge | bltu | bgeu => exact kept_branch wf ..
  case jal => exact kept_jal wf ..
  case jalr => exact kept_jalr wf ..
  case fence => exact kept_fence wf ..
  case mfs => exact kept_mfs wf ..
  case fork | forkd => exact kept_fork wf ..
  case join => exact kept_join wf ..
  case endThread => exact kept_end wf ..
  case signal => exact kept_signal wf ..
  case wait => exact kept_wait wf ..
  case tmrAbs x rs => exact kept_timer wf x rs fun t n => t.g n rs
  case tmrRel x rs => exact kept_timer wf x rs fun t n => t.cycle + t.g n rs
  case thrctlFree => exact kept_thrctlFree wf ..
  case thrctlRestart => exact kept_thrctlRestart wf ..
  case take => exact kept_take wf ..
  case rsv => exact kept_rsv wf ..
  case put => exact kept_put wf ..
  case rsend => exact kept_rsend wf ..
  case rrd => exact kept_rrd wf ..
  case mbxr => exact kept_mbxr wf ..
  case mbxw => exact kept_mbxw wf ..
  case dma => exact kept_dma wf ..
  case tbl => exact kept_tbl wf ..
  case cpl => exact kept_cpl wf ..
  case xmitTxq | xmitRxq | xmitWire | xmitPipe => exact kept_xmit wf ..
  case alloc => exact kept_alloc wf ..
  case bufFree | bufDrop | bufShare => exact kept_buf wf ..
  case bufGive => exact kept_bufGive wf ..
  case aesEnc | aesDec => exact kept_aes wf ..
  case keyldInstall | keyldDelete => exact kept_keyld wf ..
  case crc => exact kept_crc wf ..
  case time => exact kept_time wf ..
  case rreg => exact kept_rreg wf ..
  case wreg => exact kept_wreg wf ..
  case brk => exact kept_brk wf ..
  all_goals exact nomatch engine

omit wf

/-- Settles O4: each engine instruction's effect keeps the form, and so do the slot's own records. -/
theorem engineStepKeepsMemoryCanonical : Obligations.EngineStepKeepsMemoryCanonical := by
  intro s t c rest front engine wf done
  obtain ⟨u, ran, kept⟩ := kept_exec (s := { s with pending := rest }) wf engine
  have taken : step s = exec c { s with pending := rest } := by
    unfold step
    rw [front]
  rw [ran, done] at taken
  obtain rfl := Host.Outcome.next.inj taken
  exact kept

end Sys2Proof.Machine.MemoryFrame
end

section
/-!
PROOFS. Slots of the engine (R379, R380, R412): what an issued slot, an idle one and a bubble leave.
-/

namespace Sys2Proof.Machine.Issue
open State

variable (s : State)

/-! ### The state of an issued slot -/

theorem ran_eq_setThr (x : Slot) :
    s.ran x = (s.bump F.TRS_ISSUE_CNT_COUNT (x.thr.val / 64)).setThr x.thr.val
      { s.thr x.thr.val with pc := (s.thr x.thr.val).pc + 4 } := rfl

theorem thr_ran_ne {x : Slot} {m : Nat} (h : m ≠ x.thr.val) : (s.ran x).thr m = s.thr m := by
  rw [ran_eq_setThr, thr_setThr_ne _ _ h]
  rfl

@[simp] theorem regs_ran (x : Slot) : (s.ran x).regs = (s.bump F.TRS_ISSUE_CNT_COUNT (x.thr.val / 64)).regs := setThr_regs ..

theorem reg_ran (x : Slot) (r : Reg) (i : Nat) : (s.ran x).reg r i = (s.bump F.TRS_ISSUE_CNT_COUNT (x.thr.val / 64)).reg r i := by
  unfold reg
  rw [regs_ran]

/-- An issued slot leaves all but the PC of any thread. -/
theorem thr_ran_any (x : Slot) (m : Nat) : (s.ran x).thr m = { s.thr m with pc := ((s.ran x).thr m).pc } := by
  by_cases same : m = x.thr.val
  · rw [same, thr_ran]
  · rw [thr_ran_ne s same]

theorem state_ran (x : Slot) (m : Nat) : ((s.ran x).thr m).state = (s.thr m).state := by rw [thr_ran_any]
theorem joinable_ran (x : Slot) (m : Nat) : ((s.ran x).thr m).joinable = (s.thr m).joinable := by rw [thr_ran_any]
theorem parent_ran (x : Slot) (m : Nat) : ((s.ran x).thr m).parent = (s.thr m).parent := by rw [thr_ran_any]
theorem aborting_ran (x : Slot) (m : Nat) : ((s.ran x).thr m).aborting = (s.thr m).aborting := by rw [thr_ran_any]
theorem joining_ran (x : Slot) (m : Nat) : ((s.ran x).thr m).joining = (s.thr m).joining := by rw [thr_ran_any]

/-- A field that is its whole register. -/
theorem fld_of_whole {f : Fld} (lo : f.lo = 0) (width : f.width = 64) (i : Nat) : s.fld f i = (s.reg f.reg i).toNat := by
  have small := (s.reg f.reg i).isLt
  simp only [fld, getBits, lo, width, BitVec.ushiftRight_zero]
  omega

theorem satAdd_whole (w : Word) : BitVec.ofNat 64 (satAdd 64 w.toNat 1) = if w = BitVec.allOnes 64 then BitVec.allOnes 64 else w + 1 := by
  apply BitVec.eq_of_toNat_eq
  have small := w.isLt
  rw [Sys2Proof.Machine.TimeUnit.satAdd_one]
  split
  · next full => simp [full]
  · next more =>
    have below : w.toNat ≠ 2 ^ 64 - 1 := fun e => more (BitVec.eq_of_toNat_eq (by simpa using e))
    simp
    omega

/-- A counter that fills its register goes up by one, and stays at its last value. -/
theorem reg_bump_whole {f : Fld} (lo : f.lo = 0) (width : f.width = 64) (i : Nat) :
    (s.bump f i).reg f.reg i = if s.reg f.reg i = BitVec.allOnes 64 then BitVec.allOnes 64 else s.reg f.reg i + 1 := by
  have counted := Sys2Proof.Machine.TimeUnit.fld_bump s f i (by omega)
  rw [fld_of_whole _ lo width, fld_of_whole _ lo width, width] at counted
  rw [← satAdd_whole, ← counted, BitVec.ofNat_toNat, BitVec.setWidth_eq]

theorem regsBut_setFld (f : Fld) (i v : Nat) : s.RegsBut (s.setFld f i v) [(f.reg, i)] := fun r j other =>
  reg_setFld_ne _ _ (by
    by_contra same
    obtain ⟨rfl, rfl⟩ := not_or.1 same |>.imp not_not.1 not_not.1
    exact other (List.mem_singleton.2 rfl))

/-! ### Slots in which no instruction takes effect -/

section
variable {s} {x : Slot} {uses : BitVec 26} {reads : List RegNo} {ret : Bool} {f : State → Nat → BitVec 32 → Done}

theorem issue_idle (stopped : (s.thr x.thr.val).state ≠ .running ∨ (s.thr x.thr.val).aborting = true) (free : s.heldStep = none) :
    s.issue x uses reads ret f = s := by
  have none : s.stepSeq x.thr.val = none := by
    unfold stepSeq
    rw [free]
  unfold issue
  dsimp only
  rw [if_pos (by simpa using stopped), none]

theorem issue_bubble (runs : (s.thr x.thr.val).state = .running) (live : (s.thr x.thr.val).aborting = false)
    (waits : s.bubble x.thr.val reads ret = true) :
    s.issue x uses reads ret f = s.bump F.TRS_BUBBLE_CNT_COUNT (x.thr.val / 64) := by
  simp [issue, runs, live, waits]

theorem issue_running (runs : (s.thr x.thr.val).state = .running) (live : (s.thr x.thr.val).aborting = false)
    (ready : s.bubble x.thr.val reads ret = false) : s.issue x uses reads ret f = s.issueNow x uses f := by
  simp [issue, runs, live, ready]

theorem issueNow_pcRange (beyond : s.codeSize x.thr.val ≤ (s.thr x.thr.val).pc.toNat) :
    s.issueNow x uses f = (s.bump F.TRS_ISSUE_CNT_COUNT (x.thr.val / 64)).excAt x.thr.val .pcRange (s.thr x.thr.val).pc := by
  unfold issueNow
  exact if_pos beyond

theorem issueNow_illegal (loaded : (s.thr x.thr.val).pc.toNat < s.codeSize x.thr.val) (store : x.store = .ok) (regs : x.regs = .ok)
    (set : x.unused &&& ~~~uses ≠ 0) :
    s.issueNow x uses f = (s.bump F.TRS_ISSUE_CNT_COUNT (x.thr.val / 64)).excAt x.thr.val .illegal (s.thr x.thr.val).pc := by
  have inside : ¬ (s.bump F.TRS_ISSUE_CNT_COUNT (x.thr.val / 64)).codeSize x.thr.val ≤ (s.thr x.thr.val).pc.toNat := not_le.2 loaded
  unfold issueNow
  rw [store, regs]
  dsimp only
  rw [if_neg inside]
  exact if_pos set

theorem bubble_of_waiting {n : Nat} {o : OutOp} {r : RegNo} (out : o ∈ (s.thr n).ops) (live : o.live = true) (dest : r ∈ destsOf o.op)
    (writes : r ≠ 0) (read : r ∈ reads) : s.bubble n reads ret = true := by
  have busy : r ∈ (((s.liveOps n).map fun o => destsOf o.op).flatten.filter (· != 0)) :=
    List.mem_filter.2 ⟨List.mem_flatten.2 ⟨_, List.mem_map.2 ⟨o, List.mem_filter.2 ⟨out, live⟩, rfl⟩, dest⟩, by simpa using writes⟩
  unfold bubble
  dsimp only
  rw [List.any_eq_true.2 ⟨r, read, by simpa using busy⟩, Bool.true_or]

theorem bubble_of_eight {n : Nat} (full : 8 ≤ ((s.thr n).ops.filter OutOp.live).length) : s.bubble n reads true = true := by
  simp [bubble, liveOps, full]

end

/-! ### Changes of one thread -/

theorem onlyThread_trans {s t u : State} {n : Nat} (first : s.OnlyThread t n) (then_ : t.OnlyThread u n) : s.OnlyThread u n := by
  obtain ⟨same, others⟩ := first
  obtain ⟨same', others'⟩ := then_
  refine ⟨same'.trans ?_, fun m other => (others' m other).trans (others m other)⟩
  rw [same]

/-! ### Slots in which the instruction takes effect -/

section
variable {s} {x : Slot} {uses : BitVec 26} {reads : List RegNo} {ret : Bool} {f : State → Nat → BitVec 32 → Done} {c : Instr}
  (runs : exec c s = .next (s.issue x uses reads ret f))
include runs

theorem exec_of_ok {t : State} (h : s.Issues x reads ret) (ends : f (s.ran x) x.thr.val (s.thr x.thr.val).pc = .ok t) :
    exec c s = .next t := by
  rw [runs, s.issue_eq h, ends]

theorem exec_of_exc {e : Exc} {t : State} (h : s.Issues x reads ret) (faults : f (s.ran x) x.thr.val (s.thr x.thr.val).pc = .exc e t) :
    exec c s = .next (t.excAt x.thr.val e (s.thr x.thr.val).pc) := by
  rw [runs, s.issue_eq h, faults]

theorem raises_of_exc {e : Exc} (faults : f (s.ran x) x.thr.val (s.thr x.thr.val).pc = .exc e (s.ran x)) : s.Raises x reads ret c e :=
  fun h => exec_of_exc runs h faults

/-- An instruction that ends with a register write. -/
theorem exec_of_put {t : State} {rd : RegNo} {w : Word} (h : s.Issues x reads ret)
    (ends : f (s.ran x) x.thr.val (s.thr x.thr.val).pc = t.put x.thr.val rd w) :
    ∃ u, exec c s = .next u ∧ t.Wrote x.thr.val rd w u := ⟨_, exec_of_ok runs h ends, t.wrote_setGreg ..⟩

end

section
variable {s} {x : Slot} {uses : BitVec 26} {reads : List RegNo} {f : State → Nat → BitVec 32 → Done} {c : Instr}

/-- An instruction that starts a returning operation. -/
theorem starts_of_startOp (runs : exec c s = .next (s.issue x uses reads true f)) {op : RetOp}
    (starts : f (s.ran x) x.thr.val (s.thr x.thr.val).pc = (s.ran x).startOp x.thr.val (s.thr x.thr.val).pc op) :
    s.Starts x reads c op := by
  intro h
  refine ⟨_, exec_of_ok runs h starts, onlyThread_setThr .., ?_⟩
  rw [thr_setThr, thr_ran]

end

/-! ### What an issued slot leaves alone -/

@[simp] theorem codeSize_ran (x : Slot) (n : Nat) : (s.ran x).codeSize n = s.codeSize n := by
  rw [Scratchpad.ran_frame]
  rfl

theorem reg_ran_ne (x : Slot) {r : Reg} (other : r ≠ .TRS_ISSUE_CNT) (i : Nat) : (s.ran x).reg r i = s.reg r i := by
  rw [reg_ran]
  exact reg_setReg_ne _ _ (.inl other)

theorem fld_ran_ne (x : Slot) {f : Fld} (other : f.reg ≠ .TRS_ISSUE_CNT) (i : Nat) : (s.ran x).fld f i = s.fld f i := by
  unfold fld
  rw [reg_ran_ne s x other]

theorem flag_ran_ne (x : Slot) {f : Fld} (other : f.reg ≠ .TRS_ISSUE_CNT) (i : Nat) : (s.ran x).flag f i = s.flag f i := by
  unfold flag
  rw [fld_ran_ne s x other]

theorem mbxWaiting_ran (x : Slot) (t : Nat) : (s.ran x).mbxWaiting t = s.mbxWaiting t := by
  have boxes : (s.ran x).mbx = s.mbx := by rw [Scratchpad.ran_frame]
  unfold mbxWaiting
  rw [boxes]
  refine congrArg _ (List.filter_congr fun e _ => ?_)
  rw [flag_ran_ne s x (by decide), fld_ran_ne s x (by decide)]

theorem srcItems_ran (x : Slot) (t b : Nat) : (s.ran x).srcItems t b = s.srcItems t b := by
  have rails : (s.ran x).rails = s.rails := by rw [Scratchpad.ran_frame]
  have items : (s.ran x).eq t = s.eq t := by rw [Scratchpad.ran_frame]; rfl
  unfold srcItems
  rw [rails, items, mbxWaiting_ran]

theorem timerPending_ran (x : Slot) (n : Nat) : (s.ran x).timerPending n = s.timerPending n := by
  have now : (s.ran x).cycle = s.cycle := by rw [Scratchpad.ran_frame]
  unfold timerPending
  rw [thr_ran_any, now]

/-- An issued slot changes no wake source. -/
theorem pendingSet_ran (x : Slot) (n : Nat) : (s.ran x).pendingSet n = s.pendingSet n := by
  have captures : (s.ran x).capFifo = s.capFifo := by rw [Scratchpad.ran_frame]
  have received : (s.ran x).gnssRx = s.gnssRx := by rw [Scratchpad.ran_frame]
  have servo : (s.ran x).isServo n = s.isServo n := by
    unfold isServo
    rw [flag_ran_ne s x (by decide), fld_ran_ne s x (by decide)]
  have pend : ((s.ran x).thr n).pend = (s.thr n).pend := by rw [thr_ran_any]
  unfold pendingSet
  dsimp only
  rw [captures, received, servo, pend, timerPending_ran, srcItems_ran, srcItems_ran, srcItems_ran, reg_ran_ne s x (by decide)]

/-- The bits that a word may carry are those that its instruction does not use. -/
theorem unused_and_not {u uses : BitVec 26} (carried : u &&& uses = 0) : u &&& ~~~uses = u := by
  calc u &&& ~~~uses = (u &&& uses) ||| (u &&& ~~~uses) := by rw [carried]; exact BitVec.zero_or.symm
    _ = u := by rw [← BitVec.and_or_distrib_left, BitVec.or_not_self, BitVec.and_allOnes]

/-- Settles O6: an issued slot by its equations, and each other slot by the branch it takes. -/
theorem issueOfInstructions : Obligations.IssueOfInstructions := by
  refine ⟨fun s x => ⟨Scratchpad.ran_frame s x, ?_, ?_, s.thr_ran x, fun m other => thr_ran_ne s other⟩, fun s x rd rs rt sz off =>
    ⟨fun stopped free => ⟨congrArg _ (issue_idle stopped free), congrArg _ (issue_idle stopped free)⟩, fun runs live =>
      ⟨?_, ?_, ?_, ?_⟩⟩⟩
  · exact fun r i other => (reg_ran s x r i).trans (regsBut_setFld s F.TRS_ISSUE_CNT_COUNT _ _ r i other)
  · exact (reg_ran ..).trans (reg_bump_whole s (f := F.TRS_ISSUE_CNT_COUNT) rfl rfl _)
  · rintro ⟨o, out, alive, r, dest, writes, read⟩
    exact congrArg _ (issue_bubble runs live (bubble_of_waiting out alive dest writes (by simpa using read)))
  · intro full
    exact congrArg _ (issue_bubble runs live (bubble_of_eight full))
  · intro ready beyond
    exact congrArg _ ((issue_running runs live ready).trans (issueNow_pcRange beyond))
  · intro ready loaded store regs wf set
    have carried : x.unused &&& (mRd ||| mRs ||| mFn) = 0 := eq_of_beq (Bool.and_eq_true_iff.1 wf).1
    exact congrArg _ ((issue_running runs live ready).trans (issueNow_illegal loaded store regs (by rwa [unused_and_not carried])))

end Sys2Proof.Machine.Issue
end

section
/-!
PROOFS. The immediate forms, LIH, CRC, MFS and TIME (R409, R411, R414, R423).
-/

namespace Sys2Proof.Machine.Immediate
open State Issue

/-- A quarter of a register is replaced. -/
theorem setBits_quarter (w : Word) (k : BitVec 2) (imm : BitVec 16) :
    setBits w (16 * k.toNat) 16 imm.toNat = merge (0xFFFF <<< (16 * k.toNat)) w (imm.setWidth 64 <<< (16 * k.toNat)) := by
  have low : BitVec.ofNat 64 (imm.toNat % 2 ^ 16) = imm.setWidth 64 &&& 0xFFFF := by
    apply BitVec.eq_of_toNat_eq
    have small := imm.isLt
    rw [BitVec.toNat_and, BitVec.toNat_setWidth, show (0xFFFF : Word).toNat = 2 ^ 16 - 1 from rfl, Nat.and_two_pow_sub_one_eq_mod,
      BitVec.toNat_ofNat]
    omega
  unfold setBits merge fieldMask
  rw [low, BitVec.shiftLeft_and_distrib]
  rfl

/-- The value of a special register by its number (R409). -/
def specials (s : State) (n : Nat) : List Word :=
  let y := s.thr n
  [BitVec.ofNat 64 n, BitVec.ofNat 64 (n % 64), BitVec.ofNat 64 y.parent, s.cycle, y.cmp,
    (if y.armed then 1 else 0) + (if y.pend.getLsbD 0 || (y.armed && decide (y.cmp ≤ s.cycle)) then 2 else 0), y.tfrac.setWidth 64,
    BitVec.ofNat 64 s.dbase, BitVec.ofNat 64 s.dsize, BitVec.ofNat 64 (y.ops.filter fun o => o.live).length]

theorem special_eq (s : State) (n k : Nat) : s.special n k = (specials s n)[k]? := by
  have timer : BitVec.ofNat 64 (b2n (s.thr n).armed + 2 * b2n (s.timerPending n)) = (if (s.thr n).armed then 1 else 0) +
      (if (s.thr n).pend.getLsbD 0 || ((s.thr n).armed && decide ((s.thr n).cmp ≤ s.cycle)) then 2 else 0) := by
    unfold timerPending b2n
    simp only [BitVec.le_def]
    split_ifs <;> rfl
  match k with
  | 0 | 1 | 2 | 3 | 4 | 6 | 7 | 8 | 9 => rfl
  | 5 => exact congrArg some timer
  | _ + 10 => rfl

theorem specials_ran (s : State) (x : Slot) : specials (s.ran x) x.thr.val = specials s x.thr.val := by
  unfold specials dbase dsize
  rw [thr_ran, Scratchpad.ran_frame]

/-- MFS of the registers that there are, and of another number. -/
theorem mfs_computes (s : State) (x : Slot) (rd : RegNo) (j : Byte) (h : j.toNat < (specials s x.thr.val).length) :
    s.Computes x [] (.mfs x rd j) rd (specials s x.thr.val)[j.toNat] :=
  s.computes_put rfl (by rw [special_eq, specials_ran, List.getElem?_eq_getElem h])

theorem mfs_illegal (s : State) (x : Slot) (rd : RegNo) (j : Byte) (h : (specials s x.thr.val).length ≤ j.toNat) :
    s.Raises x [] false (.mfs x rd j) .illegal :=
  raises_of_exc rfl (by rw [special_eq, specials_ran, List.getElem?_eq_none h])

/-- TIME writes both parts of the time. -/
theorem time_writes (s : State) (x : Slot) (rd : RegNo) (issues : s.Issues x [] false) :
    ∃ t, exec (.time x rd) s = .next t ∧ (s.ran x).OnlyThread t x.thr.val ∧ (t.thr x.thr.val).tfrac = (s.time >>> 16).setWidth 16 ∧
      t.thr x.thr.val = { s.thr x.thr.val with
        pc := (s.thr x.thr.val).pc + 4, regs := (t.thr x.thr.val).regs, tfrac := (t.thr x.thr.val).tfrac } ∧
      ∀ r : RegNo, t.g x.thr.val r = if r = rd ∧ rd ≠ 0 then (s.time >>> 32).setWidth 64 else s.g x.thr.val r := by
  have time : (s.ran x).time = s.time := by rw [Scratchpad.ran_frame]
  obtain ⟨t, ran, only, thr, reads⟩ := exec_of_put (c := .time x rd) rfl issues rfl
  rw [thr_setThr] at thr
  refine ⟨t, ran, onlyThread_trans (onlyThread_setThr ..) only, ?_, ?_, fun r => ?_⟩
  · rw [thr, frac, time]
  · rw [thr, thr_ran]
  · rw [reads, wide, time, g, greg, thr_setThr]
    exact congrArg _ (g_ran ..)

/-- Settles O8: each form by the lemma of its shape. -/
theorem immediateAndSpecialResults : Obligations.ImmediateAndSpecialResults := by
  intro s x rd rs rt imm c k fn j
  refine ⟨s.computes_aluImm rfl rfl, s.computes_aluImm rfl rfl, s.computes_aluImm rfl rfl, s.computes_aluImm rfl rfl,
    s.computes_aluImm rfl ?_, s.computes_put rfl ?_, s.computes_shi rfl rfl, s.computes_shi rfl rfl, s.computes_shi rfl rfl,
    s.computes_shi rfl rfl, s.computes_put rfl ?_, mfs_computes s x rd j, mfs_illegal s x rd j, time_writes s x rd⟩
  · rw [Arithmetic.boolWord_slt, BitVec.toInt_signExtend_of_le (by decide)]
  · rw [g_ran, setBits_quarter]
  · rw [g_ran, g_ran]

end Sys2Proof.Machine.Immediate
end

section
/-!
PROOFS. Branches and jumps (R409, R414, R425).
-/

namespace Sys2Proof.Machine.Branches
open State Issue

variable (s : State) (x : Slot)

/-- A byte address of the loaded code of a thread. -/
def InCode (n : Nat) (v : Int) : Prop := 0 ≤ v ∧ v < s.codeSize n

theorem jump_inside {n : Nat} {v : Int} (inside : InCode s n v) : s.jump n v = .ok (s.setPc n (BitVec.ofInt 32 v)) := by
  obtain ⟨low, high⟩ := inside
  exact if_neg (by omega)

theorem jump_outside {n : Nat} {v : Int} (outside : ¬InCode s n v) : s.jump n v = .exc .pcRange s := by
  unfold InCode at outside
  exact if_pos (by omega)

theorem inCode_ran (n : Nat) (v : Int) : InCode (s.ran x) n v ↔ InCode s n v := by
  unfold InCode
  rw [codeSize_ran]

/-- The three ends of a branch, whose condition holds where `p` is true. -/
def BranchEnds (c : Instr) (taken : Prop) (target : Int) : Prop :=
  (¬taken → exec c s = .next (s.ran x)) ∧
  (taken → InCode s x.thr.val target →
    ∃ t, exec c s = .next t ∧ t = (s.ran x).setPc x.thr.val (BitVec.ofInt 32 target)) ∧
  (taken → ¬InCode s x.thr.val target → exec c s = .next ((s.ran x).excAt x.thr.val .pcRange (s.thr x.thr.val).pc))

variable {s x}

theorem branch_ends {c : Instr} {rs rt : RegNo} {off : BitVec 16} {p : Word → Word → Bool} {taken : Prop}
    (runs : exec c s = .next (s.branch x rs rt off p)) (means : p (s.g x.thr.val rs) (s.g x.thr.val rt) = true ↔ taken)
    (issues : s.Issues x [rs, rt] false) : BranchEnds s x c taken (relTarget (s.thr x.thr.val).pc off.toInt) := by
  refine ⟨fun not => ?_, fun yes inside => ?_, fun yes outside => ?_⟩
  · refine exec_of_ok runs issues (if_neg ?_)
    rwa [g_ran, g_ran, means]
  · refine ⟨_, exec_of_ok runs issues ?_, rfl⟩
    rw [g_ran, g_ran, if_pos (means.2 yes), jump_inside _ ((inCode_ran ..).2 inside)]
  · refine exec_of_exc runs issues ?_
    rw [g_ran, g_ran, if_pos (means.2 yes), jump_outside _ (mt (inCode_ran ..).1 outside)]

/-- Settles O9: the branches by what their conditions mean, the jumps by where they go. -/
theorem branchesAndJumps : Obligations.BranchesAndJumps := by
  intro s x rd rs rt off far
  refine ⟨fun cp listed issues => ?_, fun issues inside => ?_, fun outside => ?_, fun issues aligned inside => ?_, fun odd => ?_,
    fun aligned outside => ?_⟩
  · simp only [List.mem_cons, List.not_mem_nil, or_false] at listed
    rcases listed with rfl | rfl | rfl | rfl | rfl | rfl
    · exact branch_ends rfl (by simp) issues
    · exact branch_ends rfl (by simp) issues
    · exact branch_ends rfl (by simp [slt]) issues
    · exact branch_ends rfl (by simp [slt]) issues
    · exact branch_ends rfl (by simp) issues
    · exact branch_ends rfl (by simp) issues
  · obtain ⟨t, ran, wrote⟩ := exec_of_put (c := .jal x far) rfl issues (by rw [relTarget, jump_inside _ ((inCode_ran ..).2 inside)])
    exact ⟨t, _, ran, rfl, wrote⟩
  · exact raises_of_exc rfl (by rw [relTarget, jump_outside _ (mt (inCode_ran ..).1 outside)])
  · obtain ⟨t, ran, wrote⟩ := exec_of_put (c := .jalr x rd rs off) rfl issues
      (by rw [g_ran]; dsimp only; rw [if_neg (not_not.2 aligned), jump_inside _ ((inCode_ran ..).2 inside)])
    exact ⟨t, _, ran, rfl, wrote⟩
  · exact raises_of_exc rfl (by rw [g_ran]; exact if_pos odd)
  · exact raises_of_exc rfl (by
      rw [g_ran]; dsimp only; rw [if_neg (not_not.2 aligned), jump_outside _ (mt (inCode_ran ..).1 outside)])

end Sys2Proof.Machine.Branches
end

section
/-!
PROOFS. Scratchpad atomics, and the exceptions of a scratchpad load (R414, R415, R432, R435, R443).
-/

namespace Sys2Proof.Machine.Atomics
open State Issue Scratchpad

variable {s : State} {n p o : Nat} {a : Word}

/-! ### The word that an aligned access of 8 bytes reads -/

theorem spmByte_in_word (aligned : o % 8 = 0) {i : Nat} (h : i < 8) : s.spmByte p (o + i) = ((s.spmWord p o) >>> (8 * i)).setWidth 8 := by
  have key : wordKey p (o + i) = wordKey p o := by unfold wordKey; omega
  have place : (o + i) % 8 = i := by omega
  unfold spmByte spmWord
  rw [key, place]

theorem fromBytesLE_toBytesLE (k v : Nat) : fromBytesLE (toBytesLE k v) = v % 256 ^ k := by
  induction k generalizing v with
  | zero => simp [toBytesLE, fromBytesLE, Nat.mod_one]
  | succ k ih => simp [toBytesLE, fromBytesLE, ih, Nat.pow_succ', Nat.mod_mul]

theorem spmRead_word (aligned : o % 8 = 0) : s.spmRead p o 8 = toBytesLE 8 (s.spmWord p o).toNat := by
  refine List.ext_getElem (by simp [spmRead]) fun i h _ => ?_
  have inside : i < 8 := by simpa [spmRead] using h
  rw [Arithmetic.toBytesLE_getElem, byte_ofNat_div]
  simp only [spmRead, List.getElem_map, List.getElem_range]
  exact spmByte_in_word aligned inside

theorem loaded_word (aligned : o % 8 = 0) : loaded false (s.spmRead p o 8) = s.spmWord p o := by
  unfold loaded
  rw [spmRead_word aligned, fromBytesLE_toBytesLE]
  exact (congrArg (BitVec.ofNat 64) (Nat.mod_eq_of_lt (s.spmWord p o).isLt)).trans (BitVec.ofNat_toNat ..)

theorem spmWord_congr {t : State} (h : t.spm = s.spm) (p o : Nat) : t.spmWord p o = s.spmWord p o := by
  unfold spmWord
  rw [h]

/-- A clean aligned word is not poisoned. -/
theorem spmBad_of_clean (aligned : o % 8 = 0) (clean : s.spmBadIn p o 8 = false) : s.spmBad p o = false := by
  have none := List.any_eq_false.1 clean 0 (by simp)
  have first : 8 * (o / 8) = o := by omega
  simp only [Nat.add_zero, first, Bool.and_eq_true, decide_eq_true_eq, not_and, Bool.not_eq_true] at none
  exact none (by omega)

/-! ### The atomics -/

/-- The state in which an atomic leaves the scratchpad: with the new word, if it writes one. -/
def leaveWord (s : State) (p o : Nat) : Option Word → State
  | some w => s.setWord p o w
  | none => s

theorem leaveWord_frame (w : Option Word) :
    leaveWord s p o w = { s with spm := (leaveWord s p o w).spm, spmPoison := (leaveWord s p o w).spmPoison } := by
  cases w <;> rfl

theorem spmWord_leaveWord (w : Option Word) : (leaveWord s p o w).spmWord p o = w.getD (s.spmWord p o) := by
  cases w with
  | none => rfl
  | some w => exact spmWord_setWord ..

theorem spmWord_leaveWord_ne {p' b : Nat} (w : Option Word) (ho : o < 0x1000000) (hb : b < 0x1000000) (other : ¬(p' = p ∧ b / 8 = o / 8)) :
    (leaveWord s p o w).spmWord p' b = s.spmWord p' b := by
  cases w with
  | none => rfl
  | some w => exact spmWord_setWord_ne _ _ (mt (wordKey_eq_iff ho hb).1 other)

/-- An atomic on a word that is not poisoned changes no mark. -/
theorem spmBad_leaveWord {p' b : Nat} (w : Option Word) (clean : s.spmBad p o = false) (ho : o < 0x1000000) (hb : b < 0x1000000) :
    (leaveWord s p o w).spmBad p' b = s.spmBad p' b := by
  cases w with
  | none => rfl
  | some w =>
    refine (spmBad_put (s := s) ho hb false).trans ?_
    split
    · next same =>
      have key : wordKey p' b = wordKey p o := (wordKey_eq_iff ho hb).2 same
      unfold spmBad at clean ⊢
      rw [key, clean]
    · rfl

/-- What an instruction does that takes word `o` of a Pier's scratchpad to `rd` and leaves `new` there, as one step. -/
def Exchanges (s : State) (x : Slot) (p o : Nat) (rd : RegNo) (reads : List RegNo) (c : Instr) (new : Word) : Prop :=
  s.Issues x reads false → ∃ t u : State, exec c s = .next t ∧ u = { s.ran x with spm := u.spm, spmPoison := u.spmPoison } ∧
    u.spmWord p o = new ∧ (∀ p' b, p' < 4 → b < 0x1000000 → u.spmBad p' b = s.spmBad p' b) ∧
    (∀ p' b, p' < 4 → b < 0x1000000 → ¬(p' = p ∧ b / 8 = o / 8) → u.spmWord p' b = s.spmWord p' b) ∧ u.Wrote x.thr.val rd (s.spmWord p o) t

/-- An atomic on an open, clean word: the word read goes to rd, the new one, if any, to the scratchpad. -/
theorem ats_exchanges {x : Slot} {rd rs rt : RegNo} {reads : List RegNo} {f : Word → Word → Word → Option Word} {c : Instr}
    (runs : exec c s = .next (s.ats x rd rs rt reads f)) (ok : s.SpmOpen x.thr.val (s.g x.thr.val rs) 8) (good : x.word = .ok)
    (clean : s.SpmClean x.thr.val (s.g x.thr.val rs) 8) {new : Word}
    (leaves : (f (s.spmWord (x.thr.val / 192) ((s.g x.thr.val rs).toNat % 0x1000000)) (s.g x.thr.val rt) (s.g x.thr.val rd)).getD
      (s.spmWord (x.thr.val / 192) ((s.g x.thr.val rs).toNat % 0x1000000)) = new) :
    Exchanges s x (x.thr.val / 192) ((s.g x.thr.val rs).toNat % 0x1000000) rd reads c new := by
  intro issues
  obtain ⟨words, marks, bays⟩ := ran_spm s x
  have aligned : (s.g x.thr.val rs).toNat % 0x1000000 % 8 = 0 := by
    have := ok.1
    omega
  have below : (s.g x.thr.val rs).toNat % 0x1000000 < 0x1000000 := Nat.mod_lt _ (by decide)
  have unmarked := spmBad_of_clean aligned clean
  rw [← spmBad_congr marks] at unmarked
  generalize out : f _ _ _ = w at leaves
  refine ⟨_, leaveWord (s.ran x) (x.thr.val / 192) ((s.g x.thr.val rs).toNat % 0x1000000) w, exec_of_ok runs issues ?_, leaveWord_frame w, ?_, fun p' b _ hb => ?_, fun p' b _ hb other => ?_,
    wrote_setGreg ..⟩
  · rw [g_ran, spmCheck_open (spmOpen_congr bays ok), good]
    dsimp only
    rw [spmFetch_clean ((spmBadIn_congr marks ..).trans clean)]
    dsimp only
    rw [loaded_word aligned, g_ran, g_ran, spmWord_congr words, out]
    cases w <;> rfl
  · rw [spmWord_leaveWord, spmWord_congr words, leaves]
  · rw [spmBad_leaveWord w unmarked below hb, spmBad_congr marks]
  · rw [spmWord_leaveWord_ne w below hb other, spmWord_congr words]

/-! ### What a load raises -/

theorem spmCheck_odd {size : Nat} (write : Bool) (odd : a.toNat % size ≠ 0) : s.spmCheck n a size write = .error (.exc .align s) :=
  if_pos odd

theorem spmCheck_beyond {size : Nat} (write : Bool) (aligned : a.toNat % size = 0) (beyond : 0x3000000 ≤ a.toNat) :
    s.spmCheck n a size write = .error (.exc .spmRange s) :=
  (if_neg (not_not.2 aligned)).trans (if_pos (by omega))

theorem spmCheck_bay {size : Nat} (write : Bool) (aligned : a.toNat % size = 0) (below : a.toNat < 0x3000000)
    (on : (s.bay (n / 192) (a.toNat % 0x1000000 / 0x200000)).pwr = 0)
    (settled : (s.bay (n / 192) (a.toNat % 0x1000000 / 0x200000)).transit = none)
    (kept : (s.bay (n / 192) (a.toNat % 0x1000000 / 0x200000)).handover = none)
    (other : (s.bay (n / 192) (a.toNat % 0x1000000 / 0x200000)).owner ≠ ownerTruss (n / 64)) :
    s.spmCheck n a size write = .error (.exc .bay
      (s.spmRefuse (n / 192) (a.toNat % 0x1000000) (ownerTruss (n / 64)) (n / 64 % 3) 1 write)) := by
  have here : bayOf (a.toNat % 0x1000000) = a.toNat % 0x1000000 / 0x200000 := Nat.mod_eq_of_lt (by omega)
  have answer : s.bayAns (n / 192) (a.toNat % 0x1000000) (actorOf n) (masterOf n) = some 1 := by
    unfold bayAns
    rw [here]
    simp [on, settled, kept, actorOf, other]
  unfold spmCheck
  dsimp only
  rw [if_neg (not_not.2 aligned), if_neg (by omega), answer]
  rfl

theorem spmFetch_poison {size : Nat} (bad : s.spmBadIn (n / 192) o size = true) :
    s.spmFetch n o size .ok = .error (.exc .poison (s.spmUe (n / 192) o (ownerTruss (n / 64)) (n / 64 % 3))) := by
  simp only [spmFetch, spmEcc, bad, ↓reduceIte]
  rfl

section
variable {x : Slot} {rd rb : RegNo} {sx : Bool} {sz : BitVec 2} {off : BitVec 13}

theorem lds_align (odd : (s.g x.thr.val rb + off.signExtend 64).toNat % 2 ^ sz.toNat ≠ 0) :
    s.Raises x [rb] false (.lds x rd rb sx sz off) .align :=
  raises_of_exc rfl (by rw [g_ran, effAddr]; dsimp only; rw [spmCheck_odd false odd])

theorem lds_range (aligned : (s.g x.thr.val rb + off.signExtend 64).toNat % 2 ^ sz.toNat = 0)
    (beyond : 0x3000000 ≤ (s.g x.thr.val rb + off.signExtend 64).toNat) :
    s.Raises x [rb] false (.lds x rd rb sx sz off) .spmRange :=
  raises_of_exc rfl (by rw [g_ran, effAddr]; dsimp only; rw [spmCheck_beyond false aligned beyond])

theorem lds_bay (aligned : (s.g x.thr.val rb + off.signExtend 64).toNat % 2 ^ sz.toNat = 0)
    (below : (s.g x.thr.val rb + off.signExtend 64).toNat < 0x3000000)
    {b : Bay} (at_ : s.bay (x.thr.val / 192) ((s.g x.thr.val rb + off.signExtend 64).toNat % 0x1000000 / 0x200000) = b)
    (on : b.pwr = 0) (settled : b.transit = none) (kept : b.handover = none) (other : b.owner ≠ ownerTruss (x.thr.val / 64))
    (issues : s.Issues x [rb] false) :
    exec (.lds x rd rb sx sz off) s = .next (((s.ran x).spmRefuse (x.thr.val / 192)
      ((s.g x.thr.val rb + off.signExtend 64).toNat % 0x1000000) (ownerTruss (x.thr.val / 64)) (x.thr.val / 64 % 3) 1 false).excAt
      x.thr.val .bay (s.thr x.thr.val).pc) := by
  have same : (s.ran x).bay (x.thr.val / 192) ((s.g x.thr.val rb + off.signExtend 64).toNat % 0x1000000 / 0x200000) = b := by
    rw [← at_, ran_frame]
    rfl
  refine exec_of_exc rfl issues ?_
  rw [g_ran, effAddr]; dsimp only; rw [spmCheck_bay false aligned below (by rw [same, on]) (by rw [same, settled]) (by rw [same, kept])
    (by rw [same]; exact other)]

theorem lds_poison (ok : s.SpmOpen x.thr.val (s.g x.thr.val rb + off.signExtend 64) (2 ^ sz.toNat))
    (bad : ¬s.SpmClean x.thr.val (s.g x.thr.val rb + off.signExtend 64) (2 ^ sz.toNat)) (good : x.word = .ok)
    (issues : s.Issues x [rb] false) :
    exec (.lds x rd rb sx sz off) s = .next (((s.ran x).spmUe (x.thr.val / 192)
      ((s.g x.thr.val rb + off.signExtend 64).toNat % 0x1000000) (ownerTruss (x.thr.val / 64)) (x.thr.val / 64 % 3)).excAt
      x.thr.val .poison (s.thr x.thr.val).pc) := by
  obtain ⟨-, marks, bays⟩ := ran_spm s x
  have poisoned : (s.ran x).spmBadIn (x.thr.val / 192) ((s.g x.thr.val rb + off.signExtend 64).toNat % 0x1000000) (2 ^ sz.toNat) = true :=
    (spmBadIn_congr marks ..).trans (by simpa [SpmClean] using bad)
  refine exec_of_exc rfl issues ?_
  rw [g_ran, effAddr]; dsimp only; rw [spmCheck_open (spmOpen_congr bays ok), good]
  dsimp only
  rw [spmFetch_poison poisoned]

end

/-- Settles O11: the atomics exchange a word, and a load raises what its checks say in order. -/
theorem scratchpadAtomicsAndExceptions : Obligations.ScratchpadAtomicsAndExceptions := by
  constructor
  · intro s x rd rs rt n a p o old does ok good clean
    refine ⟨ats_exchanges rfl ok good clean rfl, ats_exchanges rfl ok good clean rfl, ats_exchanges rfl ok good clean ?_⟩
    show Option.getD (if old = s.g n rd then some (s.g n rt) else none) old = _
    split <;> rfl
  · intro s x rd rb sx sz off n p a size o bay load
    exact ⟨lds_align, lds_range, fun aligned below on settled kept other issues => lds_bay aligned below rfl on settled kept other issues,
      lds_poison⟩

end Sys2Proof.Machine.Atomics
end

section
/-!
PROOFS. Loads and stores of the packet window (R417).
-/

namespace Sys2Proof.Machine.Window
open State Issue Scratchpad

variable {s : State} {x : Slot} {rd rb : RegNo} {sx : Bool} {sz : BitVec 2} {off : BitVec 13} {o : Nat}

/-- The bytes that an aligned access of a unit takes of its word. -/
theorem unitBytes {size : Nat} (w : Word) (fits : o % 8 + size ≤ 8) :
    ((toBytesLE 8 w.toNat).drop (o % 8)).take size = (List.range size).map fun i => (w >>> (8 * (o % 8 + i))).setWidth 8 := by
  refine List.ext_getElem (by simp; omega) fun i _ _ => ?_
  simp only [List.getElem_take, List.getElem_drop, List.getElem_map, List.getElem_range]
  rw [Arithmetic.toBytesLE_getElem, byte_ofNat_div]

theorem aligned_fits (aligned : o % 2 ^ sz.toNat = 0) : o % 8 + 2 ^ sz.toNat ≤ 8 := by
  rcases size_cases sz with h | h | h | h <;> rw [h] at aligned ⊢ <;> omega

theorem size_le (sz : BitVec 2) : 2 ^ sz.toNat ≤ 8 := by
  rcases size_cases sz with h | h | h | h <;> omega

/-! ### Loads -/

theorem ldw_align (addr : (s.g x.thr.val rb + off.signExtend 64).toNat = o) (odd : o % 2 ^ sz.toNat ≠ 0) :
    s.Raises x [rb] false (.ldw x rd rb sx sz off) .align :=
  raises_of_exc rfl (by rw [g_ran, effAddr, addr]; exact if_pos odd)

theorem ldw_win (addr : (s.g x.thr.val rb + off.signExtend 64).toNat = o) (aligned : o % 2 ^ sz.toNat = 0) (beyond : 0x400 ≤ o) :
    s.Raises x [rb] false (.ldw x rd rb sx sz off) .win :=
  raises_of_exc rfl (by rw [g_ran, effAddr, addr]; exact (if_neg (not_not.2 aligned)).trans (if_pos beyond))

/-- A load of bytes that the window holds. -/
theorem ldw_computes (addr : (s.g x.thr.val rb + off.signExtend 64).toNat = o) (aligned : o % 2 ^ sz.toNat = 0) (below : o < 0x400)
    {bs : List Byte} (short : bs.length ≤ 8) (holds : (s.ran x).winRead x.thr.val o (2 ^ sz.toNat) = (s.ran x, bs)) :
    s.Computes x [rb] (.ldw x rd rb sx sz off) rd (loadValue sx bs) :=
  s.computes_put rfl (by
    rw [g_ran, effAddr, addr]
    dsimp only
    rw [if_neg (not_not.2 aligned), if_neg (not_le.2 below), holds, loaded_eq_loadValue _ _ short])

theorem winRead_head {n size : Nat} (h : o < 0x200) :
    s.winRead n o size = (s, (List.range size).map fun i => SMap.get 0 (s.thr n).head (o + i)) := if_pos h

theorem winRead_hvec {n size : Nat} (h : 0x300 ≤ o) :
    s.winRead n o size = (s, (List.range size).map fun i => SMap.get 0 (s.thr n).hvec (o - 0x300 + i)) :=
  (if_neg (by omega)).trans (if_pos h)

theorem winRead_unit {n size : Nat} {w : Word} (past : 0x200 ≤ o) (before : o < 0x300) (unit : winUnit (s.thr n) (o / 8 * 8) = some w) :
    s.winRead n o size = (s, ((toBytesLE 8 w.toNat).drop (o % 8)).take size) := by
  unfold winRead
  dsimp only
  rw [if_neg (by omega), if_neg (by omega), unit]

/-- A load of a field of the window. -/
theorem ldw_field (addr : (s.g x.thr.val rb + off.signExtend 64).toNat = o) {at_ : Nat} {w : Word} (multiple : at_ % 8 = 0)
    (past : 0x200 ≤ at_) (before : at_ < 0x300) (unit : winUnit (s.thr x.thr.val) at_ = some w) (aligned : o % 2 ^ sz.toNat = 0)
    (inside : o / 8 = at_ / 8) : s.Computes x [rb] (.ldw x rd rb sx sz off) rd
      (loadValue sx ((List.range (2 ^ sz.toNat)).map fun i => (w >>> (8 * (o % 8 + i))).setWidth 8)) := by
  have place : o / 8 * 8 = at_ := by omega
  have same : winUnit ((s.ran x).thr x.thr.val) at_ = some w := by rw [thr_ran]; exact unit
  refine ldw_computes addr aligned (by omega) (by simpa using size_le sz) ?_
  rw [winRead_unit (by omega) (by omega) (place ▸ same), unitBytes w (aligned_fits aligned)]

/-- A word of the RAIL area is the message's. -/
theorem winUnit_rail (y : Thread) {k : Nat} (h : k < y.railMsg.length) (area : k < 8) : winUnit y (0x240 + 8 * k) = some y.railMsg[k] := by
  have some : y.railMsg.isEmpty = false := by
    cases msg : y.railMsg with
    | nil => simp [msg] at h
    | cons _ _ => rfl
  unfold winUnit
  rw [if_neg (by omega), if_neg (by omega), if_neg (by omega), if_neg (by omega), if_neg (by omega), if_pos (by omega), some,
    show (0x240 + 8 * k - 0x240) / 8 = k by omega]
  simp [h]

/-! ### Stores -/

theorem stw_align (addr : (s.g x.thr.val rb + off.signExtend 64).toNat = o) (odd : o % 2 ^ sz.toNat ≠ 0) :
    s.Raises x [rd, rb] false (.stw x rd rb false sz off) .align :=
  raises_of_exc rfl (by rw [g_ran, effAddr, addr]; exact if_pos odd)

theorem stw_win (addr : (s.g x.thr.val rb + off.signExtend 64).toNat = o) (aligned : o % 2 ^ sz.toNat = 0) (past : 0x200 ≤ o)
    (outside : o < 0x280 ∨ 0x288 ≤ o) : s.Raises x [rd, rb] false (.stw x rd rb false sz off) .win :=
  raises_of_exc rfl (by
    rw [g_ran, effAddr, addr]
    exact (if_neg (not_not.2 aligned)).trans ((if_neg (by omega)).trans (if_neg (by omega))))

/-- A head after `m` bytes of a list have been written to it from offset `o` on. -/
def putHead (o : Nat) (bs : List Byte) (h : SMap Byte) (m : Nat) : SMap Byte :=
  (List.range m).foldl (fun h i => SMap.put 0 h (o + i) (bs.getD i 0)) h

theorem get_putHead (bs : List Byte) (h : SMap Byte) (m k : Nat) :
    SMap.get 0 (putHead o bs h m) k = if o ≤ k ∧ k < o + m then bs.getD (k - o) 0 else SMap.get 0 h k := by
  induction m with
  | zero => simp [putHead]
  | succ m ih =>
    have last : putHead o bs h (m + 1) = SMap.put 0 (putHead o bs h m) (o + m) (bs.getD m 0) := by
      simp [putHead, List.range_succ]
    rw [last, SMap.get_put, ih]
    by_cases new : k = o + m
    · subst new
      simp
    · rw [if_neg new]
      simp only [show (k < o + (m + 1)) ↔ k < o + m by omega]

theorem stw_head (addr : (s.g x.thr.val rb + off.signExtend 64).toNat = o) (issues : s.Issues x [rd, rb] false)
    (aligned : o % 2 ^ sz.toNat = 0) (inside : o < 0x200) :
    ∃ t, exec (.stw x rd rb false sz off) s = .next t ∧ (s.ran x).OnlyThread t x.thr.val ∧
      t.thr x.thr.val = { (s.ran x).thr x.thr.val with head := (t.thr x.thr.val).head } ∧
      ∀ k, SMap.get 0 (t.thr x.thr.val).head k =
        if o ≤ k ∧ k < o + 2 ^ sz.toNat then (s.g x.thr.val rd >>> (8 * (k - o))).setWidth 8 else SMap.get 0 (s.thr x.thr.val).head k := by
  refine ⟨(s.ran x).setThr x.thr.val { (s.ran x).thr x.thr.val with
    head := putHead o (toBytesLE (2 ^ sz.toNat) (s.g x.thr.val rd).toNat) ((s.ran x).thr x.thr.val).head (2 ^ sz.toNat) },
    exec_of_ok rfl issues ?_, onlyThread_setThr .., ?_, fun k => ?_⟩
  · rw [g_ran, g_ran, effAddr, addr]
    exact (if_neg (not_not.2 aligned)).trans (if_pos inside)
  · rw [thr_setThr]
  · rw [thr_setThr, get_putHead, thr_ran]
    refine ite_congr rfl (fun within => ?_) fun _ => rfl
    have size : k - o < (toBytesLE (2 ^ sz.toNat) (s.g x.thr.val rd).toNat).length := by simp; omega
    rw [List.getD_eq_getElem _ _ size, Arithmetic.toBytesLE_getElem, byte_ofNat_div]

theorem stw_inject (addr : (s.g x.thr.val rb + off.signExtend 64).toNat = o) (issues : s.Issues x [rd, rb] false)
    (aligned : o % 2 ^ sz.toNat = 0) (past : 0x280 ≤ o) (before : o < 0x288) :
    ∃ t, exec (.stw x rd rb false sz off) s = .next t ∧ (s.ran x).OnlyThread t x.thr.val ∧
      t.thr x.thr.val = { (s.ran x).thr x.thr.val with
        win := { (s.thr x.thr.val).win with injectData := (t.thr x.thr.val).win.injectData } } ∧
      (t.thr x.thr.val).win.injectData =
        setBits (s.thr x.thr.val).win.injectData (8 * (o - 0x280)) (8 * 2 ^ sz.toNat) (s.g x.thr.val rd).toNat := by
  refine ⟨(s.ran x).setThr x.thr.val { (s.ran x).thr x.thr.val with win := { ((s.ran x).thr x.thr.val).win with
    injectData := setBits ((s.ran x).thr x.thr.val).win.injectData (8 * (o - 0x280)) (8 * 2 ^ sz.toNat) (s.g x.thr.val rd).toNat } },
    exec_of_ok rfl issues ?_, onlyThread_setThr .., ?_, ?_⟩
  · rw [g_ran, g_ran, effAddr, addr]
    exact (if_neg (not_not.2 aligned)).trans ((if_neg (by omega)).trans (if_pos ⟨past, before⟩))
  · rw [thr_setThr, thr_ran]
  · rw [thr_setThr, thr_ran]

/-- Settles O12: each place of the window by the branch of the load or store that reaches it. -/
theorem packetWindow : Obligations.PacketWindow := by
  intro s x rd rb sx sz off n y o size word load store field
  refine ⟨fun aligned inside => ?_, fun aligned past before => ?_, ?_, ?_, ?_, ?_, ?_, ?_, ?_, fun k h area => ?_, stw_head rfl, stw_inject rfl,
    stw_win rfl, ldw_win rfl, fun odd => ⟨ldw_align rfl odd, stw_align rfl odd⟩⟩
  · refine ldw_computes rfl aligned (lt_trans inside (by decide)) (by simpa using size_le sz) ?_
    rw [winRead_head inside, thr_ran]
  · refine ldw_computes rfl aligned before (by simpa using size_le sz) ?_
    rw [winRead_hvec past, thr_ran]
  · exact ldw_field rfl (by decide) (by decide) (by decide) rfl
  · exact ldw_field rfl (by decide) (by decide) (by decide) rfl
  · exact ldw_field rfl (by decide) (by decide) (by decide) rfl
  · exact ldw_field rfl (by decide) (by decide) (by decide) rfl
  · exact ldw_field rfl (by decide) (by decide) (by decide) rfl
  · exact ldw_field rfl (by decide) (by decide) (by decide) rfl
  · exact ldw_field rfl (by decide) (by decide) (by decide) rfl
  · exact ldw_field rfl (by omega) (by omega) (by omega) (winUnit_rail y h area)

end Sys2Proof.Machine.Window
end

section
/-!
PROOFS. RLD loads, stores and atomics: their start, and what their return leaves (R30, R379, R416, R425).
-/

namespace Sys2Proof.Machine.RldOps
open State Issue Scratchpad

/-- A loaded value of any length (R411). -/
theorem loaded_eq (sx : Bool) (bs : List Byte) : loaded sx bs = loadValue sx bs := by
  by_cases short : bs.length ≤ 8
  · exact loaded_eq_loadValue sx bs short
  · unfold loaded loadValue
    cases sx with
    | true => exact congrArg (BitVec.ofInt 64) (signed_eq_toInt _ _)
    | false =>
      apply BitVec.eq_of_toNat_eq
      have fits : fromBytesLE bs < 2 ^ (8 * bs.length) := by
        rw [Nat.pow_mul]
        exact Arithmetic.fromBytesLE_lt bs
      simp [Nat.mod_eq_of_lt fits]

/-- A word that was loaded from RLD has the bytes that it was loaded from. -/
theorem byte_of_loaded {s : State} {a i : Nat} (inside : i < 8) :
    (toBytesLE 8 (loadValue false (s.rldRead a 8)).toNat)[i]'(by simpa using inside) = s.rldByte (a + i) := by
  have small : fromBytesLE (s.rldRead a 8) < 2 ^ 64 := by
    have below := Arithmetic.fromBytesLE_lt (s.rldRead a 8)
    rwa [show (s.rldRead a 8).length = 8 by simp [rldRead]] at below
  have value : (loaded false (s.rldRead a 8)).toNat = fromBytesLE (s.rldRead a 8) := Nat.mod_eq_of_lt small
  have at_ : (s.rldRead a 8).getD i 0 = s.rldByte (a + i) := by simp [rldRead, inside]
  apply BitVec.eq_of_toNat_eq
  rw [Arithmetic.toBytesLE_getElem, ← loaded_eq, value, BitVec.toNat_ofNat, ← at_]
  exact Arithmetic.fromBytesLE_byte ..

variable {s : State} {x : Slot} {rd rs rt : RegNo} {sx : Bool} {sz : BitVec 2} {off : BitVec 13} {a size : Nat}

/-! ### The start of an operation -/

/-- `k` bytes at RLD address `b` in the engine region, outside the hold and record areas. -/
def Inside (s : State) (b k : Nat) : Prop :=
  s.dbase ≤ b ∧ b + k ≤ s.dbase + s.dsize ∧ (b + k ≤ s.holdBase ∨ s.holdBase + 0x4000000 ≤ b) ∧
    (b + k ≤ s.fld F.BPM_REGION_REC_BASE 0 * 0x1000000 ∨
      s.fld F.BPM_REGION_REC_BASE 0 * 0x1000000 + s.fld F.BPM_REGION_REC_SIZE 0 * 0x1000000 ≤ b)

theorem inEngineRegion_iff : s.inEngineRegion a size = true ↔ Inside s a size := by
  unfold inEngineRegion Inside
  simp only [decide_eq_true_eq]

theorem rldCheck_ran : (s.ran x).rldCheck a size = s.rldCheck a size := by
  have held : (s.ran x).holdBase = s.holdBase := by rw [ran_frame]
  have base : (s.ran x).dbase = s.dbase := by rw [ran_frame]
  have length : (s.ran x).dsize = s.dsize := by rw [ran_frame]
  unfold rldCheck inEngineRegion
  rw [held, base, length, fld_ran_ne s x (by decide), fld_ran_ne s x (by decide)]

theorem rldCheck_inside (aligned : a % size = 0) (inside : Inside s a size) : (s.ran x).rldCheck a size = none := by
  rw [rldCheck_ran, rldCheck, if_neg (not_not.2 aligned), if_pos (inEngineRegion_iff.2 inside)]

theorem rldCheck_odd (odd : a % size ≠ 0) : (s.ran x).rldCheck a size = some .align := by
  rw [rldCheck_ran, rldCheck, if_pos odd]

theorem rldCheck_outside (aligned : a % size = 0) (outside : ¬Inside s a size) : (s.ran x).rldCheck a size = some .rldRange := by
  rw [rldCheck_ran, rldCheck, if_neg (not_not.2 aligned), if_neg (mt inEngineRegion_iff.1 outside)]

theorem ldr_starts (check : (s.ran x).rldCheck (s.g x.thr.val rs + off.signExtend 64).toNat (2 ^ sz.toNat) = none) :
    s.Starts x [rs] (.ldr x rd rs sx sz off) (.load (s.g x.thr.val rs + off.signExtend 64).toNat (2 ^ sz.toNat) sx rd) :=
  starts_of_startOp rfl (by rw [g_ran, effAddr]; dsimp only; rw [check])

theorem str_starts (check : (s.ran x).rldCheck (s.g x.thr.val rs + off.signExtend 64).toNat (2 ^ sz.toNat) = none) :
    s.Starts x [rd, rs] (.str x rd rs false sz off)
      (.store (s.g x.thr.val rs + off.signExtend 64).toNat (2 ^ sz.toNat) (s.g x.thr.val rd)) :=
  starts_of_startOp rfl (by rw [g_ran, g_ran, effAddr]; dsimp only; rw [check]; rfl)

theorem atr_starts {reads : List RegNo} {fn : Fin 3} {c : Instr} (runs : exec c s = .next (s.atr x rd rs rt reads fn))
    (check : (s.ran x).rldCheck (s.g x.thr.val rs).toNat 8 = none) :
    s.Starts x reads c (.atomic fn (s.g x.thr.val rs).toNat (s.g x.thr.val rt) (s.g x.thr.val rd) rd) :=
  starts_of_startOp runs (by rw [g_ran, g_ran, g_ran, check])

theorem ldr_raises {e : Exc} (check : (s.ran x).rldCheck (s.g x.thr.val rs + off.signExtend 64).toNat (2 ^ sz.toNat) = some e) :
    s.Raises x [rs] true (.ldr x rd rs sx sz off) e :=
  raises_of_exc rfl (by rw [g_ran, effAddr]; dsimp only; rw [check])

theorem str_raises {e : Exc} (check : (s.ran x).rldCheck (s.g x.thr.val rs + off.signExtend 64).toNat (2 ^ sz.toNat) = some e) :
    s.Raises x [rd, rs] true (.str x rd rs false sz off) e :=
  raises_of_exc rfl (by rw [g_ran, effAddr]; dsimp only; rw [check]; rfl)

theorem atr_raises {reads : List RegNo} {fn : Fin 3} {c : Instr} {e : Exc} (runs : exec c s = .next (s.atr x rd rs rt reads fn))
    (check : (s.ran x).rldCheck (s.g x.thr.val rs).toNat 8 = some e) : s.Raises x reads true c e :=
  raises_of_exc runs (by rw [g_ran, g_ran, g_ran, check])

/-! ### Its return -/

/-- No operation of the same line stands before place `k`. -/
def First (s : State) (n : ThreadId) (k : Fin 64) (a : Nat) : Prop :=
  ∀ q ∈ (s.thr n.val).ops.take k.val, opLine q.op ≠ some (a / 64)

theorem lineBehind_of_first {n : ThreadId} {k : Fin 64} : lineBehind (s.thr n.val).ops k.val (a / 64) = false ↔ First s n k a := by
  simp [lineBehind, First]

/-- The state in which the RLC performs the operation at place `k`: it has left the list, and its stack has counted the access. -/
def taken (s : State) (n : ThreadId) (k : Fin 64) (a : Nat) : State :=
  (s.setThr n.val { s.thr n.val with ops := (s.thr n.val).ops.eraseIdx k.val }).bump F.RLC_ACCESS_CNT_COUNT (Config.rldStack (a / 64)).val

theorem takeOp_eq {n : ThreadId} {k : Fin 64} (stays : (s.thr n.val).dropping = false) :
    (s.takeOp n.val k.val).rldAccess (a / 64) .ok = taken s n k a := by
  unfold takeOp
  dsimp only
  rw [if_neg (by simp [stays])]
  rfl

theorem taken_frame (n : ThreadId) (k : Fin 64) :
    (taken s n k a).rld = s.rld ∧ (taken s n k a).rldPoison = s.rldPoison := by
  unfold taken
  rw [setThr_frame]
  exact ⟨rfl, rfl⟩

theorem rldRead_congr {t : State} (h : t.rld = s.rld) : t.rldRead a size = s.rldRead a size := by
  unfold rldRead rldByte
  rw [h]

theorem rldBad_congr {t : State} (h : t.rldPoison = s.rldPoison) : t.rldBad a = s.rldBad a := by
  unfold rldBad
  rw [h]

theorem rldWrite_frame (t : State) (bs : List Byte) : t.rldWrite a bs = { t with rld := (t.rldWrite a bs).rld } := by
  induction bs generalizing t a with
  | nil => rfl
  | cons b bs ih =>
    rw [rldWrite, ih]

/-- What a store of bytes leaves in RLD, and nothing else beside what the return leaves. -/
def Stored (s : State) (n : ThreadId) (k : Fin 64) (u : State) (a : Nat) (bs : List Byte) : Prop :=
  u = { taken s n k a with rld := u.rld } ∧ (∀ i (h : i < bs.length), u.rldByte (a + i) = bs[i]) ∧
    ∀ b, b < a ∨ a + bs.length ≤ b → u.rldByte b = s.rldByte b

theorem stored_rldWrite (n : ThreadId) (k : Fin 64) (bs : List Byte) : Stored s n k ((taken s n k a).rldWrite a bs) a bs := by
  refine ⟨rldWrite_frame _ bs, fun i h => rldByte_rldWrite_in bs a i h, fun b out => ?_⟩
  rw [rldByte_rldWrite_out bs a b out, rldByte, (taken_frame n k).1]
  rfl

/-- What the return of an operation leaves in its register. -/
def Returned (n : ThreadId) (o : OutOp) (rd : RegNo) (w : Word) (u t : State) : Prop :=
  if o.live then u.Wrote n.val rd w t else t = u

theorem returned_retReg (u : State) (n : ThreadId) (o : OutOp) (rd : RegNo) (w : Word) : Returned n o rd w u (u.retReg n.val o rd w) := by
  unfold Returned retReg
  split
  · exact wrote_setGreg ..
  · rfl

section
variable {n : ThreadId} {k : Fin 64} {o : OutOp} (stays : (s.thr n.val).dropping = false) (here : (s.thr n.val).ops[k.val]? = some o)
include here

theorem return_waits (line : opLine o.op = some (a / 64)) (later : ¬First s n k a) : exec (.rldLoadReturn n k .ok) s = .next s := by
  have behind : lineBehind (s.thr n.val).ops k.val (a / 64) = true := by
    rw [← lineBehind_of_first] at later
    simpa using later
  show execRldLoadReturn n k .ok s = _
  unfold execRldLoadReturn
  rw [here]
  dsimp only
  rw [line]
  dsimp only
  rw [if_pos behind]

include stays

theorem return_load {sx : Bool} {rd : RegNo} (op : o.op = .load a size sx rd) (first : First s n k a) (clean : s.rldBad a = false) :
    exec (.rldLoadReturn n k .ok) s = .next ((taken s n k a).retReg n.val o rd (loadValue sx (s.rldRead a size))) := by
  have same := taken_frame (s := s) (a := a) n k
  show execRldLoadReturn n k .ok s = _
  unfold execRldLoadReturn
  rw [here]
  dsimp only
  rw [op]
  dsimp only [opLine]
  rw [if_neg (by rw [lineBehind_of_first.2 first]; decide), takeOp_eq stays, rldBad_congr same.2, clean, rldRead_congr same.1, loaded_eq]
  rfl

theorem return_store {v : Word} (op : o.op = .store a size v) (first : First s n k a) :
    exec (.rldLoadReturn n k .ok) s = .next ((taken s n k a).rldWrite a (toBytesLE size v.toNat)) := by
  show execRldLoadReturn n k .ok s = _
  unfold execRldLoadReturn
  rw [here]
  dsimp only
  rw [op]
  dsimp only [opLine]
  rw [if_neg (by rw [lineBehind_of_first.2 first]; decide), takeOp_eq stays]

theorem return_atomic {fn : Fin 3} {v c : Word} {rd : RegNo} (op : o.op = .atomic fn a v c rd) (first : First s n k a)
    (clean : s.rldBad a = false) :
    exec (.rldLoadReturn n k .ok) s = .next ((match (if fn = 0 then some (loadValue false (s.rldRead a 8) + v) else if fn = 1 then some v
        else if loadValue false (s.rldRead a 8) = c then some v else none) with
      | some w => (taken s n k a).rldWrite a (toBytesLE 8 w.toNat)
      | none => taken s n k a).retReg n.val o rd (loadValue false (s.rldRead a 8))) := by
  have same := taken_frame (s := s) (a := a) n k
  show execRldLoadReturn n k .ok s = _
  unfold execRldLoadReturn
  rw [here]
  dsimp only
  rw [op]
  dsimp only [opLine]
  rw [if_neg (by rw [lineBehind_of_first.2 first]; decide), takeOp_eq stays, rldBad_congr same.2, clean, rldRead_congr same.1, loaded_eq]
  rfl

theorem atomic_stored {fn : Fin 3} {v c : Word} {rd : RegNo} (op : o.op = .atomic fn a v c rd) (first : First s n k a)
    (clean : s.rldBad a = false) {old : Word} (was : loadValue false (s.rldRead a 8) = old) :
    ∃ t u : State, exec (.rldLoadReturn n k .ok) s = .next t ∧
      Stored s n k u a (toBytesLE 8 (if fn = 0 then old + v else if fn = 1 ∨ old = c then v else old : Word).toNat) ∧
      Returned n o rd old u t := by
  subst was
  refine ⟨_, _, return_atomic stays here op first clean, ?_, returned_retReg ..⟩
  by_cases add : fn = 0
  · rw [if_pos add, if_pos add]
    exact stored_rldWrite ..
  · rw [if_neg add, if_neg add]
    by_cases swap : fn = 1
    · rw [if_pos swap, if_pos (.inl swap)]
      exact stored_rldWrite ..
    · rw [if_neg swap]
      by_cases same : loadValue false (s.rldRead a 8) = c
      · rw [if_pos same, if_pos (.inr same)]
        exact stored_rldWrite ..
      · rw [if_neg same, if_neg (not_or.2 ⟨swap, same⟩)]
        refine ⟨rfl, fun i h => ?_, fun b _ => congrArg (SMap.get 0 · b) (taken_frame n k).1⟩
        exact (congrArg (SMap.get 0 · (a + i)) (taken_frame n k).1).trans (byte_of_loaded (by simpa using h)).symm

end

/-- Settles O13: the starts and faults by the check of the address, the returns by what the RLC does at the place. -/
theorem rldOperations : Obligations.RldOperations := by
  refine ⟨?_, ?_⟩
  · intro s x rd rs rt sx sz off n a at_ size recBase recEnd open_
    refine ⟨fun aligned inside => ?_, fun aligned inside => ?_, fun odd => ?_, fun aligned outside => ?_, fun odd => ?_,
      fun aligned outside => ?_⟩
    · have check := rldCheck_inside (x := x) aligned inside
      exact ⟨ldr_starts check, str_starts check⟩
    · have check := rldCheck_inside (x := x) aligned inside
      exact ⟨atr_starts rfl check, atr_starts rfl check, atr_starts rfl check⟩
    · have check := rldCheck_odd (s := s) (x := x) odd
      exact ⟨ldr_raises check, str_raises check⟩
    · have check := rldCheck_outside (x := x) aligned outside
      exact ⟨ldr_raises check, str_raises check⟩
    · have check := rldCheck_odd (s := s) (x := x) odd
      exact ⟨atr_raises rfl check, atr_raises rfl check, atr_raises rfl check⟩
    · have check := rldCheck_outside (x := x) aligned outside
      exact ⟨atr_raises rfl check, atr_raises rfl check, atr_raises rfl check⟩
  · intro s n k o y left first writes stored stays here
    refine ⟨fun a size sx rd op first clean => ⟨_, return_load stays here op first clean, returned_retReg ..⟩,
      fun a size v op first => ⟨_, return_store stays here op first, stored_rldWrite ..⟩,
      fun fn a v c rd op first clean => atomic_stored stays here op first clean rfl, fun a line later => return_waits here line later⟩

end Sys2Proof.Machine.RldOps
end

section
/-!
PROOFS. FORK and FORKD (R384).
-/

namespace Sys2Proof.Machine.Fork
open State Issue Scratchpad Branches

variable {s : State} {x : Slot} {rd rs : RegNo} {imm : BitVec 16} {detached : Bool} {c : Instr}

/-- The threads of a pool, supervisor excepted. -/
theorem pool_eq (t : Nat) : (trussThreads t).drop 1 = (List.range' 1 63).map (64 * t + ·) := by
  rw [trussThreads, List.range_eq_range', ← List.map_drop]
  rfl

/-- A thread of the pool is FREE and has no operation that a debugger waits for. -/
def isFree (s : State) (m : Nat) : Bool := (s.thr m).state == .free && !(s.thr m).aborting

theorem find_lowest {t l : Nat} (inPool : 1 ≤ l) (below : l < 64) (free : isFree s (64 * t + l) = true)
    (lower : ∀ k, 1 ≤ k → k < l → isFree s (64 * t + k) = false) : ((trussThreads t).drop 1).find? (isFree s) = some (64 * t + l) := by
  rw [pool_eq, List.find?_map, (List.find?_range'_eq_some (i := l)).2]
  · rfl
  · exact ⟨free, by simp; omega, fun j low high => by simpa using lower j low high⟩

theorem find_none {t : Nat} (busy : ∀ k, 1 ≤ k → k < 64 → isFree s (64 * t + k) = false) :
    ((trussThreads t).drop 1).find? (isFree s) = none := by
  rw [pool_eq, List.find?_map, List.find?_range'_eq_none.2]
  · rfl
  · exact fun j low high => by simpa using busy j low (by omega)

theorem isFree_ran (x : Slot) (m : Nat) : isFree (s.ran x) m = isFree s m := by
  rw [isFree, state_ran, aborting_ran, isFree]

/-- A thread that FORK starts. -/
def child (s : State) (n m : Nat) (target : Int) (detached : Bool) (arg : Word) : Thread :=
  { ops := (s.thr m).ops, state := .running, pc := BitVec.ofInt 32 target, parent := n % 64, detached := detached,
    joinable := !detached, regs := if arg = 0 then [] else [(1, arg)] }

section
variable (runs : exec c s = .next (s.fork x rd rs imm detached))
include runs

theorem fork_raises (outside : ¬InCode s x.thr.val (relTarget (s.thr x.thr.val).pc imm.toInt)) : s.Raises x [rs] false c .pcRange := by
  refine raises_of_exc runs ?_
  rw [g_ran, codeSize_ran]
  unfold InCode at outside
  exact if_pos (by omega)

variable (issues : s.Issues x [rs] false) (inside : InCode s x.thr.val (relTarget (s.thr x.thr.val).pc imm.toInt))
include issues inside

theorem fork_starts {l : Nat} (inPool : 1 ≤ l) (below : l < 64) (free : isFree s (64 * (x.thr.val / 64) + l) = true)
    (lower : ∀ k, 1 ≤ k → k < l → isFree s (64 * (x.thr.val / 64) + k) = false) :
    ∃ t u : State, exec c s = .next t ∧ (s.ran x).OnlyThread u (64 * (x.thr.val / 64) + l) ∧
      u.thr (64 * (x.thr.val / 64) + l) = child s x.thr.val (64 * (x.thr.val / 64) + l)
        (relTarget (s.thr x.thr.val).pc imm.toInt) detached (s.g x.thr.val rs) ∧
      (u.bump F.TRS_THR_CNT_FORKS (x.thr.val / 64)).Wrote x.thr.val rd (BitVec.ofNat 64 l) t := by
  have other : 64 * (x.thr.val / 64) + l ≠ x.thr.val := fun same => by
    have running := issues.1
    rw [isFree, same, running] at free
    cases free
  have found := find_lowest (s := s.ran x) inPool below (by rwa [isFree_ran]) (fun k low high => by rw [isFree_ran, lower k low high])
  have regs : SMap.put 0 ([] : SMap Word) 1 (s.g x.thr.val rs) = if s.g x.thr.val rs = 0 then [] else [(1, s.g x.thr.val rs)] := by
    unfold SMap.put
    split <;> rfl
  unfold InCode at inside
  refine ⟨_, (s.ran x).setThr (64 * (x.thr.val / 64) + l) (child s x.thr.val (64 * (x.thr.val / 64) + l)
    (relTarget (s.thr x.thr.val).pc imm.toInt) detached (s.g x.thr.val rs)), exec_of_ok runs issues ?_, onlyThread_setThr .., thr_setThr ..,
    wrote_setGreg ..⟩
  rw [g_ran, codeSize_ran]
  dsimp only
  rw [if_neg (by omega)]
  unfold isFree at found
  rw [found]
  dsimp only
  rw [regs, thr_ran_ne s other, show (64 * (x.thr.val / 64) + l) % 64 = l by omega]
  rfl

theorem fork_none (busy : ∀ k, 1 ≤ k → k < 64 → isFree s (64 * (x.thr.val / 64) + k) = false) :
    ∃ t, exec c s = .next t ∧ ((s.ran x).bump F.TRS_THR_CNT_FORK_NONE (x.thr.val / 64)).Wrote x.thr.val rd 0xFFFFFFFFFFFFFFFF t := by
  have found := find_none (s := s.ran x) (t := x.thr.val / 64) (fun k low high => by rw [isFree_ran, busy k low high])
  unfold InCode at inside
  refine exec_of_put runs issues ?_
  rw [g_ran, codeSize_ran]
  dsimp only
  rw [if_neg (by omega)]
  unfold isFree at found
  rw [found]
  rfl

end

/-- Settles O14: FORK and FORKD are one effect, by the lowest FREE thread of the pool. -/
theorem forkStartsLowestFree : Obligations.ForkStartsLowestFree := by
  intro s x rd rs imm n target inCode isFree' child' none_
  have free_iff (l : Nat) : isFree' l ↔ isFree s (64 * (n / 64) + l) = true := by simp [isFree', isFree]
  refine ⟨fun l inPool below free lower inside issues => ?_, fun busy inside issues => ?_, fun outside =>
    ⟨fork_raises rfl outside, fork_raises rfl outside⟩⟩
  · have lower' (k : Nat) (low : 1 ≤ k) (high : k < l) : isFree s (64 * (n / 64) + k) = false := by
      simpa [free_iff] using lower k low high
    exact ⟨fork_starts rfl issues inside inPool below ((free_iff l).1 free) lower',
      fork_starts rfl issues inside inPool below ((free_iff l).1 free) lower'⟩
  · have busy' (k : Nat) (low : 1 ≤ k) (high : k < 64) : isFree s (64 * (n / 64) + k) = false := by
      simpa [free_iff] using busy k low high
    exact ⟨fork_none rfl issues inside busy', fork_none rfl issues inside busy'⟩

end Sys2Proof.Machine.Fork
end

section
/-!
PROOFS. JOIN (R385).
-/

namespace Sys2Proof.Machine.Join
open State Issue

variable {s : State} {x : Slot} {rd rs : RegNo}

/-- The thread that a JOIN names, and whether it is a joinable child of the caller that still has a record. -/
def named (s : State) (x : Slot) (rs : RegNo) : Nat := 64 * (x.thr.val / 64) + (s.g x.thr.val rs).toNat

def IsChild (s : State) (x : Slot) (rs : RegNo) : Prop :=
  (s.g x.thr.val rs).toNat < 64 ∧ (s.thr (named s x rs)).state ≠ .free ∧ (s.thr (named s x rs)).joinable = true ∧
    (s.thr (named s x rs)).parent = x.thr.val % 64

/-- The test of JOIN, on the state in which it issues. -/
theorem join_test : (64 ≤ (s.g x.thr.val rs).toNat ∨ ((s.ran x).thr (named s x rs)).state = .free ∨
    (!((s.ran x).thr (named s x rs)).joinable) = true ∨ ((s.ran x).thr (named s x rs)).parent ≠ x.thr.val % 64) ↔ ¬IsChild s x rs := by
  rw [state_ran, joinable_ran, parent_ran, IsChild]
  simp only [not_and_or, not_lt, not_not, Bool.not_eq_true', Bool.not_eq_true, ne_eq]

theorem join_done (issues : s.Issues x [rs] false) (child : IsChild s x rs) (other : named s x rs ≠ x.thr.val)
    (ended : (s.thr (named s x rs)).state = .done) :
    ∃ t u : State, exec (.join x rd rs) s = .next t ∧ (s.ran x).OnlyThread u (named s x rs) ∧
      u.thr (named s x rs) = { ops := (s.thr (named s x rs)).ops } ∧ u.Wrote x.thr.val rd (s.thr (named s x rs)).exitVal t := by
  refine ⟨_, (s.ran x).setThr (named s x rs) { ops := (s.thr (named s x rs)).ops }, exec_of_ok rfl issues ?_, onlyThread_setThr ..,
    thr_setThr .., wrote_setGreg ..⟩
  rw [g_ran]
  refine (if_neg (mt join_test.1 (not_not.2 child))).trans ((if_pos ?_).trans ?_)
  · exact (state_ran ..).trans ended
  · rw [← named, thr_ran_ne s other]
    rfl

theorem join_waits (issues : s.Issues x [rs] false) (child : IsChild s x rs) (lives : (s.thr (named s x rs)).state ≠ .done) :
    ∃ t, exec (.join x rd rs) s = .next t ∧ (s.ran x).OnlyThread t x.thr.val ∧
      t.thr x.thr.val = { (s.ran x).thr x.thr.val with
        state := .waiting, waitMask := 0x20, joining := some ((s.g x.thr.val rs).toNat, rd), claims := 0 } := by
  refine ⟨_, exec_of_ok rfl issues ?_, onlyThread_setThr .., thr_setThr ..⟩
  rw [g_ran]
  exact (if_neg (mt join_test.1 (not_not.2 child))).trans (if_neg fun ended => lives ((state_ran ..).symm.trans ended))

theorem join_raises (stranger : ¬IsChild s x rs) : s.Raises x [rs] false (.join x rd rs) .join :=
  raises_of_exc rfl (by rw [g_ran]; exact if_pos (join_test.2 stranger))

/-- Settles O15: the three outcomes of JOIN. -/
theorem joinChild : Obligations.JoinChild := fun _ _ _ _ => ⟨join_done, join_waits, join_raises⟩

end Sys2Proof.Machine.Join
end

section
/-!
PROOFS. END of a thread for which a grant of buffers is on its way (R266, R383).
-/

namespace Sys2Proof.Machine.End
open State Sys2Proof.Tests

/-- A RUNNING thread 1 without Rail, waiting ALLOC or children, for which a grant is on its way. -/
def granted : State := { live with grants := [{ thread := 1, head := 0 }] }

/-- The grants that a command leaves. -/
def grantsAfter (c : Instr) (s : State) : List Grant :=
  match exec c s with
  | .next t => t.grants
  | _ => []

/-- END marks the grant of the thread that ends as late (R266). -/
theorem grants_end : grantsAfter (.endThread slot1 1) granted = [{ thread := 1, head := 0, late := true }] := by decide

/-- Refutes O16: END of a detached thread is said to change its record alone, and it also marks the grant that is on its way to the thread as
late. -/
theorem not_endAndSignal : ¬ Obligations.EndAndSignal := by
  intro h
  obtain ⟨ends, -⟩ := h granted slot1 1
  obtain ⟨-, detached⟩ := ends (by decide) rfl rfl (by decide) (issues_of _ _ _ _ (by decide))
  obtain ⟨t, ran, ⟨same, -⟩, -⟩ := detached rfl
  have kept : t.grants = (granted.ran slot1).grants := by rw [same]
  have left : t.grants = [{ thread := 1, head := 0, late := true }] := by
    rw [← grants_end, grantsAfter, ran]
  exact absurd (kept.symm.trans left) (by decide)

end Sys2Proof.Machine.End
end

section
/-!
PROOFS. WAIT and TMR (R389–R393).
-/

namespace Sys2Proof.Machine.Wait
open State Issue

variable {s : State} {x : Slot} {rd rs : RegNo} {mask : BitVec 11}

theorem wait_waits (issues : s.Issues x [] false) (none : s.pendingSet x.thr.val &&& effMask x.thr.val mask = 0) :
    ∃ t, exec (.wait x rd mask) s = .next t ∧ (s.ran x).OnlyThread t x.thr.val ∧
      t.thr x.thr.val = { (s.ran x).thr x.thr.val with state := .waiting, waitMask := mask, waitRd := rd, claims := 0 } := by
  refine ⟨_, exec_of_ok rfl issues ?_, onlyThread_setThr .., thr_setThr ..⟩
  rw [pendingSet_ran]
  exact if_neg (not_not.2 none)

/-- What the sources that WAIT takes leave in the thread's record. -/
def takenFrom (y : Thread) (set : BitVec 11) : Thread :=
  { y with
    pend := (y.pend &&& ~~~(set &&& 0x7F0)) ||| (if set.getLsbD 0 then 1 else 0)
    armed := y.armed && !set.getLsbD 0
    claims := 0
    waitMask := 0
    joining := none }

theorem wait_takes (issues : s.Issues x [] false) (some : s.pendingSet x.thr.val &&& effMask x.thr.val mask ≠ 0) :
    ∃ t u : State, exec (.wait x rd mask) s = .next t ∧ (s.ran x).OnlyThread u x.thr.val ∧
      u.thr x.thr.val = takenFrom ((s.ran x).thr x.thr.val) (s.pendingSet x.thr.val &&& effMask x.thr.val mask) ∧
      u.Wrote x.thr.val rd ((s.pendingSet x.thr.val &&& effMask x.thr.val mask).setWidth 64) t := by
  have running : ((s.ran x).thr x.thr.val).state = .running := (state_ran ..).trans issues.1
  refine ⟨_, (s.ran x).setThr x.thr.val (takenFrom ((s.ran x).thr x.thr.val) (s.pendingSet x.thr.val &&& effMask x.thr.val mask)),
    exec_of_ok rfl issues ?_, onlyThread_setThr .., thr_setThr .., wrote_setGreg ..⟩
  rw [pendingSet_ran]
  refine (if_pos some).trans ?_
  unfold takeSources takenFrom
  rw [running]

theorem timer_sets {c : Instr} {v : State → Nat → Word} {w : Word} (issues : s.Issues x [rs] false)
    (runs : exec c s = .next (s.issue x (mRs ||| mFn) [rs] false fun t n _ => t.setTimer n (v t n))) (value : v (s.ran x) x.thr.val = w) :
    ∃ t, exec c s = .next t ∧ (s.ran x).OnlyThread t x.thr.val ∧
      t.thr x.thr.val = { (s.ran x).thr x.thr.val with
        cmp := w, armed := true, pend := ((s.ran x).thr x.thr.val).pend &&& ~~~1 } := by
  refine ⟨_, exec_of_ok runs issues rfl, onlyThread_setThr .., ?_⟩
  rw [thr_setThr, value]
  rfl

/-- Settles O17: WAIT by whether a masked source is pending, TMR by the value it sets. -/
theorem waitAndTimer : Obligations.WaitAndTimer := by
  intro s x rd rs mask n m set y
  have now : (s.ran x).cycle = s.cycle := by rw [Scratchpad.ran_frame]
  exact ⟨wait_waits, wait_takes, fun issues => timer_sets issues rfl (g_ran ..),
    fun issues => timer_sets issues rfl (by rw [now, g_ran])⟩

end Sys2Proof.Machine.Wait
end

section
/-!
PROOFS. THREAD_WAKE and THRCTL (R385, R389–R393, R414).
-/

namespace Sys2Proof.Machine.ThreadWake
open State Issue

variable {s : State}

/-! ### THREAD_WAKE -/

section
variable {n : ThreadId}

theorem wake_idle (idle : (s.thr n.val).state ≠ .waiting ∨ (s.thr n.val).implicit.isSome = true ∨ (s.thr n.val).aborting = true) :
    exec (.threadWake n) s = .next s := by
  refine congrArg _ (if_pos ?_)
  rcases idle with h | h | h
  · exact .inl h
  · exact .inr (.inl h)
  · exact .inr (.inr (.inl h))

variable (waits : (s.thr n.val).state = .waiting) (explicit : (s.thr n.val).implicit = none) (stays : (s.thr n.val).aborting = false)
  (on : s.trussPwr (n.val / 64) = 0)
include waits explicit stays on

theorem wake_test : ¬((s.thr n.val).state ≠ .waiting ∨ ((s.thr n.val).implicit.isSome = true) ∨ ((s.thr n.val).aborting = true) ∨
    s.trussPwr (n.val / 64) ≠ 0) := by
  simp [waits, explicit, stays, on]

theorem wake_none (alone : (s.thr n.val).joining = none)
    (none : ((s.pendingSet n.val &&& effMask n.val (s.thr n.val).waitMask) &&& 0x7F1) ||| s.sharedWake n.val = 0) :
    exec (.threadWake n) s = .next s := by
  show execThreadWake n s = _
  unfold execThreadWake
  dsimp only
  rw [if_neg (wake_test waits explicit stays on), alone]
  exact congrArg _ (if_pos none)

theorem wake_sources (alone : (s.thr n.val).joining = none)
    (some : ((s.pendingSet n.val &&& effMask n.val (s.thr n.val).waitMask) &&& 0x7F1) ||| s.sharedWake n.val ≠ 0) :
    exec (.threadWake n) s = .next ((s.takeSources n.val (s.pendingSet n.val &&& effMask n.val (s.thr n.val).waitMask)
      (s.sharedWake n.val &&& (s.pendingSet n.val &&& effMask n.val (s.thr n.val).waitMask)) (s.thr n.val).waitRd.toNat).endSignal n.val) := by
  show execThreadWake n s = _
  unfold execThreadWake
  dsimp only
  rw [if_neg (wake_test waits explicit stays on), alone]
  exact congrArg _ (if_neg some)

theorem wake_join {c : Nat} {rd : RegNo} (joins : (s.thr n.val).joining = some (c, rd))
    (ended : (s.thr (64 * (n.val / 64) + c)).state = .done) (joinable : (s.thr (64 * (n.val / 64) + c)).joinable = true)
    (other : 64 * (n.val / 64) + c ≠ n.val) :
    ∃ t, exec (.threadWake n) s = .next t ∧
      t.thr (64 * (n.val / 64) + c) = { ops := (s.thr (64 * (n.val / 64) + c)).ops } ∧ (t.thr n.val).state = .running ∧
      (t.thr n.val).joining = none ∧ (t.thr n.val).pend = (s.thr n.val).pend &&& ~~~0x60 ∧
      ∀ r : RegNo, t.g n.val r = if r = rd ∧ rd ≠ 0 then (s.thr (64 * (n.val / 64) + c)).exitVal else s.g n.val r := by
  have running : exec (.threadWake n) s = .next (((s.setThr (64 * (n.val / 64) + c) { ops := (s.thr (64 * (n.val / 64) + c)).ops }).setThr n.val
      { s.thr n.val with state := .running, joining := none, waitMask := 0, pend := (s.thr n.val).pend &&& ~~~0x60 }).setGreg n.val rd.toNat
      (s.thr (64 * (n.val / 64) + c)).exitVal) := by
    show execThreadWake n s = _
    unfold execThreadWake
    dsimp only
    rw [if_neg (wake_test waits explicit stays on), joins]
    dsimp only
    rw [if_pos ⟨ended, joinable⟩, thr_setThr_ne _ _ other.symm]
  obtain ⟨⟨-, others⟩, own, reads⟩ := wrote_setGreg ((s.setThr (64 * (n.val / 64) + c) { ops := (s.thr (64 * (n.val / 64) + c)).ops }).setThr
    n.val { s.thr n.val with state := .running, joining := none, waitMask := 0, pend := (s.thr n.val).pend &&& ~~~0x60 }) n.val rd
    (s.thr (64 * (n.val / 64) + c)).exitVal
  rw [thr_setThr] at own
  refine ⟨_, running, ?_, by rw [own], by rw [own], by rw [own], fun r => ?_⟩
  · rw [others _ other, thr_setThr_ne _ _ other, thr_setThr]
  · rw [reads, g, greg, thr_setThr]
    rfl

end

/-- What the sources that a wake takes leave. -/
theorem taken_leaves (n : Nat) (set claims : BitVec 11) (rd : RegNo) :
    let t := (s.takeSources n set claims rd.toNat).endSignal n
    s.OnlyThread t n ∧ (t.thr n).state = .running ∧ (t.thr n).claims = claims ∧ (t.thr n).waitMask = 0 ∧
      (t.thr n).pend.getLsbD 6 = false ∧ ∀ r : RegNo, t.g n r = if r = rd ∧ rd ≠ 0 then set.setWidth 64 else s.g n r := by
  intro t
  obtain ⟨only, own, reads⟩ := wrote_setGreg (s.setThr n { s.thr n with
    pend := ((s.thr n).pend &&& ~~~(set &&& 0x7F0)) ||| (if set.getLsbD 0 then 1 else 0),
    armed := (s.thr n).armed && !set.getLsbD 0, claims := claims, state := .running, waitMask := 0, joining := none }) n rd (set.setWidth 64)
  rw [thr_setThr] at own
  have own : (s.takeSources n set claims rd.toNat).thr n = _ := own
  have at_ : t.thr n = { (s.takeSources n set claims rd.toNat).thr n with
      pend := ((s.takeSources n set claims rd.toNat).thr n).pend &&& 0x7BF } := thr_setThr ..
  refine ⟨onlyThread_trans (onlyThread_trans (onlyThread_setThr ..) only) (onlyThread_setThr ..), ?_, ?_, ?_, ?_, fun r => ?_⟩
  · rw [at_, own]
  · rw [at_, own]
  · rw [at_, own]
  · rw [at_]
    simp
  · rw [g, greg, at_]
    refine (reads r).trans ?_
    rw [g, greg, thr_setThr]
    rfl

/-! ### THRCTL -/

section
variable {x : Slot} {rd rs rt : RegNo}

/-- A thread of the pool that THRCTL may touch. -/
def Faulted (s : State) (n : Nat) (w : Word) : Prop :=
  w.toNat < 64 ∧ (s.thr (64 * (n / 64) + w.toNat)).state = .faulted ∧ (s.thr (64 * (n / 64) + w.toNat)).aborting = false

theorem faultedThread_ran (n : Nat) (w : Word) : (s.ran x).faultedThread n w = s.faultedThread n w := by
  unfold faultedThread
  dsimp only
  rw [state_ran, aborting_ran]

theorem faultedThread_some {n : Nat} {w : Word} (h : Faulted s n w) : s.faultedThread n w = some (64 * (n / 64) + w.toNat) := by
  obtain ⟨inPool, faulted, stays⟩ := h
  exact if_pos ⟨inPool, faulted, by simp [stays]⟩

theorem faultedThread_none {n : Nat} {w : Word} (h : ¬Faulted s n w) : s.faultedThread n w = none :=
  if_neg fun ⟨inPool, faulted, stays⟩ => h ⟨inPool, faulted, by simpa using stays⟩

/-- A byte address of the code at which a thread may restart. -/
def Restarts (s : State) (n : Nat) (w : Word) : Prop := w.toNat % 4 = 0 ∧ w.toNat < s.codeSize n

theorem thrctlFree_priv (pool : x.thr.val % 64 ≠ 0) : s.Raises x [rs] false (.thrctlFree x rd rs) .priv :=
  raises_of_exc rfl (if_pos pool)

theorem thrctlRestart_priv (pool : x.thr.val % 64 ≠ 0) : s.Raises x [rs, rt] false (.thrctlRestart x rd rs rt) .priv :=
  raises_of_exc rfl (if_pos pool)

variable (supervisor : x.thr.val % 64 = 0)
include supervisor

theorem thrctlFree_none (sound : ¬Faulted s x.thr.val (s.g x.thr.val rs)) : s.Computes x [rs] (.thrctlFree x rd rs) rd 2 :=
  s.computes_put rfl (by rw [if_neg (not_not.2 supervisor), g_ran, faultedThread_ran, faultedThread_none sound])

theorem thrctlRestart_none (sound : ¬Faulted s x.thr.val (s.g x.thr.val rs)) (inCode : Restarts s x.thr.val (s.g x.thr.val rt)) :
    s.Computes x [rs, rt] (.thrctlRestart x rd rs rt) rd 2 := by
  obtain ⟨aligned, inside⟩ := inCode
  refine s.computes_put rfl ?_
  rw [g_ran, g_ran, codeSize_ran]
  dsimp only
  rw [if_neg (not_not.2 supervisor), if_neg (by omega), faultedThread_ran, faultedThread_none sound]

theorem thrctlRestart_range (outside : ¬Restarts s x.thr.val (s.g x.thr.val rt)) :
    s.Raises x [rs, rt] false (.thrctlRestart x rd rs rt) .pcRange := by
  unfold Restarts at outside
  refine raises_of_exc rfl ?_
  rw [g_ran, codeSize_ran]
  dsimp only
  rw [if_neg (not_not.2 supervisor), if_pos (by omega)]

theorem thrctlRestart_runs (faulted : Faulted s x.thr.val (s.g x.thr.val rs)) (inCode : Restarts s x.thr.val (s.g x.thr.val rt))
    (issues : s.Issues x [rs, rt] false) :
    ∃ t u : State, exec (.thrctlRestart x rd rs rt) s = .next t ∧
      (s.ran x).OnlyThread u (64 * (x.thr.val / 64) + (s.g x.thr.val rs).toNat) ∧
      u.thr (64 * (x.thr.val / 64) + (s.g x.thr.val rs).toNat) = { s.thr (64 * (x.thr.val / 64) + (s.g x.thr.val rs).toNat) with
        state := .running, pc := BitVec.ofNat 32 (s.g x.thr.val rt).toNat } ∧ u.Wrote x.thr.val rd 0 t := by
  obtain ⟨aligned, inside⟩ := inCode
  refine ⟨_, (s.ran x).setThr (64 * (x.thr.val / 64) + (s.g x.thr.val rs).toNat)
    { (s.ran x).thr (64 * (x.thr.val / 64) + (s.g x.thr.val rs).toNat) with
      state := .running, pc := BitVec.ofNat 32 (s.g x.thr.val rt).toNat }, exec_of_ok rfl issues ?_, onlyThread_setThr .., ?_, wrote_setGreg ..⟩
  · rw [g_ran, g_ran, codeSize_ran]
    dsimp only
    rw [if_neg (not_not.2 supervisor), if_neg (by omega), faultedThread_ran, faultedThread_some faulted]
    rfl
  · rw [thr_setThr, thr_ran_any]

end

/-! ### The return of a FAULTED thread to the pool -/

/-- A record written for a thread leaves a RUNNING one as it is, if it is RUNNING itself where it is that thread's. -/
theorem setThr_running {n m : Nat} {y : Thread} (running : (s.thr n).state = .running) (own : n = m → y.state = .running) :
    ((s.setThr m y).thr n).state = .running := by
  by_cases same : n = m
  · rw [same, thr_setThr, own same]
  · rw [thr_setThr_ne _ _ same, running]

theorem setGreg_running {n m r : Nat} {w : Word} (running : (s.thr n).state = .running) : ((s.setGreg m r w).thr n).state = .running := by
  unfold setGreg
  split
  · exact running
  · exact setThr_running running fun same => same ▸ running

/-- A RUNNING thread keeps running when a thread that it waits for with JOIN returns to the pool. -/
theorem joinNone_running {n m : Nat} (running : (s.thr n).state = .running) : ((s.joinNone m).thr n).state = .running := by
  unfold joinNone
  dsimp only
  split
  · split
    · exact setGreg_running (setThr_running running fun same => by rw [← same, running]; rfl)
    · exact running
  · exact running

theorem orphan_running {n m : Nat} (running : (s.thr n).state = .running) : ((s.orphan m).thr n).state = .running := by
  unfold orphan
  dsimp only
  split
  · next ended => exact setThr_running running fun same => absurd (same ▸ ended) (by rw [running]; decide)
  · exact setThr_running running fun same => same ▸ running

theorem vacate_running {n m : Nat} (running : (s.thr n).state = .running) : ((s.vacate m).thr n).state = .running := by
  have orphans (l : List Nat) : ∀ t : State, (t.thr n).state = .running → ((l.foldl orphan t).thr n).state = .running := by
    induction l with
    | nil => exact fun _ h => h
    | cons k l ih => exact fun t h => ih _ (orphan_running h)
  exact orphans _ _ running

theorem thrctlFree_frees {x : Slot} {rd rs : RegNo} (supervisor : x.thr.val % 64 = 0) (faulted : Faulted s x.thr.val (s.g x.thr.val rs))
    (issues : s.Issues x [rs] false) : ∃ t : State, exec (.thrctlFree x rd rs) s = .next t ∧
      (t.thr (64 * (x.thr.val / 64) + (s.g x.thr.val rs).toNat)).state = .free ∧
      (t.thr (64 * (x.thr.val / 64) + (s.g x.thr.val rs).toNat)).regs = [] ∧ (t.thr x.thr.val).state = .running ∧
      (rd ≠ 0 → t.g x.thr.val rd = 0) := by
  have other : 64 * (x.thr.val / 64) + (s.g x.thr.val rs).toNat ≠ x.thr.val := fun same => by
    have stopped := faulted.2.1
    rw [same, issues.1] at stopped
    cases stopped
  obtain ⟨t, ran, ⟨-, others⟩, own, reads⟩ := exec_of_put (c := .thrctlFree x rd rs) (rd := rd) (w := 0)
    (t := (s.ran x).toPool (64 * (x.thr.val / 64) + (s.g x.thr.val rs).toNat)) rfl issues
    (by rw [if_neg (not_not.2 supervisor), g_ran, faultedThread_ran, faultedThread_some faulted])
  have freed : t.thr (64 * (x.thr.val / 64) + (s.g x.thr.val rs).toNat) = _ := (others _ other).trans (thr_setThr ..)
  refine ⟨t, ran, by rw [freed], by rw [freed], ?_, fun named => by rw [reads, if_pos ⟨rfl, named⟩]⟩
  rw [own, toPool, thr_setThr_ne _ _ other.symm]
  exact vacate_running (joinNone_running ((state_ran ..).trans issues.1))

/-- Settles O18: THREAD_WAKE by what the thread waits for, THRCTL by who asks and of which thread. -/
theorem threadWakesAndControl : Obligations.ThreadWakesAndControl := by
  refine ⟨?_, ?_⟩
  · intro s n y m set shared
    refine ⟨wake_idle, fun waits explicit stays on alone => ⟨wake_none waits explicit stays on alone, fun some => ?_⟩,
      fun c rd waits explicit stays on joins other ended joinable => wake_join waits explicit stays on joins ended joinable other⟩
    exact ⟨_, wake_sources waits explicit stays on alone some, taken_leaves ..⟩
  · intro s x rd rs rt n l m a faulted inCode
    exact ⟨fun pool => ⟨thrctlFree_priv pool, thrctlRestart_priv pool⟩,
      fun supervisor sound => ⟨thrctlFree_none supervisor sound, thrctlRestart_none supervisor sound⟩, thrctlRestart_range,
      thrctlRestart_runs, thrctlFree_frees⟩

end Sys2Proof.Machine.ThreadWake
end

section
/-!
PROOFS. What keeps a domain ON (R493).
-/

namespace Sys2Proof.Machine.Domains
open State Issue

/-- The state of a domain is kept with its register. -/
theorem domState_congr {s t : State} (kept : t.reg .PWR_DOMAINS 0 = s.reg .PWR_DOMAINS 0) (d : Nat) : t.domState d = s.domState d := by
  unfold domState
  split
  · next f at_ => rw [fld, fld, TimeUnit.domFld_reg at_, kept]
  · rfl

theorem domOn_congr {s t : State} (kept : t.reg .PWR_DOMAINS 0 = s.reg .PWR_DOMAINS 0) (d : Nat) : t.domOn d = s.domOn d := by
  rw [domOn, domState_congr kept, domState_congr kept, domOn]

theorem domOn_ran (s : State) (x : Slot) (d : Nat) : (s.ran x).domOn d = s.domOn d := domOn_congr (reg_ran_ne s x (by decide) 0) d

theorem domOn_setThr (s : State) (n : Nat) (y : Thread) (d : Nat) : (s.setThr n y).domOn d = s.domOn d :=
  domOn_congr (by rw [reg, setThr_regs]; rfl) d

end Sys2Proof.Machine.Domains
end

section
/-!
PROOFS. Rails: reserving, filling, sending, reading and granting (R394, R395, R425).
-/

namespace Sys2Proof.Machine.Rails
open State Issue Domains

variable {s : State} {x : Slot} {rd rs : RegNo}

/-- Nothing differs but Rail record `i`, which is `r`. -/
def OnlyRail (u t : State) (i : Nat) (r : Rail) : Prop :=
  t = { u with rails := t.rails } ∧ ∀ i', SMap.get {} t.rails i' = if i' = i then r else SMap.get {} u.rails i'

theorem onlyRail_setRail (u : State) (p k : Nat) (r : Rail) : OnlyRail u (u.setRail p k r) (256 * p + k) r :=
  ⟨rfl, fun _ => SMap.get_put ..⟩

@[simp] theorem rail_ran (p k : Nat) : (s.ran x).rail p k = s.rail p k := by
  rw [Scratchpad.ran_frame]
  rfl

theorem heldRail_ran : ((s.ran x).thr x.thr.val).rail = (s.thr x.thr.val).rail := by rw [thr_ran]

theorem thr_setRail (p k n : Nat) (r : Rail) : (s.setRail p k r).thr n = s.thr n := rfl

/-- A Rail that a writer may reserve at once: nobody holds it or waits for it, and it has a free place. -/
def Open (r : Rail) : Prop := r.owner = none ∧ r.msgs.length < 16 ∧ r.waiters = []

theorem open_iff (r : Rail) : (r.free && r.waiters.isEmpty) = true ↔ Open r := by
  simp [Open, Rail.free, and_assoc]

/-! ### RSV -/

section
variable (issues : s.Issues x [rs] false) (exists_ : (s.g x.thr.val rs).toNat < 256) (holds : (s.thr x.thr.val).rail = none)
include issues exists_ holds

theorem rsv_reserves (ready : Open (s.rail (x.thr.val / 192) (s.g x.thr.val rs).toNat)) :
    ∃ t u : State, exec (.rsv x rs) s = .next t ∧ OnlyRail (s.ran x) u (256 * (x.thr.val / 192) + (s.g x.thr.val rs).toNat)
        { s.rail (x.thr.val / 192) (s.g x.thr.val rs).toNat with owner := some x.thr.val } ∧ u.OnlyThread t x.thr.val ∧
      t.thr x.thr.val = { (s.ran x).thr x.thr.val with rail := some (s.g x.thr.val rs).toNat, partMsg := [] } := by
  refine ⟨_, _, exec_of_ok rfl issues ?_, onlyRail_setRail .., onlyThread_setThr .., thr_setThr ..⟩
  rw [g_ran]
  dsimp only
  rw [heldRail_ran, rail_ran]
  exact (if_neg (by omega)).trans ((if_neg (by simp [holds])).trans (if_pos ((open_iff _).2 ready)))

theorem rsv_waits (busy : ¬Open (s.rail (x.thr.val / 192) (s.g x.thr.val rs).toNat)) :
    ∃ t u : State, exec (.rsv x rs) s = .next t ∧ OnlyRail (s.ran x) u (256 * (x.thr.val / 192) + (s.g x.thr.val rs).toNat)
        { s.rail (x.thr.val / 192) (s.g x.thr.val rs).toNat with
          waiters := (s.rail (x.thr.val / 192) (s.g x.thr.val rs).toNat).waiters ++ [x.thr.val] } ∧ u.OnlyThread t x.thr.val ∧
      t.thr x.thr.val = { (s.ran x).thr x.thr.val with state := .waiting, implicit := some (.rail (s.g x.thr.val rs).toNat) } := by
  refine ⟨_, _, exec_of_ok rfl issues ?_, onlyRail_setRail .., onlyThread_setThr .., thr_setThr ..⟩
  rw [g_ran]
  dsimp only
  rw [heldRail_ran, rail_ran]
  exact (if_neg (by omega)).trans ((if_neg (by simp [holds])).trans (if_neg (mt (open_iff _).1 busy)))

end

theorem rsv_arg (beyond : 256 ≤ (s.g x.thr.val rs).toNat) : s.Raises x [rs] false (.rsv x rs) .arg :=
  raises_of_exc rfl (by rw [g_ran]; exact if_pos beyond)

theorem rsv_rail (exists_ : (s.g x.thr.val rs).toNat < 256) (holds : (s.thr x.thr.val).rail ≠ none) :
    s.Raises x [rs] false (.rsv x rs) .rail :=
  raises_of_exc rfl (by
    rw [g_ran, heldRail_ran]
    exact (if_neg (by omega)).trans (if_pos (Option.isSome_iff_ne_none.2 holds)))

/-! ### PUT and RSEND -/

theorem put_adds (issues : s.Issues x [rs] false) (holds : (s.thr x.thr.val).rail ≠ none)
    (room : ((s.ran x).thr x.thr.val).partMsg.length < 8) :
    ∃ t, exec (.put x rs) s = .next t ∧ (s.ran x).OnlyThread t x.thr.val ∧
      t.thr x.thr.val = { (s.ran x).thr x.thr.val with partMsg := ((s.ran x).thr x.thr.val).partMsg ++ [s.g x.thr.val rs] } := by
  refine ⟨_, exec_of_ok rfl issues ?_, onlyThread_setThr .., thr_setThr ..⟩
  rw [g_ran]
  refine if_neg ?_
  rw [heldRail_ran]
  simpa [holds] using room

theorem put_rail (fails : (s.thr x.thr.val).rail = none ∨ 8 ≤ ((s.ran x).thr x.thr.val).partMsg.length) :
    s.Raises x [rs] false (.put x rs) .rail := by
  refine raises_of_exc rfl (if_pos ?_)
  rw [heldRail_ran]
  simpa using fails

theorem rsend_rail (holds : (s.thr x.thr.val).rail = none) : s.Raises x [] false (.rsend x) .rail :=
  raises_of_exc rfl (by dsimp only; rw [heldRail_ran, holds])

/-- What a send leaves of the Rail: released, with the message if a word was put. -/
def sent (r : Rail) (msg : List Word) : Rail :=
  if msg = [] then { r with owner := none } else { r with owner := none, msgs := r.msgs ++ [msg] }

theorem sent_eq (r : Rail) (msg : List Word) :
    { r with owner := none, msgs := if msg.isEmpty then r.msgs else r.msgs ++ [msg] } = sent r msg := by
  cases msg <;> rfl

theorem rsend_sends {i : Nat} (holds : (s.thr x.thr.val).rail = some i) (issues : s.Issues x [] false)
    (on : ∀ d, (s.rail (x.thr.val / 192) i).reader = some d → s.domOn (16 + d) = true) :
    ∃ t u : State, exec (.rsend x) s = .next t ∧ OnlyRail (s.ran x) u (256 * (x.thr.val / 192) + i)
        (sent (s.rail (x.thr.val / 192) i) ((s.ran x).thr x.thr.val).partMsg) ∧
      u.OnlyThread t x.thr.val ∧ t.thr x.thr.val = { (s.ran x).thr x.thr.val with rail := none, partMsg := [] } := by
  refine ⟨((s.ran x).setRail (x.thr.val / 192) i (sent (s.rail (x.thr.val / 192) i) ((s.ran x).thr x.thr.val).partMsg)).setThr x.thr.val
    { (s.ran x).thr x.thr.val with rail := none, partMsg := [] }, _, exec_of_ok rfl issues ?_, onlyRail_setRail .., onlyThread_setThr ..,
    thr_setThr ..⟩
  dsimp only
  rw [heldRail_ran, holds]
  dsimp only
  rw [rail_ran, sent_eq]
  split
  · next d reads =>
    refine congrArg _ (ite_eq_left_iff.2 fun _ => ?_)
    exact sourceWake_on _ d ((domOn_setThr ..).trans ((domOn_ran s x (16 + d)).trans (on d reads)))
  · rfl

/-! ### RRD -/

theorem rrd_arg (beyond : 256 ≤ (s.g x.thr.val rs).toNat) : s.Raises x [rs] false (.rrd x rd rs) .arg :=
  raises_of_exc rfl (by rw [g_ran]; exact if_pos beyond)

theorem rrd_notBound (exists_ : (s.g x.thr.val rs).toNat < 256)
    (other : (s.rail (x.thr.val / 192) (s.g x.thr.val rs).toNat).reader ≠ some (x.thr.val / 64)) :
    s.Raises x [rs] false (.rrd x rd rs) .notBound :=
  raises_of_exc rfl (by rw [g_ran]; dsimp only; rw [rail_ran]; exact (if_neg (by omega)).trans (if_pos other))

section
variable (issues : s.Issues x [rs] false) (exists_ : (s.g x.thr.val rs).toNat < 256)
  (reads : (s.rail (x.thr.val / 192) (s.g x.thr.val rs).toNat).reader = some (x.thr.val / 64))
include issues exists_ reads

theorem rrd_takes {m : List Word} {rest : List (List Word)}
    (holds : (s.rail (x.thr.val / 192) (s.g x.thr.val rs).toNat).msgs = m :: rest) :
    ∃ t u v : State, exec (.rrd x rd rs) s = .next t ∧ OnlyRail (s.ran x) u (256 * (x.thr.val / 192) + (s.g x.thr.val rs).toNat)
        { s.rail (x.thr.val / 192) (s.g x.thr.val rs).toNat with msgs := rest } ∧ u.OnlyThread v x.thr.val ∧
      v.thr x.thr.val = { (s.ran x).thr x.thr.val with claims := ((s.ran x).thr x.thr.val).claims &&& ~~~2, railMsg := m } ∧
      v.Wrote x.thr.val rd (BitVec.ofNat 64 m.length) t := by
  refine ⟨_, _, _, exec_of_ok rfl issues ?_, onlyRail_setRail .., onlyThread_setThr .., thr_setThr .., wrote_setGreg ..⟩
  rw [g_ran]
  dsimp only
  rw [rail_ran]
  rw [if_neg (by omega), if_neg (not_not.2 reads), holds]
  rfl

theorem rrd_none (empty : (s.rail (x.thr.val / 192) (s.g x.thr.val rs).toNat).msgs = []) :
    ∃ t : State, exec (.rrd x rd rs) s = .next t ∧ (rd ≠ 0 → t.g x.thr.val rd = 0xFFFFFFFFFFFFFFFF) ∧ t.rails = s.rails := by
  obtain ⟨t, ran, ⟨only, -⟩, -, writes⟩ := exec_of_put (c := .rrd x rd rs) (rd := rd) (w := noneVal) rfl issues (by
    rw [g_ran]
    dsimp only
    rw [rail_ran]
    rw [if_neg (by omega), if_neg (not_not.2 reads), empty])
  refine ⟨t, ran, fun named => by rw [writes, if_pos ⟨rfl, named⟩]; rfl, ?_⟩
  rw [only, setThr_frame, Scratchpad.ran_frame]

end

/-! ### RAIL_GRANT -/

theorem grant_first {p : Pier} {k : Byte} {w : Nat} {rest : List Nat} (line : (s.rail p.val k.toNat).waiters = w :: rest)
    (nobody : (s.rail p.val k.toNat).owner = none) (room : (s.rail p.val k.toNat).msgs.length < 16) :
    ∃ t u : State, exec (.railGrant p k) s = .next t ∧
      OnlyRail s u (256 * p.val + k.toNat) { s.rail p.val k.toNat with owner := some w, waiters := rest } ∧ u.OnlyThread t w ∧
      (t.thr w).rail = some k.toNat ∧ (t.thr w).implicit = none ∧
      ((s.thr w).state = .waiting → (t.thr w).state = .running) ∧ ((s.thr w).state = .halted → (t.thr w).state = .halted) := by
  have free : (s.rail p.val k.toNat).free = true := by simp [Rail.free, nobody, room]
  refine ⟨_, _, ?_, onlyRail_setRail .., onlyThread_setThr _ w { s.thr w with
    implicit := none, rail := some k.toNat, partMsg := [], state := if (s.thr w).state = .waiting then .running else (s.thr w).state,
    prior := if (s.thr w).prior = .waiting then .running else (s.thr w).prior }, ?_, ?_, ?_, ?_⟩
  · show execRailGrant p k s = _
    unfold execRailGrant
    dsimp only
    rw [line]
    dsimp only
    rw [free]
    rfl
  · rw [thr_setThr]
  · rw [thr_setThr]
  · intro waits
    rw [thr_setThr]
    exact if_pos waits
  · intro halted
    rw [thr_setThr]
    exact (if_neg (by rw [halted]; decide)).trans halted

/-- Settles O19: each of the Rail instructions by the branches of its effect. -/
theorem railMessages : Obligations.RailMessages := by
  intro s x rd rs p k n y q j r only
  exact ⟨fun issues exists_ holds nobody room line => rsv_reserves issues exists_ holds ⟨nobody, room, line⟩,
    fun issues exists_ holds busy => rsv_waits issues exists_ holds fun ⟨nobody, room, line⟩ => by
      rcases busy with held | full | waiting
      · exact held nobody
      · exact absurd room (not_lt.2 full)
      · exact waiting line,
    fun beyond => ⟨rsv_arg beyond, rrd_arg beyond⟩, rsv_rail, put_adds, put_rail,
    fun i holds _ issues on => rsend_sends holds issues on, rsend_rail,
    fun m rest issues exists_ reads holds => rrd_takes issues exists_ reads holds, rrd_none, rrd_notBound,
    fun w rest line nobody room => grant_first line nobody room⟩

end Sys2Proof.Machine.Rails
end

section
/-!
PROOFS. What signals leave alone: registers, held values, vectors and what leaves the device (R77, R533, R454–R458).
-/

namespace Sys2Proof.Machine.Signals
open State

/-- Nothing differs but registers, values that wait for their Apply class, and what an MSI-X vector changes. -/
def SignalsOnly (s t : State) : Prop :=
  t = { s with regs := t.regs, shadow := t.shadow, msix := t.msix, msixWait := t.msixWait, out := t.out }

variable (s : State)

theorem signals_refl : SignalsOnly s s := rfl

theorem SignalsOnly.trans {s t u : State} (first : SignalsOnly s t) (then_ : SignalsOnly t u) : SignalsOnly s u := by
  refine Eq.trans then_ ?_
  rw [first]

theorem SignalsOnly.thr {s t : State} (h : SignalsOnly s t) (n : Nat) : t.thr n = s.thr n := by
  rw [h]
  rfl

theorem signals_setReg (r : Reg) (i : Nat) (w : Word) : SignalsOnly s (s.setReg r i w) := rfl
theorem signals_setFld (f : Fld) (i v : Nat) : SignalsOnly s (s.setFld f i v) := rfl
theorem signals_bump (f : Fld) (i k : Nat) : SignalsOnly s (s.bump f i k) := rfl
theorem signals_emit (o : Out) : SignalsOnly s (s.emit o) := rfl
theorem signals_epoch (b : Boundary) (r : Reg) (i : Nat) : SignalsOnly s (s.epoch b r i) := rfl
theorem signals_endCmd (f g : Fld) (i c : Nat) (q : Seq) : SignalsOnly s (s.endCmd f g i c q) := rfl

theorem signals_setEvt (evt en vec : Reg) (i b : Nat) : SignalsOnly s (s.setEvt evt en vec i b) := by
  unfold SignalsOnly
  rw [setEvt_frame]

theorem signals_mfVector (v : Nat) : SignalsOnly s (s.mfVector v) := by
  unfold SignalsOnly
  rw [mfVector_frame]

theorem signals_msixSend (f : Fn) (v : Nat) : SignalsOnly s (s.msixSend f v) := by
  unfold SignalsOnly
  rw [msixSend_frame]

theorem signals_startPulse : SignalsOnly s s.startPulse := rfl

/-- The record of a captured fault event and its event bit. -/
theorem signals_record (i : Nat) (e : FaultEv) : SignalsOnly s (TimeUnit.record s i e) :=
  SignalsOnly.trans (t := ((((s.setReg .FCU_DETAIL i e.detail).setReg .FCU_TIME i s.wide).setFld F.FCU_CAP_SOURCE i e.source.toNat).setFld
    F.FCU_CAP_CODE i e.code.toNat).setFld F.FCU_CAP_VALID i 1) rfl (signals_setEvt ..)

theorem signals_capture (c : FaultClass) (e : FaultEv) : SignalsOnly s (s.capture c e) := by
  have recorded := (signals_bump s F.FCU_CNT_COUNT (classIdx c) 1).trans (signals_record _ (classIdx c) e)
  unfold capture
  dsimp only
  split
  · rfl
  · cases c
    case ce => exact recorded
    all_goals exact recorded.trans (signals_startPulse _)

theorem signals_raise (source code detail : Nat) : SignalsOnly s (s.raise source code detail) := by
  unfold raise faultEv
  split
  · rfl
  · split
    · exact signals_capture ..
    · rfl

theorem signals_storeUe (t l kind code : Nat) : SignalsOnly s (s.storeUe t l kind code) := by
  unfold storeUe
  dsimp only
  split
  · exact (signals_bump ..).trans (signals_raise ..)
  · exact ((signals_bump ..).trans (signals_setReg ..)).trans (signals_raise ..)

theorem signals_storeCe (t : Nat) : SignalsOnly s (s.storeCe t) := (signals_bump ..).trans (signals_raise ..)

theorem signals_spmCap (p : Nat) (w : Word) : SignalsOnly s (s.spmCap p w) := by
  unfold spmCap
  split
  · exact signals_refl s
  · exact signals_setReg ..

theorem signals_spmRefuse (p off : Nat) (a : BitVec 16) (m c : Nat) (w : Bool) : SignalsOnly s (s.spmRefuse p off a m c w) :=
  ((signals_bump ..).trans (signals_spmCap ..)).trans (signals_setEvt ..)

theorem signals_spmUe (p off : Nat) (a : BitVec 16) (m : Nat) : SignalsOnly s (s.spmUe p off a m) :=
  (((signals_bump ..).trans (signals_spmCap ..)).trans (signals_setEvt ..)).trans (signals_raise ..)

end Sys2Proof.Machine.Signals
end

section
/-!
PROOFS. Mailbox words of a Truss, and the items that TAKE takes (R179, R387, R388, R406, R417, R420).
-/

namespace Sys2Proof.Machine.Boxes
open State Issue Signals

variable {s : State} {x : Slot} {rd rs rt : RegNo}

/-! ### Registers of a thread whose record changes elsewhere -/

theorem g_congr {t : State} {n : Nat} (kept : (t.thr n).regs = (s.thr n).regs) (r : RegNo) : t.g n r = s.g n r := by
  unfold g greg
  rw [kept]

/-! ### MBXR -/

theorem mail_ran (c : Nat) : (s.ran x).mail c = s.mail c := by
  rw [Scratchpad.ran_frame]
  rfl

/-- The map bit of an empty channel is cleared, and nothing else changes. -/
theorem fullMap_empty {c : Nat} (empty : (s.mail c).outFull = false) : s.fullMap c = { s with regs := (s.fullMap c).regs } := by
  unfold fullMap
  rw [empty]
  dsimp only
  rw [if_neg (by simp)]
  split <;> rfl

/-- The state before MBXR's register write: the word taken out of the channel, and in the window. -/
def wordTaken (s : State) (n l : Nat) : State :=
  ((s.setMail l { s.mail l with outWord := 0, outFull := false }).fullMap l).setThr n { s.thr n with
    claims := (s.thr n).claims &&& ~~~8, win := { (s.thr n).win with mbxWord := (s.mail l).outWord } }

theorem wordTaken_frame (n l : Nat) : wordTaken s n l = { s with
    regs := (wordTaken s n l).regs, threads := (wordTaken s n l).threads, stallDone := (wordTaken s n l).stallDone,
    mbx := SMap.put {} s.mbx l { s.mail l with outWord := 0, outFull := false } } := by
  unfold wordTaken
  rw [setThr_frame, fullMap_empty (by simp [mail, setMail])]
  rfl

theorem mbxr_takes {l : Nat} {rest : List Nat} (issues : s.Issues x [] false) (waits : s.mbxWaiting (x.thr.val / 64) = l :: rest) :
    ∃ t, exec (.mbxr x rd) s = .next t ∧ (wordTaken (s.ran x) x.thr.val l).Wrote x.thr.val rd (BitVec.ofNat 64 l) t := by
  refine exec_of_put rfl issues ?_
  dsimp only
  rw [mbxWaiting_ran, waits]
  rfl

theorem mail_wordTaken (n l c : Nat) :
    (wordTaken s n l).mail c = if c = l then { s.mail l with outWord := 0, outFull := false } else s.mail c := by
  rw [mail, wordTaken_frame]
  exact SMap.get_put ..

theorem thr_wordTaken (n l : Nat) : (wordTaken s n l).thr n = { s.thr n with
    claims := (s.thr n).claims &&& ~~~8, win := { (s.thr n).win with mbxWord := (s.mail l).outWord } } := thr_setThr ..

theorem g_wordTaken (n l : Nat) (r : RegNo) : (wordTaken s n l).g n r = s.g n r := by
  unfold g greg
  rw [thr_wordTaken]

/-- What MBXR leaves. -/
theorem mbxr_leaves {l : Nat} {rest : List Nat} (issues : s.Issues x [] false) (waits : s.mbxWaiting (x.thr.val / 64) = l :: rest) :
    ∃ t : State, exec (.mbxr x rd) s = .next t ∧
      t = { s with regs := t.regs, threads := t.threads, stallDone := t.stallDone, mbx := t.mbx } ∧
      (t.mail l).outFull = false ∧ (t.mail l).inFull = (s.mail l).inFull ∧ (∀ d, d ≠ l → t.mail d = s.mail d) ∧
      (t.thr x.thr.val).win.mbxWord = (s.mail l).outWord ∧
      (t.thr x.thr.val).claims = ((s.ran x).thr x.thr.val).claims &&& ~~~8 ∧
      ∀ r : RegNo, t.g x.thr.val r = if r = rd ∧ rd ≠ 0 then BitVec.ofNat 64 l else s.g x.thr.val r := by
  obtain ⟨t, ran, ⟨only, -⟩, own, reads⟩ := mbxr_takes (rd := rd) issues waits
  have boxes (c : Nat) : t.mail c = (wordTaken (s.ran x) x.thr.val l).mail c := by
    have kept : t.mbx = (wordTaken (s.ran x) x.thr.val l).mbx := by rw [only]
    unfold mail
    rw [kept]
  refine ⟨t, ran, ?_, ?_, ?_, fun d other => ?_, ?_, ?_, fun r => ?_⟩
  · rw [only, wordTaken_frame, Scratchpad.ran_frame]
  · rw [boxes, mail_wordTaken, if_pos rfl]
  · rw [boxes, mail_wordTaken, if_pos rfl, mail_ran]
  · rw [boxes, mail_wordTaken, if_neg other, mail_ran]
  · rw [own, thr_wordTaken, mail_ran]
  · rw [own, thr_wordTaken]
  · rw [reads, g_wordTaken, g_ran]

theorem mbxr_none (issues : s.Issues x [] false) (empty : s.mbxWaiting (x.thr.val / 64) = []) :
    ∃ t : State, exec (.mbxr x rd) s = .next t ∧ t.mbx = s.mbx ∧
      ∀ r : RegNo, t.g x.thr.val r = if r = rd ∧ rd ≠ 0 then 0xFFFFFFFFFFFFFFFF else s.g x.thr.val r := by
  obtain ⟨t, ran, ⟨only, -⟩, -, reads⟩ := exec_of_put (c := .mbxr x rd) (rd := rd) (w := noneVal) rfl issues (by
    dsimp only
    rw [mbxWaiting_ran, empty])
  refine ⟨t, ran, ?_, fun r => ?_⟩
  · rw [only, setThr_frame, Scratchpad.ran_frame]
  · rw [reads, g, greg, thr_setThr]
    exact congrArg _ (g_ran ..)

/-! ### MBXW -/

theorem mbxTruss_ran (c : Nat) : (s.ran x).mbxTruss c = s.mbxTruss c := by
  unfold mbxTruss
  rw [flag_ran_ne s x (by decide), fld_ran_ne s x (by decide)]

theorem mbxw_arg (beyond : 4096 ≤ (s.g x.thr.val rs).toNat) : s.Raises x [rs, rt] false (.mbxw x rd rs rt) .arg :=
  raises_of_exc rfl (by rw [g_ran]; exact if_pos beyond)

theorem mbxw_notBound (inside : (s.g x.thr.val rs).toNat < 4096) (other : s.mbxTruss (s.g x.thr.val rs).toNat ≠ some (x.thr.val / 64)) :
    s.Raises x [rs, rt] false (.mbxw x rd rs rt) .notBound :=
  raises_of_exc rfl (by
    rw [g_ran]
    dsimp only
    rw [if_neg (by omega), mbxTruss_ran, if_pos other])

theorem mbxw_full (inside : (s.g x.thr.val rs).toNat < 4096) (own : s.mbxTruss (s.g x.thr.val rs).toNat = some (x.thr.val / 64))
    (full : (s.mail (s.g x.thr.val rs).toNat).inFull = true) : s.Computes x [rs, rt] (.mbxw x rd rs rt) rd 1 :=
  s.computes_put rfl (by
    rw [g_ran]
    dsimp only
    rw [if_neg (by omega), mbxTruss_ran, if_neg (not_not.2 own), mail_ran, full]
    rfl)

/-- A stored inbound word changes its channel, and signals. -/
theorem signals_storeIn (c : Nat) (w : Word) :
    SignalsOnly (s.setMail c { s.mail c with inWord := w, inFull := true }) (s.storeIn c w) := by
  unfold storeIn
  dsimp only
  generalize (if c < 4096 then s.spanFn c else _) = fn
  split
  · split
    · exact signals_msixSend ..
    · exact signals_refl _
  · exact signals_refl _

theorem mbxw_stores (inside : (s.g x.thr.val rs).toNat < 4096) (own : s.mbxTruss (s.g x.thr.val rs).toNat = some (x.thr.val / 64))
    (empty : (s.mail (s.g x.thr.val rs).toNat).inFull = false) (issues : s.Issues x [rs, rt] false) :
    ∃ t : State, exec (.mbxw x rd rs rt) s = .next t ∧ (t.mail (s.g x.thr.val rs).toNat).inFull = true ∧
      (t.mail (s.g x.thr.val rs).toNat).inWord = s.g x.thr.val rt ∧ (∀ d, d ≠ (s.g x.thr.val rs).toNat → t.mail d = s.mail d) ∧
      ∀ r : RegNo, t.g x.thr.val r = if r = rd ∧ rd ≠ 0 then 0 else s.g x.thr.val r := by
  obtain ⟨t, ran, ⟨only, -⟩, -, reads⟩ := exec_of_put (c := .mbxw x rd rs rt) (rd := rd) (w := 0) rfl issues (by
    rw [g_ran, g_ran]
    dsimp only
    rw [if_neg (by omega), mbxTruss_ran, if_neg (not_not.2 own), mail_ran, empty, if_neg Bool.false_ne_true])
  have stored := signals_storeIn (s := s.ran x) (s.g x.thr.val rs).toNat (s.g x.thr.val rt)
  have boxes (c : Nat) : t.mail c = if c = (s.g x.thr.val rs).toNat
      then { s.mail c with inWord := s.g x.thr.val rt, inFull := true } else s.mail c := by
    rw [mail, only, stored]
    refine (SMap.get_put ..).trans ?_
    split
    · next same => rw [same, mail_ran]
    · exact mail_ran c
  refine ⟨t, ran, ?_, ?_, fun d other => ?_, fun r => ?_⟩
  · rw [boxes, if_pos rfl]
  · rw [boxes, if_pos rfl]
  · rw [boxes, if_neg other]
  · have same := stored.thr x.thr.val
    rw [reads, g_congr (congrArg Thread.regs same)]
    exact congrArg _ (g_ran ..)

/-! ### TAKE -/

theorem eq_ran (k : Nat) : (s.ran x).eq k = s.eq k := by
  rw [Scratchpad.ran_frame]
  rfl

theorem held_ran : (s.ran x).held = s.held := by rw [Scratchpad.ran_frame]

/-- The bytes of a list as a map from offset 0. -/
theorem get_bytesMap (n : Nat) (bs : List Byte) {i : Nat} (inside : i < bs.length) (small : i < n) :
    SMap.get 0 (bytesMap n bs) i = bs.getD i 0 := by
  have pairs : (List.range n).zip bs = (List.range (min n bs.length)).map fun i => (0 + i, bs.getD i 0) := by
    refine List.ext_getElem (by simp) fun i low high => ?_
    have below : i < bs.length := by simp at low; omega
    simp [below]
  have puts : bytesMap n bs = Window.putHead 0 bs [] (min n bs.length) := by
    unfold bytesMap Window.putHead
    rw [pairs, List.foldl_map]
  rw [puts, Window.get_putHead, if_pos ⟨Nat.zero_le _, by omega⟩, Nat.sub_zero]

/-- A thread's window after TAKE found nothing. -/
def emptyWindow (y : Thread) : Thread :=
  { y with claims := y.claims &&& ~~~(4 : BitVec 11), win := { y.win with item := setBits y.win.item 0 2 0 } }

theorem takeItem_none {n : Nat} (none : s.eqHead (n / 64) = none) :
    s.takeItem n rd = (s.setThr n (emptyWindow (s.thr n))).put n rd noneVal := by
  unfold takeItem
  dsimp only
  rw [none]
  rfl

/-- The state before TAKE's register write, where it has taken a packet. -/
def packetTaken (s : State) (n : Nat) (f : Pkt) : State :=
  let t := (s.setEq (n / 64) (s.eq (n / 64)).tail).setThr n (winPacket { s.thr n with claims := (s.thr n).claims &&& ~~~(4 : BitVec 11) } f)
  match f.head with
  | some h => t.setRec h { t.bufRec h with owner := ownerThread n }
  | none => t

theorem takeItem_packet {n : Nat} {f : Pkt} (head : s.eqHead (n / 64) = some (.packet f)) :
    s.takeItem n rd = (packetTaken s n f).put n rd 1 := by
  unfold takeItem
  dsimp only
  rw [head]
  rfl

/-- The state before TAKE's register write, where it has taken an entry. -/
def entryTaken (s : State) (n : Nat) (q : QueueId) (e : Entry) (span : Nat) (time : Word) : State :=
  let t := (s.setEq (n / 64) (s.eq (n / 64)).tail).setThr n
    (winEntry { s.thr n with claims := (s.thr n).claims &&& ~~~(4 : BitVec 11) } q.val e span time)
  { t with held := t.held ++ [HeldEntry.mk (n / 64) n q e.cell] }

theorem takeItem_entry {n : Nat} {q : QueueId} {e : Entry} {span : Nat} {time : Word}
    (head : s.eqHead (n / 64) = some (.entry q e span time)) : s.takeItem n rd = (entryTaken s n q e span time).put n rd 2 := by
  unfold takeItem
  dsimp only
  rw [head]
  rfl

theorem eqHead_empty {k : Nat} (empty : s.eq k = []) : s.eqHead k = none := by
  unfold eqHead
  rw [empty]
  rfl

theorem eqHead_packet {k : Nat} {f : Pkt} {rest : List EqItem} (first : s.eq k = .packet f :: rest) : s.eqHead k = some (.packet f) := by
  unfold eqHead
  rw [first]
  rfl

theorem eqHead_entry {k : Nat} {q : QueueId} {e : Entry} {span : Nat} {time : Word} {rest : List EqItem}
    (first : s.eq k = .entry q e span time :: rest) (room : (s.held.filter fun h => h.truss == k).length < 1024) :
    s.eqHead k = some (.entry q e span time) := by
  unfold eqHead
  rw [first]
  exact if_neg (not_le.2 room)

theorem eqHead_ran (k : Nat) : (s.ran x).eqHead k = s.eqHead k := by
  unfold eqHead
  rw [eq_ran, held_ran]

/-- TAKE, whose item's place is sound. -/
theorem take_puts {t : State} {w : Word} (issues : s.Issues x [] false) (sound : x.word = .ok)
    (takes : (s.ran x).takeItem x.thr.val rd = t.put x.thr.val rd w) :
    ∃ u, exec (.take x rd) s = .next u ∧ t.Wrote x.thr.val rd w u := by
  refine exec_of_put rfl issues ?_
  rw [sound]
  split
  · next bad => exact absurd bad (by decide)
  · next bad => exact absurd bad (by decide)
  · exact takes

/-- Registers after a TAKE: `w` in rd, the others as before. -/
def Gives (s : State) (x : Slot) (rd : RegNo) (t : State) (w : Word) : Prop :=
  ∀ r : RegNo, t.g x.thr.val r = if r = rd ∧ rd ≠ 0 then w else s.g x.thr.val r

theorem gives_of_wrote {t u : State} {w : Word} (wrote : t.Wrote x.thr.val rd w u)
    (kept : (t.thr x.thr.val).regs = ((s.ran x).thr x.thr.val).regs) : Gives s x rd u w := by
  obtain ⟨-, -, reads⟩ := wrote
  intro r
  rw [reads, g_congr kept, g_ran]

theorem take_none (issues : s.Issues x [] false) (sound : x.word = .ok) (empty : s.eq (x.thr.val / 64) = []) :
    ∃ t : State, exec (.take x rd) s = .next t ∧ Gives s x rd t 0xFFFFFFFFFFFFFFFF ∧ t.eqs = s.eqs ∧ t.held = s.held ∧
      getBits (t.thr x.thr.val).win.item 0 2 = 0 := by
  have none : (s.ran x).eqHead (x.thr.val / 64) = none := (eqHead_ran _).trans (eqHead_empty empty)
  obtain ⟨t, ran, wrote⟩ := take_puts (rd := rd) issues sound (takeItem_none none)
  have gives := gives_of_wrote wrote (by rw [thr_setThr]; rfl)
  obtain ⟨⟨only, -⟩, own, -⟩ := wrote
  refine ⟨t, ran, gives, ?_, ?_, ?_⟩
  · rw [only, setThr_frame, Scratchpad.ran_frame]
  · rw [only, setThr_frame, Scratchpad.ran_frame]
  · rw [own, thr_setThr]
    exact getBits_setBits_self _ 0 2 0 (by decide)

theorem winPacket_head (y : Thread) (f : Pkt) : (winPacket y f).head = bytesMap 512 (f.bytes ++ f.fcs) := by
  simp only [winPacket]

theorem packetTaken_thr (n : Nat) (f : Pkt) :
    (packetTaken s n f).thr n = winPacket { s.thr n with claims := (s.thr n).claims &&& ~~~(4 : BitVec 11) } f := by
  unfold packetTaken
  split <;> exact thr_setThr ..

theorem packetTaken_frame (n : Nat) (f : Pkt) : packetTaken s n f = { s.setEq (n / 64) (s.eq (n / 64)).tail with
    threads := (packetTaken s n f).threads, stallDone := (packetTaken s n f).stallDone, recs := (packetTaken s n f).recs } := by
  unfold packetTaken
  dsimp only
  split
  · rw [setThr_frame]
    rfl
  · rw [setThr_frame]

theorem packetTaken_rec {n : Nat} {f : Pkt} {h : Nat} (head : f.head = some h) (i : Nat) :
    (packetTaken s n f).bufRec i = if i = h then { s.bufRec h with owner := ownerThread n } else s.bufRec i := by
  unfold packetTaken
  rw [head, setThr_frame]
  exact SMap.get_put ..

theorem take_packet {f : Pkt} {rest : List EqItem} (issues : s.Issues x [] false) (sound : x.word = .ok)
    (first : s.eq (x.thr.val / 64) = .packet f :: rest) :
    ∃ t : State, exec (.take x rd) s = .next t ∧ Gives s x rd t 1 ∧ t.eq (x.thr.val / 64) = rest ∧
      getBits (t.thr x.thr.val).win.item 0 2 = 1 ∧ (t.thr x.thr.val).win.time = f.time ∧ (t.thr x.thr.val).win.parse = f.parse ∧
      (∀ i, i < f.bytes.length → i < 512 → SMap.get 0 (t.thr x.thr.val).head i = f.bytes.getD i 0) ∧
      (∀ h, f.head = some h → (t.bufRec h).owner = ownerThread x.thr.val ∧ ∀ i, i ≠ h → t.bufRec i = s.bufRec i) := by
  have head : (s.ran x).eqHead (x.thr.val / 64) = some (.packet f) := (eqHead_ran _).trans (eqHead_packet first)
  obtain ⟨t, ran, wrote⟩ := take_puts (rd := rd) issues sound (takeItem_packet head)
  have gives := gives_of_wrote wrote (by rw [packetTaken_thr]; rfl)
  obtain ⟨⟨only, -⟩, own, -⟩ := wrote
  rw [packetTaken_thr] at own
  refine ⟨t, ran, gives, ?_, ?_, ?_, ?_, fun i inside small => ?_, fun h chain => ?_⟩
  · rw [eq, only, packetTaken_frame]
    refine (eq_setEq ..).trans ?_
    rw [eq_ran, first]
    rfl
  · rw [own]
    show (BitVec.ofNat 64 (1 + 2 ^ 4 * f.cause + 2 ^ 8 * f.mac + 2 ^ 12 * b2n f.trunc + 2 ^ 13 * b2n f.decrypted + 2 ^ 16 * f.len +
      2 ^ 32 * f.hash.toNat) >>> 0).toNat % 2 ^ 2 = 1
    rw [BitVec.ushiftRight_zero, BitVec.toNat_ofNat]
    omega
  · rw [own]
    rfl
  · rw [own]
    rfl
  · rw [own]
    rw [winPacket_head, get_bytesMap _ _ (by simp; omega) small]
    exact List.getD_append _ _ _ _ inside
  · have recs (i : Nat) : t.bufRec i = (packetTaken (s.ran x) x.thr.val f).bufRec i := by
      have kept : t.recs = (packetTaken (s.ran x) x.thr.val f).recs := by rw [only]
      unfold bufRec
      rw [kept]
    refine ⟨?_, fun i other => ?_⟩
    · rw [recs, packetTaken_rec chain, if_pos rfl]
    · rw [recs, packetTaken_rec chain, if_neg other, Scratchpad.ran_frame]
      rfl

theorem entryTaken_frame (n : Nat) (q : QueueId) (e : Entry) (span : Nat) (time : Word) :
    (entryTaken s n q e span time).eqs = (s.setEq (n / 64) (s.eq (n / 64)).tail).eqs ∧
      (entryTaken s n q e span time).held = s.held ++ [HeldEntry.mk (n / 64) n q e.cell] := by
  unfold entryTaken
  rw [setThr_frame]
  exact ⟨rfl, rfl⟩

theorem take_entry {q : QueueId} {e : Entry} {span : Nat} {time : Word} {rest : List EqItem} (issues : s.Issues x [] false)
    (sound : x.word = .ok) (first : s.eq (x.thr.val / 64) = .entry q e span time :: rest)
    (room : (s.held.filter fun h => h.truss == x.thr.val / 64).length < 1024) :
    ∃ t : State, exec (.take x rd) s = .next t ∧ Gives s x rd t 2 ∧ t.eq (x.thr.val / 64) = rest ∧
      getBits (t.thr x.thr.val).win.item 0 2 = 2 ∧ (t.thr x.thr.val).win.time = time ∧
      t.held = s.held ++ [HeldEntry.mk (x.thr.val / 64) x.thr.val q e.cell] := by
  have head : (s.ran x).eqHead (x.thr.val / 64) = some (.entry q e span time) := (eqHead_ran _).trans (eqHead_entry first room)
  have taken : (entryTaken (s.ran x) x.thr.val q e span time).thr x.thr.val = winEntry { (s.ran x).thr x.thr.val with
    claims := ((s.ran x).thr x.thr.val).claims &&& ~~~(4 : BitVec 11) } q.val e span time := thr_setThr ..
  obtain ⟨t, ran, wrote⟩ := take_puts (rd := rd) issues sound (takeItem_entry head)
  have gives := gives_of_wrote wrote (by rw [taken]; rfl)
  obtain ⟨⟨only, -⟩, own, -⟩ := wrote
  rw [taken] at own
  refine ⟨t, ran, gives, ?_, ?_, ?_, ?_⟩
  · have left : t.eqs = (entryTaken (s.ran x) x.thr.val q e span time).eqs := by rw [only]
    rw [eq, left, (entryTaken_frame ..).1, eq_ran, first]
    exact State.eq_setEq (s.ran x) ..
  · rw [own]
    show (BitVec.ofNat 64 (2 + 2 ^ 4 * 7 + 2 ^ 16 * (e.cells.map Entry.cellBytes).flatten.length) >>> 0).toNat % 2 ^ 2 = 2
    rw [BitVec.ushiftRight_zero, BitVec.toNat_ofNat]
    omega
  · rw [own]
    rfl
  · have left : t.held = (entryTaken (s.ran x) x.thr.val q e span time).held := by rw [only]
    rw [left, (entryTaken_frame ..).2, held_ran]

/-- A packet whose place has an uncorrected error is discarded, and the queue is then empty. -/
theorem take_lost {f : Pkt} (issues : s.Issues x [] false) (bad : x.word = .uncorrected) (only_ : s.eq (x.thr.val / 64) = [.packet f]) :
    ∃ t : State, exec (.take x rd) s = .next t ∧ Gives s x rd t 0xFFFFFFFFFFFFFFFF ∧ t.eq (x.thr.val / 64) = [] ∧
      t.recs = s.recs ∧ t.held = s.held := by
  have head : (s.ran x).eqHead (x.thr.val / 64) = some (.packet f) := (eqHead_ran _).trans (eqHead_packet only_)
  have lost : SignalsOnly ((s.ran x).setEq (x.thr.val / 64) []) ((s.ran x).eqLost x.thr.val (.packet f)) := by
    have tail : ((s.ran x).eq (x.thr.val / 64)).tail = [] := by rw [eq_ran, only_]; rfl
    unfold eqLost
    rw [tail]
    exact signals_storeUe ..
  have empty : ((s.ran x).eqLost x.thr.val (.packet f)).eq (x.thr.val / 64) = [] := by
    have kept : ((s.ran x).eqLost x.thr.val (.packet f)).eqs = ((s.ran x).setEq (x.thr.val / 64) []).eqs := by rw [lost]
    rw [eq, kept]
    exact State.eq_setEq (s.ran x) ..
  obtain ⟨t, ran, wrote⟩ := exec_of_put (c := .take x rd) (rd := rd) (w := noneVal) rfl issues (by
    rw [head, bad]
    exact takeItem_none (eqHead_empty empty))
  have gives := gives_of_wrote wrote (by rw [thr_setThr, lost.thr]; rfl)
  obtain ⟨⟨same, -⟩, -, -⟩ := wrote
  have left : t.eqs = ((s.ran x).eqLost x.thr.val (.packet f)).eqs ∧ t.recs = ((s.ran x).eqLost x.thr.val (.packet f)).recs ∧
      t.held = ((s.ran x).eqLost x.thr.val (.packet f)).held := by
    rw [same, setThr_frame]
    exact ⟨rfl, rfl, rfl⟩
  have kept : ((s.ran x).eqLost x.thr.val (.packet f)).recs = (s.ran x).recs ∧
      ((s.ran x).eqLost x.thr.val (.packet f)).held = (s.ran x).held := by
    rw [lost]
    exact ⟨rfl, rfl⟩
  refine ⟨t, ran, gives, ?_, ?_, ?_⟩
  · rw [eq, left.1]
    exact empty
  · rw [left.2.1, kept.1, Scratchpad.ran_frame]
  · rw [left.2.2, kept.2, held_ran]

/-- Settles O20: the mailbox instructions by the channel they reach, TAKE by the item at the head of the queue. -/
theorem mailboxesAndItemsOfThreads : Obligations.MailboxesAndItemsOfThreads := by
  refine ⟨?_, ?_⟩
  · intro s x rd rs rt n c y
    exact ⟨fun l rest issues waits => mbxr_leaves issues waits, mbxr_none, mbxw_arg, mbxw_notBound, mbxw_full, mbxw_stores⟩
  · intro s x rd n k gives issues
    exact ⟨fun bad f only_ => take_lost issues bad only_, fun sound => ⟨fun f rest first => take_packet issues sound first,
      fun q e span time rest first room => take_entry issues sound first room, take_none issues sound⟩⟩

end Sys2Proof.Machine.Boxes
end

section
/-!
PROOFS. What DMA, TBL, BUF, AES and KEYLD start, and what they raise (R369, R370, R414, R419, R420, R422, R449).
-/

namespace Sys2Proof.Machine.Returning
open State Issue Scratchpad

variable {s : State} {x : Slot} {rd rs rt : RegNo}

/-! ### An image in the scratchpad -/

/-- An image of 32 bytes that the thread may read: open, clean, and without an error. -/
def Image (s : State) (x : Slot) (a : Word) : Prop := s.SpmOpen x.thr.val a 32 ∧ s.SpmClean x.thr.val a 32 ∧ x.word = .ok

/-- The check of an image passes, and the read of it gives its bytes. -/
theorem image_checked {a : Word} (image : Image s x a) (write : Bool) :
    (s.ran x).spmCheck x.thr.val a 32 write = .ok (a.toNat % 0x1000000) :=
  spmCheck_open (spmOpen_congr (ran_spm s x).2.2 image.1) write

theorem image_fetched {a : Word} (image : Image s x a) :
    (s.ran x).spmFetch x.thr.val (a.toNat % 0x1000000) 32 x.word =
      .ok (s.ran x, s.spmRead (x.thr.val / 192) (a.toNat % 0x1000000) 32) := by
  obtain ⟨-, clean, good⟩ := image
  obtain ⟨words, marks, -⟩ := ran_spm s x
  rw [good, spmFetch_clean ((spmBadIn_congr marks ..).trans clean), spmRead_congr words]

/-! ### DMA and TBL -/

theorem chTruss_ran (p ch : Nat) : (s.ran x).chTruss p ch = s.chTruss p ch := by
  unfold chTruss
  rw [flag_ran_ne s x (by decide), fld_ran_ne s x (by decide)]

theorem dma_starts (h : (s.g x.thr.val rs).toNat < 64)
    (bound : s.chTruss (x.thr.val / 192) (s.g x.thr.val rs).toNat = some (x.thr.val / 64)) (image : Image s x (s.g x.thr.val rt)) :
    s.Starts x [rs, rt] (.dma x rd rs rt) (.dma ⟨(s.g x.thr.val rs).toNat, h⟩
      (descOf (s.spmRead (x.thr.val / 192) ((s.g x.thr.val rt).toNat % 0x1000000) 32)) rd) := by
  refine starts_of_startOp rfl ?_
  simp only [g_ran, h, ↓reduceDIte, chTruss_ran, bound, ne_eq, not_true_eq_false, ↓reduceIte, image_checked image, image_fetched image]

theorem dma_arg (fails : 64 ≤ (s.g x.thr.val rs).toNat ∨ s.chTruss (x.thr.val / 192) (s.g x.thr.val rs).toNat ≠ some (x.thr.val / 64)) :
    s.Raises x [rs, rt] true (.dma x rd rs rt) .arg := by
  refine raises_of_exc rfl ?_
  dsimp only
  rw [g_ran]
  split
  · next inside =>
    rw [chTruss_ran, if_pos (fails.resolve_left (not_le.2 inside))]
  · rfl

theorem tbl_starts (ok : s.SpmOpen x.thr.val (s.g x.thr.val rt) 64) :
    s.Starts x [rs, rt] (.tbl x rd rs rt) (.tbl (s.g x.thr.val rs) ((s.g x.thr.val rt).toNat % 0x1000000) rd) :=
  starts_of_startOp rfl (by rw [g_ran, g_ran, spmCheck_open (spmOpen_congr (ran_spm s x).2.2 ok)])

/-! ### BUF -/

theorem buf_starts {fn : Fin 4} {c : Instr} (runs : exec c s = .next (s.bufStart x rd rs fn)) :
    s.Starts x [rs] c (.buf fn (s.g x.thr.val rs).toNat 0 rd) := starts_of_startOp runs (by rw [g_ran])

theorem ownerKind_setWidth (w : Word) : ownerKind (w.setWidth 16) = getBits w 13 3 := by
  simp only [ownerKind, getBits, BitVec.toNat_setWidth, BitVec.toNat_ushiftRight, Nat.shiftRight_eq_div_pow]
  omega

theorem giveable_iff (w : Word) : ([1, 2, 3, 6] : List Nat).contains (ownerKind (w.setWidth 16)) = true ↔
    getBits w 13 3 = 1 ∨ getBits w 13 3 = 2 ∨ getBits w 13 3 = 3 ∨ getBits w 13 3 = 6 := by
  rw [ownerKind_setWidth]
  simp

theorem bufGive_starts (may : getBits (s.g x.thr.val rt) 13 3 = 1 ∨ getBits (s.g x.thr.val rt) 13 3 = 2 ∨
    getBits (s.g x.thr.val rt) 13 3 = 3 ∨ getBits (s.g x.thr.val rt) 13 3 = 6) :
    s.Starts x [rs, rt] (.bufGive x rd rs rt) (.buf 2 (s.g x.thr.val rs).toNat ((s.g x.thr.val rt).setWidth 16) rd) :=
  starts_of_startOp rfl (by rw [g_ran, g_ran]; exact if_pos ((giveable_iff _).2 may))

theorem bufGive_arg (not : ¬(getBits (s.g x.thr.val rt) 13 3 = 1 ∨ getBits (s.g x.thr.val rt) 13 3 = 2 ∨
    getBits (s.g x.thr.val rt) 13 3 = 3 ∨ getBits (s.g x.thr.val rt) 13 3 = 6)) : s.Raises x [rs, rt] true (.bufGive x rd rs rt) .arg :=
  raises_of_exc rfl (by rw [g_ran, g_ran]; exact if_neg (mt (giveable_iff _).1 not))

/-! ### AES -/

/-- The lowest bit of a register number says whether it is odd. -/
theorem odd_iff (r : RegNo) : r.getLsbD 0 = true ↔ r.toNat % 2 = 1 := by
  rw [← BitVec.testBit_toNat, Nat.testBit_zero, decide_eq_true_eq]

section
variable {decrypt : Bool} {c : Instr} (runs : exec c s = .next (s.aesStart x rd rs rt decrypt))
  (direction : (s.g x.thr.val rt).getLsbD 16 = decrypt)
include runs direction

theorem aes_runs : exec c s = .next (s.issue x (mRd ||| mRs ||| mRt) [rs, rs + 1, rt] true fun t n pc =>
    if rd.getLsbD 0 || rs.getLsbD 0 then .exc .illegal t
    else t.startOp n pc (.aes ((t.g n rt).setWidth 16) decrypt (t.g n (rs + 1)) (t.g n rs) rd)) :=
  runs.trans (congrArg _ (if_neg (not_not.2 direction)))

theorem aes_starts (evenD : rd.toNat % 2 = 0) (evenS : rs.toNat % 2 = 0) :
    s.Starts x [rs, rs + 1, rt] c (.aes ((s.g x.thr.val rt).setWidth 16) decrypt (s.g x.thr.val (rs + 1)) (s.g x.thr.val rs) rd) := by
  refine starts_of_startOp (aes_runs runs direction) ?_
  rw [if_neg (by rw [Bool.or_eq_true, odd_iff, odd_iff]; omega), g_ran, g_ran, g_ran]

theorem aes_illegal (odd : rd.toNat % 2 = 1 ∨ rs.toNat % 2 = 1) : s.Raises x [rs, rs + 1, rt] true c .illegal :=
  raises_of_exc (aes_runs runs direction) (if_pos (by rwa [Bool.or_eq_true, odd_iff, odd_iff]))

end

/-! ### KEYLD -/

theorem keyld_starts {kind : Nat} {c : Instr} (runs : exec c s = .next (s.keyldStart x rd rs rt kind))
    (own : getBits (s.g x.thr.val rs) 16 2 = kind) (single : kind ≠ 3 - kind) (image : Image s x (s.g x.thr.val rt)) :
    s.Starts x [rs, rt] c (.keyld (kind == 1) ((s.g x.thr.val rs).setWidth 16) ((s.g x.thr.val rs).getLsbD 18)
      (s.spmRead (x.thr.val / 192) ((s.g x.thr.val rt).toNat % 0x1000000) 32) rd) := by
  refine starts_of_startOp (runs.trans (congrArg _ (if_neg (own ▸ single)))) ?_
  simp only [g_ran, own, ne_eq, not_true_eq_false, ↓reduceIte, image_checked image, image_fetched image]
  rfl

theorem keyld_arg (none : getBits (s.g x.thr.val rs) 16 2 = 0) : s.Raises x [rs, rt] true (.keyldInstall x rd rs rt) .arg :=
  raises_of_exc (congrArg _ (if_neg (by rw [none]; decide))) (by rw [g_ran]; exact if_pos (by rw [none]; decide))

/-- Settles O21: each operation's start by what it reads. -/
theorem returningOperationsStart : Obligations.ReturningOperationsStart := by
  intro s x rd rs rt n a b bytes image kind
  exact ⟨fun h bound image => dma_starts h bound image, dma_arg, tbl_starts, buf_starts rfl, buf_starts rfl, buf_starts rfl, bufGive_starts,
    bufGive_arg, aes_starts rfl, aes_starts rfl, aes_illegal rfl, fun own image => keyld_starts rfl own (by decide) image,
    fun own image => keyld_starts rfl own (by decide) image, keyld_arg⟩

end Sys2Proof.Machine.Returning
end

section
/-!
PROOFS. FENCE, BRK, RREG and WREG (R414, R424, R485).
-/

namespace Sys2Proof.Machine.Fence
open State Issue

variable {s : State} {x : Slot} {rd rs rt : RegNo} {r : Reg} {i : Nat}

/-! ### FENCE and BRK -/

theorem fence_issues (issues : s.Issues x [] false) (done : s.liveOps x.thr.val = []) : exec (.fence x) s = .next (s.ran x) := by
  refine exec_of_ok (uses := 0) (f := fun t _ _ => .ok t) ?_ issues rfl
  show execFence x s = _
  unfold execFence
  dsimp only
  rw [if_neg (by simp [done])]

theorem fence_waits (runs : (s.thr x.thr.val).state = .running) (stays : (s.thr x.thr.val).aborting = false)
    (out : s.liveOps x.thr.val ≠ []) : exec (.fence x) s = .next (s.bump F.TRS_BUBBLE_CNT_COUNT (x.thr.val / 64)) := by
  refine congrArg _ (if_pos ?_)
  simp [runs, stays, out]

theorem debug_ran (n : Nat) : (s.ran x).dbgLevel = s.dbgLevel ∧ (s.ran x).dbgThread n = s.dbgThread n := by
  have level : (s.ran x).dbgLevel = s.dbgLevel := fld_ran_ne s x (by decide) 0
  have cycle : (s.ran x).lifecycle = s.lifecycle := fld_ran_ne s x (by decide) 0
  refine ⟨level, ?_⟩
  unfold dbgThread dbgAll
  rw [level, cycle, fld_ran_ne s x (by decide)]

theorem brk_halts (issues : s.Issues x [] false) (level : s.dbgLevel ≠ 0) (scope : s.dbgThread x.thr.val = true) :
    ∃ t, exec (.brk x) s = .next t ∧ (s.ran x).OnlyThread t x.thr.val ∧
      t.thr x.thr.val = { (s.ran x).thr x.thr.val with state := .halted, prior := .running } := by
  obtain ⟨level', scope'⟩ := debug_ran (s := s) (x := x) x.thr.val
  refine ⟨_, exec_of_ok rfl issues (if_pos ⟨by rwa [level'], by rwa [scope']⟩), onlyThread_setThr .., thr_setThr ..⟩

theorem brk_raises (none : s.dbgLevel = 0 ∨ s.dbgThread x.thr.val = false) : s.Raises x [] false (.brk x) .brk := by
  obtain ⟨level', scope'⟩ := debug_ran (s := s) (x := x) x.thr.val
  refine raises_of_exc rfl (if_neg ?_)
  rw [level', scope']
  rcases none with none | none <;> simp [none]

/-! ### Registers -/

/-- An address of register `r`, instance `i`, of the thread's own Truss. -/
def Own (s : State) (x : Slot) (rs : RegNo) (r : Reg) (i : Nat) : Prop :=
  getBits (s.g x.thr.val rs) 24 8 = 0 ∧ getBits (s.g x.thr.val rs) 0 24 % 8 = 0 ∧ getBits (s.g x.thr.val rs) 0 24 < 0x100000 ∧
    locate (0x1800000 + x.thr.val / 192 * 0x1000000 + x.thr.val / 64 % 3 * 0x100000 + getBits (s.g x.thr.val rs) 0 24) = some (r, i)

theorem threadReg_own (own : Own s x rs r i) {write : Bool} (may : write = true → x.thr.val % 64 = 0) :
    (s.ran x).threadReg x.thr.val (s.g x.thr.val rs) write = .ok (some (r, i)) := by
  obtain ⟨block, aligned, below, located⟩ := own
  have allowed : (!write || x.thr.val % 64 == 0) = true := by
    cases write <;> simp_all
  simp only [threadReg, block, aligned, allowed, located, not_le.2 below, ne_eq, not_true_eq_false, Bool.not_true, Bool.false_eq_true,
    zero_ne_one, ↓reduceIte]

theorem threadReg_pool (own : Own s x rs r i) (pool : x.thr.val % 64 ≠ 0) :
    (s.ran x).threadReg x.thr.val (s.g x.thr.val rs) true = .error .priv := by
  obtain ⟨block, aligned, -, -⟩ := own
  unfold threadReg
  dsimp only
  rw [block, if_neg (not_not.2 aligned)]
  exact if_pos (by simpa using pool)

theorem threadReg_block {w : Word} {write : Bool} (t : State) (n : Nat) (aligned : getBits w 0 24 % 8 = 0) (block : 2 ≤ getBits w 24 8) :
    t.threadReg n w write = .error .priv := by
  obtain ⟨k, at_⟩ : ∃ k, getBits w 24 8 = k + 2 := ⟨getBits w 24 8 - 2, by omega⟩
  unfold threadReg
  dsimp only
  rw [at_, if_neg (not_not.2 aligned)]
  rfl

theorem threadReg_odd {w : Word} {write : Bool} (t : State) (n : Nat) (odd : getBits w 0 24 % 8 ≠ 0) :
    t.threadReg n w write = .error .align := if_pos odd

/-- A read of a register that has no effect of its own. -/
theorem busRead_plain (t : State) (kept : r.rcMask = 0)
    (plain : r ∉ [Reg.TIM_NOW, .TIM_CAP_HI, .TIM_GNSS_RX, .MBX_FROM, .SPM_MGMT_DATA, .PWR_TJ_PEAK]) :
    t.busRead r i .ok = (t.readReg r i, t) := by
  simp only [List.mem_cons, List.not_mem_nil, or_false, not_or] at plain
  obtain ⟨h1, h2, h3, h4, h5, h6⟩ := plain
  unfold busRead
  split
  · exact absurd rfl h1
  · exact absurd rfl h2
  · exact absurd rfl h3
  · exact absurd rfl h4
  · exact absurd rfl h5
  · exact absurd rfl h6
  · dsimp only
    rw [if_pos kept]

section
variable (free : s.cfgState ≠ 4) (free' : s.cfgState ≠ 5)
include free free'

theorem exec_rreg : exec (.rreg x rd rs) s = .next (s.issue x (mRd ||| mRs) [rs] false fun t n _ =>
    match t.threadReg n (t.g n rs) false with
    | .error e => .exc e t
    | .ok none => t.put n rd 0
    | .ok (some (r, i)) => let (w, t) := t.busRead r i .ok; t.put n rd w) :=
  congrArg _ (if_neg (not_or.2 ⟨free, free'⟩))

theorem exec_wreg : exec (.wreg x rs rt) s = .next (s.issue x (mRs ||| mRt) [rs, rt] false fun t n _ =>
    match t.threadReg n (t.g n rs) true with
    | .error e => .exc e t
    | .ok none => .ok t
    | .ok (some (r, i)) =>
      if r = .TRS_CMD then .ok t
      else .ok (if getBits (t.g n rs) 24 8 = 1 then t.wrTim true r i (t.g n rt) else t.wrBasic r i (t.g n rt))) :=
  congrArg _ (if_neg (not_or.2 ⟨free, free'⟩))

theorem rreg_computes (own : Own s x rs r i) (kept : r.rcMask = 0)
    (plain : r ∉ [Reg.TIM_NOW, .TIM_CAP_HI, .TIM_GNSS_RX, .MBX_FROM, .SPM_MGMT_DATA, .PWR_TJ_PEAK]) :
    s.Computes x [rs] (.rreg x rd rs) rd ((s.ran x).readReg r i) :=
  s.computes_put (exec_rreg free free') (by
    dsimp only
    rw [g_ran, threadReg_own own Bool.noConfusion]
    dsimp only
    rw [busRead_plain _ kept plain])

theorem wreg_writes (own : Own s x rs r i) (other : r ≠ .TRS_CMD) (supervisor : x.thr.val % 64 = 0) (issues : s.Issues x [rs, rt] false) :
    exec (.wreg x rs rt) s = .next ((s.ran x).wrBasic r i (s.g x.thr.val rt)) :=
  exec_of_ok (exec_wreg free free') issues (by
    rw [g_ran, g_ran, threadReg_own own fun _ => supervisor]
    dsimp only
    rw [if_neg other, if_neg (by rw [own.1]; decide)])

theorem wreg_pool (own : Own s x rs r i) (pool : x.thr.val % 64 ≠ 0) : s.Raises x [rs, rt] false (.wreg x rs rt) .priv :=
  raises_of_exc (exec_wreg free free') (by rw [g_ran, threadReg_pool own pool])

theorem rreg_block (aligned : getBits (s.g x.thr.val rs) 0 24 % 8 = 0) (block : 2 ≤ getBits (s.g x.thr.val rs) 24 8) :
    s.Raises x [rs] false (.rreg x rd rs) .priv :=
  raises_of_exc (exec_rreg free free') (by dsimp only; rw [g_ran, threadReg_block _ _ aligned block])

theorem rreg_odd (odd : getBits (s.g x.thr.val rs) 0 24 % 8 ≠ 0) : s.Raises x [rs] false (.rreg x rd rs) .align :=
  raises_of_exc (exec_rreg free free') (by dsimp only; rw [g_ran, threadReg_odd _ _ odd])

end

/-- Settles O25: FENCE and BRK by their tests, RREG and WREG by the register that the address names. -/
theorem fenceBreakAndRegisters : Obligations.FenceBreakAndRegisters := by
  intro s x rd rs rt r i n a own
  exact ⟨fence_issues, fence_waits, brk_halts, brk_raises, fun free free' => ⟨rreg_computes free free', wreg_writes free free',
    wreg_pool free free', rreg_block free free', rreg_odd free free'⟩⟩

end Sys2Proof.Machine.Fence
end

section
/-!
PROOFS. Registers and fields after writes, events and command ends, in the form that `simp (disch := decide)` uses: what another register, or a
field apart in the same word, reads (R7, R533, R534).
-/

namespace Sys2Proof.Machine.Fields
open State

variable (s : State)

@[simp] theorem reg_setFld_other {f : Fld} {r : Reg} {i j v : Nat} (h : r ≠ f.reg) : (s.setFld f i v).reg r j = s.reg r j :=
  s.reg_setFld_ne v (.inl h)

@[simp] theorem fld_setFld_self {f : Fld} {i v : Nat} (h : f.lo + f.width ≤ 64) : (s.setFld f i v).fld f i = v % 2 ^ f.width :=
  s.fld_setFld f i v h

@[simp] theorem fld_setFld_other {f g : Fld} {i j v : Nat} (h : g.reg ≠ f.reg) : (s.setFld f i v).fld g j = s.fld g j := by
  rw [fld, fld, reg_setFld_other s h]

@[simp] theorem fld_setFld_apart {f g : Fld} {i j v : Nat} (h : f.lo + f.width ≤ 64 ∧ (g.lo + g.width ≤ f.lo ∨ f.lo + f.width ≤ g.lo)) :
    (s.setFld f i v).fld g j = s.fld g j := fld_setFld_ne s v h.1 (.inr (.inr h.2))

@[simp] theorem reg_setReg_other {r r' : Reg} {i j : Nat} {w : Word} (h : r' ≠ r) : (s.setReg r i w).reg r' j = s.reg r' j :=
  s.reg_setReg_ne w (.inl h)

@[simp] theorem fld_setReg_other {r : Reg} {g : Fld} {i j : Nat} {w : Word} (h : g.reg ≠ r) : (s.setReg r i w).fld g j = s.fld g j :=
  s.fld_setReg_ne w (.inl h)

@[simp] theorem reg_bump_other {f : Fld} {r : Reg} {i j k : Nat} (h : r ≠ f.reg) : (s.bump f i k).reg r j = s.reg r j :=
  reg_setFld_other s h

@[simp] theorem fld_bump_other {f g : Fld} {i j k : Nat} (h : g.reg ≠ f.reg) : (s.bump f i k).fld g j = s.fld g j :=
  fld_setFld_other s h

@[simp] theorem fld_bump_apart {f g : Fld} {i j k : Nat} (h : f.lo + f.width ≤ 64 ∧ (g.lo + g.width ≤ f.lo ∨ f.lo + f.width ≤ g.lo)) :
    (s.bump f i k).fld g j = s.fld g j := fld_setFld_apart s h

@[simp] theorem fld_bump_self {f : Fld} {i : Nat} (h : f.lo + f.width ≤ 64) :
    (s.bump f i).fld f i = min (s.fld f i + 1) (2 ^ f.width - 1) := by
  rw [TimeUnit.fld_bump s f i h, TimeUnit.satAdd_one]

@[simp] theorem reg_setEvt_other {evt en vec r : Reg} {i j b : Nat} (h : r ≠ .HEP_DROP_CNT ∧ r ≠ evt) :
    (s.setEvt evt en vec i b).reg r j = s.reg r j := reg_setEvt_ne s h.1 (.inl h.2)

@[simp] theorem fld_setEvt_other {evt en vec : Reg} {g : Fld} {i j b : Nat} (h : g.reg ≠ .HEP_DROP_CNT ∧ g.reg ≠ evt) :
    (s.setEvt evt en vec i b).fld g j = s.fld g j := by rw [fld, fld, reg_setEvt_other s h]

/-- An event that is recorded stands, and those that stood stand. -/
theorem event_setEvt {evt en vec : Reg} {i b : Nat} (h : evt ≠ .HEP_DROP_CNT ∧ b < 64) : (s.setEvt evt en vec i b).Event evt i b := by
  unfold Event bitOf
  rw [s.reg_setEvt _ _ _ _ _ h.1, BitVec.getLsbD_or, BitVec.getLsbD_shiftLeft]
  simp [h.2]

theorem event_setEvt_of {evt en vec : Reg} {i b k : Nat} (h : evt ≠ .HEP_DROP_CNT) (stands : s.Event evt i k) :
    (s.setEvt evt en vec i b).Event evt i k := by
  unfold Event bitOf at *
  rw [s.reg_setEvt _ _ _ _ _ h, BitVec.getLsbD_or, stands, Bool.true_or]

theorem event_congr {s t : State} {evt : Reg} {i b : Nat} (kept : t.reg evt i = s.reg evt i) (stands : s.Event evt i b) :
    t.Event evt i b := by
  rw [Event, kept]
  exact stands

@[simp] theorem reg_epoch_other {b : Boundary} {r r' : Reg} {i j : Nat} (h : r' ≠ r) : (s.epoch b r i).reg r' j = s.reg r' j :=
  TimeUnit.reg_epoch_ne s b h

@[simp] theorem fld_epoch_other {b : Boundary} {r : Reg} {g : Fld} {i j : Nat} (h : g.reg ≠ r) : (s.epoch b r i).fld g j = s.fld g j := by
  rw [fld, fld, reg_epoch_other s h]

@[simp] theorem reg_emit (o : Out) (r : Reg) (i : Nat) : (s.emit o).reg r i = s.reg r i := rfl
@[simp] theorem fld_emit (o : Out) (f : Fld) (i : Nat) : (s.emit o).fld f i = s.fld f i := rfl

@[simp] theorem reg_endCmd_other {f g : Fld} {r : Reg} {i j code : Nat} {q : Seq} (h : r ≠ f.reg ∧ r ≠ g.reg) :
    (s.endCmd f g i code q).reg r j = s.reg r j :=
  (reg_setFld_other _ h.2).trans (reg_setFld_other s h.1)

@[simp] theorem fld_endCmd_other {f g x : Fld} {i j code : Nat} {q : Seq} (h : x.reg ≠ f.reg ∧ x.reg ≠ g.reg) :
    (s.endCmd f g i code q).fld x j = s.fld x j :=
  (fld_setFld_other _ h.2).trans (fld_setFld_other s h.1)

@[simp] theorem fld_endCmd_apart {f g x : Fld} {i j code : Nat} {q : Seq}
    (h : f.lo + f.width ≤ 64 ∧ (x.lo + x.width ≤ f.lo ∨ f.lo + f.width ≤ x.lo))
    (h' : g.lo + g.width ≤ 64 ∧ (x.lo + x.width ≤ g.lo ∨ g.lo + g.width ≤ x.lo)) : (s.endCmd f g i code q).fld x j = s.fld x j :=
  (fld_setFld_apart _ h').trans (fld_setFld_apart s h)

@[simp] theorem reg_setThr (n : Nat) (y : Thread) (r : Reg) (i : Nat) : (s.setThr n y).reg r i = s.reg r i :=
  reg_congr (setThr_regs s n y) r i

@[simp] theorem fld_setThr (n : Nat) (y : Thread) (f : Fld) (i : Nat) : (s.setThr n y).fld f i = s.fld f i :=
  fld_congr (setThr_regs s n y) f i

/-- With nothing held back, a change that keeps held values is one of registers and vectors alone. -/
theorem onlySignals_of {s t : State} (h : Signals.SignalsOnly s t) (kept : t.shadow = s.shadow) : s.OnlySignals t := by
  unfold OnlySignals
  rw [h, kept]

end Sys2Proof.Machine.Fields
end

section
/-!
PROOFS. Fault events: what the collector records, counts and signals (R461–R465).
-/

namespace Sys2Proof.Machine.FaultEvents
open State Fields Signals TimeUnit

variable (s : State) (c : FaultClass) (e : FaultEv)

/-- The first fault event of its class is recorded; unless it is correctable, a pulse starts. -/
theorem capture_first (free : s.fld F.FCU_CAP_VALID (classIdx c) = 0) : s.capture c e =
    if c = .ce then record (s.bump F.FCU_CNT_COUNT (classIdx c)) (classIdx c) e
    else (record (s.bump F.FCU_CNT_COUNT (classIdx c)) (classIdx c) e).startPulse := by
  unfold capture flag
  dsimp only
  rw [fld_bump_other s (by decide), free]
  cases c <;> rfl

/-- A further one is counted, and sets OVF. -/
theorem capture_again (taken : s.fld F.FCU_CAP_VALID (classIdx c) ≠ 0) :
    s.capture c e = (s.bump F.FCU_CNT_COUNT (classIdx c)).setFld F.FCU_CAP_OVF (classIdx c) 1 := by
  unfold capture flag
  dsimp only
  rw [fld_bump_other s (by decide), if_pos (bne_iff_ne.2 taken)]

theorem fld_capture_count : (s.capture c e).fld F.FCU_CNT_COUNT (classIdx c) =
    min (s.fld F.FCU_CNT_COUNT (classIdx c) + 1) 0xFFFFFFFF := by
  rw [(calm_capture s c e).fld F.FCU_CNT_COUNT _ (by decide), fld_bump_self s (by decide)]
  rfl

theorem classIdx_lt : classIdx c < 64 := by cases c <;> decide

/-- What the capture registers of a class hold of a fault event. -/
structure Recorded (t : State) (i : Nat) (e : FaultEv) (now : Word) : Prop where
  valid : t.fld F.FCU_CAP_VALID i = 1
  source : t.fld F.FCU_CAP_SOURCE i = e.source.toNat
  code : t.fld F.FCU_CAP_CODE i = e.code.toNat
  detail : t.reg .FCU_DETAIL i = e.detail
  time : t.reg .FCU_TIME i = now
  event : t.Event .FCU_EVT 0 i

variable {s} in
/-- Recorded is what the capture registers and their event read. -/
theorem Recorded.congr {t : State} {i : Nat} {e : FaultEv} {now : Word} (h : Recorded s i e now)
    (kept : ∀ r ∈ [Reg.FCU_CAP, .FCU_DETAIL, .FCU_TIME, .FCU_EVT], ∀ j, t.reg r j = s.reg r j) : Recorded t i e now := by
  obtain ⟨valid, source, code, detail, time, event⟩ := h
  have cap (f : Fld) (hf : f.reg = .FCU_CAP) : t.fld f i = s.fld f i := by rw [fld, fld, hf, kept _ (by decide)]
  exact ⟨(cap _ rfl).trans valid, (cap _ rfl).trans source, (cap _ rfl).trans code, (kept _ (by decide) i).trans detail,
    (kept _ (by decide) i).trans time, event_congr (kept _ (by decide) 0) event⟩

theorem recorded_record {i : Nat} (h : i < 64) : Recorded (record s i e) i e s.wide where
  valid := by unfold record; simp (disch := decide)
  source := by
    unfold record
    simp (disch := decide)
    exact Nat.mod_eq_of_lt e.source.isLt
  code := by
    unfold record
    simp (disch := decide)
    exact Nat.mod_eq_of_lt e.code.isLt
  detail := by unfold record; simp (disch := decide)
  time := by
    unfold record
    simp (disch := decide)
  event := event_setEvt _ ⟨by decide, h⟩

theorem recorded_startPulse {i : Nat} {now : Word} (h : Recorded s i e now) : Recorded s.startPulse i e now :=
  h.congr fun r hr j => (calm_startPulse s).reg r j (by revert r; decide)

theorem recorded_capture (free : s.fld F.FCU_CAP_VALID (classIdx c) = 0) : Recorded (s.capture c e) (classIdx c) e s.wide := by
  have first := recorded_record (s.bump F.FCU_CNT_COUNT (classIdx c)) e (classIdx_lt c)
  rw [capture_first s c e free]
  cases c
  case ce => exact first
  all_goals exact recorded_startPulse _ e first

theorem shadow_capture_ce : (s.capture .ce e).shadow = s.shadow := by
  unfold capture
  dsimp only
  split
  · rfl
  · rw [setEvt_frame]
    rfl

theorem pulse_capture (free : s.fld F.FCU_CAP_VALID (classIdx c) = 0) (uncorrectable : c ≠ .ce) :
    (s.capture c e).fld F.FCU_PIN_PULSE 0 = 1 := by
  rw [capture_first s c e free]
  cases c
  case ce => exact absurd rfl uncorrectable
  all_goals exact fld_setFld_self _ (by decide)

/-- A fault event of the table's pairs is captured where the FCU has power. -/
theorem faultEv_listed (on : s.coreOff = false) (listed : faultClass e.source e.code = some c) : s.faultEv e = s.capture c e := by
  unfold faultEv
  rw [on, listed]
  rfl

theorem faultEv_unlisted (none_ : faultClass e.source e.code = none) : s.faultEv e = s := by
  unfold faultEv
  rw [none_]
  split <;> rfl

/-- The events that a capture leaves: those that stood, and its own. -/
theorem reg_capture_evt : (s.capture c e).reg .FCU_EVT 0 = s.reg .FCU_EVT 0 ∨
    (s.capture c e).reg .FCU_EVT 0 = s.reg .FCU_EVT 0 ||| ((1 : Word) <<< classIdx c) := by
  by_cases free : s.fld F.FCU_CAP_VALID (classIdx c) = 0
  · right
    have recorded : (record (s.bump F.FCU_CNT_COUNT (classIdx c)) (classIdx c) e).reg .FCU_EVT 0 =
        s.reg .FCU_EVT 0 ||| ((1 : Word) <<< classIdx c) := by
      unfold record
      rw [reg_setEvt _ _ _ _ _ _ (by decide)]
      simp (disch := decide)
    rw [capture_first s c e free]
    cases c
    case ce => exact recorded
    all_goals exact ((calm_startPulse _).reg .FCU_EVT 0 (by decide)).trans recorded
  · left
    rw [capture_again s c e free]
    simp (disch := decide)

/-- Of events that come together, one that is new needs no vector of its own beside theirs. -/
theorem new_bit (w en : Word) {k : Nat} (h : k < 64) :
    (w ||| ((1 : Word) <<< k)) &&& ~~~w &&& en = if !w.getLsbD k && en.getLsbD k then (1 : Word) <<< k else 0 := by
  ext j hj
  by_cases e : j = k
  · subst e
    cases w_j : w[j] <;> cases en_j : en[j] <;> simp [w_j, en_j, hj]
  · have apart : (k ≤ j → ¬ j - k = 0) := by omega
    split <;> simp [BitVec.getElem_shiftLeft] <;> grind

theorem single_bit : ∀ k < 64, ((1 : Word) <<< k) &&& (((1 : Word) <<< k) - 1) = 0 := by decide

/-- A change that sets at most one bit of an EVT register sends its own vector. -/
theorem evtTogether_one (evt en vec : Reg) (i : Nat) (f : State → State) {k : Nat} (h : k < 64)
    (one : (f s).reg evt i = s.reg evt i ∨ (f s).reg evt i = s.reg evt i ||| ((1 : Word) <<< k)) : s.evtTogether evt en vec i f = f s := by
  unfold evtTogether
  refine if_pos ?_
  rcases one with same | set
  · simp [same]
  · rw [set, new_bit _ _ h]
    split
    · exact single_bit k h
    · exact BitVec.zero_and

/-- Fault events of one cycle that set at most one event bit leave what they leave one after another. -/
theorem exec_faultEvent_of {es : List FaultEv} {t : State} {k : Nat} (taken : (bySource es).foldl faultEv s = t) (h : k < 64)
    (one : t.reg .FCU_EVT 0 = s.reg .FCU_EVT 0 ∨ t.reg .FCU_EVT 0 = s.reg .FCU_EVT 0 ||| ((1 : Word) <<< k)) :
    exec (.faultEvent es) s = .next t := by
  subst taken
  change execFaultEvent es s = _
  rw [execFaultEvent, evtTogether_one s _ _ _ _ (fun u => (bySource es).foldl faultEv u) h one]

/-- A fault event that comes alone is captured or counted. -/
theorem exec_faultEvent_one (on : s.coreOff = false) (listed : faultClass e.source e.code = some c) :
    exec (.faultEvent [e]) s = .next (s.capture c e) :=
  exec_faultEvent_of s (faultEv_listed s c e on listed) (classIdx_lt c) (reg_capture_evt s c e)

/-- Only the FCU's registers, and those of a vector, differ: the record of a class that has one is left alone. -/
theorem capture_again_kept (taken : s.fld F.FCU_CAP_VALID (classIdx c) ≠ 0) :
    (s.capture c e).fld F.FCU_CAP_OVF (classIdx c) = 1 ∧ (s.capture c e).reg .FCU_DETAIL (classIdx c) = s.reg .FCU_DETAIL (classIdx c) ∧
      (s.capture c e).reg .FCU_TIME (classIdx c) = s.reg .FCU_TIME (classIdx c) ∧
      (s.capture c e).fld F.FCU_CAP_SOURCE (classIdx c) = s.fld F.FCU_CAP_SOURCE (classIdx c) := by
  rw [capture_again s c e taken]
  refine ⟨?_, ?_, ?_, ?_⟩ <;> simp (disch := decide)

/-- Of two fault events of a class that come together, the one of the lower source is recorded. -/
theorem exec_faultEvent_two (a b : FaultEv) (on : s.coreOff = false) (ha : faultClass a.source a.code = some c)
    (hb : faultClass b.source b.code = some c) (lower : b.source.toNat < a.source.toNat)
    (free : s.fld F.FCU_CAP_VALID (classIdx c) = 0) :
    exec (.faultEvent [a, b]) s = .next ((s.capture c b).capture c a) := by
  have sorted : bySource [a, b] = [b, a] := by simp [bySource, insertBySource, Nat.not_le.2 lower]
  have on' : (s.capture c b).coreOff = false := by rw [(calm_capture s c b).coreOff]; exact on
  have first := (recorded_capture s c b free).valid
  refine exec_faultEvent_of s ?_ (classIdx_lt c) ?_
  · rw [sorted, List.foldl_cons, List.foldl_cons, faultEv_listed s c b on hb, faultEv_listed _ c a on' ha, List.foldl_nil]
  · rw [capture_again _ c a (by rw [first]; decide), reg_setFld_other _ (by decide), reg_bump_other _ (by decide)]
    exact reg_capture_evt s c b

theorem exec_faultEvent_unlisted (none_ : faultClass e.source e.code = none) : exec (.faultEvent [e]) s = .next s :=
  exec_faultEvent_of s (faultEv_unlisted s e none_) (k := 0) (by decide) (.inl rfl)

/-- Settles O27: what one fault event leaves, of two the lower source first, and an unlisted pair. -/
theorem faultEventsCaptured : Obligations.FaultEventsCaptured := by
  unfold Obligations.FaultEventsCaptured
  intro s a b c i on ha
  refine ⟨⟨_, exec_faultEvent_one s c a on ha, ?_, ?_, fld_capture_count s c a, fun free => ?_, fun taken => ?_⟩,
    fun hb lower free => ⟨_, exec_faultEvent_two s c a b on ha hb lower free, ?_⟩, exec_faultEvent_unlisted s b⟩
  · unfold OnlySignals
    rw [signals_capture s c a]
  · rintro rfl
    exact shadow_capture_ce s a
  · obtain ⟨valid, source, code, detail, time, event⟩ := recorded_capture s c a free
    exact ⟨valid, source, code, detail, time, event, pulse_capture s c a free⟩
  · exact capture_again_kept s c a (by rw [taken]; decide)
  · obtain ⟨valid, source, -, detail, -, -⟩ := recorded_capture s c b free
    obtain ⟨ovf, detail', -, source'⟩ := capture_again_kept (s.capture c b) c a (by rw [valid]; decide)
    refine ⟨source'.trans source, detail'.trans detail, ovf, ?_⟩
    have twice (n m : Nat) : min (min (n + 1) m + 1) m = min (n + 2) m := by omega
    rw [fld_capture_count, fld_capture_count]
    exact twice _ _

end Sys2Proof.Machine.FaultEvents
end

section
/-!
PROOFS. The wake of a domain leaves all but its own registers and the sequence of its command, and what an exception leaves in the thread's
record, the Truss's registers and the fault collector (R391, R425, R496).
-/

namespace Sys2Proof.Machine.Exceptions
open State Fields Signals TimeUnit

/-! ### The wake of a domain -/

/-- Nothing differs but registers, the SEQ of a domain's command, and what an MSI-X vector changes. -/
def PowerOnly (s t : State) : Prop :=
  t = { s with regs := t.regs, pwrSeq := t.pwrSeq, msix := t.msix, msixWait := t.msixWait, out := t.out }

theorem PowerOnly.trans {s t u : State} (first : PowerOnly s t) (then_ : PowerOnly t u) : PowerOnly s u := by
  refine Eq.trans then_ ?_
  rw [first]

theorem PowerOnly.thr {s t : State} (h : PowerOnly s t) (n : Nat) : t.thr n = s.thr n := by
  rw [h]
  rfl

variable (s : State)

theorem power_setEvt (evt en vec : Reg) (i b : Nat) : PowerOnly s (s.setEvt evt en vec i b) := by
  unfold PowerOnly
  rw [setEvt_frame]

theorem power_setFld (f : Fld) (i v : Nat) : PowerOnly s (s.setFld f i v) := rfl

theorem power_setDom (d v : Nat) : PowerOnly s (s.setDom d v) := by
  unfold setDom
  split <;> rfl

theorem power_gatingEnd (d dst code : Nat) : PowerOnly s (s.gatingEnd d dst code) := by
  have ended (u : State) (q : Seq) : PowerOnly u (u.pwrEnd q code) :=
    ((power_setFld ..).trans (power_setFld ..)).trans (power_setEvt ..)
  have taken : PowerOnly s { s with pwrSeq := SMap.erase s.pwrSeq d } := rfl
  exact ((taken.trans (power_setDom ..)).trans (power_setFld ..)).trans (ended ..)

theorem power_wakeDom (work : Bool) (d : Nat) : PowerOnly s (s.wakeDom work d) := by
  unfold wakeDom
  split
  · split
    · exact power_gatingEnd ..
    · rfl
  · dsimp only
    split
    · exact (power_setDom s d 3).trans ((power_setFld ..).trans (power_setEvt ..))
    · exact power_setDom ..
  · rfl

theorem power_wake (work : Bool) (d : Nat) : PowerOnly s (s.wake work d) := by
  unfold wake
  dsimp only
  split
  · exact (power_wakeDom ..).trans (power_wakeDom ..)
  · exact power_wakeDom ..

theorem power_sourceWake (k : Nat) : PowerOnly s (s.sourceWake k) := power_wake s true (16 + k)

theorem thr_trsEvt (k b n : Nat) : (s.trsEvt k b).thr n = s.thr n := PowerOnly.thr (power_setEvt ..) n

theorem event_trsEvt (k : Nat) {b : Nat} (h : b < 64) : bitOf ((s.trsEvt k b).reg .TRS_EVT k) b = true :=
  event_setEvt s ⟨by decide, h⟩

/-! ### The exception's record -/

theorem leaveWaits_frame (n : Nat) : s.leaveWaits n =
    { s with bpmWait := (s.leaveWaits n).bpmWait, grants := (s.leaveWaits n).grants, rails := (s.leaveWaits n).rails } := by
  unfold leaveWaits
  split <;> rfl

/-- The record of thread `n` after exception `e` at `pc`. -/
def faulted (x : Thread) (e : Exc) (pc : BitVec 32) : Thread :=
  { x with state := .faulted, faultCode := BitVec.ofNat 8 e.code, faultPc := pc, waitMask := 0, implicit := none, joining := none }

/-- The thread as the exception leaves it, with no wait of its own left. -/
def stopped (n : Nat) (e : Exc) (pc : BitVec 32) : State := (s.leaveWaits n).setThr n (faulted (s.thr n) e pc)

theorem thr_stopped (n : Nat) (e : Exc) (pc : BitVec 32) (m : Nat) :
    (stopped s n e pc).thr m = if m = n then faulted (s.thr n) e pc else s.thr m := by
  unfold stopped
  split
  · next h => rw [h, thr_setThr]
  · next h => rw [thr_setThr_ne _ _ h, leaveWaits_frame]; rfl

theorem reg_stopped (n : Nat) (e : Exc) (pc : BitVec 32) (r : Reg) (i : Nat) : (stopped s n e pc).reg r i = s.reg r i := by
  rw [stopped, reg_setThr, leaveWaits_frame]; rfl

theorem raiseExc_supervisor {n : Nat} (e : Exc) (pc : BitVec 32) (sup : n % 64 = 0) : s.raiseExc n e pc =
    ((stopped s n e pc).trsEvt (n / 64) 1).raise (trussSrc (n / 64)) 0x02 (thrFault ((stopped s n e pc).thr n)).toNat := by
  have same : (s.leaveWaits n).thr n = s.thr n := by rw [leaveWaits_frame]; rfl
  unfold raiseExc
  dsimp only
  rw [same, if_pos sup]
  rfl

theorem raiseExc_pool {n : Nat} (e : Exc) (pc : BitVec 32) (pool : n % 64 ≠ 0) : s.raiseExc n e pc =
    (((stopped s n e pc).supCause F.TRS_SUP_CAUSE_THREAD_FAULT (n / 64)).trsEvt (n / 64) 2).bump F.TRS_THR_CNT_FAULTS (n / 64) := by
  have same : (s.leaveWaits n).thr n = s.thr n := by rw [leaveWaits_frame]; rfl
  unfold raiseExc
  dsimp only
  rw [same, if_neg pool]
  rfl

theorem thr_raiseExc (n : Nat) (e : Exc) (pc : BitVec 32) (m : Nat) : (s.raiseExc n e pc).thr m = (stopped s n e pc).thr m := by
  by_cases sup : n % 64 = 0
  · rw [raiseExc_supervisor s e pc sup, (signals_raise ..).thr, thr_trsEvt]
  · rw [raiseExc_pool s e pc sup, thr_bump, thr_trsEvt, supCause, (power_sourceWake ..).thr]
    rfl

theorem thr_excAt (n : Nat) (e : Exc) (pc : BitVec 32) :
    (s.excAt n e pc).thr n = { faulted (s.thr n) e pc with pc := pc } := by
  rw [excAt, setPc, thr_setThr, thr_raiseExc, thr_stopped, if_pos rfl]

theorem thr_excAt_ne {n m : Nat} (e : Exc) (pc : BitVec 32) (other : m ≠ n) : (s.excAt n e pc).thr m = s.thr m := by
  rw [excAt, setPc, thr_setThr_ne _ _ other, thr_raiseExc, thr_stopped, if_neg other]

theorem reg_excAt (n : Nat) (e : Exc) (pc : BitVec 32) (r : Reg) (i : Nat) : (s.excAt n e pc).reg r i = (s.raiseExc n e pc).reg r i :=
  reg_setThr ..

/-- The supervisor's exception is a fault event of its Truss. -/
theorem faultClass_truss {k : Nat} (h : k < 12) : faultClass (BitVec.ofNat 8 (trussSrc k)) (BitVec.ofNat 8 0x02) = some .ucc := by
  interval_cases k <;> rfl

theorem fld_excAt (n : Nat) (e : Exc) (pc : BitVec 32) (f : Fld) (i : Nat) : (s.excAt n e pc).fld f i = (s.raiseExc n e pc).fld f i :=
  fld_setThr ..

theorem trussSrc_lt {k : Nat} (h : k < 12) : trussSrc k < 2 ^ 8 := by
  unfold trussSrc
  omega

/-- Settles O26: the thread's record, and what its Truss and the fault collector hold of the exception. -/
theorem exceptionRecord : Obligations.ExceptionRecord := by
  unfold Obligations.ExceptionRecord
  intro s n e pc k t
  have small : k < 12 := by omega
  refine ⟨thr_excAt s n.val e pc, fun m other => thr_excAt_ne s e pc other, MemoryFrame.sameMemory_iff.2 (MemoryFrame.memory_excAt ..),
    fun pool => ?_, fun sup => ?_⟩
  · refine ⟨?_, ?_, ?_⟩
    · rw [reg_excAt, raiseExc_pool s e pc pool, reg_bump_other _ (by decide)]
      exact event_trsEvt _ _ (by decide)
    · rw [fld_excAt, raiseExc_pool s e pc pool, fld_bump_other _ (by decide), trsEvt, fld_setEvt_other _ (by decide), supCause,
        (keeps_sourceWake ..).fld _ _ (by decide), fld_setFld_self _ (by decide)]
      rfl
    · rw [fld_excAt, raiseExc_pool s e pc pool, fld_bump_self _ (by decide), trsEvt, fld_setEvt_other _ (by decide), supCause,
        (keeps_sourceWake ..).fld _ _ (by decide), fld_setFld_other _ (by decide), fld, reg_stopped]
      rfl
  · have told := raiseExc_supervisor s e pc sup
    refine ⟨?_, fun on free => ?_⟩
    · rw [reg_excAt, told, (calm_raise ..).reg .TRS_EVT _ (by decide)]
      exact event_trsEvt _ _ (by decide)
    · have on' : ((stopped s n.val e pc).trsEvt k 1).coreOff = false := by
        rw [trsEvt, setEvt_frame, stopped, setThr_frame, leaveWaits_frame]
        exact on
      have free' : ((stopped s n.val e pc).trsEvt k 1).fld F.FCU_CAP_VALID 1 = 0 := by
        rw [trsEvt, fld_setEvt_other _ (by decide), fld, reg_stopped]
        exact free
      have recorded := FaultEvents.recorded_capture _ .ucc
        ⟨BitVec.ofNat 8 (trussSrc k), BitVec.ofNat 8 0x02, BitVec.ofNat 64 (thrFault ((stopped s n.val e pc).thr n.val)).toNat⟩ free'
      rw [← FaultEvents.faultEv_listed _ _ _ on' (faultClass_truss small)] at recorded
      obtain ⟨valid, source, code, -, -, -⟩ := recorded
      refine ⟨?_, ?_, ?_⟩
      · rw [fld_excAt, told]
        exact valid
      · rw [fld_excAt, told]
        exact code
      · rw [fld_excAt, told]
        exact source.trans (Nat.mod_eq_of_lt (trussSrc_lt small))

end Sys2Proof.Machine.Exceptions
end

section
/-!
PROOFS. The frames of the small operations: which registers they can change, and that they change nothing else but what a vector does.
-/

namespace Sys2Proof.Machine.Frames
open State Fields

/-! ### Nothing but signals -/

theorem signals_trans {s t u : State} (first : s.OnlySignals t) (then_ : t.OnlySignals u) : s.OnlySignals u := by
  refine Eq.trans then_ ?_
  rw [first]

variable (s : State)

theorem only_refl : s.OnlySignals s := rfl
theorem only_setReg (r : Reg) (i : Nat) (w : Word) : s.OnlySignals (s.setReg r i w) := rfl
theorem only_setFld (f : Fld) (i v : Nat) : s.OnlySignals (s.setFld f i v) := rfl
theorem only_bump (f : Fld) (i k : Nat) : s.OnlySignals (s.bump f i k) := rfl
theorem only_emit (o : Out) : s.OnlySignals (s.emit o) := rfl
theorem only_endCmd (f g : Fld) (i c : Nat) (q : Seq) : s.OnlySignals (s.endCmd f g i c q) := rfl
theorem only_setEvt (evt en vec : Reg) (i b : Nat) : s.OnlySignals (s.setEvt evt en vec i b) := setEvt_frame s ..
theorem only_msixSend (f : Fn) (v : Nat) : s.OnlySignals (s.msixSend f v) := msixSend_frame s ..
theorem only_mfVector (v : Nat) : s.OnlySignals (s.mfVector v) := mfVector_frame s ..

/-! ### Which registers -/

theorem but_refl : s.RegsBut s [] := fun _ _ _ => rfl

variable {s} in
theorem but_trans {t u : State} {l l' : List (Reg × Nat)} (h : s.RegsBut t l) (g : t.RegsBut u l') : s.RegsBut u (l ++ l') := fun r i out => by
  rw [List.mem_append, not_or] at out
  rw [g r i out.2, h r i out.1]

variable {s} in
theorem but_mono {t : State} {l l' : List (Reg × Nat)} (h : s.RegsBut t l) (sub : l ⊆ l') : s.RegsBut t l' :=
  fun r i out => h r i fun i => out (sub i)

variable {s} in
theorem but_congr {t u : State} {l : List (Reg × Nat)} (h : s.RegsBut t l) (kept : u.regs = t.regs) : s.RegsBut u l := fun r i out =>
  (reg_congr kept r i).trans (h r i out)

theorem but_setReg (r : Reg) (i : Nat) (w : Word) : s.RegsBut (s.setReg r i w) [(r, i)] := fun r' j out =>
  s.reg_setReg_ne w (Classical.not_and_iff_not_or_not.1 (by simpa using out))

theorem but_setFld (f : Fld) (i v : Nat) : s.RegsBut (s.setFld f i v) [(f.reg, i)] := but_setReg s _ i _
theorem but_bump (f : Fld) (i k : Nat) : s.RegsBut (s.bump f i k) [(f.reg, i)] := but_setReg s _ i _

theorem but_endCmd (f g : Fld) (i c : Nat) (q : Seq) : s.RegsBut (s.endCmd f g i c q) [(f.reg, i), (g.reg, i)] :=
  but_trans (but_setFld s f i c) (but_setFld _ g i _)

theorem but_msixSend (f : Fn) (v : Nat) : s.RegsBut (s.msixSend f v) [(.HEP_DROP_CNT, 0)] := fun r i out => by
  unfold msixSend
  dsimp only
  split
  · rfl
  · split
    · rfl
    · split
      · exact but_bump s F.HEP_DROP_CNT_COUNT 0 1 r i out
      · split
        · rfl
        · split <;> rfl

theorem but_mfVector (v : Nat) : s.RegsBut (s.mfVector v) [(.HEP_DROP_CNT, 0)] := by
  unfold mfVector
  split
  · exact fun _ _ _ => rfl
  · exact but_msixSend s .mf v

theorem but_setEvt (evt en vec : Reg) (i b : Nat) : s.RegsBut (s.setEvt evt en vec i b) [(evt, i), (.HEP_DROP_CNT, 0)] := by
  unfold setEvt
  dsimp only
  split
  · exact but_trans (but_setReg s evt i _) (but_mfVector _ _)
  · exact but_mono (but_setReg s evt i _) (by simp)

/-! ### Messages that are sent again -/

theorem only_foldl {A : Type} (f : State → A → State) (h : ∀ (u : State) a, u.OnlySignals (f u a)) (L : List A) : s.OnlySignals (L.foldl f s) := by
  induction L generalizing s with
  | nil => rfl
  | cons a L ih => exact signals_trans (h s a) (ih _)

theorem but_foldl {A : Type} {l : List (Reg × Nat)} (f : State → A → State) (h : ∀ (u : State) a, u.RegsBut (f u a) l) (L : List A) :
    s.RegsBut (L.foldl f s) l := by
  induction L generalizing s with
  | nil => exact fun _ _ _ => rfl
  | cons a L ih => exact but_mono (but_trans (h s a) (ih _)) (by simp)

theorem only_retryAllMsix : s.OnlySignals s.retryAllMsix := by
  have resent := only_foldl { s with msixWait := [] } (fun u (x : Fn × Nat) => u.msixSend x.1 x.2) (fun u x => only_msixSend u x.1 x.2) s.msixWait
  exact signals_trans (t := { s with msixWait := [] }) rfl resent

theorem but_retryAllMsix : s.RegsBut s.retryAllMsix [(.HEP_DROP_CNT, 0)] :=
  but_foldl { s with msixWait := [] } (fun u (x : Fn × Nat) => u.msixSend x.1 x.2) (fun u x => but_msixSend u x.1 x.2) s.msixWait

end Sys2Proof.Machine.Frames
end

section
/-!
PROOFS. The safe-state commands (R465, R468, R472, R475).
-/

namespace Sys2Proof.Machine.SafeState
open State Fields Frames

variable (s : State)

/-! ### The end of a command -/

theorem safeEnd_cases (q : Seq) (code : Nat) :
    s.OnlySignals (s.safeEnd q code) ∧ s.RegsBut (s.safeEnd q code) [(.FCU_SAFE_STATUS, 0), (.FCU_EVT, 0), (.HEP_DROP_CNT, 0)] := by
  have but := but_endCmd s F.FCU_SAFE_STATUS_LAST_RESULT F.FCU_SAFE_STATUS_LAST_SEQ 0 code q
  unfold safeEnd
  dsimp only
  split
  · exact ⟨signals_trans (only_endCmd ..) (only_setEvt ..), but_mono (but_trans but (but_setEvt _ _ _ _ _ _)) (by decide)⟩
  · exact ⟨only_endCmd .., but_mono but (by decide)⟩

theorem safeEnd_busy (q : Seq) (code : Nat) (busy : s.fld F.FCU_SAFE_STATUS_STATE 0 ≠ 0) :
    s.safeEnd q code = s.endCmd F.FCU_SAFE_STATUS_LAST_RESULT F.FCU_SAFE_STATUS_LAST_SEQ 0 code q := by
  unfold safeEnd
  dsimp only
  rw [fld_endCmd_apart s (by decide) (by decide), if_neg (by simpa using busy)]

/-- SAFE_STATUS as a command's end leaves it: result and SEQ, and the other fields as they were. -/
theorem reg_safeEnd (q : Seq) (code : Nat) : (s.safeEnd q code).reg .FCU_SAFE_STATUS 0 =
    (s.endCmd F.FCU_SAFE_STATUS_LAST_RESULT F.FCU_SAFE_STATUS_LAST_SEQ 0 code q).reg .FCU_SAFE_STATUS 0 := by
  unfold safeEnd
  dsimp only
  split
  · exact reg_setEvt_other _ (by decide)
  · rfl

theorem fld_safeEnd {f : Fld} (status : f.reg = .FCU_SAFE_STATUS) (q : Seq) (code : Nat) : (s.safeEnd q code).fld f 0 =
    (s.endCmd F.FCU_SAFE_STATUS_LAST_RESULT F.FCU_SAFE_STATUS_LAST_SEQ 0 code q).fld f 0 := by
  rw [fld, fld, status, reg_safeEnd]

theorem ended_safeEnd (q : Seq) {code : Nat} (h : code < 256) :
    (s.safeEnd q code).Ended F.FCU_SAFE_STATUS_LAST_RESULT F.FCU_SAFE_STATUS_LAST_SEQ 0 code q := by
  rw [Ended, fld_safeEnd s rfl, fld_safeEnd s rfl]
  exact fld_endCmd s (by decide) (by decide) (by decide) rfl h

/-- STATE, CAUSE, SELF_FAULT and SELF_REG are kept at a command's end. -/
theorem fld_safeEnd_apart {f : Fld} (status : f.reg = .FCU_SAFE_STATUS) (apart : f.lo + f.width ≤ 8 ∨ 32 ≤ f.lo) (q : Seq) (code : Nat) :
    (s.safeEnd q code).fld f 0 = s.fld f 0 := by
  rw [fld_safeEnd s status]
  refine fld_endCmd_apart s ⟨by decide, ?_⟩ ⟨by decide, ?_⟩ <;> simp only [F.FCU_SAFE_STATUS_LAST_RESULT, F.FCU_SAFE_STATUS_LAST_SEQ] <;> omega

/-! ### LEAVE -/

/-- Nothing waits for the device to run again but messages. -/
structure Quiet : Prop where
  queues : s.queues = []
  stalled : s.stalled = []
  walks : s.walks = []
  tblEv : s.tblEv = []
  evOver : s.evOver = []
  tblRun : s.tblRun = []
  dmaCh : s.dmaCh = []
  cplDue : s.cplDue = []

variable {s} in
theorem Quiet.of_signals {t : State} (h : Quiet s) (only : s.OnlySignals t) : Quiet t := by
  obtain ⟨queues, stalled, walks, tblEv, evOver, tblRun, dmaCh, cplDue⟩ := h
  rw [only]
  exact ⟨queues, stalled, walks, tblEv, evOver, tblRun, dmaCh, cplDue⟩

variable {s} in
theorem retryStalled_none (walks : s.walks = []) (stalled : s.stalled = []) : s.retryStalled = s := by
  have same (u : State) (h : u.walks = []) (g : u.stalled = []) : { u with walks := [], stalled := [] } = u := by
    cases u
    cases h
    cases g
    rfl
  rw [retryStalled, walks]
  simp only [List.foldl_nil]
  rw [stalled, List.foldl_nil]
  exact same s walks stalled

section
variable {s} (quiet : Quiet s)
include quiet

theorem resumeHosts_quiet : s.resumeHosts = s.retryAllMsix := by
  have cpl : s.retryCpl (fun _ => true) = s := by rw [retryCpl, quiet.cplDue]; rfl
  have spans : s.eventSpans = [] := by rw [eventSpans, quiet.queues]; rfl
  have still := retryStalled_none quiet.walks quiet.stalled
  unfold resumeHosts
  dsimp only
  rw [cpl, spans, List.foldl_nil, still]

theorem trun_quiet (p : Nat) : s.trun p = {} := by
  rw [trun, quiet.tblRun]
  rfl

theorem ringsGoOn_quiet : s.ringsGoOn = s := by
  have fetch (p : Nat) : s.cmdqFetch p = s := by
    unfold cmdqFetch
    dsimp only
    rw [trun_quiet quiet]
    exact if_pos (by simp)
  have all (L : List Nat) : L.foldl (fun u p => u.cmdqFetch p) s = s := by
    induction L with
    | nil => rfl
    | cons p L ih => rw [List.foldl_cons, fetch, ih]
  unfold ringsGoOn
  dsimp only
  rw [all, quiet.dmaCh]
  rfl

theorem evDrain_quiet (p : Nat) : s.evDrain p (SMap.get [] s.tblEv p) = s := by
  have spilled : s.evOverflow p = s := by
    unfold evOverflow
    dsimp only
    rw [quiet.evOver]
    rfl
  have empty : { s with tblEv := SMap.put [] s.tblEv p [] } = s := by
    have none_ : SMap.put [] s.tblEv p [] = s.tblEv := by rw [quiet.tblEv]; rfl
    rw [none_]
  have waiting : SMap.get [] s.tblEv p = [] := by rw [quiet.tblEv]; rfl
  unfold evDrain
  split
  · rw [waiting, evDrainOn, spilled, empty]
  · exact empty

theorem cmdqNop_quiet (p : Nat) : s.cmdqNop p = s := by
  unfold cmdqNop
  rw [trun_quiet quiet]

theorem tables_quiet (L : List Nat) : L.foldl (fun t p => (t.evDrain p (SMap.get [] t.tblEv p)).cmdqNop p) s = s := by
  induction L with
  | nil => rfl
  | cons p L ih => rw [List.foldl_cons, evDrain_quiet quiet, cmdqNop_quiet quiet, ih]

end

/-- The state in which LEAVE ends. -/
def left (q : Seq) : State := (s.setFld F.FCU_SAFE_STATUS_STATE 0 0).safeEnd q 0

theorem exec_leave_quiet (q : Seq) (safe : s.fld F.FCU_SAFE_STATUS_STATE 0 = 2) (sound : s.fld F.FCU_SAFE_STATUS_SELF_FAULT 0 = 0)
    (quiet : Quiet s) : exec (.leave q) s = .next (left s q).retryAllMsix := by
  have before : Quiet (left s q) := quiet.of_signals (signals_trans (only_setFld ..) (safeEnd_cases ..).1)
  have after : Quiet (left s q).retryAllMsix := before.of_signals (only_retryAllMsix _)
  change execLeave q s = _
  unfold execLeave
  rw [if_neg (by simp [isSafe, safe]), if_neg (by simp [flag, sound])]
  dsimp only
  rw [← left, resumeHosts_quiet before, ringsGoOn_quiet after, tables_quiet after]

theorem event_left (q : Seq) : (left s q).Event .FCU_EVT 0 3 := by
  unfold left safeEnd
  dsimp only
  rw [if_pos]
  · exact event_setEvt _ (by decide)
  · rw [fld_endCmd_apart _ (by decide) (by decide), fld_setFld_self _ (by decide)]
    rfl

/-! ### SCRUB -/

/-- The capture, count and event registers of SCRUB. -/
theorem scrubbed_reg (r : Reg) (hr : r ∈ [Reg.FCU_CAP, .FCU_DETAIL, .FCU_TIME, .FCU_CNT]) {i : Nat} (hi : i < 3) :
    (((s.scrubClass 0).scrubClass 1).scrubClass 2).reg r i = 0 := by
  simp only [List.mem_cons, List.not_mem_nil, or_false] at hr
  rcases hr with rfl | rfl | rfl | rfl <;> interval_cases i <;> simp [scrubClass, reg_setReg_if]

/-- What SCRUB has rewritten before it reports, with the registers whose parity is bad afterwards. -/
def scrubbed (bad : List Nat) : State :=
  { (((s.scrubClass 0).scrubClass 1).scrubClass 2).setReg .FCU_EVT 0 0 with fcuBad := bad }

theorem fld_scrubbed (bad : List Nat) {f : Fld} (status : f.reg = .FCU_SAFE_STATUS) : (scrubbed s bad).fld f 0 = s.fld f 0 := by
  unfold scrubbed fld
  change getBits ((((s.scrubClass 0).scrubClass 1).scrubClass 2).setReg .FCU_EVT 0 0 |>.reg f.reg 0) _ _ = _
  rw [status]
  simp (disch := decide) [scrubClass]

theorem exec_scrub (q : Seq) (bad : Option (BitVec 16)) (safe : s.fld F.FCU_SAFE_STATUS_STATE 0 = 2) : exec (.scrub q bad) s = .next
    (match (s.fcuBad.filter scrubKeeps.contains ++ bad.toList.map BitVec.toNat).head? with
      | none => ((scrubbed s (s.fcuBad.filter scrubKeeps.contains ++ bad.toList.map BitVec.toNat)).setFld F.FCU_SAFE_STATUS_SELF_FAULT 0 0).safeEnd q 0
      | some r => (((scrubbed s (s.fcuBad.filter scrubKeeps.contains ++ bad.toList.map BitVec.toNat)).setFld F.FCU_SAFE_STATUS_SELF_FAULT 0 1).setFld
          F.FCU_SAFE_STATUS_SELF_REG 0 r).safeEnd q 3) := by
  change execScrub q bad s = _
  unfold execScrub
  rw [if_neg (by simp [isSafe, safe])]
  rfl

/-- SCRUB that finds bad parity at `r` names it. -/
theorem scrub_fails (q : Seq) (bad : Option (BitVec 16)) {r : Nat} (safe : s.fld F.FCU_SAFE_STATUS_STATE 0 = 2)
    (found : (s.fcuBad.filter scrubKeeps.contains ++ bad.toList.map BitVec.toNat).head? = some r) (small : r < 2 ^ 16) :
    ∃ t, exec (.scrub q bad) s = .next t ∧ t.Ended F.FCU_SAFE_STATUS_LAST_RESULT F.FCU_SAFE_STATUS_LAST_SEQ 0 3 q ∧
      t.fld F.FCU_SAFE_STATUS_SELF_FAULT 0 = 1 ∧ t.fld F.FCU_SAFE_STATUS_SELF_REG 0 = r := by
  have ends := exec_scrub s q bad safe
  rw [found] at ends
  refine ⟨_, ends, ended_safeEnd _ q (by decide), ?_, ?_⟩
  · rw [fld_safeEnd_apart _ rfl (by decide), fld_setFld_apart _ (by decide), fld_setFld_self _ (by decide)]
    rfl
  · rw [fld_safeEnd_apart _ rfl (by decide), fld_setFld_self _ (by decide)]
    exact Nat.mod_eq_of_lt small

theorem scrub_clean (q : Seq) (safe : s.fld F.FCU_SAFE_STATUS_STATE 0 = 2) (none_ : s.fcuBad.filter scrubKeeps.contains = []) :
    ∃ t, exec (.scrub q none) s = .next t ∧ t.Ended F.FCU_SAFE_STATUS_LAST_RESULT F.FCU_SAFE_STATUS_LAST_SEQ 0 0 q ∧
      t.fld F.FCU_SAFE_STATUS_SELF_FAULT 0 = 0 ∧ t.reg .FCU_EVT 0 = 0 ∧ t.fcuBad = [] ∧
      ∀ i, i < 3 → t.reg .FCU_CAP i = 0 ∧ t.reg .FCU_DETAIL i = 0 ∧ t.reg .FCU_TIME i = 0 ∧ t.reg .FCU_CNT i = 0 := by
  have ends : exec (.scrub q none) s = .next (((scrubbed s []).setFld F.FCU_SAFE_STATUS_SELF_FAULT 0 0).safeEnd q 0) := by
    rw [exec_scrub s q none safe, none_]
    rfl
  have state : ((scrubbed s []).setFld F.FCU_SAFE_STATUS_SELF_FAULT 0 0).fld F.FCU_SAFE_STATUS_STATE 0 ≠ 0 := by
    rw [fld_setFld_apart _ (by decide), fld_scrubbed s _ rfl, safe]
    decide
  have kept (r : Reg) (i : Nat) (other : r ≠ .FCU_SAFE_STATUS) :
      (((scrubbed s []).setFld F.FCU_SAFE_STATUS_SELF_FAULT 0 0).safeEnd q 0).reg r i =
        ((((s.scrubClass 0).scrubClass 1).scrubClass 2).setReg .FCU_EVT 0 0).reg r i := by
    rw [safeEnd_busy _ q 0 state, reg_endCmd_other _ ⟨other, other⟩, reg_setFld_other _ other]
    rfl
  refine ⟨_, ends, ended_safeEnd _ q (by decide), ?_, ?_, ?_, fun i hi => ?_⟩
  · rw [fld_safeEnd_apart _ rfl (by decide), fld_setFld_self _ (by decide)]
    rfl
  · exact (kept .FCU_EVT 0 (by decide)).trans (reg_setReg _ _ _ _)
  · exact congrArg State.fcuBad (safeEnd_busy _ q 0 state)
  · refine ⟨?_, ?_, ?_, ?_⟩ <;>
      exact (kept _ i (by decide)).trans ((reg_setReg_other _ (by decide)).trans (scrubbed_reg s _ (by decide) hi))

/-! ### ENTER and the collector's own parity error -/

theorem enterSafe_running {cause : Nat} (run : s.fld F.FCU_SAFE_STATUS_STATE 0 = 0) :
    s.enterSafe cause = (s.setFld F.FCU_SAFE_STATUS_STATE 0 2).setFld F.FCU_SAFE_STATUS_CAUSE 0 cause := by
  unfold enterSafe
  rw [run]
  rfl

theorem swapping_iff : s.swapping = true ↔ s.fld F.CFG_STATUS_STATE 0 = 3 ∨ s.fld F.CFG_STATUS_STATE 0 = 4 := by
  simp [swapping]

/-- The device with the mark of a parity error in FCU register `r`. -/
def marked (r : BitVec 16) : State :=
  ({ s with fcuBad := s.fcuBad.filter (· ≠ r.toNat) ++ [r.toNat] }.setFld F.FCU_SAFE_STATUS_SELF_FAULT 0 1).setFld F.FCU_SAFE_STATUS_SELF_REG 0 r.toNat

theorem exec_selfFault_running (r : BitVec 16) (run : s.fld F.FCU_SAFE_STATUS_STATE 0 = 0) (steady : s.swapping = false) :
    exec (.selfFault r) s = .next (marked ((s.setFld F.FCU_SAFE_STATUS_STATE 0 2).setFld F.FCU_SAFE_STATUS_CAUSE 0 2) r) := by
  have unsafe_ : s.isSafe = false := by simp [isSafe, run]
  have state : s.cfgState ≠ 4 := fun e => by simp [(swapping_iff s).2 (.inr e)] at steady
  change execSelf r s = _
  unfold execSelf selfFault
  dsimp only
  rw [if_neg state, unsafe_, steady, enterSafe_running s run]
  rfl

theorem fld_marked {f : Fld} (r : BitVec 16) (apart : f.reg = .FCU_SAFE_STATUS ∧ f.lo + f.width ≤ 4) : (marked s r).fld f 0 = s.fld f 0 := by
  unfold marked
  rw [fld_setFld_apart _ ⟨by decide, .inl (by have := apart.2; simp only [F.FCU_SAFE_STATUS_SELF_REG]; omega)⟩,
    fld_setFld_apart _ ⟨by decide, .inl (by have := apart.2; simp only [F.FCU_SAFE_STATUS_SELF_FAULT]; omega)⟩]
  rfl

theorem self_marked (r : BitVec 16) : r.toNat ∈ (marked s r).fcuBad ∧ (marked s r).fld F.FCU_SAFE_STATUS_SELF_FAULT 0 = 1 ∧
    (marked s r).fld F.FCU_SAFE_STATUS_SELF_REG 0 = r.toNat := by
  refine ⟨List.mem_append_right _ (List.mem_singleton.2 rfl), ?_, ?_⟩
  · unfold marked
    rw [fld_setFld_apart _ (by decide), fld_setFld_self _ (by decide)]
    rfl
  · exact (fld_setFld_self _ (by decide)).trans (Nat.mod_eq_of_lt r.isLt)

/-! ### The obligation -/

theorem isSafe_ne {st : Nat} (at_ : s.fld F.FCU_SAFE_STATUS_STATE 0 = st) (h : st ≠ 2) : s.isSafe = false := by
  simp [isSafe, at_, h]

/-- LEAVE and SCRUB outside SAFE end with NOT_SAFE. -/
theorem notSafe (c : Instr) (q : Seq) (h : c = .leave q ∨ c = .scrub q none) (other : s.fld F.FCU_SAFE_STATUS_STATE 0 ≠ 2) :
    exec c s = .next (s.safeEnd q 2) := by
  have off := isSafe_ne s rfl other
  rcases h with rfl | rfl
  · change execLeave q s = _
    unfold execLeave
    rw [off]
    rfl
  · change execScrub q none s = _
    unfold execScrub
    rw [off]
    rfl

/-- Settles O28: each safe-state command in and outside its state, and what it leaves. -/
theorem safeStateCommands : Obligations.SafeStateCommands := by
  unfold Obligations.SafeStateCommands
  intro s q r st ended kept
  have steady (h3 : s.fld F.CFG_STATUS_STATE 0 ≠ 3) (h4 : s.fld F.CFG_STATUS_STATE 0 ≠ 4) : s.swapping = false := by simp [swapping, h3, h4]
  refine ⟨⟨_, rfl, ⟨rfl, but_setFld s F.FCU_PIN_PULSE 0 0⟩, fld_setFld_self _ (by decide), fld_setFld_apart _ (by decide)⟩,
    fun run h3 h4 => ?_, fun run busy => ?_, fun pending => ?_,
    fun safe sound queues stalled walks msixWait tblEv evOver tblRun dmaCh shadow cplDue => ?_, fun safe broken => ?_, fun other => ?_,
    scrub_clean s q, fun safe none_ => ?_, fun k l safe found => ?_, fun run h3 h4 => ?_⟩
  · have enters : exec (.enter q) s = .next ((s.enterSafe 1).safeEnd q 0) := by
      change execEnter q s = _
      unfold execEnter
      rw [show s.fld F.FCU_SAFE_STATUS_STATE 0 = 0 from run, steady h3 h4]
      rfl
    have state : ((s.setFld F.FCU_SAFE_STATUS_STATE 0 2).setFld F.FCU_SAFE_STATUS_CAUSE 0 1).fld F.FCU_SAFE_STATUS_STATE 0 = 2 := by
      rw [fld_setFld_apart _ (by decide), fld_setFld_self _ (by decide)]
      rfl
    rw [enterSafe_running s run] at enters
    refine ⟨_, enters, ?_, ?_, ?_, ended_safeEnd _ q (by decide)⟩
    · rw [safeEnd_busy _ q 0 (by rw [state]; decide)]
      exact ⟨rfl, but_mono (but_trans (but_trans (but_setFld s _ 0 2) (but_setFld _ _ 0 1)) (but_endCmd _ _ _ 0 0 q)) (by decide)⟩
    · exact (fld_safeEnd_apart _ rfl (by decide) q 0).trans state
    · rw [fld_safeEnd_apart _ rfl (by decide), fld_setFld_self _ (by decide)]
      rfl
  · have enters : exec (.enter q) s = .next { s.setFld F.FCU_SAFE_STATUS_STATE 0 1 with enterSeq := q } := by
      change execEnter q s = _
      unfold execEnter
      rw [show s.fld F.FCU_SAFE_STATUS_STATE 0 = 0 from run, (swapping_iff s).2 busy]
      rfl
    exact ⟨_, enters, fld_setFld_self s (by decide), rfl, but_setFld s F.FCU_SAFE_STATUS_STATE 0 1⟩
  · have enters : exec (.enter q) s = .next (s.safeEnd q 1) := by
      change execEnter q s = _
      unfold execEnter
      rw [show s.fld F.FCU_SAFE_STATUS_STATE 0 = 1 from pending]
      rfl
    exact ⟨_, enters, ended_safeEnd s q (by decide), (fld_safeEnd_apart s rfl (by decide) q 1).trans pending⟩
  · have only := (safeEnd_cases (s.setFld F.FCU_SAFE_STATUS_STATE 0 0) q 0)
    have events := event_left s q
    refine ⟨_, exec_leave_quiet s q safe sound ⟨queues, stalled, walks, tblEv, evOver, tblRun, dmaCh, cplDue⟩,
      signals_trans (signals_trans (only_setFld ..) only.1) (only_retryAllMsix _),
      but_mono (but_trans (but_trans (but_setFld s _ 0 0) only.2) (but_retryAllMsix _)) (by decide), ?_, ?_,
      event_congr (but_retryAllMsix _ _ _ (by decide)) events⟩
    · rw [fld, but_retryAllMsix _ _ _ (by decide), ← fld]
      exact (fld_safeEnd_apart _ rfl (by decide) q 0).trans (fld_setFld_self _ (by decide))
    · obtain ⟨result, seq⟩ := ended_safeEnd (s.setFld F.FCU_SAFE_STATUS_STATE 0 0) q (code := 0) (by decide)
      constructor
      · rw [fld, but_retryAllMsix _ _ _ (by decide)]
        exact result
      · rw [fld, but_retryAllMsix _ _ _ (by decide)]
        exact seq
  · have refused : exec (.leave q) s = .next (s.safeEnd q 3) := by
      change execLeave q s = _
      unfold execLeave
      rw [if_neg (by simp [isSafe, show s.fld F.FCU_SAFE_STATUS_STATE 0 = 2 from safe]), if_pos (by simp [flag, broken])]
    refine ⟨_, refused, ?_, (fld_safeEnd_apart s rfl (by decide) q 3).trans safe, ended_safeEnd s q (by decide)⟩
    rw [safeEnd_busy s q 3 (by rw [show s.fld F.FCU_SAFE_STATUS_STATE 0 = 2 from safe]; decide)]
    exact ⟨rfl, but_mono (but_endCmd s _ _ 0 3 q) (by decide)⟩
  · exact ⟨_, _, notSafe s _ q (.inl rfl) other, notSafe s _ q (.inr rfl) other, ended_safeEnd s q (by decide), ended_safeEnd s q (by decide),
      fld_safeEnd_apart s rfl (by decide) q 2, fld_safeEnd_apart s rfl (by decide) q 2⟩
  · exact scrub_fails s q (some r) safe (by rw [show s.fcuBad.filter scrubKeeps.contains = [] from none_]; rfl) r.isLt
  · have found' : s.fcuBad.filter scrubKeeps.contains = k :: l := found
    have keeps : k ∈ scrubKeeps := by
      have mem : k ∈ s.fcuBad.filter scrubKeeps.contains := found' ▸ List.mem_cons_self
      simpa using (List.mem_filter.1 mem).2
    have small : ∀ o ∈ scrubKeeps, o < 2 ^ 16 := by decide
    exact scrub_fails s q none safe (by rw [found']; rfl) (small k keeps)
  · obtain ⟨bad, fault, reg⟩ := self_marked ((s.setFld F.FCU_SAFE_STATUS_STATE 0 2).setFld F.FCU_SAFE_STATUS_CAUSE 0 2) r
    refine ⟨_, exec_selfFault_running s r run (steady h3 h4), ⟨rfl, ?_⟩, bad, ?_, ?_, fault, reg⟩
    · exact but_mono (but_trans (but_trans (but_setFld s _ 0 2) (but_setFld _ _ 0 2))
        (but_trans (but_setFld _ F.FCU_SAFE_STATUS_SELF_FAULT 0 1) (but_setFld _ F.FCU_SAFE_STATUS_SELF_REG 0 r.toNat))) (by decide)
    · rw [fld_marked _ r (by decide), fld_setFld_apart _ (by decide), fld_setFld_self _ (by decide)]
      rfl
    · rw [fld_marked _ r (by decide), fld_setFld_self _ (by decide)]
      rfl

end Sys2Proof.Machine.SafeState
end

section
/-!
PROOFS. Bay handover, power modes and the Manager's path to the scratchpad (R428, R436–R438, R440, R443).
-/

namespace Sys2Proof.Machine.Bays
open State Fields Frames

variable (s : State)

/-- What a key of a map reads as after the keys outside `p` have been unlisted. -/
theorem get_keep {V : Type} (d : V) (p : Nat → Bool) (m : SMap V) (k : Nat) : SMap.get d (SMap.keep p m) k = if p k then SMap.get d m k else d := by
  unfold SMap.get SMap.keep
  induction m with
  | nil => simp [SMap.find?]
  | cons e m ih =>
    obtain ⟨a, v⟩ := e
    by_cases kept : p a = true
    · simp only [List.filter_cons, kept, if_true, SMap.find?]
      split
      · next same => simp [same, kept]
      · exact ih
    · simp only [List.filter_cons, kept, Bool.false_eq_true, if_false]
      rw [ih, SMap.find?]
      by_cases same : k = a
      · subst same
        simp [kept]
      · rw [if_neg same]

/-! ### Bays -/

variable {s} in
/-- Of the Bays only `b` of Pier `p` differs. -/
theorem bay_of_setBay {t : State} {p b : Nat} {x : Bay} (h : b < 8) (kept : t.bays = (s.setBay p b x).bays) :
    t.bay p b = x ∧ ∀ p' b', (p' = p → b' ≠ b) → b' < 8 → t.bay p' b' = s.bay p' b' := by
  constructor
  · rw [bay, kept]
    exact bay_setBay ..
  · intro p' b' other small
    rw [bay, kept]
    exact SMap.get_put_ne _ _ _ _ (by omega)

theorem selBay_lt (p : Nat) : s.fld F.SPM_BAY_SEL_BAY p < 8 := getBits_lt ..

theorem bays_bayEnd (p b : Nat) (q : Seq) (code : Nat) : (s.bayEnd p b q code).bays = s.bays := by
  unfold bayEnd spmEvt
  rw [setEvt_frame]
  rfl

theorem only_bayEnd (p b : Nat) (q : Seq) (code : Nat) : s.OnlySignals (s.bayEnd p b q code) :=
  signals_trans (only_endCmd ..) (only_setEvt ..)

/-- A Bay command's end: result, SEQ and the event. -/
theorem ended_bayEnd (p b : Nat) (q : Seq) {code : Nat} (h : code < 256) :
    (s.bayEnd p b q code).Ended F.SPM_BAY_STATUS_LAST_RESULT F.SPM_BAY_STATUS_LAST_SEQ (8 * p + b) code q ∧
      (s.bayEnd p b q code).Event .SPM_EVT p 1 := by
  refine ⟨?_, event_setEvt _ (by decide)⟩
  unfold bayEnd spmEvt Ended
  rw [fld_setEvt_other _ (by decide), fld_setEvt_other _ (by decide)]
  exact fld_endCmd s (by decide) (by decide) (by decide) rfl h

/-! ### The commands -/

section
variable {p : Pier}

/-- A Bay that is in handover or in transition, or neither. -/
theorem unsettled_iff (x : Bay) : (x.handover.isSome || x.transit.isSome) = true ↔ ¬(x.handover = none ∧ x.transit = none) := by
  cases x.handover <;> cases x.transit <;> simp

theorem exec_handover (new expect : BitVec 16) (q : Seq) (open_ : s.regOpen .SPM_BAY_OWNER p.val = true) :
    exec (.bayHandover p new expect q) s = .next
      (if ((s.bay p.val (s.selBay p.val)).handover.isSome || (s.bay p.val (s.selBay p.val)).transit.isSome) = true
        then s.bayEnd p.val (s.selBay p.val) q 1
      else if expect ≠ (s.bay p.val (s.selBay p.val)).owner then s.bayEnd p.val (s.selBay p.val) q 2
      else if (State.ownerKind (s.bay p.val (s.selBay p.val)).owner == 1 && s.ownerLive (s.bay p.val (s.selBay p.val)).owner) = true then
        ((s.spmCap p.val (State.spmCapture (0x200000 * s.selBay p.val) 6 4 true State.ownerMf (s.bay p.val (s.selBay p.val)).owner)).raise
          (0x45 + 16 * p.val) 0x03 (s.selBay p.val + 2 ^ 16 * (s.bay p.val (s.selBay p.val)).owner.toNat)).bayEnd p.val (s.selBay p.val) q 3
      else if (s.bay p.val (s.selBay p.val)).pwr ≠ 0 ∧ State.bayNew p.val new ≠ State.ownerMf then s.bayEnd p.val (s.selBay p.val) q 4
      else s.setBay p.val (s.selBay p.val)
        { s.bay p.val (s.selBay p.val) with handover := some (State.bayNew p.val new, q, false) }) := by
  change execBayHandover p new expect q s = _
  unfold execBayHandover
  rw [onReg_open s _ _ _ _ open_]

theorem exec_pwrRequest (mode : BitVec 2) (q : Seq) (open_ : s.regOpen .SPM_BAY_PWR p.val = true) :
    exec (.bayPwrRequest p mode q) s = .next
      (if ((s.bay p.val (s.selBay p.val)).handover.isSome || (s.bay p.val (s.selBay p.val)).transit.isSome) = true
        then s.bayEnd p.val (s.selBay p.val) q 1
      else if (s.bay p.val (s.selBay p.val)).pwr = 0 ∧ (if mode = 3 then 0 else mode.toNat) ≠ 0 ∧
          (s.bay p.val (s.selBay p.val)).owner ≠ State.ownerMf then s.bayEnd p.val (s.selBay p.val) q 5
      else s.setBay p.val (s.selBay p.val)
        { s.bay p.val (s.selBay p.val) with transit := some (if mode = 3 then 0 else mode.toNat, q) }) := by
  change execBayPwrRequest p mode q s = _
  unfold execBayPwrRequest
  rw [onReg_open s _ _ _ _ open_]

/-- The kind of an owner is its top three bits. -/
theorem ownerKind_eq (o : BitVec 16) : State.ownerKind o = getBits (o.setWidth 64) 13 3 := by
  have small := o.isLt
  unfold State.ownerKind getBits
  rw [BitVec.toNat_ushiftRight, BitVec.toNat_setWidth, Nat.shiftRight_eq_div_pow]
  omega

variable {b : Fin 8}

/-- What HANDOVER_DONE leaves of a Bay in handover, but for the receiver's own result. -/
def handed (o : BitVec 16) (q : Seq) : State :=
  (s.setBay p.val b.val { s.bay p.val b.val with owner := o, handover := none }).bayEnd p.val b.val q 0

theorem exec_handoverDone {o : BitVec 16} {q : Seq} {rcv : Bool} (none_ : s.spmWait = [])
    (at_ : (s.bay p.val b.val).handover = some (o, q, rcv)) : exec (.handoverDone p b) s = .next
      (if rcv then (((handed s (p := p) (b := b) o q).setFld F.STU_RCV_STATUS_BUSY 0 0).endCmd F.STU_RCV_STATUS_RESULT F.STU_RCV_STATUS_LAST_SEQ 0 0 q).stuEvt 4
        else handed s (p := p) (b := b) o q) := by
  have waits (u : State) (h : u.spmWait = []) : u.spmWait.foldl State.spmResume { u with spmWait := [] } = u := by
    rw [h, List.foldl_nil, ← h]
  change execHandoverDone p b s = _
  unfold execHandoverDone
  dsimp only
  rw [at_]
  dsimp only
  rw [waits (s.setBay p.val b.val { s.bay p.val b.val with owner := o, handover := none }) none_]
  rfl

theorem exec_pwrDone {m : Nat} {q : Seq} (at_ : (s.bay p.val b.val).transit = some (m, q)) : exec (.bayPwrDone p b) s = .next
    (((if m = 2 ∨ ((s.bay p.val b.val).pwr = 2 ∧ m = 0) then s.zeroBay p.val b.val else s).setBay p.val b.val
      { s.bay p.val b.val with pwr := m, transit := none }).bayEnd p.val b.val q 0) := by
  change execBayPwrDone p b s = _
  unfold execBayPwrDone
  dsimp only
  rw [at_]

/-- Every word of a Bay that has been zeroed reads 0. -/
theorem spmWord_zeroBay {p b o : Nat} (hb : b < 8) (ho : o < 0x200000) : (s.zeroBay p b).spmWord p (0x200000 * b + o) = 0 := by
  refine (get_keep 0 (fun k => decide (k / 0x40000 ≠ 8 * p + b)) s.spm _).trans (if_neg ?_)
  unfold wordKey
  rw [decide_eq_true_eq, not_not]
  omega

end

/-! ### The Manager's path -/

section
variable {p : Pier} (data : s.regOpen .SPM_MGMT_DATA p.val = true)

theorem mgmtOff_lt (p : Nat) : s.mgmtOff p < 0x1000000 := by
  have word : s.fld F.SPM_MGMT_ADDR_WORD p < 2 ^ 21 := getBits_lt ..
  unfold mgmtOff
  omega

/-- The Bay of the word that the Manager's path names. -/
theorem bayOf_mgmtOff (p : Nat) : State.bayOf (s.mgmtOff p) = s.mgmtOff p / 0x200000 := by
  have := mgmtOff_lt s p
  unfold State.bayOf
  omega

section
variable (steady : (s.bay p.val (s.mgmtOff p.val / 0x200000)).handover = none)

include steady in
theorem bayHolds_steady : s.bayHolds p.val (s.mgmtOff p.val) State.ownerMf 6 = false := by
  unfold bayHolds
  rw [bayOf_mgmtOff]
  dsimp only
  rw [steady, Bool.and_false]

variable (on : (s.bay p.val (s.mgmtOff p.val / 0x200000)).pwr = 0) (settled : (s.bay p.val (s.mgmtOff p.val / 0x200000)).transit = none)

include steady on settled in
theorem bayAns_steady : s.bayAns p.val (s.mgmtOff p.val) State.ownerMf 6 =
    if (s.bay p.val (s.mgmtOff p.val / 0x200000)).owner = State.ownerMf then none else some 1 := by
  unfold bayAns
  rw [bayOf_mgmtOff]
  dsimp only
  rw [on, settled, steady]
  rfl

include data steady in
theorem exec_mgmtRead : exec (.spmMgmtRead p .ok) s = .next ((s.mgmtRead p.val .ok).2.emit (.readData (s.mgmtRead p.val .ok).1)) := by
  change execSpmMgmtRead p .ok s = _
  unfold execSpmMgmtRead
  rw [onRead_open s _ _ _ _ data, bayHolds_steady s steady]
  rfl

include steady on settled in
theorem mgmtRead_own (own : (s.bay p.val (s.mgmtOff p.val / 0x200000)).owner = State.ownerMf) (clean : s.spmBad p.val (s.mgmtOff p.val) = false) :
    s.mgmtRead p.val .ok = (s.spmWord p.val (s.mgmtOff p.val), s) := by
  unfold mgmtRead
  dsimp only
  rw [bayAns_steady s steady on settled, if_pos own]
  exact congrArg (Prod.mk _) (if_neg (fun c => by cases clean.symm.trans c))

include steady on settled in
theorem mgmtRead_refused (other : (s.bay p.val (s.mgmtOff p.val / 0x200000)).owner ≠ State.ownerMf) :
    s.mgmtRead p.val .ok = (0, s.spmRefuse p.val (s.mgmtOff p.val) State.ownerMf 6 1 false) := by
  unfold mgmtRead
  dsimp only
  rw [bayAns_steady s steady on settled, if_neg other]

include data steady on settled in
theorem exec_mgmtWrite (w : Word) : exec (.spmMgmtWrite p w) s = .next
    (if (s.bay p.val (s.mgmtOff p.val / 0x200000)).owner = State.ownerMf then s.setWord p.val (s.mgmtOff p.val) w
      else s.spmRefuse p.val (s.mgmtOff p.val) State.ownerMf 6 1 true) := by
  change execSpmMgmtWrite p w s = _
  unfold execSpmMgmtWrite
  rw [onReg_open s _ _ _ _ data]
  dsimp only
  rw [bayHolds_steady s steady, bayAns_steady s steady on settled]
  by_cases own : (s.bay p.val (s.mgmtOff p.val / 0x200000)).owner = State.ownerMf
  · rw [if_pos own, if_pos own]
    rfl
  · rw [if_neg own, if_neg own]
    rfl

end

theorem event_spmRefuse (p off : Nat) (a : BitVec 16) (m c : Nat) (w : Bool) : (s.spmRefuse p off a m c w).Event .SPM_EVT p 0 :=
  event_setEvt _ (by decide)

end

variable {s} in
theorem only_withBays {t : State} (m : SMap Bay) (only : s.OnlySignals t) :
    ({ s with bays := m } : State).OnlySignals { t with bays := m } := by
  unfold OnlySignals
  rw [only]

variable {s} in
theorem only_bays {t : State} (only : s.OnlySignals t) : t.bays = s.bays := by rw [only]

/-- The receiver's own result of an import changes neither the Bay's result nor its event. -/
theorem received_kept (q : Seq) : let t := ((s.setFld F.STU_RCV_STATUS_BUSY 0 0).endCmd F.STU_RCV_STATUS_RESULT F.STU_RCV_STATUS_LAST_SEQ 0 0 q).stuEvt 4
    s.OnlySignals t ∧ t.Ended F.STU_RCV_STATUS_RESULT F.STU_RCV_STATUS_LAST_SEQ 0 0 q ∧
      (∀ (f : Fld) i, f.reg = .SPM_BAY_STATUS → t.fld f i = s.fld f i) ∧ ∀ i, t.reg .SPM_EVT i = s.reg .SPM_EVT i := by
  have kept (r : Reg) (i : Nat) (other : r ≠ .HEP_DROP_CNT ∧ r ≠ .STU_EVT ∧ r ≠ .STU_RCV_STATUS) :
      (((s.setFld F.STU_RCV_STATUS_BUSY 0 0).endCmd F.STU_RCV_STATUS_RESULT F.STU_RCV_STATUS_LAST_SEQ 0 0 q).stuEvt 4).reg r i = s.reg r i := by
    rw [stuEvt, reg_setEvt_other _ ⟨other.1, other.2.1⟩, reg_endCmd_other _ ⟨other.2.2, other.2.2⟩, reg_setFld_other _ other.2.2]
  refine ⟨signals_trans (signals_trans (only_setFld ..) (only_endCmd ..)) (only_setEvt ..), ?_, fun f i status => ?_, fun i => kept .SPM_EVT i (by decide)⟩
  · unfold stuEvt Ended
    rw [fld_setEvt_other _ (by decide), fld_setEvt_other _ (by decide)]
    exact fld_endCmd _ (by decide) (by decide) (by decide) rfl (by decide)
  · rw [fld, fld, status, kept .SPM_BAY_STATUS i (by decide)]

theorem spm_bayEnd (p b : Nat) (q : Seq) (code : Nat) : (s.bayEnd p b q code).spm = s.spm := by
  rw [only_bayEnd]

/-- Settles O29: handover, power modes and the Manager's path, each with its refusals. -/
theorem bayCommands : Obligations.BayCommands := by
  unfold Obligations.BayCommands
  intro s p new expect mode q b w k x y off m settled data ended only
  have bayLt : k < 8 := selBay_lt s p.val
  have ends (code : Nat) (h : code < 256) (t : State) : s.bayEnd p.val k q code = t → s.OnlySignals t ∧ ended t k code q := by
    rintro rfl
    exact ⟨only_bayEnd .., ended_bayEnd s p.val k q h⟩
  have isUnsettled (h : ¬settled) : ((s.bay p.val (s.selBay p.val)).handover.isSome || (s.bay p.val (s.selBay p.val)).transit.isSome) = true :=
    (unsettled_iff _).2 h
  have isSettled (h : settled) : ¬((s.bay p.val (s.selBay p.val)).handover.isSome || (s.bay p.val (s.selBay p.val)).transit.isSome) = true :=
    fun c => (unsettled_iff _).1 c h
  refine ⟨fun open_ steady own notLive on => ?_, fun open_ steady wrong => ?_, fun open_ open' unsteady => ?_,
    fun o q' rcv none_ at_ => ?_, fun open_ steady may => ?_, fun q' at_ => ?_, fun q' at_ retained => ?_,
    fun open_ on settled' steady own => ⟨fun clean => ?_, ?_⟩, fun open_ other steady on settled' => ?_⟩
  · have live : ¬(State.ownerKind x.owner == 1 && s.ownerLive x.owner) = true := by
      rw [ownerKind_eq, Bool.and_eq_true, beq_iff_eq]
      rintro ⟨span, live⟩
      exact absurd (notLive span) (by rw [live]; decide)
    exact ⟨_, (exec_handover s new expect q open_).trans (congrArg Host.Outcome.next ((if_neg (isSettled steady)).trans
      ((if_neg (not_not.2 own)).trans ((if_neg live).trans (if_neg fun c => c.1 on))))), rfl, bay_of_setBay bayLt rfl⟩
  · exact ⟨_, (exec_handover s new expect q open_).trans (congrArg Host.Outcome.next ((if_neg (isSettled steady)).trans (if_pos wrong))),
      ends 2 (by decide) _ rfl⟩
  · have refused := (exec_handover s new expect q open_).trans (congrArg Host.Outcome.next (if_pos (isUnsettled unsteady)))
    have refused' := (exec_pwrRequest s mode q open').trans (congrArg Host.Outcome.next (if_pos (isUnsettled unsteady)))
    obtain ⟨onlySignals, result⟩ := ends 1 (by decide) _ rfl
    exact ⟨_, _, refused, refused', onlySignals, result, onlySignals, result⟩
  · have done := exec_handoverDone s none_ at_
    obtain ⟨result, event⟩ := ended_bayEnd (s.setBay p.val b.val { y with owner := o, handover := none }) p.val b.val q' (code := 0) (by decide)
    have bays : (handed s (p := p) (b := b) o q').bays = (s.setBay p.val b.val { y with owner := o, handover := none }).bays := bays_bayEnd ..
    have kept : s.OnlySignals { handed s (p := p) (b := b) o q' with bays := s.bays } :=
      only_withBays (s := s.setBay p.val b.val { y with owner := o, handover := none }) s.bays (only_bayEnd ..)
    cases rcv with
    | false => exact ⟨_, done, kept, bay_of_setBay b.isLt bays, ⟨result, event⟩, fun h => absurd h (by decide)⟩
    | true =>
      obtain ⟨only', received, status, evt⟩ := received_kept (handed s (p := p) (b := b) o q') q'
      refine ⟨_, done, signals_trans kept (only_withBays s.bays only'), bay_of_setBay b.isLt ?_, ⟨?_, event_congr (evt p.val) event⟩, fun _ => received⟩
      · exact (only_bays only').trans bays
      · exact ⟨(status F.SPM_BAY_STATUS_LAST_RESULT _ rfl).trans result.1, (status F.SPM_BAY_STATUS_LAST_SEQ _ rfl).trans result.2⟩
  · have may' : ¬(x.pwr = 0 ∧ (if mode = 3 then 0 else mode.toNat) ≠ 0 ∧ x.owner ≠ State.ownerMf) := by
      rintro ⟨on, mode', other⟩
      rcases may with h | h | h | h
      · exact h on
      · exact mode' (by rw [h]; rfl)
      · exact mode' (if_pos h)
      · exact other h
    exact ⟨_, (exec_pwrRequest s mode q open_).trans (congrArg Host.Outcome.next ((if_neg (isSettled steady)).trans (if_neg may'))), rfl,
      bay_of_setBay bayLt rfl⟩
  · have done := exec_pwrDone s at_
    rw [if_pos (.inl rfl)] at done
    refine ⟨_, done, ?_, ended_bayEnd _ p.val b.val q' (by decide), fun o small => ?_⟩
    · exact bay_of_setBay (s := s) b.isLt (by rw [bays_bayEnd]; rfl)
    · rw [spmWord, spm_bayEnd]
      exact spmWord_zeroBay s b.isLt small
  · have done := exec_pwrDone s at_
    rw [if_neg (by rw [show (s.bay p.val b.val).pwr = 1 from retained]; decide)] at done
    exact ⟨_, done, MemoryFrame.sameMemory_iff.2 (by simp [bayEnd, spmEvt]; rfl), bay_of_setBay b.isLt (bays_bayEnd ..), ended_bayEnd _ p.val b.val q' (by decide)⟩
  · rw [exec_mgmtRead s open_ steady, mgmtRead_own s steady on settled' own clean]
    rfl
  · have done := exec_mgmtWrite s open_ steady on settled' w
    refine ⟨_, done.trans (congrArg Host.Outcome.next (if_pos own)), rfl, spmWord_setWord .., spmBad_setWord .., fun p' o _ small other => ?_⟩
    exact spmWord_setWord_ne w false fun same => other ((Scratchpad.wordKey_eq_iff (mgmtOff_lt s p.val) small).1 same)
  · have reads := exec_mgmtRead s open_ steady
    have writes := exec_mgmtWrite s open_ steady on settled' w
    rw [mgmtRead_refused s steady on settled' other] at reads
    exact ⟨_, _, reads, writes.trans (congrArg Host.Outcome.next (if_neg other)), MemoryFrame.sameMemory_iff.2 (by simp), MemoryFrame.sameMemory_iff.2 (by simp), event_spmRefuse .., event_spmRefuse ..⟩

end Sys2Proof.Machine.Bays
end

section
/-!
PROOFS. What the buffer pool changes when it takes buffers back: records, its own registers, and what a vector changes (R255–R262).
-/

namespace Sys2Proof.Machine.Pool
open State Fields Frames

/-- Nothing differs but registers, values that wait, buffer records, and what an MSI-X vector changes. -/
def PoolOnly (s t : State) : Prop :=
  t = { s with regs := t.regs, shadow := t.shadow, recs := t.recs, msix := t.msix, msixWait := t.msixWait, out := t.out }

/-- The registers that the pool changes when buffers come back. -/
def poolRegs : List Reg := [.BPM_ACCT_USE, .BPM_POOL_WM, .BPM_ACCT_LIMIT, .BPM_POOL_STATUS, .BPM_POOL_CNT, .BPM_EVT, .HEP_DROP_CNT]

/-- The two frames together. -/
structure Takes (s t : State) : Prop where
  only : PoolOnly s t
  reg : ∀ r i, r ∉ poolRegs → t.reg r i = s.reg r i

theorem Takes.trans {s t u : State} (first : Takes s t) (then_ : Takes t u) : Takes s u where
  only := by
    refine Eq.trans then_.only ?_
    rw [first.only]
  reg r i other := (then_.reg r i other).trans (first.reg r i other)

variable (s : State)

theorem takes_refl : Takes s s := ⟨rfl, fun _ _ _ => rfl⟩

theorem takes_setFld (f : Fld) (i v : Nat) (own : f.reg ∈ poolRegs) : Takes s (s.setFld f i v) :=
  ⟨rfl, fun _ _ other => reg_setFld_other s fun e => other (e ▸ own)⟩

theorem takes_epoch (b : Boundary) (r : Reg) (i : Nat) (own : r ∈ poolRegs) : Takes s (s.epoch b r i) :=
  ⟨rfl, fun _ _ other => reg_epoch_other s fun e => other (e ▸ own)⟩

theorem takes_setEvt (evt en vec : Reg) (i b : Nat) (own : evt ∈ poolRegs) : Takes s (s.setEvt evt en vec i b) where
  only := by
    unfold PoolOnly
    rw [setEvt_frame]
  reg _ _ other := reg_setEvt_other s ⟨fun e => other (e ▸ by decide), fun e => other (e ▸ own)⟩

theorem takes_setRec (i : Nat) (x : BufRec) : Takes s (s.setRec i x) := ⟨rfl, fun _ _ _ => rfl⟩

theorem takes_bpmEpochs (p a : Nat) : Takes s (s.bpmEpochs p a) :=
  (takes_epoch s _ _ _ (by decide)).trans (takes_epoch _ _ _ _ (by decide))

theorem takes_poolWatch (p : Nat) : Takes s (s.poolWatch p) := by
  unfold poolWatch
  dsimp only
  split
  · exact ((takes_setFld s _ _ _ (by decide)).trans (takes_setFld _ F.BPM_POOL_CNT_XOFF_ENTRIES _ _ (by decide))).trans
      (takes_setEvt _ _ _ _ _ _ (by decide))
  · split
    · exact takes_setFld s _ _ _ (by decide)
    · exact takes_refl s

theorem takes_eraseRecs (l : List Nat) : Takes s (l.foldl (fun (t : State) j => { t with recs := SMap.erase t.recs j }) s) := by
  induction l generalizing s with
  | nil => exact takes_refl s
  | cons j l ih => exact Takes.trans (t := { s with recs := SMap.erase s.recs j }) ⟨rfl, fun _ _ _ => rfl⟩ (ih { s with recs := SMap.erase s.recs j })

theorem takes_freeChain (i : Nat) : Takes s (s.freeChain i) := by
  unfold freeChain
  dsimp only
  split
  · exact takes_refl s
  · have erased := (takes_eraseRecs s (s.chainOf 8 i)).trans (takes_setFld _ F.BPM_ACCT_USE_USE (s.bufRec i).account
      ((List.foldl (fun (t : State) j => { t with recs := SMap.erase t.recs j }) s (s.chainOf 8 i)).acctUse (s.bufRec i).account -
        (s.chainOf 8 i).length) (by decide))
    split
    · exact erased
    · exact erased.trans ((takes_bpmEpochs _ _ _).trans (takes_poolWatch _ _))

theorem takes_release (i : Nat) : Takes s (s.release i) := by
  unfold release
  dsimp only
  split
  · exact takes_refl s
  · split
    · exact takes_freeChain s i
    · split
      · exact takes_setRec s i _
      · exact takes_refl s

theorem takes_releaseOpt (o : Option Nat) : Takes s (s.releaseOpt o) := by
  cases o with
  | none => exact takes_refl s
  | some i => exact takes_release s i

variable {s} in
theorem Takes.queue {t : State} (h : Takes s t) (q : Nat) : t.queue q = s.queue q := by
  rw [h.only]
  rfl

end Sys2Proof.Machine.Pool
end

section
/-!
PROOFS. Queue commands and the queue's record (R167, R537).
-/

namespace Sys2Proof.Machine.Queues
open State Fields Frames Pool

variable (s : State)

/-! ### The record of a queue -/

theorem queue_congr {s t : State} (kept : t.queues = s.queues) (q : Nat) : t.queue q = s.queue q := by rw [queue, queue, kept]

/-- What `t` holds of the queues is what `s` holds, but for the count of frames that queue `q` has dropped. -/
structure DropsOnly (q : Nat) (s t : State) : Prop where
  own : ∃ d, t.queue q = { s.queue q with drops := d }
  others : ∀ j, j ≠ q → t.queue j = s.queue j

variable {s} in
theorem DropsOnly.trans {q : Nat} {t u : State} (h : DropsOnly q s t) (g : DropsOnly q t u) : DropsOnly q s u where
  own := by
    obtain ⟨d, own⟩ := h.own
    obtain ⟨d', own'⟩ := g.own
    exact ⟨d', by rw [own', own]⟩
  others j other := (g.others j other).trans (h.others j other)

variable {s} in
theorem DropsOnly.of_kept (q : Nat) {t : State} (kept : t.queues = s.queues) : DropsOnly q s t :=
  ⟨⟨(s.queue q).drops, queue_congr kept q⟩, fun j _ => queue_congr kept j⟩

theorem drops_foldl {A : Type} {q : Nat} (f : State → A → State) (h : ∀ (u : State) a, DropsOnly q u (f u a)) (L : List A) :
    DropsOnly q s (L.foldl f s) := by
  induction L generalizing s with
  | nil => exact .of_kept q rfl
  | cons a L ih => exact (h s a).trans (ih _)

theorem drops_rxDrop (q : Nat) (f : Pkt) : DropsOnly q s (s.rxDrop q f) := by
  have back := takes_releaseOpt ((s.setQueue q { s.queue q with drops := satAdd 32 (s.queue q).drops 1 }).bump F.QE_RX_DROP_CNT_COUNT 0) f.head
  exact ⟨⟨_, (back.queue q).trans (queue_setQueue ..)⟩, fun j other => (back.queue j).trans (queue_setQueue_ne s _ other)⟩

theorem drops_rxFlush (q : Nat) : DropsOnly q s (s.rxFlush q) :=
  drops_foldl s _ (fun u _ => DropsOnly.trans (t := u.setRx _ _) (.of_kept q rfl) (drops_foldl _ _ (fun v f => drops_rxDrop v q f) _)) _

/-! ### The end of a command -/

theorem only_queueEnd (q : Seq) (code : Nat) : s.OnlySignals (s.queueEnd q code) := signals_trans (only_endCmd ..) (only_setEvt ..)

theorem ended_queueEnd (q : Seq) {code : Nat} (h : code < 256) :
    (s.queueEnd q code).Ended F.QE_Q_STATUS_LAST_RESULT F.QE_Q_STATUS_LAST_SEQ 0 code q ∧ (s.queueEnd q code).Event .QE_EVT 0 1 := by
  refine ⟨?_, event_setEvt _ (by decide)⟩
  unfold queueEnd qeEvt Ended
  rw [fld_setEvt_other _ (by decide), fld_setEvt_other _ (by decide)]
  exact fld_endCmd s (by decide) (by decide) (by decide) rfl h

theorem queue_queueEnd (q : Seq) (code k : Nat) : (s.queueEnd q code).queue k = s.queue k := by
  rw [only_queueEnd]
  rfl

theorem busy_queueEnd (q : Seq) (code : Nat) : (s.queueEnd q code).fld F.QE_Q_STATUS_BUSY 0 = s.fld F.QE_Q_STATUS_BUSY 0 := by
  unfold queueEnd qeEvt
  rw [fld_setEvt_other _ (by decide), fld_endCmd_apart _ (by decide) (by decide)]

variable {s} in
theorem only_withQueues {t : State} (m : SMap Queue) (only : s.OnlySignals t) :
    ({ s with queues := m } : State).OnlySignals { t with queues := m } := by
  unfold OnlySignals
  rw [only]

theorem flushOverflow_none (k : Nat) (none_ : (s.queue k).ovfPending = false) : s.flushOverflow k = s := by
  unfold flushOverflow
  dsimp only
  rw [none_]
  rfl

/-! ### The commands -/

section
variable (open_ : s.regOpen .QE_Q_CMD 0 = true)
include open_

theorem queueCmdOn_open (op : Nat) (q : Seq) (f : State → Nat → State) : s.queueCmdOn op q f =
    if s.flag F.QE_Q_STATUS_BUSY 0 then s.queueEnd q 1
    else if !(s.queue s.selQueue).used then s.queueEnd q 2
    else if s.tdiLocked (s.queue s.selQueue).span then s.queueEnd q 3
    else f s s.selQueue := by
  unfold queueCmdOn
  rw [onReg_open s _ _ _ _ open_]

theorem queueCmdOn_ready (op : Nat) (q : Seq) (f : State → Nat → State) (idle : s.flag F.QE_Q_STATUS_BUSY 0 = false)
    (used : (s.queue s.selQueue).used = true) (free : s.tdiLocked (s.queue s.selQueue).span = false) :
    s.queueCmdOn op q f = f s s.selQueue := by
  rw [queueCmdOn_open s open_, idle, used, free]
  rfl

theorem queueCmdOn_busy (op : Nat) (q : Seq) (f : State → Nat → State) (busy : s.flag F.QE_Q_STATUS_BUSY 0 = true) :
    s.queueCmdOn op q f = s.queueEnd q 1 := by
  rw [queueCmdOn_open s open_, busy]
  rfl

theorem queueCmdOn_locked (op : Nat) (q : Seq) (f : State → Nat → State) (idle : s.flag F.QE_Q_STATUS_BUSY 0 = false)
    (used : (s.queue s.selQueue).used = true) (locked : s.tdiLocked (s.queue s.selQueue).span = true) :
    s.queueCmdOn op q f = s.queueEnd q 3 := by
  rw [queueCmdOn_open s open_, idle, used, locked]
  rfl

end

/-- The cell of the first entry in a queue's cache, or CI (R167, R175). -/
def firstCell (x : Queue) : BitVec 16 := match x.cached with | e :: _ => e.cell | [] => x.ci

/-- A queue whose cache has been emptied. -/
def uncached (x : Queue) : Queue := { x with cached := [], fetching := 0, ci := firstCell x }

theorem queue_dropCharge {k : Nat} (none_ : (s.queue k).charge = none) : (s.dropCharge k).queues = s.queues := by
  unfold dropCharge
  dsimp only
  split
  · next i charged => cases none_.symm.trans charged
  · rfl

theorem queue_discardCache {k : Nat} (none_ : (s.queue k).charge = none) : (s.discardCache k).queue k = uncached (s.queue k) := by
  have kept := queue_congr (queue_dropCharge s none_) k
  exact (queue_setQueue (s.dropCharge k) k (uncached ((s.dropCharge k).queue k))).trans (congrArg uncached kept)

theorem queue_discardCache_ne {k j : Nat} (none_ : (s.queue k).charge = none) (other : j ≠ k) : (s.discardCache k).queue j = s.queue j :=
  (queue_setQueue_ne (s.dropCharge k) _ other).trans (queue_congr (queue_dropCharge s none_) j)

/-- A queue whose cache has been emptied and that is being disabled by the command with SEQ `q`. -/
def disabling (s : State) (q : Seq) (k : Nat) : State :=
  (s.discardCache k).setQueue k { (s.discardCache k).queue k with state := .disabled, disabling := some q }

/-- What QUEUE_DISABLE leaves before it looks for begun entries. -/
def disabledFrom (q : Seq) (k : Nat) : State := (((disabling s q k).queueQuiesced k).rxFlush k).setFld F.QE_Q_STATUS_BUSY 0 1

theorem queue_disabling (q : Seq) {k : Nat} (none_ : (s.queue k).charge = none) :
    (disabling s q k).queue k = { uncached (s.queue k) with state := .disabled, disabling := some q } := by
  rw [disabling, queue_setQueue, queue_discardCache s none_]

theorem queue_setFld (f : Fld) (i v k : Nat) : (s.setFld f i v).queue k = s.queue k := rfl

theorem queues_queueQuiesced (k : Nat) : (s.queueQuiesced k).queues = s.queues := rfl

theorem queue_disabledFrom (q : Seq) {k : Nat} (none_ : (s.queue k).charge = none) :
    ∃ d, (disabledFrom s q k).queue k = { uncached (s.queue k) with state := .disabled, disabling := some q, drops := d } := by
  obtain ⟨d, flushed⟩ := ((DropsOnly.of_kept k (queues_queueQuiesced (disabling s q k) k)).trans (drops_rxFlush _ k)).own
  rw [queue_disabling s q none_] at flushed
  exact ⟨d, by rw [disabledFrom, queue_setFld, flushed]⟩

theorem exec_disable_ready {q : Seq} (does : ∀ f, s.queueCmdOn 2 q f = f s s.selQueue) (on : (s.queue s.selQueue).state ≠ .disabled) :
    exec (.queueDisable q) s = .next ((disabledFrom s q s.selQueue).checkDisable s.selQueue) := by
  change Host.Outcome.next (s.queueCmdOn 2 q _) = _
  rw [does]
  dsimp only
  split
  · next off => exact absurd off on
  · rfl

/-- A queue with begun entries goes on being disabled. -/
theorem checkDisable_begun {k : Nat} (begun : (s.queue k).begun ≠ []) : s.checkDisable k = s := by
  unfold checkDisable
  dsimp only
  split
  · rw [if_neg (by simpa using begun)]
  · rfl

theorem checkDisable_done {k : Nat} {q : Seq} (at_ : (s.queue k).disabling = some q) (begun : (s.queue k).begun = []) :
    s.checkDisable k = ((s.setQueue k { s.queue k with disabling := none }).setFld F.QE_Q_STATUS_BUSY 0 0).queueEnd q 0 := by
  unfold checkDisable
  dsimp only
  rw [at_]
  dsimp only
  rw [if_pos (by simp [begun])]

/-- A command that writes the queue's record and ends changes nothing else but signals. -/
theorem only_setQueue_end (k : Nat) (x : Queue) (q : Seq) (code : Nat) :
    s.OnlySignals { (s.setQueue k x).queueEnd q code with queues := s.queues } :=
  only_withQueues (s := s.setQueue k x) s.queues (only_queueEnd ..)

/-- Settles O33: each command in its state, refused in another, and BUSY. -/
theorem queueCommands : Obligations.QueueCommands := by
  unfold Obligations.QueueCommands
  intro s q k x ended ends all ready open_
  have refuses (c : Instr) (op code : Nat) (f : State → Nat → State) (h : code < 256) (runs : exec c s = .next (s.queueCmdOn op q f))
      (does : s.queueCmdOn op q f = s.queueEnd q code) : ends c code :=
    ⟨_, runs.trans (congrArg Host.Outcome.next does), only_queueEnd .., ended_queueEnd s q h⟩
  have runs (op : Nat) (f : State → Nat → State) (r : ready) : s.queueCmdOn op q f = f s k :=
    queueCmdOn_ready s open_ op q f r.1 r.2.1 r.2.2
  refine ⟨fun r off noOvf => ?_, fun r on begun charge => ?_, fun r on begun charge => ?_, fun r err noOvf => ?_, fun r off => ?_,
    fun r on => ⟨?_, ?_⟩, fun r other => ?_, fun r off => ?_, fun busy c hc => ?_, fun idle used locked c hc => ?_⟩
  · have done : exec (.queueEnable q) s = .next ((s.setQueue k { x with state := .active }).queueEnd q 0) := by
      change Host.Outcome.next (s.queueCmdOn 1 q _) = _
      rw [runs 1 _ r]
      dsimp only
      rw [if_pos off, flushOverflow_none]
      rw [queue_queueEnd, queue_setQueue]
      exact noOvf
    refine ⟨_, done, only_setQueue_end .., ended_queueEnd _ q (by decide), ?_, fun j other => ?_⟩
    · rw [queue_queueEnd, queue_setQueue]
    · rw [queue_queueEnd, queue_setQueue_ne _ _ other]
  · obtain ⟨d, record⟩ := queue_disabledFrom s q charge
    have done : exec (.queueDisable q) s = .next ((disabledFrom s q k).checkDisable k) := exec_disable_ready s (fun f => runs 2 f r) on
    rw [checkDisable_done _ (congrArg Queue.disabling record) ((congrArg Queue.begun record).trans begun)] at done
    refine ⟨_, done, ended_queueEnd _ q (by decide), ?_, ?_, ?_, ?_⟩
    · rw [queue_queueEnd, queue_setFld, queue_setQueue, record]
    · rw [queue_queueEnd, queue_setFld, queue_setQueue]
    · rw [queue_queueEnd, queue_setFld, queue_setQueue, record]
      rfl
    · rw [busy_queueEnd, fld_setFld_self _ (by decide)]
      rfl
  · obtain ⟨d, record⟩ := queue_disabledFrom s q charge
    have done : exec (.queueDisable q) s = .next ((disabledFrom s q k).checkDisable k) := exec_disable_ready s (fun f => runs 2 f r) on
    rw [checkDisable_begun _ (fun none_ => begun ((congrArg Queue.begun record).symm.trans none_))] at done
    have busy : (disabledFrom s q k).fld F.QE_Q_STATUS_BUSY 0 = 1 := by
      rw [disabledFrom, fld_setFld_self _ (by decide)]
      rfl
    exact ⟨_, done, congrArg Queue.state record, congrArg Queue.disabling record, busy⟩
  · have done : exec (.queueRestart q) s = .next ((s.setQueue k { x with state := .active }).queueEnd q 0) := by
      change Host.Outcome.next (s.queueCmdOn 3 q _) = _
      rw [runs 3 _ r]
      dsimp only
      rw [if_pos err, flushOverflow_none]
      rw [queue_queueEnd, queue_setQueue]
      exact noOvf
    refine ⟨_, done, ended_queueEnd _ q (by decide), only_setQueue_end .., ?_⟩
    rw [queue_queueEnd, queue_setQueue]
  · have done : exec (.queueZero q) s = .next ((s.setQueue k { x with pi := 0, ci := 0, di := 0 }).queueEnd q 0) := by
      change Host.Outcome.next (s.queueCmdOn 4 q _) = _
      rw [runs 4 _ r]
      dsimp only
      rw [if_pos off]
    refine ⟨_, done, ended_queueEnd _ q (by decide), only_setQueue_end .., ?_⟩
    rw [queue_queueEnd, queue_setQueue]
  · exact refuses _ 1 2 _ (by decide) rfl ((runs 1 _ r).trans (if_neg on))
  · exact refuses _ 4 2 _ (by decide) rfl ((runs 4 _ r).trans (if_neg on))
  · exact refuses _ 3 2 _ (by decide) rfl ((runs 3 _ r).trans (if_neg other))
  · refine refuses _ 2 2 _ (by decide) rfl ((runs 2 _ r).trans ?_)
    dsimp only
    rw [show (s.queue k).state = .disabled from off]
  · simp only [all, List.mem_cons, List.not_mem_nil, or_false] at hc
    rcases hc with rfl | rfl | rfl | rfl <;> exact refuses _ _ 1 _ (by decide) rfl (queueCmdOn_busy s open_ _ q _ busy)
  · simp only [all, List.mem_cons, List.not_mem_nil, or_false] at hc
    rcases hc with rfl | rfl | rfl | rfl <;> exact refuses _ _ 3 _ (by decide) rfl (queueCmdOn_locked s open_ _ q _ idle used locked)

end Sys2Proof.Machine.Queues
end

section
/-!
PROOFS. Advanced error reporting of a function (R93): its status bits, and the messages that it sends.
-/

namespace Sys2Proof.Machine.Aer
open State

variable (s : State)

/-- Nothing differs but the functions' records and what leaves the device. -/
def AerOnly (s t : State) : Prop := t = { s with fns := t.fns, out := t.out }

theorem AerOnly.trans {s t u : State} (first : AerOnly s t) (then_ : AerOnly t u) : AerOnly s u := by
  refine Eq.trans then_ ?_
  rw [first]

theorem aer_setFn (f : Fn) (c : FnCfg) : AerOnly s (s.setFn f c) := rfl

theorem aer_errMsg (f : Fn) (k : Fin 3) : AerOnly s (s.errMsg f k) := by
  unfold errMsg
  split <;> rfl

theorem fn_errMsg (f g : Fn) (k : Fin 3) : (s.errMsg f k).fn g = s.fn g := by
  unfold errMsg
  split <;> rfl

theorem aer_aerC (f : Fn) (bit : Nat) : AerOnly s (s.aerC f bit) := by
  unfold aerC
  dsimp only
  split
  · exact aer_setFn ..
  · exact (aer_setFn ..).trans (aer_errMsg ..)

theorem aer_aerU (f : Fn) (bit : Nat) : AerOnly s (s.aerU f bit) := by
  unfold aerU
  dsimp only
  split
  · exact aer_setFn ..
  · exact (aer_setFn ..).trans (aer_errMsg ..)

theorem aer_aerAdv (f : Fn) (bit : Nat) : AerOnly s (s.aerAdv f bit) := by
  unfold aerAdv
  dsimp only
  split
  · exact aer_aerU ..
  · exact (aer_setFn ..).trans (aer_aerC ..)

/-- An uncorrectable error sets its status bit, and nothing else of the function. -/
theorem fn_aerU (f : Fn) (bit : Nat) :
    (s.aerU f bit).fn f = { s.fn f with aerUncor := (s.fn f).aerUncor ||| ((1 : BitVec 32) <<< bit) } := by
  unfold aerU
  dsimp only
  split
  · exact fn_setFn ..
  · rw [fn_errMsg]
    exact fn_setFn ..

theorem fn_aerC (f : Fn) (bit : Nat) :
    (s.aerC f bit).fn f = { s.fn f with aerCor := (s.fn f).aerCor ||| ((1 : BitVec 32) <<< bit) } := by
  unfold aerC
  dsimp only
  split
  · exact fn_setFn ..
  · rw [fn_errMsg]
    exact fn_setFn ..

/-- An advisory error sets its status bit too. -/
theorem uncor_aerAdv (f : Fn) (bit : Nat) :
    ((s.aerAdv f bit).fn f).aerUncor = (s.fn f).aerUncor ||| ((1 : BitVec 32) <<< bit) := by
  unfold aerAdv
  dsimp only
  split
  · rw [fn_aerU]
  · rw [fn_aerC, fn_setFn]

theorem getLsbD_status (w : BitVec 32) {bit : Nat} (h : bit < 32) : (w ||| ((1 : BitVec 32) <<< bit)).getLsbD bit = true := by
  rw [BitVec.getLsbD_or, BitVec.getLsbD_shiftLeft]
  simp [h]

end Sys2Proof.Machine.Aer
end

section
/-!
PROOFS. Doorbell writes of a Span's queues (R147–R153, R165, R170, R172).
-/

namespace Sys2Proof.Machine.Doorbells
open State Fields Frames Pool Queues Aer

variable (s : State)

section
variable {s} {n i : Nat} {f : Fn} (owner : s.spanFn n = some f) (takes : s.spanBarOk n f = true) (secure : s.ideDrops f = false)
include owner takes secure

/-- A doorbell that its function and an Enabled Span take acts on its queue. -/
theorem doorbell_taken (act : State → Nat → State) {q : Nat} (no : s.queueNo n i = some q) (on : (s.span n).state = .enabled) :
    s.doorbell n i act = act s q := by
  unfold doorbell spanEnabled
  rw [owner, no, on]
  simp [takes, secure]

theorem doorbell_beyond (act : State → Nat → State) (no : s.queueNo n i = none) : s.doorbell n i act = s.unsupportedReq f := by
  unfold doorbell
  rw [owner, no]
  simp [takes, secure]

theorem doorbell_dropped (act : State → Nat → State) (no : s.queueNo n i ≠ none) (off : (s.span n).state ≠ .enabled) :
    s.doorbell n i act = s := by
  obtain ⟨q, at_⟩ := Option.ne_none_iff_exists'.1 no
  unfold doorbell spanEnabled
  rw [owner, at_]
  simp [takes, secure, off]

end

/-! ### What a write does to its queue -/

section
variable {s} {q : Nat}

theorem dbWrite_disabled (v : BitVec 16) (arm : Bool) (off : (s.queue q).state = .disabled) : s.dbWrite q v arm = s := if_pos off

theorem dbWrite_pi (v : BitVec 16) (arm : Bool) (on : (s.queue q).state ≠ .disabled) (kind : (s.queue q).kind ≠ 3) :
    s.dbWrite q v arm = ((s.setQueue q { s.queue q with pi := clampPi (s.queue q).ci v (s.ringSize q) }).rxStarve q).wakeServer q :=
  (if_neg on).trans (if_neg kind)

end

/-- Only queue `q` differs, and its record is `y`. -/
def QueueOnly (s : State) (q : Nat) (t : State) (y : Queue) : Prop :=
  t = { s with queues := t.queues } ∧ t.queue q = y ∧ ∀ j, j ≠ q → t.queue j = s.queue j

theorem queueOnly_setQueue (q : Nat) (y : Queue) : QueueOnly s q (s.setQueue q y) y :=
  ⟨rfl, queue_setQueue .., fun _ other => queue_setQueue_ne s y other⟩

variable {s} in
theorem QueueOnly.trans {q : Nat} {t u : State} {y z : Queue} (h : QueueOnly s q t y) (g : QueueOnly t q u z) : QueueOnly s q u z := by
  refine ⟨g.1.trans ?_, g.2.1, fun j other => (g.2.2 j other).trans (h.2.2 j other)⟩
  rw [h.1]

variable {s} in
theorem QueueOnly.of_eq {q : Nat} {t : State} {y z : Queue} (h : QueueOnly s q t y) (e : y = z) : QueueOnly s q t z := e ▸ h

section
variable {s} {q : Nat} (whole : (s.queue q).ovfPending = false) (none_ : (s.queue q).evWait = [])
include whole none_

/-- An EVENT queue with nothing to write writes nothing. -/
theorem drains_nothing : QueueOnly s q ((s.flushOverflow q).drainEvents q ((s.flushOverflow q).queue q).evWait) (s.queue q) := by
  rw [flushOverflow_none s q whole, none_, drainEvents]
  refine (queueOnly_setQueue s q _).of_eq ?_
  rw [← none_]

variable (v : BitVec 16) (on : (s.queue q).state ≠ .disabled) (kind : (s.queue q).kind = 3)
include on kind

theorem dbWrite_ci : QueueOnly s q (s.dbWrite q v false) { s.queue q with ci := clampCi (s.queue q).pi v (s.ringSize q) } := by
  have moved := queueOnly_setQueue s q { s.queue q with ci := clampCi (s.queue q).pi v (s.ringSize q) }
  unfold dbWrite
  dsimp only
  rw [if_neg on, if_pos kind, if_neg (by decide)]
  refine (moved.trans (drains_nothing ?_ ?_)).of_eq (queue_setQueue ..)
  · rw [queue_setQueue]
    exact whole
  · rw [queue_setQueue]
    exact none_

/-- ARM on an EVENT queue whose consumer has taken all arms it. -/
theorem dbWrite_arm (all : clampCi (s.queue q).pi v (s.ringSize q) = (s.queue q).pi) : QueueOnly s q (s.dbWrite q v true)
    { s.queue q with ci := clampCi (s.queue q).pi v (s.ringSize q), armed := true } := by
  have moved := queueOnly_setQueue s q { s.queue q with ci := clampCi (s.queue q).pi v (s.ringSize q) }
  have arms : (s.setQueue q { s.queue q with ci := clampCi (s.queue q).pi v (s.ringSize q) }).armRing q =
      (s.setQueue q { s.queue q with ci := clampCi (s.queue q).pi v (s.ringSize q) }).setQueue q
        { s.queue q with ci := clampCi (s.queue q).pi v (s.ringSize q), armed := true } := by
    unfold armRing
    dsimp only
    rw [queue_setQueue, if_neg (fun c => c.1 all.symm)]
  have armed := moved.trans (queueOnly_setQueue (s.setQueue q { s.queue q with ci := clampCi (s.queue q).pi v (s.ringSize q) }) q
    { s.queue q with ci := clampCi (s.queue q).pi v (s.ringSize q), armed := true })
  unfold dbWrite
  dsimp only
  rw [if_neg on, if_pos kind, if_pos rfl, arms]
  refine (armed.trans (drains_nothing ?_ ?_)).of_eq (queue_setQueue ..)
  · rw [queue_setQueue]
    exact whole
  · rw [queue_setQueue]
    exact none_

end

/-! ### Frames that wait for a queue without entries -/

theorem rx_rxDrop (q : Nat) (f : Pkt) (p : Nat) : (s.rxDrop q f).rx p = s.rx p := by
  have back := takes_releaseOpt ((s.setQueue q { s.queue q with drops := satAdd 32 (s.queue q).drops 1 }).bump F.QE_RX_DROP_CNT_COUNT 0) f.head
  unfold rxDrop
  dsimp only
  rw [rx, back.only]
  rfl

theorem rx_rxDrops (q : Nat) (L : List Pkt) (p : Nat) : (L.foldl (fun v f => v.rxDrop q f) s).rx p = s.rx p := by
  induction L generalizing s with
  | nil => rfl
  | cons f L ih => rw [List.foldl_cons, ih, rx_rxDrop]

theorem rx_setRx (p p' : Nat) (l : List Pkt) : (s.setRx p l).rx p' = if p' = p then l else s.rx p' := SMap.get_put ..

/-- A frame that waits in an input for queue `q`. -/
def waitsFor (q : Nat) (f : Pkt) : Bool := f.rxq == some q && f.placed.isNone

/-- One Pier's input is rid of the frames that wait for queue `q`. -/
def flushInput (q : Nat) (u : State) (p : Nat) : State :=
  ((u.rx p).filter (waitsFor q)).foldl (fun v f => v.rxDrop q f) (u.setRx p ((u.rx p).filter fun f => !waitsFor q f))

theorem rx_flushInput (q p p' : Nat) :
    (flushInput q s p).rx p' = if p' = p then (s.rx p).filter fun f => !waitsFor q f else s.rx p' := by
  rw [flushInput, rx_rxDrops, rx_setRx]

theorem rxFlush_eq (q : Nat) : s.rxFlush q = (List.range 4).foldl (flushInput q) s := rfl

/-- Inputs that have been flushed hold no frame that waits for the queue. -/
theorem rx_flushed (q n p : Nat) (h : p < n) : ∀ g ∈ ((List.range n).foldl (flushInput q) s).rx p, waitsFor q g = false := by
  induction n with
  | zero => omega
  | succ n ih =>
    rw [List.range_succ, List.foldl_append, List.foldl_cons, List.foldl_nil, rx_flushInput]
    split
    · intro g mem
      simpa using (List.mem_filter.1 mem).2
    · exact ih (by omega)

theorem starve_none {q : Nat} (h : ¬((s.queue q).kind = 1 ∧ (s.queue q).pi = (s.queue q).ci ∧ (s.queue q).fetching = 0 ∧
    (s.queue q).cached.isEmpty)) : s.rxStarve q = s := if_neg h

theorem starve_some {q : Nat} (h : (s.queue q).kind = 1 ∧ (s.queue q).pi = (s.queue q).ci ∧ (s.queue q).fetching = 0 ∧
    (s.queue q).cached.isEmpty) : s.rxStarve q = s.rxFlush q := if_pos h

/-! ### The wake of a queue's server (R494, R496) -/

theorem wakeDom_idle (work : Bool) {d : Nat} (h : s.domState d ≠ 1 ∧ s.domState d ≠ 2) : s.wakeDom work d = s := by
  unfold wakeDom
  split
  · next e => exact absurd e h.1
  · next e => exact absurd e h.2
  · rfl

theorem wake_idle (work : Bool) {d : Nat} (h : ∀ k ∈ d :: (if 16 ≤ d then [(d - 16) / 3] else []), s.domState k ≠ 1 ∧ s.domState k ≠ 2) :
    s.wake work d = s := by
  have own := h d List.mem_cons_self
  unfold wake
  by_cases truss : 16 ≤ d
  · have pier := h ((d - 16) / 3) (by simp [truss])
    rw [if_pos truss, wakeDom_idle s work pier, wakeDom_idle s work own]
  · rw [if_neg truss, wakeDom_idle s work own]

/-- The domain that serves a queue. -/
def server (x : Queue) : Nat := if x.isTx then x.bind else 16 + x.bind

theorem wakeServer_idle {q : Nat} (h : (s.queue q).isTx = true ∨ (s.queue q).kind = 2 →
    ∀ d ∈ server (s.queue q) :: (if 16 ≤ server (s.queue q) then [(server (s.queue q) - 16) / 3] else []), s.domState d ≠ 1 ∧ s.domState d ≠ 2) :
    s.wakeServer q = s := by
  unfold wakeServer
  dsimp only
  by_cases tx : (s.queue q).isTx = true
  · rw [if_pos tx]
    have idle := h (.inl tx)
    rw [server, if_pos tx] at idle
    exact wake_idle s true idle
  · rw [if_neg tx]
    split
    · next engine =>
        have idle := h (.inr engine)
        rw [server, if_neg tx] at idle
        exact wake_idle s true idle
    · rfl

theorem wakeServer_rx {q : Nat} (rx : (s.queue q).kind = 1) : s.wakeServer q = s := by
  unfold wakeServer Queue.isTx
  dsimp only
  rw [rx]
  rfl

/-- A gated Pier that work wakes powers up, and the wake is recorded. -/
theorem wake_gated {d : Nat} (h : d < 4) (gated : s.domState d = 2) :
    (s.wake true d).domState d = 3 ∧ (s.wake true d).Event .PWR_EVT 0 2 ∧ ∀ q, (s.wake true d).queue q = s.queue q := by
  have fld_ : domFld d = some (F.PWR_DOMAINS_PIER d) := if_pos h
  have woken : s.wake true d = ((s.setDom d 3).bump F.PWR_WAKE_CNT_COUNT 0).pwrEvt 2 := by
    unfold wake wakeDom
    dsimp only
    rw [if_neg (by omega), gated]
    rfl
  rw [woken]
  refine ⟨?_, event_setEvt _ (by decide), fun q => ?_⟩
  · have kept : (((s.setDom d 3).bump F.PWR_WAKE_CNT_COUNT 0).pwrEvt 2).reg .PWR_DOMAINS 0 = (s.setDom d 3).reg .PWR_DOMAINS 0 :=
      (reg_setEvt_other _ (by decide)).trans (reg_bump_other _ (by decide))
    rw [Domains.domState_congr kept, domState, setDom, fld_]
    dsimp only
    interval_cases d <;> exact fld_setFld_self s (by decide)
  · rw [pwrEvt, setEvt_frame, setDom, fld_]
    rfl

/-- Writing 1 clears a pending bit of the word written, and no other bit. -/
theorem getLsbD_clear (w : BitVec 256) (m : Word) (k : Fin 4) (b : Nat) : (w &&& ~~~((m.setWidth 256) <<< (64 * k.val))).getLsbD b =
    (w.getLsbD b && !(decide (64 * k.val ≤ b ∧ b < 64 * k.val + 64) && m.getLsbD (b - 64 * k.val))) := by
  by_cases inside : b < 256
  · have high : ¬ b < 64 * k.val + 64 → m.getLsbD (b - 64 * k.val) = false := fun h => BitVec.getLsbD_of_ge _ _ (by omega)
    by_cases low : b < 64 * k.val
    · simp [inside, low, Nat.not_le.2 low]
    · by_cases top : b < 64 * k.val + 64
      · simp [inside, low, top, Nat.not_lt.1 low]
      · simp [inside, low, top, high top]
  · rw [BitVec.getLsbD_of_ge _ _ (by omega), BitVec.getLsbD_of_ge w _ (by omega), Bool.false_and]

/-- Settles O31: each doorbell's effect, and the writes that no queue takes. -/
theorem doorbellWrites : Obligations.DoorbellWrites := by
  unfold Obligations.DoorbellWrites
  intro s n i v c k m f q x size p only toCi toPi starved server_ awake owner takes secure
  have acts (act : State → Nat → State) (no : s.queueNo n.val i.toNat = some q) (on : (s.span n.val).state = .enabled) :
      s.doorbell n.val i.toNat act = act s q := doorbell_taken owner takes secure act no on
  refine ⟨fun no on => ⟨fun kind active idle fed => ?_, fun active empty => ?_, fun tx kind active pier gated => ?_, fun kind active whole none_ => ?_,
    fun kind active whole none_ all => ?_, fun off => ?_, fun kind charge => ?_, fun kind => ?_, fun kind => ?_⟩, fun no => ?_, fun no off => ?_⟩
  · have fed' : ¬(x.kind = 1 ∧ toPi = x.ci ∧ x.fetching = 0 ∧ x.cached.isEmpty) := fun c => fed ⟨c.1, c.2.1, c.2.2.1, List.isEmpty_iff.1 c.2.2.2⟩
    have done : exec (.dbPiWrite n i v) s = .next (s.setQueue q { x with pi := toPi }) := by
      refine congrArg Host.Outcome.next ((acts _ no on).trans ((dbWrite_pi p _ active kind).trans ?_))
      change ((s.setQueue q { x with pi := toPi }).rxStarve q).wakeServer q = _
      rw [starve_none (h := by rw [queue_setQueue]; exact fed'), wakeServer_idle (h := by rw [queue_setQueue]; exact idle)]
    exact ⟨_, done, queueOnly_setQueue ..⟩
  · obtain ⟨rx, caught, notFetching, none_⟩ := empty
    have done : exec (.dbPiWrite n i v) s = .next ((s.setQueue q { x with pi := toPi }).rxFlush q) := by
      refine congrArg Host.Outcome.next ((acts _ no on).trans ((dbWrite_pi p _ active (by rw [show (s.queue q).kind = 1 from rx]; decide)).trans ?_))
      change ((s.setQueue q { x with pi := toPi }).rxStarve q).wakeServer q = _
      rw [starve_some (h := by rw [queue_setQueue]; exact ⟨rx, caught, notFetching, List.isEmpty_iff.2 none_⟩), wakeServer_rx]
      obtain ⟨d, own⟩ := (drops_rxFlush (s.setQueue q { x with pi := toPi }) q).own
      rw [own, queue_setQueue]
      exact rx
    obtain ⟨d, own⟩ := (drops_rxFlush (s.setQueue q { x with pi := toPi }) q).own
    refine ⟨_, done, ?_, fun p' four g mem waits placed => ?_⟩
    · rw [own, queue_setQueue]
    · have none_ := rx_flushed _ q 4 p' four g mem
      rw [waitsFor, waits, placed] at none_
      simp at none_
  · have notRx : x.kind ≠ 1 := by
      rintro rx
      rw [Queue.isTx, rx] at tx
      exact absurd tx (by decide)
    have done : exec (.dbPiWrite n i v) s = .next ((s.setQueue q { x with pi := toPi }).wake true x.bind) := by
      refine congrArg Host.Outcome.next ((acts _ no on).trans ((dbWrite_pi p _ active kind).trans ?_))
      change ((s.setQueue q { x with pi := toPi }).rxStarve q).wakeServer q = _
      rw [starve_none (h := by rw [queue_setQueue]; exact fun c => notRx c.1), wakeServer, queue_setQueue]
      exact if_pos tx
    obtain ⟨state, event, kept⟩ := wake_gated (s.setQueue q { x with pi := toPi }) pier gated
    exact ⟨_, done, state, event, (kept q).trans (queue_setQueue ..)⟩
  · have done : exec (.dbCiWrite n i c) s = .next (s.dbWrite q c false) := congrArg Host.Outcome.next (acts _ no on)
    exact ⟨_, done, dbWrite_ci whole none_ c active kind⟩
  · have done : exec (.eventArm n i c) s = .next (s.dbWrite q c true) := congrArg Host.Outcome.next (acts _ no on)
    exact ⟨_, done, dbWrite_arm whole none_ c active kind all⟩
  · refine ⟨?_, ?_, ?_⟩ <;> exact congrArg Host.Outcome.next ((acts _ no on).trans (dbWrite_disabled _ _ off))
  · have done : exec (.dbInval n i) s = .next ((s.discardCache q).rxStarve q) :=
      congrArg Host.Outcome.next ((acts _ no on).trans (if_neg kind))
    have flushed : DropsOnly q (s.discardCache q) ((s.discardCache q).rxStarve q) := by
      by_cases starves : ((s.discardCache q).queue q).kind = 1 ∧ ((s.discardCache q).queue q).pi = ((s.discardCache q).queue q).ci ∧
          ((s.discardCache q).queue q).fetching = 0 ∧ ((s.discardCache q).queue q).cached.isEmpty
      · rw [starve_some _ starves]
        exact drops_rxFlush ..
      · rw [starve_none _ starves]
        exact .of_kept q rfl
    obtain ⟨d, own⟩ := flushed.own
    rw [queue_discardCache s charge] at own
    refine ⟨_, done, ?_, ?_, ?_, ?_, ?_, fun j other => (flushed.others j other).trans (queue_discardCache_ne s charge other)⟩ <;> rw [own] <;> rfl
  · exact congrArg Host.Outcome.next ((acts _ no on).trans (if_pos kind))
  · have done : exec (.dbPendClear n i k m) s = .next (s.setQueue q { x with pend := x.pend &&& ~~~((m.setWidth 256) <<< (64 * k.val)) }) :=
      congrArg Host.Outcome.next ((acts _ no on).trans (if_pos kind))
    obtain ⟨frame, own, others⟩ := queueOnly_setQueue s q { x with pend := x.pend &&& ~~~((m.setWidth 256) <<< (64 * k.val)) }
    refine ⟨_, done, ⟨frame, ?_, others⟩, fun b => ?_⟩
    · rw [own]
    · rw [own]
      exact getLsbD_clear x.pend m k b
  · have done : exec (.dbPiWrite n i v) s = .next (s.aerAdv f 20) := congrArg Host.Outcome.next (doorbell_beyond owner takes secure _ no)
    refine ⟨_, done, aer_aerAdv .., ?_⟩
    rw [uncor_aerAdv]
    exact getLsbD_status _ (by decide)
  · exact congrArg Host.Outcome.next (doorbell_dropped owner takes secure _ no off)

end Sys2Proof.Machine.Doorbells
end

section
/-!
PROOFS. The Span state machine and its commands (R103, R109–R118, R536).
-/

namespace Sys2Proof.Machine.Spans
open State Fields Frames Signals

variable (s : State)

/-! ### The end and the start of a command -/

theorem only_spanEnd (q : Seq) (code : Nat) : s.OnlySignals (s.spanEnd q code) := signals_trans (only_endCmd ..) (only_setEvt ..)

theorem ended_spanEnd (q : Seq) {code : Nat} (h : code < 256) :
    (s.spanEnd q code).Ended F.STU_SPAN_STATUS_LAST_RESULT F.STU_SPAN_STATUS_LAST_SEQ 0 code q ∧ (s.spanEnd q code).Event .STU_EVT 0 4 := by
  refine ⟨?_, event_setEvt _ (by decide)⟩
  unfold spanEnd stuEvt Ended
  rw [fld_setEvt_other _ (by decide), fld_setEvt_other _ (by decide)]
  exact fld_endCmd s (by decide) (by decide) (by decide) rfl h

theorem span_congr {s t : State} (kept : t.spans = s.spans) (n : Nat) : t.span n = s.span n := by rw [span, span, kept]

theorem spans_spanEnd (q : Seq) (code : Nat) : (s.spanEnd q code).spans = s.spans := by rw [only_spanEnd]

/-- Of the Spans only `k` differs. -/
def Sole (s : State) (k : Nat) (t : State) (y : Span) : Prop := t.span k = y ∧ ∀ j, j ≠ k → t.span j = s.span j

theorem sole_setSpan (k : Nat) (y : Span) : Sole s k (s.setSpan k y) y := ⟨span_setSpan .., fun _ other => span_setSpan_ne s y other⟩

variable {s} in
theorem Sole.congr {k : Nat} {t u : State} {y : Span} (h : Sole s k t y) (kept : u.spans = t.spans) : Sole s k u y :=
  ⟨(span_congr kept k).trans h.1, fun j other => (span_congr kept j).trans (h.2 j other)⟩

variable {s} in
theorem Sole.trans {k : Nat} {t u : State} {y z : Span} (h : Sole s k t y) (g : Sole t k u z) : Sole s k u z :=
  ⟨g.1, fun j other => (g.2 j other).trans (h.2 j other)⟩

variable {s} in
theorem only_withSpans {t : State} (m : SMap Span) (only : s.OnlySignals t) :
    ({ s with spans := m } : State).OnlySignals { t with spans := m } := by
  unfold OnlySignals
  rw [only]

variable {s} in
theorem only_setSpan (t : State) (k : Nat) (y : Span) (h : s.OnlySignals { t with spans := s.spans }) :
    s.OnlySignals { t.setSpan k y with spans := s.spans } := h

theorem started_spanStart (op : SpanOp) (n : Nat) (q : Seq) : (s.spanStart op n q).spanCmd = some { op := op, span := n, seq := q } ∧
    (s.spanStart op n q).fld F.STU_SPAN_STATUS_CMD_BUSY 0 = 1 :=
  ⟨rfl, fld_setFld_self s (by decide)⟩

section
variable (open_ : s.regOpen .STU_SPAN_CMD 0 = true)
include open_

theorem spanCmdOn_busy (op : Nat) (q : Seq) (f : State → Nat → State) (busy : s.spanCmd ≠ none) : s.spanCmdOn op q f = s.spanEnd q 1 := by
  unfold spanCmdOn
  rw [onReg_open s _ _ _ _ open_]
  exact if_pos (Option.isSome_iff_ne_none.2 busy)

theorem spanCmdOn_idle (op : Nat) (q : Seq) (f : State → Nat → State) (idle : s.spanCmd = none) : s.spanCmdOn op q f = f s s.selSpan := by
  unfold spanCmdOn
  rw [onReg_open s _ _ _ _ open_, idle]
  rfl

end

/-! ### Quiesce without work -/

variable {s} in
theorem inflight_none (queues : s.queues = []) (tags : s.tags = []) (walks : s.walks = []) (n : Nat) : s.inflight n = 0 := by
  unfold inflight spanRequests spanWalks spanBegun
  rw [queues, tags, walks]
  rfl

/-- A Span whose quiesce has begun, before anything is looked at that is in flight. -/
def entered (x : Span) : Span := { x with state := .quiescing, drained := false, lateDone := false }

/-- A Span that has nothing in flight drains at once (R115). -/
theorem enterQuiescing_none (queues : s.queues = []) (tags : s.tags = []) (walks : s.walks = []) (stalled : s.stalled = []) (n : Nat) :
    s.enterQuiescing n = (((s.setSpan n (entered (s.span n))).setSpan n { entered (s.span n) with drained := true }).setMap .STU_DRAINED_MAP n).stuEvt 0 := by
  have mine : (s.setSpan n (entered (s.span n))).spanQueues n = [] := by
    unfold spanQueues
    rw [show (s.setSpan n (entered (s.span n))).queues = [] from queues]
    rfl
  have bound : (s.setSpan n (entered (s.span n))).boundTrusses n = [] := by
    unfold boundTrusses
    rw [show (s.setSpan n (entered (s.span n))).queues = [] from queues]
    rfl
  have events : (s.setSpan n (entered (s.span n))).retryEvents n = s.setSpan n (entered (s.span n)) := by
    unfold retryEvents
    rw [show (s.setSpan n (entered (s.span n))).queues = [] from queues]
    rfl
  have still : (s.setSpan n (entered (s.span n))).retryStalled = s.setSpan n (entered (s.span n)) := SafeState.retryStalled_none walks stalled
  have idle : (s.setSpan n (entered (s.span n))).inflight n = 0 := inflight_none queues tags walks n
  unfold enterQuiescing
  dsimp only
  rw [← entered, mine, List.foldl_nil, bound, List.foldl_nil, still, events]
  unfold refreshDrained
  dsimp only
  rw [span_setSpan, idle]
  rfl

theorem event_setMap (r : Reg) (n : Nat) : (s.setMap r n).Event r (n / 64) (n % 64) := by
  unfold Event setMap bitOf
  rw [reg_setReg, BitVec.getLsbD_or, BitVec.getLsbD_shiftLeft]
  simp [Nat.mod_lt]

/-- SPAN_QUIESCE of a Span that has nothing in flight. -/
theorem quiesced_none (queues : s.queues = []) (tags : s.tags = []) (walks : s.walks = []) (stalled : s.stalled = []) (k : Nat) (q : Seq) :
    let t := ((s.setSpan k { s.span k with byReset := false }).enterQuiescing k).spanEnd q 0
    s.OnlySignals { t with spans := s.spans } ∧
      Sole s k t { s.span k with state := .quiescing, drained := true, lateDone := false, byReset := false } ∧
      t.Event .STU_DRAINED_MAP (k / 64) (k % 64) ∧ t.Event .STU_EVT 0 0 ∧
      t.Ended F.STU_SPAN_STATUS_LAST_RESULT F.STU_SPAN_STATUS_LAST_SEQ 0 0 q ∧ t.Event .STU_EVT 0 4 := by
  dsimp only
  rw [enterQuiescing_none (s.setSpan k { s.span k with byReset := false }) queues tags walks stalled k, span_setSpan]
  have drains := ((sole_setSpan s k { s.span k with byReset := false }).trans
    (sole_setSpan _ k (entered { s.span k with byReset := false }))).trans
    (sole_setSpan _ k { entered { s.span k with byReset := false } with drained := true })
  have only_ : s.OnlySignals { ((s.setSpan k { s.span k with byReset := false }).setSpan k (entered { s.span k with byReset := false })).setSpan k
      { entered { s.span k with byReset := false } with drained := true } with spans := s.spans } :=
    only_setSpan _ k _ (only_setSpan _ k _ (only_setSpan s k _ (only_refl s)))
  generalize ((s.setSpan k { s.span k with byReset := false }).setSpan k (entered { s.span k with byReset := false })).setSpan k
    { entered { s.span k with byReset := false } with drained := true } = v at drains only_ ⊢
  have told : v.OnlySignals (((v.setMap .STU_DRAINED_MAP k).stuEvt 0).spanEnd q 0) :=
    signals_trans (signals_trans (only_setReg v _ _ _) (only_setEvt _ _ _ _ _ _)) (only_spanEnd ..)
  have kept (r : Reg) (i : Nat) (other : r ≠ .STU_SPAN_LOGIC ∧ r ≠ .HEP_DROP_CNT ∧ r ≠ .STU_EVT) :
      (((v.setMap .STU_DRAINED_MAP k).stuEvt 0).spanEnd q 0).reg r i = (v.setMap .STU_DRAINED_MAP k).reg r i := by
    rw [spanEnd, stuEvt, reg_setEvt_other _ ⟨other.2.1, other.2.2⟩, reg_endCmd_other _ ⟨other.1, other.1⟩, stuEvt,
      reg_setEvt_other _ ⟨other.2.1, other.2.2⟩]
  have first : ((v.setMap .STU_DRAINED_MAP k).stuEvt 0).Event .STU_EVT 0 0 := event_setEvt _ (by decide)
  refine ⟨signals_trans only_ (only_withSpans s.spans told), drains.congr (by rw [told]), event_congr (kept _ _ (by decide)) (event_setMap ..), ?_,
    ended_spanEnd _ q (by decide)⟩
  exact event_setEvt_of _ (by decide) (event_congr (reg_endCmd_other _ (by decide)) first)

/-! ### Windows and the Span's context -/

/-- Nothing differs but registers and values that wait. -/
def RegsOnly (s t : State) : Prop := t = { s with regs := t.regs, shadow := t.shadow }

theorem RegsOnly.trans {s t u : State} (first : RegsOnly s t) (then_ : RegsOnly t u) : RegsOnly s u := by
  refine Eq.trans then_ ?_
  rw [first]

theorem regsOnly_foldl {A : Type} (f : State → A → State) (h : ∀ (u : State) a, RegsOnly u (f u a)) (L : List A) : RegsOnly s (L.foldl f s) := by
  induction L generalizing s with
  | nil => rfl
  | cons a L ih => exact (h s a).trans (ih _)

/-- Register `r` written with `w`, and the values that wait for it dropped. -/
def overwritten (r : Reg) (i : Nat) (w : Word) : State := (s.setReg r i w).dropPend r i 0xFFFFFFFFFFFFFFFF

theorem regsOnly_overwritten (r : Reg) (i : Nat) (w : Word) : RegsOnly s (overwritten s r i w) := rfl

theorem reg_overwritten (r r' : Reg) (i j : Nat) (w : Word) :
    (overwritten s r i w).reg r' j = if r' = r ∧ j = i then w else s.reg r' j := reg_setReg_if s r r' i j w

/-- The three registers of a window. -/
def winRegs : List Reg := [.STU_WIN_BASE, .STU_WIN_TARGET, .STU_WIN_CTL]

theorem clearWindows_eq (n : Nat) :
    s.clearWindows n = (List.range 8).foldl (fun t w => winRegs.foldl (fun u r => overwritten u r (8 * n + w) 0) t) s := rfl

theorem regsOnly_clearWindows (n : Nat) : RegsOnly s (s.clearWindows n) :=
  regsOnly_foldl s _ (fun u _ => regsOnly_foldl u _ (fun _ _ => regsOnly_overwritten ..) _) _

theorem reg_clearWin (k : Nat) (r : Reg) (i : Nat) :
    (winRegs.foldl (fun u r => overwritten u r k 0) s).reg r i = if r ∈ winRegs ∧ i = k then 0 else s.reg r i := by
  simp only [winRegs, List.foldl_cons, List.foldl_nil, reg_overwritten, List.mem_cons, List.not_mem_nil, or_false]
  grind

/-- The windows of a list of numbers are cleared, and no other register changes. -/
theorem reg_clearWins (n : Nat) (L : List Nat) (r : Reg) (i : Nat) :
    (L.foldl (fun t w => winRegs.foldl (fun u r => overwritten u r (8 * n + w) 0) t) s).reg r i =
      if r ∈ winRegs ∧ ∃ w ∈ L, i = 8 * n + w then 0 else s.reg r i := by
  induction L generalizing s with
  | nil => simp
  | cons w L ih =>
    have here : (∃ v ∈ w :: L, i = 8 * n + v) ↔ i = 8 * n + w ∨ ∃ v ∈ L, i = 8 * n + v := by simp
    rw [List.foldl_cons, ih, reg_clearWin]
    simp only [here]
    by_cases win : r ∈ winRegs
    · by_cases later : ∃ v ∈ L, i = 8 * n + v <;> simp [win, later]
    · simp [win]

theorem winCtl_clearWindows (n : Nat) {w : Nat} (h : w < 8) : (s.clearWindows n).reg .STU_WIN_CTL (8 * n + w) = 0 := by
  rw [clearWindows_eq, reg_clearWins, if_pos ⟨by decide, w, List.mem_range.2 h, rfl⟩]

theorem reg_clearWindows {r : Reg} (other : r ∉ winRegs) (n i : Nat) : (s.clearWindows n).reg r i = s.reg r i := by
  rw [clearWindows_eq, reg_clearWins, if_neg fun c => other c.1]

/-- The registers that SPAN_INIT resets. -/
def initRegs : List Reg := [.STU_CTX_XLATE, .STU_LOG_CTL, .STU_LOG_BASE_A, .STU_LOG_BASE_B, .STU_XFER_ADDR, .STU_WIN_STATUS, .MBX_ROUTE]

theorem reg_resets (n : Nat) (L : List Reg) (r : Reg) (i : Nat) : (L.foldl (fun t r => overwritten t r n r.resetWord) s).reg r i =
    if r ∈ L ∧ i = n then r.resetWord else s.reg r i := by
  induction L generalizing s with
  | nil => simp
  | cons g L ih =>
    rw [List.foldl_cons, ih, reg_overwritten]
    by_cases same : r = g
    · subst same
      by_cases h : i = n <;> simp [h]
    · simp [same]

/-- The Span's queues, mailbox and full mark after a reset of a Span without queues. -/
theorem resetSpanCtx_none (queues : s.queues = []) (n : Nat) : s.resetSpanCtx n =
    ((s.setMail n {}).setFld F.MBX_STATUS_TO_DROPPED n 0).setReg .MBX_FULL_MAP (n / 64)
      (((s.setMail n {}).setFld F.MBX_STATUS_TO_DROPPED n 0).reg .MBX_FULL_MAP (n / 64) &&& ~~~((1 : Word) <<< (n % 64))) := by
  have mine : s.spanQueues n = [] := by
    rw [spanQueues, queues]
    rfl
  unfold resetSpanCtx
  rw [mine]
  rfl

/-- The state of SPAN_INIT before the Span's record is written. -/
def initialised (n : Nat) : State := initRegs.foldl (fun t r => overwritten t r n r.resetWord) ((s.resetSpanCtx n).clearWindows n)

theorem regsOnly_initialised (n : Nat) : RegsOnly (s.resetSpanCtx n) (initialised s n) :=
  (regsOnly_clearWindows ..).trans (regsOnly_foldl _ _ (fun _ _ => regsOnly_overwritten ..) _)

/-- A Span's record as SPAN_INIT leaves it: what the image and the host gave it is kept. -/
def fresh (x : Span) : Span :=
  { queues := x.queues, firstQueue := x.firstQueue, tdispCapable := x.tdispCapable, tdi := x.tdi, stream := x.stream }

theorem initSpan_eq (n : Nat) : s.initSpan n = ((initialised s n).dropXlate n).setSpan n (fresh ((initialised s n).span n)) := rfl

theorem reg_setSpan (n : Nat) (x : Span) (r : Reg) (i : Nat) : (s.setSpan n x).reg r i = s.reg r i := rfl
theorem reg_dropXlate (n : Nat) (r : Reg) (i : Nat) : (s.dropXlate n).reg r i = s.reg r i := rfl
theorem mail_setSpan (n : Nat) (x : Span) (c : Nat) : (s.setSpan n x).mail c = s.mail c := rfl
theorem mail_dropXlate (n c : Nat) : (s.dropXlate n).mail c = s.mail c := rfl
theorem spans_dropXlate (n : Nat) : (s.dropXlate n).spans = s.spans := rfl
theorem spans_setFld (f : Fld) (i v : Nat) : (s.setFld f i v).spans = s.spans := rfl

theorem reg_initSpan (n : Nat) (r : Reg) (i : Nat) : (s.initSpan n).reg r i = (initialised s n).reg r i := by
  rw [initSpan_eq, reg_setSpan, reg_dropXlate]

theorem mail_initSpan (n c : Nat) : (s.initSpan n).mail c = (initialised s n).mail c := by
  rw [initSpan_eq, mail_setSpan, mail_dropXlate]

theorem mail_spanStart (op : SpanOp) (n : Nat) (q : Seq) (c : Nat) : (s.spanStart op n q).mail c = s.mail c := rfl

theorem spans_spanStart (op : SpanOp) (n : Nat) (q : Seq) : (s.spanStart op n q).spans = s.spans := rfl

theorem reg_spanStart (op : SpanOp) (n : Nat) (q : Seq) {r : Reg} (i : Nat) (other : r ≠ .STU_SPAN_STATUS) :
    (s.spanStart op n q).reg r i = s.reg r i := reg_setFld_other s other

theorem spans_removed (n : Nat) (q : Seq) : (((s.clearWindows n).setFld F.STU_LOG_CTL_EN n 0).spanStart .remove n q).spans = s.spans := by
  rw [spans_spanStart, spans_setFld, regsOnly_clearWindows]

section
variable {s} (queues : s.queues = []) (n : Nat)
include queues

theorem spans_initialised : (initialised s n).spans = s.spans := by
  rw [regsOnly_initialised, resetSpanCtx_none s queues]
  rfl

theorem mbx_initialised : (initialised s n).mail n = {} := by
  rw [mail, regsOnly_initialised, resetSpanCtx_none s queues]
  exact mail_setMail s n {}

theorem init_sole : Sole s n (s.initSpan n) (fresh (s.span n)) := by
  rw [initSpan_eq, span_congr (spans_initialised queues n)]
  have dropped := (spans_dropXlate (initialised s n) n).trans (spans_initialised queues n)
  exact ⟨span_setSpan .., fun j other => (span_setSpan_ne _ _ other).trans (span_congr dropped j)⟩

omit queues in
theorem reg_initialised {r : Reg} (own : r ∈ initRegs) : (initialised s n).reg r n = r.resetWord := by
  rw [initialised, reg_resets, if_pos ⟨own, rfl⟩]

theorem toDropped_initialised : (initialised s n).fld F.MBX_STATUS_TO_DROPPED n = 0 := by
  rw [fld, initialised, reg_resets, if_neg fun c => absurd c.1 (by decide), reg_clearWindows _ (by decide), resetSpanCtx_none s queues, ← fld,
    fld_setReg_other _ (by decide), fld_setFld_self _ (by decide)]
  rfl

end

/-! ### Writes to a locked TDI (R103) -/

theorem signals_tdispEvt (bit n : Nat) : SignalsOnly s (s.tdispEvt bit n) :=
  ((signals_setReg ..).trans (signals_setFld ..)).trans (signals_mfVector ..)

theorem event_tdispEvt (n : Nat) : (s.tdispEvt 0 n).Event .HEP_TDISP_EVT 0 0 := by
  unfold tdispEvt Event
  rw [reg_mfVector _ _ (by decide)]
  rw [show Reg.HEP_TDISP_EVT = F.HEP_TDISP_EVT_LAST_SPAN.reg from rfl, reg_setFld, bitOf, setBits_getLsbD _ _ _ _ _ (by decide), reg_setReg]
  simp [F.HEP_TDISP_EVT_LAST_SPAN]

/-- A write to a locked TDI's Span is dropped and told. -/
theorem dropped_of {c : Instr} {n : Nat} (runs : exec c s = .next (s.writeDropped n)) :
    ∃ t, exec c s = .next t ∧ s.OnlySignals { t with shadow := s.shadow } ∧ t.Event .HEP_TDISP_EVT 0 0 := by
  refine ⟨_, runs, ?_, event_congr ((TimeUnit.calm_raise _ 0x04 0x09 n).reg .HEP_TDISP_EVT 0 (by decide)) (event_tdispEvt s n)⟩
  unfold OnlySignals writeDropped
  rw [(signals_tdispEvt s 0 n).trans (signals_raise _ 0x04 0x09 n)]

/-! ### Enabling -/

/-- What SPAN_ENABLE does on Span `n` while no other command runs. -/
def enable (q : Seq) (n : Nat) : State :=
  let x := s.span n
  let go := if s.vfPresent n then
      (s.setSpan n { x with state := .enabled, drained := false, byReset := false }).spanEnd q 0
    else s.spanEnd q 5
  match x.state with
  | .disabled => go
  | .quiesced => if x.resetRequired then s.spanEnd q 9 else go
  | _ => s.spanEnd q 2

theorem exec_spanEnable (q : Seq) : exec (.spanEnable q) s = .next (s.spanCmdOn 1 q fun s n => enable s q n) := rfl

/-! ### Quiescing -/

/-- SPAN_COMPLETE's Quiesced-class values and event changes leave the Spans. -/
theorem spans_spanQuiesced (n : Nat) : (s.spanQuiesced n).spans = s.spans := by
  have queues (L : List Nat) (u : State) : (L.foldl queueQuiesced u).spans = u.spans := by
    induction L generalizing u with
    | nil => rfl
    | cons q L ih => exact ih _
  have full (u : State) : (u.fullMap n).spans = u.spans := by
    unfold fullMap
    dsimp only
    split_ifs
    · rw [setEvt_frame]
      rfl
    · rfl
    · rfl
  unfold spanQuiesced
  dsimp only
  rw [queues, full]
  split <;> rfl

theorem exec_quiesceLate {n : SpanId} (quiescing : (s.span n.val).state = .quiescing) (byReset : (s.span n.val).byReset = true)
    (first : (s.span n.val).lateDone = false) : exec (.quiesceLate n) s = .next
      ((((s.setSpan n.val { s.span n.val with lateDone := true }).setMap .STU_LATE_MAP n.val).stuEvt 1).raise 0x05 0x01 n.val) := by
  refine congrArg Host.Outcome.next (if_pos ?_)
  rw [quiescing, byReset, first]
  rfl

/-- SPAN_ENABLE of a Span that is Disabled, or Quiesced and needs no reset. -/
theorem enable_ready (q : Seq) {k : Nat} (ready : (s.span k).state = .disabled ∨ ((s.span k).state = .quiesced ∧ (s.span k).resetRequired = false))
    (present : s.vfPresent k = true) : enable s q k = (s.setSpan k { s.span k with state := .enabled, drained := false, byReset := false }).spanEnd q 0 := by
  unfold enable
  dsimp only
  rw [present]
  rcases ready with h | ⟨h, g⟩ <;> rw [h]
  · rfl
  · rw [g]
    rfl

theorem enable_absent (q : Seq) {k : Nat} (ready : (s.span k).state = .disabled ∨ ((s.span k).state = .quiesced ∧ (s.span k).resetRequired = false))
    (absent : s.vfPresent k = false) : enable s q k = s.spanEnd q 5 := by
  unfold enable
  dsimp only
  rw [absent]
  rcases ready with h | ⟨h, g⟩ <;> rw [h]
  · rfl
  · rw [g]
    rfl

theorem enable_required (q : Seq) {k : Nat} (quiesced : (s.span k).state = .quiesced) (required : (s.span k).resetRequired = true) :
    enable s q k = s.spanEnd q 9 := by
  unfold enable
  dsimp only
  rw [quiesced, required]
  rfl

/-- Settles O39: each command in its state, and what refuses it. -/
theorem spanStateCommands : Obligations.SpanStateCommands := by
  unfold Obligations.SpanStateCommands
  intro s q n k x ended ends sole started all dropped free open_
  have refuses (c : Instr) (code : Nat) (h : code < 256) (runs : exec c s = .next (s.spanEnd q code)) : ends c code :=
    ⟨_, runs, only_spanEnd .., ended_spanEnd s q h⟩
  refine ⟨fun busy c hc => ?_, fun idle => ?_, fun quiescing byReset first => ?_⟩
  · refine refuses c 1 (by decide) ?_
    simp only [all, List.mem_cons, List.not_mem_nil, or_false] at hc
    rcases hc with rfl | rfl | rfl | rfl | rfl | rfl | rfl | rfl | rfl <;>
      exact congrArg Host.Outcome.next (spanCmdOn_busy s open_ _ q _ busy)
  · have runs (op : Nat) (f : State → Nat → State) : s.spanCmdOn op q f = f s k := spanCmdOn_idle s open_ op q f idle
    refine ⟨fun ready => ⟨fun present => ?_, fun absent => ?_⟩, fun quiesced required => ?_, fun enabled queues tags walks stalled => ?_,
      fun quiescing drained => ?_, fun quiescing busy => ?_, fun quiesced free' => ?_, fun quiesced free' owns => ?_, fun quiesced free' owns => ?_,
      fun locked => ⟨fun quiesced => ⟨?_, ?_⟩, fun removed => ?_⟩, fun removed free' queues => ?_, fun other => ?_, fun other => ?_,
      fun other => ⟨?_, ?_⟩, fun other => ?_⟩
    · have done := (runs 1 fun s n => enable s q n).trans (enable_ready s q ready present)
      exact ⟨_, (exec_spanEnable s q).trans (congrArg Host.Outcome.next done), only_withSpans (s := s.setSpan k _) s.spans (only_spanEnd ..),
        (sole_setSpan s k _).congr (spans_spanEnd ..), ended_spanEnd _ q (by decide)⟩
    · exact refuses _ 5 (by decide) ((exec_spanEnable s q).trans (congrArg Host.Outcome.next ((runs 1 _).trans (enable_absent s q ready absent))))
    · exact refuses _ 9 (by decide) ((exec_spanEnable s q).trans (congrArg Host.Outcome.next ((runs 1 _).trans (enable_required s q quiesced required))))
    · have done : exec (.spanQuiesce q) s = .next (((s.setSpan k { x with byReset := false }).enterQuiescing k).spanEnd q 0) :=
        congrArg Host.Outcome.next ((runs 2 _).trans (if_pos enabled))
      have told := quiesced_none s queues tags walks stalled k q
      exact ⟨_, done, told⟩
    · have done : exec (.spanComplete q) s = .next
          (((s.setSpan k { x with state := .quiesced, drained := false, byReset := false }).spanQuiesced k).spanEnd q 0) := by
        refine congrArg Host.Outcome.next ((runs 3 _).trans ((if_neg (not_not.2 quiescing)).trans (if_neg ?_)))
        rw [show (s.span k).drained = true from drained]
        decide
      exact ⟨_, done, ((sole_setSpan s k _).congr (spans_spanQuiesced ..)).congr (spans_spanEnd ..), ended_spanEnd _ q (by decide)⟩
    · refine refuses _ 3 (by decide) (congrArg Host.Outcome.next ((runs 3 _).trans ((if_neg (not_not.2 quiescing)).trans (if_pos ?_))))
      rw [show (s.span k).drained = false from busy]
      rfl
    · have done : exec (.spanReset q) s = .next (s.spanStart .reset k q) := congrArg Host.Outcome.next ((runs 4 _).trans
        ((if_neg (not_not.2 quiesced)).trans (if_neg (Bool.eq_false_iff.1 free'))))
      exact ⟨_, done, started_spanStart .., rfl, rfl⟩
    · have done : exec (.spanRemove q) s = .next
          ((((s.setSpan k { x with state := .removed }).clearWindows k).setFld F.STU_LOG_CTL_EN k 0).spanStart .remove k q) :=
        congrArg Host.Outcome.next ((runs 5 _).trans ((if_neg (not_not.2 quiesced)).trans ((if_neg (Bool.eq_false_iff.1 free')).trans
          (if_neg (Bool.eq_false_iff.1 owns)))))
      have alone := (sole_setSpan s k { x with state := .removed }).congr
        (spans_removed (s.setSpan k { x with state := .removed }) k q)
      have begun := started_spanStart (((s.setSpan k { x with state := .removed }).clearWindows k).setFld F.STU_LOG_CTL_EN k 0) .remove k q
      refine ⟨_, done, alone, begun, ?_, fun w small => ?_⟩
      · rw [fld, reg_spanStart _ _ _ _ _ (by decide), ← fld, fld_setFld_self _ (by decide)]
        rfl
      · rw [reg_spanStart _ _ _ _ _ (by decide), reg_setFld_other _ (by decide), winCtl_clearWindows _ k small]
    · exact refuses _ 4 (by decide) (congrArg Host.Outcome.next ((runs 5 _).trans
        ((if_neg (not_not.2 quiesced)).trans ((if_neg (Bool.eq_false_iff.1 free')).trans (if_pos owns)))))
    · exact dropped_of s (congrArg Host.Outcome.next ((runs 4 _).trans ((if_neg (not_not.2 quiesced)).trans (if_pos (Bool.eq_true_of_not_eq_false locked)))))
    · exact dropped_of s (congrArg Host.Outcome.next ((runs 5 _).trans ((if_neg (not_not.2 quiesced)).trans (if_pos (Bool.eq_true_of_not_eq_false locked)))))
    · exact dropped_of s (congrArg Host.Outcome.next ((runs 6 _).trans (if_pos ⟨removed, Bool.eq_true_of_not_eq_false locked⟩)))
    · have done : exec (.spanInit q) s = .next ((s.initSpan k).spanStart .init k q) := congrArg Host.Outcome.next ((runs 6 _).trans
        ((if_neg fun c => Bool.eq_false_iff.1 free' c.2).trans (if_pos removed)))
      have reg (r : Reg) (i : Nat) (other : r ≠ .STU_SPAN_STATUS) : ((s.initSpan k).spanStart .init k q).reg r i = (initialised s k).reg r i :=
        (reg_spanStart _ _ _ _ i other).trans (reg_initSpan s k r i)
      have alone : Sole s k ((s.initSpan k).spanStart .init k q) (fresh x) := (init_sole queues k).congr (spans_spanStart (s.initSpan k) .init k q)
      have begun := started_spanStart (s.initSpan k) .init k q
      refine ⟨_, done, alone, begun, ?_, ?_, ?_, ?_⟩
      · rw [mail_spanStart, mail_initSpan, mbx_initialised queues k]
      · exact (reg _ _ (by decide)).trans (reg_initialised k (by decide))
      · rw [fld, reg _ _ (by decide), show F.STU_XFER_ADDR_ADDR.reg = .STU_XFER_ADDR from rfl, reg_initialised k (by decide)]
        rfl
      · rw [fld, reg _ _ (by decide)]
        exact toDropped_initialised queues k
    · exact refuses _ 2 (by decide) (congrArg Host.Outcome.next ((runs 2 _).trans (if_neg other)))
    · exact refuses _ 2 (by decide) (congrArg Host.Outcome.next ((runs 3 _).trans (if_pos other)))
    · exact refuses _ 2 (by decide) (congrArg Host.Outcome.next ((runs 4 _).trans (if_pos other)))
    · exact refuses _ 2 (by decide) (congrArg Host.Outcome.next ((runs 5 _).trans (if_pos other)))
    · exact refuses _ 2 (by decide) (congrArg Host.Outcome.next ((runs 6 _).trans ((if_neg fun c => other c.1).trans (if_neg other))))
  · have told := signals_raise (((s.setSpan n.val { s.span n.val with lateDone := true }).setMap .STU_LATE_MAP n.val).stuEvt 1) 0x05 0x01 n.val
    have kept := TimeUnit.calm_raise (((s.setSpan n.val { s.span n.val with lateDone := true }).setMap .STU_LATE_MAP n.val).stuEvt 1) 0x05 0x01 n.val
    refine ⟨_, exec_quiesceLate s quiescing byReset first, ?_, ?_, ?_⟩
    · rw [span, told, stuEvt, setEvt_frame]
      exact span_setSpan ..
    · refine event_congr (kept.reg .STU_LATE_MAP _ (by decide)) (event_congr (reg_setEvt_other _ (by decide)) (event_setMap _ .STU_LATE_MAP n.val))
    · exact event_congr (kept.reg .STU_EVT 0 (by decide)) (event_setEvt _ (by decide))

end Sys2Proof.Machine.Spans
end

section
/-!
PROOFS. Supply, temperature and aging monitors (R513, R525–R529).
-/

namespace Sys2Proof.Machine.Monitors
open State Fields Frames Signals TimeUnit

variable (s : State)

/-! ### Fields of a word that is written whole -/

theorem getBits_ofNat {x lo n : Nat} (h : lo + n ≤ 64) : getBits (BitVec.ofNat 64 x) lo n = x / 2 ^ lo % 2 ^ n := by
  apply Nat.eq_of_testBit_eq
  intro i
  rw [getBits_testBit, BitVec.getLsbD_ofNat, Nat.testBit_mod_two_pow, Nat.testBit_div_two_pow]
  by_cases small : i < n
  · have inside : lo + i < 64 := by omega
    simp [small, inside, Nat.add_comm]
  · simp [small]

/-- One bit of a field, as a number. -/
theorem getBits_bit (w : Word) (lo : Nat) {n r : Nat} (h : r < n) : getBits w lo n / 2 ^ r % 2 = b2n (w.getLsbD (lo + r)) := by
  have bit := getBits_testBit w lo n r
  rw [Nat.testBit_eq_decide_div_mod_eq] at bit
  have two := Nat.mod_two_eq_zero_or_one (getBits w lo n / 2 ^ r)
  unfold b2n
  rcases two with e | e <;> simp [e, h] at bit ⊢ <;> simp [← bit]

/-! ### Rails -/

/-- The smallest and the largest reading of a rail, with a new one. -/
def lowest (r v : Nat) : Nat := if (SMap.get {} s.supply r).seen then min v (s.fld F.PWR_SUPPLY_MIN_MV r) else v
def highest (r v : Nat) : Nat := if (SMap.get {} s.supply r).seen then max v (s.fld F.PWR_SUPPLY_MAX_MV r) else v

/-- A reading lies outside its rail's range. -/
def bad (r v : Nat) : Bool := outside (railNominal.getD r 0) v

/-- The reading and its extremes. -/
def reading (r v : Nat) : State := s.setReg .PWR_SUPPLY r (BitVec.ofNat 64 (v + 65536 * lowest s r v + 4294967296 * highest s r v))

/-- A bit of a rail in PWR_SUPPLY_STATUS. -/
def mark (lo r n : Nat) : State := s.setReg .PWR_SUPPLY_STATUS 0 (setBits (s.reg .PWR_SUPPLY_STATUS 0) (lo + r) 1 n)

/-- OUT and SEEN after a reading. -/
def marks (r v : Nat) : State := if bad r v then mark (mark (reading s r v) 0 r (b2n (bad r v))) 8 r 1 else mark (reading s r v) 0 r (b2n (bad r v))

/-- The rail's record after a reading. -/
def railMon (m : RailMon) (b : Bool) : RailMon :=
  let good := if b then 0 else m.good + 1
  { seen := true, excursion := b || (m.excursion && decide (good < 1000)), good := if b || m.excursion then good else 0 }

/-- All that a reading records, but for the fault event. -/
def recorded (r v : Nat) : State := { marks s r v with supply := SMap.put {} (marks s r v).supply r (railMon (SMap.get {} s.supply r) (bad r v)) }

theorem railSample_eq (r v : Nat) : s.railSample r v =
    if bad r v && !(SMap.get {} s.supply r).excursion then (recorded s r v).raise 0x0B 0x01 (r + 65536 * v) else recorded s r v := rfl

theorem marks_signals (r v : Nat) : SignalsOnly s (marks s r v) := by
  unfold marks
  split <;> rfl

/-- What a sample keeps of rail `r`: its registers, its record, its two marks; and that the fault collector has power. -/
structure Keeps (r : Nat) (s t : State) : Prop where
  reg : t.reg .PWR_SUPPLY r = s.reg .PWR_SUPPLY r
  mon : SMap.get {} t.supply r = SMap.get {} s.supply r
  out : (t.reg .PWR_SUPPLY_STATUS 0).getLsbD r = (s.reg .PWR_SUPPLY_STATUS 0).getLsbD r
  seen : (t.reg .PWR_SUPPLY_STATUS 0).getLsbD (8 + r) = (s.reg .PWR_SUPPLY_STATUS 0).getLsbD (8 + r)
  core : t.coreOff = s.coreOff

variable {s} in
theorem Keeps.trans {r : Nat} {t u : State} (h : Keeps r s t) (g : Keeps r t u) : Keeps r s u :=
  ⟨g.reg.trans h.reg, g.mon.trans h.mon, g.out.trans h.out, g.seen.trans h.seen, g.core.trans h.core⟩

theorem keeps_raise (r source code detail : Nat) : Keeps r s (s.raise source code detail) where
  reg := (calm_raise ..).reg _ _ (by decide)
  mon := by rw [signals_raise s source code detail]
  out := by rw [(calm_raise ..).reg _ _ (by decide)]
  seen := by rw [(calm_raise ..).reg _ _ (by decide)]
  core := (calm_raise ..).coreOff

/-- The marks of a rail: OUT follows the reading, SEEN stays. -/
theorem status_marks {r : Nat} (h : r < 8) (v i : Nat) : ((marks s r v).reg .PWR_SUPPLY_STATUS 0).getLsbD i =
    if i = r then bad r v else if i = 8 + r ∧ bad r v = true then true else (s.reg .PWR_SUPPLY_STATUS 0).getLsbD i := by
  have before : (reading s r v).reg .PWR_SUPPLY_STATUS 0 = s.reg .PWR_SUPPLY_STATUS 0 := reg_setReg_other s (by decide)
  unfold marks mark
  split
  · next b =>
    rw [reg_setReg, setBits_getLsbD _ _ _ _ _ (by omega), reg_setReg, setBits_getLsbD _ _ _ _ _ (by omega), before, b]
    by_cases own : i = r
    · subst own
      simp [b2n]
    · by_cases up : i = 8 + r
      · subst up
        simp
      · have low : ¬(0 + r ≤ i ∧ i < 0 + r + 1) := by omega
        have high : ¬(8 + r ≤ i ∧ i < 8 + r + 1) := by omega
        simp only [own, up, low, high, false_and, if_false]
  · next b =>
    rw [reg_setReg, setBits_getLsbD _ _ _ _ _ (by omega), before]
    by_cases own : i = r
    · subst own
      simp [b2n, b]
    · have low : ¬(0 + r ≤ i ∧ i < 0 + r + 1) := by omega
      rw [if_neg low, if_neg own, if_neg (fun c => b c.2)]

theorem supply_marks (r v : Nat) : (marks s r v).reg .PWR_SUPPLY = (reading s r v).reg .PWR_SUPPLY := by
  funext i
  unfold marks mark
  split <;> simp (disch := decide)

theorem keeps_recorded {r j : Nat} (hr : r < 8) (hj : j < 8) (other : r ≠ j) (v : Nat) : Keeps r s (recorded s j v) where
  reg := by
    change (marks s j v).reg .PWR_SUPPLY r = _
    rw [supply_marks, reading, s.reg_setReg_ne _ (.inr other)]
  mon := by
    change SMap.get {} (SMap.put {} (marks s j v).supply j (railMon (SMap.get {} s.supply j) (bad j v))) r = _
    rw [SMap.get_put_ne _ _ _ _ other, marks_signals s j v]
  out := (status_marks s hj v r).trans (by rw [if_neg other, if_neg (by omega)])
  seen := (status_marks s hj v (8 + r)).trans (by rw [if_neg (by omega), if_neg (by omega)])
  core := by
    change (marks s j v).coreOff = _
    rw [coreOff, marks_signals s j v]
    rfl

theorem keeps_railSample {r j : Nat} (hr : r < 8) (hj : j < 8) (other : r ≠ j) (v : Nat) : Keeps r s (s.railSample j v) := by
  rw [railSample_eq]
  split
  · exact (keeps_recorded s hr hj other v).trans (keeps_raise ..)
  · exact keeps_recorded s hr hj other v

/-- Rail `r` after a reading of its own. -/
structure Sampled (r v : Nat) (s t : State) : Prop where
  reg : t.reg .PWR_SUPPLY r = BitVec.ofNat 64 (v + 65536 * lowest s r v + 4294967296 * highest s r v)
  out : (t.reg .PWR_SUPPLY_STATUS 0).getLsbD r = bad r v
  seen : bad r v = true → (t.reg .PWR_SUPPLY_STATUS 0).getLsbD (8 + r) = true

theorem sampled_recorded {r : Nat} (h : r < 8) (v : Nat) : Sampled r v s (recorded s r v) where
  reg := by
    change (marks s r v).reg .PWR_SUPPLY r = _
    rw [supply_marks, reading, reg_setReg]
  out := (status_marks s h v r).trans (if_pos rfl)
  seen b := (status_marks s h v (8 + r)).trans (by rw [if_neg (by omega), if_pos ⟨rfl, b⟩])

variable {s} in
/-- A rail that has been sampled stays so while others are, and was before what it is after others have been. -/
theorem Sampled.between {r v : Nat} {a t u : State} (before : Keeps r a s) (h : Sampled r v s t) (after : Keeps r t u) : Sampled r v a u := by
  have mon : SMap.get {} s.supply r = SMap.get {} a.supply r := before.mon
  have least : lowest s r v = lowest a r v := by rw [lowest, lowest, mon, fld, fld, show F.PWR_SUPPLY_MIN_MV.reg = .PWR_SUPPLY from rfl, before.reg]
  have most : highest s r v = highest a r v := by rw [highest, highest, mon, fld, fld, show F.PWR_SUPPLY_MAX_MV.reg = .PWR_SUPPLY from rfl, before.reg]
  exact ⟨by rw [after.reg, h.reg, least, most], by rw [after.out, h.out], fun b => by rw [after.seen, h.seen b]⟩

theorem sampled_railSample {r : Nat} (h : r < 8) (v : Nat) : Sampled r v s (s.railSample r v) := by
  have own := sampled_recorded s h v
  rw [railSample_eq]
  split
  · exact own.between ⟨rfl, rfl, rfl, rfl, rfl⟩ (keeps_raise ..)
  · exact own

/-- One rail of a sample of all. -/
def sampleOf (mv : List (BitVec 16)) (u : State) (r : Nat) : State := match mv[r]? with | some v => u.railSample r v.toNat | none => u

theorem keeps_samples {r : Nat} (mv : List (BitVec 16)) (hr : r < 8) (L : List Nat) (hL : ∀ j ∈ L, j < 8 ∧ r ≠ j) :
    Keeps r s (L.foldl (sampleOf mv) s) := by
  induction L generalizing s with
  | nil => exact ⟨rfl, rfl, rfl, rfl, rfl⟩
  | cons j L ih =>
    obtain ⟨small, other⟩ := hL j List.mem_cons_self
    have first : Keeps r s (sampleOf mv s j) := by
      unfold sampleOf
      split
      · exact keeps_railSample s hr small other _
      · exact ⟨rfl, rfl, rfl, rfl, rfl⟩
    exact first.trans (ih _ fun k mem => hL k (List.mem_cons_of_mem _ mem))

/-- The rails before and after rail `r`. -/
theorem range_split {r : Nat} (h : r < 8) : List.range 8 = List.range r ++ r :: (List.range 8).drop (r + 1) := by
  interval_cases r <;> rfl

theorem range_before {r : Nat} (h : r < 8) : ∀ j ∈ List.range r, j < 8 ∧ r ≠ j := fun j mem => by
  have := List.mem_range.1 mem
  omega

theorem range_after {r : Nat} (h : r < 8) : ∀ j ∈ (List.range 8).drop (r + 1), j < 8 ∧ r ≠ j := by
  interval_cases r <;> decide

/-- The rails before `r`, rail `r`, and the rails after it. -/
theorem samples_split (mv : List (BitVec 16)) {r : Nat} (h : r < 8) : (List.range 8).foldl (sampleOf mv) s =
    ((List.range 8).drop (r + 1)).foldl (sampleOf mv) (sampleOf mv ((List.range r).foldl (sampleOf mv) s) r) := by
  conv_lhs => rw [range_split h]
  rw [List.foldl_append, List.foldl_cons]

section
variable {mv : List (BitVec 16)} (full : mv.length = 8) {r : Nat} (h : r < 8)
include full h

theorem sampleOf_at : sampleOf mv s r = s.railSample r (mv.getD r 0).toNat := by
  unfold sampleOf
  rw [List.getElem?_eq_getElem (by omega), List.getD_eq_getElem _ _ (by omega)]

theorem sampled_all : Sampled r (mv.getD r 0).toNat s ((List.range 8).foldl (sampleOf mv) s) := by
  rw [samples_split s mv h, sampleOf_at _ full h]
  exact (sampled_railSample _ h _).between (keeps_samples s mv h _ (range_before h)) (keeps_samples _ mv h _ (range_after h))

omit full h in
theorem count_recorded (j v i : Nat) : (recorded s j v).fld F.FCU_CNT_COUNT i = s.fld F.FCU_CNT_COUNT i := by
  change (marks s j v).fld F.FCU_CNT_COUNT i = _
  unfold marks mark reading
  split <;> simp (disch := decide)

omit full h in
theorem count_good (L : List Nat) (hL : ∀ j ∈ L, bad j (mv.getD j 0).toNat = false) (i : Nat) :
    (L.foldl (sampleOf mv) s).fld F.FCU_CNT_COUNT i = s.fld F.FCU_CNT_COUNT i := by
  induction L generalizing s with
  | nil => rfl
  | cons j L ih =>
    rw [List.foldl_cons, ih _ fun k mem => hL k (List.mem_cons_of_mem _ mem)]
    unfold sampleOf
    split
    · next w at_ =>
      have good : bad j w.toNat = false := by
        have := hL j List.mem_cons_self
        rwa [List.getD_eq_getElem?_getD, at_] at this
      rw [railSample_eq, good]
      exact count_recorded s j _ i
    · rfl

/-- One rail out of its range, while all others are in theirs, is one fault event. -/
theorem count_one (on : s.coreOff = false) (out : bad r (mv.getD r 0).toNat = true) (first : (SMap.get {} s.supply r).excursion = false)
    (others : ∀ j, j < 8 → j ≠ r → bad j (mv.getD j 0).toNat = false) :
    ((List.range 8).foldl (sampleOf mv) s).fld F.FCU_CNT_COUNT 2 = min (s.fld F.FCU_CNT_COUNT 2 + 1) 0xFFFFFFFF := by
  have before := keeps_samples s mv h _ (range_before h)
  have off : ((List.range r).foldl (sampleOf mv) s).coreOff = false := before.core.trans on
  rw [samples_split s mv h, count_good _ _ fun j mem => others j (range_after h j mem).1 (Ne.symm (range_after h j mem).2), sampleOf_at _ full h,
    railSample_eq, out, show (SMap.get {} ((List.range r).foldl (sampleOf mv) s).supply r).excursion = false from (congrArg RailMon.excursion before.mon).trans first]
  have on' : (recorded ((List.range r).foldl (sampleOf mv) s) r (mv.getD r 0).toNat).coreOff = false := by
    change (marks _ r _).coreOff = false
    rw [coreOff, marks_signals]
    exact off
  refine (fld_raise_count _ 0x0B 0x01 _ (c := .fat) on' rfl).trans ?_
  rw [show classIdx .fat = 2 from rfl, count_recorded, count_good s _ fun j mem => others j (range_before h j mem).1 (Ne.symm (range_before h j mem).2)]

end

/-! ### Temperatures -/

theorem hottest_mem (l : List (BitVec 12)) (i : Nat) (h : l ≠ []) : ∃ u ∈ l, (hottest l i).2 = u.toInt := by
  induction l generalizing i with
  | nil => exact absurd rfl h
  | cons t l ih =>
    cases l with
    | nil => exact ⟨t, List.mem_cons_self, rfl⟩
    | cons x l =>
      obtain ⟨u, mem, at_⟩ := ih (i + 1) (List.cons_ne_nil x l)
      rw [hottest]
      · split
        · exact ⟨t, List.mem_cons_self, rfl⟩
        · exact ⟨u, List.mem_cons_of_mem _ mem, at_⟩
      · exact List.cons_ne_nil x l

/-- The hottest sensor is the first of those with the highest reading. -/
theorem hottest_of (l : List (BitVec 12)) (i k : Nat) (v : BitVec 12) (at_ : l[k]? = some v)
    (most : ∀ (j : Nat) (u : BitVec 12), l[j]? = some u → u.toInt ≤ v.toInt)
    (first : ∀ (j : Nat) (u : BitVec 12), j < k → l[j]? = some u → u.toInt < v.toInt) : hottest l i = (i + k, v.toInt) := by
  induction l generalizing i k with
  | nil => simp at at_
  | cons t l ih =>
    cases l with
    | nil =>
      cases k with
      | zero =>
        cases at_
        rfl
      | succ k => simp at at_
    | cons x l =>
      rw [hottest]
      · cases k with
        | zero =>
          cases at_
          obtain ⟨u, mem, high⟩ := hottest_mem (x :: l) (i + 1) (List.cons_ne_nil x l)
          obtain ⟨j, small, e⟩ := List.mem_iff_getElem.1 mem
          rw [high, if_pos (most (j + 1) u (by rw [List.getElem?_cons_succ, List.getElem?_eq_getElem small, e]))]
          rfl
        | succ k =>
          have rest := ih (i + 1) k (by simpa using at_) (fun j u e => most (j + 1) u (by simpa using e))
            (fun j u less e => first (j + 1) u (by omega) (by simpa using e))
          rw [rest, if_neg (by have := first 0 t (by omega) rfl; omega)]
          exact congrArg (·, v.toInt) (by omega)
      · exact List.cons_ne_nil x l

theorem unsigned_toInt (v : BitVec 12) : unsigned 12 v.toInt = v.toNat := by
  have small := v.isLt
  unfold unsigned
  rw [BitVec.toInt_eq_toNat_cond]
  split <;> omega

/-- The readings of the sensors. -/
def readings (ts : List (BitVec 12)) (u : State) (n : Nat) : State :=
  match ts[n]? with | some t => u.setReg .PWR_TJ n (BitVec.ofNat 64 (t.toNat + 32768)) | none => u

def sensed (ts : List (BitVec 12)) : State := (List.range 28).foldl (readings ts) s

/-- The hottest sensor and its reading. -/
def hotMarked (k : Nat) (t : Int) : State := (s.setFld F.PWR_TJ_STATUS_HOT 0 (unsigned 12 t)).setFld F.PWR_TJ_STATUS_HOT_SENSOR 0 k

/-- The highest reading yet. -/
def peaked (k : Nat) (t : Int) : State :=
  if s.peakClear || decide (signed 12 (s.fld F.PWR_TJ_PEAK_PEAK 0) < t) then
    { (s.setFld F.PWR_TJ_PEAK_PEAK 0 (unsigned 12 t)).setFld F.PWR_TJ_PEAK_SENSOR 0 k with peakClear := false }
  else s

/-- THERM_N. -/
def thermed (t crit hyst : Int) : State :=
  if crit ≤ t then s.setFld F.PWR_TJ_STATUS_THERM 0 1 else if t < crit - hyst then s.setFld F.PWR_TJ_STATUS_THERM 0 0 else s

/-- The limit. -/
def limited (k : Nat) (t limit hyst : Int) : State :=
  if s.flag F.PWR_TJ_STATUS_OVER_LIMIT 0 then
    if t < limit - hyst then s.setFld F.PWR_TJ_STATUS_OVER_LIMIT 0 0 else s
  else if limit ≤ t then (s.setFld F.PWR_TJ_STATUS_OVER_LIMIT 0 1).raise 0x0B 0x02 (k + 65536 * unsigned 12 t)
  else s

/-- What the second's mean temperature is made of. -/
def averaged (t : Int) : State := { s with teqSum := s.teqSum + ageFactor t, teqCount := s.teqCount + 1 }

theorem reg_averaged (t : Int) (r : Reg) (i : Nat) : (averaged s t).reg r i = s.reg r i := reg_congr rfl r i

/-- What a sample does once the hottest sensor and the highest reading are known. -/
def judged (k : Nat) (t : Int) : State :=
  let s := averaged s t
  let limit := signed 12 (s.fld F.PWR_TJ_CFG_LIMIT 0)
  let crit := signed 12 (s.fld F.PWR_TJ_CFG_CRIT 0)
  let hyst : Int := 8 * s.fld F.PWR_TJ_CFG_HYST 0
  limited (thermed s t crit hyst) k t limit hyst

theorem exec_tempSample {ts : List (BitVec 12)} {k : Nat} {t : Int} (on : s.sampling = true) (some_ : ts.isEmpty = false)
    (hot : hottest ts 0 = (k, t)) : exec (.tempSample ts) s = .next (judged (peaked (hotMarked (sensed s ts) k t) k t) k t) := by
  change execTempSample ts s = _
  unfold execTempSample
  rw [if_neg (by simp [on, some_]), hot]
  rfl

theorem setReg_frame (r : Reg) (i : Nat) (w : Word) : s.setReg r i w = { s with regs := (s.setReg r i w).regs } := rfl

theorem readings_frame (ts : List (BitVec 12)) (L : List Nat) : L.foldl (readings ts) s = { s with regs := (L.foldl (readings ts) s).regs } := by
  induction L generalizing s with
  | nil => rfl
  | cons n L ih =>
    have first : readings ts s n = { s with regs := (readings ts s n).regs } := by
      unfold readings
      split
      · exact setReg_frame s ..
      · rfl
    rw [List.foldl_cons, ih, first]

theorem reg_readings_ne (ts : List (BitVec 12)) (L : List Nat) {r : Reg} {i : Nat} (h : r ≠ .PWR_TJ ∨ i ∉ L) :
    (L.foldl (readings ts) s).reg r i = s.reg r i := by
  induction L generalizing s with
  | nil => rfl
  | cons n L ih =>
    have first : (readings ts s n).reg r i = s.reg r i := by
      unfold readings
      split
      · exact s.reg_setReg_ne _ (h.imp_right fun out e => out (e ▸ List.mem_cons_self))
      · rfl
    rw [List.foldl_cons, ih _ (h.imp_right fun out mem => out (List.mem_cons_of_mem _ mem)), first]

theorem reg_sensed {ts : List (BitVec 12)} {j : Nat} {u : BitVec 12} (at_ : ts[j]? = some u) (h : j < 28) :
    (sensed s ts).reg .PWR_TJ j = BitVec.ofNat 64 (u.toNat + 32768) := by
  have split_ : List.range 28 = List.range j ++ j :: (List.range 28).drop (j + 1) := by interval_cases j <;> rfl
  have later : j ∉ (List.range 28).drop (j + 1) := by interval_cases j <;> decide
  unfold sensed
  rw [split_, List.foldl_append, List.foldl_cons, reg_readings_ne _ _ _ (.inr later)]
  unfold readings
  rw [at_]
  exact reg_setReg ..

/-- The fields of PWR_TJ_STATUS that name the hottest sensor are kept. -/
theorem reg_peaked {k : Nat} {t : Int} {r : Reg} (other : r ≠ .PWR_TJ_PEAK) (i : Nat) : (peaked s k t).reg r i = s.reg r i := by
  unfold peaked
  split
  · exact (reg_setFld_other _ other).trans (reg_setFld_other s other)
  · rfl

theorem fld_peaked {k : Nat} {t : Int} (h : s.peakClear = true ∨ signed 12 (s.fld F.PWR_TJ_PEAK_PEAK 0) < t) :
    (peaked s k t).fld F.PWR_TJ_PEAK_PEAK 0 = unsigned 12 t % 2 ^ 12 := by
  unfold peaked
  rw [if_pos (by simpa using h)]
  exact (fld_setFld_apart (s.setFld F.PWR_TJ_PEAK_PEAK 0 (unsigned 12 t)) (f := F.PWR_TJ_PEAK_SENSOR) (by decide)).trans (fld_setFld_self s (by decide))

theorem fld_thermed {f : Fld} {t crit hyst : Int} {i : Nat}
    (apart : f.reg ≠ .PWR_TJ_STATUS ∨ f.lo + f.width ≤ 25) : (thermed s t crit hyst).fld f i = s.fld f i := by
  have kept (n : Nat) : (s.setFld F.PWR_TJ_STATUS_THERM 0 n).fld f i = s.fld f i := by
    rcases apart with h | h
    · exact fld_setFld_other s h
    · exact fld_setFld_apart s ⟨by decide, .inl h⟩
  unfold thermed
  split
  · exact kept 1
  · split
    · exact kept 0
    · rfl

theorem fld_limited {f : Fld} {k : Nat} {t limit hyst : Int} {i : Nat} (calm : f.reg ∉ captureRegs)
    (apart : f.reg ≠ .PWR_TJ_STATUS ∨ f.lo + f.width ≤ 24 ∨ 25 ≤ f.lo) : (limited s k t limit hyst).fld f i = s.fld f i := by
  have kept (n : Nat) : (s.setFld F.PWR_TJ_STATUS_OVER_LIMIT 0 n).fld f i = s.fld f i := by
    rcases apart with h | h
    · exact fld_setFld_other s h
    · exact fld_setFld_apart s ⟨by decide, h⟩
  unfold limited
  split
  · split
    · exact kept 0
    · rfl
  · split
    · exact ((calm_raise ..).fld f i calm).trans (kept 1)
    · rfl

theorem limited_over {k : Nat} {t limit hyst : Int} (was : s.fld F.PWR_TJ_STATUS_OVER_LIMIT 0 = 1) :
    limited s k t limit hyst = if t < limit - hyst then s.setFld F.PWR_TJ_STATUS_OVER_LIMIT 0 0 else s := by
  unfold limited flag
  rw [was]
  rfl

theorem limited_under {k : Nat} {t limit hyst : Int} (was : s.fld F.PWR_TJ_STATUS_OVER_LIMIT 0 = 0) :
    limited s k t limit hyst =
      if limit ≤ t then (s.setFld F.PWR_TJ_STATUS_OVER_LIMIT 0 1).raise 0x0B 0x02 (k + 65536 * unsigned 12 t) else s := by
  unfold limited flag
  rw [was]
  rfl

theorem coreOff_thermed (t crit hyst : Int) : (thermed s t crit hyst).coreOff = s.coreOff := by
  unfold thermed
  split
  · rfl
  · split <;> rfl

/-! ### The sample of all sensors -/

section
variable (ts : List (BitVec 12)) (k : Nat) (t : Int)

/-- A sample before THERM_N and the limit are looked at. -/
def before : State := averaged (peaked (hotMarked (sensed s ts) k t) k t) t

/-- Registers that a sample has not changed yet. -/
theorem reg_before {r : Reg} (other : r ≠ .PWR_TJ ∧ r ≠ .PWR_TJ_STATUS ∧ r ≠ .PWR_TJ_PEAK) (i : Nat) :
    (before s ts k t).reg r i = s.reg r i := by
  rw [before, reg_averaged, reg_peaked _ other.2.2, hotMarked, reg_setFld_other _ other.2.1, reg_setFld_other _ other.2.1, sensed,
    reg_readings_ne _ _ _ (.inl other.1)]

theorem fld_before_status {f : Fld} (status : f.reg = .PWR_TJ_STATUS) :
    (before s ts k t).fld f 0 = (hotMarked (sensed s ts) k t).fld f 0 := by
  rw [before, fld, reg_averaged, reg_peaked _ (by rw [status]; decide), fld]

theorem fld_before_over : (before s ts k t).fld F.PWR_TJ_STATUS_OVER_LIMIT 0 = s.fld F.PWR_TJ_STATUS_OVER_LIMIT 0 := by
  rw [fld_before_status _ _ _ _ rfl, hotMarked, fld_setFld_apart _ (by decide), fld_setFld_apart _ (by decide), sensed, fld,
    reg_readings_ne _ _ _ (.inl (by decide)), fld]

theorem coreOff_before : (before s ts k t).coreOff = s.coreOff := by
  have peak (u : State) : (peaked u k t).coreOff = u.coreOff := by
    unfold peaked
    split <;> rfl
  have start : (sensed s ts).coreOff = s.coreOff := by
    rw [sensed, coreOff, readings_frame]
    rfl
  exact (peak _).trans start

end

/-- TEMP_SAMPLE with the limits as they stand. -/
theorem exec_tempSample_hot {ts : List (BitVec 12)} {k : Nat} {v : BitVec 12} (on : s.sampling = true) (at_ : ts[k]? = some v)
    (most : ∀ (j : Nat) (u : BitVec 12), ts[j]? = some u → u.toInt ≤ v.toInt)
    (first : ∀ (j : Nat) (u : BitVec 12), j < k → ts[j]? = some u → u.toInt < v.toInt) : exec (.tempSample ts) s = .next
      (limited (thermed (before s ts k v.toInt) v.toInt (signed 12 (s.fld F.PWR_TJ_CFG_CRIT 0)) (8 * s.fld F.PWR_TJ_CFG_HYST 0)) k v.toInt
        (signed 12 (s.fld F.PWR_TJ_CFG_LIMIT 0)) (8 * s.fld F.PWR_TJ_CFG_HYST 0)) := by
  have some_ : ts.isEmpty = false := by
    cases ts with
    | nil => simp at at_
    | cons => rfl
  have cfg (f : Fld) (h : f.reg = .PWR_TJ_CFG) : (before s ts k v.toInt).fld f 0 = s.fld f 0 := by
    rw [fld, reg_before _ _ _ _ (by rw [h]; decide), fld]
  have hot := hottest_of ts 0 k v at_ most first
  rw [Nat.zero_add] at hot
  rw [exec_tempSample s on some_ hot]
  unfold judged
  dsimp only
  rw [← before, cfg _ rfl, cfg _ rfl, cfg _ rfl]

theorem sampling_on (on : s.sampling = true) : s.coreOff = false := by
  unfold sampling coreUp at on
  unfold coreOff
  cases h : s.dev <;> simp [h] at on ⊢

theorem mod_small (v : BitVec 12) : unsigned 12 v.toInt % 2 ^ 12 = v.toNat := by
  rw [unsigned_toInt, Nat.mod_eq_of_lt v.isLt]

/-! ### Aging -/

/-- The word of an aging monitor's reading: its value, the mark, and the seconds of the uptime. -/
def ageRead (n : Nat) (y : Byte) : State :=
  s.setReg .PWR_AGE n (BitVec.ofNat 64 (y.toNat + 256 + 4294967296 * ((s.reg .TOP_UPTIME 0).toNat / 25000000 % 4294967296)))

theorem exec_aging (n : Fin 22) (y : Byte) (on : s.ageOn n.val = true) : exec (.agingMeasure n y) s = .next
    (if s.fld F.PWR_AGE_CFG_WARN 0 ≤ y.toNat ∧ !SMap.get false s.aged n.val then
      ({ ageRead s n.val y with aged := SMap.put false s.aged n.val true }).raise 0x0B 0x03 (n.val + 256 * y.toNat)
    else ageRead s n.val y) := by
  change execAgingMeasure n y s = _
  unfold execAgingMeasure
  dsimp only
  rw [on, fld_setReg_other s (by decide)]
  rfl

/-- An aging monitor's value and mark, in the word that it writes. -/
theorem age_word (u : State) (n x : Nat) (y : Byte) (at_ : u.reg .PWR_AGE n = BitVec.ofNat 64 (y.toNat + 256 + 4294967296 * x)) :
    u.fld F.PWR_AGE_CONSUMED n = y.toNat ∧ u.fld F.PWR_AGE_VALID n = 1 := by
  have small := y.isLt
  unfold fld
  rw [show F.PWR_AGE_CONSUMED.reg = .PWR_AGE from rfl, show F.PWR_AGE_VALID.reg = .PWR_AGE from rfl, at_]
  constructor
  · refine (getBits_ofNat (by decide)).trans ?_
    simp only [F.PWR_AGE_CONSUMED]
    omega
  · refine (getBits_ofNat (by decide)).trans ?_
    simp only [F.PWR_AGE_VALID]
    omega

theorem ageRead_word (n : Nat) (y : Byte) : (ageRead s n y).fld F.PWR_AGE_CONSUMED n = y.toNat ∧ (ageRead s n y).fld F.PWR_AGE_VALID n = 1 :=
  age_word _ n _ y (reg_setReg ..)

/-- A rail's reading and extremes, in the word that holds them. -/
theorem supply_word (u : State) {r v lo hi : Nat} (hv : v < 2 ^ 16) (hlo : lo < 2 ^ 16) (hhi : hi < 2 ^ 16)
    (at_ : u.reg .PWR_SUPPLY r = BitVec.ofNat 64 (v + 65536 * lo + 4294967296 * hi)) :
    u.fld F.PWR_SUPPLY_MV r = v ∧ u.fld F.PWR_SUPPLY_MIN_MV r = lo ∧ u.fld F.PWR_SUPPLY_MAX_MV r = hi := by
  have bits (l n : Nat) (h : l + n ≤ 64) : getBits (u.reg .PWR_SUPPLY r) l n = (v + 65536 * lo + 4294967296 * hi) / 2 ^ l % 2 ^ n := by
    rw [at_, getBits_ofNat h]
  refine ⟨(bits 0 16 (by decide)).trans ?_, (bits 16 16 (by decide)).trans ?_, (bits 32 16 (by decide)).trans ?_⟩ <;> omega

/-- A temperature and its mark, in the word that holds them. -/
theorem tj_word (u : State) {j : Nat} (v : BitVec 12) (at_ : u.reg .PWR_TJ j = BitVec.ofNat 64 (v.toNat + 32768)) :
    u.fld F.PWR_TJ_TJ j = v.toNat ∧ u.fld F.PWR_TJ_VALID j = 1 := by
  have small := v.isLt
  have bits (l n : Nat) (h : l + n ≤ 64) : getBits (u.reg .PWR_TJ j) l n = (v.toNat + 32768) / 2 ^ l % 2 ^ n := by
    rw [at_, getBits_ofNat h]
  refine ⟨(bits 0 12 (by decide)).trans ?_, (bits 15 1 (by decide)).trans ?_⟩ <;> omega

theorem lowest_lt {r v : Nat} (h : v < 2 ^ 16) : lowest s r v < 2 ^ 16 := by
  unfold lowest
  split
  · exact lt_of_le_of_lt (Nat.min_le_left ..) h
  · exact h

theorem highest_lt {r v : Nat} (h : v < 2 ^ 16) : highest s r v < 2 ^ 16 := by
  have old : s.fld F.PWR_SUPPLY_MAX_MV r < 2 ^ 16 := getBits_lt ..
  unfold highest
  split
  · exact Nat.max_lt.2 ⟨h, old⟩
  · exact h

/-- Settles O60: each monitor's sample. -/
theorem monitors : Obligations.Monitors := by
  unfold Obligations.Monitors
  intro s mv r ts k v n y rail rd hot limit crit hyst was count
  refine ⟨fun on full hr => ?_, fun on hot => ?_, fun up => ?_, fun on => ?_⟩
  · have done : exec (.supplySample mv) s = .next ((List.range 8).foldl (sampleOf mv) s) := congrArg Host.Outcome.next (if_pos on)
    have sampled := sampled_all s full hr
    have small : rd < 2 ^ 16 := (mv.getD r 0).isLt
    obtain ⟨value, least, most⟩ := supply_word _ small (lowest_lt s small) (highest_lt s small) sampled.reg
    refine ⟨_, done, value, ?_, fun seen => ⟨?_, ?_⟩, fun out => ⟨?_, fun first others => count_one s full hr (sampling_on s on) out first others⟩⟩
    · refine (getBits_bit _ 0 hr).trans ?_
      rw [Nat.zero_add]
      exact congrArg b2n sampled.out
    · exact least.trans (if_pos seen)
    · exact most.trans (if_pos seen)
    · refine (getBits_bit _ 8 hr).trans ?_
      exact congrArg b2n (sampled.seen out)
  · obtain ⟨len, at_, high, first⟩ := hot
    have done := exec_tempSample_hot s on at_ high first
    have sensor : k < 28 := by
      have := (List.getElem?_eq_some_iff.1 at_).1
      omega
    have nonneg : (0 : Int) ≤ 8 * s.fld F.PWR_TJ_CFG_HYST 0 := by omega
    have judged_ : (thermed (before s ts k v.toInt) v.toInt (signed 12 (s.fld F.PWR_TJ_CFG_CRIT 0)) (8 * s.fld F.PWR_TJ_CFG_HYST 0)).fld
        F.PWR_TJ_STATUS_OVER_LIMIT 0 = was := (fld_thermed _ (by decide)).trans (fld_before_over ..)
    have counts : (thermed (before s ts k v.toInt) v.toInt (signed 12 (s.fld F.PWR_TJ_CFG_CRIT 0)) (8 * s.fld F.PWR_TJ_CFG_HYST 0)).fld
        F.FCU_CNT_COUNT 1 = s.fld F.FCU_CNT_COUNT 1 :=
      (fld_thermed _ (by decide)).trans (by rw [fld, reg_before _ _ _ _ (by decide), fld])
    refine ⟨_, done, ?_, ?_, fun j u at' => ?_, fun peak => ?_, fun critical => ?_, fun cool => ?_,
      fun low beyond => ⟨?_, ?_⟩, fun high' stays => ⟨?_, ?_⟩, fun high' under => ?_⟩
    · rw [fld_limited _ (by decide) (by decide), fld_thermed _ (by decide), fld_before_status _ _ _ _ rfl, hotMarked, fld_setFld_apart _ (by decide),
        fld_setFld_self _ (by decide)]
      exact mod_small v
    · rw [fld_limited _ (by decide) (by decide), fld_thermed _ (by decide), fld_before_status _ _ _ _ rfl, hotMarked, fld_setFld_self _ (by decide)]
      exact Nat.mod_eq_of_lt (by simp only [F.PWR_TJ_STATUS_HOT_SENSOR]; omega)
    · have inside : j < 28 := by
        have := (List.getElem?_eq_some_iff.1 at').1
        omega
      have word : (before s ts k v.toInt).reg .PWR_TJ j = BitVec.ofNat 64 (u.toNat + 32768) := by
        rw [before, reg_averaged, reg_peaked _ (by decide), hotMarked, reg_setFld_other _ (by decide), reg_setFld_other _ (by decide),
          reg_sensed s at' inside]
      obtain ⟨value, valid⟩ := tj_word _ u word
      exact ⟨(fld_limited _ (by decide) (by decide)).trans ((fld_thermed _ (by decide)).trans value),
        (fld_limited _ (by decide) (by decide)).trans ((fld_thermed _ (by decide)).trans valid)⟩
    · rw [fld_limited _ (by decide) (by decide), fld_thermed _ (by decide), before, fld, reg_averaged, ← fld, fld_peaked]
      · exact mod_small v
      · refine peak.imp (fun clear => ?_) (fun below => ?_)
        · rw [hotMarked, sensed, readings_frame]
          exact clear
        · rw [hotMarked, fld_setFld_other _ (by decide), fld_setFld_other _ (by decide), fld, sensed, reg_readings_ne _ _ _ (.inl (by decide)), ← fld]
          exact below
    · rw [fld_limited _ (by decide) (by decide), thermed, if_pos critical, fld_setFld_self _ (by decide)]
      rfl
    · rw [fld_limited _ (by decide) (by decide), thermed, if_neg (by omega), if_pos cool, fld_setFld_self _ (by decide)]
      rfl
    · rw [limited_under _ (judged_.trans low), if_pos beyond, (calm_raise ..).fld _ _ (by decide), fld_setFld_self _ (by decide)]
      rfl
    · rw [limited_under _ (judged_.trans low), if_pos beyond]
      refine (fld_raise_count _ 0x0B 0x02 _ (c := .ucc) ?_ rfl).trans ?_
      · exact (coreOff_thermed ..).trans ((coreOff_before ..).trans (sampling_on s on))
      · rw [show classIdx .ucc = 1 from rfl, fld_setFld_other _ (by decide), counts]
    · rw [limited_over _ (judged_.trans high'), if_neg (by omega)]
      exact judged_.trans high'
    · rw [limited_over _ (judged_.trans high'), if_neg (by omega)]
      exact counts
    · rw [limited_over _ (judged_.trans high'), if_pos under, fld_setFld_self _ (by decide)]
      rfl
  · have done : exec .tjEqUpdate s = .next (if s.teqCount = 0 then s.bump F.PWR_TJ_EQ_SECONDS 0 else
        (s.bump F.PWR_TJ_EQ_SECONDS 0).setFld F.PWR_TJ_EQ_TEQ 0 (unsigned 12 (teqFrom s.teqSum s.teqCount 1481 (-480)))) := by
      change execTjEqUpdate s = _
      unfold execTjEqUpdate
      rw [up]
      rfl
    refine ⟨_, done, ?_, ?_⟩
    · split
      · exact ⟨rfl, but_bump s F.PWR_TJ_EQ_SECONDS 0 1⟩
      · exact ⟨rfl, but_mono (but_trans (but_bump s F.PWR_TJ_EQ_SECONDS 0 1) (but_setFld _ F.PWR_TJ_EQ_TEQ 0 _)) (by decide)⟩
    · have counted : (s.bump F.PWR_TJ_EQ_SECONDS 0).fld F.PWR_TJ_EQ_SECONDS 0 = min (s.fld F.PWR_TJ_EQ_SECONDS 0 + 1) 0xFFFFFFFF :=
        fld_bump_self s (by decide)
      split
      · exact counted
      · exact (fld_setFld_apart _ (by decide)).trans counted
  · have done := exec_aging s n y on
    have off : s.coreOff = false := by
      unfold ageOn at on
      exact sampling_on s (Bool.and_eq_true_iff.1 on).1
    by_cases warns : s.fld F.PWR_AGE_CFG_WARN 0 ≤ y.toNat ∧ (!SMap.get false s.aged n.val) = true
    · rw [if_pos warns] at done
      have told := calm_raise { ageRead s n.val y with aged := SMap.put false s.aged n.val true } 0x0B 0x03 (n.val + 256 * y.toNat)
      refine ⟨_, done, (told.fld _ _ (by decide)).trans (ageRead_word s n.val y).1, (told.fld _ _ (by decide)).trans (ageRead_word s n.val y).2,
        fun _ => ⟨?_, fun _ => ?_⟩, fun already => absurd warns.2 (by rw [already]; decide)⟩
      · rw [signals_raise { ageRead s n.val y with aged := SMap.put false s.aged n.val true } 0x0B 0x03 (n.val + 256 * y.toNat)]
        exact SMap.get_put_self false s.aged n.val true
      · refine (fld_raise_count { ageRead s n.val y with aged := SMap.put false s.aged n.val true } 0x0B 0x03 _ (c := .ce) off rfl).trans ?_
        exact congrArg (fun c => min (c + 1) 0xFFFFFFFF) (fld_setReg_other s (by decide))
    · rw [if_neg warns] at done
      have already (high : s.fld F.PWR_AGE_CFG_WARN 0 ≤ y.toNat) : SMap.get false s.aged n.val = true := by
        by_contra other
        exact warns ⟨high, by rw [Bool.eq_false_iff.2 other]; rfl⟩
      refine ⟨_, done, (ageRead_word s n.val y).1, (ageRead_word s n.val y).2, fun high => ⟨already high, fun new => ?_⟩,
        fun _ => ⟨rfl, but_setReg s .PWR_AGE n.val _⟩⟩
      cases (already high).symm.trans new

end Sys2Proof.Machine.Monitors
end

section
/-!
PROOFS. Timer compares, the stall detector and the Manager's Truss commands (R393, R399–R402).
-/

namespace Sys2Proof.Machine.Trusses
open State Fields Frames Signals TimeUnit Exceptions

variable (s : State)

/-! ### Entries of a map that a step rewrites or drops -/

theorem find?_map {V : Type} {h : Nat × V → Nat × V} (keys : ∀ e, (h e).1 = e.1) (m : SMap V) (k : Nat) :
    SMap.find? (m.map h) k = (SMap.find? m k).map fun v => (h (k, v)).2 := by
  induction m with
  | nil => rfl
  | cons e m ih =>
    show (if k = (h e).1 then some (h e).2 else SMap.find? (m.map h) k) = (if k = e.1 then some e.2 else SMap.find? m k).map _
    rw [keys e, ih]
    split
    · next same => subst same; rfl
    · rfl

theorem find?_filter {V : Type} {p : Nat × V → Bool} {m : SMap V} {k : Nat} {v : V} (listed : SMap.find? m k = some v) (kept : p (k, v) = true) :
    SMap.find? (m.filter p) k = some v := by
  induction m with
  | nil => cases listed
  | cons e m ih =>
    have listed : (if k = e.1 then some e.2 else SMap.find? m k) = some v := listed
    rw [List.filter_cons]
    split at listed
    · next same =>
      cases listed
      subst same
      rw [if_pos kept]
      exact if_pos rfl
    · next other =>
      split
      · exact (if_neg other).trans (ih listed)
      · exact ih listed

/-! ### The reader of a Rail, which no abort changes -/

/-- A Rail is read by Truss `k`, and so it is listed. -/
theorem rail_listed {p r k : Nat} (reads : (s.rail p r).reader = some k) : SMap.find? s.rails (256 * p + r) = some (s.rail p r) := by
  unfold rail SMap.get at reads ⊢
  cases e : SMap.find? s.rails (256 * p + r) with
  | none => rw [e] at reads; cases reads
  | some v => rfl

theorem rail_of_listed {x : Rail} {p r : Nat} (listed : SMap.find? s.rails (256 * p + r) = some x) : s.rail p r = x := by
  unfold rail SMap.get
  rw [listed]
  rfl

theorem rail_tidyRails {p r k : Nat} (reads : (s.rail p r).reader = some k) : s.tidyRails.rail p r = s.rail p r :=
  rail_of_listed _ (find?_filter (rail_listed s reads) (bne_iff_ne.2 fun empty : s.rail p r = {} => by rw [empty] at reads; cases reads))

theorem reader_dropRail {p r k : Nat} (n : Nat) (reads : (s.rail p r).reader = some k) : ((s.dropRail n).rail p r).reader = some k := by
  have listed := find?_map (V := Rail) (h := fun e => if e.1 / 256 = n / 192 then
    (e.1, { e.2 with owner := if e.2.owner = some n then none else e.2.owner, waiters := e.2.waiters.filter (· != n) }) else e)
    (fun e => by dsimp only; split <;> rfl) s.rails (256 * p + r)
  rw [rail_listed s reads] at listed
  rw [rail_of_listed (s.dropRail n) listed]
  dsimp only
  split <;> exact reads

theorem msgs_emptyRails {p r k : Nat} (reads : (s.rail p r).reader = some k) : ((s.emptyRails k).rail p r).msgs = [] := by
  have listed := find?_map (V := Rail) (h := fun e => if e.2.reader = some k then (e.1, { e.2 with msgs := [] }) else e)
    (fun e => by dsimp only; split <;> rfl) s.rails (256 * p + r)
  rw [rail_listed s reads, Option.map_some, if_pos reads] at listed
  have emptied := rail_of_listed { s with rails := s.rails.map fun e => if e.2.reader = some k then (e.1, { e.2 with msgs := [] }) else e } listed
  unfold emptyRails
  rw [rail_tidyRails _ (k := k) (by rw [emptied]; exact reads), emptied]

/-! ### An aborted thread stays aborted when others are -/

/-- What an abort leaves of a thread until its last operation has returned (R402). -/
def Gone (x : Thread) : Prop :=
  x.aborting = true ∧ x.armed = false ∧ x.joinable = false ∧ x.rail = none ∧ x.partMsg = [] ∧ ∀ o ∈ x.ops, o.live = false

variable {s} in
theorem gone_setThr {n m : Nat} {y : Thread} (gone : Gone (s.thr n)) (own : n = m → Gone y) : Gone ((s.setThr m y).thr n) := by
  by_cases same : n = m
  · rw [same, thr_setThr]
    exact own same
  · rw [thr_setThr_ne _ _ same]
    exact gone

variable {s} in
theorem gone_setGreg {n m r : Nat} {w : Word} (gone : Gone (s.thr n)) : Gone ((s.setGreg m r w).thr n) := by
  unfold setGreg
  split
  · exact gone
  · exact gone_setThr gone fun same => same ▸ gone

variable {s} in
theorem gone_joinNone {n : Nat} (m : Nat) (gone : Gone (s.thr n)) : Gone ((s.joinNone m).thr n) := by
  unfold joinNone
  dsimp only
  split
  · split
    · exact gone_setGreg (gone_setThr gone fun same => same ▸ gone)
    · exact gone
  · exact gone

theorem thr_orphan_ne {n m : Nat} (other : n ≠ m) : (s.orphan m).thr n = s.thr n := by
  unfold orphan
  dsimp only
  split
  · exact thr_setThr_ne _ _ other
  · exact thr_setThr_ne _ _ other

theorem thr_orphans {n : Nat} {l : List Nat} (out : n ∉ l) : (l.foldl orphan s).thr n = s.thr n := by
  induction l generalizing s with
  | nil => rfl
  | cons k l ih =>
    rw [List.mem_cons, not_or] at out
    exact (ih _ out.2).trans (thr_orphan_ne s out.1)

theorem gone_vacate {n : Nat} (m : Nat) (gone : Gone (s.thr n)) : Gone ((s.vacate m).thr n) := by
  have out : n ∉ (((s.dropRail m).tidyRails).withdrawAlloc m).children m := fun child => by
    obtain ⟨-, test⟩ := List.mem_filter.1 child
    rw [show ((((s.dropRail m).tidyRails).withdrawAlloc m).thr n).joinable = false from gone.2.2.1] at test
    cases test
  unfold vacate
  rw [thr_orphans _ out]
  exact gone

theorem kept_abandonEntries (m : Nat) : (s.abandonEntries m).threads = s.threads ∧ (s.abandonEntries m).rails = s.rails := by
  have each (l : List HeldEntry) : ∀ t : State, let u := l.foldl (fun (t : State) h =>
      (t.withBegun h.queue.val h.cell fun b => { b with causes := [14], handed := false }).noteDue h.queue.val h.cell) t
      u.threads = t.threads ∧ u.rails = t.rails := by
    induction l with
    | nil => exact fun _ => ⟨rfl, rfl⟩
    | cons h l ih =>
      intro t
      obtain ⟨threads, rails⟩ := ih ((t.withBegun h.queue.val h.cell fun b => { b with causes := [14], handed := false }).noteDue h.queue.val h.cell)
      have step : ((t.withBegun h.queue.val h.cell fun b => { b with causes := [14], handed := false }).noteDue h.queue.val h.cell).threads = t.threads ∧
          ((t.withBegun h.queue.val h.cell fun b => { b with causes := [14], handed := false }).noteDue h.queue.val h.cell).rails = t.rails := by
        unfold noteDue
        split <;> exact ⟨rfl, rfl⟩
      exact ⟨threads.trans step.1, rails.trans step.2⟩
  exact each _ _

/-- What an abort writes into the thread's record. -/
theorem gone_abortThread (n : Nat) : Gone ((s.abortThread n).thr n) := by
  unfold abortThread
  rw [thr_setThr]
  refine ⟨rfl, rfl, rfl, rfl, rfl, fun o dead => ?_⟩
  obtain ⟨_, -, rfl⟩ := List.mem_map.1 dead
  rfl

theorem gone_abortThread_other {n : Nat} (m : Nat) (gone : Gone (s.thr n)) : Gone ((s.abortThread m).thr n) := by
  by_cases same : n = m
  · rw [same]
    exact gone_abortThread s m
  · have left : ((((s.joinNone m).vacate m).abandonEntries m)).thr n = ((s.joinNone m).vacate m).thr n :=
      congrArg (fun l : SMap Thread => SMap.get ({} : Thread) l n) (kept_abandonEntries ((s.joinNone m).vacate m) m).1
    unfold abortThread
    rw [thr_setThr_ne _ _ same, left]
    exact gone_vacate _ m (gone_joinNone m gone)

theorem gone_aborts {l : List Nat} {n : Nat} (first : n ∈ l ∨ Gone (s.thr n)) : Gone ((l.foldl abortThread s).thr n) := by
  induction l generalizing s with
  | nil => exact first.resolve_left List.not_mem_nil
  | cons k l ih =>
    refine ih _ ?_
    rcases first with named | gone
    · rcases List.mem_cons.1 named with rfl | later
      · exact .inr (gone_abortThread s n)
      · exact .inl later
    · exact .inr (gone_abortThread_other s k gone)

/-! ### The reader of a Rail through the aborts of a RESTART_TRUSS -/

theorem rails_orphans (l : List Nat) : (l.foldl orphan s).rails = s.rails := by
  induction l generalizing s with
  | nil => rfl
  | cons k l ih =>
    refine (ih _).trans ?_
    unfold orphan
    dsimp only
    split <;> rw [setThr_frame]

theorem rails_joinNone (n : Nat) : (s.joinNone n).rails = s.rails := by
  have given (u : State) (m r : Nat) (w : Word) : (u.setGreg m r w).rails = u.rails := by
    unfold setGreg
    split
    · rfl
    · rw [setThr_frame]
  unfold joinNone
  dsimp only
  split
  · split
    · rw [given, setThr_frame]
    · rfl
  · rfl

theorem rail_congr {s t : State} (kept : t.rails = s.rails) (p r : Nat) : t.rail p r = s.rail p r := by rw [rail, rail, kept]

theorem reader_abortThread {p r k : Nat} (n : Nat) (reads : (s.rail p r).reader = some k) : ((s.abortThread n).rail p r).reader = some k := by
  have joined : ((s.joinNone n).rail p r).reader = some k := by rw [rail_congr (rails_joinNone s n)]; exact reads
  have dropped := reader_dropRail _ n joined
  have vacated : ((s.joinNone n).vacate n).rail p r = ((s.joinNone n).dropRail n).rail p r :=
    (rail_congr (rails_orphans _ _) p r).trans (rail_tidyRails _ dropped)
  unfold abortThread
  rw [setThr_frame, ← dropped, ← vacated]
  exact congrArg Rail.reader (rail_congr (kept_abandonEntries ((s.joinNone n).vacate n) n).2 p r)

theorem reader_aborts {p r k : Nat} (l : List Nat) (reads : (s.rail p r).reader = some k) :
    ((l.foldl abortThread s).rail p r).reader = some k := by
  induction l generalizing s with
  | nil => exact reads
  | cons n l ih => exact ih _ (reader_abortThread s n reads)

/-! ### The threads of a Truss -/

theorem mem_trussThreads {i n : Nat} : n ∈ trussThreads i ↔ ∃ k, k < 64 ∧ n = 64 * i + k := by
  simp [trussThreads, eq_comm]

theorem mem_pool {i n : Nat} : n ∈ (trussThreads i).drop 1 ↔ ∃ k, 0 < k ∧ k < 64 ∧ n = 64 * i + k := by
  unfold trussThreads
  rw [← List.map_drop, show (List.range 64).drop 1 = List.range' 1 63 from rfl, List.mem_map]
  refine exists_congr fun k => ?_
  rw [List.mem_range'_1, and_assoc, eq_comm]
  exact Iff.rfl

/-- A Truss is stalled in the words of R399. -/
def Stalled (i : Nat) : Prop :=
  (∃ k, 0 < k ∧ k < 64 ∧ (s.thr (64 * i + k)).state = .waiting) ∧ ∀ k, 0 < k → k < 64 →
    (s.thr (64 * i + k)).state ≠ .running ∧ (s.thr (64 * i + k)).state ≠ .halted ∧
      ((s.thr (64 * i + k)).state = .waiting → (s.thr (64 * i + k)).waitMask &&& 0x9F = 0 ∧ (s.thr (64 * i + k)).implicit = none)

theorem stalled399_iff (i : Nat) : s.stalled399 i = true ↔ Stalled s i := by
  unfold stalled399 Stalled
  dsimp only
  rw [Bool.and_eq_true, List.any_eq_true, List.all_eq_true]
  refine and_congr ⟨?_, ?_⟩ ⟨?_, ?_⟩
  · rintro ⟨n, pool, waits⟩
    obtain ⟨k, pos, small, rfl⟩ := mem_pool.1 pool
    exact ⟨k, pos, small, eq_of_beq waits⟩
  · rintro ⟨k, pos, small, waits⟩
    exact ⟨_, mem_pool.2 ⟨k, pos, small, rfl⟩, beq_iff_eq.2 waits⟩
  · intro all k pos small
    have one := all _ (mem_pool.2 ⟨k, pos, small, rfl⟩)
    simp only [Bool.and_eq_true, Bool.or_eq_true, bne_iff_ne, Bool.not_eq_true', beq_eq_false_iff_ne, beq_iff_eq, Option.isNone_iff_eq_none] at one
    exact ⟨one.1.1, one.1.2, fun waits => one.2.resolve_left fun h => h waits⟩
  · intro all n pool
    obtain ⟨k, pos, small, rfl⟩ := mem_pool.1 pool
    obtain ⟨running, halted, waits⟩ := all k pos small
    simp only [Bool.and_eq_true, Bool.or_eq_true, bne_iff_ne, Bool.not_eq_true', beq_eq_false_iff_ne, beq_iff_eq, Option.isNone_iff_eq_none]
    exact ⟨⟨running, halted⟩, or_iff_not_imp_left.2 fun h => waits (not_not.1 h)⟩

theorem halted_iff (i : Nat) : ((trussThreads i).any fun n => (s.thr n).state == .halted) = true ↔ ∃ k, k < 64 ∧ (s.thr (64 * i + k)).state = .halted := by
  rw [List.any_eq_true]
  constructor
  · rintro ⟨n, mine, halted⟩
    obtain ⟨k, small, rfl⟩ := mem_trussThreads.1 mine
    exact ⟨k, small, eq_of_beq halted⟩
  · rintro ⟨k, small, halted⟩
    exact ⟨_, mem_trussThreads.2 ⟨k, small, rfl⟩, beq_iff_eq.2 halted⟩

/-! ### The timer -/

section
variable {s} {n : ThreadId}

theorem timer_idle (off : (s.thr n.val).armed = false) : exec (.timer n) s = .next s :=
  congrArg Host.Outcome.next (if_pos (by rw [off]; rfl))

variable (armed : (s.thr n.val).armed = true) (due : (s.thr n.val).cmp.toNat ≤ s.cycle.toNat) (on : s.domOn (16 + n.val / 64) = true)
include armed due on

/-- The thread with TIMER pending. -/
abbrev timed (s : State) (n : ThreadId) : State := s.setThr n.val { s.thr n.val with pend := (s.thr n.val).pend ||| 1 }

/-- The record of a thread that waits no longer for its ALLOC. -/
def unwaited (y : Thread) : Thread :=
  { y with implicit := none, state := if y.state = .waiting then .running else y.state, prior := if y.prior = .waiting then .running else y.prior }

theorem timer_reached : exec (.timer n) s = .next (match (s.thr n.val).implicit with
    | some (.alloc _ _ _ rd) => (((timed s n).withdrawAlloc n.val).setThr n.val (unwaited ((timed s n).thr n.val))).setGreg n.val rd.toNat noneVal
    | _ => timed s n) := by
  have woken : (timed s n).sourceWake (n.val / 64) = timed s n := sourceWake_on _ _ ((Domains.domOn_setThr ..).trans on)
  refine congrArg Host.Outcome.next ((if_neg ?_).trans ?_)
  · simp [armed, Nat.not_lt.2 due]
  · dsimp only
    rw [show trussOf n.val = n.val / 64 from rfl, woken]
    rfl

theorem timer_pends (idle : (s.thr n.val).implicit = none) : ∃ t, exec (.timer n) s = .next t ∧ s.OnlyThread t n.val ∧
    t.thr n.val = { s.thr n.val with pend := (s.thr n.val).pend ||| 1 } := by
  refine ⟨timed s n, ?_, onlyThread_setThr .., thr_setThr ..⟩
  rw [timer_reached armed due on, idle]

theorem timer_alloc {a b c : _} {rd : RegNo} (waits : (s.thr n.val).implicit = some (.alloc a b c rd)) : ∃ t, exec (.timer n) s = .next t ∧
    (t.thr n.val).implicit = none ∧ ((s.thr n.val).state = .waiting → (t.thr n.val).state = .running) ∧ (rd ≠ 0 → t.g n.val rd = noneVal) ∧
    ∀ w ∈ t.bpmWait, w.who ≠ .thread n.val := by
  have ran := timer_reached armed due on
  rw [waits] at ran
  obtain ⟨⟨only, -⟩, own, reads⟩ := wrote_setGreg (((timed s n).withdrawAlloc n.val).setThr n.val (unwaited ((timed s n).thr n.val))) n.val rd noneVal
  refine ⟨_, ran, ?_, ?_, ?_, ?_⟩
  · exact (congrArg Thread.implicit own).trans (congrArg Thread.implicit (thr_setThr ..))
  · intro waiting
    refine (congrArg Thread.state own).trans ((congrArg Thread.state (thr_setThr ..)).trans ?_)
    rw [thr_setThr]
    exact if_pos waiting
  · intro named
    exact (reads rd).trans (if_pos ⟨rfl, named⟩)
  · intro w listed
    have listed : w ∈ ((((timed s n).withdrawAlloc n.val).setThr n.val (unwaited ((timed s n).thr n.val))).setGreg n.val rd.toNat noneVal).bpmWait := listed
    rw [only, setThr_frame ((timed s n).withdrawAlloc n.val)] at listed
    exact bne_iff_ne.1 (List.mem_filter.1 listed).2

end

/-! ### The stall report -/

theorem class_stall {k : Nat} (h : k < 12) : faultClass (BitVec.ofNat 8 (trussSrc k)) (BitVec.ofNat 8 0x01) = some .ucc := by
  interval_cases k <;> rfl

/-- What the detector tells of a stall of Truss `i` in which `k` threads wait. -/
def report (i k : Nat) : State := ((s.raise (trussSrc i) 0x01 k).trsEvt i 0).supCause F.TRS_SUP_CAUSE_STALL i

theorem kept_power {s t : State} (h : PowerOnly s t) : t.stallDone = s.stallDone ∧ t.threads = s.threads := by
  rw [h]
  exact ⟨rfl, rfl⟩

theorem kept_signals {s t : State} (h : SignalsOnly s t) : t.stallDone = s.stallDone ∧ t.threads = s.threads := by
  rw [h]
  exact ⟨rfl, rfl⟩

theorem kept_report (i k : Nat) : (report s i k).stallDone = s.stallDone ∧ (report s i k).threads = s.threads := by
  have power : PowerOnly (s.raise (trussSrc i) 0x01 k) (report s i k) :=
    (power_setEvt ..).trans ((power_setFld ..).trans (power_sourceWake ..))
  obtain ⟨done, threads⟩ := kept_power power
  obtain ⟨done', threads'⟩ := kept_signals (signals_raise s (trussSrc i) 0x01 k)
  exact ⟨done.trans done', threads.trans threads'⟩

theorem told_report (i k : Nat) : (report s i k).fld F.TRS_SUP_CAUSE_STALL i = 1 ∧ (report s i k).Event .TRS_EVT i 0 := by
  unfold report supCause
  constructor
  · rw [(keeps_sourceWake ..).fld _ _ (by decide), fld_setFld_self _ (by decide)]
    rfl
  · refine event_congr ?_ (event_trsEvt (s.raise (trussSrc i) 0x01 k) i (b := 0) (by decide))
    rw [(keeps_sourceWake ..).reg _ _ (by decide), reg_setFld_other _ (by decide)]

theorem counted_report {i : Nat} (k : Nat) (h : i < 12) (on : s.coreOff = false) :
    (report s i k).fld F.FCU_CNT_COUNT 1 = min (s.fld F.FCU_CNT_COUNT 1 + 1) 0xFFFFFFFF := by
  unfold report supCause
  rw [(keeps_sourceWake ..).fld _ _ (by decide), fld_setFld_other _ (by decide), trsEvt, fld_setEvt_other _ (by decide)]
  exact fld_raise_count s (trussSrc i) 0x01 k (c := .ucc) on (class_stall h)

section
variable {s} {tr : Truss}

theorem stall_told (stalled : Stalled s tr.val) (first : SMap.get false s.stallDone tr.val = false) :
    ∃ t, exec (.trussStall tr) s = .next t ∧ SMap.get false t.stallDone tr.val = true ∧ t.fld F.TRS_SUP_CAUSE_STALL tr.val = 1 ∧
      t.Event .TRS_EVT tr.val 0 ∧ t.threads = s.threads ∧
      (s.coreOff = false → t.fld F.FCU_CNT_COUNT 1 = min (s.fld F.FCU_CNT_COUNT 1 + 1) 0xFFFFFFFF) := by
  obtain ⟨waiting, told⟩ : ∃ k, exec (.trussStall tr) s =
      .next (report { s with stallDone := SMap.put false s.stallDone tr.val true } tr.val k) :=
    ⟨_, congrArg Host.Outcome.next (if_neg (by simp [(stalled399_iff s tr.val).2 stalled, first]))⟩
  obtain ⟨done, threads⟩ := kept_report { s with stallDone := SMap.put false s.stallDone tr.val true } tr.val waiting
  obtain ⟨cause, event⟩ := told_report { s with stallDone := SMap.put false s.stallDone tr.val true } tr.val waiting
  refine ⟨_, told, ?_, cause, event, threads, fun on => counted_report { s with stallDone := _ } waiting tr.isLt on⟩
  rw [done]
  exact SMap.get_put_self false s.stallDone tr.val true

theorem stall_quiet (quiet : ¬Stalled s tr.val ∨ SMap.get false s.stallDone tr.val = true) : exec (.trussStall tr) s = .next s := by
  refine congrArg Host.Outcome.next (if_pos ?_)
  rw [← stalled399_iff, Bool.not_eq_true] at quiet
  rcases quiet with h | h <;> simp [h]

end

/-! ### The Manager's commands -/

/-- A Truss command has ended with a code. -/
def TrussEnded (t : State) (i code : Nat) (q : Seq) : Prop :=
  t.Ended F.TRS_STATUS_LAST_RESULT F.TRS_STATUS_LAST_SEQ i code q ∧ t.Event .TRS_EVT i 3

theorem ended_trsEnd (i : Nat) (q : Seq) {code : Nat} (h : code < 256) : TrussEnded (s.trsEnd i q code) i code q := by
  refine ⟨?_, event_setEvt _ (by decide)⟩
  unfold trsEnd trsEvt Ended
  rw [fld_setEvt_other _ (by decide), fld_setEvt_other _ (by decide)]
  exact fld_endCmd s (by decide) (by decide) (by decide) rfl h

theorem only_trsEnd (i : Nat) (q : Seq) (code : Nat) : s.OnlySignals (s.trsEnd i q code) := signals_trans (only_endCmd ..) (only_setEvt ..)

theorem busy_trsEnd (i : Nat) (q : Seq) (code : Nat) : (s.trsEnd i q code).fld F.TRS_STATUS_BUSY i = s.fld F.TRS_STATUS_BUSY i := by
  unfold trsEnd trsEvt
  rw [fld_setEvt_other _ (by decide), fld_endCmd_apart _ (by decide) (by decide)]

theorem thr_trsEnd (i : Nat) (q : Seq) (code n : Nat) : (s.trsEnd i q code).thr n = s.thr n := by
  rw [only_trsEnd]
  rfl

/-- A command that ends at once with a code, and changes nothing else. -/
def Refuses (s : State) (c : Instr) (i code : Nat) (q : Seq) : Prop :=
  ∃ t, exec c s = .next t ∧ s.OnlySignals t ∧ TrussEnded t i code q

variable {s} in
theorem refuses_of {c : Instr} {i code : Nat} {q : Seq} (ran : exec c s = .next (s.trsEnd i q code)) (h : code < 256) : Refuses s c i code q :=
  ⟨_, ran, only_trsEnd .., ended_trsEnd s i q h⟩

section
variable {s} {tr : Truss} {l : Fin 64} {q : Seq} (cmd : s.regOpen .TRS_CMD tr.val = true)
include cmd

theorem exec_abortThread : exec (.abortThread tr l q) s = .next (
    if s.flag F.TRS_STATUS_BUSY tr.val then s.trsEnd tr.val q 1
    else if l.val = 0 ∨ (s.thr (64 * tr.val + l.val)).state = .free then s.trsEnd tr.val q 2
    else if (s.thr (64 * tr.val + l.val)).state = .halted then s.trsEnd tr.val q 3
    else ((s.abortThread (64 * tr.val + l.val)).setFld F.TRS_STATUS_BUSY tr.val 1).setFld F.TRS_CMD_SEQ tr.val q.toNat) :=
  congrArg Host.Outcome.next (onReg_open s _ _ _ _ cmd)

/-- The threads that RESTART_TRUSS aborts: the supervisor and every thread that is not FREE. -/
abbrev restarted (s : State) (i : Nat) : List Nat := (trussThreads i).filter fun n => decide (n % 64 = 0) || (s.thr n).state != .free

theorem exec_restartTruss : exec (.restartTruss tr q) s = .next (
    if s.flag F.TRS_STATUS_BUSY tr.val then s.trsEnd tr.val q 1
    else if (trussThreads tr.val).any fun n => (s.thr n).state == .halted then s.trsEnd tr.val q 3
    else if s.trussPwr tr.val ≠ 0 then s.trsEnd tr.val q 4
    else if !s.flag F.TRS_INFO_FIRMWARE tr.val then s.trsEnd tr.val q 5
    else ((((restarted s tr.val).foldl abortThread s).emptyRails tr.val).setFld F.TRS_STATUS_BUSY tr.val 1).setFld F.TRS_CMD_SEQ tr.val q.toNat) :=
  congrArg Host.Outcome.next (onReg_open s _ _ _ _ cmd)

theorem busy_refuses (busy : s.flag F.TRS_STATUS_BUSY tr.val = true) :
    Refuses s (.abortThread tr l q) tr.val 1 q ∧ Refuses s (.restartTruss tr q) tr.val 1 q :=
  ⟨refuses_of ((exec_abortThread cmd).trans (congrArg _ (if_pos busy))) (by decide),
    refuses_of ((exec_restartTruss cmd).trans (congrArg _ (if_pos busy))) (by decide)⟩

section
variable (idle : s.flag F.TRS_STATUS_BUSY tr.val = false)
include idle

theorem abort_noThread (none_ : l = 0 ∨ (s.thr (64 * tr.val + l.val)).state = .free) : Refuses s (.abortThread tr l q) tr.val 2 q :=
  refuses_of ((exec_abortThread cmd).trans (congrArg _ ((if_neg (Bool.not_eq_true _ ▸ idle)).trans (if_pos (none_.imp_left fun h => by rw [h]; rfl)))))
    (by decide)

section
variable (pool : l ≠ 0)
include pool

theorem abort_halted (halted : (s.thr (64 * tr.val + l.val)).state = .halted) : Refuses s (.abortThread tr l q) tr.val 3 q := by
  have named : ¬(l.val = 0 ∨ (s.thr (64 * tr.val + l.val)).state = .free) := by
    rw [halted]
    exact not_or.2 ⟨fun h => pool (Fin.ext h), by decide⟩
  exact refuses_of ((exec_abortThread cmd).trans (congrArg _ ((if_neg (Bool.not_eq_true _ ▸ idle)).trans ((if_neg named).trans (if_pos halted)))))
    (by decide)

theorem abort_starts (lives : (s.thr (64 * tr.val + l.val)).state ≠ .free) (runs : (s.thr (64 * tr.val + l.val)).state ≠ .halted) :
    ∃ t, exec (.abortThread tr l q) s = .next t ∧ t.fld F.TRS_STATUS_BUSY tr.val = 1 ∧ Gone (t.thr (64 * tr.val + l.val)) := by
  have named : ¬(l.val = 0 ∨ (s.thr (64 * tr.val + l.val)).state = .free) := not_or.2 ⟨fun h => pool (Fin.ext h), lives⟩
  refine ⟨_, (exec_abortThread cmd).trans (congrArg _ ((if_neg (Bool.not_eq_true _ ▸ idle)).trans ((if_neg named).trans (if_neg runs)))), ?_,
    gone_abortThread s _⟩
  rw [fld_setFld_other _ (by decide), fld_setFld_self _ (by decide)]
  rfl

end

theorem restart_halted (halted : ∃ k, k < 64 ∧ (s.thr (64 * tr.val + k)).state = .halted) : Refuses s (.restartTruss tr q) tr.val 3 q :=
  refuses_of ((exec_restartTruss cmd).trans (congrArg _ ((if_neg (Bool.not_eq_true _ ▸ idle)).trans (if_pos ((halted_iff s tr.val).2 halted)))))
    (by decide)

variable (runs : ¬∃ k, k < 64 ∧ (s.thr (64 * tr.val + k)).state = .halted)
include runs

theorem restart_gated (gated : s.trussPwr tr.val ≠ 0) : Refuses s (.restartTruss tr q) tr.val 4 q :=
  refuses_of ((exec_restartTruss cmd).trans (congrArg _ ((if_neg (Bool.not_eq_true _ ▸ idle)).trans
    ((if_neg ((halted_iff s tr.val).not.2 runs)).trans (if_pos gated))))) (by decide)

variable (on : s.trussPwr tr.val = 0)
include on

theorem restart_noFirmware (none_ : s.flag F.TRS_INFO_FIRMWARE tr.val = false) : Refuses s (.restartTruss tr q) tr.val 5 q :=
  refuses_of ((exec_restartTruss cmd).trans (congrArg _ ((if_neg (Bool.not_eq_true _ ▸ idle)).trans
    ((if_neg ((halted_iff s tr.val).not.2 runs)).trans ((if_neg (not_not.2 on)).trans (if_pos (by rw [none_]; rfl))))))) (by decide)

theorem restart_starts (firmware : s.flag F.TRS_INFO_FIRMWARE tr.val = true) : ∃ t, exec (.restartTruss tr q) s = .next t ∧
    t.fld F.TRS_STATUS_BUSY tr.val = 1 ∧
    (∀ k, k < 64 → k = 0 ∨ (s.thr (64 * tr.val + k)).state ≠ .free → Gone (t.thr (64 * tr.val + k))) ∧
    ∀ p r, (s.rail p r).reader = some tr.val → (t.rail p r).msgs = [] := by
  refine ⟨_, (exec_restartTruss cmd).trans (congrArg _ ((if_neg (Bool.not_eq_true _ ▸ idle)).trans
    ((if_neg ((halted_iff s tr.val).not.2 runs)).trans ((if_neg (not_not.2 on)).trans (if_neg (by rw [firmware]; decide)))))), ?_, ?_, ?_⟩
  · rw [fld_setFld_other _ (by decide), fld_setFld_self _ (by decide)]
    rfl
  · intro k small named
    refine gone_aborts s (.inl (List.mem_filter.2 ⟨mem_trussThreads.2 ⟨k, small, rfl⟩, ?_⟩))
    rw [Bool.or_eq_true, decide_eq_true_eq, bne_iff_ne]
    exact named.imp_left fun first => by omega
  · exact fun p r reads => msgs_emptyRails _ (reader_aborts s _ reads)

end
end

/-- Every thread of a list is FREE after its record has been cleared, and no other record changes. -/
theorem thr_clears (l : List Nat) (n : Nat) : (l.foldl (fun u n => u.setThr n {}) s).thr n = if n ∈ l then {} else s.thr n := by
  induction l generalizing s with
  | nil => rfl
  | cons k l ih =>
    rw [List.foldl_cons, ih]
    by_cases later : n ∈ l
    · rw [if_pos later, if_pos (List.mem_cons_of_mem _ later)]
    · rw [if_neg later]
      by_cases same : n = k
      · rw [same, thr_setThr, if_pos List.mem_cons_self]
      · rw [thr_setThr_ne _ _ same, if_neg (List.mem_cons.not.2 (not_or.2 ⟨same, later⟩))]

theorem reg_clears (l : List Nat) (r : Reg) (i : Nat) : (l.foldl (fun u n => u.setThr n {}) s).reg r i = s.reg r i := by
  induction l generalizing s with
  | nil => rfl
  | cons k l ih => exact (ih _).trans (Fields.reg_setThr ..)

theorem startSup_runs {i : Nat} (firmware : s.flag F.TRS_INFO_FIRMWARE i = true) (done : (s.thr (64 * i)).ops = []) :
    s.startSup i = s.setThr (64 * i) { state := .running, pc := BitVec.ofNat 32 (s.fld F.TRS_INFO_ENTRY i) } := by
  unfold startSup
  rw [if_pos firmware, done]

section
variable {s} {tr : Truss} (busy : s.flag F.TRS_STATUS_BUSY tr.val = true)
include busy

theorem abort_ends {l : Fin 64} (pool : l ≠ 0) (one : s.abortingIn tr.val = [64 * tr.val + l.val]) (done : (s.thr (64 * tr.val + l.val)).ops = []) :
    ∃ t, exec (.abortThreadDone tr) s = .next t ∧ (t.thr (64 * tr.val + l.val)).state = .free ∧ t.fld F.TRS_STATUS_BUSY tr.val = 0 ∧
      TrussEnded t tr.val 0 (s.trsSeq tr.val) := by
  have ran : exec (.abortThreadDone tr) s = .next (((s.setThr (64 * tr.val + l.val) {}).setFld F.TRS_STATUS_BUSY tr.val 0).trsEnd tr.val
      (s.trsSeq tr.val) 0) := by
    show execAbortThreadDone tr s = _
    unfold execAbortThreadDone
    rw [one]
    refine congrArg Host.Outcome.next (if_pos ?_)
    have inPool : l.val ≠ 0 := fun h => pool (Fin.ext h)
    have named : (64 * tr.val + l.val) % 64 ≠ 0 := by omega
    rw [busy, done, bne_iff_ne.2 named]
    rfl
  refine ⟨_, ran, ?_, ?_, ended_trsEnd _ _ _ (by decide)⟩
  · rw [thr_trsEnd]
    exact congrArg Thread.state (thr_setThr s (64 * tr.val + l.val) {})
  · rw [busy_trsEnd, fld_setFld_self _ (by decide)]
    rfl

theorem restart_ends (firmware : s.flag F.TRS_INFO_FIRMWARE tr.val = true) (aborts : (s.thr (64 * tr.val)).aborting = true)
    (stays : (s.thr (64 * tr.val)).dropping = false)
    (done : ∀ k, k < 64 → (s.thr (64 * tr.val + k)).aborting = true → (s.thr (64 * tr.val + k)).ops = []) :
    ∃ t, exec (.restartTrussDone tr) s = .next t ∧ t.fld F.TRS_STATUS_BUSY tr.val = 0 ∧ TrussEnded t tr.val 0 (s.trsSeq tr.val) ∧
      t.thr (64 * tr.val) = { state := .running, pc := BitVec.ofNat 32 (s.fld F.TRS_INFO_ENTRY tr.val) } ∧
      ∀ k, 0 < k → k < 64 → (s.thr (64 * tr.val + k)).aborting = true → (s.thr (64 * tr.val + k)).dropping = false →
        (t.thr (64 * tr.val + k)).state = .free := by
  have supervisor : 64 * tr.val ∈ s.abortingIn tr.val :=
    List.mem_filter.2 ⟨mem_trussThreads.2 ⟨0, by decide, rfl⟩, by rw [aborts, stays]; rfl⟩
  have returned : ((s.abortingIn tr.val).all fun n => (s.thr n).ops.isEmpty) = true := by
    rw [List.all_eq_true]
    intro n listed
    obtain ⟨mine, test⟩ := List.mem_filter.1 listed
    obtain ⟨k, small, rfl⟩ := mem_trussThreads.1 mine
    rw [done k small (Bool.and_eq_true_iff.1 test).1]
    rfl
  have kept (f : Fld) : ((s.abortingIn tr.val).foldl (fun u n => u.setThr n {}) s).fld f tr.val = s.fld f tr.val :=
    congrArg (getBits · f.lo f.width) (reg_clears s (s.abortingIn tr.val) f.reg tr.val)
  have seq : ((s.abortingIn tr.val).foldl (fun u n => u.setThr n {}) s).trsSeq tr.val = s.trsSeq tr.val :=
    congrArg (BitVec.ofNat 16) (kept F.TRS_CMD_SEQ)
  have ran : exec (.restartTrussDone tr) s = .next (((((s.abortingIn tr.val).foldl (fun u n => u.setThr n {}) s).startSup tr.val).setFld
      F.TRS_STATUS_BUSY tr.val 0).trsEnd tr.val (s.trsSeq tr.val) 0) := by
    show execRestartTrussDone tr s = _
    unfold execRestartTrussDone
    dsimp only
    rw [busy, returned, List.contains_iff_mem.2 supervisor, seq]
    rfl
  have starts := startSup_runs ((s.abortingIn tr.val).foldl (fun u n => u.setThr n {}) s) (i := tr.val)
    ((congrArg (· != 0) (kept F.TRS_INFO_FIRMWARE)).trans firmware) (by rw [thr_clears, if_pos supervisor])
  rw [kept] at starts
  refine ⟨_, ran, ?_, ended_trsEnd _ _ _ (by decide), ?_, ?_⟩
  · rw [busy_trsEnd, fld_setFld_self _ (by decide)]
    rfl
  · rw [thr_trsEnd, starts]
    exact thr_setThr ..
  · intro k pos small aborting kept
    have listed : 64 * tr.val + k ∈ s.abortingIn tr.val :=
      List.mem_filter.2 ⟨mem_trussThreads.2 ⟨k, small, rfl⟩, by rw [aborting, kept]; rfl⟩
    have other : 64 * tr.val + k ≠ 64 * tr.val := by omega
    rw [thr_trsEnd, starts]
    have freed := thr_clears s (s.abortingIn tr.val) (64 * tr.val + k)
    rw [if_pos listed] at freed
    exact (congrArg Thread.state (thr_setThr_ne _ _ other)).trans (congrArg Thread.state freed)

end

/-- Settles O54: a timer that is reached, a stall, and the two Manager commands from their refusals to their ends. -/
theorem trussCommands : Obligations.TrussCommands := by
  unfold Obligations.TrussCommands
  intro s n tr l q y i m busy ended cmd refused gone stalled halted held
  exact ⟨fun armed due on => ⟨timer_pends armed due on, fun a b c rd waits => timer_alloc armed due on waits⟩, timer_idle,
    stall_told, stall_quiet, fun h => ⟨fun o => (busy_refuses o h).1, fun o => (busy_refuses (l := l) o h).2⟩,
    fun h none_ o => abort_noThread o h none_, fun h pool stops o => abort_halted o h pool stops,
    fun o h pool lives runs => abort_starts o h pool lives runs, fun h pool one done => abort_ends h pool one done,
    fun h stops o => restart_halted o h stops, fun h runs gated o => restart_gated o h runs gated,
    fun ⟨h, runs, on⟩ none_ o => restart_noFirmware o h runs on none_,
    fun o ⟨h, runs, on⟩ firmware => restart_starts o h runs on firmware, fun h firmware aborts stays done => restart_ends h firmware aborts stays done⟩

end Sys2Proof.Machine.Trusses
end

section
/-!
PROOFS. MAC link states, RESTART, snapshots and the Standby link (R298–R303, R318, R319, R321).
-/

namespace Sys2Proof.Machine.Macs
open State Fields Frames Pool

/-- What one step of a walk over a list brings about, and no step undoes, holds at its end. -/
theorem foldl_of_mem {A B : Type} {f : B → A → B} {P : B → Prop} {a : A} {l : List A} (b : B) (makes : ∀ x, P (f x a))
    (keeps : ∀ x c, P x → P (f x c)) (first : a ∈ l ∨ P b) : P (l.foldl f b) := by
  induction l generalizing b with
  | nil => exact first.resolve_left List.not_mem_nil
  | cons c l ih =>
    refine ih _ ?_
    rcases first with named | holds
    · rcases List.mem_cons.1 named with rfl | later
      · exact .inr (makes b)
      · exact .inl later
    · exact .inr (keeps b c holds)

theorem foldl_keeps {A B C : Type} {f : B → A → B} (v : B → C) (keeps : ∀ x c, v (f x c) = v x) (l : List A) (b : B) :
    v (l.foldl f b) = v b := by
  induction l generalizing b with
  | nil => rfl
  | cons c l ih => exact (ih _).trans (keeps b c)

variable (s : State) {m : MacId}

/-! ### Link states -/

theorem macState_set {v : Nat} (i : Nat) (h : v < 8) : (s.setMacState i v).macState i = v :=
  (fld_setFld_self s (by decide)).trans (Nat.mod_eq_of_lt h)

theorem macState_macEvt (i j b : Nat) : (s.macEvt i b).macState j = s.macState j := fld_setEvt_other s (by decide)

theorem event_macEvt (i : Nat) {b : Nat} (h : b < 64) : (s.macEvt i b).Event .MAC_EVT i b := event_setEvt s ⟨by decide, h⟩

/-- A link that goes to a state, and tells so. -/
theorem moved (i : Nat) {v b : Nat} (small : v < 8) (h : b < 64) : s.OnlySignals ((s.setMacState i v).macEvt i b) ∧
    ((s.setMacState i v).macEvt i b).macState i = v ∧ ((s.setMacState i v).macEvt i b).Event .MAC_EVT i b :=
  ⟨signals_trans (only_setFld ..) (only_setEvt ..), (macState_macEvt ..).trans (macState_set s i small), event_macEvt _ i h⟩

/-- EN written in an image of the control register, and the state that follows. -/
theorem enabled (open_ : s.regOpen .MAC_CTL m.val = true) : ∃ t, exec (.macEnable m) s = .next t ∧
    s.OnlyRegs t [(.MAC_CTL, m.val), (.MAC_STATUS, m.val)] ∧ t.fld F.MAC_CTL_EN m.val = 1 ∧
    t.macState m.val = (if s.macState m.val = 1 then 2 else s.macState m.val) := by
  have state : (s.setFld F.MAC_CTL_EN m.val 1).macState m.val = s.macState m.val := fld_setFld_other s (by decide)
  have set : (s.setFld F.MAC_CTL_EN m.val 1).fld F.MAC_CTL_EN m.val = 1 := fld_setFld_self s (by decide)
  refine ⟨_, congrArg Host.Outcome.next (onReg_open s _ _ _ _ open_), ?_⟩
  dsimp only
  rw [state]
  split
  · exact ⟨⟨rfl, but_trans (but_setFld s F.MAC_CTL_EN _ _) (but_setFld _ F.MAC_STATUS_STATE _ _)⟩, (fld_setFld_other _ (by decide)).trans set,
      macState_set _ _ (by decide)⟩
  · exact ⟨⟨rfl, but_mono (but_setFld s F.MAC_CTL_EN _ _) (by simp [F.MAC_CTL_EN])⟩, set, state⟩

theorem disabled (open_ : s.regOpen .MAC_CTL m.val = true) : ∃ t, exec (.macDisable m) s = .next t ∧
    s.OnlyRegs t [(.MAC_CTL, m.val), (.MAC_STATUS, m.val)] ∧ t.fld F.MAC_CTL_EN m.val = 0 ∧
    t.macState m.val = (if s.macState m.val = 0 then 0 else 1) := by
  have state : (s.setFld F.MAC_CTL_EN m.val 0).macState m.val = s.macState m.val := fld_setFld_other s (by decide)
  have set : (s.setFld F.MAC_CTL_EN m.val 0).fld F.MAC_CTL_EN m.val = 0 := fld_setFld_self s (by decide)
  refine ⟨_, congrArg Host.Outcome.next (onReg_open s _ _ _ _ open_), ?_⟩
  dsimp only
  rw [state]
  split
  · next absent =>
    exact ⟨⟨rfl, but_mono (but_setFld s F.MAC_CTL_EN _ _) (by simp [F.MAC_CTL_EN])⟩, set, state.trans absent⟩
  · exact ⟨⟨rfl, but_trans (but_setFld s F.MAC_CTL_EN _ _) (but_setFld _ F.MAC_STATUS_STATE _ _)⟩, (fld_setFld_other _ (by decide)).trans set,
      macState_set _ _ (by decide)⟩

/-! ### RESTART: the inputs are emptied -/

/-- The place of a MAC's FIFO of a Pier and a class. -/
def fifoKey (i a c : Nat) : Nat := c + 8 * (a + 4 * i)

/-- A frame that is dropped leaves the MACs' inputs alone. -/
theorem macIn_dropPkt (f : Pkt) (code : Nat) : (s.dropPkt f code).macIn = s.macIn := by
  have back : (s.releaseOpt f.head).macIn = s.macIn := by
    rw [(takes_releaseOpt s f.head).only]
  unfold dropPkt
  dsimp only
  split
  · exact back
  · exact back

/-- What one FIFO's flush leaves in the inputs. -/
theorem macIn_flushOne (i k : Nat) (l : List Pkt) :
    (l.foldl (fun v f => v.dropPkt f 12) ((s.setMacFifo i (k / 8) (k % 8) []).macCount i 16 l.length)).macIn =
      SMap.put [] s.macIn (fifoKey i (k / 8) (k % 8)) [] :=
  foldl_keeps State.macIn (fun u f => macIn_dropPkt u f 12) l _

/-- The FIFO at a place is empty. -/
def Empty (key : Nat) (t : State) : Prop := SMap.get [] t.macIn key = []

variable {s} in
theorem Empty.congr {key : Nat} {t : State} (h : Empty key s) (kept : t.macIn = s.macIn) : Empty key t := by
  rw [Empty, kept]
  exact h

theorem empty_put (m : SMap (List Pkt)) (key key' : Nat) (h : SMap.get [] m key = [] ∨ key = key') : SMap.get [] (SMap.put [] m key' []) key = [] := by
  by_cases same : key = key'
  · rw [same, SMap.get_put_self]
  · rw [SMap.get_put_ne _ _ _ _ same, h.resolve_right same]

theorem empty_flushMac_of {key : Nat} (i : Nat) (h : Empty key s) : Empty key (s.flushMac i) := by
  have kept : ∀ (l : List Nat) (u : State), Empty key u → Empty key (l.foldl (fun u k => (u.macFifo i (k / 8) (k % 8)).foldl (fun v f => v.dropPkt f 12)
      ((u.setMacFifo i (k / 8) (k % 8) []).macCount i 16 (u.macFifo i (k / 8) (k % 8)).length)) u) := by
    intro l
    induction l with
    | nil => exact fun _ h => h
    | cons k l ih =>
      refine fun u h => ih _ ?_
      rw [Empty, macIn_flushOne]
      exact empty_put _ _ _ (.inl h)
  exact kept _ s h

theorem empty_flushMac (i a c : Nat) (ha : a < 4) (hc : c < 8) : Empty (fifoKey i a c) (s.flushMac i) := by
  refine foldl_of_mem (a := 8 * a + c) s (fun u => ?_) (fun u k h => ?_) (.inl (List.mem_range.2 (by omega)))
  · rw [Empty, macIn_flushOne]
    exact empty_put _ _ _ (.inr (by unfold fifoKey; omega))
  · rw [Empty, macIn_flushOne]
    exact empty_put _ _ _ (.inl h)

theorem macIn_cbsGap (i : Nat) : (s.cbsGap i).macIn = s.macIn := by
  unfold cbsGap cbsQuiet cbsSending
  dsimp only
  split <;> rfl

/-! ### RESTART: the MACs are placed -/

/-- A MAC is placed under the BREAKOUT of its port with `w` lanes, and tells so. -/
structure Placed (i w : Nat) (t : State) : Prop where
  lanes : t.fld F.MAC_STATUS_LANES i = w
  state : t.macState i = (if w = 0 then 0 else if t.flag F.MAC_CTL_EN i then 2 else 1)
  told : t.Event .MAC_EVT i 3

variable {s} in
theorem Placed.congr {i w : Nat} {t : State} (h : Placed i w s) (kept : ∀ r ∈ [Reg.MAC_STATUS, .MAC_CTL, .MAC_EVT], t.reg r i = s.reg r i) :
    Placed i w t where
  lanes := by
    rw [fld, kept _ (by decide)]
    exact h.lanes
  state := by
    rw [macState, flag, fld, fld, kept F.MAC_STATUS_STATE.reg (by decide), kept F.MAC_CTL_EN.reg (by decide)]
    exact h.state
  told := event_congr (kept _ (by decide)) h.told

/-- One MAC of a RESTART. -/
def placedMac (i : Nat) : State := (s.placeMac i).macEvt i 3

theorem macLanes_le (breakout k : Nat) : macLanes breakout k < 2 ^ 4 := by
  unfold macLanes
  have small : 8 / 2 ^ breakout ≤ 8 := Nat.div_le_self ..
  dsimp only
  split <;> omega

theorem placed_placedMac (i : Nat) : Placed i (macLanes (s.fld F.MAC_PORT_CFG_BREAKOUT (i / 8)) (i % 8)) (placedMac s i) := by
  have small := macLanes_le (s.fld F.MAC_PORT_CFG_BREAKOUT (i / 8)) (i % 8)
  unfold placedMac placeMac
  dsimp only
  refine ⟨?_, ?_, event_macEvt _ i (by decide)⟩
  · rw [macEvt, fld_setEvt_other _ (by decide), setMacState, fld_setFld_apart _ (by decide)]
    exact (fld_setFld_self _ (by decide)).trans (Nat.mod_eq_of_lt small)
  · rw [macState_macEvt]
    refine (macState_set _ i ?_).trans ?_
    · split
      · decide
      · split <;> decide
    · rw [flag, flag, macEvt, fld_setEvt_other _ (by decide), setMacState, fld_setFld_other _ (by decide)]

theorem but_epoch (b : Boundary) (r : Reg) (i : Nat) : s.RegsBut (s.epoch b r i) [(r, i)] := but_setReg s r i _

theorem but_placedMac (i : Nat) :
    s.RegsBut (placedMac s i) [(.MAC_CTL, i), (.MAC_STATUS, i), (.MAC_STATUS, i), (.MAC_EVT, i), (.HEP_DROP_CNT, 0)] := by
  have set : (s.epoch .portRestart .MAC_CTL i).RegsBut (s.placeMac i) [(.MAC_STATUS, i), (.MAC_STATUS, i)] :=
    but_trans (but_congr (but_setFld _ F.MAC_STATUS_LANES i _) rfl) (but_setFld _ F.MAC_STATUS_STATE i _)
  exact but_trans (but_epoch s .portRestart .MAC_CTL i) (but_trans set (but_setEvt _ _ _ _ _ _))

theorem macIn_placedMac (i : Nat) : (placedMac s i).macIn = s.macIn := by
  unfold placedMac
  rw [macEvt, setEvt_frame]
  rfl

/-- A MAC that has been placed stays so when another one, or itself, is placed under the same BREAKOUT. -/
theorem placed_other {i j w : Nat} (h : Placed i w s) (other : j ≠ i) : Placed i w (placedMac s j) :=
  h.congr fun r named => but_placedMac s j r i (by
    have apart : i ≠ j := other.symm
    have drops : r ≠ .HEP_DROP_CNT := by rintro rfl; revert named; decide
    simp [apart, drops])

theorem reg_placedMac (i k : Nat) : (placedMac s i).reg .MAC_PORT_CFG k = s.reg .MAC_PORT_CFG k := but_placedMac s i _ _ (by simp)

/-- The eight MACs of a port, placed. -/
theorem placed_fold (s : State) {p j : Nat} (h : j < 8) :
    Placed (8 * p + j) (macLanes (((List.range 8).foldl (fun u k => placedMac u (8 * p + k)) s).fld F.MAC_PORT_CFG_BREAKOUT p) j)
      ((List.range 8).foldl (fun u k => placedMac u (8 * p + k)) s) := by
  have breakout (l : List Nat) (u : State) : (l.foldl (fun u k => placedMac u (8 * p + k)) u).fld F.MAC_PORT_CFG_BREAKOUT p =
      u.fld F.MAC_PORT_CFG_BREAKOUT p :=
    foldl_keeps (fun u : State => u.fld F.MAC_PORT_CFG_BREAKOUT p) (fun u k => congrArg (getBits · 0 2) (reg_placedMac u (8 * p + k) p)) l u
  rw [breakout]
  have port : (8 * p + j) / 8 = p ∧ (8 * p + j) % 8 = j := by omega
  have both := foldl_of_mem (f := fun u k => placedMac u (8 * p + k))
    (P := fun u : State => u.fld F.MAC_PORT_CFG_BREAKOUT p = s.fld F.MAC_PORT_CFG_BREAKOUT p →
      Placed (8 * p + j) (macLanes (s.fld F.MAC_PORT_CFG_BREAKOUT p) j) u) (a := j) (l := List.range 8) s
    (fun u same => by
      have kept : (placedMac u (8 * p + j)).fld F.MAC_PORT_CFG_BREAKOUT p = u.fld F.MAC_PORT_CFG_BREAKOUT p := breakout [j] u
      have placed := placed_placedMac u (8 * p + j)
      rw [port.1, port.2, ← kept, same] at placed
      exact placed)
    (fun u k ih same => by
      have kept : (placedMac u (8 * p + k)).fld F.MAC_PORT_CFG_BREAKOUT p = u.fld F.MAC_PORT_CFG_BREAKOUT p := breakout [k] u
      by_cases own : k = j
      · have placed := placed_placedMac u (8 * p + j)
        rw [own] at kept same ⊢
        rw [port.1, port.2, ← kept, same] at placed
        exact placed
      · exact placed_other u (ih (kept.symm.trans same)) (by omega))
    (.inl (List.mem_range.2 h))
  exact both (breakout _ s)

theorem macIn_epoch (b : Boundary) (r : Reg) (i : Nat) : (s.epoch b r i).macIn = s.macIn := rfl

/-- The inputs of a port's MACs, emptied, and the port's new BREAKOUT. -/
def flushedPort (p : Nat) : State :=
  ((List.range 8).foldl (fun u k => (u.cbsGap (8 * p + k)).flushMac (8 * p + k)) s).epoch .portRestart .MAC_PORT_CFG p

theorem restartPort_eq (p : Nat) : s.restartPort p = (List.range 8).foldl (fun u k => placedMac u (8 * p + k)) (flushedPort s p) := rfl

theorem empty_flushedPort (p j a c : Nat) (h : j < 8) (ha : a < 4) (hc : c < 8) : Empty (fifoKey (8 * p + j) a c) (flushedPort s p) := by
  have flushed : Empty (fifoKey (8 * p + j) a c) ((List.range 8).foldl (fun u k => (u.cbsGap (8 * p + k)).flushMac (8 * p + k)) s) :=
    foldl_of_mem (a := j) s (fun u => empty_flushMac _ _ a c ha hc)
      (fun u k empty => empty_flushMac_of _ _ (empty.congr (macIn_cbsGap ..))) (.inl (List.mem_range.2 h))
  exact flushed.congr (macIn_epoch ..)

/-- What a RESTART leaves of a port's MACs. -/
theorem restarted (p j : Nat) (h : j < 8) : Placed (8 * p + j) (macLanes ((s.restartPort p).fld F.MAC_PORT_CFG_BREAKOUT p) j) (s.restartPort p) ∧
    ∀ a c, a < 4 → c < 8 → (s.restartPort p).macFifo (8 * p + j) a c = [] := by
  have kept : (s.restartPort p).macIn = (flushedPort s p).macIn := by
    rw [restartPort_eq]
    exact foldl_keeps State.macIn (fun u k => macIn_placedMac u (8 * p + k)) (List.range 8) (flushedPort s p)
  refine ⟨?_, fun a c ha hc => (empty_flushedPort s p j a c h ha hc).congr kept⟩
  rw [restartPort_eq]
  exact placed_fold _ h

section
variable {s} {p : Port} (q : Seq) (open_ : s.regOpen .MAC_PORT_CMD p.val = true)
include open_

theorem restart_busy (busy : s.flag F.MAC_PORT_STATUS_BUSY p.val = true) : ∃ t, exec (.portRestart p q) s = .next t ∧
    s.OnlyRegs t [(.MAC_PORT_STATUS, p.val)] ∧ t.Ended F.MAC_PORT_STATUS_LAST_RESULT F.MAC_PORT_STATUS_LAST_SEQ p.val 1 q ∧
    t.flag F.MAC_PORT_STATUS_BUSY p.val = true := by
  refine ⟨s.portEnd p.val 1 q, congrArg Host.Outcome.next ((onReg_open s _ _ _ _ open_).trans (if_pos busy)),
    ⟨rfl, but_mono (but_endCmd s _ _ _ _ _) (by simp [F.MAC_PORT_STATUS_LAST_RESULT, F.MAC_PORT_STATUS_LAST_SEQ])⟩,
    fld_endCmd s (by decide) (by decide) (by decide) rfl (by decide), ?_⟩
  unfold portEnd flag
  rw [fld_endCmd_apart _ (by decide) (by decide)]
  exact busy

theorem restart_runs (idle : s.flag F.MAC_PORT_STATUS_BUSY p.val = false) : ∃ t, exec (.portRestart p q) s = .next t ∧
    t.flag F.MAC_PORT_STATUS_BUSY p.val = true ∧ SMap.get 0 t.portSeq p.val = q ∧ ∀ j, j < 8 →
      Placed (8 * p.val + j) (macLanes (t.fld F.MAC_PORT_CFG_BREAKOUT p.val) j) t ∧ ∀ a c, a < 4 → c < 8 → t.macFifo (8 * p.val + j) a c = [] := by
  have busy : ((s.restartPort p.val).setFld F.MAC_PORT_STATUS_BUSY p.val 1).fld F.MAC_PORT_STATUS_BUSY p.val = 1 := fld_setFld_self _ (by decide)
  have breakout : ((s.restartPort p.val).setFld F.MAC_PORT_STATUS_BUSY p.val 1).fld F.MAC_PORT_CFG_BREAKOUT p.val =
      (s.restartPort p.val).fld F.MAC_PORT_CFG_BREAKOUT p.val := fld_setFld_other _ (by decide)
  refine ⟨{ (s.restartPort p.val).setFld F.MAC_PORT_STATUS_BUSY p.val 1 with portSeq := _ },
    congrArg Host.Outcome.next ((onReg_open s _ _ _ _ open_).trans (if_neg (Bool.not_eq_true _ ▸ idle))),
    congrArg (· != 0) busy, SMap.get_put_self (0 : Seq) _ p.val q, fun j small => ?_⟩
  obtain ⟨placed, empty⟩ := restarted s p.val j small
  refine ⟨?_, empty⟩
  have same : macLanes (((s.restartPort p.val).setFld F.MAC_PORT_STATUS_BUSY p.val 1).fld F.MAC_PORT_CFG_BREAKOUT p.val) j =
      macLanes ((s.restartPort p.val).fld F.MAC_PORT_CFG_BREAKOUT p.val) j := by rw [breakout]
  exact same ▸ placed.congr fun r named => reg_setFld_other (s.restartPort p.val) (f := F.MAC_PORT_STATUS_BUSY) (by rintro rfl; revert named; decide)

end

/-! ### Snapshots -/

theorem snapped (i : Nat) (l : List Nat) {n : Nat} (listed : n ∈ l) :
    (l.foldl (fun u n => u.setReg .MAC_STAT (20 * i + n) (SMap.get 0 u.macCnt (n + 32 * i))) s).reg .MAC_STAT (20 * i + n) =
      SMap.get 0 s.macCnt (n + 32 * i) := by
  have both := foldl_of_mem (f := fun (u : State) n => u.setReg .MAC_STAT (20 * i + n) (SMap.get 0 u.macCnt (n + 32 * i)))
    (P := fun u => u.macCnt = s.macCnt → u.reg .MAC_STAT (20 * i + n) = SMap.get 0 s.macCnt (n + 32 * i)) (a := n) (l := l) s
    (fun u same => by
      rw [reg_setReg]
      exact congrArg (SMap.get 0 · (n + 32 * i)) same)
    (fun u k ih same => by
      by_cases own : k = n
      · rw [own, reg_setReg]
        exact congrArg (SMap.get 0 · (n + 32 * i)) same
      · rw [reg_setReg_ne _ _ (.inr (by omega))]
        exact ih same)
    (.inl listed)
  exact both (foldl_keeps (f := fun (u : State) n => u.setReg .MAC_STAT (20 * i + n) (SMap.get 0 u.macCnt (n + 32 * i))) State.macCnt
    (fun _ _ => rfl) l s)

theorem snap_frame (i : Nat) (l : List Nat) : l.foldl (fun (u : State) n => u.setReg .MAC_STAT (20 * i + n) (SMap.get 0 u.macCnt (n + 32 * i))) s =
    { s with regs := (l.foldl (fun (u : State) n => u.setReg .MAC_STAT (20 * i + n) (SMap.get 0 u.macCnt (n + 32 * i))) s).regs } := by
  induction l generalizing s with
  | nil => rfl
  | cons n l ih => exact ih _

theorem snap_taken (open_ : s.regOpen .MAC_STAT_SNAP m.val = true) : ∃ t, exec (.macStatSnap m) s = .next t ∧ t = { s with regs := t.regs } ∧
    ∀ n, n < 20 → t.reg .MAC_STAT (20 * m.val + n) = SMap.get 0 s.macCnt (n + 32 * m.val) :=
  ⟨_, congrArg Host.Outcome.next (onReg_open s _ _ _ _ open_), snap_frame s m.val _, fun _ h => snapped s m.val _ (List.mem_range.2 h)⟩

/-! ### The Standby link -/

/-- A bit of a field, set. -/
theorem set_bit (v : Nat) {k : Nat} (h : k < 8) : (v ||| 2 ^ k) % 2 ^ 8 / 2 ^ k % 2 = 1 := by
  have bit : ((v ||| 2 ^ k) % 2 ^ 8).testBit k = true := by
    rw [Nat.testBit_mod_two_pow, Nat.testBit_or, Nat.testBit_two_pow_self]
    simp [h]
  rw [Nat.testBit_eq_decide_div_mod_eq] at bit
  exact of_decide_eq_true bit

theorem kept_bit {v : Nat} (j : Nat) {k : Nat} (h : k < 8) (stands : v / 2 ^ k % 2 = 1) : (v ||| 2 ^ j) % 2 ^ 8 / 2 ^ k % 2 = 1 := by
  have was : v.testBit k = true := by rw [Nat.testBit_eq_decide_div_mod_eq]; exact decide_eq_true stands
  have bit : ((v ||| 2 ^ j) % 2 ^ 8).testBit k = true := by
    rw [Nat.testBit_mod_two_pow, Nat.testBit_or, was]
    simp [h]
  rw [Nat.testBit_eq_decide_div_mod_eq] at bit
  exact of_decide_eq_true bit

section
variable (wire : List Byte)

/-- The patterns of a list that a frame matches, marked. -/
def markPats (l : List Nat) (u : State) : State := l.foldl (fun u k =>
  if s.fld F.MAC_WAKE_CTL_PAT_EN 0 / 2 ^ k % 2 = 1 ∧ s.patternIn k wire then
    u.setFld F.MAC_WAKE_STATUS_PAT 0 (u.fld F.MAC_WAKE_STATUS_PAT 0 ||| 2 ^ k)
  else u) u

theorem only_setWake {f : Fld} (own : f.reg = .MAC_WAKE_STATUS) (v : Nat) : s.OnlyRegs (s.setFld f 0 v) [(.MAC_WAKE_STATUS, 0)] :=
  ⟨rfl, own ▸ but_setFld s f 0 v⟩

variable {s} in
theorem only_trans {t u : State} {l : List (Reg × Nat)} (h : s.OnlyRegs t l) (g : t.OnlyRegs u l) : s.OnlyRegs u l := by
  refine ⟨g.1.trans ?_, but_mono (but_trans h.2 g.2) (by simp)⟩
  rw [h.1]

theorem only_markPats (l : List Nat) (u : State) : u.OnlyRegs (markPats s wire l u) [(.MAC_WAKE_STATUS, 0)] := by
  induction l generalizing u with
  | nil => exact ⟨rfl, but_mono (but_refl u) (List.nil_subset _)⟩
  | cons k l ih =>
    refine only_trans ?_ (ih _)
    beta_reduce
    split
    · exact only_setWake u rfl _
    · exact ⟨rfl, but_mono (but_refl u) (List.nil_subset _)⟩

theorem magic_markPats (l : List Nat) (u : State) : (markPats s wire l u).fld F.MAC_WAKE_STATUS_MAGIC 0 = u.fld F.MAC_WAKE_STATUS_MAGIC 0 :=
  foldl_keeps (fun u : State => u.fld F.MAC_WAKE_STATUS_MAGIC 0) (fun u k => by
    split
    · exact fld_setFld_apart u (by decide)
    · rfl) l u

theorem pat_markPats {l : List Nat} {k : Nat} (h : k < 8) (listed : k ∈ l) (u : State)
    (names : s.fld F.MAC_WAKE_CTL_PAT_EN 0 / 2 ^ k % 2 = 1 ∧ s.patternIn k wire = true) :
    (markPats s wire l u).fld F.MAC_WAKE_STATUS_PAT 0 / 2 ^ k % 2 = 1 := by
  refine foldl_of_mem (P := fun u : State => u.fld F.MAC_WAKE_STATUS_PAT 0 / 2 ^ k % 2 = 1) u (fun v => ?_) (fun v j stands => ?_) (.inl listed)
  · rw [if_pos names, fld_setFld_self _ (by decide)]
    exact set_bit _ h
  · split
    · rw [fld_setFld_self _ (by decide)]
      exact kept_bit j h stands
    · exact stands

/-- The frame with MAGIC marked where it is matched. -/
def markMagic : State := if s.flag F.MAC_WAKE_CTL_MAGIC_EN 0 && s.magicIn wire then s.setFld F.MAC_WAKE_STATUS_MAGIC 0 1 else s

/-- A frame that the Standby link looks at (R318). -/
def Wakes : Prop := s.dev = .standby ∧ s.standbyUp = true ∧ wire.drop (wire.length - 4) = fcs32 (wire.take (wire.length - 4))

variable {s wire} in
theorem exec_standbyFrameRx (h : Wakes s wire) :
    exec (.standbyFrameRx wire) s = .next (markPats s wire (List.range 8) (markMagic s wire)) := by
  obtain ⟨standby, up, sound⟩ := h
  exact congrArg Host.Outcome.next (if_neg (by simp [standby, up, sound]))

theorem only_markMagic : s.OnlyRegs (markMagic s wire) [(.MAC_WAKE_STATUS, 0)] := by
  unfold markMagic
  split
  · exact only_setWake s rfl 1
  · exact ⟨rfl, but_mono (but_refl s) (List.nil_subset _)⟩

theorem link_changes (up : Bool) (standby : s.dev = .standby) (changes : s.standbyUp ≠ up) (clocked : up = true → s.ethLost = false) : ∃ t,
    exec (.standbyLinkChange up) s = .next t ∧ s.OnlyRegs { t with standbyUp := s.standbyUp } [(.MAC_WAKE_STATUS, 0)] ∧ t.standbyUp = up ∧
      (s.flag F.MAC_WAKE_CTL_LINK_EN 0 = true → t.fld F.MAC_WAKE_STATUS_LINK 0 = 1) := by
  have taken : ¬(s.dev ≠ .standby ∨ s.standbyUp = up ∨ (up ∧ s.ethLost)) := by
    rw [not_or, not_or, not_and, not_not]
    exact ⟨standby, changes, fun h lost => by rw [clocked h] at lost; cases lost⟩
  refine ⟨_, congrArg Host.Outcome.next (if_neg taken), ?_⟩
  dsimp only
  split
  · exact ⟨only_setWake s (f := F.MAC_WAKE_STATUS_LINK) rfl 1, rfl, fun _ => fld_setFld_self _ (by decide)⟩
  · next off => exact ⟨⟨rfl, but_mono (but_refl s) (List.nil_subset _)⟩, rfl, fun on => absurd on off⟩

end

/-- Settles O49: each change of a MAC's link, RESTART, the snapshot, and the Standby link. -/
theorem macLinks : Obligations.MacLinks := by
  unfold Obligations.MacLinks
  intro s m p q wire up k st moves wake
  refine ⟨fun o => ?_, fun st2 safe clocked => ?_, fun st34 => ?_, fun st3 => ?_, fun st4 safe => ?_, restart_busy q, fun o idle => ?_, snap_taken s,
    fun w en magic => ?_, fun w en pattern => ?_, link_changes s up⟩
  · obtain ⟨t, ran, only, en, state⟩ := enabled s o
    obtain ⟨u, ran', only', en', state'⟩ := disabled s o
    exact ⟨t, u, ran, ran', only, only', en, en', state, state'⟩
  · exact ⟨_, congrArg Host.Outcome.next (if_pos ⟨st2, by rw [safe]; rfl, by rw [clocked]; rfl⟩), moved s _ (by decide) (by decide)⟩
  · exact ⟨_, congrArg Host.Outcome.next (if_pos st34), moved s _ (by decide) (by decide)⟩
  · exact ⟨_, congrArg Host.Outcome.next (if_pos st3), moved s _ (by decide) (by decide)⟩
  · exact ⟨_, congrArg Host.Outcome.next (if_pos ⟨st4, by rw [safe]; rfl⟩), ⟨rfl, but_setFld s F.MAC_STATUS_STATE _ _⟩, macState_set s _ (by decide)⟩
  · obtain ⟨t, ran, busy, seq, each⟩ := restart_runs q o idle
    exact ⟨t, ran, busy, seq, fun j h => ⟨(each j h).1.lanes, (each j h).1.state, (each j h).1.told, (each j h).2⟩⟩
  · refine ⟨_, exec_standbyFrameRx w, only_trans (only_markMagic s wire) (only_markPats ..), (magic_markPats ..).trans ?_⟩
    unfold markMagic
    rw [en, magic]
    exact fld_setFld_self s (by decide)
  · exact ⟨_, exec_standbyFrameRx w, only_trans (only_markMagic s wire) (only_markPats ..),
      pat_markPats s wire k.isLt (List.mem_range.2 k.isLt) _ ⟨en, pattern⟩⟩

end Sys2Proof.Machine.Macs
end

section
/-!
PROOFS. The PPS output's rise in a state whose registers are not listed in rising order (R342; log entry 6).
-/

namespace Sys2Proof.Machine.PpsRise
open State

/-- The output's control register: EN = 1, OFFSET_NS = 1. -/
def control : Word := 0x100000001

/-- The counter has just passed 1 ns, when the output is due, and the output's register is listed behind a later one. -/
def unsorted : State := { regs := [(regKey .TIM_PPS_OUT 1, 1), (regKey .TIM_PPS_OUT 0, control)], time := 0x100000000 }

/-- The registers that a command leaves. -/
def regsAfter (c : Instr) (s : State) : SMap Word :=
  match exec c s with
  | .next t => t.regs
  | _ => []

/-- The epoch before the pulse writes the register anew, at its place in rising order. -/
theorem regs_rise : regsAfter (.ppsOutEdge true) unsorted =
    [(regKey .TIM_PPS_OUT 0, control), (regKey .TIM_PPS_OUT 1, 1), (regKey .TIM_PPS_OUT 0, control)] := by decide

/-- Refutes O52: the output's rise is said to change nothing but the output, in any state; where the registers are not listed in rising
order, the epoch of PPS_OUT (R7) lists that register again, at its place in the order. -/
theorem not_timeEvents : ¬ Obligations.TimeEvents := by
  intro h
  obtain ⟨-, -, -, -, -, -, -, -, -, -, -, rises, -⟩ := h unsorted 0 0 true 0 0 0 0 { host := 0, t41 := 0, t32 := 0, gran := 0 }
  obtain ⟨t, i, ran, -, same, -⟩ := rises (by decide) rfl ⟨0, by decide⟩
  have kept : t.regs = unsorted.regs := by rw [same]
  have left : t.regs = [(regKey .TIM_PPS_OUT 0, control), (regKey .TIM_PPS_OUT 1, 1), (regKey .TIM_PPS_OUT 0, control)] := by
    rw [← regs_rise, regsAfter, ran]
  exact absurd (kept.symm.trans left) (by decide)

end Sys2Proof.Machine.PpsRise
end

section
/-!
PROOFS. SA commands, raw blocks and KEYLD (R355, R358, R370–R373).
-/

namespace Sys2Proof.Machine.CipherUnit
open State Fields Frames Signals TimeUnit Macs

variable (s : State)

/-! ### Boundaries at which no value waits -/

variable {s} in
theorem fld_same {u : State} (same : s.OnlyRegs u []) (f : Fld) (i : Nat) : u.fld f i = s.fld f i :=
  congrArg (getBits · f.lo f.width) (same.2 _ _ List.not_mem_nil)

variable {s} in
theorem shadow_same {u : State} {l : List (Reg × Nat)} (same : s.OnlyRegs u l) : u.shadow = s.shadow := by rw [same.1]

theorem same_epochs (l : List (Reg × Nat)) (b : Boundary) (empty : s.shadow = []) : s.OnlyRegs (l.foldl (fun u r => u.epoch b r.1 r.2) s) [] := by
  induction l generalizing s with
  | nil => exact ⟨rfl, but_refl s⟩
  | cons r l ih =>
    have first := onlyRegs_epoch empty b r.1 r.2
    exact only_trans first (ih _ ((shadow_same first).trans empty))

/-! ### The end of an SA command -/

/-- An SA command has ended, and nothing but the SAs differs beside it. -/
def SaEnded (s t : State) (code : Nat) (q : Seq) : Prop :=
  t.Ended F.CIP_SA_STATUS_LAST_RESULT F.CIP_SA_STATUS_LAST_SEQ 0 code q ∧ t.Event .CIP_EVT 0 3 ∧ s.OnlySignals { t with sas := s.sas }

theorem only_saEnd (q : Seq) (code : Nat) : s.OnlySignals (s.saEnd q code) := signals_trans (only_endCmd ..) (only_setEvt ..)

theorem sas_saEnd (q : Seq) (code : Nat) : (s.saEnd q code).sas = s.sas := by rw [only_saEnd]

theorem reg_saEnd (q : Seq) (code : Nat) {r : Reg} (i : Nat) (other : r ∉ [Reg.CIP_SA_STATUS, .CIP_EVT, .HEP_DROP_CNT]) :
    (s.saEnd q code).reg r i = s.reg r i := by
  simp only [List.mem_cons, List.not_mem_nil, or_false, not_or] at other
  obtain ⟨status, evt, drops⟩ := other
  unfold saEnd cipEvt
  rw [reg_setEvt_other _ ⟨drops, evt⟩, reg_endCmd_other _ ⟨status, status⟩]

theorem told_saEnd (q : Seq) {code : Nat} (h : code < 256) :
    (s.saEnd q code).Ended F.CIP_SA_STATUS_LAST_RESULT F.CIP_SA_STATUS_LAST_SEQ 0 code q ∧ (s.saEnd q code).Event .CIP_EVT 0 3 := by
  refine ⟨?_, event_setEvt _ (by decide)⟩
  unfold saEnd cipEvt Ended
  rw [fld_setEvt_other _ (by decide), fld_setEvt_other _ (by decide)]
  exact fld_endCmd s (by decide) (by decide) (by decide) rfl h

variable {s} in
theorem only_withSas {t : State} (m : SMap Sa) (only : s.OnlySignals t) : ({ s with sas := m } : State).OnlySignals { t with sas := m } := by
  unfold OnlySignals
  rw [only]

theorem withSas_setSa (i : Nat) (a : Sa) (m : SMap Sa) : ({ s.setSa i a with sas := m } : State) = { s with sas := m } := rfl

variable {s} in
theorem withSas_self {m : SMap Sa} (kept : s.sas = m) : ({ s with sas := m } : State) = s := by
  subst kept
  rfl

variable {s} in
theorem only_of_same {u : State} {l : List (Reg × Nat)} (same : s.OnlyRegs u l) : s.OnlySignals u := by
  unfold OnlySignals
  rw [same.1]

variable {s} in
/-- The end of a command that has changed registers and the SAs. -/
theorem saEnded_of {u : State} (kept : s.OnlySignals { u with sas := s.sas }) (q : Seq) {code : Nat} (h : code < 256) : SaEnded s (u.saEnd q code) code q := by
  obtain ⟨ended, told⟩ := told_saEnd u q h
  refine ⟨ended, told, ?_⟩
  exact signals_trans kept (only_withSas s.sas (only_saEnd u q code))

theorem saEnded_saEnd (q : Seq) {code : Nat} (h : code < 256) : SaEnded s (s.saEnd q code) code q := saEnded_of (only_refl s) q h

/-- The selected SA is `b`, and every other one is as before. -/
def Became (s t : State) (b : Sa) : Prop := t.sa s.selSa = b ∧ ∀ j, j ≠ s.selSa → t.sa j = s.sa j

theorem sa_setSa (i : Nat) (a : Sa) : (s.setSa i a).sa i = a := SMap.get_put_self ({} : Sa) s.sas i a

theorem sa_setSa_ne {i j : Nat} (a : Sa) (h : j ≠ i) : (s.setSa i a).sa j = s.sa j := SMap.get_put_ne ({} : Sa) {} s.sas a h

variable {s} in
theorem sa_congr {t : State} (kept : t.sas = s.sas) (i : Nat) : t.sa i = s.sa i := by rw [sa, sa, kept]

variable {s} in
theorem became_set {u t : State} (b : Sa) (kept : u.sas = s.sas) (set : t.sas = (u.setSa s.selSa b).sas) : Became s t b :=
  ⟨(sa_congr set _).trans (sa_setSa ..), fun j other => (sa_congr set j).trans ((sa_setSa_ne u b other).trans (sa_congr kept j))⟩

/-! ### The commands -/

/-- The staging registers at SA_INSTALL, with no value left waiting. -/
def staged : State := (saStaging.foldl (fun u r => u.epoch .install r.1 r.2) s).epoch .installOrSoft .CIP_SA_SOFT 0

/-- The registers with key and salt zeroed. -/
def cleared : State := saSecret.foldl (fun u r => u.setReg r.1 r.2 0) s

theorem setRegs_frame (l : List (Reg × Nat)) : l.foldl (fun (u : State) r => u.setReg r.1 r.2 0) s =
    { s with regs := (l.foldl (fun (u : State) r => u.setReg r.1 r.2 0) s).regs } := by
  induction l generalizing s with
  | nil => rfl
  | cons r l ih => exact ih _

theorem reg_setRegs {l : List (Reg × Nat)} {r : Reg × Nat} (listed : r ∈ l) : (l.foldl (fun (u : State) r => u.setReg r.1 r.2 0) s).reg r.1 r.2 = 0 := by
  refine foldl_of_mem (P := fun v : State => v.reg r.1 r.2 = 0) s (fun v => reg_setReg ..) (fun v c zero => ?_) (.inl listed)
  rw [reg_setReg_if]
  split
  · rfl
  · exact zero

theorem reg_cleared {r : Reg × Nat} (secret : r ∈ saSecret) : (cleared s).reg r.1 r.2 = 0 := by
  unfold cleared
  exact reg_setRegs s secret

theorem cleared_frame : cleared s = { s with regs := (cleared s).regs } := by
  unfold cleared
  exact setRegs_frame s saSecret

theorem only_cleared (m : SMap Sa) : ({ s with sas := m } : State).OnlySignals { cleared s with sas := m } := by
  unfold OnlySignals
  rw [cleared_frame]

theorem sas_cleared : (cleared s).sas = s.sas := by rw [cleared_frame]

section
variable {s} (q : Seq) (open_ : s.regOpen .CIP_SA_CMD 0 = true)
include open_

theorem same_staged (empty : s.shadow = []) : s.OnlyRegs (staged s) [] := by
  have first := same_epochs s saStaging .install empty
  exact only_trans first (onlyRegs_epoch ((shadow_same first).trans empty) ..)

theorem install_full (full : (s.sa s.selSa).state ≠ 0) : exec (.saInstall q) s = .next (s.saEnd q 2) :=
  congrArg Host.Outcome.next ((onReg_open s _ _ _ _ open_).trans (if_pos full))

theorem install_free (free : (s.sa s.selSa).state = 0) :
    exec (.saInstall q) s = .next ((cleared ((staged s).setSa (staged s).selSa (staged s).stagedSa)).saEnd q 0) :=
  congrArg Host.Outcome.next ((onReg_open s _ _ _ _ open_).trans (if_neg (not_not.2 free)))

theorem delete_full (full : (s.sa s.selSa).state ≠ 0) : exec (.saDelete q) s = .next ((s.setSa s.selSa {}).saEnd q 0) :=
  congrArg Host.Outcome.next ((onReg_open s _ _ _ _ open_).trans (if_neg full))

theorem delete_free (free : (s.sa s.selSa).state = 0) : exec (.saDelete q) s = .next (s.saEnd q 3) :=
  congrArg Host.Outcome.next ((onReg_open s _ _ _ _ open_).trans (if_pos free))

theorem soft_unset (unset : (s.sa s.selSa).state ≠ 1) : exec (.setSoft q) s = .next (s.saEnd q 3) :=
  congrArg Host.Outcome.next ((onReg_open s _ _ _ _ open_).trans (if_pos (by simp [Sa.valid, unset])))

theorem soft_valid (valid : (s.sa s.selSa).state = 1) (empty : s.shadow = []) : ∃ t, exec (.setSoft q) s = .next t ∧ SaEnded s t 0 q ∧
    Became s t { s.sa s.selSa with soft := (s.reg .CIP_SA_SOFT 0).toNat, softHit := false } := by
  have same := onlyRegs_epoch empty .installOrSoft .CIP_SA_SOFT 0
  have sas : (s.epoch .installOrSoft .CIP_SA_SOFT 0).sas = s.sas := rfl
  have sel : (s.epoch .installOrSoft .CIP_SA_SOFT 0).selSa = s.selSa := fld_same same ..
  have reg := same.2 .CIP_SA_SOFT 0 List.not_mem_nil
  refine ⟨_, congrArg Host.Outcome.next ((onReg_open s _ _ _ _ open_).trans (if_neg (by simp [Sa.valid, valid]))), saEnded_of ?_ q (by decide), ?_⟩
  · rw [withSas_setSa, withSas_self sas]
    exact only_of_same same
  · dsimp only
    rw [sel, reg, sa_congr sas]
    exact became_set _ sas (sas_saEnd ..)

theorem zeroized : ∃ t, exec (.zeroizeAll q) s = .next t ∧ SaEnded s t 0 q ∧ ∀ j, t.sa j = {} :=
  ⟨_, congrArg Host.Outcome.next (onReg_open s _ _ _ _ open_), saEnded_of (s := s) (u := s.zeroize) rfl q (by decide), fun j => (sa_congr (sas_saEnd ..) j).trans rfl⟩

theorem installed (free : (s.sa s.selSa).state = 0) (empty : s.shadow = []) : ∃ t, exec (.saInstall q) s = .next t ∧ SaEnded s t 0 q ∧
    Became s t (staged s).stagedSa ∧ ∀ r ∈ saSecret, t.reg r.1 r.2 = 0 := by
  have same := same_staged open_ empty
  have sel : (staged s).selSa = s.selSa := fld_same same ..
  have sas : (staged s).sas = s.sas := by rw [same.1]
  refine ⟨_, install_free q open_ free, saEnded_of ?_ q (by decide), ?_, fun r secret => ?_⟩
  · have zeroed := only_cleared ((staged s).setSa (staged s).selSa (staged s).stagedSa) s.sas
    rw [withSas_setSa, withSas_self sas] at zeroed
    exact signals_trans (only_of_same same) zeroed
  · rw [sel]
    exact became_set (u := staged s) _ sas ((sas_saEnd ..).trans (sas_cleared ..))
  · refine (reg_saEnd _ q 0 r.2 ?_).trans (reg_cleared _ secret)
    revert r
    decide

end

/-- What SA_READ loads into a register. -/
theorem stageSa_reg (r r' : Reg) (v i : Nat) : (s.stageSa r v).reg r' i = if r' = r ∧ i = 0 then BitVec.ofNat 64 v else s.reg r' i :=
  reg_setReg_if s r r' 0 i _

theorem only_stageSa (r : Reg) (v : Nat) (empty : s.shadow = []) : s.OnlySignals (s.stageSa r v) ∧ (s.stageSa r v).shadow = [] := by
  have drop : SMap.put {} s.shadow (regKey r 0) { mask := (s.pend r 0).mask &&& ~~~(~~~0), val := (s.pend r 0).val &&& ~~~(~~~0) &&& (s.pend r 0).mask } = [] := by
    unfold pend
    rw [empty]
    simp [SMap.put, SMap.erase, SMap.get, SMap.find?]
  have frame : s.stageSa r v = { s.setReg r 0 (BitVec.ofNat 64 v) with shadow := [] } := by
    unfold stageSa dropPend
    exact congrArg (fun m => { s.setReg r 0 (BitVec.ofNat 64 v) with shadow := m }) drop
  rw [frame]
  refine ⟨?_, rfl⟩
  unfold OnlySignals
  rw [← empty]
  rfl

/-- The image of an SA in the staging registers, key and salt excepted. -/
abbrev readSa (s : State) (a : Sa) : State :=
  ((((s.stageSa .CIP_SA_CFG (saCfg a)).stageSa .CIP_SA_SPI a.spi.toNat).stageSa .CIP_SA_PN a.pn).stageSa .CIP_SA_SOFT a.soft).stageSa .CIP_SA_CNTIDX a.cntidx

theorem only_readSa (a : Sa) (empty : s.shadow = []) : s.OnlySignals (readSa s a) := by
  obtain ⟨o1, e1⟩ := only_stageSa s .CIP_SA_CFG (saCfg a) empty
  obtain ⟨o2, e2⟩ := only_stageSa _ .CIP_SA_SPI a.spi.toNat e1
  obtain ⟨o3, e3⟩ := only_stageSa _ .CIP_SA_PN a.pn e2
  obtain ⟨o4, e4⟩ := only_stageSa _ .CIP_SA_SOFT a.soft e3
  obtain ⟨o5, -⟩ := only_stageSa _ .CIP_SA_CNTIDX a.cntidx e4
  exact signals_trans (signals_trans (signals_trans (signals_trans o1 o2) o3) o4) o5

theorem read_loads (q : Seq) (open_ : s.regOpen .CIP_SA_CMD 0 = true) (empty : s.shadow = []) : ∃ t, exec (.saRead q) s = .next t ∧ SaEnded s t 0 q ∧
    t.sas = s.sas ∧ t.reg .CIP_SA_CFG 0 = BitVec.ofNat 64 (saCfg (s.sa s.selSa)) ∧ t.reg .CIP_SA_SPI 0 = (s.sa s.selSa).spi.setWidth 64 ∧
    t.reg .CIP_SA_PN 0 = BitVec.ofNat 64 (s.sa s.selSa).pn ∧ t.reg .CIP_SA_SOFT 0 = BitVec.ofNat 64 (s.sa s.selSa).soft ∧
    t.reg .CIP_SA_CNTIDX 0 = BitVec.ofNat 64 (s.sa s.selSa).cntidx ∧ ∀ j, t.reg .CIP_SA_KEY j = s.reg .CIP_SA_KEY j ∧
      t.reg .CIP_SA_SALT_0 j = s.reg .CIP_SA_SALT_0 j ∧ t.reg .CIP_SA_SALT_1 j = s.reg .CIP_SA_SALT_1 j := by
  have only := only_readSa s (s.sa s.selSa) empty
  have sas : (readSa s (s.sa s.selSa)).sas = s.sas := by rw [only]
  refine ⟨(readSa s (s.sa s.selSa)).saEnd q 0, congrArg Host.Outcome.next (onReg_open s _ _ _ _ open_), saEnded_of ?_ q (by decide), (sas_saEnd ..).trans sas,
    ?_, ?_, ?_, ?_, ?_, fun j => ⟨?_, ?_, ?_⟩⟩
  · rw [withSas_self sas]
    exact only
  all_goals rw [reg_saEnd _ _ _ _ (by decide)]
  all_goals simp [readSa, stageSa_reg, BitVec.ofNat_toNat]

/-! ### The return of an operation -/

/-- The state once the operation at a place has left its thread's list. -/
def taken (n k : Nat) : State := s.setThr n { s.thr n with ops := (s.thr n).ops.eraseIdx k }

theorem taken_frame (n k : Nat) : taken s n k = { s with threads := (taken s n k).threads, stallDone := (taken s n k).stallDone } := setThr_frame ..

theorem shadow_taken (n k : Nat) : (taken s n k).shadow = s.shadow := by rw [taken_frame]

theorem sas_taken (n k : Nat) : (taken s n k).sas = s.sas := by rw [taken_frame]

theorem fld_taken (n k : Nat) (f : Fld) (i : Nat) : (taken s n k).fld f i = s.fld f i := Fields.fld_setThr ..

section
variable {s} {n k : Nat}

theorem takeOp_stays (stays : (s.thr n).dropping = false) : s.takeOp n k = taken s n k := by
  unfold takeOp
  dsimp only
  rw [thr_setThr, if_neg (by simp [stays])]
  rfl

end

/-- Registers of the cipher unit that an exception of a thread leaves alone. -/
theorem reg_raiseExc (n : Nat) (e : Exc) (pc : BitVec 32) {r : Reg} (i : Nat) (cip : r = .CIP_DUP_CNT ∨ r = .CIP_EVT) :
    (s.raiseExc n e pc).reg r i = s.reg r i := by
  by_cases sup : n % 64 = 0
  · rw [Exceptions.raiseExc_supervisor s e pc sup]
    rcases cip with rfl | rfl
    all_goals rw [(calm_raise ..).reg _ _ (by decide), trsEvt, reg_setEvt_other _ (by decide), Exceptions.reg_stopped]
  · rw [Exceptions.raiseExc_pool s e pc sup]
    rcases cip with rfl | rfl
    all_goals rw [reg_bump_other _ (by decide), trsEvt, reg_setEvt_other _ (by decide), supCause, (keeps_sourceWake ..).reg _ _ (by decide),
      reg_setFld_other _ (by decide), Exceptions.reg_stopped]

theorem reg_retExc (n : Nat) (o : OutOp) (e : Exc) {r : Reg} (i : Nat) (cip : r = .CIP_DUP_CNT ∨ r = .CIP_EVT) :
    (s.retExc n o e).reg r i = s.reg r i := by
  unfold retExc
  split
  · rfl
  · split
    · rfl
    · split
      · rfl
      · exact (Fields.reg_setThr ..).trans (reg_raiseExc s n e o.pc i cip)
    · exact reg_raiseExc s n e o.pc i cip

section
variable {s} {n : ThreadId} {k : Fin 64} {o : OutOp} (listed : (s.thr n.val).ops[k.val]? = some o) (stays : (s.thr n.val).dropping = false)
include listed stays

theorem aes_waits (first : ((s.thr n.val).ops.take k.val).any OutOp.isAes = true) (aes : o.isAes = true) (c : CipFault) :
    exec (.aesResult n k c) s = .next s := by
  show execAesResult n k c s = _
  unfold execAesResult
  rw [listed]
  unfold OutOp.isAes at aes
  dsimp only
  split at aes
  · exact congrArg Host.Outcome.next (if_pos first)
  · cases aes

section
variable {j : BitVec 16} {dec : Bool} {hi lo : Word} {rd : RegNo} (aes : o.op = .aes j dec hi lo rd)
  (turn : ((s.thr n.val).ops.take k.val).any OutOp.isAes = false)
include aes turn

/-- The block that a raw operation ciphers. -/
abbrev block (hi lo : Word) : List Byte := toBytesLE 8 lo.toNat ++ toBytesLE 8 hi.toNat
abbrev ciphered (b : Sa) (dec : Bool) (hi lo : Word) : List Byte :=
  if dec then aesDecrypt b.keyBytes (block hi lo) else aesEncrypt b.keyBytes (block hi lo)

/-- What the cipher unit finds of the SA: refused, and the state it leaves. -/
abbrev checked (s : State) (n : ThreadId) (k : Fin 64) (j : BitVec 16) (c : CipFault) : Bool × State :=
  if (s.sa j.toNat).valid && (s.sa j.toNat).kind == 2 then (taken s n.val k.val).cipCheck c j.toNat (10 + n.val / 192) else (true, taken s n.val k.val)

theorem exec_aesResult (c : CipFault) : exec (.aesResult n k c) s = .next (
    if (checked s n k j c).1 || !(s.sa j.toNat).trussMask.getLsbD (n.val / 64) then (checked s n k j c).2.retExc n.val o .cipher
    else ((checked s n k j c).2.retReg n.val o rd (BitVec.ofNat 64 (fromBytesLE ((ciphered (s.sa j.toNat) dec hi lo).take 8)))).retReg n.val o (rd + 1)
      (BitVec.ofNat 64 (fromBytesLE ((ciphered (s.sa j.toNat) dec hi lo).drop 8)))) := by
  have sas : (taken s n.val k.val).sa j.toNat = s.sa j.toNat := sa_congr (sas_taken ..) _
  show execAesResult n k c s = _
  unfold execAesResult
  rw [listed]
  dsimp only
  rw [aes]
  dsimp only
  rw [turn, takeOp_stays stays, sas]
  rfl

theorem aes_refused (c : CipFault) (unusable : (s.sa j.toNat).state ≠ 1 ∨ (s.sa j.toNat).kind ≠ 2) :
    exec (.aesResult n k c) s = .next ((taken s n.val k.val).retExc n.val o .cipher) := by
  have found : checked s n k j c = (true, taken s n.val k.val) := if_neg (by rcases unusable with h | h <;> simp [Sa.valid, h])
  rw [exec_aesResult listed stays aes turn, found]
  exact congrArg Host.Outcome.next (if_pos rfl)

theorem aes_stranger (mask : (s.sa j.toNat).trussMask.getLsbD (n.val / 64) = false) :
    exec (.aesResult n k .none) s = .next ((taken s n.val k.val).retExc n.val o .cipher) := by
  have found : (checked s n k j .none).2 = taken s n.val k.val := by
    unfold checked
    split <;> rfl
  rw [exec_aesResult listed stays aes turn, found, mask]
  exact congrArg Host.Outcome.next (if_pos (Bool.or_true _))

section
variable (valid : (s.sa j.toNat).state = 1) (raw : (s.sa j.toNat).kind = 2)
include valid raw

theorem checked_usable (c : CipFault) : checked s n k j c = (taken s n.val k.val).cipCheck c j.toNat (10 + n.val / 192) :=
  if_pos (by simp [Sa.valid, valid, raw])

theorem aes_ciphers (mask : (s.sa j.toNat).trussMask.getLsbD (n.val / 64) = true) (live : o.live = true) : ∃ t u : State,
    exec (.aesResult n k .none) s = .next t ∧
    (taken s n.val k.val).Wrote n.val rd (BitVec.ofNat 64 (fromBytesLE ((ciphered (s.sa j.toNat) dec hi lo).take 8))) u ∧
    u.Wrote n.val (rd + 1) (BitVec.ofNat 64 (fromBytesLE ((ciphered (s.sa j.toNat) dec hi lo).drop 8))) t := by
  have ran := exec_aesResult listed stays aes turn .none
  rw [checked_usable listed stays aes turn valid raw, mask] at ran
  refine ⟨_, (taken s n.val k.val).setGreg n.val rd.toNat (BitVec.ofNat 64 (fromBytesLE ((ciphered (s.sa j.toNat) dec hi lo).take 8))),
    ran.trans (congrArg Host.Outcome.next (if_neg Bool.false_ne_true)), wrote_setGreg .., ?_⟩
  · unfold retReg
    rw [live]
    exact wrote_setGreg ..

theorem aes_mismatch : ∃ t, exec (.aesResult n k .mismatch) s = .next t ∧
    t.fld F.CIP_DUP_CNT_MISMATCH 0 = min (s.fld F.CIP_DUP_CNT_MISMATCH 0 + 1) 0xFFFFFFFF ∧ t.Event .CIP_EVT 0 2 := by
  have ran := exec_aesResult listed stays aes turn .mismatch
  rw [checked_usable listed stays aes turn valid raw] at ran
  refine ⟨_, ran.trans (congrArg Host.Outcome.next (if_pos rfl)), ?_, ?_⟩
  · refine (congrArg (getBits · 0 32) (reg_retExc _ _ _ _ _ (.inl rfl))).trans ?_
    show ((((((taken s n.val k.val).bump F.CIP_DUP_CNT_MISMATCH 0).cipCapture j.toNat (10 + n.val / 192) 1).cipEvt 2).raise 0x09 0x02 _).fld
      F.CIP_DUP_CNT_MISMATCH 0) = _
    rw [(calm_raise ..).fld _ _ (by decide), cipEvt, fld_setEvt_other _ (by decide)]
    have captured (u : State) : (u.cipCapture j.toNat (10 + n.val / 192) 1).fld F.CIP_DUP_CNT_MISMATCH 0 = u.fld F.CIP_DUP_CNT_MISMATCH 0 := by
      unfold cipCapture
      split
      · rfl
      · exact fld_setReg_other _ (by decide)
    rw [captured, fld_bump_self _ (by decide), fld_taken]
    rfl
  · refine event_congr (reg_retExc _ _ _ _ _ (.inr rfl)) ?_
    refine event_congr ((calm_raise ..).reg .CIP_EVT 0 (by decide)) ?_
    exact event_setEvt _ (by decide)

end
end

/-! ### KEYLD -/

section
variable {install : Bool} {j : BitVec 16} {k256 : Bool} {bytes : List Byte} {rd : RegNo} (keyld : o.op = .keyld install j k256 bytes rd)
  (live : o.live = true) (empty : s.shadow = [])
include keyld live empty

/-- The SA lies in the Truss's raw window. -/
def Inside (s : State) (t : Nat) (j : BitVec 16) : Prop :=
  s.fld F.CIP_RAW_WIN_BASE t ≤ j.toNat ∧ j.toNat < s.fld F.CIP_RAW_WIN_BASE t + s.fld F.CIP_RAW_WIN_COUNT t

/-- The state in which KEYLD decides. -/
def looked (s : State) (n : ThreadId) (k : Fin 64) : State := (taken s n.val k.val).epoch .keyLoad .CIP_RAW_WIN (n.val / 64)

theorem same_looked : (taken s n.val k.val).OnlyRegs (looked s n k) [] :=
  onlyRegs_epoch ((shadow_taken s n.val k.val).trans empty) ..

theorem sa_looked (i : Nat) : (looked s n k).sa i = s.sa i := by
  refine sa_congr ?_ i
  rw [(same_looked listed stays keyld live empty).1]
  exact sas_taken ..

theorem inRawWin_looked : (looked s n k).inRawWin (n.val / 64) j.toNat = true ↔ Inside s (n.val / 64) j := by
  have same := same_looked listed stays keyld live empty
  unfold inRawWin Inside
  rw [fld_same same, fld_same same, fld_taken, fld_taken, decide_eq_true_eq]

/-- The loaded SA. -/
abbrev loaded (n : ThreadId) (k256 : Bool) (bytes : List Byte) : Sa :=
  { state := 1, kind := 2, k256 := k256, trussMask := (1 : BitVec 12) <<< (n.val / 64), pn := 1, fw := true
    key := BitVec.ofNat 256 (fromBytesLE (bytes.take (if k256 then 32 else 16))) }

theorem exec_keyldResult : exec (.keyldResult n k) s = .next (
    if !(looked s n k).inRawWin (n.val / 64) j.toNat || ((s.sa j.toNat).state != 0 && (s.sa j.toNat).kind != 2) then
      (looked s n k).setGreg n.val rd.toNat 4
    else if install then
      if (s.sa j.toNat).state ≠ 0 then (looked s n k).setGreg n.val rd.toNat 2
      else ((looked s n k).setSa j.toNat (loaded n k256 bytes)).setGreg n.val rd.toNat 0
    else if (s.sa j.toNat).state = 0 then (looked s n k).setGreg n.val rd.toNat 3
    else ((looked s n k).setSa j.toNat {}).setGreg n.val rd.toNat 0) := by
  have sas : ((taken s n.val k.val).epoch .keyLoad .CIP_RAW_WIN (n.val / 64)).sa j.toNat = s.sa j.toNat :=
    sa_looked listed stays keyld live empty j.toNat
  show execKeyldResult n k s = _
  unfold execKeyldResult
  rw [listed]
  dsimp only
  rw [keyld]
  dsimp only
  rw [takeOp_stays stays]
  unfold retReg
  rw [live, sas]
  rfl

/-- KEYLD's answer, and the SA it leaves. -/
def Answers (s : State) (n : ThreadId) (k : Fin 64) (j : BitVec 16) (rd : RegNo) (code : Nat) (new : Sa) : Prop := ∃ t u : State,
  exec (.keyldResult n k) s = .next t ∧ u.Wrote n.val rd (BitVec.ofNat 64 code) t ∧ (taken s n.val k.val).OnlyRegs { u with sas := s.sas } [] ∧
    u.sa j.toNat = new ∧ ∀ m, m ≠ j.toNat → u.sa m = s.sa m

theorem answers_kept {code : Nat} (ran : exec (.keyldResult n k) s = .next ((looked s n k).setGreg n.val rd.toNat (BitVec.ofNat 64 code))) :
    Answers s n k j rd code (s.sa j.toNat) := by
  have same := same_looked listed stays keyld live empty
  have sas : (looked s n k).sas = s.sas := by rw [same.1, sas_taken]
  refine ⟨_, looked s n k, ran, wrote_setGreg .., ?_, sa_looked listed stays keyld live empty _, fun m _ => sa_looked listed stays keyld live empty m⟩
  rw [withSas_self sas]
  exact same

theorem answers_set {code : Nat} {new : Sa}
    (ran : exec (.keyldResult n k) s = .next (((looked s n k).setSa j.toNat new).setGreg n.val rd.toNat (BitVec.ofNat 64 code))) :
    Answers s n k j rd code new := by
  have same := same_looked listed stays keyld live empty
  have sas : (looked s n k).sas = s.sas := by rw [same.1, sas_taken]
  refine ⟨_, (looked s n k).setSa j.toNat new, ran, wrote_setGreg .., ?_, sa_setSa .., fun m other => (sa_setSa_ne _ _ other).trans
    (sa_looked listed stays keyld live empty m)⟩
  rw [withSas_setSa, withSas_self sas]
  exact same

theorem keyld_refused (out : ¬Inside s (n.val / 64) j ∨ ((s.sa j.toNat).state ≠ 0 ∧ (s.sa j.toNat).kind ≠ 2)) :
    Answers s n k j rd 4 (s.sa j.toNat) := by
  refine answers_kept listed stays keyld live empty ((exec_keyldResult listed stays keyld live empty).trans (congrArg Host.Outcome.next (if_pos ?_)))
  rw [← inRawWin_looked listed stays keyld live empty, Bool.not_eq_true] at out
  rcases out with h | ⟨h, g⟩
  · simp [h]
  · simp [h, g]

section
variable (inside : Inside s (n.val / 64) j)
include inside

theorem keyld_allowed (raw : (s.sa j.toNat).state = 0 ∨ (s.sa j.toNat).kind = 2) :
    ¬(!(looked s n k).inRawWin (n.val / 64) j.toNat || ((s.sa j.toNat).state != 0 && (s.sa j.toNat).kind != 2)) = true := by
  rw [(inRawWin_looked listed stays keyld live empty).2 inside]
  rcases raw with h | h <;> simp [h]

theorem keyld_installs (on : install = true) (free : (s.sa j.toNat).state = 0) : Answers s n k j rd 0 (loaded n k256 bytes) :=
  answers_set listed stays keyld live empty ((exec_keyldResult listed stays keyld live empty).trans (congrArg Host.Outcome.next
    ((if_neg (keyld_allowed listed stays keyld live empty inside (.inl free))).trans ((if_pos on).trans (if_neg (not_not.2 free))))))

theorem keyld_occupied (on : install = true) (full : (s.sa j.toNat).state ≠ 0) (raw : (s.sa j.toNat).kind = 2) :
    Answers s n k j rd 2 (s.sa j.toNat) :=
  answers_kept listed stays keyld live empty ((exec_keyldResult listed stays keyld live empty).trans (congrArg Host.Outcome.next
    ((if_neg (keyld_allowed listed stays keyld live empty inside (.inr raw))).trans ((if_pos on).trans (if_pos full)))))

theorem keyld_absent (off : install = false) (free : (s.sa j.toNat).state = 0) : Answers s n k j rd 3 (s.sa j.toNat) :=
  answers_kept listed stays keyld live empty ((exec_keyldResult listed stays keyld live empty).trans (congrArg Host.Outcome.next
    ((if_neg (keyld_allowed listed stays keyld live empty inside (.inl free))).trans ((if_neg (Bool.not_eq_true _ ▸ off)).trans (if_pos free)))))

theorem keyld_deletes (off : install = false) (full : (s.sa j.toNat).state ≠ 0) (raw : (s.sa j.toNat).kind = 2) : Answers s n k j rd 0 {} :=
  answers_set listed stays keyld live empty ((exec_keyldResult listed stays keyld live empty).trans (congrArg Host.Outcome.next
    ((if_neg (keyld_allowed listed stays keyld live empty inside (.inr raw))).trans ((if_neg (Bool.not_eq_true _ ▸ off)).trans (if_neg full)))))

end
end
end

/-- What SA_INSTALL makes of the staging registers. -/
theorem stagedSa_fields {u : State} (same : s.OnlyRegs u []) :
    let kind := if s.fld F.CIP_SA_CFG_KIND 0 = 3 then 0 else s.fld F.CIP_SA_CFG_KIND 0
    let key (j : Nat) : BitVec 256 := (s.reg .CIP_SA_KEY j).setWidth 256 <<< (64 * j)
    u.stagedSa.state = 1 ∧ u.stagedSa.kind = kind ∧ u.stagedSa.tx = (kind != 2 && s.flag F.CIP_SA_CFG_DIR 0) ∧
      u.stagedSa.k256 = (kind == 1 || s.flag F.CIP_SA_CFG_KEY256 0) ∧ u.stagedSa.esn = (s.flag F.CIP_SA_CFG_ESN 0 && kind == 0) ∧
      u.stagedSa.spi.toNat = s.fld F.CIP_SA_SPI_SPI 0 ∧ u.stagedSa.soft = (s.reg .CIP_SA_SOFT 0).toNat ∧
      (kind = 1 → s.reg .CIP_SA_PN 0 ≠ 0 → u.stagedSa.pn = (s.reg .CIP_SA_PN 0).toNat) ∧
      u.stagedSa.key = key 0 ||| key 1 ||| key 2 ||| key 3 ∧
      u.stagedSa.salt = ((s.reg .CIP_SA_SALT_0 0).setWidth 96 ||| (s.reg .CIP_SA_SALT_1 0).setWidth 96 <<< 32) := by
  intro kind key
  have reg (r : Reg) (i : Nat) : u.reg r i = s.reg r i := same.2 r i List.not_mem_nil
  have fld := fld_same same
  have spi : s.fld F.CIP_SA_SPI_SPI 0 < 2 ^ 32 := getBits_lt ..
  unfold stagedSa flag
  simp only [fld, reg]
  refine ⟨trivial, rfl, rfl, rfl, rfl, ?_, trivial, fun one some => ?_, ?_, trivial⟩
  · rw [BitVec.toNat_ofNat, Nat.mod_eq_of_lt spi]
  · have one : (if s.fld F.CIP_SA_CFG_KIND 0 = 3 then 0 else s.fld F.CIP_SA_CFG_KIND 0) = 1 := one
    have pos : 1 ≤ (s.reg .CIP_SA_PN 0).toNat := Nat.one_le_iff_ne_zero.2 fun zero => some (BitVec.eq_of_toNat_eq zero)
    rw [one, if_neg (by simp), max_eq_right pos]
  · show _ = (s.reg .CIP_SA_KEY 0).setWidth 256 <<< 0 ||| _ ||| _ ||| _
    rw [BitVec.shiftLeft_zero]

/-- Settles O53: the SA commands by what they find of the selected SA, a raw block, and KEYLD by window and state. -/
theorem cipher : Obligations.Cipher := by
  unfold Obligations.Cipher
  intro s q n k o c i a cmd ended became kind key left
  refine ⟨fun o_ free empty => ?_, fun o_ full => ?_, fun o_ free => ?_, fun o_ empty => read_loads s q o_ empty, fun o_ valid empty => soft_valid q o_ valid empty,
    fun o_ unset => ?_, fun o_ => zeroized q o_, fun listed stays => ⟨fun first aes => aes_waits listed stays first aes c,
      fun j dec hi lo rd aes turn => ?_, fun install j k256 bytes rd keyld live empty => ?_⟩⟩
  · obtain ⟨t, ran, told, set, zero⟩ := installed q o_ free empty
    obtain ⟨h1, h2, h3, h4, h5, h6, h7, h8, h9, h10⟩ := stagedSa_fields s (same_staged o_ empty)
    exact ⟨t, _, ran, told, set, h1, h2, h3, h4, h5, h6, h7, h8, h9, h10, zero (.CIP_SA_KEY, 0) (by decide), zero (.CIP_SA_KEY, 1) (by decide),
      zero (.CIP_SA_KEY, 2) (by decide), zero (.CIP_SA_KEY, 3) (by decide), zero (.CIP_SA_SALT_0, 0) (by decide), zero (.CIP_SA_SALT_1, 0) (by decide)⟩
  · exact ⟨_, _, install_full q o_ full, saEnded_saEnd s q (by decide), sas_saEnd .., delete_full q o_ full, saEnded_of (s := s) (u := s.setSa s.selSa {}) rfl q (by decide),
      became_set (u := s) {} rfl (sas_saEnd ..)⟩
  · exact ⟨_, delete_free q o_ free, saEnded_saEnd s q (by decide), sas_saEnd ..⟩
  · exact ⟨_, soft_unset q o_ unset, saEnded_saEnd s q (by decide), sas_saEnd ..⟩
  · exact ⟨fun valid raw mask live => aes_ciphers listed stays aes turn valid raw mask live, aes_refused listed stays aes turn c,
      aes_stranger listed stays aes turn, aes_mismatch listed stays aes turn⟩
  · exact ⟨keyld_refused listed stays keyld live empty, keyld_installs listed stays keyld live empty,
      fun inside on full raw => keyld_occupied listed stays keyld live empty inside on full raw,
      keyld_absent listed stays keyld live empty, keyld_deletes listed stays keyld live empty⟩

end Sys2Proof.Machine.CipherUnit
end

section
/-!
PROOFS. The Manager's buffer commands, the pool's events and the buffer operations of threads (R255–R275, R541).
-/

namespace Sys2Proof.Machine.Buffers
open State Fields Frames Signals TimeUnit Pool CipherUnit

variable (s : State)

/-! ### Buffer records -/

@[simp] theorem bufRec_setRec (i : Nat) (x : BufRec) : (s.setRec i x).bufRec i = x := SMap.get_put_self ({} : BufRec) s.recs i x

theorem bufRec_setRec_ne {i j : Nat} (x : BufRec) (h : j ≠ i) : (s.setRec i x).bufRec j = s.bufRec j := SMap.get_put_ne ({} : BufRec) {} s.recs x h

variable {s} in
theorem bufRec_congr {t : State} (kept : t.recs = s.recs) (i : Nat) : t.bufRec i = s.bufRec i := by rw [bufRec, bufRec, kept]

theorem bufRec_erase (i : Nat) : ({ s with recs := SMap.erase s.recs i } : State).bufRec i = {} := by
  show (SMap.find? (SMap.erase s.recs i) i).getD {} = {}
  rw [SMap.find?_erase_self]
  rfl

theorem bufRec_erase_ne {i j : Nat} (h : j ≠ i) : ({ s with recs := SMap.erase s.recs i } : State).bufRec j = s.bufRec j := by
  show (SMap.find? (SMap.erase s.recs i) j).getD {} = (SMap.find? s.recs j).getD {}
  rw [SMap.find?_erase_ne _ h]

/-- The pool of an index depends on the registers alone. -/
theorem poolOf_congr {t : State} (kept : t.regs = s.regs) (i : Nat) : t.poolOf i = s.poolOf i := by
  have same (f : Fld) (k : Nat) : t.fld f k = s.fld f k := fld_congr kept f k
  unfold poolOf inPool poolBase poolCount pools
  simp only [same]

/-! ### What the pool's own events leave alone -/

theorem only_poolWatch (p : Nat) : s.OnlySignals (s.poolWatch p) := by
  unfold poolWatch
  dsimp only
  split
  · exact signals_trans (signals_trans (only_setFld ..) (only_bump ..)) (only_setEvt ..)
  · split
    · exact only_setFld ..
    · exact only_refl s

theorem recs_poolWatch (p : Nat) : (s.poolWatch p).recs = s.recs := by rw [only_poolWatch]

theorem fld_poolWatch (p : Nat) {f : Fld} (i : Nat) (other : f.reg ∉ [Reg.BPM_POOL_STATUS, .BPM_POOL_CNT, .BPM_EVT, .HEP_DROP_CNT]) :
    (s.poolWatch p).fld f i = s.fld f i := by
  simp only [List.mem_cons, List.not_mem_nil, or_false, not_or] at other
  obtain ⟨status, count, evt, drops⟩ := other
  unfold poolWatch
  dsimp only
  split
  · rw [fld_setEvt_other _ ⟨drops, evt⟩, fld_bump_other _ count, fld_setFld_other _ status]
  · split
    · rw [fld_setFld_other _ status]
    · rfl

/-- The records after the two boundaries and the watch of a pool. -/
theorem recs_settled (p a : Nat) : ((s.bpmEpochs p a).poolWatch p).recs = s.recs := recs_poolWatch ..

theorem use_settled (p a : Nat) {f : Fld} (i : Nat) (use : f.reg = .BPM_ACCT_USE) : ((s.bpmEpochs p a).poolWatch p).fld f i = s.fld f i := by
  rw [fld_poolWatch _ _ _ (by rw [use]; decide), bpmEpochs, fld_epoch_other _ (by rw [use]; decide), fld_epoch_other _ (by rw [use]; decide)]

/-! ### A free of a chain of one buffer -/

section
variable {s} {i : Nat} (alone : (s.bufRec i).next = none) (sound : s.recBad i = false)
include alone

theorem chainOf_one (fuel : Nat) : s.chainOf fuel i = [i] := by
  cases fuel with
  | zero => rfl
  | succ fuel =>
    unfold chainOf
    rw [alone]

include sound

/-- The account's use after a free, as it is set. -/
theorem freeChain_one : (s.freeChain i).recs = SMap.erase s.recs i ∧
    (s.freeChain i).fld F.BPM_ACCT_USE_USE (s.bufRec i).account = s.fld F.BPM_ACCT_USE_USE (s.bufRec i).account - 1 := by
  have chain := chainOf_one alone 8
  have small : s.fld F.BPM_ACCT_USE_USE (s.bufRec i).account - 1 < 2 ^ 27 := lt_of_le_of_lt (Nat.sub_le ..) (getBits_lt ..)
  have set : (({ s with recs := SMap.erase s.recs i } : State).setFld F.BPM_ACCT_USE_USE (s.bufRec i).account
      (s.fld F.BPM_ACCT_USE_USE (s.bufRec i).account - 1)).fld F.BPM_ACCT_USE_USE (s.bufRec i).account =
        s.fld F.BPM_ACCT_USE_USE (s.bufRec i).account - 1 := (fld_setFld_self _ (by decide)).trans (Nat.mod_eq_of_lt small)
  have freed : s.freeChain i = match ({ s with recs := SMap.erase s.recs i } : State).setFld F.BPM_ACCT_USE_USE (s.bufRec i).account
      (s.fld F.BPM_ACCT_USE_USE (s.bufRec i).account - 1) |>.poolOf i with
    | none => ({ s with recs := SMap.erase s.recs i } : State).setFld F.BPM_ACCT_USE_USE (s.bufRec i).account
        (s.fld F.BPM_ACCT_USE_USE (s.bufRec i).account - 1)
    | some p => ((({ s with recs := SMap.erase s.recs i } : State).setFld F.BPM_ACCT_USE_USE (s.bufRec i).account
        (s.fld F.BPM_ACCT_USE_USE (s.bufRec i).account - 1)).bpmEpochs p (s.bufRec i).account).poolWatch p := by
    unfold freeChain
    dsimp only
    rw [chain, if_neg (by rw [List.any_cons, List.any_nil, show (s.bufRec i).poisoned = false from sound]; decide)]
    rfl
  refine ⟨?_, ?_⟩
  · rw [freed]
    split
    · rfl
    · exact recs_settled ..
  · rw [freed]
    split
    · exact set
    · rw [use_settled _ _ _ _ rfl]
      exact set

end

/-! ### The Manager's commands -/

/-- A buffer command of the Manager has ended. -/
def BufEnded (t : State) (code : Nat) (q : Seq) : Prop :=
  t.Ended F.BPM_BUF_STATUS_RESULT F.BPM_BUF_STATUS_LAST_SEQ 0 code q ∧ t.Event .BPM_EVT 0 1

theorem ended_bpmEnd (q : Seq) {code : Nat} (h : code < 256) : BufEnded (s.bpmEnd q code) code q := by
  refine ⟨?_, event_setEvt _ (by decide)⟩
  unfold bpmEnd Ended
  rw [fld_setEvt_other _ (by decide), fld_setEvt_other _ (by decide)]
  exact fld_endCmd s (by decide) (by decide) (by decide) rfl h

theorem only_bpmEnd (q : Seq) (code : Nat) : s.OnlySignals (s.bpmEnd q code) := signals_trans (only_endCmd ..) (only_setEvt ..)

theorem recs_bpmEnd (q : Seq) (code : Nat) : (s.bpmEnd q code).recs = s.recs := by rw [only_bpmEnd]

theorem fld_bpmEnd (q : Seq) (code : Nat) {f : Fld} (i : Nat) (other : f.reg ∉ [Reg.BPM_BUF_STATUS, .BPM_EVT, .HEP_DROP_CNT]) :
    (s.bpmEnd q code).fld f i = s.fld f i := by
  simp only [List.mem_cons, List.not_mem_nil, or_false, not_or] at other
  obtain ⟨status, evt, drops⟩ := other
  unfold bpmEnd
  rw [fld_setEvt_other _ ⟨drops, evt⟩, fld_endCmd_other _ ⟨status, status⟩]

theorem recs_bufRefuse (who : BitVec 16) (i code : Nat) : (s.bufRefuse who i code).recs = s.recs := by
  have captured (u v : State) (c : Bool) (h : v.recs = u.recs) : (if c = true then u else v).recs = u.recs := by
    split
    · rfl
    · exact h
  unfold bufRefuse
  dsimp only
  split
  · rw [signals_raise]
    exact captured s _ _ rfl
  · rw [signals_raise]
    exact captured s _ _ rfl

theorem threads_bufRefuse (who : BitVec 16) (i code : Nat) : (s.bufRefuse who i code).threads = s.threads := by
  have captured (u v : State) (c : Bool) (h : v.threads = u.threads) : (if c = true then u else v).threads = u.threads := by
    split
    · rfl
    · exact h
  unfold bufRefuse
  dsimp only
  split
  · rw [signals_raise]
    exact captured s _ _ rfl
  · rw [signals_raise]
    exact captured s _ _ rfl

/-- The index and the new owner that the Manager's commands name. -/
def named : Nat := s.fld F.BPM_BUF_ARG_INDEX 0
def newOwner : BitVec 16 := BitVec.ofNat 16 (s.fld F.BPM_BUF_ARG_NEW_OWNER 0)

/-- A buffer of the device, by its first index. -/
structure Head (i : Nat) : Prop where
  inPool : (s.poolOf i).isSome = true
  first : (s.bufRec i).member = false
  sound : s.recBad i = false

section
variable {s} {i : Nat} (h : Head s i)
include h

/-- The test of R269 for a head with references. -/
theorem bufTest_head (some_ : 1 ≤ (s.bufRec i).refs) (op : BufOp) (who : BitVec 16) : s.bufTest op who i = match op with
    | .free => if (s.bufRec i).owner ≠ who then 2 else if (s.bufRec i).refs ≠ 1 then 3 else if (s.chainOf 8 i).any s.recBad then 8 else 0
    | .drop => if (s.bufRec i).refs < 2 then 3 else 0
    | .give => if (s.bufRec i).owner ≠ who then 2 else 0
    | .share => if 255 ≤ (s.bufRec i).refs then 7 else 0 := by
  have pooled : (s.poolOf i).isNone = false := by rw [← Option.not_isSome, h.inPool]; rfl
  have refs : (s.bufRec i).refs ≠ 0 := by omega
  unfold bufTest
  cases op <;> simp only [pooled, h.first, h.sound, Bool.false_eq_true, if_false, Bool.not_false, Bool.true_and, beq_iff_eq, refs]

theorem bufTest_free (refs : (s.bufRec i).refs = 1) {who : BitVec 16} (owner : (s.bufRec i).owner = who) (alone : (s.bufRec i).next = none) :
    s.bufTest .free who i = 0 := by
  rw [bufTest_head h refs.ge, chainOf_one alone]
  simp [owner, refs, h.sound]

end

section
variable {s} (q : Seq) (open_ : s.regOpen .BPM_BUF_CMD 0 = true)
include open_

theorem exec_bpmFree : exec (.bpmFree q) s = .next (s.mgrBuf q .free) := congrArg Host.Outcome.next (onReg_open s _ _ _ _ open_)
theorem exec_bpmDrop : exec (.bpmDrop q) s = .next (s.mgrBuf q .drop) := congrArg Host.Outcome.next (onReg_open s _ _ _ _ open_)
theorem exec_bpmGive : exec (.bpmGive q) s = .next (s.mgrBuf q .give) := congrArg Host.Outcome.next (onReg_open s _ _ _ _ open_)

end

/-- The owner that the Manager may give to. -/
def mayGive : BitVec 16 :=
  if ownerKind (newOwner s) = 1 ∨ ownerKind (newOwner s) = 2 ∨ ownerKind (newOwner s) = 3 ∨ ownerKind (newOwner s) = 6 then newOwner s else ownerMf

theorem mgrBuf_eq (q : Seq) (op : BufOp) : s.mgrBuf q op =
    (s.bufOp op ownerMf (named s) (mayGive s)).2.bpmEnd q (s.bufOp op ownerMf (named s) (mayGive s)).1 := rfl

section
variable {s} (q : Seq)

theorem free_frees (h : Head s (named s)) (refs : (s.bufRec (named s)).refs = 1) (owner : (s.bufRec (named s)).owner = ownerMf)
    (alone : (s.bufRec (named s)).next = none) : BufEnded (s.mgrBuf q .free) 0 q ∧ (s.mgrBuf q .free).bufRec (named s) = {} ∧
      (∀ j, j ≠ named s → (s.mgrBuf q .free).bufRec j = s.bufRec j) ∧
      (s.mgrBuf q .free).fld F.BPM_ACCT_USE_USE (s.bufRec (named s)).account = s.fld F.BPM_ACCT_USE_USE (s.bufRec (named s)).account - 1 := by
  have done : s.bufOp .free ownerMf (named s) (mayGive s) = (0, s.freeChain (named s)) := by
    unfold bufOp
    rw [bufTest_free h refs owner alone]
    rfl
  obtain ⟨recs, use⟩ := freeChain_one alone h.sound
  have recs : (s.mgrBuf q .free).recs = ({ s with recs := SMap.erase s.recs (named s) } : State).recs := by
    rw [mgrBuf_eq, done]
    exact (recs_bpmEnd ..).trans recs
  refine ⟨?_, (bufRec_congr recs _).trans (bufRec_erase ..), fun j other => (bufRec_congr recs _).trans (bufRec_erase_ne s other), ?_⟩
  · rw [mgrBuf_eq, done]
    exact ended_bpmEnd (s.freeChain (named s)) q (code := 0) (by decide)
  · rw [mgrBuf_eq, done]
    exact (fld_bpmEnd _ _ _ _ (by decide)).trans use

theorem withRecs_setRec (i : Nat) (x : BufRec) (m : SMap BufRec) : ({ s.setRec i x with recs := m } : State) = { s with recs := m } := rfl

theorem only_withRecs {t : State} (m : SMap BufRec) (only : s.OnlySignals t) : ({ s with recs := m } : State).OnlySignals { t with recs := m } := by
  unfold OnlySignals
  rw [only]

/-- A command that changes the record of the buffer it names. -/
theorem setRec_ends {op : BufOp} {x : BufRec} (done : s.bufOp op ownerMf (named s) (mayGive s) = (0, s.setRec (named s) x)) :
    s.OnlySignals { s.mgrBuf q op with recs := s.recs } ∧ BufEnded (s.mgrBuf q op) 0 q ∧ (s.mgrBuf q op).bufRec (named s) = x ∧
      ∀ j, j ≠ named s → (s.mgrBuf q op).bufRec j = s.bufRec j := by
  have recs : (s.mgrBuf q op).recs = (s.setRec (named s) x).recs := by
    rw [mgrBuf_eq, done]
    exact recs_bpmEnd ..
  refine ⟨?_, ?_, (bufRec_congr recs _).trans (bufRec_setRec ..), fun j other => (bufRec_congr recs _).trans (bufRec_setRec_ne s x other)⟩
  · rw [mgrBuf_eq, done]
    exact only_withRecs (s := s.setRec (named s) x) s.recs (only_bpmEnd (s.setRec (named s) x) q 0)
  · rw [mgrBuf_eq, done]
    exact ended_bpmEnd (s.setRec (named s) x) q (code := 0) (by decide)

theorem drop_drops (h : Head s (named s)) (refs : 2 ≤ (s.bufRec (named s)).refs) :
    s.bufOp .drop ownerMf (named s) (mayGive s) = (0, s.setRec (named s) { s.bufRec (named s) with refs := (s.bufRec (named s)).refs - 1 }) := by
  unfold bufOp
  rw [bufTest_head h (by omega)]
  dsimp only
  rw [if_neg (by omega)]
  rfl

theorem kind_of_bits (o : BitVec 16) : getBits (o.setWidth 64) 13 3 = ownerKind o := by
  have small := o.isLt
  have wide : (o.setWidth 64).toNat = o.toNat := by
    rw [BitVec.toNat_setWidth]
    exact Nat.mod_eq_of_lt (by omega)
  unfold getBits ownerKind
  rw [BitVec.toNat_ushiftRight, wide, Nat.shiftRight_eq_div_pow]
  omega

theorem give_gives (h : Head s (named s)) (refs : 1 ≤ (s.bufRec (named s)).refs) (owner : (s.bufRec (named s)).owner = ownerMf)
    (kind : getBits ((newOwner s).setWidth 64) 13 3 ∈ [1, 2, 3, 6]) :
    s.bufOp .give ownerMf (named s) (mayGive s) = (0, s.setRec (named s) { s.bufRec (named s) with owner := newOwner s }) := by
  have may : mayGive s = newOwner s := if_pos (by
    rw [kind_of_bits] at kind
    simpa using kind)
  unfold bufOp
  rw [bufTest_head h refs, may]
  dsimp only
  rw [if_neg (not_not.2 owner)]
  rfl

/-- A command of a buffer that the MF does not own. -/
theorem stranger_refused (h : Head s (named s)) (refs : 1 ≤ (s.bufRec (named s)).refs) (owner : (s.bufRec (named s)).owner ≠ ownerMf) {op : BufOp}
    (which : op = .free ∨ op = .give) : BufEnded (s.mgrBuf q op) 2 q ∧ (s.mgrBuf q op).recs = s.recs := by
  have done : s.bufOp op ownerMf (named s) (mayGive s) = (2, s.bufRefuse ownerMf (named s) 2) := by
    unfold bufOp
    rw [bufTest_head h refs]
    rcases which with rfl | rfl
    · dsimp only
      rw [if_pos owner]
      rfl
    · dsimp only
      rw [if_pos owner]
      rfl
  rw [mgrBuf_eq, done]
  exact ⟨ended_bpmEnd (s.bufRefuse ownerMf (named s) 2) q (code := 2) (by decide), (recs_bpmEnd ..).trans (recs_bufRefuse ..)⟩

end

/-! ### READ_REC -/

theorem low_digits {a b c d e : Nat} (ha : a < 65536) : (a + 2 ^ 16 * b + 2 ^ 24 * c + 2 ^ 25 * d + 2 ^ 38 * e) / 2 ^ 0 % 2 ^ 16 = a := by omega

theorem next_digits {a b c d e : Nat} (ha : a < 65536) (hb : b < 256) :
    (a + 2 ^ 16 * b + 2 ^ 24 * c + 2 ^ 25 * d + 2 ^ 38 * e) / 2 ^ 16 % 2 ^ 8 = b := by omega

section
variable {s} (q : Seq) (open_ : s.regOpen .BPM_BUF_CMD 0 = true)
include open_

theorem exec_readRec : exec (.readRec q) s = .next (if s.fld F.BPM_INFO_BUFFERS 0 ≤ named s then (s.bufRefuse ownerMf (named s) 5).bpmEnd q 5
    else if s.recBad (named s) then s.bpmEnd q 8 else (s.setReg .BPM_BUF_REC 0 (s.recWord (named s))).bpmEnd q 0) :=
  congrArg Host.Outcome.next (onReg_open s _ _ _ _ open_)

theorem readRec_reads (sound : s.recBad (named s) = false) (inside : named s < s.fld F.BPM_INFO_BUFFERS 0) : ∃ t, exec (.readRec q) s = .next t ∧
    s.OnlySignals t ∧ BufEnded t 0 q ∧ getBits (t.reg .BPM_BUF_REC 0) 0 16 = (s.bufRec (named s)).owner.toNat ∧
    ((s.bufRec (named s)).refs < 256 → getBits (t.reg .BPM_BUF_REC 0) 16 8 = (s.bufRec (named s)).refs) := by
  have word : ((s.setReg .BPM_BUF_REC 0 (s.recWord (named s))).bpmEnd q 0).reg .BPM_BUF_REC 0 = s.recWord (named s) := by
    unfold bpmEnd
    rw [reg_setEvt_other _ (by decide), reg_endCmd_other _ (by decide), reg_setReg]
  refine ⟨_, (exec_readRec q open_).trans (congrArg _ ((if_neg (Nat.not_le.2 inside)).trans (if_neg (by rw [sound]; decide)))),
    signals_trans (only_setReg ..) (only_bpmEnd ..), ended_bpmEnd _ q (by decide), ?_, fun small => ?_⟩
  · rw [word]
    exact (Monitors.getBits_ofNat (by decide)).trans (low_digits (s.bufRec (named s)).owner.isLt)
  · rw [word]
    exact (Monitors.getBits_ofNat (by decide)).trans (next_digits (s.bufRec (named s)).owner.isLt small)

theorem readRec_outside (outside : s.fld F.BPM_INFO_BUFFERS 0 ≤ named s) : ∃ t, exec (.readRec q) s = .next t ∧ BufEnded t 5 q :=
  ⟨_, (exec_readRec q open_).trans (congrArg _ (if_pos outside)), ended_bpmEnd _ q (by decide)⟩

end

/-! ### RLD accesses -/

theorem access_counts (line : BitVec 31) : ∃ t, exec (.rldAccess line .ok) s = .next t ∧
    s.OnlyRegs t [(.RLC_ACCESS_CNT, (Config.rldStack line.toNat).val)] := ⟨_, rfl, rfl, but_bump s F.RLC_ACCESS_CNT_COUNT _ 1⟩

/-- An uncorrected error's counts and its address. -/
def ueNoted (line n : Nat) : State :=
  if ((s.bump F.RLC_ACCESS_CNT_COUNT n).bump F.RLC_UE_CNT_COUNT n).flag F.RLC_UE_ADDR_VALID n then (s.bump F.RLC_ACCESS_CNT_COUNT n).bump F.RLC_UE_CNT_COUNT n
  else (((s.bump F.RLC_ACCESS_CNT_COUNT n).bump F.RLC_UE_CNT_COUNT n).setFld F.RLC_UE_ADDR_LINE n line).setFld F.RLC_UE_ADDR_VALID n 1

theorem signals_ueNoted (line n : Nat) : SignalsOnly s (ueNoted s line n) := by
  unfold ueNoted
  split <;> rfl

theorem access_uncorrected (line : BitVec 31) : ∃ t, exec (.rldAccess line .uncorrected) s = .next t ∧ t.rld = s.rld ∧
    SMap.get false t.rldPoison line.toNat = true ∧
    (∀ l, l ≠ line.toNat → SMap.get false t.rldPoison l = SMap.get false s.rldPoison l) ∧ t.Event .RLC_EVT 0 (Config.rldStack line.toNat).val := by
  have noted := signals_ueNoted s line.toNat (Config.rldStack line.toNat).val
  have poison : (ueNoted s line.toNat (Config.rldStack line.toNat).val).rldPoison = s.rldPoison := by rw [noted]
  have at_ : 64 * line.toNat / 64 = line.toNat := Nat.mul_div_cancel_left _ (by decide)
  have told := (signals_setEvt ((((ueNoted s line.toNat (Config.rldStack line.toNat).val).setPoison (64 * line.toNat) true).poisonRecs line.toNat)) .RLC_EVT
    .RLC_EVT_EN .RLC_MSIX_VEC 0 (Config.rldStack line.toNat).val).trans (signals_raise _ (0x10 + (Config.rldStack line.toNat).val) 0x02 line.toNat)
  have marks (u t : State) (h : SignalsOnly u t) : t.rld = u.rld ∧ t.rldPoison = u.rldPoison := by
    rw [h]
    exact ⟨rfl, rfl⟩
  obtain ⟨rld, marked⟩ := marks _ _ told
  have marked : _ = SMap.put false s.rldPoison line.toNat true := marked.trans (by
    show SMap.put false (ueNoted s line.toNat (Config.rldStack line.toNat).val).rldPoison (64 * line.toNat / 64) true = _
    rw [poison, at_])
  refine ⟨_, rfl, rld.trans ?_, ?_, fun l other => ?_, ?_⟩
  · show (ueNoted s line.toNat (Config.rldStack line.toNat).val).rld = s.rld
    rw [noted]
  · exact (congrArg (SMap.get false · line.toNat) marked).trans (SMap.get_put_self ..)
  · exact (congrArg (SMap.get false · l) marked).trans (SMap.get_put_ne _ _ _ _ other)
  · refine event_congr ((calm_raise ..).reg .RLC_EVT 0 (by decide)) (event_setEvt _ ⟨by decide, ?_⟩)
    exact lt_trans (Config.rldStack line.toNat).isLt (by decide)

/-! ### The cache of a Pier -/

theorem cacheOf_setCache (pier p : Nat) (l : List Nat) : (s.setCache pier p l).cacheOf pier p = l := SMap.get_put_self ([] : List Nat) s.bufCache _ l

variable {s} in
theorem only_withCache {t : State} (m : SMap (List Nat)) (only : s.OnlySignals t) :
    ({ s with bufCache := m } : State).OnlySignals { t with bufCache := m } := by
  unfold OnlySignals
  rw [only]

theorem refill_takes (pier : Pier) (pool : Fin 256) (i : Nat) (low : (s.cacheOf pier.val pool.val).length < 256) (exists_ : pool.val < s.pools)
    (uses : pool.val ∈ (s.pierImg pier.val).pools) (free : s.lowestFree pool.val (s.occupied + 1) (s.poolBase pool.val) = some i) : ∃ t,
      exec (.cacheRefill pier pool .ok) s = .next t ∧ s.OnlySignals { t with bufCache := s.bufCache } ∧
      t.cacheOf pier.val pool.val = s.cacheOf pier.val pool.val ++
        (((List.range 64).map (64 * (i / 64) + ·)).filter fun j => s.bitmap j && s.inPool pool.val j).take (512 - (s.cacheOf pier.val pool.val).length) := by
  have ran : exec (.cacheRefill pier pool .ok) s = .next ((s.setCache pier.val pool.val (s.cacheOf pier.val pool.val ++
      (((List.range 64).map (64 * (i / 64) + ·)).filter fun j => s.bitmap j && s.inPool pool.val j).take
        (512 - (s.cacheOf pier.val pool.val).length))).poolWatch pool.val) := by
    show execCacheRefill pier pool .ok s = _
    unfold execCacheRefill
    dsimp only
    rw [if_neg (Nat.not_le.2 exists_), free]
    refine congrArg Host.Outcome.next (if_neg ?_)
    simp [searchEcc, Nat.not_le.2 low, uses]
  have watched := only_poolWatch (s.setCache pier.val pool.val (s.cacheOf pier.val pool.val ++
    (((List.range 64).map (64 * (i / 64) + ·)).filter fun j => s.bitmap j && s.inPool pool.val j).take
      (512 - (s.cacheOf pier.val pool.val).length))) pool.val
  refine ⟨_, ran, only_withCache (s := s.setCache pier.val pool.val _) s.bufCache watched, ?_⟩
  rw [watched]
  exact cacheOf_setCache ..

/-! ### A grant -/

theorem lowestFree_le {p fuel i j : Nat} (found : s.lowestFree p fuel i = some j) : i ≤ j := by
  induction fuel generalizing i with
  | zero => cases found
  | succ fuel ih =>
    unfold lowestFree at found
    split at found
    · cases found
    · split at found
      · cases found; exact le_rfl
      · exact Nat.le_of_succ_le (ih found)

theorem le_freeIndices {p n i j : Nat} (listed : j ∈ s.freeIndices p n i) : i ≤ j := by
  induction n generalizing i with
  | zero => cases listed
  | succ n ih =>
    unfold freeIndices at listed
    split at listed
    · cases listed
    · next k found =>
      have low := lowestFree_le s found
      rcases List.mem_cons.1 listed with rfl | later
      · exact low
      · exact le_trans (Nat.le_succ_of_le low) (ih later)

/-- The first index of a grant is not among the others. -/
theorem head_freeIndices {p n i h : Nat} {l : List Nat} (got : s.freeIndices p n i = h :: l) : h ∉ l := by
  cases n with
  | zero => cases got
  | succ n =>
    unfold freeIndices at got
    split at got
    · cases got
    · next k found =>
      cases got
      exact fun again => Nat.lt_irrefl _ (le_freeIndices s again)

variable {s} in
theorem bufRec_linkChain_out {owner : BitVec 16} {a : Nat} {bad first : Bool} {l : List Nat} {j : Nat} (out : j ∉ l) :
    (s.linkChain owner a bad first l).bufRec j = s.bufRec j := by
  induction l generalizing s first with
  | nil => rfl
  | cons i l ih =>
    rw [List.mem_cons, not_or] at out
    cases l with
    | nil => exact bufRec_setRec_ne s _ out.1
    | cons k l => exact (ih out.2).trans (bufRec_setRec_ne s _ out.1)

/-- The record of a granted chain's first buffer. -/
theorem bufRec_linkChain_head {owner : BitVec 16} {a h : Nat} {bad : Bool} {l : List Nat} (out : h ∉ l) : ∃ next,
    (s.linkChain owner a bad true (h :: l)).bufRec h = { owner := owner, refs := 1, account := a, next := next, poisoned := bad } := by
  cases l with
  | nil => exact ⟨none, bufRec_setRec ..⟩
  | cons k l => exact ⟨some k, (bufRec_linkChain_out out).trans (bufRec_setRec ..)⟩

theorem takes_linkChain (owner : BitVec 16) (a : Nat) (bad first : Bool) (l : List Nat) : Takes s (s.linkChain owner a bad first l) := by
  induction l generalizing s first with
  | nil => exact takes_refl s
  | cons i l ih =>
    cases l with
    | nil => exact takes_setRec s i _
    | cons k l => exact (takes_setRec s i _).trans (ih _ _)

theorem takes_addUse (a n : Nat) : Takes s (s.addUse a n) := by
  unfold addUse
  dsimp only
  split
  · exact (takes_setFld s _ _ _ (by decide)).trans (takes_setFld _ _ _ _ (by decide))
  · exact takes_setFld s _ _ _ (by decide)

theorem recs_addUse (a n : Nat) : (s.addUse a n).recs = s.recs := by
  unfold addUse
  dsimp only
  split <;> rfl

section
variable {s} {p n h : Nat} {l : List Nat} (got : s.freeIndices p n (s.poolBase p) = h :: l) (a : Nat) (owner : BitVec 16)
include got

theorem grantBufs_eq : s.grantBufs p a n none owner = (h, (((s.linkChain owner a false true (h :: l)).addUse a n).bpmEpochs p a).poolWatch p) := by
  unfold grantBufs
  dsimp only
  rw [got]
  rfl

theorem index_grantBufs : (s.grantBufs p a n none owner).1 = h := by rw [grantBufs_eq got]

theorem takes_grantBufs : Takes s (s.grantBufs p a n none owner).2 := by
  rw [grantBufs_eq got]
  exact (takes_linkChain s ..).trans ((takes_addUse _ a n).trans ((takes_bpmEpochs _ p a).trans (takes_poolWatch _ p)))

theorem recs_grantBufs : (s.grantBufs p a n none owner).2.recs = (s.linkChain owner a false true (h :: l)).recs := by
  rw [grantBufs_eq got]
  exact (recs_settled ..).trans (recs_addUse ..)

theorem head_grantBufs : ∃ next, (s.grantBufs p a n none owner).2.bufRec h =
    { owner := owner, refs := 1, account := a, next := next, poisoned := false } := by
  obtain ⟨next, first⟩ := bufRec_linkChain_head s (owner := owner) (a := a) (bad := false) (head_freeIndices s got)
  exact ⟨next, (bufRec_congr (recs_grantBufs got a owner) h).trans first⟩

theorem others_grantBufs {i : Nat} (out : i ∉ h :: l) : (s.grantBufs p a n none owner).2.bufRec i = s.bufRec i :=
  (bufRec_congr (recs_grantBufs got a owner) i).trans (bufRec_linkChain_out out)

end

theorem bufRec_waited (w : BufWait) (g : List Grant) (i : Nat) : ({ s.doneWait w with grants := g } : State).bufRec i = s.bufRec i := rfl

theorem wait_granted {pool : Fin 256} {n : ThreadId} {w : BufWait} {rest : List BufWait} {h : Nat} {l : List Nat} (line : s.bpmWait = w :: rest)
    (mine : w.pool = pool.val) (who : w.who = .thread n.val) (granted : s.chargeAns pool.val w.acct w.n none = .granted)
    (got : s.freeIndices pool.val w.n (s.poolBase pool.val) = h :: l) : ∃ t, exec (.bufferWaitGrant pool) s = .next t ∧
      t.grants = s.grants ++ [{ thread := n.val, head := h }] ∧ t.bpmWait = rest ∧ (t.bufRec h).owner = w.owner ∧ (t.bufRec h).refs = 1 := by
  have takes := takes_grantBufs got w.acct w.owner
  have waits : (s.grantBufs pool.val w.acct w.n none w.owner).2.bpmWait = w :: rest := by
    rw [takes.only]
    exact line
  have grants : (s.grantBufs pool.val w.acct w.n none w.owner).2.grants = s.grants := by rw [takes.only]
  obtain ⟨next, head⟩ := head_grantBufs got w.acct w.owner
  have ran : exec (.bufferWaitGrant pool) s = .next { (s.grantBufs pool.val w.acct w.n none w.owner).2.doneWait w with
      grants := (s.grantBufs pool.val w.acct w.n none w.owner).2.grants ++ [{ thread := n.val, head := h }] } := by
    obtain ⟨who', pool', acct, k, owner⟩ := w
    cases who
    cases mine
    have first : (s.bpmWait.find? fun w => w.pool == pool.val && s.canGrant w) = some ⟨.thread n.val, pool.val, acct, k, owner⟩ := by
      rw [line]
      refine List.find?_cons_of_pos ?_
      rw [Bool.and_eq_true, beq_iff_eq]
      exact ⟨rfl, beq_iff_eq.2 granted⟩
    show execBufferWaitGrant pool s = _
    unfold execBufferWaitGrant
    rw [first]
    dsimp only
    have index := index_grantBufs got acct owner
    generalize s.grantBufs pool.val acct k none owner = r at *
    obtain ⟨index', after⟩ := r
    cases index
    rfl
  refine ⟨_, ran, congrArg (· ++ _) grants, ?_, ?_, ?_⟩
  · show (s.grantBufs pool.val w.acct w.n none w.owner).2.bpmWait.erase w = rest
    rw [waits]
    exact List.erase_cons_head ..
  · exact congrArg BufRec.owner ((bufRec_waited ..).trans head)
  · exact congrArg BufRec.refs ((bufRec_waited ..).trans head)

/-! ### The return of a thread's buffer operation -/

section
variable {s} {n : ThreadId} {k : Fin 64} {o : OutOp} {f : Fin 4} {h : Nat} {new : BitVec 16} {rd : RegNo} (stays : (s.thr n.val).dropping = false)
  (listed : (s.thr n.val).ops[k.val]? = some o) (buf : o.op = .buf f h new rd) (live : o.live = true)

/-- The operation that a function number names. -/
def bufFn (f : Fin 4) : BufOp := if f = 0 then .free else if f = 1 then .drop else if f = 2 then .give else .share

theorem recs_taken (n k : Nat) : (taken s n k).recs = s.recs := by rw [taken_frame]

theorem poolOf_taken (n k i : Nat) : (taken s n k).poolOf i = s.poolOf i := poolOf_congr s (by rw [taken_frame]) i

include stays listed buf live

theorem exec_bufResultReturn : exec (.bufResultReturn n k) s = .next (((taken s n.val k.val).bufOp (bufFn f) (ownerThread n.val) h new).2.setGreg n.val
    rd.toNat (BitVec.ofNat 64 ((taken s n.val k.val).bufOp (bufFn f) (ownerThread n.val) h new).1)) := by
  show execBufResultReturn n k s = _
  unfold execBufResultReturn
  rw [listed]
  dsimp only
  rw [buf]
  dsimp only
  rw [takeOp_stays stays]
  unfold retReg
  rw [live]
  rfl

/-- An operation on a buffer without references. -/
theorem buf_free (none_ : (s.bufRec h).refs = 0) (pooled : (s.poolOf h).isSome = true) (first : (s.bufRec h).member = false) : ∃ t,
    exec (.bufResultReturn n k) s = .next t ∧ t.recs = s.recs ∧ (t.thr n.val).ops = (s.thr n.val).ops.eraseIdx k.val ∧
      (rd ≠ 0 → t.g n.val rd = 4) := by
  have test : (taken s n.val k.val).bufTest (bufFn f) (ownerThread n.val) h = 4 := by
    have record := bufRec_congr (recs_taken (s := s) n.val k.val) h
    have inPool : ((taken s n.val k.val).poolOf h).isNone = false := by
      rw [poolOf_taken, ← Option.not_isSome, pooled]
      rfl
    unfold bufTest
    dsimp only
    rw [record, inPool, first, none_]
    rfl
  have done : (taken s n.val k.val).bufOp (bufFn f) (ownerThread n.val) h new = (4, (taken s n.val k.val).bufRefuse (ownerThread n.val) h 4) := by
    unfold bufOp
    rw [test]
    rfl
  have ran := exec_bufResultReturn stays listed buf live
  rw [done] at ran
  obtain ⟨⟨only, -⟩, own, reads⟩ := wrote_setGreg ((taken s n.val k.val).bufRefuse (ownerThread n.val) h 4) n.val rd (BitVec.ofNat 64 4)
  refine ⟨_, ran, ?_, ?_, fun named => (reads rd).trans (if_pos ⟨rfl, named⟩)⟩
  · rw [only]
    exact (recs_bufRefuse ..).trans (recs_taken ..)
  · have thread : ((taken s n.val k.val).bufRefuse (ownerThread n.val) h 4).thr n.val = { s.thr n.val with ops := (s.thr n.val).ops.eraseIdx k.val } :=
      (congrArg (fun m : SMap Thread => SMap.get ({} : Thread) m n.val) (threads_bufRefuse (taken s n.val k.val) (ownerThread n.val) h 4)).trans (thr_setThr ..)
    exact (congrArg Thread.ops own).trans (congrArg Thread.ops thread)

/-- SHARE of a buffer with room for one more reference. -/
theorem buf_share (share : f = 3) (head : Head s h) (some_ : 1 ≤ (s.bufRec h).refs) (room : (s.bufRec h).refs < 255) : ∃ t,
    exec (.bufResultReturn n k) s = .next t ∧ t.bufRec h = { s.bufRec h with refs := (s.bufRec h).refs + 1 } ∧ (rd ≠ 0 → t.g n.val rd = 0) := by
  have record := bufRec_congr (recs_taken (s := s) n.val k.val) h
  have head' : Head (taken s n.val k.val) h := by
    obtain ⟨pooled, first, sound⟩ := head
    exact ⟨by rw [poolOf_taken]; exact pooled, by rw [record]; exact first, by rw [recBad, record]; exact sound⟩
  have done : (taken s n.val k.val).bufOp (bufFn f) (ownerThread n.val) h new =
      (0, (taken s n.val k.val).setRec h { s.bufRec h with refs := (s.bufRec h).refs + 1 }) := by
    subst share
    unfold bufOp
    rw [bufTest_head head' (by rw [record]; exact some_), record]
    show (match (if 255 ≤ (s.bufRec h).refs then 7 else 0) with | 0 => _ | 7 => _ | 8 => _ | code => _) = _
    rw [if_neg (Nat.not_le.2 room)]
    rfl
  have ran := exec_bufResultReturn stays listed buf live
  rw [done] at ran
  obtain ⟨⟨only, -⟩, -, reads⟩ := wrote_setGreg ((taken s n.val k.val).setRec h { s.bufRec h with refs := (s.bufRec h).refs + 1 }) n.val rd (BitVec.ofNat 64 0)
  refine ⟨_, ran, ?_, fun named => (reads rd).trans (if_pos ⟨rfl, named⟩)⟩
  rw [only]
  exact bufRec_setRec ..

end

theorem alloc_granted {n : ThreadId} {h : Nat} {rest : List Grant} {len a : Nat} {owner : BitVec 16} {rd : RegNo}
    (line : s.grants = { thread := n.val, head := h } :: rest) (waits : (s.thr n.val).implicit = some (.alloc len a owner rd))
    (stays : (s.thr n.val).aborting = false) (waiting : (s.thr n.val).state = .waiting) : ∃ t u : State, exec (.allocGrant n) s = .next t ∧
      ({ s with grants := rest } : State).OnlyThread u n.val ∧ (u.thr n.val).state = .running ∧ (u.thr n.val).implicit = none ∧
      u.Wrote n.val rd (BitVec.ofNat 64 h) t := by
  have ran : exec (.allocGrant n) s = .next ((({ s with grants := rest } : State).setThr n.val (Trusses.unwaited (s.thr n.val))).setGreg n.val rd.toNat
      (BitVec.ofNat 64 h)) := by
    have first : (s.grants.find? fun g => g.thread == n.val) = some { thread := n.val, head := h } := by
      rw [line]
      exact List.find?_cons_of_pos (beq_self_eq_true n.val)
    have gone : (s.grants.eraseP fun g => g.thread == n.val) = rest := by
      rw [line]
      exact List.eraseP_cons_of_pos (beq_self_eq_true n.val)
    show execAllocGrant n s = _
    unfold execAllocGrant
    rw [first]
    dsimp only
    rw [gone]
    show (Host.Outcome.next (match (s.thr n.val).implicit with | some (.alloc _ _ _ rd) => _ | _ => _) : Out3) = _
    rw [waits]
    refine congrArg Host.Outcome.next (if_neg ?_)
    rw [Bool.false_or]
    exact Bool.not_eq_true _ ▸ stays
  refine ⟨_, _, ran, onlyThread_setThr .., ?_, ?_, wrote_setGreg ..⟩
  · rw [thr_setThr]
    exact if_pos waiting
  · rw [thr_setThr]
    rfl

/-- Settles O30: the Manager's commands by the test of R269, and each event of the pool. -/
theorem bufferCommandsAndEvents : Obligations.BufferCommandsAndEvents := by
  unfold Obligations.BufferCommandsAndEvents
  refine ⟨fun s q => ?_, fun s line pier pool n k => ?_⟩
  · intro i o r ended head open_
    have is (h : head) : Head s (named s) := ⟨h.1, h.2.1, h.2.2⟩
    refine ⟨fun h refs owner alone => ⟨_, exec_bpmFree q open_, free_frees q (is h) refs owner alone⟩,
      fun h refs => ⟨_, exec_bpmDrop q open_, setRec_ends q (drop_drops (is h) refs)⟩,
      fun h refs owner kind => ⟨_, exec_bpmGive q open_, setRec_ends q (give_gives (is h) refs owner kind)⟩, fun h refs owner => ?_,
      readRec_reads q open_, readRec_outside q open_⟩
    obtain ⟨freed, recs⟩ := stranger_refused q (is h) refs owner (op := .free) (.inl rfl)
    obtain ⟨given, recs'⟩ := stranger_refused q (is h) refs owner (op := .give) (.inr rfl)
    exact ⟨_, _, exec_bpmFree q open_, exec_bpmGive q open_, freed, given, recs, recs'⟩
  · intro st
    exact ⟨access_counts s line, access_uncorrected s line, fun i => refill_takes s pier pool i,
      fun w rest h l line mine who granted got => wait_granted s line mine who granted got,
      fun o _ h new rd stays listed buf live none_ pooled first => buf_free stays listed buf live none_ pooled first,
      fun o h rd stays listed buf live pooled first sound some_ room => buf_share stays listed buf live rfl ⟨pooled, first, sound⟩ some_ room,
      fun h rest len a owner rd line waits stays waiting => alloc_granted s line waits stays waiting⟩

end Sys2Proof.Machine.Buffers
end

section
/-!
PROOFS. ALLOC: a grant, a wait, NONE and ARG (R271–R275, R420).
-/

namespace Sys2Proof.Machine.Alloc
open State Issue Fields Frames Pool Buffers

variable {s t : State}

/-! ### What the pool's answers depend on -/

/-- Two states whose buffer pools are the same: they may differ in an issue count, and outside the pool. -/
structure SamePool (s t : State) : Prop where
  recs : t.recs = s.recs
  lost : t.lostBufs = s.lostBufs
  cached : t.bufCache = s.bufCache
  line : t.bpmWait = s.bpmWait
  held : t.shadow = s.shadow
  reg : ∀ r i, r ≠ .TRS_ISSUE_CNT → t.reg r i = s.reg r i

theorem samePool_ran (s : State) (x : Slot) : SamePool s (s.ran x) where
  recs := by rw [Scratchpad.ran_frame]
  lost := by rw [Scratchpad.ran_frame]
  cached := by rw [Scratchpad.ran_frame]
  line := by rw [Scratchpad.ran_frame]
  held := by rw [Scratchpad.ran_frame]
  reg _ _ other := reg_ran_ne s x other _

namespace SamePool

variable (h : SamePool s t)
include h

theorem fld {f : Fld} (i : Nat) (other : f.reg ≠ .TRS_ISSUE_CNT) : t.fld f i = s.fld f i := by rw [State.fld, State.fld, h.reg _ _ other]

theorem bufRec (i : Nat) : t.bufRec i = s.bufRec i := bufRec_congr h.recs i

theorem poolBase (p : Nat) : t.poolBase p = s.poolBase p := h.fld p (by decide)
theorem poolCount (p : Nat) : t.poolCount p = s.poolCount p := h.fld p (by decide)
theorem pools : t.pools = s.pools := h.fld 0 (by decide)
theorem accounts : t.accounts = s.accounts := h.fld 0 (by decide)

theorem inPool (p i : Nat) : t.inPool p i = s.inPool p i := by
  unfold State.inPool
  rw [h.poolBase, h.poolCount]

theorem poolOf (i : Nat) : t.poolOf i = s.poolOf i := by
  unfold State.poolOf
  rw [h.pools]
  simp only [h.inPool]

theorem acctPool (a : Nat) : t.acctPool a = s.acctPool a := by
  have base (p : Nat) : t.fld F.BPM_POOL_ACCTS_ACCT_BASE p = s.fld F.BPM_POOL_ACCTS_ACCT_BASE p := h.fld p (by decide)
  have count (p : Nat) : t.fld F.BPM_POOL_ACCTS_ACCT_COUNT p = s.fld F.BPM_POOL_ACCTS_ACCT_COUNT p := h.fld p (by decide)
  unfold State.acctPool
  rw [h.pools]
  simp only [base, count]

theorem bitmap (i : Nat) : t.bitmap i = s.bitmap i := by
  unfold State.bitmap allocated
  rw [h.poolOf, h.bufRec, h.lost, h.cached]

theorem occupied : t.occupied = s.occupied := by
  unfold State.occupied
  rw [h.recs, h.lost, h.cached]

theorem lowestFree (p fuel i : Nat) : t.lowestFree p fuel i = s.lowestFree p fuel i := by
  induction fuel generalizing i with
  | zero => rfl
  | succ fuel ih =>
    unfold State.lowestFree
    rw [h.poolBase, h.poolCount, h.bitmap, ih]

theorem freeIndices (p n i : Nat) : t.freeIndices p n i = s.freeIndices p n i := by
  induction n generalizing i with
  | zero => rfl
  | succ n ih =>
    unfold State.freeIndices
    rw [h.occupied, h.lowestFree]
    cases s.lowestFree p (s.occupied + 1) i with
    | none => rfl
    | some j => exact congrArg (j :: ·) (ih _)

theorem cacheOf (pier p : Nat) : t.cacheOf pier p = s.cacheOf pier p := by rw [State.cacheOf, State.cacheOf, h.cached]

theorem poolCached (p : Nat) : t.poolCached p = s.poolCached p := by
  unfold State.poolCached
  simp only [h.cacheOf]

theorem poolFree (p : Nat) : t.poolFree p = s.poolFree p := by
  have inside : t.inPool p = s.inPool p := funext (h.inPool p)
  unfold State.poolFree
  rw [h.poolCount, h.poolCached, h.recs, h.lost, inside]

theorem acctMax (a : Nat) : t.acctMax a = s.acctMax a := h.fld a (by decide)
theorem acctMin (a : Nat) : t.acctMin a = s.acctMin a := h.fld a (by decide)
theorem acctUse (a : Nat) : t.acctUse a = s.acctUse a := h.fld a (by decide)

theorem sharedFree (p : Nat) : t.sharedFree p = s.sharedFree p := by
  have base : t.fld F.BPM_POOL_ACCTS_ACCT_BASE p = s.fld F.BPM_POOL_ACCTS_ACCT_BASE p := h.fld p (by decide)
  have count : t.fld F.BPM_POOL_ACCTS_ACCT_COUNT p = s.fld F.BPM_POOL_ACCTS_ACCT_COUNT p := h.fld p (by decide)
  unfold State.sharedFree unusedReserve
  rw [h.poolFree, h.poolCached, base, count]
  simp only [h.acctMin, h.acctUse]

theorem epoch (b : Boundary) (r : Reg) (i : Nat) (pool : r ≠ .TRS_ISSUE_CNT) : SamePool (s.epoch b r i) (t.epoch b r i) where
  recs := h.recs
  lost := h.lost
  cached := h.cached
  line := h.line
  held := by
    unfold State.epoch applyMask pend
    dsimp only
    rw [h.held]
    exact congrArg (SMap.put ({} : Pend) · _ _) h.held
  reg r' j other := by
    have old := h.reg r i pool
    unfold State.epoch applyMask pend
    rw [h.held, old]
    show (t.setReg r i _).reg r' j = (s.setReg r i _).reg r' j
    rw [reg_setReg_if, reg_setReg_if, h.reg _ _ other]

theorem chargeAns (p a n : Nat) (pier : Option Nat) : t.chargeAns p a n pier = s.chargeAns p a n pier := by
  have e := h.epoch .acctCharge .BPM_ACCT_LIMIT a (by decide)
  unfold State.chargeAns
  dsimp only
  rw [e.acctMax, e.acctMin, e.acctUse, e.sharedFree, e.poolFree]
  simp only [e.cacheOf]

theorem chargeTurn (w : BufWait) : t.chargeTurn w = s.chargeTurn w := by
  have can (v : BufWait) : t.canGrant v = s.canGrant v := by
    unfold canGrant
    rw [h.chargeAns]
  unfold State.chargeTurn earlier
  rw [h.chargeAns, h.line]
  simp only [can]

end SamePool

/-! ### The instruction -/

variable {x : Slot} {rd rs rt : RegNo}

/-- The length that ALLOC takes from rs, and the owner that rt names. -/
def lenOf (v : Word) : Nat := if v.toNat < 1 then 1 else if 16384 < v.toNat then 16384 else v.toNat
def ownerOf (n : Nat) (w : Word) : BitVec 16 := if w.getLsbD 16 then ownerSpan (getBits w 32 12) else ownerThread n

theorem bufsFor_lenOf (v : Word) : bufsFor (lenOf v) = (lenOf v + 2047) / 2048 := by
  have small : lenOf v ≤ 16384 := by
    unfold lenOf
    split
    · decide
    · split <;> omega
  unfold bufsFor
  omega

/-- What ALLOC waits for, or is granted at once. -/
def asks (s : State) (n : Nat) (rs rt : RegNo) (p : Nat) : BufWait :=
  ⟨.thread n, p, getBits (s.g n rt) 0 13, (lenOf (s.g n rs) + 2047) / 2048, ownerOf n (s.g n rt)⟩

/-- A word of ALLOC without reserved bits, and an account of the image. -/
def Good (s : State) (n : Nat) (rt : RegNo) : Prop := s.g n rt &&& ~~~0xFFF00011FFF = 0 ∧ getBits (s.g n rt) 0 13 < s.accounts

/-- ALLOC of a good word, in the state of an issued slot. -/
def allocDo (t : State) (n : Nat) (rd : RegNo) (len : Nat) (w : BufWait) : Done :=
  if t.chargeTurn w = .granted then (t.grantBufs w.pool w.acct w.n none w.owner).2.put n rd (BitVec.ofNat 64 (t.grantBufs w.pool w.acct w.n none w.owner).1)
  else if t.timerPending n then t.put n rd noneVal
  else .ok ((t.setThr n { t.thr n with state := .waiting, implicit := some (.alloc len w.acct w.owner rd) }).waitBufs w)

/-- The body of ALLOC. -/
def allocBody (rd rs rt : RegNo) (t : State) (n : Nat) : Done :=
  if t.g n rt &&& ~~~(0xFFF00011FFF : Word) ≠ 0 ∨ t.accounts ≤ getBits (t.g n rt) 0 13 then .exc .arg t
  else match t.acctPool (getBits (t.g n rt) 0 13) with
    | none => .exc .arg t
    | some p => allocDo t n rd (lenOf (t.g n rs)) (asks t n rs rt p)

theorem alloc_runs : exec (.alloc x rd rs rt) s = .next (s.issue x (mRd ||| mRs ||| mRt) [rs, rt] false fun t n _ => allocBody rd rs rt t n) := by
  refine congrArg Host.Outcome.next (congrArg (s.issue x (mRd ||| mRs ||| mRt) [rs, rt] false) ?_)
  funext t n _
  unfold allocBody allocDo asks
  dsimp only
  rw [← bufsFor_lenOf]
  rfl

/-! ### A wait -/

theorem takes_refusedCharge (s : State) (p a : Nat) : Takes s (s.refusedCharge p a) := (takes_bpmEpochs s p a).trans (takes_poolWatch _ p)

theorem mem_waitBufs (s : State) (w : BufWait) : w ∈ (s.waitBufs w).bpmWait := by
  unfold waitBufs
  dsimp only
  split
  · next listed => exact List.contains_iff_mem.1 listed
  · exact List.mem_append_right _ (List.mem_singleton.2 rfl)

theorem threads_waitBufs (s : State) (w : BufWait) : (s.waitBufs w).threads = s.threads := by
  have refused : (s.refusedCharge w.pool w.acct).threads = s.threads := by rw [(takes_refusedCharge s w.pool w.acct).only]
  unfold waitBufs
  dsimp only
  split
  · exact refused
  · exact refused

theorem recs_waitBufs (s : State) (w : BufWait) : (s.waitBufs w).recs = s.recs := by
  have refused : (s.refusedCharge w.pool w.acct).recs = s.recs := recs_settled ..
  unfold waitBufs
  dsimp only
  split
  · exact refused
  · exact refused

/-! ### The instruction in an issued slot -/

theorem asks_ran (p : Nat) : asks (s.ran x) x.thr.val rs rt p = asks s x.thr.val rs rt p := by
  unfold asks
  rw [g_ran, g_ran]

theorem body_bad (bad : ¬Good s x.thr.val rt) : allocBody rd rs rt (s.ran x) x.thr.val = .exc .arg (s.ran x) := by
  refine if_pos ?_
  rw [g_ran, (samePool_ran s x).accounts]
  by_contra none_
  obtain ⟨reserved, account⟩ := not_or.1 none_
  exact bad ⟨not_not.1 reserved, Nat.not_le.1 account⟩

section
variable {p : Nat} (good : Good s x.thr.val rt) (pool : s.acctPool (getBits (s.g x.thr.val rt) 0 13) = some p)
include good pool

theorem body_good : allocBody rd rs rt (s.ran x) x.thr.val = allocDo (s.ran x) x.thr.val rd (lenOf (s.g x.thr.val rs)) (asks s x.thr.val rs rt p) := by
  have account := (samePool_ran s x).acctPool (getBits (s.g x.thr.val rt) 0 13)
  unfold allocBody
  rw [g_ran, g_ran, (samePool_ran s x).accounts, account, pool, if_neg (not_or.2 ⟨not_not.2 good.1, Nat.not_le.2 good.2⟩)]
  exact congrArg (allocDo (s.ran x) x.thr.val rd _) (asks_ran p)

theorem alloc_grants {h : Nat} {l : List Nat} (granted : s.chargeTurn (asks s x.thr.val rs rt p) = .granted)
    (got : s.freeIndices p ((lenOf (s.g x.thr.val rs) + 2047) / 2048) (s.poolBase p) = h :: l) (issues : s.Issues x [rs, rt] false) :
    ∃ t : State, exec (.alloc x rd rs rt) s = .next t ∧ (t.bufRec h).owner = ownerOf x.thr.val (s.g x.thr.val rt) ∧ (t.bufRec h).refs = 1 ∧
      (t.bufRec h).account = getBits (s.g x.thr.val rt) 0 13 ∧ (t.thr x.thr.val).state = .running ∧
      (∀ i, i ∉ h :: l → t.bufRec i = s.bufRec i) ∧
      ∀ r : RegNo, t.g x.thr.val r = if r = rd ∧ rd ≠ 0 then BitVec.ofNat 64 h else s.g x.thr.val r := by
  have same := samePool_ran s x
  have got : (s.ran x).freeIndices p ((lenOf (s.g x.thr.val rs) + 2047) / 2048) ((s.ran x).poolBase p) = h :: l := by
    rw [same.freeIndices, same.poolBase]
    exact got
  have ends : allocBody rd rs rt (s.ran x) x.thr.val = ((s.ran x).grantBufs p (getBits (s.g x.thr.val rt) 0 13)
      ((lenOf (s.g x.thr.val rs) + 2047) / 2048) none (ownerOf x.thr.val (s.g x.thr.val rt))).2.put x.thr.val rd (BitVec.ofNat 64 h) := by
    rw [body_good good pool, ← index_grantBufs got (getBits (s.g x.thr.val rt) 0 13) (ownerOf x.thr.val (s.g x.thr.val rt))]
    exact if_pos ((same.chargeTurn _).trans granted)
  obtain ⟨t, ran, ⟨only, -⟩, own, reads⟩ := exec_of_put alloc_runs issues ends
  have takes := takes_grantBufs got (getBits (s.g x.thr.val rt) 0 13) (ownerOf x.thr.val (s.g x.thr.val rt))
  obtain ⟨next, head⟩ := head_grantBufs got (getBits (s.g x.thr.val rt) 0 13) (ownerOf x.thr.val (s.g x.thr.val rt))
  have others (i : Nat) (out : i ∉ h :: l) := others_grantBufs got (getBits (s.g x.thr.val rt) 0 13) (ownerOf x.thr.val (s.g x.thr.val rt)) out
  generalize ((s.ran x).grantBufs p (getBits (s.g x.thr.val rt) 0 13) ((lenOf (s.g x.thr.val rs) + 2047) / 2048) none
    (ownerOf x.thr.val (s.g x.thr.val rt))).2 = u at *
  have threads : u.threads = (s.ran x).threads := by rw [takes.only]
  have thread : u.thr x.thr.val = (s.ran x).thr x.thr.val := congrArg (fun m : SMap Thread => SMap.get ({} : Thread) m x.thr.val) threads
  have record (i : Nat) : t.bufRec i = u.bufRec i := by
    rw [only]
    rfl
  refine ⟨t, ran, ?_, ?_, ?_, ?_, fun i out => ?_, fun r => (reads r).trans ?_⟩
  · rw [record, head]
  · rw [record, head]
  · rw [record, head]
  · refine (congrArg Thread.state own).trans ((congrArg Thread.state thread).trans ?_)
    rw [thr_ran]
    exact issues.1
  · rw [record, others i out, same.bufRec]
  · have regs : u.g x.thr.val r = s.g x.thr.val r := by
      refine Eq.trans ?_ (g_ran s x x.thr.val r)
      rw [g, greg, thread]
      rfl
    rw [regs]

theorem alloc_waits (refused : s.chargeTurn (asks s x.thr.val rs rt p) ≠ .granted) (timer : s.timerPending x.thr.val = false)
    (issues : s.Issues x [rs, rt] false) : ∃ t : State, exec (.alloc x rd rs rt) s = .next t ∧
      t.thr x.thr.val = { (s.ran x).thr x.thr.val with state := .waiting, implicit := some (.alloc (lenOf (s.g x.thr.val rs))
        (getBits (s.g x.thr.val rt) 0 13) (ownerOf x.thr.val (s.g x.thr.val rt)) rd) } ∧
      asks s x.thr.val rs rt p ∈ t.bpmWait ∧ t.recs = s.recs := by
  have same := samePool_ran s x
  have timer : ¬(s.ran x).timerPending x.thr.val = true := by
    rw [timerPending_ran, timer]
    decide
  have ends := (body_good (rd := rd) (rs := rs) good pool).trans ((if_neg fun granted => refused ((same.chargeTurn _).symm.trans granted)).trans
    (if_neg timer))
  refine ⟨_, exec_of_ok alloc_runs issues ends, ?_, mem_waitBufs .., ?_⟩
  · exact (congrArg (fun m : SMap Thread => SMap.get ({} : Thread) m x.thr.val) (threads_waitBufs ..)).trans (thr_setThr ..)
  · exact ((recs_waitBufs ..).trans (congrArg State.recs (setThr_frame (s.ran x) x.thr.val _))).trans same.recs

theorem alloc_none (refused : s.chargeTurn (asks s x.thr.val rs rt p) ≠ .granted) (timer : s.timerPending x.thr.val = true) :
    s.Computes x [rs, rt] (.alloc x rd rs rt) rd 0xFFFFFFFFFFFFFFFF := fun issues =>
  exec_of_put alloc_runs issues ((body_good good pool).trans ((if_neg fun granted => refused (((samePool_ran s x).chargeTurn _).symm.trans granted)).trans
    (if_pos ((timerPending_ran s x x.thr.val).trans timer))))

end

/-- Settles O23: each answer by the branch of the body it takes. -/
theorem allocBuffers : Obligations.AllocBuffers := by
  intro s x rd rs rt n w a len k owner good
  exact ⟨fun p h l good pool granted got issues => alloc_grants good pool granted got issues,
    fun p good pool refused timer issues => alloc_waits good pool refused timer issues,
    fun p good pool refused timer => alloc_none good pool refused timer, fun bad => raises_of_exc alloc_runs (body_bad bad)⟩

end Sys2Proof.Machine.Alloc
end

section
/-!
PROOFS. Posted writes of a Span whose translation is PASS and whose link is Up (R82, R88, R127).
-/

namespace Sys2Proof.Machine.RingWrites
open State

variable {s : State} {q : Nat} {f : Fn}

/-- An open ring stays open while its Span, function and link do. -/
theorem ringOpen_with (h : s.RingOpen q f) {qs : SMap Queue} {m : SMap (List Pkt)} {o : List Out}
    (span : (SMap.get ({} : Queue) qs q).span = (s.queue q).span) : ({ s with queues := qs, rxIn := m, out := o } : State).RingOpen q f := by
  unfold RingOpen
  rw [show (({ s with queues := qs, rxIn := m, out := o } : State).queue q).span = (s.queue q).span from span]
  exact h

/-- A posted piece of the ring's Span goes out. -/
theorem issuePiece_open (h : s.RingOpen q f) {j : Job} {p : Part} (own : j.fn = f) (span : j.span = some (s.queue q).span) (posted : j.write = true)
    (clean : (j.poisoned || p.poisoned) = false) : s.issuePiece j p = .out (s.emit (.hostWrite f p.addr p.data false j.relaxed)) := by
  obtain ⟨-, safe, live, enabled, pass, up, unlogged, ide⟩ := h
  have quiet : s.spanQuiet (s.queue q).span = false := by
    unfold spanQuiet
    rw [enabled]
  have through : s.xlate (s.queue q).span true p.addr = .ok p.addr false := by
    unfold xlate
    dsimp only
    rw [pass]
    rfl
  have sent : s.sendWrite f p.addr p.data (j.poisoned || p.poisoned) j.relaxed = s.emit (.hostWrite f p.addr p.data false j.relaxed) := by
    unfold sendWrite
    rw [up, ide, clean]
    rfl
  have logged (t : State) (same : t.regs = s.regs) : t.logWrite (s.queue q).span p.addr p.data.length = t := by
    unfold logWrite
    rw [show t.flag F.STU_LOG_CTL_EN (s.queue q).span = false from (congrArg (· != 0) (fld_congr same ..)).trans unlogged]
    rfl
  unfold issuePiece
  dsimp only
  rw [safe, span, own, posted, up]
  dsimp only
  rw [quiet, live, through]
  dsimp only
  simp only [Bool.not_true, Bool.false_eq_true, if_false, if_true, sent]
  exact congrArg Iss.out (logged _ rfl)

/-- The ring write of an open ring goes out. -/
theorem ringWrite_open (h : s.RingOpen q f) (c : BitVec 16) (cell : Cell16) :
    s.ringWrite q c cell = .ok (s.emit (.hostWrite f (s.ringAddr q c) (toBytesLE 16 cell.toNat) false false)) := by
  unfold ringWrite
  dsimp only
  rw [h.1, h.2.1]
  dsimp only
  rw [issuePiece_open h rfl rfl rfl rfl]
  rfl

end Sys2Proof.Machine.RingWrites
end

section
/-!
PROOFS. Mailbox words between hosts, Manager and device, and received frames (R176–R185, R538).
-/

namespace Sys2Proof.Machine.Mailboxes
open State Fields Frames Queues Doorbells Exceptions RingWrites

variable (s : State)

/-! ### One channel -/

/-- Channel `c` holds `z`, and every other channel what it held. -/
def Sole (t : State) (c : Nat) (z : Mbx) : Prop := t.mail c = z ∧ ∀ j, j ≠ c → t.mail j = s.mail j

variable {s} in
theorem mail_congr {t : State} (kept : t.mbx = s.mbx) (c : Nat) : t.mail c = s.mail c := by rw [mail, mail, kept]

variable {s} in
theorem sole_of {t : State} {c : Nat} {z : Mbx} (kept : t.mbx = (s.setMail c z).mbx) : Sole s t c z :=
  ⟨(mail_congr kept c).trans (mail_setMail ..), fun _ other => (mail_congr kept _).trans (mail_setMail_ne _ _ other)⟩

theorem withMbx_setMail (c : Nat) (z : Mbx) (m : SMap Mbx) : ({ s.setMail c z with mbx := m } : State) = { s with mbx := m } := rfl

variable {s} in
theorem only_withMbx {t : State} (m : SMap Mbx) (only : s.OnlySignals t) : ({ s with mbx := m } : State).OnlySignals { t with mbx := m } := by
  unfold OnlySignals
  rw [only]

/-- Setting a map bit. -/
theorem reg_setMap (r : Reg) (n : Nat) : bitOf ((s.setMap r n).reg r (n / 64)) (n % 64) = true := by
  have low : n % 64 < 64 := Nat.mod_lt _ (by decide)
  unfold setMap bitOf
  rw [reg_setReg]
  simp [low]

/-- The channel with a new outbound word. -/
def stored (c : Nat) (w : Word) : State := s.setMail c { s.mail c with outWord := w, outFull := true }

/-- The endpoint of a channel is told of its word: a Truss wakes, and the Manager has the map bit and the event. -/
def told (c : Nat) : State := match s.mbxTruss c with
  | some k => s.sourceWake k
  | none => (s.setMap .MBX_FULL_MAP c).setEvt .MBX_EVT .MBX_EVT_EN .MBX_MSIX_VEC 0 0

theorem told_truss {c n : Nat} (truss : s.mbxTruss c = some n) : told s c = s.sourceWake n := by
  unfold told
  rw [truss]

theorem told_manager {c : Nat} (manager : s.mbxTruss c = none) :
    told s c = (s.setMap .MBX_FULL_MAP c).setEvt .MBX_EVT .MBX_EVT_EN .MBX_MSIX_VEC 0 0 := by
  unfold told
  rw [manager]

/-! ### A host's accesses -/

section
variable {s} {e : MbxEnd} {f : Fn} (page : s.mbxFn e = some f) (heard : s.ideDrops f = false) (served : s.mbxOk e f = true) (answers : s.mbxAnswers e = true)
include page heard served answers

theorem exec_outWrite (w : Word) : exec (.mbxOutWrite ⟨e, true⟩ w) s = .next (if (s.mail (mbxChan e)).outFull then
    s.setMail (mbxChan e) { s.mail (mbxChan e) with overrun := true } else told (stored s (mbxChan e) w) (mbxChan e)) := by
  show execMbxOutWrite ⟨e, true⟩ w s = _
  unfold execMbxOutWrite
  dsimp only
  rw [page]
  simp only [heard, served, answers, Bool.not_true, Bool.or_false, Bool.false_eq_true, if_false]
  rfl

theorem outWrite_narrow (w : Word) : exec (.mbxOutWrite ⟨e, false⟩ w) s = .next s := by
  show execMbxOutWrite ⟨e, false⟩ w s = _
  unfold execMbxOutWrite
  dsimp only
  rw [page]
  simp only [heard, served, answers, Bool.not_true, Bool.or_true, Bool.not_false, Bool.false_eq_true, if_false, if_true]

theorem inRead_narrow : exec (.mbxInRead ⟨e, false⟩) s = .next { s with out := .readData 0 :: s.out } := by
  show execMbxInRead ⟨e, false⟩ s = _
  unfold execMbxInRead
  dsimp only
  rw [page]
  simp only [heard, served, answers, Bool.not_true, Bool.or_true, Bool.not_false, Bool.false_eq_true, if_false, if_true]
  rfl

theorem inRead_takes : ∃ t, exec (.mbxInRead ⟨e, true⟩) s = .next t ∧
    t = { s with mbx := t.mbx, out := .readData (s.mail (mbxChan e)).inWord :: s.out } ∧
    Sole s t (mbxChan e) { s.mail (mbxChan e) with inWord := 0, inFull := false } := by
  have ran : exec (.mbxInRead ⟨e, true⟩) s = .next ((s.setMail (mbxChan e) { s.mail (mbxChan e) with inWord := 0, inFull := false }).emit
      (.readData (s.mail (mbxChan e)).inWord)) := by
    show execMbxInRead ⟨e, true⟩ s = _
    unfold execMbxInRead
    dsimp only
    rw [page]
    simp only [heard, served, answers, Bool.not_true, Bool.or_false, Bool.false_eq_true, if_false]
  exact ⟨_, ran, rfl, sole_of rfl⟩

theorem outWrite_lost (w : Word) (full : (s.mail (mbxChan e)).outFull = true) : ∃ t, exec (.mbxOutWrite ⟨e, true⟩ w) s = .next t ∧
    t = { s with mbx := t.mbx } ∧ Sole s t (mbxChan e) { s.mail (mbxChan e) with overrun := true } :=
  ⟨_, (exec_outWrite page heard served answers w).trans (congrArg _ (if_pos full)), rfl, sole_of rfl⟩

section
variable (w : Word) (free : (s.mail (mbxChan e)).outFull = false)
include free

theorem exec_outStore : exec (.mbxOutWrite ⟨e, true⟩ w) s = .next (told (stored s (mbxChan e) w) (mbxChan e)) :=
  (exec_outWrite page heard served answers w).trans (congrArg _ (if_neg (by rw [free]; decide)))

theorem outWrite_marks (manager : s.mbxTruss (mbxChan e) = none) : ∃ t, exec (.mbxOutWrite ⟨e, true⟩ w) s = .next t ∧
    s.OnlySignals { t with mbx := s.mbx } ∧ Sole s t (mbxChan e) { s.mail (mbxChan e) with outWord := w, outFull := true } ∧
    t.Event .MBX_EVT 0 0 ∧ t.Event .MBX_FULL_MAP (mbxChan e / 64) (mbxChan e % 64) := by
  have told_ : told (stored s (mbxChan e) w) (mbxChan e) = _ := told_manager (stored s (mbxChan e) w) manager
  have only := only_setEvt ((stored s (mbxChan e) w).setMap .MBX_FULL_MAP (mbxChan e)) .MBX_EVT .MBX_EVT_EN .MBX_MSIX_VEC 0 0
  refine ⟨_, (exec_outStore page heard served answers w free).trans (congrArg _ told_), ?_, sole_of ?_, event_setEvt _ (by decide), ?_⟩
  · exact only_withMbx (s := stored s (mbxChan e) w) s.mbx (signals_trans (only_setReg ..) only)
  · rw [only]
    rfl
  · exact (congrArg (bitOf · _) (reg_setEvt_other _ (by decide))).trans (reg_setMap ..)

theorem outWrite_told {n : Nat} (truss : s.mbxTruss (mbxChan e) = some n) (own : s.domState (16 + n) ≠ 1 ∧ s.domState (16 + n) ≠ 2)
    (island : s.domState (n / 3) ≠ 1 ∧ s.domState (n / 3) ≠ 2) : ∃ t, exec (.mbxOutWrite ⟨e, true⟩ w) s = .next t ∧
    t = { s with mbx := t.mbx } ∧ Sole s t (mbxChan e) { s.mail (mbxChan e) with outWord := w, outFull := true } := by
  have idle : told (stored s (mbxChan e) w) (mbxChan e) = stored s (mbxChan e) w := by
    refine (told_truss (stored s (mbxChan e) w) truss).trans ?_
    refine wake_idle _ true fun k listed => ?_
    rw [if_pos (Nat.le_add_right ..), Nat.add_sub_cancel_left] at listed
    rcases List.mem_cons.1 listed with rfl | last
    · exact own
    · exact List.mem_singleton.1 last ▸ island
  exact ⟨_, (exec_outStore page heard served answers w free).trans (congrArg _ idle), rfl, sole_of rfl⟩

end

end

/-! ### The wake of a gated Truss -/

/-- The state of a domain of another register field stays. -/
theorem domState_setDom_ne {d k : Nat} (v : Nat) (apart : d < 4) (truss : 16 ≤ k) : (s.setDom d v).domState k = s.domState k := by
  unfold setDom
  rw [show domFld d = some (F.PWR_DOMAINS_PIER d) from if_pos apart]
  unfold domState
  by_cases inside : k < 28
  · rw [show domFld k = some (F.PWR_DOMAINS_TRUSS (k - 16)) from (if_neg (by omega)).trans (if_pos ⟨truss, inside⟩)]
    exact fld_setFld_apart s ⟨by show 0 + 2 * d + 2 ≤ 64; omega, .inr (by show 0 + 2 * d + 2 ≤ 8 + 2 * (k - 16); omega)⟩
  · rw [show domFld k = none from (if_neg (by omega)).trans (if_neg (by omega))]

theorem domState_setDom_truss {n : Nat} (inside : n < 12) : (s.setDom (16 + n) 3).domState (16 + n) = 3 := by
  have field : domFld (16 + n) = some (F.PWR_DOMAINS_TRUSS n) := by
    refine (if_neg (by omega)).trans ((if_pos (by omega)).trans ?_)
    rw [Nat.add_sub_cancel_left]
  unfold setDom domState
  rw [field]
  exact fld_setFld_self s (by show 8 + 2 * n + 2 ≤ 64; omega)

theorem domState_pwrEvt (b k : Nat) : (s.pwrEvt b).domState k = s.domState k := Domains.domState_congr (reg_setEvt_other s (by decide)) k

/-- The wake of an island changes no state of a Truss. -/
theorem domState_wakeIsland {d k : Nat} (island : d < 4) (truss : 16 ≤ k) : (s.wakeDom true d).domState k = s.domState k := by
  unfold wakeDom
  split
  · rw [if_pos rfl]
    unfold gatingEnd pwrEnd
    dsimp only
    rw [domState_pwrEvt]
    refine (Domains.domState_congr ?_ k).trans (domState_setDom_ne { s with pwrSeq := SMap.erase s.pwrSeq d } 0 island truss)
    rw [reg_endCmd_other _ (by decide), reg_setFld_other _ (by decide)]
  · dsimp only
    rw [if_pos rfl, domState_pwrEvt]
    exact (Domains.domState_congr (reg_bump_other _ (by decide)) k).trans (domState_setDom_ne s 3 island truss)
  · rfl

theorem domState_sourceWake {n : Nat} (inside : n < 12) (gated : s.domState (16 + n) = 2) : (s.sourceWake n).domState (16 + n) = 3 := by
  have still : (s.wakeDom true (n / 3)).domState (16 + n) = 2 := (domState_wakeIsland s (by omega) (Nat.le_add_right ..)).trans gated
  unfold sourceWake wake
  dsimp only
  rw [if_pos (Nat.le_add_right ..), Nat.add_sub_cancel_left]
  generalize s.wakeDom true (n / 3) = u at *
  unfold wakeDom
  rw [still]
  show (if true = true then ((u.setDom (16 + n) 3).bump F.PWR_WAKE_CNT_COUNT 0).pwrEvt 2 else u.setDom (16 + n) 3).domState (16 + n) = 3
  rw [if_pos rfl, domState_pwrEvt]
  exact (Domains.domState_congr (reg_bump_other _ (by decide)) _).trans (domState_setDom_truss u inside)

theorem outWrite_wakes {s : State} {e : MbxEnd} {f : Fn} (page : s.mbxFn e = some f) (heard : s.ideDrops f = false) (served : s.mbxOk e f = true)
    (answers : s.mbxAnswers e = true) (w : Word) (free : (s.mail (mbxChan e)).outFull = false) {n : Nat}
    (truss : s.mbxTruss (mbxChan e) = some n) (inside : n < 12) (gated : s.domState (16 + n) = 2) : ∃ t,
      exec (.mbxOutWrite ⟨e, true⟩ w) s = .next t ∧ t.domState (16 + n) = 3 ∧
      Sole s t (mbxChan e) { s.mail (mbxChan e) with outWord := w, outFull := true } := by
  refine ⟨_, (exec_outStore page heard served answers w free).trans (congrArg _ (told_truss (stored s (mbxChan e) w) truss)),
    domState_sourceWake _ inside gated, sole_of ?_⟩
  rw [power_sourceWake]
  rfl

/-! ### The Manager's accesses -/

section
variable {s}

theorem to_stores (w : Word) (open_ : s.regOpen .MBX_TO 0 = true) (manager : s.mbxTruss s.selChan = none) (free : (s.mail s.selChan).inFull = false)
    (silent : (s.mail s.selChan).irqEn = false) : ∃ t, exec (.mbxToWrite w) s = .next t ∧ t = { s with mbx := t.mbx } ∧
      Sole s t s.selChan { s.mail s.selChan with inWord := w, inFull := true } := by
  have ran : exec (.mbxToWrite w) s = .next (s.setMail s.selChan { s.mail s.selChan with inWord := w, inFull := true }) := by
    refine congrArg Host.Outcome.next ((onReg_open s _ _ _ _ open_).trans ?_)
    dsimp only
    rw [manager, free]
    refine (if_neg (by decide)).trans ?_
    unfold storeIn
    dsimp only
    rw [silent]
    exact if_neg (by decide)
  exact ⟨_, ran, rfl, sole_of rfl⟩

theorem to_dropped (w : Word) (open_ : s.regOpen .MBX_TO 0 = true) (shut : (s.mail s.selChan).inFull = true ∨ s.mbxTruss s.selChan ≠ none) : ∃ t,
    exec (.mbxToWrite w) s = .next t ∧ s.OnlyRegs t [(.MBX_STATUS, s.selChan)] ∧ t.fld F.MBX_STATUS_TO_DROPPED s.selChan = 1 := by
  have ran : exec (.mbxToWrite w) s = .next (s.setFld F.MBX_STATUS_TO_DROPPED s.selChan 1) := by
    refine congrArg Host.Outcome.next ((onReg_open s _ _ _ _ open_).trans (if_pos ?_))
    rw [Bool.or_eq_true, Option.isSome_iff_ne_none]
    exact shut.symm
  exact ⟨_, ran, ⟨rfl, but_setFld s F.MBX_STATUS_TO_DROPPED s.selChan 1⟩, fld_setFld_self s (by decide)⟩

/-- The map bit of a channel that is empty is 0. -/
theorem bit_fullMap {c : Nat} (empty : (s.mail c).outFull = false) : bitOf ((s.fullMap c).reg .MBX_FULL_MAP (c / 64)) (c % 64) = false := by
  have low : c % 64 < 64 := Nat.mod_lt _ (by decide)
  unfold fullMap
  rw [empty]
  dsimp only
  rw [if_neg (by simp)]
  split
  · rw [reg_setReg]
    simp [bitOf]
  · next clear => simpa using clear

theorem from_takes (open_ : s.regOpen .MBX_FROM 0 = true) : ∃ t, exec .mbxFromRead s = .next t ∧
    t = { s with mbx := t.mbx, regs := t.regs, out := .readData (s.mail s.selChan).outWord :: s.out } ∧
    Sole s t s.selChan { s.mail s.selChan with outWord := 0, outFull := false } ∧
    bitOf (t.reg .MBX_FULL_MAP (s.selChan / 64)) (s.selChan % 64) = false := by
  have ran : exec .mbxFromRead s = .next (((s.setMail s.selChan { s.mail s.selChan with outWord := 0, outFull := false }).fullMap s.selChan).emit
      (.readData (s.mail s.selChan).outWord)) := congrArg Host.Outcome.next (onRead_open s _ _ _ _ open_)
  have empty : ((s.setMail s.selChan { s.mail s.selChan with outWord := 0, outFull := false }).mail s.selChan).outFull = false := by
    rw [mail_setMail]
  have clear := bit_fullMap empty
  have frame := Boxes.fullMap_empty empty
  generalize (s.setMail s.selChan { s.mail s.selChan with outWord := 0, outFull := false }).fullMap s.selChan = u at *
  refine ⟨_, ran, ?_, sole_of ?_, clear⟩
  · rw [frame]
    rfl
  · rw [frame]
    rfl

end

end Sys2Proof.Machine.Mailboxes
end

section
/-!
PROOFS. Frames for RX queues: dropped, or written to a RECV entry (R157–R159, R183, R538).
-/

namespace Sys2Proof.Machine.ReceivedFrames
open State Fields Queues Doorbells RingWrites

variable (s : State)

/-! ### A frame's leave from the input -/

/-- A frame that has been placed in the entry at a cell of queue `q`. -/
def placedIn (q : Nat) (cell : BitVec 16) (f : Pkt) : Bool := f.rxq == some q && f.placed == some cell

/-- Frames of the entry hold no buffers. -/
def Headless (q : Nat) (cell : BitVec 16) : Prop := ∀ p < 4, ∀ g ∈ s.rx p, placedIn q cell g = true → g.head = none

/-- One Pier's input is rid of the frames of an entry. -/
def clearInput (q : Nat) (cell : BitVec 16) (u : State) (p : Nat) : State :=
  ((u.rx p).filter (placedIn q cell)).foldl (fun v f => v.releaseOpt f.head) (u.setRx p ((u.rx p).filter fun f => !placedIn q cell f))

theorem rxIssued_eq (q : Nat) (cell : BitVec 16) : s.rxIssued q cell =
    if (s.queue q).begun.any (fun b => b.entry.cell == cell && b.parts != 0) then s else (List.range 4).foldl (clearInput q cell) s := rfl

theorem release_headless {L : List Pkt} (none_ : ∀ g ∈ L, g.head = none) : L.foldl (fun v f => v.releaseOpt f.head) s = s := by
  induction L generalizing s with
  | nil => rfl
  | cons g L ih =>
    rw [List.foldl_cons, none_ g List.mem_cons_self]
    exact ih s fun g mem => none_ g (List.mem_cons_of_mem _ mem)

section
variable {s} {q : Nat} {cell : BitVec 16}

theorem clearInput_headless {p : Nat} (none_ : ∀ g ∈ s.rx p, placedIn q cell g = true → g.head = none) :
    clearInput q cell s p = s.setRx p ((s.rx p).filter fun f => !placedIn q cell f) :=
  release_headless _ fun g mem => none_ g (List.mem_filter.1 mem).1 (List.mem_filter.1 mem).2

/-- Inputs rid of the frames of an entry that hold no buffers. -/
theorem cleared_inputs (none_ : Headless s q cell) (n : Nat) (four : n ≤ 4) :
    (List.range n).foldl (clearInput q cell) s = { s with rxIn := ((List.range n).foldl (clearInput q cell) s).rxIn } ∧
    ∀ p, ((List.range n).foldl (clearInput q cell) s).rx p = if p < n then (s.rx p).filter fun f => !placedIn q cell f else s.rx p := by
  induction n with
  | zero => exact ⟨rfl, fun p => (if_neg (Nat.not_lt_zero p)).symm⟩
  | succ n ih =>
    obtain ⟨only, inputs⟩ := ih (by omega)
    rw [List.range_succ, List.foldl_append, List.foldl_cons, List.foldl_nil]
    generalize (List.range n).foldl (clearInput q cell) s = u at *
    have last : u.rx n = s.rx n := (inputs n).trans (if_neg (Nat.lt_irrefl n))
    rw [clearInput_headless (s := u) (by rw [last]; exact none_ n (by omega))]
    refine ⟨by rw [only]; rfl, fun p => ?_⟩
    rw [rx_setRx, last, inputs]
    by_cases here : p = n
    · rw [if_pos here, if_pos (by omega), here]
    · rw [if_neg here]
      simp only [show p < n + 1 ↔ p < n by omega]

theorem filter_twice (L : List Pkt) : (L.filter fun f => !placedIn q cell f).filter (fun f => !placedIn q cell f) =
    L.filter fun f => !placedIn q cell f := by
  rw [List.filter_filter]
  simp only [Bool.and_self]

variable (s) in
/-- What a data write of an entry may change: its queue, the inputs and the output. -/
structure Issuing (q : Nat) (cell : BitVec 16) (t : State) : Prop where
  only : t = { s with queues := t.queues, rxIn := t.rxIn, out := t.out }
  others : ∀ j, j ≠ q → t.queue j = s.queue j
  inputs : ∀ p, (t.rx p).filter (fun f => !placedIn q cell f) = (s.rx p).filter fun f => !placedIn q cell f
  fewer : ∀ p, t.rx p ⊆ s.rx p

theorem Issuing.trans {t u : State} (first : Issuing s q cell t) (then_ : Issuing t q cell u) : Issuing s q cell u where
  only := by
    refine Eq.trans then_.only ?_
    rw [first.only]
  others j other := (then_.others j other).trans (first.others j other)
  inputs p := (then_.inputs p).trans (first.inputs p)
  fewer p := List.Subset.trans (then_.fewer p) (first.fewer p)

theorem Issuing.headless {t : State} (first : Issuing s q cell t) (none_ : Headless s q cell) : Headless t q cell :=
  fun p four g mem => none_ p four g (first.fewer p mem)

theorem issuing_emit (o : Out) : Issuing s q cell (s.emit o) := ⟨rfl, fun _ _ => rfl, fun _ => rfl, fun _ => List.Subset.refl _⟩

theorem issuing_setQueue (y : Queue) : Issuing s q cell (s.setQueue q y) :=
  ⟨rfl, fun _ other => queue_setQueue_ne _ _ other, fun _ => rfl, fun _ => List.Subset.refl _⟩

theorem issuing_rxIssued (none_ : Headless s q cell) : Issuing s q cell (s.rxIssued q cell) := by
  rw [rxIssued_eq]
  split
  · exact ⟨rfl, fun _ _ => rfl, fun _ => rfl, fun _ => List.Subset.refl _⟩
  · obtain ⟨only, inputs⟩ := cleared_inputs none_ 4 le_rfl
    generalize (List.range 4).foldl (clearInput q cell) s = u at *
    refine ⟨by rw [only], fun j _ => by rw [only]; rfl, fun p => ?_, fun p => ?_⟩
    · rw [inputs]
      split
      · exact filter_twice _
      · rfl
    · rw [inputs]
      split
      · exact List.filter_subset_self _
      · exact List.Subset.refl _

theorem queue_rxIssued (none_ : Headless s q cell) (k : Nat) : (s.rxIssued q cell).queue k = s.queue k := by
  rw [rxIssued_eq]
  split
  · rfl
  · rw [(cleared_inputs none_ 4 le_rfl).1]
    rfl

theorem out_rxIssued (none_ : Headless s q cell) : (s.rxIssued q cell).out = s.out := by
  rw [rxIssued_eq]
  split
  · rfl
  · rw [(cleared_inputs none_ 4 le_rfl).1]

/-- With no data write left to issue, the frames of the entry are gone from the inputs. -/
theorem rx_rxIssued (none_ : Headless s q cell) (done : ∀ b ∈ (s.queue q).begun, b.entry.cell = cell → b.parts = 0) {p : Nat} (four : p < 4) :
    (s.rxIssued q cell).rx p = (s.rx p).filter fun f => !placedIn q cell f := by
  have issued : (s.queue q).begun.any (fun b => b.entry.cell == cell && b.parts != 0) = false := by
    rw [List.any_eq_false]
    intro b mem
    simpa using done b mem
  rw [rxIssued_eq, if_neg (by rw [issued]; decide), (cleared_inputs none_ 4 le_rfl).2 p, if_pos four]

end

/-! ### The data writes of an entry -/

/-- A begun entry with `k` data writes fewer to issue. -/
def paid (cell : BitVec 16) (k : Nat) (b : Begun) : Begun := if b.entry.cell = cell then { b with parts := b.parts - k } else b

theorem paid_paid (cell : BitVec 16) (k : Nat) (b : Begun) : paid cell k (paid cell 1 b) = paid cell (k + 1) b := by
  unfold paid
  by_cases at_ : b.entry.cell = cell
  · simp only [at_, if_true, Nat.sub_sub, Nat.add_comm k 1]
  · simp only [at_, if_false]

theorem paid_zero (cell : BitVec 16) (b : Begun) : paid cell 0 b = b := by
  unfold paid
  split <;> rfl

section
variable {s} {q : Nat} {cell : BitVec 16} {f : Fn}

/-- One data write of an entry. -/
def written (s : State) (q : Nat) (cell : BitVec 16) (o : Out) : State :=
  ((s.emit o).withBegun q cell fun b => { b with parts := b.parts - 1 }).rxIssued q cell

theorem issuing_written (none_ : Headless s q cell) (o : Out) : Issuing s q cell (written s q cell o) := by
  have begun : Issuing s q cell ((s.emit o).withBegun q cell fun b => { b with parts := b.parts - 1 }) :=
    Issuing.trans (t := s.emit o) (issuing_emit o) (issuing_setQueue _)
  exact begun.trans (issuing_rxIssued (begun.headless none_))

theorem headless_begun (none_ : Headless s q cell) (o : Out) (g : Begun → Begun) : Headless ((s.emit o).withBegun q cell g) q cell := none_

theorem queue_written (none_ : Headless s q cell) (o : Out) :
    (written s q cell o).queue q = { s.queue q with begun := (s.queue q).begun.map (paid cell 1) } :=
  (queue_rxIssued (headless_begun none_ o _) q).trans (queue_setQueue ..)

theorem out_written (none_ : Headless s q cell) (o : Out) : (written s q cell o).out = o :: s.out := out_rxIssued (headless_begun none_ o _)

theorem ringOpen_issuing {t : State} (open_ : s.RingOpen q f) (issuing : Issuing s q cell t) (span : (t.queue q).span = (s.queue q).span) :
    t.RingOpen q f := by
  have kept := ringOpen_with open_ (qs := t.queues) (m := t.rxIn) (o := t.out) span
  rwa [← issuing.only] at kept

/-- The data writes of an entry of an open ring all go out, in order. -/
theorem runParts_data {L : List Part} {j : Job} (open_ : s.RingOpen q f) (own : j.fn = f) (span : j.span = some (s.queue q).span)
    (posted : j.write = true) (clean : j.poisoned = false) (sound : ∀ p ∈ L, p.poisoned = false) {k : Nat} (dep : j.dep = .data q cell k)
    (none_ : Headless s q cell) : Issuing s q cell (s.runParts j L) ∧
      (s.runParts j L).out = (L.map fun p => Out.hostWrite f p.addr p.data false j.relaxed).reverse ++ s.out ∧
      (s.runParts j L).queue q = { s.queue q with begun := (s.queue q).begun.map (paid cell L.length) } := by
  induction L generalizing s j with
  | nil =>
    refine ⟨⟨rfl, fun _ _ => rfl, fun _ => rfl, fun _ => List.Subset.refl _⟩, rfl, ?_⟩
    have same : paid cell ([] : List Part).length = id := funext (paid_zero cell)
    rw [same, List.map_id]
    rfl
  | cons p L ih =>
    have issued := issuePiece_open open_ (p := p) own span posted (by rw [clean, sound p List.mem_cons_self]; rfl)
    have step : s.runParts j (p :: L) = (written s q cell (.hostWrite f p.addr p.data false j.relaxed)).runParts { j with part := j.part + 1 } L := by
      rw [runParts, issued]
      dsimp only
      rw [if_pos posted]
      exact congrArg (fun d => runParts (depWritten _ d) { j with part := j.part + 1 } L) dep
    have issuing := issuing_written none_ (.hostWrite f p.addr p.data false j.relaxed)
    have queue := queue_written none_ (.hostWrite f p.addr p.data false j.relaxed)
    have out := out_written none_ (.hostWrite f p.addr p.data false j.relaxed)
    rw [step]
    generalize written s q cell (.hostWrite f p.addr p.data false j.relaxed) = u at *
    have same : (u.queue q).span = (s.queue q).span := by rw [queue]
    obtain ⟨issuing', out', queue'⟩ := ih (s := u) (j := { j with part := j.part + 1 }) (ringOpen_issuing open_ issuing same) own (by rw [same]; exact span)
      posted clean (fun p mem => sound p (List.mem_cons_of_mem _ mem)) dep (issuing.headless none_)
    refine ⟨issuing.trans issuing', ?_, ?_⟩
    · rw [out', out, List.map_cons, List.reverse_cons, List.append_assoc]
      rfl
    · rw [queue', queue]
      simp only [List.map_map, List.length_cons, Function.comp_def, paid_paid]

end

/-! ### A frame that meets its queue -/

theorem setAt_filter {A : Type} {P : A → Bool} {x : A} (drop : P x = false) {L : List A} {k : Nat} (keep : ∀ y ∈ L, P y = true) (inside : k < L.length) :
    (setAt L k x).filter P = L.eraseIdx k := by
  induction L generalizing k with
  | nil => exact absurd inside (Nat.not_lt_zero k)
  | cons y L ih =>
    have rest : ∀ z ∈ L, P z = true := fun z mem => keep z (List.mem_cons_of_mem _ mem)
    cases k with
    | zero =>
      show (x :: L).filter P = L
      rw [List.filter_cons_of_neg (by rw [drop]; decide), List.filter_eq_self.2 rest]
    | succ k =>
      show (y :: setAt L k x).filter P = y :: L.eraseIdx k
      rw [List.filter_cons_of_pos (keep y List.mem_cons_self), ih rest (Nat.lt_of_succ_lt_succ inside)]

theorem mem_setAt {A : Type} {x y : A} {L : List A} {k : Nat} (mem : y ∈ setAt L k x) : y = x ∨ y ∈ L := by
  induction L generalizing k with
  | nil => cases mem
  | cons z L ih =>
    cases k with
    | zero =>
      rcases List.mem_cons.1 mem with rfl | later
      · exact .inl rfl
      · exact .inr (List.mem_cons_of_mem _ later)
    | succ k =>
      rcases List.mem_cons.1 mem with rfl | later
      · exact .inr List.mem_cons_self
      · exact (ih later).imp_right (List.mem_cons_of_mem _)

/-- The pieces of a write carry no mark. -/
theorem sound_writePieces (m fuel a : Nat) (bs : List Byte) : ∀ p ∈ writePieces m fuel a bs, p.poisoned = false := by
  induction fuel generalizing a bs with
  | zero =>
    intro p mem
    cases mem
  | succ fuel ih =>
    cases bs with
    | nil =>
      intro p mem
      cases mem
    | cons b bs =>
      intro p mem
      rcases List.mem_cons.1 mem with rfl | later
      · rfl
      · exact ih _ _ p later

section
variable {s} {p : Pier} {k : Fin 256} {g : Pkt} {q : Nat} (at_ : (s.rx p.val)[k.val]? = some g) (rxq : g.rxq = some q) (free : g.placed = none)
  (first : ∀ g' ∈ (s.rx p.val).take k.val, g'.rxq ≠ some q)
include at_ rxq free first

/-- What happens to the first frame of its queue. -/
theorem exec_deliver : exec (.rxFrameDeliver p k) s = .next (
    let x := s.queue q
    let gone := s.setRx p.val ((s.rx p.val).eraseIdx k.val)
    let off := match s.spanFn x.span with | some fn => !(s.fn fn).bme | none => true
    if x.state != .active || off || !s.spanEnabled x.span then gone.rxDrop q g
    else if s.isSafe then s
    else if x.fetching = 0 ∧ x.pi = x.ci ∧ !(x.cached.any fun e => e.opcode == 0x10) then gone.rxDrop q g
    else match x.cached with
      | [] => s
      | e :: rest =>
        if e.malformed x.kind || e.opcode == 0 || (e.barrier && !x.begun.isEmpty) || s.qeStopped then s
        else ((s.setRx p.val (setAt (s.rx p.val) k.val { g with placed := some e.cell })).rxWrite q e rest g).rxStarve q) := by
  have none_ : ((s.rx p.val).take k.val).any (fun h => h.rxq == some q) = false := by
    rw [List.any_eq_false]
    intro h mem
    simpa using first h mem
  show execRxFrameDeliver p k s = _
  unfold execRxFrameDeliver
  dsimp only
  rw [at_]
  dsimp only
  rw [rxq]
  dsimp only
  rw [free, none_]
  exact congrArg Host.Outcome.next (if_neg (by decide))

theorem deliver_drops (off : (s.queue q).state ≠ .active) (headless : g.head = none) : ∃ t, exec (.rxFrameDeliver p k) s = .next t ∧
    t.rx p.val = (s.rx p.val).eraseIdx k.val ∧ (t.queue q).drops = min ((s.queue q).drops + 1) 0xFFFFFFFF ∧
    t.fld F.QE_RX_DROP_CNT_COUNT 0 = min (s.fld F.QE_RX_DROP_CNT_COUNT 0 + 1) 0xFFFFFFFF := by
  have ran : exec (.rxFrameDeliver p k) s = .next ((s.setRx p.val ((s.rx p.val).eraseIdx k.val)).rxDrop q g) := by
    refine (exec_deliver at_ rxq free first).trans (congrArg _ (if_pos ?_))
    rw [bne_iff_ne.2 off, Bool.true_or, Bool.true_or]
  have dropped (u : State) : u.rxDrop q g = (u.setQueue q { u.queue q with drops := satAdd 32 (u.queue q).drops 1 }).bump F.QE_RX_DROP_CNT_COUNT 0 := by
    unfold rxDrop
    rw [headless]
    rfl
  refine ⟨_, ran, (rx_rxDrop ..).trans ((rx_setRx ..).trans (if_pos rfl)), ?_, ?_⟩
  · rw [dropped]
    refine Eq.trans (congrArg Queue.drops (queue_setQueue ..)) ?_
    exact TimeUnit.satAdd_one 32 _
  · rw [dropped]
    exact (TimeUnit.fld_bump _ F.QE_RX_DROP_CNT_COUNT 0 (by decide)).trans (TimeUnit.satAdd_one 32 _)

section
variable {f : Fn} {r : Entry} {rest : List Entry} (headless : g.head = none) (clean : g.poisoned = false)
  (others : ∀ p' < 4, ∀ g' ∈ s.rx p', g'.rxq = some q → g'.placed ≠ some r.cell) (active : (s.queue q).state = .active)
  (cached : (s.queue q).cached = r :: rest) (more : rest ≠ [] ∨ (s.queue q).pi ≠ (s.queue q).ci ∨ (s.queue q).fetching ≠ 0)
  (recv : r.opcode = 0x10) (whole : r.malformed (s.queue q).kind = false) (turn : r.barrier = false ∨ (s.queue q).begun = [])
  (fresh : ∀ b ∈ (s.queue q).begun, b.entry.cell ≠ r.cell) (runs : s.qeStopped = false) (open_ : s.RingOpen q f)

/-- The state of a frame that has been placed in its entry. -/
def placed (s : State) (p : Pier) (k : Fin 256) (g : Pkt) (r : Entry) : State :=
  s.setRx p.val (setAt (s.rx p.val) k.val { g with placed := some r.cell })

/-- The pieces of a received frame's write. -/
def pieces (s : State) (f : Fn) (r : Entry) (g : Pkt) : List Part :=
  ((scatter r.elements (g.bytes.take (r.elements.map Prod.snd).sum)).map fun v => s.writeCut f v.1 v.2).flatten

/-- The entry as it begins. -/
def beginning (g : Pkt) (r : Entry) (parts : Nat) : Begun :=
  let room := (r.elements.map Prod.snd).sum
  { entry := r, parts := parts
    causes := (if room < g.bytes.length then [2] else []) ++ (if g.trunc then [13] else []) ++ (if g.authFail then [6] else [])
    result := some { bytes := (g.bytes.take room).length, info := rxInfo g, time := g.time, hash := g.hash, mark := g.mark } }

/-- The state in which the data writes of a received frame begin. -/
def begunRx (s : State) (p : Pier) (k : Fin 256) (g : Pkt) (q : Nat) (f : Fn) (r : Entry) (rest : List Entry) : State :=
  (placed s p k g r).setQueue q { s.queue q with
    cached := rest, begun := (s.queue q).begun ++ [beginning g r (pieces s f r g).length] }

/-- The job of a received frame's data writes. -/
def rxJob (s : State) (g : Pkt) (q : Nat) (f : Fn) (r : Entry) : Job :=
  { fn := f, span := some (s.queue q).span, dep := .data q r.cell 0, write := true, parts := pieces s f r g, relaxed := s.relaxedOrder q r f }

include headless clean open_ in
omit at_ rxq free first in
theorem rxWrite_open : (placed s p k g r).rxWrite q r rest g =
    (((begunRx s p k g q f r rest).runJob (rxJob s g q f r)).rxIssued q r.cell).refreshDrained (s.queue q).span := by
  obtain ⟨span, -⟩ := open_
  have causes (l : List Nat) : l ++ (if (false : Bool) = true then [5] else []) = l := List.append_nil l
  unfold rxWrite
  dsimp only
  rw [show (placed s p k g r).spanFn ((placed s p k g r).queue q).span = some f from span, headless, clean, Bool.or_false, causes]
  rfl

end

end

/-! ### The entry's data -/

section
variable {s} {p : Pier} {k : Fin 256} {g : Pkt} {q : Nat} {f : Fn} {r : Entry} {rest : List Entry}

theorem rx_placed (p' : Nat) : (placed s p k g r).rx p' = if p' = p.val then setAt (s.rx p.val) k.val { g with placed := some r.cell } else s.rx p' :=
  rx_setRx ..

/-- The frame itself is the one frame of the entry. -/
theorem headless_begun_rx (headless : g.head = none) (others : ∀ p' < 4, ∀ g' ∈ s.rx p', g'.rxq = some q → g'.placed ≠ some r.cell) :
    Headless (begunRx s p k g q f r rest) q r.cell := by
  have stranger {p' : Nat} (four : p' < 4) {y : Pkt} (mem : y ∈ s.rx p') (mine : placedIn q r.cell y = true) : y.head = none := by
    have named : y.rxq = some q ∧ y.placed = some r.cell := by simpa [placedIn] using mine
    exact absurd named.2 (others p' four y mem named.1)
  intro p' four y mem mine
  have input : (begunRx s p k g q f r rest).rx p' = (placed s p k g r).rx p' := rfl
  rw [input, rx_placed] at mem
  split at mem
  · next here =>
    rcases mem_setAt mem with rfl | old
    · exact headless
    · exact stranger four (here ▸ old) mine
  · exact stranger four mem mine

/-- The entry and those before it, once every data write is out. -/
theorem paid_begun (fresh : ∀ b ∈ (s.queue q).begun, b.entry.cell ≠ r.cell) (n : Nat) :
    ((s.queue q).begun ++ [beginning g r n]).map (paid r.cell n) = (s.queue q).begun ++ [beginning g r 0] := by
  have old : (s.queue q).begun.map (paid r.cell n) = (s.queue q).begun :=
    (List.map_congr_left fun b mem => if_neg (fresh b mem)).trans (List.map_id _)
  have new : paid r.cell n (beginning g r n) = beginning g r 0 := by
    unfold paid
    rw [if_pos (show (beginning g r n).entry.cell = r.cell from rfl)]
    unfold beginning
    dsimp only
    rw [Nat.sub_self]
  rw [List.map_append, old, List.map_singleton, new]

theorem queue_begunRx : (begunRx s p k g q f r rest).queue q = { s.queue q with
    cached := rest, begun := (s.queue q).begun ++ [beginning g r (pieces s f r g).length] } := queue_setQueue ..

theorem sound_pieces : ∀ v ∈ pieces s f r g, v.poisoned = false := by
  intro v mem
  obtain ⟨l, listed, inside⟩ := List.mem_flatten.1 mem
  obtain ⟨w, -, rfl⟩ := List.mem_map.1 listed
  exact sound_writePieces _ _ _ _ v inside

theorem refreshDrained_enabled {n : Nat} (enabled : (s.span n).state = .enabled) : s.refreshDrained n = s := if_pos (by rw [enabled]; decide)

variable (at_ : (s.rx p.val)[k.val]? = some g) (rxq : g.rxq = some q) (free : g.placed = none)
  (first : ∀ g' ∈ (s.rx p.val).take k.val, g'.rxq ≠ some q) (headless : g.head = none) (clean : g.poisoned = false)
  (others : ∀ p' < 4, ∀ g' ∈ s.rx p', g'.rxq = some q → g'.placed ≠ some r.cell) (active : (s.queue q).state = .active)
  (cached : (s.queue q).cached = r :: rest) (more : rest ≠ [] ∨ (s.queue q).pi ≠ (s.queue q).ci ∨ (s.queue q).fetching ≠ 0)
  (recv : r.opcode = 0x10) (whole : r.malformed (s.queue q).kind = false) (turn : r.barrier = false ∨ (s.queue q).begun = [])
  (fresh : ∀ b ∈ (s.queue q).begun, b.entry.cell ≠ r.cell) (runs : s.qeStopped = false) (open_ : s.RingOpen q f)

section
include rxq headless others fresh open_ at_

/-- What the data writes leave. -/
theorem rxJob_done : ∃ t, ((begunRx s p k g q f r rest).runJob (rxJob s g q f r)).rxIssued q r.cell = t ∧
    t = { s with queues := t.queues, rxIn := t.rxIn, out := t.out } ∧
    t.rx p.val = (s.rx p.val).eraseIdx k.val ∧ (∀ j, j ≠ q → t.queue j = s.queue j) ∧
    t.queue q = { s.queue q with cached := rest, begun := (s.queue q).begun ++ [beginning g r 0] } ∧
    t.out = ((pieces s f r g).map fun v => Out.hostWrite f v.addr v.data false (s.relaxedOrder q r f)).reverse ++ s.out := by
  have queue := queue_begunRx (s := s) (p := p) (k := k) (g := g) (q := q) (f := f) (r := r) (rest := rest)
  have none_ := headless_begun_rx (s := s) (p := p) (k := k) (f := f) (rest := rest) headless others
  have same : ((begunRx s p k g q f r rest).queue q).span = (s.queue q).span := by rw [queue]
  have opened : (begunRx s p k g q f r rest).RingOpen q f := ringOpen_with open_ (m := (begunRx s p k g q f r rest).rxIn) (o := s.out) same
  obtain ⟨issuing, out, begun⟩ := runParts_data (L := pieces s f r g) (j := rxJob s g q f r) opened rfl (by rw [same]; rfl) rfl rfl sound_pieces rfl none_
  rw [queue] at begun
  dsimp only at begun
  rw [paid_begun fresh] at begun
  have none_' := issuing.headless none_
  have last := issuing.trans (issuing_rxIssued none_')
  refine ⟨_, rfl, ?_, ?_, fun j other => (last.others j other).trans (queue_setQueue_ne _ _ other), ?_, ?_⟩
  · exact last.only
  · refine (rx_rxIssued none_' ?_ p.isLt).trans ((issuing.inputs p.val).trans ?_)
    · intro b mem at_
      rw [begun] at mem
      rcases List.mem_append.1 mem with old | new
      · exact absurd at_ (fresh b old)
      · rw [List.mem_singleton.1 new]
        rfl
    · have input : (begunRx s p k g q f r rest).rx p.val = setAt (s.rx p.val) k.val { g with placed := some r.cell } := (rx_placed p.val).trans (if_pos rfl)
      rw [input]
      refine setAt_filter ?_ (fun y mem => ?_) (List.getElem?_eq_some_iff.1 at_).1
      · simp [placedIn, rxq]
      · by_cases mine : y.rxq = some q
        · simp [placedIn, mine, others p.val p.isLt y mem mine]
        · simp [placedIn, mine]
  · exact (queue_rxIssued none_' q).trans begun
  · exact (out_rxIssued none_').trans out

end

include at_ rxq free first headless clean others active cached more recv whole turn fresh runs open_

theorem deliver_writes : ∃ t, exec (.rxFrameDeliver p k) s = .next t ∧ t.rx p.val = (s.rx p.val).eraseIdx k.val ∧
    (∀ j, j ≠ q → t.queue j = s.queue j) ∧
    t.queue q = { s.queue q with cached := rest, begun := (s.queue q).begun ++ [beginning g r 0] } ∧
    t.out = ((pieces s f r g).map fun v => Out.hostWrite f v.addr v.data false (s.relaxedOrder q r f)).reverse ++ s.out := by
  obtain ⟨t, done, only, input, kept, queue, out⟩ := rxJob_done (rest := rest) at_ rxq headless others fresh open_
  have wrote : (placed s p k g r).rxWrite q r rest g = t := by
    rw [rxWrite_open (p := p) (k := k) (rest := rest) headless clean open_, done]
    refine refreshDrained_enabled ?_
    rw [only]
    exact open_.2.2.2.1
  have unstarved : t.rxStarve q = t := by
    refine starve_none t ?_
    rw [queue]
    rintro ⟨-, pi, fetching, none_⟩
    rcases more with more | more | more
    · exact more (List.isEmpty_iff.1 none_)
    · exact more pi
    · exact more fetching
  obtain ⟨span, safe, live, enabled, -⟩ := open_
  have bme : (s.fn f).bme = true := by
    unfold muted at live
    rw [Bool.or_eq_false_iff, Bool.or_eq_false_iff] at live
    simpa using live.1.1
  have barrier : (r.barrier && !(s.queue q).begun.isEmpty) = false := by
    rcases turn with off | empty
    · rw [off, Bool.false_and]
    · rw [empty, List.isEmpty_nil, Bool.not_true, Bool.and_false]
  refine ⟨t, (exec_deliver at_ rxq free first).trans (congrArg _ ?_), input, kept, queue, out⟩
  dsimp only
  rw [span, active, spanEnabled, enabled, safe, cached]
  dsimp only
  refine (if_neg ?_).trans ((if_neg (by decide)).trans ((if_neg ?_).trans ((if_neg ?_).trans ?_)))
  · rw [bme]
    decide
  · simp [recv]
  · rw [whole, recv, barrier, runs]
    decide
  · exact (congrArg (fun u => State.rxStarve u q) wrote).trans unstarved

end

/-- Settles O34: a mailbox access by the channel's state and endpoint, and a frame by its queue's state. -/
theorem mailboxesAndReceive : Obligations.MailboxesAndReceive := by
  intro s e w f p k c x d y sole awake more
  refine ⟨fun page heard served answers => ⟨fun free manager => Mailboxes.outWrite_marks page heard served answers w free manager,
      fun n free truss own island => Mailboxes.outWrite_told page heard served answers w free truss own island,
      fun n free truss inside gated => Mailboxes.outWrite_wakes page heard served answers w free truss inside gated,
      Mailboxes.outWrite_lost page heard served answers w, Mailboxes.inRead_takes page heard served answers,
      Mailboxes.outWrite_narrow page heard served answers w, Mailboxes.inRead_narrow page heard served answers⟩,
    Mailboxes.to_stores w, Mailboxes.to_dropped w, Mailboxes.from_takes,
    fun g q at_ rxq free first off headless => deliver_drops at_ rxq free first off headless, ?_⟩
  intro g q r rest at_ rxq free headless clean first others active cached more recv whole turn fresh runs open_
  exact deliver_writes at_ rxq free first headless clean others active cached more recv whole turn fresh runs open_

end Sys2Proof.Machine.ReceivedFrames
end

section
/-!
PROOFS. Completions of entries that are written in place at an open ring (R159–R163, R539).
-/

namespace Sys2Proof.Machine.Completions
open State Fields Queues RingWrites ReceivedFrames

/-! ### Bytes of a cell -/

theorem toBytesLE_append (a b v : Nat) : toBytesLE (a + b) v = toBytesLE a v ++ toBytesLE b (v / 256 ^ a) := by
  induction a generalizing v with
  | zero => simp [toBytesLE]
  | succ a ih =>
    rw [Nat.add_right_comm, toBytesLE, ih, toBytesLE, Nat.pow_succ', ← Nat.div_div_eq_div_mul]
    rfl

theorem toBytesLE_add (k v w : Nat) : toBytesLE k (v + 256 ^ k * w) = toBytesLE k v := by
  induction k generalizing v with
  | zero => rfl
  | succ k ih =>
    have low : v + 256 ^ (k + 1) * w = v + 256 * (256 ^ k * w) := by rw [Nat.pow_succ', Nat.mul_assoc]
    have first : BitVec.ofNat 8 (v + 256 * (256 ^ k * w)) = BitVec.ofNat 8 v := by
      apply BitVec.eq_of_toNat_eq
      rw [BitVec.toNat_ofNat, BitVec.toNat_ofNat, Nat.add_mul_mod_self_left]
    rw [toBytesLE, low, first, Nat.add_mul_div_left _ _ (by decide), ih, toBytesLE]

theorem toBytesLE_fromBytesLE (bs : List Byte) : toBytesLE bs.length (fromBytesLE bs) = bs := by
  induction bs with
  | nil => rfl
  | cons b bs ih =>
    have small := b.isLt
    have first : BitVec.ofNat 8 (b.toNat + 256 * fromBytesLE bs) = b := by
      apply BitVec.eq_of_toNat_eq
      rw [BitVec.toNat_ofNat]
      omega
    have rest : (b.toNat + 256 * fromBytesLE bs) / 256 = fromBytesLE bs := by omega
    rw [List.length_cons, fromBytesLE, toBytesLE, first, rest, ih]

theorem fromBytesLE_drop (bs : List Byte) (k : Nat) : fromBytesLE bs / 256 ^ k = fromBytesLE (bs.drop k) := by
  induction k generalizing bs with
  | zero => simp
  | succ k ih =>
    cases bs with
    | nil => simp [fromBytesLE]
    | cons b bs =>
      have small := b.isLt
      have rest : (b.toNat + 256 * fromBytesLE bs) / 256 = fromBytesLE bs := by omega
      rw [fromBytesLE, Nat.pow_succ', ← Nat.div_div_eq_div_mul, rest, ih, List.drop_succ_cons]

/-! ### What a completion leaves -/

variable {s : State} {q : Nat} {f : Fn}

/-- The queue once the entry at a cell has been completed. -/
def doneQueue (x : Queue) (cell : BitVec 16) (status bytes : Nat) : Queue :=
  let r := popDone x.di (x.begun.map fun b => if b.entry.cell = cell then { b with written := true } else b)
  { x with
    begun := r.2, di := r.1, completions := x.completions + 1, bytes := x.bytes + BitVec.ofNat 64 bytes,
    sinceEvent := x.sinceEvent + 1, badSince := if status = 0 then x.badSince else status }

/-- A completion that feeds no moderation, ends no DISABLE and releases nothing. -/
theorem completed_quiet {cell : BitVec 16} {irq : Bool} {status bytes : Nat} (headless : ∀ b ∈ (s.queue q).begun, b.entry.cell = cell → b.head = none)
    (silent : (status = 0 ∧ irq = false) ∨ s.fld F.QE_CTX_CFG_EQ q = 0xFF) (stays : (s.queue q).disabling = none)
    (enabled : (s.span (s.queue q).span).state = .enabled) :
    s.completed q cell irq status bytes = s.setQueue q (doneQueue (s.queue q) cell status bytes) := by
  have kept : s.releaseOpt (((s.queue q).begun.find? fun b => b.entry.cell == cell).bind Begun.head) = s := by
    cases found : (s.queue q).begun.find? fun b => b.entry.cell == cell with
    | none => rfl
    | some b =>
      rw [Option.bind_some, headless b (List.mem_of_find?_eq_some found) (by simpa using List.find?_some found)]
      rfl
  have unmoderated (y : Queue) : (if irq || status != 0 then (s.setQueue q y).moderate q else s.setQueue q y) = s.setQueue q y := by
    rcases silent with ⟨good, quiet⟩ | none_
    · rw [good, quiet]
      rfl
    · split
      · exact if_pos none_
      · rfl
  have still (y : Queue) (same : y.disabling = none) : (s.setQueue q y).checkDisable q = s.setQueue q y := by
    unfold checkDisable
    dsimp only
    rw [queue_setQueue, same]
  unfold completed
  dsimp only
  rw [kept, unmoderated]
  rw [show ∀ y : Queue, y.disabling = (s.queue q).disabling → (s.setQueue q y).checkDisable q = s.setQueue q y from fun y same => still y (same.trans stays)]
  · exact refreshDrained_enabled enabled
  · rfl

/-- Cell 1 of a completion, where the entry has one. -/
def cell1Out (s : State) (q : Nat) (f : Fn) (e : Entry) (c : Cpl) : List Out :=
  if 2 ≤ e.cells.length then [.hostWrite f (s.ringAddr q (e.cell + 1)) (toBytesLE 16 (complCell1 c).toNat) false false] else []

/-- Cell 0 of a completion. -/
def cell0Out (s : State) (q : Nat) (f : Fn) (e : Entry) (status : Nat) (c : Cpl) : Out :=
  .hostWrite f (s.ringAddr q e.cell) (toBytesLE 16 (complCell0 e.hdr status c).toNat) false false

theorem writeCompletion_open (open_ : s.RingOpen q f) (e : Entry) (status : Nat) (c : Cpl) : s.writeCompletion q e status c =
    (true, ({ s with out := cell0Out s q f e status c :: (cell1Out s q f e c ++ s.out) } : State).completed q e.cell e.irq status c.bytes) := by
  by_cases two : 2 ≤ e.cells.length
  · have again : (s.emit (.hostWrite f (s.ringAddr q (e.cell + 1)) (toBytesLE 16 (complCell1 c).toNat) false false)).RingOpen q f := open_
    unfold writeCompletion cell1Out
    dsimp only
    rw [if_pos two, if_pos two, ringWrite_open open_]
    dsimp only
    rw [ringWrite_open again]
    rfl
  · unfold writeCompletion cell1Out
    dsimp only
    rw [if_neg two, if_neg two]
    dsimp only
    rw [ringWrite_open open_]
    rfl

/-- The time of a NOP's completion is the time of writing. -/
def finalCpl (s : State) (q : Nat) (b : Begun) (c : Cpl) : Cpl :=
  if b.entry.opcode = 0 ∧ (s.queue q).kind ≠ 2 then { c with time := s.wide } else c

theorem bytes_finalCpl (b : Begun) (c : Cpl) : (finalCpl s q b c).bytes = c.bytes := by
  unfold finalCpl
  split <;> rfl

/-- The state in which an entry's completion is out. -/
def finished (s : State) (q : Nat) (f : Fn) (b : Begun) (c : Cpl) : State :=
  { s with
    out := cell0Out s q f b.entry b.status (finalCpl s q b c) :: (cell1Out s q f b.entry (finalCpl s q b c) ++ s.out)
    queues := (s.setQueue q (doneQueue (s.queue q) b.entry.cell b.status c.bytes)).queues
    cplDue := s.cplDue.filter (· != (q, b.entry.cell)) }

theorem finishEntry_open {b : Begun} {c : Cpl} (open_ : s.RingOpen q f) (result : b.result = some c)
    (headless : ∀ b' ∈ (s.queue q).begun, b'.entry.cell = b.entry.cell → b'.head = none)
    (silent : (b.status = 0 ∧ b.entry.irq = false) ∨ s.fld F.QE_CTX_CFG_EQ q = 0xFF) (stays : (s.queue q).disabling = none) :
    s.finishEntry q b = finished s q f b c := by
  unfold finishEntry
  rw [result]
  show (match s.writeCompletion q b.entry b.status (finalCpl s q b c) with
    | (true, t) => { t with cplDue := t.cplDue.filter (· != (q, b.entry.cell)) }
    | (false, t) => t.noteDue q b.entry.cell) = _
  rw [writeCompletion_open open_]
  refine (congrArg (fun u : State => { u with cplDue := u.cplDue.filter (· != (q, b.entry.cell)) }) (completed_quiet
    (s := { s with out := cell0Out s q f b.entry b.status (finalCpl s q b c) :: (cell1Out s q f b.entry (finalCpl s q b c) ++ s.out) })
    headless silent stays open_.2.2.2.1)).trans ?_
  rw [bytes_finalCpl]
  rfl

end Sys2Proof.Machine.Completions
end

section
/-!
PROOFS. CPL: the completion of an entry that a Truss holds (R159, R418).
-/

namespace Sys2Proof.Machine.EngineEntries
open State Issue Scratchpad Fields Returning RingWrites Completions

/-! ### The image -/

/-- The two cells of an image. -/
def first (bs : List Byte) : Cell16 := BitVec.ofNat 128 (fromBytesLE (bs.take 16))
def second (bs : List Byte) : Cell16 := BitVec.ofNat 128 (fromBytesLE (bs.drop 16))

/-- The completion that an image gives. -/
def imageCpl (bs : List Byte) : Cpl :=
  { bytes := cellBits (first bs) 64 32, info := BitVec.ofNat 32 (cellBits (first bs) 96 32)
    time := (second bs).setWidth 64, hash := BitVec.ofNat 32 (cellBits (second bs) 64 32)
    mark := BitVec.ofNat 32 (cellBits (second bs) 96 32) }

section
variable {bs : List Byte} (long : bs.length = 32)
include long

theorem toNat_first : (first bs).toNat = fromBytesLE (bs.take 16) := by
  have small := Arithmetic.fromBytesLE_lt (bs.take 16)
  rw [List.length_take, long] at small
  exact (BitVec.toNat_ofNat ..).trans (Nat.mod_eq_of_lt small)

theorem toNat_second : (second bs).toNat = fromBytesLE (bs.drop 16) := by
  have small := Arithmetic.fromBytesLE_lt (bs.drop 16)
  rw [List.length_drop, long] at small
  exact (BitVec.toNat_ofNat ..).trans (Nat.mod_eq_of_lt small)

theorem status_image : cellBits (first bs) 16 8 = (bs.getD 2 0).toNat := by
  have digit := Arithmetic.fromBytesLE_byte (bs.take 16) 2
  unfold cellBits
  rw [toNat_first long]
  refine digit.trans (congrArg BitVec.toNat ?_)
  simp [List.getD_eq_getElem?_getD]

theorem bytes_cell1 : toBytesLE 16 (complCell1 (imageCpl bs)).toNat = bs.drop 16 := by
  have small := (second bs).isLt
  have whole : (complCell1 (imageCpl bs)).toNat = (second bs).toNat := by
    unfold complCell1 imageCpl cellBits
    simp only [BitVec.toNat_ofNat, BitVec.toNat_setWidth]
    omega
  have spelt := toBytesLE_fromBytesLE (bs.drop 16)
  rw [List.length_drop, long] at spelt
  rw [whole, toNat_second long]
  exact spelt

theorem bytes_cell0 (hdr : Cell16) {status : Nat} (small : status < 256) : toBytesLE 16 (complCell0 hdr status (imageCpl bs)).toNat =
    toBytesLE 8 (cellBits hdr 0 12 + 2 ^ 12 + 2 ^ 13 * cellBits hdr 13 3 + 2 ^ 16 * status + 2 ^ 32 * cellBits hdr 32 32) ++ (bs.drop 8).take 8 := by
  have fits := (first bs).isLt
  have low : cellBits hdr 0 12 + 2 ^ 12 + 2 ^ 13 * cellBits hdr 13 3 + 2 ^ 16 * status + 2 ^ 32 * cellBits hdr 32 32 < 256 ^ 8 := by
    unfold cellBits
    omega
  have whole : (complCell0 hdr status (imageCpl bs)).toNat =
      (cellBits hdr 0 12 + 2 ^ 12 + 2 ^ 13 * cellBits hdr 13 3 + 2 ^ 16 * status + 2 ^ 32 * cellBits hdr 32 32) + 256 ^ 8 * ((first bs).toNat / 256 ^ 8) := by
    unfold complCell0 imageCpl
    rw [Nat.mod_eq_of_lt small]
    generalize cellBits hdr 0 12 + 2 ^ 12 + 2 ^ 13 * cellBits hdr 13 3 + 2 ^ 16 * status + 2 ^ 32 * cellBits hdr 32 32 = l at *
    unfold cellBits
    simp only [BitVec.toNat_ofNat]
    omega
  have high : (cellBits hdr 0 12 + 2 ^ 12 + 2 ^ 13 * cellBits hdr 13 3 + 2 ^ 16 * status + 2 ^ 32 * cellBits hdr 32 32 +
      256 ^ 8 * ((first bs).toNat / 256 ^ 8)) / 256 ^ 8 = (first bs).toNat / 256 ^ 8 := by
    rw [Nat.add_mul_div_left _ _ (by decide), Nat.div_eq_of_lt low, Nat.zero_add]
  have spelt := toBytesLE_fromBytesLE ((bs.take 16).drop 8)
  rw [List.length_drop, List.length_take, long] at spelt
  rw [whole, toBytesLE_append 8 8, toBytesLE_add, high, toNat_first long, fromBytesLE_drop]
  refine congrArg (_ ++ ·) (spelt.trans ?_)
  rw [List.drop_take]

end

/-! ### The instruction -/

variable {s : State} {x : Slot} {rs rt : RegNo}

/-- Whether a held entry is the one that a word names. -/
def names (n : Nat) (w : Word) (h : HeldEntry) : Bool := h.truss == n / 64 && h.queue.val == getBits w 0 16 && h.cell == BitVec.ofNat 16 (getBits w 16 16)

/-- An entry that a CPL has given its completion. -/
def given (bs : List Byte) (b : Begun) : Begun := { b with given := some (cellBits (first bs) 16 8), result := some (imageCpl bs), handed := false }

/-- The state in which the entry has its completion, and the Truss no longer holds it. -/
def answered (t : State) (h : HeldEntry) (bs : List Byte) : State :=
  ({ t with held := t.held.erase h } : State).withBegun h.queue.val h.cell (given bs)

/-- The body of CPL. -/
def cplBody (x : Slot) (rs rt : RegNo) (t : State) (n : Nat) : Done :=
  match t.held.find? (names n (t.g n rs)) with
  | none => .exc .notBound t
  | some h =>
    match t.spmCheck n (t.g n rt) 32 false with
    | .error d => d
    | .ok o =>
      match t.spmFetch n o 32 x.word with
      | .error d => d
      | .ok (t, bs) =>
        match ((answered t h bs).queue h.queue.val).begun.find? fun b => b.entry.cell == h.cell with
        | some b => .ok ((answered t h bs).finishEntry h.queue.val b)
        | none => .ok (answered t h bs)

theorem cpl_runs : exec (.cpl x rs rt) s = .next (s.issue x (mRs ||| mRt) [rs, rt] false fun t n _ => cplBody x rs rt t n) := rfl

theorem held_ran : (s.ran x).held = s.held := by rw [ran_frame]

/-! ### What CPL raises -/

theorem cell_eq_iff (h : HeldEntry) (w : Word) : h.cell = BitVec.ofNat 16 (getBits w 16 16) ↔ h.cell.toNat = getBits w 16 16 := by
  have small : getBits w 16 16 < 65536 := getBits_lt ..
  rw [← BitVec.toNat_inj, BitVec.toNat_ofNat, Nat.mod_eq_of_lt small]

theorem names_iff (n : Nat) (w : Word) (h : HeldEntry) :
    names n w h = true ↔ h.truss = n / 64 ∧ h.queue.val = getBits w 0 16 ∧ h.cell.toNat = getBits w 16 16 := by
  unfold names
  rw [Bool.and_eq_true, Bool.and_eq_true, beq_iff_eq, beq_iff_eq, beq_iff_eq, cell_eq_iff, and_assoc]

theorem cpl_notBound (none_ : ∀ h ∈ s.held, ¬(h.truss = x.thr.val / 64 ∧ h.queue.val = getBits (s.g x.thr.val rs) 0 16 ∧
    h.cell.toNat = getBits (s.g x.thr.val rs) 16 16)) : s.Raises x [rs, rt] false (.cpl x rs rt) .notBound := by
  refine raises_of_exc cpl_runs ?_
  have unheld : s.held.find? (names x.thr.val (s.g x.thr.val rs)) = none :=
    List.find?_eq_none.2 fun h mem => fun is => none_ h mem ((names_iff ..).1 is)
  unfold cplBody
  rw [g_ran, held_ran, unheld]

/-- The entry that the Truss holds. -/
def Owned (s : State) (n : Nat) (w : Word) : Prop := ∃ h ∈ s.held, h.truss = n / 64 ∧ h.queue.val = getBits w 0 16 ∧ h.cell.toNat = getBits w 16 16

theorem found_of_owned {n : Nat} {w : Word} (owned : Owned s n w) : ∃ h, s.held.find? (names n w) = some h := by
  obtain ⟨h, mem, is⟩ := owned
  exact Option.isSome_iff_exists.1 (List.find?_isSome.2 ⟨h, mem, (names_iff ..).2 is⟩)

section
variable (owned : Owned s x.thr.val (s.g x.thr.val rs))
include owned

/-- A check of the image that fails. -/
theorem cplBody_refused {d : Done} (fails : (s.ran x).spmCheck x.thr.val (s.g x.thr.val rt) 32 false = .error d) :
    cplBody x rs rt (s.ran x) x.thr.val = d := by
  obtain ⟨h, found⟩ := found_of_owned owned
  unfold cplBody
  rw [g_ran, g_ran, held_ran, found]
  dsimp only
  rw [fails]

theorem cpl_align (odd : (s.g x.thr.val rt).toNat % 32 ≠ 0) : s.Raises x [rs, rt] false (.cpl x rs rt) .align :=
  raises_of_exc cpl_runs (cplBody_refused owned (Atomics.spmCheck_odd false odd))

theorem cpl_range (aligned : (s.g x.thr.val rt).toNat % 32 = 0) (beyond : 0x3000000 ≤ (s.g x.thr.val rt).toNat) :
    s.Raises x [rs, rt] false (.cpl x rs rt) .spmRange :=
  raises_of_exc cpl_runs (cplBody_refused owned (Atomics.spmCheck_beyond false aligned beyond))

theorem cpl_bay (aligned : (s.g x.thr.val rt).toNat % 32 = 0) (below : (s.g x.thr.val rt).toNat < 0x3000000) {b : Bay}
    (at_ : s.bay (x.thr.val / 192) ((s.g x.thr.val rt).toNat % 0x1000000 / 0x200000) = b)
    (on : b.pwr = 0) (settled : b.transit = none) (kept : b.handover = none) (other : b.owner ≠ ownerTruss (x.thr.val / 64))
    (issues : s.Issues x [rs, rt] false) : exec (.cpl x rs rt) s = .next (((s.ran x).spmRefuse (x.thr.val / 192)
      ((s.g x.thr.val rt).toNat % 0x1000000) (ownerTruss (x.thr.val / 64)) (x.thr.val / 64 % 3) 1 false).excAt x.thr.val .bay (s.thr x.thr.val).pc) := by
  have same : (s.ran x).bay (x.thr.val / 192) ((s.g x.thr.val rt).toNat % 0x1000000 / 0x200000) = b := by
    rw [← at_, ran_frame]
    rfl
  exact exec_of_exc cpl_runs issues (cplBody_refused owned (Atomics.spmCheck_bay false aligned below (by rw [same, on]) (by rw [same, settled])
    (by rw [same, kept]) (by rw [same]; exact other)))

theorem cpl_poison (ok : s.SpmOpen x.thr.val (s.g x.thr.val rt) 32) (bad : ¬s.SpmClean x.thr.val (s.g x.thr.val rt) 32) (good : x.word = .ok)
    (issues : s.Issues x [rs, rt] false) : exec (.cpl x rs rt) s = .next (((s.ran x).spmUe (x.thr.val / 192)
      ((s.g x.thr.val rt).toNat % 0x1000000) (ownerTruss (x.thr.val / 64)) (x.thr.val / 64 % 3)).excAt x.thr.val .poison (s.thr x.thr.val).pc) := by
  obtain ⟨h, found⟩ := found_of_owned owned
  obtain ⟨-, marks, bays⟩ := ran_spm s x
  have poisoned : (s.ran x).spmBadIn (x.thr.val / 192) ((s.g x.thr.val rt).toNat % 0x1000000) 32 = true :=
    (spmBadIn_congr marks ..).trans (by simpa [SpmClean] using bad)
  refine exec_of_exc cpl_runs issues ?_
  unfold cplBody
  rw [g_ran, g_ran, held_ran, found]
  dsimp only
  rw [spmCheck_open (spmOpen_congr bays ok), good]
  dsimp only
  rw [Atomics.spmFetch_poison poisoned]

end

/-! ### A completion that goes out -/

theorem link_ran (f : Fn) : (s.ran x).fnLink f = s.fnLink f := by
  cases f with
  | mf => exact fld_ran_ne s x (f := F.HEP_MGMT_LINK_LINK) (by decide) 0
  | pf h => rfl
  | vf h n => rfl

/-- An issued slot keeps a ring open. -/
theorem ringOpen_ran {q : Nat} {f : Fn} (open_ : s.RingOpen q f) : (s.ran x).RingOpen q f := by
  have queue : (s.ran x).queue q = s.queue q := by rw [ran_frame]; rfl
  have span : (s.ran x).spanFn (s.queue q).span = s.spanFn (s.queue q).span := by rw [ran_frame]; rfl
  have muted_ : (s.ran x).muted f (some (s.queue q).span) = s.muted f (some (s.queue q).span) := by rw [ran_frame]; rfl
  have state : (s.ran x).span (s.queue q).span = s.span (s.queue q).span := by rw [ran_frame]; rfl
  have stream (h i : Nat) : (s.ran x).stream h i = s.stream h i := by rw [ran_frame]; rfl
  have number (g : Fn) : (s.ran x).fnStream g = s.fnStream g := by rw [ran_frame]; rfl
  obtain ⟨own, safe, live, enabled, pass, up, unlogged, ide⟩ := open_
  unfold RingOpen
  dsimp only
  rw [queue, span, muted_, state, link_ran]
  refine ⟨own, ?_, live, enabled, ?_, ?_, ?_, ?_⟩
  · unfold isSafe
    rw [fld_ran_ne s x (by decide)]
    exact safe
  · rw [fld_ran_ne s x (by decide)]
    exact pass
  · unfold linkUp
    rw [fld_ran_ne s x (show Reg.HEP_LINK_STATE ≠ .TRS_ISSUE_CNT by decide)]
    exact up
  · rw [flag_ran_ne s x (by decide)]
    exact unlogged
  · unfold ideDrops
    rw [link_ran, number, stream]
    exact ide

theorem ringAddr_ran (q : Nat) (c : BitVec 16) : (s.ran x).ringAddr q c = s.ringAddr q c := by
  unfold ringAddr ringSize
  rw [fld_ran_ne s x (by decide), fld_ran_ne s x (by decide)]

/-- The begun entries of the queue, the one at a cell with its completion. -/
theorem queue_answered (t : State) (h : HeldEntry) (bs : List Byte) : (answered t h bs).queue h.queue.val =
    { t.queue h.queue.val with begun := (t.queue h.queue.val).begun.map fun b => if b.entry.cell = h.cell then given bs b else b } :=
  queue_setQueue ..

theorem queue_answered_ne (t : State) (h : HeldEntry) (bs : List Byte) {k : Nat} (other : k ≠ h.queue.val) :
    (answered t h bs).queue k = t.queue k := queue_setQueue_ne _ _ other

/-- Entries that DI has not passed are among those marked. -/
theorem popDone_sub {di : BitVec 16} {l : List Begun} : (popDone di l).2 ⊆ l := by
  induction l generalizing di with
  | nil => exact List.Subset.refl _
  | cons b l ih =>
    unfold popDone
    split
    · exact List.Subset.trans ih (List.subset_cons_self ..)
    · exact List.Subset.refl _

theorem written_doneQueue {y : Queue} {cell : BitVec 16} {status bytes : Nat} : ∀ b ∈ (doneQueue y cell status bytes).begun, b.entry.cell = cell →
    b.written = true := by
  intro b mem at_
  obtain ⟨b', -, rfl⟩ := List.mem_map.1 (popDone_sub mem)
  split
  · rfl
  · next other => rw [if_neg other] at at_; exact absurd at_ other

theorem doneQueue_alone {y : Queue} {b : Begun} {status bytes : Nat} (alone : y.begun = [b]) :
    (doneQueue y b.entry.cell status bytes).begun = [] ∧
    (doneQueue y b.entry.cell status bytes).di = b.entry.cell + BitVec.ofNat 16 b.entry.cells.length := by
  have marked : y.begun.map (fun b' => if b'.entry.cell = b.entry.cell then { b' with written := true } else b') = [{ b with written := true }] := by
    rw [alone, List.map_singleton, if_pos rfl]
  unfold doneQueue
  dsimp only
  rw [marked]
  exact ⟨rfl, rfl⟩

section
variable {h : HeldEntry} {b : Begun} {f : Fn} (listed : h ∈ s.held)
  (sole : ∀ h' ∈ s.held, h'.truss = h.truss → h'.queue = h.queue → h'.cell = h.cell → h' = h) (truss : h.truss = x.thr.val / 64)
  (queue : h.queue.val = getBits (s.g x.thr.val rs) 0 16) (cell : h.cell.toNat = getBits (s.g x.thr.val rs) 16 16)

section
include listed sole truss queue cell

theorem found_held : s.held.find? (names x.thr.val (s.g x.thr.val rs)) = some h := by
  obtain ⟨h', found⟩ := found_of_owned (n := x.thr.val) (w := s.g x.thr.val rs) ⟨h, listed, truss, queue, cell⟩
  obtain ⟨truss', queue', cell'⟩ := (names_iff ..).1 (List.find?_some found)
  rw [found, sole h' (List.mem_of_find?_eq_some found) (truss'.trans truss.symm) (Fin.ext (queue'.trans queue.symm))
    (BitVec.eq_of_toNat_eq (cell'.trans cell.symm))]

end

variable {image : Word} (named : s.g x.thr.val rt = image) (checked : Returning.Image s x image)
  (begun : b ∈ (s.queue h.queue.val).begun) (at_ : b.entry.cell = h.cell)
  (alone : ∀ b' ∈ (s.queue h.queue.val).begun, b'.entry.cell = h.cell → b' = b)

/-- The bytes of the image. -/
def imageBytes (s : State) (x : Slot) (image : Word) : List Byte := s.spmRead (x.thr.val / 192) (image.toNat % 0x1000000) 32

section
include begun at_ alone

theorem find_answered (t : State) (same : t.queue h.queue.val = s.queue h.queue.val) (bs : List Byte) :
    ((answered t h bs).queue h.queue.val).begun.find? (fun b => b.entry.cell == h.cell) = some (given bs b) := by
  rw [queue_answered, same]
  have mapped : given bs b ∈ (s.queue h.queue.val).begun.map fun b => if b.entry.cell = h.cell then given bs b else b :=
    List.mem_map.2 ⟨b, begun, if_pos at_⟩
  obtain ⟨b', found⟩ := Option.isSome_iff_exists.1 (List.find?_isSome (p := fun b => b.entry.cell == h.cell) |>.2 ⟨_, mapped, beq_iff_eq.2 at_⟩)
  have here : b'.entry.cell = h.cell := by simpa using List.find?_some found
  obtain ⟨b₀, mem, rfl⟩ := List.mem_map.1 (List.mem_of_find?_eq_some found)
  rw [found]
  by_cases own : b₀.entry.cell = h.cell
  · rw [if_pos own, alone b₀ mem own]
  · rw [if_neg own] at here
    exact absurd here own

end

include listed sole truss queue cell named checked begun at_ alone

theorem cplBody_good : cplBody x rs rt (s.ran x) x.thr.val =
    .ok ((answered (s.ran x) h (imageBytes s x image)).finishEntry h.queue.val (given (imageBytes s x image) b)) := by
  have same : (s.ran x).queue h.queue.val = s.queue h.queue.val := by rw [ran_frame]; rfl
  unfold cplBody
  rw [g_ran, g_ran, held_ran, found_held listed sole truss queue cell, named]
  dsimp only
  rw [image_checked checked]
  dsimp only
  rw [image_fetched checked]
  dsimp only
  rw [show s.spmRead (x.thr.val / 192) (image.toNat % 16777216) 32 = imageBytes s x image from rfl, find_answered begun at_ alone (s.ran x) same]

theorem cpl_completes {f : Fn} (headless : b.head = none) (engine : (s.queue h.queue.val).kind = 2) (stays : (s.queue h.queue.val).disabling = none)
    (silent : (((imageBytes s x image).getD 2 0).toNat = 0 ∧ b.entry.irq = false) ∨ s.fld F.QE_CTX_CFG_EQ h.queue.val = 0xFF)
    (open_ : s.RingOpen h.queue.val f) (issues : s.Issues x [rs, rt] false) : ∃ t : State, exec (.cpl x rs rt) s = .next t ∧
      t.held = s.held.erase h ∧ (t.queue h.queue.val).completions = (s.queue h.queue.val).completions + 1 ∧
      t.out = .hostWrite f (s.ringAddr h.queue.val h.cell) (toBytesLE 8 (cellBits b.entry.hdr 0 12 + 2 ^ 12 + 2 ^ 13 * cellBits b.entry.hdr 13 3 +
        2 ^ 16 * ((imageBytes s x image).getD 2 0).toNat + 2 ^ 32 * cellBits b.entry.hdr 32 32) ++ ((imageBytes s x image).drop 8).take 8) false false ::
        ((if 2 ≤ b.entry.cells.length then [.hostWrite f (s.ringAddr h.queue.val (h.cell + 1)) ((imageBytes s x image).drop 16) false false] else []) ++ s.out) ∧
      (∀ b' ∈ (t.queue h.queue.val).begun, b'.entry.cell = h.cell → b'.written = true) ∧
      ((s.queue h.queue.val).begun = [b] → (t.queue h.queue.val).begun = [] ∧
        (t.queue h.queue.val).di = h.cell + BitVec.ofNat 16 b.entry.cells.length) ∧
      ∀ k, k ≠ h.queue.val → t.queue k = s.queue k := by
  have long : (imageBytes s x image).length = 32 := by
    unfold imageBytes spmRead
    rw [List.length_map, List.length_range]
  have body := cplBody_good listed sole truss queue cell named checked begun at_ alone
  generalize imageBytes s x image = bs at *
  have ranQueue (k : Nat) : (s.ran x).queue k = s.queue k := by rw [ran_frame]; rfl
  have ranOut : (s.ran x).out = s.out := by rw [ran_frame]
  have own := queue_answered (s.ran x) h bs
  rw [ranQueue] at own
  have span : ((answered (s.ran x) h bs).queue h.queue.val).span = (s.queue h.queue.val).span := by rw [own]
  have opened : (answered (s.ran x) h bs).RingOpen h.queue.val f := by
    have kept := ringOpen_with (ringOpen_ran (x := x) open_) (qs := (answered (s.ran x) h bs).queues) (m := (s.ran x).rxIn) (o := (s.ran x).out)
      (span.trans (congrArg Queue.span (ranQueue h.queue.val)).symm)
    exact kept
  have status : (given bs b).status = (bs.getD 2 0).toNat := status_image long
  have addr (c : BitVec 16) : (answered (s.ran x) h bs).ringAddr h.queue.val c = s.ringAddr h.queue.val c := ringAddr_ran h.queue.val c
  have final : finalCpl (answered (s.ran x) h bs) h.queue.val (given bs b) (imageCpl bs) = imageCpl bs := if_neg fun both => both.2 (by rw [own]; exact engine)
  have done := finishEntry_open (c := imageCpl bs) opened (b := given bs b) rfl ?headless ?silent (by rw [own]; exact stays)
  case headless =>
    intro b' mem here
    rw [own] at mem
    obtain ⟨b₀, old, rfl⟩ := List.mem_map.1 mem
    by_cases is : b₀.entry.cell = h.cell
    · rw [if_pos is, alone b₀ old is]
      exact headless
    · rw [if_neg is] at here
      exact absurd (here.trans at_) is
  case silent =>
    rw [status]
    exact silent.imp id fun none_ => (fld_ran_ne s x (by decide) _).trans none_
  refine ⟨_, exec_of_ok cpl_runs issues (body.trans (congrArg Done.ok done)), congrArg (·.erase h) held_ran, ?_, ?_, ?_, fun only => ?_, fun k other => ?_⟩
  · refine (congrArg Queue.completions (queue_setQueue ..)).trans ?_
    show ((answered (s.ran x) h bs).queue h.queue.val).completions + 1 = _
    rw [own]
  · show cell0Out _ _ _ _ _ _ :: (cell1Out _ _ _ _ _ ++ (s.ran x).out) = _
    unfold cell0Out cell1Out
    rw [final, status, addr, addr, bytes_cell0 long _ (BitVec.isLt _), bytes_cell1 long, ranOut]
    show _ :: ((if 2 ≤ b.entry.cells.length then [Out.hostWrite f (s.ringAddr h.queue.val (b.entry.cell + 1)) (bs.drop 16) false false] else []) ++ s.out) = _
    rw [show (given bs b).entry.cell = h.cell from at_, at_]
    rfl
  · intro b' mem here
    have listed' : b' ∈ (doneQueue ((answered (s.ran x) h bs).queue h.queue.val) b.entry.cell (given bs b).status (imageCpl bs).bytes).begun :=
      (congrArg Queue.begun (queue_setQueue (answered (s.ran x) h bs) h.queue.val _)) ▸ mem
    exact written_doneQueue b' listed' (here.trans at_.symm)
  · have single : ((answered (s.ran x) h bs).queue h.queue.val).begun = [given bs b] := by
      rw [own, only]
      exact congrArg (fun c => [c]) (if_pos at_)
    obtain ⟨empty, passed⟩ := doneQueue_alone (status := (given bs b).status) (bytes := (imageCpl bs).bytes) single
    refine ⟨(congrArg Queue.begun (queue_setQueue ..)).trans empty, (congrArg Queue.di (queue_setQueue ..)).trans (passed.trans ?_)⟩
    rw [← at_]
    rfl
  · exact (queue_setQueue_ne _ _ other).trans ((queue_answered_ne (s.ran x) h bs other).trans (ranQueue k))

end

/-- Settles O22: the entry's completion by the image's two cells, and each exception by the check that fails. -/
theorem completeEngineEntry : Obligations.CompleteEngineEntry := by
  intro s x rs rt n w image bytes o bay owned
  refine ⟨?_, cpl_notBound, cpl_align, cpl_range, fun own aligned below on settled kept other issues =>
    cpl_bay own aligned below rfl on settled kept other issues, cpl_poison⟩
  intro h b f q y hdr status cell0 cell1 listed sole truss queue cell spm clean good begun at_ alone headless engine stays silent open_ issues
  exact cpl_completes listed sole truss queue cell rfl ⟨spm, clean, good⟩ begun at_ alone headless engine stays (silent.imp id id) open_ issues

end Sys2Proof.Machine.EngineEntries
end

section
/-!
PROOFS. The life of a queue entry: fetch, begin, completion, and moderation (R149–R169).
-/

namespace Sys2Proof.Machine.EntryLives
open State Fields Frames Pool Queues Doorbells RingWrites ReceivedFrames Completions

variable (s : State)

/-- Nothing differs but queue `k`, which is `y`. -/
def Only (k : Nat) (t : State) (y : Queue) : Prop := t = { s with queues := t.queues } ∧ t.queue k = y ∧ ∀ j, j ≠ k → t.queue j = s.queue j

theorem only_setQueue (k : Nat) (y : Queue) : Only s k (s.setQueue k y) y := ⟨rfl, queue_setQueue .., fun _ other => queue_setQueue_ne _ _ other⟩

/-! ### Boundaries at which nothing waits -/

section
variable {s} {r : Reg} {i : Nat} (idle : s.pend r i = {})
include idle

theorem reg_applyMask_idle (m : Word) (r' : Reg) (j : Nat) : (s.applyMask r i m).reg r' j = s.reg r' j := by
  show ((s.setReg r i (merge ((s.pend r i).mask &&& m) (s.reg r i) (s.pend r i).val))).reg r' j = _
  rw [idle, reg_setReg_if]
  split
  · next here =>
    obtain ⟨rfl, rfl⟩ := here
    show merge (0 &&& m) _ _ = _
    rw [show (0 : Word) &&& m = 0 from BitVec.zero_and, merge_zero]
  · rfl

theorem reg_epoch_idle (b : Boundary) (r' : Reg) (j : Nat) : (s.epoch b r i).reg r' j = s.reg r' j := reg_applyMask_idle idle _ r' j

end

/-! ### What a flush of the receive inputs leaves -/

theorem reg_rxDrop (q : Nat) (f : Pkt) {r : Reg} (i : Nat) (other : r ∉ poolRegs ∧ r ≠ .QE_RX_DROP_CNT) : (s.rxDrop q f).reg r i = s.reg r i := by
  have back := takes_releaseOpt ((s.setQueue q { s.queue q with drops := satAdd 32 (s.queue q).drops 1 }).bump F.QE_RX_DROP_CNT_COUNT 0) f.head
  exact (back.reg r i other.1).trans (reg_bump_other (s.setQueue q _) other.2)

theorem reg_rxFlush (q : Nat) {r : Reg} (i : Nat) (other : r ∉ poolRegs ∧ r ≠ .QE_RX_DROP_CNT) : (s.rxFlush q).reg r i = s.reg r i := by
  have dropped (L : List Pkt) (u : State) : (L.foldl (fun v f => v.rxDrop q f) u).reg r i = u.reg r i := by
    induction L generalizing u with
    | nil => rfl
    | cons f L ih => exact (ih _).trans (reg_rxDrop u q f i other)
  have inputs (L : List Nat) (u : State) : (L.foldl (flushInput q) u).reg r i = u.reg r i := by
    induction L generalizing u with
    | nil => rfl
    | cons p L ih => exact (ih _).trans (dropped _ _)
  exact inputs _ s

/-! ### The state of a Span that drains -/

theorem only_refreshDrained (n : Nat) : s.OnlySignals { s.refreshDrained n with spans := s.spans } := by
  have setting (u : State) : u.OnlySignals ((u.setMap .STU_DRAINED_MAP n).stuEvt 0) := signals_trans (only_setReg ..) (only_setEvt ..)
  unfold refreshDrained
  dsimp only
  split
  · rfl
  · split
    · split
      · rfl
      · rw [setting (s.setSpan n _)]
        rfl
    · split <;> rfl

theorem queue_refreshDrained (n k : Nat) : (s.refreshDrained n).queue k = s.queue k := by
  have frame : _ = _ := only_refreshDrained s n
  exact queue_congr (congrArg State.queues frame :) k

theorem event_refreshDrained (n : Nat) {b : Nat} (stands : s.Event .QE_EVT 0 b) : (s.refreshDrained n).Event .QE_EVT 0 b := by
  unfold refreshDrained
  dsimp only
  split
  · exact stands
  · split
    · split
      · exact stands
      · refine event_congr ?_ stands
        exact (reg_setEvt_other _ (by decide)).trans (reg_setReg_ne _ _ (.inl (by decide)))
    · split
      · exact stands
      · exact stands

/-! ### Moderation -/

theorem modExpire_stops {q : QueueId} (running : (s.queue q.val).modRunning = true) (none_ : (s.queue q.val).gathered = 0) :
    ∃ t, exec (.modIntervalExpire q) s = .next t ∧ Only s q.val t { s.queue q.val with modRunning := false } := by
  refine ⟨_, congrArg Host.Outcome.next ((if_neg ?_).trans (if_pos none_)), only_setQueue ..⟩
  rw [running]
  decide

theorem modExpire_idle {q : QueueId} (stopped : (s.queue q.val).modRunning = false) : exec (.modIntervalExpire q) s = .next s :=
  congrArg Host.Outcome.next (if_pos (by rw [stopped]; rfl))

/-! ### The return of a fetch -/

section
variable {s} {q : QueueId}

theorem fetchReturn_none (none_ : (s.queue q.val).fetching = 0) (cells : List Cell16) (bad : Bool) : exec (.entryFetchReturn q cells bad) s = .next s :=
  congrArg Host.Outcome.next (if_pos none_)

/-- The cells that count, as entries. -/
def entriesOf (x : Queue) (cells : List Cell16) : List Entry := cutEntries 257 x.ci (cells.take (min x.fetching (State.dist x.ci x.pi)))

theorem exec_fetchReturn (some_ : (s.queue q.val).fetching ≠ 0) (cells : List Cell16) : exec (.entryFetchReturn q cells false) s =
    .next (((((entriesOf (s.queue q.val) cells).foldl (fun t e => t.takeEntry q.val e) (s.setQueue q.val { s.queue q.val with fetching := 0 })).rxStarve
      q.val)).refreshDrained (s.queue q.val).span) :=
  congrArg Host.Outcome.next ((if_neg some_).trans (if_neg (by decide)))

theorem fetchReturn_withdrawn (some_ : (s.queue q.val).fetching ≠ 0) (back : (s.queue q.val).pi = (s.queue q.val).ci) (kind : (s.queue q.val).kind ≠ 1)
    (enabled : (s.span (s.queue q.val).span).state = .enabled) (cells : List Cell16) : ∃ t, exec (.entryFetchReturn q cells false) s = .next t ∧
      Only s q.val t { s.queue q.val with fetching := 0 } := by
  have withdrawn : entriesOf (s.queue q.val) cells = [] := by
    unfold entriesOf State.dist
    rw [back, BitVec.sub_self]
    exact congrArg (cutEntries 257 _) (congrArg (cells.take ·) (Nat.min_zero _))
  have unstarved : (s.setQueue q.val { s.queue q.val with fetching := 0 }).rxStarve q.val = s.setQueue q.val { s.queue q.val with fetching := 0 } :=
    starve_none _ fun ⟨rx, _⟩ => kind (by rwa [queue_setQueue] at rx)
  refine ⟨_, (exec_fetchReturn some_ cells).trans ?_, only_setQueue s q.val { s.queue q.val with fetching := 0 }⟩
  rw [withdrawn, List.foldl_nil, unstarved]
  exact congrArg _ (refreshDrained_enabled enabled)

/-- A queue with one more entry in its cache. -/
def fetched (x : Queue) (c : Cell16) : Queue := { x with fetching := 0, ci := x.ci + 1, cached := x.cached ++ [⟨x.ci, [c]⟩] }

/-- The state in which a fetched entry is in the cache. -/
def fetchedState (s : State) (k : Nat) (c : Cell16) : State :=
  ((s.setQueue k { s.queue k with fetching := 0 }).epoch .entryFetched .QE_CTX_CFG k).setQueue k (fetched (s.queue k) c)

section
variable {c : Cell16} (one : (s.queue q.val).fetching = 1) (ahead : (s.queue q.val).pi ≠ (s.queue q.val).ci) (kind : (s.queue q.val).kind < 2)
  (single : cellBits c 8 4 = 0) (enabled : (s.span (s.queue q.val).span).state = .enabled)
include one ahead single

theorem entriesOf_single : entriesOf (s.queue q.val) [c] = [⟨(s.queue q.val).ci, [c]⟩] := by
  have far : 1 ≤ State.dist (s.queue q.val).ci (s.queue q.val).pi := by
    unfold State.dist
    by_contra zero
    have same : (s.queue q.val).pi - (s.queue q.val).ci = 0 := BitVec.eq_of_toNat_eq (by simpa using zero)
    exact ahead (BitVec.sub_eq_iff_eq_add.1 same |>.trans (BitVec.zero_add _))
  unfold entriesOf
  rw [one, Nat.min_eq_left far, List.take_of_length_le (by rfl)]
  unfold cutEntries
  dsimp only
  rw [single]
  rfl

include kind enabled

theorem fetchReturn_caches : ∃ t, exec (.entryFetchReturn q [c] false) s = .next t ∧
    Only s q.val { t with regs := s.regs, shadow := s.shadow } (fetched (s.queue q.val) c) := by
  have barrier : (s.queue q.val).kind ≠ 2 := by omega
  have cached : ((s.setQueue q.val { s.queue q.val with fetching := 0 }).takeEntry q.val ⟨(s.queue q.val).ci, [c]⟩) = fetchedState s q.val c := by
    have queue : ((s.setQueue q.val { s.queue q.val with fetching := 0 }).epoch .entryFetched .QE_CTX_CFG q.val).queue q.val =
        { s.queue q.val with fetching := 0 } := queue_setQueue ..
    unfold takeEntry
    dsimp only
    rw [queue]
    refine (if_neg ?_).trans rfl
    rw [show ((s.queue q.val).kind == 2) = false from beq_false_of_ne barrier]
    simp
  have unstarved : (fetchedState s q.val c).rxStarve q.val = fetchedState s q.val c := by
    refine starve_none _ fun ⟨_, _, _, none_⟩ => ?_
    rw [fetchedState, queue_setQueue, fetched] at none_
    simp at none_
  have ran : exec (.entryFetchReturn q [c] false) s = .next (fetchedState s q.val c) := by
    refine (exec_fetchReturn (by rw [one]; decide) [c]).trans (congrArg _ ?_)
    rw [entriesOf_single one ahead single, List.foldl_cons, List.foldl_nil, cached, unstarved]
    exact refreshDrained_enabled enabled
  refine ⟨_, ran, rfl, ?_, fun j other => ?_⟩
  · exact queue_setQueue ((s.setQueue q.val { s.queue q.val with fetching := 0 }).epoch .entryFetched .QE_CTX_CFG q.val) q.val _
  · exact (queue_setQueue_ne ((s.setQueue q.val { s.queue q.val with fetching := 0 }).epoch .entryFetched .QE_CTX_CFG q.val) _ other).trans
      (queue_setQueue_ne s _ other)

end

end

/-! ### A poisoned fetch -/

section
variable {s} {k : Nat}

theorem qeCapture_frame (cell : BitVec 16) (code : Nat) : s.qeCapture k cell code = { s with regs := (s.qeCapture k cell code).regs } := by
  unfold qeCapture
  split
  · rfl
  · generalize BitVec.ofNat 64 _ = w
    rfl

theorem queues_qeCapture (cell : BitVec 16) (code : Nat) : (s.qeCapture k cell code).queues = s.queues := by rw [qeCapture_frame]

theorem reg_qeCapture (cell : BitVec 16) (code : Nat) {r : Reg} (i : Nat) (other : r ≠ .QE_ERR_CAPTURE) : (s.qeCapture k cell code).reg r i = s.reg r i := by
  unfold qeCapture
  split
  · rfl
  · exact reg_setReg_ne _ _ (.inl other)

/-- A queue in ERROR, its error counted and captured. -/
def faulted (s : State) (k code : Nat) (cell : BitVec 16) : State :=
  ((s.setQueue k { s.queue k with state := .error, fetching := 0 }).bump F.QE_ERR_CNT_Q_ERRORS 0).qeCapture k cell code

theorem queue_faulted (code : Nat) (cell : BitVec 16) : (faulted s k code cell).queue k = { s.queue k with state := .error, fetching := 0 } :=
  (queue_congr (queues_qeCapture cell code) k).trans (queue_setQueue s k _)

theorem reg_faulted (code : Nat) (cell : BitVec 16) {r : Reg} (i : Nat) (other : r ≠ .QE_ERR_CAPTURE ∧ r ≠ .QE_ERR_CNT) :
    (faulted s k code cell).reg r i = s.reg r i :=
  (reg_qeCapture cell code i other.1).trans (reg_bump_other (s.setQueue k _) other.2)

theorem shadow_faulted (code : Nat) (cell : BitVec 16) : (faulted s k code cell).shadow = s.shadow := by
  rw [faulted, qeCapture_frame]
  rfl

theorem enterError_active (active : (s.queue k).state = .active) (code : Nat) (cell : BitVec 16) :
    s.enterError k code cell = (((faulted s k code cell).qeEvt 0).queueQuiesced k).rxFlush k := if_neg (not_not.2 active)

theorem reg_queueQuiesced {r : Reg} (i : Nat) (other : r ≠ .QE_CTX_RING ∧ r ≠ .QE_CTX_CFG) : (s.queueQuiesced k).reg r i = s.reg r i :=
  (reg_setReg_ne _ _ (.inl other.2)).trans (reg_setReg_ne _ _ (.inl other.1))

/-- A queue in ERROR, and the event that tells. -/
structure Errored (k : Nat) (t : State) : Prop where
  state : (t.queue k).state = .error
  fetching : (t.queue k).fetching = 0
  event : t.Event .QE_EVT 0 0

theorem errored_enterError (active : (s.queue k).state = .active) (code : Nat) (cell : BitVec 16) : Errored k (s.enterError k code cell) := by
  have own := queue_faulted (s := s) (k := k) code cell
  rw [enterError_active active]
  generalize faulted s k code cell = u at *
  have kept : ((u.qeEvt 0).queueQuiesced k).queue k = u.queue k := by
    rw [queue_congr (queues_queueQuiesced (u.qeEvt 0) k), qeEvt, setEvt_frame]
    rfl
  have event : ((u.qeEvt 0).queueQuiesced k).Event .QE_EVT 0 0 := event_congr (reg_queueQuiesced 0 (by decide)) (event_setEvt u (by decide))
  generalize (u.qeEvt 0).queueQuiesced k = v at *
  obtain ⟨⟨d, drops⟩, -⟩ := drops_rxFlush v k
  refine ⟨?_, ?_, event_congr (reg_rxFlush v k 0 (by decide)) event⟩
  · rw [drops, kept, own]
  · rw [drops, kept, own]

/-- The event queue that a queue names stays named. -/
theorem eq_enterError (active : (s.queue k).state = .active) (idle : s.pend .QE_CTX_CFG k = {}) (code : Nat) (cell : BitVec 16) :
    (s.enterError k code cell).fld F.QE_CTX_CFG_EQ k = s.fld F.QE_CTX_CFG_EQ k := by
  have word := reg_faulted (s := s) (k := k) code cell (r := .QE_CTX_CFG) k (by decide)
  have held := shadow_faulted (s := s) (k := k) code cell
  rw [enterError_active active]
  generalize faulted s k code cell = u at *
  have signals : u.OnlySignals (u.qeEvt 0) := only_setEvt ..
  have waits : (u.qeEvt 0).pend .QE_CTX_CFG k = {} := by
    rw [signals]
    exact (congrArg (fun m : SMap Pend => SMap.get ({} : Pend) m (regKey .QE_CTX_CFG k)) held).trans idle
  have waits' : ((u.qeEvt 0).applyMask .QE_CTX_RING k (Reg.quiescedMask .QE_CTX_RING)).pend .QE_CTX_CFG k = {} :=
    (SMap.get_put_ne ({} : Pend) {} _ _ fun same => absurd (regKey_inj same).1 (by decide)).trans waits
  have reg : ((((u.qeEvt 0).queueQuiesced k).rxFlush k).reg .QE_CTX_CFG k) = s.reg .QE_CTX_CFG k := by
    rw [reg_rxFlush _ k k (by decide), queueQuiesced, reg_applyMask_idle waits']
    exact ((reg_setReg_ne _ _ (.inl (by decide))).trans (reg_setEvt_other u (by decide))).trans word
  exact congrArg (getBits · F.QE_CTX_CFG_EQ.lo F.QE_CTX_CFG_EQ.width) reg

theorem fetchReturn_poisoned {q : QueueId} (some_ : (s.queue q.val).fetching ≠ 0) (active : (s.queue q.val).state = .active)
    (idle : s.pend .QE_CTX_CFG q.val = {}) (none_ : s.fld F.QE_CTX_CFG_EQ q.val = 0xFF) : ∃ t, exec (.entryFetchReturn q [] true) s = .next t ∧
      (t.queue q.val).state = .error ∧ (t.queue q.val).fetching = 0 ∧ t.Event .QE_EVT 0 0 := by
  have ran : exec (.entryFetchReturn q [] true) s = .next (((s.setQueue q.val { s.queue q.val with fetching := 0 }).queueError q.val 5
      (s.queue q.val).ci).refreshDrained (s.queue q.val).span) := congrArg Host.Outcome.next ((if_neg some_).trans (if_pos rfl))
  have on : ((s.setQueue q.val { s.queue q.val with fetching := 0 }).queue q.val).state = .active := by
    rw [queue_setQueue]
    exact active
  obtain ⟨state, fetching, event⟩ := errored_enterError on 5 (s.queue q.val).ci
  have silent := (eq_enterError on idle 5 (s.queue q.val).ci).trans none_
  have posted : (s.setQueue q.val { s.queue q.val with fetching := 0 }).queueError q.val 5 (s.queue q.val).ci =
      (s.setQueue q.val { s.queue q.val with fetching := 0 }).enterError q.val 5 (s.queue q.val).ci := by
    unfold queueError
    rw [if_pos on]
    generalize (s.setQueue q.val { s.queue q.val with fetching := 0 }).enterError q.val 5 (s.queue q.val).ci = u at *
    unfold postEvent eventQueue
    dsimp only
    rw [if_pos silent]
  rw [posted] at ran
  refine ⟨_, ran, ?_, ?_, event_refreshDrained _ _ event⟩
  · rw [queue_refreshDrained, state]
  · rw [queue_refreshDrained, fetching]

end

/-! ### The begin of a NOP -/

/-- A NOP of one cell without flags. -/
structure Nop (e : Entry) : Prop where
  length : e.cells.length = 1
  opcode : e.opcode = 0
  flags : cellBits e.hdr 12 4 = 0

theorem Nop.bit {e : Entry} (h : Nop e) {i : Nat} (inside : i < 4) : cellBits e.hdr (12 + i) 1 = 0 := by
  have flags := h.flags
  unfold cellBits at *
  rw [Nat.pow_add, ← Nat.div_div_eq_div_mul]
  generalize e.hdr.toNat / 2 ^ 12 = v at *
  interval_cases i <;> omega

theorem Nop.barrier {e : Entry} (h : Nop e) : e.barrier = false := by
  rw [Entry.barrier, h.bit (i := 1) (by decide)]
  rfl

theorem Nop.whole {e : Entry} (h : Nop e) {k : Nat} (kind : k < 2) : e.malformed k = false := by
  have launch : e.launch = false := by
    rw [Entry.launch, h.bit (i := 2) (by decide)]
    rfl
  have allowed : (match k with
    | 0 => (0 : Nat) == 0 || (0 : Nat) == 1 || (0 : Nat) == 2
    | 1 => (0 : Nat) == 0 || (0 : Nat) == 0x10
    | 2 => (0 : Nat) == 0 || decide (0x80 ≤ 0)
    | _ => false) = true := by
    interval_cases k <;> rfl
  unfold Entry.malformed
  dsimp only
  rw [if_neg (by omega), h.opcode, launch, h.length, show cellBits e.hdr 12 1 = 0 from h.bit (i := 0) (by decide)]
  interval_cases k <;> rfl

section
variable {s} {q : QueueId}

/-- The queue once a NOP has begun. -/
def begunNop (s : State) (x : Queue) (e : Entry) (rest : List Entry) : Queue := { x with
  cached := rest, charge := none, begun := x.begun ++ [{ entry := e, result := some { time := s.wide }, head := x.charge }] }

theorem begin_nop {e : Entry} {rest : List Entry} (cached : (s.queue q.val).cached = e :: rest)
    (more : (s.queue q.val).kind = 1 → rest ≠ [] ∨ (s.queue q.val).pi ≠ (s.queue q.val).ci ∨ (s.queue q.val).fetching ≠ 0) (nop : Nop e)
    (kind : (s.queue q.val).kind < 2) (runs : s.queueRuns q.val = true) : ∃ t, exec (.entryBegin q none) s = .next t ∧
      Only s q.val t (begunNop s (s.queue q.val) e rest) := by
  have unstarved : (s.setQueue q.val (begunNop s (s.queue q.val) e rest)).rxStarve q.val = s.setQueue q.val (begunNop s (s.queue q.val) e rest) := by
    refine starve_none _ ?_
    rw [queue_setQueue]
    rintro ⟨rx, pi, fetching, none_⟩
    rcases more rx with more | more | more
    · exact more (List.isEmpty_iff.1 none_)
    · exact more pi
    · exact more fetching
  refine ⟨_, ?_, only_setQueue s q.val (begunNop s (s.queue q.val) e rest)⟩
  refine Eq.trans ?_ (congrArg Host.Outcome.next unstarved)
  show execEntryBegin q none s = _
  unfold execEntryBegin
  dsimp only
  rw [cached]
  dsimp only
  rw [runs, nop.barrier, nop.whole kind, nop.opcode]
  exact congrArg Host.Outcome.next ((if_neg (by rw [Bool.false_and]; decide)).trans ((if_neg (by decide)).trans ((if_neg (by omega)).trans (if_pos rfl))))

/-! ### The completion of the one begun entry -/

theorem completable_alone {k : Nat} {b : Begun} (alone : (s.queue k).begun = [b]) (ready : b.ready = true) : s.completable k = some b := by
  have first : (s.queue k).begun.find? Begun.ready = some b := by rw [alone]; exact List.find?_cons_of_pos ready
  unfold completable
  dsimp only
  split
  · split
    · next b' found =>
      obtain ⟨e, -, is⟩ := List.exists_of_findSome?_eq_some found
      split at is
      · rw [← is]
        have mem := List.mem_of_find?_eq_some is
        rw [alone, List.mem_singleton] at mem
        rw [mem] at is
        exact is
      · cases is
    · exact first
  · rw [alone]
    exact if_pos ready

theorem complete_alone {b : Begun} {c : Cpl} {f : Fn} (alone : (s.queue q.val).begun = [b]) (result : b.result = some c) (parts : b.parts = 0)
    (causes : b.causes = []) (given : b.given = none) (unwritten : b.written = false) (headless : b.head = none) (single : b.entry.cells.length = 1)
    (quiet : b.entry.irq = false) (stays : (s.queue q.val).disabling = none) (open_ : s.RingOpen q.val f) : ∃ t,
      exec (.entryComplete q) s = .next t ∧ (t.queue q.val).begun = [] ∧ (t.queue q.val).di = b.entry.cell + 1 ∧
      (t.queue q.val).completions = (s.queue q.val).completions + 1 ∧ (t.queue q.val).bytes = (s.queue q.val).bytes + BitVec.ofNat 64 c.bytes ∧
      (∀ j, j ≠ q.val → t.queue j = s.queue j) ∧
      t.out = .hostWrite f (s.ringAddr q.val b.entry.cell) (toBytesLE 16 (complCell0 b.entry.hdr 0 c).toNat) false false :: s.out := by
  have ready : b.ready = true := by
    unfold Begun.ready
    rw [unwritten, parts, result]
    rfl
  have status : b.status = 0 := by
    unfold Begun.status
    rw [given, causes]
    rfl
  have done := finishEntry_open open_ result (fun b' mem _ => by rw [alone, List.mem_singleton] at mem; rw [mem, headless]) (.inl ⟨status, quiet⟩) stays
  have ran : exec (.entryComplete q) s = .next (finished s q.val f b c) := by
    show execEntryComplete q s = _
    unfold execEntryComplete
    rw [completable_alone alone ready]
    exact congrArg _ done
  obtain ⟨empty, passed⟩ := EngineEntries.doneQueue_alone (status := b.status) (bytes := c.bytes) alone
  have own : (finished s q.val f b c).queue q.val = doneQueue (s.queue q.val) b.entry.cell b.status c.bytes := queue_setQueue s q.val _
  refine ⟨_, ran, ?_, ?_, ?_, ?_, fun j other => queue_setQueue_ne s _ other, ?_⟩
  · rw [own, empty]
  · rw [own, passed, single]
    rfl
  · rw [own]
    rfl
  · rw [own]
    rfl
  · have cell (d : Cpl) (same : d.bytes = c.bytes ∧ d.info = c.info) : complCell0 b.entry.hdr 0 d = complCell0 b.entry.hdr 0 c := by
      unfold complCell0
      rw [same.1, same.2]
    have final : (finalCpl s q.val b c).bytes = c.bytes ∧ (finalCpl s q.val b c).info = c.info := by
      unfold finalCpl
      split
      · exact ⟨rfl, rfl⟩
      · exact ⟨rfl, rfl⟩
    show cell0Out _ _ _ _ _ _ :: (cell1Out _ _ _ _ _ ++ s.out) = _
    unfold cell0Out cell1Out
    rw [if_neg (by omega), status, cell _ final]
    rfl

end

/-! ### The issue of a fetch -/

/-- A ring stays open where every register reads as before. -/
theorem ringOpen_regs {k : Nat} {f : Fn} (open_ : s.RingOpen k f) {m : SMap Word} {h : SMap Pend}
    (same : ∀ r i, ({ s with regs := m, shadow := h } : State).reg r i = s.reg r i) : ({ s with regs := m, shadow := h } : State).RingOpen k f := by
  have field (g : Fld) (i : Nat) : ({ s with regs := m, shadow := h } : State).fld g i = s.fld g i := congrArg (getBits · g.lo g.width) (same ..)
  have link : ({ s with regs := m, shadow := h } : State).fnLink f = s.fnLink f := by
    cases f with
    | mf => exact field F.HEP_MGMT_LINK_LINK 0
    | pf => rfl
    | vf => rfl
  obtain ⟨own, safe, live, enabled, pass, up, unlogged, ide⟩ := open_
  refine ⟨own, (congrArg (· == 2) (field ..)).trans safe, live, enabled, (field ..).trans pass, ?_, (congrArg (· != 0) (field ..)).trans unlogged, ?_⟩
  · rw [link]
    exact (congrArg (· == 3) (field ..)).trans up
  · unfold ideDrops
    rw [link]
    exact ide

/-- The request of a read's piece. -/
def pieceReq (j : Job) (p : Part) (f : Fn) (n : Nat) : HostReq :=
  { fn := f, span := some n, dep := j.dep, part := j.part, page := p.addr / 4096, addr := p.addr, len := p.len }

/-- A read of an open ring's Span takes a tag and goes out. -/
theorem issuePiece_read {s : State} {k : Nat} {f : Fn} (open_ : s.RingOpen k f) {j : Job} {p : Part} (own : j.fn = f)
    (span : j.span = some (s.queue k).span) (read : j.write = false) {t : Nat} (free : s.freeTag (s.fnLink f) 16384 0 = some t) :
    ∃ u : State, s.issuePiece j p = .out u ∧ u.queues = s.queues ∧ u.out = .hostRead f p.addr p.len j.relaxed :: s.out := by
  obtain ⟨-, safe, live, enabled, pass, up, unlogged, ide⟩ := open_
  have quiet : s.spanQuiet (s.queue k).span = false := by
    unfold spanQuiet
    rw [enabled]
  have through : s.xlate (s.queue k).span false p.addr = .ok p.addr false := by
    unfold xlate
    dsimp only
    rw [pass]
    rfl
  have sent (x : Tag) : ((s.setTag (s.fnLink f) t x).sendReq f (.hostRead f p.addr p.len j.relaxed)) =
      (s.setTag (s.fnLink f) t x).emit (.hostRead f p.addr p.len j.relaxed) := if_neg (by
    rw [show (s.setTag (s.fnLink f) t x).ideDrops f = s.ideDrops f from rfl, ide]
    decide)
  refine ⟨(s.setTag (s.fnLink f) t (.outstanding (pieceReq j p f (s.queue k).span))).emit (.hostRead f p.addr p.len j.relaxed), ?_, rfl, rfl⟩
  unfold issuePiece
  dsimp only
  rw [safe, span, own, read, up]
  dsimp only
  rw [quiet, live, through]
  simp only [Bool.not_true, Bool.false_eq_true, if_false]
  unfold sendRead
  dsimp only
  rw [up, free]
  exact congrArg Iss.out (sent _)

/-- A read of 16 bytes at a multiple of 16 is one piece. -/
theorem readCut_cell (f : Fn) {a : Nat} (aligned : a % 16 = 0) : s.readCut f a 16 = [{ addr := a, len := 16 }] := by
  have most : 128 ≤ s.readMax f := by
    unfold readMax
    have := Nat.one_le_two_pow (n := (s.fn f).mrrs.toNat)
    omega
  have one : min 16 (min (s.readMax f) (4096 - a % 4096)) = 16 := by omega
  unfold readCut
  generalize 16 / s.readMax f = fuel
  unfold State.pieces
  dsimp only
  rw [one, if_neg (by decide)]
  cases fuel + 16 / 4096 + 1 <;> rfl

theorem freeTag_congr {u t : State} (kept : u.tags = t.tags) (h fuel i : Nat) : u.freeTag h fuel i = t.freeTag h fuel i := by
  induction fuel generalizing i with
  | zero => rfl
  | succ fuel ih =>
    unfold freeTag
    rw [ih, tag, tag, kept]

/-- The state in which the fetch of one cell goes out, and its job. -/
def fetchingState (s : State) (k : Nat) : State := (s.epoch .fetch .QE_CTX_CFG k).setQueue k { s.queue k with fetching := 1 }

def fetchJob (s : State) (k : Nat) (f : Fn) : Job :=
  { fn := f, span := some (s.queue k).span, dep := .fetch k, write := false, parts := [{ addr := s.ringAddr k (s.queue k).ci, len := 16 }] }

theorem readCut_none (f : Fn) (a : Nat) : s.readCut f a 0 = [] := rfl

section
variable {s} {q : QueueId} {f : Fn} (runs : s.queueRuns q.val = true) (kind : (s.queue q.val).kind ≠ 3) (room : s.trussFull q.val = false)
  (wire : s.wireFull q.val = false) (paid_ : s.chargeWaits q.val = false) (none_ : (s.queue q.val).fetching = 0) (empty : (s.queue q.val).cached = [])
  (idle : s.pend .QE_CTX_CFG q.val = {}) (open_ : s.RingOpen q.val f) (ahead : 1 ≤ ((s.queue q.val).pi - (s.queue q.val).ci).toNat)
  (fits : ((s.queue q.val).ci - (s.queue q.val).di).toNat + 1 ≤ s.ringSize q.val) (prefetch : 1 ≤ s.fld F.QE_CTX_CFG_PREFETCH q.val)
  (cache : s.cacheUse + 1 ≤ 65536) (awake : (s.queue q.val).isTx = true ∨ (s.queue q.val).kind = 2 →
    ∀ d ∈ server (s.queue q.val) :: (if 16 ≤ server (s.queue q.val) then [(server (s.queue q.val) - 16) / 3] else []),
      s.domState d ≠ 1 ∧ s.domState d ≠ 2)
  {tag : Nat} (free : s.freeTag (s.fnLink f) 16384 0 = some tag)
include runs kind room wire paid_ none_ empty idle open_ ahead fits prefetch cache awake free

theorem fetch_issues : ∃ t, exec (.entryFetchIssue q ⟨1, by decide⟩) s = .next t ∧ (t.queue q.val).fetching = 1 ∧
    t.out = .hostRead f (s.ringAddr q.val (s.queue q.val).ci) 16 false :: s.out := by
  have reg := reg_epoch_idle idle .fetch
  have field (g : Fld) (i : Nat) : (s.epoch .fetch .QE_CTX_CFG q.val).fld g i = s.fld g i := congrArg (getBits · g.lo g.width) (reg ..)
  have opened : (s.epoch .fetch .QE_CTX_CFG q.val).RingOpen q.val f := ringOpen_regs s open_ reg
  have power (d : Nat) : (s.epoch .fetch .QE_CTX_CFG q.val).domState d = s.domState d := Domains.domState_congr (reg ..) d
  have size : (s.epoch .fetch .QE_CTX_CFG q.val).ringSize q.val = s.ringSize q.val := congrArg (2 ^ ·) (field ..)
  have addr (c : BitVec 16) : (s.epoch .fetch .QE_CTX_CFG q.val).ringAddr q.val c = s.ringAddr q.val c := by
    unfold ringAddr
    rw [field, size]
  have link : (s.epoch .fetch .QE_CTX_CFG q.val).fnLink f = s.fnLink f := by
    cases f with
    | mf => exact field F.HEP_MGMT_LINK_LINK 0
    | pf => rfl
    | vf => rfl
  have still : (s.epoch .fetch .QE_CTX_CFG q.val).wakeServer q.val = s.epoch .fetch .QE_CTX_CFG q.val :=
    wakeServer_idle _ fun serves d listed => by rw [power]; exact awake serves d listed
  have queue (j : Nat) : (s.epoch .fetch .QE_CTX_CFG q.val).queue j = s.queue j := rfl
  have uses : (s.epoch .fetch .QE_CTX_CFG q.val).cacheUse = s.cacheUse := rfl
  have out : (s.epoch .fetch .QE_CTX_CFG q.val).out = s.out := rfl
  have aligned : s.ringAddr q.val (s.queue q.val).ci % 16 = 0 := by
    unfold ringAddr
    omega
  have first : min 1 (s.ringSize q.val - (s.queue q.val).ci.toNat % s.ringSize q.val) = 1 := by
    have := Nat.mod_lt (s.queue q.val).ci.toNat (show 0 < s.ringSize q.val by omega)
    omega
  have goes : ¬(State.dist (s.queue q.val).ci (s.queue q.val).pi < 1 ∨ s.ringSize q.val < State.dist (s.queue q.val).di (s.queue q.val).ci + 1 ∨
      s.fld F.QE_CTX_CFG_PREFETCH q.val < (((s.queue q.val).cached.map fun e => e.cells.length).sum) + 1 ∨ 65536 < s.cacheUse + 1) := by
    rw [empty]
    unfold State.dist
    simp only [List.map_nil, List.sum_nil]
    omega
  have issued : exec (.entryFetchIssue q ⟨1, by decide⟩) s = .next ((fetchingState s q.val).runJob (fetchJob s q.val f)) := by
    show execEntryFetchIssue q ⟨1, by decide⟩ s = _
    unfold execEntryFetchIssue
    dsimp only
    rw [runs, room, wire, paid_, none_]
    refine congrArg Host.Outcome.next ((if_neg ?_).trans ?_)
    · simp [kind]
    · rw [size, field, uses, if_neg goes]
      show (match s.spanFn (s.queue q.val).span with | none => _ | some f => _) = _
      rw [open_.1]
      dsimp only
      rw [still, size, addr, addr, first, readCut_cell _ f aligned, Nat.sub_self, Nat.mul_zero, readCut_none, List.append_nil]
      rfl
  have span : ((fetchingState s q.val).queue q.val).span = (s.queue q.val).span := by rw [fetchingState, queue_setQueue]
  have again : (fetchingState s q.val).RingOpen q.val f := ringOpen_with opened (m := s.rxIn) (o := s.out) span
  have tags : (fetchingState s q.val).freeTag ((fetchingState s q.val).fnLink f) 16384 0 = some tag := by
    rw [show (fetchingState s q.val).fnLink f = s.fnLink f from link, freeTag_congr (u := fetchingState s q.val) (t := s) rfl]
    exact free
  obtain ⟨u, piece, queues, out'⟩ := issuePiece_read again (j := fetchJob s q.val f) (p := { addr := s.ringAddr q.val (s.queue q.val).ci, len := 16 }) rfl
    (congrArg some span.symm) rfl tags
  refine ⟨u, issued.trans (congrArg _ ?_), ?_, out'⟩
  · rw [runJob, show (fetchJob s q.val f).parts = [{ addr := s.ringAddr q.val (s.queue q.val).ci, len := 16 }] from rfl, runParts, piece]
    rfl
  · rw [queue_congr queues, fetchingState, queue_setQueue]

end

/-- Settles O32: each stage of an entry's life by the branch that its queue is in. -/
theorem entryLifecycle : Obligations.EntryLifecycle := by
  intro s q k x only server awake more nop
  refine ⟨?_, fun c one ahead kind plain _ enabled => fetchReturn_caches one ahead kind plain.2.2.1 enabled, fun cells some_ back kind enabled =>
    fetchReturn_withdrawn some_ back kind enabled cells, fetchReturn_poisoned, fun none_ => fetchReturn_none none_ [] true, ?_, ?_,
    modExpire_stops s, modExpire_idle s⟩
  · rintro f n runs kind room wire paid none_ empty idle open_ rfl ahead fits prefetch cache awake ⟨t, free⟩
    exact fetch_issues runs kind room wire paid none_ empty idle open_ ahead fits prefetch cache awake free
  · intro e rest cached more plain kind runs
    exact begin_nop cached more ⟨plain.1, plain.2.1, plain.2.2.2⟩ kind runs
  · intro b c f alone result parts causes given unwritten headless single quiet stays open_
    exact complete_alone alone result parts causes given unwritten headless single quiet stays open_

end Sys2Proof.Machine.EntryLives
end

section
/-!
PROOFS. XMIT: the handover of a chain to its destination (R421, R541).
-/

namespace Sys2Proof.Machine.Transmit
open State Issue Scratchpad Fields Pool Buffers Alloc

variable {s : State} {x : Slot} {rd rs rt : RegNo}

/-! ### What an issued slot keeps -/

theorem chainOf_ran (fuel i : Nat) : (s.ran x).chainOf fuel i = s.chainOf fuel i := by
  induction fuel generalizing i with
  | zero => rfl
  | succ fuel ih =>
    unfold chainOf
    rw [(samePool_ran s x).bufRec]
    split
    · rfl
    · rw [ih]

theorem chainRead_ran (i off n : Nat) : (s.ran x).chainRead i off n = s.chainRead i off n := by
  have base : (s.ran x).bufBase = s.bufBase := congrArg (· * 0x1000000) (fld_ran_ne s x (by decide) 0)
  have bytes (a : Nat) : (s.ran x).rldByte a = s.rldByte a := by rw [ran_frame]; rfl
  unfold chainRead chainAddr
  simp only [chainOf_ran, base, bytes]

theorem queue_ran (q : Nat) : (s.ran x).queue q = s.queue q := by rw [ran_frame]; rfl

theorem treeNode_ran (p level i : Nat) : (s.ran x).treeNode p level i = s.treeNode p level i := by
  have image : (s.ran x).pierImg p = s.pierImg p := by rw [ran_frame]; rfl
  unfold treeNode
  rw [image]

/-! ### The frame -/

/-- The chain at `b` may be handed over by thread `n`. -/
structure Owned (s : State) (n b : Nat) : Prop where
  pooled : (s.poolOf b).isSome = true
  first : (s.bufRec b).member = false
  sole : (s.bufRec b).refs = 1
  sound : s.recBad b = false
  owner : (s.bufRec b).owner = ownerThread n

theorem Owned.ran {n b : Nat} (owned : Owned s n b) : Owned (s.ran x) n b := by
  have same := samePool_ran s x
  obtain ⟨pooled, first, sole, sound, owner⟩ := owned
  refine ⟨by rw [same.poolOf]; exact pooled, by rw [same.bufRec]; exact first, by rw [same.bufRec]; exact sole, ?_, by rw [same.bufRec]; exact owner⟩
  rw [recBad, same.bufRec]
  exact sound

theorem test_owned {n b : Nat} (owned : Owned s n b) : s.bufTest .give (ownerThread n) b = 0 := by
  rw [bufTest_head ⟨owned.pooled, owned.first, owned.sound⟩ owned.sole.ge]
  exact if_neg (not_not.2 owned.owner)

/-- The frame of a chain that is not the window's packet. -/
def strangeFrame (t : State) (b len : Nat) : Pkt :=
  { bytes := t.chainRead b 0 len, fcs := fcs32 (t.chainRead b 0 len), poisoned := t.chainBad b len, head := some b
    hash := t.fresh.1.setWidth 32, time := t.fresh.2.fresh.1 }

theorem xmitFrame_strange (t : State) {n b : Nat} (len : Nat) (other : ¬(getBits (t.thr n).win.item 0 2 = 1 ∧ (t.thr n).win.ref.toNat % 2 ^ 26 = b)) :
    t.xmitFrame n b len = (strangeFrame t b len, t.fresh.2.fresh.2) := by
  have mine : (getBits (t.thr n).win.item 0 2 == 1 && (t.thr n).win.ref.toNat % 2 ^ 26 == b) = false := by
    rw [Bool.eq_false_iff]
    intro both
    rw [Bool.and_eq_true, beq_iff_eq, beq_iff_eq] at both
    exact other both
  unfold xmitFrame
  dsimp only
  rw [mine]
  simp only [Bool.false_eq_true, if_false]
  rfl

/-- The chain handed to Pier `p`'s pipeline. -/
def handed (t : State) (p b : Nat) : State := t.fresh.2.fresh.2.setRec b { t.fresh.2.fresh.2.bufRec b with owner := ownerPipe p }

/-! ### The instruction -/

/-- The body of XMIT. -/
def xmitBody (rd rs rt : RegNo) (kind : Nat) (t : State) (n : Nat) : Done :=
  match t.xmitTo n kind (getBits (t.g n rt) 16 16) (t.g n rt) with
  | none => .exc .notBound t
  | some send =>
    if getBits (t.g n rt) 48 15 = 0 then .exc .arg t
    else match t.bufTest .give (ownerThread n) (t.g n rs).toNat with
      | 0 =>
        if t.chainCap (t.g n rs).toNat < getBits (t.g n rt) 48 15 then .exc .arg t
        else
          let (f, t') := t.xmitFrame n (t.g n rs).toNat (getBits (t.g n rt) 48 15)
          let r := t'.bufRec (t.g n rs).toNat
          let t' := if r.refs = 1 then t'.setRec (t.g n rs).toNat { r with owner := ownerPipe (n / 192) } else t'
          (send t' f).put n rd 0
      | 8 => t.put n rd 8
      | code => (t.bufRefuse (ownerThread n) (t.g n rs).toNat code).put n rd (BitVec.ofNat 64 code)

theorem xmit_runs {kind : Nat} (named : getBits (s.g x.thr.val rt) 0 2 = kind) : s.xmit x rd rs rt kind =
    s.issue x (mRd ||| mRs ||| mRt) [rs, rt] false fun t n _ => xmitBody rd rs rt kind t n := if_neg (not_not.2 named)

section
variable {kind : Nat}

theorem xmitBody_none (none_ : (s.ran x).xmitTo x.thr.val kind (getBits (s.g x.thr.val rt) 16 16) (s.g x.thr.val rt) = none) :
    xmitBody rd rs rt kind (s.ran x) x.thr.val = .exc .notBound (s.ran x) := by
  unfold xmitBody
  rw [g_ran, none_]

variable {b : Nat} (chain : (s.g x.thr.val rs).toNat = b) (owned : Owned s x.thr.val b)
  (other : ¬(getBits (s.thr x.thr.val).win.item 0 2 = 1 ∧ (s.thr x.thr.val).win.ref.toNat % 2 ^ 26 = b))
  (some_ : 0 < getBits (s.g x.thr.val rt) 48 15) (fits : getBits (s.g x.thr.val rt) 48 15 ≤ s.chainCap b)
include chain owned other some_ fits

/-- XMIT to an allowed destination. -/
theorem xmitBody_sends {send : State → Pkt → State}
    (dest : (s.ran x).xmitTo x.thr.val kind (getBits (s.g x.thr.val rt) 16 16) (s.g x.thr.val rt) = some send) :
    xmitBody rd rs rt kind (s.ran x) x.thr.val = (send (handed (s.ran x) (x.thr.val / 192) b)
      (strangeFrame (s.ran x) b (getBits (s.g x.thr.val rt) 48 15))).put x.thr.val rd 0 := by
  have window : ((s.ran x).thr x.thr.val).win = (s.thr x.thr.val).win := by rw [thr_ran]
  have frame := xmitFrame_strange (s.ran x) (n := x.thr.val) (b := b) (getBits (s.g x.thr.val rt) 48 15) (by rw [window]; exact other)
  have cap : (s.ran x).chainCap b = s.chainCap b := congrArg (2048 * List.length ·) (chainOf_ran 8 b)
  have own := owned.ran (x := x)
  have ns : (s.ran x).g x.thr.val rs = s.g x.thr.val rs := g_ran ..
  have nt : (s.ran x).g x.thr.val rt = s.g x.thr.val rt := g_ran ..
  generalize s.ran x = t at *
  have long : ¬t.chainCap b < getBits (s.g x.thr.val rt) 48 15 := by omega
  have sole : (t.fresh.2.fresh.2.bufRec b).refs = 1 := own.sole
  unfold xmitBody
  rw [ns, nt, dest, chain, test_owned own, frame]
  dsimp only
  rw [if_neg (by omega), if_neg long, if_pos sole]
  rfl

/-- What holds after any XMIT that is sent, of the state `v` that the handover leaves. -/
theorem xmit_sends {c : Instr} {send : State → Pkt → State} (runs : exec c s = .next (s.xmit x rd rs rt kind))
    (named : getBits (s.g x.thr.val rt) 0 2 = kind) (issues : s.Issues x [rs, rt] false)
    (dest : (s.ran x).xmitTo x.thr.val kind (getBits (s.g x.thr.val rt) 16 16) (s.g x.thr.val rt) = some send)
    (kept : (send (handed (s.ran x) (x.thr.val / 192) b) (strangeFrame (s.ran x) b (getBits (s.g x.thr.val rt) 48 15))).threads = (s.ran x).threads) :
    ∃ t : State, exec c s = .next t ∧ t = { send (handed (s.ran x) (x.thr.val / 192) b) (strangeFrame (s.ran x) b (getBits (s.g x.thr.val rt) 48 15)) with
      threads := t.threads, stallDone := t.stallDone } ∧ ∀ r : RegNo, t.g x.thr.val r = if r = rd ∧ rd ≠ 0 then 0 else s.g x.thr.val r := by
  obtain ⟨t, ran, ⟨only, -⟩, -, reads⟩ := exec_of_put (runs.trans (congrArg Host.Outcome.next (xmit_runs named))) issues
    (xmitBody_sends (rd := rd) chain owned other some_ fits dest)
  refine ⟨t, ran, only, fun r => (reads r).trans ?_⟩
  generalize send (handed (s.ran x) (x.thr.val / 192) b) (strangeFrame (s.ran x) b (getBits (s.g x.thr.val rt) 48 15)) = v at *
  have thread : v.thr x.thr.val = (s.ran x).thr x.thr.val := congrArg (fun m : SMap Thread => SMap.get ({} : Thread) m x.thr.val) kept
  have same : v.g x.thr.val r = s.g x.thr.val r := (Boxes.g_congr (congrArg Thread.regs thread) r).trans (g_ran s x x.thr.val r)
  rw [same]

end

/-! ### The destinations -/

theorem hashed_keeps (t : State) (f : Pkt) : (t.hashed f).bytes = f.bytes ∧ (t.hashed f).head = f.head := by
  cases tuple : hashTuple f.bytes (t.fld F.MAC_DIST_HASH_CFG_LEVEL 0) (t.flag F.MAC_DIST_HASH_CFG_F_ADDR 0)
    (t.flag F.MAC_DIST_HASH_CFG_F_PORTS 0) (t.flag F.MAC_DIST_HASH_CFG_F_PROTO 0) (t.flag F.MAC_DIST_HASH_CFG_F_TKEY 0)
  simp only [hashed, tuple, and_self]

/-- The frame as the last of a Pier's egress pipeline, or of those that go back to head acceptance. -/
theorem egressOf_appended {t u : State} {p : Nat} {l : List Pkt} (kept : t.egress = (u.setEgress p l).egress) : t.egressOf p = l := by
  rw [egressOf, kept]
  exact SMap.get_put_self ([] : List Pkt) u.egress p l

def reenter (u : State) (p : Nat) (l : List Pkt) : State := { u with reentry := SMap.put [] u.reentry p l }

theorem reentry_appended {t u : State} {p : Nat} {l : List Pkt} (kept : t.reentry = (reenter u p l).reentry) : SMap.get [] t.reentry p = l := by
  rw [kept]
  exact SMap.get_put_self ([] : List Pkt) u.reentry p l


/-- The frames of the destinations. -/
def txFrameOf (t : State) (p target : Nat) (n : Nat) (f : Pkt) : Pkt :=
  { t.hashed f with txq := some target, span := some n, tmsq := t.wireQueue p target }

def wireFrameOf (t : State) (target : Nat) (f : Pkt) : Pkt := { t.hashed f with tmsq := some target }

def pipeFrameOf (t : State) (n : Nat) (w : Word) (f : Pkt) : Pkt :=
  { f with tuple := (t.hashed f).tuple, verified := true, reinject := some (BitVec.ofNat 16 (getBits w 32 16), (t.thr n).win.injectData) }

section
variable (t : State) (p target n : Nat) (w : Word) (f : Pkt)

theorem txFrameOf_keeps : (txFrameOf t p target n f).bytes = f.bytes ∧ (txFrameOf t p target n f).head = f.head ∧
    (txFrameOf t p target n f).txq = some target ∧ (txFrameOf t p target n f).span = some n :=
  by simp only [txFrameOf, hashed_keeps, and_self]

theorem wireFrameOf_keeps : (wireFrameOf t target f).bytes = f.bytes ∧ (wireFrameOf t target f).head = f.head ∧
    (wireFrameOf t target f).tmsq = some target :=
  by simp only [wireFrameOf, hashed_keeps, and_self]

theorem pipeFrameOf_keeps : (pipeFrameOf t n w f).bytes = f.bytes ∧ (pipeFrameOf t n w f).head = f.head := ⟨rfl, rfl⟩

end

theorem xmitTo_pipe (n : Nat) {target : Nat} (w : Word) (zero : target = 0) : s.xmitTo n 3 target w = some fun u f =>
    reenter u (n / 192) (SMap.get [] u.reentry (n / 192) ++ [pipeFrameOf u n w f]) := if_pos zero

section
variable (t : State) (p b : Nat)

theorem egress_handed : (handed t p b).egress = t.egress := by simp only [handed, setRec, fresh]
theorem threads_handed : (handed t p b).threads = t.threads := by simp only [handed, setRec, fresh]
theorem reentry_handed : (handed t p b).reentry = t.reentry := by simp only [handed, setRec, fresh]

theorem owner_handed : ((handed t p b).bufRec b).owner = ownerPipe p := by rw [handed, bufRec_setRec]

end

section
variable (t : State) (p b : Nat) (l : List Pkt)

theorem threads_setEgress : ((handed t p b).setEgress p l).threads = t.threads := by
  simp only [setEgress, threads_handed]
theorem threads_reenter : (reenter (handed t p b) p l).threads = t.threads := by
  simp only [reenter, threads_handed]

end

theorem frame_strange (len b : Nat) : (strangeFrame (s.ran x) b len).bytes = s.chainRead b 0 len ∧ (strangeFrame (s.ran x) b len).head = some b :=
  ⟨chainRead_ran b 0 len, rfl⟩

theorem xmitTo_txq {target : Nat} (w : Word) (used : (s.queue target).used = true) (kind : (s.queue target).kind = 0)
    (bind : (s.queue target).bind = x.thr.val / 192) : (s.ran x).xmitTo x.thr.val 0 target w = some fun u f =>
      u.setEgress (x.thr.val / 192) (u.egressOf (x.thr.val / 192) ++ [txFrameOf u (x.thr.val / 192) target (s.queue target).span f]) := by
  have allowed : ((s.queue target).used && (s.queue target).isTx && (s.queue target).bind == x.thr.val / 192) = true := by
    simp [Queue.isTx, used, kind, bind]
  unfold xmitTo
  dsimp only
  rw [queue_ran]
  exact if_pos allowed

theorem xmitTo_unused {target kind : Nat} (w : Word) (low : kind = 0 ∨ kind = 1) (unused : (s.queue target).used = false) :
    (s.ran x).xmitTo x.thr.val kind target w = none := by
  rcases low with rfl | rfl
  · unfold xmitTo
    dsimp only
    rw [queue_ran, unused]
    rfl
  · unfold xmitTo
    dsimp only
    rw [queue_ran, unused]
    rfl

theorem xmitTo_wire {target : Nat} (w : Word) {nd : TreeNode} (found : s.treeNode (x.thr.val / 192) 3 target = some nd) (wire : nd.kind = 0) :
    (s.ran x).xmitTo x.thr.val 2 target w = some fun u f =>
      u.setEgress (x.thr.val / 192) (u.egressOf (x.thr.val / 192) ++ [wireFrameOf u target f]) := by
  unfold xmitTo
  dsimp only
  rw [treeNode_ran, found]
  exact if_pos wire

/-- What a register write keeps of the state before it. -/
theorem kept_of_wrote {t v : State} (only : t = { v with threads := t.threads, stallDone := t.stallDone }) :
    t.recs = v.recs ∧ t.egress = v.egress ∧ t.reentry = v.reentry := by
  rw [only]
  exact ⟨rfl, rfl, rfl⟩

/-- What hands a frame to a HOST queue leaves the threads as they are. -/
theorem threads_toHost (t : State) (p q : Nat) (f : Pkt) : (t.toHost p q f).threads = t.threads := by
  have released (u : State) (o : Option Nat) : (u.releaseOpt o).threads = u.threads := by rw [(takes_releaseOpt u o).only]
  unfold toHost
  split
  · unfold tmsPut
    dsimp only
    generalize (if f.colour = 0 then F.TMS_Q_LIMIT_GREEN_KIB else F.TMS_Q_LIMIT_YELLOW_KIB) = limit
    generalize (if f.colour = 0 then F.TMS_Q_DROP_LIMIT else F.TMS_Q_DROP_YELLOW) = count
    split
    · exact released _ _
    · rfl
  · unfold dropPkt
    dsimp only
    split
    · exact released _ _
    · exact released _ _

/-- Settles O24: each destination by the function that XMIT hands its frame to. -/
theorem xmitChain : Obligations.XmitChain := by
  intro s x rd rs rt b n p w target len q owned mine sent chain own other some_ fits
  have owned' : Owned s n b := ⟨own.1, own.2.1, own.2.2.1, own.2.2.2.1, own.2.2.2.2⟩
  have send {kind : Nat} {c : Instr} {f : State → Pkt → State} (runs : exec c s = .next (s.xmit x rd rs rt kind)) (named : getBits w 0 2 = kind)
      (issues : s.Issues x [rs, rt] false) (dest : (s.ran x).xmitTo n kind target w = some f) (kept : _) :=
    xmit_sends chain owned' other some_ fits runs named issues dest kept
  have refused {kind : Nat} {c : Instr} (runs : exec c s = .next (s.xmit x rd rs rt kind)) (named : getBits w 0 2 = kind) (low : kind = 0 ∨ kind = 1)
      (unused : q.used = false) : s.Raises x [rs, rt] false c .notBound :=
    raises_of_exc (runs.trans (congrArg Host.Outcome.next (xmit_runs named))) (xmitBody_none (xmitTo_unused w low unused))
  have threads := threads_handed (s.ran x) p b
  have owner := owner_handed (s.ran x) p b
  have reentry' : SMap.get [] (handed (s.ran x) p b).reentry p = SMap.get [] s.reentry p := by rw [reentry_handed, ran_frame]
  have egress' : (handed (s.ran x) p b).egressOf p = s.egressOf p := by rw [egressOf, egress_handed, ran_frame]; rfl
  obtain ⟨bytes, head⟩ := frame_strange (s := s) (x := x) len b
  refine ⟨fun named used kind bind issues => ?_, fun named ⟨nd, found, wire⟩ issues => ?_, fun named zero issues => ?_, fun named used kind issues => ?_,
    fun named unused => refused rfl named (.inl rfl) unused, fun named unused => refused rfl named (.inr rfl) unused⟩
  · obtain ⟨t, ran, only, reads⟩ := send (c := .xmitTxq x rd rs rt) rfl named issues (xmitTo_txq w used kind bind) (threads_setEgress ..)
    obtain ⟨recs, egress, -⟩ := kept_of_wrote only
    obtain ⟨bytes', head', txq, span⟩ := txFrameOf_keeps (handed (s.ran x) p b) p target q.span (strangeFrame (s.ran x) b len)
    exact ⟨t, ⟨ran, (congrArg BufRec.owner (bufRec_congr recs b)).trans owner, reads⟩, _, (egressOf_appended egress).trans (congrArg (· ++ _) egress'),
      bytes'.trans bytes, head'.trans head, txq, span⟩
  · obtain ⟨t, ran, only, reads⟩ := send (c := .xmitWire x rd rs rt) rfl named issues (xmitTo_wire w found wire) (threads_setEgress ..)
    obtain ⟨recs, egress, -⟩ := kept_of_wrote only
    obtain ⟨bytes', head', tmsq⟩ := wireFrameOf_keeps (handed (s.ran x) p b) target (strangeFrame (s.ran x) b len)
    exact ⟨t, ⟨ran, (congrArg BufRec.owner (bufRec_congr recs b)).trans owner, reads⟩, _, (egressOf_appended egress).trans (congrArg (· ++ _) egress'),
      bytes'.trans bytes, head'.trans head, tmsq⟩
  · obtain ⟨t, ran, only, reads⟩ := send (c := .xmitPipe x rd rs rt) rfl named issues (xmitTo_pipe n w zero) (threads_reenter ..)
    obtain ⟨recs, -, reentry⟩ := kept_of_wrote only
    obtain ⟨bytes', head'⟩ := pipeFrameOf_keeps (handed (s.ran x) p b) n w (strangeFrame (s.ran x) b len)
    exact ⟨t, ⟨ran, (congrArg BufRec.owner (bufRec_congr recs b)).trans owner, reads⟩, _, (reentry_appended reentry).trans (congrArg (· ++ _) reentry'),
      bytes'.trans bytes, head'.trans head⟩
  · have dest : (s.ran x).xmitTo n 1 target w = some fun u f => u.toHost p target { f with span := some q.span } := by
      unfold xmitTo
      dsimp only
      rw [queue_ran, used, kind]
      rfl
    obtain ⟨t, ran, -, reads⟩ := send (c := .xmitRxq x rd rs rt) rfl named issues dest ((threads_toHost ..).trans threads)
    exact ⟨t, ran, reads⟩

end Sys2Proof.Machine.Transmit
end

section
/-!
PROOFS. Function-level resets, MSI-X unmasking and configuration requests (R74–R81, R86, R101).
-/

namespace Sys2Proof.Machine.Functions
open State Fields Frames Aer

variable (s : State)

/-! ### Functions that take reset values -/

/-- A function's reset values; sticky AER registers survive. -/
def sticky (c : FnCfg) : FnCfg := { aerUncor := c.aerUncor, aerCor := c.aerCor, aerMask := c.aerMask, aerSev := c.aerSev, aerCorMask := c.aerCorMask }

/-- A map whose entries of keys in `p` have taken the value `one` gives. -/
def remade {V : Type} [DecidableEq V] (d : V) (p : Nat → Bool) (one : V → V) (l m : SMap V) : SMap V :=
  l.foldl (fun m e => if p e.1 then SMap.put d m e.1 (one (SMap.get d m e.1)) else m) m

theorem get_remade {V : Type} [DecidableEq V] {d : V} {p : Nat → Bool} {one : V → V} (once : ∀ v, one (one v) = one v) (l m : SMap V) (k : Nat) :
    SMap.get d (remade d p one l m) k = if p k = true ∧ k ∈ l.map Prod.fst then one (SMap.get d m k) else SMap.get d m k := by
  induction l generalizing m with
  | nil => simp [remade]
  | cons e l ih =>
    have step : remade d p one (e :: l) m = remade d p one l (if p e.1 then SMap.put d m e.1 (one (SMap.get d m e.1)) else m) := rfl
    rw [step, ih]
    by_cases here : k = e.1
    · subst here
      by_cases inside : p e.1 = true
      · rw [if_pos inside, SMap.get_put_self, once, ite_self, if_pos ⟨inside, by simp⟩]
      · rw [if_neg inside, if_neg fun h => inside h.1, if_neg fun h => inside h.1]
    · have kept : SMap.get d (if p e.1 then SMap.put d m e.1 (one (SMap.get d m e.1)) else m) k = SMap.get d m k := by
        split
        · exact SMap.get_put_ne d d m _ here
        · rfl
      rw [kept]
      simp only [List.map_cons, List.mem_cons, here, false_or]

theorem find?_unlisted {V : Type} {m : SMap V} {k : Nat} (out : k ∉ m.map Prod.fst) : SMap.find? m k = none := by
  cases found : SMap.find? m k with
  | none => rfl
  | some v => exact absurd (List.mem_map.2 ⟨_, SMap.find?_mem found, rfl⟩) out

/-- Every entry of a key in `p` takes the value that `one` gives, and an unlisted one keeps its own. -/
theorem get_remade_self {V : Type} [DecidableEq V] {d : V} {p : Nat → Bool} {one : V → V} (once : ∀ v, one (one v) = one v) (fixed : one d = d)
    (m : SMap V) (k : Nat) : SMap.get d (remade d p one m m) k = if p k = true then one (SMap.get d m k) else SMap.get d m k := by
  rw [get_remade once]
  by_cases inside : p k = true
  · by_cases listed : k ∈ m.map Prod.fst
    · rw [if_pos ⟨inside, listed⟩, if_pos inside]
    · have default_ : SMap.get d m k = d := by rw [SMap.get, find?_unlisted listed]; rfl
      rw [if_neg fun h => listed h.2, if_pos inside, default_, fixed]
  · rw [if_neg fun h => inside h.1, if_neg inside]

theorem fn_resetFns (p : Nat → Bool) (f : Fn) : (s.resetFns p false).fn f = if p (fnKey f) = true then sticky (s.fn f) else s.fn f := by
  have map : (s.resetFns p false).fns = remade {} p sticky s.fns s.fns := by
    unfold resetFns
    simp only [Bool.false_eq_true, if_false]
    rfl
  rw [fn, map]
  exact get_remade_self (one := sticky) (fun _ => rfl) rfl s.fns (fnKey f)

/-- What a reset of functions leaves alone. -/
theorem resetFns_frame (p : Nat → Bool) (b : Bool) : s.resetFns p b = { s with
    fns := (s.resetFns p b).fns, msix := (s.resetFns p b).msix, msixWait := (s.resetFns p b).msixWait,
    vsAddr := (s.resetFns p b).vsAddr, vsLo := (s.resetFns p b).vsLo, vsHi := (s.resetFns p b).vsHi } := by
  unfold resetFns
  dsimp only
  split <;> rfl

theorem find?_filter_out {V : Type} {m : SMap V} {k : Nat} {keep : Nat → Bool} (out : keep k = false) :
    SMap.find? (m.filter fun e => keep e.1) k = none := by
  refine find?_unlisted fun listed => ?_
  obtain ⟨e, mem, rfl⟩ := List.mem_map.1 listed
  exact absurd (List.mem_filter.1 mem).2 (by rw [out]; decide)

/-- A vector of a function that takes reset values. -/
theorem vec_resetFns {p : Nat → Bool} {b : Bool} {f : Fn} (v : Nat) (inside : p (fnKey f) = true) : (s.resetFns p b).vec f v = {} := by
  have map : (s.resetFns p b).msix = s.msix.filter fun e => !p (e.1 / 2048) := by
    unfold resetFns
    dsimp only
    split <;> rfl
  have own : msixKey f v / 2048 = fnKey f := by
    unfold msixKey
    omega
  rw [vec, map, SMap.get, find?_filter_out (keep := fun k => !p (k / 2048)) (by rw [own, inside]; rfl)]
  rfl

theorem key_pf (h : Link) : fnKey (.pf h) = 1 + h.val := rfl

theorem fnKey_ne_pf {f : Fn} {h : Link} (other : f ≠ .pf h) : fnKey f ≠ 1 + h.val := by
  cases f with
  | mf =>
    intro e
    have : 0 = 1 + h.val := e
    omega
  | pf h' =>
    intro e
    have : 1 + h'.val = 1 + h.val := e
    exact other (congrArg Fn.pf (Fin.ext (by omega)))
  | vf h' n =>
    intro e
    have : 16 + 4096 * h'.val + n.val = 1 + h.val := e
    omega

/-! ### A link without VFs and without requests -/

theorem linkSpans_none {h : Nat} (none_ : (s.face h).count = 0) : s.linkSpans h = [] := by
  unfold linkSpans
  rw [none_]
  exact List.filter_eq_nil_iff.2 fun n _ => by rw [decide_eq_true_eq]; omega

theorem resetVfs_none {h : Nat} (none_ : (s.face h).count = 0) :
    s.resetVfs h = s.resetFns (fun k => decide (16 ≤ k) && s.keyLink k == h) false := by
  have still : ((s.resetFns (fun k => decide (16 ≤ k) && s.keyLink k == h) false).face h).count = 0 := by
    rw [resetFns_frame]
    exact none_
  unfold resetVfs
  dsimp only
  rw [linkSpans_none _ still]
  rfl

theorem cutRequests_none (none_ : s.tags = []) (p : HostReq → Bool) (dst : Tag) : s.cutRequests p dst = s := by
  unfold cutRequests
  rw [none_]
  rfl

section
variable {s} {h : Link}

/-- The PF keeps its values while the VFs take theirs. -/
theorem pf_resetVfs (none_ : (s.face h.val).count = 0) : (s.resetVfs h.val).fn (.pf h) = s.fn (.pf h) := by
  rw [resetVfs_none s none_, fn_resetFns, if_neg]
  intro both
  rw [Bool.and_eq_true, decide_eq_true_eq, key_pf] at both
  have low := both.1
  omega

theorem frame_resetVfs (none_ : (s.face h.val).count = 0) : (s.resetVfs h.val).tags = s.tags ∧ (s.resetVfs h.val).regs = s.regs := by
  rw [resetVfs_none s none_, resetFns_frame]
  exact ⟨rfl, rfl⟩

/-- The PF with its reset values, before its mailbox and PTM take theirs. -/
def pfReset (s : State) (h : Link) : State :=
  let t := (s.resetVfs h.val).resetFns (fun k => k == 1 + h.val) false
  t.setFn (.pf h) { t.fn (.pf h) with bus := ((s.resetVfs h.val).fn (.pf h)).bus }

theorem fn_pfReset (none_ : (s.face h.val).count = 0) : (pfReset s h).fn (.pf h) = { sticky (s.fn (.pf h)) with bus := (s.fn (.pf h)).bus } := by
  unfold pfReset
  dsimp only
  rw [fn_setFn, fn_resetFns, if_pos (show (fnKey (.pf h) == 1 + h.val) = true from beq_self_eq_true _), pf_resetVfs none_]

theorem frame_pfReset (none_ : (s.face h.val).count = 0) : (pfReset s h).tags = s.tags ∧ (pfReset s h).regs = s.regs := by
  have frame : (pfReset s h).tags = (s.resetVfs h.val).tags ∧ (pfReset s h).regs = (s.resetVfs h.val).regs := by
    unfold pfReset
    dsimp only
    rw [resetFns_frame]
    exact ⟨rfl, rfl⟩
  obtain ⟨tags, regs⟩ := frame_resetVfs none_
  exact ⟨frame.1.trans tags, frame.2.trans regs⟩

theorem pfFlr_resets (up : s.linkState h.val = 3) (none_ : (s.face h.val).count = 0) (tags : s.tags = []) : ∃ t, exec (.pfFlr h) s = .next t ∧
    t.fn (.pf h) = { sticky (s.fn (.pf h)) with bus := (s.fn (.pf h)).bus } ∧ t.fld F.TIM_PTM_STATUS_VALID h.val = 0 ∧ t.doe (.pf h) = {} ∧
    t.linkState h.val = 3 := by
  obtain ⟨tags', regs⟩ := frame_pfReset none_
  have ran : exec (.pfFlr h) s = .next (((pfReset s h).setDoe (.pf h) {}).ptmReset h.val) := by
    refine congrArg Host.Outcome.next ((if_neg (not_not.2 up)).trans ?_)
    show (((pfReset s h).cutRequests _ _).setDoe (.pf h) {}).ptmReset h.val = _
    rw [cutRequests_none _ (tags'.trans tags)]
  have reset := fn_pfReset none_
  generalize pfReset s h = u at *
  refine ⟨_, ran, reset, fld_setFld_self (u.setDoe (.pf h) {}) (by decide), SMap.get_put_self ({} : Doe) u.does (doeKey (.pf h)) {}, ?_⟩
  exact (fld_setFld_other (u.setDoe (.pf h) {}) (f := F.TIM_PTM_STATUS_VALID) (g := F.HEP_LINK_STATE_STATE h.val)
    (show Reg.HEP_LINK_STATE ≠ .TIM_PTM_STATUS by decide)).trans ((fld_congr regs ..).trans up)

theorem vfEnableClear_resets (on : (s.fn (.pf h)).vfEnable = true) (none_ : (s.face h.val).count = 0) : ∃ t, exec (.vfEnableClear h) s = .next t ∧
    t.fn (.pf h) = { s.fn (.pf h) with vfEnable := false } :=
  ⟨_, congrArg Host.Outcome.next (if_pos on), (pf_resetVfs (s := s.setFn (.pf h) { s.fn (.pf h) with vfEnable := false }) none_).trans (fn_setFn ..)⟩

theorem vfEnableClear_off (off : (s.fn (.pf h)).vfEnable = false) : exec (.vfEnableClear h) s = .next s :=
  congrArg Host.Outcome.next (if_neg (by rw [off]; decide))

/-! ### A VF of a Disabled Span -/

theorem vfFlr_resets {n : SpanId} (up : s.linkState h.val = 3) (on : (s.fn (.pf h)).vfEnable = true) (carried : n.val < (s.fn (.pf h)).numVfs)
    (disabled : (s.span ((s.face h.val).base + n.val)).state = .disabled) (unlocked : (s.span ((s.face h.val).base + n.val)).tdi = .unlocked)
    (idle : s.spanCmd = none) (tags : s.tags = []) (walks : s.walks = []) (stalled : s.stalled = []) (k : Nat) : ∃ t, exec (.vfFlr h n) s = .next t ∧
      t.fn (.vf h n) = sticky (s.fn (.vf h n)) ∧ t.vec (.vf h n) k = {} ∧ t.fn (.pf h) = s.fn (.pf h) := by
  have ran : exec (.vfFlr h n) s = .next (s.resetFns (fun k => k == 16 + 4096 * h.val + n.val) false) := by
    refine congrArg Host.Outcome.next ((if_pos ⟨up, on, carried⟩).trans ?_)
    have frame := resetFns_frame s (fun k => k == 16 + 4096 * h.val + n.val) false
    unfold resetVf
    dsimp only
    generalize s.resetFns (fun k => k == 16 + 4096 * h.val + n.val) false = u at *
    have face : u.face h.val = s.face h.val := by rw [frame]; rfl
    have span : u.span ((s.face h.val).base + n.val) = s.span ((s.face h.val).base + n.val) := by rw [frame]; rfl
    have cmd : u.spanCmd = none := by rw [frame]; exact idle
    have uninterrupted : u.interrupt ((s.face h.val).base + n.val) = u := by
      unfold interrupt
      rw [cmd]
    have untold : u.tdiError ((s.face h.val).base + n.val) = u := by
      unfold tdiError tdiLocked
      rw [span, unlocked]
      rfl
    have reached : u.resetReaches ((s.face h.val).base + n.val) = u := by
      unfold resetReaches
      rw [uninterrupted, untold]
      dsimp only
      rw [span, disabled]
    have uncut : u.cutJobs ((s.face h.val).base + n.val) = u := by
      have walks' : u.walks = [] := by rw [frame]; exact walks
      have stalled' : u.stalled = [] := by rw [frame]; exact stalled
      unfold cutJobs
      rw [walks', stalled']
      show ({ u with walks := [], stalled := [] } : State) = u
      exact (congrArg₂ (fun w l => ({ u with walks := w, stalled := l } : State)) walks' stalled').symm
    rw [face, reached, uncut, cutRequests_none u (by rw [frame]; exact tags)]
    exact if_pos (by rw [span, disabled]; decide)
  refine ⟨_, ran, ?_, vec_resetFns s k (beq_self_eq_true _), ?_⟩
  · rw [fn_resetFns]
    exact if_pos (beq_self_eq_true _)
  · rw [fn_resetFns]
    refine if_neg ?_
    rw [key_pf, beq_iff_eq]
    omega

theorem mfFlr_resets (h : Link) (k : Nat) : ∃ t, exec .mfFlr s = .next t ∧ t.fn .mf = sticky (s.fn .mf) ∧ t.fn (.pf h) = s.fn (.pf h) ∧ t.vsAddr = 0 ∧
    t.vec .mf k = {} ∧ t.doe .mf = {} := by
  have ran : exec .mfFlr s = .next ((s.resetFns (fun k => k == 0) false).setDoe .mf {}) := rfl
  have own : (s.resetFns (fun k => k == 0) false).fn .mf = sticky (s.fn .mf) := (fn_resetFns s _ .mf).trans (if_pos rfl)
  have other : (s.resetFns (fun k => k == 0) false).fn (.pf h) = s.fn (.pf h) := by
    refine (fn_resetFns s _ (.pf h)).trans (if_neg ?_)
    rw [key_pf, beq_iff_eq]
    omega
  have window : (s.resetFns (fun k => k == 0) false).vsAddr = 0 := rfl
  have vector : (s.resetFns (fun k => k == 0) false).vec .mf k = {} := vec_resetFns s k (show (fnKey .mf == 0) = true from rfl)
  generalize s.resetFns (fun k => k == 0) false = u at *
  exact ⟨_, ran, own, other, window, vector, SMap.get_put_self ({} : Doe) u.does (doeKey .mf) {}⟩

end

/-! ### A vector that is unmasked (R77) -/

section
variable {s} {f : Fn} {k : Fin 2048}

theorem unmask_insecure (drops : s.ideDrops f = true) : exec (.msixUnmask f k) s = .next s := congrArg Host.Outcome.next (if_pos drops)

theorem unmask_refused (open_ : s.ideDrops f = false) (refused : s.barRefuses f = true ∨ State.vectorsOf f ≤ k.val) :
    ∃ t, exec (.msixUnmask f k) s = .next t ∧ t.msix = s.msix ∧ (t.fn f).aerUncor.getLsbD 20 = true := by
  refine ⟨s.aerAdv f 20, congrArg Host.Outcome.next ((if_neg (by rw [open_]; decide)).trans (if_pos ?_)), ?_, ?_⟩
  · rwa [Bool.or_eq_true, decide_eq_true_eq]
  · have frame : s.aerAdv f 20 = _ := aer_aerAdv s f 20
    exact (congrArg State.msix frame :)
  · rw [uncor_aerAdv]
    exact getLsbD_status _ (by decide)

theorem unmask_served (open_ : s.ideDrops f = false) (served : s.barRefuses f = false) (within : k.val < State.vectorsOf f) :
    exec (.msixUnmask f k) s = .next ((s.setVec f k.val { s.vec f k.val with masked := false }).msixFlush f k.val) := by
  refine congrArg Host.Outcome.next ((if_neg (by rw [open_]; decide)).trans (if_neg ?_))
  rw [served, Bool.false_or, decide_eq_true_eq]
  omega

theorem unmask_idle (open_ : s.ideDrops f = false) (served : s.barRefuses f = false) (within : k.val < State.vectorsOf f)
    (idle : (s.vec f k.val).pending = false) : ∃ t, exec (.msixUnmask f k) s = .next t ∧ t = { s with msix := t.msix } ∧
      t.vec f k.val = { s.vec f k.val with masked := false } := by
  refine ⟨s.setVec f k.val { s.vec f k.val with masked := false }, (unmask_served open_ served within).trans (congrArg Host.Outcome.next ?_), rfl,
    vec_setVec ..⟩
  unfold msixFlush
  dsimp only
  rw [vec_setVec]
  exact if_neg (by rw [idle, Bool.false_and, Bool.false_and, Bool.false_and, Bool.false_and]; decide)

/-- A message that its function, its vector and its link let through. -/
theorem msixSend_emits {v : Nat} (enabled : (s.fn f).msixEnable = true) (unmasked : (s.fn f).msixMask = false) (free : (s.vec f v).masked = false)
    (master : (s.fn f).bme = true) (served : s.barRefuses f = false) (open_ : s.ideDrops f = false) : s.msixSend f v = s.emit (.msix f v) := by
  rw [barRefuses, Bool.or_eq_false_iff, Bool.not_eq_false'] at served
  obtain ⟨ok, tdi⟩ := served
  rw [barOk, Bool.and_eq_true, Bool.and_eq_true, Bool.and_eq_true, Bool.not_eq_true', Bool.not_eq_true'] at ok
  obtain ⟨⟨⟨_, awake⟩, up⟩, safe⟩ := ok
  unfold msixSend
  simp only [enabled, unmasked, free, master, open_, tdi, awake, up, safe, Bool.not_true, Bool.or_false, Bool.false_eq_true, if_false]

theorem unmask_sends (open_ : s.ideDrops f = false) (served : s.barRefuses f = false) (within : k.val < State.vectorsOf f)
    (enabled : (s.fn f).msixEnable = true) (unmasked : (s.fn f).msixMask = false) (waits : (s.vec f k.val).pending = true)
    (master : (s.fn f).bme = true) : ∃ t, exec (.msixUnmask f k) s = .next t ∧ t = { s with msix := t.msix, out := .msix f k.val :: s.out } ∧
      t.vec f k.val = { s.vec f k.val with masked := false, pending := false } := by
  have awake : (s.fn f).d3hot = false := by
    rw [barRefuses, Bool.or_eq_false_iff, Bool.not_eq_false', barOk, Bool.and_eq_true, Bool.and_eq_true, Bool.and_eq_true, Bool.not_eq_true'] at served
    exact served.1.1.1.2
  refine ⟨((s.setVec f k.val { s.vec f k.val with masked := false }).setVec f k.val { s.vec f k.val with masked := false, pending := false }).emit
    (.msix f k.val), (unmask_served open_ served within).trans (congrArg Host.Outcome.next ?_), rfl,
    vec_setVec (s.setVec f k.val { s.vec f k.val with masked := false }) ..⟩
  unfold msixFlush
  dsimp only
  rw [vec_setVec]
  refine (if_pos ?_).trans (msixSend_emits enabled unmasked ?_ master served open_)
  · show ((s.vec f k.val).pending && !false && !(s.fn f).msixMask && (s.fn f).msixEnable && !(s.fn f).d3hot) = true
    rw [waits, unmasked, enabled, awake]
    rfl
  · rw [vec_setVec]

end

/-! ### Configuration requests (R74, R75, R86) -/

section
variable {s} {h : Link} {bus : Byte}

theorem request_insecure {k : Fin 8192} {op : CfgOp} (shut : s.stream h.val 0 = .insecure) : exec (.configRequest h bus k op) s = .next s := by
  refine congrArg Host.Outcome.next (if_pos ?_)
  rw [shut, Bool.or_eq_true]
  exact Or.inr rfl

/-- A request of a link that is Up and whose stream is not Insecure. -/
theorem request_heard (up : s.linkUp h.val = true) (secure : s.stream h.val 0 ≠ .insecure) :
    ¬(!s.linkUp h.val || s.stream h.val 0 == .insecure) = true := by
  rw [up, Bool.not_true, Bool.false_or, beq_iff_eq]
  exact secure

theorem request_retried {k : Fin 8192} {op : CfgOp} (up : s.linkUp h.val = true) (secure : s.stream h.val 0 ≠ .insecure)
    (early : s.dev ≠ .running ∨ (s.link h.val).cfgReady = false) :
    exec (.configRequest h bus k op) s = .next { s with out := .cfgDone .retry 0 :: s.out } := by
  refine congrArg Host.Outcome.next ((if_neg (request_heard up secure)).trans (if_pos ?_))
  rwa [Bool.not_eq_true']

/-- A running device answers a link whose configuration is ready. -/
theorem request_ready (runs : s.dev = .running) (ready : (s.link h.val).cfgReady = true) :
    ¬(s.dev ≠ .running ∨ (!(s.link h.val).cfgReady) = true) := by
  rw [ready]
  simp [runs]

/-- The PF after a request, which gives it its bus number. -/
def numbered (s : State) (h : Link) (bus : Byte) : State := s.setFn (.pf h) { s.fn (.pf h) with bus := bus }

theorem serve_ids : s.cfgServe (.pf h) .ids = s.emit (.cfgDone .success 0x96411F7E) := by
  have word : BitVec.ofNat 32 (0x1F7E + 2 ^ 16 * deviceId (.pf h)) = 0x96411F7E#32 := by
    rw [deviceId]
    decide
  exact congrArg (fun w => s.emit (.cfgDone .success w)) word

theorem request_reads (up : s.linkUp h.val = true) (secure : s.stream h.val 0 ≠ .insecure) (runs : s.dev = .running)
    (ready : (s.link h.val).cfgReady = true) : exec (.configRequest h bus 0 (.read .ids)) s = .next ((numbered s h bus).emit (.cfgDone .success 0x96411F7E)) :=
  congrArg Host.Outcome.next (((if_neg (request_heard up secure)).trans (if_neg (request_ready runs ready))).trans serve_ids)

theorem request_commands {v : BitVec 32} (up : s.linkUp h.val = true) (secure : s.stream h.val 0 ≠ .insecure) (runs : s.dev = .running)
    (ready : (s.link h.val).cfgReady = true) (slave : v.getLsbD 2 = false) : exec (.configRequest h bus 0 (.write .command v)) s =
      .next (((numbered s h bus).setFn (.pf h) { (numbered s h bus).fn (.pf h) with mse := v.getLsbD 1, bme := false }).emit (.cfgDone .success 0)) := by
  refine congrArg Host.Outcome.next (((if_neg (request_heard up secure)).trans
    (if_neg (request_ready runs ready))).trans ?_)
  have written : (numbered s h bus).cfgWrite (.pf h) .command v =
      (numbered s h bus).setFn (.pf h) { (numbered s h bus).fn (.pf h) with mse := v.getLsbD 1, bme := false } := by
    unfold cfgWrite
    dsimp only
    rw [slave]
    rfl
  exact congrArg (·.emit (.cfgDone .success 0)) written

theorem request_foreign (up : s.linkUp h.val = true) (secure : s.stream h.val 0 ≠ .insecure) (runs : s.dev = .running)
    (ready : (s.link h.val).cfgReady = true) :
    exec (.configRequest h bus 2 (.read .ids)) s = .next { s with out := .cfgDone .unsupported 0 :: s.out } := by
  have nobody : s.cfgFn h (2 : Fin 8192).val = none := by
    unfold cfgFn
    rw [if_neg (by decide), if_neg (by decide), dif_pos (by decide), if_neg fun both => absurd both.1 (by decide)]
  show execConfigRequest h bus 2 (.read .ids) s = _
  unfold execConfigRequest
  rw [if_neg (request_heard up secure), if_neg (request_ready runs ready), nobody]
  rfl

end

/-- Settles O36: function-level resets through the entries that take reset values, MSI-X unmasking and configuration requests by their tests. -/
theorem functionResetsAndConfiguration : Obligations.FunctionResetsAndConfiguration := by
  unfold Obligations.FunctionResetsAndConfiguration
  intro s h n bus v f k
  dsimp only
  refine ⟨?_, ?_, ?_, ?_, ?_, ?_, ?_, ?_, ?_, ?_, ?_, ?_, ?_⟩
  · rintro up ⟨none_, tags⟩
    exact pfFlr_resets up none_ tags
  · rintro up on carried ⟨disabled, unlocked, idle, tags, walks, stalled⟩
    exact vfFlr_resets up on carried disabled unlocked idle tags walks stalled k.val
  · rintro on ⟨none_, _⟩
    exact vfEnableClear_resets on none_
  · exact vfEnableClear_off
  · exact mfFlr_resets h k.val
  · exact unmask_insecure
  · exact unmask_refused
  · intro open_ served within enabled unmasked
    exact ⟨unmask_idle open_ served within, unmask_sends open_ served within enabled unmasked⟩
  · rintro ⟨⟨up, secure⟩, runs, ready⟩
    exact ⟨_, request_reads up secure runs ready, rfl, rfl, fn_setFn ..⟩
  · rintro ⟨⟨up, secure⟩, runs, ready⟩ slave
    refine ⟨_, request_commands up secure runs ready slave, rfl, (fn_setFn (numbered s h bus) ..).trans ?_, rfl⟩
    rw [numbered, fn_setFn]
  · exact request_insecure
  · rintro ⟨up, secure⟩ early
    exact request_retried up secure early
  · rintro ⟨⟨up, secure⟩, runs, ready⟩
    exact request_foreign up secure runs ready

end Sys2Proof.Machine.Functions
end

section
/-!
PROOFS. Host link states and the resets that they cause (R61, R68, R81, R85, R86, R93).
-/

namespace Sys2Proof.Machine.HostLinks
open State Fields Frames Functions Signals

variable (s : State)

/-! ### Link states -/

theorem linkState_congr {s t : State} {k : Nat} (kept : t.reg .HEP_LINK_STATE 0 = s.reg .HEP_LINK_STATE 0) : t.linkState k = s.linkState k := by
  show getBits (t.reg .HEP_LINK_STATE 0) _ _ = getBits (s.reg .HEP_LINK_STATE 0) _ _
  rw [kept]

theorem linkState_set {h v : Nat} (low : h < 8) (small : v < 16) : (s.setLinkState h v).linkState h = v := by
  have room : (F.HEP_LINK_STATE_STATE h).lo + (F.HEP_LINK_STATE_STATE h).width ≤ 64 := by
    show 0 + 4 * h + 4 ≤ 64
    omega
  exact (s.fld_setFld (F.HEP_LINK_STATE_STATE h) 0 v room).trans (Nat.mod_eq_of_lt small)

theorem linkState_set_ne {h k : Nat} (v : Nat) (low : h < 8) (other : k ≠ h) : (s.setLinkState h v).linkState k = s.linkState k := by
  refine s.fld_setFld_ne (g := F.HEP_LINK_STATE_STATE k) v ?_ (.inr (.inr ?_))
  · show 0 + 4 * h + 4 ≤ 64
    omega
  · show 0 + 4 * k + 4 ≤ 0 + 4 * h ∨ 0 + 4 * h + 4 ≤ 0 + 4 * k
    omega

/-- Link `h` is in state `v`, and the other links are in theirs. -/
def At (s t : State) (h v : Nat) : Prop := t.linkState h = v ∧ ∀ k, k < 8 → k ≠ h → t.linkState k = s.linkState k

theorem at_set {h v : Nat} (low : h < 8) (small : v < 16) : At s (s.setLinkState h v) h v :=
  ⟨linkState_set s low small, fun _ _ => linkState_set_ne s v low⟩

theorem At.congr {s t u : State} {h v : Nat} (held : At s t h v) (kept : u.reg .HEP_LINK_STATE 0 = t.reg .HEP_LINK_STATE 0) : At s u h v :=
  ⟨(linkState_congr kept).trans held.1, fun k low other => (linkState_congr kept).trans (held.2 k low other)⟩

theorem At.refl {s : State} {h v : Nat} (here : s.linkState h = v) : At s s h v := ⟨here, fun _ _ _ => rfl⟩

/-- Frame of an event of the host links. -/
theorem hepEvt_only (b : Nat) : s.OnlySignals (s.hepEvt b) := only_setEvt s ..

theorem reg_hepEvt {b : Nat} {r : Reg} (i : Nat) (other : r ≠ .HEP_DROP_CNT ∧ r ≠ .HEP_LINK_EVT) : (s.hepEvt b).reg r i = s.reg r i :=
  reg_setEvt_other s other

theorem event_hepEvt {b : Nat} (low : b < 64) : (s.hepEvt b).Event .HEP_LINK_EVT 0 b := event_setEvt s ⟨by decide, low⟩

theorem fns_hepEvt (b : Nat) : (s.hepEvt b).fns = s.fns := by
  have frame : s.hepEvt b = _ := hepEvt_only s b
  exact (congrArg State.fns frame :)

theorem links_hepEvt (b : Nat) : (s.hepEvt b).links = s.links := by
  have frame : s.hepEvt b = _ := hepEvt_only s b
  exact (congrArg State.links frame :)

/-! ### A reset of all functions of a link -/

theorem fn_resetFns_all (p : Nat → Bool) (f : Fn) : (s.resetFns p true).fn f = if p (fnKey f) = true then {} else s.fn f := by
  have map : (s.resetFns p true).fns = remade {} p (fun _ => {}) s.fns s.fns := by
    unfold resetFns
    simp only [if_true]
    rfl
  rw [fn, map]
  exact get_remade_self (one := fun _ => {}) (fun _ => rfl) rfl s.fns (fnKey f)

theorem keyLink_pf (h : Link) : s.keyLink (fnKey (.pf h)) = h.val := by
  have key : fnKey (.pf h) = 1 + h.val := rfl
  unfold keyLink
  rw [key, if_neg (by omega), if_pos (by omega)]
  omega

/-- A PF after the reset of its link. -/
def afresh (fundamental : Bool) (c : FnCfg) : FnCfg := if fundamental then {} else sticky c

/-- The functions and the secure-link protocols of a link with their reset values. -/
def lineFns (s : State) (h : Nat) (fundamental : Bool) : State :=
  let t := s.resetFns (fun k => s.keyLink k == h) fundamental
  { t with does := t.does.filter fun e => e.1 != h && !(e.1 == 8 && t.mgmtLink == h), ide := t.ide.filter (fun e => e.1 / 8 != h),
           ideKeys := t.ideKeys.filter (fun e => e.1 / 8 != h), ideRanges := t.ideRanges.filter fun e => e.1 / 96 != h }

/-- A link's reset where nothing of it is in progress. -/
def lineReset (s : State) (h : Nat) (fundamental : Bool) : State := ((lineFns s h fundamental).ptmReset h).setReg .HEP_LINK_INFO h 0

theorem lineFns_frame (h : Nat) (b : Bool) : (lineFns s h b).regs = s.regs ∧ (lineFns s h b).links = s.links ∧ (lineFns s h b).faces = s.faces ∧
    (lineFns s h b).tags = s.tags ∧ (lineFns s h b).walks = s.walks ∧ (lineFns s h b).stalled = s.stalled := by
  unfold lineFns
  dsimp only
  rw [resetFns_frame]
  exact ⟨rfl, rfl, rfl, rfl, rfl, rfl⟩

theorem fn_lineReset (h : Link) (b : Bool) : (lineReset s h.val b).fn (.pf h) = afresh b (s.fn (.pf h)) := by
  have own : (s.keyLink (fnKey (.pf h)) == h.val) = true := by rw [keyLink_pf, beq_self_eq_true]
  show (s.resetFns (fun k => s.keyLink k == h.val) b).fn (.pf h) = _
  cases b with
  | false => exact (fn_resetFns s _ _).trans (if_pos own)
  | true => exact (fn_resetFns_all s _ _).trans (if_pos own)

theorem reg_lineReset (h : Nat) (b : Bool) (i : Nat) {r : Reg} (other : r ≠ .TIM_PTM_STATUS ∧ r ≠ .HEP_LINK_INFO) :
    (lineReset s h b).reg r i = s.reg r i := by
  unfold lineReset ptmReset
  rw [reg_setReg_other _ other.2, reg_setFld_other _ other.1]
  exact reg_congr (lineFns_frame s h b).1 r i

theorem info_lineReset (h : Nat) (b : Bool) : (lineReset s h b).reg .HEP_LINK_INFO h = 0 := reg_setReg _ ..

/-- Nothing of link `h` is in progress. -/
def Quiet (s : State) (h : Nat) : Prop := (s.face h).count = 0 ∧ s.tags = [] ∧ s.walks = [] ∧ s.stalled = []

theorem retryStalled_none {s : State} (walks : s.walks = []) (stalled : s.stalled = []) : s.retryStalled = s := by
  unfold retryStalled
  rw [walks]
  show List.foldl runJob ({ ({ s with walks := [] } : State) with stalled := [] }) s.stalled = s
  rw [stalled]
  exact (congrArg₂ (fun w l => ({ s with walks := w, stalled := l } : State)) walks stalled).symm

theorem withTags_self {s : State} (keep : Nat × Tag → Bool) (none_ : s.tags = []) : ({ s with tags := s.tags.filter keep } : State) = s := by
  have same : s.tags.filter keep = s.tags := by
    rw [none_]
    rfl
  exact congrArg (fun l => ({ s with tags := l } : State)) same

theorem resetLink_quiet {s : State} {h : Nat} (quiet : Quiet s h) (b : Bool) : s.resetLink h b = lineReset s h b := by
  obtain ⟨spans, tags, walks, stalled⟩ := quiet
  obtain ⟨_, _, faces', tags', walks', stalled'⟩ := lineFns_frame s h b
  have none_ : (lineReset s h b).linkSpans h = [] := by
    refine linkSpans_none _ ?_
    show (SMap.get {} (lineFns s h b).faces h).count = 0
    rw [faces']
    exact spans
  have tags'' : (lineReset s h b).tags = [] := tags'.trans tags
  have walks'' : (lineReset s h b).walks = [] := walks'.trans walks
  have stalled'' : (lineReset s h b).stalled = [] := stalled'.trans stalled
  show (let t := lineReset s h b
    let l := t.linkSpans h
    let u := l.foldl resetReaches t
    let u := l.foldl cutJobs u
    let u := u.cutRequests (fun r => u.fnLink r.fn == h) .free
    let u : State := { u with tags := u.tags.filter fun e => e.1 / 16384 != h }
    l.foldl refreshDrained u.retryStalled) = _
  generalize lineReset s h b = t at *
  dsimp only
  rw [none_]
  show retryStalled _ = t
  rw [List.foldl_nil, List.foldl_nil, cutRequests_none t tags'', withTags_self _ tags'', retryStalled_none walks'' stalled'']

/-! ### A link leaves Up -/

/-- The state in which a link's reset begins. -/
def left (s : State) (h dst : Nat) : State := (s.setLinkState h dst).setLink h { (s.setLinkState h dst).link h with cfgReady := false }

theorem leaveUp_quiet {s : State} {h dst evt : Nat} {b : Bool} (quiet : Quiet s h) :
    s.leaveUp h dst evt b = (lineReset (left s h dst) h b).hepEvt (evt + h) := by
  have quiet' : Quiet (left s h dst) h := quiet
  exact congrArg (·.hepEvt (evt + h)) (resetLink_quiet quiet' b)

section
variable {s} {h : Link} {dst evt : Nat} {b : Bool}

theorem at_leaveUp (quiet : Quiet s h.val) (small : dst < 16) : At s (s.leaveUp h.val dst evt b) h.val dst := by
  rw [leaveUp_quiet quiet]
  refine (at_set s h.isLt small).congr ?_
  rw [reg_hepEvt _ _ (by decide), reg_lineReset _ _ _ _ (by decide)]
  rfl

theorem fn_leaveUp (quiet : Quiet s h.val) : (s.leaveUp h.val dst evt b).fn (.pf h) = afresh b (s.fn (.pf h)) := by
  rw [leaveUp_quiet quiet, fn, fns_hepEvt]
  exact fn_lineReset (left s h.val dst) h b

theorem cfgReady_leaveUp (quiet : Quiet s h.val) : ((s.leaveUp h.val dst evt b).link h.val).cfgReady = false := by
  have links : (s.leaveUp h.val dst evt b).links = (left s h.val dst).links := by
    rw [leaveUp_quiet quiet, links_hepEvt]
    exact (lineFns_frame (left s h.val dst) h.val b).2.1
  have own : (left s h.val dst).link h.val = { (s.setLinkState h.val dst).link h.val with cfgReady := false } := link_setLink (s.setLinkState h.val dst) ..
  rw [link, links]
  exact congrArg LinkSt.cfgReady own

theorem info_leaveUp (quiet : Quiet s h.val) : (s.leaveUp h.val dst evt b).reg .HEP_LINK_INFO h.val = 0 := by
  rw [leaveUp_quiet quiet, reg_hepEvt _ _ (by decide)]
  exact info_lineReset ..

theorem event_leaveUp (quiet : Quiet s h.val) (low : evt ≤ 48) : (s.leaveUp h.val dst evt b).Event .HEP_LINK_EVT 0 (evt + h.val) := by
  rw [leaveUp_quiet quiet]
  exact event_hepEvt _ (by omega)

/-! ### The link's events -/

theorem hotReset_resets (up : s.linkState h.val = 3) (quiet : Quiet s h.val) : ∃ t, exec (.hotReset h) s = .next t ∧ At s t h.val 2 ∧
    (t.link h.val).cfgReady = false ∧ t.fn (.pf h) = sticky (s.fn (.pf h)) ∧ t.reg .HEP_LINK_INFO h.val = 0 ∧ t.Event .HEP_LINK_EVT 0 (8 + h.val) :=
  ⟨_, congrArg Host.Outcome.next (if_pos up), at_leaveUp quiet (by decide), cfgReady_leaveUp quiet, fn_leaveUp quiet, info_leaveUp quiet,
    event_leaveUp quiet (by decide)⟩

theorem linkLost_resets (up : s.linkState h.val = 3) (quiet : Quiet s h.val) : ∃ t, exec (.linkLost h) s = .next t ∧ At s t h.val 2 ∧
    (t.link h.val).cfgReady = false ∧ t.fn (.pf h) = sticky (s.fn (.pf h)) ∧ t.Event .HEP_LINK_EVT 0 (16 + h.val) := by
  have ran : exec (.linkLost h) s = .next ((s.leaveUp h.val 2 16 false).raise 0x04 0x08 h.val) := congrArg Host.Outcome.next (if_pos up)
  have state := at_leaveUp (dst := 2) (evt := 16) (b := false) quiet (by decide)
  have shut := cfgReady_leaveUp (dst := 2) (evt := 16) (b := false) quiet
  have own := fn_leaveUp (dst := 2) (evt := 16) (b := false) quiet
  have told := event_leaveUp (dst := 2) (evt := 16) (b := false) quiet (by decide)
  generalize s.leaveUp h.val 2 16 false = u at *
  have frame : u.raise 0x04 0x08 h.val = _ := signals_raise u 0x04 0x08 h.val
  have calm := TimeUnit.calm_raise u 0x04 0x08 h.val
  have links : (u.raise 0x04 0x08 h.val).links = u.links := (congrArg State.links frame :)
  have fns : (u.raise 0x04 0x08 h.val).fns = u.fns := (congrArg State.fns frame :)
  refine ⟨_, ran, state.congr (calm.reg _ _ (by decide)), ?_, ?_, event_congr (calm.reg _ _ (by decide)) told⟩
  · rw [link, links]
    exact shut
  · rw [fn, fns]
    exact own

theorem perstAssert_up (up : s.linkState h.val = 3) (quiet : Quiet s h.val) : ∃ t, exec (.perstAssert h) s = .next t ∧ At s t h.val 1 ∧
    t.fn (.pf h) = {} ∧ t.Event .HEP_LINK_EVT 0 h.val := by
  have ran : exec (.perstAssert h) s = .next (((s.setLink h.val { s.link h.val with perst := true }).leaveUp h.val 1 0 true).setLink h.val {}) := by
    show execPerstAssert h s = _
    unfold execPerstAssert
    dsimp only
    rw [show (s.setLink h.val { s.link h.val with perst := true }).linkState h.val = 3 from up]
    rfl
  have quiet' : Quiet (s.setLink h.val { s.link h.val with perst := true }) h.val := quiet
  have state := at_leaveUp (dst := 1) (evt := 0) (b := true) quiet' (by decide)
  have own := fn_leaveUp (dst := 1) (evt := 0) (b := true) quiet'
  have told := event_leaveUp (dst := 1) (evt := 0) (b := true) quiet' (by decide)
  rw [Nat.zero_add] at told
  exact ⟨_, ran, state, own, told⟩

theorem perstAssert_training (trains : s.linkState h.val = 2) : ∃ t, exec (.perstAssert h) s = .next t ∧ At s t h.val 1 ∧ t.spans = s.spans ∧
    t.fns = s.fns := by
  have ran : exec (.perstAssert h) s = .next (((s.setLink h.val { s.link h.val with perst := true }).setLinkState h.val 1).setLink h.val {}) := by
    show execPerstAssert h s = _
    unfold execPerstAssert
    dsimp only
    rw [show (s.setLink h.val { s.link h.val with perst := true }).linkState h.val = 2 from trains]
    rfl
  exact ⟨_, ran, at_set (s.setLink h.val { s.link h.val with perst := true }) h.isLt (by decide), rfl, rfl⟩

theorem phyCalibrated_marks (trains : s.linkState h.val = 2) : ∃ t, exec (.phyCalibrated h) s = .next t ∧ t = { s with links := t.links } ∧
    t.link h.val = { s.link h.val with calibrated := true } :=
  ⟨_, congrArg Host.Outcome.next (if_pos trains), rfl, link_setLink ..⟩

theorem configReady_marks (up : s.linkState h.val = 3) : ∃ t, exec (.configReady h) s = .next t ∧ t = { s with links := t.links } ∧
    (t.link h.val).cfgReady = true :=
  ⟨_, congrArg Host.Outcome.next (if_pos up), rfl, congrArg LinkSt.cfgReady (link_setLink ..)⟩

theorem linkRecovery_none (up : s.linkState h.val = 3) : exec (.linkRecovery h none) s = .next s :=
  congrArg Host.Outcome.next (if_neg (not_not.2 up))

theorem linkRecovery_records (b : Fin 16) (up : s.linkState h.val = 3) : ∃ t, exec (.linkRecovery h (some b)) s = .next t ∧ At s t h.val 3 ∧
    (t.fn (.pf h)).aerCor = (s.fn (.pf h)).aerCor ||| (1 <<< b.val) ∧ (t.fn (.pf h)).aerUncor = (s.fn (.pf h)).aerUncor := by
  have ran : exec (.linkRecovery h (some b)) s = .next ((s.aerC (.pf h) b.val).raise 0x04 0x07 (h.val + 2 ^ 8 * b.val)) :=
    congrArg Host.Outcome.next (if_neg (not_not.2 up))
  have frame : s.aerC (.pf h) b.val = _ := Aer.aer_aerC s (.pf h) b.val
  have regs : (s.aerC (.pf h) b.val).regs = s.regs := (congrArg State.regs frame :)
  have own := Aer.fn_aerC s (.pf h) b.val
  generalize s.aerC (.pf h) b.val = u at *
  have raised : u.raise 0x04 0x07 (h.val + 2 ^ 8 * b.val) = _ := signals_raise u 0x04 0x07 (h.val + 2 ^ 8 * b.val)
  have fns : (u.raise 0x04 0x07 (h.val + 2 ^ 8 * b.val)).fns = u.fns := (congrArg State.fns raised :)
  have still := (TimeUnit.calm_raise u 0x04 0x07 (h.val + 2 ^ 8 * b.val)).reg .HEP_LINK_STATE 0 (by decide)
  have same : (u.raise 0x04 0x07 (h.val + 2 ^ 8 * b.val)).fn (.pf h) = u.fn (.pf h) := by rw [fn, fns]; rfl
  refine ⟨_, ran, (At.refl up).congr (still.trans (reg_congr regs ..)), ?_, ?_⟩
  · rw [same, own]
    rfl
  · rw [same, own]

theorem linkUp_comes (speed : Fin 8) (width : Fin 17) (flit : Bool) (trains : s.linkState h.val = 2) (ready : (s.link h.val).calibrated = true) :
    ∃ t, exec (.linkUp h speed width flit) s = .next t ∧ At s t h.val 3 ∧ getBits (t.reg .HEP_LINK_INFO h.val) 0 3 = speed.val ∧
      getBits (t.reg .HEP_LINK_INFO h.val) 4 5 = min width.val (s.linkLanes h.val) ∧
      getBits (t.reg .HEP_LINK_INFO h.val) 9 1 = (if flit = true ∨ 6 ≤ speed.val then 1 else 0) ∧ t.Event .HEP_LINK_EVT 0 (24 + h.val) ∧
      (t.link h.val).cfgReady = false := by
  let u := (s.setLinkState h.val 3).setLink h.val { (s.setLinkState h.val 3).link h.val with cfgReady := false }
  have ran : exec (.linkUp h speed width flit) s = .next ((u.setReg .HEP_LINK_INFO h.val
      (BitVec.ofNat 64 (speed.val + 16 * min width.val (s.linkLanes h.val) + 512 * b2n (flit || decide (6 ≤ speed.val))))).hepEvt (24 + h.val)) :=
    congrArg Host.Outcome.next (if_pos ⟨trains, ready⟩)
  have fits : min width.val (s.linkLanes h.val) < 32 := by omega
  have mode : b2n (flit || decide (6 ≤ speed.val)) = if flit = true ∨ 6 ≤ speed.val then 1 else 0 := by
    unfold b2n
    simp only [Bool.or_eq_true, decide_eq_true_eq]
  have one : b2n (flit || decide (6 ≤ speed.val)) ≤ 1 := by
    rw [mode]
    split <;> decide
  rw [← mode]
  generalize min width.val (s.linkLanes h.val) = lanes at *
  generalize b2n (flit || decide (6 ≤ speed.val)) = bit at *
  have info : ((u.setReg .HEP_LINK_INFO h.val (BitVec.ofNat 64 (speed.val + 16 * lanes + 512 * bit))).hepEvt (24 + h.val)).reg .HEP_LINK_INFO h.val =
      BitVec.ofNat 64 (speed.val + 16 * lanes + 512 * bit) := (reg_hepEvt _ _ (by decide)).trans (reg_setReg ..)
  refine ⟨_, ran, ?_, ?_, ?_, ?_, event_hepEvt _ (by omega), ?_⟩
  · refine (at_set s h.isLt (v := 3) (by decide)).congr ?_
    exact (reg_hepEvt _ _ (by decide)).trans (reg_setReg_other _ (by decide))
  · rw [info, Monitors.getBits_ofNat (by decide)]
    omega
  · rw [info, Monitors.getBits_ofNat (by decide)]
    omega
  · rw [info, Monitors.getBits_ofNat (by decide)]
    omega
  · rw [link, links_hepEvt]
    exact congrArg LinkSt.cfgReady (link_setLink (s.setLinkState h.val 3) h.val _)

/-! ### PERST_N released (R61, R85) -/

/-- The link as its training begins, its functions with their reset values. -/
def released (s : State) (h : Nat) : State :=
  ((s.setLink h { s.link h with perst := false }).setLinkState h 2).resetFns (fun k => s.keyLink k == h) true

theorem perstRelease_runs (held : s.linkState h.val = 1) (boots : s.dev ≠ .bootFailed) :
    exec (.perstRelease h) s = .next ((released s h.val).applyFace h.val) :=
  congrArg Host.Outcome.next (if_pos ⟨held, boots⟩)

theorem regs_released : (released s h.val).regs = (s.setLinkState h.val 2).regs := by
  unfold released
  rw [resetFns_frame]
  rfl

theorem at_released : At s (released s h.val) h.val 2 := (at_set s h.isLt (by decide)).congr (reg_congr regs_released ..)

theorem pending_released : (released s h.val).reg .CFG_HOST_PENDING 0 = s.reg .CFG_HOST_PENDING 0 :=
  (reg_congr regs_released ..).trans (reg_setFld_other s (f := F.HEP_LINK_STATE_STATE h.val) (show Reg.CFG_HOST_PENDING ≠ .HEP_LINK_STATE by decide))

theorem perstRelease_trains (held : s.linkState h.val = 1) (boots : s.dev ≠ .bootFailed) (idle : bitOf (s.reg .CFG_HOST_PENDING 0) h.val = false) :
    ∃ t, exec (.perstRelease h) s = .next t ∧ At s t h.val 2 ∧ (t.link h.val).perst = false ∧ t.fn (.pf h) = {} := by
  have still : (released s h.val).applyFace h.val = released s h.val := if_neg (by rw [pending_released, idle]; decide)
  refine ⟨_, (perstRelease_runs held boots).trans (congrArg Host.Outcome.next still), at_released, ?_, ?_⟩
  · have links : (released s h.val).links = (s.setLink h.val { s.link h.val with perst := false }).links := by
      unfold released
      rw [resetFns_frame]
      rfl
    rw [link, links]
    exact congrArg LinkSt.perst (link_setLink s ..)
  · exact (fn_resetFns_all _ _ _).trans (if_pos (by rw [keyLink_pf, beq_self_eq_true]))

end

/-- The Spans of two lists lose and gain the mark of a TDI. -/
def marked (s : State) (off on : List Nat) : State :=
  on.foldl (fun t n => t.setSpan n { t.span n with tdispCapable := true }) (off.foldl (fun t n => t.setSpan n { t.span n with tdispCapable := false }) s)

theorem marked_frame (off on : List Nat) : (marked s off on).regs = s.regs ∧ (marked s off on).faces = s.faces :=
  ⟨(Macs.foldl_keeps State.regs (by intros; rfl) _ _).trans (Macs.foldl_keeps State.regs (by intros; rfl) _ _),
    (Macs.foldl_keeps State.faces (by intros; rfl) _ _).trans (Macs.foldl_keeps State.faces (by intros; rfl) _ _)⟩

/-- The registers of a host-facing structure that takes effect. -/
def faced (s : State) (h : Nat) (f : HostFace) : State :=
  let t : State := { s with faces := SMap.put {} s.faces h f, facesNext := SMap.erase s.facesNext h }
  ((t.setReg .CFG_HOST_PENDING 0 (t.reg .CFG_HOST_PENDING 0 &&& ~~~((1 : Word) <<< h))).setFld F.HEP_LINK_SPAN_MAP_BASE h f.base).setFld
    F.HEP_LINK_SPAN_MAP_COUNT h f.count

/-- A waiting host-facing structure takes effect. -/
theorem applyFace_waiting {s : State} {h : Nat} (low : h < 64) (waits : bitOf (s.reg .CFG_HOST_PENDING 0) h = true) :
    (s.applyFace h).face h = SMap.get {} s.facesNext h ∧ bitOf ((s.applyFace h).reg .CFG_HOST_PENDING 0) h = false ∧
    (s.applyFace h).reg .HEP_LINK_STATE 0 = s.reg .HEP_LINK_STATE 0 := by
  have applied : s.applyFace h = marked (faced s h (SMap.get {} s.facesNext h)) (s.face h).tdisp (SMap.get {} s.facesNext h).tdisp := if_pos waits
  rw [applied]
  generalize SMap.get {} s.facesNext h = f
  obtain ⟨regs, faces⟩ := marked_frame (faced s h f) (s.face h).tdisp f.tdisp
  refine ⟨?_, ?_, ?_⟩
  · rw [face, faces]
    exact SMap.get_put_self ({} : HostFace) s.faces h f
  · rw [reg_congr regs, faced, reg_setFld_other _ (by decide), reg_setFld_other _ (by decide), reg_setReg]
    unfold bitOf
    rw [BitVec.getLsbD_and, BitVec.getLsbD_not, BitVec.getLsbD_shiftLeft]
    simp [low]
  · rw [reg_congr regs, faced, reg_setFld_other _ (by decide), reg_setFld_other _ (by decide), reg_setReg_other _ (by decide)]
    rfl

section
variable {s} {h : Link}

theorem perstRelease_applies (held : s.linkState h.val = 1) (boots : s.dev ≠ .bootFailed) (waits : bitOf (s.reg .CFG_HOST_PENDING 0) h.val = true) :
    ∃ t, exec (.perstRelease h) s = .next t ∧ At s t h.val 2 ∧ t.face h.val = SMap.get {} s.facesNext h.val ∧
      bitOf (t.reg .CFG_HOST_PENDING 0) h.val = false := by
  have low : h.val < 64 := by omega
  obtain ⟨applied, cleared, still⟩ := applyFace_waiting low (s := released s h.val) (by rw [pending_released]; exact waits)
  have next : (released s h.val).facesNext = s.facesNext := by
    unfold released
    rw [resetFns_frame]
    rfl
  rw [next] at applied
  exact ⟨_, perstRelease_runs held boots, at_released.congr still, applied, cleared⟩

/-- An event that needs a link that is Up finds one that is not. -/
theorem idle_down {b : Fin 16} (down : s.linkState h.val ≠ 3) : exec (.hotReset h) s = .next s ∧ exec (.linkLost h) s = .next s ∧
    exec (.configReady h) s = .next s ∧ exec (.linkRecovery h (some b)) s = .next s :=
  ⟨congrArg Host.Outcome.next (if_neg down), congrArg Host.Outcome.next (if_neg down), congrArg Host.Outcome.next (if_neg down),
    congrArg Host.Outcome.next (if_pos down)⟩

end

/-- Settles O35: each event by the state of its link; a reset of a link without Spans and requests is that of its functions and registers. -/
theorem hostLinkEvents : Obligations.HostLinkEvents := by
  unfold Obligations.HostLinkEvents
  intro s h speed width flit b
  exact ⟨phyCalibrated_marks, linkUp_comes speed width flit, configReady_marks, linkRecovery_none, linkRecovery_records b, hotReset_resets,
    linkLost_resets, perstAssert_up, perstAssert_training, perstRelease_trains, perstRelease_applies, idle_down⟩

end Sys2Proof.Machine.HostLinks
end

section
/-!
PROOFS. Completions, timeouts, quarantine and errors of the host links (R89–R94, R100, R101, R104).
-/

namespace Sys2Proof.Machine.HostErrors
open State Fields Frames Functions HostLinks Aer

variable (s : State)

/-! ### Reports of an error -/

/-- Nothing differs but registers and their held values, functions' records, and what leaves the device. -/
def Reports (s t : State) : Prop :=
  t = { s with regs := t.regs, shadow := t.shadow, fns := t.fns, msix := t.msix, msixWait := t.msixWait, out := t.out }

section
variable {s}

theorem Reports.trans {t u : State} (first : Reports s t) (then_ : Reports t u) : Reports s u := by
  refine Eq.trans then_ ?_
  rw [first]

theorem reports_aer {t : State} (h : AerOnly s t) : Reports s t := by
  refine Eq.trans h ?_
  rw [h]

theorem reports_signals {t : State} (h : Signals.SignalsOnly s t) : Reports s t := by
  refine Eq.trans h ?_
  rw [h]

theorem Reports.tags {t : State} (h : Reports s t) : t.tags = s.tags := by rw [h]
theorem Reports.queues {t : State} (h : Reports s t) : t.queues = s.queues := by rw [h]
theorem Reports.spans {t : State} (h : Reports s t) : t.spans = s.spans := by rw [h]
theorem Reports.ide {t : State} (h : Reports s t) : t.ide = s.ide := by rw [h]
theorem Reports.walks {t : State} (h : Reports s t) : t.walks = s.walks := by rw [h]
theorem Reports.stalled {t : State} (h : Reports s t) : t.stalled = s.stalled := by rw [h]
theorem Reports.atsWait {t : State} (h : Reports s t) : t.atsWait = s.atsWait := by rw [h]
theorem Reports.invals {t : State} (h : Reports s t) : t.invals = s.invals := by rw [h]

end

theorem reports_raise (source code detail : Nat) : Reports s (s.raise source code detail) :=
  reports_signals (Signals.signals_raise ..)

theorem fns_raise (source code detail : Nat) : (s.raise source code detail).fns = s.fns := by
  have frame : s.raise source code detail = _ := Signals.signals_raise s source code detail
  exact (congrArg State.fns frame :)

theorem fn_raise (source code detail : Nat) (f : Fn) : (s.raise source code detail).fn f = s.fn f := by
  rw [fn, fns_raise]
  rfl

theorem fld_raise {f : Fld} (source code detail i : Nat) (apart : f.reg ∉ TimeUnit.captureRegs) : (s.raise source code detail).fld f i = s.fld f i := by
  rw [fld, (TimeUnit.calm_raise s source code detail).reg _ _ apart]
  rfl

theorem regs_aerU (f : Fn) (bit : Nat) : (s.aerU f bit).regs = s.regs := by
  have frame : s.aerU f bit = _ := aer_aerU s f bit
  exact (congrArg State.regs frame :)

theorem regs_aerAdv (f : Fn) (bit : Nat) : (s.aerAdv f bit).regs = s.regs := by
  have frame : s.aerAdv f bit = _ := aer_aerAdv s f bit
  exact (congrArg State.regs frame :)

theorem reports_bump (f : Fld) (i k : Nat) : Reports s (s.bump f i k) := rfl

theorem reports_refl : Reports s s := rfl

theorem reports_setReg (r : Reg) (i : Nat) (w : Word) : Reports s (s.setReg r i w) := rfl

theorem reports_toCapture (f : Fn) (tag : Nat) : Reports s (s.toCapture f tag) := by
  unfold toCapture
  split
  · exact reports_refl s
  · exact reports_setReg ..

/-! ### Completions that nothing waits for, and poison -/

theorem reports_strayCpl (h : Link) (t code : Nat) : Reports s (s.strayCpl h t code) :=
  (reports_aer (aer_aerAdv s (.pf h) 16)).trans (reports_raise ..)

theorem uncor_strayCpl (h : Link) (t code : Nat) : ((s.strayCpl h t code).fn (.pf h)).aerUncor.getLsbD 16 = true := by
  rw [strayCpl, fn_raise, uncor_aerAdv]
  exact getLsbD_status _ (by decide)

/-- An error of a severity that is not fatal is advisory. -/
theorem cor_strayCpl (h : Link) (t code : Nat) (mild : (s.fn (.pf h)).aerSev.getLsbD 16 = false) :
    ((s.strayCpl h t code).fn (.pf h)).aerCor.getLsbD 13 = true := by
  have advisory : s.aerAdv (.pf h) 16 = (s.setFn (.pf h) { s.fn (.pf h) with aerUncor := (s.fn (.pf h)).aerUncor ||| ((1 : BitVec 32) <<< 16) }).aerC
      (.pf h) 13 := if_neg (by rw [mild]; decide)
  rw [strayCpl, fn_raise, advisory, fn_aerC]
  exact getLsbD_status _ (by decide)

theorem fld_strayCpl {f : Fld} (h : Link) (t code i : Nat) (apart : f.reg ∉ TimeUnit.captureRegs) : (s.strayCpl h t code).fld f i = s.fld f i := by
  rw [strayCpl, fld_raise _ _ _ _ _ apart]
  exact fld_congr (regs_aerAdv ..) f i

theorem reports_poisonIn (f : Fn) : Reports s (s.poisonIn f) :=
  ((reports_bump s F.HEP_POISON_CNT_IN 0 1).trans (reports_aer (aer_aerAdv _ f 12))).trans (reports_raise ..)

theorem uncor_poisonIn (f : Fn) : ((s.poisonIn f).fn f).aerUncor.getLsbD 12 = true := by
  rw [poisonIn, fn_raise, uncor_aerAdv]
  exact getLsbD_status _ (by decide)

theorem count_poisonIn (f : Fn) : (s.poisonIn f).fld F.HEP_POISON_CNT_IN 0 = min (s.fld F.HEP_POISON_CNT_IN 0 + 1) 0xFFFFFFFF := by
  rw [poisonIn, fld_raise _ _ _ _ _ (by decide), fld_congr (regs_aerAdv ..)]
  exact fld_bump_self s (by decide)

/-! ### A request that times out -/

theorem reports_timedOut (f : Fn) (tag : Nat) : Reports s (s.timedOut f tag) :=
  (((reports_bump s F.HEP_CPL_TO_CNT_COUNT 0 1).trans (reports_toCapture ..)).trans (reports_aer (aer_aerU _ f 14))).trans (reports_raise ..)

theorem uncor_timedOut (f : Fn) (tag : Nat) : ((s.timedOut f tag).fn f).aerUncor.getLsbD 14 = true := by
  rw [timedOut, fn_raise, fn_aerU]
  exact getLsbD_status _ (by decide)

theorem count_timedOut (f : Fn) (tag : Nat) : (s.timedOut f tag).fld F.HEP_CPL_TO_CNT_COUNT 0 = min (s.fld F.HEP_CPL_TO_CNT_COUNT 0 + 1) 0xFFFFFFFF := by
  have kept (u : State) : (u.toCapture f tag).fld F.HEP_CPL_TO_CNT_COUNT 0 = u.fld F.HEP_CPL_TO_CNT_COUNT 0 := by
    unfold toCapture
    split
    · rfl
    · exact fld_setReg_other u (by decide)
  rw [timedOut, fld_raise _ _ _ _ _ (by decide), fld_congr (regs_aerU ..), kept]
  exact fld_bump_self s (by decide)

/-! ### Tags -/

/-- Tag `k` of link `h` holds `x`, and the others hold what they held. -/
def OneTag (s t : State) (h k : Nat) (x : Tag) : Prop :=
  t.tag h k = x ∧ ∀ h' k', h' < 8 → k' < 16384 → ¬(h' = h ∧ k' = k) → t.tag h' k' = s.tag h' k'

theorem oneTag_put {s t : State} {h k : Nat} {x : Tag} (small : k < 16384) (put : t.tags = SMap.put .free s.tags (16384 * h + k) x) : OneTag s t h k x := by
  refine ⟨?_, fun h' k' _ small' other => ?_⟩
  · rw [tag, put]
    exact SMap.get_put_self Tag.free s.tags (16384 * h + k) x
  · rw [tag, tag, put]
    exact SMap.get_put_ne _ _ _ _ (by omega)

section
variable {s}

theorem forgetTag_idle (ats : s.atsWait = []) (invals : s.invals = []) (key : Nat) : s.forgetTag key = s := by
  unfold forgetTag
  dsimp only
  rw [ats, invals]
  exact (congrArg₂ (fun a v => ({ s with atsWait := a, invals := v } : State)) ats invals).symm

theorem endTag_idle (ats : s.atsWait = []) (invals : s.invals = []) (key : Nat) (x : Tag) :
    s.endTag key x = { s with tags := SMap.put .free s.tags key x } :=
  forgetTag_idle (s := { s with tags := SMap.put .free s.tags key x }) ats invals key

theorem walkData_none (walks : s.walks = []) (key : Nat) (bs : List Byte) (bad : Bool) : s.walkData key bs bad = s := by
  unfold walkData
  rw [walks]
  rfl

theorem walkTagFail_none (walks : s.walks = []) (key code : Nat) : s.walkTagFail key code = s := by
  unfold walkTagFail
  rw [walks]
  rfl

theorem refreshOpt_idle {o : Option Nat} (busy : ∀ n, o = some n → (s.span n).state ≠ .quiescing) : s.refreshOpt o = s := by
  cases o with
  | none => rfl
  | some n => exact if_pos (busy n rfl)

/-! ### The completion of a read -/

variable {h : Link} {k : Fin 16384} {r : HostReq} {data : List Byte}

/-- The request after some of its data. -/
def fed (r : HostReq) (data : List Byte) (poisoned : Bool) : HostReq := { r with recv := r.recv ++ data, bad := r.bad || poisoned }

/-- A completion that a request on a link that is Up waits for. -/
theorem completion_taken {poisoned : Bool} (up : s.linkUp h.val = true) (open_ : s.ideDrops r.fn = false) (mine : s.tag h.val k.val = .outstanding r) :
    exec (.completionReceived h k poisoned data) s = .next (
      let u := if poisoned then s.poisonIn r.fn else s
      if (r.recv ++ data).length < r.len then u.setTag h.val k.val (.outstanding (fed r data poisoned))
      else ((((u.endTag (16384 * h.val + k.val) .free).walkData (16384 * h.val + k.val) (r.recv ++ data) (r.bad || poisoned)).deliver
        (fed r data poisoned) ((r.recv ++ data).take r.len) (r.bad || poisoned)).retryStalled).refreshOpt r.span) := by
  show execCompletionReceived h k poisoned data s = _
  unfold execCompletionReceived
  rw [up, mine]
  exact congrArg Host.Outcome.next ((if_neg (by decide)).trans (if_neg (show ¬s.ideDrops r.fn = true by rw [open_]; decide)))

theorem completion_more (up : s.linkUp h.val = true) (open_ : s.ideDrops r.fn = false) (mine : s.tag h.val k.val = .outstanding r)
    (more : (r.recv ++ data).length < r.len) : ∃ t, exec (.completionReceived h k false data) s = .next t ∧
      OneTag s t h.val k.val (.outstanding { r with recv := r.recv ++ data }) ∧ t = { s with tags := t.tags } := by
  have same : fed r data false = { r with recv := r.recv ++ data } := by
    unfold fed
    rw [Bool.or_false]
  refine ⟨_, (completion_taken up open_ mine).trans (congrArg Host.Outcome.next (if_pos more)), ?_, rfl⟩
  rw [same]
  exact oneTag_put k.isLt rfl

theorem completion_more_poisoned (up : s.linkUp h.val = true) (open_ : s.ideDrops r.fn = false) (mine : s.tag h.val k.val = .outstanding r)
    (more : (r.recv ++ data).length < r.len) : ∃ t, exec (.completionReceived h k true data) s = .next t ∧
      (t.fld F.HEP_POISON_CNT_IN 0 = min (s.fld F.HEP_POISON_CNT_IN 0 + 1) 0xFFFFFFFF ∧ (t.fn r.fn).aerUncor.getLsbD 12 = true) ∧
      OneTag s t h.val k.val (.outstanding { r with recv := r.recv ++ data, bad := true }) ∧ t.queues = s.queues := by
  have same : fed r data true = { r with recv := r.recv ++ data, bad := true } := by
    unfold fed
    rw [Bool.or_true]
  have frame := reports_poisonIn s r.fn
  have count := count_poisonIn s r.fn
  have noted := uncor_poisonIn s r.fn
  have ran : exec (.completionReceived h k true data) s = .next ((s.poisonIn r.fn).setTag h.val k.val (.outstanding (fed r data true))) :=
    (completion_taken up open_ mine).trans (congrArg Host.Outcome.next (if_pos more))
  rw [same] at ran
  generalize s.poisonIn r.fn = u at *
  refine ⟨_, ran, ⟨count, noted⟩, oneTag_put k.isLt ?_, frame.queues⟩
  exact congrArg (fun m => SMap.put Tag.free m (16384 * h.val + k.val) (.outstanding { r with recv := r.recv ++ data, bad := true })) frame.tags

/-- Nothing else waits for the request or its Span. -/
def Alone (s : State) (r : HostReq) : Prop :=
  (∀ n, r.span = some n → (s.span n).state ≠ .quiescing) ∧ s.walks = [] ∧ s.stalled = [] ∧ s.atsWait = [] ∧ s.invals = []

theorem Reports.alone {t : State} (frame : Reports s t) (alone : Alone s r) : Alone t r := by
  obtain ⟨busy, walks, stalled, ats, invals⟩ := alone
  refine ⟨fun n eq => ?_, frame.walks.trans walks, frame.stalled.trans stalled, frame.atsWait.trans ats, frame.invals.trans invals⟩
  rw [State.span, frame.spans]
  exact busy n eq

/-- The read's last bytes reach its entry. -/
def delivered (u : State) (key q : Nat) (cell : BitVec 16) (r : HostReq) (bs : List Byte) (bad : Bool) : State :=
  State.withBegun { u with tags := SMap.put .free u.tags key .free } q cell fun b =>
    { b with parts := b.parts - 1, data := b.data ++ [(r.part, bs)], bad := b.bad || bad }

theorem last_delivers {q : Nat} {cell : BitVec 16} {el : Nat} {bad : Bool} (alone : Alone s r) (dep : r.dep = .data q cell el) (key : Nat) (x : HostReq)
    (dep' : x.dep = r.dep) (len : x.len = r.len) (part : x.part = r.part) (bs : List Byte) :
    ((((s.endTag key .free).walkData key bs bad).deliver x (bs.take r.len) bad).retryStalled).refreshOpt r.span =
      delivered s key q cell r (bs.take r.len) bad := by
  obtain ⟨busy, walks, stalled, ats, invals⟩ := alone
  have data : ({ s with tags := SMap.put .free s.tags key .free } : State).deliver x (bs.take r.len) bad = delivered s key q cell r (bs.take r.len) bad := by
    unfold deliver
    rw [dep', dep]
    show entryData _ q cell x.part ((bs.take r.len).take x.len) bad = _
    rw [part, len, List.take_take, Nat.min_self]
    rfl
  rw [endTag_idle ats invals, walkData_none (s := { s with tags := SMap.put .free s.tags key .free }) walks, data,
    retryStalled_none (s := delivered s key q cell r (bs.take r.len) bad) walks stalled]
  exact refreshOpt_idle busy

theorem begun_delivered (u : State) (key q : Nat) (cell : BitVec 16) (x : HostReq) (bs : List Byte) (bad : Bool) :
    ((delivered u key q cell x bs bad).queue q).begun = (u.queue q).begun.map fun b => if b.entry.cell = cell then
      { b with parts := b.parts - 1, data := b.data ++ [(x.part, bs)], bad := b.bad || bad } else b :=
  congrArg Queue.begun (queue_setQueue ..)

theorem completion_last {q : Nat} {cell : BitVec 16} {el : Nat} (up : s.linkUp h.val = true) (open_ : s.ideDrops r.fn = false)
    (mine : s.tag h.val k.val = .outstanding r) (alone : Alone s r) (dep : r.dep = .data q cell el) (all : r.len ≤ (r.recv ++ data).length) :
    ∃ t, exec (.completionReceived h k false data) s = .next t ∧ OneTag s t h.val k.val .free ∧ t = { s with tags := t.tags, queues := t.queues } ∧
      (t.queue q).begun = (s.queue q).begun.map fun b => if b.entry.cell = cell then
        { b with parts := b.parts - 1, data := b.data ++ [(r.part, (r.recv ++ data).take r.len)], bad := b.bad || r.bad } else b := by
  have ran := (completion_taken (data := data) (poisoned := false) up open_ mine).trans (congrArg Host.Outcome.next
    ((if_neg (Nat.not_lt.2 all)).trans (last_delivers alone dep _ (fed r data false) rfl rfl rfl (r.recv ++ data))))
  rw [Bool.or_false] at ran
  exact ⟨_, ran, oneTag_put k.isLt rfl, rfl, begun_delivered ..⟩

theorem completion_last_poisoned {q : Nat} {cell : BitVec 16} {el : Nat} (up : s.linkUp h.val = true) (open_ : s.ideDrops r.fn = false)
    (mine : s.tag h.val k.val = .outstanding r) (alone : Alone s r) (dep : r.dep = .data q cell el) (all : r.len ≤ (r.recv ++ data).length) :
    ∃ t, exec (.completionReceived h k true data) s = .next t ∧
      (t.fld F.HEP_POISON_CNT_IN 0 = min (s.fld F.HEP_POISON_CNT_IN 0 + 1) 0xFFFFFFFF ∧ (t.fn r.fn).aerUncor.getLsbD 12 = true) ∧
      OneTag s t h.val k.val .free ∧
      (t.queue q).begun = (s.queue q).begun.map fun b => if b.entry.cell = cell then
        { b with parts := b.parts - 1, data := b.data ++ [(r.part, (r.recv ++ data).take r.len)], bad := true } else b := by
  have frame := reports_poisonIn s r.fn
  have count := count_poisonIn s r.fn
  have noted := uncor_poisonIn s r.fn
  have ran := (completion_taken (data := data) (poisoned := true) up open_ mine).trans (congrArg Host.Outcome.next
    ((if_neg (Nat.not_lt.2 all)).trans (last_delivers (frame.alone alone) dep _ (fed r data true) rfl rfl rfl (r.recv ++ data))))
  rw [Bool.or_true] at ran
  generalize s.poisonIn r.fn = u at *
  refine ⟨_, ran, ⟨count, noted⟩, oneTag_put k.isLt (congrArg (fun m => SMap.put Tag.free m (16384 * h.val + k.val) .free) frame.tags), ?_⟩
  rw [begun_delivered, State.queue, State.queue, frame.queues]
  simp only [Bool.or_true]

/-- A completion that no request waits for. -/
theorem completion_stray (up : s.linkUp h.val = true) (open_ : s.ideDrops (.pf h) = false)
    (nobody : s.tag h.val k.val = .free ∨ s.tag h.val k.val = .quarantined) : ∃ t, exec (.completionReceived h k false data) s = .next t ∧
      t.tags = s.tags ∧ (t.fn (.pf h)).aerUncor.getLsbD 16 = true ∧
      ((s.fn (.pf h)).aerSev.getLsbD 16 = false → (t.fn (.pf h)).aerCor.getLsbD 13 = true) ∧
      (s.tag h.val k.val = .quarantined → t.fld F.HEP_LATE_CPL_COUNT 0 = min (s.fld F.HEP_LATE_CPL_COUNT 0 + 1) 0xFFFFFFFF) := by
  rcases nobody with free | late
  · have ran : exec (.completionReceived h k false data) s = .next (s.strayCpl h k.val 0x03) := by
      show execCompletionReceived h k false data s = _
      unfold execCompletionReceived
      rw [up, free]
      dsimp only
      rw [open_]
      rfl
    refine ⟨_, ran, (reports_strayCpl ..).tags, uncor_strayCpl .., cor_strayCpl s h _ _, fun late => ?_⟩
    rw [free] at late
    cases late
  · have ran : exec (.completionReceived h k false data) s = .next ((s.bump F.HEP_LATE_CPL_COUNT 0).strayCpl h k.val 0x02) := by
      show execCompletionReceived h k false data s = _
      unfold execCompletionReceived
      rw [up, late]
      dsimp only
      rw [open_]
      rfl
    refine ⟨_, ran, (reports_strayCpl (s.bump F.HEP_LATE_CPL_COUNT 0) ..).tags, uncor_strayCpl .., cor_strayCpl (s.bump F.HEP_LATE_CPL_COUNT 0) h _ _,
      fun _ => ?_⟩
    rw [fld_strayCpl _ _ _ _ _ (by decide)]
    exact fld_bump_self s (by decide)

theorem completion_down {poisoned : Bool} (down : s.linkUp h.val = false) : exec (.completionReceived h k poisoned data) s = .next s :=
  congrArg Host.Outcome.next (if_pos (by rw [down]; rfl))

theorem completion_insecure {poisoned : Bool} (mine : s.tag h.val k.val = .outstanding r) (shut : s.ideDrops r.fn = true) :
    exec (.completionReceived h k poisoned data) s = .next s := by
  cases up : s.linkUp h.val with
  | false => exact completion_down up
  | true =>
    show execCompletionReceived h k poisoned data s = _
    unfold execCompletionReceived
    rw [up, mine]
    exact congrArg Host.Outcome.next ((if_neg (by decide)).trans (if_pos (show s.ideDrops r.fn = true from shut)))

end

/-! ### Frames whose entry has been issued -/

/-- Nothing differs but the Piers' inputs and what the buffer pool changes when it takes buffers back. -/
structure Clears (s t : State) : Prop where
  only : t = { s with regs := t.regs, shadow := t.shadow, recs := t.recs, msix := t.msix, msixWait := t.msixWait, out := t.out, rxIn := t.rxIn }
  reg : ∀ r i, r ∉ Pool.poolRegs → t.reg r i = s.reg r i

section
variable {s}

theorem Clears.trans {t u : State} (first : Clears s t) (then_ : Clears t u) : Clears s u where
  only := by
    refine Eq.trans then_.only ?_
    rw [first.only]
  reg r i other := (then_.reg r i other).trans (first.reg r i other)

theorem Clears.refl (s : State) : Clears s s := ⟨rfl, fun _ _ _ => rfl⟩

theorem Clears.of_takes {t : State} (h : Pool.Takes s t) : Clears s t := by
  refine ⟨?_, h.reg⟩
  have only := h.only
  refine Eq.trans only ?_
  rw [only]

theorem Clears.tags {t : State} (h : Clears s t) : t.tags = s.tags := by rw [h.only]
theorem Clears.queues {t : State} (h : Clears s t) : t.queues = s.queues := by rw [h.only]
theorem Clears.fns {t : State} (h : Clears s t) : t.fns = s.fns := by rw [h.only]
theorem Clears.spans {t : State} (h : Clears s t) : t.spans = s.spans := by rw [h.only]

end

theorem clears_foldl {A : Type} {f : State → A → State} (step : ∀ u a, Clears u (f u a)) (l : List A) : Clears s (l.foldl f s) := by
  induction l generalizing s with
  | nil => exact Clears.refl s
  | cons a l ih => exact (step s a).trans (ih (f s a))

theorem clears_setRx (p : Nat) (l : List Pkt) : Clears s (s.setRx p l) := ⟨rfl, fun _ _ _ => rfl⟩

theorem clears_rxIssued (q : Nat) (cell : BitVec 16) : Clears s (s.rxIssued q cell) := by
  rw [ReceivedFrames.rxIssued_eq]
  split
  · exact Clears.refl s
  · exact clears_foldl s (fun u p => (clears_setRx u p _).trans (clears_foldl _ (fun v (f : Pkt) => .of_takes (Pool.takes_releaseOpt v f.head)) _)) _

/-! ### Timeouts and the end of a quarantine -/

section
variable {s} {h : Link} {k : Fin 16384} {r : HostReq}

/-- An entry whose read fails with a code. -/
def failed (u : State) (key q : Nat) (cell : BitVec 16) : State :=
  (State.withBegun { u with tags := SMap.put .free u.tags key .quarantined } q cell fun b =>
    { b with causes := b.causes ++ [4], parts := b.parts - 1 })

theorem failed_frame (u : State) (key q : Nat) (cell : BitVec 16) :
    (failed u key q cell).tags = SMap.put .free u.tags key .quarantined ∧ (failed u key q cell).fns = u.fns ∧ (failed u key q cell).regs = u.regs ∧
    (failed u key q cell).spans = u.spans ∧
    ((failed u key q cell).queue q).begun = (u.queue q).begun.map fun b => if b.entry.cell = cell then
      { b with causes := b.causes ++ [4], parts := b.parts - 1 } else b :=
  ⟨rfl, rfl, rfl, rfl, congrArg Queue.begun (queue_setQueue ..)⟩

theorem timeout_fails {q : Nat} {cell : BitVec 16} {el : Nat} (mine : s.tag h.val k.val = .outstanding r) (alone : Alone s r)
    (dep : r.dep = .data q cell el) : ∃ t, exec (.cplTimeout h k) s = .next t ∧ OneTag s t h.val k.val .quarantined ∧
      (t.fn r.fn).aerUncor.getLsbD 14 = true ∧ t.fld F.HEP_CPL_TO_CNT_COUNT 0 = min (s.fld F.HEP_CPL_TO_CNT_COUNT 0 + 1) 0xFFFFFFFF ∧
      (t.queue q).begun = (s.queue q).begun.map fun b => if b.entry.cell = cell then
        { b with causes := b.causes ++ [4], parts := b.parts - 1 } else b := by
  have frame := reports_timedOut s r.fn k.val
  have noted := uncor_timedOut s r.fn k.val
  have count := count_timedOut s r.fn k.val
  have ran : exec (.cplTimeout h k) s = .next ((((((s.timedOut r.fn k.val).endTag (16384 * h.val + k.val) .quarantined).walkTagFail
      (16384 * h.val + k.val) 4)).depFail r.dep 4 1).refreshOpt r.span) := by
    show execCplTimeout h k s = _
    unfold execCplTimeout
    rw [mine]
  obtain ⟨busy, walks, stalled, ats, invals⟩ := frame.alone alone
  generalize s.timedOut r.fn k.val = u at *
  have gone : (((u.endTag (16384 * h.val + k.val) .quarantined).walkTagFail (16384 * h.val + k.val) 4)).depFail r.dep 4 1 =
      (failed u (16384 * h.val + k.val) q cell).rxIssued q cell := by
    rw [endTag_idle ats invals, walkTagFail_none (s := { u with tags := SMap.put .free u.tags (16384 * h.val + k.val) .quarantined }) walks, dep]
    rfl
  obtain ⟨tags, fns, regs, spans, begun⟩ := failed_frame u (16384 * h.val + k.val) q cell
  have cleared := clears_rxIssued (failed u (16384 * h.val + k.val) q cell) q cell
  rw [gone] at ran
  generalize failed u (16384 * h.val + k.val) q cell = v at *
  have still : (v.rxIssued q cell).refreshOpt r.span = v.rxIssued q cell := by
    refine refreshOpt_idle fun n eq => ?_
    rw [State.span, cleared.spans, spans]
    exact busy n eq
  rw [still] at ran
  refine ⟨_, ran, oneTag_put k.isLt ?_, ?_, ?_, ?_⟩
  · rw [cleared.tags, tags, frame.tags]
  · rw [fn, cleared.fns, fns]
    exact noted
  · rw [fld, cleared.reg _ _ (by decide), reg_congr regs]
    exact count
  · rw [State.queue, cleared.queues]
    exact begun.trans (congrArg (fun m => (SMap.get {} m q : Queue).begun.map fun b => if b.entry.cell = cell then
      { b with causes := b.causes ++ [4], parts := b.parts - 1 } else b) frame.queues)

theorem timeout_idle (nobody : ∀ r, s.tag h.val k.val ≠ .outstanding r) : exec (.cplTimeout h k) s = .next s := by
  show execCplTimeout h k s = _
  unfold execCplTimeout
  cases held : s.tag h.val k.val with
  | outstanding r => exact absurd held (nobody r)
  | free => rfl
  | quarantined => rfl

theorem expire_frees (late : s.tag h.val k.val = .quarantined) (walks : s.walks = []) (stalled : s.stalled = []) :
    ∃ t, exec (.tagQuarantineExpire h k) s = .next t ∧ t = { s with tags := t.tags } ∧ OneTag s t h.val k.val .free := by
  refine ⟨s.setTag h.val k.val .free, ?_, rfl, oneTag_put k.isLt rfl⟩
  show execTagQuarantineExpire h k s = _
  unfold execTagQuarantineExpire
  rw [late]
  exact congrArg Host.Outcome.next (retryStalled_none (s := s.setTag h.val k.val .free) walks stalled)

theorem expire_idle (other : s.tag h.val k.val ≠ .quarantined) : exec (.tagQuarantineExpire h k) s = .next s := by
  show execTagQuarantineExpire h k s = _
  unfold execTagQuarantineExpire
  cases held : s.tag h.val k.val with
  | outstanding r => rfl
  | free => rfl
  | quarantined => exact absurd held other

/-! ### Malformed TLPs -/

theorem malformed_noted {f : Fn} (up : s.linkUp (s.fnLink f) = true) (open_ : s.ideDrops f = false) : ∃ t, exec (.malformedTlp f) s = .next t ∧
    (t.fn f).aerUncor.getLsbD 18 = true ∧ t.tags = s.tags ∧ t.queues = s.queues ∧ s.SameMemory t := by
  have ran : exec (.malformedTlp f) s = .next ((s.aerU f 18).raise 0x04 0x05 (s.fnLink f)) := by
    refine congrArg Host.Outcome.next (if_pos ?_)
    rw [up, open_]
    rfl
  have frame : Reports s ((s.aerU f 18).raise 0x04 0x05 (s.fnLink f)) := (reports_aer (aer_aerU s f 18)).trans (reports_raise ..)
  have noted : (((s.aerU f 18).raise 0x04 0x05 (s.fnLink f)).fn f).aerUncor.getLsbD 18 = true := by
    rw [fn_raise, fn_aerU]
    exact getLsbD_status _ (by decide)
  refine ⟨_, ran, noted, frame.tags, frame.queues, MemoryFrame.sameMemory_iff.2 ?_⟩
  rw [frame]
  rfl

theorem malformed_shut {f : Fn} (shut : s.linkUp (s.fnLink f) = false ∨ s.ideDrops f = true) : exec (.malformedTlp f) s = .next s := by
  refine congrArg Host.Outcome.next (if_neg ?_)
  rcases shut with down | drops
  · rw [down, Bool.false_and]
    decide
  · rw [drops, Bool.not_true, Bool.and_false]
    decide

end

/-! ### An IDE stream that fails (R101, R104) -/

/-- Nothing differs but Spans, registers, and what an MSI-X vector changes. -/
def TdiOnly (s t : State) : Prop := t = { s with spans := t.spans, regs := t.regs, msix := t.msix, msixWait := t.msixWait, out := t.out }

section
variable {s}

theorem TdiOnly.trans {t u : State} (first : TdiOnly s t) (then_ : TdiOnly t u) : TdiOnly s u := by
  refine Eq.trans then_ ?_
  rw [first]

theorem TdiOnly.tags {t : State} (h : TdiOnly s t) : t.tags = s.tags := by rw [h]
theorem TdiOnly.ide {t : State} (h : TdiOnly s t) : t.ide = s.ide := by rw [h]

end

theorem tdi_setReg (r : Reg) (i : Nat) (w : Word) : TdiOnly s (s.setReg r i w) := rfl

theorem tdi_setSpan (n : Nat) (x : Span) : TdiOnly s (s.setSpan n x) := rfl

theorem tdi_mfVector (v : Nat) : TdiOnly s (s.mfVector v) := by
  unfold TdiOnly
  rw [mfVector_frame]

theorem spans_mfVector (v : Nat) : (s.mfVector v).spans = s.spans := by
  rw [mfVector_frame]

theorem tdi_tdispEvt (bit n : Nat) : TdiOnly s (s.tdispEvt bit n) :=
  ((tdi_setReg s .HEP_TDISP_EVT 0 _).trans (tdi_setReg _ .HEP_TDISP_EVT 0 _)).trans (tdi_mfVector ..)

theorem spans_tdispEvt (bit n : Nat) : (s.tdispEvt bit n).spans = s.spans := spans_mfVector ..

theorem tdi_tdiError (n : Nat) : TdiOnly s (s.tdiError n) := by
  unfold tdiError
  split
  · exact (tdi_setSpan ..).trans (tdi_tdispEvt ..)
  · rfl

theorem span_tdiError (n m : Nat) : (s.tdiError n).span m = if m = n ∧ s.tdiLocked n = true then { s.span n with tdi := .error } else s.span m := by
  unfold tdiError
  by_cases locked : s.tdiLocked n = true
  · have same (u : State) : (u.tdispEvt 1 n).span m = u.span m := by
      rw [State.span, spans_tdispEvt]
      rfl
    rw [if_pos locked, same]
    by_cases here : m = n
    · rw [if_pos ⟨here, locked⟩, here, span_setSpan]
    · rw [if_neg fun both => here both.1, span_setSpan_ne _ _ here]
  · rw [if_neg locked, if_neg fun both => locked both.2]

/-- A TDI in ERROR, or one that is locked. -/
def Bound (s : State) (n : Nat) : Prop := (s.span n).tdi = .error ∨ s.tdiLocked n = true

theorem error_kept (n m : Nat) (held : (s.span m).tdi = .error) : ((s.tdiError n).span m).tdi = .error := by
  rw [span_tdiError]
  split
  · rfl
  · exact held

theorem bound_errs (n : Nat) (bound : Bound s n) : ((s.tdiError n).span n).tdi = .error := by
  rcases bound with held | locked
  · exact error_kept s n n held
  · rw [span_tdiError, if_pos ⟨rfl, locked⟩]

theorem bound_kept (n m : Nat) (bound : Bound s m) : Bound (s.tdiError n) m := by
  by_cases here : m = n ∧ s.tdiLocked n = true
  · left
    rw [span_tdiError, if_pos here]
  · have same : (s.tdiError n).span m = s.span m := by rw [span_tdiError, if_neg here]
    unfold Bound tdiLocked
    rw [same]
    exact bound

/-- Every locked TDI of a list is in ERROR in the end. -/
theorem errors_of_mem {l : List Nat} {n : Nat} (bound : Bound s n) (mem : n ∈ l ∨ (s.span n).tdi = .error) :
    ((l.foldl tdiError s).span n).tdi = .error := by
  induction l generalizing s with
  | nil => exact mem.resolve_left List.not_mem_nil
  | cons m l ih =>
    refine ih (s.tdiError m) (bound_kept s m n bound) ?_
    rcases mem with named | held
    · rcases List.mem_cons.1 named with rfl | later
      · exact .inr (bound_errs s n bound)
      · exact .inl later
    · exact .inr (error_kept s m n held)

theorem tdi_foldl (l : List Nat) : TdiOnly s (l.foldl tdiError s) := by
  induction l generalizing s with
  | nil => rfl
  | cons n l ih => exact (tdi_tdiError s n).trans (ih (s.tdiError n))

theorem stream_congr {s t : State} (kept : t.ide = s.ide) (h i : Nat) : t.stream h i = s.stream h i := by
  rw [stream, kept]
  rfl

section
variable {s} {h : Link} {i : Fin 5}

theorem insecure_frame (s : State) (h i : Nat) : (s.insecure h i).ide = (s.setStream h i .insecure).ide ∧ (s.insecure h i).tags = s.tags :=
  ⟨(tdi_foldl (s.setStream h i .insecure) _).ide, (tdi_foldl (s.setStream h i .insecure) _).tags⟩

theorem error_insecure {n h i : Nat} (mem : n ∈ s.linkSpans h) (bound : (s.span n).stream = i) (locked : s.tdiLocked n = true) :
    ((s.insecure h i).span n).tdi = .error :=
  errors_of_mem (s.setStream h i .insecure) (.inr locked) (.inl (List.mem_filter.2 ⟨mem, beq_iff_eq.2 bound⟩))

theorem ideFail_shuts (secure : s.stream h.val i.val = .secure) : ∃ t, exec (.ideFail h i) s = .next t ∧ t.stream h.val i.val = .insecure ∧
    (t.fn (.pf h)).aerUncor.getLsbD 28 = true ∧ t.tags = s.tags ∧
    (∀ h' i', i' < 8 → ¬(h' = h.val ∧ i' = i.val) → t.stream h' i' = s.stream h' i') ∧
    ∀ n ∈ s.linkSpans h.val, (s.span n).stream = i.val → s.tdiLocked n = true → (t.span n).tdi = .error := by
  have ran : exec (.ideFail h i) s = .next (((s.insecure h.val i.val).aerU (.pf h) 28).raise 0x04 0x06 (h.val + 2 ^ 4 * i.val)) :=
    congrArg Host.Outcome.next (if_pos secure)
  obtain ⟨ide, tags⟩ := insecure_frame s h.val i.val
  have errs : ∀ n ∈ s.linkSpans h.val, (s.span n).stream = i.val → s.tdiLocked n = true → ((s.insecure h.val i.val).span n).tdi = .error :=
    fun _ => error_insecure
  generalize s.insecure h.val i.val = u at *
  have frame : Reports u ((u.aerU (.pf h) 28).raise 0x04 0x06 (h.val + 2 ^ 4 * i.val)) := (reports_aer (aer_aerU u (.pf h) 28)).trans (reports_raise ..)
  have noted : (((u.aerU (.pf h) 28).raise 0x04 0x06 (h.val + 2 ^ 4 * i.val)).fn (.pf h)).aerUncor.getLsbD 28 = true := by
    rw [fn_raise, fn_aerU]
    exact getLsbD_status _ (by decide)
  have streams := stream_congr (frame.ide.trans ide)
  refine ⟨_, ran, (streams ..).trans ?_, noted, frame.tags.trans tags, fun h' i' small other => (streams ..).trans ?_, fun n mem bound locked => ?_⟩
  · exact SMap.get_put_self IdeStream.none s.ide (State.ideKey h.val i.val) .insecure
  · have apart : State.ideKey h' i' ≠ State.ideKey h.val i.val := by
      unfold State.ideKey
      omega
    exact SMap.get_put_ne IdeStream.none IdeStream.none s.ide .insecure apart
  · rw [State.span, frame.spans]
    exact errs n mem bound locked

theorem ideFail_idle (other : s.stream h.val i.val ≠ .secure) : exec (.ideFail h i) s = .next s := congrArg Host.Outcome.next (if_neg other)

end

/-- Settles O37: what a completion finds under its tag, timeouts and the quarantine's end, malformed TLPs and streams that fail. -/
theorem completionsAndErrors : Obligations.CompletionsAndErrors := by
  unfold Obligations.CompletionsAndErrors
  intro s h k data f i r q cell el
  exact ⟨completion_more, completion_last, completion_more_poisoned, completion_last_poisoned, completion_stray, completion_down, completion_insecure,
    timeout_fails, timeout_idle, expire_frees, expire_idle, malformed_noted, malformed_shut, ideFail_shuts, ideFail_idle⟩

end Sys2Proof.Machine.HostErrors
end

section
/-!
PROOFS. A Pier's power-up while the Management Function's command ring holds a NOP that waited for it (R237, R240, R497).
-/

namespace Sys2Proof.Machine.PierPowerUp
open State

/-- Pier 0 is powering up, and its command ring holds the descriptor of a NOP. -/
def waitingNop : State := { regs := [(regKey .PWR_DOMAINS 0, 3)], tblRun := [(0, { desc := some 0 })] }

/-- The command rings that a command leaves. -/
def ringsAfter (c : Instr) (s : State) : SMap TblRun :=
  match exec c s with
  | .next t => t.tblRun
  | _ => []

/-- The NOP runs and leaves its ring. -/
theorem nop_runs : ringsAfter (.powerupDone 0) waitingNop ≠ waitingNop.tblRun := by decide

/-- Refutes O58: a power-up that ends is said to change nothing but PWR_DOMAINS; in Pier 0, whose command ring holds a NOP that waited for the
domain, that command then runs and leaves the ring. -/
theorem not_powerDomains : ¬ Obligations.PowerDomains := by
  intro h
  obtain ⟨-, -, -, -, -, -, -, -, -, -, -, -, ends, -⟩ := h waitingNop 0 0 true 0 0
  obtain ⟨t, ran, -, only, -⟩ := ends (.inl (by decide)) (by decide) (fun high => absurd high (by decide)) rfl
  have kept : t.tblRun = waitingNop.tblRun := by rw [only]
  refine nop_runs ?_
  rw [ringsAfter, ran]
  exact kept

end Sys2Proof.Machine.PierPowerUp
end

section
/-!
PROOFS. The export of a Span while the Management Function's stream is Insecure (R101, R136).
-/

namespace Sys2Proof.Machine.InsecureExport
open State

/-- Span 0 is being exported; the management link is Up, and its stream 0 Insecure. -/
def exporting : State :=
  { regs := [(regKey .HEP_LINK_STATE 0, 3)], fns := [(fnKey .mf, { bme := true })], ide := [(ideKey 0 0, .insecure)],
    spanCmd := some { op := .exportBlob, span := 0, seq := 0 } }

theorem link_up : exporting.linkUp exporting.mgmtLink = true := by decide

/-- The write of a piece is dropped. -/
theorem issuePiece_dropped {j : Job} (p : Part) (mf : j.fn = .mf) (host : j.span = none) (write : j.write = true) :
    exporting.issuePiece j p = .out exporting := by
  unfold issuePiece
  rw [if_neg (show ¬exporting.isSafe = true by decide), host, mf]
  dsimp only
  rw [if_neg (show ¬(!exporting.linkUp (exporting.fnLink .mf)) = true by decide), if_neg (show ¬exporting.muted .mf none = true by decide),
    if_pos write]
  exact congrArg Iss.out ((if_neg (by decide)).trans (if_pos (by decide)))

theorem runParts_dropped (l : List Part) (j : Job) (mf : j.fn = .mf) (host : j.span = none) (write : j.write = true) (dep : j.dep = .blob) :
    exporting.runParts j l = exporting := by
  induction l generalizing j with
  | nil => rfl
  | cons p l ih =>
    have kept : (if j.write then exporting.depWritten j.dep else exporting) = exporting := by
      rw [write, dep]
      rfl
    unfold runParts
    rw [issuePiece_dropped p mf host write]
    show (if j.write then exporting.depWritten j.dep else exporting).runParts _ l = exporting
    rw [kept]
    exact ih { j with part := j.part + 1 } mf host write dep

/-- What the export leaves. -/
theorem export_ends : exec (.spanCmdDone .done) exporting = .next (exporting.spanFinish 0 0) := by
  have waits : exporting.mfWaits = false := by decide
  have written : exporting.blobWrite 0 (exporting.blobOf 0).bytes = exporting := runParts_dropped _ _ rfl rfl rfl rfl
  show execSpanCmdDone .done exporting = _
  unfold execSpanCmdDone
  rw [show exporting.spanCmd = some { op := .exportBlob, span := 0, seq := 0 } from rfl]
  dsimp only
  rw [if_neg (show ¬exporting.blobBusy = true by decide), waits, written, link_up]
  rfl

/-- A blob is cut into at least one write. -/
theorem image_cut : (exporting.writeCut .mf (4096 * exporting.fld F.STU_XFER_ADDR_ADDR 0) (exporting.blobOf 0).bytes) ≠ [] := by
  have nonempty : (exporting.blobOf 0).bytes ≠ [] := by
    intro empty
    have length := congrArg List.length empty
    rw [Blob.bytes, Blob.bytesCrc, Blob.headBytes] at length
    simp only [List.length_append, Arithmetic.toBytesLE_length, List.length_nil] at length
    omega
  unfold writeCut
  generalize (exporting.blobOf 0).bytes = bs at *
  cases bs with
  | nil => exact absurd rfl nonempty
  | cons b bs =>
    unfold writePieces
    exact List.cons_ne_nil _ _

/-- Refutes O40: an export that finds the management link Up is said to write the blob; on an Insecure stream its requests are dropped, and
the command ends without one. -/
theorem not_spanTransfersAndWindows : ¬ Obligations.SpanTransfersAndWindows := by
  intro h
  obtain ⟨-, -, -, -, -, -, ends, -⟩ := h exporting 0 { op := .exportBlob, span := 0, seq := 0 } []
  obtain ⟨-, exports, -⟩ := ends rfl (by decide)
  obtain ⟨t, ran, -, -, -, l, out⟩ := exports rfl (by decide) link_up
  rw [export_ends] at ran
  have left : t.out = [] := by
    rw [← Host.Outcome.next.inj ran]
    decide
  rw [left] at out
  have none_ := (List.append_eq_nil_iff.1 (List.append_eq_nil_iff.1 out.symm).1).2
  exact image_cut (List.map_eq_nil_iff.1 (List.reverse_eq_nil_iff.1 none_))

end Sys2Proof.Machine.InsecureExport
end

section
/-!
PROOFS. The sweeper's visit that begins a pass, in a state whose registers are not listed in rising order (R242; log entry 6).
-/

namespace Sys2Proof.Machine.SweepPass
open State

/-- Table 0 of Pier 0 is a flow table of one entry, which is valid and has been hit; the sweeper's register of it is listed behind a later one. -/
def unsorted : State :=
  { regs := [(regKey .TBL_SWEEP 1, 1), (regKey .TBL_SWEEP 0, 1), (regKey .TBL_SCHEMA 0, 1)], flows := [(0, { valid := true, hit := true })] }

/-- The registers that a command leaves. -/
def regsAfter (c : Instr) (s : State) : SMap Word :=
  match exec c s with
  | .next t => t.regs
  | _ => []

/-- The epoch at the start of the pass writes the register anew, at its place in rising order. -/
theorem regs_visit : regsAfter (.sweepVisit ⟨0, .ok⟩ 0 0) unsorted ≠ unsorted.regs := by decide

/-- Refutes O48: the sweeper's visit of an entry that has been hit is said to change nothing but the entry and the flow cache; where the
registers are not listed in rising order, the epoch of TBL_SWEEP (R7) at the start of a pass lists that register again, at its place in the
order. -/
theorem not_rulesCacheAndSweeper : ¬ Obligations.RulesCacheAndSweeper := by
  intro h
  obtain ⟨-, -, -, -, -, -, visits, -⟩ := h unsorted 0 0 0 0 0 0 0
  obtain ⟨hit, -⟩ := visits ⟨.inr rfl, by decide, by decide, .inl (by decide), by decide, by decide, by decide, by decide, by decide⟩
  obtain ⟨t, ran, only, -⟩ := hit (by decide)
  have kept : t.regs = unsorted.regs := by rw [only]
  refine regs_visit ?_
  rw [regsAfter, ran]
  exact kept

end Sys2Proof.Machine.SweepPass
end

section
/-!
PROOFS. STEP while DBG_THR_SEL holds a number past the last thread (R487).
-/

namespace Sys2Proof.Machine.StepPastLast
open State

/-- A full session whose DBG_THR_SEL holds 769, a number no thread has; what the record of that number holds is HALTED from WAITING, and thread 1
has an ADD to issue. -/
def selects769 : State :=
  { regs := [(regKey .DBG_STATUS 0, 2), (regKey .DBG_THR_SEL 0, 769)],
    threads := [(1, { prior := .running }), (769, { state := .halted, prior := .waiting })], codeLen := [(0, 4)] }

/-- The STEP that a command leaves in progress. -/
def heldAfter (c : Instr) (s : State) : Option (Nat × Seq) :=
  match exec c s with
  | .next t => t.heldStep
  | _ => none

/-- The slot is thread 1's, whose ADD issues, so that the command ends at once. -/
theorem step_ends : heldAfter (.stepThread 0 .ok .ok .ok) selects769 = none := by decide

/-- Refutes O57: STEP of a HALTED thread whose prior state is not RUNNING is said to stay in progress; DBG_THR_SEL can hold 769, and the slot
of that STEP is the one of thread 1, in which an instruction issues. -/
theorem not_debugSession : ¬ Obligations.DebugSession := by
  intro h
  obtain ⟨-, -, -, -, -, -, -, -, -, -, -, -, -, waits, -⟩ := h selects769 0 0 0 0 0 0 .ok [] 0 .ok .ok .ok
  have held := waits ⟨⟨by decide, by decide, by decide⟩, rfl, by decide⟩ (by decide) (by decide)
  have none_ := step_ends
  rw [heldAfter, held] at none_
  cases none_

end Sys2Proof.Machine.StepPastLast
end

section
/-!
PROOFS. The SEC block: lifecycle, fuse and key commands, their ends, the nonce and the token buffer (R476–R481, R490–R492).
-/

namespace Sys2Proof.Machine.SecurityUnit
open State Fields Frames

variable (s : State)

/-! ### The start and the end of a command -/

/-- A SEC command ends with a code, and its event is recorded. -/
def SecEnded (t : State) (code : Nat) (q : Seq) : Prop :=
  t.Ended F.SEC_STATUS_LAST_RESULT F.SEC_STATUS_LAST_SEQ 0 code q ∧ t.Event .SEC_EVT 0 0

theorem ended_of_endCmd (q : Seq) {code : Nat} (h : code < 256) :
    SecEnded ((s.endCmd F.SEC_STATUS_LAST_RESULT F.SEC_STATUS_LAST_SEQ 0 code q).setEvt .SEC_EVT .SEC_EVT_EN .SEC_MSIX_VEC 0 0) code q := by
  refine ⟨?_, event_setEvt _ (by decide)⟩
  unfold Ended
  rw [fld_setEvt_other _ (by decide), fld_setEvt_other _ (by decide)]
  exact fld_endCmd s (by decide) (by decide) (by decide) rfl h

theorem ended_secEnd (q : Seq) {code : Nat} (h : code < 256) : SecEnded (s.secEnd q code) code q := ended_of_endCmd _ q h

/-- What the end of a command can change. -/
theorem frame_secEnd (q : Seq) (code : Nat) : s.secEnd q code = { s with
    regs := (s.secEnd q code).regs, msix := (s.secEnd q code).msix, msixWait := (s.secEnd q code).msixWait, out := (s.secEnd q code).out,
    sec := { s.sec with running := none } } := by
  have frame := only_setEvt ({ s.setFld F.SEC_STATUS_BUSY 0 0 with sec := { s.sec with running := none } }.endCmd F.SEC_STATUS_LAST_RESULT
    F.SEC_STATUS_LAST_SEQ 0 code q) .SEC_EVT .SEC_EVT_EN .SEC_MSIX_VEC 0 0
  unfold secEnd
  generalize State.setEvt _ Reg.SEC_EVT Reg.SEC_EVT_EN Reg.SEC_MSIX_VEC 0 0 = t at *
  exact frame

theorem sec_secEnd (q : Seq) (code : Nat) : (s.secEnd q code).sec = { s.sec with running := none } := (congrArg State.sec (frame_secEnd s q code) :)

theorem fld_secEnd {f : Fld} (q : Seq) (code i : Nat) (apart : f.reg ≠ .HEP_DROP_CNT ∧ f.reg ≠ .SEC_EVT ∧ f.reg ≠ .SEC_STATUS) :
    (s.secEnd q code).fld f i = s.fld f i := by
  unfold secEnd
  rw [fld_setEvt_other _ ⟨apart.1, apart.2.1⟩, fld_endCmd_other _ ⟨apart.2.2, apart.2.2⟩]
  exact fld_setFld_other s apart.2.2

/-- A command that starts. -/
def Runs (s t : State) (op arg : Nat) (q : Seq) (ws : List (Nat × BitVec 16)) : Prop :=
  t.fld F.SEC_STATUS_BUSY 0 = 1 ∧ t.sec.running = some ⟨op, arg, q, ws⟩ ∧ t.sec.fuseA = burn s.sec.fuseA ws

theorem runs_secStart (op arg : Nat) (q : Seq) (ws : List (Nat × BitVec 16)) : Runs s (s.secStart op arg q ws) op arg q ws :=
  ⟨fld_setFld_self s (f := F.SEC_STATUS_BUSY) (by decide), rfl, rfl⟩

/-- A command that starts and changes nothing else. -/
def Starts (c : Instr) (op arg : Nat) (q : Seq) (ws : List (Nat × BitVec 16)) : Prop :=
  ∃ t, exec c s = .next t ∧ Runs s t op arg q ws ∧ s.OnlyRegs { t with sec := s.sec } [(.SEC_STATUS, 0)]

/-- A command that ends with a code and does nothing. -/
def Refused (c : Instr) (code : Nat) (q : Seq) : Prop :=
  ∃ t, exec c s = .next t ∧ SecEnded t code q ∧ s.OnlySignals { t with sec := s.sec } ∧ t.lifecycle = s.lifecycle

section
variable {s} {c : Instr} {q : Seq}

theorem starts_of {op arg : Nat} {ws : List (Nat × BitVec 16)} (ran : exec c s = .next (s.secStart op arg q ws)) : Starts s c op arg q ws :=
  ⟨_, ran, runs_secStart .., rfl, but_setFld s F.SEC_STATUS_BUSY 0 1⟩

theorem refused_of_end {sec : Sec} {code : Nat} (small : code < 256) (ran : exec c s = .next (({ s with sec := sec } : State).secEnd q code)) :
    Refused s c code q := by
  refine ⟨_, ran, ended_secEnd _ q small, ?_, fld_secEnd ({ s with sec := sec } : State) (f := F.SEC_LC_STATE) q code 0 (by decide)⟩
  have frame := frame_secEnd ({ s with sec := sec } : State) q code
  generalize ({ s with sec := sec } : State).secEnd q code = t at *
  rw [OnlySignals, frame]

theorem refused_of_busy {sec : Sec} (ran : exec c s = .next ((({ s with sec := sec } : State).endCmd F.SEC_STATUS_LAST_RESULT F.SEC_STATUS_LAST_SEQ 0
    1 q).setEvt .SEC_EVT .SEC_EVT_EN .SEC_MSIX_VEC 0 0)) : Refused s c 1 q := by
  refine ⟨_, ran, ended_of_endCmd _ q (by decide), ?_, (fld_setEvt_other _ (g := F.SEC_LC_STATE) (by decide)).trans (fld_endCmd_other _ (by decide))⟩
  have frame := only_setEvt (({ s with sec := sec } : State).endCmd F.SEC_STATUS_LAST_RESULT F.SEC_STATUS_LAST_SEQ 0 1 q) .SEC_EVT .SEC_EVT_EN
    .SEC_MSIX_VEC 0 0
  generalize (({ s with sec := sec } : State).endCmd F.SEC_STATUS_LAST_RESULT F.SEC_STATUS_LAST_SEQ 0 1 q).setEvt .SEC_EVT .SEC_EVT_EN
    .SEC_MSIX_VEC 0 0 = t at *
  unfold OnlySignals at *
  rw [frame]
  rfl

end

/-! ### What a command is tested for -/

section
variable {s} {q : Seq} {op : Nat} {allowed : Nat → Bool} {go : State → State} (opens : s.regOpen .SEC_CMD 0 = true)

theorem secTry_busy (busy : s.flag F.SEC_STATUS_BUSY 0 = true) : s.secTry q allowed go =
    (s.endCmd F.SEC_STATUS_LAST_RESULT F.SEC_STATUS_LAST_SEQ 0 1 q).setEvt .SEC_EVT .SEC_EVT_EN .SEC_MSIX_VEC 0 0 := if_pos busy

theorem secTry_barred (idle : s.flag F.SEC_STATUS_BUSY 0 = false) (out : allowed s.lifecycle = false) : s.secTry q allowed go = s.secEnd q 2 :=
  (if_neg (by rw [idle]; exact Bool.false_ne_true)).trans (if_pos (by rw [out]; rfl))

theorem secTry_goes (idle : s.flag F.SEC_STATUS_BUSY 0 = false) (in_ : allowed s.lifecycle = true) : s.secTry q allowed go = go s :=
  (if_neg (by rw [idle]; exact Bool.false_ne_true)).trans (if_neg (by rw [in_]; exact Bool.false_ne_true))

include opens

theorem secCmd_busy (busy : s.flag F.SEC_STATUS_BUSY 0 = true) : s.secCmd op q allowed go =
    (s.endCmd F.SEC_STATUS_LAST_RESULT F.SEC_STATUS_LAST_SEQ 0 1 q).setEvt .SEC_EVT .SEC_EVT_EN .SEC_MSIX_VEC 0 0 :=
  (onReg_open s _ _ _ _ opens).trans (secTry_busy busy)

theorem secCmd_barred (idle : s.flag F.SEC_STATUS_BUSY 0 = false) (out : allowed s.lifecycle = false) : s.secCmd op q allowed go = s.secEnd q 2 :=
  (onReg_open s _ _ _ _ opens).trans (secTry_barred idle out)

theorem secCmd_goes (idle : s.flag F.SEC_STATUS_BUSY 0 = false) (in_ : allowed s.lifecycle = true) : s.secCmd op q allowed go = go s :=
  (onReg_open s _ _ _ _ opens).trans (secTry_goes idle in_)

end

section
variable {s} {q : Seq} {c : Instr} (opens : s.regOpen .SEC_CMD 0 = true)

/-- The commands that the lifecycle states of `allowed` take. -/
def Tested (c : Instr) (q : Seq) (allowed : Nat → Bool) (go : State → State) : Prop :=
  ∃ op, ∀ s, exec c s = .next (s.secCmd op q allowed go)

variable {allowed : Nat → Bool} {go : State → State} (tested : Tested c q allowed go)
include opens tested

theorem tested_busy (busy : s.flag F.SEC_STATUS_BUSY 0 = true) : Refused s c 1 q := by
  obtain ⟨op, runs⟩ := tested
  exact refused_of_busy (sec := s.sec) ((runs s).trans (congrArg Host.Outcome.next (secCmd_busy opens busy)))

theorem tested_barred (idle : s.flag F.SEC_STATUS_BUSY 0 = false) (out : allowed s.lifecycle = false) : Refused s c 2 q := by
  obtain ⟨op, runs⟩ := tested
  exact refused_of_end (sec := s.sec) (by decide) ((runs s).trans (congrArg Host.Outcome.next (secCmd_barred opens idle out)))

theorem tested_goes (idle : s.flag F.SEC_STATUS_BUSY 0 = false) (in_ : allowed s.lifecycle = true) : exec c s = .next (go s) := by
  obtain ⟨op, runs⟩ := tested
  exact (runs s).trans (congrArg Host.Outcome.next (secCmd_goes opens idle in_))

theorem tested_refuses {code : Nat} (small : code < 256) (idle : s.flag F.SEC_STATUS_BUSY 0 = false) (in_ : allowed s.lifecycle = true)
    (ends : go s = s.secEnd q code) : Refused s c code q :=
  refused_of_end (sec := s.sec) small ((tested_goes opens tested idle in_).trans (congrArg Host.Outcome.next ends))

theorem tested_starts {op arg : Nat} {ws : List (Nat × BitVec 16)} (idle : s.flag F.SEC_STATUS_BUSY 0 = false) (in_ : allowed s.lifecycle = true)
    (starts : go s = s.secStart op arg q ws) : Starts s c op arg q ws :=
  starts_of ((tested_goes opens tested idle in_).trans (congrArg Host.Outcome.next starts))

end

/-! ### The commands that burn fuses -/

/-- Words drawn from the TRNG use up free values and change nothing else. -/
theorem drawn_frame {A : Type} (f : A → Nat → Word → A) (l : List Nat) (a : A) :
    let p := l.foldl (fun (p : A × State) k => (f p.1 k p.2.fresh.1, p.2.fresh.2)) (a, s)
    p.2 = { s with free := p.2.free } := by
  induction l generalizing a s with
  | nil => rfl
  | cons k l ih => exact ih s.fresh.2 (f a k s.fresh.1)

theorem trng384_frame : s.trng384.2 = { s with free := s.trng384.2.free } :=
  drawn_frame s (fun (v : Nat) k (w : Word) => v + w.toNat * 2 ^ (64 * k)) (List.range 6) 0

section
variable {s} {q : Seq} (opens : s.regOpen .SEC_CMD 0 = true)
include opens

/-- While a command runs, every one is refused as BUSY. -/
theorem busy_refuses (busy : s.flag F.SEC_STATUS_BUSY 0 = true) : ∀ c ∈ [Instr.provision q, .fuseKey q, .revokeKey q, .deploy q, .raiseSvn q,
    .raiseThSvn q, .toAnalysis q], Refused s c 1 q := by
  intro c mem
  simp only [List.mem_cons, List.not_mem_nil, or_false] at mem
  rcases mem with rfl | rfl | rfl | rfl | rfl | rfl | rfl
  · exact tested_busy opens ⟨_, fun _ => rfl⟩ busy
  · exact tested_busy opens ⟨_, fun _ => rfl⟩ busy
  · exact tested_busy opens ⟨_, fun _ => rfl⟩ busy
  · exact tested_busy opens ⟨_, fun _ => rfl⟩ busy
  · exact tested_busy opens ⟨_, fun _ => rfl⟩ busy
  · exact tested_busy opens ⟨_, fun _ => rfl⟩ busy
  · exact refused_of_busy (congrArg Host.Outcome.next ((onReg_open s _ _ _ _ opens).trans (secTry_busy busy)))

theorem toAnalysis_runs : exec (.toAnalysis q) s = .next (s.useNonce.secTry q (fun l => l == 1 || l == 2) fun u =>
    if s.tokenCause true ≠ 0 then (u.tokenReject (s.tokenCause true)).secEnd q 5
    else u.sessionEnd.zeroize.dropKeys.destroyUds.secStart 7 0 q (fuseSplit fuseUds 24 (2 ^ 384 - 1))) :=
  congrArg Host.Outcome.next (onReg_open s _ _ _ _ opens)

variable (idle : s.flag F.SEC_STATUS_BUSY 0 = false)
include idle

theorem provision_barred (lc : s.lifecycle ≠ 0) : Refused s (.provision q) 2 q := tested_barred opens ⟨_, fun _ => rfl⟩ idle (beq_eq_false_iff_ne.2 lc)
theorem fuseKey_barred (lc : s.lifecycle ≠ 1) : Refused s (.fuseKey q) 2 q := tested_barred opens ⟨_, fun _ => rfl⟩ idle (beq_eq_false_iff_ne.2 lc)
theorem deploy_barred (lc : s.lifecycle ≠ 1) : Refused s (.deploy q) 2 q := tested_barred opens ⟨_, fun _ => rfl⟩ idle (beq_eq_false_iff_ne.2 lc)

theorem either_false (made : s.lifecycle ≠ 1) (field : s.lifecycle ≠ 2) : (s.lifecycle == 1 || s.lifecycle == 2) = false := by
  rw [beq_eq_false_iff_ne.2 made, beq_eq_false_iff_ne.2 field]
  rfl

theorem either_barred (made : s.lifecycle ≠ 1) (field : s.lifecycle ≠ 2) :
    Refused s (.revokeKey q) 2 q ∧ Refused s (.raiseSvn q) 2 q ∧ Refused s (.raiseThSvn q) 2 q ∧ Refused s (.toAnalysis q) 2 q := by
  have out := either_false opens idle made field
  exact ⟨tested_barred opens ⟨_, fun _ => rfl⟩ idle out, tested_barred opens ⟨_, fun _ => rfl⟩ idle out, tested_barred opens ⟨_, fun _ => rfl⟩ idle out,
    refused_of_end (by decide) ((toAnalysis_runs opens).trans (congrArg Host.Outcome.next (secTry_barred (s := s.useNonce) idle out)))⟩

theorem provision_starts (lc : s.lifecycle = 0) : ∃ t uds, exec (.provision q) s = .next t ∧ Runs s t 1 0 q (fuseSplit fuseUds 24 uds ++ [(fuseLc, 1)]) ∧
    s.OnlyRegs { t with sec := s.sec, free := s.free } [(.SEC_STATUS, 0)] := by
  have ran : exec (.provision q) s = .next (s.trng384.2.secStart 1 0 q (fuseSplit fuseUds 24 s.trng384.1 ++ [(fuseLc, 1)])) :=
    congrArg Host.Outcome.next (secCmd_goes opens idle (by exact beq_iff_eq.2 lc))
  have frame := trng384_frame s
  generalize s.trng384 = drawn at *
  obtain ⟨uds, u⟩ := drawn
  dsimp only at *
  rw [frame] at ran
  exact ⟨_, uds, ran, runs_secStart .., rfl, but_setFld s F.SEC_STATUS_BUSY 0 1⟩

section
variable (lc : s.lifecycle = 1)
include lc

theorem fuseKey_starts {n : Nat} (slot : s.argSlot = some n) (operator : 16 ≤ n) (empty : s.slotFull n = false) {hash : Nat}
    (given : (List.range 6).foldl (fun h k => h + (s.reg .SEC_ARG k).toNat * 2 ^ (64 * k)) 0 = hash) :
    Starts s (.fuseKey q) 2 (n + 32 * hash) q (fuseSplit (fuseKeys + 24 * (n - 16)) 24 hash) := by
  refine tested_starts opens ⟨2, fun _ => rfl⟩ idle (by exact beq_iff_eq.2 lc) ?_
  dsimp only
  rw [slot, ← given]
  exact if_neg (not_or.2 ⟨by omega, by rw [empty]; exact Bool.false_ne_true⟩)

theorem fuseKey_refuses {n : Nat} (slot : s.argSlot = some n) (bad : n < 16 ∨ s.slotFull n = true) : Refused s (.fuseKey q) 3 q := by
  refine tested_refuses opens ⟨2, fun _ => rfl⟩ (by decide) idle (by exact beq_iff_eq.2 lc) ?_
  dsimp only
  rw [slot]
  exact if_pos bad

theorem deploy_starts {i : Image} (active : s.slots.active = some i) (operator : keyPair i.hdr.keyMldsa i.hdr.keyEcdsa = some 3) :
    Starts s (.deploy q) 4 0 q [(fuseLc, 2)] := by
  refine tested_starts opens ⟨4, fun _ => rfl⟩ idle (by exact beq_iff_eq.2 lc) ?_
  rw [active]
  exact if_pos operator

theorem deploy_refuses {i : Image} (active : s.slots.active = some i) (other : keyPair i.hdr.keyMldsa i.hdr.keyEcdsa ≠ some 3) :
    Refused s (.deploy q) 3 q := by
  refine tested_refuses opens ⟨4, fun _ => rfl⟩ (by decide) idle (by exact beq_iff_eq.2 lc) ?_
  rw [active]
  exact if_neg other

end

section
variable (lc : s.lifecycle = 1 ∨ s.lifecycle = 2)
include lc

theorem either_true : (s.lifecycle == 1 || s.lifecycle == 2) = true := by
  rcases lc with lc | lc
  · rw [lc]
    rfl
  · rw [lc]
    rfl

theorem revokeKey_starts {n : Nat} (slot : s.argSlot = some n) (full : s.slotFull n = true) (more : s.lastPair n = false) :
    Starts s (.revokeKey q) 3 n q (fuseSplit fuseRevoke 2 (2 ^ n)) := by
  refine tested_starts opens ⟨3, fun _ => rfl⟩ idle (by exact either_true opens idle lc) ?_
  rw [slot]
  exact if_neg (by rw [full, more]; exact Bool.false_ne_true)

theorem revokeKey_refuses {n : Nat} (slot : s.argSlot = some n) (bad : s.slotFull n = false ∨ s.lastPair n = true) : Refused s (.revokeKey q) 3 q := by
  refine tested_refuses opens ⟨3, fun _ => rfl⟩ (by decide) idle (by exact either_true opens idle lc) ?_
  rw [slot]
  refine if_pos ?_
  rcases bad with empty | last
  · rw [empty]
    rfl
  · rw [last, Bool.or_true]

theorem raiseSvn_refuses (bad : s.argSvn ≤ s.fld F.CFG_MIN_SVN_MIN_SVN 0 ∨ s.activeSvn < s.argSvn) : Refused s (.raiseSvn q) 3 q :=
  tested_refuses opens ⟨5, fun _ => rfl⟩ (by decide) idle (by exact either_true opens idle lc) (by exact if_pos bad)

theorem raiseThSvn_starts (above : s.thMinSvn < s.argSvn) (running : s.argSvn ≤ s.fld F.SEC_BOOT_STATUS_TH_SVN 0)
    (left : s.fld F.SEC_SVN_TH_WORDS_LEFT 0 ≠ 0) :
    Starts s (.raiseThSvn q) 6 s.argSvn q [(fuseThSvn + (32 - s.fld F.SEC_SVN_TH_WORDS_LEFT 0), BitVec.ofNat 16 s.argSvn)] :=
  tested_starts opens ⟨6, fun _ => rfl⟩ idle (by exact either_true opens idle lc) (by exact (if_neg (by omega)).trans (if_neg left))

theorem raiseThSvn_spent (above : s.thMinSvn < s.argSvn) (running : s.argSvn ≤ s.fld F.SEC_BOOT_STATUS_TH_SVN 0)
    (left : s.fld F.SEC_SVN_TH_WORDS_LEFT 0 = 0) : Refused s (.raiseThSvn q) 4 q :=
  tested_refuses opens ⟨6, fun _ => rfl⟩ (by decide) idle (by exact either_true opens idle lc) (by exact (if_neg (by omega)).trans (if_pos left))

variable (above : s.fld F.CFG_MIN_SVN_MIN_SVN 0 < s.argSvn) (running : s.argSvn ≤ s.activeSvn)
include above running

theorem raiseSvn_starts (left : s.fld F.SEC_SVN_SVN_WORDS_LEFT 0 ≠ 0) :
    Starts s (.raiseSvn q) 5 s.argSvn q [(fuseSvn + (64 - s.fld F.SEC_SVN_SVN_WORDS_LEFT 0), BitVec.ofNat 16 s.argSvn)] :=
  tested_starts opens ⟨5, fun _ => rfl⟩ idle (by exact either_true opens idle lc) (by exact (if_neg (by omega)).trans (if_neg left))

theorem raiseSvn_spent (left : s.fld F.SEC_SVN_SVN_WORDS_LEFT 0 = 0) : Refused s (.raiseSvn q) 4 q :=
  tested_refuses opens ⟨5, fun _ => rfl⟩ (by decide) idle (by exact either_true opens idle lc) (by exact (if_neg (by omega)).trans (if_pos left))

end

end

/-! ### The end of a debug session -/

theorem resumeThr_keeps (n : Nat) : (s.resumeThr n).sec = s.sec ∧ (s.resumeThr n).regs = s.regs := by
  unfold resumeThr
  split
  · rw [setThr_frame]
    exact ⟨rfl, rfl⟩
  · exact ⟨rfl, rfl⟩

theorem resumes_keep (l : List Nat) : (l.foldl resumeThr s).sec = s.sec ∧ (l.foldl resumeThr s).regs = s.regs :=
  ⟨Macs.foldl_keeps State.sec (fun u n => (resumeThr_keeps u n).1) _ _, Macs.foldl_keeps State.regs (fun u n => (resumeThr_keeps u n).2) _ _⟩

/-- What the end of a session leaves of the SEC block and of the registers but those of the debug block. -/
def KeepsSecurity (t : State) : Prop :=
  t.sec.fuseA = s.sec.fuseA ∧ t.sec.fuseB = s.sec.fuseB ∧ t.sec.nonceLive = s.sec.nonceLive ∧
    ∀ f : Fld, f.reg ≠ .DBG_STATUS → f.reg ≠ .DBG_THR_STATUS → ∀ i, t.fld f i = s.fld f i

theorem stepDrop_keeps : s.stepDrop.sec = s.sec ∧ ∀ r, r ≠ .DBG_THR_STATUS → ∀ i, s.stepDrop.reg r i = s.reg r i := by
  unfold stepDrop
  split
  · exact ⟨rfl, fun r other i => reg_endCmd_other _ ⟨other, other⟩⟩
  · exact ⟨rfl, fun _ _ _ => rfl⟩

theorem level_sessionEnd : s.sessionEnd.dbgLevel = 0 := by
  unfold sessionEnd
  split
  · next off => exact off
  · exact (fld_setFld_apart _ (by decide)).trans ((fld_setFld_apart _ (by decide)).trans (fld_setFld_self _ (f := F.DBG_STATUS_LEVEL) (by decide)))

theorem sessionEnd_keeps : KeepsSecurity s s.sessionEnd := by
  unfold sessionEnd
  split
  · exact ⟨rfl, rfl, rfl, fun _ _ _ _ => rfl⟩
  · obtain ⟨sec, regs⟩ := stepDrop_keeps s
    generalize s.stepDrop = u at *
    obtain ⟨sec', regs'⟩ := resumes_keep u ((u.threads.filter fun e => e.2.state == .halted).map Prod.fst)
    dsimp only
    generalize ((u.threads.filter fun e => e.2.state == .halted).map Prod.fst).foldl resumeThr u = v at *
    have kept : v.sec = s.sec := sec'.trans sec
    refine ⟨(congrArg Sec.fuseA kept :), (congrArg Sec.fuseB kept :), (congrArg Sec.nonceLive kept :), fun f other other' i => ?_⟩
    have still : v.fld f i = s.fld f i := by
      rw [fld, fld, reg_congr regs', regs _ other']
    exact ((fld_setFld_other _ other).trans ((fld_setFld_other _ other).trans (fld_setFld_other _ other))).trans still

/-! ### TO_ANALYSIS -/

theorem ite_small {p : Prop} [Decidable p] {a b : Nat} (ha : a < 16) (hb : b < 16) : (if p then a else b) < 16 := by
  split
  · exact ha
  · exact hb

theorem tokenCause_small (analysis : Bool) : s.tokenCause analysis < 16 :=
  ite_small (by decide) <| ite_small (by decide) <| ite_small (by decide) <| ite_small (by decide) <| ite_small (by decide) <|
    ite_small (by decide) <| ite_small (by decide) (by decide)

theorem tdiOnly_insecure (h i : Nat) : HostErrors.TdiOnly (s.setStream h i .insecure) (s.insecure h i) := HostErrors.tdi_foldl ..

theorem reg_tdispEvt (bit n : Nat) {r : Reg} (apart : r ≠ .HEP_TDISP_EVT ∧ r ≠ .HEP_DROP_CNT) (i : Nat) : (s.tdispEvt bit n).reg r i = s.reg r i :=
  (but_mfVector _ _ r i (by simp [apart.2])).trans ((reg_setFld_other _ apart.1).trans (reg_setReg_other _ apart.1))

theorem reg_tdiError (n : Nat) {r : Reg} (apart : r ≠ .HEP_TDISP_EVT ∧ r ≠ .HEP_DROP_CNT) (i : Nat) : (s.tdiError n).reg r i = s.reg r i := by
  unfold tdiError
  split
  · exact reg_tdispEvt (s.setSpan n { s.span n with tdi := .error }) 1 n apart i
  · rfl

theorem reg_insecure (h k : Nat) {r : Reg} (apart : r ≠ .HEP_TDISP_EVT ∧ r ≠ .HEP_DROP_CNT) (i : Nat) : (s.insecure h k).reg r i = s.reg r i :=
  Macs.foldl_keeps (fun u : State => u.reg r i) (fun u n => reg_tdiError u n apart i) _ _

/-- The loss of the device's keys leaves the fuses, the associations and DBG_STATUS. -/
theorem dropKeys_keeps : s.dropKeys.sas = s.sas ∧ s.dropKeys.sec = { s.sec with dice := false, cdi := 0, alias_ := 0 } ∧
    s.dropKeys.reg .DBG_STATUS 0 = s.reg .DBG_STATUS 0 := by
  have each (u : State) (k : Nat) : let v := if SMap.get IdeStream.none u.ide k = .none then u else u.insecure (k / 8) (k % 8)
      v.sas = u.sas ∧ v.sec = u.sec ∧ v.reg .DBG_STATUS 0 = u.reg .DBG_STATUS 0 := by
    dsimp only
    split
    · exact ⟨rfl, rfl, rfl⟩
    · have frame := tdiOnly_insecure u (k / 8) (k % 8)
      have reg := reg_insecure u (k / 8) (k % 8) (r := .DBG_STATUS) (by decide) 0
      generalize u.insecure (k / 8) (k % 8) = v at *
      exact ⟨(congrArg State.sas frame :), (congrArg State.sec frame :), reg⟩
  unfold dropKeys
  dsimp only
  refine ⟨Macs.foldl_keeps State.sas (fun u k => (each u k).1) _ _, ?_, Macs.foldl_keeps (fun u : State => u.reg .DBG_STATUS 0) (fun u k => (each u k).2.2) _ _⟩
  exact congrArg (fun x : Sec => { x with dice := false, cdi := 0, alias_ := 0 }) (Macs.foldl_keeps State.sec (fun u k => (each u k).2.1) _ _)

section
variable {s} {q : Seq} (opens : s.regOpen .SEC_CMD 0 = true) (idle : s.flag F.SEC_STATUS_BUSY 0 = false) (lc : s.lifecycle = 1 ∨ s.lifecycle = 2)
include opens idle lc

theorem toAnalysis_rejects {cause : Nat} (is : s.tokenCause true = cause) (bad : cause ≠ 0) : ∃ t, exec (.toAnalysis q) s = .next t ∧ SecEnded t 5 q ∧
    t.fld F.DBG_STATUS_REJECT_CAUSE 0 = cause ∧ t.sec.nonceLive = false ∧ t.sas = s.sas ∧ t.lifecycle = s.lifecycle := by
  have ran : exec (.toAnalysis q) s = .next ((s.useNonce.tokenReject cause).secEnd q 5) :=
    (toAnalysis_runs opens).trans (congrArg Host.Outcome.next ((secTry_goes (s := s.useNonce) idle (either_true opens idle lc)).trans
      (is ▸ if_pos (is.symm ▸ bad))))
  have frame := Signals.signals_raise (s.useNonce.setFld F.DBG_STATUS_REJECT_CAUSE 0 cause) 0x0C 0x01 (cause + 16 * (s.useNonce.tokenKind % 16))
  have fields (f : Fld) (apart : f.reg ∉ TimeUnit.captureRegs) : (s.useNonce.tokenReject cause).fld f 0 =
      (s.useNonce.setFld F.DBG_STATUS_REJECT_CAUSE 0 cause).fld f 0 := HostErrors.fld_raise _ _ _ _ _ apart
  have sec : (s.useNonce.tokenReject cause).sec = s.useNonce.sec := (congrArg State.sec frame :)
  have sas : (s.useNonce.tokenReject cause).sas = s.sas := (congrArg State.sas frame :)
  generalize s.useNonce.tokenReject cause = u at *
  refine ⟨_, ran, ended_secEnd u q (by decide), ?_, ?_, (congrArg State.sas (frame_secEnd u q 5) :).trans sas, ?_⟩
  · rw [fld_secEnd u _ _ _ (by decide), fields _ (by decide), fld_setFld_self _ (by decide)]
    exact Nat.mod_eq_of_lt (is ▸ tokenCause_small s true)
  · rw [sec_secEnd, sec]
    rfl
  · exact (fld_secEnd u (f := F.SEC_LC_STATE) _ _ _ (by decide)).trans ((fields _ (by decide)).trans (fld_setFld_other _ (by decide)))

theorem toAnalysis_starts (good : s.tokenCause true = 0) : ∃ t, exec (.toAnalysis q) s = .next t ∧
    Runs s t 7 0 q (fuseSplit fuseUds 24 (2 ^ 384 - 1)) ∧ t.sec.fuseB = burn s.sec.fuseB (fuseSplit fuseUds 24 (2 ^ 384 - 1)) ∧
    t.sec.nonceLive = false ∧ t.dbgLevel = 0 ∧ ∀ i, t.sa i = {} := by
  have ran : exec (.toAnalysis q) s = .next (s.useNonce.sessionEnd.zeroize.dropKeys.destroyUds.secStart 7 0 q (fuseSplit fuseUds 24 (2 ^ 384 - 1))) :=
    (toAnalysis_runs opens).trans (congrArg Host.Outcome.next ((secTry_goes (s := s.useNonce) idle (either_true opens idle lc)).trans
      (if_neg (not_not.2 good))))
  have ended := level_sessionEnd s.useNonce
  obtain ⟨fuseA, fuseB, nonce, -⟩ := sessionEnd_keeps s.useNonce
  generalize s.useNonce.sessionEnd = u at *
  obtain ⟨sas, sec, reg⟩ := dropKeys_keeps u.zeroize
  generalize u.zeroize.dropKeys = v at *
  generalize destroyed : v.destroyUds = w at *
  have burnt : w.sec = { v.sec with fuseB := burn v.sec.fuseB (fuseSplit fuseUds 24 (2 ^ 384 - 1)) } := by rw [← destroyed]; rfl
  have status : w.fld F.DBG_STATUS_LEVEL 0 = u.fld F.DBG_STATUS_LEVEL 0 := by
    rw [← destroyed]
    exact congrArg (fun r => getBits r 0 2) reg
  have empty : w.sas = [] := by
    rw [← destroyed]
    exact sas
  generalize fuseSplit fuseUds 24 (2 ^ 384 - 1) = ones at *
  obtain ⟨busy, running, a⟩ := runs_secStart w 7 0 q ones
  refine ⟨_, ran, ⟨busy, running, a.trans ?_⟩, ?_, ?_, (fld_setFld_other w (f := F.SEC_STATUS_BUSY) (g := F.DBG_STATUS_LEVEL) (by decide)).trans
    (status.trans ended), fun i => ?_⟩
  · rw [burnt, sec, show u.zeroize.sec.fuseA = s.sec.fuseA from fuseA]
  · show w.sec.fuseB = _
    rw [burnt, sec]
    exact congrArg (burn · ones) fuseB
  · show w.sec.nonceLive = _
    rw [burnt, sec]
    exact nonce
  · show SMap.get {} w.sas i = _
    rw [empty]
    rfl

end

/-! ### The end of a command that burns fuses -/

/-- The state in which copy B follows copy A. -/
def copied (r : SecRun) : State := { s with sec := { s.sec with fuseB := burn s.sec.fuseB r.words } }

/-- A command that ends well, its fuses burnt in both copies. -/
def Both (s t : State) (r : SecRun) : Prop := SecEnded t 0 r.seq ∧ t.sec.fuseA = s.sec.fuseA ∧ t.sec.fuseB = burn s.sec.fuseB r.words

variable {s} in
theorem both_of {u : State} {r : SecRun} (a : u.sec.fuseA = s.sec.fuseA) (b : u.sec.fuseB = burn s.sec.fuseB r.words) : Both s (u.secEnd r.seq 0) r :=
  ⟨ended_secEnd u r.seq (by decide), (congrArg Sec.fuseA (sec_secEnd ..)).trans a, (congrArg Sec.fuseB (sec_secEnd ..)).trans b⟩

/-- Bit `n` of a number is set. -/
theorem bit_or (v : Nat) {n w : Nat} (h : n < w) : (v ||| 2 ^ n) % 2 ^ w / 2 ^ n % 2 = 1 := by
  have set : ((v ||| 2 ^ n) % 2 ^ w).testBit n = true := by
    rw [Nat.testBit_mod_two_pow, Nat.testBit_or, Nat.testBit_two_pow_self, decide_eq_true h, Bool.or_true]
    rfl
  simpa [Nat.testBit_eq_decide_div_mod_eq] using set

section
variable {s} {r : SecRun} (running : s.sec.running = some r)
include running

theorem done_runs : exec (.secCmdDone none) s = .next (s.secEffect r) := by
  refine congrArg Host.Outcome.next ?_
  rw [running]

theorem done_state {lc : Nat} (small : lc < 4) (effect : s.secEffect r = (((copied s r).setFld F.SEC_LC_STATE 0 lc).sessionEnd).secEnd r.seq 0) :
    ∃ t, exec (.secCmdDone none) s = .next t ∧ Both s t r ∧ t.lifecycle = lc ∧ t.dbgLevel = 0 := by
  have ended := level_sessionEnd ((copied s r).setFld F.SEC_LC_STATE 0 lc)
  obtain ⟨a, b, -, fields⟩ := sessionEnd_keeps ((copied s r).setFld F.SEC_LC_STATE 0 lc)
  refine ⟨_, (done_runs running).trans (congrArg Host.Outcome.next effect), both_of a b, ?_, ?_⟩
  · exact (fld_secEnd _ (f := F.SEC_LC_STATE) _ _ _ (by decide)).trans ((fields F.SEC_LC_STATE (by decide) (by decide) 0).trans
      ((fld_setFld_self _ (by decide)).trans (Nat.mod_eq_of_lt small)))
  · exact (fld_secEnd _ (f := F.DBG_STATUS_LEVEL) _ _ _ (by decide)).trans ended

theorem done_fuseKey (op : r.op = 2) : ∃ t, exec (.secCmdDone none) s = .next t ∧ Both s t r ∧ t.lifecycle = s.lifecycle := by
  have effect : s.secEffect r = (copied s r).secEnd r.seq 0 := by
    unfold secEffect
    rw [op]
    rfl
  exact ⟨_, (done_runs running).trans (congrArg Host.Outcome.next effect), both_of rfl rfl, fld_secEnd (copied s r) (f := F.SEC_LC_STATE) _ _ _ (by decide)⟩

theorem done_revokeKey (op : r.op = 3) (known : r.arg < 32) :
    ∃ t, exec (.secCmdDone none) s = .next t ∧ Both s t r ∧ t.fld F.SEC_KEYS_REVOKED 0 / 2 ^ r.arg % 2 = 1 := by
  have effect : s.secEffect r = (((copied s r).setFld F.SEC_KEYS_REVOKED 0 (s.fld F.SEC_KEYS_REVOKED 0 ||| 2 ^ r.arg)).setFld F.SEC_KEYS_PRESENT 0
      (((copied s r).setFld F.SEC_KEYS_REVOKED 0 (s.fld F.SEC_KEYS_REVOKED 0 ||| 2 ^ r.arg)).fld F.SEC_KEYS_PRESENT 0 -
        (((copied s r).setFld F.SEC_KEYS_REVOKED 0 (s.fld F.SEC_KEYS_REVOKED 0 ||| 2 ^ r.arg)).fld F.SEC_KEYS_PRESENT 0 &&& 2 ^ r.arg))).secEnd
        r.seq 0 := by
    unfold secEffect
    rw [op]
    rfl
  refine ⟨_, (done_runs running).trans (congrArg Host.Outcome.next effect), both_of rfl rfl, ?_⟩
  rw [fld_secEnd _ _ _ _ (by decide), fld_setFld_apart _ (by decide), fld_setFld_self _ (by decide)]
  exact bit_or _ known

theorem done_raiseSvn (op : r.op = 5) (known : r.arg < 65536) : ∃ t, exec (.secCmdDone none) s = .next t ∧ Both s t r ∧
    t.fld F.CFG_MIN_SVN_MIN_SVN 0 = r.arg ∧ t.fld F.SEC_SVN_SVN_WORDS_LEFT 0 = s.fld F.SEC_SVN_SVN_WORDS_LEFT 0 - 1 := by
  have left : (copied s r).fld F.SEC_SVN_SVN_WORDS_LEFT 0 = s.fld F.SEC_SVN_SVN_WORDS_LEFT 0 := rfl
  have effect : s.secEffect r = (((copied s r).setFld F.CFG_MIN_SVN_MIN_SVN 0 r.arg).setFld F.SEC_SVN_SVN_WORDS_LEFT 0
      ((copied s r).fld F.SEC_SVN_SVN_WORDS_LEFT 0 - 1)).secEnd r.seq 0 := by
    unfold secEffect
    rw [op]
    rfl
  rw [left] at effect
  refine ⟨_, (done_runs running).trans (congrArg Host.Outcome.next effect), both_of rfl rfl, ?_, ?_⟩
  · rw [fld_secEnd _ _ _ _ (by decide), fld_setFld_other _ (by decide), fld_setFld_self _ (by decide)]
    exact Nat.mod_eq_of_lt known
  · rw [fld_secEnd _ _ _ _ (by decide), fld_setFld_self _ (by decide)]
    exact Nat.mod_eq_of_lt (lt_of_le_of_lt (Nat.sub_le _ 1) (getBits_lt ..))

theorem done_raiseThSvn (op : r.op = 6) (known : r.arg < 65536) : ∃ t, exec (.secCmdDone none) s = .next t ∧ Both s t r ∧
    t.thMinSvn = r.arg ∧ t.fld F.SEC_SVN_TH_WORDS_LEFT 0 = s.fld F.SEC_SVN_TH_WORDS_LEFT 0 - 1 := by
  have left : (copied s r).fld F.SEC_SVN_TH_WORDS_LEFT 0 = s.fld F.SEC_SVN_TH_WORDS_LEFT 0 := rfl
  have effect : s.secEffect r = (((copied s r).setFld F.SEC_SVN_TH_MIN_SVN 0 r.arg).setFld F.SEC_SVN_TH_WORDS_LEFT 0
      ((copied s r).fld F.SEC_SVN_TH_WORDS_LEFT 0 - 1)).secEnd r.seq 0 := by
    unfold secEffect
    rw [op]
    rfl
  rw [left] at effect
  refine ⟨_, (done_runs running).trans (congrArg Host.Outcome.next effect), both_of rfl rfl, ?_, ?_⟩
  · unfold thMinSvn
    rw [fld_secEnd _ _ _ _ (by decide), fld_setFld_apart _ (by decide), fld_setFld_self _ (by decide)]
    exact Nat.mod_eq_of_lt known
  · rw [fld_secEnd _ _ _ _ (by decide), fld_setFld_self _ (by decide)]
    exact Nat.mod_eq_of_lt (lt_of_le_of_lt (Nat.sub_le _ 1) (getBits_lt ..))

/-- The word `bad` does not verify. -/
theorem done_fails (bad : BitVec 16) : ∃ t, exec (.secCmdDone (some bad)) s = .next t ∧ SecEnded t 6 r.seq ∧ t.lifecycle = s.lifecycle ∧
    t.sec = { s.sec with running := none, fuseA := t.sec.fuseA } ∧ (∀ w, w ≠ bad.toNat → t.fuseA w = s.fuseA w) ∧
    (s.coreOff = false → t.fld F.FCU_CNT_COUNT 2 = min (s.fld F.FCU_CNT_COUNT 2 + 1) 0xFFFFFFFF) := by
  have ran : exec (.secCmdDone (some bad)) s = .next (({ s.fresh.2 with
      sec := { s.sec with fuseA := SMap.put 0 s.sec.fuseA bad.toNat (s.fresh.1.setWidth 16) } } : State).raise 0x0C 0x02 bad.toNat |>.secEnd r.seq 6) := by
    refine congrArg Host.Outcome.next ?_
    rw [running]
    rfl
  have kept (w : Nat) (other : w ≠ bad.toNat) : SMap.get 0 (SMap.put 0 s.sec.fuseA bad.toNat (s.fresh.1.setWidth 16)) w = s.fuseA w :=
    SMap.get_put_ne _ _ _ _ other
  generalize SMap.put 0 s.sec.fuseA bad.toNat (s.fresh.1.setWidth 16) = fuses at *
  have fields (f : Fld) : ({ s.fresh.2 with sec := { s.sec with fuseA := fuses } } : State).fld f 0 = s.fld f 0 := rfl
  have sec : ({ s.fresh.2 with sec := { s.sec with fuseA := fuses } } : State).sec = { s.sec with fuseA := fuses } := rfl
  have core : ({ s.fresh.2 with sec := { s.sec with fuseA := fuses } } : State).coreOff = s.coreOff := rfl
  have count : ({ s.fresh.2 with sec := { s.sec with fuseA := fuses } } : State).fld F.FCU_CNT_COUNT 2 = s.fld F.FCU_CNT_COUNT 2 := rfl
  generalize ({ s.fresh.2 with sec := { s.sec with fuseA := fuses } } : State) = u at *
  have frame := Signals.signals_raise u 0x0C 0x02 bad.toNat
  have raised : (u.raise 0x0C 0x02 bad.toNat).sec = u.sec := (congrArg State.sec frame :)
  refine ⟨_, ran, ended_secEnd _ r.seq (by decide), ?_, ?_, ?_, fun on => ?_⟩
  · exact (fld_secEnd _ (f := F.SEC_LC_STATE) _ _ _ (by decide)).trans ((HostErrors.fld_raise _ _ _ _ _ (by decide)).trans (fields _))
  · rw [sec_secEnd, raised, sec]
  · intro w other
    rw [fuseA, sec_secEnd, raised, sec]
    exact kept w other
  · rw [fld_secEnd _ _ _ _ (by decide), ← count]
    exact TimeUnit.fld_raise_count u 0x0C 0x02 bad.toNat (c := .fat) (core.trans on) (by decide)

end

/-! ### The device that is left for analysis (R481) -/

theorem find?_keep {V : Type} {p : Nat → Bool} {k : Nat} (kept : p k = true) (m : SMap V) : SMap.find? (SMap.keep p m) k = SMap.find? m k := by
  induction m with
  | nil => rfl
  | cons e m ih =>
    show SMap.find? (List.filter _ (e :: m)) k = if k = e.1 then some e.2 else SMap.find? m k
    rw [List.filter_cons]
    by_cases same : k = e.1
    · rw [← same, if_pos kept, if_pos rfl]
      exact if_pos same
    · rw [if_neg same]
      split
      · exact (if_neg same).trans ih
      · exact ih

/-- The fuse shadow registers that stay as the device is reset. -/
theorem lifecycle_blank (d : DevState) : (s.blank d).lifecycle = s.lifecycle := by
  have kept : SMap.get (Reg.SEC_LC).resetWord (SMap.keep (fuseRegs.map fun r => regKey r 0).contains s.regs) (regKey .SEC_LC 0) = s.reg .SEC_LC 0 := by
    unfold SMap.get
    rw [find?_keep (by decide)]
    rfl
  refine (fld_setFld_other _ (by decide)).trans ?_
  exact congrArg (fun w => getBits w 0 2) kept

theorem lifecycle_gradeRegs : s.gradeRegs.lifecycle = s.lifecycle := by
  unfold gradeRegs
  split
  · exact (fld_setFld_other _ (by decide)).trans (fld_setFld_other s (by decide))
  · rfl

theorem lifecycle_released (straps : Word) : (s.released straps).lifecycle = s.lifecycle :=
  (lifecycle_gradeRegs _).trans ((fld_setReg_other (s.blank .locking) (by decide)).trans (lifecycle_blank s .locking))

theorem gradeRegs_frame : s.gradeRegs = { s with regs := s.gradeRegs.regs } := by
  unfold gradeRegs
  split
  · rfl
  · rfl

theorem released_values (straps : Word) : (s.released straps).dev = .locking ∧ (s.released straps).threads = [] ∧
    (s.released straps).slots.active = none ∧ (s.released straps).sec.fuseA = s.sec.fuseA := by
  have frame := gradeRegs_frame ((s.blank .locking).setReg .TOP_STRAP 0 straps)
  unfold released
  generalize ((s.blank .locking).setReg .TOP_STRAP 0 straps).gradeRegs = t at *
  exact ⟨(congrArg State.dev frame :), (congrArg State.threads frame :), (congrArg (fun u : State => u.slots.active) frame :),
    (congrArg (fun u : State => u.sec.fuseA) frame :)⟩

/-- Bits 0 and 2 of the lifecycle word, once burnt, read as ANALYSIS. -/
theorem lcState_analysis (v : BitVec 16) : lcState (v ||| 5).toNat = some 3 := by
  have low : (v ||| 5).toNat % 8 = v.toNat % 8 ||| 5 := by
    rw [BitVec.toNat_or]
    exact Nat.or_mod_two_pow (n := 3)
  have small : v.toNat % 8 < 8 := Nat.mod_lt _ (by decide)
  unfold lcState
  rw [low]
  generalize v.toNat % 8 = k at small
  interval_cases k <;> rfl

variable {s} in
theorem done_analysis {r : SecRun} (running : s.sec.running = some r) (op : r.op = 7) : ∃ t, exec (.secCmdDone none) s = .next t ∧ t.lifecycle = 3 ∧
    lcState (t.fuseA fuseLc).toNat = some 3 ∧ t.dev = .locking ∧ t.threads = [] ∧ t.slots.active = none := by
  have effect : ∃ u : State, u.sec.fuseA = burn s.sec.fuseA [(fuseLc, 5)] ∧
      s.secEffect r = (u.setFld F.SEC_LC_STATE 0 3).released (s.reg .TOP_STRAP 0) := by
    refine ⟨{ copied s r with sec := { (copied s r).sec with fuseA := burn s.sec.fuseA [(fuseLc, 5)], fuseB := burn (copied s r).sec.fuseB [(fuseLc, 5)] } },
      rfl, ?_⟩
    unfold secEffect
    rw [op]
    rfl
  obtain ⟨u, burnt, effect⟩ := effect
  obtain ⟨dev, threads, slots, fuses⟩ := released_values (u.setFld F.SEC_LC_STATE 0 3) (s.reg .TOP_STRAP 0)
  refine ⟨_, (done_runs running).trans (congrArg Host.Outcome.next effect), ?_, ?_, dev, threads, slots⟩
  · exact (lifecycle_released ..).trans (fld_setFld_self u (f := F.SEC_LC_STATE) (by decide))
  · rw [State.fuseA, fuses, show (u.setFld F.SEC_LC_STATE 0 3).sec.fuseA = _ from burnt]
    have written : SMap.get 0 (burn s.sec.fuseA [(fuseLc, 5)]) fuseLc = SMap.get 0 s.sec.fuseA fuseLc ||| 5 := SMap.get_put_self ..
    rw [written]
    exact lcState_analysis _

/-! ### The nonce and the token buffer -/

theorem but_nonce (w0 w1 w2 w3 : Word) :
    s.RegsBut ((((s.setReg .DBG_NONCE 0 w0).setReg .DBG_NONCE 1 w1).setReg .DBG_NONCE 2 w2).setReg .DBG_NONCE 3 w3)
      [(.DBG_NONCE, 0), (.DBG_NONCE, 1), (.DBG_NONCE, 2), (.DBG_NONCE, 3)] :=
  but_trans (but_trans (but_trans (but_setReg s .DBG_NONCE 0 w0) (but_setReg _ .DBG_NONCE 1 w1)) (but_setReg _ .DBG_NONCE 2 w2))
    (but_setReg _ .DBG_NONCE 3 w3)

theorem nonceRead_regs : ∃ w0 w1 w2 w3, s.nonceRead.2.regs =
    ((((s.setReg .DBG_NONCE 0 w0).setReg .DBG_NONCE 1 w1).setReg .DBG_NONCE 2 w2).setReg .DBG_NONCE 3 w3).regs := ⟨_, _, _, _, rfl⟩

section
variable {s}

theorem nonce_read (opens : s.regOpen .DBG_NONCE 0 = true) : ∃ t, exec .dbgNonceRead s = .next t ∧
    s.RegsBut t [(.DBG_NONCE, 0), (.DBG_NONCE, 1), (.DBG_NONCE, 2), (.DBG_NONCE, 3)] ∧ t.out = .readData (t.reg .DBG_NONCE 0) :: s.out ∧
    t.sec = { s.sec with nonceLive := true } := by
  obtain ⟨w0, w1, w2, w3, drawn⟩ := nonceRead_regs s
  exact ⟨_, congrArg Host.Outcome.next (onRead_open s _ _ _ _ opens), but_congr (but_nonce s w0 w1 w2 w3) drawn, rfl, rfl⟩

variable {w : Word} (opens : s.regOpen .DBG_TOKEN_DATA 0 = true)
include opens

theorem token_write (room : s.fld F.DBG_TOKEN_PTR_INDEX 0 ≤ 622) : ∃ t, exec (.dbgTokenWrite w) s = .next t ∧
    s.OnlyRegs { t with sec := s.sec } [(.DBG_TOKEN_PTR, 0)] ∧ t.fld F.DBG_TOKEN_PTR_INDEX 0 = s.fld F.DBG_TOKEN_PTR_INDEX 0 + 1 ∧
    t.tokenWord (s.fld F.DBG_TOKEN_PTR_INDEX 0) = w := by
  refine ⟨_, congrArg Host.Outcome.next ((onReg_open s _ _ _ _ opens).trans (if_neg (Nat.not_lt.2 room))),
    ⟨rfl, but_setFld s F.DBG_TOKEN_PTR_INDEX 0 _⟩, ?_, SMap.get_put_self ..⟩
  exact (fld_setFld_self s (f := F.DBG_TOKEN_PTR_INDEX) (by decide)).trans (Nat.mod_eq_of_lt (lt_of_le_of_lt (Nat.succ_le_succ room) (by decide)))

theorem token_full (full : 622 < s.fld F.DBG_TOKEN_PTR_INDEX 0) : exec (.dbgTokenWrite w) s = .next s :=
  congrArg Host.Outcome.next ((onReg_open s _ _ _ _ opens).trans (if_pos full))

end

/-- Settles O56: what each command is tested for, then what its verified fuses bring, by the command's row. -/
theorem securityCommands : Obligations.SecurityCommands := by
  intro s q w r bad
  refine ⟨fun opens busy => busy_refuses opens busy, fun opens idle => ⟨provision_barred opens idle,
    fun lc => ⟨fuseKey_barred opens idle lc, deploy_barred opens idle lc⟩, either_barred opens idle, provision_starts opens idle,
    fun lc n slot operator empty => fuseKey_starts opens idle lc slot operator empty rfl, fun lc n slot => fuseKey_refuses opens idle lc slot,
    fun lc n slot => ⟨revokeKey_starts opens idle lc slot, revokeKey_refuses opens idle lc slot⟩,
    fun lc i active => ⟨deploy_starts opens idle lc active, deploy_refuses opens idle lc active⟩,
    fun lc => ⟨raiseSvn_refuses opens idle lc, fun above running => ⟨raiseSvn_starts opens idle lc above running, raiseSvn_spent opens idle lc above running⟩,
      fun above running => ⟨raiseThSvn_starts opens idle lc above running, raiseThSvn_spent opens idle lc above running⟩⟩,
    fun lc => ⟨toAnalysis_rejects opens idle lc rfl, toAnalysis_starts opens idle lc⟩⟩,
    fun running => ⟨done_fails running bad, fun op => ?_, done_fuseKey running, done_revokeKey running, fun op => ?_, done_raiseSvn running,
      done_raiseThSvn running, done_analysis running⟩, nonce_read, rfl, token_write, token_full⟩
  · refine done_state running (by decide) ?_
    unfold secEffect
    rw [op]
    rfl
  · refine done_state running (by decide) ?_
    unfold secEffect
    rw [op]
    rfl

end Sys2Proof.Machine.SecurityUnit
end

section
/-!
PROOFS. SPDM over DOE, IDE key programming, TDISP and translation invalidations (R96, R98–R104, R128).
-/

namespace Sys2Proof.Machine.LinkProtocols
open State Fields Frames

variable {s : State}

/-! ### DOE mailboxes -/

theorem doe_setDoe (m : DoeMbx) (x : Doe) : (s.setDoe m x).doe m = x := SMap.get_put_self ({} : Doe) s.does (doeKey m) x

theorem setDoe_setDoe_doe (m : DoeMbx) (x y : Doe) : ((s.setDoe m x).setDoe m y).doe m = y := doe_setDoe m y

/-- A session's lowest free number exists as long as one of the four is free. -/
theorem freeSession_none (b : BitVec 4) : freeSession b = none ↔ b = 0xF := by
  revert b
  decide

/-- The requests that need no keys. -/
def early : List SpdmReq := [.getVersion, .getCapabilities, .negotiateAlgorithms]

/-- What a request does to the state, the mailbox and the answer's error. -/
structure Stepped (s : State) (d : Doe) (req : SpdmReq) (t : State) (e : Doe) (bad : Bool) : Prop where
  frame : t = { s with spans := t.spans }
  kept : e.response = d.response ∧ e.waiting = d.waiting
  open_ : req ∈ early → bad = false
  keyless : s.sec.dice = false → req ∉ early → bad = true ∧ e.sessions = d.sessions ∧ t.spans = s.spans
  exchange : s.sec.dice = true → req = .keyExchange → (bad = false ↔ d.sessions ≠ 0xF)
  start : ∀ j, s.sec.dice = true → req = .tdispStart j → (s.span j.val).tdi = .locked → bad = false ∧ (t.span j.val).tdi = .run

/-- A request that changes nothing. -/
theorem stepped_same {d : Doe} {req : SpdmReq} {bad : Bool} (open_ : req ∈ early → bad = false) (keyless : s.sec.dice = false → req ∉ early → bad = true)
    (exchange : req ≠ .keyExchange ∨ bad = true ∧ (s.sec.dice = false ∨ d.sessions = 0xF))
    (start : ∀ j, s.sec.dice = true → req = .tdispStart j → (s.span j.val).tdi ≠ .locked) : Stepped s d req s d bad where
  frame := rfl
  kept := ⟨rfl, rfl⟩
  open_ := open_
  keyless off other := ⟨keyless off other, rfl, rfl⟩
  exchange on is := by
    rcases exchange with no | ⟨err, off | full⟩
    · exact absurd is no
    · rw [off] at on
      cases on
    · rw [err]
      exact ⟨fun h => (Bool.noConfusion h), fun h => absurd full h⟩
  start j on is locked := absurd locked (start j on is)

/-- A request of a session, or a new one, changes the mailbox only. -/
theorem stepped_session {d e : Doe} {req : SpdmReq} (on : s.sec.dice = true) (kept : e.response = d.response ∧ e.waiting = d.waiting)
    (exchange : req = .keyExchange → d.sessions ≠ 0xF) (start : ∀ j, req ≠ .tdispStart j) : Stepped s d req s e false where
  frame := rfl
  kept := kept
  open_ _ := rfl
  keyless off := by
    rw [on] at off
    cases off
  exchange _ is := ⟨fun _ => exchange is, fun _ => rfl⟩
  start j _ is := absurd is (start j)

/-- An error changes nothing, whatever was asked that needs keys or a session. -/
theorem stepped_error {d : Doe} {req : SpdmReq} (other : req ∉ early) (exchange : req ≠ .keyExchange ∨ s.sec.dice = false ∨ d.sessions = 0xF)
    (start : ∀ j, s.sec.dice = true → req = .tdispStart j → (s.span j.val).tdi ≠ .locked) : Stepped s d req s d true :=
  stepped_same (fun is => absurd is other) (fun _ _ => rfl) (exchange.imp_right fun why => ⟨rfl, why⟩) start

theorem step_stepped (d : Doe) (req : SpdmReq) :
    Stepped s d req (s.spdmStep d req).1 (s.spdmStep d req).2.1 (s.spdmStep d req).2.2.1 := by
  cases req with
  | getVersion => exact stepped_same (fun _ => rfl) (fun _ other => absurd (by decide) other) (.inl (by decide)) (fun _ _ is => by cases is)
  | getCapabilities => exact stepped_same (fun _ => rfl) (fun _ other => absurd (by decide) other) (.inl (by decide)) (fun _ _ is => by cases is)
  | negotiateAlgorithms => exact stepped_same (fun _ => rfl) (fun _ other => absurd (by decide) other) (.inl (by decide)) (fun _ _ is => by cases is)
  | unsupported c => exact stepped_error (by simp [early]) (.inl (by simp)) (fun _ _ is => by cases is)
  | keyExchange =>
    unfold spdmStep
    dsimp only
    cases on : s.sec.dice
    · exact stepped_error (by decide) (.inr (.inl on)) (fun _ _ is => by cases is)
    · cases found : freeSession d.sessions with
      | none => exact stepped_error (by decide) (.inr (.inr ((freeSession_none _).1 found))) (fun _ _ is => by cases is)
      | some i =>
        refine stepped_session on ⟨rfl, rfl⟩ (fun _ full => ?_) (fun _ is => by cases is)
        rw [(freeSession_none _).2 full] at found
        cases found
  | endSession i =>
    unfold spdmStep
    dsimp only
    split
    · next both => exact stepped_session (Bool.and_eq_true_iff.1 both).1 ⟨rfl, rfl⟩ (fun is => by cases is) (fun _ is => by cases is)
    · exact stepped_error (by simp [early]) (.inl (by simp)) (fun _ _ is => by cases is)
  | finish i =>
    unfold spdmStep
    dsimp only
    split
    · next both =>
      obtain ⟨⟨on, -⟩, -⟩ := (Bool.and_eq_true_iff.1 both).imp_left Bool.and_eq_true_iff.1
      exact stepped_session on ⟨rfl, rfl⟩ (fun is => by cases is) (fun _ is => by cases is)
    · exact stepped_error (by simp [early]) (.inl (by simp)) (fun _ _ is => by cases is)
  | tdispStart j =>
    unfold spdmStep
    dsimp only
    split
    · next both =>
      obtain ⟨on, locked⟩ := Bool.and_eq_true_iff.1 both
      refine ⟨rfl, ⟨rfl, rfl⟩, fun _ => rfl, fun off => ?_, fun _ is => (by cases is), fun j' _ is _ => ?_⟩
      · rw [on] at off
        cases off
      · cases is
        rw [span_setSpan]
        exact ⟨rfl, rfl⟩
    · next not_ =>
      refine stepped_error (by simp [early]) (.inl (by simp)) (fun j' on is locked => not_ ?_)
      cases is
      rw [on, locked]
      rfl
  | tdispGetState j =>
    unfold spdmStep
    dsimp only
    split
    · next both => exact stepped_session (Bool.and_eq_true_iff.1 both).1 ⟨rfl, rfl⟩ (fun is => by cases is) (fun _ is => by cases is)
    · exact stepped_error (by simp [early]) (.inl (by simp)) (fun _ _ is => by cases is)
  | heartbeat =>
    unfold spdmStep
    dsimp only
    split
    · next both => exact stepped_session (Bool.and_eq_true_iff.1 both).1 ⟨rfl, rfl⟩ (fun is => by cases is) (fun _ is => by cases is)
    · exact stepped_error (by decide) (.inl (by decide)) (fun _ _ is => by cases is)
  | keyUpdate =>
    unfold spdmStep
    dsimp only
    split
    · next both => exact stepped_session (Bool.and_eq_true_iff.1 both).1 ⟨rfl, rfl⟩ (fun is => by cases is) (fun _ is => by cases is)
    · exact stepped_error (by decide) (.inl (by decide)) (fun _ _ is => by cases is)
  | _ =>
    unfold spdmStep
    dsimp only
    split
    · next on => exact stepped_session on ⟨rfl, rfl⟩ (fun is => by cases is) (fun _ is => by cases is)
    · exact stepped_error (by decide) (.inl (by decide)) (fun _ _ is => by cases is)

theorem spdmBody_frame (u : State) (r : SpdmReq) : (u.spdmBody r).2 = { u with free := (u.spdmBody r).2.free } := by
  cases r <;> rfl

/-- What the responder answers, and what it leaves. -/
structure Answers (s : State) (d : Doe) (req : SpdmReq) (t : State) (e : Doe) (a : DoeResp) : Prop where
  frame : t = { s with spans := t.spans, free := t.free }
  asked : a.req = req
  stepped : ∃ u, Stepped s d req u e a.error.isSome ∧ t.spans = u.spans
  keyless : s.sec.dice = false → a.error.isSome = true → a.error = some .unspecified

theorem answers (d : Doe) (req : SpdmReq) : Answers s d req (s.spdmAnswer d req).1 (s.spdmAnswer d req).2.1 (s.spdmAnswer d req).2.2 := by
  have step := step_stepped (s := s) d req
  unfold spdmAnswer
  generalize s.spdmStep d req = result at *
  obtain ⟨u, e, bad, i⟩ := result
  dsimp only at *
  have frame : u = { s with spans := u.spans } := step.frame
  have body := spdmBody_frame u req
  cases bad
  · rw [if_neg Bool.false_ne_true]
    generalize u.spdmBody req = said at *
    obtain ⟨b, v⟩ := said
    dsimp only at *
    refine ⟨?_, rfl, ⟨u, step, (congrArg State.spans body :)⟩, fun _ err => (by cases err)⟩
    rw [body, frame]
  · rw [if_pos rfl]
    refine ⟨?_, rfl, ⟨u, step, rfl⟩, fun off _ => ?_⟩
    · rw [frame]
    · have dice : u.sec.dice = false := by
        rw [frame]
        exact off
      dsimp only
      rw [dice]
      rfl

/-! ### Requests of a DOE mailbox -/

/-- The mailbox's record with a request in line. -/
def queued (s : State) (m : DoeMbx) (req : SpdmReq) : State := s.setDoe m { s.doe m with waiting := (s.doe m).waiting ++ [req] }

theorem served_frame (m : DoeMbx) (d e : Doe) (o : Out) : ((s.setDoe m d).setDoe m e).emit o =
    { s with does := (((s.setDoe m d).setDoe m e).emit o).does, out := o :: s.out } := rfl

section
variable {m : DoeMbx} {len : Nat} {req : SpdmReq}

theorem request_ignored (bad : s.doeUp m = false ∨ 65536 < len) : exec (.doeRequest m { req := req, len := len }) s = .next s := by
  refine congrArg Host.Outcome.next (if_neg fun good => ?_)
  obtain ⟨up, short⟩ := good
  rcases bad with down | long
  · rw [down] at up
    cases up
  · exact absurd short (Nat.not_le.2 long)

variable (up : s.doeUp m = true) (short : len ≤ 65536)
include up short

theorem request_serves : exec (.doeRequest m { req := req, len := len }) s = .next ((queued s m req).doeServe m) :=
  congrArg Host.Outcome.next (if_pos ⟨up, short⟩)

theorem request_waits (held : (s.doe m).response ≠ none) : ∃ t, exec (.doeRequest m { req := req, len := len }) s = .next t ∧
    t = { s with does := t.does } ∧ t.doe m = { s.doe m with waiting := (s.doe m).waiting ++ [req] } := by
  have same : (queued s m req).doeServe m = queued s m req := by
    unfold doeServe
    dsimp only
    rw [queued, doe_setDoe]
    dsimp only
    cases given : (s.doe m).response with
    | none => exact absurd given held
    | some a => rfl
  exact ⟨_, (request_serves up short).trans (congrArg Host.Outcome.next same), rfl, doe_setDoe ..⟩

variable (free : (s.doe m).response = none) (empty : (s.doe m).waiting = [])
include free empty

theorem request_answers : exec (.doeRequest m { req := req, len := len }) s = .next
    ((((queued s m req).spdmAnswer (s.doe m) req).1.setDoe m { ((queued s m req).spdmAnswer (s.doe m) req).2.1 with
      response := some ((queued s m req).spdmAnswer (s.doe m) req).2.2 }).emit (.spdm m ((queued s m req).spdmAnswer (s.doe m) req).2.2)) := by
  refine (request_serves up short).trans (congrArg Host.Outcome.next ?_)
  have asked : (queued s m req).doe m = { s.doe m with waiting := [req] } := by
    rw [queued, doe_setDoe, empty]
    rfl
  have back : ({ s.doe m with waiting := [] } : Doe) = s.doe m := by rw [← empty]
  unfold doeServe
  dsimp only
  rw [asked, free]
  dsimp only
  rw [← free, back]

theorem getVersion_answered : ∃ t, exec (.doeRequest m { req := .getVersion, len := len }) s = .next t ∧
    t = { s with does := t.does, out := .spdm m { req := .getVersion, body := { version := some 0x13 } } :: s.out } ∧
    t.doe m = { s.doe m with response := some { req := .getVersion, body := { version := some 0x13 } } } := by
  have said : (queued s m .getVersion).spdmAnswer (s.doe m) .getVersion =
      (queued s m .getVersion, s.doe m, { req := .getVersion, body := { version := some 0x13 } }) := rfl
  have ran := request_answers (req := .getVersion) up short free empty
  rw [said] at ran
  exact ⟨_, ran, served_frame .., doe_setDoe ..⟩

/-- What a request answers and changes. -/
theorem request_answered : ∃ t b, exec (.doeRequest m { req := req, len := len }) s = .next t ∧ t.out = .spdm m b :: s.out ∧
    (t.doe m).response = some b ∧ (t.doe m).waiting = [] ∧ b.req = req ∧ (req ∈ early → b.error = none) ∧
    (s.sec.dice = false → req ∉ early → b.error = some .unspecified ∧ (t.doe m).sessions = (s.doe m).sessions ∧ t.spans = s.spans) ∧
    (s.sec.dice = true → req = .keyExchange → (b.error = none ↔ (s.doe m).sessions ≠ 0xF)) ∧
    (∀ j, s.sec.dice = true → req = .tdispStart j → (s.span j.val).tdi = .locked → b.error = none ∧ (t.span j.val).tdi = .run) := by
  obtain ⟨frame, asked, ⟨u, step, spans⟩, keyless⟩ := answers (s := queued s m req) (s.doe m) req
  have ran := request_answers (req := req) up short free empty
  generalize (queued s m req).spdmAnswer (s.doe m) req = result at *
  obtain ⟨t, e, a⟩ := result
  dsimp only at *
  have own : ((t.setDoe m { e with response := some a }).emit (.spdm m a)).doe m = { e with response := some a } := doe_setDoe m _
  obtain ⟨-, waiting⟩ := step.kept
  refine ⟨_, a, ran, congrArg (Out.spdm m a :: ·) (congrArg State.out frame :), ?_, ?_, asked, fun is => ?_, fun off other => ?_, fun on is => ?_,
    fun j on is locked => ?_⟩
  · rw [own]
  · rw [own]
    exact waiting.trans empty
  · exact Option.isSome_eq_false_iff.1 (step.open_ is) |> Option.isNone_iff_eq_none.1
  · obtain ⟨err, sessions, same⟩ := step.keyless off other
    refine ⟨keyless off err, ?_, spans.trans same⟩
    rw [own]
    exact sessions
  · refine Iff.trans ?_ (step.exchange on is)
    cases a.error <;> simp
  · obtain ⟨none_, run⟩ := step.start j on is locked
    refine ⟨Option.isSome_eq_false_iff.1 none_ |> Option.isNone_iff_eq_none.1, ?_⟩
    rw [Spans.span_congr (t := (t.setDoe m { e with response := some a }).emit (.spdm m a)) (s := u) spans]
    exact run

end

theorem abort_discards (m : DoeMbx) : ∃ t, exec (.doeAbort m) s = .next t ∧ t = { s with does := t.does } ∧
    t.doe m = { s.doe m with waiting := [], response := none } := ⟨_, rfl, rfl, doe_setDoe ..⟩

/-! ### IDE keys -/

section
variable {h : Link} {k : IdeProg}

theorem stream_setStream (s : State) (h i : Nat) (x : IdeStream) : (s.setStream h i x).stream h i = x := SMap.get_put_self IdeStream.none ..

theorem stream_setStream_ne {h i h' i' : Nat} (x : IdeStream) (other : ideKey h' i' ≠ ideKey h i) : (s.setStream h i x).stream h' i' = s.stream h' i' :=
  SMap.get_put_ne IdeStream.none IdeStream.none s.ide x other

theorem keyProg_programs (session : (s.doe (.pf h)).finished ≠ 0) : ∃ t, exec (.ideKmKeyProg h k) s = .next t ∧
    t = { s with ide := t.ide, ideKeys := t.ideKeys } ∧ t.stream h.val k.stream.val = .secure ∧
    SMap.get 0 t.ideKeys (State.ideKey h.val k.stream.val) = k.key ∧
    ∀ h' i', i' < 8 → ¬(h' = h.val ∧ i' = k.stream.val) → t.stream h' i' = s.stream h' i' := by
  refine ⟨_, congrArg Host.Outcome.next (if_neg session), rfl, stream_setStream .., SMap.get_put_self .., fun h' i' small other => ?_⟩
  refine stream_setStream_ne (s := { s with ideKeys := SMap.put 0 s.ideKeys (ideKey h.val k.stream.val) k.key }) _ fun same => other ?_
  have bound := k.stream.isLt
  unfold ideKey at same
  omega

theorem keyProg_ignored (none_ : (s.doe (.pf h)).finished = 0) : exec (.ideKmKeyProg h k) s = .next s := congrArg Host.Outcome.next (if_pos none_)

end

/-! ### TDISP -/

section
variable {n : SpanId}

/-- A TDISP request that is answered and changes nothing. -/
def Answered (s : State) (c : Instr) (n : SpanId) (a : TdispAnswer) : Prop := exec c s = .next { s with out := .tdisp n.val a :: s.out }

theorem lock_keyless (off : s.sec.dice = false) : Answered s (.lockInterfaceRequest n) n .unspecified :=
  congrArg Host.Outcome.next (if_pos (by rw [off]; rfl))

theorem stop_incapable (no : (s.span n.val).tdispCapable = false) : Answered s (.stopInterfaceRequest n) n .unsupportedRequest :=
  congrArg Host.Outcome.next (if_pos (by rw [no]; rfl))

section
variable (on : s.sec.dice = true)
include on

theorem lock_incapable (no : (s.span n.val).tdispCapable = false) : Answered s (.lockInterfaceRequest n) n .unsupportedRequest :=
  congrArg Host.Outcome.next ((if_neg (by rw [on]; exact Bool.false_ne_true)).trans (if_pos (by rw [no]; rfl)))

variable (capable : (s.span n.val).tdispCapable = true)
include capable

theorem lock_badState (locked : (s.span n.val).tdi ≠ .unlocked) : Answered s (.lockInterfaceRequest n) n .invalidInterfaceState :=
  congrArg Host.Outcome.next ((if_neg (by rw [on]; exact Bool.false_ne_true)).trans
    ((if_neg (by rw [capable]; exact Bool.false_ne_true)).trans (if_pos locked)))

variable (unlocked : (s.span n.val).tdi = .unlocked)
include unlocked

theorem lock_badDevice (none_ : s.secureStream n.val = none) : Answered s (.lockInterfaceRequest n) n .invalidDeviceConfiguration := by
  refine congrArg Host.Outcome.next ((if_neg (by rw [on]; exact Bool.false_ne_true)).trans
    ((if_neg (by rw [capable]; exact Bool.false_ne_true)).trans ((if_neg (not_not.2 unlocked)).trans ?_)))
  rw [none_]
  rfl

theorem lock_locks {i : Nat} (stream : s.secureStream n.val = some i) : ∃ t, exec (.lockInterfaceRequest n) s = .next t ∧
    t = { s with spans := t.spans, out := .tdisp n.val .ok :: s.out } ∧
    t.span n.val = { s.span n.val with tdi := .locked, stream := i } ∧ ∀ j, j ≠ n.val → t.span j = s.span j := by
  have ran : exec (.lockInterfaceRequest n) s =
      .next ((s.setSpan n.val { s.span n.val with tdi := .locked, stream := i }).emit (.tdisp n.val .ok)) := by
    refine congrArg Host.Outcome.next ((if_neg (by rw [on]; exact Bool.false_ne_true)).trans
      ((if_neg (by rw [capable]; exact Bool.false_ne_true)).trans ((if_neg (not_not.2 unlocked)).trans ?_)))
    rw [stream]
  exact ⟨_, ran, rfl, span_setSpan .., fun j other => span_setSpan_ne s _ other⟩

end

theorem retryMsix_none {f : Fn} (none_ : s.msixWait = []) : s.retryMsix f = s := by
  unfold retryMsix
  rw [none_]
  show ({ s with msixWait := [] } : State) = s
  exact congrArg (fun w => ({ s with msixWait := w } : State)) none_.symm

theorem retryEvents_none {k : Nat} (none_ : s.queues = []) : s.retryEvents k = s := by
  unfold retryEvents
  rw [none_]
  rfl

theorem stop_stops (capable : (s.span n.val).tdispCapable = true)
    (quiet : (s.span n.val).tdi = .error → s.walks = [] ∧ s.stalled = [] ∧ s.msixWait = [] ∧ s.queues = []) :
    ∃ t, exec (.stopInterfaceRequest n) s = .next t ∧ t = { s with spans := t.spans, out := .tdisp n.val .ok :: s.out } ∧
      t.span n.val = { s.span n.val with tdi := .unlocked, stream := 0 } := by
  have ran : exec (.stopInterfaceRequest n) s =
      .next ((s.setSpan n.val { s.span n.val with tdi := .unlocked, stream := 0 }).emit (.tdisp n.val .ok)) := by
    refine congrArg Host.Outcome.next ((if_neg (by rw [capable]; exact Bool.false_ne_true)).trans ?_)
    by_cases err : (s.span n.val).tdi = .error
    · obtain ⟨walks, stalled, waits, queues⟩ := quiet err
      refine (if_neg (not_not.2 err)).trans ?_
      have walks' : ((s.setSpan n.val { s.span n.val with tdi := .unlocked, stream := 0 }).emit (.tdisp n.val .ok)).walks = [] := walks
      have stalled' : ((s.setSpan n.val { s.span n.val with tdi := .unlocked, stream := 0 }).emit (.tdisp n.val .ok)).stalled = [] := stalled
      have waits' : ((s.setSpan n.val { s.span n.val with tdi := .unlocked, stream := 0 }).emit (.tdisp n.val .ok)).msixWait = [] := waits
      have queues' : ((s.setSpan n.val { s.span n.val with tdi := .unlocked, stream := 0 }).emit (.tdisp n.val .ok)).queues = [] := queues
      generalize (s.setSpan n.val { s.span n.val with tdi := .unlocked, stream := 0 }).emit (.tdisp n.val .ok) = t at *
      split
      · rw [retryMsix_none waits', HostLinks.retryStalled_none walks' stalled', retryEvents_none queues']
      · rfl
    · exact if_pos err
  exact ⟨_, ran, rfl, span_setSpan ..⟩

end

/-! ### Invalidations of the host (R96) -/

section
variable {n : SpanId} {sc : BitVec 2} {page : BitVec 52}

/-- A cached translation of the Span in the scope. -/
def Hit (n : SpanId) (sc : BitVec 2) (page : BitVec 52) (y : Xlate) : Prop := y.span = n.val ∧ invCovers sc n.val page.toNat y = true

/-- What the outstanding requests of the Span used of the scope. -/
def users (s : State) (n : SpanId) (sc : BitVec 2) (page : BitVec 52) : List Nat :=
  s.tagsOf fun r => r.span == some n.val && invRequest sc n.val page.toNat r

/-- The state without the translations in the scope. -/
def dropped (s : State) (n : SpanId) (sc : BitVec 2) (page : BitVec 52) : State :=
  { s with tlb := s.tlb.filter fun x => !(x.span == n.val && invCovers sc n.val page.toNat x) }

theorem mem_dropped (y : Xlate) : y ∈ (dropped s n sc page).tlb ↔ y ∈ s.tlb ∧ ¬Hit n sc page y := by
  refine List.mem_filter.trans (and_congr_right fun _ => ?_)
  rw [Bool.not_eq_true', Bool.and_eq_false_iff, Hit, Classical.not_and_iff_not_or_not, beq_eq_false_iff_ne, Bool.not_eq_true]

theorem hit_all (y : Xlate) : Hit n 2 page y ↔ y.span = n.val := by
  have covers : invCovers 2 n.val page.toNat y = (y.span == n.val) := rfl
  unfold Hit
  rw [covers, beq_iff_eq]
  exact and_self_iff

theorem ats_insecure {f : Fn} (fn : s.spanFn n.val = some f) (drops : s.ideDrops f = true) : exec (.atsInvalidation n sc page) s = .next s := by
  refine congrArg Host.Outcome.next (if_pos ?_)
  rw [fn]
  exact drops

variable (secure : ∀ f, s.spanFn n.val = some f → s.ideDrops f = false)
include secure

theorem ats_runs : exec (.atsInvalidation n sc page) s = .next (if (users s n sc page).isEmpty then (dropped s n sc page).atsAnswer n.val
    else { dropped s n sc page with atsWait := s.atsWait ++ [(n.val, users s n sc page)] }) := by
  refine congrArg Host.Outcome.next (if_neg ?_)
  cases fn : s.spanFn n.val with
  | none => exact Bool.false_ne_true
  | some f => exact fun drops => Bool.noConfusion ((secure f fn).symm.trans drops)

theorem ats_answer : (dropped s n sc page).atsAnswer n.val = (dropped s n sc page).emit (.atsDone n.val) := by
  have same : (dropped s n sc page).spanFn n.val = s.spanFn n.val := rfl
  unfold atsAnswer
  rw [same]
  cases fn : s.spanFn n.val with
  | none => rfl
  | some f =>
    have sends : (dropped s n sc page).ideDrops f = false := secure f fn
    dsimp only
    rw [sendReq, sends]
    exact if_neg Bool.false_ne_true

theorem ats_answers (idle : users s n sc page = []) : exec (.atsInvalidation n sc page) s = .next ((dropped s n sc page).emit (.atsDone n.val)) := by
  refine (ats_runs secure).trans (congrArg Host.Outcome.next ?_)
  rw [idle]
  exact ats_answer secure

theorem ats_waits (busy : users s n sc page ≠ []) : exec (.atsInvalidation n sc page) s =
    .next { dropped s n sc page with atsWait := s.atsWait ++ [(n.val, users s n sc page)] } :=
  (ats_runs secure).trans (congrArg Host.Outcome.next (if_neg fun none => busy (List.isEmpty_iff.1 none)))

theorem ats_invalidates : ∃ t, exec (.atsInvalidation n sc page) s = .next t ∧ t = { s with tlb := t.tlb, atsWait := t.atsWait, out := t.out } ∧
    (∀ y, y ∈ t.tlb ↔ y ∈ s.tlb ∧ ¬Hit n sc page y) ∧
    (users s n sc page = [] → t.atsWait = s.atsWait ∧ t.out = .atsDone n.val :: s.out) ∧
    (users s n sc page ≠ [] → t.atsWait = s.atsWait ++ [(n.val, users s n sc page)] ∧ t.out = s.out) := by
  by_cases idle : users s n sc page = []
  · exact ⟨_, ats_answers secure idle, rfl, mem_dropped, fun _ => ⟨rfl, rfl⟩, fun busy => absurd idle busy⟩
  · exact ⟨_, ats_waits secure idle, rfl, mem_dropped, fun none => absurd none idle, fun _ => ⟨rfl, rfl⟩⟩

theorem ats_flushes (none_ : s.tags = []) : ∃ t, exec (.atsInvalidation n 2 page) s = .next t ∧
    t = { s with tlb := t.tlb, out := .atsDone n.val :: s.out } ∧ ∀ y, y ∈ t.tlb ↔ y ∈ s.tlb ∧ y.span ≠ n.val := by
  have idle : users s n 2 page = [] := by
    unfold users tagsOf
    rw [none_]
    rfl
  refine ⟨_, ats_answers secure idle, rfl, fun y => (mem_dropped y).trans (and_congr_right fun _ => not_congr (hit_all y))⟩

end

/-! ### Invalidations of the Manager (R128) -/

section
variable {n : SpanId} {sc : BitVec 2} {q : Seq} (opens : s.regOpen .STU_INV_CMD 0 = true)
include opens

theorem inv_accepted (room : s.invals.length < 16) : ∃ t, exec (.stuInvCmd n sc q) s = .next t ∧ t.fld F.STU_INV_STATUS_BUSY 0 = 1 ∧
    (∀ y, y ∈ t.tlb ↔ y ∈ s.tlb ∧ invCovers sc n.val (s.fld F.STU_INV_ADDR_ADDR 0) y = false) ∧ t.invals.length = s.invals.length + 1 := by
  refine ⟨_, congrArg Host.Outcome.next ((onReg_open s _ _ _ _ opens).trans (if_pos room)), fld_setFld_self _ (f := F.STU_INV_STATUS_BUSY) (by decide),
    fun y => ?_, List.length_append⟩
  exact List.mem_filter.trans (and_congr_right fun _ => Bool.not_eq_true' _ |> Iff.of_eq)

theorem inv_waits (full : 16 ≤ s.invals.length) : ∃ w, exec (.stuInvCmd n sc q) s = .next { s with ring := s.ring ++ [.write (regOff .STU_INV_CMD 0) w] } :=
  ⟨_, congrArg Host.Outcome.next ((onReg_open s _ _ _ _ opens).trans (if_neg (Nat.not_lt.2 full)))⟩

end

/-- The end of the oldest invalidation, before the ring goes on. -/
def finished (s : State) (v : Inval) (rest : List Inval) : State :=
  ((({ s with invals := rest } : State).setFld F.STU_INV_STATUS_LAST_SEQ 0 v.seq.toNat).setFld F.STU_INV_STATUS_BUSY 0 (b2n !rest.isEmpty)).stuEvt 4

theorem finished_frame (s : State) (v : Inval) (rest : List Inval) : ({ s with invals := rest } : State).OnlySignals (finished s v rest) :=
  signals_trans (signals_trans (only_setFld ({ s with invals := rest } : State) F.STU_INV_STATUS_LAST_SEQ 0 v.seq.toNat)
    (only_setFld _ F.STU_INV_STATUS_BUSY 0 (b2n !rest.isEmpty))) (only_setEvt _ .STU_EVT .STU_EVT_EN .STU_MSIX_VEC 0 4)

theorem finished_tells (s : State) (v : Inval) (rest : List Inval) : (finished s v rest).fld F.STU_INV_STATUS_LAST_SEQ 0 = v.seq.toNat ∧
    (finished s v rest).fld F.STU_INV_STATUS_BUSY 0 = (if rest = [] then 0 else 1) ∧ (finished s v rest).Event .STU_EVT 0 4 := by
  unfold finished stuEvt
  refine ⟨?_, ?_, event_setEvt _ (by decide)⟩
  · rw [fld_setEvt_other _ (by decide), fld_setFld_apart _ (by decide), fld_setFld_self _ (by decide)]
    exact Nat.mod_eq_of_lt v.seq.isLt
  · rw [fld_setEvt_other _ (by decide), fld_setFld_self _ (by decide)]
    cases rest <;> rfl

theorem drainRing_empty {t : State} (quiet : t.ring = []) : t.drainRing = t := by
  unfold drainRing
  rw [quiet]
  show ({ t with ring := [] } : State) = t
  exact congrArg (fun r => ({ t with ring := r } : State)) quiet.symm

section
variable {v : Inval} {rest : List Inval} (front : s.invals = v :: rest)
include front

theorem inv_goesOn (busy : v.waitOn ≠ []) : exec .invalidationDone s = .next s := by
  refine congrArg Host.Outcome.next ?_
  rw [front]
  exact if_pos (by
    rw [Bool.not_eq_true', Bool.eq_false_iff]
    exact fun none => busy (List.isEmpty_iff.1 none))

theorem inv_ends (idle : v.waitOn = []) (quiet : s.ring = []) : ∃ t, exec .invalidationDone s = .next t ∧ s.OnlySignals { t with invals := s.invals } ∧
    t.invals = rest ∧ t.fld F.STU_INV_STATUS_LAST_SEQ 0 = v.seq.toNat ∧ t.fld F.STU_INV_STATUS_BUSY 0 = (if rest = [] then 0 else 1) ∧
    t.Event .STU_EVT 0 4 := by
  have frame := finished_frame s v rest
  have tells := finished_tells s v rest
  have ran : exec .invalidationDone s = .next (finished s v rest).drainRing := by
    refine congrArg Host.Outcome.next ?_
    rw [front]
    exact if_neg (by rw [idle]; exact Bool.false_ne_true)
  generalize finished s v rest = t at *
  rw [drainRing_empty ((congrArg State.ring frame :).trans quiet)] at ran
  refine ⟨t, ran, ?_, (congrArg State.invals frame :), tells⟩
  unfold OnlySignals at *
  rw [frame]

end

/-- Settles O38: each protocol's row by the branch it takes; the SPDM responder's request by request. -/
theorem secureLinkProtocols : Obligations.SecureLinkProtocols := by
  intro s h m k len req n sc page q
  refine ⟨getVersion_answered, request_answered, request_waits, request_ignored, abort_discards m, keyProg_programs, keyProg_ignored,
    fun i on capable unlocked stream => lock_locks on capable unlocked stream, lock_badState, lock_badDevice, lock_keyless, lock_incapable,
    stop_incapable, stop_stops, fun f fn drops => ats_insecure fn drops, ats_invalidates, fun none secure => ats_flushes secure none,
    fun opens room => ?_, inv_accepted, inv_waits, fun v rest front idle quiet => inv_ends front idle quiet, fun v rest front busy => inv_goesOn front busy⟩
  obtain ⟨t, ran, busy, kept, count⟩ := inv_accepted (n := n) (sc := 2) (q := q) opens room
  refine ⟨t, ran, fun y => (kept y).trans (and_congr_right fun _ => ?_), busy, count⟩
  exact beq_eq_false_iff_ne

end Sys2Proof.Machine.LinkProtocols
end

section
/-!
PROOFS. Register writes and reads of the Manager, by access code and Apply class; the register window; MSI-X vectors (R4–R8, R62, R79).
-/

namespace Sys2Proof.Machine.Registers
open State Fields Frames

variable {s : State} {a : Nat} {w : Word}

/-! ### A write reaches its register -/

/-- The state that has counted a write of the Management Function. -/
def counts (s : State) : State := s.bump F.HEP_MGMT_PATH_MF_WRITES 0

/-- The write is counted. -/
def Counted (s t : State) : Prop := t.fld F.HEP_MGMT_PATH_MF_WRITES 0 = min (s.fld F.HEP_MGMT_PATH_MF_WRITES 0 + 1) 0xFFFFFFFF

theorem counted_counts : Counted s (counts s) := fld_bump_self s (f := F.HEP_MGMT_PATH_MF_WRITES) (by decide)

theorem counted_of {t : State} (kept : t.reg .HEP_MGMT_PATH 0 = (counts s).reg .HEP_MGMT_PATH 0) : Counted s t := by
  have same : t.fld F.HEP_MGMT_PATH_MF_WRITES 0 = (counts s).fld F.HEP_MGMT_PATH_MF_WRITES 0 := congrArg (fun x => getBits x 0 32) kept
  exact same.trans counted_counts

/-- An access to the register goes through at once. -/
def Now (s : State) (a : Nat) : Prop := s.ring = [] ∧ s.swapHolds a = false ∧ offDomain a = none

/-- The Management Function's access is served. -/
def Served (s : State) (a : Nat) : Prop := s.dev = .running ∧ s.ideDrops .mf = false ∧ s.barOk .mf = true ∧ a % 8 = 0

theorem ringSend_now (now : Now s a) {o : RingOp} (off : o.off = a) : s.ringSend o = s.ringDo o := by
  obtain ⟨ring, swap, domain⟩ := now
  unfold ringSend ringTake ringHeld
  rw [off, swap, ring, domain]
  rfl

theorem swapHolds_counts (s : State) (a : Nat) : (counts s).swapHolds a = s.swapHolds a := by
  have state : (counts s).cfgState = s.cfgState := fld_bump_other s (by decide)
  unfold swapHolds
  rw [state]

theorem now_counts (now : Now s a) : Now (counts s) a := ⟨now.1, (swapHolds_counts s a).trans now.2.1, now.2.2⟩

theorem mgmtWrite_sends (aligned : a % 8 = 0) : s.mgmtWrite .mf a w = (counts s).ringSend (.write a w) := if_neg (not_not.2 aligned)

theorem mgmtWrite_now (aligned : a % 8 = 0) (now : Now s a) : s.mgmtWrite .mf a w = (counts s).busWrite a w :=
  (mgmtWrite_sends aligned).trans (ringSend_now (now_counts now) rfl)

theorem mgmtWrite_held (aligned : a % 8 = 0) (held : s.swapHolds a = true) :
    s.mgmtWrite .mf a w = { counts s with ring := s.ring ++ [.write a w] } := by
  refine (mgmtWrite_sends aligned).trans (if_pos ?_)
  unfold ringHeld
  rw [show (RingOp.write a w).off = a from rfl, swapHolds_counts, held]
  rfl

theorem registerWrite_served {off : BitVec 28} (served : Served s off.toNat) : exec (.registerWrite (.bar0 .mf off) w) s = .next (s.mgmtWrite .mf off.toNat w) := by
  obtain ⟨dev, ide, bar, -⟩ := served
  exact congrArg Host.Outcome.next ((if_neg (not_not.2 dev)).trans ((if_neg (by rw [ide]; exact Bool.false_ne_true)).trans (if_pos bar)))

theorem vsWrite_runs {v : BitVec 32} (dev : s.dev = .running) : exec (.vsDataHiWrite v) s =
    .next (({ s with vsHi := v } : State).mgmtWrite .mf s.vsAddr.toNat (v ++ s.vsLo)) :=
  congrArg Host.Outcome.next (if_neg (not_not.2 dev))

/-! ### What a write does at its register -/

theorem busWrite_none (none_ : locate a = none) : s.busWrite a w = s := by
  unfold busWrite
  rw [none_]

theorem busWrite_some {r : Reg} {i : Nat} (at_ : locate a = some (r, i)) : s.busWrite a w = s.wrReg r i w := by
  unfold busWrite
  rw [at_]

theorem wrReg_scratch : s.wrReg .TOP_SCRATCH 0 w = s.wrPlain .TOP_SCRATCH 0 w := rfl
theorem wrReg_drainLimit : s.wrReg .CFG_DRAIN_LIMIT 0 w = s.wrPlain .CFG_DRAIN_LIMIT 0 w := rfl
theorem wrReg_event : s.wrReg .FCU_EVT 0 w = s.wrPlain .FCU_EVT 0 w := rfl
theorem wrReg_enable : s.wrReg .FCU_EVT_EN 0 w = (s.wrEnable .FCU_EVT_EN .FCU_EVT .FCU_MSIX_VEC 0 w).fcuCure .FCU_EVT_EN := rfl

/-- A register without fields that wait. -/
theorem wrPlain_now {r : Reg} {i : Nat} (none_ : r.laterMask = 0) : s.wrPlain r i w =
    s.setReg r i (merge r.nowMask (s.reg r i) (s.fixWord r i (r.nowMask ||| r.laterMask) w) &&& ~~~(w &&& r.w1cMask)) := if_pos none_

theorem masks_scratch : Reg.laterMask .TOP_SCRATCH = 0 ∧ Reg.nowMask .TOP_SCRATCH = 0xFFFFFFFF ∧ Reg.w1cMask .TOP_SCRATCH = 0 := by decide
theorem masks_event : Reg.laterMask .FCU_EVT = 0 ∧ Reg.nowMask .FCU_EVT = 0 ∧ Reg.w1cMask .FCU_EVT = 0xF := by decide
theorem masks_enable : Reg.laterMask .FCU_EVT_EN = 0 ∧ Reg.nowMask .FCU_EVT_EN = 0xF ∧ Reg.w1cMask .FCU_EVT_EN = 0 := by decide
theorem masks_drainLimit : Reg.laterMask .CFG_DRAIN_LIMIT = 0x7F ∧ Reg.nowMask .CFG_DRAIN_LIMIT = 0 ∧ Reg.w1cMask .CFG_DRAIN_LIMIT = 0 ∧
    Reg.epochMask .CFG_DRAIN_LIMIT .commitRollback = 0x7F := by decide

/-- The low bits of a word that takes them from another. -/
theorem getBits_merge_low {m o v : Word} {n : Nat} (ones : ∀ k < n, m.getLsbD k = true) : getBits (merge m o v) 0 n = getBits v 0 n := by
  apply Nat.eq_of_testBit_eq
  intro k
  rw [getBits_testBit, getBits_testBit]
  by_cases small : k < n
  · rw [Nat.zero_add, merge_getLsbD, ones k small]
    rfl
  · simp [small]

theorem and_not_zero (x : Word) : x &&& ~~~(w &&& 0) = x := by
  show x &&& ~~~(w &&& 0#64) = x
  rw [BitVec.and_zero, BitVec.not_zero, BitVec.and_allOnes]

/-- The word that a write stores in TOP_SCRATCH. -/
theorem scratch_word : (s.wrPlain .TOP_SCRATCH 0 w) = s.setReg .TOP_SCRATCH 0 (merge 0xFFFFFFFF (s.reg .TOP_SCRATCH 0) w) := by
  obtain ⟨later, now, w1c⟩ := masks_scratch
  have plain : s.fixWord .TOP_SCRATCH 0 (Reg.nowMask .TOP_SCRATCH ||| Reg.laterMask .TOP_SCRATCH) w = w := rfl
  rw [wrPlain_now later, plain, now, w1c, and_not_zero]

theorem scratch_writes : s.OnlyRegs (s.wrReg .TOP_SCRATCH 0 w) [(.TOP_SCRATCH, 0)] ∧ (s.wrReg .TOP_SCRATCH 0 w).fld F.TOP_SCRATCH_VALUE 0 = getBits w 0 32 := by
  rw [wrReg_scratch, scratch_word]
  refine ⟨⟨rfl, but_setReg s _ _ _⟩, ?_⟩
  have stored := reg_setReg s .TOP_SCRATCH 0 (merge 0xFFFFFFFF (s.reg .TOP_SCRATCH 0) w)
  exact (congrArg (fun x => getBits x 0 32) stored).trans (getBits_merge_low (by decide))

/-- The written ones clear. -/
theorem event_clears : s.OnlyRegs (s.wrReg .FCU_EVT 0 w) [(.FCU_EVT, 0)] ∧
    (s.wrReg .FCU_EVT 0 w).reg .FCU_EVT 0 = s.reg .FCU_EVT 0 &&& ~~~(w &&& 0xF) := by
  obtain ⟨later, now, w1c⟩ := masks_event
  rw [wrReg_event, wrPlain_now later, now, w1c, merge_zero]
  exact ⟨⟨rfl, but_setReg s _ _ _⟩, reg_setReg ..⟩

/-- What waits after values have been held. -/
theorem pend_hold (r : Reg) (i : Nat) (m v : Word) : (s.hold r i m v).pend r i =
    { mask := (s.pend r i).mask ||| m, val := merge m (s.pend r i).val v &&& ((s.pend r i).mask ||| m) } := SMap.get_put_self ({} : Pend) ..

/-- A field whose bits have all been held takes the held value at its boundary. -/
theorem held_applies {r : Reg} {i n : Nat} {m v : Word} (ones : ∀ k < n, m.getLsbD k = true) :
    getBits (((s.hold r i m v).applyMask r i m).reg r i) 0 n = getBits v 0 n := by
  have applied : ((s.hold r i m v).applyMask r i m).reg r i =
      merge (((s.hold r i m v).pend r i).mask &&& m) ((s.hold r i m v).reg r i) ((s.hold r i m v).pend r i).val := reg_setReg ..
  rw [applied, pend_hold]
  apply Nat.eq_of_testBit_eq
  intro k
  rw [getBits_testBit, getBits_testBit]
  by_cases small : k < n
  · simp [small, merge_getLsbD, ones k small]
  · simp [small]

theorem fixWord_drainLimit : s.fixWord .CFG_DRAIN_LIMIT 0 (0 ||| 0x7F) w = setBits w 0 7 (clampN 1 100 (getBits w 0 7)) :=
  congrArg Fix.word (if_neg (c := (0 ||| 0x7F : Word) &&& fieldMask 0 7 = 0) (by decide))

/-- A limit waits for its boundary. -/
theorem drainLimit_waits : s.OnlyRegs { s.wrReg .CFG_DRAIN_LIMIT 0 w with shadow := s.shadow } [(.CFG_DRAIN_LIMIT, 0)] ∧
    (s.wrReg .CFG_DRAIN_LIMIT 0 w).fld F.CFG_DRAIN_LIMIT_LIMIT_US 0 = s.fld F.CFG_DRAIN_LIMIT_LIMIT_US 0 ∧
    ((s.wrReg .CFG_DRAIN_LIMIT 0 w).epoch .commitRollback .CFG_DRAIN_LIMIT 0).fld F.CFG_DRAIN_LIMIT_LIMIT_US 0 = clampN 1 100 (getBits w 0 7) := by
  obtain ⟨later, now, w1c, boundary⟩ := masks_drainLimit
  have wrote : s.wrReg .CFG_DRAIN_LIMIT 0 w = (s.setReg .CFG_DRAIN_LIMIT 0 (s.reg .CFG_DRAIN_LIMIT 0)).hold .CFG_DRAIN_LIMIT 0 0x7F
      (setBits w 0 7 (clampN 1 100 (getBits w 0 7))) := by
    rw [wrReg_drainLimit, wrPlain, now, later, w1c, fixWord_drainLimit, merge_zero, and_not_zero]
    exact if_neg (by decide)
  have small : clampN 1 100 (getBits w 0 7) < 2 ^ 7 := by
    unfold clampN
    split
    · decide
    · split <;> omega
  rw [wrote]
  generalize clampN 1 100 (getBits w 0 7) = limit at *
  refine ⟨⟨rfl, but_setReg s _ _ _⟩, congrArg (fun x => getBits x 0 7) (reg_setReg s .CFG_DRAIN_LIMIT 0 _), ?_⟩
  unfold epoch
  rw [boundary]
  refine (held_applies (n := 7) (by decide)).trans ?_
  rw [getBits_setBits_self _ _ _ _ (by decide)]
  exact Nat.mod_eq_of_lt small

/-- A register that no link's, no address's and the safe state's record is. -/
def Apart (r : Reg) : Prop := r ≠ .HEP_LINK_STATE ∧ r ≠ .HEP_MGMT_LINK ∧ r ≠ .FCU_SAFE_STATUS

theorem fnLink_setReg {r : Reg} (apart : Apart r) (i : Nat) (x : Word) (f : Fn) : (s.setReg r i x).fnLink f = s.fnLink f := by
  cases f with
  | mf => exact fld_setReg_other s (g := F.HEP_MGMT_LINK_LINK) (Ne.symm apart.2.1)
  | pf h => rfl
  | vf h n => rfl

theorem barOk_setReg {r : Reg} (apart : Apart r) (i : Nat) (x : Word) (f : Fn) : (s.setReg r i x).barOk f = s.barOk f := by
  have link := fnLink_setReg (s := s) apart i x f
  have up (h : Nat) : (s.setReg r i x).linkUp h = s.linkUp h :=
    congrArg (· == 3) (fld_setReg_other s (g := F.HEP_LINK_STATE_STATE h) (Ne.symm apart.1))
  have safe : (s.setReg r i x).isSafe = s.isSafe := congrArg (· == 2) (fld_setReg_other s (g := F.FCU_SAFE_STATUS_STATE) (Ne.symm apart.2.2))
  have fn_ : (s.setReg r i x).fn f = s.fn f := rfl
  unfold barOk
  rw [link, up, safe, fn_]

theorem ideDrops_setReg {r : Reg} (apart : Apart r) (i : Nat) (x : Word) (f : Fn) : (s.setReg r i x).ideDrops f = s.ideDrops f := by
  have link := fnLink_setReg (s := s) apart i x f
  have stream (h k : Nat) : (s.setReg r i x).stream h k = s.stream h k := rfl
  have number : (s.setReg r i x).fnStream f = s.fnStream f := by cases f <;> rfl
  unfold ideDrops
  rw [link, number, stream]

/-- An event that stands and whose enable rises is one of those that the write enables. -/
theorem enables_new {evt en : Word} (stands : evt &&& ~~~en &&& w &&& 0xF ≠ 0) : evt &&& merge 0xF en w &&& ~~~(evt &&& en) ≠ 0 := by
  intro none_
  refine stands (BitVec.eq_of_getLsbD_eq fun k hk => ?_)
  have bit := congrArg (·.getLsbD k) none_
  simp only [BitVec.getLsbD_and, BitVec.getLsbD_not, merge_getLsbD, hk, decide_true, Bool.true_and] at bit ⊢
  cases h1 : evt.getLsbD k
  · simp
  · cases h2 : en.getLsbD k
    · cases h3 : (0xF : Word).getLsbD k
      · simp
      · rw [h1, h2, h3] at bit
        simpa using bit
    · simp

/-- Enabling an event that stands sends its vector. -/
theorem enable_sends (stands : s.reg .FCU_EVT 0 &&& ~~~s.reg .FCU_EVT_EN 0 &&& w &&& 0xF ≠ 0) (enabled : (s.fn .mf).msixEnable = true)
    (unmasked : (s.fn .mf).msixMask = false) (master : (s.fn .mf).bme = true) (free : (s.vec .mf (s.fld F.FCU_MSIX_VEC_VEC 0)).masked = false)
    (open_ : s.ideDrops .mf = false) (bar : s.barOk .mf = true) :
    (s.wrReg .FCU_EVT_EN 0 w).fld F.FCU_EVT_EN_EN 0 = getBits w 0 4 ∧
      (s.wrReg .FCU_EVT_EN 0 w).out = .msix .mf (s.fld F.FCU_MSIX_VEC_VEC 0) :: s.out := by
  obtain ⟨later, now, w1c⟩ := masks_enable
  have plain : s.fixWord .FCU_EVT_EN 0 (Reg.nowMask .FCU_EVT_EN ||| Reg.laterMask .FCU_EVT_EN) w = w := rfl
  have wrote : s.wrPlain .FCU_EVT_EN 0 w = s.setReg .FCU_EVT_EN 0 (merge 0xF (s.reg .FCU_EVT_EN 0) w) := by
    rw [wrPlain_now later, plain, now, w1c, and_not_zero]
  have apart : Apart .FCU_EVT_EN := ⟨by decide, by decide, by decide⟩
  have events : (s.setReg .FCU_EVT_EN 0 (merge 0xF (s.reg .FCU_EVT_EN 0) w)).reg .FCU_EVT 0 = s.reg .FCU_EVT 0 := reg_setReg_other s (by decide)
  have ens : (s.setReg .FCU_EVT_EN 0 (merge 0xF (s.reg .FCU_EVT_EN 0) w)).reg .FCU_EVT_EN 0 = merge 0xF (s.reg .FCU_EVT_EN 0) w := reg_setReg ..
  have vector : (s.setReg .FCU_EVT_EN 0 (merge 0xF (s.reg .FCU_EVT_EN 0) w)).fld F.FCU_MSIX_VEC_VEC 0 = s.fld F.FCU_MSIX_VEC_VEC 0 :=
    fld_setReg_other s (by decide)
  have bar' := (barOk_setReg (s := s) apart 0 (merge 0xF (s.reg .FCU_EVT_EN 0) w) .mf).trans bar
  have open' := (ideDrops_setReg (s := s) apart 0 (merge 0xF (s.reg .FCU_EVT_EN 0) w) .mf).trans open_
  have sent : s.wrEnable .FCU_EVT_EN .FCU_EVT .FCU_MSIX_VEC 0 w = (s.setReg .FCU_EVT_EN 0 (merge 0xF (s.reg .FCU_EVT_EN 0) w)).emit
      (.msix .mf (s.fld F.FCU_MSIX_VEC_VEC 0)) := by
    unfold wrEnable
    dsimp only
    rw [wrote, events, ens, if_neg (enables_new stands)]
    have safe : (s.setReg .FCU_EVT_EN 0 (merge 0xF (s.reg .FCU_EVT_EN 0) w)).isSafe = false := by
      unfold barOk at bar'
      rw [Bool.and_eq_true, Bool.not_eq_true'] at bar'
      exact bar'.2
    unfold mfVector
    rw [safe]
    refine (if_neg Bool.false_ne_true).trans ((congrArg (State.msixSend _ .mf) vector).trans (Functions.msixSend_emits enabled unmasked free master ?_ open'))
    unfold barRefuses
    rw [bar']
    rfl
  rw [wrReg_enable, sent]
  refine ⟨?_, rfl⟩
  exact (congrArg (fun x => getBits x 0 4) ens).trans (getBits_merge_low (by decide))

/-! ### The Manager's writes -/

theorem only_of_counts {t : State} {r : Reg} (only : (counts s).OnlyRegs t [(r, 0)]) : s.OnlyRegs t [(.HEP_MGMT_PATH, 0), (r, 0)] := by
  obtain ⟨frame, but⟩ := only
  refine ⟨frame.trans rfl, but_trans (but_bump s F.HEP_MGMT_PATH_MF_WRITES 0 1) but⟩

theorem only_counts : s.OnlyRegs (counts s) [(.HEP_MGMT_PATH, 0)] := ⟨rfl, but_bump s F.HEP_MGMT_PATH_MF_WRITES 0 1⟩

/-- A write that changes one register counts itself. -/
theorem counted_of_only {t : State} {r : Reg} (only : (counts s).OnlyRegs t [(r, 0)]) (other : r ≠ .HEP_MGMT_PATH) : Counted s t :=
  counted_of (only.2 _ _ fun same => other (congrArg Prod.fst (List.mem_singleton.1 same)).symm)

section
variable (aligned : a % 8 = 0) (now : Now s a)
include aligned now

theorem write_unused (none_ : locate a = none) : s.OnlyRegs (s.mgmtWrite .mf a w) [(.HEP_MGMT_PATH, 0)] ∧ Counted s (s.mgmtWrite .mf a w) := by
  rw [mgmtWrite_now aligned now, busWrite_none none_]
  exact ⟨only_counts, counted_counts⟩

theorem write_at {r : Reg} {i : Nat} (at_ : locate a = some (r, i)) : s.mgmtWrite .mf a w = (counts s).wrReg r i w := by
  rw [mgmtWrite_now aligned now, busWrite_some at_]

theorem write_scratch (at_ : locate a = some (.TOP_SCRATCH, 0)) : (s.OnlyRegs (s.mgmtWrite .mf a w) [(.HEP_MGMT_PATH, 0), (.TOP_SCRATCH, 0)] ∧
    Counted s (s.mgmtWrite .mf a w)) ∧ (s.mgmtWrite .mf a w).fld F.TOP_SCRATCH_VALUE 0 = getBits w 0 32 := by
  obtain ⟨only, value⟩ := scratch_writes (s := counts s) (w := w)
  rw [write_at aligned now at_]
  exact ⟨⟨only_of_counts only, counted_of_only only (by decide)⟩, value⟩

theorem write_drainLimit (at_ : locate a = some (.CFG_DRAIN_LIMIT, 0)) :
    (s.OnlyRegs { s.mgmtWrite .mf a w with shadow := s.shadow } [(.HEP_MGMT_PATH, 0), (.CFG_DRAIN_LIMIT, 0)] ∧
      Counted s { s.mgmtWrite .mf a w with shadow := s.shadow }) ∧
    (s.mgmtWrite .mf a w).fld F.CFG_DRAIN_LIMIT_LIMIT_US 0 = s.fld F.CFG_DRAIN_LIMIT_LIMIT_US 0 ∧
    ((s.mgmtWrite .mf a w).epoch .commitRollback .CFG_DRAIN_LIMIT 0).fld F.CFG_DRAIN_LIMIT_LIMIT_US 0 = clampN 1 100 (getBits w 0 7) := by
  obtain ⟨only, before, after⟩ := drainLimit_waits (s := counts s) (w := w)
  have only : (counts s).OnlyRegs { (counts s).wrReg .CFG_DRAIN_LIMIT 0 w with shadow := s.shadow } [(.CFG_DRAIN_LIMIT, 0)] := only
  rw [write_at aligned now at_]
  exact ⟨⟨only_of_counts only, counted_of_only only (by decide)⟩, before.trans (fld_bump_other s (by decide)), after⟩

theorem write_event (at_ : locate a = some (.FCU_EVT, 0)) : (s.OnlyRegs (s.mgmtWrite .mf a w) [(.HEP_MGMT_PATH, 0), (.FCU_EVT, 0)] ∧
    Counted s (s.mgmtWrite .mf a w)) ∧ (s.mgmtWrite .mf a w).reg .FCU_EVT 0 = s.reg .FCU_EVT 0 &&& ~~~(w &&& 0xF) := by
  obtain ⟨only, value⟩ := event_clears (s := counts s) (w := w)
  have kept : (counts s).reg .FCU_EVT 0 = s.reg .FCU_EVT 0 := reg_bump_other s (by decide)
  rw [kept] at value
  rw [write_at aligned now at_]
  exact ⟨⟨only_of_counts only, counted_of_only only (by decide)⟩, value⟩

theorem write_enable (at_ : locate a = some (.FCU_EVT_EN, 0)) (stands : s.reg .FCU_EVT 0 &&& ~~~s.reg .FCU_EVT_EN 0 &&& w &&& 0xF ≠ 0)
    (enabled : (s.fn .mf).msixEnable = true) (unmasked : (s.fn .mf).msixMask = false) (master : (s.fn .mf).bme = true)
    (free : (s.vec .mf (s.fld F.FCU_MSIX_VEC_VEC 0)).masked = false) (open_ : s.ideDrops .mf = false) (bar : s.barOk .mf = true) :
    (s.mgmtWrite .mf a w).fld F.FCU_EVT_EN_EN 0 = getBits w 0 4 ∧
      (s.mgmtWrite .mf a w).out = .msix .mf (s.fld F.FCU_MSIX_VEC_VEC 0) :: s.out := by
  have apart : Apart .HEP_MGMT_PATH := ⟨by decide, by decide, by decide⟩
  have event : (counts s).reg .FCU_EVT 0 = s.reg .FCU_EVT 0 := reg_bump_other s (by decide)
  have en : (counts s).reg .FCU_EVT_EN 0 = s.reg .FCU_EVT_EN 0 := reg_bump_other s (by decide)
  have vector : (counts s).fld F.FCU_MSIX_VEC_VEC 0 = s.fld F.FCU_MSIX_VEC_VEC 0 := fld_bump_other s (by decide)
  have sends := enable_sends (s := counts s) (w := w) (by rw [event, en]; exact stands) enabled unmasked master (by rw [vector]; exact free)
    ((ideDrops_setReg apart ..).trans open_) ((barOk_setReg apart ..).trans bar)
  rw [vector] at sends
  rw [write_at aligned now at_]
  exact sends

end

theorem write_held (aligned : a % 8 = 0) (held : s.swapHolds a = true) : ∃ t, s.mgmtWrite .mf a w = t ∧
    t = { s with regs := t.regs, ring := s.ring ++ [.write a w] } ∧ s.RegsBut t [(.HEP_MGMT_PATH, 0)] ∧ Counted s t :=
  ⟨_, mgmtWrite_held aligned held, rfl, but_bump s F.HEP_MGMT_PATH_MF_WRITES 0 1, counted_counts⟩

/-! ### The register window (R79) -/

/-- The words of VS_DATA that a read leaves. -/
def shown (s : State) (x : Word) : State :=
  { s with vsLo := x.setWidth 32, vsHi := (x >>> 32).setWidth 32, out := .cfgDone .success (x.setWidth 32) :: s.out }

theorem vsRead_runs {e : Ecc} (dev : s.dev = .running) (now : Now s s.vsAddr.toNat) : exec (.vsDataLoRead e) s =
    .next (shown (s.busReadAt s.vsAddr.toNat e).2 (s.busReadAt s.vsAddr.toNat e).1) :=
  congrArg Host.Outcome.next ((if_neg (not_not.2 dev)).trans (ringSend_now now (o := .vsRead s.vsAddr.toNat e) rfl))

theorem busReadAt_none (e : Ecc) (none_ : locate a = none) : s.busReadAt a e = (0, s) := by
  unfold busReadAt
  rw [none_]

/-- The registers whose reads do more than read. -/
def active : List Reg :=
  [.TIM_NOW, .TIM_CAP_HI, .TIM_GNSS_RX, .MBX_FROM, .SPM_MGMT_DATA, .PWR_TJ_PEAK, .DBG_REG_DATA, .DBG_SPM_DATA, .DBG_NONCE]

theorem busRead_plain {r : Reg} (i : Nat) (e : Ecc) (clears : r.rcMask = 0) (plain : r ∉ active) : s.busRead r i e = (s.readReg r i, s) := by
  unfold busRead
  split
  · exact absurd (by decide) plain
  · exact absurd (by decide) plain
  · exact absurd (by decide) plain
  · exact absurd (by decide) plain
  · exact absurd (by decide) plain
  · exact absurd (by decide) plain
  · dsimp only
    rw [if_pos clears]

theorem busReadAt_plain {r : Reg} {i : Nat} (e : Ecc) (at_ : locate a = some (r, i)) (clears : r.rcMask = 0) (plain : r ∉ active) :
    s.busReadAt a e = (s.readReg r i, s) := by
  unfold busReadAt
  rw [at_]
  split
  next none_ => cases none_
  next is => cases is; exact absurd (by decide) plain
  next is => cases is; exact absurd (by decide) plain
  next is => cases is; exact absurd (by decide) plain
  next is =>
    cases is
    exact busRead_plain i e clears plain

/-! ### MSI-X vectors -/

theorem fnKey_inj {f g : Fn} (same : fnKey f = fnKey g) : f = g := by
  cases f <;> cases g
  case mf.mf => rfl
  case pf.pf h k =>
    have e : h = k := Fin.ext (by simp only [fnKey] at same; omega)
    rw [e]
  case vf.vf h n k m =>
    have bound := n.isLt
    have bound' := m.isLt
    simp only [fnKey] at same
    have e : h = k := Fin.ext (by omega)
    have e' : n = m := Fin.ext (by omega)
    rw [e, e']
  all_goals
    simp only [fnKey] at same
    omega

theorem vec_setVec_ne {f g : Fn} {k j : Fin 2048} (m : Msix) (other : ¬(g = f ∧ j = k)) : (s.setVec f k.val m).vec g j.val = s.vec g j.val := by
  refine SMap.get_put_ne _ _ _ _ fun same => other ?_
  have bound := j.isLt
  have bound' := k.isLt
  unfold msixKey at same
  exact ⟨fnKey_inj (by omega), Fin.ext (by omega)⟩

theorem table_writes {f : Fn} {k : Fin 2048} (dev : s.dev = .running) (open_ : s.ideDrops f = false) (bar : s.barOk f = true) (tdi : s.tdiRefuses f = false)
    (within : k.val < State.vectorsOf f) (quiet : (s.vec f k.val).pending = false ∨ (s.vec f k.val).masked = true) :
    ∃ t, exec (.registerWrite (.msixTable f k 0) w) s = .next t ∧ t = { s with msix := t.msix } ∧ t.vec f k.val = { s.vec f k.val with addr := w } ∧
      ∀ g (j : Fin 2048), ¬(g = f ∧ j = k) → t.vec g j.val = s.vec g j.val := by
  have serves : s.barRefuses f = false := by
    unfold barRefuses
    rw [bar, tdi]
    rfl
  have flushed : (s.setVec f k.val { s.vec f k.val with addr := w }).msixFlush f k.val = s.setVec f k.val { s.vec f k.val with addr := w } := by
    unfold msixFlush
    dsimp only
    rw [vec_setVec]
    refine if_neg ?_
    rcases quiet with none_ | masked
    · rw [none_]
      exact Bool.false_ne_true
    · rw [masked]
      simp
  have ran : exec (.registerWrite (.msixTable f k 0) w) s = .next (s.setVec f k.val { s.vec f k.val with addr := w }) := by
    refine congrArg Host.Outcome.next ((if_neg (not_not.2 dev)).trans ?_)
    refine (if_neg (by rw [open_]; exact Bool.false_ne_true)).trans ((if_neg ?_).trans flushed)
    rw [serves, decide_eq_false (Nat.not_le.2 within)]
    exact Bool.false_ne_true
  exact ⟨_, ran, rfl, vec_setVec .., fun g j other => vec_setVec_ne _ other⟩

theorem low_word (v lo : BitVec 32) : getBits (v ++ lo) 0 32 = lo.toNat := by
  have low : (v ++ lo).setWidth 32 = lo := BitVec.setWidth_append_eq_right
  unfold getBits
  rw [BitVec.ushiftRight_zero, ← BitVec.toNat_setWidth, low]

/-- Settles O43: a write by the access code and Apply class of the register it reaches, the window's as the Management Function's own. -/
theorem registerAccess : Obligations.RegisterAccess := by
  intro s off w v r i f k e
  have ofServed (served : Served s off.toNat) {P : State → Prop} (h : P (s.mgmtWrite .mf off.toNat w)) :
      ∃ t, exec (.registerWrite (.bar0 .mf off) w) s = .next t ∧ P t := ⟨_, registerWrite_served served, h⟩
  refine ⟨fun served now => ⟨fun none_ => ofServed served (write_unused served.2.2.2 now none_),
    fun at_ => ofServed served (write_scratch served.2.2.2 now at_), fun at_ => ofServed served (write_drainLimit served.2.2.2 now at_),
    fun at_ => ofServed served (write_event served.2.2.2 now at_), fun at_ stands enabled unmasked master free =>
      ofServed served (write_enable served.2.2.2 now at_ stands enabled unmasked master free served.2.1 served.2.2.1)⟩,
    fun served held => ?_, fun served named => ?_, fun dev named aligned now => ⟨fun none_ => ?_, fun at_ => ?_⟩,
    fun down => congrArg Host.Outcome.next (if_pos down), fun dev named now => ⟨fun none_ => ?_, fun at_ clears plain => ?_⟩,
    fun dev open_ bar tdi within quiet => table_writes dev open_ bar tdi within quiet⟩
  · obtain ⟨t, is, frame, but, counted⟩ := write_held (w := w) served.2.2.2 held
    exact ⟨t, (registerWrite_served served).trans (congrArg Host.Outcome.next is), frame, but, counted⟩
  · have served' : Served { s with vsHi := v } off.toNat := served
    refine ⟨_, vsWrite_runs served.1, (registerWrite_served served').trans ?_⟩
    rw [named]
  · refine ⟨_, vsWrite_runs dev, ?_⟩
    rw [named]
    exact write_unused (s := { s with vsHi := v }) aligned now none_
  · obtain ⟨⟨only, counted⟩, value⟩ := write_scratch (s := { s with vsHi := v }) (w := v ++ s.vsLo) aligned now at_
    refine ⟨_, vsWrite_runs dev, ?_⟩
    rw [named]
    refine ⟨counted, only, value.trans (low_word v s.vsLo)⟩
  · rw [← named] at now none_
    rw [vsRead_runs dev now, busReadAt_none e none_]
    rfl
  · rw [← named] at now at_
    rw [vsRead_runs dev now, busReadAt_plain e at_ clears plain]
    rfl

end Sys2Proof.Machine.Registers
end

section
/-!
PROOFS. A burst of a channel whose list of outstanding bursts holds one without requests left (R450).
-/

namespace Sys2Proof.Machine.EmptyBurst
open State

/-- A descriptor that writes one byte of zero to RLD address 0. -/
def zeroByte : BitVec 256 := BitVec.ofNat 256 (5 * 2 ^ 4 + 2 ^ 8 + 2 ^ 192)

/-- The descriptor in progress; its list holds a burst, begun at byte 7, of which nothing is left to end. -/
def run : DmaRun := { desc := zeroByte, index := 0, bursts := [(7, 0)] }

/-- Channel 0 of Pier 0 is ACTIVE and runs that descriptor. -/
def stale : State := { dmaCh := [(0, { state := 1, run := some run })] }

/-- The bursts outstanding on a channel after a command. -/
def burstsAfter (c : Instr) (s : State) : Option (List (Nat × Nat)) :=
  match exec c s with
  | .next t => (t.dmaC 0 0).run.map DmaRun.bursts
  | _ => none

/-- Nothing waits for the boundary, and no register is listed. -/
theorem epoch_stale (b : Boundary) (r : Reg) (i : Nat) : stale.epoch b r i = stale := by
  have none_ : merge ((0 : Word) &&& r.epochMask b) r.resetWord 0 = r.resetWord := by
    rw [show (0 : Word) &&& r.epochMask b = 0 from BitVec.zero_and, merge_zero]
  have kept : SMap.put r.resetWord ([] : SMap Word) (regKey r i) (merge ((0 : Word) &&& r.epochMask b) r.resetWord 0) = [] := if_pos none_
  have held : SMap.put ({} : Pend) [] (regKey r i) { mask := (0 : Word) &&& ~~~r.epochMask b, val := (0 : Word) &&& ((0 : Word) &&& ~~~r.epochMask b) } = [] :=
    if_pos (congrArg₂ Pend.mk BitVec.zero_and BitVec.zero_and)
  exact congrArg₂ (fun regs shadow => ({ stale with regs := regs, shadow := shadow } : State)) kept held

/-- No channel takes up a descriptor: channel 0 has one, the others are DISABLED. -/
theorem chNext_stale (ch : Nat) : stale.chNext 0 ch = stale := by
  refine if_pos ?_
  cases ch with
  | zero => decide
  | succ k =>
    have off : (stale.dmaC 0 (k + 1)).state = 0 := by simp [dmaC, stale, SMap.get, SMap.find?]
    rw [off]
    rfl

theorem channels_idle (l : List Nat) : l.foldl (fun t ch => (t.epoch .burstSelect .DMA_CH_CFG (chKey (0 : Pier).val ch)).chNext (0 : Pier).val ch) stale = stale := by
  induction l with
  | nil => rfl
  | cons ch l ih => 
    rw [List.foldl_cons, epoch_stale]
    exact (congrArg (List.foldl _ · l) (chNext_stale ch)).trans ih

/-- As the new burst ends, the empty one leaves the list with it. -/
theorem burst_forgets : burstsAfter (.dmaBurstIssue 0 .ok) stale = some [] := by
  have ran : exec (.dmaBurstIssue 0 .ok) stale = execDmaBurstIssue 0 .ok stale := rfl
  unfold burstsAfter
  rw [ran]
  unfold execDmaBurstIssue
  rw [channels_idle]
  decide

/-- Refutes O55: a burst is said to leave the channel's other outstanding bursts as they were; one without requests left to end, which the list
may hold, leaves the list as the new burst ends. -/
theorem not_dmaChannels : ¬ Obligations.DmaChannels := by
  intro h
  obtain ⟨-, -, -, -, -, zeros, -⟩ := h stale 0 0 0 ⟨.dma 0 0 0, 0, true⟩ 0 .ok run
  obtain ⟨t, ran, ⟨left, -⟩, -⟩ := zeros ⟨⟨rfl, rfl⟩, by decide, by decide, rfl, rfl, by decide, by decide, rfl, by decide, by decide⟩ (by decide) (by decide)
  have forgot := burst_forgets
  rw [burstsAfter, ran] at forgot
  dsimp only at forgot
  rw [show t.dmaC 0 0 = _ from left] at forgot
  cases forgot

end Sys2Proof.Machine.EmptyBurst
end

section
/-!
PROOFS. Read requests of the Management Function's own work: what issuing them changes (R69, R88).
-/

namespace Sys2Proof.Machine.ReadJobs
open State

/-- Requests have gone out, or wait: nothing else changed, and nothing that went out before is lost. -/
structure Issued (s t : State) : Prop where
  frame : t = { s with tags := t.tags, out := t.out, stalled := t.stalled }
  sent : ∃ l, t.out = l ++ s.out

theorem issued_refl (s : State) : Issued s s := ⟨rfl, [], rfl⟩

theorem Issued.regs {s t : State} (h : Issued s t) : t.regs = s.regs := (congrArg State.regs h.frame :)

theorem Issued.trans {s t u : State} (first : Issued s t) (then_ : Issued t u) : Issued s u := by
  obtain ⟨frame, l, sent⟩ := first
  obtain ⟨frame', l', sent'⟩ := then_
  constructor
  · rw [frame', frame]
  · exact ⟨l' ++ l, by rw [sent', sent, List.append_assoc]⟩

variable {s : State}

theorem issued_sendReq (f : Fn) (o : Out) : Issued s (s.sendReq f o) := by
  unfold sendReq
  split
  · exact issued_refl s
  · exact ⟨rfl, [o], rfl⟩

/-- A read over a link that is Up goes out or waits for a tag. -/
theorem sendRead_up {r : HostReq} (up : s.linkUp (s.fnLink r.fn) = true) (a : Nat) (relaxed : Bool) :
    s.sendRead r a relaxed = .hold ∨ ∃ t, s.sendRead r a relaxed = .out t ∧ Issued s t := by
  unfold sendRead
  dsimp only
  rw [up]
  cases free : s.freeTag (s.fnLink r.fn) 16384 0 with
  | none => exact .inl rfl
  | some t =>
    have tagged : Issued s (s.setTag (s.fnLink r.fn) t (.outstanding r)) := ⟨rfl, [], rfl⟩
    exact .inr ⟨_, rfl, tagged.trans (issued_sendReq r.fn _)⟩

/-- The request of a piece of a job of no Span. -/
def asked (j : Job) (p : Part) : HostReq :=
  { fn := j.fn, span := none, dep := j.dep, part := j.part, page := p.addr / 4096, addr := p.addr, len := p.len }

/-- A piece of a read of no Span over a link that is Up goes out or waits. -/
theorem issuePiece_up {j : Job} (p : Part) (device : j.span = none) (reads : j.write = false) (up : s.linkUp (s.fnLink j.fn) = true) :
    s.issuePiece j p = .hold ∨ ∃ t, s.issuePiece j p = .out t ∧ Issued s t := by
  unfold issuePiece
  dsimp only
  rw [device, reads, up]
  by_cases safe : s.isSafe = true
  · exact .inl (if_pos safe)
  · by_cases muted : s.muted j.fn none = true
    · exact .inl ((if_neg safe).trans (if_pos muted))
    · rw [if_neg safe, show (if (!true) = true then _ else _) = _ from rfl, if_neg muted]
      exact sendRead_up (r := asked j p) up ..

/-- The pieces of such a read go out as far as they can; the others wait. -/
theorem issued_runParts (parts : List Part) {j : Job} (device : j.span = none) (reads : j.write = false) (up : s.linkUp (s.fnLink j.fn) = true) :
    Issued s (s.runParts j parts) := by
  induction parts generalizing s j with
  | nil => exact issued_refl s
  | cons p rest ih =>
    unfold runParts
    rcases issuePiece_up p device reads up with held | ⟨t, out, issued⟩
    · rw [held]
      exact ⟨rfl, [], rfl⟩
    · rw [out]
      have still : t.linkUp (t.fnLink j.fn) = true := by
        have link : t.fnLink j.fn = s.fnLink j.fn := by
          unfold fnLink
          cases j.fn with
          | mf => exact fld_congr issued.regs ..
          | pf h => rfl
          | vf h n => rfl
        rw [link, ← up]
        exact congrArg (· == 3) (fld_congr issued.regs ..)
      show Issued s ((if j.write then t.depWritten j.dep else t).runParts { j with part := j.part + 1 } rest)
      rw [if_neg (by rw [reads]; exact Bool.false_ne_true)]
      exact issued.trans (ih (j := { j with part := j.part + 1 }) device reads still)

theorem issued_runJob {j : Job} (device : j.span = none) (reads : j.write = false) (up : s.linkUp (s.fnLink j.fn) = true) : Issued s (s.runJob j) :=
  issued_runParts j.parts device reads up

/-- A read of one piece over a link that is Up, of a function that may issue it, goes out under the free tag. -/
theorem runJob_one {j : Job} {p : Part} {t : Nat} (device : j.span = none) (reads : j.write = false) (one : j.parts = [p]) (safe : s.isSafe = false)
    (live : s.muted j.fn none = false) (up : s.linkUp (s.fnLink j.fn) = true) (free : s.freeTag (s.fnLink j.fn) 16384 0 = some t)
    (secure : s.ideDrops j.fn = false) :
    s.runJob j = (s.setTag (s.fnLink j.fn) t (.outstanding (asked j p))).emit (.hostRead j.fn p.addr p.len j.relaxed) := by
  have piece : s.issuePiece j p = .out ((s.setTag (s.fnLink j.fn) t (.outstanding (asked j p))).emit (.hostRead j.fn p.addr p.len j.relaxed)) := by
    unfold issuePiece
    dsimp only
    rw [device, reads, up, safe, live]
    dsimp only
    unfold sendRead
    dsimp only
    rw [up, free]
    dsimp only
    unfold sendReq
    rw [show (s.setTag (s.fnLink j.fn) t (.outstanding _)).ideDrops j.fn = false from secure]
    rfl
  unfold runJob
  rw [one]
  unfold runParts
  rw [piece, reads]
  rfl

end Sys2Proof.Machine.ReadJobs
end

section
/-!
PROOFS. Boundaries at which no value waits (R7).
-/

namespace Sys2Proof.Machine.Epochs
open State

/-- Every register reads as before, and nothing but the list of registers differs. -/
structure Still (s t : State) : Prop where
  frame : t = { s with regs := t.regs }
  same : ∀ r i, t.reg r i = s.reg r i

theorem still_refl (s : State) : Still s s := ⟨rfl, fun _ _ => rfl⟩

theorem Still.trans {s t u : State} (first : Still s t) (then_ : Still t u) : Still s u :=
  ⟨by rw [then_.frame, first.frame], fun r i => (then_.same r i).trans (first.same r i)⟩

theorem Still.fld {s t : State} (h : Still s t) (f : Fld) (i : Nat) : t.fld f i = s.fld f i := congrArg (fun w => getBits w f.lo f.width) (h.same f.reg i)

theorem Still.flag {s t : State} (h : Still s t) (f : Fld) (i : Nat) : t.flag f i = s.flag f i := congrArg (· != 0) (h.fld f i)

theorem Still.shadow {s t : State} (h : Still s t) : t.shadow = s.shadow := (congrArg State.shadow h.frame :)

variable {s : State}

/-- A boundary with no value waiting anywhere. -/
theorem still_epoch (none_ : s.shadow = []) (b : Boundary) (r : Reg) (i : Nat) : Still s (s.epoch b r i) := by
  have idle : s.pend r i = {} := by
    unfold pend
    rw [none_]
    rfl
  have held : SMap.put ({} : Pend) s.shadow (regKey r i) { mask := (s.pend r i).mask &&& ~~~ r.epochMask b, val := (s.pend r i).val &&& ((s.pend r i).mask &&& ~~~ r.epochMask b) } = s.shadow := by
    rw [idle, none_]
    exact if_pos (congrArg₂ Pend.mk BitVec.zero_and BitVec.zero_and)
  constructor
  · exact congrArg (fun m => ({ s.setReg r i (merge ((s.pend r i).mask &&& r.epochMask b) (s.reg r i) (s.pend r i).val) with shadow := m } : State)) held
  · exact EntryLives.reg_epoch_idle idle b

/-- As many boundaries as there may be. -/
theorem still_foldl {A : Type} (f : State → A → State) (step : ∀ (u : State) a, u.shadow = [] → Still u (f u a)) (none_ : s.shadow = []) (l : List A) :
    Still s (l.foldl f s) := by
  induction l generalizing s with
  | nil => exact still_refl s
  | cons a l ih =>
    have first := step s a none_
    exact first.trans (ih (first.shadow.trans none_))

end Sys2Proof.Machine.Epochs
end

section
/-!
PROOFS. The Management Function's table command ring (R236–R241): how a command runs and how its descriptor is written back.
-/

namespace Sys2Proof.Machine.TableRing
open State ReadJobs Epochs

variable {s : State} {p : Nat} {d : BitVec 256} {b : List Byte}

/-! ### What has gone out stays -/

/-- Something may have been added to what went out. -/
def Sent (s t : State) : Prop := ∃ l, t.out = l ++ s.out

theorem sent_refl (s : State) : Sent s s := ⟨[], rfl⟩

theorem Sent.trans {s t u : State} (first : Sent s t) (then_ : Sent t u) : Sent s u := by
  obtain ⟨l, h⟩ := first
  obtain ⟨l', h'⟩ := then_
  exact ⟨l' ++ l, by rw [h', h, List.append_assoc]⟩

theorem Sent.mem {s t : State} (h : Sent s t) {o : Out} (out : o ∈ s.out) : o ∈ t.out := by
  obtain ⟨l, sent⟩ := h
  rw [sent]
  exact List.mem_append_right l out

theorem sent_msixSend (s : State) (f : Fn) (v : Nat) : Sent s (s.msixSend f v) := by
  unfold msixSend
  dsimp only
  split
  · exact sent_refl s
  · split
    · exact ⟨[], rfl⟩
    · split
      · exact ⟨[], rfl⟩
      · split
        · exact ⟨[], rfl⟩
        · split
          · exact sent_refl s
          · exact ⟨[_], rfl⟩

theorem sent_setEvt (s : State) (evt en vec : Reg) (i k : Nat) : Sent s (s.setEvt evt en vec i k) := by
  unfold setEvt
  dsimp only
  split
  · unfold mfVector
    split
    · exact ⟨[], rfl⟩
    · exact sent_msixSend (s.setReg evt i _) ..
  · exact ⟨[], rfl⟩

/-! ### Requests of the Management Function that are served -/

/-- The Management Function issues requests: neither the safe state, nor its own Command register, nor its link or stream stops them. -/
structure Live (s : State) : Prop where
  safe : s.isSafe = false
  master : s.muted .mf none = false
  up : s.linkUp s.mgmtLink = true
  secure : s.ideDrops .mf = false

theorem live_of (h : s.isSafe = false ∧ s.muted .mf none = false ∧ s.linkUp s.mgmtLink = true ∧ s.ideDrops .mf = false) : Live s :=
  ⟨h.1, h.2.1, h.2.2.1, h.2.2.2⟩

theorem Live.waits (h : Live s) (on : s.domState p = 0) : s.cmdqWaits p = false := by
  unfold cmdqWaits mfWaits
  rw [h.safe, h.master, on]
  rfl

/-- A posted write that its link and stream let through. -/
theorem sendWrite_open (up : s.linkUp s.mgmtLink = true) (secure : s.ideDrops .mf = false) (a : Nat) (data : List Byte) :
    s.sendWrite .mf a data false = s.emit (.hostWrite .mf a data false false) := by
  unfold sendWrite
  rw [show s.linkUp (s.fnLink .mf) = true from up, secure]
  rfl

/-- The link of the Management Function, by registers that table commands leave alone. -/
theorem mgmtUp_of_but {s t : State} {l : List (Reg × Nat)} (h : s.RegsBut t l) (out : (Reg.HEP_MGMT_LINK, 0) ∉ l ∧ (Reg.HEP_LINK_STATE, 0) ∉ l)
    (up : s.linkUp s.mgmtLink = true) : t.linkUp t.mgmtLink = true := by
  have link : t.mgmtLink = s.mgmtLink := congrArg (fun w => getBits w _ _) (h _ _ out.1)
  rw [link, ← up]
  exact congrArg (fun w => getBits w _ _ == 3) (h .HEP_LINK_STATE 0 out.2)

/-- Writes that go out one after the other. -/
theorem writes_open (ws : List Part) (up : s.linkUp s.mgmtLink = true) (secure : s.ideDrops .mf = false) :
    ws.foldl (fun u w => u.sendWrite .mf w.addr w.data false) s
      = { s with out := (ws.map fun w => Out.hostWrite .mf w.addr w.data false false).reverse ++ s.out } := by
  induction ws generalizing s with
  | nil => rfl
  | cons w ws ih =>
    rw [List.foldl_cons, sendWrite_open up secure, ih (s := s.emit _) up secure, List.map_cons, List.reverse_cons, List.append_assoc]
    rfl

/-! ### The ring goes on -/

/-- Pier `p`'s ring has gone on with its examination: no command is at hand, and what the last one left stands. -/
structure GoesOn (s : State) (p : Nat) (t : State) : Prop where
  frame : t = { s with tblRun := t.tblRun, tags := t.tags, out := t.out, stalled := t.stalled }
  idle : (t.trun p).desc = none
  sent : Sent s t

theorem fetch_goesOn (up : s.linkUp s.mgmtLink = true) (idle : (s.trun p).desc = none) : GoesOn s p (s.cmdqFetch p) := by
  unfold cmdqFetch
  dsimp only
  split
  · exact ⟨rfl, idle, sent_refl s⟩
  · have issued := issued_runJob (s := s.setTrun p { examining := true, waiting := true, addr := s.cmdqAddr p })
      (j := { fn := .mf, span := none, dep := .tblRing p, write := false, parts := [{ addr := s.cmdqAddr p, len := 32 }] }) rfl rfl up
    generalize State.runJob _ _ = t at *
    refine ⟨?_, ?_, issued.sent⟩
    · rw [issued.frame]
      rfl
    · unfold trun
      rw [show t.tblRun = _ from (congrArg State.tblRun issued.frame :)]
      exact congrArg TblRun.desc (SMap.get_put_self ({} : TblRun) s.tblRun p { examining := true, waiting := true, addr := s.cmdqAddr p })

theorem next_goesOn (up : s.linkUp s.mgmtLink = true) (more : Bool) : GoesOn s p (s.cmdqNext p more) := by
  have fetched := fetch_goesOn (s := s.setTrun p { examining := s.flag F.TBL_CMDQ_CTL_EN p && (more || (s.trun p).rung) }) (p := p) up
    (congrArg TblRun.desc (SMap.get_put_self ({} : TblRun) s.tblRun p _))
  unfold cmdqNext
  generalize (s.setTrun p { examining := s.flag F.TBL_CMDQ_CTL_EN p && (more || (s.trun p).rung) }).cmdqFetch p = t at *
  obtain ⟨frame, idle, sent⟩ := fetched
  exact ⟨frame, idle, sent⟩

/-! ### A command's end -/

/-- Only the tables, the caches of their contents and their locks differ. -/
def TablesOnly (s u : State) : Prop :=
  u = { s with flows := u.flows, locks := u.locks, routes := u.routes, fcache := u.fcache, missBuf := u.missBuf, gens := u.gens }

/-- The descriptor as it is written back. -/
def backWord (d : BitVec 256) (a : TblAns) : BitVec 256 :=
  let w := descSet (descSet d 12 1 0) 16 8 a.result
  if descBits d 0 8 = 3 ∨ descBits d 0 8 = 5 then descSet w 32 32 a.index else w

/-- Descriptor `w` has been written back at HEAD, and the ring has gone on. -/
def Written (s : State) (p : Nat) (t : State) (w : BitVec 256) : Prop :=
  .hostWrite .mf (s.cmdqAddr p) (toBytesLE 32 w.toNat) false false ∈ t.out ∧
    t.fld F.TBL_CMDQ_STATUS_HEAD p = (s.fld F.TBL_CMDQ_STATUS_HEAD p + 1) % s.cmdqSize p ∧
    t.fld F.TBL_CMDQ_STATUS_DONE_CNT p = (s.fld F.TBL_CMDQ_STATUS_DONE_CNT p + 1) % 2 ^ 32 ∧
    t.fld F.TBL_CMDQ_STATUS_BUSY p = 0 ∧ (t.trun p).desc = none

/-- HEAD fits its field: a ring has at most 2^15 places. -/
theorem head_small (s : State) (p v : Nat) : v % s.cmdqSize p % 2 ^ 16 = v % s.cmdqSize p := by
  have log : s.fld F.TBL_CMDQ_CTL_LOG2_SIZE p < 2 ^ 4 := getBits_lt ..
  have size : s.cmdqSize p ≤ 2 ^ 15 := Nat.pow_le_pow_right (by decide) (by omega)
  have pos : 0 < s.cmdqSize p := Nat.pow_pos (by decide)
  have := Nat.mod_lt v pos
  omega

/-- A message has gone out, and the ring's status takes its values: not busy, HEAD and the count. -/
def marked (u : State) (p : Nat) (o : Out) (h c : Nat) : State :=
  (((u.emit o).setFld F.TBL_CMDQ_STATUS_BUSY p 0).setFld F.TBL_CMDQ_STATUS_HEAD p h).setFld F.TBL_CMDQ_STATUS_DONE_CNT p c

/-- The event of a command whose descriptor asks for it. -/
def announced (u : State) (p : Nat) (d : BitVec 256) : State :=
  if descBits d 13 1 = 1 then u.setEvt .TBL_EVT .TBL_EVT_EN .TBL_MSIX_VEC p 0 else u

section
variable {u : State} {o : Out} {h c : Nat}

theorem marked_frame : marked u p o h c = { u with regs := (marked u p o h c).regs, out := o :: u.out } := rfl

theorem marked_but : u.RegsBut (marked u p o h c) [(.TBL_CMDQ_STATUS, p)] :=
  Frames.but_mono (Frames.but_trans (Frames.but_trans (Frames.but_congr (Frames.but_setFld u F.TBL_CMDQ_STATUS_BUSY p 0) rfl)
    (Frames.but_setFld _ F.TBL_CMDQ_STATUS_HEAD p h)) (Frames.but_setFld _ F.TBL_CMDQ_STATUS_DONE_CNT p c)) (by simp [F.TBL_CMDQ_STATUS_BUSY, F.TBL_CMDQ_STATUS_HEAD, F.TBL_CMDQ_STATUS_DONE_CNT])

theorem marked_status : (marked u p o h c).fld F.TBL_CMDQ_STATUS_HEAD p = h % 2 ^ 16 ∧ (marked u p o h c).fld F.TBL_CMDQ_STATUS_DONE_CNT p = c % 2 ^ 32 ∧
    (marked u p o h c).fld F.TBL_CMDQ_STATUS_BUSY p = 0 := by
  unfold marked
  refine ⟨?_, Fields.fld_setFld_self _ (by decide), ?_⟩
  · rw [Fields.fld_setFld_apart _ (by decide)]
    exact Fields.fld_setFld_self _ (by decide)
  · rw [Fields.fld_setFld_apart _ (by decide), Fields.fld_setFld_apart _ (by decide)]
    exact Fields.fld_setFld_self _ (by decide)

theorem announced_frame : u.OnlySignals (announced u p d) := by
  unfold announced
  split
  · exact Frames.only_setEvt u ..
  · exact Frames.only_refl u

theorem announced_but : u.RegsBut (announced u p d) [(.TBL_EVT, p), (.HEP_DROP_CNT, 0)] := by
  unfold announced
  split
  · exact Frames.but_setEvt u _ _ _ _ _
  · exact fun _ _ _ => rfl

theorem announced_sent : Sent u (announced u p d) := by
  unfold announced
  split
  · exact sent_setEvt u ..
  · exact sent_refl u

end

/-- A command that has run as the Management Function is written back: its tables stay as it left them, its result and status stand, the
data of its buffer went out, and the ring goes on. -/
theorem done_written {a : TblAns} {x : TblRun} {e : Bool} (live : Live s) (kept : TablesOnly s a.after) (run : s.trun p = x) (new : x.old = false)
    (place : x.addr = s.cmdqAddr p) (quiet : a.data = [] ∨ e = false) :
    let t := s.cmdqDone p d a e
    Written s p t (backWord d a) ∧ (t.flows = a.after.flows ∧ t.locks = a.after.locks ∧ t.routes = a.after.routes) ∧
      ∀ w ∈ s.writeCut .mf (descHost d) a.data, a.data ≠ [] → .hostWrite .mf w.addr w.data false false ∈ t.out := by
  intro t
  have regs : a.after.regs = s.regs := (congrArg State.regs kept :)
  have up : a.after.linkUp a.after.mgmtLink = true := by
    rw [kept]
    exact live.up
  have secure : a.after.ideDrops .mf = false := by
    rw [kept]
    exact live.secure
  have cut : a.after.writeCut .mf (descHost d) a.data = s.writeCut .mf (descHost d) a.data := by
    rw [kept]
    rfl
  have runs : a.after.trun p = x := by
    rw [← run, kept]
    rfl
  obtain ⟨l, data, mem⟩ : ∃ l, (if a.data.isEmpty then a.after else (a.after.writeCut .mf (descHost d) a.data).foldl (fun u w => u.sendWrite .mf w.addr w.data e) a.after)
      = { a.after with out := l ++ a.after.out } ∧ ∀ w ∈ s.writeCut .mf (descHost d) a.data, a.data ≠ [] → .hostWrite .mf w.addr w.data false false ∈ l := by
    by_cases none_ : a.data = []
    · exact ⟨[], if_pos (by rw [none_]; rfl), fun _ _ some_ => absurd none_ some_⟩
    · rw [quiet.resolve_left none_, if_neg (by simpa using none_), writes_open _ up secure, cut]
      exact ⟨_, rfl, fun w member _ => List.mem_reverse.2 (List.mem_map.2 ⟨w, member, rfl⟩)⟩
  generalize made : ({ a.after with out := l ++ a.after.out } : State) = v at data
  have vregs : v.regs = s.regs := by
    rw [← made]
    exact regs
  have vrun : v.trun p = x := by
    rw [← made]
    exact runs
  have vup : v.linkUp v.mgmtLink = true := by
    rw [← made]
    exact up
  have vsecure : v.ideDrops .mf = false := by
    rw [← made]
    exact secure
  let o : Out := .hostWrite .mf x.addr (toBytesLE 32 (backWord d a).toNat) false false
  let u := marked v p o ((s.fld F.TBL_CMDQ_STATUS_HEAD p + 1) % s.cmdqSize p) (s.fld F.TBL_CMDQ_STATUS_DONE_CNT p + 1)
  have ran : t = (announced u p d).cmdqNext p true := by
    have busy : ((v.emit o).setFld F.TBL_CMDQ_STATUS_BUSY p 0).linkUp ((v.emit o).setFld F.TBL_CMDQ_STATUS_BUSY p 0).mgmtLink = true :=
      mgmtUp_of_but (Frames.but_congr (Frames.but_setFld v F.TBL_CMDQ_STATUS_BUSY p 0) rfl) (by simp [F.TBL_CMDQ_STATUS_BUSY]) vup
    have head (o : Out) : ((v.emit o).setFld F.TBL_CMDQ_STATUS_BUSY p 0).fld F.TBL_CMDQ_STATUS_HEAD p = s.fld F.TBL_CMDQ_STATUS_HEAD p :=
      (Fields.fld_setFld_apart _ (by decide)).trans (fld_congr vregs ..)
    have size (o : Out) : ((v.emit o).setFld F.TBL_CMDQ_STATUS_BUSY p 0).cmdqSize p = s.cmdqSize p :=
      congrArg (2 ^ ·) ((Fields.fld_setFld_other _ (by decide)).trans (fld_congr vregs ..))
    have count (o : Out) (h : Nat) : (((v.emit o).setFld F.TBL_CMDQ_STATUS_BUSY p 0).setFld F.TBL_CMDQ_STATUS_HEAD p h).fld F.TBL_CMDQ_STATUS_DONE_CNT p
        = s.fld F.TBL_CMDQ_STATUS_DONE_CNT p :=
      (Fields.fld_setFld_apart _ (by decide)).trans ((Fields.fld_setFld_apart _ (by decide)).trans (fld_congr vregs ..))
    show s.cmdqDone p d a e = _
    unfold cmdqDone
    dsimp only
    rw [data, runs, sendWrite_open vup vsecure]
    show (if (!((v.emit o).setFld F.TBL_CMDQ_STATUS_BUSY p 0).linkUp ((v.emit o).setFld F.TBL_CMDQ_STATUS_BUSY p 0).mgmtLink) = true then _ else _) = _
    rw [busy, new]
    simp only [Bool.not_true, Bool.not_false, Bool.false_eq_true, if_false, head, size, count]
    rfl
  have frame : (announced u p d) = { v with regs := (announced u p d).regs, msix := (announced u p d).msix, msixWait := (announced u p d).msixWait,
                                            out := (announced u p d).out } := announced_frame
  have but := Frames.but_trans marked_but (announced_but (p := p) (d := d) (u := u))
  have sent : Sent v (announced u p d) := .trans ⟨[o], rfl⟩ announced_sent
  obtain ⟨head, count, busy⟩ := marked_status (u := v) (p := p) (o := o) (h := (s.fld F.TBL_CMDQ_STATUS_HEAD p + 1) % s.cmdqSize p)
    (c := s.fld F.TBL_CMDQ_STATUS_DONE_CNT p + 1)
  have status (f : Fld) (own : f.reg = .TBL_CMDQ_STATUS) : (announced u p d).fld f p = u.fld f p :=
    congrArg (fun w => getBits w f.lo f.width) (announced_but f.reg p (by rw [own]; simp))
  have goes := next_goesOn (s := announced u p d) (p := p) (mgmtUp_of_but but (by simp) vup) true
  have out : o ∈ (announced u p d).out := announced_sent.mem (List.mem_cons_self ..)
  rw [ran]
  generalize (announced u p d).cmdqNext p true = t' at goes
  generalize announced u p d = w at frame sent status goes out
  obtain ⟨framed, idle, sent'⟩ := goes
  have regs' : t'.regs = w.regs := (congrArg State.regs framed :)
  refine ⟨⟨place ▸ sent'.mem out, ?_, ?_, ?_, idle⟩, ⟨?_, ?_, ?_⟩, fun c member some_ => sent'.mem (sent.mem ?_)⟩
  · rw [fld_congr regs', status _ rfl, head, head_small]
  · rw [fld_congr regs', status _ rfl, count]
  · rw [fld_congr regs', status _ rfl, busy]
  · rw [framed, frame, ← made]
  · rw [framed, frame, ← made]
  · rw [framed, frame, ← made]
  · rw [← made]
    exact List.mem_append_left _ (mem c member some_)

/-! ### Commands of a FLOW table (R235, R237, R239) -/

/-- A command names an entry of a FLOW table by its index, and asks for no unlock. -/
structure FlowCmd (s : State) (p : Nat) (c : TblCmd) : Prop where
  kind : s.tblKind p c.table = 1
  within : c.index < s.tblSize p c.table
  byIndex : c.byKey = false
  keeps : c.unlock = false

variable {c : TblCmd} {who : BitVec 16}

theorem FlowCmd.table (h : FlowCmd s p c) : c.table ≠ 15 := fun e => by
  have kind := h.kind
  unfold tblKind at kind
  rw [e, if_neg (by decide)] at kind
  cases kind

/-- The store of a FLOW table meets no error of its own. -/
theorem FlowCmd.meets (h : FlowCmd s p c) : s.tblDo p who c = s.tblRunCmd p who c := by
  unfold tblDo tblMeet
  rw [h.kind]
  exact ite_self _

theorem FlowCmd.units (h : FlowCmd s p c) : ¬ s.unitCount p c.table 1 < c.index + 1 := by
  have := h.within
  unfold unitCount
  rw [if_neg (by decide)]
  omega

/-- An entry's lock does not hold `who` off. -/
def FreeFor (s : State) (p : Nat) (c : TblCmd) (who : BitVec 16) : Prop :=
  s.lockOf (tkey p c.table c.index) = 0 ∨ s.lockOf (tkey p c.table c.index) = who

theorem runs_read (h : FlowCmd s p c) (op : c.op = 1) (one : c.count = 1) (ok : c.err = .ok) :
    s.tblRunCmd p who c = { result := 0, index := c.index, data := s.readUnit p c.table 1 c.index, after := s } := by
  simp [tblRunCmd, op, one, ok, h.kind, h.table, h.byIndex, h.units, opAllowed]

theorem FreeFor.open_ (h : FreeFor s p c who) :
    ¬ s.lockOf (tkey p c.table c.index) = 0#16 → s.lockOf (tkey p c.table c.index) = who := h.resolve_left

theorem runs_write (h : FlowCmd s p c) (op : c.op = 2) (free : FreeFor s p c who) :
    s.tblRunCmd p who c = { result := 0, index := c.index, after := s.putEnt p c.table c.index c.buf false } := by
  simp [tblRunCmd, op, h.kind, h.table, h.byIndex, h.keeps, h.units, opAllowed, writeUnit]
  exact free.open_

/-- An entry that another owner has locked is left alone. -/
theorem runs_locked (h : FlowCmd s p c) (op : c.op = 2 ∨ c.op = 6 ∧ s.entValid p c.table c.index = true ∧ c.err = .ok) (shut : ¬ FreeFor s p c who) :
    s.tblRunCmd p who c = { result := 1, index := c.index, after := s } := by
  obtain ⟨held, other⟩ : ¬ s.lockOf (tkey p c.table c.index) = 0#16 ∧ ¬ s.lockOf (tkey p c.table c.index) = who := not_or.1 shut
  rcases op with op | ⟨op, valid, ok⟩
  · simp [tblRunCmd, op, h.kind, h.table, h.byIndex, h.units, opAllowed, held, other]
  · simp [tblRunCmd, op, valid, ok, h.kind, h.table, h.byIndex, h.units, opAllowed, held, other]

theorem runs_insert {j : Nat} (h : FlowCmd s p c) (op : c.op = 3) (ok : c.err = .ok) (place : s.insertAt p c.table who c.buf = some (j, true, none))
    (free : s.lockOf (tkey p c.table j) = 0) :
    s.tblRunCmd p who c = { result := 0, index := j, after := s.putEnt p c.table j c.buf true } := by
  simp [tblRunCmd, op, ok, h.kind, h.table, h.keeps, opAllowed, place, free]

theorem runs_insert_full (h : FlowCmd s p c) (op : c.op = 3) (ok : c.err = .ok) (full : s.insertAt p c.table who c.buf = none) :
    s.tblRunCmd p who c = { result := 3, index := c.index, after := s } := by
  simp [tblRunCmd, op, ok, h.kind, h.table, opAllowed, full]

theorem runs_insert_poisoned (h : FlowCmd s p c) (op : c.op = 3) (bad : c.err = .poisoned) :
    s.tblRunCmd p who c = { result := 6, index := c.index, after := s } := by
  simp [tblRunCmd, op, bad, h.kind, h.table, opAllowed]

theorem runs_delete (h : FlowCmd s p c) (op : c.op = 4) (ok : c.err = .ok) (free : FreeFor s p c who) (valid : s.entValid p c.table c.index = true) :
    s.tblRunCmd p who c = { result := 0, index := c.index, after := s.dropEnt p c.table c.index } := by
  simp [tblRunCmd, op, ok, h.kind, h.table, h.byIndex, h.keeps, h.units, opAllowed, valid]
  exact free.open_

theorem runs_delete_missing (h : FlowCmd s p c) (op : c.op = 4) (ok : c.err = .ok) (free : FreeFor s p c who)
    (absent : s.entValid p c.table c.index = false) : s.tblRunCmd p who c = { result := 2, index := c.index, after := s } := by
  simp [tblRunCmd, op, ok, h.kind, h.table, h.byIndex, h.units, opAllowed, absent]
  exact free.open_

theorem runs_lookup {j : Nat} (h : FlowCmd s p c) (op : c.op = 5) (ok : c.err = .ok) (found : s.keyFind p c.table c.buf = some j)
    (within : j < s.tblSize p c.table) : s.tblRunCmd p who c = { result := 0, index := j, after := s } := by
  have units : ¬ s.unitCount p c.table 1 < j + 1 := by
    unfold unitCount
    rw [if_neg (by decide)]
    omega
  simp [tblRunCmd, op, ok, h.kind, h.table, opAllowed, found, units]

theorem runs_lookup_missing (h : FlowCmd s p c) (op : c.op = 5) (ok : c.err = .ok) (absent : s.keyFind p c.table c.buf = none) :
    s.tblRunCmd p who c = { result := 2, index := c.index, after := s } := by
  simp [tblRunCmd, op, ok, h.kind, h.table, opAllowed, absent]

theorem runs_lock (h : FlowCmd s p c) (op : c.op = 6) (ok : c.err = .ok) (free : FreeFor s p c who) (valid : s.entValid p c.table c.index = true) :
    s.tblRunCmd p who c = { result := 0, index := c.index, after := s.setLock (tkey p c.table c.index) who } := by
  simp [tblRunCmd, op, ok, h.kind, h.table, h.byIndex, h.units, opAllowed, valid]
  exact free.open_

theorem runs_unlock (h : FlowCmd s p c) (op : c.op = 7) (ok : c.err = .ok) (mine : s.lockOf (tkey p c.table c.index) = who) (some_ : ¬ who = 0#16) :
    s.tblRunCmd p who c = { result := 0, index := c.index, after := s.setLock (tkey p c.table c.index) 0 } := by
  simp [tblRunCmd, op, ok, h.kind, h.table, h.byIndex, h.units, opAllowed, mine, some_]

theorem runs_unlock_free (h : FlowCmd s p c) (op : c.op = 7) (ok : c.err = .ok) (free : s.lockOf (tkey p c.table c.index) = 0) :
    s.tblRunCmd p who c = { result := 5, index := c.index, after := s } := by
  simp [tblRunCmd, op, ok, h.kind, h.table, h.byIndex, h.units, opAllowed, free]

/-! ### What the commands leave in the tables -/

theorem tables_refl (s : State) : TablesOnly s s := rfl

theorem tables_touched (keys : List (List Byte)) (t : Nat) : TablesOnly s (s.touched p t keys) ∧ (s.touched p t keys).flows = s.flows ∧
    (s.touched p t keys).locks = s.locks ∧ (s.touched p t keys).routes = s.routes := by
  have dropped (keys : List (List Byte)) : TablesOnly s (keys.foldl (fun u k => u.fcDrop p k) s) ∧ (keys.foldl (fun u k => u.fcDrop p k) s).flows = s.flows ∧
      (keys.foldl (fun u k => u.fcDrop p k) s).locks = s.locks ∧ (keys.foldl (fun u k => u.fcDrop p k) s).routes = s.routes := by
    induction keys generalizing s with
    | nil => exact ⟨rfl, rfl, rfl, rfl⟩
    | cons k ks ih =>
      obtain ⟨frame, flows, locks, routes⟩ := ih (s := s.fcDrop p k)
      rw [List.foldl_cons]
      refine ⟨?_, flows, locks, routes⟩
      unfold TablesOnly at frame ⊢
      rw [frame]
      rfl
  unfold touched
  split
  · exact dropped keys
  · unfold bumpGen
    dsimp only
    split <;> exact ⟨rfl, rfl, rfl, rfl⟩
  · unfold bumpGen
    dsimp only
    split <;> exact ⟨rfl, rfl, rfl, rfl⟩
  · exact ⟨rfl, rfl, rfl, rfl⟩

/-- A stored entry of a FLOW table: it is the one that the buffer gives, and no lock changed. -/
theorem flow_putEnt {t j : Nat} (kind : s.tblKind p t = 1) (bs : List Byte) (new : Bool) : TablesOnly s (s.putEnt p t j bs new) ∧
    (s.putEnt p t j bs new).flowAt p t j = s.flowOf p (if new then { spill := (s.flowAt p t j).spill } else s.flowAt p t j) bs ∧
    (s.putEnt p t j bs new).locks = s.locks := by
  unfold putEnt
  dsimp only
  rw [if_pos kind]
  generalize s.flowOf p _ bs = e
  obtain ⟨frame, flows, locks, -⟩ := tables_touched (s := s.setFlow p t j e) (p := p) [(s.flowAt p t j).key, e.key] t
  refine ⟨?_, ?_, locks⟩
  · unfold TablesOnly at frame ⊢
    rw [frame]
    rfl
  · refine (congrArg (fun m => SMap.get ({} : FlowEnt) m (tkey p t j)) flows).trans ?_
    exact SMap.get_put_self ({} : FlowEnt) s.flows (tkey p t j) e

/-- A removed entry of a FLOW table is not valid, and no lock changed. -/
theorem flow_dropEnt {t j : Nat} (kind : s.tblKind p t = 1) : TablesOnly s (s.dropEnt p t j) ∧ ((s.dropEnt p t j).flowAt p t j).valid = false ∧
    (s.dropEnt p t j).locks = s.locks := by
  let u := s.setFlow p t j { spill := (s.flowAt p t j).spill }
  have cleared : (u.flowAt p t j).valid = false := congrArg FlowEnt.valid (SMap.get_put_self ({} : FlowEnt) s.flows (tkey p t j) _)
  have spilled (a n : Nat) (other : a ≠ j) : TablesOnly s (u.setSpill p t a n) ∧ ((u.setSpill p t a n).flowAt p t j).valid = false ∧
      (u.setSpill p t a n).locks = s.locks := by
    unfold setSpill
    rw [if_pos (show u.tblKind p t = 1 from kind)]
    refine ⟨rfl, ?_, rfl⟩
    rw [← cleared]
    exact congrArg FlowEnt.valid (SMap.get_put_ne ({} : FlowEnt) {} u.flows _ fun e => other (Nat.add_right_cancel e).symm)
  have touched (v : State) (keys : List (List Byte)) (h : TablesOnly s v ∧ (v.flowAt p t j).valid = false ∧ v.locks = s.locks) :
      TablesOnly s (v.touched p t keys) ∧ ((v.touched p t keys).flowAt p t j).valid = false ∧ (v.touched p t keys).locks = s.locks := by
    obtain ⟨only, absent, held⟩ := h
    obtain ⟨frame, flows, locks, -⟩ := tables_touched (s := v) (p := p) keys t
    refine ⟨?_, ?_, locks.trans held⟩
    · unfold TablesOnly at frame only ⊢
      rw [frame, only]
    · exact (congrArg (fun m => (SMap.get ({} : FlowEnt) m (tkey p t j)).valid) flows).trans absent
  unfold dropEnt
  dsimp only
  rw [if_pos kind]
  refine touched _ _ ?_
  split
  · next second => exact spilled _ _ second.2.1
  · exact ⟨rfl, cleared, rfl⟩

/-! ### Routes (R226, R238) -/

/-- A route of the same prefix: VRF, family, length and the bits that they cover. -/
def samePrefix (r q : Route) : Bool := q.vrf == r.vrf && q.v6 == r.v6 && q.len == r.len && Route.covers q r.vrf r.v6 r.pfx.toNat

/-- The routes of a table are `l`, and its generation has risen. -/
def routed (s : State) (p t : Nat) (l : List Route) : State := { s with routes := SMap.put [] s.routes (tabKey p t) l }.bumpGen p t

theorem routed_keeps (t : Nat) (l : List Route) : TablesOnly s (routed s p t l) ∧ SMap.get [] (routed s p t l).routes (tabKey p t) = l := by
  unfold routed bumpGen
  dsimp only
  split <;> exact ⟨rfl, SMap.get_put_self [] s.routes (tabKey p t) l⟩

theorem meets_routes (kind : s.tblKind p c.table = 4) : s.tblDo p who c = s.tblRunCmd p who c := by
  unfold tblDo tblMeet
  rw [kind]
  exact ite_self _

theorem runs_routeAdd (kind : s.tblKind p c.table = 4) (inside : c.table ≠ 15) (op : c.op = 8)
    (fresh : ∀ q ∈ SMap.get [] s.routes (tabKey p c.table), ¬(q.vrf = (routeOf c.buf).vrf ∧ q.v6 = (routeOf c.buf).v6 ∧ q.len = (routeOf c.buf).len))
    (room : lpmUnits (SMap.get [] s.routes (tabKey p c.table) ++ [routeOf c.buf]) ≤ s.tblSize p c.table) :
    s.tblRunCmd p who c = { result := 0, index := c.index, after := routed s p c.table (SMap.get [] s.routes (tabKey p c.table) ++ [routeOf c.buf]) } := by
  have none_ : (SMap.get [] s.routes (tabKey p c.table)).findIdx? (samePrefix (routeOf c.buf)) = none := by
    rw [List.findIdx?_eq_none_iff]
    intro q member
    have other := fresh q member
    unfold samePrefix
    rw [Bool.eq_false_iff]
    intro same
    simp only [Bool.and_eq_true, beq_iff_eq] at same
    exact other ⟨same.1.1.1, same.1.1.2, same.1.2⟩
  have added : s.routeCmd p c.table true c.buf = (0, routed s p c.table (SMap.get [] s.routes (tabKey p c.table) ++ [routeOf c.buf])) := by
    unfold routeCmd
    dsimp only
    split
    · next found => cases none_.symm.trans found
    · rw [if_neg (by decide), if_neg (by omega)]
      rfl
  simp [tblRunCmd, op, kind, inside, opAllowed, added]

theorem runs_routeDel {rest : List Route} (kind : s.tblKind p c.table = 4) (inside : c.table ≠ 15) (op : c.op = 9)
    (first : SMap.get [] s.routes (tabKey p c.table) = routeOf c.buf :: rest) :
    s.tblRunCmd p who c = { result := 0, index := c.index, after := routed s p c.table rest } := by
  have found : (routeOf c.buf :: rest).findIdx? (samePrefix (routeOf c.buf)) = some 0 := by
    rw [List.findIdx?_cons, if_pos]
    simp [samePrefix, Route.covers]
  have removed : s.routeCmd p c.table false c.buf = (0, routed s p c.table rest) := by
    unfold routeCmd
    dsimp only
    rw [first]
    split
    · next at_ =>
      rw [← Option.some.inj (found.symm.trans at_)]
      rfl
    · next none_ => cases found.symm.trans none_
  simp [tblRunCmd, op, kind, inside, opAllowed, removed]

theorem runs_routeDel_missing (kind : s.tblKind p c.table = 4) (inside : c.table ≠ 15) (op : c.op = 9)
    (none_ : SMap.get [] s.routes (tabKey p c.table) = []) : s.tblRunCmd p who c = { result := 2, index := c.index, after := s } := by
  have missing : s.routeCmd p c.table false c.buf = (2, s) := by
    unfold routeCmd
    dsimp only
    rw [none_]
    rfl
  simp [tblRunCmd, op, kind, inside, opAllowed, missing]

/-! ### A command at HEAD -/

/-- The command with OP `n` of descriptor `d` is at HEAD of the ring, with its buffer, and nothing holds it. -/
def AtHead (s : State) (p : Nat) (d : BitVec 256) (b : List Byte) (n : Nat) : Prop :=
  (s.isSafe = false ∧ s.muted .mf none = false ∧ s.linkUp s.mgmtLink = true ∧ s.ideDrops .mf = false) ∧ s.domState p = 0 ∧
    s.trun p = { examining := true, addr := s.cmdqAddr p, desc := some d, buf := some b } ∧ descBits d 0 8 = n

/-- Such a command runs as the Management Function, and its descriptor is written back. -/
theorem command_ends {n : Nat} {r : TblRead} {a : TblAns} (h : AtHead s p d b n) (ans : s.tblDo p ownerMf (TblCmd.ofDesc d b r) = a)
    (kept : TablesOnly s a.after) (quiet : a.data = [] ∨ (r == .poisoned) = false) :
    Written s p (s.cmdqRow p n r) (backWord d a) ∧
      ((s.cmdqRow p n r).flows = a.after.flows ∧ (s.cmdqRow p n r).locks = a.after.locks ∧ (s.cmdqRow p n r).routes = a.after.routes) ∧
      ∀ w ∈ s.writeCut .mf (descHost d) a.data, a.data ≠ [] → .hostWrite .mf w.addr w.data false false ∈ (s.cmdqRow p n r).out := by
  obtain ⟨live, on, run, op⟩ := h
  have ran : s.cmdqRow p n r = s.cmdqDone p d a (r == .poisoned) := by
    unfold cmdqRow
    dsimp only
    rw [run]
    dsimp only
    rw [op, (live_of live).waits on, if_neg (by simp), if_neg (by simp), ans]
  rw [ran]
  exact done_written (live_of live) kept run rfl rfl quiet

theorem backWord_plain {n : Nat} {a : TblAns} (op : descBits d 0 8 = n) (plain : n ≠ 3 ∧ n ≠ 5) :
    backWord d a = descSet (descSet d 12 1 0) 16 8 a.result := if_neg (by rw [op]; exact not_or.2 plain)

theorem backWord_indexed {n : Nat} {a : TblAns} (op : descBits d 0 8 = n) (indexed : n = 3 ∨ n = 5) :
    backWord d a = descSet (descSet (descSet d 12 1 0) 16 8 a.result) 32 32 a.index := if_pos (by rw [op]; exact indexed)

/-- The descriptor of a command of a FLOW table by index. -/
theorem flowCmd_of {r : TblRead} (h : s.tblKind p (descBits d 8 4) = 1 ∧ descBits d 32 32 < s.tblSize p (descBits d 8 4) ∧ descBits d 14 1 = 0 ∧
    descBits d 15 1 = 0) : FlowCmd s p (TblCmd.ofDesc d b r) := by
  obtain ⟨kind, within, byIndex, keeps⟩ := h
  exact ⟨kind, within, by simp [TblCmd.ofDesc, byIndex], by simp [TblCmd.ofDesc, keeps]⟩

theorem entValid_flow {t i : Nat} (kind : s.tblKind p t = 1) : s.entValid p t i = (s.flowAt p t i).valid := if_pos kind

/-! ### The bytes of an entry go out in one write -/

theorem flowBytes_length (e : FlowEnt) (o : BitVec 16) : (flowBytes e o).length = 64 := by
  unfold flowBytes overlay
  simp only [List.length_append, List.length_cons, List.length_nil, List.length_take, List.length_drop, List.length_replicate, Arithmetic.toBytesLE_length]
  omega

theorem writeCut_block {f : Fn} {a : Nat} {bs : List Byte} (len : bs.length = 64) (aligned : a % 64 = 0) :
    s.writeCut f a bs = [{ addr := a, len := 64, data := bs }] := by
  have most : 128 ≤ s.writeMax f := by
    unfold writeMax
    have : 1 ≤ 2 ^ (s.fn f).mps.toNat := Nat.pow_pos (by decide)
    omega
  have whole : min bs.length (min (s.writeMax f) (4096 - a % 4096)) = 64 := by omega
  have ends (fuel : Nat) : writePieces (s.writeMax f) fuel (a + 64) [] = [] := by cases fuel <;> rfl
  cases bs with
  | nil => cases len
  | cons x xs =>
    unfold writeCut
    rw [show (x :: xs).length / s.writeMax f + (x :: xs).length / 4096 + 2 = ((x :: xs).length / s.writeMax f + (x :: xs).length / 4096 + 1) + 1 from rfl]
    unfold writePieces
    dsimp only
    rw [whole, ← len, List.take_length, List.drop_length, len, ends]

/-! ### The doorbell and the enable bit (R239, R241, R250) -/

section
variable {q : Pier}

theorem trun_setTrun (s : State) (p : Nat) (x : TblRun) : (s.setTrun p x).trun p = x := SMap.get_put_self ({} : TblRun) s.tblRun p x

/-- The examination of a ring that is enabled: it goes on where the ring had stopped, and work from before is marked. -/
def renewed (x : TblRun) (was : Bool) : TblRun := { x with examining := was, rung := false, old := x.waiting || x.desc.isSome }

theorem live_setTrun (live : Live s) (p : Nat) (x : TblRun) : Live (s.setTrun p x) := ⟨live.safe, live.master, live.up, live.secure⟩

theorem regs_fetch (up : s.linkUp s.mgmtLink = true) : (s.cmdqFetch p).regs = s.regs := by
  unfold cmdqFetch
  dsimp only
  split
  · rfl
  · exact (issued_runJob (s := s.setTrun p { examining := true, waiting := true, addr := s.cmdqAddr p })
      (j := { fn := .mf, span := none, dep := .tblRing p, write := false, parts := [{ addr := s.cmdqAddr p, len := 32 }] }) rfl rfl up).regs

theorem free_setTrun {tg : Nat} (free : s.freeTag s.mgmtLink 16384 0 = some tg) (p : Nat) (x : TblRun) :
    (s.setTrun p x).freeTag (s.setTrun p x).mgmtLink 16384 0 = some tg := by
  rw [EntryLives.freeTag_congr (u := s.setTrun p x) (t := s) rfl, show (s.setTrun p x).mgmtLink = s.mgmtLink from rfl]
  exact free

/-- The read of the descriptor at HEAD goes out under the free tag. -/
theorem fetch_sends {tg : Nat} (live : Live s) (held : s.cmdqHeld = false) (on : s.flag F.TBL_CMDQ_CTL_EN p = true)
    (going : s.flag F.TBL_CMDQ_STATUS_STOPPED p = false) (ready : s.trun p = { examining := true, rung := true })
    (free : s.freeTag s.mgmtLink 16384 0 = some tg) : ∃ m, s.cmdqFetch p
      = { s.setTrun p { examining := true, waiting := true, addr := s.cmdqAddr p } with tags := m, out := .hostRead .mf (s.cmdqAddr p) 32 false :: s.out } := by
  have away := live_setTrun live p { examining := true, waiting := true, addr := s.cmdqAddr p }
  have sent := runJob_one (s := s.setTrun p { examining := true, waiting := true, addr := s.cmdqAddr p }) (t := tg) (p := { addr := s.cmdqAddr p, len := 32 })
    (j := { fn := .mf, span := none, dep := .tblRing p, write := false, parts := [{ addr := s.cmdqAddr p, len := 32 }] })
    rfl rfl rfl away.safe away.master away.up (free_setTrun free p _) away.secure
  have fetched : s.cmdqFetch p = (s.setTrun p { examining := true, waiting := true, addr := s.cmdqAddr p }).runJob
      { fn := .mf, span := none, dep := .tblRing p, write := false, parts := [{ addr := s.cmdqAddr p, len := 32 }] } := by
    unfold cmdqFetch
    dsimp only
    rw [ready, on, going, held, if_neg (by decide)]
  exact ⟨_, fetched.trans sent⟩

/-- The doorbell of an idle ring that is enabled sends the read of the descriptor at HEAD. -/
theorem doorbell_fetches {tg : Nat} (live : Live s) (open_ : s.regOpen .TBL_CMDQ_DB q.val = true) (held : s.cmdqHeld = false)
    (on : s.flag F.TBL_CMDQ_CTL_EN q.val = true) (going : s.flag F.TBL_CMDQ_STATUS_STOPPED q.val = false) (idle : s.trun q.val = {})
    (free : s.freeTag s.mgmtLink 16384 0 = some tg) : ∃ t, exec (.tblCmdqDb q) s = .next t ∧
      t = { s with tblRun := t.tblRun, tags := t.tags, out := .hostRead .mf (s.cmdqAddr q.val) 32 false :: s.out } ∧
      t.trun q.val = { examining := true, waiting := true, addr := s.cmdqAddr q.val } := by
  obtain ⟨m, fetched⟩ := fetch_sends (s := s.setTrun q.val { examining := true, rung := true }) (live_setTrun live ..) held on going
    (trun_setTrun ..) (free_setTrun free _ _)
  rw [show (s.setTrun q.val { examining := true, rung := true }).cmdqAddr q.val = s.cmdqAddr q.val from rfl] at fetched
  have ran : s.cmdqRing q.val = (s.setTrun q.val { examining := true, rung := true }).cmdqFetch q.val := by
    unfold cmdqRing
    rw [on, idle, if_neg (by decide)]
  have done_ : exec (.tblCmdqDb q) s = .next _ := congrArg Host.Outcome.next (((s.onReg_open .TBL_CMDQ_DB q.val 0 _ open_).trans ran).trans fetched)
  refine ⟨_, done_, ?_, ?_⟩
  · rfl
  exact trun_setTrun (s.setTrun q.val { examining := true, rung := true }) q.val { examining := true, waiting := true, addr := s.cmdqAddr q.val }

theorem doorbell_disabled (open_ : s.regOpen .TBL_CMDQ_DB q.val = true) (off : s.flag F.TBL_CMDQ_CTL_EN q.val = false) :
    exec (.tblCmdqDb q) s = .next s :=
  congrArg Host.Outcome.next ((s.onReg_open .TBL_CMDQ_DB q.val 0 _ open_).trans (if_pos (by rw [off]; rfl)))

/-- The doorbell during a fetch or a command is remembered. -/
theorem doorbell_waits (open_ : s.regOpen .TBL_CMDQ_DB q.val = true) (on : s.flag F.TBL_CMDQ_CTL_EN q.val = true) (busy : (s.trun q.val).waiting = true) :
    ∃ t, exec (.tblCmdqDb q) s = .next t ∧ t = { s with tblRun := t.tblRun } ∧ t.trun q.val = { s.trun q.val with examining := true, rung := true } := by
  let u := s.setTrun q.val { s.trun q.val with examining := true, rung := true }
  have rung : u.trun q.val = { s.trun q.val with examining := true, rung := true } := trun_setTrun ..
  have waits : s.cmdqRing q.val = u := by
    unfold cmdqRing
    rw [on, if_neg (by decide)]
    show u.cmdqFetch q.val = _
    unfold cmdqFetch
    dsimp only
    rw [rung]
    exact if_pos (by simp [busy])
  exact ⟨u, congrArg Host.Outcome.next ((s.onReg_open .TBL_CMDQ_DB q.val 0 _ open_).trans waits), rfl, rung⟩

/-- The ring as EN rises, before its examination goes on. -/
def enabling (s : State) (p : Nat) : State :=
  let s := ((s.setFld F.TBL_CMDQ_CTL_EN p 1).epoch .cmdqEn .TBL_CMDQ_BASE p).epoch .cmdqEn .TBL_CMDQ_CTL p
  s.setFld F.TBL_CMDQ_STATUS_STOPPED p 0

theorem enabling_status (none_ : s.shadow = []) : (enabling s p).flag F.TBL_CMDQ_CTL_EN p = true ∧ (enabling s p).fld F.TBL_CMDQ_STATUS_STOPPED p = 0 ∧
    (enabling s p).fld F.TBL_CMDQ_STATUS_HEAD p = s.fld F.TBL_CMDQ_STATUS_HEAD p ∧
    ((enabling s p).linkUp (enabling s p).mgmtLink = s.linkUp s.mgmtLink) := by
  let u := s.setFld F.TBL_CMDQ_CTL_EN p 1
  have first := still_epoch (s := u) none_ .cmdqEn .TBL_CMDQ_BASE p
  have still := first.trans (still_epoch (first.shadow.trans none_) .cmdqEn .TBL_CMDQ_CTL p)
  have apart (f : Fld) (h : f.reg ≠ .TBL_CMDQ_STATUS) (i : Nat) : (enabling s p).fld f i = u.fld f i :=
    (Fields.fld_setFld_other _ h).trans (still.fld f i)
  have far (f : Fld) (h : f.reg ≠ .TBL_CMDQ_STATUS ∧ f.reg ≠ .TBL_CMDQ_CTL) (i : Nat) : (enabling s p).fld f i = s.fld f i :=
    (apart f h.1 i).trans (Fields.fld_setFld_other _ h.2)
  refine ⟨?_, Fields.fld_setFld_self _ (by decide), ?_, ?_⟩
  · have one : (enabling s p).fld F.TBL_CMDQ_CTL_EN p = 1 := (apart _ (by decide) p).trans (Fields.fld_setFld_self _ (by decide))
    exact congrArg (· != 0) one
  · exact (Fields.fld_setFld_apart _ (by decide)).trans ((still.fld _ p).trans (Fields.fld_setFld_other _ (by decide)))
  · have link : (enabling s p).mgmtLink = s.mgmtLink := far F.HEP_MGMT_LINK_LINK (by decide) 0
    rw [link]
    exact congrArg (· == 3) (far (F.HEP_LINK_STATE_STATE s.mgmtLink) ⟨by simp [F.HEP_LINK_STATE_STATE], by simp [F.HEP_LINK_STATE_STATE]⟩ 0)

theorem enable_starts (open_ : s.regOpen .TBL_CMDQ_CTL q.val = true) (none_ : s.shadow = []) (off : s.flag F.TBL_CMDQ_CTL_EN q.val = false)
    (going : s.flag F.TBL_CMDQ_STATUS_STOPPED q.val = false) :
    ∃ t, exec (.cmdqEnable q) s = .next t ∧ t.flag F.TBL_CMDQ_CTL_EN q.val = true ∧ t.fld F.TBL_CMDQ_STATUS_HEAD q.val = 0 := by
  obtain ⟨on, -, -, -⟩ := enabling_status (p := q.val) none_
  have ran : s.cmdqEnable q.val = ((enabling s q.val).setTrun q.val (renewed ((enabling s q.val).trun q.val) false)).setFld F.TBL_CMDQ_STATUS_HEAD q.val 0 := by
    unfold cmdqEnable
    dsimp only
    rw [off, going]
    rfl
  refine ⟨_, congrArg Host.Outcome.next ((s.onReg_open .TBL_CMDQ_CTL q.val _ _ open_).trans ran), ?_, Fields.fld_setFld_self _ (by decide)⟩
  rw [← on]
  exact congrArg (· != 0) (Fields.fld_setFld_other _ (by decide))

theorem enable_resumes (open_ : s.regOpen .TBL_CMDQ_CTL q.val = true) (none_ : s.shadow = []) (up : s.linkUp s.mgmtLink = true)
    (off : s.flag F.TBL_CMDQ_CTL_EN q.val = false) (stopped : s.flag F.TBL_CMDQ_STATUS_STOPPED q.val = true) :
    ∃ t, exec (.cmdqEnable q) s = .next t ∧ t.flag F.TBL_CMDQ_CTL_EN q.val = true ∧ t.fld F.TBL_CMDQ_STATUS_STOPPED q.val = 0 ∧
      t.fld F.TBL_CMDQ_STATUS_HEAD q.val = s.fld F.TBL_CMDQ_STATUS_HEAD q.val := by
  obtain ⟨on, clear, head, link⟩ := enabling_status (p := q.val) none_
  have ran : s.cmdqEnable q.val = ((enabling s q.val).setTrun q.val (renewed ((enabling s q.val).trun q.val) true)).cmdqFetch q.val := by
    unfold cmdqEnable
    dsimp only
    rw [off, stopped]
    rfl
  have kept (u : State) (x : TblRun) (link : u.linkUp u.mgmtLink = true) : ((u.setTrun q.val x).cmdqFetch q.val).regs = u.regs :=
    regs_fetch (s := u.setTrun q.val x) link
  refine ⟨_, congrArg Host.Outcome.next ((s.onReg_open .TBL_CMDQ_CTL q.val _ _ open_).trans ran), ?_, ?_, ?_⟩
  · rw [← on]
    exact congrArg (· != 0) (fld_congr (kept _ _ (link.trans up)) ..)
  · exact (fld_congr (kept _ _ (link.trans up)) ..).trans clear
  · exact (fld_congr (kept _ _ (link.trans up)) ..).trans head

end

/-! ### The commands of a FLOW table, from the ring -/

section
variable {q : Pier} {n : Nat} {r : TblRead}

/-- A command that leaves the tables alone. -/
theorem ends_same {a : TblAns} (h : AtHead s q.val d b n) (flow : FlowCmd s q.val (TblCmd.ofDesc d b r))
    (runs : s.tblRunCmd q.val ownerMf (TblCmd.ofDesc d b r) = a) (kept : a.after = s) (quiet : a.data = []) :
    Written s q.val (s.cmdqRow q.val n r) (backWord d a) ∧ (s.cmdqRow q.val n r).flows = s.flows ∧ (s.cmdqRow q.val n r).locks = s.locks := by
  obtain ⟨written, ⟨flows, locks, -⟩, -⟩ := command_ends h (flow.meets.trans runs) (by rw [kept]; exact tables_refl s) (.inl quiet)
  rw [kept] at flows locks
  exact ⟨written, flows, locks⟩

/-- A command that stores or removes entry `j`. -/
theorem ends_entry {a : TblAns} {t j : Nat} (h : AtHead s q.val d b n) (flow : FlowCmd s q.val (TblCmd.ofDesc d b r))
    (runs : s.tblRunCmd q.val ownerMf (TblCmd.ofDesc d b r) = a) (only : TablesOnly s a.after) (quiet : a.data = []) :
    Written s q.val (s.cmdqRow q.val n r) (backWord d a) ∧ (s.cmdqRow q.val n r).flowAt q.val t j = a.after.flowAt q.val t j ∧
      (s.cmdqRow q.val n r).locks = a.after.locks := by
  obtain ⟨written, ⟨flows, locks, -⟩, -⟩ := command_ends h (flow.meets.trans runs) only (.inl quiet)
  exact ⟨written, congrArg (fun m => SMap.get ({} : FlowEnt) m (tkey q.val t j)) flows, locks⟩

/-- A command that changes the lock of one entry. -/
theorem ends_lock {a : TblAns} {k : Nat} {o : BitVec 16} (h : AtHead s q.val d b n) (flow : FlowCmd s q.val (TblCmd.ofDesc d b r))
    (runs : s.tblRunCmd q.val ownerMf (TblCmd.ofDesc d b r) = a) (locked : a.after = s.setLock k o) (quiet : a.data = []) :
    Written s q.val (s.cmdqRow q.val n r) (backWord d a) ∧ (s.cmdqRow q.val n r).lockOf k = o ∧
      (∀ k', k' ≠ k → (s.cmdqRow q.val n r).lockOf k' = s.lockOf k') ∧ (s.cmdqRow q.val n r).flows = s.flows := by
  obtain ⟨written, ⟨flows, locks, -⟩, -⟩ := command_ends h (flow.meets.trans runs) (by rw [locked]; exact rfl) (.inl quiet)
  rw [locked] at flows locks
  refine ⟨written, ?_, fun k' other => ?_, flows⟩
  · exact (congrArg (fun m => SMap.get (0 : BitVec 16) m k) locks).trans (SMap.get_put_self 0 s.locks k o)
  · exact (congrArg (fun m => SMap.get (0 : BitVec 16) m k') locks).trans (SMap.get_put_ne 0 0 s.locks o other)

end

/-- Settles O47: a command at HEAD runs as the Management Function on the table it names, and its descriptor is written back. -/
theorem tableCommands : Obligations.TableCommands := by
  intro s p d b j tg tab i key host lock free live wrote op flow same only rs r
  have plain {n : Nat} {a : TblAns} {t : State} (h : op n) (other : n ≠ 3 ∧ n ≠ 5) (w : Written s p.val t (backWord d a)) : wrote t a.result none := by
    rw [backWord_plain h.2.2.2 other] at w
    exact w
  have indexed {n : Nat} {a : TblAns} {t : State} (h : op n) (own : n = 3 ∨ n = 5) (w : Written s p.val t (backWord d a)) :
      wrote t a.result (some a.index) := by
    rw [backWord_indexed h.2.2.2 own] at w
    exact w
  have cmd {e : TblRead} (f : flow) : FlowCmd s p.val (TblCmd.ofDesc d b e) := flowCmd_of f
  have valid {v : Bool} (f : flow) (h : (s.flowAt p.val tab i).valid = v) : s.entValid p.val tab i = v := (entValid_flow f.1).trans h
  refine ⟨fun l open_ held on going idle tag => doorbell_fetches (live_of l) open_ held on going idle tag, doorbell_disabled, doorbell_waits,
    enable_starts, enable_resumes, ?_, ?_, ?_, ?_, ?_, ?_, ?_, ?_, ?_, ?_, ?_, ?_, ?_, ?_, ?_, ?_, ?_⟩
  · intro h f one
    have bytes : s.readUnit p.val tab 1 i = flowBytes (s.flowAt p.val tab i) lock := rfl
    have runs := runs_read (c := TblCmd.ofDesc d b .ok) (who := ownerMf) (cmd f) h.2.2.2 (by simp [TblCmd.ofDesc, one]) rfl
    obtain ⟨written, ⟨flows, locks, -⟩, data⟩ := command_ends h ((cmd f).meets.trans runs) rfl (.inr rfl)
    have some_ : flowBytes (s.flowAt p.val tab i) lock ≠ [] := fun e => by
      have := flowBytes_length (s.flowAt p.val tab i) lock
      rw [e] at this
      cases this
    refine ⟨_, rfl, (plain h (by decide) written :), ⟨flows, locks⟩, data ⟨host, 64, flowBytes (s.flowAt p.val tab i) lock, false⟩ ?_ some_⟩
    have cut : s.writeCut .mf (descHost d) (flowBytes (s.flowAt p.val tab i) lock) = _ := writeCut_block (flowBytes_length ..) (Nat.mul_mod_left ..)
    exact (congrArg (⟨host, 64, flowBytes (s.flowAt p.val tab i) lock, false⟩ ∈ ·) cut).mpr (List.mem_singleton.2 rfl)
  · intro h f own
    obtain ⟨kept, stored, locks⟩ := flow_putEnt (s := s) (p := p.val) (t := tab) (j := i) f.1 b false
    have := ends_entry (t := tab) (j := i) (r := .ok) h (cmd f) (runs_write (cmd f) h.2.2.2 own) kept rfl
    exact ⟨_, rfl, (plain h (by decide) this.1 :), this.2.1.trans stored, this.2.2.trans locks⟩
  · intro h f shut
    have := ends_same (r := .ok) h (cmd f) (runs_locked (cmd f) (.inl h.2.2.2) shut) rfl rfl
    exact ⟨_, rfl, (plain h (by decide) this.1 :), this.2⟩
  · intro h f place open_
    obtain ⟨kept, stored, locks⟩ := flow_putEnt (s := s) (p := p.val) (t := tab) (j := j) f.1 b true
    have := ends_entry (t := tab) (j := j) (r := .ok) h (cmd f) (runs_insert (cmd f) h.2.2.2 rfl place open_) kept rfl
    exact ⟨_, rfl, (indexed h (.inl rfl) this.1 :), this.2.1.trans stored, this.2.2.trans locks⟩
  · intro h f full
    have := ends_same (r := .ok) h (cmd f) (runs_insert_full (cmd f) h.2.2.2 rfl full) rfl rfl
    exact ⟨_, rfl, (indexed h (.inl rfl) this.1 :), this.2⟩
  · intro h f
    have := ends_same (r := .poisoned) h (cmd f) (runs_insert_poisoned (cmd f) h.2.2.2 rfl) rfl rfl
    exact ⟨_, rfl, (indexed h (.inl rfl) this.1 :), this.2⟩
  · intro h f own present
    obtain ⟨kept, gone, locks⟩ := flow_dropEnt (s := s) (p := p.val) (t := tab) (j := i) f.1
    have := ends_entry (t := tab) (j := i) (r := .ok) h (cmd f) (runs_delete (cmd f) h.2.2.2 rfl own (valid f present)) kept rfl
    exact ⟨_, rfl, (plain h (by decide) this.1 :), (congrArg FlowEnt.valid this.2.1).trans gone, this.2.2.trans locks⟩
  · intro h f own absent
    have := ends_same (r := .ok) h (cmd f) (runs_delete_missing (cmd f) h.2.2.2 rfl own (valid f absent)) rfl rfl
    exact ⟨_, rfl, (plain h (by decide) this.1 :), this.2⟩
  · intro h f found within
    have := ends_same (r := .ok) h (cmd f) (runs_lookup (cmd f) h.2.2.2 rfl found within) rfl rfl
    exact ⟨_, rfl, (indexed h (.inr rfl) this.1 :), this.2⟩
  · intro h f absent
    have := ends_same (r := .ok) h (cmd f) (runs_lookup_missing (cmd f) h.2.2.2 rfl absent) rfl rfl
    exact ⟨_, rfl, (indexed h (.inr rfl) this.1 :), this.2⟩
  · intro h f own present
    have := ends_lock (k := key) (r := .ok) h (cmd f) (runs_lock (cmd f) h.2.2.2 rfl own (valid f present)) rfl rfl
    exact ⟨_, rfl, (plain h (by decide) this.1 :), this.2⟩
  · intro h f shut present
    have := ends_same (r := .ok) h (cmd f) (runs_locked (cmd f) (.inr ⟨h.2.2.2, valid f present, rfl⟩) shut) rfl rfl
    exact ⟨_, rfl, (plain h (by decide) this.1 :), this.2⟩
  · intro h f mine
    have := ends_lock (k := key) (r := .ok) h (cmd f) (runs_unlock (cmd f) h.2.2.2 rfl mine (by decide)) rfl rfl
    exact ⟨_, rfl, (plain h (by decide) this.1 :), this.2⟩
  · intro h f open_
    have := ends_same (r := .ok) h (cmd f) (runs_unlock_free (cmd f) h.2.2.2 rfl open_) rfl rfl
    exact ⟨_, rfl, (plain h (by decide) this.1 :), this.2⟩
  · intro h kind inside fresh room
    have runs := runs_routeAdd (c := TblCmd.ofDesc d b .ok) (who := ownerMf) kind inside h.2.2.2 fresh room
    obtain ⟨kept, stored⟩ := routed_keeps (s := s) (p := p.val) tab (rs ++ [r])
    obtain ⟨written, ⟨-, -, routes⟩, -⟩ := command_ends h ((meets_routes kind).trans runs) kept (.inl rfl)
    exact ⟨_, rfl, (plain h (by decide) written :), (congrArg (fun m => SMap.get [] m (tabKey p.val tab)) routes).trans stored⟩
  · intro rest h kind inside first
    have runs := runs_routeDel (c := TblCmd.ofDesc d b .ok) (who := ownerMf) kind inside h.2.2.2 first
    obtain ⟨kept, stored⟩ := routed_keeps (s := s) (p := p.val) tab rest
    obtain ⟨written, ⟨-, -, routes⟩, -⟩ := command_ends h ((meets_routes kind).trans runs) kept (.inl rfl)
    exact ⟨_, rfl, (plain h (by decide) written :), (congrArg (fun m => SMap.get [] m (tabKey p.val tab)) routes).trans stored⟩
  · intro h kind inside none_
    have runs := runs_routeDel_missing (c := TblCmd.ofDesc d b .ok) (who := ownerMf) kind inside h.2.2.2 none_
    obtain ⟨written, ⟨-, -, routes⟩, -⟩ := command_ends h ((meets_routes kind).trans runs) rfl (.inl rfl)
    exact ⟨_, rfl, (plain h (by decide) written :), routes⟩

end Sys2Proof.Machine.TableRing
end

section
/-!
PROOFS. The load of an image (R60–R62) leaves the image slots, the configuration command's SEQ and the accesses that wait as they are.
-/

namespace Sys2Proof.Machine.ImageLoads
open State

/-- The image slots, the SEQ of the configuration command and the waiting accesses are the same. -/
def Kept (s t : State) : Prop := t.slots = s.slots ∧ t.cfgSeq = s.cfgSeq ∧ t.ring = s.ring

theorem kept_refl (s : State) : Kept s s := ⟨rfl, rfl, rfl⟩

theorem Kept.trans {s t u : State} (first : Kept s t) (then_ : Kept t u) : Kept s u := by
  obtain ⟨slots, seq, ring⟩ := first
  obtain ⟨slots', seq', ring'⟩ := then_
  exact ⟨slots'.trans slots, seq'.trans seq, ring'.trans ring⟩

/-- A last step keeps them too. -/
theorem Kept.after {s t u : State} (last : Kept t u) (first : Kept s t) : Kept s u := first.trans last

variable {s : State}

theorem kept_fold {A : Type} {f : State → A → State} {l : List A} {t : State} (start : Kept s t) (step : ∀ u a, Kept u (f u a)) : Kept s (l.foldl f t) := by
  induction l generalizing t with
  | nil => exact start
  | cons a l ih => exact ih (start.trans (step t a))

theorem kept_ite {t u : State} {c : Prop} [Decidable c] (h : Kept s t) (h' : Kept s u) : Kept s (if c then t else u) := by
  split
  · exact h
  · exact h'

theorem kept_signals {t : State} (h : Signals.SignalsOnly s t) : Kept s t := ⟨(congrArg State.slots h :), (congrArg State.cfgSeq h :), (congrArg State.ring h :)⟩

theorem kept_setThr (n : Nat) (x : Thread) : Kept s (s.setThr n x) :=
  ⟨(congrArg State.slots (setThr_frame s n x) :), (congrArg State.cfgSeq (setThr_frame s n x) :), (congrArg State.ring (setThr_frame s n x) :)⟩

/-! ### Registers of the image -/

theorem kept_clearBlocks (f : Nat → Bool) : Kept s (s.clearBlocks f) := by
  unfold clearBlocks
  dsimp only
  exact kept_fold ⟨rfl, rfl, rfl⟩ fun u a => ⟨rfl, rfl, rfl⟩

theorem kept_setFld (f : Fld) (i v : Nat) : Kept s (s.setFld f i v) := ⟨rfl, rfl, rfl⟩

theorem kept_setParam (f : Fld) (i v : Nat) : Kept s (s.setParam f i v) := by
  unfold setParam spCut
  split <;> exact ⟨rfl, rfl, rfl⟩

theorem kept_setParamO (f : Fld) (i : Nat) (v : Option Nat) : Kept s (s.setParamO f i v) := by
  cases v with
  | none => exact kept_refl s
  | some v => exact kept_setParam f i v

theorem kept_loadInfo (i : Image) (p : Nat) : Kept s (s.loadInfo i p) := by
  unfold loadInfo
  dsimp only
  exact kept_fold (kept_fold ⟨rfl, rfl, rfl⟩ fun u t => ⟨rfl, rfl, rfl⟩) fun u n => ⟨rfl, rfl, rfl⟩

theorem kept_loadDist (i : Image) : Kept s (s.loadDist i) := by
  unfold loadDist
  dsimp only
  exact kept_fold ⟨rfl, rfl, rfl⟩ fun u p => ⟨rfl, rfl, rfl⟩

theorem kept_loadServo (i : Image) : Kept s (s.loadServo i) := by
  have cleared (l : List Nat) : Kept s (l.foldl (fun u t => (u.setFld F.TRS_INFO_SERVO_HERE t 0).setFld F.TRS_INFO_SERVO_LOCAL t 0) (s.setReg .TIM_SERVO 0 0)) :=
    kept_fold ⟨rfl, rfl, rfl⟩ fun u t => ⟨rfl, rfl, rfl⟩
  unfold loadServo
  dsimp only
  split
  · exact cleared _
  · exact .after (kept_setFld ..) (.after (kept_setFld ..) (.after (kept_setFld ..) (.after (kept_setFld ..) (cleared _))))

theorem kept_loadParams (i : Image) (take : Reg → Nat → Bool) : Kept s (s.loadParams i take) := by
  unfold loadParams
  refine kept_fold (kept_refl s) fun u p => ?_
  dsimp only
  exact kept_ite ⟨rfl, rfl, rfl⟩ (kept_ite (kept_refl u) (kept_setParam ..))

/-! ### Links, Spans and queues -/

theorem kept_applyFace (h : Nat) : Kept s (s.applyFace h) := by
  unfold applyFace
  dsimp only
  exact kept_ite (kept_fold (kept_fold ⟨rfl, rfl, rfl⟩ fun u n => ⟨rfl, rfl, rfl⟩) fun u n => ⟨rfl, rfl, rfl⟩) (kept_refl s)

theorem kept_loadFace (i : Image) (boot : Bool) (h : Nat) : Kept s (s.loadFace i boot h) := by
  unfold loadFace
  dsimp only
  exact kept_ite ⟨rfl, rfl, rfl⟩ (kept_ite (Kept.trans ⟨rfl, rfl, rfl⟩ (kept_applyFace h)) ⟨rfl, rfl, rfl⟩)

theorem kept_loadSpan (n : Nat) (x : SpanImg) : Kept s (s.loadSpan n x) := by
  unfold loadSpan
  dsimp only
  exact kept_fold ⟨rfl, rfl, rfl⟩ fun u e => ⟨rfl, rfl, rfl⟩

theorem kept_legalEq (q : Nat) : Kept s (s.legalEq q) := by
  unfold legalEq
  split <;> exact ⟨rfl, rfl, rfl⟩

theorem kept_loadSpans (i : Image) : Kept s (s.loadSpans i) := by
  unfold loadSpans
  dsimp only
  exact kept_fold (kept_fold ⟨rfl, rfl, rfl⟩ fun u e => kept_loadSpan ..) fun u e => kept_legalEq _

/-! ### Tables, rules and the scheduler -/

theorem kept_loadTable (i : Image) (p t : Nat) : Kept s (s.loadTable i p t) := by
  unfold loadTable
  dsimp only
  refine kept_fold ⟨rfl, rfl, rfl⟩ fun u e => kept_fold (kept_refl u) fun u x => ?_
  cases x <;> exact ⟨rfl, rfl, rfl⟩

theorem kept_loadRules (i : Image) (p : Nat) : Kept s (s.loadRules i p) := by
  unfold loadRules
  dsimp only
  exact kept_fold ⟨rfl, rfl, rfl⟩ fun u e => ⟨rfl, rfl, rfl⟩

theorem kept_loadNode (p : Nat) (n : TreeNode) : Kept s (s.loadNode p n) := by
  have settings {u : State} (k : Nat) (start : Kept s u) : Kept s (((((((u.setParamO F.TMS_NODE_QUANTUM_QUANTUM k n.quantum).setParamO F.TMS_NODE_PIR_RATE k n.pir).setParamO
      F.TMS_NODE_CIR_RATE k n.cir)).setParamO F.TMS_NODE_CBS_SIZE k n.cbs).setParamO F.TMS_NODE_PBS_SIZE k n.pbs).setParamO F.TMS_NODE_OVERHEAD_BYTES k n.overhead) :=
    .after (kept_setParamO ..) (.after (kept_setParamO ..) (.after (kept_setParamO ..) (.after (kept_setParamO ..) (.after (kept_setParamO ..)
      (.after (kept_setParamO ..) start)))))
  unfold loadNode
  dsimp only
  refine .after (kept_setParamO ..) ?_
  split
  · exact .after (kept_setParam ..) (.after (kept_setParam ..) (settings _ ⟨rfl, rfl, rfl⟩))
  · exact settings _ ⟨rfl, rfl, rfl⟩

theorem kept_keepPols (before : State) (l : List Nat) : Kept s (l.foldl (fun u k => u.keepPol before k) s) :=
  kept_fold (kept_refl s) fun _ _ => ⟨rfl, rfl, rfl⟩

theorem kept_nodes {u : State} (n : SMap TmsNode) (p : SMap Nat) (h : Kept s u) : Kept s { u with nodes := n, ptrs := p } := h

theorem kept_loadTree (before : State) (old : Option Image) (i : Image) (p : Nat) : Kept s (s.loadTree before old i p) := by
  unfold loadTree
  dsimp only
  split
  · refine kept_fold (kept_fold (kept_nodes _ _ (kept_fold ⟨rfl, rfl, rfl⟩ fun u m => ⟨rfl, rfl, rfl⟩)) fun u n => .after ⟨rfl, rfl, rfl⟩ (kept_loadNode p n)) fun u y => ?_
    exact .after (kept_setParamO ..) (.after (kept_setParamO ..) (.after (kept_setParamO ..) (.after (kept_setParamO ..) ⟨rfl, rfl, rfl⟩)))
  · refine .after (kept_keepPols ..) ?_
    refine kept_fold (kept_fold (kept_nodes _ _ (kept_fold ⟨rfl, rfl, rfl⟩ fun u m => ⟨rfl, rfl, rfl⟩)) fun u n => .after ⟨rfl, rfl, rfl⟩ (kept_loadNode p n)) fun u y => ?_
    exact .after (kept_setParamO ..) (.after (kept_setParamO ..) (.after (kept_setParamO ..) (.after (kept_setParamO ..) ⟨rfl, rfl, rfl⟩)))

/-! ### Buffers (R60) -/

theorem kept_addUse (a n : Nat) : Kept s (s.addUse a n) := by
  unfold addUse
  dsimp only
  split <;> exact ⟨rfl, rfl, rfl⟩

theorem kept_poolWatch (p : Nat) : Kept s (s.poolWatch p) := by
  unfold poolWatch
  dsimp only
  split
  · exact .after (kept_signals (Signals.signals_setEvt ..)) ⟨rfl, rfl, rfl⟩
  · split <;> exact ⟨rfl, rfl, rfl⟩

theorem kept_bufCache {u : State} (c : SMap (List Nat)) (h : Kept s u) : Kept s { u with bufCache := c } := h

theorem kept_loadPools (i : Image) : Kept s (s.loadPools i) := by
  have pool (u : State) (e : PoolImg × Nat) : Kept u (((e.1.limits.foldl (fun v l => (v.setParam F.BPM_ACCT_LIMIT_MAX l.1 l.2.2).setParam F.BPM_ACCT_LIMIT_MIN l.1 l.2.1)
      ((List.range e.1.acctCount).foldl (fun v a => v.setFld F.BPM_ACCT_LIMIT_MAX (e.1.acctBase + a) e.1.count)
        ((((u.setFld F.BPM_POOL_RANGE_BASE e.2 e.1.base).setFld F.BPM_POOL_RANGE_COUNT e.2 e.1.count).setFld F.BPM_POOL_ACCTS_ACCT_BASE e.2 e.1.acctBase).setFld
          F.BPM_POOL_ACCTS_ACCT_COUNT e.2 e.1.acctCount))).setParamO F.BPM_POOL_WM_XOFF e.2 e.1.xoff).setParamO F.BPM_POOL_WM_XON e.2 e.1.xon) :=
    .after (kept_setParamO ..) (.after (kept_setParamO ..) (kept_fold (kept_fold ⟨rfl, rfl, rfl⟩ fun v a => ⟨rfl, rfl, rfl⟩)
      fun v l => .after (kept_setParam ..) (kept_setParam ..)))
  unfold loadPools
  dsimp only
  refine kept_fold (kept_fold (kept_bufCache _ (kept_fold ⟨rfl, rfl, rfl⟩ pool)) fun u e => ?_) fun u p => kept_poolWatch p
  split
  · exact kept_refl u
  · exact .after (kept_addUse ..) ⟨rfl, rfl, rfl⟩

/-! ### Trusses and Rails (R60) -/

theorem kept_joinNone (n : Nat) : Kept s (s.joinNone n) := by
  unfold joinNone setGreg
  dsimp only
  split
  · split
    · split
      · exact kept_setThr ..
      · exact .after (kept_setThr ..) (kept_setThr ..)
    · exact kept_refl s
  · exact kept_refl s

theorem kept_orphan (n : Nat) : Kept s (s.orphan n) := by
  unfold orphan
  dsimp only
  exact kept_ite (kept_setThr ..) (kept_setThr ..)

theorem kept_vacate (n : Nat) : Kept s (s.vacate n) := by
  unfold vacate
  dsimp only
  exact kept_fold ⟨rfl, rfl, rfl⟩ fun v m => kept_orphan m

theorem kept_toPool (n : Nat) : Kept s (s.toPool n) := .after (kept_setThr ..) (.after (kept_vacate n) (kept_joinNone n))

theorem kept_abandonEntries (n : Nat) : Kept s (s.abandonEntries n) := by
  unfold abandonEntries
  dsimp only
  refine kept_fold ⟨rfl, rfl, rfl⟩ fun u h => ?_
  unfold noteDue
  split <;> exact ⟨rfl, rfl, rfl⟩

theorem kept_rldStore (a : Nat) (bs : List Byte) (bad : Bool) : Kept s (s.rldStore a bs bad) := by
  have written : Kept s (s.rldWrite a bs) := by
    induction bs generalizing s a with
    | nil => exact kept_refl s
    | cons b t ih => exact Kept.trans ⟨rfl, rfl, rfl⟩ (ih (s := { s with rld := SMap.put 0 s.rld a b }) (a + 1))
  unfold rldStore
  dsimp only
  refine kept_fold written fun u i => ?_
  split
  · split <;> exact ⟨rfl, rfl, rfl⟩
  · split <;> exact ⟨rfl, rfl, rfl⟩

theorem kept_loadTrussInfo (i : Image) (t : Nat) : Kept s (s.loadTrussInfo i t) := by
  unfold loadTrussInfo
  dsimp only
  split <;> exact ⟨rfl, rfl, rfl⟩

theorem kept_startSup (t : Nat) : Kept s (s.startSup t) := by
  unfold startSup
  exact kept_ite (kept_setThr ..) (kept_refl s)

theorem kept_code {u : State} (c : SMap (BitVec 32)) (l : SMap Nat) (h : Kept s u) : Kept s { u with code := c, codeLen := l } := h

theorem kept_loadTruss (i : Image) (t : Nat) : Kept s (s.loadTruss i t) := by
  unfold loadTruss
  dsimp only
  refine .after (kept_startSup t) (.after (kept_loadTrussInfo i t) (kept_fold ?_ fun u e => kept_rldStore ..))
  exact kept_code _ _ (kept_fold (kept_refl s) fun u n => .after (kept_toPool n) (kept_abandonEntries n))

theorem kept_rails {u : State} (r : SMap Rail) (h : Kept s u) : Kept s { u with rails := r } := h

theorem kept_loadRails (i : Image) (p : Nat) (restart : Bool) : Kept s (s.loadRails i p restart) := by
  unfold loadRails
  dsimp only
  have held : Kept s ((s.rails.filter fun e => e.1 / 256 == p && e.2.owner.isSome).foldl (fun u e => match e.2.owner with
      | some n => u.setThr n { u.thr n with rail := none, partMsg := [] } | none => u) s) := by
    refine kept_fold (kept_refl s) fun u e => ?_
    split
    · exact kept_setThr ..
    · exact kept_refl u
  exact kept_rails _ (kept_fold (kept_rails _ (kept_ite (kept_rails _ held) (kept_refl s))) fun u e => ⟨rfl, rfl, rfl⟩)

theorem kept_fcClear (p : Nat) : Kept s (s.fcClear p) := ⟨rfl, rfl, rfl⟩

theorem kept_zeroDeficits : Kept s s.zeroDeficits := ⟨rfl, rfl, rfl⟩

/-- The places of the engine and hold regions are the new image's. -/
theorem kept_regions {u : State} (a b c : Nat) (h : Kept s u) : Kept s { u with dbase := a, dsize := b, holdBase := c } := h

theorem kept_counters {u : State} {c : Prop} [Decidable c] (m : SMap Word) (h : Kept s u) : Kept s (if c then { u with counters := m } else u) :=
  kept_ite h h

theorem kept_loadImage (old : Option Image) (i : Image) (boot all : Bool) : Kept s (s.loadImage old i boot all) := by
  unfold loadImage
  dsimp only
  refine .after (kept_loadParams ..) (.after (kept_loadDist ..) (.after (kept_loadServo ..) (kept_fold (kept_fold (kept_fold (kept_fold ?_
    fun u p => kept_fcClear p) fun u t => kept_loadTruss i t) fun u t => kept_loadTrussInfo i t) fun u p => kept_loadRails ..)))
  have settled (u : State) (h : Kept s u) (c : Bool) : Kept s (if c = true then u.loadPools i else u) := kept_ite (.after (kept_loadPools i) h) h
  refine settled _ (.after kept_zeroDeficits (kept_fold (kept_fold (kept_fold (kept_fold (kept_fold (.after (kept_loadSpans i) (kept_counters _
    (kept_regions _ _ _ (kept_clearBlocks _)))) fun u h => kept_loadFace ..) fun u p => kept_loadInfo ..) fun u t => kept_loadTable ..) fun u p => ?_) fun u p => ?_)) _
  · exact kept_ite (kept_refl u) (kept_loadRules ..)
  · exact kept_ite (kept_loadTree ..) (kept_refl u)

end Sys2Proof.Machine.ImageLoads
end

section
/-!
PROOFS. The image commands (R43–R60): staging, the checks of a commit, drain, swap and rollback.
-/

namespace Sys2Proof.Machine.ImageOps
open State ImageLoads

variable (s : State)

/-! ### How a command ends (R45, R49, R58) -/

/-- The command's status as its end leaves it. -/
def stamped (q : Seq) (code st : Nat) : State :=
  (s.endCmd F.CFG_STATUS_LAST_RESULT F.CFG_STATUS_LAST_SEQ 0 code q).setFld F.CFG_STATUS_STATE 0 st

/-- The status of the command that ended, and the state of the unit. -/
def EndedAt (t : State) (st code : Nat) (q : Seq) : Prop :=
  t.cfgState = st ∧ t.Ended F.CFG_STATUS_LAST_RESULT F.CFG_STATUS_LAST_SEQ 0 code q

theorem EndedAt.congr {t u : State} {st code : Nat} {q : Seq} (h : EndedAt t st code q) (kept : u.reg .CFG_STATUS 0 = t.reg .CFG_STATUS 0) :
    EndedAt u st code q := by
  obtain ⟨state, result, seq⟩ := h
  have read (f : Fld) (here : f.reg = .CFG_STATUS) : u.fld f 0 = t.fld f 0 := by
    unfold fld
    rw [here, kept]
  exact ⟨(read _ rfl).trans state, (read _ rfl).trans result, (read _ rfl).trans seq⟩

theorem endedAt_stamped (q : Seq) {code st : Nat} (small : code < 256) (known : st < 8) : EndedAt (stamped s q code st) st code q := by
  have seq : q.toNat % 2 ^ 16 = q.toNat := Nat.mod_eq_of_lt q.isLt
  refine ⟨(Fields.fld_setFld_self _ (by decide)).trans (Nat.mod_eq_of_lt known), ?_, ?_⟩
  · refine (Fields.fld_setFld_apart _ (by decide)).trans ((Fields.fld_setFld_apart _ (by decide)).trans ?_)
    exact (Fields.fld_setFld_self _ (by decide)).trans (Nat.mod_eq_of_lt small)
  · exact (Fields.fld_setFld_apart _ (by decide)).trans ((Fields.fld_setFld_self _ (by decide)).trans seq)

theorem reg_enterSafe (cause : Nat) {r : Reg} (i : Nat) (other : r ≠ .FCU_SAFE_STATUS) : (s.enterSafe cause).reg r i = s.reg r i := by
  unfold enterSafe
  dsimp only
  split
  · exact (Fields.reg_endCmd_other _ ⟨other, other⟩).trans ((Fields.reg_setFld_other _ other).trans (Fields.reg_setFld_other _ other))
  · exact (Fields.reg_setFld_other _ other).trans (Fields.reg_setFld_other _ other)

theorem signals_enterSafe (cause : Nat) : Signals.SignalsOnly s (s.enterSafe cause) := by
  unfold enterSafe
  dsimp only
  split <;> rfl

theorem reg_mfVector (v : Nat) {r : Reg} (i : Nat) (other : r ≠ .HEP_DROP_CNT) : (s.mfVector v).reg r i = s.reg r i :=
  Frames.but_mfVector s v r i (by simp [other])

theorem status_cfgEnd (q : Seq) (code st : Nat) : (s.cfgEnd q code st).reg .CFG_STATUS 0 = (stamped s q code st).reg .CFG_STATUS 0 := by
  unfold cfgEnd
  dsimp only
  have told (v : Nat) : ((stamped s q code st).mfVector v).reg .CFG_STATUS 0 = (stamped s q code st).reg .CFG_STATUS 0 := reg_mfVector _ v 0 (by decide)
  split
  · exact (reg_enterSafe _ 1 0 (by decide)).trans (told _)
  · exact told _

theorem signals_cfgEnd (q : Seq) (code st : Nat) : Signals.SignalsOnly s (s.cfgEnd q code st) := by
  unfold cfgEnd
  dsimp only
  have told (v : Nat) : Signals.SignalsOnly s ((stamped s q code st).mfVector v) :=
    Signals.SignalsOnly.trans (t := stamped s q code st) rfl (Signals.signals_mfVector ..)
  split
  · exact (told _).trans (signals_enterSafe _ 1)
  · exact told _

theorem endedAt_cfgEnd (q : Seq) {code st : Nat} (small : code < 256) (known : st < 8) : EndedAt (s.cfgEnd q code st) st code q :=
  (endedAt_stamped s q small known).congr (status_cfgEnd s q code st)

theorem signals_cfgFault (q : Seq) (code more : Nat) : Signals.SignalsOnly s (s.cfgFault q code more) := by
  unfold cfgFault
  split
  · exact Signals.signals_raise ..
  · rfl

theorem kept_cfgDone (code st more : Nat) : Kept s (s.cfgDone code st more) :=
  .after (kept_signals (signals_cfgEnd ..)) (kept_signals (signals_cfgFault ..))

theorem endedAt_cfgDone {code st : Nat} (more : Nat) (small : code < 256) (known : st < 8) : EndedAt (s.cfgDone code st more) st code s.cfgSeq :=
  endedAt_cfgEnd _ _ small known

/-! ### Refused commands -/

theorem only_cfgRefuse (q : Seq) (code : Nat) : s.OnlySignals (s.cfgRefuse q code) :=
  Frames.signals_trans (Frames.only_endCmd s ..) (Frames.only_mfVector ..)

theorem endedAt_cfgRefuse (q : Seq) {code : Nat} (small : code < 256) : EndedAt (s.cfgRefuse q code) s.cfgState code q := by
  have at_ : EndedAt (s.endCmd F.CFG_STATUS_LAST_RESULT F.CFG_STATUS_LAST_SEQ 0 code q) s.cfgState code q := by
    refine ⟨Fields.fld_endCmd_apart _ (by decide) (by decide), ?_, ?_⟩
    · exact (Fields.fld_setFld_apart _ (by decide)).trans ((Fields.fld_setFld_self _ (by decide)).trans (Nat.mod_eq_of_lt small))
    · exact (Fields.fld_setFld_self _ (by decide)).trans (Nat.mod_eq_of_lt q.isLt)
  exact at_.congr (reg_mfVector _ _ 0 (by decide))

/-- A command that comes at another time is refused with BUSY. -/
theorem refused {c : Instr} {q : Seq} (runs : exec c s = .next (s.cfgRefuse q 1)) : ∃ t, exec c s = .next t ∧ s.OnlySignals t ∧
    t.Ended F.CFG_STATUS_LAST_RESULT F.CFG_STATUS_LAST_SEQ 0 1 q ∧ t.cfgState = s.cfgState := by
  obtain ⟨state, ended⟩ := endedAt_cfgRefuse s q (code := 1) (by decide)
  exact ⟨_, runs, only_cfgRefuse s q 1, ended, state⟩

theorem busy_refuses {x : Fin 4} {q : Seq} (busy : s.cfgState ≠ 0) : ∀ c ∈ [Instr.stageFlash x q, .stageHost q, .discard q, .commit q],
    exec c s = .next (s.cfgRefuse q 1) := by
  simp only [List.forall_mem_cons, List.not_mem_nil, false_implies, implies_true, and_true]
  exact ⟨congrArg _ (if_pos (.inl busy)), congrArg _ (if_pos busy), congrArg _ (if_pos busy), congrArg _ (if_pos (.inl busy))⟩

theorem rollback_busy {q : Seq} (busy : s.cfgState ≠ 0) (sound : s.cfgState ≠ 5) : exec (.rollback q) s = .next (s.cfgRefuse q 1) :=
  congrArg _ ((if_neg fun h => sound h.1).trans ((if_neg sound).trans (if_pos (.inl busy))))

/-! ### Staging (R49, R50) -/

/-- The image is being read: STATE, SEQ, the slots and CFG_STAGED_VER as STAGE leaves them. -/
def Staging (t : State) (r : Bool × Nat × Nat) (q : Seq) : Prop :=
  t.cfgState = 1 ∧ t.cfgSeq = q ∧ t.slots = { s.slots with staged := none, reading := some r, bad := false } ∧ t.reg .CFG_STAGED_VER 0 = 0

theorem Staging.congr {s t u : State} {r : Bool × Nat × Nat} {q : Seq} (h : Staging s t r q) (kept : Kept t u) (regs : u.regs = t.regs) : Staging s u r q := by
  obtain ⟨state, seq, slots, shown⟩ := h
  obtain ⟨slots', seq', _⟩ := kept
  exact ⟨(fld_congr regs ..).trans state, seq'.trans seq, slots'.trans slots, (reg_congr regs ..).trans shown⟩

theorem status_showSlots {f : Fld} (here : f.reg = .CFG_STATUS) : s.showSlots.fld f 0 = s.fld f 0 := by
  unfold showSlots
  dsimp only
  rw [Fields.fld_setReg_other _ (by rw [here]; decide), Fields.fld_setReg_other _ (by rw [here]; decide), Fields.fld_setReg_other _ (by rw [here]; decide)]

theorem staged_showSlots (none_ : s.slots.staged = none) : s.showSlots.reg .CFG_STAGED_VER 0 = 0 := by
  unfold showSlots
  dsimp only
  rw [reg_setReg, none_]

theorem staging_startStaging (host : Bool) (a n : Nat) (q : Seq) : Staging s (s.startStaging host a n q) (host, a, n) q := by
  refine ⟨?_, rfl, rfl, staged_showSlots _ rfl⟩
  exact (status_showSlots _ rfl).trans (Fields.fld_setFld_self s (by decide))

theorem stageFlash_starts {x : Fin 4} {q : Seq} (idle : s.cfgState = 0) (quiet : s.flashBusy.contains (1 + x.val) = false) :
    exec (.stageFlash x q) s = .next (s.startStaging false x.val 0x2000000 q) :=
  congrArg _ (if_neg (by rw [idle, quiet]; decide))

/-- The values of STAGE_HOST's registers take effect; with none waiting, nothing changes. -/
def hostTaken : State := (s.epoch .stageHost .CFG_STAGE_ADDR 0).epoch .stageHost .CFG_STAGE_LEN 0

theorem still_hostTaken (none_ : s.shadow = []) : Epochs.Still s (hostTaken s) :=
  (Epochs.still_epoch none_ ..).trans (Epochs.still_epoch ((Epochs.still_epoch none_ ..).shadow.trans none_) ..)

/-- The state in which STAGE_HOST begins to read. -/
def hostStarted (q : Seq) : State :=
  (hostTaken s).startStaging true ((hostTaken s).fld F.CFG_STAGE_ADDR_ADDR 0 * 4096) ((hostTaken s).fld F.CFG_STAGE_LEN_LEN 0) q

theorem staging_hostStarted (none_ : s.shadow = []) (q : Seq) :
    Staging s (hostStarted s q) (true, s.fld F.CFG_STAGE_ADDR_ADDR 0 * 4096, s.fld F.CFG_STAGE_LEN_LEN 0) q := by
  have still := still_hostTaken s none_
  have started := staging_startStaging (hostTaken s) true ((hostTaken s).fld F.CFG_STAGE_ADDR_ADDR 0 * 4096) ((hostTaken s).fld F.CFG_STAGE_LEN_LEN 0) q
  have same : (hostTaken s).slots = s.slots := (congrArg State.slots still.frame :)
  rw [still.fld, still.fld, Staging, same] at started
  obtain ⟨state, seq, slots, shown⟩ := started
  unfold hostStarted
  rw [still.fld, still.fld]
  exact ⟨state, seq, slots, shown⟩

theorem fld_hostStarted (none_ : s.shadow = []) (q : Seq) {f : Fld} (i : Nat) (apart : f.reg ∉ [.CFG_STATUS, .CFG_ACTIVE_VER, .CFG_PREV_VER, .CFG_STAGED_VER]) :
    (hostStarted s q).fld f i = s.fld f i := by
  simp only [List.mem_cons, List.not_mem_nil, or_false, not_or] at apart
  obtain ⟨status, active, previous, staged⟩ := apart
  unfold hostStarted startStaging showSlots
  dsimp only
  rw [Fields.fld_setReg_other _ staged, Fields.fld_setReg_other _ previous, Fields.fld_setReg_other _ active]
  exact (Fields.fld_setFld_other (hostTaken s) (f := F.CFG_STATUS_STATE) status).trans ((still_hostTaken s none_).fld f i)

theorem stageHost_safe {q : Seq} (idle : s.cfgState = 0) (none_ : s.shadow = []) (safe : s.isSafe = true) :
    ∃ t, exec (.stageHost q) s = .next t ∧ EndedAt t 0 0x10 q := by
  have safe' : (hostStarted s q).isSafe = true := (congrArg (· == 2) (fld_hostStarted s none_ q (f := F.FCU_SAFE_STATUS_STATE) 0 (by decide))).trans safe
  have runs : exec (.stageHost q) s = .next (((hostStarted s q).setSlots { (hostStarted s q).slots with reading := none }).cfgDone 0x10) :=
    congrArg _ ((if_neg (not_not_intro idle)).trans (if_pos safe'))
  exact ⟨_, runs, endedAt_cfgDone ((hostStarted s q).setSlots { (hostStarted s q).slots with reading := none }) 0 (by decide) (by decide)⟩

/-- The reads of an image in host memory. -/
def hostJob (q : Seq) : Job where
  fn := .mf
  span := none
  dep := .stage
  write := false
  parts := (hostStarted s q).readCut .mf ((hostStarted s q).fld F.CFG_STAGE_ADDR_ADDR 0 * 4096) ((hostStarted s q).fld F.CFG_STAGE_LEN_LEN 0)

theorem stageHost_reads {q : Seq} (idle : s.cfgState = 0) (none_ : s.shadow = []) (run : s.isSafe = false) (up : s.linkUp s.mgmtLink = true) :
    ∃ t, exec (.stageHost q) s = .next t ∧ Staging s t (true, s.fld F.CFG_STAGE_ADDR_ADDR 0 * 4096, s.fld F.CFG_STAGE_LEN_LEN 0) q := by
  have run' : ¬(hostStarted s q).isSafe = true := Bool.eq_false_iff.1
    ((congrArg (· == 2) (fld_hostStarted s none_ q (f := F.FCU_SAFE_STATUS_STATE) 0 (by decide))).trans run)
  have up' : (hostStarted s q).linkUp ((hostStarted s q).fnLink .mf) = true := by
    have link : (hostStarted s q).fnLink .mf = s.mgmtLink := fld_hostStarted s none_ q (f := F.HEP_MGMT_LINK_LINK) 0 (by decide)
    rw [link, ← up]
    exact congrArg (· == 3) (fld_hostStarted s none_ q (f := ⟨.HEP_LINK_STATE, _, _⟩) 0 (show Reg.HEP_LINK_STATE ∉ _ by decide))
  have runs : exec (.stageHost q) s = .next ((hostStarted s q).runJob (hostJob s q)) := congrArg _ ((if_neg (not_not_intro idle)).trans (if_neg run'))
  have issued := ReadJobs.issued_runJob (s := hostStarted s q) (j := hostJob s q) rfl rfl up'
  refine ⟨_, runs, (staging_hostStarted s none_ q).congr ?_ issued.regs⟩
  exact ⟨(congrArg State.slots issued.frame :), (congrArg State.cfgSeq issued.frame :), (congrArg State.ring issued.frame :)⟩

/-! ### The other commands of an idle unit -/

theorem discard_runs {q : Seq} (idle : s.cfgState = 0) : exec (.discard q) s = .next (((s.setSlots { s.slots with staged := none }).showSlots).cfgRefuse q 0) :=
  congrArg _ (if_neg (not_not_intro idle))

theorem discard_empties {q : Seq} (idle : s.cfgState = 0) : ∃ t, exec (.discard q) s = .next t ∧ t.slots = { s.slots with staged := none } ∧
    t.reg .CFG_STAGED_VER 0 = 0 ∧ EndedAt t 0 0 q := by
  have shown : ((s.setSlots { s.slots with staged := none }).showSlots).cfgState = 0 :=
    (status_showSlots (s.setSlots { s.slots with staged := none }) rfl).trans idle
  have empty : ((s.setSlots { s.slots with staged := none }).showSlots).reg .CFG_STAGED_VER 0 = 0 := staged_showSlots (s.setSlots { s.slots with staged := none }) rfl
  refine ⟨_, discard_runs s idle, ?_, ?_, ?_⟩
  · exact (congrArg State.slots (only_cfgRefuse ((s.setSlots { s.slots with staged := none }).showSlots) q 0) :)
  · generalize (s.setSlots { s.slots with staged := none }).showSlots = u at empty
    exact (reg_mfVector _ _ 0 (by decide)).trans ((Fields.reg_endCmd_other u (by decide)).trans empty)
  · have ended := endedAt_cfgRefuse ((s.setSlots { s.slots with staged := none }).showSlots) q (code := 0) (by decide)
    rw [shown] at ended
    exact ended

theorem startCheck_checks (back : Bool) (q : Seq) : (s.startCheck back q).cfgState = 2 ∧ (s.startCheck back q).cfgSeq = q ∧
    (s.startCheck back q).slots = { s.slots with rollback := back, reload := false } :=
  ⟨Fields.fld_setFld_self (s.epoch .commitRollback .CFG_DRAIN_LIMIT 0) (by decide), rfl, rfl⟩

theorem commit_starts {q : Seq} (idle : s.cfgState = 0) (run : s.isSafe = false) : exec (.commit q) s = .next (s.startCheck false q) :=
  congrArg _ (if_neg (by rw [idle, run]; decide))

theorem rollback_starts {q : Seq} (idle : s.cfgState = 0) (run : s.isSafe = false) : exec (.rollback q) s = .next (s.startCheck true q) :=
  have sound : s.cfgState ≠ 5 := by rw [idle]; decide
  congrArg _ ((if_neg fun h => sound h.1).trans ((if_neg sound).trans (if_neg (by rw [idle, run]; decide))))

/-! ### The end of staging -/

/-- The image is read. -/
def readDone : State := s.setSlots { s.slots with reading := none, bad := false }

/-- The image read is Staged. -/
def readStaged (f : ImgFile) : State := ((readDone s).setSlots { (readDone s).slots with staged := some f.image }).showSlots

theorem kept_readStaged (f : ImgFile) : Kept ((readDone s).setSlots { (readDone s).slots with staged := some f.image }) (readStaged s f) := ⟨rfl, rfl, rfl⟩

/-- A command that was in progress has ended, and Active and Previous are the same. -/
def Done (t : State) (code : Nat) : Prop := EndedAt t 0 code s.cfgSeq ∧ t.slots.active = s.slots.active ∧ t.slots.previous = s.slots.previous

theorem done_cfgDone {u : State} {code : Nat} (more : Nat) (small : code < 256) (seq : u.cfgSeq = s.cfgSeq)
    (active : u.slots.active = s.slots.active) (previous : u.slots.previous = s.slots.previous) :
    Done s (u.cfgDone code 0 more) code ∧ (u.cfgDone code 0 more).slots.staged = u.slots.staged := by
  obtain ⟨slots, _, _⟩ := kept_cfgDone u code 0 more
  have ended := endedAt_cfgDone u more small (st := 0) (by decide)
  rw [seq] at ended
  exact ⟨⟨ended, (congrArg Slots.active slots).trans active, (congrArg Slots.previous slots).trans previous⟩, congrArg Slots.staged slots⟩

section
variable {s} {r : ImgRead} {f : ImgFile} (reads : s.cfgState = 1)
include reads

theorem staging_waits (busy : s.stageBusy = true) : exec (.stagingComplete r) s = .next s := congrArg _ (if_pos (.inr busy))

variable (in_ : s.stageBusy = false)
include in_

theorem not_out : ¬(s.cfgState ≠ 1 ∨ s.stageBusy = true) := by
  rw [reads, in_]
  decide

theorem staging_bad (bad : s.slots.bad = true) : exec (.stagingComplete r) s = .next ((readDone s).cfgDone 0x10) :=
  congrArg _ ((if_neg (not_out reads in_)).trans (if_pos bad))

variable (good : s.slots.bad = false)
include good

theorem staging_error (flash : ∀ a n, s.slots.reading ≠ some (true, a, n)) : exec (.stagingComplete .error) s = .next ((readDone s).cfgDone 0x10) := by
  refine congrArg _ ((if_neg (not_out reads in_)).trans ((if_neg (Bool.eq_false_iff.1 good)).trans (if_neg ?_)))
  split
  next a n at_ => exact absurd at_ (flash a n)
  next => exact Bool.false_ne_true

theorem staging_passes (pass : s.stageCheck f = 0) : exec (.stagingComplete (.image f)) s = .next
    ((readStaged s f).cfgDone 0) := by
  refine congrArg _ ((if_neg (not_out reads in_)).trans ((if_neg (Bool.eq_false_iff.1 good)).trans ?_))
  unfold readStaged readDone
  simp only [pass]

theorem staging_fails {code : Nat} (fails : s.stageCheck f = code + 1) : exec (.stagingComplete (.image f)) s = .next
    ((readDone s).cfgCheck (some f.image) (code + 1)) := by
  refine congrArg _ ((if_neg (not_out reads in_)).trans ((if_neg (Bool.eq_false_iff.1 good)).trans ?_))
  unfold readDone
  simp only [fails]

end

/-! ### The checks of a commit (R53–R55) -/

/-- The slots, the SEQ, the waiting accesses and the status of the unit are the same. -/
def Untouched (s t : State) : Prop := Kept s t ∧ t.reg .CFG_STATUS 0 = s.reg .CFG_STATUS 0

theorem untouched_refl : Untouched s s := ⟨kept_refl s, rfl⟩

theorem Untouched.trans {s t u : State} (first : Untouched s t) (then_ : Untouched t u) : Untouched s u := by
  obtain ⟨kept, status⟩ := first
  obtain ⟨kept', status'⟩ := then_
  exact ⟨kept.trans kept', status'.trans status⟩

theorem Untouched.state {s t : State} (h : Untouched s t) : t.cfgState = s.cfgState := congrArg (fun w => getBits w 0 3) h.2

theorem untouched_foldl {A : Type} {f : State → A → State} (step : ∀ u a, Untouched u (f u a)) (l : List A) : Untouched s (l.foldl f s) := by
  induction l generalizing s with
  | nil => exact untouched_refl s
  | cons a l ih => exact (step s a).trans (ih _)

theorem untouched_sourceWake (k : Nat) : Untouched s (s.sourceWake k) := by
  have power := Exceptions.power_sourceWake s k
  exact ⟨⟨(congrArg State.slots power :), (congrArg State.cfgSeq power :), (congrArg State.ring power :)⟩,
    (TimeUnit.keeps_sourceWake s k).reg _ _ (by decide)⟩

theorem untouched_pendSource (n b : Nat) : Untouched s (s.pendSource n b) := by
  unfold pendSource
  split
  · exact untouched_refl s
  · exact (show Untouched s _ from ⟨kept_setThr .., Fields.reg_setThr ..⟩).trans (untouched_sourceWake _ _)

theorem thr_pendSource (n b m : Nat) : (s.pendSource n b).thr m = if m = n ∧ (s.thr n).state ≠ .free then
    { s.thr n with pend := (s.thr n).pend ||| ((1 : BitVec 11) <<< b) } else s.thr m := by
  unfold pendSource
  by_cases none_ : (s.thr n).state = .free
  · rw [if_pos (beq_iff_eq.2 none_), if_neg fun h => h.2 none_]
  · rw [if_neg fun h => none_ (beq_iff_eq.1 h), (Exceptions.power_sourceWake _ _).thr]
    by_cases same : m = n
    · rw [same, thr_setThr, if_pos ⟨rfl, none_⟩]
    · rw [thr_setThr_ne _ _ same, if_neg fun h => same h.1]

theorem state_pendSource (n b m : Nat) : ((s.pendSource n b).thr m).state = (s.thr m).state := by
  rw [thr_pendSource]
  split
  · rename_i h
    rw [h.1]
  · rfl

/-- A thread that is not FREE knows of the coming swap. -/
def Noticed (n : Nat) (u : State) : Prop := (u.thr n).state ≠ .free → (u.thr n).pend.getLsbD 8 = true

theorem noticed_pendSource (n : Nat) : Noticed n (s.pendSource n 8) := by
  intro live
  rw [state_pendSource] at live
  rw [thr_pendSource, if_pos ⟨rfl, live⟩, BitVec.getLsbD_or, show ((1 : BitVec 11) <<< 8).getLsbD 8 = true by decide, Bool.or_true]

theorem noticed_after {n : Nat} (h : Noticed n s) (m : Nat) : Noticed n (s.pendSource m 8) := by
  intro live
  rw [state_pendSource] at live
  have bit := h live
  rw [thr_pendSource]
  split
  · rename_i at_
    rw [BitVec.getLsbD_or, ← at_.1, bit, Bool.true_or]
  · exact bit

/-- SWAP_NOTICE to every thread of some Trusses. -/
def noticed (l : List Nat) (s : State) : State := l.foldl (fun u t => (trussThreads t).foldl (fun v n => v.pendSource n 8) u) s

theorem untouched_noticed (l : List Nat) : Untouched s (noticed l s) :=
  untouched_foldl s (fun u _ => untouched_foldl u (fun v n => untouched_pendSource v n 8) _) l

theorem pend_noticed {l : List Nat} {k n : Nat} (truss : k ∈ l) (thread : n ∈ trussThreads k) (live : (s.thr n).state ≠ .free) :
    ((noticed l s).thr n).pend.getLsbD 8 = true := by
  have told : Noticed n (noticed l s) := Macs.foldl_of_mem (P := Noticed n) s
    (fun u => Macs.foldl_of_mem (P := Noticed n) u (fun v => noticed_pendSource v n) (fun v m h => noticed_after v h m) (.inl thread))
    (fun u _ h => Macs.foldl_of_mem (P := Noticed n) (a := n) u (fun v => noticed_pendSource v n) (fun v m h => noticed_after v h m) (.inr h)) (.inl truss)
  refine told ?_
  rw [show ((noticed l s).thr n).state = (s.thr n).state from Macs.foldl_keeps (fun u => (u.thr n).state)
    (fun u k => Macs.foldl_keeps (fun u => (u.thr n).state) (fun v m => state_pendSource v m 8 n) _ u) l s]
  exact live

section
variable {s} (checks : s.cfgState = 2)
include checks

/-- DRAIN begins for image `i`. -/
def draining (s : State) (i : Image) : State := noticed (diff s.slots.active i).trusses ((s.setCfgState 3).setSlots { s.slots with incoming := some i })

theorem check_passes {i : Image} (pass : s.commitCheck = 0) (image : (if s.slots.rollback = true then s.slots.previous else s.slots.staged) = some i) :
    exec .checkComplete s = .next (draining s i) := by
  refine congrArg _ ((if_neg (not_not_intro checks)).trans ?_)
  simp only [pass, image]
  rfl

omit checks in
theorem draining_drains (i : Image) : (draining s i).cfgState = 3 ∧ (draining s i).slots = { s.slots with incoming := some i } ∧
    ∀ k n, k ∈ (diff s.slots.active i).trusses → n ∈ trussThreads k → (s.thr n).state ≠ .free → ((draining s i).thr n).pend.getLsbD 8 = true := by
  have same := untouched_noticed ((s.setCfgState 3).setSlots { s.slots with incoming := some i }) (diff s.slots.active i).trusses
  exact ⟨same.state.trans (Fields.fld_setFld_self s (by decide)), same.1.1, fun k n truss thread live => pend_noticed _ truss thread live⟩

theorem check_none {code : Nat} (fails : s.commitCheck = code + 1) (image : (if s.slots.rollback = true then s.slots.previous else s.slots.staged) = none) :
    exec .checkComplete s = .next (s.cfgCheck none (code + 1)) := by
  refine congrArg _ ((if_neg (not_not_intro checks)).trans ?_)
  simp only [fails, image]

end

theorem commitCheck_none (image : (if s.slots.rollback = true then s.slots.previous else s.slots.staged) = none) :
    s.commitCheck = if s.slots.rollback = true then 3 else 2 := by
  unfold commitCheck
  simp only [image]

theorem check_empty (checks : s.cfgState = 2) {code : Nat} (small : code + 1 < 256) (back : (if s.slots.rollback = true then 3 else 2) = code + 1)
    (image : (if s.slots.rollback = true then s.slots.previous else s.slots.staged) = none) :
    ∃ t, exec .checkComplete s = .next t ∧ EndedAt t 0 (code + 1) s.cfgSeq ∧ t.slots = s.slots :=
  ⟨_, check_none checks ((commitCheck_none s image).trans back) image, endedAt_cfgDone s _ small (by decide), (kept_cfgDone s ..).1⟩

/-! ### Resume (R56, R208) -/

theorem untouched_setEvt (evt en vec : Reg) (i b : Nat) (other : evt ≠ .CFG_STATUS) : Untouched s (s.setEvt evt en vec i b) :=
  ⟨kept_signals (Signals.signals_setEvt ..), Fields.reg_setEvt_other s ⟨by decide, other.symm⟩⟩

theorem untouched_issued {s t : State} (h : ReadJobs.Issued s t) : Untouched s t :=
  ⟨⟨(congrArg State.slots h.frame :), (congrArg State.cfgSeq h.frame :), (congrArg State.ring h.frame :)⟩, reg_congr h.regs ..⟩

/-- A read of one piece for the Management Function is sent, waits, or fails as its link is down. -/
theorem untouched_runJob {j : Job} {p : Part} (device : j.span = none) (reads : j.write = false) (one : j.parts = [p])
    (fails : Untouched s (s.depFail j.dep 9 1)) : Untouched s (s.runJob j) := by
  by_cases up : s.linkUp (s.fnLink j.fn) = true
  · exact untouched_issued (ReadJobs.issued_runJob device reads up)
  · have piece : s.issuePiece j p = .hold ∨ s.issuePiece j p = .fail s 9 := by
      unfold issuePiece
      dsimp only
      rw [device, reads, Bool.eq_false_iff.2 up]
      by_cases safe : s.isSafe = true
      · exact .inl (if_pos safe)
      · exact .inr (if_neg safe)
    unfold runJob
    rw [one]
    unfold runParts
    rcases piece with held | failed
    · rw [held]
      exact ⟨⟨rfl, rfl, rfl⟩, rfl⟩
    · rw [failed]
      exact fails

theorem untouched_cmdqFetch (p : Nat) : Untouched s (s.cmdqFetch p) := by
  unfold cmdqFetch
  dsimp only
  split
  · exact untouched_refl s
  · have started (x : TblRun) : Untouched s (s.setTrun p x) := ⟨⟨rfl, rfl, rfl⟩, rfl⟩
    refine (started _).trans (untouched_runJob _ rfl rfl rfl ?_)
    generalize s.setTrun p _ = u
    have stopped : Untouched u (({ u with tblRun := SMap.put {} u.tblRun p {} } : State).setFld F.TBL_CMDQ_STATUS_STOPPED p 1) :=
      ⟨⟨rfl, rfl, rfl⟩, Fields.reg_setFld_other ({ u with tblRun := SMap.put {} u.tblRun p {} } : State) (by decide)⟩
    exact stopped.trans (untouched_setEvt _ _ _ _ _ _ (by decide))

theorem untouched_chStopped (p ch g : Nat) : Untouched s (s.chStopped p ch g) := by
  unfold chStopped
  dsimp only
  split
  · exact untouched_refl s
  · have stopped (x : DmaCh) : Untouched s (s.setDmaC p ch x) := ⟨⟨rfl, rfl, rfl⟩, rfl⟩
    exact (stopped _).trans (untouched_setEvt _ _ _ _ _ _ (by decide))

theorem untouched_chFetch (p ch : Nat) : Untouched s (s.chFetch p ch) := by
  unfold chFetch
  dsimp only
  split
  · have started (x : DmaCh) : Untouched s (s.setDmaC p ch x) := ⟨⟨rfl, rfl, rfl⟩, rfl⟩
    exact (started _).trans (untouched_runJob _ rfl rfl rfl (untouched_chStopped ..))
  · exact untouched_refl s

theorem untouched_applyMask {r : Reg} (i : Nat) (mask : Word) (other : .CFG_STATUS ≠ r) : Untouched s (s.applyMask r i mask) :=
  ⟨⟨rfl, rfl, rfl⟩, Fields.reg_setReg_other s other⟩

theorem untouched_resume : Untouched s s.resume := by
  have masks : Untouched s ((s.applyMask .MAC_DIST_SVC 0 0x3).applyMask .MAC_DIST_SVC 1 0x3) :=
    (untouched_applyMask s 0 _ (by decide)).trans (untouched_applyMask _ 1 _ (by decide))
  refine masks.trans ?_
  unfold resume ringsGoOn
  exact (untouched_foldl _ (fun u p => untouched_cmdqFetch u p) _).trans (untouched_foldl _ (fun u k => untouched_chFetch u _ _) _)

/-- A command ends, and traffic resumes. -/
theorem ends_resume {u : State} (code more : Nat) (small : code < 256) : EndedAt (u.cfgDone code 0 more).resume 0 code u.cfgSeq ∧
    (u.cfgDone code 0 more).resume.slots = u.slots ∧ (u.cfgDone code 0 more).resume.ring = u.ring := by
  have same := untouched_resume (u.cfgDone code 0 more)
  obtain ⟨slots, _, ring⟩ := (kept_cfgDone u code 0 more).trans same.1
  exact ⟨(endedAt_cfgDone u more small (by decide)).congr same.2, slots, ring⟩

/-! ### Drain and swap (R55, R56, R59) -/

theorem drain_completes {i : Image} (drains : s.cfgState = 3) (incoming : s.slots.incoming = some i) (drained : s.drained i = true) :
    ∃ t, exec .drainComplete s = .next t ∧ s.OnlyRegs t [(.CFG_STATUS, 0)] ∧ t.cfgState = 4 := by
  have runs : exec .drainComplete s = .next (s.setCfgState 4) := by
    refine congrArg _ ((if_neg (not_not_intro drains)).trans ?_)
    simp only [incoming, drained, if_true]
  exact ⟨_, runs, ⟨rfl, fun r i out => Frames.but_setFld s F.CFG_STATUS_STATE 0 4 r i out⟩, Fields.fld_setFld_self s (by decide)⟩

theorem drain_times_out (drains : s.cfgState = 3) : ∃ t, exec .drainTimeout s = .next t ∧ EndedAt t 0 0x0E s.cfgSeq ∧
    t.slots = { s.slots with incoming := none, rollback := false } := by
  have runs : exec .drainTimeout s = .next (((s.setSlots { s.slots with incoming := none, rollback := false }).cfgDone 0x0E).resume) :=
    congrArg _ (if_neg (not_not_intro drains))
  obtain ⟨ended, slots, _⟩ := ends_resume (u := s.setSlots { s.slots with incoming := none, rollback := false }) 0x0E 0 (by decide)
  exact ⟨_, runs, ended, slots⟩

section
variable {s} (swaps : s.cfgState = 4)
include swaps

theorem swap_faults (y : BitVec 4) : ∃ t, exec (.swapFault y) s = .next t ∧ EndedAt t 5 0x0F s.cfgSeq ∧ t.slots = { s.slots with dead := s.slots.reload } := by
  have runs : exec (.swapFault y) s = .next (s.failSwap.cfgDone 0x0F 5 y.toNat) :=
    congrArg _ ((if_neg (not_not_intro swaps)).trans (if_neg (not_not_intro swaps)))
  exact ⟨_, runs, endedAt_cfgDone s.failSwap y.toNat (by decide) (by decide), (kept_cfgDone s.failSwap ..).1⟩

/-- The state that the load of a swap's image leaves. -/
def swapped (s : State) (i : Image) (d w : BitVec 32) : State :=
  let all := s.slots.reload
  let old := if all then s.slots.incoming else s.slots.active
  let s := (s.setSlots (s.rotate i)).showSlots
  let s := s.loadImage old i false all
  let s := (s.setReg .CFG_REBUILT 0 (BitVec.ofNat 64 (diffAll old i all).word)).bump F.CFG_SWAP_CNT_COUNT 0
  s.setReg .CFG_LAST_SWAP 0 (BitVec.ofNat 64 (d.toNat + 2 ^ 32 * w.toNat))

omit swaps in
theorem kept_swapped (i : Image) (d w : BitVec 32) : Kept (s.setSlots (s.rotate i)) (swapped s i d w) := by
  have shown (u : State) : Kept u u.showSlots := ⟨rfl, rfl, rfl⟩
  have loaded := (shown (s.setSlots (s.rotate i))).trans (kept_loadImage (if s.slots.reload = true then s.slots.incoming else s.slots.active) i false s.slots.reload)
  unfold swapped
  exact .after ⟨rfl, rfl, rfl⟩ loaded

theorem swap_completes {i : Image} (d w : BitVec 32) (quiet : s.ring = [])
    (image : (if s.slots.reload = true then s.slots.active else s.slots.incoming) = some i) :
    ∃ t, exec (.swapComplete d w) s = .next t ∧ EndedAt t 0 0 s.cfgSeq ∧ t.slots = s.rotate i := by
  have into : s.swapIn d w = ((swapped s i d w).cfgDone 0).resume := by
    unfold swapIn
    simp only [image]
    rfl
  obtain ⟨slots, seq, ring⟩ := kept_swapped (s := s) i d w
  obtain ⟨ended, slots', ring'⟩ := ends_resume (u := swapped s i d w) 0 0 (by decide)
  have runs : exec (.swapComplete d w) s = .next ((s.swapIn d w).drainRing) := congrArg _ (if_neg (not_not_intro swaps))
  rw [into, LinkProtocols.drainRing_empty (ring'.trans (ring.trans quiet))] at runs
  rw [seq] at ended
  exact ⟨_, runs, ended, slots'.trans slots⟩

end

/-! ### Rollback of a failed swap (R59, R64) -/

theorem rollback_dead {q : Seq} (failed : s.cfgState = 5) (dead : s.slots.dead = true) : exec (.rollback q) s = .next (s.cfgRefuse q 1) :=
  congrArg _ (if_pos ⟨failed, dead⟩)

theorem rollback_reloads {q : Seq} {i : Image} (failed : s.cfgState = 5) (lives : s.slots.dead = false) (active : s.slots.active = some i)
    (secure : s.fld F.CFG_MIN_SVN_MIN_SVN 0 ≤ i.hdr.svn.toNat) : ∃ t, exec (.rollback q) s = .next t ∧ t.cfgState = 4 ∧ t.cfgSeq = q ∧
      t.slots = { s.slots with reload := true } := by
  have old : ¬i.hdr.svn.toNat < (s.epoch .commitRollback .CFG_DRAIN_LIMIT 0).fld F.CFG_MIN_SVN_MIN_SVN 0 := by
    rw [Fields.fld_epoch_other s (by decide)]
    exact Nat.not_lt.2 secure
  have runs : exec (.rollback q) s = .next
      { ((s.epoch .commitRollback .CFG_DRAIN_LIMIT 0).setCfgState 4).setSlots { (s.epoch .commitRollback .CFG_DRAIN_LIMIT 0).slots with reload := true } with cfgSeq := q } := by
    have alive : ¬(s.cfgState = 5 ∧ s.slots.dead = true) := fun h => by rw [lives] at h; exact Bool.false_ne_true h.2
    refine congrArg _ ((if_neg alive).trans ((if_pos failed).trans ?_))
    simp only [active]
    exact if_neg old
  exact ⟨_, runs, Fields.fld_setFld_self (s.epoch .commitRollback .CFG_DRAIN_LIMIT 0) (by decide), rfl, rfl⟩

/-- Settles O44: each image command by the state in which it comes. The load of an image touches neither the slots nor the command's SEQ, and
what resumes after it leaves the command's status. -/
theorem imageCommands : Obligations.ImageCommands := by
  unfold Obligations.ImageCommands
  intro s q x y i f r d w
  dsimp only
  refine ⟨fun idle => ⟨?_, ?_, ?_, ?_, ?_⟩, ?_, ?_, ?_, ?_, ?_, ?_, ?_, ?_, ?_⟩
  · exact fun quiet => ⟨_, stageFlash_starts s idle quiet, staging_startStaging s ..⟩
  · intro none_ safe
    obtain ⟨t, runs, state, ended⟩ := stageHost_safe s (q := q) idle none_ safe
    exact ⟨t, runs, state, ended⟩
  · exact fun none_ run up => stageHost_reads s idle none_ run up
  · obtain ⟨t, runs, slots, shown, state, ended⟩ := discard_empties s (q := q) idle
    exact ⟨t, runs, slots, shown, state, ended⟩
  · intro run
    obtain ⟨state, seq, slots⟩ := startCheck_checks s false q
    obtain ⟨state', seq', slots'⟩ := startCheck_checks s true q
    exact ⟨_, _, commit_starts s idle run, rollback_starts s idle run, state, state', seq, seq', slots, slots'⟩
  · exact fun busy c named => refused s (busy_refuses s busy c named)
  · exact fun busy sound => refused s (rollback_busy s busy sound)
  · exact fun reads busy => staging_waits reads busy
  · intro reads in_
    refine ⟨?_, ?_, ?_, ?_⟩
    · intro good pass
      obtain ⟨read, read'⟩ := kept_readStaged s f
      obtain ⟨⟨⟨state, ended⟩, kept⟩, staged⟩ := done_cfgDone s (u := readStaged s f) (code := 0) 0 (by decide) read'.1 (congrArg Slots.active read :) (congrArg Slots.previous read :)
      exact ⟨_, staging_passes reads in_ good pass, ⟨state, ended⟩, kept, staged.trans (congrArg Slots.staged read)⟩
    · intro good bad
      obtain ⟨⟨⟨state, ended⟩, kept⟩, staged⟩ := done_cfgDone s (u := readDone s) (code := 4) 0 (by decide) rfl rfl rfl
      have fails : s.stageCheck f = 3 + 1 := if_pos (.inl (by rw [bad]; decide))
      exact ⟨_, staging_fails reads in_ good fails, ⟨state, ended⟩, kept, staged⟩
    · intro good flash
      obtain ⟨⟨⟨state, ended⟩, kept⟩, staged⟩ := done_cfgDone s (u := readDone s) (code := 0x10) 0 (by decide) rfl rfl rfl
      exact ⟨_, staging_error reads in_ good flash, ⟨state, ended⟩, kept, staged⟩
    · intro bad
      obtain ⟨⟨⟨state, ended⟩, kept⟩, staged⟩ := done_cfgDone s (u := readDone s) (code := 0x10) 0 (by decide) rfl rfl rfl
      exact ⟨_, staging_bad reads in_ bad, ⟨state, ended⟩, kept, staged⟩
  · intro checks
    refine ⟨fun pass image => ?_, fun forward none_ => ?_, fun back none_ => ?_⟩
    · exact ⟨_, check_passes checks pass image, draining_drains i⟩
    · obtain ⟨t, runs, ⟨state, ended⟩, slots⟩ := check_empty s checks (code := 1) (by decide) (by rw [forward]; rfl) (by rw [forward]; exact none_)
      exact ⟨t, runs, ⟨state, ended⟩, slots⟩
    · obtain ⟨t, runs, ⟨state, ended⟩, slots⟩ := check_empty s checks (code := 2) (by decide) (by rw [back]; rfl) (by rw [back]; exact none_)
      exact ⟨t, runs, ⟨state, ended⟩, slots⟩
  · intro drains
    refine ⟨fun incoming drained => drain_completes s drains incoming drained, ?_⟩
    obtain ⟨t, runs, ⟨state, ended⟩, slots⟩ := drain_times_out s drains
    exact ⟨t, runs, ⟨state, ended⟩, slots⟩
  · intro swaps quiet
    refine ⟨?_, ?_, ?_, ?_⟩
    · intro incoming first forward
      obtain ⟨t, runs, ⟨state, ended⟩, slots⟩ := swap_completes swaps d w quiet (i := i) (by rw [first]; exact incoming)
      rw [rotate, first, forward] at slots
      exact ⟨t, runs, ⟨state, ended⟩, (congrArg Slots.active slots :), (congrArg Slots.previous slots :), (congrArg Slots.staged slots :)⟩
    · intro incoming first back
      obtain ⟨t, runs, ⟨state, ended⟩, slots⟩ := swap_completes swaps d w quiet (i := i) (by rw [first]; exact incoming)
      rw [rotate, first, back] at slots
      exact ⟨t, runs, ⟨state, ended⟩, (congrArg Slots.active slots :), (congrArg Slots.previous slots :), (congrArg Slots.staged slots :)⟩
    · intro active again
      obtain ⟨t, runs, ⟨state, ended⟩, slots⟩ := swap_completes swaps d w quiet (i := i) (by rw [again]; exact active)
      rw [rotate, again] at slots
      exact ⟨t, runs, ⟨state, ended⟩, ⟨(congrArg Slots.active slots :), (congrArg Slots.previous slots :)⟩, (congrArg Slots.staged slots :)⟩
    · obtain ⟨t, runs, ⟨state, ended⟩, slots⟩ := swap_faults swaps y
      exact ⟨t, runs, state, ended, slots⟩
  · intro failed dead
    obtain ⟨t, runs, only, ended, state⟩ := refused s (rollback_dead s (q := q) failed dead)
    exact ⟨t, runs, only, ended, state.trans failed⟩
  · exact fun failed lives active secure => rollback_reloads s failed lives active secure

end Sys2Proof.Machine.ImageOps
end

section
/-!
PROOFS. Reset, the PLL's lock and the boot (R22, R23, R482, R515–R519).
-/

namespace Sys2Proof.Machine.Boots
open State

variable (s : State)

/-! ### What a reset leaves (R515, R519) -/

/-- Only the fuses and what is read of them stay. -/
def Lost (t : State) : Prop :=
  t.threads = [] ∧ t.slots = {} ∧ t.rld = [] ∧ t.spm = [] ∧ t.queues = [] ∧ t.sas = [] ∧ t.macs = [] ∧
    t.sec = { fuseA := s.sec.fuseA, fuseB := s.sec.fuseB } ∧ (∀ r ∈ fuseRegs, t.reg r 0 = s.reg r 0) ∧ t.fld F.SEC_KEYS_REVOKED 0 = s.fld F.SEC_KEYS_REVOKED 0

/-- Every other register is at its reset value. -/
def Fresh (t : State) (l : List Reg) : Prop := ∀ r i, r ∉ fuseRegs ++ .SEC_KEYS :: l → t.reg r i = r.resetWord

/-- The registers of a state that is blank but for those read of the fuses. -/
def keptRegs : SMap Word := SMap.keep (fuseRegs.map fun r => regKey r 0).contains s.regs

theorem reg_blank (d : DevState) {r : Reg} (i : Nat) (other : r ≠ .SEC_KEYS) : (s.blank d).reg r i = SMap.get r.resetWord (keptRegs s) (regKey r i) :=
  Fields.reg_setFld_other _ other

theorem fuseReg_blank (d : DevState) {r : Reg} (fuse : r ∈ fuseRegs) : (s.blank d).reg r 0 = s.reg r 0 := by
  have other : r ≠ .SEC_KEYS := by
    rintro rfl
    exact absurd fuse (by decide)
  rw [reg_blank s d 0 other, keptRegs, Bays.get_keep, if_pos]
  · rfl
  · exact List.contains_iff_mem.2 (List.mem_map_of_mem fuse)

theorem fresh_blank (d : DevState) : Fresh (s.blank d) [] := by
  intro r i out
  simp only [List.mem_append, List.mem_cons, List.not_mem_nil, or_false, not_or] at out
  obtain ⟨fuse, other⟩ := out
  rw [reg_blank s d i other, keptRegs, Bays.get_keep, if_neg]
  intro listed
  obtain ⟨r', fuse', key⟩ := List.mem_map.1 (List.contains_iff_mem.1 listed)
  obtain ⟨same, _⟩ := regKey_inj key
  exact fuse (same ▸ fuse')

theorem lost_blank (d : DevState) : Lost s (s.blank d) :=
  ⟨rfl, rfl, rfl, rfl, rfl, rfl, rfl, rfl, fun _ fuse => fuseReg_blank s d fuse,
    (Fields.fld_setFld_self _ (by decide)).trans (Nat.mod_eq_of_lt (getBits_lt ..))⟩

/-- The straps as TOP_STRAP holds them. -/
def strapWord (st : Straps) : Word := BitVec.ofNat 64 (st.mgmtHost.toNat + 16 * st.bootSel.toNat)

theorem strap_fields (st : Straps) {t : State} (at_ : t.reg .TOP_STRAP 0 = strapWord st) :
    t.fld F.TOP_STRAP_MGMT_HOST 0 = st.mgmtHost.toNat ∧ t.fld F.TOP_STRAP_BOOT_SEL 0 = st.bootSel.toNat := by
  have host := st.mgmtHost.isLt
  have sel := st.bootSel.isLt
  constructor
  · refine (congrArg (fun w => getBits w 0 3) at_).trans ((Monitors.getBits_ofNat (by decide)).trans ?_)
    omega
  · refine (congrArg (fun w => getBits w 4 2) at_).trans ((Monitors.getBits_ofNat (by decide)).trans ?_)
    omega

/-- The state as the straps latch. -/
def strapped (w : Word) : State := (s.blank .locking).setReg .TOP_STRAP 0 w

theorem reg_gradeRegs {r : Reg} (i : Nat) (other : r ≠ .PWR_TJ_CFG) : s.gradeRegs.reg r i = s.reg r i := by
  unfold gradeRegs
  split
  · exact (Fields.reg_setFld_other _ other).trans (Fields.reg_setFld_other _ other)
  · rfl

theorem released_eq (w : Word) : s.released w = { (strapped s w).gradeRegs with pins := { qspiResetN := true } } := rfl

theorem reg_withPins (p : Pins) (r : Reg) (i : Nat) : ({ s with pins := p } : State).reg r i = s.reg r i := rfl

theorem fld_withPins (p : Pins) (f : Fld) (i : Nat) : ({ s with pins := p } : State).fld f i = s.fld f i := rfl

theorem reg_released (w : Word) {r : Reg} (i : Nat) (other : r ≠ .PWR_TJ_CFG) : (s.released w).reg r i = (strapped s w).reg r i := by
  rw [released_eq, reg_withPins]
  exact reg_gradeRegs (strapped s w) i other

theorem reg_strapped (w : Word) {r : Reg} (i : Nat) (other : r ≠ .TOP_STRAP) : (strapped s w).reg r i = (s.blank .locking).reg r i :=
  Fields.reg_setReg_other _ other

theorem grade_strapped (w : Word) : (strapped s w).fld F.TOP_GRADE_GRADE 0 = s.fld F.TOP_GRADE_GRADE 0 :=
  (Fields.fld_setReg_other _ (by decide)).trans (congrArg (fun w => getBits w 0 1) (fuseReg_blank s .locking (r := .TOP_GRADE) (by decide)))

theorem fresh_released (w : Word) : Fresh (s.released w) [.TOP_STRAP, .PWR_TJ_CFG] := by
  intro r i out
  simp only [List.mem_append, List.mem_cons, List.not_mem_nil, or_false, not_or] at out
  obtain ⟨fuse, keys, strap, limit⟩ := out
  rw [reg_released s w i limit, reg_strapped s w i strap]
  exact fresh_blank s .locking r i (by simp [fuse, keys])

theorem lost_released (w : Word) : Lost s (s.released w) := by
  have frame := SecurityUnit.gradeRegs_frame (strapped s w)
  have regs (r : Reg) (other : r ≠ .PWR_TJ_CFG) : (s.released w).reg r 0 = (strapped s w).reg r 0 := reg_released s w 0 other
  have keys : (s.released w).fld F.SEC_KEYS_REVOKED 0 = s.fld F.SEC_KEYS_REVOKED 0 := by
    obtain ⟨_, _, _, _, _, _, _, _, _, revoked⟩ := lost_blank s .locking
    rw [← revoked]
    refine congrArg (fun w => getBits w 32 32) ?_
    exact (regs .SEC_KEYS (by decide)).trans (reg_strapped s w 0 (by decide))
  have fuses (r : Reg) (fuse : r ∈ fuseRegs) : (s.released w).reg r 0 = s.reg r 0 := by
    have limit : r ≠ .PWR_TJ_CFG := by
      rintro rfl
      exact absurd fuse (by decide)
    have strap : r ≠ .TOP_STRAP := by
      rintro rfl
      exact absurd fuse (by decide)
    exact (regs r limit).trans ((reg_strapped s w 0 strap).trans (fuseReg_blank s .locking fuse))
  rw [released_eq] at *
  generalize (strapped s w).gradeRegs = t at *
  rw [frame] at *
  exact ⟨rfl, rfl, rfl, rfl, rfl, rfl, rfl, rfl, fuses, keys⟩

/-- The chip's grade sets the limits of its temperature (R515). -/
theorem limits_released (w : Word) : (s.fld F.TOP_GRADE_GRADE 0 = 0 → (s.released w).reg .PWR_TJ_CFG 0 = Reg.resetWord .PWR_TJ_CFG) ∧
    (s.fld F.TOP_GRADE_GRADE 0 = 1 → (s.released w).fld F.PWR_TJ_CFG_LIMIT 0 = 840 ∧ (s.released w).fld F.PWR_TJ_CFG_CRIT 0 = 960) := by
  have grade := grade_strapped s w
  constructor
  · intro zero
    have plain : (strapped s w).gradeRegs = strapped s w := if_neg (by rw [flag, grade, zero]; decide)
    rw [released_eq, reg_withPins, plain, reg_strapped s w 0 (by decide)]
    exact fresh_blank s .locking _ 0 (by decide)
  · intro one
    have hot : (strapped s w).gradeRegs = ((strapped s w).setFld F.PWR_TJ_CFG_LIMIT 0 840).setFld F.PWR_TJ_CFG_CRIT 0 960 :=
      if_pos (by rw [flag, grade, one]; decide)
    rw [released_eq, fld_withPins, fld_withPins, hot]
    generalize strapped s w = u
    exact ⟨(Fields.fld_setFld_apart _ (by decide)).trans (Fields.fld_setFld_self _ (by decide)), Fields.fld_setFld_self _ (by decide)⟩

theorem release_runs (st : Straps) (waits : s.dev = .inReset ∨ s.dev = .off) : exec (.porstNRelease st) s = .next (s.released (strapWord st)) :=
  congrArg _ (if_pos waits)

/-! ### The reference clocks (R22, R23) -/

/-- A fatal fault is counted. -/
def Counted (t : State) : Prop := t.fld F.FCU_CNT_COUNT 2 = min (s.fld F.FCU_CNT_COUNT 2 + 1) 0xFFFFFFFF

theorem up_running (run : s.dev = .running) : s.coreUp = true ∧ s.coreOff = false := by
  unfold coreUp coreOff
  rw [run]
  decide

theorem counted_raise {u : State} (detail : Nat) (up : u.coreOff = false) (same : u.fld F.FCU_CNT_COUNT 2 = s.fld F.FCU_CNT_COUNT 2) :
    Counted s (u.raise 0x00 0x01 detail) := by
  have count := TimeUnit.fld_raise_count u 0x00 0x01 detail (c := .fat) up (by decide)
  rw [show classIdx .fat = 2 from rfl, same] at count
  exact count

theorem refclk_lost (run : s.dev = .running) (here : s.refLost = false) : ∃ t, exec .refclkLoss s = .next t ∧ t.refLost = true ∧
    t.fld F.TOP_CLK_STATUS_REF_LOSS 0 = 1 ∧ t.fld F.TOP_CLK_STATUS_PLL_LOCK 0 = 0 ∧ Counted s t := by
  have off : ¬(s.refLost = true ∨ s.dev = .off) := by rw [here, run]; decide
  have up : ¬(!({ s with refLost := true } : State).coreUp) = true := by rw [show ({ s with refLost := true } : State).coreUp = true from (up_running s run).1]; decide
  have runs : exec .refclkLoss s = .next (((({ s with refLost := true } : State).setFld F.TOP_CLK_STATUS_REF_LOSS 0 1).setFld
      F.TOP_CLK_STATUS_PLL_LOCK 0 0).raise 0x00 0x01 1) := congrArg _ ((if_neg off).trans (if_neg up))
  have marked : ({ s with refLost := true } : State).coreOff = false := (up_running s run).2
  have frame := Signals.signals_raise ((({ s with refLost := true } : State).setFld F.TOP_CLK_STATUS_REF_LOSS 0 1).setFld F.TOP_CLK_STATUS_PLL_LOCK 0 0) 0x00 0x01 1
  refine ⟨_, runs, (congrArg State.refLost frame :), ?_, ?_, ?_⟩
  · refine (HostErrors.fld_raise _ _ _ _ _ (by decide)).trans ((Fields.fld_setFld_apart _ (by decide)).trans ?_)
    exact Fields.fld_setFld_self ({ s with refLost := true } : State) (by decide)
  · exact (HostErrors.fld_raise _ _ _ _ _ (by decide)).trans (Fields.fld_setFld_self _ (by decide))
  · refine counted_raise s 1 marked ((Fields.fld_setFld_other _ (by decide)).trans ?_)
    exact Fields.fld_setFld_other ({ s with refLost := true } : State) (by decide)

theorem refclk_returns (run : s.dev = .running) (lost : s.refLost = true) : ∃ t, exec .refclkReturn s = .next t ∧ t.refLost = false ∧
    s.OnlyRegs { t with refLost := true, free := s.free, aonPhase := s.aonPhase } [(.TOP_CLK_STATUS, 0)] ∧ t.aonPhase < 32 ∧
    t.fld F.TOP_CLK_STATUS_PLL_LOCK 0 = 1 := by
  have up : ({ s with refLost := false } : State).coreUp = true := (up_running s run).1
  have here : ¬(!s.refLost) = true := by rw [lost]; decide
  have runs : exec .refclkReturn s = .next { ({ s with refLost := false, free := s.free + 1 } : State).setFld F.TOP_CLK_STATUS_PLL_LOCK 0 1 with
      aonPhase := (Config.freeValue s.free).toNat % 32 } := congrArg _ ((if_neg here).trans (if_pos up))
  refine ⟨_, runs, rfl, ⟨?_, ?_⟩, Nat.mod_lt _ (by decide), ?_⟩
  · show _ = ({ s with regs := _ } : State)
    rw [← lost]
    rfl
  · exact fun r i out => Frames.but_setFld ({ s with refLost := false, free := s.free + 1 } : State) F.TOP_CLK_STATUS_PLL_LOCK 0 1 r i out
  · exact Fields.fld_setFld_self ({ s with refLost := false, free := s.free + 1 } : State) (by decide)

/-- One MAC loses its lock. -/
def dropLane (u : State) (m : Nat) : State := if u.macState m = 3 ∨ u.macState m = 4 then (u.setMacState m 2).macEvt m 1 else u

theorem state_dropLane (c m : Nat) : (dropLane s c).macState m = if c = m ∧ (s.macState m = 3 ∨ s.macState m = 4) then 2 else s.macState m := by
  unfold dropLane
  by_cases same : c = m
  · subst same
    by_cases up : s.macState c = 3 ∨ s.macState c = 4
    · rw [if_pos up, if_pos ⟨rfl, up⟩, Macs.macState_macEvt, Macs.macState_set _ _ (by decide)]
    · rw [if_neg up, if_neg fun h => up h.2]
  · rw [if_neg (c := c = m ∧ _) fun h => same h.1]
    split
    · rw [Macs.macState_macEvt]
      exact fld_setFld_ne s _ (by decide) (.inr (.inl (Ne.symm same)))
    · rfl

theorem state_dropLanes {l : List Nat} {m : Nat} (named : m ∈ l) (up : s.macState m = 3 ∨ s.macState m = 4) : (l.foldl dropLane s).macState m = 2 := by
  have settled (l : List Nat) : ∀ u : State, u.macState m = 2 → (l.foldl dropLane u).macState m = 2 := by
    induction l with
    | nil => exact fun _ h => h
    | cons c l ih =>
      intro u h
      refine ih _ ((state_dropLane u c m).trans ((if_neg fun g => ?_).trans h))
      rw [h] at g
      exact absurd g.2 (by decide)
  induction l generalizing s with
  | nil => exact absurd named List.not_mem_nil
  | cons c l ih =>
    by_cases same : c = m
    · exact settled l _ ((state_dropLane s c m).trans (if_pos ⟨same, up⟩))
    · refine ih _ ((List.mem_cons.1 named).resolve_left (Ne.symm same)) ?_
      rw [state_dropLane, if_neg fun h => same h.1]
      exact up

theorem but_dropLanes (l : List Nat) {r : Reg} (i : Nat) (other : r ≠ .MAC_STATUS ∧ r ≠ .MAC_EVT ∧ r ≠ .HEP_DROP_CNT) : (l.foldl dropLane s).reg r i = s.reg r i := by
  refine Macs.foldl_keeps (fun u : State => u.reg r i) (fun u c => ?_) l s
  unfold dropLane
  split
  · exact (Fields.reg_setEvt_other _ ⟨other.2.2, other.2.1⟩).trans (Fields.reg_setFld_other u other.1)
  · rfl

theorem lost_dropLanes (l : List Nat) : (l.foldl dropLane s).ethLost = s.ethLost := by
  refine Macs.foldl_keeps State.ethLost (fun u c => ?_) l s
  unfold dropLane
  split
  · exact (congrArg State.ethLost (Signals.signals_setEvt (u.setMacState c 2) .MAC_EVT .MAC_EVT_EN .MAC_MSIX_VEC c 1) :)
  · rfl

theorem ethRefclk_lost (run : s.dev = .running) (here : s.ethLost = false) : ∃ t, exec .ethRefclkLoss s = .next t ∧ t.ethLost = true ∧
    t.fld F.TOP_CLK_STATUS_ETH_REF_LOSS 0 = 1 ∧ Counted s t ∧ ∀ m, m < 16 → s.macState m = 3 ∨ s.macState m = 4 → t.macState m = 2 := by
  have off : ¬(s.ethLost = true ∨ s.dev = .off) := by rw [here, run]; decide
  have awake : ¬({ s with ethLost := true } : State).dev = .standby := by rw [show ({ s with ethLost := true } : State).dev = .running from run]; decide
  have up : ¬(!({ s with ethLost := true } : State).coreUp) = true := by rw [show ({ s with ethLost := true } : State).coreUp = true from (up_running s run).1]; decide
  have runs : exec .ethRefclkLoss s = .next ((({ s with ethLost := true } : State).setFld F.TOP_CLK_STATUS_ETH_REF_LOSS 0 1).raise 0x00 0x01 2).dropLanes := by
    refine congrArg Host.Outcome.next ((if_neg off).trans ?_)
    dsimp only
    rw [if_neg awake, if_neg up]
  have marked : ({ s with ethLost := true } : State).coreOff = false := (up_running s run).2
  have frame := Signals.signals_raise (({ s with ethLost := true } : State).setFld F.TOP_CLK_STATUS_ETH_REF_LOSS 0 1) 0x00 0x01 2
  have count : Counted s ((({ s with ethLost := true } : State).setFld F.TOP_CLK_STATUS_ETH_REF_LOSS 0 1).raise 0x00 0x01 2) :=
    counted_raise s 2 marked (Fields.fld_setFld_other ({ s with ethLost := true } : State) (by decide))
  have set : ((({ s with ethLost := true } : State).setFld F.TOP_CLK_STATUS_ETH_REF_LOSS 0 1).raise 0x00 0x01 2).fld F.TOP_CLK_STATUS_ETH_REF_LOSS 0 = 1 :=
    (HostErrors.fld_raise _ _ _ _ _ (by decide)).trans (Fields.fld_setFld_self ({ s with ethLost := true } : State) (by decide))
  have states (m : Nat) : ((({ s with ethLost := true } : State).setFld F.TOP_CLK_STATUS_ETH_REF_LOSS 0 1).raise 0x00 0x01 2).macState m = s.macState m :=
    (HostErrors.fld_raise _ _ _ _ _ (by decide)).trans (Fields.fld_setFld_other ({ s with ethLost := true } : State) (by decide))
  generalize (({ s with ethLost := true } : State).setFld F.TOP_CLK_STATUS_ETH_REF_LOSS 0 1).raise 0x00 0x01 2 = u at *
  refine ⟨_, runs, ?_, ?_, ?_, fun m inside was => ?_⟩
  · exact (lost_dropLanes u _).trans (congrArg State.ethLost frame :)
  · exact (congrArg (fun w => getBits w 2 1) (but_dropLanes u _ 0 (by decide))).trans set
  · unfold Counted at *
    rw [← count]
    exact congrArg (fun w => getBits w 0 32) (but_dropLanes u (List.range 16) 2 (r := .FCU_CNT) (by decide))
  · exact state_dropLanes u (List.mem_range.2 inside) (by rw [states]; exact was)

/-! ### What a change of the traceability state leaves -/

/-- The security unit, the image slots, the phase of AON_CLK, the mark of a lost Ethernet clock, the buckets of the scheduler's tree and the SEQs of the
ports' commands are the same. -/
structure Sealed (s t : State) : Prop where
  sec : t.sec = s.sec
  slots : t.slots = s.slots
  aonPhase : t.aonPhase = s.aonPhase
  ethLost : t.ethLost = s.ethLost
  nodes : t.nodes = s.nodes
  portSeq : t.portSeq = s.portSeq

theorem Sealed.trans {s t u : State} (first : Sealed s t) (then_ : Sealed t u) : Sealed s u where
  sec := then_.sec.trans first.sec
  slots := then_.slots.trans first.slots
  aonPhase := then_.aonPhase.trans first.aonPhase
  ethLost := then_.ethLost.trans first.ethLost
  nodes := then_.nodes.trans first.nodes
  portSeq := then_.portSeq.trans first.portSeq

theorem sealed_signals {t : State} (h : Signals.SignalsOnly s t) : Sealed s t :=
  ⟨(congrArg State.sec h :), (congrArg State.slots h :), (congrArg State.aonPhase h :), (congrArg State.ethLost h :),
    (congrArg State.nodes h :), (congrArg State.portSeq h :)⟩

theorem sealed_setTim (x : Tim) : Sealed s (s.setTim x) := ⟨rfl, rfl, rfl, rfl, rfl, rfl⟩

theorem setTim_values (x : Tim) : (s.setTim x).dev = s.dev ∧ (s.setTim x).time = s.time ∧ (s.setTim x).cycle = s.cycle ∧ (s.setTim x).tim = x ∧
    ∀ r i, (s.setTim x).reg r i = s.reg r i := ⟨rfl, rfl, rfl, rfl, fun _ _ => rfl⟩

theorem sealed_sendWrite (f : Fn) (a : Nat) (data : List Byte) (bad relaxed : Bool) : Sealed s (s.sendWrite f a data bad relaxed) := by
  unfold sendWrite
  dsimp only
  split
  · exact ⟨rfl, rfl, rfl, rfl, rfl, rfl⟩
  · split
    · exact ⟨rfl, rfl, rfl, rfl, rfl, rfl⟩
    · split <;> exact ⟨rfl, rfl, rfl, rfl, rfl, rfl⟩

/-- A posted write of a function itself waits, or goes out, or is dropped. -/
theorem posted_piece {j : Job} (p : Part) (device : j.span = none) (writes : j.write = true) (dep : j.dep = .other) :
    s.issuePiece j p = .hold ∨ ∃ t, s.issuePiece j p = .out t ∧ Sealed s t := by
  unfold issuePiece
  simp only [device, writes, dep]
  by_cases safe : s.isSafe = true
  · exact .inl (if_pos safe)
  · rw [if_neg safe]
    split
    · exact .inr ⟨_, rfl, rfl, rfl, rfl, rfl, rfl, rfl⟩
    · split
      · exact .inl rfl
      · exact .inr ⟨_, rfl, sealed_sendWrite s ..⟩

theorem sealed_runParts (l : List Part) {j : Job} (device : j.span = none) (writes : j.write = true) (dep : j.dep = .other) : Sealed s (s.runParts j l) := by
  induction l generalizing s j with
  | nil => exact ⟨rfl, rfl, rfl, rfl, rfl, rfl⟩
  | cons p l ih =>
    unfold runParts
    rcases posted_piece s p device writes dep with held | ⟨t, out, same⟩
    · rw [held]
      exact ⟨rfl, rfl, rfl, rfl, rfl, rfl⟩
    · rw [out]
      simp only [writes, dep, depWritten]
      exact same.trans (ih t device rfl rfl)

theorem sealed_pageUpdate (h : Link) : Sealed s (s.pageUpdate h) := by
  have mirror : Sealed s (TimeUnit.mirrored (TimeUnit.atPage s h) h) := ⟨rfl, rfl, rfl, rfl, rfl, rfl⟩
  rcases TimeUnit.pageUpdate_cases s h with plain | ⟨_, j, sent, device, writes, dep⟩
  · rw [plain]
    exact mirror
  · rw [sent]
    exact mirror.trans (sealed_runParts _ j.parts device writes dep)

theorem sealed_setTimState (v : Nat) : Sealed s (s.setTimState v) := by
  have pages (l : List Link) : ∀ u : State, Sealed u (l.foldl pageUpdate u) := by
    induction l with
    | nil => exact fun u => ⟨rfl, rfl, rfl, rfl, rfl, rfl⟩
    | cons h l ih => exact fun u => (sealed_pageUpdate u h).trans (ih _)
  unfold setTimState
  split
  · exact ⟨rfl, rfl, rfl, rfl, rfl, rfl⟩
  · exact ((show Sealed s (s.setFld F.TIM_STATE_STATE 0 v) from ⟨rfl, rfl, rfl, rfl, rfl, rfl⟩).trans (sealed_signals _ (Signals.signals_setEvt ..))).trans (pages ..)

/-! ### What the boot reads of the fuses (R476, R478, R482) -/

/-- The registers that the Tollhouse's check reads. -/
def checkRegs : List Reg := [.SEC_LC, .SEC_SVN, .SEC_KEYS]

/-- The boot reads the same of two states. -/
def Same (s t : State) : Prop := t.sec = s.sec ∧ ∀ r ∈ checkRegs, t.reg r 0 = s.reg r 0

theorem same_refl : Same s s := ⟨rfl, fun _ _ => rfl⟩

theorem Same.symm {s t : State} (h : Same s t) : Same t s := ⟨h.1.symm, fun r in_ => (h.2 r in_).symm⟩

theorem Same.trans {s t u : State} (first : Same s t) (then_ : Same t u) : Same s u :=
  ⟨then_.1.trans first.1, fun r in_ => (then_.2 r in_).trans (first.2 r in_)⟩

theorem same_setFld_other {f : Fld} (i v : Nat) (other : f.reg ∉ checkRegs) : Same s (s.setFld f i v) :=
  ⟨rfl, fun _ in_ => Fields.reg_setFld_other s fun e => other (e ▸ in_)⟩

section
variable {s} {t : State} (same : Same s t)
include same

theorem Same.fld {f : Fld} (in_ : f.reg ∈ checkRegs) : t.fld f 0 = s.fld f 0 := congrArg (fun w => getBits w f.lo f.width) (same.2 _ in_)

theorem Same.fuseA (w : Nat) : t.fuseA w = s.fuseA w := congrArg (fun x : Sec => SMap.get 0 x.fuseA w) same.1

theorem Same.fuseB (w : Nat) : t.fuseB w = s.fuseB w := congrArg (fun x : Sec => SMap.get 0 x.fuseB w) same.1

theorem Same.fuseVal (base n : Nat) : t.fuseVal base n = s.fuseVal base n := by
  unfold State.fuseVal
  simp only [same.fuseA]

theorem Same.lcLost : t.lcLost = s.lcLost := by
  unfold State.lcLost fuseDiffers
  simp only [same.fuseA, same.fuseB, same.fuseVal]

theorem Same.thOk (bs : List Byte) : t.thOk bs = s.thOk bs := by
  unfold State.thOk unrevoked thMinSvn
  rw [same.fld (f := F.SEC_KEYS_REVOKED) (by decide), same.fld (f := F.SEC_SVN_TH_MIN_SVN) (by decide)]

theorem Same.thCopy (b : BootFind) : t.thCopy b = s.thCopy b := by
  unfold State.thCopy
  rw [same.thOk, same.thOk]

theorem same_setReg (r : Reg) (w : Word) : Same (s.setReg r 0 w) (t.setReg r 0 w) := by
  refine ⟨same.1, fun r' in_ => ?_⟩
  rw [reg_setReg_if, reg_setReg_if, same.2 r' in_]

theorem same_setFld (f : Fld) (v : Nat) : Same (s.setFld f 0 v) (t.setFld f 0 v) := by
  refine ⟨same.1, fun r in_ => ?_⟩
  by_cases here : r = f.reg
  · subst here
    unfold setFld
    rw [reg_setReg, reg_setReg, same.2 _ in_]
  · rw [Fields.reg_setFld_other t here, Fields.reg_setFld_other s here, same.2 r in_]

theorem same_withSec (x : Sec) : Same { s with sec := x } { t with sec := x } := ⟨rfl, same.2⟩

theorem same_fuseEvent (e : FuseEv) : Same (s.fuseEvent e) (t.fuseEvent e) := by
  have state : t.lifecycle = s.lifecycle := same.fld (by decide)
  unfold fuseEvent
  cases e with
  | factory w v =>
    dsimp only
    rw [state, same.1]
    split
    · exact same_withSec same _
    · exact same
  | decay second w v =>
    cases second <;>
    · dsimp only
      rw [same.1]
      exact same_withSec same _

omit same in
theorem fuseVal_setFld (f : Fld) (i v base n : Nat) : (s.setFld f i v).fuseVal base n = s.fuseVal base n := rfl

omit same in
theorem fuseVal_setReg (r : Reg) (i : Nat) (w : Word) (base n : Nat) : (s.setReg r i w).fuseVal base n = s.fuseVal base n := rfl

theorem same_latchFuses : Same s.latchFuses t.latchFuses := by
  unfold latchFuses svnWords
  dsimp only
  simp only [fuseVal_setFld, same.fuseA, same.fuseB, same.fuseVal]
  exact same_setFld (same_setFld (same_setFld (same_setFld (same_setFld (same_setReg (same_setReg (same_setFld (same_setFld same _ _) _ _) _ _) _ _) _ _) _ _) _ _) _ _) _ _

end

theorem same_foldl {A : Type} {f : State → A → State} (step : ∀ u v a, Same u v → Same (f u a) (f v a)) (l : List A) {t : State} (h : Same s t) :
    Same (l.foldl f s) (l.foldl f t) := by
  induction l generalizing s t with
  | nil => exact h
  | cons a l ih => exact ih _ (step _ _ a h)

/-- A fault event changes nothing that the boot reads. -/
theorem same_raise (source code detail : Nat) : Same s (s.raise source code detail) := by
  have apart : ∀ r ∈ checkRegs, r ∉ TimeUnit.captureRegs := by decide
  exact ⟨(congrArg State.sec (Signals.signals_raise s source code detail) :), fun r in_ => (TimeUnit.calm_raise s source code detail).reg _ _ (apart r in_)⟩

theorem same_raises (l : List Nat) : Same s (l.foldl (fun u w => u.raise 0x0C 0x02 w) s) := by
  induction l generalizing s with
  | nil => exact same_refl s
  | cons w l ih => exact (same_raise s ..).trans (ih _)

/-- A part whose UDS is all ones is one for analysis. -/
def analysed (s : State) : State :=
  if s.fuseVal fuseUds 24 = 2 ^ 384 - 1 ∧ s.lifecycle < 3 then
    { s with sec := { s.sec with fuseA := burn s.sec.fuseA [(fuseLc, 5)], fuseB := burn s.sec.fuseB [(fuseLc, 5)] } }.setFld F.SEC_LC_STATE 0 3
  else s

variable {s} in
theorem same_analysed {t : State} (h : Same s t) : Same (analysed s) (analysed t) := by
  have state : t.lifecycle = s.lifecycle := h.fld (by decide)
  unfold analysed
  rw [state, h.fuseVal, h.1]
  split
  · exact same_setFld (same_withSec h _) _ _
  · exact h

variable {s} in
theorem same_readFuses {t : State} (h : Same s t) : Same s.readFuses t.readFuses := by
  have gaps : t.fuseGaps = s.fuseGaps := by
    unfold fuseGaps
    simp only [h.fuseB, h.1]
  have raised {u v : State} (same : Same u v) (k l : List Nat) : Same (k.foldl (fun u w => u.raise 0x0C 0x02 w) u).latchFuses
      (l.foldl (fun u w => u.raise 0x0C 0x02 w) v).latchFuses := same_latchFuses (((same_raises u k).symm.trans same).trans (same_raises v l))
  unfold readFuses
  dsimp only
  rw [gaps, h.1]
  exact same_analysed (raised (same_setFld (same_withSec h _) F.SEC_BOOT_STATUS_FUSE_REPAIRED (b2n !s.fuseGaps.isEmpty)) _ _)

/-- What the boot reads of the fuses is the same for two states of which it is. -/
theorem same_read {t : State} (h : Same s t) (l : List FuseEv) : Same (l.foldl fuseEvent s).readFuses (l.foldl fuseEvent t).readFuses :=
  same_readFuses (same_foldl s (fun _ _ a same => same_fuseEvent same a) l h)

/-! ### The boot's steps from the fuses to the links (R482) -/

/-- Only registers of `l`, the security unit, pins, the board record and what signals change are different. -/
structure Leaves (l : List Reg) (s t : State) : Prop where
  frame : t = { s with regs := t.regs, shadow := t.shadow, msix := t.msix, msixWait := t.msixWait, out := t.out, sec := t.sec, pins := t.pins, board := t.board }
  reg : ∀ r i, r ∉ l → t.reg r i = s.reg r i

/-- The registers that the boot writes before its image. -/
def earlyRegs : List Reg := ([.SEC_BOOT_STATUS, .SEC_LC, .TOP_GRADE, .SEC_UID, .SEC_UID_HI, .SEC_KEYS, .CFG_MIN_SVN, .SEC_SVN, .PWR_BOARD, .HEP_BIFUR,
  .HEP_MGMT_LINK, .MAC_PORT_CFG, .MAC_CTL, .HEP_LINK_STATE] : List Reg) ++ TimeUnit.captureRegs

/-- Those of the board and the links alone. -/
def boardRegs : List Reg := [.SEC_KEYS, .PWR_BOARD, .HEP_BIFUR, .HEP_MGMT_LINK, .MAC_PORT_CFG, .MAC_CTL, .HEP_LINK_STATE]

section
variable {s} {t u : State} {l : List Reg}

theorem leaves_refl : Leaves l s s := ⟨rfl, fun _ _ _ => rfl⟩

theorem Leaves.trans (first : Leaves l s t) (then_ : Leaves l t u) : Leaves l s u := by
  refine ⟨?_, fun r i out => (then_.reg r i out).trans (first.reg r i out)⟩
  rw [then_.frame, first.frame]

theorem Leaves.mono {l' : List Reg} (h : Leaves l s t) (sub : l ⊆ l') : Leaves l' s t := ⟨h.frame, fun r i out => h.reg r i fun in_ => out (sub in_)⟩

theorem Leaves.dev (h : Leaves l s t) : t.dev = s.dev := (congrArg State.dev h.frame :)

theorem leaves_setReg (r : Reg) (i : Nat) (w : Word) (in_ : r ∈ l) : Leaves l s (s.setReg r i w) :=
  ⟨rfl, fun _ _ out => Fields.reg_setReg_other s fun e => out (e ▸ in_)⟩

theorem leaves_setFld (f : Fld) (i v : Nat) (in_ : f.reg ∈ l) : Leaves l s (s.setFld f i v) := leaves_setReg _ _ _ in_

theorem leaves_foldl {A : Type} {f : State → A → State} (step : ∀ u a, Leaves l u (f u a)) (L : List A) : Leaves l s (L.foldl f s) := by
  induction L generalizing s with
  | nil => exact leaves_refl
  | cons a L ih => exact (step s a).trans ih

theorem leaves_raise (source code detail : Nat) (sub : TimeUnit.captureRegs ⊆ l) : Leaves l s (s.raise source code detail) := by
  refine ⟨?_, fun r i out => (TimeUnit.calm_raise s source code detail).reg r i fun in_ => out (sub in_)⟩
  have frame := Signals.signals_raise s source code detail
  generalize s.raise source code detail = v at *
  rw [Signals.SignalsOnly] at frame
  rw [frame]

theorem leaves_fuseEvent (e : FuseEv) : Leaves l s (s.fuseEvent e) := by
  unfold fuseEvent
  cases e with
  | factory w v =>
    dsimp only
    split
    · exact ⟨rfl, fun _ _ _ => rfl⟩
    · exact leaves_refl
  | decay second w v => cases second <;> exact ⟨rfl, fun _ _ _ => rfl⟩

theorem leaves_latchFuses : Leaves earlyRegs s s.latchFuses := by
  unfold latchFuses
  dsimp only
  refine .trans (.trans (.trans (.trans (.trans (.trans (.trans (.trans (leaves_setFld F.SEC_LC_STATE 0 _ (by decide)) (leaves_setFld F.TOP_GRADE_GRADE 0 _ (by decide)))
    (leaves_setReg .SEC_UID 0 _ (by decide))) (leaves_setReg .SEC_UID_HI 0 _ (by decide))) (leaves_setFld F.SEC_KEYS_REVOKED 0 _ (by decide)))
    (leaves_setFld F.CFG_MIN_SVN_MIN_SVN 0 _ (by decide))) (leaves_setFld F.SEC_SVN_TH_MIN_SVN 0 _ (by decide)))
    (leaves_setFld F.SEC_SVN_SVN_WORDS_LEFT 0 _ (by decide))) (leaves_setFld F.SEC_SVN_TH_WORDS_LEFT 0 _ (by decide))

theorem leaves_sec (x : Sec) : Leaves l s { s with sec := x } := ⟨rfl, fun _ _ _ => rfl⟩

theorem leaves_analysed : Leaves earlyRegs s (analysed s) := by
  unfold analysed
  split
  · exact (leaves_sec _).trans (leaves_setFld F.SEC_LC_STATE 0 3 (by decide))
  · exact leaves_refl

theorem leaves_readFuses : Leaves earlyRegs s s.readFuses := by
  have raised (k : List Nat) : Leaves earlyRegs s ((k.foldl (fun u w => u.raise 0x0C 0x02 w)
      (({ s with sec := { s.sec with fuseB := burn s.sec.fuseB s.fuseGaps } } : State).setFld F.SEC_BOOT_STATUS_FUSE_REPAIRED 0 (b2n !s.fuseGaps.isEmpty))).latchFuses) :=
    (((leaves_sec _).trans (leaves_setFld _ _ _ (by decide))).trans (leaves_foldl (fun u w => leaves_raise _ _ _ (by decide)) k)).trans leaves_latchFuses
  exact (raised _).trans leaves_analysed

theorem leaves_dice (bs : List Byte) : Leaves l s (s.dice bs) := by
  unfold dice
  dsimp only
  split <;> exact ⟨rfl, fun _ _ _ => rfl⟩

theorem leaves_bootBoard (b : BoardRec) : Leaves boardRegs s (s.bootBoard b) := by
  have pmd (u : State) (k v : Nat) : Leaves boardRegs u (u.setParam F.MAC_CTL_PMD_TYPE k v) := by
    unfold setParam spCut
    rw [if_neg (by decide)]
    exact leaves_setReg _ _ _ (by decide)
  have noted (u : State) : Leaves boardRegs u { u with board := b } := ⟨rfl, fun _ _ _ => rfl⟩
  unfold bootBoard
  dsimp only
  exact .trans (.trans (.trans (.trans (.trans (.trans (leaves_setFld F.HEP_BIFUR_CTL0_MODE 0 _ (by decide)) (leaves_setFld F.HEP_BIFUR_CTL1_MODE 0 _ (by decide)))
    (leaves_setFld F.HEP_MGMT_LINK_LINK 0 _ (by decide))) (leaves_setFld F.MAC_PORT_CFG_BREAKOUT 0 _ (by decide))) (leaves_setFld F.MAC_PORT_CFG_BREAKOUT 1 _ (by decide)))
    (leaves_foldl (fun u k => pmd u k _) _)) (noted _)

theorem leaves_bootLinks (train : Bool) : Leaves boardRegs s (s.bootLinks train) :=
  leaves_foldl (fun _ h => leaves_setFld (F.HEP_LINK_STATE_STATE h) 0 _ (show Reg.HEP_LINK_STATE ∈ boardRegs by decide)) _

end

/-- The state once the fuses are read. -/
def fused (b : BootFind) : State := (b.fuses.foldl fuseEvent s).readFuses.setFld F.SEC_BOOT_STATUS_WOKE 0 (b2n s.woke)

/-- The pins of the flash are driven. -/
def driven : State := { s with pins := { s.pins with qspiDriven := true } }

theorem leaves_driven {l : List Reg} : Leaves l s (driven s) := ⟨rfl, fun _ _ _ => rfl⟩

theorem same_driven : Same s (driven s) := ⟨rfl, fun _ _ => rfl⟩

/-- The state once the flash devices are known. -/
def found (b : BootFind) : State := (driven (fused s b)).setFld F.PWR_BOARD_FLASH_DEVS 0 b.devs.val

/-- The state once the Tollhouse runs. -/
def started (b : BootFind) (copy : Nat) (bs : List Byte) : State :=
  (((found s b).setFld F.SEC_BOOT_STATUS_TH_COPY 0 copy).setFld F.SEC_BOOT_STATUS_TH_SVN 0 (ImgHdr.ofBytes bs).svn.toNat).dice bs

/-- The state once the board's records are read. -/
def recorded (u : State) (b : BootFind) : State :=
  ((u.setFld F.SEC_KEYS_PRESENT 0 (u.bootKeys ((keyRecord b.keyRec).getD []))).setFld F.PWR_BOARD_KEYREC_OK 0 (b2n (keyRecord b.keyRec).isSome)).setFld
    F.PWR_BOARD_BOARD_OK 0 (b2n b.board.isSome)

theorem early_passes {b : BootFind} {copy : Nat} {bs : List Byte} (known : (fused s b).lcLost = false) (all : b.devs.val = 4)
    (good : (found s b).thCopy b = some (copy, bs)) : s.bootEarly b = ((recorded (started s b copy bs) b).bootBoard (b.board.getD {})).bootLinks true := by
  have pick : (if b.devs.val < 4 then none else (found s b).thCopy b) = some (copy, bs) := (if_neg (by omega)).trans good
  unfold recorded started found driven fused at *
  unfold bootEarly
  dsimp only at *
  rw [if_neg (Bool.eq_false_iff.1 known)]
  simp only [pick]

theorem early_lost {b : BootFind} (lost : (fused s b).lcLost = true) : s.bootEarly b = (fused s b).bootFail := by
  unfold fused at *
  unfold bootEarly
  dsimp only
  rw [if_pos lost]

theorem early_fails {b : BootFind} (known : (fused s b).lcLost = false) (bad : b.devs.val < 4 ∨ (found s b).thCopy b = none) :
    s.bootEarly b = (found s b).bootFail := by
  have pick : (if b.devs.val < 4 then none else (found s b).thCopy b) = none := by
    rcases bad with few | none_
    · exact if_pos few
    · rw [none_, ite_self]
  unfold found driven fused at *
  unfold bootEarly
  dsimp only at *
  rw [if_neg (Bool.eq_false_iff.1 known)]
  simp only [pick]

/-! ### The PLL's lock (R349, R517) -/

/-- The core clocks start. -/
def ticking (late : Bool) (phase : Fin 32) : State :=
  let u := s.aonPass (1250 + b2n late)
  let v : State := { u with dev := .booting, cycle := 0, aonPhase := phase.val, time := if u.woke then u.wokenTime else 0 }
  v.setTim { v.tim with prev := v.time }

/-- The time unit as it holds the time since Standby's entry. -/
def heldTim (x : Tim) : Tim := { x with holdStart := x.atStandby, servoPs := min (x.servoPs + 80000) 0xFFFFFFFE }

/-- The traceability state that the counter starts in. -/
def stated (u : State) : State :=
  if u.timState = 0 then u else (u.setTim (heldTim u.tim)).setTimState 2

/-- The state in which the boot begins. -/
def locked (late : Bool) (phase : Fin 32) : State := (stated (ticking s late phase)).setFld F.TOP_CLK_STATUS_PLL_LOCK 0 1

theorem ticking_values (late : Bool) (phase : Fin 32) : (ticking s late phase).dev = .booting ∧ (ticking s late phase).cycle = 0 ∧
    (ticking s late phase).aonPhase = phase.val ∧ (ticking s late phase).sec = s.sec ∧ (ticking s late phase).slots = s.slots ∧
    (∀ r i, r ≠ .TOP_UPTIME → (ticking s late phase).reg r i = s.reg r i) ∧
    (ticking s late phase).reg .TOP_UPTIME 0 = s.reg .TOP_UPTIME 0 + (if late = true then 1251 else 1250) := by
  refine ⟨rfl, rfl, rfl, rfl, rfl, fun r i other => ?_, ?_⟩
  · exact Fields.reg_setReg_other s other
  · refine (reg_setReg s ..).trans ?_
    cases late <;> rfl

theorem time_ticking (late : Bool) (phase : Fin 32) : (s.woke = false → (ticking s late phase).time = 0) ∧
    (s.woke = true → (ticking s late phase).time = BitVec.ofNat 96 (s.tim.atStandby.toNat * 2 ^ 32 +
      (s.tim.aonCount + (if late = true then 1251 else 1250)) * 40 * 2 ^ 32 * s.fld F.TIM_INCR_INCR 0 / 5368709120)) := by
  have woke : (s.aonPass (1250 + b2n late)).woke = s.woke := congrArg (· != 0) (Fields.fld_setReg_other s (by decide))
  have incr : (s.aonPass (1250 + b2n late)).fld F.TIM_INCR_INCR 0 = s.fld F.TIM_INCR_INCR 0 := Fields.fld_setReg_other s (by decide)
  have shown : (ticking s late phase).time = if s.woke = true then (s.aonPass (1250 + b2n late)).wokenTime else 0 := by
    rw [← woke]
    rfl
  rw [shown]
  constructor
  · intro asleep
    rw [asleep]
    rfl
  · intro awake
    rw [if_pos awake]
    unfold wokenTime
    rw [incr]
    cases late <;> rfl

/-- The traceability state at the lock: HOLDOVER from Standby's entry, unless it was FREE. -/
theorem stated_values (u : State) : (stated u).dev = u.dev ∧ (stated u).time = u.time ∧ (stated u).cycle = u.cycle ∧ Sealed u (stated u) ∧
    (∀ r i, r ∉ .TIM_STATE :: .TIM_EVT :: TimeUnit.pageRegs → (stated u).reg r i = u.reg r i) ∧ (u.timState = 0 → (stated u).timState = 0) ∧
    (u.timState ≠ 0 → (stated u).timState = 2 ∧ (stated u).tim.holdStart = u.tim.atStandby ∧ (stated u).tim.servoPs = min (u.tim.servoPs + 80000) 0xFFFFFFFE) := by
  unfold stated
  by_cases free : u.timState = 0
  · rw [if_pos free]
    exact ⟨rfl, rfl, rfl, ⟨rfl, rfl, rfl, rfl, rfl, rfl⟩, fun _ _ _ => rfl, fun _ => free, fun held => absurd free held⟩
  · rw [if_neg free]
    have held := sealed_setTim u (heldTim u.tim)
    have calm := TimeUnit.calm_setTimState (u.setTim (heldTim u.tim)) 2
    have final := TimeUnit.timState_setTimState (u.setTim (heldTim u.tim)) (v := 2) (by decide)
    obtain ⟨dev, time, cycle, tim, regs⟩ := setTim_values u (heldTim u.tim)
    generalize u.setTim (heldTim u.tim) = v at *
    refine ⟨calm.dev.trans dev, calm.time.trans time, calm.cycle.trans cycle, held.trans (sealed_setTimState ..),
      fun r i out => (calm.reg r i out).trans (regs r i), fun zero => absurd zero free, fun _ => ⟨final, ?_, ?_⟩⟩
    · rw [calm.tim, tim]
      rfl
    · rw [calm.tim, tim]
      rfl

theorem lock_runs {late : Bool} {l : LockFind} (locking : s.dev = .locking) (here : s.refLost = false) (eth : s.ethLost = false) :
    exec (.pllLock late l) s = .next ((locked s late l.phase).bootEarly l.boot) := by
  have on : ¬(s.dev ≠ .locking ∨ s.refLost = true) := by rw [locking, here]; decide
  have clear : ¬(locked s late l.phase).ethLost = true := by
    obtain ⟨_, _, _, ⟨_, _, _, same⟩, _⟩ := stated_values (ticking s late l.phase)
    rw [show (locked s late l.phase).ethLost = s.ethLost from same, eth]
    decide
  refine congrArg Host.Outcome.next ((if_neg on).trans ?_)
  unfold locked stated ticking heldTim at *
  dsimp only at *
  rw [if_neg clear]

/-! ### The outcome of the boot's first steps -/

theorem leaves_fused (b : BootFind) : Leaves earlyRegs s (fused s b) :=
  ((leaves_foldl (fun _ e => leaves_fuseEvent e) _).trans leaves_readFuses).trans (leaves_setFld _ _ _ (by decide))

theorem leaves_found (b : BootFind) : Leaves earlyRegs s (found s b) :=
  ((leaves_fused s b).trans (leaves_driven _)).trans (leaves_setFld _ _ _ (by decide))

theorem leaves_board {u : State} (b : BoardRec) (train : Bool) : Leaves earlyRegs u ((u.bootBoard b).bootLinks train) :=
  ((leaves_bootBoard b).trans (leaves_bootLinks train)).mono (by decide)

theorem leaves_recorded (u : State) (b : BootFind) : Leaves boardRegs u (recorded u b) :=
  ((leaves_setFld F.SEC_KEYS_PRESENT 0 _ (by decide)).trans (leaves_setFld F.PWR_BOARD_KEYREC_OK 0 _ (by decide))).trans
    (leaves_setFld F.PWR_BOARD_BOARD_OK 0 _ (by decide))

theorem sec_setFld (f : Fld) (i v : Nat) : (s.setFld f i v).sec = s.sec := rfl

theorem sec_recorded (u : State) (b : BootFind) : (recorded u b).sec = u.sec := by
  unfold recorded
  rw [sec_setFld, sec_setFld, sec_setFld]

theorem leaves_started (b : BootFind) (copy : Nat) (bs : List Byte) : Leaves earlyRegs s (started s b copy bs) :=
  (((leaves_found s b).trans (leaves_setFld F.SEC_BOOT_STATUS_TH_COPY 0 _ (by decide))).trans (leaves_setFld F.SEC_BOOT_STATUS_TH_SVN 0 _ (by decide))).trans
    (leaves_dice bs)

theorem sec_board (u : State) (b : BoardRec) (train : Bool) : ((u.bootBoard b).bootLinks train).sec = u.sec := by
  have links (v : State) : (v.bootLinks train).sec = v.sec := by
    unfold bootLinks
    exact Macs.foldl_keeps State.sec (fun w h => (rfl : (w.setLinkState h _).sec = w.sec)) _ v
  have board : (u.bootBoard b).sec = u.sec := by
    unfold bootBoard
    dsimp only
    refine (Macs.foldl_keeps State.sec (fun v k => ?_) _ _).trans rfl
    unfold setParam spCut
    split <;> rfl
  exact (links _).trans board

theorem same_fused {t : State} (h : Same s t) (b : BootFind) : Same (b.fuses.foldl fuseEvent s).readFuses (fused t b) :=
  (same_read s h b.fuses).trans (same_setFld_other _ _ _ (by decide))

theorem same_found {t : State} (h : Same s t) (b : BootFind) : Same (b.fuses.foldl fuseEvent s).readFuses (found t b) :=
  ((same_fused s h b).trans (same_driven _)).trans (same_setFld_other _ _ _ (by decide))

/-- A state as the boot reads it, whatever the boot's outcome. -/
theorem early_leaves (b : BootFind) : ∃ t, Leaves earlyRegs s t ∧ (s.bootEarly b = t ∨ s.bootEarly b = { t with dev := .bootFailed }) := by
  by_cases lost : (fused s b).lcLost = true
  · exact ⟨_, (leaves_fused s b).trans (leaves_board {} false), .inr (early_lost s lost)⟩
  · have known := Bool.eq_false_iff.2 lost
    by_cases bad : b.devs.val < 4 ∨ (found s b).thCopy b = none
    · exact ⟨_, (leaves_found s b).trans (leaves_board {} false), .inr (early_fails s known bad)⟩
    · obtain ⟨all, some_⟩ := not_or.1 bad
      obtain ⟨⟨copy, bs⟩, good⟩ := Option.ne_none_iff_exists'.1 some_
      have four : b.devs.val = 4 := by omega
      exact ⟨_, ((leaves_started s b copy bs).trans ((leaves_recorded _ b).mono (by decide))).trans (leaves_board _ true), .inl (early_passes s known four good)⟩

theorem digest_dice (bs : List Byte) : (s.dice bs).sec.thDigest = Config.sha384 (ImgFile.signed { bytes := bs }) := by
  unfold dice
  dsimp only
  split <;> rfl

theorem fld_dice (bs : List Byte) (f : Fld) (i : Nat) : (s.dice bs).fld f i = s.fld f i :=
  congrArg (fun w => getBits w f.lo f.width) ((leaves_dice (l := []) bs).reg _ _ List.not_mem_nil)

theorem copy_started (b : BootFind) {copy : Nat} (bs : List Byte) (small : copy < 2) : (started s b copy bs).fld F.SEC_BOOT_STATUS_TH_COPY 0 = copy := by
  unfold started
  rw [fld_dice]
  exact (Fields.fld_setFld_apart _ (by decide)).trans ((Fields.fld_setFld_self _ (by decide)).trans (Nat.mod_eq_of_lt small))

theorem svn_started (b : BootFind) (copy : Nat) (bs : List Byte) : (started s b copy bs).fld F.SEC_BOOT_STATUS_TH_SVN 0 = (ImgHdr.ofBytes bs).svn.toNat := by
  unfold started
  rw [fld_dice]
  generalize (ImgHdr.ofBytes bs).svn = v
  exact (Fields.fld_setFld_self _ (by decide)).trans (Nat.mod_eq_of_lt v.isLt)

theorem digest_started (b : BootFind) (copy : Nat) (bs : List Byte) : (started s b copy bs).sec.thDigest = Config.sha384 (ImgFile.signed { bytes := bs }) := by
  unfold started
  exact digest_dice ..

/-- A boot whose Tollhouse passes goes on. -/
theorem early_good {b : BootFind} {copy : Nat} {bs : List Byte} (known : (fused s b).lcLost = false) (all : b.devs.val = 4)
    (good : (found s b).thCopy b = some (copy, bs)) (small : copy < 2) : (s.bootEarly b).dev = s.dev ∧
      (s.bootEarly b).fld F.SEC_BOOT_STATUS_TH_COPY 0 = copy ∧ (s.bootEarly b).fld F.SEC_BOOT_STATUS_TH_SVN 0 = (ImgHdr.ofBytes bs).svn.toNat ∧
      (s.bootEarly b).sec.thDigest = Config.sha384 (ImgFile.signed { bytes := bs }) := by
  have started_ := leaves_started s b copy bs
  have digest := digest_started s b copy bs
  have copy_ := copy_started s b bs small
  have svn := svn_started s b copy bs
  rw [early_passes s known all good]
  generalize started s b copy bs = u at *
  have tail : Leaves boardRegs u (((recorded u b).bootBoard (b.board.getD {})).bootLinks true) :=
    ((leaves_recorded _ b).trans (leaves_bootBoard _)).trans (leaves_bootLinks true)
  have sec : (((recorded u b).bootBoard (b.board.getD {})).bootLinks true).sec = u.sec := (sec_board (recorded u b) (b.board.getD {}) true).trans (sec_recorded u b)
  generalize ((recorded u b).bootBoard (b.board.getD {})).bootLinks true = t at *
  have status (f : Fld) (here : f.reg = .SEC_BOOT_STATUS) : t.fld f 0 = u.fld f 0 := by
    unfold fld
    rw [tail.reg _ _ (by rw [here]; decide)]
  exact ⟨tail.dev.trans started_.dev, (status _ rfl).trans copy_, (status _ rfl).trans svn, (congrArg Sec.thDigest sec).trans digest⟩

/-- What the lock's clauses say, whatever the boot finds. -/
theorem lock_values {late : Bool} {l : LockFind} {t : State} (ran : t = (locked s late l.phase).bootEarly l.boot) : t.cycle = 0 ∧ t.aonPhase = l.phase.val ∧
    t.reg .TOP_UPTIME 0 = s.reg .TOP_UPTIME 0 + (if late = true then 1251 else 1250) ∧ t.fld F.TOP_CLK_STATUS_PLL_LOCK 0 = 1 ∧
    t.time = (ticking s late l.phase).time ∧ (s.timState = 0 → t.timState = 0) ∧ (s.timState ≠ 0 → t.timState = 2 ∧
      t.tim.holdStart = s.tim.atStandby ∧ t.tim.servoPs = min (s.tim.servoPs + 80000) 0xFFFFFFFE) ∧ t.slots = s.slots := by
  obtain ⟨dev, cycle, phase, sec, slots, regs, uptime⟩ := ticking_values s late l.phase
  obtain ⟨_, time', cycle', ⟨_, slots', phase', _⟩, regs', free, held⟩ := stated_values (ticking s late l.phase)
  have state : (ticking s late l.phase).timState = s.timState := congrArg (fun w => getBits w 0 2) (regs .TIM_STATE 0 (by decide))
  have standby : (ticking s late l.phase).tim.atStandby = s.tim.atStandby ∧ (ticking s late l.phase).tim.servoPs = s.tim.servoPs := ⟨rfl, rfl⟩
  have lock : (locked s late l.phase).fld F.TOP_CLK_STATUS_PLL_LOCK 0 = 1 := Fields.fld_setFld_self _ (by decide)
  rw [state, standby.1, standby.2] at held
  rw [state] at free
  have regs'' : ∀ r i, r ≠ .TOP_CLK_STATUS → (locked s late l.phase).reg r i = (stated (ticking s late l.phase)).reg r i := fun r i other =>
    Fields.reg_setFld_other _ other
  have frame : (locked s late l.phase).cycle = (stated (ticking s late l.phase)).cycle ∧ (locked s late l.phase).aonPhase = (stated (ticking s late l.phase)).aonPhase ∧
    (locked s late l.phase).time = (stated (ticking s late l.phase)).time ∧ (locked s late l.phase).tim = (stated (ticking s late l.phase)).tim ∧
    (locked s late l.phase).slots = (stated (ticking s late l.phase)).slots := ⟨rfl, rfl, rfl, rfl, rfl⟩
  obtain ⟨cycle'', phase'', time'', tim'', slots''⟩ := frame
  obtain ⟨u, leaves, is⟩ := early_leaves (locked s late l.phase) l.boot
  have values : t.cycle = u.cycle ∧ t.aonPhase = u.aonPhase ∧ t.time = u.time ∧ t.tim = u.tim ∧ t.slots = u.slots ∧ t.regs = u.regs := by
    rcases is with is | is <;>
    · rw [ran, is]
      exact ⟨rfl, rfl, rfl, rfl, rfl, rfl⟩
  obtain ⟨cycle_, phase_, time_, tim_, slots_, regs_⟩ := values
  have kept : ∀ r i, r ∉ earlyRegs → t.reg r i = (locked s late l.phase).reg r i := fun r i out => (reg_congr regs_ r i).trans (leaves.reg r i out)
  generalize ticking s late l.phase = a at *
  generalize stated a = b at *
  generalize locked s late l.phase = c at *
  have hold : t.timState = b.timState := congrArg (fun w => getBits w 0 2) ((kept .TIM_STATE 0 (by decide)).trans (regs'' _ _ (by decide)))
  have whole : t.cycle = c.cycle ∧ t.aonPhase = c.aonPhase ∧ t.time = c.time ∧ t.tim = c.tim ∧ t.slots = c.slots :=
    ⟨cycle_.trans (congrArg State.cycle leaves.frame :), phase_.trans (congrArg State.aonPhase leaves.frame :), time_.trans (congrArg State.time leaves.frame :),
      tim_.trans (congrArg State.tim leaves.frame :), slots_.trans (congrArg State.slots leaves.frame :)⟩
  obtain ⟨cycle_, phase_, time_, tim_, slots_⟩ := whole
  refine ⟨cycle_.trans (cycle''.trans (cycle'.trans cycle)), phase_.trans (phase''.trans (phase'.trans phase)), ?_, ?_, time_.trans (time''.trans time'),
    fun zero => hold.trans (free zero), fun other => ?_, slots_.trans (slots''.trans (slots'.trans slots))⟩
  · exact (kept .TOP_UPTIME 0 (by decide)).trans ((regs'' _ _ (by decide)).trans ((regs' _ _ (by decide)).trans uptime))
  · exact (congrArg (fun w => getBits w 0 1) (kept .TOP_CLK_STATUS 0 (by decide))).trans lock
  · obtain ⟨state, start, servo⟩ := held other
    rw [tim_, tim'', start, servo]
    exact ⟨hold.trans state, rfl, rfl⟩

theorem same_locked (late : Bool) (phase : Fin 32) : Same s (locked s late phase) := by
  obtain ⟨_, _, _, sec, _, regs, _⟩ := ticking_values s late phase
  obtain ⟨_, _, _, ⟨sec', _⟩, regs', _⟩ := stated_values (ticking s late phase)
  have apart : ∀ r ∈ checkRegs, r ≠ .TOP_UPTIME ∧ r ∉ .TIM_STATE :: .TIM_EVT :: TimeUnit.pageRegs ∧ r ≠ .TOP_CLK_STATUS := by decide
  refine ⟨sec'.trans sec, fun r in_ => ?_⟩
  obtain ⟨uptime, state, lock⟩ := apart r in_
  exact (Fields.reg_setFld_other _ lock).trans ((regs' r 0 state).trans (regs r 0 uptime))

theorem dev_locked (late : Bool) (phase : Fin 32) : (locked s late phase).dev = .booting := by
  obtain ⟨dev, _⟩ := ticking_values s late phase
  obtain ⟨dev', _⟩ := stated_values (ticking s late phase)
  exact dev'.trans dev

/-- A boot without a Tollhouse ends. -/
theorem early_bad {b : BootFind} (bad : (fused s b).lcLost = true ∨ b.devs ≠ 4 ∨ (found s b).thCopy b = none) : (s.bootEarly b).dev = .bootFailed := by
  by_cases lost : (fused s b).lcLost = true
  · rw [early_lost s lost]
    rfl
  · have none_ : b.devs.val < 4 ∨ (found s b).thCopy b = none := by
      rcases bad with h | few | none_
      · exact absurd h lost
      · exact .inl (by have := b.devs.isLt; omega)
      · exact .inr none_
    rw [early_fails s (Bool.eq_false_iff.2 lost) none_]
    rfl

/-! ### The image (R482, R516) -/

/-- The relays answer. -/
def readied : State := (List.range 8).foldl (fun u n => u.setFld F.RLC_STATUS_READY n 1) s

theorem readied_frame : readied s = { s with regs := (readied s).regs } := by
  have fold (l : List Nat) : ∀ u : State, l.foldl (fun u n => u.setFld F.RLC_STATUS_READY n 1) u =
      { u with regs := (l.foldl (fun u n => u.setFld F.RLC_STATUS_READY n 1) u).regs } := by
    induction l with
    | nil => exact fun _ => rfl
    | cons n l ih =>
      intro u
      show l.foldl _ (u.setFld F.RLC_STATUS_READY n 1) = _
      rw [ih]
      rfl
  exact fold _ s

theorem reg_readied {r : Reg} (i : Nat) (other : r ≠ .RLC_STATUS) : (readied s).reg r i = s.reg r i :=
  Macs.foldl_keeps (fun u : State => u.reg r i) (fun u _ => Fields.reg_setFld_other u other) _ s

theorem fld_readied {f : Fld} (i : Nat) (other : f.reg ≠ .RLC_STATUS) : (readied s).fld f i = s.fld f i :=
  congrArg (fun w => getBits w f.lo f.width) (reg_readied s i other)

theorem ready_readied {n : Nat} (inside : n < 8) : (readied s).fld F.RLC_STATUS_READY n = 1 := by
  refine Macs.foldl_of_mem (P := fun u : State => u.fld F.RLC_STATUS_READY n = 1) s (fun u => Fields.fld_setFld_self u (by decide)) (fun u k set => ?_)
    (.inl (List.mem_range.2 inside))
  by_cases same : n = k
  · subst same
    exact Fields.fld_setFld_self u (by decide)
  · exact (fld_setFld_ne u 1 (by decide) (.inr (.inl same))).trans set

theorem stageCheck_readied (f : ImgFile) : (readied s).stageCheck f = s.stageCheck f := by
  have slots : (readied s).slots = s.slots := (congrArg State.slots (readied_frame s) :)
  unfold stageCheck imageRole keyLoaded readLen lifecycle
  simp only [slots, fld_readied s 0 (f := F.TOP_ID_STEPPING) (by decide), fld_readied s 0 (f := F.SEC_LC_STATE) (by decide),
    fld_readied s 0 (f := F.SEC_KEYS_PRESENT) (by decide), fld_readied s 0 (f := F.SEC_KEYS_REVOKED) (by decide),
    fld_readied s 0 (f := F.CFG_MIN_SVN_MIN_SVN) (by decide)]

theorem bootPick_readied (x : List (Fin 4 × ImgFile)) : (readied s).bootPick x = s.bootPick x := by
  unfold bootPick
  simp only [stageCheck_readied, fld_readied s 0 (f := F.TOP_STRAP_BOOT_SEL) (by decide)]

/-- What the boot takes passes the staging checks, and stands in a slot that BOOT_SEL names. -/
theorem bootPick_passes {x : List (Fin 4 × ImgFile)} {k : Nat} {f : ImgFile} (pick : s.bootPick x = some (k, f)) :
    k ∈ bootSlots (s.fld F.TOP_STRAP_BOOT_SEL 0) ∧ s.stageCheck f = 0 := by
  have pass := List.find?_some pick
  obtain ⟨j, slot, held⟩ := List.mem_filterMap.1 (List.mem_of_find?_eq_some pick)
  obtain ⟨e, _, is⟩ := Option.map_eq_some_iff.1 held
  obtain ⟨rfl, rfl⟩ := Prod.mk.inj is
  exact ⟨slot, beq_iff_eq.1 pass⟩

/-- The MACs are placed (R298). -/
def placed : State := (List.range 16).foldl placeMac s

theorem placed_keeps {A : Type} (v : State → A) (keeps : ∀ (u : State) r h m, v { u with regs := r, shadow := h, macs := m } = v u) : v (placed s) = v s :=
  Macs.foldl_keeps v (fun u m => keeps u (u.placeMac m).regs (u.placeMac m).shadow (u.placeMac m).macs) _ s

theorem reg_placed {r : Reg} (i : Nat) (other : r ≠ .MAC_CTL ∧ r ≠ .MAC_STATUS) : (placed s).reg r i = s.reg r i := by
  refine Macs.foldl_keeps (fun u : State => u.reg r i) (fun u m => ?_) _ s
  unfold placeMac
  dsimp only
  refine (Fields.reg_setFld_other _ other.2).trans ((show _ = ((u.epoch .portRestart .MAC_CTL m).setFld F.MAC_STATUS_LANES m _).reg r i from rfl).trans ?_)
  exact (Fields.reg_setFld_other _ other.2).trans (Fields.reg_epoch_other u other.1)

theorem boot_none {x : List (Fin 4 × ImgFile)} (boots : s.dev = .booting) (none_ : s.bootPick x = none) : ∃ t, exec (.bootImageActive x) s = .next t ∧
    t.dev = .running ∧ t.slots = s.slots ∧ t.Event .SEC_EVT 0 1 ∧ ∀ n, n < 8 → t.fld F.RLC_STATUS_READY n = 1 := by
  have runs : exec (.bootImageActive x) s = .next { placed ((readied s).setEvt .SEC_EVT .SEC_EVT_EN .SEC_MSIX_VEC 0 1) with dev := .running } := by
    refine congrArg _ ((if_neg (not_not_intro boots)).trans ?_)
    unfold bootImage
    simp only [show ((List.range 8).foldl (fun u n => u.setFld F.RLC_STATUS_READY n 1) s).bootPick x = none from (bootPick_readied s x).trans none_]
    rfl
  have told := Signals.signals_setEvt (readied s) .SEC_EVT .SEC_EVT_EN .SEC_MSIX_VEC 0 1
  have event : ((readied s).setEvt .SEC_EVT .SEC_EVT_EN .SEC_MSIX_VEC 0 1).Event .SEC_EVT 0 1 := Fields.event_setEvt _ ⟨by decide, by decide⟩
  have ready (n : Nat) : ((readied s).setEvt .SEC_EVT .SEC_EVT_EN .SEC_MSIX_VEC 0 1).fld F.RLC_STATUS_READY n = (readied s).fld F.RLC_STATUS_READY n :=
    Fields.fld_setEvt_other _ (by decide)
  generalize (readied s).setEvt .SEC_EVT .SEC_EVT_EN .SEC_MSIX_VEC 0 1 = u at *
  have slots : u.slots = s.slots := (congrArg State.slots told :).trans (congrArg State.slots (readied_frame s) :)
  have slots' := (placed_keeps u State.slots fun _ _ _ _ => rfl).trans slots
  have event' := Fields.event_congr (s := u) (t := placed u) (reg_placed u 0 (by decide)) event
  have ready' (n : Nat) : (placed u).fld F.RLC_STATUS_READY n = u.fld F.RLC_STATUS_READY n :=
    congrArg (fun w => getBits w 0 1) (reg_placed u (r := .RLC_STATUS) n (by decide))
  generalize placed u = v at *
  exact ⟨_, runs, rfl, slots', event', fun n inside => (ready' n).trans ((ready n).trans (ready_readied s inside))⟩

/-- The boot's image, loaded. -/
def booted (k : Nat) (i : Image) : State :=
  { ((((readied s).setFld F.SEC_BOOT_STATUS_IMAGE_OK 0 1).setFld F.SEC_BOOT_STATUS_IMAGE_INDEX 0 k).setSlots { active := some i }).showSlots.loadImage none i true with
    wakeLow := false }

theorem boot_image {x : List (Fin 4 × ImgFile)} {k : Nat} {f : ImgFile} (boots : s.dev = .booting) (pick : s.bootPick x = some (k, f)) :
    ∃ t, exec (.bootImageActive x) s = .next t ∧ t.dev = .running ∧ t.slots = { active := some f.image } ∧ t.wakeLow = false := by
  have runs : exec (.bootImageActive x) s = .next { placed (booted s k f.image) with dev := .running } := by
    refine congrArg _ ((if_neg (not_not_intro boots)).trans ?_)
    unfold bootImage
    simp only [show ((List.range 8).foldl (fun u n => u.setFld F.RLC_STATUS_READY n 1) s).bootPick x = some (k, f) from (bootPick_readied s x).trans pick]
    rfl
  have loaded := ImageLoads.kept_loadImage (s := ((((readied s).setFld F.SEC_BOOT_STATUS_IMAGE_OK 0 1).setFld F.SEC_BOOT_STATUS_IMAGE_INDEX 0 k).setSlots
    { active := some f.image }).showSlots) none f.image true false
  have slots : (booted s k f.image).slots = { active := some f.image } := loaded.1
  have wake : (booted s k f.image).wakeLow = false := rfl
  generalize booted s k f.image = u at *
  have slots' := (placed_keeps u State.slots fun _ _ _ _ => rfl).trans slots
  have wake' := (placed_keeps u State.wakeLow fun _ _ _ _ => rfl).trans wake
  generalize placed u = v at *
  exact ⟨_, runs, rfl, slots', wake'⟩

/-- Settles O59: what a reset leaves and what the release sets; the lock and the boot's steps, each of which reads the fuses alone of what it
finds; the image, whose load keeps the slots; and the clocks. -/
theorem resetAndBoot : Obligations.ResetAndBoot := by
  unfold Obligations.ResetAndBoot
  intro s st late l
  dsimp only
  refine ⟨?_, fun waits => ?_, fun locking here eth => ?_, fun boots x none_ => boot_none s boots none_, fun boots x k f pick => ?_, ?_,
    fun run here => refclk_lost s run here, fun run lost => refclk_returns s run lost, fun run here => ethRefclk_lost s run here, rfl⟩
  · exact ⟨_, _, rfl, rfl, rfl, rfl, lost_blank s .inReset, lost_blank s .off, fresh_blank s .inReset, fresh_blank s .off⟩
  · obtain ⟨locking, _⟩ := SecurityUnit.released_values s (strapWord st)
    have strap : (s.released (strapWord st)).reg .TOP_STRAP 0 = strapWord st := (reg_released s _ 0 (by decide)).trans (reg_setReg ..)
    obtain ⟨host, sel⟩ := strap_fields st strap
    obtain ⟨cool, hot⟩ := limits_released s (strapWord st)
    exact ⟨_, release_runs s st waits, locking, lost_released s _, fresh_released s _, host, sel, cool, hot⟩
  · obtain ⟨cycle, phase, uptime, lock, time, free, held, slots⟩ := lock_values s (late := late) (l := l) rfl
    obtain ⟨asleep, awake⟩ := time_ticking s late l.phase
    have same := same_locked s late l.phase
    have fused_ := same_fused s same l.boot
    have found_ := same_found s same l.boot
    refine ⟨_, lock_runs s locking here eth, cycle, phase, uptime, lock, fun h => time.trans (asleep h), fun h => time.trans (awake h), free, held, ?_, ?_⟩
    · intro c bs small good
      obtain ⟨known, all, copy⟩ := good
      obtain ⟨dev, copy', svn, digest⟩ := early_good (locked s late l.phase) (fused_.lcLost.trans known) (congrArg Fin.val all) ((found_.thCopy _).trans copy) small
      exact ⟨dev.trans (dev_locked s late l.phase), copy', svn, digest⟩
    · intro bad
      have failed := early_bad (locked s late l.phase) (b := l.boot) (bad.imp (fused_.lcLost.trans ·) (Or.imp id ((found_.thCopy _).trans ·)))
      refine ⟨failed, slots, ?_⟩
      unfold faultNLow
      rw [failed]
      exact Bool.or_true _
  · obtain ⟨slot, pass⟩ := bootPick_passes s pick
    exact ⟨slot, pass, boot_image s boots pick⟩
  · intro d other at_ x
    refine congrArg _ (if_pos ?_)
    rw [at_]
    rcases other with rfl | rfl | rfl | rfl <;> decide

end Sys2Proof.Machine.Boots
end

section
/-!
PROOFS. A frame from the MAC to the Pier's pipeline (R34, R229, R263, R304–R306, R317).
-/

namespace Sys2Proof.Machine.Receiving
open State

variable (s : State)

/-! ### Counters -/

/-- Counter `i` of MAC `m`. -/
def count (m i : Nat) : Word := SMap.get 0 s.macCnt (i + 32 * m)

theorem count_macCount (m n i k : Nat) : count (s.macCount m n k) m i = if i = n then count s m i + BitVec.ofNat 64 k else count s m i := by
  unfold count macCount
  by_cases same : i = n
  · rw [if_pos same, same]
    exact SMap.get_put_self ..
  · rw [if_neg same]
    exact SMap.get_put_ne _ _ _ _ (by omega)

/-- A count changes the counters alone. -/
theorem macCount_only (m n k : Nat) : ∃ c, s.macCount m n k = { s with macCnt := c } := ⟨_, rfl⟩

theorem fifo_macCount (m n k : Nat) : (s.macCount m n k).fifo = s.fifo ∧ (s.macCount m n k).holdQ = s.holdQ := by
  obtain ⟨c, counted⟩ := macCount_only s m n k
  rw [counted]
  exact ⟨rfl, rfl⟩

/-! ### The state in which a MAC takes a frame (R304) -/

section
variable (m : MacId) (lane : Fin 8) (cor unc : Byte)

/-- The frame's codewords, counted. -/
def heard : State := (s.macCount m.val 17 cor.toNat).macCount m.val 18 unc.toNat

/-- The registers whose waiting values a received frame takes. -/
def rxBounds : List (Boundary × Reg) := [(.macRxOrChecked, .MAC_CTL), (.macRx, .MAC_PCP_MAP), (.macRx, .MAC_TAG_CTL), (.macFrame, .MAC_TAG_CTL),
  (.macRx, .MAC_SECY_CTL), (.macFrame, .MAC_SECY_CTL)]

/-- The state in which the frame is checked. -/
def atRx : State := rxBounds.foldl (fun u b => u.epoch b.1 b.2 m.val) ((heard s m cor unc).epoch .laneFrame .TIM_CAL_RX ((heard s m cor unc).calLane m.val lane))

/-- Waiting values take effect: only registers and the values that wait differ. -/
theorem atRx_frame : (atRx s m lane cor unc).fifo = s.fifo ∧ (atRx s m lane cor unc).holdQ = s.holdQ ∧ (atRx s m lane cor unc).macCnt = (heard s m cor unc).macCnt ∧
    (atRx s m lane cor unc).fcReq = s.fcReq := ⟨rfl, rfl, rfl, rfl⟩

theorem still_atRx (none_ : s.shadow = []) : Epochs.Still (heard s m cor unc) (atRx s m lane cor unc) := by
  have first : Epochs.Still (heard s m cor unc) _ := Epochs.still_epoch (s := heard s m cor unc) none_ .laneFrame .TIM_CAL_RX ((heard s m cor unc).calLane m.val lane)
  exact first.trans (Epochs.still_foldl _ (fun u b h => Epochs.still_epoch h b.1 b.2 m.val) (first.shadow.trans none_) rxBounds)

theorem count_heard {i : Nat} (low : i < 17) : count (heard s m cor unc) m.val i = count s m.val i := by
  unfold heard
  rw [count_macCount, if_neg (by omega), count_macCount, if_neg (by omega)]

variable {s m} {wire : List Byte} {sub : Fin 20}

theorem not_up (down : ¬(s.macState m.val = 3 ∨ s.macState m.val = 4)) : exec (.frameReceived m ⟨wire, lane, sub⟩ cor unc) s = .next s :=
  congrArg _ (if_pos (not_or.1 down))

variable (up : s.macState m.val = 3 ∨ s.macState m.val = 4)
include up

theorem runs_up : exec (.frameReceived m ⟨wire, lane, sub⟩ cor unc) s = .next
    (if unc ≠ 0 ∨ wire.drop (wire.length - 4) ≠ fcs32 (wire.take (wire.length - 4)) then (atRx s m lane cor unc).macCount m.val 2
    else if wire.length < 64 then (atRx s m lane cor unc).macCount m.val 3
    else if State.etherType wire = 0x8808 then
      (if beAt wire 14 2 = 1 then ((atRx s m lane cor unc).macCount m.val 5).ctlReceived m.val (beAt wire 14 2) wire
      else if beAt wire 14 2 = 0x0101 then ((atRx s m lane cor unc).macCount m.val 6).ctlReceived m.val (beAt wire 14 2) wire
      else (atRx s m lane cor unc).macCount m.val 7)
    else (atRx s m lane cor unc).rxPass m.val wire lane sub) := by
  have on : ¬(s.macState m.val ≠ 3 ∧ s.macState m.val ≠ 4) := not_and_or.2 (up.imp not_not_intro not_not_intro)
  show execFrameReceived m ⟨wire, lane, sub⟩ cor unc s = _
  unfold execFrameReceived atRx heard rxBounds
  dsimp only
  rw [if_neg on]

theorem runs_bad (bad : unc ≠ 0) : exec (.frameReceived m ⟨wire, lane, sub⟩ cor unc) s = .next ((atRx s m lane cor unc).macCount m.val 2) := by
  rw [runs_up lane cor unc up, if_pos (.inl bad)]

variable (good : unc = 0 ∧ wire.drop (wire.length - 4) = fcs32 (wire.take (wire.length - 4)))
include good

omit up in
theorem sound : ¬(unc ≠ 0 ∨ wire.drop (wire.length - 4) ≠ fcs32 (wire.take (wire.length - 4))) := not_or.2 ⟨not_not_intro good.1, not_not_intro good.2⟩

theorem runs_short (short : wire.length < 64) : exec (.frameReceived m ⟨wire, lane, sub⟩ cor unc) s = .next ((atRx s m lane cor unc).macCount m.val 3) := by
  rw [runs_up lane cor unc up, if_neg (sound unc good), if_pos short]

theorem runs_pass (long : 64 ≤ wire.length) (data : State.etherType wire ≠ 0x8808) :
    exec (.frameReceived m ⟨wire, lane, sub⟩ cor unc) s = .next ((atRx s m lane cor unc).rxPass m.val wire lane sub) := by
  have whole := runs_up (sub := sub) (wire := wire) lane cor unc up
  generalize (atRx s m lane cor unc).rxPass m.val wire lane sub = t at *
  rw [whole, if_neg (sound unc good), if_neg (Nat.not_lt.2 long), if_neg data]

end

/-- A frame that is counted and gone. -/
theorem gone (m : MacId) (lane : Fin 8) (cor unc : Byte) {n : Nat} (low : n < 17) : ((atRx s m lane cor unc).macCount m.val n).fifo = s.fifo ∧
    ((atRx s m lane cor unc).macCount m.val n).holdQ = s.holdQ ∧ count ((atRx s m lane cor unc).macCount m.val n) m.val n = count s m.val n + BitVec.ofNat 64 1 := by
  obtain ⟨fifo, hold, counts, _⟩ := atRx_frame s m lane cor unc
  have before := count_heard s m cor unc low
  unfold count at before
  rw [← counts] at before
  generalize atRx s m lane cor unc = u at *
  obtain ⟨fifo', hold'⟩ := fifo_macCount u m.val n 1
  refine ⟨fifo'.trans fifo, hold'.trans hold, ?_⟩
  rw [count_macCount, if_pos rfl]
  exact congrArg (· + BitVec.ofNat 64 1) before

/-! ### A good frame on its way to the FIFO (R34, R304–R306) -/

/-- Every register reads as before, and only counters and XOFF requests differ. -/
structure Alike (s t : State) : Prop where
  frame : t = { s with regs := t.regs, macCnt := t.macCnt, fcReq := t.fcReq }
  same : ∀ r i, t.reg r i = s.reg r i

section
variable {s} {t u : State}

theorem Alike.trans (first : Alike s t) (then_ : Alike t u) : Alike s u :=
  ⟨by rw [then_.frame, first.frame], fun r i => (then_.same r i).trans (first.same r i)⟩

theorem Alike.fld (h : Alike s t) (f : Fld) (i : Nat) : t.fld f i = s.fld f i := congrArg (fun w => getBits w f.lo f.width) (h.same f.reg i)

theorem Alike.flag (h : Alike s t) (f : Fld) (i : Nat) : t.flag f i = s.flag f i := congrArg (· != 0) (h.fld f i)

theorem alike_still (h : Epochs.Still s t) : Alike s t := by
  obtain ⟨frame, same⟩ := h
  refine ⟨?_, same⟩
  rw [frame]

theorem alike_macCount (m n k : Nat) : Alike s (s.macCount m n k) := by
  obtain ⟨c, counted⟩ := macCount_only s m n k
  rw [counted]
  exact ⟨rfl, fun _ _ => rfl⟩

theorem alike_fcUpdate : Alike s s.fcUpdate ∧ s.fcUpdate.macCnt = s.macCnt := by
  have asks (l : List Nat) : ∀ u : State, ∃ c, l.foldl (fun u k =>
      u.fcAsk k (((List.range 4).map fun p => u.classBytes (k / 8) p (k % 8)).any fun b => decide (u.fld F.MAC_FC_WM_HIGH_KIB k * 1024 < b))
        (((List.range 4).map fun p => u.classBytes (k / 8) p (k % 8)).all fun b => decide (b ≤ u.fld F.MAC_FC_WM_LOW_KIB k * 1024))) u = { u with fcReq := c } := by
    induction l with
    | nil => exact fun u => ⟨_, rfl⟩
    | cons k l ih =>
      intro u
      obtain ⟨c, rest⟩ := ih (u.fcAsk k _ _)
      exact ⟨c, rest⟩
  obtain ⟨c, all⟩ := asks (List.range 16) s
  have whole : ∃ c, s.fcUpdate = { s with fcReq := c } := by
    unfold fcUpdate
    dsimp only
    rw [all]
    exact ⟨_, rfl⟩
  obtain ⟨c, is⟩ := whole
  rw [is]
  exact ⟨⟨rfl, fun _ _ => rfl⟩, rfl⟩

theorem Alike.pierFor (h : Alike s t) (x : BitVec 32) : t.pierFor x = s.pierFor x := h.fld ..

theorem Alike.rxClass (h : Alike s t) (m : Nat) (bs : List Byte) : t.rxClass m bs = s.rxClass m bs := by
  unfold State.rxClass
  rw [h.fld, h.fld]

theorem Alike.fifoOf (h : Alike s t) (port p : Nat) : t.fifoOf port p = s.fifoOf port p :=
  congrArg (fun q => SMap.get [] q (4 * port + p)) (congrArg State.fifo h.frame :)

theorem Alike.holdOf (h : Alike s t) (port : Nat) : t.holdOf port = s.holdOf port :=
  congrArg (fun q => SMap.get [] q port) (congrArg State.holdQ h.frame :)

end

theorem pierFor_lt (x : BitVec 32) : s.pierFor x < 4 := getBits_lt ..

/-- The frame as the hash leaves it: bytes, FCS, MAC, class and mark are its own. -/
theorem hashed_values (f : Pkt) : (s.hashed f).bytes = f.bytes ∧ (s.hashed f).fcs = f.fcs ∧ (s.hashed f).mac = f.mac ∧ (s.hashed f).tc = f.tc ∧
    (s.hashed f).trunc = f.trunc := ⟨rfl, rfl, rfl, rfl, rfl⟩

/-- A frame that the distributor puts into its Pier's FIFO, which wakes the Pier. -/
theorem distribute_goes {port : Nat} {f : Pkt} (run : s.isSafe = false) (st : s.fld F.CFG_STATUS_STATE 0 ≠ 3 ∧ s.fld F.CFG_STATUS_STATE 0 ≠ 4 ∧ s.fld F.CFG_STATUS_STATE 0 ≠ 5)
    (none_ : s.holdOf port = []) (room : ((s.fifoOf port (s.pierFor (s.hashed f).hash)).map Pkt.len).sum + f.len ≤ 524288) :
    s.distribute port f = (s.wake true (s.pierFor (s.hashed f).hash)).setFifo port (s.pierFor (s.hashed f).hash)
      (s.fifoOf port (s.pierFor (s.hashed f).hash) ++ [s.hashed f]) := by
  obtain ⟨drain, swap, failed⟩ := st
  have go : ¬(s.fld F.CFG_STATUS_STATE 0 = 3 ∨ s.fld F.CFG_STATUS_STATE 0 = 4 ∨ s.fld F.CFG_STATUS_STATE 0 = 5 ∨ (!(s.holdOf port).isEmpty) = true) := by
    rw [none_]
    simp [drain, swap, failed]
  have fifo (p : Nat) : (s.wake true p).fifoOf port p = s.fifoOf port p :=
    congrArg (fun q => SMap.get [] q (4 * port + p)) (congrArg State.fifo (Exceptions.power_wake s true p) :)
  have fits : ¬524288 < ((s.fifoOf port (s.pierFor (s.hashed f).hash)).map Pkt.len).sum + (s.hashed f).len := Nat.not_lt.2 room
  unfold distribute
  dsimp only
  rw [if_neg (Bool.eq_false_iff.1 run), if_neg go, fifo, if_neg fits]

theorem fifoOf_setFifo (port p port' p' : Nat) (l : List Pkt) (low : p < 4) (low' : p' < 4) : (s.setFifo port p l).fifoOf port' p' =
    if port' = port ∧ p' = p then l else s.fifoOf port' p' := by
  unfold fifoOf setFifo
  by_cases same : port' = port ∧ p' = p
  · rw [if_pos same, same.1, same.2]
    exact SMap.get_put_self ..
  · rw [if_neg same]
    exact SMap.get_put_ne _ _ _ _ (by omega)

/-- The frame that a MAC hands on, of the bytes it heard. -/
def taken (m : Nat) (wire : List Byte) (l : Fin 8) (k : Fin 20) : Pkt :=
  let t := stampOf (s.timeIn k - s.calDelay F.TIM_CAL_RX_DELAY (s.calLane m l))
  { bytes := wire.take (wire.length - 4), fcs := wire.drop (wire.length - 4), mac := m, time := wideOf t, frac := fracOf t, trunc := false, tc := s.rxClass m wire }

/-- The counters of a frame that passed. -/
def passed (m n : Nat) : State := ((s.macCount m 0).macCount m 1 n).fcUpdate

theorem rxPass_whole {m : Nat} {wire : List Byte} {l : Fin 8} {k : Fin 20} (short : wire.length ≤ s.maxFrame m) (plain : s.fld F.MAC_TAG_CTL_STRIP m = 0) :
    s.rxPass m wire l k = ((passed s m wire.length).distribute (m / 8) (taken s m wire l k)).fcUpdate := by
  have whole : decide (s.maxFrame m < wire.length) = false := decide_eq_false (Nat.not_lt.2 short)
  have strip (f : Pkt) : ((s.macCount m 0).macCount m 1 wire.length).stripTags m f = f := by
    have zero : ((s.macCount m 0).macCount m 1 wire.length).fld F.MAC_TAG_CTL_STRIP m = 0 := plain
    unfold stripTags
    dsimp only
    rw [zero]
    split
    · rfl
    · rfl
  unfold rxPass
  dsimp only
  simp only [whole, Bool.false_eq_true, if_false, strip]
  rfl

section
variable {s} {m : MacId} {wire : List Byte} {lane : Fin 8} {sub : Fin 20} (cor unc : Byte) (none_ : s.shadow = [])
include none_

theorem alike_atRx : Alike s (atRx s m lane cor unc) :=
  ((alike_macCount m.val 17 cor.toNat).trans (alike_macCount m.val 18 unc.toNat)).trans (alike_still (still_atRx s m lane cor unc none_))

/-- The state in which the distributor takes the frame. -/
def handedOn (s : State) (m : MacId) (lane : Fin 8) (cor unc : Byte) (n : Nat) : State := passed (atRx s m lane cor unc) m.val n

theorem alike_handedOn (n : Nat) : Alike s (handedOn s m lane cor unc n) :=
  ((alike_atRx cor unc none_).trans ((alike_macCount m.val 0 1).trans (alike_macCount m.val 1 n))).trans alike_fcUpdate.1

omit none_ in
theorem count_handedOn (n : Nat) : count (handedOn s m lane cor unc n) m.val 0 = count s m.val 0 + BitVec.ofNat 64 1 ∧
    count (handedOn s m lane cor unc n) m.val 1 = count s m.val 1 + BitVec.ofNat 64 n := by
  have counts (i : Nat) : count (handedOn s m lane cor unc n) m.val i = count (((atRx s m lane cor unc).macCount m.val 0).macCount m.val 1 n) m.val i :=
    congrArg (fun c => SMap.get 0 c (i + 32 * m.val)) alike_fcUpdate.2
  have heard_ (i : Nat) (low : i < 17) : count (atRx s m lane cor unc) m.val i = count s m.val i := by
    obtain ⟨_, _, same, _⟩ := atRx_frame s m lane cor unc
    rw [← count_heard s m cor unc low]
    exact congrArg (fun c => SMap.get 0 c (i + 32 * m.val)) same
  rw [counts, counts, count_macCount, count_macCount, count_macCount, count_macCount, heard_ 0 (by decide), heard_ 1 (by decide)]
  exact ⟨rfl, rfl⟩

end

/-- A good frame joins the FIFO of the Pier that its hash names. -/
theorem frame_joins {m : MacId} {wire : List Byte} {lane : Fin 8} {sub : Fin 20} (cor unc : Byte) (up : s.macState m.val = 3 ∨ s.macState m.val = 4)
    (good : unc = 0 ∧ wire.drop (wire.length - 4) = fcs32 (wire.take (wire.length - 4))) (long : 64 ≤ wire.length) (short : wire.length ≤ s.maxFrame m.val)
    (data : State.etherType wire ≠ 0x8808) (none_ : s.shadow = []) (run : s.isSafe = false)
    (st : s.fld F.CFG_STATUS_STATE 0 ≠ 3 ∧ s.fld F.CFG_STATUS_STATE 0 ≠ 4 ∧ s.fld F.CFG_STATUS_STATE 0 ≠ 5) (empty : s.holdOf (m.val / 8) = [])
    (plain : s.fld F.MAC_TAG_CTL_STRIP m.val = 0) (room : ∀ k, k < 4 → ((s.fifoOf (m.val / 8) k).map Pkt.len).sum + wire.length ≤ 524288) :
    ∃ t g, exec (.frameReceived m ⟨wire, lane, sub⟩ cor unc) s = .next t ∧ g.bytes = wire.take (wire.length - 4) ∧ g.fcs = wire.drop (wire.length - 4) ∧
      g.mac = m.val ∧ g.tc = s.rxClass m.val wire ∧ g.trunc = false ∧
      t.fifoOf (m.val / 8) (s.pierFor g.hash) = s.fifoOf (m.val / 8) (s.pierFor g.hash) ++ [g] ∧
      (∀ k, k ≠ s.pierFor g.hash → k < 4 → t.fifoOf (m.val / 8) k = s.fifoOf (m.val / 8) k) ∧
      count t m.val 0 = count s m.val 0 + BitVec.ofNat 64 1 ∧ count t m.val 1 = count s m.val 1 + BitVec.ofNat 64 wire.length := by
  have rx := alike_atRx (m := m) (lane := lane) cor unc none_
  have runs := runs_pass (sub := sub) lane cor unc up good long data
  rw [rxPass_whole _ (by rw [show (atRx s m lane cor unc).maxFrame m.val = s.maxFrame m.val from rx.fld ..]; exact short) ((rx.fld ..).trans plain)] at runs
  have on := alike_handedOn (m := m) (lane := lane) cor unc none_ wire.length
  obtain ⟨passes, bytes⟩ := count_handedOn (s := s) (m := m) (lane := lane) cor unc wire.length
  have class_ : (taken (atRx s m lane cor unc) m.val wire lane sub).tc = s.rxClass m.val wire := rx.rxClass ..
  have read : (taken (atRx s m lane cor unc) m.val wire lane sub).bytes = wire.take (wire.length - 4) ∧
    (taken (atRx s m lane cor unc) m.val wire lane sub).fcs = wire.drop (wire.length - 4) ∧ (taken (atRx s m lane cor unc) m.val wire lane sub).mac = m.val ∧
    (taken (atRx s m lane cor unc) m.val wire lane sub).trunc = false := ⟨rfl, rfl, rfl, rfl⟩
  unfold handedOn at *
  generalize taken (atRx s m lane cor unc) m.val wire lane sub = f at *
  generalize passed (atRx s m lane cor unc) m.val wire.length = u at *
  obtain ⟨bytes_, fcs_, mac_, trunc_⟩ := read
  obtain ⟨bytes', fcs', mac', tc', trunc'⟩ := hashed_values u f
  have pier := pierFor_lt s (u.hashed f).hash
  have size : f.len = wire.length := by
    unfold Pkt.len
    rw [bytes_, trunc_, List.length_take]
    simp
    omega
  have goes := distribute_goes u (port := m.val / 8) (f := f) ((congrArg (· == 2) (on.fld ..)).trans run)
    ⟨by rw [on.fld]; exact st.1, by rw [on.fld]; exact st.2.1, by rw [on.fld]; exact st.2.2⟩ ((on.holdOf _).trans empty)
    (by rw [on.fifoOf, on.pierFor, size]; exact room _ pier)
  rw [goes, on.pierFor, on.fifoOf] at runs
  have woken := Exceptions.power_wake u true (s.pierFor (u.hashed f).hash)
  have fifos (k : Nat) : (u.wake true (s.pierFor (u.hashed f).hash)).fifoOf (m.val / 8) k = s.fifoOf (m.val / 8) k :=
    (congrArg (fun q => SMap.get [] q (4 * (m.val / 8) + k)) (congrArg State.fifo woken :)).trans (on.fifoOf ..)
  have counters : (u.wake true (s.pierFor (u.hashed f).hash)).macCnt = u.macCnt := (congrArg State.macCnt woken :)
  generalize u.wake true (s.pierFor (u.hashed f).hash) = v at *
  generalize u.hashed f = g at *
  obtain ⟨last, same⟩ := alike_fcUpdate (s := v.setFifo (m.val / 8) (s.pierFor g.hash) (s.fifoOf (m.val / 8) (s.pierFor g.hash) ++ [g]))
  have counts (i : Nat) : count (v.setFifo (m.val / 8) (s.pierFor g.hash) (s.fifoOf (m.val / 8) (s.pierFor g.hash) ++ [g])).fcUpdate m.val i = count u m.val i :=
    congrArg (fun c => SMap.get 0 c (i + 32 * m.val)) (same.trans counters)
  refine ⟨_, g, runs, bytes'.trans bytes_, fcs'.trans fcs_, mac'.trans mac_, tc'.trans class_, trunc'.trans trunc_, ?_, fun k other low => ?_,
    (counts 0).trans passes, (counts 1).trans bytes⟩
  · rw [last.fifoOf, fifoOf_setFifo _ _ _ _ _ _ pier pier, if_pos ⟨rfl, rfl⟩]
  · rw [last.fifoOf, fifoOf_setFifo _ _ _ _ _ _ pier low, if_neg fun h => other h.2, fifos]

/-! ### The SecY's turn (R317) -/

section
variable {s} {p : Pier} {port : Port} {f : Pkt} {rest : List Pkt} (at_ : s.fifoOf port.val p.val = f :: rest)
include at_

theorem portHead_of : s.portHead p.val port.val = some (f, s.setFifo port.val p.val rest) := by
  unfold portHead
  rw [at_]

theorem putHead_of (g : Pkt) : s.putHead p.val port.val g = s.setFifo port.val p.val (g :: rest) := by
  unfold putHead
  rw [at_]

section
variable (on : s.ingressHeld p.val = false) (secy : s.secyFirst f = true)
include on secy

theorem verify_eapol (eapol : State.isEapol f.bytes = true) : exec (.macsecRxVerify p port .none) s = .next
    (s.setFifo port.val p.val ({ f with verified := true } :: rest)) := by
  have passes (u : State) : u.msecVerify p.val f .none = (some { f with verified := true }, u) := if_pos eapol
  refine congrArg _ ((if_neg (Bool.eq_false_iff.1 on)).trans ?_)
  rw [portHead_of at_]
  dsimp only
  rw [if_neg (by rw [secy]; decide), passes, passes]
  exact putHead_of at_ _

theorem verify_drops (plain : State.isEapol f.bytes = false) (other : State.etherType f.bytes ≠ 0x88E5) (strict : s.fld F.MAC_SECY_CTL_VALIDATE f.mac = 2) :
    exec (.macsecRxVerify p port .none) s = .next ((s.setFifo port.val p.val rest).macCount f.mac 8) := by
  have drops : (s.setFifo port.val p.val rest).msecVerify p.val f .none = (none, (s.setFifo port.val p.val rest).macCount f.mac 8) := by
    have mode : (s.setFifo port.val p.val rest).fld F.MAC_SECY_CTL_VALIDATE f.mac = 2 := strict
    unfold msecVerify
    dsimp only
    rw [if_neg (Bool.eq_false_iff.1 plain), if_pos other, mode]
    rfl
  refine congrArg _ ((if_neg (Bool.eq_false_iff.1 on)).trans ?_)
  rw [portHead_of at_]
  dsimp only
  rw [if_neg (by rw [secy]; decide), drops]

end

/-! ### Head acceptance (R35, R229, R263) -/

theorem takeHead_of : s.takeHead p.val port.val = some (f, s.setFifo port.val p.val rest) := by
  unfold takeHead
  rw [if_neg (by have := port.isLt; omega), portHead_of at_]

variable (on : s.ingressHeld p.val = false) (turn : s.acceptFrom p.val port.val = some port.val) (room : (s.parked p.val).length < 512)
  (secy : s.secyFirst f = false)
include on turn room secy

theorem accept_runs {h : Option Nat} {t : State} (charged : (s.setFifo port.val p.val rest).chargeFrame p.val port.val f = (some h, t)) :
    exec (.ingressHeadAccept p port {}) s = .next (h.elim t fun h => t.enter p.val { f with head := some h } {}) := by
  have go : ¬(f.reinject.isNone && !f.decrypted && s.secyFirst f) = true := by
    rw [secy, Bool.and_false]
    decide
  refine congrArg Host.Outcome.next ?_
  rw [turn]
  dsimp only
  rw [if_neg (Bool.eq_false_iff.1 on), if_neg (Nat.not_le.2 room), takeHead_of at_]
  dsimp only
  rw [if_neg go, charged]
  cases h <;> rfl

/-- A frame of a class without an account is dropped. -/
theorem accept_drops (fresh : f.head = none) (none_ : s.frameAcct p.val f = none) :
    exec (.ingressHeadAccept p port {}) s = .next (s.setFifo port.val p.val rest) := by
  have charged : (s.setFifo port.val p.val rest).chargeFrame p.val port.val f = (some none, s.setFifo port.val p.val rest) := by
    have none' : (s.setFifo port.val p.val rest).frameAcct p.val f = none := none_
    unfold chargeFrame
    rw [fresh]
    dsimp only
    rw [none']
  exact accept_runs at_ on turn room secy charged

end

/-! ### A head that finds its buffers and misses the flow cache (R229, R263) -/

/-- A head has joined a miss buffer, and the FIFOs and the cache's counters are the same. -/
structure Parks (s t : State) (p : Nat) (f : Pkt) : Prop where
  joins : ∃ y, t.parked p = s.parked p ++ [y] ∧ y.pkt = f ∧ y.stale = false
  fifo : t.fifo = s.fifo
  counts : t.reg .TBL_FC_CNT p = s.reg .TBL_FC_CNT p

/-- The last step of a head's way into the miss buffer. -/
def joined (s : State) (p : Nat) (y : Parked) : State :=
  let s := s.setParked p (s.parked p ++ [y])
  let n := (s.parked p).length
  if s.fld F.TBL_MISS_STATUS_PEAK p < n then s.setFld F.TBL_MISS_STATUS_PEAK p n else s

theorem parked_setParked (p : Nat) (l : List Parked) : (s.setParked p l).parked p = l := SMap.get_put_self ..

theorem parks_joined {v : State} (p : Nat) {y : Parked} (fresh : y.stale = false) (same : v.missBuf = s.missBuf) (fifo : v.fifo = s.fifo)
    (regs : v.regs = s.regs) : Parks s (joined v p y) p y.pkt := by
  have base : v.parked p = s.parked p := congrArg (fun m => SMap.get [] m p) same
  have held : (v.setParked p (v.parked p ++ [y])).parked p = s.parked p ++ [y] := by rw [parked_setParked, base]
  have regs' : (v.setParked p (v.parked p ++ [y])).regs = s.regs := regs
  have fifo' : (v.setParked p (v.parked p ++ [y])).fifo = s.fifo := fifo
  unfold joined
  dsimp only
  generalize v.setParked p (v.parked p ++ [y]) = u at *
  split
  · exact ⟨⟨y, held, rfl, fresh⟩, fifo', (Fields.reg_setFld_other u (by decide)).trans (reg_congr regs' ..)⟩
  · exact ⟨⟨y, held, rfl, fresh⟩, fifo', reg_congr regs' ..⟩

theorem parks_park (p : Nat) (f : Pkt) : Parks s (s.park p f) p f := by
  have joins (v : State) (follow : Bool) (flow : Option (Nat × Nat × FlowEnt)) (same : v.missBuf = s.missBuf) (fifo : v.fifo = s.fifo) (regs : v.regs = s.regs) :=
    parks_joined s (v := v) p (y := { pkt := f, follow := follow, flow := flow }) rfl same fifo regs
  have read (t : Nat) : (s.flowRead p t f).2.missBuf = s.missBuf ∧ (s.flowRead p t f).2.fifo = s.fifo ∧ (s.flowRead p t f).2.regs = s.regs := by
    unfold flowRead
    split <;> exact ⟨rfl, rfl, rfl⟩
  unfold park
  dsimp only
  split
  · exact joins s _ none rfl rfl rfl
  · split
    next t _ =>
      obtain ⟨same, fifo, regs⟩ := read t
      exact joins _ _ _ same fifo regs
    · exact joins s _ none rfl rfl rfl

/-- A head without injected result that finds no line of the flow cache joins the miss buffer. -/
theorem enter_misses {p : Nat} {f : Pkt} (plain : f.reinject = none) (miss : ∀ x ∈ s.fcLines (fcSet p f.hash), ¬(x.hash = f.hash ∧ x.key = flowKey f.tuple)) :
    s.enter p f {} = (s.bump F.TBL_FC_CNT_MISSES p).park p f := by
  have none_ : ((s.fcLines (fcSet p f.hash)).find? fun l => l.hash == f.hash && l.key == flowKey f.tuple && s.lineFresh p l) = none := by
    refine List.find?_eq_none.2 fun x in_ is => miss x in_ ?_
    rw [Bool.and_eq_true, Bool.and_eq_true, beq_iff_eq, beq_iff_eq] at is
    exact is.1
  have sound : s.lineEcc p f .ok = s := rfl
  unfold enter
  dsimp only
  rw [sound, if_neg (by rw [plain]; decide), none_]

section
variable {s} {p : Pier} {port : Port} {f : Pkt} {rest : List Pkt} {a q h : Nat} {l : List Nat}

/-- The charge of a head's buffers. -/
def chargeOf (p port q a : Nat) (f : Pkt) : BufWait := ⟨.pipe p port, q, a, bufsFor f.len, ownerPipe p⟩

/-- The state as the head's buffers are granted. -/
def granted (s : State) (p port q a : Nat) (f : Pkt) : State := ((s.doneWait (chargeOf p port q a f)).grantBufs q a (bufsFor f.len) (some p) (ownerPipe p)).2

/-- A grant of a Pier's cache touches neither FIFOs nor the miss buffer nor the flow cache. -/
theorem granted_values (p port q a : Nat) (f : Pkt) : (granted s p port q a f).fifo = s.fifo ∧ (granted s p port q a f).missBuf = s.missBuf ∧
    (granted s p port q a f).fcache = s.fcache ∧ (granted s p port q a f).reg .TBL_FC_CNT p = s.reg .TBL_FC_CNT p := by
  have start : ∃ u : State, (u.fifo = s.fifo ∧ u.missBuf = s.missBuf ∧ u.fcache = s.fcache ∧ u.regs = s.regs) ∧ Pool.Takes u (granted s p port q a f) :=
    ⟨(s.doneWait (chargeOf p port q a f)).setCache p q (((s.doneWait (chargeOf p port q a f)).cacheOf p q).drop (bufsFor f.len)), ⟨rfl, rfl, rfl, rfl⟩,
      (Buffers.takes_linkChain _ ..).trans ((Buffers.takes_addUse _ a _).trans ((Pool.takes_bpmEpochs _ q a).trans (Pool.takes_poolWatch _ q)))⟩
  obtain ⟨u, ⟨fifo, parked_, cache, regs⟩, takes⟩ := start
  exact ⟨(congrArg State.fifo takes.only :).trans fifo, (congrArg State.missBuf takes.only :).trans parked_, (congrArg State.fcache takes.only :).trans cache,
    (takes.reg _ _ (by decide)).trans (reg_congr regs ..)⟩

theorem charge_grants (fresh : f.head = none) (long : 0 < f.len) (acct : s.frameAcct p.val f = some (a, q))
    (grants : s.chargeTurn (chargeOf p.val port.val q a f) = .granted) (cache : s.cacheOf p.val q = h :: l) :
    s.chargeFrame p.val port.val f = (some (some h), granted s p.val port.val q a f) := by
  have some_ : ∃ n, bufsFor f.len = n + 1 := ⟨bufsFor f.len - 1, by unfold bufsFor; omega⟩
  obtain ⟨n, size⟩ := some_
  have head : ((s.doneWait (chargeOf p.val port.val q a f)).grantBufs q a (bufsFor f.len) (some p.val) (ownerPipe p.val)).1 = h := by
    have same : (s.doneWait (chargeOf p.val port.val q a f)).cacheOf p.val q = h :: l := cache
    unfold grantBufs
    dsimp only
    rw [same, size]
    rfl
  unfold chargeFrame
  rw [fresh]
  dsimp only
  rw [acct]
  unfold chargeOf at *
  dsimp only
  rw [grants, head]
  rfl

theorem accept_parks (at_ : s.fifoOf port.val p.val = f :: rest) (on : s.ingressHeld p.val = false) (turn : s.acceptFrom p.val port.val = some port.val)
    (room : (s.parked p.val).length < 512) (secy : s.secyFirst f = false) (plain : f.reinject = none) (fresh : f.head = none) (long : 0 < f.len)
    (acct : s.frameAcct p.val f = some (a, q)) (grants : s.chargeTurn (chargeOf p.val port.val q a f) = .granted) (cache : s.cacheOf p.val q = h :: l)
    (miss : ∀ x ∈ s.fcLines (fcSet p.val f.hash), ¬(x.hash = f.hash ∧ x.key = flowKey f.tuple)) :
    ∃ t y, exec (.ingressHeadAccept p port {}) s = .next t ∧ t.fifoOf port.val p.val = rest ∧ t.parked p.val = s.parked p.val ++ [y] ∧
      y.pkt = { f with head := some h } ∧ y.stale = false ∧
      t.fld F.TBL_FC_CNT_MISSES p.val = min (s.fld F.TBL_FC_CNT_MISSES p.val + 1) 0xFFFFFFFF := by
  have low := p.isLt
  have charged := charge_grants (s := s.setFifo port.val p.val rest) (port := port) fresh long (show (s.setFifo port.val p.val rest).frameAcct p.val f = _ from acct)
    (show (s.setFifo port.val p.val rest).chargeTurn _ = _ from grants) (show (s.setFifo port.val p.val rest).cacheOf p.val q = _ from cache)
  obtain ⟨fifo, missed, lines, counts⟩ := granted_values (s := s.setFifo port.val p.val rest) p.val port.val q a f
  have runs := accept_runs at_ on turn room secy charged
  have front : (s.setFifo port.val p.val rest).fifoOf port.val p.val = rest := by rw [fifoOf_setFifo _ _ _ _ _ _ low low, if_pos ⟨rfl, rfl⟩]
  have base : (s.setFifo port.val p.val rest).parked p.val = s.parked p.val ∧ (s.setFifo port.val p.val rest).fcache = s.fcache ∧
    (s.setFifo port.val p.val rest).reg .TBL_FC_CNT p.val = s.reg .TBL_FC_CNT p.val := ⟨rfl, rfl, rfl⟩
  obtain ⟨parked_, lines', counts'⟩ := base
  generalize granted (s.setFifo port.val p.val rest) p.val port.val q a f = u at *
  generalize s.setFifo port.val p.val rest = v at *
  rw [Option.elim_some, enter_misses u (p := p.val) (f := { f with head := some h }) plain (fun x in_ => miss x (by
    unfold fcLines at *
    rw [← lines', ← lines]
    exact in_))] at runs
  obtain ⟨⟨y, joins, pkt, stale⟩, fifo', regs⟩ := parks_park (u.bump F.TBL_FC_CNT_MISSES p.val) p.val { f with head := some h }
  refine ⟨_, y, runs, ?_, ?_, pkt, stale, ?_⟩
  · exact (congrArg (fun m => SMap.get [] m (4 * port.val + p.val)) (fifo'.trans fifo)).trans front
  · rw [joins]
    exact congrArg (· ++ [y]) ((congrArg (fun m => SMap.get [] m p.val) missed).trans parked_)
  · have read (t t' : State) (same : t.reg .TBL_FC_CNT p.val = t'.reg .TBL_FC_CNT p.val) : t.fld F.TBL_FC_CNT_MISSES p.val = t'.fld F.TBL_FC_CNT_MISSES p.val :=
      congrArg (fun w => getBits w F.TBL_FC_CNT_MISSES.lo F.TBL_FC_CNT_MISSES.width) same
    rw [read _ _ regs, Fields.fld_bump_self _ (by decide), read _ _ (counts.trans counts')]
    rfl

end

/-- A full miss buffer takes no head, and the cycle is counted. -/
theorem accept_stalls {p : Pier} {port : Port} (on : s.ingressHeld p.val = false) (turn : (s.acceptFrom p.val port.val).isSome = true)
    (full : 512 ≤ (s.parked p.val).length) : exec (.ingressHeadAccept p port {}) s = .next (s.bump F.TBL_MISS_STATUS_STALL_CYC p.val) := by
  obtain ⟨src, at_⟩ := Option.isSome_iff_exists.1 turn
  refine congrArg Host.Outcome.next ?_
  rw [at_]
  exact (if_neg (Bool.eq_false_iff.1 on)).trans (if_pos full)

/-- Settles O45: a good frame is counted, hashed and joins its Pier's FIFO; a bad or short one is counted and gone; and the Pier's pipeline takes
the FIFO's head by the SecY's turn, the room of the miss buffer and the charge of its buffers. -/
theorem framesIn : Obligations.FramesIn := by
  unfold Obligations.FramesIn
  intro s m wire lane sub cor unc p port f rest a q h l
  dsimp only
  refine ⟨?_, ?_, ?_, fun down => not_up lane cor unc down, ?_, ?_, ?_, ?_, ?_⟩
  · intro up good long short data none_ run drain swap failed empty plain room
    exact frame_joins s cor unc up good long short data none_ run ⟨drain, swap, failed⟩ empty plain room
  · intro up bad
    obtain ⟨fifo, hold, counted⟩ := gone s m lane cor unc (n := 2) (by decide)
    exact ⟨_, runs_bad lane cor unc up bad, fifo, hold, counted⟩
  · intro up good short
    obtain ⟨fifo, hold, counted⟩ := gone s m lane cor unc (n := 3) (by decide)
    exact ⟨_, runs_short lane cor unc up good short, fifo, hold, counted⟩
  · rintro ⟨on, at_⟩ secy
    refine ⟨fun eapol => ⟨_, verify_eapol at_ on secy eapol, rfl, ?_⟩, fun plain other strict => ⟨_, verify_drops at_ on secy plain other strict, rfl, ?_, ?_⟩⟩
    · rw [fifoOf_setFifo _ _ _ _ _ _ p.isLt p.isLt, if_pos ⟨rfl, rfl⟩]
    · refine (congrArg (fun m => SMap.get [] m (4 * port.val + p.val)) (fifo_macCount _ f.mac 8 1).1).trans ?_
      exact (fifoOf_setFifo _ _ _ _ _ _ p.isLt p.isLt).trans (if_pos ⟨rfl, rfl⟩)
    · exact (count_macCount (s.setFifo port.val p.val rest) f.mac 8 8 1).trans (if_pos rfl)
  · intro on turn full
    refine ⟨_, accept_stalls s on turn full, ⟨rfl, fun r i out => Frames.but_bump s F.TBL_MISS_STATUS_STALL_CYC p.val 1 r i out⟩, ?_⟩
    exact Fields.fld_bump_self s (by decide)
  · intro none_
    refine congrArg Host.Outcome.next ?_
    rw [none_]
  · rintro ⟨on, at_⟩ turn room secy plain fresh long acct grants cache miss
    exact accept_parks at_ on turn room secy plain fresh long acct grants cache miss
  · rintro ⟨on, at_⟩ turn room secy fresh none_
    exact ⟨_, accept_drops at_ on turn room secy fresh none_, rfl, (fifoOf_setFifo _ _ _ _ _ _ p.isLt p.isLt).trans (if_pos ⟨rfl, rfl⟩)⟩

end Sys2Proof.Machine.Receiving
end

section
/-!
PROOFS. What the MACs send (R307–R315, R337): control frames, pauses, launch times, and the frame of a MAC that is ready.
-/

namespace Sys2Proof.Machine.Sending
open State Receiving

variable (s : State)

/-! ### A MAC's state and its FIFOs -/

@[simp] theorem mac_setMac (m : Nat) (x : MacSt) : (s.setMac m x).mac m = x := SMap.get_put_self ..

theorem mac_setMac_ne {m j : Nat} (x : MacSt) (other : j ≠ m) : (s.setMac m x).mac j = s.mac j := SMap.get_put_ne _ _ _ _ other

/-- One MAC's state differs, and nothing else. -/
structure OnlyMac (s t : State) (m : Nat) : Prop where
  frame : t = { s with macs := t.macs }
  others : ∀ j, j ≠ m → t.mac j = s.mac j

theorem onlyMac_refl (m : Nat) : OnlyMac s s m := ⟨rfl, fun _ _ => rfl⟩

theorem onlyMac_setMac (m : Nat) (x : MacSt) : OnlyMac s (s.setMac m x) m := ⟨rfl, fun _ other => mac_setMac_ne s x other⟩

theorem OnlyMac.trans {s t u : State} {m : Nat} (first : OnlyMac s t m) (then_ : OnlyMac t u m) : OnlyMac s u m := by
  refine ⟨?_, fun j other => (then_.others j other).trans (first.others j other)⟩
  rw [then_.frame, first.frame]

/-- What the settling of a MAC's credits keeps of it: all but the credits and the frame being sent. -/
def Settled (x y : MacSt) : Prop := y = { x with credit := y.credit, since := y.since, send := y.send }

theorem settled_refl (x : MacSt) : Settled x x := rfl

theorem Settled.trans {x y z : MacSt} (first : Settled x y) (then_ : Settled y z) : Settled x z := by
  unfold Settled at *
  rw [then_, first]

theorem cbsSending_settles (m n : Nat) : OnlyMac s (s.cbsSending m n) m ∧ Settled (s.mac m) ((s.cbsSending m n).mac m) := by
  unfold cbsSending
  dsimp only
  split
  · exact ⟨onlyMac_refl s m, rfl⟩
  · rw [mac_setMac]
    exact ⟨onlyMac_setMac s m _, rfl⟩

theorem cbsQuiet_settles (m n : Nat) : OnlyMac s (s.cbsQuiet m n) m ∧ Settled (s.mac m) ((s.cbsQuiet m n).mac m) := by
  unfold cbsQuiet
  dsimp only
  rw [mac_setMac]
  exact ⟨onlyMac_setMac s m _, rfl⟩

theorem cbsGap_settles (m : Nat) : OnlyMac s (s.cbsGap m) m ∧ Settled (s.mac m) ((s.cbsGap m).mac m) := by
  unfold cbsGap
  dsimp only
  obtain ⟨only, settled⟩ := cbsSending_settles s m (s.cycle.toNat - (s.mac m).since)
  obtain ⟨only', settled'⟩ := cbsQuiet_settles (s.cbsSending m (s.cycle.toNat - (s.mac m).since)) m
    ((s.cbsSending m (s.cycle.toNat - (s.mac m).since)).cycle.toNat - ((s.cbsSending m (s.cycle.toNat - (s.mac m).since)).mac m).since)
  exact ⟨only.trans only', settled.trans settled'⟩

/-! ### The end of a pause, and a launch time (R315, R337) -/

/-- The MAC's state as the link's pause, or that of a priority, ends. -/
def unpaused (y z : MacSt) : Option (Fin 8) → MacSt
  | none => { z with pauseAll := false }
  | some j => { z with paused := y.paused &&& ~~~((1 : BitVec 8) <<< j.val) }

theorem pause_ends (m : MacId) (i : Option (Fin 8)) : ∃ t, exec (.pauseTimerExpire m i) s = .next t ∧ t = { s with macs := t.macs } ∧
    (∀ j, j ≠ m.val → t.mac j = s.mac j) ∧ t.mac m.val = unpaused (s.mac m.val) ((s.cbsGap m.val).mac m.val) i := by
  obtain ⟨only, settled⟩ := cbsGap_settles s m.val
  have paused : ((s.cbsGap m.val).mac m.val).paused = (s.mac m.val).paused := (congrArg MacSt.paused settled :)
  cases i with
  | none =>
    have whole := only.trans (onlyMac_setMac _ m.val { (s.cbsGap m.val).mac m.val with pauseAll := false })
    exact ⟨_, rfl, whole.frame, whole.others, mac_setMac ..⟩
  | some j =>
    have whole := only.trans (onlyMac_setMac _ m.val { (s.cbsGap m.val).mac m.val with paused := ((s.cbsGap m.val).mac m.val).paused &&& ~~~((1 : BitVec 8) <<< j.val) })
    refine ⟨_, rfl, whole.frame, whole.others, (mac_setMac ..).trans ?_⟩
    rw [paused]
    rfl

theorem launch_comes {m : MacId} {p : Pier} {c : Fin 8} {f : Pkt} {rest : List Pkt} {lt : Word} (at_ : s.macFifo m.val p.val c.val = f :: rest)
    (launch : f.launch = some lt) (due : (lt.toNat * 4294967296 - (112742891520 + s.calDelay F.TIM_CAL_TX_DELAY m.val) : Int) ≤ (s.time.toNat : Int))
    (waits : (p.val, c.val) ∉ (s.mac m.val).launchOk) : ∃ t, exec (.launchEligible m p c) s = .next t ∧
      t.mac m.val = { (s.cbsGap m.val).mac m.val with launchOk := (s.mac m.val).launchOk ++ [(p.val, c.val)] } ∧ t.macIn = s.macIn := by
  obtain ⟨only, settled⟩ := cbsGap_settles s m.val
  have known : ((s.cbsGap m.val).mac m.val).launchOk = (s.mac m.val).launchOk := (congrArg MacSt.launchOk settled :)
  have time : (s.cbsGap m.val).time = s.time := (congrArg State.time only.frame :)
  have ready : (lt.toNat * 4294967296 - (112742891520 + s.calDelay F.TIM_CAL_TX_DELAY m.val) : Int) ≤ ((s.cbsGap m.val).time.toNat : Int) ∧
      (!((s.cbsGap m.val).mac m.val).launchOk.contains (p.val, c.val)) = true := by
    rw [time, known, Bool.not_eq_true', ← Bool.not_eq_true, List.contains_iff_mem]
    exact ⟨due, waits⟩
  have runs : exec (.launchEligible m p c) s = .next ((s.cbsGap m.val).setMac m.val { (s.cbsGap m.val).mac m.val with
      launchOk := ((s.cbsGap m.val).mac m.val).launchOk ++ [(p.val, c.val)] }) := by
    show execLaunchEligible m p c s = _
    unfold execLaunchEligible
    rw [at_]
    dsimp only
    rw [launch]
    dsimp only
    rw [if_pos ready]
  refine ⟨_, runs, (mac_setMac ..).trans ?_, (congrArg State.macIn only.frame :)⟩
  rw [known]

/-! ### Control frames (R312–R314) -/

/-- Without a waiting value a control event changes nothing. -/
theorem still_ctlEvent (none_ : s.shadow = []) (m : Nat) : Epochs.Still s (s.ctlEvent m) := by
  have still := Epochs.still_epoch none_ .controlEvent .MAC_FC_CTL m
  unfold ctlEvent
  dsimp only
  rw [if_pos ⟨still.fld _ _, still.fld _ _⟩]
  exact still

/-- A PAUSE frame with a pause time, as it goes out. -/
def pauseFrame (m v : Nat) : List Byte := s.ctlFrame m 1 (toBytesBE 2 v) ++ fcs32 (s.ctlFrame m 1 (toBytesBE 2 v))

/-- A PAUSE frame has gone out, and is counted. -/
structure Paused (s t : State) (m : MacId) : Prop where
  out : t.out = .frame m (pauseFrame s m.val (s.fld F.MAC_FC_CTL_PAUSE_TIME m.val)) :: s.out
  counts : count t m.val 14 = count s m.val 14 + 1
  reg : ∀ r i, t.reg r i = s.reg r i

theorem sendCtl_pauses (none_ : s.shadow = []) (m : MacId) (due : Nat) {on : Nat} (begins : on ≠ 0) : Paused s (s.sendCtl m.val 1 due on) m := by
  have still := Epochs.still_epoch none_ .controlSent .MAC_FC_CTL m.val
  have frame (v : Nat) : (s.epoch .controlSent .MAC_FC_CTL m.val).ctlFrame m.val 1 (toBytesBE 2 v) = s.ctlFrame m.val 1 (toBytesBE 2 v) := by
    unfold ctlFrame
    rw [still.fld]
  have runs : s.sendCtl m.val 1 due on = ((s.epoch .controlSent .MAC_FC_CTL m.val).macCount m.val 14).emit
      (.frame m (pauseFrame s m.val (s.fld F.MAC_FC_CTL_PAUSE_TIME m.val))) := by
    unfold sendCtl pauseFrame
    dsimp only
    rw [if_pos rfl, if_neg begins, still.fld, frame, show Fin.ofNat 16 m.val = m from Fin.ext (Nat.mod_eq_of_lt m.isLt)]
  have counts := count_macCount (s.epoch .controlSent .MAC_FC_CTL m.val) m.val 14 14 1
  have same : (s.epoch .controlSent .MAC_FC_CTL m.val).out = s.out ∧ count (s.epoch .controlSent .MAC_FC_CTL m.val) m.val 14 = count s m.val 14 := ⟨rfl, rfl⟩
  have regs := still.same
  rw [runs]
  generalize s.epoch .controlSent .MAC_FC_CTL m.val = u at *
  obtain ⟨c, counted⟩ := macCount_only u m.val 14 1
  rw [if_pos rfl, same.2] at counts
  rw [counted] at counts ⊢
  exact ⟨congrArg _ same.1, counts, regs⟩

theorem ctlFrame_congr {t : State} (same : ∀ r i, t.reg r i = s.reg r i) (m v : Nat) : t.ctlFrame m 1 (toBytesBE 2 v) = s.ctlFrame m 1 (toBytesBE 2 v) := by
  have addr : t.fld F.MAC_ADDR_ADDR m = s.fld F.MAC_ADDR_ADDR m := congrArg (fun w => getBits w _ _) (same .MAC_ADDR m)
  unfold ctlFrame
  rw [addr]

/-- What reads the same after a step that changed no register, no output and no counter still pauses as the state before it did. -/
theorem Paused.before {s u t : State} {m : MacId} (h : Paused u t m) (same : ∀ r i, u.reg r i = s.reg r i) (out : u.out = s.out) (counts : u.macCnt = s.macCnt) :
    Paused s t m := by
  have time : u.fld F.MAC_FC_CTL_PAUSE_TIME m.val = s.fld F.MAC_FC_CTL_PAUSE_TIME m.val := congrArg (fun w => getBits w _ _) (same .MAC_FC_CTL m.val)
  obtain ⟨out', counts', regs⟩ := h
  refine ⟨?_, counts'.trans (congrArg (fun c => SMap.get 0 c (14 + 32 * m.val) + 1) counts), fun r i => (regs r i).trans (same r i)⟩
  rw [out', out, time]
  unfold pauseFrame
  rw [ctlFrame_congr s same]

theorem xoff_refreshes {m : MacId} (sends : s.ctlSends m.val = true) (none_ : s.shadow = []) (mode : s.fld F.MAC_FC_CTL_MODE m.val = 1)
    (asked : s.fld F.MAC_FC_STATUS_XOFF_SENT m.val ≠ 0) : ∃ t, exec (.xoffRefresh m) s = .next t ∧ Paused s t m := by
  have still := still_ctlEvent s none_ m.val
  have sent := still.fld F.MAC_FC_STATUS_XOFF_SENT m.val
  have pauses := sendCtl_pauses (s.ctlEvent m.val) (still.shadow.trans none_) m (s.fld F.MAC_FC_STATUS_XOFF_SENT m.val) asked
  have on : ¬(!s.ctlSends m.val || s.fld F.MAC_FC_STATUS_XOFF_SENT m.val == 0) = true := by
    rw [sends, beq_eq_false_iff_ne.2 asked]
    decide
  have runs : exec (.xoffRefresh m) s = .next ((s.ctlEvent m.val).sendCtl m.val 1 (s.fld F.MAC_FC_STATUS_XOFF_SENT m.val) (s.fld F.MAC_FC_STATUS_XOFF_SENT m.val)) := by
    refine congrArg Host.Outcome.next ((if_neg on).trans ?_)
    dsimp only
    rw [sent, if_neg asked, still.fld, mode]
  exact ⟨_, runs, pauses.before still.same (congrArg State.out still.frame :) (congrArg State.macCnt still.frame :)⟩

section
variable {s} {t : State} (still : Epochs.Still s t)
include still

theorem still_asks (m j : Nat) : t.xoffAsked m j = s.xoffAsked m j := by
  obtain ⟨frame, same⟩ := still
  have pools (q : Nat) : t.flag F.BPM_POOL_STATUS_XOFF q = s.flag F.BPM_POOL_STATUS_XOFF q := congrArg (fun w => getBits w _ _ != 0) (same .BPM_POOL_STATUS q)
  have req : t.fcReq = s.fcReq := (congrArg State.fcReq frame :)
  have image : t.slots = s.slots := (congrArg State.slots frame :)
  unfold xoffAsked fcWanted classPool
  rw [req, image]
  simp only [pools]

theorem still_wants (m mode en : Nat) : t.xoffWant m mode en = s.xoffWant m mode en := by
  unfold xoffWant
  simp only [still_asks still]

end

/-- With a class that asks for it, a PAUSE MAC wants XOFF of all classes. -/
theorem wants_all {m : Nat} (asked : ∃ j, j < 8 ∧ s.xoffAsked m j = true) (en : Nat) : s.xoffWant m 1 en = 255 := by
  obtain ⟨j, low, asks⟩ := asked
  have some_ : ((List.range 8).filter fun c => s.xoffAsked m c).isEmpty = false := by
    rw [List.isEmpty_eq_false_iff_exists_mem]
    exact ⟨j, List.mem_filter.2 ⟨List.mem_range.2 low, asks⟩⟩
  unfold xoffWant
  dsimp only
  rw [if_pos rfl, some_]
  rfl

section
variable {s} {m : MacId} (mode : s.fld F.MAC_FC_CTL_MODE m.val = 1) (sent : s.fld F.MAC_FC_STATUS_XOFF_SENT m.val = 0)
  (asked : ∃ j, j < 8 ∧ s.xoffAsked m.val j = true)
include mode sent asked

theorem ctl_due : s.ctlDue m.val = true := by
  unfold ctlDue
  dsimp only
  rw [mode, sent, wants_all s asked]
  rfl

theorem ctl_sends (none_ : s.shadow = []) : Paused s ((s.ctlEvent m.val).sendCtl m.val 1 255 255) m ∧
    s.ctlSend m.val = ((s.ctlEvent m.val).sendCtl m.val 1 255 255).setFld F.MAC_FC_STATUS_XOFF_SENT m.val 255 := by
  have still := still_ctlEvent s none_ m.val
  have pauses := sendCtl_pauses (s.ctlEvent m.val) (still.shadow.trans none_) m 255 (on := 255) (by decide)
  refine ⟨pauses.before still.same (congrArg State.out still.frame :) (congrArg State.macCnt still.frame :), ?_⟩
  unfold ctlSend
  dsimp only
  rw [still.fld, still.fld, still.fld, mode, sent, still_wants still, wants_all s asked, if_neg (by decide : (255 : Nat) ≠ 0)]
  rfl

end

/-- A MAC that owes a control frame sends it first. -/
theorem control_first {m : MacId} {lane : Fin 8} (sends : s.ctlSends m.val = true) (none_ : s.shadow = []) (mode : s.fld F.MAC_FC_CTL_MODE m.val = 1)
    (sent : s.fld F.MAC_FC_STATUS_XOFF_SENT m.val = 0) (asked : ∃ j, j < 8 ∧ s.fcUpdate.xoffAsked m.val j = true) :
    ∃ t, exec (.macTxStart m ⟨.none, lane⟩ .ok) s = .next t ∧ t.out = .frame m (pauseFrame s m.val (s.fld F.MAC_FC_CTL_PAUSE_TIME m.val)) :: s.out ∧
      t.fld F.MAC_FC_STATUS_XOFF_SENT m.val = 255 ∧ count t m.val 14 = count s m.val 14 + 1 := by
  obtain ⟨alike, counts⟩ := alike_fcUpdate (s := s)
  have out : s.fcUpdate.out = s.out := (congrArg State.out alike.frame :)
  have none' : s.fcUpdate.shadow = [] := (congrArg State.shadow alike.frame :).trans none_
  have mode' := (alike.fld F.MAC_FC_CTL_MODE m.val).trans mode
  have sent' := (alike.fld F.MAC_FC_STATUS_XOFF_SENT m.val).trans sent
  have up : s.fcUpdate.ctlSends m.val = true := by
    rw [← sends]
    unfold ctlSends macState isSafe
    rw [alike.fld, alike.fld]
  obtain ⟨pauses, is⟩ := ctl_sends mode' sent' asked none'
  have due := ctl_due mode' sent' asked
  have runs : exec (.macTxStart m ⟨.none, lane⟩ .ok) s = .next (s.fcUpdate.ctlSend m.val) := by
    show execMacTxStart m ⟨.none, lane⟩ .ok s = _
    unfold execMacTxStart
    dsimp only
    rw [up, due]
    rfl
  have whole := pauses.before alike.same out counts
  refine ⟨_, runs, ?_⟩
  rw [is]
  generalize (s.fcUpdate.ctlEvent m.val).sendCtl m.val 1 255 255 = t at whole
  exact ⟨whole.out, Fields.fld_setFld_self t (by decide), whole.counts⟩

/-! ### The frame of a MAC that is ready (R307, R310) -/

/-- Every register reads as before; beside registers, only MACs and their FIFOs differ. -/
structure Quiet (s t : State) : Prop where
  frame : t = { s with regs := t.regs, macs := t.macs, macIn := t.macIn }
  same : ∀ r i, t.reg r i = s.reg r i

section
variable {s} {t u : State}

theorem Quiet.trans (first : Quiet s t) (then_ : Quiet t u) : Quiet s u :=
  ⟨by rw [then_.frame, first.frame], fun r i => (then_.same r i).trans (first.same r i)⟩

theorem Quiet.fld (h : Quiet s t) (f : Fld) (i : Nat) : t.fld f i = s.fld f i := congrArg (fun w => getBits w f.lo f.width) (h.same f.reg i)

theorem Quiet.flag (h : Quiet s t) (f : Fld) (i : Nat) : t.flag f i = s.flag f i := congrArg (· != 0) (h.fld f i)

theorem Quiet.shadow (h : Quiet s t) : t.shadow = s.shadow := (congrArg State.shadow h.frame :)

theorem Quiet.kept (h : Quiet s t) : t.out = s.out ∧ t.macCnt = s.macCnt := ⟨(congrArg State.out h.frame :), (congrArg State.macCnt h.frame :)⟩

theorem quiet_still (h : Epochs.Still s t) : Quiet s t := by
  obtain ⟨frame, same⟩ := h
  refine ⟨?_, same⟩
  rw [frame]

theorem quiet_onlyMac {m : Nat} (h : OnlyMac s t m) : Quiet s t := by
  obtain ⟨frame, -⟩ := h
  rw [frame]
  exact ⟨rfl, fun _ _ => rfl⟩

theorem fifo_still (h : Epochs.Still s t) (m p c : Nat) : t.macFifo m p c = s.macFifo m p c :=
  congrArg (fun q => SMap.get [] q (c + 8 * (p + 4 * m))) (congrArg State.macIn h.frame :)

theorem fifo_onlyMac {m' : Nat} (h : OnlyMac s t m') (m p c : Nat) : t.macFifo m p c = s.macFifo m p c :=
  congrArg (fun q => SMap.get [] q (c + 8 * (p + 4 * m))) (congrArg State.macIn h.frame :)

end

theorem fifo_setMacFifo (m p c : Nat) (l : List Pkt) : (s.setMacFifo m p c l).macFifo m p c = l := SMap.get_put_self ..

/-- A head without a launch time changes nothing but what the boundary does. -/
theorem still_headed (none_ : s.shadow = []) {m p c : Nat} (plain : ∀ g ∈ s.macFifo m p c, g.launch = none) : Epochs.Still s (s.headed m p c) := by
  unfold headed
  split
  · exact Epochs.still_refl s
  · next g rest at_ =>
    have launch : g.launch = none := plain g (at_ ▸ List.mem_cons_self ..)
    dsimp only
    rw [launch]
    exact Epochs.still_epoch none_ ..

theorem popMac_quiet {m p c : Nat} {f : Pkt} {rest : List Pkt} (none_ : s.shadow = []) (at_ : s.macFifo m p c = f :: rest)
    (plain : ∀ g ∈ rest, g.launch = none) : Quiet s (s.popMac m p c) ∧ (s.popMac m p c).macFifo m p c = rest := by
  have drop : (s.macFifo m p c).drop 1 = rest := congrArg (List.drop 1) at_
  unfold popMac
  dsimp only
  rw [drop]
  generalize { s.mac m with launchOk := (s.mac m).launchOk.filter (· != (p, c)) } = x
  have fifo := fifo_setMacFifo (s.setMac m x) m p c rest
  have still := still_headed ((s.setMac m x).setMacFifo m p c rest) none_ (m := m) (p := p) (c := c) (by rw [fifo]; exact plain)
  have set : Quiet s ((s.setMac m x).setMacFifo m p c rest) := ⟨rfl, fun _ _ => rfl⟩
  exact ⟨set.trans (quiet_still still), (fifo_still still m p c).trans fifo⟩

/-- The registers whose waiting values a frame that is sent takes. -/
def txBounds : List (Boundary × Reg) := [(.macTx, .MAC_TAG_CTL), (.macFrame, .MAC_TAG_CTL), (.macTx, .MAC_PCP_MAP), (.macTx, .MAC_SECY_CTL),
  (.macFrame, .MAC_SECY_CTL), (.macTx, .TIM_ONESTEP)]

/-- The state in which the frame's bytes are made. -/
def atTx (m p c lane : Nat) : State :=
  txBounds.foldl (fun u b => u.epoch b.1 b.2 m) ((s.popMac m p c).epoch .laneFrame .TIM_CAL_TX lane)

section
variable {m p c : Nat} {f : Pkt} {rest : List Pkt} (none_ : s.shadow = []) (at_ : s.macFifo m p c = f :: rest) (plain : ∀ g ∈ rest, g.launch = none)
include none_ at_ plain

theorem atTx_quiet (lane : Nat) : Quiet s (atTx s m p c lane) ∧ (atTx s m p c lane).macFifo m p c = rest := by
  obtain ⟨pop, fifo⟩ := popMac_quiet s none_ at_ plain
  have first := Epochs.still_epoch (pop.shadow.trans none_) .laneFrame .TIM_CAL_TX lane
  have still : Epochs.Still (s.popMac m p c) (atTx s m p c lane) :=
    first.trans (Epochs.still_foldl _ (fun u b h => Epochs.still_epoch h b.1 b.2 m) (first.shadow.trans (pop.shadow.trans none_)) txBounds)
  exact ⟨pop.trans (quiet_still still), (fifo_still still m p c).trans fifo⟩

end

theorem insertTags_none {m : Nat} (none_ : s.fld F.MAC_TAG_CTL_INSERT m = 0) (c : Nat) (bs : List Byte) : s.insertTags m c bs = bs := by
  unfold insertTags
  dsimp only
  rw [none_]
  show bs.take 12 ++ [] ++ bs.drop 12 = bs
  rw [List.append_nil, List.take_append_drop]

theorem oneStep_off {m : Nat} (off : s.fld F.TIM_ONESTEP_EN m = 0) (t : BitVec 96) (bs : List Byte) : s.oneStep m t bs = bs := by
  have flag : s.flag F.TIM_ONESTEP_EN m = false := congrArg (· != 0) off
  unfold oneStep
  split
  · rfl
  · dsimp only
    split
    · rfl
    · rw [flag]
      rfl

theorem msecProtect_off {m : Nat} (off : s.fld F.MAC_SECY_CTL_EN m = 0) (f : Pkt) (c : CipFault) : s.msecProtect m f c = (.ok f.bytes, s) := by
  have flag : s.flag F.MAC_SECY_CTL_EN m = false := congrArg (· != 0) off
  unfold msecProtect
  rw [flag]
  rfl

theorem onlyMac_cbsFrame (m c n : Nat) : OnlyMac s (s.cbsFrame m c n) m := by
  unfold cbsFrame
  dsimp only
  split
  · next left _ _ =>
    exact (cbsSending_settles s m _).1.trans (onlyMac_setMac _ m _)
  · exact onlyMac_setMac s m _

/-- The frame's bytes as they go out. -/
def body (f : Pkt) : List Byte := f.bytes ++ List.replicate (60 - f.bytes.length) 0

/-- The frame goes out and is counted. -/
def sent (m c : Nat) (f : Pkt) : State :=
  ((s.cbsFrame m c ((body f).length + 4 + 20)).emit (.frame (Fin.ofNat 16 m) (body f ++ fcs32 (body f)))).macCount m 12 |>.macCount m 13 ((body f).length + 4)

section
variable {m p c : Nat} {f : Pkt} (lane : Fin 8) (launch : f.launch = none) (head : f.head = none) (good : f.poisoned = false) (entry : f.entry = none)
  (tags : (atTx s m p c (s.calLane m lane)).fld F.MAC_TAG_CTL_INSERT m = 0) (onestep : (atTx s m p c (s.calLane m lane)).fld F.TIM_ONESTEP_EN m = 0)
  (secy : (atTx s m p c (s.calLane m lane)).fld F.MAC_SECY_CTL_EN m = 0)
include launch head good entry tags onestep secy

theorem txSend_is : s.txSend m p c f ⟨.none, lane⟩ = sent (atTx s m p c (s.calLane m lane)) m c f := by
  have sound : (s.popMac m p c).framePoisoned f = false := by
    unfold framePoisoned
    rw [head, good]
    rfl
  unfold txSend
  dsimp only
  rw [launch]
  dsimp only
  simp only [Bool.false_and, Bool.false_eq_true, if_false]
  rw [sound]
  unfold atTx txBounds at *
  generalize List.foldl _ _ _ = u at *
  rw [msecProtect_off u secy, insertTags_none u tags, oneStep_off u onestep]
  dsimp only
  rw [if_pos rfl]
  simp only [Bool.false_eq_true, if_false, List.map_id']
  unfold txDone releaseOpt
  dsimp only
  rw [head, entry]
  rfl

end

theorem sent_facts (m : MacId) (c p k : Nat) (f : Pkt) : (sent s m.val c f).out = .frame m (body f ++ fcs32 (body f)) :: s.out ∧
    (sent s m.val c f).macFifo m.val p k = s.macFifo m.val p k ∧ count (sent s m.val c f) m.val 12 = count s m.val 12 + 1 := by
  have only := onlyMac_cbsFrame s m.val c ((body f).length + 4 + 20)
  have fifo := fifo_onlyMac only m.val p k
  have out : (s.cbsFrame m.val c ((body f).length + 4 + 20)).out = s.out := (congrArg State.out only.frame :)
  have counts : (s.cbsFrame m.val c ((body f).length + 4 + 20)).macCnt = s.macCnt := (congrArg State.macCnt only.frame :)
  have name : Fin.ofNat 16 m.val = m := Fin.ext (Nat.mod_eq_of_lt m.isLt)
  unfold sent
  rw [name]
  generalize s.cbsFrame m.val c ((body f).length + 4 + 20) = u at *
  generalize Out.frame m (body f ++ fcs32 (body f)) = o
  have twelve := count_macCount (u.emit o) m.val 12 12 1
  have rest := count_macCount ((u.emit o).macCount m.val 12) m.val 13 12 ((body f).length + 4)
  rw [if_pos rfl] at twelve
  rw [if_neg (by decide), twelve] at rest
  have start : count (u.emit o) m.val 12 = count s m.val 12 := congrArg (fun q => SMap.get 0 q (12 + 32 * m.val)) counts
  rw [start] at rest
  obtain ⟨a, counted⟩ := macCount_only (u.emit o) m.val 12 1
  rw [counted] at rest ⊢
  obtain ⟨b, counted'⟩ := macCount_only { u.emit o with macCnt := a } m.val 13 ((body f).length + 4)
  rw [counted'] at rest ⊢
  exact ⟨congrArg (List.cons o) out, fifo, rest⟩

theorem txSend_sends {m : MacId} {p c : Nat} {f : Pkt} {rest : List Pkt} (lane : Fin 8) (none_ : s.shadow = []) (at_ : s.macFifo m.val p c = f :: rest)
    (plain : ∀ g ∈ rest, g.launch = none) (launch : f.launch = none) (head : f.head = none) (good : f.poisoned = false) (entry : f.entry = none)
    (tags : s.fld F.MAC_TAG_CTL_INSERT m.val = 0) (onestep : s.fld F.TIM_ONESTEP_EN m.val = 0) (secy : s.fld F.MAC_SECY_CTL_EN m.val = 0) :
    (s.txSend m.val p c f ⟨.none, lane⟩).out = .frame m (body f ++ fcs32 (body f)) :: s.out ∧ (s.txSend m.val p c f ⟨.none, lane⟩).macFifo m.val p c = rest ∧
      count (s.txSend m.val p c f ⟨.none, lane⟩) m.val 12 = count s m.val 12 + 1 := by
  obtain ⟨quiet, fifo⟩ := atTx_quiet s none_ at_ plain (s.calLane m.val lane)
  rw [txSend_is s lane launch head good entry ((quiet.fld ..).trans tags) ((quiet.fld ..).trans onestep) ((quiet.fld ..).trans secy)]
  have out : (atTx s m.val p c (s.calLane m.val lane)).out = s.out := (congrArg State.out quiet.frame :)
  have counts : (atTx s m.val p c (s.calLane m.val lane)).macCnt = s.macCnt := (congrArg State.macCnt quiet.frame :)
  obtain ⟨out', fifo', counts'⟩ := sent_facts (atTx s m.val p c (s.calLane m.val lane)) m c p c f
  exact ⟨out'.trans (congrArg _ out), fifo'.trans fifo, counts'.trans (congrArg (fun q => SMap.get 0 q (12 + 32 * m.val) + 1) counts)⟩

/-! ### Which frame a MAC sends (R307, R309) -/

/-- What the choice of a frame reads of a MAC: its pauses, its launch times, and where its rotation stands. -/
structure Ready (s t : State) (m : Nat) : Prop where
  same : ∀ r i, t.reg r i = s.reg r i
  fifo : ∀ p c, t.macFifo m p c = s.macFifo m p c
  settled : Settled (s.mac m) (t.mac m)

section
variable {s} {t : State} {m : Nat} (same : Ready s t m) (off : ∀ j, j < 8 → s.fld F.MAC_CBS_EN (8 * m + j) = 0)
include same off

theorem ready_headOk (p : Nat) {c : Nat} (low : c < 8) : t.headOk m p c = s.headOk m p c := by
  obtain ⟨regs, fifo, settled⟩ := same
  have fields (g : Fld) (i : Nat) : t.fld g i = s.fld g i := congrArg (fun w => getBits w g.lo g.width) (regs g.reg i)
  have launches : (t.mac m).launchOk = (s.mac m).launchOk := (congrArg MacSt.launchOk settled :)
  have pauses : t.classPaused m c = s.classPaused m c := by
    have all : (t.mac m).pauseAll = (s.mac m).pauseAll := (congrArg MacSt.pauseAll settled :)
    have each : (t.mac m).paused = (s.mac m).paused := (congrArg MacSt.paused settled :)
    unfold classPaused classPfc
    simp only [all, each, fields]
  have flag : s.flag F.MAC_CBS_EN (8 * m + c) = false := congrArg (· != 0) (off c low)
  have flag' : t.flag F.MAC_CBS_EN (8 * m + c) = false := congrArg (· != 0) ((fields ..).trans (off c low))
  unfold headOk
  rw [fifo, launches, pauses, flag', flag]
  rfl

theorem ready_headClass (p : Nat) : t.headClass m p = s.headClass m p := by
  have each (c : Nat) (low : c < 8) := ready_headOk same off p low
  unfold headClass
  simp only [List.find?, each 7 (by decide), each 6 (by decide), each 5 (by decide), each 4 (by decide), each 3 (by decide), each 2 (by decide),
    each 1 (by decide), each 0 (by decide)]

end

theorem pickPier_now {m p c : Nat} {f : Pkt} {rest : List Pkt} (ready : s.headClass m p = some c) (at_ : s.macFifo m p c = f :: rest)
    (turn : (s.mac m).ptr = p) (affords : f.len ≤ (s.mac m).deficit.getD p 0) :
    s.pickPier m 12 = some (p, c, s.setMac m { s.mac m with deficit := setAt (s.mac m).deficit p ((s.mac m).deficit.getD p 0 - f.len) }) := by
  show s.pickPier m (11 + 1) = _
  unfold pickPier
  dsimp only
  rw [turn, ready]
  dsimp only
  rw [at_]
  dsimp only
  rw [if_pos affords]

theorem mac_still {s t : State} (h : Epochs.Still s t) (m : Nat) : t.mac m = s.mac m :=
  congrArg (fun q => SMap.get ({} : MacSt) q m) (congrArg State.macs h.frame :)

/-- The state in which a MAC chooses. -/
def atSelect (m : Nat) : State := (List.range 8).foldl (fun u k => u.epoch .macSelect .MAC_CBS (8 * m + k)) (s.cbsGap m)

/-- What a MAC's turn does once the XOFF requests are brought up to date (R307, R312). -/
def starts (m : Nat) (lane : Fin 8) : State :=
  if !s.ctlSends m then s
  else if s.ctlDue m then s.ctlSend m
  else if s.swapIdle || (s.mac m).pauseAll then s
  else
    match (if (List.range 4).any fun p => ((atSelect s m).headClass m p).isSome then (atSelect s m).pickPier m 12 else none) with
    | none => atSelect s m
    | some (p, k, u) =>
      match u.macFifo m p k with
      | [] => u
      | f :: _ => u.txSend m p k f ⟨.none, lane⟩

theorem runs_starts (m : MacId) (lane : Fin 8) : exec (.macTxStart m ⟨.none, lane⟩ .ok) s = .next (starts s.fcUpdate m.val lane) := by
  show execMacTxStart m ⟨.none, lane⟩ .ok s = _
  unfold execMacTxStart
  dsimp only
  generalize s.fcUpdate = u
  rfl

theorem ready_atSelect (none_ : s.shadow = []) (m : Nat) : Quiet s (atSelect s m) ∧ Ready s (atSelect s m) m := by
  obtain ⟨only, settled⟩ := cbsGap_settles s m
  have quiet := quiet_onlyMac only
  have still : Epochs.Still (s.cbsGap m) (atSelect s m) :=
    Epochs.still_foldl _ (fun u k h => Epochs.still_epoch h .macSelect .MAC_CBS (8 * m + k)) (quiet.shadow.trans none_) (List.range 8)
  have macs := mac_still still m
  have whole := quiet.trans (quiet_still still)
  exact ⟨whole, whole.same, fun p c => (fifo_still still m p c).trans (fifo_onlyMac only m p c), macs ▸ settled⟩

section
variable {s} {m : MacId} {p : Pier} {c : Fin 8} {f : Pkt} {rest : List Pkt} (lane : Fin 8) (none_ : s.shadow = []) (at_ : s.macFifo m.val p.val c.val = f :: rest)
  (off : ∀ j, j < 8 → s.fld F.MAC_CBS_EN (8 * m.val + j) = 0) (ready : s.headClass m.val p.val = some c.val) (turn : (s.mac m.val).ptr = p.val)
  (affords : f.len ≤ (s.mac m.val).deficit.getD p.val 0)
include none_ at_ off ready turn affords

/-- Whose turn it is sends. -/
theorem turn_sends (up : s.ctlSends m.val = true) (due : s.ctlDue m.val = false) (idle : s.swapIdle = false) (pause : (s.mac m.val).pauseAll = false) :
    ∃ t, Quiet s t ∧ t.macFifo m.val p.val c.val = f :: rest ∧
      starts s m.val lane = t.txSend m.val p.val c.val f ⟨.none, lane⟩ := by
  obtain ⟨quiet, same⟩ := ready_atSelect s none_ m.val
  have ready' := (ready_headClass same off p.val).trans ready
  have at' := (same.fifo p.val c.val).trans at_
  have turn' : ((atSelect s m.val).mac m.val).ptr = p.val := (congrArg MacSt.ptr same.settled :).trans turn
  have affords' : f.len ≤ ((atSelect s m.val).mac m.val).deficit.getD p.val 0 := by
    rw [show ((atSelect s m.val).mac m.val).deficit = (s.mac m.val).deficit from (congrArg MacSt.deficit same.settled :)]
    exact affords
  have some_ : ((List.range 4).any fun p => ((atSelect s m.val).headClass m.val p).isSome) = true :=
    List.any_eq_true.2 ⟨p.val, List.mem_range.2 p.isLt, by rw [ready']; rfl⟩
  have picked := pickPier_now (atSelect s m.val) ready' at' turn' affords'
  unfold starts
  rw [up, due, idle, pause, some_]
  generalize atSelect s m.val = u at *
  generalize hy : ({ u.mac m.val with deficit := _ } : MacSt) = y at picked
  have only := onlyMac_setMac u m.val y
  have at'' := (fifo_onlyMac only m.val p.val c.val).trans at'
  refine ⟨u.setMac m.val y, quiet.trans (quiet_onlyMac only), at'', ?_⟩
  rw [if_neg (by decide), if_neg (by decide), if_neg (by decide), if_pos rfl, picked]
  dsimp only
  rw [at'']

end

/-- The frame whose turn it is goes out. -/
theorem frame_sent {m : MacId} {p : Pier} {c : Fin 8} {f : Pkt} {rest : List Pkt} (lane : Fin 8) (sends : s.macSends m.val = true)
    (due : s.fcUpdate.ctlDue m.val = false) (pause : (s.mac m.val).pauseAll = false) (none_ : s.shadow = []) (at_ : s.macFifo m.val p.val c.val = f :: rest)
    (launch : f.launch = none) (head : f.head = none) (good : f.poisoned = false) (entry : f.entry = none)
    (off : ∀ j, j < 8 → s.fld F.MAC_CBS_EN (8 * m.val + j) = 0) (ready : s.headClass m.val p.val = some c.val) (turn : (s.mac m.val).ptr = p.val)
    (affords : f.len ≤ (s.mac m.val).deficit.getD p.val 0) (tags : s.fld F.MAC_TAG_CTL_INSERT m.val = 0) (onestep : s.fld F.TIM_ONESTEP_EN m.val = 0)
    (secy : s.fld F.MAC_SECY_CTL_EN m.val = 0) (plain : ∀ g ∈ rest, g.launch = none) :
    ∃ t, exec (.macTxStart m ⟨.none, lane⟩ .ok) s = .next t ∧ t.out = .frame m (body f ++ fcs32 (body f)) :: s.out ∧ t.macFifo m.val p.val c.val = rest ∧
      count t m.val 12 = count s m.val 12 + 1 := by
  obtain ⟨alike, counts⟩ := alike_fcUpdate (s := s)
  obtain ⟨up, idle⟩ := (Bool.and_eq_true _ _).mp sends
  have out : s.fcUpdate.out = s.out := (congrArg State.out alike.frame :)
  have none' : s.fcUpdate.shadow = [] := (congrArg State.shadow alike.frame :).trans none_
  have fifos : s.fcUpdate.macIn = s.macIn := (congrArg State.macIn alike.frame :)
  have macs : s.fcUpdate.mac m.val = s.mac m.val := congrArg (fun q => SMap.get ({} : MacSt) q m.val) (congrArg State.macs alike.frame :)
  have fifo (k j : Nat) : s.fcUpdate.macFifo m.val k j = s.macFifo m.val k j := congrArg (fun q => SMap.get [] q (j + 8 * (k + 4 * m.val))) fifos
  have same : Ready s s.fcUpdate m.val := ⟨alike.same, fifo, by rw [macs]; exact settled_refl _⟩
  have up' : s.fcUpdate.ctlSends m.val = true := by
    rw [← up]
    unfold ctlSends macState isSafe
    rw [alike.fld, alike.fld]
  have idle' : s.fcUpdate.swapIdle = false := by
    rw [← Bool.not_eq_true', ← idle]
    unfold swapIdle
    rw [alike.fld]
  have affords' : f.len ≤ (s.fcUpdate.mac m.val).deficit.getD p.val 0 := by
    rw [macs]
    exact affords
  obtain ⟨t, quiet, at', runs⟩ := turn_sends lane none' ((fifo ..).trans at_) (fun j low => (alike.fld ..).trans (off j low))
    ((ready_headClass same off p.val).trans ready) ((congrArg MacSt.ptr macs).trans turn) affords' up' due idle' ((congrArg MacSt.pauseAll macs).trans pause)
  obtain ⟨out', fifo', counts'⟩ := txSend_sends t lane (quiet.shadow.trans none') at' plain launch head good entry ((quiet.fld ..).trans ((alike.fld ..).trans tags))
    ((quiet.fld ..).trans ((alike.fld ..).trans onestep)) ((quiet.fld ..).trans ((alike.fld ..).trans secy))
  have before : t.out = s.out ∧ t.macCnt = s.macCnt := ⟨quiet.kept.1.trans out, quiet.kept.2.trans counts⟩
  have first : count t m.val 12 = count s m.val 12 := congrArg (fun q => SMap.get 0 q (12 + 32 * m.val)) before.2
  have start := runs_starts s m lane
  rw [runs] at start
  rw [before.1] at out'
  rw [first] at counts'
  exact ⟨_, start, out', fifo', counts'⟩

end Sys2Proof.Machine.Sending
end

section
/-!
PROOFS. The TMS's decisions (R276–R280): the queue it serves, where the frame goes, and an uncorrected error in a queue.
-/

namespace Sys2Proof.Machine.Decisions
open State

variable (s : State)

/-! ### What a decision changes beside the queues -/

/-- Settling the tree clears deficits of its nodes alone. -/
theorem settle_only (p : Nat) : ∃ y, s.settle p = { s with nodes := y } := by
  unfold settle
  dsimp only
  generalize (s.pierImg p).nodes = l
  have fold : ∀ u : State, (∃ y, u = { s with nodes := y }) → ∃ y, l.foldl (fun u n =>
      let k := nodeKey p n.level.val n.index
      if n.level.val ≠ 0 ∧ (u.node k).deficit ≠ 0 ∧ u.childState p n.level.val n.index = 0 then u.setNode k { u.node k with deficit := 0 } else u) u =
      { s with nodes := y } := by
    induction l with
    | nil => exact fun _ h => h
    | cons n l ih =>
      intro u h
      refine ih _ ?_
      dsimp only
      split
      · obtain ⟨y, is⟩ := h
        rw [is]
        exact ⟨_, rfl⟩
      · exact h
  exact fold s ⟨s.nodes, rfl⟩

/-- The frame's bytes are charged to its port, group, Span node and queue. -/
def charged (p port g n q l : Nat) : State :=
  (((s.chargePort (nodeKey p 0 port) l).chargeNode (nodeKey p 1 g) l).chargeNode (nodeKey p 2 n) l).chargeNode (nodeKey p 3 q) l

theorem chargeNode_only (k l : Nat) : ∃ y, s.chargeNode k l = { s with nodes := y } := ⟨_, rfl⟩

theorem charged_only (p port g n q l : Nat) : ∃ y, charged s p port g n q l = { s with nodes := y } := by
  unfold charged
  obtain ⟨a, first⟩ : ∃ y, s.chargePort (nodeKey p 0 port) l = { s with nodes := y } := ⟨_, rfl⟩
  rw [first]
  obtain ⟨b, second⟩ := chargeNode_only { s with nodes := a } (nodeKey p 1 g) l
  rw [second]
  obtain ⟨c, third⟩ := chargeNode_only { s with nodes := b } (nodeKey p 2 n) l
  rw [third]
  exact chargeNode_only { s with nodes := c } (nodeKey p 3 q) l

/-! ### Where the frame goes (R280) -/

/-- The queues through which frames go on are the same. -/
structure Lines (s t : State) : Prop where
  tms : t.tmsQ = s.tmsQ
  turns : t.arbiter = s.arbiter
  mac : t.macIn = s.macIn
  rx : t.rxIn = s.rxIn
  eqs : t.eqs = s.eqs

section
variable {s} {p q : Nat} {f : Pkt} {nd : TreeNode} (leaf : s.treeNode p 3 q = some nd) (launch : f.launch = none)
include leaf

include launch in
/-- A frame of a WIRE queue joins the FIFO of its port. -/
theorem handOff_wire (wire : nd.kind = 0) : Lines (s.setMacFifo (s.portOf p q) p nd.tc (s.macFifo (s.portOf p q) p nd.tc ++ [{ f with tc := nd.tc }]))
    (s.handOff p q f) := by
  have only := (Sending.cbsGap_settles s (s.portOf p q)).1.frame
  unfold handOff
  rw [leaf]
  dsimp only
  rw [if_pos wire]
  generalize s.cbsGap (s.portOf p q) = u at *
  rw [only]
  split
  · next empty =>
    rw [List.isEmpty_iff.1 empty]
    unfold headed
    rw [Sending.fifo_setMacFifo]
    dsimp only [List.nil_append]
    rw [launch]
    exact ⟨rfl, rfl, rfl, rfl, rfl⟩
  · exact ⟨rfl, rfl, rfl, rfl, rfl⟩

theorem handOff_rx (host : nd.kind = 1) : s.handOff p q f = s.setRx p (s.rx p ++ [f]) := by
  unfold handOff
  rw [leaf]
  dsimp only
  rw [host]
  rfl

theorem handOff_engine (engine : nd.kind ≠ 0 ∧ nd.kind ≠ 1) : Lines (s.setEq (3 * p + nd.truss) (s.eq (3 * p + nd.truss) ++ [.packet f])) (s.handOff p q f) := by
  unfold handOff
  rw [leaf]
  dsimp only
  rw [if_neg engine.1, if_neg engine.2]
  have wakes := Exceptions.power_sourceWake (s.setEq (3 * p + nd.truss) (s.eq (3 * p + nd.truss) ++ [.packet f])) (3 * p + nd.truss)
  unfold eqPush
  rw [wakes]
  exact ⟨rfl, rfl, rfl, rfl, rfl⟩

end

/-- The state in which a served frame is handed off. -/
def served (p port g n q : Nat) (rest : List Pkt) (l : Nat) : State :=
  { charged (s.setTq p q rest) p port g n q l with arbiter := SMap.put 0 (charged (s.setTq p q rest) p port g n q l).arbiter p ((port + 1) % 18) }

theorem served_only (p port g n q : Nat) (rest : List Pkt) (l : Nat) : ∃ y, served s p port g n q rest l =
    { s with tmsQ := SMap.put [] s.tmsQ (q + 16384 * p) rest, nodes := y, arbiter := SMap.put 0 s.arbiter p ((port + 1) % 18) } := by
  unfold served
  obtain ⟨y, is⟩ := charged_only (s.setTq p q rest) p port g n q l
  rw [is]
  exact ⟨y, rfl⟩

/-- A step that takes one frame from a queue of the tree to the next place. -/
structure Serves (t : State) (p q port : Nat) (nd : TreeNode) (f : Pkt) (rest : List Pkt) : Prop where
  queue : t.tq p q = rest
  turn : SMap.get 0 t.arbiter p = (port + 1) % 18
  wire : nd.kind = 0 → t.macFifo (s.portOf p q) p nd.tc = s.macFifo (s.portOf p q) p nd.tc ++ [{ f with tc := nd.tc }]
  host : nd.kind = 1 → t.rx p = s.rx p ++ [f]
  engine : nd.kind = 2 → t.eq (3 * p + nd.truss) = s.eq (3 * p + nd.truss) ++ [.packet f]

theorem Serves.of_lines {s t u : State} {p q port : Nat} {nd : TreeNode} {f : Pkt} {rest : List Pkt} (same : Lines u t) (h : Serves s u p q port nd f rest) :
    Serves s t p q port nd f rest := by
  obtain ⟨tms, turns, mac, rx, eqs⟩ := same
  obtain ⟨queue, turn, wire, host, engine⟩ := h
  unfold tq macFifo State.rx State.eq at *
  rw [← tms] at queue
  rw [← turns] at turn
  rw [← mac] at wire
  rw [← rx] at host
  rw [← eqs] at engine
  exact ⟨queue, turn, wire, host, engine⟩

theorem handOff_serves {p q : Nat} {f : Pkt} {nd : TreeNode} (port g n : Nat) (rest : List Pkt) (l : Nat) (leaf : s.treeNode p 3 q = some nd)
    (launch : f.launch = none) : Serves s (((served s p port g n q rest l).handOff p q f).settle p) p q port nd f rest := by
  obtain ⟨y, is⟩ := settle_only ((served s p port g n q rest l).handOff p q f) p
  refine .of_lines (u := (served s p port g n q rest l).handOff p q f) (is ▸ ⟨rfl, rfl, rfl, rfl, rfl⟩) ?_
  obtain ⟨z, was⟩ := served_only s p port g n q rest l
  generalize served s p port g n q rest l = u at *
  have leaf' : u.treeNode p 3 q = some nd := by
    rw [was]
    exact leaf
  have port' : u.portOf p q = s.portOf p q := by
    rw [was]
    rfl
  have queue : SMap.get [] u.tmsQ (q + 16384 * p) = rest := by
    rw [was]
    exact SMap.get_put_self ..
  have turn : SMap.get 0 u.arbiter p = (port + 1) % 18 := by
    rw [was]
    exact SMap.get_put_self ..
  have same : u.macIn = s.macIn ∧ u.rxIn = s.rxIn ∧ u.eqs = s.eqs := by
    rw [was]
    exact ⟨rfl, rfl, rfl⟩
  obtain ⟨mac, rx, eqs⟩ := same
  by_cases wire : nd.kind = 0
  · refine .of_lines (handOff_wire leaf' launch wire) ⟨queue, turn, fun _ => ?_, fun e => absurd (wire.symm.trans e) (by decide),
      fun e => absurd (wire.symm.trans e) (by decide)⟩
    rw [port', Sending.fifo_setMacFifo]
    unfold macFifo
    rw [mac]
  · by_cases host : nd.kind = 1
    · rw [handOff_rx leaf' host]
      refine ⟨queue, turn, fun e => absurd e wire, fun _ => ?_, fun e => absurd (host.symm.trans e) (by decide)⟩
      unfold State.rx setRx
      rw [SMap.get_put_self, rx]
    · refine .of_lines (handOff_engine leaf' ⟨wire, host⟩) ⟨queue, turn, fun e => absurd e wire, fun e => absurd e host, fun _ => ?_⟩
      unfold State.eq setEq
      rw [SMap.get_put_self, eqs]

/-- The TMS serves the queue that its picks lead to. -/
theorem tms_serves {p : Pier} {port g n q : Nat} {s1 s2 s3 : State} {f : Pkt} {rest : List Pkt} {nd : TreeNode}
    (go : s.tmsHeld p.val = false) (turn : s.pickPort p.val = some port)
    (group : (s.epoch .portPick .TMS_NODE_OVERHEAD (nodeKey p.val 0 port)).pickGroup p.val
      ((s.epoch .portPick .TMS_NODE_OVERHEAD (nodeKey p.val 0 port)).fld F.TMS_NODE_OVERHEAD_BYTES (nodeKey p.val 0 port)) port = some (g, s1))
    (span : s1.pickSpanNode p.val ((s.epoch .portPick .TMS_NODE_OVERHEAD (nodeKey p.val 0 port)).fld F.TMS_NODE_OVERHEAD_BYTES (nodeKey p.val 0 port)) g = some (n, s2))
    (queue : s2.pickQueue p.val ((s.epoch .portPick .TMS_NODE_OVERHEAD (nodeKey p.val 0 port)).fld F.TMS_NODE_OVERHEAD_BYTES (nodeKey p.val 0 port)) n = some (q, s3))
    (at_ : s3.tq p.val q = f :: rest) (leaf : s3.treeNode p.val 3 q = some nd) (launch : f.launch = none) :
    ∃ t, exec (.tmsDecision p none) s = .next t ∧ Serves s3 t p.val q port nd f rest := by
  refine ⟨_, ?_, handOff_serves s3 port g n rest
    (f.len + (s.epoch .portPick .TMS_NODE_OVERHEAD (nodeKey p.val 0 port)).fld F.TMS_NODE_OVERHEAD_BYTES (nodeKey p.val 0 port)) leaf launch⟩
  refine congrArg Host.Outcome.next ?_
  show s.tmsDecide p.val = _
  unfold tmsDecide
  rw [go, turn]
  dsimp only
  rw [group]
  dsimp only
  rw [span]
  dsimp only
  rw [queue]
  dsimp only
  rw [at_]
  rfl

theorem held_waits {p : Nat} (held : s.tmsHeld p = true) : s.tmsDecide p = s := by
  unfold tmsDecide
  rw [held]
  rfl

theorem held_decision {p : Pier} (held : s.tmsHeld p.val = true) : exec (.tmsDecision p none) s = .next s :=
  congrArg Host.Outcome.next (held_waits s held)

/-! ### An uncorrected error in a queue (R286) -/

/-- The registers that hold an engine of the TMS, and its error count: nothing that drops frames changes them. -/
def holdRegs : List Reg := [.FCU_SAFE_STATUS, .CFG_STATUS, .PWR_DOMAINS, .TMS_STORE_ERR]

/-- The queues of the tree and those registers are as they were. -/
structure Drops (s t : State) : Prop where
  tms : t.tmsQ = s.tmsQ
  reg : ∀ r ∈ holdRegs, ∀ i, t.reg r i = s.reg r i

theorem Drops.trans {s t u : State} (first : Drops s t) (then_ : Drops t u) : Drops s u :=
  ⟨then_.tms.trans first.tms, fun r own i => (then_.reg r own i).trans (first.reg r own i)⟩

theorem Drops.fld {s t : State} (h : Drops s t) (f : Fld) (i : Nat) (own : f.reg ∈ holdRegs) : t.fld f i = s.fld f i :=
  congrArg (fun w => getBits w f.lo f.width) (h.reg f.reg own i)

theorem drops_dropPkt (f : Pkt) (code : Nat) : Drops s (s.dropPkt f code) := by
  have takes := Pool.takes_releaseOpt s f.head
  have back : Drops s (s.releaseOpt f.head) := by
    refine ⟨by rw [takes.only], fun r own i => takes.reg r i fun e => ?_⟩
    exact absurd own (by revert r; decide)
  unfold dropPkt
  dsimp only
  split
  · exact ⟨back.tms, back.reg⟩
  · exact back

theorem drops_all (l : List Pkt) : Drops s (l.foldl (fun u f => u.dropPkt f 14) s) := by
  induction l generalizing s with
  | nil => exact ⟨rfl, fun _ _ _ => rfl⟩
  | cons f l ih => exact (drops_dropPkt s f 14).trans (ih _)

theorem held_of_drops {s t : State} {p : Nat} (h : ∀ r ∈ holdRegs, r ≠ .TMS_STORE_ERR → ∀ i, t.reg r i = s.reg r i) : t.tmsHeld p = s.tmsHeld p := by
  have kept (f : Fld) (own : f.reg ∈ holdRegs) (other : f.reg ≠ .TMS_STORE_ERR) (i : Nat) : t.fld f i = s.fld f i :=
    congrArg (fun w => getBits w f.lo f.width) (h f.reg own other i)
  unfold tmsHeld isSafe pierPwr
  rw [kept F.FCU_SAFE_STATUS_STATE (by decide) (by decide), kept F.CFG_STATUS_STATE (by decide) (by decide),
    kept (F.PWR_DOMAINS_PIER p) (List.mem_of_elem_eq_true rfl) (fun e => Reg.noConfusion e)]

/-- The queue, emptied. -/
def emptied (p q : Nat) : State := State.settle ((s.tq p q).foldl (fun u f => u.dropPkt f 14) (s.setTq p q [])) p

theorem emptied_drops (p q : Nat) : Drops (s.setTq p q []) (emptied s p q) := by
  unfold emptied
  obtain ⟨y, is⟩ := settle_only ((s.tq p q).foldl (fun u f => u.dropPkt f 14) (s.setTq p q [])) p
  have drops := drops_all (s.setTq p q []) (s.tq p q)
  rw [is]
  exact ⟨drops.tms, drops.reg⟩

/-- The error is counted, captured if none was, and raised. -/
def told (p lay : Nat) : State :=
  (if (s.bump F.TMS_STORE_ERR_UE p).flag F.TMS_ERR_CAPTURE_VALID p then s.bump F.TMS_STORE_ERR_UE p
    else (s.bump F.TMS_STORE_ERR_UE p).setReg .TMS_ERR_CAPTURE p (BitVec.ofNat 64 lay))

theorem told_facts (p lay : Nat) : (told s p lay).tmsQ = s.tmsQ ∧ (∀ r, r ≠ .TMS_STORE_ERR → r ≠ .TMS_ERR_CAPTURE → ∀ i, (told s p lay).reg r i = s.reg r i) ∧
    (told s p lay).fld F.TMS_STORE_ERR_UE p = min (s.fld F.TMS_STORE_ERR_UE p + 1) 0xFFFFFFFF := by
  have counted : (s.bump F.TMS_STORE_ERR_UE p).fld F.TMS_STORE_ERR_UE p = min (s.fld F.TMS_STORE_ERR_UE p + 1) 0xFFFFFFFF := Fields.fld_bump_self s (by decide)
  unfold told
  split
  · exact ⟨rfl, fun r other _ _ => Fields.reg_bump_other s other, counted⟩
  · exact ⟨rfl, fun r other other' _ => (Fields.reg_setReg_other _ other').trans (Fields.reg_bump_other s other),
      (Fields.fld_setReg_other _ (by decide)).trans counted⟩

theorem ecc_empties {p : Pier} {x : TmsErr} (held : s.tmsHeld p.val = true) (unc : x.uncorrected = true) (kind : x.kind = 1) :
    ∃ t, exec (.tmsDecision p (some x)) s = .next t ∧ t.tq p.val x.index.val = [] ∧
      t.fld F.TMS_STORE_ERR_UE p.val = min (s.fld F.TMS_STORE_ERR_UE p.val + 1) 0xFFFFFFFF := by
  obtain ⟨lay, hlay⟩ : ∃ lay, lay = x.level.val + 4 * x.index.val + 2 ^ 16 * x.kind.val + 2 ^ 31 := ⟨_, rfl⟩
  have is : ∃ d, s.tmsEcc p.val x = (told (emptied s p.val x.index.val) p.val lay).raise (tmsSrc p.val) 0x01 d := by
    unfold tmsEcc
    rw [unc, kind, hlay, kind]
    exact ⟨_, rfl⟩
  obtain ⟨d, is⟩ := is
  have drops := emptied_drops s p.val x.index.val
  obtain ⟨tms, regs, ue⟩ := told_facts (emptied s p.val x.index.val) p.val lay
  generalize told (emptied s p.val x.index.val) p.val lay = u at *
  have calm := TimeUnit.calm_raise u (tmsSrc p.val) 0x01 d
  have signals := Signals.signals_raise u (tmsSrc p.val) 0x01 d
  have held' : (u.raise (tmsSrc p.val) 0x01 d).tmsHeld p.val = true := by
    rw [← held]
    refine held_of_drops fun r own other i => ?_
    have apart : r ∉ TimeUnit.captureRegs ∧ r ≠ .TMS_ERR_CAPTURE := by
      revert r
      decide
    exact (calm.reg r i apart.1).trans ((regs r other apart.2 i).trans (drops.reg r own i))
  refine ⟨_, congrArg Host.Outcome.next ((congrArg (fun t => State.tmsDecide t p.val) is).trans (held_waits _ held')), ?_, ?_⟩
  · have kept : (u.raise (tmsSrc p.val) 0x01 d).tmsQ = u.tmsQ := (congrArg State.tmsQ signals :)
    unfold tq
    rw [kept, tms, drops.tms]
    exact SMap.get_put_self (d := []) s.tmsQ _ []
  · rw [HostErrors.fld_raise _ _ _ _ _ (by decide), ue, drops.fld F.TMS_STORE_ERR_UE p.val (by decide)]
    rfl

end Sys2Proof.Machine.Decisions
end

section
/-!
PROOFS. The refill tick (R279, R303): what the buckets hold after it, and the RESTARTs it ends.
-/

namespace Sys2Proof.Machine.Refills
open State TimeUnit

variable (s : State)

/-! ### The bounds of the time unit leave the buckets alone (R334, R335) -/

theorem sealed_timTogether (f : State → State) (keeps : ∀ u, Boots.Sealed u (f u)) : Boots.Sealed s (s.timTogether f) := by
  unfold timTogether evtTogether
  dsimp only
  split
  · exact keeps s
  · obtain ⟨sec, slots, phase, eth, nodes, seqs⟩ := keeps (s.setReg .TIM_EVT_EN 0 0)
    generalize f (s.setReg .TIM_EVT_EN 0 0) = u at *
    have back : Boots.Sealed s (u.setReg .TIM_EVT_EN 0 (s.reg .TIM_EVT_EN 0)) := ⟨sec, slots, phase, eth, nodes, seqs⟩
    exact back.trans (Boots.sealed_signals _ (Signals.signals_mfVector ..))

theorem sealed_boundTick : Boots.Sealed s s.boundTick := by
  have first : Boots.Sealed s (bounded s) := ⟨rfl, rfl, rfl, rfl, rfl, rfl⟩
  by_cases late : overLimit s
  · rw [boundTick_over late]
    refine first.trans (sealed_timTogether _ _ fun u => (Boots.sealed_setTimState u 0).trans ?_)
    exact (Boots.sealed_signals _ (Signals.signals_setEvt ..)).trans (Boots.sealed_signals _ (Signals.signals_raise ..))
  · rw [boundTick_within late]
    exact first

/-- The registers that the bounds at a refill tick can change. -/
def boundRegs : List Reg := [.TIM_BOUND, .TIM_EVT_EN, .HEP_DROP_CNT, .TIM_STATE, .TIM_EVT] ++ pageRegs ++ captureRegs

theorem reg_boundTick {r : Reg} (i : Nat) (other : r ∉ boundRegs) : s.boundTick.reg r i = s.reg r i := by
  have apart (l : List Reg) (sub : l ⊆ boundRegs) : r ∉ l := fun named => other (sub named)
  have bound : r ≠ .TIM_BOUND := fun e => apart [.TIM_BOUND] (by decide) (e ▸ List.mem_singleton_self _)
  have first : (bounded s).reg r i = s.reg r i := by
    exact (Fields.reg_setFld_other (f := F.TIM_BOUND_HOLD_PS) _ bound).trans (Fields.reg_setFld_other (f := F.TIM_BOUND_BOUND_DEV_PS) _ bound)
  by_cases late : overLimit s
  · rw [boundTick_over late]
    obtain ⟨u, before, after⟩ := timTogether_cases (bounded s) fun u => reported (u.setTimState 0) 2 0x02 (boundPs s)
    rw [after.reg r i (apart _ (by decide)), (calm_reported _ 2 0x02 (boundPs s)).reg r i (apart _ (by decide)), (calm_setTimState u 0).reg r i (apart _ (by decide)), before.reg r i (apart _ (by decide)), first]
  · rw [boundTick_within late, first]

/-! ### The end of a RESTART (R303) -/

theorem seqs_refilled : (refilled s).portSeq = s.portSeq := by
  have node (u : State) (k : Nat) (b : Bool) : (u.refillNode k b).portSeq = u.portSeq := rfl
  have nodes (l : List TreeNode) (p : Nat) (u : State) : (l.foldl (fun v n => if n.level.val = 0 then v else v.refillNode (nodeKey p n.level.val n.index) false) u).portSeq =
      u.portSeq := Macs.foldl_keeps State.portSeq (fun v n => by split; rfl; exact node ..) l u
  have ports (l : List Nat) (p : Nat) (u : State) : (l.foldl (fun v i => v.refillNode (nodeKey p 0 i) true) u).portSeq = u.portSeq :=
    Macs.foldl_keeps State.portSeq (fun v i => node ..) l u
  have pols (l : List Nat) (u : State) : (l.foldl refillPol u).portSeq = u.portSeq :=
    Macs.foldl_keeps (f := refillPol) State.portSeq (fun _ _ => rfl) l u
  have slow (l : List Nat) (u : State) : (l.foldl slowRefill u).portSeq = u.portSeq :=
    Macs.foldl_keeps (f := slowRefill) State.portSeq (fun _ _ => rfl) l u
  refine (slow _ _).trans ?_
  unfold tmsTick
  refine (pols _ _).trans ((Macs.foldl_keeps State.portSeq (fun u p => ?_) _ _).trans rfl)
  dsimp only
  split
  · rfl
  · exact (nodes ..).trans (ports ..)

theorem restartEnd_self {port : Nat} (busy : s.flag F.MAC_PORT_STATUS_BUSY port = true) : (s.restartEnd port).flag F.MAC_PORT_STATUS_BUSY port = false ∧
    (s.restartEnd port).Ended F.MAC_PORT_STATUS_LAST_RESULT F.MAC_PORT_STATUS_LAST_SEQ port 0 (SMap.get 0 s.portSeq port) := by
  unfold restartEnd
  rw [if_pos busy]
  have idle : ((s.setFld F.MAC_PORT_STATUS_BUSY port 0).portEnd port 0 (SMap.get 0 s.portSeq port)).fld F.MAC_PORT_STATUS_BUSY port = 0 :=
    (Fields.fld_endCmd_apart _ (by decide) (by decide)).trans (Fields.fld_setFld_self s (by decide))
  refine ⟨congrArg (· != 0) idle, ?_, ?_⟩
  · exact (Fields.fld_setFld_apart _ (by decide)).trans (Fields.fld_setFld_self _ (by decide))
  · refine (Fields.fld_setFld_self _ (by decide)).trans (Nat.mod_eq_of_lt ?_)
    exact (SMap.get 0 s.portSeq port).isLt

theorem restartEnd_other {port j : Nat} (other : j ≠ port) : (s.restartEnd port).reg .MAC_PORT_STATUS j = s.reg .MAC_PORT_STATUS j ∧
    (s.restartEnd port).portSeq = s.portSeq := by
  unfold restartEnd
  split
  · generalize SMap.get 0 s.portSeq port = q
    exact ⟨(reg_setFld_ne _ _ (.inr other)).trans ((reg_setFld_ne _ _ (.inr other)).trans (reg_setFld_ne s _ (.inr other))), rfl⟩
  · exact ⟨rfl, rfl⟩

theorem flag_of_reg {s t : State} {f : Fld} {i : Nat} (same : t.reg f.reg i = s.reg f.reg i) : t.flag f i = s.flag f i :=
  congrArg (fun w => getBits w f.lo f.width != 0) same

theorem ended_of_reg {s t : State} {f g : Fld} {i code : Nat} {q : Seq} (same : t.reg f.reg i = s.reg f.reg i) (same' : t.reg g.reg i = s.reg g.reg i) (h : s.Ended f g i code q) :
    t.Ended f g i code q :=
  ⟨(congrArg (fun w => getBits w f.lo f.width) same).trans h.1, (congrArg (fun w => getBits w g.lo g.width) same').trans h.2⟩

/-- Both ports' RESTARTs end. -/
theorem restartEnds {j : Port} (busy : s.flag F.MAC_PORT_STATUS_BUSY j.val = true) : ((s.restartEnd 0).restartEnd 1).flag F.MAC_PORT_STATUS_BUSY j.val = false ∧
    ((s.restartEnd 0).restartEnd 1).Ended F.MAC_PORT_STATUS_LAST_RESULT F.MAC_PORT_STATUS_LAST_SEQ j.val 0 (SMap.get 0 s.portSeq j.val) := by
  match j with
  | 0 =>
    obtain ⟨idle, ended⟩ := restartEnd_self s busy
    obtain ⟨same, -⟩ := restartEnd_other (s.restartEnd 0) (port := 1) (j := 0) (by decide)
    exact ⟨(flag_of_reg same).trans idle, ended_of_reg same same ended⟩
  | 1 =>
    obtain ⟨same, seqs⟩ := restartEnd_other s (port := 0) (j := 1) (by decide)
    rw [← seqs]
    exact restartEnd_self (s.restartEnd 0) ((flag_of_reg same).trans busy)

/-- A RESTART that is busy ends with the tick. -/
theorem tick_ends_restart {j : Port} (up : s.coreUp = true) (busy : s.flag F.MAC_PORT_STATUS_BUSY j.val = true) : ∃ t, exec .refillTick s = .next t ∧
    t.flag F.MAC_PORT_STATUS_BUSY j.val = false ∧ t.Ended F.MAC_PORT_STATUS_LAST_RESULT F.MAC_PORT_STATUS_LAST_SEQ j.val 0 (SMap.get 0 s.portSeq j.val) := by
  have runs := exec_refillTick_up up
  have seqs : (refilled s).boundTick.portSeq = s.portSeq := (sealed_boundTick (refilled s)).portSeq.trans (seqs_refilled s)
  have stat : (refilled s).boundTick.reg .MAC_PORT_STATUS j.val = s.reg .MAC_PORT_STATUS j.val :=
    (reg_boundTick _ _ (by decide)).trans ((keeps_refilled s).reg _ _ (by decide))
  generalize (refilled s).boundTick = u at *
  have ends := restartEnds u ((flag_of_reg stat).trans busy)
  rw [seqs] at ends
  exact ⟨_, runs, ends⟩


/-! ### The buckets at a tick (R279) -/

theorem foldl_keeps_on {A B : Type} {f : B → A → B} {R : B → Prop} (l : List A) (step : ∀ b, ∀ x ∈ l, R b → R (f b x)) : ∀ {b : B}, R b → R (l.foldl f b) := by
  induction l with
  | nil => exact fun h => h
  | cons x l ih => exact fun h => ih (fun c y named => step c y (List.mem_cons_of_mem _ named)) (step _ x (List.mem_cons_self ..) h)

/-- A fold in which one element acts, once. -/
theorem foldl_at {A B : Type} {f : B → A → B} {P Q : B → Prop} {a : A} {l : List A} (before : ∀ b, ∀ x ∈ l, x ≠ a → P b → P (f b x))
    (acts : ∀ b, P b → Q (f b a)) (after : ∀ b, ∀ x ∈ l, x ≠ a → Q b → Q (f b x)) (named : a ∈ l) (once : l.Nodup) {b : B} (start : P b) : Q (l.foldl f b) := by
  obtain ⟨front, back, rfl⟩ := List.append_of_mem named
  obtain ⟨-, twice, apart⟩ := List.nodup_append.1 once
  have notFront (x : A) (h : x ∈ front) : x ≠ a := apart x h a (List.mem_cons_self ..)
  have notBack (x : A) (h : x ∈ back) : x ≠ a := fun e => (List.nodup_cons.1 twice).1 (e ▸ h)
  rw [List.foldl_append, List.foldl_cons]
  refine foldl_keeps_on back (fun c x h => after c x (by simp [h]) (notBack x h)) (acts _ ?_)
  exact foldl_keeps_on front (fun c x h => before c x (by simp [h]) (notFront x h)) start

/-- Every register reads as before; beside registers, only buckets differ. -/
structure Ticks (s t : State) : Prop where
  frame : t = { s with regs := t.regs, nodes := t.nodes, pols := t.pols }
  same : ∀ r i, t.reg r i = s.reg r i

section
variable {s} {t u : State}

theorem Ticks.trans (first : Ticks s t) (then_ : Ticks t u) : Ticks s u :=
  ⟨by rw [then_.frame, first.frame], fun r i => (then_.same r i).trans (first.same r i)⟩

theorem Ticks.fld (h : Ticks s t) (f : Fld) (i : Nat) : t.fld f i = s.fld f i := congrArg (fun w => getBits w f.lo f.width) (h.same f.reg i)

theorem Ticks.shadow (h : Ticks s t) : t.shadow = s.shadow := (congrArg State.shadow h.frame :)

theorem Ticks.pierImg (h : Ticks s t) (p : Nat) : t.pierImg p = s.pierImg p := by
  have image : t.slots = s.slots := (congrArg State.slots h.frame :)
  unfold State.pierImg
  rw [image]

theorem Ticks.domState (h : Ticks s t) (d : Nat) : t.domState d = s.domState d := by
  unfold State.domState
  split
  · exact h.fld _ _
  · rfl

theorem ticks_still (h : Epochs.Still s t) : Ticks s t := by
  obtain ⟨frame, same⟩ := h
  refine ⟨?_, same⟩
  rw [frame]

end

/-- The bucket of a node with one more refill; the committed one only below the ports. -/
def refill (k : Nat) (port : Bool) (x : TmsNode) : TmsNode :=
  let c : Int := min (x.ctok + s.fld F.TMS_NODE_CIR_RATE k) (256 * s.fld F.TMS_NODE_CBS_SIZE k)
  { x with ctok := if port then x.ctok else c, ptok := min (x.ptok + s.fld F.TMS_NODE_PIR_RATE k) (256 * s.fld F.TMS_NODE_PBS_SIZE k) }

theorem refillNode_ticks (none_ : s.shadow = []) (k : Nat) (port : Bool) : Ticks s (s.refillNode k port) ∧
    ∀ j, (s.refillNode k port).node j = if j = k then refill s k port (s.node k) else s.node j := by
  have first := Epochs.still_epoch none_ .tick .TMS_NODE_CIR k
  have still := first.trans (Epochs.still_epoch (first.shadow.trans none_) .tick .TMS_NODE_PIR k)
  have nodes : ((s.epoch .tick .TMS_NODE_CIR k).epoch .tick .TMS_NODE_PIR k).nodes = s.nodes := (congrArg State.nodes still.frame :)
  have ticks := ticks_still still
  unfold refillNode refill node
  dsimp only
  rw [← ticks.fld F.TMS_NODE_CIR_RATE, ← ticks.fld F.TMS_NODE_CBS_SIZE, ← ticks.fld F.TMS_NODE_PIR_RATE, ← ticks.fld F.TMS_NODE_PBS_SIZE, ← nodes]
  generalize (s.epoch .tick .TMS_NODE_CIR k).epoch .tick .TMS_NODE_PIR k = u at *
  generalize ({ SMap.get ({} : TmsNode) u.nodes k with ctok := _, ptok := _ } : TmsNode) = x
  have set : Ticks u (u.setNode k x) := ⟨rfl, fun _ _ => rfl⟩
  refine ⟨ticks.trans set, fun j => ?_⟩
  unfold setNode
  by_cases here : j = k
  · rw [if_pos here, here]
    exact SMap.get_put_self ..
  · rw [if_neg here]
    exact SMap.get_put_ne _ _ _ _ here

theorem refillPol_ticks (none_ : s.shadow = []) (k : Nat) : Ticks s (s.refillPol k) ∧ (s.refillPol k).nodes = s.nodes := by
  have first := Epochs.still_epoch none_ .tick .TMS_POL_CIR k
  have still := first.trans (Epochs.still_epoch (first.shadow.trans none_) .tick .TMS_POL_PIR k)
  have nodes : ((s.epoch .tick .TMS_POL_CIR k).epoch .tick .TMS_POL_PIR k).nodes = s.nodes := (congrArg State.nodes still.frame :)
  unfold refillPol
  dsimp only
  generalize (s.epoch .tick .TMS_POL_CIR k).epoch .tick .TMS_POL_PIR k = u at *
  generalize ({ tc := _, tp := _ } : Pol) = x
  have set : Ticks u (u.setPol k x) := ⟨rfl, fun _ _ => rfl⟩
  exact ⟨(ticks_still still).trans set, nodes⟩

/-- A node's bucket holds `x`, and else the tick has changed buckets alone. -/
def Holds (k : Nat) (x : TmsNode) (t : State) : Prop := Ticks s t ∧ t.node k = x

section
variable {s} (none_ : s.shadow = []) {k : Nat} {x : TmsNode} {u : State}
include none_

theorem holds_other (h : Holds s k x u) {j : Nat} (other : k ≠ j) (port : Bool) : Holds s k x (u.refillNode j port) := by
  obtain ⟨ticks, nodes⟩ := refillNode_ticks u (h.1.shadow.trans none_) j port
  refine ⟨h.1.trans ticks, ?_⟩
  rw [nodes, if_neg other]
  exact h.2

theorem holds_here (h : Holds s k x u) (port : Bool) : Holds s k (refill s k port x) (u.refillNode k port) := by
  obtain ⟨ticks, nodes⟩ := refillNode_ticks u (h.1.shadow.trans none_) k port
  refine ⟨h.1.trans ticks, ?_⟩
  rw [nodes, if_pos rfl, h.2]
  unfold refill
  rw [h.1.fld, h.1.fld, h.1.fld, h.1.fld]

theorem holds_pol (h : Holds s k x u) (j : Nat) : Holds s k x (u.refillPol j) := by
  obtain ⟨ticks, nodes⟩ := refillPol_ticks u (h.1.shadow.trans none_) j
  refine ⟨h.1.trans ticks, ?_⟩
  unfold node
  rw [nodes]
  exact h.2

end

theorem port_key_apart {p p' port i level : Nat} (low : port < 18) (low' : i < 16384) (lev : level < 4) (other : ¬(p' = p ∧ level = 0 ∧ i = port)) :
    nodeKey p 0 port ≠ nodeKey p' level i := by
  unfold nodeKey
  omega

/-- A Pier's tree at a tick. -/
def pierTick (u : State) (p : Nat) : State :=
  if 2 ≤ u.domState p then u else
    (u.pierImg p).nodes.foldl (fun v n => if n.level.val = 0 then v else v.refillNode (nodeKey p n.level.val n.index) false)
      ((List.range 18).foldl (fun v i => v.refillNode (nodeKey p 0 i) true) u)

section
variable {s} (none_ : s.shadow = []) {p port : Nat} {x : TmsNode} {u : State} (low : port < 18)
include none_ low

/-- Nodes below the ports are not the port. -/
theorem holds_tree (h : Holds s (nodeKey p 0 port) x u) (p' : Nat) (small : ∀ nd ∈ (s.pierImg p').nodes, nd.index < 16384) {l : List TreeNode}
    (of_ : ∀ n ∈ l, n ∈ (s.pierImg p').nodes) : Holds s (nodeKey p 0 port) x
      (l.foldl (fun v n => if n.level.val = 0 then v else v.refillNode (nodeKey p' n.level.val n.index) false) u) := by
  refine foldl_keeps_on l (fun v n named held => ?_) h
  split
  · exact held
  · next below => exact holds_other none_ held (port_key_apart low (small n (of_ n named)) n.level.isLt fun e => below e.2.1) false

theorem holds_pierTick_other {p' : Nat} (other : p' ≠ p) (small : ∀ nd ∈ (s.pierImg p').nodes, nd.index < 16384) (h : Holds s (nodeKey p 0 port) x u) :
    Holds s (nodeKey p 0 port) x (pierTick u p') := by
  unfold pierTick
  split
  · exact h
  · refine holds_tree none_ low (foldl_keeps_on _ (fun v i named held => ?_) h) p' small fun n named => (h.1.pierImg p') ▸ named
    exact holds_other none_ held (port_key_apart low (Nat.lt_trans (List.mem_range.1 named) (by decide)) (by decide) fun e => other e.1) true

theorem holds_pierTick (on : s.domState p < 2) (small : ∀ nd ∈ (s.pierImg p).nodes, nd.index < 16384) (h : Holds s (nodeKey p 0 port) x u) :
    Holds s (nodeKey p 0 port) (refill s (nodeKey p 0 port) true x) (pierTick u p) := by
  unfold pierTick
  rw [h.1.domState, if_neg (by omega)]
  refine holds_tree none_ low ?_ p small fun n named => (h.1.pierImg p) ▸ named
  have step (y : TmsNode) (v : State) (i : Nat) (other : i ≠ port) (held : Holds s (nodeKey p 0 port) y v) :
      Holds s (nodeKey p 0 port) y (v.refillNode (nodeKey p 0 i) true) := by
    refine holds_other none_ held ?_ true
    unfold nodeKey
    omega
  exact foldl_at (fun v i _ => step x v i) (fun v held => holds_here none_ held true) (fun v i _ => step _ v i) (List.mem_range.2 low) List.nodup_range h

end

/-- A tick's count, with the buckets as they were. -/
def ticked : State := s.setFld F.TMS_TICK_COUNT 0 (s.fld F.TMS_TICK_COUNT 0 + 1)

theorem ticked_other (r : Reg) (i : Nat) (other : r ≠ .TMS_TICK) : (ticked s).reg r i = s.reg r i := Fields.reg_setFld_other s other

theorem ticked_refill (k : Nat) (x : TmsNode) : refill (ticked s) k true x = refill s k true x := by
  unfold refill ticked
  rw [Fields.fld_setFld_other s (by decide), Fields.fld_setFld_other s (by decide), Fields.fld_setFld_other s (by decide), Fields.fld_setFld_other s (by decide)]

theorem ticked_domState (p : Nat) : (ticked s).domState p = s.domState p := by
  unfold State.domState domFld ticked
  split
  · next f named =>
    refine Fields.fld_setFld_other s fun e => ?_
    split at named
    · cases named
      exact Reg.noConfusion e
    · split at named
      · cases named
        exact Reg.noConfusion e
      · cases named
  · rfl

/-- The port's bucket has one more refill, and its deficit and its committed bucket stay. -/
theorem tmsTick_holds {p port : Nat} (none_ : s.shadow = []) (on : s.domState p < 2) (pier : p < 4) (low : port < 18)
    (small : ∀ j, j < 4 → ∀ nd ∈ (s.pierImg j).nodes, nd.index < 16384) :
    Holds (ticked s) (nodeKey p 0 port) (refill s (nodeKey p 0 port) true (s.node (nodeKey p 0 port))) s.tmsTick := by
  have none' : (ticked s).shadow = [] := none_
  have on' : (ticked s).domState p < 2 := (ticked_domState s p).trans_lt on
  have small' : ∀ j, j < 4 → ∀ nd ∈ ((ticked s).pierImg j).nodes, nd.index < 16384 := small
  have start : Holds (ticked s) (nodeKey p 0 port) (s.node (nodeKey p 0 port)) (ticked s) := ⟨⟨rfl, fun _ _ => rfl⟩, rfl⟩
  rw [← ticked_refill]
  unfold tmsTick
  dsimp only
  refine foldl_keeps_on (f := refillPol) (R := Holds (ticked s) _ _) _ (fun v j _ held => holds_pol none' held j) ?_
  change Holds _ _ _ ((List.range 4).foldl pierTick (ticked s))
  have other (y : TmsNode) (u : State) (j : Nat) (named : j ∈ List.range 4) (ne : j ≠ p) :=
    holds_pierTick_other (x := y) (u := u) none' low ne (small' j (List.mem_range.1 named))
  exact foldl_at (other _) (fun u held => holds_pierTick none' low on' (small' p pier) held) (other _) (List.mem_range.2 pier) List.nodup_range start

/-! ### The slow paths' buckets at a tick -/

/-- Pier `p`'s slow path holds `x` tokens, and no other register, bucket or waiting value differs. -/
structure Slow (p x : Nat) (t : State) : Prop where
  nodes : t.nodes = s.nodes
  shadow : t.shadow = s.shadow
  same : ∀ r i, r ≠ .CLS_SP_TOKENS → t.reg r i = s.reg r i
  tokens : t.fld F.CLS_SP_TOKENS_TOKENS p = x

/-- The tokens of a slow path with one more refill (R226). -/
def slowNext (p x : Nat) : Nat := min (x + s.fld F.CLS_SP_RATE_RATE p) (256 * s.fld F.CLS_SP_BURST_BURST p)

theorem slowNext_lt (p x : Nat) : slowNext s p x < 2 ^ 24 := by
  have small : s.fld F.CLS_SP_BURST_BURST p < 2 ^ 16 := getBits_lt ..
  unfold slowNext
  omega

section
variable {s} (none_ : s.shadow = []) {p x : Nat} {u : State} (h : Slow s p x u)
include none_ h

theorem slow_step (j : Nat) : Slow s p (if p = j then slowNext s p x else x) (slowRefill u j) := by
  obtain ⟨nodes, shadow, same, tokens⟩ := h
  have first := Epochs.still_epoch (shadow.trans none_) .slowRefill .CLS_SP_RATE j
  have still := first.trans (Epochs.still_epoch (first.shadow.trans (shadow.trans none_)) .slowRefill .TBL_LEARN_CFG j)
  have nodes' : ((u.epoch .slowRefill .CLS_SP_RATE j).epoch .slowRefill .TBL_LEARN_CFG j).nodes = u.nodes := (congrArg State.nodes still.frame :)
  have regs := still.same
  have shadow' := still.shadow
  unfold slowRefill
  dsimp only
  generalize (u.epoch .slowRefill .CLS_SP_RATE j).epoch .slowRefill .TBL_LEARN_CFG j = v at *
  have kept (f : Fld) (i : Nat) (other : f.reg ≠ .CLS_SP_TOKENS) : v.fld f i = s.fld f i :=
    congrArg (fun w => getBits w f.lo f.width) ((regs f.reg i).trans (same f.reg i other))
  have before (i : Nat) : v.fld F.CLS_SP_TOKENS_TOKENS i = u.fld F.CLS_SP_TOKENS_TOKENS i := congrArg (fun w => getBits w _ _) (regs .CLS_SP_TOKENS i)
  rw [kept F.CLS_SP_RATE_RATE j (by decide), kept F.CLS_SP_BURST_BURST j (by decide), before]
  refine ⟨nodes'.trans nodes, shadow'.trans shadow, fun r i other => (Fields.reg_setFld_other v other).trans ((regs r i).trans (same r i other)), ?_⟩
  by_cases here : p = j
  · rw [if_pos here, ← here, tokens]
    exact (Fields.fld_setFld_self v (by decide)).trans (Nat.mod_eq_of_lt (slowNext_lt s p x))
  · rw [if_neg here]
    exact (fld_setFld_ne v _ (by decide) (.inr (.inl here))).trans ((before p).trans tokens)

end

theorem slow_all {p : Nat} (none_ : s.shadow = []) (pier : p < 4) :
    Slow s p (slowNext s p (s.fld F.CLS_SP_TOKENS_TOKENS p)) ((List.range 4).foldl slowRefill s) := by
  have other (x : Nat) (u : State) (j : Nat) (ne : j ≠ p) (h : Slow s p x u) : Slow s p x (slowRefill u j) := by
    have step := slow_step none_ h j
    rw [if_neg ne.symm] at step
    exact step
  have here (u : State) (h : Slow s p (s.fld F.CLS_SP_TOKENS_TOKENS p) u) : Slow s p (slowNext s p (s.fld F.CLS_SP_TOKENS_TOKENS p)) (slowRefill u p) := by
    have step := slow_step none_ h p
    rw [if_pos rfl] at step
    exact step
  exact foldl_at (P := Slow s p (s.fld F.CLS_SP_TOKENS_TOKENS p)) (fun u j _ ne => other _ u j ne) here (fun u j _ ne => other _ u j ne)
    (List.mem_range.2 pier) List.nodup_range ⟨rfl, rfl, fun _ _ _ => rfl, rfl⟩

/-! ### The whole tick -/

theorem reg_restartEnd (port : Nat) {r : Reg} (i : Nat) (other : r ≠ .MAC_PORT_STATUS) : (s.restartEnd port).reg r i = s.reg r i :=
  (keeps_restartEnd s port).reg r i (fun named => other (List.mem_singleton.1 named))

theorem nodes_restartEnd (port : Nat) : (s.restartEnd port).nodes = s.nodes := by
  unfold restartEnd
  split
  · generalize SMap.get 0 s.portSeq port = q
    rfl
  · rfl

theorem tick_refills {p port : Nat} (up : s.coreUp = true) (none_ : s.shadow = []) (on : s.domState p < 2) (pier : p < 4) (low : port < 18)
    (small : ∀ j, j < 4 → ∀ nd ∈ (s.pierImg j).nodes, nd.index < 16384) : ∃ t, exec .refillTick s = .next t ∧
    t.fld F.TMS_TICK_COUNT 0 = (s.fld F.TMS_TICK_COUNT 0 + 1) % 2 ^ 32 ∧
    t.node (nodeKey p 0 port) = refill s (nodeKey p 0 port) true (s.node (nodeKey p 0 port)) ∧
    t.fld F.CLS_SP_TOKENS_TOKENS p = slowNext s p (s.fld F.CLS_SP_TOKENS_TOKENS p) := by
  have runs := exec_refillTick_up up
  obtain ⟨ticks, node_⟩ := tmsTick_holds s none_ on pier low small
  obtain ⟨nodes, -, same, tokens⟩ := slow_all s.tmsTick (ticks.shadow.trans none_) pier
  have bound : (refilled s).boundTick.nodes = s.tmsTick.nodes := (sealed_boundTick (refilled s)).nodes.trans nodes
  have count : (ticked s).fld F.TMS_TICK_COUNT 0 = (s.fld F.TMS_TICK_COUNT 0 + 1) % 2 ^ 32 := Fields.fld_setFld_self s (by decide)
  have regs (r : Reg) (i : Nat) (other : r ∉ boundRegs) : (refilled s).boundTick.reg r i = (refilled s).reg r i := reg_boundTick (refilled s) i other
  refine ⟨_, runs, ?_, ?_, ?_⟩
  · refine Eq.trans ?_ count
    refine congrArg (fun w => getBits w F.TMS_TICK_COUNT.lo F.TMS_TICK_COUNT.width) ?_
    rw [show F.TMS_TICK_COUNT.reg = Reg.TMS_TICK from rfl, reg_restartEnd _ _ _ (by decide), reg_restartEnd _ _ _ (by decide), regs _ _ (by decide)]
    exact (same _ _ (by decide)).trans (ticks.same _ _)
  · rw [← node_]
    unfold node
    rw [nodes_restartEnd, nodes_restartEnd, bound]
  · have rate : slowNext s.tmsTick p (s.tmsTick.fld F.CLS_SP_TOKENS_TOKENS p) = slowNext s p (s.fld F.CLS_SP_TOKENS_TOKENS p) := by
      have kept (f : Fld) (other : f.reg ≠ .TMS_TICK) : s.tmsTick.fld f p = s.fld f p := (ticks.fld f p).trans (Fields.fld_setFld_other s other)
      unfold slowNext
      rw [kept _ (by decide), kept _ (by decide), kept _ (by decide)]
    refine Eq.trans ?_ (tokens.trans rate)
    refine congrArg (fun w => getBits w F.CLS_SP_TOKENS_TOKENS.lo F.CLS_SP_TOKENS_TOKENS.width) ?_
    rw [show F.CLS_SP_TOKENS_TOKENS.reg = Reg.CLS_SP_TOKENS from rfl, reg_restartEnd _ _ _ (by decide), reg_restartEnd _ _ _ (by decide), regs _ _ (by decide)]
    rfl

/-! ### O50 -/

/-- Settles O50: a MAC's turn sends its control frame or the frame that it picks (`Sending.control_first`, `Sending.frame_sent`), the TMS serves the queue that its
picks lead to (`Decisions.tms_serves`), and a refill tick adds each bucket's rate and ends a RESTART (`tick_refills`, `tick_ends_restart`). -/
theorem sendingAndScheduling : Obligations.SendingAndScheduling := by
  unfold Obligations.SendingAndScheduling
  intro s m p c f rest i lt x port lane y z u pause time sent cnt body k due
  refine ⟨fun sends owes paused none_ at_ launch head good entry off ready turn affords tags onestep secy plain => ?_, fun sends none_ mode sent asked => ?_,
    fun sends none_ mode sent => ?_, ?_, fun at_ launch none_ ripe waits => ?_, fun g n q s1 s2 s3 nd go turn group span queue at_ leaf launch => ?_,
    Decisions.held_decision s, Decisions.ecc_empties s, fun j up busy => tick_ends_restart s up busy, fun up none_ on low small => ?_⟩
  · exact Sending.frame_sent s lane sends owes paused none_ at_ launch head good entry off ready turn affords tags onestep secy plain
  · exact Sending.control_first s sends none_ mode sent asked
  · obtain ⟨t, runs, out, counts, regs⟩ := Sending.xoff_refreshes s sends none_ mode sent
    exact ⟨t, runs, out, congrArg (fun w => getBits w _ _) (regs .MAC_FC_STATUS m.val), counts⟩
  · obtain ⟨t, runs, frame, others, own⟩ := Sending.pause_ends s m i
    cases i <;> exact ⟨t, runs, frame, others, own⟩
  · exact Sending.launch_comes s at_ launch ripe waits
  · obtain ⟨t, runs, queue, turn, wire, host, engine⟩ := Decisions.tms_serves s go turn group span queue at_ leaf launch
    exact ⟨t, runs, queue, turn, wire, host, engine⟩
  · obtain ⟨t, runs, count, node_, tokens⟩ := tick_refills s up none_ on p.isLt low small
    exact ⟨t, runs, count, (congrArg TmsNode.ptok node_ :), (congrArg TmsNode.ctok node_ :), (congrArg TmsNode.deficit node_ :), tokens⟩

end Sys2Proof.Machine.Refills
end

section
/-!
PROOFS. What an ingress pass leaves alone (R198–R206, R227–R229): the flow cache, the miss buffer and the image; and its parse.
-/

namespace Sys2Proof.Machine.Passes
open State

variable (s : State)

/-- The miss buffer, the flow cache and the images are the same. -/
structure Caches (s t : State) : Prop where
  parked : t.missBuf = s.missBuf
  lines : t.fcache = s.fcache
  image : t.slots = s.slots

theorem Caches.trans {s t u : State} (first : Caches s t) (then_ : Caches t u) : Caches s u :=
  ⟨then_.parked.trans first.parked, then_.lines.trans first.lines, then_.image.trans first.image⟩

theorem caches_refl : Caches s s := ⟨rfl, rfl, rfl⟩

theorem caches_signals {t : State} (h : Signals.SignalsOnly s t) : Caches s t :=
  ⟨(congrArg State.missBuf h :), (congrArg State.fcache h :), (congrArg State.slots h :)⟩

theorem caches_takes {t : State} (h : Pool.Takes s t) : Caches s t :=
  ⟨(congrArg State.missBuf h.only :), (congrArg State.fcache h.only :), (congrArg State.slots h.only :)⟩

theorem caches_bump (f : Fld) (i k : Nat) : Caches s (s.bump f i k) := ⟨rfl, rfl, rfl⟩

theorem caches_epoch (b : Boundary) (r : Reg) (i : Nat) : Caches s (s.epoch b r i) := ⟨rfl, rfl, rfl⟩

theorem caches_foldl {A : Type} {f : State → A → State} (step : ∀ u a, Caches u (f u a)) (l : List A) : Caches s (l.foldl f s) := by
  induction l generalizing s with
  | nil => exact caches_refl s
  | cons a l ih => exact (step s a).trans (ih _)

/-! ### Frames that are dropped, stored or handed on -/

theorem caches_dropPkt (f : Pkt) (code : Nat) : Caches s (s.dropPkt f code) := by
  have back := caches_takes s (Pool.takes_releaseOpt s f.head)
  unfold dropPkt
  dsimp only
  split
  · exact ⟨back.parked, back.lines, back.image⟩
  · exact back

/-- Bytes stored to the RLD change it and its poison marks alone. -/
theorem rldWrite_only (a : Nat) (bs : List Byte) : ∃ m, s.rldWrite a bs = { s with rld := m } := by
  induction bs generalizing s a with
  | nil => exact ⟨_, rfl⟩
  | cons b bs ih =>
    obtain ⟨m, is⟩ := ih { s with rld := SMap.put 0 s.rld a b } (a + 1)
    exact ⟨m, is⟩

/-- Nothing differs but the RLD's bytes and poison marks. -/
def RldOnly (s t : State) : Prop := t = { s with rld := t.rld, rldPoison := t.rldPoison }

theorem RldOnly.trans {s t u : State} (first : RldOnly s t) (then_ : RldOnly t u) : RldOnly s u := by
  refine Eq.trans then_ ?_
  rw [first]

theorem rldOnly_foldl {A : Type} {f : State → A → State} (step : ∀ u a, RldOnly u (f u a)) (l : List A) : RldOnly s (l.foldl f s) := by
  induction l generalizing s with
  | nil => rfl
  | cons a l ih => exact (step s a).trans (ih _)

theorem rldOnly_rldStore (a : Nat) (bs : List Byte) (bad : Bool) : RldOnly s (s.rldStore a bs bad) := by
  obtain ⟨m, is⟩ := rldWrite_only s a bs
  have first : RldOnly s (s.rldWrite a bs) := by
    rw [is]
    rfl
  refine first.trans (rldOnly_foldl _ (fun u i => ?_) _)
  dsimp only
  split
  · split <;> rfl
  · split <;> rfl

theorem rldOnly_chainStore (i off : Nat) (bs : List Byte) (bad : Bool) : RldOnly s (s.chainStore i off bs bad) := by
  refine rldOnly_foldl _ (fun u k => ?_) _
  dsimp only
  generalize (if k = 0 then off else off / 2048 * 2048 + 2048 * k) = start
  split
  · split
    · rfl
    · exact rldOnly_rldStore ..
  · rfl

theorem rldOnly_storeFrame (f : Pkt) : RldOnly s (s.storeFrame f) := by
  unfold storeFrame
  split
  · exact rldOnly_chainStore ..
  · rfl

theorem caches_storeFrame (f : Pkt) : Caches s (s.storeFrame f) := by
  have only := rldOnly_storeFrame s f
  exact ⟨(congrArg State.missBuf only :), (congrArg State.fcache only :), (congrArg State.slots only :)⟩

theorem caches_tmsPut (p q : Nat) (f : Pkt) : Caches s (s.tmsPut p q f) := by
  unfold tmsPut
  dsimp only
  generalize (if f.colour = 0 then F.TMS_Q_LIMIT_GREEN_KIB else F.TMS_Q_LIMIT_YELLOW_KIB) = lim
  split
  · exact (caches_bump s _ _ _).trans (caches_takes _ (Pool.takes_releaseOpt _ f.head))
  · exact ⟨rfl, rfl, rfl⟩

theorem caches_toHost (p q : Nat) (f : Pkt) : Caches s (s.toHost p q f) := by
  unfold toHost
  split
  · exact caches_tmsPut ..
  · exact caches_dropPkt ..

theorem caches_defAction (p port : Nat) (f : Pkt) : Caches s (s.defAction p port f) := by
  unfold defAction
  dsimp only
  split
  · exact (caches_bump s _ _ _).trans (caches_toHost ..)
  · exact (caches_bump s _ _ _).trans (caches_dropPkt ..)

theorem caches_slowPath (x : Pass) (cause : Nat) : Caches s (s.slowPath x cause) := by
  unfold slowPath
  dsimp only
  split
  · exact (caches_bump s _ _ _).trans (caches_dropPkt ..)
  · split
    · exact caches_defAction ..
    · split
      · exact (caches_bump s _ _ _).trans (caches_dropPkt ..)
      · have admitted : Caches s ((s.setFld F.CLS_SP_TOKENS_TOKENS x.p (s.fld F.CLS_SP_TOKENS_TOKENS x.p - 256)).bump F.CLS_SP_ADMIT_CNT_COUNT x.p) := ⟨rfl, rfl, rfl⟩
        split
        · exact admitted.trans (caches_tmsPut ..)
        · exact admitted.trans (caches_dropPkt ..)

/-! ### Table events (R247, R248) -/

theorem caches_sendWrite (f : Fn) (a : Nat) (data : List Byte) (bad relaxed : Bool) : Caches s (s.sendWrite f a data bad relaxed) := by
  unfold sendWrite
  dsimp only
  split
  · exact ⟨rfl, rfl, rfl⟩
  · split
    · exact ⟨rfl, rfl, rfl⟩
    · split <;> exact ⟨rfl, rfl, rfl⟩

theorem caches_evWrite (p : Nat) (e : TEv) (count : Nat) : Caches s (s.evWrite p e count) := by
  unfold evWrite
  dsimp only
  have sent := caches_sendWrite s .mf (s.fld F.TBL_EVQ_BASE_BASE p * 256 + 128 * ((s.evqPi p).toNat % s.evqSize p)) (s.evBytes p e count) false false
  generalize s.sendWrite .mf _ _ _ _ = u at *
  split
  · refine sent.trans (Caches.trans ?_ (caches_signals _ (Signals.signals_mfVector ..)))
    exact ⟨rfl, rfl, rfl⟩
  · exact sent.trans ⟨rfl, rfl, rfl⟩

theorem caches_evOverflow (p : Nat) : Caches s (s.evOverflow p) := by
  unfold evOverflow
  dsimp only
  split
  · exact caches_refl s
  · exact (caches_evWrite s p _ _).trans ⟨rfl, rfl, rfl⟩

theorem caches_evDrainOn (p : Nat) (l : List TEv) : Caches s (s.evDrainOn p l) := by
  induction l generalizing s with
  | nil =>
    have first := caches_evOverflow s p
    exact ⟨first.parked, first.lines, first.image⟩
  | cons e l ih =>
    unfold evDrainOn
    split
    · exact ⟨rfl, rfl, rfl⟩
    · have first := caches_evOverflow s p
      dsimp only
      split
      · refine (first.trans ?_).trans (ih _)
        exact ⟨rfl, rfl, rfl⟩
      · exact first.trans ((caches_evWrite _ p e 0).trans (ih _))

theorem caches_tblEvent (p type t i : Nat) (entry : List Byte) : Caches s (s.tblEvent p type t i entry) := by
  unfold tblEvent evDrain
  by_cases on : s.flag F.TBL_EVQ_CTL_EN p = true
  · rw [if_pos on, if_pos on]
    exact caches_evDrainOn ..
  · rw [if_neg on]
    exact caches_refl s

/-! ### Lookups and primitives (R198, R199) -/

theorem caches_tblPoison (p t i : Nat) : Caches s (s.tblPoison p t i) := by
  unfold tblPoison tblCapture
  split <;> exact ⟨rfl, rfl, rfl⟩

theorem caches_countPair (c packets bytes : Nat) : Caches s (s.countPair c packets bytes) := by
  unfold countPair
  split
  · exact caches_refl s
  · exact ⟨rfl, rfl, rfl⟩

theorem caches_flowRead (p t : Nat) (f : Pkt) : Caches s (s.flowRead p t f).2 := by
  unfold flowRead
  split <;> exact ⟨rfl, rfl, rfl⟩

theorem caches_l2Read (p t : Nat) (mac : BitVec 48) (fid : BitVec 16) : Caches s (s.l2Read p t mac fid).2 := by
  unfold l2Read
  split <;> exact ⟨rfl, rfl, rfl⟩

theorem caches_prim (x : Pass) (r : Found) (miss : Bool) (q : Prim) : Caches s (s.prim x r miss q).1 := by
  cases q with
  | drop c => exact caches_countPair ..
  | count c => exact caches_countPair ..
  | _ => exact caches_refl s

theorem caches_prims (x : Pass) (r : Found) (miss : Bool) (l : List Prim) : Caches s (s.prims x r miss l).1 := by
  induction l generalizing s x with
  | nil => exact caches_refl s
  | cons q l ih => exact (caches_prim s x r miss q).trans (ih ..)

theorem parse_divert (x : Pass) (c : Nat) : (x.divert c).parse = x.parse := rfl

theorem cause_prim (x : Pass) (r : Found) (miss : Bool) (q : Prim) : (s.prim x r miss q).2.parse.cause = x.parse.cause := by
  cases q with
  | encap a =>
    unfold prim
    dsimp only
    split <;> rfl
  | _ => rfl

theorem cause_prims (x : Pass) (r : Found) (miss : Bool) (l : List Prim) : (s.prims x r miss l).2.parse.cause = x.parse.cause := by
  induction l generalizing s x with
  | nil => rfl
  | cons q l ih => exact (ih ..).trans (cause_prim s x r miss q)

/-! ### Learning (R242) -/

theorem caches_stored (m : SMap Nat) (p t i : Nat) (e : L2Ent) (type : Nat) (cnt : Fld) (entry : List Byte) :
    Caches s ((({ s with learnUsed := m }.setL2 p t i e).bump cnt p).tblEvent p type t i entry) := by
  have first : Caches s ({ s with learnUsed := m }.setL2 p t i e) := ⟨rfl, rfl, rfl⟩
  exact (first.trans (caches_bump ..)).trans (caches_tblEvent ..)

theorem caches_learn (x : Pass) (t : Nat) (src : BitVec 48) (fid : BitVec 16) : Caches s (s.learn x t src fid) := by
  unfold learn
  dsimp only
  split
  · exact caches_refl s
  · split
    · split
      · exact caches_refl s
      · split
        · exact caches_bump ..
        · split
          · exact caches_bump ..
          · exact caches_stored ..
    · split
      · exact caches_bump ..
      · split
        · exact caches_bump ..
        · exact caches_stored ..

/-! ### Stages (R198, R199) -/

/-- A part of a pass: the state beside tables, counters and registers, and the parse's cause. -/
def Goes (s : State) (x : Pass) (r : State × Pass) : Prop := Caches s r.1 ∧ r.2.parse.cause = x.parse.cause

theorem goes_prims (x : Pass) (r : Found) (miss : Bool) (l : List Prim) : Goes s x (s.prims x r miss l) := ⟨caches_prims .., cause_prims ..⟩

theorem Goes.trans {s t : State} {x y : Pass} {r : State × Pass} (first : Caches s t ∧ y.parse.cause = x.parse.cause) (then_ : Goes t y r) : Goes s x r :=
  ⟨first.1.trans then_.1, then_.2.trans first.2⟩

theorem goes_lookup (x : Pass) (k : Nat) (bad : List Nat) (l : Lookup) : Caches s (s.lookup x k bad l).1 ∧ (s.lookup x k bad l).2.1.parse.cause = x.parse.cause := by
  cases l with
  | flow t =>
    unfold lookup
    dsimp only
    split
    · exact ⟨caches_refl s, rfl⟩
    · split
      · exact ⟨caches_refl s, rfl⟩
      · split
        · exact ⟨caches_tblPoison .., rfl⟩
        · exact ⟨caches_flowRead .., rfl⟩
  | l2 t m fd ln =>
    have read := caches_l2Read s x.p
    unfold lookup
    dsimp only
    split
    · generalize hr : s.l2Read x.p t _ _ = found
      have same : Caches s found.2 := hr ▸ read t _ _
      split
      · exact ⟨same.trans (caches_learn ..), rfl⟩
      · exact ⟨same, rfl⟩
    · split
      · exact ⟨caches_refl s, rfl⟩
      · split
        · exact ⟨caches_tblPoison .., rfl⟩
        · exact ⟨read .., rfl⟩
  | lpm t vrf addr v6 =>
    unfold lookup
    dsimp only
    split
    · exact ⟨caches_refl s, rfl⟩
    · split
      · have next_ : Caches s s.fresh.2 := ⟨rfl, rfl, rfl⟩
        exact ⟨next_.trans (caches_tblPoison ..), rfl⟩
      · exact ⟨⟨rfl, rfl, rfl⟩, rfl⟩
  | ternary n ks => exact ⟨caches_bump .., rfl⟩

theorem cause_l2Dest (x : Pass) (g : Program) (kind : Nat) (dest : BitVec 16) (template : Nat) : (x.l2Dest g kind dest template).parse.cause = x.parse.cause := by
  unfold Pass.l2Dest
  dsimp only
  have own : (if template = 0 then x else { x with encap := some template }).parse.cause = x.parse.cause := by split <;> rfl
  generalize (if template = 0 then x else { x with encap := some template }) = y at *
  split
  · split <;> exact own
  · split <;> exact own
  · exact own
  · exact own

theorem goes_stage (x : Pass) (k : Nat) (bad : List Nat) (g : Program) (st : Stage) : Goes s x (s.stage x k bad g st) := by
  unfold stage
  split
  · exact goes_prims ..
  · next l _ =>
    have found := goes_lookup s x k bad l
    generalize s.lookup x k bad l = r at *
    obtain ⟨u, y, res⟩ := r
    dsimp only
    have base := goes_prims u y (res.getD {}) false st.base
    generalize u.prims y (res.getD {}) false st.base = r' at *
    obtain ⟨v, z⟩ := r'
    have both : Caches s v ∧ z.parse.cause = x.parse.cause := ⟨found.1.trans base.1, base.2.trans found.2⟩
    dsimp only
    split
    · exact .trans both (goes_prims ..)
    · next f =>
      rcases f.dest with _ | ⟨kd, d⟩
      · dsimp only
        split
        · exact .trans both (goes_prims ..)
        · exact both
      · have sent := (cause_l2Dest z g kd d f.encap).trans both.2
        dsimp only
        split
        · exact .trans ⟨both.1, sent⟩ (goes_prims ..)
        · exact ⟨both.1, sent⟩

theorem goes_stages (x : Pass) (bad : List Nat) (g : Program) (k : Nat) (l : List Stage) : Goes s x (s.stages x bad g k l) := by
  induction l generalizing s x k with
  | nil => exact ⟨caches_refl s, rfl⟩
  | cons st l ih => exact .trans (goes_stage s x k bad g st) (ih ..)

/-! ### The final decision and the whole pass (R191, R203, R204) -/

theorem caches_police (p n b pre : Nat) : Caches s (s.police p n b pre).2 := by
  unfold police
  dsimp only
  split
  · split
    · exact caches_bump ..
    · split
      · exact caches_bump ..
      · exact caches_refl s
  · split
    · exact caches_bump ..
    · split <;> exact ⟨rfl, rfl, rfl⟩

theorem caches_passPolice (x : Pass) : Caches s (s.passPolice x).2 := by
  unfold passPolice
  split
  · exact caches_refl s
  · next n pre yd rd _ =>
    dsimp only
    have metered := caches_police s x.p (n % 4096) x.f.len (min pre 2)
    generalize s.police x.p (n % 4096) x.f.len (min pre 2) = r at *
    have counted : Caches s (if r.1 = 1 then r.2.bump F.CLS_POLICE_CNT_YELLOW x.p else r.2) := by
      split
      · exact metered.trans (caches_bump ..)
      · exact metered
    generalize (if r.1 = 1 then r.2.bump F.CLS_POLICE_CNT_YELLOW x.p else r.2) = v at *
    split
    · exact counted.trans (caches_bump ..)
    · exact counted

theorem caches_ite {s : State} {c : Prop} [Decidable c] {u v : State} (yes : Caches s u) (no : Caches s v) : Caches s (if c then u else v) := by
  split
  · exact yes
  · exact no

theorem caches_tunnel (x : Pass) (csum : Bool) (max : Option Nat) : Caches s (s.tunnel x csum max).2 := by
  unfold tunnel
  dsimp only
  generalize (if csum = true then csumInsert (rewritten x) else rewritten x) = plain
  generalize hr : ite (x.decap = 0) _ _ = r
  have decapped : Caches s r.2 := by
    rw [← hr]
    split
    · exact caches_refl s
    · split
      · exact caches_refl s
      · exact caches_bump ..
  obtain ⟨bs, u⟩ := r
  split
  · exact decapped
  · split
    · exact decapped
    · have numbered (c : Prop) [Decidable c] (m : SMap (BitVec 16)) : Caches s (if c then { u with ipId := m } else u) :=
        caches_ite ⟨decapped.parked, decapped.lines, decapped.image⟩ decapped
      cases max with
      | none => exact numbered _ _
      | some m =>
        dsimp only
        rw [apply_ite Prod.snd]
        exact caches_ite ((numbered _ _).trans (caches_bump ..)) (numbered _ _)

theorem caches_finish (x : Pass) : Caches s (s.finish x) := by
  have formatted : Caches s (if x.decrypt.isSome then s.bump F.CIP_FORMAT_CNT_COUNT 0 else s) := caches_ite (caches_bump ..) (caches_refl s)
  unfold finish
  dsimp only
  split
  · exact ⟨rfl, rfl, rfl⟩
  · generalize @ite State (x.decrypt.isSome = true) _ _ _ = u at *
    have policed := formatted.trans (caches_passPolice u x)
    generalize u.passPolice x = r at *
    split
    · exact policed.trans (caches_dropPkt ..)
    · next c v =>
      have placed (v' : State) (same : Caches s v') (max : Option Nat) := same.trans (caches_tunnel v' x false max)
      generalize x.dest = d
      rcases d with _ | ⟨a, b, n⟩ | ⟨m, q⟩
      · have made := placed v policed none
        dsimp only
        generalize v.tunnel x false none = r at *
        split
        · exact made.trans (caches_dropPkt ..)
        · next bs w =>
          generalize (if bs = x.f.bytes then x.f else x.f.withBytes bs) = f
          have stored := made.trans (caches_storeFrame w { f with colour := c })
          generalize w.storeFrame _ = u' at *
          exact stored.trans (caches_dropPkt ..)
      · have made := placed v policed none
        dsimp only
        generalize v.tunnel x false none = r at *
        split
        · exact made.trans (caches_dropPkt ..)
        · next bs w =>
          generalize (if bs = x.f.bytes then x.f else x.f.withBytes bs) = f
          have stored := made.trans (caches_storeFrame w { f with colour := c })
          generalize w.storeFrame _ = u' at *
          split
          · exact stored.trans (caches_toHost ..)
          · exact (stored.trans (caches_bump ..)).trans (caches_dropPkt ..)
      · have made := placed _ (policed.trans (caches_epoch v .macRxOrChecked .MAC_CTL m)) (some ((v.epoch .macRxOrChecked .MAC_CTL m).maxFrame m))
        dsimp only
        generalize (v.epoch .macRxOrChecked .MAC_CTL m).tunnel x false _ = r at *
        split
        · exact made.trans (caches_dropPkt ..)
        · next bs w =>
          generalize (if bs = x.f.bytes then x.f else x.f.withBytes bs) = f
          have stored := made.trans (caches_storeFrame w { f with colour := c })
          generalize w.storeFrame _ = u' at *
          split
          · exact ⟨stored.parked, stored.lines, stored.image⟩
          · exact (stored.trans (caches_bump ..)).trans (caches_dropPkt ..)

theorem caches_setReg (r : Reg) (i : Nat) (w : Word) : Caches s (s.setReg r i w) := ⟨rfl, rfl, rfl⟩

theorem caches_applyMask (r : Reg) (i : Nat) (m : Word) : Caches s (s.applyMask r i m) := ⟨rfl, rfl, rfl⟩

/-- What the boundaries at the head of a pass leave alone. -/
theorem caches_portEpoch (port : Nat) : Caches s (s.portEpoch port) := by
  unfold portEpoch
  split
  · exact caches_applyMask ..
  · exact caches_epoch ..

/-- The frame as a pass reads it. -/
def checked (f : Pkt) : Pkt := { f with l3ok := (csumOk f.bytes).1, l4ok := (csumOk f.bytes).2 }

/-- A parse error goes the slow path. -/
theorem caches_refused (x : Pass) (f : Pkt) (r : Parse) (c : Fld) : Caches s ((((s.bump c x.p).prsCapture x r.cause).storeFrame f).slowPath x r.cause) := by
  have captured : Caches s ((s.bump c x.p).prsCapture x r.cause) := by
    unfold prsCapture
    exact caches_ite (caches_bump ..) ((caches_bump ..).trans (caches_setReg ..))
  exact (captured.trans (caches_storeFrame ..)).trans (caches_slowPath ..)

/-- A pass without errors. -/
theorem goes_runPass (x : Pass) (bad : List Nat) : Caches s (s.runPass x bad {}).1 ∧ (s.runPass x bad {}).2.parse.cause =
    (parseFrame (s.pierImg x.p).ingress (checked x.f)).cause := by
  have first := caches_epoch s .pierPacket .CLS_SP_TARGET x.p
  have opened : Caches s (if x.f.reinject.isSome then s.epoch .pierPacket .CLS_SP_TARGET x.p else
      (s.epoch .pierPacket .CLS_SP_TARGET x.p).portEpoch (x.f.mac / 8)) := caches_ite first (first.trans (caches_portEpoch ..))
  unfold runPass graphEcc checked
  dsimp only
  generalize @ite State (x.f.reinject.isSome = true) _ _ _ = u at *
  have image : u.pierImg x.p = s.pierImg x.p := by
    unfold State.pierImg
    rw [opened.image]
  rw [image]
  generalize hr : parseFrame (s.pierImg x.p).ingress _ = r
  rw [if_neg (by decide : ¬(Ecc.ok == Ecc.uncorrected) = true)]
  have counted : Caches s (if r.frag = true then u.bump F.PRS_FRAG_CNT_COUNT x.p else u) := caches_ite (opened.trans (caches_bump ..)) opened
  generalize @ite State (r.frag = true) _ _ _ = v at *
  by_cases wrong : r.cause ≠ 0
  · rw [if_pos wrong]
    exact ⟨counted.trans (caches_refused ..), rfl⟩
  · rw [if_neg wrong]
    unfold stagesSpm passEcc
    dsimp only
    generalize hst : v.stages _ bad _ 0 _ = res
    have goes : Goes v { x with f := checked x.f, parse := r } res := by
      rw [← hst]
      exact goes_stages ..
    obtain ⟨w, y⟩ := res
    obtain ⟨same, cause⟩ := goes
    have gone := counted.trans same
    dsimp only
    split
    · exact ⟨gone.trans (caches_dropPkt ..), cause⟩
    · split
      · exact ⟨(gone.trans (caches_storeFrame ..)).trans (caches_slowPath ..), cause⟩
      · split
        · exact ⟨(gone.trans (caches_storeFrame ..)).trans (caches_slowPath ..), cause⟩
        · exact ⟨gone.trans (caches_finish ..), cause⟩

end Sys2Proof.Machine.Passes
end

section
/-!
PROOFS. Heads that return from their lookups, frames back from decryption, and the egress pipeline (R210, R229, R363).
-/

namespace Sys2Proof.Machine.Through
open State Passes Receiving

variable (s : State)

/-! ### Results that return (R229) -/

theorem lineBack_keeps (p : Nat) (l : FcLine) : (s.lineBack p l).fcache = s.fcache ∧ (s.lineBack p l).missBuf = s.missBuf := by
  unfold lineBack
  split
  · split
    · exact ⟨rfl, rfl⟩
    · exact ⟨rfl, rfl⟩
  · exact ⟨rfl, rfl⟩

/-- A line that is put first in its set is there, and no head leaves the miss buffer. -/
theorem fcFill_puts (p : Nat) (l : FcLine) : l ∈ (s.fcFill p l).fcLines (fcSet p l.hash) ∧ (s.fcFill p l).missBuf = s.missBuf := by
  unfold fcFill
  dsimp only
  generalize ((s.fcLines (fcSet p l.hash)).filter fun m => !(m.hash == l.hash && m.key == l.key)) = others
  have kept := Macs.foldl_keeps (fun u : State => u.missBuf) (fun u m => (lineBack_keeps u p m).2) (others.drop 3) s
  generalize (others.drop 3).foldl (fun u m => u.lineBack p m) s = u at *
  refine ⟨?_, kept⟩
  unfold fcLines setLines
  rw [SMap.get_put_self]
  exact List.mem_cons_self ..

/-- The results that a head brings. -/
def brought (p : Nat) (h : Parked) (bad : List Nat) : List (Nat × Option Found) :=
  (s.pierImg p).prog.stages.zipIdx.filterMap fun st => match st.1.lookup with
    | some (.flow _) => if bad.contains st.2 then none else some (st.2, h.flow.map fun r => flowFound r.2.2 h.pkt.srcHi)
    | _ => none

/-- The heads that go with one. -/
def goesWith (h g : Parked) : Bool := g.pkt.hash == h.pkt.hash && flowKey g.pkt.tuple == flowKey h.pkt.tuple

/-- The passes of the heads that waited behind one. -/
theorem caches_behind (p : Nat) (results : List (Nat × Option Found)) (l : List Parked) :
    Caches s (l.foldl (fun u g => (u.runPass { p := p, f := g.pkt, given := results } [] {}).1) s) :=
  caches_foldl s (fun u _ => (goes_runPass u _ []).1) l

/-- The first pass, and what fills the line. -/
def filled (u : State) (x : Pass) (p : Nat) (h : Parked) : State :=
  if h.stale || x.parse.cause != 0 || Ecc.ok == .uncorrected then u
  else u.fcFill p { hash := h.pkt.hash, key := flowKey h.pkt.tuple, slot := h.flow.map fun r => (r.1, r.2.1), results := x.results,
                    gens := x.used.map fun t => (t, SMap.get 0 u.gens (tabKey p t)) }

theorem filled_keeps (u : State) (x : Pass) (p : Nat) (h : Parked) : (filled u x p h).missBuf = u.missBuf := by
  unfold filled
  split
  · rfl
  · exact (fcFill_puts ..).2

theorem filled_puts (u : State) {x : Pass} (p : Nat) {h : Parked} (current : h.stale = false) (good : x.parse.cause = 0) :
    ∃ l ∈ (filled u x p h).fcLines (fcSet p h.pkt.hash), l.hash = h.pkt.hash ∧ l.key = flowKey h.pkt.tuple := by
  unfold filled
  rw [current, good, if_neg (by decide)]
  exact ⟨_, (fcFill_puts ..).1, rfl, rfl⟩

theorem results_return {p : Pier} {k : Fin 512} {h : Parked} (at_ : (s.parked p.val)[k.val]? = some h) (first : h.follow = false) :
    ∃ t, exec (.missResultsReturn p k [] {}) s = .next t ∧ t.parked p.val = (s.parked p.val).filter (fun g => !goesWith h g) ∧
      (h.stale = false → (parseFrame (s.pierImg p.val).ingress (checked h.pkt)).cause = 0 → ∃ x ∈ t.fcLines (fcSet p.val h.pkt.hash),
        x.hash = h.pkt.hash ∧ x.key = flowKey h.pkt.tuple) := by
  obtain ⟨same, cause⟩ := goes_runPass (s.setParked p.val ((s.parked p.val).filter fun g => !goesWith h g)) { p := p.val, f := h.pkt, given := brought s p.val h [] } []
  have runs : exec (.missResultsReturn p k [] {}) s = .next (((s.parked p.val).filter fun g => g.follow && goesWith h g).foldl
      (fun u g => (u.runPass { p := p.val, f := g.pkt, given :=
        ((s.setParked p.val ((s.parked p.val).filter fun g => !goesWith h g)).runPass { p := p.val, f := h.pkt, given := brought s p.val h [] } [] {}).2.results } [] {}).1)
      (filled ((s.setParked p.val ((s.parked p.val).filter fun g => !goesWith h g)).runPass { p := p.val, f := h.pkt, given := brought s p.val h [] } [] {}).1
        ((s.setParked p.val ((s.parked p.val).filter fun g => !goesWith h g)).runPass { p := p.val, f := h.pkt, given := brought s p.val h [] } [] {}).2 p.val h)) := by
    show execMissResultsReturn p k [] {} s = _
    unfold execMissResultsReturn
    rw [at_]
    dsimp only
    rw [first]
    rfl
  generalize (s.setParked p.val ((s.parked p.val).filter fun g => !goesWith h g)).runPass { p := p.val, f := h.pkt, given := brought s p.val h [] } [] {} = r at *
  have behind := caches_behind (filled r.1 r.2 p.val h) p.val r.2.results ((s.parked p.val).filter fun g => g.follow && goesWith h g)
  refine ⟨_, runs, ?_, fun current good => ?_⟩
  · have kept := (behind.parked.trans (filled_keeps ..)).trans same.parked
    exact (congrArg (fun q => SMap.get [] q p.val) kept).trans (parked_setParked ..)
  · unfold fcLines
    rw [behind.lines]
    exact filled_puts r.1 p.val current (cause.trans good)

theorem follower_waits {p : Pier} {k : Fin 512} {h : Parked} (at_ : (s.parked p.val)[k.val]? = some h) (follows : h.follow = true) :
    exec (.missResultsReturn p k [] {}) s = .next s := by
  show execMissResultsReturn p k [] {} s = _
  unfold execMissResultsReturn
  rw [at_]
  dsimp only
  rw [follows]
  rfl

/-! ### Frames back from decryption (R363, R364) -/

/-- The frames in the ESP lanes and those that re-enter are the same. -/
structure Lanes (s t : State) : Prop where
  lane : t.espLane = s.espLane
  reentry : t.reentry = s.reentry

theorem Lanes.trans {s t u : State} (first : Lanes s t) (then_ : Lanes t u) : Lanes s u := ⟨then_.lane.trans first.lane, then_.reentry.trans first.reentry⟩

theorem lanes_refl : Lanes s s := ⟨rfl, rfl⟩

theorem lanes_signals {t : State} (h : Signals.SignalsOnly s t) : Lanes s t := ⟨(congrArg State.espLane h :), (congrArg State.reentry h :)⟩

theorem lanes_bump (f : Fld) (i k : Nat) : Lanes s (s.bump f i k) := ⟨rfl, rfl⟩

theorem lanes_setSa (i : Nat) (a : Sa) : Lanes s (s.setSa i a) := ⟨rfl, rfl⟩

theorem lanes_setReg (r : Reg) (i : Nat) (w : Word) : Lanes s (s.setReg r i w) := ⟨rfl, rfl⟩

theorem lanes_ite {s u v : State} {c : Prop} [Decidable c] (yes : Lanes s u) (no : Lanes s v) : Lanes s (if c then u else v) := by
  split
  · exact yes
  · exact no

theorem lanes_pair {A : Type} {s : State} {a b : A × State} {c : Prop} [Decidable c] (yes : Lanes s a.2) (no : Lanes s b.2) : Lanes s (if c then a else b).2 := by
  split
  · exact yes
  · exact no

theorem lanes_raise (source code detail : Nat) : Lanes s (s.raise source code detail) := lanes_signals s (Signals.signals_raise ..)

theorem lanes_cipEvt (b : Nat) : Lanes s (s.cipEvt b) := lanes_signals s (Signals.signals_setEvt ..)

theorem lanes_cipCapture (i unit cause : Nat) : Lanes s (s.cipCapture i unit cause) := by
  unfold cipCapture
  split
  · exact lanes_refl s
  · exact lanes_setReg ..

theorem lanes_saFault (i unit cause : Nat) : Lanes s (s.saFault i unit cause) := by
  have faulted : Lanes s (if (s.sa i).state = 1 ∨ (s.sa i).state = 2 then s.setSa i (s.sa i).faulted else s) := lanes_ite (lanes_setSa ..) (lanes_refl s)
  exact (((faulted.trans (lanes_bump ..)).trans (lanes_cipCapture ..)).trans (lanes_cipEvt ..)).trans (lanes_raise ..)

theorem lanes_cipCheck (c : CipFault) (i unit : Nat) : Lanes s (s.cipCheck c i unit).2 := by
  unfold cipCheck
  cases c with
  | none => exact lanes_refl s
  | corrected =>
    dsimp only
    exact (lanes_bump s F.CIP_STORE_ERR_CE 0 1).trans (lanes_raise ..)
  | mismatch =>
    have told : Lanes s (((s.bump F.CIP_DUP_CNT_MISMATCH 0).cipCapture i unit 1).cipEvt 2) :=
      ((lanes_bump ..).trans (lanes_cipCapture ..)).trans (lanes_cipEvt ..)
    dsimp only
    exact told.trans (lanes_raise ..)
  | keyStore => exact lanes_saFault ..
  | stateCopies => exact lanes_saFault ..

theorem lanes_saCount (i n : Nat) : Lanes s (s.saCount i n) := by
  unfold saCount countPair
  exact lanes_ite (lanes_refl s) ⟨rfl, rfl⟩

theorem lanes_espDecrypt (p i : Nat) (f : Pkt) (c : CipFault) : Lanes s (s.espDecrypt p i f c).2 := by
  unfold espDecrypt
  rcases outerIp f.bytes with _ | ⟨off, hdr, nhAt, v6⟩
  · exact lanes_bump ..
  · have made := lanes_cipCheck s c i p
    dsimp only
    generalize s.cipCheck c i p = r at *
    refine lanes_pair (lanes_bump ..) (lanes_pair (lanes_bump ..) (lanes_pair (lanes_bump ..) (lanes_pair (lanes_setSa ..) (lanes_pair (lanes_refl s)
      (lanes_pair made ?_)))))
    have judged (good : Prop) [Decidable good] : Lanes s (if good then r.2 else r.2.setSa i { s.sa i with authErr := satAdd 32 (s.sa i).authErr 1 }) :=
      lanes_ite made (made.trans (lanes_setSa ..))
    exact lanes_pair (judged _) (lanes_pair ((judged _).trans (lanes_bump ..)) ((lanes_ite ((judged _).trans (lanes_setSa ..)) (judged _)).trans (lanes_saCount ..)))

/-- A frame without buffers and entry leaves nothing behind. -/
theorem dropPkt_nothing {u : State} {f : Pkt} (head : f.head = none) (entry : f.entry = none) (code : Nat) : u.dropPkt f code = u := by
  unfold dropPkt releaseOpt
  rw [head, entry]

/-- The frame as it re-enters. -/
def reentered (g : Pkt) : Pkt :=
  { bytes := g.bytes, mac := g.mac, time := g.time, frac := g.frac, trunc := g.trunc, decrypted := true, authFail := g.authFail, hash := g.hash, vlan := g.vlan,
    tc := g.tc, head := g.head, fcs := g.fcs, tuple := g.tuple, srcHi := g.srcHi, verified := true }

/-- The state without the lane's first frame. -/
def laneTaken (p : Nat) (rest : List Pkt) : State := { s with espLane := SMap.put [] s.espLane p rest }

section
variable {s} {p : Pier} {f : Pkt} {rest : List Pkt} (c : CipFault) (at_ : SMap.get [] s.espLane p.val = f :: rest)
include at_

theorem decrypt_returns {g : Pkt} (good : ((laneTaken s p.val rest).espDecrypt p.val ((f.saFrame.getD 0).toNat) f c).1 = some g) :
    ∃ t, exec (.decryptReturn p c) s = .next t ∧ SMap.get [] t.espLane p.val = rest ∧ SMap.get [] t.reentry p.val = SMap.get [] s.reentry p.val ++ [reentered g] := by
  have lanes := lanes_espDecrypt (laneTaken s p.val rest) p.val ((f.saFrame.getD 0).toNat) f c
  have runs : exec (.decryptReturn p c) s = .next (match (laneTaken s p.val rest).espDecrypt p.val ((f.saFrame.getD 0).toNat) f c with
      | (none, u) => u.dropPkt f 12
      | (some g, u) => { u with reentry := SMap.put [] u.reentry p.val (SMap.get [] u.reentry p.val ++ [reentered g]) }) := by
    show execDecryptReturn p c s = _
    unfold execDecryptReturn
    rw [at_]
    rfl
  generalize (laneTaken s p.val rest).espDecrypt p.val ((f.saFrame.getD 0).toNat) f c = r at *
  obtain ⟨o, u⟩ := r
  obtain rfl : o = some g := good
  obtain ⟨lane, reentry⟩ := lanes
  refine ⟨_, runs, ?_, ?_⟩
  · exact (congrArg (fun q => SMap.get [] q p.val) lane).trans (SMap.get_put_self ([] : List Pkt) s.espLane p.val rest)
  · have same : SMap.get [] u.reentry p.val = SMap.get [] s.reentry p.val := congrArg (fun q => SMap.get [] q p.val) reentry
    exact (SMap.get_put_self ([] : List Pkt) u.reentry p.val _).trans (congrArg (· ++ [reentered g]) same)

theorem decrypt_drops (bad : outerIp f.bytes = none) (head : f.head = none) (entry : f.entry = none) :
    exec (.decryptReturn p c) s = .next ((laneTaken s p.val rest).bump F.CIP_FORMAT_CNT_COUNT 0) := by
  have formats : (laneTaken s p.val rest).espDecrypt p.val ((f.saFrame.getD 0).toNat) f c = (none, (laneTaken s p.val rest).bump F.CIP_FORMAT_CNT_COUNT 0) := by
    unfold espDecrypt
    rw [bad]
  show execDecryptReturn p c s = _
  unfold execDecryptReturn
  rw [at_]
  dsimp only
  change Host.Outcome.next (match (laneTaken s p.val rest).espDecrypt p.val ((f.saFrame.getD 0).toNat) f c with | (none, u) => _ | (some g, u) => _) = _
  rw [formats]
  exact congrArg Host.Outcome.next (dropPkt_nothing head entry 12)

end

/-! ### The egress pipeline (R210, R263, R278) -/

section
variable {s} {p : Pier} (e : PassEcc) (c : CipFault)

theorem egress_idles {q : QueueId} (none_ : (s.queue q.val).isTx = false ∨ (s.queue q.val).bind ≠ p.val ∨ s.txReady q.val = none) :
    exec (.egressPass p (some q) e c) s = .next s := by
  show execEgressPass p (some q) e c s = _
  unfold execEgressPass
  split
  · rfl
  · dsimp only
    split
    · rfl
    · next turn =>
      have ready : s.txReady q.val = none := by
        rcases none_ with other | away | ready
        · exact absurd (by rw [other]; rfl) turn
        · exact absurd (by rw [bne_iff_ne.2 away, Bool.or_true]) turn
        · exact ready
      rw [ready]

variable {f : Pkt} {rest : List Pkt} (on : s.egressHeld p.val = false)
include on

theorem egress_takes (turn : s.pipeBusy p.val (16 + 65536) = false) (at_ : s.egressOf p.val = f :: rest) :
    exec (.egressPass p none e c) s = .next ((s.setEgress p.val rest).egressPass p.val f e c) := by
  show execEgressPass p none e c s = _
  unfold execEgressPass
  rw [on]
  have open_ : ¬(false || s.pipeBusy p.val (16 + ((none : Option QueueId).map Fin.val).getD 65536)) = true := by
    rw [Bool.false_or]
    exact Bool.eq_false_iff.1 turn
  rw [if_neg open_]
  dsimp only
  rw [at_]

end

theorem egressOf_setEgress (p : Nat) (l : List Pkt) : (s.setEgress p l).egressOf p = l := SMap.get_put_self ..

theorem pass_unplaced {p : Nat} {f : Pkt} (none_ : f.tmsq = none) (e : PassEcc) (c : CipFault) : s.egressPass p f e c = s.dropPkt f 12 := by
  unfold egressPass
  rw [none_]

/-- A program without stages does nothing to a frame. -/
theorem police_none {x : Pass} (none_ : x.police = none) : s.passPolice x = (some x.f.colour, s) := by
  unfold passPolice
  rw [none_]

theorem rewritten_same {x : Pass} (none_ : x.wrote = []) : rewritten x = x.f.bytes := by
  have copied : (x.parse.copied.filter fun c : Nat × Nat × Nat => x.wrote.any fun w => decide (c.2.2 < w.1 + w.2 ∧ w.1 < c.2.2 + (c.2.1 + 7) / 8)) = [] := by
    rw [none_]
    exact List.filter_eq_nil_iff.2 fun _ _ => Bool.false_ne_true
  unfold rewritten deparse
  dsimp only
  rw [copied]
  rfl

theorem tunnel_same {x : Pass} (wrote : x.wrote = []) (decap : x.decap = 0) (encap : x.encap = none) (max : Option Nat) :
    s.tunnel x false max = (.ok x.f.bytes, s) := by
  unfold tunnel
  dsimp only
  rw [encap, if_pos decap]
  dsimp only
  rw [if_neg Bool.false_ne_true, rewritten_same wrote]

/-- A frame that its class's program leaves as it is goes to its TMS queue. -/
theorem pass_unchanged {p wq : Nat} {f : Pkt} (c : CipFault) (placed : f.tmsq = some wq) (entry : f.entry = none) (csum : f.csum = false)
    (good : (parseFrame (s.pierImg p).egress f).cause = 0) (none_ : (s.pierImg p).eprog.stages = []) :
    s.egressPass p f {} c = ((s.epoch .macRxOrChecked .MAC_CTL (s.portOf p wq)).storeFrame f).tmsPut p wq f := by
  have image : (s.epoch .macRxOrChecked .MAC_CTL (s.portOf p wq)).pierImg p = s.pierImg p := rfl
  unfold egressPass
  rw [placed, entry]
  dsimp only
  generalize s.epoch .macRxOrChecked .MAC_CTL (s.portOf p wq) = u at *
  rw [image]
  generalize hr : parseFrame (s.pierImg p).egress f = r at *
  rw [if_neg (by simp), if_neg (by decide), if_neg (not_not_intro good)]
  split
  · rfl
  · unfold passEcc stagesSpm graphEcc
    dsimp only
    rw [image, none_]
    unfold stages
    dsimp only
    rw [if_neg (by simp), police_none u rfl]
    dsimp only
    rw [csum, Bool.and_false, tunnel_same u rfl rfl rfl]
    dsimp only
    rw [if_pos rfl]

theorem tmsPut_admits {p q : Nat} {f : Pkt} (room : f.colour = 2 ∨
    s.depth p q + f.len ≤ s.fld (if f.colour = 0 then F.TMS_Q_LIMIT_GREEN_KIB else F.TMS_Q_LIMIT_YELLOW_KIB) (nodeKey p 3 q) * 1024) :
    s.tmsPut p q f = s.setTq p q (s.tq p q ++ [f]) := by
  unfold tmsPut
  dsimp only
  generalize s.fld (if f.colour = 0 then F.TMS_Q_LIMIT_GREEN_KIB else F.TMS_Q_LIMIT_YELLOW_KIB) (nodeKey p 3 q) * 1024 = lim at *
  refine if_neg fun full => ?_
  rw [Bool.and_eq_true, Bool.and_eq_true, bne_iff_ne, decide_eq_true_iff] at full
  rcases room with red | fits
  · exact full.1.2 red
  · exact Nat.not_lt.2 fits full.2

theorem egress_passes {p : Pier} {wq : Nat} {f : Pkt} {rest : List Pkt} (c : CipFault) (on : s.egressHeld p.val = false)
    (turn : s.pipeBusy p.val (16 + 65536) = false) (at_ : s.egressOf p.val = f :: rest) (placed : f.tmsq = some wq) (entry : f.entry = none)
    (csum : f.csum = false) (good : (parseFrame (s.pierImg p.val).egress f).cause = 0) (none_ : (s.pierImg p.val).eprog.stages = [])
    (room : f.colour = 2 ∨ s.depth p.val wq + f.len ≤
      s.fld (if f.colour = 0 then F.TMS_Q_LIMIT_GREEN_KIB else F.TMS_Q_LIMIT_YELLOW_KIB) (nodeKey p.val 3 wq) * 1024) :
    ∃ t, exec (.egressPass p none {} c) s = .next t ∧ t.egressOf p.val = rest ∧ t.tq p.val wq = s.tq p.val wq ++ [f] := by
  have runs := egress_takes {} c on turn at_
  have taken : (s.setEgress p.val rest).egressOf p.val = rest := egressOf_setEgress s p.val rest
  have same : (s.setEgress p.val rest).pierImg p.val = s.pierImg p.val := rfl
  have queue : (s.setEgress p.val rest).tmsQ = s.tmsQ := rfl
  have limit (g : Fld) (i : Nat) (other : g.reg ≠ .MAC_CTL) (m : Nat) : ((s.setEgress p.val rest).epoch .macRxOrChecked .MAC_CTL m).fld g i = s.fld g i :=
    Fields.fld_epoch_other _ other
  generalize s.setEgress p.val rest = u at *
  rw [pass_unchanged u c placed entry csum (same ▸ good) (same ▸ none_)] at runs
  have queue' (m : Nat) : (u.epoch .macRxOrChecked .MAC_CTL m).tmsQ = u.tmsQ ∧ (u.epoch .macRxOrChecked .MAC_CTL m).egress = u.egress := ⟨rfl, rfl⟩
  generalize u.portOf p.val wq = m at *
  have limit' (g : Fld) (i : Nat) (other : g.reg ≠ .MAC_CTL) := limit g i other m
  obtain ⟨tms, egr⟩ := queue' m
  generalize u.epoch .macRxOrChecked .MAC_CTL m = v at *
  have only := rldOnly_storeFrame v f
  have tms' : (v.storeFrame f).tmsQ = s.tmsQ := ((congrArg State.tmsQ only :).trans tms).trans queue
  have egr' : (v.storeFrame f).egress = u.egress := (congrArg State.egress only :).trans egr
  have fields (g : Fld) (i : Nat) : (v.storeFrame f).fld g i = v.fld g i := by
    rw [only]
    rfl
  generalize v.storeFrame f = w at *
  have tq' : w.tq p.val wq = s.tq p.val wq := congrArg (fun q => SMap.get [] q (wq + 16384 * p.val)) tms'
  have room' : f.colour = 2 ∨ w.depth p.val wq + f.len ≤
      w.fld (if f.colour = 0 then F.TMS_Q_LIMIT_GREEN_KIB else F.TMS_Q_LIMIT_YELLOW_KIB) (nodeKey p.val 3 wq) * 1024 := by
    unfold depth at *
    rw [tq', fields, limit' _ _ (by split <;> decide)]
    exact room
  rw [tmsPut_admits w room'] at runs
  refine ⟨_, runs, ?_, ?_⟩
  · exact (congrArg (fun q => SMap.get [] q p.val) egr').trans taken
  · rw [tq']
    exact SMap.get_put_self ..

/-- A frame of no queue is gone. -/
theorem egress_drops {p : Pier} {f : Pkt} {rest : List Pkt} (e : PassEcc) (c : CipFault) (on : s.egressHeld p.val = false)
    (turn : s.pipeBusy p.val (16 + 65536) = false) (at_ : s.egressOf p.val = f :: rest) (none_ : f.tmsq = none) (entry : f.entry = none) (head : f.head = none) :
    exec (.egressPass p none e c) s = .next (s.setEgress p.val rest) := by
  have runs := egress_takes e c on turn at_
  rw [pass_unplaced _ none_, dropPkt_nothing head entry 12] at runs
  exact runs

/-- An entry that is handed on. -/
def handedOn (b : Begun) : Begun := { b with handed := true, head := none }

/-- An entry whose frame is dropped. -/
def droppedFor (bad : Bool) (b : Begun) : Begun := { b with causes := b.causes ++ [12] ++ (if bad then [5] else []), handed := false, head := none }

theorem begun_withBegun (q : Nat) (cell : BitVec 16) (g : Begun → Begun) : ((s.withBegun q cell g).queue q).begun =
    (s.queue q).begun.map fun b => if b.entry.cell = cell then g b else b := by
  have set : ∀ x : Queue, (s.setQueue q x).queue q = x := fun x => SMap.get_put_self ..
  unfold withBegun
  dsimp only
  rw [set]

section
variable {s} {p : Pier} {q : QueueId} {b : Begun} (e : PassEcc) (c : CipFault) (on : s.egressHeld p.val = false)
  (turn : s.pipeBusy p.val (16 + q.val) = false) (tx : (s.queue q.val).isTx = true) (here : (s.queue q.val).bind = p.val) (ready : s.txReady q.val = some b)
  (none_ : s.wireQueue p.val q.val = none) (head : b.head = none) (accts : (s.pierImg p.val).accts = [])
include on turn tx here ready none_ head accts

theorem egress_unplaced : exec (.egressPass p (some q) e c) s = .next (((s.withBegun q.val b.entry.cell handedOn).dropPkt (s.txFrame q.val b) 12)) := by
  have open_ : ¬(s.egressHeld p.val || s.pipeBusy p.val (16 + ((some q).map Fin.val).getD 65536)) = true := by
    rw [on, Bool.false_or]
    exact Bool.eq_false_iff.1 turn
  have mine : ¬(!(s.queue q.val).isTx || (s.queue q.val).bind != p.val) = true := by
    rw [tx, here, bne_self_eq_false]
    decide
  have free : (s.frameAcct p.val (s.txFrame q.val b)).isNone = true := by
    unfold frameAcct
    rw [accts]
    rfl
  have unplaced : (s.txFrame q.val b).tmsq = none := by
    refine Eq.trans ?_ none_
    rw [← here]
    rfl
  show execEgressPass p (some q) e c s = _
  unfold execEgressPass
  rw [if_neg open_]
  dsimp only
  rw [if_neg mine, ready]
  dsimp only
  rw [if_pos (by rw [free, Bool.or_true]), pass_unplaced _ unplaced]
  rfl

theorem entry_told : ∃ t, exec (.egressPass p (some q) e c) s = .next t ∧ ∀ x ∈ (t.queue q.val).begun, x.entry.cell = b.entry.cell →
    12 ∈ x.causes ∧ x.handed = false := by
  have runs := egress_unplaced e c on turn tx here ready none_ head accts
  have drops : (s.withBegun q.val b.entry.cell handedOn).dropPkt (s.txFrame q.val b) 12 =
      (s.withBegun q.val b.entry.cell handedOn).withBegun q.val b.entry.cell fun y => droppedFor y.bad y := by
    have none' : (s.txFrame q.val b).head = none := head
    unfold dropPkt releaseOpt
    rw [none']
    rfl
  refine ⟨_, runs, fun x named same => ?_⟩
  rw [drops, begun_withBegun] at named
  obtain ⟨y, -, is⟩ := List.mem_map.1 named
  have cell : y.entry.cell = b.entry.cell := by
    by_cases h : y.entry.cell = b.entry.cell
    · exact h
    · rw [if_neg h] at is
      rw [is]
      exact same
  rw [if_pos cell] at is
  rw [← is]
  exact ⟨by simp [droppedFor], rfl⟩

end

/-! ### O46 -/

/-- Settles O46: results fill the line and empty the miss buffer of the heads that wait for them (`results_return`), a frame back from decryption re-enters or is counted
and gone (`decrypt_returns`, `decrypt_drops`), and one that its program leaves as it is joins its TMS queue (`egress_passes`). -/
theorem framesThrough : Obligations.FramesThrough := by
  unfold Obligations.FramesThrough
  intro s p k h c f rest wq q e key plain limit turn u d
  refine ⟨fun at_ first => results_return s at_ first, fun at_ follows => follower_waits s at_ follows, fun at_ => ⟨fun g good => ?_, fun bad head entry => ?_⟩,
    fun on turn at_ placed entry csum good none_ room => egress_passes s c on turn at_ placed entry csum good none_ room,
    fun on turn at_ none_ entry head => ⟨_, egress_drops s e c on turn at_ none_ entry head, rfl, egressOf_setEgress ..⟩,
    fun none_ => egress_idles e c none_, fun b on turn tx here ready none_ head accts => entry_told e c on turn tx here ready none_ head accts⟩
  · obtain ⟨t, runs, lane, reentry⟩ := decrypt_returns c at_ good
    exact ⟨t, reentered g, runs, lane, reentry, rfl, rfl, rfl, rfl⟩
  · refine ⟨_, decrypt_drops c at_ bad head entry, rfl, fun r i other => ?_, Fields.fld_bump_self _ (by decide)⟩
    have apart : r ≠ .CIP_FORMAT_CNT ∨ i ≠ 0 := by
      by_cases same : r = .CIP_FORMAT_CNT
      · exact .inr fun zero => other (by rw [same, zero]; exact List.mem_singleton_self _)
      · exact .inl same
    exact reg_setFld_ne _ _ apart

end Sys2Proof.Machine.Through
end
